-- ==== Sys2Proof/Word.lean ====
section
/-!
DEFINITION. Widths the KF96 manual uses, and the one container of the model: a sparse table.
-/

namespace Sys2Proof

/-- A CSR register word (00 "Registers are 32 bits wide"). -/
abbrev W32 := BitVec 32

/-- A low/high register pair, an Oxvik register, a time (R6, R215, R279). -/
abbrev W64 := BitVec 64

/-- A byte. -/
abbrev Byte := BitVec 8

/-- A sparse table: pairs of an index and a value, indices strictly rising, and no pair whose value is the one an
unlisted index reads as. The value of an unlisted index is named by each reader (`Tab.get`). -/
abbrev Tab (α : Type) := List (Nat × α)

/-- Byte memory in the same canonical form; an unlisted byte reads zero. -/
abbrev Mem := Tab Byte

end Sys2Proof
end

