-- ==== Sys2Proof/Operand.lean ====
section
/-!
DEFINITION. The types of the commands' operands: masters, Oxvik instruction fields, messages, link training reports,
management messages and leaves.
-/

namespace Sys2Proof

/-- The masters of CSR accesses (R448). -/
inductive Master where
  | linkA
  | linkB
  | ctx (c : Nat)
  | tap
  | rom
deriving DecidableEq, Repr

/-- The fields of one 16-byte Oxvik instruction but its opcode, which the command's row names (Table OXM-5). -/
structure Ox where
  d : BitVec 4
  a : BitVec 4
  b : BitVec 4
  cond : BitVec 4
  mod : BitVec 8
  imm : BitVec 32
  B : BitVec 64
deriving DecidableEq, Repr

/-- Snoop type of a CXL.mem request (Table COH-3). -/
inductive Snp where
  | data | inv | cur | noop
deriving DecidableEq, Repr, Inhabited

/-- Atomic operations: Oxvik ATOM names all (R241); CXL.io and UIO have add, swap and cas (R180). -/
inductive AtomOp where
  | add | swap | cas | and | or | xor | umin | umax
deriving DecidableEq, Repr, Inhabited

/-- Completion status of CXL.io and UIO: success, Unsupported Request, completer abort. -/
inductive Cpl where
  | sc | ur | ca
deriving DecidableEq, Repr, Inhabited

/-- Back-invalidate snoop kinds (R177). -/
inductive BiSnp where
  | inv | data | cur
deriving DecidableEq, Repr, Inhabited

/-- A cache state granted or answered: invalid, shared, exclusive. -/
inductive CSt where
  | i | s | e
deriving DecidableEq, Repr, Inhabited

/-- The identity and capability fields whose values the manual gives (Tables SCOPE-3, FAB-10). -/
inductive Cap where
  | vendor | device | classCode | maxLinkSpeed | linkSpeeds | maxLinkWidth | flitMode | aspm | payload | margining | doe
  | cacheMemIo | flits | bi | pbrWidth | maxLds
deriving DecidableEq, Repr, Inhabited

/-- The entries of a pool device's CDAT (R167): the range, the latencies in ns, the bandwidths in MB/s. -/
inductive Cdat where
  | dsmasBase | dsmasLength | readLatency | writeLatency | readBandwidth | writeBandwidth
deriving DecidableEq, Repr, Inhabited

/-- Configuration fields of a vPPB that the manual names (R67, R68, R70, R71, R53, R73). (Log 5 DESIGN CHOICE.) -/
inductive CfgReg where
  | winBase | winLimit | maxPayload | dpcTrigEnable | dpcTrigStatus | acsControl | egressControl
  | powerController | slotStatus | mcastEnable (group : Nat) | secondaryBusReset | fixed (c : Cap) | cdat (d : Cdat) | other (offset : Nat)
deriving DecidableEq, Repr, Inhabited

/-- What a message asks or answers. (Log 5 DESIGN CHOICE.) -/
inductive MOp where
  | memRd (snp : Snp)          -- CXL.mem MemRd
  | memInv                     -- CXL.mem MemInv
  | memWr (snp : Snp)          -- CXL.mem MemWr; partial when its length is below 64
  | memClnEvct                 -- CXL.mem MemClnEvct
  | cacheRd | cacheWr          -- CXL.cache D2H
  | ioRd                       -- CXL.io MemRd
  | ioWr                       -- CXL.io MemWr, posted
  | ioAtom (op : AtomOp) (bytes : Nat)
  | ioCfgRd (v : Nat) (reg : CfgReg)
  | ioCfgWr (v : Nat) (reg : CfgReg) (val : Nat)
  | uioRd | uioWr | uioAtom (op : AtomOp) (bytes : Nat)
  | refresh                    -- a mover's refresh of one line, done at the home (R156)
  | biSnp (k : BiSnp)
  | memData (g : CSt) | memCmp (g : CSt)
  | ioCplD | ioCpl (st : Cpl) | uioCpl (st : Cpl)
  | go (err : Bool)
  | biRsp (st : CSt) | biConflict | biConflictAck
  | mgmt (kind : Nat)          -- management message (Table HIER-5)
deriving DecidableEq, Repr, Inhabited

/-- A message as decoded from a link (R77). `poison` has one entry for each 64 bytes of data, absent entries false.
(Log 5 DESIGN CHOICE.) -/
structure Msg where
  op : MOp
  addr : Nat := 0
  len : Nat := 64
  data : List Byte := []
  poison : List Bool := []
  tc : Nat := 0
  tag : Nat := 0
  srcPbr : Nat := 0
  dstPbr : Nat := 0
  slots : Nat := 1             -- 16-byte slots (CXL.mem, CXL.cache) or TLP bytes (CXL.io, UIO) on the link (R121)
  ld : Nat := 0                -- LD-ID on a link to an MLD
deriving DecidableEq, Repr, Inhabited

/-- Data cells of a message that an earlier flit began (R89): the message's tag, the bytes, their poison. -/
structure Cont where
  tag : Nat
  data : List Byte
  poison : List Bool := []
deriving DecidableEq, Repr

/-- One received flit: its messages in order, the credits the partner returns, and the bytes on the link. (Log 5 DESIGN CHOICE.) -/
structure Flit where
  msgs : List Msg
  conts : List Cont := []
  reqCredits : Nat := 0
  rspCredits : Nat := 0
  bytes : Nat := 256
deriving DecidableEq, Repr

/-- What stands behind a downstream-edge port (R57). -/
inductive DevKind where
  | none | type1 | type2 | type3 | mld (lds : Nat) | pcieEndpoint | pcieSwitch
deriving DecidableEq, Repr

/-- What training found at a partner (R51, R52, R60, R366 to R371). -/
structure Partner where
  cxl256 : Bool := false
  cxl68 : Bool := false
  pcieFlit : Bool := false
  pcie : Bool := false
  ifl : Bool := false
  bi : Bool := false
  maxRate : Nat := 5           -- highest rate code the partner supports, as PORT_CFG.max_rate
  eqRate : Nat := 5            -- highest rate code at which equalisation succeeds
  laneOk : BitVec 16 := 0xFFFF -- bit o: the lane at offset o locks and equalises
  reversed : Bool := false     -- the partner's logical lane 0 arrives at the highest offset
  inverted : BitVec 16 := 0    -- bit o: the training sets arrive inverted at offset o
  eqDsp : Bool := false        -- the partner acts as downstream port in equalisation
  multiCache : Bool := false   -- a root port that supports more than one CXL.cache device (R57)
  dev : DevKind := .none
  loopback : Bool := false
  reqCredits : Nat := 64
  rspCredits : Nat := 64
deriving DecidableEq, Repr

/-- What a DIMM population and its training report (R139 to R141). -/
structure Spd where
  dimms : Nat := 0
  readable : Bool := true
  mrdimm : Bool := false
  rdimm : Bool := true
  x4Org : Bool := true
  differ : Bool := false
  rates : List Nat := []       -- POOL_CTRL.rate codes the DIMMs list for the population
  units : Nat := 0             -- capacity of the channel in 256 MiB units
  trains : Bool := true
deriving DecidableEq, Repr

/-- The outcome of one symbol-ECC decode (R157). -/
inductive Ecc where
  | ok
  | corrected (device : Nat)
  | bad (device : Nat)         -- uncorrectable; device 0xF when not confined to one
deriving DecidableEq, Repr

/-- Where a Fabric Manager API request came from (R65). -/
inductive FmSrc where
  | sideband
  | port (p : Nat)
deriving DecidableEq, Repr

/-- IDE key-management messages (R62, R64). -/
inductive IdeMsg where
  | setKeys (epoch : Nat)
  | linkIdeForIo
deriving DecidableEq, Repr

/-- The names the internal memories of Table SVC-6 and Table OBS-8 have in a report of an error (R312 to R314). -/
inductive IMem where
  | portState | qpeState | contextState | moverState | poolController
  | bufferCell | sheetTable | deckleTable | dirState | dirTag
  | programStore | routeEntry | meterEntry | replicationGroup | takeItem | sharerEntry
  | paceHistory | errorLog | commandPort
deriving DecidableEq, Repr

/-- A management message (Table HIER-4): its header fields, its payload, and whether its tag verifies is decided by
Config over the bytes covered. -/
structure Mgmt where
  sender : Nat
  receiver : Nat
  epoch : BitVec 32
  sequence : BitVec 64
  payload : List Byte := []
  tag : List Byte := []
  last : Bool := false
deriving DecidableEq, Repr

/-- A tap operation's address space for a debug access (Table DKL-2). -/
inductive Space where
  | pool | fabric | ps | csr
deriving DecidableEq, Repr

/-- Strap pin levels at the release of a device reset (R431). (Log 3 DESIGN CHOICE.) -/
structure Straps where
  fabricMode : BitVec 3 := 0
  stackId : BitVec 3 := 0
  bootSrc : BitVec 2 := 0
  lanePolarityAuto : Bool := true
deriving DecidableEq, Repr

/-- The rails that monitors or losses name (Table PWR-2). -/
inductive Rail where
  | core | lane | lanea | ddr | io | v33
deriving DecidableEq, Repr

/-- The sources of a boot image (Table BOOT-7). -/
inductive ImgSrc where
  | a | b | host
deriving DecidableEq, Repr

/-- Units of a kind (Table OXI-21; kind 7: links). -/
def unitTotal (kind : Nat) : Nat := [96, 12, 16, 12, 32, 18, 72, 2].getD kind 0

/-- Whether a unit exists. -/
def unitExists (kind index : Nat) : Bool := index < unitTotal kind

end Sys2Proof
end

