-- ==== Sys2Proof/Syntax.lean ====
section
/-!
DEFINITION. The commands of the KF96: one constructor for each row of spec/opcode_table.json, with the row's operands. An Oxvik
instruction row carries the issuing context `c` (R212) and the instruction's fields `w` (R217).
-/

namespace Sys2Proof

/-- The commands. The docstring of a constructor is its row of the table: rule and summary. -/
inductive Instr where
  /-- R8: A CSR write to a register with no row of its own is applied according to its field access codes; reserved addresses are ignored and complete successfully. -/
  | regWriteGeneral (m : Master) (addr : Nat) (v : W32)
  /-- R6: A read of the low half of a 64-bit pair latches the high half for the same master, so the next high read comes from the same instant. -/
  | pairLowRead (m : Master) (addr : Nat)
  /-- R448: A write to the high half of a 64-bit pair applies the whole value, using the low half that the same master last wrote. -/
  | pairHighWrite (m : Master) (addr : Nat) (v : W32)
  /-- R77: A receive wheel slot of the QPE decodes one whole flit, resolves each message's destination, marks meter colour and writes its cells. -/
  | flitReceive (p : Nat) (f : Flit)
  /-- R95: A message is admitted into the central buffer if its queue threshold and free cells allow it, or else held in ingress staging with its credits kept. -/
  | messageAdmission (ing : Nat) (resp : Bool)
  /-- R96: A held message is retried in arrival order when free cells or the length of its blocking queue changes. -/
  | heldMessageRetry (ing : Nat) (resp : Bool)
  /-- R19: A request that carries an address reaches the centre and is checked against the deckle table before it is offered to the scheduler. -/
  | requestAtCentre (ing : Nat)
  /-- R127: When release room and egress credit allow, the output releases the next message into a VOQ in cadence, committed and excess order, using deficit round-robin. -/
  | egressSelection (out : Nat)
  /-- R91: The central scheduler samples requests, runs two grant and accept iterations, updates its pointers and moves one transfer per matched pair. -/
  | schedulerRound
  /-- R102: A send wheel slot of the egress QPE places message headers and data into a flit, with cut-through for CXL.mem and CXL.cache and whole-TLP sending for CXL.io. -/
  | flitSend (p : Nat)
  /-- R85: Messages held after a hash or bucket change are released once every earlier message to the group has reached its egress link. -/
  | repinningFenceRelease (g : Nat)
  /-- R107: A member copy of a replicated write completes or fails; the member may become stale, and the source's completion is decided by primary or quorum. -/
  | replicaMemberCompletion (wid member : Nat) (ok : Bool)
  /-- R106: A member copy receives no completion within CORE_RGRP_TMO.timeout_us, so the member fails the write and becomes stale. -/
  | replicaMemberTimeout (wid member : Nat)
  /-- R116: The read of a session's consumer index returns, and a waiting copy is written if it now fits, or else discarded. -/
  | mirrorConsumerReadDone (sess : Nat) (consumer : W64)
  /-- R123: A held red message is evaluated again once its peak bucket refills, and it proceeds green or yellow. -/
  | redMessageReevaluation (p : Nat)
  /-- R131: A cadence window opens at its offset after a delivered reference edge, so the schedule's messages become cadence messages. -/
  | cadenceWindowOpen (sch win : Nat)
  /-- R131: A cadence window closes after its length or at the next edge, and its list joins the participant list. -/
  | cadenceWindowClose (sch : Nat)
  /-- R134: Messages of a flow held by a schedule change are released once the old cadence list has drained. -/
  | cadenceFenceRelease (sch : Nat)
  /-- R138: At each sampling instant the output adds one depth sample and one head-delay sample per queue class. -/
  | histogramSample (out : Nat)
  /-- R138: A write of 1 to PORT_HIST_CFG.clear sets every histogram count of the output to zero. -/
  | histClear (out : Nat)
  /-- R101: A write of 1 to CORE_BUF_PEAK.clear restarts the peak at the present occupancy. -/
  | bufPeakClear
  /-- R31: A pace measurement window ends, and CORE_PACE_STATUS.pace takes the probe cycle count divided by the window length. -/
  | paceWindowEnd (probe amps : Nat)
  /-- R40: At each hour of housekeeping time, a summary entry is written to the pace-history ring and the age registers are updated. -/
  | paceHistoryHour (meanTj : Nat)
  /-- R34: A write to PWR_PACE_TARGET clamps and stores the target, and starts or stops the pace loop. -/
  | paceTargetWrite (v : W32)
  /-- R33: A write to CORE_PACE_CTRL sets the next window length, sets the floor or clears floor_alarm and restarts its low-window run. -/
  | paceCtrlWrite (v : W32)
  /-- R49: A PORT_CFG write that sets enable applies the other fields and starts training, or is refused with cfg_error. -/
  | portEnable (p : Nat) (v : W32)
  /-- R48: A PORT_CFG write that clears enable disables the port and idles its lanes, ignoring the other fields. -/
  | portDisable (p : Nat) (v : W32)
  /-- R50: A write to PORT_HP associates a slot, or is ignored with cfg_error when another port already holds the slot. -/
  | portHpWrite (p : Nat) (v : W32)
  /-- R51: Training ends and the link comes up in the negotiated mode, rate and width, or fails. -/
  | linkTrained (p : Nat) (r : Partner)
  /-- R51: A link that did not come up retries training after 100 ms while enable is 1. -/
  | trainingRetry (p : Nat)
  /-- R370: A link lost from L0, or whose Recovery fails, goes down and the port undergoes a port reset. -/
  | linkDown (p : Nat)
  /-- R68: A received ERR_FATAL or ERR_NONFATAL triggers DPC as the vPPB's DPC Trigger Enable selects. -/
  | errMessageReceived (p : Nat) (fatal : Bool)
  /-- R68: The tenant's host clears DPC Trigger Status, which releases the hold and lets the link train. -/
  | dpcStatusClearByHost (p : Nat)
  /-- R68: A Steward write of 1 to PORT_STATUS.dpc_trig releases the DPC hold. -/
  | dpcTrigClear (p : Nat)
  /-- R75: A partner's loopback request sets loopback_refused, and training continues without loopback. -/
  | loopbackRequestReceived (p : Nat) (insists : Bool)
  /-- R304: A hot reset received on a host-edge port causes a port reset of that port only. -/
  | hotResetReceived (p : Nat)
  /-- R304: A host write of Secondary Bus Reset resets the bound port, or is forwarded to an MLD as an LD reset. -/
  | secondaryBusReset (t v : Nat)
  /-- R456: A host write of Power Controller Control on a hot-plug vPPB sets PORT_HP_CMD pending and raises a Steward event. -/
  | hostPowerControlWrite (p : Nat) (off : Bool)
  /-- R456: A Steward write of 1 to hp_refuse refuses the pending host power request and sets Command Completed. -/
  | hpRefuse (p : Nat)
  /-- R73: A host enables a multicast group, which is backed by a replication group or stays inactive with the event logged. -/
  | hostMcEnableWrite (t g : Nat)
  /-- R62: A CXL IDE key-management message over DOE sets up keys, or refuses a link IDE stream for CXL.io. -/
  | ideKeyManagement (p : Nat) (k : IdeMsg)
  /-- R63: A MAC failure takes the IDE stream out of Secure, poisons buffered cells in skid mode and resets the port. -/
  | ideMacFailure (p : Nat)
  /-- R65: The Fabric Manager API command 0x5100 returns switch identity. -/
  | fmIdentifySwitchDevice (src : FmSrc)
  /-- R65: The Fabric Manager API command 0x5101 returns physical port state. -/
  | fmGetPhysicalPortState (src : FmSrc) (p : Nat)
  /-- R65: The Fabric Manager API command 0x5102 resets or enables a port. -/
  | fmPhysicalPortControl (src : FmSrc) (p op : Nat)
  /-- R65: The Fabric Manager API command 0x5103 performs a PPB configuration access. -/
  | fmSendPpbConfigRequest (src : FmSrc) (t v : Nat) (reg : CfgReg) (write : Bool) (val : Nat)
  /-- R65: The Fabric Manager API command 0x5200 returns virtual switch information. -/
  | fmGetVirtualSwitchInfo (src : FmSrc) (t : Nat)
  /-- R56: The Fabric Manager API command 0x5201 binds a vPPB as BIND does, or returns Busy. -/
  | fmBindVppb (src : FmSrc) (imm : W32) (B : W64)
  /-- R56: The Fabric Manager API command 0x5202 unbinds a vPPB as UNBIND does, or returns Busy. -/
  | fmUnbindVppb (src : FmSrc) (imm : W32) (B : W64)
  /-- R65: The Fabric Manager API command 0x5203 signals an AER event to the tenant. -/
  | fmGenerateAerEvent (src : FmSrc) (t line : Nat)
  /-- R65: The Fabric Manager API command 0x5300 forwards a management command to the MLD. -/
  | fmTunnelManagementCommand (src : FmSrc) (p : Nat) (bytes : List Byte)
  /-- R65: The Fabric Manager API command 0x5301 forwards an LD configuration request. -/
  | fmSendLdConfigRequest (src : FmSrc) (p ld : Nat) (bytes : List Byte)
  /-- R65: The Fabric Manager API command 0x5302 forwards an LD memory request. -/
  | fmSendLdMemoryRequest (src : FmSrc) (p ld : Nat) (bytes : List Byte)
  /-- R65: An FM API request with any other opcode returns Unsupported. -/
  | fmUnsupportedOpcode (src : FmSrc) (opcode : Nat)
  /-- R141: Setting POOL_CH_CTRL.enable starts SPD reading, the check and training of the channel. -/
  | poolChEnable (ch : Nat)
  /-- R141: SPD check and training end, and the channel enters trained or failed with its fail_code. -/
  | channelTrainingDone (ch : Nat) (spd : Spd)
  /-- R142: Clearing POOL_CH_CTRL.enable takes the channel out of service with its outputs safe, unless it is in an enabled group. -/
  | poolChDisable (ch : Nat)
  /-- R141: A write of 1 to init_start in state trained starts zero-initialisation of every line of the channel. -/
  | initStart (ch : Nat)
  /-- R141: Initialisation of the channel ends and the channel enters ready. -/
  | channelInitDone (ch : Nat)
  /-- R143: A trained channel that stops responding, or keeps a CA parity error, enters failed with fail_code 0x09. -/
  | channelLost (ch : Nat)
  /-- R146: Enabling a group puts its ready member channels into grouped, or sets refused. -/
  | poolGrpEnable (g : Nat) (v : W32)
  /-- R146: Disabling a group returns its members to ready and clears its slot map, unless a sheet names the group. -/
  | poolGrpDisable (g : Nat) (v : W32)
  /-- R148: Setting POOL_CTRL.open opens the pool, or sets open_err when no group is enabled. -/
  | poolOpen
  /-- R148: Clearing POOL_CTRL.open closes the pool, or sets open_err while any Sheet Table entry is valid. -/
  | poolClose
  /-- R158: A DDR5 read returns and is delivered corrected, repaired from a mirror copy or poisoned, and logged. -/
  | dramReadDone (line : Nat) (prim sec : Ecc)
  /-- R159: A write of ce_clear invalidates the correctable-error log and zeroes ce_ovf. -/
  | ceLogClear (ch : Nat)
  /-- R160: A write of ue_clear invalidates the uncorrectable-error log and zeroes ue_ovf. -/
  | ueLogClear (ch : Nat)
  /-- R164: In an idle command slot within max_share, the scrubber reads the next line, writes back corrections and handles uncorrectable lines. -/
  | scrubRead (ch : Nat) (here other : Ecc)
  /-- R149: A write to POOL_SHT_SEL loads the selected Sheet Table entry into POOL_SHT_DATA. -/
  | sheetSelectWrite (v : W32)
  /-- R177: A shared read taken at the home reads the line, adds a directory pointer or O, and grants S. -/
  | homeRds (ch : Nat)
  /-- R177: An exclusive read taken at the home invalidates other sharers and grants E. -/
  | homeRde (ch : Nat)
  /-- R177: A non-caching read taken at the home reads the line, snooping an E owner for current data. -/
  | homeRdnc (ch : Nat)
  /-- R177: A non-caching write taken at the home invalidates holders, writes or merges the line and leaves it I. -/
  | homeWrnc (ch : Nat)
  /-- R181: A dirty eviction is written and frees the owner's entry, or runs as WrNC logged as a late writeback. -/
  | homeEvd (ch : Nat)
  /-- R182: A clean eviction drops the sharer's pointer or frees the entry. -/
  | homeEvc (ch : Nat)
  /-- R180: An atomic on a pool line recalls every host copy, then reads, computes, writes and returns the original value. -/
  | homeAtom (ch : Nat)
  /-- R177: A back-invalidate snoop response arrives, and when all are in the transaction enters its next state and completes. -/
  | biResponse (line sharer : Nat) (st : CSt) (data : List Byte)
  /-- R179: A host's BIConflict is answered at once with BIConflictAck, and the host's request keeps its place. -/
  | biconflictReceived (line sharer : Nat)
  /-- R189: A snoop unanswered within TEN_COH.timeout_ms declares its sharer dead. -/
  | snoopTimeout (line sharer : Nat)
  /-- R192: A directory walk and the recalls or poison writes it started complete. -/
  | directoryWalkDone (t : Nat)
  /-- R193: Writing 1 to DIR_ERR_SEL bit 31 clears the directory error log. -/
  | dirLogClear
  /-- R193: Writing DIR_HT_STATUS.peak_clear restarts the tracker peak at the present count. -/
  | trackerPeakClear
  /-- R206: A debug master access is checked as a Steward access and against locked regions, returning zeros or discarding writes where locked. -/
  | debugAccess (sp : Space) (addr pbr : Nat) (write : Bool) (v : W64)
  /-- R211: Writing 1 to DKL_ERR_SEL bit 31 clears the deckle log. -/
  | deckleLogClear
  /-- R224: A write to RING_TAIL sets a ring's tail, or is ignored and logged when out of range. -/
  | ringDoorbell (m : Master) (c r tail : Nat)
  /-- R225: An idle context fetches the next entry of its rings in rotation and runs it. -/
  | ringEntryFetch (c : Nat) (wordA wordB : W64)
  /-- R228: A host write to CQ_HEAD frees completion ring slots and re-arms the completion vector. -/
  | cqHeadWrite (c : Nat) (v : W32)
  /-- R227: A context waiting for a completion ring slot writes its held records and resumes issue. -/
  | completionRingRoom (c : Nat)
  /-- R228: A read of CTX_STATE returns the context status and re-arms the event vector. -/
  | ctxStateRead (c : Nat)
  /-- R234: A write of 1 to CTX_RESUME resumes a halted or faulted context at the point its stop defines. -/
  | ctxResumeWrite (c : Nat) (v : W32)
  /-- R238: A write of halt_req halts the context after its current instruction, or abandons its wait. -/
  | haltRequest (c : Nat)
  /-- R216: A Steward write through SEQ_CTX_KDATA sets a register, PC or the flags of a halted or faulted context, and is ignored otherwise. -/
  | contextRegisterWrite (c : Nat) (v : W64)
  /-- R221: A BAR4 write replaces whole aligned instructions in the program store in one step. -/
  | programStoreWrite (m : Master) (off : Nat) (bytes : List Byte)
  /-- R235: An undefined opcode faults its context with ILLEGAL. -/
  | undefinedOpcode (c : Nat) (opcode : BitVec 8) (w : Ox)
  /-- R235: The instruction retires with no effect. -/
  | nop (c : Nat) (w : Ox)
  /-- R238: The context enters halted. -/
  | halt (c : Nat) (w : Ox)
  /-- R235: PC is set to an absolute target. -/
  | jump (c : Nat) (w : Ox)
  /-- R219: PC moves by a relative offset when the condition holds. -/
  | br (c : Nat) (w : Ox)
  /-- R227: The next PC is pushed and control moves to the target. -/
  | call (c : Nat) (w : Ox)
  /-- R227: PC is popped, and the completion record of a CALL that carried /cr is posted. -/
  | ret (c : Nat) (w : Ox)
  /-- R229: The context waits for, or polls, pending events in a mask and clears those it returns. -/
  | waitev (c : Nat) (w : Ox)
  /-- R229: An awaited event latches, so a waiting WAITEV retires with EVP AND m. -/
  | waitSatisfied (c : Nat)
  /-- R230: An event line is raised in a target context. -/
  | signal (c : Nat) (w : Ox)
  /-- R230: The context's EVM is returned and replaced. -/
  | signalMask (c : Nat) (w : Ox)
  /-- R231: The context waits until its earlier stores, moves or armed takes are complete. -/
  | fence (c : Nat) (w : Ox)
  /-- R213: The context's issue turn ends. -/
  | yield (c : Nat) (w : Ox)
  /-- R235: A 64-bit immediate is written to kd. -/
  | movi (c : Nat) (w : Ox)
  /-- R235: k[a] is copied to kd. -/
  | mov (c : Nat) (w : Ox)
  /-- R239: The sum is written to kd, with flags under /f. -/
  | add (c : Nat) (w : Ox)
  /-- R239: The difference is written to kd, with flags under /f. -/
  | sub (c : Nat) (w : Ox)
  /-- R239: The low 64 bits of the product are written to kd. -/
  | mul (c : Nat) (w : Ox)
  /-- R235: The high 64 bits of the unsigned product are written to kd. -/
  | mulhu (c : Nat) (w : Ox)
  /-- R239: The unsigned quotient is written to kd. -/
  | divu (c : Nat) (w : Ox)
  /-- R239: The unsigned remainder is written to kd. -/
  | remu (c : Nat) (w : Ox)
  /-- R239: The bitwise AND is written to kd. -/
  | and (c : Nat) (w : Ox)
  /-- R239: The bitwise OR is written to kd. -/
  | or (c : Nat) (w : Ox)
  /-- R239: The bitwise XOR is written to kd. -/
  | xor (c : Nat) (w : Ox)
  /-- R239: The left shift is written to kd. -/
  | shl (c : Nat) (w : Ox)
  /-- R239: The logical right shift is written to kd. -/
  | shr (c : Nat) (w : Ox)
  /-- R239: The arithmetic right shift is written to kd. -/
  | sar (c : Nat) (w : Ox)
  /-- R239: The flags of k[a] minus s are set. -/
  | cmp (c : Nat) (w : Ox)
  /-- R239: The flags of k[a] AND s are set. -/
  | tst (c : Nat) (w : Ox)
  /-- R235: The lesser of two values is written to kd. -/
  | min (c : Nat) (w : Ox)
  /-- R235: The greater of two values is written to kd. -/
  | max (c : Nat) (w : Ox)
  /-- R235: The count of leading zeros is written to kd. -/
  | clz (c : Nat) (w : Ox)
  /-- R235: The count of set bits is written to kd. -/
  | popc (c : Nat) (w : Ox)
  /-- R235: A bit field is extracted to kd. -/
  | bfx (c : Nat) (w : Ox)
  /-- R235: A bit field is inserted into kd. -/
  | bfi (c : Nat) (w : Ox)
  /-- R240: A memory load is issued in pool, fabric or program-store space. -/
  | ld (c : Nat) (w : Ox)
  /-- R242: Data for an LD, LDC or ATOM returns, so the instruction retires, or faults with ACCESS on poison or an error. -/
  | loadDataReturn (c : Nat)
  /-- R242: A memory store is accepted at the centre, and the instruction retires. -/
  | st (c : Nat) (w : Ox)
  /-- R240: A CSR register or pair is read. -/
  | ldc (c : Nat) (w : Ox)
  /-- R240: A CSR register or pair is written. -/
  | stc (c : Nat) (w : Ox)
  /-- R241: An atomic is issued on a pool or fabric location, returning the original value. -/
  | atom (c : Nat) (w : Ox)
  /-- R243: A vPPB is bound to a port, LD or PBR ID, or a sharer is registered. -/
  | bind (c : Nat) (w : Ox)
  /-- R243: A binding or sharer is removed, together with its fabric deckles. -/
  | unbind (c : Nat) (w : Ox)
  /-- R78: Route entries are written in the quires of a mask. -/
  | routeEntry (c : Nat) (w : Ox)
  /-- R80: The members of an equal-cost group are set. -/
  | routeMembers (c : Nat) (w : Ox)
  /-- R85: The bucket map of an equal-cost group is set as a take item. -/
  | routeBuckets (c : Nat) (w : Ox)
  /-- R83: CORE_HASH_SEED is set as a take item. -/
  | routeSeed (c : Nat) (w : Ox)
  /-- R83: CORE_HASH_CFG is set as a take item. -/
  | routeHash (c : Nat) (w : Ox)
  /-- R78: A route entry is read into kd. -/
  | routeRead (c : Nat) (w : Ox)
  /-- R104: The header of a kind-0 replication group is written. -/
  | mcastHeader (c : Nat) (w : Ox)
  /-- R104: A replication group member is written. -/
  | mcastMember (c : Nat) (w : Ox)
  /-- R109: A member moves from stale to rejoining, from rejoining to active, or to unused. -/
  | mcastState (c : Nat) (w : Ox)
  /-- R104: A replication group's header valid bit is cleared. -/
  | mcastFree (c : Nat) (w : Ox)
  /-- R110: The owner of a replication store partition is set. -/
  | mcastOwner (c : Nat) (w : Ox)
  /-- R104: A replication group word is read into kd. -/
  | mcastRead (c : Nat) (w : Ox)
  /-- R196: A deckle entry is written, subject to the overlap, lock and scope rules. -/
  | deckleWrite (c : Nat) (w : Ox)
  /-- R194: Both words of an unlocked deckle entry are zeroed. -/
  | deckleInvalidate (c : Nat) (w : Ox)
  /-- R204: The lock bit of a valid deckle entry is set. -/
  | deckleSetLock (c : Nat) (w : Ox)
  /-- R150: A Sheet Table entry becomes valid with owner and primary slot. -/
  | sheetGrant (c : Nat) (w : Ox)
  /-- R152: An unmirrored entry is invalidated and its slot is freed or retired. -/
  | sheetFree (c : Nat) (w : Ox)
  /-- R150: A secondary slot is attached and the sheet becomes filling. -/
  | sheetAttach (c : Nat) (w : Ox)
  /-- R150: A filling sheet becomes active. -/
  | sheetActivate (c : Nat) (w : Ox)
  /-- R150: The primary and secondary of an active sheet are exchanged. -/
  | sheetSwap (c : Nat) (w : Ox)
  /-- R150: A sheet's secondary is freed and mstate returns to none. -/
  | sheetDetach (c : Nat) (w : Ox)
  /-- R150: A slot of a sheet is marked to retire when it is freed. -/
  | sheetRetire (c : Nat) (w : Ox)
  /-- R186: A tenant's ream is set, and a shrink walks the directory before retiring. -/
  | sheetReam (c : Nat) (w : Ox)
  /-- R150: A Sheet Table entry is read into kd. -/
  | sheetQuery (c : Nat) (w : Ox)
  /-- R113: A mirror session is enabled after its checks, or refused. -/
  | mirrorEnable (c : Nat) (w : Ox)
  /-- R117: A session is disabled and its final producer index is written. -/
  | mirrorDisable (c : Nat) (w : Ox)
  /-- R112: CORE_MIR_LOST of a session is read into kd. -/
  | mirrorReadLost (c : Nat) (w : Ox)
  /-- R125: A meter is written, enabled or disabled, and disabling releases held red messages. -/
  | meterConfigure (c : Nat) (w : Ox)
  /-- R120: PORT_METER binds a port to meters. -/
  | meterBind (c : Nat) (w : Ox)
  /-- R126: A meter word is read into kd. -/
  | meterRead (c : Nat) (w : Ox)
  /-- R129: An egress queue's shaper is written and its buckets filled on enable. -/
  | shapeShaper (c : Nat) (w : Ox)
  /-- R118: PORT_PRIO of a lead port is written. -/
  | shapePriority (c : Nat) (w : Ox)
  /-- R128: A participant's DRR quantum is written. -/
  | shapeQuantum (c : Nat) (w : Ox)
  /-- R248: A schedule's control and match fields are written, and it is claimed if free. -/
  | cadenceConfigure (c : Nat) (w : Ox)
  /-- R248: A window's offset, length and G are written. -/
  | cadenceWindow (c : Nat) (w : Ox)
  /-- R132: A schedule is enabled after the window and reservation checks. -/
  | cadenceEnable (c : Nat) (w : Ox)
  /-- R134: A schedule is disabled, its open window closed and its ownership released. -/
  | cadenceDisable (c : Nat) (w : Ox)
  /-- R263: A copy descriptor is checked and started on a channel. -/
  | copy (c : Nat) (w : Ox)
  /-- R266: A gather descriptor is checked and started on a channel. -/
  | gather (c : Nat) (w : Ox)
  /-- R271: A reshape descriptor and shape table are checked and started on a channel. -/
  | reshape (c : Nat) (w : Ox)
  /-- R265: A fill descriptor is checked and started on a channel. -/
  | fill (c : Nat) (w : Ox)
  /-- R250: The channel status word is returned, optionally releasing an idle channel. -/
  | mvstat (c : Nat) (w : Ox)
  /-- R275: A standard channel stops new reads, drains and enters paused with exact state. -/
  | mvpause (c : Nat) (w : Ox)
  /-- R277: A move is aborted at a burst boundary or after draining, and its record is ABORTED. -/
  | mvabort (c : Nat) (w : Ox)
  /-- R276: A paused standard channel continues its move. -/
  | mvresume (c : Nat) (w : Ox)
  /-- R260: A running channel issues its next transfer of up to 256 bytes in the EN rotation, stopping on a refused line, an error or poison. -/
  | moveTransfer (ch : Nat)
  /-- R262: Every write of a move has been accepted or flushed, so status write-back, record and event 14 follow. -/
  | moveEnd (ch : Nat)
  /-- R43: Fabric time or the monotonic count is sampled into kd. -/
  | time (c : Nat) (w : Ox)
  /-- R28: The context waits until fabric time reaches t. -/
  | atWait (c : Nat) (w : Ox)
  /-- R229: The context's AT timer is set to raise event 12 at t. -/
  | atArm (c : Nat) (w : Ox)
  /-- R229: Fabric time reaches an AT time, so a waiting AT retires or event 12 is raised. -/
  | atTimerExpiry (c : Nat)
  /-- R284: The context waits for the next delivered edge of a reference. -/
  | waitframe (c : Nat) (w : Ox)
  /-- R279: A WAITFRAME timeout elapses, and the instruction retires with kd = 0. -/
  | waitframeTimeout (c : Nat)
  /-- R252: A take set becomes the context's staging set. -/
  | takeadd (c : Nat) (w : Ox)
  /-- R290: A take set is armed for an edge or a fabric time and starts preparation. -/
  | takearm (c : Nat) (w : Ox)
  /-- R252: A take set's items are removed and the set is disarmed and freed. -/
  | takedrop (c : Nat) (w : Ox)
  /-- R381: An off slot receives permission to start and enters wait_seat. -/
  | slotOn (c : Nat) (w : Ox)
  /-- R388: A slot is turned off. -/
  | slotOff (c : Nat) (w : Ox)
  /-- R387: A latched or pdf slot is cleared to off. -/
  | slotClear (c : Nat) (w : Ox)
  /-- R381: A slot's declared power is set. -/
  | slotDeclare (c : Nat) (w : Ox)
  /-- R254: The slot status word is read into kd. -/
  | slotStatus (c : Nat) (w : Ox)
  /-- R400: The device power cap is set. -/
  | budgetCap (c : Nat) (w : Ox)
  /-- R398: A consumer class limit, or the slot budget, is set. -/
  | budgetLimit (c : Nat) (w : Ox)
  /-- R398: A class's limit and granted charge are read into kd. -/
  | budgetRead (c : Nat) (w : Ox)
  /-- R34: The pace target is stored with clamping. -/
  | paceTarget (c : Nat) (w : Ox)
  /-- R35: The pace loop is enabled or disabled. -/
  | paceLoop (c : Nat) (w : Ox)
  /-- R31: CORE_PACE_STATUS is read into kd. -/
  | paceReadStatus (c : Nat) (w : Ox)
  /-- R35: PWR_VCORE_STATUS is read into kd. -/
  | paceReadVcore (c : Nat) (w : Ox)
  /-- R440: Every counter is frozen and copied to the shadow bank. -/
  | snapFreeze (c : Nat) (w : Ox)
  /-- R440: Counting resumes after a freeze. -/
  | snapRelease (c : Nat) (w : Ox)
  /-- R437: A counter or its shadow is read, or a counter selector is programmed. -/
  | count (c : Nat) (w : Ox)
  /-- R235: A software entry with fabric time is appended to the context's log. -/
  | log (c : Nat) (w : Ox)
  /-- R301: A tenant is created with its pool vPPB, context and empty ream. -/
  | tenantCreate (c : Nat) (w : Ox)
  /-- R302: A tenant is reset and removed, and its resources are released. -/
  | tenantRemove (c : Nat) (w : Ox)
  /-- R301: A tenant's snoop timeout is set. -/
  | tenantTimeout (c : Nat) (w : Ox)
  /-- R442: COUNTER_READ is granted or withdrawn for a tenant. -/
  | tenantCounterRead (c : Nat) (w : Ox)
  /-- R305: A port reset is started. -/
  | resetuPort (c : Nat) (w : Ox)
  /-- R305: A quire reset is started. -/
  | resetuQuire (c : Nat) (w : Ox)
  /-- R303: A tenant reset runs its ordered steps. -/
  | resetuTenant (c : Nat) (w : Ox)
  /-- R144: A pool channel reset is started with its DIMMs kept in self-refresh. -/
  | resetuPoolChannel (c : Nat) (w : Ox)
  /-- R395: A slot reset turns the slot off and clears its retries and latch. -/
  | resetuSlot (c : Nat) (w : Ox)
  /-- R305: A sequencer context reset is started. -/
  | resetuContext (c : Nat) (w : Ox)
  /-- R305: A data-mover channel reset ends its move with cause 0x8. -/
  | resetuMoverChannel (c : Nat) (w : Ox)
  /-- R415: A command-port reset of a link or the whole port is started. -/
  | resetuCommandPort (c : Nat) (w : Ox)
  /-- R190: A tenant's coherent domain is made to fall with cause 0b100. -/
  | resetuCoherentDomain (c : Nat) (w : Ox)
  /-- R305: A unit's internal reset ends, so it leaves reset or enters a hold, and a waiting RESETU retires. -/
  | unitResetEnd (kind index : Nat)
  /-- R310: A write to a hold entry holds a unit at its next reset, or releases a held unit. -/
  | glbHoldWrite (i : Nat) (v : W32)
  /-- R316: A quire's QPE work is handed to its group's spare. -/
  | couchToSpare (c : Nat) (w : Ox)
  /-- R316: A couched quire's work is returned to its home QPE. -/
  | couchHome (c : Nat) (w : Ox)
  /-- R316: The handover stall ends: wheels resume, QPE_STATE is written and COUCH retires. -/
  | couchHandoverEnd (q stallNs : Nat)
  /-- R318: The home QPE's self-test ends and sets bist_done and bist_pass. -/
  | qpeSelfTestEnd (q : Nat) (pass : Bool)
  /-- R208: The lifecycle state advances to Secured, or to Returned with a device reset. -/
  | lockLifecycle (c : Nat) (w : Ox)
  /-- R210: A key slot is revoked. -/
  | lockRevoke (c : Nat) (w : Ox)
  /-- R210: The minimum security version is raised. -/
  | lockSvn (c : Nat) (w : Ox)
  /-- R208: A key slot is fused, taking Blank to Open at the first fusing. -/
  | lockFuseKey (c : Nat) (w : Ox)
  /-- R209: A signed image is verified and loaded into the program store, or refused. -/
  | image (c : Nat) (w : Ox)
  /-- R234: A halted or faulted context is resumed by the Steward. -/
  | resume (c : Nat) (w : Ox)
  /-- R281: A qualified TIME_PPS edge is captured, its phase error reported, and fabric time is stepped, steered or loaded. -/
  | timePpsEdge (ageNs : Nat)
  /-- R282: No qualified PPS edge for 1.5 s sets pps_lost and holdover. -/
  | ppsLossTimeout
  /-- R283: A write of set_now loads TIME_SET into fabric time as a step. -/
  | setNow
  /-- R283: A write of set_at_pps schedules TIME_SET to load at the next qualified PPS edge. -/
  | setAtPps
  /-- R281: A change of TIME_CTRL.mode selects the discipline, loading I and clearing the lock state as required. -/
  | timeModeWrite (v : W32)
  /-- R280: A write to TIME_ADJ in software mode stores the clamped rate offset. -/
  | timeAdjWrite (v : W32)
  /-- R285: A qualified frame-reference edge is timestamped and locks the reference, is delivered, or marks a phase jump. -/
  | frameRefEdge (r ageNs : Nat)
  /-- R285: A predicted edge has not arrived in tolerance, so a synthetic edge is delivered or the reference unlocks. -/
  | frameEdgeMissing (r : Nat)
  /-- R287: Setting TIME_REF_CFG.enable applies the fields and starts watching the input. -/
  | frameRefEnable (r : Nat) (v : W32)
  /-- R287: Clearing enable unlocks the reference and stops its count. -/
  | frameRefDisable (r : Nat)
  /-- R288: A frame output emits its pulse at delay after a delivered edge. -/
  | frameOutPulse (o : Nat)
  /-- R289: An armed set's preparation ends and the set is ready. -/
  | takePrepared (s : Nat)
  /-- R291: At the readiness point a set is judged, and it slips whole when not ready or not committed. -/
  | takeReadinessPoint (s : Nat)
  /-- R295: At the instant, the sets due are checked and applied atomically at the centre, or fail. -/
  | takeApplication (sets : List Nat)
  /-- R299: A write of TIME_TAKE_CTRL.commit commits a domain set for its next instant. -/
  | takeCommitWrite (s : Nat)
  /-- R312: An uncorrectable error in an internal memory triggers its action of Table SVC-6 and is logged. -/
  | uncorrectableMemoryError (mem : IMem) (index copies : Nat)
  /-- R314: A correctable error in a unit memory is logged, raising a Steward event at count 3 or when the log is full. -/
  | correctableMemoryError (kind index mem addr syndrome : Nat)
  /-- R321: A one-time write of STK_MODE.mode overrides the strapped fabric mode. -/
  | stkModeWrite (v : W32)
  /-- R325: A write of STK_DKEY7 makes the domain key take effect. -/
  | domainKeyWrite (v : W32)
  /-- R325: Setting STK_KEY_LOCK locks the domain key until device reset. -/
  | keyLockWrite
  /-- R326: A JOIN is answered with JOIN_ACK, loading domain parameters and starting a session. -/
  | msgJoin (p : Nat) (m : Mgmt)
  /-- R326: A JOIN_ACK completes the join of the link partner. -/
  | msgJoinAck (p : Nat) (m : Mgmt)
  /-- R327: A BLOCK is queued and runs in S1 with Steward privilege, and RESULT is sent. -/
  | msgBlock (p : Nat) (m : Mgmt)
  /-- R327: A RESULT reports a block's outcome or an epoch refusal to its sender. -/
  | msgResult (p : Nat) (m : Mgmt)
  /-- R329: A HEARTBEAT restarts the heartbeat-loss count of a worker or member. -/
  | msgHeartbeat (p : Nat) (m : Mgmt)
  /-- R332: A TIME message sets TIME_SET and set_at_pps for the next second. -/
  | msgTime (p : Nat) (m : Mgmt)
  /-- R333: A worker reports a domain set's readiness to the manager. -/
  | msgTakeReady (p : Nat) (m : Mgmt)
  /-- R333: A TAKE_COMMIT sets commit on the receiver's domain set. -/
  | msgTakeCommit (p : Nat) (m : Mgmt)
  /-- R333: A worker reports a domain set's application or slip. -/
  | msgTakeDone (p : Nat) (m : Mgmt)
  /-- R330: A TAKEOVER with a higher epoch makes the receiver follow the promoted manager. -/
  | msgTakeover (p : Nat) (m : Mgmt)
  /-- R328: A VIRAL message makes its device signal CXL viral on the sharer's port and raise event 16. -/
  | msgViral (p : Nat) (m : Mgmt)
  /-- R336: A GATEWAY message is checked against the port's domain numbers, enabling or failing the gateway. -/
  | msgGateway (p : Nat) (m : Mgmt)
  /-- R336: Every 10 ms a gateway port resends GATEWAY until it receives one. -/
  | gatewayRepeat (p : Nat)
  /-- R336: No GATEWAY within 100 ms of L0 takes the link down with cfg_error. -/
  | gatewayTimeout (p : Nat)
  /-- R329: Once per period the manager or master sends HEARTBEAT to every joined device. -/
  | heartbeatSend
  /-- R329: Three periods without HEARTBEAT set hb_lost. -/
  | heartbeatLoss
  /-- R332: The manager sends TIME to every worker within each second. -/
  | timeDistribution
  /-- R330: A write of promote on a standby worker with hb_lost makes it the manager with a new epoch. -/
  | promoteWrite
  /-- R338: A write to a proxy entry is applied at the centre, or ignored when the entry is valid or duplicated. -/
  | stkProxyWrite (i : Nat) (v : W32)
  /-- R350: A REQ or RSP DATA leaf is CRC-checked and accepted in order, or discarded as a gap or duplicate, and its acks and counts are processed. -/
  | leafData (p : Nat) (leaf : List Byte)
  /-- R351: An IDLE leaf's acknowledgement and credit counts are processed. -/
  | leafIdle (p : Nat) (leaf : List Byte)
  /-- R357: A NAK leaf is processed and starts a replay pass. -/
  | leafNak (p : Nat) (leaf : List Byte)
  /-- R346: A sequenced MGMT leaf carries management message slots. -/
  | leafMgmt (p : Nat) (leaf : List Byte)
  /-- R359: An INIT leaf advances link start, marks an error, or signals a partner restart. -/
  | leafInit (p : Nat) (leaf : List Byte)
  /-- R356: In each wire unit the transmitter sends a replay, MGMT, RSP, REQ or IDLE leaf. -/
  | leafTransmit (p : Nat)
  /-- R358: The replay timer expires, starting a replay pass or, after four expiries, recovery. -/
  | replayTimerExpiry (p : Nat)
  /-- R360: A stack port leaves Recovery, sends IDLE and replays from oldest. -/
  | iflRecoveryExit (p : Nat)
  /-- R361: Symbol lock lost for loss_us takes the stack link down with a port reset. -/
  | iflLinkDownTimeout (p : Nat)
  /-- R370: A lane loses symbol lock, is counted and starts Recovery. -/
  | symbolLockLoss (p lane : Nat)
  /-- R365: A lane die's reference is lost, so its ports and command lanes are reset. -/
  | refclkLoss (die : Nat)
  /-- R365: The reference has been within limits for 1 ms, so training may resume. -/
  | refclkRestored (die : Nat)
  /-- R369: An L0 adaptation burst interval elapses, and a burst runs if granted or is deferred. -/
  | adaptationBurst (q : Nat)
  /-- R369: An adaptation burst ends and releases its power grant. -/
  | adaptationBurstEnd (q : Nat)
  /-- R373: Setting PORT_PAT_CTRL.run on a disabled port starts pattern transmission and checking. -/
  | patternStart (p : Nat) (v : W32)
  /-- R373: Clearing run returns the lanes to electrical idle. -/
  | patternStop (p : Nat)
  /-- R376: A write of PORT_MARGIN_CTRL.start runs local point or scan margining. -/
  | marginStart (p : Nat) (v : W32)
  /-- R376: A margining run ends as clean, refused, busy or aborted. -/
  | marginDone (p : Nat) (errors cleanT cleanV : Nat) (busy aborted : Bool)
  /-- R375: A partner's margining command in control SKP ordered sets is served. -/
  | partnerMarginCommand (p lane : Nat) (start : Bool)
  /-- R380: A sampled presence input of a slot changes level. -/
  | presenceChange (s : Nat) (long short : Bool)
  /-- R380: Both presence inputs have been asserted for 50 ms, so the slot is seated. -/
  | seatedQualified (s : Nat)
  /-- R389: A presence input deasserted for 10 µs unseats the slot and, in ramp or on, pulls its gate off. -/
  | seatingLost (s : Nat)
  /-- R403: A waiting slot's declared power fits the slot budget and is granted in order, so the slot enters ramp. -/
  | slotBudgetGrant
  /-- R382: Vout has held 0.95 Vin for 20 µs, so the slot enters on and asserts SLOT_PG_N. -/
  | powerGoodQualified (s : Nat)
  /-- R382: perst_ms after power-good, SLOT_PERST_N is released. -/
  | perstReleaseTimer (s : Nat)
  /-- R383: Power-good not qualified within ramp_timeout_ms ends the attempt. -/
  | rampTimeout (s : Nat)
  /-- R384: A shunt voltage above ft_mv pulls the gate off within 1 µs. -/
  | fastTrip (s : Nat)
  /-- R385: A shunt voltage crossing cb_mv starts or resets the breaker timer. -/
  | breakerThresholdCross (s : Nat) (above : Bool)
  /-- R385: The breaker timer reaches cb_ms, and the slot turns off in two steps. -/
  | breakerExpiry (s : Nat)
  /-- R387: A slot's backoff ends, and it ramps again or waits for seating. -/
  | backoffEnd (s : Nat)
  /-- R387: After 1 s of continuous on, retry_count returns to 0. -/
  | retryCountReset (s : Nat)
  /-- R388: An off slot's grant is released when Vout falls below 1.0 V or off_blank elapses. -/
  | slotGrantRelease (s : Nat)
  /-- R390: VIN below vin_warn for 10 µs, or PWRFAIL_IN_N, asserts SLOT_WARN_N. -/
  | vinWarn (s : Nat)
  /-- R390: After 1 ms with the warning conditions absent, SLOT_WARN_N is released. -/
  | warnRelease (s : Nat)
  /-- R390: PWRFAIL_IN_N asserts, warning slots whose warn_pwrfail is set. -/
  | pwrfailInAssert (low : Bool)
  /-- R390: VIN below vin_uv for 10 µs turns a running slot off into wait_vin. -/
  | vinUndervoltage (s : Nat)
  /-- R390: VIN back above vin_uv + 0.5 V for 50 ms restarts the ramp. -/
  | vinRestored (s : Nat)
  /-- R391: Vout above 1.0 V for 1 ms with the gate commanded off puts the slot in pdf. -/
  | passDeviceFailure (s : Nat)
  /-- R393: No core control message for 100 µs puts the slot die into autonomous hold. -/
  | controlExchangeLoss
  /-- R393: The control exchange resumes, so hold ends with a Steward event. -/
  | controlExchangeResume
  /-- R400: Every 10 µs the arbiter sums class charges and steps one throttle level. -/
  | budgetEvaluation
  /-- R401: Use above the effective cap for 1 ms with full throttling sets cap_unmet. -/
  | capUnmet
  /-- R402: A waiting training burst is granted once it fits the effective cap. -/
  | trainingBurstGrant
  /-- R405: Each ms the thermal cap falls or rises by 10 units by the sensor readings. -/
  | thermalCapStep
  /-- R405: Sensor readings refresh, and crossings set hot or crit. -/
  | tempRefresh (temps : List Nat)
  /-- R406: A sensor at 125 °C asserts THERMTRIP_N and holds the device in reset. -/
  | thermtrip (sensor : Nat)
  /-- R404: An AVSBus write that fails three times sets avs_fault. -/
  | avsWriteFailure
  /-- R408: A command link's first training fixes the port mode and brings the link up. -/
  | cmdLinkTrained (link : Nat) (r : Partner) (twoLinks : Bool)
  /-- R415: PERST_N or PERST_B_N asserts a command-port reset of its link. -/
  | perstAssert (link : Nat)
  /-- R410: A command host accesses BAR0, BAR2 or BAR4 as a Steward access, subject to size, boot and standby restrictions. -/
  | barAccess (link bar off : Nat) (write : Bool) (bytes : List Byte)
  /-- R413: A write of handover passes control to the other command link if it is up. -/
  | handover (link : Nat)
  /-- R413: A standby claim takes control while the active link is down, or sets claim_refused. -/
  | claim (link : Nat)
  /-- R413: The active link down for failover_ms switches control to the other link. -/
  | autoFailover
  /-- R418: An MCTP control message is served by the boot ROM's responder. -/
  | mctpControlMessage (cmd arg : Nat)
  /-- R419: A PLDM request returns sensor readings or platform events. -/
  | pldmMessage (cmd sensor : Nat)
  /-- R418: An MCTP message of an unsupported type is dropped and counted. -/
  | mctpOtherType (type : Nat)
  /-- R417: An I3C ENTDAA or SETDASA, or an SMBus ARP, assigns the sideband address. -/
  | dynamicAddressAssign (i3c : Bool) (addr : BitVec 7)
  /-- R424: The boot ROM finishes reading an image from flash. -/
  | imageReadDone (src : ImgSrc) (readable : Bool) (directory image : List Byte)
  /-- R422: An image verification ends, starting S0 or recording a cause and trying the next source. -/
  | imageVerifyDone (ms : Nat)
  /-- R423: A write of go in stage 2 verifies the host-placed image. -/
  | bootGo
  /-- R428: A qualified RESET_N assertion starts a device reset of at least 100 µs. -/
  | resetNAssert
  /-- R428: A device reset is released, straps are sampled, units take their reset state and the boot ROM starts. -/
  | deviceResetRelease (st : Straps)
  /-- R430: A monitored rail below its threshold for 1 µs starts a device reset. -/
  | brownout (rail : Rail)
  /-- R440: A write of CNT_CTRL.freeze freezes every counter and fills the shadow bank. -/
  | counterFreezeWrite
  /-- R440: A write of CNT_CTRL.release resumes counting. -/
  | counterReleaseWrite
  /-- R440: The shadow copy ends, and counting resumes if auto_release is 1. -/
  | shadowCopyEnd
  /-- R437: A CSR write of a global selector zeroes its counter and sets its filter, or is ignored for undefined codes. -/
  | selectorWrite (n : Nat) (sel : W64)
  /-- R445: A CNT_LOG_SEL write with clear empties the selected log and zeroes its overflow count. -/
  | unitLogClear (v : W32)
  /-- R449: Setting a GLB_LOCK bit locks the RWL fields of its block row until device reset. -/
  | glbLockWrite (v : W32)
  /-- R452: A write of CORE_PACE_HIST_SEL copies a pace-history entry whole into its data registers. -/
  | histSelectWrite (v : W32)
  /-- R452: A write of CORE_RGRP_SEL copies a replication group word whole into its data registers. -/
  | rgrpSelectWrite (v : W32)
  /-- R452: A write of CORE_ECMP_SEL copies an equal-cost group whole into its data registers. -/
  | ecmpSelectWrite (v : W32)
  /-- R452: A write of QPE_MTR_SEL copies a meter entry whole into QPE_MTR_DATA. -/
  | meterSelectWrite (q : Nat) (v : W32)
  /-- R427: TRST_N, or five TCK with TMS high, resets the tap. -/
  | tapReset
  /-- R467: The BYPASS tap instruction is loaded. -/
  | tapBypass
  /-- R466: The IDCODE tap instruction selects the device identity register. -/
  | tapIdcode
  /-- R467: SAMPLE/PRELOAD captures and preloads the boundary register. -/
  | tapSamplePreload (capture : List Bool)
  /-- R467: EXTEST drives pins from the boundary register when allowed, or acts as BYPASS. -/
  | tapExtest
  /-- R467: CLAMP holds pins from the boundary register when allowed, or acts as BYPASS. -/
  | tapClamp
  /-- R467: HIGHZ places the boundary outputs in high impedance. -/
  | tapHighz
  /-- R434: The supply rails rise, VDD_CORE rising sets power_on and clears the pace history and age counts. -/
  | powerUp
  /-- R425: A supply rail is removed: VDD_CORE loss ends a thermal-trip hold and clears its survivors, and VDD_3V3 loss floats every slot output and clears thermtrip. -/
  | supplyLoss (rail : Rail)
  /-- R370: A CXL or PCIe link regains symbol lock in Recovery and returns to L0. -/
  | linkRecoveryExit (p : Nat)
  /-- R373: A pattern checker synchronises to clean incoming data and sets sync, and inverted where it applies. -/
  | patternCheckerSync (p lane : Nat) (inverted : Bool)
  /-- R345: A leaf that passes CRC but has a reserved class, type or bit sets protocol_err and resets the stack port. -/
  | malformedLeaf (p : Nat) (leaf : List Byte)
  /-- R429: PERST_N or PERST_B_N is released, and the command link leaves reset 1 µs later and trains. -/
  | perstDeassert (link : Nat)
  /-- R415: A hot reset or link down on a command link resets that link and disables loc = 0 rings if it is active. -/
  | commandLinkHotReset (link : Nat)
  /-- R382: Vout reaches 0.95 × Vin in ramp, arming the breaker and starting the power-good qualification time. -/
  | breakerArmed (s : Nat)
  /-- R154: A DDR5 channel accepts a write, so the pool write completes when its copies accept and the line's transaction closes. -/
  | dramWriteAccepted (line : Nat) (second : Bool)
  /-- R208: A one-way fuse write ends and the waiting LOCK retires with its effect. -/
  | fuseWriteDone
deriving DecidableEq, Repr

end Sys2Proof
end

