-- ==== Sys2Proof/Decode.lean ====
section
/-!
DEFINITION. The decoder over the table's bits: spec/opcode_table.json gives no row a bit, so no word spells a command
(notes/assumptions/1.md).
-/

namespace Sys2Proof

/-- The command a word of the table's bits spells: none, since no row of the table has bits. (Log 1 DESIGN CHOICE.) -/
def decodeTableWord (_nbits _w : Nat) : Option Instr := none

end Sys2Proof
end

