-- ==== Sys2Proof/Config.lean ====
section
/-!
DEFINITION. What the manual leaves open as values, and the cryptography it names: constants with no body, so nothing can be
proved of what they are (notes/assumptions/6.md, 8.md).
-/

namespace Sys2Proof.Config

/-- A free value: applied to `State.fresh`, which every use advances. (Log 6 DESIGN CHOICE.) -/
opaque freeNat : Nat → Nat

/-- A free 64-bit value, used as `freeNat`. (Log 6 DESIGN CHOICE.) -/
opaque freeWord : Nat → W64

/-- The channel-local line and its inverse: how a line of a group's slot is spread over rank, bank, row and column of its
channel is not stated (R147 fixes channel and order only). (Log 7 DESIGN CHOICE.) -/
opaque dramFree : Nat → Nat

/-- The SHA-384 hash (R209). (Log 8 DESIGN CHOICE.) -/
opaque sha384 : List Byte → BitVec 384

/-- ECDSA P-384 verification: public key, signature, bytes signed (R209, Table BOOT-6). (Log 8 DESIGN CHOICE.) -/
opaque ecdsaVerify : List Byte → List Byte → List Byte → Bool

/-- The boot ROM's own key accepts an image (Table DKL-6, Blank and Returned). (Log 8 DESIGN CHOICE.) -/
opaque romKeyAccepts : List Byte → Bool

/-- HMAC-SHA-384 of a byte string under a key (R325). (Log 8 DESIGN CHOICE.) -/
opaque hmac : List W32 → List Byte → List Byte

/-- The QPE's working-state window (R315): its contents are for diagnosis and not stated. -/
opaque qpeWorking : Nat → Nat → W32

/-- The header of a message as its link carries it, in whole 16-byte slots: the CXL and PCIe layouts are not the manual's. -/
opaque wireHead : Msg → List Byte

/-- The message a header on an Ifern Link spells, without its data; the CXL and PCIe layouts are not the manual's. -/
opaque unwireHead : List Byte → Msg

/-- The endpoint UUID by serial number: R418 names it without its value. (Log 6 DESIGN CHOICE.) -/
opaque uuid : W64 → Nat

end Sys2Proof.Config
end

