-- ==== Sys2Proof/Machine/State.lean ====
section
/-!
DEFINITION. The state of the KF96 as plain data: one record for each unit of the manual, one field for each register or
piece of state its rules name. The default value of a field is its reset value (20 Table RST-5 and the register tables);
values the manual does not give are named in notes/assumptions/3.md.
-/

namespace Sys2Proof.Machine

/-- Why a step can stop. -/
inductive Fault where
  /-- Raised by a meaning whose command names a unit, index or instance the KF96 does not have (R5, R236: port 96, quire
  12 and so on). Safe: no such command can reach the hardware. -/
  | noSuchUnit
deriving DecidableEq, Repr

/-- Why a command has no meaning. -/
inductive Refusal where
  /-- Raised by a dispatch arm whose command has no meaning yet. Safe. -/
  | notModelled (mnemonic : String)
deriving DecidableEq, Repr

/-! ## Units and emissions -/

/-- A unit as Table OXI-21 numbers it: kind and index (kind 9: a CSR block, R444). -/
structure UnitId where
  kind : Nat
  index : Nat
deriving DecidableEq, Repr

/-- The reset state of a unit: running, in reset, or held after a reset (R310). -/
inductive Rst where
  | run | inReset | held
deriving DecidableEq, Repr

/-- What the device sends out of the block, in order. (Log 11 DESIGN CHOICE.) -/
inductive Emit where
  | csrRead (m : Master) (addr : Nat) (v : W32)          -- completion of a CSR read
  | barData (link : Nat) (bytes : List Byte)             -- completion of a BAR read
  | barAbort (link : Nat)                                -- completer abort on a command link (R410)
  | linkMsg (p : Nat) (m : Msg)                          -- a message placed on a fabric link
  | replica (p : Nat) (group : Nat) (m : Msg)            -- a multicast copy placed on a link
  | viral (p : Nat)                                      -- CXL viral signalled on a port (R190)
  | leaf (p : Nat) (bytes : List Byte)                   -- an IFL leaf
  | mgmt (p : Nat) (kind : Nat) (m : Mgmt)               -- a management message
  | barUr (link : Nat)                                    -- Unsupported Request on a command link (Table DKL-5)
  | hostWrite (addr : W64) (bytes : List Byte)           -- a write to command-host memory
  | fabricWrite (pbr : Nat) (addr : W64) (bytes : List Byte)
  | msix (link vector : Nat)                             -- an MSI-X message
  | avs (mv : Nat)                                       -- an AVSBus voltage write
  | mctp (type : Nat) (bytes : List Nat)                 -- a sideband response
  | fm (src : FmSrc) (status : Nat) (vals : List Nat)    -- a Fabric Manager API response
  | mldForward (p ld : Nat) (bytes : List Byte)          -- a management command forwarded to an MLD (R65)
  | ldReset (p ld : Nat)                                 -- an LD reset forwarded to an MLD (R304)
  | framePulse (o width : Nat)                           -- a frame-output pulse (R288)
  | debugData (v : W64) (refused : Bool)                 -- a debug read's data and refused flag (R206)
  | ide (p : Nat) (accepted : Bool)                      -- answer to a key-management message
  | margin (p lane : Nat) (served : Bool)                -- answer to a partner's margining command
  | tdo (bits : List Bool)                               -- bits the tap shifts out
  | mirrorRecord (sess : Nat) (addr : W64) (bytes : List Byte)
  | mirrorIndex (sess : Nat) (producer : W64)
  | mirrorRead (sess : Nat) (addr : W64)                 -- a read of a consumer index (R116)
deriving DecidableEq, Repr

/-! ## Global block -/

/-- The lifecycle states (Table DKL-6). -/
inductive Life where
  | blank | opened | secured | returned
deriving DecidableEq, Repr

/-- A hold entry (Table SVC-5). -/
structure Hold where
  enable : Bool := false
  kind : Nat := 0
  index : Nat := 0
deriving DecidableEq, Repr

/-- A one-way fuse action in progress (R208, R210). -/
inductive FuseOp where
  | life (l : Life)
  | revoke (slot : Nat)
  | svn (v : Nat)
  | key (slot : Nat) (hash : BitVec 384)
deriving DecidableEq, Repr

/-- The global block: fuses, straps, locks, boot, reset (08, 13, 19, 20, 22). (Log 3 DESIGN CHOICE.) -/
structure Glb where
  fmApiOwn : Bool := false
  lock : W32 := 0
  grade : Bool := false
  stepping : BitVec 8 := 0
  serial : W64 := 0
  life : Life := .blank
  keyValid : BitVec 4 := 0
  keyRevoked : BitVec 4 := 0
  svn : Nat := 0
  keyHash : Tab (BitVec 384) := []
  loadedSvn : List Nat := []
  fuse : Option (Nat × FuseOp) := none
  tapEn : Bool := true
  unlock : Bool := false
  dbgCtxEn : Bool := false
  causePowerOn : Bool := true
  causeResetPin : Bool := false
  causeTableUe : Bool := false
  causeReturned : Bool := false
  causeBrownout : Bool := false
  causeThermtrip : Bool := false
  resets : Nat := 0
  straps : Straps := {}
  ageHours : W32 := 0
  ageTjSum : W64 := 0
  ageTjMax : Nat := 0
  hold : Tab Hold := []
  bootStage : Nat := 0
  bootSource : Nat := 0xF
  causeA : Nat := 0
  causeB : Nat := 0
  causeHost : Nat := 0
  goOffset : BitVec 20 := 0
  bootMs : Nat := 0
  bootImage : Option ImgSrc := none
  imageBytes : List Byte := []
  dirValid : Bool := true
  dirMode : Nat := 2
  dirHasB : Bool := false
  inReset : Bool := false
  resetPinLow : Bool := false
  thermHold : Bool := false
  railsDown : List Rail := []
  portEverEnabled : Bool := false
deriving DecidableEq, Repr

/-! ## Command port -/

/-- One MSI-X table entry (R411). (Log 13 PRESUMED, 74 DEDUCED.) -/
structure MsixEnt where
  addr : W64 := 0
  data : W32 := 0
  ctrl : W32 := 1
deriving DecidableEq, Repr

/-- One lane's registers (PORT_LN, Table LANE-2). -/
structure Lane where
  lockLosses : Nat := 0
  locked : Bool := false
  inverted : Bool := false
  marginT : Nat := 0
  marginV : Nat := 0
deriving DecidableEq, Repr

/-- The lane registers of a lead port or a command link (Table LANE-2). (Log 61 DESIGN CHOICE.) -/
structure Lanes where
  cfg : W32 := 0x88000000
  inv : W32 := 0
  eq : W32 := 0x777703E8
  reversed : Bool := false
  degraded : Bool := false
  width : Nat := 0
  laneOk : BitVec 16 := 0
  evRefclk : Bool := false
  evEqFail : Bool := false
  evDegraded : Bool := false
  evLock : Bool := false
  ln : Tab Lane := []
  marginRun : Bool := false
  marginCtrl : W32 := 0x0000001E
  marginDone : Bool := false
  marginBusy : Bool := false
  marginAborted : Bool := false
  marginRefused : Bool := false
  marginErrors : Nat := 0
  partnerMargin : Bool := false
  patRun : Bool := false
  patCtrl : W32 := 0x2B000000
  patBits : W64 := 0
  patErr : Tab W32 := []
deriving DecidableEq, Repr

/-- One command link (R407 to R416). (Log 13 PRESUMED.) -/
structure CmdLink where
  up : Bool := false
  rst : Rst := .run
  perst : Bool := false
  genTag : BitVec 8 := 0
  msixEnable : Bool := false
  msixMask : Bool := false
  barsSet : Bool := true
  lanes : Lanes := {}
  rate : Nat := 0
deriving DecidableEq, Repr

/-- The command port and the sideband (19). (Log 3 DESIGN CHOICE.) -/
structure Cmd where
  autoFo : Bool := true
  failoverMs : Nat := 50
  mode : Nat := 2
  active : Bool := false
  switched : Bool := false
  claimRefused : Bool := false
  linkA : CmdLink := {}
  linkB : CmdLink := {}
  msix : Tab MsixEnt := []
  pba : Tab Bool := []
  smbAddr : BitVec 7 := 0x58
  dynAddr : Option (BitVec 7) := none
  eid : Nat := 0
  mctpDrops : Nat := 0
  pldmEvents : List Nat := []
  fmQueue : List FmSrc := []
  recordsDropped : Nat := 0
  foDue : Bool := false        -- the failover time has run while the other link was down (R413)
deriving DecidableEq, Repr

/-! ## Power and pace -/

/-- The power arbiter (18). -/
structure Pwr where
  hyst : Nat := 20
  cap : Nat := 1650
  capUnmet : Bool := false
  avsFault : Bool := false
  use : Nat := 0
  evAvs : Bool := false
  evCrit : Bool := false
  evHot : Bool := false
  evCap : Bool := false
  limit : Tab Nat := []
  level : Tab Nat := []
  overRun : Nat := 0           -- evaluations in a row above the cap with nothing left to throttle (R401)
  fixed : Nat := 0             -- the charge of class 0 at the last evaluation
  coreCharge : Nat := 0
  class4Moved : Bool := false
  tHot : Option Nat := none
  tcap : Nat := 1650
  temp : Tab Nat := []
  peak : Tab Nat := []
  thermtripN : Bool := false
  trainWait : List Nat := []
  trainBurst : List Nat := []
  burst : List Nat := []
  slotQueue : List Nat := []
  loopEn : Bool := false
  unreachable : Bool := false
  paceHyst : Nat := 32
  target : Nat := 1600
  vcore : Nat := 800
deriving DecidableEq, Repr

/-- The pace probe, the floor alarm and the pace history (02). -/
structure Pace where
  valid : Bool := false
  pace : Nat := 0
  floorAlarm : Bool := false
  windowLog2 : BitVec 4 := 4
  floor : Nat := 1400
  runLog2 : Nat := 4
  lowRun : Nat := 0
  hourIdx : Nat := 0
  hourPace : Option Nat := none
  hourVcore : Nat := 0
  hourTj : Nat := 0
  hist : List W64 := []
  histSel : W32 := 0
  histData : W64 := 0
deriving DecidableEq, Repr

/-! ## Slots -/

/-- The slot states (Table SLOT-2). -/
inductive SlotSt where
  | off | waitSeat | waitGrant | ramp | on | backoff | waitVin | latched | pdf | inReset
deriving DecidableEq, Repr

/-- One slot channel (17). -/
structure Slot where
  st : SlotSt := .off
  genTag : BitVec 8 := 0
  long : Bool := false
  short : Bool := false
  seated : Bool := false
  pg : Bool := false
  perstRel : Bool := false
  warn : Bool := false
  iso : Bool := false
  retry : Nat := 0
  cause : Nat := 0
  granted : Nat := 0
  declared : Nat := 250
  warnPwrfail : Bool := true
  isoEn : Bool := true
  disEn : Bool := true
  lim : W32 := 0x320A0505
  ramp : W32 := 0x140A3064
  time : W32 := 0x64326C5A
  evPdf : Bool := false
  evLatched : Bool := false
  evTrip : Bool := false
  evPgUp : Bool := false
  evPgLost : Bool := false
  evUv : Bool := false
  evWarn : Bool := false
  evSeat : Bool := false
  vin : Nat := 0
  vout : Nat := 0
  shunt : Nat := 0
  armed : Bool := false
  timer : Bool := false
  vinLow : Bool := false
  grantDue : Bool := false
  presenceDetect : Bool := false
deriving DecidableEq, Repr

/-! ## Pool -/

/-- One slot of an interleave group (R146, R152). -/
structure SlotUse where
  used : Bool := false
  retire : Bool := false
  retired : Bool := false
deriving DecidableEq, Repr

/-- One interleave group (Table POOL-4). -/
structure Grp where
  enable : Bool := false
  refused : Bool := false
  slots : Nat := 0
  mask : BitVec 12 := 0
  map : Tab SlotUse := []
deriving DecidableEq, Repr

/-- Channel states (Table POOL-3). -/
inductive ChSt where
  | off | training | trained | initialising | ready | grouped | failed | inReset
deriving DecidableEq, Repr

/-- A log entry of a channel, a directory or deckle log: its words (Tables POOL-8, COH-10, DKL-10). -/
structure LogEnt where
  w0 : W64 := 0
  w1 : W64 := 0
  w2 : W64 := 0
deriving DecidableEq, Repr

/-- One pool channel (06). -/
structure Chan where
  enable : Bool := false
  st : ChSt := .off
  stBefore : ChSt := .off
  fail : Nat := 0
  dimms : Nat := 0
  capacity : Nat := 0
  mrdimm : Option Bool := none
  genTag : BitVec 8 := 0
  rst : Rst := .run
  ceCount : Nat := 0
  ceOvf : Nat := 0
  ueOvf : Nat := 0
  evLapLate : Bool := false
  evRepair : Bool := false
  evScrubUe : Bool := false
  evUe : Bool := false
  evRecur : Bool := false
  evCeFull : Bool := false
  ceSel : Nat := 0
  ueSel : Nat := 0
  ceLog : List LogEnt := []
  ueLog : List LogEnt := []
  scrubEn : Bool := false
  autoRetire : Bool := false
  lapAlarm : Nat := 0x18
  maxShare : Nat := 4
  laps : BitVec 8 := 0
  lapS : Nat := 0
  scrubPos : Nat := 0
  lapStart : Nat := 0
  poisonReads : Nat := 0
deriving DecidableEq, Repr

/-- The pool block, the Sheet Table and the DRAM contents (06). -/
structure Pool where
  opened : Bool := false
  openErr : Bool := false
  rate : Nat := 0
  grp : Tab Grp := []
  chan : Tab Chan := []
  shtSel : W32 := 0
  shtData : W64 := 0
  sheet : Tab W64 := []
  mem : Mem := []
  poison : Tab Bool := []
deriving DecidableEq, Repr

/-! ## Messages in the device -/

/-- Meter colours (R122). -/
inductive Colour where
  | none | green | yellow | red
deriving DecidableEq, Repr

/-- Who a request belongs to, that is, who receives its answer. -/
inductive Org where
  | port (p : Nat)                  -- received on port p; the answer goes back there
  | load (c : Nat)                  -- an LD or ATOM of context c
  | store (c : Nat)                 -- an ST of context c
  | moveRd (ch off : Nat)           -- a mover's read of the bytes at `off` of its present transfer
  | moveWr (ch off : Nat)           -- a mover's write
  | moveFlush (ch : Nat)            -- the flush read of R262
  | moveRefresh (ch off : Nat)      -- a refresh line (R156)
  | member (wid m : Nat)            -- a member copy of a replicated write (R104)
  | part (gid off : Nat)            -- one line of a pool request longer than a line (R150)
  | mirror (sess : Nat)             -- a mirror copy (R111)
  | snoop (line sharer : Nat)       -- a back-invalidate snoop of the home
  | fwdSnoop (p : Nat)              -- a device's snoop forwarded to a host (R60)
  | own                             -- the device's own access, nothing awaited
  | answer                          -- a response
deriving DecidableEq, Repr

/-- Where a resolved message goes (R78). -/
inductive Dest where
  | port (p : Nat) | pool | engine | repl (g : Nat) | none
deriving DecidableEq, Repr

/-- Where a message stands on its way (04, opening list). -/
inductive Stage where
  | staged | heldBuf | heldRed | centre | queued | voq | egress
deriving DecidableEq, Repr

/-- What holds a queued message back: the re-pinning fence of a group (R85) or the cadence fence of a schedule (R134). -/
inductive Fence where
  | none | ecmp (g : Nat) | cad (s : Nat)
deriving DecidableEq, Repr

/-- A message inside the device. Points (R130): 0-95 ports, 96-107 pool channels, 108 EN. (Log 28 DEDUCED.) -/
structure Pkt where
  id : Nat
  msg : Msg
  org : Org
  ten : Option Nat := none
  stw : Bool := false
  ing : Nat
  dest : Dest := .none
  out : Nat := 127
  ecmp : Option Nat := none
  resp : Bool := false
  prio : Nat := 0
  colour : Colour := .none
  cad : Option Nat := none
  fence : Fence := .none
  stage : Stage := .staged
  rank : Nat := 2
  paddr : Nat := 0
  ent : W64 := 0
  moved : Nat := 0
  sent : Nat := 0
  iunit : Option UnitId := none
  istamp : BitVec 8 := 0
  tunit : Option UnitId := none
  tstamp : BitVec 8 := 0
  wid : Option Nat := none
  seq : Nat := 0
  admitted : W64 := 0
  origin : Option Nat := none  -- the device where a message from a stack link entered the stack (Table IFL-4)
  splitUr : Bool := false
  store : Option Nat := none   -- the partition of its replication-store entry (R110)
deriving DecidableEq, Repr

/-! ## Home and directory -/

/-- Directory states (Table COH-2). -/
inductive DSt where
  | i | s | e | o
deriving DecidableEq, Repr

/-- A directory entry, both words; the tag word's second copy is equal while no error struck it (R187). -/
structure DirEnt where
  valid : Bool := false
  tenant : Nat := 0
  tag : Nat := 0
  st : DSt := .i
  ptrs : List Nat := []
  pin : Bool := false
  frozen : Bool := false
  retired : Bool := false
deriving DecidableEq, Repr

/-- Request kinds at the home (Table COH-3), and the home's own transactions. -/
inductive HKind where
  | rds | rde | rdnc | wrnc | evd | evc | atom | refresh | victim | recall | poisonWr
deriving DecidableEq, Repr

/-- One back-invalidate snoop of a transaction (R178). -/
structure Snoop where
  sharer : Nat
  kind : BiSnp
  issued : Bool := false
deriving DecidableEq, Repr

/-- Phases of a transaction: waiting for snoops, for a DRAM read, for DRAM write acceptances, or for a victim's way. -/
inductive Phase where
  | snoop | read | write (left : Nat) | waitWay (victim : Nat)
deriving DecidableEq, Repr

/-- An open transaction of the tracker with its line's conflict chain (R175). -/
structure Txn where
  line : Nat
  kind : HKind
  req : Option Pkt := none
  tenant : Option Nat := none
  phase : Phase := .snoop
  snoops : List Snoop := []
  data : Option (List Byte) := none
  old : List Byte := []
  poison : Bool := false
  key : Option Nat := none
  chain : List Pkt := []
deriving DecidableEq, Repr

/-- A directory walk (R186, R192) and what waits for it. -/
structure Walk where
  tenant : Nat
  reset : Bool                 -- the walk of a tenant reset (R192); otherwise of a ream change (R186)
  oldBase : Nat := 0
  oldLen : Nat := 0
  ctx : Option Nat := none     -- the context whose REAM, RESETU or TENANT waits for it
  set : Option Nat := none     -- the take set whose event 13 waits for it (R296)
deriving DecidableEq, Repr

/-- The home agent (07). -/
structure Home where
  dir : Tab DirEnt := []
  txns : List Txn := []
  queue : List Pkt := []
  walks : List Walk := []
  peak : Nat := 0
  evLateWb : Bool := false
  evUnreg : Bool := false
  evDown : Bool := false
  evTagLost : Bool := false
  evStateUe : Bool := false
  evLogOvf : Bool := false
  errSel : Nat := 0
  log : List LogEnt := []
deriving DecidableEq, Repr

/-! ## Deckles -/

/-- A deckle entry: its two words (Table DKL-1). -/
structure Deckle where
  w0 : W64 := 0
  w1 : W64 := 0
deriving DecidableEq, Repr

/-- The deckle table block (08). -/
structure Dkl where
  tab : Tab Deckle := []
  evLogOvf : Bool := false
  evLock : Bool := false
  evDebug : Bool := false
  evStraddle : Bool := false
  evRefused : Bool := false
  sel : Nat := 0
  errSel : Nat := 0
  log : List LogEnt := []
deriving DecidableEq, Repr

/-! ## Contexts -/

/-- Context states (Table OXM-1). -/
inductive CtxSt where
  | off | idle | ready | waiting | halted | faulted | inReset
deriving DecidableEq, Repr

/-- A completion record before it is laid out (Table OXM-8). -/
structure Rec where
  status : Nat
  opcode : BitVec 8
  source : Nat
  entry : Nat
  result : W64
  irq : Bool
  fault : Bool := false
deriving DecidableEq, Repr

/-- A return address, with what the CALL that pushed it asked for: a record, and its interrupt (R227). -/
structure Frame where
  ret : BitVec 20
  cr : Bool := false
  irq : Bool := false
  source : Nat := 4
  entry : Nat := 0
deriving DecidableEq, Repr

/-- A command ring (Table OXM-7, R223). -/
structure Ring where
  base : W64 := 0
  cfg : W32 := 4
  head : Nat := 0
  tail : Nat := 0
deriving DecidableEq, Repr

/-- Where a context's next instruction comes from: nowhere, a ring entry, the program store (with the ring entry whose
CALL it runs under, if any), or a manager's block in S1 (R327). -/
inductive Run where
  | idle
  | entry (r e : Nat) (A B : W64)
  | prog (src : Option (Nat × Nat))
  | block
  | debug                       -- an instruction the tap issues as the debug context (Table DKL-8)
deriving DecidableEq, Repr

/-- What a waiting context waits for. -/
inductive Wait where
  | none
  | load (op : BitVec 8) (d : BitVec 4) (size : Nat) (sext : Bool)  -- LD, LDC, ATOM data: opcode, kd, bits
  | ev (m : W32) (d : BitVec 4)                     -- WAITEV
  | time (t : W64)                                  -- AT wait
  | frame (r : Nat) (d : BitVec 4) (until_ : Option Nat) -- WAITFRAME, with the monotonic count of its timeout
  | again                                           -- the instruction issues again when its condition can hold
  | unit (kind index : Nat)                         -- RESETU
  | walk                                            -- SHEET REAM
  | couch (q : Nat)
  | fuse
deriving DecidableEq, Repr

/-- A data answer waiting for LOAD_DATA_RETURN: the data, or an error (R242). -/
structure Reply where
  data : W64
  bad : Bool
deriving DecidableEq, Repr

/-- One LOG entry (Table OXI-19). (Log 33 DEDUCED.) -/
structure SwLog where
  code : Nat
  value : W64
  time : W64
deriving DecidableEq, Repr

/-- One Oxvik context (09). (Log 3 DESIGN CHOICE, 14 DEDUCED, 33 DEDUCED.) -/
structure Ctx where
  enable : Bool := false
  evtIrq : Bool := false
  haltReq : Bool := false
  weight : Nat := 8
  st : CtxSt := .off
  fault : Nat := 0
  genTag : BitVec 8 := 0
  k : Tab W64 := []
  z : Bool := false
  n : Bool := false
  c : Bool := false
  v : Bool := false
  pc : BitVec 20 := 0
  stack : List Frame := []
  evm : W32 := 0x000FFFFF
  evp : W32 := 0
  ksel : Nat := 0
  rings : Tab Ring := []
  cqBase : W64 := 0
  cqCfg : W32 := 4
  cqHead : Nat := 0
  cqTail : Nat := 0
  cqPhase : Bool := true
  due : List Rec := []
  vec : W32 := 0
  fmsi : W64 := 0
  fmsiData : W32 := 0
  cmpArmed : Bool := true
  evtArmed : Bool := true
  atWait : Option W64 := none
  wait : Wait := .none
  waitRec : Option Rec := none
  run : Run := .idle
  ringTurn : Nat := 0
  faultInRing : Bool := false
  staging : Option Nat := none
  reply : Option Reply := none
  stores : Nat := 0
  log : List SwLog := []
  blockOn : Bool := false
  blockFrom : Nat := 0
  blockPort : Nat := 0
  block : List (W64 × W64) := []
  blocks : List (Nat × Nat × List (W64 × W64)) := []
  blockRecs : List Rec := []
deriving DecidableEq, Repr

/-- The sequencer engine and the program store (09). (Log 31 DEDUCED.) -/
structure Seq where
  ctx : Tab Ctx := []
  turn : Nat := 17
  left : Nat := 0
  ps : Mem := []
  psBad : List Nat := []
deriving DecidableEq, Repr

/-! ## Data movers -/

/-- Mover states (Table MOV-5). -/
inductive MvSt where
  | idle | running | paused | stopping | inReset
deriving DecidableEq, Repr

/-- Descriptor kinds (Table MOV-2). -/
inductive MvKind where
  | copy | gather | reshape | fill
deriving DecidableEq, Repr

/-- A parsed shape table (Table MOV-4). -/
structure Shape where
  merge : Bool := false
  bitplane : Bool := false
  msbFirst : Bool := false
  msbAlign : Bool := false
  signExt : Bool := false
  w : Nat := 1
  lanes : Nat := 1
  planes : Nat := 1
  container : Nat := 0
  map : List (Bool × Nat) := []
  base : List W64 := []
deriving DecidableEq, Repr

/-- A parsed descriptor (Table MOV-2) with the requester's privilege and tenant. -/
structure Desc where
  kind : MvKind
  srcSpace : Nat
  dstSpace : Nat
  auxSpace : Nat
  wb : Bool
  psnStop : Bool
  prio : Nat
  shift : Nat
  esize : Nat
  len : Nat
  src : W64
  dst : W64
  aux : W64
  refresh : Bool := false
  stw : Bool := false
  ten : Nat := 0
  addr : W64 := 0
  addrSpace : Nat := 0
  cr : Bool := false
  irq : Bool := false
  source : Nat := 4
  entry : Nat := 0
  opcode : BitVec 8 := 0
deriving DecidableEq, Repr

/-- One line's worth of bytes a transfer reads or writes: space, PBR ID with address, and the unit of the move (byte, or
group of a reshape) it first touches. -/
structure Piece where
  space : Nat
  addr : W64
  len : Nat := 0
  pos : Nat := 0
  bytes : List Byte := []
  poison : Bool := false
  fail : Bool := false
  done : Bool := false
deriving DecidableEq, Repr

/-- What a running channel does next: issue a transfer's reads, await the index entry, the source or the writes, or flush. -/
inductive MvPhase where
  | next | index | read | write | flush
deriving DecidableEq, Repr

/-- The running part of a move (R260). A unit is a byte, or a group for a reshape. Bits carry their poison. -/
structure Job where
  desc : Desc
  shape : Shape := {}
  phase : MvPhase := .next
  pos : Nat := 0
  take : Nat := 0
  reads : List Piece := []
  writes : List Piece := []
  offset : Option Nat := none
  stop : Option Nat := none
  failAt : W64 := 0
  pause : Bool := false
  abort : Bool := false
  limit : Option Nat := none
  packBits : List (Bool × Bool) := []
  planeBits : List (List (Bool × Bool)) := []
  flush : List Nat := []
  wrote : List Nat := []
deriving DecidableEq, Repr

/-- One data-mover channel (Tables MOV-5, MOV-6). -/
structure Mover where
  st : MvSt := .idle
  rst : Rst := .run
  owner : Nat := 0x1F
  last : Nat := 0
  cause : Nat := 0
  poisonSeen : Bool := false
  kind : Nat := 0
  genTag : BitVec 8 := 0
  residue : W32 := 0
  src : W64 := 0
  dst : W64 := 0
  done : Nat := 0
  len : Nat := 0
  desc : W64 := 0
  fail : W64 := 0
  poison : Nat := 0
  job : Option Job := none
deriving DecidableEq, Repr

/-- The data-mover block (11). (Log 31 DEDUCED.) -/
structure Mov where
  ch : Tab Mover := []
  bulkShare : Nat := 4
  turn : Nat := 71
  window : Nat := 0
  bulkUsed : Nat := 0
  opp : Tab Nat := []
deriving DecidableEq, Repr

/-! ## Fabric time, references, takes -/

/-- One frame reference (Table TIME-4). (Log 3 DESIGN CHOICE.) -/
structure FRef where
  enable : Bool := false
  pol : Bool := false
  flyEn : Bool := true
  flyMax : Nat := 8
  tol : Nat := 1000
  locked : Bool := false
  lost : Bool := false
  jump : Bool := false
  synthetic : Bool := false
  synthRun : Nat := 0
  rate : Nat := 0
  last : W64 := 0
  lastMono : Nat := 0
  period : Nat := 0
  count : W32 := 0
  edges : List Nat := []
  intervals : List Nat := []
deriving DecidableEq, Repr

/-- One frame output (Table TIME-5). -/
structure FOut where
  enable : Bool := false
  pol : Bool := false
  src : Nat := 0
  passSynth : Bool := true
  width : Nat := 10000
  delay : W32 := 0x28
  due : List Nat := []         -- monotonic counts at which a pulse is due
deriving DecidableEq, Repr

/-- Take-set states (Table TIME-6). -/
inductive TkSt where
  | free | staging | preparing | ready | applied | failed
deriving DecidableEq, Repr

/-- A staged item: the instruction and the register values it read when staged (R219, R243). -/
structure Item where
  op : BitVec 8
  w : Ox
  ka : W64
  kb : W64
  c : Nat
  bad : Bool := false
deriving DecidableEq, Repr

/-- How a set is armed (R290). -/
structure Arm where
  ref : Nat
  timeMode : Bool
  edgesLeft : Nat
  offset : W64
  inst : Option W64 := none
  instMono : Option Nat := none
  judged : Bool := false
  missed : Option W64 := none  -- only an edge after this fabric time counts (R291)
deriving DecidableEq, Repr

/-- One take set (Table TIME-6). -/
structure TakeSet where
  st : TkSt := .free
  owner : Nat := 0x1F
  slips : Nat := 0
  cause : Nat := 0
  domain : Bool := false
  commit : Bool := false
  failItem : Nat := 0
  applyAt : W64 := 0
  items : List Item := []
  arm : Option Arm := none
deriving DecidableEq, Repr

/-- The time-and-take unit (12). (Log 3 DESIGN CHOICE.) -/
structure TimeU where
  fab : W64 := 0
  frac : Int := 0
  mono : W64 := 0
  mode : Nat := 0
  ppsPol : Bool := false
  setAtPps : Bool := false
  thresh : Nat := 1000
  locked : Bool := false
  holdover : Bool := false
  ppsLost : Bool := false
  stepped : Bool := false
  unlocked : Bool := false
  steps : Nat := 0
  set : W64 := 0
  adj : Int := 0
  pps : W64 := 0
  ppsMono : Nat := 0
  ppsErr : Int := 0
  servo : Int := 0
  goodRun : Nat := 0
  badRun : Nat := 0
  maxSlips : Nat := 0
  leadUs : Nat := 10
  dleadUs : Nat := 200
  ref : Tab FRef := []
  fout : Tab FOut := []
  take : Tab TakeSet := []
deriving DecidableEq, Repr

/-! ## Tenants -/

/-- What a vPPB is bound to (R55). -/
inductive Bind where
  | none
  | host (p : Nat)
  | dev (p : Nat)
  | ld (p id : Nat)
  | remote (pbr : Nat)
deriving DecidableEq, Repr

/-- One vPPB: its binding and the configuration fields the manual names. (Log 13 PRESUMED.) -/
structure Vppb where
  bind : Bind := .none
  winBase : Nat := 0
  winLimit : Nat := 0
  winSet : Bool := false
  maxPayload : Nat := 128
  dpcEnable : Nat := 0
  dpcStatus : Bool := false
  acs : BitVec 7 := 0
  egress : W64 := 0
  powerCtl : Bool := false
  cmdCompleted : Bool := false
  presenceChanged : Bool := false
  powerFault : Bool := false
  mcast : W64 := 0
  mcGroup : Tab Nat := []
  other : Tab Nat := []
deriving DecidableEq, Repr

/-- A sharer-table entry (Table COH-1). -/
structure Sharer where
  valid : Bool := false
  dead : Bool := false
  port : Nat := 0
  pbr : Nat := 0
deriving DecidableEq, Repr

/-- One tenant's block (Table REG-14) and virtual switch. -/
structure Ten where
  exist : Bool := false
  inReset : Bool := false
  removing : Bool := false     -- the reset is part of a removal (R302)
  ctrRead : Bool := false
  genTag : BitVec 8 := 0
  drr : Nat := 0x080
  base : Nat := 0
  len : Nat := 0
  down : Bool := false
  viral : Bool := false
  cause : Nat := 0
  dead : Nat := 0
  timeout : Nat := 10
  shrSel : Nat := 0
  sharer : Tab Sharer := []
  vppb : Tab Vppb := []
  poolWin : Nat := 0
  poolWinSet : Bool := false
deriving DecidableEq, Repr

/-! ## Ports and quires -/

/-- Run states of a lead port's link. -/
inductive LinkSt where
  | off | training | up | recovery | down
deriving DecidableEq, Repr

/-- IFL states (PORT_IFL_STATUS.state). -/
inductive IflSt where
  | off | training | init | active | recovery | down
deriving DecidableEq, Repr

/-- A sequenced leaf kept for replay (R349, R357). -/
structure ReplayLeaf where
  seq : Nat
  cls : Nat
  type : Nat
  cont : Bool
  nslots : Nat
  payload : List Byte
deriving DecidableEq, Repr

/-- A message in progress in a class of a stack link: its tag, the data bytes to come, the model's numbers of what it became. -/
structure RxCur where
  tag : Nat := 0
  left : Nat := 0
  ids : List Nat := []
deriving DecidableEq, Repr

/-- A leaf in a class buffer, not yet consumed: its class and the messages with a slot in it (R354). -/
structure RxLeaf where
  cls : Nat
  ids : List Nat
deriving DecidableEq, Repr

/-- A slot ready to be sent on a stack link; `first` marks a message's route slot. -/
structure TxSlot where
  first : Bool
  bytes : List Byte
deriving DecidableEq, Repr

/-- The Ifern Link state of a stack port (15). -/
structure Ifl where
  cfg : W32 := 0x07D00064
  st : IflSt := .off
  partner : Nat := 0
  nextTx : Nat := 0
  lastRx : Nat := 0xFFF
  oldest : Nat := 0
  reqAdv : Nat := 0
  rspAdv : Nat := 0
  reqSent : Nat := 0
  rspSent : Nat := 0
  reqSeen : Nat := 0
  rspSeen : Nat := 0
  reqUsed : Nat := 0
  rspUsed : Nat := 0
  rxLeaves : List RxLeaf := []
  rxCur : Tab RxCur := []
  evInit : Bool := false
  evProto : Bool := false
  evDown : Bool := false
  evRecovery : Bool := false
  evReplay : Bool := false
  cnt : Tab Nat := []
  replay : List ReplayLeaf := []
  pass : List Nat := []
  nakSent : Bool := false
  nakDue : Bool := false
  gotInit : Bool := false
  seenInit : Bool := false
  timer : Bool := false
  expiries : Nat := 0
  idleDue : Bool := false
  mgmtGap : Nat := 8
  turn8 : Nat := 0
  rxReq : List Byte := []
  rxRsp : List Byte := []
  rxMgmt : List Byte := []
  txReq : List TxSlot := []
  txRsp : List TxSlot := []
  txMgmt : List TxSlot := []
deriving DecidableEq, Repr

/-- One fabric port (Table REG-12). -/
structure Port where
  cfg : W32 := 0x02F30000
  link : LinkSt := .off
  mode : Nat := 0
  rate : Nat := 0
  lanesUsed : Nat := 0
  genTag : BitVec 8 := 0
  rst : Rst := .run
  quireRst : Bool := false
  ideSecure : Bool := false
  ideKeys : Bool := false
  ideEpoch : Nat := 0
  dpcTrig : Bool := false
  loopbackRefused : Bool := false
  cfgError : Bool := false
  biActive : Bool := false
  hpEn : Bool := false
  dpcCa : Bool := true
  fmCap : Bool := false
  slotId : Nat := 0
  gw : W32 := 0
  gwOk : Bool := false
  prio : W32 := 0
  meter : W32 := 0
  hpPending : Bool := false
  hpOff : Bool := false
  reqCredit : Nat := 0
  rspCredit : Nat := 0
  dev : DevKind := .none
  multiCache : Bool := false
  lanes : Lanes := {}
  ifl : Ifl := {}
  ioSeq : Nat := 0
  refOk : Bool := true
deriving DecidableEq, Repr

/-- A meter (Table TC-3): word 0 and 1 as written, tokens in 1/1,024 byte, last evaluation, counts. -/
structure Meter where
  w0 : W64 := 0
  w1 : W32 := 0
  tc : Nat := 0
  tp : Nat := 0
  last : Nat := 0
  green : W64 := 0
  yellow : W64 := 0
  red : Nat := 0
deriving DecidableEq, Repr

/-- One quire (Table REG-11). -/
structure Quire where
  route : Tab W32 := []
  meter : Tab Meter := []
  mtrSel : W32 := 0
  mtrData : List W64 := []
  couched : Bool := false
  busy : Bool := false
  toSpare : Bool := false
  bistDone : Bool := false
  bistPass : Bool := false
  genTag : BitVec 8 := 0
  lastStall : Nat := 0
  rst : Rst := .run
  wheelRx : Nat := 0
  wheelTx : Nat := 0
deriving DecidableEq, Repr

/-! ## Central core -/

/-- One egress queue of an output point and queue class (R87, R100, R129). -/
structure OutQ where
  high : Bool := false
  low : Bool := true
  cir : W32 := 0
  pir : W32 := 0
  burst : W32 := 0
  bc : Int := 0
  bp : Int := 0
  last : Nat := 0
  turn : Nat := 0
  deficit : Tab Nat := []
  depth : Tab Nat := []
  delay : Tab Nat := []
deriving DecidableEq, Repr

/-- One output point: event bits, histogram registers, class-blind count of its spoke apart (R100, R138, R453). -/
structure OutP where
  crit : BitVec 16 := 0
  highEv : BitVec 16 := 0
  histCfg : W32 := 0x00000602
  histSel : W32 := 0
  fences : W64 := 0
deriving DecidableEq, Repr

/-- An equal-cost group (R80): members, 64 buckets, and whether its re-pinning fence is up (R85). -/
structure Ecmp where
  members : List Nat := []
  buckets : List Nat := []
  fence : Bool := false
  stale : List Nat := []
deriving DecidableEq, Repr

/-- A replication group (Table CORE-13): header word and member words. -/
structure Rgrp where
  header : W64 := 0
  member : Tab W64 := []
deriving DecidableEq, Repr

/-- One open replicated write (R106, R107). -/
structure RWrite where
  id : Nat
  group : Nat
  src : Pkt
  counting : List Nat
  pending : List Nat
  okd : List Nat := []
  failed : List Nat := []
  done : Bool := false
deriving DecidableEq, Repr

/-- A mirror session (Table CORE-16). -/
structure Mirror where
  ctrl : W32 := 0
  flow : W32 := 0
  ring : W64 := 0
  ctlb : W64 := 0
  size : Nat := 0
  lost : Nat := 0
  producer : W64 := 0
  consumer : W64 := 0
  reading : Bool := false
  waiting : List (List Byte) := []
  recent : Nat := 0
  closing : Bool := false
deriving DecidableEq, Repr

/-- A cadence schedule (Table TC-8). -/
structure Cad where
  owned : Bool := false
  ctrl : W32 := 0
  dst : Nat := 0
  opened : Bool := false
  degraded : Bool := false
  win : Nat := 0
  used : Nat := 0
  openAt : Nat := 0
  off : Tab W32 := []
  len : Tab W32 := []
  bytes : Tab W32 := []
  pendingG : Nat := 0
  pendingLen : Nat := 0
  fence : Option (W32 × Nat) := none   -- the flow a change holds back, as the old control word and destination (R134)
  stale : List Nat := []
deriving DecidableEq, Repr

/-- A pool request served line by line: the request, the lines open, and what came back (R150, R201). (Log 22 DESIGN CHOICE.) -/
structure Gather where
  id : Nat
  pkt : Pkt
  left : Nat
  data : List Byte := []
  poison : List Bool := []
  fail : Bool := false
deriving DecidableEq, Repr

/-- A request delivered to a port's partner and not yet answered (R306). -/
structure Open where
  pkt : Pkt
  port : Nat                   -- a port, or 96 + a pool channel
  got : Nat := 0               -- data bytes received so far
  done : Bool := false         -- its last completion is on its way
deriving DecidableEq, Repr

/-- The central core (04, 05). -/
structure Core where
  hashAddrEn : Bool := true
  hashShift : Nat := 6
  hashSeed : W32 := 0
  qclass : Tab W32 := []
  rspReserve : Nat := 0x10
  wm : W32 := 0x1E060080
  occ : Nat := 0
  peak : Nat := 0
  evCrit : Bool := false
  evHigh : Bool := false
  evLow : Bool := false
  drrSteward : Nat := 0x080
  pkts : List Pkt := []
  opens : List Open := []
  gathers : List Gather := []
  outq : Tab OutQ := []
  outp : Tab OutP := []
  gptr : Tab Nat := []
  aptr : Tab Nat := []
  rounds : Tab Nat := []
  ecmp : Tab Ecmp := []
  rgrp : Tab Rgrp := []
  rgrpTmo : Nat := 100
  rstoreOwn : W32 := 0
  rstoreUse : Tab Nat := []
  rwrites : List RWrite := []
  mirror : Tab Mirror := []
  cad : Tab Cad := []
  rgrpSel : W32 := 0
  rgrpData : W64 := 0
  ecmpSel : W32 := 0
  ecmpData : List W64 := []
deriving DecidableEq, Repr

/-! ## Counters and logs -/

/-- A unit log entry (Table OBS-7). -/
structure UEnt where
  valid : Bool := true
  uncorr : Bool := false
  memory : Nat := 0
  code : Nat := 0
  addr : Nat := 0
  detail : Nat := 0
  count : Nat := 1
  time : W64 := 0
deriving DecidableEq, Repr

/-- A unit log: its entries and overflow count (R444, R445). -/
structure ULog where
  ents : List UEnt := []
  ovf : Nat := 0
deriving DecidableEq, Repr

/-- Counters, their shadow, selectors and the unit logs (21). Counters and selectors are kept under the CSR address of
their low half. -/
structure Cnt where
  bank : Tab W64 := []
  shadow : Tab W64 := []
  sel : Tab W64 := []
  frozen : Bool := false
  copying : Bool := false      -- the copy into the shadow bank has not ended (R440)
  autoRelease : Bool := true
  view : Bool := false
  snapTime : W64 := 0
  frozenAt : Nat := 0
  frozenNs : Nat := 0
  skips : Nat := 0
  logs : Tab ULog := []
  logSel : W32 := 0
  standLogged : Tab Bool := []
deriving DecidableEq, Repr

/-! ## Stack, hierarchy, tap -/

/-- A joined device as this device sees it: session sequences, nonces, heartbeat misses (R325, R326, R329). -/
structure Peer where
  joined : Bool := false
  port : Nat := 0
  txSeq : W64 := 0
  rxSeq : W64 := 0
  nonceOwn : W64 := 0
  noncePeer : W64 := 0
  takeReady : Tab Nat := []
  takeDone : Tab Nat := []
  result : Option Nat := none
deriving DecidableEq, Repr

/-- Domains, federations and stacks (14). -/
structure Stk where
  strapFault : Bool := false
  overrideUsed : Bool := false
  mode : Nat := 0
  joined : Bool := true
  standby : Bool := false
  hbLost : Bool := false
  domain : Nat := 0
  dev : Nat := 0
  mgmtPbr : Nat := 0
  hbEnable : Bool := false
  hbPeriod : Nat := 10
  epoch : W32 := 0
  ctxHome : BitVec 48 := 0
  keyNew : Tab W32 := []
  key : List W32 := []
  keyLock : Bool := false
  evTakeover : Bool := false
  evAuth : Bool := false
  evReplay : Bool := false
  evUnjoined : Bool := false
  evEpoch : Bool := false
  drops : Nat := 0
  proxy : Tab W32 := []
  peers : Tab Peer := []
  manager : Nat := 0
  silent : Bool := false
  hbAt : Nat := 0              -- the monotonic count at the last HEARTBEAT or JOIN (R329)
deriving DecidableEq, Repr

/-- Instructions of the tap (R466). -/
inductive TapIr where
  | bypass | idcode | sample | extest | clamp | highz
deriving DecidableEq, Repr

/-- The tap (23 R466, R467). (Log 13 PRESUMED.) -/
structure Tap where
  ir : TapIr := .idcode
  loaded : TapIr := .idcode
  boundary : List Bool := []
  refused : Bool := false
deriving DecidableEq, Repr

/-! ## The whole state -/

/-- The state of the block. `pending`, `out`, `fresh` and `nextId` are the model's own fields (notes/assumptions/1, 6, 11,
5); all others are the manual's. (Log 11 DESIGN CHOICE.) -/
structure State where
  glb : Glb := {}
  cmd : Cmd := {}
  pwr : Pwr := {}
  pace : Pace := {}
  slot : Tab Slot := []
  pwrfail : Bool := false
  slotHold : Bool := false
  pool : Pool := {}
  home : Home := {}
  dkl : Dkl := {}
  seq : Seq := {}
  mov : Mov := {}
  time : TimeU := {}
  ten : Tab Ten := []
  port : Tab Port := []
  quire : Tab Quire := []
  core : Core := {}
  cnt : Cnt := {}
  stk : Stk := {}
  tap : Tap := {}
  pairLo : List (Master × Nat × W32) := []
  pairHi : List (Master × Nat × W32) := []
  pending : List Instr := []
  out : List Emit := []
  fresh : Nat := 0
  nextId : Nat := 1            -- the next serial number of a message; 0 names none
deriving DecidableEq, Repr

/-- The machine right after reset: every unit at its reset value; S0 and S1 enabled and idle under the boot ROM
(Table RST-5); VDD_CORE has just risen (Table RST-4). (Log 3 DESIGN CHOICE.) -/
def State.reset : State :=
  { seq := { ctx := [(0, { enable := true, st := .idle, weight := 16 }), (1, { enable := true, st := .idle })] } }

end Sys2Proof.Machine
end

