-- ==== Sys2Proof/Machine/Bits.lean ====
section
/-!
DEFINITION. Sparse tables, bit fields, bytes and the CRC of R81: the helpers every other file of Machine/ uses.
-/

namespace Sys2Proof.Machine

/-- The outcome type of every meaning. -/
abbrev Res := Host.Outcome State Fault Refusal

/-- A meaning whose command names existing units answers the next state; one that does not stops (notes/assumptions/1.md).
(Log 1 DESIGN CHOICE.) -/
def unitOk (ok : Bool) (s : State) : Res := if ok then .next s else .fault .noSuchUnit

/-! ## Sparse tables -/

/-- The value at index `k`; `d` is what an unlisted index holds. -/
def tget {α : Type} (d : α) : Tab α → Nat → α
  | [], _ => d
  | (i, v) :: m, k => if i = k then v else tget d m k

/-- Insert or replace a pair, keeping the order. -/
def tins {α : Type} : Tab α → Nat → α → Tab α
  | [], k, v => [(k, v)]
  | (i, w) :: m, k, v =>
    if i = k then (k, v) :: m else if k < i then (k, v) :: (i, w) :: m else (i, w) :: tins m k v

/-- Remove every pair of an index. -/
def tdel {α : Type} : Tab α → Nat → Tab α
  | [], _ => []
  | (i, w) :: m, k => if i = k then tdel m k else (i, w) :: tdel m k

/-- Write `v` at `k`: writing what an unlisted index holds removes the pair. -/
def tput {α : Type} [DecidableEq α] (d : α) (m : Tab α) (k : Nat) (v : α) : Tab α :=
  if v = d then tdel m k else tins m k v

/-- The canonical form of a table: indices strictly rising, no pair equal to the default. -/
def tabWf {α : Type} [DecidableEq α] (d : α) : Tab α → Bool
  | [] => true
  | [(_, v)] => v != d
  | (i, v) :: (j, w) :: m => v != d && i < j && tabWf d ((j, w) :: m)

/-- The canonical form of byte memory. (Log 10 DEDUCED.) -/
def Memory.wf (m : Mem) : Bool := tabWf 0 m

/-! ## Bits and numbers -/

/-- The unsigned field of `w` bits from bit `lo`. -/
def fld {n : Nat} (v : BitVec n) (lo w : Nat) : Nat := v.toNat / 2 ^ lo % 2 ^ w

/-- One bit. -/
def bit {n : Nat} (v : BitVec n) (i : Nat) : Bool := v.toNat / 2 ^ i % 2 == 1

/-- A word from fields: pairs of low bit and value. -/
def packN (fs : List (Nat × Nat)) : Nat := fs.foldl (fun a f => a + f.2 * 2 ^ f.1) 0

/-- A 32-bit word from fields. -/
def pack32 (fs : List (Nat × Nat)) : W32 := BitVec.ofNat 32 (packN fs)

/-- A 64-bit word from fields. -/
def pack64 (fs : List (Nat × Nat)) : W64 := BitVec.ofNat 64 (packN fs)

/-- A flag at a bit. -/
def fl (i : Nat) (b : Bool) : Nat × Nat := (i, if b then 1 else 0)

/-- The word `v` with the field of `w` bits from `lo` set to `x`. -/
def setFld {n : Nat} (v : BitVec n) (lo w x : Nat) : BitVec n :=
  BitVec.ofNat n (v.toNat - fld v lo w * 2 ^ lo + x % 2 ^ w * 2 ^ lo)

/-- The low and the high half of a pair (R6). -/
def lo32 (v : W64) : W32 := v.setWidth 32

/-- The high half of a pair (R6). -/
def hi32 (v : W64) : W32 := (v >>> 32).setWidth 32

/-- A pair from its halves, high first. -/
def pair (hi lo : W32) : W64 := BitVec.ofNat 64 (hi.toNat * 2 ^ 32 + lo.toNat)

/-- `a` limited to the range `lo` to `hi`. -/
def clamp (lo hi a : Nat) : Nat := if a < lo then lo else if hi < a then hi else a

/-- A sum that saturates at `m`. -/
def satAdd (m a b : Nat) : Nat := if m < a + b then m else a + b

/-- ⌈a / b⌉. -/
def ceilDiv (a b : Nat) : Nat := (a + b - 1) / b

/-- The signed value of a two's-complement field of `w` bits. -/
def signed (w v : Nat) : Int := if 2 ^ (w - 1) ≤ v then (v : Int) - 2 ^ w else v

/-- The `w` low bits of a signed number. -/
def unsigned (w : Nat) (v : Int) : Nat := (v % (2 ^ w : Int)).toNat

/-! ## Bytes -/

/-- The value of bytes, least significant first. -/
def leNat : List Byte → Nat
  | [] => 0
  | b :: bs => b.toNat + 256 * leNat bs

/-- `n` bytes of a value, least significant first. -/
def natLe : Nat → Nat → List Byte
  | 0, _ => []
  | n + 1, v => BitVec.ofNat 8 (v % 256) :: natLe n (v / 256)

/-- `n` bytes of memory from address `a`. (Log 10 DEDUCED.) -/
def rdBytes (m : Mem) (a : Nat) : Nat → List Byte
  | 0 => []
  | n + 1 => tget 0 m a :: rdBytes m (a + 1) n

/-- Bytes written from address `a`. (Log 10 DEDUCED.) -/
def wrBytes (m : Mem) (a : Nat) : List Byte → Mem
  | [] => m
  | b :: bs => wrBytes (tput 0 m a b) (a + 1) bs

/-- `n` zero bytes. -/
def zeros (n : Nat) : List Byte := List.replicate n 0

/-- Bytes `a` to `a + n - 1` of a byte list, zero where it ends. -/
def slice (l : List Byte) (a n : Nat) : List Byte :=
  let x := (l.drop a).take n
  x ++ zeros (n - x.length)

/-- Bytes written into a byte list at offset `a`. -/
def splice (l : List Byte) (a : Nat) (bs : List Byte) : List Byte :=
  slice l 0 a ++ bs ++ l.drop (a + bs.length)

/-! ## CRC-32C (R81) -/

/-- One bit step of the reflected CRC with polynomial 0x1EDC_6F41. -/
def crcBit (c : Nat) : Nat := if c % 2 = 1 then (c / 2) ^^^ 0x82F63B78 else c / 2

/-- One byte step. -/
def crcByte (c : Nat) (b : Byte) : Nat :=
  crcBit (crcBit (crcBit (crcBit (crcBit (crcBit (crcBit (crcBit (c ^^^ b.toNat))))))))

/-- CRC-32C over bytes from an initial value, with the final XOR. -/
def crc32c (init : Nat) (bs : List Byte) : Nat := bs.foldl crcByte init ^^^ 0xFFFFFFFF

/-! ## Lists -/

/-- Replace the first element that satisfies `p`. -/
def replaceFirst {α : Type} (p : α → Bool) (f : α → α) : List α → List α
  | [] => []
  | x :: xs => if p x then f x :: xs else x :: replaceFirst p f xs

/-- Remove the first element that satisfies `p`. -/
def eraseFirst {α : Type} (p : α → Bool) : List α → List α
  | [] => []
  | x :: xs => if p x then xs else x :: eraseFirst p xs

/-- The first index at or after `k`, modulo `n`, that satisfies `p`. -/
def firstFrom (n k : Nat) (p : Nat → Bool) : Option Nat :=
  ((List.range n).map (fun i => (k + i) % n)).find? p

/-- The sum of a number over a list. -/
def sumBy {α : Type} (f : α → Nat) (l : List α) : Nat := l.foldl (fun a x => a + f x) 0

end Sys2Proof.Machine
end

