-- ==== Sys2Proof/Machine/Ops.lean ====
section
/-!
DEFINITION. The named operations every family uses: unit accessors, emissions, free values, counters and selectors (21),
unit logs (R444, R445), context events and interrupt vectors (R228, R229).
-/

namespace Sys2Proof.Machine

/-! ## Unit accessors -/

/-- Port `p`. -/
def getPort (s : State) (p : Nat) : Port := tget {} s.port p
/-- Replace port `p`. -/
def setPort (s : State) (p : Nat) (x : Port) : State := { s with port := tput {} s.port p x }
/-- Change port `p`. -/
def modPort (s : State) (p : Nat) (f : Port → Port) : State := setPort s p (f (getPort s p))
/-- Quire `q`. -/
def getQuire (s : State) (q : Nat) : Quire := tget {} s.quire q
/-- Change quire `q`. -/
def modQuire (s : State) (q : Nat) (f : Quire → Quire) : State :=
  { s with quire := tput {} s.quire q (f (getQuire s q)) }
/-- Tenant `t`. -/
def getTen (s : State) (t : Nat) : Ten := tget {} s.ten t
/-- Change tenant `t`. -/
def modTen (s : State) (t : Nat) (f : Ten → Ten) : State := { s with ten := tput {} s.ten t (f (getTen s t)) }
/-- vPPB `v` of tenant `t`. -/
def getVppb (s : State) (t v : Nat) : Vppb := tget {} (getTen s t).vppb v
/-- Change vPPB `v` of tenant `t`. -/
def modVppb (s : State) (t v : Nat) (f : Vppb → Vppb) : State :=
  modTen s t fun x => { x with vppb := tput {} x.vppb v (f (tget {} x.vppb v)) }
/-- Context `c`. -/
def getCtx (s : State) (c : Nat) : Ctx := tget {} s.seq.ctx c
/-- Replace context `c`. -/
def setCtx (s : State) (c : Nat) (x : Ctx) : State := { s with seq := { s.seq with ctx := tput {} s.seq.ctx c x } }
/-- Change context `c`. -/
def modCtx (s : State) (c : Nat) (f : Ctx → Ctx) : State := setCtx s c (f (getCtx s c))
/-- Pool channel `c`. -/
def getChan (s : State) (c : Nat) : Chan := tget {} s.pool.chan c
/-- Change pool channel `c`. -/
def modChan (s : State) (c : Nat) (f : Chan → Chan) : State :=
  { s with pool := { s.pool with chan := tput {} s.pool.chan c (f (getChan s c)) } }
/-- Interleave group `g`. -/
def getGrp (s : State) (g : Nat) : Grp := tget {} s.pool.grp g
/-- Change interleave group `g`. -/
def modGrp (s : State) (g : Nat) (f : Grp → Grp) : State :=
  { s with pool := { s.pool with grp := tput {} s.pool.grp g (f (getGrp s g)) } }
/-- Slot `i`. -/
def getSlot (s : State) (i : Nat) : Slot := tget {} s.slot i
/-- Change slot `i`. -/
def modSlot (s : State) (i : Nat) (f : Slot → Slot) : State := { s with slot := tput {} s.slot i (f (getSlot s i)) }
/-- Data-mover channel `ch`. -/
def getMov (s : State) (ch : Nat) : Mover := tget {} s.mov.ch ch
/-- Change data-mover channel `ch`. -/
def modMov (s : State) (ch : Nat) (f : Mover → Mover) : State :=
  { s with mov := { s.mov with ch := tput {} s.mov.ch ch (f (getMov s ch)) } }
/-- Frame reference `r`. -/
def getRef (s : State) (r : Nat) : FRef := tget {} s.time.ref r
/-- Change frame reference `r`. -/
def modRef (s : State) (r : Nat) (f : FRef → FRef) : State :=
  { s with time := { s.time with ref := tput {} s.time.ref r (f (getRef s r)) } }
/-- Frame output `o`. -/
def getOut (s : State) (o : Nat) : FOut := tget {} s.time.fout o
/-- Change frame output `o`. -/
def modOut (s : State) (o : Nat) (f : FOut → FOut) : State :=
  { s with time := { s.time with fout := tput {} s.time.fout o (f (getOut s o)) } }
/-- Take set `i`. -/
def getTake (s : State) (i : Nat) : TakeSet := tget {} s.time.take i
/-- Change take set `i`. -/
def modTake (s : State) (i : Nat) (f : TakeSet → TakeSet) : State :=
  { s with time := { s.time with take := tput {} s.time.take i (f (getTake s i)) } }
/-- Egress queue of point `o` and queue class `n`. -/
def getQ (s : State) (o n : Nat) : OutQ := tget {} s.core.outq (16 * o + n)
/-- Change an egress queue. -/
def modQ (s : State) (o n : Nat) (f : OutQ → OutQ) : State :=
  { s with core := { s.core with outq := tput {} s.core.outq (16 * o + n) (f (getQ s o n)) } }
/-- Output point `o`. -/
def getOutP (s : State) (o : Nat) : OutP := tget {} s.core.outp o
/-- Change output point `o`. -/
def modOutP (s : State) (o : Nat) (f : OutP → OutP) : State :=
  { s with core := { s.core with outp := tput {} s.core.outp o (f (getOutP s o)) } }
/-- Equal-cost group `g`. -/
def getEcmp (s : State) (g : Nat) : Ecmp := tget {} s.core.ecmp g
/-- Change equal-cost group `g`. -/
def modEcmp (s : State) (g : Nat) (f : Ecmp → Ecmp) : State :=
  { s with core := { s.core with ecmp := tput {} s.core.ecmp g (f (getEcmp s g)) } }
/-- Replication group `g`. -/
def getRgrp (s : State) (g : Nat) : Rgrp := tget {} s.core.rgrp g
/-- Change replication group `g`. -/
def modRgrp (s : State) (g : Nat) (f : Rgrp → Rgrp) : State :=
  { s with core := { s.core with rgrp := tput {} s.core.rgrp g (f (getRgrp s g)) } }
/-- Mirror session `i`. -/
def getMir (s : State) (i : Nat) : Mirror := tget {} s.core.mirror i
/-- Change mirror session `i`. -/
def modMir (s : State) (i : Nat) (f : Mirror → Mirror) : State :=
  { s with core := { s.core with mirror := tput {} s.core.mirror i (f (getMir s i)) } }
/-- Cadence schedule `i`. -/
def getCad (s : State) (i : Nat) : Cad := tget {} s.core.cad i
/-- Change cadence schedule `i`. -/
def modCad (s : State) (i : Nat) (f : Cad → Cad) : State :=
  { s with core := { s.core with cad := tput {} s.core.cad i (f (getCad s i)) } }
/-- Meter `m` of quire `q`. -/
def getMeter (s : State) (q m : Nat) : Meter := tget {} (getQuire s q).meter m
/-- Change a meter. -/
def modMeter (s : State) (q m : Nat) (f : Meter → Meter) : State :=
  modQuire s q fun x => { x with meter := tput {} x.meter m (f (tget {} x.meter m)) }
/-- The command link `l` (0 link A or the whole port, 1 link B). -/
def getLink (s : State) (l : Nat) : CmdLink := if l = 0 then s.cmd.linkA else s.cmd.linkB
/-- Change command link `l`. -/
def modLink (s : State) (l : Nat) (f : CmdLink → CmdLink) : State :=
  if l = 0 then { s with cmd := { s.cmd with linkA := f s.cmd.linkA } }
  else { s with cmd := { s.cmd with linkB := f s.cmd.linkB } }
/-- The number of the active link (R412). -/
def activeLink (s : State) : Nat := if s.cmd.active then 1 else 0
/-- The quire of a port (R5). -/
def quireOf (p : Nat) : Nat := p / 8
/-- Spoke of a point: ports by quire, pool channels by PL0-PL2, EN (R18). -/
def spokeOf (o : Nat) : Nat := if o < 96 then o / 8 else if o < 108 then 12 + (o - 96) / 4 else 15
/-- The context of tenant `t` (R212). -/
def ctxOf (t : Nat) : Nat := t + 2
/-- The tenant of a context, none for S0 and S1 (R215). -/
def tenOf (c : Nat) : Option Nat := if c < 2 then none else some (c - 2)
/-- Present fabric time. -/
def now (s : State) : W64 := s.time.fab
/-- The monotonic nanosecond count. -/
def mono (s : State) : Nat := s.time.mono.toNat
/-- Send something out of the block. (Log 11 DESIGN CHOICE.) -/
def emit (s : State) (e : Emit) : State := { s with out := s.out ++ [e] }

/-! ## Free values (notes/assumptions/6.md) -/

/-- A free number below `n`, and the state with the counter advanced. (Log 6 DESIGN CHOICE.) -/
def freeBelow (s : State) (n : Nat) : Nat × State := (Config.freeNat s.fresh % n, { s with fresh := s.fresh + 1 })

/-- A free 64-bit value. (Log 6 DESIGN CHOICE.) -/
def freeW (s : State) : W64 × State := (Config.freeWord s.fresh, { s with fresh := s.fresh + 1 })

/-! ## Counters (R436, R437) -/

/-- Add to the counter at CSR address `a`, wrapping at 2^64; nothing is counted while frozen (R440). -/
def cntAdd (s : State) (a n : Nat) : State :=
  if s.cnt.frozen then s else
  { s with cnt := { s.cnt with bank := tput 0 s.cnt.bank a (tget 0 s.cnt.bank a + BitVec.ofNat 64 n) } }

/-- Take back from a counter: a slot classed retired that becomes wasted (R439). -/
def cntSub (s : State) (a n : Nat) : State :=
  if s.cnt.frozen then s else
  { s with cnt := { s.cnt with bank := tput 0 s.cnt.bank a (tget 0 s.cnt.bank a - BitVec.ofNat 64 n) } }

/-- CSR address of global selector `n`, global counter `n`, tenant selector and tenant counter (Table OBS-1). -/
def gselAddr (n : Nat) : Nat := 0x93000 + 8 * n
/-- Address of global counter `n`. -/
def gcntAddr (n : Nat) : Nat := 0x91000 + 0x10 * n
/-- Base of tenant block `t`. -/
def tenBase (t : Nat) : Nat := 0x300000 + 0x1000 * t
/-- Base of port block `p`. -/
def portBase (p : Nat) : Nat := 0x200000 + 0x1000 * p
/-- Base of quire block `q`. -/
def quireBase (q : Nat) : Nat := 0x100000 + 0x10000 * q
/-- Address of selector `k` of tenant `t`. -/
def tselAddr (t k : Nat) : Nat := tenBase t + 0xA00 + 8 * k
/-- Address of counter `k` of tenant `t`. -/
def tcntAddr (t k : Nat) : Nat := tenBase t + 0x800 + 8 * k

/-- The counter a selector at address `a` drives. -/
def selCounter (a : Nat) : Nat :=
  if a < 0x300000 then gcntAddr ((a - 0x93000) / 8) else a - 0xA00 + 0x800

/-- Whether a selector takes an event of a code, instance and tenant (R437). -/
def selMatch (v : W64) (code inst : Nat) (t : Option Nat) : Bool :=
  bit v 29 && fld v 0 16 == code && (bit v 23 || fld v 16 7 == inst) &&
    (bit v 28 || t == some (fld v 24 4))

/-- Count `n` events of a code, instance and tenant in every selected counter. -/
def countEv (s : State) (code inst : Nat) (t : Option Nat) (n : Nat) : State :=
  s.cnt.sel.foldl (fun s e => if selMatch e.2 code inst t then cntAdd s (selCounter e.1) n else s) s

/-- Port counter `k` of Table OBS-4. -/
def portCount (s : State) (p k : Nat) (t : Option Nat) (n : Nat) : State :=
  countEv (cntAdd s (portBase p + 0x800 + 8 * k) n) (0x1000 + k) p t n

/-- Quire counter `k` of Table OBS-4. -/
def quireCount (s : State) (q k : Nat) (t : Option Nat) (n : Nat) : State :=
  countEv (cntAdd s (quireBase q + 0x800 + 8 * k) n) (0x2000 + k) q t n

/-- Address of the top-down counter of producer `p`, instance `i`, class `c` (R439). -/
def tdAddr (p i c : Nat) : Nat := 0x94000 + 0x800 * p + 0x20 * i + 8 * c

/-- Count top-down slots. -/
def topDown (s : State) (p i c : Nat) (t : Option Nat) (n : Nat) : State :=
  if n = 0 then s else countEv (cntAdd s (tdAddr p i c) n) (0x100 * p + 4 * i + c) i t n

/-- Move slots of an instance from retired to wasted (R439). -/
def tdWaste (s : State) (p i : Nat) (t : Option Nat) (n : Nat) : State :=
  topDown (cntSub s (tdAddr p i 0) n) p i 1 t n

/-- The stand-in counter index of a unit (R436). -/
def standIdx (u : UnitId) : Nat :=
  match u.kind with
  | 0 => u.index | 1 => 96 + u.index | 2 => 108 + u.index | 3 => 124 + u.index | 4 => 136 + u.index
  | 5 => 168 + u.index | 6 => 186 + u.index | _ => 258 + u.index

/-- Count one stand-in answer, saturating at 32 bits. -/
def standCount (s : State) (u : UnitId) : State :=
  let a := 0x98000 + 4 * standIdx u
  if s.cnt.frozen || tget 0 s.cnt.bank a == 0xFFFFFFFF then s else cntAdd s a 1

/-! ## Unit logs (R444, R445) -/

/-- Key of a log: unit and which (0 memory, 1 event). -/
def logKey (u : UnitId) (which : Nat) : Nat := u.kind * 256 + u.index * 2 + which

/-- Add an entry, or count a repeat; a full log counts an overflow. -/
def logPut (cap : Nat) (l : ULog) (same : UEnt → Bool) (e : UEnt) : ULog :=
  if l.ents.any same then
    { l with ents := replaceFirst same (fun x => { x with count := satAdd 31 x.count 1, time := e.time }) l.ents }
  else if cap ≤ l.ents.length then { l with ovf := satAdd 0xFFFF l.ovf 1 }
  else { l with ents := l.ents ++ [e] }

/-- Enter an event in a unit's event log: code, CSR offset and detail (Table OBS-7). -/
def logEvent (s : State) (u : UnitId) (code off detail : Nat) : State :=
  let k := logKey u 1
  let l := logPut 16 (tget {} s.cnt.logs k) (fun x => x.valid && x.code == code && x.addr == off)
    { code := code, addr := off, detail := detail, time := now s }
  { s with cnt := { s.cnt with logs := tput {} s.cnt.logs k l } }

/-- Enter a memory error in a unit's memory log (R312, R314). -/
def logMem (s : State) (u : UnitId) (uncorr : Bool) (mem addr syn : Nat) : State :=
  let k := logKey u 0
  let l := logPut 32 (tget {} s.cnt.logs k) (fun x => x.valid && x.memory == mem && x.addr == addr && x.uncorr == uncorr)
    { uncorr := uncorr, memory := mem, code := syn, addr := addr, time := now s }
  { s with cnt := { s.cnt with logs := tput {} s.cnt.logs k l } }

/-- Enter an event that the manual logs without giving its code: the code is a free value (notes/assumptions/6.md).
(Log 6 DESIGN CHOICE.) -/
def logOpen (s : State) (u : UnitId) (off : Nat) : State :=
  let f := freeBelow s 256
  logEvent f.2 u f.1 off 0

/-- A port as a unit. -/
def uPort (p : Nat) : UnitId := ⟨0, p⟩
/-- A fixed CSR block as a log holder (R444). -/
def uBlock (i : Nat) : UnitId := ⟨9, i⟩

/-- The unit that logs for a CSR address, and the offset in its block (R444: the log of a block is that of its unit). -/
def logUnit (a : Nat) : UnitId × Nat :=
  if 0x1000 ≤ a && a < 0x3000 then (⟨7, a / 0x1000 - 1⟩, a % 0x1000)
  else if 0x11000 ≤ a && a < 0x11800 then (⟨4, (a - 0x11000) / 0x40⟩, a % 0x40)
  else if 0x21000 ≤ a && a < 0x21C00 then (⟨3, (a - 0x21000) / 0x100⟩, a % 0x100)
  else if 0x51000 ≤ a && a < 0x52200 then (⟨5, (a - 0x51000) / 0x100⟩, a % 0x100)
  else if 0x61000 ≤ a && a < 0x62200 then (⟨6, (a - 0x61000) / 0x40⟩, a % 0x40)
  else if a < 0x100000 then (uBlock (a / 0x10000), a % 0x10000)
  else if a < 0x1C0000 then (⟨1, a / 0x10000 - 0x10⟩, a % 0x10000)
  else if a < 0x260000 then (⟨0, (a - 0x200000) / 0x1000⟩, a % 0x1000)
  else if 0x300000 ≤ a && a < 0x310000 then (⟨2, (a - 0x300000) / 0x1000⟩, a % 0x1000)
  else (uBlock 0, 0)

/-- Log an ignored write at a CSR address with a code of Table OBS-7. -/
def logAt (s : State) (a code : Nat) : State := let u := logUnit a; logEvent s u.1 code u.2 0

/-! ## Vectors and events (R228, R229) -/

/-- Send an MSI-X vector through the active link, or set its PBA bit (R411). A link that is down takes no message. -/
def msixSend (s : State) (v : Nat) : State :=
  let l := activeLink s
  let k := 2048 * l + v
  let lk := getLink s l
  let e := tget {} s.cmd.msix k
  if bit e.ctrl 0 || lk.msixMask || !lk.msixEnable then
    { s with cmd := { s.cmd with pba := tput false s.cmd.pba k true } }
  else if lk.up then emit s (.msix l v) else s

/-- Raise a vector of a context: MSI-X, or a fabric posted write (R228). -/
def vecSend (s : State) (c v : Nat) : State :=
  let x := getCtx s c
  if bit x.vec 31 then emit s (.fabricWrite (fld x.cqCfg 16 12) x.fmsi (natLe 4 x.fmsiData.toNat))
  else msixSend s v

/-- Raise the event vector if armed, and disarm it. -/
def evtVec (s : State) (c : Nat) : State :=
  let x := getCtx s c
  if x.evtArmed then vecSend (modCtx s c fun x => { x with evtArmed := false }) c (fld x.vec 16 11) else s

/-- Whether the context waits for an event line. -/
def waitsFor (x : Ctx) (e : Nat) : Bool := match x.wait with | .ev m _ => bit m e | _ => false

/-- An event for a context: latched if its mask bit is 1 and counted as discarded otherwise (R229). A context that is off or
in reset latches nothing (R309: its registers read their reset values). -/
def evLatch (s : State) (c e : Nat) : State :=
  let x := getCtx s c
  if x.st == .off || x.st == .inReset then s
  else if !bit x.evm e then countEv s 0x6002 c (tenOf c) 1
  else
    let s' := modCtx s c fun x => { x with evp := x.evp ||| (1 <<< e) }
    if x.evtIrq && !waitsFor x e then evtVec s' c else s'

/-- A Steward event (Table OXM-10a, line 16 of S0). -/
def stewEv (s : State) : State := evLatch s 0 16
/-- A pace, power or thermal event (line 19 of S0). -/
def powerEv (s : State) : State := evLatch s 0 19
/-- A unit event addressed to a tenant. -/
def tenEv (s : State) (t : Nat) : State := evLatch s (ctxOf t) 16
/-- A tenant event where there is a tenant. -/
def tenEv? (s : State) (t : Option Nat) : State := match t with | some t => tenEv s t | none => s
/-- A Steward event when a status bit rises (R472). -/
def stewIf (s : State) (old new : Bool) : State := if new && !old then stewEv s else s

/-- A pending PLDM platform event (R419). (Log 39 DEDUCED.) -/
def pldmEv (s : State) (sensor : Nat) : State :=
  { s with cmd := { s.cmd with pldmEvents := s.cmd.pldmEvents ++ [sensor] } }

/-! ## Generation tags and reset states (R306, R307) -/

/-- The present generation tag of a unit. -/
def genOf (s : State) (u : UnitId) : BitVec 8 :=
  match u.kind with
  | 0 => (getPort s u.index).genTag
  | 1 => (getQuire s u.index).genTag
  | 2 => (getTen s u.index).genTag
  | 3 => (getChan s u.index).genTag
  | 4 => (getSlot s u.index).genTag
  | 5 => (getCtx s u.index).genTag
  | 6 => (getMov s u.index).genTag
  | _ => (getLink s u.index).genTag

/-- Whether an enabled hold entry names a unit (R310). (Log 70 DEDUCED.) -/
def heldBy (s : State) (u : UnitId) : Bool :=
  s.glb.hold.any fun e => e.2.enable && e.2.kind == u.kind && e.2.index == u.index &&
    (u.kind == 0 || u.kind == 1 || u.kind == 3 || u.kind == 6)

/-- An EXTEST or CLAMP in effect ends: the instruction register reads BYPASS (R467). (Log 37 DEDUCED.) -/
def tapEnd (s : State) : State :=
  if s.tap.ir == .extest || s.tap.ir == .clamp then { s with tap := { s.tap with ir := .bypass, loaded := .bypass } } else s

/-- Sequence over a list of indices. -/
def forL (l : List Nat) (s : State) (f : State → Nat → State) : State := l.foldl f s

end Sys2Proof.Machine
end

