-- ==== Sys2Proof/Machine/Deckle.lean ====
section
/-!
DEFINITION. The deckle table (08): the check of a line, the default map, runs of lines, and the deckle log.
-/

namespace Sys2Proof.Machine

/-- What a line is checked as (Table DKL-2, Table DKL-3): space 0 pool, 1 fabric, 2 program store, 3 CSR. -/
structure Chk where
  space : Nat
  addr : Nat
  stw : Bool
  ten : Nat
  dst : Nat := 0
  r : Bool := false
  w : Bool := false
  a : Bool := false
  x : Bool := false
deriving DecidableEq, Repr

/-- The outcome of a check: 0 passes, else a log kind plus one (Table DKL-10). -/
inductive Verdict where
  | pass | noMatch | noPerm
deriving DecidableEq, Repr

/-- Entry `i` of the table. -/
def getDkl (s : State) (i : Nat) : Deckle := tget {} s.dkl.tab i
/-- Valid bit of an entry. -/
def Deckle.valid (d : Deckle) : Bool := bit d.w0 63
/-- Lock bit of an entry. -/
def Deckle.locked (d : Deckle) : Bool := bit d.w0 62
/-- Steward bit of an entry. -/
def Deckle.stw (d : Deckle) : Bool := bit d.w0 61
/-- Tenant of an entry. -/
def Deckle.ten (d : Deckle) : Nat := fld d.w0 57 4
/-- Space of an entry. -/
def Deckle.space (d : Deckle) : Nat := fld d.w0 55 2
/-- First page. -/
def Deckle.base (d : Deckle) : Nat := fld d.w0 0 40
/-- Last page, inclusive. -/
def Deckle.limit (d : Deckle) : Nat := fld d.w1 0 40
/-- Destination PBR ID. -/
def Deckle.dst (d : Deckle) : Nat := fld d.w1 52 12

/-- Whether a line matches an entry (R196). -/
def dklMatch (q : Chk) (d : Deckle) : Bool :=
  d.valid && d.space == q.space && d.stw == q.stw && (q.stw || d.ten == q.ten) &&
    (q.space != 1 || d.dst == q.dst) && d.base ≤ q.addr / 4096 && q.addr / 4096 ≤ d.limit

/-- Whether an entry grants what a line needs (Table DKL-3). -/
def dklGrants (q : Chk) (d : Deckle) : Bool :=
  (!q.r || bit d.w0 54) && (!q.w || bit d.w0 53) && (!q.a || bit d.w0 52) && (!q.x || bit d.w0 51)

/-- The default map for Steward lines (Table DKL-4). -/
def defaultMap (q : Chk) : Bool :=
  match q.space with
  | 0 => q.addr < 24576 * 2 ^ 28 && !q.x
  | 1 => !q.x
  | 2 => q.addr < 2 ^ 20 && !q.a
  | _ => q.addr < 2 ^ 24 && !q.a && !q.x

/-- The check of one line (R197). -/
def dklLine (s : State) (q : Chk) : Verdict :=
  match s.dkl.tab.find? (fun e => dklMatch q e.2) with
  | some e => if dklGrants q e.2 then .pass else .noPerm
  | none => if q.stw && defaultMap q then .pass else .noMatch

/-- The number of lines a span of `len` bytes at `addr` touches. -/
def lineCount (addr len : Nat) : Nat := (addr + (if len = 0 then 1 else len) - 1) / 64 - addr / 64 + 1

/-- The index of the first refused line and its verdict, over `n` lines from the line of `q.addr` (R200). -/
def dklLines (s : State) (q : Chk) (n : Nat) : Option (Nat × Verdict) :=
  (List.range n).findSome? fun i =>
    match dklLine s { q with addr := q.addr / 64 * 64 + 64 * i } with
    | .pass => none
    | v => some (i, v)

/-- The log kind of a whole refusal (Table DKL-10). -/
def verdictKind (v : Verdict) : Nat := if v = .noPerm then 1 else 0

/-- The bit of DKL_EVENT for a log kind (Table DKL-9). -/
def setDklEvent (d : Dkl) (kind : Nat) : Dkl :=
  match kind with
  | 2 => { d with evStraddle := true }
  | 3 => { d with evDebug := true }
  | 4 => { d with evLock := true }
  | _ => { d with evRefused := true }

/-- Whether the bit of a log kind is set. -/
def dklEventOf (d : Dkl) (kind : Nat) : Bool :=
  match kind with
  | 2 => d.evStraddle | 3 => d.evDebug | 4 => d.evLock | _ => d.evRefused

/-- A log entry of Table DKL-10. -/
def dklEntry (s : State) (kind : Nat) (ten : Option Nat) (space src line dst n : Nat) : LogEnt :=
  { w0 := pack64 [(63, 1), (60, kind), (56, ten.getD 0), fl 55 ten.isNone, (53, space), (46, src), (0, line % 2 ^ 46)]
    w1 := now s
    w2 := pack64 [(52, if space = 1 then dst else 0), (0, if 2 ^ 32 ≤ n then 2 ^ 32 - 1 else n)] }

/-- Log a deckle event (R211): the event bit and its Steward event, the log entry, the tenant's event. -/
def dklLog (s : State) (kind : Nat) (ten : Option Nat) (space src line dst n : Nat) : State :=
  let e := dklEntry s kind ten space src line dst n
  let d := setDklEvent s.dkl kind
  let d' := if 32 ≤ d.log.length then { d with evLogOvf := true } else { d with log := d.log ++ [e] }
  let s' := stewIf { s with dkl := d' } (dklEventOf s.dkl kind) true
  tenEv? s' ten

/-- Log a refused line of a checked request. -/
def dklRefuse (s : State) (q : Chk) (v : Verdict) (src n : Nat) : State :=
  dklLog s (verdictKind v) (if q.stw then none else some q.ten) q.space src (q.addr / 64) q.dst n

/-- Source number of a context in the log. -/
def ctxSrc (c : Nat) : Nat := 96 + c

/-- Whether a byte address of a space lies in a locked entry's region (R206). -/
def inLocked (s : State) (space addr dst : Nat) : Bool :=
  s.dkl.tab.any fun e => e.2.valid && e.2.locked && e.2.space == space && (space != 1 || e.2.dst == dst) &&
    e.2.base ≤ addr / 4096 && addr / 4096 ≤ e.2.limit

end Sys2Proof.Machine
end

