-- ==== Sys2Proof/Machine/Flags.lean ====
section
/-!
DEFINITION. The arithmetic results and flags of Table OXI-3 and R239.
-/

namespace Sys2Proof.Machine

/-- A result with its flags: Z, N from the result, C and V by the table. -/
structure Alu where
  r : W64
  c : Bool := false
  v : Bool := false
deriving DecidableEq, Repr

/-- Signed value of a register. -/
def sgn (x : W64) : Int := x.toInt

/-- Whether a signed number fits 64 bits. -/
def fits64 (x : Int) : Bool := -(2 ^ 63) ≤ x && x < 2 ^ 63

/-- ADD. -/
def aluAdd (a s : W64) : Alu := { r := a + s, c := 2 ^ 64 ≤ a.toNat + s.toNat, v := !fits64 (sgn a + sgn s) }
/-- SUB and CMP. -/
def aluSub (a s : W64) : Alu := { r := a - s, c := s.toNat ≤ a.toNat, v := !fits64 (sgn a - sgn s) }
/-- MUL. -/
def aluMul (a s : W64) : Alu := { r := a * s, c := 2 ^ 64 ≤ a.toNat * s.toNat, v := !fits64 (sgn a * sgn s) }
/-- MULHU. -/
def aluMulhu (a s : W64) : Alu := { r := BitVec.ofNat 64 (a.toNat * s.toNat / 2 ^ 64) }
/-- DIVU. -/
def aluDivu (a s : W64) : Alu :=
  if s = 0 then { r := BitVec.allOnes 64, v := true } else { r := BitVec.ofNat 64 (a.toNat / s.toNat) }
/-- REMU. -/
def aluRemu (a s : W64) : Alu := if s = 0 then { r := a, v := true } else { r := BitVec.ofNat 64 (a.toNat % s.toNat) }
/-- AND and TST. -/
def aluAnd (a s : W64) : Alu := { r := a &&& s }
/-- OR. -/
def aluOr (a s : W64) : Alu := { r := a ||| s }
/-- XOR. -/
def aluXor (a s : W64) : Alu := { r := a ^^^ s }
/-- SHL; the shift is 0 to 63 here (R236). C is the last bit shifted out. -/
def aluShl (a s : W64) : Alu :=
  let n := s.toNat
  { r := a <<< n, c := n != 0 && bit a (64 - n) }
/-- SHR. -/
def aluShr (a s : W64) : Alu :=
  let n := s.toNat
  { r := a >>> n, c := n != 0 && bit a (n - 1) }
/-- SAR. -/
def aluSar (a s : W64) : Alu :=
  let n := s.toNat
  { r := a.sshiftRight n, c := n != 0 && bit a (n - 1) }
/-- MIN, signed or unsigned. -/
def aluMin (sg : Bool) (a s : W64) : Alu := { r := if sg then (if sgn a ≤ sgn s then a else s) else if a.toNat ≤ s.toNat then a else s }
/-- MAX, signed or unsigned. -/
def aluMax (sg : Bool) (a s : W64) : Alu := { r := if sg then (if sgn s ≤ sgn a then a else s) else if s.toNat ≤ a.toNat then a else s }

/-- Leading zeros. -/
def clz (a : W64) : Nat := ((List.range 64).takeWhile fun i => !bit a (63 - i)).length
/-- Bits set. -/
def popc (a : W64) : Nat := ((List.range 64).filter fun i => bit a i).length
/-- Bit-field extract. -/
def bfx (a : W64) (pos width : Nat) : W64 := BitVec.ofNat 64 (fld a pos width)
/-- Bit-field insert. -/
def bfi (d a : W64) (pos width : Nat) : W64 := setFld d pos width (fld a 0 width)

/-- Set the flags of a context from a result (R239). -/
def setFlags (x : Ctx) (y : Alu) : Ctx := { x with z := y.r == 0, n := bit y.r 63, c := y.c, v := y.v }

/-- Conditions of Table OXM-4. (Log 43 DEDUCED.) -/
def condHolds (x : Ctx) (cond : BitVec 4) : Bool :=
  match cond.toNat with
  | 0 => true
  | 1 => x.z
  | 2 => !x.z
  | 3 => x.n
  | 4 => !x.n
  | 5 => x.c
  | 6 => !x.c
  | 7 => x.v
  | 8 => !x.v
  | 9 => x.c && !x.z
  | 10 => !x.c || x.z
  | 11 => x.n == x.v
  | 12 => x.n != x.v
  | 13 => !x.z && x.n == x.v
  | 14 => x.z || x.n != x.v
  | _ => false

end Sys2Proof.Machine
end

