-- ==== Sys2Proof/Machine/Mgmt.lean ====
section
/-!
DEFINITION. Management messages (R325, Tables HIER-4, HIER-5): their bytes, tags and sequences, what a device sends of its own
accord, and the reports of domain take sets (R333).
-/

namespace Sys2Proof.Machine

/-- A worker that was promoted: it names itself as manager (R330). -/
def promoted (s : State) : Bool := s.stk.mode == 2 && s.stk.joined && s.stk.manager == s.stk.dev && s.stk.dev != 0

/-- A manager or master in force: one that was superseded is silent (R331). -/
def isMgr (s : State) : Bool := (s.stk.mode == 1 || s.stk.mode == 3 || promoted s) && !s.stk.silent

/-- A joined worker or member, or an old manager that follows a new one. -/
def isWorker (s : State) : Bool := s.stk.joined && (s.stk.mode == 2 || s.stk.mode == 4 || s.stk.silent) && !isMgr s

/-- A peer device. -/
def getPeer (s : State) (d : Nat) : Peer := tget {} s.stk.peers d
/-- Change a peer device. -/
def modPeer (s : State) (d : Nat) (f : Peer → Peer) : State :=
  { s with stk := { s.stk with peers := tput {} s.stk.peers d (f (getPeer s d)) } }

/-- Bytes 0 to the end of the payload of a message of a kind (Table HIER-4). -/
def mgmtBytes (kind : Nat) (m : Mgmt) : List Byte :=
  [0x7E] ++ natLe 2 0x1F3C ++ [BitVec.ofNat 8 kind, if m.last then 1 else 0] ++ natLe 2 (m.sender % 1024) ++
    natLe 2 (m.receiver % 1024) ++ natLe 4 m.epoch.toNat ++ natLe 8 m.sequence.toNat ++ m.payload

/-- The two nonces of a session, the manager's first (R326). (Log 78 DEDUCED.) -/
def sessNonces (s : State) (x : Peer) : List Byte :=
  if isMgr s then natLe 8 x.nonceOwn.toNat ++ natLe 8 x.noncePeer.toNat
  else natLe 8 x.noncePeer.toNat ++ natLe 8 x.nonceOwn.toNat

/-- The tag of a message in a session: the domain key over the message and the session's nonces. A JOIN, before the session,
covers the message alone. (Log 8 DESIGN CHOICE, 78 DEDUCED.) -/
def mgmtTag (s : State) (x : Peer) (kind : Nat) (m : Mgmt) : List Byte :=
  Config.hmac s.stk.key (mgmtBytes kind m ++ if kind = 1 then [] else sessNonces s x)

/-- A route slot (Table IFL-4). (Log 28 DEDUCED.) -/
def routeSlot (src dst ten : Nat) (stw : Bool) (proto qclass h : Nat) (psn : Bool) (dlen istamp tstamp origin : Nat) : List Byte :=
  natLe 16 (packN [(116, src % 4096), (104, dst % 4096), (100, ten % 16), fl 99 stw, (96, proto), (92, qclass % 16), (90, h), fl 89 psn,
                   (75, dlen), (67, istamp), (59, tstamp), (56, origin)])

/-- Bytes padded with zeros to whole slots. -/
def padSlots (b : List Byte) : List Byte := slice b 0 (16 * ceilDiv b.length 16)

/-- The slots of a message: its route slot is the first. -/
def slotsOf : Nat → Bool → List Byte → List TxSlot
  | 0, _, _ => []
  | n + 1, f, b => if b.isEmpty then [] else { first := f, bytes := slice b 0 16 } :: slotsOf n false (b.drop 16)

/-- A message's bytes as slots. -/
def msgSlots (b : List Byte) : List TxSlot := slotsOf b.length true b

/-- A management message of the device leaves by a port: as a CXL.io message of its link, or in MGMT leaves of a stack link, whose route
slot's destination ID and queue class, which nothing uses there, are free (R325, R346). (Log 27 DESIGN CHOICE.) -/
def mgmtEmit (s : State) (p kind : Nat) (m : Mgmt) : State :=
  if fld (getPort s p).cfg 28 3 = 5 then
    let f := freeBelow s 65536
    let b := mgmtBytes kind m ++ m.tag
    let slot := routeSlot s.stk.mgmtPbr f.1 0 true 4 (f.1 / 4096) 0 false b.length 0 0 s.glb.straps.stackId.toNat
    emit (modPort f.2 p fun x => { x with ifl := { x.ifl with txMgmt := x.ifl.txMgmt ++ msgSlots (slot ++ padSlots b) } }) (.mgmt p kind m)
  else emit s (.mgmt p kind m)

/-- Send a message of the device to a joined device: the next sequence, the tag, out of the port it was joined by.
(Log 79 DEDUCED.) -/
def mgmtSend (s : State) (dev kind : Nat) (payload : List Byte) : State :=
  let x := getPeer s dev
  let m : Mgmt := { sender := s.stk.dev, receiver := dev, epoch := s.stk.epoch, sequence := x.txSeq + 1, payload := payload }
  let m := { m with tag := mgmtTag s x kind m }
  mgmtEmit (modPeer s dev fun x => { x with txSeq := x.txSeq + 1 }) x.port kind m

/-- The bits of STK_MSG_EVENT. -/
inductive MsgEv where
  | takeover | auth | replay | unjoined | epoch
deriving DecidableEq, Repr

/-- Whether a bit is set. -/
def msgEvGet (x : Stk) : MsgEv → Bool
  | .takeover => x.evTakeover
  | .auth => x.evAuth
  | .replay => x.evReplay
  | .unjoined => x.evUnjoined
  | .epoch => x.evEpoch

/-- Set a bit; event 19 in S0 as it sets. -/
def msgEv (s : State) (e : MsgEv) : State :=
  let x := s.stk
  let was := msgEvGet x e
  let x := match e with
    | .takeover => { x with evTakeover := true }
    | .auth => { x with evAuth := true }
    | .replay => { x with evReplay := true }
    | .unjoined => { x with evUnjoined := true }
    | .epoch => { x with evEpoch := true }
  let s := { s with stk := x }
  if was then s else powerEv s

/-- A message is dropped and counted. -/
def msgDrop (s : State) : State := { s with stk := { s.stk with drops := satAdd 0xFFFFFFFF s.stk.drops 1 } }

/-- State code of a take set (Table TIME-6). -/
def takeCode (t : TakeSet) : Nat :=
  match t.st with | .free => 0 | .staging => 1 | .preparing => 2 | .ready => 3 | .applied => 4 | .failed => 5

/-- TIME_TAKE_STAT. -/
def takeStat (t : TakeSet) : W32 :=
  pack32 [(29, takeCode t), (24, t.owner), (13, t.items.length), (5, t.slips), (2, t.cause)]

/-- A worker reports the state of a domain set: TAKE_READY. -/
def takeReady (s : State) (i : Nat) : State :=
  let t := getTake s i
  if t.domain && isWorker s then mgmtSend s s.stk.manager 0x07 [BitVec.ofNat 8 i, BitVec.ofNat 8 (takeCode t)] else s

/-- A worker reports a domain set's application or slip: TAKE_DONE. -/
def takeDone (s : State) (i : Nat) : State :=
  let t := getTake s i
  if t.domain && isWorker s then
    mgmtSend s s.stk.manager 0x09 (BitVec.ofNat 8 i :: natLe 4 (takeStat t).toNat ++ natLe 8 t.applyAt.toNat)
  else s

end Sys2Proof.Machine
end

