-- ==== Sys2Proof/Machine/Operands.lean ====
section
/-!
DEFINITION. The operand forms of Oxvik instructions: registers, the second source, and what a table row's fields may hold (R214, R218,
R236, Table OXM-6).
-/

namespace Sys2Proof.Machine

/-! ## Registers and sources -/

/-- Register `i` of a context; k0 reads zero. -/
def kget (x : Ctx) (i : BitVec 4) : W64 := if i = 0 then 0 else tget 0 x.k i.toNat
/-- Write register `i`; k0 discards. -/
def kset (x : Ctx) (i : BitVec 4) (v : W64) : Ctx := if i = 0 then x else { x with k := tput 0 x.k i.toNat v }

/-- Sign-extended imm32. -/
def sx (w : Ox) : W64 := w.imm.signExtend 64

/-- The second source: register b, or imm32 with the # bit (Table OXM-6). -/
def src2 (x : Ctx) (w : Ox) : W64 := if bit w.mod 5 then sx w else kget x w.b

/-! ## Fields -/

/-- What an instruction's table row defines: modifier bits 5:0, the registers used, and the bits of imm32 and word B. -/
structure Shape0 where
  mods : Nat := 0
  d : Bool := false
  a : Bool := false
  b : Bool := false
  imm : Nat := 0
  B : Nat := 0
deriving DecidableEq, Repr

/-- Whether a value uses only the bits of a mask. -/
def within (v mask : Nat) : Bool := v &&& mask == v

/-- Undefined modifier, register and operand bits are zero (R218, R236). -/
def shapeOk (w : Ox) (h : Shape0) : Bool :=
  within (w.mod.toNat % 64) h.mods && (h.d || w.d == 0) && (h.a || w.a == 0) && (h.b || w.b == 0) &&
    within w.imm.toNat h.imm && within w.B.toNat h.B

/-- The first check that fails gives its status (Table OXM-11). -/
def firstFail : List (Bool × Nat) → Option Nat
  | [] => none
  | (bad, st) :: l => if bad then some st else firstFail l

end Sys2Proof.Machine
end

