-- ==== Sys2Proof/Machine/Seq.lean ====
section
/-!
DEFINITION. The sequencer engine (09): issue rotation, fetch, decode checks, retirement, completion records, faults, resume.
-/

namespace Sys2Proof.Machine

/-! ## Completion records (R226 to R228) -/

/-- log2 of a ring's entries (R455). -/
def ringLog (cfg : W32) : Nat := let v := fld cfg 0 4; if v = 0 then 16 else if v < 4 then 4 else v
/-- Ring `r` of a context. -/
def getRing (x : Ctx) (r : Nat) : Ring := tget {} x.rings r
/-- Replace ring `r`. -/
def setRing (x : Ctx) (r : Nat) (g : Ring) : Ctx := { x with rings := tput {} x.rings r g }
/-- Whether a ring is served: enabled and not empty. -/
def ringHas (x : Ctx) (r : Nat) : Bool := let g := getRing x r; bit g.cfg 31 && g.head != g.tail
/-- Whether the completion ring has no free slot (R227). -/
def cqFull (x : Ctx) : Bool := (x.cqTail + 1) % 2 ^ ringLog x.cqCfg == x.cqHead % 2 ^ ringLog x.cqCfg

/-- The two words of a record (Table OXM-8). -/
def recBytes (r : Rec) (phase : Bool) : List Byte :=
  natLe 8 (pack64 [fl 63 phase, (48, r.status), (40, r.opcode.toNat), (32, r.source), (16, r.entry)]).toNat ++ natLe 8 r.result.toNat

/-- Write bytes to a ring's memory: command-host memory or the fabric (Table OXM-7). -/
def ringWrite (s : State) (cfg : W32) (addr : W64) (b : List Byte) : State :=
  if bit cfg 30 then emit s (.fabricWrite (fld cfg 16 12) addr b) else emit s (.hostWrite addr b)

/-- Write one record in the next slot; the completion vector rises when the record asks for it or is a fault's (R228). -/
def cqWrite (s : State) (c : Nat) (r : Rec) : State :=
  let x := getCtx s c
  let s := ringWrite s x.cqCfg (x.cqBase + BitVec.ofNat 64 (16 * x.cqTail)) (recBytes r x.cqPhase)
  let t := (x.cqTail + 1) % 2 ^ ringLog x.cqCfg
  let s := modCtx s c fun y => { y with cqTail := t, cqPhase := if t = 0 then !y.cqPhase else y.cqPhase }
  let s := countEv s 0x6003 c (tenOf c) 1
  if (r.irq || r.fault) && x.cmpArmed then vecSend (modCtx s c fun y => { y with cmpArmed := false }) c (fld x.vec 0 11)
  else s

/-- Post a record: written, held while the ring is full, or discarded and counted where no completion ring is enabled (R416).
A block's records go into its RESULT (R327). (Log 42 DEDUCED.) -/
def postRec (s : State) (c : Nat) (r : Rec) : State :=
  let x := getCtx s c
  if x.blockOn && c == 1 && r.source == 4 then modCtx s c fun y => { y with blockRecs := y.blockRecs ++ [r] }
  else if !bit x.cqCfg 31 then { s with cmd := { s.cmd with recordsDropped := s.cmd.recordsDropped + 1 } }
  else if !x.due.isEmpty || cqFull x then modCtx s c fun y => { y with due := y.due ++ [r] }
  else cqWrite s c r

/-- Write due records while slots are free (R227). -/
def flushDue (c : Nat) : List Rec → State → State
  | [], s => s
  | r :: rest, s =>
    if cqFull (getCtx s c) then modCtx s c fun y => { y with due := r :: rest }
    else flushDue c rest (cqWrite (modCtx s c fun y => { y with due := rest }) c r)

/-! ## Issue (R213) -/

/-- A context that can take an issue slot. -/
def ready (s : State) (c : Nat) : Bool :=
  let x := getCtx s c
  x.st == .ready && x.due.isEmpty && x.wait == .none && x.run != .idle

/-- Weight of a context, 1 to 64 (Table OXM-2). -/
def weightOf (s : State) (c : Nat) : Nat := clamp 1 64 (getCtx s c).weight

/-- The context whose turn it is: the present one while it is ready and has slots left, else the next ready one. -/
def pickTurn (s : State) : Option Nat :=
  if s.seq.left != 0 && ready s s.seq.turn then some s.seq.turn else firstFrom 18 (s.seq.turn + 1) (ready s)

/-- Take an issue slot for context `c`. -/
def takeSlot (s : State) (c : Nat) : State :=
  let left := if s.seq.turn = c && s.seq.left != 0 then s.seq.left else weightOf s c
  { s with seq := { s.seq with turn := c, left := left - 1 } }

/-- Word A of an instruction (Table OXM-5). -/
def wordA (op : Nat) (w : Ox) : W64 :=
  pack64 [(56, op), (52, w.d.toNat), (48, w.a.toNat), (44, w.b.toNat), (40, w.cond.toNat), (32, w.mod.toNat), (0, w.imm.toNat)]

/-- The debug context may issue: in S1 while it is idle (Table DKL-8). (Log 42 DEDUCED.) -/
def debugIssue (s : State) (c : Nat) : Bool :=
  c == 1 && s.glb.dbgCtxEn && s.glb.tapEn && (getCtx s 1).st == .idle && (getCtx s 1).due.isEmpty

/-- The instruction a context issues next, from its ring entry, the program store or its block. -/
def nextWords (s : State) (c : Nat) : Option (W64 × W64) :=
  let x := getCtx s c
  match x.run with
  | .entry _ _ a b => some (a, b)
  | .prog _ =>
    some (BitVec.ofNat 64 (leNat (rdBytes s.seq.ps x.pc.toNat 8)), BitVec.ofNat 64 (leNat (rdBytes s.seq.ps (x.pc.toNat + 8) 8)))
  | .block => x.block.head?
  | _ => none

/-- Whether a context issues a given instruction now: it is its turn (or it re-issues a waiting instruction), and these are
the words it fetches. (Log 1 DESIGN CHOICE.) -/
def issues (s : State) (c op : Nat) (w : Ox) : Bool :=
  (debugIssue s c && (getCtx s c).run == .idle) ||
    ((pickTurn s == some c || ((getCtx s c).st == .waiting && (getCtx s c).wait == .again && (getCtx s c).due.isEmpty)) &&
      nextWords s c == some (wordA op w, w.B))

/-- Privilege of a context: Steward for S0 and S1 (R215). -/
def isStw (c : Nat) : Bool := c < 2

/-- The outcome of a fetch from the program store: 0, or ACCESS or ECC (R220, R221). -/
def fetchFault (s : State) (c : Nat) : Option Nat :=
  let x := getCtx s c
  match x.run with
  | .prog _ =>
    if dklLine s { space := 2, addr := x.pc.toNat, stw := isStw c, ten := c - 2, x := true } != .pass then some 0x14
    else if s.seq.psBad.contains (x.pc.toNat / 16) then some 0x18 else none
  | _ => none

/-! ## Retirement and faults (R226, R233, R237) -/

/-- Source and entry of a record for what the context runs (Table OXM-8). (Log 42 DEDUCED.) -/
def recSrc (x : Ctx) : Nat × Nat :=
  match x.run with
  | .entry r e _ _ => (r, e)
  | .prog (some (r, e)) => (r, e)
  | .debug => (5, 0)
  | _ => (4, 0)

/-- Whether any ring waits to be served. -/
def anyRing (x : Ctx) : Bool := (List.range 4).any (ringHas x)

/-- The RESULT message of a finished block (R327). -/
def blockResult (s : State) (c status : Nat) : State :=
  let x := getCtx s c
  let s := mgmtSend s x.blockFrom 0x04 (BitVec.ofNat 8 status :: x.blockRecs.flatMap fun r => recBytes r false)
  modCtx s c fun y => { y with blockOn := false, block := [], blockRecs := [] }

/-- Where a context goes when the entry it ran is over: its next block, the rings, or idle. -/
def rest (x : Ctx) : Ctx :=
  let st : CtxSt := if x.st == .halted then .halted else if anyRing x then .ready else .idle
  let st' : CtxSt := if x.st == .halted then .halted else .ready
  let x : Ctx := { x with run := .idle, st := st }
  match x.blocks with
  | b :: bs =>
    if x.blockOn then x
    else { x with run := .block, blockOn := true, blockPort := b.1, blockFrom := b.2.1, block := b.2.2, blocks := bs,
                  blockRecs := [], st := st' }
  | [] => x

/-- End of a ring entry: the rotation moves to the next ring (R225). -/
def endEntry (s : State) (c r : Nat) : State := modCtx s c fun x => rest { x with ringTurn := (r + 1) % 4 }

/-- A pending halt request takes hold between instructions (R238). (Log 89 DEDUCED.) -/
def takeHalt (s : State) (c : Nat) : State :=
  modCtx s c fun x => if x.haltReq then { x with st := .halted, haltReq := false } else x

/-- The context moves on after an instruction: past it in a program, to the end of its entry, to the next of its block. -/
def moveOn (s : State) (c : Nat) : State :=
  let x := getCtx s c
  match x.run with
  | .entry r _ _ _ => endEntry s c r
  | .prog _ => modCtx s c fun x => { x with pc := x.pc + 16 }
  | .block =>
    let s := modCtx s c fun x => { x with block := x.block.drop 1 }
    if x.block.length ≤ 1 then modCtx (blockResult s c 0) c rest else s
  | .debug => modCtx s c fun x => { x with run := .idle, st := .idle }
  | .idle => s

/-- The context moves on, and a pending halt request takes hold. -/
def advance (s : State) (c : Nat) : State := takeHalt (moveOn s c) c

/-- The record of an instruction that asked for one (R227). -/
def recIf (s : State) (c op : Nat) (w : Ox) (st : Nat) (res : Option W64) : State :=
  if bit w.mod 7 then
    let x := getCtx s c
    postRec s c { status := st, opcode := BitVec.ofNat 8 op, source := (recSrc x).1, entry := (recSrc x).2,
                  result := res.getD (now s), irq := bit w.mod 6 }
  else s

/-- Clear a wait. -/
def unwait (s : State) (c : Nat) : State :=
  modCtx s c fun x => { x with wait := .none, st := if x.st == .waiting then .ready else x.st }

/-- Top-down class of a retirement status (Table OBS-5): SKIPPED is wasted. -/
def tdClass (st : Nat) : Nat := if st = 3 then 1 else 0

/-- The slot and the retirement of an instruction are counted (Table OBS-3, Table OBS-5), and its wait is over. -/
def retireCount (s : State) (c st : Nat) : State :=
  let s := topDown (topDown (unwait s c) 2 0 (tdClass st) (tenOf c) 1) 2 (c + 1) (tdClass st) (tenOf c) 1
  countEv s 0x6000 c (tenOf c) 1

/-- An instruction retires with a status: its record, then the context moves on. -/
def retire (s : State) (c op : Nat) (w : Ox) (st : Nat) (res : Option W64) : State :=
  advance (recIf (retireCount s c st) c op w st res) c

/-- Retire OK with a value for kd. -/
def retireK (s : State) (c op : Nat) (w : Ox) (d : BitVec 4) (v : W64) : State :=
  retire (modCtx s c fun x => kset x d v) c op w 0 (some v)

/-- Retire with a status and no effect. -/
def retireSt (s : State) (c op : Nat) (w : Ox) (st : Nat) : State := retire s c op w st none

/-- A fault stops the context: record, state, event 16 in S0 (R233). -/
def faultCtx (s : State) (c op : Nat) (st : Nat) : State :=
  let x := getCtx s c
  let s := topDown (topDown (unwait s c) 2 0 1 (tenOf c) 1) 2 (c + 1) 1 (tenOf c) 1
  let s := countEv s 0x6001 c (tenOf c) 1
  let s := postRec s c { status := st, opcode := BitVec.ofNat 8 op, source := (recSrc x).1, entry := (recSrc x).2,
                         result := x.pc.setWidth 64, irq := false, fault := true }
  let ring := match x.run with | .entry .. => true | .prog (some _) => true | .block => true | _ => x.blockOn
  let s := if x.blockOn && c == 1 then blockResult s c st else s
  let s := modCtx s c fun x => { x with st := .faulted, fault := st, faultInRing := ring, haltReq := false }
  stewEv s

/-! ## Decode checks (R232) -/

/-- An instruction runs in a ring entry, a block or as a debug instruction, not from the program store (R225, R327). -/
def inRing (s : State) (c : Nat) : Bool :=
  match (getCtx s c).run with | .prog _ => false | _ => true

/-- Prepare a debug-issued instruction. (Log 42 DEDUCED.) -/
def asDebug (s : State) (c : Nat) : State :=
  if debugIssue s c && (getCtx s c).run == .idle then modCtx s c fun x => { x with run := .debug } else s

/-- The turn ends early when the context is no longer ready (R213). -/
def endTurn (s : State) (c : Nat) : State :=
  if s.seq.turn = c && !ready s c then { s with seq := { s.seq with left := 0 } } else s

/-- Issue one instruction: its slot, its fetch, the decode checks in order, the condition, then its effect. A command whose
instruction the context does not issue now changes nothing. A fault of an instruction issued as debug leaves S1 idle.
(Log 43 DEDUCED.) -/
def oxRun (c op : Nat) (w : Ox) (sh : Shape0) (chk : State → Ctx → List (Bool × Nat)) (eff : State → Ctx → State)
    (s : State) : State :=
  if !issues s c op w then s else
  let s := asDebug s c
  let s := if (getCtx s c).wait == .again || (getCtx s c).run == .debug then s else takeSlot s c
  match fetchFault s c with
  | some st => endTurn (faultCtx s c op st) c
  | none =>
    let x := getCtx s c
    match firstFail (((0xA0 ≤ op && op ≤ 0xAF && !isStw c), 0x13) :: (w.cond == 0xF, 0x11) :: (!shapeOk w sh, 0x11) :: chk s x) with
    | some st => endTurn (faultCtx s c op st) c
    | none =>
      if condHolds x w.cond then endTurn (eff s x) c else endTurn (retireSt s c op w 3) c

/-- The instruction waits and issues again when its condition can hold, taking no slot (R250, R231). (Log 40 DEDUCED.) -/
def waitAgain (s : State) (c : Nat) : State := modCtx s c fun x => { x with st := .waiting, wait := .again }

/-! ## Resume and halt (R234, R238) -/

/-- Resume a halted or faulted context. (Log 89 DEDUCED.) -/
def resumeCtx (s : State) (c : Nat) : State :=
  let x := getCtx s c
  match x.st with
  | .halted => modCtx s c fun x =>
      { x with st := if x.wait != .none then .waiting else if x.run != .idle || anyRing x then .ready else .idle }
  | .faulted =>
    if x.faultInRing then
      let turn := match x.run with
        | .entry r _ _ _ => (r + 1) % 4
        | .prog (some (r, _)) => if r < 4 then (r + 1) % 4 else x.ringTurn
        | _ => x.ringTurn
      modCtx s c fun x => rest { x with stack := [], ringTurn := turn }
    else modCtx s c fun x => { x with st := if x.run == .idle || x.run == .debug then .idle else .ready
                                      run := if x.run == .debug then .idle else x.run }
  | _ => s

/-- A halt request (R238): at once between instructions or in a wait that may be abandoned, else after the instruction.
(Log 89 DEDUCED.) -/
def haltCtx (s : State) (c : Nat) : State :=
  let x := getCtx s c
  match x.st with
  | .waiting =>
    match x.wait with
    | .ev .. | .time _ | .frame .. => modCtx s c fun x => { x with st := .halted, wait := .none, haltReq := false }
    | _ => modCtx s c fun x => { x with haltReq := true }
  | .ready | .idle => modCtx s c fun x => { x with st := .halted, haltReq := false }
  | _ => s

/-- The command rings of a context are disabled with heads set to tails, for loc = 0 only or for all (R416). -/
def ringsOff (hostOnly : Bool) (s : State) (c : Nat) : State :=
  let x := getCtx s c
  let hit (cfg : W32) : Bool := bit cfg 31 && (!hostOnly || !bit cfg 30)
  let rings := x.rings.map fun e => if hit e.2.cfg then (e.1, { e.2 with cfg := setFld e.2.cfg 31 1 0, head := e.2.tail }) else e
  let cq := hit x.cqCfg
  let s := modCtx s c fun x => { x with rings := rings, due := if cq then [] else x.due
                                        cqCfg := if cq then setFld x.cqCfg 31 1 0 else x.cqCfg
                                        cqHead := if cq then x.cqTail else x.cqHead }
  if cq then { s with cmd := { s.cmd with recordsDropped := s.cmd.recordsDropped + x.due.length } } else s

/-- A context enters reset (Table SVC-3): the state of R215, the timer, the staging set, entries rung before, records due. -/
def ctxClear (s : State) (c : Nat) : State :=
  modCtx s c fun x =>
    { x with st := .inReset, genTag := x.genTag + 1, k := [], z := false, n := false, c := false, v := false, pc := 0, stack := []
             evm := 0x000FFFFF, evp := 0, due := [], atWait := none, wait := .none, run := .idle, faultInRing := false
             staging := none, reply := none, haltReq := false, fault := 0, blockOn := false, block := [], blockRecs := []
             waitRec := none, stores := 0, ringTurn := 0, blocks := []
             rings := x.rings.map fun e => (e.1, { e.2 with head := e.2.tail }) }

/-- The end of a context's reset: state idle, or ready when a doorbell came meanwhile (R224). -/
def ctxRelease (s : State) (c : Nat) : State :=
  modCtx s c fun x => if x.st == .inReset then { x with st := if anyRing x then .ready else .idle } else x

/-- The awaited happening of a waiting instruction: kd where it writes one, its record, and the context moves on (R227,
Table OXM-10). -/
def finishWait (s : State) (c : Nat) (v : Option (BitVec 4 × W64)) : State :=
  let s := retireCount s c 0
  let s := match v with | some (d, x) => modCtx s c fun y => kset y d x | none => s
  let s := match (getCtx s c).waitRec with
    | some r => postRec s c { r with result := (v.map fun p => p.2).getD (now s) }
    | none => s
  advance (modCtx s c fun x => { x with waitRec := none }) c

/-- Contexts whose wait has a form retire (Table OXI-20). -/
def retireWaiters (s : State) (p : Wait → Bool) : State :=
  forL (List.range 18) s fun s c => if p (getCtx s c).wait then finishWait s c none else s

/-- Keep the record an instruction will post when its wait ends. -/
def waitWith (s : State) (c op : Nat) (w : Ox) (wt : Wait) : State :=
  let x := getCtx s c
  let r : Rec := { status := 0, opcode := BitVec.ofNat 8 op, source := (recSrc x).1, entry := (recSrc x).2, result := 0,
                   irq := bit w.mod 6 }
  modCtx s c fun x => { x with st := .waiting, wait := wt, waitRec := if bit w.mod 7 then some r else none }

end Sys2Proof.Machine
end

