-- ==== Sys2Proof/Machine/Arith.lean ====
section
/-!
DEFINITION. Arithmetic and logic instructions (Table OXI-3, R239).
-/

namespace Sys2Proof.Machine

/-- The operand shape of an instruction with a second source: register b, or imm32 with the # bit (Table OXM-6). -/
def srcShape (w : Ox) (mods : Nat) (d : Bool) : Shape0 :=
  let h := bit w.mod 5
  { mods := 0x20 + mods, d := d, a := true, b := !h, imm := if h then 2 ^ 32 - 1 else 0 }

/-- An instruction that writes kd from k[a] and s, with its checks, and the flags under /f where it has one. -/
def aluRun (c op : Nat) (w : Ox) (hasF : Bool) (chk : W64 → List (Bool × Nat)) (f : W64 → W64 → Alu) (s : State) : State :=
  oxRun c op w (srcShape w (if hasF then 1 else 0) true) (fun _ x => chk (src2 x w))
    (fun s x =>
      let y := f (kget x w.a) (src2 x w)
      retireK (if hasF && bit w.mod 0 then modCtx s c fun x => setFlags x y else s) c op w w.d y.r) s

/-- No further check. -/
def noChk (_ : W64) : List (Bool × Nat) := []
/-- A shift amount above 63 faults with OPERAND. -/
def shiftChk (s : W64) : List (Bool × Nat) := [(63 < s.toNat, 0x11)]

/-- CMP and TST: flags only. -/
def flagRun (c op : Nat) (w : Ox) (f : W64 → W64 → Alu) (s : State) : State :=
  oxRun c op w (srcShape w 0 false) (fun _ _ => [])
    (fun s x => retireSt (modCtx s c fun y => setFlags y (f (kget x w.a) (src2 x w))) c op w 0) s

/-- An instruction on k[a] alone. -/
def unaryRun (c op : Nat) (w : Ox) (f : W64 → W64) (s : State) : State :=
  oxRun c op w { d := true, a := true } (fun _ _ => []) (fun s x => retireK s c op w w.d (f (kget x w.a))) s

/-- MOVI. -/
def execMovi (c : Nat) (w : Ox) (s : State) : Res :=
  unitOk (c < 18) (oxRun c 0x10 w { d := true, B := 2 ^ 64 - 1 } (fun _ _ => []) (fun s _ => retireK s c 0x10 w w.d w.B) s)

/-- MOV. -/
def execMov (c : Nat) (w : Ox) (s : State) : Res := unitOk (c < 18) (unaryRun c 0x11 w id s)
/-- ADD. -/
def execAdd (c : Nat) (w : Ox) (s : State) : Res := unitOk (c < 18) (aluRun c 0x12 w true noChk aluAdd s)
/-- SUB. -/
def execSub (c : Nat) (w : Ox) (s : State) : Res := unitOk (c < 18) (aluRun c 0x13 w true noChk aluSub s)
/-- MUL. -/
def execMul (c : Nat) (w : Ox) (s : State) : Res := unitOk (c < 18) (aluRun c 0x14 w true noChk aluMul s)
/-- MULHU. -/
def execMulhu (c : Nat) (w : Ox) (s : State) : Res := unitOk (c < 18) (aluRun c 0x15 w false noChk aluMulhu s)
/-- DIVU. -/
def execDivu (c : Nat) (w : Ox) (s : State) : Res := unitOk (c < 18) (aluRun c 0x16 w true noChk aluDivu s)
/-- REMU. -/
def execRemu (c : Nat) (w : Ox) (s : State) : Res := unitOk (c < 18) (aluRun c 0x17 w true noChk aluRemu s)
/-- AND. -/
def execAnd (c : Nat) (w : Ox) (s : State) : Res := unitOk (c < 18) (aluRun c 0x18 w true noChk aluAnd s)
/-- OR. -/
def execOr (c : Nat) (w : Ox) (s : State) : Res := unitOk (c < 18) (aluRun c 0x19 w true noChk aluOr s)
/-- XOR. -/
def execXor (c : Nat) (w : Ox) (s : State) : Res := unitOk (c < 18) (aluRun c 0x1A w true noChk aluXor s)
/-- SHL. -/
def execShl (c : Nat) (w : Ox) (s : State) : Res := unitOk (c < 18) (aluRun c 0x1B w true shiftChk aluShl s)
/-- SHR. -/
def execShr (c : Nat) (w : Ox) (s : State) : Res := unitOk (c < 18) (aluRun c 0x1C w true shiftChk aluShr s)
/-- SAR. -/
def execSar (c : Nat) (w : Ox) (s : State) : Res := unitOk (c < 18) (aluRun c 0x1D w true shiftChk aluSar s)
/-- CMP. -/
def execCmp (c : Nat) (w : Ox) (s : State) : Res := unitOk (c < 18) (flagRun c 0x1E w aluSub s)
/-- TST. -/
def execTst (c : Nat) (w : Ox) (s : State) : Res := unitOk (c < 18) (flagRun c 0x1F w aluAnd s)

/-- MIN and MAX take mod[0] as their signedness. -/
def minMaxRun (c op : Nat) (w : Ox) (f : Bool → W64 → W64 → Alu) (s : State) : State :=
  oxRun c op w (srcShape w 1 true) (fun _ _ => [])
    (fun s x => retireK s c op w w.d (f (bit w.mod 0) (kget x w.a) (src2 x w)).r) s

/-- MIN. -/
def execMin (c : Nat) (w : Ox) (s : State) : Res := unitOk (c < 18) (minMaxRun c 0x20 w aluMin s)
/-- MAX. -/
def execMax (c : Nat) (w : Ox) (s : State) : Res := unitOk (c < 18) (minMaxRun c 0x21 w aluMax s)
/-- CLZ. -/
def execClz (c : Nat) (w : Ox) (s : State) : Res := unitOk (c < 18) (unaryRun c 0x22 w (fun a => BitVec.ofNat 64 (clz a)) s)
/-- POPC. -/
def execPopc (c : Nat) (w : Ox) (s : State) : Res := unitOk (c < 18) (unaryRun c 0x23 w (fun a => BitVec.ofNat 64 (popc a)) s)

/-- BFX and BFI: pos imm32[5:0], width imm32[14:8]. -/
def bfRun (c op : Nat) (w : Ox) (f : W64 → W64 → Nat → Nat → W64) (s : State) : State :=
  let pos := fld w.imm 0 6
  let width := fld w.imm 8 7
  oxRun c op w { d := true, a := true, imm := 0x7F3F } (fun _ _ => [(width == 0 || 64 < pos + width, 0x11)])
    (fun s x => retireK s c op w w.d (f (kget x w.d) (kget x w.a) pos width)) s

/-- BFX. -/
def execBfx (c : Nat) (w : Ox) (s : State) : Res := unitOk (c < 18) (bfRun c 0x24 w (fun _ a p n => bfx a p n) s)
/-- BFI. -/
def execBfi (c : Nat) (w : Ox) (s : State) : Res := unitOk (c < 18) (bfRun c 0x25 w bfi s)

end Sys2Proof.Machine
end

