-- ==== Sys2Proof/Machine/Control.lean ====
section
/-!
DEFINITION. Control instructions (Table OXI-2, R229 to R231, R238) and what ends their waits.
-/

namespace Sys2Proof.Machine

/-- The opcodes Table OXI-1 defines. -/
def opDefined (op : Nat) : Bool :=
  op ≤ 0x09 || (0x10 ≤ op && op ≤ 0x25) || (0x30 ≤ op && op ≤ 0x34) || (0x40 ≤ op && op ≤ 0x49) || (0x60 ≤ op && op ≤ 0x67) ||
    (0x70 ≤ op && op ≤ 0x75) || (0x80 ≤ op && op ≤ 0x82) || (0x90 ≤ op && op ≤ 0x92) || (0xA0 ≤ op && op ≤ 0xA5)

/-- UNDEFINED_OPCODE: ILLEGAL (R232, R235). -/
def execUndefinedOpcode (c : Nat) (opcode : BitVec 8) (w : Ox) (s : State) : Res :=
  let op := opcode.toNat
  unitOk (c < 18) (
    if !issues s c op w || opDefined op then s else
    let s := asDebug s c
    let s := if (getCtx s c).run == .debug then s else takeSlot s c
    endTurn (faultCtx s c op ((fetchFault s c).getD 0x10)) c)

/-- NOP. -/
def execNop (c : Nat) (w : Ox) (s : State) : Res :=
  unitOk (c < 18) (oxRun c 0x00 w {} (fun _ _ => []) (fun s _ => retireSt s c 0x00 w 0) s)

/-- HALT (R238). -/
def execHalt (c : Nat) (w : Ox) (s : State) : Res :=
  unitOk (c < 18) (oxRun c 0x01 w {} (fun _ _ => [])
    (fun s _ => modCtx (retireSt s c 0x01 w 0) c fun x => { x with st := .halted, haltReq := false }) s)

/-- Set PC after a control transfer that has been counted and recorded. -/
def goTo (s : State) (c : Nat) (pc : Nat) : State := takeHalt (modCtx s c fun x => { x with pc := BitVec.ofNat 20 pc }) c

/-- The target of JUMP and of absolute CALL: word B or register a. -/
def absTarget (x : Ctx) (w : Ox) : Nat := if fld w.mod 0 2 = 2 then (kget x w.a).toNat else w.B.toNat

/-- The relative target of BR and CALL, in 16-byte units from the next instruction (R219). -/
def relTarget (x : Ctx) (w : Ox) : Int := (x.pc.toNat : Int) + 16 + 16 * w.imm.toInt

/-- JUMP. -/
def execJump (c : Nat) (w : Ox) (s : State) : Res :=
  let reg := fld w.mod 0 2 == 2
  unitOk (c < 18) (oxRun c 0x02 w { mods := 3, a := reg, B := if reg then 0 else 2 ^ 64 - 1 }
    (fun s x => [(bit w.mod 0, 0x11), (2 ^ 20 ≤ absTarget x w, 0x11), (inRing s c, 0x16), (absTarget x w % 16 != 0, 0x15)])
    (fun s x => goTo (recIf (retireCount s c 0) c 0x02 w 0 none) c (absTarget x w)) s)

/-- Whether a relative target lies in the program store. -/
def relOk (x : Ctx) (w : Ox) : Bool := 0 ≤ relTarget x w && relTarget x w ≤ 0xFFFF0

/-- BR (R219). -/
def execBr (c : Nat) (w : Ox) (s : State) : Res :=
  unitOk (c < 18) (oxRun c 0x03 w { imm := 2 ^ 32 - 1 }
    (fun s x => [(!relOk x w, 0x11), (inRing s c, 0x16)])
    (fun s x => goTo (recIf (retireCount s c 0) c 0x03 w 0 none) c (relTarget x w).toNat) s)

/-- The target of a CALL. -/
def callTarget (x : Ctx) (w : Ox) : Nat := if fld w.mod 0 2 = 1 then (relTarget x w).toNat else absTarget x w

/-- What a program called from a ring entry, a block or the debug context runs under. -/
def callRun (x : Ctx) : Run :=
  match x.run with
  | .entry r e _ _ => .prog (some (r, e))
  | .block => .prog (some (4, 0))
  | .debug => .prog (some (5, 0))
  | r => r

/-- CALL (R227): its record waits for the matching RET. -/
def execCall (c : Nat) (w : Ox) (s : State) : Res :=
  let m := fld w.mod 0 2
  unitOk (c < 18) (oxRun c 0x04 w
    { mods := 3, a := m == 2, imm := if m = 1 then 2 ^ 32 - 1 else 0, B := if m = 0 then 2 ^ 64 - 1 else 0 }
    (fun _ x => [(m == 3, 0x11), (m == 1 && !relOk x w, 0x11), (m != 1 && 2 ^ 20 ≤ absTarget x w, 0x11),
      (callTarget x w % 16 != 0, 0x15), (16 ≤ x.stack.length, 0x17)])
    (fun s x =>
      let f : Frame := { ret := x.pc + 16, cr := bit w.mod 7, irq := bit w.mod 6, source := (recSrc x).1, entry := (recSrc x).2 }
      let s := retireCount s c 0
      goTo (modCtx s c fun x => { x with stack := f :: x.stack, run := callRun x, st := if x.st == .idle then .ready else x.st }) c
        (callTarget x w)) s)

/-- The record of the CALL a RET matches. (Log 42 DEDUCED.) -/
def callRec (s : State) (c : Nat) (f : Frame) : State :=
  if f.cr then postRec s c { status := 0, opcode := 0x04, source := f.source, entry := f.entry, result := now s, irq := f.irq } else s

/-- The end of a program called from a ring entry, a block or the debug context. -/
def endCalled (s : State) (c r : Nat) : State :=
  if r < 4 then takeHalt (endEntry s c r) c
  else if r = 4 then advance (modCtx s c fun x => { x with run := .block }) c
  else takeHalt (modCtx s c rest) c

/-- RET (R225, R227). -/
def execRet (c : Nat) (w : Ox) (s : State) : Res :=
  unitOk (c < 18) (oxRun c 0x05 w {} (fun s x => [(inRing s c, 0x16), (x.stack.isEmpty, 0x17)])
    (fun s x =>
      match x.stack with
      | [] => s
      | f :: fs =>
        let s := recIf (retireCount s c 0) c 0x05 w 0 none
        let s := callRec (modCtx s c fun x => { x with stack := fs }) c f
        match fs, x.run with
        | [], .prog (some (r, _)) => endCalled s c r
        | _, _ => goTo s c f.ret.toNat) s)

/-- The mask of a WAITEV. -/
def evMask (x : Ctx) (w : Ox) : W32 := if bit w.mod 5 then w.imm else lo32 (kget x w.b)

/-- WAITEV returns: kd takes EVP AND m, and those bits are cleared in one step (R229). -/
def takeEvents (s : State) (c : Nat) (m : W32) : W32 × State :=
  let r := (getCtx s c).evp &&& m
  (r, modCtx s c fun x => { x with evp := x.evp &&& ~~~m })

/-- WAITEV. -/
def execWaitev (c : Nat) (w : Ox) (s : State) : Res :=
  let h := bit w.mod 5
  unitOk (c < 18) (oxRun c 0x06 w { mods := 0x21, d := true, b := !h, imm := if h then 2 ^ 32 - 1 else 0 }
    (fun _ x => [((evMask x w).toNat / 2 ^ 20 != 0, 0x11), (evMask x w == 0 && !bit w.mod 0, 0x11),
      (!h && hi32 (kget x w.b) != 0, 0x11)])
    (fun s x =>
      let m := evMask x w
      if bit w.mod 0 || x.evp &&& m != 0 then
        let r := takeEvents s c m
        retireK r.2 c 0x06 w w.d (r.1.setWidth 64)
      else waitWith s c 0x06 w (.ev m w.d)) s)

/-- WAIT_SATISFIED: an awaited event has latched (R229). -/
def execWaitSatisfied (c : Nat) (s : State) : Res :=
  unitOk (c < 18) (
    let x := getCtx s c
    match x.wait with
    | .ev m d =>
      if x.st == .waiting && x.evp &&& m != 0 then
        let r := takeEvents s c m
        finishWait r.2 c (some (d, r.1.setWidth 64))
      else s
    | _ => s)

/-- Whether a tenant context may signal a target (R230). -/
def signalScope (c t line : Nat) : Bool := isStw c || t == c || (t == 0 && line == 7)

/-- SIGNAL, line form (R230). -/
def execSignal (c : Nat) (w : Ox) (s : State) : Res :=
  let t := fld w.imm 0 5
  let line := fld w.imm 8 3
  unitOk (c < 18) (if bit w.mod 0 then s else oxRun c 0x07 w { mods := 0, imm := 0x71F }
    (fun _ _ => [(17 < t, 0x11), (!signalScope c t line, 0x12)])
    (fun s _ =>
      let y := getCtx s t
      if y.st == .off || y.st == .inReset then retireSt s c 0x07 w 7 else retireSt (evLatch s t line) c 0x07 w 0) s)

/-- SIGNAL, mask form (R230): bits 31:20 of EVM read zero (R215). -/
def execSignalMask (c : Nat) (w : Ox) (s : State) : Res :=
  unitOk (c < 18) (if !bit w.mod 0 then s else oxRun c 0x07 w { mods := 1, d := true, a := true }
    (fun _ x => [(hi32 (kget x w.a) != 0, 0x11)])
    (fun s x => retireK (modCtx s c fun y => { y with evm := lo32 (kget x w.a) &&& 0x000FFFFF }) c 0x07 w w.d (x.evm.setWidth 64)) s)

/-- Whether a move of context `c` is under way: its channels that run or stop, not paused ones (Table OXI-2). -/
def movesOpen (s : State) (c : Nat) : Bool := s.mov.ch.any fun e => e.2.owner == c && (e.2.st == .running || e.2.st == .stopping)

/-- Whether an armed set holds items of context `c` (R231). -/
def takesOpen (s : State) (c : Nat) : Bool :=
  s.time.take.any fun e => (e.2.st == .preparing || e.2.st == .ready) && e.2.items.any fun i => i.c == c

/-- Whether a FENCE with these bits is passed. -/
def fenceOpen (s : State) (c m : Nat) : Bool :=
  (m % 2 == 0 || (getCtx s c).stores == 0) && (m / 2 % 2 == 0 || !movesOpen s c) && (m / 4 % 2 == 0 || !takesOpen s c)

/-- FENCE (R231). -/
def execFence (c : Nat) (w : Ox) (s : State) : Res :=
  unitOk (c < 18) (oxRun c 0x08 w { mods := 7 } (fun _ _ => [])
    (fun s _ => if fenceOpen s c (fld w.mod 0 3) then retireSt s c 0x08 w 0 else waitAgain s c) s)

/-- YIELD (R213). -/
def execYield (c : Nat) (w : Ox) (s : State) : Res :=
  unitOk (c < 18) (oxRun c 0x09 w {} (fun _ _ => [])
    (fun s _ =>
      let s := retireSt s c 0x09 w 0
      if s.seq.turn = c then { s with seq := { s.seq with left := 0 } } else s) s)

end Sys2Proof.Machine
end

