-- ==== Sys2Proof/Machine/Sheet.lean ====
section
/-!
DEFINITION. The Sheet Table, reams, interleave groups and where a pool line lies (06).
-/

namespace Sys2Proof.Machine

/-- Sheet Table entry `i`. -/
def getSheet (s : State) (i : Nat) : W64 := tget 0 s.pool.sheet i
/-- Write a Sheet Table entry. -/
def setSheet (s : State) (i : Nat) (v : W64) : State := { s with pool := { s.pool with sheet := tput 0 s.pool.sheet i v } }

/-- Fields of an entry (Table POOL-5). -/
def shValid (e : W64) : Bool := bit e 63
/-- Owned by the Steward. -/
def shStw (e : W64) : Bool := bit e 62
/-- Owning tenant. -/
def shTen (e : W64) : Nat := fld e 58 4
/-- Mirror state: 0 none, 1 filling, 2 active, 3 degraded. -/
def shMst (e : W64) : Nat := fld e 56 2
/-- Primary group. -/
def shPg (e : W64) : Nat := fld e 51 4
/-- Primary slot. -/
def shPs (e : W64) : Nat := fld e 36 15
/-- Secondary group. -/
def shMg (e : W64) : Nat := fld e 32 4
/-- Secondary slot. -/
def shMs (e : W64) : Nat := fld e 17 15
/-- An entry from its fields. -/
def shMk (stw : Bool) (ten mst pg ps mg ms : Nat) : W64 :=
  pack64 [(63, 1), fl 62 stw, (58, if stw then 0 else ten), (56, mst), (51, pg), (36, ps), (32, mg), (17, ms)]
/-- The owner of an entry: none for the Steward. -/
def shOwner (e : W64) : Option Nat := if shStw e then none else some (shTen e)
/-- The entry with another mirror state and secondary. -/
def shWith (e : W64) (mst mg ms : Nat) : W64 := shMk (shStw e) (shTen e) mst (shPg e) (shPs e) mg ms

/-- Transfer rate of POOL_CTRL.rate in MT/s (Table POOL-2). -/
def poolRate (code : Nat) : Nat :=
  match code with | 0 => 4800 | 1 => 5200 | 2 => 5600 | 3 => 6000 | 4 => 6400 | 8 => 8000 | 9 => 8800 | _ => 0

/-- Member channels of a group, ascending (R145). -/
def members (g : Grp) : List Nat := (List.range 12).filter fun c => bit g.mask c

/-- Channel and channel byte address of an offset in a slot of a group (R147). -/
def locate (s : State) (g slot off : Nat) : Nat × Nat :=
  let ms := members (getGrp s g)
  let w := ms.length
  let gla := slot * 2 ^ 28 + off
  let c := gla / 256
  (ms.getD (c % w) 0, c / w * 256 + gla % 256)

/-- The primary location of a pool address under an entry. -/
def locP (s : State) (e : W64) (a : Nat) : Nat × Nat := locate s (shPg e) (shPs e) (a % 2 ^ 28)
/-- The secondary location. -/
def locS (s : State) (e : W64) (a : Nat) : Nat × Nat := locate s (shMg e) (shMs e) (a % 2 ^ 28)
/-- Whether an entry has two copies that take writes (Table POOL-7). -/
def shTwo (e : W64) : Bool := shMst e == 1 || shMst e == 2

/-- The pool address of a tenant's device physical address, where it lies in the ream and the entry is the tenant's (R150). -/
def tenAddr (s : State) (t d : Nat) : Option Nat :=
  let x := getTen s t
  let i := d / 2 ^ 28
  let e := getSheet s (x.base + i)
  if i < x.len && shValid e && !shStw e && shTen e == t then some ((x.base + i) * 2 ^ 28 + d % 2 ^ 28) else none

/-- The pool address of a request: tenant (device physical address) or Steward (pool address), while the pool is open (R148,
R150). -/
def poolAddr (s : State) (ten : Option Nat) (d : Nat) : Option Nat :=
  if !s.pool.opened then none else
  match ten with
  | some t => tenAddr s t d
  | none => if d < 24576 * 2 ^ 28 && shValid (getSheet s (d / 2 ^ 28)) then some d else none

/-- Key of a channel byte in the DRAM contents. -/
def dramKey (ch a : Nat) : Nat := ch * 2 ^ 40 + a
/-- The line at a channel address. (Log 10 DEDUCED.) -/
def dramRd (s : State) (ch a : Nat) : List Byte := rdBytes s.pool.mem (dramKey ch a) 64
/-- Whether a line holds the poison marker (R162). -/
def dramBad (s : State) (ch a : Nat) : Bool := tget false s.pool.poison (dramKey ch a / 64)
/-- Write a line and its marker. -/
def dramWr (s : State) (ch a : Nat) (d : List Byte) (bad : Bool) : State :=
  { s with pool := { s.pool with
      mem := wrBytes s.pool.mem (dramKey ch a) d
      poison := tput false s.pool.poison (dramKey ch a / 64) bad } }

/-- Whether a slot of a group is in use by a request already resolved to it: freed but not yet drained (R152). -/
def slotBusy (s : State) (g slot : Nat) : Bool :=
  let names (e : W64) : Bool := shValid e && ((shPg e == g && shPs e == slot) || (shTwo e && shMg e == g && shMs e == slot))
  s.core.pkts.any (fun p => names p.ent) || s.home.queue.any (fun p => names p.ent) ||
    s.home.txns.any (fun t => (t.req.any fun p => names p.ent) || t.chain.any fun p => names p.ent)

/-- Change the use marks of a slot. -/
def modUse (s : State) (g slot : Nat) (f : SlotUse → SlotUse) : State :=
  modGrp s g fun x => { x with map := tput {} x.map slot (f (tget {} x.map slot)) }

/-- Free a slot, or retire it if it carries a retire mark (Table POOL-6). -/
def freeSlot (s : State) (g slot : Nat) : State :=
  modUse s g slot fun u => { used := false, retire := false, retired := u.retire || u.retired }

/-- Whether a slot can be named by GRANT or ATTACH (Table POOL-6). -/
def slotFree (s : State) (g slot : Nat) : Bool :=
  let x := getGrp s g
  let u := tget {} x.map slot
  x.enable && !u.used && !u.retired && !slotBusy s g slot

/-- Slots of an enabled group (R145): members times the smallest capacity. -/
def grpSlots (s : State) (mask : BitVec 12) : Nat :=
  let ms := (List.range 12).filter fun c => bit mask c
  ms.length * (ms.map fun c => (getChan s c).capacity).foldl min 4096

/-- A channel serves requests while its group is enabled and it is in state grouped. -/
def chServes (s : State) (ch : Nat) : Bool := (getChan s ch).st == .grouped

/-- Whether a channel is a member of a group. -/
def inGrp (s : State) (g ch : Nat) : Bool := bit (getGrp s g).mask ch

/-- A channel leaves service: every sheet with a copy on it changes as R154 says, and a Steward event names the sheet. -/
def loseChannel (s : State) (ch : Nat) : State :=
  s.pool.sheet.foldl (fun s x =>
    let e := x.2
    if !shTwo e then s
    else if inGrp s (shMg e) ch then
      if shMst e = 1 then stewEv (freeSlot (setSheet s x.1 (shWith e 0 0 0)) (shMg e) (shMs e))
      else stewEv (setSheet s x.1 (shWith e 3 (shMg e) (shMs e)))
    else if inGrp s (shPg e) ch then
      if shMst e = 1 then stewEv (freeSlot (setSheet s x.1 (shWith e 0 0 0)) (shMg e) (shMs e))
      else stewEv (setSheet s x.1 (shMk (shStw e) (shTen e) 3 (shMg e) (shMs e) (shPg e) (shPs e)))
    else s) s

/-- The sheet at a location of a channel, with its entry, if any: used by logs and the scrubber. -/
def sheetAt (s : State) (ch a : Nat) : Option (Nat × W64 × Bool) :=
  s.pool.sheet.findSome? fun x =>
    let hit (g slot : Nat) : Bool :=
      let ms := members (getGrp s g)
      let w := ms.length
      let k := (ms.takeWhile fun c => c != ch).length
      inGrp s g ch && ((a / 256 * w + k) * 256 + a % 256) / 2 ^ 28 == slot
    if shValid x.2 && hit (shPg x.2) (shPs x.2) then some (x.1, x.2, true)
    else if shValid x.2 && shMst x.2 != 0 && hit (shMg x.2) (shMs x.2) then some (x.1, x.2, false)
    else none

/-- The pool address of a channel location under an entry. -/
def poolOf (s : State) (g sheet ch a : Nat) : Nat :=
  let ms := members (getGrp s g)
  let k := (ms.takeWhile fun c => c != ch).length
  sheet * 2 ^ 28 + ((a / 256 * ms.length + k) * 256 + a % 256) % 2 ^ 28

end Sys2Proof.Machine
end

