-- ==== Sys2Proof/Machine/Pkts.lean ====
section
/-!
DEFINITION. Messages inside the device: classes, cells, queue lengths and watermarks (04), and the answers that the centre,
the stand-in responder and the targets give (Tables DKL-5, SVC-4, R190).
-/

namespace Sys2Proof.Machine

/-! ## Classes -/

/-- Responses (R87, class 1). -/
def isRsp : MOp → Bool
  | .memData _ | .memCmp _ | .ioCplD | .ioCpl _ | .uioCpl _ | .go _ | .biRsp _ | .biConflictAck => true
  | _ => false

/-- CXL.io and UIO TLPs. -/
def isTlp : MOp → Bool
  | .ioRd | .ioWr | .ioAtom .. | .ioCfgRd .. | .ioCfgWr .. | .uioRd | .uioWr | .uioAtom .. | .ioCplD | .ioCpl _ | .uioCpl _
  | .mgmt _ => true
  | _ => false

/-- CXL.io only (R82: pinned without the address). -/
def isIo : MOp → Bool
  | .ioRd | .ioWr | .ioAtom .. | .ioCfgRd .. | .ioCfgWr .. | .ioCplD | .ioCpl _ | .mgmt _ => true
  | _ => false

/-- UIO requests (R61). -/
def isUio : MOp → Bool
  | .uioRd | .uioWr | .uioAtom .. => true
  | _ => false

/-- CXL.cache. -/
def isCache : MOp → Bool
  | .cacheRd | .cacheWr | .go _ => true
  | _ => false

/-- Protocol number of Table CORE-18: 0 CXL.io, 1 CXL.mem, 2 CXL.cache. -/
def protoNo (o : MOp) : Nat := if isTlp o then 0 else if isCache o then 2 else 1

/-- Writes, which carry their data in the request. -/
def isWrite : MOp → Bool
  | .memWr _ | .cacheWr | .ioWr | .uioWr => true
  | _ => false

/-- Atomics. -/
def isAtom : MOp → Bool
  | .ioAtom .. | .uioAtom .. => true
  | _ => false

/-- Reads. -/
def isRead : MOp → Bool
  | .memRd _ | .cacheRd | .ioRd | .uioRd => true
  | _ => false

/-- Requests that carry an address and so are checked at the centre (R19). -/
def carriesAddr : MOp → Bool
  | .memRd _ | .memInv | .memWr _ | .memClnEvct | .cacheRd | .cacheWr | .ioRd | .ioWr | .ioAtom .. | .uioRd | .uioWr
  | .uioAtom .. | .refresh => true
  | _ => false

/-- Requests that have a completion: all but posted writes, snoop conflicts and management messages. -/
def nonPosted : MOp → Bool
  | .ioWr | .biConflict | .mgmt _ => false
  | o => !isRsp o

/-- The data bytes a message carries (R86). -/
def dataLen (m : Msg) : Nat :=
  match m.op with
  | .memWr _ | .cacheWr | .ioWr | .uioWr | .memData _ | .ioCplD => m.len
  | .ioAtom .. | .uioAtom .. | .go _ => m.data.length
  | _ => 0

/-- Cells of a message: one header cell plus its data cells (R86). -/
def cells (m : Msg) : Nat := 1 + ceilDiv (dataLen m) 64

/-- Cells of a message that have been written (R88). -/
def written (m : Msg) : Nat := if dataLen m ≤ m.data.length then cells m else 1 + m.data.length / 64

/-- Permissions a request needs (Table DKL-3): read, write, atomic. -/
def needs : MOp → Bool × Bool × Bool
  | .memRd .inv | .memInv => (true, true, false)
  | .memRd _ | .memClnEvct | .ioRd | .uioRd | .cacheRd => (true, false, false)
  | .memWr _ | .ioWr | .uioWr | .cacheWr | .refresh => (false, true, false)
  | .ioAtom .. | .uioAtom .. => (false, false, true)
  | _ => (false, false, false)

/-- Queue class n = 8 × class + priority (R87). -/
def qclassOf (p : Pkt) : Nat := (if p.resp then 8 else 0) + p.prio % 8

/-- Participant list of a message: its tenant, or 16 for the Steward and for messages of no tenant (R127). -/
def partOf (p : Pkt) : Nat := if p.stw then 16 else p.ten.getD 16

/-! ## The buffer -/

/-- Whether a message holds cells: admitted and not wholly moved. -/
def inBuf (p : Pkt) : Bool := p.stage == .centre || p.stage == .queued || p.stage == .voq

/-- Cells of a message not yet moved. -/
def unmoved (p : Pkt) : Nat := cells p.msg - p.moved

/-- Allocated cells: copies of one replicated write share theirs until the last is moved (R87, R99). -/
def occNow (c : Core) : Nat :=
  let l := c.pkts.filter inBuf
  sumBy unmoved (l.filter fun p => p.wid.isNone) +
    sumBy (fun w => (l.filter fun p => p.wid == some w).foldl (fun m p => max m (unmoved p)) 0)
      ((l.filterMap fun p => p.wid).eraseDups)

/-- The number of cells of the central buffer. -/
def bufCells : Nat := 524288

/-- Length of an egress queue in cells (R87). -/
def qlen (s : State) (o n : Nat) : Nat :=
  sumBy unmoved (s.core.pkts.filter fun p => inBuf p && p.out == o && qclassOf p == n)

/-- Alpha exponent of a class, the reset values of Table CORE-6 included. -/
def qcfgReset (n : Nat) : W32 := if n < 8 then 0x00C41000 else 0x00C41003
/-- CORE_QCLASS_CFG[n]. -/
def qcfg (s : State) (n : Nat) : W32 := tget (qcfgReset n) s.core.qclass n

/-- The threshold T for F free cells (R95). -/
def qThresh (s : State) (n f : Nat) : Nat :=
  let k := fld (qcfg s n) 0 3
  if k < 4 then f * 2 ^ k else f / 2 ^ (8 - k)

/-- The admission test of R95 for one queue. -/
def admits (s : State) (o n k : Nat) : Bool :=
  let f := bufCells - s.core.occ
  let usable := if 8 ≤ n then f else f - 256 * s.core.rspReserve
  k ≤ usable && qlen s o n + k ≤ max (qThresh s n f) (fld (qcfg s n) 8 8)

/-- The Steward event of an output's event register, and the owning tenant's (R100). -/
def outEv (s : State) (o : Nat) : State :=
  let s := stewEv s
  if o < 96 then
    let r := fld (getPort s o).cfg 28 3
    if r == 1 || r == 2 then tenEv s (fld (getPort s o).cfg 12 4) else s
  else s

/-- Re-evaluate the high and low flags of a queue after a change of its length (R100). -/
def qMarks (s : State) (o n : Nat) : State :=
  if 108 < o then s else
  let t := qThresh s n (bufCells - s.core.occ)
  let h := fld (qcfg s n) 20 4 * t / 16
  let l := fld (qcfg s n) 16 4 * t / 16
  let len := qlen s o n
  let q := getQ s o n
  let high := if len ≤ l then false else if h ≤ len then true else q.high
  let s := modQ s o n fun q => { q with high := high, low := len ≤ l }
  if high && !q.high then outEv (modOutP s o fun x => { x with highEv := x.highEv ||| (1 <<< n) }) o else s

/-- The critical flag of a queue: a message held under R96 waits on it. -/
def qCrit (s : State) (o n : Nat) : Bool :=
  s.core.pkts.any fun p => p.stage == .heldBuf && p.out == o && qclassOf p == n

/-- A message becomes held: a rising critical flag sets its event bit (R100). -/
def critEv (s : State) (was : Bool) (o n : Nat) : State :=
  if 108 < o then s else
  if qCrit s o n && !was then outEv (modOutP s o fun x => { x with crit := x.crit ||| (1 <<< n) }) o else s

/-- Recompute the occupancy: peak, and the crossings of the buffer's levels (R101). -/
def syncBuf (s : State) : State :=
  let old := s.core.occ
  let new := occNow s.core
  let wm := s.core.wm
  let hi := fld wm 10 10 * 1024
  let cr := fld wm 20 10 * 1024
  let lo := fld wm 0 10 * 1024
  let c := s.core
  let up (x : Nat) : Bool := old < x && x ≤ new
  let e1 := up hi
  let e2 := up cr
  let e3 := lo < old && new ≤ lo
  let s' := { s with core := { c with
    occ := new, peak := max c.peak new, evHigh := c.evHigh || e1, evCrit := c.evCrit || e2, evLow := c.evLow || e3 } }
  stewIf (stewIf (stewIf s' c.evHigh (c.evHigh || e1)) c.evCrit (c.evCrit || e2)) c.evLow (c.evLow || e3)

/-- Replace the message list and recompute the occupancy. -/
def setPkts (s : State) (l : List Pkt) : State := syncBuf { s with core := { s.core with pkts := l } }

/-- Replace the message list where no cell changes. -/
def putPkts (s : State) (l : List Pkt) : State := { s with core := { s.core with pkts := l } }

/-- Change the message with a serial number. -/
def modPkt (s : State) (id : Nat) (f : Pkt → Pkt) : State :=
  setPkts s (replaceFirst (fun p => p.id == id) f s.core.pkts)

/-- Replace a message and put it behind all others: lists keep the order of admission and of release. -/
def movePkt (s : State) (p : Pkt) : State := setPkts s ((s.core.pkts.filter fun x => x.id != p.id) ++ [p])

/-- A message gives its replication-store entry back (R110). -/
def freeStore (s : State) (p : Pkt) : State :=
  match p.store with
  | some i => { s with core := { s.core with rstoreUse := tput 0 s.core.rstoreUse i (tget 0 s.core.rstoreUse i - 1) } }
  | none => s

/-- Remove the message with a serial number and re-evaluate its queue. -/
def dropPkt (s : State) (p : Pkt) : State :=
  let s := setPkts (freeStore s p) (s.core.pkts.filter fun x => x.id != p.id)
  if inBuf p then qMarks s p.out (qclassOf p) else s

/-- Append a new message with the next serial number. -/
def addPkt (s : State) (p : Pkt) : State :=
  { setPkts s (s.core.pkts ++ [{ p with id := s.nextId }]) with nextId := s.nextId + 1 }

/-! ## Answers -/

/-- The answers of the device and of targets. -/
inductive Ans where
  | data (bytes : List Byte) (bad : List Bool) (g : CSt)   -- data, its poison by 64 bytes, and the state granted
  | done (g : CSt)                                         -- completion without data
  | poison                                                 -- data with poison and no state
  | ur | ca | goErr
  | nothing                                                -- a posted request: no completion
deriving DecidableEq, Repr

/-- The operation of the response message. -/
def rspOp (o : MOp) : Ans → MOp
  | .data _ _ g => if isTlp o then .ioCplD else if isCache o then .go false else .memData g
  | .done g => if isUio o then .uioCpl .sc else if isTlp o then .ioCpl .sc else if isCache o then .go false else .memCmp g
  | .poison => if isTlp o then .ioCplD else .memData .i
  | .ur => if isUio o then .uioCpl .ur else .ioCpl .ur
  | .ca => if isUio o then .uioCpl .ca else .ioCpl .ca
  | .goErr => .go true
  | .nothing => .mgmt 0

/-- The response message to a request. -/
def rspMsg (m : Msg) (a : Ans) : Msg :=
  let base : Msg := { op := rspOp m.op a, addr := m.addr, len := m.len, tc := m.tc, tag := m.tag, ld := m.ld,
                      srcPbr := m.dstPbr, dstPbr := m.srcPbr, slots := 1 }
  match a with
  | .data b bad _ => { base with len := b.length, data := b, poison := bad, slots := 1 + ceilDiv b.length 16 }
  | .poison => { base with data := zeros m.len, poison := List.replicate (ceilDiv m.len 64) true, slots := 1 + ceilDiv m.len 16 }
  | _ => base

/-- Whether an answer is a failure. -/
def ansBad : Ans → Bool
  | .data _ bad _ => bad.any id
  | .done _ | .nothing => false
  | _ => true

/-- The bytes of an answer. -/
def ansData : Ans → List Byte
  | .data b _ _ => b
  | _ => []

/-- Deliver a load's answer to its context (R242). (Log 34 DEDUCED.) -/
def toLoad (s : State) (c : Nat) (a : Ans) : State :=
  modCtx s c fun x => { x with reply := some { data := BitVec.ofNat 64 (leNat (ansData a)), bad := ansBad a } }

/-- A store is complete: its context has one fewer outstanding; an error raises event 16 in the context's event owner
(R242). -/
def toStore (s : State) (c : Nat) (a : Ans) : State :=
  let s := modCtx s c fun x => { x with stores := x.stores - 1 }
  if ansBad a then evLatch s (if c < 2 then 0 else c) 16 else s

/-- A mover's piece has its answer (R260): data with its poison, a completion, or an error. -/
def toMove (s : State) (ch off : Nat) (write : Bool) (a : Ans) : State :=
  let err := match a with | .ur | .ca | .goErr => true | _ => false
  let take (p : Piece) : Piece :=
    if write then { p with done := true, fail := err }
    else { p with done := true, fail := err, poison := !err && ansBad a, bytes := slice (ansData a) 0 p.len }
  let upd (l : List Piece) : List Piece := l.mapIdx fun i p => if i = off then take p else p
  modMov s ch fun m => { m with job := m.job.map fun j =>
    if write then { j with writes := upd j.writes } else { j with reads := upd j.reads } }

/-- A mover's flush read at a PBR ID has its answer (R262). -/
def toFlush (s : State) (ch : Nat) : State :=
  modMov s ch fun m => { m with job := m.job.map fun j => { j with flush := j.flush.drop 1 } }

/-- A response message from point `ing` to a port, held for admission (`.staged`) or already queued. (Log 23 DEDUCED.) -/
def rspPkt (s : State) (r : Pkt) (ing : Nat) (p : Nat) (a : Ans) (st : Stage) : Pkt :=
  { id := 0, msg := rspMsg r.msg a, org := .answer, ten := r.ten, stw := r.stw, ing := ing, dest := .port p, out := p,
    resp := true, prio := r.prio, stage := st, seq := r.id, iunit := r.iunit, istamp := r.istamp, tunit := r.tunit, tstamp := r.tstamp,
    admitted := now s }

/-- A reply to an old generation of its issuer (R307). -/
def stale (s : State) (r : Pkt) : Bool := r.iunit.any fun u => genOf s u != r.istamp

/-- A reply discarded by generation (R307): counted. -/
def staleDrop (s : State) (r : Pkt) : State := countEv s 0x7002 0 r.ten 1

/-- Answer a request of a port or of the engine: the port's answer enters the core at `ing` in stage `st`; the engine's
clients take theirs. (Log 23 DEDUCED.) -/
def answerTo (s : State) (r : Pkt) (ing : Nat) (st : Stage) (a : Ans) : State :=
  match r.org with
  | .port p => if a = .nothing then s else
      if st == .staged then addPkt s (rspPkt s r ing p a st)
      else qMarks (addPkt s (rspPkt s r ing p a st)) p (8 + r.prio % 8)
  | .load c => if stale s r then staleDrop s r else toLoad s c a
  | .store c => if stale s r then staleDrop s r else toStore s c a
  | .moveRd ch off => toMove s ch off false a
  | .moveWr ch off => toMove s ch off true a
  | .moveRefresh ch off => toMove s ch off true a
  | .moveFlush ch => toFlush s ch
  | _ => s

/-! ### Replicated writes (R106 to R109) -/

/-- State of member `m` of a group: 0 unused, 1 active, 2 stale, 3 rejoining. -/
def memState (g : Rgrp) (m : Nat) : Nat := fld (tget 0 g.member m) 62 2

/-- Set a member's state. -/
def setMemState (g : Rgrp) (m st : Nat) : Rgrp :=
  { g with member := tput 0 g.member m (setFld (tget 0 g.member m) 62 2 st) }

/-- The completion of a write to a group: nothing yet, success, or error (R107). -/
def rwOutcome (g : Rgrp) (w : RWrite) : Option Bool :=
  let prim := fld g.header 57 4
  if bit g.header 61 && w.counting.contains prim then
    if w.okd.contains prim then some true else if w.failed.contains prim then some false else none
  else if w.counting.isEmpty then some false
  else
    let q := max 1 (min (fld g.header 52 5) w.counting.length)
    let ok := (w.counting.filter w.okd.contains).length
    let bad := (w.counting.filter w.failed.contains).length
    if q ≤ ok then some true else if w.counting.length - q + 1 ≤ bad then some false else none

/-- The form of a group write's completion (R108). -/
def rwAns (m : Msg) (ok : Bool) : Ans :=
  if ok then (if nonPosted m.op then .done .i else .nothing)
  else match m.op with
    | .uioWr => .ca
    | .memWr _ => .done .i
    | .cacheWr => .goErr
    | _ => .nothing

/-- Complete a group write to its source when its outcome is decided, once (R107). A failed CXL.mem write raises an event to
the source's tenant (R108). -/
def rwSettle (s : State) (wid : Nat) : State :=
  match s.core.rwrites.find? fun w => w.id == wid with
  | none => s
  | some w =>
    let fin (s : State) (w : RWrite) : State :=
      let l := if w.pending.isEmpty && w.done then s.core.rwrites.filter (fun x => x.id != wid)
        else s.core.rwrites.map (fun x => if x.id == wid then w else x)
      { s with core := { s.core with rwrites := l } }
    if w.done then fin s w else
    match rwOutcome (getRgrp s w.group) w with
    | none => s
    | some ok =>
      let s := answerTo s w.src 108 .queued (rwAns w.src.msg ok)
      let s := if ok then s else match w.src.msg.op with | .memWr _ => tenEv? s w.src.ten | _ => s
      fin s { w with done := true }

/-- The outcome of one member copy: success or failure; a member that fails becomes stale, and the failure is logged with the
group's block (R109). (Log 87 DEDUCED.) -/
def memberOutcome (s : State) (wid m : Nat) (ok : Bool) : State :=
  match s.core.rwrites.find? fun w => w.id == wid with
  | none => s
  | some w =>
    if !w.pending.contains m then s else
    let w' := { w with pending := w.pending.filter (· != m)
                       okd := if ok then w.okd ++ [m] else w.okd
                       failed := if ok then w.failed else w.failed ++ [m] }
    let s := { s with core := { s.core with rwrites := s.core.rwrites.map fun x => if x.id == wid then w' else x } }
    let s := if ok then s else logEvent (modRgrp s w.group fun g => setMemState g m 2) (uBlock 4) 0x02 w.group 0
    rwSettle s wid

/-! ### Requests served line by line (R150, R201) -/

/-- Split data into completions of at most `u` bytes on aligned boundaries (R72). -/
def splitRd : Nat → Nat → Nat → List Byte → List Bool → List (List Byte × List Bool)
  | 0, _, _, _, _ => []
  | n + 1, addr, u, d, bad =>
    if d.isEmpty then [] else
    let k := min d.length (u - addr % u)
    (d.take k, bad.take (ceilDiv (addr % 64 + k) 64)) :: splitRd n (addr + k) u (d.drop k) (bad.drop ((addr % 64 + k) / 64))

/-- Finish a gathered request: read data in completions of R72, or the one completion of a write; then Unsupported Request
where a part was refused. (Log 22 DESIGN CHOICE.) -/
def gatherDone (s : State) (g : Gather) (u : Nat) (st : Stage) : State :=
  let r := g.pkt
  let parts :=
    match r.org with
    | .port _ => if isRead r.msg.op then splitRd (g.data.length + 1) r.msg.addr u g.data g.poison else []
    | _ => []
  let ing := r.out
  match r.org with
  | .port _ =>
    if isRead r.msg.op then
      let s := parts.foldl (fun s x => answerTo s r ing st (.data x.1 x.2 .i)) s
      if r.splitUr then answerTo s r ing st .ur else s
    else answerTo s r ing st
      (if !nonPosted r.msg.op then .nothing else if r.splitUr then .ur else if g.fail then .ca else .done .i)
  | _ =>
    answerTo s r ing st (if r.splitUr || g.fail then .ur else if isRead r.msg.op then .data g.data g.poison .i else .done .i)

/-- The completion size of a requester: its vPPB's Max_Payload_Size and 512 bytes (R72). -/
def rcbOf (s : State) (r : Pkt) : Nat :=
  match r.org, r.ten with
  | .port p, some t =>
    let v := ((getTen s t).vppb.find? fun e => e.2.bind == .dev p || e.2.bind == .host p).map fun e => e.2.maxPayload
    min (v.getD 128) 512
  | _, _ => 512

/-- One line of a gathered request has its answer. (Log 22 DESIGN CHOICE.) -/
def partDone (s : State) (gid off : Nat) (st : Stage) (a : Ans) : State :=
  match s.core.gathers.find? fun g => g.id == gid with
  | none => s
  | some g =>
    let d := if isRead g.pkt.msg.op then splice g.data off (ansData a) else g.data
    let bad := (List.range (max g.poison.length (off / 64 + 1))).map (fun i => i == off / 64 || g.poison.getD i false)
    let failed := match a with | .ca | .ur => true | _ => false
    let g' := { g with left := g.left - 1, data := d, poison := if ansBad a then bad else g.poison
                       fail := g.fail || failed }
    let keep := s.core.gathers.filter fun x => x.id != gid
    if g'.left = 0 then gatherDone { s with core := { s.core with gathers := keep } } g' (rcbOf s g.pkt) st
    else { s with core := { s.core with gathers := keep ++ [g'] } }

/-- Answer any request. -/
def answer (s : State) (r : Pkt) (ing : Nat) (st : Stage) (a : Ans) : State :=
  match r.org with
  | .part gid off => partDone s gid off st a
  | .member wid m => memberOutcome s wid m (!ansBad a)
  | _ => answerTo s r ing st a

/-! ### Forms of refusal, of the stand-in responder and of a fallen domain -/

/-- The refused form of Table DKL-5, and of a closed pool or an unresolved line for reads (R148, R150). -/
def refusedForm (o : MOp) : Ans :=
  match o with
  | .memRd _ => .poison
  | .memInv | .memWr _ | .memClnEvct => .done .i
  | .cacheRd | .cacheWr => .goErr
  | .ioWr | .mgmt _ => .nothing
  | .refresh => .ur
  | o => if isRsp o then .nothing else .ur

/-- The stand-in form of Table SVC-4; `ur` for a port in DPC with dpc_ca = 0. -/
def standForm (o : MOp) (ur : Bool) : Ans :=
  match refusedForm o with
  | .ur => if ur then .ur else .ca
  | a => a

/-- Whether a request's refusal sends the source's tenant an event: a discarded CXL.mem write (Tables DKL-5, SVC-4). -/
def memWrEv (s : State) (r : Pkt) : State :=
  match r.msg.op with
  | .memWr _ => tenEv? s r.ten
  | _ => s

/-- Answer a request that failed: a member copy fails its write whatever the form of its completion (R106). -/
def answerBad (s : State) (r : Pkt) (a : Ans) : State :=
  match r.org with
  | .member wid m => memberOutcome s wid m false
  | _ => answer s r r.ing .queued a

/-- Refuse a request whole at the centre: its answer, without log. (Log 23 DEDUCED.) -/
def refuse (s : State) (r : Pkt) : State := answerBad (memWrEv s r) r (refusedForm r.msg.op)

/-- Whether a unit has had its first stand-in answer logged since its last entry into reset or hold (R309). -/
def standLogged (s : State) (u : UnitId) : Bool := tget false s.cnt.standLogged (standIdx u)

/-- The stand-in responder answers a request addressed to unit `u` (R309); `why` 0 reset, 1 couch, 2 update. (Log 23 DEDUCED.) -/
def standIn (s : State) (r : Pkt) (u : UnitId) (why : Nat) (ur : Bool) : State :=
  let r := { r with tunit := none }
  let s := standCount s u
  let s := if standLogged s u then s else
    let s := logEvent s u 0x10 0 why
    { s with cnt := { s.cnt with standLogged := tput false s.cnt.standLogged (standIdx u) true } }
  let s := if r.ing < 96 then tdWaste s 1 (2 * quireOf r.ing) r.ten 1 else s
  answerBad (memWrEv s r) r (standForm r.msg.op ur)

/-- A fallen or restarting domain's form (R190 step 3). -/
def fallenForm (o : MOp) : Ans :=
  match refusedForm o with
  | .ur => .ca
  | a => a

/-- Complete a pool request of a fallen domain. -/
def fallenAns (s : State) (r : Pkt) : State := answer (memWrEv s r) r r.out .staged (fallenForm r.msg.op)

/-- Form of a request to a lost channel or a closed pool (R143, R148, R150): poison for CXL.mem, Unsupported Request for
CXL.io. -/
def lostForm (o : MOp) : Ans := refusedForm o

end Sys2Proof.Machine
end

