-- ==== Sys2Proof/Machine/Route.lean ====
section
/-!
DEFINITION. Where a message goes: decode windows of virtual switches (R53), proxies (R337), route entries (R78), equal-cost
groups and the flow-pinning hash (R80 to R85), and whose tenant a message is (R334).
-/

namespace Sys2Proof.Machine

/-! ## Port configuration -/

/-- Role of a port (Table FAB-1). -/
def roleOf (x : Port) : Nat := fld x.cfg 28 3
/-- Width code of a port. -/
def widthOf (x : Port) : Nat := fld x.cfg 26 2
/-- The enable bit. -/
def Port.enabled (x : Port) : Bool := bit x.cfg 31
/-- Tenant field. -/
def cfgTen (x : Port) : Nat := fld x.cfg 12 4
/-- PBR ID field. -/
def cfgPbr (x : Port) : Nat := fld x.cfg 0 12
/-- Host-edge or downstream-edge. -/
def isEdge (x : Port) : Bool := roleOf x == 1 || roleOf x == 2
/-- The tenant of a port: none in the roles that ignore the field. -/
def portTen (x : Port) : Option Nat := if isEdge x then some (cfgTen x) else none
/-- Positions of width: 1, 2 or 4 (Table ARCH-2). -/
def span (x : Port) : Nat := if widthOf x = 1 then 2 else if widthOf x = 2 then 4 else 1

/-- Whether port `p` is absorbed by the merged port of a lower lead (R14). -/
def absorbed (s : State) (p : Nat) : Bool :=
  (p % 2 == 1 && widthOf (getPort s (p - 1)) == 1) ||
    (p % 4 != 0 && widthOf (getPort s (p - p % 4)) == 2)

/-- A lead port: a port of the device that no other absorbs. -/
def leadPort (s : State) (p : Nat) : Bool := p < 96 && !absorbed s p

/-- DPC holds the link disabled, a hold entry or a reset holds the port (R68, R310). -/
def portDown (x : Port) : Bool := x.rst != .run || x.dpcTrig

/-! ## Tenants of messages -/

/-- The PBR ID of what a vPPB is bound to. -/
def bindPbr (s : State) : Bind → Option Nat
  | .none => none
  | .host p => some (cfgPbr (getPort s p))
  | .dev p => some (cfgPbr (getPort s p))
  | .ld p _ => some (cfgPbr (getPort s p))
  | .remote r => some r

/-- The tenant in whose virtual switch a remote PBR ID was placed (R334). -/
def tenOfPbr (s : State) (pbr : Nat) : Option Nat :=
  (s.ten.find? fun t => (t.2.vppb.any fun v => v.2.bind == .remote pbr) ||
      (t.2.sharer.any fun e => e.2.valid && e.2.pbr == pbr)).map fun t => t.1

/-! ## Proxies (R337) -/

/-- Proxy entry `i`. -/
def getProxy (s : State) (i : Nat) : W32 := tget 0 s.stk.proxy i

/-- Destination of a message leaving by a gateway port: none where the entry is invalid or of another domain. (Log 26 DEDUCED.) -/
def proxyOut (s : State) (p dst : Nat) : Option Nat :=
  let e := getProxy s (dst - 3584)
  if dst < 3584 then some dst
  else if bit e 31 && fld e 24 4 == fld (getPort s p).gw 16 4 then some (fld e 0 12) else none

/-- Source of a message entering by a gateway port. -/
def proxyIn (s : State) (p src : Nat) : Option Nat :=
  (s.stk.proxy.find? fun e => bit e.2 31 && fld e.2 24 4 == fld (getPort s p).gw 16 4 && fld e.2 0 12 == src).map
    fun e => 3584 + e.1

/-! ## Equal-cost groups -/

/-- The hash key of Table CORE-2. -/
def hashKey (s : State) (ten : Nat) (m : Msg) : Nat :=
  let sh := clamp 6 47 s.core.hashShift
  let a := if s.core.hashAddrEn && carriesAddr m.op && !isIo m.op then m.addr / 2 ^ sh % 2 ^ 16 else 0
  packN [(60, ten), (48, m.srcPbr % 4096), (36, m.dstPbr % 4096), (20, a)]

/-- The bucket of a message (R81). -/
def bucketOf (s : State) (ten : Nat) (m : Msg) : Nat :=
  crc32c s.core.hashSeed.toNat (natLe 8 (hashKey s ten m)) % 64

/-- A port is live as a member: link up and not in reset, quire reset or DPC (R84). -/
def memberLive (s : State) (p : Nat) : Bool :=
  let x := getPort s p
  x.link == .up && !portDown x

/-- The member port a message leaves by: the bucket's member while any member is live. -/
def ecmpPort (s : State) (g ten : Nat) (m : Msg) : Option Nat :=
  let e := getEcmp s g
  if e.members.any (memberLive s) then e.members[e.buckets.getD (bucketOf s ten m) 0]? else none

/-- Re-point the buckets of a failed member to the next live member (R84). -/
def ecmpFail (s : State) (p : Nat) : State :=
  forL (s.core.ecmp.map fun e => e.1) s fun s g =>
    let e := getEcmp s g
    let n := e.members.length
    let next (b : Nat) : Nat := (firstFrom n (b + 1) fun i => (e.members[i]?).any (memberLive s)).getD b
    let bs := e.buckets.map fun b => if e.members[b]? == some p then next b else b
    modEcmp s g fun e => { e with buckets := bs }

/-! ## Routes -/

/-- Route entry of quire `q` for a PBR ID. (Log 16 DEDUCED.) -/
def routeOf (s : State) (q id : Nat) : W32 := tget 0 (getQuire s q).route id

/-- The quire whose table routes a message from a point: EN and pool channels use quire 0's (notes/assumptions/16.md).
(Log 16 DEDUCED.) -/
def routeQuire (ing : Nat) : Nat := if ing < 96 then quireOf ing else 0

/-- A resolved destination: what, and the output point where it is known before the centre. -/
structure Hop where
  dest : Dest
  out : Nat := 127
  ecmp : Option Nat := none
deriving DecidableEq, Repr

/-- Destination by PBR ID (R78, R79): unroutable where the entry is invalid or of a reserved kind, where no member is live, or
where a single port's link is not up and neither reset nor DPC. (Log 16 DEDUCED.) -/
def hopPbr (s : State) (ing ten : Nat) (m : Msg) : Hop :=
  let e := routeOf s (routeQuire ing) m.dstPbr
  let port (p : Nat) (g : Option Nat) : Hop :=
    let x := getPort s p
    if x.link == .up || portDown x then { dest := .port p, out := p, ecmp := g } else { dest := .none }
  if !bit e 31 then { dest := .none } else
  match fld e 28 3 with
  | 1 => port (fld e 0 7) none
  | 2 => match ecmpPort s (fld e 8 6) ten m with
    | some p => port p (some (fld e 8 6))
    | none => { dest := .none }
  | 3 => { dest := .pool }
  | 4 => { dest := .engine, out := 108 }
  | 5 => { dest := .repl (fld e 16 10) }
  | _ => { dest := .none }

/-- The vPPB of a tenant whose decode window holds an address. -/
def windowOf (s : State) (t addr : Nat) : Option (Nat × Vppb) :=
  (getTen s t).vppb.find? fun v => v.1 != 0 && v.2.winSet && v.2.winBase ≤ addr && addr ≤ v.2.winLimit

/-- What a host-based address names (R53): the pool at a device physical address, a vPPB, or nothing. -/
inductive Hbr where
  | pool (dpa : Nat) | vppb (v : Nat) (b : Bind) | none
deriving DecidableEq, Repr

/-- Decode an address of tenant `t`: the pool vPPB's window (with the 4 KiB doorbell BAR left to BAR2's rows), then the
downstream vPPBs'. -/
def hbrOf (s : State) (t addr : Nat) : Hbr :=
  let x := getTen s t
  if x.poolWinSet && x.poolWin ≤ addr && addr < x.poolWin + x.len * 2 ^ 28 then .pool (addr - x.poolWin)
  else match windowOf s t addr with
    | some (v, b) => .vppb v b.bind
    | none => .none

/-- The host port of a tenant's virtual switch: what vPPB 0 is bound to. -/
def hostPort (s : State) (t : Nat) : Option Nat :=
  match (getVppb s t 0).bind with
  | .host p => some p
  | _ => none

/-- The vPPB of a tenant bound to a port. -/
def vppbOfPort (s : State) (t p : Nat) : Option Nat :=
  ((getTen s t).vppb.find? fun v => match v.2.bind with | .host q => q == p | .dev q => q == p | .ld q _ => q == p | _ => false).map
    fun v => v.1

/-- Every (tenant, vPPB) bound to a port. -/
def bindingsOf (s : State) (p : Nat) : List (Nat × Nat) :=
  s.ten.flatMap fun t => (t.2.vppb.filter fun v =>
    match v.2.bind with | .dev q => q == p | .ld q _ => q == p | _ => false).map fun v => (t.1, v.1)

/-- ACS on a peer-to-peer request from vPPB `v` to vPPB `w` (R70): blocked by egress control, redirected upstream, or let pass. -/
inductive AcsAct where
  | pass | block | up
deriving DecidableEq, Repr

/-- ACS control bits: 2 P2P Request Redirect, 5 P2P Egress Control, as in the PCIe ACS Control register.
(Log 58 DEDUCED, 60 DEDUCED.) -/
def acsOf (x : Vppb) (w : Nat) : AcsAct :=
  if bit x.acs 2 then .up else if bit x.acs 5 && bit x.egress w then .block else .pass

end Sys2Proof.Machine
end

