-- ==== Sys2Proof/Machine/Home.lean ====
section
/-!
DEFINITION. The home agent and the directory (07), with the DRAM side of a transaction (R155 to R165).
-/

namespace Sys2Proof.Machine

/-! ## Lines, kinds and the directory -/

/-- The pool line address of a request (R168). -/
def lineOf (r : Pkt) : Nat := r.paddr / 64

/-- The Sheet Table entry a request's storage follows: the present one while it still names the location the request was
resolved to, the one it was resolved against otherwise (R152). -/
def entOf (s : State) (r : Pkt) : W64 :=
  let e := getSheet s (r.paddr / 2 ^ 28)
  let same (g slot : Nat) : Bool := shPg e == g && shPs e == slot || shMst e != 0 && shMg e == g && shMs e == slot
  if shValid e && (same (shPg r.ent) (shPs r.ent) || shTwo r.ent && same (shMg r.ent) (shMs r.ent)) then e else r.ent

/-- The tenant a pool line belongs to: none for a Steward's or an invalid sheet (R169). -/
def lineTen (s : State) (line : Nat) : Option Nat :=
  let e := getSheet s (line / 2 ^ 22)
  if shValid e && !shStw e then some (shTen e) else none

/-- The sharer index of a requester in a tenant's table (R170). -/
def sharerOf (s : State) (t : Nat) (r : Pkt) : Option Nat :=
  match r.org with
  | .port p => ((getTen s t).sharer.find? fun e => e.2.valid && e.2.port == p && e.2.pbr == r.msg.srcPbr).map fun e => e.1
  | _ => none

/-- A port in CXL 256-byte flit mode with back-invalidate active (R59). -/
def biPort (s : State) (p : Nat) : Bool := let x := getPort s p; x.mode == 1 && x.biActive

/-- A request as the home sees it (Table COH-3, R171), with the requester's sharer index where it is registered. -/
def kindOf (s : State) (r : Pkt) : HKind × Option Nat :=
  let sh := (lineTen s (lineOf r)).bind fun t => sharerOf s t r
  match r.msg.op with
  | .refresh => (.refresh, none)
  | .ioAtom .. | .uioAtom .. => (.atom, sh)
  | .memRd .data => if sh.isSome then (.rds, sh) else (.rdnc, none)
  | .memRd .inv | .memInv => if sh.isSome then (.rde, sh) else (.rdnc, none)
  | .memClnEvct => (.evc, sh)
  | .memWr .noop => if sh.isSome then (.evd, sh) else (.wrnc, none)
  | .memWr _ | .cacheWr | .ioWr | .uioWr => (.wrnc, sh)
  | _ => (.rdnc, sh)

/-- A caching read from a source that is not registered although its link could be tracked (R171). -/
def unregistered (s : State) (r : Pkt) : Bool :=
  match r.msg.op, r.org with
  | .memRd .data, .port p | .memRd .inv, .port p | .memInv, .port p =>
      biPort s p && (kindOf s r).2.isNone && (lineTen s (lineOf r)).isSome
  | _, _ => false

/-- Directory set of a line (R172). -/
def dirSet (line : Nat) : Nat := (line % 2 ^ 19) ^^^ (line / 2 ^ 19)
/-- The line of an entry. -/
def dirLine (key : Nat) (d : DirEnt) : Nat := (d.tag * 2 ^ 19) + ((key / 16) ^^^ d.tag)
/-- Entry at a key (set × 16 + way). -/
def getDir (s : State) (k : Nat) : DirEnt := tget {} s.home.dir k
/-- Write an entry. -/
def setDir (s : State) (k : Nat) (d : DirEnt) : State := { s with home := { s.home with dir := tput {} s.home.dir k d } }
/-- Free a way; a retired way stays retired (R188). -/
def freeDir (s : State) (k : Nat) : State := setDir s k { retired := (getDir s k).retired }

/-- The key of a line's valid entry. -/
def dirFind (s : State) (line : Nat) : Option Nat :=
  ((List.range 16).map fun w => dirSet line * 16 + w).find? fun k =>
    let d := getDir s k; d.valid && d.tag == line / 2 ^ 19

/-- Ways of a set. -/
def ways (line : Nat) : List Nat := (List.range 16).map fun w => dirSet line * 16 + w

/-- Pins of a set (R185). -/
def pins (s : State) (line : Nat) : Nat := ((ways line).filter fun k => (getDir s k).pin).length

/-- Open transactions (R193). -/
def openTxns (s : State) : Nat := s.home.txns.length

/-- The transaction open on a line. -/
def txnOf (s : State) (line : Nat) : Option Txn := s.home.txns.find? fun t => t.line == line

/-- Replace the transaction on a line. -/
def setTxn (s : State) (t : Txn) : State :=
  let l := s.home.txns.map fun x => if x.line == t.line then t else x
  { s with home := { s.home with txns := l } }

/-- Open a transaction; the peak follows (R193). -/
def openTxn (s : State) (t : Txn) : State :=
  let n := s.home.txns.length + 1
  { s with home := { s.home with txns := s.home.txns ++ [t], peak := max s.home.peak n } }

/-- Remove the transaction of a line and clear its entry's pin. -/
def dropTxn (s : State) (t : Txn) : State :=
  let s := { s with home := { s.home with txns := s.home.txns.filter fun x => x.line != t.line } }
  match t.key with
  | some k => if (getDir s k).valid then setDir s k { getDir s k with pin := false } else s
  | none => s

/-! ## The directory log (R193, Table COH-10) -/

/-- Log a directory event: the event bit, its Steward event, the entry, the tenant's event. -/
def dirLog (s : State) (kind : Nat) (ten : Option Nat) (sharer way line : Nat) : State :=
  let h := s.home
  let e : LogEnt := { w0 := pack64 [(63, 1), (60, kind), (56, ten.getD 0), (49, sharer), (45, way), (0, line % 2 ^ 37)], w1 := now s }
  let h := if 16 ≤ h.log.length then { h with evLogOvf := true } else { h with log := h.log ++ [e] }
  let h' := match kind with
    | 0 => { h with evStateUe := true }
    | 2 => { h with evTagLost := true }
    | 3 => { h with evLateWb := true }
    | 4 => { h with evUnreg := true }
    | 5 | 6 => { h with evDown := true }
    | _ => h
  let o := s.home
  let s := { s with home := h' }
  let s := stewIf s o.evLogOvf h'.evLogOvf
  let s := stewIf s o.evStateUe h'.evStateUe
  let s := stewIf s o.evTagLost h'.evTagLost
  let s := stewIf s o.evLateWb h'.evLateWb
  let s := stewIf s o.evUnreg h'.evUnreg
  let s := stewIf s o.evDown h'.evDown
  if kind == 0 || kind == 3 || kind == 4 || kind == 5 || kind == 6 then tenEv? s ten else s

/-! ## Snoops (R178, R189) -/

/-- Snoops issued and unanswered toward a sharer of a tenant. -/
def snoopsOut (s : State) (t sharer : Nat) : Nat :=
  sumBy (fun x => if x.tenant == some t then (x.snoops.filter fun n => n.issued && n.sharer == sharer).length else 0) s.home.txns

/-- Whether a sharer can be reached: its port's link is up or in reset, and a remote ID has a route (R189). -/
def sharerReach (s : State) (e : Sharer) : Bool :=
  let x := getPort s e.port
  (x.link == .up || x.rst != .run) && !x.dpcTrig &&
    (roleOf x == 1 || bit (routeOf s (quireOf e.port) e.pbr) 31)

/-- The snoop message to a sharer: request class, priority 7 (R178). -/
def snoopPkt (s : State) (line : Nat) (n : Snoop) (t ch : Nat) : Pkt :=
  let e := tget {} (getTen s t).sharer n.sharer
  { id := 0, msg := { op := .biSnp n.kind, addr := line * 64, dstPbr := e.pbr, len := 0 }, org := .snoop line n.sharer, ten := some t,
    ing := 96 + ch, dest := .port e.port, out := e.port, prio := 7, admitted := now s }

/-- The channel a line's primary copy lies on. -/
def lineChan (s : State) (line : Nat) : Nat := (locP s (getSheet s (line / 2 ^ 22)) (line * 64)).1

/-- Issue a transaction's waiting snoops, in ascending sharer index, within 256 to one sharer. A sharer that cannot be reached
is returned instead, for the domain to fall. -/
def issueTxn (s : State) (t : Txn) : State × List Nat :=
  let ten := t.tenant.getD 0
  t.snoops.foldl (fun (a : State × List Nat) n =>
    let s := a.1
    let e := tget {} (getTen s ten).sharer n.sharer
    if n.issued || 256 ≤ snoopsOut s ten n.sharer then a
    else if !sharerReach s e then (s, a.2 ++ [n.sharer])
    else
      let mark (x : Txn) : Txn :=
        { x with snoops := x.snoops.map fun y => if y.sharer == n.sharer then { y with issued := true } else y }
      let l := s.home.txns.map fun x => if x.line == t.line then mark x else x
      let s := { s with home := { s.home with txns := l } }
      (countEv (addPkt s (snoopPkt s t.line n ten (lineChan s t.line))) 0x4007 0 t.tenant 1, a.2)) (s, [])

/-! ## The fall of a domain (R190) -/

/-- Host-edge ports of a tenant. -/
def hostPorts (s : State) (t : Nat) : List Nat :=
  (s.port.filter fun e => roleOf e.2 == 1 && cfgTen e.2 == t).map fun e => e.1

/-- Ports where a tenant's viral is signalled. -/
def viralPorts (s : State) (t : Nat) : List Nat :=
  hostPorts s t ++ ((getTen s t).vppb.filterMap fun v => match v.2.bind with | .dev p => some p | .ld p _ => some p | _ => none)

/-- Whether a pool request belongs to a tenant: its own, or to one of its lines. -/
def reqOfTen (s : State) (t : Nat) (r : Pkt) : Bool := r.ten == some t || lineTen s (lineOf r) == some t

/-- Complete every open and queued pool request of a tenant and end its snoops (R190 step 3, R303 step 2). -/
def flushTenant (s : State) (t : Nat) : State :=
  let mine (x : Txn) : Bool := x.tenant == some t || x.req.any fun r => reqOfTen s t r
  let reqs := (s.home.txns.filter mine).flatMap fun x => x.req.toList ++ x.chain
  let q := s.home.queue.filter fun r => reqOfTen s t r
  let keepQ := s.home.queue.filter fun r => !reqOfTen s t r
  let s := (s.home.txns.filter mine).foldl dropTxn s
  let s := { s with home := { s.home with queue := keepQ } }
  (reqs ++ q).foldl fallenAns s

/-- The VIRAL message for a remote sharer: it carries no tag (R325, R328). -/
def viralMgmt (s : State) (t pbr : Nat) : Mgmt :=
  { sender := s.stk.dev, receiver := 0x3FF, epoch := s.stk.epoch, sequence := 0, payload := BitVec.ofNat 8 t :: natLe 2 pbr }

/-- The tenant's domain falls, with the cause and the sharer (R190). -/
def domainFall (s : State) (t cause sharer line : Nat) : State :=
  let x := getTen s t
  if x.down then modTen s t fun x =>
      { x with sharer := tput {} x.sharer sharer { (tget {} x.sharer sharer) with dead := (tget {} x.sharer sharer).valid } }
  else
  let sh := if cause = 4 || cause = 3 then x.sharer
    else tput {} x.sharer sharer { (tget {} x.sharer sharer) with dead := true }
  let s := modTen s t fun x => { x with down := true, viral := true, cause := cause, dead := sharer, sharer := sh }
  let s := forL (viralPorts s t) s fun s p => emit s (.viral p)
  let remote := x.sharer.filter fun e => e.2.valid && 3 ≤ roleOf (getPort s e.2.port)
  let s := remote.foldl (fun s e => mgmtEmit s e.2.port 0x0B (viralMgmt s t e.2.pbr)) s
  let s := flushTenant s t
  let dir := s.home.dir.map fun e => if e.2.valid && e.2.tenant == t then (e.1, { e.2 with frozen := true, pin := false }) else e
  let s := { s with home := { s.home with dir := dir } }
  let s := if cause == 1 || cause == 2 then dirLog s (if cause = 1 then 5 else 6) (some t) sharer 0 line
    else
      let o := s.home.evDown
      tenEv (stewIf { s with home := { s.home with evDown := true } } o true) t
  evLatch s (ctxOf t) 17

/-- Issue the waiting snoops of every transaction; a sharer that cannot be reached is dead at once. -/
def issueSnoops (s : State) : State :=
  s.home.txns.foldl (fun s t =>
    match txnOf s t.line with
    | none => s
    | some t =>
      let r := issueTxn s t
      match r.2 with
      | [] => r.1
      | d :: _ => match t.tenant with
        | some n => domainFall r.1 n 2 d t.line
        | none => r.1) s

/-! ## Error logs of a channel (R158 to R161) -/

/-- A channel log entry; the decoded row and bank fields are an open function of the address (notes/assumptions/7.md). -/
def chanEnt (s : State) (ch a device cause count : Nat) : LogEnt :=
  let sh := (sheetAt s ch a).map fun x => x.1
  { w0 := pack64 [(63, 1), (62, a / 64 % 2), (26, Config.dramFree (a / 64) % 2 ^ 36), (22, device), (20, cause),
                  (5, sh.getD 0x7FFF), (0, count)]
    w1 := now s, w2 := BitVec.ofNat 64 (a / 64) }

/-- The tenant that owns the sheet at a channel location. -/
def ownerAt (s : State) (ch a : Nat) : Option Nat := (sheetAt s ch a).bind fun x => shOwner x.2.1

/-- A correction at a channel address (R159). -/
def logCe (s : State) (ch a device : Nat) : State :=
  let x := getChan s ch
  let s := countEv s 0x3002 ch (ownerAt s ch a) 1
  let w2 := BitVec.ofNat 64 (a / 64)
  let s := modChan s ch fun c => { c with ceCount := satAdd (2 ^ 32 - 1) c.ceCount 1 }
  match x.ceLog.find? fun e => e.w2 == w2 with
  | some e =>
    let n := satAdd 31 (fld e.w0 0 5) 1
    let l := replaceFirst (fun e => e.w2 == w2) (fun e => { e with w0 := setFld e.w0 0 5 n, w1 := now s }) x.ceLog
    let s := modChan s ch fun c => { c with ceLog := l }
    if n == 3 then stewIf (modChan s ch fun c => { c with evRecur := true }) x.evRecur true else s
  | none =>
    if x.ceLog.length < 64 then modChan s ch fun c => { c with ceLog := c.ceLog ++ [chanEnt s ch a device 0 1] }
    else
      let s := modChan s ch fun c => { c with ceOvf := satAdd 0xFFFF c.ceOvf 1, evCeFull := c.evCeFull || c.ceOvf == 0 }
      stewIf s x.evCeFull (x.evCeFull || x.ceOvf == 0)

/-- An uncorrectable event at a channel address, with its cause (R160, R161). -/
def logUe (s : State) (ch a device cause : Nat) : State :=
  let x := getChan s ch
  let ent := chanEnt s ch a device cause 1
  let own := ownerAt s ch a
  let s := modChan s ch fun c => if c.ueLog.length < 16 then { c with ueLog := c.ueLog ++ [ent] }
    else { c with ueOvf := satAdd 0xFFFF c.ueOvf 1 }
  match cause with
  | 1 => tenEv? (stewIf (modChan s ch fun c => { c with evScrubUe := true }) x.evScrubUe true) own
  | 3 => stewIf (modChan s ch fun c => { c with evRepair := true }) x.evRepair true
  | _ => tenEv? (stewIf (modChan (countEv s 0x3003 ch own 1) ch fun c => { c with evUe := true }) x.evUe true) own

/-! ## A transaction's course -/

/-- Locations of the two copies of a line. -/
def copies (s : State) (t : Txn) : (Nat × Nat) × Option (Nat × Nat) :=
  let e := match t.req with | some r => entOf s r | none => getSheet s (t.line / 2 ^ 22)
  (locP s e (t.line * 64), if shTwo e then some (locS s e (t.line * 64)) else none)

/-- Write a line to every copy at once: a host's writeback during a transaction. -/
def writeBack (s : State) (t : Txn) (d : List Byte) : State :=
  let c := copies s t
  let s := dramWr s c.1.1 c.1.2 d false
  match c.2 with | some l => dramWr s l.1 l.2 d false | none => s

/-- The data of a request's write within its line: offset and bytes. -/
def wrSpan (r : Pkt) : Nat × List Byte := (r.msg.addr % 64, r.msg.data)

/-- Whether a write covers the whole line. -/
def fullWrite (r : Pkt) : Bool := r.msg.data.length == 64

/-- Poison carried by a write. -/
def wrPoison (r : Pkt) : Bool := r.msg.poison.any id

/-- The read data a request takes from its line. -/
def rdSpan (r : Pkt) (line : List Byte) : List Byte :=
  match r.msg.op with
  | .memRd _ | .cacheRd => line
  | _ => slice line (r.msg.addr % 64) r.msg.len

/-- The result of an atomic on an operand of `n` bytes (R180, R241): the new value. (Log 90 DEDUCED.) -/
def atomNew (op : AtomOp) (n old x y : Nat) : Nat :=
  match op with
  | .add => (old + x) % 2 ^ (8 * n)
  | .swap => x
  | .cas => if old == x then y else old
  | .and => old &&& x
  | .or => old ||| x
  | .xor => old ^^^ x
  | .umin => min old x
  | .umax => max old x

/-- The operation, operand width and operands of an atomic. (Log 90 DEDUCED.) -/
def atomOf (m : Msg) : AtomOp × Nat × Nat × Nat :=
  match m.op with
  | .ioAtom op n | .uioAtom op n => (op, n, leNat (m.data.take n), leNat ((m.data.drop n).take n))
  | _ => (.add, 8, 0, 0)

/-- The line after an atomic. (Log 90 DEDUCED.) -/
def atomLine (m : Msg) (line : List Byte) : List Byte :=
  let (op, n, x, y) := atomOf m
  let o := m.addr % 64
  splice line o (natLe n (atomNew op n (leNat (slice line o n)) x y))

/-- The pool's answer to a request, for admission at the channel's point (R118: at the request's priority). A port's request stays
open until its answer has crossed (R306). -/
def homeAns (s : State) (r : Pkt) (a : Ans) : State :=
  let s := match r.org with
    | .port _ => if a = .nothing then s else { s with core := { s.core with opens := s.core.opens ++ [{ pkt := r, port := r.out, done := true }] } }
    | _ => s
  answer s r r.out .staged a

/-- Give a requester a place in an entry after a read: E, or S with its pointer, or O (Table COH-4). -/
def grantDir (s : State) (k : Nat) (st : DSt) (sh : Nat) : State :=
  let d := getDir s k
  match st with
  | .e => setDir s k { d with st := .e, ptrs := [sh] }
  | _ =>
    if d.st == .o || d.ptrs.contains sh then setDir s k { d with st := if d.st == .o then .o else if d.st == .e then .e else .s }
    else if 3 ≤ d.ptrs.length then setDir s k { d with st := .o, ptrs := [] }
    else setDir s k { d with st := .s, ptrs := d.ptrs ++ [sh] }

/-- Close a transaction whose request is answered. -/
def closeTxn (s : State) (t : Txn) : State × List Pkt := (dropTxn s t, t.chain)

/-- The write phase: which copies must accept (Table POOL-7); a refresh writes the secondary only (R156). -/
def startWrite (s : State) (t : Txn) (d : List Byte) (bad : Bool) : State :=
  let two := (copies s t).2.isSome
  let mask := if t.kind == .refresh then (if two then 2 else 1) else if two then 3 else 1
  setTxn s { t with phase := .write mask, data := some d, poison := bad }

/-- A read line reaches its transaction (R177, R180, R163, R156): the state after, and the chain if the transaction closed. -/
def withData (s : State) (t : Txn) (d : List Byte) (bad : Bool) : State × List Pkt :=
  match t.req with
  | none => closeTxn s t
  | some r =>
    let sh := ((kindOf s r).2).getD 0
    match t.kind with
    | .rds =>
      let s := match t.key with | some k => grantDir s k .s sh | none => s
      closeTxn (homeAns s r (if bad then .poison else .data (rdSpan r d) [] .s)) t
    | .rde =>
      let s := match t.key with | some k => grantDir s k .e sh | none => s
      closeTxn (homeAns s r (if bad then .poison else .data (rdSpan r d) [] .e)) t
    | .atom =>
      if bad then closeTxn (homeAns s r (.data (slice d (r.msg.addr % 64) (atomOf r.msg).2.1) [true] .i)) t
      else (startWrite s { t with old := slice d (r.msg.addr % 64) (atomOf r.msg).2.1 } (atomLine r.msg d) false, [])
    | .wrnc | .evd => (startWrite s t (splice d (wrSpan r).1 (wrSpan r).2) (bad || wrPoison r), [])
    | .refresh => (startWrite s t d bad, [])
    | _ => closeTxn (homeAns s r (match r.msg.op with
        | .memInv => .done .i
        | _ => .data (rdSpan r d) (if bad then [true] else []) .i)) t

/-- A channel that cannot serve answers for its line: the stand-in responder for a reset (R144), the lost form otherwise
(R143), logged. -/
def chanRefuse (s : State) (r : Pkt) (ch a : Nat) : State :=
  let x := getChan s ch
  if x.st == .inReset then standIn s r ⟨3, ch⟩ (if x.rst == .held then 2 else 0) false
  else homeAns (logUe s ch a 0xF 0) r (lostForm r.msg.op)

/-- After its snoops: read, write, or close (R177). -/
def afterSnoops (s : State) (t : Txn) : State × List Pkt :=
  let c := copies s t
  match t.req with
  | none => match t.kind with
    | .poisonWr => (startWrite s t (zeros 64) true, [])
    | _ =>
      let s := match t.key with | some k => freeDir s k | none => s
      closeTxn s t
  | some r =>
    if !chServes s c.1.1 then closeTxn (chanRefuse s r c.1.1 c.1.2) t
    else match t.kind with
    | .wrnc | .evd =>
      if fullWrite r then (startWrite s t r.msg.data (wrPoison r), [])
      else match t.data with
        | some d => withData s t d false
        | none => (setTxn s { t with phase := .read }, [])
    | .rde => match r.msg.op with
      | .memInv =>
        let s := match t.key with | some k => grantDir s k .e (((kindOf s r).2).getD 0) | none => s
        closeTxn (homeAns s r (.done .e)) t
      | _ => match t.data with
        | some d => withData s t d false
        | none => (setTxn s { t with phase := .read }, [])
    | _ => match t.data with
      | some d => withData s t d false
      | none => (setTxn s { t with phase := .read }, [])

/-- The write phase is done (R177, R180, R156). -/
def writeDone (s : State) (t : Txn) : State × List Pkt :=
  match t.req with
  | none => closeTxn s t
  | some r =>
    let free := match t.key with
      | some k => let d := getDir s k
                  if t.kind == .wrnc && d.st == .e && d.ptrs == ((kindOf s r).2).toList then s else freeDir s k
      | none => s
    let a : Ans := match t.kind with
      | .atom => .data t.old [] .i
      | .refresh => .done .i
      | _ => if nonPosted r.msg.op then .done .i else .nothing
    closeTxn (homeAns free r a) t

/-! ## Taking a request (R175, R177, R184, R185) -/

/-- Sharers whose copies an action must remove (Table COH-4): named, or every live sharer of the tenant in state O. -/
def holders (s : State) (t : Nat) (d : DirEnt) : List Nat :=
  match d.st with
  | .i => []
  | .o => ((getTen s t).sharer.filter fun e => e.2.valid && !e.2.dead).map fun e => e.1
  | _ => d.ptrs.filter fun i => !(tget {} (getTen s t).sharer i).dead

/-- The snoops a request needs at an entry. -/
def snoopsFor (s : State) (k : HKind) (t : Nat) (d : DirEnt) (req : Option Nat) : List Snoop :=
  let inv (l : List Nat) : List Snoop := l.map fun i => { sharer := i, kind := .inv }
  let others := (holders s t d).filter fun i => some i != req
  let own := d.st == .e && d.ptrs == req.toList && req.isSome
  match k with
  | .rds => if d.st == .e && !own then (holders s t d).map fun i => { sharer := i, kind := .data } else []
  | .rde => inv others
  | .rdnc => if d.st == .e && !own then (holders s t d).map fun i => { sharer := i, kind := .cur } else []
  | .wrnc | .evd => if own then [] else if d.st == .o then inv others else inv (holders s t d)
  | .atom | .victim | .recall => inv (holders s t d)
  | _ => []

/-- A free way for a new entry: one without an entry, or a frozen one; a retired way is never taken (R184, R188).
(Log 9 DESIGN CHOICE.) -/
def freeWay (s : State) (line : Nat) : Option Nat :=
  match (ways line).find? fun k => let d := getDir s k; !d.valid && !d.retired && !d.pin with
  | some k => some k
  | none => (ways line).find? fun k => let d := getDir s k; d.frozen && !d.pin && !d.retired

/-- Victims a set offers: valid, unpinned. (Log 9 DESIGN CHOICE.) -/
def victims (s : State) (line : Nat) : List Nat :=
  (ways line).filter fun k => let d := getDir s k; d.valid && !d.pin && !d.retired

/-- Whether a request can open a transaction: a tracker entry, and a pin of its set (R175, R185). -/
def canOpen (s : State) (line : Nat) : Bool := openTxns s < 8192 && pins s line < 15

/-- The counter code of a request kind (Table OBS-3). -/
def kindCode : HKind → Option Nat
  | .rds => some 0x4000 | .rde => some 0x4001 | .rdnc => some 0x4002 | .wrnc => some 0x4003 | .evd => some 0x4004
  | .evc => some 0x4005 | .atom => some 0x4006 | _ => none

/-- Count one request of a kind. -/
def countKind (s : State) (k : HKind) (t : Option Nat) : State :=
  match kindCode k with | some c => countEv s c 0 t 1 | none => s

/-- Take a frozen way: its line is counted lost for its tenant (R191). (Log 9 DESIGN CHOICE.) -/
def takeWay (s : State) (k : Nat) : State :=
  let d := getDir s k
  if d.valid && d.frozen then cntAdd s (tenBase d.tenant + 0x7F0) 1 else s

/-- Put the new, pinned entry of a line in a way. -/
def newEntry (s : State) (k t line : Nat) : State :=
  setDir (takeWay s k) k { valid := true, tenant := t, tag := line / 2 ^ 19, st := .i, pin := true }

/-- Start a clean eviction: it completes at once (R182). -/
def evictClean (s : State) (r : Pkt) : State :=
  let s := match dirFind s (lineOf r), (kindOf s r).2 with
    | some k, some i =>
      let d := getDir s k
      let p := d.ptrs.filter (· != i)
      if d.st == .o || d.frozen then s else if p.isEmpty && !d.pin then freeDir s k else setDir s k { d with ptrs := p }
    | _, _ => s
  homeAns s r (.done .i)

/-- Begin a request whose line has no open transaction: the state, and what its chain must take over if it closed at once. -/
def beginReq (s : State) (r : Pkt) : State × List Pkt :=
  let line := lineOf r
  let ten := lineTen s line
  let ks := kindOf s r
  let s := countKind s ks.1 ten
  let s := if unregistered s r then dirLog s 4 ten 0 0 line else s
  let down := ten.any fun t => (getTen s t).down || (getTen s t).inReset
  if down || (r.ten.any fun t => (getTen s t).inReset) then (fallenAns s r, [])
  else if ks.1 == .evc then (evictClean s r, [])
  else
    let found := match ten with | some _ => dirFind s line | none => none
    let d := match found with | some k => getDir s k | none => {}
    let late := ks.1 == .evd && !(d.st == .e && d.ptrs == ks.2.toList)
    let s := if late then dirLog s 3 ten (ks.2.getD 0) 0 line else s
    let kind := if late then .wrnc else ks.1
    let sn := snoopsFor s kind (ten.getD 0) d ks.2
    let s := if d.st == .o && !sn.isEmpty then countEv s 0x4008 0 ten 1 else s
    let t : Txn := { line := line, kind := kind, req := some r, tenant := ten, snoops := sn, key := found }
    match found with
    | some k =>
      let s := openTxn (setDir s k { d with pin := true }) t
      if sn.isEmpty then afterSnoops s t else (issueSnoops s, [])
    | none =>
      if kind == .rds || kind == .rde then
        match freeWay s line with
        | some k =>
          let t := { t with key := some k }
          afterSnoops (openTxn (newEntry s k (ten.getD 0) line) t) t
        | none =>
          let vs := victims s line
          let f := freeBelow s vs.length
          match vs[f.1]? with
          | none => let t := { t with kind := .rdnc }; afterSnoops (openTxn s t) t
          | some k =>
            let v := getDir f.2 k
            let vt : Txn := { line := dirLine k v, kind := .victim, tenant := some v.tenant, key := some k,
                              snoops := snoopsFor f.2 .victim v.tenant v none }
            let s := countEv (openTxn (setDir f.2 k { v with pin := true }) vt) 0x4009 0 (some v.tenant) 1
            let s := openTxn s { t with phase := .waitWay (dirLine k v) }
            (issueSnoops s, [])
      else afterSnoops (openTxn s t) t

/-- Serve the requests of a chain in order until one leaves a transaction open; the rest become its chain. A request that
finds no tracker entry or pin goes back to the head of the home queue (R175). -/
def runChain (line : Nat) : List Pkt → State → State
  | [], s => s
  | r :: rest, s =>
    match txnOf s line with
    | some t => setTxn s { t with chain := t.chain ++ (r :: rest) }
    | none =>
      if canOpen s line then runChain line rest (beginReq s r).1
      else { s with home := { s.home with queue := (r :: rest) ++ s.home.queue } }

/-- Finish a step of a transaction: run its chain, and let a request that waited for a victim's way take it (R184). -/
def settle (line : Nat) (x : State × List Pkt) : State :=
  let s := x.1
  let s := if (txnOf s line).isNone then
      match s.home.txns.find? fun t => t.phase == .waitWay line with
      | some t =>
        match freeWay s t.line with
        | some k =>
          let t' := { t with key := some k, phase := .snoop }
          let y := afterSnoops (setTxn (newEntry s k (t.tenant.getD 0) t.line) t') t'
          runChain t.line y.2 y.1
        | none => s
      | none => s
    else s
  issueSnoops (runChain line x.2 s)

/-- Earlier posted writes of the same source not yet visible hold a CXL.io request back (R176). -/
def ioBlocked (s : State) (r : Pkt) : Bool :=
  let io := match r.msg.op with | .ioRd | .ioWr | .ioAtom .. => true | _ => false
  let earlier (x : Pkt) : Bool := x.msg.op == .ioWr && x.ing == r.ing && x.seq < r.seq
  io && r.seq != 0 && (s.home.queue.any earlier || s.core.pkts.any (fun x => x.dest == .pool && earlier x) ||
    s.home.txns.any fun t => t.req.any earlier || t.chain.any earlier)

/-- Whether an eviction meets a snoop outstanding to its sender (R181, R182). -/
def crosses (s : State) (r : Pkt) : Bool :=
  match txnOf s (lineOf r), (kindOf s r).2 with
  | some t, some i => t.snoops.any fun n => n.sharer == i
  | _, _ => false

/-- Whether the home can take a queued request now. -/
def takable (s : State) (r : Pkt) : Bool :=
  !ioBlocked s r && ((txnOf s (lineOf r)).isSome || canOpen s (lineOf r))

/-- The first request of a channel's home queue that can be taken (R175). -/
def nextReq (s : State) (ch : Nat) : Option Pkt := s.home.queue.find? fun r => r.out == 96 + ch && takable s r

/-- A dirty eviction that crosses a snoop to its sender is accepted at once (R181): recorded, written, completed. -/
def crossEvd (s : State) (r : Pkt) (t : Txn) : State :=
  let s := countKind s .evd t.tenant
  let s := writeBack s t r.msg.data
  homeAns (setTxn s { t with data := some r.msg.data }) r (.done .i)

/-- Take a request from the queue: it crosses a snoop, joins a conflict chain, or opens a transaction. -/
def takeReq (s : State) (r : Pkt) : State :=
  let s := { s with home := { s.home with queue := s.home.queue.filter fun x => x.id != r.id } }
  let ks := kindOf s r
  match txnOf s (lineOf r) with
  | some t =>
    if crosses s r && ks.1 == .evd && fullWrite r then crossEvd s r t
    else if crosses s r && ks.1 == .evc then evictClean (countKind s .evc t.tenant) r
    else setTxn s { t with chain := t.chain ++ [r] }
  | none => settle (lineOf r) (beginReq s r)

/-- A HOME row: channel `ch`'s next takable request, when it is of the row's kind. -/
def homeOp (k : HKind) (ch : Nat) (s : State) : State :=
  match nextReq s ch with
  | some r => if (kindOf s r).1 == k then takeReq s r else s
  | none => s

/-- A pool channel's count of requests not completed (Table POOL-3). -/
def outstandingOf (s : State) (ch : Nat) : Nat :=
  let mine (r : Pkt) : Bool := r.out == 96 + ch
  min 1023 ((s.home.queue.filter mine).length + sumBy (fun t =>
    (t.req.toList.filter mine).length + (t.chain.filter mine).length) s.home.txns)

/-! ## Events of a transaction -/

/-- A snoop answer reaches its transaction (R177). -/
def biResponse (line sharer : Nat) (st : CSt) (data : List Byte) (s : State) : State :=
  match txnOf s line with
  | none => dirLog s 7 (lineTen s line) sharer 0 line
  | some t =>
    if !(t.snoops.any fun n => n.sharer == sharer && n.issued) then dirLog s 7 t.tenant sharer 0 line else
    let s := if data.length == 64 then writeBack s t data else s
    let keep := t.snoops.filter fun n => n.sharer != sharer
    let t' := { t with snoops := keep, data := if data.length == 64 then some data else t.data }
    let s := match t.key with
      | some k =>
        let d := getDir s k
        if st == .i && d.st != .o then setDir s k { d with ptrs := d.ptrs.filter (· != sharer) } else s
      | none => s
    let s := match t.key with
      | some k =>
        let d := getDir s k
        if t.kind == .rds && d.st == .e then setDir s k { d with st := .s } else s
      | none => s
    let s := setTxn s t'
    if keep.isEmpty then settle line (afterSnoops s t') else issueSnoops s

/-- A snoop runs into its timeout: the sharer is dead and the domain falls (R189, R190). -/
def snoopTimeout (line sharer : Nat) (s : State) : State :=
  match txnOf s line with
  | none => s
  | some t =>
    match t.tenant with
    | some n => if t.snoops.any fun x => x.sharer == sharer && x.issued then domainFall s n 1 sharer line else s
    | none => s

/-- Log the outcome of one copy's decode: a correction, or nothing. (Log 7 DESIGN CHOICE, 41 DEDUCED.) -/
def eccLog (s : State) (loc : Nat × Nat) (e : Ecc) : State :=
  match e with
  | .corrected d => logCe s loc.1 loc.2 d
  | _ => s

/-- Whether a copy read correctly. (Log 41 DEDUCED.) -/
def eccOk : Ecc → Bool
  | .bad _ => false
  | _ => true

/-- The device of an uncorrectable error. -/
def eccDev : Ecc → Nat
  | .bad d => d
  | .corrected d => d
  | .ok => 0xF

/-- A DDR5 read of a transaction's line returns (R155, R158, R162, R163). (Log 41 DEDUCED.) -/
def dramReadDone (line : Nat) (prim sec : Ecc) (s : State) : State :=
  match txnOf s line with
  | none => s
  | some t =>
    if t.phase != .read then s else
    let c := copies s t
    let s := countEv s 0x3000 c.1.1 t.tenant 1
    let s := topDown s 3 c.1.1 0 t.tenant 1
    if !chServes s c.1.1 then
      match t.req with
      | some r => settle line (closeTxn (chanRefuse s r c.1.1 c.1.2) t)
      | none => s
    else if eccOk prim then
      let s := eccLog s c.1 prim
      let bad := dramBad s c.1.1 c.1.2
      let s := if bad then modChan s c.1.1 fun x => { x with poisonReads := x.poisonReads + 1 } else s
      settle line (withData s t (dramRd s c.1.1 c.1.2) bad)
    else match c.2 with
      | some l =>
        if eccOk sec && chServes s l.1 then
          let s := eccLog s l sec
          let d := dramRd s l.1 l.2
          let bad := dramBad s l.1 l.2
          let s := logUe (dramWr s c.1.1 c.1.2 d bad) c.1.1 c.1.2 (eccDev prim) 3
          settle line (withData s t d bad)
        else
          let s := logUe s c.1.1 c.1.2 (eccDev prim) (if t.kind == .wrnc || t.kind == .evd || t.kind == .atom then 2 else 0)
          settle line (withData s t (dramRd s c.1.1 c.1.2) true)
      | none =>
        let s := logUe s c.1.1 c.1.2 (eccDev prim) (if t.kind == .wrnc || t.kind == .evd || t.kind == .atom then 2 else 0)
        settle line (withData s t (dramRd s c.1.1 c.1.2) true)

/-- A copy's channel accepts a write: the copy holds the line; the transaction ends when every copy has accepted
(Table POOL-7). -/
def dramWriteAccepted (line : Nat) (second : Bool) (s : State) : State :=
  match txnOf s line with
  | none => s
  | some t =>
    match t.phase, t.data with
    | .write m, some d =>
      let b := if second then 2 else 1
      if m &&& b == 0 then s else
      let c := copies s t
      let loc := if second then c.2.getD c.1 else c.1
      let s := countEv s 0x3001 loc.1 t.tenant 1
      let s := topDown s 3 loc.1 0 t.tenant 1
      let s := dramWr s loc.1 loc.2 d t.poison
      let t' := { t with phase := .write (m - b) }
      if m == b then settle line (writeDone (setTxn s t') t') else setTxn s t'
    | _, _ => s

/-- A lost or resetting channel's transactions (R143, R144, R154): a write goes on in the surviving copy; a read that has no
other copy, and a write that has none, is answered as the channel answers. -/
def loseTxns (s : State) (ch : Nat) : State :=
  s.home.txns.foldl (fun s t0 =>
    match txnOf s t0.line with
    | none => s
    | some t =>
      let c := copies s t
      match t.phase, t.req with
      | .read, some r => if c.1.1 == ch then settle t.line (closeTxn (chanRefuse s r ch c.1.2) t) else s
      | .write m, some r =>
        if c.1.1 == ch && c.2.isNone then settle t.line (closeTxn (chanRefuse s r ch c.1.2) t)
        else if c.2.isNone && m &&& 2 != 0 then
          let m' := m &&& 1
          if m' == 0 then settle t.line (writeDone s t) else setTxn s { t with phase := .write m' }
        else s
      | _, _ => s) s

/-- Requests of a channel's home queue with no other copy are answered when the channel leaves service. -/
def loseQueue (s : State) (ch : Nat) : State :=
  let stuck := s.home.queue.filter fun r => (locP s (entOf s r) r.paddr).1 == ch
  let keep := s.home.queue.filter fun r => (locP s (entOf s r) r.paddr).1 != ch
  stuck.foldl (fun s r => chanRefuse s r ch (locP s (entOf s r) r.paddr).2) { s with home := { s.home with queue := keep } }

/-! ## Walks (R186, R192) -/

/-- Entries of a tenant whose line lies in sheets a ream change removes. -/
def removedEntries (s : State) (w : Walk) : List Nat :=
  let x := getTen s w.tenant
  let inRun (base len sheet : Nat) : Bool := base ≤ sheet && sheet < base + len
  (s.home.dir.filter fun e => e.2.valid && e.2.tenant == w.tenant &&
    inRun w.oldBase w.oldLen (dirLine e.1 e.2 / 2 ^ 22) && !inRun x.base x.len (dirLine e.1 e.2 / 2 ^ 22)).map fun e => e.1

/-- Start the recalls of a ream walk: every such entry whose line has no open transaction (R186). -/
def startRecalls (s : State) (w : Walk) : State :=
  issueSnoops (forL (removedEntries s w) s fun s k =>
    let d := getDir s k
    let line := dirLine k d
    if (txnOf s line).isSome then s else
    let sn := snoopsFor s .recall d.tenant d none
    let t : Txn := { line := line, kind := .recall, tenant := some d.tenant, key := some k, snoops := sn }
    let s := openTxn (setDir s k { d with pin := true }) t
    if sn.isEmpty then settle line (afterSnoops s t) else s)

/-- Whether a ream walk is complete: no such entry is left. -/
def walkClear (s : State) (w : Walk) : Bool := (removedEntries s w).isEmpty

/-- The walk of a tenant reset (R192): the poison marker in each line held in E, every entry freed, dead marks and viral
cleared, the domain up again. The cause and the sharer of the fall stay readable. (Log 71 DEDUCED.) -/
def resetWalk (s : State) (t : Nat) : State :=
  let mine := s.home.dir.filter fun e => e.2.valid && e.2.tenant == t
  let s := mine.foldl (fun s e =>
    if e.2.st == .e then
      let line := dirLine e.1 e.2
      let ent := getSheet s (line / 2 ^ 22)
      let p := locP s ent (line * 64)
      let s := dramWr s p.1 p.2 (dramRd s p.1 p.2) true
      if shTwo ent then let q := locS s ent (line * 64); dramWr s q.1 q.2 (dramRd s q.1 q.2) true else s
    else s) s
  let s := mine.foldl (fun s e => freeDir s e.1) s
  modTen s t fun x =>
    let sh := x.sharer.map fun e => (e.1, { e.2 with dead := false })
    { x with sharer := sh, down := false, viral := false }

/-! ## The scrubber (R164, R165) -/

/-- Scrub slots per 64 the arbiter leaves a scrubber at class level `l` (Table PWR-1). -/
def scrubShare (s : State) (ch : Nat) : Nat := (getChan s ch).maxShare * (8 - tget 0 s.pwr.level 1) / 8

/-- The scrubber reads the next line of a channel. -/
def scrubRead (ch : Nat) (here other : Ecc) (s : State) : State :=
  let x := getChan s ch
  if !x.scrubEn || scrubShare s ch == 0 || !(x.st == .ready || x.st == .grouped) then s else
  let a := x.scrubPos * 64
  let own := ownerAt s ch a
  let s := countEv s 0x3004 ch own 1
  let s := topDown s 3 ch 0 own 1
  let s := match here with
    | .ok => s
    | .corrected d => logCe s ch a d
    | .bad dv =>
      match sheetAt s ch a with
      | some (sh, e, isP) =>
        let loc := if isP then locS s e (poolOf s (shPg e) sh ch a) else locP s e (poolOf s (shMg e) sh ch a)
        if shTwo e && eccOk other then
          logUe (dramWr (eccLog s loc other) ch a (dramRd s loc.1 loc.2) (dramBad s loc.1 loc.2)) ch a dv 3
        else
          let s := logUe (dramWr s ch a (dramRd s ch a) true) ch a dv 1
          if x.autoRetire then modUse s (if isP then shPg e else shMg e) (if isP then shPs e else shMs e) fun u =>
            { u with retire := true } else s
      | none => logUe (dramWr s ch a (dramRd s ch a) true) ch a dv 1
  let last := x.capacity * 2 ^ 22
  if x.scrubPos + 1 < last then modChan s ch fun x => { x with scrubPos := x.scrubPos + 1 }
  else
    let dur := (mono s - x.lapStart) / 1000000000
    let lateLap := x.lapAlarm != 0 && x.lapAlarm * 3600 < dur
    let s := modChan s ch fun x =>
      { x with scrubPos := 0, laps := x.laps + 1, lapS := dur % 2 ^ 24, lapStart := mono s, evLapLate := x.evLapLate || lateLap }
    stewIf s x.evLapLate (x.evLapLate || lateLap)

end Sys2Proof.Machine
end

