-- ==== Sys2Proof/Machine/Engine.lean ====
section
/-!
DEFINITION. What spoke EN's clients share (R21): requests into the core, the program store, and reads of pool lines by the
engine itself (descriptors, shape and hash tables, images).
-/

namespace Sys2Proof.Machine

/-! ## Requests of the engine -/

/-- The unit that issues an engine client's request (R307). -/
def orgUnit : Org → Option UnitId
  | .load c | .store c => some ⟨5, c⟩
  | .moveRd ch _ | .moveWr ch _ | .moveRefresh ch _ | .moveFlush ch => some ⟨6, ch⟩
  | _ => none

/-- A request with its issuer's stamp. -/
def stampIss (s : State) (p : Pkt) : Pkt :=
  { p with iunit := orgUnit p.org, istamp := match orgUnit p.org with | some u => genOf s u | none => 0 }

/-- A request of an EN client enters the ingress staging of EN. One that no route takes is answered at once (R79). -/
def enSend (s : State) (p : Pkt) : State :=
  match p.dest with
  | .none => answer s { stampIss s p with ing := 108 } 108 .queued (refusedForm p.msg.op)
  | _ => addPkt s { stampIss s p with ing := 108, stage := .staged, admitted := now s }

/-- A request to a fabric destination, resolved as a message from EN is (R78). (Log 16 DEDUCED.) -/
def fabPkt (s : State) (ten : Option Nat) (org : Org) (m : Msg) (prio : Nat) : Pkt :=
  let h := hopPbr s 108 (ten.getD 0) m
  { id := 0, msg := m, org := org, ten := ten, stw := ten.isNone, ing := 108, dest := h.dest, out := h.out, ecmp := h.ecmp,
    prio := prio }

/-- A request to the pool. -/
def poolPkt (ten : Option Nat) (org : Org) (m : Msg) (prio : Nat) : Pkt :=
  { id := 0, msg := m, org := org, ten := ten, stw := ten.isNone, ing := 108, dest := .pool, prio := prio }

/-! ## The program store (R220, R221) -/

/-- Bytes of the program store. (Log 10 DEDUCED.) -/
def psRead (s : State) (a n : Nat) : List Byte := rdBytes s.seq.ps a n
/-- Write bytes: instructions written whole lose an error mark. -/
def psWrite (s : State) (a : Nat) (b : List Byte) : State :=
  let whole (i : Nat) : Bool := a ≤ 16 * i && 16 * i + 16 ≤ a + b.length
  { s with seq := { s.seq with ps := wrBytes s.seq.ps a b, psBad := s.seq.psBad.filter fun i => !whole i } }
/-- Whether a span holds an uncorrectable error. -/
def psErr (s : State) (a n : Nat) : Bool := s.seq.psBad.any fun i => a < 16 * i + 16 && 16 * i < a + n

/-! ## Lines the engine reads for itself -/

/-- Free bytes (notes/assumptions/6.md). (Log 6 DESIGN CHOICE.) -/
def freeBytes (s : State) (n : Nat) : List Byte × State :=
  ((List.range n).map (fun i => BitVec.ofNat 8 (Config.freeNat (s.fresh + i) % 256)), { s with fresh := s.fresh + n })

/-- The present bytes of one pool line: none where the address resolves to no served line or the line is poisoned; a line held
exclusively by a host has the host's bytes, which are free (notes/assumptions/18.md). (Log 18 DESIGN CHOICE.) -/
def peekLine (s : State) (ten : Option Nat) (a : Nat) : Option (List Byte) × State :=
  match poolAddr s ten a with
  | none => (none, s)
  | some pa =>
    let e := getSheet s (pa / 2 ^ 28)
    let l := locP s e (pa / 64 * 64)
    if !chServes s l.1 || dramBad s l.1 l.2 then (none, s)
    else match dirFind s (pa / 64) with
      | some k => if (getDir s k).st == .e then let f := freeBytes s 64; (some f.1, f.2) else (some (dramRd s l.1 l.2), s)
      | none => (some (dramRd s l.1 l.2), s)

/-- The present bytes of a span, line by line. (Log 18 DESIGN CHOICE.) -/
def peekLines (ten : Option Nat) : Nat → Nat → State → Option (List Byte) × State
  | 0, _, s => (some [], s)
  | n + 1, a, s =>
    match peekLine s ten a with
    | (none, s) => (none, s)
    | (some b, s) =>
      match peekLines ten n (a + 64) s with
      | (none, s) => (none, s)
      | (some r, s) => (some (b ++ r), s)

/-- `n` bytes at an address of a space (0 pool, 1 fabric, 2 program store): none where they cannot be read. A fabric span's
bytes are its device's, which are free. (Log 18 DESIGN CHOICE.) -/
def peekSpan (s : State) (ten : Option Nat) (space a n : Nat) : Option (List Byte) × State :=
  match space with
  | 0 =>
    match peekLines ten (lineCount a n) (a / 64 * 64) s with
    | (none, s) => (none, s)
    | (some b, s) => (some (slice b (a % 64) n), s)
  | 2 => if psErr s a n then (none, s) else (some (psRead s a n), s)
  | _ => let f := freeBytes s n; (some f.1, f.2)

/-- Whether every line of a span passes for a need. -/
def spanOk (s : State) (q : Chk) (n : Nat) : Bool := (dklLines s q (lineCount q.addr n)).isNone

/-- The check of an access by a context. -/
def ctxChk (c space addr dst : Nat) : Chk := { space := space, addr := addr, stw := isStw c, ten := c - 2, dst := dst }

/-- Log a refused access of a context and fault it with ACCESS (R197, R233). -/
def accessFault (s : State) (c op : Nat) (q : Chk) : State :=
  faultCtx (dklRefuse s q (dklLine s q) (ctxSrc c) 1) c op 0x14

end Sys2Proof.Machine
end

