-- ==== Sys2Proof/Machine/Mover.lean ====
section
/-!
DEFINITION. The data-mover channels (11): descriptors and their checks, the course of a move in transfers, reshaping, stops.
A channel has one transfer in flight; every request it makes is one line or less (notes/assumptions/19.md).
-/

namespace Sys2Proof.Machine

/-! ## The status word (Table MOV-5) -/

/-- Code of a channel's state. -/
def mvCode (m : Mover) : Nat := match m.st with | .idle => 0 | .running => 1 | .paused => 2 | .stopping => 3 | .inReset => 4

/-- The channel status word. -/
def mvStatus (m : Mover) : W64 :=
  pack64 [(61, mvCode m), (56, m.owner), (48, m.last), (44, m.cause), fl 43 m.poisonSeen, (40, m.kind), (32, m.genTag.toNat),
    (0, m.residue.toNat)]

/-! ## Spans -/

/-- PBR ID and address of a descriptor's address word. -/
def mvSplit (a : W64) : Nat × Nat := (fld a 52 12, fld a 0 52)

/-- The size of a space a descriptor can address (R257). -/
def spaceSize (space : Nat) : Nat := match space with | 0 => 24576 * 2 ^ 28 | 1 => 2 ^ 52 | _ => 2 ^ 20

/-- Whether an address word with a length fits its space, with a PBR ID only in fabric space (R257). -/
def spanFits (space : Nat) (a : W64) (len : Nat) : Bool :=
  (space == 1 || fld a 52 12 == 0) && fld a 0 52 + len ≤ spaceSize space

/-- The pieces of a span: cut at lines, each with the unit its first byte belongs to. -/
def cutLines (space pbr : Nat) (unitOf : Nat → Nat) : Nat → Nat → Nat → List Piece
  | 0, _, _ => []
  | fuel + 1, addr, len =>
    if len = 0 then [] else
    let n := min len (64 - addr % 64)
    { space := space, addr := pack64 [(52, pbr), (0, addr)], len := n, pos := unitOf addr } ::
      cutLines space pbr unitOf fuel (addr + n) (len - n)

/-- The pieces of a span of at most 256 bytes and a part of a line before it. -/
def cutSpan (space : Nat) (base : W64) (off len : Nat) (unitOf : Nat → Nat) : List Piece :=
  let a := (mvSplit base).2 + off
  cutLines space (mvSplit base).1 (fun x => unitOf (x - (mvSplit base).2)) (lineCount a len) a len

/-- The check of a piece with its job's privilege. -/
def pieceChk (d : Desc) (p : Piece) (r w : Bool) : Chk :=
  { space := p.space, addr := (mvSplit p.addr).2, stw := d.stw, ten := d.ten, dst := if p.space = 1 then (mvSplit p.addr).1 else 0,
    r := r, w := w }

/-- The first refusal in the order the channel makes its requests: pieces kept, and the cut with the refused piece (R272). -/
def cutRefused (bad : Piece → Bool) (n : Nat) (l : List Piece) : Nat × Option Piece :=
  l.foldl (fun a p => if p.pos < a.1 && bad p then (p.pos, some p) else a) (n, none)

/-- Whether one deckle, or the Steward's default map alone, admits a destination span whole (R202). -/
def spanAdmitted (s : State) (stw : Bool) (ten space : Nat) (a : W64) (len : Nat) : Bool :=
  let dst := if space = 1 then (mvSplit a).1 else 0
  let q : Chk := { space := space, addr := (mvSplit a).2, stw := stw, ten := ten, dst := dst, w := true }
  let last := (q.addr + len - 1) / 4096
  let same (d : Deckle) : Bool := dklMatch { q with addr := d.base * 4096 } d
  match s.dkl.tab.find? fun e => dklMatch q e.2 with
  | some e => dklGrants q e.2 && last ≤ e.2.limit
  | none => stw && defaultMap q && defaultMap { q with addr := last * 4096 } &&
      !(s.dkl.tab.any fun e => same e.2 && e.2.base ≤ last && q.addr / 4096 ≤ e.2.base)

/-! ## Descriptors (Table MOV-2) and shape tables (Table MOV-4) -/

/-- Word `i` of a table's bytes. -/
def wordAt (b : List Byte) (i : Nat) : W64 := BitVec.ofNat 64 (leNat (slice b (8 * i) 8))

/-- The kind a code names. -/
def kindCodeOf : MvKind → Nat
  | .copy => 0 | .gather => 1 | .reshape => 2 | .fill => 3

/-- The fields of a descriptor for the kind its opcode names. -/
def parseDesc (k : MvKind) (b : List Byte) : Desc :=
  let w0 := wordAt b 0
  { kind := k, srcSpace := fld w0 58 2, dstSpace := fld w0 56 2, auxSpace := fld w0 54 2, wb := bit w0 53, psnStop := bit w0 52,
    prio := fld w0 48 3, shift := fld w0 40 4, esize := fld w0 32 8 + 1, len := fld w0 0 32, src := wordAt b 1, dst := wordAt b 2,
    aux := wordAt b 3 }

/-- Step 5 for fields a shape table does not decide: kind, reserved values and bits, unused fields, spaces (R256, R257).
(Log 44 DEDUCED.) -/
def descOk (k : MvKind) (b : List Byte) : Bool :=
  let w0 := wordAt b 0
  let d := parseDesc k b
  let noGather := fld w0 32 12 == 0
  fld w0 60 4 == kindCodeOf k && d.srcSpace != 3 && d.dstSpace != 3 && d.auxSpace != 3 && !bit w0 51 && fld w0 44 4 == 0 &&
    wordAt b 4 == 0 && wordAt b 5 == 0 && wordAt b 6 == 0 &&
    (match k with
      | .copy => noGather && d.aux == 0 && d.auxSpace == 0 && spanFits d.srcSpace d.src d.len && spanFits d.dstSpace d.dst d.len
      | .fill => noGather && d.src == 0 && d.srcSpace == 0 && d.auxSpace == 0 && spanFits d.dstSpace d.dst d.len
      | .gather => spanFits d.srcSpace d.src 0 && spanFits d.dstSpace d.dst d.len && spanFits d.auxSpace d.aux (4 * (d.len / d.esize))
      | .reshape => noGather && spanFits d.auxSpace d.aux 256 && spanFits d.srcSpace d.src 0 && spanFits d.dstSpace d.dst 0)

/-- Largest length of a channel's class (Table MOV-1). -/
def mvLimit (ch : Nat) : Nat := if ch < 64 then 1048576 else 2 ^ 32 - 1

/-- A shape table's fields. -/
def parseShape (b : List Byte) : Shape :=
  let w0 := wordAt b 0
  let lane (i : Nat) : Bool × Nat :=
    let v := fld (wordAt b (1 + i / 12)) (5 * (i % 12)) 5
    (16 ≤ v, v % 16)
  { merge := bit w0 63, bitplane := bit w0 62, msbFirst := bit w0 61, msbAlign := bit w0 60, signExt := bit w0 59,
    w := fld w0 51 5 + 1, lanes := fld w0 40 6 + 1, planes := fld w0 32 4 + 1, container := fld w0 24 2,
    map := (List.range (fld w0 40 6 + 1)).map lane, base := (List.range 16).map fun p => wordAt b (8 + p) }

/-- Reserved bits of a shape table. (Log 44 DEDUCED.) -/
def shapeReserved (b : List Byte) : Bool :=
  let w0 := wordAt b 0
  fld w0 56 3 == 0 && fld w0 46 5 == 0 && fld w0 36 4 == 0 && fld w0 26 6 == 0 && fld w0 0 24 == 0 &&
    fld (wordAt b 6) 20 44 == 0 && wordAt b 7 == 0 && (List.range 8).all fun i => wordAt b (24 + i) == 0

/-- Width of a container in bits (R268, R270). -/
def cwOf (h : Shape) : Nat := if h.bitplane then 1 else match h.container with | 0 => h.w | 1 => 8 | 2 => 16 | _ => 32
/-- Containers a group puts in plane `p`. -/
def perGroup (h : Shape) (p : Nat) : Nat :=
  if h.bitplane then (if p < h.planes then 1 else 0) else (h.map.filter fun m => m.1 && m.2 == p).length
/-- Bits a group holds on the packed side. -/
def groupBits (h : Shape) : Nat := h.w * h.lanes
/-- Groups of a move. -/
def groupsOf (h : Shape) (len : Nat) : Nat := len * 8 / groupBits h
/-- Bytes of plane `p` over `g` groups. -/
def planeBytes (h : Shape) (g p : Nat) : Nat := ceilDiv (g * perGroup h p * cwOf h) 8

/-- Step 7 for a reshape (R257, R270, R271). (Log 44 DEDUCED.) -/
def shapeRules (d : Desc) (h : Shape) (b : List Byte) : Bool :=
  let used (p : Nat) : Bool := perGroup h p != 0
  let planeSp := if h.merge then d.srcSpace else d.dstSpace
  let g := groupsOf h d.len
  shapeReserved b &&
    (if h.merge then d.src == 0 && d.srcSpace == 0 && spanFits d.dstSpace d.dst d.len
      else d.dst == 0 && d.dstSpace == 0 && spanFits d.srcSpace d.src d.len) &&
    d.len * 8 % groupBits h == 0 && h.w ≤ (if h.bitplane then h.w else cwOf h) && !(h.msbAlign && h.signExt) &&
    h.map.all (fun m => !m.1 || m.2 < h.planes) &&
    (List.range 16).all (fun p => used p == (h.base.getD p 0 != 0) && (!used p || spanFits planeSp (h.base.getD p 0) (planeBytes h g p))) &&
    (!h.bitplane || (h.lanes == 1 && h.w ≤ 16 && h.planes == h.w && h.container == 0 && !h.msbAlign && !h.signExt &&
      (List.range 6).all fun i => wordAt b (1 + i) == 0))

/-! ## Reshaping (R268 to R270) -/

/-- The stream bits of bytes, each with its byte's poison. -/
def toBits (msb : Bool) (l : List (Byte × Bool)) : List (Bool × Bool) :=
  l.flatMap fun x =>
    let bs := (List.range 8).map fun i => (bit x.1 i, x.2)
    if msb then bs.reverse else bs

/-- Bytes of whole stream bytes, with the poison of any bit. -/
def toBytes (msb : Bool) : Nat → List (Bool × Bool) → List (Byte × Bool)
  | 0, _ => []
  | n + 1, l =>
    let b := l.take 8
    let b' := if msb then b.reverse else b
    let v := b'.foldr (fun x a => (if x.1 then 1 else 0) + 2 * a) 0
    (BitVec.ofNat 8 v, b.any fun x => x.2) :: toBytes msb n (l.drop 8)

/-- An element's bits, least significant first, from its stream bits, all with the element's poison. -/
def elemBits (h : Shape) (l : List (Bool × Bool)) : List (Bool × Bool) :=
  let psn := l.any fun x => x.2
  let e := if h.msbFirst then l.reverse else l
  e.map fun x => (x.1, psn)

/-- A container's bits of an element. -/
def contBits (h : Shape) (e : List (Bool × Bool)) : List (Bool × Bool) :=
  let cw := cwOf h
  let psn := e.any fun x => x.2
  if h.msbAlign then List.replicate (cw - h.w) (false, psn) ++ e
  else e ++ List.replicate (cw - h.w) (if h.signExt then (e.getLastD (false, psn)) else (false, psn))

/-- One group of a split: the bits it adds to each plane. -/
def splitGroup (h : Shape) (l : List (Bool × Bool)) : List (List (Bool × Bool)) :=
  let els := (List.range h.lanes).map fun i => elemBits h ((l.drop (i * h.w)).take h.w)
  (List.range 16).map fun p =>
    if h.bitplane then (els.flatMap fun e => ((e.drop p).take 1)).take (if p < h.planes then 1 else 0)
    else (List.range h.lanes).flatMap fun i =>
      let m := h.map.getD i (false, 0)
      if m.1 && m.2 == p then contBits h (els.getD i []) else []

/-- Planes after `g` groups of a split. -/
def splitGroups (h : Shape) : Nat → List (Bool × Bool) → List (List (Bool × Bool)) → List (List (Bool × Bool))
  | 0, _, acc => acc
  | g + 1, l, acc =>
    let add := splitGroup h l
    splitGroups h g (l.drop (groupBits h)) ((List.range 16).map fun p => acc.getD p [] ++ add.getD p [])

/-- One group of a merge from its planes' bits: the packed bits in stream order, and the rest of each plane. -/
def mergeGroup (h : Shape) (pl : List (List (Bool × Bool))) : List (Bool × Bool) × List (List (Bool × Bool)) :=
  if h.bitplane then
    let e := (List.range h.planes).map fun p => (pl.getD p []).headD (false, false)
    (if h.msbFirst then e.reverse else e, (List.range 16).map fun p => (pl.getD p []).drop 1)
  else
    (List.range h.lanes).foldl (fun a i =>
      let m := h.map.getD i (false, 0)
      if m.1 then
        let c := ((a.2.getD m.2 []).take (cwOf h))
        let e := if h.msbAlign then c.drop (cwOf h - h.w) else c.take h.w
        let psn := c.any fun x => x.2
        let e := e.map fun x => (x.1, psn)
        (a.1 ++ (if h.msbFirst then e.reverse else e),
         (List.range 16).map fun p => if p = m.2 then (a.2.getD p []).drop (cwOf h) else a.2.getD p [])
      else (a.1 ++ List.replicate h.w (false, false), a.2)) ([], pl)

/-- `g` groups of a merge. -/
def mergeGroups (h : Shape) : Nat → List (List (Bool × Bool)) → List (Bool × Bool)
  | 0, _ => []
  | g + 1, pl => let r := mergeGroup h pl; r.1 ++ mergeGroups h g r.2

/-! ## A transfer -/

/-- Units of a move: groups for a reshape, bytes otherwise. -/
def unitsOf (j : Job) : Nat := match j.desc.kind with | .reshape => groupsOf j.shape j.desc.len | _ => j.desc.len

/-- Length bytes of a number of units (R273). -/
def doneBytes (j : Job) (u : Nat) : Nat := match j.desc.kind with | .reshape => u * groupBits j.shape / 8 | _ => u

/-- The last unit the move may reach: its end, or the burst end of a bulk abort (R277). -/
def endUnit (j : Job) : Nat := match j.limit with | some l => min l (unitsOf j) | none => unitsOf j

/-- Units up to the end of the burst that holds byte `b`. -/
def burstUnit (j : Job) (b : Nat) : Nat :=
  let e := (b / 4096 + 1) * 4096
  match j.desc.kind with | .reshape => e * 8 / groupBits j.shape | _ => e

/-- Units of the next transfer: up to 256 bytes, no 256-byte boundary crossed on either side, one element of a gather, whole
groups of a reshape; a bulk channel's transfer stays in its burst (R260, R277). (Log 19 DESIGN CHOICE.) -/
def nextTake (ch : Nat) (j : Job) : Nat :=
  let d := j.desc
  let left := endUnit j - j.pos
  let burst := if ch < 64 then left else
    let b := burstUnit j (doneBytes j j.pos) - j.pos
    if b = 0 then 1 else b
  let room (a : W64) : Nat := 256 - ((mvSplit a).2 + j.pos) % 256
  let n := match d.kind with
    | .copy => min (room d.src) (room d.dst)
    | .fill => room d.dst
    | .gather => d.esize - j.pos % d.esize
    | .reshape => max 1 (2048 / (j.shape.lanes * max j.shape.w (cwOf j.shape)))
  min (min n left) burst

/-- The pieces a transfer reads. (Log 19 DESIGN CHOICE.) -/
def readPieces (j : Job) : List Piece :=
  let d := j.desc
  match d.kind with
  | .copy => cutSpan d.srcSpace d.src j.pos j.take id
  | .fill => []
  | .gather => cutSpan d.srcSpace d.src (j.offset.getD 0 + j.pos % d.esize) j.take fun _ => j.pos / d.esize * d.esize
  | .reshape =>
    let h := j.shape
    if h.merge then
      (List.range 16).flatMap fun p =>
        let n := perGroup h p * cwOf h
        if n = 0 then [] else
        let a := j.pos * n / 8
        let b := ceilDiv ((j.pos + j.take) * n) 8
        cutSpan d.srcSpace (h.base.getD p 0) a (b - a) fun x => max j.pos (x * 8 / n)
    else
      let a := j.pos * groupBits h / 8
      let b := ceilDiv ((j.pos + j.take) * groupBits h) 8
      cutSpan d.srcSpace d.src a (b - a) fun x => max j.pos (x * 8 / groupBits h)

/-- The bytes read, in order, each with its poison. -/
def readBytes (l : List Piece) : List (Byte × Bool) := l.flatMap fun p => (slice p.bytes 0 p.len).map fun b => (b, p.poison)

/-- Distribute bytes over pieces. -/
def fillPieces : List Piece → List (Byte × Bool) → List Piece
  | [], _ => []
  | p :: ps, l =>
    let x := l.take p.len
    { p with bytes := x.map fun b => b.1, poison := x.any fun b => b.2 } :: fillPieces ps (l.drop p.len)

/-- What a reshape's units add: the packed stream of a merge, or the planes of a split, after `n` groups of the transfer. -/
def reshaped (j : Job) (n : Nat) : List (Bool × Bool) × List (List (Bool × Bool)) :=
  let h := j.shape
  if h.merge then
    let planes := (List.range 16).map fun p =>
      let m := perGroup h p * cwOf h
      let b := readBytes (j.reads.filter fun x => x.space == j.desc.srcSpace && m != 0 &&
        (mvSplit (h.base.getD p 0)).1 == (mvSplit x.addr).1 && (mvSplit (h.base.getD p 0)).2 ≤ (mvSplit x.addr).2 &&
        (mvSplit x.addr).2 < (mvSplit (h.base.getD p 0)).2 + planeBytes h (unitsOf j) p)
      (toBits false b).drop (j.pos * m % 8)
    (j.packBits ++ mergeGroups h n planes, [])
  else
    let bits := (toBits h.msbFirst (readBytes j.reads)).drop (j.pos * groupBits h % 8)
    ([], splitGroups h n bits j.planeBits)

/-- Free padding for the last bits of a byte that no element fills: the spec states no value (notes/assumptions/6.md).
(Log 6 DESIGN CHOICE.) -/
def padBits (s : State) (l : List (Bool × Bool)) : List (Bool × Bool) × State :=
  if l.length % 8 = 0 then (l, s)
  else let f := freeW s; (l ++ (List.range (8 - l.length % 8)).map fun i => (bit f.1 i, false), f.2)

/-- The destination pieces of a reshape: whole bytes, and the last part of a byte when nothing follows. What is left over
comes back with them. -/
def reshapeWrites (j : Job) (n : Nat) (final : Bool) (s : State) :
    List Piece × List (Bool × Bool) × List (List (Bool × Bool)) × State :=
  let h := j.shape
  let r := reshaped j n
  if h.merge then
    let f := if final then padBits s r.1 else (r.1, s)
    let k := f.1.length / 8
    let start := (j.pos * groupBits h - j.packBits.length) / 8
    let ps := cutSpan j.desc.dstSpace j.desc.dst start k fun x => max j.pos (x * 8 / groupBits h)
    (fillPieces ps (toBytes h.msbFirst k f.1), f.1.drop (8 * k), [], f.2)
  else
    let x := (List.range 16).foldl (fun (a : List Piece × List (List (Bool × Bool)) × State) p =>
      let l := r.2.getD p []
      let m := perGroup h p * cwOf h
      let f := if final then padBits a.2.2 l else (l, a.2.2)
      let k := f.1.length / 8
      let start := if m = 0 then 0 else (j.pos * m - (j.planeBits.getD p []).length) / 8
      let ps := if m = 0 then [] else cutSpan j.desc.dstSpace (h.base.getD p 0) start k fun y => max j.pos (y * 8 / m)
      (a.1 ++ fillPieces ps (toBytes false k f.1), a.2.1 ++ [f.1.drop (8 * k)], f.2)) ([], [], s)
    (x.1, [], x.2.1, x.2.2)

/-- Pattern byte `i` of a fill (R265). -/
def fillByte (d : Desc) (i : Nat) : Byte := BitVec.ofNat 8 (fld d.aux (8 * (i % 8)) 8)

/-- The destination pieces of `n` units of the present transfer. (Log 19 DESIGN CHOICE.) -/
def writePieces (j : Job) (n : Nat) (final : Bool) (s : State) :
    List Piece × List (Bool × Bool) × List (List (Bool × Bool)) × State :=
  let d := j.desc
  match d.kind with
  | .reshape => reshapeWrites j n final s
  | .fill =>
    (fillPieces (cutSpan d.dstSpace d.dst j.pos n id) ((List.range n).map fun i => (fillByte d (j.pos + i), false)), [], [], s)
  | .gather =>
    (fillPieces (cutSpan d.dstSpace d.dst j.pos n fun _ => j.pos / d.esize * d.esize) (readBytes j.reads), [], [], s)
  | .copy => (fillPieces (cutSpan d.dstSpace d.dst j.pos n id) (readBytes j.reads), [], [], s)

/-! ## Registers of a channel -/

/-- Change a channel's job. -/
def modJob (s : State) (ch : Nat) (f : Job → Job) : State := modMov s ch fun m => { m with job := m.job.map f }

/-- An address word with its address advanced. -/
def addrPlus (a : W64) (n : Nat) : W64 := a + BitVec.ofNat 64 n

/-- MOV_CH_SRC, MOV_CH_DST and MOV_CH_DONE at a position (Table MOV-6). (Log 44 DEDUCED.) -/
def syncRegs (s : State) (ch : Nat) : State :=
  modMov s ch fun m =>
    match m.job with
    | none => m
    | some j =>
      let d := j.desc
      let n := doneBytes j j.pos
      let packed := if j.shape.merge then d.dst else d.src
      { m with
        src := match d.kind with
          | .copy => addrPlus d.src n
          | .gather => addrPlus d.aux (4 * (j.pos / d.esize))
          | .reshape => if j.shape.merge then addrPlus (j.shape.base.getD 0 0) (j.pos * perGroup j.shape 0 * cwOf j.shape / 8)
                        else addrPlus packed n
          | .fill => 0
        dst := match d.kind with
          | .reshape => addrPlus packed n
          | _ => addrPlus d.dst n
        done := n }

/-- Stop a move with a cause at a piece (R272): a stop found later lies before the one found so far. -/
def stopAt (j : Job) (cause : Nat) (a : W64) : Job :=
  { j with stop := some cause, failAt := BitVec.ofNat 64 (a.toNat / 64 * 64) }

/-- Log a line refused to a mover (R202, R211): stopped part-way after the first line. -/
def mvRefuseLog (s : State) (j : Job) (q : Chk) : State :=
  let v := dklLine s q
  let left := ceilDiv (j.desc.len - doneBytes j j.pos) 64
  dklLog s (if j.pos = 0 then verdictKind v else 2) (if q.stw then none else some q.ten) q.space 114 (q.addr / 64) q.dst left

/-- The refused cut of pieces, with the log and the job's stop. -/
def cutChecked (s : State) (j : Job) (l : List Piece) (n cause : Nat) (r w : Bool) : Nat × Job × State :=
  let bad (p : Piece) : Bool := dklLine s (pieceChk j.desc p r w) != .pass
  match cutRefused bad n l with
  | (k, none) => (k, j, s)
  | (k, some p) => (k, stopAt j cause p.addr, mvRefuseLog s j (pieceChk j.desc p r w))

/-! ## Issuing -/

/-- The tenant a job's requests carry. -/
def jobTen (d : Desc) : Option Nat := if d.stw then none else some d.ten

/-- Issue one read piece: the program store answers at once. -/
def issueRead (s : State) (ch : Nat) (d : Desc) (i : Nat) (p : Piece) : State :=
  let a := (mvSplit p.addr).2
  let m : Msg := { op := if p.space = 1 then .ioRd else .uioRd, addr := a, len := p.len, dstPbr := (mvSplit p.addr).1 }
  match p.space with
  | 0 => enSend s (poolPkt (jobTen d) (.moveRd ch i) m d.prio)
  | 1 => enSend s (fabPkt s (jobTen d) (.moveRd ch i) m d.prio)
  | _ => toMove s ch i false (if psErr s a p.len then .ca else .data (psRead s a p.len) [] .i)

/-- Issue one write piece. A posted fabric write is accepted when issued; the flush awaits it (R262). -/
def issueWrite (s : State) (ch : Nat) (d : Desc) (i : Nat) (p : Piece) : State :=
  let a := (mvSplit p.addr).2
  let m : Msg := { op := if p.space = 1 then .ioWr else .uioWr, addr := a, len := p.len, data := p.bytes, poison := [p.poison],
                   dstPbr := (mvSplit p.addr).1 }
  match p.space with
  | 0 => enSend s (poolPkt (jobTen d) (.moveWr ch i) m d.prio)
  | 1 =>
    let k := fabPkt s (jobTen d) (.moveWr ch i) m d.prio
    if k.dest = .none then toMove s ch i true .ur else toMove (enSend s { k with org := .own }) ch i true .nothing
  | _ => toMove (psWrite s a p.bytes) ch i true (.done .i)

/-- Issue a list of pieces by index. (Log 19 DESIGN CHOICE.) -/
def issueAll (f : State → Nat → Piece → State) (l : List Piece) (s : State) : State :=
  ((List.range l.length).zip l).foldl (fun s x => f s x.1 x.2) s

/-- PBR IDs a list of pieces writes. -/
def pbrsOf (l : List Piece) : List Nat := (l.filter fun p => p.space == 1).map fun p => (mvSplit p.addr).1

/-- Count a data-mover event for its issuer's tenant (Table OBS-3). -/
def mvCount (s : State) (code ch : Nat) (d : Desc) (n : Nat) : State := if n = 0 then s else countEv s code ch (jobTen d) n

/-- The writes of the present transfer: what the reads gave up to the first bad piece, checked at the destination, issued.
With nothing to write the move goes on, or ends, at once. -/
def startWrites (ch : Nat) (s : State) : State :=
  match (getMov s ch).job with
  | none => s
  | some j =>
    let e := j.pos + j.take
    let bad (p : Piece) : Bool := p.fail || (p.poison && j.desc.psnStop)
    let c := cutRefused bad (min e (endUnit j)) j.reads
    let j := match c.2 with
      | some p => stopAt j (if p.fail then 3 else 7) p.addr
      | none => j
    let n := c.1 - j.pos
    let final := j.stop.isSome || c.1 == unitsOf j
    let w := writePieces j n final s
    let k := cutChecked w.2.2.2 j w.1 c.1 2 false true
    let j := k.2.1
    let n' := k.1 - j.pos
    let w' := if n' = n then (w.1, w.2.1, w.2.2.1, k.2.2) else writePieces j n' true k.2.2
    let ps := w'.1.filter fun p => dklLine w'.2.2.2 (pieceChk j.desc p false true) == .pass
    let psn := (ps.filter fun p => p.poison).length
    let j' := { j with phase := .write, take := n', writes := ps, packBits := w'.2.1, planeBits := w'.2.2.1,
                       wrote := (j.wrote ++ pbrsOf ps).eraseDups }
    let s := modMov w'.2.2.2 ch fun m =>
      { m with job := some j', poison := satAdd (2 ^ 32 - 1) m.poison psn, poisonSeen := m.poisonSeen || psn != 0 }
    let rd := sumBy (fun p => if p.fail then 0 else p.len) j.reads
    issueAll (fun s i p => issueWrite s ch j.desc i p) ps (mvCount s 0x5000 ch j.desc rd)

/-- The transfer's writes are accepted: the move's position moves on, or stops at the first failed write (cause 0x4). -/
def endTransfer (ch : Nat) (s : State) : State :=
  let s := match (getMov s ch).job with
    | some j =>
      let s := mvCount s 0x5001 ch j.desc (sumBy (fun p => if p.fail then 0 else p.len) j.writes)
      if j.desc.kind = .reshape then mvCount s 0x5004 ch j.desc (doneBytes j (j.pos + j.take) - doneBytes j j.pos) else s
    | none => s
  let s := modJob s ch fun j =>
    let c := cutRefused (fun p => p.fail) (j.pos + j.take) j.writes
    let j := match c.2 with | some p => stopAt { j with packBits := [], planeBits := [] } 4 p.addr | none => j
    let p := match j.desc.kind with | .gather => if c.1 = unitsOf j || j.limit.isSome then c.1 else c.1 / j.desc.esize * j.desc.esize | _ => c.1
    { j with phase := .next, pos := p, take := 0, reads := [], writes := [], offset := none }
  syncRegs s ch

/-- The sheet of a line being refreshed is filling (R264). -/
def fillingAt (s : State) (ten : Option Nat) (a : Nat) : Bool :=
  match poolAddr s ten a with
  | some pa => shMst (getSheet s (pa / 2 ^ 28)) == 1
  | none => false

/-- A transfer of a refresh: its lines, checked for r and w, each refreshed at the home (R264). -/
def refreshTransfer (ch : Nat) (j : Job) (s : State) : State :=
  let d := j.desc
  let l := cutSpan 0 d.src j.pos j.take id
  let r := cutChecked s j l (j.pos + j.take) 1 true false
  let w := cutChecked r.2.2 r.2.1 l r.1 2 false true
  let f := cutRefused (fun p => !fillingAt w.2.2 (jobTen d) (mvSplit p.addr).2) w.1 l
  let j := match f.2 with
    | some p => stopAt w.2.1 6 p.addr
    | none => w.2.1
  let ps := l.filter fun p => p.pos < f.1
  let j' := { j with phase := .write, take := f.1 - j.pos, writes := ps }
  let m (p : Piece) : Msg := { op := .refresh, addr := (mvSplit p.addr).2 / 64 * 64, len := 64 }
  issueAll (fun s i p => enSend s (poolPkt (jobTen d) (.moveRefresh ch i) (m p) d.prio)) ps
    (modMov w.2.2 ch fun x => { x with job := some j' })

/-- Start the reads of the next transfer. -/
def startReads (ch : Nat) (j : Job) (s : State) : State :=
  let l := readPieces j
  let c := cutChecked s j l (j.pos + j.take) 1 true false
  let ps := l.filter fun p => p.pos < c.1
  let j' := { c.2.1 with phase := .read, take := c.1 - j.pos, reads := ps }
  issueAll (fun s i p => issueRead s ch j.desc i p) ps (modMov c.2.2 ch fun x => { x with job := some j' })

/-- Read the index entry of the next gather element (R266); a bad line stops the move with cause 0x5. -/
def startIndex (ch : Nat) (j : Job) (s : State) : State :=
  let d := j.desc
  let l := cutSpan d.auxSpace d.aux (4 * (j.pos / d.esize)) 4 fun _ => j.pos
  let c := cutChecked s j l (j.pos + j.take) 5 true false
  if c.1 = j.pos then modMov c.2.2 ch fun x => { x with job := some { c.2.1 with phase := .next } }
  else issueAll (fun s i p => issueRead s ch d i p) l (modMov c.2.2 ch fun x => { x with job := some { j with phase := .index, reads := l } })

/-- The index entry is read: the element's reads follow; one beyond its space stops the move with cause 0x1. -/
def endIndex (ch : Nat) (j : Job) (s : State) : State :=
  let d := j.desc
  match j.reads.find? fun p => p.fail || p.poison with
  | some p => modMov s ch fun x => { x with job := some { stopAt j 5 p.addr with phase := .next, reads := [] } }
  | none =>
    let o := leNat ((readBytes j.reads).map fun b => b.1) * 2 ^ d.shift
    let a := addrPlus d.src o
    if spaceSize d.srcSpace < (mvSplit d.src).2 + o + d.esize then
      modMov s ch fun x => { x with job := some { stopAt j 1 a with phase := .next, reads := [] } }
    else startReads ch { j with offset := some o, reads := [] } s

/-- The move is over but for its flush: one zero-length read to each PBR ID written (R262). -/
def startFlush (ch : Nat) (j : Job) (s : State) : State :=
  let s := modMov s ch fun x => { x with st := if x.st == .running then .running else .stopping
                                         job := some { j with phase := .flush, flush := j.wrote } }
  j.wrote.foldl (fun s pbr =>
    let k := fabPkt s (jobTen j.desc) (.moveFlush ch) { op := .ioRd, addr := 0, len := 0, dstPbr := pbr } j.desc.prio
    if k.dest = .none then toFlush s ch else enSend s k) s

/-- The leftover bits of whole groups are written when a move stops between transfers (R273). -/
def leftover (j : Job) : Bool := !j.packBits.isEmpty || j.planeBits.any fun l => !l.isEmpty

/-- The next step of a channel between transfers: pause, stop, end, or the next transfer. -/
def nextStep (ch : Nat) (s : State) : State :=
  match (getMov s ch).job with
  | none => s
  | some j =>
    let ended := j.stop.isSome || endUnit j ≤ j.pos || j.abort && j.limit.isNone
    if j.pause then
      modMov s ch fun m => { m with st := .paused, job := some { j with pause := false } }
    else if ended then
      if leftover j && j.stop != some 4 then startWrites ch (modMov s ch fun m => { m with job := some { j with take := 0, reads := [], stop := some (j.stop.getD 0) } })
      else startFlush ch j s
    else
      let j := { j with take := nextTake ch j }
      match j.desc.kind with
      | .fill => startWrites ch (modMov s ch fun m => { m with job := some { j with reads := [] } })
      | .gather => startIndex ch j s
      | .copy => if j.desc.refresh then refreshTransfer ch j s else startReads ch j s
      | .reshape => startReads ch j s

/-- A channel has a step it can make now. -/
def mvReady (m : Mover) : Bool :=
  (m.st == .running || m.st == .stopping) &&
    match m.job with
    | none => false
    | some j => match j.phase with
      | .next => true
      | .index | .read => j.reads.all fun p => p.done
      | .write => j.writes.all fun p => p.done
      | .flush => false

/-- The channel's step. (Log 19 DESIGN CHOICE.) -/
def mvStep (ch : Nat) (s : State) : State :=
  match (getMov s ch).job with
  | none => s
  | some j => match j.phase with
    | .next => nextStep ch s
    | .index => endIndex ch j s
    | .read => startWrites ch s
    | .write => nextStep ch (endTransfer ch s)
    | .flush => s

/-! ## The rotation (R261, R399) -/

/-- Transfers bulk channels may have in every 8 (Table MOV-7). -/
def bulkShare (s : State) : Nat := if s.mov.bulkShare = 0 then 1 else s.mov.bulkShare

/-- Whether any channel of a range is ready. -/
def anyReady (s : State) (lo hi : Nat) : Bool := s.mov.ch.any fun e => lo ≤ e.1 && e.1 < hi && mvReady e.2

/-- The channel the client serves next. -/
def mvPick (s : State) : Option Nat :=
  let bulkOk := !anyReady s 0 64 || s.mov.bulkUsed < bulkShare s
  firstFrom 72 (s.mov.turn + 1) fun c => mvReady (getMov s c) && (c < 64 || bulkOk)

/-- Take the turn: the rotation and the count of the present eight. -/
def takeMvTurn (s : State) (ch : Nat) : State :=
  let m := s.mov
  let w := (m.window + 1) % 8
  { s with mov := { m with turn := ch, window := w, bulkUsed := if w = 0 then 0 else m.bulkUsed + (if 64 ≤ ch then 1 else 0) } }

/-- The throttle of a channel's class (R399): class 2 bulk, class 3 standard. -/
def mvClass (ch : Nat) : Nat := if ch < 64 then 3 else 2

/-- MOVE_TRANSFER. -/
def moveTransfer (ch : Nat) (s : State) : State :=
  if mvPick s != some ch then s else
  let k := mvClass ch
  let n := tget 0 s.mov.opp k
  let s := takeMvTurn { s with mov := { s.mov with opp := tput 0 s.mov.opp k ((n + 1) % 8) } } ch
  if 8 - tget 0 s.pwr.level k ≤ n then s else mvStep ch s

/-! ## The end of a move -/

/-- The record and the event of an ended move (R227, R262); discarded while its owner is in reset (R305). -/
def mvRecord (s : State) (c : Nat) (d : Desc) (status : Nat) : State :=
  if (getCtx s c).st == .inReset then s else
  let s := if d.cr then
      postRec s c { status := status, opcode := d.opcode, source := d.source, entry := d.entry, result := now s, irq := d.irq }
    else s
  evLatch s c 14

/-- The status write-back to word 7, checked with w (R262). -/
def mvWriteBack (s : State) (ch : Nat) (d : Desc) : State :=
  let a := d.addr.toNat + 56
  let q : Chk := { space := d.addrSpace, addr := a, stw := d.stw, ten := d.ten, w := true }
  let b := natLe 8 (mvStatus (getMov s ch)).toNat
  if !d.wb then s
  else if dklLine s q != .pass then dklRefuse s q (dklLine s q) 114 1
  else if d.addrSpace = 2 then psWrite s a b
  else enSend s (poolPkt (jobTen d) .own { op := .uioWr, addr := a, len := 8, data := b } d.prio)

/-- The status of an ended move: OK, RESIDUE, ABORTED. -/
def endStatus (j : Job) : Nat := if j.abort then 5 else if j.stop.isSome then 4 else 0

/-- The move ends: status word, write-back, record, event. -/
def finishMove (s : State) (ch : Nat) (j : Job) (status cause : Nat) (wb : Bool) : State :=
  let n := doneBytes j j.pos
  let owner := (getMov s ch).owner
  let s := modMov s ch fun m =>
    { m with st := .idle, last := status, cause := cause, residue := if status = 0 then 0 else BitVec.ofNat 32 (j.desc.len - n)
             fail := if j.failAt = 0 then m.fail else j.failAt, done := n, job := none }
  let s := mvCount s 0x5002 ch j.desc 1
  let s := if status = 4 then mvCount s 0x5003 ch j.desc 1 else s
  let s := if wb then mvWriteBack s ch j.desc else s
  mvRecord s owner j.desc status

/-- MOVE_END. -/
def moveEnd (ch : Nat) (s : State) : State :=
  match (getMov s ch).job with
  | some j => if j.phase == .flush && j.flush.isEmpty then finishMove s ch j (endStatus j) (if j.abort then 0 else j.stop.getD 0) true else s
  | none => s

/-- Drop what a channel has in the core and at the home: answers to it are no longer awaited. -/
def dropMoves (s : State) (ch : Nat) : State :=
  let mine (p : Pkt) : Bool := match p.org with
    | .moveRd c _ | .moveWr c _ | .moveRefresh c _ | .moveFlush c => c == ch
    | _ => false
  let f (p : Pkt) : Pkt := if mine p then { p with org := .own } else p
  let g (o : Open) : Open := { o with pkt := f o.pkt }
  let t (x : Txn) : Txn := { x with req := x.req.map f, chain := x.chain.map f }
  { s with core := { s.core with pkts := s.core.pkts.map f, opens := s.core.opens.map g
                                 gathers := s.core.gathers.map fun x => { x with pkt := f x.pkt } }
           home := { s.home with queue := s.home.queue.map f, txns := s.home.txns.map t } }

/-- A reset of a channel ends its move with cause 0x8 (R277): a RESIDUE record without write-back. -/
def resetMove (s : State) (ch : Nat) : State :=
  match (getMov s ch).job with
  | some j => finishMove (dropMoves s ch) ch j 4 8 false
  | none => s

/-! ## The instructions -/

/-- Whether a channel is in reset or held (R236: ABSENT). -/
def mvAbsent (s : State) (ch : Nat) : Bool := (getMov s ch).st == .inReset || (getMov s ch).rst != .run

/-- The channel an instruction names. -/
def mvChan (w : Ox) : Nat := fld w.imm 0 7

/-- Whether a channel is owned by another context. -/
def mvOther (m : Mover) (c : Nat) : Bool := m.owner != 0x1F && m.owner != c

/-- The outcome of steps 5 to 9 of Table MOV-3: a status to retire or fault with, or the job. -/
inductive MvCheck where
  | fault (st : Nat) | retire (st : Nat) | ok (j : Job)
deriving DecidableEq, Repr

/-- Kind-specific rules of step 7 that need no shape table. -/
def kindRules (d : Desc) (refresh : Bool) : Bool :=
  match d.kind with
  | .copy =>
    if refresh then d.srcSpace == 0 && d.dstSpace == 0 && d.src == d.dst
    else !(d.srcSpace == d.dstSpace && fld d.src 52 12 == fld d.dst 52 12 && d.src.toNat < d.dst.toNat && d.dst.toNat < d.src.toNat + d.len)
  | .gather => d.len % d.esize == 0 && d.len / d.esize ≤ 2 ^ 24 && d.shift ≤ 8
  | _ => true

/-- Steps 5 to 9. -/
def mvChecks (s : State) (ch : Nat) (k : MvKind) (b : List Byte) (d : Desc) : MvCheck × State :=
  let adm (space : Nat) (a : W64) (n : Nat) : Bool := n == 0 || spanAdmitted s d.stw d.ten space a n
  if !descOk k b then (.fault 0x11, s)
  else if d.len = 0 then (.retire 1, s)
  else if mvLimit ch < d.len || !kindRules d d.refresh then (.fault 0x11, s)
  else match k with
    | .reshape =>
      if (mvSplit d.aux).2 % 64 != 0 then (.fault 0x15, s) else
      let q : Chk := { space := d.auxSpace, addr := (mvSplit d.aux).2, stw := d.stw, ten := d.ten,
                       dst := if d.auxSpace = 1 then (mvSplit d.aux).1 else 0, r := true }
      if !spanOk s q 256 then (.fault 0x14, s) else
      match peekSpan s (jobTen d) d.auxSpace (mvSplit d.aux).2 256 with
      | (none, s) => (.fault 0x14, s)
      | (some t, s) =>
        let h := parseShape t
        if !shapeRules d h t then (.fault 0x11, s)
        else
          let ok := if h.merge then adm d.dstSpace d.dst d.len
            else (List.range 16).all fun p => adm d.dstSpace (h.base.getD p 0) (planeBytes h (groupsOf h d.len) p)
          if ok then (.ok { desc := d, shape := h, planeBits := List.replicate 16 [] }, s) else (.fault 0x14, s)
    | .gather =>
      if (mvSplit d.aux).2 % 4 != 0 then (.fault 0x15, s)
      else if adm d.dstSpace d.dst d.len then (.ok { desc := d }, s) else (.fault 0x14, s)
    | _ => if adm d.dstSpace d.dst d.len then (.ok { desc := d }, s) else (.fault 0x14, s)

/-- Start the move on its channel: the issuer owns it (R250). -/
def startMove (s : State) (c ch : Nat) (j : Job) : State :=
  let d := j.desc
  let s := modMov s ch fun m =>
    { m with st := .running, owner := c, cause := 0, poisonSeen := false, kind := kindCodeOf d.kind, residue := 0, len := d.len
             desc := pack64 [(62, d.addrSpace), (0, d.addr.toNat % 2 ^ 62)], fail := 0, poison := 0, job := some j }
  syncRegs s ch

/-- COPY, GATHER, RESHAPE, FILL (R249, R258). -/
def moveRun (c op : Nat) (w : Ox) (k : MvKind) (s : State) : State :=
  let ch := mvChan w
  let space := fld w.mod 3 2
  let rf := bit w.mod 0
  let a := w.B.toNat
  oxRun c op w { mods := if k = .copy then 0x19 else 0x18, imm := 0x7F, B := 2 ^ 64 - 1 }
    (fun _ _ => [(71 < ch, 0x11), (space == 1 || space == 3, 0x11), (rf && !isStw c, 0x12), (a % 64 != 0, 0x15)])
    (fun s x =>
      let q : Chk := { ctxChk c space a 0 with r := true }
      if dklLine s q != .pass then accessFault s c op q else
      match peekSpan s (tenOf c) space a 64 with
      | (none, s) => faultCtx s c op 0x14
      | (some b, s) =>
        let m := getMov s ch
        if mvAbsent s ch then retireSt s c op w 7
        else if mvOther m c || m.st == .paused then retireSt s c op w 2
        else if m.st != .idle then waitAgain s c
        else
          let d := { parseDesc k b with
            refresh := rf, stw := isStw c, ten := c - 2, addr := w.B, addrSpace := space, cr := bit w.mod 7, irq := bit w.mod 6,
            source := (recSrc x).1, entry := (recSrc x).2, opcode := BitVec.ofNat 8 op }
          match mvChecks s ch k b d with
          | (.fault st, s) => faultCtx s c op st
          | (.retire st, s) => retireSt s c op w st
          | (.ok j, s) => retireSt (startMove s c ch j) c op { w with mod := w.mod &&& 0x3F } 0) s

/-- COPY. -/
def execCopy (c : Nat) (w : Ox) (s : State) : Res := unitOk (c < 18) (moveRun c 0x60 w .copy s)
/-- GATHER. -/
def execGather (c : Nat) (w : Ox) (s : State) : Res := unitOk (c < 18) (moveRun c 0x61 w .gather s)
/-- RESHAPE. -/
def execReshape (c : Nat) (w : Ox) (s : State) : Res := unitOk (c < 18) (moveRun c 0x62 w .reshape s)
/-- FILL. -/
def execFill (c : Nat) (w : Ox) (s : State) : Res := unitOk (c < 18) (moveRun c 0x63 w .fill s)

/-- MVSTAT (R250). -/
def execMvstat (c : Nat) (w : Ox) (s : State) : Res :=
  let ch := mvChan w
  unitOk (c < 18) (oxRun c 0x64 w { mods := 1, d := true, imm := 0x7F } (fun _ _ => [(71 < ch, 0x11)])
    (fun s _ =>
      let m := getMov s ch
      if mvAbsent s ch then retireSt s c 0x64 w 7
      else if mvOther m c || (bit w.mod 0 && m.st != .idle) then retireSt s c 0x64 w 2
      else retireK (if bit w.mod 0 then modMov s ch fun m => { m with owner := 0x1F } else s) c 0x64 w w.d (mvStatus m)) s)

/-- A stop request reaches a running channel. -/
def askStop (s : State) (ch : Nat) (f : Job → Job) : State :=
  modMov s ch fun m => { m with st := .stopping, job := m.job.map f }

/-- MVPAUSE (R275). -/
def execMvpause (c : Nat) (w : Ox) (s : State) : Res :=
  let ch := mvChan w
  unitOk (c < 18) (oxRun c 0x65 w { imm := 0x7F } (fun _ _ => [(63 < ch, 0x11)])
    (fun s _ =>
      let m := getMov s ch
      if mvAbsent s ch then retireSt s c 0x65 w 7
      else if mvOther m c then retireSt s c 0x65 w 2
      else match m.st, m.job with
        | .running, some j =>
          if j.phase == .flush then waitAgain s c
          else waitAgain (askStop s ch fun j => { j with pause := true }) c
        | .stopping, _ => waitAgain s c
        | _, _ => retireSt s c 0x65 w 0) s)

/-- The unit a bulk abort ends at (R277). -/
def abortLimit (j : Job) : Nat :=
  if j.phase == .write then
    let b := doneBytes j (j.pos + j.take)
    if b % 4096 = 0 then j.pos + j.take else max (j.pos + j.take) (burstUnit j b)
  else burstUnit j (doneBytes j j.pos)

/-- MVABORT (R277). -/
def execMvabort (c : Nat) (w : Ox) (s : State) : Res :=
  let ch := mvChan w
  unitOk (c < 18) (oxRun c 0x66 w { imm := 0x7F } (fun _ _ => [(71 < ch, 0x11)])
    (fun s _ =>
      let m := getMov s ch
      if mvAbsent s ch then retireSt s c 0x66 w 7
      else if mvOther m c then retireSt s c 0x66 w 2
      else match m.st, m.job with
        | .paused, some _ => waitAgain (askStop s ch fun j => { j with abort := true, pause := false }) c
        | .running, some j =>
          if j.phase == .flush then waitAgain s c
          else if ch < 64 then waitAgain (askStop s ch fun j => { j with abort := true }) c
          else waitAgain (askStop s ch fun j => { j with abort := true, limit := some (abortLimit j) }) c
        | .stopping, _ => waitAgain s c
        | _, _ => retireSt s c 0x66 w 0) s)

/-- MVRESUME (R276). -/
def execMvresume (c : Nat) (w : Ox) (s : State) : Res :=
  let ch := mvChan w
  unitOk (c < 18) (oxRun c 0x67 w { imm := 0x7F } (fun _ _ => [(63 < ch, 0x11)])
    (fun s _ =>
      let m := getMov s ch
      if mvAbsent s ch then retireSt s c 0x67 w 7
      else if mvOther m c || m.st != .paused then retireSt s c 0x67 w 2
      else retireSt (modMov s ch fun m => { m with st := .running }) c 0x67 w 0) s)

/-- MOVE_TRANSFER (R260, R261). -/
def execMoveTransfer (ch : Nat) (s : State) : Res := unitOk (ch < 72) (moveTransfer ch s)
/-- MOVE_END (R262). (Log 15 DESIGN CHOICE.) -/
def execMoveEnd (ch : Nat) (s : State) : Res := unitOk (ch < 72) (moveEnd ch s)

end Sys2Proof.Machine
end

