-- ==== Sys2Proof/Machine/Fabric.lean ====
section
/-!
DEFINITION. Effects and checks of BIND, UNBIND, ROUTE, MCAST, DECKLE, SHEET and MIRROR (Tables OXI-5 to OXI-10), as functions
a direct instruction and a take item share.
-/

namespace Sys2Proof.Machine

/-- An applied operation: its status, the value for kd, and the state. A status other than OK leaves the state, apart from
a log entry. -/
structure Fab where
  st : Nat
  kd : W64 := 0
  s : State
deriving DecidableEq, Repr

/-- OK. -/
def fabOk (s : State) : Fab := { st := 0, s := s }
/-- CLAIMED or ABSENT. -/
def fabNo (st : Nat) (s : State) : Fab := { st := st, s := s }

/-- A lead port of the device (R14, R236). -/
def leadIdx (s : State) (p : Nat) : Bool := leadPort s p

/-! ## BIND and UNBIND -/

/-- The operands of a BIND or UNBIND. -/
structure BindArg where
  ten : Nat
  v : Nat
  kind : Nat
  port : Nat
  ld : Nat
  pbr : Nat
deriving DecidableEq, Repr

/-- Operands from imm32 and word B (Table OXI-5). -/
def bindArg (imm : W32) (B : W64) : BindArg :=
  { ten := fld imm 0 4, v := fld imm 4 6, kind := fld imm 12 3, port := fld B 0 7, ld := fld B 16 4, pbr := fld B 32 12 }

/-- Kind and vPPB number agree. -/
def bindShape (a : BindArg) : Bool :=
  match a.kind with
  | 0 => a.v == 0
  | 4 => a.v == 0
  | 1 | 2 | 3 => a.v != 0
  | _ => false

/-- Bits of word B a BIND of a kind defines. -/
def bindMask (kind : Nat) : Nat := match kind with | 0 | 1 => 0x7F | 2 => 0xF007F | _ => 0xFFF00000000

/-- A port of a tenant's own: an edge port with its tenant (R244). -/
def ownPort (s : State) (t p : Nat) : Bool := portTen (getPort s p) == some t

/-- Decode checks of BIND: OPERAND, then SCOPE (R236, R244). (Log 45 DEDUCED.) -/
def bindChk (s : State) (c : Nat) (a : BindArg) (imm : W32) (B : W64) : List (Bool × Nat) :=
  [(!bindShape a, 0x11), (!within imm.toNat 0x73FF, 0x11), (!within B.toNat (bindMask a.kind), 0x11),
   (a.kind < 3 && !leadIdx s a.port, 0x11), (a.kind == 2 && a.ld == 0xF, 0x12),
   (!isStw c && (a.kind != 1 || a.ten + 2 != c || !ownPort s a.ten a.port), 0x12)]

/-- vPPBs in use: a pool vPPB for each tenant, and every bound vPPB (R54). -/
def vppbsUsed (s : State) : Nat :=
  sumBy (fun e => (if e.2.exist then 1 else 0) + (e.2.vppb.filter fun v => v.2.bind != .none).length) s.ten

/-- Whether what stands behind a port fits a kind. -/
def devFits (x : Port) (a : BindArg) : Bool :=
  match a.kind, x.dev with
  | 0, _ => roleOf x == 1
  | 1, .type1 | 1, .type2 | 1, .type3 | 1, .pcieEndpoint | 1, .pcieSwitch => roleOf x == 2
  | 2, .mld n => roleOf x == 2 && a.ld < n
  | _, _ => false

/-- A CXL.cache device. -/
def cacheDev (x : Port) : Bool := x.dev == .type1 || x.dev == .type2

/-- A second CXL.cache device that the host's root port does not take (R57). -/
def secondCache (s : State) (a : BindArg) : Bool :=
  let other := (getTen s a.ten).vppb.any fun v => match v.2.bind with | .dev p => cacheDev (getPort s p) | _ => false
  let multi := match hostPort s a.ten with | some p => (getPort s p).multiCache | none => false
  a.kind == 1 && cacheDev (getPort s a.port) && other && !multi

/-- The sharer a BIND registers: port and PBR ID (R170). (Log 45 DEDUCED.) -/
def bindSharer (s : State) (a : BindArg) : Option (Nat × Nat) :=
  if a.kind = 0 then if biPort s a.port then some (a.port, cfgPbr (getPort s a.port)) else none
  else if a.kind = 4 then
    let h := hopPbr s 108 a.ten { op := .memRd .data, dstPbr := a.pbr }
    match h.dest with
    | .port p => if biPort s p && roleOf (getPort s p) == 3 then some (p, a.pbr) else none
    | _ => none
  else none

/-- The first free sharer index of a tenant. (Log 45 DEDUCED.) -/
def freeSharer (s : State) (t : Nat) : Option Nat := (List.range 128).find? fun i => !(tget {} (getTen s t).sharer i).valid

/-- A sharer of the tenant with a PBR ID. -/
def sharerPbr (s : State) (t pbr : Nat) : Option Nat :=
  ((getTen s t).sharer.find? fun e => e.2.valid && e.2.pbr == pbr).map fun e => e.1

/-- What a BIND makes of its vPPB. -/
def bindOf (a : BindArg) : Bind :=
  match a.kind with | 0 => .host a.port | 1 => .dev a.port | 2 => .ld a.port a.ld | 3 => .remote a.pbr | _ => .none

/-- BIND (Table OXI-5). (Log 45 DEDUCED.) -/
def bindDo (s : State) (a : BindArg) : Fab :=
  let t := getTen s a.ten
  if !t.exist then fabNo 7 s else
  let x := getPort s a.port
  let reg := bindSharer s a
  let idx := freeSharer s a.ten
  let claimed :=
    (a.kind != 4 && (getVppb s a.ten a.v).bind != .none) || (a.kind != 4 && 256 ≤ vppbsUsed s) || secondCache s a ||
      (reg.isSome && idx.isNone) || (a.kind == 4 && (sharerPbr s a.ten a.pbr).isSome) ||
      (a.kind < 2 && isEdge x && cfgTen x != a.ten) || (a.kind < 3 && !devFits x a)
  if claimed then fabNo 2 s else
  let s := if a.kind = 4 then s else modVppb s a.ten a.v fun v => { v with bind := bindOf a }
  match reg, idx with
  | some (p, pbr), some i =>
    { st := 0, kd := pack64 [(8, a.v), (0, i)],
      s := modTen s a.ten fun t => { t with sharer := tput {} t.sharer i { valid := true, port := p, pbr := pbr } } }
  | _, _ => { st := 0, kd := pack64 [(8, a.v), (0, 0x7F)], s := s }

/-- Decode checks of UNBIND. -/
def unbindChk (_s : State) (c : Nat) (a : BindArg) (imm : W32) (B : W64) : List (Bool × Nat) :=
  [(!bindShape a, 0x11), (!within imm.toNat 0x73FF, 0x11), (!within B.toNat (if a.kind = 4 then 0x7F else 0), 0x11),
   (!isStw c && (a.kind != 1 || a.ten + 2 != c), 0x12)]

/-- The kind of a binding. -/
def bindKind : Bind → Option Nat
  | .none => none | .host _ => some 0 | .dev _ => some 1 | .ld _ _ => some 2 | .remote _ => some 3

/-- A sharer cannot be removed while an entry points at it or the tenant has entries in O (R170). -/
def sharerHeld (s : State) (t i : Nat) : Bool :=
  s.home.dir.any fun e => e.2.valid && e.2.tenant == t && (e.2.st == .o || e.2.ptrs.contains i)

/-- Fabric deckles of a tenant toward a PBR ID (R199). -/
def fabDeckles (s : State) (t pbr : Nat) : List Nat :=
  (s.dkl.tab.filter fun e => e.2.valid && !e.2.stw && e.2.ten == t && e.2.space == 1 && e.2.dst == pbr).map fun e => e.1

/-- Zero deckle entries. -/
def clearDeckles (s : State) (l : List Nat) : State :=
  { s with dkl := { s.dkl with tab := l.foldl tdel s.dkl.tab } }

/-- UNBIND (Table OXI-5, R170, R199). -/
def unbindDo (s : State) (a : BindArg) : Fab :=
  let t := getTen s a.ten
  if !t.exist then fabNo 7 s else
  if a.kind = 4 then
    if !(tget {} t.sharer a.port).valid || sharerHeld s a.ten a.port then fabNo 2 s
    else fabOk (modTen s a.ten fun t => { t with sharer := tdel t.sharer a.port })
  else
    let b := (getVppb s a.ten a.v).bind
    if bindKind b != some a.kind then fabNo 2 s else
    let pbr := (bindPbr s b).getD 4096
    let shr := match b with
      | .host p => ((t.sharer.find? fun e => e.2.valid && e.2.port == p && e.2.pbr == pbr).map fun e => e.1)
      | _ => none
    let dk := fabDeckles s a.ten pbr
    if (shr.any fun i => sharerHeld s a.ten i) || (dk.any fun i => (getDkl s i).locked) then fabNo 2 s else
    let s := clearDeckles (modVppb s a.ten a.v fun v => { v with bind := .none }) dk
    fabOk (match shr with | some i => modTen s a.ten fun t => { t with sharer := tdel t.sharer i } | none => s)

/-! ## ROUTE -/

/-- A legal route image (Table OXI-6): no reserved bit; a valid one names a defined kind and, for kind 1, a lead port. -/
def routeImageOk (s : State) (v : W32) : Bool :=
  within v.toNat 0xF3FF3F7F && (!bit v 31 || (1 ≤ fld v 28 3 && fld v 28 3 ≤ 5 && (fld v 28 3 != 1 || leadIdx s (fld v 0 7))))

/-- Member `i` of a member list. -/
def memberOf (B : W64) (i : Nat) : Nat := fld B (7 * i) 7

/-- The 192-bit vector of buckets. -/
def bucketAt (B ka kb : W64) (i : Nat) : Nat :=
  (B.toNat + ka.toNat * 2 ^ 64 + kb.toNat * 2 ^ 128) / 2 ^ (3 * i) % 8

/-- Decode checks of ROUTE by op. -/
def routeChk (s : State) (c : Nat) (imm : W32) (B : W64) : List (Bool × Nat) :=
  let op := fld imm 28 4
  let own : List (Bool × Nat) := match op with
    | 0 => [(!within B.toNat 0xFFFFFFFF, 0x11), (fld imm 0 12 == 0, 0x11), (!routeImageOk s (lo32 B), 0x11), (!within imm.toNat 0x0FFF0FFF, 0x11)]
    | 1 => [(8 < fld B 56 4, 0x11), (!within B.toNat 0x0FFFFFFFFFFFFFFF, 0x11), (!within imm.toNat 0x103F0000, 0x11),
            ((List.range (fld B 56 4)).any (fun i => !leadIdx s (memberOf B i)), 0x11)]
    | 2 => [(!within imm.toNat 0x203F0000, 0x11)]
    | 3 => [(!within B.toNat 0xFFFFFFFF, 0x11), (!within imm.toNat 0x30000000, 0x11)]
    | 4 => [(!within B.toNat 0x8000003F, 0x11), (!within imm.toNat 0x40000000, 0x11)]
    | 5 => [(11 < fld imm 0 4, 0x11), (!within imm.toNat 0x5FFF000F, 0x11), (B != 0, 0x11)]
    | _ => [(true, 0x11)]
  own ++ [(!isStw c, 0x12)]

/-- Raise the re-pinning fence of a group: messages admitted after it wait for those before it (R85). (Log 46 DEDUCED.) -/
def ecmpFence (s : State) (g : Nat) : State :=
  let old := (s.core.pkts.filter fun p => p.ecmp == some g && (inBuf p || p.stage == .egress)).map fun p => p.id
  let q := quireOf ((getEcmp s g).members.headD 0)
  quireCount (modEcmp s g fun e => { e with fence := !old.isEmpty, stale := old }) q 1 none 1

/-- ROUTE (Table OXI-6). -/
def routeDo (s : State) (imm : W32) (B ka kb : W64) : Fab :=
  let g := fld imm 16 6
  match fld imm 28 4 with
  | 0 =>
    let id := fld imm 16 12
    fabOk (forL ((List.range 12).filter fun q => bit imm q) s fun s q =>
      modQuire s q fun x => { x with route := tput 0 x.route id (lo32 B) })
  | 1 =>
    let ms := (List.range (fld B 56 4)).map (memberOf B)
    if ms.any fun p => !(roleOf (getPort s p) == 3 || roleOf (getPort s p) == 4) then fabNo 2 s
    else fabOk (modEcmp s g fun e => { e with members := ms })
  | 2 =>
    let bs := (List.range 64).map (bucketAt B ka kb)
    if bs.any fun b => (getEcmp s g).members.length ≤ b then fabNo 2 s
    else fabOk (ecmpFence (modEcmp s g fun e => { e with buckets := bs }) g)
  | 3 => fabOk (forL (List.range 64) { s with core := { s.core with hashSeed := lo32 B } } ecmpFence)
  | 4 => fabOk (forL (List.range 64) { s with core := { s.core with hashAddrEn := bit B 31, hashShift := fld B 0 6 } } ecmpFence)
  | _ => { st := 0, kd := (routeOf s (fld imm 0 4) (fld imm 16 12)).setWidth 64, s := s }

/-! ## MCAST -/

/-- Header fields (Table CORE-13). -/
def rgValid (h : W64) : Bool := bit h 63
/-- A multicast group of a virtual switch. -/
def rgKind1 (h : W64) : Bool := bit h 62
/-- Owner of a group. (Log 46 DEDUCED.) -/
def rgTen (h : W64) : Nat := fld h 48 4

/-- Whether a PBR ID is that of a vPPB bound in a tenant's virtual switch (R198, R245). -/
def pbrBound (s : State) (t pbr : Nat) : Bool := (getTen s t).vppb.any fun v => bindPbr s v.2.bind == some pbr

/-- Whether a tenant may use a group: kind 0, its own, every member bound in its virtual switch (R245). (Log 46 DEDUCED.) -/
def rgOwn (s : State) (t g : Nat) : Bool :=
  let x := getRgrp s g
  !rgKind1 x.header && rgTen x.header == t && x.member.all fun m => fld m.2 62 2 == 0 || pbrBound s t (fld m.2 48 12)

/-- Decode checks of MCAST by op (Table OXI-7, R245). (Log 46 DEDUCED.) -/
def mcastChk (s : State) (c : Nat) (imm : W32) (B : W64) : List (Bool × Nat) :=
  let g := fld imm 0 10
  let t := c - 2
  let h := (getRgrp s g).header
  let own : List (Bool × Nat) := match fld imm 28 4 with
    | 0 => [(!within imm.toNat 0x3FF, 0x11), (fld B 40 8 != 0, 0x11), (16 < fld B 52 5, 0x11),
            (!isStw c && (rgTen B != t || rgKind1 B || (rgValid h && !rgOwn s t g)), 0x12)]
    | 1 => [(!within imm.toNat 0x100F03FF, 0x11), (fld B 60 2 != 0 || fld B 40 8 != 0, 0x11), (1 < fld B 62 2, 0x11),
            (!isStw c && (!rgOwn s t g || !pbrBound s t (fld B 48 12)), 0x12)]
    | 2 => [(!within imm.toNat 0x200F03FF, 0x11), (!within B.toNat (3 * 2 ^ 62), 0x11), (!isStw c && !rgOwn s t g, 0x12)]
    | 3 => [(!within imm.toNat 0x300003FF, 0x11), (B != 0, 0x11), (!isStw c && !rgOwn s t g, 0x12)]
    | 4 => [(!within imm.toNat 0x4000000F, 0x11), (!within B.toNat 3, 0x11), (B == 3, 0x11), (!isStw c, 0x12)]
    | 5 => [(!within imm.toNat 0x501F03FF, 0x11), (B != 0, 0x11), (!isStw c && !rgOwn s t g, 0x12)]
    | _ => [(true, 0x11)]
  own

/-- Owner of a replication-store partition (Table CORE-15). -/
def partOwner (s : State) (p : Nat) : Nat := fld s.core.rstoreOwn (2 * p) 2

/-- MCAST (Table OXI-7). -/
def mcastDo (s : State) (imm : W32) (B : W64) : Fab :=
  let g := fld imm 0 10
  let m := fld imm 16 4
  let x := getRgrp s g
  let k1 := rgValid x.header && rgKind1 x.header
  let st := memState x m
  match fld imm 28 4 with
  | 0 => if k1 || rgKind1 B then fabNo 2 s else fabOk (modRgrp s g fun x => { x with header := B })
  | 1 => if k1 || st == 2 || st == 3 then fabNo 2 s else fabOk (modRgrp s g fun x => { x with member := tput 0 x.member m B })
  | 2 =>
    let n := fld B 62 2
    if k1 || !(n == 0 || (st == 2 && n == 3) || (st == 3 && n == 1)) then fabNo 2 s
    else fabOk (modRgrp s g fun x => setMemState x m n)
  | 3 => if k1 then fabNo 2 s else fabOk (modRgrp s g fun x => { x with header := setFld x.header 63 1 0 })
  | 4 =>
    let p := fld imm 0 4
    let o := partOwner s p
    let n := fld B 0 2
    if tget 0 s.core.rstoreUse p != 0 || (o == 1 && n == 2) || (o == 2 && n == 1) then fabNo 2 s
    else fabOk { s with core := { s.core with rstoreOwn := setFld s.core.rstoreOwn (2 * p) 2 n } }
  | _ => { st := 0, kd := if bit imm 20 then tget 0 x.member m else x.header, s := s }

/-! ## DECKLE -/

/-- Two entries overlap (R196). -/
def dklOverlap (a b : Deckle) : Bool :=
  a.valid && b.valid && a.space == b.space && a.stw == b.stw && a.ten == b.ten && a.dst == b.dst &&
    a.base ≤ b.limit && b.base ≤ a.limit

/-- Decode checks of DECKLE (Table OXI-8, R198). -/
def deckleChk (s : State) (c : Nat) (imm : W32) (B ka : W64) : List (Bool × Nat) :=
  let op := fld imm 16 2
  let e : Deckle := { w0 := B, w1 := ka }
  let t := c - 2
  (!within imm.toNat 0x31FFF, 0x11) :: (op == 3, 0x11) ::
    (if op = 0 then
      [(!e.valid || fld B 40 11 != 0 || fld ka 40 12 != 0, 0x11),
       (!isStw c && (e.stw || e.ten != t || e.locked || !(e.space == 0 || (e.space == 1 && pbrBound s t e.dst))), 0x12)]
    else [(B != 0, 0x11), (op == 2 && !isStw c, 0x12)])

/-- A refused change of a locked entry (R204). -/
def deckleLocked (s : State) (c i : Nat) : State := dklLog s 4 (tenOf c) (getDkl s i).space (ctxSrc c) i 0 0

/-- DECKLE (Table OXI-8). -/
def deckleDo (s : State) (c : Nat) (imm : W32) (B ka : W64) : Fab :=
  let i := fld imm 0 13
  let d := getDkl s i
  let put (e : Deckle) : State := { s with dkl := { s.dkl with tab := tput {} s.dkl.tab i e } }
  let other := !isStw c && d.valid && (d.stw || d.ten + 2 != c)
  match fld imm 16 2 with
  | 0 =>
    let e : Deckle := { w0 := B, w1 := ka }
    if d.locked then fabNo 2 (deckleLocked s c i)
    else if other || s.dkl.tab.any (fun x => x.1 != i && dklOverlap e x.2) then fabNo 2 s
    else fabOk (put e)
  | 1 =>
    if d.locked then fabNo 2 (deckleLocked s c i) else if other then fabNo 2 s else fabOk (put {})
  | _ => if !d.valid then fabNo 2 s else fabOk (put { d with w0 := setFld d.w0 62 1 1 })

/-! ## SHEET -/

/-- Bits of word B a SHEET op defines. -/
def sheetMask (op : Nat) : Nat :=
  match op with
  | 0 => 2 ^ 62 + 15 * 2 ^ 58 + 15 * 2 ^ 51 + 32767 * 2 ^ 36
  | 2 => 15 * 2 ^ 32 + 32767 * 2 ^ 17
  | 6 => 1
  | 7 => 15 * 2 ^ 32 + 32767 * 2 ^ 16 + 32767
  | _ => 0

/-- Decode checks of SHEET (Table OXI-9). -/
def sheetChk (s : State) (c : Nat) (imm : W32) (B : W64) : List (Bool × Nat) :=
  let op := fld imm 28 4
  let i := fld imm 0 15
  let e := getSheet s i
  [(8 < op, 0x11), (!within imm.toNat (0xF0000000 + 0x7FFF), 0x11), (op == 7 && i != 0, 0x11), (24575 < i, 0x11),
   (!within B.toNat (sheetMask op), 0x11),
   (!isStw c && (op != 8 || !shValid e || shStw e || shTen e + 2 != c), 0x12)]

/-- A slot that GRANT or ATTACH can name: within its group, free, drained, not retired (Table POOL-6). -/
def slotOpen (s : State) (g slot : Nat) : Bool := slot < (getGrp s g).slots && slotFree s g slot

/-- Whether a sheet lies inside some tenant's ream. -/
def inReam (s : State) (i : Nat) : Bool := s.ten.any fun t => t.2.base ≤ i && i < t.2.base + t.2.len

/-- Whether two groups share a channel. -/
def grpsMeet (s : State) (g h : Nat) : Bool := (getGrp s g).mask &&& (getGrp s h).mask != 0

/-- The walk a ream change needs: some sheet leaves the ream (R186). -/
def reamShrinks (x : Ten) (base len : Nat) : Bool := x.len != 0 && (x.base < base || base + len < x.base + x.len)

/-- SHEET (Tables OXI-9, POOL-6). REAM of a shrink leaves a walk to run. -/
def sheetDo (s : State) (imm : W32) (B : W64) : Fab :=
  let i := fld imm 0 15
  let e := getSheet s i
  let use (s : State) (g slot : Nat) : State := modUse s g slot fun u => { u with used := true }
  match fld imm 28 4 with
  | 0 =>
    let g := fld B 51 4
    let k := fld B 36 15
    if shValid e || !slotOpen s g k then fabNo 2 s else fabOk (use (setSheet s i (shMk (bit B 62) (fld B 58 4) 0 g k 0 0)) g k)
  | 1 => if !shValid e || shMst e != 0 || inReam s i then fabNo 2 s else fabOk (freeSlot (setSheet s i 0) (shPg e) (shPs e))
  | 2 =>
    let g := fld B 32 4
    let k := fld B 17 15
    if !shValid e || !(shMst e == 0 || shMst e == 3) || !slotOpen s g k || grpsMeet s g (shPg e) then fabNo 2 s
    else
      let s := if shMst e = 3 then freeSlot s (shMg e) (shMs e) else s
      fabOk (use (setSheet s i (shWith e 1 g k)) g k)
  | 3 => if !shValid e || shMst e != 1 then fabNo 2 s else fabOk (setSheet s i (shWith e 2 (shMg e) (shMs e)))
  | 4 => if !shValid e || shMst e != 2 then fabNo 2 s
         else fabOk (setSheet s i (shMk (shStw e) (shTen e) 2 (shMg e) (shMs e) (shPg e) (shPs e)))
  | 5 => if !shValid e || shMst e == 0 then fabNo 2 s else fabOk (freeSlot (setSheet s i (shWith e 0 0 0)) (shMg e) (shMs e))
  | 6 =>
    if !shValid e || (bit B 0 && shMst e == 0) then fabNo 2 s
    else fabOk (modUse s (if bit B 0 then shMg e else shPg e) (if bit B 0 then shMs e else shPs e) fun u => { u with retire := true })
  | 7 =>
    let t := fld B 32 4
    let b := fld B 16 15
    let n := fld B 0 15
    let x := getTen s t
    if !x.exist then fabNo 7 s
    else if (List.range n).any fun j => shOwner (getSheet s (b + j)) != some t || !shValid (getSheet s (b + j)) then fabNo 2 s
    else
      let s := modTen s t fun x => { x with base := b, len := n }
      fabOk (if reamShrinks x b n then
          { s with home := { s.home with walks := s.home.walks ++ [{ tenant := t, reset := false, oldBase := x.base, oldLen := x.len }] } }
        else s)
  | _ => { st := 0, kd := e, s := s }

/-! ## MIRROR -/

/-- Fields of a session (Table CORE-17). -/
def mirOn (x : Mirror) : Bool := bit x.ctrl 31
/-- Analysis port of a control word. -/
def mirAna (v : W32) : Nat := fld v 14 7
/-- Source port of a control word. -/
def mirSrc (v : W32) : Nat := fld v 7 7

/-- A session is owned by another than the issuer. -/
def mirOther (x : Mirror) (c : Nat) : Bool := mirOn x && !isStw c && (bit x.ctrl 21 || fld x.ctrl 22 4 + 2 != c)

/-- Decode checks of MIRROR (Table OXI-10, R246). -/
def mirrorChk (s : State) (c : Nat) (imm : W32) (B ka kb : W64) : List (Bool × Nat) :=
  let op := fld imm 4 2
  let v := lo32 B
  let t := c - 2
  let kind := fld v 28 3
  (op == 3, 0x11) :: (!within imm.toNat (if op = 0 then 0x1F37 else 0x37), 0x11) ::
    (if op = 0 then
      [(fld imm 8 5 < 12 || 30 < fld imm 8 5, 0x11), (bit v 31 || bit v 26 || fld v 0 7 != 0 || fld B 34 6 != 0, 0x11),
       (!leadIdx s (mirAna v), 0x11), (kind < 3 && !leadIdx s (mirSrc v), 0x11),
       (!isStw c && (bit v 21 || fld v 22 4 != t || !ownPort s t (mirAna v) || (kind < 3 && !ownPort s t (mirSrc v))), 0x12),
       (ka.toNat % 4096 != 0 || kb.toNat % 64 != 0, 0x15)]
    else [(B != 0, 0x11)])

/-- Whether every page of a span passes for a need: lines of one page are judged alike. -/
def pagesOk (s : State) (q : Chk) (n : Nat) : Bool :=
  (List.range (ceilDiv n 4096)).all fun i => dklLine s { q with addr := q.addr + 4096 * i } == .pass

/-- The ring and control-block check of an enable (R111). -/
def mirLinesOk (s : State) (v : W32) (ka kb : W64) (log2 : Nat) : Bool :=
  let q : Chk := { space := 1, addr := ka.toNat, stw := bit v 21, ten := fld v 22 4, dst := cfgPbr (getPort s (mirAna v)), w := true }
  pagesOk s q (2 ^ log2) && dklLine s { q with addr := kb.toNat, r := true } == .pass

/-- Copies of a session in flight: on their way, or waiting for the consumer index. -/
def mirInFlight (s : State) (i : Nat) : Bool :=
  !(getMir s i).waiting.isEmpty || (s.core.pkts.any fun p => p.org == .mirror i)

/-- A closing session with no copy left writes its final producer index, and its registers return to zero (R117).
(Log 63 DEDUCED.) -/
def mirFinish (s : State) (i : Nat) : State :=
  let x := getMir s i
  if x.closing && !mirInFlight s i then
    modMir (emit s (.mirrorIndex i x.producer)) i fun _ => {}
  else s

/-- MIRROR (Table OXI-10). -/
def mirrorDo (s : State) (c : Nat) (imm : W32) (B ka kb : W64) : Fab :=
  let i := fld imm 0 3
  let x := getMir s i
  let v := lo32 B
  if mirOther x c then fabNo 2 s else
  match fld imm 4 2 with
  | 0 =>
    let a := getPort s (mirAna v)
    if mirOn x || !isEdge a || a.link != .up || 4 < fld v 28 3 || !mirLinesOk s v ka kb (fld imm 8 5) then fabNo 2 s
    else fabOk (modMir s i fun _ => { ctrl := setFld v 31 1 1, flow := hi32 B, ring := ka, ctlb := kb, size := fld imm 8 5 })
  | 1 => fabOk (mirFinish (modMir s i fun x => { x with closing := mirOn x }) i)
  | _ => { st := 0, kd := BitVec.ofNat 64 x.lost, s := s }

end Sys2Proof.Machine
end

