-- ==== Sys2Proof/Machine/Traffic.lean ====
section
/-!
DEFINITION. Traffic control (05): priority, meters, shapers, deficit round-robin, cadence matching and the choice egress
selection makes (R127).
-/

namespace Sys2Proof.Machine

/-! ## Priority and meters -/

/-- The priority PORT_PRIO gives a message (R118). -/
def prioOf (x : Port) (m : Msg) : Nat :=
  if isTlp m.op then fld x.prio (3 * (m.tc % 8)) 3 else if isCache m.op then fld x.prio 26 3 else fld x.prio 29 3

/-- The meter index a message of priority `pr` uses at a port, if any (R120). -/
def meterIdx (x : Port) (m : Msg) (pr : Nat) : Option Nat :=
  let base := fld x.meter 0 11
  match fld x.meter 30 2 with
  | 0 => none
  | 1 => some base
  | 2 => some (base + pr)
  | _ => some (base + protoNo m.op)

/-- Enable bit of a meter. -/
def Meter.on (m : Meter) : Bool := bit m.w0 63
/-- Committed and peak burst in 1/1,024 byte. -/
def Meter.cap (m : Meter) : Nat × Nat := (fld m.w1 0 16 * 65536, fld m.w1 16 16 * 65536)

/-- The metered length (R121). -/
def meterLen (mt : Meter) (m : Msg) : Nat :=
  (if isTlp m.op then ceilDiv m.slots 16 * 16 else m.slots * 16) + fld mt.w0 52 6

/-- Evaluate a meter at count `t` for `len` bytes (R122). -/
def meterEval (mt : Meter) (t len : Nat) : Colour × Meter :=
  let dt := t - mt.last
  let tc := min mt.cap.1 (mt.tc + fld mt.w0 0 20 * dt * 1024 / 1000)
  let tp := min mt.cap.2 (mt.tp + fld mt.w0 20 20 * dt * 1024 / 1000)
  let l := len * 1024
  if tp < l then (.red, { mt with tc := tc, tp := tp, last := t })
  else if tc < l then (.yellow, { mt with tc := tc, tp := tp - l, last := t })
  else (.green, { mt with tc := tc - l, tp := tp - l, last := t })

/-- Count a message's first colour in its meter (Table TC-3). -/
def meterCount (mt : Meter) (c : Colour) (len : Nat) : Meter :=
  match c with
  | .green => { mt with green := BitVec.ofNat 64 (satAdd (2 ^ 64 - 1) mt.green.toNat len) }
  | .yellow => { mt with yellow := BitVec.ofNat 64 (satAdd (2 ^ 64 - 1) mt.yellow.toNat len) }
  | .red => { mt with red := satAdd (2 ^ 32 - 1) mt.red 1 }
  | .none => mt

/-- The priority after demotion (R123). -/
def demote (c : Colour) (pr : Nat) : Nat := if c = .yellow then pr - 1 else pr

/-- Colour a request received on a port: its colour, and the state with the meter evaluated and counted (R119, R122). -/
def colourOf (s : State) (p : Nat) (m : Msg) (pr : Nat) (t : Option Nat) : Colour × State :=
  match meterIdx (getPort s p) m pr with
  | none => (.green, s)
  | some i =>
    let q := quireOf p
    let mt := getMeter s q i
    if !mt.on then (.green, s) else
    let len := meterLen mt m
    let r := meterEval mt (mono s) len
    let s := modMeter s q i fun _ => meterCount r.2 r.1 len
    let s := if r.1 = .red then quireCount s q 3 t 1 else if r.1 = .yellow then quireCount s q 4 t 1 else s
    (r.1, s)

/-! ## Cadence matching (R133) -/

/-- Control fields of a schedule (Table TC-8). -/
def Cad.on (c : Cad) : Bool := bit c.ctrl 31
/-- Reference of a schedule. -/
def Cad.ref (c : Cad) : Nat := fld c.ctrl 29 2
/-- Class of a schedule: 0 request, 1 response, 2 both. -/
def Cad.cls (c : Cad) : Nat := fld c.ctrl 27 2
/-- Output point. -/
def Cad.outp (c : Cad) : Nat := fld c.ctrl 14 7
/-- Input point. -/
def Cad.inp (c : Cad) : Nat := fld c.ctrl 7 7
/-- Windows in use. -/
def Cad.nwin (c : Cad) : Nat := fld c.ctrl 0 5

/-- Whether a message is of the flow a schedule's fields name, enabled or not. -/
def cadFlow (c : Cad) (p : Pkt) : Bool :=
  (c.inp == p.ing || (c.inp == 109 && 96 ≤ p.ing && p.ing ≤ 107) || c.inp == 127) && c.outp == p.out &&
    (c.cls == 2 || c.cls == (if p.resp then 1 else 0)) && (bit c.ctrl 22 || p.ten == some (fld c.ctrl 23 4)) &&
    (bit c.ctrl 21 || p.msg.dstPbr == c.dst)

/-- The lowest-numbered enabled schedule a message fits. -/
def cadOf (s : State) (p : Pkt) : Option Nat :=
  (s.core.cad.find? fun e => e.2.on && cadFlow e.2 p).map fun e => e.1

/-! ## Shapers (R129) -/

/-- Enable bit of a shaper. -/
def OutQ.shaped (q : OutQ) : Bool := bit q.cir 31

/-- The buckets at count `t`, in 1/1,024 byte. -/
def shpFill (q : OutQ) (t : Nat) : OutQ :=
  let dt : Int := t - q.last
  let bc := q.bc + (fld q.cir 0 20 : Int) * dt * 1024 / 1000
  let bp := q.bp + (fld q.pir 0 20 : Int) * dt * 1024 / 1000
  { q with bc := min bc (fld q.burst 0 16 * 65536 : Nat), bp := min bp (fld q.burst 16 16 * 65536 : Nat), last := t }

/-- Eligibility of a queue: 0 committed, 1 excess, 2 not selected. -/
def shpTier (q : OutQ) : Nat := if !q.shaped then 0 else if q.bp ≤ 0 then 2 else if q.bc ≤ 0 then 1 else 0

/-- Charge a released message. -/
def shpCharge (q : OutQ) (n : Nat) : OutQ :=
  if q.shaped then { q with bc := q.bc - (n * 65536 : Nat), bp := q.bp - (n * 65536 : Nat) } else q

/-! ## Release room and egress credit (R88, R127) -/

/-- Release limit of an output in cells. -/
def relLimit (s : State) (o : Nat) : Nat := if o < 96 then 32 * span (getPort s o) else if o < 108 then 64 else 256

/-- Cells released and not yet sent on: unmoved ones and those in egress staging. -/
def released (s : State) (o : Nat) : Nat :=
  sumBy (fun p => cells p.msg - p.sent) (s.core.pkts.filter fun p => p.out == o && (p.stage == .voq || p.stage == .egress))

/-- Room to release a message of `n` cells (R88). -/
def hasRoom (s : State) (o n : Nat) : Bool :=
  let r := released s o
  if relLimit s o < n then r == 0 else r + n ≤ relLimit s o

/-- Difference modulo 4,096. -/
def sub12 (a b : Nat) : Nat := (a + 4096 - b % 4096) % 4096

/-- Available credit of a class (R354). -/
def reqAvail (x : Ifl) : Nat := x.reqAdv - sub12 x.reqSent x.reqSeen
/-- As above, of responses. -/
def rspAvail (x : Ifl) : Nat := x.rspAdv - sub12 x.rspSent x.rspSeen

/-- Slots a stack link's class still has to send: those ready and those of messages released to it. -/
def stackSlots (s : State) (o : Nat) (rsp : Bool) : Nat :=
  let x := (getPort s o).ifl
  (if rsp then x.txRsp else x.txReq).length + sumBy (fun p => 5 + ceilDiv (dataLen p.msg) 16)
    (s.core.pkts.filter fun p => p.out == o && p.resp == rsp && (p.stage == .voq || p.stage == .egress))

/-- Egress credit for a message's channel, less what released messages hold (R127). -/
def hasCredit (s : State) (o : Nat) (rsp : Bool) : Bool :=
  let held := (s.core.pkts.filter fun p => p.out == o && p.resp == rsp && (p.stage == .voq || p.stage == .egress)).length
  if o < 96 && roleOf (getPort s o) == 5 then
    let x := (getPort s o).ifl
    stackSlots s o rsp < 15 * (if rsp then rspAvail x else reqAvail x)
  else if o < 96 then held < (if rsp then (getPort s o).rspCredit else (getPort s o).reqCredit)
  else if o < 108 then (s.home.queue.filter fun p => p.out == o).length + held < 256
  else true

/-! ## Selection -/

/-- Messages that may be selected at an output: queued, no fence. -/
def selectable (s : State) (o : Nat) : List Pkt :=
  s.core.pkts.filter fun p => p.stage == .queued && p.out == o && p.fence == .none

/-- Whether a message is a cadence message now: its schedule's window is open and has bytes left (R136). -/
def cadNow (s : State) (p : Pkt) : Bool :=
  match p.cad with
  | none => false
  | some i => let c := getCad s i; c.opened && c.used < c.pendingG

/-- The deadline of a cadence message (R136): in ns of fabric time, times G to stay exact. -/
def deadline (s : State) (p : Pkt) : Nat :=
  match p.cad with
  | none => 0
  | some i => let c := getCad s i; c.openAt + (64 * c.used + 64 * cells p.msg) * c.pendingLen / (64 * c.pendingG)

/-- The cadence message with the earliest deadline, a lower schedule first (R136). -/
def pickCad (s : State) (o : Nat) : Option Pkt :=
  let l := (selectable s o).filter fun p => cadNow s p && hasCredit s o p.resp
  let firstOf (p : Pkt) : Bool := (l.find? fun x => x.cad == p.cad).any fun x => x.id == p.id
  (l.filter firstOf).foldl (fun b p =>
    match b with
    | none => some p
    | some x => if deadline s p < deadline s x || (deadline s p == deadline s x && p.cad.getD 64 < x.cad.getD 64) then some p
                else b) none

/-- The head message of a participant's list in a queue: the older of its own and its cadence messages not in a window. -/
def headOf (s : State) (o n x : Nat) : Option Pkt :=
  (selectable s o).find? fun p => qclassOf p == n && partOf p == x && !cadNow s p

/-- DRR quantum of a participant, at least 65 (R128). -/
def quantumOf (s : State) (x : Nat) : Nat := max 65 (if x < 16 then (getTen s x).drr else s.core.drrSteward)

/-- The participant DRR serves in a queue, with turn and deficits after its visit (R128). -/
def drrPick (s : State) (o n : Nat) : Option (Pkt × OutQ) :=
  let q := getQ s o n
  let d (x : Nat) : Nat := tget 0 q.deficit x
  let stay := (headOf s o n q.turn).any fun p => cells p.msg ≤ d q.turn
  if stay then (headOf s o n q.turn).map fun p => (p, q)
  else
    match firstFrom 17 (q.turn + 1) fun x => (headOf s o n x).isSome with
    | none => none
    | some x => (headOf s o n x).map fun p =>
        (p, { q with turn := x, deficit := tput 0 q.deficit x (d x + quantumOf s x) })

/-- The queue order of selection: priority 7 first, the response queue before the request queue (R127). -/
def queueOrder : List Nat := [15, 7, 14, 6, 13, 5, 12, 4, 11, 3, 10, 2, 9, 1, 8, 0]

/-- The choice of a tier: the DRR choice of the first queue of the tier that holds messages with credit. -/
def pickTier (s : State) (o tier : Nat) : Option (Pkt × OutQ) :=
  queueOrder.findSome? fun n =>
    if shpTier (shpFill (getQ s o n) (mono s)) == tier && hasCredit s o (8 ≤ n) then
      drrPick s o n
    else none

end Sys2Proof.Machine
end

