-- ==== Sys2Proof/Machine/TrafCfg.lean ====
section
/-!
DEFINITION. Effects and checks of METER, SHAPE and CADENCE (Tables OXI-11 to OXI-13, R118 to R135, R246 to R248).
-/

namespace Sys2Proof.Machine

/-! ## METER -/

/-- Release the held red messages of a port that a meter holds as green (R125); `none`: whatever meter holds them. -/
def releaseRed (i : Option Nat) (s : State) (p : Nat) : State :=
  let mine (k : Pkt) : Bool :=
    k.stage == .heldRed && k.ing == p && (i.isNone || meterIdx (getPort s p) k.msg k.prio == i)
  putPkts s (s.core.pkts.map fun k => if mine k then { k with stage := .staged, colour := .green } else k)

/-- Meter indices a binding can use. -/
def meterSpan (v : W32) : List Nat :=
  let b := fld v 0 11
  match fld v 30 2 with
  | 0 => []
  | 1 => [b]
  | 2 => (List.range 8).map fun i => b + i
  | _ => (List.range 3).map fun i => b + i

/-- Owner of a meter: none while it is not enabled, else the Steward (16) or a tenant (notes/assumptions/20.md).
(Log 20 DEDUCED.) -/
def meterOwner (m : Meter) : Option Nat := if !m.on then none else if bit m.w0 58 then some 16 else some (fld m.w0 59 4)

/-- The participant a context acts as. (Log 20 DEDUCED.) -/
def partyOf (c : Nat) : Nat := if isStw c then 16 else c - 2

/-- Decode checks of METER (R120, R125, Table OXI-11). (Log 20 DEDUCED.) -/
def meterChk (s : State) (c : Nat) (imm : W32) (B ka : W64) : List (Bool × Nat) :=
  let q := fld imm 24 4
  let p := fld imm 16 7
  let w1 := lo32 ka
  let stw := isStw c
  let own : List (Bool × Nat) := match fld imm 28 4 with
    | 0 =>
      let cir := fld B 0 20
      let pir := fld B 20 20
      let cbs := fld w1 0 16
      let pbs := fld w1 16 16
      [(!within imm.toNat 0x0F0007FF, 0x11), (fld B 40 12 != 0, 0x11), (hi32 ka != 0, 0x11),
       (pir < cir || (pir == 0 && bit B 63) || cbs < 128 || pbs < 128 || pbs < cbs, 0x11),
       (!stw && (bit B 58 || fld B 59 4 + 2 != c), 0x12)]
    | 1 =>
      [(!within imm.toNat 0x1F7F0000, 0x11), (!within B.toNat 0xC00007FF, 0x11), (!leadIdx s p || quireOf p != q, 0x11),
       ((meterSpan (lo32 B)).any (fun i => 2047 < i), 0x11), (!stw && !ownPort s (c - 2) p, 0x12),
       (!stw && (meterSpan (lo32 B)).any (fun i => (meterOwner (getMeter s q i)).any fun o => o < 16 && o != c - 2), 0x12)]
    | 2 => [(!within imm.toNat 0x2F0077FF, 0x11), (B != 0, 0x11), (5 < fld imm 12 3, 0x11)]
    | _ => [(true, 0x11)]
  (decide (11 < q), 0x11) :: own

/-- Ports whose binding uses a meter. -/
def meterPorts (s : State) (q m : Nat) : List Nat :=
  (s.port.filter fun e => quireOf e.1 == q && (meterSpan e.2.meter).contains m).map fun e => e.1

/-- Word `i` of a meter entry (Table TC-3). -/
def meterWord (m : Meter) : Nat → W64
  | 0 => m.w0
  | 1 => m.w1.setWidth 64
  | 2 => pack64 [(32, m.tp / 1024), (0, m.tc / 1024)]
  | 3 => m.green
  | 4 => m.yellow
  | _ => pack64 [(32, m.red)]

/-- METER (Table OXI-11). -/
def meterDo (s : State) (c : Nat) (imm : W32) (B ka : W64) : Fab :=
  let q := fld imm 24 4
  let i := fld imm 0 11
  let m := getMeter s q i
  match fld imm 28 4 with
  | 0 =>
    if (meterOwner m).any (fun o => o != partyOf c) then fabNo 2 s else
    let n : Meter := { m with w0 := B, w1 := lo32 ka }
    let n := if !n.on then n
      else if m.on then { n with tc := min m.tc n.cap.1, tp := min m.tp n.cap.2 }
      else { n with tc := n.cap.1, tp := n.cap.2, last := mono s }
    let s' := modMeter s q i fun _ => n
    fabOk (if m.on && !n.on then forL (meterPorts s q i) s' (releaseRed (some i)) else s')
  | 1 =>
    let p := fld imm 16 7
    if (meterSpan (lo32 B)).any (fun i => (meterOwner (getMeter s q i)).any fun o => o != partyOf c) then fabNo 2 s else
    let s' := if meterSpan (getPort s p).meter == meterSpan (lo32 B) then s else releaseRed none s p
    fabOk (modPort s' p fun x => { x with meter := lo32 B })
  | _ =>
    if (meterOwner m).any (fun o => o != partyOf c) then fabNo 2 s
    else { st := 0, kd := meterWord m (fld imm 12 3), s := s }

/-! ## SHAPE -/

/-- Decode checks of SHAPE (R129, R247). -/
def shapeChk (s : State) (c : Nat) (imm : W32) (B ka : W64) : List (Bool × Nat) :=
  let o := fld imm 0 7
  let stw := isStw c
  match fld imm 28 4 with
  | 0 =>
    let cir := lo32 B
    let pir := hi32 B
    let bu := lo32 ka
    [(!within imm.toNat 0xF7F, 0x11), (108 < o || (o < 96 && !leadIdx s o), 0x11), (hi32 ka != 0, 0x11),
     (!within cir.toNat 0x800FFFFF || !within pir.toNat 0xFFFFF, 0x11),
     (fld pir 0 20 < fld cir 0 20 || (fld pir 0 20 == 0 && bit cir 31) || fld bu 16 16 < fld bu 0 16, 0x11),
     (!stw && (95 < o || !ownPort s (c - 2) o), 0x12)]
  | 1 =>
    [(!within imm.toNat 0x1000007F, 0x11), (!within B.toNat 0xFCFFFFFF, 0x11), (!leadIdx s o, 0x11),
     (!stw && !ownPort s (c - 2) o, 0x12)]
  | 2 => [(!within imm.toNat 0x201F0000, 0x11), (!within B.toNat 0xFFF, 0x11), (16 < fld imm 16 5, 0x11), (!stw, 0x12)]
  | _ => [(true, 0x11)]

/-- SHAPE (Table OXI-12). -/
def shapeDo (s : State) (imm : W32) (B ka : W64) : Fab :=
  match fld imm 28 4 with
  | 0 =>
    let o := fld imm 0 7
    let n := fld imm 8 4
    let bu := lo32 ka
    fabOk (modQ s o n fun q =>
      let on := bit (lo32 B) 31
      let fresh := on && !q.shaped
      let q' := shpFill q (mono s)
      let q' : OutQ := { q' with cir := lo32 B, pir := hi32 B, burst := bu, last := mono s }
      if fresh then { q' with bc := (fld bu 0 16 * 65536 : Nat), bp := (fld bu 16 16 * 65536 : Nat) }
      else { q' with bc := min q'.bc (fld bu 0 16 * 65536 : Nat), bp := min q'.bp (fld bu 16 16 * 65536 : Nat) })
  | 1 => fabOk (modPort s (fld imm 0 7) fun x => { x with prio := lo32 B })
  | _ =>
    let x := fld imm 16 5
    let v := fld B 0 12
    if x < 16 then
      if (getTen s x).exist then fabOk (modTen s x fun t => { t with drr := v }) else fabNo 7 s
    else fabOk { s with core := { s.core with drrSteward := v } }

/-! ## CADENCE -/

/-- A sum of fractions, numerator and denominator. -/
def fracAdd (a b : Nat × Nat) : Nat × Nat := (a.1 * b.2 + b.1 * a.2, a.2 * b.2)

/-- The rate of a window in MB/s as a fraction: 64 G / length in bytes per ns, times 1,000. -/
def winRate (c : Cad) (w : Nat) : Nat × Nat := (64000 * (tget 0 c.bytes w).toNat, (tget 0 c.len w).toNat)

/-- The interval of a window. -/
def winSpan (c : Cad) (w : Nat) : Nat × Nat :=
  ((tget 0 c.off w).toNat, (tget 0 c.off w).toNat + (tget 0 c.len w).toNat)

/-- Windows of a schedule. -/
def winsOf (c : Cad) : List Nat := List.range c.nwin

/-- R131: ascending, disjoint, long enough, G at least 1. -/
def winsOk (c : Cad) : Bool :=
  c.nwin ≤ 16 &&
  (winsOf c).all (fun w => 1000 ≤ (tget 0 c.len w).toNat && (tget 0 c.bytes w).toNat != 0) &&
    (List.range (c.nwin - 1)).all fun w => (winSpan c w).2 ≤ (winSpan c (w + 1)).1

/-- Transfer rates by PORT_CFG.max_rate code, in 0.1 GT/s. -/
def rateTenths (code : Nat) : Nat := match code with | 0 => 25 | 1 => 50 | 2 => 80 | 3 => 160 | 4 => 320 | _ => 640

/-- Capacity of a port's link in MB/s as a fraction (Table FAB-6): by mode, rate and lanes in use. (Log 48 DEDUCED.) -/
def linkCap (x : Port) : Nat × Nat :=
  let r := rateTenths x.rate
  let x4 : Nat × Nat := match x.mode with
    | 1 => if x.rate = 5 then (30250, 1) else (15100 * r, 320)
    | 2 => (14800 * r, 320)
    | 3 => if x.rate < 2 then (r * 40 * 236, 256) else (29500 * r, 640)
    | 4 => if x.rate < 2 then (r * 40 * 96, 100) else (15100 * r, 320)
    | 5 => (29300 * r, 640)
    | _ => (0, 1)
  (x4.1 * x.lanesUsed, x4.2 * 4)

/-- Limit of an output in MB/s (Table TC-6). -/
def outLimit (s : State) (o : Nat) : Nat × Nat :=
  if o < 96 then let c := linkCap (getPort s o); (3 * c.1, 4 * c.2)
  else if o < 108 then (6 * poolRate s.pool.rate, 1)
  else (240000, 1)

/-- a ≤ b. -/
def fracLe (a b : Nat × Nat) : Bool := a.1 * b.2 ≤ b.1 * a.2

/-- The spokes an input can enter (R132). -/
def inSpokes (i : Nat) : List Nat := if i = 109 then [12, 13, 14] else if i = 127 then List.range 16 else [spokeOf i]

/-- The enabled schedules with schedule `i` as it would be. -/
def cadsWith (s : State) (i : Nat) (c : Cad) : List (Nat × Cad) := (i, c) :: s.core.cad.filter fun e => e.1 != i && e.2.on

/-- The rates of one output's windows that overlap a window. (Log 48 DEDUCED, 59 DEDUCED.) -/
def overlapSum (l : List (Nat × Cad)) (i : Nat) (c : Cad) (w : Nat) : Nat × Nat :=
  l.foldl (fun a e =>
    if e.2.outp != c.outp then a else
    (winsOf e.2).foldl (fun a v =>
      let x := winSpan c w
      let y := winSpan e.2 v
      let meets := e.2.ref != c.ref || (x.1 < y.2 && y.1 < x.2)
      if (e.1 == i && v == w) || meets then fracAdd a (winRate e.2 v) else a) a) (0, 1)

/-- The rates of every window charged to a spoke, by its output or by its inputs. (Log 48 DEDUCED.) -/
def spokeSum (l : List (Nat × Cad)) (sp : Nat) (isOut : Bool) : Nat × Nat :=
  l.foldl (fun a e =>
    if (if isOut then spokeOf e.2.outp == sp else (inSpokes e.2.inp).contains sp) then
      (winsOf e.2).foldl (fun a v => fracAdd a (winRate e.2 v)) a
    else a) (0, 1)

/-- The reservation check of R132. (Log 48 DEDUCED.) -/
def cadAdmit (s : State) (i : Nat) (c : Cad) : Bool :=
  let l := cadsWith s i c
  l.all (fun e => (winsOf e.2).all fun w => e.2.outp != c.outp || fracLe (overlapSum l e.1 e.2 w) (outLimit s c.outp)) &&
    (List.range 16).all fun sp => fracLe (spokeSum l sp true) (160000, 1) && fracLe (spokeSum l sp false) (160000, 1)

/-- A point R130 names, as an output or as an input. -/
def pointOk (s : State) (isIn : Bool) (p : Nat) : Bool := (p < 96 && leadIdx s p) || (96 ≤ p && p ≤ 108) || (isIn && (p == 109 || p == 127))

/-- A point a tenant may name. -/
def pointOwn (s : State) (t p : Nat) : Bool := (p < 96 && ownPort s t p) || (96 ≤ p && p ≤ 109)

/-- The schedule after a configure: the issuer is its owner, so a Steward's schedule reads steward = 1 (R248). (Log 48 DEDUCED.) -/
def cadConf (c : Cad) (stw : Bool) (B : W64) : Cad :=
  let v := setFld (lo32 B) 31 1 (fld c.ctrl 31 1)
  { c with ctrl := if stw then setFld v 22 1 1 else v, dst := fld B 32 12 }

/-- The schedule after a window op. -/
def cadWin (c : Cad) (w : Nat) (B ka : W64) : Cad :=
  { c with off := tput 0 c.off w (lo32 B), len := tput 0 c.len w (hi32 B), bytes := tput 0 c.bytes w (lo32 ka) }

/-- Decode checks of CADENCE (R130, R131, R248). (Log 48 DEDUCED.) -/
def cadChk (s : State) (c : Nat) (imm : W32) (B ka : W64) : List (Bool × Nat) :=
  let i := fld imm 0 6
  let x := getCad s i
  let op := fld imm 8 2
  let v := lo32 B
  let stw := isStw c
  (!within imm.toNat (if op = 1 then 0xF033F else 0x33F), 0x11) ::
    (match op with
      | 0 =>
        let n := cadConf x stw B
        [(bit v 31 || fld v 5 2 != 0 || n.cls == 3 || 16 < n.nwin || fld B 44 20 != 0, 0x11),
         (!pointOk s false n.outp || !pointOk s true n.inp, 0x11), (x.on && !winsOk n, 0x11),
         (!stw && (bit v 22 || fld v 23 4 + 2 != c || !pointOwn s (c - 2) n.outp || !pointOwn s (c - 2) n.inp), 0x12)]
      | 1 =>
        [(2 ^ 24 ≤ ka.toNat || (lo32 ka) == 0 || (hi32 B).toNat < 1000, 0x11), (x.on && !winsOk (cadWin x (fld imm 16 4) B ka), 0x11)]
      | 2 => [(B != 0, 0x11), (!winsOk x, 0x11)]
      | _ => [(B != 0, 0x11)])

/-- A schedule of another owner. -/
def cadOther (x : Cad) (c : Nat) : Bool := x.owned && (if bit x.ctrl 22 then !isStw c else fld x.ctrl 23 4 + 2 != c)

/-- Raise the cadence fence of a schedule: messages of its old flow admitted later wait for its old list (R134). -/
def cadFence (s : State) (i : Nat) (old : Cad) : State :=
  let l := (s.core.pkts.filter fun p => p.cad == some i && p.stage == .queued).map fun p => p.id
  let f : Option (W32 × Nat) := if l.isEmpty then none else some (old.ctrl, old.dst)
  let s := modCad s i fun c => { c with fence := f, stale := l }
  if old.outp < 96 then portCount s old.outp 12 none 1 else modOutP s old.outp fun x => { x with fences := x.fences + 1 }

/-- Apply changed values to an enabled schedule, or to one that is not enabled. -/
def cadChange (s : State) (i : Nat) (old new : Cad) : Fab :=
  if !old.on then fabOk (modCad s i fun _ => new)
  else if !cadAdmit s i new then fabNo 2 s
  else fabOk (cadFence (modCad s i fun _ => { new with degraded := false }) i old)

/-- CADENCE (Table OXI-13, R132, R134, R248). -/
def cadDo (s : State) (c : Nat) (imm : W32) (B ka : W64) : Fab :=
  let i := fld imm 0 6
  let x := getCad s i
  if cadOther x c then fabNo 2 s else
  match fld imm 8 2 with
  | 0 => cadChange s i x { cadConf x (isStw c) B with owned := true }
  | 1 => cadChange s i x (cadWin x (fld imm 16 4) B ka)
  | 2 =>
    if cadAdmit s i x then fabOk (modCad s i fun c => { c with ctrl := setFld c.ctrl 31 1 1, degraded := false }) else fabNo 2 s
  | _ =>
    let s' := if x.on then cadFence s i x else s
    fabOk (modCad s' i fun c => { c with ctrl := setFld c.ctrl 31 1 0, opened := false, owned := false })

end Sys2Proof.Machine
end

