-- ==== Sys2Proof/Machine/FabRun.lean ====
section
/-!
DEFINITION. The fabric instructions (opcodes 0x40 to 0x49): issued directly or staged as take items (R243), their checks and
effects by opcode, and the restart of a take's preparation by a change (R293).
-/

namespace Sys2Proof.Machine

/-- Decode checks of a fabric instruction by opcode. -/
def fabChk (s : State) (c op : Nat) (imm : W32) (B ka kb : W64) : List (Bool × Nat) :=
  match op with
  | 0x40 => bindChk s c (bindArg imm B) imm B
  | 0x41 => unbindChk s c (bindArg imm B) imm B
  | 0x42 => routeChk s c imm B
  | 0x43 => mcastChk s c imm B
  | 0x44 => deckleChk s c imm B ka
  | 0x45 => sheetChk s c imm B
  | 0x46 => mirrorChk s c imm B ka kb
  | 0x47 => meterChk s c imm B ka
  | 0x48 => shapeChk s c imm B ka
  | _ => cadChk s c imm B ka

/-- Effect of a fabric instruction by opcode. -/
def fabApply (s : State) (c op : Nat) (imm : W32) (B ka kb : W64) : Fab :=
  match op with
  | 0x40 => bindDo s (bindArg imm B)
  | 0x41 => unbindDo s (bindArg imm B)
  | 0x42 => routeDo s imm B ka kb
  | 0x43 => mcastDo s imm B
  | 0x44 => deckleDo s c imm B ka
  | 0x45 => sheetDo s imm B
  | 0x46 => mirrorDo s c imm B ka kb
  | 0x47 => meterDo s c imm B ka
  | 0x48 => shapeDo s imm B ka
  | _ => cadDo s c imm B ka

/-- The op field of a fabric instruction. -/
def fabSub (op : Nat) (imm : W32) : Nat :=
  match op with
  | 0x40 | 0x41 => 0
  | 0x44 => fld imm 16 2
  | 0x46 => fld imm 4 2
  | 0x49 => fld imm 8 2
  | _ => fld imm 28 4

/-- Ops marked read. -/
def fabRead (op sub : Nat) : Bool :=
  (op == 0x42 && sub == 5) || (op == 0x43 && sub == 5) || (op == 0x45 && sub == 8) || (op == 0x46 && sub == 2) || (op == 0x47 && sub == 2)

/-- Ops marked take only (R83). -/
def fabTakeOnly (op sub : Nat) : Bool := op == 0x42 && 2 ≤ sub && sub ≤ 4

/-- Registers an op uses. -/
def fabShape (op sub : Nat) : Shape0 :=
  let a := (op == 0x42 && sub == 2) || (op == 0x44 && sub == 0) || (op == 0x46 && sub == 0) || (op == 0x47 && sub == 0) ||
    (op == 0x48 && sub == 0) || (op == 0x49 && sub == 1)
  let b := (op == 0x42 && sub == 2) || (op == 0x46 && sub == 0)
  { mods := 0x10, d := op == 0x40 || fabRead op sub, a := a, b := b, imm := 2 ^ 32 - 1, B := 2 ^ 64 - 1 }

/-! ## The elements an item writes (R293) -/

/-- Kinds of elements: what a change to one restarts is an item that writes it. -/
inductive Elem where
  | vppb (t v : Nat) | sharers (t : Nat) | route (q id : Nat) | ecmp (g : Nat) | hash | header (g : Nat) | member (g m : Nat)
  | part (p : Nat) | deckle (i : Nat) | sheet (i : Nat) | ream (t : Nat) | mirror (i : Nat) | meter (q m : Nat) | pmeter (p : Nat)
  | shaper (o n : Nat) | prio (p : Nat) | quantum (x : Nat) | cad (i : Nat)
deriving DecidableEq, Repr

/-- The elements an item of an opcode writes. -/
def elemsOf (op : Nat) (imm : W32) (B : W64) : List Elem :=
  let sub := fabSub op imm
  match op with
  | 0x40 | 0x41 => let a := bindArg imm B; [.vppb a.ten a.v, .sharers a.ten]
  | 0x42 => match sub with
    | 0 => ((List.range 12).filter fun q => bit imm q).map fun q => .route q (fld imm 16 12)
    | 1 | 2 => [.ecmp (fld imm 16 6)]
    | _ => [.hash]
  | 0x43 => match sub with
    | 0 | 3 => [.header (fld imm 0 10)]
    | 1 | 2 => [.member (fld imm 0 10) (fld imm 16 4)]
    | _ => [.part (fld imm 0 4)]
  | 0x44 => [.deckle (fld imm 0 13)]
  | 0x45 => if sub = 7 then [.ream (fld B 32 4)] else [.sheet (fld imm 0 15)]
  | 0x46 => [.mirror (fld imm 0 3)]
  | 0x47 => if sub = 0 then [.meter (fld imm 24 4) (fld imm 0 11)] else [.pmeter (fld imm 16 7)]
  | 0x48 => match sub with
    | 0 => [.shaper (fld imm 0 7) (fld imm 8 4)]
    | 1 => [.prio (fld imm 0 7)]
    | _ => [.quantum (fld imm 16 5)]
  | _ => [.cad (fld imm 0 6)]

/-- Whether an element is the same in two states, counts and tokens that traffic moves apart. -/
def elemSame (x y : State) : Elem → Bool
  | .vppb t v => (getVppb x t v).bind == (getVppb y t v).bind
  | .sharers t => (getTen x t).sharer.map (fun e => (e.1, e.2.valid)) == (getTen y t).sharer.map (fun e => (e.1, e.2.valid))
  | .route q i => routeOf x q i == routeOf y q i
  | .ecmp g => (getEcmp x g).members == (getEcmp y g).members && (getEcmp x g).buckets == (getEcmp y g).buckets
  | .hash => x.core.hashSeed == y.core.hashSeed && x.core.hashShift == y.core.hashShift && x.core.hashAddrEn == y.core.hashAddrEn
  | .header g => (getRgrp x g).header == (getRgrp y g).header
  | .member g m => tget 0 (getRgrp x g).member m == tget 0 (getRgrp y g).member m
  | .part p => partOwner x p == partOwner y p
  | .deckle i => getDkl x i == getDkl y i
  | .sheet i => getSheet x i == getSheet y i
  | .ream t => (getTen x t).base == (getTen y t).base && (getTen x t).len == (getTen y t).len
  | .mirror i => (getMir x i).ctrl == (getMir y i).ctrl && (getMir x i).flow == (getMir y i).flow &&
      (getMir x i).ring == (getMir y i).ring && (getMir x i).ctlb == (getMir y i).ctlb && (getMir x i).size == (getMir y i).size
  | .meter q m => (getMeter x q m).w0 == (getMeter y q m).w0 && (getMeter x q m).w1 == (getMeter y q m).w1
  | .pmeter p => (getPort x p).meter == (getPort y p).meter
  | .shaper o n => (getQ x o n).cir == (getQ y o n).cir && (getQ x o n).pir == (getQ y o n).pir && (getQ x o n).burst == (getQ y o n).burst
  | .prio p => (getPort x p).prio == (getPort y p).prio
  | .quantum t => if t < 16 then (getTen x t).drr == (getTen y t).drr else x.core.drrSteward == y.core.drrSteward
  | .cad i => (getCad x i).ctrl == (getCad y i).ctrl && (getCad x i).dst == (getCad y i).dst && (getCad x i).off == (getCad y i).off &&
      (getCad x i).len == (getCad y i).len && (getCad x i).bytes == (getCad y i).bytes

/-- An item writes an element that differs between two states. -/
def itemHit (x y : State) (i : Item) : Bool := (elemsOf i.op.toNat i.w.imm i.w.B).any fun e => !elemSame x y e

/-- A change restarts the preparation of every armed set that writes what it changed (R293). `old` is the state before it.
(Log 50 DEDUCED.) -/
def restartTakes (old s : State) : State :=
  let f (t : TakeSet) : TakeSet :=
    if (t.st == .preparing || t.st == .ready) && t.items.any (itemHit old s) then { t with st := .preparing } else t
  let l := s.time.take.map fun e => (e.1, f e.2)
  let back := (s.time.take.filter fun e => e.2.st == .ready && (f e.2).st == .preparing).map fun e => e.1
  forL back { s with time := { s.time with take := l } } takeReady

/-! ## Running -/

/-- Items in all sets (R253). -/
def itemsHeld (s : State) : Nat := sumBy (fun e => e.2.items.length) s.time.take

/-- Stage an item, or retire CLAIMED (R243). -/
def stageItem (s : State) (c op : Nat) (w : Ox) (x : Ctx) : State :=
  match x.staging with
  | none => retireSt s c op w 2
  | some i =>
    let t := getTake s i
    if t.owner != c || t.st != .staging || 1024 ≤ t.items.length || 4096 ≤ itemsHeld s then retireSt s c op w 2
    else
      let it : Item := { op := BitVec.ofNat 8 op, w := w, ka := kget x w.a, kb := kget x w.b, c := c }
      retireSt (modTake s i fun t => { t with items := t.items ++ [it] }) c op w 0

/-- The walks of `s` that no one waits for yet, given a waiter, and their recalls started (R186). -/
def startWalks (s : State) (ctx set : Option Nat) : State :=
  let mine (k : Walk) : Bool := !k.reset && k.ctx.isNone && k.set.isNone
  let new := (s.home.walks.filter mine).map fun k => { k with ctx := ctx, set := set }
  let l := s.home.walks.map fun k => if mine k then { k with ctx := ctx, set := set } else k
  new.foldl startRecalls { s with home := { s.home with walks := l } }

/-- A direct fabric instruction: retired once applied; a REAM of a shrink waits for its walk, a MIRROR disable for the final
producer index. -/
def fabDirect (s : State) (c op : Nat) (w : Ox) (x : Ctx) : State :=
  let f := fabApply s c op w.imm w.B (kget x w.a) (kget x w.b)
  let sub := fabSub op w.imm
  if f.st != 0 then retireSt f.s c op w f.st else
  let s' := restartTakes s f.s
  if op = 0x45 && sub = 7 && s'.home.walks.length != s.home.walks.length then waitWith (startWalks s' (some c) none) c op w .walk
  else if op = 0x46 && sub = 1 && (getMir s' (fld w.imm 0 3)).closing then waitAgain s' c
  else if op = 0x40 || fabRead op sub then retireK s' c op w w.d f.kd
  else retireSt s' c op w 0

/-- A fabric instruction of an opcode whose op field is one a row names. -/
def fabRun (c op : Nat) (row : Nat → Bool) (w : Ox) (s : State) : State :=
  let sub := fabSub op w.imm
  if !row sub then s else
  let take := bit w.mod 4
  oxRun c op w (fabShape op sub)
    (fun s x => (fabRead op sub && take, 0x11) :: (fabTakeOnly op sub && !take, 0x11) ::
      fabChk s c op w.imm w.B (kget x w.a) (kget x w.b))
    (fun s x => if take then stageItem s c op w x else fabDirect s c op w x) s

/-- BIND. -/
def execBind (c : Nat) (w : Ox) (s : State) : Res := unitOk (c < 18) (fabRun c 0x40 (fun _ => true) w s)
/-- UNBIND. -/
def execUnbind (c : Nat) (w : Ox) (s : State) : Res := unitOk (c < 18) (fabRun c 0x41 (fun _ => true) w s)
/-- ROUTE entry; a reserved op field faults here (R235). -/
def execRouteEntry (c : Nat) (w : Ox) (s : State) : Res := unitOk (c < 18) (fabRun c 0x42 (fun n => n == 0 || 5 < n) w s)
/-- ROUTE members. -/
def execRouteMembers (c : Nat) (w : Ox) (s : State) : Res := unitOk (c < 18) (fabRun c 0x42 (· == 1) w s)
/-- ROUTE buckets. -/
def execRouteBuckets (c : Nat) (w : Ox) (s : State) : Res := unitOk (c < 18) (fabRun c 0x42 (· == 2) w s)
/-- ROUTE seed. -/
def execRouteSeed (c : Nat) (w : Ox) (s : State) : Res := unitOk (c < 18) (fabRun c 0x42 (· == 3) w s)
/-- ROUTE hash. -/
def execRouteHash (c : Nat) (w : Ox) (s : State) : Res := unitOk (c < 18) (fabRun c 0x42 (· == 4) w s)
/-- ROUTE read. -/
def execRouteRead (c : Nat) (w : Ox) (s : State) : Res := unitOk (c < 18) (fabRun c 0x42 (· == 5) w s)
/-- MCAST header; a reserved op field faults here. -/
def execMcastHeader (c : Nat) (w : Ox) (s : State) : Res := unitOk (c < 18) (fabRun c 0x43 (fun n => n == 0 || 5 < n) w s)
/-- MCAST member. -/
def execMcastMember (c : Nat) (w : Ox) (s : State) : Res := unitOk (c < 18) (fabRun c 0x43 (· == 1) w s)
/-- MCAST state. -/
def execMcastState (c : Nat) (w : Ox) (s : State) : Res := unitOk (c < 18) (fabRun c 0x43 (· == 2) w s)
/-- MCAST free. -/
def execMcastFree (c : Nat) (w : Ox) (s : State) : Res := unitOk (c < 18) (fabRun c 0x43 (· == 3) w s)
/-- MCAST owner. -/
def execMcastOwner (c : Nat) (w : Ox) (s : State) : Res := unitOk (c < 18) (fabRun c 0x43 (· == 4) w s)
/-- MCAST read. -/
def execMcastRead (c : Nat) (w : Ox) (s : State) : Res := unitOk (c < 18) (fabRun c 0x43 (· == 5) w s)
/-- DECKLE write; the reserved op faults here. -/
def execDeckleWrite (c : Nat) (w : Ox) (s : State) : Res := unitOk (c < 18) (fabRun c 0x44 (fun n => n == 0 || n == 3) w s)
/-- DECKLE invalidate. -/
def execDeckleInvalidate (c : Nat) (w : Ox) (s : State) : Res := unitOk (c < 18) (fabRun c 0x44 (· == 1) w s)
/-- DECKLE set lock. -/
def execDeckleSetLock (c : Nat) (w : Ox) (s : State) : Res := unitOk (c < 18) (fabRun c 0x44 (· == 2) w s)
/-- SHEET GRANT; a reserved op field faults here. -/
def execSheetGrant (c : Nat) (w : Ox) (s : State) : Res := unitOk (c < 18) (fabRun c 0x45 (fun n => n == 0 || 8 < n) w s)
/-- SHEET FREE. -/
def execSheetFree (c : Nat) (w : Ox) (s : State) : Res := unitOk (c < 18) (fabRun c 0x45 (· == 1) w s)
/-- SHEET ATTACH. -/
def execSheetAttach (c : Nat) (w : Ox) (s : State) : Res := unitOk (c < 18) (fabRun c 0x45 (· == 2) w s)
/-- SHEET ACTIVATE. -/
def execSheetActivate (c : Nat) (w : Ox) (s : State) : Res := unitOk (c < 18) (fabRun c 0x45 (· == 3) w s)
/-- SHEET SWAP. -/
def execSheetSwap (c : Nat) (w : Ox) (s : State) : Res := unitOk (c < 18) (fabRun c 0x45 (· == 4) w s)
/-- SHEET DETACH. -/
def execSheetDetach (c : Nat) (w : Ox) (s : State) : Res := unitOk (c < 18) (fabRun c 0x45 (· == 5) w s)
/-- SHEET RETIRE. -/
def execSheetRetire (c : Nat) (w : Ox) (s : State) : Res := unitOk (c < 18) (fabRun c 0x45 (· == 6) w s)
/-- SHEET REAM. -/
def execSheetReam (c : Nat) (w : Ox) (s : State) : Res := unitOk (c < 18) (fabRun c 0x45 (· == 7) w s)
/-- SHEET QUERY. -/
def execSheetQuery (c : Nat) (w : Ox) (s : State) : Res := unitOk (c < 18) (fabRun c 0x45 (· == 8) w s)
/-- MIRROR enable; the reserved op faults here. -/
def execMirrorEnable (c : Nat) (w : Ox) (s : State) : Res := unitOk (c < 18) (fabRun c 0x46 (fun n => n == 0 || n == 3) w s)
/-- MIRROR disable. -/
def execMirrorDisable (c : Nat) (w : Ox) (s : State) : Res := unitOk (c < 18) (fabRun c 0x46 (· == 1) w s)
/-- MIRROR read of the lost count. -/
def execMirrorReadLost (c : Nat) (w : Ox) (s : State) : Res := unitOk (c < 18) (fabRun c 0x46 (· == 2) w s)
/-- METER configure; a reserved op field faults here. -/
def execMeterConfigure (c : Nat) (w : Ox) (s : State) : Res := unitOk (c < 18) (fabRun c 0x47 (fun n => n == 0 || 2 < n) w s)
/-- METER bind. -/
def execMeterBind (c : Nat) (w : Ox) (s : State) : Res := unitOk (c < 18) (fabRun c 0x47 (· == 1) w s)
/-- METER read. -/
def execMeterRead (c : Nat) (w : Ox) (s : State) : Res := unitOk (c < 18) (fabRun c 0x47 (· == 2) w s)
/-- SHAPE shaper; a reserved op field faults here. -/
def execShapeShaper (c : Nat) (w : Ox) (s : State) : Res := unitOk (c < 18) (fabRun c 0x48 (fun n => n == 0 || 2 < n) w s)
/-- SHAPE priority. -/
def execShapePriority (c : Nat) (w : Ox) (s : State) : Res := unitOk (c < 18) (fabRun c 0x48 (· == 1) w s)
/-- SHAPE quantum. -/
def execShapeQuantum (c : Nat) (w : Ox) (s : State) : Res := unitOk (c < 18) (fabRun c 0x48 (· == 2) w s)
/-- CADENCE configure. -/
def execCadenceConfigure (c : Nat) (w : Ox) (s : State) : Res := unitOk (c < 18) (fabRun c 0x49 (· == 0) w s)
/-- CADENCE window. -/
def execCadenceWindow (c : Nat) (w : Ox) (s : State) : Res := unitOk (c < 18) (fabRun c 0x49 (· == 1) w s)
/-- CADENCE enable. -/
def execCadenceEnable (c : Nat) (w : Ox) (s : State) : Res := unitOk (c < 18) (fabRun c 0x49 (· == 2) w s)
/-- CADENCE disable. -/
def execCadenceDisable (c : Nat) (w : Ox) (s : State) : Res := unitOk (c < 18) (fabRun c 0x49 (· == 3) w s)

end Sys2Proof.Machine
end

