-- ==== Sys2Proof/Machine/Time.lean ====
section
/-!
DEFINITION. Fabric time and its discipline, frame references and outputs, take sets (12), and the time and take instructions
(Tables OXI-15, OXI-16).
-/

namespace Sys2Proof.Machine

/-! ## Event 13 and set states -/

/-- Change the time unit. -/
def modTime (s : State) (f : TimeU → TimeU) : State := { s with time := f s.time }

/-- Whether a set is armed. -/
def armed (t : TakeSet) : Bool := t.st == .preparing || t.st == .ready

/-- The lead of a set in ns (Table TIME-7). -/
def leadOf (s : State) (t : TakeSet) : Nat :=
  let us := if t.domain then s.time.dleadUs else s.time.leadUs
  1000 * (if us = 0 then 1 else us)

/-- Event 13 in a set's owner. -/
def takeEv (s : State) (i : Nat) : State := evLatch s (getTake s i).owner 13

/-- The monotonic count of a set's instant in edge mode: fixed by its edge, or predicted while the reference is locked (R291). -/
def instPred (s : State) (a : Arm) : Option Nat :=
  match a.instMono with
  | some m => some m
  | none =>
    let r := getRef s a.ref
    if r.locked then some (r.lastMono + (a.edgesLeft + 1) * r.period + a.offset.toNat) else none

/-- Whether a set's readiness point is reached. -/
def pointReached (s : State) (t : TakeSet) : Bool :=
  match t.arm with
  | none => false
  | some a =>
    if a.timeMode then (a.inst.getD 0).toNat ≤ (now s).toNat + leadOf s t
    else (instPred s a).any fun m => m ≤ mono s + leadOf s t

/-- Whether a set's instant is fixed and reached; the take unit fires 12 ns before it (R295). -/
def instReached (s : State) (t : TakeSet) : Bool :=
  match t.arm with
  | none => false
  | some a =>
    if a.timeMode then (a.inst.getD 0).toNat ≤ (now s).toNat + 12
    else a.instMono.any fun m => m ≤ mono s + 12

/-- The arm of a slipped set: the next delivered edge after the missed one with the same offset, or, in time mode, the first
delivered edge of the slip reference after the missed instant (R291). (Log 50 DEDUCED.) -/
def slipArm (a : Arm) : Arm :=
  if a.timeMode then { ref := a.ref, timeMode := false, edgesLeft := 0, offset := 0, missed := a.inst }
  else { a with inst := none, instMono := none, judged := false
                edgesLeft := if a.instMono.isSome then 0 else a.edgesLeft + 1, missed := none }

/-- A set slips whole, or fails at the slip limit (R291, R292). (Log 50 DEDUCED.) -/
def slip (s : State) (i cause : Nat) : State :=
  let t := getTake s i
  if s.time.maxSlips != 0 && s.time.maxSlips < t.slips + 1 then
    takeDone (takeEv (modTake s i fun t => { t with st := .failed, cause := 4, arm := none, commit := false }) i) i
  else
    let s := countEv s 0x6005 t.owner (tenOf t.owner) 1
    takeDone (takeEv (modTake s i fun t =>
      { t with slips := satAdd 255 t.slips 1, cause := cause, commit := false, arm := t.arm.map slipArm }) i) i

/-- A set as it is judged: ready, and for a domain set committed (R291, R299); the cause otherwise. -/
def judgeCause (t : TakeSet) : Nat := if t.st != .ready then 1 else if t.domain && !t.commit then 2 else 0

/-- Judge a set at its readiness point. (Log 50 DEDUCED.) -/
def judge (s : State) (i : Nat) : State :=
  let t := getTake s i
  if !armed t || !pointReached s t || (t.arm.any fun a => a.judged) then s
  else if judgeCause t = 0 then modTake s i fun t => { t with arm := t.arm.map fun a => { a with judged := true } }
  else slip s i (judgeCause t)

/-! ## Application (R294 to R296) -/

/-- The state after a set's items in staging order, or the index of the first that does not end in OK, with the state it met. -/
def evalItems : List Item → Nat → State → (Option (Nat × Item × State)) × State
  | [], _, s => (none, s)
  | it :: rest, n, s =>
    let f := fabApply s it.c it.op.toNat it.w.imm it.w.B it.ka it.kb
    if it.bad || f.st != 0 then (some (n, it, s), s) else evalItems rest (n + 1) f.s

/-- A refused change of a locked entry is logged though nothing applies (R204). -/
def itemRefusal (s met : State) (it : Item) : State :=
  let i := fld it.w.imm 0 13
  if it.op = 0x44 && fld it.w.imm 16 2 != 2 && (getDkl met i).locked then deckleLocked s it.c i else s

/-- Apply a set at its instant: all its items, or none (R294). -/
def applySet (s : State) (i : Nat) : State :=
  let t := getTake s i
  let at_ := (t.arm.bind fun a => a.inst).getD (now s)
  match evalItems t.items 0 s with
  | (some (n, it, met), _) =>
    let s := itemRefusal s met it
    takeDone (takeEv (modTake s i fun t =>
      { t with st := .failed, cause := 3, failItem := n, commit := false, arm := none, applyAt := at_ }) i) i
  | (none, s') =>
    let walks := s'.home.walks.length != s.home.walks.length
    let s' := restartTakes s (modTake s' i fun t => { t with st := .applied, items := [], commit := false, arm := none, applyAt := at_ })
    let s' := takeDone (countEv s' 0x6004 t.owner (tenOf t.owner) 1) i
    if walks then startWalks s' none (some i) else takeEv s' i

/-- One set at the application point: applied if it was judged ready and still is, slipped otherwise (R293). -/
def atInstant (s : State) (i : Nat) : State :=
  let t := getTake s i
  if !armed t || !instReached s t then s
  else if judgeCause t = 0 then applySet s i
  else slip s i (judgeCause t)

/-- Sets due, in ascending number (R296). -/
def applyDue (s : State) (p : Nat → Bool) : State := forL ((List.range 64).filter p) s atInstant

/-! ## Steps of fabric time (R283, R298) -/

/-- The AT timer and the AT wait of a context meet fabric time (R229, R251). -/
def atTimer (s : State) (c : Nat) : State :=
  let x := getCtx s c
  let s := match x.atWait with
    | some t => if t.toNat ≤ (now s).toNat then evLatch (modCtx s c fun x => { x with atWait := none }) c 12 else s
    | none => s
  match (getCtx s c).wait with
  | .time t => if (getCtx s c).st == .waiting && t.toNat ≤ (now s).toNat then finishWait s c none else s
  | _ => s

/-- A time-mode set. -/
def timeMode (t : TakeSet) : Bool := t.arm.any fun a => a.timeMode

/-- What a step of fabric time does to AT waits and to time-mode sets. -/
def afterStep (s : State) : State :=
  let s := forL (List.range 18) s atTimer
  let s := forL ((List.range 64).filter fun i => timeMode (getTake s i)) s judge
  applyDue s fun i => timeMode (getTake s i)

/-- Event 19 for each bit of TIME_STATUS that sets. -/
def timeEv (o : TimeU) (s : State) : State :=
  let n := s.time
  let up (a b : Bool) (s : State) : State := if b && !a then powerEv s else s
  up o.locked n.locked (up o.holdover n.holdover (up o.ppsLost n.ppsLost (up o.stepped n.stepped (up o.unlocked n.unlocked s))))

/-- Fabric time is stepped to a value. (Log 49 DEDUCED.) -/
def stepTime (s : State) (v : W64) : State :=
  let o := s.time
  afterStep (timeEv o (modTime s fun t => { t with fab := v, stepped := true, steps := satAdd 0xFFFF t.steps 1 }))

/-! ## The discipline (R281, R282) -/

/-- Signed phase error of a captured time. -/
def phaseErr (c : W64) : Int :=
  let e : Int := (c.toNat % 1000000000 : Nat)
  if 500000000 ≤ e then e - 1000000000 else e

/-- Limit a rate offset (R280). -/
def clampAdj (v : Int) : Int := max (-500000) (min 500000 v)

/-- One servo update: I in units of 1/16 ns. (Log 49 DEDUCED.) -/
def servoStep (t : TimeU) (e : Int) : TimeU :=
  let i := max (-8000000) (min 8000000 (t.servo + e))
  { t with servo := i, adj := clampAdj (Int.tdiv (-(i + 8 * e)) 16) }

/-- The lock judgement of an edge in servo mode. -/
def lockStep (t : TimeU) (e : Int) : TimeU :=
  if e.natAbs ≤ 15 then
    let n := min 8 (t.goodRun + 1)
    { t with goodRun := n, badRun := 0, locked := t.locked || n == 8 }
  else
    let n := min 2 (t.badRun + 1)
    if n = 2 && t.locked then { t with goodRun := 0, badRun := n, locked := false, unlocked := true }
    else { t with goodRun := 0, badRun := n }

/-- TIME_PPS_EDGE: an edge that lay `ageNs` ago is qualified. (Log 49 DEDUCED.) -/
def execTimePpsEdge (ageNs : Nat) (s : State) : Res :=
  unitOk true (
    let o := s.time
    let c := o.fab - BitVec.ofNat 64 ageNs
    let e := phaseErr c
    let s := modTime s fun t => { t with pps := c, ppsErr := e, ppsMono := t.mono.toNat, holdover := false }
    if o.setAtPps then stepTime (modTime s fun t => { t with setAtPps := false }) (o.set + BitVec.ofNat 64 ageNs)
    else if o.mode = 1 then
      let s := timeEv o (modTime s fun t => lockStep t e)
      if o.thresh < e.natAbs then stepTime s (s.time.fab - BitVec.ofInt 64 e) else modTime s fun t => servoStep t e
    else s)

/-- PPS_LOSS_TIMEOUT. (Log 49 DEDUCED.) -/
def execPpsLossTimeout (s : State) : Res :=
  unitOk true (
    if mono s < s.time.ppsMono + 1500000000 then s
    else timeEv s.time (modTime s fun t =>
      { t with ppsLost := true, locked := false, goodRun := 0, holdover := t.holdover || t.mode == 1 }))

/-- SET_NOW. -/
def execSetNow (s : State) : Res := unitOk true (stepTime s s.time.set)

/-- SET_AT_PPS. -/
def execSetAtPps (s : State) : Res := unitOk true (modTime s fun t => { t with setAtPps := true })

/-- The mode as it acts: 0b11 acts as free-run. -/
def modeOf (v : Nat) : Nat := if v = 3 then 0 else v

/-- A change of mode (R281, R282). (Log 49 DEDUCED.) -/
def setMode (t : TimeU) (v : Nat) : TimeU :=
  let n := modeOf v
  let o := modeOf t.mode
  let t' := { t with mode := v }
  if n = o then t'
  else
    let t' := if o = 1 then { t' with locked := false, holdover := false } else t'
    if n = 0 then { t' with adj := 0 }
    else if n = 1 then { t' with servo := -16 * t.adj, goodRun := 0, badRun := 0 }
    else t'

/-- A write of TIME_CTRL (Table TIME-1). -/
def timeCtrlWrite (v : W32) (s : State) : State :=
  let s := modTime s fun t => { setMode t (fld v 30 2) with ppsPol := bit v 29, setAtPps := t.setAtPps || bit v 28, thresh := fld v 0 16 }
  if bit v 27 then stepTime s s.time.set else s

/-- TIME_MODE_WRITE. -/
def execTimeModeWrite (v : W32) (s : State) : Res := unitOk true (timeCtrlWrite v s)

/-- A write of TIME_ADJ (R280). -/
def timeAdjWrite (v : W32) (s : State) : State :=
  if s.time.mode = 2 then modTime s fun t => { t with adj := clampAdj (signed 24 (fld v 0 24)) } else s

/-- TIME_ADJ_WRITE. -/
def execTimeAdjWrite (v : W32) (s : State) : Res := unitOk true (timeAdjWrite v s)

/-! ## Frame references (R284 to R287) -/

/-- Periods of Table TIME-3 in tenths of a ns. -/
def framePeriods : List Nat :=
  [417083333, 416666667, 400000000, 333666667, 333333333, 208541667, 208333333, 200000000, 166833333, 166666667, 100000000,
   83416667, 83333333]

/-- Whether an interval lies within 100 ppm of a period. -/
def within100 (p10 iv : Nat) : Bool :=
  let d := if 10 * iv < p10 then p10 - 10 * iv else 10 * iv - p10
  d * 10000 ≤ p10

/-- The rate at which four intervals lock. -/
def lockRate (l : List Nat) : Option Nat :=
  (List.range 13).find? fun i => l.all (within100 (framePeriods.getD i 0))

/-- The average of intervals, 0 of none. -/
def avg (l : List Nat) : Nat := if l.isEmpty then 0 else sumBy id l / l.length

/-- Intervals of rising timestamps. -/
def intervalsOf : List Nat → List Nat
  | a :: b :: l => (b - a) :: intervalsOf (b :: l)
  | _ => []

/-- A reference unlocks; it delivers no edges, and its outputs hold their inactive level (R288). -/
def unlockRef (s : State) (r : Nat) (keep : List Nat) : State :=
  let s := modRef s r fun x => { x with locked := false, synthRun := 0, edges := keep, intervals := [] }
  forL ((List.range 2).filter fun o => (getOut s o).src == r) s fun s o => modOut s o fun x => { x with due := [] }

/-- A delivered edge fixes the instant of a set in edge mode (R290). -/
def armEdge (r tm : Nat) (tf : W64) (t : TakeSet) : TakeSet :=
  match t.arm with
  | some a =>
    if !armed t || a.timeMode || a.ref != r || a.instMono.isSome || (a.missed.any fun m => tf.toNat ≤ m.toNat) then t
    else if a.edgesLeft = 0 then
      let at_ := tf + a.offset
      { t with applyAt := at_, arm := some { a with instMono := some (tm + a.offset.toNat), inst := some at_ } }
    else { t with arm := some { a with edgesLeft := a.edgesLeft - 1 } }
  | none => t

/-- A delivered edge makes a pulse due at an output (R288): instants rounded to the 4 ns tick. (Log 51 DESIGN CHOICE.) -/
def dueOut (r tm : Nat) (synth : Bool) (x : FOut) : FOut :=
  if x.enable && x.src == r && (x.passSynth || !synth) then
    { x with due := x.due ++ [(tm + clamp 40 1000000 x.delay.toNat + 2) / 4 * 4] }
  else x

/-- The next edge closes a schedule's open window (R131). (Log 30 DEDUCED.) -/
def edgeCad (r : Nat) (c : Cad) : Cad := if c.on && c.ref == r then { c with opened := false } else c

/-- Deliver an edge to every user of a reference (R284). (Log 30 DEDUCED.) -/
def deliver (s : State) (r tm : Nat) (tf : W64) (synth : Bool) : State :=
  let s := modRef s r fun x =>
    let l := x.intervals ++ [tm - x.lastMono]
    let l := l.drop (l.length - 16)
    { x with last := tf, lastMono := tm, synthetic := synth, synthRun := if synth then x.synthRun + 1 else 0, intervals := l
             period := avg l, count := x.count + 1 }
  let tk := s.time.take.map fun e => (e.1, armEdge r tm tf e.2)
  let fo := (List.range 2).foldl (fun m o => tput {} m o (dueOut r tm synth (tget {} m o))) s.time.fout
  let cd := s.core.cad.map fun e => (e.1, edgeCad r e.2)
  let s := { s with time := { s.time with take := tk, fout := fo }, core := { s.core with cad := cd } }
  forL (List.range 18) s fun s c =>
    let s := evLatch s c (8 + r)
    match (getCtx s c).wait with
    | .frame q d _ => if q = r && (getCtx s c).st == .waiting then finishWait s c (some (d, tf)) else s
    | _ => s

/-- The predicted monotonic count of the next edge. -/
def predicted (x : FRef) : Nat := x.lastMono + x.period

/-- FRAME_REF_EDGE: an edge that lay `ageNs` ago is qualified. -/
def execFrameRefEdge (r ageNs : Nat) (s : State) : Res :=
  unitOk (r < 4) (
    let x := getRef s r
    let tm := mono s - ageNs
    let tf := now s - BitVec.ofNat 64 ageNs
    if !x.enable then s
    else if x.locked then
      let d := if tm < predicted x then predicted x - tm else tm - predicted x
      if d ≤ x.tol then deliver s r tm tf false
      else powerEv (unlockRef (modRef s r fun x => { x with jump := true }) r [tm])
    else
      let l := x.edges ++ [tm]
      let l := l.drop (l.length - 5)
      let iv := intervalsOf l
      match (if iv.length = 4 then lockRate iv else none) with
      | some k =>
        deliver (modRef s r fun x =>
          { x with locked := true, rate := k, edges := [], synthRun := 0, intervals := iv.drop 1, lastMono := l.getD 3 0 }) r tm tf false
      | none => modRef s r fun x => { x with edges := l })

/-- FRAME_EDGE_MISSING (R285). -/
def execFrameEdgeMissing (r : Nat) (s : State) : Res :=
  unitOk (r < 4) (
    let x := getRef s r
    if !x.locked || mono s < predicted x + x.tol + 100 then s
    else if x.flyEn && x.synthRun < x.flyMax then
      deliver s r (predicted x) (now s - BitVec.ofNat 64 (mono s - predicted x)) true
    else powerEv (unlockRef (modRef s r fun x => { x with lost := true }) r []))

/-- CSR address of a reference block. -/
def refAddr (r : Nat) : Nat := 0x70100 + 0x20 * r

/-- The fields of TIME_REF_CFG but enable. -/
def refFields (x : FRef) : W32 :=
  pack32 [fl 30 x.pol, fl 29 x.flyEn, (24, x.flyMax), (0, x.tol)]

/-- A write of TIME_REF_CFG (R287). (Log 86 DEDUCED.) -/
def refCfgWrite (r : Nat) (v : W32) (s : State) : State :=
  let x := getRef s r
  let differ := v &&& 0x7F00FFFF != refFields x
  if x.enable then
    let s := if differ then logAt s (refAddr r) 0x02 else s
    if bit v 31 then s else unlockRef (modRef s r fun x => { x with enable := false }) r []
  else
    modRef s r fun x =>
      let x := { x with pol := bit v 30, flyEn := bit v 29, flyMax := fld v 24 5, tol := fld v 0 16 }
      if bit v 31 then { x with enable := true, count := 0, edges := [], intervals := [] } else x

/-- FRAME_REF_ENABLE: a write with enable 1. (Log 86 DEDUCED.) -/
def execFrameRefEnable (r : Nat) (v : W32) (s : State) : Res := unitOk (r < 4) (refCfgWrite r (v ||| 0x80000000) s)

/-- FRAME_REF_DISABLE: a write that clears enable. (Log 86 DEDUCED.) -/
def execFrameRefDisable (r : Nat) (s : State) : Res := unitOk (r < 4) (refCfgWrite r (refFields (getRef s r) &&& 0x7FFFFFFF) s)

/-- FRAME_OUT_PULSE (R288). (Log 51 DESIGN CHOICE.) -/
def execFrameOutPulse (o : Nat) (s : State) : Res :=
  unitOk (o < 2) (
    let x := getOut s o
    let r := getRef s x.src
    match x.due with
    | t :: l =>
      if !x.enable || !r.locked || mono s < t then s
      else emit (modOut s o fun x => { x with due := l }) (.framePulse o (min x.width (r.period / 2)))
    | [] => s)

/-! ## Take sets -/

/-- TAKE_PREPARED (R289). -/
def execTakePrepared (s : Nat) (st : State) : Res :=
  unitOk (s < 64) (if (getTake st s).st == .preparing then takeReady (modTake st s fun t => { t with st := .ready }) s else st)

/-- TAKE_READINESS_POINT (R291). -/
def execTakeReadinessPoint (s : Nat) (st : State) : Res := unitOk (s < 64) (judge st s)

/-- TAKE_APPLICATION (R295, R296). -/
def execTakeApplication (sets : List Nat) (s : State) : Res :=
  unitOk (sets.all fun s => s < 64) (applyDue s sets.contains)

/-- TAKE_COMMIT_WRITE (R299). -/
def execTakeCommitWrite (s : Nat) (st : State) : Res := unitOk (s < 64) (modTake st s fun t => { t with commit := true })

/-- A set is freed: by TAKEDROP, or by a reset of its owner (R297). (Log 50 DEDUCED.) -/
def freeTake (s : State) (i : Nat) : State :=
  modTake s i fun t => { t with st := .free, owner := 0x1F, items := [], arm := none, commit := false }

/-- The sets a context owns. -/
def setsOf (s : State) (c : Nat) : List Nat := (s.time.take.filter fun e => e.2.owner == c).map fun e => e.1

/-- Free every set of a context (R297). -/
def freeTakes (s : State) (c : Nat) : State := forL (setsOf s c) s freeTake

/-! ## Instructions -/

/-- TIME. -/
def execTime (c : Nat) (w : Ox) (s : State) : Res :=
  unitOk (c < 18) (oxRun c 0x70 w { mods := 1, d := true } (fun _ _ => [])
    (fun s _ => retireK s c 0x70 w w.d (if bit w.mod 0 then s.time.mono else now s)) s)

/-- The time t of AT. -/
def atTime (x : Ctx) (w : Ox) : W64 := if bit w.mod 1 then kget x w.a else w.B

/-- AT in a form: shape, and the effect at t. -/
def atRun (c : Nat) (w : Ox) (arm : Bool) (eff : State → W64 → State) (s : State) : State :=
  if bit w.mod 0 != arm then s else
  oxRun c 0x71 w { mods := 3, a := bit w.mod 1, B := if bit w.mod 1 then 0 else 2 ^ 64 - 1 } (fun _ _ => [])
    (fun s x => eff s (atTime x w)) s

/-- AT, wait form. -/
def execAtWait (c : Nat) (w : Ox) (s : State) : Res :=
  unitOk (c < 18) (atRun c w false (fun s t =>
    if t.toNat ≤ (now s).toNat then retireSt s c 0x71 w 0 else waitWith s c 0x71 w (.time t)) s)

/-- AT, arm form. -/
def execAtArm (c : Nat) (w : Ox) (s : State) : Res :=
  unitOk (c < 18) (atRun c w true (fun s t =>
    retireSt (modCtx s c fun x => { x with atWait := some t }) c 0x71 w 0) s)

/-- AT_TIMER_EXPIRY. -/
def execAtTimerExpiry (c : Nat) (s : State) : Res := unitOk (c < 18) (atTimer s c)

/-- WAITFRAME. -/
def execWaitframe (c : Nat) (w : Ox) (s : State) : Res :=
  unitOk (c < 18) (oxRun c 0x72 w { d := true, imm := 3, B := 2 ^ 64 - 1 } (fun _ _ => [])
    (fun s _ => waitWith s c 0x72 w (.frame (fld w.imm 0 2) w.d (if w.B = 0 then none else some (mono s + w.B.toNat)))) s)

/-- WAITFRAME_TIMEOUT. -/
def execWaitframeTimeout (c : Nat) (s : State) : Res :=
  unitOk (c < 18) (
    match (getCtx s c).wait with
    | .frame _ d (some t) => if (getCtx s c).st == .waiting && t ≤ mono s then finishWait s c (some (d, 0)) else s
    | _ => s)

/-- TAKEADD. -/
def execTakeadd (c : Nat) (w : Ox) (s : State) : Res :=
  let i := fld w.imm 0 6
  unitOk (c < 18) (oxRun c 0x73 w { mods := 1, imm := 0x3F } (fun _ _ => [])
    (fun s _ =>
      let t := getTake s i
      if (t.owner != 0x1F && t.owner != c) || armed t then retireSt s c 0x73 w 2
      else
        let s := modTake s i fun t => { t with st := .staging, owner := c, items := if bit w.mod 0 then [] else t.items }
        retireSt (modCtx s c fun x => { x with staging := some i }) c 0x73 w 0) s)

/-- How TAKEARM arms a set (R290). -/
def armOf (w : Ox) : Arm :=
  let tm := bit w.imm 10
  { ref := fld w.imm 8 2, timeMode := tm, edgesLeft := fld w.imm 16 8, offset := if tm then 0 else w.B, inst := if tm then some w.B else none }

/-- TAKEARM. A time-mode set whose readiness point has passed is judged at once (R291). (Log 50 DEDUCED.) -/
def execTakearm (c : Nat) (w : Ox) (s : State) : Res :=
  let i := fld w.imm 0 6
  let tm := bit w.imm 10
  unitOk (c < 18) (oxRun c 0x74 w { imm := 0x00FF073F, B := 2 ^ 64 - 1 }
    (fun _ _ => [(!tm && 2 ^ 32 ≤ w.B.toNat, 0x11), (tm && fld w.imm 16 8 != 0, 0x11)])
    (fun s _ =>
      let t := getTake s i
      if t.owner != c || t.items.isEmpty || armed t || (t.domain && !tm) then retireSt s c 0x74 w 2
      else
        let s := modTake s i fun t =>
          { t with st := .preparing, slips := 0, arm := some (armOf w), applyAt := if tm then w.B else t.applyAt }
        let s := modCtx s c fun x => { x with staging := if x.staging = some i then none else x.staging }
        let s := retireSt s c 0x74 w 0
        if tm then judge s i else s) s)

/-- TAKEDROP. -/
def execTakedrop (c : Nat) (w : Ox) (s : State) : Res :=
  let i := fld w.imm 0 6
  unitOk (c < 18) (oxRun c 0x75 w { imm := 0x3F } (fun _ _ => [])
    (fun s _ =>
      let t := getTake s i
      if t.owner != c || t.st == .applied then retireSt s c 0x75 w 2
      else
        let s := modCtx (freeTake s i) c fun x => { x with staging := if x.staging = some i then none else x.staging }
        retireSt s c 0x75 w 0) s)

end Sys2Proof.Machine
end

