-- ==== Sys2Proof/Machine/Reset.lean ====
section
/-!
DEFINITION. Unit resets (13): what each domain clears and keeps, the stand-in answers at entry (R306), generation tags (R307,
R308), holds (R310), tenant reset and removal (R302, R303).
-/

namespace Sys2Proof.Machine

/-! ## Entry in common -/

/-- A new entry into reset or hold: the next stand-in answer is logged again (R309). -/
def newEntry_ (s : State) (u : UnitId) : State :=
  { s with cnt := { s.cnt with standLogged := tput false s.cnt.standLogged (standIdx u) false } }

/-- The increment of a tag waits while a cell carries the value it would produce (R308). (Log 40 DEDUCED.) -/
def genWait (s : State) (u : UnitId) : Bool :=
  let g := genOf s u + 1
  s.core.pkts.any fun k => inBuf k && ((k.iunit == some u && k.istamp == g) || (k.tunit == some u && k.tstamp == g))

/-! ## Ports -/

/-- A message in ingress staging. -/
def isStaged (k : Pkt) : Bool := k.stage == .staged || k.stage == .heldBuf || k.stage == .heldRed

/-- A message on its way to an output, past admission. -/
def isOutbound (k : Pkt) : Bool := k.stage == .queued || k.stage == .voq || k.stage == .egress

/-- Missing cells of a message, filled with zero data and poisoned (Table CORE-12). -/
def fillTail (m : Msg) : Msg :=
  let n := dataLen m
  let bad := (List.range (ceilDiv n 64)).map fun i => m.poison.getD i false || m.data.length < min n (64 * i + 64)
  { m with data := slice m.data 0 n, poison := bad }

/-- Messages of a port's ingress staging are discarded (R96, R305). (Log 88 DEDUCED.) -/
def dropIngress (s : State) (p : Nat) : State :=
  let l := s.core.pkts.filter fun k => k.ing == p && isStaged k
  let s := setPkts s (s.core.pkts.filter fun k => !(k.ing == p && isStaged k))
  l.foldl (fun s k => tdWaste s 1 (2 * quireOf p) k.ten 1) s

/-- One tail mark in the counters of the egress's quire, or of the ingress's where a message leaves for no port (R103).
(Log 72 DEDUCED.) -/
def tailMark (s : State) (k : Pkt) : State :=
  if k.out < 96 then quireCount s (quireOf k.out) 0 k.ten 1
  else if k.ing < 96 then quireCount s (quireOf k.ing) 0 k.ten 1 else s

/-- Messages of a port whose last cells will not come (Table CORE-12). (Log 72 DEDUCED.) -/
def cutTails (s : State) (p : Nat) : State :=
  let cut (k : Pkt) : Bool := k.ing == p && !isStaged k && written k.msg < cells k.msg
  (s.core.pkts.filter cut).foldl (fun s k =>
    if isTlp k.msg.op then logOpen (dropPkt s k) (uPort p) 0
    else tailMark (modPkt s k.id fun x => { x with msg := fillTail x.msg }) k) s

/-- The stand-in form for a port: a port in DPC answers as dpc_ca selects (R68). -/
def portStandIn (s : State) (r : Pkt) (p : Nat) : State :=
  let x := getPort s p
  standIn s r (uPort p) (if x.rst == .held then 2 else 0) (x.dpcTrig && !x.dpcCa)

/-- A mirror copy is discarded and counted (R112). -/
def mirLose (s : State) (i : Nat) (t : Option Nat) : State :=
  mirFinish (countEv (modMir s i fun x => { x with lost := satAdd 0xFFFFFFFF x.lost 1, recent := satAdd 0xFFFFFFFF x.recent 1 }) 0x7003 0 t 1) i

/-- A message queued toward a port that enters reset: requests are answered by the stand-in responder, responses discarded and
counted, snoops held (R306, Table SVC-4). -/
def flushOut (s : State) (p : Nat) (k : Pkt) : State :=
  match k.msg.op with
  | .biSnp _ => modPkt s k.id fun x => { x with stage := .queued, moved := 0, sent := 0 }
  | _ =>
    let s := dropPkt s k
    match k.org with
    | .mirror i => mirLose s i k.ten
    | _ =>
      if k.resp then
        let l := s.core.opens.filter fun o => k.seq == 0 || o.pkt.id != k.seq
        countEv { s with core := { s.core with opens := l } } 0x7004 0 k.ten 1
      else portStandIn s k p

/-- The messages of a port that enters reset (R306). (Log 88 DEDUCED.) -/
def flushPort (s : State) (p : Nat) : State :=
  let s := cutTails (dropIngress s p) p
  let l := s.core.pkts.filter fun k => k.out == p && isOutbound k
  let s := l.foldl (fun s k => flushOut s p k) s
  let o := s.core.opens.filter fun o => o.port == p
  let s := { s with core := { s.core with opens := s.core.opens.filter fun o => o.port != p } }
  o.foldl (fun s o => portStandIn s o.pkt p) s

/-- Lane state a port reset clears: what training found and the tests that ran; settings, sticky events and error counts stay. -/
def lanesClear (x : Lanes) : Lanes :=
  { x with reversed := false, degraded := false, width := 0, laneOk := 0, marginRun := false, partnerMargin := false, patRun := false
           marginAborted := x.marginAborted || x.marginRun, marginDone := x.marginDone || x.marginRun
           ln := x.ln.map fun e => (e.1, { e.2 with locked := false, inverted := false }) }

/-- Link-layer state an IFL port's reset clears; settings, event bits and counters stay. -/
def iflClear (x : Ifl) : Ifl :=
  { cfg := x.cfg, evInit := x.evInit, evProto := x.evProto, evDown := x.evDown, evRecovery := x.evRecovery, evReplay := x.evReplay
    cnt := x.cnt }

/-- The registers of a port in reset (Table SVC-3). -/
def portClear (x : Port) : Port :=
  { x with link := .off, mode := 0, rate := 0, lanesUsed := 0, genTag := x.genTag + 1, rst := .inReset, ideSecure := false
           ideKeys := false, ideEpoch := 0, biActive := false, reqCredit := 0, rspCredit := 0, dev := .none, multiCache := false
           gwOk := false, ioSeq := 0, lanes := lanesClear x.lanes, ifl := iflClear x.ifl }

/-- A port enters reset: nothing where it is in reset or held already (R311). -/
def resetPort (s : State) (p : Nat) : State :=
  if (getPort s p).rst != .run then s else
  let s' := flushPort (ecmpFail (newEntry_ (modPort s p portClear) (uPort p)) p) p
  restartTakes s s'

/-- A reset that must wait: a handover of its quire runs (R317), or cells carry the next tag (R308). (Log 40 DEDUCED.) -/
def portWaits (s : State) (p : Nat) : Bool := (getQuire s (quireOf p)).busy || genWait s (uPort p)

/-- A port leaves reset or hold: its link trains when it is enabled and not held by DPC. -/
def portRun (s : State) (p : Nat) : State :=
  modPort s p fun x => { x with rst := .run, quireRst := false, link := if x.enabled && !x.dpcTrig then .training else .off }

/-- The internal reset of a port ends. -/
def endPort (s : State) (p : Nat) : State :=
  let x := getPort s p
  if x.rst != .inReset || x.quireRst then s
  else if heldBy s (uPort p) then newEntry_ (modPort s p fun x => { x with rst := .held }) (uPort p)
  else portRun s p

/-! ## Quires -/

/-- The lead ports of a quire. -/
def quirePorts (s : State) (q : Nat) : List Nat := ((List.range 8).map fun i => 8 * q + i).filter fun p => leadPort s p

/-- A meter refilled full. -/
def refill (t : Nat) (m : Meter) : Meter := if m.on then { m with tc := m.cap.1, tp := m.cap.2, last := t } else m

/-- A quire enters reset: its ports with it (R305, R307). -/
def resetQuire (s : State) (q : Nat) : State :=
  if (getQuire s q).rst != .run then s else
  let s := modQuire s q fun x =>
    { x with genTag := x.genTag + 1, rst := .inReset, wheelRx := 0, wheelTx := 0
             meter := x.meter.map fun e => (e.1, refill (mono s) e.2) }
  let s := newEntry_ s ⟨1, q⟩
  forL (quirePorts s q) s fun s p => modPort (resetPort s p) p fun x => { x with quireRst := true, rst := .inReset }

/-- A quire leaves reset or hold, and its ports with it. -/
def quireRun (s : State) (q : Nat) : State :=
  let s := modQuire s q fun x => { x with rst := .run }
  forL (quirePorts s q) s fun s p => endPort (modPort s p fun x => { x with quireRst := false }) p

/-- The internal reset of a quire ends. -/
def endQuire (s : State) (q : Nat) : State :=
  if (getQuire s q).rst != .inReset then s
  else if heldBy s ⟨1, q⟩ then newEntry_ (modQuire s q fun x => { x with rst := .held }) ⟨1, q⟩
  else quireRun s q

/-! ## Pool channels (R144) -/

/-- A channel leaves service: sheets lose their copy there, transactions and queued requests with no other copy are answered. -/
def leaveService (s : State) (ch : Nat) : State := loseQueue (loseTxns (loseChannel s ch) ch) ch

/-- Requests that a channel's reset leaves to their other copy: their answers are of no old generation. -/
def restamp (s : State) (ch : Nat) : State :=
  let f (r : Pkt) : Pkt := if r.out == 96 + ch && !r.resp then { r with tunit := none } else r
  let txns := s.home.txns.map fun t => { t with req := t.req.map f, chain := t.chain.map f }
  { s with home := { s.home with txns := txns, queue := s.home.queue.map f }, core := { s.core with pkts := s.core.pkts.map f } }

/-- Requests whose answers a channel had given and that have not crossed are answered by the stand-in responder; those answers
are discarded at the crossbar (R306, R307). -/
def chanOpens (s : State) (ch : Nat) : State :=
  let l := s.core.opens.filter fun o => o.port == 96 + ch
  let s := { s with core := { s.core with opens := s.core.opens.filter fun o => o.port != 96 + ch } }
  l.foldl (fun s o => standIn s o.pkt ⟨3, ch⟩ 0 false) s

/-- A pool channel enters reset. -/
def resetChan (s : State) (ch : Nat) : State :=
  if (getChan s ch).rst != .run then s else
  let s' := modChan s ch fun x =>
    { x with genTag := x.genTag + 1, rst := .inReset, stBefore := x.st, st := .inReset, scrubPos := 0, lapStart := mono s }
  restartTakes s (chanOpens (restamp (leaveService (newEntry_ s' ⟨3, ch⟩) ch) ch) ch)

/-- The state a channel returns to. (Log 52 DEDUCED.) -/
def chanBack : ChSt → ChSt
  | .initialising => .trained
  | st => st

/-- A channel leaves reset or hold. -/
def chanRun (s : State) (ch : Nat) : State := modChan s ch fun x => { x with rst := .run, st := chanBack x.stBefore, stBefore := .off }

/-- The internal reset of a channel ends. -/
def endChan (s : State) (ch : Nat) : State :=
  if (getChan s ch).rst != .inReset then s
  else if heldBy s ⟨3, ch⟩ then newEntry_ (modChan s ch fun x => { x with rst := .held }) ⟨3, ch⟩
  else chanRun s ch

/-! ## Data-mover channels and contexts -/

/-- A data-mover channel enters reset: its move ends with cause 0x8, its ownership and addresses clear (Table SVC-3). -/
def resetMover (s : State) (ch : Nat) : State :=
  if (getMov s ch).rst != .run then s else
  newEntry_ (modMov (resetMove s ch) ch fun m =>
    { m with st := .inReset, rst := .inReset, owner := 0x1F, genTag := m.genTag + 1, src := 0, dst := 0, done := 0, len := 0, desc := 0
             fail := 0 }) ⟨6, ch⟩

/-- A data-mover channel leaves reset or hold. -/
def moverRun (s : State) (ch : Nat) : State := modMov s ch fun m => { m with st := .idle, rst := .run }

/-- The internal reset of a data-mover channel ends. -/
def endMover (s : State) (ch : Nat) : State :=
  if (getMov s ch).rst != .inReset then s
  else if heldBy s ⟨6, ch⟩ then newEntry_ (modMov s ch fun m => { m with rst := .held }) ⟨6, ch⟩
  else moverRun s ch

/-- The channels a context owns. -/
def moversOf (s : State) (c : Nat) : List Nat := (s.mov.ch.filter fun e => e.2.owner == c).map fun e => e.1

/-- A context enters reset, with its take sets and its channels (Table SVC-3, R250, R297). -/
def resetCtx (s : State) (c : Nat) : State :=
  if (getCtx s c).st == .inReset || (getCtx s c).st == .off then s else
  let s := freeTakes (ctxClear (newEntry_ s ⟨5, c⟩) c) c
  forL (moversOf s c) s resetMover

/-! ## Tenants (R301 to R303) -/

/-- Host-edge lead ports of a tenant. -/
def hostLeads (s : State) (t : Nat) : List Nat := (hostPorts s t).filter fun p => leadPort s p

/-- Zero the 64 counters of a tenant (Table SVC-2). -/
def zeroTenCtrs (s : State) (t : Nat) : State :=
  { s with cnt := { s.cnt with bank := (List.range 64).foldl (fun m k => tdel m (tcntAddr t k)) s.cnt.bank } }

/-- The replication groups that back a virtual switch's multicast groups are freed (R73). (Log 63 DEDUCED.) -/
def freeMcGroups (s : State) (t : Nat) : State :=
  ((getTen s t).vppb.flatMap fun v => v.2.mcGroup.map fun g => g.2).foldl
    (fun s g => modRgrp s g fun _ => {}) s

/-- The sessions a tenant owns. -/
def mirOwned (s : State) (t : Nat) : List Nat :=
  (s.core.mirror.filter fun e => mirOn e.2 && !bit e.2.ctrl 21 && fld e.2.ctrl 22 4 == t).map fun e => e.1

/-- Configuration space of a virtual switch at its reset values, bindings kept. -/
def vppbClear (x : Ten) : Ten :=
  { x with vppb := x.vppb.filterMap fun e => if e.2.bind == .none then none else some (e.1, { bind := e.2.bind })
           poolWin := 0, poolWinSet := false }

/-- Deficits of a participant return to 0 in every egress queue. -/
def clearDeficit (s : State) (t : Nat) : State :=
  let l := s.core.outq.map fun e => (e.1, { e.2 with deficit := tdel e.2.deficit t })
  { s with core := { s.core with outq := l } }

/-- Steps 1 to 4 of a tenant reset, and the walk of step 5 begun (R303). (Log 71 DEDUCED.) -/
def resetTenant (s : State) (t : Nat) : State :=
  let x := getTen s t
  if !x.exist || x.inReset then s else
  let s := newEntry_ (modTen s t fun x => { x with genTag := x.genTag + 1, inReset := true }) ⟨2, t⟩
  let s := flushTenant s t
  let s := forL (hostLeads s t) s resetPort
  let s := resetCtx s (ctxOf t)
  let s := modTen (freeMcGroups s t) t vppbClear
  let s := clearDeficit (zeroTenCtrs s t) t
  let s := forL (mirOwned s t) s fun s i => mirFinish (modMir s i fun m => { m with closing := true }) i
  { s with home := { s.home with walks := s.home.walks ++ [{ tenant := t, reset := true }] } }

/-- Deckles of a tenant that are not locked. -/
def tenDeckles (s : State) (t : Nat) : List Nat :=
  (s.dkl.tab.filter fun e => e.2.valid && !e.2.stw && e.2.ten == t && !(getDkl s e.1).locked).map fun e => e.1

/-- The last column of Table SVC-2: everything a removed tenant held is released. (Log 63 DEDUCED.) -/
def releaseTenant (s : State) (t : Nat) : State :=
  let own (m : Meter) : Bool := meterOwner m == some t
  let free (q : Nat) (s : State) : State :=
    let ms := ((getQuire s q).meter.filter fun e => own e.2).map fun e => e.1
    forL ms s fun s i => forL (meterPorts s q i) (modMeter s q i fun _ => {}) (releaseRed (some i))
  let s := forL (List.range 12) s fun s q => free q s
  let cad := s.core.cad.map fun e =>
    if e.2.owned && !bit e.2.ctrl 22 && fld e.2.ctrl 23 4 == t
    then (e.1, { e.2 with ctrl := setFld e.2.ctrl 31 1 0, opened := false, owned := false }) else e
  let mine (o : Nat) : Bool := o < 96 && portTen (getPort s o) == some t
  let outq := s.core.outq.map fun e => if mine (e.1 / 16) then (e.1, { e.2 with cir := 0, pir := 0, burst := 0, bc := 0, bp := 0 }) else e
  let rg := s.core.rgrp.map fun e =>
    if rgValid e.2.header && !rgKind1 e.2.header && rgTen e.2.header == t then (e.1, { e.2 with header := setFld e.2.header 63 1 0 }) else e
  let s := { s with core := { s.core with cad := cad, outq := outq, rgrp := rg } }
  let s := clearDeckles s (tenDeckles s t)
  let sel := (List.range 64).foldl (fun m k => tdel m (tselAddr t k)) s.cnt.sel
  let s := zeroTenCtrs { s with cnt := { s.cnt with sel := sel } } t
  let g := (getCtx s (ctxOf t)).genTag
  let s := setCtx s (ctxOf t) { genTag := g }
  modTen s t fun x => { genTag := x.genTag }

/-- The internal part of a tenant reset has ended: its walk is done and its host ports are out of their internal resets. -/
def tenantQuiet (s : State) (t : Nat) : Bool :=
  !(s.home.walks.any fun w => w.reset && w.tenant == t) && (hostLeads s t).all fun p => (getPort s p).rst != .inReset

/-- Step 6 of a tenant reset, and the release of a removal (R302, R303). (Log 71 DEDUCED.) -/
def endTenant (s : State) (t : Nat) : State :=
  let x := getTen s t
  if !x.inReset || !tenantQuiet s t then s
  else
    let s := modTen (ctxRelease s (ctxOf t)) t fun x => { x with inReset := false }
    if x.removing then restartTakes s (releaseTenant s t) else s

end Sys2Proof.Machine
end

