-- ==== Sys2Proof/Machine/Slots.lean ====
section
/-!
DEFINITION. Slot power channels (17) and the SLOT instruction (Table OXI-17).
-/

namespace Sys2Proof.Machine

/-! ## Events (R396) -/

/-- Bits of SLOT_EVENT (Table SLOT-6). -/
inductive SlotEv where
  | pdf | latched | trip | pgUp | pgLost | uv | warn | seat
deriving DecidableEq, Repr

/-- Whether a bit is set. -/
def slotEvGet (x : Slot) : SlotEv → Bool
  | .pdf => x.evPdf | .latched => x.evLatched | .trip => x.evTrip | .pgUp => x.evPgUp | .pgLost => x.evPgLost | .uv => x.evUv
  | .warn => x.evWarn | .seat => x.evSeat

/-- Set a bit. -/
def slotEvSet (x : Slot) : SlotEv → Slot
  | .pdf => { x with evPdf := true }
  | .latched => { x with evLatched := true }
  | .trip => { x with evTrip := true }
  | .pgUp => { x with evPgUp := true }
  | .pgLost => { x with evPgLost := true }
  | .uv => { x with evUv := true }
  | .warn => { x with evWarn := true }
  | .seat => { x with evSeat := true }

/-- Bits the tenant of an associated port receives. -/
def slotEvTen : SlotEv → Bool
  | .seat | .pgUp | .pgLost | .latched | .pdf => true
  | _ => false

/-- Bits that set Power Fault Detected. -/
def slotEvFault : SlotEv → Bool
  | .trip | .latched | .pdf => true
  | _ => false

/-- The port associated with a slot (R50). -/
def hpPort (s : State) (i : Nat) : Option Nat := (s.port.find? fun e => e.2.hpEn && e.2.slotId == i).map fun e => e.1

/-- Change every vPPB bound to the port associated with a slot. -/
def hpVppbs (s : State) (i : Nat) (f : Vppb → Vppb) : State :=
  match hpPort s i with
  | some p => (bindingsOf s p).foldl (fun s b => modVppb s b.1 b.2 f) s
  | none => s

/-- Set an event bit: Steward and tenant events as it sets, Power Fault Detected. -/
def slotEv (s : State) (i : Nat) (e : SlotEv) : State :=
  let was := slotEvGet (getSlot s i) e
  let s := modSlot s i fun x => slotEvSet x e
  let s := if slotEvFault e then hpVppbs s i fun v => { v with powerFault := true } else s
  if was then s
  else
    let s := stewEv s
    let s := if e = .pdf then pldmEv s (13 + i) else s
    if slotEvTen e then tenEv? s ((hpPort s i).bind fun p => portTen (getPort s p)) else s

/-! ## Moves between states -/

/-- States that Table OXI-17 calls starting. -/
def starting (st : SlotSt) : Bool :=
  match st with | .waitSeat | .waitGrant | .ramp | .backoff | .waitVin => true | _ => false

/-- States in which the gate is on. -/
def gated (st : SlotSt) : Bool := st == .ramp || st == .on

/-- Withdraw a slot's power request. -/
def withdraw (s : State) (i : Nat) : State := { s with pwr := { s.pwr with slotQueue := s.pwr.slotQueue.filter (· != i) } }

/-- Gate off: power-good released, PERST asserted. -/
def gateOff (x : Slot) (st : SlotSt) : Slot := { x with st := st, pg := false, perstRel := false, armed := false, timer := false }

/-- A seated slot in wait_seat asks for its declared power (R381). -/
def askGrant (s : State) (i : Nat) : State :=
  if (getSlot s i).st == .waitSeat && (getSlot s i).seated then
    let s := modSlot s i fun x => { x with st := .waitGrant }
    { s with pwr := { s.pwr with slotQueue := s.pwr.slotQueue ++ [i] } }
  else s

/-- SLOT_WARN_N asserts. -/
def warnOn (s : State) (i : Nat) : State :=
  if (getSlot s i).warn then s else slotEv (modSlot s i fun x => { x with warn := true }) i .warn

/-- Enter ramp; a power-fail warning in force reaches the slot (R390). -/
def enterRamp (s : State) (i : Nat) : State :=
  let s := modSlot s i fun x => { x with st := .ramp, armed := false, timer := false }
  let x := getSlot s i
  if (s.pwrfail && x.warnPwrfail) || x.vinLow then warnOn s i else s

/-- Leaving on other than by OFF sets pg_lost. -/
def pgLost (s : State) (i : Nat) : State := if (getSlot s i).st == .on then slotEv s i .pgLost else s

/-- A slot enters latched and releases its grant. -/
def latch (s : State) (i : Nat) : State := slotEv (modSlot s i fun x => { gateOff x .latched with granted := 0, grantDue := false }) i .latched

/-- A trip or timeout ends an attempt (R387); in autonomous hold it latches (R393). -/
def endAttempt (s : State) (i cause : Nat) : State :=
  let s := slotEv (pgLost s i) i .trip
  let s := modSlot s i fun x => { gateOff x x.st with cause := cause }
  let x := getSlot s i
  if !s.slotHold && x.retry < fld x.ramp 12 3 then modSlot s i fun x => { x with st := .backoff } else latch s i

/-- A slot goes off as OFF does (R388): its grant stays until its output has fallen. -/
def slotOff (s : State) (i cause : Nat) : State :=
  withdraw (modSlot s i fun x => { gateOff x .off with retry := 0, cause := cause, grantDue := x.granted != 0 }) i

/-! ## Events at a slot -/

/-- PRESENCE_CHANGE. -/
def execPresenceChange (s : Nat) (long short : Bool) (st : State) : Res :=
  unitOk (s < 32) (modSlot st s fun x => { x with long := long, short := short })

/-- SEATED_QUALIFIED: the present levels have held for 50 ms (R380). (Log 38 DEDUCED.) -/
def execSeatedQualified (s : Nat) (st : State) : Res :=
  unitOk (s < 32) (
    let x := getSlot st s
    let st := if x.presenceDetect == x.long then st
      else hpVppbs (modSlot st s fun x => { x with presenceDetect := x.long }) s fun v => { v with presenceChanged := true }
    if x.long && x.short && !x.seated then askGrant (slotEv (modSlot st s fun x => { x with seated := true }) s .seat) s else st)

/-- SEATING_LOST (R381, R389, R393). -/
def execSeatingLost (s : Nat) (st : State) : Res :=
  unitOk (s < 32) (
    let x := getSlot st s
    if !x.seated || (x.long && x.short) then st
    else
      let st := slotEv (modSlot st s fun x => { x with seated := false }) s .seat
      match x.st with
      | .waitGrant => withdraw (modSlot st s fun x => { x with st := .waitSeat }) s
      | .ramp | .on =>
        let st := modSlot (pgLost st s) s fun x => { x with cause := 4 }
        if st.slotHold then latch st s else modSlot st s fun x => { gateOff x .off with granted := 0, grantDue := false }
      | _ => st)

/-- The limit of the slot budget (R403). -/
def slotLimit (s : State) : Nat := tget 0 s.pwr.limit 6

/-- Power granted to slots. -/
def slotGranted (s : State) : Nat := sumBy (fun e => e.2.granted) s.slot

/-- SLOT_BUDGET_GRANT: the oldest request is granted when it fits (R403). -/
def execSlotBudgetGrant (s : State) : Res :=
  unitOk true (
    match s.pwr.slotQueue with
    | i :: l =>
      let x := getSlot s i
      if s.slotHold || x.st != .waitGrant || slotLimit s < slotGranted s - x.granted + x.declared then s
      else
        let s := { s with pwr := { s.pwr with slotQueue := l } }
        enterRamp (modSlot s i fun x => { x with granted := x.declared, grantDue := false }) i
    | [] => s)

/-- BREAKER_ARMED (R382). -/
def execBreakerArmed (s : Nat) (st : State) : Res :=
  unitOk (s < 32) (if (getSlot st s).st == .ramp then modSlot st s fun x => { x with armed := true } else st)

/-- POWER_GOOD_QUALIFIED (R382, R386). -/
def execPowerGoodQualified (s : Nat) (st : State) : Res :=
  unitOk (s < 32) (
    let x := getSlot st s
    if x.st != .ramp || !x.armed || x.timer then st
    else slotEv (modSlot st s fun x => { x with st := .on, pg := true }) s .pgUp)

/-- PERST_RELEASE_TIMER. -/
def execPerstReleaseTimer (s : Nat) (st : State) : Res :=
  unitOk (s < 32) (if (getSlot st s).st == .on then modSlot st s fun x => { x with perstRel := true } else st)

/-- RAMP_TIMEOUT (R383). -/
def execRampTimeout (s : Nat) (st : State) : Res :=
  unitOk (s < 32) (if (getSlot st s).st == .ramp then endAttempt st s 3 else st)

/-- FAST_TRIP (R384). -/
def execFastTrip (s : Nat) (st : State) : Res :=
  unitOk (s < 32) (if gated (getSlot st s).st then endAttempt st s 1 else st)

/-- The breaker watches a slot (R385). -/
def breakerOn (x : Slot) : Bool := x.st == .on || (x.st == .ramp && x.armed)

/-- BREAKER_THRESHOLD_CROSS. -/
def execBreakerThresholdCross (s : Nat) (above : Bool) (st : State) : Res :=
  unitOk (s < 32) (if breakerOn (getSlot st s) then modSlot st s fun x => { x with timer := above } else st)

/-- BREAKER_EXPIRY. -/
def execBreakerExpiry (s : Nat) (st : State) : Res :=
  unitOk (s < 32) (if breakerOn (getSlot st s) && (getSlot st s).timer then endAttempt st s 2 else st)

/-- BACKOFF_END (R387, R393). -/
def execBackoffEnd (s : Nat) (st : State) : Res :=
  unitOk (s < 32) (
    let x := getSlot st s
    if x.st != .backoff then st
    else if st.slotHold then latch st s
    else if x.seated then enterRamp (modSlot st s fun x => { x with retry := x.retry + 1 }) s
    else modSlot st s fun x => { x with st := .waitSeat, granted := 0, grantDue := false })

/-- RETRY_COUNT_RESET. -/
def execRetryCountReset (s : Nat) (st : State) : Res :=
  unitOk (s < 32) (if (getSlot st s).st == .on then modSlot st s fun x => { x with retry := 0 } else st)

/-- SLOT_GRANT_RELEASE (R388). -/
def execSlotGrantRelease (s : Nat) (st : State) : Res :=
  unitOk (s < 32) (if (getSlot st s).grantDue then modSlot st s fun x => { x with granted := 0, grantDue := false } else st)

/-- VIN_WARN (R390). -/
def execVinWarn (s : Nat) (st : State) : Res :=
  unitOk (s < 32) (
    let st := modSlot st s fun x => { x with vinLow := true }
    if gated (getSlot st s).st then warnOn st s else st)

/-- WARN_RELEASE: VIN and PWRFAIL_IN_N have been good for 1 ms; a failed pass device keeps the warning (R391). -/
def execWarnRelease (s : Nat) (st : State) : Res :=
  unitOk (s < 32) (
    let st := modSlot st s fun x => { x with vinLow := false }
    let x := getSlot st s
    if (st.pwrfail && x.warnPwrfail) || x.st == .pdf then st else modSlot st s fun x => { x with warn := false })

/-- PWRFAIL_IN_ASSERT. -/
def execPwrfailInAssert (low : Bool) (s : State) : Res :=
  unitOk true (
    let s := { s with pwrfail := low }
    if low then forL ((List.range 32).filter fun i => gated (getSlot s i).st && (getSlot s i).warnPwrfail) s warnOn else s)

/-- VIN_UNDERVOLTAGE (R390): the grant and the retry count stay. -/
def execVinUndervoltage (s : Nat) (st : State) : Res :=
  unitOk (s < 32) (
    if gated (getSlot st s).st then
      slotEv (modSlot (pgLost st s) s fun x => { gateOff x .waitVin with cause := 5 }) s .uv
    else st)

/-- VIN_RESTORED. (Log 38 DEDUCED.) -/
def execVinRestored (s : Nat) (st : State) : Res :=
  unitOk (s < 32) (
    let x := getSlot st s
    if x.st != .waitVin || st.slotHold then st
    else if x.seated then enterRamp st s
    else modSlot st s fun x => { x with st := .waitSeat, granted := 0, grantDue := false })

/-- PASS_DEVICE_FAILURE (R391). -/
def execPassDeviceFailure (s : Nat) (st : State) : Res :=
  unitOk (s < 32) (
    let x := getSlot st s
    if gated x.st || x.st == .pdf || x.st == .inReset then st
    else
      let st := withdraw st s
      slotEv (modSlot st s fun x =>
        { gateOff x .pdf with cause := 6, iso := x.iso || x.isoEn, warn := true, granted := 0, grantDue := false }) s .pdf)

/-- CONTROL_EXCHANGE_LOSS (R393). -/
def execControlExchangeLoss (s : State) : Res := unitOk true { s with slotHold := true }

/-- CONTROL_EXCHANGE_RESUME. -/
def execControlExchangeResume (s : State) : Res := unitOk true (if s.slotHold then stewEv { s with slotHold := false } else s)

/-! ## Reset (R395) -/

/-- A slot enters reset. -/
def resetSlot (s : State) (i : Nat) : State :=
  if (getSlot s i).st == .inReset then s else
  let s := slotOff s i (getSlot s i).cause
  newEntry_ (modSlot s i fun x => { x with st := .inReset, genTag := x.genTag + 1 }) ⟨4, i⟩

/-- The end of a slot's reset: off. -/
def endSlot (s : State) (i : Nat) : State := if (getSlot s i).st == .inReset then modSlot s i fun x => { x with st := .off } else s

/-! ## SLOT (Table OXI-17) -/

/-- Code of a state (Table SLOT-2). -/
def slotCode : SlotSt → Nat
  | .off => 0 | .waitSeat => 1 | .waitGrant => 2 | .ramp => 3 | .on => 4 | .backoff => 5 | .waitVin => 6 | .latched => 7 | .pdf => 8
  | .inReset => 9

/-- The slot status word (Table SLOT-6). -/
def slotStatus (s : State) (i : Nat) : W64 :=
  let x := getSlot s i
  pack64 [(60, slotCode x.st), (52, x.genTag.toNat), fl 51 x.long, fl 50 x.short, fl 49 x.seated, fl 48 x.pg, fl 47 x.perstRel, fl 46 x.warn,
    fl 45 x.iso, fl 44 s.slotHold, (41, x.retry), (38, x.cause), (16, x.granted), (0, x.declared)]

/-- A slot a tenant may read: held by a port of its own (R254). -/
def slotOwn (s : State) (t i : Nat) : Bool := s.port.any fun e => e.2.hpEn && e.2.slotId == i && portTen e.2 == some t

/-- SLOT in one op: what it does to an existing slot that is not in reset. -/
def slotRun (c : Nat) (row : Nat → Bool) (w : Ox) (eff : State → Nat → State) (s : State) : State :=
  let i := fld w.imm 0 5
  let op := fld w.imm 8 3
  if !row op then s else
  oxRun c 0x80 w { d := op == 4, imm := 0x71F, B := if op = 3 then 0xFFFF else 0 }
    (fun s _ => [(4 < op, 0x11), (!isStw c && (op != 4 || !slotOwn s (c - 2) i), 0x12)])
    (fun s _ => if (getSlot s i).st == .inReset && op != 1 then retireSt s c 0x80 w 7 else eff s i) s

/-- The completion of ON or OFF answers a pending host request: Command Completed sets (R67, R388, R456). (Log 58 DEDUCED.) -/
def cmdDone (s : State) (i : Nat) : State :=
  match hpPort s i with
  | some p =>
    if (getPort s p).hpPending then
      hpVppbs (modPort s p fun x => { x with hpPending := false }) i fun v => { v with cmdCompleted := true }
    else s
  | none => s

/-- SLOT ON; a reserved op field faults here. (Log 38 DEDUCED.) -/
def execSlotOn (c : Nat) (w : Ox) (s : State) : Res :=
  unitOk (c < 18) (slotRun c (fun n => n == 0 || 4 < n) w (fun s i =>
    if (getSlot s i).st != .off then retireSt s c 0x80 w 2
    else retireSt (cmdDone (askGrant (modSlot (tapEnd s) i fun x => { x with st := .waitSeat }) i) i) c 0x80 w 0) s)

/-- SLOT OFF (R388). (Log 38 DEDUCED.) -/
def execSlotOff (c : Nat) (w : Ox) (s : State) : Res :=
  unitOk (c < 18) (slotRun c (· == 1) w (fun s i =>
    let st := (getSlot s i).st
    let s := if st == .pdf || st == .inReset || st == .off then s else slotOff s i 0
    retireSt (cmdDone s i) c 0x80 w 0) s)

/-- SLOT CLEAR (R387, R391). -/
def execSlotClear (c : Nat) (w : Ox) (s : State) : Res :=
  unitOk (c < 18) (slotRun c (· == 2) w (fun s i =>
    match (getSlot s i).st with
    | .latched => retireSt (modSlot s i fun x => { x with st := .off, retry := 0 }) c 0x80 w 0
    | .pdf => retireSt (modSlot s i fun x => { x with st := .off, retry := 0, iso := false, warn := false }) c 0x80 w 0
    | _ => retireSt s c 0x80 w 2) s)

/-- SLOT DECLARE. -/
def execSlotDeclare (c : Nat) (w : Ox) (s : State) : Res :=
  unitOk (c < 18) (slotRun c (· == 3) w (fun s i =>
    let st := (getSlot s i).st
    if st == .on || starting st then retireSt s c 0x80 w 2
    else retireSt (modSlot s i fun x => { x with declared := fld w.B 0 16 }) c 0x80 w 0) s)

/-- SLOT STATUS. -/
def execSlotStatus (c : Nat) (w : Ox) (s : State) : Res :=
  unitOk (c < 18) (slotRun c (· == 4) w (fun s i => retireK s c 0x80 w w.d (slotStatus s i)) s)

end Sys2Proof.Machine
end

