-- ==== Sys2Proof/Machine/Power.lean ====
section
/-!
DEFINITION. The power arbiter (18), with the BUDGET instruction, and the pins it drives.
-/

namespace Sys2Proof.Machine

/-! ## Charges (Table PWR-1, R399) -/

/-- Units of an x4 of lanes at a rate code: 10 at 64 GT/s, 6 at 32 GT/s, 4 below. -/
def laneUnits (rate : Nat) : Nat := if rate = 5 then 10 else if rate = 4 then 6 else 4

/-- Whether a port's link is trained. -/
def trainedLink (x : Port) : Bool := x.link == .up || x.link == .recovery

/-- Class 0. (Log 54 DEDUCED.) -/
def fixedCharge (s : State) : Nat :=
  sumBy (fun e => if trainedLink e.2 then ceilDiv e.2.lanesUsed 4 * laneUnits e.2.rate else 0) s.port +
    sumBy (fun l => if (getLink s l).up then ceilDiv (getLink s l).lanes.width 4 * laneUnits (getLink s l).rate else 0) [0, 1] +
    12 * (s.pool.chan.filter fun e => e.2.st == .trained || e.2.st == .initialising || e.2.st == .ready || e.2.st == .grouped).length +
    20 + 10

/-- Running data-mover channels from `lo` below `hi`. -/
def moversRunning (s : State) (lo hi : Nat) : Nat :=
  (s.mov.ch.filter fun e => lo ≤ e.1 && e.1 < hi && e.2.st == .running).length

/-- Charge of a class while unthrottled. -/
def fullCharge (s : State) (c : Nat) : Nat :=
  match c with
  | 0 => fixedCharge s
  | 1 => (s.pool.chan.filter fun e => e.2.scrubEn && 1 ≤ e.2.maxShare).length
  | 2 => 2 * moversRunning s 64 72
  | 3 => moversRunning s 0 64
  | 4 => s.pwr.coreCharge
  | 5 => 16 * (s.pwr.burst.length + s.pwr.trainBurst.length + s.pwr.trainWait.length)
  | _ => slotGranted s

/-- Throttle level of a class. -/
def levelOf (s : State) (c : Nat) : Nat := tget 0 s.pwr.level c

/-- Present charge of a class (R399). (Log 54 DEDUCED.) -/
def charge (s : State) (c : Nat) : Nat :=
  if c = 0 || c = 4 || 6 ≤ c then fullCharge s c else fullCharge s c * (8 - levelOf s c) / 8

/-- Use: the present charges of classes 0 to 5 (R400). -/
def useOf (s : State) : Nat := sumBy (charge s) [0, 1, 2, 3, 4, 5]

/-- Limit of a class (Table PWR-3). -/
def limitReset (c : Nat) : Nat := if c = 6 then 0 else 0xFFFF
/-- PWR_CLASS_LIM[c]. -/
def limitOf (s : State) (c : Nat) : Nat := tget (limitReset c) s.pwr.limit c

/-- The effective cap (R400). -/
def effCap (s : State) : Nat := min s.pwr.cap s.pwr.tcap

/-! ## The evaluation (R400, R401) -/

/-- Change a level by one; class 4 at most once per pace window. (Log 53 DEDUCED.) -/
def stepLevel (s : State) (c : Nat) (up : Bool) : State :=
  if c = 4 && s.pwr.class4Moved then s else
  let l := if up then levelOf s c + 1 else levelOf s c - 1
  { s with pwr := { s.pwr with level := tput 0 s.pwr.level c l, class4Moved := s.pwr.class4Moved || c == 4 } }

/-- The first class that can be throttled. (Log 53 DEDUCED.) -/
def nextThrottle (s : State) : Option Nat := [1, 2, 3, 4, 5].find? fun c => levelOf s c < 8 && 0 < fullCharge s c

/-- The last class that can be released. -/
def nextRelease (s : State) : Option Nat := [5, 4, 3, 2, 1].find? fun c => 0 < levelOf s c

/-- The one step toward the effective cap. -/
def capStep (s : State) (use : Nat) : State :=
  if effCap s < use then match nextThrottle s with | some c => stepLevel s c true | none => s
  else if use + s.pwr.hyst ≤ effCap s then match nextRelease s with | some c => stepLevel s c false | none => s
  else s

/-- The steps toward the class limits. -/
def limitSteps (s : State) : State :=
  forL [1, 2, 3, 4, 5] s fun s c => if limitOf s c < charge s c && levelOf s c < 8 then stepLevel s c true else s

/-- BUDGET_EVALUATION. -/
def execBudgetEvaluation (s : State) : Res :=
  let use := useOf s
  let stuck := effCap s < use && [1, 2, 3, 4, 5].all fun c => levelOf s c == 8 || fullCharge s c == 0
  let fx := fixedCharge s
  let t := limitSteps (capStep s use)
  unitOk true { t with pwr := { t.pwr with
    use := use, overRun := if stuck then s.pwr.overRun + 1 else 0, fixed := fx
    capUnmet := s.pwr.capUnmet && !(fx < s.pwr.fixed) } }

/-- CAP_UNMET: 100 evaluations, 1 ms, over the effective cap with nothing left to throttle. (Log 53 DEDUCED.) -/
def execCapUnmet (s : State) : Res :=
  unitOk true (
    if s.pwr.overRun < 100 || s.pwr.capUnmet then s
    else pldmEv (powerEv { s with pwr := { s.pwr with capUnmet := true, evCap := true } }) 12)

/-! ## Training bursts (R402) -/

/-- TRAINING_BURST_GRANT: the first waiting burst, when use with its own charge is within the cap and class 5 allows it.
(Log 56 DEDUCED.) -/
def execTrainingBurstGrant (s : State) : Res :=
  unitOk true (
    match s.pwr.trainWait with
    | q :: l =>
      if useOf s ≤ effCap s && levelOf s 5 < 8 then
        { s with pwr := { s.pwr with trainWait := l, trainBurst := s.pwr.trainBurst ++ [q] } }
      else s
    | [] => s)

/-! ## Supplies and thermal control (R404 to R406) -/

/-- AVS_WRITE_FAILURE. -/
def execAvsWriteFailure (s : State) : Res :=
  unitOk true (
    let was := s.pwr.evAvs
    let s := { s with pwr := { s.pwr with avsFault := true, evAvs := true } }
    if was then s else powerEv s)

/-- t_crit of the grade. -/
def tCrit (s : State) : Nat := if s.glb.grade then 0xA9 else 0xA4
/-- t_hot: as written, or 5 °C below the grade's maximum. -/
def tHot (s : State) : Nat := s.pwr.tHot.getD (tCrit s - 5)
/-- A sensor's present reading. -/
def tempOf (s : State) (i : Nat) : Nat := tget 0 s.pwr.temp i

/-- THERMAL_CAP_STEP. A rise of the cap in force clears cap_unmet. -/
def execThermalCapStep (s : State) : Res :=
  let l := List.range 8
  let t := s.pwr.tcap
  let t' := if l.any fun i => tHot s ≤ tempOf s i then max 800 (t - 10)
    else if l.all fun i => tempOf s i + 5 < tHot s then min 1650 (t + 10) else t
  unitOk true { s with pwr := { s.pwr with tcap := t', capUnmet := s.pwr.capUnmet && !(effCap s < min s.pwr.cap t') } }

/-- Whether some sensor crosses a threshold upwards. (Log 53 DEDUCED.) -/
def crossed (s : State) (temps : List Nat) (t : Nat) : Bool :=
  (List.range 9).any fun i => tempOf s i < t && t ≤ temps.getD i 0

/-- The sensor with the highest reading, the first of equals: the one a temperature event names. (Log 39 DEDUCED.) -/
def hottest (ts : List Nat) : Nat := (ts.findIdx? fun t => t == ts.foldl max 0).getD 0

/-- TEMP_REFRESH: nine readings in °C + 64. (Log 53 DEDUCED.) -/
def execTempRefresh (temps : List Nat) (s : State) : Res :=
  let ts := temps.map fun t => t % 256
  unitOk (temps.length == 9) (
    let hot := crossed s ts (tHot s)
    let crit := crossed s ts (tCrit s)
    let oldHot := s.pwr.evHot
    let oldCrit := s.pwr.evCrit
    let put (m : Tab Nat) : Tab Nat := (List.range 9).foldl (fun m i => tput 0 m i (ts.getD i 0)) m
    let peak := (List.range 9).foldl (fun m i => tput 0 m i (max (tget 0 m i) (ts.getD i 0))) s.pwr.peak
    let core := (ts.take 4).foldl max 0
    let s := { s with
      pwr := { s.pwr with temp := put s.pwr.temp, peak := peak, evHot := s.pwr.evHot || hot, evCrit := s.pwr.evCrit || crit }
      glb := { s.glb with ageTjMax := max s.glb.ageTjMax core }
      pace := { s.pace with hourTj := max s.pace.hourTj core } }
    let s := if hot && !oldHot then pldmEv (powerEv s) (hottest ts + 1) else s
    if crit && !oldCrit then pldmEv (powerEv s) (hottest ts + 1) else s)

/-- ALERT_N: asserted while one of the bits that hold it is 1 (R39, R391, R396, R405, R432). -/
def alertN (s : State) : Bool :=
  s.pace.floorAlarm || s.pwr.evCrit || s.stk.strapFault || s.slot.any fun e => e.2.evLatched || e.2.evPdf || e.2.st == .pdf

/-! ## BUDGET (Table OXI-18) -/

/-- BUDGET in one op. (Log 53 DEDUCED.) -/
def budgetRun (c : Nat) (row : Nat → Bool) (w : Ox) (eff : State → Nat → State) (s : State) : State :=
  let op := fld w.imm 0 4
  let cls := fld w.imm 8 8
  if !row op then s else
  oxRun c 0x81 w { d := op == 2, imm := if op = 0 then 0xF else 0xFF0F, B := if op < 2 then 0xFFFF else 0 }
    (fun _ _ => [(2 < op, 0x11), (op == 0 && (fld w.B 0 16 < 800 || 1650 < fld w.B 0 16), 0x11),
      (op == 1 && (cls == 0 || 6 < cls), 0x11), (op == 2 && 6 < cls && cls != 0xFF, 0x11), (!isStw c && op < 2, 0x12)])
    (fun s _ => eff s cls) s

/-- BUDGET cap; a reserved op faults here. (Log 53 DEDUCED.) -/
def execBudgetCap (c : Nat) (w : Ox) (s : State) : Res :=
  unitOk (c < 18) (budgetRun c (fun n => n == 0 || 2 < n) w (fun s _ =>
    let n := fld w.B 0 16
    retireSt { s with pwr := { s.pwr with cap := n, capUnmet := s.pwr.capUnmet && !(s.pwr.cap < n) } } c 0x81 w 0) s)

/-- BUDGET limit. -/
def execBudgetLimit (c : Nat) (w : Ox) (s : State) : Res :=
  unitOk (c < 18) (budgetRun c (· == 1) w (fun s cls =>
    retireSt { s with pwr := { s.pwr with limit := tput (limitReset cls) s.pwr.limit cls (fld w.B 0 16) } } c 0x81 w 0) s)

/-- BUDGET read. (Log 53 DEDUCED.) -/
def execBudgetRead (c : Nat) (w : Ox) (s : State) : Res :=
  unitOk (c < 18) (budgetRun c (· == 2) w (fun s cls =>
    let v := if cls = 0xFF then (s.pwr.cap, s.pwr.use) else (limitOf s cls, charge s cls)
    retireK s c 0x81 w w.d (pack64 [(32, v.1), (0, v.2 % 65536)])) s)

end Sys2Proof.Machine
end

