-- ==== Sys2Proof/Machine/Pace.lean ====
section
/-!
DEFINITION. Pace, the pace loop over AVSBus, the floor alarm and the pace history (02), with the PACE instruction.
-/

namespace Sys2Proof.Machine

/-- Window length: values 11 to 15 act as 10 (Table PACE-3). -/
def windowLog (v : BitVec 4) : Nat := min 10 v.toNat

/-- The cap target of class 4 (R399). -/
def capTarget (s : State) : Nat := 1250 + (s.pwr.target - 1250) * (8 - levelOf s 4) / 8

/-- The effective target (R34). -/
def effTarget (s : State) : Nat := min s.pwr.target (capTarget s)

/-- The voltage after one evaluation (R35). -/
def loopStep (s : State) (p : Nat) : Nat :=
  let v := s.pwr.vcore
  let t := effTarget s
  if p < t && v < 850 then min (v + 5) 850
  else if t + s.pwr.paceHyst < p && 650 < v then max (v - 5) 650
  else v

/-- The loop's evaluation at the end of a window. -/
def loopEval (s : State) (p : Nat) : State :=
  if !s.pwr.loopEn then s else
  let v := loopStep s p
  let s' := { s with pwr := { s.pwr with vcore := v, unreachable := v == 850 && p < effTarget s } }
  if v = s.pwr.vcore then s' else emit s' (.avs v)

/-- The run of low windows and the floor alarm (R39). -/
def floorStep (s : State) (p : Nat) : State :=
  if s.pace.floorAlarm then s else
  let low := p < s.pace.floor && (!s.pwr.loopEn || s.pwr.vcore == 850)
  let run := if low then s.pace.lowRun + 1 else 0
  if run = 4 then powerEv { s with pace := { s.pace with floorAlarm := true, lowRun := 0 } }
  else { s with pace := { s.pace with lowRun := run } }

/-- PACE_WINDOW_END: `probe` cycles of the pace probe were counted, and the regulator reads back `amps` amperes. -/
def execPaceWindowEnd (probe amps : Nat) (s : State) : Res :=
  let p := probe / 2 ^ s.pace.runLog2 % 65536
  let s' := { s with
    pace := { s.pace with valid := true, pace := p, runLog2 := windowLog s.pace.windowLog2
                          hourPace := some (match s.pace.hourPace with | some m => min m p | none => p)
                          hourVcore := max s.pace.hourVcore s.pwr.vcore }
    pwr := { s.pwr with coreCharge := s.pwr.vcore * amps / 100, class4Moved := false } }
  unitOk true (cntAdd (loopEval (floorStep s' p) p) 0x90018 probe)

/-- A pace-history entry (Table PACE-6). -/
def paceEntry (s : State) : W64 :=
  pack64 [(48, s.pace.hourPace.getD 0), (38, max s.pace.hourVcore s.pwr.vcore), (30, s.pace.hourTj), (0, s.pace.hourIdx % 2 ^ 30)]

/-- PACE_HISTORY_HOUR: `meanTj` is the hour's mean core junction temperature in °C + 64 (R40, Table SVC-9). (Log 53 DEDUCED.) -/
def execPaceHistoryHour (meanTj : Nat) (s : State) : Res :=
  let l := s.pace.hist ++ [paceEntry s]
  unitOk true { s with
    pace := { s.pace with hist := l.drop (l.length - 256), hourIdx := s.pace.hourIdx + 1, hourPace := none
                          hourVcore := s.pwr.vcore, hourTj := ([0, 1, 2, 3].map (tempOf s)).foldl max 0 }
    glb := { s.glb with ageHours := s.glb.ageHours + 1
                        ageTjSum := s.glb.ageTjSum + BitVec.ofInt 64 ((meanTj : Int) - 64) } }

/-- A stored target (R34). -/
def clampTarget (n : Nat) : Nat := clamp 1250 2400 n

/-- A write of PWR_PACE_TARGET (Table PACE-4). -/
def paceTargetWrite (s : State) (v : W32) : State :=
  { s with pwr := { s.pwr with loopEn := bit v 31, paceHyst := fld v 16 12, target := clampTarget (fld v 0 16) } }

/-- PACE_TARGET_WRITE. -/
def execPaceTargetWrite (v : W32) (s : State) : Res := unitOk true (paceTargetWrite s v)

/-- A write of CORE_PACE_CTRL (Table PACE-3): floor_alarm clears and restarts its run; a locked pace_floor stays (R449). -/
def paceCtrlWrite (s : State) (v : W32) : State :=
  let locked := bit s.glb.lock 4
  let p := s.pace
  let s' := { s with pace := { p with
    floorAlarm := p.floorAlarm && !bit v 31, lowRun := if bit v 31 then 0 else p.lowRun
    windowLog2 := BitVec.ofNat 4 (fld v 16 4), floor := if locked then p.floor else fld v 0 16 } }
  if locked && fld v 0 16 != p.floor then logAt s' 0x40104 0x01 else s'

/-- PACE_CTRL_WRITE. -/
def execPaceCtrlWrite (v : W32) (s : State) : Res := unitOk true (paceCtrlWrite s v)

/-- CORE_PACE_STATUS. -/
def paceStatus (s : State) : W32 := pack32 [fl 31 s.pace.valid, (0, s.pace.pace)]

/-- PWR_VCORE_STATUS. -/
def vcoreStatus (s : State) : W32 := BitVec.ofNat 32 s.pwr.vcore

/-- PACE in one op. -/
def paceRun (c : Nat) (row : Nat → Bool) (w : Ox) (eff : State → State) (s : State) : State :=
  let op := fld w.imm 0 4
  if !row op then s else
  oxRun c 0x82 w { d := op == 2 || op == 3, imm := 0xF, B := if op = 0 then 0xFFFF else if op = 1 then 1 else 0 }
    (fun _ _ => [(3 < op, 0x11), (!isStw c && op < 2, 0x12)]) (fun s _ => eff s) s

/-- PACE target; a reserved op faults here. -/
def execPaceTarget (c : Nat) (w : Ox) (s : State) : Res :=
  unitOk (c < 18) (paceRun c (fun n => n == 0 || 3 < n) w
    (fun s => retireSt { s with pwr := { s.pwr with target := clampTarget (fld w.B 0 16) } } c 0x82 w 0) s)

/-- PACE loop. -/
def execPaceLoop (c : Nat) (w : Ox) (s : State) : Res :=
  unitOk (c < 18) (paceRun c (· == 1) w (fun s => retireSt { s with pwr := { s.pwr with loopEn := bit w.B 0 } } c 0x82 w 0) s)

/-- PACE read of CORE_PACE_STATUS. -/
def execPaceReadStatus (c : Nat) (w : Ox) (s : State) : Res :=
  unitOk (c < 18) (paceRun c (· == 2) w (fun s => retireK s c 0x82 w w.d ((paceStatus s).setWidth 64)) s)

/-- PACE read of PWR_VCORE_STATUS. -/
def execPaceReadVcore (c : Nat) (w : Ox) (s : State) : Res :=
  unitOk (c < 18) (paceRun c (· == 3) w (fun s => retireK s c 0x82 w w.d ((vcoreStatus s).setWidth 64)) s)

end Sys2Proof.Machine
end

