-- ==== Sys2Proof/Machine/Ports.lean ====
section
/-!
DEFINITION. Fabric ports (03): enabling and widths (R13 to R15, R47 to R49), training (R51, R52, R60, R366 to R372), links lost,
DPC (R68), hot plug (R67, R456), multicast enables (R73), IDE (R62, R63), and gateways' bring-up (R336).
-/

namespace Sys2Proof.Machine

/-! ## PORT_CFG (R15, R48, R49, R323) -/

/-- The positions a lead of a width takes (Table ARCH-2). -/
def posOf (p width : Nat) : List Nat := (List.range (if width = 1 then 2 else if width = 2 then 4 else 1)).map fun i => p + i

/-- Whether a lead may have a width. -/
def widthLegal (p width : Nat) : Bool := width == 0 || (width == 1 && p % 2 == 0) || (width == 2 && p % 4 == 0)

/-- Another enabled edge port of the device holds a PBR ID. -/
def pbrTaken (s : State) (p pbr : Nat) : Bool :=
  s.port.any fun e => e.1 != p && leadPort s e.1 && e.2.enabled && isEdge e.2 && cfgPbr e.2 == pbr

/-- The conditions of R49 and R323 on a port's fields. (Log 55 DEDUCED.) -/
def enableOk (s : State) (p : Nat) (x : Port) : Bool :=
  let r := roleOf x
  r ≤ 5 && widthLegal p (widthOf x) && (bit x.cfg 22 || bit x.cfg 21) && (!isEdge x || (getTen s (cfgTen x)).exist) &&
    (r != 5 || s.stk.mode == 3 || s.stk.mode == 4) && (r != 4 || s.stk.mode == 1 || s.stk.mode == 2) &&
    (!isEdge x || (cfgPbr x < 3584 && !pbrTaken s p (cfgPbr x)))

/-- Log a write of PORT_CFG that is ignored (R15, R48). (Log 55 DEDUCED.) -/
def cfgIgnored (s : State) (p : Nat) : State := logEvent s (uPort p) 0x02 0 0

/-- The bit cfg_error sets, and the refusal is logged. -/
def cfgError (s : State) (p off : Nat) : State :=
  logEvent (modPort s p fun x => { x with cfgError := true }) (uPort p) 0x11 off 0

/-- A width change is refused while a port of the old or the new group is enabled, or the quire is couched, handed over or in
reset (R15). -/
def widthRefused (s : State) (p new : Nat) : Bool :=
  let q := getQuire s (quireOf p)
  let g := posOf p (widthOf (getPort s p)) ++ posOf p new
  (widthLegal p new && g.any fun i => (getPort s i).enabled) || q.couched || q.busy || q.rst != .run

/-- The ports a width change absorbs lose their state (R14). -/
def absorb (s : State) (p new : Nat) : State :=
  if !widthLegal p new then s else
  forL ((posOf p new).drop 1) s fun s i => setPort s i { genTag := (getPort s i).genTag, refOk := (getPort s i).refOk }

/-- Start training, where nothing holds the link (R47, R51, R68, R365). -/
def startTraining (s : State) (p : Nat) : State :=
  let x := getPort s p
  if x.enabled && roleOf x != 0 && x.rst == .run && !x.dpcTrig && x.link == .off then modPort s p fun x => { x with link := .training }
  else s

/-- Link state of a port whose lanes idle. -/
def lanesIdle (x : Port) : Port :=
  { x with link := .off, mode := 0, rate := 0, lanesUsed := 0, biActive := false, ideSecure := false, reqCredit := 0, rspCredit := 0
           gwOk := false, dev := .none, multiCache := false, lanes := lanesClear x.lanes, ifl := iflClear x.ifl }

/-- A quire's waiting training burst is withdrawn when none of its links trains. -/
def dropBurst (s : State) (q : Nat) : State :=
  if (quirePorts s q).any fun p => (getPort s p).link == .training then s
  else { s with pwr := { s.pwr with trainWait := s.pwr.trainWait.filter (· != q) } }

/-- A write of PORT_CFG. (Log 55 DEDUCED.) -/
def portCfgWrite (s : State) (p : Nat) (v : W32) : State :=
  let x := getPort s p
  if !leadPort s p then s else
  if x.enabled then
    let s := if setFld v 31 1 1 == x.cfg then s else cfgIgnored s p
    if bit v 31 then s
    else dropBurst (ecmpFail (modPort s p fun x => lanesIdle { x with cfg := setFld x.cfg 31 1 0 }) p) (quireOf p)
  else
    let new := fld v 26 2
    if new != widthOf x && widthRefused s p new then cfgIgnored s p else
    let s := if new = widthOf x then s else absorb s p new
    let y : Port := { x with cfg := v }
    if !bit v 31 then setPort s p y
    else if !enableOk s p y then cfgError (setPort s p { y with cfg := setFld v 31 1 0 }) p 0
    else
      let s := setPort s p { y with lanes := { y.lanes with patRun := false } }
      startTraining (tapEnd { s with glb := { s.glb with portEverEnabled := true } }) p

/-- PORT_ENABLE. -/
def execPortEnable (p : Nat) (v : W32) (s : State) : Res := unitOk (p < 96) (if bit v 31 then portCfgWrite s p v else s)

/-- PORT_DISABLE. (Log 55 DEDUCED.) -/
def execPortDisable (p : Nat) (v : W32) (s : State) : Res := unitOk (p < 96) (if bit v 31 then s else portCfgWrite s p v)

/-- A write of PORT_HP (R50). (Log 55 DEDUCED.) -/
def portHpWrite (s : State) (p : Nat) (v : W32) : State :=
  if !leadPort s p then s
  else if bit v 31 && s.port.any (fun e => e.1 != p && e.2.hpEn && e.2.slotId == fld v 0 5) then cfgError s p 0x008
  else modPort s p fun x => { x with hpEn := bit v 31, dpcCa := bit v 30, fmCap := bit v 29, slotId := fld v 0 5 }

/-- PORT_HP_WRITE. -/
def execPortHpWrite (p : Nat) (v : W32) (s : State) : Res := unitOk (p < 96) (portHpWrite s p v)

/-! ## Training (R51, R52, R366 to R371) -/

/-- The rate ceiling of a port (Table FAB-2). -/
def maxRate (x : Port) : Nat := min 5 (fld x.cfg 23 3)

/-- Whether the two ends take different sides of equalisation, where the role asks for it (R368). -/
def sidesOk (x : Port) (r : Partner) : Bool := !(roleOf x == 3 || roleOf x == 4) || bit x.lanes.cfg 26 != r.eqDsp

/-- The rows of Table FAB-5 that apply: mode, lowest and highest rate. -/
def modeRows (x : Port) (r : Partner) : List (Nat × Nat × Nat) :=
  let role := roleOf x
  if role = 5 then (if r.ifl then [(5, 5, 5)] else []) else
  let m1 := if r.cxl256 && bit x.cfg 22 then [(1, 2, 5)] else []
  if role = 3 || role = 4 then m1 else
  m1 ++ (if r.cxl68 && bit x.cfg 22 && bit x.cfg 20 then [(2, 2, 4)] else []) ++
    (if r.pcieFlit && bit x.cfg 21 then [(3, 0, 5)] else []) ++ (if r.pcie && bit x.cfg 21 then [(4, 0, 4)] else [])

/-- The negotiated mode and rate. -/
def negotiate (x : Port) (r : Partner) : Option (Nat × Nat) :=
  let top := min (maxRate x) (min r.maxRate (if sidesOk x r then r.eqRate else min r.eqRate 1))
  ((modeRows x r).find? fun m => m.2.1 ≤ min top m.2.2).map fun m => (m.1, min top m.2.2)

/-- Whether receive polarity is found automatically (R367). -/
def autoPol (s : State) : Bool := s.glb.straps.lanePolarityAuto

/-- The lanes by offset that lock and equalise. -/
def goodLanes (s : State) (x : Port) (r : Partner) : BitVec 16 :=
  if autoPol s then r.laneOk else r.laneOk &&& ~~~(r.inverted ^^^ x.lanes.inv.setWidth 16)

/-- The offset of logical lane `k` in a configured width. -/
def laneAt (rev : Bool) (w k : Nat) : Nat := if rev then w - 1 - k else k

/-- The least width allowed (R371). -/
def minWidth (x : Port) (w : Nat) : Nat :=
  let code := fld x.lanes.cfg 28 3
  if bit x.lanes.cfg 31 then (if code ≤ 4 && 2 ^ code ≤ w then 2 ^ code else w) else w

/-- The trained width. -/
def chooseWidth (x : Port) (good : BitVec 16) (rev : Bool) (w : Nat) : Option Nat :=
  [16, 8, 4, 2, 1].find? fun n =>
    n ≤ w && minWidth x w ≤ n && (roleOf x != 5 || 4 ≤ n) && (List.range n).all fun k => bit good (laneAt rev w k)

/-- Code of a width (Table LANE-2). -/
def widthCode (n : Nat) : Nat := match n with | 16 => 4 | 8 => 3 | 4 => 2 | 2 => 1 | _ => 0

/-- Set a lane event: its Steward event as it sets (R377); `degraded` also tells the port's tenant. -/
def laneEv (s : State) (p : Nat) (get : Lanes → Bool) (set : Lanes → Lanes) (ten : Bool) : State :=
  let x := getPort s p
  let s := modPort s p fun x => { x with lanes := set x.lanes }
  if get x.lanes then s else
    let s := stewEv s
    if ten then tenEv? s (portTen x) else s

/-- eq_fail. -/
def eqFail (s : State) (p : Nat) : State := laneEv s p (·.evEqFail) (fun l => { l with evEqFail := true }) false

/-- The schedules of an output whose windows its link can no longer hold become degraded (R135). (Log 59 DEDUCED.) -/
def cadDegrade (s : State) (o : Nat) : State :=
  let l := s.core.cad.filter fun e => e.2.on
  forL (l.map fun e => e.1) s fun s i =>
    let c := getCad s i
    let above := (winsOf c).any fun w => !fracLe (overlapSum l i c w) (outLimit s o)
    if c.outp == o && above && !c.degraded then stewEv (modCad s i fun c => { c with degraded := true }) else s

/-- The GATEWAY message of a port (R336). -/
def gatewayMsg (s : State) (p : Nat) : Mgmt :=
  { sender := 0x3FF, receiver := 0x3FF, epoch := 0, sequence := 0,
    payload := [BitVec.ofNat 8 s.stk.domain, BitVec.ofNat 8 (fld (getPort s p).gw 16 4)] }

/-- The lane registers after a training. -/
def trainedLanes (s : State) (x : Port) (r : Partner) (good : BitVec 16) (rev : Bool) (w n : Nat) : Lanes :=
  let inv (o : Nat) : Bool := if autoPol s then bit r.inverted o else bit x.lanes.inv o
  let ln := (List.range n).foldl (fun m k => tput {} m k
    { tget {} m k with locked := true, inverted := inv (laneAt rev w k) }) x.lanes.ln
  { x.lanes with reversed := rev, degraded := n < w, width := widthCode n, laneOk := good, ln := ln }

/-- The link comes up; a stack link first exchanges INIT (R359). -/
def linkUp (s : State) (p mode rate n : Nat) (r : Partner) (lanes : Lanes) : State :=
  let w := 4 * span (getPort s p)
  let s := modPort s p fun x =>
    { x with link := if mode = 5 then .training else .up, mode := mode, rate := rate, lanesUsed := n, biActive := mode == 1 && bit x.cfg 17 && r.bi
             reqCredit := r.reqCredits, rspCredit := r.rspCredits, dev := r.dev, multiCache := r.multiCache, gwOk := false
             lanes := lanes, ifl := if mode = 5 then { iflClear x.ifl with st := .init } else x.ifl }
  let s := if n < w then laneEv s p (·.evDegraded) (fun l => { l with evDegraded := true }) true else s
  let s := if roleOf (getPort s p) == 4 then emit s (.mgmt p 0x0C (gatewayMsg s p)) else s
  cadDegrade s p

/-- A training fails: the port waits for its retry. (Log 56 DEDUCED.) -/
def trainFail (s : State) (p : Nat) : State := modPort s p fun x => { x with link := .down }

/-- LINK_TRAINED: what training found. A link that would reach 32 or 64 GT/s first waits for a training burst of its quire
(R369, R402). (Log 15 DESIGN CHOICE, 56 DEDUCED.) -/
def execLinkTrained (p : Nat) (r : Partner) (s : State) : Res :=
  unitOk (p < 96) (
    let x := getPort s p
    if !leadPort s p || x.link != .training || !x.refOk || x.ifl.st == .init then s else
    let s := if r.loopback then modPort s p fun x => { x with loopbackRefused := true } else s
    let w := 4 * span x
    let rev := r.reversed && bit x.lanes.cfg 27
    let good := goodLanes s x r
    match negotiate x r with
    | none => trainFail (if sidesOk x r then s else eqFail s p) p
    | some (mode, rate) =>
      match chooseWidth x good rev w with
      | none => trainFail (eqFail s p) p
      | some n =>
        let q := quireOf p
        if 4 ≤ rate && !s.pwr.trainBurst.contains q then
          if s.pwr.trainWait.contains q then s else { s with pwr := { s.pwr with trainWait := s.pwr.trainWait ++ [q] } }
        else linkUp s p mode rate n r (trainedLanes s x r good rev w n))

/-- TRAINING_RETRY. -/
def execTrainingRetry (p : Nat) (s : State) : Res :=
  unitOk (p < 96) (
    let x := getPort s p
    if x.link == .down && x.enabled && x.rst == .run && !x.dpcTrig && x.refOk then modPort s p fun x => { x with link := .training }
    else s)

/-- LOOPBACK_REQUEST_RECEIVED (R75). -/
def execLoopbackRequestReceived (p : Nat) (insists : Bool) (s : State) : Res :=
  unitOk (p < 96) (
    if (getPort s p).link != .training then s
    else
      let s := modPort s p fun x => { x with loopbackRefused := true }
      if insists then trainFail s p else s)

/-- LINK_RECOVERY_EXIT: a CXL or PCIe link regains symbol lock (R370). -/
def execLinkRecoveryExit (p : Nat) (s : State) : Res :=
  unitOk (p < 96) (
    let x := getPort s p
    if x.link == .recovery && x.mode != 5 then
      modPort s p fun x => { x with link := .up, lanes := { x.lanes with ln := x.lanes.ln.map fun e => (e.1, { e.2 with locked := e.1 < x.lanesUsed }) } }
    else s)

/-! ## Links lost and DPC (R68, R69, R370) -/

/-- Whether a downstream-edge port is bound. -/
def boundDown (s : State) (p : Nat) : Bool := roleOf (getPort s p) == 2 && !(bindingsOf s p).isEmpty

/-- Set or clear DPC Trigger Status on the vPPBs of a port. -/
def dpcStatus (s : State) (p : Nat) (b : Bool) : State :=
  (bindingsOf s p).foldl (fun s v => modVppb s v.1 v.2 fun x => { x with dpcStatus := b }) s

/-- A DPC trigger: a port reset and a hold. The hold begins first, so that the answers take the form of DPC. -/
def dpcTrigger (s : State) (p : Nat) : State :=
  let s := dpcStatus (modPort s p fun x => { x with dpcTrig := true }) p true
  resetPort (portCount s p 10 (portTen (getPort s p)) 1) p

/-- The end of a DPC hold. (Log 58 DEDUCED.) -/
def dpcRelease (s : State) (p : Nat) : State :=
  startTraining (dpcStatus (modPort s p fun x => { x with dpcTrig := false }) p false) p

/-- A link is lost from L0 or its Recovery fails. -/
def linkLost (s : State) (p : Nat) : State :=
  let s := portCount s p 11 (portTen (getPort s p)) 1
  let s := if (getPort s p).mode = 5 then
      stewIf (modPort s p fun x => { x with ifl := { x.ifl with evDown := true } }) (getPort s p).ifl.evDown true
    else s
  if boundDown s p then dpcTrigger s p else resetPort s p

/-- LINK_DOWN; it waits while a port reset must wait (R308, R317). -/
def execLinkDown (p : Nat) (s : State) : Res :=
  unitOk (p < 96) (
    let x := getPort s p
    if !trainedLink x || portWaits s p then s else linkLost s p)

/-- ERR_MESSAGE_RECEIVED: DPC Trigger Enable 0b01 takes ERR_FATAL, 0b10 either. -/
def execErrMessageReceived (p : Nat) (fatal : Bool) (s : State) : Res :=
  unitOk (p < 96) (
    let x := getPort s p
    let takes := (bindingsOf s p).any fun v =>
      let e := (getVppb s v.1 v.2).dpcEnable; e == 2 || (e == 1 && fatal)
    if x.link != .up || !boundDown s p || !takes || x.dpcTrig || portWaits s p then s else dpcTrigger s p)

/-- DPC_STATUS_CLEAR_BY_HOST. -/
def execDpcStatusClearByHost (p : Nat) (s : State) : Res := unitOk (p < 96) (if (getPort s p).dpcTrig then dpcRelease s p else s)

/-- DPC_TRIG_CLEAR. -/
def execDpcTrigClear (p : Nat) (s : State) : Res := unitOk (p < 96) (if (getPort s p).dpcTrig then dpcRelease s p else s)

/-- HOT_RESET_RECEIVED (R304). -/
def execHotResetReceived (p : Nat) (s : State) : Res :=
  unitOk (p < 96) (if roleOf (getPort s p) == 1 && trainedLink (getPort s p) && !portWaits s p then resetPort s p else s)

/-- A Secondary Bus Reset on a downstream vPPB (R304). -/
def secondaryReset (s : State) (t v : Nat) : State :=
  match (getVppb s t v).bind with
  | .dev p => if portWaits s p then s else resetPort s p
  | .ld p ld => emit s (.ldReset p ld)
  | _ => s

/-- SECONDARY_BUS_RESET. -/
def execSecondaryBusReset (t v : Nat) (s : State) : Res :=
  unitOk (t < 16 && v < 64) (if (getTen s t).exist && v != 0 then secondaryReset s t v else s)

/-! ## Hot plug (R67, R456) -/

/-- A host writes Power Controller Control on the vPPBs of a port. (Log 58 DEDUCED.) -/
def hostPower (s : State) (p : Nat) (off : Bool) : State :=
  let s := modPort s p fun x => { x with hpPending := true, hpOff := off }
  stewEv ((bindingsOf s p).foldl (fun s v => modVppb s v.1 v.2 fun x => { x with powerCtl := off }) s)

/-- HOST_POWER_CONTROL_WRITE. -/
def execHostPowerControlWrite (p : Nat) (off : Bool) (s : State) : Res :=
  unitOk (p < 96) (if (getPort s p).hpEn && boundDown s p then hostPower s p off else s)

/-- A write of 1 to hp_refuse. -/
def hpRefuse (s : State) (p : Nat) : State :=
  if (getPort s p).hpPending then
    (bindingsOf s p).foldl (fun s v => modVppb s v.1 v.2 fun x => { x with cmdCompleted := true })
      (modPort s p fun x => { x with hpPending := false })
  else logEvent s (uPort p) 0x02 0x01C 0

/-- HP_REFUSE. -/
def execHpRefuse (p : Nat) (s : State) : Res := unitOk (p < 96) (if leadPort s p then hpRefuse s p else s)

/-! ## Multicast groups of a host (R73) -/

/-- A replication group no one uses. (Log 60 DEDUCED, 63 DEDUCED.) -/
def freeRgrp (s : State) : Option Nat := (List.range 1024).find? fun g => (getRgrp s g).header == 0

/-- The header of a kind-1 group of a tenant (Table CORE-13). (Log 60 DEDUCED.) -/
def hostMcHeader (t : Nat) : W64 := pack64 [(63, 1), (62, 1), (48, t)]

/-- A host enables multicast group `g` in its virtual switch. (Log 60 DEDUCED.) -/
def mcEnable (s : State) (t g : Nat) : State :=
  let x := getVppb s t 0
  if bit x.mcast g then s else
  match freeRgrp s with
  | some r => modVppb (modRgrp s r fun y => { y with header := hostMcHeader t }) t 0 fun v =>
      { v with mcast := v.mcast ||| (1 <<< g), mcGroup := tput 1024 v.mcGroup g r }
  | none => stewEv (logOpen s ⟨2, t⟩ 0)

/-- HOST_MC_ENABLE_WRITE. -/
def execHostMcEnableWrite (t g : Nat) (s : State) : Res := unitOk (t < 16 && g < 64) (if (getTen s t).exist then mcEnable s t g else s)

/-! ## IDE (R62 to R64) -/

/-- IDE_KEY_MANAGEMENT. -/
def execIdeKeyManagement (p : Nat) (k : IdeMsg) (s : State) : Res :=
  unitOk (p < 96) (
    let x := getPort s p
    if x.link != .up then s else
    match k with
    | .linkIdeForIo => emit s (.ide p false)
    | .setKeys e =>
      if (x.mode == 1 || x.mode == 2) && (fld x.cfg 18 2 == 1 || fld x.cfg 18 2 == 2) && 1 ≤ e && e ≤ 5 then
        emit (modPort s p fun x => { x with ideKeys := true, ideSecure := true, ideEpoch := e }) (.ide p true)
      else emit s (.ide p false))

/-- Cells of a port's messages still in the buffer are poisoned (R63, skid mode). Which cells belong to the failed epoch is the
link's knowledge: every cell the port has in the buffer whose last flit is not complete, and the newest message.
(Log 57 DEDUCED.) -/
def poisonSkid (s : State) (p : Nat) : State :=
  let mine (k : Pkt) : Bool := k.ing == p && inBuf k && dataLen k.msg != 0
  let bad (k : Pkt) : Pkt := if mine k then { k with msg := { k.msg with poison := List.replicate (ceilDiv (dataLen k.msg) 64) true } } else k
  let n := (s.core.pkts.filter mine).length
  quireCount (putPkts s (s.core.pkts.map bad)) (quireOf p) 0 none n

/-- IDE_MAC_FAILURE. (Log 57 DEDUCED.) -/
def execIdeMacFailure (p : Nat) (s : State) : Res :=
  unitOk (p < 96) (
    let x := getPort s p
    if !x.ideSecure || portWaits s p then s else
    let s := modPort s p fun x => { x with ideSecure := false }
    resetPort (if fld x.cfg 18 2 == 1 then poisonSkid s p else s) p)

/-! ## Gateways (R336) -/

/-- A gateway takes its link down with cfg_error; training is retried. -/
def gatewayFail (s : State) (p : Nat) : State :=
  modPort (cfgError s p 0) p fun x => { lanesIdle x with link := .down }

/-- GATEWAY_REPEAT. -/
def execGatewayRepeat (p : Nat) (s : State) : Res :=
  unitOk (p < 96) (
    let x := getPort s p
    if roleOf x == 4 && x.link == .up && !x.gwOk then emit s (.mgmt p 0x0C (gatewayMsg s p)) else s)

/-- GATEWAY_TIMEOUT. -/
def execGatewayTimeout (p : Nat) (s : State) : Res :=
  unitOk (p < 96) (
    let x := getPort s p
    if roleOf x == 4 && x.link == .up && !x.gwOk then gatewayFail s p else s)

/-! ## Registers -/

/-- PORT_STATUS (Table FAB-3). -/
def portStatus (x : Port) : W32 :=
  pack32 [fl 31 (x.link == .up), (28, x.mode), (25, x.rate), (20, x.lanesUsed), (12, x.genTag.toNat), fl 11 x.ideSecure, fl 10 x.dpcTrig,
    fl 9 x.loopbackRefused, fl 8 x.cfgError, fl 7 x.biActive]

/-- A write of PORT_STATUS: its W1C bits. -/
def portStatusWrite (s : State) (p : Nat) (v : W32) : State :=
  let s := modPort s p fun x =>
    { x with loopbackRefused := x.loopbackRefused && !bit v 9, cfgError := x.cfgError && !bit v 8 }
  if bit v 10 && (getPort s p).dpcTrig then dpcRelease s p else s

/-- PORT_HP (Table FAB-4). -/
def portHp (x : Port) : W32 := pack32 [fl 31 x.hpEn, fl 30 x.dpcCa, fl 29 x.fmCap, (0, x.slotId)]

/-- PORT_HP_CMD (Table REG-13). -/
def portHpCmd (x : Port) : W32 := pack32 [fl 31 x.hpPending, fl 30 x.hpOff]

end Sys2Proof.Machine
end

