-- ==== Sys2Proof/Machine/Lanes.lean ====
section
/-!
DEFINITION. Lanes in service (16): symbol lock and Recovery (R370, R360), adaptation bursts (R369), pattern mode (R373, R374) and
receiver margining (R375, R376), for lead ports and for command links.
-/

namespace Sys2Proof.Machine

/-! ## Recovery -/

/-- A margining run on a link ends when the link enters Recovery, and so does a partner's (R376). -/
def marginAbort (x : Lanes) : Lanes :=
  { x with partnerMargin := false, marginRun := false, marginDone := x.marginDone || x.marginRun
           marginAborted := x.marginAborted || x.marginRun }

/-- A stack link enters Recovery: counted, and the event bit sets (R360). -/
def iflRecovery (x : Ifl) : Ifl :=
  { x with st := .recovery, evRecovery := true, cnt := tput 0 x.cnt 6 (satAdd 0xFFFFFFFF (tget 0 x.cnt 6) 1), timer := false }

/-- The link of a port enters Recovery; an L0 burst of its lane group ends (R369). -/
def enterRecovery (s : State) (p : Nat) : State :=
  let s := modPort s p fun x =>
    { x with link := .recovery, lanes := marginAbort x.lanes, ifl := if x.mode = 5 then iflRecovery x.ifl else x.ifl }
  { s with pwr := { s.pwr with burst := s.pwr.burst.filter (· != quireOf p) } }

/-- SYMBOL_LOCK_LOSS on a logical lane of a trained link. -/
def execSymbolLockLoss (p lane : Nat) (s : State) : Res :=
  unitOk (p < 96 && lane < 16) (
    let x := getPort s p
    if !trainedLink x || x.lanesUsed ≤ lane then s else
    let l := tget {} x.lanes.ln lane
    let ln := tput {} x.lanes.ln lane { l with lockLosses := satAdd 255 l.lockLosses 1, locked := false }
    let s := modPort s p fun x => { x with lanes := { x.lanes with ln := ln, evLock := true } }
    if x.link == .up then enterRecovery s p else s)

/-! ## Adaptation bursts (R369) -/

/-- A port whose burst interval runs: in L0 at 32 or 64 GT/s with an interval other than 0. (Log 56 DEDUCED.) -/
def burstPort (x : Port) : Bool := x.link == .up && 4 ≤ x.rate && fld x.lanes.eq 0 12 != 0

/-- ADAPTATION_BURST: granted at level 0 when use with its 16 units is within the effective cap; else deferred. (Log 56 DEDUCED.) -/
def execAdaptationBurst (q : Nat) (s : State) : Res :=
  unitOk (q < 12) (
    if ((quirePorts s q).any fun p => burstPort (getPort s p)) && !s.pwr.burst.contains q && levelOf s 5 == 0 &&
        useOf s + 16 ≤ effCap s then
      { s with pwr := { s.pwr with burst := s.pwr.burst ++ [q] } }
    else s)

/-- ADAPTATION_BURST_END. -/
def execAdaptationBurstEnd (q : Nat) (s : State) : Res :=
  unitOk (q < 12) { s with pwr := { s.pwr with burst := s.pwr.burst.filter (· != q), trainBurst := s.pwr.trainBurst.filter (· != q) } }

/-! ## Pattern mode -/

/-- A write of PORT_PAT_CTRL. -/
def patWrite (s : State) (p : Nat) (v : W32) : State :=
  let x := getPort s p
  let v := v &&& 0xFF000000
  if !leadPort s p then s
  else if bit v 31 && (x.enabled || x.rst != .run) then logEvent s (uPort p) 0x02 0x4A0 0
  else if bit v 31 then
    modPort s p fun x => { x with lanes := { x.lanes with patRun := true, patCtrl := v, patBits := 0, patErr := [] } }
  else modPort s p fun x => { x with lanes := { x.lanes with patRun := false, patCtrl := v } }

/-- PATTERN_START. -/
def execPatternStart (p : Nat) (v : W32) (s : State) : Res := unitOk (p < 96) (if bit v 31 then patWrite s p v else s)

/-- PATTERN_STOP. -/
def execPatternStop (p : Nat) (s : State) : Res :=
  unitOk (p < 96) (if leadPort s p then modPort s p fun x =>
    { x with lanes := { x.lanes with patRun := false, patCtrl := setFld x.lanes.patCtrl 31 1 0 } } else s)

/-- PATTERN_CHECKER_SYNC at an offset: an inverted pattern is accepted where polarity is automatic. (Log 61 DESIGN CHOICE.) -/
def execPatternCheckerSync (p lane : Nat) (inverted : Bool) (s : State) : Res :=
  unitOk (p < 96 && lane < 16) (
    let x := getPort s p
    if !x.lanes.patRun || !bit x.lanes.patCtrl 30 || 4 * span x ≤ lane || (inverted && !autoPol s) then s
    else
      let e := tget 0 x.lanes.patErr lane
      modPort s p fun x => { x with lanes := { x.lanes with
        patErr := tput 0 x.lanes.patErr lane (setFld (setFld e 31 1 1) 30 1 (if inverted then 1 else 0)) } })

/-! ## Margining -/

/-- Whether a run on the lane of PORT_MARGIN_CTRL is refused: no active link at 16 GT/s or above, a lane not in it, or an offset
beyond the step count. -/
def marginRefused (x : Lanes) (up : Bool) (rate n : Nat) : Bool :=
  let v := x.marginCtrl
  !up || rate < 3 || n ≤ fld v 24 4 || (!bit v 30 && (if fld v 28 2 < 2 then 32 else 64) < fld v 16 8)

/-- A write of PORT_MARGIN_CTRL: a start while a run is in progress is ignored. -/
def marginWrite (x : Lanes) (up : Bool) (rate n : Nat) (v : W32) : Lanes :=
  if bit v 31 && x.marginRun then x
  else
    let x := { x with marginCtrl := v &&& 0x7FFF003F }
    if !bit v 31 then x
    else
      let y := { x with marginDone := false, marginBusy := false, marginAborted := false, marginRefused := false, marginErrors := 0 }
      if marginRefused x up rate n then { y with marginDone := true, marginRefused := true }
      else if x.partnerMargin then { y with marginDone := true, marginBusy := true }
      else { y with marginRun := true }

/-- The end of a run. -/
def marginEnd (x : Lanes) (errors cleanT cleanV : Nat) (busy aborted : Bool) : Lanes :=
  if !x.marginRun then x else
  let y := { x with marginRun := false, marginDone := true, marginBusy := busy, marginAborted := aborted && !busy }
  let k := fld x.marginCtrl 24 4
  if busy || aborted then y
  else if bit x.marginCtrl 30 then
    { y with ln := tput {} y.ln k { (tget {} y.ln k) with marginT := min 64 cleanT, marginV := min 128 cleanV } }
  else { y with marginErrors := min 0xFFFFFF errors }

/-- MARGIN_START. -/
def execMarginStart (p : Nat) (v : W32) (s : State) : Res :=
  unitOk (p < 96) (if leadPort s p && bit v 31 then modPort s p fun x =>
    { x with lanes := marginWrite x.lanes (x.link == .up) x.rate x.lanesUsed v } else s)

/-- MARGIN_DONE. (Log 61 DESIGN CHOICE.) -/
def execMarginDone (p errors cleanT cleanV : Nat) (busy aborted : Bool) (s : State) : Res :=
  unitOk (p < 96) (modPort s p fun x => { x with lanes := marginEnd x.lanes errors cleanT cleanV busy aborted })

/-- PARTNER_MARGIN_COMMAND: a command that arrives during a local run waits for its end. -/
def execPartnerMarginCommand (p lane : Nat) (start : Bool) (s : State) : Res :=
  unitOk (p < 96 && lane < 16) (
    let x := getPort s p
    if x.lanes.marginRun then s
    else
      let ok := x.link == .up && 3 ≤ x.rate && lane < x.lanesUsed
      emit (if ok then modPort s p fun x => { x with lanes := { x.lanes with partnerMargin := start } } else s) (.margin p lane ok))

/-! ## Registers (Table LANE-2) -/

/-- PORT_LANE_STATUS. -/
def laneStatus (x : Lanes) : W32 := pack32 [fl 31 x.reversed, fl 30 x.degraded, (27, x.width), (0, x.laneOk.toNat)]

/-- PORT_LANE_EVENT. -/
def laneEvent (x : Lanes) : W32 := pack32 [fl 3 x.evRefclk, fl 2 x.evEqFail, fl 1 x.evDegraded, fl 0 x.evLock]

/-- PORT_LN[i]. -/
def laneWord (l : Lane) : W32 := pack32 [(24, l.lockLosses), fl 23 l.locked, fl 22 l.inverted, (8, l.marginT), (0, l.marginV)]

/-- PORT_MARGIN_RESULT. -/
def marginResult (x : Lanes) : W32 :=
  pack32 [fl 31 x.marginDone, fl 30 x.marginBusy, fl 29 x.marginAborted, fl 28 x.marginRefused, (0, x.marginErrors)]

/-- A lane register at an offset from +0x400; the pattern registers are a port's only (R451). -/
def laneRead (x : Lanes) (pattern : Bool) (o : Nat) : W32 :=
  match o with
  | 0x00 => x.cfg
  | 0x04 => x.inv
  | 0x08 => x.eq
  | 0x0C => laneStatus x
  | 0x10 => laneEvent x
  | 0x80 => if x.marginRun then x.marginCtrl ||| 0x80000000 else x.marginCtrl
  | 0x84 => marginResult x
  | o =>
    if 0x40 ≤ o && o < 0x80 then laneWord (tget {} x.ln ((o - 0x40) / 4))
    else if !pattern then 0
    else if o = 0xA0 then setFld x.patCtrl 31 1 (if x.patRun then 1 else 0)
    else if o = 0xB0 then lo32 x.patBits
    else if o = 0xB4 then hi32 x.patBits
    else if 0xC0 ≤ o && o < 0x100 then tget 0 x.patErr ((o - 0xC0) / 4) else 0

/-- A write of a lane register with plain fields; `whole` is false for a command link, whose eq_dsp and min_width are reserved. -/
def laneWrite (x : Lanes) (whole up : Bool) (rate n o : Nat) (v : W32) : Lanes :=
  match o with
  | 0x00 => { x with cfg := if whole then v &&& 0xFC000000 else v &&& 0x88000000 }
  | 0x04 => { x with inv := v }
  | 0x08 => { x with eq := v &&& 0xFFFF8FFF }
  | 0x10 => { x with evRefclk := x.evRefclk && !bit v 3, evEqFail := x.evEqFail && !bit v 2, evDegraded := x.evDegraded && !bit v 1
                     evLock := x.evLock && !bit v 0 }
  | 0x80 => marginWrite x up rate n v
  | _ => x

end Sys2Proof.Machine
end

