-- ==== Sys2Proof/Machine/Copies.lean ====
section
/-!
DEFINITION. Replicas (04): the replication store (R110), the copies of a write to a replication group (R99, R104 to R109) and
the copies of mirror sessions (R111 to R117).
-/

namespace Sys2Proof.Machine

/-! ## The replication store -/

/-- Free entries of a partition. -/
def storeFree (s : State) (i : Nat) : Nat := 1024 - tget 0 s.core.rstoreUse i

/-- Free shared entries. -/
def sharedFree (s : State) : Nat := sumBy (fun i => if partOwner s i = 0 then storeFree s i else 0) (List.range 16)

/-- The partition a copy draws its entry from: its feature's partitions first, then the shared ones; a mirror copy only while
64 shared entries remain free. -/
def storePick (s : State) (mirror : Bool) : Option Nat :=
  let has (o i : Nat) : Bool := partOwner s i == o && storeFree s i != 0
  match (List.range 16).find? (has (if mirror then 1 else 2)) with
  | some i => some i
  | none => if mirror && sharedFree s < 64 then none else (List.range 16).find? (has 0)

/-- Take an entry of a partition. -/
def storeTake (s : State) (i : Nat) : State :=
  { s with core := { s.core with rstoreUse := tput 0 s.core.rstoreUse i (tget 0 s.core.rstoreUse i + 1) } }

/-- Entries free to multicast copies. -/
def storeRoom (s : State) : Nat :=
  sumBy (fun i => if partOwner s i == 0 || partOwner s i == 2 then storeFree s i else 0) (List.range 16)

/-! ## Replication groups -/

/-- The message a member receives: its PBR ID, and for kind 0 the address of R104. -/
def memberMsg (g : Rgrp) (m : Nat) (x : Msg) : Msg :=
  let w := tget 0 g.member m
  if rgKind1 g.header then { x with dstPbr := fld w 48 12 }
  else { x with dstPbr := fld w 48 12, addr := fld w 0 40 * 4096 + (x.addr - fld g.header 0 40 * 4096) }

/-- The members that serve reads, in ascending index. -/
def activeMembers (g : Rgrp) : List Nat := (List.range 16).filter fun m => memState g m == 1

/-- The member that serves a read (R105). (Log 64 DEDUCED.) -/
def readMember (g : Rgrp) : Option Nat :=
  let prim := fld g.header 57 4
  if bit g.header 61 && memState g prim == 1 then some prim else (activeMembers g).head?

/-- The members a write is sent to: active or rejoining (R104). -/
def writeMembers (g : Rgrp) : List Nat := (List.range 16).filter fun m => memState g m == 1 || memState g m == 3

/-- The output of a pool request as its line resolves now; 127 where it resolves to none. -/
def poolOut (s : State) (k : Pkt) : Nat :=
  match poolAddr s (if k.stw then none else some (k.ten.getD 16)) k.msg.addr with
  | some pa => 96 + (locP s (getSheet s (pa / 2 ^ 28)) (pa / 64 * 64)).1
  | none => 127

/-- A message with its destination resolved by PBR ID from the point it entered at. -/
def resolvePbr (s : State) (k : Pkt) : Pkt :=
  let h := hopPbr s k.ing (k.ten.getD 0) k.msg
  let k := { k with dest := h.dest, out := h.out, ecmp := h.ecmp }
  match h.dest with
  | .pool => { k with out := poolOut s k }
  | _ => k

/-- The copy for member `m` of a write. -/
def memberPkt (s : State) (k : Pkt) (g : Rgrp) (wid m : Nat) : Pkt :=
  resolvePbr s { k with msg := memberMsg g m k.msg, org := .member wid m, wid := some wid, stage := .centre, admitted := now s }

/-- Add the copies of a write, each with its entry. A copy with no route fails its member (R106). -/
def addCopies (s : State) (k : Pkt) (g : Rgrp) (wid : Nat) (l : List Nat) : State :=
  l.foldl (fun s m =>
    let c := memberPkt s k g wid m
    match c.dest, storePick s false with
    | .none, _ => memberOutcome s wid m false
    | .repl _, _ => memberOutcome s wid m false
    | _, none => memberOutcome s wid m false
    | _, some i =>
      let s := addPkt (storeTake s i) { c with store := some i }
      qMarks s c.out (qclassOf c)) s

/-- Start a write to a group: its counting members, its copies, and its completion where that is already decided (R104, R107). -/
def startWriteAll (s : State) (k : Pkt) (gi : Nat) : State :=
  let g := getRgrp s gi
  let l := writeMembers g
  let wid := s.nextId
  let w : RWrite := { id := wid, group := gi, src := k, counting := activeMembers g, pending := l }
  let s := { s with nextId := s.nextId + 1, core := { s.core with rwrites := s.core.rwrites ++ [w] } }
  rwSettle (addCopies s k g wid l) wid

/-- A queue that does not admit a write to a group: the first member's, in index order, whose own queue fails R95 (R99). -/
def groupBlock (s : State) (k : Pkt) (gi : Nat) : Option Pkt :=
  let g := getRgrp s gi
  ((writeMembers g).map fun m => memberPkt s k g 0 m).find? fun c =>
    match c.dest with
    | .none | .repl _ => false
    | _ => !admits s c.out (qclassOf c) (cells c.msg)

/-! ## Mirror sessions -/

/-- A session takes copies of a message at a port, in a direction. (Log 62 DEDUCED.) -/
def mirMatch (s : State) (x : Mirror) (p : Nat) (egress : Bool) (k : Pkt) : Bool :=
  mirOn x && !x.closing &&
    (match fld x.ctrl 28 3 with
      | 0 => !egress && mirSrc x.ctrl == p
      | 1 => egress && mirSrc x.ctrl == p
      | 2 => mirSrc x.ctrl == p
      | 3 => portTen (getPort s p) == some (fld x.ctrl 22 4)
      | 4 => !egress && (bit x.flow 1 || fld x.flow 20 12 == k.msg.srcPbr % 4096) && (bit x.flow 0 || fld x.flow 8 12 == k.msg.dstPbr % 4096)
      | _ => false)

/-- The ring's length in bytes. -/
def mirSize (x : Mirror) : Nat := 2 ^ x.size

/-- Bytes a record takes with the pad before it, where it would wrap (R115). -/
def mirNeed (x : Mirror) (len : Nat) : Nat :=
  let o := x.producer.toNat % mirSize x
  if o + len ≤ mirSize x then len else mirSize x - o + len

/-- Whether a record fits the ring as the cached consumer index stands. -/
def mirFits (x : Mirror) (len : Nat) : Bool := (x.producer - x.consumer).toNat + mirNeed x len ≤ mirSize x

/-- A record's bytes with its padding (Table CORE-18); its field `lost` is set when it is written. (Log 62 DEDUCED.) -/
def mirRecord (s : State) (i p : Nat) (egress : Bool) (k : Pkt) (tenByte : Nat) : List Byte :=
  let x := getMir s i
  let whole := written k.msg == cells k.msg
  let hdrOnly := bit x.ctrl 27
  let head := Config.wireHead k.msg
  let cap := head ++ (if hdrOnly || !whole then [] else k.msg.data.take (dataLen k.msg))
  let n := ceilDiv (32 + cap.length) 32 * 32
  let flags := packN [fl 7 (!hdrOnly && !whole), fl 6 (k.msg.poison.any id), fl 5 egress]
  natLe 8 (now s).toNat ++ natLe 2 n ++ natLe 1 i ++ natLe 1 flags ++ natLe 2 (head.length + dataLen k.msg) ++ natLe 1 p ++
    natLe 1 tenByte ++ natLe 2 (k.msg.srcPbr % 4096) ++ natLe 2 (k.msg.dstPbr % 4096) ++ natLe 1 (protoNo k.msg.op) ++
    natLe 1 (qclassOf k) ++ zeros 10 ++ cap ++ zeros (n - 32 - cap.length)

/-- A pad record that fills `n` bytes (R115). -/
def padRecord (s : State) (i n : Nat) : List Byte :=
  natLe 8 (now s).toNat ++ natLe 2 n ++ natLe 1 i ++ natLe 1 16 ++ zeros (n - 12)

/-- One write of a session into its ring, queued at the analysis port at the lowest request priority. `paddr` holds the producer
index after it, 0 for a pad record. -/
def mirPkt (s : State) (i ing : Nat) (off : Nat) (b : List Byte) (prod : Nat) (st : Option Nat) : Pkt :=
  let x := getMir s i
  { id := 0, msg := { op := .ioWr, addr := x.ring.toNat + off, len := b.length, data := b, dstPbr := cfgPbr (getPort s (mirAna x.ctrl))
                      slots := b.length + 16 },
    org := .mirror i, ten := if bit x.ctrl 21 then none else some (fld x.ctrl 22 4), stw := bit x.ctrl 21, ing := ing,
    dest := .port (mirAna x.ctrl), out := mirAna x.ctrl, stage := .queued, store := st, paddr := prod, admitted := now s }

/-- Write a record: the pad before it where it would wrap, then the record, and the producer index moves. -/
def mirPut (s : State) (i ing : Nat) (b : List Byte) (st : Nat) : State :=
  let x := getMir s i
  let o := x.producer.toNat % mirSize x
  let padN := if o + b.length ≤ mirSize x then 0 else mirSize x - o
  let s := if padN = 0 then s else addPkt s (mirPkt s i ing o (padRecord s i padN) 0 none)
  let prod := x.producer.toNat + padN + b.length
  let rec' := splice b 24 (natLe 4 x.recent)
  let s := addPkt (storeTake s st) (mirPkt s i ing (if padN = 0 then o else 0) rec' prod (some st))
  qMarks (modMir s i fun m => { m with producer := BitVec.ofNat 64 prod, recent := 0 }) (mirAna x.ctrl) 0

/-- Whether the analysis port and the store take a copy now (R112). -/
def mirRoom (s : State) (i n : Nat) : Option Nat :=
  let ana := mirAna (getMir s i).ctrl
  if fld s.core.wm 10 10 * 1024 ≤ s.core.occ || !admits s ana 0 (1 + ceilDiv n 64) || (getPort s ana).link != .up then none
  else storePick s true

/-- A copy for one session (R112, R115, R116). (Log 62 DEDUCED.) -/
def mirCopy (s : State) (i p : Nat) (egress red : Bool) (k : Pkt) : State :=
  let f := freeBelow s 256
  let s := f.2
  let b := mirRecord s i p egress k (k.ten.getD f.1)
  let x := getMir s i
  match mirRoom s i b.length with
  | none => mirLose s i k.ten
  | some st =>
    if red || mirSize x < b.length then mirLose s i k.ten
    else if x.reading then modMir s i fun m => { m with waiting := m.waiting ++ [b] }
    else if mirFits x b.length then portCount (mirPut s i (if p < 96 then p else 108) b st) p 15 k.ten 1
    else emit (modMir s i fun m => { m with reading := true, waiting := m.waiting ++ [b] }) (.mirrorRead i (x.ctlb + 8))

/-- The copies of a message at a port (R114). (Log 62 DEDUCED.) -/
def mirTake (s : State) (p : Nat) (egress red : Bool) (k : Pkt) : State :=
  match k.org with
  | .mirror _ => s
  | _ => forL ((s.core.mirror.filter fun e => mirMatch s e.2 p egress k).map fun e => e.1) s fun s i => mirCopy s i p egress red k

/-- The waiting copies of a session are written while they fit, and discarded otherwise. -/
def mirDrain (i : Nat) : List (List Byte) → State → State
  | [], s => s
  | b :: rest, s =>
    let s := match mirRoom s i b.length with
      | some st => if mirFits (getMir s i) b.length then mirPut s i 108 b st else mirLose s i none
      | none => mirLose s i none
    mirDrain i rest s

/-- MIRROR_CONSUMER_READ_DONE. -/
def execMirrorConsumerReadDone (sess : Nat) (consumer : W64) (s : State) : Res :=
  unitOk (sess < 8) (
    let x := getMir s sess
    if !x.reading then s else
    mirFinish (mirDrain sess x.waiting (modMir s sess fun m => { m with reading := false, waiting := [], consumer := consumer })) sess)

/-! ## Members' outcomes (R106, R107) -/

/-- The member copy of a write leaves every place it stands in. (Log 87 DEDUCED.) -/
def dropMember (s : State) (wid m : Nat) : State :=
  let l := s.core.opens.filter fun o => o.pkt.org != .member wid m
  { s with core := { s.core with opens := l } }

/-- REPLICA_MEMBER_COMPLETION. -/
def execReplicaMemberCompletion (wid member : Nat) (ok : Bool) (s : State) : Res :=
  unitOk (member < 16) (memberOutcome (dropMember s wid member) wid member ok)

/-- REPLICA_MEMBER_TIMEOUT: a kind-1 member has no timeout. (Log 87 DEDUCED.) -/
def execReplicaMemberTimeout (wid member : Nat) (s : State) : Res :=
  unitOk (member < 16) (
    match s.core.rwrites.find? fun w => w.id == wid with
    | some w => if rgKind1 (getRgrp s w.group).header then s else memberOutcome s wid member false
    | none => s)

end Sys2Proof.Machine
end

