-- ==== Sys2Proof/Machine/Ingress.lean ====
section
/-!
DEFINITION. The way of a message into the core (04): a received flit (R53, R76, R77), admission (R95, R96, R99), red messages
(R123), and a request at the centre (R19, R20, R22, R197, R200, R201).
-/

namespace Sys2Proof.Machine

/-! ## Configuration requests of a host to its virtual switch (R53 to R55, R67 to R74, R167) -/

/-- Slot Status of a hot-plug vPPB: power fault, presence detect changed, command completed, presence detect state.
(Log 58 DEDUCED.) -/
def slotStatusWord (s : State) (v : Vppb) : Nat :=
  let seat := match v.bind with | .dev p => (getSlot s (getPort s p).slotId).presenceDetect | _ => false
  packN [fl 1 v.powerFault, fl 3 v.presenceChanged, fl 4 v.cmdCompleted, fl 6 seat]

/-- The port a vPPB is bound to. -/
def vppbPort (s : State) (t v : Nat) : Option Port :=
  match (getVppb s t v).bind with
  | .host p | .dev p | .ld p _ => some (getPort s p)
  | _ => none

/-- An identity or capability field (R4, R74). A field that lists capabilities has one bit for each.
(Log 5 DESIGN CHOICE.) -/
def capRead (s : State) (t v : Nat) (c : Cap) : Nat :=
  match c with
  | .vendor => 0x1F3C
  | .device => 0x0096
  | .classCode => 0x060400
  | .maxLinkSpeed => 6
  | .linkSpeeds => 0x3F
  | .maxLinkWidth => (vppbPort s t v).elim 0 fun x => 4 * span x
  | .flitMode => 1
  | .aspm => 0
  | .payload => 5
  | .margining => 3
  | .doe => if (vppbPort s t v).any fun x => x.fmCap then 7 else 3
  | .cacheMemIo => 7
  | .flits => 3
  | .bi => 1
  | .pbrWidth => 12
  | .maxLds => 16

/-- Sum of rate times 8 bytes over the channels of enabled groups, in MB/s (R167). -/
def poolBandwidth (s : State) : Nat :=
  sumBy (fun g => if g.2.enable then (members g.2).length else 0) s.pool.grp * poolRate s.pool.rate * 8

/-- An entry of the CDAT of a tenant's pool device, as it stands (R167). -/
def cdatRead (s : State) (t : Nat) (d : Cdat) : Nat :=
  match d with
  | .dsmasBase => 0
  | .dsmasLength => (getTen s t).len * 2 ^ 28
  | .readLatency | .writeLatency => 280
  | .readBandwidth | .writeBandwidth => poolBandwidth s

/-- A configuration field of a vPPB, or of the pool vPPB (number 64). (Log 5 DESIGN CHOICE.) -/
def cfgRead (s : State) (t v : Nat) (reg : CfgReg) : Nat :=
  let x := getVppb s t v
  match reg with
  | .winBase => if v = 64 then (getTen s t).poolWin else x.winBase
  | .winLimit => x.winLimit
  | .maxPayload => x.maxPayload
  | .dpcTrigEnable => x.dpcEnable
  | .dpcTrigStatus => if x.dpcStatus then 1 else 0
  | .acsControl => x.acs.toNat
  | .egressControl => x.egress.toNat
  | .powerController => if x.powerCtl then 1 else 0
  | .slotStatus => slotStatusWord s x
  | .mcastEnable g => if bit (getVppb s t 0).mcast g then 1 else 0
  | .secondaryBusReset => 0
  | .fixed c => capRead s t v c
  | .cdat d => cdatRead s t d
  | .other o => tget 0 x.other o

/-- Bytes of a configuration read: a register's 4, an entry's 8. (Log 5 DESIGN CHOICE.) -/
def cfgLen : CfgReg → Nat
  | .cdat _ => 8
  | _ => 4

/-- A hot-plug vPPB's port. -/
def hotPort (s : State) (t v : Nat) : Option Nat :=
  match (getVppb s t v).bind with
  | .dev p => if (getPort s p).hpEn then some p else none
  | _ => none

/-- The multicast group of a virtual switch is disabled: its replication group is freed. (Log 60 DEDUCED.) -/
def mcDisable (s : State) (t g : Nat) : State :=
  let x := getVppb s t 0
  if !bit x.mcast g then s else
  modVppb (modRgrp s (tget 1024 x.mcGroup g) fun _ => {}) t 0 fun v => { v with mcast := v.mcast - (1 <<< g), mcGroup := tdel v.mcGroup g }

/-- A write of a configuration field. (Log 5 DESIGN CHOICE, 60 DEDUCED.) -/
def cfgWrite (s : State) (t v : Nat) (reg : CfgReg) (val : Nat) : State :=
  let m := modVppb s t v
  match reg with
  | .winBase => if v = 64 then modTen s t fun x => { x with poolWin := val, poolWinSet := true } else m fun x => { x with winBase := val }
  | .winLimit => m fun x => { x with winLimit := val, winSet := true }
  | .maxPayload => m fun x => { x with maxPayload := val }
  | .dpcTrigEnable => m fun x => { x with dpcEnable := val % 4 }
  | .dpcTrigStatus =>
    match (getVppb s t v).bind with
    | .dev p | .ld p _ => if val % 2 = 1 && (getPort s p).dpcTrig then dpcRelease s p else s
    | _ => s
  | .acsControl => m fun x => { x with acs := BitVec.ofNat 7 val }
  | .egressControl => m fun x => { x with egress := BitVec.ofNat 64 val }
  | .powerController => match hotPort s t v with | some p => hostPower s p (val % 2 == 1) | none => s
  | .slotStatus => m fun x =>
      { x with powerFault := x.powerFault && val / 2 % 2 == 0, presenceChanged := x.presenceChanged && val / 8 % 2 == 0
               cmdCompleted := x.cmdCompleted && val / 16 % 2 == 0 }
  | .mcastEnable g => if val % 2 = 1 then mcEnable s t g else mcDisable s t g
  | .secondaryBusReset => if val % 2 = 1 then secondaryReset s t v else s
  | .fixed _ | .cdat _ => s
  | .other o => m fun x => { x with other := tput 0 x.other o val }

/-- Whether a virtual switch has a vPPB: number 0, the pool's (64), and the bound ones. -/
def vppbThere (s : State) (t v : Nat) : Bool := v == 64 || (v < 64 && (v == 0 || (getVppb s t v).bind != .none))

/-- A configuration request of a host, executed in its virtual switch and answered. -/
def cfgRequest (s : State) (r : Pkt) (t : Nat) : State :=
  match r.msg.op with
  | .ioCfgRd v reg =>
    if vppbThere s t v then answer s r r.ing .queued (.data (natLe (cfgLen reg) (cfgRead s t v reg)) [] .i) else answer s r r.ing .queued .ur
  | .ioCfgWr v reg val =>
    if vppbThere s t v then answer (cfgWrite s t v reg val) r r.ing .queued (.done .i) else answer s r r.ing .queued .ur
  | _ => s

/-! ## Destinations of requests received on a port -/

/-- What the QPE makes of a request. -/
inductive Route where
  | to (k : Pkt)
  | cfg (t : Nat)               -- a configuration request of tenant `t`
  | fail (k : Pkt) (a : Ans) (unroutable : Bool)
  | drop (log : Bool)           -- dropped, and logged

deriving DecidableEq, Repr

/-- The vPPB a request from a device enters by, and its tenant. -/
def ingressVppb (s : State) (p ld : Nat) : Option (Nat × Nat) :=
  s.ten.findSome? fun t => (t.2.vppb.find? fun v => match v.2.bind with
    | .dev q => q == p | .ld q i => q == p && i == ld | _ => false).map fun v => (t.1, v.1)

/-- Max_Payload_Size of the vPPB a TLP enters by (R71): unchecked on PBR links. (Log 26 DEDUCED.) -/
def ingressMps (s : State) (p ld : Nat) : Option Nat :=
  match roleOf (getPort s p) with
  | 1 => (portTen (getPort s p)).map fun t => (getVppb s t ((vppbOfPort s t p).getD 0)).maxPayload
  | 2 => (ingressVppb s p ld).map fun v => (getVppb s v.1 v.2).maxPayload
  | _ => none

/-- A request routed by the PBR ID it now carries. -/
def byPbr (s : State) (k : Pkt) : Route :=
  let k := resolvePbr s k
  if k.dest = .none then .fail k (refusedForm k.msg.op) true else .to k

/-- A request toward what a vPPB is bound to. -/
def toBind (s : State) (k : Pkt) (b : Bind) : Route :=
  let ld := match b with | .ld _ i => i | _ => 0
  match bindPbr s b with
  | some pbr => byPbr s { k with msg := { k.msg with dstPbr := pbr, ld := ld } }
  | none => .fail k (refusedForm k.msg.op) true

/-- A pool request at a device physical address. -/
def toPool (s : State) (k : Pkt) (dpa : Nat) : Route :=
  let k := { k with msg := { k.msg with addr := dpa }, dest := .pool }
  .to { k with out := poolOut s k }

/-- A request up to the host of a virtual switch. -/
def toHost (s : State) (k : Pkt) (t : Nat) : Route := toBind s k ((getVppb s t 0).bind)

/-- A host's request (R53). -/
def fromHost (s : State) (k : Pkt) (t : Nat) : Route :=
  match k.msg.op with
  | .ioCfgRd .. | .ioCfgWr .. => .cfg t
  | _ =>
    if !carriesAddr k.msg.op then .fail k (refusedForm k.msg.op) true else
    match hbrOf s t k.msg.addr with
    | .pool d => toPool s k d
    | .vppb _ b => toBind s k b
    | .none => .fail k (refusedForm k.msg.op) true

/-- A device's request, entering by vPPB `v` (R60, R70): to the pool, to a peer as ACS allows, or up to the host.
(Log 65 DEDUCED.) -/
def fromDevice (s : State) (k : Pkt) (t v : Nat) : Route :=
  match k.msg.op with
  | .biSnp _ => match toHost s { k with org := .fwdSnoop k.ing } t with
    | .to k => .to k
    | _ => .drop true
  | _ =>
    if !carriesAddr k.msg.op then .fail k (refusedForm k.msg.op) true else
    match hbrOf s t k.msg.addr with
    | .pool d => toPool s k d
    | .vppb w b =>
      if !isTlp k.msg.op then toBind s k b else
      match acsOf (getVppb s t v) w with
      | .pass => toBind s k b
      | .block => .fail k .ca false
      | .up => toHost s k t
    | .none => toHost s k t

/-- Whether a port takes unordered I/O (R61). -/
def uioOk (x : Port) : Bool := isEdge x && (x.mode == 1 || x.mode == 3) && bit x.cfg 16

/-- Resolve a request received on a port. -/
def routeReq (s : State) (p : Nat) (k : Pkt) : Route :=
  let x := getPort s p
  let m := k.msg
  let tooLong := (ingressMps s p m.ld).any fun n => isTlp m.op && isWrite m.op && n < m.len
  if tooLong then .drop true else
  if isUio m.op && isEdge x && !uioOk x then .fail k .ur false else
  let r := match roleOf x with
    | 1 => fromHost s { k with ten := some (cfgTen x), msg := { m with srcPbr := cfgPbr x } } (cfgTen x)
    | 2 =>
      match ingressVppb s p m.ld with
      | some (t, v) => fromDevice s { k with ten := some t, msg := { m with srcPbr := cfgPbr x } } t v
      | none => .fail k (refusedForm m.op) true
    | 4 =>
      match proxyIn s p m.srcPbr with
      | some src => byPbr s { k with ten := tenOfPbr s src, msg := { m with srcPbr := src } }
      | none => .fail k (refusedForm m.op) true
    | 5 => byPbr s k
    | _ => byPbr s { k with ten := tenOfPbr s m.srcPbr }
  match r with
  | .to k => if isUio m.op && isEdge x && k.dest != .pool then .fail k .ur false else .to k
  | r => r

/-! ## Responses received on a port -/

/-- The open request a response on a port answers: on a link to an edge by its tag, on a PBR link by tag and both PBR IDs.
(Log 5 DESIGN CHOICE.) -/
def openOf (s : State) (p : Nat) (m : Msg) : Option Open :=
  s.core.opens.find? fun o =>
    if isEdge (getPort s p) then o.port == p && o.pkt.msg.tag == m.tag && (match o.pkt.org with | .snoop .. | .fwdSnoop _ => false | _ => true)
    else o.port < 96 && 3 ≤ roleOf (getPort s o.port) && o.pkt.msg.tag == m.tag && o.pkt.msg.srcPbr == m.dstPbr && o.pkt.msg.dstPbr == m.srcPbr

/-- The open snoop a host's response answers. (Log 65 DEDUCED.) -/
def snoopOf (s : State) (p : Nat) (m : Msg) : Option Open :=
  s.core.opens.find? fun o => o.port == p && (o.pkt.msg.addr / 64 == m.addr / 64) &&
    (match o.pkt.org with | .snoop _ e => (tget {} (getTen s (o.pkt.ten.getD 0)).sharer e).pbr == (if isEdge (getPort s p) then cfgPbr (getPort s p) else m.srcPbr)
                          | .fwdSnoop _ => true | _ => false)

/-- Whether a response reports failure. -/
def rspBad (m : Msg) : Bool :=
  m.poison.any id || (match m.op with | .ioCpl st | .uioCpl st => st != .sc | .go e => e | _ => false)

/-- A response as an answer. -/
def rspAns (m : Msg) : Ans :=
  match m.op with
  | .memData g => .data m.data m.poison g
  | .ioCplD => .data m.data m.poison .i
  | .go e => if e then .goErr else if m.data.isEmpty then .done .i else .data m.data m.poison .i
  | .ioCpl st | .uioCpl st => match st with | .sc => .done .i | .ur => .ur | .ca => .ca
  | _ => .done .i

/-- The message a response becomes inside: addressed from the request's destination to its source. -/
def rspFrom (r : Pkt) (m : Msg) : Msg := { m with srcPbr := r.msg.dstPbr, dstPbr := r.msg.srcPbr, tag := r.msg.tag, ld := r.msg.ld }

/-- A response on its way to whoever made the request. -/
def rspTo (s : State) (p : Nat) (r : Pkt) (m : Msg) : Pkt :=
  let base : Pkt := { id := 0, msg := rspFrom r m, org := .answer, ten := r.ten, stw := r.stw, ing := p, resp := true
                      prio := prioOf (getPort s p) m, seq := r.id, iunit := r.iunit, istamp := r.istamp, tunit := r.tunit
                      tstamp := r.tstamp, admitted := now s, colour := .green }
  match r.org with
  | .port a => if isEdge (getPort s a) then { base with dest := .port a, out := a } else { resolvePbr s base with org := .answer }
  | .fwdSnoop a => { base with dest := .port a, out := a }
  | .snoop line e => { base with org := .snoop line e, dest := .pool, out := 96 + lineChan s line }
  | o => { base with org := o, dest := .engine, out := 108 }

/-- Data bytes an open request still misses. -/
def openMore (o : Open) (m : Msg) : Bool := isRead o.pkt.msg.op && !rspBad m && o.got + dataLen m < o.pkt.msg.len

/-- Record what an open request has received; a member copy's outcome ends it (R107), and so does the completion that the device
consumes (R201). -/
def openGot (s : State) (o : Open) (m : Msg) : State :=
  let f (x : Open) : Open :=
    if x.pkt.id == o.pkt.id then { x with got := x.got + dataLen m, done := !openMore o m } else x
  { s with core := { s.core with opens := s.core.opens.map f } }

/-- Close an open request. -/
def closeOpen (s : State) (id : Nat) : State :=
  { s with core := { s.core with opens := s.core.opens.filter fun o => o.pkt.id != id } }

/-- A response received on a port. On a PBR link one that answers no open request passes through toward another device; toward this
device it is a late reply, discarded (R307, R361). (Log 5 DESIGN CHOICE.) -/
def recvRsp (s : State) (p : Nat) (m : Msg) : State :=
  match m.op with
  | .biRsp _ =>
    match snoopOf s p m with
    | some o => addPkt s (rspTo s p o.pkt { m with addr := o.pkt.msg.addr })
    | none => dirLog s 7 (lineTen s (m.addr / 64)) 0 0 (m.addr / 64)
  | _ =>
    match openOf s p m with
    | none =>
      if isEdge (getPort s p) then logOpen s (uPort p) 0
      else
        let k := resolvePbr s { id := 0, msg := m, org := .answer, ten := tenOfPbr s m.dstPbr, ing := p, resp := true
                                prio := prioOf (getPort s p) m, admitted := now s, colour := .green }
        match k.dest with
        | .none => logOpen s (uPort p) 0
        | .port q => if isEdge (getPort s q) then staleDrop s k else addPkt s k
        | _ => staleDrop s k
    | some o =>
      let s := openGot s o m
      match o.pkt.org with
      | .member wid i => memberOutcome (closeOpen s o.pkt.id) wid i (!rspBad m)
      | _ =>
        let last := !openMore o m
        let s := if o.pkt.splitUr && !isRead o.pkt.msg.op then s else addPkt s (rspTo s p o.pkt m)
        if o.pkt.splitUr && last then addPkt s (rspTo s p o.pkt { m with op := .ioCpl .ur, data := [], poison := [], len := 0, slots := 1 }) else s

/-- Whether a port has a request to a line outstanding. -/
def reqOpen (s : State) (p line : Nat) : Bool :=
  let mine (k : Pkt) : Bool := k.org == .port p && lineOf k == line
  s.home.queue.any mine || s.home.txns.any (fun t => t.req.any mine || t.chain.any mine) ||
    s.core.pkts.any (fun k => mine k && k.dest == .pool && !k.resp)

/-- BIConflict is answered at once (R179); one with no request is a protocol error (Table COH-10). (Log 65 DEDUCED.) -/
def conflictAck (s : State) (p line sharer tag : Nat) : State :=
  let t := lineTen s line
  let s := countEv s 0x400A 0 t 1
  let s := if reqOpen s p line then s else dirLog s 7 t sharer 0 line
  addPkt s { id := 0, msg := { op := .biConflictAck, addr := line * 64, tag := tag, dstPbr := cfgPbr (getPort s p) }, org := .answer,
             ing := 96 + lineChan s line, dest := .port p, out := p, resp := true, admitted := now s, colour := .green }

/-- The sharer behind a port in a line's tenant. -/
def sharerAt (s : State) (line p : Nat) : Nat :=
  (((getTen s ((lineTen s line).getD 16)).sharer.find? fun e => e.2.valid && e.2.port == p).map fun e => e.1).getD 0

/-! ## FLIT_RECEIVE (R77) -/

/-- A port whose link carries messages now. -/
def carrying (s : State) (p : Nat) : Bool :=
  let x := getPort s p
  let q := getQuire s (quireOf p)
  leadPort s p && x.link == .up && !portDown x && q.rst == .run && !q.busy && (roleOf x != 4 || x.gwOk)

/-- An unroutable request: counted and logged with its quire (R53). -/
def unroutable (s : State) (p : Nat) (t : Option Nat) : State :=
  let u : UnitId := ⟨1, quireOf p⟩
  logOpen (quireCount s (quireOf p) 2 t 1) u 0

/-- A request resolved: its cadence match or its meter colour (R119, R122, R123), its place in ingress staging. -/
def stageReq (s : State) (p : Nat) (k : Pkt) : State :=
  if (cadOf s k).isSome then addPkt s { k with colour := .green }
  else
    let c := colourOf s p k.msg k.prio k.ten
    let red := c.1 == .red
    let s := if red then portCount c.2 p 7 k.ten 1 else c.2
    addPkt s { k with colour := c.1, prio := demote c.1 k.prio, stage := if red then .heldRed else .staged }

/-- A request received on a port, with what the link says of its issuer. (Log 5 DESIGN CHOICE.) -/
def recvReqK (s : State) (p : Nat) (k : Pkt) : State :=
  let x := getPort s p
  let io := isIo k.msg.op
  let sq := if io then x.ioSeq + 1 else 0
  let s := if io then modPort s p fun x => { x with ioSeq := x.ioSeq + 1 } else s
  match routeReq s p { k with seq := sq } with
  | .to k => stageReq s p k
  | .cfg t => cfgRequest s { k with ten := some t } t
  | .fail k a un => answer (if un then unroutable s p k.ten else logOpen s (uPort p) 0) k p .queued a
  | .drop log => if log then logOpen s (uPort p) 0 else s

/-- A request received on a port whose link carries no tenant. -/
def recvReq (s : State) (p : Nat) (m : Msg) : State :=
  let x := getPort s p
  recvReqK s p { id := 0, msg := m, org := .port p, ing := p, prio := prioOf x m, admitted := now s
                 iunit := some (uPort p), istamp := x.genTag }

/-- An enabled edge port of this device with a PBR ID. -/
def edgeWith (s : State) (pbr : Nat) : Option Nat := (s.port.find? fun e => e.2.enabled && isEdge e.2 && cfgPbr e.2 == pbr).map fun e => e.1

/-- A management message is for this device: its management point, the link partner of a JOIN or a GATEWAY, the device of a
VIRAL's sharer (R324, R326, R328). -/
def mgmtHere (s : State) (kind dst : Nat) : Bool :=
  kind == 1 || kind == 12 || (if kind = 11 then (edgeWith s dst).isSome else dst == s.stk.mgmtPbr)

/-- A management message in a flit: dropped on an edge port and, but for VIRAL, on a gateway (R325, R335); one for this device
is taken by its own row; any other passes through, routed by PBR ID. (Log 5 DESIGN CHOICE.) -/
def recvMgmt (s : State) (p kind : Nat) (m : Msg) : State :=
  let x := getPort s p
  if isEdge x || (roleOf x == 4 && kind != 11 && kind != 12) then msgDrop s
  else if mgmtHere s kind m.dstPbr then s else recvReq s p m

/-- One message of a flit. -/
def recvMsg (p : Nat) (s : State) (m : Msg) : State :=
  let s := if m.poison.any id then portCount s p 8 (portTen (getPort s p)) 1 else s
  match m.op with
  | .mgmt k => recvMgmt s p k m
  | .biConflict => match snoopOf s p m with
    | some o => conflictAck s p (lineOf { o.pkt with paddr := o.pkt.msg.addr }) (sharerAt s (o.pkt.msg.addr / 64) p) m.tag
    | none => conflictAck s p (m.addr / 64) (sharerAt s (m.addr / 64) p) m.tag
  | _ => if isRsp m.op then recvRsp s p m else recvReq s p m

/-- Data cells that continue a message begun by an earlier flit of the port. -/
def recvCont (p : Nat) (s : State) (c : Cont) : State :=
  match s.core.pkts.find? fun k => k.ing == p && k.msg.tag == c.tag && written k.msg < cells k.msg with
  | some k => modPkt s k.id fun k =>
      let n := ceilDiv k.msg.data.length 64
      let bad := if c.poison.any id then (List.range n).map (fun i => k.msg.poison.getD i false) ++ c.poison else k.msg.poison
      { k with msg := { k.msg with data := (k.msg.data ++ c.data).take (dataLen k.msg), poison := bad } }
  | none => s

/-- A received flit of a port whose link carries messages. (Log 5 DESIGN CHOICE, 47 DESIGN CHOICE.) -/
def recvFlit (p : Nat) (f : Flit) (s : State) : State :=
  let t := portTen (getPort s p)
  let s := portCount (portCount s p 0 t 1) p 2 t f.bytes
  let s := topDown s 1 (2 * quireOf p) 0 t 1
  let s := modQuire s (quireOf p) fun q => { q with wheelRx := p % 8 }
  let s := modPort s p fun x => { x with reqCredit := x.reqCredit + f.reqCredits, rspCredit := x.rspCredit + f.rspCredits }
  f.msgs.foldl (recvMsg p) (f.conts.foldl (recvCont p) s)

/-- FLIT_RECEIVE. A stack port receives leaves, not flits. -/
def execFlitReceive (p : Nat) (f : Flit) (s : State) : Res :=
  unitOk (p < 96) (if carrying s p && roleOf (getPort s p) != 5 then recvFlit p f s else s)

/-! ## Admission (R95, R96, R99) -/

/-- The oldest message of a point's ingress staging in a class: what stands behind it waits (R96). -/
def stagedHead (s : State) (ing : Nat) (resp : Bool) : Option Pkt :=
  s.core.pkts.find? fun k => k.ing == ing && k.resp == resp && isStaged k

/-- Whether a request is checked at the centre: EN's clients check their own lines (R195, R197). -/
def toCentre (k : Pkt) : Bool := !k.resp && carriesAddr k.msg.op && (match k.org with | .mirror _ => false | _ => true)

/-- Whether a message is routed anew by its PBR ID at admission: links and buckets may have changed. -/
def reroute (s : State) (k : Pkt) : Pkt :=
  match k.dest, k.org with
  | .port _, .port _ => let k' := resolvePbr s k; if k'.dest = .none then { k with dest := .none, out := 127 } else k'
  | .pool, _ => if k.resp then k else { k with out := poolOut s k }
  | _, _ => k

/-- The fence a message newly admitted meets: the re-pinning fence of its group (R85), the cadence fence of its flow (R134). -/
def fenceOf (s : State) (k : Pkt) : Fence :=
  match k.ecmp with
  | some g => if (getEcmp s g).fence then .ecmp g else cadF
  | none => cadF
where
  cadF : Fence :=
    match s.core.cad.find? fun e => match e.2.fence with
      | some (v, d) => cadFlow { e.2 with ctrl := v, dst := d } k
      | none => false with
    | some e => .cad e.1
    | none => .none

/-- Hold a message for its queue. (Log 88 DEDUCED.) -/
def holdMsg (s : State) (k : Pkt) (out : Nat) : State :=
  let n := qclassOf k
  let was := qCrit s out n
  let s := if k.stage == .heldBuf then s else
    let s := countEv s 0x7001 0 k.ten 1
    if k.ing < 96 then topDown (portCount s k.ing 6 k.ten 1) 1 (2 * quireOf k.ing) 3 none 1 else s
  critEv (modPkt s k.id fun x => { x with stage := .heldBuf, out := out }) was out n

/-- A message is admitted: its cells are allocated and counted, its schedule and fence are found, its ingress copies taken. -/
def admitMsg (s : State) (k : Pkt) : State :=
  let red := k.colour == .red
  let k' := { k with stage := if toCentre k then .centre else .queued, cad := cadOf s k, fence := fenceOf s k, admitted := now s }
  let s := movePkt s k'
  let s := countEv s 0x7000 0 k.ten (cells k.msg)
  let s := if k.ing < 96 then portCount s k.ing 4 k.ten 1 else s
  let s := qMarks s k.out (qclassOf k)
  if k.ing < 96 then mirTake s k.ing false red k' else s

/-- A read of a group, or an atomic to one (R105): the member that serves it, or the answer without one.
(Log 52 DEDUCED, 64 DEDUCED.) -/
def groupRead (s : State) (k : Pkt) (gi : Nat) : State :=
  let g := getRgrp s gi
  let no (s : State) : State := answer (dropPkt s k) k k.ing .queued (refusedForm k.msg.op)
  if !rgValid g.header then no s
  else if isAtom k.msg.op then no (logEvent s (uBlock 4) 0x02 gi 0)
  else if rgKind1 g.header then no s
  else match readMember g with
    | none => no s
    | some m =>
      let k' := resolvePbr s { k with msg := memberMsg g m k.msg }
      match k'.dest with
      | .none | .repl _ => no s
      | _ => modPkt s k.id fun _ => { k' with stage := .staged }

/-- A write to a group at admission (R99, R110): held while a member's queue or the store has no room. (Log 64 DEDUCED.) -/
def groupWrite (s : State) (k : Pkt) (gi : Nat) : State :=
  let g := getRgrp s gi
  if !rgValid g.header then answer (dropPkt s k) k k.ing .queued (refusedForm k.msg.op)
  else if storeRoom s < (writeMembers g).length then holdMsg s k 127
  else match groupBlock s k gi with
    | some c => holdMsg s k c.out
    | none =>
      let s := countEv (setPkts s (s.core.pkts.filter fun x => x.id != k.id)) 0x7000 0 k.ten (cells k.msg)
      let s := if k.ing < 96 then mirTake (portCount s k.ing 4 k.ten 1) k.ing false (k.colour == .red) k else s
      startWriteAll s k gi

/-- Admit or hold the oldest message of a point's staging in a class; a red one waits for its meter. -/
def admitNext (ing : Nat) (resp : Bool) (s : State) : State :=
  match stagedHead s ing resp with
  | none => s
  | some k0 =>
    if k0.stage == .heldRed then s else
    let k := { reroute s k0 with stage := k0.stage }
    match k.dest with
    | .none =>
      if resp then dropPkt s k0 else answer (unroutable (dropPkt s k0) (min k.ing 95) k.ten) k0 k0.ing .queued (refusedForm k.msg.op)
    | .repl g => if isWrite k.msg.op then groupWrite s k g else groupRead s k g
    | _ =>
      if (carriesAddr k.msg.op && !k.resp && k.out == 127 && cells k.msg ≤ bufCells - s.core.occ) || admits s k.out (qclassOf k) (cells k.msg) then admitMsg s k
      else holdMsg s k k.out

/-- MESSAGE_ADMISSION. -/
def execMessageAdmission (ing : Nat) (resp : Bool) (s : State) : Res := unitOk (ing < 109) (admitNext ing resp s)

/-- HELD_MESSAGE_RETRY: the head is retried when it is a held one. -/
def execHeldMessageRetry (ing : Nat) (resp : Bool) (s : State) : Res :=
  unitOk (ing < 109) (if (stagedHead s ing resp).any fun k => k.stage == .heldBuf then admitNext ing resp s else s)

/-- The oldest red message of a port is evaluated again: green or yellow once its peak bucket holds its length (R123). -/
def redEval (p : Nat) (s : State) : State :=
  match s.core.pkts.find? fun k => k.ing == p && k.stage == .heldRed with
  | none => s
  | some k =>
    match meterIdx (getPort s p) k.msg k.prio with
    | none => modPkt s k.id fun k => { k with stage := .staged }
    | some i =>
      let mt := getMeter s (quireOf p) i
      if !mt.on then modPkt s k.id fun k => { k with stage := .staged } else
      let r := meterEval mt (mono s) (meterLen mt k.msg)
      let s := modMeter s (quireOf p) i fun _ => r.2
      if r.1 = .red then s else modPkt s k.id fun k => { k with stage := .staged, prio := demote r.1 k.prio }

/-- RED_MESSAGE_REEVALUATION. -/
def execRedMessageReevaluation (p : Nat) (s : State) : Res := unitOk (p < 96) (redEval p s)

/-! ## REQUEST_AT_CENTRE -/

/-- How a request is checked (Table DKL-2). -/
def centreChk (k : Pkt) : Chk :=
  let n := needs k.msg.op
  let q : Chk := { space := 0, addr := k.msg.addr, stw := k.stw, ten := k.ten.getD 16, r := n.1, w := n.2.1, a := n.2.2 }
  match k.dest with
  | .pool => q
  | .engine => { q with space := 3 }
  | _ => { q with space := 1, dst := k.msg.dstPbr }

/-- The part of a request before its first refused line (R201). -/
def passing (k : Pkt) (i : Nat) : Pkt :=
  let n := (k.msg.addr / 64 + i) * 64 - k.msg.addr
  { k with msg := { k.msg with len := n, data := k.msg.data.take n }, splitUr := nonPosted k.msg.op }

/-- Log a request to a closed pool or to a line that resolves to no entry of its own (R148, R150): in the pool block's log. -/
def poolLost (s : State) (k : Pkt) : State := answerBad (logOpen (dropPkt s k) (uBlock 2) 0) k (lostForm k.msg.op)

/-- A line of a pool request at its channel. -/
def poolLine (s : State) (k : Pkt) (pa : Nat) : Pkt :=
  let e := getSheet s (pa / 2 ^ 28)
  let l := locP s e (pa / 64 * 64)
  { k with paddr := pa, ent := e, out := 96 + l.1, tunit := some ⟨3, l.1⟩, tstamp := (getChan s l.1).genTag }

/-- Cut a request into lines: offset, length. (Log 22 DESIGN CHOICE.) -/
def lineCuts (addr len : Nat) : List (Nat × Nat) :=
  (List.range (lineCount addr len)).map fun i =>
    let a := if i = 0 then addr else (addr / 64 + i) * 64
    (a - addr, min (addr + len) ((addr / 64 + i + 1) * 64) - a)

/-- A pool request longer than a line is served line by line (R150, R201; notes/assumptions/5.md). (Log 22 DESIGN CHOICE.) -/
def gatherStart (s : State) (k : Pkt) : State :=
  let cuts := lineCuts k.msg.addr k.msg.len
  let gid := s.nextId
  let g : Gather := { id := gid, pkt := { k with tunit := none, out := 96 }, left := cuts.length, data := if isRead k.msg.op then zeros k.msg.len else [] }
  let s := dropPkt { s with nextId := s.nextId + 1, core := { s.core with gathers := s.core.gathers ++ [g] } } k
  let part (c : Nat × Nat) : Pkt :=
    let bad := k.msg.poison.getD (c.1 / 64) false
    { k with org := .part gid c.1, msg := { k.msg with
        addr := k.msg.addr + c.1, len := c.2, data := if isWrite k.msg.op then slice k.msg.data c.1 c.2 else [],
        poison := if bad then [true] else [] } }
  cuts.foldl (fun s c =>
    let q := part c
    match poolAddr s (if q.stw then none else some (q.ten.getD 16)) q.msg.addr with
    | some pa =>
      let q := { poolLine s q pa with stage := .queued }
      qMarks (addPkt s q) q.out (qclassOf q)
    | none => answer (logOpen s (uBlock 2) 0) q q.ing .queued (lostForm q.msg.op)) s

/-- A pool request past its check: the pool closed or the line unresolved, a request of several lines, or on to its channel. -/
def poolCentre (s : State) (k : Pkt) : State :=
  match poolAddr s (if k.stw then none else some (k.ten.getD 16)) k.msg.addr with
  | none => poolLost s k
  | some pa =>
    if 1 < lineCount k.msg.addr k.msg.len && isTlp k.msg.op && !isAtom k.msg.op then gatherStart s k
    else
      let k' := { poolLine s k pa with stage := .queued }
      qMarks (modPkt s k.id fun _ => k') k'.out (qclassOf k')

/-- A request past its check toward a port: the stand-in responder answers for a unit in reset, held or couched (R20, R309). -/
def portCentre (s : State) (k : Pkt) (p : Nat) : State :=
  if portDown (getPort s p) then portStandIn (dropPkt s k) k p
  else if (getQuire s (quireOf p)).busy then standIn (dropPkt s k) k ⟨1, quireOf p⟩ 1 false
  else modPkt s k.id fun k => { k with stage := .queued, tunit := some (uPort p), tstamp := (getPort s p).genTag }

/-- A request past its check. -/
def pastCheck (s : State) (k : Pkt) : State :=
  match k.dest with
  | .pool => poolCentre s k
  | .port p => portCentre s k p
  | _ => modPkt s k.id fun k => { k with stage := .queued }

/-- A request the check refuses whole (R197). -/
def centreRefuse (s : State) (k : Pkt) (v : Verdict) (n : Nat) : State :=
  refuse (dklRefuse (dropPkt s k) (centreChk k) v k.ing n) k

/-- The check of a request at the centre (R19, R200, R201). -/
def atCentre (s : State) (k : Pkt) : State :=
  if k.ing == 108 then pastCheck s k
  else if !k.stw && k.ten.isNone then centreRefuse s k .noMatch 1
  else
    let n := lineCount k.msg.addr k.msg.len
    match dklLines s (centreChk k) n with
    | none => pastCheck s k
    | some (i, v) =>
      if i = 0 || !isTlp k.msg.op then centreRefuse s k v (n - i)
      else
        let q := centreChk k
        let s := dklLog s 2 k.ten q.space k.ing (k.msg.addr / 64 + i) q.dst (n - i)
        let k' := passing k i
        pastCheck (modPkt s k.id fun _ => k') k'

/-- A write of several lines to the pool is cut at the centre once its data is there. (Log 22 DESIGN CHOICE.) -/
def centreReady (k : Pkt) : Bool :=
  k.dest != .pool || !isTlp k.msg.op || !isWrite k.msg.op || lineCount k.msg.addr k.msg.len == 1 || written k.msg == cells k.msg

/-- REQUEST_AT_CENTRE. -/
def execRequestAtCentre (ing : Nat) (s : State) : Res :=
  unitOk (ing < 109) (
    match s.core.pkts.find? fun k => k.ing == ing && k.stage == .centre && centreReady k with
    | some k => atCentre s k
    | none => s)

end Sys2Proof.Machine
end

