-- ==== Sys2Proof/Machine/Channels.lean ====
section
/-!
DEFINITION. The pool's commands (06): channels, groups, opening, the logs and the Sheet Table's window; and the home's (07): the
request kinds, snoop answers, conflicts, timeouts, walks, and the directory's registers.
-/

namespace Sys2Proof.Machine

/-! ## Channels (R139 to R144) -/

/-- A channel is a member of an enabled group. -/
def inEnabled (s : State) (ch : Nat) : Bool := s.pool.grp.any fun g => g.2.enable && bit g.2.mask ch

/-- A write of POOL_CH_CTRL. -/
def chanCtrlWrite (s : State) (ch : Nat) (v : W32) : State :=
  let x := getChan s ch
  let s :=
    if bit v 31 && !x.enable then
      modChan (tapEnd s) ch fun x => if x.st == .inReset then { x with enable := true, stBefore := .training, fail := 0 }
        else { x with enable := true, st := .training, fail := 0 }
    else if !bit v 31 && x.enable && !inEnabled s ch then
      modChan s ch fun x => { x with enable := false, st := if x.st == .inReset then .inReset else .off, stBefore := .off
                                     fail := 0, dimms := 0, capacity := 0, mrdimm := none }
    else s
  if bit v 30 && (getChan s ch).st == .trained then modChan s ch fun x => { x with st := .initialising } else s

/-- POOL_CH_ENABLE. -/
def execPoolChEnable (ch : Nat) (s : State) : Res := unitOk (ch < 12) (chanCtrlWrite s ch 0x80000000)
/-- POOL_CH_DISABLE. -/
def execPoolChDisable (ch : Nat) (s : State) : Res := unitOk (ch < 12) (chanCtrlWrite s ch 0)
/-- INIT_START. -/
def execInitStart (ch : Nat) (s : State) : Res :=
  unitOk (ch < 12) (if (getChan s ch).st == .trained then modChan s ch fun x => { x with st := .initialising } else s)

/-- The pool's present kind, MRDIMM or RDIMM (R140): that of a channel that passed its check and is neither off nor failed.
(Log 52 DEDUCED.) -/
def presentKind (s : State) : Option Bool :=
  s.pool.chan.findSome? fun c => if c.2.st == .off || c.2.st == .failed then none else c.2.mrdimm

/-- Whether Table POOL-1 lists a rate code for a population. -/
def rateListed (m : Spd) (code : Nat) : Bool :=
  if m.mrdimm then m.dimms == 1 && (code == 8 || code == 9) else if m.dimms == 1 then code ≤ 4 else code ≤ 2

/-- fail_code of a bring-up: 0 when it succeeds. -/
def chanFail (s : State) (m : Spd) : Nat :=
  if m.dimms = 0 then 1
  else if !m.readable then 2
  else if !(m.mrdimm || m.rdimm) || (presentKind s).any (fun k => k != m.mrdimm) then 3
  else if !m.x4Org then 4
  else if 2 ≤ m.dimms && m.differ then 5
  else if !rateListed m s.pool.rate || !m.rates.contains s.pool.rate then 6
  else if 2048 < m.units then 7
  else if !m.trains then 8
  else 0

/-- SPD check and training end. (Log 52 DEDUCED.) -/
def chanTrained (ch : Nat) (m : Spd) (s : State) : State :=
  let x := getChan s ch
  if x.st != .training then s else
  let f := chanFail s m
  modChan s ch fun x =>
    { x with fail := f, dimms := min 2 m.dimms, st := if f = 0 then .trained else .failed, capacity := if f = 0 then m.units else 0
             mrdimm := if f = 0 then some m.mrdimm else none }

/-- CHANNEL_TRAINING_DONE. -/
def execChannelTrainingDone (ch : Nat) (spd : Spd) (s : State) : Res := unitOk (ch < 12) (chanTrained ch spd s)

/-- Every line of a channel holds zero data. -/
def zeroChan (s : State) (ch : Nat) : State :=
  { s with pool := { s.pool with mem := s.pool.mem.filter fun e => e.1 / 2 ^ 40 != ch
                                 poison := s.pool.poison.filter fun e => e.1 / 2 ^ 34 != ch } }

/-- CHANNEL_INIT_DONE. -/
def execChannelInitDone (ch : Nat) (s : State) : Res :=
  unitOk (ch < 12) (if (getChan s ch).st == .initialising then modChan (zeroChan s ch) ch fun x => { x with st := .ready } else s)

/-- A channel is lost after training (R143, R154). -/
def chanLost (s : State) (ch : Nat) : State :=
  restartTakes s (leaveService (modChan s ch fun x => { x with st := .failed, fail := 9 }) ch)

/-- CHANNEL_LOST. -/
def execChannelLost (ch : Nat) (s : State) : Res :=
  unitOk (ch < 12) (
    let st := (getChan s ch).st
    if st == .trained || st == .initialising || st == .ready || st == .grouped then chanLost s ch else s)

/-! ## Groups and the pool (R145, R146, R148) -/

/-- An enable of a group with a mask succeeds. -/
def grpReady (s : State) (g : Nat) (mask : BitVec 12) : Bool :=
  mask != 0 && (List.range 12).all fun c => !bit mask c ||
    ((getChan s c).st == .ready && !(s.pool.grp.any fun h => h.1 != g && h.2.enable && bit h.2.mask c))

/-- A sheet names a group. -/
def grpNamed (s : State) (g : Nat) : Bool :=
  s.pool.sheet.any fun e => shValid e.2 && (shPg e.2 == g || (shMst e.2 != 0 && shMg e.2 == g))

/-- Change the state of every member of a group that is in state `a`. (Log 52 DEDUCED.) -/
def memberSt (s : State) (mask : BitVec 12) (a b : ChSt) : State :=
  forL ((List.range 12).filter fun c => bit mask c) s fun s c => if (getChan s c).st == a then modChan s c fun x => { x with st := b } else s

/-- A write of POOL_GRP. (Log 52 DEDUCED.) -/
def grpWrite (s : State) (g : Nat) (v : W32) : State :=
  let s := modGrp s g fun x => { x with refused := x.refused && !bit v 30 }
  let x := getGrp s g
  let mask : BitVec 12 := v.setWidth 12
  let no := modGrp s g fun x => { x with refused := true }
  if x.enable then
    if bit v 31 then s
    else if grpNamed s g then no
    else modGrp (memberSt s x.mask .grouped .ready) g fun x => { x with enable := false, slots := 0, map := [] }
  else if !bit v 31 then modGrp s g fun x => { x with mask := mask }
  else if !grpReady s g mask then no
  else modGrp (memberSt s mask .ready .grouped) g fun x => { x with enable := true, mask := mask, slots := grpSlots s mask, map := [] }

/-- POOL_GRP_ENABLE. -/
def execPoolGrpEnable (g : Nat) (v : W32) (s : State) : Res := unitOk (g < 16) (if bit v 31 then grpWrite s g v else s)
/-- POOL_GRP_DISABLE. -/
def execPoolGrpDisable (g : Nat) (v : W32) (s : State) : Res := unitOk (g < 16) (if bit v 31 then s else grpWrite s g v)

/-- Open the pool, or close it. -/
def poolSet (s : State) (on : Bool) : State :=
  if on == s.pool.opened then s
  else if (if on then s.pool.grp.any fun g => g.2.enable else !(s.pool.sheet.any fun e => shValid e.2)) then
    { s with pool := { s.pool with opened := on } }
  else { s with pool := { s.pool with openErr := true } }

/-- A write of POOL_CTRL. -/
def poolCtrlWrite (s : State) (v : W32) : State :=
  let anyOn := s.pool.chan.any fun c => c.2.enable
  poolSet { s with pool := { s.pool with openErr := s.pool.openErr && !bit v 30, rate := if anyOn then s.pool.rate else fld v 0 4 } } (bit v 31)

/-- POOL_OPEN. -/
def execPoolOpen (s : State) : Res := unitOk true (poolSet s true)
/-- POOL_CLOSE. -/
def execPoolClose (s : State) : Res := unitOk true (poolSet s false)

/-! ## Reads, logs, the scrubber, the window -/

/-- DRAM_READ_DONE. -/
def execDramReadDone (line : Nat) (prim sec : Ecc) (s : State) : Res := unitOk true (dramReadDone line prim sec s)
/-- DRAM_WRITE_ACCEPTED. -/
def execDramWriteAccepted (line : Nat) (second : Bool) (s : State) : Res := unitOk true (dramWriteAccepted line second s)
/-- SCRUB_READ. -/
def execScrubRead (ch : Nat) (here other : Ecc) (s : State) : Res := unitOk (ch < 12) (scrubRead ch here other s)

/-- ce_clear. -/
def ceClear (s : State) (ch : Nat) : State := modChan s ch fun x => { x with ceLog := [], ceOvf := 0 }
/-- ue_clear. -/
def ueClear (s : State) (ch : Nat) : State := modChan s ch fun x => { x with ueLog := [], ueOvf := 0 }
/-- CE_LOG_CLEAR. -/
def execCeLogClear (ch : Nat) (s : State) : Res := unitOk (ch < 12) (ceClear s ch)
/-- UE_LOG_CLEAR. -/
def execUeLogClear (ch : Nat) (s : State) : Res := unitOk (ch < 12) (ueClear s ch)

/-- A write of POOL_SHT_SEL loads the entry; an index beyond the table loads zero. -/
def shtSelWrite (s : State) (v : W32) : State :=
  let i := fld v 0 15
  { s with pool := { s.pool with shtSel := BitVec.ofNat 32 i, shtData := getSheet s i } }
/-- SHEET_SELECT_WRITE. -/
def execSheetSelectWrite (v : W32) (s : State) : Res := unitOk true (shtSelWrite s v)

/-! ## The home (07) -/

/-- HOME_RDS. -/
def execHomeRds (ch : Nat) (s : State) : Res := unitOk (ch < 12) (homeOp .rds ch s)
/-- HOME_RDE. -/
def execHomeRde (ch : Nat) (s : State) : Res := unitOk (ch < 12) (homeOp .rde ch s)
/-- HOME_RDNC; a refresh is a read of the home's own (R156). -/
def execHomeRdnc (ch : Nat) (s : State) : Res :=
  unitOk (ch < 12) (match nextReq s ch with
    | some r => if (kindOf s r).1 == .rdnc || (kindOf s r).1 == .refresh then takeReq s r else s
    | none => s)
/-- HOME_WRNC. -/
def execHomeWrnc (ch : Nat) (s : State) : Res := unitOk (ch < 12) (homeOp .wrnc ch s)
/-- HOME_EVD. -/
def execHomeEvd (ch : Nat) (s : State) : Res := unitOk (ch < 12) (homeOp .evd ch s)
/-- HOME_EVC. -/
def execHomeEvc (ch : Nat) (s : State) : Res := unitOk (ch < 12) (homeOp .evc ch s)
/-- HOME_ATOM. -/
def execHomeAtom (ch : Nat) (s : State) : Res := unitOk (ch < 12) (homeOp .atom ch s)

/-- BI_RESPONSE. -/
def execBiResponse (line sharer : Nat) (st : CSt) (data : List Byte) (s : State) : Res :=
  unitOk (sharer < 128) (biResponse line sharer st data s)

/-- BICONFLICT_RECEIVED. -/
def execBiconflictReceived (line sharer : Nat) (s : State) : Res :=
  unitOk (sharer < 128) (
    let e := tget {} (getTen s ((lineTen s line).getD 16)).sharer sharer
    if e.valid then conflictAck s e.port line sharer 0 else dirLog s 7 (lineTen s line) sharer 0 line)

/-- SNOOP_TIMEOUT. -/
def execSnoopTimeout (line sharer : Nat) (s : State) : Res := unitOk (sharer < 128) (snoopTimeout line sharer s)

/-- A ream walk is complete: the instruction that waits for it retires, or the take set's event goes out (R186, R296). -/
def walkEnd (s : State) (w : Walk) : State :=
  let s := { s with home := { s.home with walks := s.home.walks.filter (· != w) } }
  let s := match w.ctx with
    | some c => if (getCtx s c).wait == .walk then finishWait s c none else s
    | none => s
  match w.set with
  | some i => takeEv s i
  | none => s

/-- The first walk of a tenant: a reset's ends when its poison writes and frees are done (R192), a ream's when every recall it
started is. (Log 71 DEDUCED.) -/
def walkDone (s : State) (t : Nat) : State :=
  match s.home.walks.find? fun w => w.tenant == t with
  | none => s
  | some w =>
    if w.reset then
      let s := { s with home := { s.home with walks := s.home.walks.filter (· != w) } }
      resetWalk s t
    else if walkClear s w then walkEnd s w else startRecalls s w

/-- DIRECTORY_WALK_DONE. (Log 15 DESIGN CHOICE.) -/
def execDirectoryWalkDone (t : Nat) (s : State) : Res := unitOk (t < 16) (walkDone s t)

/-- The directory log is cleared. -/
def dirClear (s : State) : State := { s with home := { s.home with log := [] } }
/-- DIR_LOG_CLEAR. -/
def execDirLogClear (s : State) : Res := unitOk true (dirClear s)
/-- The tracker peak restarts at the present count. -/
def trackerClear (s : State) : State := { s with home := { s.home with peak := openTxns s } }
/-- TRACKER_PEAK_CLEAR. -/
def execTrackerPeakClear (s : State) : Res := unitOk true (trackerClear s)

/-- The deckle log is cleared (R211). -/
def dklClear (s : State) : State := { s with dkl := { s.dkl with log := [] } }
/-- DECKLE_LOG_CLEAR. -/
def execDeckleLogClear (s : State) : Res := unitOk true (dklClear s)

end Sys2Proof.Machine
end

