-- ==== Sys2Proof/Machine/Boot.lean ====
section
/-!
DEFINITION. Device reset and what survives it (R394, R425 to R435), image verification and boot (R209, R420 to R424), supplies and
trips (R404, R406, R430), and lane references (R365).
-/

namespace Sys2Proof.Machine

/-! ## Device reset (R433, R435) -/

/-- The fuses, the causes, the counts and the straps a device reset keeps; everything else of the global block resets.
(Log 66 DEDUCED.) -/
def glbKept (g : Glb) : Glb :=
  { grade := g.grade, stepping := g.stepping, serial := g.serial, life := g.life, keyValid := g.keyValid, keyRevoked := g.keyRevoked
    svn := g.svn, keyHash := g.keyHash, tapEn := g.life != .secured, causePowerOn := g.causePowerOn, causeResetPin := g.causeResetPin
    causeTableUe := g.causeTableUe, causeReturned := g.causeReturned, causeBrownout := g.causeBrownout
    causeThermtrip := g.causeThermtrip, resets := g.resets, straps := g.straps, ageHours := g.ageHours, ageTjSum := g.ageTjSum
    ageTjMax := g.ageTjMax, inReset := true, resetPinLow := g.resetPinLow, thermHold := g.thermHold, railsDown := g.railsDown }

/-- A slot through a device reset: off, its pass-device detection and what its pins show kept (R391, R394). A slot that was on or
ramping records cause 0b111. (Log 66 DEDUCED.) -/
def slotKept (x : Slot) : Slot :=
  { st := if x.st == .pdf then .pdf else .off, long := x.long, short := x.short, seated := x.seated, iso := x.iso
    warn := x.st == .pdf && x.warn, cause := if gated x.st then 7 else x.cause, vin := x.vin, vout := x.vout, shunt := x.shunt
    vinLow := x.vinLow, presenceDetect := x.presenceDetect }

/-- The reference inputs of ports: the only thing about a port that is not the device's. (Log 66 DEDUCED.) -/
def refsKept (s : State) : Tab Port := s.port.filterMap fun e => if e.2.refOk then none else some (e.1, { refOk := false })

/-- The PERST inputs of the command links. (Log 66 DEDUCED.) -/
def perstKept (x : CmdLink) : CmdLink := { perst := x.perst, rst := if x.perst then .inReset else .run }

/-- The state a device reset leaves while it is held. (Log 66 DEDUCED.) -/
def coldState (s : State) : State :=
  { State.reset with
    glb := glbKept s.glb
    cmd := { linkA := perstKept s.cmd.linkA, linkB := perstKept s.cmd.linkB }
    pwr := { thermtripN := s.pwr.thermtripN }
    pace := { hourIdx := s.pace.hourIdx, hist := s.pace.hist }
    slot := (s.slot.map fun e => (e.1, slotKept e.2)).filter fun e => e.2 != {}
    pwrfail := s.pwrfail, port := refsKept s, tap := s.tap, pending := s.pending, out := s.out, fresh := s.fresh, nextId := s.nextId }

/-- A device reset with its cause recorded; one that meets a reset in progress only records its cause (R434). -/
def deviceReset (s : State) (cause : Glb → Glb) : State :=
  let s := { s with glb := cause s.glb }
  if s.glb.inReset then s
  else coldState (tapEnd { s with glb := { s.glb with resets := satAdd 255 s.glb.resets 1 } })

/-- RESET_N_ASSERT. -/
def execResetNAssert (s : State) : Res :=
  unitOk true (deviceReset s fun g => { g with causeResetPin := true, resetPinLow := true })

/-- BROWNOUT: the monitors watch five rails while RESET_N is deasserted (R430). (Log 67 DEDUCED.) -/
def execBrownout (rail : Rail) (s : State) : Res :=
  unitOk true (if rail == .v33 || s.glb.resetPinLow then s else deviceReset s fun g => { g with causeBrownout := true })

/-- THERMTRIP (R406): the device is held in reset until VDD_CORE is removed. -/
def execThermtrip (sensor : Nat) (s : State) : Res :=
  unitOk (sensor < 9) (
    let s := deviceReset s fun g => { g with causeThermtrip := true, thermHold := true }
    { s with pwr := { s.pwr with thermtripN := true } })

/-- What the loss of VDD_CORE ends: the thermal hold, the survivors of Table RST-4, the pace history and the age counts. -/
def coreLost (s : State) : State :=
  let s := coldState (tapEnd s)
  { s with glb := { s.glb with causePowerOn := false, causeResetPin := false, causeTableUe := false, causeReturned := false
                               causeBrownout := false, resets := 0, thermHold := false, ageHours := 0, ageTjSum := 0, ageTjMax := 0 }
           pace := {}, pwr := { s.pwr with thermtripN := false } }

/-- A slot whose supply is lost: its outputs float and its die's state is gone. -/
def slotLost (x : Slot) : Slot :=
  { long := x.long, short := x.short, seated := x.seated, cause := x.cause, vin := x.vin, vinLow := x.vinLow
    presenceDetect := x.presenceDetect }

/-- SUPPLY_LOSS. (Log 67 DEDUCED.) -/
def execSupplyLoss (rail : Rail) (s : State) : Res :=
  unitOk true (
    let s := { s with glb := { s.glb with railsDown := if s.glb.railsDown.contains rail then s.glb.railsDown else s.glb.railsDown ++ [rail] } }
    match rail with
    | .core => coreLost s
    | .v33 =>
      { s with glb := { s.glb with causeThermtrip := false }, pwr := { s.pwr with slotQueue := [] }
               slot := (s.slot.map fun e => (e.1, slotLost e.2)).filter fun e => e.2 != {} }
    | _ => s)

/-- POWER_UP: the rails rise. VDD_CORE rising sets power_on and clears the pace history and the age counts. (Log 67 DEDUCED.) -/
def execPowerUp (s : State) : Res :=
  unitOk true (
    let core := s.glb.railsDown.contains .core
    let s := { s with glb := { s.glb with railsDown := [] } }
    if core then { s with glb := { s.glb with causePowerOn := true, inReset := true } } else s)

/-- A strap combination that is a fault (R321, R322). -/
def strapFault (x : Straps) : Bool :=
  4 < x.fabricMode.toNat || (x.fabricMode == 3 && x.stackId != 0) || (x.fabricMode == 4 && x.stackId == 0)

/-- Where the boot ROM starts (R422, R432). (Log 4 DEDUCED.) -/
def bootStart (g : Glb) (fault : Bool) : Glb :=
  if fault then { g with bootStage := 5 }
  else if g.life = .returned then { g with bootStage := 4 }
  else match g.straps.bootSrc.toNat with
    | 1 => { g with bootStage := 2 }
    | 3 => { g with bootStage := 5, causeA := 1 }
    | _ => { g with bootStage := 1 }

/-- DEVICE_RESET_RELEASE: the straps are sampled and the boot ROM starts (R428, R431). (Log 4 DEDUCED, 67 DEDUCED.) -/
def execDeviceResetRelease (st : Straps) (s : State) : Res :=
  unitOk true (
    if !s.glb.inReset || s.glb.thermHold || !s.glb.railsDown.isEmpty then s else
    let f := strapFault st
    let mode := st.fabricMode.toNat
    let wait := f || mode == 2 || mode == 4
    let epoch : W32 := if mode == 1 || mode == 3 then 1 else 0
    { s with glb := bootStart { s.glb with inReset := false, resetPinLow := false, straps := st } f
             stk := { s.stk with strapFault := f, mode := mode, joined := !wait, epoch := epoch } })

/-! ## Images (R209, R421) -/

/-- A little-endian field of an image. -/
def imgFld (b : List Byte) (o n : Nat) : Nat := leNat (slice b o n)
/-- The load offset of an image. -/
def imgLoad (h : List Byte) : Nat := imgFld h 8 4
/-- The length of its body. -/
def imgLen (h : List Byte) : Nat := imgFld h 12 4
/-- Its security version. -/
def imgSvn (h : List Byte) : Nat := imgFld h 6 1

/-- A malformed header (R421). -/
def imgMalformed (h : List Byte) : Bool :=
  slice h 0 5 != [0x4F, 0x58, 0x49, 0x4D, 0x01] || imgLoad h % 16 != 0 || imgLen h % 16 != 0 || 2 ^ 20 < imgLoad h + imgLen h

/-- Whether a key slot is fused and not revoked; a device in Returned has none (Table DKL-6). -/
def slotUsable (g : Glb) (n : Nat) : Bool := n < 4 && bit g.keyValid n && !bit g.keyRevoked n && g.life != .returned

/-- The cause of Table BOOT-7 for which an image does not verify, 0 when it does. (Log 8 DESIGN CHOICE.) -/
def imgFail (g : Glb) (h body : List Byte) : Nat :=
  let slot := imgFld h 5 1
  let signed := slice h 0 128 ++ body
  if imgMalformed h then 4
  else if g.life = .returned then 9
  else if slot = 15 then
    if g.life != .blank then 9 else if Config.romKeyAccepts (h ++ body) then 0 else 7
  else if g.life = .blank then 9
  else if !slotUsable g slot then 5
  else if Config.sha384 (slice h 32 96) != tget 0 g.keyHash slot then 6
  else if !Config.ecdsaVerify (slice h 32 96) (slice h 128 96) signed then 7
  else if imgSvn h < g.svn then 8 else 0

/-! ## Boot (R420 to R424) -/

/-- The flash directory is valid (R420). -/
def dirOk (d : List Byte) : Bool :=
  slice d 0 4 == [0x4B, 0x46, 0x42, 0x44] && imgFld d 60 4 == crc32c 0xFFFFFFFF (slice d 0 60)

/-- Record a cause for an image. (Log 68 DEDUCED.) -/
def bootCause (g : Glb) (src : ImgSrc) (c : Nat) : Glb :=
  match src with
  | .a => { g with causeA := c }
  | .b => { g with causeB := c }
  | .host => { g with causeHost := c }

/-- The boot goes on after the last image of the flash: to the host, or it stops. -/
def flashOver (g : Glb) : Glb := { g with bootStage := if g.straps.bootSrc = 2 then 2 else 5, bootImage := none, imageBytes := [] }

/-- The boot goes on after a source that failed with a cause. -/
def bootNext (g : Glb) (src : ImgSrc) (c : Nat) : Glb :=
  let g := bootCause g src c
  match src with
  | .a => if g.dirHasB then { g with bootStage := 1, bootImage := some .b, imageBytes := [] } else flashOver g
  | .b => flashOver g
  | .host => { g with bootStage := 2, bootImage := none, imageBytes := [] }

/-- The source the ROM reads next. -/
def bootSrcDue (g : Glb) : ImgSrc := g.bootImage.getD .a

/-- IMAGE_READ_DONE: `directory` is what the flash holds at offset 0. An invalid directory names no image.
(Log 4 DEDUCED, 68 DEDUCED.) -/
def execImageReadDone (src : ImgSrc) (readable : Bool) (directory image : List Byte) (s : State) : Res :=
  unitOk true (
    let g := s.glb
    if g.inReset || g.bootStage != 1 || src == .host || src != bootSrcDue g then s else
    let first := src == .a
    let ok := !first || dirOk directory
    let m := imgFld directory 5 1
    let g := if first then { g with dirValid := readable && ok, dirMode := if readable && ok && m < 2 then m else 2
                                    dirHasB := readable && ok && imgFld directory 12 4 != 0xFFFFFFFF } else g
    let g := if !readable then bootNext g src 3
      else if !ok then flashOver (bootCause g src 2)
      else { g with bootStage := 3, bootImage := some src, imageBytes := image }
    { s with glb := g })

/-- BOOT_GO: the image the host placed in the program store is verified. A go outside stage 2 is ignored (R423).
(Log 68 DEDUCED.) -/
def bootGo (s : State) : State :=
  if s.glb.inReset || s.glb.bootStage != 2 then s
  else { s with glb := { s.glb with bootStage := 3, bootImage := some .host, imageBytes := [] } }

/-- BOOT_GO. -/
def execBootGo (s : State) : Res := unitOk true (bootGo s)

/-- The image under verification: from the flash, or from the program store at the offset the host gave. -/
def bootBytes (s : State) (src : ImgSrc) : List Byte :=
  match src with
  | .host =>
    let o := s.glb.goOffset.toNat / 16 * 16
    let h := psRead s o 256
    h ++ psRead s (o + 256) (min (imgLen h) (2 ^ 20))
  | _ => s.glb.imageBytes

/-- Why the image does not verify; a host image must load where the host placed its body (R423). -/
def bootFail (s : State) (src : ImgSrc) (b : List Byte) : Nat :=
  let h := slice b 0 256
  if src == .host && imgLoad h != s.glb.goOffset.toNat / 16 * 16 + 256 then 4
  else imgFail s.glb h (slice b 256 (if imgMalformed h then 0 else imgLen h))

/-- S0 starts at the image's entry with the body at its load offset and the rest of the store zero (R422).
(Log 4 DEDUCED, 68 DEDUCED.) -/
def bootStartS0 (s : State) (src : ImgSrc) (b : List Byte) (ms : Nat) : State :=
  let h := slice b 0 256
  let n := match src with | .a => 0 | .b => 1 | .host => 2
  let s := { s with seq := { s.seq with ps := wrBytes [] (imgLoad h) (slice b 256 (imgLen h)), psBad := [] }
                    glb := { s.glb with bootStage := 4, bootSource := n, bootMs := min 0xFFFF ms, loadedSvn := [imgSvn h]
                                        bootImage := none, imageBytes := [] } }
  modCtx s 0 fun x => { x with pc := BitVec.ofNat 20 (imgFld h 16 4), run := .prog none, st := .ready }

/-- IMAGE_VERIFY_DONE, `ms` after the release of RESET_N. A failed host image leaves a zero program store. (Log 4 DEDUCED.) -/
def execImageVerifyDone (ms : Nat) (s : State) : Res :=
  unitOk true (
    match s.glb.bootImage with
    | none => s
    | some src =>
      if s.glb.inReset || s.glb.bootStage != 3 then s else
      let b := bootBytes s src
      let c := bootFail s src b
      if c = 0 then bootStartS0 s src b ms
      else
        let s := { s with glb := bootNext s.glb src c }
        if src == .host then { s with seq := { s.seq with ps := [], psBad := [] } } else s)

/-! ## Command-port resets (R415, R416) -/

/-- Rings in command-host memory are disabled, and S0 hears of it (R416). (Log 76 DEDUCED.) -/
def hostRingsOff (s : State) : State := stewEv (forL (List.range 18) s (ringsOff true))

/-- A command link enters reset; `keep`: its configuration space stays. (Log 74 DEDUCED.) -/
def resetCmd (s : State) (l : Nat) (keep : Bool) : State :=
  let x := getLink s l
  let clear (y : CmdLink) : CmdLink := if keep then y else { y with barsSet := false, msixEnable := false, msixMask := false }
  if x.rst != .run then modLink s l clear else
  let s := modLink s l fun y => clear { y with up := false, rst := .inReset, genTag := y.genTag + 1, rate := 0, lanes := lanesClear y.lanes }
  let s := if x.up then cntAdd s (0x1858 + 0x1000 * l) 1 else s
  let s := newEntry_ s ⟨7, l⟩
  if l = activeLink s then hostRingsOff s else s

/-- The internal reset of a command link ends; under PERST it lasts, and without its reference the link does not train (R408,
R365). -/
def endCmd (s : State) (l : Nat) : State :=
  if (getLink s l).rst == .inReset && !(getLink s l).perst then modLink s l fun x => { x with rst := .run } else s

/-! ## Lane references (R365) -/

/-- Ports of a lane die. -/
def diePorts (die : Nat) : List Nat := (List.range 24).map fun i => 24 * die + i

/-- The command link whose lanes a die carries: any die in x16, dies 0 and 1 for link A, 2 and 3 for link B otherwise (Table
BOOT-2). -/
def dieLink (s : State) (die : Nat) : Nat := if s.cmd.mode = 1 && 2 ≤ die then 1 else 0

/-- Whether a lane die has its reference. -/
def dieRef (s : State) (die : Nat) : Bool := (getPort s (24 * die)).refOk

/-- refclk_lost of a lead port sets, with its Steward event. -/
def refLost (s : State) (p : Nat) : State :=
  let s := modPort s p fun x => { x with refOk := false }
  if !leadPort s p then s else
  let s := laneEv s p (·.evRefclk) (fun l => { l with evRefclk := true }) false
  if (getPort s p).enabled then resetPort s p else modPort s p fun x => { x with lanes := { x.lanes with patRun := false } }

/-- REFCLK_LOSS; it waits while a port reset must wait (R308, R317). -/
def execRefclkLoss (die : Nat) (s : State) : Res :=
  unitOk (die < 4) (
    if (diePorts die).any fun p => leadPort s p && (getPort s p).enabled && (getPort s p).rst == .run && portWaits s p then s else
    let s := forL (diePorts die) s refLost
    let l := dieLink s die
    let ev := modLink s l fun x => { x with lanes := { x.lanes with evRefclk := true } }
    resetCmd ev l true)

/-- REFCLK_RESTORED. -/
def execRefclkRestored (die : Nat) (s : State) : Res :=
  unitOk (die < 4) (forL (diePorts die) s fun s p => modPort s p fun x => { x with refOk := true })

end Sys2Proof.Machine
end

