-- ==== Sys2Proof/Machine/Service.lean ====
section
/-!
DEFINITION. Service instructions (Tables OXI-20 to OXI-22): TENANT, RESETU with the ends of unit resets and holds, COUCH, LOCK, IMAGE,
RESUME; and errors in internal memories (R312 to R314).
-/

namespace Sys2Proof.Machine

/-! ## TENANT (R301, R302) -/

/-- Whether this device is the home of a tenant's context: always outside a stack (R339). -/
def tenHome (s : State) (t : Nat) : Bool :=
  !(s.stk.mode == 3 || s.stk.mode == 4) || fld s.stk.ctxHome (3 * t) 3 == s.glb.straps.stackId.toNat

/-- Create tenant `t` with a snoop timeout and COUNTER_READ. -/
def tenCreate (s : State) (t timeout : Nat) (ctr : Bool) : State :=
  let s := modTen (zeroTenCtrs s t) t fun x =>
    { x with exist := true, timeout := timeout, ctrRead := ctr, base := 0, len := 0, sharer := [] }
  let g := (getCtx s (ctxOf t)).genTag
  setCtx s (ctxOf t) (if tenHome s t then { enable := true, st := .idle, genTag := g } else { genTag := g })

/-- Why a tenant cannot be removed (R302). -/
def tenHeld (s : State) (t : Nat) : Bool :=
  (s.port.any fun e => portTen e.2 == some t && e.2.enabled) || ((getTen s t).vppb.any fun v => v.2.bind != .none) ||
    (getTen s t).len != 0 || s.dkl.tab.any fun e => e.2.valid && e.2.locked && !e.2.stw && e.2.ten == t

/-- A tenant reset must wait for one of the units it resets (R308, R317). (Log 40 DEDUCED, 71 DEDUCED.) -/
def tenWaits (s : State) (t : Nat) : Bool :=
  genWait s ⟨2, t⟩ || genWait s ⟨5, ctxOf t⟩ || (hostLeads s t).any (fun p => (getPort s p).rst == .run && portWaits s p) ||
    (moversOf s (ctxOf t)).any fun ch => genWait s ⟨6, ch⟩

/-- TENANT in the ops a row names. -/
def tenantRun (c : Nat) (row : Nat → Bool) (w : Ox) (eff : State → Nat → State) (s : State) : State :=
  let t := fld w.imm 0 4
  let op := fld w.imm 8 4
  if !row op then s else
  oxRun c 0xA0 w { imm := 0xF0F, B := match op with | 0 => 0x103FF | 2 => 0x3FF | 3 => 0x10000 | _ => 0 }
    (fun _ _ => [(3 < op, 0x11)])
    (fun s _ => if op != 0 && !(getTen s t).exist then retireSt s c 0xA0 w 7 else eff s t) s

/-- TENANT create; a reserved op faults here. -/
def execTenantCreate (c : Nat) (w : Ox) (s : State) : Res :=
  unitOk (c < 18) (tenantRun c (fun n => n == 0 || 3 < n) w (fun s t =>
    if (getTen s t).exist || 256 ≤ vppbsUsed s then retireSt s c 0xA0 w 2
    else retireSt (restartTakes s (tenCreate s t (fld w.B 0 10) (bit w.B 16))) c 0xA0 w 0) s)

/-- TENANT remove: the tenant is reset, then released; the instruction retires when all is done. A removal that meets a reset of
the tenant already in progress joins it (R311). -/
def execTenantRemove (c : Nat) (w : Ox) (s : State) : Res :=
  unitOk (c < 18) (tenantRun c (· == 1) w (fun s t =>
    if tenHeld s t then retireSt s c 0xA0 w 2
    else if !(getTen s t).inReset && tenWaits s t then waitAgain s c
    else modTen (resetTenant (waitWith s c 0xA0 w (.unit 2 t)) t) t fun x => { x with removing := true }) s)

/-- TENANT timeout. -/
def execTenantTimeout (c : Nat) (w : Ox) (s : State) : Res :=
  unitOk (c < 18) (tenantRun c (· == 2) w (fun s t =>
    retireSt (modTen s t fun x => { x with timeout := fld w.B 0 10 }) c 0xA0 w 0) s)

/-- TENANT counter read (R442). -/
def execTenantCounterRead (c : Nat) (w : Ox) (s : State) : Res :=
  unitOk (c < 18) (tenantRun c (· == 3) w (fun s t =>
    retireSt (modTen s t fun x => { x with ctrRead := bit w.B 16 }) c 0xA0 w 0) s)

/-! ## RESETU (R305, R311) -/

/-- The reset of a quire must wait for its handover or for old cells. (Log 40 DEDUCED.) -/
def quireWaits (s : State) (q : Nat) : Bool :=
  (getQuire s q).busy || genWait s ⟨1, q⟩ || (quirePorts s q).any fun p => (getPort s p).rst == .run && genWait s (uPort p)

/-- RESETU of a kind: whether the index names no unit, whether the unit is missing or in reset, whether the reset must wait, and the
reset. The instruction retires when the unit has left reset or its hold has begun. -/
def resetuRun (c kind : Nat) (row : Nat → Bool) (w : Ox) (bad absent waits : State → Nat → Bool) (go : State → Nat → State)
    (s : State) : State :=
  let k := fld w.imm 28 4
  let i := fld w.imm 0 7
  if !row k then s else
  oxRun c 0xA1 w { imm := 0xF000007F } (fun s _ => [(8 < k, 0x11), (bad s i, 0x11)])
    (fun s _ =>
      if absent s i then retireSt s c 0xA1 w 7
      else if waits s i then waitAgain s c
      else go (waitWith s c 0xA1 w (.unit kind i)) i) s

/-- RESETU kind 0; a reserved kind faults here. -/
def execResetuPort (c : Nat) (w : Ox) (s : State) : Res :=
  unitOk (c < 18) (resetuRun c 0 (fun n => n == 0 || 8 < n) w (fun s p => !leadPort s p) (fun s p => (getPort s p).rst != .run) portWaits
    resetPort s)
/-- RESETU kind 1. -/
def execResetuQuire (c : Nat) (w : Ox) (s : State) : Res :=
  unitOk (c < 18) (resetuRun c 1 (· == 1) w (fun _ q => 11 < q) (fun s q => (getQuire s q).rst != .run) quireWaits resetQuire s)
/-- RESETU kind 2. -/
def execResetuTenant (c : Nat) (w : Ox) (s : State) : Res :=
  unitOk (c < 18) (resetuRun c 2 (· == 2) w (fun _ t => 15 < t) (fun s t => !(getTen s t).exist || (getTen s t).inReset) tenWaits
    resetTenant s)
/-- RESETU kind 3. -/
def execResetuPoolChannel (c : Nat) (w : Ox) (s : State) : Res :=
  unitOk (c < 18) (resetuRun c 3 (· == 3) w (fun _ h => 11 < h) (fun s h => (getChan s h).rst != .run) (fun s h => genWait s ⟨3, h⟩)
    resetChan s)
/-- RESETU kind 4. -/
def execResetuSlot (c : Nat) (w : Ox) (s : State) : Res :=
  unitOk (c < 18) (resetuRun c 4 (· == 4) w (fun _ i => 31 < i) (fun s i => (getSlot s i).st == .inReset) (fun s i => genWait s ⟨4, i⟩)
    resetSlot s)
/-- RESETU kind 5: never of the issuing context. -/
def execResetuContext (c : Nat) (w : Ox) (s : State) : Res :=
  unitOk (c < 18) (resetuRun c 5 (· == 5) w (fun _ i => 17 < i || i == c)
    (fun s i => (getCtx s i).st == .inReset || (getCtx s i).st == .off)
    (fun s i => genWait s ⟨5, i⟩ || (moversOf s i).any fun ch => genWait s ⟨6, ch⟩) resetCtx s)
/-- RESETU kind 6. -/
def execResetuMoverChannel (c : Nat) (w : Ox) (s : State) : Res :=
  unitOk (c < 18) (resetuRun c 6 (· == 6) w (fun _ h => 71 < h) (fun s h => (getMov s h).rst != .run) (fun s h => genWait s ⟨6, h⟩)
    resetMover s)
/-- RESETU kind 7: link B exists only when the port is split. -/
def execResetuCommandPort (c : Nat) (w : Ox) (s : State) : Res :=
  unitOk (c < 18) (resetuRun c 7 (· == 7) w (fun _ l => 1 < l) (fun s l => (getLink s l).rst != .run || (l == 1 && s.cmd.mode == 0))
    (fun s l => genWait s ⟨7, l⟩) (fun s l => resetCmd s l true) s)
/-- RESETU kind 8: the domain falls with cause 0b100; the instruction retires after step 4 of R190. -/
def execResetuCoherentDomain (c : Nat) (w : Ox) (s : State) : Res :=
  unitOk (c < 18) (
    let k := fld w.imm 28 4
    let t := fld w.imm 0 7
    if k != 8 then s else
    oxRun c 0xA1 w { imm := 0xF000007F } (fun _ _ => [(15 < t, 0x11)])
      (fun s _ => if !(getTen s t).exist || (getTen s t).inReset then retireSt s c 0xA1 w 7
        else retireSt (domainFall s t 4 0 0) c 0xA1 w 0) s)

/-- Whether a unit's reset is over, or its hold has begun. -/
def unitSettled (s : State) (kind i : Nat) : Bool :=
  match kind with
  | 0 => (getPort s i).rst != .inReset
  | 1 => (getQuire s i).rst != .inReset
  | 2 => !(getTen s i).inReset
  | 3 => (getChan s i).rst != .inReset
  | 4 => (getSlot s i).st != .inReset
  | 5 => (getCtx s i).st != .inReset
  | 6 => (getMov s i).rst != .inReset
  | _ => (getLink s i).rst != .inReset

/-- Instructions that wait for a unit whose reset is over retire. -/
def retireUnits (s : State) : State :=
  retireWaiters s fun wt => match wt with | .unit k i => unitSettled s k i | _ => false

/-- A context's reset ends, with its tenant's where that runs (R311). -/
def endCtx (s : State) (c : Nat) : State :=
  if (tenOf c).any fun t => (getTen s t).inReset then s else ctxRelease s c

/-- The internal reset of a unit ends. -/
def endUnitReset (s : State) (kind i : Nat) : State :=
  match kind with
  | 0 => endPort s i
  | 1 => endQuire s i
  | 2 => endTenant s i
  | 3 => endChan s i
  | 4 => endSlot s i
  | 5 => endCtx s i
  | 6 => endMover s i
  | _ => endCmd s i

/-- UNIT_RESET_END. (Log 15 DESIGN CHOICE.) -/
def execUnitResetEnd (kind index : Nat) (s : State) : Res := unitOk (unitExists kind index) (retireUnits (endUnitReset s kind index))

/-- Release the held units that no entry names any more (R310). (Log 70 DEDUCED.) -/
def releaseHolds (s : State) : State :=
  let free (u : UnitId) : Bool := !heldBy s u
  let s1 := forL ((List.range 96).filter fun p => (getPort s p).rst == .held && free (uPort p)) s portRun
  let s2 := forL ((List.range 12).filter fun q => (getQuire s q).rst == .held && free ⟨1, q⟩) s1 quireRun
  let s3 := forL ((List.range 12).filter fun h => (getChan s h).rst == .held && free ⟨3, h⟩) s2 chanRun
  forL ((List.range 72).filter fun h => (getMov s h).rst == .held && free ⟨6, h⟩) s3 moverRun

/-- A write of GLB_HOLD[i]: an entry with a kind that cannot be held is ignored and logged. (Log 70 DEDUCED.) -/
def holdWrite (s : State) (i : Nat) (v : W32) : State :=
  let k := fld v 24 4
  if bit v 31 && !(k == 0 || k == 1 || k == 3 || k == 6) then logEvent s (uBlock 0) 0x04 (0x80 + 4 * i) 0
  else
    let h : Hold := { enable := bit v 31, kind := k, index := fld v 0 7 }
    releaseHolds { s with glb := { s.glb with hold := tput {} s.glb.hold i h } }

/-- GLB_HOLD_WRITE. -/
def execGlbHoldWrite (i : Nat) (v : W32) (s : State) : Res := unitOk (i < 8) (holdWrite s i v)

/-! ## COUCH (R315 to R318) -/

/-- The spare of a quire's group serves or takes over another quire (R17). -/
def spareBusy (s : State) (q : Nat) : Bool :=
  (List.range 4).any fun i => let o := q / 4 * 4 + i; o != q && ((getQuire s o).couched || (getQuire s o).busy)

/-- COUCH in one direction. -/
def couchRun (c : Nat) (home : Bool) (w : Ox) (s : State) : State :=
  let q := fld w.imm 0 4
  if bit w.imm 8 != home then s else
  oxRun c 0xA2 w { imm := 0x10F } (fun _ _ => [(11 < q, 0x11)])
    (fun s _ =>
      let x := getQuire s q
      if x.rst != .run then retireSt s c 0xA2 w 7
      else if x.busy || x.couched != home || (!home && spareBusy s q) then retireSt s c 0xA2 w 2
      else waitWith (modQuire s q fun x => { x with busy := true, toSpare := !home }) c 0xA2 w (.couch q)) s

/-- COUCH to the spare. -/
def execCouchToSpare (c : Nat) (w : Ox) (s : State) : Res := unitOk (c < 18) (couchRun c false w s)
/-- COUCH home. -/
def execCouchHome (c : Nat) (w : Ox) (s : State) : Res := unitOk (c < 18) (couchRun c true w s)

/-- Step 7 of Table SVC-7, after a stall of `stallNs`. -/
def couchEnd (s : State) (q stallNs : Nat) : State :=
  let x := getQuire s q
  if !x.busy then s else
  let s := modQuire s q fun x => { x with couched := x.toSpare, busy := false, lastStall := min 0xFFFF stallNs
                                          bistDone := if x.toSpare then false else x.bistDone
                                          bistPass := if x.toSpare then false else x.bistPass }
  retireWaiters (quireCount s q 5 none 1) fun wt => wt == .couch q

/-- COUCH_HANDOVER_END. -/
def execCouchHandoverEnd (q stallNs : Nat) (s : State) : Res := unitOk (q < 12) (couchEnd s q stallNs)

/-- QPE_SELF_TEST_END: the home QPE of a couched quire tests itself once (R318). -/
def execQpeSelfTestEnd (q : Nat) (pass : Bool) (s : State) : Res :=
  unitOk (q < 12) (
    let x := getQuire s q
    if x.couched && !x.busy && !x.bistDone then modQuire s q fun x => { x with bistDone := true, bistPass := pass } else s)

/-! ## LOCK (R208, R210, Table OXI-22) -/

/-- LOCK in the ops a row names: CLAIMED where the action is refused; one fuse action at a time. -/
def lockRun (c : Nat) (row : Nat → Bool) (w : Ox) (sh : Shape0) (chk : State → Ctx → List (Bool × Nat)) (claimed done : State → Bool)
    (f : State → FuseOp) (s : State) : State :=
  let op := fld w.imm 0 4
  if !row op then s else
  oxRun c 0xA3 w sh (fun s x => (3 < op, 0x11) :: chk s x)
    (fun s _ =>
      if claimed s then retireSt s c 0xA3 w 2
      else if done s then retireSt s c 0xA3 w 0
      else if s.glb.fuse.isSome then waitAgain s c
      else waitWith { s with glb := { s.glb with fuse := some (c, f s) } } c 0xA3 w .fuse) s

/-- The lifecycle state a code names. -/
def lifeOf (n : Nat) : Life := if n = 3 then .returned else .secured

/-- Whether a state may follow another (Table DKL-6). -/
def lifeNext (a b : Life) : Bool := (a == .opened && (b == .secured || b == .returned)) || (a == .secured && b == .returned)

/-- LOCK lifecycle; a reserved op faults here. -/
def execLockLifecycle (c : Nat) (w : Ox) (s : State) : Res :=
  let n := fld w.B 0 2
  unitOk (c < 18) (lockRun c (fun o => o == 0 || 3 < o) w { imm := 0xF, B := 3 } (fun _ _ => [(n < 2, 0x11)])
    (fun s => !lifeNext s.glb.life (lifeOf n)) (fun _ => false) (fun _ => .life (lifeOf n)) s)

/-- Slots left usable when one is revoked. -/
def slotsLeft (g : Glb) (k : Nat) : Bool := (List.range 4).any fun i => i != k && bit g.keyValid i && !bit g.keyRevoked i

/-- LOCK revoke. -/
def execLockRevoke (c : Nat) (w : Ox) (s : State) : Res :=
  let k := fld w.imm 8 2
  unitOk (c < 18) (lockRun c (· == 1) w { imm := 0x30F } (fun _ _ => [])
    (fun s => !bit s.glb.keyValid k || !slotsLeft s.glb k) (fun _ => false) (fun _ => .revoke k) s)

/-- LOCK svn. -/
def execLockSvn (c : Nat) (w : Ox) (s : State) : Res :=
  let v := fld w.B 0 6
  unitOk (c < 18) (lockRun c (· == 2) w { imm := 0xF, B := 0x3F } (fun _ _ => [])
    (fun s => v < s.glb.svn || (s.glb.svn < v && !s.glb.loadedSvn.any fun l => v ≤ l)) (fun s => v == s.glb.svn) (fun _ => .svn v) s)

/-- The key hash at a program-store address, most significant byte first as SHA-384 writes it. (Log 69 DEDUCED.) -/
def keyHashAt (s : State) (a : Nat) : BitVec 384 := BitVec.ofNat 384 (leNat (psRead s a 48).reverse)

/-- LOCK fuse key: the 48 bytes are read under the issuer's checks of the program store. -/
def execLockFuseKey (c : Nat) (w : Ox) (s : State) : Res :=
  let k := fld w.imm 8 2
  let a := w.B.toNat
  let q : Chk := { ctxChk c 2 a 0 with r := true }
  unitOk (c < 18) (
    if fld w.imm 0 4 != 3 then s else
    oxRun c 0xA3 w { imm := 0x30F, B := 2 ^ 64 - 1 } (fun _ _ => [(2 ^ 20 < a + 48, 0x11), (a % 16 != 0, 0x15)])
      (fun s _ =>
        if bit s.glb.keyValid k || s.glb.life == .secured || s.glb.life == .returned then retireSt s c 0xA3 w 2
        else if !spanOk s q 48 then accessFault s c 0xA3 q
        else if psErr s a 48 then faultCtx s c 0xA3 0x18
        else if s.glb.fuse.isSome then waitAgain s c
        else waitWith { s with glb := { s.glb with fuse := some (c, .key k (keyHashAt s a)) } } c 0xA3 w .fuse) s)

/-- What a fuse action leaves. -/
def fuseApply (g : Glb) : FuseOp → Glb
  | .life l => if l = .secured then { g with life := .secured, unlock := false, tapEn := false } else { g with life := l }
  | .revoke k => { g with keyRevoked := setFld g.keyRevoked k 1 1 }
  | .svn v => { g with svn := max g.svn v }
  | .key k h =>
    { g with keyValid := setFld g.keyValid k 1 1, keyHash := tput 0 g.keyHash k h, life := if g.life = .blank then .opened else g.life }

/-- FUSE_WRITE_DONE: the action takes effect and its LOCK retires; entry into Returned resets the device (R205, R208). -/
def execFuseWriteDone (s : State) : Res :=
  unitOk true (
    match s.glb.fuse with
    | none => s
    | some (c, op) =>
      let s := { s with glb := fuseApply { s.glb with fuse := none } op }
      if op = .life .returned then deviceReset s fun g => { g with causeReturned := true }
      else if (getCtx s c).wait == .fuse then finishWait s c none else s)

/-! ## IMAGE and RESUME -/

/-- Whether some page of a span of the program store lies in a locked entry. -/
def psLocked (s : State) (a n : Nat) : Bool :=
  n != 0 && (List.range ((a + n - 1) / 4096 - a / 4096 + 1)).any fun i => inLocked s 2 (4096 * (a / 4096 + i)) 0

/-- The reason for which IMAGE refuses an image (Table OXI-20), 0 when it loads. A malformed image's reason is not stated.
(Log 69 DEDUCED.) -/
def imageReason (s : State) (h body : List Byte) : Nat :=
  match imgFail s.glb h body with
  | 0 => if psLocked s (imgLoad h) (imgLen h) then 5 else 0
  | 6 => 2
  | 7 => 3
  | 8 => 4
  | _ => 1

/-- IMAGE with its header read: its body, the verification, the load. (Log 69 DEDUCED.) -/
def imageLoad (s : State) (c : Nat) (w : Ox) (space a dst : Nat) (h : List Byte) : State :=
  if imgMalformed h then
    let f := freeW s
    retire f.2 c 0xA4 w 2 (some f.1)
  else
    let q : Chk := { ctxChk c space (a + 256) dst with r := true }
    let n := imgLen h
    if n != 0 && !spanOk s q n then accessFault s c 0xA4 q
    else match peekSpan s none space (a + 256) n with
      | (none, s) => faultCtx s c 0xA4 0x14
      | (some body, s) =>
        match imageReason s h body with
        | 0 =>
          let s := psWrite s (imgLoad h) body
          retireSt { s with glb := { s.glb with loadedSvn := s.glb.loadedSvn ++ [imgSvn h] } } c 0xA4 w 0
        | r => retire s c 0xA4 w 2 (some (BitVec.ofNat 64 r))

/-- IMAGE. -/
def execImage (c : Nat) (w : Ox) (s : State) : Res :=
  let space := fld w.mod 3 2
  let a := if space = 1 then fld w.B 0 52 else w.B.toNat
  let dst := if space = 1 then fld w.B 52 12 else 0
  let q : Chk := { ctxChk c space a dst with r := true }
  unitOk (c < 18) (oxRun c 0xA4 w { mods := 0x18, B := 2 ^ 64 - 1 }
    (fun _ _ => [(1 < space, 0x11)])
    (fun s _ =>
      if !spanOk s q 256 then accessFault s c 0xA4 q
      else match peekSpan s none space a 256 with
        | (none, s) => faultCtx s c 0xA4 0x14
        | (some h, s) => imageLoad s c w space a dst h) s)

/-- RESUME. -/
def execResume (c : Nat) (w : Ox) (s : State) : Res :=
  let i := fld w.imm 0 5
  unitOk (c < 18) (oxRun c 0xA5 w { imm := 0x1F } (fun _ _ => [(17 < i, 0x11)])
    (fun s _ =>
      let st := (getCtx s i).st
      if st == .off || st == .inReset then retireSt s c 0xA5 w 7 else retireSt (resumeCtx s i) c 0xA5 w 0) s)

/-! ## Errors in internal memories (R312 to R314) -/

/-- Memories of a unit (Table OBS-8). -/
def memCount (u : UnitId) : Nat :=
  match u.kind, u.index with
  | 0, _ => 6 | 1, _ => 5 | 2, _ => 2 | 3, _ => 3 | 4, _ => 1 | 5, _ => 3 | 6, _ => 2 | 7, _ => 2
  | 9, 2 => 2 | 9, 3 => 5 | 9, 4 => 5 | 9, 5 => 1 | 9, 7 => 2 | 9, 8 => 2 | 9, 9 => 2
  | _, _ => 0

/-- A memory that a unit has now: the spare's working state only while the quire is couched. (Log 72 DEDUCED.) -/
def memThere (s : State) (u : UnitId) (m : Nat) : Bool :=
  (unitExists u.kind u.index || u.kind == 9) && m < memCount u && !(u.kind == 1 && m == 1 && !(getQuire s u.index).couched)

/-- An uncorrectable error is logged; the entry address within a unit's own memories is not given and free. -/
def logUnit_ (s : State) (u : UnitId) (m : Nat) : State :=
  let f := freeBelow s (2 ^ 24)
  logMem f.2 u true m f.1 0

/-- The reset of a unit whose memory failed: it waits where the reset must wait (R308, R317). -/
def ueReset (s : State) (u : UnitId) (m : Nat) (waits : Bool) (go : State → State) : State :=
  if !memThere s u m || waits then s else go (logUnit_ s u m)

/-- An error in a port's state: a port reset, or DPC where the port is bound (R68). -/
def uePort (s : State) (p m : Nat) : State :=
  if !leadPort s p then s else
  ueReset s (uPort p) m ((getPort s p).rst == .run && portWaits s p) fun s => if boundDown s p then dpcTrigger s p else resetPort s p

/-- Whether a QPE of a quire holds its working state: the home's (0) or the spare's (1); in a handover the one that hands over. -/
def qpeHolds (x : Quire) (m : Nat) : Bool := (m == 1) == x.couched

/-- An error in QPE state: a quire reset. In a handover the copy ends and the reset follows on the QPE that takes over (R317).
(Log 72 DEDUCED.) -/
def ueQpe (s : State) (q m : Nat) : State :=
  let x := getQuire s q
  if !memThere s ⟨1, q⟩ m then s
  else if !qpeHolds x m then logUnit_ s ⟨1, q⟩ m
  else
    let f := freeBelow s 0x10000
    let s' := if x.busy then couchEnd f.2 q f.1 else s
    if x.rst == .run && quireWaits s' q then s else stewEv (resetQuire (logUnit_ s' ⟨1, q⟩ m) q)

/-- An error in a context's state: a fault record with status ECC, then a reset. -/
def ueCtx (s : State) (c m : Nat) : State :=
  let x := getCtx s c
  ueReset s ⟨5, c⟩ m (genWait s ⟨5, c⟩) fun s =>
    if x.st == .off || x.st == .inReset then s
    else
      let op := ((nextWords s c).map fun a => fld a.1 56 8).getD 0
      resetCtx (faultCtx s c op 0x18) c

/-- Poison of a message's data cell: of all its data for the header cell, and for a TLP. (Log 72 DEDUCED.) -/
def poisonCell (m : Msg) (cell : Nat) : Msg :=
  let n := cells m - 1
  { m with poison := (List.range n).map fun i => m.poison.getD i false || cell == 0 || isTlp m.op || i + 1 == cell }

/-- An error in a buffer cell, found as the cell is read (Table CORE-12). (Log 72 DEDUCED.) -/
def ueCell (s : State) (id cell : Nat) : State :=
  match s.core.pkts.find? fun k => k.id == id && inBuf k with
  | none => s
  | some k =>
    if cells k.msg ≤ cell || cell < k.moved then s else
    let s := modPkt (logUnit_ s (uBlock 4) 0) id fun k => { k with msg := poisonCell k.msg cell }
    if isTlp k.msg.op then s else tailMark s k

/-- An error in both copies of a Sheet Table or deckle table entry resets the device; one in a single copy is mended (R313). -/
def ueTable (s : State) (block copies : Nat) (index : Nat) : State :=
  let s := logMem s (uBlock block) true 0 index 0
  if copies < 2 then s else deviceReset (logMem s (uBlock block) true 1 index 0) fun g => { g with causeTableUe := true }

/-- An error in a directory state word (R187). -/
def ueDirState (s : State) (k : Nat) : State :=
  let d := getDir s k
  let s := logMem s (uBlock 3) true 2 k 0
  if !d.valid then s else
  let s := { s with home := { s.home with dir := tput {} s.home.dir k { d with st := .o, ptrs := [] } } }
  dirLog s 0 (some d.tenant) 0 (k % 16) (dirLine k d)

/-- An error in directory tag words: one copy is rewritten; with both the way is retired and every tenant with sharers loses its
domain (R187, R188). -/
def ueDirTag (s : State) (k copies : Nat) : State :=
  let d := getDir s k
  let s := logMem s (uBlock 3) true 0 k 0
  if copies < 2 then dirLog s 1 (if d.valid then some d.tenant else none) 0 (k % 16) (dirLine k d)
  else
    let s := logMem s (uBlock 3) true 1 k 0
    let s := { s with home := { s.home with dir := tput {} s.home.dir k { ({} : DirEnt) with retired := true } } }
    let s := dirLog s 2 none 0 (k % 16) (k / 16)
    forL (((s.ten.filter fun t => t.2.sharer.any fun e => e.2.valid)).map fun t => t.1) s fun s t => domainFall s t 3 0 0

/-- An error in a route entry. -/
def ueRoute (s : State) (i : Nat) : State :=
  let q := i / 4096
  if 12 ≤ q then s else
  let s := logMem s ⟨1, q⟩ true 2 (i % 4096) 0
  stewEv (modQuire s q fun x => { x with route := tput 0 x.route (i % 4096) (setFld (tget 0 x.route (i % 4096)) 31 1 0) })

/-- An error in a meter entry: it holds no message any more (R125). -/
def ueMeter (s : State) (i : Nat) : State :=
  let q := i / 2048
  let m := i % 2048
  if 12 ≤ q then s else
  let s := logMem s ⟨1, q⟩ true 3 m 0
  let s := modMeter s q m fun x => { x with w0 := setFld x.w0 63 1 0 }
  stewEv (forL (meterPorts s q m) s (releaseRed (some m)))

/-- An error in a replication group. -/
def ueRgrp (s : State) (g : Nat) : State :=
  if 1024 ≤ g then s else
  stewEv (modRgrp (logMem s (uBlock 4) true 2 g 0) g fun x => { x with header := setFld x.header 63 1 0 })

/-- An error in a take item: its set fails at application. -/
def ueItem (s : State) (i : Nat) : State :=
  let n := i % 1024
  modTake (logMem s (uBlock 7) true 0 i 0) (i / 1024) fun t =>
    { t with items := t.items.mapIdx fun j x => if j = n then { x with bad := true } else x }

/-- An error in a sharer entry: the sharer is dead and the domain falls. -/
def ueSharer (s : State) (t i : Nat) : State :=
  if 16 ≤ t || !(tget {} (getTen s t).sharer i).valid then s else domainFall (logMem s ⟨2, t⟩ true 0 i 0) t 2 i 0

/-- Clear the valid bit of a log entry. -/
def entBad (l : List LogEnt) (i : Nat) : List LogEnt := l.mapIdx fun j e => if j = i then { e with w0 := setFld e.w0 63 1 0 } else e

/-- An error in a log: the entry is marked invalid. Indices below 2²⁰ name a unit log by key and entry, the next ones a channel's
corrected and uncorrected logs, the directory's and the deckle log. -/
def ueLog (s : State) (i : Nat) : State :=
  let j := i % 2 ^ 20
  match i / 2 ^ 20 with
  | 0 =>
    let l := tget {} s.cnt.logs (j / 32)
    let l := { l with ents := l.ents.mapIdx fun n e => if n = j % 32 then { e with valid := false } else e }
    logUnit_ { s with cnt := { s.cnt with logs := tput {} s.cnt.logs (j / 32) l } } (uBlock 9) 1
  | 1 => if 12 ≤ j / 64 then s else logUnit_ (modChan s (j / 64) fun x => { x with ceLog := entBad x.ceLog (j % 64) }) ⟨3, j / 64⟩ 1
  | 2 => if 12 ≤ j / 64 then s else logUnit_ (modChan s (j / 64) fun x => { x with ueLog := entBad x.ueLog (j % 64) }) ⟨3, j / 64⟩ 2
  | 3 => logUnit_ { s with home := { s.home with log := entBad s.home.log j } } (uBlock 3) 4
  | 4 => { s with dkl := { s.dkl with log := entBad s.dkl.log j } }
  | _ => s

/-- An error in a pace-history entry: an invalid entry reads zero. (Log 72 DEDUCED.) -/
def uePace (s : State) (i : Nat) : State :=
  logMem { s with pace := { s.pace with hist := s.pace.hist.mapIdx fun j e => if j = i then 0 else e } } (uBlock 4) true 3 i 0

/-- An error in command-port state: a reset of the link that keeps its configuration (Table BOOT-2). -/
def ueCmd (s : State) (l m : Nat) : State :=
  if 1 < l then s else ueReset s ⟨7, l⟩ m (genWait s ⟨7, l⟩) fun s => resetCmd s l true

/-- UNCORRECTABLE_MEMORY_ERROR. For a unit's own state `index` is the unit + 128 × the memory number of Table OBS-8; for a buffer cell
it is the message and `copies` the cell; for a table it is the entry, and `copies` the copies struck. (Log 72 DEDUCED.) -/
def execUncorrectableMemoryError (mem : IMem) (index copies : Nat) (s : State) : Res :=
  unitOk true (
    let u := index % 128
    let m := index / 128
    match mem with
    | .portState => if u < 96 then uePort s u m else s
    | .qpeState => if u < 12 && m < 2 then ueQpe s u m else s
    | .contextState => if u < 18 then ueCtx s u m else s
    | .moverState => if u < 72 then ueReset s ⟨6, u⟩ m (genWait s ⟨6, u⟩) (fun s => resetMover s u) else s
    | .poolController => if u < 12 && m = 0 then ueReset s ⟨3, u⟩ 0 (genWait s ⟨3, u⟩) (fun s => resetChan s u) else s
    | .bufferCell => ueCell s index copies
    | .sheetTable => if index < 24576 then ueTable s 2 copies index else s
    | .deckleTable => if index < 8192 then ueTable s 8 copies index else s
    | .dirState => if index < 2 ^ 23 then ueDirState s index else s
    | .dirTag => if index < 2 ^ 23 then ueDirTag s index copies else s
    | .programStore =>
      if index < 65536 then
        let s := logMem s (uBlock 5) true 0 index 0
        if s.seq.psBad.contains index then s else { s with seq := { s.seq with psBad := s.seq.psBad ++ [index] } }
      else s
    | .routeEntry => ueRoute s index
    | .meterEntry => ueMeter s index
    | .replicationGroup => ueRgrp s index
    | .takeItem => if index / 1024 < 64 then ueItem s index else s
    | .sharerEntry => ueSharer s (index / 128) u
    | .paceHistory => uePace s index
    | .errorLog => ueLog s index
    | .commandPort => ueCmd s u m)

/-- A correction at an address of a unit's memory: a Steward event when its count reaches 3 or the log is full (R314). -/
def correctable (s : State) (u : UnitId) (m addr syn : Nat) : State :=
  let hit (l : ULog) : Option UEnt := l.ents.find? fun x => x.valid && x.memory == m && x.addr == addr && !x.uncorr
  let l := tget {} s.cnt.logs (logKey u 0)
  let s := logMem s u false m addr syn
  let s := if u.kind = 1 && m < 2 then quireCount s u.index 6 none 1 else s
  let three := ((hit (tget {} s.cnt.logs (logKey u 0))).any fun x => x.count == 3)
  if three || ((hit l).isNone && 32 ≤ l.ents.length) then stewEv s else s

/-- CORRECTABLE_MEMORY_ERROR. -/
def execCorrectableMemoryError (kind index mem addr syndrome : Nat) (s : State) : Res :=
  unitOk true (if memThere s ⟨kind, index⟩ mem then correctable s ⟨kind, index⟩ mem (addr % 2 ^ 24) (syndrome % 256) else s)

end Sys2Proof.Machine
end

