-- ==== Sys2Proof/Machine/CmdPort.lean ====
section
/-!
DEFINITION. The command port (19): training, resets by pin and by link, the switchover, and the sideband's MCTP and PLDM.
-/

namespace Sys2Proof.Machine

/-! ## Links -/

/-- Link B in x16 mode names no link (R408). -/
def noLink (s : State) (l : Nat) : Bool := l == 1 && s.cmd.mode == 0

/-- The other link of a split port. -/
def otherLink (l : Nat) : Nat := 1 - l

/-- Log an action of a command link that is dropped or ignored (Table OBS-7, code 0x02). (Log 76 DEDUCED.) -/
def linkLog (s : State) (l off : Nat) : State := logEvent s ⟨7, l⟩ 0x02 off 0

/-- The lane dies that carry a link's lanes have their references (Table BOOT-2). -/
def linkRefs (s : State) (l : Nat) : Bool :=
  ((if s.cmd.mode = 0 then [0, 1, 2, 3] else if l = 0 then [0, 1] else [2, 3]).all fun d => dieRef s d)

/-- The boot stage lets a command link train: with flash boot, once the directory has been read (R422); in a strap fault too
(R432). (Log 76 DEDUCED.) -/
def bootTrains (g : Glb) : Bool := !g.inReset && g.bootStage != 0 && !(g.bootStage == 1 && g.bootImage == none)

/-- The mode that the first training fixes: the directory's, or what Configuration finds (R408). -/
def firstMode (s : State) (l : Nat) (r : Partner) (two : Bool) : Nat :=
  if s.cmd.mode != 2 then s.cmd.mode
  else if s.glb.dirMode < 2 then s.glb.dirMode
  else if two || l == 1 || fld r.laneOk 0 8 == 0 || fld r.laneOk 8 8 == 0 then 1 else 0

/-- A switchover (R414). (Log 74 DEDUCED.) -/
def switchover (s : State) : State :=
  let old := activeLink s
  let s := { s with cmd := { s.cmd with active := !s.cmd.active, switched := true, foDue := false } }
  let s := { s with cmd := { s.cmd with pba := s.cmd.pba.filter fun e => e.1 / 2048 != old } }
  hostRingsOff s

/-- The automatic failover takes place when its time has run and the other link is up (R413). (Log 76 DEDUCED.) -/
def failoverNow (s : State) : State :=
  let a := activeLink s
  if s.cmd.foDue && s.cmd.autoFo && !(getLink s a).up && (getLink s (otherLink a)).up then switchover s else s

/-- A lane event of a command link, with its Steward event (R377). -/
def linkLaneEv (s : State) (l : Nat) (get : Lanes → Bool) (set : Lanes → Lanes) : State :=
  let x := (getLink s l).lanes
  let s := modLink s l fun y => { y with lanes := set y.lanes }
  stewIf s (get x) true

/-- A command link comes up. The host's enumeration is part of it: the BARs are assigned and MSI-X is enabled
(notes/assumptions/13.md). (Log 13 PRESUMED.) -/
def linkTrained (s : State) (l : Nat) (r : Partner) (mode : Nat) : State :=
  let w := if mode = 0 then 16 else 8
  let x : Port := { lanes := (getLink s l).lanes }
  let rev := r.reversed && bit x.lanes.cfg 27
  let good := goodLanes s x r
  match chooseWidth x good rev w with
  | none => linkLaneEv s l (·.evEqFail) fun y => { y with evEqFail := true }
  | some n =>
    let lanes := trainedLanes s x r good rev w n
    let s := { s with cmd := { s.cmd with mode := mode } }
    let s := modLink s l fun y => { y with up := true, rate := min r.maxRate r.eqRate, lanes := lanes, barsSet := true, msixEnable := true }
    let s := if n < w then linkLaneEv s l (·.evDegraded) fun y => { y with evDegraded := true } else s
    let s := if l = activeLink s then { s with cmd := { s.cmd with foDue := false } } else s
    failoverNow s

/-- CMD_LINK_TRAINED. -/
def execCmdLinkTrained (link : Nat) (r : Partner) (twoLinks : Bool) (s : State) : Res :=
  unitOk (link < 2) (
    let mode := firstMode s link r twoLinks
    let x := getLink s link
    if !bootTrains s.glb || x.up || x.rst != .run || x.perst || (link == 1 && mode == 0) ||
        !linkRefs { s with cmd := { s.cmd with mode := mode } } link then s
    else linkTrained s link r mode)

/-! ## Resets by pin and by link (Table BOOT-2) -/

/-- PERST_ASSERT: PERST_B_N is ignored in x16 mode. -/
def execPerstAssert (link : Nat) (s : State) : Res :=
  unitOk (link < 2) (
    let s := modLink s link fun x => { x with perst := true }
    if noLink s link || s.glb.inReset then s else resetCmd s link false)

/-- PERST_DEASSERT: the reset ends 1 µs later, by UNIT_RESET_END. -/
def execPerstDeassert (link : Nat) (s : State) : Res := unitOk (link < 2) (modLink s link fun x => { x with perst := false })

/-- COMMAND_LINK_HOT_RESET: a hot reset, or the link goes down. -/
def execCommandLinkHotReset (link : Nat) (s : State) : Res :=
  unitOk (link < 2) (if (getLink s link).up then resetCmd s link false else s)

/-! ## Active and standby hosts (R412 to R414) -/

/-- A write of handover by the active host or the Steward: ignored and logged while the other link is down. -/
def handover (s : State) : State :=
  if (getLink s (otherLink (activeLink s))).up then switchover s else logAt s 0x110 0x02

/-- HANDOVER, written over a command link: the standby host's write is dropped and logged. -/
def execHandover (link : Nat) (s : State) : Res :=
  unitOk (link < 2) (
    if !(getLink s link).up || s.glb.bootStage != 4 then s
    else if link != activeLink s then linkLog s link 0x110 else handover s)

/-- A claim written by the standby host (R413). -/
def claim (s : State) : State :=
  if (getLink s (activeLink s)).up then { s with cmd := { s.cmd with claimRefused := true } } else switchover s

/-- CLAIM; the active host's own write has no standby to claim for. -/
def execClaim (link : Nat) (s : State) : Res :=
  unitOk (link < 2) (
    if !(getLink s link).up || link == activeLink s || s.glb.bootStage != 4 then s else claim s)

/-- AUTO_FAILOVER: the active link has not been up for failover_ms. (Log 76 DEDUCED.) -/
def execAutoFailover (s : State) : Res :=
  unitOk true (
    if !s.cmd.autoFo || (getLink s (activeLink s)).up || s.cmd.mode != 1 then s
    else failoverNow { s with cmd := { s.cmd with foDue := true } })

/-! ## Sideband (R417 to R419) -/

/-- The sideband works from the release of RESET_N. -/
def sideUp (s : State) : Bool := !s.glb.inReset

/-- MCTP control command codes (notes/assumptions/13.md: of the MCTP base specification). (Log 13 PRESUMED.) -/
def mctpControl (s : State) (cmd arg : Nat) : State :=
  match cmd with
  | 1 => emit { s with cmd := { s.cmd with eid := arg % 256 } } (.mctp 0 [1, 0, arg % 256])
  | 2 => emit s (.mctp 0 [2, 0, s.cmd.eid])
  | 3 => emit s (.mctp 0 [3, 0, Config.uuid s.glb.serial])
  | 5 => emit s (.mctp 0 [5, 0, 3, 0x00, 0x01, 0x07])
  | _ => emit s (.mctp 0 [cmd, 5])

/-- MCTP_CONTROL_MESSAGE. -/
def execMctpControlMessage (cmd arg : Nat) (s : State) : Res := unitOk true (if sideUp s then mctpControl s cmd arg else s)

/-- A sensor's reading (R419): temperatures in °C as 16-bit two's complement. -/
def sensorRead (s : State) (n : Nat) : Nat :=
  if n ≤ 9 then unsigned 16 ((tempOf s (n - 1) : Int) - 64)
  else if n = 10 then s.pwr.vcore
  else if n = 11 then s.pace.pace
  else if n = 12 then s.pwr.use
  else if n ≤ 44 then slotCode (getSlot s (n - 13)).st
  else s.glb.bootStage

/-- Sensors 13 to 45 are state sensors, read with their own command. -/
def sensorCmd (n : Nat) : Nat := if n ≤ 12 then 0x11 else 0x21

/-- PLDM types 0 and 2: base commands, the PDR repository, sensor readings, the event poll, and no effecters; other commands complete unsupported
(notes/assumptions/13.md: codes of the PLDM specifications). (Log 13 PRESUMED, 39 DEDUCED.) -/
def pldm (s : State) (cmd n : Nat) : State :=
  if cmd = 0x0B then
    match s.cmd.pldmEvents with
    | [] => emit s (.mctp 1 [cmd, 0])
    | e :: es => emit { s with cmd := { s.cmd with pldmEvents := es } } (.mctp 1 [cmd, 0, e])
  else if cmd = 0x11 || cmd = 0x21 then
    if 1 ≤ n && n ≤ 45 && cmd == sensorCmd n then emit s (.mctp 1 [cmd, 0, n, sensorRead s n]) else emit s (.mctp 1 [cmd, 0x80])
  else if (1 ≤ cmd && cmd ≤ 5) || cmd == 0x51 then emit s (.mctp 1 [cmd, 0])
  else emit s (.mctp 1 [cmd, 5])

/-- PLDM_MESSAGE. -/
def execPldmMessage (cmd sensor : Nat) (s : State) : Res := unitOk true (if sideUp s then pldm s cmd sensor else s)

/-- MCTP_OTHER_TYPE: types 0, 1 and 7 are served by their own rows. -/
def execMctpOtherType (type : Nat) (s : State) : Res :=
  unitOk true (
    if sideUp s && type != 0 && type != 1 && type != 7 then { s with cmd := { s.cmd with mctpDrops := s.cmd.mctpDrops + 1 } } else s)

/-- DYNAMIC_ADDRESS_ASSIGN. -/
def execDynamicAddressAssign (i3c : Bool) (addr : BitVec 7) (s : State) : Res :=
  unitOk true (
    if !sideUp s then s
    else if i3c then { s with cmd := { s.cmd with dynAddr := some addr } } else { s with cmd := { s.cmd with smbAddr := addr } })

end Sys2Proof.Machine
end

