-- ==== Sys2Proof/Machine/Hier.lean ====
section
/-!
DEFINITION. Domains, federations and stacks (14): the mode, the domain key, the management messages received, what the manager
sends, promotion and the proxy table.
-/

namespace Sys2Proof.Machine

/-! ## Mode, key, proxies -/

/-- A mode that Tables HIER-1 and the stack rule allow with a STACK_ID (R321, R322). (Log 77 DEDUCED.) -/
def modeOk (mode stack : Nat) : Bool := mode < 5 && (mode != 3 || stack == 0) && (mode != 4 || stack != 0)

/-- Log an ignored write of the stack block. (Log 77 DEDUCED.) -/
def stkIgnored (s : State) (off : Nat) : State := logAt s (0xA0000 + off) 0x02

/-- A write of STK_MODE.mode: once, before any port was enabled (R321). (Log 77 DEDUCED.) -/
def stkModeWrite (s : State) (v : W32) : State :=
  let mode := fld v 0 3
  if s.stk.overrideUsed || s.glb.portEverEnabled || s.stk.strapFault || !modeOk mode s.glb.straps.stackId.toNat then stkIgnored s 0
  else
    let epoch : W32 := if mode == 1 || mode == 3 then 1 else 0
    { s with stk := { s.stk with mode := mode, overrideUsed := true, joined := mode != 2 && mode != 4, epoch := epoch } }

/-- STK_MODE_WRITE. -/
def execStkModeWrite (v : W32) (s : State) : Res := unitOk true (stkModeWrite s v)

/-- A write of STK_DKEY[i]: the key takes effect at the write of STK_DKEY7; ignored and logged once locked (R325). -/
def keyWrite (s : State) (i : Nat) (v : W32) : State :=
  if s.stk.keyLock then stkIgnored s (0x20 + 4 * i)
  else
    let k := tput 0 s.stk.keyNew i v
    let s := { s with stk := { s.stk with keyNew := k } }
    if i = 7 then { s with stk := { s.stk with key := (List.range 8).map fun j => tget 0 k j } } else s

/-- DOMAIN_KEY_WRITE: the write of STK_DKEY7. -/
def execDomainKeyWrite (v : W32) (s : State) : Res := unitOk true (keyWrite s 7 v)

/-- KEY_LOCK_WRITE. -/
def execKeyLockWrite (s : State) : Res := unitOk true { s with stk := { s.stk with keyLock := true } }

/-- Whether another valid entry has the same domain and remote ID (R338). (Log 80 DEDUCED.) -/
def proxyTwin (s : State) (i : Nat) (v : W32) : Bool :=
  s.stk.proxy.any fun e => e.1 != i && bit e.2 31 && fld e.2 24 4 == fld v 24 4 && fld e.2 0 12 == fld v 0 12

/-- A write of STK_PROXY[i]: a valid entry takes only the write that invalidates it (R338). (Log 80 DEDUCED.) -/
def proxyWrite (s : State) (i : Nat) (v : W32) : State :=
  let v := v &&& 0x8F000FFF
  if bit v 31 && (bit (getProxy s i) 31 || proxyTwin s i v) then stkIgnored s (0x1000 + 4 * i)
  else { s with stk := { s.stk with proxy := tput 0 s.stk.proxy i v } }

/-- STK_PROXY_WRITE. -/
def execStkProxyWrite (i : Nat) (v : W32) (s : State) : Res := unitOk (i < 512) (proxyWrite s i v)

/-! ## Messages received (R325) -/

/-- A management message of a kind that carries a tag, at the management point: the checks in the order of R325, then its effect. A
message for another device changes nothing here; an edge or gateway port takes none. (Log 78 DEDUCED.) -/
def mgmtTake (s : State) (p kind : Nat) (m : Mgmt) (eff : State → State) : State :=
  let x := getPort s p
  let pe := getPeer s m.sender
  if x.link != .up then s
  else if isEdge x || roleOf x == 4 then msgDrop s
  else if kind != 1 && s.stk.joined && m.receiver != s.stk.dev then s
  else if mgmtTag s pe kind m != m.tag then msgEv (msgDrop s) .auth
  else if kind != 1 && m.sequence.toNat ≤ pe.rxSeq.toNat then msgEv (msgDrop s) .replay
  else if kind != 1 && !s.stk.joined then msgEv (msgDrop s) .unjoined
  else if m.epoch.toNat < s.stk.epoch.toNat then mgmtSend (msgEv (msgDrop s) .epoch) m.sender 0x04 [0x07]
  else eff (if kind = 1 then s else modPeer s m.sender fun y => { y with rxSeq := m.sequence })

/-- A JOIN is accepted: JOIN_ACK, the domain's parameters, a new session (R326). (Log 78 DEDUCED.) -/
def joinAccept (s : State) (p : Nat) (m : Mgmt) : State :=
  let f := freeW s
  let s := f.2
  let theirs : W64 := BitVec.ofNat 64 (imgFld m.payload 0 8)
  let s := modPeer s m.sender fun _ => { joined := true, port := p, nonceOwn := f.1, noncePeer := theirs }
  let s := { s with stk := { s.stk with
    domain := imgFld m.payload 8 1 % 16, dev := imgFld m.payload 9 2 % 1024, mgmtPbr := imgFld m.payload 11 2 % 4096
    hbPeriod := imgFld m.payload 13 2, joined := true, epoch := m.epoch, manager := m.sender
    silent := s.stk.mode == 1 || s.stk.mode == 3, hbAt := mono s } }
  mgmtSend s m.sender 0x02 (natLe 8 f.1.toNat ++ natLe 8 theirs.toNat)

/-- MSG_JOIN: a joined device ignores and logs one whose epoch is not above its own; a standalone device joins nothing.
(Log 78 DEDUCED.) -/
def execMsgJoin (p : Nat) (m : Mgmt) (s : State) : Res :=
  unitOk (p < 96) (mgmtTake s p 1 m fun s =>
    if s.stk.mode == 0 || (s.stk.joined && m.epoch.toNat ≤ s.stk.epoch.toNat) then stkIgnored s 4 else joinAccept s p m)

/-- MSG_JOIN_ACK: it echoes this device's nonce. The tag covers both nonces, which the payload brings. (Log 78 DEDUCED.) -/
def joinAck (s : State) (p : Nat) (m : Mgmt) : State :=
  let theirs : W64 := BitVec.ofNat 64 (imgFld m.payload 0 8)
  let mine : W64 := BitVec.ofNat 64 (imgFld m.payload 8 8)
  let pe := getPeer s m.sender
  let x : Peer := { pe with port := p, nonceOwn := mine, noncePeer := theirs }
  if (getPort s p).link != .up then s
  else if isEdge (getPort s p) || roleOf (getPort s p) == 4 then msgDrop s
  else if mgmtTag s x 2 m != m.tag || (pe.nonceOwn != 0 && pe.nonceOwn != mine) then msgEv (msgDrop s) .auth
  else if pe.joined && m.sequence.toNat ≤ pe.rxSeq.toNat then msgEv (msgDrop s) .replay
  else if m.epoch.toNat < s.stk.epoch.toNat then mgmtSend (msgEv (msgDrop s) .epoch) m.sender 0x04 [0x07]
  else if !isMgr s then msgDrop s
  else modPeer s m.sender fun _ => { x with joined := true, rxSeq := m.sequence, takeReady := [], takeDone := [], result := none }

/-- MSG_JOIN_ACK. -/
def execMsgJoinAck (p : Nat) (m : Mgmt) (s : State) : Res := unitOk (p < 96) (joinAck s p m)

/-- The instructions of a block. -/
def blockOf : Nat → List Byte → List (W64 × W64)
  | 0, _ => []
  | n + 1, b =>
    if b.isEmpty then [] else
    (BitVec.ofNat 64 (leNat (slice b 0 8)), BitVec.ofNat 64 (leNat (slice b 8 8))) :: blockOf n (b.drop 16)

/-- A block is queued for S1, which starts it when it has nothing to run; a 17th is answered at once (R327). (Log 79 DEDUCED.) -/
def blockTake (s : State) (p : Nat) (m : Mgmt) : State :=
  let x := getCtx s 1
  if m.payload.isEmpty || m.payload.length % 16 != 0 || 1024 < m.payload.length then msgDrop s
  else if 16 ≤ x.blocks.length then mgmtSend s m.sender 0x04 [0x02]
  else
    let s := modCtx s 1 fun x => { x with blocks := x.blocks ++ [(p, m.sender, blockOf 64 m.payload)] }
    if x.run == .idle && !x.blockOn && (x.st == .idle || x.st == .ready) then modCtx s 1 rest else s

/-- MSG_BLOCK. -/
def execMsgBlock (p : Nat) (m : Mgmt) (s : State) : Res := unitOk (p < 96) (mgmtTake s p 3 m fun s => blockTake s p m)

/-- MSG_RESULT: an answer of status 0x07 makes an old manager silent (R331). -/
def execMsgResult (p : Nat) (m : Mgmt) (s : State) : Res :=
  unitOk (p < 96) (mgmtTake s p 4 m fun s =>
    let st := imgFld m.payload 0 1
    let s := modPeer s m.sender fun y => { y with result := some st }
    if st = 7 && isMgr s then { s with stk := { s.stk with silent := true } } else s)

/-- MSG_HEARTBEAT. -/
def execMsgHeartbeat (p : Nat) (m : Mgmt) (s : State) : Res :=
  unitOk (p < 96) (mgmtTake s p 5 m fun s => { s with stk := { s.stk with hbAt := mono s } })

/-- MSG_TIME: a pending value is replaced (R332). -/
def execMsgTime (p : Nat) (m : Mgmt) (s : State) : Res :=
  unitOk (p < 96) (mgmtTake s p 6 m fun s =>
    if isWorker s then modTime s fun t =>
      { t with set := BitVec.ofNat 64 (imgFld m.payload 0 8 * 1000000000), setAtPps := true }
    else s)

/-- The joined devices. -/
def joinedPeers (s : State) : List Nat := (s.stk.peers.filter fun e => e.2.joined).map fun e => e.1

/-- Whether every joined device reports a set ready. -/
def allReady (s : State) (i : Nat) : Bool := (joinedPeers s).all fun d => tget 0 (getPeer s d).takeReady i == 3

/-- The report of a worker on a set; when it makes all ready, TAKE_COMMIT goes to each and the manager's own set is committed
(R333). (Log 79 DEDUCED.) -/
def readyTake (s : State) (d i st : Nat) : State :=
  let was := allReady s i
  let s := modPeer s d fun y => { y with takeReady := tput 0 y.takeReady i st }
  if isMgr s && allReady s i && !was then
    modTake (forL (joinedPeers s) s fun s d => mgmtSend s d 0x08 [BitVec.ofNat 8 i]) i fun t => { t with commit := true }
  else s

/-- MSG_TAKE_READY. -/
def execMsgTakeReady (p : Nat) (m : Mgmt) (s : State) : Res :=
  unitOk (p < 96) (mgmtTake s p 7 m fun s => readyTake s m.sender (imgFld m.payload 0 1 % 64) (imgFld m.payload 1 1))

/-- MSG_TAKE_COMMIT. -/
def execMsgTakeCommit (p : Nat) (m : Mgmt) (s : State) : Res :=
  unitOk (p < 96) (mgmtTake s p 8 m fun s =>
    let i := imgFld m.payload 0 1 % 64
    if (getTake s i).domain then modTake s i fun t => { t with commit := true } else s)

/-- MSG_TAKE_DONE: the state the worker's set is in after the instant or the slip. -/
def execMsgTakeDone (p : Nat) (m : Mgmt) (s : State) : Res :=
  unitOk (p < 96) (mgmtTake s p 9 m fun s =>
    let i := imgFld m.payload 0 1 % 64
    modPeer s m.sender fun y =>
      { y with takeReady := tput 0 y.takeReady i 0, takeDone := tput 0 y.takeDone i (imgFld m.payload 1 4 / 2 ^ 29) })

/-- MSG_TAKEOVER: a higher epoch is followed; of two promotions with one epoch the lower device number wins (R330, R331).
(Log 79 DEDUCED.) -/
def execMsgTakeover (p : Nat) (m : Mgmt) (s : State) : Res :=
  unitOk (p < 96) (mgmtTake s p 10 m fun s =>
    let e : W32 := BitVec.ofNat 32 (imgFld m.payload 0 4)
    if s.stk.epoch.toNat < e.toNat || (e == s.stk.epoch && promoted s && m.sender < s.stk.dev) then
      msgEv { s with stk := { s.stk with epoch := e, manager := m.sender, silent := s.stk.mode == 1 || s.stk.mode == 3 } } .takeover
    else s)

/-- MSG_VIRAL: consumed by the device of the sharer's edge port; it carries no tag and no session (R325, R328). (Log 78 DEDUCED.) -/
def viralTake (s : State) (p : Nat) (m : Mgmt) : State :=
  let x := getPort s p
  if x.link != .up then s
  else if isEdge x || (roleOf x == 4 && !x.gwOk) then msgDrop s
  else if !s.stk.joined then msgEv (msgDrop s) .unjoined
  else match edgeWith s (imgFld m.payload 1 2) with
    | some q => stewEv (emit s (.viral q))
    | none => s

/-- MSG_VIRAL. -/
def execMsgViral (p : Nat) (m : Mgmt) (s : State) : Res := unitOk (p < 96) (viralTake s p m)

/-- The GATEWAY exchange succeeds (R336). -/
def gatewayOk (s : State) (p : Nat) (m : Mgmt) : Bool :=
  let peer := fld (getPort s p).gw 16 4
  imgFld m.payload 0 1 == peer && imgFld m.payload 1 1 == s.stk.domain && peer != s.stk.domain

/-- MSG_GATEWAY. -/
def execMsgGateway (p : Nat) (m : Mgmt) (s : State) : Res :=
  unitOk (p < 96) (
    let x := getPort s p
    if x.link != .up then s
    else if roleOf x != 4 || x.gwOk then msgDrop s
    else if gatewayOk s p m then modPort s p fun x => { x with gwOk := true } else gatewayFail s p)

/-! ## What the manager sends -/

/-- The acting heartbeat period in ms (Table HIER-3). -/
def hbMs (s : State) : Nat := clamp 1 1000 s.stk.hbPeriod

/-- HEARTBEAT_SEND. -/
def execHeartbeatSend (s : State) : Res :=
  unitOk true (
    if isMgr s && s.stk.hbEnable then forL (joinedPeers s) s fun s d => mgmtSend s d 0x05 (natLe 8 (now s).toNat) else s)

/-- HEARTBEAT_LOSS: three periods have passed with none (R329). (Log 79 DEDUCED.) -/
def execHeartbeatLoss (s : State) : Res :=
  unitOk true (
    if isWorker s && s.stk.hbAt + 3 * hbMs s * 1000000 ≤ mono s then { s with stk := { s.stk with hbLost := true } } else s)

/-- TIME_DISTRIBUTION: between 0.2 s and 0.8 s into a second of the manager's own fabric time (R332). -/
def execTimeDistribution (s : State) : Res :=
  unitOk true (
    let t := (now s).toNat
    let f := t % 1000000000
    if isMgr s && 200000000 ≤ f && f ≤ 800000000 then
      forL (joinedPeers s) s fun s d => mgmtSend s d 0x06 (natLe 8 (t / 1000000000 + 1))
    else s)

/-- A JOIN to a device, which starts a new session: the management ID comes from the domain's tables, which are software's, so it is
a free value. (Log 78 DEDUCED.) -/
def sendJoin (s : State) (d : Nat) : State :=
  let f := freeW s
  let g := freeBelow f.2 4096
  let s := modPeer g.2 d fun x => { port := x.port, nonceOwn := f.1 }
  mgmtSend s d 0x01 (natLe 8 f.1.toNat ++ [BitVec.ofNat 8 s.stk.domain] ++ natLe 2 d ++ natLe 2 g.1 ++ natLe 2 s.stk.hbPeriod)

/-- A write of promote (R330): TAKEOVER to every device known, then a JOIN to each. -/
def promote (s : State) : State :=
  if !(s.stk.standby && s.stk.hbLost && s.stk.mode == 2 && s.stk.joined) then s else
  let s := { s with stk := { s.stk with epoch := s.stk.epoch + 1, manager := s.stk.dev, silent := false } }
  let l := s.stk.peers.map fun e => e.1
  let s := forL l s fun s d => mgmtSend s d 0x0A (natLe 4 s.stk.epoch.toNat)
  forL l s sendJoin

/-- PROMOTE_WRITE. -/
def execPromoteWrite (s : State) : Res := unitOk true (promote s)

/-! ## Registers (Tables HIER-2, HIER-3) -/

/-- STK_MODE. -/
def stkModeRead (s : State) : W32 :=
  pack32 [fl 31 s.stk.strapFault, fl 30 s.stk.overrideUsed, (8, s.glb.straps.stackId.toNat), (4, s.glb.straps.fabricMode.toNat), (0, s.stk.mode)]

/-- STK_DOM. -/
def stkDomRead (s : State) : W32 :=
  pack32 [fl 31 s.stk.joined, fl 30 s.stk.standby, fl 28 s.stk.hbLost, (24, s.stk.domain), (12, s.stk.dev), (0, s.stk.mgmtPbr)]

/-- A write of STK_DOM: standby first, then promote as it then stands; a worker's or member's domain and ID are JOIN's. -/
def stkDomWrite (s : State) (v : W32) : State :=
  let own := s.stk.mode != 2 && s.stk.mode != 4
  let lost := s.stk.hbLost
  let s := { s with stk := { s.stk with standby := bit v 30, domain := if own then fld v 24 4 else s.stk.domain
                                        mgmtPbr := if own then fld v 0 12 else s.stk.mgmtPbr } }
  let s := if bit v 29 && lost then promote s else s
  if bit v 28 then { s with stk := { s.stk with hbLost := false } } else s

/-- STK_MSG_EVENT. -/
def msgEvRead (s : State) : W32 :=
  pack32 [fl 4 s.stk.evTakeover, fl 3 s.stk.evAuth, fl 2 s.stk.evReplay, fl 1 s.stk.evUnjoined, fl 0 s.stk.evEpoch]

/-- A write of STK_MSG_EVENT clears bits. -/
def msgEvWrite (s : State) (v : W32) : State :=
  let x := s.stk
  { s with stk := { x with evTakeover := x.evTakeover && !bit v 4, evAuth := x.evAuth && !bit v 3, evReplay := x.evReplay && !bit v 2
                           evUnjoined := x.evUnjoined && !bit v 1, evEpoch := x.evEpoch && !bit v 0 } }

end Sys2Proof.Machine
end

