-- ==== Sys2Proof/Machine/Ifl.lean ====
section
/-!
DEFINITION. The Ifern Link's receiver (15): CRC, the leaf's header, sequences, acknowledgements, credits, link start, recovery, and
the messages in the payload; the registers of Table IFL-6.
-/

namespace Sys2Proof.Machine

/-! ## The leaf (R344, R345) -/

/-- One bit of the reflected CRC-64. -/
def crc64Bit (c : Nat) : Nat := if c % 2 = 1 then (c / 2) ^^^ 0xC96C5795D7870F42 else c / 2

/-- One byte of it. -/
def crc64Byte (c : Nat) (b : Byte) : Nat :=
  crc64Bit (crc64Bit (crc64Bit (crc64Bit (crc64Bit (crc64Bit (crc64Bit (crc64Bit (c ^^^ b.toNat))))))))

/-- The CRC of bytes. -/
def crc64 (bs : List Byte) : Nat := bs.foldl crc64Byte (2 ^ 64 - 1) ^^^ (2 ^ 64 - 1)

/-- A leaf's header fields (Table IFL-2). -/
structure LeafHead where
  seq : Nat
  ack : Nat
  cls : Nat
  type : Nat
  req : Nat
  rsp : Nat
  nslots : Nat
  cont : Bool
  resv : Nat
deriving DecidableEq, Repr

/-- The header of a leaf. -/
def leafHead (b : List Byte) : LeafHead :=
  let h : W64 := BitVec.ofNat 64 (leNat (slice b 0 8))
  { seq := fld h 52 12, ack := fld h 40 12, cls := fld h 38 2, type := fld h 34 4, req := fld h 22 12, rsp := fld h 10 12
    nslots := fld h 6 4, cont := bit h 5, resv := fld h 0 5 }

/-- The CRC of a leaf holds. -/
def leafCrcOk (b : List Byte) : Bool := crc64 (slice b 0 248) == leNat (slice b 248 8)

/-- Slot `i` of a leaf. -/
def leafSlot (b : List Byte) (i : Nat) : List Byte := slice b (8 + 16 * i) 16

/-- A leaf that is no leaf of Table IFL-3, or has a bit set where none may be (R345). INIT's slot 0 is in use with nslots 0. -/
def leafBad (b : List Byte) : Bool :=
  let h := leafHead b
  let known := (h.cls < 2 && h.type == 0) || (h.cls == 2 && h.type < 4)
  let empty := h.cls == 2 && (h.type == 0 || h.type == 1 || h.type == 3)
  let first := if h.cls == 2 && h.type == 3 then 1 else h.nslots
  !known || h.resv != 0 || (empty && h.nslots != 0) || (slice b (8 + 16 * first) (240 - 16 * first)).any fun x => x != 0

/-- Bytes of a leaf: header, payload, CRC. -/
def leafBytes (h : LeafHead) (payload : List Byte) : List Byte :=
  let w := packN [(52, h.seq), (40, h.ack), (38, h.cls), (34, h.type), (22, h.req), (10, h.rsp), (6, h.nslots), fl 5 h.cont, (0, h.resv)]
  let b := natLe 8 w ++ slice payload 0 240
  b ++ natLe 8 (crc64 b)

/-! ## Link quantities -/

/-- Leaves outstanding (R349). -/
def outstanding (x : Ifl) : Nat := sub12 x.nextTx x.oldest
/-- The window. -/
def iflWindow (x : Port) : Nat := min 2048 (1024 * x.lanesUsed / 4)
/-- Leaves this device advertises for each class (R353). -/
def iflAdv (x : Port) : Nat := 128 * x.lanesUsed / 4
/-- Count in PORT_IFL_CNT[i]. -/
def iflCount (x : Ifl) (i : Nat) : Ifl := { x with cnt := tput 0 x.cnt i (satAdd 0xFFFFFFFF (tget 0 x.cnt i) 1) }

/-- Change a port's link state. -/
def modIfl (s : State) (p : Nat) (f : Ifl → Ifl) : State := modPort s p fun x => { x with ifl := f x.ifl }

/-- Start a replay pass from oldest, or count an ignored trigger (R357). -/
def startPass (x : Ifl) : Ifl :=
  if x.pass.isEmpty then { x with pass := x.replay.map fun l => l.seq, timer := true } else iflCount x 7

/-- An acknowledgement (R351): the leaves up to it are freed. -/
def takeAck (x : Ifl) (a : Nat) : Ifl :=
  let e := sub12 a x.oldest
  if outstanding x ≤ e then x else
  let gone (q : Nat) : Bool := sub12 q x.oldest ≤ e
  let y := { x with oldest := (a + 1) % 4096, replay := x.replay.filter fun l => !gone l.seq, pass := x.pass.filter fun q => !gone q
                    expiries := 0 }
  { y with timer := outstanding y != 0 }

/-- A count that implies more leaves consumed than were sent (R355). -/
def countBad (x : Ifl) (h : LeafHead) : Bool :=
  sub12 x.reqSent x.reqSeen < sub12 h.req x.reqSeen || sub12 x.rspSent x.rspSeen < sub12 h.rsp x.rspSeen

/-- The acknowledgement and the counts of a leaf. -/
def takeFields (x : Ifl) (h : LeafHead) : Ifl := { takeAck x h.ack with reqSeen := h.req, rspSeen := h.rsp }

/-- Leaves whose messages have all been admitted or discarded are consumed, in order, and counted (R354). (Log 81 DEDUCED.) -/
def consume (held : List Nat) : List RxLeaf → Ifl → Ifl
  | [], x => x
  | l :: ls, x =>
    let stuck := l.ids.any held.contains || (tget {} x.rxCur l.cls).left != 0 && l.ids.any (tget {} x.rxCur l.cls).ids.contains
    if stuck then (let y := consume held ls x; { y with rxLeaves := l :: y.rxLeaves })
    else if l.cls = 0 then consume held ls { x with reqUsed := (x.reqUsed + 1) % 4096 }
    else consume held ls { x with rspUsed := (x.rspUsed + 1) % 4096 }

/-- The consumption of a port's leaves as its staging stands. (Log 81 DEDUCED.) -/
def iflConsume (s : State) (p : Nat) : State :=
  let held := (s.core.pkts.filter fun k => k.ing == p && isStaged k).map fun k => k.id
  modIfl s p fun x => consume held x.rxLeaves { x with rxLeaves := [] }

/-! ## Errors and the end of a link -/

/-- A protocol error: protocol_err sets and the port is reset (R345). It waits while a port reset must wait (R308, R317). -/
def iflProto (s : State) (p : Nat) : State :=
  if portWaits s p then s else
  resetPort (stewIf (modIfl s p fun x => { x with evProto := true }) (getPort s p).ifl.evProto true) p

/-- The link is down (R361). -/
def iflDown (s : State) (p : Nat) : State := if portWaits s p then s else linkLost s p

/-! ## Messages in the payload (R346, R348) -/

/-- The fields of a route slot (Table IFL-4). -/
structure RouteHead where
  src : Nat
  dst : Nat
  ten : Nat
  stw : Bool
  proto : Nat
  qclass : Nat
  h : Nat
  psn : Bool
  dlen : Nat
  istamp : Nat
  tstamp : Nat
  origin : Nat
  bad : Bool
deriving DecidableEq, Repr

/-- The route slot at the front of bytes; `bad` marks a set reserved bit. -/
def routeHead (b : List Byte) : RouteHead :=
  let v : BitVec 128 := BitVec.ofNat 128 (leNat (slice b 0 16))
  { src := fld v 116 12, dst := fld v 104 12, ten := fld v 100 4, stw := bit v 99, proto := fld v 96 3, qclass := fld v 92 4
    h := fld v 90 2, psn := bit v 89, dlen := fld v 75 13, istamp := fld v 67 8, tstamp := fld v 59 8, origin := fld v 56 3
    bad := bit v 88 || fld v 0 56 != 0 }

/-- A route slot that is a protocol error in a class: 0 REQ, 1 RSP, 2 MGMT. -/
def routeBad (r : RouteHead) (cls : Nat) : Bool :=
  r.bad || 4 < r.proto || (r.proto == 4) != (cls == 2) || 4096 < r.dlen

/-- Data that a message carries in its own fields is taken whole with it. (Log 81 DEDUCED.) -/
def wholeData (o : MOp) : Bool := isAtom o || (match o with | .go _ => true | _ => false)

/-- The poison slot's bits; bits at and above the data's lines must be zero. -/
def poisonOf (b : List Byte) (dlen : Nat) : Option (List Bool) :=
  let v := leNat (slice b 0 16)
  let n := ceilDiv dlen 64
  if v / 2 ^ n != 0 then none else some ((List.range n).map fun i => v / 2 ^ i % 2 == 1)

/-- The message of a route slot and its header slots. -/
def stackMsg (r : RouteHead) (head : List Byte) (poison : List Bool) (data : List Byte) : Msg :=
  let m := Config.unwireHead head
  { m with srcPbr := r.src, dstPbr := r.dst, len := if r.dlen = 0 then m.len else r.dlen, data := data, poison := poison }

/-- A message of a stack link is received, with the tenant, privilege, queue class and issuer's stamp of its route slot (R334). -/
def stackRecv (s : State) (p : Nat) (r : RouteHead) (m : Msg) : State :=
  let s := if m.poison.any id then portCount s p 8 none 1 else s
  if isRsp m.op then
    let from_ := s.nextId
    let s := recvRsp s p m
    putPkts s (s.core.pkts.map fun k =>
      if from_ ≤ k.id && k.resp then { k with prio := r.qclass % 8, origin := some r.origin } else k)
  else match m.op with
    | .biConflict => recvMsg p s m
    | _ => recvReqK s p
      { id := 0, msg := m, org := .port p, ing := p, ten := if r.stw then none else some r.ten, stw := r.stw, prio := r.qclass % 8
        origin := some r.origin
        istamp := BitVec.ofNat 8 r.istamp, tstamp := BitVec.ofNat 8 r.tstamp, admitted := now s }

/-- Set the message in progress of a class. -/
def setCur (s : State) (p cls : Nat) (c : RxCur) : State := modIfl s p fun x => { x with rxCur := tput {} x.rxCur cls c }

/-- The outcome of taking slots: the state, the slots left over, the messages touched; or a protocol error. -/
structure SlotRes where
  s : State
  rest : List Byte
  ids : List Nat
  err : Bool := false

/-- Take the slots of a class in order: data of the message in progress, then the next message once its route, header and poison
slots are there (R347). (Log 81 DEDUCED.) -/
def takeSlots (p cls : Nat) : Nat → State → List Byte → List Nat → SlotRes
  | 0, s, b, ids => { s := s, rest := b, ids := ids }
  | n + 1, s, b, ids =>
    let c := tget {} (getPort s p).ifl.rxCur cls
    if b.isEmpty then { s := s, rest := b, ids := ids }
    else if c.left != 0 then
      let k := min (ceilDiv c.left 16 * 16) b.length
      let s := if cls = 2 then s else recvCont p s { tag := c.tag, data := slice b 0 (min k c.left) }
      takeSlots p cls n (setCur s p cls { c with left := c.left - min k c.left }) (b.drop k) (ids ++ c.ids)
    else
      let r := routeHead b
      if b.length < 16 then { s := s, rest := b, ids := ids }
      else if routeBad r cls then { s := s, rest := [], ids := ids, err := true }
      else
        let psn := if r.psn then 16 else 0
        let lead := 16 + 16 * r.h + psn
        let head := slice b 16 (16 * r.h)
        let all := 16 * ceilDiv r.dlen 16
        let whole := wholeData (Config.unwireHead head).op
        let need := if whole then lead + all else lead
        if b.length < need then { s := s, rest := b, ids := ids }
        else match (if r.psn then poisonOf (slice b (16 + 16 * r.h) 16) r.dlen else some []) with
          | none => { s := s, rest := [], ids := ids, err := true }
          | some poison =>
            let data := if whole then slice b lead r.dlen else []
            let m := stackMsg r head poison data
            let from_ := s.nextId
            let s := if cls = 2 then s else stackRecv s p r m
            let new := (List.range (s.nextId - from_)).map fun i => from_ + i
            let s := setCur s p cls { tag := m.tag, left := if whole then 0 else r.dlen, ids := new }
            takeSlots p cls n s (b.drop need) (ids ++ new)

/-- The slots of a class not yet taken. -/
def rxBuf (x : Ifl) (cls : Nat) : List Byte := if cls = 0 then x.rxReq else if cls = 1 then x.rxRsp else x.rxMgmt

/-- Keep the slots of a class not yet taken. -/
def setRx (x : Ifl) (cls : Nat) (b : List Byte) : Ifl :=
  if cls = 0 then { x with rxReq := b } else if cls = 1 then { x with rxRsp := b } else { x with rxMgmt := b }

/-- The payload of a leaf accepted in order goes into its class (R350). -/
def takePayload (s : State) (p : Nat) (h : LeafHead) (b : List Byte) : State :=
  let cls := if h.cls = 2 then 2 else h.cls
  let buf := rxBuf (getPort s p).ifl cls ++ slice b 8 (16 * h.nslots)
  let r := takeSlots p cls 64 s buf []
  if r.err then iflProto s p
  else
    let s := modIfl r.s p fun x => setRx x cls r.rest
    if cls = 2 then s else modIfl s p fun x => { x with rxLeaves := x.rxLeaves ++ [{ cls := cls, ids := r.ids }] }

/-- A sequenced leaf by its place in the sequence (R350, R355). -/
def takeSeq (s : State) (p : Nat) (h : LeafHead) (b : List Byte) : State :=
  let x := (getPort s p).ifl
  let d := sub12 h.seq (x.lastRx + 1)
  if d = 0 then
    let full := h.cls < 2 && iflAdv (getPort s p) ≤ (x.rxLeaves.filter fun l => l.cls == h.cls).length
    if full then iflProto s p
    else takePayload (modIfl s p fun x => { x with lastRx := h.seq, nakSent := false, nakDue := false }) p h b
  else if d < 2048 then
    modIfl s p fun x => if x.nakSent then x else { x with nakSent := true, nakDue := true }
  else modIfl s p fun x => iflCount x 4

/-- A failed CRC: the leaf is discarded whole and counted (R343). -/
def leafFail (s : State) (p : Nat) : State := portCount (modIfl s p fun x => iflCount x 0) p 14 none 1

/-- A leaf on an active stack link: its CRC, its fields, then its own action; a leaf of a kind that `kind` does not name changes
nothing. -/
def leafIn (p : Nat) (b : List Byte) (kind : LeafHead → Bool) (act : State → LeafHead → State) (s : State) : State :=
  let x := getPort s p
  if roleOf x != 5 || x.link != .up || x.ifl.st != .active || (getQuire s (quireOf p)).busy then s
  else if !leafCrcOk b then leafFail s p
  else if leafBad b || !kind (leafHead b) then s
  else
    let s := portCount (portCount s p 0 none 1) p 2 none 256
    let s := topDown s 1 (2 * quireOf p) 0 none 1
    let s := iflConsume s p
    if countBad (getPort s p).ifl (leafHead b) then iflProto s p
    else act (modIfl s p fun x => takeFields x (leafHead b)) (leafHead b)

/-- LEAF_DATA: a REQ or RSP DATA leaf. -/
def execLeafData (p : Nat) (leaf : List Byte) (s : State) : Res :=
  unitOk (p < 96) (leafIn p leaf (fun h => h.cls < 2) (fun s h => takeSeq s p h leaf) s)

/-- LEAF_IDLE. -/
def execLeafIdle (p : Nat) (leaf : List Byte) (s : State) : Res :=
  unitOk (p < 96) (leafIn p leaf (fun h => h.cls == 2 && h.type == 0) (fun s _ => s) s)

/-- LEAF_NAK: its acknowledgement first, then a replay pass. -/
def execLeafNak (p : Nat) (leaf : List Byte) (s : State) : Res :=
  unitOk (p < 96) (leafIn p leaf (fun h => h.cls == 2 && h.type == 1)
    (fun s _ => modIfl s p fun x => startPass (iflCount x 3)) s)

/-- LEAF_MGMT: the messages in it are taken by their own rows. -/
def execLeafMgmt (p : Nat) (leaf : List Byte) (s : State) : Res :=
  unitOk (p < 96) (leafIn p leaf (fun h => h.cls == 2 && h.type == 2) (fun s h => takeSeq s p h leaf) s)

/-! ## Link start (R359) -/

/-- The fields of an INIT: version, STACK_ID, credits, seen. -/
def initOk (s : State) (slot : List Byte) : Bool :=
  let v : BitVec 128 := BitVec.ofNat 128 (leNat slot)
  let ok (n : Nat) : Bool := 32 ≤ n && n ≤ 2048
  fld v 0 8 == 1 && fld v 8 3 != s.glb.straps.stackId.toNat && ok (fld v 16 12) && ok (fld v 28 12)

/-- The link becomes active: sequences, acknowledgements and counts start. (Log 81 DEDUCED.) -/
def iflActive (s : State) (p : Nat) : State :=
  modPort s p fun x => { x with link := .up, ifl := { x.ifl with
    st := .active, nextTx := 0, lastRx := 0xFFF, oldest := 0, reqSent := 0, rspSent := 0, reqSeen := 0, rspSeen := 0
    reqUsed := 0, rspUsed := 0, replay := [], pass := [], timer := false, expiries := 0 } }

/-- A valid INIT during link start: credits and partner, and the end of the start at a seen INIT that follows a first one.
(Log 81 DEDUCED.) -/
def initTake (s : State) (p : Nat) (slot : List Byte) : State :=
  let v : BitVec 128 := BitVec.ofNat 128 (leNat slot)
  let got := (getPort s p).ifl.gotInit
  let s := modIfl s p fun x => { x with gotInit := true, partner := fld v 8 3, reqAdv := fld v 16 12, rspAdv := fld v 28 12
                                        seenInit := x.seenInit || bit v 52 }
  if got && bit v 52 then iflActive s p else s

/-- An invalid INIT: init_error sets and the training fails. -/
def initFail (s : State) (p : Nat) : State :=
  let s := stewIf (modIfl s p fun x => { x with evInit := true, st := .training }) (getPort s p).ifl.evInit true
  trainFail s p

/-- LEAF_INIT: during link start, or the mark of a partner that has restarted. (Log 81 DEDUCED.) -/
def execLeafInit (p : Nat) (leaf : List Byte) (s : State) : Res :=
  unitOk (p < 96) (
    let x := getPort s p
    let h := leafHead leaf
    if roleOf x != 5 || (x.ifl.st != .init && x.ifl.st != .active) then s
    else if !leafCrcOk leaf then leafFail s p
    else if leafBad leaf || h.cls != 2 || h.type != 3 then s
    else if x.ifl.st == .active then iflDown s p
    else if initOk s (leafSlot leaf 0) then initTake s p (leafSlot leaf 0) else initFail s p)

/-- MALFORMED_LEAF: a leaf that passes the CRC and is no leaf (R345). -/
def execMalformedLeaf (p : Nat) (leaf : List Byte) (s : State) : Res :=
  unitOk (p < 96) (
    let x := getPort s p
    if roleOf x != 5 || x.ifl.st != .active && x.ifl.st != .init then s
    else if !leafCrcOk leaf then leafFail s p
    else if leafBad leaf then iflProto s p else s)

/-! ## Timers and recovery (R358, R360, R361) -/

/-- REPLAY_TIMER_EXPIRY: the fourth in a row puts the link into Recovery. -/
def execReplayTimerExpiry (p : Nat) (s : State) : Res :=
  unitOk (p < 96) (
    let x := getPort s p
    if roleOf x != 5 || x.ifl.st != .active || !x.ifl.timer then s else
    let s := modIfl s p fun y => iflCount { y with evReplay := true, expiries := y.expiries + 1 } 5
    if 4 ≤ x.ifl.expiries + 1 then enterRecovery (modIfl s p fun y => { y with expiries := 0 }) p
    else modIfl s p startPass)

/-- IFL_RECOVERY_EXIT: one IDLE, then a replay pass from oldest. -/
def execIflRecoveryExit (p : Nat) (s : State) : Res :=
  unitOk (p < 96) (
    let x := getPort s p
    if x.mode != 5 || x.link != .recovery then s else
    let ln := x.lanes.ln.map fun e => (e.1, { e.2 with locked := e.1 < x.lanesUsed })
    modPort s p fun x => { x with link := .up, lanes := { x.lanes with ln := ln }
                                  ifl := startPass { x.ifl with st := .active, idleDue := true, pass := [] } })

/-- IFL_LINK_DOWN_TIMEOUT: symbol lock has been lost for loss_us. -/
def execIflLinkDownTimeout (p : Nat) (s : State) : Res :=
  unitOk (p < 96) (if (getPort s p).mode == 5 && (getPort s p).link == .recovery then iflDown s p else s)

/-! ## Registers (Table IFL-6): active only while the port has role stack -/

/-- Code of the state. -/
def iflCode : IflSt → Nat
  | .off => 0 | .training => 1 | .init => 2 | .active => 3 | .recovery => 4 | .down => 5

/-- The state a stack port's link is in: the start and the active states are the Ifern Link's, the others its link's. -/
def iflState (x : Port) : IflSt :=
  match x.link with
  | .off => .off
  | .down => .down
  | .recovery => .recovery
  | .training => if x.ifl.st == .init then .init else .training
  | .up => .active

/-- A register at an offset from +0x300. -/
def iflRead (x : Port) (o : Nat) : W32 :=
  let y := x.ifl
  if roleOf x != 5 then 0
  else if o = 0 then y.cfg
  else if o = 4 then pack32 [(29, iflCode (iflState x)), (24, y.partner), (12, if x.lanesUsed = 0 then 0 else iflWindow x), (0, outstanding y)]
  else if o = 8 then pack32 [(16, y.nextTx), (0, y.lastRx)]
  else if o = 0xC then pack32 [(16, reqAvail y), (0, rspAvail y)]
  else if o = 0x10 then pack32 [(16, y.reqAdv), (0, y.rspAdv)]
  else if o = 0x14 then pack32 [fl 4 y.evInit, fl 3 y.evProto, fl 2 y.evDown, fl 1 y.evRecovery, fl 0 y.evReplay]
  else if 0x20 ≤ o && o < 0x40 then BitVec.ofNat 32 (tget 0 y.cnt ((o - 0x20) / 4))
  else 0

/-- A write at an offset from +0x300. -/
def iflWrite (x : Port) (o : Nat) (v : W32) : Port :=
  let y := x.ifl
  if roleOf x != 5 then x
  else if o = 0 then { x with ifl := { y with cfg := v &&& 0xFFFF3FFF } }
  else if o = 0x14 then
    { x with ifl := { y with evInit := y.evInit && !bit v 4, evProto := y.evProto && !bit v 3, evDown := y.evDown && !bit v 2
                             evRecovery := y.evRecovery && !bit v 1, evReplay := y.evReplay && !bit v 0 } }
  else x

end Sys2Proof.Machine
end

