-- ==== Sys2Proof/Machine/CsrRead.lean ====
section
/-!
DEFINITION. What a CSR read returns (22): the 64-bit pairs by the address of their low half, the 32-bit registers, block by block.
Reads change nothing but the latch of a pair (R448).
-/

namespace Sys2Proof.Machine

/-! ## Counters and logs (21) -/

/-- A counter as CSR reads see it: its shadow while CNT_CTRL.view is 1 (R441). -/
def cntRead (s : State) (a : Nat) : W64 := tget 0 (if s.cnt.view then s.cnt.shadow else s.cnt.bank) a

/-- A unit log entry as its two words (Table OBS-7). -/
def uEntW0 (which : Nat) (e : UEnt) : W64 :=
  pack64 [fl 63 e.valid, fl 62 e.uncorr, (56, if which = 0 then e.memory % 64 else 0), (48, e.code % 256), (24, e.addr % 2 ^ 24),
    (5, if which = 1 then e.detail % 4 else 0), (0, e.count)]

/-- The log that CNT_LOG_SEL selects (R445). -/
def selLog (s : State) : ULog :=
  let v := s.cnt.logSel
  tget {} s.cnt.logs (logKey ⟨fld v 24 4, fld v 16 7⟩ (fld v 30 1))

/-- The entry that CNT_LOG_SEL selects, none where the log holds no such entry. (Log 73 DEDUCED.) -/
def selEnt (s : State) : Option UEnt := (selLog s).ents[fld s.cnt.logSel 0 5]?

/-- CNT_LOG_OVF. -/
def logOvf (s : State) : W32 :=
  let v := s.cnt.logSel
  let o (w : Nat) : Nat := (tget ({} : ULog) s.cnt.logs (logKey ⟨fld v 24 4, fld v 16 7⟩ w)).ovf
  pack32 [(16, o 0), (0, o 1)]

/-- Pairs of the counter block. -/
def cntPair (s : State) (o : Nat) : Option W64 :=
  if o = 0x08 then some s.cnt.snapTime
  else if o = 0x10 || o = 0x18 then some (cntRead s (0x90000 + o))
  else if o = 0x48 then some (match selEnt s with | some e => uEntW0 (fld s.cnt.logSel 30 1) e | none => 0)
  else if o = 0x50 then some (match selEnt s with | some e => e.time | none => 0)
  else if 0x1000 ≤ o && o < 0x3000 && o % 16 = 0 then some (cntRead s (0x90000 + o))
  else if 0x3000 ≤ o && o < 0x4000 && o % 8 = 0 then some (tget 0 s.cnt.sel (0x90000 + o))
  else if 0x4000 ≤ o && o < 0x6000 && o % 8 = 0 then some (cntRead s (0x90000 + o))
  else none

/-- CNT_CTRL. -/
def cntCtrl (s : State) : W32 := pack32 [fl 31 s.cnt.frozen, fl 29 s.cnt.autoRelease, fl 28 s.cnt.view]

/-- Single registers of the counter block. -/
def cntReg (s : State) (o : Nat) : W32 :=
  match o with
  | 0x00 => cntCtrl s
  | 0x20 => BitVec.ofNat 32 s.cnt.frozenNs
  | 0x24 => BitVec.ofNat 32 s.cnt.skips
  | 0x40 => s.cnt.logSel
  | 0x58 => logOvf s
  | o => if 0x8000 ≤ o && o < 0x8410 && o % 4 = 0 then lo32 (cntRead s (0x90000 + o)) else 0

/-! ## Global block -/

/-- Code of a lifecycle state. -/
def lifeCode : Life → Nat | .blank => 0 | .opened => 1 | .secured => 2 | .returned => 3

/-- GLB_RESET_CAUSE. -/
def resetCause (g : Glb) : W32 :=
  pack32 [(16, g.resets), fl 6 g.causeThermtrip, fl 5 g.causeBrownout, fl 4 g.causeReturned, fl 3 g.causeTableUe, fl 2 g.causeResetPin,
    fl 1 g.causePowerOn]

/-- GLB_STRAP. -/
def strapWord (x : Straps) : W32 :=
  pack32 [fl 13 x.lanePolarityAuto, (10, x.bootSrc.toNat), (6, x.stackId.toNat), (3, x.fabricMode.toNat)]

/-- GLB_LIFECYCLE. -/
def lifeWord (g : Glb) : W32 := pack32 [(30, lifeCode g.life), (24, g.keyValid.toNat), (20, g.keyRevoked.toNat), (0, g.svn)]

/-- GLB_CMD_STATUS. -/
def cmdStatus (c : Cmd) : W32 :=
  pack32 [(30, c.mode), fl 29 c.active, fl 28 c.linkA.up, fl 27 c.linkB.up, fl 26 c.switched, fl 25 c.claimRefused,
    (16, c.linkB.genTag.toNat), (8, c.linkA.genTag.toNat)]

/-- A hold entry. -/
def holdWord (h : Hold) : W32 := pack32 [fl 31 h.enable, (24, h.kind), (0, h.index)]

/-- Single registers of the global block (Table REG-3). -/
def glbReg (s : State) (o : Nat) : W32 :=
  let g := s.glb
  match o with
  | 0x000 => 0x00961F3C
  | 0x004 => pack32 [fl 31 g.fmApiOwn]
  | 0x008 => g.lock
  | 0x00C => pack32 [fl 8 g.grade, (0, g.stepping.toNat)]
  | 0x020 => resetCause g
  | 0x024 => strapWord g.straps
  | 0x040 => lifeWord g
  | 0x044 => pack32 [fl 31 g.tapEn, fl 30 g.unlock, fl 29 g.dbgCtxEn]
  | 0x060 => g.ageHours
  | 0x06C => BitVec.ofNat 32 (g.ageTjMax % 256)
  | 0x100 => pack32 [(28, g.bootStage), (24, g.bootSource), (16, g.causeA), (8, g.causeB), (0, g.causeHost)]
  | 0x104 => g.goOffset.setWidth 32
  | 0x108 => BitVec.ofNat 32 g.bootMs
  | 0x110 => pack32 [fl 31 s.cmd.autoFo, (0, s.cmd.failoverMs)]
  | 0x114 => cmdStatus s.cmd
  | o => if 0x80 ≤ o && o < 0xA0 then holdWord (tget {} g.hold ((o - 0x80) / 4)) else 0

/-- A command link's block is served: link 1's is not in x16 mode (R451). -/
def linkBlock (s : State) (l : Nat) : Bool := !(l == 1 && s.cmd.mode == 0)

/-- Counters of a command link's block. -/
def linkCtr (k : Nat) : Bool := k < 4 || k == 11 || k == 13 || k == 14

/-- Pairs of the global block's 64 KiB. -/
def glbPair (s : State) (o : Nat) : Option W64 :=
  if o = 0x10 then some s.glb.serial
  else if o = 0x64 then some s.glb.ageTjSum
  else if 0x1000 ≤ o && o < 0x3000 then
    let x := o % 0x1000
    if 0x800 ≤ x && x < 0x880 && x % 8 = 0 && linkCtr ((x - 0x800) / 8) then
      some (if linkBlock s (o / 0x1000 - 1) then cntRead s o else 0)
    else none
  else none

/-- A lane register of a command link: PORT_LN[8-15] are reserved in x8 + x8 mode. -/
def linkReg (s : State) (l o : Nat) : W32 :=
  if !linkBlock s l || o < 0x400 || 0x500 ≤ o || (s.cmd.mode == 1 && 0x460 ≤ o && o < 0x480) then 0
  else laneRead (getLink s l).lanes false (o - 0x400)

/-! ## Power and slots -/

/-- Single registers of the power part. (Log 54 DEDUCED.) -/
def pwrReg (s : State) (o : Nat) : W32 :=
  let p := s.pwr
  match o with
  | 0x000 => pack32 [(16, p.hyst), (0, p.cap)]
  | 0x004 => pack32 [fl 31 p.capUnmet, fl 30 (p.tcap < p.cap), fl 29 p.avsFault, (0, min 0xFFFF p.use)]
  | 0x008 => pack32 [fl 3 p.evAvs, fl 2 p.evCrit, fl 1 p.evHot, fl 0 p.evCap]
  | 0x100 => pack32 [(8, tCrit s), (0, tHot s)]
  | 0x104 => BitVec.ofNat 32 p.tcap
  | 0x200 => pack32 [fl 31 p.loopEn, fl 30 p.unreachable, (16, p.paceHyst), (0, p.target)]
  | 0x204 => vcoreStatus s
  | o =>
    if 0x40 ≤ o && o < 0x78 then
      let n := (o - 0x40) / 8
      if o % 8 = 0 then BitVec.ofNat 32 (limitOf s n)
      else pack32 [(16, if n = 0 || n = 6 then 0 else levelOf s n), (0, min 0xFFFF (if n = 6 then slotGranted s else charge s n))]
    else if 0x110 ≤ o && o < 0x134 then
      let i := (o - 0x110) / 4
      pack32 [(8, tget 0 p.peak i), (0, tempOf s i)]
    else 0

/-- A slot register. -/
def slotReg (x : Slot) (o : Nat) : W32 :=
  match o with
  | 0x00 => pack32 [fl 31 x.warnPwrfail, fl 30 x.isoEn, fl 29 x.disEn]
  | 0x04 => x.lim
  | 0x08 => x.ramp
  | 0x0C => x.time
  | 0x18 => pack32 [fl 7 x.evPdf, fl 6 x.evLatched, fl 5 x.evTrip, fl 4 x.evPgUp, fl 3 x.evPgLost, fl 2 x.evUv, fl 1 x.evWarn, fl 0 x.evSeat]
  | 0x1C => pack32 [(16, x.vin), (0, x.vout)]
  | 0x20 => BitVec.ofNat 32 x.shunt
  | _ => 0

/-! ## Pool -/

/-- Code of a channel's state (Table POOL-3). -/
def chCode : ChSt → Nat
  | .off => 0 | .training => 1 | .trained => 2 | .initialising => 3 | .ready => 4 | .grouped => 5 | .failed => 6 | .inReset => 7

/-- A channel register. -/
def chanReg (s : State) (c o : Nat) : W32 :=
  let x := getChan s c
  match o with
  | 0x00 => pack32 [fl 31 x.enable, fl 30 (x.st == .initialising)]
  | 0x04 => pack32 [(29, chCode x.st), (24, x.fail), (22, x.dimms), (12, outstandingOf s c), (0, x.capacity)]
  | 0x08 => BitVec.ofNat 32 x.genTag.toNat
  | 0x10 => BitVec.ofNat 32 x.ceCount
  | 0x14 => pack32 [(16, x.ueOvf), (0, x.ceOvf)]
  | 0x18 => pack32 [fl 5 x.evLapLate, fl 4 x.evRepair, fl 3 x.evScrubUe, fl 2 x.evUe, fl 1 x.evRecur, fl 0 x.evCeFull]
  | 0x20 => BitVec.ofNat 32 x.ceSel
  | 0x40 => BitVec.ofNat 32 x.ueSel
  | 0x60 => pack32 [fl 31 x.scrubEn, fl 30 x.autoRetire, (16, x.lapAlarm), (0, x.maxShare)]
  | 0x64 => pack32 [(24, x.laps.toNat), (0, x.lapS)]
  | _ => 0

/-- Words 0 and 1 of entry `i` of a log, zero where it holds none. (Log 73 DEDUCED.) -/
def logWord (l : List LogEnt) (i w : Nat) : W64 :=
  match l[i]? with
  | some e => if w = 0 then e.w0 else if w = 1 then e.w1 else e.w2
  | none => 0

/-- Pairs of a channel block. (Log 73 DEDUCED.) -/
def chanPair (x : Chan) (o : Nat) : Option W64 :=
  match o with
  | 0x28 => some (logWord x.ceLog x.ceSel 0)
  | 0x30 => some (logWord x.ceLog x.ceSel 1)
  | 0x48 => some (logWord x.ueLog x.ueSel 0)
  | 0x50 => some (logWord x.ueLog x.ueSel 1)
  | _ => none

/-- A group register. -/
def grpWord (x : Grp) : W32 := pack32 [fl 31 x.enable, fl 30 x.refused, (12, x.slots), (0, x.mask.toNat)]

/-- Single registers of the pool block. -/
def poolReg (s : State) (o : Nat) : W32 :=
  if o = 0 then pack32 [fl 31 s.pool.opened, fl 30 s.pool.openErr, (0, s.pool.rate)]
  else if 0x100 ≤ o && o < 0x140 then grpWord (getGrp s ((o - 0x100) / 4))
  else if o = 0x200 then s.pool.shtSel
  else if 0x1000 ≤ o && o < 0x1C00 then chanReg s ((o - 0x1000) / 0x100) (o % 0x100)
  else 0

/-- Pairs of the pool block. -/
def poolPair (s : State) (o : Nat) : Option W64 :=
  if o = 0x208 then some s.pool.shtData
  else if 0x1000 ≤ o && o < 0x1C00 then chanPair (getChan s ((o - 0x1000) / 0x100)) (o % 0x100)
  else none

/-! ## Directory and home, deckles -/

/-- DIR_EVENT. -/
def dirEvent (h : Home) : W32 :=
  pack32 [fl 5 h.evLateWb, fl 4 h.evUnreg, fl 3 h.evDown, fl 2 h.evTagLost, fl 1 h.evStateUe, fl 0 h.evLogOvf]

/-- Single registers of the directory block. -/
def dirReg (s : State) (o : Nat) : W32 :=
  match o with
  | 0x00 => BitVec.ofNat 32 (s.home.dir.filter fun e => e.2.valid).length
  | 0x04 => pack32 [(16, s.home.peak), (0, openTxns s)]
  | 0x08 => dirEvent s.home
  | 0x10 => BitVec.ofNat 32 s.home.errSel
  | _ => 0

/-- Pairs of the directory block. (Log 73 DEDUCED.) -/
def dirPair (s : State) (o : Nat) : Option W64 :=
  if o = 0x18 then some (logWord s.home.log s.home.errSel 0) else if o = 0x20 then some (logWord s.home.log s.home.errSel 1) else none

/-- DKL_EVENT. -/
def dklEvent (d : Dkl) : W32 := pack32 [fl 4 d.evLogOvf, fl 3 d.evLock, fl 2 d.evDebug, fl 1 d.evStraddle, fl 0 d.evRefused]

/-- Single registers of the deckle block. -/
def dklReg (s : State) (o : Nat) : W32 :=
  match o with
  | 0x00 => pack32 [(16, (s.dkl.tab.filter fun e => e.2.valid && e.2.locked).length), (0, (s.dkl.tab.filter fun e => e.2.valid).length)]
  | 0x08 => dklEvent s.dkl
  | 0x10 => BitVec.ofNat 32 s.dkl.sel
  | 0x40 => BitVec.ofNat 32 s.dkl.errSel
  | _ => 0

/-- Pairs of the deckle block. (Log 73 DEDUCED.) -/
def dklPair (s : State) (o : Nat) : Option W64 :=
  match o with
  | 0x18 => some (getDkl s s.dkl.sel).w0
  | 0x20 => some (getDkl s s.dkl.sel).w1
  | 0x48 => some (logWord s.dkl.log s.dkl.errSel 0)
  | 0x50 => some (logWord s.dkl.log s.dkl.errSel 1)
  | 0x58 => some (logWord s.dkl.log s.dkl.errSel 2)
  | _ => none

/-! ## Central core -/

/-- CORE_BUF_STATUS. -/
def bufStatus (c : Core) : W32 :=
  pack32 [fl 31 (fld c.wm 20 10 * 1024 ≤ c.occ), fl 30 (fld c.wm 10 10 * 1024 ≤ c.occ), fl 29 (c.occ ≤ fld c.wm 0 10 * 1024), (0, c.occ)]

/-- PORT_QSTAT and CORE_OUT_QSTAT. -/
def qstat (s : State) (o n : Nat) : W32 :=
  let q := getQ s o n
  pack32 [fl 31 (qCrit s o n), fl 30 q.high, fl 29 q.low, (0, qlen s o n)]

/-- PORT_HIST_DATA and CORE_OUT_HIST_DATA. -/
def histData (s : State) (o : Nat) : W32 :=
  let v := (getOutP s o).histSel
  let q := getQ s o (fld v 4 4)
  BitVec.ofNat 32 (tget 0 (if bit v 8 then q.delay else q.depth) (fld v 0 4))

/-- Queue, histogram and shaper registers of an output, at the offsets of an output block (R453). -/
def outReg (s : State) (o x : Nat) : W32 :=
  if x < 0x40 then qstat s o (x / 4)
  else if x = 0x40 then (getOutP s o).crit ++ (getOutP s o).highEv
  else if x = 0x60 then (getOutP s o).histCfg
  else if x = 0x64 then (getOutP s o).histSel
  else if x = 0x68 then histData s o
  else if 0x100 ≤ x && x < 0x200 then
    let q := getQ s o ((x - 0x100) / 16)
    match x % 16 with
    | 0 => q.cir
    | 4 => q.pir
    | 8 => q.burst
    | _ => 0
  else 0

/-- A mirror session's single registers. -/
def mirReg (x : Mirror) (o : Nat) : W32 :=
  match o with
  | 0x00 => x.ctrl
  | 0x04 => x.flow
  | 0x18 => BitVec.ofNat 32 x.size
  | 0x1C => BitVec.ofNat 32 x.lost
  | _ => 0

/-- A cadence schedule's registers (Table TC-8). -/
def cadReg (x : Cad) (o : Nat) : W32 :=
  if o = 0 then x.ctrl
  else if o = 4 then BitVec.ofNat 32 x.dst
  else if o = 8 then pack32 [fl 31 x.opened, fl 30 x.degraded, (26, x.win)]
  else if o = 12 then BitVec.ofNat 32 x.used
  else if 0x10 ≤ o && o < 0x110 then
    let w := (o - 0x10) / 16
    match o % 16 with
    | 0 => tget 0 x.off w
    | 4 => tget 0 x.len w
    | 8 => tget 0 x.bytes w
    | _ => 0
  else 0

/-- Single registers of the central core block. -/
def coreReg (s : State) (o : Nat) : W32 :=
  let c := s.core
  match o with
  | 0x100 => paceStatus s
  | 0x104 => pack32 [fl 31 s.pace.floorAlarm, (16, s.pace.windowLog2.toNat), (0, s.pace.floor)]
  | 0x110 => BitVec.ofNat 32 s.pace.hist.length
  | 0x114 => s.pace.histSel
  | 0x200 => pack32 [fl 31 c.hashAddrEn, (0, c.hashShift)]
  | 0x204 => c.hashSeed
  | 0x400 => pack32 [(8, c.rspReserve)]
  | 0x404 => c.wm
  | 0x408 => bufStatus c
  | 0x40C => BitVec.ofNat 32 c.peak
  | 0x410 => pack32 [fl 2 c.evCrit, fl 1 c.evHigh, fl 0 c.evLow]
  | 0x500 => BitVec.ofNat 32 c.drrSteward
  | 0x900 => BitVec.ofNat 32 c.rgrpTmo
  | 0x904 => c.rstoreOwn
  | 0x910 => c.rgrpSel
  | 0x920 => c.ecmpSel
  | o =>
    if 0x300 ≤ o && o < 0x340 then qcfg s ((o - 0x300) / 4)
    else if 0x600 ≤ o && o < 0x700 then mirReg (getMir s ((o - 0x600) / 0x20)) (o % 0x20)
    else if 0x1000 ≤ o && o < 0x9000 then cadReg (getCad s ((o - 0x1000) / 0x200)) (o % 0x200)
    else if 0x9000 ≤ o && o < 0xC400 then outReg s (96 + (o - 0x9000) / 0x400) (o % 0x400)
    else 0

/-- Pairs of the central core block. -/
def corePair (s : State) (o : Nat) : Option W64 :=
  if o = 0x118 then some s.pace.histData
  else if 0x600 ≤ o && o < 0x700 && o % 0x20 = 8 then some (getMir s ((o - 0x600) / 0x20)).ring
  else if 0x600 ≤ o && o < 0x700 && o % 0x20 = 0x10 then some (getMir s ((o - 0x600) / 0x20)).ctlb
  else if o = 0x918 then some s.core.rgrpData
  else if 0x928 ≤ o && o < 0x948 && o % 8 = 0 then some (s.core.ecmpData.getD ((o - 0x928) / 8) 0)
  else if 0x9000 ≤ o && o < 0xC400 && o % 0x400 = 0x300 then some (getOutP s (96 + (o - 0x9000) / 0x400)).fences
  else none

/-! ## Contexts and data movers -/

/-- Code of a context's state (Table OXM-1). -/
def ctxCode : CtxSt → Nat
  | .off => 0 | .idle => 1 | .ready => 2 | .waiting => 3 | .halted => 4 | .faulted => 5 | .inReset => 6

/-- SEQ_CTX_STATUS. -/
def ctxStatus (x : Ctx) : W32 := pack32 [(29, ctxCode x.st), (24, x.stack.length), (16, x.fault), (8, x.genTag.toNat)]

/-- What SEQ_CTX_KSEL selects (R216). -/
def kdataRead (x : Ctx) : W64 :=
  if x.ksel < 16 then kget x (BitVec.ofNat 4 x.ksel)
  else if x.ksel = 16 then x.pc.setWidth 64
  else if x.ksel = 17 then pack64 [fl 3 x.z, fl 2 x.n, fl 1 x.c, fl 0 x.v]
  else 0

/-- A context's single registers (Table REG-9). -/
def ctxReg (x : Ctx) (o : Nat) : W32 :=
  match o with
  | 0x00 => pack32 [fl 31 x.enable, fl 30 x.evtIrq, fl 29 x.haltReq, (0, x.weight)]
  | 0x04 => ctxStatus x
  | 0x0C => x.evm
  | 0x10 => x.evp
  | 0x28 => (getRing x 0).cfg
  | 0x38 => (getRing x 1).cfg
  | 0x48 => (getRing x 2).cfg
  | 0x58 => (getRing x 3).cfg
  | 0x68 => x.cqCfg
  | 0x70 => x.vec
  | 0x80 => x.fmsiData
  | _ => 0

/-- A context's pairs. -/
def ctxPair (x : Ctx) (o : Nat) : Option W64 :=
  match o with
  | 0x18 => some (kdataRead x)
  | 0x20 => some (getRing x 0).base
  | 0x30 => some (getRing x 1).base
  | 0x40 => some (getRing x 2).base
  | 0x50 => some (getRing x 3).base
  | 0x60 => some x.cqBase
  | 0x78 => some x.fmsi
  | _ => none

/-- A mover channel's single registers (Table MOV-6). -/
def movReg (m : Mover) (o : Nat) : W32 :=
  match o with
  | 0x18 => BitVec.ofNat 32 m.done
  | 0x1C => BitVec.ofNat 32 m.len
  | 0x30 => BitVec.ofNat 32 m.poison
  | _ => 0

/-- A mover channel's pairs. -/
def movPair (m : Mover) (o : Nat) : Option W64 :=
  match o with
  | 0x00 => some (mvStatus m)
  | 0x08 => some m.src
  | 0x10 => some m.dst
  | 0x20 => some m.desc
  | 0x28 => some m.fail
  | _ => none

/-! ## Time and takes -/

/-- Code of a take set's state (Table TIME-6). -/
def tkCode : TkSt → Nat | .free => 0 | .staging => 1 | .preparing => 2 | .ready => 3 | .applied => 4 | .failed => 5

/-- TIME_CTRL and TIME_STATUS. -/
def timeCtrl (t : TimeU) : W32 := pack32 [(30, t.mode), fl 29 t.ppsPol, fl 28 t.setAtPps, (0, t.thresh)]

/-- TIME_STATUS. -/
def timeStatus (t : TimeU) : W32 :=
  pack32 [fl 31 t.locked, fl 30 t.holdover, fl 29 t.ppsLost, fl 28 t.stepped, fl 27 t.unlocked, (0, t.steps)]

/-- A frame reference's single registers (Table TIME-4). -/
def refReg (x : FRef) (o : Nat) : W32 :=
  match o with
  | 0x00 => if x.enable then refFields x ||| 0x80000000 else refFields x
  | 0x04 => pack32 [fl 31 x.locked, fl 30 x.lost, fl 29 x.jump, fl 28 x.synthetic, (8, x.synthRun), (0, x.rate)]
  | 0x10 => BitVec.ofNat 32 x.period
  | 0x14 => x.count
  | _ => 0

/-- TIME_FOUT_CFG. -/
def foutCfg (x : FOut) : W32 := pack32 [fl 31 x.enable, fl 30 x.pol, (28, x.src), fl 27 x.passSynth, (0, x.width)]

/-- A take set's single registers (Table TIME-6). -/
def takeReg (t : TakeSet) (o : Nat) : W32 :=
  match o with
  | 0x00 => pack32 [(29, tkCode t.st), (24, t.owner), (13, t.items.length), (5, t.slips), (2, t.cause)]
  | 0x04 => pack32 [fl 31 t.domain, fl 30 t.commit, (0, t.failItem)]
  | _ => 0

/-- Single registers of the time block. -/
def timeReg (s : State) (o : Nat) : W32 :=
  let t := s.time
  match o with
  | 0x00 => timeCtrl t
  | 0x04 => timeStatus t
  | 0x18 => BitVec.ofNat 32 (unsigned 24 t.adj)
  | 0x28 => BitVec.ofNat 32 (unsigned 32 t.ppsErr)
  | 0x40 => pack32 [(24, t.maxSlips), (12, t.leadUs), (0, t.dleadUs)]
  | o =>
    if 0x100 ≤ o && o < 0x180 then refReg (getRef s ((o - 0x100) / 0x20)) (o % 0x20)
    else if 0x200 ≤ o && o < 0x220 then
      let x := getOut s ((o - 0x200) / 16)
      if o % 16 = 0 then foutCfg x else if o % 16 = 4 then x.delay else 0
    else if 0x1000 ≤ o && o < 0x1400 then takeReg (getTake s ((o - 0x1000) / 16)) (o % 16)
    else 0

/-- Pairs of the time block. -/
def timePair (s : State) (o : Nat) : Option W64 :=
  let t := s.time
  match o with
  | 0x08 => some t.fab
  | 0x10 => some t.set
  | 0x20 => some t.pps
  | 0x30 => some t.mono
  | o =>
    if 0x100 ≤ o && o < 0x180 && o % 0x20 = 8 then some (getRef s ((o - 0x100) / 0x20)).last
    else if 0x1000 ≤ o && o < 0x1400 && o % 16 = 8 then some (getTake s ((o - 0x1000) / 16)).applyAt
    else none

/-! ## Stack and hierarchy, quires, ports, tenants -/

/-- Single registers of the stack block. -/
def stkReg (s : State) (o : Nat) : W32 :=
  match o with
  | 0x00 => stkModeRead s
  | 0x04 => stkDomRead s
  | 0x08 => pack32 [fl 31 s.stk.hbEnable, (0, s.stk.hbPeriod)]
  | 0x0C => s.stk.epoch
  | 0x40 => pack32 [fl 0 s.stk.keyLock]
  | 0x44 => msgEvRead s
  | 0x48 => BitVec.ofNat 32 s.stk.drops
  | o => if 0x1000 ≤ o && o < 0x1800 then getProxy s ((o - 0x1000) / 4) else 0

/-- QPE_STATE. -/
def qpeState (x : Quire) : W32 :=
  pack32 [fl 31 x.couched, fl 30 x.busy, fl 29 x.bistDone, fl 28 x.bistPass, (16, x.genTag.toNat), (0, x.lastStall)]

/-- A quire's single registers; the working-state window apart (Table REG-11). -/
def quireReg (s : State) (q o : Nat) : W32 :=
  if o = 0x300 then qpeState (getQuire s q)
  else if o = 0x400 then (getQuire s q).mtrSel
  else if 0x8000 ≤ o && o < 0xC000 then routeOf s q ((o - 0x8000) / 4)
  else 0

/-- A quire's pairs. -/
def quirePair (s : State) (q o : Nat) : Option W64 :=
  if 0x410 ≤ o && o < 0x440 && o % 8 = 0 then some ((getQuire s q).mtrData.getD ((o - 0x410) / 8) 0)
  else if 0x800 ≤ o && o < 0x900 && o % 8 = 0 then some (if o < 0x840 then cntRead s (quireBase q + o) else 0)
  else none

/-- A lead port's single registers (Table REG-12). -/
def portReg (s : State) (p o : Nat) : W32 :=
  let x := getPort s p
  if !leadPort s p then 0 else
  match o with
  | 0x000 => x.cfg
  | 0x004 => portStatus x
  | 0x008 => portHp x
  | 0x00C => x.gw
  | 0x010 => x.prio
  | 0x014 => x.meter
  | 0x01C => portHpCmd x
  | o =>
    if 0x100 ≤ o && o < 0x300 then outReg s p (o - 0x100)
    else if 0x300 ≤ o && o < 0x340 then iflRead x (o - 0x300)
    else if 0x400 ≤ o && o < 0x500 then laneRead x.lanes true (o - 0x400)
    else 0

/-- A lead port's pairs. -/
def portPair (s : State) (p o : Nat) : Option W64 :=
  if o = 0x4B0 then some (if leadPort s p then (getPort s p).lanes.patBits else 0)
  else if 0x800 ≤ o && o < 0x900 && o % 8 = 0 then some (if o < 0x880 && leadPort s p then cntRead s (portBase p + o) else 0)
  else none

/-- A tenant's block as reads see it: that of a tenant that does not exist reads its reset values. -/
def tenSeen (s : State) (t : Nat) : Ten := let x := getTen s t; if x.exist then x else {}

/-- vPPBs of a virtual switch: the pool's and every bound one (R54). -/
def vppbCount (x : Ten) : Nat := if x.exist then 1 + (x.vppb.filter fun v => v.2.bind != .none).length else 0

/-- TEN_STATUS. -/
def tenStatus (x : Ten) : W32 :=
  pack32 [fl 31 x.exist, fl 30 x.inReset, fl 29 x.ctrRead, (16, x.genTag.toNat), (8, vppbCount x)]

/-- A sharer-table entry (Table COH-1). -/
def sharerWord (x : Sharer) : W32 := pack32 [fl 31 x.valid, fl 30 x.dead, (12, x.port), (0, x.pbr)]

/-- A tenant's single registers (Table REG-14). -/
def tenReg (s : State) (t o : Nat) : W32 :=
  let x := tenSeen s t
  match o with
  | 0x000 => tenStatus x
  | 0x040 => BitVec.ofNat 32 x.drr
  | 0x050 => pack32 [(16, x.base), (0, x.len)]
  | 0x060 => pack32 [fl 31 x.down, fl 30 x.viral, (27, x.cause), (20, x.dead), (10, x.timeout)]
  | 0x064 => BitVec.ofNat 32 x.shrSel
  | 0x068 => sharerWord (tget {} x.sharer x.shrSel)
  | _ => 0

/-- A tenant's pairs. -/
def tenPair (s : State) (t o : Nat) : Option W64 :=
  let on := (getTen s t).exist
  if o = 0x7F0 || (0x800 ≤ o && o < 0xA00 && o % 8 = 0) then some (if on then cntRead s (tenBase t + o) else 0)
  else if 0xA00 ≤ o && o < 0xC00 && o % 8 = 0 then some (if on then tget 0 s.cnt.sel (tenBase t + o) else 0)
  else none

/-! ## MSI-X structures (R457) -/

/-- The link whose MSI-X structures a master reaches. -/
def msixLink (s : State) (m : Master) : Nat := match m with | .linkA => 0 | .linkB => 1 | _ => activeLink s

/-- A dword of the MSI-X table or the PBA of a link. -/
def msixReg (s : State) (l o : Nat) : W32 :=
  if o < 0x8000 then
    let e := tget {} s.cmd.msix (2048 * l + o / 16)
    match o % 16 / 4 with
    | 0 => lo32 e.addr
    | 1 => hi32 e.addr
    | 2 => e.data
    | _ => e.ctrl
  else if o < 0x8100 then
    pack32 ((List.range 32).map fun b => fl b (tget false s.cmd.pba (2048 * l + (o - 0x8000) / 4 * 32 + b)))
  else 0

/-! ## The whole map (Table REG-1) -/

/-- The pair whose low half is at an address. -/
def pairVal (s : State) (a : Nat) : Option W64 :=
  match a / 0x10000 with
  | 0x00 => glbPair s a
  | 0x01 => if 0x11000 ≤ a && a < 0x11800 && a % 0x40 = 0x10 then some (slotStatus s ((a - 0x11000) / 0x40)) else none
  | 0x02 => poolPair s (a % 0x10000)
  | 0x03 => dirPair s (a % 0x10000)
  | 0x04 => corePair s (a % 0x10000)
  | 0x05 => if 0x51000 ≤ a && a < 0x52200 then ctxPair (getCtx s ((a - 0x51000) / 0x100)) (a % 0x100) else none
  | 0x06 => if 0x61000 ≤ a && a < 0x62200 then movPair (getMov s ((a - 0x61000) / 0x40)) (a % 0x40) else none
  | 0x07 => timePair s (a % 0x10000)
  | 0x08 => dklPair s (a % 0x10000)
  | 0x09 => cntPair s (a % 0x10000)
  | 0x0A => if a = 0xA0010 then some (s.stk.ctxHome.setWidth 64) else none
  | b =>
    if 0x10 ≤ b && b < 0x1C then quirePair s (b - 0x10) (a % 0x10000)
    else if 0x200000 ≤ a && a < 0x260000 then portPair s ((a - 0x200000) / 0x1000) (a % 0x1000)
    else if b = 0x30 then tenPair s ((a - 0x300000) / 0x1000) (a % 0x1000)
    else none

/-- The single register at an address; a reserved address reads zero (R446). -/
def regVal (s : State) (m : Master) (a : Nat) : W32 :=
  match a / 0x10000 with
  | 0x00 => if 0x1000 ≤ a && a < 0x3000 then linkReg s (a / 0x1000 - 1) (a % 0x1000) else glbReg s a
  | 0x01 => if 0x11000 ≤ a && a < 0x11800 then slotReg (getSlot s ((a - 0x11000) / 0x40)) (a % 0x40) else pwrReg s (a % 0x10000)
  | 0x02 => poolReg s (a % 0x10000)
  | 0x03 => dirReg s (a % 0x10000)
  | 0x04 => coreReg s (a % 0x10000)
  | 0x05 => if 0x51000 ≤ a && a < 0x52200 then ctxReg (getCtx s ((a - 0x51000) / 0x100)) (a % 0x100) else 0
  | 0x06 =>
    if a = 0x60000 then BitVec.ofNat 32 s.mov.bulkShare
    else if 0x61000 ≤ a && a < 0x62200 then movReg (getMov s ((a - 0x61000) / 0x40)) (a % 0x40) else 0
  | 0x07 => timeReg s (a % 0x10000)
  | 0x08 => dklReg s (a % 0x10000)
  | 0x09 => cntReg s (a % 0x10000)
  | 0x0A => stkReg s (a % 0x10000)
  | b =>
    if 0x10 ≤ b && b < 0x1C then quireReg s (b - 0x10) (a % 0x10000)
    else if 0x200000 ≤ a && a < 0x260000 then portReg s ((a - 0x200000) / 0x1000) (a % 0x1000)
    else if b = 0x30 then tenReg s ((a - 0x300000) / 0x1000) (a % 0x1000)
    else if b = 0xF0 then msixReg s (msixLink s m) (a % 0x10000)
    else 0

/-- What a read answers: the word, whether it is a completer abort (R315), and the state after it. -/
structure CsrRd where
  v : W32
  bad : Bool := false
  s : State

/-- An address in a quire's working-state window. -/
def inWindow (a : Nat) : Bool := 0x100000 ≤ a && a < 0x1C0000 && 0x1000 ≤ a % 0x10000 && a % 0x10000 < 0x2000

/-- The quire whose handover or reset closes its window. -/
def windowShut (s : State) (q : Nat) : Bool := (getQuire s q).busy || (getQuire s q).rst != .run

/-- The stand-in answer to a window access (R315, R309). -/
def windowStandIn (s : State) (q : Nat) : State :=
  let u : UnitId := ⟨1, q⟩
  let s := quireCount (standCount s u) q 7 none 1
  if standLogged s u then s
  else
    let s := logEvent s u 0x10 0 (if (getQuire s q).busy then 1 else if (getQuire s q).rst == .held then 2 else 0)
    { s with cnt := { s.cnt with standLogged := tput false s.cnt.standLogged (standIdx u) true } }

/-- The latched high half of a pair for a master. (Log 75 DEDUCED.) -/
def latchGet (l : List (Master × Nat × W32)) (m : Master) (a : Nat) : Option W32 :=
  (l.find? fun e => e.1 == m && e.2.1 == a).map fun e => e.2.2

/-- A latch without a master's pair. (Log 75 DEDUCED.) -/
def latchDel (l : List (Master × Nat × W32)) (m : Master) (a : Nat) : List (Master × Nat × W32) :=
  l.filter fun e => !(e.1 == m && e.2.1 == a)

/-- A CSR read of an aligned word: a low half latches the high half for its master; the next high read returns it (R6, R448). The
window of a quire is the Steward's only. (Log 75 DEDUCED.) -/
def csrRead (s : State) (m : Master) (a : Nat) : CsrRd :=
  if inWindow a then
    let q := (a - 0x100000) / 0x10000
    if windowShut s q then { v := 0, bad := true, s := windowStandIn s q } else { v := Config.qpeWorking q (a % 0x1000), s := s }
  else match pairVal s a with
  | some v => { v := lo32 v, s := { s with pairHi := (m, a, hi32 v) :: latchDel s.pairHi m a } }
  | none => match (if 4 ≤ a then pairVal s (a - 4) else none) with
    | some v => match latchGet s.pairHi m (a - 4) with
      | some h => { v := h, s := { s with pairHi := latchDel s.pairHi m (a - 4) } }
      | none => { v := hi32 v, s := s }
    | none => { v := regVal s m a, s := s }

end Sys2Proof.Machine
end

