-- ==== Sys2Proof/Machine/CsrWrite.lean ====
section
/-!
DEFINITION. What a CSR write does (22, R8): the single registers block by block, the writable pairs, the registers that only
instructions write, the RWL fields, and the rows of the registers' own.
-/

namespace Sys2Proof.Machine

/-! ## Freeze, selectors, logs (21) -/

/-- The freeze instant: counters stop and fill their shadows (R440). -/
def cntFreeze (s : State) : State :=
  if s.cnt.frozen then s else
  { s with cnt := { s.cnt with frozen := true, copying := true, shadow := s.cnt.bank, snapTime := now s, frozenAt := mono s } }

/-- Counting resumes; the stopped time is added up. -/
def cntRelease (s : State) : State :=
  if !s.cnt.frozen then s else
  { s with cnt := { s.cnt with frozen := false, frozenNs := satAdd 0xFFFFFFFF s.cnt.frozenNs (mono s - s.cnt.frozenAt) } }

/-- SHADOW_COPY_END: with auto_release counting resumes at once. -/
def execShadowCopyEnd (s : State) : Res :=
  unitOk true (
    if !s.cnt.copying then s
    else
      let s := { s with cnt := { s.cnt with copying := false } }
      if s.cnt.autoRelease then cntRelease s else s)

/-- COUNTER_FREEZE_WRITE. -/
def execCounterFreezeWrite (s : State) : Res := unitOk true (cntFreeze s)
/-- COUNTER_RELEASE_WRITE. -/
def execCounterReleaseWrite (s : State) : Res := unitOk true (cntRelease s)

/-- A write of CNT_CTRL: freeze acts while counting, release while stopped. (Log 32 DEDUCED.) -/
def cntCtrlWrite (s : State) (v : W32) : State :=
  let was := s.cnt.frozen
  let s := { s with cnt := { s.cnt with autoRelease := bit v 29, view := bit v 28 } }
  if was then (if bit v 30 then cntRelease s else s) else if bit v 31 then cntFreeze s else s

/-- Event codes that Table OBS-3 defines, top-down instances as Table OBS-5 numbers them. (Log 32 DEDUCED.) -/
def codeOk (code : Nat) : Bool :=
  if code < 0x400 then code % 0x100 / 4 < [16, 30, 19, 12].getD (code / 0x100) 0
  else if 0x1000 ≤ code && code < 0x2000 then code < 0x1010
  else if 0x2000 ≤ code && code < 0x3000 then code < 0x2008
  else if 0x3000 ≤ code && code < 0x4000 then code ≤ 0x3004
  else if 0x4000 ≤ code && code < 0x5000 then code ≤ 0x400A
  else if 0x5000 ≤ code && code < 0x6000 then code ≤ 0x5004
  else if 0x6000 ≤ code && code < 0x7000 then code ≤ 0x6005
  else 0x7000 ≤ code && code ≤ 0x7004

/-- Program a selector at a CSR address: its counter is zeroed (R437). -/
def selSet (s : State) (a : Nat) (v : W64) : State :=
  { s with cnt := { s.cnt with sel := tput 0 s.cnt.sel a v, bank := tput 0 s.cnt.bank (selCounter a) 0 } }

/-- A CSR write of global selector `n`: ignored and logged for a code not defined. (Log 32 DEDUCED.) -/
def selWrite (s : State) (n : Nat) (v : W64) : State :=
  if codeOk (fld v 0 16) then selSet s (gselAddr n) (v &&& 0x3FFFFFFF) else logAt s (gselAddr n) 0x02

/-- SELECTOR_WRITE. -/
def execSelectorWrite (n : Nat) (sel : W64) (s : State) : Res := unitOk (n < 512) (selWrite s n sel)

/-- A write of CNT_LOG_SEL (R445). -/
def logSelWrite (s : State) (v : W32) : State :=
  let k := logKey ⟨fld v 24 4, fld v 16 7⟩ (fld v 30 1)
  let s := { s with cnt := { s.cnt with logSel := v &&& 0x4F7F001F } }
  if bit v 31 then { s with cnt := { s.cnt with logs := tput {} s.cnt.logs k {} } } else s

/-- UNIT_LOG_CLEAR. -/
def execUnitLogClear (v : W32) (s : State) : Res := unitOk true (if bit v 31 then logSelWrite s v else s)

/-! ## Indirect windows (R452) -/

/-- A write of CORE_PACE_HIST_SEL copies the entry of that age. (Log 73 DEDUCED.) -/
def histSelWrite (s : State) (v : W32) : State :=
  { s with pace := { s.pace with histSel := v &&& 0xFF, histData := s.pace.hist.reverse.getD (fld v 0 8) 0 } }

/-- HIST_SELECT_WRITE. -/
def execHistSelectWrite (v : W32) (s : State) : Res := unitOk true (histSelWrite s v)

/-- Word `w` of a replication group: 0 the header, 1 to 16 the members. -/
def rgWord (g : Rgrp) (w : Nat) : W64 := if w = 0 then g.header else if w ≤ 16 then tget 0 g.member (w - 1) else 0

/-- A write of CORE_RGRP_SEL copies the selected word. (Log 73 DEDUCED.) -/
def rgrpSelWrite (s : State) (v : W32) : State :=
  { s with core := { s.core with rgrpSel := v &&& 0x001F03FF, rgrpData := rgWord (getRgrp s (fld v 0 10)) (fld v 16 5) } }

/-- RGRP_SELECT_WRITE. -/
def execRgrpSelectWrite (v : W32) (s : State) : Res := unitOk true (rgrpSelWrite s v)

/-- Four pairs of an equal-cost group: its members as word B of ROUTE op 1, then its buckets as ROUTE op 2. -/
def ecmpWords (g : Ecmp) : List W64 :=
  let mem (i : Nat) : Nat × Nat := (7 * i, g.members.getD i 0)
  let b : Nat := packN ((List.range 64).map fun i => (3 * i, g.buckets.getD i 0))
  pack64 ((56, g.members.length) :: (List.range 8).map mem) ::
    [0, 1, 2].map fun j => BitVec.ofNat 64 (b / 2 ^ (64 * j))

/-- A write of CORE_ECMP_SEL copies the selected group. (Log 73 DEDUCED.) -/
def ecmpSelWrite (s : State) (v : W32) : State :=
  { s with core := { s.core with ecmpSel := v &&& 0x3F, ecmpData := ecmpWords (getEcmp s (fld v 0 6)) } }

/-- ECMP_SELECT_WRITE. -/
def execEcmpSelectWrite (v : W32) (s : State) : Res := unitOk true (ecmpSelWrite s v)

/-- A write of QPE_MTR_SEL copies the selected meter. (Log 73 DEDUCED.) -/
def meterSelWrite (s : State) (q : Nat) (v : W32) : State :=
  modQuire s q fun x => { x with mtrSel := v &&& 0x7FF, mtrData := (List.range 6).map (meterWord (tget {} x.meter (fld v 0 11))) }

/-- METER_SELECT_WRITE. -/
def execMeterSelectWrite (q : Nat) (v : W32) (s : State) : Res := unitOk (q < 12) (meterSelWrite s q v)

/-! ## Locks, buffer, histograms -/

/-- Setting bits of GLB_LOCK (R449). -/
def lockWrite (s : State) (v : W32) : State := { s with glb := { s.glb with lock := s.glb.lock ||| (v &&& 0x000707FF) } }

/-- GLB_LOCK_WRITE. -/
def execGlbLockWrite (v : W32) (s : State) : Res := unitOk true (lockWrite s v)

/-- The buffer's peak restarts at the present occupancy (R101). -/
def peakClear (s : State) : State := { s with core := { s.core with peak := s.core.occ } }

/-- BUF_PEAK_CLEAR. -/
def execBufPeakClear (s : State) : Res := unitOk true (peakClear s)

/-- Every histogram count of an output returns to zero (R138). -/
def histClear (s : State) (o : Nat) : State :=
  forL (List.range 16) s fun s n => modQ s o n fun q => { q with depth := [], delay := [] }

/-- HIST_CLEAR. -/
def execHistClear (out : Nat) (s : State) : Res := unitOk (out < 109) (histClear s out)

/-! ## Registers block by block -/

/-- Clear the W1C bit `i` of a flag. -/
def w1c (old : Bool) (v : W32) (i : Nat) : Bool := old && !bit v i

/-- A write of GLB_DBG_CTRL (Table DKL-8): `unlock` only while Open. (Log 37 DEDUCED.) -/
def dbgWrite (s : State) (v : W32) : State :=
  let g := s.glb
  { s with glb := { g with tapEn := bit v 31, unlock := if g.life == .opened then bit v 30 else g.unlock, dbgCtxEn := bit v 29 } }

/-- A write of GLB_CMD_CTRL but its claim bit (Table BOOT-3). -/
def cmdCtrlWrite (s : State) (v : W32) : State :=
  let s := failoverNow { s with cmd := { s.cmd with autoFo := bit v 31, failoverMs := fld v 0 14 } }
  if bit v 29 then handover s else s

/-- A write of GLB_BOOT_CTRL. -/
def bootCtrlWrite (s : State) (v : W32) : State :=
  let s := { s with glb := { s.glb with goOffset := (v &&& 0x000FFFF0).setWidth 20 } }
  if bit v 31 then bootGo s else s

/-- Single registers of the global block. -/
def glbWrite (s : State) (o : Nat) (v : W32) : State :=
  let g := s.glb
  match o with
  | 0x004 => if bit g.lock 0 then logAt s o 0x01 else { s with glb := { g with fmApiOwn := bit v 31 } }
  | 0x008 => lockWrite s v
  | 0x020 =>
    { s with glb := { g with causeThermtrip := w1c g.causeThermtrip v 6, causeBrownout := w1c g.causeBrownout v 5
                             causeReturned := w1c g.causeReturned v 4, causeTableUe := w1c g.causeTableUe v 3
                             causeResetPin := w1c g.causeResetPin v 2, causePowerOn := w1c g.causePowerOn v 1 } }
  | 0x044 => dbgWrite s v
  | 0x104 => bootCtrlWrite s v
  | 0x110 => cmdCtrlWrite s v
  | 0x114 => { s with cmd := { s.cmd with switched := w1c s.cmd.switched v 26, claimRefused := w1c s.cmd.claimRefused v 25 } }
  | o => if 0x80 ≤ o && o < 0xA0 then holdWrite s ((o - 0x80) / 4) v else s

/-- A lane register of a command link. -/
def linkWrite (s : State) (l o : Nat) (v : W32) : State :=
  if !linkBlock s l || o < 0x400 || 0x500 ≤ o then s
  else modLink s l fun x => { x with lanes := laneWrite x.lanes false x.up x.rate (2 ^ x.lanes.width) (o - 0x400) v }

/-- Registers of the power part. -/
def pwrWrite (s : State) (o : Nat) (v : W32) : State :=
  let p := s.pwr
  match o with
  | 0x000 => { s with pwr := { p with hyst := fld v 16 12 } }
  | 0x008 => { s with pwr := { p with evAvs := w1c p.evAvs v 3, evCrit := w1c p.evCrit v 2, evHot := w1c p.evHot v 1, evCap := w1c p.evCap v 0 } }
  | 0x100 => { s with pwr := { p with tHot := some (fld v 0 8) } }
  | 0x200 => paceTargetWrite s v
  | o =>
    if 0x110 ≤ o && o < 0x134 && bit v 31 then { s with pwr := { p with peak := tput 0 p.peak ((o - 0x110) / 4) (tempOf s ((o - 0x110) / 4)) } }
    else s

/-- The states in which a slot takes new thresholds (17). (Log 38 DEDUCED.) -/
def slotSettable (x : Slot) : Bool := x.st == .off || x.st == .latched || x.st == .pdf

/-- A slot register (Tables SLOT-4 to SLOT-6). (Log 38 DEDUCED.) -/
def slotWrite (s : State) (i o : Nat) (v : W32) : State :=
  let x := getSlot s i
  let refused := logEvent s ⟨4, i⟩ 0x02 o 0
  match o with
  | 0x00 => modSlot s i fun x => { x with warnPwrfail := bit v 31, isoEn := bit v 30, disEn := bit v 29 }
  | 0x04 =>
    if !slotSettable x || fld v 24 8 ≤ fld v 16 8 || fld v 24 8 ≤ fld v 8 8 then refused else modSlot s i fun x => { x with lim := v }
  | 0x08 => if !slotSettable x then refused else modSlot s i fun x => { x with ramp := v &&& 0xFFFF70FF }
  | 0x0C => if !slotSettable x || fld v 8 8 ≤ fld v 0 8 then refused else modSlot s i fun x => { x with time := v }
  | 0x18 => modSlot s i fun x =>
    { x with evPdf := w1c x.evPdf v 7, evLatched := w1c x.evLatched v 6, evTrip := w1c x.evTrip v 5, evPgUp := w1c x.evPgUp v 4
             evPgLost := w1c x.evPgLost v 3, evUv := w1c x.evUv v 2, evWarn := w1c x.evWarn v 1, evSeat := w1c x.evSeat v 0 }
  | _ => s

/-- A channel register. -/
def chanWrite (s : State) (c o : Nat) (v : W32) : State :=
  match o with
  | 0x00 => chanCtrlWrite s c v
  | 0x18 => modChan s c fun x =>
    { x with evLapLate := w1c x.evLapLate v 5, evRepair := w1c x.evRepair v 4, evScrubUe := w1c x.evScrubUe v 3, evUe := w1c x.evUe v 2
             evRecur := w1c x.evRecur v 1, evCeFull := w1c x.evCeFull v 0 }
  | 0x1C =>
    let s := if bit v 0 then ceClear s c else s
    if bit v 1 then ueClear s c else s
  | 0x20 => modChan s c fun x => { x with ceSel := fld v 0 6 }
  | 0x40 => modChan s c fun x => { x with ueSel := fld v 0 4 }
  | 0x60 => modChan s c fun x => { x with scrubEn := bit v 31, autoRetire := bit v 30, lapAlarm := fld v 16 8, maxShare := fld v 0 6 }
  | _ => s

/-- Registers of the pool block. -/
def poolWrite (s : State) (o : Nat) (v : W32) : State :=
  if o = 0 then poolCtrlWrite s v
  else if 0x100 ≤ o && o < 0x140 then grpWrite s ((o - 0x100) / 4) v
  else if o = 0x200 then shtSelWrite s v
  else if 0x1000 ≤ o && o < 0x1C00 then chanWrite s ((o - 0x1000) / 0x100) (o % 0x100) v
  else s

/-- Registers of the directory block. -/
def dirWrite (s : State) (o : Nat) (v : W32) : State :=
  let h := s.home
  match o with
  | 0x04 => if bit v 31 then trackerClear s else s
  | 0x08 =>
    { s with home := { h with evLateWb := w1c h.evLateWb v 5, evUnreg := w1c h.evUnreg v 4, evDown := w1c h.evDown v 3
                              evTagLost := w1c h.evTagLost v 2, evStateUe := w1c h.evStateUe v 1, evLogOvf := w1c h.evLogOvf v 0 } }
  | 0x10 =>
    let s := { s with home := { h with errSel := fld v 0 4 } }
    if bit v 31 then dirClear s else s
  | _ => s

/-- Registers of the deckle block. -/
def dklWrite (s : State) (o : Nat) (v : W32) : State :=
  let d := s.dkl
  match o with
  | 0x08 =>
    { s with dkl := { d with evLogOvf := w1c d.evLogOvf v 4, evLock := w1c d.evLock v 3, evDebug := w1c d.evDebug v 2
                             evStraddle := w1c d.evStraddle v 1, evRefused := w1c d.evRefused v 0 } }
  | 0x10 => { s with dkl := { d with sel := fld v 0 13 } }
  | 0x40 =>
    let s := { s with dkl := { d with errSel := fld v 0 5 } }
    if bit v 31 then dklClear s else s
  | _ => s

/-- Queue-event and histogram registers of an output, at the offsets of an output block. -/
def outWrite (s : State) (o x : Nat) (v : W32) : State :=
  match x with
  | 0x40 => modOutP s o fun y => { y with crit := y.crit &&& ~~~(v.extractLsb' 16 16), highEv := y.highEv &&& ~~~(v.setWidth 16) }
  | 0x60 =>
    let s := modOutP s o fun y => { y with histCfg := v &&& 0x800F1F1F }
    if bit v 30 then histClear s o else s
  | 0x64 => modOutP s o fun y => { y with histSel := v &&& 0x1FF }
  | _ => s

/-- Registers of the central core block. -/
def coreWrite (s : State) (o : Nat) (v : W32) : State :=
  let c := s.core
  match o with
  | 0x104 => paceCtrlWrite s v
  | 0x114 => histSelWrite s v
  | 0x400 => { s with core := { c with rspReserve := fld v 8 8 } }
  | 0x404 => { s with core := { c with wm := v &&& 0x3FFFFFFF } }
  | 0x40C => if bit v 31 then peakClear s else s
  | 0x410 => { s with core := { c with evCrit := w1c c.evCrit v 2, evHigh := w1c c.evHigh v 1, evLow := w1c c.evLow v 0 } }
  | 0x900 => { s with core := { c with rgrpTmo := fld v 0 14 } }
  | 0x910 => rgrpSelWrite s v
  | 0x920 => ecmpSelWrite s v
  | o =>
    if 0x300 ≤ o && o < 0x340 then
      { s with core := { c with qclass := tput (qcfgReset ((o - 0x300) / 4)) c.qclass ((o - 0x300) / 4) (v &&& 0x00FFFF07) } }
    else if 0x9000 ≤ o && o < 0xC400 then outWrite s (96 + (o - 0x9000) / 0x400) (o % 0x400) v
    else s

/-- Registers of Table OXM-7 by their context-block offset. (Log 82 DEDUCED.) -/
def oxm7 (o : Nat) : Bool := (0x20 ≤ o && o < 0x60 && o % 16 != 12) || (0x60 ≤ o && o < 0x6C) || (0x70 ≤ o && o < 0x84 && o != 0x74)

/-- A context with entries to serve and nothing to run wakes (Table OXM-1). (Log 82 DEDUCED.) -/
def wake (x : Ctx) : Ctx := if x.st == .idle && anyRing x then { x with st := .ready } else x

/-- Write a ring configuration: the size of an enabled ring stays, logged (R222). (Log 82 DEDUCED.) -/
def ringCfgWrite (s : State) (c o : Nat) (old v : W32) (set : Ctx → W32 → Ctx) : State :=
  let v := v &&& 0xCFFF000F
  let kept := bit old 31 && fld v 0 4 != fld old 0 4
  let s := if kept then logEvent s ⟨5, c⟩ 0x02 o 0 else s
  modCtx s c fun x => wake (set x (if kept then setFld v 0 4 (fld old 0 4) else v))

/-- A context's single registers. (Log 82 DEDUCED.) -/
def ctxWrite (s : State) (c o : Nat) (v : W32) : State :=
  let x := getCtx s c
  match o with
  | 0x00 =>
    let s := modCtx s c fun x => { x with evtIrq := bit v 30, weight := fld v 0 7 }
    if bit v 29 then haltCtx s c else s
  | 0x0C => if x.st == .inReset then logEvent s ⟨5, c⟩ 0x02 o 0 else modCtx s c fun x => { x with evm := v &&& 0x000FFFFF }
  | 0x10 => modCtx s c fun x => { x with ksel := fld v 0 5 }
  | 0x28 => ringCfgWrite s c o (getRing x 0).cfg v fun x v => setRing x 0 { (getRing x 0) with cfg := v }
  | 0x38 => ringCfgWrite s c o (getRing x 1).cfg v fun x v => setRing x 1 { (getRing x 1) with cfg := v }
  | 0x48 => ringCfgWrite s c o (getRing x 2).cfg v fun x v => setRing x 2 { (getRing x 2) with cfg := v }
  | 0x58 => ringCfgWrite s c o (getRing x 3).cfg v fun x v => setRing x 3 { (getRing x 3) with cfg := v }
  | 0x68 => ringCfgWrite s c o x.cqCfg v fun x v => { x with cqCfg := v }
  | 0x70 => modCtx s c fun x => { x with vec := v &&& 0x87FF07FF }
  | 0x80 => modCtx s c fun x => { x with fmsiData := v }
  | _ => s

/-- A write through SEQ_CTX_KDATA: only while the context is halted or faulted, else ignored and logged (R216). (Log 82 DEDUCED.) -/
def kdataWrite (s : State) (c : Nat) (v : W64) : State :=
  let x := getCtx s c
  if !(x.st == .halted || x.st == .faulted) then logEvent s ⟨5, c⟩ 0x02 0x18 0
  else modCtx s c fun x =>
    if x.ksel < 16 then kset x (BitVec.ofNat 4 x.ksel) v
    else if x.ksel = 16 then { x with pc := v.setWidth 20 }
    else if x.ksel = 17 then { x with z := bit v 3, n := bit v 2, c := bit v 1, v := bit v 0 }
    else x

/-- CONTEXT_REGISTER_WRITE. -/
def execContextRegisterWrite (c : Nat) (v : W64) (s : State) : Res := unitOk (c < 18) (kdataWrite s c v)

/-- A write of a ring base: ignored and logged while the ring is enabled (R222); 256-byte aligned. -/
def ringBaseWrite (s : State) (c r : Nat) (v : W64) : State :=
  if bit (getRing (getCtx s c) r).cfg 31 then logEvent s ⟨5, c⟩ 0x02 (0x20 + 16 * r) 0
  else modCtx s c fun x => setRing x r { (getRing x r) with base := v >>> 8 <<< 8 }

/-- A context's pairs. -/
def ctxPairWrite (s : State) (c o : Nat) (v : W64) : State :=
  match o with
  | 0x18 => kdataWrite s c v
  | 0x20 => ringBaseWrite s c 0 v
  | 0x30 => ringBaseWrite s c 1 v
  | 0x40 => ringBaseWrite s c 2 v
  | 0x50 => ringBaseWrite s c 3 v
  | 0x60 =>
    if bit (getCtx s c).cqCfg 31 then logEvent s ⟨5, c⟩ 0x02 o 0 else modCtx s c fun x => { x with cqBase := v >>> 8 <<< 8 }
  | 0x78 => modCtx s c fun x => { x with fmsi := v >>> 2 <<< 2 }
  | _ => s

/-- A frame reference's single registers. -/
def refWrite (s : State) (r o : Nat) (v : W32) : State :=
  match o with
  | 0x00 => refCfgWrite r v s
  | 0x04 => modRef s r fun x => { x with lost := w1c x.lost v 30, jump := w1c x.jump v 29 }
  | _ => s

/-- A frame output's registers; a disabled output has no pulse due. (Log 51 DESIGN CHOICE.) -/
def foutWrite (s : State) (i o : Nat) (v : W32) : State :=
  if o = 0 then modOut s i fun x =>
    { x with enable := bit v 31, pol := bit v 30, src := fld v 28 2, passSynth := bit v 27, width := fld v 0 20
             due := if bit v 31 then x.due else [] }
  else if o = 4 then modOut s i fun x => { x with delay := v }
  else s

/-- A write of TIME_TAKE_CTRL: the domain bit stays while the set is armed or a tenant's (Table TIME-6). -/
def takeCtrlWrite (s : State) (i : Nat) (v : W32) : State :=
  modTake s i fun t =>
    let fixed := armed t || (2 ≤ t.owner && t.owner != 0x1F)
    { t with domain := if fixed then t.domain else bit v 31, commit := t.commit || bit v 30 }

/-- Registers of the time block. -/
def timeWrite (s : State) (o : Nat) (v : W32) : State :=
  match o with
  | 0x00 => timeCtrlWrite v s
  | 0x04 => modTime s fun t => { t with ppsLost := w1c t.ppsLost v 29, stepped := w1c t.stepped v 28, unlocked := w1c t.unlocked v 27 }
  | 0x18 => timeAdjWrite v s
  | 0x40 => modTime s fun t => { t with maxSlips := fld v 24 8, leadUs := fld v 12 12, dleadUs := fld v 0 12 }
  | o =>
    if 0x100 ≤ o && o < 0x180 then refWrite s ((o - 0x100) / 0x20) (o % 0x20) v
    else if 0x200 ≤ o && o < 0x220 then foutWrite s ((o - 0x200) / 16) (o % 16) v
    else if 0x1000 ≤ o && o < 0x1400 && o % 16 = 4 then takeCtrlWrite s ((o - 0x1000) / 16) v
    else s

/-- Registers of the counter block. -/
def cntWrite (s : State) (o : Nat) (v : W32) : State :=
  match o with
  | 0x00 => cntCtrlWrite s v
  | 0x40 => logSelWrite s v
  | _ => s

/-- Registers of the stack block. -/
def stkWrite (s : State) (o : Nat) (v : W32) : State :=
  match o with
  | 0x00 => stkModeWrite s v
  | 0x04 => stkDomWrite s v
  | 0x08 => { s with stk := { s.stk with hbEnable := bit v 31, hbPeriod := fld v 0 16 } }
  | 0x40 => if bit v 0 then { s with stk := { s.stk with keyLock := true } } else s
  | 0x44 => msgEvWrite s v
  | o =>
    if 0x20 ≤ o && o < 0x40 then keyWrite s ((o - 0x20) / 4) v
    else if 0x1000 ≤ o && o < 0x1800 then proxyWrite s ((o - 0x1000) / 4) v
    else s

/-- A write of PORT_GW: the peer domain stays while the port is enabled. -/
def gwWrite (s : State) (p : Nat) (v : W32) : State :=
  if (getPort s p).enabled then s else modPort s p fun x => { x with gw := v &&& 0x000F0000 }

/-- A lead port's registers. -/
def portWrite (s : State) (p o : Nat) (v : W32) : State :=
  if !leadPort s p then s else
  match o with
  | 0x000 => portCfgWrite s p v
  | 0x004 => portStatusWrite s p v
  | 0x008 => portHpWrite s p v
  | 0x00C => gwWrite s p v
  | 0x01C => if bit v 0 then hpRefuse s p else s
  | 0x4A0 => patWrite s p v
  | o =>
    if 0x100 ≤ o && o < 0x300 then outWrite s p (o - 0x100) v
    else if 0x300 ≤ o && o < 0x340 then modPort s p fun x => iflWrite x (o - 0x300) v
    else if 0x400 ≤ o && o < 0x500 then
      modPort s p fun x => { x with lanes := laneWrite x.lanes true (x.link == .up) x.rate x.lanesUsed (o - 0x400) v }
    else s

/-- A dword of the MSI-X table of a link (R411, R457): unmasking a pending vector sends it. -/
def msixWrite (s : State) (l o : Nat) (v : W32) : State :=
  if 0x8000 ≤ o then s else
  let k := 2048 * l + o / 16
  let e := tget {} s.cmd.msix k
  let e : MsixEnt := match o % 16 / 4 with
    | 0 => { e with addr := pair (hi32 e.addr) (v &&& 0xFFFFFFFC) }
    | 1 => { e with addr := pair v (lo32 e.addr) }
    | 2 => { e with data := v }
    | _ => { e with ctrl := v &&& 1 }
  let s := { s with cmd := { s.cmd with msix := tput {} s.cmd.msix k e } }
  let lk := getLink s l
  if tget false s.cmd.pba k && !bit e.ctrl 0 && !lk.msixMask && lk.msixEnable && lk.up then
    emit { s with cmd := { s.cmd with pba := tput false s.cmd.pba k false } } (.msix l (o / 16))
  else s

/-! ## The whole map -/

/-- Registers that only instructions write (R78, R83, 05, R149, R194, R437): a CSR write is ignored and logged. -/
def owned (a : Nat) : Bool :=
  (a == 0x20208 || a == 0x2020C) || (0x80018 ≤ a && a < 0x80028) || (a == 0x40200 || a == 0x40204) ||
    (0x40928 ≤ a && a < 0x40948) || a == 0x40500 || (0x41000 ≤ a && a < 0x49000) ||
    (0x49000 ≤ a && a < 0x4C400 && 0x100 ≤ a % 0x400 && a % 0x400 < 0x200) ||
    (0x100000 ≤ a && a < 0x1C0000 && ((0x8000 ≤ a % 0x10000 && a % 0x10000 < 0xC000) || (0x410 ≤ a % 0x10000 && a % 0x10000 < 0x440))) ||
    (0x200000 ≤ a && a < 0x260000 && (a % 0x1000 == 0x010 || a % 0x1000 == 0x014 || (0x200 ≤ a % 0x1000 && a % 0x1000 < 0x300))) ||
    (0x300000 ≤ a && a < 0x310000 && (a % 0x1000 == 0x040 || (0xA00 ≤ a % 0x1000 && a % 0x1000 < 0xC00)))

/-- The context whose block an address lies in. -/
def ctxAt (a : Nat) : Option Nat := if 0x51000 ≤ a && a < 0x52200 then some ((a - 0x51000) / 0x100) else none

/-- Registers of a context block that need Steward privilege (R216, R222). -/
def stwOnly (a : Nat) : Bool := (ctxAt a).isSome && (oxm7 (a % 0x100) || a % 0x100 == 0x18 || a % 0x100 == 0x1C)

/-- A register of Table OXM-7 that the sequencer block's lock bit closes (R449). (Log 82 DEDUCED.) -/
def ringLocked (s : State) (a : Nat) : Bool := (ctxAt a).isSome && oxm7 (a % 0x100) && bit s.glb.lock 5

/-- Whether a master has Steward privilege. -/
def masterStw (m : Master) : Bool := match m with | .ctx c => isStw c | _ => true

/-- A pair's write, once its high half arrives: the pairs that software may write. (Log 75 DEDUCED.) -/
def pairWrite (s : State) (a : Nat) (v : W64) : State :=
  if a = 0x70010 then modTime s fun t => { t with set := v }
  else if a = 0xA0010 then if s.stk.mode = 3 then { s with stk := { s.stk with ctxHome := v.setWidth 48 } } else s
  else if 0x93000 ≤ a && a < 0x94000 then selWrite s ((a - 0x93000) / 8) v
  else match ctxAt a with
    | some c => ctxPairWrite s c (a % 0x100) v
    | none => s

/-- A write of a single register. -/
def regWrite (s : State) (m : Master) (a : Nat) (v : W32) : State :=
  match a / 0x10000 with
  | 0x00 => if 0x1000 ≤ a && a < 0x3000 then linkWrite s (a / 0x1000 - 1) (a % 0x1000) v else glbWrite s a v
  | 0x01 => if 0x11000 ≤ a && a < 0x11800 then slotWrite s ((a - 0x11000) / 0x40) (a % 0x40) v else pwrWrite s (a % 0x10000) v
  | 0x02 => poolWrite s (a % 0x10000) v
  | 0x03 => dirWrite s (a % 0x10000) v
  | 0x04 => coreWrite s (a % 0x10000) v
  | 0x05 => match ctxAt a with | some c => ctxWrite s c (a % 0x100) v | none => s
  | 0x06 => if a = 0x60000 then { s with mov := { s.mov with bulkShare := fld v 0 3 } } else s
  | 0x07 => timeWrite s (a % 0x10000) v
  | 0x08 => dklWrite s (a % 0x10000) v
  | 0x09 => cntWrite s (a % 0x10000) v
  | 0x0A => stkWrite s (a % 0x10000) v
  | b =>
    if 0x10 ≤ b && b < 0x1C then (if a % 0x10000 = 0x400 then meterSelWrite s (b - 0x10) v else s)
    else if 0x200000 ≤ a && a < 0x260000 then portWrite s ((a - 0x200000) / 0x1000) (a % 0x1000) v
    else if b = 0x30 then
      if a % 0x1000 = 0x064 then modTen s ((a - 0x300000) / 0x1000) fun x => { x with shrSel := fld v 0 7 } else s
    else if b = 0xF0 then msixWrite s (msixLink s m) (a % 0x10000) v
    else s

/-- A register block of a tenant that does not exist (R446, Table REG-14). -/
def noTenant (s : State) (a : Nat) : Bool := 0x300000 ≤ a && a < 0x310000 && !(getTen s ((a - 0x300000) / 0x1000)).exist

/-- A CSR write of an aligned word: a low half waits for its high half from the same master (R6, R448). -/
def csrWrite (s : State) (m : Master) (a : Nat) (v : W32) : State :=
  if inWindow a then
    let q := (a - 0x100000) / 0x10000
    if windowShut s q then windowStandIn s q else s
  else if noTenant s a then logAt s a 0x02
  else if owned a then logAt s a 0x03
  else if stwOnly a && !masterStw m then logAt s a 0x02
  else if ringLocked s a then logAt s a 0x01
  else match pairVal s a with
  | some _ => { s with pairLo := (m, a, v) :: latchDel s.pairLo m a }
  | none => match (if 4 ≤ a then pairVal s (a - 4) else none) with
    | some old =>
      pairWrite { s with pairLo := latchDel s.pairLo m (a - 4) } (a - 4) (pair v ((latchGet s.pairLo m (a - 4)).getD (lo32 old)))
    | none => regWrite s m a v

end Sys2Proof.Machine
end

