-- ==== Sys2Proof/Machine/Bus.lean ====
section
/-!
DEFINITION. Who reaches the registers and how (R409 to R412, R423, R432, R448, R206): the masters' CSR accesses, the BARs of the
command port, the context pages with their doorbells (R223 to R228), the program store, and the debug master.
-/

namespace Sys2Proof.Machine

/-! ## Which accesses are served -/

/-- What becomes of an access: served; not made (nothing can send it); closed (reads return zero, writes are dropped); dropped and
logged in the link's log; refused by the deckle table. -/
inductive Gate where
  | serve | absent | closed | standby | deny (v : Verdict)
deriving DecidableEq, Repr

/-- Registers served before S0 starts (R423), and in a strap fault (R432). -/
def bootReg (s : State) (a : Nat) : Bool :=
  a == 0x40 || (0x100 ≤ a && a < 0x10C) || (s.stk.strapFault && (a == 0x20 || a == 0x24 || a == 0xA0000))

/-- The link of a master. -/
def linkOf (m : Master) : Option Nat := match m with | .linkA => some 0 | .linkB => some 1 | _ => none

/-- A link's host can send an access. -/
def linkLive (s : State) (l : Nat) : Bool :=
  !s.glb.inReset && !noLink s l && (getLink s l).up && (getLink s l).rst == .run && (getLink s l).barsSet

/-- The check of a line for a master (Table DKL-2). (Log 1 DESIGN CHOICE.) -/
def masterChk (m : Master) (space a : Nat) (w : Bool) : Chk :=
  match m with
  | .ctx c => { ctxChk c space a 0 with r := !w, w := w }
  | _ => { space := space, addr := a, stw := true, ten := 0, r := !w, w := w }

/-- Source number of a master in the deckle log (Table DKL-10). -/
def masterSrc (m : Master) : Nat := match m with | .ctx c => ctxSrc c | .tap => 115 | _ => 116

/-- The gate of a CSR access. -/
def csrGate (s : State) (m : Master) (a : Nat) (w : Bool) : Gate :=
  if s.glb.inReset then .absent else
  match m with
  | .linkA | .linkB =>
    let l := (linkOf m).getD 0
    if !linkLive s l then .absent
    else if w && l != activeLink s then .standby
    else if s.glb.bootStage != 4 && !bootReg s a then .closed
    else match dklLine s (masterChk m 3 a w) with | .pass => .serve | v => .deny v
  | .ctx c => if 18 ≤ c then .absent else match dklLine s (masterChk m 3 a w) with | .pass => .serve | v => .deny v
  | .tap =>
    if !s.glb.tapEn || s.stk.strapFault then .absent
    else match dklLine s (masterChk m 3 a w) with | .pass => .serve | v => .deny v
  | .rom => if s.glb.bootStage == 4 then .absent else .serve

/-- Log a refused access of a master. -/
def gateLog (s : State) (m : Master) (space a : Nat) (w : Bool) (v : Verdict) (n : Nat) : State :=
  dklRefuse s (masterChk m space a w) v (masterSrc m) n

/-- A standby host's write: GLB_CMD_CTRL.claim is taken, every other write is dropped and logged (R412). (Log 76 DEDUCED.) -/
def standbyWrite (s : State) (l a : Nat) (v : W32) : State :=
  if a = 0x110 && bit v 30 && s.glb.bootStage == 4 then claim s else linkLog s l (if a < 0x10000 then a else 0)

/-- A CSR write by a master. -/
def busWrite (s : State) (m : Master) (a : Nat) (v : W32) : State :=
  if a % 4 != 0 || 2 ^ 24 ≤ a then s else
  match csrGate s m a true with
  | .serve => csrWrite s m a v
  | .standby => standbyWrite s ((linkOf m).getD 0) a v
  | .deny x => gateLog s m 3 a true x 1
  | _ => s

/-- A CSR read by a master: the word and the state after, or none where the answer is an error. -/
def busRead (s : State) (m : Master) (a : Nat) : Option W32 × State :=
  match csrGate s m a false with
  | .serve => let r := csrRead s m a; (if r.bad then none else some r.v, r.s)
  | .closed => (some 0, s)
  | .deny x => (none, gateLog s m 3 a false x 1)
  | _ => (none, s)

/-- REG_WRITE_GENERAL. -/
def execRegWriteGeneral (m : Master) (addr : Nat) (v : W32) (s : State) : Res := unitOk true (busWrite s m addr v)

/-- Whether an address is the low half of a pair. -/
def isPairLow (s : State) (a : Nat) : Bool := (pairVal s a).isSome

/-- PAIR_LOW_READ. -/
def execPairLowRead (m : Master) (addr : Nat) (s : State) : Res :=
  unitOk true (
    if addr % 4 != 0 || !isPairLow s addr then s
    else match busRead s m addr with
      | (some v, s) => emit s (.csrRead m addr v)
      | (none, s) => s)

/-- PAIR_HIGH_WRITE. -/
def execPairHighWrite (m : Master) (addr : Nat) (v : W32) (s : State) : Res :=
  unitOk true (if 4 ≤ addr && isPairLow s (addr - 4) then busWrite s m addr v else s)

/-! ## Context pages (R223 to R228) -/

/-- A write of RING_TAIL: ignored and logged beyond the ring; event 15 where the ring becomes non-empty (R224). (Log 82 DEDUCED.) -/
def doorbell (s : State) (c r tail : Nat) : State :=
  let x := getCtx s c
  if 2 ^ ringLog (getRing x r).cfg ≤ tail then logEvent s ⟨5, c⟩ 0x02 0 0
  else
    let y := setRing x r { (getRing x r) with tail := tail }
    let s := setCtx s c (wake y)
    if ringHas y r && !ringHas x r then evLatch s c 15 else s

/-- A write of CQ_HEAD frees slots and arms the completion vector (R228). -/
def cqHeadWrite (s : State) (c : Nat) (v : W32) : State := modCtx s c fun x => { x with cqHead := fld v 0 16, cmpArmed := true }

/-- A read of CTX_STATE arms the event vector. -/
def ctxStateRead (s : State) (c : Nat) : W32 × State := (ctxStatus (getCtx s c), modCtx s c fun x => { x with evtArmed := true })

/-- A dword write to a context page. -/
def pageWrite (s : State) (c o : Nat) (v : W32) : State :=
  if 18 ≤ c then s
  else if o < 0x20 && o % 8 = 0 then doorbell s c (o / 8) (fld v 0 16)
  else if o = 0x40 then cqHeadWrite s c v
  else if o = 0x4C && bit v 0 then resumeCtx s c
  else s

/-- A dword read of a context page. -/
def pageRead (s : State) (c o : Nat) : W32 × State :=
  let x := getCtx s c
  if 18 ≤ c then (0, s)
  else if o < 0x20 && o % 8 = 4 then (BitVec.ofNat 32 (getRing x (o / 8)).head, s)
  else if o = 0x40 then (BitVec.ofNat 32 x.cqHead, s)
  else if o = 0x44 then (BitVec.ofNat 32 x.cqTail, s)
  else if o = 0x48 then ctxStateRead s c
  else (0, s)

/-- The gate of a BAR2 access: closed before S0 starts; the standby host's accesses are not served. (Log 76 DEDUCED.) -/
def pageGate (s : State) (m : Master) : Gate :=
  if s.glb.inReset then .absent else
  match linkOf m with
  | some l =>
    if !linkLive s l then .absent else if l != activeLink s then .standby else if s.glb.bootStage != 4 then .closed else .serve
  | none => .serve

/-- RING_DOORBELL: from a command link, or from a tenant's host through its pool device (R223), which the model names as the context's
own master. (Log 85 DESIGN CHOICE.) -/
def execRingDoorbell (m : Master) (c r tail : Nat) (s : State) : Res :=
  unitOk (c < 18 && r < 4) (
    match pageGate s m with
    | .serve => doorbell s c r tail
    | .standby => linkLog s ((linkOf m).getD 0) 0
    | _ => s)

/-- CQ_HEAD_WRITE. (Log 85 DESIGN CHOICE.) -/
def execCqHeadWrite (c : Nat) (v : W32) (s : State) : Res := unitOk (c < 18) (if s.glb.inReset then s else cqHeadWrite s c v)

/-- COMPLETION_RING_ROOM: records held are written while slots are free (R227). (Log 85 DESIGN CHOICE.) -/
def execCompletionRingRoom (c : Nat) (s : State) : Res := unitOk (c < 18) (flushDue c (getCtx s c).due s)

/-- CTX_STATE_READ. (Log 85 DESIGN CHOICE.) -/
def execCtxStateRead (c : Nat) (s : State) : Res :=
  unitOk (c < 18) (
    if s.glb.inReset then s else
    let r := ctxStateRead s c
    emit r.2 (.barData (activeLink s) (natLe 4 r.1.toNat)))

/-- CTX_RESUME_WRITE. -/
def execCtxResumeWrite (c : Nat) (v : W32) (s : State) : Res :=
  unitOk (c < 18) (if s.glb.inReset || !bit v 0 then s else resumeCtx s c)

/-- HALT_REQUEST. -/
def execHaltRequest (c : Nat) (s : State) : Res := unitOk (c < 18) (if s.glb.inReset then s else haltCtx s c)

/-- RING_ENTRY_FETCH: the next served ring in rotation gives its entry, whose words are `wordA` and `wordB` (R225).
(Log 4 DEDUCED.) -/
def execRingEntryFetch (c : Nat) (wordA wordB : W64) (s : State) : Res :=
  unitOk (c < 18) (
    let x := getCtx s c
    if x.st != .ready || x.run != .idle || !x.due.isEmpty then s
    else match firstFrom 4 x.ringTurn (ringHas x) with
      | none => s
      | some r =>
        let g := getRing x r
        let y := setRing x r { g with head := (g.head + 1) % 2 ^ ringLog g.cfg }
        setCtx s c { y with run := .entry r g.head wordA wordB })

/-! ## The program store through BAR4 (R221) -/

/-- A write of program-store bytes by a master: the lines before the first refused one are written; the rest is logged and dropped
(R200, R201). (Log 83 DEDUCED.) -/
def storeBytes (s : State) (m : Master) (off : Nat) (b : List Byte) : State :=
  let q := masterChk m 2 off true
  let n := lineCount off b.length
  match dklLines s q n with
  | none => psWrite s off b
  | some (i, v) =>
    let cut := off / 64 * 64 + 64 * i - off
    let s := if i = 0 then s else psWrite s off (b.take cut)
    dklLog s (if i = 0 then verdictKind v else 2) (if q.stw then none else some q.ten) 2 (masterSrc m) (off / 64 + i) 0 (n - i)

/-- A BAR4 write: only in stage 2 until S0 runs; a standby host's is dropped and logged. (Log 4 DEDUCED.) -/
def storeWrite (s : State) (m : Master) (off : Nat) (b : List Byte) : State :=
  if b.isEmpty || 2 ^ 20 < off + b.length || s.glb.inReset then s else
  match linkOf m with
  | some l =>
    if !linkLive s l then s
    else if l != activeLink s then linkLog s l 0
    else if s.glb.bootStage = 4 || s.glb.bootStage = 2 then storeBytes s m off b
    else s
  | none => storeBytes s m off b

/-- PROGRAM_STORE_WRITE. -/
def execProgramStoreWrite (m : Master) (off : Nat) (bytes : List Byte) (s : State) : Res := unitOk true (storeWrite s m off bytes)

/-- A BAR4 read of `n` bytes: the lines before the first refused one, then Unsupported Request. (Log 83 DEDUCED.) -/
def storeRead (s : State) (m : Master) (l off n : Nat) : State :=
  let q := masterChk m 2 off false
  let k := lineCount off n
  match dklLines s q k with
  | none => emit s (.barData l (psRead s off n))
  | some (i, v) =>
    let cut := off / 64 * 64 + 64 * i - off
    let s := if i = 0 then s else emit s (.barData l (psRead s off cut))
    emit (dklLog s (if i = 0 then verdictKind v else 2) none 2 (masterSrc m) (off / 64 + i) 0 (k - i)) (.barUr l)

/-! ## BAR accesses (R409, R410) -/

/-- The master of a link. -/
def linkMaster (l : Nat) : Master := if l = 0 then .linkA else .linkB

/-- A naturally aligned access of 1 or 2 DW. -/
def dwOk (off n : Nat) : Bool := (n == 4 && off % 4 == 0) || (n == 8 && off % 8 == 0)

/-- A dword of a write. -/
def dwOf (b : List Byte) (i : Nat) : W32 := BitVec.ofNat 32 (leNat (slice b (4 * i) 4))

/-- BAR0 and BAR2 reads, dword by dword, the low one first: completer abort where a dword's answer is one, Unsupported Request where
the deckle table refuses it. -/
def barReadDw (s : State) (l bar off : Nat) : Option W32 × State :=
  if bar = 0 then busRead s (linkMaster l) off
  else match pageGate s (linkMaster l) with
    | .serve => let r := pageRead s (off / 0x1000) (off % 0x1000); (some r.1, r.2)
    | .closed => (some 0, s)
    | _ => (none, s)

/-- The answer to a BAR0 or BAR2 read. (Log 83 DEDUCED.) -/
def barRead (s : State) (l bar off n : Nat) : State :=
  let bad (s : State) (o : Nat) : State :=
    emit s (match csrGate s (linkMaster l) o false with | .deny _ => (if bar = 0 then .barUr l else .barAbort l) | _ => .barAbort l)
  match barReadDw s l bar off with
  | (none, s) => bad s off
  | (some a, s) =>
    if n = 4 then emit s (.barData l (natLe 4 a.toNat))
    else match barReadDw s l bar (off + 4) with
      | (none, s) => bad s (off + 4)
      | (some b, s) => emit s (.barData l (natLe 4 a.toNat ++ natLe 4 b.toNat))

/-- One dword of a BAR0 or BAR2 write. -/
def barWriteDw (s : State) (l bar off : Nat) (v : W32) : State :=
  if bar = 0 then busWrite s (linkMaster l) off v
  else match pageGate s (linkMaster l) with
    | .serve => pageWrite s (off / 0x1000) (off % 0x1000) v
    | .standby => linkLog s l 0
    | _ => s

/-- BAR_ACCESS; for a read `bytes` gives the length only. (Log 83 DEDUCED.) -/
def execBarAccess (link bar off : Nat) (write : Bool) (bytes : List Byte) (s : State) : Res :=
  unitOk (link < 2 && (bar == 0 || bar == 2 || bar == 4)) (
    let n := bytes.length
    let size := if bar = 0 then 2 ^ 24 else if bar = 2 then 2 ^ 17 else 2 ^ 20
    if !linkLive s link || n = 0 || size < off + n then s
    else if bar = 4 then (if write then storeWrite s (linkMaster link) off bytes else storeRead s (linkMaster link) link off n)
    else if !dwOk off n then (if write then linkLog s link 0 else emit s (.barAbort link))
    else if write then
      let s := barWriteDw s link bar off (dwOf bytes 0)
      if n = 8 then barWriteDw s link bar (off + 4) (dwOf bytes 1) else s
    else barRead s link bar off n)

/-! ## The debug master (R206) -/

/-- Number of a space (Table DKL-1). -/
def spaceNo : Space → Nat | .pool => 0 | .fabric => 1 | .ps => 2 | .csr => 3

/-- Unlocked debug: only while Open. -/
def unlocked (s : State) : Bool := s.glb.life == .opened && s.glb.unlock

/-- Whether a debug access is refused, as its log kind plus one. (Log 84 DESIGN CHOICE.) -/
def debugRefusal (s : State) (q : Chk) : Option Nat :=
  if !unlocked s && inLocked s q.space q.addr q.dst then some 3
  else match dklLine s q with | .pass => none | v => some (verdictKind v)

/-- The CSR part of a debug access: a pair by its low half, or one word. (Log 84 DESIGN CHOICE.) -/
def debugCsr (s : State) (a : Nat) (write : Bool) (v : W64) : W64 × State :=
  if isPairLow s a then
    if write then (0, csrWrite (csrWrite s .tap a (lo32 v)) .tap (a + 4) (hi32 v))
    else
      let x := csrRead s .tap a
      let y := csrRead x.s .tap (a + 4)
      (pair y.v x.v, y.s)
  else if write then (0, csrWrite s .tap a (lo32 v))
  else let x := csrRead s .tap a; (x.v.setWidth 64, x.s)

/-- A debug write to the pool or the fabric enters the core as a Steward request. (Log 84 DESIGN CHOICE.) -/
def debugSend (s : State) (sp : Space) (addr pbr : Nat) (v : W64) : State :=
  let m : Msg := { op := if sp == .pool then .uioWr else .ioWr, addr := addr, len := 8, data := natLe 8 v.toNat, dstPbr := pbr, slots := 24 }
  enSend s (if sp == .pool then poolPkt none .own m 0 else fabPkt s none .own m 0)

/-- DEBUG_ACCESS of one aligned 8-byte location, or of a CSR word. (Log 84 DESIGN CHOICE.) -/
def execDebugAccess (sp : Space) (addr pbr : Nat) (write : Bool) (v : W64) (s : State) : Res :=
  unitOk true (
    let n := spaceNo sp
    let q : Chk := { space := n, addr := addr, stw := true, ten := 0, dst := pbr % 4096, r := !write, w := write }
    let fits := if sp == .csr then addr % 4 == 0 && addr < 2 ^ 24 else addr % 8 == 0 && addr + 8 ≤ spaceSize n
    if s.glb.inReset || !s.glb.tapEn || s.stk.strapFault || !fits then s else
    match debugRefusal s q with
    | some k =>
      let s := dklLog { s with tap := { s.tap with refused := true } } k none n 115 (addr / 64) q.dst 1
      if write then s else emit s (.debugData 0 true)
    | none =>
      let s := { s with tap := { s.tap with refused := false } }
      match sp, write with
      | .csr, w => let r := debugCsr s addr w v; if w then r.2 else emit r.2 (.debugData r.1 false)
      | .ps, true => psWrite s addr (natLe 8 v.toNat)
      | _, true => debugSend s sp addr (pbr % 4096) v
      | _, false =>
        match peekSpan s none n addr 8 with
        | (some b, s) => emit s (.debugData (BitVec.ofNat 64 (leNat b)) false)
        | (none, s) => let f := freeW s; emit f.2 (.debugData f.1 false))

end Sys2Proof.Machine
end

