-- ==== Sys2Proof/Machine/Egress.lean ====
section
/-!
DEFINITION. The way of a message out of the core: egress selection (R127, R128, R136), scheduler rounds (R90 to R92), what happens to
a message that has crossed, the send wheel (R102), the stack link's transmitter (R347, R349, R356, R357), the fences' release (R85,
R134), cadence windows (R131) and histogram samples (R138).
-/

namespace Sys2Proof.Machine

/-! ## EGRESS_SELECTION (R127) -/

/-- Release a message into a VOQ of its ingress spoke. -/
def release (s : State) (k : Pkt) (rank : Nat) : State := movePkt s { k with stage := .voq, rank := rank }

/-- Release a cadence message: it uses its window's bytes and no shaper (R129, R136). -/
def releaseCad (s : State) (k : Pkt) : State :=
  match k.cad with
  | some i => modCad (release s k 0) i fun c => { c with used := c.used + cells k.msg }
  | none => release s k 0

/-- Release the choice of a tier: the shaper is charged, and the participant's deficit falls by the message's cells, to 0 where it
has no message left (R128, R129). -/
def releaseDrr (s : State) (o : Nat) (k : Pkt) (q : OutQ) : State :=
  let n := qclassOf k
  let s := release s k (if k.resp then 1 else 2)
  let d := if (headOf s o n q.turn).isNone then 0 else tget 0 q.deficit q.turn - cells k.msg
  let q := shpCharge (shpFill { q with deficit := tput 0 q.deficit q.turn d } (mono s)) (cells k.msg)
  modQ s o n fun _ => q

/-- The next release of an output: a cadence message, the committed tier, the excess tier. -/
def selectOut (o : Nat) (s : State) : State :=
  match pickCad s o with
  | some k => if hasRoom s o (cells k.msg) then releaseCad s k else s
  | none =>
    match (pickTier s o 0).orElse fun _ => pickTier s o 1 with
    | some (k, q) => if hasRoom s o (cells k.msg) then releaseDrr s o k q else s
    | none => s

/-- EGRESS_SELECTION. -/
def execEgressSelection (out : Nat) (s : State) : Res := unitOk (out < 109) (selectOut out s)

/-! ## Requests raised in a round (R90, R94) -/

/-- A request of input spoke `i` to output spoke `j`. -/
structure Rq where
  i : Nat
  j : Nat
  rank : Nat
deriving DecidableEq, Repr

/-- The messages of a VOQ, in queue order. -/
def voq (s : State) (i j r : Nat) : List Pkt :=
  s.core.pkts.filter fun k => k.stage == .voq && spokeOf k.ing == i && spokeOf k.out == j && k.rank == r

/-- The next cell of a VOQ is written. -/
def voqReady (s : State) (i j r : Nat) : Bool := ((voq s i j r).head?).any fun k => k.moved < written k.msg

/-- A spoke takes part in rounds: not one in reset or being couched. -/
def spokeOn (s : State) (i : Nat) : Bool := 12 ≤ i || ((getQuire s i).rst == .run && !(getQuire s i).busy)

/-- The rank of the highest-ranked ready VOQ of a pair. -/
def reqRank (s : State) (i j : Nat) : Option Nat := [0, 1, 2].find? (voqReady s i j)

/-- The requests of a round. -/
def requests (s : State) : List Rq :=
  (((s.core.pkts.filter fun k => k.stage == .voq).map fun k => (spokeOf k.ing, spokeOf k.out)).eraseDups).filterMap fun x =>
    if spokeOn s x.1 && spokeOn s x.2 then (reqRank s x.1 x.2).map fun r => { i := x.1, j := x.2, rank := r } else none

/-! ## Grant and accept (R91) -/

/-- The request with the least key. -/
def leastRq (key : Rq → Nat) (l : List Rq) : Option Rq :=
  l.foldl (fun b x => match b with | none => some x | some y => if key x < key y then some x else b) none

/-- Steps from pointer `g` upwards to `i`, modulo 16. -/
def ptrDist (g i : Nat) : Nat := (i + 16 - g % 16) % 16

/-- Whether this round is class-blind for an output: its every eighth counted one. (Log 31 DEDUCED.) -/
def classBlind (s : State) (j : Nat) : Bool := tget 0 s.core.rounds j % 8 == 7

/-- The grants of an iteration. -/
def grants (s : State) (blind : Nat → Bool) (l : List Rq) : List Rq :=
  (List.range 16).filterMap fun j =>
    leastRq (fun x => (if blind j then min x.rank 1 else x.rank) * 16 + ptrDist (tget 0 s.core.gptr j) x.i) (l.filter fun x => x.j == j)

/-- The grants that inputs accept. -/
def accepts (s : State) (l : List Rq) : List Rq :=
  (List.range 16).filterMap fun i =>
    leastRq (fun x => x.rank * 16 + ptrDist (tget 0 s.core.aptr i) x.j) (l.filter fun x => x.i == i)

/-- The matches of a round: of iteration 1, and of iteration 2 among what is left unmatched. -/
def matchRound (s : State) (l : List Rq) : List Rq × List Rq :=
  let blind (j : Nat) : Bool := classBlind s j
  let m1 := accepts s (grants s blind l)
  let left := l.filter fun x => !(m1.any fun y => y.i == x.i || y.j == x.j)
  (m1, accepts s (grants s blind left))

/-- An accept of iteration 1 moves both pointers (R92). -/
def movePtrs (s : State) (x : Rq) : State :=
  { s with core := { s.core with gptr := tput 0 s.core.gptr x.j ((x.i + 1) % 16), aptr := tput 0 s.core.aptr x.i ((x.j + 1) % 16) } }

/-- A round counts for an output that receives a request. (Log 25 DEDUCED, 31 DEDUCED.) -/
def countRound (s : State) (j : Nat) : State :=
  { s with core := { s.core with rounds := tput 0 s.core.rounds j ((tget 0 s.core.rounds j + 1) % 8) } }

/-! ## What becomes of a message that has crossed -/

/-- Close the open request a reply answers, once its last completion is gone. (Log 30 DEDUCED.) -/
def closeIfLast (s : State) (seq : Nat) : State :=
  if seq = 0 || (s.core.pkts.any fun k => k.resp && k.seq == seq) then s else
  { s with core := { s.core with opens := s.core.opens.filter fun o => !(o.pkt.id == seq && o.done) } }

/-- The master of a request to the registers: its tenant's context, or S0 with Steward privilege (notes/assumptions/17.md).
(Log 17 DEDUCED.) -/
def enMaster (k : Pkt) : Master := .ctx (if k.stw then 0 else ctxOf (k.ten.getD 0))

/-- Register words read in turn; none where one's answer is an error. (Log 17 DEDUCED.) -/
def csrWords (m : Master) : Nat → Nat → State → Option (List Byte) × State
  | 0, _, s => (some [], s)
  | n + 1, a, s =>
    match busRead s m a with
    | (none, s) => (none, s)
    | (some v, s) =>
      match csrWords m n (a + 4) s with
      | (some l, s) => (some (natLe 4 v.toNat ++ l), s)
      | (none, s) => (none, s)

/-- Register words written in turn. (Log 17 DEDUCED.) -/
def csrStores (m : Master) : List Byte → Nat → Nat → State → State
  | _, 0, _, s => s
  | b, n + 1, a, s => csrStores m (b.drop 4) n (a + 4) (busWrite s m a (dwOf b 0))

/-- A request to spoke EN by a route of kind 0b100: an access of whole dwords to the CSR space (Table DKL-2); any other is refused.
(Log 17 DEDUCED.) -/
def enRequest (s : State) (k : Pkt) : State :=
  let m := k.msg
  let ok := m.addr % 4 == 0 && m.len % 4 == 0 && m.len != 0 && m.addr + m.len ≤ 2 ^ 24
  if ok && isRead m.op then
    match csrWords (enMaster k) (m.len / 4) m.addr s with
    | (some b, s) => answer s k 108 .queued (.data b [] .i)
    | (none, s) => answer s k 108 .queued (standForm m.op false)
  else if ok && isWrite m.op then
    answer (csrStores (enMaster k) m.data (m.len / 4) m.addr s) k 108 .queued (if nonPosted m.op then .done .i else .nothing)
  else answer s k 108 .queued (refusedForm m.op)

/-- A message has crossed to a pool channel: a snoop's answer reaches its transaction, a request the home's queue. -/
def atChannel (s : State) (k : Pkt) : State :=
  let s := dropPkt s k
  match k.org, k.msg.op with
  | .snoop line e, .biRsp st => biResponse line e st k.msg.data (closeOpen s k.seq)
  | _, _ => if k.resp then s else { s with home := { s.home with queue := s.home.queue ++ [k] } }

/-- A message has crossed to EN: a client's answer, or a request. -/
def atEngine (s : State) (k : Pkt) : State :=
  let s := dropPkt s k
  if k.resp then answer (closeIfLast s k.seq) k 108 .queued (rspAns k.msg) else enRequest s k

/-- The last cell of a message is moved (R87, R88). -/
def hasCrossed (s : State) (k : Pkt) : State :=
  if k.out < 96 then qMarks (modPkt s k.id fun _ => { k with stage := .egress }) k.out (qclassOf k)
  else if k.out < 108 then atChannel s k
  else atEngine s k

/-! ## Transfers (R89, R91) -/

/-- A reply of an old generation of its issuer or its target (R307). -/
def oldReply (s : State) (k : Pkt) : Bool := k.resp && (stale s k || k.tunit.any fun u => genOf s u != k.tstamp)

/-- Poisoned data among the cells `a` to `a + n - 1` of a message. -/
def badCells (m : Msg) (a n : Nat) : Nat :=
  ((List.range n).filter fun x => a + x != 0 && m.poison.getD (a + x - 1) false).length

/-- Move `n` cells of a message and class their slots (R439). -/
def moveCells (s : State) (i : Nat) (k : Pkt) (n : Nat) : State :=
  let bad := badCells k.msg k.moved n
  let s := topDown (topDown s 0 i 0 k.ten (n - bad)) 0 i 1 k.ten bad
  let k := { k with moved := k.moved + n }
  if k.moved = cells k.msg then hasCrossed s k else qMarks (modPkt s k.id fun _ => k) k.out (qclassOf k)

/-- A transfer of up to `n` cells of a VOQ; positions left empty are front-starved. The first number bounds the messages looked at. -/
def transfer : Nat → Nat → Nat → Nat → Nat → State → State
  | 0, _, _, _, _, s => s
  | _, _, _, _, 0, s => s
  | f + 1, i, j, r, n + 1, s =>
    match (voq s i j r).head? with
    | none => topDown s 0 i 2 none (n + 1)
    | some k =>
      let c := min (n + 1) (written k.msg - k.moved)
      if c = 0 then topDown s 0 i 2 none (n + 1)
      else if oldReply s k then
        transfer f i j r n (topDown (closeIfLast (staleDrop (dropPkt s k) k) k.seq) 0 i 1 k.ten 1)
      else transfer f i j r (n + 1 - c) (moveCells s i k c)

/-- The transfer of a matched pair. -/
def transferPair (s : State) (x : Rq) : State :=
  match reqRank s x.i x.j with
  | some r => transfer 5 x.i x.j r 4 s
  | none => s

/-- The slots of a spoke without a match: back-starved where it raised a request, front-starved where it raised none.
(Log 25 DEDUCED.) -/
def idleSlots (l m : List Rq) (s : State) (i : Nat) : State :=
  if m.any fun x => x.i == i then s else topDown s 0 i (if l.any fun x => x.i == i then 3 else 2) none 4

/-- One scheduler round. -/
def schedRound (s : State) : State :=
  let l := requests s
  let m := matchRound s l
  let s := cntAdd s 0x90010 1
  let s := forL ((List.range 16).filter fun j => l.any fun x => x.j == j) s countRound
  let s := m.1.foldl movePtrs s
  let s := forL (List.range 16) s (idleSlots l (m.1 ++ m.2))
  (m.1 ++ m.2).foldl transferPair s

/-- SCHEDULER_ROUND. -/
def execSchedulerRound (s : State) : Res := unitOk true (schedRound s)

/-! ## Hand-off to the egress link -/

/-- Keep a request open until its answer comes. -/
def openReq (s : State) (k : Pkt) (p : Nat) : State := { s with core := { s.core with opens := s.core.opens ++ [{ pkt := k, port := p }] } }

/-- Whether a copy backs a multicast group. -/
def kind1Copy (s : State) (k : Pkt) : Option Nat :=
  match k.org with
  | .member wid _ => ((s.core.rwrites.find? fun w => w.id == wid).filter fun w => rgKind1 (getRgrp s w.group).header).map fun w => w.group
  | _ => none

/-- A message is handed to its egress link: counted, its egress copies taken (R114), its replication-store entry freed (R110); a
request that has a completion stays open, a reply closes the request it answers, a member without a completion has succeeded (R106).
(Log 24 DESIGN CHOICE.) -/
def handOff (s : State) (k : Pkt) (p : Nat) : State :=
  let one := (kind1Copy s k).isSome
  let s := portCount (dropPkt s k) p 5 k.ten 1
  let s := if k.msg.poison.any id then portCount s p 9 k.ten 1 else s
  let s := mirTake s p true (k.colour == .red) k
  if k.resp then closeIfLast s k.seq else
  match k.org with
  | .mirror i => mirFinish s i
  | .member wid m => if one || !nonPosted k.msg.op then memberOutcome s wid m true else openReq s k p
  | _ => if nonPosted k.msg.op then openReq s k p else answer s k p .queued .nothing

/-! ## FLIT_SEND (R102, R71, R337) -/

/-- Cells of a message the egress may place now: a TLP only whole. (Log 24 DESIGN CHOICE.) -/
def sendable (k : Pkt) : Nat :=
  if k.stage == .egress then cells k.msg - k.sent else if k.stage == .voq && !isTlp k.msg.op then k.moved - k.sent else 0

/-- Link credit for a message's channel; one that has begun holds its credit. -/
def linkCredit (x : Port) (k : Pkt) : Bool := k.sent != 0 || 0 < (if k.resp then x.rspCredit else x.reqCredit)

/-- The next message of a port to place cells of: one begun, else the oldest with credit. -/
def nextSend (s : State) (p : Nat) : Option Pkt :=
  let l := s.core.pkts.filter fun k => k.out == p && 0 < sendable k && linkCredit (getPort s p) k
  match l.find? fun k => k.sent != 0 with
  | some k => some k
  | none => l.head?

/-- A message that may not leave by the port it came to: a gateway without a proxy for it (R337), or a TLP above the partner's
Max_Payload_Size (R71). (Log 26 DEDUCED.) -/
def egressBad (s : State) (p : Nat) (k : Pkt) : Option Bool :=
  if roleOf (getPort s p) == 4 && (proxyOut s p k.msg.dstPbr).isNone then some true
  else if isTlp k.msg.op && (ingressMps s p k.msg.ld).any fun n => n < dataLen k.msg then some false
  else none

/-- Drop such a message: logged, and a request completed as unroutable, or with Unsupported Request. (Log 26 DEDUCED.) -/
def egressDrop (s : State) (p : Nat) (k : Pkt) (unr : Bool) : State :=
  let s := dropPkt s k
  let s := if unr then unroutable s p k.ten else logOpen s (uPort p) 0
  if k.resp then closeIfLast s k.seq
  else match k.org with
    | .mirror i => mirLose s i k.ten
    | _ => answerBad s k (if unr then refusedForm k.msg.op else if nonPosted k.msg.op then .ur else .nothing)

/-- The message as it stands on a link: a gateway replaces a proxy ID by the ID it stands for. -/
def onLink (s : State) (p : Nat) (m : Msg) : Msg :=
  if roleOf (getPort s p) == 4 then { m with dstPbr := (proxyOut s p m.dstPbr).getD m.dstPbr } else m

/-- What a message sent whole shows on the link: a mirror record with the producer index after it, a multicast copy, or a message. -/
def emitMsg (s : State) (p : Nat) (k : Pkt) : State :=
  match k.org, kind1Copy s k with
  | .mirror i, _ =>
    let s := emit s (.mirrorRecord i (BitVec.ofNat 64 k.msg.addr) k.msg.data)
    if k.paddr = 0 then s else emit s (.mirrorIndex i (BitVec.ofNat 64 k.paddr))
  | _, some g => emit s (.replica p g (onLink s p k.msg))
  | _, none => emit s (.linkMsg p (onLink s p k.msg))

/-- Take one link credit. (Log 24 DESIGN CHOICE.) -/
def takeCredit (s : State) (p : Nat) (rsp : Bool) : State :=
  modPort s p fun x => if rsp then { x with rspCredit := x.rspCredit - 1 } else { x with reqCredit := x.reqCredit - 1 }

/-- Place `n` cells of a message. (Log 24 DESIGN CHOICE.) -/
def placeCells (s : State) (p : Nat) (k : Pkt) (n : Nat) : State :=
  let s := if k.sent = 0 then takeCredit s p k.resp else s
  let k := { k with sent := k.sent + n }
  if k.sent = cells k.msg then handOff (emitMsg s p k) k p else modPkt s k.id fun _ => k

/-- Fill a flit with up to `n` cells; answers the cells placed. The first number bounds the messages looked at.
(Log 24 DESIGN CHOICE.) -/
def fillFlit (p : Nat) : Nat → Nat → State → Nat × State
  | 0, _, s => (0, s)
  | _, 0, s => (0, s)
  | f + 1, n + 1, s =>
    match nextSend s p with
    | none => (0, s)
    | some k =>
      match (if k.sent = 0 then egressBad s p k else none) with
      | some unr => fillFlit p f (n + 1) (egressDrop s p k unr)
      | none =>
        let c := min (n + 1) (sendable k)
        let r := fillFlit p f (n + 1 - c) (placeCells s p k c)
        (c + r.1, r.2)

/-- Cells a wire unit of a port carries, and its bytes: a 256-byte flit, a 68-byte flit, or one TLP. (Log 24 DESIGN CHOICE.) -/
def wireUnit (s : State) (p : Nat) : Nat × Nat :=
  match (getPort s p).mode with
  | 2 => (1, 68)
  | 4 => match nextSend s p with
    | some k => (sendable k, k.msg.slots)
    | none => (0, 0)
  | _ => (4, 256)

/-- A send slot of a port. (Log 25 DEDUCED.) -/
def sendFlit (p : Nat) (s : State) : State :=
  let i := 2 * quireOf p + 1
  let s := modQuire s (quireOf p) fun q => { q with wheelTx := p % 8 }
  let u := wireUnit s p
  let r := fillFlit p (s.core.pkts.length + 5) u.1 s
  if r.1 = 0 then
    let held := r.2.core.pkts.any fun k => k.out == p && 0 < sendable k
    topDown r.2 1 i (if held then 3 else 2) none 1
  else topDown (portCount (portCount r.2 p 1 none 1) p 3 none u.2) 1 i 0 none 1

/-- FLIT_SEND. (Log 24 DESIGN CHOICE.) -/
def execFlitSend (p : Nat) (s : State) : Res :=
  unitOk (p < 96) (if carrying s p && roleOf (getPort s p) != 5 then sendFlit p s else s)

/-! ## LEAF_TRANSMIT (R347, R349, R352 to R359) -/

/-- The protocol of a route slot (Table IFL-4). -/
def routeProto (o : MOp) : Nat := match o with | .mgmt _ => 4 | o => if isUio o then 3 else protoNo o

/-- The slots of a message (R346); one that entered the stack elsewhere keeps its origin. (Log 28 DEDUCED.) -/
def stackMsgSlots (s : State) (k : Pkt) : List TxSlot :=
  let m := k.msg
  let w := Config.wireHead m
  let h := min 3 (ceilDiv w.length 16)
  let psn := m.poison.any id
  let d := dataLen m
  let data := slice m.data 0 d
  let bits := (List.range (ceilDiv d 64)).foldl (fun a i => if m.poison.getD i false then a + 2 ^ i else a) 0
  msgSlots (routeSlot m.srcPbr m.dstPbr (k.ten.getD 0) k.stw (routeProto m.op) (qclassOf k) h psn d k.istamp.toNat k.tstamp.toNat
    (k.origin.getD s.glb.straps.stackId.toNat) ++ slice w 0 (16 * h) ++ (if psn then natLe 16 bits else []) ++ padSlots data)

/-- The slots a class has ready. -/
def txBuf (x : Ifl) (cls : Nat) : List TxSlot := if cls = 0 then x.txReq else if cls = 1 then x.txRsp else x.txMgmt

/-- Replace the slots a class has ready. -/
def setTx (x : Ifl) (cls : Nat) (l : List TxSlot) : Ifl :=
  if cls = 0 then { x with txReq := l } else if cls = 1 then { x with txRsp := l } else { x with txMgmt := l }

/-- Start messages of a class, whole in egress staging, until a leaf's slots are ready (R347). (Log 27 DESIGN CHOICE.) -/
def loadTx (p : Nat) (rsp : Bool) : Nat → State → State
  | 0, s => s
  | n + 1, s =>
    let cls := if rsp then 1 else 0
    if 15 ≤ (txBuf (getPort s p).ifl cls).length then s else
    match s.core.pkts.find? fun k => k.out == p && k.stage == .egress && k.resp == rsp with
    | none => s
    | some k =>
      let c := match k.msg.op with | .mgmt _ => 2 | _ => cls
      let sl := stackMsgSlots s k
      loadTx p rsp n (handOff (modIfl s p fun x => setTx x c (txBuf x c ++ sl)) k p)

/-- A leaf leaves: header with the present acknowledgement and counts, payload, CRC. -/
def sendLeaf (s : State) (p : Nat) (seq cls type : Nat) (cont : Bool) (nslots : Nat) (payload : List Byte) (idle : Bool) : State :=
  let x := (getPort s p).ifl
  let h : LeafHead := { seq := seq, ack := x.lastRx, cls := cls, type := type, req := x.reqUsed, rsp := x.rspUsed, nslots := nslots
                        cont := cont, resv := 0 }
  let gap := if cls = 2 && type = 2 then 0 else min 8 (x.mgmtGap + 1)
  let s := emit (modIfl s p fun x => { x with mgmtGap := gap }) (.leaf p (leafBytes h payload))
  let s := portCount (portCount s p 1 none 1) p 3 none 256
  topDown s 1 (2 * quireOf p + 1) (if idle then 2 else 0) none 1

/-- The INIT leaf (Table IFL-5). (Log 81 DEDUCED.) -/
def sendInit (s : State) (p : Nat) : State :=
  let x := getPort s p
  let slot := natLe 16 (packN [(0, 1), (8, s.glb.straps.stackId.toNat), (16, iflAdv x), (28, iflAdv x), fl 52 x.ifl.gotInit])
  sendLeaf s p x.ifl.nextTx 2 3 false 0 slot false

/-- A control leaf without payload. (Log 27 DESIGN CHOICE.) -/
def sendCtl (s : State) (p type : Nat) : State := sendLeaf s p (getPort s p).ifl.nextTx 2 type false 0 [] (type == 0)

/-- The next leaf of a replay pass: its sequence, class, type, slots and payload as they were (R357). (Log 27 DESIGN CHOICE.) -/
def sendReplay (s : State) (p : Nat) (q : Nat) : State :=
  let s := modIfl s p fun x => { x with pass := x.pass.drop 1 }
  match (getPort s p).ifl.replay.find? fun l => l.seq == q with
  | none => sendCtl s p 0
  | some l =>
    sendLeaf (portCount (modIfl s p fun x => iflCount x 1) p 13 none 1) p l.seq l.cls l.type l.cont l.nslots l.payload false

/-- A new sequenced leaf of a class: 0 REQ, 1 RSP, 2 MGMT. It takes next_tx, a credit of its class, and its place in the replay
buffer. (Log 27 DESIGN CHOICE.) -/
def sendNew (s : State) (p cls : Nat) : State :=
  let x := (getPort s p).ifl
  let buf := txBuf x cls
  let l := buf.take 15
  let type := if cls = 2 then 2 else 0
  let leaf : ReplayLeaf := { seq := x.nextTx, cls := cls, type := type, cont := (l.head?).any fun t => !t.first, nslots := l.length
                             payload := l.flatMap fun t => t.bytes }
  let s := modIfl s p fun x => { setTx x cls (buf.drop 15) with
    nextTx := (x.nextTx + 1) % 4096, replay := x.replay ++ [leaf], timer := true
    reqSent := if cls = 0 then (x.reqSent + 1) % 4096 else x.reqSent
    rspSent := if cls = 1 then (x.rspSent + 1) % 4096 else x.rspSent }
  sendLeaf s p leaf.seq cls type leaf.cont leaf.nslots leaf.payload false

/-- REQ or RSP by R356: RSP first, but in every eighth leaf that could be either. -/
def sendData (s : State) (p : Nat) : State :=
  let x := (getPort s p).ifl
  let rq := !x.txReq.isEmpty && 0 < reqAvail x
  let rs := !x.txRsp.isEmpty && 0 < rspAvail x
  if rq && rs then
    sendNew (modIfl s p fun x => { x with turn8 := (x.turn8 + 1) % 8 }) p (if x.turn8 = 7 then 0 else 1)
  else if rs then sendNew s p 1
  else if rq then sendNew s p 0
  else sendCtl s p 0

/-- The leaf of a wire unit on an active link. (Log 27 DESIGN CHOICE.) -/
def sendActive (s : State) (p : Nat) : State :=
  let s := loadTx p false 15 (loadTx p true 15 (iflConsume s p))
  let x := (getPort s p).ifl
  if x.idleDue then sendCtl (modIfl s p fun x => { x with idleDue := false }) p 0
  else if x.nakDue then sendCtl (modIfl s p fun x => iflCount { x with nakDue := false } 2) p 1
  else match x.pass with
    | q :: _ => sendReplay s p q
    | [] =>
      if iflWindow (getPort s p) ≤ outstanding x then sendCtl s p 0
      else if !x.txMgmt.isEmpty && 8 ≤ x.mgmtGap then sendNew s p 2
      else sendData s p

/-- LEAF_TRANSMIT. (Log 27 DESIGN CHOICE.) -/
def execLeafTransmit (p : Nat) (s : State) : Res :=
  unitOk (p < 96) (
    let x := getPort s p
    if roleOf x != 5 || portDown x || (getQuire s (quireOf p)).rst != .run || (getQuire s (quireOf p)).busy then s
    else if x.link == .training && x.ifl.st == .init then sendInit s p
    else if x.link == .up && x.ifl.st == .active then sendActive s p
    else s)

/-! ## Fences (R85, R134) -/

/-- Release the messages a fence holds. -/
def freeFence (s : State) (f : Fence) : State :=
  putPkts s (s.core.pkts.map fun k => if k.fence == f then { k with fence := .none } else k)

/-- REPINNING_FENCE_RELEASE: every earlier message of the group has been handed to its egress link. -/
def execRepinningFenceRelease (g : Nat) (s : State) : Res :=
  unitOk (g < 64) (
    let e := getEcmp s g
    if e.fence && !(s.core.pkts.any fun k => e.stale.contains k.id) then
      freeFence (modEcmp s g fun e => { e with fence := false, stale := [] }) (.ecmp g)
    else s)

/-- CADENCE_FENCE_RELEASE: the old cadence list is empty. -/
def execCadenceFenceRelease (sch : Nat) (s : State) : Res :=
  unitOk (sch < 64) (
    let c := getCad s sch
    if c.fence.isSome && !(s.core.pkts.any fun k => k.stage == .queued && c.stale.contains k.id) then
      freeFence (modCad s sch fun c => { c with fence := none, stale := [] }) (.cad sch)
    else s)

/-! ## Cadence windows (R131, R136) -/

/-- Whether window `w` of a schedule is to open now: its offset after the last edge of its reference is reached, it has not opened
since that edge, and its length has not passed. (Log 30 DEDUCED.) -/
def winDue (s : State) (c : Cad) (w : Nat) : Bool :=
  let x := getRef s c.ref
  let since := (now s - x.last).toNat
  let off := (tget 0 c.off w).toNat
  c.on && w < c.nwin && x.enable && x.locked && off ≤ since && since < off + (tget 0 c.len w).toNat && c.openAt != x.last.toNat + off

/-- CADENCE_WINDOW_OPEN. -/
def execCadenceWindowOpen (sch win : Nat) (s : State) : Res :=
  unitOk (sch < 64 && win < 16) (
    let c := getCad s sch
    if winDue s c win then
      modCad s sch fun c => { c with
        opened := true, win := win, used := 0, openAt := (getRef s c.ref).last.toNat + (tget 0 c.off win).toNat
        pendingG := (tget 0 c.bytes win).toNat, pendingLen := (tget 0 c.len win).toNat }
    else s)

/-- CADENCE_WINDOW_CLOSE: after the window's length; the reference's next edge closes it too. -/
def execCadenceWindowClose (sch : Nat) (s : State) : Res :=
  unitOk (sch < 64) (
    let c := getCad s sch
    if c.opened && c.openAt + c.pendingLen ≤ (now s).toNat then modCad s sch fun c => { c with opened := false } else s)

/-! ## HISTOGRAM_SAMPLE (R138) -/

/-- The bin of a depth. -/
def depthBin (w len : Nat) : Nat := min 15 (len / 2 ^ w)

/-- The bin of a head delay. -/
def delayBin (b d : Nat) : Nat := if d < 2 ^ b then 0 else min 15 (Nat.log2 d + 1 - b)

/-- Count in a bin, saturating. -/
def binAdd (m : Tab Nat) (i : Nat) : Tab Nat := tput 0 m i (satAdd 0xFFFFFFFF (tget 0 m i) 1)

/-- The admission time of a queue's oldest message. -/
def oldestIn (s : State) (o n : Nat) : Option W64 :=
  (s.core.pkts.filter fun k => inBuf k && k.out == o && qclassOf k == n).foldl (fun b k =>
    match b with
    | none => some k.admitted
    | some t => if k.admitted.toNat < t.toNat then some k.admitted else b) none

/-- Sample one queue. -/
def sampleQ (o : Nat) (s : State) (n : Nat) : State :=
  let v := (getOutP s o).histCfg
  let dep := depthBin (min 15 (fld v 0 5)) (qlen s o n)
  let b := min 20 (fld v 8 5)
  let old := oldestIn s o n
  modQ s o n fun q =>
    let q := { q with depth := binAdd q.depth dep }
    match old with
    | some t => { q with delay := binAdd q.delay (delayBin b (now s - t).toNat) }
    | none => q

/-- Whether a sampling instant lies within the last tick: the fabric time is at a multiple of 2^n µs. (Log 29 DESIGN CHOICE.) -/
def sampleDue (s : State) (v : W32) : Bool := (now s).toNat % (1000 * 2 ^ min 10 (fld v 16 4)) < 5

/-- HISTOGRAM_SAMPLE: skipped and counted while counting is stopped (R440). (Log 29 DESIGN CHOICE.) -/
def execHistogramSample (out : Nat) (s : State) : Res :=
  unitOk (out < 109) (
    let v := (getOutP s out).histCfg
    if !bit v 31 || !sampleDue s v then s
    else if s.cnt.frozen then { s with cnt := { s.cnt with skips := satAdd 0xFFFFFFFF s.cnt.skips 1 } }
    else forL (List.range 16) s (sampleQ out))

end Sys2Proof.Machine
end

