-- ==== Sys2Proof/Machine/OxMem.lean ====
section
/-!
DEFINITION. Memory instructions (Table OXI-4, R240 to R242) and telemetry instructions (Table OXI-19, R437, R438, R440 to R442).
-/

namespace Sys2Proof.Machine

/-! ## Addresses and checks -/

/-- k[a] + sx(imm32). -/
def memAddr (x : Ctx) (w : Ox) : Nat := (kget x w.a + sx w).toNat

/-- Word B of an access: the destination PBR ID for the fabric, zero for any other space (R240). -/
def memB (space : Nat) : Nat := if space = 1 then 0xFFF else 0

/-- The check of an access by a context. -/
def memChk (c space a : Nat) (w : Ox) (r wr at_ : Bool) : Chk :=
  { ctxChk c space a (fld w.B 0 12) with r := r, w := wr, a := at_ }

/-- Issue an access that the centre lets pass; a refused one faults the context with ACCESS and is logged (R197). -/
def memPass (s : State) (c op : Nat) (q : Chk) (go : State → State) : State :=
  match dklLine s q with
  | .pass => go s
  | _ => accessFault s c op q

/-- Wait for data, keeping the record the instruction will post. -/
def waitLoad (s : State) (c op : Nat) (w : Ox) (bits : Nat) (sext : Bool) : State :=
  waitWith s c op w (.load (BitVec.ofNat 8 op) w.d bits sext)

/-- Send a context's request to the pool (UIO forms) or to the fabric (CXL.io forms). The priority an LD, ST or ATOM gives its request
is 0 (notes/assumptions/21.md). (Log 21 DEDUCED.) -/
def memSend (s : State) (c space : Nat) (org : Org) (m : Msg) : State :=
  enSend s (if space = 0 then poolPkt (tenOf c) org m 0 else fabPkt s (tenOf c) org m 0)

/-! ## LD, ST, ATOM -/

/-- LD. (Log 34 DEDUCED.) -/
def execLd (c : Nat) (w : Ox) (s : State) : Res :=
  unitOk (c < 18) (
    let n := 2 ^ fld w.mod 0 2
    let sp := fld w.mod 3 2
    oxRun c 0x30 w { mods := 0x1F, d := true, a := true, imm := 2 ^ 32 - 1, B := memB sp }
      (fun _ x => [(sp == 3, 0x11), (memAddr x w % n != 0, 0x15)])
      (fun s x =>
        let a := memAddr x w
        memPass s c 0x30 (memChk c sp a w true false false) fun s =>
          let s := waitLoad s c 0x30 w (8 * n) (bit w.mod 2)
          if sp = 2 then toLoad s c (if psErr s a n then .ca else .data (psRead s a n) [] .i)
          else memSend s c sp (.load c) { op := if sp = 1 then .ioRd else .uioRd, addr := a, len := n, dstPbr := fld w.B 0 12 }) s)

/-- LOAD_DATA_RETURN: the data of an LD, LDC or ATOM, or the fault of a bad answer (R242). (Log 34 DEDUCED.) -/
def loadReturn (c : Nat) (s : State) : State :=
  let x := getCtx s c
  match x.reply, x.wait with
  | some r, .load op d n sext =>
    let s := modCtx s c fun y => { y with reply := none }
    if r.bad then faultCtx (modCtx s c fun y => { y with waitRec := none }) c op.toNat 0x14
    else
      let v := r.data.toNat % 2 ^ n
      let v := if sext then BitVec.ofInt 64 (signed n v) else BitVec.ofNat 64 v
      finishWait s c (some (d, v))
  | _, _ => s

/-- LOAD_DATA_RETURN. -/
def execLoadDataReturn (c : Nat) (s : State) : Res := unitOk (c < 18) (loadReturn c s)

/-- ST retires when the centre accepts it; it counts as outstanding until written at its target (Table OXM-10). (Log 34 DEDUCED.) -/
def execSt (c : Nat) (w : Ox) (s : State) : Res :=
  unitOk (c < 18) (
    let n := 2 ^ fld w.mod 0 2
    let sp := fld w.mod 3 2
    oxRun c 0x31 w { mods := 0x1B, a := true, b := true, imm := 2 ^ 32 - 1, B := memB sp }
      (fun _ x => [(sp == 3, 0x11), (memAddr x w % n != 0, 0x15)])
      (fun s x =>
        let a := memAddr x w
        let b := natLe n (kget x w.b).toNat
        memPass s c 0x31 (memChk c sp a w false true false) fun s =>
          let s :=
            if sp = 2 then psWrite s a b
            else memSend (modCtx s c fun y => { y with stores := y.stores + 1 }) c sp (.store c)
              { op := if sp = 1 then .ioWr else .uioWr, addr := a, len := n, data := b, dstPbr := fld w.B 0 12, slots := 16 + n }
          retireSt s c 0x31 w 0) s)

/-- The operation of ATOM (R241). -/
def atomOp (n : Nat) : AtomOp :=
  match n with | 0 => .add | 1 => .swap | 2 => .cas | 3 => .and | 4 => .or | 5 => .xor | 6 => .umin | _ => .umax

/-- ATOM: CAS carries k[d] as it stands at issue, then k[b]. -/
def execAtom (c : Nat) (w : Ox) (s : State) : Res :=
  unitOk (c < 18) (
    let n := if bit w.mod 3 then 8 else 4
    let sp := fld w.mod 4 1
    let k := fld w.mod 0 3
    oxRun c 0x34 w { mods := 0x1F, d := true, a := true, b := true, imm := 2 ^ 32 - 1, B := memB sp }
      (fun _ x => [(sp == 1 && 2 < k, 0x11), (memAddr x w % n != 0, 0x15)])
      (fun s x =>
        let a := memAddr x w
        let kb := natLe n (kget x w.b).toNat
        let data := if k = 2 then natLe n (kget x w.d).toNat ++ kb else kb
        memPass s c 0x34 (memChk c sp a w false false true) fun s =>
          memSend (waitLoad s c 0x34 w (8 * n) false) c sp (.load c)
            { op := if sp = 1 then .ioAtom (atomOp k) n else .uioAtom (atomOp k) n, addr := a, len := n, data := data
              dstPbr := fld w.B 0 12 }) s)

/-! ## LDC, STC -/

/-- Checks of LDC and STC: the address below 2^24, aligned to 4 or, for a pair, 8. -/
def csrChk (x : Ctx) (w : Ox) : List (Bool × Nat) :=
  [(2 ^ 24 ≤ memAddr x w, 0x11), (memAddr x w % (if bit w.mod 0 then 8 else 4) != 0, 0x15)]

/-- The answer to an LDC: a register, or a pair low half first. -/
def ldcData (s : State) (c a : Nat) (two : Bool) : Ans × State :=
  match csrWords (.ctx c) (if two then 2 else 1) a s with
  | (some b, s) => (.data b [] .i, s)
  | (none, s) => (.ca, s)

/-- LDC. (Log 34 DEDUCED.) -/
def execLdc (c : Nat) (w : Ox) (s : State) : Res :=
  unitOk (c < 18) (
    oxRun c 0x32 w { mods := 1, d := true, a := true, imm := 2 ^ 32 - 1 } (fun _ x => csrChk x w)
      (fun s x =>
        memPass s c 0x32 (memChk c 3 (memAddr x w) w true false false) fun s =>
          let r := ldcData s c (memAddr x w) (bit w.mod 0)
          toLoad (waitLoad r.2 c 0x32 w 64 false) c r.1) s)

/-- STC: for a pair the low half first. (Log 34 DEDUCED.) -/
def execStc (c : Nat) (w : Ox) (s : State) : Res :=
  unitOk (c < 18) (
    oxRun c 0x33 w { mods := 1, a := true, b := true, imm := 2 ^ 32 - 1 } (fun _ x => csrChk x w)
      (fun s x =>
        let a := memAddr x w
        let v := kget x w.b
        memPass s c 0x33 (memChk c 3 a w false true false) fun s =>
          let s := busWrite s (.ctx c) a (lo32 v)
          let s := if bit w.mod 0 then busWrite s (.ctx c) (a + 4) (hi32 v) else s
          retireSt s c 0x33 w 0) s)

/-! ## SNAP (R440) -/

/-- The shape of SNAP; a tenant faults with SCOPE. -/
def snapRun (c : Nat) (w : Ox) (rel : Bool) (eff : State → State) (s : State) : State :=
  if bit w.imm 0 != rel then s else
  oxRun c 0x90 w { d := !rel, imm := 1 } (fun _ _ => [(!isStw c, 0x12)]) (fun s _ => eff s) s

/-- SNAP_FREEZE: a freeze while frozen completes with CLAIMED. -/
def execSnapFreeze (c : Nat) (w : Ox) (s : State) : Res :=
  unitOk (c < 18) (snapRun c w false
    (fun s => if s.cnt.frozen then retireSt s c 0x90 w 2 else retireK (cntFreeze s) c 0x90 w w.d (now s)) s)

/-- SNAP_RELEASE: a release while running completes with CLAIMED. (Log 32 DEDUCED.) -/
def execSnapRelease (c : Nat) (w : Ox) (s : State) : Res :=
  unitOk (c < 18) (snapRun c w true
    (fun s => if s.cnt.frozen then retireSt (cntRelease s) c 0x90 w 0 else retireSt s c 0x90 w 2) s)

/-! ## COUNT (R437, R438, R442) -/

/-- Scope, instance and counter of a COUNT. -/
def countScope (w : Ox) : Nat × Nat × Nat := (fld w.imm 28 4, fld w.imm 16 7, fld w.imm 0 12)

/-- Whether the fields name a counter: 512 global ones, 64 of a tenant, 32 of a port or a quire. (Log 32 DEDUCED.) -/
def countNamed (w : Ox) : Bool :=
  match countScope w with
  | (0, i, k) => i == 0 && k < 512
  | (1, i, k) => i < 16 && k < 64
  | (2, i, k) => i < 96 && k < 32
  | (3, i, k) => i < 12 && k < 32
  | _ => false

/-- The CSR address of a counter. (Log 32 DEDUCED.) -/
def countAddr (w : Ox) : Nat :=
  match countScope w with
  | (0, _, k) => gcntAddr k
  | (1, t, k) => tcntAddr t k
  | (2, p, k) => portBase p + 0x800 + 8 * k
  | (_, q, k) => quireBase q + 0x800 + 8 * k

/-- Whether a tenant context may name a selector's instance (R438): its own port, its context, or a channel it owns. -/
def selInstOk (s : State) (c : Nat) (B : W64) : Bool :=
  let i := fld B 16 7
  let code := fld B 0 16
  i == 0 ||
    (if 0x1000 ≤ code && code < 0x2000 then ownPort s (c - 2) i
     else if 0x6000 ≤ code && code < 0x7000 then i == c
     else if 0x5000 ≤ code && code < 0x6000 then (getMov s i).owner == c
     else false)

/-- Scope checks of COUNT in a tenant context. (Log 32 DEDUCED.) -/
def countOwn (s : State) (c : Nat) (w : Ox) : Bool :=
  match countScope w with
  | (1, t, _) => t + 2 == c && (if bit w.mod 1 then selInstOk s c w.B else (getTen s t).ctrRead)
  | (2, p, _) => !bit w.mod 1 && ownPort s (c - 2) p && (getTen s (c - 2)).ctrRead
  | _ => false

/-- Checks of COUNT: a programmed selector defines its event, has no reserved bit set, and is a global or a tenant's.
(Log 32 DEDUCED.) -/
def countChk (s : State) (c : Nat) (w : Ox) : List (Bool × Nat) :=
  let prog := bit w.mod 1
  [(!countNamed w, 0x11),
   (prog && (!codeOk (fld w.B 0 16) || fld w.B 30 34 != 0 || (isStw c && 1 < fld w.imm 28 4)), 0x11),
   (!isStw c && !countOwn s c w, 0x12)]

/-- Program the counter a COUNT names: a tenant's selector counts its own tenant only (R438). -/
def countSet (s : State) (w : Ox) : State :=
  match countScope w with
  | (0, _, k) => selSet s (gselAddr k) w.B
  | (_, t, k) => selSet s (tselAddr t k) (setFld (setFld w.B 28 1 0) 24 4 t)

/-- COUNT: read a counter or its shadow (R441), or program its selector. -/
def execCount (c : Nat) (w : Ox) (s : State) : Res :=
  unitOk (c < 18) (
    oxRun c 0x91 w { mods := 3, d := true, imm := 0xF07F0FFF, B := if bit w.mod 1 then 2 ^ 64 - 1 else 0 }
      (fun s _ => countChk s c w)
      (fun s _ =>
        if bit w.mod 1 then retireK (countSet s w) c 0x91 w w.d 0
        else retireK s c 0x91 w w.d (tget 0 (if bit w.mod 0 then s.cnt.shadow else s.cnt.bank) (countAddr w))) s)

/-! ## LOG -/

/-- LOG. (Log 33 DEDUCED.) -/
def execLog (c : Nat) (w : Ox) (s : State) : Res :=
  unitOk (c < 18) (
    oxRun c 0x92 w { a := true, imm := 0xFFFF } (fun _ _ => [])
      (fun s x =>
        let e : SwLog := { code := fld w.imm 0 16, value := kget x w.a, time := now s }
        retireSt (modCtx s c fun y => { y with log := y.log ++ [e] }) c 0x92 w 0) s)

end Sys2Proof.Machine
end

