-- ==== Sys2Proof/Machine/FmApi.lean ====
section
/-!
DEFINITION. The Fabric Manager API (R56, R65, Table FAB-7, R418) and the tap (R466, R467).
-/

namespace Sys2Proof.Machine

/-! ## Requests and answers

Return codes as in the CXL management commands: 0 success, 2 invalid input, 3 unsupported, 6 busy (notes/assumptions/13.md). -/

/-- A request can arrive: over the sideband, or on a port whose link is up. -/
def fmArrives (s : State) (src : FmSrc) : Bool :=
  match src with
  | .sideband => sideUp s
  | .port p => !s.glb.inReset && carrying s p

/-- The port is a host-edge port that takes FM API messages. -/
def fmPortOk (s : State) (src : FmSrc) : Bool :=
  match src with
  | .sideband => true
  | .port p => roleOf (getPort s p) == 1 && (getPort s p).fmCap

/-- Answer a request. (Log 13 PRESUMED.) -/
def fmReply (s : State) (src : FmSrc) (status : Nat) (vals : List Nat) : State := emit s (.fm src status vals)

/-- Serve a request (R65, R418): dropped and logged on a port that does not take it, Busy before S0 starts, an event for S1 where the
Steward owns the FM API, else the responder's answer. (Log 36 DEDUCED.) -/
def fmServe (src : FmSrc) (act : State → State) (s : State) : State :=
  if !fmArrives s src then s
  else if !fmPortOk s src then (match src with | .port p => logOpen s (uPort p) 0 | .sideband => s)
  else if s.glb.bootStage != 4 then fmReply s src 6 []
  else if s.glb.fmApiOwn then evLatch { s with cmd := { s.cmd with fmQueue := s.cmd.fmQueue ++ [src] } } 1 18
  else act s

/-- The register reads of a command, as LDC in S1; an answer where one of them is an error is invalid input. (Log 35 DEDUCED.) -/
def fmReads (src : FmSrc) : List Nat → List Nat → State → State
  | [], vals, s => fmReply s src 0 vals
  | a :: l, vals, s =>
    match busRead s (.ctx 1) a with
    | (some v, s) => fmReads src l (vals ++ [v.toNat]) s
    | (none, s) => fmReply s src 2 []

/-- FM_IDENTIFY_SWITCH_DEVICE: GLB_ID, GLB_VER, GLB_SERIAL. (Log 35 DEDUCED.) -/
def execFmIdentifySwitchDevice (src : FmSrc) (s : State) : Res :=
  unitOk true (fmServe src (fmReads src [0x0, 0xC, 0x10, 0x14] []) s)

/-- FM_GET_PHYSICAL_PORT_STATE: PORT_CFG, PORT_STATUS, PORT_HP of a lead port. (Log 35 DEDUCED.) -/
def execFmGetPhysicalPortState (src : FmSrc) (p : Nat) (s : State) : Res :=
  unitOk true (fmServe src (fun s =>
    if leadPort s p then fmReads src [portBase p, portBase p + 4, portBase p + 8] [] s else fmReply s src 2 []) s)

/-- FM_PHYSICAL_PORT_CONTROL: operation 0 resets the port as RESETU does, 1 and 2 set and clear PORT_CFG.enable. A reset that RESETU
would have to wait for, or of a port in reset, is Busy. (Log 36 DEDUCED.) -/
def execFmPhysicalPortControl (src : FmSrc) (p op : Nat) (s : State) : Res :=
  unitOk true (fmServe src (fun s =>
    let v := (getPort s p).cfg
    if !leadPort s p || 2 < op then fmReply s src 2 []
    else if op = 0 then
      if (getPort s p).rst != .run || portWaits s p then fmReply s src 6 [] else fmReply (resetPort s p) src 0 []
    else fmReply (busWrite s (.ctx 1) (portBase p) (setFld v 31 1 (2 - op))) src 0 []) s)

/-- FM_SEND_PPB_CONFIG_REQUEST: a configuration read or write of a vPPB. -/
def execFmSendPpbConfigRequest (src : FmSrc) (t v : Nat) (reg : CfgReg) (write : Bool) (val : Nat) (s : State) : Res :=
  unitOk true (fmServe src (fun s =>
    if !(getTen s t).exist || !vppbThere s t v then fmReply s src 2 []
    else if write then fmReply (cfgWrite s t v reg val) src 0 []
    else fmReply s src 0 [cfgRead s t v reg]) s)

/-- FM_GET_VIRTUAL_SWITCH_INFO: number, kind and PBR ID of every bound vPPB, then TEN_STATUS. (Log 35 DEDUCED.) -/
def execFmGetVirtualSwitchInfo (src : FmSrc) (t : Nat) (s : State) : Res :=
  unitOk true (fmServe src (fun s =>
    let vs := (getTen s t).vppb.filter fun e => e.2.bind != .none
    if 15 < t then fmReply s src 2 [] else fmReads src [tenBase t] (vs.flatMap fun e => [e.1, (bindKind e.2.bind).getD 7, (bindPbr s e.2.bind).getD 0]) s) s)

/-- The answer to a bind or unbind: Busy where the vPPB is in the wrong state (R56). (Log 36 DEDUCED.) -/
def fmFab (src : FmSrc) (bad : List (Bool × Nat)) (r : State → Fab) (s : State) : State :=
  match firstFail bad with
  | some _ => fmReply s src 2 []
  | none =>
    let f := r s
    if f.st = 0 then fmReply f.s src 0 [f.kd.toNat] else fmReply f.s src (if f.st = 2 then 6 else 2) []

/-- FM_BIND_VPPB. -/
def execFmBindVppb (src : FmSrc) (imm : W32) (B : W64) (s : State) : Res :=
  unitOk true (fmServe src (fun s => fmFab src (bindChk s 1 (bindArg imm B) imm B) (fun s => bindDo s (bindArg imm B)) s) s)

/-- FM_UNBIND_VPPB. -/
def execFmUnbindVppb (src : FmSrc) (imm : W32) (B : W64) (s : State) : Res :=
  unitOk true (fmServe src (fun s => fmFab src (unbindChk s 1 (bindArg imm B) imm B) (fun s => unbindDo s (bindArg imm B)) s) s)

/-- FM_GENERATE_AER_EVENT: SIGNAL of a line to the tenant's context. -/
def execFmGenerateAerEvent (src : FmSrc) (t line : Nat) (s : State) : Res :=
  unitOk true (fmServe src (fun s =>
    let y := getCtx s (ctxOf t)
    if 7 < line || y.st == .off || y.st == .inReset then fmReply s src 2 [] else fmReply (evLatch s (ctxOf t) line) src 0 []) s)

/-- Logical devices of the MLD behind a port whose link is up. -/
def mldOf (s : State) (p : Nat) : Nat :=
  if !carrying s p then 0 else match (getPort s p).dev with | .mld n => n | _ => 0

/-- Forward a command to an MLD; its answer is the MLD's. -/
def fmForward (src : FmSrc) (p ld : Nat) (bytes : List Byte) (ok : Bool) (s : State) : State :=
  if ok && mldOf s p != 0 then emit s (.mldForward p ld bytes) else fmReply s src 2 []

/-- FM_TUNNEL_MANAGEMENT_COMMAND: to the MLD's fabric-manager-owned device, LD-ID 0xFFFF. (Log 36 DEDUCED.) -/
def execFmTunnelManagementCommand (src : FmSrc) (p : Nat) (bytes : List Byte) (s : State) : Res :=
  unitOk true (fmServe src (fmForward src p 0xFFFF bytes true) s)

/-- FM_SEND_LD_CONFIG_REQUEST. -/
def execFmSendLdConfigRequest (src : FmSrc) (p ld : Nat) (bytes : List Byte) (s : State) : Res :=
  unitOk true (fmServe src (fun s => fmForward src p ld bytes (ld < mldOf s p) s) s)

/-- FM_SEND_LD_MEMORY_REQUEST. -/
def execFmSendLdMemoryRequest (src : FmSrc) (p ld : Nat) (bytes : List Byte) (s : State) : Res :=
  unitOk true (fmServe src (fun s => fmForward src p ld bytes (ld < mldOf s p) s) s)

/-- Opcodes of Table FAB-7. -/
def fmKnown (op : Nat) : Bool := [0x5100, 0x5101, 0x5102, 0x5103, 0x5200, 0x5201, 0x5202, 0x5203, 0x5300, 0x5301, 0x5302].contains op

/-- FM_UNSUPPORTED_OPCODE. An opcode of the table is another row's. -/
def execFmUnsupportedOpcode (src : FmSrc) (opcode : Nat) (s : State) : Res :=
  unitOk true (if fmKnown opcode then s else fmServe src (fun s => fmReply s src 3 []) s)

/-! ## The tap (R466, R467) -/

/-- IDCODE. -/
def idcode (s : State) : Nat := packN [(28, s.glb.stepping.toNat % 16), (12, 0x0096), (1, 0x5E3), (0, 1)]

/-- A number's bits, the least significant first. -/
def bitsOf (n v : Nat) : List Bool := (List.range n).map fun i => v / 2 ^ i % 2 == 1

/-- A slot holds its ON permission: starting or on (R379, R381). (Log 37 DEDUCED.) -/
def slotPermitted (x : Slot) : Bool :=
  match x.st with | .waitSeat | .waitGrant | .ramp | .on | .backoff | .waitVin => true | _ => false

/-- EXTEST and CLAMP may drive pins. (Log 37 DEDUCED.) -/
def tapMayDrive (s : State) : Bool :=
  !s.glb.inReset && s.glb.tapEn && !(s.port.any fun e => e.2.enabled) && !(s.pool.chan.any fun e => e.2.enable) &&
    !(s.slot.any fun e => slotPermitted e.2)

/-- Load an instruction that acts in every state. -/
def tapLoad (s : State) (i : TapIr) : State := { s with tap := { s.tap with ir := i, loaded := i } }

/-- Load EXTEST or CLAMP: it acts as BYPASS where it may not drive. -/
def tapDrive (s : State) (i : TapIr) : State := { s with tap := { s.tap with ir := if tapMayDrive s then i else .bypass, loaded := i } }

/-- TAP_RESET: the tap's instruction is IDCODE, as IEEE 1149.1 requires. -/
def execTapReset (s : State) : Res := unitOk true (tapLoad s .idcode)
/-- TAP_BYPASS. -/
def execTapBypass (s : State) : Res := unitOk true (tapLoad s .bypass)
/-- TAP_IDCODE: the identity register is shifted out. -/
def execTapIdcode (s : State) : Res := unitOk true (emit (tapLoad s .idcode) (.tdo (bitsOf 32 (idcode s))))
/-- TAP_SAMPLE_PRELOAD: the boundary register captures the pins, which are shifted out, and is preloaded. (Log 37 DEDUCED.) -/
def execTapSamplePreload (capture : List Bool) (s : State) : Res :=
  unitOk true (
    let s := tapLoad s .sample
    emit { s with tap := { s.tap with boundary := capture } } (.tdo capture))
/-- TAP_EXTEST. -/
def execTapExtest (s : State) : Res := unitOk true (tapDrive s .extest)
/-- TAP_CLAMP. -/
def execTapClamp (s : State) : Res := unitOk true (tapDrive s .clamp)
/-- TAP_HIGHZ. -/
def execTapHighz (s : State) : Res := unitOk true (tapLoad s .highz)

end Sys2Proof.Machine
end

