-- ==== Sys2Proof/Machine/Dispatch.lean ====
section
/-!
DEFINITION. The dispatch: one arm for each command.
-/

namespace Sys2Proof.Machine

/-- The effect of a command on everything but the queue. -/
def exec (i : Instr) (s : State) : Host.Outcome State Fault Refusal :=
  match i with
  | .regWriteGeneral m addr v => Sys2Proof.Machine.execRegWriteGeneral m addr v s
  | .pairLowRead m addr => Sys2Proof.Machine.execPairLowRead m addr s
  | .pairHighWrite m addr v => Sys2Proof.Machine.execPairHighWrite m addr v s
  | .flitReceive p f => Sys2Proof.Machine.execFlitReceive p f s
  | .messageAdmission ing resp => Sys2Proof.Machine.execMessageAdmission ing resp s
  | .heldMessageRetry ing resp => Sys2Proof.Machine.execHeldMessageRetry ing resp s
  | .requestAtCentre ing => Sys2Proof.Machine.execRequestAtCentre ing s
  | .egressSelection out => Sys2Proof.Machine.execEgressSelection out s
  | .schedulerRound => Sys2Proof.Machine.execSchedulerRound s
  | .flitSend p => Sys2Proof.Machine.execFlitSend p s
  | .repinningFenceRelease g => Sys2Proof.Machine.execRepinningFenceRelease g s
  | .replicaMemberCompletion wid member ok => Sys2Proof.Machine.execReplicaMemberCompletion wid member ok s
  | .replicaMemberTimeout wid member => Sys2Proof.Machine.execReplicaMemberTimeout wid member s
  | .mirrorConsumerReadDone sess consumer => Sys2Proof.Machine.execMirrorConsumerReadDone sess consumer s
  | .redMessageReevaluation p => Sys2Proof.Machine.execRedMessageReevaluation p s
  | .cadenceWindowOpen sch win => Sys2Proof.Machine.execCadenceWindowOpen sch win s
  | .cadenceWindowClose sch => Sys2Proof.Machine.execCadenceWindowClose sch s
  | .cadenceFenceRelease sch => Sys2Proof.Machine.execCadenceFenceRelease sch s
  | .histogramSample out => Sys2Proof.Machine.execHistogramSample out s
  | .histClear out => Sys2Proof.Machine.execHistClear out s
  | .bufPeakClear => Sys2Proof.Machine.execBufPeakClear s
  | .paceWindowEnd probe amps => Sys2Proof.Machine.execPaceWindowEnd probe amps s
  | .paceHistoryHour meanTj => Sys2Proof.Machine.execPaceHistoryHour meanTj s
  | .paceTargetWrite v => Sys2Proof.Machine.execPaceTargetWrite v s
  | .paceCtrlWrite v => Sys2Proof.Machine.execPaceCtrlWrite v s
  | .portEnable p v => Sys2Proof.Machine.execPortEnable p v s
  | .portDisable p v => Sys2Proof.Machine.execPortDisable p v s
  | .portHpWrite p v => Sys2Proof.Machine.execPortHpWrite p v s
  | .linkTrained p r => Sys2Proof.Machine.execLinkTrained p r s
  | .trainingRetry p => Sys2Proof.Machine.execTrainingRetry p s
  | .linkDown p => Sys2Proof.Machine.execLinkDown p s
  | .errMessageReceived p fatal => Sys2Proof.Machine.execErrMessageReceived p fatal s
  | .dpcStatusClearByHost p => Sys2Proof.Machine.execDpcStatusClearByHost p s
  | .dpcTrigClear p => Sys2Proof.Machine.execDpcTrigClear p s
  | .loopbackRequestReceived p insists => Sys2Proof.Machine.execLoopbackRequestReceived p insists s
  | .hotResetReceived p => Sys2Proof.Machine.execHotResetReceived p s
  | .secondaryBusReset t v => Sys2Proof.Machine.execSecondaryBusReset t v s
  | .hostPowerControlWrite p off => Sys2Proof.Machine.execHostPowerControlWrite p off s
  | .hpRefuse p => Sys2Proof.Machine.execHpRefuse p s
  | .hostMcEnableWrite t g => Sys2Proof.Machine.execHostMcEnableWrite t g s
  | .ideKeyManagement p k => Sys2Proof.Machine.execIdeKeyManagement p k s
  | .ideMacFailure p => Sys2Proof.Machine.execIdeMacFailure p s
  | .fmIdentifySwitchDevice src => Sys2Proof.Machine.execFmIdentifySwitchDevice src s
  | .fmGetPhysicalPortState src p => Sys2Proof.Machine.execFmGetPhysicalPortState src p s
  | .fmPhysicalPortControl src p op => Sys2Proof.Machine.execFmPhysicalPortControl src p op s
  | .fmSendPpbConfigRequest src t v reg write val => Sys2Proof.Machine.execFmSendPpbConfigRequest src t v reg write val s
  | .fmGetVirtualSwitchInfo src t => Sys2Proof.Machine.execFmGetVirtualSwitchInfo src t s
  | .fmBindVppb src imm B => Sys2Proof.Machine.execFmBindVppb src imm B s
  | .fmUnbindVppb src imm B => Sys2Proof.Machine.execFmUnbindVppb src imm B s
  | .fmGenerateAerEvent src t line => Sys2Proof.Machine.execFmGenerateAerEvent src t line s
  | .fmTunnelManagementCommand src p bytes => Sys2Proof.Machine.execFmTunnelManagementCommand src p bytes s
  | .fmSendLdConfigRequest src p ld bytes => Sys2Proof.Machine.execFmSendLdConfigRequest src p ld bytes s
  | .fmSendLdMemoryRequest src p ld bytes => Sys2Proof.Machine.execFmSendLdMemoryRequest src p ld bytes s
  | .fmUnsupportedOpcode src opcode => Sys2Proof.Machine.execFmUnsupportedOpcode src opcode s
  | .poolChEnable ch => Sys2Proof.Machine.execPoolChEnable ch s
  | .channelTrainingDone ch spd => Sys2Proof.Machine.execChannelTrainingDone ch spd s
  | .poolChDisable ch => Sys2Proof.Machine.execPoolChDisable ch s
  | .initStart ch => Sys2Proof.Machine.execInitStart ch s
  | .channelInitDone ch => Sys2Proof.Machine.execChannelInitDone ch s
  | .channelLost ch => Sys2Proof.Machine.execChannelLost ch s
  | .poolGrpEnable g v => Sys2Proof.Machine.execPoolGrpEnable g v s
  | .poolGrpDisable g v => Sys2Proof.Machine.execPoolGrpDisable g v s
  | .poolOpen => Sys2Proof.Machine.execPoolOpen s
  | .poolClose => Sys2Proof.Machine.execPoolClose s
  | .dramReadDone line prim sec => Sys2Proof.Machine.execDramReadDone line prim sec s
  | .ceLogClear ch => Sys2Proof.Machine.execCeLogClear ch s
  | .ueLogClear ch => Sys2Proof.Machine.execUeLogClear ch s
  | .scrubRead ch here other => Sys2Proof.Machine.execScrubRead ch here other s
  | .sheetSelectWrite v => Sys2Proof.Machine.execSheetSelectWrite v s
  | .homeRds ch => Sys2Proof.Machine.execHomeRds ch s
  | .homeRde ch => Sys2Proof.Machine.execHomeRde ch s
  | .homeRdnc ch => Sys2Proof.Machine.execHomeRdnc ch s
  | .homeWrnc ch => Sys2Proof.Machine.execHomeWrnc ch s
  | .homeEvd ch => Sys2Proof.Machine.execHomeEvd ch s
  | .homeEvc ch => Sys2Proof.Machine.execHomeEvc ch s
  | .homeAtom ch => Sys2Proof.Machine.execHomeAtom ch s
  | .biResponse line sharer st data => Sys2Proof.Machine.execBiResponse line sharer st data s
  | .biconflictReceived line sharer => Sys2Proof.Machine.execBiconflictReceived line sharer s
  | .snoopTimeout line sharer => Sys2Proof.Machine.execSnoopTimeout line sharer s
  | .directoryWalkDone t => Sys2Proof.Machine.execDirectoryWalkDone t s
  | .dirLogClear => Sys2Proof.Machine.execDirLogClear s
  | .trackerPeakClear => Sys2Proof.Machine.execTrackerPeakClear s
  | .debugAccess sp addr pbr write v => Sys2Proof.Machine.execDebugAccess sp addr pbr write v s
  | .deckleLogClear => Sys2Proof.Machine.execDeckleLogClear s
  | .ringDoorbell m c r tail => Sys2Proof.Machine.execRingDoorbell m c r tail s
  | .ringEntryFetch c wordA wordB => Sys2Proof.Machine.execRingEntryFetch c wordA wordB s
  | .cqHeadWrite c v => Sys2Proof.Machine.execCqHeadWrite c v s
  | .completionRingRoom c => Sys2Proof.Machine.execCompletionRingRoom c s
  | .ctxStateRead c => Sys2Proof.Machine.execCtxStateRead c s
  | .ctxResumeWrite c v => Sys2Proof.Machine.execCtxResumeWrite c v s
  | .haltRequest c => Sys2Proof.Machine.execHaltRequest c s
  | .contextRegisterWrite c v => Sys2Proof.Machine.execContextRegisterWrite c v s
  | .programStoreWrite m off bytes => Sys2Proof.Machine.execProgramStoreWrite m off bytes s
  | .undefinedOpcode c opcode w => Sys2Proof.Machine.execUndefinedOpcode c opcode w s
  | .nop c w => Sys2Proof.Machine.execNop c w s
  | .halt c w => Sys2Proof.Machine.execHalt c w s
  | .jump c w => Sys2Proof.Machine.execJump c w s
  | .br c w => Sys2Proof.Machine.execBr c w s
  | .call c w => Sys2Proof.Machine.execCall c w s
  | .ret c w => Sys2Proof.Machine.execRet c w s
  | .waitev c w => Sys2Proof.Machine.execWaitev c w s
  | .waitSatisfied c => Sys2Proof.Machine.execWaitSatisfied c s
  | .signal c w => Sys2Proof.Machine.execSignal c w s
  | .signalMask c w => Sys2Proof.Machine.execSignalMask c w s
  | .fence c w => Sys2Proof.Machine.execFence c w s
  | .yield c w => Sys2Proof.Machine.execYield c w s
  | .movi c w => Sys2Proof.Machine.execMovi c w s
  | .mov c w => Sys2Proof.Machine.execMov c w s
  | .add c w => Sys2Proof.Machine.execAdd c w s
  | .sub c w => Sys2Proof.Machine.execSub c w s
  | .mul c w => Sys2Proof.Machine.execMul c w s
  | .mulhu c w => Sys2Proof.Machine.execMulhu c w s
  | .divu c w => Sys2Proof.Machine.execDivu c w s
  | .remu c w => Sys2Proof.Machine.execRemu c w s
  | .and c w => Sys2Proof.Machine.execAnd c w s
  | .or c w => Sys2Proof.Machine.execOr c w s
  | .xor c w => Sys2Proof.Machine.execXor c w s
  | .shl c w => Sys2Proof.Machine.execShl c w s
  | .shr c w => Sys2Proof.Machine.execShr c w s
  | .sar c w => Sys2Proof.Machine.execSar c w s
  | .cmp c w => Sys2Proof.Machine.execCmp c w s
  | .tst c w => Sys2Proof.Machine.execTst c w s
  | .min c w => Sys2Proof.Machine.execMin c w s
  | .max c w => Sys2Proof.Machine.execMax c w s
  | .clz c w => Sys2Proof.Machine.execClz c w s
  | .popc c w => Sys2Proof.Machine.execPopc c w s
  | .bfx c w => Sys2Proof.Machine.execBfx c w s
  | .bfi c w => Sys2Proof.Machine.execBfi c w s
  | .ld c w => Sys2Proof.Machine.execLd c w s
  | .loadDataReturn c => Sys2Proof.Machine.execLoadDataReturn c s
  | .st c w => Sys2Proof.Machine.execSt c w s
  | .ldc c w => Sys2Proof.Machine.execLdc c w s
  | .stc c w => Sys2Proof.Machine.execStc c w s
  | .atom c w => Sys2Proof.Machine.execAtom c w s
  | .bind c w => Sys2Proof.Machine.execBind c w s
  | .unbind c w => Sys2Proof.Machine.execUnbind c w s
  | .routeEntry c w => Sys2Proof.Machine.execRouteEntry c w s
  | .routeMembers c w => Sys2Proof.Machine.execRouteMembers c w s
  | .routeBuckets c w => Sys2Proof.Machine.execRouteBuckets c w s
  | .routeSeed c w => Sys2Proof.Machine.execRouteSeed c w s
  | .routeHash c w => Sys2Proof.Machine.execRouteHash c w s
  | .routeRead c w => Sys2Proof.Machine.execRouteRead c w s
  | .mcastHeader c w => Sys2Proof.Machine.execMcastHeader c w s
  | .mcastMember c w => Sys2Proof.Machine.execMcastMember c w s
  | .mcastState c w => Sys2Proof.Machine.execMcastState c w s
  | .mcastFree c w => Sys2Proof.Machine.execMcastFree c w s
  | .mcastOwner c w => Sys2Proof.Machine.execMcastOwner c w s
  | .mcastRead c w => Sys2Proof.Machine.execMcastRead c w s
  | .deckleWrite c w => Sys2Proof.Machine.execDeckleWrite c w s
  | .deckleInvalidate c w => Sys2Proof.Machine.execDeckleInvalidate c w s
  | .deckleSetLock c w => Sys2Proof.Machine.execDeckleSetLock c w s
  | .sheetGrant c w => Sys2Proof.Machine.execSheetGrant c w s
  | .sheetFree c w => Sys2Proof.Machine.execSheetFree c w s
  | .sheetAttach c w => Sys2Proof.Machine.execSheetAttach c w s
  | .sheetActivate c w => Sys2Proof.Machine.execSheetActivate c w s
  | .sheetSwap c w => Sys2Proof.Machine.execSheetSwap c w s
  | .sheetDetach c w => Sys2Proof.Machine.execSheetDetach c w s
  | .sheetRetire c w => Sys2Proof.Machine.execSheetRetire c w s
  | .sheetReam c w => Sys2Proof.Machine.execSheetReam c w s
  | .sheetQuery c w => Sys2Proof.Machine.execSheetQuery c w s
  | .mirrorEnable c w => Sys2Proof.Machine.execMirrorEnable c w s
  | .mirrorDisable c w => Sys2Proof.Machine.execMirrorDisable c w s
  | .mirrorReadLost c w => Sys2Proof.Machine.execMirrorReadLost c w s
  | .meterConfigure c w => Sys2Proof.Machine.execMeterConfigure c w s
  | .meterBind c w => Sys2Proof.Machine.execMeterBind c w s
  | .meterRead c w => Sys2Proof.Machine.execMeterRead c w s
  | .shapeShaper c w => Sys2Proof.Machine.execShapeShaper c w s
  | .shapePriority c w => Sys2Proof.Machine.execShapePriority c w s
  | .shapeQuantum c w => Sys2Proof.Machine.execShapeQuantum c w s
  | .cadenceConfigure c w => Sys2Proof.Machine.execCadenceConfigure c w s
  | .cadenceWindow c w => Sys2Proof.Machine.execCadenceWindow c w s
  | .cadenceEnable c w => Sys2Proof.Machine.execCadenceEnable c w s
  | .cadenceDisable c w => Sys2Proof.Machine.execCadenceDisable c w s
  | .copy c w => Sys2Proof.Machine.execCopy c w s
  | .gather c w => Sys2Proof.Machine.execGather c w s
  | .reshape c w => Sys2Proof.Machine.execReshape c w s
  | .fill c w => Sys2Proof.Machine.execFill c w s
  | .mvstat c w => Sys2Proof.Machine.execMvstat c w s
  | .mvpause c w => Sys2Proof.Machine.execMvpause c w s
  | .mvabort c w => Sys2Proof.Machine.execMvabort c w s
  | .mvresume c w => Sys2Proof.Machine.execMvresume c w s
  | .moveTransfer ch => Sys2Proof.Machine.execMoveTransfer ch s
  | .moveEnd ch => Sys2Proof.Machine.execMoveEnd ch s
  | .time c w => Sys2Proof.Machine.execTime c w s
  | .atWait c w => Sys2Proof.Machine.execAtWait c w s
  | .atArm c w => Sys2Proof.Machine.execAtArm c w s
  | .atTimerExpiry c => Sys2Proof.Machine.execAtTimerExpiry c s
  | .waitframe c w => Sys2Proof.Machine.execWaitframe c w s
  | .waitframeTimeout c => Sys2Proof.Machine.execWaitframeTimeout c s
  | .takeadd c w => Sys2Proof.Machine.execTakeadd c w s
  | .takearm c w => Sys2Proof.Machine.execTakearm c w s
  | .takedrop c w => Sys2Proof.Machine.execTakedrop c w s
  | .slotOn c w => Sys2Proof.Machine.execSlotOn c w s
  | .slotOff c w => Sys2Proof.Machine.execSlotOff c w s
  | .slotClear c w => Sys2Proof.Machine.execSlotClear c w s
  | .slotDeclare c w => Sys2Proof.Machine.execSlotDeclare c w s
  | .slotStatus c w => Sys2Proof.Machine.execSlotStatus c w s
  | .budgetCap c w => Sys2Proof.Machine.execBudgetCap c w s
  | .budgetLimit c w => Sys2Proof.Machine.execBudgetLimit c w s
  | .budgetRead c w => Sys2Proof.Machine.execBudgetRead c w s
  | .paceTarget c w => Sys2Proof.Machine.execPaceTarget c w s
  | .paceLoop c w => Sys2Proof.Machine.execPaceLoop c w s
  | .paceReadStatus c w => Sys2Proof.Machine.execPaceReadStatus c w s
  | .paceReadVcore c w => Sys2Proof.Machine.execPaceReadVcore c w s
  | .snapFreeze c w => Sys2Proof.Machine.execSnapFreeze c w s
  | .snapRelease c w => Sys2Proof.Machine.execSnapRelease c w s
  | .count c w => Sys2Proof.Machine.execCount c w s
  | .log c w => Sys2Proof.Machine.execLog c w s
  | .tenantCreate c w => Sys2Proof.Machine.execTenantCreate c w s
  | .tenantRemove c w => Sys2Proof.Machine.execTenantRemove c w s
  | .tenantTimeout c w => Sys2Proof.Machine.execTenantTimeout c w s
  | .tenantCounterRead c w => Sys2Proof.Machine.execTenantCounterRead c w s
  | .resetuPort c w => Sys2Proof.Machine.execResetuPort c w s
  | .resetuQuire c w => Sys2Proof.Machine.execResetuQuire c w s
  | .resetuTenant c w => Sys2Proof.Machine.execResetuTenant c w s
  | .resetuPoolChannel c w => Sys2Proof.Machine.execResetuPoolChannel c w s
  | .resetuSlot c w => Sys2Proof.Machine.execResetuSlot c w s
  | .resetuContext c w => Sys2Proof.Machine.execResetuContext c w s
  | .resetuMoverChannel c w => Sys2Proof.Machine.execResetuMoverChannel c w s
  | .resetuCommandPort c w => Sys2Proof.Machine.execResetuCommandPort c w s
  | .resetuCoherentDomain c w => Sys2Proof.Machine.execResetuCoherentDomain c w s
  | .unitResetEnd kind index => Sys2Proof.Machine.execUnitResetEnd kind index s
  | .glbHoldWrite n v => Sys2Proof.Machine.execGlbHoldWrite n v s
  | .couchToSpare c w => Sys2Proof.Machine.execCouchToSpare c w s
  | .couchHome c w => Sys2Proof.Machine.execCouchHome c w s
  | .couchHandoverEnd q stallNs => Sys2Proof.Machine.execCouchHandoverEnd q stallNs s
  | .qpeSelfTestEnd q pass => Sys2Proof.Machine.execQpeSelfTestEnd q pass s
  | .lockLifecycle c w => Sys2Proof.Machine.execLockLifecycle c w s
  | .lockRevoke c w => Sys2Proof.Machine.execLockRevoke c w s
  | .lockSvn c w => Sys2Proof.Machine.execLockSvn c w s
  | .lockFuseKey c w => Sys2Proof.Machine.execLockFuseKey c w s
  | .image c w => Sys2Proof.Machine.execImage c w s
  | .resume c w => Sys2Proof.Machine.execResume c w s
  | .timePpsEdge ageNs => Sys2Proof.Machine.execTimePpsEdge ageNs s
  | .ppsLossTimeout => Sys2Proof.Machine.execPpsLossTimeout s
  | .setNow => Sys2Proof.Machine.execSetNow s
  | .setAtPps => Sys2Proof.Machine.execSetAtPps s
  | .timeModeWrite v => Sys2Proof.Machine.execTimeModeWrite v s
  | .timeAdjWrite v => Sys2Proof.Machine.execTimeAdjWrite v s
  | .frameRefEdge r ageNs => Sys2Proof.Machine.execFrameRefEdge r ageNs s
  | .frameEdgeMissing r => Sys2Proof.Machine.execFrameEdgeMissing r s
  | .frameRefEnable r v => Sys2Proof.Machine.execFrameRefEnable r v s
  | .frameRefDisable r => Sys2Proof.Machine.execFrameRefDisable r s
  | .frameOutPulse o => Sys2Proof.Machine.execFrameOutPulse o s
  | .takePrepared u => Sys2Proof.Machine.execTakePrepared u s
  | .takeReadinessPoint u => Sys2Proof.Machine.execTakeReadinessPoint u s
  | .takeApplication sets => Sys2Proof.Machine.execTakeApplication sets s
  | .takeCommitWrite u => Sys2Proof.Machine.execTakeCommitWrite u s
  | .uncorrectableMemoryError mem index copies => Sys2Proof.Machine.execUncorrectableMemoryError mem index copies s
  | .correctableMemoryError kind index mem addr syndrome => Sys2Proof.Machine.execCorrectableMemoryError kind index mem addr syndrome s
  | .stkModeWrite v => Sys2Proof.Machine.execStkModeWrite v s
  | .domainKeyWrite v => Sys2Proof.Machine.execDomainKeyWrite v s
  | .keyLockWrite => Sys2Proof.Machine.execKeyLockWrite s
  | .msgJoin p m => Sys2Proof.Machine.execMsgJoin p m s
  | .msgJoinAck p m => Sys2Proof.Machine.execMsgJoinAck p m s
  | .msgBlock p m => Sys2Proof.Machine.execMsgBlock p m s
  | .msgResult p m => Sys2Proof.Machine.execMsgResult p m s
  | .msgHeartbeat p m => Sys2Proof.Machine.execMsgHeartbeat p m s
  | .msgTime p m => Sys2Proof.Machine.execMsgTime p m s
  | .msgTakeReady p m => Sys2Proof.Machine.execMsgTakeReady p m s
  | .msgTakeCommit p m => Sys2Proof.Machine.execMsgTakeCommit p m s
  | .msgTakeDone p m => Sys2Proof.Machine.execMsgTakeDone p m s
  | .msgTakeover p m => Sys2Proof.Machine.execMsgTakeover p m s
  | .msgViral p m => Sys2Proof.Machine.execMsgViral p m s
  | .msgGateway p m => Sys2Proof.Machine.execMsgGateway p m s
  | .gatewayRepeat p => Sys2Proof.Machine.execGatewayRepeat p s
  | .gatewayTimeout p => Sys2Proof.Machine.execGatewayTimeout p s
  | .heartbeatSend => Sys2Proof.Machine.execHeartbeatSend s
  | .heartbeatLoss => Sys2Proof.Machine.execHeartbeatLoss s
  | .timeDistribution => Sys2Proof.Machine.execTimeDistribution s
  | .promoteWrite => Sys2Proof.Machine.execPromoteWrite s
  | .stkProxyWrite n v => Sys2Proof.Machine.execStkProxyWrite n v s
  | .leafData p leaf => Sys2Proof.Machine.execLeafData p leaf s
  | .leafIdle p leaf => Sys2Proof.Machine.execLeafIdle p leaf s
  | .leafNak p leaf => Sys2Proof.Machine.execLeafNak p leaf s
  | .leafMgmt p leaf => Sys2Proof.Machine.execLeafMgmt p leaf s
  | .leafInit p leaf => Sys2Proof.Machine.execLeafInit p leaf s
  | .leafTransmit p => Sys2Proof.Machine.execLeafTransmit p s
  | .replayTimerExpiry p => Sys2Proof.Machine.execReplayTimerExpiry p s
  | .iflRecoveryExit p => Sys2Proof.Machine.execIflRecoveryExit p s
  | .iflLinkDownTimeout p => Sys2Proof.Machine.execIflLinkDownTimeout p s
  | .symbolLockLoss p lane => Sys2Proof.Machine.execSymbolLockLoss p lane s
  | .refclkLoss die => Sys2Proof.Machine.execRefclkLoss die s
  | .refclkRestored die => Sys2Proof.Machine.execRefclkRestored die s
  | .adaptationBurst q => Sys2Proof.Machine.execAdaptationBurst q s
  | .adaptationBurstEnd q => Sys2Proof.Machine.execAdaptationBurstEnd q s
  | .patternStart p v => Sys2Proof.Machine.execPatternStart p v s
  | .patternStop p => Sys2Proof.Machine.execPatternStop p s
  | .marginStart p v => Sys2Proof.Machine.execMarginStart p v s
  | .marginDone p errors cleanT cleanV busy aborted => Sys2Proof.Machine.execMarginDone p errors cleanT cleanV busy aborted s
  | .partnerMarginCommand p lane start => Sys2Proof.Machine.execPartnerMarginCommand p lane start s
  | .presenceChange u long short => Sys2Proof.Machine.execPresenceChange u long short s
  | .seatedQualified u => Sys2Proof.Machine.execSeatedQualified u s
  | .seatingLost u => Sys2Proof.Machine.execSeatingLost u s
  | .slotBudgetGrant => Sys2Proof.Machine.execSlotBudgetGrant s
  | .powerGoodQualified u => Sys2Proof.Machine.execPowerGoodQualified u s
  | .perstReleaseTimer u => Sys2Proof.Machine.execPerstReleaseTimer u s
  | .rampTimeout u => Sys2Proof.Machine.execRampTimeout u s
  | .fastTrip u => Sys2Proof.Machine.execFastTrip u s
  | .breakerThresholdCross u above => Sys2Proof.Machine.execBreakerThresholdCross u above s
  | .breakerExpiry u => Sys2Proof.Machine.execBreakerExpiry u s
  | .backoffEnd u => Sys2Proof.Machine.execBackoffEnd u s
  | .retryCountReset u => Sys2Proof.Machine.execRetryCountReset u s
  | .slotGrantRelease u => Sys2Proof.Machine.execSlotGrantRelease u s
  | .vinWarn u => Sys2Proof.Machine.execVinWarn u s
  | .warnRelease u => Sys2Proof.Machine.execWarnRelease u s
  | .pwrfailInAssert low => Sys2Proof.Machine.execPwrfailInAssert low s
  | .vinUndervoltage u => Sys2Proof.Machine.execVinUndervoltage u s
  | .vinRestored u => Sys2Proof.Machine.execVinRestored u s
  | .passDeviceFailure u => Sys2Proof.Machine.execPassDeviceFailure u s
  | .controlExchangeLoss => Sys2Proof.Machine.execControlExchangeLoss s
  | .controlExchangeResume => Sys2Proof.Machine.execControlExchangeResume s
  | .budgetEvaluation => Sys2Proof.Machine.execBudgetEvaluation s
  | .capUnmet => Sys2Proof.Machine.execCapUnmet s
  | .trainingBurstGrant => Sys2Proof.Machine.execTrainingBurstGrant s
  | .thermalCapStep => Sys2Proof.Machine.execThermalCapStep s
  | .tempRefresh temps => Sys2Proof.Machine.execTempRefresh temps s
  | .thermtrip sensor => Sys2Proof.Machine.execThermtrip sensor s
  | .avsWriteFailure => Sys2Proof.Machine.execAvsWriteFailure s
  | .cmdLinkTrained link r twoLinks => Sys2Proof.Machine.execCmdLinkTrained link r twoLinks s
  | .perstAssert link => Sys2Proof.Machine.execPerstAssert link s
  | .barAccess link bar off write bytes => Sys2Proof.Machine.execBarAccess link bar off write bytes s
  | .handover link => Sys2Proof.Machine.execHandover link s
  | .claim link => Sys2Proof.Machine.execClaim link s
  | .autoFailover => Sys2Proof.Machine.execAutoFailover s
  | .mctpControlMessage cmd arg => Sys2Proof.Machine.execMctpControlMessage cmd arg s
  | .pldmMessage cmd sensor => Sys2Proof.Machine.execPldmMessage cmd sensor s
  | .mctpOtherType type => Sys2Proof.Machine.execMctpOtherType type s
  | .dynamicAddressAssign i3c addr => Sys2Proof.Machine.execDynamicAddressAssign i3c addr s
  | .imageReadDone src readable directory image => Sys2Proof.Machine.execImageReadDone src readable directory image s
  | .imageVerifyDone ms => Sys2Proof.Machine.execImageVerifyDone ms s
  | .bootGo => Sys2Proof.Machine.execBootGo s
  | .resetNAssert => Sys2Proof.Machine.execResetNAssert s
  | .deviceResetRelease st => Sys2Proof.Machine.execDeviceResetRelease st s
  | .brownout rail => Sys2Proof.Machine.execBrownout rail s
  | .counterFreezeWrite => Sys2Proof.Machine.execCounterFreezeWrite s
  | .counterReleaseWrite => Sys2Proof.Machine.execCounterReleaseWrite s
  | .shadowCopyEnd => Sys2Proof.Machine.execShadowCopyEnd s
  | .selectorWrite n sel => Sys2Proof.Machine.execSelectorWrite n sel s
  | .unitLogClear v => Sys2Proof.Machine.execUnitLogClear v s
  | .glbLockWrite v => Sys2Proof.Machine.execGlbLockWrite v s
  | .histSelectWrite v => Sys2Proof.Machine.execHistSelectWrite v s
  | .rgrpSelectWrite v => Sys2Proof.Machine.execRgrpSelectWrite v s
  | .ecmpSelectWrite v => Sys2Proof.Machine.execEcmpSelectWrite v s
  | .meterSelectWrite q v => Sys2Proof.Machine.execMeterSelectWrite q v s
  | .tapReset => Sys2Proof.Machine.execTapReset s
  | .tapBypass => Sys2Proof.Machine.execTapBypass s
  | .tapIdcode => Sys2Proof.Machine.execTapIdcode s
  | .tapSamplePreload capture => Sys2Proof.Machine.execTapSamplePreload capture s
  | .tapExtest => Sys2Proof.Machine.execTapExtest s
  | .tapClamp => Sys2Proof.Machine.execTapClamp s
  | .tapHighz => Sys2Proof.Machine.execTapHighz s
  | .powerUp => Sys2Proof.Machine.execPowerUp s
  | .supplyLoss rail => Sys2Proof.Machine.execSupplyLoss rail s
  | .linkRecoveryExit p => Sys2Proof.Machine.execLinkRecoveryExit p s
  | .patternCheckerSync p lane inverted => Sys2Proof.Machine.execPatternCheckerSync p lane inverted s
  | .malformedLeaf p leaf => Sys2Proof.Machine.execMalformedLeaf p leaf s
  | .perstDeassert link => Sys2Proof.Machine.execPerstDeassert link s
  | .commandLinkHotReset link => Sys2Proof.Machine.execCommandLinkHotReset link s
  | .breakerArmed u => Sys2Proof.Machine.execBreakerArmed u s
  | .dramWriteAccepted line second => Sys2Proof.Machine.execDramWriteAccepted line second s
  | .fuseWriteDone => Sys2Proof.Machine.execFuseWriteDone s

end Sys2Proof.Machine
end

