-- ==== Sys2Proof/Machine/Tick.lean ====
section
/-!
DEFINITION. The housekeeping clock: one tick of 4 ns (R279, R280).
-/

namespace Sys2Proof.Machine

/-- The fraction of a nanosecond after a tick, in 10⁻⁹ ns: the rate offset of TIME_ADJ in ppb on 4 ns, carried (R280).
(Log 2 DESIGN CHOICE.) -/
def tickFrac (t : TimeU) : Int := t.frac + 4 * t.adj

/-- The time unit after one tick: 4 ns, and fabric time one more or one less when the carried fraction passes a whole one.
(Log 2 DESIGN CHOICE.) -/
def tickTime (t : TimeU) : TimeU :=
  { t with mono := t.mono + 4, fab := t.fab + BitVec.ofInt 64 (4 + tickFrac t / 1000000000), frac := tickFrac t % 1000000000 }

/-- One tick; none while the device is held in reset (R279). (Log 2 DESIGN CHOICE.) -/
def tick (s : State) : State := if s.glb.inReset then s else { s with time := tickTime s.time }

end Sys2Proof.Machine
end

