-- ==== Sys2Proof/Safety.lean ====
section
/-!
DEFINITION. What a safe step is, and what every command keeps: the canonical memories, deckles that do not overlap, the one-way
fuses and the queue.
-/

namespace Sys2Proof.Safety

open Sys2Proof.Machine

/-- The outcome is a next state. -/
def isNext (o : Machine.Res) : Bool :=
  match o with
  | .next _ => true
  | _ => false

/-- The next step answers a next state. -/
def safe (s : Machine.State) : Bool := isNext (Machine.step s)

/-- No two entries of a deckle table overlap (R196). -/
def deckleDisjoint (m : Tab Deckle) : Prop := ∀ i j, i ≠ j → dklOverlap (tget {} m i) (tget {} m j) = false

/-- The invariant of the machine: the DRAM contents and the program store are in canonical form, and no two deckles overlap. -/
structure Inv (s : State) : Prop where
  mem : Memory.wf s.pool.mem = true
  ps : Memory.wf s.seq.ps = true
  deckles : deckleDisjoint s.dkl.tab

/-- One-way fuses (R210): a valid or revoked key stays so, the security version does not fall, and the part's serial number, grade
and stepping do not change. -/
structure FusesKept (s t : State) : Prop where
  valid : ∀ i, bit s.glb.keyValid i = true → bit t.glb.keyValid i = true
  revoked : ∀ i, bit s.glb.keyRevoked i = true → bit t.glb.keyRevoked i = true
  svn : s.glb.svn ≤ t.glb.svn
  serial : t.glb.serial = s.glb.serial
  grade : t.glb.grade = s.glb.grade
  stepping : t.glb.stepping = s.glb.stepping

/-- Locked deckles are kept: an entry whose lock bit is set is the same (R204). -/
def locksKept (s t : State) : Prop := ∀ i, (tget {} s.dkl.tab i).locked = true → tget {} t.dkl.tab i = tget {} s.dkl.tab i

/-! ## Frames -/

/-- The parts of the machine a frame names: the fields of State, and of the pool, the sequencer and the deckle block the DRAM
contents, the program store, the Sheet Table, the deckle table and the contexts' registers and flags. -/
inductive Part where
  | glb | cmd | pwr | pace | slot | pwrfail | slotHold | pool | home | dkl | seq | mov | time | ten | port | quire | core | cnt | stk
  | tap | pairLo | pairHi | out | fresh | nextId | dram | store | sheets | deckles | registers
deriving DecidableEq, Repr

/-- A part of the machine is the same in two states. -/
def same (s t : State) : Part → Prop
  | .glb => t.glb = s.glb
  | .cmd => t.cmd = s.cmd
  | .pwr => t.pwr = s.pwr
  | .pace => t.pace = s.pace
  | .slot => t.slot = s.slot
  | .pwrfail => t.pwrfail = s.pwrfail
  | .slotHold => t.slotHold = s.slotHold
  | .pool => t.pool = s.pool
  | .home => t.home = s.home
  | .dkl => t.dkl = s.dkl
  | .seq => t.seq = s.seq
  | .mov => t.mov = s.mov
  | .time => t.time = s.time
  | .ten => t.ten = s.ten
  | .port => t.port = s.port
  | .quire => t.quire = s.quire
  | .core => t.core = s.core
  | .cnt => t.cnt = s.cnt
  | .stk => t.stk = s.stk
  | .tap => t.tap = s.tap
  | .pairLo => t.pairLo = s.pairLo
  | .pairHi => t.pairHi = s.pairHi
  | .out => t.out = s.out
  | .fresh => t.fresh = s.fresh
  | .nextId => t.nextId = s.nextId
  | .dram => t.pool.mem = s.pool.mem ∧ t.pool.poison = s.pool.poison
  | .store => t.seq.ps = s.seq.ps ∧ t.seq.psBad = s.seq.psBad
  | .sheets => t.pool.sheet = s.pool.sheet
  | .deckles => t.dkl.tab = s.dkl.tab
  | .registers => ∀ c, (∀ i, kget (getCtx t c) i = kget (getCtx s c) i) ∧ (getCtx t c).z = (getCtx s c).z ∧
      (getCtx t c).n = (getCtx s c).n ∧ (getCtx t c).c = (getCtx s c).c ∧ (getCtx t c).v = (getCtx s c).v

/-- Every part but the named ones is unchanged. -/
def onlyIn (l : List Part) (s t : State) : Prop := ∀ p, p ∉ l → same s t p

/-! ## Issue of an instruction -/

/-- The state in which an instruction of context `c` takes its effect: its issue slot is taken (R213). -/
def begun (s : State) (c : Nat) : State :=
  let s := asDebug s c
  if (getCtx s c).wait == .again || (getCtx s c).run == .debug then s else takeSlot s c

/-- An instruction takes its effect: its context issues it now, its fetch passes, the context may run it, its undefined bits are
zero, and its condition is defined and holds (R213, R232, R236). What the instruction's own row checks is for each statement to
say. -/
structure Issues (s : State) (c op : Nat) (w : Ox) (sh : Shape0) : Prop where
  unit : c < 18
  now : issues s c op w = true
  fetch : fetchFault (begun s c) c = none
  steward : 0xA0 ≤ op → op ≤ 0xAF → c < 2
  cond : w.cond ≠ 0xF
  shape : shapeOk w sh = true
  holds : condHolds (getCtx s c) w.cond = true

/-! ## Retirement of an instruction -/

/-- The flags of a context after a result: Z and N from the result, C and V as given (R239). -/
def flagsAre (x : Ctx) (r : W64) (c v : Prop) : Prop :=
  (x.z = true ↔ r = 0) ∧ x.n = r.getLsbD 63 ∧ (x.c = true ↔ c) ∧ (x.v = true ↔ v)

/-- Two records of a context have the same flags. -/
def flagsSame (x y : Ctx) : Prop := x.z = y.z ∧ x.n = y.n ∧ x.c = y.c ∧ x.v = y.v

/-- An instruction of context `c` has retired with `v` in register `d`: k0 discards it, every other register of every context is
unchanged, a program moves on by one instruction, and nothing changes but the contexts, the counters, and what a completion record or
the RESULT of a block sends. -/
structure Wrote (s t : State) (c : Nat) (d : BitVec 4) (v : W64) : Prop where
  regs : ∀ j i, kget (getCtx t j) i = if j = c ∧ d ≠ 0 ∧ i = d then v else kget (getCtx s j) i
  pc : ∀ f, (getCtx s c).run = .prog f → (getCtx t c).pc = (getCtx s c).pc + 16
  frame : onlyIn [.cmd, .seq, .port, .cnt, .stk, .out, .fresh, .registers] s t

/-- An instruction of context `c` has retired with no register written. -/
structure Retired (s t : State) (c : Nat) : Prop where
  regs : ∀ j i, kget (getCtx t j) i = kget (getCtx s j) i
  pc : ∀ f, (getCtx s c).run = .prog f → (getCtx t c).pc = (getCtx s c).pc + 16
  frame : onlyIn [.cmd, .seq, .port, .cnt, .stk, .out, .fresh, .registers] s t

/-- The flags after an instruction of context `c` with the result `r`: set where `f` is true, else kept; those of the other contexts
kept. -/
def flagsIf (s t : State) (c : Nat) (f : Bool) (r : W64) (cf vf : Prop) : Prop :=
  (if f then flagsAre (getCtx t c) r cf vf else flagsSame (getCtx t c) (getCtx s c)) ∧
    ∀ j, j ≠ c → flagsSame (getCtx t j) (getCtx s j)

/-- The flags of every context are kept. -/
def flagsKept (s t : State) : Prop := ∀ j, flagsSame (getCtx t j) (getCtx s j)

/-- A signed number that 64 bits hold. -/
def fits (x : Int) : Prop := -(2 ^ 63) ≤ x ∧ x < 2 ^ 63

/-- An instruction of context `c` has retired with no register written, and what changed lies in the named parts and in what every
retirement can change. -/
structure Did (l : List Part) (s t : State) (c : Nat) : Prop where
  regs : ∀ j i, kget (getCtx t j) i = kget (getCtx s j) i
  flags : flagsKept s t
  ended : (getCtx t c).wait = .none
  frame : onlyIn (l ++ [.cmd, .seq, .port, .cnt, .stk, .out, .fresh]) s t

/-- As `Did`, with `v` written to register `d`. -/
structure Gave (l : List Part) (s t : State) (c : Nat) (d : BitVec 4) (v : W64) : Prop where
  regs : ∀ j i, kget (getCtx t j) i = if j = c ∧ d ≠ 0 ∧ i = d then v else kget (getCtx s j) i
  flags : flagsKept s t
  ended : (getCtx t c).wait = .none
  frame : onlyIn (l ++ [.cmd, .seq, .port, .cnt, .stk, .out, .fresh, .registers]) s t

/-- A port without what its inter-switch link holds. -/
def sansIfl (x : Port) : Port := { x with ifl := {} }

/-- No port is changed but for what its inter-switch link holds. -/
def portsKept (s t : State) : Prop := ∀ p, sansIfl (getPort t p) = sansIfl (getPort s p)

/-- A context without its pending events and the arming of its event vector. -/
def sansEvents (x : Ctx) : Ctx := { x with evp := 0, evtArmed := false }

/-- No context is changed but for its pending events and its event vector. -/
def contextsKept (s t : State) : Prop := ∀ c, sansEvents (getCtx t c) = sansEvents (getCtx s c)

/-- An instruction of context `c` has retired after an effect that led to `u`: the retirement changes no other part, no register and no
flag. -/
structure After (u t : State) (c : Nat) : Prop where
  frame : onlyIn [.cmd, .seq, .port, .cnt, .stk, .out, .fresh] u t
  registers : same u t .registers
  ended : (getCtx t c).wait = .none

/-- Every check of a list passes. -/
def passes (l : List (Bool × Nat)) : Prop := ∀ e ∈ l, e.1 = false

/-! ## Fabric instructions -/

/-- Context, opcode, op field and words of a fabric instruction. -/
def fabForm : Instr → Option (Nat × Nat × Nat × Ox)
  | .bind c w => some (c, 0x40, 0, w)
  | .unbind c w => some (c, 0x41, 0, w)
  | .routeEntry c w => some (c, 0x42, 0, w)
  | .routeMembers c w => some (c, 0x42, 1, w)
  | .routeBuckets c w => some (c, 0x42, 2, w)
  | .routeSeed c w => some (c, 0x42, 3, w)
  | .routeHash c w => some (c, 0x42, 4, w)
  | .routeRead c w => some (c, 0x42, 5, w)
  | .mcastHeader c w => some (c, 0x43, 0, w)
  | .mcastMember c w => some (c, 0x43, 1, w)
  | .mcastState c w => some (c, 0x43, 2, w)
  | .mcastFree c w => some (c, 0x43, 3, w)
  | .mcastOwner c w => some (c, 0x43, 4, w)
  | .mcastRead c w => some (c, 0x43, 5, w)
  | .deckleWrite c w => some (c, 0x44, 0, w)
  | .deckleInvalidate c w => some (c, 0x44, 1, w)
  | .deckleSetLock c w => some (c, 0x44, 2, w)
  | .sheetGrant c w => some (c, 0x45, 0, w)
  | .sheetFree c w => some (c, 0x45, 1, w)
  | .sheetAttach c w => some (c, 0x45, 2, w)
  | .sheetActivate c w => some (c, 0x45, 3, w)
  | .sheetSwap c w => some (c, 0x45, 4, w)
  | .sheetDetach c w => some (c, 0x45, 5, w)
  | .sheetRetire c w => some (c, 0x45, 6, w)
  | .sheetReam c w => some (c, 0x45, 7, w)
  | .sheetQuery c w => some (c, 0x45, 8, w)
  | .mirrorEnable c w => some (c, 0x46, 0, w)
  | .mirrorDisable c w => some (c, 0x46, 1, w)
  | .mirrorReadLost c w => some (c, 0x46, 2, w)
  | .meterConfigure c w => some (c, 0x47, 0, w)
  | .meterBind c w => some (c, 0x47, 1, w)
  | .meterRead c w => some (c, 0x47, 2, w)
  | .shapeShaper c w => some (c, 0x48, 0, w)
  | .shapePriority c w => some (c, 0x48, 1, w)
  | .shapeQuantum c w => some (c, 0x48, 2, w)
  | .cadenceConfigure c w => some (c, 0x49, 0, w)
  | .cadenceWindow c w => some (c, 0x49, 1, w)
  | .cadenceEnable c w => some (c, 0x49, 2, w)
  | .cadenceDisable c w => some (c, 0x49, 3, w)
  | _ => none

/-- A fabric instruction issues, names its op, and passes its own decode checks; `take` says whether it asks to be staged. -/
structure FabIssues (i : Instr) (s : State) (c op sub : Nat) (w : Ox) (take : Bool) : Prop where
  form : fabForm i = some (c, op, sub, w)
  row : fabSub op w.imm = sub
  issues : Issues s c op w (fabShape op sub)
  staged : bit w.mod 4 = take
  checks : passes (fabChk s c op w.imm w.B (kget (getCtx s c) w.a) (kget (getCtx s c) w.b))

/-- The parts a command may change; it changes no other. `pool`, `seq` and `dkl` name the whole of a block, whose DRAM
contents, program store, Sheet Table, deckle table and context registers are named apart: with `pool` and without `dram`, the block may
change but the DRAM contents do not. -/
def touches : Instr → List Part
  | .regWriteGeneral .. | .pairHighWrite .. | .fmPhysicalPortControl .. | .stc ..
      => [.glb, .cmd, .pwr, .pace, .slot, .pool, .home, .dkl, .seq, .mov, .time, .ten, .port, .quire, .core, .cnt, .stk, .tap, .pairLo,
      .out, .fresh, .nextId, .sheets, .deckles, .registers]
  | .pairLowRead .. => [.cmd, .dkl, .seq, .cnt, .pairHi, .out]
  | .flitReceive .. | .leafData .. | .leafMgmt ..
      => [.cmd, .home, .seq, .mov, .time, .ten, .port, .quire, .core, .cnt, .stk, .out, .fresh, .nextId]
  | .messageAdmission .. | .heldMessageRetry .. => [.cmd, .seq, .mov, .core, .cnt, .out, .fresh, .nextId]
  | .requestAtCentre .. => [.cmd, .dkl, .seq, .mov, .core, .cnt, .out, .fresh, .nextId]
  | .egressSelection .. => [.cmd, .seq, .core, .cnt, .out]
  | .schedulerRound
      => [.glb, .cmd, .pwr, .pace, .slot, .pool, .home, .dkl, .seq, .mov, .time, .ten, .port, .quire, .core, .cnt, .stk, .tap, .pairLo,
      .pairHi, .out, .fresh, .nextId, .dram, .sheets, .deckles, .registers]
  | .flitSend .. => [.cmd, .seq, .mov, .port, .quire, .core, .cnt, .out, .fresh, .nextId]
  | .repinningFenceRelease .. | .cadenceWindowOpen .. | .cadenceWindowClose .. | .cadenceFenceRelease .. | .histClear .. |
  .bufPeakClear | .rgrpSelectWrite .. | .ecmpSelectWrite .. => [.core]
  | .replicaMemberCompletion .. | .replicaMemberTimeout .. => [.cmd, .seq, .mov, .core, .cnt, .out, .nextId]
  | .mirrorConsumerReadDone .. => [.cmd, .seq, .core, .cnt, .out, .nextId]
  | .redMessageReevaluation .. => [.cmd, .seq, .quire, .core, .cnt, .out]
  | .histogramSample .. => [.core, .cnt]
  | .paceWindowEnd .. => [.cmd, .pwr, .pace, .seq, .cnt, .out]
  | .paceHistoryHour .. => [.glb, .pace]
  | .paceTargetWrite .. | .adaptationBurst .. | .adaptationBurstEnd .. | .budgetEvaluation | .trainingBurstGrant | .thermalCapStep => [.pwr]
  | .paceCtrlWrite .. => [.pace, .cnt]
  | .portEnable .. | .portDisable .. => [.glb, .pwr, .port, .core, .cnt, .tap]
  | .portHpWrite .. | .gatewayTimeout .. | .patternStart .. => [.port, .cnt]
  | .linkTrained .. => [.cmd, .pwr, .seq, .port, .core, .cnt, .out]
  | .trainingRetry .. | .loopbackRequestReceived .. | .iflRecoveryExit .. | .refclkRestored .. | .patternStop .. | .marginStart .. |
  .marginDone .. | .linkRecoveryExit .. | .patternCheckerSync .. => [.port]
  | .linkDown .. | .errMessageReceived .. | .fmSendPpbConfigRequest .. | .leafInit .. | .iflLinkDownTimeout ..
      => [.cmd, .seq, .mov, .time, .ten, .port, .core, .cnt, .stk, .out, .fresh, .nextId]
  | .dpcStatusClearByHost .. | .dpcTrigClear .. => [.ten, .port]
  | .hotResetReceived .. | .secondaryBusReset .. | .ideMacFailure .. | .resetuPort .. | .leafIdle .. | .leafNak .. | .refclkLoss .. |
  .malformedLeaf .. => [.cmd, .seq, .mov, .time, .port, .core, .cnt, .stk, .out, .fresh, .nextId]
  | .hostPowerControlWrite .. => [.cmd, .seq, .ten, .port, .cnt, .out]
  | .hpRefuse .. => [.ten, .port, .cnt]
  | .hostMcEnableWrite .. => [.cmd, .seq, .ten, .core, .cnt, .out, .fresh]
  | .ideKeyManagement .. | .partnerMarginCommand .. => [.port, .out]
  | .fmIdentifySwitchDevice .. | .fmGetPhysicalPortState .. | .fmGetVirtualSwitchInfo .. => [.cmd, .dkl, .seq, .cnt, .pairHi, .out, .fresh]
  | .fmBindVppb .. => [.cmd, .seq, .ten, .cnt, .out, .fresh]
  | .fmUnbindVppb .. => [.cmd, .dkl, .seq, .ten, .cnt, .out, .fresh, .deckles]
  | .fmGenerateAerEvent .. | .fmTunnelManagementCommand .. | .fmSendLdConfigRequest .. | .fmSendLdMemoryRequest .. |
  .fmUnsupportedOpcode .. => [.cmd, .seq, .cnt, .out, .fresh]
  | .poolChEnable .. | .poolChDisable .. => [.pool, .tap]
  | .channelTrainingDone .. | .initStart .. | .poolGrpEnable .. | .poolGrpDisable .. | .poolOpen | .poolClose | .ceLogClear .. |
  .ueLogClear .. | .sheetSelectWrite .. => [.pool]
  | .channelInitDone .. => [.pool, .dram]
  | .channelLost .. | .resetuPoolChannel ..
      => [.cmd, .pool, .home, .seq, .mov, .time, .ten, .port, .core, .cnt, .stk, .out, .fresh, .nextId, .sheets]
  | .dramReadDone .. | .homeRds .. | .homeRde .. | .homeRdnc .. | .homeWrnc .. | .homeEvd .. | .homeEvc .. | .homeAtom .. |
  .biResponse .. | .dramWriteAccepted .. => [.cmd, .pool, .home, .seq, .mov, .ten, .port, .core, .cnt, .out, .fresh, .nextId, .dram]
  | .scrubRead .. => [.cmd, .pool, .seq, .cnt, .out, .dram]
  | .biconflictReceived .. => [.cmd, .home, .seq, .core, .cnt, .out, .nextId]
  | .snoopTimeout .. => [.cmd, .home, .seq, .mov, .ten, .port, .core, .cnt, .out, .fresh, .nextId]
  | .directoryWalkDone .. => [.cmd, .pool, .home, .seq, .mov, .ten, .port, .core, .cnt, .stk, .out, .fresh, .nextId, .dram, .registers]
  | .dirLogClear | .trackerPeakClear => [.home]
  | .debugAccess .. | .barAccess ..
      => [.glb, .cmd, .pwr, .pace, .slot, .pool, .home, .dkl, .seq, .mov, .time, .ten, .port, .quire, .core, .cnt, .stk, .tap, .pairLo,
      .pairHi, .out, .fresh, .nextId, .store, .sheets, .deckles, .registers]
  | .deckleLogClear => [.dkl]
  | .ringDoorbell .. | .completionRingRoom .. | .correctableMemoryError .. | .cmdLinkTrained .. | .perstAssert .. | .handover .. |
  .claim .. | .autoFailover | .commandLinkHotReset .. => [.cmd, .seq, .cnt, .out]
  | .ringEntryFetch .. | .cqHeadWrite .. | .ctxResumeWrite .. | .haltRequest .. => [.seq]
  | .ctxStateRead .. => [.seq, .out]
  | .contextRegisterWrite .. => [.seq, .cnt, .registers]
  | .programStoreWrite .. => [.cmd, .dkl, .seq, .cnt, .out, .store]
  | .undefinedOpcode .. | .nop .. | .halt .. | .jump .. | .br .. | .call .. | .ret .. | .signal .. | .fence .. | .yield .. |
  .atWait .. | .atArm .. | .waitframe .. | .snapRelease .. | .log .. | .resetuCommandPort .. | .resume .. | .msgJoin .. |
  .msgJoinAck .. | .msgBlock .. | .msgResult .. | .msgHeartbeat .. | .msgTakeDone .. | .msgTakeover ..
      => [.cmd, .seq, .port, .cnt, .stk, .out, .fresh]
  | .waitev .. | .waitSatisfied .. | .signalMask .. | .movi .. | .mov .. | .add .. | .sub .. | .mul .. | .mulhu .. | .divu .. |
  .remu .. | .and .. | .or .. | .xor .. | .shl .. | .shr .. | .sar .. | .cmp .. | .tst .. | .min .. | .max .. | .clz .. | .popc .. |
  .bfx .. | .bfi .. | .loadDataReturn .. | .time .. | .atTimerExpiry .. | .waitframeTimeout .. | .slotStatus .. | .budgetRead .. |
  .paceReadStatus .. | .paceReadVcore .. | .snapFreeze .. | .count .. => [.cmd, .seq, .port, .cnt, .stk, .out, .fresh, .registers]
  | .ld .. | .atom .. => [.cmd, .dkl, .seq, .mov, .port, .core, .cnt, .stk, .out, .fresh, .nextId]
  | .st .. => [.cmd, .dkl, .seq, .mov, .port, .core, .cnt, .stk, .out, .fresh, .nextId, .store]
  | .ldc .. => [.cmd, .dkl, .seq, .port, .cnt, .stk, .pairHi, .out, .fresh]
  | .bind .. | .unbind .. | .routeEntry .. | .routeMembers .. | .routeBuckets .. | .routeSeed .. | .routeHash .. | .routeRead .. |
  .mcastHeader .. | .mcastMember .. | .mcastState .. | .mcastFree .. | .mcastOwner .. | .mcastRead .. | .deckleWrite .. |
  .deckleInvalidate .. | .deckleSetLock .. | .sheetGrant .. | .sheetFree .. | .sheetAttach .. | .sheetActivate .. | .sheetSwap .. |
  .sheetDetach .. | .sheetRetire .. | .sheetReam .. | .sheetQuery .. | .mirrorEnable .. | .mirrorDisable .. | .mirrorReadLost .. |
  .meterConfigure .. | .meterBind .. | .meterRead .. | .shapeShaper .. | .shapePriority .. | .shapeQuantum .. | .cadenceConfigure .. |
  .cadenceWindow .. | .cadenceEnable .. | .cadenceDisable .. | .timePpsEdge .. | .setNow | .timeModeWrite ..
      => [.cmd, .pool, .home, .dkl, .seq, .mov, .time, .ten, .port, .quire, .core, .cnt, .stk, .out, .fresh, .nextId, .sheets, .deckles,
      .registers]
  | .copy .. | .gather .. | .reshape .. | .fill .. => [.cmd, .dkl, .seq, .mov, .port, .cnt, .stk, .out, .fresh]
  | .mvstat .. => [.cmd, .seq, .mov, .port, .cnt, .stk, .out, .fresh, .registers]
  | .mvpause .. | .mvabort .. | .mvresume .. => [.cmd, .seq, .mov, .port, .cnt, .stk, .out, .fresh]
  | .moveTransfer .. => [.cmd, .dkl, .seq, .mov, .core, .cnt, .out, .fresh, .nextId, .store]
  | .moveEnd .. => [.cmd, .dkl, .seq, .mov, .core, .cnt, .out, .nextId, .store]
  | .takeadd .. | .takearm .. | .takedrop .. | .takeReadinessPoint .. | .msgTime .. | .msgTakeReady .. | .msgTakeCommit ..
      => [.cmd, .seq, .time, .port, .cnt, .stk, .out, .fresh]
  | .slotOn .. => [.cmd, .pwr, .slot, .seq, .ten, .port, .cnt, .stk, .tap, .out, .fresh]
  | .slotOff .. => [.cmd, .pwr, .slot, .seq, .ten, .port, .cnt, .stk, .out, .fresh]
  | .slotClear .. | .slotDeclare .. => [.cmd, .slot, .seq, .port, .cnt, .stk, .out, .fresh]
  | .budgetCap .. | .budgetLimit .. | .paceTarget .. | .paceLoop .. => [.cmd, .pwr, .seq, .port, .cnt, .stk, .out, .fresh]
  | .tenantCreate .. => [.cmd, .seq, .time, .ten, .port, .cnt, .stk, .out, .fresh, .registers]
  | .tenantRemove .. | .resetuTenant ..
      => [.cmd, .home, .dkl, .seq, .mov, .time, .ten, .port, .core, .cnt, .stk, .out, .fresh, .nextId, .store, .registers]
  | .tenantTimeout .. | .tenantCounterRead .. => [.cmd, .seq, .ten, .port, .cnt, .stk, .out, .fresh]
  | .resetuQuire .. => [.cmd, .seq, .mov, .time, .port, .quire, .core, .cnt, .stk, .out, .fresh, .nextId]
  | .resetuSlot .. => [.cmd, .pwr, .slot, .seq, .port, .cnt, .stk, .out, .fresh]
  | .resetuContext .. => [.cmd, .home, .dkl, .seq, .mov, .time, .port, .core, .cnt, .stk, .out, .fresh, .nextId, .store, .registers]
  | .resetuMoverChannel .. => [.cmd, .home, .dkl, .seq, .mov, .port, .core, .cnt, .stk, .out, .fresh, .nextId, .store]
  | .resetuCoherentDomain .. => [.cmd, .home, .seq, .mov, .ten, .port, .core, .cnt, .stk, .out, .fresh, .nextId]
  | .unitResetEnd ..
      => [.cmd, .slot, .pool, .dkl, .seq, .mov, .time, .ten, .port, .quire, .core, .cnt, .stk, .out, .fresh, .deckles, .registers]
  | .glbHoldWrite .. => [.glb, .pool, .mov, .port, .quire, .cnt]
  | .couchToSpare .. | .couchHome .. => [.cmd, .seq, .port, .quire, .cnt, .stk, .out, .fresh]
  | .couchHandoverEnd .. => [.cmd, .seq, .port, .quire, .cnt, .stk, .out, .fresh, .registers]
  | .qpeSelfTestEnd .. | .meterSelectWrite .. => [.quire]
  | .lockLifecycle .. | .lockRevoke .. | .lockSvn .. => [.glb, .cmd, .seq, .port, .cnt, .stk, .out, .fresh]
  | .lockFuseKey .. => [.glb, .cmd, .dkl, .seq, .port, .cnt, .stk, .out, .fresh]
  | .image .. => [.glb, .cmd, .dkl, .seq, .port, .cnt, .stk, .out, .fresh, .store]
  | .ppsLossTimeout => [.cmd, .seq, .time, .cnt, .out]
  | .setAtPps | .timeAdjWrite .. | .takeCommitWrite .. => [.time]
  | .frameRefEdge .. | .frameEdgeMissing .. => [.cmd, .seq, .time, .port, .core, .cnt, .stk, .out, .fresh, .registers]
  | .frameRefEnable .. | .frameRefDisable .. => [.time, .cnt]
  | .frameOutPulse .. => [.time, .out]
  | .takePrepared .. => [.time, .port, .stk, .out, .fresh]
  | .takeApplication ..
      => [.cmd, .pool, .home, .dkl, .seq, .mov, .time, .ten, .port, .quire, .core, .cnt, .stk, .out, .fresh, .nextId, .sheets, .deckles]
  | .uncorrectableMemoryError .. | .thermtrip .. | .resetNAssert | .brownout .. | .supplyLoss .. | .fuseWriteDone
      => [.glb, .cmd, .pwr, .pace, .slot, .pwrfail, .slotHold, .pool, .home, .dkl, .seq, .mov, .time, .ten, .port, .quire, .core, .cnt,
      .stk, .tap, .pairLo, .pairHi, .out, .fresh, .nextId, .dram, .store, .sheets, .deckles, .registers]
  | .stkModeWrite .. | .domainKeyWrite .. | .stkProxyWrite .. => [.cnt, .stk]
  | .keyLockWrite | .heartbeatLoss => [.stk]
  | .msgViral .. => [.cmd, .seq, .cnt, .stk, .out]
  | .msgGateway .. => [.port, .cnt, .stk]
  | .gatewayRepeat .. => [.out]
  | .heartbeatSend | .timeDistribution | .promoteWrite => [.port, .stk, .out, .fresh]
  | .leafTransmit .. => [.cmd, .seq, .mov, .port, .core, .cnt, .out, .fresh, .nextId]
  | .replayTimerExpiry .. | .symbolLockLoss .. => [.pwr, .port]
  | .presenceChange .. | .perstReleaseTimer .. | .breakerThresholdCross .. | .retryCountReset .. | .slotGrantRelease .. |
  .warnRelease .. | .breakerArmed .. => [.slot]
  | .seatedQualified .. | .seatingLost .. | .slotBudgetGrant | .passDeviceFailure .. => [.cmd, .pwr, .slot, .seq, .ten, .cnt, .out]
  | .powerGoodQualified .. | .rampTimeout .. | .fastTrip .. | .breakerExpiry .. | .backoffEnd .. | .vinWarn .. | .vinUndervoltage .. |
  .vinRestored .. => [.cmd, .slot, .seq, .ten, .cnt, .out]
  | .pwrfailInAssert .. => [.cmd, .slot, .pwrfail, .seq, .ten, .cnt, .out]
  | .controlExchangeLoss => [.slotHold]
  | .controlExchangeResume => [.cmd, .slotHold, .seq, .cnt, .out]
  | .capUnmet | .avsWriteFailure => [.cmd, .pwr, .seq, .cnt, .out]
  | .tempRefresh .. => [.glb, .cmd, .pwr, .pace, .seq, .cnt, .out]
  | .mctpControlMessage .. | .pldmMessage .. => [.cmd, .out]
  | .mctpOtherType .. | .dynamicAddressAssign .. | .perstDeassert .. => [.cmd]
  | .imageReadDone .. | .bootGo | .glbLockWrite .. | .powerUp => [.glb]
  | .imageVerifyDone .. => [.glb, .seq, .store]
  | .deviceResetRelease .. => [.glb, .stk]
  | .counterFreezeWrite | .counterReleaseWrite | .shadowCopyEnd | .selectorWrite .. | .unitLogClear .. => [.cnt]
  | .histSelectWrite .. => [.pace]
  | .tapReset | .tapBypass | .tapExtest | .tapClamp | .tapHighz => [.tap]
  | .tapIdcode | .tapSamplePreload .. => [.tap, .out]

/-- A slot's record is `y`, every other slot's is as before. -/
def slotIs (s t : State) (n : Nat) (y : Slot) : Prop := getSlot t n = y ∧ ∀ i, i ≠ n → getSlot t i = getSlot s i

end Sys2Proof.Safety
end

