-- ==== Sys2Proof/WellFormed.lean ====
section
/-!
DEFINITION. The bounds of a command's operands: the unit, index or instance it names is one the KF96 has (R5, R236, Table
OXI-21). A command outside them can never reach the hardware; its meaning ends in the fault noSuchUnit.
-/

namespace Sys2Proof

/-- Whether a command names existing units. -/
def Instr.wf : Instr → Bool
  | .regWriteGeneral _ _ _ => true
  | .pairLowRead _ _ => true
  | .pairHighWrite _ _ _ => true
  | .flitReceive p _ => p < 96
  | .messageAdmission ing _ => ing < 109
  | .heldMessageRetry ing _ => ing < 109
  | .requestAtCentre ing => ing < 109
  | .egressSelection out => out < 109
  | .schedulerRound => true
  | .flitSend p => p < 96
  | .repinningFenceRelease g => g < 64
  | .replicaMemberCompletion _ member _ => member < 16
  | .replicaMemberTimeout _ member => member < 16
  | .mirrorConsumerReadDone sess _ => sess < 8
  | .redMessageReevaluation p => p < 96
  | .cadenceWindowOpen sch win => sch < 64 && win < 16
  | .cadenceWindowClose sch => sch < 64
  | .cadenceFenceRelease sch => sch < 64
  | .histogramSample out => out < 109
  | .histClear out => out < 109
  | .bufPeakClear => true
  | .paceWindowEnd _ _ => true
  | .paceHistoryHour _ => true
  | .paceTargetWrite _ => true
  | .paceCtrlWrite _ => true
  | .portEnable p _ => p < 96
  | .portDisable p _ => p < 96
  | .portHpWrite p _ => p < 96
  | .linkTrained p _ => p < 96
  | .trainingRetry p => p < 96
  | .linkDown p => p < 96
  | .errMessageReceived p _ => p < 96
  | .dpcStatusClearByHost p => p < 96
  | .dpcTrigClear p => p < 96
  | .loopbackRequestReceived p _ => p < 96
  | .hotResetReceived p => p < 96
  | .secondaryBusReset t v => t < 16 && v < 64
  | .hostPowerControlWrite p _ => p < 96
  | .hpRefuse p => p < 96
  | .hostMcEnableWrite t g => t < 16 && g < 64
  | .ideKeyManagement p _ => p < 96
  | .ideMacFailure p => p < 96
  | .fmIdentifySwitchDevice _ => true
  | .fmGetPhysicalPortState _ _ => true
  | .fmPhysicalPortControl _ _ _ => true
  | .fmSendPpbConfigRequest _ _ _ _ _ _ => true
  | .fmGetVirtualSwitchInfo _ _ => true
  | .fmBindVppb _ _ _ => true
  | .fmUnbindVppb _ _ _ => true
  | .fmGenerateAerEvent _ _ _ => true
  | .fmTunnelManagementCommand _ _ _ => true
  | .fmSendLdConfigRequest _ _ _ _ => true
  | .fmSendLdMemoryRequest _ _ _ _ => true
  | .fmUnsupportedOpcode _ _ => true
  | .poolChEnable ch => ch < 12
  | .channelTrainingDone ch _ => ch < 12
  | .poolChDisable ch => ch < 12
  | .initStart ch => ch < 12
  | .channelInitDone ch => ch < 12
  | .channelLost ch => ch < 12
  | .poolGrpEnable g _ => g < 16
  | .poolGrpDisable g _ => g < 16
  | .poolOpen => true
  | .poolClose => true
  | .dramReadDone _ _ _ => true
  | .ceLogClear ch => ch < 12
  | .ueLogClear ch => ch < 12
  | .scrubRead ch _ _ => ch < 12
  | .sheetSelectWrite _ => true
  | .homeRds ch => ch < 12
  | .homeRde ch => ch < 12
  | .homeRdnc ch => ch < 12
  | .homeWrnc ch => ch < 12
  | .homeEvd ch => ch < 12
  | .homeEvc ch => ch < 12
  | .homeAtom ch => ch < 12
  | .biResponse _ sharer _ _ => sharer < 128
  | .biconflictReceived _ sharer => sharer < 128
  | .snoopTimeout _ sharer => sharer < 128
  | .directoryWalkDone t => t < 16
  | .dirLogClear => true
  | .trackerPeakClear => true
  | .debugAccess _ _ _ _ _ => true
  | .deckleLogClear => true
  | .ringDoorbell _ c r _ => c < 18 && r < 4
  | .ringEntryFetch c _ _ => c < 18
  | .cqHeadWrite c _ => c < 18
  | .completionRingRoom c => c < 18
  | .ctxStateRead c => c < 18
  | .ctxResumeWrite c _ => c < 18
  | .haltRequest c => c < 18
  | .contextRegisterWrite c _ => c < 18
  | .programStoreWrite _ _ _ => true
  | .undefinedOpcode c _ _ => c < 18
  | .nop c _ => c < 18
  | .halt c _ => c < 18
  | .jump c _ => c < 18
  | .br c _ => c < 18
  | .call c _ => c < 18
  | .ret c _ => c < 18
  | .waitev c _ => c < 18
  | .waitSatisfied c => c < 18
  | .signal c _ => c < 18
  | .signalMask c _ => c < 18
  | .fence c _ => c < 18
  | .yield c _ => c < 18
  | .movi c _ => c < 18
  | .mov c _ => c < 18
  | .add c _ => c < 18
  | .sub c _ => c < 18
  | .mul c _ => c < 18
  | .mulhu c _ => c < 18
  | .divu c _ => c < 18
  | .remu c _ => c < 18
  | .and c _ => c < 18
  | .or c _ => c < 18
  | .xor c _ => c < 18
  | .shl c _ => c < 18
  | .shr c _ => c < 18
  | .sar c _ => c < 18
  | .cmp c _ => c < 18
  | .tst c _ => c < 18
  | .min c _ => c < 18
  | .max c _ => c < 18
  | .clz c _ => c < 18
  | .popc c _ => c < 18
  | .bfx c _ => c < 18
  | .bfi c _ => c < 18
  | .ld c _ => c < 18
  | .loadDataReturn c => c < 18
  | .st c _ => c < 18
  | .ldc c _ => c < 18
  | .stc c _ => c < 18
  | .atom c _ => c < 18
  | .bind c _ => c < 18
  | .unbind c _ => c < 18
  | .routeEntry c _ => c < 18
  | .routeMembers c _ => c < 18
  | .routeBuckets c _ => c < 18
  | .routeSeed c _ => c < 18
  | .routeHash c _ => c < 18
  | .routeRead c _ => c < 18
  | .mcastHeader c _ => c < 18
  | .mcastMember c _ => c < 18
  | .mcastState c _ => c < 18
  | .mcastFree c _ => c < 18
  | .mcastOwner c _ => c < 18
  | .mcastRead c _ => c < 18
  | .deckleWrite c _ => c < 18
  | .deckleInvalidate c _ => c < 18
  | .deckleSetLock c _ => c < 18
  | .sheetGrant c _ => c < 18
  | .sheetFree c _ => c < 18
  | .sheetAttach c _ => c < 18
  | .sheetActivate c _ => c < 18
  | .sheetSwap c _ => c < 18
  | .sheetDetach c _ => c < 18
  | .sheetRetire c _ => c < 18
  | .sheetReam c _ => c < 18
  | .sheetQuery c _ => c < 18
  | .mirrorEnable c _ => c < 18
  | .mirrorDisable c _ => c < 18
  | .mirrorReadLost c _ => c < 18
  | .meterConfigure c _ => c < 18
  | .meterBind c _ => c < 18
  | .meterRead c _ => c < 18
  | .shapeShaper c _ => c < 18
  | .shapePriority c _ => c < 18
  | .shapeQuantum c _ => c < 18
  | .cadenceConfigure c _ => c < 18
  | .cadenceWindow c _ => c < 18
  | .cadenceEnable c _ => c < 18
  | .cadenceDisable c _ => c < 18
  | .copy c _ => c < 18
  | .gather c _ => c < 18
  | .reshape c _ => c < 18
  | .fill c _ => c < 18
  | .mvstat c _ => c < 18
  | .mvpause c _ => c < 18
  | .mvabort c _ => c < 18
  | .mvresume c _ => c < 18
  | .moveTransfer ch => ch < 72
  | .moveEnd ch => ch < 72
  | .time c _ => c < 18
  | .atWait c _ => c < 18
  | .atArm c _ => c < 18
  | .atTimerExpiry c => c < 18
  | .waitframe c _ => c < 18
  | .waitframeTimeout c => c < 18
  | .takeadd c _ => c < 18
  | .takearm c _ => c < 18
  | .takedrop c _ => c < 18
  | .slotOn c _ => c < 18
  | .slotOff c _ => c < 18
  | .slotClear c _ => c < 18
  | .slotDeclare c _ => c < 18
  | .slotStatus c _ => c < 18
  | .budgetCap c _ => c < 18
  | .budgetLimit c _ => c < 18
  | .budgetRead c _ => c < 18
  | .paceTarget c _ => c < 18
  | .paceLoop c _ => c < 18
  | .paceReadStatus c _ => c < 18
  | .paceReadVcore c _ => c < 18
  | .snapFreeze c _ => c < 18
  | .snapRelease c _ => c < 18
  | .count c _ => c < 18
  | .log c _ => c < 18
  | .tenantCreate c _ => c < 18
  | .tenantRemove c _ => c < 18
  | .tenantTimeout c _ => c < 18
  | .tenantCounterRead c _ => c < 18
  | .resetuPort c _ => c < 18
  | .resetuQuire c _ => c < 18
  | .resetuTenant c _ => c < 18
  | .resetuPoolChannel c _ => c < 18
  | .resetuSlot c _ => c < 18
  | .resetuContext c _ => c < 18
  | .resetuMoverChannel c _ => c < 18
  | .resetuCommandPort c _ => c < 18
  | .resetuCoherentDomain c _ => c < 18
  | .unitResetEnd kind index => unitExists kind index
  | .glbHoldWrite i _ => i < 8
  | .couchToSpare c _ => c < 18
  | .couchHome c _ => c < 18
  | .couchHandoverEnd q _ => q < 12
  | .qpeSelfTestEnd q _ => q < 12
  | .lockLifecycle c _ => c < 18
  | .lockRevoke c _ => c < 18
  | .lockSvn c _ => c < 18
  | .lockFuseKey c _ => c < 18
  | .image c _ => c < 18
  | .resume c _ => c < 18
  | .timePpsEdge _ => true
  | .ppsLossTimeout => true
  | .setNow => true
  | .setAtPps => true
  | .timeModeWrite _ => true
  | .timeAdjWrite _ => true
  | .frameRefEdge r _ => r < 4
  | .frameEdgeMissing r => r < 4
  | .frameRefEnable r _ => r < 4
  | .frameRefDisable r => r < 4
  | .frameOutPulse o => o < 2
  | .takePrepared s => s < 64
  | .takeReadinessPoint s => s < 64
  | .takeApplication sets => sets.all (fun s => s < 64)
  | .takeCommitWrite s => s < 64
  | .uncorrectableMemoryError _ _ _ => true
  | .correctableMemoryError _ _ _ _ _ => true
  | .stkModeWrite _ => true
  | .domainKeyWrite _ => true
  | .keyLockWrite => true
  | .msgJoin p _ => p < 96
  | .msgJoinAck p _ => p < 96
  | .msgBlock p _ => p < 96
  | .msgResult p _ => p < 96
  | .msgHeartbeat p _ => p < 96
  | .msgTime p _ => p < 96
  | .msgTakeReady p _ => p < 96
  | .msgTakeCommit p _ => p < 96
  | .msgTakeDone p _ => p < 96
  | .msgTakeover p _ => p < 96
  | .msgViral p _ => p < 96
  | .msgGateway p _ => p < 96
  | .gatewayRepeat p => p < 96
  | .gatewayTimeout p => p < 96
  | .heartbeatSend => true
  | .heartbeatLoss => true
  | .timeDistribution => true
  | .promoteWrite => true
  | .stkProxyWrite i _ => i < 512
  | .leafData p _ => p < 96
  | .leafIdle p _ => p < 96
  | .leafNak p _ => p < 96
  | .leafMgmt p _ => p < 96
  | .leafInit p _ => p < 96
  | .leafTransmit p => p < 96
  | .replayTimerExpiry p => p < 96
  | .iflRecoveryExit p => p < 96
  | .iflLinkDownTimeout p => p < 96
  | .symbolLockLoss p lane => p < 96 && lane < 16
  | .refclkLoss die => die < 4
  | .refclkRestored die => die < 4
  | .adaptationBurst q => q < 12
  | .adaptationBurstEnd q => q < 12
  | .patternStart p _ => p < 96
  | .patternStop p => p < 96
  | .marginStart p _ => p < 96
  | .marginDone p _ _ _ _ _ => p < 96
  | .partnerMarginCommand p lane _ => p < 96 && lane < 16
  | .presenceChange s _ _ => s < 32
  | .seatedQualified s => s < 32
  | .seatingLost s => s < 32
  | .slotBudgetGrant => true
  | .powerGoodQualified s => s < 32
  | .perstReleaseTimer s => s < 32
  | .rampTimeout s => s < 32
  | .fastTrip s => s < 32
  | .breakerThresholdCross s _ => s < 32
  | .breakerExpiry s => s < 32
  | .backoffEnd s => s < 32
  | .retryCountReset s => s < 32
  | .slotGrantRelease s => s < 32
  | .vinWarn s => s < 32
  | .warnRelease s => s < 32
  | .pwrfailInAssert _ => true
  | .vinUndervoltage s => s < 32
  | .vinRestored s => s < 32
  | .passDeviceFailure s => s < 32
  | .controlExchangeLoss => true
  | .controlExchangeResume => true
  | .budgetEvaluation => true
  | .capUnmet => true
  | .trainingBurstGrant => true
  | .thermalCapStep => true
  | .tempRefresh temps => temps.length = 9
  | .thermtrip sensor => sensor < 9
  | .avsWriteFailure => true
  | .cmdLinkTrained link _ _ => link < 2
  | .perstAssert link => link < 2
  | .barAccess link bar _ _ _ => link < 2 && (bar == 0 || bar == 2 || bar == 4)
  | .handover link => link < 2
  | .claim link => link < 2
  | .autoFailover => true
  | .mctpControlMessage _ _ => true
  | .pldmMessage _ _ => true
  | .mctpOtherType _ => true
  | .dynamicAddressAssign _ _ => true
  | .imageReadDone _ _ _ _ => true
  | .imageVerifyDone _ => true
  | .bootGo => true
  | .resetNAssert => true
  | .deviceResetRelease _ => true
  | .brownout _ => true
  | .counterFreezeWrite => true
  | .counterReleaseWrite => true
  | .shadowCopyEnd => true
  | .selectorWrite n _ => n < 512
  | .unitLogClear _ => true
  | .glbLockWrite _ => true
  | .histSelectWrite _ => true
  | .rgrpSelectWrite _ => true
  | .ecmpSelectWrite _ => true
  | .meterSelectWrite q _ => q < 12
  | .tapReset => true
  | .tapBypass => true
  | .tapIdcode => true
  | .tapSamplePreload _ => true
  | .tapExtest => true
  | .tapClamp => true
  | .tapHighz => true
  | .powerUp => true
  | .supplyLoss _ => true
  | .linkRecoveryExit p => p < 96
  | .patternCheckerSync p lane _ => p < 96 && lane < 16
  | .malformedLeaf p _ => p < 96
  | .perstDeassert link => link < 2
  | .commandLinkHotReset link => link < 2
  | .breakerArmed s => s < 32
  | .dramWriteAccepted _ _ => true
  | .fuseWriteDone => true

end Sys2Proof
end

