-- ==== Sys2Proof/Certificates/Slice0/Obligations.lean ====
section
/-!
DEFINITION. Statements for the provers.
-/

open Sys2Proof Sys2Proof.Machine Sys2Proof.Safety

/-- A step takes the command at the front of the queue: it is that command's effect with the rest of the queue. It rests on choices of the
model: log entries 1, 12. -/
def Obligations.StepTakesFront : Prop :=
  ∀ (c : Instr) (s : State) (l : List Instr), step { s with pending := c :: l } = exec c { s with pending := l }

/-- On an empty queue the housekeeping clock ticks, and nothing else changes: the monotonic count gains 4 ns, fabric time 4 ns and what
the carried fraction of the rate offset passes, and a device in reset does not count (R279, R280). That the tick is the step of an empty
queue is the model's choice (notes/assumptions/2.md). -/
def Obligations.EmptyQueueTicks : Prop :=
  ∀ s : State, s.pending = [] →
    (s.glb.inReset = true → step s = .next s) ∧
    (s.glb.inReset = false → ∃ t, step s = .next t ∧ onlyIn [.time] s t ∧ t.time.mono = s.time.mono + 4 ∧
      t.time.fab = s.time.fab + BitVec.ofInt 64 (4 + (s.time.frac + 4 * s.time.adj) / 1000000000) ∧
      t.time.frac = (s.time.frac + 4 * s.time.adj) % 1000000000 ∧ t.time = { s.time with mono := t.time.mono, fab := t.time.fab, frac := t.time.frac })

/-- What reset leaves (R435, Table RST-5): ports disabled, S0 and S1 on and every other context off, no tenant, the pool closed with its
channels off, no group and no sheet, empty directory, deckles, routes, groups, sessions, meters, schedules and take sets, slots off with
no budget, the device cap 1,650 and VDD_CORE at 800 mV with the loop off, both times at 0 in free-run, frame outputs and references
disabled, generation tags 0, and no counter, log or hold. It rests on choices of the model: log entry 3. -/
def Obligations.ResetValues : Prop :=
  let r := State.reset
  (∀ p, (getPort r p).enabled = false ∧ (getPort r p).link = .off ∧ (getPort r p).genTag = 0) ∧
  (∀ c, (getCtx r c).enable = decide (c < 2) ∧ (getCtx r c).st = (if c < 2 then .idle else .off) ∧ (getCtx r c).genTag = 0) ∧
  (∀ i, (getTen r i).exist = false) ∧
  (r.pool.opened = false ∧ (∀ ch, (getChan r ch).st = .off ∧ (getChan r ch).enable = false) ∧ (∀ g, (getGrp r g).enable = false) ∧ ∀ n, getSheet r n = 0) ∧
  (∀ k, (getDir r k).valid = false) ∧ (∀ i, (getDkl r i).w0 = 0 ∧ (getDkl r i).w1 = 0) ∧
  (∀ q, (getQuire r q).route = [] ∧ (∀ m, (getMeter r q m).w0 = 0) ∧ (getQuire r q).genTag = 0) ∧
  (r.core.rgrp = [] ∧ r.core.mirror = [] ∧ r.core.cad = [] ∧ r.time.take = []) ∧
  (∀ n, (getSlot r n).st = .off ∧ (getSlot r n).genTag = 0) ∧ limitOf r 6 = 0 ∧
  (r.pwr.cap = 1650 ∧ r.pwr.vcore = 800 ∧ r.pwr.loopEn = false) ∧
  (r.time.mono = 0 ∧ r.time.fab = 0 ∧ r.time.mode = 0 ∧ r.time.ref = [] ∧ r.time.fout = []) ∧
  (r.cnt.bank = [] ∧ r.cnt.logs = [] ∧ r.glb.hold = []) ∧ r.pending = []

/-- The machine right after reset keeps the invariant: canonical memories and deckles that do not overlap. It rests on choices of the
model: log entry 10. -/
def Obligations.ResetKeepsTheForms : Prop :=
  Inv State.reset

/-- Every step keeps the invariant: the DRAM contents and the program store stay in canonical form, and no two valid deckles with the same
space, steward bit, tenant and destination come to overlap (R196). It rests on choices of the model: log entry 10. -/
def Obligations.StepKeepsTheForms : Prop :=
  ∀ s t : State, Inv s → step s = .next t → Inv t

/-- No command changes the queue: a step only takes its front. -/
def Obligations.CommandsLeaveTheQueue : Prop :=
  (∀ (i : Instr) (s t : State), exec i s = .next t → t.pending = s.pending) ∧
  ∀ s t : State, step s = .next t → t.pending = s.pending.drop 1

/-- Fuses are one-way (R210): no step makes a valid key invalid, takes a revocation back, lowers the security version or changes the
serial number, the grade or the stepping. It rests on choices of the model: log entry 8. -/
def Obligations.FusesAreOneWay : Prop :=
  ∀ s t : State, step s = .next t → FusesKept s t

/-- A command that names units the KF96 has completes in every state, and one that does not stops in every state with the fault
noSuchUnit: no command is refused. It rests on choices of the model: log entry 1. -/
def Obligations.CommandsComplete : Prop :=
  ∀ (i : Instr) (s : State), (i.wf = true → ∃ t, exec i s = .next t) ∧ (i.wf = false → exec i s = .fault .noSuchUnit)

/-- A command changes no part of the machine but those that `touches` lists for it: ports, contexts' registers and flags, memories,
tables, counters and all else are as before. It rests on choices of the model: log entry 1. -/
def Obligations.CommandsTouchOnly : Prop :=
  ∀ (i : Instr) (s t : State), exec i s = .next t → onlyIn (touches i) s t

/-- What the device has sent out is never taken back, and serial numbers and free values are never used again: `out` grows at its end, and
the two counters of the model never fall. These are the model's own fields (notes/assumptions/11.md). It rests on choices of the model:
log entries 6, 11. -/
def Obligations.EmissionsOnlyGrow : Prop :=
  ∀ s t : State, step s = .next t → (∃ l, t.out = s.out ++ l) ∧ s.fresh ≤ t.fresh ∧ s.nextId ≤ t.nextId

/-- A lock bit clears only through a device reset (R205): a step keeps every locked entry as it is, or leaves the device in reset with the
deckle table empty, the program store zeroed and every pool channel off, so that no line is readable before it is initialised. A device
reset and the entry into Returned do so; a reset of a unit leaves the table. -/
def Obligations.LocksOutlastAllButReset : Prop :=
  let erased := fun t : State => t.glb.inReset = true ∧ t.dkl.tab = [] ∧ t.seq.ps = [] ∧ ∀ ch, (getChan t ch).st = .off
  (∀ s t : State, step s = .next t → locksKept s t ∨ erased t) ∧
  (∀ s : State, s.glb.inReset = false → ∃ t, exec .resetNAssert s = .next t ∧ erased t) ∧
  (∀ (s : State) c, s.glb.inReset = false → s.glb.fuse = some (c, .life .returned) → ∃ t, exec .fuseWriteDone s = .next t ∧
    t.glb.life = .returned ∧ erased t) ∧
  (∀ (s t : State) (i : Instr) c w, i = .resetuPort c w ∨ i = .resetuQuire c w ∨ i = .resetuTenant c w ∨ i = .resetuPoolChannel c w ∨
    i = .resetuSlot c w ∨ i = .resetuContext c w ∨ i = .resetuMoverChannel c w ∨ i = .resetuCommandPort c w ∨ i = .resetuCoherentDomain c w →
    exec i s = .next t → t.dkl.tab = s.dkl.tab)

/-- The directory's sets and tags (R172). -/
def Obligations.DirectorySetAndTag : Prop :=
  (∀ line : BitVec 37,
    let L := line.toNat
    dirSet L < 524288 ∧ dirSet L = ((line.extractLsb' 0 19).toNat ^^^ (line.extractLsb' 19 18).toNat) ∧
    (ways L).length = 16 ∧ (ways L).Nodup ∧ ∀ k, k ∈ ways L ↔ k / 16 = dirSet L) ∧
  (∀ (s : State) (line : BitVec 37) k, dirFind s line.toNat = some k →
    k ∈ ways line.toNat ∧ (getDir s k).tag = (line.extractLsb' 19 18).toNat ∧ dirLine k (getDir s k) = line.toNat) ∧
  (∀ l m : BitVec 37, dirSet l.toNat = dirSet m.toNat → l.extractLsb' 19 18 = m.extractLsb' 19 18 → l = m)

/-- 64-bit quantities in pairs (R6). A write of the low half changes no value: it waits for the high half of the same master, whose write
takes effect with both halves. A read of the low half latches the high half, and the next read of the high half by that master returns
what was latched, whatever has happened to the register since. -/
def Obligations.PairHalvesAreWhole : Prop :=
  ∀ (s : State) (m : Master) (a : Nat) (v w : W32) (p : W64), a % 4 = 0 → a < 2 ^ 24 → pairVal s a = some p →
    (csrGate s m a true = .serve → inWindow a = false → noTenant s a = false → owned a = false → (stwOnly a = true → masterStw m = true) →
      ringLocked s a = false → ∃ t, exec (.regWriteGeneral m a v) s = .next t ∧ onlyIn [.pairLo] s t ∧ latchGet t.pairLo m a = some v) ∧
    (latchGet s.pairLo m a = some v → csrGate s m (a + 4) true = .serve → inWindow (a + 4) = false → noTenant s (a + 4) = false →
      owned (a + 4) = false → (stwOnly (a + 4) = true → masterStw m = true) → ringLocked s (a + 4) = false → pairVal s (a + 4) = none → a + 8 ≤ 2 ^ 24 →
      exec (.pairHighWrite m (a + 4) w) s = .next (pairWrite { s with pairLo := latchDel s.pairLo m a } a (w ++ v))) ∧
    (csrGate s m a false = .serve → inWindow a = false → ∃ t, exec (.pairLowRead m a) s = .next t ∧ onlyIn [.pairHi, .out] s t ∧
      t.out = s.out ++ [.csrRead m a (p.extractLsb' 0 32)] ∧ latchGet t.pairHi m a = some (p.extractLsb' 32 32)) ∧
    (∀ h, latchGet s.pairHi m a = some h → csrGate s m (a + 4) false = .serve → inWindow (a + 4) = false → pairVal s (a + 4) = none →
      ∃ t, busRead s m (a + 4) = (some h, t) ∧ onlyIn [.pairHi] s t)

/-- Two registers share context block + 0x10 (R454): a write reaches SEQ_CTX_KSEL and no other register of a context, and a read returns
SEQ_CTX_EVP and changes nothing. -/
def Obligations.SelectorAndPendingShare : Prop :=
  ∀ (s : State) (m : Master) (c : Nat) (v : W32), c < 18 →
    let a := 0x51000 + c * 0x100 + 0x10
    (csrGate s m a true = .serve → ∃ t, exec (.regWriteGeneral m a v) s = .next t ∧ onlyIn [.seq] s t ∧
      getCtx t c = { getCtx s c with ksel := fld v 0 5 } ∧ ∀ j, j ≠ c → getCtx t j = getCtx s j) ∧
    (csrGate s m a false = .serve → busRead s m a = (some (getCtx s c).evp, s)) ∧
    (∀ l b, m = linkMaster l → l < 2 → linkLive s l = true → b.length = 4 → csrGate s m a false = .serve →
      exec (.barAccess l 0 a false b) s = .next { s with out := s.out ++ [.barData l (natLe 4 (getCtx s c).evp.toNat)] })

/-- The arithmetic and logic instructions with /f: the result in kd and, with /f, the flags of R239. The shifts, for an amount of 0 to 63:
the result in kd and, with /f, C the last bit shifted out. A larger amount faults with OPERAND and writes no register. -/
def Obligations.ArithmeticLogicAndShifts : Prop :=
 (∀ (s : State) (c : Nat) (w : Ox),
    let a := kget (getCtx s c) w.a
    let b := src2 (getCtx s c) w
    let done := fun (i : Instr) (r : W64) (cf vf : Prop) =>
      ∃ t, exec i s = .next t ∧ Wrote s t c w.d r ∧ flagsIf s t c (bit w.mod 0) r cf vf
    (Issues s c 0x12 w (srcShape w 1 true) → done (.add c w) (a + b) (2 ^ 64 ≤ a.toNat + b.toNat) (¬fits (a.toInt + b.toInt))) ∧
    (Issues s c 0x13 w (srcShape w 1 true) → done (.sub c w) (a - b) (b.toNat ≤ a.toNat) (¬fits (a.toInt - b.toInt))) ∧
    (Issues s c 0x14 w (srcShape w 1 true) → done (.mul c w) (a * b) (2 ^ 64 ≤ a.toNat * b.toNat) (¬fits (a.toInt * b.toInt))) ∧
    (Issues s c 0x16 w (srcShape w 1 true) →
      done (.divu c w) (if b = 0 then BitVec.allOnes 64 else a / b) False (b = 0)) ∧
    (Issues s c 0x17 w (srcShape w 1 true) → done (.remu c w) (a % b) False (b = 0)) ∧
    (Issues s c 0x18 w (srcShape w 1 true) → done (.and c w) (a &&& b) False False) ∧
    (Issues s c 0x19 w (srcShape w 1 true) → done (.or c w) (a ||| b) False False) ∧
    (Issues s c 0x1A w (srcShape w 1 true) → done (.xor c w) (a ^^^ b) False False)) ∧
 (∀ (s : State) (c : Nat) (w : Ox),
    let a := kget (getCtx s c) w.a
    let n := (src2 (getCtx s c) w).toNat
    let done := fun (i : Instr) (r : W64) (cf : Prop) =>
      (n < 64 → ∃ t, exec i s = .next t ∧ Wrote s t c w.d r ∧ flagsIf s t c (bit w.mod 0) r cf False) ∧
      (63 < n → ∃ t, exec i s = .next t ∧ (getCtx t c).st = .faulted ∧ (getCtx t c).fault = 0x11 ∧
        ∀ j k, kget (getCtx t j) k = kget (getCtx s j) k)
    (Issues s c 0x1B w (srcShape w 1 true) → done (.shl c w) (a <<< n) (n ≠ 0 ∧ a.getLsbD (64 - n) = true)) ∧
    (Issues s c 0x1C w (srcShape w 1 true) → done (.shr c w) (a >>> n) (n ≠ 0 ∧ a.getLsbD (n - 1) = true)) ∧
    (Issues s c 0x1D w (srcShape w 1 true) → done (.sar c w) (a.sshiftRight n) (n ≠ 0 ∧ a.getLsbD (n - 1) = true)))

/-- CMP and TST set the flags from k[a] - s and k[a] AND s and write no register. The instructions that write kd and leave every flag:
moves, the high product, the lesser and greater of two values, bit counts and bit fields. -/
def Obligations.ComparesMovesAndBitFields : Prop :=
 (∀ (s : State) (c : Nat) (w : Ox),
    let a := kget (getCtx s c) w.a
    let b := src2 (getCtx s c) w
    (Issues s c 0x1E w (srcShape w 0 false) → ∃ t, exec (.cmp c w) s = .next t ∧ Retired s t c ∧
      flagsIf s t c true (a - b) (b.toNat ≤ a.toNat) (¬fits (a.toInt - b.toInt))) ∧
    (Issues s c 0x1F w (srcShape w 0 false) → ∃ t, exec (.tst c w) s = .next t ∧ Retired s t c ∧
      flagsIf s t c true (a &&& b) False False)) ∧
 (∀ (s : State) (c : Nat) (w : Ox),
    let a := kget (getCtx s c) w.a
    let b := src2 (getCtx s c) w
    let pos := fld w.imm 0 6
    let width := fld w.imm 8 7
    let done := fun (i : Instr) (p : W64 → Prop) => ∃ t v, exec i s = .next t ∧ Wrote s t c w.d v ∧ flagsKept s t ∧ p v
    (Issues s c 0x10 w { d := true, B := 2 ^ 64 - 1 } → done (.movi c w) (· = w.B)) ∧
    (Issues s c 0x11 w { d := true, a := true } → done (.mov c w) (· = a)) ∧
    (Issues s c 0x15 w (srcShape w 0 true) → done (.mulhu c w) fun v => v.toNat = a.toNat * b.toNat / 2 ^ 64) ∧
    (Issues s c 0x20 w (srcShape w 1 true) → done (.min c w) fun v => (v = a ∨ v = b) ∧
      if bit w.mod 0 then v.toInt ≤ a.toInt ∧ v.toInt ≤ b.toInt else v.toNat ≤ a.toNat ∧ v.toNat ≤ b.toNat) ∧
    (Issues s c 0x21 w (srcShape w 1 true) → done (.max c w) fun v => (v = a ∨ v = b) ∧
      if bit w.mod 0 then a.toInt ≤ v.toInt ∧ b.toInt ≤ v.toInt else a.toNat ≤ v.toNat ∧ b.toNat ≤ v.toNat) ∧
    (Issues s c 0x22 w { d := true, a := true } → done (.clz c w) fun v =>
      v.toNat ≤ 64 ∧ (∀ i, i < v.toNat → a.getLsbD (63 - i) = false) ∧ (v.toNat < 64 → a.getLsbD (63 - v.toNat) = true)) ∧
    (Issues s c 0x23 w { d := true, a := true } → done (.popc c w) fun v => v.toNat = (List.range 64).countP a.getLsbD) ∧
    (Issues s c 0x24 w { d := true, a := true, imm := 0x7F3F } → width ≠ 0 → pos + width ≤ 64 → done (.bfx c w) fun v =>
      ∀ i, v.getLsbD i = (decide (i < width) && a.getLsbD (pos + i))) ∧
    (Issues s c 0x25 w { d := true, a := true, imm := 0x7F3F } → width ≠ 0 → pos + width ≤ 64 → done (.bfi c w) fun v =>
      ∀ i, v.getLsbD i = if pos ≤ i ∧ i < pos + width then a.getLsbD (i - pos) else (kget (getCtx s c) w.d).getLsbD i))

/-- NOP, YIELD and HALT retire with no register written; YIELD ends the issue turn; HALT enters halted. FENCE retires once no effect its
bits name is open, and waits to issue again until then. An undefined opcode faults with ILLEGAL. JUMP, BR, CALL and RET set the program
counter to their target, count relative targets in 16-byte instructions from the next one, and keep the call stack; they write no register
and no flag. It rests on choices of the model: log entry 42. -/
def Obligations.ControlInstructions : Prop :=
 (∀ (s : State) (c : Nat) (w : Ox),
    let open_ := (bit w.mod 0 = true ∧ (getCtx s c).stores ≠ 0) ∨ (bit w.mod 1 = true ∧ movesOpen s c = true) ∨
      (bit w.mod 2 = true ∧ takesOpen s c = true)
    (Issues s c 0x00 w {} → ∃ t, exec (.nop c w) s = .next t ∧ Retired s t c ∧ flagsKept s t) ∧
    (Issues s c 0x09 w {} → ∃ t, exec (.yield c w) s = .next t ∧ Retired s t c ∧ flagsKept s t ∧
      (t.seq.turn = c → t.seq.left = 0)) ∧
    (Issues s c 0x01 w {} → ∃ t, exec (.halt c w) s = .next t ∧ Retired s t c ∧ flagsKept s t ∧ (getCtx t c).st = .halted) ∧
    (Issues s c 0x08 w { mods := 7 } → ¬open_ → ∃ t, exec (.fence c w) s = .next t ∧ Retired s t c ∧ flagsKept s t) ∧
    (Issues s c 0x08 w { mods := 7 } → open_ → ∃ t, exec (.fence c w) s = .next t ∧ onlyIn [.seq] s t ∧
      same s t .registers ∧ (getCtx t c).st = .waiting ∧ (getCtx t c).wait = .again ∧ (getCtx t c).pc = (getCtx s c).pc) ∧
    (∀ op : BitVec 8, c < 18 → issues s c op.toNat w = true → opDefined op.toNat = false → fetchFault s c = none →
      ∃ t, exec (.undefinedOpcode c op w) s = .next t ∧ (getCtx t c).st = .faulted ∧ (getCtx t c).fault = 0x10 ∧
        same s t .registers)) ∧
 (∀ (s : State) (c : Nat) (w : Ox) (f : Option (Nat × Nat)),
    let x := getCtx s c
    let m := fld w.mod 0 2
    let abs := if m = 2 then (kget x w.a).toNat else w.B.toNat
    let rel := (x.pc.toNat : Int) + 16 + 16 * w.imm.toInt
    let goes := fun (i : Instr) (pc : BitVec 20) (stack : List Frame) => ∃ t, exec i s = .next t ∧ (getCtx t c).pc = pc ∧
      (getCtx t c).stack = stack ∧ same s t .registers ∧ onlyIn [.cmd, .seq, .port, .cnt, .stk, .out, .fresh] s t
    x.run = .prog f →
    (Issues s c 0x02 w { mods := 3, a := m == 2, B := if m == 2 then 0 else 2 ^ 64 - 1 } → bit w.mod 0 = false → abs < 2 ^ 20 →
      abs % 16 = 0 → goes (.jump c w) (BitVec.ofNat 20 abs) x.stack) ∧
    (Issues s c 0x03 w { imm := 2 ^ 32 - 1 } → 0 ≤ rel → rel ≤ 0xFFFF0 →
      goes (.br c w) (BitVec.ofNat 20 rel.toNat) x.stack) ∧
    (Issues s c 0x04 w { mods := 3, a := m == 2, imm := if m = 1 then 2 ^ 32 - 1 else 0, B := if m = 0 then 2 ^ 64 - 1 else 0 } →
      m ≠ 3 → (m = 1 → 0 ≤ rel ∧ rel ≤ 0xFFFF0 ∧ rel % 16 = 0) → (m ≠ 1 → abs < 2 ^ 20 ∧ abs % 16 = 0) → x.stack.length < 16 →
      ∃ fr : Frame, fr.ret = x.pc + 16 ∧
        goes (.call c w) (BitVec.ofNat 20 (if m = 1 then rel.toNat else abs)) (fr :: x.stack)) ∧
    (∀ fr fs, Issues s c 0x05 w {} → x.stack = fr :: fs → (fs ≠ [] ∨ f = none) → goes (.ret c w) fr.ret fs))

/-- Events: WAITEV returns the pending events of its mask and clears them, or waits for one; WAIT_SATISFIED ends the wait; SIGNAL raises a
line in a context that is on; SIGNAL's mask form returns and replaces EVM. -/
def Obligations.EventInstructions : Prop :=
  ∀ (s : State) (c : Nat) (w : Ox),
    let x := getCtx s c
    let m := if bit w.mod 5 then w.imm else (kget x w.b).setWidth 32
    (Issues s c 0x06 w { mods := 0x21, d := true, b := !bit w.mod 5, imm := if bit w.mod 5 then 2 ^ 32 - 1 else 0 } →
      m.toNat < 2 ^ 20 → (m = 0 → bit w.mod 0 = true) → (bit w.mod 5 = false → (kget x w.b).toNat < 2 ^ 32) →
      (bit w.mod 0 = true ∨ x.evp &&& m ≠ 0 → ∃ t, exec (.waitev c w) s = .next t ∧
        Wrote s t c w.d ((x.evp &&& m).setWidth 64) ∧ flagsKept s t ∧ (getCtx t c).evp = x.evp &&& ~~~m) ∧
      (bit w.mod 0 = false ∧ x.evp &&& m = 0 → ∃ t, exec (.waitev c w) s = .next t ∧ (getCtx t c).st = .waiting ∧
        (getCtx t c).wait = .ev m w.d ∧ (getCtx t c).evp = x.evp ∧ same s t .registers)) ∧
    (∀ m d, c < 18 → x.wait = .ev m d → x.st = .waiting → x.evp &&& m ≠ 0 →
      ∃ t, exec (.waitSatisfied c) s = .next t ∧ (∀ i, kget (getCtx t c) i = if d ≠ 0 ∧ i = d then (x.evp &&& m).setWidth 64
        else kget x i) ∧ (getCtx t c).evp = x.evp &&& ~~~m ∧ (∀ j, j ≠ c → ∀ i, kget (getCtx t j) i = kget (getCtx s j) i)) ∧
    (let g := fld w.imm 0 5
     let line := fld w.imm 8 3
     Issues s c 0x07 w { imm := 0x71F } → bit w.mod 0 = false → g < 18 → (c < 2 ∨ g = c ∨ (g = 0 ∧ line = 7)) →
      (getCtx s g).st ≠ .off → (getCtx s g).st ≠ .inReset →
      ∃ t, exec (.signal c w) s = .next t ∧ Retired s t c ∧ flagsKept s t ∧
        (getCtx t g).evp = if bit (getCtx s g).evm line then (getCtx s g).evp ||| (1 <<< line : Nat) else (getCtx s g).evp) ∧
    (Issues s c 0x07 w { mods := 1, d := true, a := true } → bit w.mod 0 = true → (kget x w.a).toNat < 2 ^ 32 →
      ∃ t, exec (.signalMask c w) s = .next t ∧ Wrote s t c w.d (x.evm.setWidth 64) ∧ flagsKept s t ∧
        (getCtx t c).evm = (kget x w.a).setWidth 32 &&& 0x000FFFFF)

/-- LD and ATOM, where the checks and the deckles let them pass: the context waits for the data with no register changed; a pool request,
or a fabric request that a route takes, enters the staging of EN; a program-store read has its data at once. LOAD_DATA_RETURN writes the
data, zero- or sign-extended, to kd, or faults the context with ACCESS on a bad answer. It rests on choices of the model: log entries 21,
34. -/
def Obligations.LoadsAndAtomics : Prop :=
  ∀ (s : State) (c : Nat) (w : Ox),
    let x := getCtx s c
    let a := (kget x w.a + w.imm.signExtend 64).toNat
    (let n := 2 ^ fld w.mod 0 2
     let sp := fld w.mod 3 2
     let m : Msg := { op := if sp = 1 then .ioRd else .uioRd, addr := a, len := n, dstPbr := fld w.B 0 12 }
     Issues s c 0x30 w { mods := 0x1F, d := true, a := true, imm := 2 ^ 32 - 1, B := memB sp } → sp ≠ 3 → a % n = 0 →
     dklLine s (memChk c sp a w true false false) = .pass → (sp = 1 → (fabPkt s (tenOf c) (.load c) m 0).dest ≠ .none) →
     ∃ t, exec (.ld c w) s = .next t ∧ same s t .registers ∧ (getCtx t c).st = .waiting ∧
       (getCtx t c).wait = .load 0x30 w.d (8 * n) (bit w.mod 2) ∧
       (sp ≠ 2 → ∃ p, t.core.pkts = s.core.pkts ++ [p] ∧ p.org = .load c ∧ p.msg = m ∧ p.stage = .staged ∧ p.ten = tenOf c) ∧
       (sp = 2 → t.core = s.core ∧ (psErr s a n = false → (getCtx t c).reply =
         some { data := BitVec.ofNat 64 (leNat (rdBytes s.seq.ps a n)), bad := false }))) ∧
    (let n := if bit w.mod 3 then 8 else 4
     let sp := fld w.mod 4 1
     let k := fld w.mod 0 3
     let kb := natLe n (kget x w.b).toNat
     let m : Msg := { op := if sp = 1 then .ioAtom (atomOp k) n else .uioAtom (atomOp k) n, addr := a, len := n,
                      data := if k = 2 then natLe n (kget x w.d).toNat ++ kb else kb, dstPbr := fld w.B 0 12 }
     Issues s c 0x34 w { mods := 0x1F, d := true, a := true, b := true, imm := 2 ^ 32 - 1, B := memB sp } →
     (sp = 1 → k ≤ 2) → a % n = 0 → dklLine s (memChk c sp a w false false true) = .pass →
     (sp = 1 → (fabPkt s (tenOf c) (.load c) m 0).dest ≠ .none) →
     ∃ t, exec (.atom c w) s = .next t ∧ same s t .registers ∧ (getCtx t c).st = .waiting ∧
       (getCtx t c).wait = .load 0x34 w.d (8 * n) false ∧
       ∃ p, t.core.pkts = s.core.pkts ++ [p] ∧ p.org = .load c ∧ p.msg = m ∧ p.stage = .staged ∧ p.ten = tenOf c) ∧
    (∀ r op d n sext, c < 18 → x.reply = some r → x.wait = .load op d n sext →
      (r.bad = false → ∃ t, exec (.loadDataReturn c) s = .next t ∧ (getCtx t c).wait = .none ∧
        (∀ j i, kget (getCtx t j) i = if j = c ∧ d ≠ 0 ∧ i = d then
          (if sext then BitVec.ofInt 64 (signed n (r.data.toNat % 2 ^ n)) else BitVec.ofNat 64 (r.data.toNat % 2 ^ n))
          else kget (getCtx s j) i)) ∧
      (r.bad = true → ∃ t, exec (.loadDataReturn c) s = .next t ∧ (getCtx t c).st = .faulted ∧ (getCtx t c).fault = 0x14 ∧
        same s t .registers))

/-- ST retires with no register written; its request enters the staging of EN and counts as outstanding, or its bytes are in the program
store. LDC waits for the register words its context's access reads; STC retires after the writes its context's access makes, low half
first. It rests on choices of the model: log entries 21, 34. -/
def Obligations.StoresAndRegisterAccess : Prop :=
  ∀ (s : State) (c : Nat) (w : Ox),
    let x := getCtx s c
    let a := (kget x w.a + w.imm.signExtend 64).toNat
    (let n := 2 ^ fld w.mod 0 2
     let sp := fld w.mod 3 2
     let b := natLe n (kget x w.b).toNat
     let m : Msg := { op := if sp = 1 then .ioWr else .uioWr, addr := a, len := n, data := b, dstPbr := fld w.B 0 12, slots := 16 + n }
     Issues s c 0x31 w { mods := 0x1B, a := true, b := true, imm := 2 ^ 32 - 1, B := memB sp } → sp ≠ 3 → a % n = 0 →
     dklLine s (memChk c sp a w false true false) = .pass → (sp = 1 → (fabPkt s (tenOf c) (.store c) m 0).dest ≠ .none) →
     ∃ t, exec (.st c w) s = .next t ∧ Did [.core, .nextId, .store, .mov] s t c ∧
       (sp ≠ 2 → same s t .store ∧ (getCtx t c).stores = x.stores + 1 ∧
         ∃ p, t.core.pkts = s.core.pkts ++ [p] ∧ p.org = .store c ∧ p.msg = m ∧ p.stage = .staged ∧ p.ten = tenOf c) ∧
       (sp = 2 → t.core = s.core ∧ t.seq.ps = wrBytes s.seq.ps a b)) ∧
    (let two := bit w.mod 0
     let r := csrWords (.ctx c) (if two then 2 else 1) a (begun s c)
     Issues s c 0x32 w { mods := 1, d := true, a := true, imm := 2 ^ 32 - 1 } → a < 2 ^ 24 → a % (if two then 8 else 4) = 0 →
     dklLine s (memChk c 3 a w true false false) = .pass →
     ∃ t, exec (.ldc c w) s = .next t ∧ same s t .registers ∧
       ∃ y, (getCtx t c).reply = some y ∧ y.bad = r.1.isNone ∧ ∀ l, r.1 = some l → y.data = BitVec.ofNat 64 (leNat l)) ∧
    (let v := kget x w.b
     let u := busWrite (begun s c) (.ctx c) a (lo32 v)
     Issues s c 0x33 w { mods := 1, a := true, b := true, imm := 2 ^ 32 - 1 } → a < 2 ^ 24 →
     a % (if bit w.mod 0 then 8 else 4) = 0 → dklLine s (memChk c 3 a w false true false) = .pass →
     ∃ t, exec (.stc c w) s = .next t ∧ After (if bit w.mod 0 then busWrite u (.ctx c) (a + 4) (hi32 v) else u) t c)

/-- A fabric instruction (BIND, UNBIND and every op of ROUTE, MCAST, DECKLE, SHEET, MIRROR, METER, SHAPE and CADENCE: `fabForm`; of ROUTE
the rows ROUTE_ENTRY, ROUTE_MEMBERS, ROUTE_BUCKETS, ROUTE_SEED, ROUTE_HASH and ROUTE_READ) whose take bit is set is staged: its op, words
and operand values join the items of the take set its context stages into, and nothing of the fabric changes. An op marked read cannot be
staged. A direct fabric instruction that answers CLAIMED or ABSENT retires without effect, but for the log entry and event of a locked
deckle. -/
def Obligations.FabricItemsStagedOrRefused : Prop :=
 (∀ (i : Instr) (s : State) (c op sub : Nat) (w : Ox) (k : Nat), FabIssues i s c op sub w true → fabRead op sub = false →
    (getCtx s c).staging = some k → (getTake s k).owner = c → (getTake s k).st = .staging → (getTake s k).items.length < 1024 →
    itemsHeld s < 4096 →
    ∃ t, exec i s = .next t ∧ Did [.time] s t c ∧ (∀ j, j ≠ k → getTake t j = getTake s j) ∧
      getTake t k = { getTake s k with items := (getTake s k).items ++
        [{ op := BitVec.ofNat 8 op, w := w, ka := kget (getCtx s c) w.a, kb := kget (getCtx s c) w.b, c := c }] }) ∧
 (∀ (i : Instr) (s : State) (c op sub : Nat) (w : Ox), FabIssues i s c op sub w false → fabTakeOnly op sub = false →
    (fabApply (begun s c) c op w.imm w.B (kget (getCtx s c) w.a) (kget (getCtx s c) w.b)).st ≠ 0 →
    ∃ t, exec i s = .next t ∧ Did [.dkl] s t c ∧ same s t .deckles ∧ (op ≠ 0x44 → same s t .dkl))

/-- BIND places a host, device, LD or remote PBR ID behind a vPPB and registers the sharer it brings, or registers a sharer alone; kd says
which. UNBIND takes back what a BIND of its kind made, with the sharer and the fabric deckles toward it. It rests on choices of the model:
log entry 45. -/
def Obligations.BindAndUnbind : Prop :=
  ∀ (s : State) (c : Nat) (w : Ox),
    let a := bindArg w.imm w.B
    let x := getTen s a.ten
    let b := (getVppb s a.ten a.v).bind
    (FabIssues (.bind c w) s c 0x40 0 w false → x.exist = true → (a.kind ≠ 4 → b = .none ∧ vppbsUsed s < 256) →
      secondCache s a = false → (a.kind = 4 → sharerPbr s a.ten a.pbr = none) →
      (a.kind < 2 → isEdge (getPort s a.port) = true → cfgTen (getPort s a.port) = a.ten) →
      (a.kind < 3 → devFits (getPort s a.port) a = true) →
      (∀ e, bindSharer s a = some e → ∃ k, freeSharer s a.ten = some k) →
      ∃ t, exec (.bind c w) s = .next t ∧
        (∀ t' v, (getVppb t t' v).bind = if t' = a.ten ∧ v = a.v ∧ a.kind ≠ 4 then bindOf a else (getVppb s t' v).bind) ∧
        (bindSharer s a = none → Gave [.ten, .time] s t c w.d (pack64 [(8, a.v), (0, 0x7F)]) ∧
          ∀ t', (getTen t t').sharer = (getTen s t').sharer) ∧
        (∀ p r k, bindSharer s a = some (p, r) → freeSharer s a.ten = some k →
          Gave [.ten, .time] s t c w.d (pack64 [(8, a.v), (0, k)]) ∧
          ∀ t' j, tget {} (getTen t t').sharer j = if t' = a.ten ∧ j = k then { valid := true, port := p, pbr := r }
            else tget {} (getTen s t').sharer j)) ∧
    (FabIssues (.unbind c w) s c 0x41 0 w false → a.kind = 4 → x.exist = true → (tget {} x.sharer a.port).valid = true →
      sharerHeld s a.ten a.port = false →
      ∃ t, exec (.unbind c w) s = .next t ∧ Did [.ten, .dkl, .deckles, .time] s t c ∧ same s t .dkl ∧
        ∀ t' j, tget {} (getTen t t').sharer j = if t' = a.ten ∧ j = a.port then {} else tget {} (getTen s t').sharer j) ∧
    (FabIssues (.unbind c w) s c 0x41 0 w false → a.kind ≠ 4 → x.exist = true → bindKind b = some a.kind →
      let r := (bindPbr s b).getD 4096
      (∀ k, sharerHeld s a.ten k = false) → (∀ k ∈ fabDeckles s a.ten r, (getDkl s k).locked = false) →
      ∃ t, exec (.unbind c w) s = .next t ∧ Did [.ten, .dkl, .deckles, .time] s t c ∧ (getVppb t a.ten a.v).bind = .none ∧
        (∀ t' v, t' ≠ a.ten ∨ v ≠ a.v → (getVppb t t' v).bind = (getVppb s t' v).bind) ∧
        (∀ k, getDkl t k = if k ∈ fabDeckles s a.ten r then {} else getDkl s k))

/-- ROUTE: an entry is written in the route table of every quire its mask names; the members of an equal-cost group become the listed
stack and gateway ports; a read returns an entry. What buckets, the seed and the hash items change when a take applies them. It rests on
choices of the model: log entry 46. -/
def Obligations.RouteInstructions : Prop :=
  ∀ (s : State) (c : Nat) (w : Ox),
    let g := fld w.imm 16 6
    let ms := (List.range (fld w.B 56 4)).map fun i => fld w.B (7 * i) 7
    (FabIssues (.routeEntry c w) s c 0x42 0 w false →
      ∃ t, exec (.routeEntry c w) s = .next t ∧ Did [.quire, .time] s t c ∧
        ∀ q id, routeOf t q id = if q < 12 ∧ bit w.imm q = true ∧ id = fld w.imm 16 12 then lo32 w.B else routeOf s q id) ∧
    (FabIssues (.routeMembers c w) s c 0x42 1 w false →
      (∀ p ∈ ms, roleOf (getPort s p) = 3 ∨ roleOf (getPort s p) = 4) →
      ∃ t, exec (.routeMembers c w) s = .next t ∧ Did [.core, .time] s t c ∧
        ∀ h, getEcmp t h = if h = g then { getEcmp s g with members := ms } else getEcmp s h) ∧
    (FabIssues (.routeRead c w) s c 0x42 5 w false →
      ∃ t, exec (.routeRead c w) s = .next t ∧
        Gave [.time] s t c w.d ((routeOf s (fld w.imm 0 4) (fld w.imm 16 12)).setWidth 64)) ∧
    (∀ ka kb, fld w.imm 28 4 = 2 → (∀ i, i < 64 → bucketAt w.B ka kb i < (getEcmp s g).members.length) →
      (fabApply s c 0x42 w.imm w.B ka kb).st = 0 ∧
        (getEcmp (fabApply s c 0x42 w.imm w.B ka kb).s g).buckets = (List.range 64).map (bucketAt w.B ka kb)) ∧
    (∀ ka kb, fld w.imm 28 4 = 3 → (fabApply s c 0x42 w.imm w.B ka kb).s.core.hashSeed = lo32 w.B) ∧
    (∀ ka kb, fld w.imm 28 4 = 4 → (fabApply s c 0x42 w.imm w.B ka kb).s.core.hashShift = fld w.B 0 6 ∧
      (fabApply s c 0x42 w.imm w.B ka kb).s.core.hashAddrEn = bit w.B 31)

/-- MCAST: header, member, member state, free, partition owner and read, where the group is not a virtual switch's. It rests on choices of
the model: log entry 46. -/
def Obligations.MulticastInstructions : Prop :=
  ∀ (s : State) (c : Nat) (w : Ox),
    let g := fld w.imm 0 10
    let m := fld w.imm 16 4
    let x := getRgrp s g
    let st := memState x m
    let n := fld w.B 62 2
    let plain := (rgValid x.header && rgKind1 x.header) = false
    let sets := fun (i : Instr) (x' : Rgrp) => ∃ t, exec i s = .next t ∧ Did [.core, .time] s t c ∧
      ∀ h, getRgrp t h = if h = g then x' else getRgrp s h
    (FabIssues (.mcastHeader c w) s c 0x43 0 w false → plain → rgKind1 w.B = false →
      sets (.mcastHeader c w) { x with header := w.B }) ∧
    (FabIssues (.mcastMember c w) s c 0x43 1 w false → plain → st ≠ 2 → st ≠ 3 →
      sets (.mcastMember c w) { x with member := tput 0 x.member m w.B }) ∧
    (FabIssues (.mcastState c w) s c 0x43 2 w false → plain → (n = 0 ∨ (st = 2 ∧ n = 3) ∨ (st = 3 ∧ n = 1)) →
      sets (.mcastState c w) (setMemState x m n)) ∧
    (FabIssues (.mcastFree c w) s c 0x43 3 w false → plain →
      sets (.mcastFree c w) { x with header := setFld x.header 63 1 0 }) ∧
    (FabIssues (.mcastOwner c w) s c 0x43 4 w false →
      let p := fld w.imm 0 4
      tget 0 s.core.rstoreUse p = 0 → ¬(partOwner s p = 1 ∧ fld w.B 0 2 = 2) → ¬(partOwner s p = 2 ∧ fld w.B 0 2 = 1) →
      ∃ t, exec (.mcastOwner c w) s = .next t ∧ Did [.core, .time] s t c ∧
        ∀ r, r < 16 → partOwner t r = if r = p then fld w.B 0 2 else partOwner s r) ∧
    (FabIssues (.mcastRead c w) s c 0x43 5 w false →
      ∃ t, exec (.mcastRead c w) s = .next t ∧
        Gave [.time] s t c w.d (if bit w.imm 20 = true then tget 0 x.member m else x.header))

/-- DECKLE: write, invalidate and set lock change their one entry and no other; the written entry overlaps none. -/
def Obligations.DeckleInstructions : Prop :=
  ∀ (s : State) (c : Nat) (w : Ox),
    let k := fld w.imm 0 13
    let d := getDkl s k
    let mine := c < 2 ∨ d.valid = false ∨ (d.stw = false ∧ d.ten + 2 = c)
    let e : Deckle := { w0 := w.B, w1 := kget (getCtx s c) w.a }
    let sets := fun (i : Instr) (e : Deckle) => ∃ t, exec i s = .next t ∧ Did [.dkl, .deckles, .time] s t c ∧
      (∀ j, getDkl t j = if j = k then e else getDkl s j) ∧ t.dkl.log = s.dkl.log
    (FabIssues (.deckleWrite c w) s c 0x44 0 w false → d.locked = false → mine →
      (∀ x ∈ s.dkl.tab, x.1 ≠ k → dklOverlap e x.2 = false) → sets (.deckleWrite c w) e) ∧
    (FabIssues (.deckleInvalidate c w) s c 0x44 1 w false → d.locked = false → mine → sets (.deckleInvalidate c w) {}) ∧
    (FabIssues (.deckleSetLock c w) s c 0x44 2 w false → d.valid = true →
      sets (.deckleSetLock c w) { d with w0 := setFld d.w0 62 1 1 })

/-- SHEET: GRANT and FREE, ATTACH, ACTIVATE, SWAP and DETACH, RETIRE and QUERY move a Sheet Table entry through its states and mark the
slots they take and free; no other entry changes. SHEET REAM sets a tenant's ream, whose sheets must be the tenant's; it retires at once
where no sheet leaves the ream, and waits for the directory walk of the sheets that leave otherwise. It rests on choices of the model: log
entry 52. -/
def Obligations.SheetInstructions : Prop :=
 (∀ (s : State) (c : Nat) (w : Ox),
    let i := fld w.imm 0 15
    let e := getSheet s i
    let B := w.B
    let mark := fun (u : State) (g k : Nat) => tget ({} : SlotUse) (getGrp u g).map k
    let freed := fun (u : SlotUse) => ({ used := false, retire := false, retired := u.retire || u.retired } : SlotUse)
    let does := fun (n : Nat) (j : Instr) (v : W64) (p : State → Prop) => ∃ t, exec j s = .next t ∧ Did [.pool, .sheets, .time] s t c ∧
      same s t .dram ∧ (∀ x, getSheet t x = if x = i then v else getSheet s x) ∧ p t ∧ fabSub 0x45 w.imm = n
    (FabIssues (.sheetGrant c w) s c 0x45 0 w false → shValid e = false → slotOpen s (fld B 51 4) (fld B 36 15) = true →
      does 0 (.sheetGrant c w) (shMk (bit B 62) (fld B 58 4) 0 (fld B 51 4) (fld B 36 15) 0 0) fun t => ∀ g k, mark t g k =
        if g = fld B 51 4 ∧ k = fld B 36 15 then { mark s g k with used := true } else mark s g k) ∧
    (FabIssues (.sheetFree c w) s c 0x45 1 w false → shValid e = true → shMst e = 0 → inReam s i = false →
      does 1 (.sheetFree c w) 0 fun t => ∀ g k, mark t g k = if g = shPg e ∧ k = shPs e then freed (mark s g k) else mark s g k) ∧
    (FabIssues (.sheetAttach c w) s c 0x45 2 w false → shValid e = true → shMst e = 0 → slotOpen s (fld B 32 4) (fld B 17 15) = true →
      grpsMeet s (fld B 32 4) (shPg e) = false →
      does 2 (.sheetAttach c w) (shWith e 1 (fld B 32 4) (fld B 17 15)) fun t => ∀ g k, mark t g k =
        if g = fld B 32 4 ∧ k = fld B 17 15 then { mark s g k with used := true } else mark s g k) ∧
    (FabIssues (.sheetActivate c w) s c 0x45 3 w false → shValid e = true → shMst e = 1 →
      does 3 (.sheetActivate c w) (shWith e 2 (shMg e) (shMs e)) fun t => ∀ g k, mark t g k = mark s g k) ∧
    (FabIssues (.sheetSwap c w) s c 0x45 4 w false → shValid e = true → shMst e = 2 →
      does 4 (.sheetSwap c w) (shMk (shStw e) (shTen e) 2 (shMg e) (shMs e) (shPg e) (shPs e)) fun t => ∀ g k, mark t g k = mark s g k) ∧
    (FabIssues (.sheetDetach c w) s c 0x45 5 w false → shValid e = true → shMst e ≠ 0 →
      does 5 (.sheetDetach c w) (shWith e 0 0 0) fun t => ∀ g k, mark t g k =
        if g = shMg e ∧ k = shMs e then freed (mark s g k) else mark s g k) ∧
    (FabIssues (.sheetRetire c w) s c 0x45 6 w false → shValid e = true → (bit B 0 = true → shMst e ≠ 0) →
      does 6 (.sheetRetire c w) e fun t => ∀ g k, mark t g k =
        if g = (if bit B 0 then shMg e else shPg e) ∧ k = (if bit B 0 then shMs e else shPs e) then { mark s g k with retire := true }
        else mark s g k) ∧
    (FabIssues (.sheetQuery c w) s c 0x45 8 w false →
      ∃ t, exec (.sheetQuery c w) s = .next t ∧ Gave [.time] s t c w.d e)) ∧
 (∀ (s : State) (c : Nat) (w : Ox),
    let k := fld w.B 32 4
    let b := fld w.B 16 15
    let n := fld w.B 0 15
    let x := getTen s k
    FabIssues (.sheetReam c w) s c 0x45 7 w false → x.exist = true →
    (∀ j, j < n → shValid (getSheet s (b + j)) = true ∧ shOwner (getSheet s (b + j)) = some k) →
    (reamShrinks x b n = false → ∃ t, exec (.sheetReam c w) s = .next t ∧ Did [.ten, .time] s t c ∧
      ∀ j, getTen t j = if j = k then { x with base := b, len := n } else getTen s j) ∧
    (reamShrinks x b n = true → ∃ t, exec (.sheetReam c w) s = .next t ∧ (getCtx t c).st = .waiting ∧ (getCtx t c).wait = .walk ∧
      same s t .registers))

/-- MIRROR: enable writes a session that is off with its control word, flow, ring and control block; disable returns a session without a
copy in flight to zero and waits for the copies otherwise; a read gives the lost count. METER: configure writes a meter's two words, and
fills the buckets of a meter it enables to their burst sizes; bind writes a port's METER register; read returns a word of the meter. It
rests on choices of the model: log entries 20, 62. -/
def Obligations.MirrorAndMeterInstructions : Prop :=
 (∀ (s : State) (c : Nat) (w : Ox),
    let i := fld w.imm 0 3
    let x := getMir s i
    let v := lo32 w.B
    let a := getPort s (mirAna v)
    let ka := kget (getCtx s c) w.a
    let kb := kget (getCtx s c) w.b
    (FabIssues (.mirrorEnable c w) s c 0x46 0 w false → mirOther x c = false → mirOn x = false → isEdge a = true → a.link = .up →
      fld v 28 3 ≤ 4 → mirLinesOk s v ka kb (fld w.imm 8 5) = true →
      ∃ t, exec (.mirrorEnable c w) s = .next t ∧ Did [.core, .time] s t c ∧ ∀ j, getMir t j = if j = i then
        { ctrl := setFld v 31 1 1, flow := hi32 w.B, ring := ka, ctlb := kb, size := fld w.imm 8 5 } else getMir s j) ∧
    (FabIssues (.mirrorDisable c w) s c 0x46 1 w false → mirOther x c = false → mirOn x = true → mirInFlight s i = false →
      ∃ t, exec (.mirrorDisable c w) s = .next t ∧ Did [.core, .time] s t c ∧ ∀ j, getMir t j = if j = i then {} else getMir s j) ∧
    (FabIssues (.mirrorDisable c w) s c 0x46 1 w false → mirOther x c = false → mirOn x = true → mirInFlight s i = true →
      ∃ t, exec (.mirrorDisable c w) s = .next t ∧ (getCtx t c).wait = .again ∧ same s t .registers ∧
        ∀ j, getMir t j = if j = i then { x with closing := true } else getMir s j) ∧
    (FabIssues (.mirrorReadLost c w) s c 0x46 2 w false → mirOther x c = false →
      ∃ t, exec (.mirrorReadLost c w) s = .next t ∧ Gave [.time] s t c w.d (BitVec.ofNat 64 x.lost))) ∧
 (∀ (s : State) (c : Nat) (w : Ox),
    let q := fld w.imm 24 4
    let i := fld w.imm 0 11
    let p := fld w.imm 16 7
    let m := getMeter s q i
    let w1 := lo32 (kget (getCtx s c) w.a)
    let mine := fun (n : Meter) => ∀ o, meterOwner n = some o → o = partyOf c
    (FabIssues (.meterConfigure c w) s c 0x47 0 w false → mine m →
      ∃ t, exec (.meterConfigure c w) s = .next t ∧ Did [.quire, .core, .time] s t c ∧
        (∀ r j, r ≠ q ∨ j ≠ i → getMeter t r j = getMeter s r j) ∧ (getMeter t q i).w0 = w.B ∧ (getMeter t q i).w1 = w1 ∧
        (m.on = false → bit w.B 63 = true → (getMeter t q i).tc = (getMeter t q i).cap.1 ∧ (getMeter t q i).tp = (getMeter t q i).cap.2 ∧
          (getMeter t q i).last = mono s)) ∧
    (FabIssues (.meterBind c w) s c 0x47 1 w false → (∀ j ∈ meterSpan (lo32 w.B), mine (getMeter s q j)) →
      ∃ t, exec (.meterBind c w) s = .next t ∧ Did [.core, .time] s t c ∧
        ∀ r, sansIfl (getPort t r) = sansIfl (if r = p then { getPort s p with meter := lo32 w.B } else getPort s r)) ∧
    (FabIssues (.meterRead c w) s c 0x47 2 w false → mine m →
      ∃ t, exec (.meterRead c w) s = .next t ∧ Gave [.time] s t c w.d (meterWord m (fld w.imm 12 3))))

/-- SHAPE: the rates and bursts of a shaper, whose buckets start full when it is switched on and are cut to the new bursts otherwise; a
port's PRIO register; a tenant's or the Steward's quantum. CADENCE: configure and window write a schedule, whose reservations must pass if
it is enabled; enable sets the enable bit of one that passes; disable clears it, closes the window and gives the schedule up. It rests on
choices of the model: log entry 48. -/
def Obligations.ShapeAndCadenceInstructions : Prop :=
 (∀ (s : State) (c : Nat) (w : Ox),
    let o := fld w.imm 0 7
    let n := fld w.imm 8 4
    let burst := lo32 (kget (getCtx s c) w.a)
    let x := fld w.imm 16 5
    (FabIssues (.shapeShaper c w) s c 0x48 0 w false →
      ∃ t, exec (.shapeShaper c w) s = .next t ∧ Did [.core, .time] s t c ∧
        (getQ t o n).cir = lo32 w.B ∧ (getQ t o n).pir = hi32 w.B ∧ (getQ t o n).burst = burst ∧
        (bit (lo32 w.B) 31 = true → (getQ s o n).shaped = false →
          (getQ t o n).bc = (fld burst 0 16 * 65536 : Nat) ∧ (getQ t o n).bp = (fld burst 16 16 * 65536 : Nat)) ∧
        (getQ t o n).bc ≤ (fld burst 0 16 * 65536 : Nat) ∧ (getQ t o n).bp ≤ (fld burst 16 16 * 65536 : Nat) ∧
        ∀ r k, 16 * r + k ≠ 16 * o + n → getQ t r k = getQ s r k) ∧
    (FabIssues (.shapePriority c w) s c 0x48 1 w false →
      ∃ t, exec (.shapePriority c w) s = .next t ∧ Did [.time] s t c ∧
        ∀ r, sansIfl (getPort t r) = sansIfl (if r = o then { getPort s o with prio := lo32 w.B } else getPort s r)) ∧
    (FabIssues (.shapeQuantum c w) s c 0x48 2 w false → (x < 16 → (getTen s x).exist = true) →
      ∃ t, exec (.shapeQuantum c w) s = .next t ∧ Did [.ten, .core, .time] s t c ∧
        (∀ r, getTen t r = if r = x ∧ x < 16 then { getTen s r with drr := fld w.B 0 12 } else getTen s r) ∧
        t.core.drrSteward = if x < 16 then s.core.drrSteward else fld w.B 0 12)) ∧
 (∀ (s : State) (c : Nat) (w : Ox),
    let i := fld w.imm 0 6
    let x := getCad s i
    let ka := kget (getCtx s c) w.a
    let others := fun (t : State) => ∀ j, j ≠ i → getCad t j = getCad s j
    let sets := fun (j : Instr) (n : Cad) => ∃ t, exec j s = .next t ∧ Did [.core, .time] s t c ∧ others t ∧
      (getCad t i).ctrl = n.ctrl ∧ (getCad t i).dst = n.dst ∧ (getCad t i).off = n.off ∧ (getCad t i).len = n.len ∧
      (getCad t i).bytes = n.bytes ∧ (getCad t i).owned = n.owned ∧ (getCad t i).opened = n.opened
    cadOther x c = false →
    (FabIssues (.cadenceConfigure c w) s c 0x49 0 w false →
      (x.on = true → cadAdmit s i { cadConf x (isStw c) w.B with owned := true } = true) →
      sets (.cadenceConfigure c w) { cadConf x (isStw c) w.B with owned := true }) ∧
    (FabIssues (.cadenceWindow c w) s c 0x49 1 w false → (x.on = true → cadAdmit s i (cadWin x (fld w.imm 16 4) w.B ka) = true) →
      sets (.cadenceWindow c w) (cadWin x (fld w.imm 16 4) w.B ka)) ∧
    (FabIssues (.cadenceEnable c w) s c 0x49 2 w false → cadAdmit s i x = true →
      sets (.cadenceEnable c w) { x with ctrl := setFld x.ctrl 31 1 1 }) ∧
    (FabIssues (.cadenceDisable c w) s c 0x49 3 w false →
      sets (.cadenceDisable c w) { x with ctrl := setFld x.ctrl 31 1 0, opened := false, owned := false }))

/-- An attempt to power a slot (R381 to R388): the oldest request that fits is granted and its slot ramps; the breaker is armed;
power-good turns the slot on; a trip or a timeout withdraws power-good and PERST and backs off while retries remain, else latches and
releases the grant; the end of the back-off ramps a seated slot again. What acts on a slot from outside (R380, R381, R390, R391, R393):
presence levels and their qualification, seating lost, the input supply, a warning and its release, a failed pass device, and the
autonomous hold. PWRFAIL_IN_N reaches every slot whose output is on and that takes the warning (R390). It rests on choices of the model:
log entry 38. -/
def Obligations.SlotPowerEvents : Prop :=
 (∀ (s : State) (n : Nat), n < 32 →
    let x := getSlot s n
    let low := (s.pwrfail && x.warnPwrfail) || x.vinLow
    let ramps (y : Slot) : Slot := { y with st := .ramp, armed := false, timer := false, warn := y.warn || low, evWarn := y.evWarn || (low && !y.warn) }
    let dead (cause : Nat) : Slot := { x with pg := false, perstRel := false, armed := false, timer := false, cause := cause, evTrip := true,
                                              evPgLost := x.evPgLost || x.st == .on }
    let ends (cause : Nat) : Slot := if s.slotHold = false ∧ x.retry < fld x.ramp 12 3 then { dead cause with st := .backoff } else
      { dead cause with st := .latched, granted := 0, grantDue := false, evLatched := true }
    (∀ l, s.pwr.slotQueue = n :: l → s.slotHold = false → x.st = .waitGrant →
      sumBy (fun e => e.2.granted) s.slot - x.granted + x.declared ≤ tget 0 s.pwr.limit 6 →
      ∃ t, exec .slotBudgetGrant s = .next t ∧ t.pwr.slotQueue = l ∧ slotIs s t n (ramps { x with granted := x.declared, grantDue := false })) ∧
    (x.st = .ramp → ∃ t, exec (.breakerArmed n) s = .next t ∧ slotIs s t n { x with armed := true }) ∧
    (x.st = .ramp → x.armed = true → x.timer = false →
      ∃ t, exec (.powerGoodQualified n) s = .next t ∧ slotIs s t n { x with st := .on, pg := true, evPgUp := true }) ∧
    (x.st = .on → ∃ t, exec (.perstReleaseTimer n) s = .next t ∧ slotIs s t n { x with perstRel := true }) ∧
    (x.st = .ramp → ∃ t, exec (.rampTimeout n) s = .next t ∧ slotIs s t n (ends 3)) ∧
    (x.st = .ramp ∨ x.st = .on → ∃ t, exec (.fastTrip n) s = .next t ∧ slotIs s t n (ends 1)) ∧
    (x.st = .on ∨ (x.st = .ramp ∧ x.armed = true) →
      (∀ above, ∃ t, exec (.breakerThresholdCross n above) s = .next t ∧ slotIs s t n { x with timer := above }) ∧
      (x.timer = true → ∃ t, exec (.breakerExpiry n) s = .next t ∧ slotIs s t n (ends 2))) ∧
    (x.st = .backoff → s.slotHold = false →
      ∃ t, exec (.backoffEnd n) s = .next t ∧ slotIs s t n (if x.seated then ramps { x with retry := x.retry + 1 }
        else { x with st := .waitSeat, granted := 0, grantDue := false })) ∧
    (x.st = .on → ∃ t, exec (.retryCountReset n) s = .next t ∧ slotIs s t n { x with retry := 0 }) ∧
    (x.grantDue = true → ∃ t, exec (.slotGrantRelease n) s = .next t ∧ slotIs s t n { x with granted := 0, grantDue := false })) ∧
 (∀ (s : State) (n : Nat), n < 32 →
    let x := getSlot s n
    let off (y : Slot) (st : SlotSt) : Slot := { y with st := st, pg := false, perstRel := false, armed := false, timer := false }
    let gate := x.st = .ramp ∨ x.st = .on
    let low := (s.pwrfail && x.warnPwrfail) || x.vinLow
    let ramps (y : Slot) : Slot := { y with st := .ramp, armed := false, timer := false, warn := y.warn || low, evWarn := y.evWarn || (low && !y.warn) }
    (∀ a b, ∃ t, exec (.presenceChange n a b) s = .next t ∧ slotIs s t n { x with long := a, short := b }) ∧
    (x.long = true → x.short = true → x.seated = false → ∃ t, exec (.seatedQualified n) s = .next t ∧
      slotIs s t n { x with presenceDetect := true, seated := true, evSeat := true, st := if x.st = .waitSeat then .waitGrant else x.st } ∧
      t.pwr.slotQueue = s.pwr.slotQueue ++ (if x.st = .waitSeat then [n] else [])) ∧
    (x.seated = true → (x.long && x.short) = false →
      let y : Slot := { x with seated := false, evSeat := true }
      ∃ t, exec (.seatingLost n) s = .next t ∧
        (x.st = .waitGrant → slotIs s t n { y with st := .waitSeat } ∧ t.pwr.slotQueue = s.pwr.slotQueue.filter (· != n)) ∧
        (gate → s.slotHold = false →
          slotIs s t n { off y .off with cause := 4, granted := 0, grantDue := false, evPgLost := x.evPgLost || x.st == .on }) ∧
        (gate → s.slotHold = true → slotIs s t n
          { off y .latched with cause := 4, granted := 0, grantDue := false, evPgLost := x.evPgLost || x.st == .on, evLatched := true }) ∧
        (x.st ≠ .waitGrant → ¬gate → slotIs s t n y)) ∧
    (∃ t, exec (.vinWarn n) s = .next t ∧ (gate → slotIs s t n { x with vinLow := true, warn := true, evWarn := x.evWarn || !x.warn }) ∧
      (¬gate → slotIs s t n { x with vinLow := true })) ∧
    (∃ t, exec (.warnRelease n) s = .next t ∧
      slotIs s t n { x with vinLow := false, warn := x.warn && ((s.pwrfail && x.warnPwrfail) || x.st == .pdf) }) ∧
    (gate → ∃ t, exec (.vinUndervoltage n) s = .next t ∧
      slotIs s t n { off x .waitVin with cause := 5, evUv := true, evPgLost := x.evPgLost || x.st == .on }) ∧
    (x.st = .waitVin → s.slotHold = false → ∃ t, exec (.vinRestored n) s = .next t ∧
      slotIs s t n (if x.seated then ramps x else { x with st := .waitSeat, granted := 0, grantDue := false })) ∧
    (¬gate → x.st ≠ .pdf → x.st ≠ .inReset → ∃ t, exec (.passDeviceFailure n) s = .next t ∧ t.pwr.slotQueue = s.pwr.slotQueue.filter (· != n) ∧
      slotIs s t n { off x .pdf with cause := 6, iso := x.iso || x.isoEn, warn := true, granted := 0, grantDue := false, evPdf := true }) ∧
    (∃ t, exec .controlExchangeLoss s = .next t ∧ t.slotHold = true ∧ t.slot = s.slot) ∧
    (∃ t, exec .controlExchangeResume s = .next t ∧ t.slotHold = false ∧ t.slot = s.slot)) ∧
 (∀ (s : State), (∃ t, exec (.pwrfailInAssert true) s = .next t ∧ t.pwrfail = true ∧ ∀ n, n < 32 →
      let x := getSlot s n
      getSlot t n = if (x.st = .ramp ∨ x.st = .on) ∧ x.warnPwrfail = true then { x with warn := true, evWarn := x.evWarn || !x.warn } else x) ∧
    (∃ t, exec (.pwrfailInAssert false) s = .next t ∧ t.pwrfail = false ∧ t.slot = s.slot))

/-- SLOT in each of its ops, where its checks pass (Table OXI-17): ON of a slot that is off asks for power when the slot is seated, OFF
shuts a slot down and keeps its grant until the output has fallen, CLEAR frees a latched or failed slot, DECLARE sets the power a slot
asks for, STATUS reads it. It rests on choices of the model: log entry 38. -/
def Obligations.SlotInstructions : Prop :=
  ∀ (s : State) (c : Nat) (w : Ox),
    let n := fld w.imm 0 5
    let op := fld w.imm 8 3
    let x := getSlot s n
    let one (t : State) (y : Slot) : Prop := getSlot t n = y ∧ ∀ i, i ≠ n → getSlot t i = getSlot s i
    Issues s c 0x80 w { d := op == 4, imm := 0x71F, B := if op = 3 then 0xFFFF else 0 } →
    (c < 2 → op = 0 → x.st = .off → ∃ t, exec (.slotOn c w) s = .next t ∧
      one t { x with st := if x.seated then .waitGrant else .waitSeat } ∧
      t.pwr.slotQueue = s.pwr.slotQueue ++ (if x.seated then [n] else []) ∧ Did [.slot, .pwr, .tap, .ten] s t c) ∧
    (c < 2 → op = 1 → x.st ≠ .off → x.st ≠ .pdf → x.st ≠ .inReset → ∃ t, exec (.slotOff c w) s = .next t ∧
      one t { x with st := .off, pg := false, perstRel := false, armed := false, timer := false, retry := 0, cause := 0, grantDue := x.granted != 0 } ∧
      t.pwr.slotQueue = s.pwr.slotQueue.filter (· != n) ∧ Did [.slot, .pwr, .ten] s t c) ∧
    (c < 2 → op = 2 → x.st = .latched ∨ x.st = .pdf → ∃ t, exec (.slotClear c w) s = .next t ∧
      one t { x with st := .off, retry := 0, iso := x.iso && x.st != .pdf, warn := x.warn && x.st != .pdf } ∧ Did [.slot] s t c) ∧
    (c < 2 → op = 3 → x.st = .off ∨ x.st = .latched ∨ x.st = .pdf → ∃ t, exec (.slotDeclare c w) s = .next t ∧
      one t { x with declared := fld w.B 0 16 } ∧ Did [.slot] s t c) ∧
    (c < 2 ∨ slotOwn s (c - 2) n = true → op = 4 → x.st ≠ .inReset → ∃ t, exec (.slotStatus c w) s = .next t ∧
      Gave [] s t c w.d (slotStatus s n) ∧ t.slot = s.slot)

/-- BUDGET and PACE in each of their ops, where their checks pass (Table OXI-18): the steward sets the cap, the limit of a class, the pace
target and the loop; a read returns a limit with its charge, the cap with its use, the pace or the core voltage. SNAP, COUNT and LOG
(R437, R440 to R442): a freeze copies every counter to the shadow and reads the fabric time, a release starts the counters again; COUNT
reads a counter or its shadow, or programs the selector of one and clears it; LOG adds an entry to its context's log. It rests on choices
of the model: log entries 32, 33, 53. -/
def Obligations.BudgetPaceAndTelemetry : Prop :=
 (∀ (s : State) (c : Nat) (w : Ox),
    let op := fld w.imm 0 4
    let cls := fld w.imm 8 8
    let v := fld w.B 0 16
    (Issues s c 0x81 w { d := op == 2, imm := if op = 0 then 0xF else 0xFF0F, B := if op < 2 then 0xFFFF else 0 } →
      (c < 2 → op = 0 → 800 ≤ v → v ≤ 1650 → ∃ t, exec (.budgetCap c w) s = .next t ∧ Did [.pwr] s t c ∧
        t.pwr = { s.pwr with cap := v, capUnmet := s.pwr.capUnmet && decide (v ≤ s.pwr.cap) }) ∧
      (c < 2 → op = 1 → 0 < cls → cls ≤ 6 → ∃ t, exec (.budgetLimit c w) s = .next t ∧ Did [.pwr] s t c ∧
        limitOf t cls = v ∧ ∀ k, k ≠ cls → limitOf t k = limitOf s k) ∧
      (op = 2 → cls ≤ 6 ∨ cls = 0xFF → ∃ t, exec (.budgetRead c w) s = .next t ∧ t.pwr = s.pwr ∧
        Gave [] s t c w.d (if cls = 0xFF then pack64 [(32, s.pwr.cap), (0, s.pwr.use % 65536)] else
          pack64 [(32, limitOf s cls), (0, charge s cls % 65536)]))) ∧
    (Issues s c 0x82 w { d := op == 2 || op == 3, imm := 0xF, B := if op = 0 then 0xFFFF else if op = 1 then 1 else 0 } →
      (c < 2 → op = 0 → ∃ t, exec (.paceTarget c w) s = .next t ∧ Did [.pwr] s t c ∧
        t.pwr = { s.pwr with target := if v < 1250 then 1250 else if 2400 < v then 2400 else v }) ∧
      (c < 2 → op = 1 → ∃ t, exec (.paceLoop c w) s = .next t ∧ Did [.pwr] s t c ∧ t.pwr = { s.pwr with loopEn := bit w.B 0 }) ∧
      (op = 2 → ∃ t, exec (.paceReadStatus c w) s = .next t ∧ Gave [] s t c w.d ((paceStatus s).setWidth 64)) ∧
      (op = 3 → ∃ t, exec (.paceReadVcore c w) s = .next t ∧ Gave [] s t c w.d (BitVec.ofNat 64 (s.pwr.vcore % 2 ^ 32))))) ∧
 (∀ (s : State) (c : Nat) (w : Ox),
    (bit w.imm 0 = false → c < 2 → s.cnt.frozen = false → Issues s c 0x90 w { d := true, imm := 1 } →
      ∃ t, exec (.snapFreeze c w) s = .next t ∧ Gave [] s t c w.d s.time.fab ∧ t.cnt.frozen = true ∧ t.cnt.shadow = s.cnt.bank ∧
        t.cnt.snapTime = s.time.fab ∧ t.cnt.copying = true ∧ t.cnt.sel = s.cnt.sel) ∧
    (bit w.imm 0 = true → c < 2 → s.cnt.frozen = true → Issues s c 0x90 w { imm := 1 } →
      ∃ t, exec (.snapRelease c w) s = .next t ∧ Did [] s t c ∧ t.cnt.frozen = false ∧ t.cnt.shadow = s.cnt.shadow ∧ t.cnt.sel = s.cnt.sel) ∧
    (Issues s c 0x91 w { mods := 3, d := true, imm := 0xF07F0FFF, B := if bit w.mod 1 then 2 ^ 64 - 1 else 0 } → passes (countChk s c w) →
      ∃ t, exec (.count c w) s = .next t ∧
        (bit w.mod 1 = false → t.cnt.sel = s.cnt.sel ∧
          Gave [] s t c w.d (tget 0 (if bit w.mod 0 then s.cnt.shadow else s.cnt.bank) (countAddr w))) ∧
        (bit w.mod 1 = true → Gave [] s t c w.d 0 ∧ t.cnt.shadow = s.cnt.shadow ∧
          (fld w.imm 28 4 = 0 → t.cnt.sel = tput 0 s.cnt.sel (gselAddr (fld w.imm 0 12)) w.B) ∧
          (fld w.imm 28 4 = 1 → t.cnt.sel = tput 0 s.cnt.sel (tselAddr (fld w.imm 16 7) (fld w.imm 0 12))
            (setFld (setFld w.B 28 1 0) 24 4 (fld w.imm 16 7))))) ∧
    (Issues s c 0x92 w { a := true, imm := 0xFFFF } →
      ∃ t, exec (.log c w) s = .next t ∧ Did [] s t c ∧
        (getCtx t c).log = (getCtx s c).log ++ [{ code := fld w.imm 0 16, value := kget (getCtx s c) w.a, time := s.time.fab }]))

/-- One evaluation of the power arbiter where every class is within its own limit (R399 to R401): over the effective cap the first class
that can still be throttled goes one level up; with the hysteresis to spare the last throttled class goes one level down; otherwise every
level stays. Class 4 moves at most once a pace window. The arbiter's other events (R401, R402, R404 to R406): the cap is reported unmet
after 100 evaluations over it; a training burst that fits is granted; a failed AVS write is recorded; the thermal cap falls by 10 while
any core sensor is at t_hot, and rises by 10 when all are at least 6 below it; nine readings are stored, each with its peak. The pace (R31
to R40): a window's end stores the pace, steps the core voltage by 5 mV within 650 to 850 while the loop is on, and sets the floor alarm
at the fourth low window in a row; an hour appends a history entry; the two registers take their fields. It rests on choices of the model:
log entries 39, 53, 54. -/
def Obligations.PowerAndPaceEvents : Prop :=
 (∀ (s : State), (∀ k, 1 ≤ k → k ≤ 5 → fullCharge s k ≤ limitOf s k) →
    let use := charge s 0 + charge s 1 + charge s 2 + charge s 3 + charge s 4 + charge s 5
    let cap := min s.pwr.cap s.pwr.tcap
    let moved (t : State) (k n : Nat) : Prop := levelOf t k = n ∧ ∀ j, j ≠ k → levelOf t j = levelOf s j
    ∃ t, exec .budgetEvaluation s = .next t ∧ t.pwr.use = use ∧
      (cap < use → ∀ k, 1 ≤ k → k ≤ 5 → levelOf s k < 8 → 0 < fullCharge s k → (k = 4 → s.pwr.class4Moved = false) →
        (∀ j, 1 ≤ j → j < k → 8 ≤ levelOf s j ∨ fullCharge s j = 0) → moved t k (levelOf s k + 1)) ∧
      (use + s.pwr.hyst ≤ cap → ∀ k, 1 ≤ k → k ≤ 5 → 0 < levelOf s k → (k = 4 → s.pwr.class4Moved = false) →
        (∀ j, k < j → j ≤ 5 → levelOf s j = 0) → moved t k (levelOf s k - 1)) ∧
      (use ≤ cap → cap < use + s.pwr.hyst → ∀ j, levelOf t j = levelOf s j)) ∧
 (∀ (s : State),
    (100 ≤ s.pwr.overRun → s.pwr.capUnmet = false → ∃ t, exec .capUnmet s = .next t ∧ t.pwr.capUnmet = true ∧ t.pwr.evCap = true ∧
      t.cmd.pldmEvents = s.cmd.pldmEvents ++ [12]) ∧
    (∀ q l, s.pwr.trainWait = q :: l → useOf s ≤ effCap s → levelOf s 5 < 8 →
      exec .trainingBurstGrant s = .next { s with pwr := { s.pwr with trainWait := l, trainBurst := s.pwr.trainBurst ++ [q] } }) ∧
    (∃ t, exec .avsWriteFailure s = .next t ∧ t.pwr.avsFault = true ∧ t.pwr.evAvs = true) ∧
    (∃ t, exec .thermalCapStep s = .next t ∧
      ((∃ i, i < 8 ∧ tHot s ≤ tempOf s i) → t.pwr.tcap = max 800 (s.pwr.tcap - 10)) ∧
      ((∀ i, i < 8 → tempOf s i + 5 < tHot s) → t.pwr.tcap = min 1650 (s.pwr.tcap + 10)) ∧
      ((∀ i, i < 8 → tempOf s i < tHot s) → (∃ i, i < 8 ∧ tHot s ≤ tempOf s i + 5) → t.pwr.tcap = s.pwr.tcap)) ∧
    (∀ l : List Nat, l.length = 9 → ∃ t, exec (.tempRefresh l) s = .next t ∧ ∀ i, i < 9 →
      tempOf t i = l.getD i 0 % 256 ∧ tget 0 t.pwr.peak i = max (tget 0 s.pwr.peak i) (l.getD i 0 % 256))) ∧
 (∀ (s : State),
    (∀ probe amps,
      let p := probe / 2 ^ s.pace.runLog2 % 65536
      let u : State := { s with pwr := { s.pwr with class4Moved := false } }
      let v := s.pwr.vcore
      let low := decide (p < s.pace.floor) && (!s.pwr.loopEn || v == 850)
      ∃ t, exec (.paceWindowEnd probe amps) s = .next t ∧ t.pace.valid = true ∧ t.pace.pace = p ∧ t.pace.runLog2 = min 10 s.pace.windowLog2.toNat ∧
        t.pwr.vcore = (if s.pwr.loopEn = false then v else if p < effTarget u ∧ v < 850 then min (v + 5) 850
          else if effTarget u + s.pwr.paceHyst < p ∧ 650 < v then max (v - 5) 650 else v) ∧
        (s.pace.floorAlarm = false → (low = false → t.pace.lowRun = 0 ∧ t.pace.floorAlarm = false) ∧
          (low = true → s.pace.lowRun = 3 → t.pace.floorAlarm = true) ∧
          (low = true → s.pace.lowRun < 3 → t.pace.floorAlarm = false ∧ t.pace.lowRun = s.pace.lowRun + 1))) ∧
    (∀ tj, ∃ t, exec (.paceHistoryHour tj) s = .next t ∧ t.pace.hist = (s.pace.hist ++ [paceEntry s]).drop (s.pace.hist.length + 1 - 256) ∧
      t.pace.hourIdx = s.pace.hourIdx + 1 ∧ t.glb.ageHours = s.glb.ageHours + 1) ∧
    (∀ w : W32, ∃ t, exec (.paceTargetWrite w) s = .next t ∧ t.pwr.loopEn = bit w 31 ∧ t.pwr.paceHyst = fld w 16 12 ∧
      t.pwr.target = (if fld w 0 16 < 1250 then 1250 else if 2400 < fld w 0 16 then 2400 else fld w 0 16)) ∧
    (∀ w : W32, ∃ t, exec (.paceCtrlWrite w) s = .next t ∧ t.pace.windowLog2 = BitVec.ofNat 4 (fld w 16 4) ∧
      t.pace.floorAlarm = (s.pace.floorAlarm && !bit w 31) ∧
      (bit s.glb.lock 4 = false → t.pace.floor = fld w 0 16) ∧ (bit s.glb.lock 4 = true → t.pace.floor = s.pace.floor)))

/-- What the registers that act when written do: freeze, release and selectors (R437, R440), logs cleared (R211, R445), indirect windows
loaded (R452), the lock (R449), peaks and histograms restarted (R101, R138). It rests on choices of the model: log entries 32, 73. -/
def Obligations.RegisterStrobes : Prop :=
  ∀ (s : State),
    (s.cnt.frozen = false → ∃ t, exec .counterFreezeWrite s = .next t ∧ t.cnt.frozen = true ∧ t.cnt.shadow = s.cnt.bank ∧
      t.cnt.bank = s.cnt.bank ∧ t.cnt.snapTime = s.time.fab ∧ t.cnt.copying = true) ∧
    (s.cnt.frozen = true → ∃ t, exec .counterReleaseWrite s = .next t ∧ t.cnt.frozen = false ∧ t.cnt.shadow = s.cnt.shadow ∧ t.cnt.bank = s.cnt.bank) ∧
    (s.cnt.copying = true → ∃ t, exec .shadowCopyEnd s = .next t ∧ t.cnt.copying = false ∧ t.cnt.frozen = (s.cnt.frozen && !s.cnt.autoRelease)) ∧
    (∀ n (v : W64), n < 512 → codeOk (fld v 0 16) = true → ∃ t, exec (.selectorWrite n v) s = .next t ∧
      (∀ a, tget 0 t.cnt.sel a = if a = gselAddr n then v &&& 0x3FFFFFFF else tget 0 s.cnt.sel a) ∧
      ∀ a, tget 0 t.cnt.bank a = if a = gcntAddr n then 0 else tget 0 s.cnt.bank a) ∧
    (∀ v : W32, bit v 31 = true → ∃ t, exec (.unitLogClear v) s = .next t ∧
      ∀ k, tget {} t.cnt.logs k = if k = logKey ⟨fld v 24 4, fld v 16 7⟩ (fld v 30 1) then {} else tget {} s.cnt.logs k) ∧
    (∀ v : W32, ∃ t, exec (.histSelectWrite v) s = .next t ∧ t.pace.histData = s.pace.hist.reverse.getD (fld v 0 8) 0 ∧ t.pace.hist = s.pace.hist) ∧
    (∀ v : W32, ∃ t, exec (.rgrpSelectWrite v) s = .next t ∧ t.core.rgrpData = rgWord (getRgrp s (fld v 0 10)) (fld v 16 5) ∧ t.core.rgrp = s.core.rgrp) ∧
    (∀ v : W32, ∃ t, exec (.ecmpSelectWrite v) s = .next t ∧ t.core.ecmpData = ecmpWords (getEcmp s (fld v 0 6)) ∧ t.core.ecmp = s.core.ecmp) ∧
    (∀ q (v : W32), q < 12 → ∃ t, exec (.meterSelectWrite q v) s = .next t ∧
      (getQuire t q).mtrData = (List.range 6).map (meterWord (getMeter s q (fld v 0 11))) ∧ ∀ j m, getMeter t j m = getMeter s j m) ∧
    (∀ v : W32, ∃ t, exec (.sheetSelectWrite v) s = .next t ∧ t.pool.shtData = getSheet s (fld v 0 15) ∧ t.pool.sheet = s.pool.sheet) ∧
    (∀ v : W32, ∃ t, exec (.glbLockWrite v) s = .next t ∧ t.glb = { s.glb with lock := s.glb.lock ||| (v &&& 0x000707FF) }) ∧
    (∃ t, exec .bufPeakClear s = .next t ∧ t.core.peak = s.core.occ) ∧
    (∀ o, o < 109 → ∃ t, exec (.histClear o) s = .next t ∧ ∀ p n, n < 16 →
      getQ t p n = if p = o then { getQ s p n with depth := [], delay := [] } else getQ s p n) ∧
    (∃ t, exec .deckleLogClear s = .next t ∧ t.dkl = { s.dkl with log := [] }) ∧
    (∃ t, exec .dirLogClear s = .next t ∧ t.home = { s.home with log := [] }) ∧
    (∃ t, exec .trackerPeakClear s = .next t ∧ t.home = { s.home with peak := openTxns s }) ∧
    (∀ ch, ch < 12 → ∃ t, exec (.ceLogClear ch) s = .next t ∧ getChan t ch = { getChan s ch with ceLog := [], ceOvf := 0 } ∧
      ∀ j, j ≠ ch → getChan t j = getChan s j) ∧
    (∀ ch, ch < 12 → ∃ t, exec (.ueLogClear ch) s = .next t ∧ getChan t ch = { getChan s ch with ueLog := [], ueOvf := 0 } ∧
      ∀ j, j ≠ ch → getChan t j = getChan s j)

/-- Register accesses (R6, R409, R410, R448, R201): a served write of a single register has that register's effect, a low half waits for
its high half, the high half writes the pair whole; a low read latches the high half for its master; an access the deckle table refuses is
logged and has no other effect. A BAR access goes to the register space or to the program store; a debug access reaches its space. It
rests on choices of the model: log entries 17, 75, 76, 83, 84. -/
def Obligations.RegisterAccess : Prop :=
  ∀ (s : State) (m : Master) (a : Nat) (v : W32),
    let open_ (a : Nat) : Prop := inWindow a = false ∧ noTenant s a = false ∧ owned a = false ∧ (stwOnly a = true → masterStw m = true) ∧ ringLocked s a = false
    (a % 4 = 0 → a < 2 ^ 24 → csrGate s m a true = .serve → open_ a →
      (∀ p, pairVal s a = some p → ∃ t, exec (.regWriteGeneral m a v) s = .next t ∧ latchGet t.pairLo m a = some v ∧ onlyIn [.pairLo] s t) ∧
      (pairVal s a = none → (4 ≤ a → pairVal s (a - 4) = none) → exec (.regWriteGeneral m a v) s = .next (regWrite s m a v)) ∧
      (∀ p, 4 ≤ a → pairVal s a = none → pairVal s (a - 4) = some p →
        exec (.pairHighWrite m a v) s = .next (pairWrite { s with pairLo := latchDel s.pairLo m (a - 4) } (a - 4)
          (BitVec.ofNat 64 (v.toNat * 2 ^ 32 + ((latchGet s.pairLo m (a - 4)).getD (p.setWidth 32)).toNat))))) ∧
    (a % 4 = 0 → a < 2 ^ 24 → csrGate s m a false = .serve → inWindow a = false → ∀ p, pairVal s a = some p →
      ∃ t, exec (.pairLowRead m a) s = .next t ∧ t.out = s.out ++ [.csrRead m a (p.setWidth 32)] ∧
        latchGet t.pairHi m a = some ((p >>> 32).setWidth 32) ∧ onlyIn [.pairHi, .out] s t) ∧
    (∀ x, a % 4 = 0 → a < 2 ^ 24 → csrGate s m a true = .deny x →
      ∃ t, exec (.regWriteGeneral m a v) s = .next t ∧ onlyIn [.dkl, .seq, .cnt, .cmd, .out, .deckles] s t ∧ t.dkl.tab = s.dkl.tab) ∧
    (csrGate s m a true = .closed ∨ csrGate s m a true = .absent → exec (.regWriteGeneral m a v) s = .next s) ∧
    (∀ b, b ≠ [] → a + b.length ≤ 2 ^ 20 → s.glb.inReset = false → linkOf m = none →
      dklLines s (masterChk m 2 a true) (lineCount a b.length) = none →
      ∃ t, exec (.programStoreWrite m a b) s = .next t ∧ t.seq.ps = wrBytes s.seq.ps a b ∧ onlyIn [.seq, .store] s t ∧ ∀ c, getCtx t c = getCtx s c) ∧
    (∀ l b, l < 2 → linkLive s l = true → b.length = 4 → a % 4 = 0 → a + 4 ≤ 2 ^ 24 →
      exec (.barAccess l 0 a true b) s = .next (busWrite s (if l = 0 then .linkA else .linkB) a (BitVec.ofNat 32 (leNat b))) ∧
      (∀ r, busRead s (if l = 0 then .linkA else .linkB) a = (some v, r) →
        exec (.barAccess l 0 a false b) s = .next { r with out := r.out ++ [.barData l (natLe 4 v.toNat)] })) ∧
    (∀ w : W64, a % 8 = 0 → a + 8 ≤ 2 ^ 20 → s.glb.inReset = false → s.glb.tapEn = true → s.stk.strapFault = false →
      debugRefusal s { space := 2, addr := a, stw := true, ten := 0, dst := 0, r := false, w := true } = none →
      ∃ t, exec (.debugAccess .ps a 0 true w) s = .next t ∧ t.seq.ps = wrBytes s.seq.ps a (natLe 8 w.toNat) ∧ t.tap.refused = false)

/-- What the pages of a context do (R216, R222 to R228, R238): a doorbell stores the tail and wakes an idle context; a fetch takes the
next entry of the next ring that has one; the completion head frees slots and arms the vector; held records are written while the ring has
room; reading the state arms the event vector; resume and halt; a register written through the window while the context is stopped. It
rests on choices of the model: log entries 82, 85. -/
def Obligations.ContextPages : Prop :=
  ∀ (s : State) (c : Nat), c < 18 →
    let x := getCtx s c
    (∀ m r tail, r < 4 → pageGate s m = .serve → tail < 2 ^ ringLog (getRing x r).cfg → ∃ t, exec (.ringDoorbell m c r tail) s = .next t ∧
      getRing (getCtx t c) r = { getRing x r with tail := tail } ∧
      (getCtx t c).st = (if x.st = .idle ∧ anyRing (setRing x r { getRing x r with tail := tail }) then .ready else x.st)) ∧
    (∀ a b r, x.st = .ready → x.run = .idle → x.due = [] → firstFrom 4 x.ringTurn (ringHas x) = some r →
      ∃ t, exec (.ringEntryFetch c a b) s = .next t ∧ (getCtx t c).run = .entry r (getRing x r).head a b ∧
        getRing (getCtx t c) r = { getRing x r with head := ((getRing x r).head + 1) % 2 ^ ringLog (getRing x r).cfg } ∧
        ∀ q, q ≠ r → getRing (getCtx t c) q = getRing x q) ∧
    (∀ v : W32, s.glb.inReset = false → ∃ t, exec (.cqHeadWrite c v) s = .next t ∧ getCtx t c = { x with cqHead := fld v 0 16, cmpArmed := true } ∧
      ∀ j, j ≠ c → getCtx t j = getCtx s j) ∧
    (∀ r, x.due = [r] → cqFull x = false → ∃ t, exec (.completionRingRoom c) s = .next t ∧ (getCtx t c).due = [] ∧
      (getCtx t c).cqTail = (x.cqTail + 1) % 2 ^ ringLog x.cqCfg) ∧
    (s.glb.inReset = false → ∃ t, exec (.ctxStateRead c) s = .next t ∧ getCtx t c = { x with evtArmed := true } ∧
      t.out = s.out ++ [.barData (if s.cmd.active then 1 else 0) (natLe 4 (ctxStatus x).toNat)]) ∧
    (∀ v : W32, bit v 0 = true → s.glb.inReset = false → x.st = .halted → ∃ t, exec (.ctxResumeWrite c v) s = .next t ∧
      (getCtx t c).st = (if x.wait ≠ .none then .waiting else if x.run ≠ .idle ∨ anyRing x then .ready else .idle)) ∧
    (s.glb.inReset = false → ∃ t, exec (.haltRequest c) s = .next t ∧
      (x.st = .ready ∨ x.st = .idle → getCtx t c = { x with st := .halted, haltReq := false }) ∧
      (∀ op d n b, x.st = .waiting → x.wait = .load op d n b → getCtx t c = { x with haltReq := true }) ∧
      (∀ j, j ≠ c → getCtx t j = getCtx s j)) ∧
    (∀ v : W64, x.st = .halted ∨ x.st = .faulted → ∃ t, exec (.contextRegisterWrite c v) s = .next t ∧
      (x.ksel < 16 → ∀ i, kget (getCtx t c) i = if i = BitVec.ofNat 4 x.ksel ∧ i ≠ 0 then v else kget x i) ∧
      (x.ksel = 16 → (getCtx t c).pc = v.setWidth 20) ∧
      (x.ksel = 17 → (getCtx t c).z = bit v 3 ∧ (getCtx t c).n = bit v 2 ∧ (getCtx t c).c = bit v 1 ∧ (getCtx t c).v = bit v 0))

/-- How messages enter the core (R77, R95, R96, R119, R123, R197): a flit's messages are taken in order and its credits added; the oldest
staged message of a point is admitted when the buffer and its queue have room for all its cells, and held otherwise; a held one is tried
again; a red one is admitted as any other once its meter no longer finds it red; a request whose check passes goes on to its queue, one
that the check refuses whole is logged. It rests on choices of the model: log entries 5, 16, 22, 23, 64. -/
def Obligations.MessagesEnterTheCore : Prop :=
  ∀ (s : State) (p : Nat),
    (p < 96 → carrying s p = true → roleOf (getPort s p) ≠ 5 → ∀ f : Flit,
      (f.msgs = [] → f.conts = [] → ∃ t, exec (.flitReceive p f) s = .next t ∧ t.core = s.core ∧ (getPort t p).reqCredit = (getPort s p).reqCredit + f.reqCredits ∧
        (getPort t p).rspCredit = (getPort s p).rspCredit + f.rspCredits ∧ ∀ j, j ≠ p → getPort t j = getPort s j) ∧
      (∀ m, ∃ t, exec (.flitReceive p f) s = .next t ∧ exec (.flitReceive p { f with msgs := f.msgs ++ [m] }) s = .next (recvMsg p t m))) ∧
    (p < 109 → ∀ resp k0, stagedHead s p resp = some k0 → k0.stage ≠ .heldRed →
      let k := { reroute s k0 with stage := k0.stage }
      k.dest ≠ .none → (∀ g, k.dest ≠ .repl g) →
      ∃ t, exec (.messageAdmission p resp) s = .next t ∧ (k0.stage = .heldBuf → exec (.heldMessageRetry p resp) s = .next t) ∧
        (admits s k.out (qclassOf k) (cells k.msg) = true → ∃ k' ∈ t.core.pkts, k'.id = k.id ∧ k'.msg = k.msg ∧ k'.out = k.out ∧ k'.dest = k.dest ∧
          k'.stage = if toCentre k then .centre else .queued) ∧
        (admits s k.out (qclassOf k) (cells k.msg) = false → k.out ≠ 127 → (∀ j, s.core.pkts.find? (fun x => x.id == k0.id) = some j → j = k0) → ∃ k' ∈ t.core.pkts, k'.id = k0.id ∧ k'.stage = .heldBuf ∧ k'.out = k.out)) ∧
    (p < 96 → ∀ k, s.core.pkts.find? (fun k => k.ing == p && k.stage == .heldRed) = some k →
      (∀ j, s.core.pkts.find? (fun x => x.id == k.id) = some j → j = k) →
      (meterIdx (getPort s p) k.msg k.prio = none → ∃ t, exec (.redMessageReevaluation p) s = .next t ∧
        ∃ k' ∈ t.core.pkts, k'.id = k.id ∧ k'.stage = .staged ∧ k'.prio = k.prio) ∧
      (∀ i, meterIdx (getPort s p) k.msg k.prio = some i → (getMeter s (p / 8) i).on = true →
        let r := meterEval (getMeter s (p / 8) i) (mono s) (meterLen (getMeter s (p / 8) i) k.msg)
        ∃ t, exec (.redMessageReevaluation p) s = .next t ∧ getMeter t (p / 8) i = r.2 ∧ (r.1 = .red → t.core = s.core) ∧
          (r.1 ≠ .red → ∃ k' ∈ t.core.pkts, k'.id = k.id ∧ k'.stage = .staged ∧ k'.prio = demote r.1 k.prio))) ∧
    (p < 109 → ∀ k, s.core.pkts.find? (fun k => k.ing == p && k.stage == .centre && centreReady k) = some k → p ≠ 108 → k.stw = true ∨ k.ten ≠ none →
      let n := lineCount k.msg.addr k.msg.len
      (dklLines s (centreChk k) n = none → ∀ q, k.dest = .port q → portDown (getPort s q) = false → (getQuire s (quireOf q)).busy = false →
        (∀ j, s.core.pkts.find? (fun x => x.id == k.id) = some j → j = k) →
        ∃ t, exec (.requestAtCentre p) s = .next t ∧ ∃ k' ∈ t.core.pkts, k'.id = k.id ∧ k'.stage = .queued ∧ k'.tunit = some ⟨0, q⟩ ∧ k'.msg = k.msg) ∧
      (∀ v, dklLines s (centreChk k) n = some (0, v) → s.dkl.log.length < 32 →
        ∃ t, exec (.requestAtCentre p) s = .next t ∧ t.dkl.log.length = s.dkl.log.length + 1))

/-- A scheduler round (R89 to R94): of the requests raised, the two iterations match each input and each output at most once; a match of
the first iteration is the least request of its output in rank, blind every eighth round, and in distance from the grant pointer; only
those matches move both pointers; an output that is asked counts the round; the matched pairs then transfer. It rests on choices of the
model: log entry 31. -/
def Obligations.SchedulerRounds : Prop :=
  ∀ (s : State),
    let l := requests s
    let m := matchRound s l
    let far (g i : Nat) : Nat := (i + 16 - g % 16) % 16
    let key (x : Rq) : Nat := (if tget 0 s.core.rounds x.j % 8 = 7 then min x.rank 1 else x.rank) * 16 + far (tget 0 s.core.gptr x.j) x.i
    (∀ x ∈ m.1 ++ m.2, x ∈ l) ∧ (m.1 ++ m.2).Pairwise (fun x y => x.i ≠ y.i ∧ x.j ≠ y.j) ∧
    (∀ x ∈ m.1, ∀ y ∈ l, y.j = x.j → key x ≤ key y) ∧
    ∃ u, exec .schedulerRound s = .next ((m.1 ++ m.2).foldl transferPair u) ∧ u.core.pkts = s.core.pkts ∧
      (∀ x ∈ m.1, tget 0 u.core.gptr x.j = (x.i + 1) % 16 ∧ tget 0 u.core.aptr x.i = (x.j + 1) % 16) ∧
      (∀ j, (∀ x ∈ m.1, x.j ≠ j) → tget 0 u.core.gptr j = tget 0 s.core.gptr j) ∧
      (∀ i, (∀ x ∈ m.1, x.i ≠ i) → tget 0 u.core.aptr i = tget 0 s.core.aptr i) ∧
      (∀ j, j < 16 → tget 0 u.core.rounds j = if l.any (fun x => x.j == j) then (tget 0 s.core.rounds j + 1) % 8 else tget 0 s.core.rounds j)

/-- How messages leave the core (R88, R102, R127, R128, R349, R352). Egress selection releases one message into a VOQ where the release
limit has room: a cadence message at rank 0, else the choice of the committed and then of the excess tier at rank 1 for a response and 2
for a request. A send slot with nothing to send leaves the queues and the port; a message that fits it whole shows on the link. A stack
port sends one leaf in every slot: INIT in training, and a leaf built from what its link holds while active. It rests on choices of the
model: log entries 24, 25, 26, 27. -/
def Obligations.MessagesLeaveTheCore : Prop :=
  ∀ (s : State) (p : Nat),
    (p < 109 →
      let moved := fun (k : Pkt) (r : Nat) (t : State) =>
        t.core.pkts = (s.core.pkts.filter fun x => x.id != k.id) ++ [{ k with stage := .voq, rank := r }]
      (∀ k, pickCad s p = some k → hasRoom s p (cells k.msg) = true → ∃ t, exec (.egressSelection p) s = .next t ∧ moved k 0 t) ∧
      (∀ k q, pickCad s p = none → (pickTier s p 0 = some (k, q) ∨ pickTier s p 0 = none ∧ pickTier s p 1 = some (k, q)) →
        hasRoom s p (cells k.msg) = true →
        ∃ t, exec (.egressSelection p) s = .next t ∧ moved k (if k.resp then 1 else 2) t) ∧
      (pickCad s p = none → pickTier s p 0 = none → pickTier s p 1 = none → exec (.egressSelection p) s = .next s)) ∧
    (p < 96 → carrying s p = true → roleOf (getPort s p) ≠ 5 →
      (nextSend s p = none → ∃ t, exec (.flitSend p) s = .next t ∧ t.core = s.core ∧ t.port = s.port ∧ t.out = s.out) ∧
      (∀ k, nextSend s p = some k → k.sent = 0 → egressBad s p k = none → sendable k = cells k.msg → 0 < cells k.msg →
        cells k.msg ≤ (wireUnit s p).1 → (∀ i, k.org ≠ .mirror i) → kind1Copy s k = none →
        ∃ t l, exec (.flitSend p) s = .next t ∧ t.out = s.out ++ .linkMsg p (onLink s p k.msg) :: l)) ∧
    (p < 96 → roleOf (getPort s p) = 5 → portDown (getPort s p) = false → (getQuire s (quireOf p)).rst = .run → (getQuire s (quireOf p)).busy = false →
      let x := getPort s p
      (x.link = .training → x.ifl.st = .init → ∃ t h b, exec (.leafTransmit p) s = .next t ∧ t.out = s.out ++ [.leaf p (leafBytes h b)] ∧
        h.type = 3 ∧ h.nslots = 0 ∧ h.seq = x.ifl.nextTx ∧ h.ack = x.ifl.lastRx ∧ t.core = s.core) ∧
      (x.link = .up → x.ifl.st = .active → ∃ t h b l, exec (.leafTransmit p) s = .next t ∧ t.out = s.out ++ l ++ [.leaf p (leafBytes h b)] ∧
        h.ack = (getPort t p).ifl.lastRx ∧ h.req = (getPort t p).ifl.reqUsed ∧ h.rsp = (getPort t p).ifl.rspUsed))

/-- Fences, windows, samples, members of group writes and mirror rings (R85, R106, R131, R134, R138). A fence is released exactly when no
message it waits for is left, and the messages it held are then free. A window opens once after its reference's edge when its offset is
reached, with its byte budget, and closes after its length. A histogram sample counts every queue's depth in one bin, and the delay of
each queue that holds a message; while counting is stopped it is skipped and counted. A member that fails becomes stale. It rests on
choices of the model: log entries 29, 30, 87. -/
def Obligations.FencesWindowsAndMembers : Prop :=
  ∀ (s : State),
    (∀ g, g < 64 → let e := getEcmp s g
      let ended := e.fence = true ∧ ∀ k ∈ s.core.pkts, k.id ∉ e.stale
      (ended → ∃ t, exec (.repinningFenceRelease g) s = .next t ∧ getEcmp t g = { e with fence := false, stale := [] } ∧
        (∀ h, h ≠ g → getEcmp t h = getEcmp s h) ∧ t.core.pkts = s.core.pkts.map fun k => if k.fence = .ecmp g then { k with fence := .none } else k) ∧
      (¬ended → exec (.repinningFenceRelease g) s = .next s)) ∧
    (∀ n, n < 64 → let c := getCad s n
      let ended := c.fence ≠ none ∧ ∀ k ∈ s.core.pkts, k.stage = .queued → k.id ∉ c.stale
      (ended → ∃ t, exec (.cadenceFenceRelease n) s = .next t ∧ getCad t n = { c with fence := none, stale := [] } ∧
        (∀ h, h ≠ n → getCad t h = getCad s h) ∧ t.core.pkts = s.core.pkts.map fun k => if k.fence = .cad n then { k with fence := .none } else k) ∧
      (¬ended → exec (.cadenceFenceRelease n) s = .next s) ∧
      (∀ w, w < 16 → let r := getRef s c.ref
        let since := (now s - r.last).toNat
        let off := (tget 0 c.off w).toNat
        (c.on = true → w < c.nwin → r.enable = true → r.locked = true → off ≤ since → since < off + (tget 0 c.len w).toNat → c.openAt ≠ r.last.toNat + off →
          ∃ t, exec (.cadenceWindowOpen n w) s = .next t ∧ (∀ h, h ≠ n → getCad t h = getCad s h) ∧
            getCad t n = { c with opened := true, win := w, used := 0, openAt := r.last.toNat + off, pendingG := (tget 0 c.bytes w).toNat,
                                  pendingLen := (tget 0 c.len w).toNat }) ∧
        (c.on = false ∨ c.nwin ≤ w ∨ r.locked = false ∨ since < off → exec (.cadenceWindowOpen n w) s = .next s)) ∧
      (c.opened = true → c.openAt + c.pendingLen ≤ (now s).toNat →
        ∃ t, exec (.cadenceWindowClose n) s = .next t ∧ getCad t n = { c with opened := false } ∧ ∀ h, h ≠ n → getCad t h = getCad s h) ∧
      ((now s).toNat < c.openAt + c.pendingLen → exec (.cadenceWindowClose n) s = .next s)) ∧
    (∀ o, o < 109 → let v := (getOutP s o).histCfg
      bit v 31 = true → sampleDue s v = true →
      (s.cnt.frozen = false → ∃ t, exec (.histogramSample o) s = .next t ∧ ∀ n, n < 16 →
        let q := getQ s o n
        let w := min 15 (fld v 0 5)
        let b := min 20 (fld v 8 5)
        (∀ i, tget 0 (getQ t o n).depth i = if i = min 15 (qlen s o n / 2 ^ w) then min 0xFFFFFFFF (tget 0 q.depth i + 1) else tget 0 q.depth i) ∧
        (oldestIn s o n = none → (getQ t o n).delay = q.delay) ∧
        ∀ a, oldestIn s o n = some a → ∀ i, tget 0 (getQ t o n).delay i =
          if i = delayBin b (now s - a).toNat then min 0xFFFFFFFF (tget 0 q.delay i + 1) else tget 0 q.delay i) ∧
      (s.cnt.frozen = true → ∃ t, exec (.histogramSample o) s = .next t ∧ t.core = s.core ∧ t.cnt.skips = min 0xFFFFFFFF (s.cnt.skips + 1))) ∧
    (∀ w m, m < 16 → s.core.rwrites.find? (fun x => x.id == w.id) = some w → m ∈ w.pending → w.done = false → ∀ ok,
      let w' := { w with pending := w.pending.filter (· != m), okd := if ok then w.okd ++ [m] else w.okd, failed := if ok then w.failed else w.failed ++ [m] }
      rwOutcome (getRgrp s w.group) w' = none → rwOutcome (setMemState (getRgrp s w.group) m 2) w' = none →
      ∃ t, exec (.replicaMemberCompletion w.id m ok) s = .next t ∧
        t.core.rwrites = s.core.rwrites.map (fun x => if x.id == w.id then w' else x) ∧
        (ok = true → ∀ g, getRgrp t g = getRgrp s g) ∧
        (ok = false → ∀ g, getRgrp t g = if g = w.group then setMemState (getRgrp s g) m 2 else getRgrp s g) ∧
        (ok = false → rgKind1 (getRgrp s w.group).header = false → ∃ u, exec (.replicaMemberTimeout w.id m) s = .next u ∧
          u.core.rwrites = t.core.rwrites ∧ ∀ g, getRgrp u g = getRgrp t g)) ∧
    (∀ i c, i < 8 → (getMir s i).reading = true → (getMir s i).waiting = [] → (getMir s i).closing = false →
      ∃ t, exec (.mirrorConsumerReadDone i c) s = .next t ∧
        ∀ j, getMir t j = if j = i then { getMir s i with reading := false, consumer := c } else getMir s j)

/-- Ports come up (R15, R47 to R52, R60, R75, R336, R366 to R371): an enable that R49 allows takes the fields and starts training, one
that it refuses leaves the port disabled with cfg_error; a disable idles the lanes; training ends in L0 with the mode, rate and width the
two ends share, or fails; a link toward 32 or 64 GT/s first waits for a training burst. It rests on choices of the model: log entries 55,
56. -/
def Obligations.PortsComeUp : Prop :=
  ∀ (s : State) (p : Nat) (v : W32), p < 96 → leadPort s p = true →
    let x := getPort s p
    (x.enabled = false → fld v 26 2 = widthOf x → bit v 31 = true →
      (enableOk s p { x with cfg := v } = true → roleOf { x with cfg := v } ≠ 0 → x.rst = .run → x.dpcTrig = false → x.link = .off →
        ∃ t, exec (.portEnable p v) s = .next t ∧ (getPort t p).cfg = v ∧ (getPort t p).link = .training ∧ ∀ j, j ≠ p → getPort t j = getPort s j) ∧
      (enableOk s p { x with cfg := v } = false →
        ∃ t, exec (.portEnable p v) s = .next t ∧ (getPort t p).enabled = false ∧ (getPort t p).cfgError = true ∧ ∀ j, j ≠ p → getPort t j = getPort s j)) ∧
    (x.enabled = true → bit v 31 = false → ∃ t, exec (.portDisable p v) s = .next t ∧ (getPort t p).enabled = false ∧ (getPort t p).link = .off ∧
      ∀ j, j ≠ p → getPort t j = getPort s j) ∧
    ((∀ e ∈ s.port, e.1 = p ∨ e.2.hpEn = false ∨ e.2.slotId ≠ fld v 0 5) → ∃ t, exec (.portHpWrite p v) s = .next t ∧
      ∀ j, getPort t j = if j = p then { x with hpEn := bit v 31, dpcCa := bit v 30, fmCap := bit v 29, slotId := fld v 0 5 } else getPort s j) ∧
    (x.link = .training → x.refOk = true → x.ifl.st ≠ .init → ∀ r : Partner, r.loopback = false →
      (negotiate x r = none → ∃ t, exec (.linkTrained p r) s = .next t ∧ (getPort t p).link = .down) ∧
      (∀ m a n, negotiate x r = some (m, a) → m ≠ 5 →
        chooseWidth x (goodLanes s x r) (r.reversed && bit x.lanes.cfg 27) (4 * span x) = some n →
        (a < 4 ∨ quireOf p ∈ s.pwr.trainBurst → ∃ t, exec (.linkTrained p r) s = .next t ∧
          let y := getPort t p
          y.link = .up ∧ y.mode = m ∧ y.rate = a ∧ y.lanesUsed = n ∧ y.reqCredit = r.reqCredits ∧ y.rspCredit = r.rspCredits) ∧
        (4 ≤ a → quireOf p ∉ s.pwr.trainBurst → quireOf p ∉ s.pwr.trainWait → ∃ t, exec (.linkTrained p r) s = .next t ∧
          t.port = s.port ∧ t.pwr = { s.pwr with trainWait := s.pwr.trainWait ++ [quireOf p] }))) ∧
    (x.link = .down → x.enabled = true → x.rst = .run → x.dpcTrig = false → x.refOk = true → ∃ t, exec (.trainingRetry p) s = .next t ∧
      ∀ j, getPort t j = if j = p then { x with link := .training } else getPort s j) ∧
    (x.link = .training → ∀ b, ∃ t, exec (.loopbackRequestReceived p b) s = .next t ∧
      ∀ j, getPort t j = if j = p then { x with loopbackRefused := true, link := if b then .down else .training } else getPort s j) ∧
    (x.link = .recovery → x.mode ≠ 5 → ∃ t, exec (.linkRecoveryExit p) s = .next t ∧ (getPort t p).link = .up ∧ ∀ j, j ≠ p → getPort t j = getPort s j) ∧
    (roleOf x = 4 → x.link = .up → x.gwOk = false →
      (∃ t, exec (.gatewayRepeat p) s = .next t ∧ t.out = s.out ++ [.mgmt p 0x0C (gatewayMsg s p)] ∧ t.port = s.port) ∧
      (∃ t, exec (.gatewayTimeout p) s = .next t ∧ (getPort t p).link = .down ∧ (getPort t p).cfgError = true ∧ ∀ j, j ≠ p → getPort t j = getPort s j))

/-- Links lost, containment, hot plug and IDE (R62, R63, R67 to R69, R73, R304, R307, R456). A link lost, an error message that Trigger
Enable names, a hot reset, a secondary bus reset and a failed MAC reset the port: its tag rises by one and its link is off; the first two
of a bound downstream port hold it in DPC, which either clear ends. It rests on choices of the model: log entries 40, 57, 58, 60. -/
def Obligations.PortsGoDown : Prop :=
  ∀ (s : State) (p : Nat), p < 96 →
    let x := getPort s p
    let resets := fun (t : State) => (getPort t p).rst = .inReset ∧ (getPort t p).link = .off ∧ (getPort t p).genTag = x.genTag + 1 ∧
      ∀ j, j ≠ p → sansIfl (getPort t j) = sansIfl (getPort s j)
    (x.rst = .run → portWaits s p = false →
      (trainedLink x = true → x.mode ≠ 5 → ∃ t, exec (.linkDown p) s = .next t ∧ resets t ∧ (getPort t p).dpcTrig = (x.dpcTrig || boundDown s p)) ∧
      (x.link = .up → boundDown s p = true → x.dpcTrig = false → ∀ f,
        (bindingsOf s p).any (fun v => let e := (getVppb s v.1 v.2).dpcEnable; e == 2 || (e == 1 && f)) = true →
        ∃ t, exec (.errMessageReceived p f) s = .next t ∧ resets t ∧ (getPort t p).dpcTrig = true) ∧
      (roleOf x = 1 → trainedLink x = true → ∃ t, exec (.hotResetReceived p) s = .next t ∧ resets t) ∧
      (∀ n v, n < 16 → v < 64 → v ≠ 0 → (getTen s n).exist = true → (getVppb s n v).bind = .dev p →
        ∃ t, exec (.secondaryBusReset n v) s = .next t ∧ resets t) ∧
      (x.ideSecure = true → fld x.cfg 18 2 ≠ 1 → ∃ t, exec (.ideMacFailure p) s = .next t ∧ resets t ∧ (getPort t p).ideSecure = false)) ∧
    (x.dpcTrig = true → x.enabled = true → roleOf x ≠ 0 → x.rst = .run → x.link = .off →
      ∃ t, exec (.dpcStatusClearByHost p) s = .next t ∧ exec (.dpcTrigClear p) s = .next t ∧
        ∀ j, getPort t j = if j = p then { x with dpcTrig := false, link := .training } else getPort s j) ∧
    (x.hpEn = true → boundDown s p = true → ∀ b, ∃ t, exec (.hostPowerControlWrite p b) s = .next t ∧
      ∀ j, getPort t j = if j = p then { x with hpPending := true, hpOff := b } else getPort s j) ∧
    (leadPort s p = true →
      (x.hpPending = true → ∃ t, exec (.hpRefuse p) s = .next t ∧ ∀ j, getPort t j = if j = p then { x with hpPending := false } else getPort s j) ∧
      (x.hpPending = false → ∃ t, exec (.hpRefuse p) s = .next t ∧ t.port = s.port ∧ t.ten = s.ten)) ∧
    (∀ n g, n < 16 → g < 64 → (getTen s n).exist = true → bit (getVppb s n 0).mcast g = false → ∀ r, freeRgrp s = some r →
      ∃ t, exec (.hostMcEnableWrite n g) s = .next t ∧ (getRgrp t r).header = hostMcHeader n ∧ bit (getVppb t n 0).mcast g = true ∧
        tget 1024 (getVppb t n 0).mcGroup g = r) ∧
    (x.link = .up →
      (∃ t, exec (.ideKeyManagement p .linkIdeForIo) s = .next t ∧ t.port = s.port ∧ t.out = s.out ++ [.ide p false]) ∧
      (∀ e, (x.mode = 1 ∨ x.mode = 2) → (fld x.cfg 18 2 = 1 ∨ fld x.cfg 18 2 = 2) → 1 ≤ e → e ≤ 5 →
        ∃ t, exec (.ideKeyManagement p (.setKeys e)) s = .next t ∧ t.out = s.out ++ [.ide p true] ∧
          ∀ j, getPort t j = if j = p then { x with ideKeys := true, ideSecure := true, ideEpoch := e } else getPort s j))

/-- The Fabric Manager API (R56, R65, R418): which requests are served, and what each answers. A request on a port that does not take the
API is dropped; before S0 starts every answer is Busy; where the Steward owns the API the request queues for S1 as its event 18; else the
responder answers, with the words S1 would read, or the effect of BIND, UNBIND, PORT_CFG, RESETU or SIGNAL; a command for an MLD goes to
it. It rests on choices of the model: log entries 13, 35, 36. -/
def Obligations.FabricManagerCommands : Prop :=
  ∀ (s : State) (src : FmSrc) (p op t v : Nat) (reg : CfgReg) (wr : Bool) (val line ld opc : Nat) (imm : W32) (B : W64) (b : List Byte),
    fmKnown opc = false →
    (∀ i ∈ [Instr.fmIdentifySwitchDevice src, .fmGetPhysicalPortState src p, .fmPhysicalPortControl src p op,
        .fmSendPpbConfigRequest src t v reg wr val, .fmGetVirtualSwitchInfo src t, .fmBindVppb src imm B, .fmUnbindVppb src imm B,
        .fmGenerateAerEvent src t line, .fmTunnelManagementCommand src p b, .fmSendLdConfigRequest src p ld b,
        .fmSendLdMemoryRequest src p ld b, .fmUnsupportedOpcode src opc],
      (fmArrives s src = false → exec i s = .next s) ∧
      (fmArrives s src = true → fmPortOk s src = false → ∃ u, exec i s = .next u ∧ u.out = s.out ∧ u.port = s.port ∧ u.ten = s.ten) ∧
      (fmArrives s src = true → fmPortOk s src = true →
        (s.glb.bootStage ≠ 4 → exec i s = .next (emit s (.fm src 6 []))) ∧
        (s.glb.bootStage = 4 → s.glb.fmApiOwn = true → ∃ u, exec i s = .next u ∧ u.cmd.fmQueue = s.cmd.fmQueue ++ [src] ∧ u.port = s.port ∧ u.ten = s.ten))) ∧
    (fmArrives s src = true → fmPortOk s src = true → s.glb.bootStage = 4 → s.glb.fmApiOwn = false →
      let answers := fun (i : Instr) (u : State) (st : Nat) (l : List Nat) => exec i s = .next (emit u (.fm src st l))
      (∀ a1 a2 a3 a4 s1 s2 s3 s4, busRead s (.ctx 1) 0 = (some a1, s1) → busRead s1 (.ctx 1) 0xC = (some a2, s2) →
        busRead s2 (.ctx 1) 0x10 = (some a3, s3) → busRead s3 (.ctx 1) 0x14 = (some a4, s4) →
        answers (.fmIdentifySwitchDevice src) s4 0 [a1.toNat, a2.toNat, a3.toNat, a4.toNat]) ∧
      (∀ a1 a2 a3 s1 s2 s3, leadPort s p = true → busRead s (.ctx 1) (portBase p) = (some a1, s1) → busRead s1 (.ctx 1) (portBase p + 4) = (some a2, s2) →
        busRead s2 (.ctx 1) (portBase p + 8) = (some a3, s3) → answers (.fmGetPhysicalPortState src p) s3 0 [a1.toNat, a2.toNat, a3.toNat]) ∧
      (leadPort s p = false → answers (.fmGetPhysicalPortState src p) s 2 [] ∧ answers (.fmPhysicalPortControl src p op) s 2 []) ∧
      (leadPort s p = true →
        ((getPort s p).rst = .run → portWaits s p = false → answers (.fmPhysicalPortControl src p 0) (resetPort s p) 0 []) ∧
        answers (.fmPhysicalPortControl src p 1) (busWrite s (.ctx 1) (portBase p) (setFld (getPort s p).cfg 31 1 1)) 0 [] ∧
        answers (.fmPhysicalPortControl src p 2) (busWrite s (.ctx 1) (portBase p) (setFld (getPort s p).cfg 31 1 0)) 0 [] ∧
        (2 < op → answers (.fmPhysicalPortControl src p op) s 2 [])) ∧
      ((getTen s t).exist = true → vppbThere s t v = true →
        answers (.fmSendPpbConfigRequest src t v reg false val) s 0 [cfgRead s t v reg] ∧
        answers (.fmSendPpbConfigRequest src t v reg true val) (cfgWrite s t v reg val) 0 []) ∧
      (∀ a1 s1, t < 16 → busRead s (.ctx 1) (tenBase t) = (some a1, s1) → answers (.fmGetVirtualSwitchInfo src t) s1 0
        ((((getTen s t).vppb.filter fun e => e.2.bind != .none).flatMap fun e => [e.1, (bindKind e.2.bind).getD 7, (bindPbr s e.2.bind).getD 0]) ++ [a1.toNat])) ∧
      (passes (bindChk s 1 (bindArg imm B) imm B) → let f := bindDo s (bindArg imm B)
        (f.st = 0 → answers (.fmBindVppb src imm B) f.s 0 [f.kd.toNat]) ∧ (f.st = 2 → answers (.fmBindVppb src imm B) f.s 6 [])) ∧
      (passes (unbindChk s 1 (bindArg imm B) imm B) → let f := unbindDo s (bindArg imm B)
        (f.st = 0 → answers (.fmUnbindVppb src imm B) f.s 0 [f.kd.toNat]) ∧ (f.st = 2 → answers (.fmUnbindVppb src imm B) f.s 6 [])) ∧
      (line < 8 → (getCtx s (ctxOf t)).st ≠ .off → (getCtx s (ctxOf t)).st ≠ .inReset → answers (.fmGenerateAerEvent src t line) (evLatch s (ctxOf t) line) 0 []) ∧
      (∀ n, carrying s p = true → (getPort s p).dev = .mld n → 0 < n →
        exec (.fmTunnelManagementCommand src p b) s = .next (emit s (.mldForward p 0xFFFF b)) ∧
        (ld < n → exec (.fmSendLdConfigRequest src p ld b) s = .next (emit s (.mldForward p ld b)) ∧
          exec (.fmSendLdMemoryRequest src p ld b) s = .next (emit s (.mldForward p ld b))) ∧
        (n ≤ ld → answers (.fmSendLdConfigRequest src p ld b) s 2 [] ∧ answers (.fmSendLdMemoryRequest src p ld b) s 2 [])) ∧
      answers (.fmUnsupportedOpcode src opc) s 3 [])

/-- The tap (R466, R467): what each instruction loads and shows. EXTEST and CLAMP drive the pins only after RESET_N's rise, with tap_en
set, no port or pool channel enabled and no slot with its ON permission; else they act as BYPASS. IDCODE shows the part's stepping. It
rests on choices of the model: log entries 13, 37. -/
def Obligations.TapInstructions : Prop :=
  ∀ (s : State),
    let with_ := fun (ir ld : TapIr) => ({ s with tap := { s.tap with ir := ir, loaded := ld } } : State)
    let free := s.glb.inReset = false ∧ s.glb.tapEn = true ∧ (∀ e ∈ s.port, e.2.enabled = false) ∧ (∀ e ∈ s.pool.chan, e.2.enable = false) ∧
      ∀ e ∈ s.slot, e.2.st = .off ∨ e.2.st = .latched ∨ e.2.st = .pdf ∨ e.2.st = .inReset
    exec .tapReset s = .next (with_ .idcode .idcode) ∧ exec .tapBypass s = .next (with_ .bypass .bypass) ∧ exec .tapHighz s = .next (with_ .highz .highz) ∧
    (∃ n, exec .tapIdcode s = .next (emit (with_ .idcode .idcode) (.tdo (bitsOf 32 n))) ∧ n = s.glb.stepping.toNat % 16 * 2 ^ 28 + 0x96 * 2 ^ 12 + 0x5E3 * 2 + 1) ∧
    (∀ l, ∃ t, exec (.tapSamplePreload l) s = .next t ∧ t.tap = { s.tap with ir := .sample, loaded := .sample, boundary := l } ∧ t.out = s.out ++ [.tdo l]) ∧
    (free → exec .tapExtest s = .next (with_ .extest .extest) ∧ exec .tapClamp s = .next (with_ .clamp .clamp)) ∧
    (¬free → exec .tapExtest s = .next (with_ .bypass .extest) ∧ exec .tapClamp s = .next (with_ .bypass .clamp))

/-- Pool channels (R139 to R144, R154): an enable starts training from any state but reset; a disable is ignored while the channel is a
member of an enabled group; training ends in trained with the capacity found, or in failed with the code of the first check that failed;
initialisation takes a trained channel, and at its end every line of the channel reads zero and no line of another has changed; a channel
lost after training fails with code 9. Interleave groups and the pool (R145, R146, R148): an enable succeeds exactly when the mask names
at least one channel, and every channel it names is ready and in no other enabled group; the members are then grouped. A disable is
refused while a sheet names the group. The pool opens with a group enabled, and closes with no valid sheet; a refused change is recorded
and changes nothing else. It rests on choices of the model: log entry 52. -/
def Obligations.PoolChannelsAndGroups : Prop :=
 (∀ (s : State) (ch : Nat), ch < 12 →
    let x := getChan s ch
    let sets := fun (i : Instr) (y : Chan) => ∃ t, exec i s = .next t ∧ (∀ j, getChan t j = if j = ch then y else getChan s j) ∧ t.pool.mem = s.pool.mem ∧
      t.pool.grp = s.pool.grp ∧ t.pool.sheet = s.pool.sheet
    (x.enable = false → x.st ≠ .inReset → sets (.poolChEnable ch) { x with enable := true, st := .training, fail := 0 }) ∧
    (x.enable = true → exec (.poolChEnable ch) s = .next s) ∧
    (x.enable = true → x.st ≠ .inReset → (∀ g ∈ s.pool.grp, g.2.enable = false ∨ bit g.2.mask ch = false) →
      sets (.poolChDisable ch) { x with enable := false, st := .off, stBefore := .off, fail := 0, dimms := 0, capacity := 0, mrdimm := none }) ∧
    ((∃ g ∈ s.pool.grp, g.2.enable = true ∧ bit g.2.mask ch = true) → exec (.poolChDisable ch) s = .next s) ∧
    (x.st = .training → ∀ m : Spd,
      (chanFail s m = 0 → sets (.channelTrainingDone ch m) { x with fail := 0, dimms := min 2 m.dimms, st := .trained, capacity := m.units, mrdimm := some m.mrdimm }) ∧
      (∀ f, chanFail s m = f → f ≠ 0 → sets (.channelTrainingDone ch m) { x with fail := f, dimms := min 2 m.dimms, st := .failed, capacity := 0, mrdimm := none }) ∧
      (m.dimms = 0 → chanFail s m = 1) ∧ (chanFail s m = 0 → m.units ≤ 2048 ∧ m.readable = true ∧ m.x4Org = true ∧ m.trains = true ∧ s.pool.rate ∈ m.rates)) ∧
    (x.st = .trained → sets (.initStart ch) { x with st := .initialising }) ∧ (x.st ≠ .trained → exec (.initStart ch) s = .next s) ∧
    (x.st = .initialising → ∃ t, exec (.channelInitDone ch) s = .next t ∧ (∀ j, getChan t j = if j = ch then { x with st := .ready } else getChan s j) ∧
      ∀ a, tget 0 t.pool.mem a = if a / 2 ^ 40 = ch then 0 else tget 0 s.pool.mem a) ∧
    (x.st ≠ .initialising → exec (.channelInitDone ch) s = .next s) ∧
    ((x.st = .trained ∨ x.st = .initialising ∨ x.st = .ready ∨ x.st = .grouped) → ∃ u t, exec (.channelLost ch) s = .next t ∧
      (∀ j, getChan u j = if j = ch then { x with st := .failed, fail := 9 } else getChan s j) ∧ t = restartTakes s (leaveService u ch)) ∧
    ((x.st = .off ∨ x.st = .training ∨ x.st = .failed ∨ x.st = .inReset) → exec (.channelLost ch) s = .next s)) ∧
 (∀ (s : State),
    (∀ g v, g < 16 →
      let x := getGrp s g
      let m : BitVec 12 := v.setWidth 12
      let r := x.refused && !bit v 30
      let ready := m ≠ 0 ∧ ∀ c, c < 12 → bit m c = true → (getChan s c).st = .ready ∧ ∀ h ∈ s.pool.grp, h.1 = g ∨ h.2.enable = false ∨ bit h.2.mask c = false
      (bit v 31 = true → x.enable = false →
        (ready → ∃ t, exec (.poolGrpEnable g v) s = .next t ∧
          (∀ h, getGrp t h = if h = g then { x with enable := true, mask := m, slots := grpSlots s m, map := [], refused := r } else getGrp s h) ∧
          ∀ c, getChan t c = if c < 12 ∧ bit m c = true then { getChan s c with st := .grouped } else getChan s c) ∧
        (¬ready → ∃ t, exec (.poolGrpEnable g v) s = .next t ∧ (∀ h, getGrp t h = if h = g then { x with refused := true } else getGrp s h) ∧
          t.pool.chan = s.pool.chan)) ∧
      (bit v 31 = false → x.enable = true →
        (grpNamed s g = false → ∃ t, exec (.poolGrpDisable g v) s = .next t ∧
          (∀ h, getGrp t h = if h = g then { x with enable := false, slots := 0, map := [], refused := r } else getGrp s h) ∧
          ∀ c, getChan t c = if c < 12 ∧ bit x.mask c = true ∧ (getChan s c).st = .grouped then { getChan s c with st := .ready } else getChan s c) ∧
        (grpNamed s g = true → ∃ t, exec (.poolGrpDisable g v) s = .next t ∧ (∀ h, getGrp t h = if h = g then { x with refused := true } else getGrp s h) ∧
          t.pool.chan = s.pool.chan))) ∧
    (s.pool.opened = false →
      ((∃ g ∈ s.pool.grp, g.2.enable = true) → exec .poolOpen s = .next { s with pool := { s.pool with opened := true } }) ∧
      ((∀ g ∈ s.pool.grp, g.2.enable = false) → exec .poolOpen s = .next { s with pool := { s.pool with openErr := true } }) ∧
      exec .poolClose s = .next s) ∧
    (s.pool.opened = true →
      ((∀ e ∈ s.pool.sheet, shValid e.2 = false) → exec .poolClose s = .next { s with pool := { s.pool with opened := false } }) ∧
      ((∃ e ∈ s.pool.sheet, shValid e.2 = true) → exec .poolClose s = .next { s with pool := { s.pool with openErr := true } }) ∧
      exec .poolOpen s = .next s))

/-- The home takes requests in order, each by the row of its kind (R171, R175, R177, R182, R184): a row waits where the next request is of
another kind; a request for a line with no transaction, no directory entry and a serving channel opens one, which reads, or writes where
it covers the line; a caching read puts a pinned entry into a free way; a writeback by the owner writes; a clean eviction takes its sharer
out of the entry and is answered at once. The last clause of the premises, that no snoop waits to be issued, rules out only other lines'
work in the same step. What ends a transaction's steps (R155 to R165, R177 to R182, R186 to R192). A read that decodes answers the request
with the line's bytes and closes the transaction; an accepted write puts the line, and no other byte, into its copy, and the last one
closes the transaction; a snoop answer removes its snoop; an answer or a conflict no one waits for is logged; a timeout takes the tenant's
domain down with its sharer; a reset walk frees the tenant's entries and brings the domain back; the scrubber goes on to its channel's
next line. It rests on choices of the model: log entries 7, 9, 41, 71. -/
def Obligations.HomeRequestsAndEvents : Prop :=
 (∀ (s : State) (ch : Nat), ch < 12 →
    let rows : List (Instr × (HKind → Prop)) := [(.homeRds ch, fun k => k = .rds), (.homeRde ch, fun k => k = .rde), (.homeRdnc ch, fun k => k = .rdnc ∨ k = .refresh),
      (.homeWrnc ch, fun k => k = .wrnc), (.homeEvd ch, fun k => k = .evd), (.homeEvc ch, fun k => k = .evc), (.homeAtom ch, fun k => k = .atom)]
    (nextReq s ch = none → ∀ i ∈ rows, exec i.1 s = .next s) ∧
    (∀ r, nextReq s ch = some r →
      let line := lineOf r
      let k := (kindOf s r).1
      let sh := (kindOf s r).2
      (∀ i ∈ rows, ¬i.2 k → exec i.1 s = .next s) ∧
      (txnOf s line = none → unregistered s r = false → (∀ n, lineTen s line = some n → (getTen s n).down = false ∧ (getTen s n).inReset = false) →
        (∀ n, r.ten = some n → (getTen s n).inReset = false) → chServes s (locP s (entOf s r) (line * 64)).1 = true →
        (∀ x ∈ s.home.txns, ∀ n ∈ x.snoops, n.issued = true) →
        let queued := fun (t : State) => t.home.queue = s.home.queue.filter fun x => x.id != r.id
        let mask := if shTwo (entOf s r) then 3 else 1
        ((lineTen s line = none ∨ dirFind s line = none) →
          ((k = .rdnc ∨ k = .refresh) → ∃ t, exec (.homeRdnc ch) s = .next t ∧ queued t ∧
            txnOf t line = some { line := line, kind := k, req := some r, tenant := lineTen s line, phase := .read }) ∧
          (k = .atom → ∃ t, exec (.homeAtom ch) s = .next t ∧ queued t ∧
            txnOf t line = some { line := line, kind := k, req := some r, tenant := lineTen s line, phase := .read }) ∧
          (k = .wrnc → fullWrite r = true → ∃ t, exec (.homeWrnc ch) s = .next t ∧ queued t ∧
            txnOf t line = some { line := line, kind := k, req := some r, tenant := lineTen s line, phase := .write mask, data := some r.msg.data, poison := wrPoison r }) ∧
          (∀ w, freeWay s line = some w → (k = .rds ∨ k = .rde) → r.msg.op ≠ .memInv →
            ∃ t, exec (if k = .rds then .homeRds ch else .homeRde ch) s = .next t ∧ queued t ∧
              txnOf t line = some { line := line, kind := k, req := some r, tenant := lineTen s line, phase := .read, key := some w } ∧
              getDir t w = { valid := true, tenant := (lineTen s line).getD 0, tag := line / 2 ^ 19, st := .i, pin := true })) ∧
        (∀ n w i, lineTen s line = some n → dirFind s line = some w → sh = some i →
          (k = .evd → (getDir s w).st = .e → (getDir s w).ptrs = [i] → fullWrite r = true → ∃ t, exec (.homeEvd ch) s = .next t ∧ queued t ∧
            txnOf t line = some { line := line, kind := k, req := some r, tenant := some n, phase := .write mask, data := some r.msg.data, poison := wrPoison r, key := some w } ∧
            getDir t w = { getDir s w with pin := true }) ∧
          (k = .evc → (∀ x ∈ s.home.txns, x.phase ≠ .waitWay line) → (getDir s w).st ≠ .o → (getDir s w).frozen = false → (getDir s w).pin = false →
            let p := (getDir s w).ptrs.filter (· != i)
            ∃ t, exec (.homeEvc ch) s = .next t ∧ queued t ∧ txnOf t line = none ∧
              getDir t w = (if p = [] then { retired := (getDir s w).retired } else { getDir s w with ptrs := p }) ∧
              ∀ q, r.org = .port q → ∃ m ∈ t.core.pkts, m.resp = true ∧ m.seq = r.id ∧ m.out = q ∧ m.msg.op = rspOp r.msg.op (.done .i)))))) ∧
 (∀ (s : State) (line : Nat),
    let quiet := (∀ x ∈ s.home.txns, ∀ n ∈ x.snoops, n.issued = true) ∧ ∀ x ∈ s.home.txns, x.phase ≠ .waitWay line
    (txnOf s line = none → (∀ a b, exec (.dramReadDone line a b) s = .next s) ∧ (∀ b, exec (.dramWriteAccepted line b) s = .next s) ∧
      (∀ sh, sh < 128 → exec (.snoopTimeout line sh) s = .next s ∧ ∀ st d, ∃ t, exec (.biResponse line sh st d) s = .next t ∧
        t.home.dir = s.home.dir ∧ t.home.txns = s.home.txns ∧ (s.home.log.length < 16 → t.home.log.length = s.home.log.length + 1))) ∧
    (∀ x, txnOf s line = some x →
      let loc := (copies s x).1
      (∀ r q ecc2, x.phase = .read → x.req = some r → r.org = .port q → (x.kind = .rds ∨ x.kind = .rde ∨ x.kind = .rdnc ∧ r.msg.op ≠ .memInv) → x.chain = [] → quiet →
        chServes s loc.1 = true → dramBad s loc.1 loc.2 = false →
        ∃ t, exec (.dramReadDone line .ok ecc2) s = .next t ∧ txnOf t line = none ∧ t.pool.mem = s.pool.mem ∧
          ∃ m ∈ t.core.pkts, m.resp = true ∧ m.seq = r.id ∧ m.out = q ∧ m.msg.data = rdSpan r (dramRd s loc.1 loc.2)) ∧
      (∀ m d second, x.phase = .write m → x.data = some d → let b := if second then 2 else 1
        m &&& b ≠ 0 → let w := if second then (copies s x).2.getD loc else loc
        let put := fun (t : State) => ∀ a, tget 0 t.pool.mem a = if dramKey w.1 w.2 ≤ a ∧ a < dramKey w.1 w.2 + d.length then d.getD (a - dramKey w.1 w.2) 0 else tget 0 s.pool.mem a
        (m ≠ b → ∃ t, exec (.dramWriteAccepted line second) s = .next t ∧ put t ∧ txnOf t line = some { x with phase := .write (m - b) }) ∧
        (∀ r, m = b → x.req = some r → x.chain = [] → quiet → ∃ t, exec (.dramWriteAccepted line second) s = .next t ∧ put t ∧ txnOf t line = none)) ∧
      (∀ sh st, sh < 128 →
        (x.snoops.any (fun n => n.sharer == sh && n.issued) = true → (x.snoops.filter fun n => n.sharer != sh) ≠ [] → x.key = none →
          (∀ y ∈ s.home.txns, ∀ n ∈ y.snoops, n.issued = true) → ∃ t, exec (.biResponse line sh st []) s = .next t ∧
            txnOf t line = some { x with snoops := x.snoops.filter fun n => n.sharer != sh } ∧ t.home.dir = s.home.dir) ∧
        (∀ n, x.tenant = some n → x.snoops.any (fun n => n.sharer == sh && n.issued) = true → (getTen s n).down = false →
          ∃ t, exec (.snoopTimeout line sh) s = .next t ∧ (getTen t n).down = true ∧ (getTen t n).viral = true ∧ (getTen t n).cause = 1 ∧
            (getTen t n).dead = sh ∧ (tget {} (getTen t n).sharer sh).dead = true))) ∧
    (∀ sh, sh < 128 → let e := tget {} (getTen s ((lineTen s line).getD 16)).sharer sh
      (e.valid = true → ∃ t, exec (.biconflictReceived line sh) s = .next t ∧ ∃ m ∈ t.core.pkts, m.msg.op = .biConflictAck ∧ m.msg.addr = line * 64 ∧ m.out = e.port) ∧
      (e.valid = false → ∃ t, exec (.biconflictReceived line sh) s = .next t ∧ t.core = s.core ∧ (s.home.log.length < 16 → t.home.log.length = s.home.log.length + 1))) ∧
    (∀ n, n < 16 →
      ((∀ w ∈ s.home.walks, w.tenant ≠ n) → exec (.directoryWalkDone n) s = .next s) ∧
      (∀ w, s.home.walks.find? (fun w => w.tenant == n) = some w →
        (w.reset = true → ∃ t, exec (.directoryWalkDone n) s = .next t ∧ w ∉ t.home.walks ∧ (getTen t n).down = false ∧ (getTen t n).viral = false ∧
          ∀ e ∈ s.home.dir, e.2.valid = true → e.2.tenant = n → (getDir t e.1).valid = false) ∧
        (w.reset = false → removedEntries s w = [] → w.ctx = none → w.set = none → ∃ t, exec (.directoryWalkDone n) s = .next t ∧
          t.home.walks = s.home.walks.filter (· != w)))) ∧
    (∀ ch other, ch < 12 → let x := getChan s ch
      (x.scrubEn = false → exec (.scrubRead ch .ok other) s = .next s) ∧
      (x.scrubEn = true → scrubShare s ch ≠ 0 → (x.st = .ready ∨ x.st = .grouped) → x.scrubPos + 1 < x.capacity * 2 ^ 22 →
        ∃ t, exec (.scrubRead ch .ok other) s = .next t ∧ t.pool.mem = s.pool.mem ∧ ∀ j, getChan t j = if j = ch then { x with scrubPos := x.scrubPos + 1 } else getChan s j)))

/-- The instructions of the data mover, where their checks pass (R249, R250, R275 to R277; Table MOV-3). COPY, GATHER, RESHAPE and FILL
start their move on an idle channel that their context owns or no one does; a busy one is waited for. MVSTAT returns the status word and
may give the channel up. MVPAUSE and MVABORT ask a running move to stop and wait for it; MVRESUME lets a paused one go on; on a channel
with nothing to stop they retire without an effect. A transfer of a channel and the end of its move (R261, R262, R273, R275, R399). Only
the channel whose turn it is moves; its turn is counted, and throttling lets it pass. Asked to pause, it pauses; with every transfer made
it goes on to its flush. A move that is flushed ends: its channel is idle, its status, cause and residue are set, and its owner's event 14
is latched. It rests on choices of the model: log entries 18, 19, 44. -/
def Obligations.DataMover : Prop :=
 (∀ (s : State) (c : Nat) (w : Ox),
    let ch := fld w.imm 0 7
    let m := getMov s ch
    (m.st ≠ .inReset ∧ m.rst = .run ∧ (m.owner = 0x1F ∨ m.owner = c)) →
    (∀ i op k, (i = .copy c w ∧ op = 0x60 ∧ k = MvKind.copy) ∨ (i = .gather c w ∧ op = 0x61 ∧ k = MvKind.gather) ∨
        (i = .reshape c w ∧ op = 0x62 ∧ k = MvKind.reshape) ∨ (i = .fill c w ∧ op = 0x63 ∧ k = MvKind.fill) →
      Issues s c op w { mods := if k = .copy then 0x19 else 0x18, imm := 0x7F, B := 2 ^ 64 - 1 } →
      let space := fld w.mod 3 2
      let a := w.B.toNat
      ch ≤ 71 → (space = 0 ∨ space = 2) → (bit w.mod 0 = true → c < 2) → a % 64 = 0 →
      dklLine s { ctxChk c space a 0 with r := true } = .pass →
      ∀ b u, peekSpan (begun s c) (tenOf c) space a 64 = (some b, u) →
        let x := getCtx (begun s c) c
        let d : Desc := { parseDesc k b with refresh := bit w.mod 0, stw := isStw c, ten := c - 2, addr := w.B, addrSpace := space,
                                             cr := bit w.mod 7, irq := bit w.mod 6, source := (recSrc x).1, entry := (recSrc x).2,
                                             opcode := BitVec.ofNat 8 op }
        (∀ j v, m.st = .idle → mvChecks u ch k b d = (.ok j, v) → ∃ t, exec i s = .next t ∧ (getCtx t c).wait = .none ∧
          (let y := getMov t ch; y.st = .running ∧ y.owner = c ∧ y.job = some j ∧ y.kind = kindCodeOf j.desc.kind ∧ y.len = j.desc.len ∧
            y.cause = 0 ∧ y.residue = 0 ∧ y.poison = 0 ∧ y.last = m.last) ∧ ∀ k, k ≠ ch → getMov t k = getMov s k) ∧
        (m.st = .running ∨ m.st = .stopping → ∃ t, exec i s = .next t ∧ t.mov = s.mov ∧ (getCtx t c).wait = .again)) ∧
    (Issues s c 0x64 w { mods := 1, d := true, imm := 0x7F } → ch ≤ 71 → (bit w.mod 0 = true → m.st = .idle) →
      ∃ t, exec (.mvstat c w) s = .next t ∧ Gave [.mov] s t c w.d (mvStatus m) ∧
        ∀ k, getMov t k = if k = ch ∧ bit w.mod 0 = true then { m with owner := 0x1F } else getMov s k) ∧
    (Issues s c 0x65 w { imm := 0x7F } → ch ≤ 63 →
      (m.st = .idle ∨ m.st = .paused → ∃ t, exec (.mvpause c w) s = .next t ∧ Did [] s t c) ∧
      (∀ j, m.st = .running → m.job = some j → j.phase ≠ .flush → ∃ t, exec (.mvpause c w) s = .next t ∧ (getCtx t c).wait = .again ∧
        ∀ k, getMov t k = if k = ch then { m with st := .stopping, job := some { j with pause := true } } else getMov s k)) ∧
    (Issues s c 0x66 w { imm := 0x7F } → ch ≤ 71 →
      (m.st = .idle → ∃ t, exec (.mvabort c w) s = .next t ∧ Did [] s t c) ∧
      (∀ j, m.st = .paused → m.job = some j → ∃ t, exec (.mvabort c w) s = .next t ∧ (getCtx t c).wait = .again ∧
        ∀ k, getMov t k = if k = ch then { m with st := .stopping, job := some { j with abort := true, pause := false } } else getMov s k) ∧
      (∀ j, m.st = .running → m.job = some j → j.phase ≠ .flush → ∃ t, exec (.mvabort c w) s = .next t ∧ (getCtx t c).wait = .again ∧
        let j' := if ch < 64 then { j with abort := true } else { j with abort := true, limit := some (abortLimit j) }
        ∀ k, getMov t k = if k = ch then { m with st := .stopping, job := some j' } else getMov s k)) ∧
    (Issues s c 0x67 w { imm := 0x7F } → ch ≤ 63 → m.st = .paused → ∃ t, exec (.mvresume c w) s = .next t ∧ Did [.mov] s t c ∧
      ∀ k, getMov t k = if k = ch then { m with st := .running } else getMov s k)) ∧
 (∀ (s : State) (ch : Nat), ch < 72 →
    let m := getMov s ch
    let slow := 8 - tget 0 s.pwr.level (mvClass ch) ≤ tget 0 s.mov.opp (mvClass ch)
    (mvPick s ≠ some ch → exec (.moveTransfer ch) s = .next s) ∧
    (mvPick s = some ch →
      (slow → ∃ t, exec (.moveTransfer ch) s = .next t ∧ t.mov.turn = ch ∧ t.mov.window = (s.mov.window + 1) % 8 ∧ (∀ k, getMov t k = getMov s k) ∧
        ∀ k, tget 0 t.mov.opp k = if k = mvClass ch then (tget 0 s.mov.opp k + 1) % 8 else tget 0 s.mov.opp k) ∧
      (∀ j, ¬slow → m.job = some j → j.phase = .next →
        (j.pause = true → ∃ t, exec (.moveTransfer ch) s = .next t ∧ t.mov.turn = ch ∧
          ∀ k, getMov t k = if k = ch then { m with st := .paused, job := some { j with pause := false } } else getMov s k) ∧
        (j.pause = false → endUnit j ≤ j.pos → leftover j = false → j.wrote = [] → ∃ t, exec (.moveTransfer ch) s = .next t ∧ t.mov.turn = ch ∧
          (m.st = .running → ∀ k, getMov t k = if k = ch then { m with job := some { j with phase := .flush, flush := [] } } else getMov s k)))) ∧
    ((m.job = none ∨ ∃ j, m.job = some j ∧ (j.phase ≠ .flush ∨ j.flush ≠ [])) → exec (.moveEnd ch) s = .next s) ∧
    (∀ j, m.job = some j → j.phase = .flush → j.flush = [] → ∃ t, exec (.moveEnd ch) s = .next t ∧
      (let y := getMov t ch; y.st = .idle ∧ y.job = none ∧ y.last = endStatus j ∧ y.cause = (if j.abort then 0 else j.stop.getD 0) ∧
        y.residue = (if endStatus j = 0 then 0 else BitVec.ofNat 32 (j.desc.len - doneBytes j j.pos)) ∧ y.owner = m.owner) ∧
      (∀ k, k ≠ ch → getMov t k = getMov s k) ∧
      ((getCtx s m.owner).st ≠ .off → (getCtx s m.owner).st ≠ .inReset → bit (getCtx s m.owner).evm 14 = true → bit (getCtx t m.owner).evp 14 = true)))

/-- The time and take instructions where they take effect (R229, R251, R252, R289, R290, R297; Tables OXI-15, OXI-16). AT waits for its
instant, or retires at once when fabric time has reached it, or sets the context's AT timer, which latches event 12 at its instant.
WAITFRAME waits for an edge of a reference, and its timeout writes 0. TAKEADD opens a set of the context for staging, TAKEARM arms one
with items, TAKEDROP frees one; a set of another context, or one in a state that forbids it, leaves them without an effect. It rests on
choices of the model: log entry 50. -/
def Obligations.TimeInstructions : Prop :=
  ∀ (s : State) (c : Nat) (w : Ox),
    let i := fld w.imm 0 6
    let x := getCtx s c
    let k := getTake s i
    let one (t : State) (y : TakeSet) : Prop := ∀ j, getTake t j = if j = i then y else getTake s j
    let at_ := atTime x w
    (Issues s c 0x71 w { mods := 3, a := bit w.mod 1, B := if bit w.mod 1 then 0 else 2 ^ 64 - 1 } →
      (bit w.mod 0 = false → at_.toNat ≤ (now s).toNat → ∃ t, exec (.atWait c w) s = .next t ∧ Did [] s t c) ∧
      (bit w.mod 0 = false → (now s).toNat < at_.toNat → ∃ t, exec (.atWait c w) s = .next t ∧ (getCtx t c).st = .waiting ∧ (getCtx t c).wait = .time at_ ∧
        onlyIn [.seq] s t) ∧
      (bit w.mod 0 = true → ∃ t, exec (.atArm c w) s = .next t ∧ Did [] s t c ∧ (getCtx t c).atWait = some at_)) ∧
    (c < 18 → (∀ v, x.wait ≠ .time v) →
      ((∀ v, x.atWait = some v → (now s).toNat < v.toNat) → exec (.atTimerExpiry c) s = .next s) ∧
      (∀ v, x.atWait = some v → v.toNat ≤ (now s).toNat → ∃ t, exec (.atTimerExpiry c) s = .next t ∧ (getCtx t c).atWait = none ∧
        (x.st ≠ .off → x.st ≠ .inReset → bit x.evm 12 = true → bit (getCtx t c).evp 12 = true))) ∧
    (c < 18 → x.atWait = none → ∀ v, x.wait = .time v → x.st = .waiting →
      ((now s).toNat < v.toNat → exec (.atTimerExpiry c) s = .next s) ∧
      (v.toNat ≤ (now s).toNat → ∃ t, exec (.atTimerExpiry c) s = .next t ∧ (getCtx t c).wait = .none)) ∧
    (Issues s c 0x72 w { d := true, imm := 3, B := 2 ^ 64 - 1 } → ∃ t, exec (.waitframe c w) s = .next t ∧ (getCtx t c).st = .waiting ∧
      (getCtx t c).wait = .frame (fld w.imm 0 2) w.d (if w.B = 0 then none else some (mono s + w.B.toNat)) ∧ onlyIn [.seq] s t) ∧
    (c < 18 → x.st = .waiting → ∀ r d v, x.wait = .frame r d (some v) →
      (mono s < v → exec (.waitframeTimeout c) s = .next s) ∧
      (v ≤ mono s → ∃ t, exec (.waitframeTimeout c) s = .next t ∧ (getCtx t c).wait = .none ∧
        ∀ j n, kget (getCtx t j) n = if j = c ∧ d ≠ 0 ∧ n = d then 0 else kget (getCtx s j) n)) ∧
    (Issues s c 0x73 w { mods := 1, imm := 0x3F } →
      let mayAdd := (k.owner = 0x1F ∨ k.owner = c) ∧ k.st ≠ .preparing ∧ k.st ≠ .ready
      (mayAdd → ∃ t, exec (.takeadd c w) s = .next t ∧ Did [.time] s t c ∧ (getCtx t c).staging = some i ∧
        one t { k with st := .staging, owner := c, items := if bit w.mod 0 then [] else k.items }) ∧
      (¬mayAdd → ∃ t, exec (.takeadd c w) s = .next t ∧ Did [] s t c ∧ (getCtx t c).staging = x.staging)) ∧
    (Issues s c 0x74 w { imm := 0x00FF073F, B := 2 ^ 64 - 1 } →
      let tm := bit w.imm 10
      let mayArm := k.owner = c ∧ k.items ≠ [] ∧ k.st ≠ .preparing ∧ k.st ≠ .ready ∧ (k.domain = true → tm = true)
      (tm = false → w.B.toNat < 2 ^ 32) → (tm = true → fld w.imm 16 8 = 0) →
      (mayArm → (tm = true → (now s).toNat + leadOf s k < w.B.toNat) → ∃ t, exec (.takearm c w) s = .next t ∧ Did [.time] s t c ∧
        one t { k with st := .preparing, slips := 0, arm := some (armOf w), applyAt := if tm then w.B else k.applyAt }) ∧
      (¬mayArm → ∃ t, exec (.takearm c w) s = .next t ∧ Did [] s t c)) ∧
    (Issues s c 0x75 w { imm := 0x3F } →
      let mayDrop := k.owner = c ∧ k.st ≠ .applied
      (mayDrop → ∃ t, exec (.takedrop c w) s = .next t ∧ Did [.time] s t c ∧
        one t { k with st := .free, owner := 0x1F, items := [], arm := none, commit := false }) ∧
      (¬mayDrop → ∃ t, exec (.takedrop c w) s = .next t ∧ Did [] s t c))

/-- Fabric time and its discipline (R280 to R283; Table TIME-1). An edge of the pulse-per-second input is captured with its phase error;
it sets the time when that was asked, and in servo mode it steps the time beyond the threshold and steers the rate within it. A loss of
the pulse unlocks and starts holdover in servo mode. SET_NOW steps at once, SET_AT_PPS waits for the edge; the mode and the rate are as
written. `rest` is the time unit but for the take sets, which a step of the time may bring to their instants. It rests on choices of the
model: log entries 2, 49. -/
def Obligations.FabricTimeCommands : Prop :=
  ∀ (s : State) (v : W32) (age : Nat),
    let o := s.time
    let cap := o.fab - BitVec.ofNat 64 age
    let e := phaseErr cap
    let rest (t : State) : TimeU := { t.time with take := [] }
    let edge : TimeU := { o with pps := cap, ppsErr := e, ppsMono := o.mono.toNat, holdover := false, take := [] }
    (o.setAtPps = true → ∃ t, exec (.timePpsEdge age) s = .next t ∧
      rest t = { edge with setAtPps := false, fab := o.set + BitVec.ofNat 64 age, stepped := true, steps := satAdd 0xFFFF o.steps 1 }) ∧
    (o.setAtPps = false → o.mode ≠ 1 → ∃ t, exec (.timePpsEdge age) s = .next t ∧ rest t = edge ∧ t.time.take = o.take ∧ onlyIn [.time] s t) ∧
    (o.setAtPps = false → o.mode = 1 → ∃ t, exec (.timePpsEdge age) s = .next t ∧
      (e.natAbs ≤ o.thresh → rest t = servoStep (lockStep edge e) e ∧ t.time.take = o.take) ∧
      (o.thresh < e.natAbs → rest t = { lockStep edge e with fab := o.fab - BitVec.ofInt 64 e, stepped := true, steps := satAdd 0xFFFF o.steps 1 })) ∧
    (mono s < o.ppsMono + 1500000000 → exec .ppsLossTimeout s = .next s) ∧
    (o.ppsMono + 1500000000 ≤ mono s → ∃ t, exec .ppsLossTimeout s = .next t ∧
      t.time = { o with ppsLost := true, locked := false, goodRun := 0, holdover := o.holdover || o.mode == 1 }) ∧
    (∃ t, exec .setNow s = .next t ∧ rest t = { o with fab := o.set, stepped := true, steps := satAdd 0xFFFF o.steps 1, take := [] }) ∧
    (∃ t, exec .setAtPps s = .next t ∧ t.time = { o with setAtPps := true } ∧ onlyIn [.time] s t) ∧
    (∃ t, exec (.timeModeWrite v) s = .next t ∧
      let m : TimeU := { setMode o (fld v 30 2) with ppsPol := bit v 29, setAtPps := o.setAtPps || bit v 28, thresh := fld v 0 16, take := [] }
      rest t = if bit v 27 then { m with fab := o.set, stepped := true, steps := satAdd 0xFFFF o.steps 1 } else m) ∧
    (∃ t, exec (.timeAdjWrite v) s = .next t ∧
      t.time = { o with adj := if o.mode = 2 then clampAdj (signed 24 (fld v 0 24)) else o.adj } ∧ onlyIn [.time] s t)

/-- Frame references and their outputs (R284 to R288; Tables TIME-3 to TIME-5). An edge near enough to the predicted one is delivered; one
that jumped, or a missing one beyond the flywheel's limit, unlocks the reference; five edges at a rate of Table TIME-3 lock it. The enable
resets its count, the disable unlocks it; an output sends the pulse that is due while its reference is locked. The events of take sets
(R289, R291 to R296, R299; Table TIME-6). A prepared set becomes ready; at its readiness point a ready and, in a domain, committed set is
judged good, and any other slips or, at its limit, fails; at its instant a good set applies all its items, or none of them when one is
refused. It rests on choices of the model: log entries 50, 51, 86. -/
def Obligations.FrameReferencesAndTakeSets : Prop :=
 (∀ (s : State) (r age : Nat) (v : W32), r < 4 →
    let x := getRef s r
    let tm := mono s - age
    let tf := now s - BitVec.ofNat 64 age
    let far := if tm < predicted x then predicted x - tm else tm - predicted x
    let others (t : State) : Prop := ∀ k, k ≠ r → getRef t k = getRef s k
    let up (y z : FRef) (at_ : W64) (m : Nat) (synth : Bool) : Prop := y.locked = z.locked ∧ y.rate = z.rate ∧ y.last = at_ ∧ y.lastMono = m ∧ y.synthetic = synth ∧
      y.synthRun = (if synth then z.synthRun + 1 else 0) ∧ y.count = z.count + 1 ∧ y.enable = z.enable
    (x.enable = false → exec (.frameRefEdge r age) s = .next s) ∧
    (x.enable = true → x.locked = true →
      (far ≤ x.tol → ∃ t, exec (.frameRefEdge r age) s = .next t ∧ up (getRef t r) x tf tm false ∧ others t) ∧
      (x.tol < far → ∃ t, exec (.frameRefEdge r age) s = .next t ∧
        getRef t r = { x with jump := true, locked := false, synthRun := 0, edges := [tm], intervals := [] } ∧ others t)) ∧
    (x.enable = true → x.locked = false → let l := (x.edges ++ [tm]).drop ((x.edges ++ [tm]).length - 5)
      (((intervalsOf l).length ≠ 4 ∨ lockRate (intervalsOf l) = none) → ∃ t, exec (.frameRefEdge r age) s = .next t ∧ getRef t r = { x with edges := l } ∧ others t) ∧
      (∀ k, (intervalsOf l).length = 4 → lockRate (intervalsOf l) = some k → ∃ t, exec (.frameRefEdge r age) s = .next t ∧
        up (getRef t r) { x with locked := true, rate := k } tf tm false ∧ others t)) ∧
    ((x.locked = false ∨ mono s < predicted x + x.tol + 100) → exec (.frameEdgeMissing r) s = .next s) ∧
    (x.locked = true → predicted x + x.tol + 100 ≤ mono s →
      (x.flyEn = true → x.synthRun < x.flyMax → ∃ t, exec (.frameEdgeMissing r) s = .next t ∧
        up (getRef t r) x (now s - BitVec.ofNat 64 (mono s - predicted x)) (predicted x) true ∧ others t) ∧
      ((x.flyEn = false ∨ x.flyMax ≤ x.synthRun) → ∃ t, exec (.frameEdgeMissing r) s = .next t ∧
        getRef t r = { x with lost := true, locked := false, synthRun := 0, edges := [], intervals := [] } ∧ others t)) ∧
    (x.enable = false → ∃ t, exec (.frameRefEnable r v) s = .next t ∧ others t ∧
      getRef t r = { x with pol := bit v 30, flyEn := bit v 29, flyMax := fld v 24 5, tol := fld v 0 16, enable := true, count := 0, edges := [], intervals := [] }) ∧
    (x.enable = true → ∃ t, exec (.frameRefEnable r v) s = .next t ∧ t.time = s.time) ∧
    (x.enable = true → ∃ t, exec (.frameRefDisable r) s = .next t ∧ others t ∧
      getRef t r = { x with enable := false, locked := false, synthRun := 0, edges := [], intervals := [] }) ∧
    (∀ o, o < 2 → let y := getOut s o
      ((y.enable = false ∨ (getRef s y.src).locked = false ∨ y.due = [] ∨ ∃ d l, y.due = d :: l ∧ mono s < d) → exec (.frameOutPulse o) s = .next s) ∧
      (∀ d l, y.enable = true → (getRef s y.src).locked = true → y.due = d :: l → d ≤ mono s → ∃ t, exec (.frameOutPulse o) s = .next t ∧
        t.out = s.out ++ [.framePulse o (min y.width ((getRef s y.src).period / 2))] ∧ ∀ j, getOut t j = if j = o then { y with due := l } else getOut s j))) ∧
 (∀ (s : State) (i : Nat), i < 64 →
    let k := getTake s i
    let one (t : State) (y : TakeSet) : Prop := ∀ j, getTake t j = if j = i then y else getTake s j
    let ended := s.time.maxSlips ≠ 0 ∧ s.time.maxSlips < k.slips + 1
    let failed (cause : Nat) : TakeSet := { k with st := .failed, cause := cause, arm := none, commit := false }
    let slipped : TakeSet := { k with slips := satAdd 255 k.slips 1, cause := judgeCause k, commit := false, arm := k.arm.map slipArm }
    (k.st ≠ .preparing → exec (.takePrepared i) s = .next s) ∧
    (k.st = .preparing → ∃ t, exec (.takePrepared i) s = .next t ∧ one t { k with st := .ready }) ∧
    ((armed k = false ∨ pointReached s k = false ∨ ∃ a, k.arm = some a ∧ a.judged = true) → exec (.takeReadinessPoint i) s = .next s) ∧
    (∀ a, armed k = true → pointReached s k = true → k.arm = some a → a.judged = false →
      (judgeCause k = 0 → ∃ t, exec (.takeReadinessPoint i) s = .next t ∧ one t { k with arm := some { a with judged := true } } ∧ onlyIn [.time] s t) ∧
      (judgeCause k ≠ 0 → ended → ∃ t, exec (.takeReadinessPoint i) s = .next t ∧ one t (failed 4)) ∧
      (judgeCause k ≠ 0 → ¬ended → ∃ t, exec (.takeReadinessPoint i) s = .next t ∧ one t slipped)) ∧
    ((armed k = false ∨ instReached s k = false) → exec (.takeApplication [i]) s = .next s) ∧
    (armed k = true → instReached s k = true →
      let at_ := (k.arm.bind fun a => a.inst).getD (now s)
      (judgeCause k ≠ 0 → ended → ∃ t, exec (.takeApplication [i]) s = .next t ∧ one t (failed 4)) ∧
      (judgeCause k ≠ 0 → ¬ended → ∃ t, exec (.takeApplication [i]) s = .next t ∧ one t slipped) ∧
      (judgeCause k = 0 → (evalItems k.items 0 s).1 = none → ∃ t, exec (.takeApplication [i]) s = .next t ∧
        getTake t i = { k with st := .applied, items := [], commit := false, arm := none, applyAt := at_ }) ∧
      (judgeCause k = 0 → ∀ n it met, (evalItems k.items 0 s).1 = some (n, it, met) → ∃ t, exec (.takeApplication [i]) s = .next t ∧
        one t { failed 3 with failItem := n, applyAt := at_ } ∧ t.core = s.core ∧ t.pool = s.pool ∧ t.ten = s.ten)) ∧
    (∃ t, exec (.takeCommitWrite i) s = .next t ∧ one t { k with commit := true } ∧ onlyIn [.time] s t))

/-- TENANT in each of its ops (R301, R302, R442; Table OXI-20). Create makes a tenant with its snoop timeout and its grant, and refuses
one that exists or a vPPB too many; remove waits with the tenant in reset unless something is still bound to it; the timeout and the grant
are as written. The end of a unit's reset and a write of a hold entry (R305, R310, R311). A unit that a hold names is held, any other runs
again; a tenant leaves its reset when its walk and its ports are done; the instructions that waited for the unit retire. An entry with a
kind that cannot be held is not stored. It rests on choices of the model: log entries 70, 71. -/
def Obligations.TenantsAndUnitResetEnds : Prop :=
 (∀ (s : State) (c : Nat) (w : Ox),
    let i := fld w.imm 0 4
    let op := fld w.imm 8 4
    let x := getTen s i
    let one (t : State) (y : Ten) : Prop := ∀ j, getTen t j = if j = i then y else getTen s j
    Issues s c 0xA0 w { imm := 0xF0F, B := match op with | 0 => 0x103FF | 2 => 0x3FF | 3 => 0x10000 | _ => 0 } →
    (op = 0 → (x.exist = true ∨ 256 ≤ vppbsUsed s) → ∃ t, exec (.tenantCreate c w) s = .next t ∧ Did [] s t c) ∧
    (op = 0 → x.exist = false → vppbsUsed s < 256 → ∃ t, exec (.tenantCreate c w) s = .next t ∧
      one t { x with exist := true, timeout := fld w.B 0 10, ctrRead := bit w.B 16, base := 0, len := 0, sharer := [] }) ∧
    (op ≠ 0 → op ≤ 3 → x.exist = false → (op = 1 → ∃ t, exec (.tenantRemove c w) s = .next t ∧ Did [] s t c) ∧
      (op = 2 → ∃ t, exec (.tenantTimeout c w) s = .next t ∧ Did [] s t c) ∧ (op = 3 → ∃ t, exec (.tenantCounterRead c w) s = .next t ∧ Did [] s t c)) ∧
    (x.exist = true →
      (op = 1 → tenHeld s i = true → ∃ t, exec (.tenantRemove c w) s = .next t ∧ Did [] s t c) ∧
      (op = 1 → tenHeld s i = false → x.inReset = true ∨ tenWaits (begun s c) i = false → ∃ t, exec (.tenantRemove c w) s = .next t ∧
        (getTen t i).removing = true ∧ (getTen t i).inReset = true ∧ (getTen t i).genTag = x.genTag + (if x.inReset then 0 else 1)) ∧
      (op = 2 → ∃ t, exec (.tenantTimeout c w) s = .next t ∧ one t { x with timeout := fld w.B 0 10 } ∧ Did [.ten] s t c) ∧
      (op = 3 → ∃ t, exec (.tenantCounterRead c w) s = .next t ∧ one t { x with ctrRead := bit w.B 16 } ∧ Did [.ten] s t c))) ∧
 (∀ (s : State) (kind i : Nat), unitExists kind i = true →
    (∀ c, c < 18 → unitSettled (endUnitReset s kind i) kind i = true → (getCtx (endUnitReset s kind i) c).wait = .unit kind i →
      ∃ t, exec (.unitResetEnd kind i) s = .next t ∧ (getCtx t c).wait = .none) ∧
    (∃ t, exec (.unitResetEnd kind i) s = .next t ∧
      (kind = 1 → (getQuire s i).rst = .inReset → (getQuire t i).rst = if heldBy s ⟨1, i⟩ then .held else .run) ∧
      (kind = 2 → (getTen s i).inReset = true → tenantQuiet s i = true → (getTen s i).removing = false → (getTen t i) = { getTen s i with inReset := false }) ∧
      (kind = 3 → (getChan s i).rst = .inReset →
        getChan t i = if heldBy s ⟨3, i⟩ then { getChan s i with rst := .held } else { getChan s i with rst := .run, st := chanBack (getChan s i).stBefore, stBefore := .off }) ∧
      (kind = 4 → (getSlot s i).st = .inReset → getSlot t i = { getSlot s i with st := .off }) ∧
      (kind = 6 → (getMov s i).rst = .inReset →
        getMov t i = if heldBy s ⟨6, i⟩ then { getMov s i with rst := .held } else { getMov s i with st := .idle, rst := .run })) ∧
    (∀ n v, n < 8 → let k := fld v 24 4
      let named : Hold := { enable := bit v 31, kind := k, index := fld v 0 7 }
      (bit v 31 = true → k ≠ 0 → k ≠ 1 → k ≠ 3 → k ≠ 6 → ∃ t, exec (.glbHoldWrite n v) s = .next t ∧ t.glb = s.glb) ∧
      ((bit v 31 = false ∨ k = 0 ∨ k = 1 ∨ k = 3 ∨ k = 6) → ∃ t, exec (.glbHoldWrite n v) s = .next t ∧
        t.glb = { s.glb with hold := tput {} s.glb.hold n named })))

/-- RESETU of each kind (R305, R307, R308, R311; Table OXI-20). A unit that is missing or in reset already leaves it without an effect;
otherwise, once it need not wait, the unit enters reset with its next generation tag. The coherent domain of a tenant falls with cause
0b100. `u` is the state in which the instruction takes effect. It rests on choices of the model: log entries 40, 71. -/
def Obligations.UnitResetInstructions : Prop :=
  ∀ (s : State) (c : Nat) (w : Ox),
    let k := fld w.imm 28 4
    let i := fld w.imm 0 7
    let u := begun s c
    Issues s c 0xA1 w { imm := 0xF000007F } →
    (k = 0 → leadPort s i = true →
      ((getPort s i).rst ≠ .run → ∃ t, exec (.resetuPort c w) s = .next t ∧ Did [] s t c) ∧
      ((getPort s i).rst = .run → portWaits u i = false → ∃ t, exec (.resetuPort c w) s = .next t ∧
        (getPort t i).rst = .inReset ∧ (getPort t i).genTag = (getPort s i).genTag + 1 ∧ (getPort t i).link = .off)) ∧
    (k = 1 → i < 12 →
      ((getQuire s i).rst ≠ .run → ∃ t, exec (.resetuQuire c w) s = .next t ∧ Did [] s t c) ∧
      ((getQuire s i).rst = .run → quireWaits u i = false → ∃ t, exec (.resetuQuire c w) s = .next t ∧
        (getQuire t i).rst = .inReset ∧ (getQuire t i).genTag = (getQuire s i).genTag + 1)) ∧
    (k = 2 → i < 16 →
      ((getTen s i).exist = false ∨ (getTen s i).inReset = true → ∃ t, exec (.resetuTenant c w) s = .next t ∧ Did [] s t c) ∧
      ((getTen s i).exist = true → (getTen s i).inReset = false → tenWaits u i = false → ∃ t, exec (.resetuTenant c w) s = .next t ∧
        (getTen t i).inReset = true ∧ (getTen t i).genTag = (getTen s i).genTag + 1 ∧ { tenant := i, reset := true } ∈ t.home.walks)) ∧
    (k = 3 → i < 12 →
      ((getChan s i).rst ≠ .run → ∃ t, exec (.resetuPoolChannel c w) s = .next t ∧ Did [] s t c) ∧
      ((getChan s i).rst = .run → genWait u ⟨3, i⟩ = false → ∃ t, exec (.resetuPoolChannel c w) s = .next t ∧
        (s.home.txns = [] → s.home.queue = [] → (getChan t i).rst = .inReset ∧ (getChan t i).st = .inReset ∧
          (getChan t i).genTag = (getChan s i).genTag + 1))) ∧
    (k = 4 → i < 32 →
      ((getSlot s i).st = .inReset → ∃ t, exec (.resetuSlot c w) s = .next t ∧ Did [] s t c) ∧
      ((getSlot s i).st ≠ .inReset → genWait u ⟨4, i⟩ = false → ∃ t, exec (.resetuSlot c w) s = .next t ∧
        (getSlot t i).st = .inReset ∧ (getSlot t i).genTag = (getSlot s i).genTag + 1 ∧ (getSlot t i).pg = false)) ∧
    (k = 5 → i < 18 → i ≠ c →
      ((getCtx s i).st = .inReset ∨ (getCtx s i).st = .off → ∃ t, exec (.resetuContext c w) s = .next t ∧ Did [] s t c) ∧
      ((getCtx s i).st ≠ .inReset → (getCtx s i).st ≠ .off → genWait u ⟨5, i⟩ = false → (∀ m ∈ moversOf s i, genWait u ⟨6, m⟩ = false) →
        ∃ t, exec (.resetuContext c w) s = .next t ∧ (getCtx t i).st = .inReset ∧ (∀ r, kget (getCtx t i) r = 0))) ∧
    (k = 6 → i < 72 →
      ((getMov s i).rst ≠ .run → ∃ t, exec (.resetuMoverChannel c w) s = .next t ∧ Did [] s t c) ∧
      ((getMov s i).rst = .run → genWait u ⟨6, i⟩ = false → ∃ t, exec (.resetuMoverChannel c w) s = .next t ∧
        (getMov t i).rst = .inReset ∧ (getMov t i).st = .inReset ∧ (getMov t i).owner = 0x1F ∧ (getMov t i).genTag = (getMov s i).genTag + 1)) ∧
    (k = 7 → i < 2 →
      ((getLink s i).rst ≠ .run ∨ i = 1 ∧ s.cmd.mode = 0 → ∃ t, exec (.resetuCommandPort c w) s = .next t ∧ Did [] s t c) ∧
      ((getLink s i).rst = .run → (i = 0 ∨ s.cmd.mode ≠ 0) → genWait u ⟨7, i⟩ = false → ∃ t, exec (.resetuCommandPort c w) s = .next t ∧
        (getLink t i).rst = .inReset ∧ (getLink t i).up = false ∧ (getLink t i).genTag = (getLink s i).genTag + 1)) ∧
    (k = 8 → i < 16 →
      ((getTen s i).exist = false ∨ (getTen s i).inReset = true → ∃ t, exec (.resetuCoherentDomain c w) s = .next t ∧ Did [] s t c) ∧
      ((getTen s i).exist = true → (getTen s i).inReset = false → (getTen s i).down = false → ∃ t, exec (.resetuCoherentDomain c w) s = .next t ∧
        (getTen t i).down = true ∧ (getTen t i).viral = true ∧ (getTen t i).cause = 4))

/-- COUCH and the self test (R315 to R318). Where the direction fits and the spare is free the quire starts its handover and the
instruction waits for it; else it leaves everything. At the end of the handover the quire is where it went, its stall is recorded, and the
instruction retires; a couched quire's home QPE tests itself once. LOCK and the fuse action it starts (R208, R210; Table OXI-22, Table
DKL-6). A change the lifecycle, the keys or the version forbid leaves everything; an allowed one is begun, one at a time, and the
instruction waits; when the fuses are written it takes effect. It rests on choices of the model: log entries 40, 69. -/
def Obligations.CouchAndLockInstructions : Prop :=
 (∀ (s : State) (c : Nat) (w : Ox) (q : Nat), q = fld w.imm 0 4 → q < 12 →
    let x := getQuire s q
    let home := bit w.imm 8
    let may := x.rst = .run ∧ x.busy = false ∧ x.couched = home ∧ (home = false → spareBusy s q = false)
    let only (t : State) (y : Quire) : Prop := ∀ j, getQuire t j = if j = q then y else getQuire s j
    (Issues s c 0xA2 w { imm := 0x10F } → ∀ i, (i = .couchToSpare c w ∧ home = false) ∨ (i = .couchHome c w ∧ home = true) →
      (may → ∃ t, exec i s = .next t ∧ only t { x with busy := true, toSpare := !home } ∧ (getCtx t c).wait = .couch q ∧ onlyIn [.seq, .quire] s t) ∧
      (¬may → ∃ t, exec i s = .next t ∧ Did [] s t c)) ∧
    (∀ stall, (x.busy = false → exec (.couchHandoverEnd q stall) s = .next s) ∧
      (x.busy = true → ∃ t, exec (.couchHandoverEnd q stall) s = .next t ∧
        only t { x with couched := x.toSpare, busy := false, lastStall := min 0xFFFF stall,
                        bistDone := x.bistDone && !x.toSpare, bistPass := x.bistPass && !x.toSpare } ∧
        ∀ d, d < 18 → (getCtx s d).wait = .couch q → (getCtx t d).wait = .none)) ∧
    (∀ pass, let may := x.couched = true ∧ x.busy = false ∧ x.bistDone = false
      (may → ∃ t, exec (.qpeSelfTestEnd q pass) s = .next t ∧ only t { x with bistDone := true, bistPass := pass } ∧ onlyIn [.quire] s t) ∧
      (¬may → exec (.qpeSelfTestEnd q pass) s = .next s))) ∧
 (∀ (s : State) (c : Nat) (w : Ox),
    let g := s.glb
    let op := fld w.imm 0 4
    let slot := fld w.imm 8 2
    let starts (t : State) (f : FuseOp) : Prop := t.glb = { g with fuse := some (c, f) } ∧ (getCtx t c).wait = .fuse ∧ onlyIn [.seq, .glb] s t
    let n := fld w.B 0 2
    let v := fld w.B 0 6
    (op = 0 → 2 ≤ n → Issues s c 0xA3 w { imm := 0xF, B := 3 } →
      (lifeNext g.life (lifeOf n) = false → ∃ t, exec (.lockLifecycle c w) s = .next t ∧ Did [] s t c) ∧
      (lifeNext g.life (lifeOf n) = true → g.fuse = none → ∃ t, exec (.lockLifecycle c w) s = .next t ∧ starts t (.life (lifeOf n)))) ∧
    (op = 1 → Issues s c 0xA3 w { imm := 0x30F } →
      let may := bit g.keyValid slot = true ∧ slotsLeft g slot = true
      (¬may → ∃ t, exec (.lockRevoke c w) s = .next t ∧ Did [] s t c) ∧
      (may → g.fuse = none → ∃ t, exec (.lockRevoke c w) s = .next t ∧ starts t (.revoke slot))) ∧
    (op = 2 → Issues s c 0xA3 w { imm := 0xF, B := 0x3F } →
      (v ≤ g.svn → ∃ t, exec (.lockSvn c w) s = .next t ∧ Did [] s t c) ∧
      (g.svn < v → (g.loadedSvn.any fun l => decide (v ≤ l)) = false → ∃ t, exec (.lockSvn c w) s = .next t ∧ Did [] s t c) ∧
      (g.svn < v → (g.loadedSvn.any fun l => decide (v ≤ l)) = true → g.fuse = none → ∃ t, exec (.lockSvn c w) s = .next t ∧ starts t (.svn v))) ∧
    (op = 3 → Issues s c 0xA3 w { imm := 0x30F, B := 2 ^ 64 - 1 } → w.B.toNat + 48 ≤ 2 ^ 20 → w.B.toNat % 16 = 0 →
      let may := bit g.keyValid slot = false ∧ g.life ≠ .secured ∧ g.life ≠ .returned
      (¬may → ∃ t, exec (.lockFuseKey c w) s = .next t ∧ Did [] s t c) ∧
      (may → spanOk (begun s c) { ctxChk c 2 w.B.toNat 0 with r := true } 48 = true → psErr s w.B.toNat 48 = false → g.fuse = none →
        ∃ t, exec (.lockFuseKey c w) s = .next t ∧ starts t (.key slot (keyHashAt s w.B.toNat)))) ∧
    (g.fuse = none → exec .fuseWriteDone s = .next s) ∧
    (∀ d f, g.fuse = some (d, f) → f ≠ .life .returned → ∃ t, exec .fuseWriteDone s = .next t ∧ t.glb = fuseApply { g with fuse := none } f ∧
      ((getCtx s d).wait = .fuse → (getCtx t d).wait = .none)))

/-- IMAGE and RESUME (R234, R421; Table OXI-20). An image whose header and body are read and which is verified is put into the program
store, and its version is remembered; one that is refused leaves the store. RESUME lets a halted or faulted context run, and tells when it
is off or in reset. It rests on choices of the model: log entries 18, 69, 89. -/
def Obligations.ImageAndResume : Prop :=
  ∀ (s : State) (c : Nat) (w : Ox),
    let space := fld w.mod 3 2
    let a := if space = 1 then fld w.B 0 52 else w.B.toNat
    let dst := if space = 1 then fld w.B 52 12 else 0
    let q (n : Nat) : Chk := { ctxChk c space n dst with r := true }
    let i := fld w.imm 0 5
    (Issues s c 0xA4 w { mods := 0x18, B := 2 ^ 64 - 1 } → space ≤ 1 → spanOk (begun s c) (q a) 256 = true →
      ∀ h u, peekSpan (begun s c) none space a 256 = (some h, u) → imgMalformed h = false → (imgLen h ≠ 0 → spanOk u (q (a + 256)) (imgLen h) = true) →
      ∀ b v, peekSpan u none space (a + 256) (imgLen h) = (some b, v) →
        (imageReason v h b = 0 → ∃ t, exec (.image c w) s = .next t ∧ t.glb = { s.glb with loadedSvn := s.glb.loadedSvn ++ [imgSvn h] } ∧
          t.seq.ps = wrBytes s.seq.ps (imgLoad h) b ∧ (getCtx t c).wait = .none) ∧
        (imageReason v h b ≠ 0 → ∃ t, exec (.image c w) s = .next t ∧ t.glb = s.glb ∧ t.seq.ps = s.seq.ps ∧ (getCtx t c).wait = .none)) ∧
    (Issues s c 0xA5 w { imm := 0x1F } → i ≤ 17 → i ≠ c → let x := getCtx s i
      (x.st = .off ∨ x.st = .inReset → ∃ t, exec (.resume c w) s = .next t ∧ Did [] s t c) ∧
      (x.st = .halted → ∃ t, exec (.resume c w) s = .next t ∧
        (getCtx t i).st = if x.wait ≠ .none then .waiting else if x.run ≠ .idle ∨ anyRing x = true then .ready else .idle) ∧
      (x.st = .faulted → x.faultInRing = false → ∃ t, exec (.resume c w) s = .next t ∧
        (getCtx t i).st = if x.run = .idle ∨ x.run = .debug then .idle else .ready))

/-- Device resets, trips and supplies (R404, R406, R428 to R435). Each cause is recorded; the first of them counts a reset and clears the
machine, a later one is only recorded; a thermal trip holds the device until VDD_CORE is removed; a release samples the straps and starts
the boot. Cleared is what State.reset holds, chosen reset values among it (notes/assumptions/3.md). Boot (R420 to R423): an image that is
read goes to verification, one that is not or whose directory is invalid records its cause and the boot goes on; a go in stage 2 starts
the verification of the host's image; an image that verifies is placed, S0 starts at its entry, and one that does not records its cause
and the boot goes on, with a failed host image leaving an empty store. It rests on choices of the model: log entries 3, 66, 67, 68. -/
def Obligations.ResetsSuppliesAndBoot : Prop :=
 (∀ s : State,
    let g := s.glb
    let cold (t : State) : Prop := (∀ p, p ∈ [Part.pool, .home, .dkl, .seq, .mov, .time, .ten, .quire, .core, .cnt, .stk, .slotHold, .pairLo,
      .pairHi, .dram, .store, .sheets, .deckles, .registers] → same State.reset t p) ∧ t.glb.life = g.life ∧
      (∀ j, (getPort t j).enabled = false ∧ gated (getSlot t j).st = false)
    let enters (t : State) : Prop := t.glb.inReset = true ∧ t.glb.keyValid = g.keyValid ∧ t.glb.keyRevoked = g.keyRevoked ∧ t.glb.svn = g.svn ∧
      (g.inReset = true → ∀ p, p ≠ Part.glb → p ≠ .pwr → same s t p) ∧
      (g.inReset = false → cold t ∧ t.glb.resets = satAdd 255 g.resets 1 ∧ t.pace.hist = s.pace.hist)
    (∃ t, exec .resetNAssert s = .next t ∧ enters t ∧ t.glb.causeResetPin = true ∧ t.glb.resetPinLow = true) ∧
    (∀ rail, (rail = .v33 ∨ g.resetPinLow = true → exec (.brownout rail) s = .next s) ∧
      (rail ≠ .v33 → g.resetPinLow = false → ∃ t, exec (.brownout rail) s = .next t ∧ enters t ∧ t.glb.causeBrownout = true)) ∧
    (∀ sensor, sensor < 9 → ∃ t, exec (.thermtrip sensor) s = .next t ∧ enters t ∧ t.glb.causeThermtrip = true ∧ t.glb.thermHold = true ∧
      t.pwr.thermtripN = true) ∧
    (∀ rail, ∃ t, exec (.supplyLoss rail) s = .next t ∧ rail ∈ t.glb.railsDown ∧
      (rail = .core → cold t ∧ t.glb.inReset = true ∧ t.glb.thermHold = false ∧ t.glb.resets = 0 ∧ t.glb.causeResetPin = false ∧
        t.glb.causeBrownout = false ∧ t.glb.causeThermtrip = g.causeThermtrip) ∧
      (rail = .v33 → t.glb.causeThermtrip = false ∧ t.pwr.slotQueue = [] ∧ (∀ j, gated (getSlot t j).st = false) ∧ onlyIn [.glb, .pwr, .slot] s t) ∧
      (rail ≠ .core → rail ≠ .v33 → onlyIn [.glb] s t)) ∧
    (∃ t, exec .powerUp s = .next t ∧ t.glb.railsDown = [] ∧ onlyIn [.glb] s t ∧
      (Rail.core ∈ g.railsDown → t.glb.causePowerOn = true ∧ t.glb.inReset = true)) ∧
    (∀ st, let may := g.inReset = true ∧ g.thermHold = false ∧ g.railsDown = []
      let f := strapFault st
      (¬may → exec (.deviceResetRelease st) s = .next s) ∧
      (may → ∃ t, exec (.deviceResetRelease st) s = .next t ∧ onlyIn [.glb, .stk] s t ∧ t.glb.inReset = false ∧ t.glb.straps = st ∧
        t.stk.strapFault = f ∧ t.stk.mode = st.fabricMode.toNat ∧
        t.glb.bootStage = if f = true then 5 else if g.life = .returned then 4 else if st.bootSrc = 1 then 2 else if st.bootSrc = 3 then 5 else 1))) ∧
 (∀ s : State,
    let g := s.glb
    let ended : Nat := if g.straps.bootSrc = 2 then 2 else 5
    let causeOf (h : Glb) : ImgSrc → Nat := fun | .a => h.causeA | .b => h.causeB | .host => h.causeHost
    (∀ src readable d img, let may := g.inReset = false ∧ g.bootStage = 1 ∧ src ≠ .host ∧ src = bootSrcDue g
      (¬may → exec (.imageReadDone src readable d img) s = .next s) ∧
      (may → ∃ t, exec (.imageReadDone src readable d img) s = .next t ∧ onlyIn [.glb] s t ∧
        (readable = true → (src = .a → dirOk d = true) → t.glb.bootStage = 3 ∧ t.glb.bootImage = some src ∧ t.glb.imageBytes = img) ∧
        (readable = true → src = .a → dirOk d = false → t.glb.causeA = 2 ∧ t.glb.bootStage = ended ∧ t.glb.dirValid = false) ∧
        (readable = false → causeOf t.glb src = 3 ∧ t.glb.bootStage = ended))) ∧
    (g.inReset = true ∨ g.bootStage ≠ 2 → exec .bootGo s = .next s) ∧
    (g.inReset = false → g.bootStage = 2 → ∃ t, exec .bootGo s = .next t ∧ t.glb.bootStage = 3 ∧ t.glb.bootImage = some .host ∧ onlyIn [.glb] s t) ∧
    (∀ ms, (g.bootImage = none ∨ g.inReset = true ∨ g.bootStage ≠ 3 → exec (.imageVerifyDone ms) s = .next s) ∧
      (∀ src, g.bootImage = some src → g.inReset = false → g.bootStage = 3 →
        let b := bootBytes s src
        let h := slice b 0 256
        let c := bootFail s src b
        (c = 0 → ∃ t, exec (.imageVerifyDone ms) s = .next t ∧ t.glb.bootStage = 4 ∧ t.glb.bootMs = min 0xFFFF ms ∧
          t.glb.loadedSvn = [imgSvn h] ∧ t.seq.ps = wrBytes [] (imgLoad h) (slice b 256 (imgLen h)) ∧
          (getCtx t 0).pc = BitVec.ofNat 20 (imgFld h 16 4) ∧ (getCtx t 0).st = .ready ∧ (getCtx t 0).run = .prog none ∧
          onlyIn [.glb, .seq, .store] s t) ∧
        (c ≠ 0 → ∃ t, exec (.imageVerifyDone ms) s = .next t ∧ causeOf t.glb src = c ∧
          t.glb.bootStage = (if src = .a ∧ g.dirHasB = true then 1 else if src = .host then 2 else ended) ∧
          (src = .host → t.seq.ps = []) ∧ onlyIn [.glb, .seq, .store] s t))))

/-- The command links (R408 to R416; Table BOOT-2). A link trains where the boot, its pins and the mode let it; PERST, a hot reset and a
link that goes down reset it; the active host may hand over to a link that is up, the standby may claim an active role whose link is down,
and automatic failover takes place once the other link is up. The sideband (R417 to R419). It answers from the release of RESET_N: MCTP
control messages with the endpoint ID, the UUID and the types served, PLDM sensors with their readings and the pending event; other types
are dropped and counted; an address assignment sets the bus's address. Codes of the MCTP and PLDM specifications are the model's
(notes/assumptions/13.md). It rests on choices of the model: log entries 13, 39, 76. -/
def Obligations.CommandLinksAndSideband : Prop :=
 (∀ (s : State) (l : Nat), l < 2 →
    let x := getLink s l
    let a := activeLink s
    let b := otherLink a
    let down (t : State) : Prop := (getLink t l).rst = .inReset ∧ (getLink t l).up = false ∧ (getLink t l).genTag = x.genTag + 1 ∧
      (getLink t l).barsSet = false ∧ (getLink t l).msixEnable = false
    let ended (t : State) : Prop := t.cmd.active = (!s.cmd.active) ∧ t.cmd.switched = true ∧ ∀ k, getLink t k = getLink s k
    (∀ r two,
      let mode := firstMode s l r two
      let w := if mode = 0 then 16 else 8
      let y : Port := { lanes := x.lanes }
      let n := chooseWidth y (goodLanes s y r) (r.reversed && bit y.lanes.cfg 27) w
      let may := bootTrains s.glb = true ∧ x.up = false ∧ x.rst = .run ∧ x.perst = false ∧ (l = 1 → mode ≠ 0) ∧
        linkRefs { s with cmd := { s.cmd with mode := mode } } l = true
      (¬may → exec (.cmdLinkTrained l r two) s = .next s) ∧
      (may → ∃ t, exec (.cmdLinkTrained l r two) s = .next t ∧
        (n = none → (getLink t l).up = false ∧ (getLink t l).lanes.evEqFail = true) ∧
        (n ≠ none → (getLink t l).up = true ∧ (getLink t l).rate = min r.maxRate r.eqRate ∧ t.cmd.mode = mode))) ∧
    (∃ t, exec (.perstAssert l) s = .next t ∧ (getLink t l).perst = true ∧
      (noLink s l = false → s.glb.inReset = false → x.rst = .run → down t)) ∧
    (∃ t, exec (.perstDeassert l) s = .next t ∧ getLink t l = { x with perst := false } ∧ onlyIn [.cmd] s t) ∧
    (x.up = false → exec (.commandLinkHotReset l) s = .next s) ∧
    (x.up = true → x.rst = .run → ∃ t, exec (.commandLinkHotReset l) s = .next t ∧ down t) ∧
    (x.up = false ∨ s.glb.bootStage ≠ 4 → exec (.handover l) s = .next s ∧ exec (.claim l) s = .next s) ∧
    (x.up = true → s.glb.bootStage = 4 →
      (l ≠ a → ∃ t, exec (.handover l) s = .next t ∧ onlyIn [.cnt] s t) ∧
      (l = a → (getLink s b).up = false → ∃ t, exec (.handover l) s = .next t ∧ onlyIn [.cnt] s t) ∧
      (l = a → (getLink s b).up = true → ∃ t, exec (.handover l) s = .next t ∧ ended t) ∧
      (l = a → exec (.claim l) s = .next s) ∧
      (l ≠ a → (getLink s a).up = true → exec (.claim l) s = .next { s with cmd := { s.cmd with claimRefused := true } }) ∧
      (l ≠ a → (getLink s a).up = false → ∃ t, exec (.claim l) s = .next t ∧ ended t)) ∧
    (s.cmd.autoFo = false ∨ (getLink s a).up = true ∨ s.cmd.mode ≠ 1 → exec .autoFailover s = .next s) ∧
    (s.cmd.autoFo = true → (getLink s a).up = false → s.cmd.mode = 1 →
      ((getLink s b).up = true → ∃ t, exec .autoFailover s = .next t ∧ ended t) ∧
      ((getLink s b).up = false → ∃ t, exec .autoFailover s = .next t ∧ t.cmd.foDue = true ∧ onlyIn [.cmd] s t))) ∧
 (∀ (s : State) (n v : Nat),
    let up := s.glb.inReset = false
    (¬up → exec (.mctpControlMessage n v) s = .next s ∧ exec (.pldmMessage n v) s = .next s ∧ exec (.mctpOtherType n) s = .next s ∧
      ∀ i3c addr, exec (.dynamicAddressAssign i3c addr) s = .next s) ∧
    (up →
      (∃ t, exec (.mctpControlMessage n v) s = .next t ∧ t.cmd.eid = (if n = 1 then v % 256 else s.cmd.eid) ∧
        t.out = s.out ++ [.mctp 0 (if n = 1 then [1, 0, v % 256] else if n = 2 then [2, 0, s.cmd.eid]
          else if n = 3 then [3, 0, Config.uuid s.glb.serial] else if n = 5 then [5, 0, 3, 0, 1, 7] else [n, 5])] ∧ onlyIn [.cmd, .out] s t) ∧
      (∃ t e, exec (.pldmMessage n v) s = .next t ∧ t.out = s.out ++ [.mctp 1 e] ∧ onlyIn [.cmd, .out] s t ∧
        t.cmd.pldmEvents = (if n = 0x0B then s.cmd.pldmEvents.drop 1 else s.cmd.pldmEvents) ∧
        (n = 0x0B → e = [n, 0] ++ s.cmd.pldmEvents.take 1) ∧
        (1 ≤ v → v ≤ 45 → n = sensorCmd v → e = [n, 0, v, sensorRead s v])) ∧
      (∃ t, exec (.mctpOtherType n) s = .next t ∧ onlyIn [.cmd] s t ∧
        t.cmd.mctpDrops = if n = 0 ∨ n = 1 ∨ n = 7 then s.cmd.mctpDrops else s.cmd.mctpDrops + 1) ∧
      ∀ i3c addr, ∃ t, exec (.dynamicAddressAssign i3c addr) s = .next t ∧ onlyIn [.cmd] s t ∧
        t.cmd.dynAddr = (if i3c = true then some addr else s.cmd.dynAddr) ∧ t.cmd.smbAddr = if i3c = true then s.cmd.smbAddr else addr))

/-- Lanes in service (R360, R369 to R376): lost symbol lock is counted, sets its event and sends the link to Recovery; a pattern runs on a
port that is off and its checker reports where it locked; a margining run starts where the link allows it, one at a time, and ends with
its result; a partner's command runs or is refused. Adaptation bursts and lane references (R365, R369). A burst starts at level 0 where
use with its 16 units is within the effective cap, and ends. A lane die that loses its reference loses it at each of its ports, and an
enabled one is reset. It rests on choices of the model: log entries 40, 56, 61. -/
def Obligations.LanesBurstsAndReferences : Prop :=
 (∀ (s : State) (p : Nat) (v : W32) (lane : Nat), p < 96 → lane < 16 →
    let x := getPort s p
    let only (t : State) (y : Port) : Prop := ∀ j, getPort t j = if j = p then y else getPort s j
    let lanes (y : Lanes) : Port := { x with lanes := y }
    (trainedLink x = false ∨ x.lanesUsed ≤ lane → exec (.symbolLockLoss p lane) s = .next s) ∧
    (trainedLink x = true → lane < x.lanesUsed → ∃ t, exec (.symbolLockLoss p lane) s = .next t ∧ onlyIn [.port, .pwr] s t ∧
      (getPort t p).lanes.evLock = true ∧ (tget {} (getPort t p).lanes.ln lane).locked = false ∧
      (tget {} (getPort t p).lanes.ln lane).lockLosses = satAdd 255 (tget {} x.lanes.ln lane).lockLosses 1 ∧ (getPort t p).link = .recovery) ∧
    (bit v 31 = true → leadPort s p = true →
      (x.enabled = true ∨ x.rst ≠ .run → ∃ t, exec (.patternStart p v) s = .next t ∧ onlyIn [.cnt] s t) ∧
      (x.enabled = false → x.rst = .run → ∃ t, exec (.patternStart p v) s = .next t ∧ onlyIn [.port] s t ∧
        only t (lanes { x.lanes with patRun := true, patCtrl := v &&& 0xFF000000, patBits := 0, patErr := [] }))) ∧
    (leadPort s p = true → ∃ t, exec (.patternStop p) s = .next t ∧ onlyIn [.port] s t ∧
      only t (lanes { x.lanes with patRun := false, patCtrl := setFld x.lanes.patCtrl 31 1 0 })) ∧
    (∀ inv, let may := x.lanes.patRun = true ∧ bit x.lanes.patCtrl 30 = true ∧ lane < 4 * span x ∧ (inv = true → autoPol s = true)
      (¬may → exec (.patternCheckerSync p lane inv) s = .next s) ∧
      (may → ∃ t, exec (.patternCheckerSync p lane inv) s = .next t ∧ onlyIn [.port] s t ∧
        bit (tget 0 (getPort t p).lanes.patErr lane) 31 = true ∧ bit (tget 0 (getPort t p).lanes.patErr lane) 30 = inv)) ∧
    (bit v 31 = true → leadPort s p = true → x.lanes.marginRun = false → ∃ t, exec (.marginStart p v) s = .next t ∧ onlyIn [.port] s t ∧
      let y := (getPort t p).lanes
      let no := marginRefused { x.lanes with marginCtrl := v &&& 0x7FFF003F } (x.link == .up) x.rate x.lanesUsed
      y.marginCtrl = v &&& 0x7FFF003F ∧ y.marginRefused = no ∧ y.marginBusy = (!no && x.lanes.partnerMargin) ∧
        y.marginRun = (!no && !x.lanes.partnerMargin) ∧ y.marginDone = (no || x.lanes.partnerMargin) ∧ y.marginErrors = 0) ∧
    (∀ n ct cv busy ab, (x.lanes.marginRun = false → ∃ t, exec (.marginDone p n ct cv busy ab) s = .next t ∧ only t x) ∧
      (x.lanes.marginRun = true → ∃ t, exec (.marginDone p n ct cv busy ab) s = .next t ∧ onlyIn [.port] s t ∧
        let y := (getPort t p).lanes
        let e := tget {} y.ln (fld x.lanes.marginCtrl 24 4)
        y.marginRun = false ∧ y.marginDone = true ∧ y.marginBusy = busy ∧ y.marginAborted = (ab && !busy) ∧
        (busy = false → ab = false → if bit x.lanes.marginCtrl 30 = true then e.marginT = min 64 ct ∧ e.marginV = min 128 cv
          else y.marginErrors = min 0xFFFFFF n))) ∧
    (∀ on, let ok := x.link == .up && 3 ≤ x.rate && lane < x.lanesUsed
      (x.lanes.marginRun = true → exec (.partnerMarginCommand p lane on) s = .next s) ∧
      (x.lanes.marginRun = false → ∃ t, exec (.partnerMarginCommand p lane on) s = .next t ∧ onlyIn [.port, .out] s t ∧
        t.out = s.out ++ [.margin p lane ok] ∧ (getPort t p).lanes.partnerMargin = if ok = true then on else x.lanes.partnerMargin))) ∧
 (∀ s : State,
    (∀ q, q < 12 → let may := (∃ p ∈ quirePorts s q, burstPort (getPort s p) = true) ∧ q ∉ s.pwr.burst ∧ levelOf s 5 = 0 ∧ useOf s + 16 ≤ effCap s
      (may → ∃ t, exec (.adaptationBurst q) s = .next t ∧ t.pwr = { s.pwr with burst := s.pwr.burst ++ [q] } ∧ onlyIn [.pwr] s t) ∧
      (¬may → exec (.adaptationBurst q) s = .next s) ∧
      (∃ t, exec (.adaptationBurstEnd q) s = .next t ∧ q ∉ t.pwr.burst ∧ q ∉ t.pwr.trainBurst ∧ onlyIn [.pwr] s t)) ∧
    ∀ die, die < 4 →
      let on (p : Nat) : Prop := leadPort s p = true ∧ (getPort s p).enabled = true ∧ (getPort s p).rst = .run
      ((∃ p ∈ diePorts die, on p ∧ portWaits s p = true) → exec (.refclkLoss die) s = .next s) ∧
      ((∀ p ∈ diePorts die, on p → portWaits s p = false) → ∃ t, exec (.refclkLoss die) s = .next t ∧
        ∀ p ∈ diePorts die, (getPort t p).refOk = false ∧ (on p → (getPort t p).rst = .inReset)) ∧
      (∃ t, exec (.refclkRestored die) s = .next t ∧ onlyIn [.port] s t ∧
        ∀ j, getPort t j = if j ∈ diePorts die then { getPort s j with refOk := true } else getPort s j))

/-- Domains and stacks (R321, R325, R329, R330, R332, R338). The mode is overridden once, before a port was enabled; the key takes effect
with its last word and is fixed by the lock; a proxy entry that is valid is only invalidated; a manager sends heartbeats and time to every
joined device; a worker notes their loss; a promotion raises the epoch and sends TAKEOVER and JOIN to every device known. It rests on
choices of the model: log entries 77, 79, 80. -/
def Obligations.HierarchyCommands : Prop :=
  ∀ s : State,
    let k := s.stk
    let toWhom : Emit → Option (Nat × Nat) := fun | .mgmt _ n m => some (m.receiver, n) | _ => none
    let sent (t : State) (l : List (Nat × Nat)) : Prop := ∃ o, t.out = s.out ++ o ∧ o.map toWhom = l.map some
    let ignored (i : Instr) : Prop := ∃ t, exec i s = .next t ∧ onlyIn [.cnt] s t
    (∀ v, let mode := fld v 0 3
      let may := k.overrideUsed = false ∧ s.glb.portEverEnabled = false ∧ k.strapFault = false ∧ modeOk mode s.glb.straps.stackId.toNat = true
      (¬may → ignored (.stkModeWrite v)) ∧
      (may → ∃ t, exec (.stkModeWrite v) s = .next t ∧ t.stk = { k with mode := mode, overrideUsed := true, joined := mode != 2 && mode != 4, epoch := if mode = 1 ∨ mode = 3 then 1 else 0 } ∧ onlyIn [.stk] s t)) ∧
    (∀ v, (k.keyLock = true → ignored (.domainKeyWrite v)) ∧
      (k.keyLock = false → ∃ t, exec (.domainKeyWrite v) s = .next t ∧ onlyIn [.stk] s t ∧
        t.stk.key = ((List.range 7).map fun j => tget 0 k.keyNew j) ++ [v])) ∧
    (∃ t, exec .keyLockWrite s = .next t ∧ t.stk = { k with keyLock := true } ∧ onlyIn [.stk] s t) ∧
    (∀ n v, n < 512 → let w : W32 := v &&& 0x8F000FFF
      let no := bit w 31 = true ∧ (bit (getProxy s n) 31 = true ∨ proxyTwin s n w = true)
      (no → ignored (.stkProxyWrite n v)) ∧
      (¬no → ∃ t, exec (.stkProxyWrite n v) s = .next t ∧ onlyIn [.stk] s t ∧ ∀ j, getProxy t j = if j = n then w else getProxy s j)) ∧
    (isMgr s = false ∨ k.hbEnable = false → exec .heartbeatSend s = .next s) ∧
    (isMgr s = true → k.hbEnable = true → ∃ t, exec .heartbeatSend s = .next t ∧ sent t ((joinedPeers s).map fun d => (d, 0x05))) ∧
    (let due := isWorker s = true ∧ k.hbAt + 3 * hbMs s * 1000000 ≤ mono s
     (due → ∃ t, exec .heartbeatLoss s = .next t ∧ t.stk = { k with hbLost := true } ∧ onlyIn [.stk] s t) ∧
     (¬due → exec .heartbeatLoss s = .next s)) ∧
    (let due := isMgr s = true ∧ 200000000 ≤ (now s).toNat % 1000000000 ∧ (now s).toNat % 1000000000 ≤ 800000000
     (due → ∃ t, exec .timeDistribution s = .next t ∧ sent t ((joinedPeers s).map fun d => (d, 0x06))) ∧
     (¬due → exec .timeDistribution s = .next s)) ∧
    (let may := k.standby = true ∧ k.hbLost = true ∧ k.mode = 2 ∧ k.joined = true
     let all := k.peers.map fun e => e.1
     (¬may → exec .promoteWrite s = .next s) ∧
     (may → ∃ t, exec .promoteWrite s = .next t ∧ t.stk.epoch = k.epoch + 1 ∧ t.stk.manager = k.dev ∧ t.stk.silent = false ∧
        sent t ((all.map fun d => (d, 0x0A)) ++ all.map fun d => (d, 0x01))))

/-- Management messages (R325 to R333, R336). A message on an edge or gateway port is dropped; one for another device leaves everything; a
bad tag, an old sequence, an unjoined receiver and an old epoch drop it, are counted and set their event bit; one that passes has its
kind's effect. VIRAL and GATEWAY carry no tag. It rests on choices of the model: log entries 78, 79. -/
def Obligations.ManagementMessages : Prop :=
  ∀ (s : State) (p : Nat) (m : Mgmt), p < 96 →
    let k := s.stk
    let x := getPort s p
    let pe := getPeer s m.sender
    let drops := satAdd 0xFFFFFFFF k.drops 1
    let here (n : Nat) : Prop := x.link = .up ∧ isEdge x = false ∧ roleOf x ≠ 4 ∧ (n ≠ 1 → k.joined = true → m.receiver = k.dev)
    let tag (n : Nat) : Prop := mgmtTag s pe n m = m.tag
    let fresh (n : Nat) : Prop := n ≠ 1 → pe.rxSeq.toNat < m.sequence.toNat
    let member (n : Nat) : Prop := n ≠ 1 → k.joined = true
    let good (n : Nat) : Prop := here n ∧ tag n ∧ fresh n ∧ member n ∧ k.epoch.toNat ≤ m.epoch.toNat
    let bad (i : Instr) (e : MsgEv) : Prop := ∃ t, exec i s = .next t ∧ msgEvGet t.stk e = true ∧ t.stk.drops = drops ∧ t.stk.joined = k.joined ∧
      (∀ d, d ≠ m.sender → getPeer t d = getPeer s d)
    let heard (t : State) : Prop := (getPeer t m.sender).rxSeq = m.sequence
    let st := imgFld m.payload 0 1
    let set := st % 64
    let e : W32 := BitVec.ofNat 32 (imgFld m.payload 0 4)
    (∀ i n, (i = .msgJoin p m ∧ n = 1) ∨ (i = .msgBlock p m ∧ n = 3) ∨ (i = .msgResult p m ∧ n = 4) ∨ (i = .msgHeartbeat p m ∧ n = 5) ∨
        (i = .msgTime p m ∧ n = 6) ∨ (i = .msgTakeReady p m ∧ n = 7) ∨ (i = .msgTakeCommit p m ∧ n = 8) ∨ (i = .msgTakeDone p m ∧ n = 9) ∨
        (i = .msgTakeover p m ∧ n = 10) →
      (x.link ≠ .up → exec i s = .next s) ∧
      (x.link = .up → isEdge x = true ∨ roleOf x = 4 → exec i s = .next { s with stk := { k with drops := drops } }) ∧
      (here n → ¬tag n → bad i .auth) ∧ (here n → tag n → ¬fresh n → bad i .replay) ∧
      (here n → tag n → fresh n → ¬member n → bad i .unjoined) ∧
      (here n → tag n → fresh n → member n → m.epoch.toNat < k.epoch.toNat → bad i .epoch)) ∧
    (good 1 → k.mode ≠ 0 → (k.joined = true → k.epoch.toNat < m.epoch.toNat) → ∃ t, exec (.msgJoin p m) s = .next t ∧ t.stk.joined = true ∧
      t.stk.epoch = m.epoch ∧ t.stk.manager = m.sender ∧ t.stk.dev = imgFld m.payload 9 2 % 1024 ∧ t.stk.domain = imgFld m.payload 8 1 % 16 ∧
      (getPeer t m.sender).joined = true) ∧
    (good 1 → k.mode = 0 ∨ (k.joined = true ∧ m.epoch.toNat ≤ k.epoch.toNat) → ∃ t, exec (.msgJoin p m) s = .next t ∧ onlyIn [.cnt] s t) ∧
    (good 3 → m.payload ≠ [] → m.payload.length % 16 = 0 → m.payload.length ≤ 1024 → (getCtx s 1).blocks.length < 16 → (getCtx s 1).run ≠ .idle →
      ∃ t, exec (.msgBlock p m) s = .next t ∧ heard t ∧
        (getCtx t 1).blocks = (getCtx s 1).blocks ++ [(p, m.sender, blockOf 64 m.payload)]) ∧
    (good 4 → ∃ t, exec (.msgResult p m) s = .next t ∧ heard t ∧ (getPeer t m.sender).result = some st) ∧
    (good 5 → ∃ t, exec (.msgHeartbeat p m) s = .next t ∧ heard t ∧ t.stk.hbAt = mono s) ∧
    (good 6 → ∃ t, exec (.msgTime p m) s = .next t ∧ heard t ∧
      (isWorker s = true → t.time.set = BitVec.ofNat 64 (imgFld m.payload 0 8 * 1000000000) ∧ t.time.setAtPps = true)) ∧
    (good 7 → ∃ t, exec (.msgTakeReady p m) s = .next t ∧ tget 0 (getPeer t m.sender).takeReady set = imgFld m.payload 1 1) ∧
    (good 8 → ∃ t, exec (.msgTakeCommit p m) s = .next t ∧ heard t ∧ (getTake t set).commit = ((getTake s set).commit || (getTake s set).domain)) ∧
    (good 9 → ∃ t, exec (.msgTakeDone p m) s = .next t ∧ heard t ∧ tget 0 (getPeer t m.sender).takeReady set = 0 ∧
      tget 0 (getPeer t m.sender).takeDone set = imgFld m.payload 1 4 / 2 ^ 29) ∧
    (good 10 → k.epoch.toNat < e.toNat → ∃ t, exec (.msgTakeover p m) s = .next t ∧ heard t ∧ t.stk.epoch = e ∧ t.stk.manager = m.sender ∧
      t.stk.evTakeover = true) ∧
    (here 1 → mgmtTag s { pe with port := p, nonceOwn := BitVec.ofNat 64 (imgFld m.payload 8 8), noncePeer := BitVec.ofNat 64 (imgFld m.payload 0 8) } 2 m = m.tag →
      (pe.nonceOwn ≠ 0 → pe.nonceOwn = BitVec.ofNat 64 (imgFld m.payload 8 8)) → (pe.joined = true → fresh 2) → k.epoch.toNat ≤ m.epoch.toNat →
      isMgr s = true → ∃ t, exec (.msgJoinAck p m) s = .next t ∧ heard t ∧ (getPeer t m.sender).joined = true ∧
        (getPeer t m.sender).noncePeer = BitVec.ofNat 64 (imgFld m.payload 0 8) ∧ onlyIn [.stk] s t) ∧
    (x.link = .up → isEdge x = false → roleOf x ≠ 4 → k.joined = true → ∀ q, edgeWith s (imgFld m.payload 1 2) = some q →
      ∃ t, exec (.msgViral p m) s = .next t ∧ Emit.viral q ∈ t.out) ∧
    (x.link = .up → roleOf x = 4 → x.gwOk = false → ∃ t, exec (.msgGateway p m) s = .next t ∧ (getPort t p).gwOk = gatewayOk s p m)

/-- Leaves of an active stack link (R343, R345, R350, R351, R354, R355, R357). A leaf whose CRC fails is counted and leaves everything;
one that passes frees what it acknowledges, and its own action follows: a NAK starts a replay pass, a duplicate is counted, a gap asks for
one NAK, and the next in sequence is taken. A count of leaves never sent resets the port. The start, the timer, Recovery and the end of a
stack link (R345, R357 to R361). A valid INIT records the partner and its credits, and a seen one that follows a first makes the link
active with its sequences at their start; an invalid one fails the training; an expiry starts a replay pass, the fourth in a row Recovery,
from which the link returns with an IDLE and a pass; a malformed leaf, an INIT of a restarted partner and the timeout of a lost lock reset
the port. It rests on choices of the model: log entries 27, 81. -/
def Obligations.StackLinks : Prop :=
 (∀ (s : State) (p : Nat) (b : List Byte), p < 96 →
    let x := getPort s p
    let h := leafHead b
    let live := roleOf x = 5 ∧ x.link = .up ∧ x.ifl.st = .active ∧ (getQuire s (quireOf p)).busy = false
    let got := takeFields (getPort (iflConsume s p) p).ifl h
    let d := sub12 h.seq (x.ifl.lastRx + 1)
    let holds (t : State) (y : Ifl) : Prop := ∀ j, getPort t j = if j = p then { x with ifl := y } else getPort s j
    let room := ¬(h.cls < 2 ∧ iflAdv x ≤ (got.rxLeaves.filter fun l => l.cls == h.cls).length)
    (∀ i, i = .leafData p b ∨ i = .leafIdle p b ∨ i = .leafNak p b ∨ i = .leafMgmt p b →
      (¬live → exec i s = .next s) ∧
      (live → leafCrcOk b = false → ∃ t, exec i s = .next t ∧ holds t (iflCount x.ifl 0) ∧ onlyIn [.port, .cnt] s t)) ∧
    (live → leafCrcOk b = true → leafBad b = false →
      (countBad x.ifl h = false → h.cls = 2 → h.type = 0 → ∃ t, exec (.leafIdle p b) s = .next t ∧ holds t got) ∧
      (countBad x.ifl h = false → h.cls = 2 → h.type = 1 → ∃ t, exec (.leafNak p b) s = .next t ∧ holds t (startPass (iflCount got 3))) ∧
      (∀ i, (i = .leafData p b ∧ h.cls < 2) ∨ (i = .leafMgmt p b ∧ h.cls = 2 ∧ h.type = 2) →
        (countBad x.ifl h = true → portWaits s p = false → x.rst = .run → ∃ t, exec i s = .next t ∧ (getPort t p).rst = .inReset) ∧
        (countBad x.ifl h = false → 2048 ≤ d → ∃ t, exec i s = .next t ∧ holds t (iflCount got 4)) ∧
        (countBad x.ifl h = false → 0 < d → d < 2048 → ∃ t, exec i s = .next t ∧
          holds t (if got.nakSent = true then got else { got with nakSent := true, nakDue := true })) ∧
        (countBad x.ifl h = false → d = 0 → room → ∃ u, holds u { got with lastRx := h.seq, nakSent := false, nakDue := false } ∧
          exec i s = .next (takePayload u p h b))))) ∧
 (∀ (s : State) (p : Nat) (b : List Byte), p < 96 →
    let x := getPort s p
    let y := x.ifl
    let v : BitVec 128 := BitVec.ofNat 128 (leNat (leafSlot b 0))
    let resets (i : Instr) : Prop := portWaits s p = false → x.rst = .run → ∃ t, exec i s = .next t ∧ (getPort t p).rst = .inReset ∧ (getPort t p).link = .off
    let others (t : State) : Prop := ∀ j, j ≠ p → getPort t j = getPort s j
    let init := leafCrcOk b = true ∧ leafBad b = false ∧ (leafHead b).cls = 2 ∧ (leafHead b).type = 3
    (roleOf x ≠ 5 → exec (.leafInit p b) s = .next s ∧ exec (.malformedLeaf p b) s = .next s ∧ exec (.replayTimerExpiry p) s = .next s) ∧
    (roleOf x = 5 → y.st = .init → init → initOk s (leafSlot b 0) = true → ∃ t, exec (.leafInit p b) s = .next t ∧ others t ∧
      let z := (getPort t p).ifl
      z.gotInit = true ∧ z.partner = fld v 8 3 ∧ z.reqAdv = fld v 16 12 ∧ z.rspAdv = fld v 28 12 ∧
      (y.gotInit = true → bit v 52 = true → (getPort t p).link = .up ∧ z.st = .active ∧ z.nextTx = 0 ∧ z.lastRx = 0xFFF ∧ z.oldest = 0) ∧
      (y.gotInit = false ∨ bit v 52 = false → (getPort t p).link = x.link ∧ z.st = .init)) ∧
    (roleOf x = 5 → y.st = .init → init → initOk s (leafSlot b 0) = false → ∃ t, exec (.leafInit p b) s = .next t ∧ others t ∧
      (getPort t p).ifl.evInit = true ∧ (getPort t p).link = .down) ∧
    (roleOf x = 5 → y.st = .active → init → resets (.leafInit p b)) ∧
    (roleOf x = 5 → y.st = .active ∨ y.st = .init → leafCrcOk b = true → leafBad b = true → resets (.malformedLeaf p b)) ∧
    (roleOf x = 5 → y.st = .active → y.timer = true →
      (y.expiries < 3 → ∃ t, exec (.replayTimerExpiry p) s = .next t ∧ others t ∧ (getPort t p).ifl.evReplay = true ∧
        (getPort t p).ifl.expiries = y.expiries + 1 ∧ (y.pass = [] → (getPort t p).ifl.pass = y.replay.map fun l => l.seq)) ∧
      (3 ≤ y.expiries → x.mode = 5 → ∃ t, exec (.replayTimerExpiry p) s = .next t ∧ others t ∧ (getPort t p).link = .recovery ∧
        (getPort t p).ifl.expiries = 0 ∧ (getPort t p).ifl.evRecovery = true)) ∧
    (x.mode = 5 → x.link = .recovery → (∃ t, exec (.iflRecoveryExit p) s = .next t ∧ others t ∧ (getPort t p).link = .up ∧ (getPort t p).ifl.st = .active ∧
        (getPort t p).ifl.idleDue = true ∧ (getPort t p).ifl.pass = y.replay.map fun l => l.seq) ∧
      resets (.iflLinkDownTimeout p)) ∧
    (x.mode ≠ 5 ∨ x.link ≠ .recovery → exec (.iflRecoveryExit p) s = .next s ∧ exec (.iflLinkDownTimeout p) s = .next s))

/-- Errors in internal memories (R312 to R314, R36, R124). A correction is logged with its memory, address and syndrome; an error that
cannot be corrected is logged and has its memory's consequence: a port is reset or held in DPC, a word of the program store becomes bad, a
route entry, a replication group and a meter entry become invalid, both copies of a table entry reset the device, a pace-history entry is
lost. It rests on choices of the model: log entries 40, 72. -/
def Obligations.MemoryErrors : Prop :=
  ∀ s : State,
    let ue (m : IMem) (i n : Nat) (t : State) : Prop := exec (.uncorrectableMemoryError m i n) s = .next t
    (∀ kind i m a y, (memThere s ⟨kind, i⟩ m = false → exec (.correctableMemoryError kind i m a y) s = .next s) ∧
      (memThere s ⟨kind, i⟩ m = true → ∃ t, exec (.correctableMemoryError kind i m a y) s = .next t ∧
        onlyIn [.cmd, .seq, .cnt, .out] s t ∧ contextsKept s t ∧
        t.cnt.logs = (logMem s ⟨kind, i⟩ false m (a % 2 ^ 24) (y % 256)).cnt.logs)) ∧
    (∀ m i n, ∃ t, ue m i n t) ∧
    (∀ p m n, p < 96 → leadPort s p = true → memThere s (uPort p) m = true → portWaits s p = false → (getPort s p).rst = .run →
      ∃ t, ue .portState (p + 128 * m) n t ∧ (getPort t p).rst = .inReset ∧ (getPort t p).dpcTrig = ((getPort s p).dpcTrig || boundDown s p)) ∧
    (∀ i n, i < 65536 → ∃ t, ue .programStore i n t ∧ i ∈ t.seq.psBad ∧ onlyIn [.seq, .store, .cnt] s t) ∧
    (∀ q i n, q < 12 → i < 4096 → ∃ t, ue .routeEntry (4096 * q + i) n t ∧
      ∀ j, tget 0 (getQuire t q).route j = if j = i then setFld (tget 0 (getQuire s q).route i) 31 1 0 else tget 0 (getQuire s q).route j) ∧
    (∀ g n, g < 1024 → ∃ t, ue .replicationGroup g n t ∧ bit (getRgrp t g).header 63 = false) ∧
    (∀ i n, i < 24576 → (n < 2 → ∃ t, ue .sheetTable i n t ∧ onlyIn [.cnt] s t) ∧
      (2 ≤ n → s.glb.inReset = false → ∃ t, ue .sheetTable i n t ∧ t.glb.inReset = true ∧ t.glb.causeTableUe = true)) ∧
    (∀ i n, i < 8192 → (n < 2 → ∃ t, ue .deckleTable i n t ∧ onlyIn [.cnt] s t) ∧
      (2 ≤ n → s.glb.inReset = false → ∃ t, ue .deckleTable i n t ∧ t.glb.inReset = true ∧ t.glb.causeTableUe = true)) ∧
    (∀ i n, ∃ t, ue .paceHistory i n t ∧ onlyIn [.pace, .cnt] s t ∧ ∀ j : Nat, t.pace.hist[j]? = (s.pace.hist[j]?).map fun e => if j = i then 0 else e)
end

