-- ==== Sys2Proof/Laws/Tables.lean ====
section
/-!
SUPPORT. Laws of sparse tables: reads after writes, on any table, and the canonical form that every write keeps.
-/

namespace Sys2Proof.Machine

variable {α : Type}

/-! ## Reads after writes -/

@[simp] theorem tget_nil (d : α) (k : Nat) : tget d [] k = d := rfl

theorem tget_cons (d : α) (i k : Nat) (v : α) (m : Tab α) :
    tget d ((i, v) :: m) k = if i = k then v else tget d m k := rfl

theorem tget_tins (d : α) (m : Tab α) (k : Nat) (v : α) (j : Nat) :
    tget d (tins m k v) j = if j = k then v else tget d m j := by
  induction m with
  | nil =>
    by_cases h : j = k
    · simp [tins, tget_cons, h]
    · simp [tins, tget_cons, h, Ne.symm h]
  | cons e m ih =>
    obtain ⟨i, w⟩ := e
    by_cases hj : j = k
    · subst hj
      by_cases hi : i = j
      · simp [tins, hi, tget_cons]
      · by_cases hlt : j < i <;> simp [tins, hi, hlt, tget_cons, ih]
    · have hk : ¬k = j := fun h => hj h.symm
      by_cases hi : i = k
      · subst hi; simp [tins, tget_cons, hj, hk]
      · by_cases hlt : k < i <;> simp [tins, hi, hlt, tget_cons, ih, hj, hk]

theorem tget_tdel (d : α) (m : Tab α) (k j : Nat) : tget d (tdel m k) j = if j = k then d else tget d m j := by
  induction m with
  | nil => simp [tdel]
  | cons e m ih =>
    obtain ⟨i, w⟩ := e
    by_cases hi : i = k
    · subst hi
      by_cases hj : j = i
      · subst hj; simpa [tdel] using ih
      · have : ¬i = j := fun h => hj h.symm
        simp [tdel, ih, hj, tget_cons, this]
    · by_cases hj : j = k
      · subst hj; simp [tdel, hi, tget_cons, ih]
      · simp [tdel, hi, tget_cons, ih, hj]

/-- A write is read back, and leaves every other index. -/
@[simp] theorem tget_tput [DecidableEq α] (d : α) (m : Tab α) (k : Nat) (v : α) (j : Nat) :
    tget d (tput d m k v) j = if j = k then v else tget d m j := by
  unfold tput
  split
  · next h => rw [tget_tdel, h]
  · rw [tget_tins]

/-- What a table holds at an index is the default or the value of one of its pairs. -/
theorem tget_mem (d : α) (m : Tab α) (k : Nat) : tget d m k = d ∨ (k, tget d m k) ∈ m := by
  induction m with
  | nil => simp
  | cons e m ih =>
    obtain ⟨i, w⟩ := e
    rw [tget_cons]
    split
    · next h => subst h; exact .inr (List.mem_cons_self ..)
    · exact ih.imp_right (List.mem_cons_of_mem _)

/-! ## The canonical form -/

/-- The canonical form as a proposition. -/
theorem tabWf_iff [DecidableEq α] (d : α) (m : Tab α) :
    tabWf d m = true ↔ m.Pairwise (fun a b => a.1 < b.1) ∧ ∀ e ∈ m, e.2 ≠ d := by
  induction m with
  | nil => simp [tabWf]
  | cons e m ih =>
    obtain ⟨i, v⟩ := e
    cases m with
    | nil => simp [tabWf]
    | cons f m =>
      obtain ⟨j, w⟩ := f
      simp only [tabWf, Bool.and_eq_true, bne_iff_ne, decide_eq_true_eq, ih, List.pairwise_cons, List.mem_cons]
      constructor
      · rintro ⟨⟨hv, hij⟩, ⟨hp, hq⟩, hr⟩
        refine ⟨⟨?_, hp, hq⟩, ?_⟩
        · rintro a (rfl | ha)
          · exact hij
          · exact Nat.lt_trans hij (hp a ha)
        · rintro a (rfl | ha)
          · exact hv
          · exact hr a ha
      · rintro ⟨⟨ha, hp, hq⟩, hr⟩
        exact ⟨⟨hr _ (.inl rfl), ha _ (.inl rfl)⟩, ⟨hp, hq⟩, fun e he => hr e (.inr he)⟩

theorem mem_tins {m : Tab α} {k : Nat} {v : α} {e : Nat × α} (h : e ∈ tins m k v) : e = (k, v) ∨ e ∈ m := by
  induction m with
  | nil => simpa [tins] using h
  | cons f m ih =>
    obtain ⟨i, w⟩ := f
    unfold tins at h
    split at h
    · rcases List.mem_cons.1 h with h | h
      · exact .inl h
      · exact .inr (List.mem_cons_of_mem _ h)
    · split at h
      · rcases List.mem_cons.1 h with h | h
        · exact .inl h
        · exact .inr h
      · rcases List.mem_cons.1 h with h | h
        · exact .inr (h ▸ List.mem_cons_self ..)
        · exact (ih h).imp_right (List.mem_cons_of_mem _)

theorem tins_sorted {m : Tab α} (k : Nat) (v : α) (h : m.Pairwise (fun a b => a.1 < b.1)) :
    (tins m k v).Pairwise (fun a b => a.1 < b.1) := by
  induction m with
  | nil => simp [tins]
  | cons f m ih =>
    obtain ⟨i, w⟩ := f
    obtain ⟨h1, h2⟩ := List.pairwise_cons.1 h
    unfold tins
    split
    · next e => subst e; exact List.pairwise_cons.2 ⟨h1, h2⟩
    · split
      · next hlt =>
        refine List.pairwise_cons.2 ⟨?_, h⟩
        intro a ha
        rcases List.mem_cons.1 ha with rfl | ha
        · exact hlt
        · exact Nat.lt_trans hlt (h1 a ha)
      · next hne hlt =>
        refine List.pairwise_cons.2 ⟨?_, ih h2⟩
        intro a ha
        rcases mem_tins ha with rfl | ha
        · show i < k; omega
        · exact h1 a ha

theorem tdel_sublist (m : Tab α) (k : Nat) : (tdel m k).Sublist m := by
  induction m with
  | nil => simp [tdel]
  | cons f m ih =>
    obtain ⟨i, w⟩ := f
    unfold tdel
    split
    · exact ih.cons _
    · exact ih.cons_cons _

/-- Part of a canonical table is canonical. -/
theorem tabWf_sublist [DecidableEq α] {d : α} {m n : Tab α} (h : tabWf d m = true) (hs : n.Sublist m) : tabWf d n = true := by
  rw [tabWf_iff] at h ⊢
  exact ⟨h.1.sublist hs, fun e he => h.2 e (hs.subset he)⟩

/-- A filtered canonical table is canonical. -/
theorem tabWf_filter [DecidableEq α] {d : α} {m : Tab α} (p : Nat × α → Bool) (h : tabWf d m = true) :
    tabWf d (m.filter p) = true := tabWf_sublist h List.filter_sublist

/-- A write keeps the canonical form. -/
theorem tabWf_tput [DecidableEq α] {d : α} {m : Tab α} (k : Nat) (v : α) (h : tabWf d m = true) : tabWf d (tput d m k v) = true := by
  unfold tput
  split
  · exact tabWf_sublist h (tdel_sublist m k)
  · next hv =>
    rw [tabWf_iff] at h ⊢
    refine ⟨tins_sorted k v h.1, fun e he => ?_⟩
    rcases mem_tins he with rfl | he
    · exact hv
    · exact h.2 e he

/-- A pair is in a table after a write only if it was written or was there. -/
theorem mem_tput [DecidableEq α] {d : α} {m : Tab α} {k : Nat} {v : α} {e : Nat × α} (h : e ∈ tput d m k v) :
    e = (k, v) ∨ e ∈ m := by
  unfold tput at h
  split at h
  · exact .inr ((tdel_sublist m k).subset h)
  · exact mem_tins h

/-! ## Byte memory -/

/-- Every write of bytes keeps the canonical form. -/
theorem wf_wrBytes {m : Mem} (a : Nat) (b : List Byte) (h : Memory.wf m = true) : Memory.wf (wrBytes m a b) = true := by
  induction b generalizing m a with
  | nil => exact h
  | cons x b ih => exact ih (a + 1) (tabWf_tput a x h)

/-- A byte outside the bytes written reads as before. -/
theorem tget_wrBytes_other (m : Mem) (a : Nat) (b : List Byte) (k : Nat) (h : k < a ∨ a + b.length ≤ k) :
    tget 0 (wrBytes m a b) k = tget 0 m k := by
  induction b generalizing m a with
  | nil => rfl
  | cons x b ih =>
    simp only [List.length_cons] at h
    rw [wrBytes, ih _ _ (by omega), tget_tput, if_neg (by omega)]

/-- A byte written reads back. -/
theorem tget_wrBytes (m : Mem) (a : Nat) (b : List Byte) (i : Nat) (h : i < b.length) :
    tget 0 (wrBytes m a b) (a + i) = b[i] := by
  induction b generalizing m a i with
  | nil => simp at h
  | cons x b ih =>
    cases i with
    | zero => rw [wrBytes, tget_wrBytes_other _ _ _ _ (by omega)]; simp
    | succ i =>
      have := ih (tput 0 m a x) (a + 1) i (by simpa using h)
      simpa [wrBytes, Nat.add_assoc, Nat.add_comm 1 i] using this

theorem length_rdBytes (m : Mem) (a n : Nat) : (rdBytes m a n).length = n := by
  induction n generalizing a with
  | zero => rfl
  | succ n ih => simp [rdBytes, ih]

/-- Bytes written are read back. -/
theorem rdBytes_wrBytes (m : Mem) (a : Nat) (b : List Byte) : rdBytes (wrBytes m a b) a b.length = b := by
  induction b generalizing m a with
  | nil => rfl
  | cons x b ih =>
    rw [List.length_cons, rdBytes, wrBytes, ih, tget_wrBytes_other _ _ _ _ (by omega)]
    simp

end Sys2Proof.Machine
end

