-- ==== Sys2Proof/Laws/State.lean ====
section
/-!
SUPPORT. What each update of one unit leaves and what it writes: one lemma for each field and each update, and the reads of a unit
after its update.
-/

namespace Sys2Proof.Machine

@[simp] theorem setPort_glb (s : State) (p : Nat) (x : Port) : (setPort s p x).glb = s.glb := rfl
@[simp] theorem setPort_cmd (s : State) (p : Nat) (x : Port) : (setPort s p x).cmd = s.cmd := rfl
@[simp] theorem setPort_pwr (s : State) (p : Nat) (x : Port) : (setPort s p x).pwr = s.pwr := rfl
@[simp] theorem setPort_pace (s : State) (p : Nat) (x : Port) : (setPort s p x).pace = s.pace := rfl
@[simp] theorem setPort_slot (s : State) (p : Nat) (x : Port) : (setPort s p x).slot = s.slot := rfl
@[simp] theorem setPort_pwrfail (s : State) (p : Nat) (x : Port) : (setPort s p x).pwrfail = s.pwrfail := rfl
@[simp] theorem setPort_slotHold (s : State) (p : Nat) (x : Port) : (setPort s p x).slotHold = s.slotHold := rfl
@[simp] theorem setPort_pool (s : State) (p : Nat) (x : Port) : (setPort s p x).pool = s.pool := rfl
@[simp] theorem setPort_home (s : State) (p : Nat) (x : Port) : (setPort s p x).home = s.home := rfl
@[simp] theorem setPort_dkl (s : State) (p : Nat) (x : Port) : (setPort s p x).dkl = s.dkl := rfl
@[simp] theorem setPort_seq (s : State) (p : Nat) (x : Port) : (setPort s p x).seq = s.seq := rfl
@[simp] theorem setPort_mov (s : State) (p : Nat) (x : Port) : (setPort s p x).mov = s.mov := rfl
@[simp] theorem setPort_time (s : State) (p : Nat) (x : Port) : (setPort s p x).time = s.time := rfl
@[simp] theorem setPort_ten (s : State) (p : Nat) (x : Port) : (setPort s p x).ten = s.ten := rfl
@[simp] theorem setPort_quire (s : State) (p : Nat) (x : Port) : (setPort s p x).quire = s.quire := rfl
@[simp] theorem setPort_core (s : State) (p : Nat) (x : Port) : (setPort s p x).core = s.core := rfl
@[simp] theorem setPort_cnt (s : State) (p : Nat) (x : Port) : (setPort s p x).cnt = s.cnt := rfl
@[simp] theorem setPort_stk (s : State) (p : Nat) (x : Port) : (setPort s p x).stk = s.stk := rfl
@[simp] theorem setPort_tap (s : State) (p : Nat) (x : Port) : (setPort s p x).tap = s.tap := rfl
@[simp] theorem setPort_pairLo (s : State) (p : Nat) (x : Port) : (setPort s p x).pairLo = s.pairLo := rfl
@[simp] theorem setPort_pairHi (s : State) (p : Nat) (x : Port) : (setPort s p x).pairHi = s.pairHi := rfl
@[simp] theorem setPort_out (s : State) (p : Nat) (x : Port) : (setPort s p x).out = s.out := rfl
@[simp] theorem setPort_fresh (s : State) (p : Nat) (x : Port) : (setPort s p x).fresh = s.fresh := rfl
@[simp] theorem setPort_nextId (s : State) (p : Nat) (x : Port) : (setPort s p x).nextId = s.nextId := rfl
@[simp] theorem setPort_pending (s : State) (p : Nat) (x : Port) : (setPort s p x).pending = s.pending := rfl

@[simp] theorem modPort_glb (s : State) (p : Nat) (f : Port → Port) : (modPort s p f).glb = s.glb := rfl
@[simp] theorem modPort_cmd (s : State) (p : Nat) (f : Port → Port) : (modPort s p f).cmd = s.cmd := rfl
@[simp] theorem modPort_pwr (s : State) (p : Nat) (f : Port → Port) : (modPort s p f).pwr = s.pwr := rfl
@[simp] theorem modPort_pace (s : State) (p : Nat) (f : Port → Port) : (modPort s p f).pace = s.pace := rfl
@[simp] theorem modPort_slot (s : State) (p : Nat) (f : Port → Port) : (modPort s p f).slot = s.slot := rfl
@[simp] theorem modPort_pwrfail (s : State) (p : Nat) (f : Port → Port) : (modPort s p f).pwrfail = s.pwrfail := rfl
@[simp] theorem modPort_slotHold (s : State) (p : Nat) (f : Port → Port) : (modPort s p f).slotHold = s.slotHold := rfl
@[simp] theorem modPort_pool (s : State) (p : Nat) (f : Port → Port) : (modPort s p f).pool = s.pool := rfl
@[simp] theorem modPort_home (s : State) (p : Nat) (f : Port → Port) : (modPort s p f).home = s.home := rfl
@[simp] theorem modPort_dkl (s : State) (p : Nat) (f : Port → Port) : (modPort s p f).dkl = s.dkl := rfl
@[simp] theorem modPort_seq (s : State) (p : Nat) (f : Port → Port) : (modPort s p f).seq = s.seq := rfl
@[simp] theorem modPort_mov (s : State) (p : Nat) (f : Port → Port) : (modPort s p f).mov = s.mov := rfl
@[simp] theorem modPort_time (s : State) (p : Nat) (f : Port → Port) : (modPort s p f).time = s.time := rfl
@[simp] theorem modPort_ten (s : State) (p : Nat) (f : Port → Port) : (modPort s p f).ten = s.ten := rfl
@[simp] theorem modPort_quire (s : State) (p : Nat) (f : Port → Port) : (modPort s p f).quire = s.quire := rfl
@[simp] theorem modPort_core (s : State) (p : Nat) (f : Port → Port) : (modPort s p f).core = s.core := rfl
@[simp] theorem modPort_cnt (s : State) (p : Nat) (f : Port → Port) : (modPort s p f).cnt = s.cnt := rfl
@[simp] theorem modPort_stk (s : State) (p : Nat) (f : Port → Port) : (modPort s p f).stk = s.stk := rfl
@[simp] theorem modPort_tap (s : State) (p : Nat) (f : Port → Port) : (modPort s p f).tap = s.tap := rfl
@[simp] theorem modPort_pairLo (s : State) (p : Nat) (f : Port → Port) : (modPort s p f).pairLo = s.pairLo := rfl
@[simp] theorem modPort_pairHi (s : State) (p : Nat) (f : Port → Port) : (modPort s p f).pairHi = s.pairHi := rfl
@[simp] theorem modPort_out (s : State) (p : Nat) (f : Port → Port) : (modPort s p f).out = s.out := rfl
@[simp] theorem modPort_fresh (s : State) (p : Nat) (f : Port → Port) : (modPort s p f).fresh = s.fresh := rfl
@[simp] theorem modPort_nextId (s : State) (p : Nat) (f : Port → Port) : (modPort s p f).nextId = s.nextId := rfl
@[simp] theorem modPort_pending (s : State) (p : Nat) (f : Port → Port) : (modPort s p f).pending = s.pending := rfl

@[simp] theorem modQuire_glb (s : State) (q : Nat) (f : Quire → Quire) : (modQuire s q f).glb = s.glb := rfl
@[simp] theorem modQuire_cmd (s : State) (q : Nat) (f : Quire → Quire) : (modQuire s q f).cmd = s.cmd := rfl
@[simp] theorem modQuire_pwr (s : State) (q : Nat) (f : Quire → Quire) : (modQuire s q f).pwr = s.pwr := rfl
@[simp] theorem modQuire_pace (s : State) (q : Nat) (f : Quire → Quire) : (modQuire s q f).pace = s.pace := rfl
@[simp] theorem modQuire_slot (s : State) (q : Nat) (f : Quire → Quire) : (modQuire s q f).slot = s.slot := rfl
@[simp] theorem modQuire_pwrfail (s : State) (q : Nat) (f : Quire → Quire) : (modQuire s q f).pwrfail = s.pwrfail := rfl
@[simp] theorem modQuire_slotHold (s : State) (q : Nat) (f : Quire → Quire) : (modQuire s q f).slotHold = s.slotHold := rfl
@[simp] theorem modQuire_pool (s : State) (q : Nat) (f : Quire → Quire) : (modQuire s q f).pool = s.pool := rfl
@[simp] theorem modQuire_home (s : State) (q : Nat) (f : Quire → Quire) : (modQuire s q f).home = s.home := rfl
@[simp] theorem modQuire_dkl (s : State) (q : Nat) (f : Quire → Quire) : (modQuire s q f).dkl = s.dkl := rfl
@[simp] theorem modQuire_seq (s : State) (q : Nat) (f : Quire → Quire) : (modQuire s q f).seq = s.seq := rfl
@[simp] theorem modQuire_mov (s : State) (q : Nat) (f : Quire → Quire) : (modQuire s q f).mov = s.mov := rfl
@[simp] theorem modQuire_time (s : State) (q : Nat) (f : Quire → Quire) : (modQuire s q f).time = s.time := rfl
@[simp] theorem modQuire_ten (s : State) (q : Nat) (f : Quire → Quire) : (modQuire s q f).ten = s.ten := rfl
@[simp] theorem modQuire_port (s : State) (q : Nat) (f : Quire → Quire) : (modQuire s q f).port = s.port := rfl
@[simp] theorem modQuire_core (s : State) (q : Nat) (f : Quire → Quire) : (modQuire s q f).core = s.core := rfl
@[simp] theorem modQuire_cnt (s : State) (q : Nat) (f : Quire → Quire) : (modQuire s q f).cnt = s.cnt := rfl
@[simp] theorem modQuire_stk (s : State) (q : Nat) (f : Quire → Quire) : (modQuire s q f).stk = s.stk := rfl
@[simp] theorem modQuire_tap (s : State) (q : Nat) (f : Quire → Quire) : (modQuire s q f).tap = s.tap := rfl
@[simp] theorem modQuire_pairLo (s : State) (q : Nat) (f : Quire → Quire) : (modQuire s q f).pairLo = s.pairLo := rfl
@[simp] theorem modQuire_pairHi (s : State) (q : Nat) (f : Quire → Quire) : (modQuire s q f).pairHi = s.pairHi := rfl
@[simp] theorem modQuire_out (s : State) (q : Nat) (f : Quire → Quire) : (modQuire s q f).out = s.out := rfl
@[simp] theorem modQuire_fresh (s : State) (q : Nat) (f : Quire → Quire) : (modQuire s q f).fresh = s.fresh := rfl
@[simp] theorem modQuire_nextId (s : State) (q : Nat) (f : Quire → Quire) : (modQuire s q f).nextId = s.nextId := rfl
@[simp] theorem modQuire_pending (s : State) (q : Nat) (f : Quire → Quire) : (modQuire s q f).pending = s.pending := rfl

@[simp] theorem modTen_glb (s : State) (t : Nat) (f : Ten → Ten) : (modTen s t f).glb = s.glb := rfl
@[simp] theorem modTen_cmd (s : State) (t : Nat) (f : Ten → Ten) : (modTen s t f).cmd = s.cmd := rfl
@[simp] theorem modTen_pwr (s : State) (t : Nat) (f : Ten → Ten) : (modTen s t f).pwr = s.pwr := rfl
@[simp] theorem modTen_pace (s : State) (t : Nat) (f : Ten → Ten) : (modTen s t f).pace = s.pace := rfl
@[simp] theorem modTen_slot (s : State) (t : Nat) (f : Ten → Ten) : (modTen s t f).slot = s.slot := rfl
@[simp] theorem modTen_pwrfail (s : State) (t : Nat) (f : Ten → Ten) : (modTen s t f).pwrfail = s.pwrfail := rfl
@[simp] theorem modTen_slotHold (s : State) (t : Nat) (f : Ten → Ten) : (modTen s t f).slotHold = s.slotHold := rfl
@[simp] theorem modTen_pool (s : State) (t : Nat) (f : Ten → Ten) : (modTen s t f).pool = s.pool := rfl
@[simp] theorem modTen_home (s : State) (t : Nat) (f : Ten → Ten) : (modTen s t f).home = s.home := rfl
@[simp] theorem modTen_dkl (s : State) (t : Nat) (f : Ten → Ten) : (modTen s t f).dkl = s.dkl := rfl
@[simp] theorem modTen_seq (s : State) (t : Nat) (f : Ten → Ten) : (modTen s t f).seq = s.seq := rfl
@[simp] theorem modTen_mov (s : State) (t : Nat) (f : Ten → Ten) : (modTen s t f).mov = s.mov := rfl
@[simp] theorem modTen_time (s : State) (t : Nat) (f : Ten → Ten) : (modTen s t f).time = s.time := rfl
@[simp] theorem modTen_port (s : State) (t : Nat) (f : Ten → Ten) : (modTen s t f).port = s.port := rfl
@[simp] theorem modTen_quire (s : State) (t : Nat) (f : Ten → Ten) : (modTen s t f).quire = s.quire := rfl
@[simp] theorem modTen_core (s : State) (t : Nat) (f : Ten → Ten) : (modTen s t f).core = s.core := rfl
@[simp] theorem modTen_cnt (s : State) (t : Nat) (f : Ten → Ten) : (modTen s t f).cnt = s.cnt := rfl
@[simp] theorem modTen_stk (s : State) (t : Nat) (f : Ten → Ten) : (modTen s t f).stk = s.stk := rfl
@[simp] theorem modTen_tap (s : State) (t : Nat) (f : Ten → Ten) : (modTen s t f).tap = s.tap := rfl
@[simp] theorem modTen_pairLo (s : State) (t : Nat) (f : Ten → Ten) : (modTen s t f).pairLo = s.pairLo := rfl
@[simp] theorem modTen_pairHi (s : State) (t : Nat) (f : Ten → Ten) : (modTen s t f).pairHi = s.pairHi := rfl
@[simp] theorem modTen_out (s : State) (t : Nat) (f : Ten → Ten) : (modTen s t f).out = s.out := rfl
@[simp] theorem modTen_fresh (s : State) (t : Nat) (f : Ten → Ten) : (modTen s t f).fresh = s.fresh := rfl
@[simp] theorem modTen_nextId (s : State) (t : Nat) (f : Ten → Ten) : (modTen s t f).nextId = s.nextId := rfl
@[simp] theorem modTen_pending (s : State) (t : Nat) (f : Ten → Ten) : (modTen s t f).pending = s.pending := rfl

@[simp] theorem modVppb_glb (s : State) (t v : Nat) (f : Vppb → Vppb) : (modVppb s t v f).glb = s.glb := rfl
@[simp] theorem modVppb_cmd (s : State) (t v : Nat) (f : Vppb → Vppb) : (modVppb s t v f).cmd = s.cmd := rfl
@[simp] theorem modVppb_pwr (s : State) (t v : Nat) (f : Vppb → Vppb) : (modVppb s t v f).pwr = s.pwr := rfl
@[simp] theorem modVppb_pace (s : State) (t v : Nat) (f : Vppb → Vppb) : (modVppb s t v f).pace = s.pace := rfl
@[simp] theorem modVppb_slot (s : State) (t v : Nat) (f : Vppb → Vppb) : (modVppb s t v f).slot = s.slot := rfl
@[simp] theorem modVppb_pwrfail (s : State) (t v : Nat) (f : Vppb → Vppb) : (modVppb s t v f).pwrfail = s.pwrfail := rfl
@[simp] theorem modVppb_slotHold (s : State) (t v : Nat) (f : Vppb → Vppb) : (modVppb s t v f).slotHold = s.slotHold := rfl
@[simp] theorem modVppb_pool (s : State) (t v : Nat) (f : Vppb → Vppb) : (modVppb s t v f).pool = s.pool := rfl
@[simp] theorem modVppb_home (s : State) (t v : Nat) (f : Vppb → Vppb) : (modVppb s t v f).home = s.home := rfl
@[simp] theorem modVppb_dkl (s : State) (t v : Nat) (f : Vppb → Vppb) : (modVppb s t v f).dkl = s.dkl := rfl
@[simp] theorem modVppb_seq (s : State) (t v : Nat) (f : Vppb → Vppb) : (modVppb s t v f).seq = s.seq := rfl
@[simp] theorem modVppb_mov (s : State) (t v : Nat) (f : Vppb → Vppb) : (modVppb s t v f).mov = s.mov := rfl
@[simp] theorem modVppb_time (s : State) (t v : Nat) (f : Vppb → Vppb) : (modVppb s t v f).time = s.time := rfl
@[simp] theorem modVppb_port (s : State) (t v : Nat) (f : Vppb → Vppb) : (modVppb s t v f).port = s.port := rfl
@[simp] theorem modVppb_quire (s : State) (t v : Nat) (f : Vppb → Vppb) : (modVppb s t v f).quire = s.quire := rfl
@[simp] theorem modVppb_core (s : State) (t v : Nat) (f : Vppb → Vppb) : (modVppb s t v f).core = s.core := rfl
@[simp] theorem modVppb_cnt (s : State) (t v : Nat) (f : Vppb → Vppb) : (modVppb s t v f).cnt = s.cnt := rfl
@[simp] theorem modVppb_stk (s : State) (t v : Nat) (f : Vppb → Vppb) : (modVppb s t v f).stk = s.stk := rfl
@[simp] theorem modVppb_tap (s : State) (t v : Nat) (f : Vppb → Vppb) : (modVppb s t v f).tap = s.tap := rfl
@[simp] theorem modVppb_pairLo (s : State) (t v : Nat) (f : Vppb → Vppb) : (modVppb s t v f).pairLo = s.pairLo := rfl
@[simp] theorem modVppb_pairHi (s : State) (t v : Nat) (f : Vppb → Vppb) : (modVppb s t v f).pairHi = s.pairHi := rfl
@[simp] theorem modVppb_out (s : State) (t v : Nat) (f : Vppb → Vppb) : (modVppb s t v f).out = s.out := rfl
@[simp] theorem modVppb_fresh (s : State) (t v : Nat) (f : Vppb → Vppb) : (modVppb s t v f).fresh = s.fresh := rfl
@[simp] theorem modVppb_nextId (s : State) (t v : Nat) (f : Vppb → Vppb) : (modVppb s t v f).nextId = s.nextId := rfl
@[simp] theorem modVppb_pending (s : State) (t v : Nat) (f : Vppb → Vppb) : (modVppb s t v f).pending = s.pending := rfl

@[simp] theorem setCtx_glb (s : State) (c : Nat) (x : Ctx) : (setCtx s c x).glb = s.glb := rfl
@[simp] theorem setCtx_cmd (s : State) (c : Nat) (x : Ctx) : (setCtx s c x).cmd = s.cmd := rfl
@[simp] theorem setCtx_pwr (s : State) (c : Nat) (x : Ctx) : (setCtx s c x).pwr = s.pwr := rfl
@[simp] theorem setCtx_pace (s : State) (c : Nat) (x : Ctx) : (setCtx s c x).pace = s.pace := rfl
@[simp] theorem setCtx_slot (s : State) (c : Nat) (x : Ctx) : (setCtx s c x).slot = s.slot := rfl
@[simp] theorem setCtx_pwrfail (s : State) (c : Nat) (x : Ctx) : (setCtx s c x).pwrfail = s.pwrfail := rfl
@[simp] theorem setCtx_slotHold (s : State) (c : Nat) (x : Ctx) : (setCtx s c x).slotHold = s.slotHold := rfl
@[simp] theorem setCtx_pool (s : State) (c : Nat) (x : Ctx) : (setCtx s c x).pool = s.pool := rfl
@[simp] theorem setCtx_home (s : State) (c : Nat) (x : Ctx) : (setCtx s c x).home = s.home := rfl
@[simp] theorem setCtx_dkl (s : State) (c : Nat) (x : Ctx) : (setCtx s c x).dkl = s.dkl := rfl
@[simp] theorem setCtx_mov (s : State) (c : Nat) (x : Ctx) : (setCtx s c x).mov = s.mov := rfl
@[simp] theorem setCtx_time (s : State) (c : Nat) (x : Ctx) : (setCtx s c x).time = s.time := rfl
@[simp] theorem setCtx_ten (s : State) (c : Nat) (x : Ctx) : (setCtx s c x).ten = s.ten := rfl
@[simp] theorem setCtx_port (s : State) (c : Nat) (x : Ctx) : (setCtx s c x).port = s.port := rfl
@[simp] theorem setCtx_quire (s : State) (c : Nat) (x : Ctx) : (setCtx s c x).quire = s.quire := rfl
@[simp] theorem setCtx_core (s : State) (c : Nat) (x : Ctx) : (setCtx s c x).core = s.core := rfl
@[simp] theorem setCtx_cnt (s : State) (c : Nat) (x : Ctx) : (setCtx s c x).cnt = s.cnt := rfl
@[simp] theorem setCtx_stk (s : State) (c : Nat) (x : Ctx) : (setCtx s c x).stk = s.stk := rfl
@[simp] theorem setCtx_tap (s : State) (c : Nat) (x : Ctx) : (setCtx s c x).tap = s.tap := rfl
@[simp] theorem setCtx_pairLo (s : State) (c : Nat) (x : Ctx) : (setCtx s c x).pairLo = s.pairLo := rfl
@[simp] theorem setCtx_pairHi (s : State) (c : Nat) (x : Ctx) : (setCtx s c x).pairHi = s.pairHi := rfl
@[simp] theorem setCtx_out (s : State) (c : Nat) (x : Ctx) : (setCtx s c x).out = s.out := rfl
@[simp] theorem setCtx_fresh (s : State) (c : Nat) (x : Ctx) : (setCtx s c x).fresh = s.fresh := rfl
@[simp] theorem setCtx_nextId (s : State) (c : Nat) (x : Ctx) : (setCtx s c x).nextId = s.nextId := rfl
@[simp] theorem setCtx_pending (s : State) (c : Nat) (x : Ctx) : (setCtx s c x).pending = s.pending := rfl

@[simp] theorem modCtx_glb (s : State) (c : Nat) (f : Ctx → Ctx) : (modCtx s c f).glb = s.glb := rfl
@[simp] theorem modCtx_cmd (s : State) (c : Nat) (f : Ctx → Ctx) : (modCtx s c f).cmd = s.cmd := rfl
@[simp] theorem modCtx_pwr (s : State) (c : Nat) (f : Ctx → Ctx) : (modCtx s c f).pwr = s.pwr := rfl
@[simp] theorem modCtx_pace (s : State) (c : Nat) (f : Ctx → Ctx) : (modCtx s c f).pace = s.pace := rfl
@[simp] theorem modCtx_slot (s : State) (c : Nat) (f : Ctx → Ctx) : (modCtx s c f).slot = s.slot := rfl
@[simp] theorem modCtx_pwrfail (s : State) (c : Nat) (f : Ctx → Ctx) : (modCtx s c f).pwrfail = s.pwrfail := rfl
@[simp] theorem modCtx_slotHold (s : State) (c : Nat) (f : Ctx → Ctx) : (modCtx s c f).slotHold = s.slotHold := rfl
@[simp] theorem modCtx_pool (s : State) (c : Nat) (f : Ctx → Ctx) : (modCtx s c f).pool = s.pool := rfl
@[simp] theorem modCtx_home (s : State) (c : Nat) (f : Ctx → Ctx) : (modCtx s c f).home = s.home := rfl
@[simp] theorem modCtx_dkl (s : State) (c : Nat) (f : Ctx → Ctx) : (modCtx s c f).dkl = s.dkl := rfl
@[simp] theorem modCtx_mov (s : State) (c : Nat) (f : Ctx → Ctx) : (modCtx s c f).mov = s.mov := rfl
@[simp] theorem modCtx_time (s : State) (c : Nat) (f : Ctx → Ctx) : (modCtx s c f).time = s.time := rfl
@[simp] theorem modCtx_ten (s : State) (c : Nat) (f : Ctx → Ctx) : (modCtx s c f).ten = s.ten := rfl
@[simp] theorem modCtx_port (s : State) (c : Nat) (f : Ctx → Ctx) : (modCtx s c f).port = s.port := rfl
@[simp] theorem modCtx_quire (s : State) (c : Nat) (f : Ctx → Ctx) : (modCtx s c f).quire = s.quire := rfl
@[simp] theorem modCtx_core (s : State) (c : Nat) (f : Ctx → Ctx) : (modCtx s c f).core = s.core := rfl
@[simp] theorem modCtx_cnt (s : State) (c : Nat) (f : Ctx → Ctx) : (modCtx s c f).cnt = s.cnt := rfl
@[simp] theorem modCtx_stk (s : State) (c : Nat) (f : Ctx → Ctx) : (modCtx s c f).stk = s.stk := rfl
@[simp] theorem modCtx_tap (s : State) (c : Nat) (f : Ctx → Ctx) : (modCtx s c f).tap = s.tap := rfl
@[simp] theorem modCtx_pairLo (s : State) (c : Nat) (f : Ctx → Ctx) : (modCtx s c f).pairLo = s.pairLo := rfl
@[simp] theorem modCtx_pairHi (s : State) (c : Nat) (f : Ctx → Ctx) : (modCtx s c f).pairHi = s.pairHi := rfl
@[simp] theorem modCtx_out (s : State) (c : Nat) (f : Ctx → Ctx) : (modCtx s c f).out = s.out := rfl
@[simp] theorem modCtx_fresh (s : State) (c : Nat) (f : Ctx → Ctx) : (modCtx s c f).fresh = s.fresh := rfl
@[simp] theorem modCtx_nextId (s : State) (c : Nat) (f : Ctx → Ctx) : (modCtx s c f).nextId = s.nextId := rfl
@[simp] theorem modCtx_pending (s : State) (c : Nat) (f : Ctx → Ctx) : (modCtx s c f).pending = s.pending := rfl

@[simp] theorem modChan_glb (s : State) (c : Nat) (f : Chan → Chan) : (modChan s c f).glb = s.glb := rfl
@[simp] theorem modChan_cmd (s : State) (c : Nat) (f : Chan → Chan) : (modChan s c f).cmd = s.cmd := rfl
@[simp] theorem modChan_pwr (s : State) (c : Nat) (f : Chan → Chan) : (modChan s c f).pwr = s.pwr := rfl
@[simp] theorem modChan_pace (s : State) (c : Nat) (f : Chan → Chan) : (modChan s c f).pace = s.pace := rfl
@[simp] theorem modChan_slot (s : State) (c : Nat) (f : Chan → Chan) : (modChan s c f).slot = s.slot := rfl
@[simp] theorem modChan_pwrfail (s : State) (c : Nat) (f : Chan → Chan) : (modChan s c f).pwrfail = s.pwrfail := rfl
@[simp] theorem modChan_slotHold (s : State) (c : Nat) (f : Chan → Chan) : (modChan s c f).slotHold = s.slotHold := rfl
@[simp] theorem modChan_home (s : State) (c : Nat) (f : Chan → Chan) : (modChan s c f).home = s.home := rfl
@[simp] theorem modChan_dkl (s : State) (c : Nat) (f : Chan → Chan) : (modChan s c f).dkl = s.dkl := rfl
@[simp] theorem modChan_seq (s : State) (c : Nat) (f : Chan → Chan) : (modChan s c f).seq = s.seq := rfl
@[simp] theorem modChan_mov (s : State) (c : Nat) (f : Chan → Chan) : (modChan s c f).mov = s.mov := rfl
@[simp] theorem modChan_time (s : State) (c : Nat) (f : Chan → Chan) : (modChan s c f).time = s.time := rfl
@[simp] theorem modChan_ten (s : State) (c : Nat) (f : Chan → Chan) : (modChan s c f).ten = s.ten := rfl
@[simp] theorem modChan_port (s : State) (c : Nat) (f : Chan → Chan) : (modChan s c f).port = s.port := rfl
@[simp] theorem modChan_quire (s : State) (c : Nat) (f : Chan → Chan) : (modChan s c f).quire = s.quire := rfl
@[simp] theorem modChan_core (s : State) (c : Nat) (f : Chan → Chan) : (modChan s c f).core = s.core := rfl
@[simp] theorem modChan_cnt (s : State) (c : Nat) (f : Chan → Chan) : (modChan s c f).cnt = s.cnt := rfl
@[simp] theorem modChan_stk (s : State) (c : Nat) (f : Chan → Chan) : (modChan s c f).stk = s.stk := rfl
@[simp] theorem modChan_tap (s : State) (c : Nat) (f : Chan → Chan) : (modChan s c f).tap = s.tap := rfl
@[simp] theorem modChan_pairLo (s : State) (c : Nat) (f : Chan → Chan) : (modChan s c f).pairLo = s.pairLo := rfl
@[simp] theorem modChan_pairHi (s : State) (c : Nat) (f : Chan → Chan) : (modChan s c f).pairHi = s.pairHi := rfl
@[simp] theorem modChan_out (s : State) (c : Nat) (f : Chan → Chan) : (modChan s c f).out = s.out := rfl
@[simp] theorem modChan_fresh (s : State) (c : Nat) (f : Chan → Chan) : (modChan s c f).fresh = s.fresh := rfl
@[simp] theorem modChan_nextId (s : State) (c : Nat) (f : Chan → Chan) : (modChan s c f).nextId = s.nextId := rfl
@[simp] theorem modChan_pending (s : State) (c : Nat) (f : Chan → Chan) : (modChan s c f).pending = s.pending := rfl

@[simp] theorem modGrp_glb (s : State) (g : Nat) (f : Grp → Grp) : (modGrp s g f).glb = s.glb := rfl
@[simp] theorem modGrp_cmd (s : State) (g : Nat) (f : Grp → Grp) : (modGrp s g f).cmd = s.cmd := rfl
@[simp] theorem modGrp_pwr (s : State) (g : Nat) (f : Grp → Grp) : (modGrp s g f).pwr = s.pwr := rfl
@[simp] theorem modGrp_pace (s : State) (g : Nat) (f : Grp → Grp) : (modGrp s g f).pace = s.pace := rfl
@[simp] theorem modGrp_slot (s : State) (g : Nat) (f : Grp → Grp) : (modGrp s g f).slot = s.slot := rfl
@[simp] theorem modGrp_pwrfail (s : State) (g : Nat) (f : Grp → Grp) : (modGrp s g f).pwrfail = s.pwrfail := rfl
@[simp] theorem modGrp_slotHold (s : State) (g : Nat) (f : Grp → Grp) : (modGrp s g f).slotHold = s.slotHold := rfl
@[simp] theorem modGrp_home (s : State) (g : Nat) (f : Grp → Grp) : (modGrp s g f).home = s.home := rfl
@[simp] theorem modGrp_dkl (s : State) (g : Nat) (f : Grp → Grp) : (modGrp s g f).dkl = s.dkl := rfl
@[simp] theorem modGrp_seq (s : State) (g : Nat) (f : Grp → Grp) : (modGrp s g f).seq = s.seq := rfl
@[simp] theorem modGrp_mov (s : State) (g : Nat) (f : Grp → Grp) : (modGrp s g f).mov = s.mov := rfl
@[simp] theorem modGrp_time (s : State) (g : Nat) (f : Grp → Grp) : (modGrp s g f).time = s.time := rfl
@[simp] theorem modGrp_ten (s : State) (g : Nat) (f : Grp → Grp) : (modGrp s g f).ten = s.ten := rfl
@[simp] theorem modGrp_port (s : State) (g : Nat) (f : Grp → Grp) : (modGrp s g f).port = s.port := rfl
@[simp] theorem modGrp_quire (s : State) (g : Nat) (f : Grp → Grp) : (modGrp s g f).quire = s.quire := rfl
@[simp] theorem modGrp_core (s : State) (g : Nat) (f : Grp → Grp) : (modGrp s g f).core = s.core := rfl
@[simp] theorem modGrp_cnt (s : State) (g : Nat) (f : Grp → Grp) : (modGrp s g f).cnt = s.cnt := rfl
@[simp] theorem modGrp_stk (s : State) (g : Nat) (f : Grp → Grp) : (modGrp s g f).stk = s.stk := rfl
@[simp] theorem modGrp_tap (s : State) (g : Nat) (f : Grp → Grp) : (modGrp s g f).tap = s.tap := rfl
@[simp] theorem modGrp_pairLo (s : State) (g : Nat) (f : Grp → Grp) : (modGrp s g f).pairLo = s.pairLo := rfl
@[simp] theorem modGrp_pairHi (s : State) (g : Nat) (f : Grp → Grp) : (modGrp s g f).pairHi = s.pairHi := rfl
@[simp] theorem modGrp_out (s : State) (g : Nat) (f : Grp → Grp) : (modGrp s g f).out = s.out := rfl
@[simp] theorem modGrp_fresh (s : State) (g : Nat) (f : Grp → Grp) : (modGrp s g f).fresh = s.fresh := rfl
@[simp] theorem modGrp_nextId (s : State) (g : Nat) (f : Grp → Grp) : (modGrp s g f).nextId = s.nextId := rfl
@[simp] theorem modGrp_pending (s : State) (g : Nat) (f : Grp → Grp) : (modGrp s g f).pending = s.pending := rfl

@[simp] theorem modSlot_glb (s : State) (i : Nat) (f : Slot → Slot) : (modSlot s i f).glb = s.glb := rfl
@[simp] theorem modSlot_cmd (s : State) (i : Nat) (f : Slot → Slot) : (modSlot s i f).cmd = s.cmd := rfl
@[simp] theorem modSlot_pwr (s : State) (i : Nat) (f : Slot → Slot) : (modSlot s i f).pwr = s.pwr := rfl
@[simp] theorem modSlot_pace (s : State) (i : Nat) (f : Slot → Slot) : (modSlot s i f).pace = s.pace := rfl
@[simp] theorem modSlot_pwrfail (s : State) (i : Nat) (f : Slot → Slot) : (modSlot s i f).pwrfail = s.pwrfail := rfl
@[simp] theorem modSlot_slotHold (s : State) (i : Nat) (f : Slot → Slot) : (modSlot s i f).slotHold = s.slotHold := rfl
@[simp] theorem modSlot_pool (s : State) (i : Nat) (f : Slot → Slot) : (modSlot s i f).pool = s.pool := rfl
@[simp] theorem modSlot_home (s : State) (i : Nat) (f : Slot → Slot) : (modSlot s i f).home = s.home := rfl
@[simp] theorem modSlot_dkl (s : State) (i : Nat) (f : Slot → Slot) : (modSlot s i f).dkl = s.dkl := rfl
@[simp] theorem modSlot_seq (s : State) (i : Nat) (f : Slot → Slot) : (modSlot s i f).seq = s.seq := rfl
@[simp] theorem modSlot_mov (s : State) (i : Nat) (f : Slot → Slot) : (modSlot s i f).mov = s.mov := rfl
@[simp] theorem modSlot_time (s : State) (i : Nat) (f : Slot → Slot) : (modSlot s i f).time = s.time := rfl
@[simp] theorem modSlot_ten (s : State) (i : Nat) (f : Slot → Slot) : (modSlot s i f).ten = s.ten := rfl
@[simp] theorem modSlot_port (s : State) (i : Nat) (f : Slot → Slot) : (modSlot s i f).port = s.port := rfl
@[simp] theorem modSlot_quire (s : State) (i : Nat) (f : Slot → Slot) : (modSlot s i f).quire = s.quire := rfl
@[simp] theorem modSlot_core (s : State) (i : Nat) (f : Slot → Slot) : (modSlot s i f).core = s.core := rfl
@[simp] theorem modSlot_cnt (s : State) (i : Nat) (f : Slot → Slot) : (modSlot s i f).cnt = s.cnt := rfl
@[simp] theorem modSlot_stk (s : State) (i : Nat) (f : Slot → Slot) : (modSlot s i f).stk = s.stk := rfl
@[simp] theorem modSlot_tap (s : State) (i : Nat) (f : Slot → Slot) : (modSlot s i f).tap = s.tap := rfl
@[simp] theorem modSlot_pairLo (s : State) (i : Nat) (f : Slot → Slot) : (modSlot s i f).pairLo = s.pairLo := rfl
@[simp] theorem modSlot_pairHi (s : State) (i : Nat) (f : Slot → Slot) : (modSlot s i f).pairHi = s.pairHi := rfl
@[simp] theorem modSlot_out (s : State) (i : Nat) (f : Slot → Slot) : (modSlot s i f).out = s.out := rfl
@[simp] theorem modSlot_fresh (s : State) (i : Nat) (f : Slot → Slot) : (modSlot s i f).fresh = s.fresh := rfl
@[simp] theorem modSlot_nextId (s : State) (i : Nat) (f : Slot → Slot) : (modSlot s i f).nextId = s.nextId := rfl
@[simp] theorem modSlot_pending (s : State) (i : Nat) (f : Slot → Slot) : (modSlot s i f).pending = s.pending := rfl

@[simp] theorem modMov_glb (s : State) (ch : Nat) (f : Mover → Mover) : (modMov s ch f).glb = s.glb := rfl
@[simp] theorem modMov_cmd (s : State) (ch : Nat) (f : Mover → Mover) : (modMov s ch f).cmd = s.cmd := rfl
@[simp] theorem modMov_pwr (s : State) (ch : Nat) (f : Mover → Mover) : (modMov s ch f).pwr = s.pwr := rfl
@[simp] theorem modMov_pace (s : State) (ch : Nat) (f : Mover → Mover) : (modMov s ch f).pace = s.pace := rfl
@[simp] theorem modMov_slot (s : State) (ch : Nat) (f : Mover → Mover) : (modMov s ch f).slot = s.slot := rfl
@[simp] theorem modMov_pwrfail (s : State) (ch : Nat) (f : Mover → Mover) : (modMov s ch f).pwrfail = s.pwrfail := rfl
@[simp] theorem modMov_slotHold (s : State) (ch : Nat) (f : Mover → Mover) : (modMov s ch f).slotHold = s.slotHold := rfl
@[simp] theorem modMov_pool (s : State) (ch : Nat) (f : Mover → Mover) : (modMov s ch f).pool = s.pool := rfl
@[simp] theorem modMov_home (s : State) (ch : Nat) (f : Mover → Mover) : (modMov s ch f).home = s.home := rfl
@[simp] theorem modMov_dkl (s : State) (ch : Nat) (f : Mover → Mover) : (modMov s ch f).dkl = s.dkl := rfl
@[simp] theorem modMov_seq (s : State) (ch : Nat) (f : Mover → Mover) : (modMov s ch f).seq = s.seq := rfl
@[simp] theorem modMov_time (s : State) (ch : Nat) (f : Mover → Mover) : (modMov s ch f).time = s.time := rfl
@[simp] theorem modMov_ten (s : State) (ch : Nat) (f : Mover → Mover) : (modMov s ch f).ten = s.ten := rfl
@[simp] theorem modMov_port (s : State) (ch : Nat) (f : Mover → Mover) : (modMov s ch f).port = s.port := rfl
@[simp] theorem modMov_quire (s : State) (ch : Nat) (f : Mover → Mover) : (modMov s ch f).quire = s.quire := rfl
@[simp] theorem modMov_core (s : State) (ch : Nat) (f : Mover → Mover) : (modMov s ch f).core = s.core := rfl
@[simp] theorem modMov_cnt (s : State) (ch : Nat) (f : Mover → Mover) : (modMov s ch f).cnt = s.cnt := rfl
@[simp] theorem modMov_stk (s : State) (ch : Nat) (f : Mover → Mover) : (modMov s ch f).stk = s.stk := rfl
@[simp] theorem modMov_tap (s : State) (ch : Nat) (f : Mover → Mover) : (modMov s ch f).tap = s.tap := rfl
@[simp] theorem modMov_pairLo (s : State) (ch : Nat) (f : Mover → Mover) : (modMov s ch f).pairLo = s.pairLo := rfl
@[simp] theorem modMov_pairHi (s : State) (ch : Nat) (f : Mover → Mover) : (modMov s ch f).pairHi = s.pairHi := rfl
@[simp] theorem modMov_out (s : State) (ch : Nat) (f : Mover → Mover) : (modMov s ch f).out = s.out := rfl
@[simp] theorem modMov_fresh (s : State) (ch : Nat) (f : Mover → Mover) : (modMov s ch f).fresh = s.fresh := rfl
@[simp] theorem modMov_nextId (s : State) (ch : Nat) (f : Mover → Mover) : (modMov s ch f).nextId = s.nextId := rfl
@[simp] theorem modMov_pending (s : State) (ch : Nat) (f : Mover → Mover) : (modMov s ch f).pending = s.pending := rfl

@[simp] theorem modRef_glb (s : State) (r : Nat) (f : FRef → FRef) : (modRef s r f).glb = s.glb := rfl
@[simp] theorem modRef_cmd (s : State) (r : Nat) (f : FRef → FRef) : (modRef s r f).cmd = s.cmd := rfl
@[simp] theorem modRef_pwr (s : State) (r : Nat) (f : FRef → FRef) : (modRef s r f).pwr = s.pwr := rfl
@[simp] theorem modRef_pace (s : State) (r : Nat) (f : FRef → FRef) : (modRef s r f).pace = s.pace := rfl
@[simp] theorem modRef_slot (s : State) (r : Nat) (f : FRef → FRef) : (modRef s r f).slot = s.slot := rfl
@[simp] theorem modRef_pwrfail (s : State) (r : Nat) (f : FRef → FRef) : (modRef s r f).pwrfail = s.pwrfail := rfl
@[simp] theorem modRef_slotHold (s : State) (r : Nat) (f : FRef → FRef) : (modRef s r f).slotHold = s.slotHold := rfl
@[simp] theorem modRef_pool (s : State) (r : Nat) (f : FRef → FRef) : (modRef s r f).pool = s.pool := rfl
@[simp] theorem modRef_home (s : State) (r : Nat) (f : FRef → FRef) : (modRef s r f).home = s.home := rfl
@[simp] theorem modRef_dkl (s : State) (r : Nat) (f : FRef → FRef) : (modRef s r f).dkl = s.dkl := rfl
@[simp] theorem modRef_seq (s : State) (r : Nat) (f : FRef → FRef) : (modRef s r f).seq = s.seq := rfl
@[simp] theorem modRef_mov (s : State) (r : Nat) (f : FRef → FRef) : (modRef s r f).mov = s.mov := rfl
@[simp] theorem modRef_ten (s : State) (r : Nat) (f : FRef → FRef) : (modRef s r f).ten = s.ten := rfl
@[simp] theorem modRef_port (s : State) (r : Nat) (f : FRef → FRef) : (modRef s r f).port = s.port := rfl
@[simp] theorem modRef_quire (s : State) (r : Nat) (f : FRef → FRef) : (modRef s r f).quire = s.quire := rfl
@[simp] theorem modRef_core (s : State) (r : Nat) (f : FRef → FRef) : (modRef s r f).core = s.core := rfl
@[simp] theorem modRef_cnt (s : State) (r : Nat) (f : FRef → FRef) : (modRef s r f).cnt = s.cnt := rfl
@[simp] theorem modRef_stk (s : State) (r : Nat) (f : FRef → FRef) : (modRef s r f).stk = s.stk := rfl
@[simp] theorem modRef_tap (s : State) (r : Nat) (f : FRef → FRef) : (modRef s r f).tap = s.tap := rfl
@[simp] theorem modRef_pairLo (s : State) (r : Nat) (f : FRef → FRef) : (modRef s r f).pairLo = s.pairLo := rfl
@[simp] theorem modRef_pairHi (s : State) (r : Nat) (f : FRef → FRef) : (modRef s r f).pairHi = s.pairHi := rfl
@[simp] theorem modRef_out (s : State) (r : Nat) (f : FRef → FRef) : (modRef s r f).out = s.out := rfl
@[simp] theorem modRef_fresh (s : State) (r : Nat) (f : FRef → FRef) : (modRef s r f).fresh = s.fresh := rfl
@[simp] theorem modRef_nextId (s : State) (r : Nat) (f : FRef → FRef) : (modRef s r f).nextId = s.nextId := rfl
@[simp] theorem modRef_pending (s : State) (r : Nat) (f : FRef → FRef) : (modRef s r f).pending = s.pending := rfl

@[simp] theorem modOut_glb (s : State) (o : Nat) (f : FOut → FOut) : (modOut s o f).glb = s.glb := rfl
@[simp] theorem modOut_cmd (s : State) (o : Nat) (f : FOut → FOut) : (modOut s o f).cmd = s.cmd := rfl
@[simp] theorem modOut_pwr (s : State) (o : Nat) (f : FOut → FOut) : (modOut s o f).pwr = s.pwr := rfl
@[simp] theorem modOut_pace (s : State) (o : Nat) (f : FOut → FOut) : (modOut s o f).pace = s.pace := rfl
@[simp] theorem modOut_slot (s : State) (o : Nat) (f : FOut → FOut) : (modOut s o f).slot = s.slot := rfl
@[simp] theorem modOut_pwrfail (s : State) (o : Nat) (f : FOut → FOut) : (modOut s o f).pwrfail = s.pwrfail := rfl
@[simp] theorem modOut_slotHold (s : State) (o : Nat) (f : FOut → FOut) : (modOut s o f).slotHold = s.slotHold := rfl
@[simp] theorem modOut_pool (s : State) (o : Nat) (f : FOut → FOut) : (modOut s o f).pool = s.pool := rfl
@[simp] theorem modOut_home (s : State) (o : Nat) (f : FOut → FOut) : (modOut s o f).home = s.home := rfl
@[simp] theorem modOut_dkl (s : State) (o : Nat) (f : FOut → FOut) : (modOut s o f).dkl = s.dkl := rfl
@[simp] theorem modOut_seq (s : State) (o : Nat) (f : FOut → FOut) : (modOut s o f).seq = s.seq := rfl
@[simp] theorem modOut_mov (s : State) (o : Nat) (f : FOut → FOut) : (modOut s o f).mov = s.mov := rfl
@[simp] theorem modOut_ten (s : State) (o : Nat) (f : FOut → FOut) : (modOut s o f).ten = s.ten := rfl
@[simp] theorem modOut_port (s : State) (o : Nat) (f : FOut → FOut) : (modOut s o f).port = s.port := rfl
@[simp] theorem modOut_quire (s : State) (o : Nat) (f : FOut → FOut) : (modOut s o f).quire = s.quire := rfl
@[simp] theorem modOut_core (s : State) (o : Nat) (f : FOut → FOut) : (modOut s o f).core = s.core := rfl
@[simp] theorem modOut_cnt (s : State) (o : Nat) (f : FOut → FOut) : (modOut s o f).cnt = s.cnt := rfl
@[simp] theorem modOut_stk (s : State) (o : Nat) (f : FOut → FOut) : (modOut s o f).stk = s.stk := rfl
@[simp] theorem modOut_tap (s : State) (o : Nat) (f : FOut → FOut) : (modOut s o f).tap = s.tap := rfl
@[simp] theorem modOut_pairLo (s : State) (o : Nat) (f : FOut → FOut) : (modOut s o f).pairLo = s.pairLo := rfl
@[simp] theorem modOut_pairHi (s : State) (o : Nat) (f : FOut → FOut) : (modOut s o f).pairHi = s.pairHi := rfl
@[simp] theorem modOut_out (s : State) (o : Nat) (f : FOut → FOut) : (modOut s o f).out = s.out := rfl
@[simp] theorem modOut_fresh (s : State) (o : Nat) (f : FOut → FOut) : (modOut s o f).fresh = s.fresh := rfl
@[simp] theorem modOut_nextId (s : State) (o : Nat) (f : FOut → FOut) : (modOut s o f).nextId = s.nextId := rfl
@[simp] theorem modOut_pending (s : State) (o : Nat) (f : FOut → FOut) : (modOut s o f).pending = s.pending := rfl

@[simp] theorem modTake_glb (s : State) (i : Nat) (f : TakeSet → TakeSet) : (modTake s i f).glb = s.glb := rfl
@[simp] theorem modTake_cmd (s : State) (i : Nat) (f : TakeSet → TakeSet) : (modTake s i f).cmd = s.cmd := rfl
@[simp] theorem modTake_pwr (s : State) (i : Nat) (f : TakeSet → TakeSet) : (modTake s i f).pwr = s.pwr := rfl
@[simp] theorem modTake_pace (s : State) (i : Nat) (f : TakeSet → TakeSet) : (modTake s i f).pace = s.pace := rfl
@[simp] theorem modTake_slot (s : State) (i : Nat) (f : TakeSet → TakeSet) : (modTake s i f).slot = s.slot := rfl
@[simp] theorem modTake_pwrfail (s : State) (i : Nat) (f : TakeSet → TakeSet) : (modTake s i f).pwrfail = s.pwrfail := rfl
@[simp] theorem modTake_slotHold (s : State) (i : Nat) (f : TakeSet → TakeSet) : (modTake s i f).slotHold = s.slotHold := rfl
@[simp] theorem modTake_pool (s : State) (i : Nat) (f : TakeSet → TakeSet) : (modTake s i f).pool = s.pool := rfl
@[simp] theorem modTake_home (s : State) (i : Nat) (f : TakeSet → TakeSet) : (modTake s i f).home = s.home := rfl
@[simp] theorem modTake_dkl (s : State) (i : Nat) (f : TakeSet → TakeSet) : (modTake s i f).dkl = s.dkl := rfl
@[simp] theorem modTake_seq (s : State) (i : Nat) (f : TakeSet → TakeSet) : (modTake s i f).seq = s.seq := rfl
@[simp] theorem modTake_mov (s : State) (i : Nat) (f : TakeSet → TakeSet) : (modTake s i f).mov = s.mov := rfl
@[simp] theorem modTake_ten (s : State) (i : Nat) (f : TakeSet → TakeSet) : (modTake s i f).ten = s.ten := rfl
@[simp] theorem modTake_port (s : State) (i : Nat) (f : TakeSet → TakeSet) : (modTake s i f).port = s.port := rfl
@[simp] theorem modTake_quire (s : State) (i : Nat) (f : TakeSet → TakeSet) : (modTake s i f).quire = s.quire := rfl
@[simp] theorem modTake_core (s : State) (i : Nat) (f : TakeSet → TakeSet) : (modTake s i f).core = s.core := rfl
@[simp] theorem modTake_cnt (s : State) (i : Nat) (f : TakeSet → TakeSet) : (modTake s i f).cnt = s.cnt := rfl
@[simp] theorem modTake_stk (s : State) (i : Nat) (f : TakeSet → TakeSet) : (modTake s i f).stk = s.stk := rfl
@[simp] theorem modTake_tap (s : State) (i : Nat) (f : TakeSet → TakeSet) : (modTake s i f).tap = s.tap := rfl
@[simp] theorem modTake_pairLo (s : State) (i : Nat) (f : TakeSet → TakeSet) : (modTake s i f).pairLo = s.pairLo := rfl
@[simp] theorem modTake_pairHi (s : State) (i : Nat) (f : TakeSet → TakeSet) : (modTake s i f).pairHi = s.pairHi := rfl
@[simp] theorem modTake_out (s : State) (i : Nat) (f : TakeSet → TakeSet) : (modTake s i f).out = s.out := rfl
@[simp] theorem modTake_fresh (s : State) (i : Nat) (f : TakeSet → TakeSet) : (modTake s i f).fresh = s.fresh := rfl
@[simp] theorem modTake_nextId (s : State) (i : Nat) (f : TakeSet → TakeSet) : (modTake s i f).nextId = s.nextId := rfl
@[simp] theorem modTake_pending (s : State) (i : Nat) (f : TakeSet → TakeSet) : (modTake s i f).pending = s.pending := rfl

@[simp] theorem modQ_glb (s : State) (o n : Nat) (f : OutQ → OutQ) : (modQ s o n f).glb = s.glb := rfl
@[simp] theorem modQ_cmd (s : State) (o n : Nat) (f : OutQ → OutQ) : (modQ s o n f).cmd = s.cmd := rfl
@[simp] theorem modQ_pwr (s : State) (o n : Nat) (f : OutQ → OutQ) : (modQ s o n f).pwr = s.pwr := rfl
@[simp] theorem modQ_pace (s : State) (o n : Nat) (f : OutQ → OutQ) : (modQ s o n f).pace = s.pace := rfl
@[simp] theorem modQ_slot (s : State) (o n : Nat) (f : OutQ → OutQ) : (modQ s o n f).slot = s.slot := rfl
@[simp] theorem modQ_pwrfail (s : State) (o n : Nat) (f : OutQ → OutQ) : (modQ s o n f).pwrfail = s.pwrfail := rfl
@[simp] theorem modQ_slotHold (s : State) (o n : Nat) (f : OutQ → OutQ) : (modQ s o n f).slotHold = s.slotHold := rfl
@[simp] theorem modQ_pool (s : State) (o n : Nat) (f : OutQ → OutQ) : (modQ s o n f).pool = s.pool := rfl
@[simp] theorem modQ_home (s : State) (o n : Nat) (f : OutQ → OutQ) : (modQ s o n f).home = s.home := rfl
@[simp] theorem modQ_dkl (s : State) (o n : Nat) (f : OutQ → OutQ) : (modQ s o n f).dkl = s.dkl := rfl
@[simp] theorem modQ_seq (s : State) (o n : Nat) (f : OutQ → OutQ) : (modQ s o n f).seq = s.seq := rfl
@[simp] theorem modQ_mov (s : State) (o n : Nat) (f : OutQ → OutQ) : (modQ s o n f).mov = s.mov := rfl
@[simp] theorem modQ_time (s : State) (o n : Nat) (f : OutQ → OutQ) : (modQ s o n f).time = s.time := rfl
@[simp] theorem modQ_ten (s : State) (o n : Nat) (f : OutQ → OutQ) : (modQ s o n f).ten = s.ten := rfl
@[simp] theorem modQ_port (s : State) (o n : Nat) (f : OutQ → OutQ) : (modQ s o n f).port = s.port := rfl
@[simp] theorem modQ_quire (s : State) (o n : Nat) (f : OutQ → OutQ) : (modQ s o n f).quire = s.quire := rfl
@[simp] theorem modQ_cnt (s : State) (o n : Nat) (f : OutQ → OutQ) : (modQ s o n f).cnt = s.cnt := rfl
@[simp] theorem modQ_stk (s : State) (o n : Nat) (f : OutQ → OutQ) : (modQ s o n f).stk = s.stk := rfl
@[simp] theorem modQ_tap (s : State) (o n : Nat) (f : OutQ → OutQ) : (modQ s o n f).tap = s.tap := rfl
@[simp] theorem modQ_pairLo (s : State) (o n : Nat) (f : OutQ → OutQ) : (modQ s o n f).pairLo = s.pairLo := rfl
@[simp] theorem modQ_pairHi (s : State) (o n : Nat) (f : OutQ → OutQ) : (modQ s o n f).pairHi = s.pairHi := rfl
@[simp] theorem modQ_out (s : State) (o n : Nat) (f : OutQ → OutQ) : (modQ s o n f).out = s.out := rfl
@[simp] theorem modQ_fresh (s : State) (o n : Nat) (f : OutQ → OutQ) : (modQ s o n f).fresh = s.fresh := rfl
@[simp] theorem modQ_nextId (s : State) (o n : Nat) (f : OutQ → OutQ) : (modQ s o n f).nextId = s.nextId := rfl
@[simp] theorem modQ_pending (s : State) (o n : Nat) (f : OutQ → OutQ) : (modQ s o n f).pending = s.pending := rfl

@[simp] theorem modOutP_glb (s : State) (o : Nat) (f : OutP → OutP) : (modOutP s o f).glb = s.glb := rfl
@[simp] theorem modOutP_cmd (s : State) (o : Nat) (f : OutP → OutP) : (modOutP s o f).cmd = s.cmd := rfl
@[simp] theorem modOutP_pwr (s : State) (o : Nat) (f : OutP → OutP) : (modOutP s o f).pwr = s.pwr := rfl
@[simp] theorem modOutP_pace (s : State) (o : Nat) (f : OutP → OutP) : (modOutP s o f).pace = s.pace := rfl
@[simp] theorem modOutP_slot (s : State) (o : Nat) (f : OutP → OutP) : (modOutP s o f).slot = s.slot := rfl
@[simp] theorem modOutP_pwrfail (s : State) (o : Nat) (f : OutP → OutP) : (modOutP s o f).pwrfail = s.pwrfail := rfl
@[simp] theorem modOutP_slotHold (s : State) (o : Nat) (f : OutP → OutP) : (modOutP s o f).slotHold = s.slotHold := rfl
@[simp] theorem modOutP_pool (s : State) (o : Nat) (f : OutP → OutP) : (modOutP s o f).pool = s.pool := rfl
@[simp] theorem modOutP_home (s : State) (o : Nat) (f : OutP → OutP) : (modOutP s o f).home = s.home := rfl
@[simp] theorem modOutP_dkl (s : State) (o : Nat) (f : OutP → OutP) : (modOutP s o f).dkl = s.dkl := rfl
@[simp] theorem modOutP_seq (s : State) (o : Nat) (f : OutP → OutP) : (modOutP s o f).seq = s.seq := rfl
@[simp] theorem modOutP_mov (s : State) (o : Nat) (f : OutP → OutP) : (modOutP s o f).mov = s.mov := rfl
@[simp] theorem modOutP_time (s : State) (o : Nat) (f : OutP → OutP) : (modOutP s o f).time = s.time := rfl
@[simp] theorem modOutP_ten (s : State) (o : Nat) (f : OutP → OutP) : (modOutP s o f).ten = s.ten := rfl
@[simp] theorem modOutP_port (s : State) (o : Nat) (f : OutP → OutP) : (modOutP s o f).port = s.port := rfl
@[simp] theorem modOutP_quire (s : State) (o : Nat) (f : OutP → OutP) : (modOutP s o f).quire = s.quire := rfl
@[simp] theorem modOutP_cnt (s : State) (o : Nat) (f : OutP → OutP) : (modOutP s o f).cnt = s.cnt := rfl
@[simp] theorem modOutP_stk (s : State) (o : Nat) (f : OutP → OutP) : (modOutP s o f).stk = s.stk := rfl
@[simp] theorem modOutP_tap (s : State) (o : Nat) (f : OutP → OutP) : (modOutP s o f).tap = s.tap := rfl
@[simp] theorem modOutP_pairLo (s : State) (o : Nat) (f : OutP → OutP) : (modOutP s o f).pairLo = s.pairLo := rfl
@[simp] theorem modOutP_pairHi (s : State) (o : Nat) (f : OutP → OutP) : (modOutP s o f).pairHi = s.pairHi := rfl
@[simp] theorem modOutP_out (s : State) (o : Nat) (f : OutP → OutP) : (modOutP s o f).out = s.out := rfl
@[simp] theorem modOutP_fresh (s : State) (o : Nat) (f : OutP → OutP) : (modOutP s o f).fresh = s.fresh := rfl
@[simp] theorem modOutP_nextId (s : State) (o : Nat) (f : OutP → OutP) : (modOutP s o f).nextId = s.nextId := rfl
@[simp] theorem modOutP_pending (s : State) (o : Nat) (f : OutP → OutP) : (modOutP s o f).pending = s.pending := rfl

@[simp] theorem modEcmp_glb (s : State) (g : Nat) (f : Ecmp → Ecmp) : (modEcmp s g f).glb = s.glb := rfl
@[simp] theorem modEcmp_cmd (s : State) (g : Nat) (f : Ecmp → Ecmp) : (modEcmp s g f).cmd = s.cmd := rfl
@[simp] theorem modEcmp_pwr (s : State) (g : Nat) (f : Ecmp → Ecmp) : (modEcmp s g f).pwr = s.pwr := rfl
@[simp] theorem modEcmp_pace (s : State) (g : Nat) (f : Ecmp → Ecmp) : (modEcmp s g f).pace = s.pace := rfl
@[simp] theorem modEcmp_slot (s : State) (g : Nat) (f : Ecmp → Ecmp) : (modEcmp s g f).slot = s.slot := rfl
@[simp] theorem modEcmp_pwrfail (s : State) (g : Nat) (f : Ecmp → Ecmp) : (modEcmp s g f).pwrfail = s.pwrfail := rfl
@[simp] theorem modEcmp_slotHold (s : State) (g : Nat) (f : Ecmp → Ecmp) : (modEcmp s g f).slotHold = s.slotHold := rfl
@[simp] theorem modEcmp_pool (s : State) (g : Nat) (f : Ecmp → Ecmp) : (modEcmp s g f).pool = s.pool := rfl
@[simp] theorem modEcmp_home (s : State) (g : Nat) (f : Ecmp → Ecmp) : (modEcmp s g f).home = s.home := rfl
@[simp] theorem modEcmp_dkl (s : State) (g : Nat) (f : Ecmp → Ecmp) : (modEcmp s g f).dkl = s.dkl := rfl
@[simp] theorem modEcmp_seq (s : State) (g : Nat) (f : Ecmp → Ecmp) : (modEcmp s g f).seq = s.seq := rfl
@[simp] theorem modEcmp_mov (s : State) (g : Nat) (f : Ecmp → Ecmp) : (modEcmp s g f).mov = s.mov := rfl
@[simp] theorem modEcmp_time (s : State) (g : Nat) (f : Ecmp → Ecmp) : (modEcmp s g f).time = s.time := rfl
@[simp] theorem modEcmp_ten (s : State) (g : Nat) (f : Ecmp → Ecmp) : (modEcmp s g f).ten = s.ten := rfl
@[simp] theorem modEcmp_port (s : State) (g : Nat) (f : Ecmp → Ecmp) : (modEcmp s g f).port = s.port := rfl
@[simp] theorem modEcmp_quire (s : State) (g : Nat) (f : Ecmp → Ecmp) : (modEcmp s g f).quire = s.quire := rfl
@[simp] theorem modEcmp_cnt (s : State) (g : Nat) (f : Ecmp → Ecmp) : (modEcmp s g f).cnt = s.cnt := rfl
@[simp] theorem modEcmp_stk (s : State) (g : Nat) (f : Ecmp → Ecmp) : (modEcmp s g f).stk = s.stk := rfl
@[simp] theorem modEcmp_tap (s : State) (g : Nat) (f : Ecmp → Ecmp) : (modEcmp s g f).tap = s.tap := rfl
@[simp] theorem modEcmp_pairLo (s : State) (g : Nat) (f : Ecmp → Ecmp) : (modEcmp s g f).pairLo = s.pairLo := rfl
@[simp] theorem modEcmp_pairHi (s : State) (g : Nat) (f : Ecmp → Ecmp) : (modEcmp s g f).pairHi = s.pairHi := rfl
@[simp] theorem modEcmp_out (s : State) (g : Nat) (f : Ecmp → Ecmp) : (modEcmp s g f).out = s.out := rfl
@[simp] theorem modEcmp_fresh (s : State) (g : Nat) (f : Ecmp → Ecmp) : (modEcmp s g f).fresh = s.fresh := rfl
@[simp] theorem modEcmp_nextId (s : State) (g : Nat) (f : Ecmp → Ecmp) : (modEcmp s g f).nextId = s.nextId := rfl
@[simp] theorem modEcmp_pending (s : State) (g : Nat) (f : Ecmp → Ecmp) : (modEcmp s g f).pending = s.pending := rfl

@[simp] theorem modRgrp_glb (s : State) (g : Nat) (f : Rgrp → Rgrp) : (modRgrp s g f).glb = s.glb := rfl
@[simp] theorem modRgrp_cmd (s : State) (g : Nat) (f : Rgrp → Rgrp) : (modRgrp s g f).cmd = s.cmd := rfl
@[simp] theorem modRgrp_pwr (s : State) (g : Nat) (f : Rgrp → Rgrp) : (modRgrp s g f).pwr = s.pwr := rfl
@[simp] theorem modRgrp_pace (s : State) (g : Nat) (f : Rgrp → Rgrp) : (modRgrp s g f).pace = s.pace := rfl
@[simp] theorem modRgrp_slot (s : State) (g : Nat) (f : Rgrp → Rgrp) : (modRgrp s g f).slot = s.slot := rfl
@[simp] theorem modRgrp_pwrfail (s : State) (g : Nat) (f : Rgrp → Rgrp) : (modRgrp s g f).pwrfail = s.pwrfail := rfl
@[simp] theorem modRgrp_slotHold (s : State) (g : Nat) (f : Rgrp → Rgrp) : (modRgrp s g f).slotHold = s.slotHold := rfl
@[simp] theorem modRgrp_pool (s : State) (g : Nat) (f : Rgrp → Rgrp) : (modRgrp s g f).pool = s.pool := rfl
@[simp] theorem modRgrp_home (s : State) (g : Nat) (f : Rgrp → Rgrp) : (modRgrp s g f).home = s.home := rfl
@[simp] theorem modRgrp_dkl (s : State) (g : Nat) (f : Rgrp → Rgrp) : (modRgrp s g f).dkl = s.dkl := rfl
@[simp] theorem modRgrp_seq (s : State) (g : Nat) (f : Rgrp → Rgrp) : (modRgrp s g f).seq = s.seq := rfl
@[simp] theorem modRgrp_mov (s : State) (g : Nat) (f : Rgrp → Rgrp) : (modRgrp s g f).mov = s.mov := rfl
@[simp] theorem modRgrp_time (s : State) (g : Nat) (f : Rgrp → Rgrp) : (modRgrp s g f).time = s.time := rfl
@[simp] theorem modRgrp_ten (s : State) (g : Nat) (f : Rgrp → Rgrp) : (modRgrp s g f).ten = s.ten := rfl
@[simp] theorem modRgrp_port (s : State) (g : Nat) (f : Rgrp → Rgrp) : (modRgrp s g f).port = s.port := rfl
@[simp] theorem modRgrp_quire (s : State) (g : Nat) (f : Rgrp → Rgrp) : (modRgrp s g f).quire = s.quire := rfl
@[simp] theorem modRgrp_cnt (s : State) (g : Nat) (f : Rgrp → Rgrp) : (modRgrp s g f).cnt = s.cnt := rfl
@[simp] theorem modRgrp_stk (s : State) (g : Nat) (f : Rgrp → Rgrp) : (modRgrp s g f).stk = s.stk := rfl
@[simp] theorem modRgrp_tap (s : State) (g : Nat) (f : Rgrp → Rgrp) : (modRgrp s g f).tap = s.tap := rfl
@[simp] theorem modRgrp_pairLo (s : State) (g : Nat) (f : Rgrp → Rgrp) : (modRgrp s g f).pairLo = s.pairLo := rfl
@[simp] theorem modRgrp_pairHi (s : State) (g : Nat) (f : Rgrp → Rgrp) : (modRgrp s g f).pairHi = s.pairHi := rfl
@[simp] theorem modRgrp_out (s : State) (g : Nat) (f : Rgrp → Rgrp) : (modRgrp s g f).out = s.out := rfl
@[simp] theorem modRgrp_fresh (s : State) (g : Nat) (f : Rgrp → Rgrp) : (modRgrp s g f).fresh = s.fresh := rfl
@[simp] theorem modRgrp_nextId (s : State) (g : Nat) (f : Rgrp → Rgrp) : (modRgrp s g f).nextId = s.nextId := rfl
@[simp] theorem modRgrp_pending (s : State) (g : Nat) (f : Rgrp → Rgrp) : (modRgrp s g f).pending = s.pending := rfl

@[simp] theorem modMir_glb (s : State) (i : Nat) (f : Mirror → Mirror) : (modMir s i f).glb = s.glb := rfl
@[simp] theorem modMir_cmd (s : State) (i : Nat) (f : Mirror → Mirror) : (modMir s i f).cmd = s.cmd := rfl
@[simp] theorem modMir_pwr (s : State) (i : Nat) (f : Mirror → Mirror) : (modMir s i f).pwr = s.pwr := rfl
@[simp] theorem modMir_pace (s : State) (i : Nat) (f : Mirror → Mirror) : (modMir s i f).pace = s.pace := rfl
@[simp] theorem modMir_slot (s : State) (i : Nat) (f : Mirror → Mirror) : (modMir s i f).slot = s.slot := rfl
@[simp] theorem modMir_pwrfail (s : State) (i : Nat) (f : Mirror → Mirror) : (modMir s i f).pwrfail = s.pwrfail := rfl
@[simp] theorem modMir_slotHold (s : State) (i : Nat) (f : Mirror → Mirror) : (modMir s i f).slotHold = s.slotHold := rfl
@[simp] theorem modMir_pool (s : State) (i : Nat) (f : Mirror → Mirror) : (modMir s i f).pool = s.pool := rfl
@[simp] theorem modMir_home (s : State) (i : Nat) (f : Mirror → Mirror) : (modMir s i f).home = s.home := rfl
@[simp] theorem modMir_dkl (s : State) (i : Nat) (f : Mirror → Mirror) : (modMir s i f).dkl = s.dkl := rfl
@[simp] theorem modMir_seq (s : State) (i : Nat) (f : Mirror → Mirror) : (modMir s i f).seq = s.seq := rfl
@[simp] theorem modMir_mov (s : State) (i : Nat) (f : Mirror → Mirror) : (modMir s i f).mov = s.mov := rfl
@[simp] theorem modMir_time (s : State) (i : Nat) (f : Mirror → Mirror) : (modMir s i f).time = s.time := rfl
@[simp] theorem modMir_ten (s : State) (i : Nat) (f : Mirror → Mirror) : (modMir s i f).ten = s.ten := rfl
@[simp] theorem modMir_port (s : State) (i : Nat) (f : Mirror → Mirror) : (modMir s i f).port = s.port := rfl
@[simp] theorem modMir_quire (s : State) (i : Nat) (f : Mirror → Mirror) : (modMir s i f).quire = s.quire := rfl
@[simp] theorem modMir_cnt (s : State) (i : Nat) (f : Mirror → Mirror) : (modMir s i f).cnt = s.cnt := rfl
@[simp] theorem modMir_stk (s : State) (i : Nat) (f : Mirror → Mirror) : (modMir s i f).stk = s.stk := rfl
@[simp] theorem modMir_tap (s : State) (i : Nat) (f : Mirror → Mirror) : (modMir s i f).tap = s.tap := rfl
@[simp] theorem modMir_pairLo (s : State) (i : Nat) (f : Mirror → Mirror) : (modMir s i f).pairLo = s.pairLo := rfl
@[simp] theorem modMir_pairHi (s : State) (i : Nat) (f : Mirror → Mirror) : (modMir s i f).pairHi = s.pairHi := rfl
@[simp] theorem modMir_out (s : State) (i : Nat) (f : Mirror → Mirror) : (modMir s i f).out = s.out := rfl
@[simp] theorem modMir_fresh (s : State) (i : Nat) (f : Mirror → Mirror) : (modMir s i f).fresh = s.fresh := rfl
@[simp] theorem modMir_nextId (s : State) (i : Nat) (f : Mirror → Mirror) : (modMir s i f).nextId = s.nextId := rfl
@[simp] theorem modMir_pending (s : State) (i : Nat) (f : Mirror → Mirror) : (modMir s i f).pending = s.pending := rfl

@[simp] theorem modCad_glb (s : State) (i : Nat) (f : Cad → Cad) : (modCad s i f).glb = s.glb := rfl
@[simp] theorem modCad_cmd (s : State) (i : Nat) (f : Cad → Cad) : (modCad s i f).cmd = s.cmd := rfl
@[simp] theorem modCad_pwr (s : State) (i : Nat) (f : Cad → Cad) : (modCad s i f).pwr = s.pwr := rfl
@[simp] theorem modCad_pace (s : State) (i : Nat) (f : Cad → Cad) : (modCad s i f).pace = s.pace := rfl
@[simp] theorem modCad_slot (s : State) (i : Nat) (f : Cad → Cad) : (modCad s i f).slot = s.slot := rfl
@[simp] theorem modCad_pwrfail (s : State) (i : Nat) (f : Cad → Cad) : (modCad s i f).pwrfail = s.pwrfail := rfl
@[simp] theorem modCad_slotHold (s : State) (i : Nat) (f : Cad → Cad) : (modCad s i f).slotHold = s.slotHold := rfl
@[simp] theorem modCad_pool (s : State) (i : Nat) (f : Cad → Cad) : (modCad s i f).pool = s.pool := rfl
@[simp] theorem modCad_home (s : State) (i : Nat) (f : Cad → Cad) : (modCad s i f).home = s.home := rfl
@[simp] theorem modCad_dkl (s : State) (i : Nat) (f : Cad → Cad) : (modCad s i f).dkl = s.dkl := rfl
@[simp] theorem modCad_seq (s : State) (i : Nat) (f : Cad → Cad) : (modCad s i f).seq = s.seq := rfl
@[simp] theorem modCad_mov (s : State) (i : Nat) (f : Cad → Cad) : (modCad s i f).mov = s.mov := rfl
@[simp] theorem modCad_time (s : State) (i : Nat) (f : Cad → Cad) : (modCad s i f).time = s.time := rfl
@[simp] theorem modCad_ten (s : State) (i : Nat) (f : Cad → Cad) : (modCad s i f).ten = s.ten := rfl
@[simp] theorem modCad_port (s : State) (i : Nat) (f : Cad → Cad) : (modCad s i f).port = s.port := rfl
@[simp] theorem modCad_quire (s : State) (i : Nat) (f : Cad → Cad) : (modCad s i f).quire = s.quire := rfl
@[simp] theorem modCad_cnt (s : State) (i : Nat) (f : Cad → Cad) : (modCad s i f).cnt = s.cnt := rfl
@[simp] theorem modCad_stk (s : State) (i : Nat) (f : Cad → Cad) : (modCad s i f).stk = s.stk := rfl
@[simp] theorem modCad_tap (s : State) (i : Nat) (f : Cad → Cad) : (modCad s i f).tap = s.tap := rfl
@[simp] theorem modCad_pairLo (s : State) (i : Nat) (f : Cad → Cad) : (modCad s i f).pairLo = s.pairLo := rfl
@[simp] theorem modCad_pairHi (s : State) (i : Nat) (f : Cad → Cad) : (modCad s i f).pairHi = s.pairHi := rfl
@[simp] theorem modCad_out (s : State) (i : Nat) (f : Cad → Cad) : (modCad s i f).out = s.out := rfl
@[simp] theorem modCad_fresh (s : State) (i : Nat) (f : Cad → Cad) : (modCad s i f).fresh = s.fresh := rfl
@[simp] theorem modCad_nextId (s : State) (i : Nat) (f : Cad → Cad) : (modCad s i f).nextId = s.nextId := rfl
@[simp] theorem modCad_pending (s : State) (i : Nat) (f : Cad → Cad) : (modCad s i f).pending = s.pending := rfl

@[simp] theorem modMeter_glb (s : State) (q m : Nat) (f : Meter → Meter) : (modMeter s q m f).glb = s.glb := rfl
@[simp] theorem modMeter_cmd (s : State) (q m : Nat) (f : Meter → Meter) : (modMeter s q m f).cmd = s.cmd := rfl
@[simp] theorem modMeter_pwr (s : State) (q m : Nat) (f : Meter → Meter) : (modMeter s q m f).pwr = s.pwr := rfl
@[simp] theorem modMeter_pace (s : State) (q m : Nat) (f : Meter → Meter) : (modMeter s q m f).pace = s.pace := rfl
@[simp] theorem modMeter_slot (s : State) (q m : Nat) (f : Meter → Meter) : (modMeter s q m f).slot = s.slot := rfl
@[simp] theorem modMeter_pwrfail (s : State) (q m : Nat) (f : Meter → Meter) : (modMeter s q m f).pwrfail = s.pwrfail := rfl
@[simp] theorem modMeter_slotHold (s : State) (q m : Nat) (f : Meter → Meter) : (modMeter s q m f).slotHold = s.slotHold := rfl
@[simp] theorem modMeter_pool (s : State) (q m : Nat) (f : Meter → Meter) : (modMeter s q m f).pool = s.pool := rfl
@[simp] theorem modMeter_home (s : State) (q m : Nat) (f : Meter → Meter) : (modMeter s q m f).home = s.home := rfl
@[simp] theorem modMeter_dkl (s : State) (q m : Nat) (f : Meter → Meter) : (modMeter s q m f).dkl = s.dkl := rfl
@[simp] theorem modMeter_seq (s : State) (q m : Nat) (f : Meter → Meter) : (modMeter s q m f).seq = s.seq := rfl
@[simp] theorem modMeter_mov (s : State) (q m : Nat) (f : Meter → Meter) : (modMeter s q m f).mov = s.mov := rfl
@[simp] theorem modMeter_time (s : State) (q m : Nat) (f : Meter → Meter) : (modMeter s q m f).time = s.time := rfl
@[simp] theorem modMeter_ten (s : State) (q m : Nat) (f : Meter → Meter) : (modMeter s q m f).ten = s.ten := rfl
@[simp] theorem modMeter_port (s : State) (q m : Nat) (f : Meter → Meter) : (modMeter s q m f).port = s.port := rfl
@[simp] theorem modMeter_core (s : State) (q m : Nat) (f : Meter → Meter) : (modMeter s q m f).core = s.core := rfl
@[simp] theorem modMeter_cnt (s : State) (q m : Nat) (f : Meter → Meter) : (modMeter s q m f).cnt = s.cnt := rfl
@[simp] theorem modMeter_stk (s : State) (q m : Nat) (f : Meter → Meter) : (modMeter s q m f).stk = s.stk := rfl
@[simp] theorem modMeter_tap (s : State) (q m : Nat) (f : Meter → Meter) : (modMeter s q m f).tap = s.tap := rfl
@[simp] theorem modMeter_pairLo (s : State) (q m : Nat) (f : Meter → Meter) : (modMeter s q m f).pairLo = s.pairLo := rfl
@[simp] theorem modMeter_pairHi (s : State) (q m : Nat) (f : Meter → Meter) : (modMeter s q m f).pairHi = s.pairHi := rfl
@[simp] theorem modMeter_out (s : State) (q m : Nat) (f : Meter → Meter) : (modMeter s q m f).out = s.out := rfl
@[simp] theorem modMeter_fresh (s : State) (q m : Nat) (f : Meter → Meter) : (modMeter s q m f).fresh = s.fresh := rfl
@[simp] theorem modMeter_nextId (s : State) (q m : Nat) (f : Meter → Meter) : (modMeter s q m f).nextId = s.nextId := rfl
@[simp] theorem modMeter_pending (s : State) (q m : Nat) (f : Meter → Meter) : (modMeter s q m f).pending = s.pending := rfl

@[simp] theorem emit_glb (s : State) (e : Emit) : (emit s e).glb = s.glb := rfl
@[simp] theorem emit_cmd (s : State) (e : Emit) : (emit s e).cmd = s.cmd := rfl
@[simp] theorem emit_pwr (s : State) (e : Emit) : (emit s e).pwr = s.pwr := rfl
@[simp] theorem emit_pace (s : State) (e : Emit) : (emit s e).pace = s.pace := rfl
@[simp] theorem emit_slot (s : State) (e : Emit) : (emit s e).slot = s.slot := rfl
@[simp] theorem emit_pwrfail (s : State) (e : Emit) : (emit s e).pwrfail = s.pwrfail := rfl
@[simp] theorem emit_slotHold (s : State) (e : Emit) : (emit s e).slotHold = s.slotHold := rfl
@[simp] theorem emit_pool (s : State) (e : Emit) : (emit s e).pool = s.pool := rfl
@[simp] theorem emit_home (s : State) (e : Emit) : (emit s e).home = s.home := rfl
@[simp] theorem emit_dkl (s : State) (e : Emit) : (emit s e).dkl = s.dkl := rfl
@[simp] theorem emit_seq (s : State) (e : Emit) : (emit s e).seq = s.seq := rfl
@[simp] theorem emit_mov (s : State) (e : Emit) : (emit s e).mov = s.mov := rfl
@[simp] theorem emit_time (s : State) (e : Emit) : (emit s e).time = s.time := rfl
@[simp] theorem emit_ten (s : State) (e : Emit) : (emit s e).ten = s.ten := rfl
@[simp] theorem emit_port (s : State) (e : Emit) : (emit s e).port = s.port := rfl
@[simp] theorem emit_quire (s : State) (e : Emit) : (emit s e).quire = s.quire := rfl
@[simp] theorem emit_core (s : State) (e : Emit) : (emit s e).core = s.core := rfl
@[simp] theorem emit_cnt (s : State) (e : Emit) : (emit s e).cnt = s.cnt := rfl
@[simp] theorem emit_stk (s : State) (e : Emit) : (emit s e).stk = s.stk := rfl
@[simp] theorem emit_tap (s : State) (e : Emit) : (emit s e).tap = s.tap := rfl
@[simp] theorem emit_pairLo (s : State) (e : Emit) : (emit s e).pairLo = s.pairLo := rfl
@[simp] theorem emit_pairHi (s : State) (e : Emit) : (emit s e).pairHi = s.pairHi := rfl
@[simp] theorem emit_fresh (s : State) (e : Emit) : (emit s e).fresh = s.fresh := rfl
@[simp] theorem emit_nextId (s : State) (e : Emit) : (emit s e).nextId = s.nextId := rfl
@[simp] theorem emit_pending (s : State) (e : Emit) : (emit s e).pending = s.pending := rfl

@[simp] theorem modLink_glb (s : State) (l : Nat) (f : CmdLink → CmdLink) : (modLink s l f).glb = s.glb := by
  unfold modLink; split <;> rfl
@[simp] theorem modLink_pwr (s : State) (l : Nat) (f : CmdLink → CmdLink) : (modLink s l f).pwr = s.pwr := by
  unfold modLink; split <;> rfl
@[simp] theorem modLink_pace (s : State) (l : Nat) (f : CmdLink → CmdLink) : (modLink s l f).pace = s.pace := by
  unfold modLink; split <;> rfl
@[simp] theorem modLink_slot (s : State) (l : Nat) (f : CmdLink → CmdLink) : (modLink s l f).slot = s.slot := by
  unfold modLink; split <;> rfl
@[simp] theorem modLink_pwrfail (s : State) (l : Nat) (f : CmdLink → CmdLink) : (modLink s l f).pwrfail = s.pwrfail := by
  unfold modLink; split <;> rfl
@[simp] theorem modLink_slotHold (s : State) (l : Nat) (f : CmdLink → CmdLink) : (modLink s l f).slotHold = s.slotHold := by
  unfold modLink; split <;> rfl
@[simp] theorem modLink_pool (s : State) (l : Nat) (f : CmdLink → CmdLink) : (modLink s l f).pool = s.pool := by
  unfold modLink; split <;> rfl
@[simp] theorem modLink_home (s : State) (l : Nat) (f : CmdLink → CmdLink) : (modLink s l f).home = s.home := by
  unfold modLink; split <;> rfl
@[simp] theorem modLink_dkl (s : State) (l : Nat) (f : CmdLink → CmdLink) : (modLink s l f).dkl = s.dkl := by
  unfold modLink; split <;> rfl
@[simp] theorem modLink_seq (s : State) (l : Nat) (f : CmdLink → CmdLink) : (modLink s l f).seq = s.seq := by
  unfold modLink; split <;> rfl
@[simp] theorem modLink_mov (s : State) (l : Nat) (f : CmdLink → CmdLink) : (modLink s l f).mov = s.mov := by
  unfold modLink; split <;> rfl
@[simp] theorem modLink_time (s : State) (l : Nat) (f : CmdLink → CmdLink) : (modLink s l f).time = s.time := by
  unfold modLink; split <;> rfl
@[simp] theorem modLink_ten (s : State) (l : Nat) (f : CmdLink → CmdLink) : (modLink s l f).ten = s.ten := by
  unfold modLink; split <;> rfl
@[simp] theorem modLink_port (s : State) (l : Nat) (f : CmdLink → CmdLink) : (modLink s l f).port = s.port := by
  unfold modLink; split <;> rfl
@[simp] theorem modLink_quire (s : State) (l : Nat) (f : CmdLink → CmdLink) : (modLink s l f).quire = s.quire := by
  unfold modLink; split <;> rfl
@[simp] theorem modLink_core (s : State) (l : Nat) (f : CmdLink → CmdLink) : (modLink s l f).core = s.core := by
  unfold modLink; split <;> rfl
@[simp] theorem modLink_cnt (s : State) (l : Nat) (f : CmdLink → CmdLink) : (modLink s l f).cnt = s.cnt := by
  unfold modLink; split <;> rfl
@[simp] theorem modLink_stk (s : State) (l : Nat) (f : CmdLink → CmdLink) : (modLink s l f).stk = s.stk := by
  unfold modLink; split <;> rfl
@[simp] theorem modLink_tap (s : State) (l : Nat) (f : CmdLink → CmdLink) : (modLink s l f).tap = s.tap := by
  unfold modLink; split <;> rfl
@[simp] theorem modLink_pairLo (s : State) (l : Nat) (f : CmdLink → CmdLink) : (modLink s l f).pairLo = s.pairLo := by
  unfold modLink; split <;> rfl
@[simp] theorem modLink_pairHi (s : State) (l : Nat) (f : CmdLink → CmdLink) : (modLink s l f).pairHi = s.pairHi := by
  unfold modLink; split <;> rfl
@[simp] theorem modLink_out (s : State) (l : Nat) (f : CmdLink → CmdLink) : (modLink s l f).out = s.out := by
  unfold modLink; split <;> rfl
@[simp] theorem modLink_fresh (s : State) (l : Nat) (f : CmdLink → CmdLink) : (modLink s l f).fresh = s.fresh := by
  unfold modLink; split <;> rfl
@[simp] theorem modLink_nextId (s : State) (l : Nat) (f : CmdLink → CmdLink) : (modLink s l f).nextId = s.nextId := by
  unfold modLink; split <;> rfl
@[simp] theorem modLink_pending (s : State) (l : Nat) (f : CmdLink → CmdLink) : (modLink s l f).pending = s.pending := by
  unfold modLink; split <;> rfl

@[simp] theorem emit_out (s : State) (e : Emit) : (emit s e).out = s.out ++ [e] := rfl

@[simp] theorem getPort_modPort (s : State) (i j : Nat) (f : Port → Port) :
    getPort (modPort s i f) j = if j = i then f (getPort s j) else getPort s j := by
  simp only [getPort, modPort, setPort, tget_tput]
  split
  · next h => rw [h]
  · rfl


@[simp] theorem getQuire_modQuire (s : State) (i j : Nat) (f : Quire → Quire) :
    getQuire (modQuire s i f) j = if j = i then f (getQuire s j) else getQuire s j := by
  simp only [getQuire, modQuire, tget_tput]
  split
  · next h => rw [h]
  · rfl


@[simp] theorem getTen_modTen (s : State) (i j : Nat) (f : Ten → Ten) :
    getTen (modTen s i f) j = if j = i then f (getTen s j) else getTen s j := by
  simp only [getTen, modTen, tget_tput]
  split
  · next h => rw [h]
  · rfl


@[simp] theorem getCtx_modCtx (s : State) (i j : Nat) (f : Ctx → Ctx) :
    getCtx (modCtx s i f) j = if j = i then f (getCtx s j) else getCtx s j := by
  simp only [getCtx, modCtx, setCtx, tget_tput]
  split
  · next h => rw [h]
  · rfl


@[simp] theorem getChan_modChan (s : State) (i j : Nat) (f : Chan → Chan) :
    getChan (modChan s i f) j = if j = i then f (getChan s j) else getChan s j := by
  simp only [getChan, modChan, tget_tput]
  split
  · next h => rw [h]
  · rfl

@[simp] theorem getChan_modGrp (s : State) (i j : Nat) (f : Grp → Grp) : getChan (modGrp s i f) j = getChan s j := rfl

@[simp] theorem getGrp_modGrp (s : State) (i j : Nat) (f : Grp → Grp) :
    getGrp (modGrp s i f) j = if j = i then f (getGrp s j) else getGrp s j := by
  simp only [getGrp, modGrp, tget_tput]
  split
  · next h => rw [h]
  · rfl

@[simp] theorem getGrp_modChan (s : State) (i j : Nat) (f : Chan → Chan) : getGrp (modChan s i f) j = getGrp s j := rfl

@[simp] theorem getSlot_modSlot (s : State) (i j : Nat) (f : Slot → Slot) :
    getSlot (modSlot s i f) j = if j = i then f (getSlot s j) else getSlot s j := by
  simp only [getSlot, modSlot, tget_tput]
  split
  · next h => rw [h]
  · rfl


@[simp] theorem getMov_modMov (s : State) (i j : Nat) (f : Mover → Mover) :
    getMov (modMov s i f) j = if j = i then f (getMov s j) else getMov s j := by
  simp only [getMov, modMov, tget_tput]
  split
  · next h => rw [h]
  · rfl


@[simp] theorem getRef_modRef (s : State) (i j : Nat) (f : FRef → FRef) :
    getRef (modRef s i f) j = if j = i then f (getRef s j) else getRef s j := by
  simp only [getRef, modRef, tget_tput]
  split
  · next h => rw [h]
  · rfl

@[simp] theorem getRef_modOut (s : State) (i j : Nat) (f : FOut → FOut) : getRef (modOut s i f) j = getRef s j := rfl
@[simp] theorem getRef_modTake (s : State) (i j : Nat) (f : TakeSet → TakeSet) : getRef (modTake s i f) j = getRef s j := rfl

@[simp] theorem getOut_modOut (s : State) (i j : Nat) (f : FOut → FOut) :
    getOut (modOut s i f) j = if j = i then f (getOut s j) else getOut s j := by
  simp only [getOut, modOut, tget_tput]
  split
  · next h => rw [h]
  · rfl

@[simp] theorem getOut_modRef (s : State) (i j : Nat) (f : FRef → FRef) : getOut (modRef s i f) j = getOut s j := rfl
@[simp] theorem getOut_modTake (s : State) (i j : Nat) (f : TakeSet → TakeSet) : getOut (modTake s i f) j = getOut s j := rfl

@[simp] theorem getTake_modTake (s : State) (i j : Nat) (f : TakeSet → TakeSet) :
    getTake (modTake s i f) j = if j = i then f (getTake s j) else getTake s j := by
  simp only [getTake, modTake, tget_tput]
  split
  · next h => rw [h]
  · rfl

@[simp] theorem getTake_modRef (s : State) (i j : Nat) (f : FRef → FRef) : getTake (modRef s i f) j = getTake s j := rfl
@[simp] theorem getTake_modOut (s : State) (i j : Nat) (f : FOut → FOut) : getTake (modOut s i f) j = getTake s j := rfl

@[simp] theorem getOutP_modOutP (s : State) (i j : Nat) (f : OutP → OutP) :
    getOutP (modOutP s i f) j = if j = i then f (getOutP s j) else getOutP s j := by
  simp only [getOutP, modOutP, tget_tput]
  split
  · next h => rw [h]
  · rfl

@[simp] theorem getOutP_modEcmp (s : State) (i j : Nat) (f : Ecmp → Ecmp) : getOutP (modEcmp s i f) j = getOutP s j := rfl
@[simp] theorem getOutP_modRgrp (s : State) (i j : Nat) (f : Rgrp → Rgrp) : getOutP (modRgrp s i f) j = getOutP s j := rfl
@[simp] theorem getOutP_modMir (s : State) (i j : Nat) (f : Mirror → Mirror) : getOutP (modMir s i f) j = getOutP s j := rfl
@[simp] theorem getOutP_modCad (s : State) (i j : Nat) (f : Cad → Cad) : getOutP (modCad s i f) j = getOutP s j := rfl
@[simp] theorem getOutP_modQ (s : State) (o n j : Nat) (f : OutQ → OutQ) : getOutP (modQ s o n f) j = getOutP s j := rfl

@[simp] theorem getEcmp_modEcmp (s : State) (i j : Nat) (f : Ecmp → Ecmp) :
    getEcmp (modEcmp s i f) j = if j = i then f (getEcmp s j) else getEcmp s j := by
  simp only [getEcmp, modEcmp, tget_tput]
  split
  · next h => rw [h]
  · rfl

@[simp] theorem getEcmp_modOutP (s : State) (i j : Nat) (f : OutP → OutP) : getEcmp (modOutP s i f) j = getEcmp s j := rfl
@[simp] theorem getEcmp_modRgrp (s : State) (i j : Nat) (f : Rgrp → Rgrp) : getEcmp (modRgrp s i f) j = getEcmp s j := rfl
@[simp] theorem getEcmp_modMir (s : State) (i j : Nat) (f : Mirror → Mirror) : getEcmp (modMir s i f) j = getEcmp s j := rfl
@[simp] theorem getEcmp_modCad (s : State) (i j : Nat) (f : Cad → Cad) : getEcmp (modCad s i f) j = getEcmp s j := rfl
@[simp] theorem getEcmp_modQ (s : State) (o n j : Nat) (f : OutQ → OutQ) : getEcmp (modQ s o n f) j = getEcmp s j := rfl

@[simp] theorem getRgrp_modRgrp (s : State) (i j : Nat) (f : Rgrp → Rgrp) :
    getRgrp (modRgrp s i f) j = if j = i then f (getRgrp s j) else getRgrp s j := by
  simp only [getRgrp, modRgrp, tget_tput]
  split
  · next h => rw [h]
  · rfl

@[simp] theorem getRgrp_modOutP (s : State) (i j : Nat) (f : OutP → OutP) : getRgrp (modOutP s i f) j = getRgrp s j := rfl
@[simp] theorem getRgrp_modEcmp (s : State) (i j : Nat) (f : Ecmp → Ecmp) : getRgrp (modEcmp s i f) j = getRgrp s j := rfl
@[simp] theorem getRgrp_modMir (s : State) (i j : Nat) (f : Mirror → Mirror) : getRgrp (modMir s i f) j = getRgrp s j := rfl
@[simp] theorem getRgrp_modCad (s : State) (i j : Nat) (f : Cad → Cad) : getRgrp (modCad s i f) j = getRgrp s j := rfl
@[simp] theorem getRgrp_modQ (s : State) (o n j : Nat) (f : OutQ → OutQ) : getRgrp (modQ s o n f) j = getRgrp s j := rfl

@[simp] theorem getMir_modMir (s : State) (i j : Nat) (f : Mirror → Mirror) :
    getMir (modMir s i f) j = if j = i then f (getMir s j) else getMir s j := by
  simp only [getMir, modMir, tget_tput]
  split
  · next h => rw [h]
  · rfl

@[simp] theorem getMir_modOutP (s : State) (i j : Nat) (f : OutP → OutP) : getMir (modOutP s i f) j = getMir s j := rfl
@[simp] theorem getMir_modEcmp (s : State) (i j : Nat) (f : Ecmp → Ecmp) : getMir (modEcmp s i f) j = getMir s j := rfl
@[simp] theorem getMir_modRgrp (s : State) (i j : Nat) (f : Rgrp → Rgrp) : getMir (modRgrp s i f) j = getMir s j := rfl
@[simp] theorem getMir_modCad (s : State) (i j : Nat) (f : Cad → Cad) : getMir (modCad s i f) j = getMir s j := rfl
@[simp] theorem getMir_modQ (s : State) (o n j : Nat) (f : OutQ → OutQ) : getMir (modQ s o n f) j = getMir s j := rfl

@[simp] theorem getCad_modCad (s : State) (i j : Nat) (f : Cad → Cad) :
    getCad (modCad s i f) j = if j = i then f (getCad s j) else getCad s j := by
  simp only [getCad, modCad, tget_tput]
  split
  · next h => rw [h]
  · rfl

@[simp] theorem getCad_modOutP (s : State) (i j : Nat) (f : OutP → OutP) : getCad (modOutP s i f) j = getCad s j := rfl
@[simp] theorem getCad_modEcmp (s : State) (i j : Nat) (f : Ecmp → Ecmp) : getCad (modEcmp s i f) j = getCad s j := rfl
@[simp] theorem getCad_modRgrp (s : State) (i j : Nat) (f : Rgrp → Rgrp) : getCad (modRgrp s i f) j = getCad s j := rfl
@[simp] theorem getCad_modMir (s : State) (i j : Nat) (f : Mirror → Mirror) : getCad (modMir s i f) j = getCad s j := rfl
@[simp] theorem getCad_modQ (s : State) (o n j : Nat) (f : OutQ → OutQ) : getCad (modQ s o n f) j = getCad s j := rfl

@[simp] theorem getCtx_setCtx (s : State) (c j : Nat) (x : Ctx) : getCtx (setCtx s c x) j = if j = c then x else getCtx s j := by
  simp only [getCtx, setCtx, tget_tput]

@[simp] theorem getQ_modQ (s : State) (o n p m : Nat) (f : OutQ → OutQ) :
    getQ (modQ s o n f) p m = if 16 * p + m = 16 * o + n then f (getQ s p m) else getQ s p m := by
  simp only [getQ, modQ, tget_tput]
  split
  · next h => rw [h]
  · rfl

@[simp] theorem getVppb_modVppb (s : State) (t v u w : Nat) (f : Vppb → Vppb) :
    getVppb (modVppb s t v f) u w = if u = t ∧ w = v then f (getVppb s u w) else getVppb s u w := by
  simp only [getVppb, modVppb, getTen_modTen]
  by_cases h : u = t
  · subst h
    simp only [if_pos, true_and, tget_tput]
    split
    · next h => rw [h]
    · rfl
  · simp [h]

@[simp] theorem getLink_modLink (s : State) (l : Nat) (f : CmdLink → CmdLink) : getLink (modLink s l f) l = f (getLink s l) := by
  unfold getLink modLink
  split <;> simp_all

@[simp] theorem getMeter_modMeter (s : State) (q m p n : Nat) (f : Meter → Meter) :
    getMeter (modMeter s q m f) p n = if p = q ∧ n = m then f (getMeter s p n) else getMeter s p n := by
  simp only [getMeter, modMeter, getQuire_modQuire]
  by_cases h : p = q
  · subst h
    simp only [if_pos, true_and, tget_tput]
    split
    · next h => rw [h]
    · rfl
  · simp [h]

/-! ### Updates of other fields leave a unit's reads -/

theorem getPort_congr {s t : State} (h : t.port = s.port) (i : Nat) : getPort t i = getPort s i := by simp only [getPort, h]
theorem getQuire_congr {s t : State} (h : t.quire = s.quire) (i : Nat) : getQuire t i = getQuire s i := by simp only [getQuire, h]
theorem getTen_congr {s t : State} (h : t.ten = s.ten) (i : Nat) : getTen t i = getTen s i := by simp only [getTen, h]
theorem getCtx_congr {s t : State} (h : t.seq = s.seq) (i : Nat) : getCtx t i = getCtx s i := by simp only [getCtx, h]
theorem getChan_congr {s t : State} (h : t.pool = s.pool) (i : Nat) : getChan t i = getChan s i := by simp only [getChan, h]
theorem getGrp_congr {s t : State} (h : t.pool = s.pool) (i : Nat) : getGrp t i = getGrp s i := by simp only [getGrp, h]
theorem getSlot_congr {s t : State} (h : t.slot = s.slot) (i : Nat) : getSlot t i = getSlot s i := by simp only [getSlot, h]
theorem getMov_congr {s t : State} (h : t.mov = s.mov) (i : Nat) : getMov t i = getMov s i := by simp only [getMov, h]
theorem getRef_congr {s t : State} (h : t.time = s.time) (i : Nat) : getRef t i = getRef s i := by simp only [getRef, h]
theorem getOut_congr {s t : State} (h : t.time = s.time) (i : Nat) : getOut t i = getOut s i := by simp only [getOut, h]
theorem getTake_congr {s t : State} (h : t.time = s.time) (i : Nat) : getTake t i = getTake s i := by simp only [getTake, h]
theorem getOutP_congr {s t : State} (h : t.core = s.core) (i : Nat) : getOutP t i = getOutP s i := by simp only [getOutP, h]
theorem getEcmp_congr {s t : State} (h : t.core = s.core) (i : Nat) : getEcmp t i = getEcmp s i := by simp only [getEcmp, h]
theorem getRgrp_congr {s t : State} (h : t.core = s.core) (i : Nat) : getRgrp t i = getRgrp s i := by simp only [getRgrp, h]
theorem getMir_congr {s t : State} (h : t.core = s.core) (i : Nat) : getMir t i = getMir s i := by simp only [getMir, h]
theorem getCad_congr {s t : State} (h : t.core = s.core) (i : Nat) : getCad t i = getCad s i := by simp only [getCad, h]

theorem getQ_congr {s t : State} (h : t.core = s.core) (o n : Nat) : getQ t o n = getQ s o n := by simp only [getQ, h]
theorem getLink_congr {s t : State} (h : t.cmd = s.cmd) (l : Nat) : getLink t l = getLink s l := by simp only [getLink, h]
theorem getVppb_congr {s t : State} (h : t.ten = s.ten) (u v : Nat) : getVppb t u v = getVppb s u v := by
  simp only [getVppb, getTen, h]
theorem getMeter_congr {s t : State} (h : t.quire = s.quire) (q m : Nat) : getMeter t q m = getMeter s q m := by
  simp only [getMeter, getQuire, h]

end Sys2Proof.Machine
end

