-- ==== Sys2Proof/Laws/Rel.lean ====
section
/-!
SUPPORT. What a state and a later one share: `Rel ch s u` says that every part of the state whose bit is not in `ch` is the same in
both, and that what every command keeps is kept. One lemma for each update of one field.
-/

namespace Sys2Proof.Machine

open Sys2Proof.Safety

/-- The registers and flags of a context. -/
def regs (x : Ctx) : Tab W64 × Bool × Bool × Bool × Bool := (x.k, x.z, x.n, x.c, x.v)

/-- `u` follows from `s`: parts whose bit is not in `ch` are the same. Bits 0 to 24 are the fields of State in order (without the
queue); 25 the DRAM contents, 26 the program store, 27 the Sheet Table, 28 the deckle table, 29 the contexts' registers and flags;
30 that locked deckles are not kept, as in a device reset. -/
structure Rel (ch : Nat) (s u : State) : Prop where
  f0 : ch.testBit 0 = false → u.glb = s.glb
  f1 : ch.testBit 1 = false → u.cmd = s.cmd
  f2 : ch.testBit 2 = false → u.pwr = s.pwr
  f3 : ch.testBit 3 = false → u.pace = s.pace
  f4 : ch.testBit 4 = false → u.slot = s.slot
  f5 : ch.testBit 5 = false → u.pwrfail = s.pwrfail
  f6 : ch.testBit 6 = false → u.slotHold = s.slotHold
  f7 : ch.testBit 7 = false → u.pool = s.pool
  f8 : ch.testBit 8 = false → u.home = s.home
  f9 : ch.testBit 9 = false → u.dkl = s.dkl
  f10 : ch.testBit 10 = false → u.seq = s.seq
  f11 : ch.testBit 11 = false → u.mov = s.mov
  f12 : ch.testBit 12 = false → u.time = s.time
  f13 : ch.testBit 13 = false → u.ten = s.ten
  f14 : ch.testBit 14 = false → u.port = s.port
  f15 : ch.testBit 15 = false → u.quire = s.quire
  f16 : ch.testBit 16 = false → u.core = s.core
  f17 : ch.testBit 17 = false → u.cnt = s.cnt
  f18 : ch.testBit 18 = false → u.stk = s.stk
  f19 : ch.testBit 19 = false → u.tap = s.tap
  f20 : ch.testBit 20 = false → u.pairLo = s.pairLo
  f21 : ch.testBit 21 = false → u.pairHi = s.pairHi
  f22 : ch.testBit 22 = false → u.out = s.out
  f23 : ch.testBit 23 = false → u.fresh = s.fresh
  f24 : ch.testBit 24 = false → u.nextId = s.nextId
  mem : ch.testBit 25 = false → u.pool.mem = s.pool.mem ∧ u.pool.poison = s.pool.poison
  ps : ch.testBit 26 = false → u.seq.ps = s.seq.ps ∧ u.seq.psBad = s.seq.psBad
  sheet : ch.testBit 27 = false → u.pool.sheet = s.pool.sheet
  deckle : ch.testBit 28 = false → u.dkl.tab = s.dkl.tab
  regs : ch.testBit 29 = false → ∀ c, regs (getCtx u c) = regs (getCtx s c)
  pend : u.pending = s.pending
  inv : Inv s → Inv u
  fuses : FusesKept s u
  grow : ∃ l, u.out = s.out ++ l
  rise : s.fresh ≤ u.fresh ∧ s.nextId ≤ u.nextId
  locks : ch.testBit 30 = false → locksKept s u

theorem fusesKept_refl (s : State) : FusesKept s s := ⟨fun _ h => h, fun _ h => h, Nat.le_refl _, rfl, rfl, rfl⟩

theorem fusesKept_trans {s t u : State} (a : FusesKept s t) (b : FusesKept t u) : FusesKept s u :=
  ⟨fun i h => b.valid i (a.valid i h), fun i h => b.revoked i (a.revoked i h), Nat.le_trans a.svn b.svn,
   b.serial.trans a.serial, b.grade.trans a.grade, b.stepping.trans a.stepping⟩

theorem Rel.refl {ch : Nat} (s : State) : Rel ch s s where
  f0 _ := rfl
  f1 _ := rfl
  f2 _ := rfl
  f3 _ := rfl
  f4 _ := rfl
  f5 _ := rfl
  f6 _ := rfl
  f7 _ := rfl
  f8 _ := rfl
  f9 _ := rfl
  f10 _ := rfl
  f11 _ := rfl
  f12 _ := rfl
  f13 _ := rfl
  f14 _ := rfl
  f15 _ := rfl
  f16 _ := rfl
  f17 _ := rfl
  f18 _ := rfl
  f19 _ := rfl
  f20 _ := rfl
  f21 _ := rfl
  f22 _ := rfl
  f23 _ := rfl
  f24 _ := rfl
  mem _ := ⟨rfl, rfl⟩
  ps _ := ⟨rfl, rfl⟩
  sheet _ := rfl
  deckle _ := rfl
  regs _ _ := rfl
  pend := rfl
  inv h := h
  fuses := fusesKept_refl s
  grow := ⟨[], (List.append_nil _).symm⟩
  rise := ⟨Nat.le_refl _, Nat.le_refl _⟩
  locks _ _ _ := rfl

theorem Rel.trans {ch : Nat} {s t u : State} (a : Rel ch s t) (b : Rel ch t u) : Rel ch s u where
  f0 h := (b.f0 h).trans (a.f0 h)
  f1 h := (b.f1 h).trans (a.f1 h)
  f2 h := (b.f2 h).trans (a.f2 h)
  f3 h := (b.f3 h).trans (a.f3 h)
  f4 h := (b.f4 h).trans (a.f4 h)
  f5 h := (b.f5 h).trans (a.f5 h)
  f6 h := (b.f6 h).trans (a.f6 h)
  f7 h := (b.f7 h).trans (a.f7 h)
  f8 h := (b.f8 h).trans (a.f8 h)
  f9 h := (b.f9 h).trans (a.f9 h)
  f10 h := (b.f10 h).trans (a.f10 h)
  f11 h := (b.f11 h).trans (a.f11 h)
  f12 h := (b.f12 h).trans (a.f12 h)
  f13 h := (b.f13 h).trans (a.f13 h)
  f14 h := (b.f14 h).trans (a.f14 h)
  f15 h := (b.f15 h).trans (a.f15 h)
  f16 h := (b.f16 h).trans (a.f16 h)
  f17 h := (b.f17 h).trans (a.f17 h)
  f18 h := (b.f18 h).trans (a.f18 h)
  f19 h := (b.f19 h).trans (a.f19 h)
  f20 h := (b.f20 h).trans (a.f20 h)
  f21 h := (b.f21 h).trans (a.f21 h)
  f22 h := (b.f22 h).trans (a.f22 h)
  f23 h := (b.f23 h).trans (a.f23 h)
  f24 h := (b.f24 h).trans (a.f24 h)
  mem h := ⟨(b.mem h).1.trans (a.mem h).1, (b.mem h).2.trans (a.mem h).2⟩
  ps h := ⟨(b.ps h).1.trans (a.ps h).1, (b.ps h).2.trans (a.ps h).2⟩
  sheet h := (b.sheet h).trans (a.sheet h)
  deckle h := (b.deckle h).trans (a.deckle h)
  regs h c := (b.regs h c).trans (a.regs h c)
  pend := b.pend.trans a.pend
  inv h := b.inv (a.inv h)
  fuses := fusesKept_trans a.fuses b.fuses
  grow := by
    obtain ⟨l, e⟩ := a.grow
    obtain ⟨m, f⟩ := b.grow
    exact ⟨l ++ m, by rw [f, e, List.append_assoc]⟩
  rise := ⟨Nat.le_trans a.rise.1 b.rise.1, Nat.le_trans a.rise.2 b.rise.2⟩
  locks h i l := (b.locks h i (by rw [a.locks h i l]; exact l)).trans (a.locks h i l)

/-- A bit of a part of a set is a bit of the set. -/
theorem bit_of {ch m : Nat} (i : Nat) (hc : m &&& ch = m) (hm : m.testBit i = true) : ch.testBit i = true := by
  have := congrArg (Nat.testBit · i) hc
  simp only [Nat.testBit_and, hm, Bool.true_and] at this
  exact this

/-- Part of a part. -/
theorem sub_of {ch m n : Nat} (hc : m &&& ch = m) (hn : n &&& m = n) : n &&& ch = n := by
  rw [← hn, Nat.and_assoc, hc]

theorem Rel.cmd {ch : Nat} {s u : State} (x : Cmd) (b : ch.testBit 1 = true) (h : Rel ch s u) : Rel ch s { u with cmd := x } :=
  { h with f1 := fun e => absurd (e.symm.trans b) Bool.false_ne_true
           inv := fun a => ⟨(h.inv a).mem, (h.inv a).ps, (h.inv a).deckles⟩
           fuses := ⟨h.fuses.valid, h.fuses.revoked, h.fuses.svn, h.fuses.serial, h.fuses.grade, h.fuses.stepping⟩ }

theorem Rel.pwr {ch : Nat} {s u : State} (x : Pwr) (b : ch.testBit 2 = true) (h : Rel ch s u) : Rel ch s { u with pwr := x } :=
  { h with f2 := fun e => absurd (e.symm.trans b) Bool.false_ne_true
           inv := fun a => ⟨(h.inv a).mem, (h.inv a).ps, (h.inv a).deckles⟩
           fuses := ⟨h.fuses.valid, h.fuses.revoked, h.fuses.svn, h.fuses.serial, h.fuses.grade, h.fuses.stepping⟩ }

theorem Rel.pace {ch : Nat} {s u : State} (x : Pace) (b : ch.testBit 3 = true) (h : Rel ch s u) : Rel ch s { u with pace := x } :=
  { h with f3 := fun e => absurd (e.symm.trans b) Bool.false_ne_true
           inv := fun a => ⟨(h.inv a).mem, (h.inv a).ps, (h.inv a).deckles⟩
           fuses := ⟨h.fuses.valid, h.fuses.revoked, h.fuses.svn, h.fuses.serial, h.fuses.grade, h.fuses.stepping⟩ }

theorem Rel.slot {ch : Nat} {s u : State} (x : Tab Slot) (b : ch.testBit 4 = true) (h : Rel ch s u) : Rel ch s { u with slot := x } :=
  { h with f4 := fun e => absurd (e.symm.trans b) Bool.false_ne_true
           inv := fun a => ⟨(h.inv a).mem, (h.inv a).ps, (h.inv a).deckles⟩
           fuses := ⟨h.fuses.valid, h.fuses.revoked, h.fuses.svn, h.fuses.serial, h.fuses.grade, h.fuses.stepping⟩ }

theorem Rel.pwrfail {ch : Nat} {s u : State} (x : Bool) (b : ch.testBit 5 = true) (h : Rel ch s u) : Rel ch s { u with pwrfail := x } :=
  { h with f5 := fun e => absurd (e.symm.trans b) Bool.false_ne_true
           inv := fun a => ⟨(h.inv a).mem, (h.inv a).ps, (h.inv a).deckles⟩
           fuses := ⟨h.fuses.valid, h.fuses.revoked, h.fuses.svn, h.fuses.serial, h.fuses.grade, h.fuses.stepping⟩ }

theorem Rel.slotHold {ch : Nat} {s u : State} (x : Bool) (b : ch.testBit 6 = true) (h : Rel ch s u) : Rel ch s { u with slotHold := x } :=
  { h with f6 := fun e => absurd (e.symm.trans b) Bool.false_ne_true
           inv := fun a => ⟨(h.inv a).mem, (h.inv a).ps, (h.inv a).deckles⟩
           fuses := ⟨h.fuses.valid, h.fuses.revoked, h.fuses.svn, h.fuses.serial, h.fuses.grade, h.fuses.stepping⟩ }

theorem Rel.home {ch : Nat} {s u : State} (x : Home) (b : ch.testBit 8 = true) (h : Rel ch s u) : Rel ch s { u with home := x } :=
  { h with f8 := fun e => absurd (e.symm.trans b) Bool.false_ne_true
           inv := fun a => ⟨(h.inv a).mem, (h.inv a).ps, (h.inv a).deckles⟩
           fuses := ⟨h.fuses.valid, h.fuses.revoked, h.fuses.svn, h.fuses.serial, h.fuses.grade, h.fuses.stepping⟩ }

theorem Rel.mov {ch : Nat} {s u : State} (x : Mov) (b : ch.testBit 11 = true) (h : Rel ch s u) : Rel ch s { u with mov := x } :=
  { h with f11 := fun e => absurd (e.symm.trans b) Bool.false_ne_true
           inv := fun a => ⟨(h.inv a).mem, (h.inv a).ps, (h.inv a).deckles⟩
           fuses := ⟨h.fuses.valid, h.fuses.revoked, h.fuses.svn, h.fuses.serial, h.fuses.grade, h.fuses.stepping⟩ }

theorem Rel.time {ch : Nat} {s u : State} (x : TimeU) (b : ch.testBit 12 = true) (h : Rel ch s u) : Rel ch s { u with time := x } :=
  { h with f12 := fun e => absurd (e.symm.trans b) Bool.false_ne_true
           inv := fun a => ⟨(h.inv a).mem, (h.inv a).ps, (h.inv a).deckles⟩
           fuses := ⟨h.fuses.valid, h.fuses.revoked, h.fuses.svn, h.fuses.serial, h.fuses.grade, h.fuses.stepping⟩ }

theorem Rel.ten {ch : Nat} {s u : State} (x : Tab Ten) (b : ch.testBit 13 = true) (h : Rel ch s u) : Rel ch s { u with ten := x } :=
  { h with f13 := fun e => absurd (e.symm.trans b) Bool.false_ne_true
           inv := fun a => ⟨(h.inv a).mem, (h.inv a).ps, (h.inv a).deckles⟩
           fuses := ⟨h.fuses.valid, h.fuses.revoked, h.fuses.svn, h.fuses.serial, h.fuses.grade, h.fuses.stepping⟩ }

theorem Rel.port {ch : Nat} {s u : State} (x : Tab Port) (b : ch.testBit 14 = true) (h : Rel ch s u) : Rel ch s { u with port := x } :=
  { h with f14 := fun e => absurd (e.symm.trans b) Bool.false_ne_true
           inv := fun a => ⟨(h.inv a).mem, (h.inv a).ps, (h.inv a).deckles⟩
           fuses := ⟨h.fuses.valid, h.fuses.revoked, h.fuses.svn, h.fuses.serial, h.fuses.grade, h.fuses.stepping⟩ }

theorem Rel.quire {ch : Nat} {s u : State} (x : Tab Quire) (b : ch.testBit 15 = true) (h : Rel ch s u) : Rel ch s { u with quire := x } :=
  { h with f15 := fun e => absurd (e.symm.trans b) Bool.false_ne_true
           inv := fun a => ⟨(h.inv a).mem, (h.inv a).ps, (h.inv a).deckles⟩
           fuses := ⟨h.fuses.valid, h.fuses.revoked, h.fuses.svn, h.fuses.serial, h.fuses.grade, h.fuses.stepping⟩ }

theorem Rel.core {ch : Nat} {s u : State} (x : Core) (b : ch.testBit 16 = true) (h : Rel ch s u) : Rel ch s { u with core := x } :=
  { h with f16 := fun e => absurd (e.symm.trans b) Bool.false_ne_true
           inv := fun a => ⟨(h.inv a).mem, (h.inv a).ps, (h.inv a).deckles⟩
           fuses := ⟨h.fuses.valid, h.fuses.revoked, h.fuses.svn, h.fuses.serial, h.fuses.grade, h.fuses.stepping⟩ }

theorem Rel.cnt {ch : Nat} {s u : State} (x : Cnt) (b : ch.testBit 17 = true) (h : Rel ch s u) : Rel ch s { u with cnt := x } :=
  { h with f17 := fun e => absurd (e.symm.trans b) Bool.false_ne_true
           inv := fun a => ⟨(h.inv a).mem, (h.inv a).ps, (h.inv a).deckles⟩
           fuses := ⟨h.fuses.valid, h.fuses.revoked, h.fuses.svn, h.fuses.serial, h.fuses.grade, h.fuses.stepping⟩ }

theorem Rel.stk {ch : Nat} {s u : State} (x : Stk) (b : ch.testBit 18 = true) (h : Rel ch s u) : Rel ch s { u with stk := x } :=
  { h with f18 := fun e => absurd (e.symm.trans b) Bool.false_ne_true
           inv := fun a => ⟨(h.inv a).mem, (h.inv a).ps, (h.inv a).deckles⟩
           fuses := ⟨h.fuses.valid, h.fuses.revoked, h.fuses.svn, h.fuses.serial, h.fuses.grade, h.fuses.stepping⟩ }

theorem Rel.tap {ch : Nat} {s u : State} (x : Tap) (b : ch.testBit 19 = true) (h : Rel ch s u) : Rel ch s { u with tap := x } :=
  { h with f19 := fun e => absurd (e.symm.trans b) Bool.false_ne_true
           inv := fun a => ⟨(h.inv a).mem, (h.inv a).ps, (h.inv a).deckles⟩
           fuses := ⟨h.fuses.valid, h.fuses.revoked, h.fuses.svn, h.fuses.serial, h.fuses.grade, h.fuses.stepping⟩ }

theorem Rel.pairLo {ch : Nat} {s u : State} (x : List (Master × Nat × W32)) (b : ch.testBit 20 = true) (h : Rel ch s u) : Rel ch s { u with pairLo := x } :=
  { h with f20 := fun e => absurd (e.symm.trans b) Bool.false_ne_true
           inv := fun a => ⟨(h.inv a).mem, (h.inv a).ps, (h.inv a).deckles⟩
           fuses := ⟨h.fuses.valid, h.fuses.revoked, h.fuses.svn, h.fuses.serial, h.fuses.grade, h.fuses.stepping⟩ }

theorem Rel.pairHi {ch : Nat} {s u : State} (x : List (Master × Nat × W32)) (b : ch.testBit 21 = true) (h : Rel ch s u) : Rel ch s { u with pairHi := x } :=
  { h with f21 := fun e => absurd (e.symm.trans b) Bool.false_ne_true
           inv := fun a => ⟨(h.inv a).mem, (h.inv a).ps, (h.inv a).deckles⟩
           fuses := ⟨h.fuses.valid, h.fuses.revoked, h.fuses.svn, h.fuses.serial, h.fuses.grade, h.fuses.stepping⟩ }

theorem Rel.out {ch : Nat} {s u : State} (x : List Emit) (k : ∃ l, x = u.out ++ l) (b : ch.testBit 22 = true) (h : Rel ch s u) : Rel ch s { u with out := x } :=
  { h with f22 := fun e => absurd (e.symm.trans b) Bool.false_ne_true
           inv := fun a => ⟨(h.inv a).mem, (h.inv a).ps, (h.inv a).deckles⟩
           fuses := ⟨h.fuses.valid, h.fuses.revoked, h.fuses.svn, h.fuses.serial, h.fuses.grade, h.fuses.stepping⟩
           grow := by
             obtain ⟨l, e⟩ := h.grow
             obtain ⟨m, f⟩ := k
             exact ⟨l ++ m, by rw [f, e, List.append_assoc]⟩ }

theorem Rel.fresh {ch : Nat} {s u : State} (x : Nat) (k : u.fresh ≤ x) (b : ch.testBit 23 = true) (h : Rel ch s u) : Rel ch s { u with fresh := x } :=
  { h with f23 := fun e => absurd (e.symm.trans b) Bool.false_ne_true
           inv := fun a => ⟨(h.inv a).mem, (h.inv a).ps, (h.inv a).deckles⟩
           fuses := ⟨h.fuses.valid, h.fuses.revoked, h.fuses.svn, h.fuses.serial, h.fuses.grade, h.fuses.stepping⟩
           rise := ⟨Nat.le_trans h.rise.1 k, h.rise.2⟩ }

theorem Rel.nextId {ch : Nat} {s u : State} (x : Nat) (k : u.nextId ≤ x) (b : ch.testBit 24 = true) (h : Rel ch s u) : Rel ch s { u with nextId := x } :=
  { h with f24 := fun e => absurd (e.symm.trans b) Bool.false_ne_true
           inv := fun a => ⟨(h.inv a).mem, (h.inv a).ps, (h.inv a).deckles⟩
           fuses := ⟨h.fuses.valid, h.fuses.revoked, h.fuses.svn, h.fuses.serial, h.fuses.grade, h.fuses.stepping⟩
           rise := ⟨h.rise.1, Nat.le_trans h.rise.2 k⟩ }

/-- The fuses of two global blocks are the same. -/
def gkept (a b : Glb) : Prop :=
  a.keyValid = b.keyValid ∧ a.keyRevoked = b.keyRevoked ∧ a.svn = b.svn ∧ a.serial = b.serial ∧ a.grade = b.grade ∧
    a.stepping = b.stepping

theorem gkept_refl (a : Glb) : gkept a a := ⟨rfl, rfl, rfl, rfl, rfl, rfl⟩

theorem gkept_trans {a b c : Glb} (x : gkept a b) (y : gkept b c) : gkept a c :=
  ⟨x.1.trans y.1, x.2.1.trans y.2.1, x.2.2.1.trans y.2.2.1, x.2.2.2.1.trans y.2.2.2.1, x.2.2.2.2.1.trans y.2.2.2.2.1,
   x.2.2.2.2.2.trans y.2.2.2.2.2⟩

/-- An update of the global block that leaves the fuses. -/
theorem Rel.glb {ch : Nat} {s u : State} (x : Glb) (k : gkept x u.glb)
    (b : ch.testBit 0 = true) (h : Rel ch s u) : Rel ch s { u with glb := x } :=
  { h with f0 := fun e => absurd (e.symm.trans b) Bool.false_ne_true
           inv := fun a => ⟨(h.inv a).mem, (h.inv a).ps, (h.inv a).deckles⟩
           fuses := ⟨fun i e => k.1 ▸ h.fuses.valid i e, fun i e => k.2.1 ▸ h.fuses.revoked i e, k.2.2.1 ▸ h.fuses.svn,
             k.2.2.2.1.trans h.fuses.serial, k.2.2.2.2.1.trans h.fuses.grade, k.2.2.2.2.2.trans h.fuses.stepping⟩ }

/-- An update of the global block that takes no fuse back. -/
theorem Rel.glbFuse {ch : Nat} {s u : State} (x : Glb) (k : FusesKept u { u with glb := x })
    (b : ch.testBit 0 = true) (h : Rel ch s u) : Rel ch s { u with glb := x } :=
  { h with f0 := fun e => absurd (e.symm.trans b) Bool.false_ne_true
           inv := fun a => ⟨(h.inv a).mem, (h.inv a).ps, (h.inv a).deckles⟩
           fuses := fusesKept_trans h.fuses k }

/-- An update of the pool that leaves the DRAM contents and the Sheet Table. -/
theorem Rel.pool {ch : Nat} {s u : State} (x : Pool) (hm : x.mem = u.pool.mem) (hp : x.poison = u.pool.poison)
    (hs : x.sheet = u.pool.sheet) (b : ch.testBit 7 = true) (h : Rel ch s u) : Rel ch s { u with pool := x } :=
  { h with f7 := fun e => absurd (e.symm.trans b) Bool.false_ne_true
           mem := fun e => ⟨hm.trans (h.mem e).1, hp.trans (h.mem e).2⟩
           sheet := fun e => hs.trans (h.sheet e)
           inv := fun a => ⟨hm ▸ (h.inv a).mem, (h.inv a).ps, (h.inv a).deckles⟩
           fuses := ⟨h.fuses.valid, h.fuses.revoked, h.fuses.svn, h.fuses.serial, h.fuses.grade, h.fuses.stepping⟩ }

/-- An update of the pool that writes the Sheet Table. -/
theorem Rel.poolSheet {ch : Nat} {s u : State} (x : Pool) (hm : x.mem = u.pool.mem) (hp : x.poison = u.pool.poison)
    (b : ch.testBit 7 = true) (b2 : ch.testBit 27 = true) (h : Rel ch s u) : Rel ch s { u with pool := x } :=
  { h with f7 := fun e => absurd (e.symm.trans b) Bool.false_ne_true
           mem := fun e => ⟨hm.trans (h.mem e).1, hp.trans (h.mem e).2⟩
           sheet := fun e => absurd (e.symm.trans b2) Bool.false_ne_true
           inv := fun a => ⟨hm ▸ (h.inv a).mem, (h.inv a).ps, (h.inv a).deckles⟩
           fuses := ⟨h.fuses.valid, h.fuses.revoked, h.fuses.svn, h.fuses.serial, h.fuses.grade, h.fuses.stepping⟩ }

/-- An update of the pool that writes DRAM contents in canonical form. -/
theorem Rel.poolMem {ch : Nat} {s u : State} (x : Pool) (hm : Memory.wf u.pool.mem = true → Memory.wf x.mem = true)
    (hs : x.sheet = u.pool.sheet) (b : ch.testBit 7 = true) (b2 : ch.testBit 25 = true) (h : Rel ch s u) :
    Rel ch s { u with pool := x } :=
  { h with f7 := fun e => absurd (e.symm.trans b) Bool.false_ne_true
           mem := fun e => absurd (e.symm.trans b2) Bool.false_ne_true
           sheet := fun e => hs.trans (h.sheet e)
           inv := fun a => ⟨hm (h.inv a).mem, (h.inv a).ps, (h.inv a).deckles⟩
           fuses := ⟨h.fuses.valid, h.fuses.revoked, h.fuses.svn, h.fuses.serial, h.fuses.grade, h.fuses.stepping⟩ }

/-- An update of the deckle block that leaves the table. -/
theorem Rel.dkl {ch : Nat} {s u : State} (x : Dkl) (ht : x.tab = u.dkl.tab) (b : ch.testBit 9 = true) (h : Rel ch s u) :
    Rel ch s { u with dkl := x } :=
  { h with f9 := fun e => absurd (e.symm.trans b) Bool.false_ne_true
           deckle := fun e => ht.trans (h.deckle e)
           locks := fun e i l => by
             show tget {} x.tab i = _
             rw [ht]
             exact h.locks e i l
           inv := fun a => ⟨(h.inv a).mem, (h.inv a).ps, ht ▸ (h.inv a).deckles⟩
           fuses := ⟨h.fuses.valid, h.fuses.revoked, h.fuses.svn, h.fuses.serial, h.fuses.grade, h.fuses.stepping⟩ }

/-- An update of the deckle table that leaves no overlap and every locked entry. -/
theorem Rel.dklTab {ch : Nat} {s u : State} (x : Dkl) (ht : deckleDisjoint u.dkl.tab → deckleDisjoint x.tab)
    (hk : ∀ i, (tget {} u.dkl.tab i).locked = true → tget {} x.tab i = tget {} u.dkl.tab i)
    (b : ch.testBit 9 = true) (b2 : ch.testBit 28 = true) (h : Rel ch s u) : Rel ch s { u with dkl := x } :=
  { h with f9 := fun e => absurd (e.symm.trans b) Bool.false_ne_true
           deckle := fun e => absurd (e.symm.trans b2) Bool.false_ne_true
           locks := fun e i l => (hk i (by rw [h.locks e i l]; exact l)).trans (h.locks e i l)
           inv := fun a => ⟨(h.inv a).mem, (h.inv a).ps, ht (h.inv a).deckles⟩
           fuses := ⟨h.fuses.valid, h.fuses.revoked, h.fuses.svn, h.fuses.serial, h.fuses.grade, h.fuses.stepping⟩ }

/-- An update of the sequencer that leaves the program store and the contexts. -/
theorem Rel.seq {ch : Nat} {s u : State} (x : Seq) (hp : x.ps = u.seq.ps ∧ x.psBad = u.seq.psBad) (hx : x.ctx = u.seq.ctx)
    (b : ch.testBit 10 = true) (h : Rel ch s u) : Rel ch s { u with seq := x } :=
  { h with f10 := fun e => absurd (e.symm.trans b) Bool.false_ne_true
           ps := fun e => ⟨hp.1.trans (h.ps e).1, hp.2.trans (h.ps e).2⟩
           regs := fun e c => by
             have := h.regs e c
             simp only [getCtx] at this ⊢
             rw [hx]; exact this
           inv := fun a => ⟨(h.inv a).mem, by rw [hp.1]; exact (h.inv a).ps, (h.inv a).deckles⟩
           fuses := ⟨h.fuses.valid, h.fuses.revoked, h.fuses.svn, h.fuses.serial, h.fuses.grade, h.fuses.stepping⟩ }

/-- An update of the program store in canonical form. -/
theorem Rel.seqPs {ch : Nat} {s u : State} (x : Seq) (hp : Memory.wf u.seq.ps = true → Memory.wf x.ps = true)
    (hx : x.ctx = u.seq.ctx) (b : ch.testBit 10 = true) (b2 : ch.testBit 26 = true) (h : Rel ch s u) :
    Rel ch s { u with seq := x } :=
  { h with f10 := fun e => absurd (e.symm.trans b) Bool.false_ne_true
           ps := fun e => absurd (e.symm.trans b2) Bool.false_ne_true
           regs := fun e c => by
             have := h.regs e c
             simp only [getCtx] at this ⊢
             rw [hx]; exact this
           inv := fun a => ⟨(h.inv a).mem, hp (h.inv a).ps, (h.inv a).deckles⟩
           fuses := ⟨h.fuses.valid, h.fuses.revoked, h.fuses.svn, h.fuses.serial, h.fuses.grade, h.fuses.stepping⟩ }

/-- A context is replaced by one with the same registers and flags. -/
theorem Rel.setCtx {ch : Nat} {s u : State} (c : Nat) (x : Ctx) (hx : Machine.regs x = Machine.regs (getCtx u c))
    (b : ch.testBit 10 = true) (h : Rel ch s u) : Rel ch s (Machine.setCtx u c x) :=
  { h with f10 := fun e => absurd (e.symm.trans b) Bool.false_ne_true
           regs := fun e j => by
             rw [getCtx_setCtx]
             split
             · next hj => subst hj; exact hx.trans (h.regs e j)
             · exact h.regs e j
           inv := fun a => ⟨(h.inv a).mem, (h.inv a).ps, (h.inv a).deckles⟩
           fuses := ⟨h.fuses.valid, h.fuses.revoked, h.fuses.svn, h.fuses.serial, h.fuses.grade, h.fuses.stepping⟩ }

/-- A context is replaced. -/
theorem Rel.setCtx' {ch : Nat} {s u : State} (c : Nat) (x : Ctx) (b : ch.testBit 10 = true) (b2 : ch.testBit 29 = true)
    (h : Rel ch s u) : Rel ch s (Machine.setCtx u c x) :=
  { h with f10 := fun e => absurd (e.symm.trans b) Bool.false_ne_true
           regs := fun e => absurd (e.symm.trans b2) Bool.false_ne_true
           inv := fun a => ⟨(h.inv a).mem, (h.inv a).ps, (h.inv a).deckles⟩
           fuses := ⟨h.fuses.valid, h.fuses.revoked, h.fuses.svn, h.fuses.serial, h.fuses.grade, h.fuses.stepping⟩ }

theorem Rel.modCtx {ch : Nat} {s u : State} {c : Nat} {f : Ctx → Ctx} (hf : ∀ x, Machine.regs (f x) = Machine.regs x)
    (b : ch.testBit 10 = true) (h : Rel ch s u) : Rel ch s (Machine.modCtx u c f) := Rel.setCtx c _ (hf _) b h

theorem Rel.modCtx' {ch : Nat} {s u : State} {c : Nat} {f : Ctx → Ctx} (b : ch.testBit 10 = true) (b2 : ch.testBit 29 = true)
    (h : Rel ch s u) : Rel ch s (Machine.modCtx u c f) := Rel.setCtx' c _ b b2 h

theorem Rel.ite {ch : Nat} {s a b : State} {p : Prop} [Decidable p] (ha : Rel ch s a) (hb : Rel ch s b) :
    Rel ch s (if p then a else b) := by split <;> assumption

theorem Rel.foldl {ch : Nat} {s u : State} {β : Type} {f : State → β → State} {l : List β}
    (hf : ∀ v x, Rel ch s v → Rel ch s (f v x)) (h : Rel ch s u) : Rel ch s (l.foldl f u) := by
  induction l generalizing u with
  | nil => exact h
  | cons x l ih => exact ih (hf _ _ h)

theorem Rel.forL {ch : Nat} {s u : State} {f : State → Nat → State} {l : List Nat}
    (hf : ∀ v x, Rel ch s v → Rel ch s (f v x)) (h : Rel ch s u) : Rel ch s (Machine.forL l u f) := Rel.foldl hf h

theorem Rel.unitOk {ch : Nat} {s a t : State} {ok : Bool} (ha : Rel ch s a) (ht : Machine.unitOk ok a = .next t) : Rel ch s t := by
  unfold Machine.unitOk at ht
  split at ht
  · cases ht; exact ha
  · cases ht

/-- A value with a state in it, taken apart. -/
theorem Rel.of_snd {ch : Nat} {s v : State} {α : Type} {r : α × State} {a : α} (e : r = (a, v)) (h : Rel ch s r.2) : Rel ch s v := by
  subst e; exact h

theorem Rel.of_fst {ch : Nat} {s v : State} {α : Type} {r : State × α} {a : α} (e : r = (v, a)) (h : Rel ch s r.1) : Rel ch s v := by
  subst e; exact h

theorem Rel.mk_snd {ch : Nat} {s v : State} {α : Type} {a : α} (h : Rel ch s v) : Rel ch s (a, v).2 := h

theorem Rel.mk_fst {ch : Nat} {s v : State} {α : Type} {a : α} (h : Rel ch s v) : Rel ch s (v, a).1 := h

theorem Rel.foldl2 {ch : Nat} {s : State} {α β : Type} {u : α × State} {f : α × State → β → α × State} {l : List β}
    (hf : ∀ v x, Rel ch s v.2 → Rel ch s (f v x).2) (h : Rel ch s u.2) : Rel ch s (l.foldl f u).2 := by
  induction l generalizing u with
  | nil => exact h
  | cons x l ih => exact ih (hf _ _ h)

theorem Rel.foldl1 {ch : Nat} {s : State} {α β : Type} {u : State × α} {f : State × α → β → State × α} {l : List β}
    (hf : ∀ v x, Rel ch s v.1 → Rel ch s (f v x).1) (h : Rel ch s u.1) : Rel ch s (l.foldl f u).1 := by
  induction l generalizing u with
  | nil => exact h
  | cons x l ih => exact ih (hf _ _ h)

theorem Rel.core_home {ch : Nat} {s u : State} (x1 : Core) (b1 : ch.testBit 16 = true) (x2 : Home) (b2 : ch.testBit 8 = true)
    (h : Rel ch s u) : Rel ch s { u with core := x1, home := x2 } := Rel.core x1 b1 (Rel.home x2 b2 (h))

theorem Rel.core_time {ch : Nat} {s u : State} (x1 : Core) (b1 : ch.testBit 16 = true) (x2 : TimeU) (b2 : ch.testBit 12 = true)
    (h : Rel ch s u) : Rel ch s { u with core := x1, time := x2 } := Rel.core x1 b1 (Rel.time x2 b2 (h))

theorem Rel.nextId_core {ch : Nat} {s u : State} (x1 : Nat) (k1 : u.nextId ≤ x1) (b1 : ch.testBit 24 = true) (x2 : Core) (b2 : ch.testBit 16 = true)
    (h : Rel ch s u) : Rel ch s { u with nextId := x1, core := x2 } := Rel.nextId (u := { u with core := x2 }) x1 k1 b1 (Rel.core x2 b2 (h))

theorem Rel.pace_glb {ch : Nat} {s u : State} (x1 : Pace) (b1 : ch.testBit 3 = true) (x2 : Glb) (k : gkept x2 u.glb) (b2 : ch.testBit 0 = true)
    (h : Rel ch s u) : Rel ch s { u with pace := x1, glb := x2 } := Rel.pace x1 b1 (Rel.glb x2 k b2 (h))

theorem Rel.pace_pwr {ch : Nat} {s u : State} (x1 : Pace) (b1 : ch.testBit 3 = true) (x2 : Pwr) (b2 : ch.testBit 2 = true)
    (h : Rel ch s u) : Rel ch s { u with pace := x1, pwr := x2 } := Rel.pace x1 b1 (Rel.pwr x2 b2 (h))

theorem Rel.pace_pwr_glb {ch : Nat} {s u : State} (x1 : Pace) (b1 : ch.testBit 3 = true) (x2 : Pwr) (b2 : ch.testBit 2 = true) (x3 : Glb) (k : gkept x3 u.glb) (b3 : ch.testBit 0 = true)
    (h : Rel ch s u) : Rel ch s { u with pace := x1, pwr := x2, glb := x3 } := Rel.pace x1 b1 (Rel.pwr x2 b2 (Rel.glb x3 k b3 (h)))

theorem Rel.slot_pwr_glb {ch : Nat} {s u : State} (x1 : Tab Slot) (b1 : ch.testBit 4 = true) (x2 : Pwr) (b2 : ch.testBit 2 = true) (x3 : Glb) (k : gkept x3 u.glb) (b3 : ch.testBit 0 = true)
    (h : Rel ch s u) : Rel ch s { u with slot := x1, pwr := x2, glb := x3 } := Rel.slot x1 b1 (Rel.pwr x2 b2 (Rel.glb x3 k b3 (h)))

theorem Rel.stk_glb {ch : Nat} {s u : State} (x1 : Stk) (b1 : ch.testBit 18 = true) (x2 : Glb) (k : gkept x2 u.glb) (b2 : ch.testBit 0 = true)
    (h : Rel ch s u) : Rel ch s { u with stk := x1, glb := x2 } := Rel.stk x1 b1 (Rel.glb x2 k b2 (h))


/-- A smaller set of changes is a larger one. -/
theorem Rel.mono {m ch : Nat} {s u : State} (hc : m &&& ch = m) (h : Rel m s u) : Rel ch s u :=
  have z (i : Nat) (e : ch.testBit i = false) : m.testBit i = false := by
    rw [← hc, Nat.testBit_and, e, Bool.and_false]
  { f0 := fun e => h.f0 (z 0 e)
    f1 := fun e => h.f1 (z 1 e)
    f2 := fun e => h.f2 (z 2 e)
    f3 := fun e => h.f3 (z 3 e)
    f4 := fun e => h.f4 (z 4 e)
    f5 := fun e => h.f5 (z 5 e)
    f6 := fun e => h.f6 (z 6 e)
    f7 := fun e => h.f7 (z 7 e)
    f8 := fun e => h.f8 (z 8 e)
    f9 := fun e => h.f9 (z 9 e)
    f10 := fun e => h.f10 (z 10 e)
    f11 := fun e => h.f11 (z 11 e)
    f12 := fun e => h.f12 (z 12 e)
    f13 := fun e => h.f13 (z 13 e)
    f14 := fun e => h.f14 (z 14 e)
    f15 := fun e => h.f15 (z 15 e)
    f16 := fun e => h.f16 (z 16 e)
    f17 := fun e => h.f17 (z 17 e)
    f18 := fun e => h.f18 (z 18 e)
    f19 := fun e => h.f19 (z 19 e)
    f20 := fun e => h.f20 (z 20 e)
    f21 := fun e => h.f21 (z 21 e)
    f22 := fun e => h.f22 (z 22 e)
    f23 := fun e => h.f23 (z 23 e)
    f24 := fun e => h.f24 (z 24 e)
    mem := fun e => h.mem (z 25 e)
    ps := fun e => h.ps (z 26 e)
    sheet := fun e => h.sheet (z 27 e)
    deckle := fun e => h.deckle (z 28 e)
    regs := fun e => h.regs (z 29 e)
    pend := h.pend, grow := h.grow
    rise := h.rise
    inv := h.inv, fuses := h.fuses
    locks := fun e => h.locks (z 30 e) }

end Sys2Proof.Machine
end

