-- ==== Sys2Proof/Laws/RelOps.lean ====
section
/-!
SUPPORT. What each operation of Ops.lean can change, and that it keeps what every command keeps (Laws/Rel.lean).
-/

namespace Sys2Proof.Machine

theorem setPort_rel {ch : Nat} {s u : State} {x1 x2} (hc : 16384 &&& ch = 16384) (h : Rel ch s u) :
    Rel ch s (setPort u x1 x2) := by
  unfold setPort
  refine Rel.port _ (bit_of 14 hc rfl) ?_
  exact h

theorem modPort_rel {ch : Nat} {s u : State} {x1 x2} (hc : 16384 &&& ch = 16384) (h : Rel ch s u) :
    Rel ch s (modPort u x1 x2) := by
  unfold modPort
  refine setPort_rel (sub_of hc rfl) ?_
  exact h

theorem modQuire_rel {ch : Nat} {s u : State} {x1 x2} (hc : 32768 &&& ch = 32768) (h : Rel ch s u) :
    Rel ch s (modQuire u x1 x2) := by
  unfold modQuire
  refine Rel.quire _ (bit_of 15 hc rfl) ?_
  exact h

theorem modTen_rel {ch : Nat} {s u : State} {x1 x2} (hc : 8192 &&& ch = 8192) (h : Rel ch s u) :
    Rel ch s (modTen u x1 x2) := by
  unfold modTen
  refine Rel.ten _ (bit_of 13 hc rfl) ?_
  exact h

theorem modVppb_rel {ch : Nat} {s u : State} {x1 x2 x3} (hc : 8192 &&& ch = 8192) (h : Rel ch s u) :
    Rel ch s (modVppb u x1 x2 x3) := by
  unfold modVppb
  refine modTen_rel (sub_of hc rfl) ?_
  exact h

theorem modChan_rel {ch : Nat} {s u : State} {x1 x2} (hc : 128 &&& ch = 128) (h : Rel ch s u) :
    Rel ch s (modChan u x1 x2) := by
  unfold modChan
  extract_lets -merge -underBinder v0
  subst v0
  refine Rel.pool _ rfl rfl rfl (bit_of 7 hc rfl) ?_
  exact h

theorem modGrp_rel {ch : Nat} {s u : State} {x1 x2} (hc : 128 &&& ch = 128) (h : Rel ch s u) :
    Rel ch s (modGrp u x1 x2) := by
  unfold modGrp
  extract_lets -merge -underBinder v0
  subst v0
  refine Rel.pool _ rfl rfl rfl (bit_of 7 hc rfl) ?_
  exact h

theorem modSlot_rel {ch : Nat} {s u : State} {x1 x2} (hc : 16 &&& ch = 16) (h : Rel ch s u) :
    Rel ch s (modSlot u x1 x2) := by
  unfold modSlot
  refine Rel.slot _ (bit_of 4 hc rfl) ?_
  exact h

theorem modMov_rel {ch : Nat} {s u : State} {x1 x2} (hc : 2048 &&& ch = 2048) (h : Rel ch s u) :
    Rel ch s (modMov u x1 x2) := by
  unfold modMov
  extract_lets -merge -underBinder v0
  try clear_value v0
  refine Rel.mov _ (bit_of 11 hc rfl) ?_
  exact h

theorem modRef_rel {ch : Nat} {s u : State} {x1 x2} (hc : 4096 &&& ch = 4096) (h : Rel ch s u) :
    Rel ch s (modRef u x1 x2) := by
  unfold modRef
  extract_lets -merge -underBinder v0
  try clear_value v0
  refine Rel.time _ (bit_of 12 hc rfl) ?_
  exact h

theorem modOut_rel {ch : Nat} {s u : State} {x1 x2} (hc : 4096 &&& ch = 4096) (h : Rel ch s u) :
    Rel ch s (modOut u x1 x2) := by
  unfold modOut
  extract_lets -merge -underBinder v0
  try clear_value v0
  refine Rel.time _ (bit_of 12 hc rfl) ?_
  exact h

theorem modTake_rel {ch : Nat} {s u : State} {x1 x2} (hc : 4096 &&& ch = 4096) (h : Rel ch s u) :
    Rel ch s (modTake u x1 x2) := by
  unfold modTake
  extract_lets -merge -underBinder v0
  try clear_value v0
  refine Rel.time _ (bit_of 12 hc rfl) ?_
  exact h

theorem modQ_rel {ch : Nat} {s u : State} {x1 x2 x3} (hc : 65536 &&& ch = 65536) (h : Rel ch s u) :
    Rel ch s (modQ u x1 x2 x3) := by
  unfold modQ
  extract_lets -merge -underBinder v0
  try clear_value v0
  refine Rel.core _ (bit_of 16 hc rfl) ?_
  exact h

theorem modOutP_rel {ch : Nat} {s u : State} {x1 x2} (hc : 65536 &&& ch = 65536) (h : Rel ch s u) :
    Rel ch s (modOutP u x1 x2) := by
  unfold modOutP
  extract_lets -merge -underBinder v0
  try clear_value v0
  refine Rel.core _ (bit_of 16 hc rfl) ?_
  exact h

theorem modEcmp_rel {ch : Nat} {s u : State} {x1 x2} (hc : 65536 &&& ch = 65536) (h : Rel ch s u) :
    Rel ch s (modEcmp u x1 x2) := by
  unfold modEcmp
  extract_lets -merge -underBinder v0
  try clear_value v0
  refine Rel.core _ (bit_of 16 hc rfl) ?_
  exact h

theorem modRgrp_rel {ch : Nat} {s u : State} {x1 x2} (hc : 65536 &&& ch = 65536) (h : Rel ch s u) :
    Rel ch s (modRgrp u x1 x2) := by
  unfold modRgrp
  extract_lets -merge -underBinder v0
  try clear_value v0
  refine Rel.core _ (bit_of 16 hc rfl) ?_
  exact h

theorem modMir_rel {ch : Nat} {s u : State} {x1 x2} (hc : 65536 &&& ch = 65536) (h : Rel ch s u) :
    Rel ch s (modMir u x1 x2) := by
  unfold modMir
  extract_lets -merge -underBinder v0
  try clear_value v0
  refine Rel.core _ (bit_of 16 hc rfl) ?_
  exact h

theorem modCad_rel {ch : Nat} {s u : State} {x1 x2} (hc : 65536 &&& ch = 65536) (h : Rel ch s u) :
    Rel ch s (modCad u x1 x2) := by
  unfold modCad
  extract_lets -merge -underBinder v0
  try clear_value v0
  refine Rel.core _ (bit_of 16 hc rfl) ?_
  exact h

theorem modMeter_rel {ch : Nat} {s u : State} {x1 x2 x3} (hc : 32768 &&& ch = 32768) (h : Rel ch s u) :
    Rel ch s (modMeter u x1 x2 x3) := by
  unfold modMeter
  refine modQuire_rel (sub_of hc rfl) ?_
  exact h

theorem modLink_rel {ch : Nat} {s u : State} {x1 x2} (hc : 2 &&& ch = 2) (h : Rel ch s u) :
    Rel ch s (modLink u x1 x2) := by
  unfold modLink
  extract_lets -merge -underBinder v0 v1
  try clear_value v0
  try clear_value v1
  refine Rel.ite ?_ ?_
  · refine Rel.cmd _ (bit_of 1 hc rfl) ?_
    exact h
  · refine Rel.cmd _ (bit_of 1 hc rfl) ?_
    exact h

theorem emit_rel {ch : Nat} {s u : State} {x1} (hc : 4194304 &&& ch = 4194304) (h : Rel ch s u) :
    Rel ch s (emit u x1) := by
  unfold emit
  refine Rel.out _ ⟨_, rfl⟩ (bit_of 22 hc rfl) ?_
  exact h

theorem freeBelow_rel {ch : Nat} {s u : State} {x1} (hc : 8388608 &&& ch = 8388608) (h : Rel ch s u) :
    Rel ch s (freeBelow u x1).2 := by
  unfold freeBelow
  first | refine Rel.mk_snd ?_ | skip
  refine Rel.fresh _ (Nat.le_add_right _ _) (bit_of 23 hc rfl) ?_
  exact h

theorem freeW_rel {ch : Nat} {s u : State} (hc : 8388608 &&& ch = 8388608) (h : Rel ch s u) :
    Rel ch s (freeW u).2 := by
  unfold freeW
  first | refine Rel.mk_snd ?_ | skip
  refine Rel.fresh _ (Nat.le_add_right _ _) (bit_of 23 hc rfl) ?_
  exact h

theorem cntAdd_rel {ch : Nat} {s u : State} {x1 x2} (hc : 131072 &&& ch = 131072) (h : Rel ch s u) :
    Rel ch s (cntAdd u x1 x2) := by
  unfold cntAdd
  extract_lets -merge -underBinder v0
  try clear_value v0
  refine Rel.ite ?_ ?_
  · exact h
  · refine Rel.cnt _ (bit_of 17 hc rfl) ?_
    exact h

theorem cntSub_rel {ch : Nat} {s u : State} {x1 x2} (hc : 131072 &&& ch = 131072) (h : Rel ch s u) :
    Rel ch s (cntSub u x1 x2) := by
  unfold cntSub
  extract_lets -merge -underBinder v0
  try clear_value v0
  refine Rel.ite ?_ ?_
  · exact h
  · refine Rel.cnt _ (bit_of 17 hc rfl) ?_
    exact h

theorem countEv_rel {ch : Nat} {s u : State} {x1 x2 x3 x4} (hc : 131072 &&& ch = 131072) (h : Rel ch s u) :
    Rel ch s (countEv u x1 x2 x3 x4) := by
  unfold countEv
  refine Rel.foldl (fun u0 x0 hf0 => ?_) ?_
  · refine Rel.ite ?_ ?_
    · refine cntAdd_rel (sub_of hc rfl) ?_
      exact hf0
    · exact hf0
  · exact h

theorem portCount_rel {ch : Nat} {s u : State} {x1 x2 x3 x4} (hc : 131072 &&& ch = 131072) (h : Rel ch s u) :
    Rel ch s (portCount u x1 x2 x3 x4) := by
  unfold portCount
  refine countEv_rel (sub_of hc rfl) ?_
  refine cntAdd_rel (sub_of hc rfl) ?_
  exact h

theorem quireCount_rel {ch : Nat} {s u : State} {x1 x2 x3 x4} (hc : 131072 &&& ch = 131072) (h : Rel ch s u) :
    Rel ch s (quireCount u x1 x2 x3 x4) := by
  unfold quireCount
  refine countEv_rel (sub_of hc rfl) ?_
  refine cntAdd_rel (sub_of hc rfl) ?_
  exact h

theorem topDown_rel {ch : Nat} {s u : State} {x1 x2 x3 x4 x5} (hc : 131072 &&& ch = 131072) (h : Rel ch s u) :
    Rel ch s (topDown u x1 x2 x3 x4 x5) := by
  unfold topDown
  refine Rel.ite ?_ ?_
  · exact h
  · refine countEv_rel (sub_of hc rfl) ?_
    refine cntAdd_rel (sub_of hc rfl) ?_
    exact h

theorem tdWaste_rel {ch : Nat} {s u : State} {x1 x2 x3 x4} (hc : 131072 &&& ch = 131072) (h : Rel ch s u) :
    Rel ch s (tdWaste u x1 x2 x3 x4) := by
  unfold tdWaste
  refine topDown_rel (sub_of hc rfl) ?_
  refine cntSub_rel (sub_of hc rfl) ?_
  exact h

theorem standCount_rel {ch : Nat} {s u : State} {x1} (hc : 131072 &&& ch = 131072) (h : Rel ch s u) :
    Rel ch s (standCount u x1) := by
  unfold standCount
  extract_lets -merge -underBinder v0
  try clear_value v0
  refine Rel.ite ?_ ?_
  · exact h
  · refine cntAdd_rel (sub_of hc rfl) ?_
    exact h

theorem logEvent_rel {ch : Nat} {s u : State} {x1 x2 x3 x4} (hc : 131072 &&& ch = 131072) (h : Rel ch s u) :
    Rel ch s (logEvent u x1 x2 x3 x4) := by
  unfold logEvent
  extract_lets -merge -underBinder v0 v1 v2
  try clear_value v0
  try clear_value v1
  try clear_value v2
  refine Rel.cnt _ (bit_of 17 hc rfl) ?_
  exact h

theorem logMem_rel {ch : Nat} {s u : State} {x1 x2 x3 x4 x5} (hc : 131072 &&& ch = 131072) (h : Rel ch s u) :
    Rel ch s (logMem u x1 x2 x3 x4 x5) := by
  unfold logMem
  extract_lets -merge -underBinder v0 v1 v2
  try clear_value v0
  try clear_value v1
  try clear_value v2
  refine Rel.cnt _ (bit_of 17 hc rfl) ?_
  exact h

theorem logOpen_rel {ch : Nat} {s u : State} {x1 x2} (hc : 8519680 &&& ch = 8519680) (h : Rel ch s u) :
    Rel ch s (logOpen u x1 x2) := by
  unfold logOpen
  extract_lets -merge -underBinder v0
  have hv0 : Rel ch s v0.2 := by
    subst v0
    refine freeBelow_rel (sub_of hc rfl) ?_
    exact h
  try clear_value v0
  refine logEvent_rel (sub_of hc rfl) ?_
  exact hv0

theorem logAt_rel {ch : Nat} {s u : State} {x1 x2} (hc : 131072 &&& ch = 131072) (h : Rel ch s u) :
    Rel ch s (logAt u x1 x2) := by
  unfold logAt
  extract_lets -merge -underBinder v0
  try clear_value v0
  refine logEvent_rel (sub_of hc rfl) ?_
  exact h

theorem msixSend_rel {ch : Nat} {s u : State} {x1} (hc : 4194306 &&& ch = 4194306) (h : Rel ch s u) :
    Rel ch s (msixSend u x1) := by
  unfold msixSend
  extract_lets -merge -underBinder v0 v1 v2 v3 v4
  try clear_value v0
  try clear_value v1
  try clear_value v2
  try clear_value v3
  try clear_value v4
  refine Rel.ite ?_ ?_
  · refine Rel.cmd _ (bit_of 1 hc rfl) ?_
    exact h
  · refine Rel.ite ?_ ?_
    · refine emit_rel (sub_of hc rfl) ?_
      exact h
    · exact h

theorem vecSend_rel {ch : Nat} {s u : State} {x1 x2} (hc : 4194306 &&& ch = 4194306) (h : Rel ch s u) :
    Rel ch s (vecSend u x1 x2) := by
  unfold vecSend
  extract_lets -merge -underBinder v0
  subst v0
  refine Rel.ite ?_ ?_
  · refine emit_rel (sub_of hc rfl) ?_
    exact h
  · refine msixSend_rel (sub_of hc rfl) ?_
    exact h

theorem evtVec_rel {ch : Nat} {s u : State} {x1} (hc : 4195330 &&& ch = 4195330) (h : Rel ch s u) :
    Rel ch s (evtVec u x1) := by
  unfold evtVec
  extract_lets -merge -underBinder v0
  subst v0
  refine Rel.ite ?_ ?_
  · refine vecSend_rel (sub_of hc rfl) ?_
    refine Rel.modCtx (fun _ => rfl) (bit_of 10 hc rfl) ?_
    exact h
  · exact h

theorem evLatch_rel {ch : Nat} {s u : State} {x1 x2} (hc : 4326402 &&& ch = 4326402) (h : Rel ch s u) :
    Rel ch s (evLatch u x1 x2) := by
  unfold evLatch
  extract_lets -merge -underBinder v0 v1
  subst v0
  have hv1 : Rel ch s v1 := by
    subst v1
    refine Rel.modCtx (fun _ => rfl) (bit_of 10 hc rfl) ?_
    exact h
  try clear_value v1
  refine Rel.ite ?_ ?_
  · exact h
  · refine Rel.ite ?_ ?_
    · refine countEv_rel (sub_of hc rfl) ?_
      exact h
    · refine Rel.ite ?_ ?_
      · refine evtVec_rel (sub_of hc rfl) ?_
        exact hv1
      · exact hv1

theorem stewEv_rel {ch : Nat} {s u : State} (hc : 4326402 &&& ch = 4326402) (h : Rel ch s u) :
    Rel ch s (stewEv u) := by
  unfold stewEv
  refine evLatch_rel (sub_of hc rfl) ?_
  exact h

theorem powerEv_rel {ch : Nat} {s u : State} (hc : 4326402 &&& ch = 4326402) (h : Rel ch s u) :
    Rel ch s (powerEv u) := by
  unfold powerEv
  refine evLatch_rel (sub_of hc rfl) ?_
  exact h

theorem tenEv_rel {ch : Nat} {s u : State} {x1} (hc : 4326402 &&& ch = 4326402) (h : Rel ch s u) :
    Rel ch s (tenEv u x1) := by
  unfold tenEv
  refine evLatch_rel (sub_of hc rfl) ?_
  exact h

theorem tenEv?_rel {ch : Nat} {s u : State} {x1} (hc : 4326402 &&& ch = 4326402) (h : Rel ch s u) :
    Rel ch s (tenEv? u x1) := by
  unfold tenEv?
  split
  · refine tenEv_rel (sub_of hc rfl) ?_
    exact h
  · exact h

theorem stewIf_rel {ch : Nat} {s u : State} {x1 x2} (hc : 4326402 &&& ch = 4326402) (h : Rel ch s u) :
    Rel ch s (stewIf u x1 x2) := by
  unfold stewIf
  refine Rel.ite ?_ ?_
  · refine stewEv_rel (sub_of hc rfl) ?_
    exact h
  · exact h

theorem pldmEv_rel {ch : Nat} {s u : State} {x1} (hc : 2 &&& ch = 2) (h : Rel ch s u) :
    Rel ch s (pldmEv u x1) := by
  unfold pldmEv
  extract_lets -merge -underBinder v0
  try clear_value v0
  refine Rel.cmd _ (bit_of 1 hc rfl) ?_
  exact h

theorem tapEnd_rel {ch : Nat} {s u : State} (hc : 524288 &&& ch = 524288) (h : Rel ch s u) :
    Rel ch s (tapEnd u) := by
  unfold tapEnd
  extract_lets -merge -underBinder v0
  try clear_value v0
  refine Rel.ite ?_ ?_
  · refine Rel.tap _ (bit_of 19 hc rfl) ?_
    exact h
  · exact h

end Sys2Proof.Machine
end

