-- ==== Sys2Proof/Laws/RelDeckle.lean ====
section
/-!
SUPPORT. What each operation of Deckle.lean can change, and that it keeps what every command keeps (Laws/Rel.lean).
-/

namespace Sys2Proof.Machine

theorem dklLog_rel {ch : Nat} {s u : State} {x1 x2 x3 x4 x5 x6 x7} (hc : 4326914 &&& ch = 4326914) (h : Rel ch s u) :
    Rel ch s (dklLog u x1 x2 x3 x4 x5 x6 x7) := by
  unfold dklLog
  refine tenEv?_rel (sub_of hc rfl) (stewIf_rel (sub_of hc rfl) ?_)
  refine Rel.dkl _ ?_ (bit_of 9 hc rfl) h
  split <;> (unfold setDklEvent; split <;> rfl)

theorem dklRefuse_rel {ch : Nat} {s u : State} {x1 x2 x3 x4} (hc : 4326914 &&& ch = 4326914) (h : Rel ch s u) :
    Rel ch s (dklRefuse u x1 x2 x3 x4) := by
  unfold dklRefuse
  refine dklLog_rel (sub_of hc rfl) ?_
  exact h

end Sys2Proof.Machine
end

