-- ==== Sys2Proof/Laws/RelMgmt.lean ====
section
/-!
SUPPORT. What each operation of Mgmt.lean can change, and that it keeps what every command keeps (Laws/Rel.lean).
-/

namespace Sys2Proof.Machine

theorem modPeer_rel {ch : Nat} {s u : State} {x1 x2} (hc : 262144 &&& ch = 262144) (h : Rel ch s u) :
    Rel ch s (modPeer u x1 x2) := by
  unfold modPeer
  extract_lets -merge -underBinder v0
  try clear_value v0
  refine Rel.stk _ (bit_of 18 hc rfl) ?_
  exact h

theorem mgmtEmit_rel {ch : Nat} {s u : State} {x1 x2 x3} (hc : 12599296 &&& ch = 12599296) (h : Rel ch s u) :
    Rel ch s (mgmtEmit u x1 x2 x3) := by
  unfold mgmtEmit
  extract_lets -merge -underBinder v0 v1 v2
  have hv0 : Rel ch s v0.2 := by
    subst v0
    refine freeBelow_rel (sub_of hc rfl) ?_
    exact h
  try clear_value v0
  try clear_value v1
  try clear_value v2
  refine Rel.ite ?_ ?_
  · refine emit_rel (sub_of hc rfl) ?_
    refine modPort_rel (sub_of hc rfl) ?_
    exact hv0
  · refine emit_rel (sub_of hc rfl) ?_
    exact h

theorem mgmtSend_rel {ch : Nat} {s u : State} {x1 x2 x3} (hc : 12861440 &&& ch = 12861440) (h : Rel ch s u) :
    Rel ch s (mgmtSend u x1 x2 x3) := by
  unfold mgmtSend
  extract_lets -merge -underBinder v0 v1 v2
  try clear_value v0
  try clear_value v1
  try clear_value v2
  refine mgmtEmit_rel (sub_of hc rfl) ?_
  refine modPeer_rel (sub_of hc rfl) ?_
  exact h

theorem msgEv_rel {ch : Nat} {s u : State} {x1} (hc : 4588546 &&& ch = 4588546) (h : Rel ch s u) :
    Rel ch s (msgEv u x1) := by
  unfold msgEv
  extract_lets -merge -underBinder v0 v1 v2 v3
  try clear_value v0
  try clear_value v1
  try clear_value v2
  have hv3 : Rel ch s v3 := by
    subst v3
    refine Rel.stk _ (bit_of 18 hc rfl) ?_
    exact h
  try clear_value v3
  refine Rel.ite ?_ ?_
  · exact hv3
  · refine powerEv_rel (sub_of hc rfl) ?_
    exact hv3

theorem msgDrop_rel {ch : Nat} {s u : State} (hc : 262144 &&& ch = 262144) (h : Rel ch s u) :
    Rel ch s (msgDrop u) := by
  unfold msgDrop
  extract_lets -merge -underBinder v0
  try clear_value v0
  refine Rel.stk _ (bit_of 18 hc rfl) ?_
  exact h

theorem takeReady_rel {ch : Nat} {s u : State} {x1} (hc : 12861440 &&& ch = 12861440) (h : Rel ch s u) :
    Rel ch s (takeReady u x1) := by
  unfold takeReady
  extract_lets -merge -underBinder v0
  try clear_value v0
  refine Rel.ite ?_ ?_
  · refine mgmtSend_rel (sub_of hc rfl) ?_
    exact h
  · exact h

theorem takeDone_rel {ch : Nat} {s u : State} {x1} (hc : 12861440 &&& ch = 12861440) (h : Rel ch s u) :
    Rel ch s (takeDone u x1) := by
  unfold takeDone
  extract_lets -merge -underBinder v0
  try clear_value v0
  refine Rel.ite ?_ ?_
  · refine mgmtSend_rel (sub_of hc rfl) ?_
    exact h
  · exact h

end Sys2Proof.Machine
end

