-- ==== Sys2Proof/Laws/RelSeq.lean ====
section
/-!
SUPPORT. What each operation of Seq.lean can change, and that it keeps what every command keeps (Laws/Rel.lean).
-/

namespace Sys2Proof.Machine

theorem regs_rest (x : Ctx) : regs (rest x) = regs x := by
  unfold rest
  dsimp only
  split
  · split <;> rfl
  · rfl

theorem ringWrite_rel {ch : Nat} {s u : State} {x1 x2 x3} (hc : 4194304 &&& ch = 4194304) (h : Rel ch s u) :
    Rel ch s (ringWrite u x1 x2 x3) := by
  unfold ringWrite
  refine Rel.ite ?_ ?_
  · refine emit_rel (sub_of hc rfl) ?_
    exact h
  · refine emit_rel (sub_of hc rfl) ?_
    exact h

theorem cqWrite_rel {ch : Nat} {s u : State} {x1 x2} (hc : 4326402 &&& ch = 4326402) (h : Rel ch s u) :
    Rel ch s (cqWrite u x1 x2) := by
  unfold cqWrite
  extract_lets -merge -underBinder v0 v1 v2 v3 v4
  subst v0
  have hv1 : Rel ch s v1 := by
    subst v1
    refine ringWrite_rel (sub_of hc rfl) ?_
    exact h
  try clear_value v1
  try clear_value v2
  have hv3 : Rel ch s v3 := by
    subst v3
    refine Rel.modCtx (fun _ => rfl) (bit_of 10 hc rfl) ?_
    exact hv1
  try clear_value v3
  have hv4 : Rel ch s v4 := by
    subst v4
    refine countEv_rel (sub_of hc rfl) ?_
    exact hv3
  try clear_value v4
  refine Rel.ite ?_ ?_
  · refine vecSend_rel (sub_of hc rfl) ?_
    refine Rel.modCtx (fun _ => rfl) (bit_of 10 hc rfl) ?_
    exact hv4
  · exact hv4

theorem postRec_rel {ch : Nat} {s u : State} {x1 x2} (hc : 4326402 &&& ch = 4326402) (h : Rel ch s u) :
    Rel ch s (postRec u x1 x2) := by
  unfold postRec
  extract_lets -merge -underBinder v0 v1
  subst v0
  try clear_value v1
  refine Rel.ite ?_ ?_
  · refine Rel.modCtx (fun _ => rfl) (bit_of 10 hc rfl) ?_
    exact h
  · refine Rel.ite ?_ ?_
    · refine Rel.cmd _ (bit_of 1 hc rfl) ?_
      exact h
    · refine Rel.ite ?_ ?_
      · refine Rel.modCtx (fun _ => rfl) (bit_of 10 hc rfl) ?_
        exact h
      · refine cqWrite_rel (sub_of hc rfl) ?_
        exact h

theorem flushDue_rel {ch : Nat} {s u : State} {x0 x1} (hc : 4326402 &&& ch = 4326402) (h : Rel ch s u) :
    Rel ch s (flushDue x0 x1 u) := by
  unfold flushDue
  split
  · exact h
  · refine Rel.ite ?_ ?_
    · refine Rel.modCtx (fun _ => rfl) (bit_of 10 hc rfl) ?_
      exact h
    · refine flushDue_rel (sub_of hc rfl) ?_
      refine cqWrite_rel (sub_of hc rfl) ?_
      refine Rel.modCtx (fun _ => rfl) (bit_of 10 hc rfl) ?_
      exact h

theorem takeSlot_rel {ch : Nat} {s u : State} {x1} (hc : 1024 &&& ch = 1024) (h : Rel ch s u) :
    Rel ch s (takeSlot u x1) := by
  unfold takeSlot
  extract_lets -merge -underBinder v0 v1
  try clear_value v0
  subst v1
  refine Rel.seq _ ⟨rfl, rfl⟩ rfl (bit_of 10 hc rfl) ?_
  exact h

theorem blockResult_rel {ch : Nat} {s u : State} {x1 x2} (hc : 12862464 &&& ch = 12862464) (h : Rel ch s u) :
    Rel ch s (blockResult u x1 x2) := by
  unfold blockResult
  extract_lets -merge -underBinder v0 v1
  subst v0
  have hv1 : Rel ch s v1 := by
    subst v1
    refine mgmtSend_rel (sub_of hc rfl) ?_
    exact h
  try clear_value v1
  refine Rel.modCtx (fun _ => rfl) (bit_of 10 hc rfl) ?_
  exact hv1

theorem endEntry_rel {ch : Nat} {s u : State} {x1 x2} (hc : 1024 &&& ch = 1024) (h : Rel ch s u) :
    Rel ch s (endEntry u x1 x2) := by
  unfold endEntry
  refine Rel.modCtx (fun _ => by first | rfl | (split <;> rfl) | (dsimp only; split <;> rfl) | (unfold wake; split <;> rfl) | (simp only [regs_rest]; rfl) | (simp only [regs_rest])) (bit_of 10 hc rfl) ?_
  exact h

theorem takeHalt_rel {ch : Nat} {s u : State} {x1} (hc : 1024 &&& ch = 1024) (h : Rel ch s u) :
    Rel ch s (takeHalt u x1) := by
  unfold takeHalt
  refine Rel.modCtx (fun _ => by first | rfl | (split <;> rfl) | (dsimp only; split <;> rfl) | (unfold wake; split <;> rfl) | (simp only [regs_rest]; rfl) | (simp only [regs_rest])) (bit_of 10 hc rfl) ?_
  exact h

theorem moveOn_rel {ch : Nat} {s u : State} {x1} (hc : 12862464 &&& ch = 12862464) (h : Rel ch s u) :
    Rel ch s (moveOn u x1) := by
  unfold moveOn
  extract_lets -merge -underBinder v0
  subst v0
  split
  · refine endEntry_rel (sub_of hc rfl) ?_
    exact h
  · refine Rel.modCtx (fun _ => rfl) (bit_of 10 hc rfl) ?_
    exact h
  · extract_lets -merge -underBinder v1
    have hv1 : Rel ch s v1 := by
      subst v1
      refine Rel.modCtx (fun _ => rfl) (bit_of 10 hc rfl) ?_
      exact h
    try clear_value v1
    refine Rel.ite ?_ ?_
    · refine Rel.modCtx (fun _ => by first | rfl | (split <;> rfl) | (dsimp only; split <;> rfl) | (unfold wake; split <;> rfl) | (simp only [regs_rest]; rfl) | (simp only [regs_rest])) (bit_of 10 hc rfl) ?_
      refine blockResult_rel (sub_of hc rfl) ?_
      exact hv1
    · exact hv1
  · refine Rel.modCtx (fun _ => rfl) (bit_of 10 hc rfl) ?_
    exact h
  · exact h

theorem advance_rel {ch : Nat} {s u : State} {x1} (hc : 12862464 &&& ch = 12862464) (h : Rel ch s u) :
    Rel ch s (advance u x1) := by
  unfold advance
  refine takeHalt_rel (sub_of hc rfl) ?_
  refine moveOn_rel (sub_of hc rfl) ?_
  exact h

theorem recIf_rel {ch : Nat} {s u : State} {x1 x2 x3 x4 x5} (hc : 4326402 &&& ch = 4326402) (h : Rel ch s u) :
    Rel ch s (recIf u x1 x2 x3 x4 x5) := by
  unfold recIf
  extract_lets -merge -underBinder v0
  subst v0
  refine Rel.ite ?_ ?_
  · refine postRec_rel (sub_of hc rfl) ?_
    exact h
  · exact h

theorem unwait_rel {ch : Nat} {s u : State} {x1} (hc : 1024 &&& ch = 1024) (h : Rel ch s u) :
    Rel ch s (unwait u x1) := by
  unfold unwait
  refine Rel.modCtx (fun _ => rfl) (bit_of 10 hc rfl) ?_
  exact h

theorem retireCount_rel {ch : Nat} {s u : State} {x1 x2} (hc : 132096 &&& ch = 132096) (h : Rel ch s u) :
    Rel ch s (retireCount u x1 x2) := by
  unfold retireCount
  extract_lets -merge -underBinder v0
  have hv0 : Rel ch s v0 := by
    subst v0
    refine topDown_rel (sub_of hc rfl) ?_
    refine topDown_rel (sub_of hc rfl) ?_
    refine unwait_rel (sub_of hc rfl) ?_
    exact h
  try clear_value v0
  refine countEv_rel (sub_of hc rfl) ?_
  exact hv0

theorem retire_rel {ch : Nat} {s u : State} {x1 x2 x3 x4 x5} (hc : 12993538 &&& ch = 12993538) (h : Rel ch s u) :
    Rel ch s (retire u x1 x2 x3 x4 x5) := by
  unfold retire
  refine advance_rel (sub_of hc rfl) ?_
  refine recIf_rel (sub_of hc rfl) ?_
  refine retireCount_rel (sub_of hc rfl) ?_
  exact h

theorem retireK_rel {ch : Nat} {s u : State} {x1 x2 x3 x4 x5} (hc : 549864450 &&& ch = 549864450) (h : Rel ch s u) :
    Rel ch s (retireK u x1 x2 x3 x4 x5) := by
  unfold retireK
  refine retire_rel (sub_of hc rfl) ?_
  refine Rel.modCtx' (bit_of 10 hc rfl) (bit_of 29 hc rfl) ?_
  exact h

theorem retireSt_rel {ch : Nat} {s u : State} {x1 x2 x3 x4} (hc : 12993538 &&& ch = 12993538) (h : Rel ch s u) :
    Rel ch s (retireSt u x1 x2 x3 x4) := by
  unfold retireSt
  refine retire_rel (sub_of hc rfl) ?_
  exact h

theorem faultCtx_rel {ch : Nat} {s u : State} {x1 x2 x3} (hc : 12993538 &&& ch = 12993538) (h : Rel ch s u) :
    Rel ch s (faultCtx u x1 x2 x3) := by
  unfold faultCtx
  extract_lets -merge -underBinder v0 v1 v2 v3 v4 v5 v6
  subst v0
  have hv1 : Rel ch s v1 := by
    subst v1
    refine topDown_rel (sub_of hc rfl) ?_
    refine topDown_rel (sub_of hc rfl) ?_
    refine unwait_rel (sub_of hc rfl) ?_
    exact h
  try clear_value v1
  have hv2 : Rel ch s v2 := by
    subst v2
    refine countEv_rel (sub_of hc rfl) ?_
    exact hv1
  try clear_value v2
  have hv3 : Rel ch s v3 := by
    subst v3
    refine postRec_rel (sub_of hc rfl) ?_
    exact hv2
  try clear_value v3
  try clear_value v4
  have hv5 : Rel ch s v5 := by
    subst v5
    refine Rel.ite ?_ ?_
    · refine blockResult_rel (sub_of hc rfl) ?_
      exact hv3
    · exact hv3
  try clear_value v5
  have hv6 : Rel ch s v6 := by
    subst v6
    refine Rel.modCtx (fun _ => rfl) (bit_of 10 hc rfl) ?_
    exact hv5
  try clear_value v6
  refine stewEv_rel (sub_of hc rfl) ?_
  exact hv6

theorem asDebug_rel {ch : Nat} {s u : State} {x1} (hc : 1024 &&& ch = 1024) (h : Rel ch s u) :
    Rel ch s (asDebug u x1) := by
  unfold asDebug
  refine Rel.ite ?_ ?_
  · refine Rel.modCtx (fun _ => rfl) (bit_of 10 hc rfl) ?_
    exact h
  · exact h

theorem endTurn_rel {ch : Nat} {s u : State} {x1} (hc : 1024 &&& ch = 1024) (h : Rel ch s u) :
    Rel ch s (endTurn u x1) := by
  unfold endTurn
  extract_lets -merge -underBinder v0
  subst v0
  refine Rel.ite ?_ ?_
  · refine Rel.seq _ ⟨rfl, rfl⟩ rfl (bit_of 10 hc rfl) ?_
    exact h
  · exact h

theorem oxRun_rel {ch : Nat} {s u : State} {x0 x1 x2 x3 x4 f5} (hc : 12993538 &&& ch = 12993538) (hh5 : ∀ a0 a1, Rel ch s a0 → Rel ch s (f5 a0 a1)) (h : Rel ch s u) :
    Rel ch s (oxRun x0 x1 x2 x3 x4 f5 u) := by
  unfold oxRun
  extract_lets -merge -underBinder v0 v1
  have hv0 : Rel ch s v0 := by
    subst v0
    refine asDebug_rel (sub_of hc rfl) ?_
    exact h
  try clear_value v0
  have hv1 : Rel ch s v1 := by
    subst v1
    refine Rel.ite ?_ ?_
    · exact hv0
    · refine takeSlot_rel (sub_of hc rfl) ?_
      exact hv0
  try clear_value v1
  refine Rel.ite ?_ ?_
  · exact h
  · split
    · refine endTurn_rel (sub_of hc rfl) ?_
      refine faultCtx_rel (sub_of hc rfl) ?_
      exact hv1
    · extract_lets -merge -underBinder v2
      subst v2
      split
      · refine endTurn_rel (sub_of hc rfl) ?_
        refine faultCtx_rel (sub_of hc rfl) ?_
        exact hv1
      · refine Rel.ite ?_ ?_
        · refine endTurn_rel (sub_of hc rfl) ?_
          refine hh5 _ _ ?_
          exact hv1
        · refine endTurn_rel (sub_of hc rfl) ?_
          refine retireSt_rel (sub_of hc rfl) ?_
          exact hv1

theorem waitAgain_rel {ch : Nat} {s u : State} {x1} (hc : 1024 &&& ch = 1024) (h : Rel ch s u) :
    Rel ch s (waitAgain u x1) := by
  unfold waitAgain
  refine Rel.modCtx (fun _ => rfl) (bit_of 10 hc rfl) ?_
  exact h

theorem resumeCtx_rel {ch : Nat} {s u : State} {x1} (hc : 1024 &&& ch = 1024) (h : Rel ch s u) :
    Rel ch s (resumeCtx u x1) := by
  unfold resumeCtx
  extract_lets -merge -underBinder v0
  subst v0
  split
  · refine Rel.modCtx (fun _ => rfl) (bit_of 10 hc rfl) ?_
    exact h
  · extract_lets -merge -underBinder v1
    try clear_value v1
    refine Rel.ite ?_ ?_
    · refine Rel.modCtx (fun _ => by first | rfl | (split <;> rfl) | (dsimp only; split <;> rfl) | (unfold wake; split <;> rfl) | (simp only [regs_rest]; rfl) | (simp only [regs_rest])) (bit_of 10 hc rfl) ?_
      exact h
    · refine Rel.modCtx (fun _ => rfl) (bit_of 10 hc rfl) ?_
      exact h
  · exact h

theorem haltCtx_rel {ch : Nat} {s u : State} {x1} (hc : 1024 &&& ch = 1024) (h : Rel ch s u) :
    Rel ch s (haltCtx u x1) := by
  unfold haltCtx
  extract_lets -merge -underBinder v0
  subst v0
  split
  · split
    · refine Rel.modCtx (fun _ => rfl) (bit_of 10 hc rfl) ?_
      exact h
    · refine Rel.modCtx (fun _ => rfl) (bit_of 10 hc rfl) ?_
      exact h
    · refine Rel.modCtx (fun _ => rfl) (bit_of 10 hc rfl) ?_
      exact h
    · refine Rel.modCtx (fun _ => rfl) (bit_of 10 hc rfl) ?_
      exact h
  · refine Rel.modCtx (fun _ => rfl) (bit_of 10 hc rfl) ?_
    exact h
  · refine Rel.modCtx (fun _ => rfl) (bit_of 10 hc rfl) ?_
    exact h
  · exact h

theorem ringsOff_rel {ch : Nat} {s u : State} {x0 x2} (hc : 1026 &&& ch = 1026) (h : Rel ch s u) :
    Rel ch s (ringsOff x0 u x2) := by
  unfold ringsOff
  extract_lets -merge -underBinder v0 v1 v2 v3 v4 v5
  subst v0
  try clear_value v1
  try clear_value v2
  try clear_value v3
  have hv4 : Rel ch s v4 := by
    subst v4
    refine Rel.modCtx (fun _ => rfl) (bit_of 10 hc rfl) ?_
    exact h
  try clear_value v4
  try clear_value v5
  refine Rel.ite ?_ ?_
  · refine Rel.cmd _ (bit_of 1 hc rfl) ?_
    exact hv4
  · exact hv4

theorem ctxClear_rel {ch : Nat} {s u : State} {x1} (hc : 536871936 &&& ch = 536871936) (h : Rel ch s u) :
    Rel ch s (ctxClear u x1) := by
  unfold ctxClear
  refine Rel.modCtx' (bit_of 10 hc rfl) (bit_of 29 hc rfl) ?_
  exact h

theorem ctxRelease_rel {ch : Nat} {s u : State} {x1} (hc : 1024 &&& ch = 1024) (h : Rel ch s u) :
    Rel ch s (ctxRelease u x1) := by
  unfold ctxRelease
  refine Rel.modCtx (fun _ => by first | rfl | (split <;> rfl) | (dsimp only; split <;> rfl) | (unfold wake; split <;> rfl) | (simp only [regs_rest]; rfl) | (simp only [regs_rest])) (bit_of 10 hc rfl) ?_
  exact h

theorem finishWait_rel {ch : Nat} {s u : State} {x1 x2} (hc : 549864450 &&& ch = 549864450) (h : Rel ch s u) :
    Rel ch s (finishWait u x1 x2) := by
  unfold finishWait
  extract_lets -merge -underBinder v0 v1 v2
  have hv0 : Rel ch s v0 := by
    subst v0
    refine retireCount_rel (sub_of hc rfl) ?_
    exact h
  try clear_value v0
  have hv1 : Rel ch s v1 := by
    subst v1
    split
    · refine Rel.modCtx' (bit_of 10 hc rfl) (bit_of 29 hc rfl) ?_
      exact hv0
    · exact hv0
  try clear_value v1
  have hv2 : Rel ch s v2 := by
    subst v2
    split
    · refine postRec_rel (sub_of hc rfl) ?_
      exact hv1
    · exact hv1
  try clear_value v2
  refine advance_rel (sub_of hc rfl) ?_
  refine Rel.modCtx (fun _ => rfl) (bit_of 10 hc rfl) ?_
  exact hv2

theorem retireWaiters_rel {ch : Nat} {s u : State} {x1} (hc : 549864450 &&& ch = 549864450) (h : Rel ch s u) :
    Rel ch s (retireWaiters u x1) := by
  unfold retireWaiters
  refine Rel.forL (fun u0 x0 hf0 => ?_) ?_
  · refine Rel.ite ?_ ?_
    · refine finishWait_rel (sub_of hc rfl) ?_
      exact hf0
    · exact hf0
  · exact h

theorem waitWith_rel {ch : Nat} {s u : State} {x1 x2 x3 x4} (hc : 1024 &&& ch = 1024) (h : Rel ch s u) :
    Rel ch s (waitWith u x1 x2 x3 x4) := by
  unfold waitWith
  extract_lets -merge -underBinder v0 v1
  subst v0
  try clear_value v1
  refine Rel.modCtx (fun _ => rfl) (bit_of 10 hc rfl) ?_
  exact h

end Sys2Proof.Machine
end

