-- ==== Sys2Proof/Laws/RelControl.lean ====
section
/-!
SUPPORT. What each operation of Control.lean can change, and that it keeps what every command keeps (Laws/Rel.lean).
-/

namespace Sys2Proof.Machine

theorem execUndefinedOpcode_rel {ch : Nat} {s u t : State} {x0 x1 x2} (hc : 12993538 &&& ch = 12993538) (h : Rel ch s u)
    (ht : execUndefinedOpcode x0 x1 x2 u = .next t) : Rel ch s t := by
  unfold execUndefinedOpcode at ht
  refine Rel.unitOk ?_ ht
  extract_lets -merge -underBinder v0 v1
  have hv0 : Rel ch s v0 := by
    subst v0
    refine asDebug_rel (sub_of hc rfl) ?_
    exact h
  try clear_value v0
  have hv1 : Rel ch s v1 := by
    subst v1
    refine Rel.ite ?_ ?_
    · exact hv0
    · refine takeSlot_rel (sub_of hc rfl) ?_
      exact hv0
  try clear_value v1
  refine Rel.ite ?_ ?_
  · exact h
  · refine endTurn_rel (sub_of hc rfl) ?_
    refine faultCtx_rel (sub_of hc rfl) ?_
    exact hv1

theorem execNop_rel {ch : Nat} {s u t : State} {x0 x1} (hc : 12993538 &&& ch = 12993538) (h : Rel ch s u)
    (ht : execNop x0 x1 u = .next t) : Rel ch s t := by
  unfold execNop at ht
  refine Rel.unitOk ?_ ht
  refine oxRun_rel (sub_of hc rfl) (fun y1 y2 hf0 => ?_) ?_
  · refine retireSt_rel (sub_of hc rfl) ?_
    exact hf0
  · exact h

theorem execHalt_rel {ch : Nat} {s u t : State} {x0 x1} (hc : 12993538 &&& ch = 12993538) (h : Rel ch s u)
    (ht : execHalt x0 x1 u = .next t) : Rel ch s t := by
  unfold execHalt at ht
  refine Rel.unitOk ?_ ht
  refine oxRun_rel (sub_of hc rfl) (fun y1 y2 hf0 => ?_) ?_
  · refine Rel.modCtx (fun _ => rfl) (bit_of 10 hc rfl) ?_
    refine retireSt_rel (sub_of hc rfl) ?_
    exact hf0
  · exact h

theorem goTo_rel {ch : Nat} {s u : State} {x1 x2} (hc : 1024 &&& ch = 1024) (h : Rel ch s u) :
    Rel ch s (goTo u x1 x2) := by
  unfold goTo
  refine takeHalt_rel (sub_of hc rfl) ?_
  refine Rel.modCtx (fun _ => rfl) (bit_of 10 hc rfl) ?_
  exact h

theorem execJump_rel {ch : Nat} {s u t : State} {x0 x1} (hc : 12993538 &&& ch = 12993538) (h : Rel ch s u)
    (ht : execJump x0 x1 u = .next t) : Rel ch s t := by
  unfold execJump at ht
  refine Rel.unitOk ?_ ht
  refine oxRun_rel (sub_of hc rfl) (fun y1 y2 hf0 => ?_) ?_
  · refine goTo_rel (sub_of hc rfl) ?_
    refine recIf_rel (sub_of hc rfl) ?_
    refine retireCount_rel (sub_of hc rfl) ?_
    exact hf0
  · exact h

theorem execBr_rel {ch : Nat} {s u t : State} {x0 x1} (hc : 12993538 &&& ch = 12993538) (h : Rel ch s u)
    (ht : execBr x0 x1 u = .next t) : Rel ch s t := by
  unfold execBr at ht
  refine Rel.unitOk ?_ ht
  refine oxRun_rel (sub_of hc rfl) (fun y1 y2 hf0 => ?_) ?_
  · refine goTo_rel (sub_of hc rfl) ?_
    refine recIf_rel (sub_of hc rfl) ?_
    refine retireCount_rel (sub_of hc rfl) ?_
    exact hf0
  · exact h

theorem execCall_rel {ch : Nat} {s u t : State} {x0 x1} (hc : 12993538 &&& ch = 12993538) (h : Rel ch s u)
    (ht : execCall x0 x1 u = .next t) : Rel ch s t := by
  unfold execCall at ht
  refine Rel.unitOk ?_ ht
  refine oxRun_rel (sub_of hc rfl) (fun y1 y2 hf0 => ?_) ?_
  · extract_lets -merge -underBinder v3 v4
    try clear_value v3
    have hv4 : Rel ch s v4 := by
      subst v4
      refine retireCount_rel (sub_of hc rfl) ?_
      exact hf0
    try clear_value v4
    refine goTo_rel (sub_of hc rfl) ?_
    refine Rel.modCtx (fun _ => rfl) (bit_of 10 hc rfl) ?_
    exact hv4
  · exact h

theorem callRec_rel {ch : Nat} {s u : State} {x1 x2} (hc : 4326402 &&& ch = 4326402) (h : Rel ch s u) :
    Rel ch s (callRec u x1 x2) := by
  unfold callRec
  refine Rel.ite ?_ ?_
  · refine postRec_rel (sub_of hc rfl) ?_
    exact h
  · exact h

theorem endCalled_rel {ch : Nat} {s u : State} {x1 x2} (hc : 12862464 &&& ch = 12862464) (h : Rel ch s u) :
    Rel ch s (endCalled u x1 x2) := by
  unfold endCalled
  refine Rel.ite ?_ ?_
  · refine takeHalt_rel (sub_of hc rfl) ?_
    refine endEntry_rel (sub_of hc rfl) ?_
    exact h
  · refine Rel.ite ?_ ?_
    · refine advance_rel (sub_of hc rfl) ?_
      refine Rel.modCtx (fun _ => rfl) (bit_of 10 hc rfl) ?_
      exact h
    · refine takeHalt_rel (sub_of hc rfl) ?_
      refine Rel.modCtx (fun _ => by first | rfl | (split <;> rfl) | (dsimp only; split <;> rfl) | (unfold wake; split <;> rfl) | (simp only [regs_rest]; rfl) | (simp only [regs_rest])) (bit_of 10 hc rfl) ?_
      exact h

theorem execRet_rel {ch : Nat} {s u t : State} {x0 x1} (hc : 12993538 &&& ch = 12993538) (h : Rel ch s u)
    (ht : execRet x0 x1 u = .next t) : Rel ch s t := by
  unfold execRet at ht
  refine Rel.unitOk ?_ ht
  refine oxRun_rel (sub_of hc rfl) (fun y1 y2 hf0 => ?_) ?_
  · split
    · exact hf0
    · extract_lets -merge -underBinder v3 v4
      have hv3 : Rel ch s v3 := by
        subst v3
        refine recIf_rel (sub_of hc rfl) ?_
        refine retireCount_rel (sub_of hc rfl) ?_
        exact hf0
      try clear_value v3
      have hv4 : Rel ch s v4 := by
        subst v4
        refine callRec_rel (sub_of hc rfl) ?_
        refine Rel.modCtx (fun _ => rfl) (bit_of 10 hc rfl) ?_
        exact hv3
      try clear_value v4
      split
      · refine endCalled_rel (sub_of hc rfl) ?_
        exact hv4
      · refine goTo_rel (sub_of hc rfl) ?_
        exact hv4
  · exact h

theorem takeEvents_rel {ch : Nat} {s u : State} {x1 x2} (hc : 1024 &&& ch = 1024) (h : Rel ch s u) :
    Rel ch s (takeEvents u x1 x2).2 := by
  unfold takeEvents
  extract_lets -merge -underBinder v0
  try clear_value v0
  first | refine Rel.mk_snd ?_ | skip
  refine Rel.modCtx (fun _ => rfl) (bit_of 10 hc rfl) ?_
  exact h

theorem execWaitev_rel {ch : Nat} {s u t : State} {x0 x1} (hc : 549864450 &&& ch = 549864450) (h : Rel ch s u)
    (ht : execWaitev x0 x1 u = .next t) : Rel ch s t := by
  unfold execWaitev at ht
  refine Rel.unitOk ?_ ht
  refine oxRun_rel (sub_of hc rfl) (fun y1 y2 hf0 => ?_) ?_
  · extract_lets -merge -underBinder v3 v4
    try clear_value v3
    have hv4 : Rel ch s v4.2 := by
      subst v4
      refine takeEvents_rel (sub_of hc rfl) ?_
      exact hf0
    try clear_value v4
    refine Rel.ite ?_ ?_
    · refine retireK_rel (sub_of hc rfl) ?_
      exact hv4
    · refine waitWith_rel (sub_of hc rfl) ?_
      exact hf0
  · exact h

theorem execWaitSatisfied_rel {ch : Nat} {s u t : State} {x0} (hc : 549864450 &&& ch = 549864450) (h : Rel ch s u)
    (ht : execWaitSatisfied x0 u = .next t) : Rel ch s t := by
  unfold execWaitSatisfied at ht
  refine Rel.unitOk ?_ ht
  extract_lets -merge -underBinder v0
  subst v0
  split
  · extract_lets -merge -underBinder v1
    have hv1 : Rel ch s v1.2 := by
      subst v1
      refine takeEvents_rel (sub_of hc rfl) ?_
      exact h
    try clear_value v1
    refine Rel.ite ?_ ?_
    · refine finishWait_rel (sub_of hc rfl) ?_
      exact hv1
    · exact h
  · exact h

theorem execSignal_rel {ch : Nat} {s u t : State} {x0 x1} (hc : 12993538 &&& ch = 12993538) (h : Rel ch s u)
    (ht : execSignal x0 x1 u = .next t) : Rel ch s t := by
  unfold execSignal at ht
  refine Rel.unitOk ?_ ht
  refine Rel.ite ?_ ?_
  · exact h
  · refine oxRun_rel (sub_of hc rfl) (fun y1 y2 hf0 => ?_) ?_
    · extract_lets -merge -underBinder v3
      subst v3
      refine Rel.ite ?_ ?_
      · refine retireSt_rel (sub_of hc rfl) ?_
        exact hf0
      · refine retireSt_rel (sub_of hc rfl) ?_
        refine evLatch_rel (sub_of hc rfl) ?_
        exact hf0
    · exact h

theorem execSignalMask_rel {ch : Nat} {s u t : State} {x0 x1} (hc : 549864450 &&& ch = 549864450) (h : Rel ch s u)
    (ht : execSignalMask x0 x1 u = .next t) : Rel ch s t := by
  unfold execSignalMask at ht
  refine Rel.unitOk ?_ ht
  refine Rel.ite ?_ ?_
  · exact h
  · refine oxRun_rel (sub_of hc rfl) (fun y1 y2 hf0 => ?_) ?_
    · refine retireK_rel (sub_of hc rfl) ?_
      refine Rel.modCtx (fun _ => rfl) (bit_of 10 hc rfl) ?_
      exact hf0
    · exact h

theorem execFence_rel {ch : Nat} {s u t : State} {x0 x1} (hc : 12993538 &&& ch = 12993538) (h : Rel ch s u)
    (ht : execFence x0 x1 u = .next t) : Rel ch s t := by
  unfold execFence at ht
  refine Rel.unitOk ?_ ht
  refine oxRun_rel (sub_of hc rfl) (fun y1 y2 hf0 => ?_) ?_
  · refine Rel.ite ?_ ?_
    · refine retireSt_rel (sub_of hc rfl) ?_
      exact hf0
    · refine waitAgain_rel (sub_of hc rfl) ?_
      exact hf0
  · exact h

theorem execYield_rel {ch : Nat} {s u t : State} {x0 x1} (hc : 12993538 &&& ch = 12993538) (h : Rel ch s u)
    (ht : execYield x0 x1 u = .next t) : Rel ch s t := by
  unfold execYield at ht
  refine Rel.unitOk ?_ ht
  refine oxRun_rel (sub_of hc rfl) (fun y1 y2 hf0 => ?_) ?_
  · extract_lets -merge -underBinder v3 v4
    have hv3 : Rel ch s v3 := by
      subst v3
      refine retireSt_rel (sub_of hc rfl) ?_
      exact hf0
    try clear_value v3
    subst v4
    refine Rel.ite ?_ ?_
    · refine Rel.seq _ ⟨rfl, rfl⟩ rfl (bit_of 10 hc rfl) ?_
      exact hv3
    · exact hv3
  · exact h

end Sys2Proof.Machine
end

