-- ==== Sys2Proof/Laws/RelSheet.lean ====
section
/-!
SUPPORT. What each operation of Sheet.lean can change, and that it keeps what every command keeps (Laws/Rel.lean).
-/

namespace Sys2Proof.Machine

theorem dramWr_rel {ch : Nat} {s u : State} {x a d bad} (hc : 33554560 &&& ch = 33554560) (h : Rel ch s u) :
    Rel ch s (dramWr u x a d bad) :=
  Rel.poolMem _ (fun w => wf_wrBytes _ d w) rfl (bit_of 7 hc rfl) (bit_of 25 hc rfl) h

theorem setSheet_rel {ch : Nat} {s u : State} {x1 x2} (hc : 134217856 &&& ch = 134217856) (h : Rel ch s u) :
    Rel ch s (setSheet u x1 x2) := by
  unfold setSheet
  extract_lets -merge -underBinder v0
  subst v0
  refine Rel.poolSheet _ rfl rfl (bit_of 7 hc rfl) (bit_of 27 hc rfl) ?_
  exact h

theorem modUse_rel {ch : Nat} {s u : State} {x1 x2 x3} (hc : 128 &&& ch = 128) (h : Rel ch s u) :
    Rel ch s (modUse u x1 x2 x3) := by
  unfold modUse
  refine modGrp_rel (sub_of hc rfl) ?_
  exact h

theorem freeSlot_rel {ch : Nat} {s u : State} {x1 x2} (hc : 128 &&& ch = 128) (h : Rel ch s u) :
    Rel ch s (freeSlot u x1 x2) := by
  unfold freeSlot
  refine modUse_rel (sub_of hc rfl) ?_
  exact h

theorem loseChannel_rel {ch : Nat} {s u : State} {x1} (hc : 138544258 &&& ch = 138544258) (h : Rel ch s u) :
    Rel ch s (loseChannel u x1) := by
  unfold loseChannel
  refine Rel.foldl (fun u0 x0 hf0 => ?_) ?_
  · extract_lets -merge -underBinder v1
    try clear_value v1
    refine Rel.ite ?_ ?_
    · exact hf0
    · refine Rel.ite ?_ ?_
      · refine Rel.ite ?_ ?_
        · refine stewEv_rel (sub_of hc rfl) ?_
          refine freeSlot_rel (sub_of hc rfl) ?_
          refine setSheet_rel (sub_of hc rfl) ?_
          exact hf0
        · refine stewEv_rel (sub_of hc rfl) ?_
          refine setSheet_rel (sub_of hc rfl) ?_
          exact hf0
      · refine Rel.ite ?_ ?_
        · refine Rel.ite ?_ ?_
          · refine stewEv_rel (sub_of hc rfl) ?_
            refine freeSlot_rel (sub_of hc rfl) ?_
            refine setSheet_rel (sub_of hc rfl) ?_
            exact hf0
          · refine stewEv_rel (sub_of hc rfl) ?_
            refine setSheet_rel (sub_of hc rfl) ?_
            exact hf0
        · exact hf0
  · exact h

end Sys2Proof.Machine
end

