-- ==== Sys2Proof/Laws/RelPkts.lean ====
section
/-!
SUPPORT. What each operation of Pkts.lean can change, and that it keeps what every command keeps (Laws/Rel.lean).
-/

namespace Sys2Proof.Machine

theorem outEv_rel {ch : Nat} {s u : State} {x1} (hc : 4326402 &&& ch = 4326402) (h : Rel ch s u) :
    Rel ch s (outEv u x1) := by
  unfold outEv
  extract_lets -merge -underBinder v0 v1
  have hv0 : Rel ch s v0 := by
    subst v0
    refine stewEv_rel (sub_of hc rfl) ?_
    exact h
  try clear_value v0
  try clear_value v1
  refine Rel.ite ?_ ?_
  · refine Rel.ite ?_ ?_
    · refine tenEv_rel (sub_of hc rfl) ?_
      exact hv0
    · exact hv0
  · exact hv0

theorem qMarks_rel {ch : Nat} {s u : State} {x1 x2} (hc : 4391938 &&& ch = 4391938) (h : Rel ch s u) :
    Rel ch s (qMarks u x1 x2) := by
  unfold qMarks
  extract_lets -merge -underBinder v0 v1 v2 v3 v4 v5 v6
  try clear_value v0
  try clear_value v1
  try clear_value v2
  try clear_value v3
  try clear_value v4
  try clear_value v5
  have hv6 : Rel ch s v6 := by
    subst v6
    refine modQ_rel (sub_of hc rfl) ?_
    exact h
  try clear_value v6
  refine Rel.ite ?_ ?_
  · exact h
  · refine Rel.ite ?_ ?_
    · refine outEv_rel (sub_of hc rfl) ?_
      refine modOutP_rel (sub_of hc rfl) ?_
      exact hv6
    · exact hv6

theorem critEv_rel {ch : Nat} {s u : State} {x1 x2 x3} (hc : 4391938 &&& ch = 4391938) (h : Rel ch s u) :
    Rel ch s (critEv u x1 x2 x3) := by
  unfold critEv
  refine Rel.ite ?_ ?_
  · exact h
  · refine Rel.ite ?_ ?_
    · refine outEv_rel (sub_of hc rfl) ?_
      refine modOutP_rel (sub_of hc rfl) ?_
      exact h
    · exact h

theorem syncBuf_rel {ch : Nat} {s u : State} (hc : 4391938 &&& ch = 4391938) (h : Rel ch s u) :
    Rel ch s (syncBuf u) := by
  unfold syncBuf
  extract_lets -merge -underBinder v0 v1 v2 v3 v4 v5 v6 v7 v8 v9 v10 v11
  try clear_value v0
  try clear_value v1
  try clear_value v2
  try clear_value v3
  try clear_value v4
  try clear_value v5
  try clear_value v6
  try clear_value v7
  try clear_value v8
  try clear_value v9
  try clear_value v10
  have hv11 : Rel ch s v11 := by
    subst v11
    refine Rel.core _ (bit_of 16 hc rfl) ?_
    exact h
  try clear_value v11
  refine stewIf_rel (sub_of hc rfl) ?_
  refine stewIf_rel (sub_of hc rfl) ?_
  refine stewIf_rel (sub_of hc rfl) ?_
  exact hv11

theorem setPkts_rel {ch : Nat} {s u : State} {x1} (hc : 4391938 &&& ch = 4391938) (h : Rel ch s u) :
    Rel ch s (setPkts u x1) := by
  unfold setPkts
  extract_lets -merge -underBinder v0
  try clear_value v0
  refine syncBuf_rel (sub_of hc rfl) ?_
  refine Rel.core _ (bit_of 16 hc rfl) ?_
  exact h

theorem putPkts_rel {ch : Nat} {s u : State} {x1} (hc : 65536 &&& ch = 65536) (h : Rel ch s u) :
    Rel ch s (putPkts u x1) := by
  unfold putPkts
  extract_lets -merge -underBinder v0
  try clear_value v0
  refine Rel.core _ (bit_of 16 hc rfl) ?_
  exact h

theorem modPkt_rel {ch : Nat} {s u : State} {x1 x2} (hc : 4391938 &&& ch = 4391938) (h : Rel ch s u) :
    Rel ch s (modPkt u x1 x2) := by
  unfold modPkt
  refine setPkts_rel (sub_of hc rfl) ?_
  exact h

theorem movePkt_rel {ch : Nat} {s u : State} {x1} (hc : 4391938 &&& ch = 4391938) (h : Rel ch s u) :
    Rel ch s (movePkt u x1) := by
  unfold movePkt
  refine setPkts_rel (sub_of hc rfl) ?_
  exact h

theorem freeStore_rel {ch : Nat} {s u : State} {x1} (hc : 65536 &&& ch = 65536) (h : Rel ch s u) :
    Rel ch s (freeStore u x1) := by
  unfold freeStore
  split
  · extract_lets -merge -underBinder v0
    try clear_value v0
    refine Rel.core _ (bit_of 16 hc rfl) ?_
    exact h
  · exact h

theorem dropPkt_rel {ch : Nat} {s u : State} {x1} (hc : 4391938 &&& ch = 4391938) (h : Rel ch s u) :
    Rel ch s (dropPkt u x1) := by
  unfold dropPkt
  extract_lets -merge -underBinder v0
  have hv0 : Rel ch s v0 := by
    subst v0
    refine setPkts_rel (sub_of hc rfl) ?_
    refine freeStore_rel (sub_of hc rfl) ?_
    exact h
  try clear_value v0
  refine Rel.ite ?_ ?_
  · refine qMarks_rel (sub_of hc rfl) ?_
    exact hv0
  · exact hv0

theorem addPkt_rel {ch : Nat} {s u : State} {x1} (hc : 21169154 &&& ch = 21169154) (h : Rel ch s u) :
    Rel ch s (addPkt u x1) := by
  unfold addPkt
  extract_lets -merge -underBinder v0
  have hv0 : Rel ch s v0 := by
    subst v0
    refine setPkts_rel (sub_of hc rfl) ?_
    exact h
  have k : v0.nextId ≤ u.nextId + 1 := by
    have e : v0.nextId = u.nextId := by
      subst v0
      exact (setPkts_rel (ch := 4391938) rfl (Rel.refl u)).f24 rfl
    omega
  try clear_value v0
  refine Rel.nextId _ k (bit_of 24 hc rfl) ?_
  exact hv0

theorem toLoad_rel {ch : Nat} {s u : State} {x1 x2} (hc : 1024 &&& ch = 1024) (h : Rel ch s u) :
    Rel ch s (toLoad u x1 x2) := by
  unfold toLoad
  refine Rel.modCtx (fun _ => rfl) (bit_of 10 hc rfl) ?_
  exact h

theorem toStore_rel {ch : Nat} {s u : State} {x1 x2} (hc : 4326402 &&& ch = 4326402) (h : Rel ch s u) :
    Rel ch s (toStore u x1 x2) := by
  unfold toStore
  extract_lets -merge -underBinder v0
  have hv0 : Rel ch s v0 := by
    subst v0
    refine Rel.modCtx (fun _ => rfl) (bit_of 10 hc rfl) ?_
    exact h
  try clear_value v0
  refine Rel.ite ?_ ?_
  · refine evLatch_rel (sub_of hc rfl) ?_
    exact hv0
  · exact hv0

theorem toMove_rel {ch : Nat} {s u : State} {x1 x2 x3 x4} (hc : 2048 &&& ch = 2048) (h : Rel ch s u) :
    Rel ch s (toMove u x1 x2 x3 x4) := by
  unfold toMove
  extract_lets -merge -underBinder v0 v1 v2
  try clear_value v0
  try clear_value v1
  try clear_value v2
  refine modMov_rel (sub_of hc rfl) ?_
  exact h

theorem toFlush_rel {ch : Nat} {s u : State} {x1} (hc : 2048 &&& ch = 2048) (h : Rel ch s u) :
    Rel ch s (toFlush u x1) := by
  unfold toFlush
  refine modMov_rel (sub_of hc rfl) ?_
  exact h

theorem staleDrop_rel {ch : Nat} {s u : State} {x1} (hc : 131072 &&& ch = 131072) (h : Rel ch s u) :
    Rel ch s (staleDrop u x1) := by
  unfold staleDrop
  refine countEv_rel (sub_of hc rfl) ?_
  exact h

theorem answerTo_rel {ch : Nat} {s u : State} {x1 x2 x3 x4} (hc : 21171202 &&& ch = 21171202) (h : Rel ch s u) :
    Rel ch s (answerTo u x1 x2 x3 x4) := by
  unfold answerTo
  split
  · refine Rel.ite ?_ ?_
    · exact h
    · refine Rel.ite ?_ ?_
      · refine addPkt_rel (sub_of hc rfl) ?_
        exact h
      · refine qMarks_rel (sub_of hc rfl) ?_
        refine addPkt_rel (sub_of hc rfl) ?_
        exact h
  · refine Rel.ite ?_ ?_
    · refine staleDrop_rel (sub_of hc rfl) ?_
      exact h
    · refine toLoad_rel (sub_of hc rfl) ?_
      exact h
  · refine Rel.ite ?_ ?_
    · refine staleDrop_rel (sub_of hc rfl) ?_
      exact h
    · refine toStore_rel (sub_of hc rfl) ?_
      exact h
  · refine toMove_rel (sub_of hc rfl) ?_
    exact h
  · refine toMove_rel (sub_of hc rfl) ?_
    exact h
  · refine toMove_rel (sub_of hc rfl) ?_
    exact h
  · refine toFlush_rel (sub_of hc rfl) ?_
    exact h
  · exact h

theorem rwSettle_rel {ch : Nat} {s u : State} {x1} (hc : 21171202 &&& ch = 21171202) (h : Rel ch s u) :
    Rel ch s (rwSettle u x1) := by
  unfold rwSettle
  split
  · exact h
  · extract_lets -merge -underBinder v0
    subst v0
    try dsimp -zeta -zetaUnused -proj only
    refine Rel.ite ?_ ?_
    · extract_lets -merge -underBinder v1 v2
      try clear_value v1
      try clear_value v2
      refine Rel.core _ (bit_of 16 hc rfl) ?_
      exact h
    · split
      · exact h
      · extract_lets -merge -underBinder v3 v4 v5 v6
        have hv3 : Rel ch s v3 := by
          subst v3
          refine answerTo_rel (sub_of hc rfl) ?_
          exact h
        try clear_value v3
        have hv4 : Rel ch s v4 := by
          subst v4
          refine Rel.ite ?_ ?_
          · exact hv3
          · split
            · refine tenEv?_rel (sub_of hc rfl) ?_
              exact hv3
            · exact hv3
        try clear_value v4
        try clear_value v5
        try clear_value v6
        refine Rel.core _ (bit_of 16 hc rfl) ?_
        exact hv4

theorem memberOutcome_rel {ch : Nat} {s u : State} {x1 x2 x3} (hc : 21171202 &&& ch = 21171202) (h : Rel ch s u) :
    Rel ch s (memberOutcome u x1 x2 x3) := by
  unfold memberOutcome
  split
  · exact h
  · extract_lets -merge -underBinder v0 v1 v2 v3
    try clear_value v0
    try clear_value v1
    have hv2 : Rel ch s v2 := by
      subst v2
      refine Rel.core _ (bit_of 16 hc rfl) ?_
      exact h
    try clear_value v2
    have hv3 : Rel ch s v3 := by
      subst v3
      refine Rel.ite ?_ ?_
      · exact hv2
      · refine logEvent_rel (sub_of hc rfl) ?_
        refine modRgrp_rel (sub_of hc rfl) ?_
        exact hv2
    try clear_value v3
    refine Rel.ite ?_ ?_
    · exact h
    · refine rwSettle_rel (sub_of hc rfl) ?_
      exact hv3

theorem gatherDone_rel {ch : Nat} {s u : State} {x1 x2 x3} (hc : 21171202 &&& ch = 21171202) (h : Rel ch s u) :
    Rel ch s (gatherDone u x1 x2 x3) := by
  unfold gatherDone
  extract_lets -merge -underBinder v0 v1 v2
  try clear_value v0
  try clear_value v1
  try clear_value v2
  split
  · extract_lets -merge -underBinder v3
    have hv3 : Rel ch s v3 := by
      subst v3
      refine Rel.foldl (fun u4 x4 hf4 => ?_) ?_
      · refine answerTo_rel (sub_of hc rfl) ?_
        exact hf4
      · exact h
    try clear_value v3
    refine Rel.ite ?_ ?_
    · refine Rel.ite ?_ ?_
      · refine answerTo_rel (sub_of hc rfl) ?_
        exact hv3
      · exact hv3
    · refine answerTo_rel (sub_of hc rfl) ?_
      exact h
  · refine answerTo_rel (sub_of hc rfl) ?_
    exact h

theorem partDone_rel {ch : Nat} {s u : State} {x1 x2 x3 x4} (hc : 21171202 &&& ch = 21171202) (h : Rel ch s u) :
    Rel ch s (partDone u x1 x2 x3 x4) := by
  unfold partDone
  split
  · exact h
  · extract_lets -merge -underBinder v0 v1 v2 v3 v4 v5 v6
    try clear_value v0
    try clear_value v1
    try clear_value v2
    try clear_value v3
    try clear_value v4
    try clear_value v5
    try clear_value v6
    refine Rel.ite ?_ ?_
    · refine gatherDone_rel (sub_of hc rfl) ?_
      refine Rel.core _ (bit_of 16 hc rfl) ?_
      exact h
    · refine Rel.core _ (bit_of 16 hc rfl) ?_
      exact h

theorem answer_rel {ch : Nat} {s u : State} {x1 x2 x3 x4} (hc : 21171202 &&& ch = 21171202) (h : Rel ch s u) :
    Rel ch s (answer u x1 x2 x3 x4) := by
  unfold answer
  split
  · refine partDone_rel (sub_of hc rfl) ?_
    exact h
  · refine memberOutcome_rel (sub_of hc rfl) ?_
    exact h
  · refine answerTo_rel (sub_of hc rfl) ?_
    exact h

theorem memWrEv_rel {ch : Nat} {s u : State} {x1} (hc : 4326402 &&& ch = 4326402) (h : Rel ch s u) :
    Rel ch s (memWrEv u x1) := by
  unfold memWrEv
  split
  · refine tenEv?_rel (sub_of hc rfl) ?_
    exact h
  · exact h

theorem answerBad_rel {ch : Nat} {s u : State} {x1 x2} (hc : 21171202 &&& ch = 21171202) (h : Rel ch s u) :
    Rel ch s (answerBad u x1 x2) := by
  unfold answerBad
  split
  · refine memberOutcome_rel (sub_of hc rfl) ?_
    exact h
  · refine answer_rel (sub_of hc rfl) ?_
    exact h

theorem refuse_rel {ch : Nat} {s u : State} {x1} (hc : 21171202 &&& ch = 21171202) (h : Rel ch s u) :
    Rel ch s (refuse u x1) := by
  unfold refuse
  refine answerBad_rel (sub_of hc rfl) ?_
  refine memWrEv_rel (sub_of hc rfl) ?_
  exact h

theorem standIn_rel {ch : Nat} {s u : State} {x1 x2 x3 x4} (hc : 21171202 &&& ch = 21171202) (h : Rel ch s u) :
    Rel ch s (standIn u x1 x2 x3 x4) := by
  unfold standIn
  extract_lets -merge -underBinder v0 v1 v2 v3 v4 v5
  try clear_value v0
  have hv1 : Rel ch s v1 := by
    subst v1
    refine standCount_rel (sub_of hc rfl) ?_
    exact h
  try clear_value v1
  have hv2 : Rel ch s v2 := by
    subst v2
    refine logEvent_rel (sub_of hc rfl) ?_
    exact hv1
  try clear_value v2
  try clear_value v3
  have hv4 : Rel ch s v4 := by
    subst v4
    refine Rel.ite ?_ ?_
    · exact hv1
    · refine Rel.cnt _ (bit_of 17 hc rfl) ?_
      exact hv2
  try clear_value v4
  have hv5 : Rel ch s v5 := by
    subst v5
    refine Rel.ite ?_ ?_
    · refine tdWaste_rel (sub_of hc rfl) ?_
      exact hv4
    · exact hv4
  try clear_value v5
  refine answerBad_rel (sub_of hc rfl) ?_
  refine memWrEv_rel (sub_of hc rfl) ?_
  exact hv5

theorem fallenAns_rel {ch : Nat} {s u : State} {x1} (hc : 21171202 &&& ch = 21171202) (h : Rel ch s u) :
    Rel ch s (fallenAns u x1) := by
  unfold fallenAns
  refine answer_rel (sub_of hc rfl) ?_
  refine memWrEv_rel (sub_of hc rfl) ?_
  exact h

end Sys2Proof.Machine
end

