-- ==== Sys2Proof/Laws/RelRoute.lean ====
section
/-!
SUPPORT. What each operation of Route.lean can change, and that it keeps what every command keeps (Laws/Rel.lean).
-/

namespace Sys2Proof.Machine

theorem ecmpFail_rel {ch : Nat} {s u : State} {x1} (hc : 65536 &&& ch = 65536) (h : Rel ch s u) :
    Rel ch s (ecmpFail u x1) := by
  unfold ecmpFail
  refine Rel.forL (fun u0 x0 hf0 => ?_) ?_
  · extract_lets -merge -underBinder v1 v2 v3 v4
    try clear_value v1
    try clear_value v2
    try clear_value v3
    try clear_value v4
    refine modEcmp_rel (sub_of hc rfl) ?_
    exact hf0
  · exact h

end Sys2Proof.Machine
end

