-- ==== Sys2Proof/Laws/RelHome.lean ====
section
/-!
SUPPORT. What each operation of Home.lean can change, and that it keeps what every command keeps (Laws/Rel.lean).
-/

namespace Sys2Proof.Machine

theorem setDir_rel {ch : Nat} {s u : State} {x1 x2} (hc : 256 &&& ch = 256) (h : Rel ch s u) :
    Rel ch s (setDir u x1 x2) := by
  unfold setDir
  extract_lets -merge -underBinder v0
  try clear_value v0
  refine Rel.home _ (bit_of 8 hc rfl) ?_
  exact h

theorem freeDir_rel {ch : Nat} {s u : State} {x1} (hc : 256 &&& ch = 256) (h : Rel ch s u) :
    Rel ch s (freeDir u x1) := by
  unfold freeDir
  refine setDir_rel (sub_of hc rfl) ?_
  exact h

theorem setTxn_rel {ch : Nat} {s u : State} {x1} (hc : 256 &&& ch = 256) (h : Rel ch s u) :
    Rel ch s (setTxn u x1) := by
  unfold setTxn
  extract_lets -merge -underBinder v0 v1
  try clear_value v0
  try clear_value v1
  refine Rel.home _ (bit_of 8 hc rfl) ?_
  exact h

theorem openTxn_rel {ch : Nat} {s u : State} {x1} (hc : 256 &&& ch = 256) (h : Rel ch s u) :
    Rel ch s (openTxn u x1) := by
  unfold openTxn
  extract_lets -merge -underBinder v0 v1
  try clear_value v0
  try clear_value v1
  refine Rel.home _ (bit_of 8 hc rfl) ?_
  exact h

theorem dropTxn_rel {ch : Nat} {s u : State} {x1} (hc : 256 &&& ch = 256) (h : Rel ch s u) :
    Rel ch s (dropTxn u x1) := by
  unfold dropTxn
  extract_lets -merge -underBinder v0 v1
  try clear_value v0
  have hv1 : Rel ch s v1 := by
    subst v1
    refine Rel.home _ (bit_of 8 hc rfl) ?_
    exact h
  try clear_value v1
  split
  · extract_lets -merge -underBinder v2
    try clear_value v2
    refine Rel.ite ?_ ?_
    · refine setDir_rel (sub_of hc rfl) ?_
      exact hv1
    · exact hv1
  · exact hv1

theorem dirLog_rel {ch : Nat} {s u : State} {x1 x2 x3 x4 x5} (hc : 4326658 &&& ch = 4326658) (h : Rel ch s u) :
    Rel ch s (dirLog u x1 x2 x3 x4 x5) := by
  unfold dirLog
  extract_lets -merge -underBinder v0 v1 v2 v3 v4 v5 v6 v7 v8 v9 v10 v11
  try clear_value v0
  try clear_value v1
  try clear_value v2
  try clear_value v3
  try clear_value v4
  have hv5 : Rel ch s v5 := by
    subst v5
    refine Rel.home _ (bit_of 8 hc rfl) ?_
    exact h
  try clear_value v5
  have hv6 : Rel ch s v6 := by
    subst v6
    refine stewIf_rel (sub_of hc rfl) ?_
    exact hv5
  try clear_value v6
  have hv7 : Rel ch s v7 := by
    subst v7
    refine stewIf_rel (sub_of hc rfl) ?_
    exact hv6
  try clear_value v7
  have hv8 : Rel ch s v8 := by
    subst v8
    refine stewIf_rel (sub_of hc rfl) ?_
    exact hv7
  try clear_value v8
  have hv9 : Rel ch s v9 := by
    subst v9
    refine stewIf_rel (sub_of hc rfl) ?_
    exact hv8
  try clear_value v9
  have hv10 : Rel ch s v10 := by
    subst v10
    refine stewIf_rel (sub_of hc rfl) ?_
    exact hv9
  try clear_value v10
  have hv11 : Rel ch s v11 := by
    subst v11
    refine stewIf_rel (sub_of hc rfl) ?_
    exact hv10
  try clear_value v11
  refine Rel.ite ?_ ?_
  · refine tenEv?_rel (sub_of hc rfl) ?_
    exact hv11
  · exact hv11

theorem issueTxn_rel {ch : Nat} {s u : State} {x1} (hc : 21169410 &&& ch = 21169410) (h : Rel ch s u) :
    Rel ch s (issueTxn u x1).1 := by
  unfold issueTxn
  extract_lets -merge -underBinder v0
  try clear_value v0
  refine Rel.foldl1 (fun u1 x1 hf1 => ?_) ?_
  · extract_lets -merge -underBinder v2 v3 v4 v5 v6 v7
    have hv2 : Rel ch s v2 := by
      subst v2
      exact hf1
    try clear_value v2
    try clear_value v3
    try clear_value v4
    try clear_value v5
    try clear_value v6
    have hv7 : Rel ch s v7 := by
      subst v7
      refine Rel.home _ (bit_of 8 hc rfl) ?_
      exact hv2
    try clear_value v7
    split
    · exact hf1
    · split
      · first | refine Rel.mk_fst ?_ | skip
        exact hv2
      · first | refine Rel.mk_fst ?_ | skip
        refine countEv_rel (sub_of hc rfl) ?_
        refine addPkt_rel (sub_of hc rfl) ?_
        exact hv7
  · first | refine Rel.mk_fst ?_ | skip
    exact h

theorem flushTenant_rel {ch : Nat} {s u : State} {x1} (hc : 21171458 &&& ch = 21171458) (h : Rel ch s u) :
    Rel ch s (flushTenant u x1) := by
  unfold flushTenant
  extract_lets -merge -underBinder v0 v1 v2 v3 v4 v5 v6
  try clear_value v0
  try clear_value v1
  try clear_value v2
  try clear_value v3
  have hv4 : Rel ch s v4 := by
    subst v4
    refine Rel.foldl (fun u7 x7 hf7 => ?_) ?_
    · refine dropTxn_rel (sub_of hc rfl) ?_
      exact hf7
    · exact h
  try clear_value v4
  try clear_value v5
  have hv6 : Rel ch s v6 := by
    subst v6
    refine Rel.home _ (bit_of 8 hc rfl) ?_
    exact hv4
  try clear_value v6
  refine Rel.foldl (fun u8 x8 hf8 => ?_) ?_
  · refine fallenAns_rel (sub_of hc rfl) ?_
    exact hf8
  · exact hv6

theorem domainFall_rel {ch : Nat} {s u : State} {x1 x2 x3 x4} (hc : 29584642 &&& ch = 29584642) (h : Rel ch s u) :
    Rel ch s (domainFall u x1 x2 x3 x4) := by
  unfold domainFall
  extract_lets -merge -underBinder v0 v1 v2 v3 v4 v5 v6 v7 v8 v9 v10 v11 v12 v13
  try clear_value v0
  try clear_value v1
  try clear_value v2
  have hv3 : Rel ch s v3 := by
    subst v3
    refine modTen_rel (sub_of hc rfl) ?_
    exact h
  try clear_value v3
  have hv4 : Rel ch s v4 := by
    subst v4
    refine Rel.forL (fun u14 x14 hf14 => ?_) ?_
    · refine emit_rel (sub_of hc rfl) ?_
      exact hf14
    · exact hv3
  try clear_value v4
  try clear_value v5
  have hv6 : Rel ch s v6 := by
    subst v6
    refine Rel.foldl (fun u15 x15 hf15 => ?_) ?_
    · refine mgmtEmit_rel (sub_of hc rfl) ?_
      exact hf15
    · exact hv4
  try clear_value v6
  have hv7 : Rel ch s v7 := by
    subst v7
    refine flushTenant_rel (sub_of hc rfl) ?_
    exact hv6
  try clear_value v7
  try clear_value v8
  try clear_value v9
  have hv10 : Rel ch s v10 := by
    subst v10
    refine Rel.home _ (bit_of 8 hc rfl) ?_
    exact hv7
  try clear_value v10
  try clear_value v11
  try clear_value v12
  have hv13 : Rel ch s v13 := by
    subst v13
    refine Rel.ite ?_ ?_
    · refine dirLog_rel (sub_of hc rfl) ?_
      exact hv10
    · refine tenEv_rel (sub_of hc rfl) ?_
      refine stewIf_rel (sub_of hc rfl) ?_
      refine Rel.home _ (bit_of 8 hc rfl) ?_
      exact hv10
  try clear_value v13
  refine Rel.ite ?_ ?_
  · refine modTen_rel (sub_of hc rfl) ?_
    exact h
  · refine evLatch_rel (sub_of hc rfl) ?_
    exact hv13

theorem issueSnoops_rel {ch : Nat} {s u : State} (hc : 29584642 &&& ch = 29584642) (h : Rel ch s u) :
    Rel ch s (issueSnoops u) := by
  unfold issueSnoops
  refine Rel.foldl (fun u0 x0 hf0 => ?_) ?_
  · split
    · exact hf0
    · extract_lets -merge -underBinder v1
      have hv1 : Rel ch s v1.1 := by
        subst v1
        refine issueTxn_rel (sub_of hc rfl) ?_
        exact hf0
      try clear_value v1
      split
      · exact hv1
      · split
        · refine domainFall_rel (sub_of hc rfl) ?_
          exact hv1
        · exact hv1
  · exact h

theorem logCe_rel {ch : Nat} {s u : State} {x1 x2 x3} (hc : 4326530 &&& ch = 4326530) (h : Rel ch s u) :
    Rel ch s (logCe u x1 x2 x3) := by
  unfold logCe
  extract_lets -merge -underBinder v0 v1 v2 v3
  try clear_value v0
  have hv1 : Rel ch s v1 := by
    subst v1
    refine countEv_rel (sub_of hc rfl) ?_
    exact h
  try clear_value v1
  try clear_value v2
  have hv3 : Rel ch s v3 := by
    subst v3
    refine modChan_rel (sub_of hc rfl) ?_
    exact hv1
  try clear_value v3
  split
  · extract_lets -merge -underBinder v4 v5 v6
    try clear_value v4
    try clear_value v5
    have hv6 : Rel ch s v6 := by
      subst v6
      refine modChan_rel (sub_of hc rfl) ?_
      exact hv3
    try clear_value v6
    refine Rel.ite ?_ ?_
    · refine stewIf_rel (sub_of hc rfl) ?_
      refine modChan_rel (sub_of hc rfl) ?_
      exact hv6
    · exact hv6
  · extract_lets -merge -underBinder v7
    have hv7 : Rel ch s v7 := by
      subst v7
      refine modChan_rel (sub_of hc rfl) ?_
      exact hv3
    try clear_value v7
    refine Rel.ite ?_ ?_
    · refine modChan_rel (sub_of hc rfl) ?_
      exact hv3
    · refine stewIf_rel (sub_of hc rfl) ?_
      exact hv7

theorem logUe_rel {ch : Nat} {s u : State} {x1 x2 x3 x4} (hc : 4326530 &&& ch = 4326530) (h : Rel ch s u) :
    Rel ch s (logUe u x1 x2 x3 x4) := by
  unfold logUe
  extract_lets -merge -underBinder v0 v1 v2 v3
  try clear_value v0
  try clear_value v1
  try clear_value v2
  have hv3 : Rel ch s v3 := by
    subst v3
    refine modChan_rel (sub_of hc rfl) ?_
    exact h
  try clear_value v3
  split
  · refine tenEv?_rel (sub_of hc rfl) ?_
    refine stewIf_rel (sub_of hc rfl) ?_
    refine modChan_rel (sub_of hc rfl) ?_
    exact hv3
  · refine stewIf_rel (sub_of hc rfl) ?_
    refine modChan_rel (sub_of hc rfl) ?_
    exact hv3
  · refine tenEv?_rel (sub_of hc rfl) ?_
    refine stewIf_rel (sub_of hc rfl) ?_
    refine modChan_rel (sub_of hc rfl) ?_
    refine countEv_rel (sub_of hc rfl) ?_
    exact hv3

theorem writeBack_rel {ch : Nat} {s u : State} {x1 x2} (hc : 33554560 &&& ch = 33554560) (h : Rel ch s u) :
    Rel ch s (writeBack u x1 x2) := by
  unfold writeBack
  extract_lets -merge -underBinder v0 v1
  try clear_value v0
  have hv1 : Rel ch s v1 := by
    subst v1
    refine dramWr_rel (sub_of hc rfl) ?_
    exact h
  try clear_value v1
  split
  · refine dramWr_rel (sub_of hc rfl) ?_
    exact hv1
  · exact hv1

theorem homeAns_rel {ch : Nat} {s u : State} {x1 x2} (hc : 21171202 &&& ch = 21171202) (h : Rel ch s u) :
    Rel ch s (homeAns u x1 x2) := by
  unfold homeAns
  extract_lets -merge -underBinder v0
  have hv0 : Rel ch s v0 := by
    subst v0
    split
    · extract_lets -merge -underBinder v1
      try clear_value v1
      refine Rel.ite ?_ ?_
      · exact h
      · refine Rel.core _ (bit_of 16 hc rfl) ?_
        exact h
    · exact h
  try clear_value v0
  refine answer_rel (sub_of hc rfl) ?_
  exact hv0

theorem grantDir_rel {ch : Nat} {s u : State} {x1 x2 x3} (hc : 256 &&& ch = 256) (h : Rel ch s u) :
    Rel ch s (grantDir u x1 x2 x3) := by
  unfold grantDir
  extract_lets -merge -underBinder v0
  try clear_value v0
  split
  · refine setDir_rel (sub_of hc rfl) ?_
    exact h
  · refine Rel.ite ?_ ?_
    · refine setDir_rel (sub_of hc rfl) ?_
      exact h
    · refine Rel.ite ?_ ?_
      · refine setDir_rel (sub_of hc rfl) ?_
        exact h
      · refine setDir_rel (sub_of hc rfl) ?_
        exact h

theorem closeTxn_rel {ch : Nat} {s u : State} {x1} (hc : 256 &&& ch = 256) (h : Rel ch s u) :
    Rel ch s (closeTxn u x1).1 := by
  unfold closeTxn
  first | refine Rel.mk_fst ?_ | skip
  refine dropTxn_rel (sub_of hc rfl) ?_
  exact h

theorem startWrite_rel {ch : Nat} {s u : State} {x1 x2 x3} (hc : 256 &&& ch = 256) (h : Rel ch s u) :
    Rel ch s (startWrite u x1 x2 x3) := by
  unfold startWrite
  extract_lets -merge -underBinder v0 v1
  try clear_value v0
  try clear_value v1
  refine setTxn_rel (sub_of hc rfl) ?_
  exact h

theorem withData_rel {ch : Nat} {s u : State} {x1 x2 x3} (hc : 21171458 &&& ch = 21171458) (h : Rel ch s u) :
    Rel ch s (withData u x1 x2 x3).1 := by
  unfold withData
  split
  · refine closeTxn_rel (sub_of hc rfl) ?_
    exact h
  · extract_lets -merge -underBinder v0
    try clear_value v0
    split
    · extract_lets -merge -underBinder v1
      have hv1 : Rel ch s v1 := by
        subst v1
        split
        · refine grantDir_rel (sub_of hc rfl) ?_
          exact h
        · exact h
      try clear_value v1
      refine closeTxn_rel (sub_of hc rfl) ?_
      refine homeAns_rel (sub_of hc rfl) ?_
      exact hv1
    · extract_lets -merge -underBinder v2
      have hv2 : Rel ch s v2 := by
        subst v2
        split
        · refine grantDir_rel (sub_of hc rfl) ?_
          exact h
        · exact h
      try clear_value v2
      refine closeTxn_rel (sub_of hc rfl) ?_
      refine homeAns_rel (sub_of hc rfl) ?_
      exact hv2
    · split
      · refine closeTxn_rel (sub_of hc rfl) ?_
        refine homeAns_rel (sub_of hc rfl) ?_
        exact h
      · first | refine Rel.mk_fst ?_ | skip
        refine startWrite_rel (sub_of hc rfl) ?_
        exact h
    · first | refine Rel.mk_fst ?_ | skip
      refine startWrite_rel (sub_of hc rfl) ?_
      exact h
    · first | refine Rel.mk_fst ?_ | skip
      refine startWrite_rel (sub_of hc rfl) ?_
      exact h
    · first | refine Rel.mk_fst ?_ | skip
      refine startWrite_rel (sub_of hc rfl) ?_
      exact h
    · refine closeTxn_rel (sub_of hc rfl) ?_
      refine homeAns_rel (sub_of hc rfl) ?_
      exact h

theorem chanRefuse_rel {ch : Nat} {s u : State} {x1 x2 x3} (hc : 21171330 &&& ch = 21171330) (h : Rel ch s u) :
    Rel ch s (chanRefuse u x1 x2 x3) := by
  unfold chanRefuse
  extract_lets -merge -underBinder v0
  try clear_value v0
  refine Rel.ite ?_ ?_
  · refine standIn_rel (sub_of hc rfl) ?_
    exact h
  · refine homeAns_rel (sub_of hc rfl) ?_
    refine logUe_rel (sub_of hc rfl) ?_
    exact h

theorem afterSnoops_rel {ch : Nat} {s u : State} {x1} (hc : 21171586 &&& ch = 21171586) (h : Rel ch s u) :
    Rel ch s (afterSnoops u x1).1 := by
  unfold afterSnoops
  extract_lets -merge -underBinder v0
  try clear_value v0
  split
  · split
    · first | refine Rel.mk_fst ?_ | skip
      refine startWrite_rel (sub_of hc rfl) ?_
      exact h
    · extract_lets -merge -underBinder v1
      have hv1 : Rel ch s v1 := by
        subst v1
        split
        · refine freeDir_rel (sub_of hc rfl) ?_
          exact h
        · exact h
      try clear_value v1
      refine closeTxn_rel (sub_of hc rfl) ?_
      exact hv1
  · split
    · refine closeTxn_rel (sub_of hc rfl) ?_
      refine chanRefuse_rel (sub_of hc rfl) ?_
      exact h
    · split
      · split
        · first | refine Rel.mk_fst ?_ | skip
          refine startWrite_rel (sub_of hc rfl) ?_
          exact h
        · split
          · refine withData_rel (sub_of hc rfl) ?_
            exact h
          · first | refine Rel.mk_fst ?_ | skip
            refine setTxn_rel (sub_of hc rfl) ?_
            exact h
      · split
        · first | refine Rel.mk_fst ?_ | skip
          refine startWrite_rel (sub_of hc rfl) ?_
          exact h
        · split
          · refine withData_rel (sub_of hc rfl) ?_
            exact h
          · first | refine Rel.mk_fst ?_ | skip
            refine setTxn_rel (sub_of hc rfl) ?_
            exact h
      · split
        · extract_lets -merge -underBinder v2
          have hv2 : Rel ch s v2 := by
            subst v2
            split
            · refine grantDir_rel (sub_of hc rfl) ?_
              exact h
            · exact h
          try clear_value v2
          refine closeTxn_rel (sub_of hc rfl) ?_
          refine homeAns_rel (sub_of hc rfl) ?_
          exact hv2
        · split
          · refine withData_rel (sub_of hc rfl) ?_
            exact h
          · first | refine Rel.mk_fst ?_ | skip
            refine setTxn_rel (sub_of hc rfl) ?_
            exact h
      · split
        · refine withData_rel (sub_of hc rfl) ?_
          exact h
        · first | refine Rel.mk_fst ?_ | skip
          refine setTxn_rel (sub_of hc rfl) ?_
          exact h

theorem writeDone_rel {ch : Nat} {s u : State} {x1} (hc : 21171458 &&& ch = 21171458) (h : Rel ch s u) :
    Rel ch s (writeDone u x1).1 := by
  unfold writeDone
  split
  · refine closeTxn_rel (sub_of hc rfl) ?_
    exact h
  · extract_lets -merge -underBinder v0 v1
    have hv0 : Rel ch s v0 := by
      subst v0
      split
      · extract_lets -merge -underBinder v2
        try clear_value v2
        refine Rel.ite ?_ ?_
        · exact h
        · refine freeDir_rel (sub_of hc rfl) ?_
          exact h
      · exact h
    try clear_value v0
    try clear_value v1
    refine closeTxn_rel (sub_of hc rfl) ?_
    refine homeAns_rel (sub_of hc rfl) ?_
    exact hv0

theorem countKind_rel {ch : Nat} {s u : State} {x1 x2} (hc : 131072 &&& ch = 131072) (h : Rel ch s u) :
    Rel ch s (countKind u x1 x2) := by
  unfold countKind
  split
  · refine countEv_rel (sub_of hc rfl) ?_
    exact h
  · exact h

theorem takeWay_rel {ch : Nat} {s u : State} {x1} (hc : 131072 &&& ch = 131072) (h : Rel ch s u) :
    Rel ch s (takeWay u x1) := by
  unfold takeWay
  extract_lets -merge -underBinder v0
  try clear_value v0
  refine Rel.ite ?_ ?_
  · refine cntAdd_rel (sub_of hc rfl) ?_
    exact h
  · exact h

theorem newEntry_rel {ch : Nat} {s u : State} {x1 x2 x3} (hc : 131328 &&& ch = 131328) (h : Rel ch s u) :
    Rel ch s (newEntry u x1 x2 x3) := by
  unfold newEntry
  refine setDir_rel (sub_of hc rfl) ?_
  refine takeWay_rel (sub_of hc rfl) ?_
  exact h

theorem evictClean_rel {ch : Nat} {s u : State} {x1} (hc : 21171458 &&& ch = 21171458) (h : Rel ch s u) :
    Rel ch s (evictClean u x1) := by
  unfold evictClean
  extract_lets -merge -underBinder v0
  have hv0 : Rel ch s v0 := by
    subst v0
    split
    · extract_lets -merge -underBinder v1 v2
      try clear_value v1
      try clear_value v2
      refine Rel.ite ?_ ?_
      · exact h
      · refine Rel.ite ?_ ?_
        · refine freeDir_rel (sub_of hc rfl) ?_
          exact h
        · refine setDir_rel (sub_of hc rfl) ?_
          exact h
    · exact h
  try clear_value v0
  refine homeAns_rel (sub_of hc rfl) ?_
  exact hv0

theorem beginReq_rel {ch : Nat} {s u : State} {x1} (hc : 29584770 &&& ch = 29584770) (h : Rel ch s u) :
    Rel ch s (beginReq u x1).1 := by
  unfold beginReq
  extract_lets -merge -underBinder v0 v1 v2 v3 v4 v5 v6 v7 v8 v9 v10 v11 v12 v13
  try clear_value v0
  try clear_value v1
  try clear_value v2
  have hv3 : Rel ch s v3 := by
    subst v3
    refine countKind_rel (sub_of hc rfl) ?_
    exact h
  try clear_value v3
  have hv4 : Rel ch s v4 := by
    subst v4
    refine Rel.ite ?_ ?_
    · refine dirLog_rel (sub_of hc rfl) ?_
      exact hv3
    · exact hv3
  try clear_value v4
  try clear_value v5
  try clear_value v6
  try clear_value v7
  try clear_value v8
  have hv9 : Rel ch s v9 := by
    subst v9
    refine Rel.ite ?_ ?_
    · refine dirLog_rel (sub_of hc rfl) ?_
      exact hv4
    · exact hv4
  try clear_value v9
  try clear_value v10
  try clear_value v11
  have hv12 : Rel ch s v12 := by
    subst v12
    refine Rel.ite ?_ ?_
    · refine countEv_rel (sub_of hc rfl) ?_
      exact hv9
    · exact hv9
  try clear_value v12
  try clear_value v13
  split
  · first | refine Rel.mk_fst ?_ | skip
    refine fallenAns_rel (sub_of hc rfl) ?_
    exact hv4
  · split
    · first | refine Rel.mk_fst ?_ | skip
      refine evictClean_rel (sub_of hc rfl) ?_
      exact hv4
    · split
      · extract_lets -merge -underBinder v14
        have hv14 : Rel ch s v14 := by
          subst v14
          refine openTxn_rel (sub_of hc rfl) ?_
          refine setDir_rel (sub_of hc rfl) ?_
          exact hv12
        try clear_value v14
        split
        · refine afterSnoops_rel (sub_of hc rfl) ?_
          exact hv14
        · first | refine Rel.mk_fst ?_ | skip
          refine issueSnoops_rel (sub_of hc rfl) ?_
          exact hv14
      · split
        · split
          · extract_lets -merge -underBinder v15
            try clear_value v15
            refine afterSnoops_rel (sub_of hc rfl) ?_
            refine openTxn_rel (sub_of hc rfl) ?_
            refine newEntry_rel (sub_of hc rfl) ?_
            exact hv12
          · extract_lets -merge -underBinder v16 v17
            try clear_value v16
            have hv17 : Rel ch s v17.2 := by
              subst v17
              refine freeBelow_rel (sub_of hc rfl) ?_
              exact hv12
            try clear_value v17
            split
            · extract_lets -merge -underBinder v18
              try clear_value v18
              refine afterSnoops_rel (sub_of hc rfl) ?_
              refine openTxn_rel (sub_of hc rfl) ?_
              exact hv12
            · extract_lets -merge -underBinder v19 v20 v21 v22
              try clear_value v19
              try clear_value v20
              have hv21 : Rel ch s v21 := by
                subst v21
                refine countEv_rel (sub_of hc rfl) ?_
                refine openTxn_rel (sub_of hc rfl) ?_
                refine setDir_rel (sub_of hc rfl) ?_
                exact hv17
              try clear_value v21
              have hv22 : Rel ch s v22 := by
                subst v22
                refine openTxn_rel (sub_of hc rfl) ?_
                exact hv21
              try clear_value v22
              first | refine Rel.mk_fst ?_ | skip
              refine issueSnoops_rel (sub_of hc rfl) ?_
              exact hv22
        · refine afterSnoops_rel (sub_of hc rfl) ?_
          refine openTxn_rel (sub_of hc rfl) ?_
          exact hv12

theorem runChain_rel {ch : Nat} {s u : State} {x0 x1} (hc : 29584770 &&& ch = 29584770) (h : Rel ch s u) :
    Rel ch s (runChain x0 x1 u) := by
  unfold runChain
  split
  · exact h
  · split
    · refine setTxn_rel (sub_of hc rfl) ?_
      exact h
    · extract_lets -merge -underBinder v6
      try clear_value v6
      refine Rel.ite ?_ ?_
      · refine runChain_rel (sub_of hc rfl) ?_
        refine beginReq_rel (sub_of hc rfl) ?_
        exact h
      · refine Rel.home _ (bit_of 8 hc rfl) ?_
        exact h

theorem settle_rel {ch : Nat} {s : State} {u} {x0} (hc : 29584770 &&& ch = 29584770) (h : Rel ch s u.1) :
    Rel ch s (settle x0 u) := by
  unfold settle
  extract_lets -merge -underBinder v0 v1
  have hv0 : Rel ch s v0 := by
    subst v0
    exact h
  try clear_value v0
  have hv1 : Rel ch s v1 := by
    subst v1
    refine Rel.ite ?_ ?_
    · split
      · split
        · extract_lets -merge -underBinder v2 v3
          try clear_value v2
          have hv3 : Rel ch s v3.1 := by
            subst v3
            refine afterSnoops_rel (sub_of hc rfl) ?_
            refine setTxn_rel (sub_of hc rfl) ?_
            refine newEntry_rel (sub_of hc rfl) ?_
            exact hv0
          try clear_value v3
          refine runChain_rel (sub_of hc rfl) ?_
          exact hv3
        · exact hv0
      · exact hv0
    · exact hv0
  try clear_value v1
  refine issueSnoops_rel (sub_of hc rfl) ?_
  refine runChain_rel (sub_of hc rfl) ?_
  exact hv1

theorem crossEvd_rel {ch : Nat} {s u : State} {x1 x2} (hc : 54726018 &&& ch = 54726018) (h : Rel ch s u) :
    Rel ch s (crossEvd u x1 x2) := by
  unfold crossEvd
  extract_lets -merge -underBinder v0 v1
  have hv0 : Rel ch s v0 := by
    subst v0
    refine countKind_rel (sub_of hc rfl) ?_
    exact h
  try clear_value v0
  have hv1 : Rel ch s v1 := by
    subst v1
    refine writeBack_rel (sub_of hc rfl) ?_
    exact hv0
  try clear_value v1
  refine homeAns_rel (sub_of hc rfl) ?_
  refine setTxn_rel (sub_of hc rfl) ?_
  exact hv1

theorem takeReq_rel {ch : Nat} {s u : State} {x1} (hc : 63139202 &&& ch = 63139202) (h : Rel ch s u) :
    Rel ch s (takeReq u x1) := by
  unfold takeReq
  extract_lets -merge -underBinder v0 v1 v2
  try clear_value v0
  have hv1 : Rel ch s v1 := by
    subst v1
    refine Rel.home _ (bit_of 8 hc rfl) ?_
    exact h
  try clear_value v1
  try clear_value v2
  split
  · refine Rel.ite ?_ ?_
    · refine crossEvd_rel (sub_of hc rfl) ?_
      exact hv1
    · refine Rel.ite ?_ ?_
      · refine evictClean_rel (sub_of hc rfl) ?_
        refine countKind_rel (sub_of hc rfl) ?_
        exact hv1
      · refine setTxn_rel (sub_of hc rfl) ?_
        exact hv1
  · refine settle_rel (sub_of hc rfl) ?_
    refine beginReq_rel (sub_of hc rfl) ?_
    exact hv1

theorem homeOp_rel {ch : Nat} {s u : State} {x0 x1} (hc : 63139202 &&& ch = 63139202) (h : Rel ch s u) :
    Rel ch s (homeOp x0 x1 u) := by
  unfold homeOp
  split
  · refine Rel.ite ?_ ?_
    · refine takeReq_rel (sub_of hc rfl) ?_
      exact h
    · exact h
  · exact h

theorem biResponse_rel {ch : Nat} {s u : State} {x0 x1 x2 x3} (hc : 63139202 &&& ch = 63139202) (h : Rel ch s u) :
    Rel ch s (biResponse x0 x1 x2 x3 u) := by
  unfold biResponse
  split
  · refine dirLog_rel (sub_of hc rfl) ?_
    exact h
  · extract_lets -merge -underBinder v0 v1 v2 v3 v4 v5
    have hv0 : Rel ch s v0 := by
      subst v0
      refine Rel.ite ?_ ?_
      · refine writeBack_rel (sub_of hc rfl) ?_
        exact h
      · exact h
    try clear_value v0
    try clear_value v1
    try clear_value v2
    have hv3 : Rel ch s v3 := by
      subst v3
      split
      · extract_lets -merge -underBinder v6
        try clear_value v6
        refine Rel.ite ?_ ?_
        · refine setDir_rel (sub_of hc rfl) ?_
          exact hv0
        · exact hv0
      · exact hv0
    try clear_value v3
    have hv4 : Rel ch s v4 := by
      subst v4
      split
      · extract_lets -merge -underBinder v7
        try clear_value v7
        refine Rel.ite ?_ ?_
        · refine setDir_rel (sub_of hc rfl) ?_
          exact hv3
        · exact hv3
      · exact hv3
    try clear_value v4
    have hv5 : Rel ch s v5 := by
      subst v5
      refine setTxn_rel (sub_of hc rfl) ?_
      exact hv4
    try clear_value v5
    refine Rel.ite ?_ ?_
    · refine dirLog_rel (sub_of hc rfl) ?_
      exact h
    · refine Rel.ite ?_ ?_
      · refine settle_rel (sub_of hc rfl) ?_
        refine afterSnoops_rel (sub_of hc rfl) ?_
        exact hv5
      · refine issueSnoops_rel (sub_of hc rfl) ?_
        exact hv5

theorem snoopTimeout_rel {ch : Nat} {s u : State} {x0 x1} (hc : 29584642 &&& ch = 29584642) (h : Rel ch s u) :
    Rel ch s (snoopTimeout x0 x1 u) := by
  unfold snoopTimeout
  split
  · exact h
  · split
    · refine Rel.ite ?_ ?_
      · refine domainFall_rel (sub_of hc rfl) ?_
        exact h
      · exact h
    · exact h

theorem eccLog_rel {ch : Nat} {s u : State} {x1 x2} (hc : 4326530 &&& ch = 4326530) (h : Rel ch s u) :
    Rel ch s (eccLog u x1 x2) := by
  unfold eccLog
  split
  · refine logCe_rel (sub_of hc rfl) ?_
    exact h
  · exact h

theorem dramReadDone_rel {ch : Nat} {s u : State} {x0 x1 x2} (hc : 63139202 &&& ch = 63139202) (h : Rel ch s u) :
    Rel ch s (dramReadDone x0 x1 x2 u) := by
  unfold dramReadDone
  split
  · exact h
  · extract_lets -merge -underBinder v0 v1 v2 v3 v4 v5
    try clear_value v0
    have hv1 : Rel ch s v1 := by
      subst v1
      refine countEv_rel (sub_of hc rfl) ?_
      exact h
    try clear_value v1
    have hv2 : Rel ch s v2 := by
      subst v2
      refine topDown_rel (sub_of hc rfl) ?_
      exact hv1
    try clear_value v2
    have hv3 : Rel ch s v3 := by
      subst v3
      refine eccLog_rel (sub_of hc rfl) ?_
      exact hv2
    try clear_value v3
    try clear_value v4
    have hv5 : Rel ch s v5 := by
      subst v5
      refine Rel.ite ?_ ?_
      · refine modChan_rel (sub_of hc rfl) ?_
        exact hv3
      · exact hv3
    try clear_value v5
    refine Rel.ite ?_ ?_
    · exact h
    · refine Rel.ite ?_ ?_
      · split
        · refine settle_rel (sub_of hc rfl) ?_
          refine closeTxn_rel (sub_of hc rfl) ?_
          refine chanRefuse_rel (sub_of hc rfl) ?_
          exact hv2
        · exact hv2
      · refine Rel.ite ?_ ?_
        · refine settle_rel (sub_of hc rfl) ?_
          refine withData_rel (sub_of hc rfl) ?_
          exact hv5
        · split
          · extract_lets -merge -underBinder v6 v7 v8 v9 v10
            have hv6 : Rel ch s v6 := by
              subst v6
              refine eccLog_rel (sub_of hc rfl) ?_
              exact hv2
            try clear_value v6
            try clear_value v7
            try clear_value v8
            have hv9 : Rel ch s v9 := by
              subst v9
              refine logUe_rel (sub_of hc rfl) ?_
              refine dramWr_rel (sub_of hc rfl) ?_
              exact hv6
            try clear_value v9
            have hv10 : Rel ch s v10 := by
              subst v10
              refine logUe_rel (sub_of hc rfl) ?_
              exact hv2
            try clear_value v10
            refine Rel.ite ?_ ?_
            · refine settle_rel (sub_of hc rfl) ?_
              refine withData_rel (sub_of hc rfl) ?_
              exact hv9
            · refine settle_rel (sub_of hc rfl) ?_
              refine withData_rel (sub_of hc rfl) ?_
              exact hv10
          · extract_lets -merge -underBinder v11
            have hv11 : Rel ch s v11 := by
              subst v11
              refine logUe_rel (sub_of hc rfl) ?_
              exact hv2
            try clear_value v11
            refine settle_rel (sub_of hc rfl) ?_
            refine withData_rel (sub_of hc rfl) ?_
            exact hv11

theorem dramWriteAccepted_rel {ch : Nat} {s u : State} {x0 x1} (hc : 63139202 &&& ch = 63139202) (h : Rel ch s u) :
    Rel ch s (dramWriteAccepted x0 x1 u) := by
  unfold dramWriteAccepted
  split
  · exact h
  · split
    · extract_lets -merge -underBinder v0 v1 v2 v3 v4 v5 v6
      try clear_value v0
      try clear_value v1
      try clear_value v2
      have hv3 : Rel ch s v3 := by
        subst v3
        refine countEv_rel (sub_of hc rfl) ?_
        exact h
      try clear_value v3
      have hv4 : Rel ch s v4 := by
        subst v4
        refine topDown_rel (sub_of hc rfl) ?_
        exact hv3
      try clear_value v4
      have hv5 : Rel ch s v5 := by
        subst v5
        refine dramWr_rel (sub_of hc rfl) ?_
        exact hv4
      try clear_value v5
      try clear_value v6
      refine Rel.ite ?_ ?_
      · exact h
      · refine Rel.ite ?_ ?_
        · refine settle_rel (sub_of hc rfl) ?_
          refine writeDone_rel (sub_of hc rfl) ?_
          refine setTxn_rel (sub_of hc rfl) ?_
          exact hv5
        · refine setTxn_rel (sub_of hc rfl) ?_
          exact hv5
    · exact h

theorem loseTxns_rel {ch : Nat} {s u : State} {x1} (hc : 29584770 &&& ch = 29584770) (h : Rel ch s u) :
    Rel ch s (loseTxns u x1) := by
  unfold loseTxns
  refine Rel.foldl (fun u0 x0 hf0 => ?_) ?_
  · split
    · exact hf0
    · extract_lets -merge -underBinder v1
      try clear_value v1
      split
      · refine Rel.ite ?_ ?_
        · refine settle_rel (sub_of hc rfl) ?_
          refine closeTxn_rel (sub_of hc rfl) ?_
          refine chanRefuse_rel (sub_of hc rfl) ?_
          exact hf0
        · exact hf0
      · extract_lets -merge -underBinder v2
        try clear_value v2
        refine Rel.ite ?_ ?_
        · refine settle_rel (sub_of hc rfl) ?_
          refine closeTxn_rel (sub_of hc rfl) ?_
          refine chanRefuse_rel (sub_of hc rfl) ?_
          exact hf0
        · refine Rel.ite ?_ ?_
          · refine Rel.ite ?_ ?_
            · refine settle_rel (sub_of hc rfl) ?_
              refine writeDone_rel (sub_of hc rfl) ?_
              exact hf0
            · refine setTxn_rel (sub_of hc rfl) ?_
              exact hf0
          · exact hf0
      · exact hf0
  · exact h

theorem loseQueue_rel {ch : Nat} {s u : State} {x1} (hc : 21171586 &&& ch = 21171586) (h : Rel ch s u) :
    Rel ch s (loseQueue u x1) := by
  unfold loseQueue
  extract_lets -merge -underBinder v0 v1 v2
  try clear_value v0
  try clear_value v1
  try clear_value v2
  refine Rel.foldl (fun u3 x3 hf3 => ?_) ?_
  · refine chanRefuse_rel (sub_of hc rfl) ?_
    exact hf3
  · refine Rel.home _ (bit_of 8 hc rfl) ?_
    exact h

theorem startRecalls_rel {ch : Nat} {s u : State} {x1} (hc : 29584770 &&& ch = 29584770) (h : Rel ch s u) :
    Rel ch s (startRecalls u x1) := by
  unfold startRecalls
  refine issueSnoops_rel (sub_of hc rfl) ?_
  refine Rel.forL (fun u0 x0 hf0 => ?_) ?_
  · extract_lets -merge -underBinder v1 v2 v3 v4 v5
    try clear_value v1
    try clear_value v2
    try clear_value v3
    try clear_value v4
    have hv5 : Rel ch s v5 := by
      subst v5
      refine openTxn_rel (sub_of hc rfl) ?_
      refine setDir_rel (sub_of hc rfl) ?_
      exact hf0
    try clear_value v5
    refine Rel.ite ?_ ?_
    · exact hf0
    · refine Rel.ite ?_ ?_
      · refine settle_rel (sub_of hc rfl) ?_
        refine afterSnoops_rel (sub_of hc rfl) ?_
        exact hv5
      · exact hv5
  · exact h

theorem resetWalk_rel {ch : Nat} {s u : State} {x1} (hc : 33563008 &&& ch = 33563008) (h : Rel ch s u) :
    Rel ch s (resetWalk u x1) := by
  unfold resetWalk
  extract_lets -merge -underBinder v0 v1 v2
  try clear_value v0
  have hv1 : Rel ch s v1 := by
    subst v1
    refine Rel.foldl (fun u3 x3 hf3 => ?_) ?_
    · extract_lets -merge -underBinder v4 v5 v6 v7 v8
      try clear_value v4
      try clear_value v5
      try clear_value v6
      have hv7 : Rel ch s v7 := by
        subst v7
        refine dramWr_rel (sub_of hc rfl) ?_
        exact hf3
      try clear_value v7
      try clear_value v8
      refine Rel.ite ?_ ?_
      · refine Rel.ite ?_ ?_
        · refine dramWr_rel (sub_of hc rfl) ?_
          exact hv7
        · exact hv7
      · exact hf3
    · exact h
  try clear_value v1
  have hv2 : Rel ch s v2 := by
    subst v2
    refine Rel.foldl (fun u9 x9 hf9 => ?_) ?_
    · refine freeDir_rel (sub_of hc rfl) ?_
      exact hf9
    · exact hv1
  try clear_value v2
  refine modTen_rel (sub_of hc rfl) ?_
  exact hv2

theorem scrubRead_rel {ch : Nat} {s u : State} {x0 x1 x2} (hc : 37880962 &&& ch = 37880962) (h : Rel ch s u) :
    Rel ch s (scrubRead x0 x1 x2 u) := by
  unfold scrubRead
  extract_lets -merge -underBinder v0 v1 v2 v3 v4 v5 v6 v7 v8 v9
  try clear_value v0
  try clear_value v1
  try clear_value v2
  have hv3 : Rel ch s v3 := by
    subst v3
    refine countEv_rel (sub_of hc rfl) ?_
    exact h
  try clear_value v3
  have hv4 : Rel ch s v4 := by
    subst v4
    refine topDown_rel (sub_of hc rfl) ?_
    exact hv3
  try clear_value v4
  have hv5 : Rel ch s v5 := by
    subst v5
    split
    · exact hv4
    · refine logCe_rel (sub_of hc rfl) ?_
      exact hv4
    · split
      · extract_lets -merge -underBinder v10 v11
        try clear_value v10
        have hv11 : Rel ch s v11 := by
          subst v11
          refine logUe_rel (sub_of hc rfl) ?_
          refine dramWr_rel (sub_of hc rfl) ?_
          exact hv4
        try clear_value v11
        refine Rel.ite ?_ ?_
        · refine logUe_rel (sub_of hc rfl) ?_
          refine dramWr_rel (sub_of hc rfl) ?_
          refine eccLog_rel (sub_of hc rfl) ?_
          exact hv4
        · refine Rel.ite ?_ ?_
          · refine modUse_rel (sub_of hc rfl) ?_
            exact hv11
          · exact hv11
      · refine logUe_rel (sub_of hc rfl) ?_
        refine dramWr_rel (sub_of hc rfl) ?_
        exact hv4
  try clear_value v5
  try clear_value v6
  try clear_value v7
  try clear_value v8
  have hv9 : Rel ch s v9 := by
    subst v9
    refine modChan_rel (sub_of hc rfl) ?_
    exact hv5
  try clear_value v9
  refine Rel.ite ?_ ?_
  · exact h
  · refine Rel.ite ?_ ?_
    · refine modChan_rel (sub_of hc rfl) ?_
      exact hv5
    · refine stewIf_rel (sub_of hc rfl) ?_
      exact hv9

end Sys2Proof.Machine
end

