-- ==== Sys2Proof/Laws/RelEngine.lean ====
section
/-!
SUPPORT. What each operation of Engine.lean can change, and that it keeps what every command keeps (Laws/Rel.lean).
-/

namespace Sys2Proof.Machine

theorem psWrite_rel {ch : Nat} {s u : State} {a b} (hc : 67109888 &&& ch = 67109888) (h : Rel ch s u) : Rel ch s (psWrite u a b) :=
  Rel.seqPs _ (fun w => wf_wrBytes a b w) rfl (bit_of 10 hc rfl) (bit_of 26 hc rfl) h

theorem enSend_rel {ch : Nat} {s u : State} {x1} (hc : 21171202 &&& ch = 21171202) (h : Rel ch s u) :
    Rel ch s (enSend u x1) := by
  unfold enSend
  split
  · extract_lets -merge -underBinder v0
    try clear_value v0
    refine answer_rel (sub_of hc rfl) ?_
    exact h
  · extract_lets -merge -underBinder v1
    try clear_value v1
    refine addPkt_rel (sub_of hc rfl) ?_
    exact h

theorem freeBytes_rel {ch : Nat} {s u : State} {x1} (hc : 8388608 &&& ch = 8388608) (h : Rel ch s u) :
    Rel ch s (freeBytes u x1).2 := by
  unfold freeBytes
  first | refine Rel.mk_snd ?_ | skip
  refine Rel.fresh _ (Nat.le_add_right _ _) (bit_of 23 hc rfl) ?_
  exact h

theorem peekLine_rel {ch : Nat} {s u : State} {x1 x2} (hc : 8388608 &&& ch = 8388608) (h : Rel ch s u) :
    Rel ch s (peekLine u x1 x2).2 := by
  unfold peekLine
  split
  · first | refine Rel.mk_snd ?_ | skip
    exact h
  · extract_lets -merge -underBinder v0 v1
    try clear_value v0
    try clear_value v1
    split
    · first | refine Rel.mk_snd ?_ | skip
      exact h
    · split
      · extract_lets -merge -underBinder v2
        have hv2 : Rel ch s v2.2 := by
          subst v2
          refine freeBytes_rel (sub_of hc rfl) ?_
          exact h
        try clear_value v2
        split
        · first | refine Rel.mk_snd ?_ | skip
          exact hv2
        · first | refine Rel.mk_snd ?_ | skip
          exact h
      · first | refine Rel.mk_snd ?_ | skip
        exact h

theorem peekLines_rel {ch : Nat} {s u : State} {x0 x1 x2} (hc : 8388608 &&& ch = 8388608) (h : Rel ch s u) :
    Rel ch s (peekLines x0 x1 x2 u).2 := by
  unfold peekLines
  split
  · first | refine Rel.mk_snd ?_ | skip
    exact h
  · split
    · rename_i w7 e8
      have hw7 := Rel.of_snd (ch := ch) (s := s) e8 (by
        refine peekLine_rel (sub_of hc rfl) ?_
        exact h)
      first | refine Rel.mk_snd ?_ | skip
      exact hw7
    · rename_i w9 w10 e11
      have hw10 := Rel.of_snd (ch := ch) (s := s) e11 (by
        refine peekLine_rel (sub_of hc rfl) ?_
        exact h)
      split
      · rename_i w12 e13
        have hw12 := Rel.of_snd (ch := ch) (s := s) e13 (by
          refine peekLines_rel (sub_of hc rfl) ?_
          exact hw10)
        first | refine Rel.mk_snd ?_ | skip
        exact hw12
      · rename_i w14 w15 e16
        have hw15 := Rel.of_snd (ch := ch) (s := s) e16 (by
          refine peekLines_rel (sub_of hc rfl) ?_
          exact hw10)
        first | refine Rel.mk_snd ?_ | skip
        exact hw15

theorem peekSpan_rel {ch : Nat} {s u : State} {x1 x2 x3 x4} (hc : 8388608 &&& ch = 8388608) (h : Rel ch s u) :
    Rel ch s (peekSpan u x1 x2 x3 x4).2 := by
  unfold peekSpan
  split
  · split
    · rename_i w0 e1
      have hw0 := Rel.of_snd (ch := ch) (s := s) e1 (by
        refine peekLines_rel (sub_of hc rfl) ?_
        exact h)
      first | refine Rel.mk_snd ?_ | skip
      exact hw0
    · rename_i w2 w3 e4
      have hw3 := Rel.of_snd (ch := ch) (s := s) e4 (by
        refine peekLines_rel (sub_of hc rfl) ?_
        exact h)
      first | refine Rel.mk_snd ?_ | skip
      exact hw3
  · split
    · first | refine Rel.mk_snd ?_ | skip
      exact h
    · first | refine Rel.mk_snd ?_ | skip
      exact h
  · extract_lets -merge -underBinder v5
    have hv5 : Rel ch s v5.2 := by
      subst v5
      refine freeBytes_rel (sub_of hc rfl) ?_
      exact h
    try clear_value v5
    first | refine Rel.mk_snd ?_ | skip
    exact hv5

theorem accessFault_rel {ch : Nat} {s u : State} {x1 x2 x3} (hc : 12994050 &&& ch = 12994050) (h : Rel ch s u) :
    Rel ch s (accessFault u x1 x2 x3) := by
  unfold accessFault
  refine faultCtx_rel (sub_of hc rfl) ?_
  refine dklRefuse_rel (sub_of hc rfl) ?_
  exact h

end Sys2Proof.Machine
end

