-- ==== Sys2Proof/Laws/RelMover.lean ====
section
/-!
SUPPORT. What each operation of Mover.lean can change, and that it keeps what every command keeps (Laws/Rel.lean).
-/

namespace Sys2Proof.Machine

theorem padBits_rel {ch : Nat} {s u : State} {x1} (hc : 8388608 &&& ch = 8388608) (h : Rel ch s u) :
    Rel ch s (padBits u x1).2 := by
  unfold padBits
  extract_lets -merge -underBinder v0
  have hv0 : Rel ch s v0.2 := by
    subst v0
    refine freeW_rel (sub_of hc rfl) ?_
    exact h
  try clear_value v0
  split
  · first | refine Rel.mk_snd ?_ | skip
    exact h
  · first | refine Rel.mk_snd ?_ | skip
    exact hv0

theorem reshapeWrites_rel {ch : Nat} {s u : State} {x0 x1 x2} (hc : 8388608 &&& ch = 8388608) (h : Rel ch s u) :
    Rel ch s (reshapeWrites x0 x1 x2 u).2.2.2 := by
  have pad {v : State} (l) (hv : Rel ch s v) : Rel ch s (if x2 = true then padBits v l else (l, v)).2 := by
    split
    · exact padBits_rel (sub_of hc rfl) hv
    · exact hv
  have fold (f : List Piece × List (List (Bool × Bool)) × State → Nat → List Piece × List (List (Bool × Bool)) × State)
      (hf : ∀ a p, Rel ch s a.2.2 → Rel ch s (f a p).2.2) (l : List Nat) (a) (ha : Rel ch s a.2.2) : Rel ch s (l.foldl f a).2.2 := by
    induction l generalizing a with
    | nil => exact ha
    | cons p l ih => exact ih _ (hf a p ha)
  unfold reshapeWrites
  dsimp only
  split
  · exact pad _ h
  · exact fold _ (fun a p ha => pad _ ha) _ _ h

theorem writePieces_rel {ch : Nat} {s u : State} {x0 x1 x2} (hc : 8388608 &&& ch = 8388608) (h : Rel ch s u) :
    Rel ch s (writePieces x0 x1 x2 u).2.2.2 := by
  unfold writePieces
  extract_lets -merge -underBinder v0
  try clear_value v0
  split
  · refine reshapeWrites_rel (sub_of hc rfl) ?_
    exact h
  · first | refine Rel.mk_snd ?_ | skip
    first | refine Rel.mk_snd ?_ | skip
    first | refine Rel.mk_snd ?_ | skip
    exact h
  · first | refine Rel.mk_snd ?_ | skip
    first | refine Rel.mk_snd ?_ | skip
    first | refine Rel.mk_snd ?_ | skip
    exact h
  · first | refine Rel.mk_snd ?_ | skip
    first | refine Rel.mk_snd ?_ | skip
    first | refine Rel.mk_snd ?_ | skip
    exact h

theorem modJob_rel {ch : Nat} {s u : State} {x1 x2} (hc : 2048 &&& ch = 2048) (h : Rel ch s u) :
    Rel ch s (modJob u x1 x2) := by
  unfold modJob
  refine modMov_rel (sub_of hc rfl) ?_
  exact h

theorem syncRegs_rel {ch : Nat} {s u : State} {x1} (hc : 2048 &&& ch = 2048) (h : Rel ch s u) :
    Rel ch s (syncRegs u x1) := by
  unfold syncRegs
  refine modMov_rel (sub_of hc rfl) ?_
  exact h

theorem mvRefuseLog_rel {ch : Nat} {s u : State} {x1 x2} (hc : 4326914 &&& ch = 4326914) (h : Rel ch s u) :
    Rel ch s (mvRefuseLog u x1 x2) := by
  unfold mvRefuseLog
  extract_lets -merge -underBinder v0 v1
  try clear_value v0
  try clear_value v1
  refine dklLog_rel (sub_of hc rfl) ?_
  exact h

theorem cutChecked_rel {ch : Nat} {s u : State} {x1 x2 x3 x4 x5 x6} (hc : 4326914 &&& ch = 4326914) (h : Rel ch s u) :
    Rel ch s (cutChecked u x1 x2 x3 x4 x5 x6).2.2 := by
  unfold cutChecked
  extract_lets -merge -underBinder v0
  try clear_value v0
  split
  · first | refine Rel.mk_snd ?_ | skip
    first | refine Rel.mk_snd ?_ | skip
    exact h
  · first | refine Rel.mk_snd ?_ | skip
    first | refine Rel.mk_snd ?_ | skip
    refine mvRefuseLog_rel (sub_of hc rfl) ?_
    exact h

theorem issueRead_rel {ch : Nat} {s u : State} {x1 x2 x3 x4} (hc : 21171202 &&& ch = 21171202) (h : Rel ch s u) :
    Rel ch s (issueRead u x1 x2 x3 x4) := by
  unfold issueRead
  extract_lets -merge -underBinder v0 v1
  try clear_value v0
  try clear_value v1
  split
  · refine enSend_rel (sub_of hc rfl) ?_
    exact h
  · refine enSend_rel (sub_of hc rfl) ?_
    exact h
  · refine toMove_rel (sub_of hc rfl) ?_
    exact h

theorem issueWrite_rel {ch : Nat} {s u : State} {x1 x2 x3 x4} (hc : 88280066 &&& ch = 88280066) (h : Rel ch s u) :
    Rel ch s (issueWrite u x1 x2 x3 x4) := by
  unfold issueWrite
  extract_lets -merge -underBinder v0 v1
  try clear_value v0
  try clear_value v1
  split
  · refine enSend_rel (sub_of hc rfl) ?_
    exact h
  · extract_lets -merge -underBinder v2
    try clear_value v2
    refine Rel.ite ?_ ?_
    · refine toMove_rel (sub_of hc rfl) ?_
      exact h
    · refine toMove_rel (sub_of hc rfl) ?_
      refine enSend_rel (sub_of hc rfl) ?_
      exact h
  · refine toMove_rel (sub_of hc rfl) ?_
    refine psWrite_rel (sub_of hc rfl) ?_
    exact h

theorem issueAll_rel {ch : Nat} {s u : State} {f0 x1} (hc : 0 &&& ch = 0) (hh0 : ∀ a0 a1 a2, Rel ch s a0 → Rel ch s (f0 a0 a1 a2)) (h : Rel ch s u) :
    Rel ch s (issueAll f0 x1 u) := by
  unfold issueAll
  refine Rel.foldl (fun u0 x0 hf0 => ?_) ?_
  · refine hh0 _ _ _ ?_
    exact hf0
  · exact h

theorem mvCount_rel {ch : Nat} {s u : State} {x1 x2 x3 x4} (hc : 131072 &&& ch = 131072) (h : Rel ch s u) :
    Rel ch s (mvCount u x1 x2 x3 x4) := by
  unfold mvCount
  refine Rel.ite ?_ ?_
  · exact h
  · refine countEv_rel (sub_of hc rfl) ?_
    exact h

theorem startWrites_rel {ch : Nat} {s u : State} {x0} (hc : 96669186 &&& ch = 96669186) (h : Rel ch s u) :
    Rel ch s (startWrites x0 u) := by
  unfold startWrites
  split
  · exact h
  · extract_lets -merge -underBinder v0 v1 v2 v3 v4 v5 v6 v7 v8 v9 v10 v11 v12 v13 v14 v15
    try clear_value v0
    try clear_value v1
    try clear_value v2
    try clear_value v3
    try clear_value v4
    try clear_value v5
    have hv6 : Rel ch s v6.2.2.2 := by
      subst v6
      refine writePieces_rel (sub_of hc rfl) ?_
      exact h
    try clear_value v6
    have hv7 : Rel ch s v7.2.2 := by
      subst v7
      refine cutChecked_rel (sub_of hc rfl) ?_
      exact hv6
    try clear_value v7
    try clear_value v8
    try clear_value v9
    have hv10 : Rel ch s v10.2.2.2 := by
      subst v10
      split
      · first | refine Rel.mk_snd ?_ | skip
        first | refine Rel.mk_snd ?_ | skip
        first | refine Rel.mk_snd ?_ | skip
        exact hv7
      · refine writePieces_rel (sub_of hc rfl) ?_
        exact hv7
    try clear_value v10
    try clear_value v11
    try clear_value v12
    try clear_value v13
    have hv14 : Rel ch s v14 := by
      subst v14
      refine modMov_rel (sub_of hc rfl) ?_
      exact hv10
    try clear_value v14
    try clear_value v15
    refine issueAll_rel (sub_of hc rfl) (fun y17 y18 y19 hf16 => ?_) ?_
    · refine issueWrite_rel (sub_of hc rfl) ?_
      exact hf16
    · refine mvCount_rel (sub_of hc rfl) ?_
      exact hv14

theorem endTransfer_rel {ch : Nat} {s u : State} {x0} (hc : 133120 &&& ch = 133120) (h : Rel ch s u) :
    Rel ch s (endTransfer x0 u) := by
  unfold endTransfer
  extract_lets -merge -underBinder v0 v1
  have hv0 : Rel ch s v0 := by
    subst v0
    split
    · extract_lets -merge -underBinder v2
      have hv2 : Rel ch s v2 := by
        subst v2
        refine mvCount_rel (sub_of hc rfl) ?_
        exact h
      try clear_value v2
      refine Rel.ite ?_ ?_
      · refine mvCount_rel (sub_of hc rfl) ?_
        exact hv2
      · exact hv2
    · exact h
  try clear_value v0
  have hv1 : Rel ch s v1 := by
    subst v1
    refine modJob_rel (sub_of hc rfl) ?_
    exact hv0
  try clear_value v1
  refine syncRegs_rel (sub_of hc rfl) ?_
  exact hv1

theorem refreshTransfer_rel {ch : Nat} {s u : State} {x0 x1} (hc : 21171714 &&& ch = 21171714) (h : Rel ch s u) :
    Rel ch s (refreshTransfer x0 x1 u) := by
  unfold refreshTransfer
  extract_lets -merge -underBinder v0 v1 v2 v3 v4 v5 v6 v7 v8
  try clear_value v0
  try clear_value v1
  have hv2 : Rel ch s v2.2.2 := by
    subst v2
    refine cutChecked_rel (sub_of hc rfl) ?_
    exact h
  try clear_value v2
  have hv3 : Rel ch s v3.2.2 := by
    subst v3
    refine cutChecked_rel (sub_of hc rfl) ?_
    exact hv2
  try clear_value v3
  try clear_value v4
  try clear_value v5
  try clear_value v6
  try clear_value v7
  try clear_value v8
  refine issueAll_rel (sub_of hc rfl) (fun y10 y11 y12 hf9 => ?_) ?_
  · refine enSend_rel (sub_of hc rfl) ?_
    exact hf9
  · refine modMov_rel (sub_of hc rfl) ?_
    exact hv3

theorem startReads_rel {ch : Nat} {s u : State} {x0 x1} (hc : 21171714 &&& ch = 21171714) (h : Rel ch s u) :
    Rel ch s (startReads x0 x1 u) := by
  unfold startReads
  extract_lets -merge -underBinder v0 v1 v2 v3 v4
  try clear_value v0
  have hv1 : Rel ch s v1.2.2 := by
    subst v1
    refine cutChecked_rel (sub_of hc rfl) ?_
    exact h
  try clear_value v1
  try clear_value v2
  try clear_value v3
  try clear_value v4
  refine issueAll_rel (sub_of hc rfl) (fun y6 y7 y8 hf5 => ?_) ?_
  · refine issueRead_rel (sub_of hc rfl) ?_
    exact hf5
  · refine modMov_rel (sub_of hc rfl) ?_
    exact hv1

theorem startIndex_rel {ch : Nat} {s u : State} {x0 x1} (hc : 21171714 &&& ch = 21171714) (h : Rel ch s u) :
    Rel ch s (startIndex x0 x1 u) := by
  unfold startIndex
  extract_lets -merge -underBinder v0 v1 v2
  try clear_value v0
  try clear_value v1
  have hv2 : Rel ch s v2.2.2 := by
    subst v2
    refine cutChecked_rel (sub_of hc rfl) ?_
    exact h
  try clear_value v2
  refine Rel.ite ?_ ?_
  · refine modMov_rel (sub_of hc rfl) ?_
    exact hv2
  · refine issueAll_rel (sub_of hc rfl) (fun y4 y5 y6 hf3 => ?_) ?_
    · refine issueRead_rel (sub_of hc rfl) ?_
      exact hf3
    · refine modMov_rel (sub_of hc rfl) ?_
      exact hv2

theorem endIndex_rel {ch : Nat} {s u : State} {x0 x1} (hc : 21171714 &&& ch = 21171714) (h : Rel ch s u) :
    Rel ch s (endIndex x0 x1 u) := by
  unfold endIndex
  extract_lets -merge -underBinder v0
  try clear_value v0
  split
  · refine modMov_rel (sub_of hc rfl) ?_
    exact h
  · extract_lets -merge -underBinder v1 v2
    try clear_value v1
    try clear_value v2
    refine Rel.ite ?_ ?_
    · refine modMov_rel (sub_of hc rfl) ?_
      exact h
    · refine startReads_rel (sub_of hc rfl) ?_
      exact h

theorem startFlush_rel {ch : Nat} {s u : State} {x0 x1} (hc : 21171202 &&& ch = 21171202) (h : Rel ch s u) :
    Rel ch s (startFlush x0 x1 u) := by
  unfold startFlush
  extract_lets -merge -underBinder v0
  have hv0 : Rel ch s v0 := by
    subst v0
    refine modMov_rel (sub_of hc rfl) ?_
    exact h
  try clear_value v0
  refine Rel.foldl (fun u1 x1 hf1 => ?_) ?_
  · extract_lets -merge -underBinder v2
    try clear_value v2
    refine Rel.ite ?_ ?_
    · refine toFlush_rel (sub_of hc rfl) ?_
      exact hf1
    · refine enSend_rel (sub_of hc rfl) ?_
      exact hf1
  · exact hv0

theorem nextStep_rel {ch : Nat} {s u : State} {x0} (hc : 96669186 &&& ch = 96669186) (h : Rel ch s u) :
    Rel ch s (nextStep x0 u) := by
  unfold nextStep
  split
  · exact h
  · extract_lets -merge -underBinder v0 v1
    try clear_value v0
    try clear_value v1
    refine Rel.ite ?_ ?_
    · refine modMov_rel (sub_of hc rfl) ?_
      exact h
    · refine Rel.ite ?_ ?_
      · refine Rel.ite ?_ ?_
        · refine startWrites_rel (sub_of hc rfl) ?_
          refine modMov_rel (sub_of hc rfl) ?_
          exact h
        · refine startFlush_rel (sub_of hc rfl) ?_
          exact h
      · split
        · refine startWrites_rel (sub_of hc rfl) ?_
          refine modMov_rel (sub_of hc rfl) ?_
          exact h
        · refine startIndex_rel (sub_of hc rfl) ?_
          exact h
        · refine Rel.ite ?_ ?_
          · refine refreshTransfer_rel (sub_of hc rfl) ?_
            exact h
          · refine startReads_rel (sub_of hc rfl) ?_
            exact h
        · refine startReads_rel (sub_of hc rfl) ?_
          exact h

theorem mvStep_rel {ch : Nat} {s u : State} {x0} (hc : 96669186 &&& ch = 96669186) (h : Rel ch s u) :
    Rel ch s (mvStep x0 u) := by
  unfold mvStep
  split
  · exact h
  · split
    · refine nextStep_rel (sub_of hc rfl) ?_
      exact h
    · refine endIndex_rel (sub_of hc rfl) ?_
      exact h
    · refine startWrites_rel (sub_of hc rfl) ?_
      exact h
    · refine nextStep_rel (sub_of hc rfl) ?_
      refine endTransfer_rel (sub_of hc rfl) ?_
      exact h
    · exact h

theorem takeMvTurn_rel {ch : Nat} {s u : State} {x1} (hc : 2048 &&& ch = 2048) (h : Rel ch s u) :
    Rel ch s (takeMvTurn u x1) := by
  unfold takeMvTurn
  extract_lets -merge -underBinder v0 v1
  try clear_value v0
  try clear_value v1
  refine Rel.mov _ (bit_of 11 hc rfl) ?_
  exact h

theorem moveTransfer_rel {ch : Nat} {s u : State} {x0} (hc : 96669186 &&& ch = 96669186) (h : Rel ch s u) :
    Rel ch s (moveTransfer x0 u) := by
  unfold moveTransfer
  extract_lets -merge -underBinder v0 v1 v2 v3
  try clear_value v0
  try clear_value v1
  try clear_value v2
  have hv3 : Rel ch s v3 := by
    subst v3
    refine takeMvTurn_rel (sub_of hc rfl) ?_
    refine Rel.mov _ (bit_of 11 hc rfl) ?_
    exact h
  try clear_value v3
  refine Rel.ite ?_ ?_
  · exact h
  · refine Rel.ite ?_ ?_
    · exact hv3
    · refine mvStep_rel (sub_of hc rfl) ?_
      exact hv3

theorem mvRecord_rel {ch : Nat} {s u : State} {x1 x2 x3} (hc : 4326402 &&& ch = 4326402) (h : Rel ch s u) :
    Rel ch s (mvRecord u x1 x2 x3) := by
  unfold mvRecord
  extract_lets -merge -underBinder v0
  have hv0 : Rel ch s v0 := by
    subst v0
    refine Rel.ite ?_ ?_
    · refine postRec_rel (sub_of hc rfl) ?_
      exact h
    · exact h
  try clear_value v0
  refine Rel.ite ?_ ?_
  · exact h
  · refine evLatch_rel (sub_of hc rfl) ?_
    exact hv0

theorem mvWriteBack_rel {ch : Nat} {s u : State} {x1 x2} (hc : 88280578 &&& ch = 88280578) (h : Rel ch s u) :
    Rel ch s (mvWriteBack u x1 x2) := by
  unfold mvWriteBack
  extract_lets -merge -underBinder v0 v1 v2
  try clear_value v0
  try clear_value v1
  try clear_value v2
  refine Rel.ite ?_ ?_
  · exact h
  · refine Rel.ite ?_ ?_
    · refine dklRefuse_rel (sub_of hc rfl) ?_
      exact h
    · refine Rel.ite ?_ ?_
      · refine psWrite_rel (sub_of hc rfl) ?_
        exact h
      · refine enSend_rel (sub_of hc rfl) ?_
        exact h

theorem finishMove_rel {ch : Nat} {s u : State} {x1 x2 x3 x4 x5} (hc : 88280578 &&& ch = 88280578) (h : Rel ch s u) :
    Rel ch s (finishMove u x1 x2 x3 x4 x5) := by
  unfold finishMove
  extract_lets -merge -underBinder v0 v1 v2 v3 v4 v5
  try clear_value v0
  try clear_value v1
  have hv2 : Rel ch s v2 := by
    subst v2
    refine modMov_rel (sub_of hc rfl) ?_
    exact h
  try clear_value v2
  have hv3 : Rel ch s v3 := by
    subst v3
    refine mvCount_rel (sub_of hc rfl) ?_
    exact hv2
  try clear_value v3
  have hv4 : Rel ch s v4 := by
    subst v4
    refine Rel.ite ?_ ?_
    · refine mvCount_rel (sub_of hc rfl) ?_
      exact hv3
    · exact hv3
  try clear_value v4
  have hv5 : Rel ch s v5 := by
    subst v5
    refine Rel.ite ?_ ?_
    · refine mvWriteBack_rel (sub_of hc rfl) ?_
      exact hv4
    · exact hv4
  try clear_value v5
  refine mvRecord_rel (sub_of hc rfl) ?_
  exact hv5

theorem moveEnd_rel {ch : Nat} {s u : State} {x0} (hc : 88280578 &&& ch = 88280578) (h : Rel ch s u) :
    Rel ch s (moveEnd x0 u) := by
  unfold moveEnd
  split
  · refine Rel.ite ?_ ?_
    · refine finishMove_rel (sub_of hc rfl) ?_
      exact h
    · exact h
  · exact h

theorem dropMoves_rel {ch : Nat} {s u : State} {x1} (hc : 65792 &&& ch = 65792) (h : Rel ch s u) :
    Rel ch s (dropMoves u x1) := by
  unfold dropMoves
  extract_lets -merge -underBinder v0 v1 v2 v3 v4 v5
  try clear_value v0
  try clear_value v1
  try clear_value v2
  try clear_value v3
  try clear_value v4
  try clear_value v5
  refine Rel.core_home _ (bit_of 16 hc rfl)  _ (bit_of 8 hc rfl) ?_
  exact h

theorem resetMove_rel {ch : Nat} {s u : State} {x1} (hc : 88280834 &&& ch = 88280834) (h : Rel ch s u) :
    Rel ch s (resetMove u x1) := by
  unfold resetMove
  split
  · refine finishMove_rel (sub_of hc rfl) ?_
    refine dropMoves_rel (sub_of hc rfl) ?_
    exact h
  · exact h

theorem mvChecks_rel {ch : Nat} {s u : State} {x1 x2 x3 x4} (hc : 8388608 &&& ch = 8388608) (h : Rel ch s u) :
    Rel ch s (mvChecks u x1 x2 x3 x4).2 := by
  unfold mvChecks
  extract_lets -merge -underBinder v0
  try clear_value v0
  split
  · first | refine Rel.mk_snd ?_ | skip
    exact h
  · split
    · first | refine Rel.mk_snd ?_ | skip
      exact h
    · split
      · first | refine Rel.mk_snd ?_ | skip
        exact h
      · split
        · extract_lets -merge -underBinder v1
          try clear_value v1
          split
          · first | refine Rel.mk_snd ?_ | skip
            exact h
          · split
            · first | refine Rel.mk_snd ?_ | skip
              exact h
            · split
              · rename_i w2 e3
                have hw2 := Rel.of_snd (ch := ch) (s := s) e3 (by
                  refine peekSpan_rel (sub_of hc rfl) ?_
                  exact h)
                first | refine Rel.mk_snd ?_ | skip
                exact hw2
              · rename_i w4 w5 e6
                have hw5 := Rel.of_snd (ch := ch) (s := s) e6 (by
                  refine peekSpan_rel (sub_of hc rfl) ?_
                  exact h)
                extract_lets -merge -underBinder v7 v8
                try clear_value v7
                try clear_value v8
                split
                · first | refine Rel.mk_snd ?_ | skip
                  exact hw5
                · split
                  · first | refine Rel.mk_snd ?_ | skip
                    exact hw5
                  · first | refine Rel.mk_snd ?_ | skip
                    exact hw5
        · split
          · first | refine Rel.mk_snd ?_ | skip
            exact h
          · split
            · first | refine Rel.mk_snd ?_ | skip
              exact h
            · first | refine Rel.mk_snd ?_ | skip
              exact h
        · split
          · first | refine Rel.mk_snd ?_ | skip
            exact h
          · first | refine Rel.mk_snd ?_ | skip
            exact h

theorem startMove_rel {ch : Nat} {s u : State} {x1 x2 x3} (hc : 2048 &&& ch = 2048) (h : Rel ch s u) :
    Rel ch s (startMove u x1 x2 x3) := by
  unfold startMove
  extract_lets -merge -underBinder v0 v1
  try clear_value v0
  have hv1 : Rel ch s v1 := by
    subst v1
    refine modMov_rel (sub_of hc rfl) ?_
    exact h
  try clear_value v1
  refine syncRegs_rel (sub_of hc rfl) ?_
  exact hv1

theorem moveRun_rel {ch : Nat} {s u : State} {x0 x1 x2 x3} (hc : 12996098 &&& ch = 12996098) (h : Rel ch s u) :
    Rel ch s (moveRun x0 x1 x2 x3 u) := by
  unfold moveRun
  extract_lets -merge -underBinder v0 v1 v2 v3
  try clear_value v0
  try clear_value v1
  try clear_value v2
  try clear_value v3
  refine oxRun_rel (sub_of hc rfl) (fun y5 y6 hf4 => ?_) ?_
  · extract_lets -merge -underBinder v7 v8
    try clear_value v7
    try clear_value v8
    refine Rel.ite ?_ ?_
    · refine accessFault_rel (sub_of hc rfl) ?_
      exact hf4
    · split
      · rename_i w9 e10
        have hw9 := Rel.of_snd (ch := ch) (s := s) e10 (by
          refine peekSpan_rel (sub_of hc rfl) ?_
          exact hf4)
        refine faultCtx_rel (sub_of hc rfl) ?_
        exact hw9
      · rename_i w11 w12 e13
        have hw12 := Rel.of_snd (ch := ch) (s := s) e13 (by
          refine peekSpan_rel (sub_of hc rfl) ?_
          exact hf4)
        extract_lets -merge -underBinder v14 v15 v16
        try clear_value v14
        try clear_value v15
        try clear_value v16
        refine Rel.ite ?_ ?_
        · refine retireSt_rel (sub_of hc rfl) ?_
          exact hw12
        · refine Rel.ite ?_ ?_
          · refine retireSt_rel (sub_of hc rfl) ?_
            exact hw12
          · refine Rel.ite ?_ ?_
            · refine waitAgain_rel (sub_of hc rfl) ?_
              exact hw12
            · split
              · rename_i w17 w18 e19
                have hw18 := Rel.of_snd (ch := ch) (s := s) e19 (by
                  refine mvChecks_rel (sub_of hc rfl) ?_
                  exact hw12)
                refine faultCtx_rel (sub_of hc rfl) ?_
                exact hw18
              · rename_i w20 w21 e22
                have hw21 := Rel.of_snd (ch := ch) (s := s) e22 (by
                  refine mvChecks_rel (sub_of hc rfl) ?_
                  exact hw12)
                refine retireSt_rel (sub_of hc rfl) ?_
                exact hw21
              · rename_i w23 w24 e25
                have hw24 := Rel.of_snd (ch := ch) (s := s) e25 (by
                  refine mvChecks_rel (sub_of hc rfl) ?_
                  exact hw12)
                refine retireSt_rel (sub_of hc rfl) ?_
                refine startMove_rel (sub_of hc rfl) ?_
                exact hw24
  · exact h

theorem execCopy_rel {ch : Nat} {s u t : State} {x0 x1} (hc : 12996098 &&& ch = 12996098) (h : Rel ch s u)
    (ht : execCopy x0 x1 u = .next t) : Rel ch s t := by
  unfold execCopy at ht
  refine Rel.unitOk ?_ ht
  refine moveRun_rel (sub_of hc rfl) ?_
  exact h

theorem execGather_rel {ch : Nat} {s u t : State} {x0 x1} (hc : 12996098 &&& ch = 12996098) (h : Rel ch s u)
    (ht : execGather x0 x1 u = .next t) : Rel ch s t := by
  unfold execGather at ht
  refine Rel.unitOk ?_ ht
  refine moveRun_rel (sub_of hc rfl) ?_
  exact h

theorem execReshape_rel {ch : Nat} {s u t : State} {x0 x1} (hc : 12996098 &&& ch = 12996098) (h : Rel ch s u)
    (ht : execReshape x0 x1 u = .next t) : Rel ch s t := by
  unfold execReshape at ht
  refine Rel.unitOk ?_ ht
  refine moveRun_rel (sub_of hc rfl) ?_
  exact h

theorem execFill_rel {ch : Nat} {s u t : State} {x0 x1} (hc : 12996098 &&& ch = 12996098) (h : Rel ch s u)
    (ht : execFill x0 x1 u = .next t) : Rel ch s t := by
  unfold execFill at ht
  refine Rel.unitOk ?_ ht
  refine moveRun_rel (sub_of hc rfl) ?_
  exact h

theorem execMvstat_rel {ch : Nat} {s u t : State} {x0 x1} (hc : 549866498 &&& ch = 549866498) (h : Rel ch s u)
    (ht : execMvstat x0 x1 u = .next t) : Rel ch s t := by
  unfold execMvstat at ht
  refine Rel.unitOk ?_ ht
  refine oxRun_rel (sub_of hc rfl) (fun y1 y2 hf0 => ?_) ?_
  · extract_lets -merge -underBinder v3
    try clear_value v3
    refine Rel.ite ?_ ?_
    · refine retireSt_rel (sub_of hc rfl) ?_
      exact hf0
    · refine Rel.ite ?_ ?_
      · refine retireSt_rel (sub_of hc rfl) ?_
        exact hf0
      · refine retireK_rel (sub_of hc rfl) ?_
        refine Rel.ite ?_ ?_
        · refine modMov_rel (sub_of hc rfl) ?_
          exact hf0
        · exact hf0
  · exact h

theorem askStop_rel {ch : Nat} {s u : State} {x1 x2} (hc : 2048 &&& ch = 2048) (h : Rel ch s u) :
    Rel ch s (askStop u x1 x2) := by
  unfold askStop
  refine modMov_rel (sub_of hc rfl) ?_
  exact h

theorem execMvpause_rel {ch : Nat} {s u t : State} {x0 x1} (hc : 12995586 &&& ch = 12995586) (h : Rel ch s u)
    (ht : execMvpause x0 x1 u = .next t) : Rel ch s t := by
  unfold execMvpause at ht
  refine Rel.unitOk ?_ ht
  refine oxRun_rel (sub_of hc rfl) (fun y1 y2 hf0 => ?_) ?_
  · extract_lets -merge -underBinder v3
    try clear_value v3
    refine Rel.ite ?_ ?_
    · refine retireSt_rel (sub_of hc rfl) ?_
      exact hf0
    · refine Rel.ite ?_ ?_
      · refine retireSt_rel (sub_of hc rfl) ?_
        exact hf0
      · split
        · refine Rel.ite ?_ ?_
          · refine waitAgain_rel (sub_of hc rfl) ?_
            exact hf0
          · refine waitAgain_rel (sub_of hc rfl) ?_
            refine askStop_rel (sub_of hc rfl) ?_
            exact hf0
        · refine waitAgain_rel (sub_of hc rfl) ?_
          exact hf0
        · refine retireSt_rel (sub_of hc rfl) ?_
          exact hf0
  · exact h

theorem execMvabort_rel {ch : Nat} {s u t : State} {x0 x1} (hc : 12995586 &&& ch = 12995586) (h : Rel ch s u)
    (ht : execMvabort x0 x1 u = .next t) : Rel ch s t := by
  unfold execMvabort at ht
  refine Rel.unitOk ?_ ht
  refine oxRun_rel (sub_of hc rfl) (fun y1 y2 hf0 => ?_) ?_
  · extract_lets -merge -underBinder v3
    try clear_value v3
    refine Rel.ite ?_ ?_
    · refine retireSt_rel (sub_of hc rfl) ?_
      exact hf0
    · refine Rel.ite ?_ ?_
      · refine retireSt_rel (sub_of hc rfl) ?_
        exact hf0
      · split
        · refine waitAgain_rel (sub_of hc rfl) ?_
          refine askStop_rel (sub_of hc rfl) ?_
          exact hf0
        · refine Rel.ite ?_ ?_
          · refine waitAgain_rel (sub_of hc rfl) ?_
            exact hf0
          · refine Rel.ite ?_ ?_
            · refine waitAgain_rel (sub_of hc rfl) ?_
              refine askStop_rel (sub_of hc rfl) ?_
              exact hf0
            · refine waitAgain_rel (sub_of hc rfl) ?_
              refine askStop_rel (sub_of hc rfl) ?_
              exact hf0
        · refine waitAgain_rel (sub_of hc rfl) ?_
          exact hf0
        · refine retireSt_rel (sub_of hc rfl) ?_
          exact hf0
  · exact h

theorem execMvresume_rel {ch : Nat} {s u t : State} {x0 x1} (hc : 12995586 &&& ch = 12995586) (h : Rel ch s u)
    (ht : execMvresume x0 x1 u = .next t) : Rel ch s t := by
  unfold execMvresume at ht
  refine Rel.unitOk ?_ ht
  refine oxRun_rel (sub_of hc rfl) (fun y1 y2 hf0 => ?_) ?_
  · extract_lets -merge -underBinder v3
    try clear_value v3
    refine Rel.ite ?_ ?_
    · refine retireSt_rel (sub_of hc rfl) ?_
      exact hf0
    · refine Rel.ite ?_ ?_
      · refine retireSt_rel (sub_of hc rfl) ?_
        exact hf0
      · refine retireSt_rel (sub_of hc rfl) ?_
        refine modMov_rel (sub_of hc rfl) ?_
        exact hf0
  · exact h

theorem execMoveTransfer_rel {ch : Nat} {s u t : State} {x0} (hc : 96669186 &&& ch = 96669186) (h : Rel ch s u)
    (ht : execMoveTransfer x0 u = .next t) : Rel ch s t := by
  unfold execMoveTransfer at ht
  refine Rel.unitOk ?_ ht
  refine moveTransfer_rel (sub_of hc rfl) ?_
  exact h

theorem execMoveEnd_rel {ch : Nat} {s u t : State} {x0} (hc : 88280578 &&& ch = 88280578) (h : Rel ch s u)
    (ht : execMoveEnd x0 u = .next t) : Rel ch s t := by
  unfold execMoveEnd at ht
  refine Rel.unitOk ?_ ht
  refine moveEnd_rel (sub_of hc rfl) ?_
  exact h

end Sys2Proof.Machine
end

