-- ==== Sys2Proof/Laws/RelFabric.lean ====
section
/-!
SUPPORT. What each operation of Fabric.lean can change, and that it keeps what every command keeps (Laws/Rel.lean).
-/

namespace Sys2Proof.Machine

theorem fabOk_rel {ch : Nat} {s u : State} (hc : 0 &&& ch = 0) (h : Rel ch s u) :
    Rel ch s (fabOk u).s := by
  unfold fabOk
  try dsimp -zeta -zetaUnused only
  exact h

theorem fabNo_rel {ch : Nat} {s u : State} {x0} (hc : 0 &&& ch = 0) (h : Rel ch s u) :
    Rel ch s (fabNo x0 u).s := by
  unfold fabNo
  try dsimp -zeta -zetaUnused only
  exact h

theorem bindDo_rel {ch : Nat} {s u : State} {x1} (hc : 8192 &&& ch = 8192) (h : Rel ch s u) :
    Rel ch s (bindDo u x1).s := by
  unfold bindDo
  extract_lets -merge -underBinder v0 v1 v2 v3 v4 v5
  try clear_value v0
  try clear_value v1
  try clear_value v2
  try clear_value v3
  try clear_value v4
  have hv5 : Rel ch s v5 := by
    subst v5
    refine Rel.ite ?_ ?_
    · exact h
    · refine modVppb_rel (sub_of hc rfl) ?_
      exact h
  try clear_value v5
  split
  · refine fabNo_rel (sub_of hc rfl) ?_
    exact h
  · split
    · refine fabNo_rel (sub_of hc rfl) ?_
      exact h
    · split
      · try dsimp -zeta -zetaUnused only
        refine modTen_rel (sub_of hc rfl) ?_
        exact hv5
      · try dsimp -zeta -zetaUnused only
        exact hv5

theorem foldl_tdel_disjoint (l : List Nat) {m : Tab Deckle} (h : Safety.deckleDisjoint m) : Safety.deckleDisjoint (l.foldl tdel m) := by
  induction l generalizing m with
  | nil => exact h
  | cons k l ih =>
    refine ih fun i j hij => ?_
    rw [tget_tdel, tget_tdel]
    split
    · rfl
    · split
      · simp [dklOverlap, Deckle.valid, bit]
      · exact h i j hij

theorem tget_foldl_tdel (l : List Nat) (m : Tab Deckle) (i : Nat) : tget {} (l.foldl tdel m) i = if i ∈ l then {} else tget {} m i := by
  induction l generalizing m with
  | nil => simp
  | cons k l ih =>
    rw [List.foldl_cons, ih, tget_tdel]
    by_cases h : i ∈ l <;> by_cases e : i = k <;> simp [h, e]

theorem clearDeckles_rel {ch : Nat} {s u : State} {x1} (hk : ∀ i ∈ x1, (getDkl u i).locked = false) (hc : 268435968 &&& ch = 268435968)
    (h : Rel ch s u) : Rel ch s (clearDeckles u x1) :=
  Rel.dklTab _ (fun d => foldl_tdel_disjoint x1 d) (fun i hi => by
    rw [tget_foldl_tdel, if_neg fun e => by rw [show tget {} u.dkl.tab i = getDkl u i from rfl, hk i e] at hi; cases hi])
    (bit_of 9 hc rfl) (bit_of 28 hc rfl) h

theorem unbindDo_rel {ch : Nat} {s u : State} {x1} (hc : 268444160 &&& ch = 268444160) (h : Rel ch s u) :
    Rel ch s (unbindDo u x1).s := by
  unfold unbindDo
  extract_lets -merge -underBinder v0 v1 v2 v3 v4 v5
  try clear_value v0
  try clear_value v1
  try clear_value v2
  try clear_value v3
  try clear_value v4
  have hv5 : (∀ i ∈ v4, (getDkl u i).locked = false) → Rel ch s v5 := by
    intro hk
    subst v5
    refine clearDeckles_rel hk (sub_of hc rfl) ?_
    refine modVppb_rel (sub_of hc rfl) ?_
    exact h
  try clear_value v5
  split
  · refine fabNo_rel (sub_of hc rfl) ?_
    exact h
  · split
    · split
      · refine fabNo_rel (sub_of hc rfl) ?_
        exact h
      · refine fabOk_rel (sub_of hc rfl) ?_
        refine modTen_rel (sub_of hc rfl) ?_
        exact h
    · split
      · refine fabNo_rel (sub_of hc rfl) ?_
        exact h
      · split
        · refine fabNo_rel (sub_of hc rfl) ?_
          exact h
        · next hn =>
          have hv5 := hv5 fun i hi => Bool.eq_false_iff.mpr fun e => hn (by
            rw [Bool.or_eq_true]; exact Or.inr (List.any_eq_true.mpr ⟨i, hi, e⟩))
          refine fabOk_rel (sub_of hc rfl) ?_
          split
          · refine modTen_rel (sub_of hc rfl) ?_
            exact hv5
          · exact hv5

theorem ecmpFence_rel {ch : Nat} {s u : State} {x1} (hc : 196608 &&& ch = 196608) (h : Rel ch s u) :
    Rel ch s (ecmpFence u x1) := by
  unfold ecmpFence
  extract_lets -merge -underBinder v0 v1
  try clear_value v0
  try clear_value v1
  refine quireCount_rel (sub_of hc rfl) ?_
  refine modEcmp_rel (sub_of hc rfl) ?_
  exact h

theorem routeDo_rel {ch : Nat} {s u : State} {x1 x2 x3 x4} (hc : 229376 &&& ch = 229376) (h : Rel ch s u) :
    Rel ch s (routeDo u x1 x2 x3 x4).s := by
  unfold routeDo
  extract_lets -merge -underBinder v0
  try clear_value v0
  split
  · extract_lets -merge -underBinder v1
    try clear_value v1
    refine fabOk_rel (sub_of hc rfl) ?_
    refine Rel.forL (fun u2 x2 hf2 => ?_) ?_
    · refine modQuire_rel (sub_of hc rfl) ?_
      exact hf2
    · exact h
  · extract_lets -merge -underBinder v3
    try clear_value v3
    split
    · refine fabNo_rel (sub_of hc rfl) ?_
      exact h
    · refine fabOk_rel (sub_of hc rfl) ?_
      refine modEcmp_rel (sub_of hc rfl) ?_
      exact h
  · extract_lets -merge -underBinder v4
    try clear_value v4
    split
    · refine fabNo_rel (sub_of hc rfl) ?_
      exact h
    · refine fabOk_rel (sub_of hc rfl) ?_
      refine ecmpFence_rel (sub_of hc rfl) ?_
      refine modEcmp_rel (sub_of hc rfl) ?_
      exact h
  · extract_lets -merge -underBinder v5
    try clear_value v5
    refine fabOk_rel (sub_of hc rfl) ?_
    refine Rel.forL (fun u6 x6 hf6 => ?_) ?_
    · refine ecmpFence_rel (sub_of hc rfl) ?_
      exact hf6
    · refine Rel.core _ (bit_of 16 hc rfl) ?_
      exact h
  · extract_lets -merge -underBinder v7
    try clear_value v7
    refine fabOk_rel (sub_of hc rfl) ?_
    refine Rel.forL (fun u8 x8 hf8 => ?_) ?_
    · refine ecmpFence_rel (sub_of hc rfl) ?_
      exact hf8
    · refine Rel.core _ (bit_of 16 hc rfl) ?_
      exact h
  · try dsimp -zeta -zetaUnused only
    exact h

theorem mcastDo_rel {ch : Nat} {s u : State} {x1 x2} (hc : 65536 &&& ch = 65536) (h : Rel ch s u) :
    Rel ch s (mcastDo u x1 x2).s := by
  unfold mcastDo
  extract_lets -merge -underBinder v0 v1 v2 v3 v4
  try clear_value v0
  try clear_value v1
  try clear_value v2
  try clear_value v3
  try clear_value v4
  split
  · split
    · refine fabNo_rel (sub_of hc rfl) ?_
      exact h
    · refine fabOk_rel (sub_of hc rfl) ?_
      refine modRgrp_rel (sub_of hc rfl) ?_
      exact h
  · split
    · refine fabNo_rel (sub_of hc rfl) ?_
      exact h
    · refine fabOk_rel (sub_of hc rfl) ?_
      refine modRgrp_rel (sub_of hc rfl) ?_
      exact h
  · extract_lets -merge -underBinder v5
    try clear_value v5
    split
    · refine fabNo_rel (sub_of hc rfl) ?_
      exact h
    · refine fabOk_rel (sub_of hc rfl) ?_
      refine modRgrp_rel (sub_of hc rfl) ?_
      exact h
  · split
    · refine fabNo_rel (sub_of hc rfl) ?_
      exact h
    · refine fabOk_rel (sub_of hc rfl) ?_
      refine modRgrp_rel (sub_of hc rfl) ?_
      exact h
  · extract_lets -merge -underBinder v6 v7 v8 v9
    try clear_value v6
    try clear_value v7
    try clear_value v8
    try clear_value v9
    split
    · refine fabNo_rel (sub_of hc rfl) ?_
      exact h
    · refine fabOk_rel (sub_of hc rfl) ?_
      refine Rel.core _ (bit_of 16 hc rfl) ?_
      exact h
  · try dsimp -zeta -zetaUnused only
    exact h

theorem deckleLocked_rel {ch : Nat} {s u : State} {x1 x2} (hc : 4326914 &&& ch = 4326914) (h : Rel ch s u) :
    Rel ch s (deckleLocked u x1 x2) := by
  unfold deckleLocked
  refine dklLog_rel (sub_of hc rfl) ?_
  exact h

theorem dklOverlap_symm (a b : Deckle) : dklOverlap a b = dklOverlap b a := by
  unfold dklOverlap
  rw [show (a.space == b.space) = (b.space == a.space) from BEq.comm, show (a.stw == b.stw) = (b.stw == a.stw) from BEq.comm,
    show (a.ten == b.ten) = (b.ten == a.ten) from BEq.comm, show (a.dst == b.dst) = (b.dst == a.dst) from BEq.comm,
    Bool.and_comm a.valid, Bool.and_assoc _ (decide (a.base ≤ b.limit)), Bool.and_comm (decide (a.base ≤ b.limit)), ← Bool.and_assoc]

theorem dklOverlap_empty (a : Deckle) : dklOverlap a {} = false := by
  simp [dklOverlap, Deckle.valid, bit]

/-- One more entry that overlaps no other leaves the deckles disjoint. -/
theorem disjoint_tput {m : Tab Deckle} {i : Nat} {e : Deckle} (h : Safety.deckleDisjoint m)
    (he : ∀ j, j ≠ i → dklOverlap e (tget {} m j) = false) : Safety.deckleDisjoint (tput {} m i e) := by
  intro a b hab
  rw [tget_tput, tget_tput]
  split
  · next ha =>
    rw [if_neg (fun hb => hab (ha.trans hb.symm))]
    exact he b (fun hb => hab (ha.trans hb.symm))
  · next ha =>
    split
    · rw [dklOverlap_symm]; exact he a ha
    · exact h a b hab

/-- The overlap check of DECKLE finds every entry that overlaps. -/
theorem dklOverlap_of_any {m : Tab Deckle} {i : Nat} {e : Deckle} (h : m.any (fun x => x.1 != i && dklOverlap e x.2) = false)
    (j : Nat) (hj : j ≠ i) : dklOverlap e (tget {} m j) = false := by
  rcases tget_mem {} m j with he | hm
  · rw [he]; exact dklOverlap_empty e
  · have := List.any_eq_false.mp h _ hm
    simpa [hj] using this

/-- Setting the lock bit leaves the fields below it and the valid bit. -/
theorem fld_lock (v : W64) (lo w : Nat) (h : lo + w ≤ 62) : fld (setFld v 62 1 1) lo w = fld v lo w := by
  have hv := v.isLt
  have e : (setFld v 62 1 1).toNat % 2 ^ 62 = v.toNat % 2 ^ 62 := by
    simp only [setFld, fld, BitVec.toNat_ofNat]
    omega
  have f (x : Nat) : x / 2 ^ lo % 2 ^ w = x % 2 ^ 62 / 2 ^ lo % 2 ^ w := by
    rw [← Nat.mod_mul_right_div_self, ← Nat.mod_mul_right_div_self, ← Nat.pow_add, Nat.mod_mod_of_dvd _ (Nat.pow_dvd_pow 2 h)]
  simp only [fld]
  rw [f, e, ← f]

theorem bit_lock (v : W64) : bit (setFld v 62 1 1) 63 = bit v 63 := by
  have hv := v.isLt
  have e : (setFld v 62 1 1).toNat / 2 ^ 63 = v.toNat / 2 ^ 63 := by
    simp only [setFld, fld, BitVec.toNat_ofNat]
    omega
  simp only [bit]
  rw [e]

theorem dklOverlap_lock (d x : Deckle) : dklOverlap { d with w0 := setFld d.w0 62 1 1 } x = dklOverlap d x := by
  have h61 : bit (setFld d.w0 62 1 1) 61 = bit d.w0 61 := by
    have := fld_lock d.w0 61 1 (by decide)
    simp only [fld] at this
    simp only [bit]
    rw [Nat.pow_one] at this
    rw [this]
  have ev : Deckle.valid { d with w0 := setFld d.w0 62 1 1 } = d.valid := bit_lock d.w0
  have ep : Deckle.stw { d with w0 := setFld d.w0 62 1 1 } = d.stw := h61
  have es : Deckle.space { d with w0 := setFld d.w0 62 1 1 } = d.space := by
    simp only [Deckle.space, Deckle.ten, Deckle.base]
    exact fld_lock _ _ _ (by decide)
  have et : Deckle.ten { d with w0 := setFld d.w0 62 1 1 } = d.ten := by
    simp only [Deckle.space, Deckle.ten, Deckle.base]
    exact fld_lock _ _ _ (by decide)
  have eb : Deckle.base { d with w0 := setFld d.w0 62 1 1 } = d.base := by
    simp only [Deckle.space, Deckle.ten, Deckle.base]
    exact fld_lock _ _ _ (by decide)
  have el : Deckle.limit { d with w0 := setFld d.w0 62 1 1 } = d.limit := by simp only [Deckle.limit]
  have ed : Deckle.dst { d with w0 := setFld d.w0 62 1 1 } = d.dst := by simp only [Deckle.dst]
  generalize ({ d with w0 := setFld d.w0 62 1 1 } : Deckle) = e at *
  unfold dklOverlap
  rw [ev, ep, es, et, eb, el, ed]

/-- Setting the lock of a locked entry leaves it. -/
theorem relock {d : Deckle} (h : d.locked = true) : { d with w0 := setFld d.w0 62 1 1 } = d := by
  have e : setFld d.w0 62 1 1 = d.w0 := by
    have h1 : d.w0.toNat / 2 ^ 62 % 2 = 1 := by
      unfold Deckle.locked bit at h
      simpa using h
    apply BitVec.eq_of_toNat_eq
    have := d.w0.isLt
    simp only [setFld, fld, BitVec.toNat_ofNat]
    omega
  rw [e]

theorem deckleDo_rel {ch : Nat} {s u : State} {x1 x2 x3 x4} (hc : 272762370 &&& ch = 272762370) (h : Rel ch s u) :
    Rel ch s (deckleDo u x1 x2 x3 x4).s := by
  have put {e : Deckle} {i : Nat} (he : Safety.deckleDisjoint u.dkl.tab → ∀ j, j ≠ i → dklOverlap e (tget {} u.dkl.tab j) = false)
      (hl : (getDkl u i).locked = true → e = getDkl u i) :
      Rel ch s { u with dkl := { u.dkl with tab := tput {} u.dkl.tab i e } } :=
    Rel.dklTab _ (fun d => disjoint_tput d (he d)) (fun j hj => by
      rw [tget_tput]
      split
      · next q => rw [q] at hj ⊢; exact hl hj
      · rfl) (bit_of 9 hc rfl) (bit_of 28 hc rfl) h
  unfold deckleDo
  dsimp only
  split
  · split
    · exact fabNo_rel (sub_of hc rfl) (deckleLocked_rel (sub_of hc rfl) h)
    · next hl =>
      split
      · exact fabNo_rel (sub_of hc rfl) h
      · next ho =>
        refine fabOk_rel (sub_of hc rfl) (put (fun _ j hj => dklOverlap_of_any ?_ j hj) fun e => absurd e hl)
        simp only [Bool.or_eq_true, not_or, Bool.not_eq_true] at ho
        exact ho.2
  · split
    · exact fabNo_rel (sub_of hc rfl) (deckleLocked_rel (sub_of hc rfl) h)
    · next hl =>
      split
      · exact fabNo_rel (sub_of hc rfl) h
      · refine fabOk_rel (sub_of hc rfl) (put (fun _ j _ => ?_) fun e => absurd e hl)
        rw [dklOverlap_symm]; exact dklOverlap_empty _
  · split
    · exact fabNo_rel (sub_of hc rfl) h
    · refine fabOk_rel (sub_of hc rfl) (put (fun d j hj => ?_) fun e => relock e)
      rw [dklOverlap_lock]
      exact d _ j (Ne.symm hj)

theorem sheetDo_rel {ch : Nat} {s u : State} {x1 x2} (hc : 134226304 &&& ch = 134226304) (h : Rel ch s u) :
    Rel ch s (sheetDo u x1 x2).s := by
  unfold sheetDo
  extract_lets -merge -underBinder v0 v1 v2
  try clear_value v0
  try clear_value v1
  subst v2
  try dsimp -zeta -zetaUnused -proj only
  split
  · extract_lets -merge -underBinder v3 v4
    try clear_value v3
    try clear_value v4
    split
    · refine fabNo_rel (sub_of hc rfl) ?_
      exact h
    · refine fabOk_rel (sub_of hc rfl) ?_
      refine modUse_rel (sub_of hc rfl) ?_
      refine setSheet_rel (sub_of hc rfl) ?_
      exact h
  · split
    · refine fabNo_rel (sub_of hc rfl) ?_
      exact h
    · refine fabOk_rel (sub_of hc rfl) ?_
      refine freeSlot_rel (sub_of hc rfl) ?_
      refine setSheet_rel (sub_of hc rfl) ?_
      exact h
  · extract_lets -merge -underBinder v5 v6 v7
    try clear_value v5
    try clear_value v6
    have hv7 : Rel ch s v7 := by
      subst v7
      refine Rel.ite ?_ ?_
      · refine freeSlot_rel (sub_of hc rfl) ?_
        exact h
      · exact h
    try clear_value v7
    split
    · refine fabNo_rel (sub_of hc rfl) ?_
      exact h
    · refine fabOk_rel (sub_of hc rfl) ?_
      refine modUse_rel (sub_of hc rfl) ?_
      refine setSheet_rel (sub_of hc rfl) ?_
      exact hv7
  · split
    · refine fabNo_rel (sub_of hc rfl) ?_
      exact h
    · refine fabOk_rel (sub_of hc rfl) ?_
      refine setSheet_rel (sub_of hc rfl) ?_
      exact h
  · split
    · refine fabNo_rel (sub_of hc rfl) ?_
      exact h
    · refine fabOk_rel (sub_of hc rfl) ?_
      refine setSheet_rel (sub_of hc rfl) ?_
      exact h
  · split
    · refine fabNo_rel (sub_of hc rfl) ?_
      exact h
    · refine fabOk_rel (sub_of hc rfl) ?_
      refine freeSlot_rel (sub_of hc rfl) ?_
      refine setSheet_rel (sub_of hc rfl) ?_
      exact h
  · split
    · refine fabNo_rel (sub_of hc rfl) ?_
      exact h
    · refine fabOk_rel (sub_of hc rfl) ?_
      refine modUse_rel (sub_of hc rfl) ?_
      exact h
  · extract_lets -merge -underBinder v8 v9 v10 v11 v12 v13
    try clear_value v8
    try clear_value v9
    try clear_value v10
    try clear_value v11
    have hv12 : Rel ch s v12 := by
      subst v12
      refine modTen_rel (sub_of hc rfl) ?_
      exact h
    try clear_value v12
    try clear_value v13
    split
    · refine fabNo_rel (sub_of hc rfl) ?_
      exact h
    · split
      · refine fabNo_rel (sub_of hc rfl) ?_
        exact h
      · refine fabOk_rel (sub_of hc rfl) ?_
        refine Rel.ite ?_ ?_
        · refine Rel.home _ (bit_of 8 hc rfl) ?_
          exact hv12
        · exact hv12
  · try dsimp -zeta -zetaUnused only
    exact h

theorem mirFinish_rel {ch : Nat} {s u : State} {x1} (hc : 4259840 &&& ch = 4259840) (h : Rel ch s u) :
    Rel ch s (mirFinish u x1) := by
  unfold mirFinish
  extract_lets -merge -underBinder v0
  try clear_value v0
  refine Rel.ite ?_ ?_
  · refine modMir_rel (sub_of hc rfl) ?_
    refine emit_rel (sub_of hc rfl) ?_
    exact h
  · exact h

theorem mirrorDo_rel {ch : Nat} {s u : State} {x1 x2 x3 x4 x5} (hc : 4259840 &&& ch = 4259840) (h : Rel ch s u) :
    Rel ch s (mirrorDo u x1 x2 x3 x4 x5).s := by
  unfold mirrorDo
  extract_lets -merge -underBinder v0 v1 v2
  try clear_value v0
  try clear_value v1
  try clear_value v2
  split
  · refine fabNo_rel (sub_of hc rfl) ?_
    exact h
  · split
    · extract_lets -merge -underBinder v3
      try clear_value v3
      split
      · refine fabNo_rel (sub_of hc rfl) ?_
        exact h
      · refine fabOk_rel (sub_of hc rfl) ?_
        refine modMir_rel (sub_of hc rfl) ?_
        exact h
    · refine fabOk_rel (sub_of hc rfl) ?_
      refine mirFinish_rel (sub_of hc rfl) ?_
      refine modMir_rel (sub_of hc rfl) ?_
      exact h
    · try dsimp -zeta -zetaUnused only
      exact h

end Sys2Proof.Machine
end

