-- ==== Sys2Proof/Laws/RelTraffic.lean ====
section
/-!
SUPPORT. What each operation of Traffic.lean can change, and that it keeps what every command keeps (Laws/Rel.lean).
-/

namespace Sys2Proof.Machine

theorem colourOf_rel {ch : Nat} {s u : State} {x1 x2 x3 x4} (hc : 163840 &&& ch = 163840) (h : Rel ch s u) :
    Rel ch s (colourOf u x1 x2 x3 x4).2 := by
  unfold colourOf
  split
  · first | refine Rel.mk_snd ?_ | skip
    exact h
  · extract_lets -merge -underBinder v0 v1 v2 v3 v4 v5
    try clear_value v0
    try clear_value v1
    try clear_value v2
    try clear_value v3
    have hv4 : Rel ch s v4 := by
      subst v4
      refine modMeter_rel (sub_of hc rfl) ?_
      exact h
    try clear_value v4
    have hv5 : Rel ch s v5 := by
      subst v5
      refine Rel.ite ?_ ?_
      · refine quireCount_rel (sub_of hc rfl) ?_
        exact hv4
      · refine Rel.ite ?_ ?_
        · refine quireCount_rel (sub_of hc rfl) ?_
          exact hv4
        · exact hv4
    try clear_value v5
    split
    · first | refine Rel.mk_snd ?_ | skip
      exact h
    · first | refine Rel.mk_snd ?_ | skip
      exact hv5

end Sys2Proof.Machine
end

