-- ==== Sys2Proof/Laws/RelTrafCfg.lean ====
section
/-!
SUPPORT. What each operation of TrafCfg.lean can change, and that it keeps what every command keeps (Laws/Rel.lean).
-/

namespace Sys2Proof.Machine

theorem releaseRed_rel {ch : Nat} {s u : State} {x0 x2} (hc : 65536 &&& ch = 65536) (h : Rel ch s u) :
    Rel ch s (releaseRed x0 u x2) := by
  unfold releaseRed
  extract_lets -merge -underBinder v0
  try clear_value v0
  refine putPkts_rel (sub_of hc rfl) ?_
  exact h

theorem meterDo_rel {ch : Nat} {s u : State} {x1 x2 x3 x4} (hc : 114688 &&& ch = 114688) (h : Rel ch s u) :
    Rel ch s (meterDo u x1 x2 x3 x4).s := by
  unfold meterDo
  extract_lets -merge -underBinder v0 v1 v2
  try clear_value v0
  try clear_value v1
  try clear_value v2
  split
  · extract_lets -merge -underBinder v3 v4 v5
    try clear_value v3
    try clear_value v4
    have hv5 : Rel ch s v5 := by
      subst v5
      refine modMeter_rel (sub_of hc rfl) ?_
      exact h
    try clear_value v5
    split
    · refine fabNo_rel (sub_of hc rfl) ?_
      exact h
    · refine fabOk_rel (sub_of hc rfl) ?_
      refine Rel.ite ?_ ?_
      · refine Rel.forL (fun u6 x6 hf6 => ?_) ?_
        · refine releaseRed_rel (sub_of hc rfl) ?_
          exact hf6
        · exact hv5
      · exact hv5
  · extract_lets -merge -underBinder v7 v8
    try clear_value v7
    have hv8 : Rel ch s v8 := by
      subst v8
      refine Rel.ite ?_ ?_
      · exact h
      · refine releaseRed_rel (sub_of hc rfl) ?_
        exact h
    try clear_value v8
    split
    · refine fabNo_rel (sub_of hc rfl) ?_
      exact h
    · refine fabOk_rel (sub_of hc rfl) ?_
      refine modPort_rel (sub_of hc rfl) ?_
      exact hv8
  · split
    · refine fabNo_rel (sub_of hc rfl) ?_
      exact h
    · try dsimp -zeta -zetaUnused only
      exact h

theorem shapeDo_rel {ch : Nat} {s u : State} {x1 x2 x3} (hc : 90112 &&& ch = 90112) (h : Rel ch s u) :
    Rel ch s (shapeDo u x1 x2 x3).s := by
  unfold shapeDo
  split
  · extract_lets -merge -underBinder v0 v1 v2
    try clear_value v0
    try clear_value v1
    try clear_value v2
    refine fabOk_rel (sub_of hc rfl) ?_
    refine modQ_rel (sub_of hc rfl) ?_
    exact h
  · refine fabOk_rel (sub_of hc rfl) ?_
    refine modPort_rel (sub_of hc rfl) ?_
    exact h
  · extract_lets -merge -underBinder v3 v4 v5
    try clear_value v3
    try clear_value v4
    try clear_value v5
    split
    · split
      · refine fabOk_rel (sub_of hc rfl) ?_
        refine modTen_rel (sub_of hc rfl) ?_
        exact h
      · refine fabNo_rel (sub_of hc rfl) ?_
        exact h
    · refine fabOk_rel (sub_of hc rfl) ?_
      refine Rel.core _ (bit_of 16 hc rfl) ?_
      exact h

theorem cadFence_rel {ch : Nat} {s u : State} {x1 x2} (hc : 196608 &&& ch = 196608) (h : Rel ch s u) :
    Rel ch s (cadFence u x1 x2) := by
  unfold cadFence
  extract_lets -merge -underBinder v0 v1 v2
  try clear_value v0
  try clear_value v1
  have hv2 : Rel ch s v2 := by
    subst v2
    refine modCad_rel (sub_of hc rfl) ?_
    exact h
  try clear_value v2
  refine Rel.ite ?_ ?_
  · refine portCount_rel (sub_of hc rfl) ?_
    exact hv2
  · refine modOutP_rel (sub_of hc rfl) ?_
    exact hv2

theorem cadChange_rel {ch : Nat} {s u : State} {x1 x2 x3} (hc : 196608 &&& ch = 196608) (h : Rel ch s u) :
    Rel ch s (cadChange u x1 x2 x3).s := by
  unfold cadChange
  split
  · refine fabOk_rel (sub_of hc rfl) ?_
    refine modCad_rel (sub_of hc rfl) ?_
    exact h
  · split
    · refine fabNo_rel (sub_of hc rfl) ?_
      exact h
    · refine fabOk_rel (sub_of hc rfl) ?_
      refine cadFence_rel (sub_of hc rfl) ?_
      refine modCad_rel (sub_of hc rfl) ?_
      exact h

theorem cadDo_rel {ch : Nat} {s u : State} {x1 x2 x3 x4} (hc : 196608 &&& ch = 196608) (h : Rel ch s u) :
    Rel ch s (cadDo u x1 x2 x3 x4).s := by
  unfold cadDo
  extract_lets -merge -underBinder v0 v1
  try clear_value v0
  try clear_value v1
  split
  · refine fabNo_rel (sub_of hc rfl) ?_
    exact h
  · split
    · extract_lets -merge -underBinder v2
      try clear_value v2
      refine cadChange_rel (sub_of hc rfl) ?_
      exact h
    · refine cadChange_rel (sub_of hc rfl) ?_
      exact h
    · split
      · refine fabOk_rel (sub_of hc rfl) ?_
        refine modCad_rel (sub_of hc rfl) ?_
        exact h
      · refine fabNo_rel (sub_of hc rfl) ?_
        exact h
    · extract_lets -merge -underBinder v3
      have hv3 : Rel ch s v3 := by
        subst v3
        refine Rel.ite ?_ ?_
        · refine cadFence_rel (sub_of hc rfl) ?_
          exact h
        · exact h
      try clear_value v3
      refine fabOk_rel (sub_of hc rfl) ?_
      refine modCad_rel (sub_of hc rfl) ?_
      exact hv3

end Sys2Proof.Machine
end

