-- ==== Sys2Proof/Laws/RelFabRun.lean ====
section
/-!
SUPPORT. What each operation of FabRun.lean can change, and that it keeps what every command keeps (Laws/Rel.lean).
-/

namespace Sys2Proof.Machine

theorem fabApply_rel {ch : Nat} {s u : State} {x1 x2 x3 x4 x5 x6} (hc : 407103362 &&& ch = 407103362) (h : Rel ch s u) :
    Rel ch s (fabApply u x1 x2 x3 x4 x5 x6).s := by
  unfold fabApply
  split
  · refine bindDo_rel (sub_of hc rfl) ?_
    exact h
  · refine unbindDo_rel (sub_of hc rfl) ?_
    exact h
  · refine routeDo_rel (sub_of hc rfl) ?_
    exact h
  · refine mcastDo_rel (sub_of hc rfl) ?_
    exact h
  · refine deckleDo_rel (sub_of hc rfl) ?_
    exact h
  · refine sheetDo_rel (sub_of hc rfl) ?_
    exact h
  · refine mirrorDo_rel (sub_of hc rfl) ?_
    exact h
  · refine meterDo_rel (sub_of hc rfl) ?_
    exact h
  · refine shapeDo_rel (sub_of hc rfl) ?_
    exact h
  · refine cadDo_rel (sub_of hc rfl) ?_
    exact h

theorem restartTakes_rel {ch : Nat} {s u : State} {x0} (hc : 12865536 &&& ch = 12865536) (h : Rel ch s u) :
    Rel ch s (restartTakes x0 u) := by
  unfold restartTakes
  extract_lets -merge -underBinder v0 v1 v2 v3
  try clear_value v0
  try clear_value v1
  try clear_value v2
  try clear_value v3
  refine Rel.forL (fun u4 x4 hf4 => ?_) ?_
  · refine takeReady_rel (sub_of hc rfl) ?_
    exact hf4
  · refine Rel.time _ (bit_of 12 hc rfl) ?_
    exact h

theorem stageItem_rel {ch : Nat} {s u : State} {x1 x2 x3 x4} (hc : 12997634 &&& ch = 12997634) (h : Rel ch s u) :
    Rel ch s (stageItem u x1 x2 x3 x4) := by
  unfold stageItem
  split
  · refine retireSt_rel (sub_of hc rfl) ?_
    exact h
  · extract_lets -merge -underBinder v0 v1
    try clear_value v0
    try clear_value v1
    refine Rel.ite ?_ ?_
    · refine retireSt_rel (sub_of hc rfl) ?_
      exact h
    · refine retireSt_rel (sub_of hc rfl) ?_
      refine modTake_rel (sub_of hc rfl) ?_
      exact h

theorem startWalks_rel {ch : Nat} {s u : State} {x1 x2} (hc : 29584770 &&& ch = 29584770) (h : Rel ch s u) :
    Rel ch s (startWalks u x1 x2) := by
  unfold startWalks
  extract_lets -merge -underBinder v0 v1 v2 v3
  try clear_value v0
  try clear_value v1
  try clear_value v2
  try clear_value v3
  refine Rel.foldl (fun u4 x4 hf4 => ?_) ?_
  · refine startRecalls_rel (sub_of hc rfl) ?_
    exact hf4
  · refine Rel.home _ (bit_of 8 hc rfl) ?_
    exact h

theorem fabDirect_rel {ch : Nat} {s u : State} {x1 x2 x3 x4} (hc : 969408386 &&& ch = 969408386) (h : Rel ch s u) :
    Rel ch s (fabDirect u x1 x2 x3 x4) := by
  unfold fabDirect
  extract_lets -merge -underBinder v0 v1 v2
  have hv0 : Rel ch s v0.s := by
    subst v0
    refine fabApply_rel (sub_of hc rfl) ?_
    exact h
  try clear_value v0
  try clear_value v1
  have hv2 : Rel ch s v2 := by
    subst v2
    refine restartTakes_rel (sub_of hc rfl) ?_
    exact hv0
  try clear_value v2
  refine Rel.ite ?_ ?_
  · refine retireSt_rel (sub_of hc rfl) ?_
    exact hv0
  · refine Rel.ite ?_ ?_
    · refine waitWith_rel (sub_of hc rfl) ?_
      refine startWalks_rel (sub_of hc rfl) ?_
      exact hv2
    · refine Rel.ite ?_ ?_
      · refine waitAgain_rel (sub_of hc rfl) ?_
        exact hv2
      · refine Rel.ite ?_ ?_
        · refine retireK_rel (sub_of hc rfl) ?_
          exact hv2
        · refine retireSt_rel (sub_of hc rfl) ?_
          exact hv2

theorem fabRun_rel {ch : Nat} {s u : State} {x0 x1 x2 x3} (hc : 969408386 &&& ch = 969408386) (h : Rel ch s u) :
    Rel ch s (fabRun x0 x1 x2 x3 u) := by
  unfold fabRun
  extract_lets -merge -underBinder v0 v1
  try clear_value v0
  try clear_value v1
  refine Rel.ite ?_ ?_
  · exact h
  · refine oxRun_rel (sub_of hc rfl) (fun y3 y4 hf2 => ?_) ?_
    · refine Rel.ite ?_ ?_
      · refine stageItem_rel (sub_of hc rfl) ?_
        exact hf2
      · refine fabDirect_rel (sub_of hc rfl) ?_
        exact hf2
    · exact h

theorem execBind_rel {ch : Nat} {s u t : State} {x0 x1} (hc : 969408386 &&& ch = 969408386) (h : Rel ch s u)
    (ht : execBind x0 x1 u = .next t) : Rel ch s t := by
  unfold execBind at ht
  refine Rel.unitOk ?_ ht
  refine fabRun_rel (sub_of hc rfl) ?_
  exact h

theorem execUnbind_rel {ch : Nat} {s u t : State} {x0 x1} (hc : 969408386 &&& ch = 969408386) (h : Rel ch s u)
    (ht : execUnbind x0 x1 u = .next t) : Rel ch s t := by
  unfold execUnbind at ht
  refine Rel.unitOk ?_ ht
  refine fabRun_rel (sub_of hc rfl) ?_
  exact h

theorem execRouteEntry_rel {ch : Nat} {s u t : State} {x0 x1} (hc : 969408386 &&& ch = 969408386) (h : Rel ch s u)
    (ht : execRouteEntry x0 x1 u = .next t) : Rel ch s t := by
  unfold execRouteEntry at ht
  refine Rel.unitOk ?_ ht
  refine fabRun_rel (sub_of hc rfl) ?_
  exact h

theorem execRouteMembers_rel {ch : Nat} {s u t : State} {x0 x1} (hc : 969408386 &&& ch = 969408386) (h : Rel ch s u)
    (ht : execRouteMembers x0 x1 u = .next t) : Rel ch s t := by
  unfold execRouteMembers at ht
  refine Rel.unitOk ?_ ht
  refine fabRun_rel (sub_of hc rfl) ?_
  exact h

theorem execRouteBuckets_rel {ch : Nat} {s u t : State} {x0 x1} (hc : 969408386 &&& ch = 969408386) (h : Rel ch s u)
    (ht : execRouteBuckets x0 x1 u = .next t) : Rel ch s t := by
  unfold execRouteBuckets at ht
  refine Rel.unitOk ?_ ht
  refine fabRun_rel (sub_of hc rfl) ?_
  exact h

theorem execRouteSeed_rel {ch : Nat} {s u t : State} {x0 x1} (hc : 969408386 &&& ch = 969408386) (h : Rel ch s u)
    (ht : execRouteSeed x0 x1 u = .next t) : Rel ch s t := by
  unfold execRouteSeed at ht
  refine Rel.unitOk ?_ ht
  refine fabRun_rel (sub_of hc rfl) ?_
  exact h

theorem execRouteHash_rel {ch : Nat} {s u t : State} {x0 x1} (hc : 969408386 &&& ch = 969408386) (h : Rel ch s u)
    (ht : execRouteHash x0 x1 u = .next t) : Rel ch s t := by
  unfold execRouteHash at ht
  refine Rel.unitOk ?_ ht
  refine fabRun_rel (sub_of hc rfl) ?_
  exact h

theorem execRouteRead_rel {ch : Nat} {s u t : State} {x0 x1} (hc : 969408386 &&& ch = 969408386) (h : Rel ch s u)
    (ht : execRouteRead x0 x1 u = .next t) : Rel ch s t := by
  unfold execRouteRead at ht
  refine Rel.unitOk ?_ ht
  refine fabRun_rel (sub_of hc rfl) ?_
  exact h

theorem execMcastHeader_rel {ch : Nat} {s u t : State} {x0 x1} (hc : 969408386 &&& ch = 969408386) (h : Rel ch s u)
    (ht : execMcastHeader x0 x1 u = .next t) : Rel ch s t := by
  unfold execMcastHeader at ht
  refine Rel.unitOk ?_ ht
  refine fabRun_rel (sub_of hc rfl) ?_
  exact h

theorem execMcastMember_rel {ch : Nat} {s u t : State} {x0 x1} (hc : 969408386 &&& ch = 969408386) (h : Rel ch s u)
    (ht : execMcastMember x0 x1 u = .next t) : Rel ch s t := by
  unfold execMcastMember at ht
  refine Rel.unitOk ?_ ht
  refine fabRun_rel (sub_of hc rfl) ?_
  exact h

theorem execMcastState_rel {ch : Nat} {s u t : State} {x0 x1} (hc : 969408386 &&& ch = 969408386) (h : Rel ch s u)
    (ht : execMcastState x0 x1 u = .next t) : Rel ch s t := by
  unfold execMcastState at ht
  refine Rel.unitOk ?_ ht
  refine fabRun_rel (sub_of hc rfl) ?_
  exact h

theorem execMcastFree_rel {ch : Nat} {s u t : State} {x0 x1} (hc : 969408386 &&& ch = 969408386) (h : Rel ch s u)
    (ht : execMcastFree x0 x1 u = .next t) : Rel ch s t := by
  unfold execMcastFree at ht
  refine Rel.unitOk ?_ ht
  refine fabRun_rel (sub_of hc rfl) ?_
  exact h

theorem execMcastOwner_rel {ch : Nat} {s u t : State} {x0 x1} (hc : 969408386 &&& ch = 969408386) (h : Rel ch s u)
    (ht : execMcastOwner x0 x1 u = .next t) : Rel ch s t := by
  unfold execMcastOwner at ht
  refine Rel.unitOk ?_ ht
  refine fabRun_rel (sub_of hc rfl) ?_
  exact h

theorem execMcastRead_rel {ch : Nat} {s u t : State} {x0 x1} (hc : 969408386 &&& ch = 969408386) (h : Rel ch s u)
    (ht : execMcastRead x0 x1 u = .next t) : Rel ch s t := by
  unfold execMcastRead at ht
  refine Rel.unitOk ?_ ht
  refine fabRun_rel (sub_of hc rfl) ?_
  exact h

theorem execDeckleWrite_rel {ch : Nat} {s u t : State} {x0 x1} (hc : 969408386 &&& ch = 969408386) (h : Rel ch s u)
    (ht : execDeckleWrite x0 x1 u = .next t) : Rel ch s t := by
  unfold execDeckleWrite at ht
  refine Rel.unitOk ?_ ht
  refine fabRun_rel (sub_of hc rfl) ?_
  exact h

theorem execDeckleInvalidate_rel {ch : Nat} {s u t : State} {x0 x1} (hc : 969408386 &&& ch = 969408386) (h : Rel ch s u)
    (ht : execDeckleInvalidate x0 x1 u = .next t) : Rel ch s t := by
  unfold execDeckleInvalidate at ht
  refine Rel.unitOk ?_ ht
  refine fabRun_rel (sub_of hc rfl) ?_
  exact h

theorem execDeckleSetLock_rel {ch : Nat} {s u t : State} {x0 x1} (hc : 969408386 &&& ch = 969408386) (h : Rel ch s u)
    (ht : execDeckleSetLock x0 x1 u = .next t) : Rel ch s t := by
  unfold execDeckleSetLock at ht
  refine Rel.unitOk ?_ ht
  refine fabRun_rel (sub_of hc rfl) ?_
  exact h

theorem execSheetGrant_rel {ch : Nat} {s u t : State} {x0 x1} (hc : 969408386 &&& ch = 969408386) (h : Rel ch s u)
    (ht : execSheetGrant x0 x1 u = .next t) : Rel ch s t := by
  unfold execSheetGrant at ht
  refine Rel.unitOk ?_ ht
  refine fabRun_rel (sub_of hc rfl) ?_
  exact h

theorem execSheetFree_rel {ch : Nat} {s u t : State} {x0 x1} (hc : 969408386 &&& ch = 969408386) (h : Rel ch s u)
    (ht : execSheetFree x0 x1 u = .next t) : Rel ch s t := by
  unfold execSheetFree at ht
  refine Rel.unitOk ?_ ht
  refine fabRun_rel (sub_of hc rfl) ?_
  exact h

theorem execSheetAttach_rel {ch : Nat} {s u t : State} {x0 x1} (hc : 969408386 &&& ch = 969408386) (h : Rel ch s u)
    (ht : execSheetAttach x0 x1 u = .next t) : Rel ch s t := by
  unfold execSheetAttach at ht
  refine Rel.unitOk ?_ ht
  refine fabRun_rel (sub_of hc rfl) ?_
  exact h

theorem execSheetActivate_rel {ch : Nat} {s u t : State} {x0 x1} (hc : 969408386 &&& ch = 969408386) (h : Rel ch s u)
    (ht : execSheetActivate x0 x1 u = .next t) : Rel ch s t := by
  unfold execSheetActivate at ht
  refine Rel.unitOk ?_ ht
  refine fabRun_rel (sub_of hc rfl) ?_
  exact h

theorem execSheetSwap_rel {ch : Nat} {s u t : State} {x0 x1} (hc : 969408386 &&& ch = 969408386) (h : Rel ch s u)
    (ht : execSheetSwap x0 x1 u = .next t) : Rel ch s t := by
  unfold execSheetSwap at ht
  refine Rel.unitOk ?_ ht
  refine fabRun_rel (sub_of hc rfl) ?_
  exact h

theorem execSheetDetach_rel {ch : Nat} {s u t : State} {x0 x1} (hc : 969408386 &&& ch = 969408386) (h : Rel ch s u)
    (ht : execSheetDetach x0 x1 u = .next t) : Rel ch s t := by
  unfold execSheetDetach at ht
  refine Rel.unitOk ?_ ht
  refine fabRun_rel (sub_of hc rfl) ?_
  exact h

theorem execSheetRetire_rel {ch : Nat} {s u t : State} {x0 x1} (hc : 969408386 &&& ch = 969408386) (h : Rel ch s u)
    (ht : execSheetRetire x0 x1 u = .next t) : Rel ch s t := by
  unfold execSheetRetire at ht
  refine Rel.unitOk ?_ ht
  refine fabRun_rel (sub_of hc rfl) ?_
  exact h

theorem execSheetReam_rel {ch : Nat} {s u t : State} {x0 x1} (hc : 969408386 &&& ch = 969408386) (h : Rel ch s u)
    (ht : execSheetReam x0 x1 u = .next t) : Rel ch s t := by
  unfold execSheetReam at ht
  refine Rel.unitOk ?_ ht
  refine fabRun_rel (sub_of hc rfl) ?_
  exact h

theorem execSheetQuery_rel {ch : Nat} {s u t : State} {x0 x1} (hc : 969408386 &&& ch = 969408386) (h : Rel ch s u)
    (ht : execSheetQuery x0 x1 u = .next t) : Rel ch s t := by
  unfold execSheetQuery at ht
  refine Rel.unitOk ?_ ht
  refine fabRun_rel (sub_of hc rfl) ?_
  exact h

theorem execMirrorEnable_rel {ch : Nat} {s u t : State} {x0 x1} (hc : 969408386 &&& ch = 969408386) (h : Rel ch s u)
    (ht : execMirrorEnable x0 x1 u = .next t) : Rel ch s t := by
  unfold execMirrorEnable at ht
  refine Rel.unitOk ?_ ht
  refine fabRun_rel (sub_of hc rfl) ?_
  exact h

theorem execMirrorDisable_rel {ch : Nat} {s u t : State} {x0 x1} (hc : 969408386 &&& ch = 969408386) (h : Rel ch s u)
    (ht : execMirrorDisable x0 x1 u = .next t) : Rel ch s t := by
  unfold execMirrorDisable at ht
  refine Rel.unitOk ?_ ht
  refine fabRun_rel (sub_of hc rfl) ?_
  exact h

theorem execMirrorReadLost_rel {ch : Nat} {s u t : State} {x0 x1} (hc : 969408386 &&& ch = 969408386) (h : Rel ch s u)
    (ht : execMirrorReadLost x0 x1 u = .next t) : Rel ch s t := by
  unfold execMirrorReadLost at ht
  refine Rel.unitOk ?_ ht
  refine fabRun_rel (sub_of hc rfl) ?_
  exact h

theorem execMeterConfigure_rel {ch : Nat} {s u t : State} {x0 x1} (hc : 969408386 &&& ch = 969408386) (h : Rel ch s u)
    (ht : execMeterConfigure x0 x1 u = .next t) : Rel ch s t := by
  unfold execMeterConfigure at ht
  refine Rel.unitOk ?_ ht
  refine fabRun_rel (sub_of hc rfl) ?_
  exact h

theorem execMeterBind_rel {ch : Nat} {s u t : State} {x0 x1} (hc : 969408386 &&& ch = 969408386) (h : Rel ch s u)
    (ht : execMeterBind x0 x1 u = .next t) : Rel ch s t := by
  unfold execMeterBind at ht
  refine Rel.unitOk ?_ ht
  refine fabRun_rel (sub_of hc rfl) ?_
  exact h

theorem execMeterRead_rel {ch : Nat} {s u t : State} {x0 x1} (hc : 969408386 &&& ch = 969408386) (h : Rel ch s u)
    (ht : execMeterRead x0 x1 u = .next t) : Rel ch s t := by
  unfold execMeterRead at ht
  refine Rel.unitOk ?_ ht
  refine fabRun_rel (sub_of hc rfl) ?_
  exact h

theorem execShapeShaper_rel {ch : Nat} {s u t : State} {x0 x1} (hc : 969408386 &&& ch = 969408386) (h : Rel ch s u)
    (ht : execShapeShaper x0 x1 u = .next t) : Rel ch s t := by
  unfold execShapeShaper at ht
  refine Rel.unitOk ?_ ht
  refine fabRun_rel (sub_of hc rfl) ?_
  exact h

theorem execShapePriority_rel {ch : Nat} {s u t : State} {x0 x1} (hc : 969408386 &&& ch = 969408386) (h : Rel ch s u)
    (ht : execShapePriority x0 x1 u = .next t) : Rel ch s t := by
  unfold execShapePriority at ht
  refine Rel.unitOk ?_ ht
  refine fabRun_rel (sub_of hc rfl) ?_
  exact h

theorem execShapeQuantum_rel {ch : Nat} {s u t : State} {x0 x1} (hc : 969408386 &&& ch = 969408386) (h : Rel ch s u)
    (ht : execShapeQuantum x0 x1 u = .next t) : Rel ch s t := by
  unfold execShapeQuantum at ht
  refine Rel.unitOk ?_ ht
  refine fabRun_rel (sub_of hc rfl) ?_
  exact h

theorem execCadenceConfigure_rel {ch : Nat} {s u t : State} {x0 x1} (hc : 969408386 &&& ch = 969408386) (h : Rel ch s u)
    (ht : execCadenceConfigure x0 x1 u = .next t) : Rel ch s t := by
  unfold execCadenceConfigure at ht
  refine Rel.unitOk ?_ ht
  refine fabRun_rel (sub_of hc rfl) ?_
  exact h

theorem execCadenceWindow_rel {ch : Nat} {s u t : State} {x0 x1} (hc : 969408386 &&& ch = 969408386) (h : Rel ch s u)
    (ht : execCadenceWindow x0 x1 u = .next t) : Rel ch s t := by
  unfold execCadenceWindow at ht
  refine Rel.unitOk ?_ ht
  refine fabRun_rel (sub_of hc rfl) ?_
  exact h

theorem execCadenceEnable_rel {ch : Nat} {s u t : State} {x0 x1} (hc : 969408386 &&& ch = 969408386) (h : Rel ch s u)
    (ht : execCadenceEnable x0 x1 u = .next t) : Rel ch s t := by
  unfold execCadenceEnable at ht
  refine Rel.unitOk ?_ ht
  refine fabRun_rel (sub_of hc rfl) ?_
  exact h

theorem execCadenceDisable_rel {ch : Nat} {s u t : State} {x0 x1} (hc : 969408386 &&& ch = 969408386) (h : Rel ch s u)
    (ht : execCadenceDisable x0 x1 u = .next t) : Rel ch s t := by
  unfold execCadenceDisable at ht
  refine Rel.unitOk ?_ ht
  refine fabRun_rel (sub_of hc rfl) ?_
  exact h

end Sys2Proof.Machine
end

