-- ==== Sys2Proof/Laws/Bits.lean ====
section
/-!
SUPPORT. Bits of fields: what reading and writing a field of a word comes to, bit by bit.
-/

namespace Sys2Proof.Machine

theorem bit_eq {n : Nat} (v : BitVec n) (i : Nat) : bit v i = v.getLsbD i := by
  simp only [bit, BitVec.getLsbD, Nat.testBit_eq_decide_div_mod_eq, Bool.beq_eq_decide_eq]

theorem fld_testBit {n : Nat} (v : BitVec n) (lo w i : Nat) : (fld v lo w).testBit i = (decide (i < w) && v.getLsbD (lo + i)) := by
  simp only [fld, Nat.testBit_mod_two_pow, Nat.testBit_div_two_pow, BitVec.getLsbD]
  rw [Nat.add_comm]

theorem fld_lt {n : Nat} (v : BitVec n) (lo w : Nat) : fld v lo w < 2 ^ w := Nat.mod_lt _ (Nat.two_pow_pos w)

/-- The number with one field replaced. -/
theorem field_split (m lo w x : Nat) :
    m - m / 2 ^ lo % 2 ^ w * 2 ^ lo + x * 2 ^ lo = 2 ^ lo * (2 ^ w * (m / 2 ^ lo / 2 ^ w) + x) + m % 2 ^ lo := by
  have a := Nat.div_add_mod m (2 ^ lo)
  have b := Nat.div_add_mod (m / 2 ^ lo) (2 ^ w)
  generalize m / 2 ^ lo = q at *
  generalize q / 2 ^ w = h at *
  generalize q % 2 ^ w = l at *
  generalize m % 2 ^ lo = r at *
  subst b
  have e : m = 2 ^ lo * (2 ^ w * h) + l * 2 ^ lo + r := by rw [← a, Nat.mul_add, Nat.mul_comm l]
  rw [e, Nat.mul_add (2 ^ lo) (2 ^ w * h) x, Nat.mul_comm (2 ^ lo) x]
  omega

theorem setFld_bits {n : Nat} (v : BitVec n) (lo w x i : Nat) :
    (setFld v lo w x).getLsbD i =
      (decide (i < n) && if lo ≤ i ∧ i < lo + w then x.testBit (i - lo) else v.getLsbD i) := by
  unfold setFld fld
  rw [BitVec.getLsbD_ofNat, field_split, Nat.testBit_two_pow_mul_add _ (Nat.mod_lt _ (Nat.two_pow_pos lo)),
    Nat.testBit_two_pow_mul_add _ (Nat.mod_lt _ (Nat.two_pow_pos w))]
  congr 1
  by_cases h1 : i < lo
  · have : ¬ (lo ≤ i ∧ i < lo + w) := by omega
    simp only [h1, if_true, this, if_false, Nat.testBit_mod_two_pow, decide_true, Bool.true_and, BitVec.getLsbD]
  · simp only [h1, if_false]
    by_cases h2 : i - lo < w
    · have : lo ≤ i ∧ i < lo + w := by omega
      simp only [h2, this, if_true, and_self, Nat.testBit_mod_two_pow, decide_true, Bool.true_and]
    · have : ¬ (lo ≤ i ∧ i < lo + w) := by omega
      simp only [h2, this, if_false, Nat.testBit_div_two_pow, BitVec.getLsbD]
      congr 1
      omega

/-- A field written is read back. -/
theorem fld_setFld {n : Nat} (v : BitVec n) (lo w x : Nat) (hn : lo + w ≤ n) : fld (setFld v lo w x) lo w = x % 2 ^ w := by
  apply Nat.eq_of_testBit_eq
  intro i
  rw [fld_testBit, setFld_bits, Nat.testBit_mod_two_pow]
  by_cases h : i < w
  · have h1 : lo + i < n := by omega
    have h2 : lo ≤ lo + i ∧ lo + i < lo + w := by omega
    simp [h, h1]
  · simp [h]

/-- A field apart from the one written is read as before. -/
theorem fld_setFld_other {n : Nat} (v : BitVec n) (lo w x lo' w' : Nat) (hn : lo' + w' ≤ n) (h : lo' + w' ≤ lo ∨ lo + w ≤ lo') :
    fld (setFld v lo w x) lo' w' = fld v lo' w' := by
  apply Nat.eq_of_testBit_eq
  intro i
  rw [fld_testBit, fld_testBit, setFld_bits]
  by_cases hi : i < w'
  · have h1 : lo' + i < n := by omega
    have h2 : ¬ (lo ≤ lo' + i ∧ lo' + i < lo + w) := by omega
    simp [h1, h2]
  · simp [hi]

end Sys2Proof.Machine
end

