-- ==== Sys2Proof/Laws/Fields.lean ====
section
/-!
SUPPORT. What the shared operations leave: one lemma for each operation and each field it does not touch, from Laws/Rel*.lean.
-/

namespace Sys2Proof.Machine

@[simp] theorem cntAdd_glb {s : State} {x1 x2} : (cntAdd s x1 x2).glb = s.glb := (cntAdd_rel (ch := 131072) rfl (Rel.refl s)).f0 rfl
@[simp] theorem cntAdd_cmd {s : State} {x1 x2} : (cntAdd s x1 x2).cmd = s.cmd := (cntAdd_rel (ch := 131072) rfl (Rel.refl s)).f1 rfl
@[simp] theorem cntAdd_pwr {s : State} {x1 x2} : (cntAdd s x1 x2).pwr = s.pwr := (cntAdd_rel (ch := 131072) rfl (Rel.refl s)).f2 rfl
@[simp] theorem cntAdd_pace {s : State} {x1 x2} : (cntAdd s x1 x2).pace = s.pace := (cntAdd_rel (ch := 131072) rfl (Rel.refl s)).f3 rfl
@[simp] theorem cntAdd_slot {s : State} {x1 x2} : (cntAdd s x1 x2).slot = s.slot := (cntAdd_rel (ch := 131072) rfl (Rel.refl s)).f4 rfl
@[simp] theorem cntAdd_pwrfail {s : State} {x1 x2} : (cntAdd s x1 x2).pwrfail = s.pwrfail := (cntAdd_rel (ch := 131072) rfl (Rel.refl s)).f5 rfl
@[simp] theorem cntAdd_slotHold {s : State} {x1 x2} : (cntAdd s x1 x2).slotHold = s.slotHold := (cntAdd_rel (ch := 131072) rfl (Rel.refl s)).f6 rfl
@[simp] theorem cntAdd_pool {s : State} {x1 x2} : (cntAdd s x1 x2).pool = s.pool := (cntAdd_rel (ch := 131072) rfl (Rel.refl s)).f7 rfl
@[simp] theorem cntAdd_home {s : State} {x1 x2} : (cntAdd s x1 x2).home = s.home := (cntAdd_rel (ch := 131072) rfl (Rel.refl s)).f8 rfl
@[simp] theorem cntAdd_dkl {s : State} {x1 x2} : (cntAdd s x1 x2).dkl = s.dkl := (cntAdd_rel (ch := 131072) rfl (Rel.refl s)).f9 rfl
@[simp] theorem cntAdd_seq {s : State} {x1 x2} : (cntAdd s x1 x2).seq = s.seq := (cntAdd_rel (ch := 131072) rfl (Rel.refl s)).f10 rfl
@[simp] theorem cntAdd_mov {s : State} {x1 x2} : (cntAdd s x1 x2).mov = s.mov := (cntAdd_rel (ch := 131072) rfl (Rel.refl s)).f11 rfl
@[simp] theorem cntAdd_time {s : State} {x1 x2} : (cntAdd s x1 x2).time = s.time := (cntAdd_rel (ch := 131072) rfl (Rel.refl s)).f12 rfl
@[simp] theorem cntAdd_ten {s : State} {x1 x2} : (cntAdd s x1 x2).ten = s.ten := (cntAdd_rel (ch := 131072) rfl (Rel.refl s)).f13 rfl
@[simp] theorem cntAdd_port {s : State} {x1 x2} : (cntAdd s x1 x2).port = s.port := (cntAdd_rel (ch := 131072) rfl (Rel.refl s)).f14 rfl
@[simp] theorem cntAdd_quire {s : State} {x1 x2} : (cntAdd s x1 x2).quire = s.quire := (cntAdd_rel (ch := 131072) rfl (Rel.refl s)).f15 rfl
@[simp] theorem cntAdd_core {s : State} {x1 x2} : (cntAdd s x1 x2).core = s.core := (cntAdd_rel (ch := 131072) rfl (Rel.refl s)).f16 rfl
@[simp] theorem cntAdd_stk {s : State} {x1 x2} : (cntAdd s x1 x2).stk = s.stk := (cntAdd_rel (ch := 131072) rfl (Rel.refl s)).f18 rfl
@[simp] theorem cntAdd_tap {s : State} {x1 x2} : (cntAdd s x1 x2).tap = s.tap := (cntAdd_rel (ch := 131072) rfl (Rel.refl s)).f19 rfl
@[simp] theorem cntAdd_pairLo {s : State} {x1 x2} : (cntAdd s x1 x2).pairLo = s.pairLo := (cntAdd_rel (ch := 131072) rfl (Rel.refl s)).f20 rfl
@[simp] theorem cntAdd_pairHi {s : State} {x1 x2} : (cntAdd s x1 x2).pairHi = s.pairHi := (cntAdd_rel (ch := 131072) rfl (Rel.refl s)).f21 rfl
@[simp] theorem cntAdd_out {s : State} {x1 x2} : (cntAdd s x1 x2).out = s.out := (cntAdd_rel (ch := 131072) rfl (Rel.refl s)).f22 rfl
@[simp] theorem cntAdd_fresh {s : State} {x1 x2} : (cntAdd s x1 x2).fresh = s.fresh := (cntAdd_rel (ch := 131072) rfl (Rel.refl s)).f23 rfl
@[simp] theorem cntAdd_nextId {s : State} {x1 x2} : (cntAdd s x1 x2).nextId = s.nextId := (cntAdd_rel (ch := 131072) rfl (Rel.refl s)).f24 rfl
@[simp] theorem cntAdd_pending {s : State} {x1 x2} : (cntAdd s x1 x2).pending = s.pending := (cntAdd_rel (ch := 131072) rfl (Rel.refl s)).pend

@[simp] theorem cntSub_glb {s : State} {x1 x2} : (cntSub s x1 x2).glb = s.glb := (cntSub_rel (ch := 131072) rfl (Rel.refl s)).f0 rfl
@[simp] theorem cntSub_cmd {s : State} {x1 x2} : (cntSub s x1 x2).cmd = s.cmd := (cntSub_rel (ch := 131072) rfl (Rel.refl s)).f1 rfl
@[simp] theorem cntSub_pwr {s : State} {x1 x2} : (cntSub s x1 x2).pwr = s.pwr := (cntSub_rel (ch := 131072) rfl (Rel.refl s)).f2 rfl
@[simp] theorem cntSub_pace {s : State} {x1 x2} : (cntSub s x1 x2).pace = s.pace := (cntSub_rel (ch := 131072) rfl (Rel.refl s)).f3 rfl
@[simp] theorem cntSub_slot {s : State} {x1 x2} : (cntSub s x1 x2).slot = s.slot := (cntSub_rel (ch := 131072) rfl (Rel.refl s)).f4 rfl
@[simp] theorem cntSub_pwrfail {s : State} {x1 x2} : (cntSub s x1 x2).pwrfail = s.pwrfail := (cntSub_rel (ch := 131072) rfl (Rel.refl s)).f5 rfl
@[simp] theorem cntSub_slotHold {s : State} {x1 x2} : (cntSub s x1 x2).slotHold = s.slotHold := (cntSub_rel (ch := 131072) rfl (Rel.refl s)).f6 rfl
@[simp] theorem cntSub_pool {s : State} {x1 x2} : (cntSub s x1 x2).pool = s.pool := (cntSub_rel (ch := 131072) rfl (Rel.refl s)).f7 rfl
@[simp] theorem cntSub_home {s : State} {x1 x2} : (cntSub s x1 x2).home = s.home := (cntSub_rel (ch := 131072) rfl (Rel.refl s)).f8 rfl
@[simp] theorem cntSub_dkl {s : State} {x1 x2} : (cntSub s x1 x2).dkl = s.dkl := (cntSub_rel (ch := 131072) rfl (Rel.refl s)).f9 rfl
@[simp] theorem cntSub_seq {s : State} {x1 x2} : (cntSub s x1 x2).seq = s.seq := (cntSub_rel (ch := 131072) rfl (Rel.refl s)).f10 rfl
@[simp] theorem cntSub_mov {s : State} {x1 x2} : (cntSub s x1 x2).mov = s.mov := (cntSub_rel (ch := 131072) rfl (Rel.refl s)).f11 rfl
@[simp] theorem cntSub_time {s : State} {x1 x2} : (cntSub s x1 x2).time = s.time := (cntSub_rel (ch := 131072) rfl (Rel.refl s)).f12 rfl
@[simp] theorem cntSub_ten {s : State} {x1 x2} : (cntSub s x1 x2).ten = s.ten := (cntSub_rel (ch := 131072) rfl (Rel.refl s)).f13 rfl
@[simp] theorem cntSub_port {s : State} {x1 x2} : (cntSub s x1 x2).port = s.port := (cntSub_rel (ch := 131072) rfl (Rel.refl s)).f14 rfl
@[simp] theorem cntSub_quire {s : State} {x1 x2} : (cntSub s x1 x2).quire = s.quire := (cntSub_rel (ch := 131072) rfl (Rel.refl s)).f15 rfl
@[simp] theorem cntSub_core {s : State} {x1 x2} : (cntSub s x1 x2).core = s.core := (cntSub_rel (ch := 131072) rfl (Rel.refl s)).f16 rfl
@[simp] theorem cntSub_stk {s : State} {x1 x2} : (cntSub s x1 x2).stk = s.stk := (cntSub_rel (ch := 131072) rfl (Rel.refl s)).f18 rfl
@[simp] theorem cntSub_tap {s : State} {x1 x2} : (cntSub s x1 x2).tap = s.tap := (cntSub_rel (ch := 131072) rfl (Rel.refl s)).f19 rfl
@[simp] theorem cntSub_pairLo {s : State} {x1 x2} : (cntSub s x1 x2).pairLo = s.pairLo := (cntSub_rel (ch := 131072) rfl (Rel.refl s)).f20 rfl
@[simp] theorem cntSub_pairHi {s : State} {x1 x2} : (cntSub s x1 x2).pairHi = s.pairHi := (cntSub_rel (ch := 131072) rfl (Rel.refl s)).f21 rfl
@[simp] theorem cntSub_out {s : State} {x1 x2} : (cntSub s x1 x2).out = s.out := (cntSub_rel (ch := 131072) rfl (Rel.refl s)).f22 rfl
@[simp] theorem cntSub_fresh {s : State} {x1 x2} : (cntSub s x1 x2).fresh = s.fresh := (cntSub_rel (ch := 131072) rfl (Rel.refl s)).f23 rfl
@[simp] theorem cntSub_nextId {s : State} {x1 x2} : (cntSub s x1 x2).nextId = s.nextId := (cntSub_rel (ch := 131072) rfl (Rel.refl s)).f24 rfl
@[simp] theorem cntSub_pending {s : State} {x1 x2} : (cntSub s x1 x2).pending = s.pending := (cntSub_rel (ch := 131072) rfl (Rel.refl s)).pend

@[simp] theorem countEv_glb {s : State} {x1 x2 x3 x4} : (countEv s x1 x2 x3 x4).glb = s.glb := (countEv_rel (ch := 131072) rfl (Rel.refl s)).f0 rfl
@[simp] theorem countEv_cmd {s : State} {x1 x2 x3 x4} : (countEv s x1 x2 x3 x4).cmd = s.cmd := (countEv_rel (ch := 131072) rfl (Rel.refl s)).f1 rfl
@[simp] theorem countEv_pwr {s : State} {x1 x2 x3 x4} : (countEv s x1 x2 x3 x4).pwr = s.pwr := (countEv_rel (ch := 131072) rfl (Rel.refl s)).f2 rfl
@[simp] theorem countEv_pace {s : State} {x1 x2 x3 x4} : (countEv s x1 x2 x3 x4).pace = s.pace := (countEv_rel (ch := 131072) rfl (Rel.refl s)).f3 rfl
@[simp] theorem countEv_slot {s : State} {x1 x2 x3 x4} : (countEv s x1 x2 x3 x4).slot = s.slot := (countEv_rel (ch := 131072) rfl (Rel.refl s)).f4 rfl
@[simp] theorem countEv_pwrfail {s : State} {x1 x2 x3 x4} : (countEv s x1 x2 x3 x4).pwrfail = s.pwrfail := (countEv_rel (ch := 131072) rfl (Rel.refl s)).f5 rfl
@[simp] theorem countEv_slotHold {s : State} {x1 x2 x3 x4} : (countEv s x1 x2 x3 x4).slotHold = s.slotHold := (countEv_rel (ch := 131072) rfl (Rel.refl s)).f6 rfl
@[simp] theorem countEv_pool {s : State} {x1 x2 x3 x4} : (countEv s x1 x2 x3 x4).pool = s.pool := (countEv_rel (ch := 131072) rfl (Rel.refl s)).f7 rfl
@[simp] theorem countEv_home {s : State} {x1 x2 x3 x4} : (countEv s x1 x2 x3 x4).home = s.home := (countEv_rel (ch := 131072) rfl (Rel.refl s)).f8 rfl
@[simp] theorem countEv_dkl {s : State} {x1 x2 x3 x4} : (countEv s x1 x2 x3 x4).dkl = s.dkl := (countEv_rel (ch := 131072) rfl (Rel.refl s)).f9 rfl
@[simp] theorem countEv_seq {s : State} {x1 x2 x3 x4} : (countEv s x1 x2 x3 x4).seq = s.seq := (countEv_rel (ch := 131072) rfl (Rel.refl s)).f10 rfl
@[simp] theorem countEv_mov {s : State} {x1 x2 x3 x4} : (countEv s x1 x2 x3 x4).mov = s.mov := (countEv_rel (ch := 131072) rfl (Rel.refl s)).f11 rfl
@[simp] theorem countEv_time {s : State} {x1 x2 x3 x4} : (countEv s x1 x2 x3 x4).time = s.time := (countEv_rel (ch := 131072) rfl (Rel.refl s)).f12 rfl
@[simp] theorem countEv_ten {s : State} {x1 x2 x3 x4} : (countEv s x1 x2 x3 x4).ten = s.ten := (countEv_rel (ch := 131072) rfl (Rel.refl s)).f13 rfl
@[simp] theorem countEv_port {s : State} {x1 x2 x3 x4} : (countEv s x1 x2 x3 x4).port = s.port := (countEv_rel (ch := 131072) rfl (Rel.refl s)).f14 rfl
@[simp] theorem countEv_quire {s : State} {x1 x2 x3 x4} : (countEv s x1 x2 x3 x4).quire = s.quire := (countEv_rel (ch := 131072) rfl (Rel.refl s)).f15 rfl
@[simp] theorem countEv_core {s : State} {x1 x2 x3 x4} : (countEv s x1 x2 x3 x4).core = s.core := (countEv_rel (ch := 131072) rfl (Rel.refl s)).f16 rfl
@[simp] theorem countEv_stk {s : State} {x1 x2 x3 x4} : (countEv s x1 x2 x3 x4).stk = s.stk := (countEv_rel (ch := 131072) rfl (Rel.refl s)).f18 rfl
@[simp] theorem countEv_tap {s : State} {x1 x2 x3 x4} : (countEv s x1 x2 x3 x4).tap = s.tap := (countEv_rel (ch := 131072) rfl (Rel.refl s)).f19 rfl
@[simp] theorem countEv_pairLo {s : State} {x1 x2 x3 x4} : (countEv s x1 x2 x3 x4).pairLo = s.pairLo := (countEv_rel (ch := 131072) rfl (Rel.refl s)).f20 rfl
@[simp] theorem countEv_pairHi {s : State} {x1 x2 x3 x4} : (countEv s x1 x2 x3 x4).pairHi = s.pairHi := (countEv_rel (ch := 131072) rfl (Rel.refl s)).f21 rfl
@[simp] theorem countEv_out {s : State} {x1 x2 x3 x4} : (countEv s x1 x2 x3 x4).out = s.out := (countEv_rel (ch := 131072) rfl (Rel.refl s)).f22 rfl
@[simp] theorem countEv_fresh {s : State} {x1 x2 x3 x4} : (countEv s x1 x2 x3 x4).fresh = s.fresh := (countEv_rel (ch := 131072) rfl (Rel.refl s)).f23 rfl
@[simp] theorem countEv_nextId {s : State} {x1 x2 x3 x4} : (countEv s x1 x2 x3 x4).nextId = s.nextId := (countEv_rel (ch := 131072) rfl (Rel.refl s)).f24 rfl
@[simp] theorem countEv_pending {s : State} {x1 x2 x3 x4} : (countEv s x1 x2 x3 x4).pending = s.pending := (countEv_rel (ch := 131072) rfl (Rel.refl s)).pend

@[simp] theorem portCount_glb {s : State} {x1 x2 x3 x4} : (portCount s x1 x2 x3 x4).glb = s.glb := (portCount_rel (ch := 131072) rfl (Rel.refl s)).f0 rfl
@[simp] theorem portCount_cmd {s : State} {x1 x2 x3 x4} : (portCount s x1 x2 x3 x4).cmd = s.cmd := (portCount_rel (ch := 131072) rfl (Rel.refl s)).f1 rfl
@[simp] theorem portCount_pwr {s : State} {x1 x2 x3 x4} : (portCount s x1 x2 x3 x4).pwr = s.pwr := (portCount_rel (ch := 131072) rfl (Rel.refl s)).f2 rfl
@[simp] theorem portCount_pace {s : State} {x1 x2 x3 x4} : (portCount s x1 x2 x3 x4).pace = s.pace := (portCount_rel (ch := 131072) rfl (Rel.refl s)).f3 rfl
@[simp] theorem portCount_slot {s : State} {x1 x2 x3 x4} : (portCount s x1 x2 x3 x4).slot = s.slot := (portCount_rel (ch := 131072) rfl (Rel.refl s)).f4 rfl
@[simp] theorem portCount_pwrfail {s : State} {x1 x2 x3 x4} : (portCount s x1 x2 x3 x4).pwrfail = s.pwrfail := (portCount_rel (ch := 131072) rfl (Rel.refl s)).f5 rfl
@[simp] theorem portCount_slotHold {s : State} {x1 x2 x3 x4} : (portCount s x1 x2 x3 x4).slotHold = s.slotHold := (portCount_rel (ch := 131072) rfl (Rel.refl s)).f6 rfl
@[simp] theorem portCount_pool {s : State} {x1 x2 x3 x4} : (portCount s x1 x2 x3 x4).pool = s.pool := (portCount_rel (ch := 131072) rfl (Rel.refl s)).f7 rfl
@[simp] theorem portCount_home {s : State} {x1 x2 x3 x4} : (portCount s x1 x2 x3 x4).home = s.home := (portCount_rel (ch := 131072) rfl (Rel.refl s)).f8 rfl
@[simp] theorem portCount_dkl {s : State} {x1 x2 x3 x4} : (portCount s x1 x2 x3 x4).dkl = s.dkl := (portCount_rel (ch := 131072) rfl (Rel.refl s)).f9 rfl
@[simp] theorem portCount_seq {s : State} {x1 x2 x3 x4} : (portCount s x1 x2 x3 x4).seq = s.seq := (portCount_rel (ch := 131072) rfl (Rel.refl s)).f10 rfl
@[simp] theorem portCount_mov {s : State} {x1 x2 x3 x4} : (portCount s x1 x2 x3 x4).mov = s.mov := (portCount_rel (ch := 131072) rfl (Rel.refl s)).f11 rfl
@[simp] theorem portCount_time {s : State} {x1 x2 x3 x4} : (portCount s x1 x2 x3 x4).time = s.time := (portCount_rel (ch := 131072) rfl (Rel.refl s)).f12 rfl
@[simp] theorem portCount_ten {s : State} {x1 x2 x3 x4} : (portCount s x1 x2 x3 x4).ten = s.ten := (portCount_rel (ch := 131072) rfl (Rel.refl s)).f13 rfl
@[simp] theorem portCount_port {s : State} {x1 x2 x3 x4} : (portCount s x1 x2 x3 x4).port = s.port := (portCount_rel (ch := 131072) rfl (Rel.refl s)).f14 rfl
@[simp] theorem portCount_quire {s : State} {x1 x2 x3 x4} : (portCount s x1 x2 x3 x4).quire = s.quire := (portCount_rel (ch := 131072) rfl (Rel.refl s)).f15 rfl
@[simp] theorem portCount_core {s : State} {x1 x2 x3 x4} : (portCount s x1 x2 x3 x4).core = s.core := (portCount_rel (ch := 131072) rfl (Rel.refl s)).f16 rfl
@[simp] theorem portCount_stk {s : State} {x1 x2 x3 x4} : (portCount s x1 x2 x3 x4).stk = s.stk := (portCount_rel (ch := 131072) rfl (Rel.refl s)).f18 rfl
@[simp] theorem portCount_tap {s : State} {x1 x2 x3 x4} : (portCount s x1 x2 x3 x4).tap = s.tap := (portCount_rel (ch := 131072) rfl (Rel.refl s)).f19 rfl
@[simp] theorem portCount_pairLo {s : State} {x1 x2 x3 x4} : (portCount s x1 x2 x3 x4).pairLo = s.pairLo := (portCount_rel (ch := 131072) rfl (Rel.refl s)).f20 rfl
@[simp] theorem portCount_pairHi {s : State} {x1 x2 x3 x4} : (portCount s x1 x2 x3 x4).pairHi = s.pairHi := (portCount_rel (ch := 131072) rfl (Rel.refl s)).f21 rfl
@[simp] theorem portCount_out {s : State} {x1 x2 x3 x4} : (portCount s x1 x2 x3 x4).out = s.out := (portCount_rel (ch := 131072) rfl (Rel.refl s)).f22 rfl
@[simp] theorem portCount_fresh {s : State} {x1 x2 x3 x4} : (portCount s x1 x2 x3 x4).fresh = s.fresh := (portCount_rel (ch := 131072) rfl (Rel.refl s)).f23 rfl
@[simp] theorem portCount_nextId {s : State} {x1 x2 x3 x4} : (portCount s x1 x2 x3 x4).nextId = s.nextId := (portCount_rel (ch := 131072) rfl (Rel.refl s)).f24 rfl
@[simp] theorem portCount_pending {s : State} {x1 x2 x3 x4} : (portCount s x1 x2 x3 x4).pending = s.pending := (portCount_rel (ch := 131072) rfl (Rel.refl s)).pend

@[simp] theorem quireCount_glb {s : State} {x1 x2 x3 x4} : (quireCount s x1 x2 x3 x4).glb = s.glb := (quireCount_rel (ch := 131072) rfl (Rel.refl s)).f0 rfl
@[simp] theorem quireCount_cmd {s : State} {x1 x2 x3 x4} : (quireCount s x1 x2 x3 x4).cmd = s.cmd := (quireCount_rel (ch := 131072) rfl (Rel.refl s)).f1 rfl
@[simp] theorem quireCount_pwr {s : State} {x1 x2 x3 x4} : (quireCount s x1 x2 x3 x4).pwr = s.pwr := (quireCount_rel (ch := 131072) rfl (Rel.refl s)).f2 rfl
@[simp] theorem quireCount_pace {s : State} {x1 x2 x3 x4} : (quireCount s x1 x2 x3 x4).pace = s.pace := (quireCount_rel (ch := 131072) rfl (Rel.refl s)).f3 rfl
@[simp] theorem quireCount_slot {s : State} {x1 x2 x3 x4} : (quireCount s x1 x2 x3 x4).slot = s.slot := (quireCount_rel (ch := 131072) rfl (Rel.refl s)).f4 rfl
@[simp] theorem quireCount_pwrfail {s : State} {x1 x2 x3 x4} : (quireCount s x1 x2 x3 x4).pwrfail = s.pwrfail := (quireCount_rel (ch := 131072) rfl (Rel.refl s)).f5 rfl
@[simp] theorem quireCount_slotHold {s : State} {x1 x2 x3 x4} : (quireCount s x1 x2 x3 x4).slotHold = s.slotHold := (quireCount_rel (ch := 131072) rfl (Rel.refl s)).f6 rfl
@[simp] theorem quireCount_pool {s : State} {x1 x2 x3 x4} : (quireCount s x1 x2 x3 x4).pool = s.pool := (quireCount_rel (ch := 131072) rfl (Rel.refl s)).f7 rfl
@[simp] theorem quireCount_home {s : State} {x1 x2 x3 x4} : (quireCount s x1 x2 x3 x4).home = s.home := (quireCount_rel (ch := 131072) rfl (Rel.refl s)).f8 rfl
@[simp] theorem quireCount_dkl {s : State} {x1 x2 x3 x4} : (quireCount s x1 x2 x3 x4).dkl = s.dkl := (quireCount_rel (ch := 131072) rfl (Rel.refl s)).f9 rfl
@[simp] theorem quireCount_seq {s : State} {x1 x2 x3 x4} : (quireCount s x1 x2 x3 x4).seq = s.seq := (quireCount_rel (ch := 131072) rfl (Rel.refl s)).f10 rfl
@[simp] theorem quireCount_mov {s : State} {x1 x2 x3 x4} : (quireCount s x1 x2 x3 x4).mov = s.mov := (quireCount_rel (ch := 131072) rfl (Rel.refl s)).f11 rfl
@[simp] theorem quireCount_time {s : State} {x1 x2 x3 x4} : (quireCount s x1 x2 x3 x4).time = s.time := (quireCount_rel (ch := 131072) rfl (Rel.refl s)).f12 rfl
@[simp] theorem quireCount_ten {s : State} {x1 x2 x3 x4} : (quireCount s x1 x2 x3 x4).ten = s.ten := (quireCount_rel (ch := 131072) rfl (Rel.refl s)).f13 rfl
@[simp] theorem quireCount_port {s : State} {x1 x2 x3 x4} : (quireCount s x1 x2 x3 x4).port = s.port := (quireCount_rel (ch := 131072) rfl (Rel.refl s)).f14 rfl
@[simp] theorem quireCount_quire {s : State} {x1 x2 x3 x4} : (quireCount s x1 x2 x3 x4).quire = s.quire := (quireCount_rel (ch := 131072) rfl (Rel.refl s)).f15 rfl
@[simp] theorem quireCount_core {s : State} {x1 x2 x3 x4} : (quireCount s x1 x2 x3 x4).core = s.core := (quireCount_rel (ch := 131072) rfl (Rel.refl s)).f16 rfl
@[simp] theorem quireCount_stk {s : State} {x1 x2 x3 x4} : (quireCount s x1 x2 x3 x4).stk = s.stk := (quireCount_rel (ch := 131072) rfl (Rel.refl s)).f18 rfl
@[simp] theorem quireCount_tap {s : State} {x1 x2 x3 x4} : (quireCount s x1 x2 x3 x4).tap = s.tap := (quireCount_rel (ch := 131072) rfl (Rel.refl s)).f19 rfl
@[simp] theorem quireCount_pairLo {s : State} {x1 x2 x3 x4} : (quireCount s x1 x2 x3 x4).pairLo = s.pairLo := (quireCount_rel (ch := 131072) rfl (Rel.refl s)).f20 rfl
@[simp] theorem quireCount_pairHi {s : State} {x1 x2 x3 x4} : (quireCount s x1 x2 x3 x4).pairHi = s.pairHi := (quireCount_rel (ch := 131072) rfl (Rel.refl s)).f21 rfl
@[simp] theorem quireCount_out {s : State} {x1 x2 x3 x4} : (quireCount s x1 x2 x3 x4).out = s.out := (quireCount_rel (ch := 131072) rfl (Rel.refl s)).f22 rfl
@[simp] theorem quireCount_fresh {s : State} {x1 x2 x3 x4} : (quireCount s x1 x2 x3 x4).fresh = s.fresh := (quireCount_rel (ch := 131072) rfl (Rel.refl s)).f23 rfl
@[simp] theorem quireCount_nextId {s : State} {x1 x2 x3 x4} : (quireCount s x1 x2 x3 x4).nextId = s.nextId := (quireCount_rel (ch := 131072) rfl (Rel.refl s)).f24 rfl
@[simp] theorem quireCount_pending {s : State} {x1 x2 x3 x4} : (quireCount s x1 x2 x3 x4).pending = s.pending := (quireCount_rel (ch := 131072) rfl (Rel.refl s)).pend

@[simp] theorem topDown_glb {s : State} {x1 x2 x3 x4 x5} : (topDown s x1 x2 x3 x4 x5).glb = s.glb := (topDown_rel (ch := 131072) rfl (Rel.refl s)).f0 rfl
@[simp] theorem topDown_cmd {s : State} {x1 x2 x3 x4 x5} : (topDown s x1 x2 x3 x4 x5).cmd = s.cmd := (topDown_rel (ch := 131072) rfl (Rel.refl s)).f1 rfl
@[simp] theorem topDown_pwr {s : State} {x1 x2 x3 x4 x5} : (topDown s x1 x2 x3 x4 x5).pwr = s.pwr := (topDown_rel (ch := 131072) rfl (Rel.refl s)).f2 rfl
@[simp] theorem topDown_pace {s : State} {x1 x2 x3 x4 x5} : (topDown s x1 x2 x3 x4 x5).pace = s.pace := (topDown_rel (ch := 131072) rfl (Rel.refl s)).f3 rfl
@[simp] theorem topDown_slot {s : State} {x1 x2 x3 x4 x5} : (topDown s x1 x2 x3 x4 x5).slot = s.slot := (topDown_rel (ch := 131072) rfl (Rel.refl s)).f4 rfl
@[simp] theorem topDown_pwrfail {s : State} {x1 x2 x3 x4 x5} : (topDown s x1 x2 x3 x4 x5).pwrfail = s.pwrfail := (topDown_rel (ch := 131072) rfl (Rel.refl s)).f5 rfl
@[simp] theorem topDown_slotHold {s : State} {x1 x2 x3 x4 x5} : (topDown s x1 x2 x3 x4 x5).slotHold = s.slotHold := (topDown_rel (ch := 131072) rfl (Rel.refl s)).f6 rfl
@[simp] theorem topDown_pool {s : State} {x1 x2 x3 x4 x5} : (topDown s x1 x2 x3 x4 x5).pool = s.pool := (topDown_rel (ch := 131072) rfl (Rel.refl s)).f7 rfl
@[simp] theorem topDown_home {s : State} {x1 x2 x3 x4 x5} : (topDown s x1 x2 x3 x4 x5).home = s.home := (topDown_rel (ch := 131072) rfl (Rel.refl s)).f8 rfl
@[simp] theorem topDown_dkl {s : State} {x1 x2 x3 x4 x5} : (topDown s x1 x2 x3 x4 x5).dkl = s.dkl := (topDown_rel (ch := 131072) rfl (Rel.refl s)).f9 rfl
@[simp] theorem topDown_seq {s : State} {x1 x2 x3 x4 x5} : (topDown s x1 x2 x3 x4 x5).seq = s.seq := (topDown_rel (ch := 131072) rfl (Rel.refl s)).f10 rfl
@[simp] theorem topDown_mov {s : State} {x1 x2 x3 x4 x5} : (topDown s x1 x2 x3 x4 x5).mov = s.mov := (topDown_rel (ch := 131072) rfl (Rel.refl s)).f11 rfl
@[simp] theorem topDown_time {s : State} {x1 x2 x3 x4 x5} : (topDown s x1 x2 x3 x4 x5).time = s.time := (topDown_rel (ch := 131072) rfl (Rel.refl s)).f12 rfl
@[simp] theorem topDown_ten {s : State} {x1 x2 x3 x4 x5} : (topDown s x1 x2 x3 x4 x5).ten = s.ten := (topDown_rel (ch := 131072) rfl (Rel.refl s)).f13 rfl
@[simp] theorem topDown_port {s : State} {x1 x2 x3 x4 x5} : (topDown s x1 x2 x3 x4 x5).port = s.port := (topDown_rel (ch := 131072) rfl (Rel.refl s)).f14 rfl
@[simp] theorem topDown_quire {s : State} {x1 x2 x3 x4 x5} : (topDown s x1 x2 x3 x4 x5).quire = s.quire := (topDown_rel (ch := 131072) rfl (Rel.refl s)).f15 rfl
@[simp] theorem topDown_core {s : State} {x1 x2 x3 x4 x5} : (topDown s x1 x2 x3 x4 x5).core = s.core := (topDown_rel (ch := 131072) rfl (Rel.refl s)).f16 rfl
@[simp] theorem topDown_stk {s : State} {x1 x2 x3 x4 x5} : (topDown s x1 x2 x3 x4 x5).stk = s.stk := (topDown_rel (ch := 131072) rfl (Rel.refl s)).f18 rfl
@[simp] theorem topDown_tap {s : State} {x1 x2 x3 x4 x5} : (topDown s x1 x2 x3 x4 x5).tap = s.tap := (topDown_rel (ch := 131072) rfl (Rel.refl s)).f19 rfl
@[simp] theorem topDown_pairLo {s : State} {x1 x2 x3 x4 x5} : (topDown s x1 x2 x3 x4 x5).pairLo = s.pairLo := (topDown_rel (ch := 131072) rfl (Rel.refl s)).f20 rfl
@[simp] theorem topDown_pairHi {s : State} {x1 x2 x3 x4 x5} : (topDown s x1 x2 x3 x4 x5).pairHi = s.pairHi := (topDown_rel (ch := 131072) rfl (Rel.refl s)).f21 rfl
@[simp] theorem topDown_out {s : State} {x1 x2 x3 x4 x5} : (topDown s x1 x2 x3 x4 x5).out = s.out := (topDown_rel (ch := 131072) rfl (Rel.refl s)).f22 rfl
@[simp] theorem topDown_fresh {s : State} {x1 x2 x3 x4 x5} : (topDown s x1 x2 x3 x4 x5).fresh = s.fresh := (topDown_rel (ch := 131072) rfl (Rel.refl s)).f23 rfl
@[simp] theorem topDown_nextId {s : State} {x1 x2 x3 x4 x5} : (topDown s x1 x2 x3 x4 x5).nextId = s.nextId := (topDown_rel (ch := 131072) rfl (Rel.refl s)).f24 rfl
@[simp] theorem topDown_pending {s : State} {x1 x2 x3 x4 x5} : (topDown s x1 x2 x3 x4 x5).pending = s.pending := (topDown_rel (ch := 131072) rfl (Rel.refl s)).pend

@[simp] theorem tdWaste_glb {s : State} {x1 x2 x3 x4} : (tdWaste s x1 x2 x3 x4).glb = s.glb := (tdWaste_rel (ch := 131072) rfl (Rel.refl s)).f0 rfl
@[simp] theorem tdWaste_cmd {s : State} {x1 x2 x3 x4} : (tdWaste s x1 x2 x3 x4).cmd = s.cmd := (tdWaste_rel (ch := 131072) rfl (Rel.refl s)).f1 rfl
@[simp] theorem tdWaste_pwr {s : State} {x1 x2 x3 x4} : (tdWaste s x1 x2 x3 x4).pwr = s.pwr := (tdWaste_rel (ch := 131072) rfl (Rel.refl s)).f2 rfl
@[simp] theorem tdWaste_pace {s : State} {x1 x2 x3 x4} : (tdWaste s x1 x2 x3 x4).pace = s.pace := (tdWaste_rel (ch := 131072) rfl (Rel.refl s)).f3 rfl
@[simp] theorem tdWaste_slot {s : State} {x1 x2 x3 x4} : (tdWaste s x1 x2 x3 x4).slot = s.slot := (tdWaste_rel (ch := 131072) rfl (Rel.refl s)).f4 rfl
@[simp] theorem tdWaste_pwrfail {s : State} {x1 x2 x3 x4} : (tdWaste s x1 x2 x3 x4).pwrfail = s.pwrfail := (tdWaste_rel (ch := 131072) rfl (Rel.refl s)).f5 rfl
@[simp] theorem tdWaste_slotHold {s : State} {x1 x2 x3 x4} : (tdWaste s x1 x2 x3 x4).slotHold = s.slotHold := (tdWaste_rel (ch := 131072) rfl (Rel.refl s)).f6 rfl
@[simp] theorem tdWaste_pool {s : State} {x1 x2 x3 x4} : (tdWaste s x1 x2 x3 x4).pool = s.pool := (tdWaste_rel (ch := 131072) rfl (Rel.refl s)).f7 rfl
@[simp] theorem tdWaste_home {s : State} {x1 x2 x3 x4} : (tdWaste s x1 x2 x3 x4).home = s.home := (tdWaste_rel (ch := 131072) rfl (Rel.refl s)).f8 rfl
@[simp] theorem tdWaste_dkl {s : State} {x1 x2 x3 x4} : (tdWaste s x1 x2 x3 x4).dkl = s.dkl := (tdWaste_rel (ch := 131072) rfl (Rel.refl s)).f9 rfl
@[simp] theorem tdWaste_seq {s : State} {x1 x2 x3 x4} : (tdWaste s x1 x2 x3 x4).seq = s.seq := (tdWaste_rel (ch := 131072) rfl (Rel.refl s)).f10 rfl
@[simp] theorem tdWaste_mov {s : State} {x1 x2 x3 x4} : (tdWaste s x1 x2 x3 x4).mov = s.mov := (tdWaste_rel (ch := 131072) rfl (Rel.refl s)).f11 rfl
@[simp] theorem tdWaste_time {s : State} {x1 x2 x3 x4} : (tdWaste s x1 x2 x3 x4).time = s.time := (tdWaste_rel (ch := 131072) rfl (Rel.refl s)).f12 rfl
@[simp] theorem tdWaste_ten {s : State} {x1 x2 x3 x4} : (tdWaste s x1 x2 x3 x4).ten = s.ten := (tdWaste_rel (ch := 131072) rfl (Rel.refl s)).f13 rfl
@[simp] theorem tdWaste_port {s : State} {x1 x2 x3 x4} : (tdWaste s x1 x2 x3 x4).port = s.port := (tdWaste_rel (ch := 131072) rfl (Rel.refl s)).f14 rfl
@[simp] theorem tdWaste_quire {s : State} {x1 x2 x3 x4} : (tdWaste s x1 x2 x3 x4).quire = s.quire := (tdWaste_rel (ch := 131072) rfl (Rel.refl s)).f15 rfl
@[simp] theorem tdWaste_core {s : State} {x1 x2 x3 x4} : (tdWaste s x1 x2 x3 x4).core = s.core := (tdWaste_rel (ch := 131072) rfl (Rel.refl s)).f16 rfl
@[simp] theorem tdWaste_stk {s : State} {x1 x2 x3 x4} : (tdWaste s x1 x2 x3 x4).stk = s.stk := (tdWaste_rel (ch := 131072) rfl (Rel.refl s)).f18 rfl
@[simp] theorem tdWaste_tap {s : State} {x1 x2 x3 x4} : (tdWaste s x1 x2 x3 x4).tap = s.tap := (tdWaste_rel (ch := 131072) rfl (Rel.refl s)).f19 rfl
@[simp] theorem tdWaste_pairLo {s : State} {x1 x2 x3 x4} : (tdWaste s x1 x2 x3 x4).pairLo = s.pairLo := (tdWaste_rel (ch := 131072) rfl (Rel.refl s)).f20 rfl
@[simp] theorem tdWaste_pairHi {s : State} {x1 x2 x3 x4} : (tdWaste s x1 x2 x3 x4).pairHi = s.pairHi := (tdWaste_rel (ch := 131072) rfl (Rel.refl s)).f21 rfl
@[simp] theorem tdWaste_out {s : State} {x1 x2 x3 x4} : (tdWaste s x1 x2 x3 x4).out = s.out := (tdWaste_rel (ch := 131072) rfl (Rel.refl s)).f22 rfl
@[simp] theorem tdWaste_fresh {s : State} {x1 x2 x3 x4} : (tdWaste s x1 x2 x3 x4).fresh = s.fresh := (tdWaste_rel (ch := 131072) rfl (Rel.refl s)).f23 rfl
@[simp] theorem tdWaste_nextId {s : State} {x1 x2 x3 x4} : (tdWaste s x1 x2 x3 x4).nextId = s.nextId := (tdWaste_rel (ch := 131072) rfl (Rel.refl s)).f24 rfl
@[simp] theorem tdWaste_pending {s : State} {x1 x2 x3 x4} : (tdWaste s x1 x2 x3 x4).pending = s.pending := (tdWaste_rel (ch := 131072) rfl (Rel.refl s)).pend

@[simp] theorem standCount_glb {s : State} {x1} : (standCount s x1).glb = s.glb := (standCount_rel (ch := 131072) rfl (Rel.refl s)).f0 rfl
@[simp] theorem standCount_cmd {s : State} {x1} : (standCount s x1).cmd = s.cmd := (standCount_rel (ch := 131072) rfl (Rel.refl s)).f1 rfl
@[simp] theorem standCount_pwr {s : State} {x1} : (standCount s x1).pwr = s.pwr := (standCount_rel (ch := 131072) rfl (Rel.refl s)).f2 rfl
@[simp] theorem standCount_pace {s : State} {x1} : (standCount s x1).pace = s.pace := (standCount_rel (ch := 131072) rfl (Rel.refl s)).f3 rfl
@[simp] theorem standCount_slot {s : State} {x1} : (standCount s x1).slot = s.slot := (standCount_rel (ch := 131072) rfl (Rel.refl s)).f4 rfl
@[simp] theorem standCount_pwrfail {s : State} {x1} : (standCount s x1).pwrfail = s.pwrfail := (standCount_rel (ch := 131072) rfl (Rel.refl s)).f5 rfl
@[simp] theorem standCount_slotHold {s : State} {x1} : (standCount s x1).slotHold = s.slotHold := (standCount_rel (ch := 131072) rfl (Rel.refl s)).f6 rfl
@[simp] theorem standCount_pool {s : State} {x1} : (standCount s x1).pool = s.pool := (standCount_rel (ch := 131072) rfl (Rel.refl s)).f7 rfl
@[simp] theorem standCount_home {s : State} {x1} : (standCount s x1).home = s.home := (standCount_rel (ch := 131072) rfl (Rel.refl s)).f8 rfl
@[simp] theorem standCount_dkl {s : State} {x1} : (standCount s x1).dkl = s.dkl := (standCount_rel (ch := 131072) rfl (Rel.refl s)).f9 rfl
@[simp] theorem standCount_seq {s : State} {x1} : (standCount s x1).seq = s.seq := (standCount_rel (ch := 131072) rfl (Rel.refl s)).f10 rfl
@[simp] theorem standCount_mov {s : State} {x1} : (standCount s x1).mov = s.mov := (standCount_rel (ch := 131072) rfl (Rel.refl s)).f11 rfl
@[simp] theorem standCount_time {s : State} {x1} : (standCount s x1).time = s.time := (standCount_rel (ch := 131072) rfl (Rel.refl s)).f12 rfl
@[simp] theorem standCount_ten {s : State} {x1} : (standCount s x1).ten = s.ten := (standCount_rel (ch := 131072) rfl (Rel.refl s)).f13 rfl
@[simp] theorem standCount_port {s : State} {x1} : (standCount s x1).port = s.port := (standCount_rel (ch := 131072) rfl (Rel.refl s)).f14 rfl
@[simp] theorem standCount_quire {s : State} {x1} : (standCount s x1).quire = s.quire := (standCount_rel (ch := 131072) rfl (Rel.refl s)).f15 rfl
@[simp] theorem standCount_core {s : State} {x1} : (standCount s x1).core = s.core := (standCount_rel (ch := 131072) rfl (Rel.refl s)).f16 rfl
@[simp] theorem standCount_stk {s : State} {x1} : (standCount s x1).stk = s.stk := (standCount_rel (ch := 131072) rfl (Rel.refl s)).f18 rfl
@[simp] theorem standCount_tap {s : State} {x1} : (standCount s x1).tap = s.tap := (standCount_rel (ch := 131072) rfl (Rel.refl s)).f19 rfl
@[simp] theorem standCount_pairLo {s : State} {x1} : (standCount s x1).pairLo = s.pairLo := (standCount_rel (ch := 131072) rfl (Rel.refl s)).f20 rfl
@[simp] theorem standCount_pairHi {s : State} {x1} : (standCount s x1).pairHi = s.pairHi := (standCount_rel (ch := 131072) rfl (Rel.refl s)).f21 rfl
@[simp] theorem standCount_out {s : State} {x1} : (standCount s x1).out = s.out := (standCount_rel (ch := 131072) rfl (Rel.refl s)).f22 rfl
@[simp] theorem standCount_fresh {s : State} {x1} : (standCount s x1).fresh = s.fresh := (standCount_rel (ch := 131072) rfl (Rel.refl s)).f23 rfl
@[simp] theorem standCount_nextId {s : State} {x1} : (standCount s x1).nextId = s.nextId := (standCount_rel (ch := 131072) rfl (Rel.refl s)).f24 rfl
@[simp] theorem standCount_pending {s : State} {x1} : (standCount s x1).pending = s.pending := (standCount_rel (ch := 131072) rfl (Rel.refl s)).pend

@[simp] theorem logEvent_glb {s : State} {x1 x2 x3 x4} : (logEvent s x1 x2 x3 x4).glb = s.glb := (logEvent_rel (ch := 131072) rfl (Rel.refl s)).f0 rfl
@[simp] theorem logEvent_cmd {s : State} {x1 x2 x3 x4} : (logEvent s x1 x2 x3 x4).cmd = s.cmd := (logEvent_rel (ch := 131072) rfl (Rel.refl s)).f1 rfl
@[simp] theorem logEvent_pwr {s : State} {x1 x2 x3 x4} : (logEvent s x1 x2 x3 x4).pwr = s.pwr := (logEvent_rel (ch := 131072) rfl (Rel.refl s)).f2 rfl
@[simp] theorem logEvent_pace {s : State} {x1 x2 x3 x4} : (logEvent s x1 x2 x3 x4).pace = s.pace := (logEvent_rel (ch := 131072) rfl (Rel.refl s)).f3 rfl
@[simp] theorem logEvent_slot {s : State} {x1 x2 x3 x4} : (logEvent s x1 x2 x3 x4).slot = s.slot := (logEvent_rel (ch := 131072) rfl (Rel.refl s)).f4 rfl
@[simp] theorem logEvent_pwrfail {s : State} {x1 x2 x3 x4} : (logEvent s x1 x2 x3 x4).pwrfail = s.pwrfail := (logEvent_rel (ch := 131072) rfl (Rel.refl s)).f5 rfl
@[simp] theorem logEvent_slotHold {s : State} {x1 x2 x3 x4} : (logEvent s x1 x2 x3 x4).slotHold = s.slotHold := (logEvent_rel (ch := 131072) rfl (Rel.refl s)).f6 rfl
@[simp] theorem logEvent_pool {s : State} {x1 x2 x3 x4} : (logEvent s x1 x2 x3 x4).pool = s.pool := (logEvent_rel (ch := 131072) rfl (Rel.refl s)).f7 rfl
@[simp] theorem logEvent_home {s : State} {x1 x2 x3 x4} : (logEvent s x1 x2 x3 x4).home = s.home := (logEvent_rel (ch := 131072) rfl (Rel.refl s)).f8 rfl
@[simp] theorem logEvent_dkl {s : State} {x1 x2 x3 x4} : (logEvent s x1 x2 x3 x4).dkl = s.dkl := (logEvent_rel (ch := 131072) rfl (Rel.refl s)).f9 rfl
@[simp] theorem logEvent_seq {s : State} {x1 x2 x3 x4} : (logEvent s x1 x2 x3 x4).seq = s.seq := (logEvent_rel (ch := 131072) rfl (Rel.refl s)).f10 rfl
@[simp] theorem logEvent_mov {s : State} {x1 x2 x3 x4} : (logEvent s x1 x2 x3 x4).mov = s.mov := (logEvent_rel (ch := 131072) rfl (Rel.refl s)).f11 rfl
@[simp] theorem logEvent_time {s : State} {x1 x2 x3 x4} : (logEvent s x1 x2 x3 x4).time = s.time := (logEvent_rel (ch := 131072) rfl (Rel.refl s)).f12 rfl
@[simp] theorem logEvent_ten {s : State} {x1 x2 x3 x4} : (logEvent s x1 x2 x3 x4).ten = s.ten := (logEvent_rel (ch := 131072) rfl (Rel.refl s)).f13 rfl
@[simp] theorem logEvent_port {s : State} {x1 x2 x3 x4} : (logEvent s x1 x2 x3 x4).port = s.port := (logEvent_rel (ch := 131072) rfl (Rel.refl s)).f14 rfl
@[simp] theorem logEvent_quire {s : State} {x1 x2 x3 x4} : (logEvent s x1 x2 x3 x4).quire = s.quire := (logEvent_rel (ch := 131072) rfl (Rel.refl s)).f15 rfl
@[simp] theorem logEvent_core {s : State} {x1 x2 x3 x4} : (logEvent s x1 x2 x3 x4).core = s.core := (logEvent_rel (ch := 131072) rfl (Rel.refl s)).f16 rfl
@[simp] theorem logEvent_stk {s : State} {x1 x2 x3 x4} : (logEvent s x1 x2 x3 x4).stk = s.stk := (logEvent_rel (ch := 131072) rfl (Rel.refl s)).f18 rfl
@[simp] theorem logEvent_tap {s : State} {x1 x2 x3 x4} : (logEvent s x1 x2 x3 x4).tap = s.tap := (logEvent_rel (ch := 131072) rfl (Rel.refl s)).f19 rfl
@[simp] theorem logEvent_pairLo {s : State} {x1 x2 x3 x4} : (logEvent s x1 x2 x3 x4).pairLo = s.pairLo := (logEvent_rel (ch := 131072) rfl (Rel.refl s)).f20 rfl
@[simp] theorem logEvent_pairHi {s : State} {x1 x2 x3 x4} : (logEvent s x1 x2 x3 x4).pairHi = s.pairHi := (logEvent_rel (ch := 131072) rfl (Rel.refl s)).f21 rfl
@[simp] theorem logEvent_out {s : State} {x1 x2 x3 x4} : (logEvent s x1 x2 x3 x4).out = s.out := (logEvent_rel (ch := 131072) rfl (Rel.refl s)).f22 rfl
@[simp] theorem logEvent_fresh {s : State} {x1 x2 x3 x4} : (logEvent s x1 x2 x3 x4).fresh = s.fresh := (logEvent_rel (ch := 131072) rfl (Rel.refl s)).f23 rfl
@[simp] theorem logEvent_nextId {s : State} {x1 x2 x3 x4} : (logEvent s x1 x2 x3 x4).nextId = s.nextId := (logEvent_rel (ch := 131072) rfl (Rel.refl s)).f24 rfl
@[simp] theorem logEvent_pending {s : State} {x1 x2 x3 x4} : (logEvent s x1 x2 x3 x4).pending = s.pending := (logEvent_rel (ch := 131072) rfl (Rel.refl s)).pend

@[simp] theorem logMem_glb {s : State} {x1 x2 x3 x4 x5} : (logMem s x1 x2 x3 x4 x5).glb = s.glb := (logMem_rel (ch := 131072) rfl (Rel.refl s)).f0 rfl
@[simp] theorem logMem_cmd {s : State} {x1 x2 x3 x4 x5} : (logMem s x1 x2 x3 x4 x5).cmd = s.cmd := (logMem_rel (ch := 131072) rfl (Rel.refl s)).f1 rfl
@[simp] theorem logMem_pwr {s : State} {x1 x2 x3 x4 x5} : (logMem s x1 x2 x3 x4 x5).pwr = s.pwr := (logMem_rel (ch := 131072) rfl (Rel.refl s)).f2 rfl
@[simp] theorem logMem_pace {s : State} {x1 x2 x3 x4 x5} : (logMem s x1 x2 x3 x4 x5).pace = s.pace := (logMem_rel (ch := 131072) rfl (Rel.refl s)).f3 rfl
@[simp] theorem logMem_slot {s : State} {x1 x2 x3 x4 x5} : (logMem s x1 x2 x3 x4 x5).slot = s.slot := (logMem_rel (ch := 131072) rfl (Rel.refl s)).f4 rfl
@[simp] theorem logMem_pwrfail {s : State} {x1 x2 x3 x4 x5} : (logMem s x1 x2 x3 x4 x5).pwrfail = s.pwrfail := (logMem_rel (ch := 131072) rfl (Rel.refl s)).f5 rfl
@[simp] theorem logMem_slotHold {s : State} {x1 x2 x3 x4 x5} : (logMem s x1 x2 x3 x4 x5).slotHold = s.slotHold := (logMem_rel (ch := 131072) rfl (Rel.refl s)).f6 rfl
@[simp] theorem logMem_pool {s : State} {x1 x2 x3 x4 x5} : (logMem s x1 x2 x3 x4 x5).pool = s.pool := (logMem_rel (ch := 131072) rfl (Rel.refl s)).f7 rfl
@[simp] theorem logMem_home {s : State} {x1 x2 x3 x4 x5} : (logMem s x1 x2 x3 x4 x5).home = s.home := (logMem_rel (ch := 131072) rfl (Rel.refl s)).f8 rfl
@[simp] theorem logMem_dkl {s : State} {x1 x2 x3 x4 x5} : (logMem s x1 x2 x3 x4 x5).dkl = s.dkl := (logMem_rel (ch := 131072) rfl (Rel.refl s)).f9 rfl
@[simp] theorem logMem_seq {s : State} {x1 x2 x3 x4 x5} : (logMem s x1 x2 x3 x4 x5).seq = s.seq := (logMem_rel (ch := 131072) rfl (Rel.refl s)).f10 rfl
@[simp] theorem logMem_mov {s : State} {x1 x2 x3 x4 x5} : (logMem s x1 x2 x3 x4 x5).mov = s.mov := (logMem_rel (ch := 131072) rfl (Rel.refl s)).f11 rfl
@[simp] theorem logMem_time {s : State} {x1 x2 x3 x4 x5} : (logMem s x1 x2 x3 x4 x5).time = s.time := (logMem_rel (ch := 131072) rfl (Rel.refl s)).f12 rfl
@[simp] theorem logMem_ten {s : State} {x1 x2 x3 x4 x5} : (logMem s x1 x2 x3 x4 x5).ten = s.ten := (logMem_rel (ch := 131072) rfl (Rel.refl s)).f13 rfl
@[simp] theorem logMem_port {s : State} {x1 x2 x3 x4 x5} : (logMem s x1 x2 x3 x4 x5).port = s.port := (logMem_rel (ch := 131072) rfl (Rel.refl s)).f14 rfl
@[simp] theorem logMem_quire {s : State} {x1 x2 x3 x4 x5} : (logMem s x1 x2 x3 x4 x5).quire = s.quire := (logMem_rel (ch := 131072) rfl (Rel.refl s)).f15 rfl
@[simp] theorem logMem_core {s : State} {x1 x2 x3 x4 x5} : (logMem s x1 x2 x3 x4 x5).core = s.core := (logMem_rel (ch := 131072) rfl (Rel.refl s)).f16 rfl
@[simp] theorem logMem_stk {s : State} {x1 x2 x3 x4 x5} : (logMem s x1 x2 x3 x4 x5).stk = s.stk := (logMem_rel (ch := 131072) rfl (Rel.refl s)).f18 rfl
@[simp] theorem logMem_tap {s : State} {x1 x2 x3 x4 x5} : (logMem s x1 x2 x3 x4 x5).tap = s.tap := (logMem_rel (ch := 131072) rfl (Rel.refl s)).f19 rfl
@[simp] theorem logMem_pairLo {s : State} {x1 x2 x3 x4 x5} : (logMem s x1 x2 x3 x4 x5).pairLo = s.pairLo := (logMem_rel (ch := 131072) rfl (Rel.refl s)).f20 rfl
@[simp] theorem logMem_pairHi {s : State} {x1 x2 x3 x4 x5} : (logMem s x1 x2 x3 x4 x5).pairHi = s.pairHi := (logMem_rel (ch := 131072) rfl (Rel.refl s)).f21 rfl
@[simp] theorem logMem_out {s : State} {x1 x2 x3 x4 x5} : (logMem s x1 x2 x3 x4 x5).out = s.out := (logMem_rel (ch := 131072) rfl (Rel.refl s)).f22 rfl
@[simp] theorem logMem_fresh {s : State} {x1 x2 x3 x4 x5} : (logMem s x1 x2 x3 x4 x5).fresh = s.fresh := (logMem_rel (ch := 131072) rfl (Rel.refl s)).f23 rfl
@[simp] theorem logMem_nextId {s : State} {x1 x2 x3 x4 x5} : (logMem s x1 x2 x3 x4 x5).nextId = s.nextId := (logMem_rel (ch := 131072) rfl (Rel.refl s)).f24 rfl
@[simp] theorem logMem_pending {s : State} {x1 x2 x3 x4 x5} : (logMem s x1 x2 x3 x4 x5).pending = s.pending := (logMem_rel (ch := 131072) rfl (Rel.refl s)).pend

@[simp] theorem logOpen_glb {s : State} {x1 x2} : (logOpen s x1 x2).glb = s.glb := (logOpen_rel (ch := 8519680) rfl (Rel.refl s)).f0 rfl
@[simp] theorem logOpen_cmd {s : State} {x1 x2} : (logOpen s x1 x2).cmd = s.cmd := (logOpen_rel (ch := 8519680) rfl (Rel.refl s)).f1 rfl
@[simp] theorem logOpen_pwr {s : State} {x1 x2} : (logOpen s x1 x2).pwr = s.pwr := (logOpen_rel (ch := 8519680) rfl (Rel.refl s)).f2 rfl
@[simp] theorem logOpen_pace {s : State} {x1 x2} : (logOpen s x1 x2).pace = s.pace := (logOpen_rel (ch := 8519680) rfl (Rel.refl s)).f3 rfl
@[simp] theorem logOpen_slot {s : State} {x1 x2} : (logOpen s x1 x2).slot = s.slot := (logOpen_rel (ch := 8519680) rfl (Rel.refl s)).f4 rfl
@[simp] theorem logOpen_pwrfail {s : State} {x1 x2} : (logOpen s x1 x2).pwrfail = s.pwrfail := (logOpen_rel (ch := 8519680) rfl (Rel.refl s)).f5 rfl
@[simp] theorem logOpen_slotHold {s : State} {x1 x2} : (logOpen s x1 x2).slotHold = s.slotHold := (logOpen_rel (ch := 8519680) rfl (Rel.refl s)).f6 rfl
@[simp] theorem logOpen_pool {s : State} {x1 x2} : (logOpen s x1 x2).pool = s.pool := (logOpen_rel (ch := 8519680) rfl (Rel.refl s)).f7 rfl
@[simp] theorem logOpen_home {s : State} {x1 x2} : (logOpen s x1 x2).home = s.home := (logOpen_rel (ch := 8519680) rfl (Rel.refl s)).f8 rfl
@[simp] theorem logOpen_dkl {s : State} {x1 x2} : (logOpen s x1 x2).dkl = s.dkl := (logOpen_rel (ch := 8519680) rfl (Rel.refl s)).f9 rfl
@[simp] theorem logOpen_seq {s : State} {x1 x2} : (logOpen s x1 x2).seq = s.seq := (logOpen_rel (ch := 8519680) rfl (Rel.refl s)).f10 rfl
@[simp] theorem logOpen_mov {s : State} {x1 x2} : (logOpen s x1 x2).mov = s.mov := (logOpen_rel (ch := 8519680) rfl (Rel.refl s)).f11 rfl
@[simp] theorem logOpen_time {s : State} {x1 x2} : (logOpen s x1 x2).time = s.time := (logOpen_rel (ch := 8519680) rfl (Rel.refl s)).f12 rfl
@[simp] theorem logOpen_ten {s : State} {x1 x2} : (logOpen s x1 x2).ten = s.ten := (logOpen_rel (ch := 8519680) rfl (Rel.refl s)).f13 rfl
@[simp] theorem logOpen_port {s : State} {x1 x2} : (logOpen s x1 x2).port = s.port := (logOpen_rel (ch := 8519680) rfl (Rel.refl s)).f14 rfl
@[simp] theorem logOpen_quire {s : State} {x1 x2} : (logOpen s x1 x2).quire = s.quire := (logOpen_rel (ch := 8519680) rfl (Rel.refl s)).f15 rfl
@[simp] theorem logOpen_core {s : State} {x1 x2} : (logOpen s x1 x2).core = s.core := (logOpen_rel (ch := 8519680) rfl (Rel.refl s)).f16 rfl
@[simp] theorem logOpen_stk {s : State} {x1 x2} : (logOpen s x1 x2).stk = s.stk := (logOpen_rel (ch := 8519680) rfl (Rel.refl s)).f18 rfl
@[simp] theorem logOpen_tap {s : State} {x1 x2} : (logOpen s x1 x2).tap = s.tap := (logOpen_rel (ch := 8519680) rfl (Rel.refl s)).f19 rfl
@[simp] theorem logOpen_pairLo {s : State} {x1 x2} : (logOpen s x1 x2).pairLo = s.pairLo := (logOpen_rel (ch := 8519680) rfl (Rel.refl s)).f20 rfl
@[simp] theorem logOpen_pairHi {s : State} {x1 x2} : (logOpen s x1 x2).pairHi = s.pairHi := (logOpen_rel (ch := 8519680) rfl (Rel.refl s)).f21 rfl
@[simp] theorem logOpen_out {s : State} {x1 x2} : (logOpen s x1 x2).out = s.out := (logOpen_rel (ch := 8519680) rfl (Rel.refl s)).f22 rfl
@[simp] theorem logOpen_nextId {s : State} {x1 x2} : (logOpen s x1 x2).nextId = s.nextId := (logOpen_rel (ch := 8519680) rfl (Rel.refl s)).f24 rfl
@[simp] theorem logOpen_pending {s : State} {x1 x2} : (logOpen s x1 x2).pending = s.pending := (logOpen_rel (ch := 8519680) rfl (Rel.refl s)).pend

@[simp] theorem msixSend_glb {s : State} {x1} : (msixSend s x1).glb = s.glb := (msixSend_rel (ch := 4194306) rfl (Rel.refl s)).f0 rfl
@[simp] theorem msixSend_pwr {s : State} {x1} : (msixSend s x1).pwr = s.pwr := (msixSend_rel (ch := 4194306) rfl (Rel.refl s)).f2 rfl
@[simp] theorem msixSend_pace {s : State} {x1} : (msixSend s x1).pace = s.pace := (msixSend_rel (ch := 4194306) rfl (Rel.refl s)).f3 rfl
@[simp] theorem msixSend_slot {s : State} {x1} : (msixSend s x1).slot = s.slot := (msixSend_rel (ch := 4194306) rfl (Rel.refl s)).f4 rfl
@[simp] theorem msixSend_pwrfail {s : State} {x1} : (msixSend s x1).pwrfail = s.pwrfail := (msixSend_rel (ch := 4194306) rfl (Rel.refl s)).f5 rfl
@[simp] theorem msixSend_slotHold {s : State} {x1} : (msixSend s x1).slotHold = s.slotHold := (msixSend_rel (ch := 4194306) rfl (Rel.refl s)).f6 rfl
@[simp] theorem msixSend_pool {s : State} {x1} : (msixSend s x1).pool = s.pool := (msixSend_rel (ch := 4194306) rfl (Rel.refl s)).f7 rfl
@[simp] theorem msixSend_home {s : State} {x1} : (msixSend s x1).home = s.home := (msixSend_rel (ch := 4194306) rfl (Rel.refl s)).f8 rfl
@[simp] theorem msixSend_dkl {s : State} {x1} : (msixSend s x1).dkl = s.dkl := (msixSend_rel (ch := 4194306) rfl (Rel.refl s)).f9 rfl
@[simp] theorem msixSend_seq {s : State} {x1} : (msixSend s x1).seq = s.seq := (msixSend_rel (ch := 4194306) rfl (Rel.refl s)).f10 rfl
@[simp] theorem msixSend_mov {s : State} {x1} : (msixSend s x1).mov = s.mov := (msixSend_rel (ch := 4194306) rfl (Rel.refl s)).f11 rfl
@[simp] theorem msixSend_time {s : State} {x1} : (msixSend s x1).time = s.time := (msixSend_rel (ch := 4194306) rfl (Rel.refl s)).f12 rfl
@[simp] theorem msixSend_ten {s : State} {x1} : (msixSend s x1).ten = s.ten := (msixSend_rel (ch := 4194306) rfl (Rel.refl s)).f13 rfl
@[simp] theorem msixSend_port {s : State} {x1} : (msixSend s x1).port = s.port := (msixSend_rel (ch := 4194306) rfl (Rel.refl s)).f14 rfl
@[simp] theorem msixSend_quire {s : State} {x1} : (msixSend s x1).quire = s.quire := (msixSend_rel (ch := 4194306) rfl (Rel.refl s)).f15 rfl
@[simp] theorem msixSend_core {s : State} {x1} : (msixSend s x1).core = s.core := (msixSend_rel (ch := 4194306) rfl (Rel.refl s)).f16 rfl
@[simp] theorem msixSend_cnt {s : State} {x1} : (msixSend s x1).cnt = s.cnt := (msixSend_rel (ch := 4194306) rfl (Rel.refl s)).f17 rfl
@[simp] theorem msixSend_stk {s : State} {x1} : (msixSend s x1).stk = s.stk := (msixSend_rel (ch := 4194306) rfl (Rel.refl s)).f18 rfl
@[simp] theorem msixSend_tap {s : State} {x1} : (msixSend s x1).tap = s.tap := (msixSend_rel (ch := 4194306) rfl (Rel.refl s)).f19 rfl
@[simp] theorem msixSend_pairLo {s : State} {x1} : (msixSend s x1).pairLo = s.pairLo := (msixSend_rel (ch := 4194306) rfl (Rel.refl s)).f20 rfl
@[simp] theorem msixSend_pairHi {s : State} {x1} : (msixSend s x1).pairHi = s.pairHi := (msixSend_rel (ch := 4194306) rfl (Rel.refl s)).f21 rfl
@[simp] theorem msixSend_fresh {s : State} {x1} : (msixSend s x1).fresh = s.fresh := (msixSend_rel (ch := 4194306) rfl (Rel.refl s)).f23 rfl
@[simp] theorem msixSend_nextId {s : State} {x1} : (msixSend s x1).nextId = s.nextId := (msixSend_rel (ch := 4194306) rfl (Rel.refl s)).f24 rfl
@[simp] theorem msixSend_pending {s : State} {x1} : (msixSend s x1).pending = s.pending := (msixSend_rel (ch := 4194306) rfl (Rel.refl s)).pend

@[simp] theorem vecSend_glb {s : State} {x1 x2} : (vecSend s x1 x2).glb = s.glb := (vecSend_rel (ch := 4194306) rfl (Rel.refl s)).f0 rfl
@[simp] theorem vecSend_pwr {s : State} {x1 x2} : (vecSend s x1 x2).pwr = s.pwr := (vecSend_rel (ch := 4194306) rfl (Rel.refl s)).f2 rfl
@[simp] theorem vecSend_pace {s : State} {x1 x2} : (vecSend s x1 x2).pace = s.pace := (vecSend_rel (ch := 4194306) rfl (Rel.refl s)).f3 rfl
@[simp] theorem vecSend_slot {s : State} {x1 x2} : (vecSend s x1 x2).slot = s.slot := (vecSend_rel (ch := 4194306) rfl (Rel.refl s)).f4 rfl
@[simp] theorem vecSend_pwrfail {s : State} {x1 x2} : (vecSend s x1 x2).pwrfail = s.pwrfail := (vecSend_rel (ch := 4194306) rfl (Rel.refl s)).f5 rfl
@[simp] theorem vecSend_slotHold {s : State} {x1 x2} : (vecSend s x1 x2).slotHold = s.slotHold := (vecSend_rel (ch := 4194306) rfl (Rel.refl s)).f6 rfl
@[simp] theorem vecSend_pool {s : State} {x1 x2} : (vecSend s x1 x2).pool = s.pool := (vecSend_rel (ch := 4194306) rfl (Rel.refl s)).f7 rfl
@[simp] theorem vecSend_home {s : State} {x1 x2} : (vecSend s x1 x2).home = s.home := (vecSend_rel (ch := 4194306) rfl (Rel.refl s)).f8 rfl
@[simp] theorem vecSend_dkl {s : State} {x1 x2} : (vecSend s x1 x2).dkl = s.dkl := (vecSend_rel (ch := 4194306) rfl (Rel.refl s)).f9 rfl
@[simp] theorem vecSend_seq {s : State} {x1 x2} : (vecSend s x1 x2).seq = s.seq := (vecSend_rel (ch := 4194306) rfl (Rel.refl s)).f10 rfl
@[simp] theorem vecSend_mov {s : State} {x1 x2} : (vecSend s x1 x2).mov = s.mov := (vecSend_rel (ch := 4194306) rfl (Rel.refl s)).f11 rfl
@[simp] theorem vecSend_time {s : State} {x1 x2} : (vecSend s x1 x2).time = s.time := (vecSend_rel (ch := 4194306) rfl (Rel.refl s)).f12 rfl
@[simp] theorem vecSend_ten {s : State} {x1 x2} : (vecSend s x1 x2).ten = s.ten := (vecSend_rel (ch := 4194306) rfl (Rel.refl s)).f13 rfl
@[simp] theorem vecSend_port {s : State} {x1 x2} : (vecSend s x1 x2).port = s.port := (vecSend_rel (ch := 4194306) rfl (Rel.refl s)).f14 rfl
@[simp] theorem vecSend_quire {s : State} {x1 x2} : (vecSend s x1 x2).quire = s.quire := (vecSend_rel (ch := 4194306) rfl (Rel.refl s)).f15 rfl
@[simp] theorem vecSend_core {s : State} {x1 x2} : (vecSend s x1 x2).core = s.core := (vecSend_rel (ch := 4194306) rfl (Rel.refl s)).f16 rfl
@[simp] theorem vecSend_cnt {s : State} {x1 x2} : (vecSend s x1 x2).cnt = s.cnt := (vecSend_rel (ch := 4194306) rfl (Rel.refl s)).f17 rfl
@[simp] theorem vecSend_stk {s : State} {x1 x2} : (vecSend s x1 x2).stk = s.stk := (vecSend_rel (ch := 4194306) rfl (Rel.refl s)).f18 rfl
@[simp] theorem vecSend_tap {s : State} {x1 x2} : (vecSend s x1 x2).tap = s.tap := (vecSend_rel (ch := 4194306) rfl (Rel.refl s)).f19 rfl
@[simp] theorem vecSend_pairLo {s : State} {x1 x2} : (vecSend s x1 x2).pairLo = s.pairLo := (vecSend_rel (ch := 4194306) rfl (Rel.refl s)).f20 rfl
@[simp] theorem vecSend_pairHi {s : State} {x1 x2} : (vecSend s x1 x2).pairHi = s.pairHi := (vecSend_rel (ch := 4194306) rfl (Rel.refl s)).f21 rfl
@[simp] theorem vecSend_fresh {s : State} {x1 x2} : (vecSend s x1 x2).fresh = s.fresh := (vecSend_rel (ch := 4194306) rfl (Rel.refl s)).f23 rfl
@[simp] theorem vecSend_nextId {s : State} {x1 x2} : (vecSend s x1 x2).nextId = s.nextId := (vecSend_rel (ch := 4194306) rfl (Rel.refl s)).f24 rfl
@[simp] theorem vecSend_pending {s : State} {x1 x2} : (vecSend s x1 x2).pending = s.pending := (vecSend_rel (ch := 4194306) rfl (Rel.refl s)).pend

@[simp] theorem evtVec_glb {s : State} {x1} : (evtVec s x1).glb = s.glb := (evtVec_rel (ch := 4195330) rfl (Rel.refl s)).f0 rfl
@[simp] theorem evtVec_pwr {s : State} {x1} : (evtVec s x1).pwr = s.pwr := (evtVec_rel (ch := 4195330) rfl (Rel.refl s)).f2 rfl
@[simp] theorem evtVec_pace {s : State} {x1} : (evtVec s x1).pace = s.pace := (evtVec_rel (ch := 4195330) rfl (Rel.refl s)).f3 rfl
@[simp] theorem evtVec_slot {s : State} {x1} : (evtVec s x1).slot = s.slot := (evtVec_rel (ch := 4195330) rfl (Rel.refl s)).f4 rfl
@[simp] theorem evtVec_pwrfail {s : State} {x1} : (evtVec s x1).pwrfail = s.pwrfail := (evtVec_rel (ch := 4195330) rfl (Rel.refl s)).f5 rfl
@[simp] theorem evtVec_slotHold {s : State} {x1} : (evtVec s x1).slotHold = s.slotHold := (evtVec_rel (ch := 4195330) rfl (Rel.refl s)).f6 rfl
@[simp] theorem evtVec_pool {s : State} {x1} : (evtVec s x1).pool = s.pool := (evtVec_rel (ch := 4195330) rfl (Rel.refl s)).f7 rfl
@[simp] theorem evtVec_home {s : State} {x1} : (evtVec s x1).home = s.home := (evtVec_rel (ch := 4195330) rfl (Rel.refl s)).f8 rfl
@[simp] theorem evtVec_dkl {s : State} {x1} : (evtVec s x1).dkl = s.dkl := (evtVec_rel (ch := 4195330) rfl (Rel.refl s)).f9 rfl
@[simp] theorem evtVec_mov {s : State} {x1} : (evtVec s x1).mov = s.mov := (evtVec_rel (ch := 4195330) rfl (Rel.refl s)).f11 rfl
@[simp] theorem evtVec_time {s : State} {x1} : (evtVec s x1).time = s.time := (evtVec_rel (ch := 4195330) rfl (Rel.refl s)).f12 rfl
@[simp] theorem evtVec_ten {s : State} {x1} : (evtVec s x1).ten = s.ten := (evtVec_rel (ch := 4195330) rfl (Rel.refl s)).f13 rfl
@[simp] theorem evtVec_port {s : State} {x1} : (evtVec s x1).port = s.port := (evtVec_rel (ch := 4195330) rfl (Rel.refl s)).f14 rfl
@[simp] theorem evtVec_quire {s : State} {x1} : (evtVec s x1).quire = s.quire := (evtVec_rel (ch := 4195330) rfl (Rel.refl s)).f15 rfl
@[simp] theorem evtVec_core {s : State} {x1} : (evtVec s x1).core = s.core := (evtVec_rel (ch := 4195330) rfl (Rel.refl s)).f16 rfl
@[simp] theorem evtVec_cnt {s : State} {x1} : (evtVec s x1).cnt = s.cnt := (evtVec_rel (ch := 4195330) rfl (Rel.refl s)).f17 rfl
@[simp] theorem evtVec_stk {s : State} {x1} : (evtVec s x1).stk = s.stk := (evtVec_rel (ch := 4195330) rfl (Rel.refl s)).f18 rfl
@[simp] theorem evtVec_tap {s : State} {x1} : (evtVec s x1).tap = s.tap := (evtVec_rel (ch := 4195330) rfl (Rel.refl s)).f19 rfl
@[simp] theorem evtVec_pairLo {s : State} {x1} : (evtVec s x1).pairLo = s.pairLo := (evtVec_rel (ch := 4195330) rfl (Rel.refl s)).f20 rfl
@[simp] theorem evtVec_pairHi {s : State} {x1} : (evtVec s x1).pairHi = s.pairHi := (evtVec_rel (ch := 4195330) rfl (Rel.refl s)).f21 rfl
@[simp] theorem evtVec_fresh {s : State} {x1} : (evtVec s x1).fresh = s.fresh := (evtVec_rel (ch := 4195330) rfl (Rel.refl s)).f23 rfl
@[simp] theorem evtVec_nextId {s : State} {x1} : (evtVec s x1).nextId = s.nextId := (evtVec_rel (ch := 4195330) rfl (Rel.refl s)).f24 rfl
@[simp] theorem evtVec_pending {s : State} {x1} : (evtVec s x1).pending = s.pending := (evtVec_rel (ch := 4195330) rfl (Rel.refl s)).pend
@[simp] theorem evtVec_ps {s : State} {x1} : (evtVec s x1).seq.ps = s.seq.ps := ((evtVec_rel (ch := 4195330) rfl (Rel.refl s)).ps rfl).1
@[simp] theorem evtVec_psBad {s : State} {x1} : (evtVec s x1).seq.psBad = s.seq.psBad := ((evtVec_rel (ch := 4195330) rfl (Rel.refl s)).ps rfl).2
@[simp] theorem evtVec_regs {s : State} {x1} (c : Nat) : regs (getCtx (evtVec s x1) c) = regs (getCtx s c) := (evtVec_rel (ch := 4195330) rfl (Rel.refl s)).regs rfl c

@[simp] theorem evLatch_glb {s : State} {x1 x2} : (evLatch s x1 x2).glb = s.glb := (evLatch_rel (ch := 4326402) rfl (Rel.refl s)).f0 rfl
@[simp] theorem evLatch_pwr {s : State} {x1 x2} : (evLatch s x1 x2).pwr = s.pwr := (evLatch_rel (ch := 4326402) rfl (Rel.refl s)).f2 rfl
@[simp] theorem evLatch_pace {s : State} {x1 x2} : (evLatch s x1 x2).pace = s.pace := (evLatch_rel (ch := 4326402) rfl (Rel.refl s)).f3 rfl
@[simp] theorem evLatch_slot {s : State} {x1 x2} : (evLatch s x1 x2).slot = s.slot := (evLatch_rel (ch := 4326402) rfl (Rel.refl s)).f4 rfl
@[simp] theorem evLatch_pwrfail {s : State} {x1 x2} : (evLatch s x1 x2).pwrfail = s.pwrfail := (evLatch_rel (ch := 4326402) rfl (Rel.refl s)).f5 rfl
@[simp] theorem evLatch_slotHold {s : State} {x1 x2} : (evLatch s x1 x2).slotHold = s.slotHold := (evLatch_rel (ch := 4326402) rfl (Rel.refl s)).f6 rfl
@[simp] theorem evLatch_pool {s : State} {x1 x2} : (evLatch s x1 x2).pool = s.pool := (evLatch_rel (ch := 4326402) rfl (Rel.refl s)).f7 rfl
@[simp] theorem evLatch_home {s : State} {x1 x2} : (evLatch s x1 x2).home = s.home := (evLatch_rel (ch := 4326402) rfl (Rel.refl s)).f8 rfl
@[simp] theorem evLatch_dkl {s : State} {x1 x2} : (evLatch s x1 x2).dkl = s.dkl := (evLatch_rel (ch := 4326402) rfl (Rel.refl s)).f9 rfl
@[simp] theorem evLatch_mov {s : State} {x1 x2} : (evLatch s x1 x2).mov = s.mov := (evLatch_rel (ch := 4326402) rfl (Rel.refl s)).f11 rfl
@[simp] theorem evLatch_time {s : State} {x1 x2} : (evLatch s x1 x2).time = s.time := (evLatch_rel (ch := 4326402) rfl (Rel.refl s)).f12 rfl
@[simp] theorem evLatch_ten {s : State} {x1 x2} : (evLatch s x1 x2).ten = s.ten := (evLatch_rel (ch := 4326402) rfl (Rel.refl s)).f13 rfl
@[simp] theorem evLatch_port {s : State} {x1 x2} : (evLatch s x1 x2).port = s.port := (evLatch_rel (ch := 4326402) rfl (Rel.refl s)).f14 rfl
@[simp] theorem evLatch_quire {s : State} {x1 x2} : (evLatch s x1 x2).quire = s.quire := (evLatch_rel (ch := 4326402) rfl (Rel.refl s)).f15 rfl
@[simp] theorem evLatch_core {s : State} {x1 x2} : (evLatch s x1 x2).core = s.core := (evLatch_rel (ch := 4326402) rfl (Rel.refl s)).f16 rfl
@[simp] theorem evLatch_stk {s : State} {x1 x2} : (evLatch s x1 x2).stk = s.stk := (evLatch_rel (ch := 4326402) rfl (Rel.refl s)).f18 rfl
@[simp] theorem evLatch_tap {s : State} {x1 x2} : (evLatch s x1 x2).tap = s.tap := (evLatch_rel (ch := 4326402) rfl (Rel.refl s)).f19 rfl
@[simp] theorem evLatch_pairLo {s : State} {x1 x2} : (evLatch s x1 x2).pairLo = s.pairLo := (evLatch_rel (ch := 4326402) rfl (Rel.refl s)).f20 rfl
@[simp] theorem evLatch_pairHi {s : State} {x1 x2} : (evLatch s x1 x2).pairHi = s.pairHi := (evLatch_rel (ch := 4326402) rfl (Rel.refl s)).f21 rfl
@[simp] theorem evLatch_fresh {s : State} {x1 x2} : (evLatch s x1 x2).fresh = s.fresh := (evLatch_rel (ch := 4326402) rfl (Rel.refl s)).f23 rfl
@[simp] theorem evLatch_nextId {s : State} {x1 x2} : (evLatch s x1 x2).nextId = s.nextId := (evLatch_rel (ch := 4326402) rfl (Rel.refl s)).f24 rfl
@[simp] theorem evLatch_pending {s : State} {x1 x2} : (evLatch s x1 x2).pending = s.pending := (evLatch_rel (ch := 4326402) rfl (Rel.refl s)).pend
@[simp] theorem evLatch_ps {s : State} {x1 x2} : (evLatch s x1 x2).seq.ps = s.seq.ps := ((evLatch_rel (ch := 4326402) rfl (Rel.refl s)).ps rfl).1
@[simp] theorem evLatch_psBad {s : State} {x1 x2} : (evLatch s x1 x2).seq.psBad = s.seq.psBad := ((evLatch_rel (ch := 4326402) rfl (Rel.refl s)).ps rfl).2
@[simp] theorem evLatch_regs {s : State} {x1 x2} (c : Nat) : regs (getCtx (evLatch s x1 x2) c) = regs (getCtx s c) := (evLatch_rel (ch := 4326402) rfl (Rel.refl s)).regs rfl c

@[simp] theorem stewEv_glb {s : State} : (stewEv s).glb = s.glb := (stewEv_rel (ch := 4326402) rfl (Rel.refl s)).f0 rfl
@[simp] theorem stewEv_pwr {s : State} : (stewEv s).pwr = s.pwr := (stewEv_rel (ch := 4326402) rfl (Rel.refl s)).f2 rfl
@[simp] theorem stewEv_pace {s : State} : (stewEv s).pace = s.pace := (stewEv_rel (ch := 4326402) rfl (Rel.refl s)).f3 rfl
@[simp] theorem stewEv_slot {s : State} : (stewEv s).slot = s.slot := (stewEv_rel (ch := 4326402) rfl (Rel.refl s)).f4 rfl
@[simp] theorem stewEv_pwrfail {s : State} : (stewEv s).pwrfail = s.pwrfail := (stewEv_rel (ch := 4326402) rfl (Rel.refl s)).f5 rfl
@[simp] theorem stewEv_slotHold {s : State} : (stewEv s).slotHold = s.slotHold := (stewEv_rel (ch := 4326402) rfl (Rel.refl s)).f6 rfl
@[simp] theorem stewEv_pool {s : State} : (stewEv s).pool = s.pool := (stewEv_rel (ch := 4326402) rfl (Rel.refl s)).f7 rfl
@[simp] theorem stewEv_home {s : State} : (stewEv s).home = s.home := (stewEv_rel (ch := 4326402) rfl (Rel.refl s)).f8 rfl
@[simp] theorem stewEv_dkl {s : State} : (stewEv s).dkl = s.dkl := (stewEv_rel (ch := 4326402) rfl (Rel.refl s)).f9 rfl
@[simp] theorem stewEv_mov {s : State} : (stewEv s).mov = s.mov := (stewEv_rel (ch := 4326402) rfl (Rel.refl s)).f11 rfl
@[simp] theorem stewEv_time {s : State} : (stewEv s).time = s.time := (stewEv_rel (ch := 4326402) rfl (Rel.refl s)).f12 rfl
@[simp] theorem stewEv_ten {s : State} : (stewEv s).ten = s.ten := (stewEv_rel (ch := 4326402) rfl (Rel.refl s)).f13 rfl
@[simp] theorem stewEv_port {s : State} : (stewEv s).port = s.port := (stewEv_rel (ch := 4326402) rfl (Rel.refl s)).f14 rfl
@[simp] theorem stewEv_quire {s : State} : (stewEv s).quire = s.quire := (stewEv_rel (ch := 4326402) rfl (Rel.refl s)).f15 rfl
@[simp] theorem stewEv_core {s : State} : (stewEv s).core = s.core := (stewEv_rel (ch := 4326402) rfl (Rel.refl s)).f16 rfl
@[simp] theorem stewEv_stk {s : State} : (stewEv s).stk = s.stk := (stewEv_rel (ch := 4326402) rfl (Rel.refl s)).f18 rfl
@[simp] theorem stewEv_tap {s : State} : (stewEv s).tap = s.tap := (stewEv_rel (ch := 4326402) rfl (Rel.refl s)).f19 rfl
@[simp] theorem stewEv_pairLo {s : State} : (stewEv s).pairLo = s.pairLo := (stewEv_rel (ch := 4326402) rfl (Rel.refl s)).f20 rfl
@[simp] theorem stewEv_pairHi {s : State} : (stewEv s).pairHi = s.pairHi := (stewEv_rel (ch := 4326402) rfl (Rel.refl s)).f21 rfl
@[simp] theorem stewEv_fresh {s : State} : (stewEv s).fresh = s.fresh := (stewEv_rel (ch := 4326402) rfl (Rel.refl s)).f23 rfl
@[simp] theorem stewEv_nextId {s : State} : (stewEv s).nextId = s.nextId := (stewEv_rel (ch := 4326402) rfl (Rel.refl s)).f24 rfl
@[simp] theorem stewEv_pending {s : State} : (stewEv s).pending = s.pending := (stewEv_rel (ch := 4326402) rfl (Rel.refl s)).pend
@[simp] theorem stewEv_ps {s : State} : (stewEv s).seq.ps = s.seq.ps := ((stewEv_rel (ch := 4326402) rfl (Rel.refl s)).ps rfl).1
@[simp] theorem stewEv_psBad {s : State} : (stewEv s).seq.psBad = s.seq.psBad := ((stewEv_rel (ch := 4326402) rfl (Rel.refl s)).ps rfl).2
@[simp] theorem stewEv_regs {s : State} (c : Nat) : regs (getCtx (stewEv s) c) = regs (getCtx s c) := (stewEv_rel (ch := 4326402) rfl (Rel.refl s)).regs rfl c

@[simp] theorem powerEv_glb {s : State} : (powerEv s).glb = s.glb := (powerEv_rel (ch := 4326402) rfl (Rel.refl s)).f0 rfl
@[simp] theorem powerEv_pwr {s : State} : (powerEv s).pwr = s.pwr := (powerEv_rel (ch := 4326402) rfl (Rel.refl s)).f2 rfl
@[simp] theorem powerEv_pace {s : State} : (powerEv s).pace = s.pace := (powerEv_rel (ch := 4326402) rfl (Rel.refl s)).f3 rfl
@[simp] theorem powerEv_slot {s : State} : (powerEv s).slot = s.slot := (powerEv_rel (ch := 4326402) rfl (Rel.refl s)).f4 rfl
@[simp] theorem powerEv_pwrfail {s : State} : (powerEv s).pwrfail = s.pwrfail := (powerEv_rel (ch := 4326402) rfl (Rel.refl s)).f5 rfl
@[simp] theorem powerEv_slotHold {s : State} : (powerEv s).slotHold = s.slotHold := (powerEv_rel (ch := 4326402) rfl (Rel.refl s)).f6 rfl
@[simp] theorem powerEv_pool {s : State} : (powerEv s).pool = s.pool := (powerEv_rel (ch := 4326402) rfl (Rel.refl s)).f7 rfl
@[simp] theorem powerEv_home {s : State} : (powerEv s).home = s.home := (powerEv_rel (ch := 4326402) rfl (Rel.refl s)).f8 rfl
@[simp] theorem powerEv_dkl {s : State} : (powerEv s).dkl = s.dkl := (powerEv_rel (ch := 4326402) rfl (Rel.refl s)).f9 rfl
@[simp] theorem powerEv_mov {s : State} : (powerEv s).mov = s.mov := (powerEv_rel (ch := 4326402) rfl (Rel.refl s)).f11 rfl
@[simp] theorem powerEv_time {s : State} : (powerEv s).time = s.time := (powerEv_rel (ch := 4326402) rfl (Rel.refl s)).f12 rfl
@[simp] theorem powerEv_ten {s : State} : (powerEv s).ten = s.ten := (powerEv_rel (ch := 4326402) rfl (Rel.refl s)).f13 rfl
@[simp] theorem powerEv_port {s : State} : (powerEv s).port = s.port := (powerEv_rel (ch := 4326402) rfl (Rel.refl s)).f14 rfl
@[simp] theorem powerEv_quire {s : State} : (powerEv s).quire = s.quire := (powerEv_rel (ch := 4326402) rfl (Rel.refl s)).f15 rfl
@[simp] theorem powerEv_core {s : State} : (powerEv s).core = s.core := (powerEv_rel (ch := 4326402) rfl (Rel.refl s)).f16 rfl
@[simp] theorem powerEv_stk {s : State} : (powerEv s).stk = s.stk := (powerEv_rel (ch := 4326402) rfl (Rel.refl s)).f18 rfl
@[simp] theorem powerEv_tap {s : State} : (powerEv s).tap = s.tap := (powerEv_rel (ch := 4326402) rfl (Rel.refl s)).f19 rfl
@[simp] theorem powerEv_pairLo {s : State} : (powerEv s).pairLo = s.pairLo := (powerEv_rel (ch := 4326402) rfl (Rel.refl s)).f20 rfl
@[simp] theorem powerEv_pairHi {s : State} : (powerEv s).pairHi = s.pairHi := (powerEv_rel (ch := 4326402) rfl (Rel.refl s)).f21 rfl
@[simp] theorem powerEv_fresh {s : State} : (powerEv s).fresh = s.fresh := (powerEv_rel (ch := 4326402) rfl (Rel.refl s)).f23 rfl
@[simp] theorem powerEv_nextId {s : State} : (powerEv s).nextId = s.nextId := (powerEv_rel (ch := 4326402) rfl (Rel.refl s)).f24 rfl
@[simp] theorem powerEv_pending {s : State} : (powerEv s).pending = s.pending := (powerEv_rel (ch := 4326402) rfl (Rel.refl s)).pend
@[simp] theorem powerEv_ps {s : State} : (powerEv s).seq.ps = s.seq.ps := ((powerEv_rel (ch := 4326402) rfl (Rel.refl s)).ps rfl).1
@[simp] theorem powerEv_psBad {s : State} : (powerEv s).seq.psBad = s.seq.psBad := ((powerEv_rel (ch := 4326402) rfl (Rel.refl s)).ps rfl).2
@[simp] theorem powerEv_regs {s : State} (c : Nat) : regs (getCtx (powerEv s) c) = regs (getCtx s c) := (powerEv_rel (ch := 4326402) rfl (Rel.refl s)).regs rfl c

@[simp] theorem tenEv_glb {s : State} {x1} : (tenEv s x1).glb = s.glb := (tenEv_rel (ch := 4326402) rfl (Rel.refl s)).f0 rfl
@[simp] theorem tenEv_pwr {s : State} {x1} : (tenEv s x1).pwr = s.pwr := (tenEv_rel (ch := 4326402) rfl (Rel.refl s)).f2 rfl
@[simp] theorem tenEv_pace {s : State} {x1} : (tenEv s x1).pace = s.pace := (tenEv_rel (ch := 4326402) rfl (Rel.refl s)).f3 rfl
@[simp] theorem tenEv_slot {s : State} {x1} : (tenEv s x1).slot = s.slot := (tenEv_rel (ch := 4326402) rfl (Rel.refl s)).f4 rfl
@[simp] theorem tenEv_pwrfail {s : State} {x1} : (tenEv s x1).pwrfail = s.pwrfail := (tenEv_rel (ch := 4326402) rfl (Rel.refl s)).f5 rfl
@[simp] theorem tenEv_slotHold {s : State} {x1} : (tenEv s x1).slotHold = s.slotHold := (tenEv_rel (ch := 4326402) rfl (Rel.refl s)).f6 rfl
@[simp] theorem tenEv_pool {s : State} {x1} : (tenEv s x1).pool = s.pool := (tenEv_rel (ch := 4326402) rfl (Rel.refl s)).f7 rfl
@[simp] theorem tenEv_home {s : State} {x1} : (tenEv s x1).home = s.home := (tenEv_rel (ch := 4326402) rfl (Rel.refl s)).f8 rfl
@[simp] theorem tenEv_dkl {s : State} {x1} : (tenEv s x1).dkl = s.dkl := (tenEv_rel (ch := 4326402) rfl (Rel.refl s)).f9 rfl
@[simp] theorem tenEv_mov {s : State} {x1} : (tenEv s x1).mov = s.mov := (tenEv_rel (ch := 4326402) rfl (Rel.refl s)).f11 rfl
@[simp] theorem tenEv_time {s : State} {x1} : (tenEv s x1).time = s.time := (tenEv_rel (ch := 4326402) rfl (Rel.refl s)).f12 rfl
@[simp] theorem tenEv_ten {s : State} {x1} : (tenEv s x1).ten = s.ten := (tenEv_rel (ch := 4326402) rfl (Rel.refl s)).f13 rfl
@[simp] theorem tenEv_port {s : State} {x1} : (tenEv s x1).port = s.port := (tenEv_rel (ch := 4326402) rfl (Rel.refl s)).f14 rfl
@[simp] theorem tenEv_quire {s : State} {x1} : (tenEv s x1).quire = s.quire := (tenEv_rel (ch := 4326402) rfl (Rel.refl s)).f15 rfl
@[simp] theorem tenEv_core {s : State} {x1} : (tenEv s x1).core = s.core := (tenEv_rel (ch := 4326402) rfl (Rel.refl s)).f16 rfl
@[simp] theorem tenEv_stk {s : State} {x1} : (tenEv s x1).stk = s.stk := (tenEv_rel (ch := 4326402) rfl (Rel.refl s)).f18 rfl
@[simp] theorem tenEv_tap {s : State} {x1} : (tenEv s x1).tap = s.tap := (tenEv_rel (ch := 4326402) rfl (Rel.refl s)).f19 rfl
@[simp] theorem tenEv_pairLo {s : State} {x1} : (tenEv s x1).pairLo = s.pairLo := (tenEv_rel (ch := 4326402) rfl (Rel.refl s)).f20 rfl
@[simp] theorem tenEv_pairHi {s : State} {x1} : (tenEv s x1).pairHi = s.pairHi := (tenEv_rel (ch := 4326402) rfl (Rel.refl s)).f21 rfl
@[simp] theorem tenEv_fresh {s : State} {x1} : (tenEv s x1).fresh = s.fresh := (tenEv_rel (ch := 4326402) rfl (Rel.refl s)).f23 rfl
@[simp] theorem tenEv_nextId {s : State} {x1} : (tenEv s x1).nextId = s.nextId := (tenEv_rel (ch := 4326402) rfl (Rel.refl s)).f24 rfl
@[simp] theorem tenEv_pending {s : State} {x1} : (tenEv s x1).pending = s.pending := (tenEv_rel (ch := 4326402) rfl (Rel.refl s)).pend
@[simp] theorem tenEv_ps {s : State} {x1} : (tenEv s x1).seq.ps = s.seq.ps := ((tenEv_rel (ch := 4326402) rfl (Rel.refl s)).ps rfl).1
@[simp] theorem tenEv_psBad {s : State} {x1} : (tenEv s x1).seq.psBad = s.seq.psBad := ((tenEv_rel (ch := 4326402) rfl (Rel.refl s)).ps rfl).2
@[simp] theorem tenEv_regs {s : State} {x1} (c : Nat) : regs (getCtx (tenEv s x1) c) = regs (getCtx s c) := (tenEv_rel (ch := 4326402) rfl (Rel.refl s)).regs rfl c

@[simp] theorem tenEvQ_glb {s : State} {x1} : (tenEv? s x1).glb = s.glb := (tenEv?_rel (ch := 4326402) rfl (Rel.refl s)).f0 rfl
@[simp] theorem tenEvQ_pwr {s : State} {x1} : (tenEv? s x1).pwr = s.pwr := (tenEv?_rel (ch := 4326402) rfl (Rel.refl s)).f2 rfl
@[simp] theorem tenEvQ_pace {s : State} {x1} : (tenEv? s x1).pace = s.pace := (tenEv?_rel (ch := 4326402) rfl (Rel.refl s)).f3 rfl
@[simp] theorem tenEvQ_slot {s : State} {x1} : (tenEv? s x1).slot = s.slot := (tenEv?_rel (ch := 4326402) rfl (Rel.refl s)).f4 rfl
@[simp] theorem tenEvQ_pwrfail {s : State} {x1} : (tenEv? s x1).pwrfail = s.pwrfail := (tenEv?_rel (ch := 4326402) rfl (Rel.refl s)).f5 rfl
@[simp] theorem tenEvQ_slotHold {s : State} {x1} : (tenEv? s x1).slotHold = s.slotHold := (tenEv?_rel (ch := 4326402) rfl (Rel.refl s)).f6 rfl
@[simp] theorem tenEvQ_pool {s : State} {x1} : (tenEv? s x1).pool = s.pool := (tenEv?_rel (ch := 4326402) rfl (Rel.refl s)).f7 rfl
@[simp] theorem tenEvQ_home {s : State} {x1} : (tenEv? s x1).home = s.home := (tenEv?_rel (ch := 4326402) rfl (Rel.refl s)).f8 rfl
@[simp] theorem tenEvQ_dkl {s : State} {x1} : (tenEv? s x1).dkl = s.dkl := (tenEv?_rel (ch := 4326402) rfl (Rel.refl s)).f9 rfl
@[simp] theorem tenEvQ_mov {s : State} {x1} : (tenEv? s x1).mov = s.mov := (tenEv?_rel (ch := 4326402) rfl (Rel.refl s)).f11 rfl
@[simp] theorem tenEvQ_time {s : State} {x1} : (tenEv? s x1).time = s.time := (tenEv?_rel (ch := 4326402) rfl (Rel.refl s)).f12 rfl
@[simp] theorem tenEvQ_ten {s : State} {x1} : (tenEv? s x1).ten = s.ten := (tenEv?_rel (ch := 4326402) rfl (Rel.refl s)).f13 rfl
@[simp] theorem tenEvQ_port {s : State} {x1} : (tenEv? s x1).port = s.port := (tenEv?_rel (ch := 4326402) rfl (Rel.refl s)).f14 rfl
@[simp] theorem tenEvQ_quire {s : State} {x1} : (tenEv? s x1).quire = s.quire := (tenEv?_rel (ch := 4326402) rfl (Rel.refl s)).f15 rfl
@[simp] theorem tenEvQ_core {s : State} {x1} : (tenEv? s x1).core = s.core := (tenEv?_rel (ch := 4326402) rfl (Rel.refl s)).f16 rfl
@[simp] theorem tenEvQ_stk {s : State} {x1} : (tenEv? s x1).stk = s.stk := (tenEv?_rel (ch := 4326402) rfl (Rel.refl s)).f18 rfl
@[simp] theorem tenEvQ_tap {s : State} {x1} : (tenEv? s x1).tap = s.tap := (tenEv?_rel (ch := 4326402) rfl (Rel.refl s)).f19 rfl
@[simp] theorem tenEvQ_pairLo {s : State} {x1} : (tenEv? s x1).pairLo = s.pairLo := (tenEv?_rel (ch := 4326402) rfl (Rel.refl s)).f20 rfl
@[simp] theorem tenEvQ_pairHi {s : State} {x1} : (tenEv? s x1).pairHi = s.pairHi := (tenEv?_rel (ch := 4326402) rfl (Rel.refl s)).f21 rfl
@[simp] theorem tenEvQ_fresh {s : State} {x1} : (tenEv? s x1).fresh = s.fresh := (tenEv?_rel (ch := 4326402) rfl (Rel.refl s)).f23 rfl
@[simp] theorem tenEvQ_nextId {s : State} {x1} : (tenEv? s x1).nextId = s.nextId := (tenEv?_rel (ch := 4326402) rfl (Rel.refl s)).f24 rfl
@[simp] theorem tenEvQ_pending {s : State} {x1} : (tenEv? s x1).pending = s.pending := (tenEv?_rel (ch := 4326402) rfl (Rel.refl s)).pend
@[simp] theorem tenEvQ_ps {s : State} {x1} : (tenEv? s x1).seq.ps = s.seq.ps := ((tenEv?_rel (ch := 4326402) rfl (Rel.refl s)).ps rfl).1
@[simp] theorem tenEvQ_psBad {s : State} {x1} : (tenEv? s x1).seq.psBad = s.seq.psBad := ((tenEv?_rel (ch := 4326402) rfl (Rel.refl s)).ps rfl).2
@[simp] theorem tenEvQ_regs {s : State} {x1} (c : Nat) : regs (getCtx (tenEv? s x1) c) = regs (getCtx s c) := (tenEv?_rel (ch := 4326402) rfl (Rel.refl s)).regs rfl c

@[simp] theorem stewIf_glb {s : State} {x1 x2} : (stewIf s x1 x2).glb = s.glb := (stewIf_rel (ch := 4326402) rfl (Rel.refl s)).f0 rfl
@[simp] theorem stewIf_pwr {s : State} {x1 x2} : (stewIf s x1 x2).pwr = s.pwr := (stewIf_rel (ch := 4326402) rfl (Rel.refl s)).f2 rfl
@[simp] theorem stewIf_pace {s : State} {x1 x2} : (stewIf s x1 x2).pace = s.pace := (stewIf_rel (ch := 4326402) rfl (Rel.refl s)).f3 rfl
@[simp] theorem stewIf_slot {s : State} {x1 x2} : (stewIf s x1 x2).slot = s.slot := (stewIf_rel (ch := 4326402) rfl (Rel.refl s)).f4 rfl
@[simp] theorem stewIf_pwrfail {s : State} {x1 x2} : (stewIf s x1 x2).pwrfail = s.pwrfail := (stewIf_rel (ch := 4326402) rfl (Rel.refl s)).f5 rfl
@[simp] theorem stewIf_slotHold {s : State} {x1 x2} : (stewIf s x1 x2).slotHold = s.slotHold := (stewIf_rel (ch := 4326402) rfl (Rel.refl s)).f6 rfl
@[simp] theorem stewIf_pool {s : State} {x1 x2} : (stewIf s x1 x2).pool = s.pool := (stewIf_rel (ch := 4326402) rfl (Rel.refl s)).f7 rfl
@[simp] theorem stewIf_home {s : State} {x1 x2} : (stewIf s x1 x2).home = s.home := (stewIf_rel (ch := 4326402) rfl (Rel.refl s)).f8 rfl
@[simp] theorem stewIf_dkl {s : State} {x1 x2} : (stewIf s x1 x2).dkl = s.dkl := (stewIf_rel (ch := 4326402) rfl (Rel.refl s)).f9 rfl
@[simp] theorem stewIf_mov {s : State} {x1 x2} : (stewIf s x1 x2).mov = s.mov := (stewIf_rel (ch := 4326402) rfl (Rel.refl s)).f11 rfl
@[simp] theorem stewIf_time {s : State} {x1 x2} : (stewIf s x1 x2).time = s.time := (stewIf_rel (ch := 4326402) rfl (Rel.refl s)).f12 rfl
@[simp] theorem stewIf_ten {s : State} {x1 x2} : (stewIf s x1 x2).ten = s.ten := (stewIf_rel (ch := 4326402) rfl (Rel.refl s)).f13 rfl
@[simp] theorem stewIf_port {s : State} {x1 x2} : (stewIf s x1 x2).port = s.port := (stewIf_rel (ch := 4326402) rfl (Rel.refl s)).f14 rfl
@[simp] theorem stewIf_quire {s : State} {x1 x2} : (stewIf s x1 x2).quire = s.quire := (stewIf_rel (ch := 4326402) rfl (Rel.refl s)).f15 rfl
@[simp] theorem stewIf_core {s : State} {x1 x2} : (stewIf s x1 x2).core = s.core := (stewIf_rel (ch := 4326402) rfl (Rel.refl s)).f16 rfl
@[simp] theorem stewIf_stk {s : State} {x1 x2} : (stewIf s x1 x2).stk = s.stk := (stewIf_rel (ch := 4326402) rfl (Rel.refl s)).f18 rfl
@[simp] theorem stewIf_tap {s : State} {x1 x2} : (stewIf s x1 x2).tap = s.tap := (stewIf_rel (ch := 4326402) rfl (Rel.refl s)).f19 rfl
@[simp] theorem stewIf_pairLo {s : State} {x1 x2} : (stewIf s x1 x2).pairLo = s.pairLo := (stewIf_rel (ch := 4326402) rfl (Rel.refl s)).f20 rfl
@[simp] theorem stewIf_pairHi {s : State} {x1 x2} : (stewIf s x1 x2).pairHi = s.pairHi := (stewIf_rel (ch := 4326402) rfl (Rel.refl s)).f21 rfl
@[simp] theorem stewIf_fresh {s : State} {x1 x2} : (stewIf s x1 x2).fresh = s.fresh := (stewIf_rel (ch := 4326402) rfl (Rel.refl s)).f23 rfl
@[simp] theorem stewIf_nextId {s : State} {x1 x2} : (stewIf s x1 x2).nextId = s.nextId := (stewIf_rel (ch := 4326402) rfl (Rel.refl s)).f24 rfl
@[simp] theorem stewIf_pending {s : State} {x1 x2} : (stewIf s x1 x2).pending = s.pending := (stewIf_rel (ch := 4326402) rfl (Rel.refl s)).pend
@[simp] theorem stewIf_ps {s : State} {x1 x2} : (stewIf s x1 x2).seq.ps = s.seq.ps := ((stewIf_rel (ch := 4326402) rfl (Rel.refl s)).ps rfl).1
@[simp] theorem stewIf_psBad {s : State} {x1 x2} : (stewIf s x1 x2).seq.psBad = s.seq.psBad := ((stewIf_rel (ch := 4326402) rfl (Rel.refl s)).ps rfl).2
@[simp] theorem stewIf_regs {s : State} {x1 x2} (c : Nat) : regs (getCtx (stewIf s x1 x2) c) = regs (getCtx s c) := (stewIf_rel (ch := 4326402) rfl (Rel.refl s)).regs rfl c

@[simp] theorem pldmEv_glb {s : State} {x1} : (pldmEv s x1).glb = s.glb := (pldmEv_rel (ch := 2) rfl (Rel.refl s)).f0 rfl
@[simp] theorem pldmEv_pwr {s : State} {x1} : (pldmEv s x1).pwr = s.pwr := (pldmEv_rel (ch := 2) rfl (Rel.refl s)).f2 rfl
@[simp] theorem pldmEv_pace {s : State} {x1} : (pldmEv s x1).pace = s.pace := (pldmEv_rel (ch := 2) rfl (Rel.refl s)).f3 rfl
@[simp] theorem pldmEv_slot {s : State} {x1} : (pldmEv s x1).slot = s.slot := (pldmEv_rel (ch := 2) rfl (Rel.refl s)).f4 rfl
@[simp] theorem pldmEv_pwrfail {s : State} {x1} : (pldmEv s x1).pwrfail = s.pwrfail := (pldmEv_rel (ch := 2) rfl (Rel.refl s)).f5 rfl
@[simp] theorem pldmEv_slotHold {s : State} {x1} : (pldmEv s x1).slotHold = s.slotHold := (pldmEv_rel (ch := 2) rfl (Rel.refl s)).f6 rfl
@[simp] theorem pldmEv_pool {s : State} {x1} : (pldmEv s x1).pool = s.pool := (pldmEv_rel (ch := 2) rfl (Rel.refl s)).f7 rfl
@[simp] theorem pldmEv_home {s : State} {x1} : (pldmEv s x1).home = s.home := (pldmEv_rel (ch := 2) rfl (Rel.refl s)).f8 rfl
@[simp] theorem pldmEv_dkl {s : State} {x1} : (pldmEv s x1).dkl = s.dkl := (pldmEv_rel (ch := 2) rfl (Rel.refl s)).f9 rfl
@[simp] theorem pldmEv_seq {s : State} {x1} : (pldmEv s x1).seq = s.seq := (pldmEv_rel (ch := 2) rfl (Rel.refl s)).f10 rfl
@[simp] theorem pldmEv_mov {s : State} {x1} : (pldmEv s x1).mov = s.mov := (pldmEv_rel (ch := 2) rfl (Rel.refl s)).f11 rfl
@[simp] theorem pldmEv_time {s : State} {x1} : (pldmEv s x1).time = s.time := (pldmEv_rel (ch := 2) rfl (Rel.refl s)).f12 rfl
@[simp] theorem pldmEv_ten {s : State} {x1} : (pldmEv s x1).ten = s.ten := (pldmEv_rel (ch := 2) rfl (Rel.refl s)).f13 rfl
@[simp] theorem pldmEv_port {s : State} {x1} : (pldmEv s x1).port = s.port := (pldmEv_rel (ch := 2) rfl (Rel.refl s)).f14 rfl
@[simp] theorem pldmEv_quire {s : State} {x1} : (pldmEv s x1).quire = s.quire := (pldmEv_rel (ch := 2) rfl (Rel.refl s)).f15 rfl
@[simp] theorem pldmEv_core {s : State} {x1} : (pldmEv s x1).core = s.core := (pldmEv_rel (ch := 2) rfl (Rel.refl s)).f16 rfl
@[simp] theorem pldmEv_cnt {s : State} {x1} : (pldmEv s x1).cnt = s.cnt := (pldmEv_rel (ch := 2) rfl (Rel.refl s)).f17 rfl
@[simp] theorem pldmEv_stk {s : State} {x1} : (pldmEv s x1).stk = s.stk := (pldmEv_rel (ch := 2) rfl (Rel.refl s)).f18 rfl
@[simp] theorem pldmEv_tap {s : State} {x1} : (pldmEv s x1).tap = s.tap := (pldmEv_rel (ch := 2) rfl (Rel.refl s)).f19 rfl
@[simp] theorem pldmEv_pairLo {s : State} {x1} : (pldmEv s x1).pairLo = s.pairLo := (pldmEv_rel (ch := 2) rfl (Rel.refl s)).f20 rfl
@[simp] theorem pldmEv_pairHi {s : State} {x1} : (pldmEv s x1).pairHi = s.pairHi := (pldmEv_rel (ch := 2) rfl (Rel.refl s)).f21 rfl
@[simp] theorem pldmEv_out {s : State} {x1} : (pldmEv s x1).out = s.out := (pldmEv_rel (ch := 2) rfl (Rel.refl s)).f22 rfl
@[simp] theorem pldmEv_fresh {s : State} {x1} : (pldmEv s x1).fresh = s.fresh := (pldmEv_rel (ch := 2) rfl (Rel.refl s)).f23 rfl
@[simp] theorem pldmEv_nextId {s : State} {x1} : (pldmEv s x1).nextId = s.nextId := (pldmEv_rel (ch := 2) rfl (Rel.refl s)).f24 rfl
@[simp] theorem pldmEv_pending {s : State} {x1} : (pldmEv s x1).pending = s.pending := (pldmEv_rel (ch := 2) rfl (Rel.refl s)).pend

@[simp] theorem unwait_glb {s : State} {x1} : (unwait s x1).glb = s.glb := (unwait_rel (ch := 1024) rfl (Rel.refl s)).f0 rfl
@[simp] theorem unwait_cmd {s : State} {x1} : (unwait s x1).cmd = s.cmd := (unwait_rel (ch := 1024) rfl (Rel.refl s)).f1 rfl
@[simp] theorem unwait_pwr {s : State} {x1} : (unwait s x1).pwr = s.pwr := (unwait_rel (ch := 1024) rfl (Rel.refl s)).f2 rfl
@[simp] theorem unwait_pace {s : State} {x1} : (unwait s x1).pace = s.pace := (unwait_rel (ch := 1024) rfl (Rel.refl s)).f3 rfl
@[simp] theorem unwait_slot {s : State} {x1} : (unwait s x1).slot = s.slot := (unwait_rel (ch := 1024) rfl (Rel.refl s)).f4 rfl
@[simp] theorem unwait_pwrfail {s : State} {x1} : (unwait s x1).pwrfail = s.pwrfail := (unwait_rel (ch := 1024) rfl (Rel.refl s)).f5 rfl
@[simp] theorem unwait_slotHold {s : State} {x1} : (unwait s x1).slotHold = s.slotHold := (unwait_rel (ch := 1024) rfl (Rel.refl s)).f6 rfl
@[simp] theorem unwait_pool {s : State} {x1} : (unwait s x1).pool = s.pool := (unwait_rel (ch := 1024) rfl (Rel.refl s)).f7 rfl
@[simp] theorem unwait_home {s : State} {x1} : (unwait s x1).home = s.home := (unwait_rel (ch := 1024) rfl (Rel.refl s)).f8 rfl
@[simp] theorem unwait_dkl {s : State} {x1} : (unwait s x1).dkl = s.dkl := (unwait_rel (ch := 1024) rfl (Rel.refl s)).f9 rfl
@[simp] theorem unwait_mov {s : State} {x1} : (unwait s x1).mov = s.mov := (unwait_rel (ch := 1024) rfl (Rel.refl s)).f11 rfl
@[simp] theorem unwait_time {s : State} {x1} : (unwait s x1).time = s.time := (unwait_rel (ch := 1024) rfl (Rel.refl s)).f12 rfl
@[simp] theorem unwait_ten {s : State} {x1} : (unwait s x1).ten = s.ten := (unwait_rel (ch := 1024) rfl (Rel.refl s)).f13 rfl
@[simp] theorem unwait_port {s : State} {x1} : (unwait s x1).port = s.port := (unwait_rel (ch := 1024) rfl (Rel.refl s)).f14 rfl
@[simp] theorem unwait_quire {s : State} {x1} : (unwait s x1).quire = s.quire := (unwait_rel (ch := 1024) rfl (Rel.refl s)).f15 rfl
@[simp] theorem unwait_core {s : State} {x1} : (unwait s x1).core = s.core := (unwait_rel (ch := 1024) rfl (Rel.refl s)).f16 rfl
@[simp] theorem unwait_cnt {s : State} {x1} : (unwait s x1).cnt = s.cnt := (unwait_rel (ch := 1024) rfl (Rel.refl s)).f17 rfl
@[simp] theorem unwait_stk {s : State} {x1} : (unwait s x1).stk = s.stk := (unwait_rel (ch := 1024) rfl (Rel.refl s)).f18 rfl
@[simp] theorem unwait_tap {s : State} {x1} : (unwait s x1).tap = s.tap := (unwait_rel (ch := 1024) rfl (Rel.refl s)).f19 rfl
@[simp] theorem unwait_pairLo {s : State} {x1} : (unwait s x1).pairLo = s.pairLo := (unwait_rel (ch := 1024) rfl (Rel.refl s)).f20 rfl
@[simp] theorem unwait_pairHi {s : State} {x1} : (unwait s x1).pairHi = s.pairHi := (unwait_rel (ch := 1024) rfl (Rel.refl s)).f21 rfl
@[simp] theorem unwait_out {s : State} {x1} : (unwait s x1).out = s.out := (unwait_rel (ch := 1024) rfl (Rel.refl s)).f22 rfl
@[simp] theorem unwait_fresh {s : State} {x1} : (unwait s x1).fresh = s.fresh := (unwait_rel (ch := 1024) rfl (Rel.refl s)).f23 rfl
@[simp] theorem unwait_nextId {s : State} {x1} : (unwait s x1).nextId = s.nextId := (unwait_rel (ch := 1024) rfl (Rel.refl s)).f24 rfl
@[simp] theorem unwait_pending {s : State} {x1} : (unwait s x1).pending = s.pending := (unwait_rel (ch := 1024) rfl (Rel.refl s)).pend
@[simp] theorem unwait_ps {s : State} {x1} : (unwait s x1).seq.ps = s.seq.ps := ((unwait_rel (ch := 1024) rfl (Rel.refl s)).ps rfl).1
@[simp] theorem unwait_psBad {s : State} {x1} : (unwait s x1).seq.psBad = s.seq.psBad := ((unwait_rel (ch := 1024) rfl (Rel.refl s)).ps rfl).2
@[simp] theorem unwait_regs {s : State} {x1} (c : Nat) : regs (getCtx (unwait s x1) c) = regs (getCtx s c) := (unwait_rel (ch := 1024) rfl (Rel.refl s)).regs rfl c

@[simp] theorem retireCount_glb {s : State} {x1 x2} : (retireCount s x1 x2).glb = s.glb := (retireCount_rel (ch := 132096) rfl (Rel.refl s)).f0 rfl
@[simp] theorem retireCount_cmd {s : State} {x1 x2} : (retireCount s x1 x2).cmd = s.cmd := (retireCount_rel (ch := 132096) rfl (Rel.refl s)).f1 rfl
@[simp] theorem retireCount_pwr {s : State} {x1 x2} : (retireCount s x1 x2).pwr = s.pwr := (retireCount_rel (ch := 132096) rfl (Rel.refl s)).f2 rfl
@[simp] theorem retireCount_pace {s : State} {x1 x2} : (retireCount s x1 x2).pace = s.pace := (retireCount_rel (ch := 132096) rfl (Rel.refl s)).f3 rfl
@[simp] theorem retireCount_slot {s : State} {x1 x2} : (retireCount s x1 x2).slot = s.slot := (retireCount_rel (ch := 132096) rfl (Rel.refl s)).f4 rfl
@[simp] theorem retireCount_pwrfail {s : State} {x1 x2} : (retireCount s x1 x2).pwrfail = s.pwrfail := (retireCount_rel (ch := 132096) rfl (Rel.refl s)).f5 rfl
@[simp] theorem retireCount_slotHold {s : State} {x1 x2} : (retireCount s x1 x2).slotHold = s.slotHold := (retireCount_rel (ch := 132096) rfl (Rel.refl s)).f6 rfl
@[simp] theorem retireCount_pool {s : State} {x1 x2} : (retireCount s x1 x2).pool = s.pool := (retireCount_rel (ch := 132096) rfl (Rel.refl s)).f7 rfl
@[simp] theorem retireCount_home {s : State} {x1 x2} : (retireCount s x1 x2).home = s.home := (retireCount_rel (ch := 132096) rfl (Rel.refl s)).f8 rfl
@[simp] theorem retireCount_dkl {s : State} {x1 x2} : (retireCount s x1 x2).dkl = s.dkl := (retireCount_rel (ch := 132096) rfl (Rel.refl s)).f9 rfl
@[simp] theorem retireCount_mov {s : State} {x1 x2} : (retireCount s x1 x2).mov = s.mov := (retireCount_rel (ch := 132096) rfl (Rel.refl s)).f11 rfl
@[simp] theorem retireCount_time {s : State} {x1 x2} : (retireCount s x1 x2).time = s.time := (retireCount_rel (ch := 132096) rfl (Rel.refl s)).f12 rfl
@[simp] theorem retireCount_ten {s : State} {x1 x2} : (retireCount s x1 x2).ten = s.ten := (retireCount_rel (ch := 132096) rfl (Rel.refl s)).f13 rfl
@[simp] theorem retireCount_port {s : State} {x1 x2} : (retireCount s x1 x2).port = s.port := (retireCount_rel (ch := 132096) rfl (Rel.refl s)).f14 rfl
@[simp] theorem retireCount_quire {s : State} {x1 x2} : (retireCount s x1 x2).quire = s.quire := (retireCount_rel (ch := 132096) rfl (Rel.refl s)).f15 rfl
@[simp] theorem retireCount_core {s : State} {x1 x2} : (retireCount s x1 x2).core = s.core := (retireCount_rel (ch := 132096) rfl (Rel.refl s)).f16 rfl
@[simp] theorem retireCount_stk {s : State} {x1 x2} : (retireCount s x1 x2).stk = s.stk := (retireCount_rel (ch := 132096) rfl (Rel.refl s)).f18 rfl
@[simp] theorem retireCount_tap {s : State} {x1 x2} : (retireCount s x1 x2).tap = s.tap := (retireCount_rel (ch := 132096) rfl (Rel.refl s)).f19 rfl
@[simp] theorem retireCount_pairLo {s : State} {x1 x2} : (retireCount s x1 x2).pairLo = s.pairLo := (retireCount_rel (ch := 132096) rfl (Rel.refl s)).f20 rfl
@[simp] theorem retireCount_pairHi {s : State} {x1 x2} : (retireCount s x1 x2).pairHi = s.pairHi := (retireCount_rel (ch := 132096) rfl (Rel.refl s)).f21 rfl
@[simp] theorem retireCount_out {s : State} {x1 x2} : (retireCount s x1 x2).out = s.out := (retireCount_rel (ch := 132096) rfl (Rel.refl s)).f22 rfl
@[simp] theorem retireCount_fresh {s : State} {x1 x2} : (retireCount s x1 x2).fresh = s.fresh := (retireCount_rel (ch := 132096) rfl (Rel.refl s)).f23 rfl
@[simp] theorem retireCount_nextId {s : State} {x1 x2} : (retireCount s x1 x2).nextId = s.nextId := (retireCount_rel (ch := 132096) rfl (Rel.refl s)).f24 rfl
@[simp] theorem retireCount_pending {s : State} {x1 x2} : (retireCount s x1 x2).pending = s.pending := (retireCount_rel (ch := 132096) rfl (Rel.refl s)).pend
@[simp] theorem retireCount_ps {s : State} {x1 x2} : (retireCount s x1 x2).seq.ps = s.seq.ps := ((retireCount_rel (ch := 132096) rfl (Rel.refl s)).ps rfl).1
@[simp] theorem retireCount_psBad {s : State} {x1 x2} : (retireCount s x1 x2).seq.psBad = s.seq.psBad := ((retireCount_rel (ch := 132096) rfl (Rel.refl s)).ps rfl).2
@[simp] theorem retireCount_regs {s : State} {x1 x2} (c : Nat) : regs (getCtx (retireCount s x1 x2) c) = regs (getCtx s c) := (retireCount_rel (ch := 132096) rfl (Rel.refl s)).regs rfl c

@[simp] theorem postRec_glb {s : State} {x1 x2} : (postRec s x1 x2).glb = s.glb := (postRec_rel (ch := 4326402) rfl (Rel.refl s)).f0 rfl
@[simp] theorem postRec_pwr {s : State} {x1 x2} : (postRec s x1 x2).pwr = s.pwr := (postRec_rel (ch := 4326402) rfl (Rel.refl s)).f2 rfl
@[simp] theorem postRec_pace {s : State} {x1 x2} : (postRec s x1 x2).pace = s.pace := (postRec_rel (ch := 4326402) rfl (Rel.refl s)).f3 rfl
@[simp] theorem postRec_slot {s : State} {x1 x2} : (postRec s x1 x2).slot = s.slot := (postRec_rel (ch := 4326402) rfl (Rel.refl s)).f4 rfl
@[simp] theorem postRec_pwrfail {s : State} {x1 x2} : (postRec s x1 x2).pwrfail = s.pwrfail := (postRec_rel (ch := 4326402) rfl (Rel.refl s)).f5 rfl
@[simp] theorem postRec_slotHold {s : State} {x1 x2} : (postRec s x1 x2).slotHold = s.slotHold := (postRec_rel (ch := 4326402) rfl (Rel.refl s)).f6 rfl
@[simp] theorem postRec_pool {s : State} {x1 x2} : (postRec s x1 x2).pool = s.pool := (postRec_rel (ch := 4326402) rfl (Rel.refl s)).f7 rfl
@[simp] theorem postRec_home {s : State} {x1 x2} : (postRec s x1 x2).home = s.home := (postRec_rel (ch := 4326402) rfl (Rel.refl s)).f8 rfl
@[simp] theorem postRec_dkl {s : State} {x1 x2} : (postRec s x1 x2).dkl = s.dkl := (postRec_rel (ch := 4326402) rfl (Rel.refl s)).f9 rfl
@[simp] theorem postRec_mov {s : State} {x1 x2} : (postRec s x1 x2).mov = s.mov := (postRec_rel (ch := 4326402) rfl (Rel.refl s)).f11 rfl
@[simp] theorem postRec_time {s : State} {x1 x2} : (postRec s x1 x2).time = s.time := (postRec_rel (ch := 4326402) rfl (Rel.refl s)).f12 rfl
@[simp] theorem postRec_ten {s : State} {x1 x2} : (postRec s x1 x2).ten = s.ten := (postRec_rel (ch := 4326402) rfl (Rel.refl s)).f13 rfl
@[simp] theorem postRec_port {s : State} {x1 x2} : (postRec s x1 x2).port = s.port := (postRec_rel (ch := 4326402) rfl (Rel.refl s)).f14 rfl
@[simp] theorem postRec_quire {s : State} {x1 x2} : (postRec s x1 x2).quire = s.quire := (postRec_rel (ch := 4326402) rfl (Rel.refl s)).f15 rfl
@[simp] theorem postRec_core {s : State} {x1 x2} : (postRec s x1 x2).core = s.core := (postRec_rel (ch := 4326402) rfl (Rel.refl s)).f16 rfl
@[simp] theorem postRec_stk {s : State} {x1 x2} : (postRec s x1 x2).stk = s.stk := (postRec_rel (ch := 4326402) rfl (Rel.refl s)).f18 rfl
@[simp] theorem postRec_tap {s : State} {x1 x2} : (postRec s x1 x2).tap = s.tap := (postRec_rel (ch := 4326402) rfl (Rel.refl s)).f19 rfl
@[simp] theorem postRec_pairLo {s : State} {x1 x2} : (postRec s x1 x2).pairLo = s.pairLo := (postRec_rel (ch := 4326402) rfl (Rel.refl s)).f20 rfl
@[simp] theorem postRec_pairHi {s : State} {x1 x2} : (postRec s x1 x2).pairHi = s.pairHi := (postRec_rel (ch := 4326402) rfl (Rel.refl s)).f21 rfl
@[simp] theorem postRec_fresh {s : State} {x1 x2} : (postRec s x1 x2).fresh = s.fresh := (postRec_rel (ch := 4326402) rfl (Rel.refl s)).f23 rfl
@[simp] theorem postRec_nextId {s : State} {x1 x2} : (postRec s x1 x2).nextId = s.nextId := (postRec_rel (ch := 4326402) rfl (Rel.refl s)).f24 rfl
@[simp] theorem postRec_pending {s : State} {x1 x2} : (postRec s x1 x2).pending = s.pending := (postRec_rel (ch := 4326402) rfl (Rel.refl s)).pend
@[simp] theorem postRec_ps {s : State} {x1 x2} : (postRec s x1 x2).seq.ps = s.seq.ps := ((postRec_rel (ch := 4326402) rfl (Rel.refl s)).ps rfl).1
@[simp] theorem postRec_psBad {s : State} {x1 x2} : (postRec s x1 x2).seq.psBad = s.seq.psBad := ((postRec_rel (ch := 4326402) rfl (Rel.refl s)).ps rfl).2
@[simp] theorem postRec_regs {s : State} {x1 x2} (c : Nat) : regs (getCtx (postRec s x1 x2) c) = regs (getCtx s c) := (postRec_rel (ch := 4326402) rfl (Rel.refl s)).regs rfl c

@[simp] theorem recIf_glb {s : State} {x1 x2 x3 x4 x5} : (recIf s x1 x2 x3 x4 x5).glb = s.glb := (recIf_rel (ch := 4326402) rfl (Rel.refl s)).f0 rfl
@[simp] theorem recIf_pwr {s : State} {x1 x2 x3 x4 x5} : (recIf s x1 x2 x3 x4 x5).pwr = s.pwr := (recIf_rel (ch := 4326402) rfl (Rel.refl s)).f2 rfl
@[simp] theorem recIf_pace {s : State} {x1 x2 x3 x4 x5} : (recIf s x1 x2 x3 x4 x5).pace = s.pace := (recIf_rel (ch := 4326402) rfl (Rel.refl s)).f3 rfl
@[simp] theorem recIf_slot {s : State} {x1 x2 x3 x4 x5} : (recIf s x1 x2 x3 x4 x5).slot = s.slot := (recIf_rel (ch := 4326402) rfl (Rel.refl s)).f4 rfl
@[simp] theorem recIf_pwrfail {s : State} {x1 x2 x3 x4 x5} : (recIf s x1 x2 x3 x4 x5).pwrfail = s.pwrfail := (recIf_rel (ch := 4326402) rfl (Rel.refl s)).f5 rfl
@[simp] theorem recIf_slotHold {s : State} {x1 x2 x3 x4 x5} : (recIf s x1 x2 x3 x4 x5).slotHold = s.slotHold := (recIf_rel (ch := 4326402) rfl (Rel.refl s)).f6 rfl
@[simp] theorem recIf_pool {s : State} {x1 x2 x3 x4 x5} : (recIf s x1 x2 x3 x4 x5).pool = s.pool := (recIf_rel (ch := 4326402) rfl (Rel.refl s)).f7 rfl
@[simp] theorem recIf_home {s : State} {x1 x2 x3 x4 x5} : (recIf s x1 x2 x3 x4 x5).home = s.home := (recIf_rel (ch := 4326402) rfl (Rel.refl s)).f8 rfl
@[simp] theorem recIf_dkl {s : State} {x1 x2 x3 x4 x5} : (recIf s x1 x2 x3 x4 x5).dkl = s.dkl := (recIf_rel (ch := 4326402) rfl (Rel.refl s)).f9 rfl
@[simp] theorem recIf_mov {s : State} {x1 x2 x3 x4 x5} : (recIf s x1 x2 x3 x4 x5).mov = s.mov := (recIf_rel (ch := 4326402) rfl (Rel.refl s)).f11 rfl
@[simp] theorem recIf_time {s : State} {x1 x2 x3 x4 x5} : (recIf s x1 x2 x3 x4 x5).time = s.time := (recIf_rel (ch := 4326402) rfl (Rel.refl s)).f12 rfl
@[simp] theorem recIf_ten {s : State} {x1 x2 x3 x4 x5} : (recIf s x1 x2 x3 x4 x5).ten = s.ten := (recIf_rel (ch := 4326402) rfl (Rel.refl s)).f13 rfl
@[simp] theorem recIf_port {s : State} {x1 x2 x3 x4 x5} : (recIf s x1 x2 x3 x4 x5).port = s.port := (recIf_rel (ch := 4326402) rfl (Rel.refl s)).f14 rfl
@[simp] theorem recIf_quire {s : State} {x1 x2 x3 x4 x5} : (recIf s x1 x2 x3 x4 x5).quire = s.quire := (recIf_rel (ch := 4326402) rfl (Rel.refl s)).f15 rfl
@[simp] theorem recIf_core {s : State} {x1 x2 x3 x4 x5} : (recIf s x1 x2 x3 x4 x5).core = s.core := (recIf_rel (ch := 4326402) rfl (Rel.refl s)).f16 rfl
@[simp] theorem recIf_stk {s : State} {x1 x2 x3 x4 x5} : (recIf s x1 x2 x3 x4 x5).stk = s.stk := (recIf_rel (ch := 4326402) rfl (Rel.refl s)).f18 rfl
@[simp] theorem recIf_tap {s : State} {x1 x2 x3 x4 x5} : (recIf s x1 x2 x3 x4 x5).tap = s.tap := (recIf_rel (ch := 4326402) rfl (Rel.refl s)).f19 rfl
@[simp] theorem recIf_pairLo {s : State} {x1 x2 x3 x4 x5} : (recIf s x1 x2 x3 x4 x5).pairLo = s.pairLo := (recIf_rel (ch := 4326402) rfl (Rel.refl s)).f20 rfl
@[simp] theorem recIf_pairHi {s : State} {x1 x2 x3 x4 x5} : (recIf s x1 x2 x3 x4 x5).pairHi = s.pairHi := (recIf_rel (ch := 4326402) rfl (Rel.refl s)).f21 rfl
@[simp] theorem recIf_fresh {s : State} {x1 x2 x3 x4 x5} : (recIf s x1 x2 x3 x4 x5).fresh = s.fresh := (recIf_rel (ch := 4326402) rfl (Rel.refl s)).f23 rfl
@[simp] theorem recIf_nextId {s : State} {x1 x2 x3 x4 x5} : (recIf s x1 x2 x3 x4 x5).nextId = s.nextId := (recIf_rel (ch := 4326402) rfl (Rel.refl s)).f24 rfl
@[simp] theorem recIf_pending {s : State} {x1 x2 x3 x4 x5} : (recIf s x1 x2 x3 x4 x5).pending = s.pending := (recIf_rel (ch := 4326402) rfl (Rel.refl s)).pend
@[simp] theorem recIf_ps {s : State} {x1 x2 x3 x4 x5} : (recIf s x1 x2 x3 x4 x5).seq.ps = s.seq.ps := ((recIf_rel (ch := 4326402) rfl (Rel.refl s)).ps rfl).1
@[simp] theorem recIf_psBad {s : State} {x1 x2 x3 x4 x5} : (recIf s x1 x2 x3 x4 x5).seq.psBad = s.seq.psBad := ((recIf_rel (ch := 4326402) rfl (Rel.refl s)).ps rfl).2
@[simp] theorem recIf_regs {s : State} {x1 x2 x3 x4 x5} (c : Nat) : regs (getCtx (recIf s x1 x2 x3 x4 x5) c) = regs (getCtx s c) := (recIf_rel (ch := 4326402) rfl (Rel.refl s)).regs rfl c

@[simp] theorem takeHalt_glb {s : State} {x1} : (takeHalt s x1).glb = s.glb := (takeHalt_rel (ch := 1024) rfl (Rel.refl s)).f0 rfl
@[simp] theorem takeHalt_cmd {s : State} {x1} : (takeHalt s x1).cmd = s.cmd := (takeHalt_rel (ch := 1024) rfl (Rel.refl s)).f1 rfl
@[simp] theorem takeHalt_pwr {s : State} {x1} : (takeHalt s x1).pwr = s.pwr := (takeHalt_rel (ch := 1024) rfl (Rel.refl s)).f2 rfl
@[simp] theorem takeHalt_pace {s : State} {x1} : (takeHalt s x1).pace = s.pace := (takeHalt_rel (ch := 1024) rfl (Rel.refl s)).f3 rfl
@[simp] theorem takeHalt_slot {s : State} {x1} : (takeHalt s x1).slot = s.slot := (takeHalt_rel (ch := 1024) rfl (Rel.refl s)).f4 rfl
@[simp] theorem takeHalt_pwrfail {s : State} {x1} : (takeHalt s x1).pwrfail = s.pwrfail := (takeHalt_rel (ch := 1024) rfl (Rel.refl s)).f5 rfl
@[simp] theorem takeHalt_slotHold {s : State} {x1} : (takeHalt s x1).slotHold = s.slotHold := (takeHalt_rel (ch := 1024) rfl (Rel.refl s)).f6 rfl
@[simp] theorem takeHalt_pool {s : State} {x1} : (takeHalt s x1).pool = s.pool := (takeHalt_rel (ch := 1024) rfl (Rel.refl s)).f7 rfl
@[simp] theorem takeHalt_home {s : State} {x1} : (takeHalt s x1).home = s.home := (takeHalt_rel (ch := 1024) rfl (Rel.refl s)).f8 rfl
@[simp] theorem takeHalt_dkl {s : State} {x1} : (takeHalt s x1).dkl = s.dkl := (takeHalt_rel (ch := 1024) rfl (Rel.refl s)).f9 rfl
@[simp] theorem takeHalt_mov {s : State} {x1} : (takeHalt s x1).mov = s.mov := (takeHalt_rel (ch := 1024) rfl (Rel.refl s)).f11 rfl
@[simp] theorem takeHalt_time {s : State} {x1} : (takeHalt s x1).time = s.time := (takeHalt_rel (ch := 1024) rfl (Rel.refl s)).f12 rfl
@[simp] theorem takeHalt_ten {s : State} {x1} : (takeHalt s x1).ten = s.ten := (takeHalt_rel (ch := 1024) rfl (Rel.refl s)).f13 rfl
@[simp] theorem takeHalt_port {s : State} {x1} : (takeHalt s x1).port = s.port := (takeHalt_rel (ch := 1024) rfl (Rel.refl s)).f14 rfl
@[simp] theorem takeHalt_quire {s : State} {x1} : (takeHalt s x1).quire = s.quire := (takeHalt_rel (ch := 1024) rfl (Rel.refl s)).f15 rfl
@[simp] theorem takeHalt_core {s : State} {x1} : (takeHalt s x1).core = s.core := (takeHalt_rel (ch := 1024) rfl (Rel.refl s)).f16 rfl
@[simp] theorem takeHalt_cnt {s : State} {x1} : (takeHalt s x1).cnt = s.cnt := (takeHalt_rel (ch := 1024) rfl (Rel.refl s)).f17 rfl
@[simp] theorem takeHalt_stk {s : State} {x1} : (takeHalt s x1).stk = s.stk := (takeHalt_rel (ch := 1024) rfl (Rel.refl s)).f18 rfl
@[simp] theorem takeHalt_tap {s : State} {x1} : (takeHalt s x1).tap = s.tap := (takeHalt_rel (ch := 1024) rfl (Rel.refl s)).f19 rfl
@[simp] theorem takeHalt_pairLo {s : State} {x1} : (takeHalt s x1).pairLo = s.pairLo := (takeHalt_rel (ch := 1024) rfl (Rel.refl s)).f20 rfl
@[simp] theorem takeHalt_pairHi {s : State} {x1} : (takeHalt s x1).pairHi = s.pairHi := (takeHalt_rel (ch := 1024) rfl (Rel.refl s)).f21 rfl
@[simp] theorem takeHalt_out {s : State} {x1} : (takeHalt s x1).out = s.out := (takeHalt_rel (ch := 1024) rfl (Rel.refl s)).f22 rfl
@[simp] theorem takeHalt_fresh {s : State} {x1} : (takeHalt s x1).fresh = s.fresh := (takeHalt_rel (ch := 1024) rfl (Rel.refl s)).f23 rfl
@[simp] theorem takeHalt_nextId {s : State} {x1} : (takeHalt s x1).nextId = s.nextId := (takeHalt_rel (ch := 1024) rfl (Rel.refl s)).f24 rfl
@[simp] theorem takeHalt_pending {s : State} {x1} : (takeHalt s x1).pending = s.pending := (takeHalt_rel (ch := 1024) rfl (Rel.refl s)).pend
@[simp] theorem takeHalt_ps {s : State} {x1} : (takeHalt s x1).seq.ps = s.seq.ps := ((takeHalt_rel (ch := 1024) rfl (Rel.refl s)).ps rfl).1
@[simp] theorem takeHalt_psBad {s : State} {x1} : (takeHalt s x1).seq.psBad = s.seq.psBad := ((takeHalt_rel (ch := 1024) rfl (Rel.refl s)).ps rfl).2
@[simp] theorem takeHalt_regs {s : State} {x1} (c : Nat) : regs (getCtx (takeHalt s x1) c) = regs (getCtx s c) := (takeHalt_rel (ch := 1024) rfl (Rel.refl s)).regs rfl c

@[simp] theorem moveOn_glb {s : State} {x1} : (moveOn s x1).glb = s.glb := (moveOn_rel (ch := 12862464) rfl (Rel.refl s)).f0 rfl
@[simp] theorem moveOn_cmd {s : State} {x1} : (moveOn s x1).cmd = s.cmd := (moveOn_rel (ch := 12862464) rfl (Rel.refl s)).f1 rfl
@[simp] theorem moveOn_pwr {s : State} {x1} : (moveOn s x1).pwr = s.pwr := (moveOn_rel (ch := 12862464) rfl (Rel.refl s)).f2 rfl
@[simp] theorem moveOn_pace {s : State} {x1} : (moveOn s x1).pace = s.pace := (moveOn_rel (ch := 12862464) rfl (Rel.refl s)).f3 rfl
@[simp] theorem moveOn_slot {s : State} {x1} : (moveOn s x1).slot = s.slot := (moveOn_rel (ch := 12862464) rfl (Rel.refl s)).f4 rfl
@[simp] theorem moveOn_pwrfail {s : State} {x1} : (moveOn s x1).pwrfail = s.pwrfail := (moveOn_rel (ch := 12862464) rfl (Rel.refl s)).f5 rfl
@[simp] theorem moveOn_slotHold {s : State} {x1} : (moveOn s x1).slotHold = s.slotHold := (moveOn_rel (ch := 12862464) rfl (Rel.refl s)).f6 rfl
@[simp] theorem moveOn_pool {s : State} {x1} : (moveOn s x1).pool = s.pool := (moveOn_rel (ch := 12862464) rfl (Rel.refl s)).f7 rfl
@[simp] theorem moveOn_home {s : State} {x1} : (moveOn s x1).home = s.home := (moveOn_rel (ch := 12862464) rfl (Rel.refl s)).f8 rfl
@[simp] theorem moveOn_dkl {s : State} {x1} : (moveOn s x1).dkl = s.dkl := (moveOn_rel (ch := 12862464) rfl (Rel.refl s)).f9 rfl
@[simp] theorem moveOn_mov {s : State} {x1} : (moveOn s x1).mov = s.mov := (moveOn_rel (ch := 12862464) rfl (Rel.refl s)).f11 rfl
@[simp] theorem moveOn_time {s : State} {x1} : (moveOn s x1).time = s.time := (moveOn_rel (ch := 12862464) rfl (Rel.refl s)).f12 rfl
@[simp] theorem moveOn_ten {s : State} {x1} : (moveOn s x1).ten = s.ten := (moveOn_rel (ch := 12862464) rfl (Rel.refl s)).f13 rfl
@[simp] theorem moveOn_quire {s : State} {x1} : (moveOn s x1).quire = s.quire := (moveOn_rel (ch := 12862464) rfl (Rel.refl s)).f15 rfl
@[simp] theorem moveOn_core {s : State} {x1} : (moveOn s x1).core = s.core := (moveOn_rel (ch := 12862464) rfl (Rel.refl s)).f16 rfl
@[simp] theorem moveOn_cnt {s : State} {x1} : (moveOn s x1).cnt = s.cnt := (moveOn_rel (ch := 12862464) rfl (Rel.refl s)).f17 rfl
@[simp] theorem moveOn_tap {s : State} {x1} : (moveOn s x1).tap = s.tap := (moveOn_rel (ch := 12862464) rfl (Rel.refl s)).f19 rfl
@[simp] theorem moveOn_pairLo {s : State} {x1} : (moveOn s x1).pairLo = s.pairLo := (moveOn_rel (ch := 12862464) rfl (Rel.refl s)).f20 rfl
@[simp] theorem moveOn_pairHi {s : State} {x1} : (moveOn s x1).pairHi = s.pairHi := (moveOn_rel (ch := 12862464) rfl (Rel.refl s)).f21 rfl
@[simp] theorem moveOn_nextId {s : State} {x1} : (moveOn s x1).nextId = s.nextId := (moveOn_rel (ch := 12862464) rfl (Rel.refl s)).f24 rfl
@[simp] theorem moveOn_pending {s : State} {x1} : (moveOn s x1).pending = s.pending := (moveOn_rel (ch := 12862464) rfl (Rel.refl s)).pend
@[simp] theorem moveOn_ps {s : State} {x1} : (moveOn s x1).seq.ps = s.seq.ps := ((moveOn_rel (ch := 12862464) rfl (Rel.refl s)).ps rfl).1
@[simp] theorem moveOn_psBad {s : State} {x1} : (moveOn s x1).seq.psBad = s.seq.psBad := ((moveOn_rel (ch := 12862464) rfl (Rel.refl s)).ps rfl).2
@[simp] theorem moveOn_regs {s : State} {x1} (c : Nat) : regs (getCtx (moveOn s x1) c) = regs (getCtx s c) := (moveOn_rel (ch := 12862464) rfl (Rel.refl s)).regs rfl c

@[simp] theorem advance_glb {s : State} {x1} : (advance s x1).glb = s.glb := (advance_rel (ch := 12862464) rfl (Rel.refl s)).f0 rfl
@[simp] theorem advance_cmd {s : State} {x1} : (advance s x1).cmd = s.cmd := (advance_rel (ch := 12862464) rfl (Rel.refl s)).f1 rfl
@[simp] theorem advance_pwr {s : State} {x1} : (advance s x1).pwr = s.pwr := (advance_rel (ch := 12862464) rfl (Rel.refl s)).f2 rfl
@[simp] theorem advance_pace {s : State} {x1} : (advance s x1).pace = s.pace := (advance_rel (ch := 12862464) rfl (Rel.refl s)).f3 rfl
@[simp] theorem advance_slot {s : State} {x1} : (advance s x1).slot = s.slot := (advance_rel (ch := 12862464) rfl (Rel.refl s)).f4 rfl
@[simp] theorem advance_pwrfail {s : State} {x1} : (advance s x1).pwrfail = s.pwrfail := (advance_rel (ch := 12862464) rfl (Rel.refl s)).f5 rfl
@[simp] theorem advance_slotHold {s : State} {x1} : (advance s x1).slotHold = s.slotHold := (advance_rel (ch := 12862464) rfl (Rel.refl s)).f6 rfl
@[simp] theorem advance_pool {s : State} {x1} : (advance s x1).pool = s.pool := (advance_rel (ch := 12862464) rfl (Rel.refl s)).f7 rfl
@[simp] theorem advance_home {s : State} {x1} : (advance s x1).home = s.home := (advance_rel (ch := 12862464) rfl (Rel.refl s)).f8 rfl
@[simp] theorem advance_dkl {s : State} {x1} : (advance s x1).dkl = s.dkl := (advance_rel (ch := 12862464) rfl (Rel.refl s)).f9 rfl
@[simp] theorem advance_mov {s : State} {x1} : (advance s x1).mov = s.mov := (advance_rel (ch := 12862464) rfl (Rel.refl s)).f11 rfl
@[simp] theorem advance_time {s : State} {x1} : (advance s x1).time = s.time := (advance_rel (ch := 12862464) rfl (Rel.refl s)).f12 rfl
@[simp] theorem advance_ten {s : State} {x1} : (advance s x1).ten = s.ten := (advance_rel (ch := 12862464) rfl (Rel.refl s)).f13 rfl
@[simp] theorem advance_quire {s : State} {x1} : (advance s x1).quire = s.quire := (advance_rel (ch := 12862464) rfl (Rel.refl s)).f15 rfl
@[simp] theorem advance_core {s : State} {x1} : (advance s x1).core = s.core := (advance_rel (ch := 12862464) rfl (Rel.refl s)).f16 rfl
@[simp] theorem advance_cnt {s : State} {x1} : (advance s x1).cnt = s.cnt := (advance_rel (ch := 12862464) rfl (Rel.refl s)).f17 rfl
@[simp] theorem advance_tap {s : State} {x1} : (advance s x1).tap = s.tap := (advance_rel (ch := 12862464) rfl (Rel.refl s)).f19 rfl
@[simp] theorem advance_pairLo {s : State} {x1} : (advance s x1).pairLo = s.pairLo := (advance_rel (ch := 12862464) rfl (Rel.refl s)).f20 rfl
@[simp] theorem advance_pairHi {s : State} {x1} : (advance s x1).pairHi = s.pairHi := (advance_rel (ch := 12862464) rfl (Rel.refl s)).f21 rfl
@[simp] theorem advance_nextId {s : State} {x1} : (advance s x1).nextId = s.nextId := (advance_rel (ch := 12862464) rfl (Rel.refl s)).f24 rfl
@[simp] theorem advance_pending {s : State} {x1} : (advance s x1).pending = s.pending := (advance_rel (ch := 12862464) rfl (Rel.refl s)).pend
@[simp] theorem advance_ps {s : State} {x1} : (advance s x1).seq.ps = s.seq.ps := ((advance_rel (ch := 12862464) rfl (Rel.refl s)).ps rfl).1
@[simp] theorem advance_psBad {s : State} {x1} : (advance s x1).seq.psBad = s.seq.psBad := ((advance_rel (ch := 12862464) rfl (Rel.refl s)).ps rfl).2
@[simp] theorem advance_regs {s : State} {x1} (c : Nat) : regs (getCtx (advance s x1) c) = regs (getCtx s c) := (advance_rel (ch := 12862464) rfl (Rel.refl s)).regs rfl c

@[simp] theorem retire_glb {s : State} {x1 x2 x3 x4 x5} : (retire s x1 x2 x3 x4 x5).glb = s.glb := (retire_rel (ch := 12993538) rfl (Rel.refl s)).f0 rfl
@[simp] theorem retire_pwr {s : State} {x1 x2 x3 x4 x5} : (retire s x1 x2 x3 x4 x5).pwr = s.pwr := (retire_rel (ch := 12993538) rfl (Rel.refl s)).f2 rfl
@[simp] theorem retire_pace {s : State} {x1 x2 x3 x4 x5} : (retire s x1 x2 x3 x4 x5).pace = s.pace := (retire_rel (ch := 12993538) rfl (Rel.refl s)).f3 rfl
@[simp] theorem retire_slot {s : State} {x1 x2 x3 x4 x5} : (retire s x1 x2 x3 x4 x5).slot = s.slot := (retire_rel (ch := 12993538) rfl (Rel.refl s)).f4 rfl
@[simp] theorem retire_pwrfail {s : State} {x1 x2 x3 x4 x5} : (retire s x1 x2 x3 x4 x5).pwrfail = s.pwrfail := (retire_rel (ch := 12993538) rfl (Rel.refl s)).f5 rfl
@[simp] theorem retire_slotHold {s : State} {x1 x2 x3 x4 x5} : (retire s x1 x2 x3 x4 x5).slotHold = s.slotHold := (retire_rel (ch := 12993538) rfl (Rel.refl s)).f6 rfl
@[simp] theorem retire_pool {s : State} {x1 x2 x3 x4 x5} : (retire s x1 x2 x3 x4 x5).pool = s.pool := (retire_rel (ch := 12993538) rfl (Rel.refl s)).f7 rfl
@[simp] theorem retire_home {s : State} {x1 x2 x3 x4 x5} : (retire s x1 x2 x3 x4 x5).home = s.home := (retire_rel (ch := 12993538) rfl (Rel.refl s)).f8 rfl
@[simp] theorem retire_dkl {s : State} {x1 x2 x3 x4 x5} : (retire s x1 x2 x3 x4 x5).dkl = s.dkl := (retire_rel (ch := 12993538) rfl (Rel.refl s)).f9 rfl
@[simp] theorem retire_mov {s : State} {x1 x2 x3 x4 x5} : (retire s x1 x2 x3 x4 x5).mov = s.mov := (retire_rel (ch := 12993538) rfl (Rel.refl s)).f11 rfl
@[simp] theorem retire_time {s : State} {x1 x2 x3 x4 x5} : (retire s x1 x2 x3 x4 x5).time = s.time := (retire_rel (ch := 12993538) rfl (Rel.refl s)).f12 rfl
@[simp] theorem retire_ten {s : State} {x1 x2 x3 x4 x5} : (retire s x1 x2 x3 x4 x5).ten = s.ten := (retire_rel (ch := 12993538) rfl (Rel.refl s)).f13 rfl
@[simp] theorem retire_quire {s : State} {x1 x2 x3 x4 x5} : (retire s x1 x2 x3 x4 x5).quire = s.quire := (retire_rel (ch := 12993538) rfl (Rel.refl s)).f15 rfl
@[simp] theorem retire_core {s : State} {x1 x2 x3 x4 x5} : (retire s x1 x2 x3 x4 x5).core = s.core := (retire_rel (ch := 12993538) rfl (Rel.refl s)).f16 rfl
@[simp] theorem retire_tap {s : State} {x1 x2 x3 x4 x5} : (retire s x1 x2 x3 x4 x5).tap = s.tap := (retire_rel (ch := 12993538) rfl (Rel.refl s)).f19 rfl
@[simp] theorem retire_pairLo {s : State} {x1 x2 x3 x4 x5} : (retire s x1 x2 x3 x4 x5).pairLo = s.pairLo := (retire_rel (ch := 12993538) rfl (Rel.refl s)).f20 rfl
@[simp] theorem retire_pairHi {s : State} {x1 x2 x3 x4 x5} : (retire s x1 x2 x3 x4 x5).pairHi = s.pairHi := (retire_rel (ch := 12993538) rfl (Rel.refl s)).f21 rfl
@[simp] theorem retire_nextId {s : State} {x1 x2 x3 x4 x5} : (retire s x1 x2 x3 x4 x5).nextId = s.nextId := (retire_rel (ch := 12993538) rfl (Rel.refl s)).f24 rfl
@[simp] theorem retire_pending {s : State} {x1 x2 x3 x4 x5} : (retire s x1 x2 x3 x4 x5).pending = s.pending := (retire_rel (ch := 12993538) rfl (Rel.refl s)).pend
@[simp] theorem retire_ps {s : State} {x1 x2 x3 x4 x5} : (retire s x1 x2 x3 x4 x5).seq.ps = s.seq.ps := ((retire_rel (ch := 12993538) rfl (Rel.refl s)).ps rfl).1
@[simp] theorem retire_psBad {s : State} {x1 x2 x3 x4 x5} : (retire s x1 x2 x3 x4 x5).seq.psBad = s.seq.psBad := ((retire_rel (ch := 12993538) rfl (Rel.refl s)).ps rfl).2
@[simp] theorem retire_regs {s : State} {x1 x2 x3 x4 x5} (c : Nat) : regs (getCtx (retire s x1 x2 x3 x4 x5) c) = regs (getCtx s c) := (retire_rel (ch := 12993538) rfl (Rel.refl s)).regs rfl c

@[simp] theorem retireSt_glb {s : State} {x1 x2 x3 x4} : (retireSt s x1 x2 x3 x4).glb = s.glb := (retireSt_rel (ch := 12993538) rfl (Rel.refl s)).f0 rfl
@[simp] theorem retireSt_pwr {s : State} {x1 x2 x3 x4} : (retireSt s x1 x2 x3 x4).pwr = s.pwr := (retireSt_rel (ch := 12993538) rfl (Rel.refl s)).f2 rfl
@[simp] theorem retireSt_pace {s : State} {x1 x2 x3 x4} : (retireSt s x1 x2 x3 x4).pace = s.pace := (retireSt_rel (ch := 12993538) rfl (Rel.refl s)).f3 rfl
@[simp] theorem retireSt_slot {s : State} {x1 x2 x3 x4} : (retireSt s x1 x2 x3 x4).slot = s.slot := (retireSt_rel (ch := 12993538) rfl (Rel.refl s)).f4 rfl
@[simp] theorem retireSt_pwrfail {s : State} {x1 x2 x3 x4} : (retireSt s x1 x2 x3 x4).pwrfail = s.pwrfail := (retireSt_rel (ch := 12993538) rfl (Rel.refl s)).f5 rfl
@[simp] theorem retireSt_slotHold {s : State} {x1 x2 x3 x4} : (retireSt s x1 x2 x3 x4).slotHold = s.slotHold := (retireSt_rel (ch := 12993538) rfl (Rel.refl s)).f6 rfl
@[simp] theorem retireSt_pool {s : State} {x1 x2 x3 x4} : (retireSt s x1 x2 x3 x4).pool = s.pool := (retireSt_rel (ch := 12993538) rfl (Rel.refl s)).f7 rfl
@[simp] theorem retireSt_home {s : State} {x1 x2 x3 x4} : (retireSt s x1 x2 x3 x4).home = s.home := (retireSt_rel (ch := 12993538) rfl (Rel.refl s)).f8 rfl
@[simp] theorem retireSt_dkl {s : State} {x1 x2 x3 x4} : (retireSt s x1 x2 x3 x4).dkl = s.dkl := (retireSt_rel (ch := 12993538) rfl (Rel.refl s)).f9 rfl
@[simp] theorem retireSt_mov {s : State} {x1 x2 x3 x4} : (retireSt s x1 x2 x3 x4).mov = s.mov := (retireSt_rel (ch := 12993538) rfl (Rel.refl s)).f11 rfl
@[simp] theorem retireSt_time {s : State} {x1 x2 x3 x4} : (retireSt s x1 x2 x3 x4).time = s.time := (retireSt_rel (ch := 12993538) rfl (Rel.refl s)).f12 rfl
@[simp] theorem retireSt_ten {s : State} {x1 x2 x3 x4} : (retireSt s x1 x2 x3 x4).ten = s.ten := (retireSt_rel (ch := 12993538) rfl (Rel.refl s)).f13 rfl
@[simp] theorem retireSt_quire {s : State} {x1 x2 x3 x4} : (retireSt s x1 x2 x3 x4).quire = s.quire := (retireSt_rel (ch := 12993538) rfl (Rel.refl s)).f15 rfl
@[simp] theorem retireSt_core {s : State} {x1 x2 x3 x4} : (retireSt s x1 x2 x3 x4).core = s.core := (retireSt_rel (ch := 12993538) rfl (Rel.refl s)).f16 rfl
@[simp] theorem retireSt_tap {s : State} {x1 x2 x3 x4} : (retireSt s x1 x2 x3 x4).tap = s.tap := (retireSt_rel (ch := 12993538) rfl (Rel.refl s)).f19 rfl
@[simp] theorem retireSt_pairLo {s : State} {x1 x2 x3 x4} : (retireSt s x1 x2 x3 x4).pairLo = s.pairLo := (retireSt_rel (ch := 12993538) rfl (Rel.refl s)).f20 rfl
@[simp] theorem retireSt_pairHi {s : State} {x1 x2 x3 x4} : (retireSt s x1 x2 x3 x4).pairHi = s.pairHi := (retireSt_rel (ch := 12993538) rfl (Rel.refl s)).f21 rfl
@[simp] theorem retireSt_nextId {s : State} {x1 x2 x3 x4} : (retireSt s x1 x2 x3 x4).nextId = s.nextId := (retireSt_rel (ch := 12993538) rfl (Rel.refl s)).f24 rfl
@[simp] theorem retireSt_pending {s : State} {x1 x2 x3 x4} : (retireSt s x1 x2 x3 x4).pending = s.pending := (retireSt_rel (ch := 12993538) rfl (Rel.refl s)).pend
@[simp] theorem retireSt_ps {s : State} {x1 x2 x3 x4} : (retireSt s x1 x2 x3 x4).seq.ps = s.seq.ps := ((retireSt_rel (ch := 12993538) rfl (Rel.refl s)).ps rfl).1
@[simp] theorem retireSt_psBad {s : State} {x1 x2 x3 x4} : (retireSt s x1 x2 x3 x4).seq.psBad = s.seq.psBad := ((retireSt_rel (ch := 12993538) rfl (Rel.refl s)).ps rfl).2
@[simp] theorem retireSt_regs {s : State} {x1 x2 x3 x4} (c : Nat) : regs (getCtx (retireSt s x1 x2 x3 x4) c) = regs (getCtx s c) := (retireSt_rel (ch := 12993538) rfl (Rel.refl s)).regs rfl c

@[simp] theorem faultCtx_glb {s : State} {x1 x2 x3} : (faultCtx s x1 x2 x3).glb = s.glb := (faultCtx_rel (ch := 12993538) rfl (Rel.refl s)).f0 rfl
@[simp] theorem faultCtx_pwr {s : State} {x1 x2 x3} : (faultCtx s x1 x2 x3).pwr = s.pwr := (faultCtx_rel (ch := 12993538) rfl (Rel.refl s)).f2 rfl
@[simp] theorem faultCtx_pace {s : State} {x1 x2 x3} : (faultCtx s x1 x2 x3).pace = s.pace := (faultCtx_rel (ch := 12993538) rfl (Rel.refl s)).f3 rfl
@[simp] theorem faultCtx_slot {s : State} {x1 x2 x3} : (faultCtx s x1 x2 x3).slot = s.slot := (faultCtx_rel (ch := 12993538) rfl (Rel.refl s)).f4 rfl
@[simp] theorem faultCtx_pwrfail {s : State} {x1 x2 x3} : (faultCtx s x1 x2 x3).pwrfail = s.pwrfail := (faultCtx_rel (ch := 12993538) rfl (Rel.refl s)).f5 rfl
@[simp] theorem faultCtx_slotHold {s : State} {x1 x2 x3} : (faultCtx s x1 x2 x3).slotHold = s.slotHold := (faultCtx_rel (ch := 12993538) rfl (Rel.refl s)).f6 rfl
@[simp] theorem faultCtx_pool {s : State} {x1 x2 x3} : (faultCtx s x1 x2 x3).pool = s.pool := (faultCtx_rel (ch := 12993538) rfl (Rel.refl s)).f7 rfl
@[simp] theorem faultCtx_home {s : State} {x1 x2 x3} : (faultCtx s x1 x2 x3).home = s.home := (faultCtx_rel (ch := 12993538) rfl (Rel.refl s)).f8 rfl
@[simp] theorem faultCtx_dkl {s : State} {x1 x2 x3} : (faultCtx s x1 x2 x3).dkl = s.dkl := (faultCtx_rel (ch := 12993538) rfl (Rel.refl s)).f9 rfl
@[simp] theorem faultCtx_mov {s : State} {x1 x2 x3} : (faultCtx s x1 x2 x3).mov = s.mov := (faultCtx_rel (ch := 12993538) rfl (Rel.refl s)).f11 rfl
@[simp] theorem faultCtx_time {s : State} {x1 x2 x3} : (faultCtx s x1 x2 x3).time = s.time := (faultCtx_rel (ch := 12993538) rfl (Rel.refl s)).f12 rfl
@[simp] theorem faultCtx_ten {s : State} {x1 x2 x3} : (faultCtx s x1 x2 x3).ten = s.ten := (faultCtx_rel (ch := 12993538) rfl (Rel.refl s)).f13 rfl
@[simp] theorem faultCtx_quire {s : State} {x1 x2 x3} : (faultCtx s x1 x2 x3).quire = s.quire := (faultCtx_rel (ch := 12993538) rfl (Rel.refl s)).f15 rfl
@[simp] theorem faultCtx_core {s : State} {x1 x2 x3} : (faultCtx s x1 x2 x3).core = s.core := (faultCtx_rel (ch := 12993538) rfl (Rel.refl s)).f16 rfl
@[simp] theorem faultCtx_tap {s : State} {x1 x2 x3} : (faultCtx s x1 x2 x3).tap = s.tap := (faultCtx_rel (ch := 12993538) rfl (Rel.refl s)).f19 rfl
@[simp] theorem faultCtx_pairLo {s : State} {x1 x2 x3} : (faultCtx s x1 x2 x3).pairLo = s.pairLo := (faultCtx_rel (ch := 12993538) rfl (Rel.refl s)).f20 rfl
@[simp] theorem faultCtx_pairHi {s : State} {x1 x2 x3} : (faultCtx s x1 x2 x3).pairHi = s.pairHi := (faultCtx_rel (ch := 12993538) rfl (Rel.refl s)).f21 rfl
@[simp] theorem faultCtx_nextId {s : State} {x1 x2 x3} : (faultCtx s x1 x2 x3).nextId = s.nextId := (faultCtx_rel (ch := 12993538) rfl (Rel.refl s)).f24 rfl
@[simp] theorem faultCtx_pending {s : State} {x1 x2 x3} : (faultCtx s x1 x2 x3).pending = s.pending := (faultCtx_rel (ch := 12993538) rfl (Rel.refl s)).pend
@[simp] theorem faultCtx_ps {s : State} {x1 x2 x3} : (faultCtx s x1 x2 x3).seq.ps = s.seq.ps := ((faultCtx_rel (ch := 12993538) rfl (Rel.refl s)).ps rfl).1
@[simp] theorem faultCtx_psBad {s : State} {x1 x2 x3} : (faultCtx s x1 x2 x3).seq.psBad = s.seq.psBad := ((faultCtx_rel (ch := 12993538) rfl (Rel.refl s)).ps rfl).2
@[simp] theorem faultCtx_regs {s : State} {x1 x2 x3} (c : Nat) : regs (getCtx (faultCtx s x1 x2 x3) c) = regs (getCtx s c) := (faultCtx_rel (ch := 12993538) rfl (Rel.refl s)).regs rfl c

@[simp] theorem waitAgain_glb {s : State} {x1} : (waitAgain s x1).glb = s.glb := (waitAgain_rel (ch := 1024) rfl (Rel.refl s)).f0 rfl
@[simp] theorem waitAgain_cmd {s : State} {x1} : (waitAgain s x1).cmd = s.cmd := (waitAgain_rel (ch := 1024) rfl (Rel.refl s)).f1 rfl
@[simp] theorem waitAgain_pwr {s : State} {x1} : (waitAgain s x1).pwr = s.pwr := (waitAgain_rel (ch := 1024) rfl (Rel.refl s)).f2 rfl
@[simp] theorem waitAgain_pace {s : State} {x1} : (waitAgain s x1).pace = s.pace := (waitAgain_rel (ch := 1024) rfl (Rel.refl s)).f3 rfl
@[simp] theorem waitAgain_slot {s : State} {x1} : (waitAgain s x1).slot = s.slot := (waitAgain_rel (ch := 1024) rfl (Rel.refl s)).f4 rfl
@[simp] theorem waitAgain_pwrfail {s : State} {x1} : (waitAgain s x1).pwrfail = s.pwrfail := (waitAgain_rel (ch := 1024) rfl (Rel.refl s)).f5 rfl
@[simp] theorem waitAgain_slotHold {s : State} {x1} : (waitAgain s x1).slotHold = s.slotHold := (waitAgain_rel (ch := 1024) rfl (Rel.refl s)).f6 rfl
@[simp] theorem waitAgain_pool {s : State} {x1} : (waitAgain s x1).pool = s.pool := (waitAgain_rel (ch := 1024) rfl (Rel.refl s)).f7 rfl
@[simp] theorem waitAgain_home {s : State} {x1} : (waitAgain s x1).home = s.home := (waitAgain_rel (ch := 1024) rfl (Rel.refl s)).f8 rfl
@[simp] theorem waitAgain_dkl {s : State} {x1} : (waitAgain s x1).dkl = s.dkl := (waitAgain_rel (ch := 1024) rfl (Rel.refl s)).f9 rfl
@[simp] theorem waitAgain_mov {s : State} {x1} : (waitAgain s x1).mov = s.mov := (waitAgain_rel (ch := 1024) rfl (Rel.refl s)).f11 rfl
@[simp] theorem waitAgain_time {s : State} {x1} : (waitAgain s x1).time = s.time := (waitAgain_rel (ch := 1024) rfl (Rel.refl s)).f12 rfl
@[simp] theorem waitAgain_ten {s : State} {x1} : (waitAgain s x1).ten = s.ten := (waitAgain_rel (ch := 1024) rfl (Rel.refl s)).f13 rfl
@[simp] theorem waitAgain_port {s : State} {x1} : (waitAgain s x1).port = s.port := (waitAgain_rel (ch := 1024) rfl (Rel.refl s)).f14 rfl
@[simp] theorem waitAgain_quire {s : State} {x1} : (waitAgain s x1).quire = s.quire := (waitAgain_rel (ch := 1024) rfl (Rel.refl s)).f15 rfl
@[simp] theorem waitAgain_core {s : State} {x1} : (waitAgain s x1).core = s.core := (waitAgain_rel (ch := 1024) rfl (Rel.refl s)).f16 rfl
@[simp] theorem waitAgain_cnt {s : State} {x1} : (waitAgain s x1).cnt = s.cnt := (waitAgain_rel (ch := 1024) rfl (Rel.refl s)).f17 rfl
@[simp] theorem waitAgain_stk {s : State} {x1} : (waitAgain s x1).stk = s.stk := (waitAgain_rel (ch := 1024) rfl (Rel.refl s)).f18 rfl
@[simp] theorem waitAgain_tap {s : State} {x1} : (waitAgain s x1).tap = s.tap := (waitAgain_rel (ch := 1024) rfl (Rel.refl s)).f19 rfl
@[simp] theorem waitAgain_pairLo {s : State} {x1} : (waitAgain s x1).pairLo = s.pairLo := (waitAgain_rel (ch := 1024) rfl (Rel.refl s)).f20 rfl
@[simp] theorem waitAgain_pairHi {s : State} {x1} : (waitAgain s x1).pairHi = s.pairHi := (waitAgain_rel (ch := 1024) rfl (Rel.refl s)).f21 rfl
@[simp] theorem waitAgain_out {s : State} {x1} : (waitAgain s x1).out = s.out := (waitAgain_rel (ch := 1024) rfl (Rel.refl s)).f22 rfl
@[simp] theorem waitAgain_fresh {s : State} {x1} : (waitAgain s x1).fresh = s.fresh := (waitAgain_rel (ch := 1024) rfl (Rel.refl s)).f23 rfl
@[simp] theorem waitAgain_nextId {s : State} {x1} : (waitAgain s x1).nextId = s.nextId := (waitAgain_rel (ch := 1024) rfl (Rel.refl s)).f24 rfl
@[simp] theorem waitAgain_pending {s : State} {x1} : (waitAgain s x1).pending = s.pending := (waitAgain_rel (ch := 1024) rfl (Rel.refl s)).pend
@[simp] theorem waitAgain_ps {s : State} {x1} : (waitAgain s x1).seq.ps = s.seq.ps := ((waitAgain_rel (ch := 1024) rfl (Rel.refl s)).ps rfl).1
@[simp] theorem waitAgain_psBad {s : State} {x1} : (waitAgain s x1).seq.psBad = s.seq.psBad := ((waitAgain_rel (ch := 1024) rfl (Rel.refl s)).ps rfl).2
@[simp] theorem waitAgain_regs {s : State} {x1} (c : Nat) : regs (getCtx (waitAgain s x1) c) = regs (getCtx s c) := (waitAgain_rel (ch := 1024) rfl (Rel.refl s)).regs rfl c

@[simp] theorem waitWith_glb {s : State} {x1 x2 x3 x4} : (waitWith s x1 x2 x3 x4).glb = s.glb := (waitWith_rel (ch := 1024) rfl (Rel.refl s)).f0 rfl
@[simp] theorem waitWith_cmd {s : State} {x1 x2 x3 x4} : (waitWith s x1 x2 x3 x4).cmd = s.cmd := (waitWith_rel (ch := 1024) rfl (Rel.refl s)).f1 rfl
@[simp] theorem waitWith_pwr {s : State} {x1 x2 x3 x4} : (waitWith s x1 x2 x3 x4).pwr = s.pwr := (waitWith_rel (ch := 1024) rfl (Rel.refl s)).f2 rfl
@[simp] theorem waitWith_pace {s : State} {x1 x2 x3 x4} : (waitWith s x1 x2 x3 x4).pace = s.pace := (waitWith_rel (ch := 1024) rfl (Rel.refl s)).f3 rfl
@[simp] theorem waitWith_slot {s : State} {x1 x2 x3 x4} : (waitWith s x1 x2 x3 x4).slot = s.slot := (waitWith_rel (ch := 1024) rfl (Rel.refl s)).f4 rfl
@[simp] theorem waitWith_pwrfail {s : State} {x1 x2 x3 x4} : (waitWith s x1 x2 x3 x4).pwrfail = s.pwrfail := (waitWith_rel (ch := 1024) rfl (Rel.refl s)).f5 rfl
@[simp] theorem waitWith_slotHold {s : State} {x1 x2 x3 x4} : (waitWith s x1 x2 x3 x4).slotHold = s.slotHold := (waitWith_rel (ch := 1024) rfl (Rel.refl s)).f6 rfl
@[simp] theorem waitWith_pool {s : State} {x1 x2 x3 x4} : (waitWith s x1 x2 x3 x4).pool = s.pool := (waitWith_rel (ch := 1024) rfl (Rel.refl s)).f7 rfl
@[simp] theorem waitWith_home {s : State} {x1 x2 x3 x4} : (waitWith s x1 x2 x3 x4).home = s.home := (waitWith_rel (ch := 1024) rfl (Rel.refl s)).f8 rfl
@[simp] theorem waitWith_dkl {s : State} {x1 x2 x3 x4} : (waitWith s x1 x2 x3 x4).dkl = s.dkl := (waitWith_rel (ch := 1024) rfl (Rel.refl s)).f9 rfl
@[simp] theorem waitWith_mov {s : State} {x1 x2 x3 x4} : (waitWith s x1 x2 x3 x4).mov = s.mov := (waitWith_rel (ch := 1024) rfl (Rel.refl s)).f11 rfl
@[simp] theorem waitWith_time {s : State} {x1 x2 x3 x4} : (waitWith s x1 x2 x3 x4).time = s.time := (waitWith_rel (ch := 1024) rfl (Rel.refl s)).f12 rfl
@[simp] theorem waitWith_ten {s : State} {x1 x2 x3 x4} : (waitWith s x1 x2 x3 x4).ten = s.ten := (waitWith_rel (ch := 1024) rfl (Rel.refl s)).f13 rfl
@[simp] theorem waitWith_port {s : State} {x1 x2 x3 x4} : (waitWith s x1 x2 x3 x4).port = s.port := (waitWith_rel (ch := 1024) rfl (Rel.refl s)).f14 rfl
@[simp] theorem waitWith_quire {s : State} {x1 x2 x3 x4} : (waitWith s x1 x2 x3 x4).quire = s.quire := (waitWith_rel (ch := 1024) rfl (Rel.refl s)).f15 rfl
@[simp] theorem waitWith_core {s : State} {x1 x2 x3 x4} : (waitWith s x1 x2 x3 x4).core = s.core := (waitWith_rel (ch := 1024) rfl (Rel.refl s)).f16 rfl
@[simp] theorem waitWith_cnt {s : State} {x1 x2 x3 x4} : (waitWith s x1 x2 x3 x4).cnt = s.cnt := (waitWith_rel (ch := 1024) rfl (Rel.refl s)).f17 rfl
@[simp] theorem waitWith_stk {s : State} {x1 x2 x3 x4} : (waitWith s x1 x2 x3 x4).stk = s.stk := (waitWith_rel (ch := 1024) rfl (Rel.refl s)).f18 rfl
@[simp] theorem waitWith_tap {s : State} {x1 x2 x3 x4} : (waitWith s x1 x2 x3 x4).tap = s.tap := (waitWith_rel (ch := 1024) rfl (Rel.refl s)).f19 rfl
@[simp] theorem waitWith_pairLo {s : State} {x1 x2 x3 x4} : (waitWith s x1 x2 x3 x4).pairLo = s.pairLo := (waitWith_rel (ch := 1024) rfl (Rel.refl s)).f20 rfl
@[simp] theorem waitWith_pairHi {s : State} {x1 x2 x3 x4} : (waitWith s x1 x2 x3 x4).pairHi = s.pairHi := (waitWith_rel (ch := 1024) rfl (Rel.refl s)).f21 rfl
@[simp] theorem waitWith_out {s : State} {x1 x2 x3 x4} : (waitWith s x1 x2 x3 x4).out = s.out := (waitWith_rel (ch := 1024) rfl (Rel.refl s)).f22 rfl
@[simp] theorem waitWith_fresh {s : State} {x1 x2 x3 x4} : (waitWith s x1 x2 x3 x4).fresh = s.fresh := (waitWith_rel (ch := 1024) rfl (Rel.refl s)).f23 rfl
@[simp] theorem waitWith_nextId {s : State} {x1 x2 x3 x4} : (waitWith s x1 x2 x3 x4).nextId = s.nextId := (waitWith_rel (ch := 1024) rfl (Rel.refl s)).f24 rfl
@[simp] theorem waitWith_pending {s : State} {x1 x2 x3 x4} : (waitWith s x1 x2 x3 x4).pending = s.pending := (waitWith_rel (ch := 1024) rfl (Rel.refl s)).pend
@[simp] theorem waitWith_ps {s : State} {x1 x2 x3 x4} : (waitWith s x1 x2 x3 x4).seq.ps = s.seq.ps := ((waitWith_rel (ch := 1024) rfl (Rel.refl s)).ps rfl).1
@[simp] theorem waitWith_psBad {s : State} {x1 x2 x3 x4} : (waitWith s x1 x2 x3 x4).seq.psBad = s.seq.psBad := ((waitWith_rel (ch := 1024) rfl (Rel.refl s)).ps rfl).2
@[simp] theorem waitWith_regs {s : State} {x1 x2 x3 x4} (c : Nat) : regs (getCtx (waitWith s x1 x2 x3 x4) c) = regs (getCtx s c) := (waitWith_rel (ch := 1024) rfl (Rel.refl s)).regs rfl c

@[simp] theorem endTurn_glb {s : State} {x1} : (endTurn s x1).glb = s.glb := (endTurn_rel (ch := 1024) rfl (Rel.refl s)).f0 rfl
@[simp] theorem endTurn_cmd {s : State} {x1} : (endTurn s x1).cmd = s.cmd := (endTurn_rel (ch := 1024) rfl (Rel.refl s)).f1 rfl
@[simp] theorem endTurn_pwr {s : State} {x1} : (endTurn s x1).pwr = s.pwr := (endTurn_rel (ch := 1024) rfl (Rel.refl s)).f2 rfl
@[simp] theorem endTurn_pace {s : State} {x1} : (endTurn s x1).pace = s.pace := (endTurn_rel (ch := 1024) rfl (Rel.refl s)).f3 rfl
@[simp] theorem endTurn_slot {s : State} {x1} : (endTurn s x1).slot = s.slot := (endTurn_rel (ch := 1024) rfl (Rel.refl s)).f4 rfl
@[simp] theorem endTurn_pwrfail {s : State} {x1} : (endTurn s x1).pwrfail = s.pwrfail := (endTurn_rel (ch := 1024) rfl (Rel.refl s)).f5 rfl
@[simp] theorem endTurn_slotHold {s : State} {x1} : (endTurn s x1).slotHold = s.slotHold := (endTurn_rel (ch := 1024) rfl (Rel.refl s)).f6 rfl
@[simp] theorem endTurn_pool {s : State} {x1} : (endTurn s x1).pool = s.pool := (endTurn_rel (ch := 1024) rfl (Rel.refl s)).f7 rfl
@[simp] theorem endTurn_home {s : State} {x1} : (endTurn s x1).home = s.home := (endTurn_rel (ch := 1024) rfl (Rel.refl s)).f8 rfl
@[simp] theorem endTurn_dkl {s : State} {x1} : (endTurn s x1).dkl = s.dkl := (endTurn_rel (ch := 1024) rfl (Rel.refl s)).f9 rfl
@[simp] theorem endTurn_mov {s : State} {x1} : (endTurn s x1).mov = s.mov := (endTurn_rel (ch := 1024) rfl (Rel.refl s)).f11 rfl
@[simp] theorem endTurn_time {s : State} {x1} : (endTurn s x1).time = s.time := (endTurn_rel (ch := 1024) rfl (Rel.refl s)).f12 rfl
@[simp] theorem endTurn_ten {s : State} {x1} : (endTurn s x1).ten = s.ten := (endTurn_rel (ch := 1024) rfl (Rel.refl s)).f13 rfl
@[simp] theorem endTurn_port {s : State} {x1} : (endTurn s x1).port = s.port := (endTurn_rel (ch := 1024) rfl (Rel.refl s)).f14 rfl
@[simp] theorem endTurn_quire {s : State} {x1} : (endTurn s x1).quire = s.quire := (endTurn_rel (ch := 1024) rfl (Rel.refl s)).f15 rfl
@[simp] theorem endTurn_core {s : State} {x1} : (endTurn s x1).core = s.core := (endTurn_rel (ch := 1024) rfl (Rel.refl s)).f16 rfl
@[simp] theorem endTurn_cnt {s : State} {x1} : (endTurn s x1).cnt = s.cnt := (endTurn_rel (ch := 1024) rfl (Rel.refl s)).f17 rfl
@[simp] theorem endTurn_stk {s : State} {x1} : (endTurn s x1).stk = s.stk := (endTurn_rel (ch := 1024) rfl (Rel.refl s)).f18 rfl
@[simp] theorem endTurn_tap {s : State} {x1} : (endTurn s x1).tap = s.tap := (endTurn_rel (ch := 1024) rfl (Rel.refl s)).f19 rfl
@[simp] theorem endTurn_pairLo {s : State} {x1} : (endTurn s x1).pairLo = s.pairLo := (endTurn_rel (ch := 1024) rfl (Rel.refl s)).f20 rfl
@[simp] theorem endTurn_pairHi {s : State} {x1} : (endTurn s x1).pairHi = s.pairHi := (endTurn_rel (ch := 1024) rfl (Rel.refl s)).f21 rfl
@[simp] theorem endTurn_out {s : State} {x1} : (endTurn s x1).out = s.out := (endTurn_rel (ch := 1024) rfl (Rel.refl s)).f22 rfl
@[simp] theorem endTurn_fresh {s : State} {x1} : (endTurn s x1).fresh = s.fresh := (endTurn_rel (ch := 1024) rfl (Rel.refl s)).f23 rfl
@[simp] theorem endTurn_nextId {s : State} {x1} : (endTurn s x1).nextId = s.nextId := (endTurn_rel (ch := 1024) rfl (Rel.refl s)).f24 rfl
@[simp] theorem endTurn_pending {s : State} {x1} : (endTurn s x1).pending = s.pending := (endTurn_rel (ch := 1024) rfl (Rel.refl s)).pend
@[simp] theorem endTurn_ps {s : State} {x1} : (endTurn s x1).seq.ps = s.seq.ps := ((endTurn_rel (ch := 1024) rfl (Rel.refl s)).ps rfl).1
@[simp] theorem endTurn_psBad {s : State} {x1} : (endTurn s x1).seq.psBad = s.seq.psBad := ((endTurn_rel (ch := 1024) rfl (Rel.refl s)).ps rfl).2
@[simp] theorem endTurn_regs {s : State} {x1} (c : Nat) : regs (getCtx (endTurn s x1) c) = regs (getCtx s c) := (endTurn_rel (ch := 1024) rfl (Rel.refl s)).regs rfl c

@[simp] theorem takeSlot_glb {s : State} {x1} : (takeSlot s x1).glb = s.glb := (takeSlot_rel (ch := 1024) rfl (Rel.refl s)).f0 rfl
@[simp] theorem takeSlot_cmd {s : State} {x1} : (takeSlot s x1).cmd = s.cmd := (takeSlot_rel (ch := 1024) rfl (Rel.refl s)).f1 rfl
@[simp] theorem takeSlot_pwr {s : State} {x1} : (takeSlot s x1).pwr = s.pwr := (takeSlot_rel (ch := 1024) rfl (Rel.refl s)).f2 rfl
@[simp] theorem takeSlot_pace {s : State} {x1} : (takeSlot s x1).pace = s.pace := (takeSlot_rel (ch := 1024) rfl (Rel.refl s)).f3 rfl
@[simp] theorem takeSlot_slot {s : State} {x1} : (takeSlot s x1).slot = s.slot := (takeSlot_rel (ch := 1024) rfl (Rel.refl s)).f4 rfl
@[simp] theorem takeSlot_pwrfail {s : State} {x1} : (takeSlot s x1).pwrfail = s.pwrfail := (takeSlot_rel (ch := 1024) rfl (Rel.refl s)).f5 rfl
@[simp] theorem takeSlot_slotHold {s : State} {x1} : (takeSlot s x1).slotHold = s.slotHold := (takeSlot_rel (ch := 1024) rfl (Rel.refl s)).f6 rfl
@[simp] theorem takeSlot_pool {s : State} {x1} : (takeSlot s x1).pool = s.pool := (takeSlot_rel (ch := 1024) rfl (Rel.refl s)).f7 rfl
@[simp] theorem takeSlot_home {s : State} {x1} : (takeSlot s x1).home = s.home := (takeSlot_rel (ch := 1024) rfl (Rel.refl s)).f8 rfl
@[simp] theorem takeSlot_dkl {s : State} {x1} : (takeSlot s x1).dkl = s.dkl := (takeSlot_rel (ch := 1024) rfl (Rel.refl s)).f9 rfl
@[simp] theorem takeSlot_mov {s : State} {x1} : (takeSlot s x1).mov = s.mov := (takeSlot_rel (ch := 1024) rfl (Rel.refl s)).f11 rfl
@[simp] theorem takeSlot_time {s : State} {x1} : (takeSlot s x1).time = s.time := (takeSlot_rel (ch := 1024) rfl (Rel.refl s)).f12 rfl
@[simp] theorem takeSlot_ten {s : State} {x1} : (takeSlot s x1).ten = s.ten := (takeSlot_rel (ch := 1024) rfl (Rel.refl s)).f13 rfl
@[simp] theorem takeSlot_port {s : State} {x1} : (takeSlot s x1).port = s.port := (takeSlot_rel (ch := 1024) rfl (Rel.refl s)).f14 rfl
@[simp] theorem takeSlot_quire {s : State} {x1} : (takeSlot s x1).quire = s.quire := (takeSlot_rel (ch := 1024) rfl (Rel.refl s)).f15 rfl
@[simp] theorem takeSlot_core {s : State} {x1} : (takeSlot s x1).core = s.core := (takeSlot_rel (ch := 1024) rfl (Rel.refl s)).f16 rfl
@[simp] theorem takeSlot_cnt {s : State} {x1} : (takeSlot s x1).cnt = s.cnt := (takeSlot_rel (ch := 1024) rfl (Rel.refl s)).f17 rfl
@[simp] theorem takeSlot_stk {s : State} {x1} : (takeSlot s x1).stk = s.stk := (takeSlot_rel (ch := 1024) rfl (Rel.refl s)).f18 rfl
@[simp] theorem takeSlot_tap {s : State} {x1} : (takeSlot s x1).tap = s.tap := (takeSlot_rel (ch := 1024) rfl (Rel.refl s)).f19 rfl
@[simp] theorem takeSlot_pairLo {s : State} {x1} : (takeSlot s x1).pairLo = s.pairLo := (takeSlot_rel (ch := 1024) rfl (Rel.refl s)).f20 rfl
@[simp] theorem takeSlot_pairHi {s : State} {x1} : (takeSlot s x1).pairHi = s.pairHi := (takeSlot_rel (ch := 1024) rfl (Rel.refl s)).f21 rfl
@[simp] theorem takeSlot_out {s : State} {x1} : (takeSlot s x1).out = s.out := (takeSlot_rel (ch := 1024) rfl (Rel.refl s)).f22 rfl
@[simp] theorem takeSlot_fresh {s : State} {x1} : (takeSlot s x1).fresh = s.fresh := (takeSlot_rel (ch := 1024) rfl (Rel.refl s)).f23 rfl
@[simp] theorem takeSlot_nextId {s : State} {x1} : (takeSlot s x1).nextId = s.nextId := (takeSlot_rel (ch := 1024) rfl (Rel.refl s)).f24 rfl
@[simp] theorem takeSlot_pending {s : State} {x1} : (takeSlot s x1).pending = s.pending := (takeSlot_rel (ch := 1024) rfl (Rel.refl s)).pend
@[simp] theorem takeSlot_ps {s : State} {x1} : (takeSlot s x1).seq.ps = s.seq.ps := ((takeSlot_rel (ch := 1024) rfl (Rel.refl s)).ps rfl).1
@[simp] theorem takeSlot_psBad {s : State} {x1} : (takeSlot s x1).seq.psBad = s.seq.psBad := ((takeSlot_rel (ch := 1024) rfl (Rel.refl s)).ps rfl).2
@[simp] theorem takeSlot_regs {s : State} {x1} (c : Nat) : regs (getCtx (takeSlot s x1) c) = regs (getCtx s c) := (takeSlot_rel (ch := 1024) rfl (Rel.refl s)).regs rfl c

@[simp] theorem asDebug_glb {s : State} {x1} : (asDebug s x1).glb = s.glb := (asDebug_rel (ch := 1024) rfl (Rel.refl s)).f0 rfl
@[simp] theorem asDebug_cmd {s : State} {x1} : (asDebug s x1).cmd = s.cmd := (asDebug_rel (ch := 1024) rfl (Rel.refl s)).f1 rfl
@[simp] theorem asDebug_pwr {s : State} {x1} : (asDebug s x1).pwr = s.pwr := (asDebug_rel (ch := 1024) rfl (Rel.refl s)).f2 rfl
@[simp] theorem asDebug_pace {s : State} {x1} : (asDebug s x1).pace = s.pace := (asDebug_rel (ch := 1024) rfl (Rel.refl s)).f3 rfl
@[simp] theorem asDebug_slot {s : State} {x1} : (asDebug s x1).slot = s.slot := (asDebug_rel (ch := 1024) rfl (Rel.refl s)).f4 rfl
@[simp] theorem asDebug_pwrfail {s : State} {x1} : (asDebug s x1).pwrfail = s.pwrfail := (asDebug_rel (ch := 1024) rfl (Rel.refl s)).f5 rfl
@[simp] theorem asDebug_slotHold {s : State} {x1} : (asDebug s x1).slotHold = s.slotHold := (asDebug_rel (ch := 1024) rfl (Rel.refl s)).f6 rfl
@[simp] theorem asDebug_pool {s : State} {x1} : (asDebug s x1).pool = s.pool := (asDebug_rel (ch := 1024) rfl (Rel.refl s)).f7 rfl
@[simp] theorem asDebug_home {s : State} {x1} : (asDebug s x1).home = s.home := (asDebug_rel (ch := 1024) rfl (Rel.refl s)).f8 rfl
@[simp] theorem asDebug_dkl {s : State} {x1} : (asDebug s x1).dkl = s.dkl := (asDebug_rel (ch := 1024) rfl (Rel.refl s)).f9 rfl
@[simp] theorem asDebug_mov {s : State} {x1} : (asDebug s x1).mov = s.mov := (asDebug_rel (ch := 1024) rfl (Rel.refl s)).f11 rfl
@[simp] theorem asDebug_time {s : State} {x1} : (asDebug s x1).time = s.time := (asDebug_rel (ch := 1024) rfl (Rel.refl s)).f12 rfl
@[simp] theorem asDebug_ten {s : State} {x1} : (asDebug s x1).ten = s.ten := (asDebug_rel (ch := 1024) rfl (Rel.refl s)).f13 rfl
@[simp] theorem asDebug_port {s : State} {x1} : (asDebug s x1).port = s.port := (asDebug_rel (ch := 1024) rfl (Rel.refl s)).f14 rfl
@[simp] theorem asDebug_quire {s : State} {x1} : (asDebug s x1).quire = s.quire := (asDebug_rel (ch := 1024) rfl (Rel.refl s)).f15 rfl
@[simp] theorem asDebug_core {s : State} {x1} : (asDebug s x1).core = s.core := (asDebug_rel (ch := 1024) rfl (Rel.refl s)).f16 rfl
@[simp] theorem asDebug_cnt {s : State} {x1} : (asDebug s x1).cnt = s.cnt := (asDebug_rel (ch := 1024) rfl (Rel.refl s)).f17 rfl
@[simp] theorem asDebug_stk {s : State} {x1} : (asDebug s x1).stk = s.stk := (asDebug_rel (ch := 1024) rfl (Rel.refl s)).f18 rfl
@[simp] theorem asDebug_tap {s : State} {x1} : (asDebug s x1).tap = s.tap := (asDebug_rel (ch := 1024) rfl (Rel.refl s)).f19 rfl
@[simp] theorem asDebug_pairLo {s : State} {x1} : (asDebug s x1).pairLo = s.pairLo := (asDebug_rel (ch := 1024) rfl (Rel.refl s)).f20 rfl
@[simp] theorem asDebug_pairHi {s : State} {x1} : (asDebug s x1).pairHi = s.pairHi := (asDebug_rel (ch := 1024) rfl (Rel.refl s)).f21 rfl
@[simp] theorem asDebug_out {s : State} {x1} : (asDebug s x1).out = s.out := (asDebug_rel (ch := 1024) rfl (Rel.refl s)).f22 rfl
@[simp] theorem asDebug_fresh {s : State} {x1} : (asDebug s x1).fresh = s.fresh := (asDebug_rel (ch := 1024) rfl (Rel.refl s)).f23 rfl
@[simp] theorem asDebug_nextId {s : State} {x1} : (asDebug s x1).nextId = s.nextId := (asDebug_rel (ch := 1024) rfl (Rel.refl s)).f24 rfl
@[simp] theorem asDebug_pending {s : State} {x1} : (asDebug s x1).pending = s.pending := (asDebug_rel (ch := 1024) rfl (Rel.refl s)).pend
@[simp] theorem asDebug_ps {s : State} {x1} : (asDebug s x1).seq.ps = s.seq.ps := ((asDebug_rel (ch := 1024) rfl (Rel.refl s)).ps rfl).1
@[simp] theorem asDebug_psBad {s : State} {x1} : (asDebug s x1).seq.psBad = s.seq.psBad := ((asDebug_rel (ch := 1024) rfl (Rel.refl s)).ps rfl).2
@[simp] theorem asDebug_regs {s : State} {x1} (c : Nat) : regs (getCtx (asDebug s x1) c) = regs (getCtx s c) := (asDebug_rel (ch := 1024) rfl (Rel.refl s)).regs rfl c

@[simp] theorem mgmtSend_glb {s : State} {x1 x2 x3} : (mgmtSend s x1 x2 x3).glb = s.glb := (mgmtSend_rel (ch := 12861440) rfl (Rel.refl s)).f0 rfl
@[simp] theorem mgmtSend_cmd {s : State} {x1 x2 x3} : (mgmtSend s x1 x2 x3).cmd = s.cmd := (mgmtSend_rel (ch := 12861440) rfl (Rel.refl s)).f1 rfl
@[simp] theorem mgmtSend_pwr {s : State} {x1 x2 x3} : (mgmtSend s x1 x2 x3).pwr = s.pwr := (mgmtSend_rel (ch := 12861440) rfl (Rel.refl s)).f2 rfl
@[simp] theorem mgmtSend_pace {s : State} {x1 x2 x3} : (mgmtSend s x1 x2 x3).pace = s.pace := (mgmtSend_rel (ch := 12861440) rfl (Rel.refl s)).f3 rfl
@[simp] theorem mgmtSend_slot {s : State} {x1 x2 x3} : (mgmtSend s x1 x2 x3).slot = s.slot := (mgmtSend_rel (ch := 12861440) rfl (Rel.refl s)).f4 rfl
@[simp] theorem mgmtSend_pwrfail {s : State} {x1 x2 x3} : (mgmtSend s x1 x2 x3).pwrfail = s.pwrfail := (mgmtSend_rel (ch := 12861440) rfl (Rel.refl s)).f5 rfl
@[simp] theorem mgmtSend_slotHold {s : State} {x1 x2 x3} : (mgmtSend s x1 x2 x3).slotHold = s.slotHold := (mgmtSend_rel (ch := 12861440) rfl (Rel.refl s)).f6 rfl
@[simp] theorem mgmtSend_pool {s : State} {x1 x2 x3} : (mgmtSend s x1 x2 x3).pool = s.pool := (mgmtSend_rel (ch := 12861440) rfl (Rel.refl s)).f7 rfl
@[simp] theorem mgmtSend_home {s : State} {x1 x2 x3} : (mgmtSend s x1 x2 x3).home = s.home := (mgmtSend_rel (ch := 12861440) rfl (Rel.refl s)).f8 rfl
@[simp] theorem mgmtSend_dkl {s : State} {x1 x2 x3} : (mgmtSend s x1 x2 x3).dkl = s.dkl := (mgmtSend_rel (ch := 12861440) rfl (Rel.refl s)).f9 rfl
@[simp] theorem mgmtSend_seq {s : State} {x1 x2 x3} : (mgmtSend s x1 x2 x3).seq = s.seq := (mgmtSend_rel (ch := 12861440) rfl (Rel.refl s)).f10 rfl
@[simp] theorem mgmtSend_mov {s : State} {x1 x2 x3} : (mgmtSend s x1 x2 x3).mov = s.mov := (mgmtSend_rel (ch := 12861440) rfl (Rel.refl s)).f11 rfl
@[simp] theorem mgmtSend_time {s : State} {x1 x2 x3} : (mgmtSend s x1 x2 x3).time = s.time := (mgmtSend_rel (ch := 12861440) rfl (Rel.refl s)).f12 rfl
@[simp] theorem mgmtSend_ten {s : State} {x1 x2 x3} : (mgmtSend s x1 x2 x3).ten = s.ten := (mgmtSend_rel (ch := 12861440) rfl (Rel.refl s)).f13 rfl
@[simp] theorem mgmtSend_quire {s : State} {x1 x2 x3} : (mgmtSend s x1 x2 x3).quire = s.quire := (mgmtSend_rel (ch := 12861440) rfl (Rel.refl s)).f15 rfl
@[simp] theorem mgmtSend_core {s : State} {x1 x2 x3} : (mgmtSend s x1 x2 x3).core = s.core := (mgmtSend_rel (ch := 12861440) rfl (Rel.refl s)).f16 rfl
@[simp] theorem mgmtSend_cnt {s : State} {x1 x2 x3} : (mgmtSend s x1 x2 x3).cnt = s.cnt := (mgmtSend_rel (ch := 12861440) rfl (Rel.refl s)).f17 rfl
@[simp] theorem mgmtSend_tap {s : State} {x1 x2 x3} : (mgmtSend s x1 x2 x3).tap = s.tap := (mgmtSend_rel (ch := 12861440) rfl (Rel.refl s)).f19 rfl
@[simp] theorem mgmtSend_pairLo {s : State} {x1 x2 x3} : (mgmtSend s x1 x2 x3).pairLo = s.pairLo := (mgmtSend_rel (ch := 12861440) rfl (Rel.refl s)).f20 rfl
@[simp] theorem mgmtSend_pairHi {s : State} {x1 x2 x3} : (mgmtSend s x1 x2 x3).pairHi = s.pairHi := (mgmtSend_rel (ch := 12861440) rfl (Rel.refl s)).f21 rfl
@[simp] theorem mgmtSend_nextId {s : State} {x1 x2 x3} : (mgmtSend s x1 x2 x3).nextId = s.nextId := (mgmtSend_rel (ch := 12861440) rfl (Rel.refl s)).f24 rfl
@[simp] theorem mgmtSend_pending {s : State} {x1 x2 x3} : (mgmtSend s x1 x2 x3).pending = s.pending := (mgmtSend_rel (ch := 12861440) rfl (Rel.refl s)).pend

@[simp] theorem blockResult_glb {s : State} {x1 x2} : (blockResult s x1 x2).glb = s.glb := (blockResult_rel (ch := 12862464) rfl (Rel.refl s)).f0 rfl
@[simp] theorem blockResult_cmd {s : State} {x1 x2} : (blockResult s x1 x2).cmd = s.cmd := (blockResult_rel (ch := 12862464) rfl (Rel.refl s)).f1 rfl
@[simp] theorem blockResult_pwr {s : State} {x1 x2} : (blockResult s x1 x2).pwr = s.pwr := (blockResult_rel (ch := 12862464) rfl (Rel.refl s)).f2 rfl
@[simp] theorem blockResult_pace {s : State} {x1 x2} : (blockResult s x1 x2).pace = s.pace := (blockResult_rel (ch := 12862464) rfl (Rel.refl s)).f3 rfl
@[simp] theorem blockResult_slot {s : State} {x1 x2} : (blockResult s x1 x2).slot = s.slot := (blockResult_rel (ch := 12862464) rfl (Rel.refl s)).f4 rfl
@[simp] theorem blockResult_pwrfail {s : State} {x1 x2} : (blockResult s x1 x2).pwrfail = s.pwrfail := (blockResult_rel (ch := 12862464) rfl (Rel.refl s)).f5 rfl
@[simp] theorem blockResult_slotHold {s : State} {x1 x2} : (blockResult s x1 x2).slotHold = s.slotHold := (blockResult_rel (ch := 12862464) rfl (Rel.refl s)).f6 rfl
@[simp] theorem blockResult_pool {s : State} {x1 x2} : (blockResult s x1 x2).pool = s.pool := (blockResult_rel (ch := 12862464) rfl (Rel.refl s)).f7 rfl
@[simp] theorem blockResult_home {s : State} {x1 x2} : (blockResult s x1 x2).home = s.home := (blockResult_rel (ch := 12862464) rfl (Rel.refl s)).f8 rfl
@[simp] theorem blockResult_dkl {s : State} {x1 x2} : (blockResult s x1 x2).dkl = s.dkl := (blockResult_rel (ch := 12862464) rfl (Rel.refl s)).f9 rfl
@[simp] theorem blockResult_mov {s : State} {x1 x2} : (blockResult s x1 x2).mov = s.mov := (blockResult_rel (ch := 12862464) rfl (Rel.refl s)).f11 rfl
@[simp] theorem blockResult_time {s : State} {x1 x2} : (blockResult s x1 x2).time = s.time := (blockResult_rel (ch := 12862464) rfl (Rel.refl s)).f12 rfl
@[simp] theorem blockResult_ten {s : State} {x1 x2} : (blockResult s x1 x2).ten = s.ten := (blockResult_rel (ch := 12862464) rfl (Rel.refl s)).f13 rfl
@[simp] theorem blockResult_quire {s : State} {x1 x2} : (blockResult s x1 x2).quire = s.quire := (blockResult_rel (ch := 12862464) rfl (Rel.refl s)).f15 rfl
@[simp] theorem blockResult_core {s : State} {x1 x2} : (blockResult s x1 x2).core = s.core := (blockResult_rel (ch := 12862464) rfl (Rel.refl s)).f16 rfl
@[simp] theorem blockResult_cnt {s : State} {x1 x2} : (blockResult s x1 x2).cnt = s.cnt := (blockResult_rel (ch := 12862464) rfl (Rel.refl s)).f17 rfl
@[simp] theorem blockResult_tap {s : State} {x1 x2} : (blockResult s x1 x2).tap = s.tap := (blockResult_rel (ch := 12862464) rfl (Rel.refl s)).f19 rfl
@[simp] theorem blockResult_pairLo {s : State} {x1 x2} : (blockResult s x1 x2).pairLo = s.pairLo := (blockResult_rel (ch := 12862464) rfl (Rel.refl s)).f20 rfl
@[simp] theorem blockResult_pairHi {s : State} {x1 x2} : (blockResult s x1 x2).pairHi = s.pairHi := (blockResult_rel (ch := 12862464) rfl (Rel.refl s)).f21 rfl
@[simp] theorem blockResult_nextId {s : State} {x1 x2} : (blockResult s x1 x2).nextId = s.nextId := (blockResult_rel (ch := 12862464) rfl (Rel.refl s)).f24 rfl
@[simp] theorem blockResult_pending {s : State} {x1 x2} : (blockResult s x1 x2).pending = s.pending := (blockResult_rel (ch := 12862464) rfl (Rel.refl s)).pend
@[simp] theorem blockResult_ps {s : State} {x1 x2} : (blockResult s x1 x2).seq.ps = s.seq.ps := ((blockResult_rel (ch := 12862464) rfl (Rel.refl s)).ps rfl).1
@[simp] theorem blockResult_psBad {s : State} {x1 x2} : (blockResult s x1 x2).seq.psBad = s.seq.psBad := ((blockResult_rel (ch := 12862464) rfl (Rel.refl s)).ps rfl).2
@[simp] theorem blockResult_regs {s : State} {x1 x2} (c : Nat) : regs (getCtx (blockResult s x1 x2) c) = regs (getCtx s c) := (blockResult_rel (ch := 12862464) rfl (Rel.refl s)).regs rfl c

@[simp] theorem tapEnd_glb {s : State} : (tapEnd s).glb = s.glb := (tapEnd_rel (ch := 524288) rfl (Rel.refl s)).f0 rfl
@[simp] theorem tapEnd_cmd {s : State} : (tapEnd s).cmd = s.cmd := (tapEnd_rel (ch := 524288) rfl (Rel.refl s)).f1 rfl
@[simp] theorem tapEnd_pwr {s : State} : (tapEnd s).pwr = s.pwr := (tapEnd_rel (ch := 524288) rfl (Rel.refl s)).f2 rfl
@[simp] theorem tapEnd_pace {s : State} : (tapEnd s).pace = s.pace := (tapEnd_rel (ch := 524288) rfl (Rel.refl s)).f3 rfl
@[simp] theorem tapEnd_slot {s : State} : (tapEnd s).slot = s.slot := (tapEnd_rel (ch := 524288) rfl (Rel.refl s)).f4 rfl
@[simp] theorem tapEnd_pwrfail {s : State} : (tapEnd s).pwrfail = s.pwrfail := (tapEnd_rel (ch := 524288) rfl (Rel.refl s)).f5 rfl
@[simp] theorem tapEnd_slotHold {s : State} : (tapEnd s).slotHold = s.slotHold := (tapEnd_rel (ch := 524288) rfl (Rel.refl s)).f6 rfl
@[simp] theorem tapEnd_pool {s : State} : (tapEnd s).pool = s.pool := (tapEnd_rel (ch := 524288) rfl (Rel.refl s)).f7 rfl
@[simp] theorem tapEnd_home {s : State} : (tapEnd s).home = s.home := (tapEnd_rel (ch := 524288) rfl (Rel.refl s)).f8 rfl
@[simp] theorem tapEnd_dkl {s : State} : (tapEnd s).dkl = s.dkl := (tapEnd_rel (ch := 524288) rfl (Rel.refl s)).f9 rfl
@[simp] theorem tapEnd_seq {s : State} : (tapEnd s).seq = s.seq := (tapEnd_rel (ch := 524288) rfl (Rel.refl s)).f10 rfl
@[simp] theorem tapEnd_mov {s : State} : (tapEnd s).mov = s.mov := (tapEnd_rel (ch := 524288) rfl (Rel.refl s)).f11 rfl
@[simp] theorem tapEnd_time {s : State} : (tapEnd s).time = s.time := (tapEnd_rel (ch := 524288) rfl (Rel.refl s)).f12 rfl
@[simp] theorem tapEnd_ten {s : State} : (tapEnd s).ten = s.ten := (tapEnd_rel (ch := 524288) rfl (Rel.refl s)).f13 rfl
@[simp] theorem tapEnd_port {s : State} : (tapEnd s).port = s.port := (tapEnd_rel (ch := 524288) rfl (Rel.refl s)).f14 rfl
@[simp] theorem tapEnd_quire {s : State} : (tapEnd s).quire = s.quire := (tapEnd_rel (ch := 524288) rfl (Rel.refl s)).f15 rfl
@[simp] theorem tapEnd_core {s : State} : (tapEnd s).core = s.core := (tapEnd_rel (ch := 524288) rfl (Rel.refl s)).f16 rfl
@[simp] theorem tapEnd_cnt {s : State} : (tapEnd s).cnt = s.cnt := (tapEnd_rel (ch := 524288) rfl (Rel.refl s)).f17 rfl
@[simp] theorem tapEnd_stk {s : State} : (tapEnd s).stk = s.stk := (tapEnd_rel (ch := 524288) rfl (Rel.refl s)).f18 rfl
@[simp] theorem tapEnd_pairLo {s : State} : (tapEnd s).pairLo = s.pairLo := (tapEnd_rel (ch := 524288) rfl (Rel.refl s)).f20 rfl
@[simp] theorem tapEnd_pairHi {s : State} : (tapEnd s).pairHi = s.pairHi := (tapEnd_rel (ch := 524288) rfl (Rel.refl s)).f21 rfl
@[simp] theorem tapEnd_out {s : State} : (tapEnd s).out = s.out := (tapEnd_rel (ch := 524288) rfl (Rel.refl s)).f22 rfl
@[simp] theorem tapEnd_fresh {s : State} : (tapEnd s).fresh = s.fresh := (tapEnd_rel (ch := 524288) rfl (Rel.refl s)).f23 rfl
@[simp] theorem tapEnd_nextId {s : State} : (tapEnd s).nextId = s.nextId := (tapEnd_rel (ch := 524288) rfl (Rel.refl s)).f24 rfl
@[simp] theorem tapEnd_pending {s : State} : (tapEnd s).pending = s.pending := (tapEnd_rel (ch := 524288) rfl (Rel.refl s)).pend

end Sys2Proof.Machine
end

