-- ==== Sys2Proof/Laws/Issue.lean ====
section
/-!
SUPPORT. What the issue of an instruction comes to: its effect on the begun state, then the retirement; registers, flags and the
program counter through them.
-/

namespace Sys2Proof.Machine

open Sys2Proof.Safety

/-! ## Registers -/

@[simp] theorem kget_kset (x : Ctx) (d i : BitVec 4) (v : W64) :
    kget (kset x d v) i = if d ≠ 0 ∧ i = d then v else kget x i := by
  unfold kset kget
  by_cases hd : d = 0
  · subst hd; simp
  · by_cases hi : i = 0
    · subst hi
      simp only [hd, if_false, if_true]
      rw [if_neg (fun h => hd h.2.symm)]
    · simp only [hd, hi, if_false, tget_tput, ne_eq, not_false_eq_true, true_and]
      by_cases e : i = d
      · simp [e]
      · have : ¬ i.toNat = d.toNat := fun h => e (BitVec.eq_of_toNat_eq h)
        simp [e, this]

theorem kget_of_regs {x y : Ctx} (h : regs x = regs y) (i : BitVec 4) : kget x i = kget y i := by
  have : x.k = y.k := congrArg Prod.fst h
  unfold kget; rw [this]

theorem flags_of_regs {x y : Ctx} (h : regs x = regs y) : x.z = y.z ∧ x.n = y.n ∧ x.c = y.c ∧ x.v = y.v := by
  simp only [regs, Prod.mk.injEq] at h
  exact h.2

theorem src2_of_regs {x y : Ctx} (h : regs x = regs y) (w : Ox) : src2 x w = src2 y w := by
  unfold src2; rw [kget_of_regs h]

theorem condHolds_of_regs {x y : Ctx} (h : regs x = regs y) (k : BitVec 4) : condHolds x k = condHolds y k := by
  obtain ⟨a, b, c, d⟩ := flags_of_regs h
  unfold condHolds; rw [a, b, c, d]

@[simp] theorem regs_mk_kset (x : Ctx) (d : BitVec 4) (v : W64) : (kset x d v).pc = x.pc ∧ (kset x d v).run = x.run := by
  unfold kset; split <;> exact ⟨rfl, rfl⟩

/-! ## The begun state -/

theorem begun_rel {ch : Nat} {s u : State} {c} (hc : 1024 &&& ch = 1024) (h : Rel ch s u) : Rel ch s (begun u c) := by
  have a := asDebug_rel (x1 := c) (sub_of hc rfl) h
  unfold begun
  dsimp only
  split
  · exact a
  · exact takeSlot_rel (sub_of hc rfl) a

theorem getCtx_takeSlot (s : State) (c j : Nat) : getCtx (takeSlot s c) j = getCtx s j := rfl

theorem getCtx_begun (s : State) (c j : Nat) :
    getCtx (begun s c) j = { getCtx s j with run := (getCtx (begun s c) j).run } := by
  have a : getCtx (asDebug s c) j = { getCtx s j with run := (getCtx (asDebug s c) j).run } := by
    unfold asDebug
    split
    · rw [getCtx_modCtx]; split <;> rfl
    · rfl
  unfold begun
  dsimp only
  split
  · exact a
  · rw [getCtx_takeSlot]; exact a

/-- An instruction that is not issued as debug begins with its contexts as they are. -/
theorem getCtx_begun_of (s : State) (c j : Nat) (h : (debugIssue s c && (getCtx s c).run == .idle) = false) :
    getCtx (begun s c) j = getCtx s j := by
  have a : asDebug s c = s := by unfold asDebug; rw [h]; rfl
  unfold begun
  dsimp only
  rw [a]
  split
  · rfl
  · exact getCtx_takeSlot s c j

@[simp] theorem begun_regs (s : State) (c j : Nat) : regs (getCtx (begun s c) j) = regs (getCtx s j) := by
  rw [getCtx_begun]; rfl

@[simp] theorem begun_kget (s : State) (c j : Nat) (i : BitVec 4) : kget (getCtx (begun s c) j) i = kget (getCtx s j) i :=
  kget_of_regs (begun_regs s c j) i

@[simp] theorem begun_src2 (s : State) (c j : Nat) (w : Ox) : src2 (getCtx (begun s c) j) w = src2 (getCtx s j) w :=
  src2_of_regs (begun_regs s c j) w

@[simp] theorem begun_glb (s : State) (c : Nat) : (begun s c).glb = s.glb := (begun_rel (ch := 1024) rfl (Rel.refl s)).f0 rfl
@[simp] theorem begun_cmd (s : State) (c : Nat) : (begun s c).cmd = s.cmd := (begun_rel (ch := 1024) rfl (Rel.refl s)).f1 rfl
@[simp] theorem begun_pwr (s : State) (c : Nat) : (begun s c).pwr = s.pwr := (begun_rel (ch := 1024) rfl (Rel.refl s)).f2 rfl
@[simp] theorem begun_pace (s : State) (c : Nat) : (begun s c).pace = s.pace := (begun_rel (ch := 1024) rfl (Rel.refl s)).f3 rfl
@[simp] theorem begun_slot (s : State) (c : Nat) : (begun s c).slot = s.slot := (begun_rel (ch := 1024) rfl (Rel.refl s)).f4 rfl
@[simp] theorem begun_pwrfail (s : State) (c : Nat) : (begun s c).pwrfail = s.pwrfail := (begun_rel (ch := 1024) rfl (Rel.refl s)).f5 rfl
@[simp] theorem begun_slotHold (s : State) (c : Nat) : (begun s c).slotHold = s.slotHold := (begun_rel (ch := 1024) rfl (Rel.refl s)).f6 rfl
@[simp] theorem begun_pool (s : State) (c : Nat) : (begun s c).pool = s.pool := (begun_rel (ch := 1024) rfl (Rel.refl s)).f7 rfl
@[simp] theorem begun_home (s : State) (c : Nat) : (begun s c).home = s.home := (begun_rel (ch := 1024) rfl (Rel.refl s)).f8 rfl
@[simp] theorem begun_dkl (s : State) (c : Nat) : (begun s c).dkl = s.dkl := (begun_rel (ch := 1024) rfl (Rel.refl s)).f9 rfl
@[simp] theorem begun_mov (s : State) (c : Nat) : (begun s c).mov = s.mov := (begun_rel (ch := 1024) rfl (Rel.refl s)).f11 rfl
@[simp] theorem begun_time (s : State) (c : Nat) : (begun s c).time = s.time := (begun_rel (ch := 1024) rfl (Rel.refl s)).f12 rfl
@[simp] theorem begun_ten (s : State) (c : Nat) : (begun s c).ten = s.ten := (begun_rel (ch := 1024) rfl (Rel.refl s)).f13 rfl
@[simp] theorem begun_port (s : State) (c : Nat) : (begun s c).port = s.port := (begun_rel (ch := 1024) rfl (Rel.refl s)).f14 rfl
@[simp] theorem begun_quire (s : State) (c : Nat) : (begun s c).quire = s.quire := (begun_rel (ch := 1024) rfl (Rel.refl s)).f15 rfl
@[simp] theorem begun_core (s : State) (c : Nat) : (begun s c).core = s.core := (begun_rel (ch := 1024) rfl (Rel.refl s)).f16 rfl
@[simp] theorem begun_cnt (s : State) (c : Nat) : (begun s c).cnt = s.cnt := (begun_rel (ch := 1024) rfl (Rel.refl s)).f17 rfl
@[simp] theorem begun_stk (s : State) (c : Nat) : (begun s c).stk = s.stk := (begun_rel (ch := 1024) rfl (Rel.refl s)).f18 rfl
@[simp] theorem begun_tap (s : State) (c : Nat) : (begun s c).tap = s.tap := (begun_rel (ch := 1024) rfl (Rel.refl s)).f19 rfl
@[simp] theorem begun_pairLo (s : State) (c : Nat) : (begun s c).pairLo = s.pairLo := (begun_rel (ch := 1024) rfl (Rel.refl s)).f20 rfl
@[simp] theorem begun_pairHi (s : State) (c : Nat) : (begun s c).pairHi = s.pairHi := (begun_rel (ch := 1024) rfl (Rel.refl s)).f21 rfl
@[simp] theorem begun_out (s : State) (c : Nat) : (begun s c).out = s.out := (begun_rel (ch := 1024) rfl (Rel.refl s)).f22 rfl
@[simp] theorem begun_fresh (s : State) (c : Nat) : (begun s c).fresh = s.fresh := (begun_rel (ch := 1024) rfl (Rel.refl s)).f23 rfl
@[simp] theorem begun_nextId (s : State) (c : Nat) : (begun s c).nextId = s.nextId := (begun_rel (ch := 1024) rfl (Rel.refl s)).f24 rfl
@[simp] theorem begun_ps (s : State) (c : Nat) : (begun s c).seq.ps = s.seq.ps := ((begun_rel (ch := 1024) rfl (Rel.refl s)).ps rfl).1

@[simp] theorem begun_pc (s : State) (c j : Nat) : (getCtx (begun s c) j).pc = (getCtx s j).pc := by rw [getCtx_begun]
@[simp] theorem begun_stack (s : State) (c j : Nat) : (getCtx (begun s c) j).stack = (getCtx s j).stack := by rw [getCtx_begun]
@[simp] theorem begun_evp (s : State) (c j : Nat) : (getCtx (begun s c) j).evp = (getCtx s j).evp := by rw [getCtx_begun]
@[simp] theorem begun_evm (s : State) (c j : Nat) : (getCtx (begun s c) j).evm = (getCtx s j).evm := by rw [getCtx_begun]
@[simp] theorem begun_st (s : State) (c j : Nat) : (getCtx (begun s c) j).st = (getCtx s j).st := by rw [getCtx_begun]

/-- The first failing check of a list in which none fails. -/
theorem firstFail_none {l : List (Bool × Nat)} (h : ∀ e ∈ l, e.1 = false) : firstFail l = none := by
  induction l with
  | nil => rfl
  | cons e l ih =>
    obtain ⟨b, n⟩ := e
    have hb : b = false := h (b, n) (List.mem_cons_self ..)
    subst hb
    exact ih fun e he => h e (List.mem_cons_of_mem _ he)

/-- An instruction that issues and passes its checks comes to its effect. -/
theorem oxRun_issues {c op : Nat} {w : Ox} {sh : Shape0} {chk : State → Ctx → List (Bool × Nat)} {eff : State → Ctx → State}
    {s : State} (h : Issues s c op w sh) (hc : ∀ e ∈ chk (begun s c) (getCtx (begun s c) c), e.1 = false) :
    oxRun c op w sh chk eff s = endTurn (eff (begun s c) (getCtx (begun s c) c)) c := by
  have hf := h.fetch
  have hx : condHolds (getCtx (begun s c) c) w.cond = true := by
    rw [condHolds_of_regs (begun_regs s c c)]; exact h.holds
  have h1 : (decide (0xA0 ≤ op) && decide (op ≤ 0xAF) && !isStw c) = false := by
    by_cases ha : 0xA0 ≤ op
    · by_cases hb : op ≤ 0xAF
      · simp [isStw, h.steward ha hb]
      · simp [hb]
    · simp [ha]
  have h2 : (w.cond == 0xF) = false := by simpa using h.cond
  have hn : firstFail ((decide (0xA0 ≤ op) && decide (op ≤ 0xAF) && !isStw c, 0x13) :: (w.cond == 0xF, 0x11) ::
      (!shapeOk w sh, 0x11) :: chk (begun s c) (getCtx (begun s c) c)) = none := by
    apply firstFail_none
    intro e he
    simp only [List.mem_cons] at he
    rcases he with rfl | rfl | rfl | he
    · exact h1
    · exact h2
    · simp [h.shape]
    · exact hc e he
  unfold oxRun
  rw [h.now]
  unfold begun at hf hn hx ⊢
  dsimp only at hf hn hx ⊢
  simp only [Bool.not_true, Bool.false_eq_true, if_false]
  generalize hq : (if ((getCtx (asDebug s c) c).wait == Wait.again || (getCtx (asDebug s c) c).run == Run.debug) = true then asDebug s c
    else takeSlot (asDebug s c) c) = q at *
  rw [hf]
  dsimp only
  rw [hn]
  dsimp only
  rw [if_pos hx]

/-! ## Retirement -/

@[simp] theorem getCtx_endTurn (s : State) (c j : Nat) : getCtx (endTurn s c) j = getCtx s j := by
  unfold endTurn; split <;> rfl

theorem ctx_countEv (s : State) (code i : Nat) (t : Option Nat) (n j : Nat) : getCtx (countEv s code i t n) j = getCtx s j :=
  getCtx_congr (countEv_seq) j

@[simp] theorem pc_retireCount (s : State) (c st j : Nat) : (getCtx (retireCount s c st) j).pc = (getCtx s j).pc ∧
    (getCtx (retireCount s c st) j).run = (getCtx s j).run := by
  unfold retireCount
  dsimp only
  rw [ctx_countEv, getCtx_congr topDown_seq, getCtx_congr topDown_seq]
  unfold unwait
  rw [getCtx_modCtx]
  split <;> exact ⟨rfl, rfl⟩

/-- The record of an instruction leaves the program counter and what its context runs. -/
theorem pc_postRec (s : State) (c : Nat) (r : Rec) (j : Nat) : (getCtx (postRec s c r) j).pc = (getCtx s j).pc ∧
    (getCtx (postRec s c r) j).run = (getCtx s j).run := by
  have ring (s : State) (a b d) : getCtx (ringWrite s a b d) j = getCtx s j := by unfold ringWrite; split <;> rfl
  have vec (s : State) (v) : getCtx (vecSend s c v) j = getCtx s j := getCtx_congr vecSend_seq j
  unfold postRec
  dsimp only
  split
  · rw [getCtx_modCtx]; split <;> exact ⟨rfl, rfl⟩
  · split
    · exact ⟨rfl, rfl⟩
    · split
      · rw [getCtx_modCtx]; split <;> exact ⟨rfl, rfl⟩
      · unfold cqWrite
        dsimp only
        split
        · rw [vec, getCtx_modCtx]
          split <;> (simp only [ctx_countEv]; rw [getCtx_modCtx, ring]; split <;> exact ⟨rfl, rfl⟩)
        · rw [ctx_countEv, getCtx_modCtx, ring]; split <;> exact ⟨rfl, rfl⟩

theorem pc_recIf (s : State) (c op : Nat) (w : Ox) (st : Nat) (r : Option W64) (j : Nat) :
    (getCtx (recIf s c op w st r) j).pc = (getCtx s j).pc ∧ (getCtx (recIf s c op w st r) j).run = (getCtx s j).run := by
  unfold recIf
  split
  · exact pc_postRec _ _ _ _
  · exact ⟨rfl, rfl⟩

/-- In a program an instruction that retires moves its context on by one instruction. -/
theorem pc_advance (s : State) (c : Nat) (f : Option (Nat × Nat)) (h : (getCtx s c).run = .prog f) :
    (getCtx (advance s c) c).pc = (getCtx s c).pc + 16 := by
  unfold advance takeHalt moveOn
  dsimp only
  rw [h, getCtx_modCtx, getCtx_modCtx]
  simp only [if_true]
  split <;> rfl

theorem pc_retire (s : State) (c op : Nat) (w : Ox) (st : Nat) (r : Option W64) (f : Option (Nat × Nat))
    (h : (getCtx s c).run = .prog f) : (getCtx (retire s c op w st r) c).pc = (getCtx s c).pc + 16 := by
  unfold retire
  have a := pc_recIf (retireCount s c st) c op w st r c
  have b := pc_retireCount s c st c
  rw [pc_advance _ c f (by rw [a.2, b.2, h]), a.1, b.1]

@[simp] theorem retire_kget (s : State) (c op : Nat) (w : Ox) (st : Nat) (r : Option W64) (j : Nat) (i : BitVec 4) :
    kget (getCtx (retire s c op w st r) j) i = kget (getCtx s j) i := kget_of_regs (retire_regs j) i

/-- The registers after a retirement with a result. -/
theorem retireK_kget (s : State) (c op : Nat) (w : Ox) (d : BitVec 4) (v : W64) (j : Nat) (i : BitVec 4) :
    kget (getCtx (retireK s c op w d v) j) i = if j = c ∧ d ≠ 0 ∧ i = d then v else kget (getCtx s j) i := by
  unfold retireK
  rw [retire_kget, getCtx_modCtx]
  by_cases h : j = c
  · subst h; simp
  · simp [h]

theorem retireK_flags (s : State) (c op : Nat) (w : Ox) (d : BitVec 4) (v : W64) (j : Nat) :
    (getCtx (retireK s c op w d v) j).z = (getCtx s j).z ∧ (getCtx (retireK s c op w d v) j).n = (getCtx s j).n ∧
    (getCtx (retireK s c op w d v) j).c = (getCtx s j).c ∧ (getCtx (retireK s c op w d v) j).v = (getCtx s j).v := by
  have h : regs (getCtx (retireK s c op w d v) j) = regs (getCtx (modCtx s c fun x => kset x d v) j) := retire_regs j
  obtain ⟨a, b, e, f⟩ := flags_of_regs h
  have g : ∀ x : Ctx, (kset x d v).z = x.z ∧ (kset x d v).n = x.n ∧ (kset x d v).c = x.c ∧ (kset x d v).v = x.v := by
    intro x; unfold kset; split <;> exact ⟨rfl, rfl, rfl, rfl⟩
  rw [a, b, e, f, getCtx_modCtx]
  split
  · exact g _
  · exact ⟨rfl, rfl, rfl, rfl⟩

theorem pc_retireK (s : State) (c op : Nat) (w : Ox) (d : BitVec 4) (v : W64) (f : Option (Nat × Nat))
    (h : (getCtx s c).run = .prog f) : (getCtx (retireK s c op w d v) c).pc = (getCtx s c).pc + 16 := by
  unfold retireK
  have g : (getCtx (modCtx s c fun x => kset x d v) c).pc = (getCtx s c).pc ∧
      (getCtx (modCtx s c fun x => kset x d v) c).run = (getCtx s c).run := by
    rw [getCtx_modCtx]; simp only [if_true]; exact regs_mk_kset _ _ _
  rw [pc_retire _ c op w 0 (some v) f (by rw [g.2, h]), g.1]

@[simp] theorem retireK_glb {s : State} {c op w d v} : (retireK s c op w d v).glb = s.glb := (retireK_rel (ch := 549864450) rfl (Rel.refl s)).f0 rfl
@[simp] theorem retireK_pwr {s : State} {c op w d v} : (retireK s c op w d v).pwr = s.pwr := (retireK_rel (ch := 549864450) rfl (Rel.refl s)).f2 rfl
@[simp] theorem retireK_pace {s : State} {c op w d v} : (retireK s c op w d v).pace = s.pace := (retireK_rel (ch := 549864450) rfl (Rel.refl s)).f3 rfl
@[simp] theorem retireK_slot {s : State} {c op w d v} : (retireK s c op w d v).slot = s.slot := (retireK_rel (ch := 549864450) rfl (Rel.refl s)).f4 rfl
@[simp] theorem retireK_pwrfail {s : State} {c op w d v} : (retireK s c op w d v).pwrfail = s.pwrfail := (retireK_rel (ch := 549864450) rfl (Rel.refl s)).f5 rfl
@[simp] theorem retireK_slotHold {s : State} {c op w d v} : (retireK s c op w d v).slotHold = s.slotHold := (retireK_rel (ch := 549864450) rfl (Rel.refl s)).f6 rfl
@[simp] theorem retireK_pool {s : State} {c op w d v} : (retireK s c op w d v).pool = s.pool := (retireK_rel (ch := 549864450) rfl (Rel.refl s)).f7 rfl
@[simp] theorem retireK_home {s : State} {c op w d v} : (retireK s c op w d v).home = s.home := (retireK_rel (ch := 549864450) rfl (Rel.refl s)).f8 rfl
@[simp] theorem retireK_dkl {s : State} {c op w d v} : (retireK s c op w d v).dkl = s.dkl := (retireK_rel (ch := 549864450) rfl (Rel.refl s)).f9 rfl
@[simp] theorem retireK_mov {s : State} {c op w d v} : (retireK s c op w d v).mov = s.mov := (retireK_rel (ch := 549864450) rfl (Rel.refl s)).f11 rfl
@[simp] theorem retireK_time {s : State} {c op w d v} : (retireK s c op w d v).time = s.time := (retireK_rel (ch := 549864450) rfl (Rel.refl s)).f12 rfl
@[simp] theorem retireK_ten {s : State} {c op w d v} : (retireK s c op w d v).ten = s.ten := (retireK_rel (ch := 549864450) rfl (Rel.refl s)).f13 rfl
@[simp] theorem retireK_quire {s : State} {c op w d v} : (retireK s c op w d v).quire = s.quire := (retireK_rel (ch := 549864450) rfl (Rel.refl s)).f15 rfl
@[simp] theorem retireK_core {s : State} {c op w d v} : (retireK s c op w d v).core = s.core := (retireK_rel (ch := 549864450) rfl (Rel.refl s)).f16 rfl
@[simp] theorem retireK_tap {s : State} {c op w d v} : (retireK s c op w d v).tap = s.tap := (retireK_rel (ch := 549864450) rfl (Rel.refl s)).f19 rfl
@[simp] theorem retireK_pairLo {s : State} {c op w d v} : (retireK s c op w d v).pairLo = s.pairLo := (retireK_rel (ch := 549864450) rfl (Rel.refl s)).f20 rfl
@[simp] theorem retireK_pairHi {s : State} {c op w d v} : (retireK s c op w d v).pairHi = s.pairHi := (retireK_rel (ch := 549864450) rfl (Rel.refl s)).f21 rfl
@[simp] theorem retireK_nextId {s : State} {c op w d v} : (retireK s c op w d v).nextId = s.nextId := (retireK_rel (ch := 549864450) rfl (Rel.refl s)).f24 rfl

end Sys2Proof.Machine
end

