-- ==== Sys2Proof/Laws/RelArith.lean ====
section
/-!
SUPPORT. What each operation of Arith.lean can change, and that it keeps what every command keeps (Laws/Rel.lean).
-/

namespace Sys2Proof.Machine

theorem aluRun_rel {ch : Nat} {s u : State} {x0 x1 x2 x3 x4 x5} (hc : 549864450 &&& ch = 549864450) (h : Rel ch s u) :
    Rel ch s (aluRun x0 x1 x2 x3 x4 x5 u) := by
  unfold aluRun
  refine oxRun_rel (sub_of hc rfl) (fun y1 y2 hf0 => ?_) ?_
  · extract_lets -merge -underBinder v3
    try clear_value v3
    refine retireK_rel (sub_of hc rfl) ?_
    refine Rel.ite ?_ ?_
    · refine Rel.modCtx' (bit_of 10 hc rfl) (bit_of 29 hc rfl) ?_
      exact hf0
    · exact hf0
  · exact h

theorem flagRun_rel {ch : Nat} {s u : State} {x0 x1 x2 x3} (hc : 549864450 &&& ch = 549864450) (h : Rel ch s u) :
    Rel ch s (flagRun x0 x1 x2 x3 u) := by
  unfold flagRun
  refine oxRun_rel (sub_of hc rfl) (fun y1 y2 hf0 => ?_) ?_
  · refine retireSt_rel (sub_of hc rfl) ?_
    refine Rel.modCtx' (bit_of 10 hc rfl) (bit_of 29 hc rfl) ?_
    exact hf0
  · exact h

theorem unaryRun_rel {ch : Nat} {s u : State} {x0 x1 x2 x3} (hc : 549864450 &&& ch = 549864450) (h : Rel ch s u) :
    Rel ch s (unaryRun x0 x1 x2 x3 u) := by
  unfold unaryRun
  refine oxRun_rel (sub_of hc rfl) (fun y1 y2 hf0 => ?_) ?_
  · refine retireK_rel (sub_of hc rfl) ?_
    exact hf0
  · exact h

theorem execMovi_rel {ch : Nat} {s u t : State} {x0 x1} (hc : 549864450 &&& ch = 549864450) (h : Rel ch s u)
    (ht : execMovi x0 x1 u = .next t) : Rel ch s t := by
  unfold execMovi at ht
  refine Rel.unitOk ?_ ht
  refine oxRun_rel (sub_of hc rfl) (fun y1 y2 hf0 => ?_) ?_
  · refine retireK_rel (sub_of hc rfl) ?_
    exact hf0
  · exact h

theorem execMov_rel {ch : Nat} {s u t : State} {x0 x1} (hc : 549864450 &&& ch = 549864450) (h : Rel ch s u)
    (ht : execMov x0 x1 u = .next t) : Rel ch s t := by
  unfold execMov at ht
  refine Rel.unitOk ?_ ht
  refine unaryRun_rel (sub_of hc rfl) ?_
  exact h

theorem execAdd_rel {ch : Nat} {s u t : State} {x0 x1} (hc : 549864450 &&& ch = 549864450) (h : Rel ch s u)
    (ht : execAdd x0 x1 u = .next t) : Rel ch s t := by
  unfold execAdd at ht
  refine Rel.unitOk ?_ ht
  refine aluRun_rel (sub_of hc rfl) ?_
  exact h

theorem execSub_rel {ch : Nat} {s u t : State} {x0 x1} (hc : 549864450 &&& ch = 549864450) (h : Rel ch s u)
    (ht : execSub x0 x1 u = .next t) : Rel ch s t := by
  unfold execSub at ht
  refine Rel.unitOk ?_ ht
  refine aluRun_rel (sub_of hc rfl) ?_
  exact h

theorem execMul_rel {ch : Nat} {s u t : State} {x0 x1} (hc : 549864450 &&& ch = 549864450) (h : Rel ch s u)
    (ht : execMul x0 x1 u = .next t) : Rel ch s t := by
  unfold execMul at ht
  refine Rel.unitOk ?_ ht
  refine aluRun_rel (sub_of hc rfl) ?_
  exact h

theorem execMulhu_rel {ch : Nat} {s u t : State} {x0 x1} (hc : 549864450 &&& ch = 549864450) (h : Rel ch s u)
    (ht : execMulhu x0 x1 u = .next t) : Rel ch s t := by
  unfold execMulhu at ht
  refine Rel.unitOk ?_ ht
  refine aluRun_rel (sub_of hc rfl) ?_
  exact h

theorem execDivu_rel {ch : Nat} {s u t : State} {x0 x1} (hc : 549864450 &&& ch = 549864450) (h : Rel ch s u)
    (ht : execDivu x0 x1 u = .next t) : Rel ch s t := by
  unfold execDivu at ht
  refine Rel.unitOk ?_ ht
  refine aluRun_rel (sub_of hc rfl) ?_
  exact h

theorem execRemu_rel {ch : Nat} {s u t : State} {x0 x1} (hc : 549864450 &&& ch = 549864450) (h : Rel ch s u)
    (ht : execRemu x0 x1 u = .next t) : Rel ch s t := by
  unfold execRemu at ht
  refine Rel.unitOk ?_ ht
  refine aluRun_rel (sub_of hc rfl) ?_
  exact h

theorem execAnd_rel {ch : Nat} {s u t : State} {x0 x1} (hc : 549864450 &&& ch = 549864450) (h : Rel ch s u)
    (ht : execAnd x0 x1 u = .next t) : Rel ch s t := by
  unfold execAnd at ht
  refine Rel.unitOk ?_ ht
  refine aluRun_rel (sub_of hc rfl) ?_
  exact h

theorem execOr_rel {ch : Nat} {s u t : State} {x0 x1} (hc : 549864450 &&& ch = 549864450) (h : Rel ch s u)
    (ht : execOr x0 x1 u = .next t) : Rel ch s t := by
  unfold execOr at ht
  refine Rel.unitOk ?_ ht
  refine aluRun_rel (sub_of hc rfl) ?_
  exact h

theorem execXor_rel {ch : Nat} {s u t : State} {x0 x1} (hc : 549864450 &&& ch = 549864450) (h : Rel ch s u)
    (ht : execXor x0 x1 u = .next t) : Rel ch s t := by
  unfold execXor at ht
  refine Rel.unitOk ?_ ht
  refine aluRun_rel (sub_of hc rfl) ?_
  exact h

theorem execShl_rel {ch : Nat} {s u t : State} {x0 x1} (hc : 549864450 &&& ch = 549864450) (h : Rel ch s u)
    (ht : execShl x0 x1 u = .next t) : Rel ch s t := by
  unfold execShl at ht
  refine Rel.unitOk ?_ ht
  refine aluRun_rel (sub_of hc rfl) ?_
  exact h

theorem execShr_rel {ch : Nat} {s u t : State} {x0 x1} (hc : 549864450 &&& ch = 549864450) (h : Rel ch s u)
    (ht : execShr x0 x1 u = .next t) : Rel ch s t := by
  unfold execShr at ht
  refine Rel.unitOk ?_ ht
  refine aluRun_rel (sub_of hc rfl) ?_
  exact h

theorem execSar_rel {ch : Nat} {s u t : State} {x0 x1} (hc : 549864450 &&& ch = 549864450) (h : Rel ch s u)
    (ht : execSar x0 x1 u = .next t) : Rel ch s t := by
  unfold execSar at ht
  refine Rel.unitOk ?_ ht
  refine aluRun_rel (sub_of hc rfl) ?_
  exact h

theorem execCmp_rel {ch : Nat} {s u t : State} {x0 x1} (hc : 549864450 &&& ch = 549864450) (h : Rel ch s u)
    (ht : execCmp x0 x1 u = .next t) : Rel ch s t := by
  unfold execCmp at ht
  refine Rel.unitOk ?_ ht
  refine flagRun_rel (sub_of hc rfl) ?_
  exact h

theorem execTst_rel {ch : Nat} {s u t : State} {x0 x1} (hc : 549864450 &&& ch = 549864450) (h : Rel ch s u)
    (ht : execTst x0 x1 u = .next t) : Rel ch s t := by
  unfold execTst at ht
  refine Rel.unitOk ?_ ht
  refine flagRun_rel (sub_of hc rfl) ?_
  exact h

theorem minMaxRun_rel {ch : Nat} {s u : State} {x0 x1 x2 x3} (hc : 549864450 &&& ch = 549864450) (h : Rel ch s u) :
    Rel ch s (minMaxRun x0 x1 x2 x3 u) := by
  unfold minMaxRun
  refine oxRun_rel (sub_of hc rfl) (fun y1 y2 hf0 => ?_) ?_
  · refine retireK_rel (sub_of hc rfl) ?_
    exact hf0
  · exact h

theorem execMin_rel {ch : Nat} {s u t : State} {x0 x1} (hc : 549864450 &&& ch = 549864450) (h : Rel ch s u)
    (ht : execMin x0 x1 u = .next t) : Rel ch s t := by
  unfold execMin at ht
  refine Rel.unitOk ?_ ht
  refine minMaxRun_rel (sub_of hc rfl) ?_
  exact h

theorem execMax_rel {ch : Nat} {s u t : State} {x0 x1} (hc : 549864450 &&& ch = 549864450) (h : Rel ch s u)
    (ht : execMax x0 x1 u = .next t) : Rel ch s t := by
  unfold execMax at ht
  refine Rel.unitOk ?_ ht
  refine minMaxRun_rel (sub_of hc rfl) ?_
  exact h

theorem execClz_rel {ch : Nat} {s u t : State} {x0 x1} (hc : 549864450 &&& ch = 549864450) (h : Rel ch s u)
    (ht : execClz x0 x1 u = .next t) : Rel ch s t := by
  unfold execClz at ht
  refine Rel.unitOk ?_ ht
  refine unaryRun_rel (sub_of hc rfl) ?_
  exact h

theorem execPopc_rel {ch : Nat} {s u t : State} {x0 x1} (hc : 549864450 &&& ch = 549864450) (h : Rel ch s u)
    (ht : execPopc x0 x1 u = .next t) : Rel ch s t := by
  unfold execPopc at ht
  refine Rel.unitOk ?_ ht
  refine unaryRun_rel (sub_of hc rfl) ?_
  exact h

theorem bfRun_rel {ch : Nat} {s u : State} {x0 x1 x2 x3} (hc : 549864450 &&& ch = 549864450) (h : Rel ch s u) :
    Rel ch s (bfRun x0 x1 x2 x3 u) := by
  unfold bfRun
  extract_lets -merge -underBinder v0 v1
  try clear_value v0
  try clear_value v1
  refine oxRun_rel (sub_of hc rfl) (fun y3 y4 hf2 => ?_) ?_
  · refine retireK_rel (sub_of hc rfl) ?_
    exact hf2
  · exact h

theorem execBfx_rel {ch : Nat} {s u t : State} {x0 x1} (hc : 549864450 &&& ch = 549864450) (h : Rel ch s u)
    (ht : execBfx x0 x1 u = .next t) : Rel ch s t := by
  unfold execBfx at ht
  refine Rel.unitOk ?_ ht
  refine bfRun_rel (sub_of hc rfl) ?_
  exact h

theorem execBfi_rel {ch : Nat} {s u t : State} {x0 x1} (hc : 549864450 &&& ch = 549864450) (h : Rel ch s u)
    (ht : execBfi x0 x1 u = .next t) : Rel ch s t := by
  unfold execBfi at ht
  refine Rel.unitOk ?_ ht
  refine bfRun_rel (sub_of hc rfl) ?_
  exact h

end Sys2Proof.Machine
end

