-- ==== Sys2Proof/Laws/Retire.lean ====
section
/-!
SUPPORT. What the retirement of an instruction leaves and writes, in the terms of Safety.lean.
-/

namespace Sys2Proof.Machine

open Sys2Proof.Safety

/-- The index of a part in Laws/Rel.lean. -/
def partIdx : Part → Nat
  | .glb => 0 | .cmd => 1 | .pwr => 2 | .pace => 3 | .slot => 4 | .pwrfail => 5 | .slotHold => 6 | .pool => 7 | .home => 8 | .dkl => 9
  | .seq => 10 | .mov => 11 | .time => 12 | .ten => 13 | .port => 14 | .quire => 15 | .core => 16 | .cnt => 17 | .stk => 18
  | .tap => 19 | .pairLo => 20 | .pairHi => 21 | .out => 22 | .fresh => 23 | .nextId => 24 | .dram => 25 | .store => 26
  | .sheets => 27 | .deckles => 28 | .registers => 29

theorem Rel.same {ch : Nat} {s t : State} (h : Rel ch s t) (p : Part) (hp : ch.testBit (partIdx p) = false) : Safety.same s t p := by
  cases p with
  | glb => exact h.f0 hp
  | cmd => exact h.f1 hp
  | pwr => exact h.f2 hp
  | pace => exact h.f3 hp
  | slot => exact h.f4 hp
  | pwrfail => exact h.f5 hp
  | slotHold => exact h.f6 hp
  | pool => exact h.f7 hp
  | home => exact h.f8 hp
  | dkl => exact h.f9 hp
  | seq => exact h.f10 hp
  | mov => exact h.f11 hp
  | time => exact h.f12 hp
  | ten => exact h.f13 hp
  | port => exact h.f14 hp
  | quire => exact h.f15 hp
  | core => exact h.f16 hp
  | cnt => exact h.f17 hp
  | stk => exact h.f18 hp
  | tap => exact h.f19 hp
  | pairLo => exact h.f20 hp
  | pairHi => exact h.f21 hp
  | out => exact h.f22 hp
  | fresh => exact h.f23 hp
  | nextId => exact h.f24 hp
  | dram => exact h.mem hp
  | store => exact h.ps hp
  | sheets => exact h.sheet hp
  | deckles => exact h.deckle hp
  | registers =>
    intro c
    have r := h.regs hp c
    exact ⟨fun i => kget_of_regs r i, flags_of_regs r⟩

/-- What a set of changed parts leaves. -/
theorem Rel.onlyIn {ch : Nat} {s t : State} {l : List Part} (h : Rel ch s t)
    (hl : ∀ p, p ∉ l → ch.testBit (partIdx p) = false) : onlyIn l s t := fun p hp => h.same p (hl p hp)

/-- A program is not issued as debug. -/
theorem debug_of_prog {s : State} {c : Nat} {f : Option (Nat × Nat)} (h : (getCtx s c).run = .prog f) :
    (debugIssue s c && (getCtx s c).run == .idle) = false := by
  rw [h]; simp

/-- Retirement with a value, from the begun state with one context changed in its flags only. -/
theorem wrote_retireK {s u : State} {c op : Nat} {w : Ox} {d : BitVec 4} {v : W64}
    (hr : ∀ j i, kget (getCtx u j) i = kget (getCtx s j) i)
    (hp : ∀ f, (getCtx s c).run = .prog f → (getCtx u c).run = .prog f ∧ (getCtx u c).pc = (getCtx s c).pc)
    (hu : Rel 536871936 s u) : Wrote s (endTurn (retireK u c op w d v) c) c d v where
  regs j i := by rw [getCtx_endTurn, retireK_kget, hr]
  pc f h := by
    obtain ⟨a, b⟩ := hp f h
    rw [getCtx_endTurn, pc_retireK _ _ _ _ _ _ f a, b]
  frame := Rel.onlyIn (ch := 549864450) (endTurn_rel rfl (retireK_rel rfl (Rel.mono rfl hu)))
    (by intro p hp; cases p <;> first | rfl | (exact absurd (by decide) hp))

/-! ## The begun state and faults -/

theorem begun_prog (s : State) (c : Nat) (f : Option (Nat × Nat)) (h : (getCtx s c).run = .prog f) :
    (getCtx (begun s c) c).run = .prog f ∧ (getCtx (begun s c) c).pc = (getCtx s c).pc := by
  rw [getCtx_begun_of s c c (debug_of_prog h)]
  exact ⟨h, rfl⟩

/-- What a context runs, where, and whether it is stopped are the same in two records. -/
def ctxKept (x y : Ctx) : Prop := y.st = x.st ∧ y.fault = x.fault ∧ y.run = x.run ∧ y.pc = x.pc ∧ y.stack = x.stack

theorem ctxKept_refl (x : Ctx) : ctxKept x x := ⟨rfl, rfl, rfl, rfl, rfl⟩

theorem ctxKept_trans {x y z : Ctx} (a : ctxKept x y) (b : ctxKept y z) : ctxKept x z :=
  ⟨b.1.trans a.1, b.2.1.trans a.2.1, b.2.2.1.trans a.2.2.1, b.2.2.2.1.trans a.2.2.2.1, b.2.2.2.2.trans a.2.2.2.2⟩

theorem ctxKept_mod {s : State} {c j : Nat} {f : Ctx → Ctx} (hf : ∀ x, ctxKept x (f x)) :
    ctxKept (getCtx s j) (getCtx (modCtx s c f) j) := by
  rw [getCtx_modCtx]; split
  · exact hf _
  · exact ctxKept_refl _

theorem ctxKept_of_seq {s t : State} (h : t.seq = s.seq) (j : Nat) : ctxKept (getCtx s j) (getCtx t j) := by
  rw [getCtx_congr h]; exact ctxKept_refl _

/-- An event leaves what a context runs and whether it is faulted. -/
theorem evLatch_keep (s : State) (c e j : Nat) : ctxKept (getCtx s j) (getCtx (evLatch s c e) j) := by
  have b (u : State) : ctxKept (getCtx u j) (getCtx (evtVec u c) j) := by
    unfold evtVec
    dsimp only
    split
    · refine ctxKept_trans ?_ (ctxKept_of_seq vecSend_seq j)
      exact ctxKept_mod fun _ => ⟨rfl, rfl, rfl, rfl, rfl⟩
    · exact ctxKept_refl _
  unfold evLatch
  dsimp only
  split
  · exact ctxKept_refl _
  · split
    · exact ctxKept_of_seq countEv_seq j
    · split
      · refine ctxKept_trans ?_ (b _)
        exact ctxKept_mod fun _ => ⟨rfl, rfl, rfl, rfl, rfl⟩
      · exact ctxKept_mod fun _ => ⟨rfl, rfl, rfl, rfl, rfl⟩

/-- A fault stops its context with its status. -/
theorem faultCtx_st (s : State) (c op st : Nat) :
    (getCtx (faultCtx s c op st) c).st = .faulted ∧ (getCtx (faultCtx s c op st) c).fault = st := by
  unfold faultCtx
  dsimp only
  unfold stewEv
  have k (u : State) (r : Bool) : (getCtx (evLatch (modCtx u c fun x =>
      { x with st := .faulted, fault := st, faultInRing := r, haltReq := false }) 0 16) c).st = .faulted ∧
      (getCtx (evLatch (modCtx u c fun x => { x with st := .faulted, fault := st, faultInRing := r, haltReq := false }) 0 16) c).fault
        = st := by
    have h := evLatch_keep (modCtx u c fun x => { x with st := .faulted, fault := st, faultInRing := r, haltReq := false }) 0 16 c
    refine ⟨h.1.trans ?_, h.2.1.trans ?_⟩ <;> rw [getCtx_modCtx, if_pos rfl]
  exact k _ _

/-- The first failing check is the one at the front once those before it hold. -/
theorem firstFail_append {l : List (Bool × Nat)} {n : Nat} {m : List (Bool × Nat)} (h : ∀ e ∈ l, e.1 = false) :
    firstFail (l ++ (true, n) :: m) = some n := by
  induction l with
  | nil => rfl
  | cons e l ih =>
    obtain ⟨b, k⟩ := e
    have hb : b = false := h (b, k) (List.mem_cons_self ..)
    subst hb
    exact ih fun e he => h e (List.mem_cons_of_mem _ he)

/-- An instruction one of whose own checks fails faults its context with that check's status. -/
theorem oxRun_faults {c op : Nat} {w : Ox} {sh : Shape0} {chk : State → Ctx → List (Bool × Nat)} {eff : State → Ctx → State}
    {s : State} {st : Nat} (h : Issues s c op w sh) (hc : firstFail (chk (begun s c) (getCtx (begun s c) c)) = some st) :
    oxRun c op w sh chk eff s = endTurn (faultCtx (begun s c) c op st) c := by
  have hf := h.fetch
  have h1 : (decide (0xA0 ≤ op) && decide (op ≤ 0xAF) && !isStw c) = false := by
    by_cases ha : 0xA0 ≤ op
    · by_cases hb : op ≤ 0xAF
      · simp [isStw, h.steward ha hb]
      · simp [hb]
    · simp [ha]
  have h2 : (w.cond == 0xF) = false := by simpa using h.cond
  have hn : firstFail ((decide (0xA0 ≤ op) && decide (op ≤ 0xAF) && !isStw c, 0x13) :: (w.cond == 0xF, 0x11) ::
      (!shapeOk w sh, 0x11) :: chk (begun s c) (getCtx (begun s c) c)) = some st := by
    rw [h1, h2, h.shape]
    exact hc
  unfold oxRun
  rw [h.now]
  unfold begun at hf hn ⊢
  dsimp only at hf hn ⊢
  simp only [Bool.not_true, Bool.false_eq_true, if_false]
  generalize hq : (if ((getCtx (asDebug s c) c).wait == Wait.again || (getCtx (asDebug s c) c).run == Run.debug) = true then asDebug s c
    else takeSlot (asDebug s c) c) = q at *
  rw [hf]
  dsimp only
  rw [hn]

/-- What a fault at decode leaves. -/
theorem oxRun_faulted {c op : Nat} {w : Ox} {sh : Shape0} {chk : State → Ctx → List (Bool × Nat)} {eff : State → Ctx → State}
    {s : State} {st : Nat} (h : Issues s c op w sh) (hc : firstFail (chk (begun s c) (getCtx (begun s c) c)) = some st) :
    (getCtx (oxRun c op w sh chk eff s) c).st = .faulted ∧ (getCtx (oxRun c op w sh chk eff s) c).fault = st ∧
    ∀ j k, kget (getCtx (oxRun c op w sh chk eff s) j) k = kget (getCtx s j) k := by
  rw [oxRun_faults h hc]
  simp only [getCtx_endTurn]
  obtain ⟨a, b⟩ := faultCtx_st (begun s c) c op st
  refine ⟨a, b, fun j k => ?_⟩
  rw [kget_of_regs (faultCtx_regs j), begun_kget]

/-- A meaning of a context that exists answers its next state. -/
theorem unitOk_of {ok : Bool} (h : ok = true) (s : State) : unitOk ok s = .next s := by subst h; rfl

/-- A command whose unit exists answers with its effect. -/
theorem unitOk_next {u : Bool} {x t : State} (hu : u = true) (h : x = t) : unitOk u x = .next t := by rw [unitOk_of hu, h]

/-! ## Results and flags -/

theorem begun_only (s : State) (c : Nat) : Rel 1024 s (begun s c) := begun_rel rfl (Rel.refl s)

/-- Retirement of an instruction that writes kd and no flag. -/
theorem retireK_wrote {c op : Nat} {w : Ox} {sh : Shape0} {chk : State → Ctx → List (Bool × Nat)} {s : State} {d : BitVec 4}
    {f : State → Ctx → W64} (h : Issues s c op w sh) (hc : ∀ e ∈ chk (begun s c) (getCtx (begun s c) c), e.1 = false) :
    Wrote s (oxRun c op w sh chk (fun u x => retireK u c op w d (f u x)) s) c d (f (begun s c) (getCtx (begun s c) c)) ∧
    flagsKept s (oxRun c op w sh chk (fun u x => retireK u c op w d (f u x)) s) := by
  rw [oxRun_issues h hc]
  refine ⟨wrote_retireK (fun j i => begun_kget s c j i) (fun f hf => begun_prog s c f hf) (Rel.mono rfl (begun_only s c)), fun j => ?_⟩
  simp only [getCtx_endTurn]
  obtain ⟨a, b, e, g⟩ := retireK_flags (begun s c) c op w d (f (begun s c) (getCtx (begun s c) c)) j
  obtain ⟨a', b', e', g'⟩ := flags_of_regs (begun_regs s c j)
  exact ⟨a.trans a', b.trans b', e.trans e', g.trans g'⟩

/-- Retirement of an instruction that writes no register. -/
theorem retireSt_retired {c op : Nat} {w : Ox} {s u : State} {st : Nat} (hu : Rel 536871936 s u)
    (hr : ∀ j i, kget (getCtx u j) i = kget (getCtx s j) i)
    (hp : ∀ f, (getCtx s c).run = .prog f → (getCtx u c).run = .prog f ∧ (getCtx u c).pc = (getCtx s c).pc) :
    Retired s (endTurn (retireSt u c op w st) c) c where
  regs j i := by rw [getCtx_endTurn]; unfold retireSt; rw [retire_kget, hr]
  pc f h := by
    obtain ⟨a, b⟩ := hp f h
    rw [getCtx_endTurn]; unfold retireSt; rw [pc_retire _ _ _ _ _ _ f a, b]
  frame := Rel.onlyIn (ch := 549864450) (endTurn_rel rfl (retireSt_rel rfl (Rel.mono rfl hu)))
    (by intro p hp; cases p <;> first | rfl | (exact absurd (by decide) hp))

theorem setFlags_kget (x : Ctx) (y : Alu) (i : BitVec 4) : kget (setFlags x y) i = kget x i := rfl

/-- A context's flags set leave every register and program counter. -/
theorem setFlags_state (s : State) (c : Nat) (y : Alu) :
    (∀ j i, kget (getCtx (modCtx (begun s c) c fun x => setFlags x y) j) i = kget (getCtx s j) i) ∧
    (∀ f, (getCtx s c).run = .prog f → (getCtx (modCtx (begun s c) c fun x => setFlags x y) c).run = .prog f ∧
      (getCtx (modCtx (begun s c) c fun x => setFlags x y) c).pc = (getCtx s c).pc) ∧
    Rel 536871936 s (modCtx (begun s c) c fun x => setFlags x y) := by
  refine ⟨fun j i => ?_, fun f hf => ?_, Rel.modCtx' rfl rfl (Rel.mono rfl (begun_only s c))⟩
  · rw [getCtx_modCtx]; split
    · rw [setFlags_kget, begun_kget]
    · rw [begun_kget]
  · rw [getCtx_modCtx, if_pos rfl]; exact begun_prog s c f hf

/-- The flags as a result sets them. -/
def flagsOf (x : Ctx) (y : Alu) : Prop := x.z = (y.r == 0) ∧ x.n = bit y.r 63 ∧ x.c = y.c ∧ x.v = y.v

theorem flagsAre_of {x : Ctx} {y : Alu} {r : W64} {cf vf : Prop} (h : flagsOf x y) (hr : y.r = r) (hc : y.c = true ↔ cf)
    (hv : y.v = true ↔ vf) : flagsAre x r cf vf := by
  obtain ⟨a, b, c, d⟩ := h
  subst hr
  exact ⟨by rw [a]; simp, by rw [b, bit_eq], by rw [c]; exact hc, by rw [d]; exact hv⟩

/-- An instruction of the arithmetic family that issues and passes its checks. -/
theorem aluRun_done {c op : Nat} {w : Ox} {hasF : Bool} {chk : W64 → List (Bool × Nat)} {f : W64 → W64 → Alu} {s : State}
    (h : Issues s c op w (srcShape w (if hasF then 1 else 0) true)) (hc : ∀ e ∈ chk (src2 (getCtx s c) w), e.1 = false) :
    Wrote s (aluRun c op w hasF chk f s) c w.d (f (kget (getCtx s c) w.a) (src2 (getCtx s c) w)).r ∧
    (if (hasF && bit w.mod 0) = true then
        flagsOf (getCtx (aluRun c op w hasF chk f s) c) (f (kget (getCtx s c) w.a) (src2 (getCtx s c) w))
      else flagsSame (getCtx (aluRun c op w hasF chk f s) c) (getCtx s c)) ∧
    ∀ j, j ≠ c → flagsSame (getCtx (aluRun c op w hasF chk f s) j) (getCtx s j) := by
  unfold aluRun
  rw [oxRun_issues h (by rw [begun_src2]; exact hc)]
  simp only [begun_kget, begun_src2]
  generalize hy : f (kget (getCtx s c) w.a) (src2 (getCtx s c) w) = y
  by_cases hb : (hasF && bit w.mod 0) = true
  · simp only [hb, if_true]
    obtain ⟨h1, h2, h3⟩ := setFlags_state s c y
    refine ⟨wrote_retireK h1 h2 h3, ?_, fun j hj => ?_⟩
    · obtain ⟨a, b, e, g⟩ := retireK_flags (modCtx (begun s c) c fun x => setFlags x y) c op w w.d y.r c
      rw [getCtx_modCtx, if_pos rfl] at a b e g
      simp only [flagsOf, getCtx_endTurn]
      exact ⟨a, b, e, g⟩
    · obtain ⟨a, b, e, g⟩ := retireK_flags (modCtx (begun s c) c fun x => setFlags x y) c op w w.d y.r j
      rw [getCtx_modCtx, if_neg hj] at a b e g
      obtain ⟨a', b', e', g'⟩ := flags_of_regs (begun_regs s c j)
      simp only [flagsSame, getCtx_endTurn]
      exact ⟨a.trans a', b.trans b', e.trans e', g.trans g'⟩
  · simp only [hb, Bool.false_eq_true, if_false]
    have k (j : Nat) : flagsSame (getCtx (endTurn (retireK (begun s c) c op w w.d y.r) c) j) (getCtx s j) := by
      obtain ⟨a, b, e, g⟩ := retireK_flags (begun s c) c op w w.d y.r j
      obtain ⟨a', b', e', g'⟩ := flags_of_regs (begun_regs s c j)
      simp only [flagsSame, getCtx_endTurn]
      exact ⟨a.trans a', b.trans b', e.trans e', g.trans g'⟩
    exact ⟨wrote_retireK (fun j i => begun_kget s c j i) (fun f hf => begun_prog s c f hf) (Rel.mono rfl (begun_only s c)), k c,
      fun j _ => k j⟩

/-! ## What a retirement leaves of a context -/

/-- What a context holds besides its registers, its program counter and its completion ring is the same in two records. -/
structure CtxData (x y : Ctx) : Prop where
  evp : y.evp = x.evp
  evm : y.evm = x.evm
  stack : y.stack = x.stack
  atWait : y.atWait = x.atWait
  staging : y.staging = x.staging
  log : y.log = x.log
  stores : y.stores = x.stores
  enable : y.enable = x.enable
  fault : y.fault = x.fault

theorem CtxData.refl (x : Ctx) : CtxData x x := ⟨rfl, rfl, rfl, rfl, rfl, rfl, rfl, rfl, rfl⟩

theorem CtxData.trans {x y z : Ctx} (a : CtxData x y) (b : CtxData y z) : CtxData x z :=
  ⟨b.evp.trans a.evp, b.evm.trans a.evm, b.stack.trans a.stack, b.atWait.trans a.atWait, b.staging.trans a.staging, b.log.trans a.log,
   b.stores.trans a.stores, b.enable.trans a.enable, b.fault.trans a.fault⟩

theorem CtxData.mod {s : State} {c j : Nat} {f : Ctx → Ctx} (hf : ∀ x, CtxData x (f x)) :
    CtxData (getCtx s j) (getCtx (modCtx s c f) j) := by
  rw [getCtx_modCtx]; split
  · exact hf _
  · exact CtxData.refl _

theorem CtxData.of_seq {s t : State} (h : t.seq = s.seq) (j : Nat) : CtxData (getCtx s j) (getCtx t j) := by
  rw [getCtx_congr h]; exact CtxData.refl _

theorem rest_data (x : Ctx) : CtxData x (rest x) := by
  unfold rest
  dsimp only
  split
  · split <;> exact ⟨rfl, rfl, rfl, rfl, rfl, rfl, rfl, rfl, rfl⟩
  · exact ⟨rfl, rfl, rfl, rfl, rfl, rfl, rfl, rfl, rfl⟩

theorem retireCount_data (s : State) (c st j : Nat) : CtxData (getCtx s j) (getCtx (retireCount s c st) j) := by
  unfold retireCount
  dsimp only
  refine CtxData.trans ?_ (CtxData.of_seq countEv_seq j)
  refine CtxData.trans ?_ (CtxData.of_seq topDown_seq j)
  refine CtxData.trans ?_ (CtxData.of_seq topDown_seq j)
  exact CtxData.mod fun _ => ⟨rfl, rfl, rfl, rfl, rfl, rfl, rfl, rfl, rfl⟩

theorem postRec_data (s : State) (c : Nat) (r : Rec) (j : Nat) : CtxData (getCtx s j) (getCtx (postRec s c r) j) := by
  have ring (s : State) (a b d) : CtxData (getCtx s j) (getCtx (ringWrite s a b d) j) := by
    unfold ringWrite; split <;> exact CtxData.refl _
  unfold postRec
  dsimp only
  split
  · exact CtxData.mod fun _ => ⟨rfl, rfl, rfl, rfl, rfl, rfl, rfl, rfl, rfl⟩
  · split
    · exact CtxData.refl _
    · split
      · exact CtxData.mod fun _ => ⟨rfl, rfl, rfl, rfl, rfl, rfl, rfl, rfl, rfl⟩
      · unfold cqWrite
        dsimp only
        split
        · refine CtxData.trans ?_ (CtxData.of_seq vecSend_seq j)
          refine CtxData.trans ?_ (CtxData.mod fun _ => ⟨rfl, rfl, rfl, rfl, rfl, rfl, rfl, rfl, rfl⟩)
          refine CtxData.trans ?_ (CtxData.of_seq countEv_seq j)
          exact CtxData.trans (ring _ _ _ _) (CtxData.mod fun _ => ⟨rfl, rfl, rfl, rfl, rfl, rfl, rfl, rfl, rfl⟩)
        · refine CtxData.trans ?_ (CtxData.of_seq countEv_seq j)
          exact CtxData.trans (ring _ _ _ _) (CtxData.mod fun _ => ⟨rfl, rfl, rfl, rfl, rfl, rfl, rfl, rfl, rfl⟩)

theorem recIf_data (s : State) (c op : Nat) (w : Ox) (st : Nat) (r : Option W64) (j : Nat) :
    CtxData (getCtx s j) (getCtx (recIf s c op w st r) j) := by
  unfold recIf
  split
  · exact postRec_data _ _ _ _
  · exact CtxData.refl _

theorem getCtx_mgmtSend (s : State) (p k : Nat) (b : List Byte) (j : Nat) : getCtx (mgmtSend s p k b) j = getCtx s j :=
  getCtx_congr mgmtSend_seq j

theorem blockResult_data (s : State) (c st j : Nat) : CtxData (getCtx s j) (getCtx (blockResult s c st) j) := by
  unfold blockResult
  dsimp only
  exact CtxData.trans (CtxData.of_seq mgmtSend_seq j) (CtxData.mod fun _ => ⟨rfl, rfl, rfl, rfl, rfl, rfl, rfl, rfl, rfl⟩)

theorem takeHalt_data (s : State) (c j : Nat) : CtxData (getCtx s j) (getCtx (takeHalt s c) j) := by
  unfold takeHalt
  exact CtxData.mod fun _ => by split <;> exact ⟨rfl, rfl, rfl, rfl, rfl, rfl, rfl, rfl, rfl⟩

theorem endEntry_data (s : State) (c r j : Nat) : CtxData (getCtx s j) (getCtx (endEntry s c r) j) := by
  unfold endEntry
  exact CtxData.mod fun x => CtxData.trans (y := { x with ringTurn := (r + 1) % 4 }) ⟨rfl, rfl, rfl, rfl, rfl, rfl, rfl, rfl, rfl⟩ (rest_data _)

theorem advance_data (s : State) (c j : Nat) : CtxData (getCtx s j) (getCtx (advance s c) j) := by
  unfold advance
  refine CtxData.trans ?_ (takeHalt_data _ _ _)
  unfold moveOn
  dsimp only
  split
  · exact endEntry_data _ _ _ _
  · exact CtxData.mod fun _ => ⟨rfl, rfl, rfl, rfl, rfl, rfl, rfl, rfl, rfl⟩
  · split
    · refine CtxData.trans ?_ (CtxData.mod rest_data)
      refine CtxData.trans ?_ (blockResult_data _ _ _ _)
      exact CtxData.mod fun _ => ⟨rfl, rfl, rfl, rfl, rfl, rfl, rfl, rfl, rfl⟩
    · exact CtxData.mod fun _ => ⟨rfl, rfl, rfl, rfl, rfl, rfl, rfl, rfl, rfl⟩
  · exact CtxData.mod fun _ => ⟨rfl, rfl, rfl, rfl, rfl, rfl, rfl, rfl, rfl⟩
  · exact CtxData.refl _

theorem retire_data (s : State) (c op : Nat) (w : Ox) (st : Nat) (r : Option W64) (j : Nat) :
    CtxData (getCtx s j) (getCtx (retire s c op w st r) j) := by
  unfold retire
  exact CtxData.trans (CtxData.trans (retireCount_data _ _ _ _) (recIf_data _ _ _ _ _ _ _)) (advance_data _ _ _)

theorem retireK_data (s : State) (c op : Nat) (w : Ox) (d : BitVec 4) (v : W64) (j : Nat) :
    CtxData (getCtx s j) (getCtx (retireK s c op w d v) j) := by
  unfold retireK
  refine CtxData.trans ?_ (retire_data _ _ _ _ _ _ _)
  exact CtxData.mod fun x => by unfold kset; split <;> exact ⟨rfl, rfl, rfl, rfl, rfl, rfl, rfl, rfl, rfl⟩

theorem begun_data (s : State) (c j : Nat) : CtxData (getCtx s j) (getCtx (begun s c) j) := by
  rw [getCtx_begun]; exact ⟨rfl, rfl, rfl, rfl, rfl, rfl, rfl, rfl, rfl⟩

/-! ## Events and transfers -/

/-- The pending events of every context after one is raised in one (R229). -/
theorem evLatch_evp (s : State) (c e j : Nat) :
    (getCtx (evLatch s c e) j).evp =
      if j = c ∧ (getCtx s c).st ≠ .off ∧ (getCtx s c).st ≠ .inReset ∧ bit (getCtx s c).evm e = true then
        (getCtx s j).evp ||| (1 <<< e : Nat)
      else (getCtx s j).evp := by
  have b (u : State) : (getCtx (evtVec u c) j).evp = (getCtx u j).evp := by
    unfold evtVec
    dsimp only
    split
    · rw [getCtx_congr vecSend_seq, getCtx_modCtx]; split <;> rfl
    · rfl
  unfold evLatch
  dsimp only
  by_cases h : ((getCtx s c).st == .off || (getCtx s c).st == .inReset) = true
  · rw [if_pos h, if_neg]
    rintro ⟨-, h1, h2, -⟩
    simp [h1, h2] at h
  · rw [if_neg h]
    simp only [Bool.or_eq_true, beq_iff_eq, not_or] at h
    by_cases hb : bit (getCtx s c).evm e = true
    · have hb' : (!bit (getCtx s c).evm e) = false := by simp [hb]
      rw [hb']
      simp only [Bool.false_eq_true, if_false]
      have g : (getCtx (if ((getCtx s c).evtIrq && !waitsFor (getCtx s c) e) = true then
          evtVec (modCtx s c fun x => { x with evp := x.evp ||| (1 <<< e : Nat) }) c
          else modCtx s c fun x => { x with evp := x.evp ||| (1 <<< e : Nat) }) j).evp =
          (getCtx (modCtx s c fun x => { x with evp := x.evp ||| (1 <<< e : Nat) }) j).evp := by
        split
        · exact b _
        · rfl
      rw [g, getCtx_modCtx]
      by_cases hj : j = c
      · rw [if_pos hj, if_pos ⟨hj, h.1, h.2, hb⟩]
      · rw [if_neg hj, if_neg (fun x => hj x.1)]
    · have hb' : (!bit (getCtx s c).evm e) = true := by simp [hb]
      rw [if_pos hb', if_neg (fun x => hb x.2.2.2), ctx_countEv]

/-- A control transfer sets the program counter. -/
theorem goTo_pc (s : State) (c pc : Nat) : (getCtx (goTo s c pc) c).pc = BitVec.ofNat 20 pc := by
  unfold goTo takeHalt
  rw [getCtx_modCtx, if_pos rfl, getCtx_modCtx, if_pos rfl]
  split <;> rfl

theorem goTo_data (s : State) (c pc j : Nat) : CtxData (getCtx s j) (getCtx (goTo s c pc) j) := by
  unfold goTo
  refine CtxData.trans ?_ (takeHalt_data _ _ _)
  exact CtxData.mod fun _ => ⟨rfl, rfl, rfl, rfl, rfl, rfl, rfl, rfl, rfl⟩

theorem fetchFault_begun (s : State) (c : Nat) : fetchFault (begun s c) c = fetchFault s c := by
  have hd (q : Chk) : dklLine (begun s c) q = dklLine s q := by unfold dklLine; rw [begun_dkl]
  have hb : (begun s c).seq.psBad = s.seq.psBad := ((begun_rel (ch := 1024) rfl (Rel.refl s)).ps rfl).2
  by_cases h : (debugIssue s c && (getCtx s c).run == .idle) = true
  · simp only [Bool.and_eq_true, beq_iff_eq] at h
    have hr : (getCtx (begun s c) c).run = .debug := by
      have : asDebug s c = modCtx s c fun x => { x with run := .debug } := by unfold asDebug; rw [h.1, h.2]; rfl
      unfold begun
      dsimp only
      rw [this]
      simp
    unfold fetchFault
    dsimp only
    rw [hr, h.2]
  · have h' : (debugIssue s c && (getCtx s c).run == .idle) = false := by simpa using h
    unfold fetchFault
    dsimp only
    rw [getCtx_begun_of s c c h', hb]
    split
    · rw [hd]
    · rfl

/-- An instruction's command answers its effect on the begun state, where it issues and passes its checks. -/
theorem res_issues {r : Res} {c op : Nat} {w : Ox} {sh : Shape0} {chk : State → Ctx → List (Bool × Nat)} {eff : State → Ctx → State}
    {s : State} (hi : r = unitOk (c < 18) (oxRun c op w sh chk eff s)) (h : Issues s c op w sh)
    (hc : ∀ e ∈ chk (begun s c) (getCtx (begun s c) c), e.1 = false) :
    r = .next (endTurn (eff (begun s c) (getCtx (begun s c) c)) c) := by
  rw [hi, unitOk_of (decide_eq_true h.unit), oxRun_issues h hc]

/-- The registers after a wait that ends with a value for `d`. -/
theorem finishWait_kget (s : State) (c : Nat) (d : BitVec 4) (v : W64) (j : Nat) (i : BitVec 4) :
    kget (getCtx (finishWait s c (some (d, v))) j) i = if j = c ∧ d ≠ 0 ∧ i = d then v else kget (getCtx s j) i := by
  have e (u : State) : regs (getCtx (advance (modCtx u c fun x => { x with waitRec := none }) c) j) = regs (getCtx u j) := by
    rw [advance_regs, getCtx_modCtx]; split <;> rfl
  unfold finishWait
  dsimp only
  rw [kget_of_regs (e _)]
  have g : kget (getCtx (modCtx (retireCount s c 0) c fun y => kset y d v) j) i =
      if j = c ∧ d ≠ 0 ∧ i = d then v else kget (getCtx s j) i := by
    rw [getCtx_modCtx]
    by_cases h : j = c
    · subst h
      simp only [if_true, kget_kset, true_and, kget_of_regs (retireCount_regs j)]
    · simp only [h, if_false, false_and, kget_of_regs (retireCount_regs j)]
  split
  · rw [kget_of_regs (postRec_regs j), g]
  · exact g

theorem finishWait_data (s : State) (c : Nat) (v : Option (BitVec 4 × W64)) (j : Nat) :
    CtxData (getCtx s j) (getCtx (finishWait s c v) j) := by
  unfold finishWait
  dsimp only
  refine CtxData.trans ?_ (advance_data _ _ _)
  refine CtxData.trans ?_ (CtxData.mod fun _ => ⟨rfl, rfl, rfl, rfl, rfl, rfl, rfl, rfl, rfl⟩)
  rcases v with _ | ⟨d, x⟩
  · dsimp only
    split
    · refine CtxData.trans ?_ (postRec_data _ _ _ _)
      exact retireCount_data s c 0 j
    · exact retireCount_data s c 0 j
  · dsimp only
    have g : CtxData (getCtx s j) (getCtx (modCtx (retireCount s c 0) c fun y => kset y d x) j) := by
      refine CtxData.trans (retireCount_data s c 0 j) ?_
      exact CtxData.mod fun x => by unfold kset; split <;> exact ⟨rfl, rfl, rfl, rfl, rfl, rfl, rfl, rfl, rfl⟩
    split
    · refine CtxData.trans ?_ (postRec_data _ _ _ _)
      exact g
    · exact g

/-- Retirement with a value, from a state with the begun state's registers and program counters. -/
theorem wrote_of_regs {s u : State} {c op : Nat} {w : Ox} {d : BitVec 4} {v : W64}
    (hr : ∀ j, regs (getCtx u j) = regs (getCtx s j))
    (hp : (getCtx u c).run = (getCtx (begun s c) c).run ∧ (getCtx u c).pc = (getCtx (begun s c) c).pc)
    (hu : Rel 12993538 s u) : Wrote s (endTurn (retireK u c op w d v) c) c d v ∧ flagsKept s (endTurn (retireK u c op w d v) c) := by
  refine ⟨⟨fun j i => ?_, fun f hf => ?_, ?_⟩, fun j => ?_⟩
  · rw [getCtx_endTurn, retireK_kget, kget_of_regs (hr j)]
  · obtain ⟨a, b⟩ := begun_prog s c f hf
    rw [getCtx_endTurn, pc_retireK _ _ _ _ _ _ f (hp.1.trans a), hp.2, b]
  · exact (endTurn_rel (ch := 549864450) rfl (retireK_rel rfl (Rel.mono rfl hu))).onlyIn
      (by intro p hp; cases p <;> first | rfl | (exact absurd (by decide) hp))
  · rw [getCtx_endTurn]
    obtain ⟨a, b, e, g⟩ := retireK_flags u c op w d v j
    obtain ⟨a', b', e', g'⟩ := flags_of_regs (hr j)
    exact ⟨a.trans a', b.trans b', e.trans e', g.trans g'⟩

/-- Retirement with a status, from a state with the begun state's registers and program counters. -/
theorem retired_of_regs {s u : State} {c op : Nat} {w : Ox} {st : Nat}
    (hr : ∀ j, regs (getCtx u j) = regs (getCtx s j))
    (hp : (getCtx u c).run = (getCtx (begun s c) c).run ∧ (getCtx u c).pc = (getCtx (begun s c) c).pc)
    (hu : Rel 12993538 s u) : Retired s (endTurn (retireSt u c op w st) c) c ∧ flagsKept s (endTurn (retireSt u c op w st) c) := by
  refine ⟨⟨fun j i => ?_, fun f hf => ?_, ?_⟩, fun j => ?_⟩
  · rw [getCtx_endTurn, kget_of_regs (retireSt_regs j), kget_of_regs (hr j)]
  · obtain ⟨a, b⟩ := begun_prog s c f hf
    rw [getCtx_endTurn]; unfold retireSt
    rw [pc_retire _ _ _ _ _ _ f (hp.1.trans a), hp.2, b]
  · exact (endTurn_rel (ch := 549864450) rfl (retireSt_rel rfl (Rel.mono rfl hu))).onlyIn
      (by intro p hp; cases p <;> first | rfl | (exact absurd (by decide) hp))
  · rw [getCtx_endTurn]
    exact flags_of_regs ((retireSt_regs j).trans (hr j))

end Sys2Proof.Machine
end

