-- ==== Sys2Proof/Laws/Done.lean ====
section
/-!
SUPPORT. Retirement after an effect on the configuration: the frames `Did` and `Gave`, and the fabric instructions.
-/

namespace Sys2Proof.Machine

open Sys2Proof.Safety

/-! ## Waits -/

theorem wait_of_mod {s : State} {c j : Nat} {f : Ctx → Ctx} (h : ∀ x, (f x).wait = x.wait) :
    (getCtx (modCtx s c f) j).wait = (getCtx s j).wait := by
  rw [getCtx_modCtx]; split
  · exact h _
  · rfl

theorem rest_wait (x : Ctx) : (rest x).wait = x.wait := by
  unfold rest
  dsimp only
  split
  · split <;> rfl
  · rfl

theorem retireCount_wait (s : State) (c st : Nat) : (getCtx (retireCount s c st) c).wait = .none := by
  unfold retireCount
  dsimp only
  rw [ctx_countEv, getCtx_congr topDown_seq, getCtx_congr topDown_seq]
  unfold unwait
  rw [getCtx_modCtx, if_pos rfl]

theorem postRec_wait (s : State) (c : Nat) (r : Rec) (j : Nat) : (getCtx (postRec s c r) j).wait = (getCtx s j).wait := by
  have ring (s : State) (a b d) : getCtx (ringWrite s a b d) j = getCtx s j := by unfold ringWrite; split <;> rfl
  unfold postRec
  dsimp only
  split
  · exact wait_of_mod fun _ => rfl
  · split
    · rfl
    · split
      · exact wait_of_mod fun _ => rfl
      · unfold cqWrite
        dsimp only
        split
        · rw [getCtx_congr vecSend_seq]
          refine (wait_of_mod ?_).trans ?_
          · exact fun _ => rfl
          · rw [ctx_countEv]
            refine (wait_of_mod ?_).trans ?_
            · exact fun _ => rfl
            · rw [ring]
        · rw [ctx_countEv]
          refine (wait_of_mod ?_).trans ?_
          · exact fun _ => rfl
          · rw [ring]

theorem recIf_wait (s : State) (c op : Nat) (w : Ox) (st : Nat) (r : Option W64) (j : Nat) :
    (getCtx (recIf s c op w st r) j).wait = (getCtx s j).wait := by
  unfold recIf
  split
  · exact postRec_wait _ _ _ _
  · rfl

theorem advance_wait (s : State) (c j : Nat) : (getCtx (advance s c) j).wait = (getCtx s j).wait := by
  unfold advance takeHalt
  refine (wait_of_mod ?_).trans ?_
  · intro x; split <;> rfl
  unfold moveOn
  dsimp only
  split
  · unfold endEntry; exact wait_of_mod fun x => rest_wait _
  · exact wait_of_mod fun _ => rfl
  · split
    · rw [wait_of_mod rest_wait]
      unfold blockResult
      dsimp only
      refine (wait_of_mod ?_).trans ?_
      · exact fun _ => rfl
      · rw [getCtx_mgmtSend]
        exact wait_of_mod fun _ => rfl
    · exact wait_of_mod fun _ => rfl
  · exact wait_of_mod fun _ => rfl
  · rfl

theorem retire_wait (s : State) (c op : Nat) (w : Ox) (st : Nat) (r : Option W64) : (getCtx (retire s c op w st r) c).wait = .none := by
  unfold retire
  rw [advance_wait, recIf_wait, retireCount_wait]

theorem finishWait_wait (s : State) (c : Nat) (v : Option (BitVec 4 × W64)) : (getCtx (finishWait s c v) c).wait = .none := by
  have k (u : State) (d x) : (getCtx (modCtx u c fun y => kset y d x) c).wait = (getCtx u c).wait :=
    wait_of_mod fun y => by unfold kset; split <;> rfl
  unfold finishWait
  dsimp only
  rw [advance_wait]
  refine (wait_of_mod ?_).trans ?_
  · exact fun _ => rfl
  rcases v with _ | ⟨d, x⟩
  · dsimp only
    split
    · rw [postRec_wait, retireCount_wait]
    · rw [retireCount_wait]
  · dsimp only
    split
    · rw [postRec_wait, k, retireCount_wait]
    · rw [k, retireCount_wait]

/-! ## Retirement after an effect -/

/-- The parts a retirement can change. -/
def retParts : List Part := [.cmd, .seq, .port, .cnt, .stk, .out, .fresh]

theorem did_of {l : List Part} {ch : Nat} {s u : State} {c op : Nat} {w : Ox} {st : Nat} (hu : Rel ch s u)
    (hr : ∀ j, regs (getCtx u j) = regs (getCtx s j)) (hc : 12993538 &&& ch = 12993538)
    (hl : ∀ p, p ∉ l ++ [.cmd, .seq, .port, .cnt, .stk, .out, .fresh] → ch.testBit (partIdx p) = false) :
    Did l s (endTurn (retireSt u c op w st) c) c where
  regs j i := by rw [getCtx_endTurn, kget_of_regs (retireSt_regs j), kget_of_regs (hr j)]
  flags j := by rw [getCtx_endTurn]; exact flags_of_regs ((retireSt_regs j).trans (hr j))
  ended := by rw [getCtx_endTurn]; exact retire_wait _ _ _ _ _ _
  frame := (endTurn_rel (sub_of hc rfl) (retireSt_rel hc hu)).onlyIn hl

theorem gave_of {l : List Part} {ch : Nat} {s u : State} {c op : Nat} {w : Ox} {d : BitVec 4} {v : W64} (hu : Rel ch s u)
    (hr : ∀ j, regs (getCtx u j) = regs (getCtx s j)) (hc : 549864450 &&& ch = 549864450)
    (hl : ∀ p, p ∉ l ++ [.cmd, .seq, .port, .cnt, .stk, .out, .fresh, .registers] → ch.testBit (partIdx p) = false) :
    Gave l s (endTurn (retireK u c op w d v) c) c d v where
  regs j i := by rw [getCtx_endTurn, retireK_kget, kget_of_regs (hr j)]
  flags j := by
    rw [getCtx_endTurn]
    obtain ⟨a, b, e, g⟩ := retireK_flags u c op w d v j
    obtain ⟨a', b', e', g'⟩ := flags_of_regs (hr j)
    exact ⟨a.trans a', b.trans b', e.trans e', g.trans g'⟩
  ended := by rw [getCtx_endTurn]; exact retire_wait _ _ _ _ _ _
  frame := (endTurn_rel (sub_of hc rfl) (retireK_rel hc hu)).onlyIn hl

/-! ## Ports through a retirement -/

theorem PortsKept.refl (s : State) : portsKept s s := fun _ => rfl
theorem PortsKept.trans {s t u : State} (a : portsKept s t) (b : portsKept t u) : portsKept s u := fun p => (b p).trans (a p)
theorem PortsKept.of {s t : State} (h : t.port = s.port) : portsKept s t := fun p => by unfold getPort; rw [h]
theorem PortsKept.forL {f : State → Nat → State} (hf : ∀ s i, portsKept s (f s i)) (l : List Nat) (s : State) : portsKept s (forL l s f) := by
  unfold Machine.forL
  induction l generalizing s with
  | nil => exact PortsKept.refl s
  | cons i l ih => exact PortsKept.trans (hf s i) (ih (f s i))

theorem PortsKept.mod {s : State} {p : Nat} {f : Port → Port} (hf : ∀ x, sansIfl (f x) = sansIfl x) : portsKept s (modPort s p f) := by
  intro q
  rw [getPort_modPort]
  split
  · exact hf _
  · rfl

theorem PortsKept.emit {s u : State} {e : Emit} (h : portsKept s u) : portsKept s (Machine.emit u e) := h
theorem PortsKept.ctx {s u : State} {c : Nat} {f : Ctx → Ctx} (h : portsKept s u) : portsKept s (modCtx u c f) := h

theorem mgmtEmit_ports (s : State) (p k : Nat) (m : Mgmt) : portsKept s (mgmtEmit s p k m) := by
  unfold mgmtEmit
  split
  · dsimp only
    refine PortsKept.emit (PortsKept.trans (PortsKept.of (t := (freeBelow s 65536).2) rfl) (PortsKept.mod ?_))
    exact fun _ => rfl
  · exact PortsKept.refl s

theorem mgmtSend_ports (s : State) (d k : Nat) (b : List Byte) : portsKept s (mgmtSend s d k b) := by
  unfold mgmtSend
  dsimp only
  exact PortsKept.trans (PortsKept.of rfl) (mgmtEmit_ports _ _ _ _)

theorem blockResult_ports (s : State) (c st : Nat) : portsKept s (blockResult s c st) := by
  unfold blockResult
  dsimp only
  exact PortsKept.ctx (mgmtSend_ports _ _ _ _)

theorem advance_ports (s : State) (c : Nat) : portsKept s (advance s c) := by
  unfold advance
  refine PortsKept.trans (t := moveOn s c) ?_ (PortsKept.of (by simp))
  unfold moveOn
  dsimp only
  split
  · exact PortsKept.of rfl
  · exact PortsKept.of rfl
  · split
    · exact PortsKept.ctx (PortsKept.trans (PortsKept.ctx (PortsKept.refl s)) (blockResult_ports _ _ _))
    · exact PortsKept.of rfl
  · exact PortsKept.of rfl
  · exact PortsKept.refl s

theorem retire_ports (s : State) (c op : Nat) (w : Ox) (st : Nat) (r : Option W64) : portsKept s (retire s c op w st r) := by
  unfold retire
  exact PortsKept.trans (t := recIf (retireCount s c st) c op w st r) (PortsKept.of (by simp)) (advance_ports _ _)

theorem endTurn_ports (s : State) (c : Nat) : portsKept s (endTurn s c) := PortsKept.of (by simp)

theorem takeReady_ports (s : State) (i : Nat) : portsKept s (takeReady s i) := by
  unfold takeReady
  dsimp only
  split
  · exact mgmtSend_ports _ _ _ _
  · exact PortsKept.refl s

theorem restartTakes_ports (o s : State) : portsKept s (restartTakes o s) := by
  unfold restartTakes
  dsimp only
  refine PortsKept.trans ?_ (PortsKept.forL takeReady_ports _ _)
  exact PortsKept.of rfl

/-! ## Fabric instructions -/

/-- A begun state differs from its state in the sequencer only. -/
theorem begun_eq (s : State) (c : Nat) : ∃ q, begun s c = { s with seq := q } := by
  unfold begun asDebug takeSlot
  dsimp only
  split <;> split <;> exact ⟨_, rfl⟩

theorem fabChk_begun (s : State) (k c op : Nat) (imm : W32) (B ka kb : W64) :
    fabChk (begun s k) c op imm B ka kb = fabChk s c op imm B ka kb := by
  obtain ⟨q, h⟩ := begun_eq s k
  rw [h]; rfl

/-- The rows of a fabric instruction's constructors: its op field, and for the first row of an opcode the reserved ones. -/
theorem fabForm_exec {i : Instr} {c op sub : Nat} {w : Ox} (h : fabForm i = some (c, op, sub, w)) (hs : fabSub op w.imm = sub) :
    ∃ row : Nat → Bool, row (fabSub op w.imm) = true ∧ ∀ s, exec i s = unitOk (c < 18) (fabRun c op row w s) := by
  cases i <;> simp only [fabForm, Option.some.injEq, Prod.mk.injEq, reduceCtorEq] at h <;>
    (obtain ⟨rfl, rfl, rfl, rfl⟩ := h; exact ⟨_, by first | rfl | (rw [hs]; rfl), fun _ => rfl⟩)

/-- A fabric instruction that issues and passes its checks comes to its effect. -/
theorem fab_issues {i : Instr} {s : State} {c op sub : Nat} {w : Ox} {take : Bool} (h : FabIssues i s c op sub w take)
    (h1 : (fabRead op sub && take) = false) (h2 : (fabTakeOnly op sub && !take) = false) :
    exec i s = .next (endTurn (if take then stageItem (begun s c) c op w (getCtx (begun s c) c)
      else fabDirect (begun s c) c op w (getCtx (begun s c) c)) c) := by
  obtain ⟨row, hr, he⟩ := fabForm_exec h.form h.row
  rw [he, unitOk_of (decide_eq_true h.issues.unit)]
  unfold fabRun
  dsimp only
  rw [hr]
  simp only [Bool.not_true, Bool.false_eq_true, if_false]
  rw [h.row, h.staged]
  rw [oxRun_issues h.issues]
  intro e he
  simp only [List.mem_cons] at he
  rcases he with rfl | rfl | he
  · exact h1
  · exact h2
  · rw [fabChk_begun, begun_kget, begun_kget] at he
    exact h.checks e he

/-- What holds of the state after a fabric instruction beside its frame: the configuration its effect left. -/
structure CfgOf (u t : State) : Prop where
  glb : t.glb = u.glb
  pool : t.pool = u.pool
  home : t.home = u.home
  dkl : t.dkl = u.dkl
  mov : t.mov = u.mov
  ten : t.ten = u.ten
  quire : t.quire = u.quire
  core : t.core = u.core
  ports : portsKept u t

theorem CfgOf.trans {s t u : State} (a : CfgOf s t) (b : CfgOf t u) : CfgOf s u :=
  ⟨b.glb.trans a.glb, b.pool.trans a.pool, b.home.trans a.home, b.dkl.trans a.dkl, b.mov.trans a.mov, b.ten.trans a.ten,
   b.quire.trans a.quire, b.core.trans a.core, PortsKept.trans a.ports b.ports⟩

theorem restartTakes_cfg (o u : State) : CfgOf u (restartTakes o u) :=
  let r := restartTakes_rel (ch := 12865536) (x0 := o) rfl (Rel.refl u)
  ⟨r.f0 rfl, r.f7 rfl, r.f8 rfl, r.f9 rfl, r.f11 rfl, r.f13 rfl, r.f15 rfl, r.f16 rfl, restartTakes_ports _ _⟩

theorem retire_cfg (u : State) (c op : Nat) (w : Ox) (st : Nat) (r : Option W64) : CfgOf u (retire u c op w st r) :=
  let e := retire_rel (ch := 12993538) (x1 := c) (x2 := op) (x3 := w) (x4 := st) (x5 := r) rfl (Rel.refl u)
  ⟨e.f0 rfl, e.f7 rfl, e.f8 rfl, e.f9 rfl, e.f11 rfl, e.f13 rfl, e.f15 rfl, e.f16 rfl, retire_ports _ _ _ _ _ _⟩

theorem endTurn_cfg (u : State) (c : Nat) : CfgOf u (endTurn u c) :=
  let e := endTurn_rel (ch := 1024) (x1 := c) rfl (Rel.refl u)
  ⟨e.f0 rfl, e.f7 rfl, e.f8 rfl, e.f9 rfl, e.f11 rfl, e.f13 rfl, e.f15 rfl, e.f16 rfl, endTurn_ports _ _⟩

theorem retireSt_cfg (u : State) (c op : Nat) (w : Ox) (st : Nat) : CfgOf u (endTurn (retireSt u c op w st) c) :=
  (retire_cfg u c op w st none).trans (endTurn_cfg _ _)

theorem retireK_cfg (u : State) (c op : Nat) (w : Ox) (d : BitVec 4) (v : W64) : CfgOf u (endTurn (retireK u c op w d v) c) :=
  have a : CfgOf u (modCtx u c fun x => kset x d v) :=
    ⟨rfl, rfl, rfl, rfl, rfl, rfl, rfl, rfl, PortsKept.ctx (PortsKept.refl u)⟩
  have b : CfgOf u (retireK u c op w d v) := a.trans (retire_cfg _ _ _ _ _ _)
  b.trans (endTurn_cfg _ _)

theorem Rel.fabOk {ch : Nat} {s v : State} (h : Rel ch s v) : Rel ch s (Machine.fabOk v).s := h
theorem Rel.fabMk {ch st : Nat} {kd : W64} {s v : State} (h : Rel ch s v) : Rel ch s (Fab.mk st kd v).s := h

theorem fab_did {i : Instr} {s : State} {c op sub : Nat} {w : Ox} {f : Fab} {l : List Part} {ch : Nat} (h : FabIssues i s c op sub w false)
    (ht : fabTakeOnly op sub = false)
    (hf : fabApply (begun s c) c op w.imm w.B (kget (getCtx s c) w.a) (kget (getCtx s c) w.b) = f) (h0 : f.st = 0)
    (hk : (op == 0x40 || fabRead op sub) = false)
    (hw : (op == 0x45 && sub == 7 && f.s.home.walks.length != s.home.walks.length) = false)
    (hm : (op == 0x46 && sub == 1 && (getMir f.s (fld w.imm 0 3)).closing) = false)
    (hu : Rel ch s f.s) (hr : ch.testBit 29 = false) (hc : 12997634 &&& ch = 12997634)
    (hl : ∀ p, p ∉ l ++ [.cmd, .seq, .port, .cnt, .stk, .out, .fresh] → ch.testBit (partIdx p) = false) :
    ∃ t, exec i s = .next t ∧ Did l s t c ∧ CfgOf f.s t := by
  have hx := fab_issues h (by simp) (by simp [ht])
  simp only [Bool.false_eq_true, if_false] at hx
  have hb : fabDirect (begun s c) c op w (getCtx (begun s c) c) = retireSt (restartTakes (begun s c) f.s) c op w 0 := by
    have e := restartTakes_cfg (begun s c) f.s
    unfold fabDirect
    dsimp only
    rw [begun_kget, begun_kget, hf, h0]
    simp only [bne_self_eq_false, Bool.false_eq_true, if_false]
    rw [h.row, e.home, begun_home]
    unfold getMir at hm ⊢
    rw [e.core]
    have a1 : (decide (op = 0x45) && decide (sub = 7) && f.s.home.walks.length != s.home.walks.length) = false := hw
    have a2 : (decide (op = 0x46) && decide (sub = 1) && (tget {} f.s.core.mirror (fld w.imm 0 3)).closing) = false := hm
    have a3 : (decide (op = 0x40) || fabRead op sub) = false := hk
    rw [a1, a2, a3]
    rfl
  rw [hb] at hx
  refine ⟨_, hx, did_of (ch := ch) (restartTakes_rel ?_ hu) ?_ ?_ hl, (restartTakes_cfg _ _).trans (retireSt_cfg _ _ _ _ _)⟩
  · exact sub_of hc rfl
  · intro j
    have e := (restartTakes_rel (ch := 12865536) (x0 := begun s c) rfl (Rel.refl f.s)).regs rfl j
    rw [e]; exact hu.regs hr j
  · exact sub_of hc rfl

theorem fab_gave {i : Instr} {s : State} {c op sub : Nat} {w : Ox} {f : Fab} {l : List Part} {ch m : Nat} (h : FabIssues i s c op sub w false)
    (ht : fabTakeOnly op sub = false)
    (hf : fabApply (begun s c) c op w.imm w.B (kget (getCtx s c) w.a) (kget (getCtx s c) w.b) = f) (h0 : f.st = 0)
    (hk : (op == 0x40 || fabRead op sub) = true)
    (hw : (op == 0x45 && sub == 7) = false) (hm : (op == 0x46 && sub == 1) = false)
    (hu : Rel ch s f.s) (hr : ch.testBit 29 = false) (hc : 549868546 &&& m = 549868546) (hcm : ch &&& m = ch)
    (hl : ∀ p, p ∉ l ++ [.cmd, .seq, .port, .cnt, .stk, .out, .fresh, .registers] → m.testBit (partIdx p) = false) :
    ∃ t, exec i s = .next t ∧ Gave l s t c w.d f.kd ∧ CfgOf f.s t := by
  have hx := fab_issues h (by simp) (by simp [ht])
  simp only [Bool.false_eq_true, if_false] at hx
  have hb : fabDirect (begun s c) c op w (getCtx (begun s c) c) = retireK (restartTakes (begun s c) f.s) c op w w.d f.kd := by
    unfold fabDirect
    dsimp only
    rw [begun_kget, begun_kget, hf, h0]
    simp only [bne_self_eq_false, Bool.false_eq_true, if_false]
    rw [h.row]
    have a1 : (decide (op = 0x45) && decide (sub = 7)) = false := hw
    have a2 : (decide (op = 0x46) && decide (sub = 1)) = false := hm
    have a3 : (decide (op = 0x40) || fabRead op sub) = true := hk
    rw [a1, a2, a3]
    rfl
  rw [hb] at hx
  refine ⟨_, hx, gave_of (ch := m) (restartTakes_rel (sub_of hc rfl) (Rel.mono hcm hu)) ?_ (sub_of hc rfl) hl,
    (restartTakes_cfg _ _).trans (retireK_cfg _ _ _ _ _ _)⟩
  · intro j
    have e := (restartTakes_rel (ch := 12865536) (x0 := begun s c) rfl (Rel.refl f.s)).regs rfl j
    rw [e]; exact hu.regs hr j

end Sys2Proof.Machine
end

