-- ==== Sys2Proof/Laws/Quiet.lean ====
section
/-!
SUPPORT. What events, logs and the message list leave of the contexts; what a retirement leaves of the counters' block.
-/

namespace Sys2Proof.Machine

open Sys2Proof.Safety

theorem ContextsKept.refl (s : State) : contextsKept s s := fun _ => rfl
theorem ContextsKept.trans {s t u : State} (a : contextsKept s t) (b : contextsKept t u) : contextsKept s u := fun c => (b c).trans (a c)
theorem ContextsKept.of {s t : State} (h : t.seq = s.seq) : contextsKept s t := fun c => by rw [getCtx_congr h]
theorem ContextsKept.mod {s : State} {c : Nat} {f : Ctx → Ctx} (hf : ∀ x, sansEvents (f x) = sansEvents x) : contextsKept s (modCtx s c f) := by
  intro j
  rw [getCtx_modCtx]
  split
  · exact hf _
  · rfl
theorem ContextsKept.forL {f : State → Nat → State} (hf : ∀ s i, contextsKept s (f s i)) (l : List Nat) (s : State) :
    contextsKept s (forL l s f) := by
  unfold Machine.forL
  induction l generalizing s with
  | nil => exact ContextsKept.refl s
  | cons i l ih => exact ContextsKept.trans (hf s i) (ih (f s i))

theorem evtVec_ctx (s : State) (c : Nat) : contextsKept s (evtVec s c) := by
  unfold evtVec
  dsimp only
  split
  · refine ContextsKept.trans (ContextsKept.mod ?_) (ContextsKept.of vecSend_seq)
    exact fun _ => rfl
  · exact ContextsKept.refl s

theorem evLatch_ctx (s : State) (c e : Nat) : contextsKept s (evLatch s c e) := by
  unfold evLatch
  dsimp only
  split
  · exact ContextsKept.refl s
  · split
    · exact ContextsKept.of countEv_seq
    · have a : contextsKept s (modCtx s c fun x => { x with evp := x.evp ||| (1 <<< e : Nat) }) := by
        refine ContextsKept.mod ?_
        exact fun _ => rfl
      split
      · exact ContextsKept.trans a (evtVec_ctx _ _)
      · exact a

theorem stewEv_ctx (s : State) : contextsKept s (stewEv s) := evLatch_ctx _ _ _
theorem powerEv_ctx (s : State) : contextsKept s (powerEv s) := evLatch_ctx _ _ _
theorem tenEv_ctx (s : State) (t : Nat) : contextsKept s (tenEv s t) := evLatch_ctx _ _ _
theorem tenEvQ_ctx (s : State) (t : Option Nat) : contextsKept s (tenEv? s t) := by
  unfold tenEv?
  split
  · exact tenEv_ctx _ _
  · exact ContextsKept.refl s
theorem stewIf_ctx (s : State) (a b : Bool) : contextsKept s (stewIf s a b) := by
  unfold stewIf
  split
  · exact stewEv_ctx s
  · exact ContextsKept.refl s

/-! ## The message list -/

theorem syncBuf_ctx (s : State) : contextsKept s (syncBuf s) := by
  unfold syncBuf
  dsimp only
  refine ContextsKept.trans (ContextsKept.trans (ContextsKept.trans ?_ (stewIf_ctx _ _ _)) (stewIf_ctx _ _ _)) (stewIf_ctx _ _ _)
  exact ContextsKept.of rfl

theorem setPkts_ctx (s : State) (l : List Pkt) : contextsKept s (setPkts s l) :=
  ContextsKept.trans (ContextsKept.of (t := { s with core := { s.core with pkts := l } }) rfl) (syncBuf_ctx _)

theorem addPkt_ctx (s : State) (p : Pkt) : contextsKept s (addPkt s p) := setPkts_ctx s _

theorem syncBuf_pkts (s : State) : (syncBuf s).core.pkts = s.core.pkts := by
  unfold syncBuf
  dsimp only
  rw [stewIf_core, stewIf_core, stewIf_core]

theorem setPkts_pkts (s : State) (l : List Pkt) : (setPkts s l).core.pkts = l := by
  unfold setPkts
  rw [syncBuf_pkts]

theorem addPkt_pkts (s : State) (p : Pkt) : (addPkt s p).core.pkts = s.core.pkts ++ [{ p with id := s.nextId }] := setPkts_pkts s _

/-! ## The counters' block through a retirement -/

/-- The counters' block without the counters. -/
def sansBank (x : Cnt) : Cnt := { x with bank := [] }

theorem cntAdd_rest (s : State) (a n : Nat) : sansBank (cntAdd s a n).cnt = sansBank s.cnt := by
  unfold cntAdd; split <;> rfl

theorem countEv_rest (s : State) (code i : Nat) (t : Option Nat) (n : Nat) : sansBank (countEv s code i t n).cnt = sansBank s.cnt := by
  unfold countEv
  have key : ∀ (l : List (Nat × W64)) (u : State), sansBank (l.foldl (fun s e => if selMatch e.2 code i t then cntAdd s (selCounter e.1) n else s) u).cnt = sansBank u.cnt := by
    intro l
    induction l with
    | nil => intro u; rfl
    | cons a l ih =>
      intro u
      rw [List.foldl_cons, ih]
      split
      · exact cntAdd_rest _ _ _
      · rfl
  exact key _ _

theorem topDown_rest (s : State) (p i c : Nat) (t : Option Nat) (n : Nat) : sansBank (topDown s p i c t n).cnt = sansBank s.cnt := by
  unfold topDown
  split
  · rfl
  · rw [countEv_rest, cntAdd_rest]

theorem retireCount_rest (s : State) (c st : Nat) : sansBank (retireCount s c st).cnt = sansBank s.cnt := by
  unfold retireCount
  dsimp only
  rw [countEv_rest, topDown_rest, topDown_rest, unwait_cnt]

theorem postRec_rest (s : State) (c : Nat) (r : Rec) : sansBank (postRec s c r).cnt = sansBank s.cnt := by
  have ring (s : State) (a b d) : (ringWrite s a b d).cnt = s.cnt := by unfold ringWrite; split <;> rfl
  unfold postRec
  dsimp only
  split
  · rfl
  · split
    · rfl
    · split
      · rfl
      · unfold cqWrite
        dsimp only
        split
        · rw [vecSend_cnt]
          show sansBank (countEv _ _ _ _ _).cnt = _
          rw [countEv_rest]
          show sansBank (ringWrite _ _ _ _).cnt = _
          rw [ring]
        · rw [countEv_rest]
          show sansBank (ringWrite _ _ _ _).cnt = _
          rw [ring]

theorem recIf_rest (s : State) (c op : Nat) (w : Ox) (st : Nat) (r : Option W64) : sansBank (recIf s c op w st r).cnt = sansBank s.cnt := by
  unfold recIf
  split
  · exact postRec_rest _ _ _
  · rfl

theorem retire_rest (s : State) (c op : Nat) (w : Ox) (st : Nat) (r : Option W64) : sansBank (retire s c op w st r).cnt = sansBank s.cnt := by
  unfold retire
  rw [advance_cnt, recIf_rest, retireCount_rest]

theorem endTurn_cnt_rest (s : State) (c : Nat) : sansBank (endTurn s c).cnt = sansBank s.cnt := by rw [endTurn_cnt]

/-! ## After -/

theorem after_retire (u : State) (c op : Nat) (w : Ox) (st : Nat) : After u (endTurn (retireSt u c op w st) c) c where
  frame := (endTurn_rel (ch := 12993538) rfl (retireSt_rel rfl (Rel.refl u))).onlyIn
    (by intro p hp; cases p <;> first | rfl | (exact absurd (by decide) hp))
  registers := (endTurn_rel (ch := 12993538) rfl (retireSt_rel rfl (Rel.refl u))).same .registers rfl
  ended := by rw [getCtx_endTurn]; exact retire_wait _ _ _ _ _ _

end Sys2Proof.Machine
end

