-- ==== Sys2Proof/Laws/RelTime.lean ====
section
/-!
SUPPORT. What each operation of Time.lean can change, and that it keeps what every command keeps (Laws/Rel.lean).
-/

namespace Sys2Proof.Machine

theorem modTime_rel {ch : Nat} {s u : State} {x1} (hc : 4096 &&& ch = 4096) (h : Rel ch s u) :
    Rel ch s (modTime u x1) := by
  unfold modTime
  refine Rel.time _ (bit_of 12 hc rfl) ?_
  exact h

theorem takeEv_rel {ch : Nat} {s u : State} {x1} (hc : 4326402 &&& ch = 4326402) (h : Rel ch s u) :
    Rel ch s (takeEv u x1) := by
  unfold takeEv
  refine evLatch_rel (sub_of hc rfl) ?_
  exact h

theorem slip_rel {ch : Nat} {s u : State} {x1 x2} (hc : 12997634 &&& ch = 12997634) (h : Rel ch s u) :
    Rel ch s (slip u x1 x2) := by
  unfold slip
  extract_lets -merge -underBinder v0 v1
  try clear_value v0
  have hv1 : Rel ch s v1 := by
    subst v1
    refine countEv_rel (sub_of hc rfl) ?_
    exact h
  try clear_value v1
  refine Rel.ite ?_ ?_
  · refine takeDone_rel (sub_of hc rfl) ?_
    refine takeEv_rel (sub_of hc rfl) ?_
    refine modTake_rel (sub_of hc rfl) ?_
    exact h
  · refine takeDone_rel (sub_of hc rfl) ?_
    refine takeEv_rel (sub_of hc rfl) ?_
    refine modTake_rel (sub_of hc rfl) ?_
    exact hv1

theorem judge_rel {ch : Nat} {s u : State} {x1} (hc : 12997634 &&& ch = 12997634) (h : Rel ch s u) :
    Rel ch s (judge u x1) := by
  unfold judge
  extract_lets -merge -underBinder v0
  try clear_value v0
  refine Rel.ite ?_ ?_
  · exact h
  · refine Rel.ite ?_ ?_
    · refine modTake_rel (sub_of hc rfl) ?_
      exact h
    · refine slip_rel (sub_of hc rfl) ?_
      exact h

theorem evalItems_rel {ch : Nat} {s u : State} {x0 x1} (hc : 407103362 &&& ch = 407103362) (h : Rel ch s u) :
    Rel ch s (evalItems x0 x1 u).2 := by
  unfold evalItems
  split
  · first | refine Rel.mk_snd ?_ | skip
    exact h
  · extract_lets -merge -underBinder v8
    have hv8 : Rel ch s v8.s := by
      subst v8
      refine fabApply_rel (sub_of hc rfl) ?_
      exact h
    try clear_value v8
    split
    · first | refine Rel.mk_snd ?_ | skip
      exact h
    · refine evalItems_rel (sub_of hc rfl) ?_
      exact hv8

theorem itemRefusal_rel {ch : Nat} {s u : State} {x1 x2} (hc : 4326914 &&& ch = 4326914) (h : Rel ch s u) :
    Rel ch s (itemRefusal u x1 x2) := by
  unfold itemRefusal
  extract_lets -merge -underBinder v0
  try clear_value v0
  refine Rel.ite ?_ ?_
  · refine deckleLocked_rel (sub_of hc rfl) ?_
    exact h
  · exact h

theorem applySet_rel {ch : Nat} {s u : State} {x1} (hc : 432537474 &&& ch = 432537474) (h : Rel ch s u) :
    Rel ch s (applySet u x1) := by
  unfold applySet
  extract_lets -merge -underBinder v0 v1
  try clear_value v0
  try clear_value v1
  split
  · rename_i w2 w3 w4 w5 e6
    have hw4 := Rel.of_snd (ch := ch) (s := s) e6 (by
      refine evalItems_rel (sub_of hc rfl) ?_
      exact h)
    have hw5 := Rel.of_snd (ch := ch) (s := s) e6 (by
      refine evalItems_rel (sub_of hc rfl) ?_
      exact h)
    extract_lets -merge -underBinder v7
    have hv7 : Rel ch s v7 := by
      subst v7
      refine itemRefusal_rel (sub_of hc rfl) ?_
      exact h
    try clear_value v7
    refine takeDone_rel (sub_of hc rfl) ?_
    refine takeEv_rel (sub_of hc rfl) ?_
    refine modTake_rel (sub_of hc rfl) ?_
    exact hv7
  · rename_i w8 e9
    have hw8 := Rel.of_snd (ch := ch) (s := s) e9 (by
      refine evalItems_rel (sub_of hc rfl) ?_
      exact h)
    extract_lets -merge -underBinder v10 v11 v12
    try clear_value v10
    have hv11 : Rel ch s v11 := by
      subst v11
      refine restartTakes_rel (sub_of hc rfl) ?_
      refine modTake_rel (sub_of hc rfl) ?_
      exact hw8
    try clear_value v11
    have hv12 : Rel ch s v12 := by
      subst v12
      refine takeDone_rel (sub_of hc rfl) ?_
      refine countEv_rel (sub_of hc rfl) ?_
      exact hv11
    try clear_value v12
    refine Rel.ite ?_ ?_
    · refine startWalks_rel (sub_of hc rfl) ?_
      exact hv12
    · refine takeEv_rel (sub_of hc rfl) ?_
      exact hv12

theorem atInstant_rel {ch : Nat} {s u : State} {x1} (hc : 432537474 &&& ch = 432537474) (h : Rel ch s u) :
    Rel ch s (atInstant u x1) := by
  unfold atInstant
  extract_lets -merge -underBinder v0
  try clear_value v0
  refine Rel.ite ?_ ?_
  · exact h
  · refine Rel.ite ?_ ?_
    · refine applySet_rel (sub_of hc rfl) ?_
      exact h
    · refine slip_rel (sub_of hc rfl) ?_
      exact h

theorem applyDue_rel {ch : Nat} {s u : State} {x1} (hc : 432537474 &&& ch = 432537474) (h : Rel ch s u) :
    Rel ch s (applyDue u x1) := by
  unfold applyDue
  refine Rel.forL (fun u0 x0 hf0 => ?_) ?_
  · refine atInstant_rel (sub_of hc rfl) ?_
    exact hf0
  · exact h

theorem atTimer_rel {ch : Nat} {s u : State} {x1} (hc : 549864450 &&& ch = 549864450) (h : Rel ch s u) :
    Rel ch s (atTimer u x1) := by
  unfold atTimer
  extract_lets -merge -underBinder v0 v1
  subst v0
  have hv1 : Rel ch s v1 := by
    subst v1
    split
    · refine Rel.ite ?_ ?_
      · refine evLatch_rel (sub_of hc rfl) ?_
        refine Rel.modCtx (fun _ => rfl) (bit_of 10 hc rfl) ?_
        exact h
      · exact h
    · exact h
  try clear_value v1
  split
  · refine Rel.ite ?_ ?_
    · refine finishWait_rel (sub_of hc rfl) ?_
      exact hv1
    · exact hv1
  · exact hv1

theorem afterStep_rel {ch : Nat} {s u : State} (hc : 969408386 &&& ch = 969408386) (h : Rel ch s u) :
    Rel ch s (afterStep u) := by
  unfold afterStep
  extract_lets -merge -underBinder v0 v1
  have hv0 : Rel ch s v0 := by
    subst v0
    refine Rel.forL (fun u2 x2 hf2 => ?_) ?_
    · refine atTimer_rel (sub_of hc rfl) ?_
      exact hf2
    · exact h
  try clear_value v0
  have hv1 : Rel ch s v1 := by
    subst v1
    refine Rel.forL (fun u3 x3 hf3 => ?_) ?_
    · refine judge_rel (sub_of hc rfl) ?_
      exact hf3
    · exact hv0
  try clear_value v1
  refine applyDue_rel (sub_of hc rfl) ?_
  exact hv1

theorem timeEv_rel {ch : Nat} {s u : State} {x0} (hc : 4326402 &&& ch = 4326402) (h : Rel ch s u) :
    Rel ch s (timeEv x0 u) := by
  unfold timeEv
  extract_lets -merge -underBinder v0 v1
  try clear_value v0
  subst v1
  try dsimp -zeta -zetaUnused -proj only
  refine Rel.ite ?_ ?_
  · refine powerEv_rel (sub_of hc rfl) ?_
    refine Rel.ite ?_ ?_
    · refine powerEv_rel (sub_of hc rfl) ?_
      refine Rel.ite ?_ ?_
      · refine powerEv_rel (sub_of hc rfl) ?_
        refine Rel.ite ?_ ?_
        · refine powerEv_rel (sub_of hc rfl) ?_
          refine Rel.ite ?_ ?_
          · refine powerEv_rel (sub_of hc rfl) ?_
            exact h
          · exact h
        · refine Rel.ite ?_ ?_
          · refine powerEv_rel (sub_of hc rfl) ?_
            exact h
          · exact h
      · refine Rel.ite ?_ ?_
        · refine powerEv_rel (sub_of hc rfl) ?_
          refine Rel.ite ?_ ?_
          · refine powerEv_rel (sub_of hc rfl) ?_
            exact h
          · exact h
        · refine Rel.ite ?_ ?_
          · refine powerEv_rel (sub_of hc rfl) ?_
            exact h
          · exact h
    · refine Rel.ite ?_ ?_
      · refine powerEv_rel (sub_of hc rfl) ?_
        refine Rel.ite ?_ ?_
        · refine powerEv_rel (sub_of hc rfl) ?_
          refine Rel.ite ?_ ?_
          · refine powerEv_rel (sub_of hc rfl) ?_
            exact h
          · exact h
        · refine Rel.ite ?_ ?_
          · refine powerEv_rel (sub_of hc rfl) ?_
            exact h
          · exact h
      · refine Rel.ite ?_ ?_
        · refine powerEv_rel (sub_of hc rfl) ?_
          refine Rel.ite ?_ ?_
          · refine powerEv_rel (sub_of hc rfl) ?_
            exact h
          · exact h
        · refine Rel.ite ?_ ?_
          · refine powerEv_rel (sub_of hc rfl) ?_
            exact h
          · exact h
  · refine Rel.ite ?_ ?_
    · refine powerEv_rel (sub_of hc rfl) ?_
      refine Rel.ite ?_ ?_
      · refine powerEv_rel (sub_of hc rfl) ?_
        refine Rel.ite ?_ ?_
        · refine powerEv_rel (sub_of hc rfl) ?_
          refine Rel.ite ?_ ?_
          · refine powerEv_rel (sub_of hc rfl) ?_
            exact h
          · exact h
        · refine Rel.ite ?_ ?_
          · refine powerEv_rel (sub_of hc rfl) ?_
            exact h
          · exact h
      · refine Rel.ite ?_ ?_
        · refine powerEv_rel (sub_of hc rfl) ?_
          refine Rel.ite ?_ ?_
          · refine powerEv_rel (sub_of hc rfl) ?_
            exact h
          · exact h
        · refine Rel.ite ?_ ?_
          · refine powerEv_rel (sub_of hc rfl) ?_
            exact h
          · exact h
    · refine Rel.ite ?_ ?_
      · refine powerEv_rel (sub_of hc rfl) ?_
        refine Rel.ite ?_ ?_
        · refine powerEv_rel (sub_of hc rfl) ?_
          refine Rel.ite ?_ ?_
          · refine powerEv_rel (sub_of hc rfl) ?_
            exact h
          · exact h
        · refine Rel.ite ?_ ?_
          · refine powerEv_rel (sub_of hc rfl) ?_
            exact h
          · exact h
      · refine Rel.ite ?_ ?_
        · refine powerEv_rel (sub_of hc rfl) ?_
          refine Rel.ite ?_ ?_
          · refine powerEv_rel (sub_of hc rfl) ?_
            exact h
          · exact h
        · refine Rel.ite ?_ ?_
          · refine powerEv_rel (sub_of hc rfl) ?_
            exact h
          · exact h

theorem stepTime_rel {ch : Nat} {s u : State} {x1} (hc : 969408386 &&& ch = 969408386) (h : Rel ch s u) :
    Rel ch s (stepTime u x1) := by
  unfold stepTime
  extract_lets -merge -underBinder v0
  try clear_value v0
  refine afterStep_rel (sub_of hc rfl) ?_
  refine timeEv_rel (sub_of hc rfl) ?_
  refine modTime_rel (sub_of hc rfl) ?_
  exact h

theorem execTimePpsEdge_rel {ch : Nat} {s u t : State} {x0} (hc : 969408386 &&& ch = 969408386) (h : Rel ch s u)
    (ht : execTimePpsEdge x0 u = .next t) : Rel ch s t := by
  unfold execTimePpsEdge at ht
  refine Rel.unitOk ?_ ht
  extract_lets -merge -underBinder v0 v1 v2 v3 v4
  try clear_value v0
  try clear_value v1
  try clear_value v2
  have hv3 : Rel ch s v3 := by
    subst v3
    refine modTime_rel (sub_of hc rfl) ?_
    exact h
  try clear_value v3
  have hv4 : Rel ch s v4 := by
    subst v4
    refine timeEv_rel (sub_of hc rfl) ?_
    refine modTime_rel (sub_of hc rfl) ?_
    exact hv3
  try clear_value v4
  refine Rel.ite ?_ ?_
  · refine stepTime_rel (sub_of hc rfl) ?_
    refine modTime_rel (sub_of hc rfl) ?_
    exact hv3
  · refine Rel.ite ?_ ?_
    · refine Rel.ite ?_ ?_
      · refine stepTime_rel (sub_of hc rfl) ?_
        exact hv4
      · refine modTime_rel (sub_of hc rfl) ?_
        exact hv4
    · exact hv3

theorem execPpsLossTimeout_rel {ch : Nat} {s u t : State} (hc : 4330498 &&& ch = 4330498) (h : Rel ch s u)
    (ht : execPpsLossTimeout u = .next t) : Rel ch s t := by
  unfold execPpsLossTimeout at ht
  refine Rel.unitOk ?_ ht
  refine Rel.ite ?_ ?_
  · exact h
  · refine timeEv_rel (sub_of hc rfl) ?_
    refine modTime_rel (sub_of hc rfl) ?_
    exact h

theorem execSetNow_rel {ch : Nat} {s u t : State} (hc : 969408386 &&& ch = 969408386) (h : Rel ch s u)
    (ht : execSetNow u = .next t) : Rel ch s t := by
  unfold execSetNow at ht
  refine Rel.unitOk ?_ ht
  refine stepTime_rel (sub_of hc rfl) ?_
  exact h

theorem execSetAtPps_rel {ch : Nat} {s u t : State} (hc : 4096 &&& ch = 4096) (h : Rel ch s u)
    (ht : execSetAtPps u = .next t) : Rel ch s t := by
  unfold execSetAtPps at ht
  refine Rel.unitOk ?_ ht
  refine modTime_rel (sub_of hc rfl) ?_
  exact h

theorem timeCtrlWrite_rel {ch : Nat} {s u : State} {x0} (hc : 969408386 &&& ch = 969408386) (h : Rel ch s u) :
    Rel ch s (timeCtrlWrite x0 u) := by
  unfold timeCtrlWrite
  extract_lets -merge -underBinder v0
  have hv0 : Rel ch s v0 := by
    subst v0
    refine modTime_rel (sub_of hc rfl) ?_
    exact h
  try clear_value v0
  refine Rel.ite ?_ ?_
  · refine stepTime_rel (sub_of hc rfl) ?_
    exact hv0
  · exact hv0

theorem execTimeModeWrite_rel {ch : Nat} {s u t : State} {x0} (hc : 969408386 &&& ch = 969408386) (h : Rel ch s u)
    (ht : execTimeModeWrite x0 u = .next t) : Rel ch s t := by
  unfold execTimeModeWrite at ht
  refine Rel.unitOk ?_ ht
  refine timeCtrlWrite_rel (sub_of hc rfl) ?_
  exact h

theorem timeAdjWrite_rel {ch : Nat} {s u : State} {x0} (hc : 4096 &&& ch = 4096) (h : Rel ch s u) :
    Rel ch s (timeAdjWrite x0 u) := by
  unfold timeAdjWrite
  refine Rel.ite ?_ ?_
  · refine modTime_rel (sub_of hc rfl) ?_
    exact h
  · exact h

theorem execTimeAdjWrite_rel {ch : Nat} {s u t : State} {x0} (hc : 4096 &&& ch = 4096) (h : Rel ch s u)
    (ht : execTimeAdjWrite x0 u = .next t) : Rel ch s t := by
  unfold execTimeAdjWrite at ht
  refine Rel.unitOk ?_ ht
  refine timeAdjWrite_rel (sub_of hc rfl) ?_
  exact h

theorem unlockRef_rel {ch : Nat} {s u : State} {x1 x2} (hc : 4096 &&& ch = 4096) (h : Rel ch s u) :
    Rel ch s (unlockRef u x1 x2) := by
  unfold unlockRef
  extract_lets -merge -underBinder v0
  have hv0 : Rel ch s v0 := by
    subst v0
    refine modRef_rel (sub_of hc rfl) ?_
    exact h
  try clear_value v0
  refine Rel.forL (fun u1 x1 hf1 => ?_) ?_
  · refine modOut_rel (sub_of hc rfl) ?_
    exact hf1
  · exact hv0

theorem deliver_rel {ch : Nat} {s u : State} {x1 x2 x3 x4} (hc : 549934082 &&& ch = 549934082) (h : Rel ch s u) :
    Rel ch s (deliver u x1 x2 x3 x4) := by
  unfold deliver
  extract_lets -merge -underBinder v0 v1 v2 v3 v4 v5 v6
  have hv0 : Rel ch s v0 := by
    subst v0
    refine modRef_rel (sub_of hc rfl) ?_
    exact h
  try clear_value v0
  try clear_value v1
  try clear_value v2
  try clear_value v3
  try clear_value v4
  try clear_value v5
  have hv6 : Rel ch s v6 := by
    subst v6
    refine Rel.core_time _ (bit_of 16 hc rfl)  _ (bit_of 12 hc rfl) ?_
    exact hv0
  try clear_value v6
  refine Rel.forL (fun u7 x7 hf7 => ?_) ?_
  · extract_lets -merge -underBinder v8
    have hv8 : Rel ch s v8 := by
      subst v8
      refine evLatch_rel (sub_of hc rfl) ?_
      exact hf7
    try clear_value v8
    split
    · refine Rel.ite ?_ ?_
      · refine finishWait_rel (sub_of hc rfl) ?_
        exact hv8
      · exact hv8
    · exact hv8
  · exact hv6

theorem execFrameRefEdge_rel {ch : Nat} {s u t : State} {x0 x1} (hc : 549934082 &&& ch = 549934082) (h : Rel ch s u)
    (ht : execFrameRefEdge x0 x1 u = .next t) : Rel ch s t := by
  unfold execFrameRefEdge at ht
  refine Rel.unitOk ?_ ht
  extract_lets -merge -underBinder v0 v1 v2 v3 v4 v5 v6
  try clear_value v0
  try clear_value v1
  try clear_value v2
  try clear_value v3
  try clear_value v4
  try clear_value v5
  try clear_value v6
  refine Rel.ite ?_ ?_
  · exact h
  · refine Rel.ite ?_ ?_
    · refine Rel.ite ?_ ?_
      · refine deliver_rel (sub_of hc rfl) ?_
        exact h
      · refine powerEv_rel (sub_of hc rfl) ?_
        refine unlockRef_rel (sub_of hc rfl) ?_
        refine modRef_rel (sub_of hc rfl) ?_
        exact h
    · split
      · refine deliver_rel (sub_of hc rfl) ?_
        refine modRef_rel (sub_of hc rfl) ?_
        exact h
      · refine modRef_rel (sub_of hc rfl) ?_
        exact h

theorem execFrameEdgeMissing_rel {ch : Nat} {s u t : State} {x0} (hc : 549934082 &&& ch = 549934082) (h : Rel ch s u)
    (ht : execFrameEdgeMissing x0 u = .next t) : Rel ch s t := by
  unfold execFrameEdgeMissing at ht
  refine Rel.unitOk ?_ ht
  extract_lets -merge -underBinder v0
  try clear_value v0
  refine Rel.ite ?_ ?_
  · exact h
  · refine Rel.ite ?_ ?_
    · refine deliver_rel (sub_of hc rfl) ?_
      exact h
    · refine powerEv_rel (sub_of hc rfl) ?_
      refine unlockRef_rel (sub_of hc rfl) ?_
      refine modRef_rel (sub_of hc rfl) ?_
      exact h

theorem refCfgWrite_rel {ch : Nat} {s u : State} {x0 x1} (hc : 135168 &&& ch = 135168) (h : Rel ch s u) :
    Rel ch s (refCfgWrite x0 x1 u) := by
  unfold refCfgWrite
  extract_lets -merge -underBinder v0 v1 v2
  try clear_value v0
  try clear_value v1
  have hv2 : Rel ch s v2 := by
    subst v2
    refine Rel.ite ?_ ?_
    · refine logAt_rel (sub_of hc rfl) ?_
      exact h
    · exact h
  try clear_value v2
  refine Rel.ite ?_ ?_
  · refine Rel.ite ?_ ?_
    · exact hv2
    · refine unlockRef_rel (sub_of hc rfl) ?_
      refine modRef_rel (sub_of hc rfl) ?_
      exact hv2
  · refine modRef_rel (sub_of hc rfl) ?_
    exact h

theorem execFrameRefEnable_rel {ch : Nat} {s u t : State} {x0 x1} (hc : 135168 &&& ch = 135168) (h : Rel ch s u)
    (ht : execFrameRefEnable x0 x1 u = .next t) : Rel ch s t := by
  unfold execFrameRefEnable at ht
  refine Rel.unitOk ?_ ht
  refine refCfgWrite_rel (sub_of hc rfl) ?_
  exact h

theorem execFrameRefDisable_rel {ch : Nat} {s u t : State} {x0} (hc : 135168 &&& ch = 135168) (h : Rel ch s u)
    (ht : execFrameRefDisable x0 u = .next t) : Rel ch s t := by
  unfold execFrameRefDisable at ht
  refine Rel.unitOk ?_ ht
  refine refCfgWrite_rel (sub_of hc rfl) ?_
  exact h

theorem execFrameOutPulse_rel {ch : Nat} {s u t : State} {x0} (hc : 4198400 &&& ch = 4198400) (h : Rel ch s u)
    (ht : execFrameOutPulse x0 u = .next t) : Rel ch s t := by
  unfold execFrameOutPulse at ht
  refine Rel.unitOk ?_ ht
  extract_lets -merge -underBinder v0 v1
  try clear_value v0
  try clear_value v1
  split
  · refine Rel.ite ?_ ?_
    · exact h
    · refine emit_rel (sub_of hc rfl) ?_
      refine modOut_rel (sub_of hc rfl) ?_
      exact h
  · exact h

theorem execTakePrepared_rel {ch : Nat} {s u t : State} {x0} (hc : 12865536 &&& ch = 12865536) (h : Rel ch s u)
    (ht : execTakePrepared x0 u = .next t) : Rel ch s t := by
  unfold execTakePrepared at ht
  refine Rel.unitOk ?_ ht
  refine Rel.ite ?_ ?_
  · refine takeReady_rel (sub_of hc rfl) ?_
    refine modTake_rel (sub_of hc rfl) ?_
    exact h
  · exact h

theorem execTakeReadinessPoint_rel {ch : Nat} {s u t : State} {x0} (hc : 12997634 &&& ch = 12997634) (h : Rel ch s u)
    (ht : execTakeReadinessPoint x0 u = .next t) : Rel ch s t := by
  unfold execTakeReadinessPoint at ht
  refine Rel.unitOk ?_ ht
  refine judge_rel (sub_of hc rfl) ?_
  exact h

theorem execTakeApplication_rel {ch : Nat} {s u t : State} {x0} (hc : 432537474 &&& ch = 432537474) (h : Rel ch s u)
    (ht : execTakeApplication x0 u = .next t) : Rel ch s t := by
  unfold execTakeApplication at ht
  refine Rel.unitOk ?_ ht
  refine applyDue_rel (sub_of hc rfl) ?_
  exact h

theorem execTakeCommitWrite_rel {ch : Nat} {s u t : State} {x0} (hc : 4096 &&& ch = 4096) (h : Rel ch s u)
    (ht : execTakeCommitWrite x0 u = .next t) : Rel ch s t := by
  unfold execTakeCommitWrite at ht
  refine Rel.unitOk ?_ ht
  refine modTake_rel (sub_of hc rfl) ?_
  exact h

theorem freeTake_rel {ch : Nat} {s u : State} {x1} (hc : 4096 &&& ch = 4096) (h : Rel ch s u) :
    Rel ch s (freeTake u x1) := by
  unfold freeTake
  refine modTake_rel (sub_of hc rfl) ?_
  exact h

theorem freeTakes_rel {ch : Nat} {s u : State} {x1} (hc : 4096 &&& ch = 4096) (h : Rel ch s u) :
    Rel ch s (freeTakes u x1) := by
  unfold freeTakes
  refine Rel.forL (fun u0 x0 hf0 => ?_) ?_
  · refine freeTake_rel (sub_of hc rfl) ?_
    exact hf0
  · exact h

theorem execTime_rel {ch : Nat} {s u t : State} {x0 x1} (hc : 549864450 &&& ch = 549864450) (h : Rel ch s u)
    (ht : execTime x0 x1 u = .next t) : Rel ch s t := by
  unfold execTime at ht
  refine Rel.unitOk ?_ ht
  refine oxRun_rel (sub_of hc rfl) (fun y1 y2 hf0 => ?_) ?_
  · refine retireK_rel (sub_of hc rfl) ?_
    exact hf0
  · exact h

theorem atRun_rel {ch : Nat} {s u : State} {x0 x1 x2 f3} (hc : 12993538 &&& ch = 12993538) (hh3 : ∀ a0 a1, Rel ch s a0 → Rel ch s (f3 a0 a1)) (h : Rel ch s u) :
    Rel ch s (atRun x0 x1 x2 f3 u) := by
  unfold atRun
  refine Rel.ite ?_ ?_
  · exact h
  · refine oxRun_rel (sub_of hc rfl) (fun y1 y2 hf0 => ?_) ?_
    · refine hh3 _ _ ?_
      exact hf0
    · exact h

theorem execAtWait_rel {ch : Nat} {s u t : State} {x0 x1} (hc : 12993538 &&& ch = 12993538) (h : Rel ch s u)
    (ht : execAtWait x0 x1 u = .next t) : Rel ch s t := by
  unfold execAtWait at ht
  refine Rel.unitOk ?_ ht
  refine atRun_rel (sub_of hc rfl) (fun y1 y2 hf0 => ?_) ?_
  · refine Rel.ite ?_ ?_
    · refine retireSt_rel (sub_of hc rfl) ?_
      exact hf0
    · refine waitWith_rel (sub_of hc rfl) ?_
      exact hf0
  · exact h

theorem execAtArm_rel {ch : Nat} {s u t : State} {x0 x1} (hc : 12993538 &&& ch = 12993538) (h : Rel ch s u)
    (ht : execAtArm x0 x1 u = .next t) : Rel ch s t := by
  unfold execAtArm at ht
  refine Rel.unitOk ?_ ht
  refine atRun_rel (sub_of hc rfl) (fun y1 y2 hf0 => ?_) ?_
  · refine retireSt_rel (sub_of hc rfl) ?_
    refine Rel.modCtx (fun _ => rfl) (bit_of 10 hc rfl) ?_
    exact hf0
  · exact h

theorem execAtTimerExpiry_rel {ch : Nat} {s u t : State} {x0} (hc : 549864450 &&& ch = 549864450) (h : Rel ch s u)
    (ht : execAtTimerExpiry x0 u = .next t) : Rel ch s t := by
  unfold execAtTimerExpiry at ht
  refine Rel.unitOk ?_ ht
  refine atTimer_rel (sub_of hc rfl) ?_
  exact h

theorem execWaitframe_rel {ch : Nat} {s u t : State} {x0 x1} (hc : 12993538 &&& ch = 12993538) (h : Rel ch s u)
    (ht : execWaitframe x0 x1 u = .next t) : Rel ch s t := by
  unfold execWaitframe at ht
  refine Rel.unitOk ?_ ht
  refine oxRun_rel (sub_of hc rfl) (fun y1 y2 hf0 => ?_) ?_
  · refine waitWith_rel (sub_of hc rfl) ?_
    exact hf0
  · exact h

theorem execWaitframeTimeout_rel {ch : Nat} {s u t : State} {x0} (hc : 549864450 &&& ch = 549864450) (h : Rel ch s u)
    (ht : execWaitframeTimeout x0 u = .next t) : Rel ch s t := by
  unfold execWaitframeTimeout at ht
  refine Rel.unitOk ?_ ht
  split
  · refine Rel.ite ?_ ?_
    · refine finishWait_rel (sub_of hc rfl) ?_
      exact h
    · exact h
  · exact h

theorem execTakeadd_rel {ch : Nat} {s u t : State} {x0 x1} (hc : 12997634 &&& ch = 12997634) (h : Rel ch s u)
    (ht : execTakeadd x0 x1 u = .next t) : Rel ch s t := by
  unfold execTakeadd at ht
  refine Rel.unitOk ?_ ht
  refine oxRun_rel (sub_of hc rfl) (fun y1 y2 hf0 => ?_) ?_
  · extract_lets -merge -underBinder v3 v4
    try clear_value v3
    have hv4 : Rel ch s v4 := by
      subst v4
      refine modTake_rel (sub_of hc rfl) ?_
      exact hf0
    try clear_value v4
    refine Rel.ite ?_ ?_
    · refine retireSt_rel (sub_of hc rfl) ?_
      exact hf0
    · refine retireSt_rel (sub_of hc rfl) ?_
      refine Rel.modCtx (fun _ => rfl) (bit_of 10 hc rfl) ?_
      exact hv4
  · exact h

theorem execTakearm_rel {ch : Nat} {s u t : State} {x0 x1} (hc : 12997634 &&& ch = 12997634) (h : Rel ch s u)
    (ht : execTakearm x0 x1 u = .next t) : Rel ch s t := by
  unfold execTakearm at ht
  refine Rel.unitOk ?_ ht
  refine oxRun_rel (sub_of hc rfl) (fun y1 y2 hf0 => ?_) ?_
  · extract_lets -merge -underBinder v3 v4 v5 v6
    try clear_value v3
    have hv4 : Rel ch s v4 := by
      subst v4
      refine modTake_rel (sub_of hc rfl) ?_
      exact hf0
    try clear_value v4
    have hv5 : Rel ch s v5 := by
      subst v5
      refine Rel.modCtx (fun _ => rfl) (bit_of 10 hc rfl) ?_
      exact hv4
    try clear_value v5
    have hv6 : Rel ch s v6 := by
      subst v6
      refine retireSt_rel (sub_of hc rfl) ?_
      exact hv5
    try clear_value v6
    refine Rel.ite ?_ ?_
    · refine retireSt_rel (sub_of hc rfl) ?_
      exact hf0
    · refine Rel.ite ?_ ?_
      · refine judge_rel (sub_of hc rfl) ?_
        exact hv6
      · exact hv6
  · exact h

theorem execTakedrop_rel {ch : Nat} {s u t : State} {x0 x1} (hc : 12997634 &&& ch = 12997634) (h : Rel ch s u)
    (ht : execTakedrop x0 x1 u = .next t) : Rel ch s t := by
  unfold execTakedrop at ht
  refine Rel.unitOk ?_ ht
  refine oxRun_rel (sub_of hc rfl) (fun y1 y2 hf0 => ?_) ?_
  · extract_lets -merge -underBinder v3 v4
    try clear_value v3
    have hv4 : Rel ch s v4 := by
      subst v4
      refine Rel.modCtx (fun _ => rfl) (bit_of 10 hc rfl) ?_
      refine freeTake_rel (sub_of hc rfl) ?_
      exact hf0
    try clear_value v4
    refine Rel.ite ?_ ?_
    · refine retireSt_rel (sub_of hc rfl) ?_
      exact hf0
    · refine retireSt_rel (sub_of hc rfl) ?_
      exact hv4
  · exact h

end Sys2Proof.Machine
end

