-- ==== Sys2Proof/Laws/RelReset.lean ====
section
/-!
SUPPORT. What each operation of Reset.lean can change, and that it keeps what every command keeps (Laws/Rel.lean).
-/

namespace Sys2Proof.Machine

theorem newEntry__rel {ch : Nat} {s u : State} {x1} (hc : 131072 &&& ch = 131072) (h : Rel ch s u) :
    Rel ch s (newEntry_ u x1) := by
  unfold newEntry_
  extract_lets -merge -underBinder v0
  try clear_value v0
  refine Rel.cnt _ (bit_of 17 hc rfl) ?_
  exact h

theorem dropIngress_rel {ch : Nat} {s u : State} {x1} (hc : 4391938 &&& ch = 4391938) (h : Rel ch s u) :
    Rel ch s (dropIngress u x1) := by
  unfold dropIngress
  extract_lets -merge -underBinder v0 v1
  try clear_value v0
  have hv1 : Rel ch s v1 := by
    subst v1
    refine setPkts_rel (sub_of hc rfl) ?_
    exact h
  try clear_value v1
  refine Rel.foldl (fun u2 x2 hf2 => ?_) ?_
  · refine tdWaste_rel (sub_of hc rfl) ?_
    exact hf2
  · exact hv1

theorem tailMark_rel {ch : Nat} {s u : State} {x1} (hc : 131072 &&& ch = 131072) (h : Rel ch s u) :
    Rel ch s (tailMark u x1) := by
  unfold tailMark
  refine Rel.ite ?_ ?_
  · refine quireCount_rel (sub_of hc rfl) ?_
    exact h
  · refine Rel.ite ?_ ?_
    · refine quireCount_rel (sub_of hc rfl) ?_
      exact h
    · exact h

theorem cutTails_rel {ch : Nat} {s u : State} {x1} (hc : 12780546 &&& ch = 12780546) (h : Rel ch s u) :
    Rel ch s (cutTails u x1) := by
  unfold cutTails
  extract_lets -merge -underBinder v0
  try clear_value v0
  refine Rel.foldl (fun u1 x1 hf1 => ?_) ?_
  · refine Rel.ite ?_ ?_
    · refine logOpen_rel (sub_of hc rfl) ?_
      refine dropPkt_rel (sub_of hc rfl) ?_
      exact hf1
    · refine tailMark_rel (sub_of hc rfl) ?_
      refine modPkt_rel (sub_of hc rfl) ?_
      exact hf1
  · exact h

theorem portStandIn_rel {ch : Nat} {s u : State} {x1 x2} (hc : 21171202 &&& ch = 21171202) (h : Rel ch s u) :
    Rel ch s (portStandIn u x1 x2) := by
  unfold portStandIn
  extract_lets -merge -underBinder v0
  try clear_value v0
  refine standIn_rel (sub_of hc rfl) ?_
  exact h

theorem mirLose_rel {ch : Nat} {s u : State} {x1 x2} (hc : 4390912 &&& ch = 4390912) (h : Rel ch s u) :
    Rel ch s (mirLose u x1 x2) := by
  unfold mirLose
  refine mirFinish_rel (sub_of hc rfl) ?_
  refine countEv_rel (sub_of hc rfl) ?_
  refine modMir_rel (sub_of hc rfl) ?_
  exact h

theorem flushOut_rel {ch : Nat} {s u : State} {x1 x2} (hc : 21171202 &&& ch = 21171202) (h : Rel ch s u) :
    Rel ch s (flushOut u x1 x2) := by
  unfold flushOut
  split
  · refine modPkt_rel (sub_of hc rfl) ?_
    exact h
  · extract_lets -merge -underBinder v0
    have hv0 : Rel ch s v0 := by
      subst v0
      refine dropPkt_rel (sub_of hc rfl) ?_
      exact h
    try clear_value v0
    split
    · refine mirLose_rel (sub_of hc rfl) ?_
      exact hv0
    · extract_lets -merge -underBinder v1 v2
      try clear_value v1
      try clear_value v2
      refine Rel.ite ?_ ?_
      · refine countEv_rel (sub_of hc rfl) ?_
        refine Rel.core _ (bit_of 16 hc rfl) ?_
        exact hv0
      · refine portStandIn_rel (sub_of hc rfl) ?_
        exact hv0

theorem flushPort_rel {ch : Nat} {s u : State} {x1} (hc : 29559810 &&& ch = 29559810) (h : Rel ch s u) :
    Rel ch s (flushPort u x1) := by
  unfold flushPort
  extract_lets -merge -underBinder v0 v1 v2 v3 v4 v5
  have hv0 : Rel ch s v0 := by
    subst v0
    refine cutTails_rel (sub_of hc rfl) ?_
    refine dropIngress_rel (sub_of hc rfl) ?_
    exact h
  try clear_value v0
  try clear_value v1
  have hv2 : Rel ch s v2 := by
    subst v2
    refine Rel.foldl (fun u6 x6 hf6 => ?_) ?_
    · refine flushOut_rel (sub_of hc rfl) ?_
      exact hf6
    · exact hv0
  try clear_value v2
  try clear_value v3
  try clear_value v4
  have hv5 : Rel ch s v5 := by
    subst v5
    refine Rel.core _ (bit_of 16 hc rfl) ?_
    exact hv2
  try clear_value v5
  refine Rel.foldl (fun u7 x7 hf7 => ?_) ?_
  · refine portStandIn_rel (sub_of hc rfl) ?_
    exact hf7
  · exact hv5

theorem resetPort_rel {ch : Nat} {s u : State} {x1} (hc : 29842434 &&& ch = 29842434) (h : Rel ch s u) :
    Rel ch s (resetPort u x1) := by
  unfold resetPort
  extract_lets -merge -underBinder v0
  have hv0 : Rel ch s v0 := by
    subst v0
    refine flushPort_rel (sub_of hc rfl) ?_
    refine ecmpFail_rel (sub_of hc rfl) ?_
    refine newEntry__rel (sub_of hc rfl) ?_
    refine modPort_rel (sub_of hc rfl) ?_
    exact h
  try clear_value v0
  refine Rel.ite ?_ ?_
  · exact h
  · refine restartTakes_rel (sub_of hc rfl) ?_
    exact hv0

theorem portRun_rel {ch : Nat} {s u : State} {x1} (hc : 16384 &&& ch = 16384) (h : Rel ch s u) :
    Rel ch s (portRun u x1) := by
  unfold portRun
  refine modPort_rel (sub_of hc rfl) ?_
  exact h

theorem endPort_rel {ch : Nat} {s u : State} {x1} (hc : 147456 &&& ch = 147456) (h : Rel ch s u) :
    Rel ch s (endPort u x1) := by
  unfold endPort
  extract_lets -merge -underBinder v0
  try clear_value v0
  refine Rel.ite ?_ ?_
  · exact h
  · refine Rel.ite ?_ ?_
    · refine newEntry__rel (sub_of hc rfl) ?_
      refine modPort_rel (sub_of hc rfl) ?_
      exact h
    · refine portRun_rel (sub_of hc rfl) ?_
      exact h

theorem resetQuire_rel {ch : Nat} {s u : State} {x1} (hc : 29875202 &&& ch = 29875202) (h : Rel ch s u) :
    Rel ch s (resetQuire u x1) := by
  unfold resetQuire
  extract_lets -merge -underBinder v0 v1
  have hv0 : Rel ch s v0 := by
    subst v0
    refine modQuire_rel (sub_of hc rfl) ?_
    exact h
  try clear_value v0
  have hv1 : Rel ch s v1 := by
    subst v1
    refine newEntry__rel (sub_of hc rfl) ?_
    exact hv0
  try clear_value v1
  refine Rel.ite ?_ ?_
  · exact h
  · refine Rel.forL (fun u2 x2 hf2 => ?_) ?_
    · refine modPort_rel (sub_of hc rfl) ?_
      refine resetPort_rel (sub_of hc rfl) ?_
      exact hf2
    · exact hv1

theorem quireRun_rel {ch : Nat} {s u : State} {x1} (hc : 180224 &&& ch = 180224) (h : Rel ch s u) :
    Rel ch s (quireRun u x1) := by
  unfold quireRun
  extract_lets -merge -underBinder v0
  have hv0 : Rel ch s v0 := by
    subst v0
    refine modQuire_rel (sub_of hc rfl) ?_
    exact h
  try clear_value v0
  refine Rel.forL (fun u1 x1 hf1 => ?_) ?_
  · refine endPort_rel (sub_of hc rfl) ?_
    refine modPort_rel (sub_of hc rfl) ?_
    exact hf1
  · exact hv0

theorem endQuire_rel {ch : Nat} {s u : State} {x1} (hc : 180224 &&& ch = 180224) (h : Rel ch s u) :
    Rel ch s (endQuire u x1) := by
  unfold endQuire
  refine Rel.ite ?_ ?_
  · exact h
  · refine Rel.ite ?_ ?_
    · refine newEntry__rel (sub_of hc rfl) ?_
      refine modQuire_rel (sub_of hc rfl) ?_
      exact h
    · refine quireRun_rel (sub_of hc rfl) ?_
      exact h

theorem leaveService_rel {ch : Nat} {s u : State} {x1} (hc : 163802498 &&& ch = 163802498) (h : Rel ch s u) :
    Rel ch s (leaveService u x1) := by
  unfold leaveService
  refine loseQueue_rel (sub_of hc rfl) ?_
  refine loseTxns_rel (sub_of hc rfl) ?_
  refine loseChannel_rel (sub_of hc rfl) ?_
  exact h

theorem restamp_rel {ch : Nat} {s u : State} {x1} (hc : 65792 &&& ch = 65792) (h : Rel ch s u) :
    Rel ch s (restamp u x1) := by
  unfold restamp
  extract_lets -merge -underBinder v0 v1 v2 v3
  try clear_value v0
  try clear_value v1
  try clear_value v2
  try clear_value v3
  refine Rel.core_home _ (bit_of 16 hc rfl)  _ (bit_of 8 hc rfl) ?_
  exact h

theorem chanOpens_rel {ch : Nat} {s u : State} {x1} (hc : 21171202 &&& ch = 21171202) (h : Rel ch s u) :
    Rel ch s (chanOpens u x1) := by
  unfold chanOpens
  extract_lets -merge -underBinder v0 v1 v2
  try clear_value v0
  try clear_value v1
  have hv2 : Rel ch s v2 := by
    subst v2
    refine Rel.core _ (bit_of 16 hc rfl) ?_
    exact h
  try clear_value v2
  refine Rel.foldl (fun u3 x3 hf3 => ?_) ?_
  · refine standIn_rel (sub_of hc rfl) ?_
    exact hf3
  · exact hv2

theorem resetChan_rel {ch : Nat} {s u : State} {x1} (hc : 164068738 &&& ch = 164068738) (h : Rel ch s u) :
    Rel ch s (resetChan u x1) := by
  unfold resetChan
  extract_lets -merge -underBinder v0
  have hv0 : Rel ch s v0 := by
    subst v0
    refine modChan_rel (sub_of hc rfl) ?_
    exact h
  try clear_value v0
  refine Rel.ite ?_ ?_
  · exact h
  · refine restartTakes_rel (sub_of hc rfl) ?_
    refine chanOpens_rel (sub_of hc rfl) ?_
    refine restamp_rel (sub_of hc rfl) ?_
    refine leaveService_rel (sub_of hc rfl) ?_
    refine newEntry__rel (sub_of hc rfl) ?_
    exact hv0

theorem chanRun_rel {ch : Nat} {s u : State} {x1} (hc : 128 &&& ch = 128) (h : Rel ch s u) :
    Rel ch s (chanRun u x1) := by
  unfold chanRun
  refine modChan_rel (sub_of hc rfl) ?_
  exact h

theorem endChan_rel {ch : Nat} {s u : State} {x1} (hc : 131200 &&& ch = 131200) (h : Rel ch s u) :
    Rel ch s (endChan u x1) := by
  unfold endChan
  refine Rel.ite ?_ ?_
  · exact h
  · refine Rel.ite ?_ ?_
    · refine newEntry__rel (sub_of hc rfl) ?_
      refine modChan_rel (sub_of hc rfl) ?_
      exact h
    · refine chanRun_rel (sub_of hc rfl) ?_
      exact h

theorem resetMover_rel {ch : Nat} {s u : State} {x1} (hc : 88280834 &&& ch = 88280834) (h : Rel ch s u) :
    Rel ch s (resetMover u x1) := by
  unfold resetMover
  refine Rel.ite ?_ ?_
  · exact h
  · refine newEntry__rel (sub_of hc rfl) ?_
    refine modMov_rel (sub_of hc rfl) ?_
    refine resetMove_rel (sub_of hc rfl) ?_
    exact h

theorem moverRun_rel {ch : Nat} {s u : State} {x1} (hc : 2048 &&& ch = 2048) (h : Rel ch s u) :
    Rel ch s (moverRun u x1) := by
  unfold moverRun
  refine modMov_rel (sub_of hc rfl) ?_
  exact h

theorem endMover_rel {ch : Nat} {s u : State} {x1} (hc : 133120 &&& ch = 133120) (h : Rel ch s u) :
    Rel ch s (endMover u x1) := by
  unfold endMover
  refine Rel.ite ?_ ?_
  · exact h
  · refine Rel.ite ?_ ?_
    · refine newEntry__rel (sub_of hc rfl) ?_
      refine modMov_rel (sub_of hc rfl) ?_
      exact h
    · refine moverRun_rel (sub_of hc rfl) ?_
      exact h

theorem resetCtx_rel {ch : Nat} {s u : State} {x1} (hc : 625155842 &&& ch = 625155842) (h : Rel ch s u) :
    Rel ch s (resetCtx u x1) := by
  unfold resetCtx
  extract_lets -merge -underBinder v0
  have hv0 : Rel ch s v0 := by
    subst v0
    refine freeTakes_rel (sub_of hc rfl) ?_
    refine ctxClear_rel (sub_of hc rfl) ?_
    refine newEntry__rel (sub_of hc rfl) ?_
    exact h
  try clear_value v0
  refine Rel.ite ?_ ?_
  · exact h
  · refine Rel.forL (fun u1 x1 hf1 => ?_) ?_
    · refine resetMover_rel (sub_of hc rfl) ?_
      exact hf1
    · exact hv0

theorem zeroTenCtrs_rel {ch : Nat} {s u : State} {x1} (hc : 131072 &&& ch = 131072) (h : Rel ch s u) :
    Rel ch s (zeroTenCtrs u x1) := by
  unfold zeroTenCtrs
  extract_lets -merge -underBinder v0
  try clear_value v0
  refine Rel.cnt _ (bit_of 17 hc rfl) ?_
  exact h

theorem freeMcGroups_rel {ch : Nat} {s u : State} {x1} (hc : 65536 &&& ch = 65536) (h : Rel ch s u) :
    Rel ch s (freeMcGroups u x1) := by
  unfold freeMcGroups
  refine Rel.foldl (fun u0 x0 hf0 => ?_) ?_
  · refine modRgrp_rel (sub_of hc rfl) ?_
    exact hf0
  · exact h

theorem clearDeficit_rel {ch : Nat} {s u : State} {x1} (hc : 65536 &&& ch = 65536) (h : Rel ch s u) :
    Rel ch s (clearDeficit u x1) := by
  unfold clearDeficit
  extract_lets -merge -underBinder v0 v1
  try clear_value v0
  try clear_value v1
  refine Rel.core _ (bit_of 16 hc rfl) ?_
  exact h

theorem resetTenant_rel {ch : Nat} {s u : State} {x1} (hc : 633831170 &&& ch = 633831170) (h : Rel ch s u) :
    Rel ch s (resetTenant u x1) := by
  unfold resetTenant
  extract_lets -merge -underBinder v0 v1 v2 v3 v4 v5 v6 v7 v8
  try clear_value v0
  have hv1 : Rel ch s v1 := by
    subst v1
    refine newEntry__rel (sub_of hc rfl) ?_
    refine modTen_rel (sub_of hc rfl) ?_
    exact h
  try clear_value v1
  have hv2 : Rel ch s v2 := by
    subst v2
    refine flushTenant_rel (sub_of hc rfl) ?_
    exact hv1
  try clear_value v2
  have hv3 : Rel ch s v3 := by
    subst v3
    refine Rel.forL (fun u9 x9 hf9 => ?_) ?_
    · refine resetPort_rel (sub_of hc rfl) ?_
      exact hf9
    · exact hv2
  try clear_value v3
  have hv4 : Rel ch s v4 := by
    subst v4
    refine resetCtx_rel (sub_of hc rfl) ?_
    exact hv3
  try clear_value v4
  have hv5 : Rel ch s v5 := by
    subst v5
    refine modTen_rel (sub_of hc rfl) ?_
    refine freeMcGroups_rel (sub_of hc rfl) ?_
    exact hv4
  try clear_value v5
  have hv6 : Rel ch s v6 := by
    subst v6
    refine clearDeficit_rel (sub_of hc rfl) ?_
    refine zeroTenCtrs_rel (sub_of hc rfl) ?_
    exact hv5
  try clear_value v6
  have hv7 : Rel ch s v7 := by
    subst v7
    refine Rel.forL (fun u10 x10 hf10 => ?_) ?_
    · refine mirFinish_rel (sub_of hc rfl) ?_
      refine modMir_rel (sub_of hc rfl) ?_
      exact hf10
    · exact hv6
  try clear_value v7
  try clear_value v8
  refine Rel.ite ?_ ?_
  · exact h
  · refine Rel.home _ (bit_of 8 hc rfl) ?_
    exact hv7

/-- A tenant's deckles that a removal invalidates are not locked. -/
theorem tenDeckles_unlocked {s : State} {t i : Nat} (h : i ∈ tenDeckles s t) : (getDkl s i).locked = false := by
  unfold tenDeckles at h
  obtain ⟨e, he, rfl⟩ := List.mem_map.mp h
  have := (List.mem_filter.mp he).2
  simp only [Bool.and_eq_true, Bool.not_eq_true'] at this
  exact this.2

theorem releaseTenant_rel {ch : Nat} {s u : State} {x1} (hc : 805545472 &&& ch = 805545472) (h : Rel ch s u) :
    Rel ch s (releaseTenant u x1) := by
  unfold releaseTenant
  extract_lets -merge -underBinder v0 v1 v2 v3 v4 v5 v6 v7 v8 v9 v10 v11 v12 v13 v14
  try clear_value v0
  subst v1
  try dsimp -zeta -zetaUnused -proj only
  have hv2 : Rel ch s v2 := by
    subst v2
    refine Rel.forL (fun u15 x15 hf15 => ?_) ?_
    · extract_lets -merge -underBinder v16
      try clear_value v16
      refine Rel.forL (fun u17 x17 hf17 => ?_) ?_
      · refine Rel.forL (fun u18 x18 hf18 => ?_) ?_
        · refine releaseRed_rel (sub_of hc rfl) ?_
          exact hf18
        · refine modMeter_rel (sub_of hc rfl) ?_
          exact hf17
      · exact hf15
    · exact h
  try clear_value v2
  try clear_value v3
  try clear_value v4
  try clear_value v5
  try clear_value v6
  try clear_value v7
  have hv8 : Rel ch s v8 := by
    subst v8
    refine Rel.core _ (bit_of 16 hc rfl) ?_
    exact hv2
  try clear_value v8
  have hv9 : Rel ch s v9 := by
    subst v9
    refine clearDeckles_rel (fun i hi => tenDeckles_unlocked hi) (sub_of hc rfl) ?_
    exact hv8
  try clear_value v9
  try clear_value v10
  try clear_value v11
  have hv12 : Rel ch s v12 := by
    subst v12
    refine zeroTenCtrs_rel (sub_of hc rfl) ?_
    refine Rel.cnt _ (bit_of 17 hc rfl) ?_
    exact hv9
  try clear_value v12
  try clear_value v13
  have hv14 : Rel ch s v14 := by
    subst v14
    refine Rel.setCtx' _ _ (bit_of 10 hc rfl) (bit_of 29 hc rfl) ?_
    exact hv12
  try clear_value v14
  refine modTen_rel (sub_of hc rfl) ?_
  exact hv14

theorem endTenant_rel {ch : Nat} {s u : State} {x1} (hc : 818411008 &&& ch = 818411008) (h : Rel ch s u) :
    Rel ch s (endTenant u x1) := by
  unfold endTenant
  extract_lets -merge -underBinder v0 v1
  try clear_value v0
  have hv1 : Rel ch s v1 := by
    subst v1
    refine modTen_rel (sub_of hc rfl) ?_
    refine ctxRelease_rel (sub_of hc rfl) ?_
    exact h
  try clear_value v1
  refine Rel.ite ?_ ?_
  · exact h
  · refine Rel.ite ?_ ?_
    · refine restartTakes_rel (sub_of hc rfl) ?_
      refine releaseTenant_rel (sub_of hc rfl) ?_
      exact hv1
    · exact hv1

end Sys2Proof.Machine
end

