-- ==== Sys2Proof/Laws/RelSlots.lean ====
section
/-!
SUPPORT. What each operation of Slots.lean can change, and that it keeps what every command keeps (Laws/Rel.lean).
-/

namespace Sys2Proof.Machine

theorem hpVppbs_rel {ch : Nat} {s u : State} {x1 x2} (hc : 8192 &&& ch = 8192) (h : Rel ch s u) :
    Rel ch s (hpVppbs u x1 x2) := by
  unfold hpVppbs
  split
  · refine Rel.foldl (fun u0 x0 hf0 => ?_) ?_
    · refine modVppb_rel (sub_of hc rfl) ?_
      exact hf0
    · exact h
  · exact h

theorem slotEv_rel {ch : Nat} {s u : State} {x1 x2} (hc : 4334610 &&& ch = 4334610) (h : Rel ch s u) :
    Rel ch s (slotEv u x1 x2) := by
  unfold slotEv
  extract_lets -merge -underBinder v0 v1 v2 v3 v4
  try clear_value v0
  have hv1 : Rel ch s v1 := by
    subst v1
    refine modSlot_rel (sub_of hc rfl) ?_
    exact h
  try clear_value v1
  have hv2 : Rel ch s v2 := by
    subst v2
    refine Rel.ite ?_ ?_
    · refine hpVppbs_rel (sub_of hc rfl) ?_
      exact hv1
    · exact hv1
  try clear_value v2
  have hv3 : Rel ch s v3 := by
    subst v3
    refine stewEv_rel (sub_of hc rfl) ?_
    exact hv2
  try clear_value v3
  have hv4 : Rel ch s v4 := by
    subst v4
    refine Rel.ite ?_ ?_
    · refine pldmEv_rel (sub_of hc rfl) ?_
      exact hv3
    · exact hv3
  try clear_value v4
  refine Rel.ite ?_ ?_
  · exact hv2
  · refine Rel.ite ?_ ?_
    · refine tenEv?_rel (sub_of hc rfl) ?_
      exact hv4
    · exact hv4

theorem withdraw_rel {ch : Nat} {s u : State} {x1} (hc : 4 &&& ch = 4) (h : Rel ch s u) :
    Rel ch s (withdraw u x1) := by
  unfold withdraw
  extract_lets -merge -underBinder v0
  try clear_value v0
  refine Rel.pwr _ (bit_of 2 hc rfl) ?_
  exact h

theorem askGrant_rel {ch : Nat} {s u : State} {x1} (hc : 20 &&& ch = 20) (h : Rel ch s u) :
    Rel ch s (askGrant u x1) := by
  unfold askGrant
  extract_lets -merge -underBinder v0 v1
  have hv0 : Rel ch s v0 := by
    subst v0
    refine modSlot_rel (sub_of hc rfl) ?_
    exact h
  try clear_value v0
  try clear_value v1
  refine Rel.ite ?_ ?_
  · refine Rel.pwr _ (bit_of 2 hc rfl) ?_
    exact hv0
  · exact h

theorem warnOn_rel {ch : Nat} {s u : State} {x1} (hc : 4334610 &&& ch = 4334610) (h : Rel ch s u) :
    Rel ch s (warnOn u x1) := by
  unfold warnOn
  refine Rel.ite ?_ ?_
  · exact h
  · refine slotEv_rel (sub_of hc rfl) ?_
    refine modSlot_rel (sub_of hc rfl) ?_
    exact h

theorem enterRamp_rel {ch : Nat} {s u : State} {x1} (hc : 4334610 &&& ch = 4334610) (h : Rel ch s u) :
    Rel ch s (enterRamp u x1) := by
  unfold enterRamp
  extract_lets -merge -underBinder v0 v1
  have hv0 : Rel ch s v0 := by
    subst v0
    refine modSlot_rel (sub_of hc rfl) ?_
    exact h
  try clear_value v0
  try clear_value v1
  refine Rel.ite ?_ ?_
  · refine warnOn_rel (sub_of hc rfl) ?_
    exact hv0
  · exact hv0

theorem pgLost_rel {ch : Nat} {s u : State} {x1} (hc : 4334610 &&& ch = 4334610) (h : Rel ch s u) :
    Rel ch s (pgLost u x1) := by
  unfold pgLost
  refine Rel.ite ?_ ?_
  · refine slotEv_rel (sub_of hc rfl) ?_
    exact h
  · exact h

theorem latch_rel {ch : Nat} {s u : State} {x1} (hc : 4334610 &&& ch = 4334610) (h : Rel ch s u) :
    Rel ch s (latch u x1) := by
  unfold latch
  refine slotEv_rel (sub_of hc rfl) ?_
  refine modSlot_rel (sub_of hc rfl) ?_
  exact h

theorem endAttempt_rel {ch : Nat} {s u : State} {x1 x2} (hc : 4334610 &&& ch = 4334610) (h : Rel ch s u) :
    Rel ch s (endAttempt u x1 x2) := by
  unfold endAttempt
  extract_lets -merge -underBinder v0 v1 v2
  have hv0 : Rel ch s v0 := by
    subst v0
    refine slotEv_rel (sub_of hc rfl) ?_
    refine pgLost_rel (sub_of hc rfl) ?_
    exact h
  try clear_value v0
  have hv1 : Rel ch s v1 := by
    subst v1
    refine modSlot_rel (sub_of hc rfl) ?_
    exact hv0
  try clear_value v1
  try clear_value v2
  refine Rel.ite ?_ ?_
  · refine modSlot_rel (sub_of hc rfl) ?_
    exact hv1
  · refine latch_rel (sub_of hc rfl) ?_
    exact hv1

theorem slotOff_rel {ch : Nat} {s u : State} {x1 x2} (hc : 20 &&& ch = 20) (h : Rel ch s u) :
    Rel ch s (slotOff u x1 x2) := by
  unfold slotOff
  refine withdraw_rel (sub_of hc rfl) ?_
  refine modSlot_rel (sub_of hc rfl) ?_
  exact h

theorem execPresenceChange_rel {ch : Nat} {s u t : State} {x0 x1 x2} (hc : 16 &&& ch = 16) (h : Rel ch s u)
    (ht : execPresenceChange x0 x1 x2 u = .next t) : Rel ch s t := by
  unfold execPresenceChange at ht
  refine Rel.unitOk ?_ ht
  refine modSlot_rel (sub_of hc rfl) ?_
  exact h

theorem execSeatedQualified_rel {ch : Nat} {s u t : State} {x0} (hc : 4334614 &&& ch = 4334614) (h : Rel ch s u)
    (ht : execSeatedQualified x0 u = .next t) : Rel ch s t := by
  unfold execSeatedQualified at ht
  refine Rel.unitOk ?_ ht
  extract_lets -merge -underBinder v0 v1
  try clear_value v0
  have hv1 : Rel ch s v1 := by
    subst v1
    refine Rel.ite ?_ ?_
    · exact h
    · refine hpVppbs_rel (sub_of hc rfl) ?_
      refine modSlot_rel (sub_of hc rfl) ?_
      exact h
  try clear_value v1
  refine Rel.ite ?_ ?_
  · refine askGrant_rel (sub_of hc rfl) ?_
    refine slotEv_rel (sub_of hc rfl) ?_
    refine modSlot_rel (sub_of hc rfl) ?_
    exact hv1
  · exact hv1

theorem execSeatingLost_rel {ch : Nat} {s u t : State} {x0} (hc : 4334614 &&& ch = 4334614) (h : Rel ch s u)
    (ht : execSeatingLost x0 u = .next t) : Rel ch s t := by
  unfold execSeatingLost at ht
  refine Rel.unitOk ?_ ht
  extract_lets -merge -underBinder v0 v1
  try clear_value v0
  have hv1 : Rel ch s v1 := by
    subst v1
    refine slotEv_rel (sub_of hc rfl) ?_
    refine modSlot_rel (sub_of hc rfl) ?_
    exact h
  try clear_value v1
  refine Rel.ite ?_ ?_
  · exact h
  · split
    · refine withdraw_rel (sub_of hc rfl) ?_
      refine modSlot_rel (sub_of hc rfl) ?_
      exact hv1
    · extract_lets -merge -underBinder v2
      have hv2 : Rel ch s v2 := by
        subst v2
        refine modSlot_rel (sub_of hc rfl) ?_
        refine pgLost_rel (sub_of hc rfl) ?_
        exact hv1
      try clear_value v2
      refine Rel.ite ?_ ?_
      · refine latch_rel (sub_of hc rfl) ?_
        exact hv2
      · refine modSlot_rel (sub_of hc rfl) ?_
        exact hv2
    · extract_lets -merge -underBinder v3
      have hv3 : Rel ch s v3 := by
        subst v3
        refine modSlot_rel (sub_of hc rfl) ?_
        refine pgLost_rel (sub_of hc rfl) ?_
        exact hv1
      try clear_value v3
      refine Rel.ite ?_ ?_
      · refine latch_rel (sub_of hc rfl) ?_
        exact hv3
      · refine modSlot_rel (sub_of hc rfl) ?_
        exact hv3
    · exact hv1

theorem execSlotBudgetGrant_rel {ch : Nat} {s u t : State} (hc : 4334614 &&& ch = 4334614) (h : Rel ch s u)
    (ht : execSlotBudgetGrant u = .next t) : Rel ch s t := by
  unfold execSlotBudgetGrant at ht
  refine Rel.unitOk ?_ ht
  split
  · extract_lets -merge -underBinder v0 v1 v2
    try clear_value v0
    try clear_value v1
    have hv2 : Rel ch s v2 := by
      subst v2
      refine Rel.pwr _ (bit_of 2 hc rfl) ?_
      exact h
    try clear_value v2
    refine Rel.ite ?_ ?_
    · exact h
    · refine enterRamp_rel (sub_of hc rfl) ?_
      refine modSlot_rel (sub_of hc rfl) ?_
      exact hv2
  · exact h

theorem execBreakerArmed_rel {ch : Nat} {s u t : State} {x0} (hc : 16 &&& ch = 16) (h : Rel ch s u)
    (ht : execBreakerArmed x0 u = .next t) : Rel ch s t := by
  unfold execBreakerArmed at ht
  refine Rel.unitOk ?_ ht
  refine Rel.ite ?_ ?_
  · refine modSlot_rel (sub_of hc rfl) ?_
    exact h
  · exact h

theorem execPowerGoodQualified_rel {ch : Nat} {s u t : State} {x0} (hc : 4334610 &&& ch = 4334610) (h : Rel ch s u)
    (ht : execPowerGoodQualified x0 u = .next t) : Rel ch s t := by
  unfold execPowerGoodQualified at ht
  refine Rel.unitOk ?_ ht
  extract_lets -merge -underBinder v0
  try clear_value v0
  refine Rel.ite ?_ ?_
  · exact h
  · refine slotEv_rel (sub_of hc rfl) ?_
    refine modSlot_rel (sub_of hc rfl) ?_
    exact h

theorem execPerstReleaseTimer_rel {ch : Nat} {s u t : State} {x0} (hc : 16 &&& ch = 16) (h : Rel ch s u)
    (ht : execPerstReleaseTimer x0 u = .next t) : Rel ch s t := by
  unfold execPerstReleaseTimer at ht
  refine Rel.unitOk ?_ ht
  refine Rel.ite ?_ ?_
  · refine modSlot_rel (sub_of hc rfl) ?_
    exact h
  · exact h

theorem execRampTimeout_rel {ch : Nat} {s u t : State} {x0} (hc : 4334610 &&& ch = 4334610) (h : Rel ch s u)
    (ht : execRampTimeout x0 u = .next t) : Rel ch s t := by
  unfold execRampTimeout at ht
  refine Rel.unitOk ?_ ht
  refine Rel.ite ?_ ?_
  · refine endAttempt_rel (sub_of hc rfl) ?_
    exact h
  · exact h

theorem execFastTrip_rel {ch : Nat} {s u t : State} {x0} (hc : 4334610 &&& ch = 4334610) (h : Rel ch s u)
    (ht : execFastTrip x0 u = .next t) : Rel ch s t := by
  unfold execFastTrip at ht
  refine Rel.unitOk ?_ ht
  refine Rel.ite ?_ ?_
  · refine endAttempt_rel (sub_of hc rfl) ?_
    exact h
  · exact h

theorem execBreakerThresholdCross_rel {ch : Nat} {s u t : State} {x0 x1} (hc : 16 &&& ch = 16) (h : Rel ch s u)
    (ht : execBreakerThresholdCross x0 x1 u = .next t) : Rel ch s t := by
  unfold execBreakerThresholdCross at ht
  refine Rel.unitOk ?_ ht
  refine Rel.ite ?_ ?_
  · refine modSlot_rel (sub_of hc rfl) ?_
    exact h
  · exact h

theorem execBreakerExpiry_rel {ch : Nat} {s u t : State} {x0} (hc : 4334610 &&& ch = 4334610) (h : Rel ch s u)
    (ht : execBreakerExpiry x0 u = .next t) : Rel ch s t := by
  unfold execBreakerExpiry at ht
  refine Rel.unitOk ?_ ht
  refine Rel.ite ?_ ?_
  · refine endAttempt_rel (sub_of hc rfl) ?_
    exact h
  · exact h

theorem execBackoffEnd_rel {ch : Nat} {s u t : State} {x0} (hc : 4334610 &&& ch = 4334610) (h : Rel ch s u)
    (ht : execBackoffEnd x0 u = .next t) : Rel ch s t := by
  unfold execBackoffEnd at ht
  refine Rel.unitOk ?_ ht
  extract_lets -merge -underBinder v0
  try clear_value v0
  refine Rel.ite ?_ ?_
  · exact h
  · refine Rel.ite ?_ ?_
    · refine latch_rel (sub_of hc rfl) ?_
      exact h
    · refine Rel.ite ?_ ?_
      · refine enterRamp_rel (sub_of hc rfl) ?_
        refine modSlot_rel (sub_of hc rfl) ?_
        exact h
      · refine modSlot_rel (sub_of hc rfl) ?_
        exact h

theorem execRetryCountReset_rel {ch : Nat} {s u t : State} {x0} (hc : 16 &&& ch = 16) (h : Rel ch s u)
    (ht : execRetryCountReset x0 u = .next t) : Rel ch s t := by
  unfold execRetryCountReset at ht
  refine Rel.unitOk ?_ ht
  refine Rel.ite ?_ ?_
  · refine modSlot_rel (sub_of hc rfl) ?_
    exact h
  · exact h

theorem execSlotGrantRelease_rel {ch : Nat} {s u t : State} {x0} (hc : 16 &&& ch = 16) (h : Rel ch s u)
    (ht : execSlotGrantRelease x0 u = .next t) : Rel ch s t := by
  unfold execSlotGrantRelease at ht
  refine Rel.unitOk ?_ ht
  refine Rel.ite ?_ ?_
  · refine modSlot_rel (sub_of hc rfl) ?_
    exact h
  · exact h

theorem execVinWarn_rel {ch : Nat} {s u t : State} {x0} (hc : 4334610 &&& ch = 4334610) (h : Rel ch s u)
    (ht : execVinWarn x0 u = .next t) : Rel ch s t := by
  unfold execVinWarn at ht
  refine Rel.unitOk ?_ ht
  extract_lets -merge -underBinder v0
  have hv0 : Rel ch s v0 := by
    subst v0
    refine modSlot_rel (sub_of hc rfl) ?_
    exact h
  try clear_value v0
  refine Rel.ite ?_ ?_
  · refine warnOn_rel (sub_of hc rfl) ?_
    exact hv0
  · exact hv0

theorem execWarnRelease_rel {ch : Nat} {s u t : State} {x0} (hc : 16 &&& ch = 16) (h : Rel ch s u)
    (ht : execWarnRelease x0 u = .next t) : Rel ch s t := by
  unfold execWarnRelease at ht
  refine Rel.unitOk ?_ ht
  extract_lets -merge -underBinder v0 v1
  have hv0 : Rel ch s v0 := by
    subst v0
    refine modSlot_rel (sub_of hc rfl) ?_
    exact h
  try clear_value v0
  try clear_value v1
  refine Rel.ite ?_ ?_
  · exact hv0
  · refine modSlot_rel (sub_of hc rfl) ?_
    exact hv0

theorem execPwrfailInAssert_rel {ch : Nat} {s u t : State} {x0} (hc : 4334642 &&& ch = 4334642) (h : Rel ch s u)
    (ht : execPwrfailInAssert x0 u = .next t) : Rel ch s t := by
  unfold execPwrfailInAssert at ht
  refine Rel.unitOk ?_ ht
  extract_lets -merge -underBinder v0
  have hv0 : Rel ch s v0 := by
    subst v0
    refine Rel.pwrfail _ (bit_of 5 hc rfl) ?_
    exact h
  try clear_value v0
  refine Rel.ite ?_ ?_
  · refine Rel.forL (fun u1 x1 hf1 => ?_) ?_
    · refine warnOn_rel (sub_of hc rfl) ?_
      exact hf1
    · exact hv0
  · exact hv0

theorem execVinUndervoltage_rel {ch : Nat} {s u t : State} {x0} (hc : 4334610 &&& ch = 4334610) (h : Rel ch s u)
    (ht : execVinUndervoltage x0 u = .next t) : Rel ch s t := by
  unfold execVinUndervoltage at ht
  refine Rel.unitOk ?_ ht
  refine Rel.ite ?_ ?_
  · refine slotEv_rel (sub_of hc rfl) ?_
    refine modSlot_rel (sub_of hc rfl) ?_
    refine pgLost_rel (sub_of hc rfl) ?_
    exact h
  · exact h

theorem execVinRestored_rel {ch : Nat} {s u t : State} {x0} (hc : 4334610 &&& ch = 4334610) (h : Rel ch s u)
    (ht : execVinRestored x0 u = .next t) : Rel ch s t := by
  unfold execVinRestored at ht
  refine Rel.unitOk ?_ ht
  extract_lets -merge -underBinder v0
  try clear_value v0
  refine Rel.ite ?_ ?_
  · exact h
  · refine Rel.ite ?_ ?_
    · refine enterRamp_rel (sub_of hc rfl) ?_
      exact h
    · refine modSlot_rel (sub_of hc rfl) ?_
      exact h

theorem execPassDeviceFailure_rel {ch : Nat} {s u t : State} {x0} (hc : 4334614 &&& ch = 4334614) (h : Rel ch s u)
    (ht : execPassDeviceFailure x0 u = .next t) : Rel ch s t := by
  unfold execPassDeviceFailure at ht
  refine Rel.unitOk ?_ ht
  extract_lets -merge -underBinder v0 v1
  try clear_value v0
  have hv1 : Rel ch s v1 := by
    subst v1
    refine withdraw_rel (sub_of hc rfl) ?_
    exact h
  try clear_value v1
  refine Rel.ite ?_ ?_
  · exact h
  · refine slotEv_rel (sub_of hc rfl) ?_
    refine modSlot_rel (sub_of hc rfl) ?_
    exact hv1

theorem execControlExchangeLoss_rel {ch : Nat} {s u t : State} (hc : 64 &&& ch = 64) (h : Rel ch s u)
    (ht : execControlExchangeLoss u = .next t) : Rel ch s t := by
  unfold execControlExchangeLoss at ht
  refine Rel.unitOk ?_ ht
  refine Rel.slotHold _ (bit_of 6 hc rfl) ?_
  exact h

theorem execControlExchangeResume_rel {ch : Nat} {s u t : State} (hc : 4326466 &&& ch = 4326466) (h : Rel ch s u)
    (ht : execControlExchangeResume u = .next t) : Rel ch s t := by
  unfold execControlExchangeResume at ht
  refine Rel.unitOk ?_ ht
  refine Rel.ite ?_ ?_
  · refine stewEv_rel (sub_of hc rfl) ?_
    refine Rel.slotHold _ (bit_of 6 hc rfl) ?_
    exact h
  · exact h

theorem resetSlot_rel {ch : Nat} {s u : State} {x1} (hc : 131092 &&& ch = 131092) (h : Rel ch s u) :
    Rel ch s (resetSlot u x1) := by
  unfold resetSlot
  extract_lets -merge -underBinder v0
  have hv0 : Rel ch s v0 := by
    subst v0
    refine slotOff_rel (sub_of hc rfl) ?_
    exact h
  try clear_value v0
  refine Rel.ite ?_ ?_
  · exact h
  · refine newEntry__rel (sub_of hc rfl) ?_
    refine modSlot_rel (sub_of hc rfl) ?_
    exact hv0

theorem endSlot_rel {ch : Nat} {s u : State} {x1} (hc : 16 &&& ch = 16) (h : Rel ch s u) :
    Rel ch s (endSlot u x1) := by
  unfold endSlot
  refine Rel.ite ?_ ?_
  · refine modSlot_rel (sub_of hc rfl) ?_
    exact h
  · exact h

theorem slotRun_rel {ch : Nat} {s u : State} {x0 x1 x2 f3} (hc : 12993538 &&& ch = 12993538) (hh3 : ∀ a0 a1, Rel ch s a0 → Rel ch s (f3 a0 a1)) (h : Rel ch s u) :
    Rel ch s (slotRun x0 x1 x2 f3 u) := by
  unfold slotRun
  extract_lets -merge -underBinder v0 v1
  try clear_value v0
  try clear_value v1
  refine Rel.ite ?_ ?_
  · exact h
  · refine oxRun_rel (sub_of hc rfl) (fun y3 y4 hf2 => ?_) ?_
    · refine Rel.ite ?_ ?_
      · refine retireSt_rel (sub_of hc rfl) ?_
        exact hf2
      · refine hh3 _ _ ?_
        exact hf2
    · exact h

theorem cmdDone_rel {ch : Nat} {s u : State} {x1} (hc : 24576 &&& ch = 24576) (h : Rel ch s u) :
    Rel ch s (cmdDone u x1) := by
  unfold cmdDone
  split
  · refine Rel.ite ?_ ?_
    · refine hpVppbs_rel (sub_of hc rfl) ?_
      refine modPort_rel (sub_of hc rfl) ?_
      exact h
    · exact h
  · exact h

theorem execSlotOn_rel {ch : Nat} {s u t : State} {x0 x1} (hc : 13526038 &&& ch = 13526038) (h : Rel ch s u)
    (ht : execSlotOn x0 x1 u = .next t) : Rel ch s t := by
  unfold execSlotOn at ht
  refine Rel.unitOk ?_ ht
  refine slotRun_rel (sub_of hc rfl) (fun y1 y2 hf0 => ?_) ?_
  · refine Rel.ite ?_ ?_
    · refine retireSt_rel (sub_of hc rfl) ?_
      exact hf0
    · refine retireSt_rel (sub_of hc rfl) ?_
      refine cmdDone_rel (sub_of hc rfl) ?_
      refine askGrant_rel (sub_of hc rfl) ?_
      refine modSlot_rel (sub_of hc rfl) ?_
      refine tapEnd_rel (sub_of hc rfl) ?_
      exact hf0
  · exact h

theorem execSlotOff_rel {ch : Nat} {s u t : State} {x0 x1} (hc : 13001750 &&& ch = 13001750) (h : Rel ch s u)
    (ht : execSlotOff x0 x1 u = .next t) : Rel ch s t := by
  unfold execSlotOff at ht
  refine Rel.unitOk ?_ ht
  refine slotRun_rel (sub_of hc rfl) (fun y1 y2 hf0 => ?_) ?_
  · extract_lets -merge -underBinder v3 v4
    try clear_value v3
    have hv4 : Rel ch s v4 := by
      subst v4
      refine Rel.ite ?_ ?_
      · exact hf0
      · refine slotOff_rel (sub_of hc rfl) ?_
        exact hf0
    try clear_value v4
    refine retireSt_rel (sub_of hc rfl) ?_
    refine cmdDone_rel (sub_of hc rfl) ?_
    exact hv4
  · exact h

theorem execSlotClear_rel {ch : Nat} {s u t : State} {x0 x1} (hc : 12993554 &&& ch = 12993554) (h : Rel ch s u)
    (ht : execSlotClear x0 x1 u = .next t) : Rel ch s t := by
  unfold execSlotClear at ht
  refine Rel.unitOk ?_ ht
  refine slotRun_rel (sub_of hc rfl) (fun y1 y2 hf0 => ?_) ?_
  · split
    · refine retireSt_rel (sub_of hc rfl) ?_
      refine modSlot_rel (sub_of hc rfl) ?_
      exact hf0
    · refine retireSt_rel (sub_of hc rfl) ?_
      refine modSlot_rel (sub_of hc rfl) ?_
      exact hf0
    · refine retireSt_rel (sub_of hc rfl) ?_
      exact hf0
  · exact h

theorem execSlotDeclare_rel {ch : Nat} {s u t : State} {x0 x1} (hc : 12993554 &&& ch = 12993554) (h : Rel ch s u)
    (ht : execSlotDeclare x0 x1 u = .next t) : Rel ch s t := by
  unfold execSlotDeclare at ht
  refine Rel.unitOk ?_ ht
  refine slotRun_rel (sub_of hc rfl) (fun y1 y2 hf0 => ?_) ?_
  · extract_lets -merge -underBinder v3
    try clear_value v3
    refine Rel.ite ?_ ?_
    · refine retireSt_rel (sub_of hc rfl) ?_
      exact hf0
    · refine retireSt_rel (sub_of hc rfl) ?_
      refine modSlot_rel (sub_of hc rfl) ?_
      exact hf0
  · exact h

theorem execSlotStatus_rel {ch : Nat} {s u t : State} {x0 x1} (hc : 549864450 &&& ch = 549864450) (h : Rel ch s u)
    (ht : execSlotStatus x0 x1 u = .next t) : Rel ch s t := by
  unfold execSlotStatus at ht
  refine Rel.unitOk ?_ ht
  refine slotRun_rel (sub_of hc rfl) (fun y1 y2 hf0 => ?_) ?_
  · refine retireK_rel (sub_of hc rfl) ?_
    exact hf0
  · exact h

end Sys2Proof.Machine
end

