-- ==== Sys2Proof/Laws/RelPower.lean ====
section
/-!
SUPPORT. What each operation of Power.lean can change, and that it keeps what every command keeps (Laws/Rel.lean).
-/

namespace Sys2Proof.Machine

theorem stepLevel_rel {ch : Nat} {s u : State} {x1 x2} (hc : 4 &&& ch = 4) (h : Rel ch s u) :
    Rel ch s (stepLevel u x1 x2) := by
  unfold stepLevel
  extract_lets -merge -underBinder v0 v1
  try clear_value v0
  try clear_value v1
  refine Rel.ite ?_ ?_
  · exact h
  · refine Rel.pwr _ (bit_of 2 hc rfl) ?_
    exact h

theorem capStep_rel {ch : Nat} {s u : State} {x1} (hc : 4 &&& ch = 4) (h : Rel ch s u) :
    Rel ch s (capStep u x1) := by
  unfold capStep
  refine Rel.ite ?_ ?_
  · split
    · refine stepLevel_rel (sub_of hc rfl) ?_
      exact h
    · exact h
  · refine Rel.ite ?_ ?_
    · split
      · refine stepLevel_rel (sub_of hc rfl) ?_
        exact h
      · exact h
    · exact h

theorem limitSteps_rel {ch : Nat} {s u : State} (hc : 4 &&& ch = 4) (h : Rel ch s u) :
    Rel ch s (limitSteps u) := by
  unfold limitSteps
  refine Rel.forL (fun u0 x0 hf0 => ?_) ?_
  · refine Rel.ite ?_ ?_
    · refine stepLevel_rel (sub_of hc rfl) ?_
      exact hf0
    · exact hf0
  · exact h

theorem execBudgetEvaluation_rel {ch : Nat} {s u t : State} (hc : 4 &&& ch = 4) (h : Rel ch s u)
    (ht : execBudgetEvaluation u = .next t) : Rel ch s t := by
  unfold execBudgetEvaluation at ht
  refine Rel.unitOk ?_ ht
  extract_lets -merge -underBinder v0
  try clear_value v0
  refine Rel.pwr _ (bit_of 2 hc rfl) ?_
  refine limitSteps_rel (sub_of hc rfl) ?_
  refine capStep_rel (sub_of hc rfl) ?_
  exact h

theorem execCapUnmet_rel {ch : Nat} {s u t : State} (hc : 4326406 &&& ch = 4326406) (h : Rel ch s u)
    (ht : execCapUnmet u = .next t) : Rel ch s t := by
  unfold execCapUnmet at ht
  refine Rel.unitOk ?_ ht
  extract_lets -merge -underBinder v0
  try clear_value v0
  refine Rel.ite ?_ ?_
  · exact h
  · refine pldmEv_rel (sub_of hc rfl) ?_
    refine powerEv_rel (sub_of hc rfl) ?_
    refine Rel.pwr _ (bit_of 2 hc rfl) ?_
    exact h

theorem execTrainingBurstGrant_rel {ch : Nat} {s u t : State} (hc : 4 &&& ch = 4) (h : Rel ch s u)
    (ht : execTrainingBurstGrant u = .next t) : Rel ch s t := by
  unfold execTrainingBurstGrant at ht
  refine Rel.unitOk ?_ ht
  split
  · extract_lets -merge -underBinder v0
    try clear_value v0
    refine Rel.ite ?_ ?_
    · refine Rel.pwr _ (bit_of 2 hc rfl) ?_
      exact h
    · exact h
  · exact h

theorem execAvsWriteFailure_rel {ch : Nat} {s u t : State} (hc : 4326406 &&& ch = 4326406) (h : Rel ch s u)
    (ht : execAvsWriteFailure u = .next t) : Rel ch s t := by
  unfold execAvsWriteFailure at ht
  refine Rel.unitOk ?_ ht
  extract_lets -merge -underBinder v0 v1 v2
  try clear_value v0
  try clear_value v1
  have hv2 : Rel ch s v2 := by
    subst v2
    refine Rel.pwr _ (bit_of 2 hc rfl) ?_
    exact h
  try clear_value v2
  refine Rel.ite ?_ ?_
  · exact hv2
  · refine powerEv_rel (sub_of hc rfl) ?_
    exact hv2

theorem execThermalCapStep_rel {ch : Nat} {s u t : State} (hc : 4 &&& ch = 4) (h : Rel ch s u)
    (ht : execThermalCapStep u = .next t) : Rel ch s t := by
  unfold execThermalCapStep at ht
  refine Rel.unitOk ?_ ht
  extract_lets -merge -underBinder v0
  try clear_value v0
  refine Rel.pwr _ (bit_of 2 hc rfl) ?_
  exact h

theorem execTempRefresh_rel {ch : Nat} {s u t : State} {x0} (hc : 4326415 &&& ch = 4326415) (h : Rel ch s u)
    (ht : execTempRefresh x0 u = .next t) : Rel ch s t := by
  unfold execTempRefresh at ht
  refine Rel.unitOk ?_ ht
  extract_lets -merge -underBinder v0 v1 v2 v3 v4 v5 v6 v7 v8 v9 v10 v11
  try clear_value v0
  try clear_value v1
  try clear_value v2
  try clear_value v3
  try clear_value v4
  try clear_value v5
  try clear_value v6
  subst v7
  try clear_value v8
  try clear_value v9
  have hv10 : Rel ch s v10 := by
    subst v10
    refine Rel.pace_pwr_glb _ (bit_of 3 hc rfl)  _ (bit_of 2 hc rfl)  _ ⟨rfl, rfl, rfl, rfl, rfl, rfl⟩ (bit_of 0 hc rfl) ?_
    exact h
  try clear_value v10
  have hv11 : Rel ch s v11 := by
    subst v11
    refine Rel.ite ?_ ?_
    · refine pldmEv_rel (sub_of hc rfl) ?_
      refine powerEv_rel (sub_of hc rfl) ?_
      exact hv10
    · exact hv10
  try clear_value v11
  refine Rel.ite ?_ ?_
  · refine pldmEv_rel (sub_of hc rfl) ?_
    refine powerEv_rel (sub_of hc rfl) ?_
    exact hv11
  · exact hv11

theorem budgetRun_rel {ch : Nat} {s u : State} {x0 x1 x2 f3} (hc : 12993538 &&& ch = 12993538) (hh3 : ∀ a0 a1, Rel ch s a0 → Rel ch s (f3 a0 a1)) (h : Rel ch s u) :
    Rel ch s (budgetRun x0 x1 x2 f3 u) := by
  unfold budgetRun
  extract_lets -merge -underBinder v0 v1
  try clear_value v0
  try clear_value v1
  refine Rel.ite ?_ ?_
  · exact h
  · refine oxRun_rel (sub_of hc rfl) (fun y3 y4 hf2 => ?_) ?_
    · refine hh3 _ _ ?_
      exact hf2
    · exact h

theorem execBudgetCap_rel {ch : Nat} {s u t : State} {x0 x1} (hc : 12993542 &&& ch = 12993542) (h : Rel ch s u)
    (ht : execBudgetCap x0 x1 u = .next t) : Rel ch s t := by
  unfold execBudgetCap at ht
  refine Rel.unitOk ?_ ht
  refine budgetRun_rel (sub_of hc rfl) (fun y1 y2 hf0 => ?_) ?_
  · extract_lets -merge -underBinder v3 v4
    try clear_value v3
    try clear_value v4
    refine retireSt_rel (sub_of hc rfl) ?_
    refine Rel.pwr _ (bit_of 2 hc rfl) ?_
    exact hf0
  · exact h

theorem execBudgetLimit_rel {ch : Nat} {s u t : State} {x0 x1} (hc : 12993542 &&& ch = 12993542) (h : Rel ch s u)
    (ht : execBudgetLimit x0 x1 u = .next t) : Rel ch s t := by
  unfold execBudgetLimit at ht
  refine Rel.unitOk ?_ ht
  refine budgetRun_rel (sub_of hc rfl) (fun y1 y2 hf0 => ?_) ?_
  · extract_lets -merge -underBinder v3
    try clear_value v3
    refine retireSt_rel (sub_of hc rfl) ?_
    refine Rel.pwr _ (bit_of 2 hc rfl) ?_
    exact hf0
  · exact h

theorem execBudgetRead_rel {ch : Nat} {s u t : State} {x0 x1} (hc : 549864450 &&& ch = 549864450) (h : Rel ch s u)
    (ht : execBudgetRead x0 x1 u = .next t) : Rel ch s t := by
  unfold execBudgetRead at ht
  refine Rel.unitOk ?_ ht
  refine budgetRun_rel (sub_of hc rfl) (fun y1 y2 hf0 => ?_) ?_
  · extract_lets -merge -underBinder v3
    try clear_value v3
    refine retireK_rel (sub_of hc rfl) ?_
    exact hf0
  · exact h

end Sys2Proof.Machine
end

