-- ==== Sys2Proof/Laws/RelPace.lean ====
section
/-!
SUPPORT. What each operation of Pace.lean can change, and that it keeps what every command keeps (Laws/Rel.lean).
-/

namespace Sys2Proof.Machine

theorem loopEval_rel {ch : Nat} {s u : State} {x1} (hc : 4194308 &&& ch = 4194308) (h : Rel ch s u) :
    Rel ch s (loopEval u x1) := by
  unfold loopEval
  extract_lets -merge -underBinder v0 v1 v2
  try clear_value v0
  try clear_value v1
  have hv2 : Rel ch s v2 := by
    subst v2
    refine Rel.pwr _ (bit_of 2 hc rfl) ?_
    exact h
  try clear_value v2
  refine Rel.ite ?_ ?_
  · exact h
  · refine Rel.ite ?_ ?_
    · exact hv2
    · refine emit_rel (sub_of hc rfl) ?_
      exact hv2

theorem floorStep_rel {ch : Nat} {s u : State} {x1} (hc : 4326410 &&& ch = 4326410) (h : Rel ch s u) :
    Rel ch s (floorStep u x1) := by
  unfold floorStep
  extract_lets -merge -underBinder v0 v1 v2 v3
  try clear_value v0
  try clear_value v1
  try clear_value v2
  try clear_value v3
  refine Rel.ite ?_ ?_
  · exact h
  · refine Rel.ite ?_ ?_
    · refine powerEv_rel (sub_of hc rfl) ?_
      refine Rel.pace _ (bit_of 3 hc rfl) ?_
      exact h
    · refine Rel.pace _ (bit_of 3 hc rfl) ?_
      exact h

theorem execPaceWindowEnd_rel {ch : Nat} {s u t : State} {x0 x1} (hc : 4326414 &&& ch = 4326414) (h : Rel ch s u)
    (ht : execPaceWindowEnd x0 x1 u = .next t) : Rel ch s t := by
  unfold execPaceWindowEnd at ht
  refine Rel.unitOk ?_ ht
  extract_lets -merge -underBinder v0 v1
  try clear_value v0
  try clear_value v1
  refine cntAdd_rel (sub_of hc rfl) ?_
  refine loopEval_rel (sub_of hc rfl) ?_
  refine floorStep_rel (sub_of hc rfl) ?_
  refine Rel.pace_pwr _ (bit_of 3 hc rfl)  _ (bit_of 2 hc rfl) ?_
  exact h

theorem execPaceHistoryHour_rel {ch : Nat} {s u t : State} {x0} (hc : 9 &&& ch = 9) (h : Rel ch s u)
    (ht : execPaceHistoryHour x0 u = .next t) : Rel ch s t := by
  unfold execPaceHistoryHour at ht
  refine Rel.unitOk ?_ ht
  extract_lets -merge -underBinder v0 v1
  subst v0
  try clear_value v1
  refine Rel.pace_glb _ (bit_of 3 hc rfl)  _ ⟨rfl, rfl, rfl, rfl, rfl, rfl⟩ (bit_of 0 hc rfl) ?_
  exact h

theorem paceTargetWrite_rel {ch : Nat} {s u : State} {x1} (hc : 4 &&& ch = 4) (h : Rel ch s u) :
    Rel ch s (paceTargetWrite u x1) := by
  unfold paceTargetWrite
  extract_lets -merge -underBinder v0
  try clear_value v0
  refine Rel.pwr _ (bit_of 2 hc rfl) ?_
  exact h

theorem execPaceTargetWrite_rel {ch : Nat} {s u t : State} {x0} (hc : 4 &&& ch = 4) (h : Rel ch s u)
    (ht : execPaceTargetWrite x0 u = .next t) : Rel ch s t := by
  unfold execPaceTargetWrite at ht
  refine Rel.unitOk ?_ ht
  refine paceTargetWrite_rel (sub_of hc rfl) ?_
  exact h

theorem paceCtrlWrite_rel {ch : Nat} {s u : State} {x1} (hc : 131080 &&& ch = 131080) (h : Rel ch s u) :
    Rel ch s (paceCtrlWrite u x1) := by
  unfold paceCtrlWrite
  extract_lets -merge -underBinder v0 v1 v2
  try clear_value v0
  try clear_value v1
  have hv2 : Rel ch s v2 := by
    subst v2
    refine Rel.pace _ (bit_of 3 hc rfl) ?_
    exact h
  try clear_value v2
  refine Rel.ite ?_ ?_
  · refine logAt_rel (sub_of hc rfl) ?_
    exact hv2
  · exact hv2

theorem execPaceCtrlWrite_rel {ch : Nat} {s u t : State} {x0} (hc : 131080 &&& ch = 131080) (h : Rel ch s u)
    (ht : execPaceCtrlWrite x0 u = .next t) : Rel ch s t := by
  unfold execPaceCtrlWrite at ht
  refine Rel.unitOk ?_ ht
  refine paceCtrlWrite_rel (sub_of hc rfl) ?_
  exact h

theorem paceRun_rel {ch : Nat} {s u : State} {x0 x1 x2 f3} (hc : 12993538 &&& ch = 12993538) (hh3 : ∀ a0, Rel ch s a0 → Rel ch s (f3 a0)) (h : Rel ch s u) :
    Rel ch s (paceRun x0 x1 x2 f3 u) := by
  unfold paceRun
  extract_lets -merge -underBinder v0
  try clear_value v0
  refine Rel.ite ?_ ?_
  · exact h
  · refine oxRun_rel (sub_of hc rfl) (fun y2 y3 hf1 => ?_) ?_
    · refine hh3 _ ?_
      exact hf1
    · exact h

theorem execPaceTarget_rel {ch : Nat} {s u t : State} {x0 x1} (hc : 12993542 &&& ch = 12993542) (h : Rel ch s u)
    (ht : execPaceTarget x0 x1 u = .next t) : Rel ch s t := by
  unfold execPaceTarget at ht
  refine Rel.unitOk ?_ ht
  refine paceRun_rel (sub_of hc rfl) (fun y1 hf0 => ?_) ?_
  · extract_lets -merge -underBinder v2
    try clear_value v2
    refine retireSt_rel (sub_of hc rfl) ?_
    refine Rel.pwr _ (bit_of 2 hc rfl) ?_
    exact hf0
  · exact h

theorem execPaceLoop_rel {ch : Nat} {s u t : State} {x0 x1} (hc : 12993542 &&& ch = 12993542) (h : Rel ch s u)
    (ht : execPaceLoop x0 x1 u = .next t) : Rel ch s t := by
  unfold execPaceLoop at ht
  refine Rel.unitOk ?_ ht
  refine paceRun_rel (sub_of hc rfl) (fun y1 hf0 => ?_) ?_
  · extract_lets -merge -underBinder v2
    try clear_value v2
    refine retireSt_rel (sub_of hc rfl) ?_
    refine Rel.pwr _ (bit_of 2 hc rfl) ?_
    exact hf0
  · exact h

theorem execPaceReadStatus_rel {ch : Nat} {s u t : State} {x0 x1} (hc : 549864450 &&& ch = 549864450) (h : Rel ch s u)
    (ht : execPaceReadStatus x0 x1 u = .next t) : Rel ch s t := by
  unfold execPaceReadStatus at ht
  refine Rel.unitOk ?_ ht
  refine paceRun_rel (sub_of hc rfl) (fun y1 hf0 => ?_) ?_
  · refine retireK_rel (sub_of hc rfl) ?_
    exact hf0
  · exact h

theorem execPaceReadVcore_rel {ch : Nat} {s u t : State} {x0 x1} (hc : 549864450 &&& ch = 549864450) (h : Rel ch s u)
    (ht : execPaceReadVcore x0 x1 u = .next t) : Rel ch s t := by
  unfold execPaceReadVcore at ht
  refine Rel.unitOk ?_ ht
  refine paceRun_rel (sub_of hc rfl) (fun y1 hf0 => ?_) ?_
  · refine retireK_rel (sub_of hc rfl) ?_
    exact hf0
  · exact h

end Sys2Proof.Machine
end

