-- ==== Sys2Proof/Laws/RelPorts.lean ====
section
/-!
SUPPORT. What each operation of Ports.lean can change, and that it keeps what every command keeps (Laws/Rel.lean).
-/

namespace Sys2Proof.Machine

theorem cfgIgnored_rel {ch : Nat} {s u : State} {x1} (hc : 131072 &&& ch = 131072) (h : Rel ch s u) :
    Rel ch s (cfgIgnored u x1) := by
  unfold cfgIgnored
  refine logEvent_rel (sub_of hc rfl) ?_
  exact h

theorem cfgError_rel {ch : Nat} {s u : State} {x1 x2} (hc : 147456 &&& ch = 147456) (h : Rel ch s u) :
    Rel ch s (cfgError u x1 x2) := by
  unfold cfgError
  refine logEvent_rel (sub_of hc rfl) ?_
  refine modPort_rel (sub_of hc rfl) ?_
  exact h

theorem absorb_rel {ch : Nat} {s u : State} {x1 x2} (hc : 16384 &&& ch = 16384) (h : Rel ch s u) :
    Rel ch s (absorb u x1 x2) := by
  unfold absorb
  refine Rel.ite ?_ ?_
  · exact h
  · refine Rel.forL (fun u0 x0 hf0 => ?_) ?_
    · refine setPort_rel (sub_of hc rfl) ?_
      exact hf0
    · exact h

theorem startTraining_rel {ch : Nat} {s u : State} {x1} (hc : 16384 &&& ch = 16384) (h : Rel ch s u) :
    Rel ch s (startTraining u x1) := by
  unfold startTraining
  extract_lets -merge -underBinder v0
  try clear_value v0
  refine Rel.ite ?_ ?_
  · refine modPort_rel (sub_of hc rfl) ?_
    exact h
  · exact h

theorem dropBurst_rel {ch : Nat} {s u : State} {x1} (hc : 4 &&& ch = 4) (h : Rel ch s u) :
    Rel ch s (dropBurst u x1) := by
  unfold dropBurst
  extract_lets -merge -underBinder v0
  try clear_value v0
  refine Rel.ite ?_ ?_
  · exact h
  · refine Rel.pwr _ (bit_of 2 hc rfl) ?_
    exact h

theorem portCfgWrite_rel {ch : Nat} {s u : State} {x1 x2} (hc : 737285 &&& ch = 737285) (h : Rel ch s u) :
    Rel ch s (portCfgWrite u x1 x2) := by
  unfold portCfgWrite
  extract_lets -merge -underBinder v0 v1 v2 v3 v4 v5 v6 v7
  try clear_value v0
  have hv1 : Rel ch s v1 := by
    subst v1
    refine Rel.ite ?_ ?_
    · exact h
    · refine cfgIgnored_rel (sub_of hc rfl) ?_
      exact h
  try clear_value v1
  try clear_value v2
  have hv3 : Rel ch s v3 := by
    subst v3
    refine Rel.ite ?_ ?_
    · exact h
    · refine absorb_rel (sub_of hc rfl) ?_
      exact h
  try clear_value v3
  try clear_value v4
  try clear_value v5
  have hv6 : Rel ch s v6 := by
    subst v6
    refine setPort_rel (sub_of hc rfl) ?_
    exact hv3
  try clear_value v6
  subst v7
  refine Rel.ite ?_ ?_
  · exact h
  · refine Rel.ite ?_ ?_
    · refine Rel.ite ?_ ?_
      · exact hv1
      · refine dropBurst_rel (sub_of hc rfl) ?_
        refine ecmpFail_rel (sub_of hc rfl) ?_
        refine modPort_rel (sub_of hc rfl) ?_
        exact hv1
    · refine Rel.ite ?_ ?_
      · refine cfgIgnored_rel (sub_of hc rfl) ?_
        exact h
      · refine Rel.ite ?_ ?_
        · refine setPort_rel (sub_of hc rfl) ?_
          exact hv3
        · refine Rel.ite ?_ ?_
          · refine cfgError_rel (sub_of hc rfl) ?_
            refine setPort_rel (sub_of hc rfl) ?_
            exact hv3
          · refine startTraining_rel (sub_of hc rfl) ?_
            refine tapEnd_rel (sub_of hc rfl) ?_
            refine Rel.glb _ ⟨rfl, rfl, rfl, rfl, rfl, rfl⟩ (bit_of 0 hc rfl) ?_
            exact hv6

theorem execPortEnable_rel {ch : Nat} {s u t : State} {x0 x1} (hc : 737285 &&& ch = 737285) (h : Rel ch s u)
    (ht : execPortEnable x0 x1 u = .next t) : Rel ch s t := by
  unfold execPortEnable at ht
  refine Rel.unitOk ?_ ht
  refine Rel.ite ?_ ?_
  · refine portCfgWrite_rel (sub_of hc rfl) ?_
    exact h
  · exact h

theorem execPortDisable_rel {ch : Nat} {s u t : State} {x0 x1} (hc : 737285 &&& ch = 737285) (h : Rel ch s u)
    (ht : execPortDisable x0 x1 u = .next t) : Rel ch s t := by
  unfold execPortDisable at ht
  refine Rel.unitOk ?_ ht
  refine Rel.ite ?_ ?_
  · exact h
  · refine portCfgWrite_rel (sub_of hc rfl) ?_
    exact h

theorem portHpWrite_rel {ch : Nat} {s u : State} {x1 x2} (hc : 147456 &&& ch = 147456) (h : Rel ch s u) :
    Rel ch s (portHpWrite u x1 x2) := by
  unfold portHpWrite
  refine Rel.ite ?_ ?_
  · exact h
  · refine Rel.ite ?_ ?_
    · refine cfgError_rel (sub_of hc rfl) ?_
      exact h
    · refine modPort_rel (sub_of hc rfl) ?_
      exact h

theorem execPortHpWrite_rel {ch : Nat} {s u t : State} {x0 x1} (hc : 147456 &&& ch = 147456) (h : Rel ch s u)
    (ht : execPortHpWrite x0 x1 u = .next t) : Rel ch s t := by
  unfold execPortHpWrite at ht
  refine Rel.unitOk ?_ ht
  refine portHpWrite_rel (sub_of hc rfl) ?_
  exact h

theorem laneEv_rel {ch : Nat} {s u : State} {x1 x2 x3 x4} (hc : 4342786 &&& ch = 4342786) (h : Rel ch s u) :
    Rel ch s (laneEv u x1 x2 x3 x4) := by
  unfold laneEv
  extract_lets -merge -underBinder v0 v1 v2
  try clear_value v0
  have hv1 : Rel ch s v1 := by
    subst v1
    refine modPort_rel (sub_of hc rfl) ?_
    exact h
  try clear_value v1
  have hv2 : Rel ch s v2 := by
    subst v2
    refine stewEv_rel (sub_of hc rfl) ?_
    exact hv1
  try clear_value v2
  refine Rel.ite ?_ ?_
  · exact hv1
  · refine Rel.ite ?_ ?_
    · refine tenEv?_rel (sub_of hc rfl) ?_
      exact hv2
    · exact hv2

theorem eqFail_rel {ch : Nat} {s u : State} {x1} (hc : 4342786 &&& ch = 4342786) (h : Rel ch s u) :
    Rel ch s (eqFail u x1) := by
  unfold eqFail
  refine laneEv_rel (sub_of hc rfl) ?_
  exact h

theorem cadDegrade_rel {ch : Nat} {s u : State} {x1} (hc : 4391938 &&& ch = 4391938) (h : Rel ch s u) :
    Rel ch s (cadDegrade u x1) := by
  unfold cadDegrade
  extract_lets -merge -underBinder v0
  try clear_value v0
  refine Rel.forL (fun u1 x1 hf1 => ?_) ?_
  · extract_lets -merge -underBinder v2 v3
    try clear_value v2
    try clear_value v3
    refine Rel.ite ?_ ?_
    · refine stewEv_rel (sub_of hc rfl) ?_
      refine modCad_rel (sub_of hc rfl) ?_
      exact hf1
    · exact hf1
  · exact h

theorem linkUp_rel {ch : Nat} {s u : State} {x1 x2 x3 x4 x5 x6} (hc : 4408322 &&& ch = 4408322) (h : Rel ch s u) :
    Rel ch s (linkUp u x1 x2 x3 x4 x5 x6) := by
  unfold linkUp
  extract_lets -merge -underBinder v0 v1 v2 v3
  try clear_value v0
  have hv1 : Rel ch s v1 := by
    subst v1
    refine modPort_rel (sub_of hc rfl) ?_
    exact h
  try clear_value v1
  have hv2 : Rel ch s v2 := by
    subst v2
    refine Rel.ite ?_ ?_
    · refine laneEv_rel (sub_of hc rfl) ?_
      exact hv1
    · exact hv1
  try clear_value v2
  have hv3 : Rel ch s v3 := by
    subst v3
    refine Rel.ite ?_ ?_
    · refine emit_rel (sub_of hc rfl) ?_
      exact hv2
    · exact hv2
  try clear_value v3
  refine cadDegrade_rel (sub_of hc rfl) ?_
  exact hv3

theorem trainFail_rel {ch : Nat} {s u : State} {x1} (hc : 16384 &&& ch = 16384) (h : Rel ch s u) :
    Rel ch s (trainFail u x1) := by
  unfold trainFail
  refine modPort_rel (sub_of hc rfl) ?_
  exact h

theorem execLinkTrained_rel {ch : Nat} {s u t : State} {x0 x1} (hc : 4408326 &&& ch = 4408326) (h : Rel ch s u)
    (ht : execLinkTrained x0 x1 u = .next t) : Rel ch s t := by
  unfold execLinkTrained at ht
  refine Rel.unitOk ?_ ht
  extract_lets -merge -underBinder v0 v1 v2 v3 v4
  try clear_value v0
  have hv1 : Rel ch s v1 := by
    subst v1
    refine Rel.ite ?_ ?_
    · refine modPort_rel (sub_of hc rfl) ?_
      exact h
    · exact h
  try clear_value v1
  try clear_value v2
  try clear_value v3
  try clear_value v4
  refine Rel.ite ?_ ?_
  · exact h
  · split
    · refine trainFail_rel (sub_of hc rfl) ?_
      refine Rel.ite ?_ ?_
      · exact hv1
      · refine eqFail_rel (sub_of hc rfl) ?_
        exact hv1
    · split
      · refine trainFail_rel (sub_of hc rfl) ?_
        refine eqFail_rel (sub_of hc rfl) ?_
        exact hv1
      · extract_lets -merge -underBinder v5 v6
        try clear_value v5
        try clear_value v6
        refine Rel.ite ?_ ?_
        · refine Rel.ite ?_ ?_
          · exact hv1
          · refine Rel.pwr _ (bit_of 2 hc rfl) ?_
            exact hv1
        · refine linkUp_rel (sub_of hc rfl) ?_
          exact hv1

theorem execTrainingRetry_rel {ch : Nat} {s u t : State} {x0} (hc : 16384 &&& ch = 16384) (h : Rel ch s u)
    (ht : execTrainingRetry x0 u = .next t) : Rel ch s t := by
  unfold execTrainingRetry at ht
  refine Rel.unitOk ?_ ht
  extract_lets -merge -underBinder v0
  try clear_value v0
  refine Rel.ite ?_ ?_
  · refine modPort_rel (sub_of hc rfl) ?_
    exact h
  · exact h

theorem execLoopbackRequestReceived_rel {ch : Nat} {s u t : State} {x0 x1} (hc : 16384 &&& ch = 16384) (h : Rel ch s u)
    (ht : execLoopbackRequestReceived x0 x1 u = .next t) : Rel ch s t := by
  unfold execLoopbackRequestReceived at ht
  refine Rel.unitOk ?_ ht
  extract_lets -merge -underBinder v0
  have hv0 : Rel ch s v0 := by
    subst v0
    refine modPort_rel (sub_of hc rfl) ?_
    exact h
  try clear_value v0
  refine Rel.ite ?_ ?_
  · exact h
  · refine Rel.ite ?_ ?_
    · refine trainFail_rel (sub_of hc rfl) ?_
      exact hv0
    · exact hv0

theorem execLinkRecoveryExit_rel {ch : Nat} {s u t : State} {x0} (hc : 16384 &&& ch = 16384) (h : Rel ch s u)
    (ht : execLinkRecoveryExit x0 u = .next t) : Rel ch s t := by
  unfold execLinkRecoveryExit at ht
  refine Rel.unitOk ?_ ht
  extract_lets -merge -underBinder v0
  try clear_value v0
  refine Rel.ite ?_ ?_
  · refine modPort_rel (sub_of hc rfl) ?_
    exact h
  · exact h

theorem dpcStatus_rel {ch : Nat} {s u : State} {x1 x2} (hc : 8192 &&& ch = 8192) (h : Rel ch s u) :
    Rel ch s (dpcStatus u x1 x2) := by
  unfold dpcStatus
  refine Rel.foldl (fun u0 x0 hf0 => ?_) ?_
  · refine modVppb_rel (sub_of hc rfl) ?_
    exact hf0
  · exact h

theorem dpcTrigger_rel {ch : Nat} {s u : State} {x1} (hc : 29850626 &&& ch = 29850626) (h : Rel ch s u) :
    Rel ch s (dpcTrigger u x1) := by
  unfold dpcTrigger
  extract_lets -merge -underBinder v0
  have hv0 : Rel ch s v0 := by
    subst v0
    refine dpcStatus_rel (sub_of hc rfl) ?_
    refine modPort_rel (sub_of hc rfl) ?_
    exact h
  try clear_value v0
  refine resetPort_rel (sub_of hc rfl) ?_
  refine portCount_rel (sub_of hc rfl) ?_
  exact hv0

theorem dpcRelease_rel {ch : Nat} {s u : State} {x1} (hc : 24576 &&& ch = 24576) (h : Rel ch s u) :
    Rel ch s (dpcRelease u x1) := by
  unfold dpcRelease
  refine startTraining_rel (sub_of hc rfl) ?_
  refine dpcStatus_rel (sub_of hc rfl) ?_
  refine modPort_rel (sub_of hc rfl) ?_
  exact h

theorem linkLost_rel {ch : Nat} {s u : State} {x1} (hc : 29850626 &&& ch = 29850626) (h : Rel ch s u) :
    Rel ch s (linkLost u x1) := by
  unfold linkLost
  extract_lets -merge -underBinder v0 v1
  have hv0 : Rel ch s v0 := by
    subst v0
    refine portCount_rel (sub_of hc rfl) ?_
    exact h
  try clear_value v0
  have hv1 : Rel ch s v1 := by
    subst v1
    refine Rel.ite ?_ ?_
    · refine stewIf_rel (sub_of hc rfl) ?_
      refine modPort_rel (sub_of hc rfl) ?_
      exact hv0
    · exact hv0
  try clear_value v1
  refine Rel.ite ?_ ?_
  · refine dpcTrigger_rel (sub_of hc rfl) ?_
    exact hv1
  · refine resetPort_rel (sub_of hc rfl) ?_
    exact hv1

theorem execLinkDown_rel {ch : Nat} {s u t : State} {x0} (hc : 29850626 &&& ch = 29850626) (h : Rel ch s u)
    (ht : execLinkDown x0 u = .next t) : Rel ch s t := by
  unfold execLinkDown at ht
  refine Rel.unitOk ?_ ht
  extract_lets -merge -underBinder v0
  try clear_value v0
  refine Rel.ite ?_ ?_
  · exact h
  · refine linkLost_rel (sub_of hc rfl) ?_
    exact h

theorem execErrMessageReceived_rel {ch : Nat} {s u t : State} {x0 x1} (hc : 29850626 &&& ch = 29850626) (h : Rel ch s u)
    (ht : execErrMessageReceived x0 x1 u = .next t) : Rel ch s t := by
  unfold execErrMessageReceived at ht
  refine Rel.unitOk ?_ ht
  extract_lets -merge -underBinder v0 v1
  try clear_value v0
  try clear_value v1
  refine Rel.ite ?_ ?_
  · exact h
  · refine dpcTrigger_rel (sub_of hc rfl) ?_
    exact h

theorem execDpcStatusClearByHost_rel {ch : Nat} {s u t : State} {x0} (hc : 24576 &&& ch = 24576) (h : Rel ch s u)
    (ht : execDpcStatusClearByHost x0 u = .next t) : Rel ch s t := by
  unfold execDpcStatusClearByHost at ht
  refine Rel.unitOk ?_ ht
  refine Rel.ite ?_ ?_
  · refine dpcRelease_rel (sub_of hc rfl) ?_
    exact h
  · exact h

theorem execDpcTrigClear_rel {ch : Nat} {s u t : State} {x0} (hc : 24576 &&& ch = 24576) (h : Rel ch s u)
    (ht : execDpcTrigClear x0 u = .next t) : Rel ch s t := by
  unfold execDpcTrigClear at ht
  refine Rel.unitOk ?_ ht
  refine Rel.ite ?_ ?_
  · refine dpcRelease_rel (sub_of hc rfl) ?_
    exact h
  · exact h

theorem execHotResetReceived_rel {ch : Nat} {s u t : State} {x0} (hc : 29842434 &&& ch = 29842434) (h : Rel ch s u)
    (ht : execHotResetReceived x0 u = .next t) : Rel ch s t := by
  unfold execHotResetReceived at ht
  refine Rel.unitOk ?_ ht
  refine Rel.ite ?_ ?_
  · refine resetPort_rel (sub_of hc rfl) ?_
    exact h
  · exact h

theorem secondaryReset_rel {ch : Nat} {s u : State} {x1 x2} (hc : 29842434 &&& ch = 29842434) (h : Rel ch s u) :
    Rel ch s (secondaryReset u x1 x2) := by
  unfold secondaryReset
  split
  · refine Rel.ite ?_ ?_
    · exact h
    · refine resetPort_rel (sub_of hc rfl) ?_
      exact h
  · refine emit_rel (sub_of hc rfl) ?_
    exact h
  · exact h

theorem execSecondaryBusReset_rel {ch : Nat} {s u t : State} {x0 x1} (hc : 29842434 &&& ch = 29842434) (h : Rel ch s u)
    (ht : execSecondaryBusReset x0 x1 u = .next t) : Rel ch s t := by
  unfold execSecondaryBusReset at ht
  refine Rel.unitOk ?_ ht
  refine Rel.ite ?_ ?_
  · refine secondaryReset_rel (sub_of hc rfl) ?_
    exact h
  · exact h

theorem hostPower_rel {ch : Nat} {s u : State} {x1 x2} (hc : 4350978 &&& ch = 4350978) (h : Rel ch s u) :
    Rel ch s (hostPower u x1 x2) := by
  unfold hostPower
  extract_lets -merge -underBinder v0
  have hv0 : Rel ch s v0 := by
    subst v0
    refine modPort_rel (sub_of hc rfl) ?_
    exact h
  try clear_value v0
  refine stewEv_rel (sub_of hc rfl) ?_
  refine Rel.foldl (fun u1 x1 hf1 => ?_) ?_
  · refine modVppb_rel (sub_of hc rfl) ?_
    exact hf1
  · exact hv0

theorem execHostPowerControlWrite_rel {ch : Nat} {s u t : State} {x0 x1} (hc : 4350978 &&& ch = 4350978) (h : Rel ch s u)
    (ht : execHostPowerControlWrite x0 x1 u = .next t) : Rel ch s t := by
  unfold execHostPowerControlWrite at ht
  refine Rel.unitOk ?_ ht
  refine Rel.ite ?_ ?_
  · refine hostPower_rel (sub_of hc rfl) ?_
    exact h
  · exact h

theorem hpRefuse_rel {ch : Nat} {s u : State} {x1} (hc : 155648 &&& ch = 155648) (h : Rel ch s u) :
    Rel ch s (hpRefuse u x1) := by
  unfold hpRefuse
  refine Rel.ite ?_ ?_
  · refine Rel.foldl (fun u0 x0 hf0 => ?_) ?_
    · refine modVppb_rel (sub_of hc rfl) ?_
      exact hf0
    · refine modPort_rel (sub_of hc rfl) ?_
      exact h
  · refine logEvent_rel (sub_of hc rfl) ?_
    exact h

theorem execHpRefuse_rel {ch : Nat} {s u t : State} {x0} (hc : 155648 &&& ch = 155648) (h : Rel ch s u)
    (ht : execHpRefuse x0 u = .next t) : Rel ch s t := by
  unfold execHpRefuse at ht
  refine Rel.unitOk ?_ ht
  refine Rel.ite ?_ ?_
  · refine hpRefuse_rel (sub_of hc rfl) ?_
    exact h
  · exact h

theorem mcEnable_rel {ch : Nat} {s u : State} {x1 x2} (hc : 12788738 &&& ch = 12788738) (h : Rel ch s u) :
    Rel ch s (mcEnable u x1 x2) := by
  unfold mcEnable
  extract_lets -merge -underBinder v0
  try clear_value v0
  refine Rel.ite ?_ ?_
  · exact h
  · split
    · refine modVppb_rel (sub_of hc rfl) ?_
      refine modRgrp_rel (sub_of hc rfl) ?_
      exact h
    · refine stewEv_rel (sub_of hc rfl) ?_
      refine logOpen_rel (sub_of hc rfl) ?_
      exact h

theorem execHostMcEnableWrite_rel {ch : Nat} {s u t : State} {x0 x1} (hc : 12788738 &&& ch = 12788738) (h : Rel ch s u)
    (ht : execHostMcEnableWrite x0 x1 u = .next t) : Rel ch s t := by
  unfold execHostMcEnableWrite at ht
  refine Rel.unitOk ?_ ht
  refine Rel.ite ?_ ?_
  · refine mcEnable_rel (sub_of hc rfl) ?_
    exact h
  · exact h

theorem execIdeKeyManagement_rel {ch : Nat} {s u t : State} {x0 x1} (hc : 4210688 &&& ch = 4210688) (h : Rel ch s u)
    (ht : execIdeKeyManagement x0 x1 u = .next t) : Rel ch s t := by
  unfold execIdeKeyManagement at ht
  refine Rel.unitOk ?_ ht
  extract_lets -merge -underBinder v0
  try clear_value v0
  refine Rel.ite ?_ ?_
  · exact h
  · split
    · refine emit_rel (sub_of hc rfl) ?_
      exact h
    · refine Rel.ite ?_ ?_
      · refine emit_rel (sub_of hc rfl) ?_
        refine modPort_rel (sub_of hc rfl) ?_
        exact h
      · refine emit_rel (sub_of hc rfl) ?_
        exact h

theorem poisonSkid_rel {ch : Nat} {s u : State} {x1} (hc : 196608 &&& ch = 196608) (h : Rel ch s u) :
    Rel ch s (poisonSkid u x1) := by
  unfold poisonSkid
  extract_lets -merge -underBinder v0 v1 v2
  try clear_value v0
  try clear_value v1
  try clear_value v2
  refine quireCount_rel (sub_of hc rfl) ?_
  refine putPkts_rel (sub_of hc rfl) ?_
  exact h

theorem execIdeMacFailure_rel {ch : Nat} {s u t : State} {x0} (hc : 29842434 &&& ch = 29842434) (h : Rel ch s u)
    (ht : execIdeMacFailure x0 u = .next t) : Rel ch s t := by
  unfold execIdeMacFailure at ht
  refine Rel.unitOk ?_ ht
  extract_lets -merge -underBinder v0 v1
  try clear_value v0
  have hv1 : Rel ch s v1 := by
    subst v1
    refine modPort_rel (sub_of hc rfl) ?_
    exact h
  try clear_value v1
  refine Rel.ite ?_ ?_
  · exact h
  · refine resetPort_rel (sub_of hc rfl) ?_
    refine Rel.ite ?_ ?_
    · refine poisonSkid_rel (sub_of hc rfl) ?_
      exact hv1
    · exact hv1

theorem gatewayFail_rel {ch : Nat} {s u : State} {x1} (hc : 147456 &&& ch = 147456) (h : Rel ch s u) :
    Rel ch s (gatewayFail u x1) := by
  unfold gatewayFail
  refine modPort_rel (sub_of hc rfl) ?_
  refine cfgError_rel (sub_of hc rfl) ?_
  exact h

theorem execGatewayRepeat_rel {ch : Nat} {s u t : State} {x0} (hc : 4194304 &&& ch = 4194304) (h : Rel ch s u)
    (ht : execGatewayRepeat x0 u = .next t) : Rel ch s t := by
  unfold execGatewayRepeat at ht
  refine Rel.unitOk ?_ ht
  extract_lets -merge -underBinder v0
  try clear_value v0
  refine Rel.ite ?_ ?_
  · refine emit_rel (sub_of hc rfl) ?_
    exact h
  · exact h

theorem execGatewayTimeout_rel {ch : Nat} {s u t : State} {x0} (hc : 147456 &&& ch = 147456) (h : Rel ch s u)
    (ht : execGatewayTimeout x0 u = .next t) : Rel ch s t := by
  unfold execGatewayTimeout at ht
  refine Rel.unitOk ?_ ht
  extract_lets -merge -underBinder v0
  try clear_value v0
  refine Rel.ite ?_ ?_
  · refine gatewayFail_rel (sub_of hc rfl) ?_
    exact h
  · exact h

theorem portStatusWrite_rel {ch : Nat} {s u : State} {x1 x2} (hc : 24576 &&& ch = 24576) (h : Rel ch s u) :
    Rel ch s (portStatusWrite u x1 x2) := by
  unfold portStatusWrite
  extract_lets -merge -underBinder v0
  have hv0 : Rel ch s v0 := by
    subst v0
    refine modPort_rel (sub_of hc rfl) ?_
    exact h
  try clear_value v0
  refine Rel.ite ?_ ?_
  · refine dpcRelease_rel (sub_of hc rfl) ?_
    exact hv0
  · exact hv0

end Sys2Proof.Machine
end

