-- ==== Sys2Proof/Laws/RelLanes.lean ====
section
/-!
SUPPORT. What each operation of Lanes.lean can change, and that it keeps what every command keeps (Laws/Rel.lean).
-/

namespace Sys2Proof.Machine

theorem enterRecovery_rel {ch : Nat} {s u : State} {x1} (hc : 16388 &&& ch = 16388) (h : Rel ch s u) :
    Rel ch s (enterRecovery u x1) := by
  unfold enterRecovery
  extract_lets -merge -underBinder v0 v1
  have hv0 : Rel ch s v0 := by
    subst v0
    refine modPort_rel (sub_of hc rfl) ?_
    exact h
  try clear_value v0
  try clear_value v1
  refine Rel.pwr _ (bit_of 2 hc rfl) ?_
  exact hv0

theorem execSymbolLockLoss_rel {ch : Nat} {s u t : State} {x0 x1} (hc : 16388 &&& ch = 16388) (h : Rel ch s u)
    (ht : execSymbolLockLoss x0 x1 u = .next t) : Rel ch s t := by
  unfold execSymbolLockLoss at ht
  refine Rel.unitOk ?_ ht
  extract_lets -merge -underBinder v0 v1 v2 v3
  try clear_value v0
  try clear_value v1
  try clear_value v2
  have hv3 : Rel ch s v3 := by
    subst v3
    refine modPort_rel (sub_of hc rfl) ?_
    exact h
  try clear_value v3
  refine Rel.ite ?_ ?_
  · exact h
  · refine Rel.ite ?_ ?_
    · refine enterRecovery_rel (sub_of hc rfl) ?_
      exact hv3
    · exact hv3

theorem execAdaptationBurst_rel {ch : Nat} {s u t : State} {x0} (hc : 4 &&& ch = 4) (h : Rel ch s u)
    (ht : execAdaptationBurst x0 u = .next t) : Rel ch s t := by
  unfold execAdaptationBurst at ht
  refine Rel.unitOk ?_ ht
  extract_lets -merge -underBinder v0
  try clear_value v0
  refine Rel.ite ?_ ?_
  · refine Rel.pwr _ (bit_of 2 hc rfl) ?_
    exact h
  · exact h

theorem execAdaptationBurstEnd_rel {ch : Nat} {s u t : State} {x0} (hc : 4 &&& ch = 4) (h : Rel ch s u)
    (ht : execAdaptationBurstEnd x0 u = .next t) : Rel ch s t := by
  unfold execAdaptationBurstEnd at ht
  refine Rel.unitOk ?_ ht
  extract_lets -merge -underBinder v0
  try clear_value v0
  refine Rel.pwr _ (bit_of 2 hc rfl) ?_
  exact h

theorem patWrite_rel {ch : Nat} {s u : State} {x1 x2} (hc : 147456 &&& ch = 147456) (h : Rel ch s u) :
    Rel ch s (patWrite u x1 x2) := by
  unfold patWrite
  extract_lets -merge -underBinder v0 v1
  try clear_value v0
  try clear_value v1
  refine Rel.ite ?_ ?_
  · exact h
  · refine Rel.ite ?_ ?_
    · refine logEvent_rel (sub_of hc rfl) ?_
      exact h
    · refine Rel.ite ?_ ?_
      · refine modPort_rel (sub_of hc rfl) ?_
        exact h
      · refine modPort_rel (sub_of hc rfl) ?_
        exact h

theorem execPatternStart_rel {ch : Nat} {s u t : State} {x0 x1} (hc : 147456 &&& ch = 147456) (h : Rel ch s u)
    (ht : execPatternStart x0 x1 u = .next t) : Rel ch s t := by
  unfold execPatternStart at ht
  refine Rel.unitOk ?_ ht
  refine Rel.ite ?_ ?_
  · refine patWrite_rel (sub_of hc rfl) ?_
    exact h
  · exact h

theorem execPatternStop_rel {ch : Nat} {s u t : State} {x0} (hc : 16384 &&& ch = 16384) (h : Rel ch s u)
    (ht : execPatternStop x0 u = .next t) : Rel ch s t := by
  unfold execPatternStop at ht
  refine Rel.unitOk ?_ ht
  refine Rel.ite ?_ ?_
  · refine modPort_rel (sub_of hc rfl) ?_
    exact h
  · exact h

theorem execPatternCheckerSync_rel {ch : Nat} {s u t : State} {x0 x1 x2} (hc : 16384 &&& ch = 16384) (h : Rel ch s u)
    (ht : execPatternCheckerSync x0 x1 x2 u = .next t) : Rel ch s t := by
  unfold execPatternCheckerSync at ht
  refine Rel.unitOk ?_ ht
  extract_lets -merge -underBinder v0 v1
  try clear_value v0
  try clear_value v1
  refine Rel.ite ?_ ?_
  · exact h
  · refine modPort_rel (sub_of hc rfl) ?_
    exact h

theorem execMarginStart_rel {ch : Nat} {s u t : State} {x0 x1} (hc : 16384 &&& ch = 16384) (h : Rel ch s u)
    (ht : execMarginStart x0 x1 u = .next t) : Rel ch s t := by
  unfold execMarginStart at ht
  refine Rel.unitOk ?_ ht
  refine Rel.ite ?_ ?_
  · refine modPort_rel (sub_of hc rfl) ?_
    exact h
  · exact h

theorem execMarginDone_rel {ch : Nat} {s u t : State} {x0 x1 x2 x3 x4 x5} (hc : 16384 &&& ch = 16384) (h : Rel ch s u)
    (ht : execMarginDone x0 x1 x2 x3 x4 x5 u = .next t) : Rel ch s t := by
  unfold execMarginDone at ht
  refine Rel.unitOk ?_ ht
  refine modPort_rel (sub_of hc rfl) ?_
  exact h

theorem execPartnerMarginCommand_rel {ch : Nat} {s u t : State} {x0 x1 x2} (hc : 4210688 &&& ch = 4210688) (h : Rel ch s u)
    (ht : execPartnerMarginCommand x0 x1 x2 u = .next t) : Rel ch s t := by
  unfold execPartnerMarginCommand at ht
  refine Rel.unitOk ?_ ht
  extract_lets -merge -underBinder v0 v1
  try clear_value v0
  try clear_value v1
  refine Rel.ite ?_ ?_
  · exact h
  · refine emit_rel (sub_of hc rfl) ?_
    refine Rel.ite ?_ ?_
    · refine modPort_rel (sub_of hc rfl) ?_
      exact h
    · exact h

end Sys2Proof.Machine
end

