-- ==== Sys2Proof/Laws/RelCopies.lean ====
section
/-!
SUPPORT. What each operation of Copies.lean can change, and that it keeps what every command keeps (Laws/Rel.lean).
-/

namespace Sys2Proof.Machine

theorem storeTake_rel {ch : Nat} {s u : State} {x1} (hc : 65536 &&& ch = 65536) (h : Rel ch s u) :
    Rel ch s (storeTake u x1) := by
  unfold storeTake
  extract_lets -merge -underBinder v0
  try clear_value v0
  refine Rel.core _ (bit_of 16 hc rfl) ?_
  exact h

theorem addCopies_rel {ch : Nat} {s u : State} {x1 x2 x3 x4} (hc : 21171202 &&& ch = 21171202) (h : Rel ch s u) :
    Rel ch s (addCopies u x1 x2 x3 x4) := by
  unfold addCopies
  refine Rel.foldl (fun u0 x0 hf0 => ?_) ?_
  · extract_lets -merge -underBinder v1
    try clear_value v1
    split
    · refine memberOutcome_rel (sub_of hc rfl) ?_
      exact hf0
    · refine memberOutcome_rel (sub_of hc rfl) ?_
      exact hf0
    · refine memberOutcome_rel (sub_of hc rfl) ?_
      exact hf0
    · extract_lets -merge -underBinder v2
      have hv2 : Rel ch s v2 := by
        subst v2
        refine addPkt_rel (sub_of hc rfl) ?_
        refine storeTake_rel (sub_of hc rfl) ?_
        exact hf0
      try clear_value v2
      refine qMarks_rel (sub_of hc rfl) ?_
      exact hv2
  · exact h

theorem startWriteAll_rel {ch : Nat} {s u : State} {x1 x2} (hc : 21171202 &&& ch = 21171202) (h : Rel ch s u) :
    Rel ch s (startWriteAll u x1 x2) := by
  unfold startWriteAll
  extract_lets -merge -underBinder v0 v1 v2 v3 v4 v5
  try clear_value v0
  try clear_value v1
  try clear_value v2
  try clear_value v3
  try clear_value v4
  have hv5 : Rel ch s v5 := by
    subst v5
    refine Rel.nextId_core _ (Nat.le_add_right _ _) (bit_of 24 hc rfl)  _ (bit_of 16 hc rfl) ?_
    exact h
  try clear_value v5
  refine rwSettle_rel (sub_of hc rfl) ?_
  refine addCopies_rel (sub_of hc rfl) ?_
  exact hv5

theorem mirPut_rel {ch : Nat} {s u : State} {x1 x2 x3 x4} (hc : 21169154 &&& ch = 21169154) (h : Rel ch s u) :
    Rel ch s (mirPut u x1 x2 x3 x4) := by
  unfold mirPut
  extract_lets -merge -underBinder v0 v1 v2 v3 v4 v5 v6
  try clear_value v0
  try clear_value v1
  try clear_value v2
  have hv3 : Rel ch s v3 := by
    subst v3
    refine Rel.ite ?_ ?_
    · exact h
    · refine addPkt_rel (sub_of hc rfl) ?_
      exact h
  try clear_value v3
  try clear_value v4
  try clear_value v5
  have hv6 : Rel ch s v6 := by
    subst v6
    refine addPkt_rel (sub_of hc rfl) ?_
    refine storeTake_rel (sub_of hc rfl) ?_
    exact hv3
  try clear_value v6
  refine qMarks_rel (sub_of hc rfl) ?_
  refine modMir_rel (sub_of hc rfl) ?_
  exact hv6

theorem mirCopy_rel {ch : Nat} {s u : State} {x1 x2 x3 x4 x5} (hc : 29557762 &&& ch = 29557762) (h : Rel ch s u) :
    Rel ch s (mirCopy u x1 x2 x3 x4 x5) := by
  unfold mirCopy
  extract_lets -merge -underBinder v0 v1 v2 v3
  have hv0 : Rel ch s v0.2 := by
    subst v0
    refine freeBelow_rel (sub_of hc rfl) ?_
    exact h
  try clear_value v0
  have hv1 : Rel ch s v1 := by
    subst v1
    exact hv0
  try clear_value v1
  try clear_value v2
  try clear_value v3
  split
  · refine mirLose_rel (sub_of hc rfl) ?_
    exact hv1
  · refine Rel.ite ?_ ?_
    · refine mirLose_rel (sub_of hc rfl) ?_
      exact hv1
    · refine Rel.ite ?_ ?_
      · refine modMir_rel (sub_of hc rfl) ?_
        exact hv1
      · refine Rel.ite ?_ ?_
        · refine portCount_rel (sub_of hc rfl) ?_
          refine mirPut_rel (sub_of hc rfl) ?_
          exact hv1
        · refine emit_rel (sub_of hc rfl) ?_
          refine modMir_rel (sub_of hc rfl) ?_
          exact hv1

theorem mirTake_rel {ch : Nat} {s u : State} {x1 x2 x3 x4} (hc : 29557762 &&& ch = 29557762) (h : Rel ch s u) :
    Rel ch s (mirTake u x1 x2 x3 x4) := by
  unfold mirTake
  split
  · exact h
  · refine Rel.forL (fun u0 x0 hf0 => ?_) ?_
    · refine mirCopy_rel (sub_of hc rfl) ?_
      exact hf0
    · exact h

theorem mirDrain_rel {ch : Nat} {s u : State} {x0 x1} (hc : 21169154 &&& ch = 21169154) (h : Rel ch s u) :
    Rel ch s (mirDrain x0 x1 u) := by
  unfold mirDrain
  split
  · exact h
  · extract_lets -merge -underBinder v6
    have hv6 : Rel ch s v6 := by
      subst v6
      split
      · refine Rel.ite ?_ ?_
        · refine mirPut_rel (sub_of hc rfl) ?_
          exact h
        · refine mirLose_rel (sub_of hc rfl) ?_
          exact h
      · refine mirLose_rel (sub_of hc rfl) ?_
        exact h
    try clear_value v6
    refine mirDrain_rel (sub_of hc rfl) ?_
    exact hv6

theorem execMirrorConsumerReadDone_rel {ch : Nat} {s u t : State} {x0 x1} (hc : 21169154 &&& ch = 21169154) (h : Rel ch s u)
    (ht : execMirrorConsumerReadDone x0 x1 u = .next t) : Rel ch s t := by
  unfold execMirrorConsumerReadDone at ht
  refine Rel.unitOk ?_ ht
  extract_lets -merge -underBinder v0
  try clear_value v0
  refine Rel.ite ?_ ?_
  · exact h
  · refine mirFinish_rel (sub_of hc rfl) ?_
    refine mirDrain_rel (sub_of hc rfl) ?_
    refine modMir_rel (sub_of hc rfl) ?_
    exact h

theorem dropMember_rel {ch : Nat} {s u : State} {x1 x2} (hc : 65536 &&& ch = 65536) (h : Rel ch s u) :
    Rel ch s (dropMember u x1 x2) := by
  unfold dropMember
  extract_lets -merge -underBinder v0 v1
  try clear_value v0
  try clear_value v1
  refine Rel.core _ (bit_of 16 hc rfl) ?_
  exact h

theorem execReplicaMemberCompletion_rel {ch : Nat} {s u t : State} {x0 x1 x2} (hc : 21171202 &&& ch = 21171202) (h : Rel ch s u)
    (ht : execReplicaMemberCompletion x0 x1 x2 u = .next t) : Rel ch s t := by
  unfold execReplicaMemberCompletion at ht
  refine Rel.unitOk ?_ ht
  refine memberOutcome_rel (sub_of hc rfl) ?_
  refine dropMember_rel (sub_of hc rfl) ?_
  exact h

theorem execReplicaMemberTimeout_rel {ch : Nat} {s u t : State} {x0 x1} (hc : 21171202 &&& ch = 21171202) (h : Rel ch s u)
    (ht : execReplicaMemberTimeout x0 x1 u = .next t) : Rel ch s t := by
  unfold execReplicaMemberTimeout at ht
  refine Rel.unitOk ?_ ht
  split
  · refine Rel.ite ?_ ?_
    · exact h
    · refine memberOutcome_rel (sub_of hc rfl) ?_
      exact h
  · exact h

end Sys2Proof.Machine
end

