-- ==== Sys2Proof/Laws/RelIngress.lean ====
section
/-!
SUPPORT. What each operation of Ingress.lean can change, and that it keeps what every command keeps (Laws/Rel.lean).
-/

namespace Sys2Proof.Machine

theorem mcDisable_rel {ch : Nat} {s u : State} {x1 x2} (hc : 73728 &&& ch = 73728) (h : Rel ch s u) :
    Rel ch s (mcDisable u x1 x2) := by
  unfold mcDisable
  extract_lets -merge -underBinder v0
  try clear_value v0
  refine Rel.ite ?_ ?_
  · exact h
  · refine modVppb_rel (sub_of hc rfl) ?_
    refine modRgrp_rel (sub_of hc rfl) ?_
    exact h

theorem cfgWrite_rel {ch : Nat} {s u : State} {x1 x2 x3 x4} (hc : 29850626 &&& ch = 29850626) (h : Rel ch s u) :
    Rel ch s (cfgWrite u x1 x2 x3 x4) := by
  unfold cfgWrite
  extract_lets -merge -underBinder v0
  subst v0
  try dsimp -zeta -zetaUnused -proj only
  split
  · refine Rel.ite ?_ ?_
    · refine modTen_rel (sub_of hc rfl) ?_
      exact h
    · refine modVppb_rel (sub_of hc rfl) ?_
      exact h
  · refine modVppb_rel (sub_of hc rfl) ?_
    exact h
  · refine modVppb_rel (sub_of hc rfl) ?_
    exact h
  · refine modVppb_rel (sub_of hc rfl) ?_
    exact h
  · split
    · refine Rel.ite ?_ ?_
      · refine dpcRelease_rel (sub_of hc rfl) ?_
        exact h
      · exact h
    · refine Rel.ite ?_ ?_
      · refine dpcRelease_rel (sub_of hc rfl) ?_
        exact h
      · exact h
    · exact h
  · refine modVppb_rel (sub_of hc rfl) ?_
    exact h
  · refine modVppb_rel (sub_of hc rfl) ?_
    exact h
  · split
    · refine hostPower_rel (sub_of hc rfl) ?_
      exact h
    · exact h
  · refine modVppb_rel (sub_of hc rfl) ?_
    exact h
  · refine Rel.ite ?_ ?_
    · refine mcEnable_rel (sub_of hc rfl) ?_
      exact h
    · refine mcDisable_rel (sub_of hc rfl) ?_
      exact h
  · refine Rel.ite ?_ ?_
    · refine secondaryReset_rel (sub_of hc rfl) ?_
      exact h
    · exact h
  · exact h
  · exact h
  · refine modVppb_rel (sub_of hc rfl) ?_
    exact h

theorem cfgRequest_rel {ch : Nat} {s u : State} {x1 x2} (hc : 29850626 &&& ch = 29850626) (h : Rel ch s u) :
    Rel ch s (cfgRequest u x1 x2) := by
  unfold cfgRequest
  split
  · refine Rel.ite ?_ ?_
    · refine answer_rel (sub_of hc rfl) ?_
      exact h
    · refine answer_rel (sub_of hc rfl) ?_
      exact h
  · refine Rel.ite ?_ ?_
    · refine answer_rel (sub_of hc rfl) ?_
      refine cfgWrite_rel (sub_of hc rfl) ?_
      exact h
    · refine answer_rel (sub_of hc rfl) ?_
      exact h
  · exact h

theorem openGot_rel {ch : Nat} {s u : State} {x1 x2} (hc : 65536 &&& ch = 65536) (h : Rel ch s u) :
    Rel ch s (openGot u x1 x2) := by
  unfold openGot
  extract_lets -merge -underBinder v0 v1
  try clear_value v0
  try clear_value v1
  refine Rel.core _ (bit_of 16 hc rfl) ?_
  exact h

theorem closeOpen_rel {ch : Nat} {s u : State} {x1} (hc : 65536 &&& ch = 65536) (h : Rel ch s u) :
    Rel ch s (closeOpen u x1) := by
  unfold closeOpen
  extract_lets -merge -underBinder v0
  try clear_value v0
  refine Rel.core _ (bit_of 16 hc rfl) ?_
  exact h

theorem recvRsp_rel {ch : Nat} {s u : State} {x1 x2} (hc : 29560066 &&& ch = 29560066) (h : Rel ch s u) :
    Rel ch s (recvRsp u x1 x2) := by
  unfold recvRsp
  split
  · split
    · refine addPkt_rel (sub_of hc rfl) ?_
      exact h
    · refine dirLog_rel (sub_of hc rfl) ?_
      exact h
  · split
    · extract_lets -merge -underBinder v0
      try clear_value v0
      refine Rel.ite ?_ ?_
      · refine logOpen_rel (sub_of hc rfl) ?_
        exact h
      · split
        · refine logOpen_rel (sub_of hc rfl) ?_
          exact h
        · refine Rel.ite ?_ ?_
          · refine staleDrop_rel (sub_of hc rfl) ?_
            exact h
          · refine addPkt_rel (sub_of hc rfl) ?_
            exact h
        · refine staleDrop_rel (sub_of hc rfl) ?_
          exact h
    · extract_lets -merge -underBinder v1
      have hv1 : Rel ch s v1 := by
        subst v1
        refine openGot_rel (sub_of hc rfl) ?_
        exact h
      try clear_value v1
      split
      · refine memberOutcome_rel (sub_of hc rfl) ?_
        refine closeOpen_rel (sub_of hc rfl) ?_
        exact hv1
      · extract_lets -merge -underBinder v2 v3
        try clear_value v2
        have hv3 : Rel ch s v3 := by
          subst v3
          refine Rel.ite ?_ ?_
          · exact hv1
          · refine addPkt_rel (sub_of hc rfl) ?_
            exact hv1
        try clear_value v3
        refine Rel.ite ?_ ?_
        · refine addPkt_rel (sub_of hc rfl) ?_
          exact hv3
        · exact hv3

theorem conflictAck_rel {ch : Nat} {s u : State} {x1 x2 x3 x4} (hc : 21169410 &&& ch = 21169410) (h : Rel ch s u) :
    Rel ch s (conflictAck u x1 x2 x3 x4) := by
  unfold conflictAck
  extract_lets -merge -underBinder v0 v1 v2
  try clear_value v0
  have hv1 : Rel ch s v1 := by
    subst v1
    refine countEv_rel (sub_of hc rfl) ?_
    exact h
  try clear_value v1
  have hv2 : Rel ch s v2 := by
    subst v2
    refine Rel.ite ?_ ?_
    · exact hv1
    · refine dirLog_rel (sub_of hc rfl) ?_
      exact hv1
  try clear_value v2
  refine addPkt_rel (sub_of hc rfl) ?_
  exact hv2

theorem unroutable_rel {ch : Nat} {s u : State} {x1 x2} (hc : 8519680 &&& ch = 8519680) (h : Rel ch s u) :
    Rel ch s (unroutable u x1 x2) := by
  unfold unroutable
  extract_lets -merge -underBinder v0
  try clear_value v0
  refine logOpen_rel (sub_of hc rfl) ?_
  refine quireCount_rel (sub_of hc rfl) ?_
  exact h

theorem stageReq_rel {ch : Nat} {s u : State} {x1 x2} (hc : 21201922 &&& ch = 21201922) (h : Rel ch s u) :
    Rel ch s (stageReq u x1 x2) := by
  unfold stageReq
  extract_lets -merge -underBinder v0 v1 v2
  have hv0 : Rel ch s v0.2 := by
    subst v0
    refine colourOf_rel (sub_of hc rfl) ?_
    exact h
  try clear_value v0
  try clear_value v1
  have hv2 : Rel ch s v2 := by
    subst v2
    refine Rel.ite ?_ ?_
    · refine portCount_rel (sub_of hc rfl) ?_
      exact hv0
    · exact hv0
  try clear_value v2
  refine Rel.ite ?_ ?_
  · refine addPkt_rel (sub_of hc rfl) ?_
    exact h
  · refine addPkt_rel (sub_of hc rfl) ?_
    exact hv2

theorem recvReqK_rel {ch : Nat} {s u : State} {x1 x2} (hc : 29883394 &&& ch = 29883394) (h : Rel ch s u) :
    Rel ch s (recvReqK u x1 x2) := by
  unfold recvReqK
  extract_lets -merge -underBinder v0 v1 v2 v3
  try clear_value v0
  try clear_value v1
  try clear_value v2
  have hv3 : Rel ch s v3 := by
    subst v3
    refine Rel.ite ?_ ?_
    · refine modPort_rel (sub_of hc rfl) ?_
      exact h
    · exact h
  try clear_value v3
  split
  · refine stageReq_rel (sub_of hc rfl) ?_
    exact hv3
  · refine cfgRequest_rel (sub_of hc rfl) ?_
    exact hv3
  · refine answer_rel (sub_of hc rfl) ?_
    refine Rel.ite ?_ ?_
    · refine unroutable_rel (sub_of hc rfl) ?_
      exact hv3
    · refine logOpen_rel (sub_of hc rfl) ?_
      exact hv3
  · refine Rel.ite ?_ ?_
    · refine logOpen_rel (sub_of hc rfl) ?_
      exact hv3
    · exact hv3

theorem recvReq_rel {ch : Nat} {s u : State} {x1 x2} (hc : 29883394 &&& ch = 29883394) (h : Rel ch s u) :
    Rel ch s (recvReq u x1 x2) := by
  unfold recvReq
  extract_lets -merge -underBinder v0
  try clear_value v0
  refine recvReqK_rel (sub_of hc rfl) ?_
  exact h

theorem recvMgmt_rel {ch : Nat} {s u : State} {x1 x2 x3} (hc : 29883394 &&& ch = 29883394) (h : Rel ch s u) :
    Rel ch s (recvMgmt u x1 x2 x3) := by
  unfold recvMgmt
  extract_lets -merge -underBinder v0
  try clear_value v0
  refine Rel.ite ?_ ?_
  · refine msgDrop_rel (sub_of hc rfl) ?_
    exact h
  · refine Rel.ite ?_ ?_
    · exact h
    · refine recvReq_rel (sub_of hc rfl) ?_
      exact h

theorem recvMsg_rel {ch : Nat} {s u : State} {x0 x2} (hc : 29883650 &&& ch = 29883650) (h : Rel ch s u) :
    Rel ch s (recvMsg x0 u x2) := by
  unfold recvMsg
  extract_lets -merge -underBinder v0
  have hv0 : Rel ch s v0 := by
    subst v0
    refine Rel.ite ?_ ?_
    · refine portCount_rel (sub_of hc rfl) ?_
      exact h
    · exact h
  try clear_value v0
  split
  · refine recvMgmt_rel (sub_of hc rfl) ?_
    exact hv0
  · split
    · extract_lets -merge -underBinder v1
      try clear_value v1
      refine conflictAck_rel (sub_of hc rfl) ?_
      exact hv0
    · refine conflictAck_rel (sub_of hc rfl) ?_
      exact hv0
  · refine Rel.ite ?_ ?_
    · refine recvRsp_rel (sub_of hc rfl) ?_
      exact hv0
    · refine recvReq_rel (sub_of hc rfl) ?_
      exact hv0

theorem recvCont_rel {ch : Nat} {s u : State} {x0 x2} (hc : 4391938 &&& ch = 4391938) (h : Rel ch s u) :
    Rel ch s (recvCont x0 u x2) := by
  unfold recvCont
  split
  · refine modPkt_rel (sub_of hc rfl) ?_
    exact h
  · exact h

theorem recvFlit_rel {ch : Nat} {s u : State} {x0 x1} (hc : 29883650 &&& ch = 29883650) (h : Rel ch s u) :
    Rel ch s (recvFlit x0 x1 u) := by
  unfold recvFlit
  extract_lets -merge -underBinder v0 v1 v2 v3 v4
  try clear_value v0
  have hv1 : Rel ch s v1 := by
    subst v1
    refine portCount_rel (sub_of hc rfl) ?_
    refine portCount_rel (sub_of hc rfl) ?_
    exact h
  try clear_value v1
  have hv2 : Rel ch s v2 := by
    subst v2
    refine topDown_rel (sub_of hc rfl) ?_
    exact hv1
  try clear_value v2
  have hv3 : Rel ch s v3 := by
    subst v3
    refine modQuire_rel (sub_of hc rfl) ?_
    exact hv2
  try clear_value v3
  have hv4 : Rel ch s v4 := by
    subst v4
    refine modPort_rel (sub_of hc rfl) ?_
    exact hv3
  try clear_value v4
  refine Rel.foldl (fun u5 x5 hf5 => ?_) ?_
  · refine recvMsg_rel (sub_of hc rfl) ?_
    exact hf5
  · refine Rel.foldl (fun u6 x6 hf6 => ?_) ?_
    · refine recvCont_rel (sub_of hc rfl) ?_
      exact hf6
    · exact hv4

theorem execFlitReceive_rel {ch : Nat} {s u t : State} {x0 x1} (hc : 29883650 &&& ch = 29883650) (h : Rel ch s u)
    (ht : execFlitReceive x0 x1 u = .next t) : Rel ch s t := by
  unfold execFlitReceive at ht
  refine Rel.unitOk ?_ ht
  refine Rel.ite ?_ ?_
  · refine recvFlit_rel (sub_of hc rfl) ?_
    exact h
  · exact h

theorem holdMsg_rel {ch : Nat} {s u : State} {x1 x2} (hc : 4391938 &&& ch = 4391938) (h : Rel ch s u) :
    Rel ch s (holdMsg u x1 x2) := by
  unfold holdMsg
  extract_lets -merge -underBinder v0 v1 v2 v3
  try clear_value v0
  try clear_value v1
  have hv2 : Rel ch s v2 := by
    subst v2
    refine countEv_rel (sub_of hc rfl) ?_
    exact h
  try clear_value v2
  have hv3 : Rel ch s v3 := by
    subst v3
    refine Rel.ite ?_ ?_
    · exact h
    · refine Rel.ite ?_ ?_
      · refine topDown_rel (sub_of hc rfl) ?_
        refine portCount_rel (sub_of hc rfl) ?_
        exact hv2
      · exact hv2
  try clear_value v3
  refine critEv_rel (sub_of hc rfl) ?_
  refine modPkt_rel (sub_of hc rfl) ?_
  exact hv3

theorem admitMsg_rel {ch : Nat} {s u : State} {x1} (hc : 29557762 &&& ch = 29557762) (h : Rel ch s u) :
    Rel ch s (admitMsg u x1) := by
  unfold admitMsg
  extract_lets -merge -underBinder v0 v1 v2 v3 v4 v5
  try clear_value v0
  try clear_value v1
  have hv2 : Rel ch s v2 := by
    subst v2
    refine movePkt_rel (sub_of hc rfl) ?_
    exact h
  try clear_value v2
  have hv3 : Rel ch s v3 := by
    subst v3
    refine countEv_rel (sub_of hc rfl) ?_
    exact hv2
  try clear_value v3
  have hv4 : Rel ch s v4 := by
    subst v4
    refine Rel.ite ?_ ?_
    · refine portCount_rel (sub_of hc rfl) ?_
      exact hv3
    · exact hv3
  try clear_value v4
  have hv5 : Rel ch s v5 := by
    subst v5
    refine qMarks_rel (sub_of hc rfl) ?_
    exact hv4
  try clear_value v5
  refine Rel.ite ?_ ?_
  · refine mirTake_rel (sub_of hc rfl) ?_
    exact hv5
  · exact hv5

theorem groupRead_rel {ch : Nat} {s u : State} {x1 x2} (hc : 21171202 &&& ch = 21171202) (h : Rel ch s u) :
    Rel ch s (groupRead u x1 x2) := by
  unfold groupRead
  extract_lets -merge -underBinder v0 v1
  try clear_value v0
  subst v1
  try dsimp -zeta -zetaUnused -proj only
  refine Rel.ite ?_ ?_
  · refine answer_rel (sub_of hc rfl) ?_
    refine dropPkt_rel (sub_of hc rfl) ?_
    exact h
  · refine Rel.ite ?_ ?_
    · refine answer_rel (sub_of hc rfl) ?_
      refine dropPkt_rel (sub_of hc rfl) ?_
      refine logEvent_rel (sub_of hc rfl) ?_
      exact h
    · refine Rel.ite ?_ ?_
      · refine answer_rel (sub_of hc rfl) ?_
        refine dropPkt_rel (sub_of hc rfl) ?_
        exact h
      · split
        · refine answer_rel (sub_of hc rfl) ?_
          refine dropPkt_rel (sub_of hc rfl) ?_
          exact h
        · extract_lets -merge -underBinder v2
          try clear_value v2
          split
          · refine answer_rel (sub_of hc rfl) ?_
            refine dropPkt_rel (sub_of hc rfl) ?_
            exact h
          · refine answer_rel (sub_of hc rfl) ?_
            refine dropPkt_rel (sub_of hc rfl) ?_
            exact h
          · refine modPkt_rel (sub_of hc rfl) ?_
            exact h

theorem groupWrite_rel {ch : Nat} {s u : State} {x1 x2} (hc : 29559810 &&& ch = 29559810) (h : Rel ch s u) :
    Rel ch s (groupWrite u x1 x2) := by
  unfold groupWrite
  extract_lets -merge -underBinder v0
  try clear_value v0
  refine Rel.ite ?_ ?_
  · refine answer_rel (sub_of hc rfl) ?_
    refine dropPkt_rel (sub_of hc rfl) ?_
    exact h
  · refine Rel.ite ?_ ?_
    · refine holdMsg_rel (sub_of hc rfl) ?_
      exact h
    · split
      · refine holdMsg_rel (sub_of hc rfl) ?_
        exact h
      · extract_lets -merge -underBinder v1 v2
        have hv1 : Rel ch s v1 := by
          subst v1
          refine countEv_rel (sub_of hc rfl) ?_
          refine setPkts_rel (sub_of hc rfl) ?_
          exact h
        try clear_value v1
        have hv2 : Rel ch s v2 := by
          subst v2
          refine Rel.ite ?_ ?_
          · refine mirTake_rel (sub_of hc rfl) ?_
            refine portCount_rel (sub_of hc rfl) ?_
            exact hv1
          · exact hv1
        try clear_value v2
        refine startWriteAll_rel (sub_of hc rfl) ?_
        exact hv2

theorem admitNext_rel {ch : Nat} {s u : State} {x0 x1} (hc : 29559810 &&& ch = 29559810) (h : Rel ch s u) :
    Rel ch s (admitNext x0 x1 u) := by
  unfold admitNext
  split
  · exact h
  · extract_lets -merge -underBinder v0 v1
    try clear_value v0
    try clear_value v1
    refine Rel.ite ?_ ?_
    · exact h
    · split
      · refine Rel.ite ?_ ?_
        · refine dropPkt_rel (sub_of hc rfl) ?_
          exact h
        · refine answer_rel (sub_of hc rfl) ?_
          refine unroutable_rel (sub_of hc rfl) ?_
          refine dropPkt_rel (sub_of hc rfl) ?_
          exact h
      · refine Rel.ite ?_ ?_
        · refine groupWrite_rel (sub_of hc rfl) ?_
          exact h
        · refine groupRead_rel (sub_of hc rfl) ?_
          exact h
      · refine Rel.ite ?_ ?_
        · refine admitMsg_rel (sub_of hc rfl) ?_
          exact h
        · refine holdMsg_rel (sub_of hc rfl) ?_
          exact h

theorem execMessageAdmission_rel {ch : Nat} {s u t : State} {x0 x1} (hc : 29559810 &&& ch = 29559810) (h : Rel ch s u)
    (ht : execMessageAdmission x0 x1 u = .next t) : Rel ch s t := by
  unfold execMessageAdmission at ht
  refine Rel.unitOk ?_ ht
  refine admitNext_rel (sub_of hc rfl) ?_
  exact h

theorem execHeldMessageRetry_rel {ch : Nat} {s u t : State} {x0 x1} (hc : 29559810 &&& ch = 29559810) (h : Rel ch s u)
    (ht : execHeldMessageRetry x0 x1 u = .next t) : Rel ch s t := by
  unfold execHeldMessageRetry at ht
  refine Rel.unitOk ?_ ht
  refine Rel.ite ?_ ?_
  · refine admitNext_rel (sub_of hc rfl) ?_
    exact h
  · exact h

theorem redEval_rel {ch : Nat} {s u : State} {x0} (hc : 4424706 &&& ch = 4424706) (h : Rel ch s u) :
    Rel ch s (redEval x0 u) := by
  unfold redEval
  split
  · exact h
  · split
    · refine modPkt_rel (sub_of hc rfl) ?_
      exact h
    · extract_lets -merge -underBinder v0 v1 v2
      try clear_value v0
      try clear_value v1
      have hv2 : Rel ch s v2 := by
        subst v2
        refine modMeter_rel (sub_of hc rfl) ?_
        exact h
      try clear_value v2
      refine Rel.ite ?_ ?_
      · refine modPkt_rel (sub_of hc rfl) ?_
        exact h
      · refine Rel.ite ?_ ?_
        · exact hv2
        · refine modPkt_rel (sub_of hc rfl) ?_
          exact hv2

theorem execRedMessageReevaluation_rel {ch : Nat} {s u t : State} {x0} (hc : 4424706 &&& ch = 4424706) (h : Rel ch s u)
    (ht : execRedMessageReevaluation x0 u = .next t) : Rel ch s t := by
  unfold execRedMessageReevaluation at ht
  refine Rel.unitOk ?_ ht
  refine redEval_rel (sub_of hc rfl) ?_
  exact h

theorem poolLost_rel {ch : Nat} {s u : State} {x1} (hc : 29559810 &&& ch = 29559810) (h : Rel ch s u) :
    Rel ch s (poolLost u x1) := by
  unfold poolLost
  refine answerBad_rel (sub_of hc rfl) ?_
  refine logOpen_rel (sub_of hc rfl) ?_
  refine dropPkt_rel (sub_of hc rfl) ?_
  exact h

theorem gatherStart_rel {ch : Nat} {s u : State} {x1} (hc : 29559810 &&& ch = 29559810) (h : Rel ch s u) :
    Rel ch s (gatherStart u x1) := by
  unfold gatherStart
  extract_lets -merge -underBinder v0 v1 v2 v3 v4 v5
  try clear_value v0
  try clear_value v1
  try clear_value v2
  try clear_value v3
  have hv4 : Rel ch s v4 := by
    subst v4
    refine dropPkt_rel (sub_of hc rfl) ?_
    refine Rel.nextId_core _ (Nat.le_add_right _ _) (bit_of 24 hc rfl)  _ (bit_of 16 hc rfl) ?_
    exact h
  try clear_value v4
  try clear_value v5
  refine Rel.foldl (fun u6 x6 hf6 => ?_) ?_
  · extract_lets -merge -underBinder v7
    try clear_value v7
    split
    · extract_lets -merge -underBinder v8 v9
      try clear_value v8
      try clear_value v9
      refine qMarks_rel (sub_of hc rfl) ?_
      refine addPkt_rel (sub_of hc rfl) ?_
      exact hf6
    · refine answer_rel (sub_of hc rfl) ?_
      refine logOpen_rel (sub_of hc rfl) ?_
      exact hf6
  · exact hv4

theorem poolCentre_rel {ch : Nat} {s u : State} {x1} (hc : 29559810 &&& ch = 29559810) (h : Rel ch s u) :
    Rel ch s (poolCentre u x1) := by
  unfold poolCentre
  split
  · refine poolLost_rel (sub_of hc rfl) ?_
    exact h
  · extract_lets -merge -underBinder v0 v1
    try clear_value v0
    try clear_value v1
    refine Rel.ite ?_ ?_
    · refine gatherStart_rel (sub_of hc rfl) ?_
      exact h
    · refine qMarks_rel (sub_of hc rfl) ?_
      refine modPkt_rel (sub_of hc rfl) ?_
      exact h

theorem portCentre_rel {ch : Nat} {s u : State} {x1 x2} (hc : 21171202 &&& ch = 21171202) (h : Rel ch s u) :
    Rel ch s (portCentre u x1 x2) := by
  unfold portCentre
  refine Rel.ite ?_ ?_
  · refine portStandIn_rel (sub_of hc rfl) ?_
    refine dropPkt_rel (sub_of hc rfl) ?_
    exact h
  · refine Rel.ite ?_ ?_
    · refine standIn_rel (sub_of hc rfl) ?_
      refine dropPkt_rel (sub_of hc rfl) ?_
      exact h
    · refine modPkt_rel (sub_of hc rfl) ?_
      exact h

theorem pastCheck_rel {ch : Nat} {s u : State} {x1} (hc : 29559810 &&& ch = 29559810) (h : Rel ch s u) :
    Rel ch s (pastCheck u x1) := by
  unfold pastCheck
  split
  · refine poolCentre_rel (sub_of hc rfl) ?_
    exact h
  · refine portCentre_rel (sub_of hc rfl) ?_
    exact h
  · refine modPkt_rel (sub_of hc rfl) ?_
    exact h

theorem centreRefuse_rel {ch : Nat} {s u : State} {x1 x2 x3} (hc : 21171714 &&& ch = 21171714) (h : Rel ch s u) :
    Rel ch s (centreRefuse u x1 x2 x3) := by
  unfold centreRefuse
  refine refuse_rel (sub_of hc rfl) ?_
  refine dklRefuse_rel (sub_of hc rfl) ?_
  refine dropPkt_rel (sub_of hc rfl) ?_
  exact h

theorem atCentre_rel {ch : Nat} {s u : State} {x1} (hc : 29560322 &&& ch = 29560322) (h : Rel ch s u) :
    Rel ch s (atCentre u x1) := by
  unfold atCentre
  extract_lets -merge -underBinder v0
  try clear_value v0
  refine Rel.ite ?_ ?_
  · refine pastCheck_rel (sub_of hc rfl) ?_
    exact h
  · refine Rel.ite ?_ ?_
    · refine centreRefuse_rel (sub_of hc rfl) ?_
      exact h
    · split
      · refine pastCheck_rel (sub_of hc rfl) ?_
        exact h
      · extract_lets -merge -underBinder v1 v2 v3
        try clear_value v1
        have hv2 : Rel ch s v2 := by
          subst v2
          refine dklLog_rel (sub_of hc rfl) ?_
          exact h
        try clear_value v2
        try clear_value v3
        refine Rel.ite ?_ ?_
        · refine centreRefuse_rel (sub_of hc rfl) ?_
          exact h
        · refine pastCheck_rel (sub_of hc rfl) ?_
          refine modPkt_rel (sub_of hc rfl) ?_
          exact hv2

theorem execRequestAtCentre_rel {ch : Nat} {s u t : State} {x0} (hc : 29560322 &&& ch = 29560322) (h : Rel ch s u)
    (ht : execRequestAtCentre x0 u = .next t) : Rel ch s t := by
  unfold execRequestAtCentre at ht
  refine Rel.unitOk ?_ ht
  split
  · refine atCentre_rel (sub_of hc rfl) ?_
    exact h
  · exact h

end Sys2Proof.Machine
end

