-- ==== Sys2Proof/Laws/RelChannels.lean ====
section
/-!
SUPPORT. What each operation of Channels.lean can change, and that it keeps what every command keeps (Laws/Rel.lean).
-/

namespace Sys2Proof.Machine

theorem zeroChan_rel {ch : Nat} {s u : State} {x} (hc : 33554560 &&& ch = 33554560) (h : Rel ch s u) : Rel ch s (zeroChan u x) :=
  Rel.poolMem _ (fun w => tabWf_filter _ w) rfl (bit_of 7 hc rfl) (bit_of 25 hc rfl) h

theorem chanCtrlWrite_rel {ch : Nat} {s u : State} {x1 x2} (hc : 524416 &&& ch = 524416) (h : Rel ch s u) :
    Rel ch s (chanCtrlWrite u x1 x2) := by
  unfold chanCtrlWrite
  extract_lets -merge -underBinder v0 v1
  try clear_value v0
  have hv1 : Rel ch s v1 := by
    subst v1
    refine Rel.ite ?_ ?_
    · refine modChan_rel (sub_of hc rfl) ?_
      refine tapEnd_rel (sub_of hc rfl) ?_
      exact h
    · refine Rel.ite ?_ ?_
      · refine modChan_rel (sub_of hc rfl) ?_
        exact h
      · exact h
  try clear_value v1
  refine Rel.ite ?_ ?_
  · refine modChan_rel (sub_of hc rfl) ?_
    exact hv1
  · exact hv1

theorem execPoolChEnable_rel {ch : Nat} {s u t : State} {x0} (hc : 524416 &&& ch = 524416) (h : Rel ch s u)
    (ht : execPoolChEnable x0 u = .next t) : Rel ch s t := by
  unfold execPoolChEnable at ht
  refine Rel.unitOk ?_ ht
  refine chanCtrlWrite_rel (sub_of hc rfl) ?_
  exact h

theorem execPoolChDisable_rel {ch : Nat} {s u t : State} {x0} (hc : 524416 &&& ch = 524416) (h : Rel ch s u)
    (ht : execPoolChDisable x0 u = .next t) : Rel ch s t := by
  unfold execPoolChDisable at ht
  refine Rel.unitOk ?_ ht
  refine chanCtrlWrite_rel (sub_of hc rfl) ?_
  exact h

theorem execInitStart_rel {ch : Nat} {s u t : State} {x0} (hc : 128 &&& ch = 128) (h : Rel ch s u)
    (ht : execInitStart x0 u = .next t) : Rel ch s t := by
  unfold execInitStart at ht
  refine Rel.unitOk ?_ ht
  refine Rel.ite ?_ ?_
  · refine modChan_rel (sub_of hc rfl) ?_
    exact h
  · exact h

theorem chanTrained_rel {ch : Nat} {s u : State} {x0 x1} (hc : 128 &&& ch = 128) (h : Rel ch s u) :
    Rel ch s (chanTrained x0 x1 u) := by
  unfold chanTrained
  extract_lets -merge -underBinder v0 v1
  try clear_value v0
  try clear_value v1
  refine Rel.ite ?_ ?_
  · exact h
  · refine modChan_rel (sub_of hc rfl) ?_
    exact h

theorem execChannelTrainingDone_rel {ch : Nat} {s u t : State} {x0 x1} (hc : 128 &&& ch = 128) (h : Rel ch s u)
    (ht : execChannelTrainingDone x0 x1 u = .next t) : Rel ch s t := by
  unfold execChannelTrainingDone at ht
  refine Rel.unitOk ?_ ht
  refine chanTrained_rel (sub_of hc rfl) ?_
  exact h

theorem execChannelInitDone_rel {ch : Nat} {s u t : State} {x0} (hc : 33554560 &&& ch = 33554560) (h : Rel ch s u)
    (ht : execChannelInitDone x0 u = .next t) : Rel ch s t := by
  unfold execChannelInitDone at ht
  refine Rel.unitOk ?_ ht
  refine Rel.ite ?_ ?_
  · refine modChan_rel (sub_of hc rfl) ?_
    refine zeroChan_rel (sub_of hc rfl) ?_
    exact h
  · exact h

theorem chanLost_rel {ch : Nat} {s u : State} {x1} (hc : 164068738 &&& ch = 164068738) (h : Rel ch s u) :
    Rel ch s (chanLost u x1) := by
  unfold chanLost
  refine restartTakes_rel (sub_of hc rfl) ?_
  refine leaveService_rel (sub_of hc rfl) ?_
  refine modChan_rel (sub_of hc rfl) ?_
  exact h

theorem execChannelLost_rel {ch : Nat} {s u t : State} {x0} (hc : 164068738 &&& ch = 164068738) (h : Rel ch s u)
    (ht : execChannelLost x0 u = .next t) : Rel ch s t := by
  unfold execChannelLost at ht
  refine Rel.unitOk ?_ ht
  extract_lets -merge -underBinder v0
  try clear_value v0
  refine Rel.ite ?_ ?_
  · refine chanLost_rel (sub_of hc rfl) ?_
    exact h
  · exact h

theorem memberSt_rel {ch : Nat} {s u : State} {x1 x2 x3} (hc : 128 &&& ch = 128) (h : Rel ch s u) :
    Rel ch s (memberSt u x1 x2 x3) := by
  unfold memberSt
  refine Rel.forL (fun u0 x0 hf0 => ?_) ?_
  · refine Rel.ite ?_ ?_
    · refine modChan_rel (sub_of hc rfl) ?_
      exact hf0
    · exact hf0
  · exact h

theorem grpWrite_rel {ch : Nat} {s u : State} {x1 x2} (hc : 128 &&& ch = 128) (h : Rel ch s u) :
    Rel ch s (grpWrite u x1 x2) := by
  unfold grpWrite
  extract_lets -merge -underBinder v0 v1 v2 v3
  have hv0 : Rel ch s v0 := by
    subst v0
    refine modGrp_rel (sub_of hc rfl) ?_
    exact h
  try clear_value v0
  try clear_value v1
  try clear_value v2
  have hv3 : Rel ch s v3 := by
    subst v3
    refine modGrp_rel (sub_of hc rfl) ?_
    exact hv0
  try clear_value v3
  refine Rel.ite ?_ ?_
  · refine Rel.ite ?_ ?_
    · exact hv0
    · refine Rel.ite ?_ ?_
      · exact hv3
      · refine modGrp_rel (sub_of hc rfl) ?_
        refine memberSt_rel (sub_of hc rfl) ?_
        exact hv0
  · refine Rel.ite ?_ ?_
    · refine modGrp_rel (sub_of hc rfl) ?_
      exact hv0
    · refine Rel.ite ?_ ?_
      · exact hv3
      · refine modGrp_rel (sub_of hc rfl) ?_
        refine memberSt_rel (sub_of hc rfl) ?_
        exact hv0

theorem execPoolGrpEnable_rel {ch : Nat} {s u t : State} {x0 x1} (hc : 128 &&& ch = 128) (h : Rel ch s u)
    (ht : execPoolGrpEnable x0 x1 u = .next t) : Rel ch s t := by
  unfold execPoolGrpEnable at ht
  refine Rel.unitOk ?_ ht
  refine Rel.ite ?_ ?_
  · refine grpWrite_rel (sub_of hc rfl) ?_
    exact h
  · exact h

theorem execPoolGrpDisable_rel {ch : Nat} {s u t : State} {x0 x1} (hc : 128 &&& ch = 128) (h : Rel ch s u)
    (ht : execPoolGrpDisable x0 x1 u = .next t) : Rel ch s t := by
  unfold execPoolGrpDisable at ht
  refine Rel.unitOk ?_ ht
  refine Rel.ite ?_ ?_
  · exact h
  · refine grpWrite_rel (sub_of hc rfl) ?_
    exact h

theorem poolSet_rel {ch : Nat} {s u : State} {x1} (hc : 128 &&& ch = 128) (h : Rel ch s u) :
    Rel ch s (poolSet u x1) := by
  unfold poolSet
  extract_lets -merge -underBinder v0 v1
  subst v0
  subst v1
  refine Rel.ite ?_ ?_
  · exact h
  · refine Rel.ite ?_ ?_
    · refine Rel.pool _ rfl rfl rfl (bit_of 7 hc rfl) ?_
      exact h
    · refine Rel.pool _ rfl rfl rfl (bit_of 7 hc rfl) ?_
      exact h

theorem poolCtrlWrite_rel {ch : Nat} {s u : State} {x1} (hc : 128 &&& ch = 128) (h : Rel ch s u) :
    Rel ch s (poolCtrlWrite u x1) := by
  unfold poolCtrlWrite
  extract_lets -merge -underBinder v0 v1
  try clear_value v0
  subst v1
  refine poolSet_rel (sub_of hc rfl) ?_
  refine Rel.pool _ rfl rfl rfl (bit_of 7 hc rfl) ?_
  exact h

theorem execPoolOpen_rel {ch : Nat} {s u t : State} (hc : 128 &&& ch = 128) (h : Rel ch s u)
    (ht : execPoolOpen u = .next t) : Rel ch s t := by
  unfold execPoolOpen at ht
  refine Rel.unitOk ?_ ht
  refine poolSet_rel (sub_of hc rfl) ?_
  exact h

theorem execPoolClose_rel {ch : Nat} {s u t : State} (hc : 128 &&& ch = 128) (h : Rel ch s u)
    (ht : execPoolClose u = .next t) : Rel ch s t := by
  unfold execPoolClose at ht
  refine Rel.unitOk ?_ ht
  refine poolSet_rel (sub_of hc rfl) ?_
  exact h

theorem execDramReadDone_rel {ch : Nat} {s u t : State} {x0 x1 x2} (hc : 63139202 &&& ch = 63139202) (h : Rel ch s u)
    (ht : execDramReadDone x0 x1 x2 u = .next t) : Rel ch s t := by
  unfold execDramReadDone at ht
  refine Rel.unitOk ?_ ht
  refine dramReadDone_rel (sub_of hc rfl) ?_
  exact h

theorem execDramWriteAccepted_rel {ch : Nat} {s u t : State} {x0 x1} (hc : 63139202 &&& ch = 63139202) (h : Rel ch s u)
    (ht : execDramWriteAccepted x0 x1 u = .next t) : Rel ch s t := by
  unfold execDramWriteAccepted at ht
  refine Rel.unitOk ?_ ht
  refine dramWriteAccepted_rel (sub_of hc rfl) ?_
  exact h

theorem execScrubRead_rel {ch : Nat} {s u t : State} {x0 x1 x2} (hc : 37880962 &&& ch = 37880962) (h : Rel ch s u)
    (ht : execScrubRead x0 x1 x2 u = .next t) : Rel ch s t := by
  unfold execScrubRead at ht
  refine Rel.unitOk ?_ ht
  refine scrubRead_rel (sub_of hc rfl) ?_
  exact h

theorem ceClear_rel {ch : Nat} {s u : State} {x1} (hc : 128 &&& ch = 128) (h : Rel ch s u) :
    Rel ch s (ceClear u x1) := by
  unfold ceClear
  refine modChan_rel (sub_of hc rfl) ?_
  exact h

theorem ueClear_rel {ch : Nat} {s u : State} {x1} (hc : 128 &&& ch = 128) (h : Rel ch s u) :
    Rel ch s (ueClear u x1) := by
  unfold ueClear
  refine modChan_rel (sub_of hc rfl) ?_
  exact h

theorem execCeLogClear_rel {ch : Nat} {s u t : State} {x0} (hc : 128 &&& ch = 128) (h : Rel ch s u)
    (ht : execCeLogClear x0 u = .next t) : Rel ch s t := by
  unfold execCeLogClear at ht
  refine Rel.unitOk ?_ ht
  refine ceClear_rel (sub_of hc rfl) ?_
  exact h

theorem execUeLogClear_rel {ch : Nat} {s u t : State} {x0} (hc : 128 &&& ch = 128) (h : Rel ch s u)
    (ht : execUeLogClear x0 u = .next t) : Rel ch s t := by
  unfold execUeLogClear at ht
  refine Rel.unitOk ?_ ht
  refine ueClear_rel (sub_of hc rfl) ?_
  exact h

theorem shtSelWrite_rel {ch : Nat} {s u : State} {x1} (hc : 128 &&& ch = 128) (h : Rel ch s u) :
    Rel ch s (shtSelWrite u x1) := by
  unfold shtSelWrite
  extract_lets -merge -underBinder v0 v1
  try clear_value v0
  subst v1
  refine Rel.pool _ rfl rfl rfl (bit_of 7 hc rfl) ?_
  exact h

theorem execSheetSelectWrite_rel {ch : Nat} {s u t : State} {x0} (hc : 128 &&& ch = 128) (h : Rel ch s u)
    (ht : execSheetSelectWrite x0 u = .next t) : Rel ch s t := by
  unfold execSheetSelectWrite at ht
  refine Rel.unitOk ?_ ht
  refine shtSelWrite_rel (sub_of hc rfl) ?_
  exact h

theorem execHomeRds_rel {ch : Nat} {s u t : State} {x0} (hc : 63139202 &&& ch = 63139202) (h : Rel ch s u)
    (ht : execHomeRds x0 u = .next t) : Rel ch s t := by
  unfold execHomeRds at ht
  refine Rel.unitOk ?_ ht
  refine homeOp_rel (sub_of hc rfl) ?_
  exact h

theorem execHomeRde_rel {ch : Nat} {s u t : State} {x0} (hc : 63139202 &&& ch = 63139202) (h : Rel ch s u)
    (ht : execHomeRde x0 u = .next t) : Rel ch s t := by
  unfold execHomeRde at ht
  refine Rel.unitOk ?_ ht
  refine homeOp_rel (sub_of hc rfl) ?_
  exact h

theorem execHomeRdnc_rel {ch : Nat} {s u t : State} {x0} (hc : 63139202 &&& ch = 63139202) (h : Rel ch s u)
    (ht : execHomeRdnc x0 u = .next t) : Rel ch s t := by
  unfold execHomeRdnc at ht
  refine Rel.unitOk ?_ ht
  split
  · refine Rel.ite ?_ ?_
    · refine takeReq_rel (sub_of hc rfl) ?_
      exact h
    · exact h
  · exact h

theorem execHomeWrnc_rel {ch : Nat} {s u t : State} {x0} (hc : 63139202 &&& ch = 63139202) (h : Rel ch s u)
    (ht : execHomeWrnc x0 u = .next t) : Rel ch s t := by
  unfold execHomeWrnc at ht
  refine Rel.unitOk ?_ ht
  refine homeOp_rel (sub_of hc rfl) ?_
  exact h

theorem execHomeEvd_rel {ch : Nat} {s u t : State} {x0} (hc : 63139202 &&& ch = 63139202) (h : Rel ch s u)
    (ht : execHomeEvd x0 u = .next t) : Rel ch s t := by
  unfold execHomeEvd at ht
  refine Rel.unitOk ?_ ht
  refine homeOp_rel (sub_of hc rfl) ?_
  exact h

theorem execHomeEvc_rel {ch : Nat} {s u t : State} {x0} (hc : 63139202 &&& ch = 63139202) (h : Rel ch s u)
    (ht : execHomeEvc x0 u = .next t) : Rel ch s t := by
  unfold execHomeEvc at ht
  refine Rel.unitOk ?_ ht
  refine homeOp_rel (sub_of hc rfl) ?_
  exact h

theorem execHomeAtom_rel {ch : Nat} {s u t : State} {x0} (hc : 63139202 &&& ch = 63139202) (h : Rel ch s u)
    (ht : execHomeAtom x0 u = .next t) : Rel ch s t := by
  unfold execHomeAtom at ht
  refine Rel.unitOk ?_ ht
  refine homeOp_rel (sub_of hc rfl) ?_
  exact h

theorem execBiResponse_rel {ch : Nat} {s u t : State} {x0 x1 x2 x3} (hc : 63139202 &&& ch = 63139202) (h : Rel ch s u)
    (ht : execBiResponse x0 x1 x2 x3 u = .next t) : Rel ch s t := by
  unfold execBiResponse at ht
  refine Rel.unitOk ?_ ht
  refine biResponse_rel (sub_of hc rfl) ?_
  exact h

theorem execBiconflictReceived_rel {ch : Nat} {s u t : State} {x0 x1} (hc : 21169410 &&& ch = 21169410) (h : Rel ch s u)
    (ht : execBiconflictReceived x0 x1 u = .next t) : Rel ch s t := by
  unfold execBiconflictReceived at ht
  refine Rel.unitOk ?_ ht
  extract_lets -merge -underBinder v0
  try clear_value v0
  refine Rel.ite ?_ ?_
  · refine conflictAck_rel (sub_of hc rfl) ?_
    exact h
  · refine dirLog_rel (sub_of hc rfl) ?_
    exact h

theorem execSnoopTimeout_rel {ch : Nat} {s u t : State} {x0 x1} (hc : 29584642 &&& ch = 29584642) (h : Rel ch s u)
    (ht : execSnoopTimeout x0 x1 u = .next t) : Rel ch s t := by
  unfold execSnoopTimeout at ht
  refine Rel.unitOk ?_ ht
  refine snoopTimeout_rel (sub_of hc rfl) ?_
  exact h

theorem walkEnd_rel {ch : Nat} {s u : State} {x1} (hc : 549864706 &&& ch = 549864706) (h : Rel ch s u) :
    Rel ch s (walkEnd u x1) := by
  unfold walkEnd
  extract_lets -merge -underBinder v0 v1 v2
  try clear_value v0
  have hv1 : Rel ch s v1 := by
    subst v1
    refine Rel.home _ (bit_of 8 hc rfl) ?_
    exact h
  try clear_value v1
  have hv2 : Rel ch s v2 := by
    subst v2
    split
    · refine Rel.ite ?_ ?_
      · refine finishWait_rel (sub_of hc rfl) ?_
        exact hv1
      · exact hv1
    · exact hv1
  try clear_value v2
  split
  · refine takeEv_rel (sub_of hc rfl) ?_
    exact hv2
  · exact hv2

theorem walkDone_rel {ch : Nat} {s u : State} {x1} (hc : 600272258 &&& ch = 600272258) (h : Rel ch s u) :
    Rel ch s (walkDone u x1) := by
  unfold walkDone
  split
  · exact h
  · extract_lets -merge -underBinder v0 v1
    try clear_value v0
    have hv1 : Rel ch s v1 := by
      subst v1
      refine Rel.home _ (bit_of 8 hc rfl) ?_
      exact h
    try clear_value v1
    refine Rel.ite ?_ ?_
    · refine resetWalk_rel (sub_of hc rfl) ?_
      exact hv1
    · refine Rel.ite ?_ ?_
      · refine walkEnd_rel (sub_of hc rfl) ?_
        exact h
      · refine startRecalls_rel (sub_of hc rfl) ?_
        exact h

theorem execDirectoryWalkDone_rel {ch : Nat} {s u t : State} {x0} (hc : 600272258 &&& ch = 600272258) (h : Rel ch s u)
    (ht : execDirectoryWalkDone x0 u = .next t) : Rel ch s t := by
  unfold execDirectoryWalkDone at ht
  refine Rel.unitOk ?_ ht
  refine walkDone_rel (sub_of hc rfl) ?_
  exact h

theorem dirClear_rel {ch : Nat} {s u : State} (hc : 256 &&& ch = 256) (h : Rel ch s u) :
    Rel ch s (dirClear u) := by
  unfold dirClear
  extract_lets -merge -underBinder v0
  try clear_value v0
  refine Rel.home _ (bit_of 8 hc rfl) ?_
  exact h

theorem execDirLogClear_rel {ch : Nat} {s u t : State} (hc : 256 &&& ch = 256) (h : Rel ch s u)
    (ht : execDirLogClear u = .next t) : Rel ch s t := by
  unfold execDirLogClear at ht
  refine Rel.unitOk ?_ ht
  refine dirClear_rel (sub_of hc rfl) ?_
  exact h

theorem trackerClear_rel {ch : Nat} {s u : State} (hc : 256 &&& ch = 256) (h : Rel ch s u) :
    Rel ch s (trackerClear u) := by
  unfold trackerClear
  extract_lets -merge -underBinder v0
  try clear_value v0
  refine Rel.home _ (bit_of 8 hc rfl) ?_
  exact h

theorem execTrackerPeakClear_rel {ch : Nat} {s u t : State} (hc : 256 &&& ch = 256) (h : Rel ch s u)
    (ht : execTrackerPeakClear u = .next t) : Rel ch s t := by
  unfold execTrackerPeakClear at ht
  refine Rel.unitOk ?_ ht
  refine trackerClear_rel (sub_of hc rfl) ?_
  exact h

theorem dklClear_rel {ch : Nat} {s u : State} (hc : 512 &&& ch = 512) (h : Rel ch s u) :
    Rel ch s (dklClear u) := by
  unfold dklClear
  extract_lets -merge -underBinder v0
  subst v0
  refine Rel.dkl _ rfl (bit_of 9 hc rfl) ?_
  exact h

theorem execDeckleLogClear_rel {ch : Nat} {s u t : State} (hc : 512 &&& ch = 512) (h : Rel ch s u)
    (ht : execDeckleLogClear u = .next t) : Rel ch s t := by
  unfold execDeckleLogClear at ht
  refine Rel.unitOk ?_ ht
  refine dklClear_rel (sub_of hc rfl) ?_
  exact h

end Sys2Proof.Machine
end

