-- ==== Sys2Proof/Laws/RelBoot.lean ====
section
/-!
SUPPORT. What each operation of Boot.lean can change, and that it keeps what every command keeps (Laws/Rel.lean).
-/

namespace Sys2Proof.Machine

theorem gkept_bootCause (g : Glb) (x : ImgSrc) (c : Nat) : gkept (bootCause g x c) g := by
  unfold bootCause
  split <;> exact ⟨rfl, rfl, rfl, rfl, rfl, rfl⟩

theorem gkept_flashOver (g : Glb) : gkept (flashOver g) g := ⟨rfl, rfl, rfl, rfl, rfl, rfl⟩

theorem gkept_bootNext (g : Glb) (x : ImgSrc) (c : Nat) : gkept (bootNext g x c) g := by
  have hb := gkept_bootCause g x c
  unfold bootNext
  dsimp only
  split
  · split
    · exact hb
    · exact gkept_trans (gkept_flashOver _) hb
  · exact gkept_trans (gkept_flashOver _) hb
  · exact hb

theorem gkept_bootStart (g : Glb) (f : Bool) : gkept (bootStart g f) g := by
  unfold bootStart
  split
  · exact gkept_refl g
  · split
    · exact gkept_refl g
    · split <;> exact gkept_refl g

theorem coldState_rel {ch : Nat} {s u : State} (hc : 2147483647 &&& ch = 2147483647) (h : Rel ch s u) : Rel ch s (coldState u) :=
  have z {i : Nat} {P : Prop} (hi : Nat.testBit 2147483647 i = true) (e : ch.testBit i = false) : P :=
    absurd (e.symm.trans (bit_of i hc hi)) Bool.false_ne_true
  { f0 := z rfl, f1 := z rfl, f2 := z rfl, f3 := z rfl, f4 := z rfl, f5 := z rfl, f6 := z rfl, f7 := z rfl, f8 := z rfl
    f9 := z rfl, f10 := z rfl, f11 := z rfl, f12 := z rfl, f13 := z rfl, f14 := z rfl, f15 := z rfl, f16 := z rfl
    f17 := z rfl, f18 := z rfl, f19 := z rfl, f20 := z rfl, f21 := z rfl, f22 := z rfl, f23 := z rfl, f24 := z rfl
    mem := z rfl, ps := z rfl, sheet := z rfl, deckle := z rfl, regs := z rfl, locks := z rfl
    pend := h.pend
    inv := fun _ => ⟨rfl, rfl, fun _ _ _ => show dklOverlap {} {} = false by decide⟩
    fuses := ⟨h.fuses.valid, h.fuses.revoked, h.fuses.svn, h.fuses.serial, h.fuses.grade, h.fuses.stepping⟩
    grow := h.grow
    rise := h.rise }

theorem deviceReset_rel {ch : Nat} {s u : State} {x1} (hc : 2147483647 &&& ch = 2147483647) (hk : gkept (x1 u.glb) u.glb)
    (h : Rel ch s u) : Rel ch s (deviceReset u x1) := by
  have hv := Rel.glb (x1 u.glb) hk (bit_of 0 hc rfl) h
  unfold deviceReset
  dsimp only
  refine Rel.ite hv (coldState_rel (sub_of hc rfl) (tapEnd_rel (sub_of hc rfl) ?_))
  exact Rel.glb (u := { u with glb := x1 u.glb }) _ ⟨rfl, rfl, rfl, rfl, rfl, rfl⟩ (bit_of 0 hc rfl) hv

theorem execResetNAssert_rel {ch : Nat} {s u t : State} (hc : 2147483647 &&& ch = 2147483647) (h : Rel ch s u)
    (ht : execResetNAssert u = .next t) : Rel ch s t := by
  unfold execResetNAssert at ht
  refine Rel.unitOk ?_ ht
  refine deviceReset_rel (sub_of hc rfl) ⟨rfl, rfl, rfl, rfl, rfl, rfl⟩ ?_
  exact h

theorem execBrownout_rel {ch : Nat} {s u t : State} {x0} (hc : 2147483647 &&& ch = 2147483647) (h : Rel ch s u)
    (ht : execBrownout x0 u = .next t) : Rel ch s t := by
  unfold execBrownout at ht
  refine Rel.unitOk ?_ ht
  refine Rel.ite ?_ ?_
  · exact h
  · refine deviceReset_rel (sub_of hc rfl) ⟨rfl, rfl, rfl, rfl, rfl, rfl⟩ ?_
    exact h

theorem execThermtrip_rel {ch : Nat} {s u t : State} {x0} (hc : 2147483647 &&& ch = 2147483647) (h : Rel ch s u)
    (ht : execThermtrip x0 u = .next t) : Rel ch s t := by
  unfold execThermtrip at ht
  refine Rel.unitOk ?_ ht
  extract_lets -merge -underBinder v0 v1
  have hv0 : Rel ch s v0 := by
    subst v0
    refine deviceReset_rel (sub_of hc rfl) ⟨rfl, rfl, rfl, rfl, rfl, rfl⟩ ?_
    exact h
  try clear_value v0
  try clear_value v1
  refine Rel.pwr _ (bit_of 2 hc rfl) ?_
  exact hv0

theorem coreLost_rel {ch : Nat} {s u : State} (hc : 2147483647 &&& ch = 2147483647) (h : Rel ch s u) :
    Rel ch s (coreLost u) := by
  unfold coreLost
  extract_lets -merge -underBinder v0 v1 v2
  have hv0 : Rel ch s v0 := by
    subst v0
    refine coldState_rel (sub_of hc rfl) ?_
    refine tapEnd_rel (sub_of hc rfl) ?_
    exact h
  try clear_value v0
  subst v1
  try clear_value v2
  refine Rel.pace_pwr_glb _ (bit_of 3 hc rfl)  _ (bit_of 2 hc rfl)  _ ⟨rfl, rfl, rfl, rfl, rfl, rfl⟩ (bit_of 0 hc rfl) ?_
  exact hv0

theorem execSupplyLoss_rel {ch : Nat} {s u t : State} {x0} (hc : 2147483647 &&& ch = 2147483647) (h : Rel ch s u)
    (ht : execSupplyLoss x0 u = .next t) : Rel ch s t := by
  unfold execSupplyLoss at ht
  refine Rel.unitOk ?_ ht
  extract_lets -merge -underBinder v0 v1
  subst v0
  have hv1 : Rel ch s v1 := by
    subst v1
    refine Rel.glb _ ⟨rfl, rfl, rfl, rfl, rfl, rfl⟩ (bit_of 0 hc rfl) ?_
    exact h
  try clear_value v1
  split
  · refine coreLost_rel (sub_of hc rfl) ?_
    exact hv1
  · extract_lets -merge -underBinder v2 v3
    subst v2
    try clear_value v3
    refine Rel.slot_pwr_glb _ (bit_of 4 hc rfl)  _ (bit_of 2 hc rfl)  _ ⟨rfl, rfl, rfl, rfl, rfl, rfl⟩ (bit_of 0 hc rfl) ?_
    exact hv1
  · exact hv1

theorem execPowerUp_rel {ch : Nat} {s u t : State} (hc : 1 &&& ch = 1) (h : Rel ch s u)
    (ht : execPowerUp u = .next t) : Rel ch s t := by
  unfold execPowerUp at ht
  refine Rel.unitOk ?_ ht
  extract_lets -merge -underBinder v0 v1 v2 v3
  try clear_value v0
  subst v1
  have hv2 : Rel ch s v2 := by
    subst v2
    refine Rel.glb _ ⟨rfl, rfl, rfl, rfl, rfl, rfl⟩ (bit_of 0 hc rfl) ?_
    exact h
  try clear_value v2
  subst v3
  refine Rel.ite ?_ ?_
  · refine Rel.glb _ ⟨rfl, rfl, rfl, rfl, rfl, rfl⟩ (bit_of 0 hc rfl) ?_
    exact hv2
  · exact hv2

theorem execDeviceResetRelease_rel {ch : Nat} {s u t : State} {x0} (hc : 262145 &&& ch = 262145) (h : Rel ch s u)
    (ht : execDeviceResetRelease x0 u = .next t) : Rel ch s t := by
  unfold execDeviceResetRelease at ht
  refine Rel.unitOk ?_ ht
  refine Rel.ite h ?_
  exact Rel.stk_glb _ (bit_of 18 hc rfl) _ (gkept_bootStart _ _) (bit_of 0 hc rfl) h

theorem execImageReadDone_rel {ch : Nat} {s u t : State} {x0 x1 x2 x3} (hc : 1 &&& ch = 1) (h : Rel ch s u)
    (ht : execImageReadDone x0 x1 x2 x3 u = .next t) : Rel ch s t := by
  unfold execImageReadDone at ht
  refine Rel.unitOk ?_ ht
  refine Rel.ite h ?_
  refine Rel.glb _ ?_ (bit_of 0 hc rfl) h
  generalize hq : (if (x0 == ImgSrc.a) = true then _ else u.glb) = q
  have hg : gkept q u.glb := by
    subst hq
    split <;> exact gkept_refl u.glb
  split
  · exact gkept_trans (gkept_bootNext _ _ _) hg
  · split
    · exact gkept_trans (gkept_flashOver _) (gkept_trans (gkept_bootCause _ _ _) hg)
    · exact hg

theorem bootGo_rel {ch : Nat} {s u : State} (hc : 1 &&& ch = 1) (h : Rel ch s u) :
    Rel ch s (bootGo u) := by
  unfold bootGo
  extract_lets -merge -underBinder v0
  subst v0
  refine Rel.ite ?_ ?_
  · exact h
  · refine Rel.glb _ ⟨rfl, rfl, rfl, rfl, rfl, rfl⟩ (bit_of 0 hc rfl) ?_
    exact h

theorem execBootGo_rel {ch : Nat} {s u t : State} (hc : 1 &&& ch = 1) (h : Rel ch s u)
    (ht : execBootGo u = .next t) : Rel ch s t := by
  unfold execBootGo at ht
  refine Rel.unitOk ?_ ht
  refine bootGo_rel (sub_of hc rfl) ?_
  exact h

theorem bootStartS0_rel {ch : Nat} {s u : State} {x1 x2 x3} (hc : 67109889 &&& ch = 67109889) (h : Rel ch s u) :
    Rel ch s (bootStartS0 u x1 x2 x3) := by
  unfold bootStartS0
  refine Rel.modCtx (fun _ => rfl) (bit_of 10 hc rfl) ?_
  exact Rel.seqPs (u := { u with glb := _ }) _ (fun _ => wf_wrBytes (m := []) _ _ rfl) rfl (bit_of 10 hc rfl) (bit_of 26 hc rfl)
    (Rel.glb _ ⟨rfl, rfl, rfl, rfl, rfl, rfl⟩ (bit_of 0 hc rfl) h)

theorem execImageVerifyDone_rel {ch : Nat} {s u t : State} {x0} (hc : 67109889 &&& ch = 67109889) (h : Rel ch s u)
    (ht : execImageVerifyDone x0 u = .next t) : Rel ch s t := by
  unfold execImageVerifyDone at ht
  refine Rel.unitOk ?_ ht
  split
  · exact h
  · next src _ =>
    refine Rel.ite h (Rel.ite (bootStartS0_rel (sub_of hc rfl) h) ?_)
    have hv := Rel.glb _ (gkept_bootNext u.glb src (bootFail u src (bootBytes u src))) (bit_of 0 hc rfl) h
    refine Rel.ite ?_ hv
    exact Rel.seqPs (u := { u with glb := _ }) _ (fun _ => rfl) rfl (bit_of 10 hc rfl) (bit_of 26 hc rfl) hv

theorem hostRingsOff_rel {ch : Nat} {s u : State} (hc : 4326402 &&& ch = 4326402) (h : Rel ch s u) :
    Rel ch s (hostRingsOff u) := by
  unfold hostRingsOff
  refine stewEv_rel (sub_of hc rfl) ?_
  refine Rel.forL (fun u0 x0 hf0 => ?_) ?_
  · refine ringsOff_rel (sub_of hc rfl) ?_
    exact hf0
  · exact h

theorem resetCmd_rel {ch : Nat} {s u : State} {x1 x2} (hc : 4326402 &&& ch = 4326402) (h : Rel ch s u) :
    Rel ch s (resetCmd u x1 x2) := by
  unfold resetCmd
  extract_lets -merge -underBinder v0 v1 v2 v3 v4
  try clear_value v0
  try clear_value v1
  have hv2 : Rel ch s v2 := by
    subst v2
    refine modLink_rel (sub_of hc rfl) ?_
    exact h
  try clear_value v2
  have hv3 : Rel ch s v3 := by
    subst v3
    refine Rel.ite ?_ ?_
    · refine cntAdd_rel (sub_of hc rfl) ?_
      exact hv2
    · exact hv2
  try clear_value v3
  have hv4 : Rel ch s v4 := by
    subst v4
    refine newEntry__rel (sub_of hc rfl) ?_
    exact hv3
  try clear_value v4
  refine Rel.ite ?_ ?_
  · refine modLink_rel (sub_of hc rfl) ?_
    exact h
  · refine Rel.ite ?_ ?_
    · refine hostRingsOff_rel (sub_of hc rfl) ?_
      exact hv4
    · exact hv4

theorem endCmd_rel {ch : Nat} {s u : State} {x1} (hc : 2 &&& ch = 2) (h : Rel ch s u) :
    Rel ch s (endCmd u x1) := by
  unfold endCmd
  refine Rel.ite ?_ ?_
  · refine modLink_rel (sub_of hc rfl) ?_
    exact h
  · exact h

theorem refLost_rel {ch : Nat} {s u : State} {x1} (hc : 29842434 &&& ch = 29842434) (h : Rel ch s u) :
    Rel ch s (refLost u x1) := by
  unfold refLost
  extract_lets -merge -underBinder v0 v1
  have hv0 : Rel ch s v0 := by
    subst v0
    refine modPort_rel (sub_of hc rfl) ?_
    exact h
  try clear_value v0
  have hv1 : Rel ch s v1 := by
    subst v1
    refine laneEv_rel (sub_of hc rfl) ?_
    exact hv0
  try clear_value v1
  refine Rel.ite ?_ ?_
  · exact hv0
  · refine Rel.ite ?_ ?_
    · refine resetPort_rel (sub_of hc rfl) ?_
      exact hv1
    · refine modPort_rel (sub_of hc rfl) ?_
      exact hv1

theorem execRefclkLoss_rel {ch : Nat} {s u t : State} {x0} (hc : 29842434 &&& ch = 29842434) (h : Rel ch s u)
    (ht : execRefclkLoss x0 u = .next t) : Rel ch s t := by
  unfold execRefclkLoss at ht
  refine Rel.unitOk ?_ ht
  extract_lets -merge -underBinder v0 v1 v2
  have hv0 : Rel ch s v0 := by
    subst v0
    refine Rel.forL (fun u3 x3 hf3 => ?_) ?_
    · refine refLost_rel (sub_of hc rfl) ?_
      exact hf3
    · exact h
  try clear_value v0
  try clear_value v1
  have hv2 : Rel ch s v2 := by
    subst v2
    refine modLink_rel (sub_of hc rfl) ?_
    exact hv0
  try clear_value v2
  refine Rel.ite ?_ ?_
  · exact h
  · refine resetCmd_rel (sub_of hc rfl) ?_
    exact hv2

theorem execRefclkRestored_rel {ch : Nat} {s u t : State} {x0} (hc : 16384 &&& ch = 16384) (h : Rel ch s u)
    (ht : execRefclkRestored x0 u = .next t) : Rel ch s t := by
  unfold execRefclkRestored at ht
  refine Rel.unitOk ?_ ht
  refine Rel.forL (fun u0 x0 hf0 => ?_) ?_
  · refine modPort_rel (sub_of hc rfl) ?_
    exact hf0
  · exact h

end Sys2Proof.Machine
end

