-- ==== Sys2Proof/Laws/RelService.lean ====
section
/-!
SUPPORT. What each operation of Service.lean can change, and that it keeps what every command keeps (Laws/Rel.lean).
-/

namespace Sys2Proof.Machine

theorem tenCreate_rel {ch : Nat} {s u : State} {x1 x2 x3} (hc : 537011200 &&& ch = 537011200) (h : Rel ch s u) :
    Rel ch s (tenCreate u x1 x2 x3) := by
  unfold tenCreate
  extract_lets -merge -underBinder v0 v1
  have hv0 : Rel ch s v0 := by
    subst v0
    refine modTen_rel (sub_of hc rfl) ?_
    refine zeroTenCtrs_rel (sub_of hc rfl) ?_
    exact h
  try clear_value v0
  try clear_value v1
  refine Rel.setCtx' _ _ (bit_of 10 hc rfl) (bit_of 29 hc rfl) ?_
  exact hv0

theorem tenantRun_rel {ch : Nat} {s u : State} {x0 x1 x2 f3} (hc : 12993538 &&& ch = 12993538) (hh3 : ∀ a0 a1, Rel ch s a0 → Rel ch s (f3 a0 a1)) (h : Rel ch s u) :
    Rel ch s (tenantRun x0 x1 x2 f3 u) := by
  unfold tenantRun
  extract_lets -merge -underBinder v0 v1
  try clear_value v0
  try clear_value v1
  refine Rel.ite ?_ ?_
  · exact h
  · refine oxRun_rel (sub_of hc rfl) (fun y3 y4 hf2 => ?_) ?_
    · refine Rel.ite ?_ ?_
      · refine retireSt_rel (sub_of hc rfl) ?_
        exact hf2
      · refine hh3 _ _ ?_
        exact hf2
    · exact h

theorem execTenantCreate_rel {ch : Nat} {s u t : State} {x0 x1} (hc : 549876738 &&& ch = 549876738) (h : Rel ch s u)
    (ht : execTenantCreate x0 x1 u = .next t) : Rel ch s t := by
  unfold execTenantCreate at ht
  refine Rel.unitOk ?_ ht
  refine tenantRun_rel (sub_of hc rfl) (fun y1 y2 hf0 => ?_) ?_
  · refine Rel.ite ?_ ?_
    · refine retireSt_rel (sub_of hc rfl) ?_
      exact hf0
    · refine retireSt_rel (sub_of hc rfl) ?_
      refine restartTakes_rel (sub_of hc rfl) ?_
      refine tenCreate_rel (sub_of hc rfl) ?_
      exact hf0
  · exact h

theorem execTenantRemove_rel {ch : Nat} {s u t : State} {x0 x1} (hc : 633831170 &&& ch = 633831170) (h : Rel ch s u)
    (ht : execTenantRemove x0 x1 u = .next t) : Rel ch s t := by
  unfold execTenantRemove at ht
  refine Rel.unitOk ?_ ht
  refine tenantRun_rel (sub_of hc rfl) (fun y1 y2 hf0 => ?_) ?_
  · refine Rel.ite ?_ ?_
    · refine retireSt_rel (sub_of hc rfl) ?_
      exact hf0
    · refine Rel.ite ?_ ?_
      · refine waitAgain_rel (sub_of hc rfl) ?_
        exact hf0
      · refine modTen_rel (sub_of hc rfl) ?_
        refine resetTenant_rel (sub_of hc rfl) ?_
        refine waitWith_rel (sub_of hc rfl) ?_
        exact hf0
  · exact h

theorem execTenantTimeout_rel {ch : Nat} {s u t : State} {x0 x1} (hc : 13001730 &&& ch = 13001730) (h : Rel ch s u)
    (ht : execTenantTimeout x0 x1 u = .next t) : Rel ch s t := by
  unfold execTenantTimeout at ht
  refine Rel.unitOk ?_ ht
  refine tenantRun_rel (sub_of hc rfl) (fun y1 y2 hf0 => ?_) ?_
  · refine retireSt_rel (sub_of hc rfl) ?_
    refine modTen_rel (sub_of hc rfl) ?_
    exact hf0
  · exact h

theorem execTenantCounterRead_rel {ch : Nat} {s u t : State} {x0 x1} (hc : 13001730 &&& ch = 13001730) (h : Rel ch s u)
    (ht : execTenantCounterRead x0 x1 u = .next t) : Rel ch s t := by
  unfold execTenantCounterRead at ht
  refine Rel.unitOk ?_ ht
  refine tenantRun_rel (sub_of hc rfl) (fun y1 y2 hf0 => ?_) ?_
  · refine retireSt_rel (sub_of hc rfl) ?_
    refine modTen_rel (sub_of hc rfl) ?_
    exact hf0
  · exact h

theorem resetuRun_rel {ch : Nat} {s u : State} {x0 x1 x2 x3 x4 x5 x6 f7} (hc : 12993538 &&& ch = 12993538) (hh7 : ∀ a0 a1, Rel ch s a0 → Rel ch s (f7 a0 a1)) (h : Rel ch s u) :
    Rel ch s (resetuRun x0 x1 x2 x3 x4 x5 x6 f7 u) := by
  unfold resetuRun
  extract_lets -merge -underBinder v0 v1
  try clear_value v0
  try clear_value v1
  refine Rel.ite ?_ ?_
  · exact h
  · refine oxRun_rel (sub_of hc rfl) (fun y3 y4 hf2 => ?_) ?_
    · refine Rel.ite ?_ ?_
      · refine retireSt_rel (sub_of hc rfl) ?_
        exact hf2
      · refine Rel.ite ?_ ?_
        · refine waitAgain_rel (sub_of hc rfl) ?_
          exact hf2
        · refine hh7 _ _ ?_
          refine waitWith_rel (sub_of hc rfl) ?_
          exact hf2
    · exact h

theorem execResetuPort_rel {ch : Nat} {s u t : State} {x0 x1} (hc : 29842434 &&& ch = 29842434) (h : Rel ch s u)
    (ht : execResetuPort x0 x1 u = .next t) : Rel ch s t := by
  unfold execResetuPort at ht
  refine Rel.unitOk ?_ ht
  refine resetuRun_rel (sub_of hc rfl) (fun y1 y2 hf0 => ?_) ?_
  · refine resetPort_rel (sub_of hc rfl) ?_
    exact hf0
  · exact h

theorem execResetuQuire_rel {ch : Nat} {s u t : State} {x0 x1} (hc : 29875202 &&& ch = 29875202) (h : Rel ch s u)
    (ht : execResetuQuire x0 x1 u = .next t) : Rel ch s t := by
  unfold execResetuQuire at ht
  refine Rel.unitOk ?_ ht
  refine resetuRun_rel (sub_of hc rfl) (fun y1 y2 hf0 => ?_) ?_
  · refine resetQuire_rel (sub_of hc rfl) ?_
    exact hf0
  · exact h

theorem execResetuTenant_rel {ch : Nat} {s u t : State} {x0 x1} (hc : 633831170 &&& ch = 633831170) (h : Rel ch s u)
    (ht : execResetuTenant x0 x1 u = .next t) : Rel ch s t := by
  unfold execResetuTenant at ht
  refine Rel.unitOk ?_ ht
  refine resetuRun_rel (sub_of hc rfl) (fun y1 y2 hf0 => ?_) ?_
  · refine resetTenant_rel (sub_of hc rfl) ?_
    exact hf0
  · exact h

theorem execResetuPoolChannel_rel {ch : Nat} {s u t : State} {x0 x1} (hc : 164068738 &&& ch = 164068738) (h : Rel ch s u)
    (ht : execResetuPoolChannel x0 x1 u = .next t) : Rel ch s t := by
  unfold execResetuPoolChannel at ht
  refine Rel.unitOk ?_ ht
  refine resetuRun_rel (sub_of hc rfl) (fun y1 y2 hf0 => ?_) ?_
  · refine resetChan_rel (sub_of hc rfl) ?_
    exact hf0
  · exact h

theorem execResetuSlot_rel {ch : Nat} {s u t : State} {x0 x1} (hc : 12993558 &&& ch = 12993558) (h : Rel ch s u)
    (ht : execResetuSlot x0 x1 u = .next t) : Rel ch s t := by
  unfold execResetuSlot at ht
  refine Rel.unitOk ?_ ht
  refine resetuRun_rel (sub_of hc rfl) (fun y1 y2 hf0 => ?_) ?_
  · refine resetSlot_rel (sub_of hc rfl) ?_
    exact hf0
  · exact h

theorem execResetuContext_rel {ch : Nat} {s u t : State} {x0 x1} (hc : 633822978 &&& ch = 633822978) (h : Rel ch s u)
    (ht : execResetuContext x0 x1 u = .next t) : Rel ch s t := by
  unfold execResetuContext at ht
  refine Rel.unitOk ?_ ht
  refine resetuRun_rel (sub_of hc rfl) (fun y1 y2 hf0 => ?_) ?_
  · refine resetCtx_rel (sub_of hc rfl) ?_
    exact hf0
  · exact h

theorem execResetuMoverChannel_rel {ch : Nat} {s u t : State} {x0 x1} (hc : 96947970 &&& ch = 96947970) (h : Rel ch s u)
    (ht : execResetuMoverChannel x0 x1 u = .next t) : Rel ch s t := by
  unfold execResetuMoverChannel at ht
  refine Rel.unitOk ?_ ht
  refine resetuRun_rel (sub_of hc rfl) (fun y1 y2 hf0 => ?_) ?_
  · refine resetMover_rel (sub_of hc rfl) ?_
    exact hf0
  · exact h

theorem execResetuCommandPort_rel {ch : Nat} {s u t : State} {x0 x1} (hc : 12993538 &&& ch = 12993538) (h : Rel ch s u)
    (ht : execResetuCommandPort x0 x1 u = .next t) : Rel ch s t := by
  unfold execResetuCommandPort at ht
  refine Rel.unitOk ?_ ht
  refine resetuRun_rel (sub_of hc rfl) (fun y1 y2 hf0 => ?_) ?_
  · refine resetCmd_rel (sub_of hc rfl) ?_
    exact hf0
  · exact h

theorem execResetuCoherentDomain_rel {ch : Nat} {s u t : State} {x0 x1} (hc : 29846786 &&& ch = 29846786) (h : Rel ch s u)
    (ht : execResetuCoherentDomain x0 x1 u = .next t) : Rel ch s t := by
  unfold execResetuCoherentDomain at ht
  refine Rel.unitOk ?_ ht
  extract_lets -merge -underBinder v0 v1
  try clear_value v0
  try clear_value v1
  refine Rel.ite ?_ ?_
  · exact h
  · refine oxRun_rel (sub_of hc rfl) (fun y3 y4 hf2 => ?_) ?_
    · refine Rel.ite ?_ ?_
      · refine retireSt_rel (sub_of hc rfl) ?_
        exact hf2
      · refine retireSt_rel (sub_of hc rfl) ?_
        refine domainFall_rel (sub_of hc rfl) ?_
        exact hf2
    · exact h

theorem retireUnits_rel {ch : Nat} {s u : State} (hc : 549864450 &&& ch = 549864450) (h : Rel ch s u) :
    Rel ch s (retireUnits u) := by
  unfold retireUnits
  refine retireWaiters_rel (sub_of hc rfl) ?_
  exact h

theorem endCtx_rel {ch : Nat} {s u : State} {x1} (hc : 1024 &&& ch = 1024) (h : Rel ch s u) :
    Rel ch s (endCtx u x1) := by
  unfold endCtx
  refine Rel.ite ?_ ?_
  · exact h
  · refine ctxRelease_rel (sub_of hc rfl) ?_
    exact h

theorem endUnitReset_rel {ch : Nat} {s u : State} {x1 x2} (hc : 818413202 &&& ch = 818413202) (h : Rel ch s u) :
    Rel ch s (endUnitReset u x1 x2) := by
  unfold endUnitReset
  split
  · refine endPort_rel (sub_of hc rfl) ?_
    exact h
  · refine endQuire_rel (sub_of hc rfl) ?_
    exact h
  · refine endTenant_rel (sub_of hc rfl) ?_
    exact h
  · refine endChan_rel (sub_of hc rfl) ?_
    exact h
  · refine endSlot_rel (sub_of hc rfl) ?_
    exact h
  · refine endCtx_rel (sub_of hc rfl) ?_
    exact h
  · refine endMover_rel (sub_of hc rfl) ?_
    exact h
  · refine endCmd_rel (sub_of hc rfl) ?_
    exact h

theorem execUnitResetEnd_rel {ch : Nat} {s u t : State} {x0 x1} (hc : 818413202 &&& ch = 818413202) (h : Rel ch s u)
    (ht : execUnitResetEnd x0 x1 u = .next t) : Rel ch s t := by
  unfold execUnitResetEnd at ht
  refine Rel.unitOk ?_ ht
  refine retireUnits_rel (sub_of hc rfl) ?_
  refine endUnitReset_rel (sub_of hc rfl) ?_
  exact h

theorem releaseHolds_rel {ch : Nat} {s u : State} (hc : 182400 &&& ch = 182400) (h : Rel ch s u) :
    Rel ch s (releaseHolds u) := by
  unfold releaseHolds
  extract_lets -merge -underBinder v0 v1 v2 v3
  try clear_value v0
  have hv1 : Rel ch s v1 := by
    subst v1
    refine Rel.forL (fun u4 x4 hf4 => ?_) ?_
    · refine portRun_rel (sub_of hc rfl) ?_
      exact hf4
    · exact h
  try clear_value v1
  have hv2 : Rel ch s v2 := by
    subst v2
    refine Rel.forL (fun u5 x5 hf5 => ?_) ?_
    · refine quireRun_rel (sub_of hc rfl) ?_
      exact hf5
    · exact hv1
  try clear_value v2
  have hv3 : Rel ch s v3 := by
    subst v3
    refine Rel.forL (fun u6 x6 hf6 => ?_) ?_
    · refine chanRun_rel (sub_of hc rfl) ?_
      exact hf6
    · exact hv2
  try clear_value v3
  refine Rel.forL (fun u7 x7 hf7 => ?_) ?_
  · refine moverRun_rel (sub_of hc rfl) ?_
    exact hf7
  · exact hv3

theorem holdWrite_rel {ch : Nat} {s u : State} {x1 x2} (hc : 182401 &&& ch = 182401) (h : Rel ch s u) :
    Rel ch s (holdWrite u x1 x2) := by
  unfold holdWrite
  extract_lets -merge -underBinder v0 v1 v2
  try clear_value v0
  try clear_value v1
  subst v2
  refine Rel.ite ?_ ?_
  · refine logEvent_rel (sub_of hc rfl) ?_
    exact h
  · refine releaseHolds_rel (sub_of hc rfl) ?_
    refine Rel.glb _ ⟨rfl, rfl, rfl, rfl, rfl, rfl⟩ (bit_of 0 hc rfl) ?_
    exact h

theorem execGlbHoldWrite_rel {ch : Nat} {s u t : State} {x0 x1} (hc : 182401 &&& ch = 182401) (h : Rel ch s u)
    (ht : execGlbHoldWrite x0 x1 u = .next t) : Rel ch s t := by
  unfold execGlbHoldWrite at ht
  refine Rel.unitOk ?_ ht
  refine holdWrite_rel (sub_of hc rfl) ?_
  exact h

theorem couchRun_rel {ch : Nat} {s u : State} {x0 x1 x2} (hc : 13026306 &&& ch = 13026306) (h : Rel ch s u) :
    Rel ch s (couchRun x0 x1 x2 u) := by
  unfold couchRun
  extract_lets -merge -underBinder v0
  try clear_value v0
  refine Rel.ite ?_ ?_
  · exact h
  · refine oxRun_rel (sub_of hc rfl) (fun y2 y3 hf1 => ?_) ?_
    · extract_lets -merge -underBinder v4
      try clear_value v4
      refine Rel.ite ?_ ?_
      · refine retireSt_rel (sub_of hc rfl) ?_
        exact hf1
      · refine Rel.ite ?_ ?_
        · refine retireSt_rel (sub_of hc rfl) ?_
          exact hf1
        · refine waitWith_rel (sub_of hc rfl) ?_
          refine modQuire_rel (sub_of hc rfl) ?_
          exact hf1
    · exact h

theorem execCouchToSpare_rel {ch : Nat} {s u t : State} {x0 x1} (hc : 13026306 &&& ch = 13026306) (h : Rel ch s u)
    (ht : execCouchToSpare x0 x1 u = .next t) : Rel ch s t := by
  unfold execCouchToSpare at ht
  refine Rel.unitOk ?_ ht
  refine couchRun_rel (sub_of hc rfl) ?_
  exact h

theorem execCouchHome_rel {ch : Nat} {s u t : State} {x0 x1} (hc : 13026306 &&& ch = 13026306) (h : Rel ch s u)
    (ht : execCouchHome x0 x1 u = .next t) : Rel ch s t := by
  unfold execCouchHome at ht
  refine Rel.unitOk ?_ ht
  refine couchRun_rel (sub_of hc rfl) ?_
  exact h

theorem couchEnd_rel {ch : Nat} {s u : State} {x1 x2} (hc : 549897218 &&& ch = 549897218) (h : Rel ch s u) :
    Rel ch s (couchEnd u x1 x2) := by
  unfold couchEnd
  extract_lets -merge -underBinder v0 v1
  try clear_value v0
  have hv1 : Rel ch s v1 := by
    subst v1
    refine modQuire_rel (sub_of hc rfl) ?_
    exact h
  try clear_value v1
  refine Rel.ite ?_ ?_
  · exact h
  · refine retireWaiters_rel (sub_of hc rfl) ?_
    refine quireCount_rel (sub_of hc rfl) ?_
    exact hv1

theorem execCouchHandoverEnd_rel {ch : Nat} {s u t : State} {x0 x1} (hc : 549897218 &&& ch = 549897218) (h : Rel ch s u)
    (ht : execCouchHandoverEnd x0 x1 u = .next t) : Rel ch s t := by
  unfold execCouchHandoverEnd at ht
  refine Rel.unitOk ?_ ht
  refine couchEnd_rel (sub_of hc rfl) ?_
  exact h

theorem execQpeSelfTestEnd_rel {ch : Nat} {s u t : State} {x0 x1} (hc : 32768 &&& ch = 32768) (h : Rel ch s u)
    (ht : execQpeSelfTestEnd x0 x1 u = .next t) : Rel ch s t := by
  unfold execQpeSelfTestEnd at ht
  refine Rel.unitOk ?_ ht
  extract_lets -merge -underBinder v0
  try clear_value v0
  refine Rel.ite ?_ ?_
  · refine modQuire_rel (sub_of hc rfl) ?_
    exact h
  · exact h

theorem lockRun_rel {ch : Nat} {s u : State} {x0 x1 x2 x3 x4 x5 x6 x7} (hc : 12993539 &&& ch = 12993539) (h : Rel ch s u) :
    Rel ch s (lockRun x0 x1 x2 x3 x4 x5 x6 x7 u) := by
  unfold lockRun
  extract_lets -merge -underBinder v0
  try clear_value v0
  refine Rel.ite ?_ ?_
  · exact h
  · refine oxRun_rel (sub_of hc rfl) (fun y2 y3 hf1 => ?_) ?_
    · extract_lets -merge -underBinder v4
      subst v4
      refine Rel.ite ?_ ?_
      · refine retireSt_rel (sub_of hc rfl) ?_
        exact hf1
      · refine Rel.ite ?_ ?_
        · refine retireSt_rel (sub_of hc rfl) ?_
          exact hf1
        · refine Rel.ite ?_ ?_
          · refine waitAgain_rel (sub_of hc rfl) ?_
            exact hf1
          · refine waitWith_rel (sub_of hc rfl) ?_
            refine Rel.glb _ ⟨rfl, rfl, rfl, rfl, rfl, rfl⟩ (bit_of 0 hc rfl) ?_
            exact hf1
    · exact h

theorem execLockLifecycle_rel {ch : Nat} {s u t : State} {x0 x1} (hc : 12993539 &&& ch = 12993539) (h : Rel ch s u)
    (ht : execLockLifecycle x0 x1 u = .next t) : Rel ch s t := by
  unfold execLockLifecycle at ht
  refine Rel.unitOk ?_ ht
  refine lockRun_rel (sub_of hc rfl) ?_
  exact h

theorem execLockRevoke_rel {ch : Nat} {s u t : State} {x0 x1} (hc : 12993539 &&& ch = 12993539) (h : Rel ch s u)
    (ht : execLockRevoke x0 x1 u = .next t) : Rel ch s t := by
  unfold execLockRevoke at ht
  refine Rel.unitOk ?_ ht
  refine lockRun_rel (sub_of hc rfl) ?_
  exact h

theorem execLockSvn_rel {ch : Nat} {s u t : State} {x0 x1} (hc : 12993539 &&& ch = 12993539) (h : Rel ch s u)
    (ht : execLockSvn x0 x1 u = .next t) : Rel ch s t := by
  unfold execLockSvn at ht
  refine Rel.unitOk ?_ ht
  refine lockRun_rel (sub_of hc rfl) ?_
  exact h

theorem execLockFuseKey_rel {ch : Nat} {s u t : State} {x0 x1} (hc : 12994051 &&& ch = 12994051) (h : Rel ch s u)
    (ht : execLockFuseKey x0 x1 u = .next t) : Rel ch s t := by
  unfold execLockFuseKey at ht
  refine Rel.unitOk ?_ ht
  refine Rel.ite h (oxRun_rel (sub_of hc rfl) (fun y1 y2 hf0 => ?_) h)
  refine Rel.ite (retireSt_rel (sub_of hc rfl) hf0) ?_
  refine Rel.ite (accessFault_rel (sub_of hc rfl) hf0) ?_
  refine Rel.ite (faultCtx_rel (sub_of hc rfl) hf0) ?_
  refine Rel.ite (waitAgain_rel (sub_of hc rfl) hf0) ?_
  refine waitWith_rel (sub_of hc rfl) ?_
  exact Rel.glb _ ⟨rfl, rfl, rfl, rfl, rfl, rfl⟩ (bit_of 0 hc rfl) hf0

/-- Setting a bit of a four-bit fuse word takes no bit back. -/
theorem bit_setFld (v : BitVec 4) (k i : Nat) (h : bit v i = true) : bit (setFld v k 1 1) i = true := by
  have hi : i < 4 := Decidable.byContradiction fun hi => by
    have : v.toNat < 2 ^ i := Nat.lt_of_lt_of_le v.isLt (Nat.pow_le_pow_right (by decide) (Nat.le_of_not_lt hi))
    simp [bit, Nat.div_eq_of_lt this] at h
  by_cases hk : k < 4
  · have small : ∀ (x : Fin 16) (k i : Fin 4), bit (BitVec.ofFin x : BitVec 4) i = true →
        bit (setFld (BitVec.ofFin x : BitVec 4) k 1 1) i = true := by decide
    exact small v.toFin ⟨k, hk⟩ ⟨i, hi⟩ h
  · have e : setFld v k 1 1 = v := by
      have hv : v.toNat < 2 ^ k := Nat.lt_of_lt_of_le v.isLt (Nat.pow_le_pow_right (by decide) (Nat.le_of_not_lt hk))
      obtain ⟨j, rfl⟩ := Nat.exists_eq_add_of_le (Nat.le_of_not_lt hk)
      apply BitVec.eq_of_toNat_eq
      have hl := v.isLt
      have f0 : fld v (4 + j) 1 = 0 := by simp only [fld, Nat.div_eq_of_lt hv, Nat.zero_mod]
      simp only [setFld, f0, Nat.zero_mul, Nat.sub_zero, BitVec.toNat_ofNat, Nat.pow_add]
      omega
    rw [e]; exact h

theorem fuseApply_kept (u : State) (g : Glb) (op : FuseOp) (h1 : g.keyValid = u.glb.keyValid) (h2 : g.keyRevoked = u.glb.keyRevoked)
    (h3 : g.svn = u.glb.svn) (h4 : g.serial = u.glb.serial ∧ g.grade = u.glb.grade ∧ g.stepping = u.glb.stepping) :
    Safety.FusesKept u { u with glb := fuseApply g op } := by
  obtain ⟨a, b, c⟩ := h4
  unfold fuseApply
  split
  · split <;> exact ⟨fun i e => h1 ▸ e, fun i e => h2 ▸ e, Nat.le_of_eq h3.symm, a, b, c⟩
  · exact ⟨fun i e => h1 ▸ e, fun i e => bit_setFld _ _ _ (h2 ▸ e), Nat.le_of_eq h3.symm, a, b, c⟩
  · exact ⟨fun i e => h1 ▸ e, fun i e => h2 ▸ e, h3 ▸ Nat.le_max_left _ _, a, b, c⟩
  · exact ⟨fun i e => bit_setFld _ _ _ (h1 ▸ e), fun i e => h2 ▸ e, Nat.le_of_eq h3.symm, a, b, c⟩

theorem execFuseWriteDone_rel {ch : Nat} {s u t : State} (hc : 2147483647 &&& ch = 2147483647) (h : Rel ch s u)
    (ht : execFuseWriteDone u = .next t) : Rel ch s t := by
  unfold execFuseWriteDone at ht
  refine Rel.unitOk ?_ ht
  split
  · exact h
  · next c op _ =>
    have hv := Rel.glbFuse (fuseApply { u.glb with fuse := none } op) (fuseApply_kept u _ op rfl rfl rfl ⟨rfl, rfl, rfl⟩)
      (bit_of 0 hc rfl) h
    refine Rel.ite ?_ (Rel.ite ?_ hv)
    · exact deviceReset_rel (sub_of hc rfl) ⟨rfl, rfl, rfl, rfl, rfl, rfl⟩ hv
    · exact finishWait_rel (sub_of hc rfl) hv

theorem imageLoad_rel {ch : Nat} {s u : State} {x1 x2 x3 x4 x5 x6} (hc : 80102915 &&& ch = 80102915) (h : Rel ch s u) :
    Rel ch s (imageLoad u x1 x2 x3 x4 x5 x6) := by
  unfold imageLoad
  extract_lets -merge -underBinder v0 v1 v2 v3
  have hv0 : Rel ch s v0.2 := by
    subst v0
    refine freeW_rel (sub_of hc rfl) ?_
    exact h
  try clear_value v0
  try clear_value v1
  try clear_value v2
  try clear_value v3
  refine Rel.ite ?_ ?_
  · refine retire_rel (sub_of hc rfl) ?_
    exact hv0
  · refine Rel.ite ?_ ?_
    · refine accessFault_rel (sub_of hc rfl) ?_
      exact h
    · split
      · rename_i w4 e5
        have hw4 := Rel.of_snd (ch := ch) (s := s) e5 (by
          refine peekSpan_rel (sub_of hc rfl) ?_
          exact h)
        refine faultCtx_rel (sub_of hc rfl) ?_
        exact hw4
      · rename_i w6 w7 e8
        have hw7 := Rel.of_snd (ch := ch) (s := s) e8 (by
          refine peekSpan_rel (sub_of hc rfl) ?_
          exact h)
        split
        · extract_lets -merge -underBinder v9 v10
          have hv9 : Rel ch s v9 := by
            subst v9
            refine psWrite_rel (sub_of hc rfl) ?_
            exact hw7
          try clear_value v9
          subst v10
          refine retireSt_rel (sub_of hc rfl) ?_
          refine Rel.glb _ ⟨rfl, rfl, rfl, rfl, rfl, rfl⟩ (bit_of 0 hc rfl) ?_
          exact hv9
        · refine retire_rel (sub_of hc rfl) ?_
          exact hw7

theorem execImage_rel {ch : Nat} {s u t : State} {x0 x1} (hc : 80102915 &&& ch = 80102915) (h : Rel ch s u)
    (ht : execImage x0 x1 u = .next t) : Rel ch s t := by
  unfold execImage at ht
  refine Rel.unitOk ?_ ht
  refine oxRun_rel (sub_of hc rfl) (fun y1 y2 hf0 => ?_) ?_
  · extract_lets -merge -underBinder v3 v4
    try clear_value v3
    try clear_value v4
    refine Rel.ite ?_ ?_
    · refine accessFault_rel (sub_of hc rfl) ?_
      exact hf0
    · split
      · rename_i w5 e6
        have hw5 := Rel.of_snd (ch := ch) (s := s) e6 (by
          refine peekSpan_rel (sub_of hc rfl) ?_
          exact hf0)
        refine faultCtx_rel (sub_of hc rfl) ?_
        exact hw5
      · rename_i w7 w8 e9
        have hw8 := Rel.of_snd (ch := ch) (s := s) e9 (by
          refine peekSpan_rel (sub_of hc rfl) ?_
          exact hf0)
        refine imageLoad_rel (sub_of hc rfl) ?_
        exact hw8
  · exact h

theorem execResume_rel {ch : Nat} {s u t : State} {x0 x1} (hc : 12993538 &&& ch = 12993538) (h : Rel ch s u)
    (ht : execResume x0 x1 u = .next t) : Rel ch s t := by
  unfold execResume at ht
  refine Rel.unitOk ?_ ht
  refine oxRun_rel (sub_of hc rfl) (fun y1 y2 hf0 => ?_) ?_
  · extract_lets -merge -underBinder v3
    try clear_value v3
    refine Rel.ite ?_ ?_
    · refine retireSt_rel (sub_of hc rfl) ?_
      exact hf0
    · refine retireSt_rel (sub_of hc rfl) ?_
      refine resumeCtx_rel (sub_of hc rfl) ?_
      exact hf0
  · exact h

theorem logUnit__rel {ch : Nat} {s u : State} {x1 x2} (hc : 8519680 &&& ch = 8519680) (h : Rel ch s u) :
    Rel ch s (logUnit_ u x1 x2) := by
  unfold logUnit_
  extract_lets -merge -underBinder v0
  have hv0 : Rel ch s v0.2 := by
    subst v0
    refine freeBelow_rel (sub_of hc rfl) ?_
    exact h
  try clear_value v0
  refine logMem_rel (sub_of hc rfl) ?_
  exact hv0

theorem ueReset_rel {ch : Nat} {s u : State} {x1 x2 x3 f4} (hc : 8519680 &&& ch = 8519680) (hh4 : ∀ a0, Rel ch s a0 → Rel ch s (f4 a0)) (h : Rel ch s u) :
    Rel ch s (ueReset u x1 x2 x3 f4) := by
  unfold ueReset
  refine Rel.ite ?_ ?_
  · exact h
  · refine hh4 _ ?_
    refine logUnit__rel (sub_of hc rfl) ?_
    exact h

theorem uePort_rel {ch : Nat} {s u : State} {x1 x2} (hc : 29850626 &&& ch = 29850626) (h : Rel ch s u) :
    Rel ch s (uePort u x1 x2) := by
  unfold uePort
  refine Rel.ite ?_ ?_
  · exact h
  · refine ueReset_rel (sub_of hc rfl) (fun y1 hf0 => ?_) ?_
    · refine Rel.ite ?_ ?_
      · refine dpcTrigger_rel (sub_of hc rfl) ?_
        exact hf0
      · refine resetPort_rel (sub_of hc rfl) ?_
        exact hf0
    · exact h

theorem ueQpe_rel {ch : Nat} {s u : State} {x1 x2} (hc : 566746114 &&& ch = 566746114) (h : Rel ch s u) :
    Rel ch s (ueQpe u x1 x2) := by
  unfold ueQpe
  extract_lets -merge -underBinder v0 v1 v2
  try clear_value v0
  have hv1 : Rel ch s v1.2 := by
    subst v1
    refine freeBelow_rel (sub_of hc rfl) ?_
    exact h
  try clear_value v1
  have hv2 : Rel ch s v2 := by
    subst v2
    refine Rel.ite ?_ ?_
    · refine couchEnd_rel (sub_of hc rfl) ?_
      exact hv1
    · exact h
  try clear_value v2
  refine Rel.ite ?_ ?_
  · exact h
  · refine Rel.ite ?_ ?_
    · refine logUnit__rel (sub_of hc rfl) ?_
      exact h
    · refine Rel.ite ?_ ?_
      · exact h
      · refine stewEv_rel (sub_of hc rfl) ?_
        refine resetQuire_rel (sub_of hc rfl) ?_
        refine logUnit__rel (sub_of hc rfl) ?_
        exact hv2

theorem ueCtx_rel {ch : Nat} {s u : State} {x1 x2} (hc : 633822978 &&& ch = 633822978) (h : Rel ch s u) :
    Rel ch s (ueCtx u x1 x2) := by
  unfold ueCtx
  extract_lets -merge -underBinder v0
  subst v0
  refine ueReset_rel (sub_of hc rfl) (fun y2 hf1 => ?_) ?_
  · extract_lets -merge -underBinder v3
    try clear_value v3
    refine Rel.ite ?_ ?_
    · exact hf1
    · refine resetCtx_rel (sub_of hc rfl) ?_
      refine faultCtx_rel (sub_of hc rfl) ?_
      exact hf1
  · exact h

theorem ueCell_rel {ch : Nat} {s u : State} {x1 x2} (hc : 12780546 &&& ch = 12780546) (h : Rel ch s u) :
    Rel ch s (ueCell u x1 x2) := by
  unfold ueCell
  split
  · exact h
  · extract_lets -merge -underBinder v0
    have hv0 : Rel ch s v0 := by
      subst v0
      refine modPkt_rel (sub_of hc rfl) ?_
      refine logUnit__rel (sub_of hc rfl) ?_
      exact h
    try clear_value v0
    refine Rel.ite ?_ ?_
    · exact h
    · refine Rel.ite ?_ ?_
      · exact hv0
      · refine tailMark_rel (sub_of hc rfl) ?_
        exact hv0

theorem ueTable_rel {ch : Nat} {s u : State} {x1 x2 x3} (hc : 2147483647 &&& ch = 2147483647) (h : Rel ch s u) :
    Rel ch s (ueTable u x1 x2 x3) := by
  unfold ueTable
  extract_lets -merge -underBinder v0
  have hv0 : Rel ch s v0 := by
    subst v0
    refine logMem_rel (sub_of hc rfl) ?_
    exact h
  try clear_value v0
  refine Rel.ite ?_ ?_
  · exact hv0
  · refine deviceReset_rel (sub_of hc rfl) ⟨rfl, rfl, rfl, rfl, rfl, rfl⟩ ?_
    refine logMem_rel (sub_of hc rfl) ?_
    exact hv0

theorem ueDirState_rel {ch : Nat} {s u : State} {x1} (hc : 4326658 &&& ch = 4326658) (h : Rel ch s u) :
    Rel ch s (ueDirState u x1) := by
  unfold ueDirState
  extract_lets -merge -underBinder v0 v1 v2 v3
  try clear_value v0
  have hv1 : Rel ch s v1 := by
    subst v1
    refine logMem_rel (sub_of hc rfl) ?_
    exact h
  try clear_value v1
  try clear_value v2
  have hv3 : Rel ch s v3 := by
    subst v3
    refine Rel.home _ (bit_of 8 hc rfl) ?_
    exact hv1
  try clear_value v3
  refine Rel.ite ?_ ?_
  · exact hv1
  · refine dirLog_rel (sub_of hc rfl) ?_
    exact hv3

theorem ueDirTag_rel {ch : Nat} {s u : State} {x1 x2} (hc : 29584642 &&& ch = 29584642) (h : Rel ch s u) :
    Rel ch s (ueDirTag u x1 x2) := by
  unfold ueDirTag
  extract_lets -merge -underBinder v0 v1 v2 v3 v4 v5 v6
  try clear_value v0
  have hv1 : Rel ch s v1 := by
    subst v1
    refine logMem_rel (sub_of hc rfl) ?_
    exact h
  try clear_value v1
  have hv2 : Rel ch s v2 := by
    subst v2
    refine logMem_rel (sub_of hc rfl) ?_
    exact hv1
  try clear_value v2
  try clear_value v3
  try clear_value v4
  have hv5 : Rel ch s v5 := by
    subst v5
    refine Rel.home _ (bit_of 8 hc rfl) ?_
    exact hv2
  try clear_value v5
  have hv6 : Rel ch s v6 := by
    subst v6
    refine dirLog_rel (sub_of hc rfl) ?_
    exact hv5
  try clear_value v6
  refine Rel.ite ?_ ?_
  · refine dirLog_rel (sub_of hc rfl) ?_
    exact hv1
  · refine Rel.forL (fun u7 x7 hf7 => ?_) ?_
    · refine domainFall_rel (sub_of hc rfl) ?_
      exact hf7
    · exact hv6

theorem ueRoute_rel {ch : Nat} {s u : State} {x1} (hc : 4359170 &&& ch = 4359170) (h : Rel ch s u) :
    Rel ch s (ueRoute u x1) := by
  unfold ueRoute
  extract_lets -merge -underBinder v0 v1
  try clear_value v0
  have hv1 : Rel ch s v1 := by
    subst v1
    refine logMem_rel (sub_of hc rfl) ?_
    exact h
  try clear_value v1
  refine Rel.ite ?_ ?_
  · exact h
  · refine stewEv_rel (sub_of hc rfl) ?_
    refine modQuire_rel (sub_of hc rfl) ?_
    exact hv1

theorem ueMeter_rel {ch : Nat} {s u : State} {x1} (hc : 4424706 &&& ch = 4424706) (h : Rel ch s u) :
    Rel ch s (ueMeter u x1) := by
  unfold ueMeter
  extract_lets -merge -underBinder v0 v1 v2 v3
  try clear_value v0
  try clear_value v1
  have hv2 : Rel ch s v2 := by
    subst v2
    refine logMem_rel (sub_of hc rfl) ?_
    exact h
  try clear_value v2
  have hv3 : Rel ch s v3 := by
    subst v3
    refine modMeter_rel (sub_of hc rfl) ?_
    exact hv2
  try clear_value v3
  refine Rel.ite ?_ ?_
  · exact h
  · refine stewEv_rel (sub_of hc rfl) ?_
    refine Rel.forL (fun u4 x4 hf4 => ?_) ?_
    · refine releaseRed_rel (sub_of hc rfl) ?_
      exact hf4
    · exact hv3

theorem ueRgrp_rel {ch : Nat} {s u : State} {x1} (hc : 4391938 &&& ch = 4391938) (h : Rel ch s u) :
    Rel ch s (ueRgrp u x1) := by
  unfold ueRgrp
  refine Rel.ite ?_ ?_
  · exact h
  · refine stewEv_rel (sub_of hc rfl) ?_
    refine modRgrp_rel (sub_of hc rfl) ?_
    refine logMem_rel (sub_of hc rfl) ?_
    exact h

theorem ueItem_rel {ch : Nat} {s u : State} {x1} (hc : 135168 &&& ch = 135168) (h : Rel ch s u) :
    Rel ch s (ueItem u x1) := by
  unfold ueItem
  extract_lets -merge -underBinder v0
  try clear_value v0
  refine modTake_rel (sub_of hc rfl) ?_
  refine logMem_rel (sub_of hc rfl) ?_
  exact h

theorem ueSharer_rel {ch : Nat} {s u : State} {x1 x2} (hc : 29584642 &&& ch = 29584642) (h : Rel ch s u) :
    Rel ch s (ueSharer u x1 x2) := by
  unfold ueSharer
  refine Rel.ite ?_ ?_
  · exact h
  · refine domainFall_rel (sub_of hc rfl) ?_
    refine logMem_rel (sub_of hc rfl) ?_
    exact h

theorem ueLog_rel {ch : Nat} {s u : State} {x1} (hc : 8520576 &&& ch = 8520576) (h : Rel ch s u) :
    Rel ch s (ueLog u x1) := by
  unfold ueLog
  extract_lets -merge -underBinder v0
  try clear_value v0
  split
  · extract_lets -merge -underBinder v1 v2 v3
    try clear_value v1
    try clear_value v2
    try clear_value v3
    refine logUnit__rel (sub_of hc rfl) ?_
    refine Rel.cnt _ (bit_of 17 hc rfl) ?_
    exact h
  · refine Rel.ite ?_ ?_
    · exact h
    · refine logUnit__rel (sub_of hc rfl) ?_
      refine modChan_rel (sub_of hc rfl) ?_
      exact h
  · refine Rel.ite ?_ ?_
    · exact h
    · refine logUnit__rel (sub_of hc rfl) ?_
      refine modChan_rel (sub_of hc rfl) ?_
      exact h
  · extract_lets -merge -underBinder v4
    try clear_value v4
    refine logUnit__rel (sub_of hc rfl) ?_
    refine Rel.home _ (bit_of 8 hc rfl) ?_
    exact h
  · extract_lets -merge -underBinder v5
    subst v5
    refine Rel.dkl _ rfl (bit_of 9 hc rfl) ?_
    exact h
  · exact h

theorem uePace_rel {ch : Nat} {s u : State} {x1} (hc : 131080 &&& ch = 131080) (h : Rel ch s u) :
    Rel ch s (uePace u x1) := by
  unfold uePace
  extract_lets -merge -underBinder v0
  try clear_value v0
  refine logMem_rel (sub_of hc rfl) ?_
  refine Rel.pace _ (bit_of 3 hc rfl) ?_
  exact h

theorem ueCmd_rel {ch : Nat} {s u : State} {x1 x2} (hc : 12715010 &&& ch = 12715010) (h : Rel ch s u) :
    Rel ch s (ueCmd u x1 x2) := by
  unfold ueCmd
  refine Rel.ite ?_ ?_
  · exact h
  · refine ueReset_rel (sub_of hc rfl) (fun y1 hf0 => ?_) ?_
    · refine resetCmd_rel (sub_of hc rfl) ?_
      exact hf0
    · exact h

theorem execUncorrectableMemoryError_rel {ch : Nat} {s u t : State} {x0 x1 x2} (hc : 2147483647 &&& ch = 2147483647) (h : Rel ch s u)
    (ht : execUncorrectableMemoryError x0 x1 x2 u = .next t) : Rel ch s t := by
  unfold execUncorrectableMemoryError at ht
  refine Rel.unitOk ?_ ht
  extract_lets -merge -underBinder v0 v1
  try clear_value v0
  try clear_value v1
  split
  · refine Rel.ite ?_ ?_
    · refine uePort_rel (sub_of hc rfl) ?_
      exact h
    · exact h
  · refine Rel.ite ?_ ?_
    · refine ueQpe_rel (sub_of hc rfl) ?_
      exact h
    · exact h
  · refine Rel.ite ?_ ?_
    · refine ueCtx_rel (sub_of hc rfl) ?_
      exact h
    · exact h
  · refine Rel.ite ?_ ?_
    · refine ueReset_rel (sub_of hc rfl) (fun y3 hf2 => ?_) ?_
      · refine resetMover_rel (sub_of hc rfl) ?_
        exact hf2
      · exact h
    · exact h
  · refine Rel.ite ?_ ?_
    · refine ueReset_rel (sub_of hc rfl) (fun y5 hf4 => ?_) ?_
      · refine resetChan_rel (sub_of hc rfl) ?_
        exact hf4
      · exact h
    · exact h
  · refine ueCell_rel (sub_of hc rfl) ?_
    exact h
  · refine Rel.ite ?_ ?_
    · refine ueTable_rel (sub_of hc rfl) ?_
      exact h
    · exact h
  · refine Rel.ite ?_ ?_
    · refine ueTable_rel (sub_of hc rfl) ?_
      exact h
    · exact h
  · refine Rel.ite ?_ ?_
    · refine ueDirState_rel (sub_of hc rfl) ?_
      exact h
    · exact h
  · refine Rel.ite ?_ ?_
    · refine ueDirTag_rel (sub_of hc rfl) ?_
      exact h
    · exact h
  · extract_lets -merge -underBinder v6 v7
    have hv6 : Rel ch s v6 := by
      subst v6
      refine logMem_rel (sub_of hc rfl) ?_
      exact h
    try clear_value v6
    subst v7
    refine Rel.ite ?_ ?_
    · refine Rel.ite ?_ ?_
      · exact hv6
      · refine Rel.seqPs _ (fun w => by first | exact w | rfl) rfl (bit_of 10 hc rfl) (bit_of 26 hc rfl) ?_
        exact hv6
    · exact h
  · refine ueRoute_rel (sub_of hc rfl) ?_
    exact h
  · refine ueMeter_rel (sub_of hc rfl) ?_
    exact h
  · refine ueRgrp_rel (sub_of hc rfl) ?_
    exact h
  · refine Rel.ite ?_ ?_
    · refine ueItem_rel (sub_of hc rfl) ?_
      exact h
    · exact h
  · refine ueSharer_rel (sub_of hc rfl) ?_
    exact h
  · refine uePace_rel (sub_of hc rfl) ?_
    exact h
  · refine ueLog_rel (sub_of hc rfl) ?_
    exact h
  · refine ueCmd_rel (sub_of hc rfl) ?_
    exact h

theorem correctable_rel {ch : Nat} {s u : State} {x1 x2 x3 x4} (hc : 4326402 &&& ch = 4326402) (h : Rel ch s u) :
    Rel ch s (correctable u x1 x2 x3 x4) := by
  unfold correctable
  extract_lets -merge -underBinder v0 v1 v2 v3 v4
  try clear_value v0
  try clear_value v1
  have hv2 : Rel ch s v2 := by
    subst v2
    refine logMem_rel (sub_of hc rfl) ?_
    exact h
  try clear_value v2
  have hv3 : Rel ch s v3 := by
    subst v3
    refine Rel.ite ?_ ?_
    · refine quireCount_rel (sub_of hc rfl) ?_
      exact hv2
    · exact hv2
  try clear_value v3
  try clear_value v4
  refine Rel.ite ?_ ?_
  · refine stewEv_rel (sub_of hc rfl) ?_
    exact hv3
  · exact hv3

theorem execCorrectableMemoryError_rel {ch : Nat} {s u t : State} {x0 x1 x2 x3 x4} (hc : 4326402 &&& ch = 4326402) (h : Rel ch s u)
    (ht : execCorrectableMemoryError x0 x1 x2 x3 x4 u = .next t) : Rel ch s t := by
  unfold execCorrectableMemoryError at ht
  refine Rel.unitOk ?_ ht
  refine Rel.ite ?_ ?_
  · refine correctable_rel (sub_of hc rfl) ?_
    exact h
  · exact h

end Sys2Proof.Machine
end

