-- ==== Sys2Proof/Laws/RelCmdPort.lean ====
section
/-!
SUPPORT. What each operation of CmdPort.lean can change, and that it keeps what every command keeps (Laws/Rel.lean).
-/

namespace Sys2Proof.Machine

theorem linkLog_rel {ch : Nat} {s u : State} {x1 x2} (hc : 131072 &&& ch = 131072) (h : Rel ch s u) :
    Rel ch s (linkLog u x1 x2) := by
  unfold linkLog
  refine logEvent_rel (sub_of hc rfl) ?_
  exact h

theorem switchover_rel {ch : Nat} {s u : State} (hc : 4326402 &&& ch = 4326402) (h : Rel ch s u) :
    Rel ch s (switchover u) := by
  unfold switchover
  extract_lets -merge -underBinder v0 v1 v2 v3 v4
  try clear_value v0
  try clear_value v1
  have hv2 : Rel ch s v2 := by
    subst v2
    refine Rel.cmd _ (bit_of 1 hc rfl) ?_
    exact h
  try clear_value v2
  try clear_value v3
  have hv4 : Rel ch s v4 := by
    subst v4
    refine Rel.cmd _ (bit_of 1 hc rfl) ?_
    exact hv2
  try clear_value v4
  refine hostRingsOff_rel (sub_of hc rfl) ?_
  exact hv4

theorem failoverNow_rel {ch : Nat} {s u : State} (hc : 4326402 &&& ch = 4326402) (h : Rel ch s u) :
    Rel ch s (failoverNow u) := by
  unfold failoverNow
  extract_lets -merge -underBinder v0
  try clear_value v0
  refine Rel.ite ?_ ?_
  · refine switchover_rel (sub_of hc rfl) ?_
    exact h
  · exact h

theorem linkLaneEv_rel {ch : Nat} {s u : State} {x1 x2 x3} (hc : 4326402 &&& ch = 4326402) (h : Rel ch s u) :
    Rel ch s (linkLaneEv u x1 x2 x3) := by
  unfold linkLaneEv
  extract_lets -merge -underBinder v0 v1
  try clear_value v0
  have hv1 : Rel ch s v1 := by
    subst v1
    refine modLink_rel (sub_of hc rfl) ?_
    exact h
  try clear_value v1
  refine stewIf_rel (sub_of hc rfl) ?_
  exact hv1

theorem linkTrained_rel {ch : Nat} {s u : State} {x1 x2 x3} (hc : 4326402 &&& ch = 4326402) (h : Rel ch s u) :
    Rel ch s (linkTrained u x1 x2 x3) := by
  unfold linkTrained
  extract_lets -merge -underBinder v0 v1 v2 v3
  try clear_value v0
  try clear_value v1
  try clear_value v2
  try clear_value v3
  split
  · refine linkLaneEv_rel (sub_of hc rfl) ?_
    exact h
  · extract_lets -merge -underBinder v4 v5 v6 v7 v8 v9 v10
    try clear_value v4
    try clear_value v5
    have hv6 : Rel ch s v6 := by
      subst v6
      refine Rel.cmd _ (bit_of 1 hc rfl) ?_
      exact h
    try clear_value v6
    have hv7 : Rel ch s v7 := by
      subst v7
      refine modLink_rel (sub_of hc rfl) ?_
      exact hv6
    try clear_value v7
    have hv8 : Rel ch s v8 := by
      subst v8
      refine Rel.ite ?_ ?_
      · refine linkLaneEv_rel (sub_of hc rfl) ?_
        exact hv7
      · exact hv7
    try clear_value v8
    try clear_value v9
    have hv10 : Rel ch s v10 := by
      subst v10
      refine Rel.ite ?_ ?_
      · refine Rel.cmd _ (bit_of 1 hc rfl) ?_
        exact hv8
      · exact hv8
    try clear_value v10
    refine failoverNow_rel (sub_of hc rfl) ?_
    exact hv10

theorem execCmdLinkTrained_rel {ch : Nat} {s u t : State} {x0 x1 x2} (hc : 4326402 &&& ch = 4326402) (h : Rel ch s u)
    (ht : execCmdLinkTrained x0 x1 x2 u = .next t) : Rel ch s t := by
  unfold execCmdLinkTrained at ht
  refine Rel.unitOk ?_ ht
  extract_lets -merge -underBinder v0 v1 v2
  try clear_value v0
  try clear_value v1
  try clear_value v2
  refine Rel.ite ?_ ?_
  · exact h
  · refine linkTrained_rel (sub_of hc rfl) ?_
    exact h

theorem execPerstAssert_rel {ch : Nat} {s u t : State} {x0} (hc : 4326402 &&& ch = 4326402) (h : Rel ch s u)
    (ht : execPerstAssert x0 u = .next t) : Rel ch s t := by
  unfold execPerstAssert at ht
  refine Rel.unitOk ?_ ht
  extract_lets -merge -underBinder v0
  have hv0 : Rel ch s v0 := by
    subst v0
    refine modLink_rel (sub_of hc rfl) ?_
    exact h
  try clear_value v0
  refine Rel.ite ?_ ?_
  · exact hv0
  · refine resetCmd_rel (sub_of hc rfl) ?_
    exact hv0

theorem execPerstDeassert_rel {ch : Nat} {s u t : State} {x0} (hc : 2 &&& ch = 2) (h : Rel ch s u)
    (ht : execPerstDeassert x0 u = .next t) : Rel ch s t := by
  unfold execPerstDeassert at ht
  refine Rel.unitOk ?_ ht
  refine modLink_rel (sub_of hc rfl) ?_
  exact h

theorem execCommandLinkHotReset_rel {ch : Nat} {s u t : State} {x0} (hc : 4326402 &&& ch = 4326402) (h : Rel ch s u)
    (ht : execCommandLinkHotReset x0 u = .next t) : Rel ch s t := by
  unfold execCommandLinkHotReset at ht
  refine Rel.unitOk ?_ ht
  refine Rel.ite ?_ ?_
  · refine resetCmd_rel (sub_of hc rfl) ?_
    exact h
  · exact h

theorem handover_rel {ch : Nat} {s u : State} (hc : 4326402 &&& ch = 4326402) (h : Rel ch s u) :
    Rel ch s (handover u) := by
  unfold handover
  refine Rel.ite ?_ ?_
  · refine switchover_rel (sub_of hc rfl) ?_
    exact h
  · refine logAt_rel (sub_of hc rfl) ?_
    exact h

theorem execHandover_rel {ch : Nat} {s u t : State} {x0} (hc : 4326402 &&& ch = 4326402) (h : Rel ch s u)
    (ht : execHandover x0 u = .next t) : Rel ch s t := by
  unfold execHandover at ht
  refine Rel.unitOk ?_ ht
  refine Rel.ite ?_ ?_
  · exact h
  · refine Rel.ite ?_ ?_
    · refine linkLog_rel (sub_of hc rfl) ?_
      exact h
    · refine handover_rel (sub_of hc rfl) ?_
      exact h

theorem claim_rel {ch : Nat} {s u : State} (hc : 4326402 &&& ch = 4326402) (h : Rel ch s u) :
    Rel ch s (claim u) := by
  unfold claim
  extract_lets -merge -underBinder v0
  try clear_value v0
  refine Rel.ite ?_ ?_
  · refine Rel.cmd _ (bit_of 1 hc rfl) ?_
    exact h
  · refine switchover_rel (sub_of hc rfl) ?_
    exact h

theorem execClaim_rel {ch : Nat} {s u t : State} {x0} (hc : 4326402 &&& ch = 4326402) (h : Rel ch s u)
    (ht : execClaim x0 u = .next t) : Rel ch s t := by
  unfold execClaim at ht
  refine Rel.unitOk ?_ ht
  refine Rel.ite ?_ ?_
  · exact h
  · refine claim_rel (sub_of hc rfl) ?_
    exact h

theorem execAutoFailover_rel {ch : Nat} {s u t : State} (hc : 4326402 &&& ch = 4326402) (h : Rel ch s u)
    (ht : execAutoFailover u = .next t) : Rel ch s t := by
  unfold execAutoFailover at ht
  refine Rel.unitOk ?_ ht
  extract_lets -merge -underBinder v0
  try clear_value v0
  refine Rel.ite ?_ ?_
  · exact h
  · refine failoverNow_rel (sub_of hc rfl) ?_
    refine Rel.cmd _ (bit_of 1 hc rfl) ?_
    exact h

theorem mctpControl_rel {ch : Nat} {s u : State} {x1 x2} (hc : 4194306 &&& ch = 4194306) (h : Rel ch s u) :
    Rel ch s (mctpControl u x1 x2) := by
  unfold mctpControl
  split
  · extract_lets -merge -underBinder v0
    try clear_value v0
    refine emit_rel (sub_of hc rfl) ?_
    refine Rel.cmd _ (bit_of 1 hc rfl) ?_
    exact h
  · refine emit_rel (sub_of hc rfl) ?_
    exact h
  · refine emit_rel (sub_of hc rfl) ?_
    exact h
  · refine emit_rel (sub_of hc rfl) ?_
    exact h
  · refine emit_rel (sub_of hc rfl) ?_
    exact h

theorem execMctpControlMessage_rel {ch : Nat} {s u t : State} {x0 x1} (hc : 4194306 &&& ch = 4194306) (h : Rel ch s u)
    (ht : execMctpControlMessage x0 x1 u = .next t) : Rel ch s t := by
  unfold execMctpControlMessage at ht
  refine Rel.unitOk ?_ ht
  refine Rel.ite ?_ ?_
  · refine mctpControl_rel (sub_of hc rfl) ?_
    exact h
  · exact h

theorem pldm_rel {ch : Nat} {s u : State} {x1 x2} (hc : 4194306 &&& ch = 4194306) (h : Rel ch s u) :
    Rel ch s (pldm u x1 x2) := by
  unfold pldm
  refine Rel.ite ?_ ?_
  · split
    · refine emit_rel (sub_of hc rfl) ?_
      exact h
    · extract_lets -merge -underBinder v0
      try clear_value v0
      refine emit_rel (sub_of hc rfl) ?_
      refine Rel.cmd _ (bit_of 1 hc rfl) ?_
      exact h
  · refine Rel.ite ?_ ?_
    · refine Rel.ite ?_ ?_
      · refine emit_rel (sub_of hc rfl) ?_
        exact h
      · refine emit_rel (sub_of hc rfl) ?_
        exact h
    · refine Rel.ite ?_ ?_
      · refine emit_rel (sub_of hc rfl) ?_
        exact h
      · refine emit_rel (sub_of hc rfl) ?_
        exact h

theorem execPldmMessage_rel {ch : Nat} {s u t : State} {x0 x1} (hc : 4194306 &&& ch = 4194306) (h : Rel ch s u)
    (ht : execPldmMessage x0 x1 u = .next t) : Rel ch s t := by
  unfold execPldmMessage at ht
  refine Rel.unitOk ?_ ht
  refine Rel.ite ?_ ?_
  · refine pldm_rel (sub_of hc rfl) ?_
    exact h
  · exact h

theorem execMctpOtherType_rel {ch : Nat} {s u t : State} {x0} (hc : 2 &&& ch = 2) (h : Rel ch s u)
    (ht : execMctpOtherType x0 u = .next t) : Rel ch s t := by
  unfold execMctpOtherType at ht
  refine Rel.unitOk ?_ ht
  extract_lets -merge -underBinder v0
  try clear_value v0
  refine Rel.ite ?_ ?_
  · refine Rel.cmd _ (bit_of 1 hc rfl) ?_
    exact h
  · exact h

theorem execDynamicAddressAssign_rel {ch : Nat} {s u t : State} {x0 x1} (hc : 2 &&& ch = 2) (h : Rel ch s u)
    (ht : execDynamicAddressAssign x0 x1 u = .next t) : Rel ch s t := by
  unfold execDynamicAddressAssign at ht
  refine Rel.unitOk ?_ ht
  extract_lets -merge -underBinder v0 v1
  try clear_value v0
  try clear_value v1
  refine Rel.ite ?_ ?_
  · exact h
  · refine Rel.ite ?_ ?_
    · refine Rel.cmd _ (bit_of 1 hc rfl) ?_
      exact h
    · refine Rel.cmd _ (bit_of 1 hc rfl) ?_
      exact h

end Sys2Proof.Machine
end

