-- ==== Sys2Proof/Laws/RelHier.lean ====
section
/-!
SUPPORT. What each operation of Hier.lean can change, and that it keeps what every command keeps (Laws/Rel.lean).
-/

namespace Sys2Proof.Machine

theorem stkIgnored_rel {ch : Nat} {s u : State} {x1} (hc : 131072 &&& ch = 131072) (h : Rel ch s u) :
    Rel ch s (stkIgnored u x1) := by
  unfold stkIgnored
  refine logAt_rel (sub_of hc rfl) ?_
  exact h

theorem stkModeWrite_rel {ch : Nat} {s u : State} {x1} (hc : 393216 &&& ch = 393216) (h : Rel ch s u) :
    Rel ch s (stkModeWrite u x1) := by
  unfold stkModeWrite
  extract_lets -merge -underBinder v0 v1 v2
  try clear_value v0
  try clear_value v1
  try clear_value v2
  refine Rel.ite ?_ ?_
  · refine stkIgnored_rel (sub_of hc rfl) ?_
    exact h
  · refine Rel.stk _ (bit_of 18 hc rfl) ?_
    exact h

theorem execStkModeWrite_rel {ch : Nat} {s u t : State} {x0} (hc : 393216 &&& ch = 393216) (h : Rel ch s u)
    (ht : execStkModeWrite x0 u = .next t) : Rel ch s t := by
  unfold execStkModeWrite at ht
  refine Rel.unitOk ?_ ht
  refine stkModeWrite_rel (sub_of hc rfl) ?_
  exact h

theorem keyWrite_rel {ch : Nat} {s u : State} {x1 x2} (hc : 393216 &&& ch = 393216) (h : Rel ch s u) :
    Rel ch s (keyWrite u x1 x2) := by
  unfold keyWrite
  extract_lets -merge -underBinder v0 v1 v2 v3
  try clear_value v0
  try clear_value v1
  have hv2 : Rel ch s v2 := by
    subst v2
    refine Rel.stk _ (bit_of 18 hc rfl) ?_
    exact h
  try clear_value v2
  try clear_value v3
  refine Rel.ite ?_ ?_
  · refine stkIgnored_rel (sub_of hc rfl) ?_
    exact h
  · refine Rel.ite ?_ ?_
    · refine Rel.stk _ (bit_of 18 hc rfl) ?_
      exact hv2
    · exact hv2

theorem execDomainKeyWrite_rel {ch : Nat} {s u t : State} {x0} (hc : 393216 &&& ch = 393216) (h : Rel ch s u)
    (ht : execDomainKeyWrite x0 u = .next t) : Rel ch s t := by
  unfold execDomainKeyWrite at ht
  refine Rel.unitOk ?_ ht
  refine keyWrite_rel (sub_of hc rfl) ?_
  exact h

theorem execKeyLockWrite_rel {ch : Nat} {s u t : State} (hc : 262144 &&& ch = 262144) (h : Rel ch s u)
    (ht : execKeyLockWrite u = .next t) : Rel ch s t := by
  unfold execKeyLockWrite at ht
  refine Rel.unitOk ?_ ht
  extract_lets -merge -underBinder v0
  try clear_value v0
  refine Rel.stk _ (bit_of 18 hc rfl) ?_
  exact h

theorem proxyWrite_rel {ch : Nat} {s u : State} {x1 x2} (hc : 393216 &&& ch = 393216) (h : Rel ch s u) :
    Rel ch s (proxyWrite u x1 x2) := by
  unfold proxyWrite
  extract_lets -merge -underBinder v0 v1
  try clear_value v0
  try clear_value v1
  refine Rel.ite ?_ ?_
  · refine stkIgnored_rel (sub_of hc rfl) ?_
    exact h
  · refine Rel.stk _ (bit_of 18 hc rfl) ?_
    exact h

theorem execStkProxyWrite_rel {ch : Nat} {s u t : State} {x0 x1} (hc : 393216 &&& ch = 393216) (h : Rel ch s u)
    (ht : execStkProxyWrite x0 x1 u = .next t) : Rel ch s t := by
  unfold execStkProxyWrite at ht
  refine Rel.unitOk ?_ ht
  refine proxyWrite_rel (sub_of hc rfl) ?_
  exact h

theorem mgmtTake_rel {ch : Nat} {s u : State} {x1 x2 x3 f4} (hc : 12993538 &&& ch = 12993538) (hh4 : ∀ a0, Rel ch s a0 → Rel ch s (f4 a0)) (h : Rel ch s u) :
    Rel ch s (mgmtTake u x1 x2 x3 f4) := by
  unfold mgmtTake
  extract_lets -merge -underBinder v0 v1
  try clear_value v0
  try clear_value v1
  refine Rel.ite ?_ ?_
  · exact h
  · refine Rel.ite ?_ ?_
    · refine msgDrop_rel (sub_of hc rfl) ?_
      exact h
    · refine Rel.ite ?_ ?_
      · exact h
      · refine Rel.ite ?_ ?_
        · refine msgEv_rel (sub_of hc rfl) ?_
          refine msgDrop_rel (sub_of hc rfl) ?_
          exact h
        · refine Rel.ite ?_ ?_
          · refine msgEv_rel (sub_of hc rfl) ?_
            refine msgDrop_rel (sub_of hc rfl) ?_
            exact h
          · refine Rel.ite ?_ ?_
            · refine msgEv_rel (sub_of hc rfl) ?_
              refine msgDrop_rel (sub_of hc rfl) ?_
              exact h
            · refine Rel.ite ?_ ?_
              · refine mgmtSend_rel (sub_of hc rfl) ?_
                refine msgEv_rel (sub_of hc rfl) ?_
                refine msgDrop_rel (sub_of hc rfl) ?_
                exact h
              · refine hh4 _ ?_
                refine Rel.ite ?_ ?_
                · exact h
                · refine modPeer_rel (sub_of hc rfl) ?_
                  exact h

theorem joinAccept_rel {ch : Nat} {s u : State} {x1 x2} (hc : 12861440 &&& ch = 12861440) (h : Rel ch s u) :
    Rel ch s (joinAccept u x1 x2) := by
  unfold joinAccept
  extract_lets -merge -underBinder v0 v1 v2 v3 v4 v5
  have hv0 : Rel ch s v0.2 := by
    subst v0
    refine freeW_rel (sub_of hc rfl) ?_
    exact h
  try clear_value v0
  have hv1 : Rel ch s v1 := by
    subst v1
    exact hv0
  try clear_value v1
  try clear_value v2
  have hv3 : Rel ch s v3 := by
    subst v3
    refine modPeer_rel (sub_of hc rfl) ?_
    exact hv1
  try clear_value v3
  try clear_value v4
  have hv5 : Rel ch s v5 := by
    subst v5
    refine Rel.stk _ (bit_of 18 hc rfl) ?_
    exact hv3
  try clear_value v5
  refine mgmtSend_rel (sub_of hc rfl) ?_
  exact hv5

theorem execMsgJoin_rel {ch : Nat} {s u t : State} {x0 x1} (hc : 12993538 &&& ch = 12993538) (h : Rel ch s u)
    (ht : execMsgJoin x0 x1 u = .next t) : Rel ch s t := by
  unfold execMsgJoin at ht
  refine Rel.unitOk ?_ ht
  refine mgmtTake_rel (sub_of hc rfl) (fun y1 hf0 => ?_) ?_
  · refine Rel.ite ?_ ?_
    · refine stkIgnored_rel (sub_of hc rfl) ?_
      exact hf0
    · refine joinAccept_rel (sub_of hc rfl) ?_
      exact hf0
  · exact h

theorem joinAck_rel {ch : Nat} {s u : State} {x1 x2} (hc : 12993538 &&& ch = 12993538) (h : Rel ch s u) :
    Rel ch s (joinAck u x1 x2) := by
  unfold joinAck
  extract_lets -merge -underBinder v0 v1 v2 v3
  try clear_value v0
  try clear_value v1
  try clear_value v2
  try clear_value v3
  refine Rel.ite ?_ ?_
  · exact h
  · refine Rel.ite ?_ ?_
    · refine msgDrop_rel (sub_of hc rfl) ?_
      exact h
    · refine Rel.ite ?_ ?_
      · refine msgEv_rel (sub_of hc rfl) ?_
        refine msgDrop_rel (sub_of hc rfl) ?_
        exact h
      · refine Rel.ite ?_ ?_
        · refine msgEv_rel (sub_of hc rfl) ?_
          refine msgDrop_rel (sub_of hc rfl) ?_
          exact h
        · refine Rel.ite ?_ ?_
          · refine mgmtSend_rel (sub_of hc rfl) ?_
            refine msgEv_rel (sub_of hc rfl) ?_
            refine msgDrop_rel (sub_of hc rfl) ?_
            exact h
          · refine Rel.ite ?_ ?_
            · refine msgDrop_rel (sub_of hc rfl) ?_
              exact h
            · refine modPeer_rel (sub_of hc rfl) ?_
              exact h

theorem execMsgJoinAck_rel {ch : Nat} {s u t : State} {x0 x1} (hc : 12993538 &&& ch = 12993538) (h : Rel ch s u)
    (ht : execMsgJoinAck x0 x1 u = .next t) : Rel ch s t := by
  unfold execMsgJoinAck at ht
  refine Rel.unitOk ?_ ht
  refine joinAck_rel (sub_of hc rfl) ?_
  exact h

theorem blockTake_rel {ch : Nat} {s u : State} {x1 x2} (hc : 12862464 &&& ch = 12862464) (h : Rel ch s u) :
    Rel ch s (blockTake u x1 x2) := by
  unfold blockTake
  extract_lets -merge -underBinder v0 v1
  subst v0
  have hv1 : Rel ch s v1 := by
    subst v1
    refine Rel.modCtx (fun _ => rfl) (bit_of 10 hc rfl) ?_
    exact h
  try clear_value v1
  refine Rel.ite ?_ ?_
  · refine msgDrop_rel (sub_of hc rfl) ?_
    exact h
  · refine Rel.ite ?_ ?_
    · refine mgmtSend_rel (sub_of hc rfl) ?_
      exact h
    · refine Rel.ite ?_ ?_
      · refine Rel.modCtx (fun _ => by first | rfl | (split <;> rfl) | (dsimp only; split <;> rfl) | (unfold wake; split <;> rfl) | (simp only [regs_rest]; rfl) | (simp only [regs_rest])) (bit_of 10 hc rfl) ?_
        exact hv1
      · exact hv1

theorem execMsgBlock_rel {ch : Nat} {s u t : State} {x0 x1} (hc : 12993538 &&& ch = 12993538) (h : Rel ch s u)
    (ht : execMsgBlock x0 x1 u = .next t) : Rel ch s t := by
  unfold execMsgBlock at ht
  refine Rel.unitOk ?_ ht
  refine mgmtTake_rel (sub_of hc rfl) (fun y1 hf0 => ?_) ?_
  · refine blockTake_rel (sub_of hc rfl) ?_
    exact hf0
  · exact h

theorem execMsgResult_rel {ch : Nat} {s u t : State} {x0 x1} (hc : 12993538 &&& ch = 12993538) (h : Rel ch s u)
    (ht : execMsgResult x0 x1 u = .next t) : Rel ch s t := by
  unfold execMsgResult at ht
  refine Rel.unitOk ?_ ht
  refine mgmtTake_rel (sub_of hc rfl) (fun y1 hf0 => ?_) ?_
  · extract_lets -merge -underBinder v2 v3 v4
    try clear_value v2
    have hv3 : Rel ch s v3 := by
      subst v3
      refine modPeer_rel (sub_of hc rfl) ?_
      exact hf0
    try clear_value v3
    try clear_value v4
    refine Rel.ite ?_ ?_
    · refine Rel.stk _ (bit_of 18 hc rfl) ?_
      exact hv3
    · exact hv3
  · exact h

theorem execMsgHeartbeat_rel {ch : Nat} {s u t : State} {x0 x1} (hc : 12993538 &&& ch = 12993538) (h : Rel ch s u)
    (ht : execMsgHeartbeat x0 x1 u = .next t) : Rel ch s t := by
  unfold execMsgHeartbeat at ht
  refine Rel.unitOk ?_ ht
  refine mgmtTake_rel (sub_of hc rfl) (fun y1 hf0 => ?_) ?_
  · extract_lets -merge -underBinder v2
    try clear_value v2
    refine Rel.stk _ (bit_of 18 hc rfl) ?_
    exact hf0
  · exact h

theorem execMsgTime_rel {ch : Nat} {s u t : State} {x0 x1} (hc : 12997634 &&& ch = 12997634) (h : Rel ch s u)
    (ht : execMsgTime x0 x1 u = .next t) : Rel ch s t := by
  unfold execMsgTime at ht
  refine Rel.unitOk ?_ ht
  refine mgmtTake_rel (sub_of hc rfl) (fun y1 hf0 => ?_) ?_
  · refine Rel.ite ?_ ?_
    · refine modTime_rel (sub_of hc rfl) ?_
      exact hf0
    · exact hf0
  · exact h

theorem readyTake_rel {ch : Nat} {s u : State} {x1 x2 x3} (hc : 12865536 &&& ch = 12865536) (h : Rel ch s u) :
    Rel ch s (readyTake u x1 x2 x3) := by
  unfold readyTake
  extract_lets -merge -underBinder v0 v1
  try clear_value v0
  have hv1 : Rel ch s v1 := by
    subst v1
    refine modPeer_rel (sub_of hc rfl) ?_
    exact h
  try clear_value v1
  refine Rel.ite ?_ ?_
  · refine modTake_rel (sub_of hc rfl) ?_
    refine Rel.forL (fun u2 x2 hf2 => ?_) ?_
    · refine mgmtSend_rel (sub_of hc rfl) ?_
      exact hf2
    · exact hv1
  · exact hv1

theorem execMsgTakeReady_rel {ch : Nat} {s u t : State} {x0 x1} (hc : 12997634 &&& ch = 12997634) (h : Rel ch s u)
    (ht : execMsgTakeReady x0 x1 u = .next t) : Rel ch s t := by
  unfold execMsgTakeReady at ht
  refine Rel.unitOk ?_ ht
  refine mgmtTake_rel (sub_of hc rfl) (fun y1 hf0 => ?_) ?_
  · refine readyTake_rel (sub_of hc rfl) ?_
    exact hf0
  · exact h

theorem execMsgTakeCommit_rel {ch : Nat} {s u t : State} {x0 x1} (hc : 12997634 &&& ch = 12997634) (h : Rel ch s u)
    (ht : execMsgTakeCommit x0 x1 u = .next t) : Rel ch s t := by
  unfold execMsgTakeCommit at ht
  refine Rel.unitOk ?_ ht
  refine mgmtTake_rel (sub_of hc rfl) (fun y1 hf0 => ?_) ?_
  · extract_lets -merge -underBinder v2
    try clear_value v2
    refine Rel.ite ?_ ?_
    · refine modTake_rel (sub_of hc rfl) ?_
      exact hf0
    · exact hf0
  · exact h

theorem execMsgTakeDone_rel {ch : Nat} {s u t : State} {x0 x1} (hc : 12993538 &&& ch = 12993538) (h : Rel ch s u)
    (ht : execMsgTakeDone x0 x1 u = .next t) : Rel ch s t := by
  unfold execMsgTakeDone at ht
  refine Rel.unitOk ?_ ht
  refine mgmtTake_rel (sub_of hc rfl) (fun y1 hf0 => ?_) ?_
  · extract_lets -merge -underBinder v2
    try clear_value v2
    refine modPeer_rel (sub_of hc rfl) ?_
    exact hf0
  · exact h

theorem execMsgTakeover_rel {ch : Nat} {s u t : State} {x0 x1} (hc : 12993538 &&& ch = 12993538) (h : Rel ch s u)
    (ht : execMsgTakeover x0 x1 u = .next t) : Rel ch s t := by
  unfold execMsgTakeover at ht
  refine Rel.unitOk ?_ ht
  refine mgmtTake_rel (sub_of hc rfl) (fun y1 hf0 => ?_) ?_
  · extract_lets -merge -underBinder v2 v3
    try clear_value v2
    try clear_value v3
    refine Rel.ite ?_ ?_
    · refine msgEv_rel (sub_of hc rfl) ?_
      refine Rel.stk _ (bit_of 18 hc rfl) ?_
      exact hf0
    · exact hf0
  · exact h

theorem viralTake_rel {ch : Nat} {s u : State} {x1 x2} (hc : 4588546 &&& ch = 4588546) (h : Rel ch s u) :
    Rel ch s (viralTake u x1 x2) := by
  unfold viralTake
  extract_lets -merge -underBinder v0
  try clear_value v0
  refine Rel.ite ?_ ?_
  · exact h
  · refine Rel.ite ?_ ?_
    · refine msgDrop_rel (sub_of hc rfl) ?_
      exact h
    · refine Rel.ite ?_ ?_
      · refine msgEv_rel (sub_of hc rfl) ?_
        refine msgDrop_rel (sub_of hc rfl) ?_
        exact h
      · split
        · refine stewEv_rel (sub_of hc rfl) ?_
          refine emit_rel (sub_of hc rfl) ?_
          exact h
        · exact h

theorem execMsgViral_rel {ch : Nat} {s u t : State} {x0 x1} (hc : 4588546 &&& ch = 4588546) (h : Rel ch s u)
    (ht : execMsgViral x0 x1 u = .next t) : Rel ch s t := by
  unfold execMsgViral at ht
  refine Rel.unitOk ?_ ht
  refine viralTake_rel (sub_of hc rfl) ?_
  exact h

theorem execMsgGateway_rel {ch : Nat} {s u t : State} {x0 x1} (hc : 409600 &&& ch = 409600) (h : Rel ch s u)
    (ht : execMsgGateway x0 x1 u = .next t) : Rel ch s t := by
  unfold execMsgGateway at ht
  refine Rel.unitOk ?_ ht
  extract_lets -merge -underBinder v0
  try clear_value v0
  refine Rel.ite ?_ ?_
  · exact h
  · refine Rel.ite ?_ ?_
    · refine msgDrop_rel (sub_of hc rfl) ?_
      exact h
    · refine Rel.ite ?_ ?_
      · refine modPort_rel (sub_of hc rfl) ?_
        exact h
      · refine gatewayFail_rel (sub_of hc rfl) ?_
        exact h

theorem execHeartbeatSend_rel {ch : Nat} {s u t : State} (hc : 12861440 &&& ch = 12861440) (h : Rel ch s u)
    (ht : execHeartbeatSend u = .next t) : Rel ch s t := by
  unfold execHeartbeatSend at ht
  refine Rel.unitOk ?_ ht
  refine Rel.ite ?_ ?_
  · refine Rel.forL (fun u0 x0 hf0 => ?_) ?_
    · refine mgmtSend_rel (sub_of hc rfl) ?_
      exact hf0
    · exact h
  · exact h

theorem execHeartbeatLoss_rel {ch : Nat} {s u t : State} (hc : 262144 &&& ch = 262144) (h : Rel ch s u)
    (ht : execHeartbeatLoss u = .next t) : Rel ch s t := by
  unfold execHeartbeatLoss at ht
  refine Rel.unitOk ?_ ht
  extract_lets -merge -underBinder v0
  try clear_value v0
  refine Rel.ite ?_ ?_
  · refine Rel.stk _ (bit_of 18 hc rfl) ?_
    exact h
  · exact h

theorem execTimeDistribution_rel {ch : Nat} {s u t : State} (hc : 12861440 &&& ch = 12861440) (h : Rel ch s u)
    (ht : execTimeDistribution u = .next t) : Rel ch s t := by
  unfold execTimeDistribution at ht
  refine Rel.unitOk ?_ ht
  extract_lets -merge -underBinder v0 v1
  try clear_value v0
  try clear_value v1
  refine Rel.ite ?_ ?_
  · refine Rel.forL (fun u2 x2 hf2 => ?_) ?_
    · refine mgmtSend_rel (sub_of hc rfl) ?_
      exact hf2
    · exact h
  · exact h

theorem sendJoin_rel {ch : Nat} {s u : State} {x1} (hc : 12861440 &&& ch = 12861440) (h : Rel ch s u) :
    Rel ch s (sendJoin u x1) := by
  unfold sendJoin
  extract_lets -merge -underBinder v0 v1 v2
  have hv0 : Rel ch s v0.2 := by
    subst v0
    refine freeW_rel (sub_of hc rfl) ?_
    exact h
  try clear_value v0
  have hv1 : Rel ch s v1.2 := by
    subst v1
    refine freeBelow_rel (sub_of hc rfl) ?_
    exact hv0
  try clear_value v1
  have hv2 : Rel ch s v2 := by
    subst v2
    refine modPeer_rel (sub_of hc rfl) ?_
    exact hv1
  try clear_value v2
  refine mgmtSend_rel (sub_of hc rfl) ?_
  exact hv2

theorem promote_rel {ch : Nat} {s u : State} (hc : 12861440 &&& ch = 12861440) (h : Rel ch s u) :
    Rel ch s (promote u) := by
  unfold promote
  extract_lets -merge -underBinder v0 v1 v2 v3
  try clear_value v0
  have hv1 : Rel ch s v1 := by
    subst v1
    refine Rel.stk _ (bit_of 18 hc rfl) ?_
    exact h
  try clear_value v1
  try clear_value v2
  have hv3 : Rel ch s v3 := by
    subst v3
    refine Rel.forL (fun u4 x4 hf4 => ?_) ?_
    · refine mgmtSend_rel (sub_of hc rfl) ?_
      exact hf4
    · exact hv1
  try clear_value v3
  refine Rel.ite ?_ ?_
  · exact h
  · refine Rel.forL (fun u5 x5 hf5 => ?_) ?_
    · refine sendJoin_rel (sub_of hc rfl) ?_
      exact hf5
    · exact hv3

theorem execPromoteWrite_rel {ch : Nat} {s u t : State} (hc : 12861440 &&& ch = 12861440) (h : Rel ch s u)
    (ht : execPromoteWrite u = .next t) : Rel ch s t := by
  unfold execPromoteWrite at ht
  refine Rel.unitOk ?_ ht
  refine promote_rel (sub_of hc rfl) ?_
  exact h

theorem stkDomWrite_rel {ch : Nat} {s u : State} {x1} (hc : 12861440 &&& ch = 12861440) (h : Rel ch s u) :
    Rel ch s (stkDomWrite u x1) := by
  unfold stkDomWrite
  extract_lets -merge -underBinder v0 v1 v2 v3 v4 v5
  try clear_value v0
  try clear_value v1
  try clear_value v2
  have hv3 : Rel ch s v3 := by
    subst v3
    refine Rel.stk _ (bit_of 18 hc rfl) ?_
    exact h
  try clear_value v3
  have hv4 : Rel ch s v4 := by
    subst v4
    refine Rel.ite ?_ ?_
    · refine promote_rel (sub_of hc rfl) ?_
      exact hv3
    · exact hv3
  try clear_value v4
  try clear_value v5
  refine Rel.ite ?_ ?_
  · refine Rel.stk _ (bit_of 18 hc rfl) ?_
    exact hv4
  · exact hv4

theorem msgEvWrite_rel {ch : Nat} {s u : State} {x1} (hc : 262144 &&& ch = 262144) (h : Rel ch s u) :
    Rel ch s (msgEvWrite u x1) := by
  unfold msgEvWrite
  extract_lets -merge -underBinder v0
  try clear_value v0
  refine Rel.stk _ (bit_of 18 hc rfl) ?_
  exact h

end Sys2Proof.Machine
end

