-- ==== Sys2Proof/Laws/RelIfl.lean ====
section
/-!
SUPPORT. What each operation of Ifl.lean can change, and that it keeps what every command keeps (Laws/Rel.lean).
-/

namespace Sys2Proof.Machine

theorem modIfl_rel {ch : Nat} {s u : State} {x1 x2} (hc : 16384 &&& ch = 16384) (h : Rel ch s u) :
    Rel ch s (modIfl u x1 x2) := by
  unfold modIfl
  refine modPort_rel (sub_of hc rfl) ?_
  exact h

theorem iflConsume_rel {ch : Nat} {s u : State} {x1} (hc : 16384 &&& ch = 16384) (h : Rel ch s u) :
    Rel ch s (iflConsume u x1) := by
  unfold iflConsume
  extract_lets -merge -underBinder v0
  try clear_value v0
  refine modIfl_rel (sub_of hc rfl) ?_
  exact h

theorem iflProto_rel {ch : Nat} {s u : State} {x1} (hc : 29842434 &&& ch = 29842434) (h : Rel ch s u) :
    Rel ch s (iflProto u x1) := by
  unfold iflProto
  refine Rel.ite ?_ ?_
  · exact h
  · refine resetPort_rel (sub_of hc rfl) ?_
    refine stewIf_rel (sub_of hc rfl) ?_
    refine modIfl_rel (sub_of hc rfl) ?_
    exact h

theorem iflDown_rel {ch : Nat} {s u : State} {x1} (hc : 29850626 &&& ch = 29850626) (h : Rel ch s u) :
    Rel ch s (iflDown u x1) := by
  unfold iflDown
  refine Rel.ite ?_ ?_
  · exact h
  · refine linkLost_rel (sub_of hc rfl) ?_
    exact h

theorem stackRecv_rel {ch : Nat} {s u : State} {x1 x2 x3} (hc : 29883650 &&& ch = 29883650) (h : Rel ch s u) :
    Rel ch s (stackRecv u x1 x2 x3) := by
  unfold stackRecv
  extract_lets -merge -underBinder v0 v1 v2
  have hv0 : Rel ch s v0 := by
    subst v0
    refine Rel.ite ?_ ?_
    · refine portCount_rel (sub_of hc rfl) ?_
      exact h
    · exact h
  try clear_value v0
  try clear_value v1
  have hv2 : Rel ch s v2 := by
    subst v2
    refine recvRsp_rel (sub_of hc rfl) ?_
    exact hv0
  try clear_value v2
  refine Rel.ite ?_ ?_
  · refine putPkts_rel (sub_of hc rfl) ?_
    exact hv2
  · split
    · refine recvMsg_rel (sub_of hc rfl) ?_
      exact hv0
    · refine recvReqK_rel (sub_of hc rfl) ?_
      exact hv0

theorem setCur_rel {ch : Nat} {s u : State} {x1 x2 x3} (hc : 16384 &&& ch = 16384) (h : Rel ch s u) :
    Rel ch s (setCur u x1 x2 x3) := by
  unfold setCur
  refine modIfl_rel (sub_of hc rfl) ?_
  exact h

theorem takeSlots_rel {ch : Nat} {s u : State} {x0 x1 x2 x4 x5} (hc : 29883650 &&& ch = 29883650) (h : Rel ch s u) :
    Rel ch s (takeSlots x0 x1 x2 u x4 x5).s := by
  unfold takeSlots
  split
  · try dsimp -zeta -zetaUnused only
    exact h
  · extract_lets -merge -underBinder v9 v10 v11 v12 v13 v14 v15 v16 v17 v18
    try clear_value v9
    try clear_value v10
    have hv11 : Rel ch s v11 := by
      subst v11
      refine Rel.ite ?_ ?_
      · exact h
      · refine recvCont_rel (sub_of hc rfl) ?_
        exact h
    try clear_value v11
    try clear_value v12
    try clear_value v13
    try clear_value v14
    try clear_value v15
    try clear_value v16
    try clear_value v17
    try clear_value v18
    split
    · try dsimp -zeta -zetaUnused only
      exact h
    · split
      · refine takeSlots_rel (sub_of hc rfl) ?_
        refine setCur_rel (sub_of hc rfl) ?_
        exact hv11
      · split
        · try dsimp -zeta -zetaUnused only
          exact h
        · split
          · try dsimp -zeta -zetaUnused only
            exact h
          · split
            · try dsimp -zeta -zetaUnused only
              exact h
            · split
              · try dsimp -zeta -zetaUnused only
                exact h
              · extract_lets -merge -underBinder v19 v20 v21 v22 v23 v24
                try clear_value v19
                try clear_value v20
                try clear_value v21
                have hv22 : Rel ch s v22 := by
                  subst v22
                  refine Rel.ite ?_ ?_
                  · exact h
                  · refine stackRecv_rel (sub_of hc rfl) ?_
                    exact h
                try clear_value v22
                try clear_value v23
                have hv24 : Rel ch s v24 := by
                  subst v24
                  refine setCur_rel (sub_of hc rfl) ?_
                  exact hv22
                try clear_value v24
                refine takeSlots_rel (sub_of hc rfl) ?_
                exact hv24

theorem takePayload_rel {ch : Nat} {s u : State} {x1 x2 x3} (hc : 29883650 &&& ch = 29883650) (h : Rel ch s u) :
    Rel ch s (takePayload u x1 x2 x3) := by
  unfold takePayload
  extract_lets -merge -underBinder v0 v1 v2 v3
  try clear_value v0
  try clear_value v1
  have hv2 : Rel ch s v2.s := by
    subst v2
    refine takeSlots_rel (sub_of hc rfl) ?_
    exact h
  try clear_value v2
  have hv3 : Rel ch s v3 := by
    subst v3
    refine modIfl_rel (sub_of hc rfl) ?_
    exact hv2
  try clear_value v3
  refine Rel.ite ?_ ?_
  · refine iflProto_rel (sub_of hc rfl) ?_
    exact h
  · refine Rel.ite ?_ ?_
    · exact hv3
    · refine modIfl_rel (sub_of hc rfl) ?_
      exact hv3

theorem takeSeq_rel {ch : Nat} {s u : State} {x1 x2 x3} (hc : 29883650 &&& ch = 29883650) (h : Rel ch s u) :
    Rel ch s (takeSeq u x1 x2 x3) := by
  unfold takeSeq
  extract_lets -merge -underBinder v0 v1 v2
  try clear_value v0
  try clear_value v1
  try clear_value v2
  refine Rel.ite ?_ ?_
  · refine Rel.ite ?_ ?_
    · refine iflProto_rel (sub_of hc rfl) ?_
      exact h
    · refine takePayload_rel (sub_of hc rfl) ?_
      refine modIfl_rel (sub_of hc rfl) ?_
      exact h
  · refine Rel.ite ?_ ?_
    · refine modIfl_rel (sub_of hc rfl) ?_
      exact h
    · refine modIfl_rel (sub_of hc rfl) ?_
      exact h

theorem leafFail_rel {ch : Nat} {s u : State} {x1} (hc : 147456 &&& ch = 147456) (h : Rel ch s u) :
    Rel ch s (leafFail u x1) := by
  unfold leafFail
  refine portCount_rel (sub_of hc rfl) ?_
  refine modIfl_rel (sub_of hc rfl) ?_
  exact h

theorem leafIn_rel {ch : Nat} {s u : State} {x0 x1 x2 f3} (hc : 29842434 &&& ch = 29842434) (hh3 : ∀ a0 a1, Rel ch s a0 → Rel ch s (f3 a0 a1)) (h : Rel ch s u) :
    Rel ch s (leafIn x0 x1 x2 f3 u) := by
  unfold leafIn
  extract_lets -merge -underBinder v0 v1 v2 v3
  try clear_value v0
  have hv1 : Rel ch s v1 := by
    subst v1
    refine portCount_rel (sub_of hc rfl) ?_
    refine portCount_rel (sub_of hc rfl) ?_
    exact h
  try clear_value v1
  have hv2 : Rel ch s v2 := by
    subst v2
    refine topDown_rel (sub_of hc rfl) ?_
    exact hv1
  try clear_value v2
  have hv3 : Rel ch s v3 := by
    subst v3
    refine iflConsume_rel (sub_of hc rfl) ?_
    exact hv2
  try clear_value v3
  refine Rel.ite ?_ ?_
  · exact h
  · refine Rel.ite ?_ ?_
    · refine leafFail_rel (sub_of hc rfl) ?_
      exact h
    · refine Rel.ite ?_ ?_
      · exact h
      · refine Rel.ite ?_ ?_
        · refine iflProto_rel (sub_of hc rfl) ?_
          exact hv3
        · refine hh3 _ _ ?_
          refine modIfl_rel (sub_of hc rfl) ?_
          exact hv3

theorem execLeafData_rel {ch : Nat} {s u t : State} {x0 x1} (hc : 29883650 &&& ch = 29883650) (h : Rel ch s u)
    (ht : execLeafData x0 x1 u = .next t) : Rel ch s t := by
  unfold execLeafData at ht
  refine Rel.unitOk ?_ ht
  refine leafIn_rel (sub_of hc rfl) (fun y1 y2 hf0 => ?_) ?_
  · refine takeSeq_rel (sub_of hc rfl) ?_
    exact hf0
  · exact h

theorem execLeafIdle_rel {ch : Nat} {s u t : State} {x0 x1} (hc : 29842434 &&& ch = 29842434) (h : Rel ch s u)
    (ht : execLeafIdle x0 x1 u = .next t) : Rel ch s t := by
  unfold execLeafIdle at ht
  refine Rel.unitOk ?_ ht
  refine leafIn_rel (sub_of hc rfl) (fun y1 y2 hf0 => ?_) ?_
  · exact hf0
  · exact h

theorem execLeafNak_rel {ch : Nat} {s u t : State} {x0 x1} (hc : 29842434 &&& ch = 29842434) (h : Rel ch s u)
    (ht : execLeafNak x0 x1 u = .next t) : Rel ch s t := by
  unfold execLeafNak at ht
  refine Rel.unitOk ?_ ht
  refine leafIn_rel (sub_of hc rfl) (fun y1 y2 hf0 => ?_) ?_
  · refine modIfl_rel (sub_of hc rfl) ?_
    exact hf0
  · exact h

theorem execLeafMgmt_rel {ch : Nat} {s u t : State} {x0 x1} (hc : 29883650 &&& ch = 29883650) (h : Rel ch s u)
    (ht : execLeafMgmt x0 x1 u = .next t) : Rel ch s t := by
  unfold execLeafMgmt at ht
  refine Rel.unitOk ?_ ht
  refine leafIn_rel (sub_of hc rfl) (fun y1 y2 hf0 => ?_) ?_
  · refine takeSeq_rel (sub_of hc rfl) ?_
    exact hf0
  · exact h

theorem iflActive_rel {ch : Nat} {s u : State} {x1} (hc : 16384 &&& ch = 16384) (h : Rel ch s u) :
    Rel ch s (iflActive u x1) := by
  unfold iflActive
  refine modPort_rel (sub_of hc rfl) ?_
  exact h

theorem initTake_rel {ch : Nat} {s u : State} {x1 x2} (hc : 16384 &&& ch = 16384) (h : Rel ch s u) :
    Rel ch s (initTake u x1 x2) := by
  unfold initTake
  extract_lets -merge -underBinder v0 v1 v2
  try clear_value v0
  try clear_value v1
  have hv2 : Rel ch s v2 := by
    subst v2
    refine modIfl_rel (sub_of hc rfl) ?_
    exact h
  try clear_value v2
  refine Rel.ite ?_ ?_
  · refine iflActive_rel (sub_of hc rfl) ?_
    exact hv2
  · exact hv2

theorem initFail_rel {ch : Nat} {s u : State} {x1} (hc : 4342786 &&& ch = 4342786) (h : Rel ch s u) :
    Rel ch s (initFail u x1) := by
  unfold initFail
  extract_lets -merge -underBinder v0
  have hv0 : Rel ch s v0 := by
    subst v0
    refine stewIf_rel (sub_of hc rfl) ?_
    refine modIfl_rel (sub_of hc rfl) ?_
    exact h
  try clear_value v0
  refine trainFail_rel (sub_of hc rfl) ?_
  exact hv0

theorem execLeafInit_rel {ch : Nat} {s u t : State} {x0 x1} (hc : 29850626 &&& ch = 29850626) (h : Rel ch s u)
    (ht : execLeafInit x0 x1 u = .next t) : Rel ch s t := by
  unfold execLeafInit at ht
  refine Rel.unitOk ?_ ht
  extract_lets -merge -underBinder v0 v1
  try clear_value v0
  try clear_value v1
  refine Rel.ite ?_ ?_
  · exact h
  · refine Rel.ite ?_ ?_
    · refine leafFail_rel (sub_of hc rfl) ?_
      exact h
    · refine Rel.ite ?_ ?_
      · exact h
      · refine Rel.ite ?_ ?_
        · refine iflDown_rel (sub_of hc rfl) ?_
          exact h
        · refine Rel.ite ?_ ?_
          · refine initTake_rel (sub_of hc rfl) ?_
            exact h
          · refine initFail_rel (sub_of hc rfl) ?_
            exact h

theorem execMalformedLeaf_rel {ch : Nat} {s u t : State} {x0 x1} (hc : 29842434 &&& ch = 29842434) (h : Rel ch s u)
    (ht : execMalformedLeaf x0 x1 u = .next t) : Rel ch s t := by
  unfold execMalformedLeaf at ht
  refine Rel.unitOk ?_ ht
  extract_lets -merge -underBinder v0
  try clear_value v0
  refine Rel.ite ?_ ?_
  · exact h
  · refine Rel.ite ?_ ?_
    · refine leafFail_rel (sub_of hc rfl) ?_
      exact h
    · refine Rel.ite ?_ ?_
      · refine iflProto_rel (sub_of hc rfl) ?_
        exact h
      · exact h

theorem execReplayTimerExpiry_rel {ch : Nat} {s u t : State} {x0} (hc : 16388 &&& ch = 16388) (h : Rel ch s u)
    (ht : execReplayTimerExpiry x0 u = .next t) : Rel ch s t := by
  unfold execReplayTimerExpiry at ht
  refine Rel.unitOk ?_ ht
  extract_lets -merge -underBinder v0 v1
  try clear_value v0
  have hv1 : Rel ch s v1 := by
    subst v1
    refine modIfl_rel (sub_of hc rfl) ?_
    exact h
  try clear_value v1
  refine Rel.ite ?_ ?_
  · exact h
  · refine Rel.ite ?_ ?_
    · refine enterRecovery_rel (sub_of hc rfl) ?_
      refine modIfl_rel (sub_of hc rfl) ?_
      exact hv1
    · refine modIfl_rel (sub_of hc rfl) ?_
      exact hv1

theorem execIflRecoveryExit_rel {ch : Nat} {s u t : State} {x0} (hc : 16384 &&& ch = 16384) (h : Rel ch s u)
    (ht : execIflRecoveryExit x0 u = .next t) : Rel ch s t := by
  unfold execIflRecoveryExit at ht
  refine Rel.unitOk ?_ ht
  extract_lets -merge -underBinder v0 v1
  try clear_value v0
  try clear_value v1
  refine Rel.ite ?_ ?_
  · exact h
  · refine modPort_rel (sub_of hc rfl) ?_
    exact h

theorem execIflLinkDownTimeout_rel {ch : Nat} {s u t : State} {x0} (hc : 29850626 &&& ch = 29850626) (h : Rel ch s u)
    (ht : execIflLinkDownTimeout x0 u = .next t) : Rel ch s t := by
  unfold execIflLinkDownTimeout at ht
  refine Rel.unitOk ?_ ht
  refine Rel.ite ?_ ?_
  · refine iflDown_rel (sub_of hc rfl) ?_
    exact h
  · exact h

end Sys2Proof.Machine
end

