-- ==== Sys2Proof/Laws/RelCsrRead.lean ====
section
/-!
SUPPORT. What each operation of CsrRead.lean can change, and that it keeps what every command keeps (Laws/Rel.lean).
-/

namespace Sys2Proof.Machine

theorem windowStandIn_rel {ch : Nat} {s u : State} {x1} (hc : 131072 &&& ch = 131072) (h : Rel ch s u) :
    Rel ch s (windowStandIn u x1) := by
  unfold windowStandIn
  extract_lets -merge -underBinder v0 v1 v2 v3
  try clear_value v0
  have hv1 : Rel ch s v1 := by
    subst v1
    refine quireCount_rel (sub_of hc rfl) ?_
    refine standCount_rel (sub_of hc rfl) ?_
    exact h
  try clear_value v1
  have hv2 : Rel ch s v2 := by
    subst v2
    refine logEvent_rel (sub_of hc rfl) ?_
    exact hv1
  try clear_value v2
  try clear_value v3
  refine Rel.ite ?_ ?_
  · exact hv1
  · refine Rel.cnt _ (bit_of 17 hc rfl) ?_
    exact hv2

theorem csrRead_rel {ch : Nat} {s u : State} {x1 x2} (hc : 2228224 &&& ch = 2228224) (h : Rel ch s u) :
    Rel ch s (csrRead u x1 x2).s := by
  unfold csrRead
  extract_lets -merge -underBinder v0
  try clear_value v0
  split
  · split
    · try dsimp -zeta -zetaUnused only
      refine windowStandIn_rel (sub_of hc rfl) ?_
      exact h
    · try dsimp -zeta -zetaUnused only
      exact h
  · split
    · try dsimp -zeta -zetaUnused only
      refine Rel.pairHi _ (bit_of 21 hc rfl) ?_
      exact h
    · split
      · split
        · try dsimp -zeta -zetaUnused only
          refine Rel.pairHi _ (bit_of 21 hc rfl) ?_
          exact h
        · try dsimp -zeta -zetaUnused only
          exact h
      · try dsimp -zeta -zetaUnused only
        exact h

end Sys2Proof.Machine
end

