-- ==== Sys2Proof/Laws/RelCsrWrite.lean ====
section
/-!
SUPPORT. What each operation of CsrWrite.lean can change, and that it keeps what every command keeps (Laws/Rel.lean).
-/

namespace Sys2Proof.Machine

theorem cntFreeze_rel {ch : Nat} {s u : State} (hc : 131072 &&& ch = 131072) (h : Rel ch s u) :
    Rel ch s (cntFreeze u) := by
  unfold cntFreeze
  extract_lets -merge -underBinder v0
  try clear_value v0
  refine Rel.ite ?_ ?_
  · exact h
  · refine Rel.cnt _ (bit_of 17 hc rfl) ?_
    exact h

theorem cntRelease_rel {ch : Nat} {s u : State} (hc : 131072 &&& ch = 131072) (h : Rel ch s u) :
    Rel ch s (cntRelease u) := by
  unfold cntRelease
  extract_lets -merge -underBinder v0
  try clear_value v0
  refine Rel.ite ?_ ?_
  · exact h
  · refine Rel.cnt _ (bit_of 17 hc rfl) ?_
    exact h

theorem execShadowCopyEnd_rel {ch : Nat} {s u t : State} (hc : 131072 &&& ch = 131072) (h : Rel ch s u)
    (ht : execShadowCopyEnd u = .next t) : Rel ch s t := by
  unfold execShadowCopyEnd at ht
  refine Rel.unitOk ?_ ht
  extract_lets -merge -underBinder v0 v1
  try clear_value v0
  have hv1 : Rel ch s v1 := by
    subst v1
    refine Rel.cnt _ (bit_of 17 hc rfl) ?_
    exact h
  try clear_value v1
  refine Rel.ite ?_ ?_
  · exact h
  · refine Rel.ite ?_ ?_
    · refine cntRelease_rel (sub_of hc rfl) ?_
      exact hv1
    · exact hv1

theorem execCounterFreezeWrite_rel {ch : Nat} {s u t : State} (hc : 131072 &&& ch = 131072) (h : Rel ch s u)
    (ht : execCounterFreezeWrite u = .next t) : Rel ch s t := by
  unfold execCounterFreezeWrite at ht
  refine Rel.unitOk ?_ ht
  refine cntFreeze_rel (sub_of hc rfl) ?_
  exact h

theorem execCounterReleaseWrite_rel {ch : Nat} {s u t : State} (hc : 131072 &&& ch = 131072) (h : Rel ch s u)
    (ht : execCounterReleaseWrite u = .next t) : Rel ch s t := by
  unfold execCounterReleaseWrite at ht
  refine Rel.unitOk ?_ ht
  refine cntRelease_rel (sub_of hc rfl) ?_
  exact h

theorem cntCtrlWrite_rel {ch : Nat} {s u : State} {x1} (hc : 131072 &&& ch = 131072) (h : Rel ch s u) :
    Rel ch s (cntCtrlWrite u x1) := by
  unfold cntCtrlWrite
  extract_lets -merge -underBinder v0 v1 v2
  try clear_value v0
  try clear_value v1
  have hv2 : Rel ch s v2 := by
    subst v2
    refine Rel.cnt _ (bit_of 17 hc rfl) ?_
    exact h
  try clear_value v2
  refine Rel.ite ?_ ?_
  · refine Rel.ite ?_ ?_
    · refine cntRelease_rel (sub_of hc rfl) ?_
      exact hv2
    · exact hv2
  · refine Rel.ite ?_ ?_
    · refine cntFreeze_rel (sub_of hc rfl) ?_
      exact hv2
    · exact hv2

theorem selSet_rel {ch : Nat} {s u : State} {x1 x2} (hc : 131072 &&& ch = 131072) (h : Rel ch s u) :
    Rel ch s (selSet u x1 x2) := by
  unfold selSet
  extract_lets -merge -underBinder v0
  try clear_value v0
  refine Rel.cnt _ (bit_of 17 hc rfl) ?_
  exact h

theorem selWrite_rel {ch : Nat} {s u : State} {x1 x2} (hc : 131072 &&& ch = 131072) (h : Rel ch s u) :
    Rel ch s (selWrite u x1 x2) := by
  unfold selWrite
  refine Rel.ite ?_ ?_
  · refine selSet_rel (sub_of hc rfl) ?_
    exact h
  · refine logAt_rel (sub_of hc rfl) ?_
    exact h

theorem execSelectorWrite_rel {ch : Nat} {s u t : State} {x0 x1} (hc : 131072 &&& ch = 131072) (h : Rel ch s u)
    (ht : execSelectorWrite x0 x1 u = .next t) : Rel ch s t := by
  unfold execSelectorWrite at ht
  refine Rel.unitOk ?_ ht
  refine selWrite_rel (sub_of hc rfl) ?_
  exact h

theorem logSelWrite_rel {ch : Nat} {s u : State} {x1} (hc : 131072 &&& ch = 131072) (h : Rel ch s u) :
    Rel ch s (logSelWrite u x1) := by
  unfold logSelWrite
  extract_lets -merge -underBinder v0 v1 v2 v3
  try clear_value v0
  try clear_value v1
  have hv2 : Rel ch s v2 := by
    subst v2
    refine Rel.cnt _ (bit_of 17 hc rfl) ?_
    exact h
  try clear_value v2
  try clear_value v3
  refine Rel.ite ?_ ?_
  · refine Rel.cnt _ (bit_of 17 hc rfl) ?_
    exact hv2
  · exact hv2

theorem execUnitLogClear_rel {ch : Nat} {s u t : State} {x0} (hc : 131072 &&& ch = 131072) (h : Rel ch s u)
    (ht : execUnitLogClear x0 u = .next t) : Rel ch s t := by
  unfold execUnitLogClear at ht
  refine Rel.unitOk ?_ ht
  refine Rel.ite ?_ ?_
  · refine logSelWrite_rel (sub_of hc rfl) ?_
    exact h
  · exact h

theorem histSelWrite_rel {ch : Nat} {s u : State} {x1} (hc : 8 &&& ch = 8) (h : Rel ch s u) :
    Rel ch s (histSelWrite u x1) := by
  unfold histSelWrite
  extract_lets -merge -underBinder v0
  try clear_value v0
  refine Rel.pace _ (bit_of 3 hc rfl) ?_
  exact h

theorem execHistSelectWrite_rel {ch : Nat} {s u t : State} {x0} (hc : 8 &&& ch = 8) (h : Rel ch s u)
    (ht : execHistSelectWrite x0 u = .next t) : Rel ch s t := by
  unfold execHistSelectWrite at ht
  refine Rel.unitOk ?_ ht
  refine histSelWrite_rel (sub_of hc rfl) ?_
  exact h

theorem rgrpSelWrite_rel {ch : Nat} {s u : State} {x1} (hc : 65536 &&& ch = 65536) (h : Rel ch s u) :
    Rel ch s (rgrpSelWrite u x1) := by
  unfold rgrpSelWrite
  extract_lets -merge -underBinder v0
  try clear_value v0
  refine Rel.core _ (bit_of 16 hc rfl) ?_
  exact h

theorem execRgrpSelectWrite_rel {ch : Nat} {s u t : State} {x0} (hc : 65536 &&& ch = 65536) (h : Rel ch s u)
    (ht : execRgrpSelectWrite x0 u = .next t) : Rel ch s t := by
  unfold execRgrpSelectWrite at ht
  refine Rel.unitOk ?_ ht
  refine rgrpSelWrite_rel (sub_of hc rfl) ?_
  exact h

theorem ecmpSelWrite_rel {ch : Nat} {s u : State} {x1} (hc : 65536 &&& ch = 65536) (h : Rel ch s u) :
    Rel ch s (ecmpSelWrite u x1) := by
  unfold ecmpSelWrite
  extract_lets -merge -underBinder v0
  try clear_value v0
  refine Rel.core _ (bit_of 16 hc rfl) ?_
  exact h

theorem execEcmpSelectWrite_rel {ch : Nat} {s u t : State} {x0} (hc : 65536 &&& ch = 65536) (h : Rel ch s u)
    (ht : execEcmpSelectWrite x0 u = .next t) : Rel ch s t := by
  unfold execEcmpSelectWrite at ht
  refine Rel.unitOk ?_ ht
  refine ecmpSelWrite_rel (sub_of hc rfl) ?_
  exact h

theorem meterSelWrite_rel {ch : Nat} {s u : State} {x1 x2} (hc : 32768 &&& ch = 32768) (h : Rel ch s u) :
    Rel ch s (meterSelWrite u x1 x2) := by
  unfold meterSelWrite
  refine modQuire_rel (sub_of hc rfl) ?_
  exact h

theorem execMeterSelectWrite_rel {ch : Nat} {s u t : State} {x0 x1} (hc : 32768 &&& ch = 32768) (h : Rel ch s u)
    (ht : execMeterSelectWrite x0 x1 u = .next t) : Rel ch s t := by
  unfold execMeterSelectWrite at ht
  refine Rel.unitOk ?_ ht
  refine meterSelWrite_rel (sub_of hc rfl) ?_
  exact h

theorem lockWrite_rel {ch : Nat} {s u : State} {x1} (hc : 1 &&& ch = 1) (h : Rel ch s u) :
    Rel ch s (lockWrite u x1) := by
  unfold lockWrite
  extract_lets -merge -underBinder v0
  subst v0
  refine Rel.glb _ ⟨rfl, rfl, rfl, rfl, rfl, rfl⟩ (bit_of 0 hc rfl) ?_
  exact h

theorem execGlbLockWrite_rel {ch : Nat} {s u t : State} {x0} (hc : 1 &&& ch = 1) (h : Rel ch s u)
    (ht : execGlbLockWrite x0 u = .next t) : Rel ch s t := by
  unfold execGlbLockWrite at ht
  refine Rel.unitOk ?_ ht
  refine lockWrite_rel (sub_of hc rfl) ?_
  exact h

theorem peakClear_rel {ch : Nat} {s u : State} (hc : 65536 &&& ch = 65536) (h : Rel ch s u) :
    Rel ch s (peakClear u) := by
  unfold peakClear
  extract_lets -merge -underBinder v0
  try clear_value v0
  refine Rel.core _ (bit_of 16 hc rfl) ?_
  exact h

theorem execBufPeakClear_rel {ch : Nat} {s u t : State} (hc : 65536 &&& ch = 65536) (h : Rel ch s u)
    (ht : execBufPeakClear u = .next t) : Rel ch s t := by
  unfold execBufPeakClear at ht
  refine Rel.unitOk ?_ ht
  refine peakClear_rel (sub_of hc rfl) ?_
  exact h

theorem histClear_rel {ch : Nat} {s u : State} {x1} (hc : 65536 &&& ch = 65536) (h : Rel ch s u) :
    Rel ch s (histClear u x1) := by
  unfold histClear
  refine Rel.forL (fun u0 x0 hf0 => ?_) ?_
  · refine modQ_rel (sub_of hc rfl) ?_
    exact hf0
  · exact h

theorem execHistClear_rel {ch : Nat} {s u t : State} {x0} (hc : 65536 &&& ch = 65536) (h : Rel ch s u)
    (ht : execHistClear x0 u = .next t) : Rel ch s t := by
  unfold execHistClear at ht
  refine Rel.unitOk ?_ ht
  refine histClear_rel (sub_of hc rfl) ?_
  exact h

theorem dbgWrite_rel {ch : Nat} {s u : State} {x1} (hc : 1 &&& ch = 1) (h : Rel ch s u) :
    Rel ch s (dbgWrite u x1) := by
  unfold dbgWrite
  extract_lets -merge -underBinder v0
  subst v0
  refine Rel.glb _ ⟨rfl, rfl, rfl, rfl, rfl, rfl⟩ (bit_of 0 hc rfl) ?_
  exact h

theorem cmdCtrlWrite_rel {ch : Nat} {s u : State} {x1} (hc : 4326402 &&& ch = 4326402) (h : Rel ch s u) :
    Rel ch s (cmdCtrlWrite u x1) := by
  unfold cmdCtrlWrite
  extract_lets -merge -underBinder v0 v1
  try clear_value v0
  have hv1 : Rel ch s v1 := by
    subst v1
    refine failoverNow_rel (sub_of hc rfl) ?_
    refine Rel.cmd _ (bit_of 1 hc rfl) ?_
    exact h
  try clear_value v1
  refine Rel.ite ?_ ?_
  · refine handover_rel (sub_of hc rfl) ?_
    exact hv1
  · exact hv1

theorem bootCtrlWrite_rel {ch : Nat} {s u : State} {x1} (hc : 1 &&& ch = 1) (h : Rel ch s u) :
    Rel ch s (bootCtrlWrite u x1) := by
  unfold bootCtrlWrite
  extract_lets -merge -underBinder v0 v1
  subst v0
  have hv1 : Rel ch s v1 := by
    subst v1
    refine Rel.glb _ ⟨rfl, rfl, rfl, rfl, rfl, rfl⟩ (bit_of 0 hc rfl) ?_
    exact h
  try clear_value v1
  refine Rel.ite ?_ ?_
  · refine bootGo_rel (sub_of hc rfl) ?_
    exact hv1
  · exact hv1

theorem glbWrite_rel {ch : Nat} {s u : State} {x1 x2} (hc : 4377731 &&& ch = 4377731) (h : Rel ch s u) :
    Rel ch s (glbWrite u x1 x2) := by
  unfold glbWrite
  extract_lets -merge -underBinder v0
  subst v0
  split
  · refine Rel.ite ?_ ?_
    · refine logAt_rel (sub_of hc rfl) ?_
      exact h
    · refine Rel.glb _ ⟨rfl, rfl, rfl, rfl, rfl, rfl⟩ (bit_of 0 hc rfl) ?_
      exact h
  · refine lockWrite_rel (sub_of hc rfl) ?_
    exact h
  · refine Rel.glb _ ⟨rfl, rfl, rfl, rfl, rfl, rfl⟩ (bit_of 0 hc rfl) ?_
    exact h
  · refine dbgWrite_rel (sub_of hc rfl) ?_
    exact h
  · refine bootCtrlWrite_rel (sub_of hc rfl) ?_
    exact h
  · refine cmdCtrlWrite_rel (sub_of hc rfl) ?_
    exact h
  · extract_lets -merge -underBinder v1
    try clear_value v1
    refine Rel.cmd _ (bit_of 1 hc rfl) ?_
    exact h
  · refine Rel.ite ?_ ?_
    · refine holdWrite_rel (sub_of hc rfl) ?_
      exact h
    · exact h

theorem linkWrite_rel {ch : Nat} {s u : State} {x1 x2 x3} (hc : 2 &&& ch = 2) (h : Rel ch s u) :
    Rel ch s (linkWrite u x1 x2 x3) := by
  unfold linkWrite
  refine Rel.ite ?_ ?_
  · exact h
  · refine modLink_rel (sub_of hc rfl) ?_
    exact h

theorem pwrWrite_rel {ch : Nat} {s u : State} {x1 x2} (hc : 4 &&& ch = 4) (h : Rel ch s u) :
    Rel ch s (pwrWrite u x1 x2) := by
  unfold pwrWrite
  extract_lets -merge -underBinder v0
  try clear_value v0
  split
  · refine Rel.pwr _ (bit_of 2 hc rfl) ?_
    exact h
  · refine Rel.pwr _ (bit_of 2 hc rfl) ?_
    exact h
  · refine Rel.pwr _ (bit_of 2 hc rfl) ?_
    exact h
  · refine paceTargetWrite_rel (sub_of hc rfl) ?_
    exact h
  · refine Rel.ite ?_ ?_
    · refine Rel.pwr _ (bit_of 2 hc rfl) ?_
      exact h
    · exact h

theorem slotWrite_rel {ch : Nat} {s u : State} {x1 x2 x3} (hc : 131088 &&& ch = 131088) (h : Rel ch s u) :
    Rel ch s (slotWrite u x1 x2 x3) := by
  unfold slotWrite
  extract_lets -merge -underBinder v0 v1
  try clear_value v0
  have hv1 : Rel ch s v1 := by
    subst v1
    refine logEvent_rel (sub_of hc rfl) ?_
    exact h
  try clear_value v1
  split
  · refine modSlot_rel (sub_of hc rfl) ?_
    exact h
  · refine Rel.ite ?_ ?_
    · exact hv1
    · refine modSlot_rel (sub_of hc rfl) ?_
      exact h
  · refine Rel.ite ?_ ?_
    · exact hv1
    · refine modSlot_rel (sub_of hc rfl) ?_
      exact h
  · refine Rel.ite ?_ ?_
    · exact hv1
    · refine modSlot_rel (sub_of hc rfl) ?_
      exact h
  · refine modSlot_rel (sub_of hc rfl) ?_
    exact h
  · exact h

theorem chanWrite_rel {ch : Nat} {s u : State} {x1 x2 x3} (hc : 524416 &&& ch = 524416) (h : Rel ch s u) :
    Rel ch s (chanWrite u x1 x2 x3) := by
  unfold chanWrite
  split
  · refine chanCtrlWrite_rel (sub_of hc rfl) ?_
    exact h
  · refine modChan_rel (sub_of hc rfl) ?_
    exact h
  · extract_lets -merge -underBinder v0
    have hv0 : Rel ch s v0 := by
      subst v0
      refine Rel.ite ?_ ?_
      · refine ceClear_rel (sub_of hc rfl) ?_
        exact h
      · exact h
    try clear_value v0
    refine Rel.ite ?_ ?_
    · refine ueClear_rel (sub_of hc rfl) ?_
      exact hv0
    · exact hv0
  · refine modChan_rel (sub_of hc rfl) ?_
    exact h
  · refine modChan_rel (sub_of hc rfl) ?_
    exact h
  · refine modChan_rel (sub_of hc rfl) ?_
    exact h
  · exact h

theorem poolWrite_rel {ch : Nat} {s u : State} {x1 x2} (hc : 524416 &&& ch = 524416) (h : Rel ch s u) :
    Rel ch s (poolWrite u x1 x2) := by
  unfold poolWrite
  refine Rel.ite ?_ ?_
  · refine poolCtrlWrite_rel (sub_of hc rfl) ?_
    exact h
  · refine Rel.ite ?_ ?_
    · refine grpWrite_rel (sub_of hc rfl) ?_
      exact h
    · refine Rel.ite ?_ ?_
      · refine shtSelWrite_rel (sub_of hc rfl) ?_
        exact h
      · refine Rel.ite ?_ ?_
        · refine chanWrite_rel (sub_of hc rfl) ?_
          exact h
        · exact h

theorem dirWrite_rel {ch : Nat} {s u : State} {x1 x2} (hc : 256 &&& ch = 256) (h : Rel ch s u) :
    Rel ch s (dirWrite u x1 x2) := by
  unfold dirWrite
  extract_lets -merge -underBinder v0
  try clear_value v0
  split
  · refine Rel.ite ?_ ?_
    · refine trackerClear_rel (sub_of hc rfl) ?_
      exact h
    · exact h
  · refine Rel.home _ (bit_of 8 hc rfl) ?_
    exact h
  · extract_lets -merge -underBinder v1
    have hv1 : Rel ch s v1 := by
      subst v1
      refine Rel.home _ (bit_of 8 hc rfl) ?_
      exact h
    try clear_value v1
    refine Rel.ite ?_ ?_
    · refine dirClear_rel (sub_of hc rfl) ?_
      exact hv1
    · exact hv1
  · exact h

theorem dklWrite_rel {ch : Nat} {s u : State} {x1 x2} (hc : 512 &&& ch = 512) (h : Rel ch s u) :
    Rel ch s (dklWrite u x1 x2) := by
  unfold dklWrite
  extract_lets -merge -underBinder v0
  subst v0
  split
  · refine Rel.dkl _ rfl (bit_of 9 hc rfl) ?_
    exact h
  · refine Rel.dkl _ rfl (bit_of 9 hc rfl) ?_
    exact h
  · extract_lets -merge -underBinder v1
    have hv1 : Rel ch s v1 := by
      subst v1
      refine Rel.dkl _ rfl (bit_of 9 hc rfl) ?_
      exact h
    try clear_value v1
    refine Rel.ite ?_ ?_
    · refine dklClear_rel (sub_of hc rfl) ?_
      exact hv1
    · exact hv1
  · exact h

theorem outWrite_rel {ch : Nat} {s u : State} {x1 x2 x3} (hc : 65536 &&& ch = 65536) (h : Rel ch s u) :
    Rel ch s (outWrite u x1 x2 x3) := by
  unfold outWrite
  split
  · refine modOutP_rel (sub_of hc rfl) ?_
    exact h
  · extract_lets -merge -underBinder v0
    have hv0 : Rel ch s v0 := by
      subst v0
      refine modOutP_rel (sub_of hc rfl) ?_
      exact h
    try clear_value v0
    refine Rel.ite ?_ ?_
    · refine histClear_rel (sub_of hc rfl) ?_
      exact hv0
    · exact hv0
  · refine modOutP_rel (sub_of hc rfl) ?_
    exact h
  · exact h

theorem coreWrite_rel {ch : Nat} {s u : State} {x1 x2} (hc : 196616 &&& ch = 196616) (h : Rel ch s u) :
    Rel ch s (coreWrite u x1 x2) := by
  unfold coreWrite
  extract_lets -merge -underBinder v0
  try clear_value v0
  split
  · refine paceCtrlWrite_rel (sub_of hc rfl) ?_
    exact h
  · refine histSelWrite_rel (sub_of hc rfl) ?_
    exact h
  · refine Rel.core _ (bit_of 16 hc rfl) ?_
    exact h
  · refine Rel.core _ (bit_of 16 hc rfl) ?_
    exact h
  · refine Rel.ite ?_ ?_
    · refine peakClear_rel (sub_of hc rfl) ?_
      exact h
    · exact h
  · refine Rel.core _ (bit_of 16 hc rfl) ?_
    exact h
  · refine Rel.core _ (bit_of 16 hc rfl) ?_
    exact h
  · refine rgrpSelWrite_rel (sub_of hc rfl) ?_
    exact h
  · refine ecmpSelWrite_rel (sub_of hc rfl) ?_
    exact h
  · refine Rel.ite ?_ ?_
    · refine Rel.core _ (bit_of 16 hc rfl) ?_
      exact h
    · refine Rel.ite ?_ ?_
      · refine outWrite_rel (sub_of hc rfl) ?_
        exact h
      · exact h

theorem ringCfgWrite_rel {ch : Nat} {s u : State} {x1 x2 x3 x4 x5} (hc : 537003008 &&& ch = 537003008) (h : Rel ch s u) :
    Rel ch s (ringCfgWrite u x1 x2 x3 x4 x5) := by
  unfold ringCfgWrite
  extract_lets -merge -underBinder v0 v1 v2
  try clear_value v0
  try clear_value v1
  have hv2 : Rel ch s v2 := by
    subst v2
    refine Rel.ite ?_ ?_
    · refine logEvent_rel (sub_of hc rfl) ?_
      exact h
    · exact h
  try clear_value v2
  refine Rel.modCtx' (bit_of 10 hc rfl) (bit_of 29 hc rfl) ?_
  exact hv2

theorem ctxWrite_rel {ch : Nat} {s u : State} {x1 x2 x3} (hc : 537003008 &&& ch = 537003008) (h : Rel ch s u) :
    Rel ch s (ctxWrite u x1 x2 x3) := by
  unfold ctxWrite
  extract_lets -merge -underBinder v0
  subst v0
  split
  · extract_lets -merge -underBinder v1
    have hv1 : Rel ch s v1 := by
      subst v1
      refine Rel.modCtx (fun _ => rfl) (bit_of 10 hc rfl) ?_
      exact h
    try clear_value v1
    refine Rel.ite ?_ ?_
    · refine haltCtx_rel (sub_of hc rfl) ?_
      exact hv1
    · exact hv1
  · refine Rel.ite ?_ ?_
    · refine logEvent_rel (sub_of hc rfl) ?_
      exact h
    · refine Rel.modCtx (fun _ => rfl) (bit_of 10 hc rfl) ?_
      exact h
  · refine Rel.modCtx (fun _ => rfl) (bit_of 10 hc rfl) ?_
    exact h
  · refine ringCfgWrite_rel (sub_of hc rfl) ?_
    exact h
  · refine ringCfgWrite_rel (sub_of hc rfl) ?_
    exact h
  · refine ringCfgWrite_rel (sub_of hc rfl) ?_
    exact h
  · refine ringCfgWrite_rel (sub_of hc rfl) ?_
    exact h
  · refine ringCfgWrite_rel (sub_of hc rfl) ?_
    exact h
  · refine Rel.modCtx (fun _ => rfl) (bit_of 10 hc rfl) ?_
    exact h
  · refine Rel.modCtx (fun _ => rfl) (bit_of 10 hc rfl) ?_
    exact h
  · exact h

theorem kdataWrite_rel {ch : Nat} {s u : State} {x1 x2} (hc : 537003008 &&& ch = 537003008) (h : Rel ch s u) :
    Rel ch s (kdataWrite u x1 x2) := by
  unfold kdataWrite
  extract_lets -merge -underBinder v0
  subst v0
  refine Rel.ite ?_ ?_
  · refine logEvent_rel (sub_of hc rfl) ?_
    exact h
  · refine Rel.modCtx' (bit_of 10 hc rfl) (bit_of 29 hc rfl) ?_
    exact h

theorem execContextRegisterWrite_rel {ch : Nat} {s u t : State} {x0 x1} (hc : 537003008 &&& ch = 537003008) (h : Rel ch s u)
    (ht : execContextRegisterWrite x0 x1 u = .next t) : Rel ch s t := by
  unfold execContextRegisterWrite at ht
  refine Rel.unitOk ?_ ht
  refine kdataWrite_rel (sub_of hc rfl) ?_
  exact h

theorem ringBaseWrite_rel {ch : Nat} {s u : State} {x1 x2 x3} (hc : 132096 &&& ch = 132096) (h : Rel ch s u) :
    Rel ch s (ringBaseWrite u x1 x2 x3) := by
  unfold ringBaseWrite
  refine Rel.ite ?_ ?_
  · refine logEvent_rel (sub_of hc rfl) ?_
    exact h
  · refine Rel.modCtx (fun _ => by first | rfl | (split <;> rfl) | (dsimp only; split <;> rfl) | (unfold wake; split <;> rfl) | (simp only [regs_rest]; rfl) | (simp only [regs_rest])) (bit_of 10 hc rfl) ?_
    exact h

theorem ctxPairWrite_rel {ch : Nat} {s u : State} {x1 x2 x3} (hc : 537003008 &&& ch = 537003008) (h : Rel ch s u) :
    Rel ch s (ctxPairWrite u x1 x2 x3) := by
  unfold ctxPairWrite
  split
  · refine kdataWrite_rel (sub_of hc rfl) ?_
    exact h
  · refine ringBaseWrite_rel (sub_of hc rfl) ?_
    exact h
  · refine ringBaseWrite_rel (sub_of hc rfl) ?_
    exact h
  · refine ringBaseWrite_rel (sub_of hc rfl) ?_
    exact h
  · refine ringBaseWrite_rel (sub_of hc rfl) ?_
    exact h
  · refine Rel.ite ?_ ?_
    · refine logEvent_rel (sub_of hc rfl) ?_
      exact h
    · refine Rel.modCtx (fun _ => rfl) (bit_of 10 hc rfl) ?_
      exact h
  · refine Rel.modCtx (fun _ => rfl) (bit_of 10 hc rfl) ?_
    exact h
  · exact h

theorem refWrite_rel {ch : Nat} {s u : State} {x1 x2 x3} (hc : 135168 &&& ch = 135168) (h : Rel ch s u) :
    Rel ch s (refWrite u x1 x2 x3) := by
  unfold refWrite
  split
  · refine refCfgWrite_rel (sub_of hc rfl) ?_
    exact h
  · refine modRef_rel (sub_of hc rfl) ?_
    exact h
  · exact h

theorem foutWrite_rel {ch : Nat} {s u : State} {x1 x2 x3} (hc : 4096 &&& ch = 4096) (h : Rel ch s u) :
    Rel ch s (foutWrite u x1 x2 x3) := by
  unfold foutWrite
  refine Rel.ite ?_ ?_
  · refine modOut_rel (sub_of hc rfl) ?_
    exact h
  · refine Rel.ite ?_ ?_
    · refine modOut_rel (sub_of hc rfl) ?_
      exact h
    · exact h

theorem takeCtrlWrite_rel {ch : Nat} {s u : State} {x1 x2} (hc : 4096 &&& ch = 4096) (h : Rel ch s u) :
    Rel ch s (takeCtrlWrite u x1 x2) := by
  unfold takeCtrlWrite
  refine modTake_rel (sub_of hc rfl) ?_
  exact h

theorem timeWrite_rel {ch : Nat} {s u : State} {x1 x2} (hc : 969408386 &&& ch = 969408386) (h : Rel ch s u) :
    Rel ch s (timeWrite u x1 x2) := by
  unfold timeWrite
  split
  · refine timeCtrlWrite_rel (sub_of hc rfl) ?_
    exact h
  · refine modTime_rel (sub_of hc rfl) ?_
    exact h
  · refine timeAdjWrite_rel (sub_of hc rfl) ?_
    exact h
  · refine modTime_rel (sub_of hc rfl) ?_
    exact h
  · refine Rel.ite ?_ ?_
    · refine refWrite_rel (sub_of hc rfl) ?_
      exact h
    · refine Rel.ite ?_ ?_
      · refine foutWrite_rel (sub_of hc rfl) ?_
        exact h
      · refine Rel.ite ?_ ?_
        · refine takeCtrlWrite_rel (sub_of hc rfl) ?_
          exact h
        · exact h

theorem cntWrite_rel {ch : Nat} {s u : State} {x1 x2} (hc : 131072 &&& ch = 131072) (h : Rel ch s u) :
    Rel ch s (cntWrite u x1 x2) := by
  unfold cntWrite
  split
  · refine cntCtrlWrite_rel (sub_of hc rfl) ?_
    exact h
  · refine logSelWrite_rel (sub_of hc rfl) ?_
    exact h
  · exact h

theorem stkWrite_rel {ch : Nat} {s u : State} {x1 x2} (hc : 12992512 &&& ch = 12992512) (h : Rel ch s u) :
    Rel ch s (stkWrite u x1 x2) := by
  unfold stkWrite
  split
  · refine stkModeWrite_rel (sub_of hc rfl) ?_
    exact h
  · refine stkDomWrite_rel (sub_of hc rfl) ?_
    exact h
  · extract_lets -merge -underBinder v0
    try clear_value v0
    refine Rel.stk _ (bit_of 18 hc rfl) ?_
    exact h
  · extract_lets -merge -underBinder v1
    try clear_value v1
    refine Rel.ite ?_ ?_
    · refine Rel.stk _ (bit_of 18 hc rfl) ?_
      exact h
    · exact h
  · refine msgEvWrite_rel (sub_of hc rfl) ?_
    exact h
  · refine Rel.ite ?_ ?_
    · refine keyWrite_rel (sub_of hc rfl) ?_
      exact h
    · refine Rel.ite ?_ ?_
      · refine proxyWrite_rel (sub_of hc rfl) ?_
        exact h
      · exact h

theorem gwWrite_rel {ch : Nat} {s u : State} {x1 x2} (hc : 16384 &&& ch = 16384) (h : Rel ch s u) :
    Rel ch s (gwWrite u x1 x2) := by
  unfold gwWrite
  refine Rel.ite ?_ ?_
  · exact h
  · refine modPort_rel (sub_of hc rfl) ?_
    exact h

theorem portWrite_rel {ch : Nat} {s u : State} {x1 x2 x3} (hc : 745477 &&& ch = 745477) (h : Rel ch s u) :
    Rel ch s (portWrite u x1 x2 x3) := by
  unfold portWrite
  refine Rel.ite ?_ ?_
  · exact h
  · split
    · refine portCfgWrite_rel (sub_of hc rfl) ?_
      exact h
    · refine portStatusWrite_rel (sub_of hc rfl) ?_
      exact h
    · refine portHpWrite_rel (sub_of hc rfl) ?_
      exact h
    · refine gwWrite_rel (sub_of hc rfl) ?_
      exact h
    · refine Rel.ite ?_ ?_
      · refine hpRefuse_rel (sub_of hc rfl) ?_
        exact h
      · exact h
    · refine patWrite_rel (sub_of hc rfl) ?_
      exact h
    · refine Rel.ite ?_ ?_
      · refine outWrite_rel (sub_of hc rfl) ?_
        exact h
      · refine Rel.ite ?_ ?_
        · refine modPort_rel (sub_of hc rfl) ?_
          exact h
        · refine Rel.ite ?_ ?_
          · refine modPort_rel (sub_of hc rfl) ?_
            exact h
          · exact h

theorem msixWrite_rel {ch : Nat} {s u : State} {x1 x2 x3} (hc : 4194306 &&& ch = 4194306) (h : Rel ch s u) :
    Rel ch s (msixWrite u x1 x2 x3) := by
  unfold msixWrite
  extract_lets -merge -underBinder v0 v1 v2 v3 v4 v5 v6
  try clear_value v0
  try clear_value v1
  try clear_value v2
  try clear_value v3
  have hv4 : Rel ch s v4 := by
    subst v4
    refine Rel.cmd _ (bit_of 1 hc rfl) ?_
    exact h
  try clear_value v4
  try clear_value v5
  try clear_value v6
  refine Rel.ite ?_ ?_
  · exact h
  · refine Rel.ite ?_ ?_
    · refine emit_rel (sub_of hc rfl) ?_
      refine Rel.cmd _ (bit_of 1 hc rfl) ?_
      exact hv4
    · exact hv4

theorem pairWrite_rel {ch : Nat} {s u : State} {x1 x2} (hc : 537269248 &&& ch = 537269248) (h : Rel ch s u) :
    Rel ch s (pairWrite u x1 x2) := by
  unfold pairWrite
  extract_lets -merge -underBinder v0
  try clear_value v0
  refine Rel.ite ?_ ?_
  · refine modTime_rel (sub_of hc rfl) ?_
    exact h
  · refine Rel.ite ?_ ?_
    · refine Rel.ite ?_ ?_
      · refine Rel.stk _ (bit_of 18 hc rfl) ?_
        exact h
      · exact h
    · refine Rel.ite ?_ ?_
      · refine selWrite_rel (sub_of hc rfl) ?_
        exact h
      · split
        · refine ctxPairWrite_rel (sub_of hc rfl) ?_
          exact h
        · exact h

theorem regWrite_rel {ch : Nat} {s u : State} {x1 x2 x3} (hc : 969932703 &&& ch = 969932703) (h : Rel ch s u) :
    Rel ch s (regWrite u x1 x2 x3) := by
  unfold regWrite
  split
  · refine Rel.ite ?_ ?_
    · refine linkWrite_rel (sub_of hc rfl) ?_
      exact h
    · refine glbWrite_rel (sub_of hc rfl) ?_
      exact h
  · refine Rel.ite ?_ ?_
    · refine slotWrite_rel (sub_of hc rfl) ?_
      exact h
    · refine pwrWrite_rel (sub_of hc rfl) ?_
      exact h
  · refine poolWrite_rel (sub_of hc rfl) ?_
    exact h
  · refine dirWrite_rel (sub_of hc rfl) ?_
    exact h
  · refine coreWrite_rel (sub_of hc rfl) ?_
    exact h
  · split
    · refine ctxWrite_rel (sub_of hc rfl) ?_
      exact h
    · exact h
  · extract_lets -merge -underBinder v0
    try clear_value v0
    refine Rel.ite ?_ ?_
    · refine Rel.mov _ (bit_of 11 hc rfl) ?_
      exact h
    · exact h
  · refine timeWrite_rel (sub_of hc rfl) ?_
    exact h
  · refine dklWrite_rel (sub_of hc rfl) ?_
    exact h
  · refine cntWrite_rel (sub_of hc rfl) ?_
    exact h
  · refine stkWrite_rel (sub_of hc rfl) ?_
    exact h
  · refine Rel.ite ?_ ?_
    · refine Rel.ite ?_ ?_
      · refine meterSelWrite_rel (sub_of hc rfl) ?_
        exact h
      · exact h
    · refine Rel.ite ?_ ?_
      · refine portWrite_rel (sub_of hc rfl) ?_
        exact h
      · refine Rel.ite ?_ ?_
        · refine Rel.ite ?_ ?_
          · refine modTen_rel (sub_of hc rfl) ?_
            exact h
          · exact h
        · refine Rel.ite ?_ ?_
          · refine msixWrite_rel (sub_of hc rfl) ?_
            exact h
          · exact h

theorem csrWrite_rel {ch : Nat} {s u : State} {x1 x2 x3} (hc : 970981279 &&& ch = 970981279) (h : Rel ch s u) :
    Rel ch s (csrWrite u x1 x2 x3) := by
  unfold csrWrite
  extract_lets -merge -underBinder v0
  try clear_value v0
  refine Rel.ite ?_ ?_
  · refine Rel.ite ?_ ?_
    · refine windowStandIn_rel (sub_of hc rfl) ?_
      exact h
    · exact h
  · refine Rel.ite ?_ ?_
    · refine logAt_rel (sub_of hc rfl) ?_
      exact h
    · refine Rel.ite ?_ ?_
      · refine logAt_rel (sub_of hc rfl) ?_
        exact h
      · refine Rel.ite ?_ ?_
        · refine logAt_rel (sub_of hc rfl) ?_
          exact h
        · refine Rel.ite ?_ ?_
          · refine logAt_rel (sub_of hc rfl) ?_
            exact h
          · split
            · refine Rel.pairLo _ (bit_of 20 hc rfl) ?_
              exact h
            · split
              · refine pairWrite_rel (sub_of hc rfl) ?_
                refine Rel.pairLo _ (bit_of 20 hc rfl) ?_
                exact h
              · refine regWrite_rel (sub_of hc rfl) ?_
                exact h

end Sys2Proof.Machine
end

