-- ==== Sys2Proof/Laws/RelBus.lean ====
section
/-!
SUPPORT. What each operation of Bus.lean can change, and that it keeps what every command keeps (Laws/Rel.lean).
-/

namespace Sys2Proof.Machine

theorem gateLog_rel {ch : Nat} {s u : State} {x1 x2 x3 x4 x5 x6} (hc : 4326914 &&& ch = 4326914) (h : Rel ch s u) :
    Rel ch s (gateLog u x1 x2 x3 x4 x5 x6) := by
  unfold gateLog
  refine dklRefuse_rel (sub_of hc rfl) ?_
  exact h

theorem standbyWrite_rel {ch : Nat} {s u : State} {x1 x2 x3} (hc : 4326402 &&& ch = 4326402) (h : Rel ch s u) :
    Rel ch s (standbyWrite u x1 x2 x3) := by
  unfold standbyWrite
  refine Rel.ite ?_ ?_
  · refine claim_rel (sub_of hc rfl) ?_
    exact h
  · refine linkLog_rel (sub_of hc rfl) ?_
    exact h

theorem busWrite_rel {ch : Nat} {s u : State} {x1 x2 x3} (hc : 970981279 &&& ch = 970981279) (h : Rel ch s u) :
    Rel ch s (busWrite u x1 x2 x3) := by
  unfold busWrite
  refine Rel.ite ?_ ?_
  · exact h
  · split
    · refine csrWrite_rel (sub_of hc rfl) ?_
      exact h
    · refine standbyWrite_rel (sub_of hc rfl) ?_
      exact h
    · refine gateLog_rel (sub_of hc rfl) ?_
      exact h
    · exact h

theorem busRead_rel {ch : Nat} {s u : State} {x1 x2} (hc : 6424066 &&& ch = 6424066) (h : Rel ch s u) :
    Rel ch s (busRead u x1 x2).2 := by
  unfold busRead
  split
  · extract_lets -merge -underBinder v0
    have hv0 : Rel ch s v0.s := by
      subst v0
      refine csrRead_rel (sub_of hc rfl) ?_
      exact h
    try clear_value v0
    first | refine Rel.mk_snd ?_ | skip
    exact hv0
  · first | refine Rel.mk_snd ?_ | skip
    exact h
  · first | refine Rel.mk_snd ?_ | skip
    refine gateLog_rel (sub_of hc rfl) ?_
    exact h
  · first | refine Rel.mk_snd ?_ | skip
    exact h

theorem execRegWriteGeneral_rel {ch : Nat} {s u t : State} {x0 x1 x2} (hc : 970981279 &&& ch = 970981279) (h : Rel ch s u)
    (ht : execRegWriteGeneral x0 x1 x2 u = .next t) : Rel ch s t := by
  unfold execRegWriteGeneral at ht
  refine Rel.unitOk ?_ ht
  refine busWrite_rel (sub_of hc rfl) ?_
  exact h

theorem execPairLowRead_rel {ch : Nat} {s u t : State} {x0 x1} (hc : 6424066 &&& ch = 6424066) (h : Rel ch s u)
    (ht : execPairLowRead x0 x1 u = .next t) : Rel ch s t := by
  unfold execPairLowRead at ht
  refine Rel.unitOk ?_ ht
  refine Rel.ite ?_ ?_
  · exact h
  · split
    · rename_i w0 w1 e2
      have hw1 := Rel.of_snd (ch := ch) (s := s) e2 (by
        refine busRead_rel (sub_of hc rfl) ?_
        exact h)
      refine emit_rel (sub_of hc rfl) ?_
      exact hw1
    · rename_i w3 e4
      have hw3 := Rel.of_snd (ch := ch) (s := s) e4 (by
        refine busRead_rel (sub_of hc rfl) ?_
        exact h)
      exact hw3

theorem execPairHighWrite_rel {ch : Nat} {s u t : State} {x0 x1 x2} (hc : 970981279 &&& ch = 970981279) (h : Rel ch s u)
    (ht : execPairHighWrite x0 x1 x2 u = .next t) : Rel ch s t := by
  unfold execPairHighWrite at ht
  refine Rel.unitOk ?_ ht
  refine Rel.ite ?_ ?_
  · refine busWrite_rel (sub_of hc rfl) ?_
    exact h
  · exact h

theorem doorbell_rel {ch : Nat} {s u : State} {x1 x2 x3} (hc : 4326402 &&& ch = 4326402) (h : Rel ch s u) :
    Rel ch s (doorbell u x1 x2 x3) := by
  unfold doorbell
  extract_lets -merge -underBinder v0 v1 v2 v3
  subst v0
  try clear_value v1
  subst v2
  have hv3 : Rel ch s v3 := by
    subst v3
    refine Rel.setCtx _ _ (by first | rfl | (split <;> rfl) | (dsimp only; split <;> rfl) | (unfold wake; split <;> rfl) | (simp only [regs_rest]; rfl) | (simp only [regs_rest])) (bit_of 10 hc rfl) ?_
    exact h
  try clear_value v3
  refine Rel.ite ?_ ?_
  · refine logEvent_rel (sub_of hc rfl) ?_
    exact h
  · refine Rel.ite ?_ ?_
    · refine evLatch_rel (sub_of hc rfl) ?_
      exact hv3
    · exact hv3

theorem cqHeadWrite_rel {ch : Nat} {s u : State} {x1 x2} (hc : 1024 &&& ch = 1024) (h : Rel ch s u) :
    Rel ch s (cqHeadWrite u x1 x2) := by
  unfold cqHeadWrite
  refine Rel.modCtx (fun _ => rfl) (bit_of 10 hc rfl) ?_
  exact h

theorem ctxStateRead_rel {ch : Nat} {s u : State} {x1} (hc : 1024 &&& ch = 1024) (h : Rel ch s u) :
    Rel ch s (ctxStateRead u x1).2 := by
  unfold ctxStateRead
  first | refine Rel.mk_snd ?_ | skip
  refine Rel.modCtx (fun _ => rfl) (bit_of 10 hc rfl) ?_
  exact h

theorem pageWrite_rel {ch : Nat} {s u : State} {x1 x2 x3} (hc : 4326402 &&& ch = 4326402) (h : Rel ch s u) :
    Rel ch s (pageWrite u x1 x2 x3) := by
  unfold pageWrite
  refine Rel.ite ?_ ?_
  · exact h
  · refine Rel.ite ?_ ?_
    · refine doorbell_rel (sub_of hc rfl) ?_
      exact h
    · refine Rel.ite ?_ ?_
      · refine cqHeadWrite_rel (sub_of hc rfl) ?_
        exact h
      · refine Rel.ite ?_ ?_
        · refine resumeCtx_rel (sub_of hc rfl) ?_
          exact h
        · exact h

theorem pageRead_rel {ch : Nat} {s u : State} {x1 x2} (hc : 1024 &&& ch = 1024) (h : Rel ch s u) :
    Rel ch s (pageRead u x1 x2).2 := by
  unfold pageRead
  extract_lets -merge -underBinder v0
  subst v0
  split
  · first | refine Rel.mk_snd ?_ | skip
    exact h
  · split
    · first | refine Rel.mk_snd ?_ | skip
      exact h
    · split
      · first | refine Rel.mk_snd ?_ | skip
        exact h
      · split
        · first | refine Rel.mk_snd ?_ | skip
          exact h
        · split
          · refine ctxStateRead_rel (sub_of hc rfl) ?_
            exact h
          · first | refine Rel.mk_snd ?_ | skip
            exact h

theorem execRingDoorbell_rel {ch : Nat} {s u t : State} {x0 x1 x2 x3} (hc : 4326402 &&& ch = 4326402) (h : Rel ch s u)
    (ht : execRingDoorbell x0 x1 x2 x3 u = .next t) : Rel ch s t := by
  unfold execRingDoorbell at ht
  refine Rel.unitOk ?_ ht
  split
  · refine doorbell_rel (sub_of hc rfl) ?_
    exact h
  · refine linkLog_rel (sub_of hc rfl) ?_
    exact h
  · exact h

theorem execCqHeadWrite_rel {ch : Nat} {s u t : State} {x0 x1} (hc : 1024 &&& ch = 1024) (h : Rel ch s u)
    (ht : execCqHeadWrite x0 x1 u = .next t) : Rel ch s t := by
  unfold execCqHeadWrite at ht
  refine Rel.unitOk ?_ ht
  refine Rel.ite ?_ ?_
  · exact h
  · refine cqHeadWrite_rel (sub_of hc rfl) ?_
    exact h

theorem execCompletionRingRoom_rel {ch : Nat} {s u t : State} {x0} (hc : 4326402 &&& ch = 4326402) (h : Rel ch s u)
    (ht : execCompletionRingRoom x0 u = .next t) : Rel ch s t := by
  unfold execCompletionRingRoom at ht
  refine Rel.unitOk ?_ ht
  refine flushDue_rel (sub_of hc rfl) ?_
  exact h

theorem execCtxStateRead_rel {ch : Nat} {s u t : State} {x0} (hc : 4195328 &&& ch = 4195328) (h : Rel ch s u)
    (ht : execCtxStateRead x0 u = .next t) : Rel ch s t := by
  unfold execCtxStateRead at ht
  refine Rel.unitOk ?_ ht
  extract_lets -merge -underBinder v0
  have hv0 : Rel ch s v0.2 := by
    subst v0
    refine ctxStateRead_rel (sub_of hc rfl) ?_
    exact h
  try clear_value v0
  refine Rel.ite ?_ ?_
  · exact h
  · refine emit_rel (sub_of hc rfl) ?_
    exact hv0

theorem execCtxResumeWrite_rel {ch : Nat} {s u t : State} {x0 x1} (hc : 1024 &&& ch = 1024) (h : Rel ch s u)
    (ht : execCtxResumeWrite x0 x1 u = .next t) : Rel ch s t := by
  unfold execCtxResumeWrite at ht
  refine Rel.unitOk ?_ ht
  refine Rel.ite ?_ ?_
  · exact h
  · refine resumeCtx_rel (sub_of hc rfl) ?_
    exact h

theorem execHaltRequest_rel {ch : Nat} {s u t : State} {x0} (hc : 1024 &&& ch = 1024) (h : Rel ch s u)
    (ht : execHaltRequest x0 u = .next t) : Rel ch s t := by
  unfold execHaltRequest at ht
  refine Rel.unitOk ?_ ht
  refine Rel.ite ?_ ?_
  · exact h
  · refine haltCtx_rel (sub_of hc rfl) ?_
    exact h

theorem execRingEntryFetch_rel {ch : Nat} {s u t : State} {x0 x1 x2} (hc : 1024 &&& ch = 1024) (h : Rel ch s u)
    (ht : execRingEntryFetch x0 x1 x2 u = .next t) : Rel ch s t := by
  unfold execRingEntryFetch at ht
  refine Rel.unitOk ?_ ht
  extract_lets -merge -underBinder v0
  subst v0
  refine Rel.ite ?_ ?_
  · exact h
  · split
    · exact h
    · extract_lets -merge -underBinder v1 v2
      try clear_value v1
      subst v2
      refine Rel.setCtx _ _ (by first | rfl | (split <;> rfl) | (dsimp only; split <;> rfl) | (unfold wake; split <;> rfl) | (simp only [regs_rest]; rfl) | (simp only [regs_rest])) (bit_of 10 hc rfl) ?_
      exact h

theorem storeBytes_rel {ch : Nat} {s u : State} {x1 x2 x3} (hc : 71435778 &&& ch = 71435778) (h : Rel ch s u) :
    Rel ch s (storeBytes u x1 x2 x3) := by
  unfold storeBytes
  extract_lets -merge -underBinder v0 v1
  try clear_value v0
  try clear_value v1
  split
  · refine psWrite_rel (sub_of hc rfl) ?_
    exact h
  · extract_lets -merge -underBinder v2 v3
    try clear_value v2
    have hv3 : Rel ch s v3 := by
      subst v3
      refine Rel.ite ?_ ?_
      · exact h
      · refine psWrite_rel (sub_of hc rfl) ?_
        exact h
    try clear_value v3
    refine dklLog_rel (sub_of hc rfl) ?_
    exact hv3

theorem storeWrite_rel {ch : Nat} {s u : State} {x1 x2 x3} (hc : 71435778 &&& ch = 71435778) (h : Rel ch s u) :
    Rel ch s (storeWrite u x1 x2 x3) := by
  unfold storeWrite
  refine Rel.ite ?_ ?_
  · exact h
  · split
    · refine Rel.ite ?_ ?_
      · exact h
      · refine Rel.ite ?_ ?_
        · refine linkLog_rel (sub_of hc rfl) ?_
          exact h
        · refine Rel.ite ?_ ?_
          · refine storeBytes_rel (sub_of hc rfl) ?_
            exact h
          · exact h
    · refine storeBytes_rel (sub_of hc rfl) ?_
      exact h

theorem execProgramStoreWrite_rel {ch : Nat} {s u t : State} {x0 x1 x2} (hc : 71435778 &&& ch = 71435778) (h : Rel ch s u)
    (ht : execProgramStoreWrite x0 x1 x2 u = .next t) : Rel ch s t := by
  unfold execProgramStoreWrite at ht
  refine Rel.unitOk ?_ ht
  refine storeWrite_rel (sub_of hc rfl) ?_
  exact h

theorem storeRead_rel {ch : Nat} {s u : State} {x1 x2 x3 x4} (hc : 4326914 &&& ch = 4326914) (h : Rel ch s u) :
    Rel ch s (storeRead u x1 x2 x3 x4) := by
  unfold storeRead
  extract_lets -merge -underBinder v0 v1
  try clear_value v0
  try clear_value v1
  split
  · refine emit_rel (sub_of hc rfl) ?_
    exact h
  · extract_lets -merge -underBinder v2 v3
    try clear_value v2
    have hv3 : Rel ch s v3 := by
      subst v3
      refine Rel.ite ?_ ?_
      · exact h
      · refine emit_rel (sub_of hc rfl) ?_
        exact h
    try clear_value v3
    refine emit_rel (sub_of hc rfl) ?_
    refine dklLog_rel (sub_of hc rfl) ?_
    exact hv3

theorem barReadDw_rel {ch : Nat} {s u : State} {x1 x2 x3} (hc : 6424066 &&& ch = 6424066) (h : Rel ch s u) :
    Rel ch s (barReadDw u x1 x2 x3).2 := by
  unfold barReadDw
  split
  · refine busRead_rel (sub_of hc rfl) ?_
    exact h
  · split
    · extract_lets -merge -underBinder v0
      have hv0 : Rel ch s v0.2 := by
        subst v0
        refine pageRead_rel (sub_of hc rfl) ?_
        exact h
      try clear_value v0
      first | refine Rel.mk_snd ?_ | skip
      exact hv0
    · first | refine Rel.mk_snd ?_ | skip
      exact h
    · first | refine Rel.mk_snd ?_ | skip
      exact h

theorem barRead_rel {ch : Nat} {s u : State} {x1 x2 x3 x4} (hc : 6424066 &&& ch = 6424066) (h : Rel ch s u) :
    Rel ch s (barRead u x1 x2 x3 x4) := by
  unfold barRead
  extract_lets -merge -underBinder v0
  subst v0
  try dsimp -zeta -zetaUnused -proj only
  split
  · rename_i w1 e2
    have hw1 := Rel.of_snd (ch := ch) (s := s) e2 (by
      refine barReadDw_rel (sub_of hc rfl) ?_
      exact h)
    refine emit_rel (sub_of hc rfl) ?_
    exact hw1
  · rename_i w3 w4 e5
    have hw4 := Rel.of_snd (ch := ch) (s := s) e5 (by
      refine barReadDw_rel (sub_of hc rfl) ?_
      exact h)
    refine Rel.ite ?_ ?_
    · refine emit_rel (sub_of hc rfl) ?_
      exact hw4
    · split
      · rename_i w6 e7
        have hw6 := Rel.of_snd (ch := ch) (s := s) e7 (by
          refine barReadDw_rel (sub_of hc rfl) ?_
          exact hw4)
        refine emit_rel (sub_of hc rfl) ?_
        exact hw6
      · rename_i w8 w9 e10
        have hw9 := Rel.of_snd (ch := ch) (s := s) e10 (by
          refine barReadDw_rel (sub_of hc rfl) ?_
          exact hw4)
        refine emit_rel (sub_of hc rfl) ?_
        exact hw9

theorem barWriteDw_rel {ch : Nat} {s u : State} {x1 x2 x3 x4} (hc : 970981279 &&& ch = 970981279) (h : Rel ch s u) :
    Rel ch s (barWriteDw u x1 x2 x3 x4) := by
  unfold barWriteDw
  refine Rel.ite ?_ ?_
  · refine busWrite_rel (sub_of hc rfl) ?_
    exact h
  · split
    · refine pageWrite_rel (sub_of hc rfl) ?_
      exact h
    · refine linkLog_rel (sub_of hc rfl) ?_
      exact h
    · exact h

theorem execBarAccess_rel {ch : Nat} {s u t : State} {x0 x1 x2 x3 x4} (hc : 1040187295 &&& ch = 1040187295) (h : Rel ch s u)
    (ht : execBarAccess x0 x1 x2 x3 x4 u = .next t) : Rel ch s t := by
  unfold execBarAccess at ht
  refine Rel.unitOk ?_ ht
  extract_lets -merge -underBinder v0 v1 v2
  try clear_value v0
  try clear_value v1
  have hv2 : Rel ch s v2 := by
    subst v2
    refine barWriteDw_rel (sub_of hc rfl) ?_
    exact h
  try clear_value v2
  refine Rel.ite ?_ ?_
  · exact h
  · refine Rel.ite ?_ ?_
    · refine Rel.ite ?_ ?_
      · refine storeWrite_rel (sub_of hc rfl) ?_
        exact h
      · refine storeRead_rel (sub_of hc rfl) ?_
        exact h
    · refine Rel.ite ?_ ?_
      · refine Rel.ite ?_ ?_
        · refine linkLog_rel (sub_of hc rfl) ?_
          exact h
        · refine emit_rel (sub_of hc rfl) ?_
          exact h
      · refine Rel.ite ?_ ?_
        · refine Rel.ite ?_ ?_
          · refine barWriteDw_rel (sub_of hc rfl) ?_
            exact hv2
          · exact hv2
        · refine barRead_rel (sub_of hc rfl) ?_
          exact h

theorem debugCsr_rel {ch : Nat} {s u : State} {x1 x2 x3} (hc : 973078431 &&& ch = 973078431) (h : Rel ch s u) :
    Rel ch s (debugCsr u x1 x2 x3).2 := by
  unfold debugCsr
  extract_lets -merge -underBinder v0 v1 v2
  have hv0 : Rel ch s v0.s := by
    subst v0
    refine csrRead_rel (sub_of hc rfl) ?_
    exact h
  try clear_value v0
  have hv1 : Rel ch s v1.s := by
    subst v1
    refine csrRead_rel (sub_of hc rfl) ?_
    exact hv0
  try clear_value v1
  have hv2 : Rel ch s v2.s := by
    subst v2
    refine csrRead_rel (sub_of hc rfl) ?_
    exact h
  try clear_value v2
  split
  · split
    · first | refine Rel.mk_snd ?_ | skip
      refine csrWrite_rel (sub_of hc rfl) ?_
      refine csrWrite_rel (sub_of hc rfl) ?_
      exact h
    · first | refine Rel.mk_snd ?_ | skip
      exact hv1
  · split
    · first | refine Rel.mk_snd ?_ | skip
      refine csrWrite_rel (sub_of hc rfl) ?_
      exact h
    · first | refine Rel.mk_snd ?_ | skip
      exact hv2

theorem debugSend_rel {ch : Nat} {s u : State} {x1 x2 x3 x4} (hc : 21171202 &&& ch = 21171202) (h : Rel ch s u) :
    Rel ch s (debugSend u x1 x2 x3 x4) := by
  unfold debugSend
  extract_lets -merge -underBinder v0
  try clear_value v0
  refine enSend_rel (sub_of hc rfl) ?_
  exact h

theorem execDebugAccess_rel {ch : Nat} {s u t : State} {x0 x1 x2 x3 x4} (hc : 1040187295 &&& ch = 1040187295) (h : Rel ch s u)
    (ht : execDebugAccess x0 x1 x2 x3 x4 u = .next t) : Rel ch s t := by
  unfold execDebugAccess at ht
  refine Rel.unitOk ?_ ht
  extract_lets -merge -underBinder v0 v1 v2
  try clear_value v0
  try clear_value v1
  try clear_value v2
  refine Rel.ite ?_ ?_
  · exact h
  · split
    · extract_lets -merge -underBinder v3 v4
      try clear_value v3
      have hv4 : Rel ch s v4 := by
        subst v4
        refine dklLog_rel (sub_of hc rfl) ?_
        refine Rel.tap _ (bit_of 19 hc rfl) ?_
        exact h
      try clear_value v4
      refine Rel.ite ?_ ?_
      · exact hv4
      · refine emit_rel (sub_of hc rfl) ?_
        exact hv4
    · extract_lets -merge -underBinder v5 v6
      try clear_value v5
      have hv6 : Rel ch s v6 := by
        subst v6
        refine Rel.tap _ (bit_of 19 hc rfl) ?_
        exact h
      try clear_value v6
      split
      · extract_lets -merge -underBinder v7
        have hv7 : Rel ch s v7.2 := by
          subst v7
          refine debugCsr_rel (sub_of hc rfl) ?_
          exact hv6
        try clear_value v7
        refine Rel.ite ?_ ?_
        · exact hv7
        · refine emit_rel (sub_of hc rfl) ?_
          exact hv7
      · refine psWrite_rel (sub_of hc rfl) ?_
        exact hv6
      · refine debugSend_rel (sub_of hc rfl) ?_
        exact hv6
      · split
        · rename_i w8 w9 e10
          have hw9 := Rel.of_snd (ch := ch) (s := s) e10 (by
            refine peekSpan_rel (sub_of hc rfl) ?_
            exact hv6)
          refine emit_rel (sub_of hc rfl) ?_
          exact hw9
        · rename_i w11 e12
          have hw11 := Rel.of_snd (ch := ch) (s := s) e12 (by
            refine peekSpan_rel (sub_of hc rfl) ?_
            exact hv6)
          extract_lets -merge -underBinder v13
          have hv13 : Rel ch s v13.2 := by
            subst v13
            refine freeW_rel (sub_of hc rfl) ?_
            exact hw11
          try clear_value v13
          refine emit_rel (sub_of hc rfl) ?_
          exact hv13

end Sys2Proof.Machine
end

