-- ==== Sys2Proof/Laws/RelEgress.lean ====
section
/-!
SUPPORT. What each operation of Egress.lean can change, and that it keeps what every command keeps (Laws/Rel.lean).
-/

namespace Sys2Proof.Machine

theorem release_rel {ch : Nat} {s u : State} {x1 x2} (hc : 4391938 &&& ch = 4391938) (h : Rel ch s u) :
    Rel ch s (release u x1 x2) := by
  unfold release
  refine movePkt_rel (sub_of hc rfl) ?_
  exact h

theorem releaseCad_rel {ch : Nat} {s u : State} {x1} (hc : 4391938 &&& ch = 4391938) (h : Rel ch s u) :
    Rel ch s (releaseCad u x1) := by
  unfold releaseCad
  split
  · refine modCad_rel (sub_of hc rfl) ?_
    refine release_rel (sub_of hc rfl) ?_
    exact h
  · refine release_rel (sub_of hc rfl) ?_
    exact h

theorem releaseDrr_rel {ch : Nat} {s u : State} {x1 x2 x3} (hc : 4391938 &&& ch = 4391938) (h : Rel ch s u) :
    Rel ch s (releaseDrr u x1 x2 x3) := by
  unfold releaseDrr
  extract_lets -merge -underBinder v0 v1 v2 v3
  try clear_value v0
  have hv1 : Rel ch s v1 := by
    subst v1
    refine release_rel (sub_of hc rfl) ?_
    exact h
  try clear_value v1
  try clear_value v2
  try clear_value v3
  refine modQ_rel (sub_of hc rfl) ?_
  exact hv1

theorem selectOut_rel {ch : Nat} {s u : State} {x0} (hc : 4391938 &&& ch = 4391938) (h : Rel ch s u) :
    Rel ch s (selectOut x0 u) := by
  unfold selectOut
  split
  · refine Rel.ite ?_ ?_
    · refine releaseCad_rel (sub_of hc rfl) ?_
      exact h
    · exact h
  · split
    · refine Rel.ite ?_ ?_
      · refine releaseDrr_rel (sub_of hc rfl) ?_
        exact h
      · exact h
    · exact h

theorem execEgressSelection_rel {ch : Nat} {s u t : State} {x0} (hc : 4391938 &&& ch = 4391938) (h : Rel ch s u)
    (ht : execEgressSelection x0 u = .next t) : Rel ch s t := by
  unfold execEgressSelection at ht
  refine Rel.unitOk ?_ ht
  refine selectOut_rel (sub_of hc rfl) ?_
  exact h

theorem movePtrs_rel {ch : Nat} {s u : State} {x1} (hc : 65536 &&& ch = 65536) (h : Rel ch s u) :
    Rel ch s (movePtrs u x1) := by
  unfold movePtrs
  extract_lets -merge -underBinder v0
  try clear_value v0
  refine Rel.core _ (bit_of 16 hc rfl) ?_
  exact h

theorem countRound_rel {ch : Nat} {s u : State} {x1} (hc : 65536 &&& ch = 65536) (h : Rel ch s u) :
    Rel ch s (countRound u x1) := by
  unfold countRound
  extract_lets -merge -underBinder v0
  try clear_value v0
  refine Rel.core _ (bit_of 16 hc rfl) ?_
  exact h

theorem closeIfLast_rel {ch : Nat} {s u : State} {x1} (hc : 65536 &&& ch = 65536) (h : Rel ch s u) :
    Rel ch s (closeIfLast u x1) := by
  unfold closeIfLast
  extract_lets -merge -underBinder v0
  try clear_value v0
  refine Rel.ite ?_ ?_
  · exact h
  · refine Rel.core _ (bit_of 16 hc rfl) ?_
    exact h

theorem csrWords_rel {ch : Nat} {s u : State} {x0 x1 x2} (hc : 6424066 &&& ch = 6424066) (h : Rel ch s u) :
    Rel ch s (csrWords x0 x1 x2 u).2 := by
  unfold csrWords
  split
  · first | refine Rel.mk_snd ?_ | skip
    exact h
  · split
    · rename_i w7 e8
      have hw7 := Rel.of_snd (ch := ch) (s := s) e8 (by
        refine busRead_rel (sub_of hc rfl) ?_
        exact h)
      first | refine Rel.mk_snd ?_ | skip
      exact hw7
    · rename_i w9 w10 e11
      have hw10 := Rel.of_snd (ch := ch) (s := s) e11 (by
        refine busRead_rel (sub_of hc rfl) ?_
        exact h)
      split
      · rename_i w12 w13 e14
        have hw13 := Rel.of_snd (ch := ch) (s := s) e14 (by
          refine csrWords_rel (sub_of hc rfl) ?_
          exact hw10)
        first | refine Rel.mk_snd ?_ | skip
        exact hw13
      · rename_i w15 e16
        have hw15 := Rel.of_snd (ch := ch) (s := s) e16 (by
          refine csrWords_rel (sub_of hc rfl) ?_
          exact hw10)
        first | refine Rel.mk_snd ?_ | skip
        exact hw15

theorem csrStores_rel {ch : Nat} {s u : State} {x0 x1 x2 x3} (hc : 970981279 &&& ch = 970981279) (h : Rel ch s u) :
    Rel ch s (csrStores x0 x1 x2 x3 u) := by
  unfold csrStores
  split
  · exact h
  · refine csrStores_rel (sub_of hc rfl) ?_
    refine busWrite_rel (sub_of hc rfl) ?_
    exact h

theorem enRequest_rel {ch : Nat} {s u : State} {x1} (hc : 973078431 &&& ch = 973078431) (h : Rel ch s u) :
    Rel ch s (enRequest u x1) := by
  unfold enRequest
  extract_lets -merge -underBinder v0 v1
  try clear_value v0
  try clear_value v1
  refine Rel.ite ?_ ?_
  · split
    · rename_i w2 w3 e4
      have hw3 := Rel.of_snd (ch := ch) (s := s) e4 (by
        refine csrWords_rel (sub_of hc rfl) ?_
        exact h)
      refine answer_rel (sub_of hc rfl) ?_
      exact hw3
    · rename_i w5 e6
      have hw5 := Rel.of_snd (ch := ch) (s := s) e6 (by
        refine csrWords_rel (sub_of hc rfl) ?_
        exact h)
      refine answer_rel (sub_of hc rfl) ?_
      exact hw5
  · refine Rel.ite ?_ ?_
    · refine answer_rel (sub_of hc rfl) ?_
      refine csrStores_rel (sub_of hc rfl) ?_
      exact h
    · refine answer_rel (sub_of hc rfl) ?_
      exact h

theorem atChannel_rel {ch : Nat} {s u : State} {x1} (hc : 63139202 &&& ch = 63139202) (h : Rel ch s u) :
    Rel ch s (atChannel u x1) := by
  unfold atChannel
  extract_lets -merge -underBinder v0
  have hv0 : Rel ch s v0 := by
    subst v0
    refine dropPkt_rel (sub_of hc rfl) ?_
    exact h
  try clear_value v0
  split
  · refine biResponse_rel (sub_of hc rfl) ?_
    refine closeOpen_rel (sub_of hc rfl) ?_
    exact hv0
  · extract_lets -merge -underBinder v1
    try clear_value v1
    refine Rel.ite ?_ ?_
    · exact hv0
    · refine Rel.home _ (bit_of 8 hc rfl) ?_
      exact hv0

theorem atEngine_rel {ch : Nat} {s u : State} {x1} (hc : 973078431 &&& ch = 973078431) (h : Rel ch s u) :
    Rel ch s (atEngine u x1) := by
  unfold atEngine
  extract_lets -merge -underBinder v0
  have hv0 : Rel ch s v0 := by
    subst v0
    refine dropPkt_rel (sub_of hc rfl) ?_
    exact h
  try clear_value v0
  refine Rel.ite ?_ ?_
  · refine answer_rel (sub_of hc rfl) ?_
    refine closeIfLast_rel (sub_of hc rfl) ?_
    exact hv0
  · refine enRequest_rel (sub_of hc rfl) ?_
    exact hv0

theorem hasCrossed_rel {ch : Nat} {s u : State} {x1} (hc : 1006632863 &&& ch = 1006632863) (h : Rel ch s u) :
    Rel ch s (hasCrossed u x1) := by
  unfold hasCrossed
  refine Rel.ite ?_ ?_
  · refine qMarks_rel (sub_of hc rfl) ?_
    refine modPkt_rel (sub_of hc rfl) ?_
    exact h
  · refine Rel.ite ?_ ?_
    · refine atChannel_rel (sub_of hc rfl) ?_
      exact h
    · refine atEngine_rel (sub_of hc rfl) ?_
      exact h

theorem moveCells_rel {ch : Nat} {s u : State} {x1 x2 x3} (hc : 1006632863 &&& ch = 1006632863) (h : Rel ch s u) :
    Rel ch s (moveCells u x1 x2 x3) := by
  unfold moveCells
  extract_lets -merge -underBinder v0 v1 v2
  try clear_value v0
  have hv1 : Rel ch s v1 := by
    subst v1
    refine topDown_rel (sub_of hc rfl) ?_
    refine topDown_rel (sub_of hc rfl) ?_
    exact h
  try clear_value v1
  try clear_value v2
  refine Rel.ite ?_ ?_
  · refine hasCrossed_rel (sub_of hc rfl) ?_
    exact hv1
  · refine qMarks_rel (sub_of hc rfl) ?_
    refine modPkt_rel (sub_of hc rfl) ?_
    exact hv1

theorem transfer_rel {ch : Nat} {s u : State} {x0 x1 x2 x3 x4} (hc : 1006632863 &&& ch = 1006632863) (h : Rel ch s u) :
    Rel ch s (transfer x0 x1 x2 x3 x4 u) := by
  unfold transfer
  split
  · exact h
  · exact h
  · split
    · refine topDown_rel (sub_of hc rfl) ?_
      exact h
    · extract_lets -merge -underBinder v19
      try clear_value v19
      refine Rel.ite ?_ ?_
      · refine topDown_rel (sub_of hc rfl) ?_
        exact h
      · refine Rel.ite ?_ ?_
        · refine transfer_rel (sub_of hc rfl) ?_
          refine topDown_rel (sub_of hc rfl) ?_
          refine closeIfLast_rel (sub_of hc rfl) ?_
          refine staleDrop_rel (sub_of hc rfl) ?_
          refine dropPkt_rel (sub_of hc rfl) ?_
          exact h
        · refine transfer_rel (sub_of hc rfl) ?_
          refine moveCells_rel (sub_of hc rfl) ?_
          exact h

theorem transferPair_rel {ch : Nat} {s u : State} {x1} (hc : 1006632863 &&& ch = 1006632863) (h : Rel ch s u) :
    Rel ch s (transferPair u x1) := by
  unfold transferPair
  split
  · refine transfer_rel (sub_of hc rfl) ?_
    exact h
  · exact h

theorem idleSlots_rel {ch : Nat} {s u : State} {x0 x1 x3} (hc : 131072 &&& ch = 131072) (h : Rel ch s u) :
    Rel ch s (idleSlots x0 x1 u x3) := by
  unfold idleSlots
  refine Rel.ite ?_ ?_
  · exact h
  · refine topDown_rel (sub_of hc rfl) ?_
    exact h

theorem schedRound_rel {ch : Nat} {s u : State} (hc : 1006632863 &&& ch = 1006632863) (h : Rel ch s u) :
    Rel ch s (schedRound u) := by
  unfold schedRound
  extract_lets -merge -underBinder v0 v1 v2 v3 v4 v5
  try clear_value v0
  try clear_value v1
  have hv2 : Rel ch s v2 := by
    subst v2
    refine cntAdd_rel (sub_of hc rfl) ?_
    exact h
  try clear_value v2
  have hv3 : Rel ch s v3 := by
    subst v3
    refine Rel.forL (fun u6 x6 hf6 => ?_) ?_
    · refine countRound_rel (sub_of hc rfl) ?_
      exact hf6
    · exact hv2
  try clear_value v3
  have hv4 : Rel ch s v4 := by
    subst v4
    refine Rel.foldl (fun u7 x7 hf7 => ?_) ?_
    · refine movePtrs_rel (sub_of hc rfl) ?_
      exact hf7
    · exact hv3
  try clear_value v4
  have hv5 : Rel ch s v5 := by
    subst v5
    refine Rel.forL (fun u8 x8 hf8 => ?_) ?_
    · refine idleSlots_rel (sub_of hc rfl) ?_
      exact hf8
    · exact hv4
  try clear_value v5
  refine Rel.foldl (fun u9 x9 hf9 => ?_) ?_
  · refine transferPair_rel (sub_of hc rfl) ?_
    exact hf9
  · exact hv5

theorem execSchedulerRound_rel {ch : Nat} {s u t : State} (hc : 1006632863 &&& ch = 1006632863) (h : Rel ch s u)
    (ht : execSchedulerRound u = .next t) : Rel ch s t := by
  unfold execSchedulerRound at ht
  refine Rel.unitOk ?_ ht
  refine schedRound_rel (sub_of hc rfl) ?_
  exact h

theorem openReq_rel {ch : Nat} {s u : State} {x1 x2} (hc : 65536 &&& ch = 65536) (h : Rel ch s u) :
    Rel ch s (openReq u x1 x2) := by
  unfold openReq
  extract_lets -merge -underBinder v0
  try clear_value v0
  refine Rel.core _ (bit_of 16 hc rfl) ?_
  exact h

theorem handOff_rel {ch : Nat} {s u : State} {x1 x2} (hc : 29559810 &&& ch = 29559810) (h : Rel ch s u) :
    Rel ch s (handOff u x1 x2) := by
  unfold handOff
  extract_lets -merge -underBinder v0 v1 v2 v3
  try clear_value v0
  have hv1 : Rel ch s v1 := by
    subst v1
    refine portCount_rel (sub_of hc rfl) ?_
    refine dropPkt_rel (sub_of hc rfl) ?_
    exact h
  try clear_value v1
  have hv2 : Rel ch s v2 := by
    subst v2
    refine Rel.ite ?_ ?_
    · refine portCount_rel (sub_of hc rfl) ?_
      exact hv1
    · exact hv1
  try clear_value v2
  have hv3 : Rel ch s v3 := by
    subst v3
    refine mirTake_rel (sub_of hc rfl) ?_
    exact hv2
  try clear_value v3
  refine Rel.ite ?_ ?_
  · refine closeIfLast_rel (sub_of hc rfl) ?_
    exact hv3
  · split
    · refine mirFinish_rel (sub_of hc rfl) ?_
      exact hv3
    · refine Rel.ite ?_ ?_
      · refine memberOutcome_rel (sub_of hc rfl) ?_
        exact hv3
      · refine openReq_rel (sub_of hc rfl) ?_
        exact hv3
    · refine Rel.ite ?_ ?_
      · refine openReq_rel (sub_of hc rfl) ?_
        exact hv3
      · refine answer_rel (sub_of hc rfl) ?_
        exact hv3

theorem egressDrop_rel {ch : Nat} {s u : State} {x1 x2 x3} (hc : 29559810 &&& ch = 29559810) (h : Rel ch s u) :
    Rel ch s (egressDrop u x1 x2 x3) := by
  unfold egressDrop
  extract_lets -merge -underBinder v0 v1
  have hv0 : Rel ch s v0 := by
    subst v0
    refine dropPkt_rel (sub_of hc rfl) ?_
    exact h
  try clear_value v0
  have hv1 : Rel ch s v1 := by
    subst v1
    refine Rel.ite ?_ ?_
    · refine unroutable_rel (sub_of hc rfl) ?_
      exact hv0
    · refine logOpen_rel (sub_of hc rfl) ?_
      exact hv0
  try clear_value v1
  refine Rel.ite ?_ ?_
  · refine closeIfLast_rel (sub_of hc rfl) ?_
    exact hv1
  · split
    · refine mirLose_rel (sub_of hc rfl) ?_
      exact hv1
    · refine answerBad_rel (sub_of hc rfl) ?_
      exact hv1

theorem emitMsg_rel {ch : Nat} {s u : State} {x1 x2} (hc : 4194304 &&& ch = 4194304) (h : Rel ch s u) :
    Rel ch s (emitMsg u x1 x2) := by
  unfold emitMsg
  split
  · extract_lets -merge -underBinder v0
    have hv0 : Rel ch s v0 := by
      subst v0
      refine emit_rel (sub_of hc rfl) ?_
      exact h
    try clear_value v0
    refine Rel.ite ?_ ?_
    · exact hv0
    · refine emit_rel (sub_of hc rfl) ?_
      exact hv0
  · refine emit_rel (sub_of hc rfl) ?_
    exact h
  · refine emit_rel (sub_of hc rfl) ?_
    exact h

theorem takeCredit_rel {ch : Nat} {s u : State} {x1 x2} (hc : 16384 &&& ch = 16384) (h : Rel ch s u) :
    Rel ch s (takeCredit u x1 x2) := by
  unfold takeCredit
  refine modPort_rel (sub_of hc rfl) ?_
  exact h

theorem placeCells_rel {ch : Nat} {s u : State} {x1 x2 x3} (hc : 29576194 &&& ch = 29576194) (h : Rel ch s u) :
    Rel ch s (placeCells u x1 x2 x3) := by
  unfold placeCells
  extract_lets -merge -underBinder v0 v1
  have hv0 : Rel ch s v0 := by
    subst v0
    refine Rel.ite ?_ ?_
    · refine takeCredit_rel (sub_of hc rfl) ?_
      exact h
    · exact h
  try clear_value v0
  try clear_value v1
  refine Rel.ite ?_ ?_
  · refine handOff_rel (sub_of hc rfl) ?_
    refine emitMsg_rel (sub_of hc rfl) ?_
    exact hv0
  · refine modPkt_rel (sub_of hc rfl) ?_
    exact hv0

theorem fillFlit_rel {ch : Nat} {s u : State} {x0 x1 x2} (hc : 29576194 &&& ch = 29576194) (h : Rel ch s u) :
    Rel ch s (fillFlit x0 x1 x2 u).2 := by
  unfold fillFlit
  split
  · first | refine Rel.mk_snd ?_ | skip
    exact h
  · first | refine Rel.mk_snd ?_ | skip
    exact h
  · split
    · first | refine Rel.mk_snd ?_ | skip
      exact h
    · split
      · refine fillFlit_rel (sub_of hc rfl) ?_
        refine egressDrop_rel (sub_of hc rfl) ?_
        exact h
      · extract_lets -merge -underBinder v10 v11
        try clear_value v10
        have hv11 : Rel ch s v11.2 := by
          subst v11
          refine fillFlit_rel (sub_of hc rfl) ?_
          refine placeCells_rel (sub_of hc rfl) ?_
          exact h
        try clear_value v11
        first | refine Rel.mk_snd ?_ | skip
        exact hv11

theorem sendFlit_rel {ch : Nat} {s u : State} {x0} (hc : 29608962 &&& ch = 29608962) (h : Rel ch s u) :
    Rel ch s (sendFlit x0 u) := by
  unfold sendFlit
  extract_lets -merge -underBinder v0 v1 v2 v3 v4
  try clear_value v0
  have hv1 : Rel ch s v1 := by
    subst v1
    refine modQuire_rel (sub_of hc rfl) ?_
    exact h
  try clear_value v1
  try clear_value v2
  have hv3 : Rel ch s v3.2 := by
    subst v3
    refine fillFlit_rel (sub_of hc rfl) ?_
    exact hv1
  try clear_value v3
  try clear_value v4
  refine Rel.ite ?_ ?_
  · refine topDown_rel (sub_of hc rfl) ?_
    exact hv3
  · refine topDown_rel (sub_of hc rfl) ?_
    refine portCount_rel (sub_of hc rfl) ?_
    refine portCount_rel (sub_of hc rfl) ?_
    exact hv3

theorem execFlitSend_rel {ch : Nat} {s u t : State} {x0} (hc : 29608962 &&& ch = 29608962) (h : Rel ch s u)
    (ht : execFlitSend x0 u = .next t) : Rel ch s t := by
  unfold execFlitSend at ht
  refine Rel.unitOk ?_ ht
  refine Rel.ite ?_ ?_
  · refine sendFlit_rel (sub_of hc rfl) ?_
    exact h
  · exact h

theorem loadTx_rel {ch : Nat} {s u : State} {x0 x1 x2} (hc : 29576194 &&& ch = 29576194) (h : Rel ch s u) :
    Rel ch s (loadTx x0 x1 x2 u) := by
  unfold loadTx
  split
  · exact h
  · extract_lets -merge -underBinder v5
    try clear_value v5
    refine Rel.ite ?_ ?_
    · exact h
    · split
      · exact h
      · extract_lets -merge -underBinder v6 v7
        try clear_value v6
        try clear_value v7
        refine loadTx_rel (sub_of hc rfl) ?_
        refine handOff_rel (sub_of hc rfl) ?_
        refine modIfl_rel (sub_of hc rfl) ?_
        exact h

theorem sendLeaf_rel {ch : Nat} {s u : State} {x1 x2 x3 x4 x5 x6 x7 x8} (hc : 4341760 &&& ch = 4341760) (h : Rel ch s u) :
    Rel ch s (sendLeaf u x1 x2 x3 x4 x5 x6 x7 x8) := by
  unfold sendLeaf
  extract_lets -merge -underBinder v0 v1 v2 v3 v4
  try clear_value v0
  try clear_value v1
  try clear_value v2
  have hv3 : Rel ch s v3 := by
    subst v3
    refine emit_rel (sub_of hc rfl) ?_
    refine modIfl_rel (sub_of hc rfl) ?_
    exact h
  try clear_value v3
  have hv4 : Rel ch s v4 := by
    subst v4
    refine portCount_rel (sub_of hc rfl) ?_
    refine portCount_rel (sub_of hc rfl) ?_
    exact hv3
  try clear_value v4
  refine topDown_rel (sub_of hc rfl) ?_
  exact hv4

theorem sendInit_rel {ch : Nat} {s u : State} {x1} (hc : 4341760 &&& ch = 4341760) (h : Rel ch s u) :
    Rel ch s (sendInit u x1) := by
  unfold sendInit
  extract_lets -merge -underBinder v0 v1
  try clear_value v0
  try clear_value v1
  refine sendLeaf_rel (sub_of hc rfl) ?_
  exact h

theorem sendCtl_rel {ch : Nat} {s u : State} {x1 x2} (hc : 4341760 &&& ch = 4341760) (h : Rel ch s u) :
    Rel ch s (sendCtl u x1 x2) := by
  unfold sendCtl
  refine sendLeaf_rel (sub_of hc rfl) ?_
  exact h

theorem sendReplay_rel {ch : Nat} {s u : State} {x1 x2} (hc : 4341760 &&& ch = 4341760) (h : Rel ch s u) :
    Rel ch s (sendReplay u x1 x2) := by
  unfold sendReplay
  extract_lets -merge -underBinder v0
  have hv0 : Rel ch s v0 := by
    subst v0
    refine modIfl_rel (sub_of hc rfl) ?_
    exact h
  try clear_value v0
  split
  · refine sendCtl_rel (sub_of hc rfl) ?_
    exact hv0
  · refine sendLeaf_rel (sub_of hc rfl) ?_
    refine portCount_rel (sub_of hc rfl) ?_
    refine modIfl_rel (sub_of hc rfl) ?_
    exact hv0

theorem sendNew_rel {ch : Nat} {s u : State} {x1 x2} (hc : 4341760 &&& ch = 4341760) (h : Rel ch s u) :
    Rel ch s (sendNew u x1 x2) := by
  unfold sendNew
  extract_lets -merge -underBinder v0 v1 v2 v3 v4 v5
  try clear_value v0
  try clear_value v1
  try clear_value v2
  try clear_value v3
  try clear_value v4
  have hv5 : Rel ch s v5 := by
    subst v5
    refine modIfl_rel (sub_of hc rfl) ?_
    exact h
  try clear_value v5
  refine sendLeaf_rel (sub_of hc rfl) ?_
  exact hv5

theorem sendData_rel {ch : Nat} {s u : State} {x1} (hc : 4341760 &&& ch = 4341760) (h : Rel ch s u) :
    Rel ch s (sendData u x1) := by
  unfold sendData
  extract_lets -merge -underBinder v0 v1 v2
  try clear_value v0
  try clear_value v1
  try clear_value v2
  refine Rel.ite ?_ ?_
  · refine sendNew_rel (sub_of hc rfl) ?_
    refine modIfl_rel (sub_of hc rfl) ?_
    exact h
  · refine Rel.ite ?_ ?_
    · refine sendNew_rel (sub_of hc rfl) ?_
      exact h
    · refine Rel.ite ?_ ?_
      · refine sendNew_rel (sub_of hc rfl) ?_
        exact h
      · refine sendCtl_rel (sub_of hc rfl) ?_
        exact h

theorem sendActive_rel {ch : Nat} {s u : State} {x1} (hc : 29576194 &&& ch = 29576194) (h : Rel ch s u) :
    Rel ch s (sendActive u x1) := by
  unfold sendActive
  extract_lets -merge -underBinder v0 v1
  have hv0 : Rel ch s v0 := by
    subst v0
    refine loadTx_rel (sub_of hc rfl) ?_
    refine loadTx_rel (sub_of hc rfl) ?_
    refine iflConsume_rel (sub_of hc rfl) ?_
    exact h
  try clear_value v0
  try clear_value v1
  refine Rel.ite ?_ ?_
  · refine sendCtl_rel (sub_of hc rfl) ?_
    refine modIfl_rel (sub_of hc rfl) ?_
    exact hv0
  · refine Rel.ite ?_ ?_
    · refine sendCtl_rel (sub_of hc rfl) ?_
      refine modIfl_rel (sub_of hc rfl) ?_
      exact hv0
    · split
      · refine sendReplay_rel (sub_of hc rfl) ?_
        exact hv0
      · refine Rel.ite ?_ ?_
        · refine sendCtl_rel (sub_of hc rfl) ?_
          exact hv0
        · refine Rel.ite ?_ ?_
          · refine sendNew_rel (sub_of hc rfl) ?_
            exact hv0
          · refine sendData_rel (sub_of hc rfl) ?_
            exact hv0

theorem execLeafTransmit_rel {ch : Nat} {s u t : State} {x0} (hc : 29576194 &&& ch = 29576194) (h : Rel ch s u)
    (ht : execLeafTransmit x0 u = .next t) : Rel ch s t := by
  unfold execLeafTransmit at ht
  refine Rel.unitOk ?_ ht
  extract_lets -merge -underBinder v0
  try clear_value v0
  refine Rel.ite ?_ ?_
  · exact h
  · refine Rel.ite ?_ ?_
    · refine sendInit_rel (sub_of hc rfl) ?_
      exact h
    · refine Rel.ite ?_ ?_
      · refine sendActive_rel (sub_of hc rfl) ?_
        exact h
      · exact h

theorem freeFence_rel {ch : Nat} {s u : State} {x1} (hc : 65536 &&& ch = 65536) (h : Rel ch s u) :
    Rel ch s (freeFence u x1) := by
  unfold freeFence
  refine putPkts_rel (sub_of hc rfl) ?_
  exact h

theorem execRepinningFenceRelease_rel {ch : Nat} {s u t : State} {x0} (hc : 65536 &&& ch = 65536) (h : Rel ch s u)
    (ht : execRepinningFenceRelease x0 u = .next t) : Rel ch s t := by
  unfold execRepinningFenceRelease at ht
  refine Rel.unitOk ?_ ht
  extract_lets -merge -underBinder v0
  try clear_value v0
  refine Rel.ite ?_ ?_
  · refine freeFence_rel (sub_of hc rfl) ?_
    refine modEcmp_rel (sub_of hc rfl) ?_
    exact h
  · exact h

theorem execCadenceFenceRelease_rel {ch : Nat} {s u t : State} {x0} (hc : 65536 &&& ch = 65536) (h : Rel ch s u)
    (ht : execCadenceFenceRelease x0 u = .next t) : Rel ch s t := by
  unfold execCadenceFenceRelease at ht
  refine Rel.unitOk ?_ ht
  extract_lets -merge -underBinder v0
  try clear_value v0
  refine Rel.ite ?_ ?_
  · refine freeFence_rel (sub_of hc rfl) ?_
    refine modCad_rel (sub_of hc rfl) ?_
    exact h
  · exact h

theorem execCadenceWindowOpen_rel {ch : Nat} {s u t : State} {x0 x1} (hc : 65536 &&& ch = 65536) (h : Rel ch s u)
    (ht : execCadenceWindowOpen x0 x1 u = .next t) : Rel ch s t := by
  unfold execCadenceWindowOpen at ht
  refine Rel.unitOk ?_ ht
  extract_lets -merge -underBinder v0
  try clear_value v0
  refine Rel.ite ?_ ?_
  · refine modCad_rel (sub_of hc rfl) ?_
    exact h
  · exact h

theorem execCadenceWindowClose_rel {ch : Nat} {s u t : State} {x0} (hc : 65536 &&& ch = 65536) (h : Rel ch s u)
    (ht : execCadenceWindowClose x0 u = .next t) : Rel ch s t := by
  unfold execCadenceWindowClose at ht
  refine Rel.unitOk ?_ ht
  extract_lets -merge -underBinder v0
  try clear_value v0
  refine Rel.ite ?_ ?_
  · refine modCad_rel (sub_of hc rfl) ?_
    exact h
  · exact h

theorem sampleQ_rel {ch : Nat} {s u : State} {x0 x2} (hc : 65536 &&& ch = 65536) (h : Rel ch s u) :
    Rel ch s (sampleQ x0 u x2) := by
  unfold sampleQ
  extract_lets -merge -underBinder v0 v1 v2 v3
  try clear_value v0
  try clear_value v1
  try clear_value v2
  try clear_value v3
  refine modQ_rel (sub_of hc rfl) ?_
  exact h

theorem execHistogramSample_rel {ch : Nat} {s u t : State} {x0} (hc : 196608 &&& ch = 196608) (h : Rel ch s u)
    (ht : execHistogramSample x0 u = .next t) : Rel ch s t := by
  unfold execHistogramSample at ht
  refine Rel.unitOk ?_ ht
  extract_lets -merge -underBinder v0 v1
  try clear_value v0
  try clear_value v1
  refine Rel.ite ?_ ?_
  · exact h
  · refine Rel.ite ?_ ?_
    · refine Rel.cnt _ (bit_of 17 hc rfl) ?_
      exact h
    · refine Rel.forL (fun u2 x2 hf2 => ?_) ?_
      · refine sampleQ_rel (sub_of hc rfl) ?_
        exact hf2
      · exact h

end Sys2Proof.Machine
end

