-- ==== Sys2Proof/Laws/RelOxMem.lean ====
section
/-!
SUPPORT. What each operation of OxMem.lean can change, and that it keeps what every command keeps (Laws/Rel.lean).
-/

namespace Sys2Proof.Machine

theorem memPass_rel {ch : Nat} {s u : State} {x1 x2 x3 f4} (hc : 12994050 &&& ch = 12994050) (hh4 : ∀ a0, Rel ch s a0 → Rel ch s (f4 a0)) (h : Rel ch s u) :
    Rel ch s (memPass u x1 x2 x3 f4) := by
  unfold memPass
  split
  · refine hh4 _ ?_
    exact h
  · refine accessFault_rel (sub_of hc rfl) ?_
    exact h

theorem waitLoad_rel {ch : Nat} {s u : State} {x1 x2 x3 x4 x5} (hc : 1024 &&& ch = 1024) (h : Rel ch s u) :
    Rel ch s (waitLoad u x1 x2 x3 x4 x5) := by
  unfold waitLoad
  refine waitWith_rel (sub_of hc rfl) ?_
  exact h

theorem memSend_rel {ch : Nat} {s u : State} {x1 x2 x3 x4} (hc : 21171202 &&& ch = 21171202) (h : Rel ch s u) :
    Rel ch s (memSend u x1 x2 x3 x4) := by
  unfold memSend
  refine enSend_rel (sub_of hc rfl) ?_
  exact h

theorem execLd_rel {ch : Nat} {s u t : State} {x0 x1} (hc : 29838850 &&& ch = 29838850) (h : Rel ch s u)
    (ht : execLd x0 x1 u = .next t) : Rel ch s t := by
  unfold execLd at ht
  refine Rel.unitOk ?_ ht
  extract_lets -merge -underBinder v0 v1
  try clear_value v0
  try clear_value v1
  refine oxRun_rel (sub_of hc rfl) (fun y3 y4 hf2 => ?_) ?_
  · extract_lets -merge -underBinder v5
    try clear_value v5
    refine memPass_rel (sub_of hc rfl) (fun y7 hf6 => ?_) ?_
    · extract_lets -merge -underBinder v8
      have hv8 : Rel ch s v8 := by
        subst v8
        refine waitLoad_rel (sub_of hc rfl) ?_
        exact hf6
      try clear_value v8
      refine Rel.ite ?_ ?_
      · refine toLoad_rel (sub_of hc rfl) ?_
        exact hv8
      · refine memSend_rel (sub_of hc rfl) ?_
        exact hv8
    · exact hf2
  · exact h

theorem loadReturn_rel {ch : Nat} {s u : State} {x0} (hc : 549864450 &&& ch = 549864450) (h : Rel ch s u) :
    Rel ch s (loadReturn x0 u) := by
  unfold loadReturn
  extract_lets -merge -underBinder v0
  subst v0
  split
  · extract_lets -merge -underBinder v1 v2 v3
    have hv1 : Rel ch s v1 := by
      subst v1
      refine Rel.modCtx (fun _ => rfl) (bit_of 10 hc rfl) ?_
      exact h
    try clear_value v1
    try clear_value v2
    try clear_value v3
    refine Rel.ite ?_ ?_
    · refine faultCtx_rel (sub_of hc rfl) ?_
      refine Rel.modCtx (fun _ => rfl) (bit_of 10 hc rfl) ?_
      exact hv1
    · refine finishWait_rel (sub_of hc rfl) ?_
      exact hv1
  · exact h

theorem execLoadDataReturn_rel {ch : Nat} {s u t : State} {x0} (hc : 549864450 &&& ch = 549864450) (h : Rel ch s u)
    (ht : execLoadDataReturn x0 u = .next t) : Rel ch s t := by
  unfold execLoadDataReturn at ht
  refine Rel.unitOk ?_ ht
  refine loadReturn_rel (sub_of hc rfl) ?_
  exact h

theorem execSt_rel {ch : Nat} {s u t : State} {x0 x1} (hc : 96947714 &&& ch = 96947714) (h : Rel ch s u)
    (ht : execSt x0 x1 u = .next t) : Rel ch s t := by
  unfold execSt at ht
  refine Rel.unitOk ?_ ht
  extract_lets -merge -underBinder v0 v1
  try clear_value v0
  try clear_value v1
  refine oxRun_rel (sub_of hc rfl) (fun y3 y4 hf2 => ?_) ?_
  · extract_lets -merge -underBinder v5 v6
    try clear_value v5
    try clear_value v6
    refine memPass_rel (sub_of hc rfl) (fun y8 hf7 => ?_) ?_
    · extract_lets -merge -underBinder v9
      have hv9 : Rel ch s v9 := by
        subst v9
        refine Rel.ite ?_ ?_
        · refine psWrite_rel (sub_of hc rfl) ?_
          exact hf7
        · refine memSend_rel (sub_of hc rfl) ?_
          refine Rel.modCtx (fun _ => rfl) (bit_of 10 hc rfl) ?_
          exact hf7
      try clear_value v9
      refine retireSt_rel (sub_of hc rfl) ?_
      exact hv9
    · exact hf2
  · exact h

theorem execAtom_rel {ch : Nat} {s u t : State} {x0 x1} (hc : 29838850 &&& ch = 29838850) (h : Rel ch s u)
    (ht : execAtom x0 x1 u = .next t) : Rel ch s t := by
  unfold execAtom at ht
  refine Rel.unitOk ?_ ht
  extract_lets -merge -underBinder v0 v1 v2
  try clear_value v0
  try clear_value v1
  try clear_value v2
  refine oxRun_rel (sub_of hc rfl) (fun y4 y5 hf3 => ?_) ?_
  · extract_lets -merge -underBinder v6 v7 v8
    try clear_value v6
    try clear_value v7
    try clear_value v8
    refine memPass_rel (sub_of hc rfl) (fun y10 hf9 => ?_) ?_
    · refine memSend_rel (sub_of hc rfl) ?_
      refine waitLoad_rel (sub_of hc rfl) ?_
      exact hf9
    · exact hf3
  · exact h

theorem ldcData_rel {ch : Nat} {s u : State} {x1 x2 x3} (hc : 6424066 &&& ch = 6424066) (h : Rel ch s u) :
    Rel ch s (ldcData u x1 x2 x3).2 := by
  unfold ldcData
  split
  · rename_i w0 w1 e2
    have hw1 := Rel.of_snd (ch := ch) (s := s) e2 (by
      refine csrWords_rel (sub_of hc rfl) ?_
      exact h)
    first | refine Rel.mk_snd ?_ | skip
    exact hw1
  · rename_i w3 e4
    have hw3 := Rel.of_snd (ch := ch) (s := s) e4 (by
      refine csrWords_rel (sub_of hc rfl) ?_
      exact h)
    first | refine Rel.mk_snd ?_ | skip
    exact hw3

theorem execLdc_rel {ch : Nat} {s u t : State} {x0 x1} (hc : 15091202 &&& ch = 15091202) (h : Rel ch s u)
    (ht : execLdc x0 x1 u = .next t) : Rel ch s t := by
  unfold execLdc at ht
  refine Rel.unitOk ?_ ht
  refine oxRun_rel (sub_of hc rfl) (fun y1 y2 hf0 => ?_) ?_
  · refine memPass_rel (sub_of hc rfl) (fun y4 hf3 => ?_) ?_
    · extract_lets -merge -underBinder v5
      have hv5 : Rel ch s v5.2 := by
        subst v5
        refine ldcData_rel (sub_of hc rfl) ?_
        exact hf3
      try clear_value v5
      refine toLoad_rel (sub_of hc rfl) ?_
      refine waitLoad_rel (sub_of hc rfl) ?_
      exact hv5
    · exact hf0
  · exact h

theorem execStc_rel {ch : Nat} {s u t : State} {x0 x1} (hc : 970981279 &&& ch = 970981279) (h : Rel ch s u)
    (ht : execStc x0 x1 u = .next t) : Rel ch s t := by
  unfold execStc at ht
  refine Rel.unitOk ?_ ht
  refine oxRun_rel (sub_of hc rfl) (fun y1 y2 hf0 => ?_) ?_
  · extract_lets -merge -underBinder v3 v4
    try clear_value v3
    try clear_value v4
    refine memPass_rel (sub_of hc rfl) (fun y6 hf5 => ?_) ?_
    · extract_lets -merge -underBinder v7 v8
      have hv7 : Rel ch s v7 := by
        subst v7
        refine busWrite_rel (sub_of hc rfl) ?_
        exact hf5
      try clear_value v7
      have hv8 : Rel ch s v8 := by
        subst v8
        refine Rel.ite ?_ ?_
        · refine busWrite_rel (sub_of hc rfl) ?_
          exact hv7
        · exact hv7
      try clear_value v8
      refine retireSt_rel (sub_of hc rfl) ?_
      exact hv8
    · exact hf0
  · exact h

theorem snapRun_rel {ch : Nat} {s u : State} {x0 x1 x2 f3} (hc : 12993538 &&& ch = 12993538) (hh3 : ∀ a0, Rel ch s a0 → Rel ch s (f3 a0)) (h : Rel ch s u) :
    Rel ch s (snapRun x0 x1 x2 f3 u) := by
  unfold snapRun
  refine Rel.ite ?_ ?_
  · exact h
  · refine oxRun_rel (sub_of hc rfl) (fun y1 y2 hf0 => ?_) ?_
    · refine hh3 _ ?_
      exact hf0
    · exact h

theorem execSnapFreeze_rel {ch : Nat} {s u t : State} {x0 x1} (hc : 549864450 &&& ch = 549864450) (h : Rel ch s u)
    (ht : execSnapFreeze x0 x1 u = .next t) : Rel ch s t := by
  unfold execSnapFreeze at ht
  refine Rel.unitOk ?_ ht
  refine snapRun_rel (sub_of hc rfl) (fun y1 hf0 => ?_) ?_
  · refine Rel.ite ?_ ?_
    · refine retireSt_rel (sub_of hc rfl) ?_
      exact hf0
    · refine retireK_rel (sub_of hc rfl) ?_
      refine cntFreeze_rel (sub_of hc rfl) ?_
      exact hf0
  · exact h

theorem execSnapRelease_rel {ch : Nat} {s u t : State} {x0 x1} (hc : 12993538 &&& ch = 12993538) (h : Rel ch s u)
    (ht : execSnapRelease x0 x1 u = .next t) : Rel ch s t := by
  unfold execSnapRelease at ht
  refine Rel.unitOk ?_ ht
  refine snapRun_rel (sub_of hc rfl) (fun y1 hf0 => ?_) ?_
  · refine Rel.ite ?_ ?_
    · refine retireSt_rel (sub_of hc rfl) ?_
      refine cntRelease_rel (sub_of hc rfl) ?_
      exact hf0
    · refine retireSt_rel (sub_of hc rfl) ?_
      exact hf0
  · exact h

theorem countSet_rel {ch : Nat} {s u : State} {x1} (hc : 131072 &&& ch = 131072) (h : Rel ch s u) :
    Rel ch s (countSet u x1) := by
  unfold countSet
  split
  · refine selSet_rel (sub_of hc rfl) ?_
    exact h
  · refine selSet_rel (sub_of hc rfl) ?_
    exact h

theorem execCount_rel {ch : Nat} {s u t : State} {x0 x1} (hc : 549864450 &&& ch = 549864450) (h : Rel ch s u)
    (ht : execCount x0 x1 u = .next t) : Rel ch s t := by
  unfold execCount at ht
  refine Rel.unitOk ?_ ht
  refine oxRun_rel (sub_of hc rfl) (fun y1 y2 hf0 => ?_) ?_
  · refine Rel.ite ?_ ?_
    · refine retireK_rel (sub_of hc rfl) ?_
      refine countSet_rel (sub_of hc rfl) ?_
      exact hf0
    · refine retireK_rel (sub_of hc rfl) ?_
      exact hf0
  · exact h

theorem execLog_rel {ch : Nat} {s u t : State} {x0 x1} (hc : 12993538 &&& ch = 12993538) (h : Rel ch s u)
    (ht : execLog x0 x1 u = .next t) : Rel ch s t := by
  unfold execLog at ht
  refine Rel.unitOk ?_ ht
  refine oxRun_rel (sub_of hc rfl) (fun y1 y2 hf0 => ?_) ?_
  · extract_lets -merge -underBinder v3
    try clear_value v3
    refine retireSt_rel (sub_of hc rfl) ?_
    refine Rel.modCtx (fun _ => rfl) (bit_of 10 hc rfl) ?_
    exact hf0
  · exact h

end Sys2Proof.Machine
end

