-- ==== Sys2Proof/Laws/RelFmApi.lean ====
section
/-!
SUPPORT. What each operation of FmApi.lean can change, and that it keeps what every command keeps (Laws/Rel.lean).
-/

namespace Sys2Proof.Machine

theorem fmReply_rel {ch : Nat} {s u : State} {x1 x2 x3} (hc : 4194304 &&& ch = 4194304) (h : Rel ch s u) :
    Rel ch s (fmReply u x1 x2 x3) := by
  unfold fmReply
  refine emit_rel (sub_of hc rfl) ?_
  exact h

theorem fmServe_rel {ch : Nat} {s u : State} {x0 f1} (hc : 12715010 &&& ch = 12715010) (hh1 : ∀ a0, Rel ch s a0 → Rel ch s (f1 a0)) (h : Rel ch s u) :
    Rel ch s (fmServe x0 f1 u) := by
  unfold fmServe
  extract_lets -merge -underBinder v0
  try clear_value v0
  refine Rel.ite ?_ ?_
  · exact h
  · refine Rel.ite ?_ ?_
    · split
      · refine logOpen_rel (sub_of hc rfl) ?_
        exact h
      · exact h
    · refine Rel.ite ?_ ?_
      · refine fmReply_rel (sub_of hc rfl) ?_
        exact h
      · refine Rel.ite ?_ ?_
        · refine evLatch_rel (sub_of hc rfl) ?_
          refine Rel.cmd _ (bit_of 1 hc rfl) ?_
          exact h
        · refine hh1 _ ?_
          exact h

theorem fmReads_rel {ch : Nat} {s u : State} {x0 x1 x2} (hc : 6424066 &&& ch = 6424066) (h : Rel ch s u) :
    Rel ch s (fmReads x0 x1 x2 u) := by
  unfold fmReads
  split
  · refine fmReply_rel (sub_of hc rfl) ?_
    exact h
  · split
    · rename_i w8 w9 e10
      have hw9 := Rel.of_snd (ch := ch) (s := s) e10 (by
        refine busRead_rel (sub_of hc rfl) ?_
        exact h)
      refine fmReads_rel (sub_of hc rfl) ?_
      exact hw9
    · rename_i w11 e12
      have hw11 := Rel.of_snd (ch := ch) (s := s) e12 (by
        refine busRead_rel (sub_of hc rfl) ?_
        exact h)
      refine fmReply_rel (sub_of hc rfl) ?_
      exact hw11

theorem execFmIdentifySwitchDevice_rel {ch : Nat} {s u t : State} {x0} (hc : 14812674 &&& ch = 14812674) (h : Rel ch s u)
    (ht : execFmIdentifySwitchDevice x0 u = .next t) : Rel ch s t := by
  unfold execFmIdentifySwitchDevice at ht
  refine Rel.unitOk ?_ ht
  refine fmServe_rel (sub_of hc rfl) (fun y1 hf0 => ?_) ?_
  · refine fmReads_rel (sub_of hc rfl) ?_
    exact hf0
  · exact h

theorem execFmGetPhysicalPortState_rel {ch : Nat} {s u t : State} {x0 x1} (hc : 14812674 &&& ch = 14812674) (h : Rel ch s u)
    (ht : execFmGetPhysicalPortState x0 x1 u = .next t) : Rel ch s t := by
  unfold execFmGetPhysicalPortState at ht
  refine Rel.unitOk ?_ ht
  refine fmServe_rel (sub_of hc rfl) (fun y1 hf0 => ?_) ?_
  · refine Rel.ite ?_ ?_
    · refine fmReads_rel (sub_of hc rfl) ?_
      exact hf0
    · refine fmReply_rel (sub_of hc rfl) ?_
      exact hf0
  · exact h

theorem execFmPhysicalPortControl_rel {ch : Nat} {s u t : State} {x0 x1 x2} (hc : 970981279 &&& ch = 970981279) (h : Rel ch s u)
    (ht : execFmPhysicalPortControl x0 x1 x2 u = .next t) : Rel ch s t := by
  unfold execFmPhysicalPortControl at ht
  refine Rel.unitOk ?_ ht
  refine fmServe_rel (sub_of hc rfl) (fun y1 hf0 => ?_) ?_
  · extract_lets -merge -underBinder v2
    try clear_value v2
    refine Rel.ite ?_ ?_
    · refine fmReply_rel (sub_of hc rfl) ?_
      exact hf0
    · refine Rel.ite ?_ ?_
      · refine Rel.ite ?_ ?_
        · refine fmReply_rel (sub_of hc rfl) ?_
          exact hf0
        · refine fmReply_rel (sub_of hc rfl) ?_
          refine resetPort_rel (sub_of hc rfl) ?_
          exact hf0
      · refine fmReply_rel (sub_of hc rfl) ?_
        refine busWrite_rel (sub_of hc rfl) ?_
        exact hf0
  · exact h

theorem execFmSendPpbConfigRequest_rel {ch : Nat} {s u t : State} {x0 x1 x2 x3 x4 x5} (hc : 29850626 &&& ch = 29850626) (h : Rel ch s u)
    (ht : execFmSendPpbConfigRequest x0 x1 x2 x3 x4 x5 u = .next t) : Rel ch s t := by
  unfold execFmSendPpbConfigRequest at ht
  refine Rel.unitOk ?_ ht
  refine fmServe_rel (sub_of hc rfl) (fun y1 hf0 => ?_) ?_
  · refine Rel.ite ?_ ?_
    · refine fmReply_rel (sub_of hc rfl) ?_
      exact hf0
    · refine Rel.ite ?_ ?_
      · refine fmReply_rel (sub_of hc rfl) ?_
        refine cfgWrite_rel (sub_of hc rfl) ?_
        exact hf0
      · refine fmReply_rel (sub_of hc rfl) ?_
        exact hf0
  · exact h

theorem execFmGetVirtualSwitchInfo_rel {ch : Nat} {s u t : State} {x0 x1} (hc : 14812674 &&& ch = 14812674) (h : Rel ch s u)
    (ht : execFmGetVirtualSwitchInfo x0 x1 u = .next t) : Rel ch s t := by
  unfold execFmGetVirtualSwitchInfo at ht
  refine Rel.unitOk ?_ ht
  refine fmServe_rel (sub_of hc rfl) (fun y1 hf0 => ?_) ?_
  · extract_lets -merge -underBinder v2
    try clear_value v2
    refine Rel.ite ?_ ?_
    · refine fmReply_rel (sub_of hc rfl) ?_
      exact hf0
    · refine fmReads_rel (sub_of hc rfl) ?_
      exact hf0
  · exact h

theorem fmFab_rel {ch : Nat} {s u : State} {x0 x1 f2} (hc : 4194304 &&& ch = 4194304) (hh2 : ∀ a0, Rel ch s a0 → Rel ch s (f2 a0).s) (h : Rel ch s u) :
    Rel ch s (fmFab x0 x1 f2 u) := by
  unfold fmFab
  split
  · refine fmReply_rel (sub_of hc rfl) ?_
    exact h
  · extract_lets -merge -underBinder v0
    have hv0 : Rel ch s v0.s := by
      subst v0
      refine hh2 _ ?_
      exact h
    try clear_value v0
    refine Rel.ite ?_ ?_
    · refine fmReply_rel (sub_of hc rfl) ?_
      exact hv0
    · refine fmReply_rel (sub_of hc rfl) ?_
      exact hv0

theorem execFmBindVppb_rel {ch : Nat} {s u t : State} {x0 x1 x2} (hc : 12723202 &&& ch = 12723202) (h : Rel ch s u)
    (ht : execFmBindVppb x0 x1 x2 u = .next t) : Rel ch s t := by
  unfold execFmBindVppb at ht
  refine Rel.unitOk ?_ ht
  refine fmServe_rel (sub_of hc rfl) (fun y1 hf0 => ?_) ?_
  · refine fmFab_rel (sub_of hc rfl) (fun y3 hf2 => ?_) ?_
    · refine bindDo_rel (sub_of hc rfl) ?_
      exact hf2
    · exact hf0
  · exact h

theorem execFmUnbindVppb_rel {ch : Nat} {s u t : State} {x0 x1 x2} (hc : 281159170 &&& ch = 281159170) (h : Rel ch s u)
    (ht : execFmUnbindVppb x0 x1 x2 u = .next t) : Rel ch s t := by
  unfold execFmUnbindVppb at ht
  refine Rel.unitOk ?_ ht
  refine fmServe_rel (sub_of hc rfl) (fun y1 hf0 => ?_) ?_
  · refine fmFab_rel (sub_of hc rfl) (fun y3 hf2 => ?_) ?_
    · refine unbindDo_rel (sub_of hc rfl) ?_
      exact hf2
    · exact hf0
  · exact h

theorem execFmGenerateAerEvent_rel {ch : Nat} {s u t : State} {x0 x1 x2} (hc : 12715010 &&& ch = 12715010) (h : Rel ch s u)
    (ht : execFmGenerateAerEvent x0 x1 x2 u = .next t) : Rel ch s t := by
  unfold execFmGenerateAerEvent at ht
  refine Rel.unitOk ?_ ht
  refine fmServe_rel (sub_of hc rfl) (fun y1 hf0 => ?_) ?_
  · extract_lets -merge -underBinder v2
    subst v2
    refine Rel.ite ?_ ?_
    · refine fmReply_rel (sub_of hc rfl) ?_
      exact hf0
    · refine fmReply_rel (sub_of hc rfl) ?_
      refine evLatch_rel (sub_of hc rfl) ?_
      exact hf0
  · exact h

theorem fmForward_rel {ch : Nat} {s u : State} {x0 x1 x2 x3 x4} (hc : 4194304 &&& ch = 4194304) (h : Rel ch s u) :
    Rel ch s (fmForward x0 x1 x2 x3 x4 u) := by
  unfold fmForward
  refine Rel.ite ?_ ?_
  · refine emit_rel (sub_of hc rfl) ?_
    exact h
  · refine fmReply_rel (sub_of hc rfl) ?_
    exact h

theorem execFmTunnelManagementCommand_rel {ch : Nat} {s u t : State} {x0 x1 x2} (hc : 12715010 &&& ch = 12715010) (h : Rel ch s u)
    (ht : execFmTunnelManagementCommand x0 x1 x2 u = .next t) : Rel ch s t := by
  unfold execFmTunnelManagementCommand at ht
  refine Rel.unitOk ?_ ht
  refine fmServe_rel (sub_of hc rfl) (fun y1 hf0 => ?_) ?_
  · refine fmForward_rel (sub_of hc rfl) ?_
    exact hf0
  · exact h

theorem execFmSendLdConfigRequest_rel {ch : Nat} {s u t : State} {x0 x1 x2 x3} (hc : 12715010 &&& ch = 12715010) (h : Rel ch s u)
    (ht : execFmSendLdConfigRequest x0 x1 x2 x3 u = .next t) : Rel ch s t := by
  unfold execFmSendLdConfigRequest at ht
  refine Rel.unitOk ?_ ht
  refine fmServe_rel (sub_of hc rfl) (fun y1 hf0 => ?_) ?_
  · refine fmForward_rel (sub_of hc rfl) ?_
    exact hf0
  · exact h

theorem execFmSendLdMemoryRequest_rel {ch : Nat} {s u t : State} {x0 x1 x2 x3} (hc : 12715010 &&& ch = 12715010) (h : Rel ch s u)
    (ht : execFmSendLdMemoryRequest x0 x1 x2 x3 u = .next t) : Rel ch s t := by
  unfold execFmSendLdMemoryRequest at ht
  refine Rel.unitOk ?_ ht
  refine fmServe_rel (sub_of hc rfl) (fun y1 hf0 => ?_) ?_
  · refine fmForward_rel (sub_of hc rfl) ?_
    exact hf0
  · exact h

theorem execFmUnsupportedOpcode_rel {ch : Nat} {s u t : State} {x0 x1} (hc : 12715010 &&& ch = 12715010) (h : Rel ch s u)
    (ht : execFmUnsupportedOpcode x0 x1 u = .next t) : Rel ch s t := by
  unfold execFmUnsupportedOpcode at ht
  refine Rel.unitOk ?_ ht
  refine Rel.ite ?_ ?_
  · exact h
  · refine fmServe_rel (sub_of hc rfl) (fun y1 hf0 => ?_) ?_
    · refine fmReply_rel (sub_of hc rfl) ?_
      exact hf0
    · exact h

theorem tapLoad_rel {ch : Nat} {s u : State} {x1} (hc : 524288 &&& ch = 524288) (h : Rel ch s u) :
    Rel ch s (tapLoad u x1) := by
  unfold tapLoad
  extract_lets -merge -underBinder v0
  try clear_value v0
  refine Rel.tap _ (bit_of 19 hc rfl) ?_
  exact h

theorem tapDrive_rel {ch : Nat} {s u : State} {x1} (hc : 524288 &&& ch = 524288) (h : Rel ch s u) :
    Rel ch s (tapDrive u x1) := by
  unfold tapDrive
  extract_lets -merge -underBinder v0
  try clear_value v0
  refine Rel.tap _ (bit_of 19 hc rfl) ?_
  exact h

theorem execTapReset_rel {ch : Nat} {s u t : State} (hc : 524288 &&& ch = 524288) (h : Rel ch s u)
    (ht : execTapReset u = .next t) : Rel ch s t := by
  unfold execTapReset at ht
  refine Rel.unitOk ?_ ht
  refine tapLoad_rel (sub_of hc rfl) ?_
  exact h

theorem execTapBypass_rel {ch : Nat} {s u t : State} (hc : 524288 &&& ch = 524288) (h : Rel ch s u)
    (ht : execTapBypass u = .next t) : Rel ch s t := by
  unfold execTapBypass at ht
  refine Rel.unitOk ?_ ht
  refine tapLoad_rel (sub_of hc rfl) ?_
  exact h

theorem execTapIdcode_rel {ch : Nat} {s u t : State} (hc : 4718592 &&& ch = 4718592) (h : Rel ch s u)
    (ht : execTapIdcode u = .next t) : Rel ch s t := by
  unfold execTapIdcode at ht
  refine Rel.unitOk ?_ ht
  refine emit_rel (sub_of hc rfl) ?_
  refine tapLoad_rel (sub_of hc rfl) ?_
  exact h

theorem execTapSamplePreload_rel {ch : Nat} {s u t : State} {x0} (hc : 4718592 &&& ch = 4718592) (h : Rel ch s u)
    (ht : execTapSamplePreload x0 u = .next t) : Rel ch s t := by
  unfold execTapSamplePreload at ht
  refine Rel.unitOk ?_ ht
  extract_lets -merge -underBinder v0 v1
  have hv0 : Rel ch s v0 := by
    subst v0
    refine tapLoad_rel (sub_of hc rfl) ?_
    exact h
  try clear_value v0
  try clear_value v1
  refine emit_rel (sub_of hc rfl) ?_
  refine Rel.tap _ (bit_of 19 hc rfl) ?_
  exact hv0

theorem execTapExtest_rel {ch : Nat} {s u t : State} (hc : 524288 &&& ch = 524288) (h : Rel ch s u)
    (ht : execTapExtest u = .next t) : Rel ch s t := by
  unfold execTapExtest at ht
  refine Rel.unitOk ?_ ht
  refine tapDrive_rel (sub_of hc rfl) ?_
  exact h

theorem execTapClamp_rel {ch : Nat} {s u t : State} (hc : 524288 &&& ch = 524288) (h : Rel ch s u)
    (ht : execTapClamp u = .next t) : Rel ch s t := by
  unfold execTapClamp at ht
  refine Rel.unitOk ?_ ht
  refine tapDrive_rel (sub_of hc rfl) ?_
  exact h

theorem execTapHighz_rel {ch : Nat} {s u t : State} (hc : 524288 &&& ch = 524288) (h : Rel ch s u)
    (ht : execTapHighz u = .next t) : Rel ch s t := by
  unfold execTapHighz at ht
  refine Rel.unitOk ?_ ht
  refine tapLoad_rel (sub_of hc rfl) ?_
  exact h

end Sys2Proof.Machine
end

