-- ==== Sys2Proof/Laws/RelTick.lean ====
section
/-!
SUPPORT. What each operation of Tick.lean can change, and that it keeps what every command keeps (Laws/Rel.lean).
-/

namespace Sys2Proof.Machine

theorem tick_rel {ch : Nat} {s u : State} (hc : 4096 &&& ch = 4096) (h : Rel ch s u) :
    Rel ch s (tick u) := by
  unfold tick
  refine Rel.ite ?_ ?_
  · exact h
  · refine Rel.time _ (bit_of 12 hc rfl) ?_
    exact h

end Sys2Proof.Machine
end

