-- ==== Sys2Proof/Laws/RelStep.lean ====
section
/-!
SUPPORT. What every command keeps.
-/

namespace Sys2Proof.Machine

open Sys2Proof.Safety

/-- Every command leaves the queue, keeps the invariant and takes no fuse back. -/
theorem exec_rel {i : Instr} {s t : State} (h : exec i s = .next t) : Rel 2147483647 s t := by
  cases i with
  | regWriteGeneral m addr v => exact execRegWriteGeneral_rel rfl (Rel.refl s) h
  | pairLowRead m addr => exact execPairLowRead_rel rfl (Rel.refl s) h
  | pairHighWrite m addr v => exact execPairHighWrite_rel rfl (Rel.refl s) h
  | flitReceive p f => exact execFlitReceive_rel rfl (Rel.refl s) h
  | messageAdmission ing resp => exact execMessageAdmission_rel rfl (Rel.refl s) h
  | heldMessageRetry ing resp => exact execHeldMessageRetry_rel rfl (Rel.refl s) h
  | requestAtCentre ing => exact execRequestAtCentre_rel rfl (Rel.refl s) h
  | egressSelection out => exact execEgressSelection_rel rfl (Rel.refl s) h
  | schedulerRound => exact execSchedulerRound_rel rfl (Rel.refl s) h
  | flitSend p => exact execFlitSend_rel rfl (Rel.refl s) h
  | repinningFenceRelease g => exact execRepinningFenceRelease_rel rfl (Rel.refl s) h
  | replicaMemberCompletion wid member ok => exact execReplicaMemberCompletion_rel rfl (Rel.refl s) h
  | replicaMemberTimeout wid member => exact execReplicaMemberTimeout_rel rfl (Rel.refl s) h
  | mirrorConsumerReadDone sess consumer => exact execMirrorConsumerReadDone_rel rfl (Rel.refl s) h
  | redMessageReevaluation p => exact execRedMessageReevaluation_rel rfl (Rel.refl s) h
  | cadenceWindowOpen sch win => exact execCadenceWindowOpen_rel rfl (Rel.refl s) h
  | cadenceWindowClose sch => exact execCadenceWindowClose_rel rfl (Rel.refl s) h
  | cadenceFenceRelease sch => exact execCadenceFenceRelease_rel rfl (Rel.refl s) h
  | histogramSample out => exact execHistogramSample_rel rfl (Rel.refl s) h
  | histClear out => exact execHistClear_rel rfl (Rel.refl s) h
  | bufPeakClear => exact execBufPeakClear_rel rfl (Rel.refl s) h
  | paceWindowEnd probe amps => exact execPaceWindowEnd_rel rfl (Rel.refl s) h
  | paceHistoryHour meanTj => exact execPaceHistoryHour_rel rfl (Rel.refl s) h
  | paceTargetWrite v => exact execPaceTargetWrite_rel rfl (Rel.refl s) h
  | paceCtrlWrite v => exact execPaceCtrlWrite_rel rfl (Rel.refl s) h
  | portEnable p v => exact execPortEnable_rel rfl (Rel.refl s) h
  | portDisable p v => exact execPortDisable_rel rfl (Rel.refl s) h
  | portHpWrite p v => exact execPortHpWrite_rel rfl (Rel.refl s) h
  | linkTrained p r => exact execLinkTrained_rel rfl (Rel.refl s) h
  | trainingRetry p => exact execTrainingRetry_rel rfl (Rel.refl s) h
  | linkDown p => exact execLinkDown_rel rfl (Rel.refl s) h
  | errMessageReceived p fatal => exact execErrMessageReceived_rel rfl (Rel.refl s) h
  | dpcStatusClearByHost p => exact execDpcStatusClearByHost_rel rfl (Rel.refl s) h
  | dpcTrigClear p => exact execDpcTrigClear_rel rfl (Rel.refl s) h
  | loopbackRequestReceived p insists => exact execLoopbackRequestReceived_rel rfl (Rel.refl s) h
  | hotResetReceived p => exact execHotResetReceived_rel rfl (Rel.refl s) h
  | secondaryBusReset t v => exact execSecondaryBusReset_rel rfl (Rel.refl s) h
  | hostPowerControlWrite p off => exact execHostPowerControlWrite_rel rfl (Rel.refl s) h
  | hpRefuse p => exact execHpRefuse_rel rfl (Rel.refl s) h
  | hostMcEnableWrite t g => exact execHostMcEnableWrite_rel rfl (Rel.refl s) h
  | ideKeyManagement p k => exact execIdeKeyManagement_rel rfl (Rel.refl s) h
  | ideMacFailure p => exact execIdeMacFailure_rel rfl (Rel.refl s) h
  | fmIdentifySwitchDevice src => exact execFmIdentifySwitchDevice_rel rfl (Rel.refl s) h
  | fmGetPhysicalPortState src p => exact execFmGetPhysicalPortState_rel rfl (Rel.refl s) h
  | fmPhysicalPortControl src p op => exact execFmPhysicalPortControl_rel rfl (Rel.refl s) h
  | fmSendPpbConfigRequest src t v reg write val => exact execFmSendPpbConfigRequest_rel rfl (Rel.refl s) h
  | fmGetVirtualSwitchInfo src t => exact execFmGetVirtualSwitchInfo_rel rfl (Rel.refl s) h
  | fmBindVppb src imm B => exact execFmBindVppb_rel rfl (Rel.refl s) h
  | fmUnbindVppb src imm B => exact execFmUnbindVppb_rel rfl (Rel.refl s) h
  | fmGenerateAerEvent src t line => exact execFmGenerateAerEvent_rel rfl (Rel.refl s) h
  | fmTunnelManagementCommand src p bytes => exact execFmTunnelManagementCommand_rel rfl (Rel.refl s) h
  | fmSendLdConfigRequest src p ld bytes => exact execFmSendLdConfigRequest_rel rfl (Rel.refl s) h
  | fmSendLdMemoryRequest src p ld bytes => exact execFmSendLdMemoryRequest_rel rfl (Rel.refl s) h
  | fmUnsupportedOpcode src opcode => exact execFmUnsupportedOpcode_rel rfl (Rel.refl s) h
  | poolChEnable ch => exact execPoolChEnable_rel rfl (Rel.refl s) h
  | channelTrainingDone ch spd => exact execChannelTrainingDone_rel rfl (Rel.refl s) h
  | poolChDisable ch => exact execPoolChDisable_rel rfl (Rel.refl s) h
  | initStart ch => exact execInitStart_rel rfl (Rel.refl s) h
  | channelInitDone ch => exact execChannelInitDone_rel rfl (Rel.refl s) h
  | channelLost ch => exact execChannelLost_rel rfl (Rel.refl s) h
  | poolGrpEnable g v => exact execPoolGrpEnable_rel rfl (Rel.refl s) h
  | poolGrpDisable g v => exact execPoolGrpDisable_rel rfl (Rel.refl s) h
  | poolOpen => exact execPoolOpen_rel rfl (Rel.refl s) h
  | poolClose => exact execPoolClose_rel rfl (Rel.refl s) h
  | dramReadDone line prim sec => exact execDramReadDone_rel rfl (Rel.refl s) h
  | ceLogClear ch => exact execCeLogClear_rel rfl (Rel.refl s) h
  | ueLogClear ch => exact execUeLogClear_rel rfl (Rel.refl s) h
  | scrubRead ch here other => exact execScrubRead_rel rfl (Rel.refl s) h
  | sheetSelectWrite v => exact execSheetSelectWrite_rel rfl (Rel.refl s) h
  | homeRds ch => exact execHomeRds_rel rfl (Rel.refl s) h
  | homeRde ch => exact execHomeRde_rel rfl (Rel.refl s) h
  | homeRdnc ch => exact execHomeRdnc_rel rfl (Rel.refl s) h
  | homeWrnc ch => exact execHomeWrnc_rel rfl (Rel.refl s) h
  | homeEvd ch => exact execHomeEvd_rel rfl (Rel.refl s) h
  | homeEvc ch => exact execHomeEvc_rel rfl (Rel.refl s) h
  | homeAtom ch => exact execHomeAtom_rel rfl (Rel.refl s) h
  | biResponse line sharer st data => exact execBiResponse_rel rfl (Rel.refl s) h
  | biconflictReceived line sharer => exact execBiconflictReceived_rel rfl (Rel.refl s) h
  | snoopTimeout line sharer => exact execSnoopTimeout_rel rfl (Rel.refl s) h
  | directoryWalkDone t => exact execDirectoryWalkDone_rel rfl (Rel.refl s) h
  | dirLogClear => exact execDirLogClear_rel rfl (Rel.refl s) h
  | trackerPeakClear => exact execTrackerPeakClear_rel rfl (Rel.refl s) h
  | debugAccess sp addr pbr write v => exact execDebugAccess_rel rfl (Rel.refl s) h
  | deckleLogClear => exact execDeckleLogClear_rel rfl (Rel.refl s) h
  | ringDoorbell m c r tail => exact execRingDoorbell_rel rfl (Rel.refl s) h
  | ringEntryFetch c wordA wordB => exact execRingEntryFetch_rel rfl (Rel.refl s) h
  | cqHeadWrite c v => exact execCqHeadWrite_rel rfl (Rel.refl s) h
  | completionRingRoom c => exact execCompletionRingRoom_rel rfl (Rel.refl s) h
  | ctxStateRead c => exact execCtxStateRead_rel rfl (Rel.refl s) h
  | ctxResumeWrite c v => exact execCtxResumeWrite_rel rfl (Rel.refl s) h
  | haltRequest c => exact execHaltRequest_rel rfl (Rel.refl s) h
  | contextRegisterWrite c v => exact execContextRegisterWrite_rel rfl (Rel.refl s) h
  | programStoreWrite m off bytes => exact execProgramStoreWrite_rel rfl (Rel.refl s) h
  | undefinedOpcode c opcode w => exact execUndefinedOpcode_rel rfl (Rel.refl s) h
  | nop c w => exact execNop_rel rfl (Rel.refl s) h
  | halt c w => exact execHalt_rel rfl (Rel.refl s) h
  | jump c w => exact execJump_rel rfl (Rel.refl s) h
  | br c w => exact execBr_rel rfl (Rel.refl s) h
  | call c w => exact execCall_rel rfl (Rel.refl s) h
  | ret c w => exact execRet_rel rfl (Rel.refl s) h
  | waitev c w => exact execWaitev_rel rfl (Rel.refl s) h
  | waitSatisfied c => exact execWaitSatisfied_rel rfl (Rel.refl s) h
  | signal c w => exact execSignal_rel rfl (Rel.refl s) h
  | signalMask c w => exact execSignalMask_rel rfl (Rel.refl s) h
  | fence c w => exact execFence_rel rfl (Rel.refl s) h
  | yield c w => exact execYield_rel rfl (Rel.refl s) h
  | movi c w => exact execMovi_rel rfl (Rel.refl s) h
  | mov c w => exact execMov_rel rfl (Rel.refl s) h
  | add c w => exact execAdd_rel rfl (Rel.refl s) h
  | sub c w => exact execSub_rel rfl (Rel.refl s) h
  | mul c w => exact execMul_rel rfl (Rel.refl s) h
  | mulhu c w => exact execMulhu_rel rfl (Rel.refl s) h
  | divu c w => exact execDivu_rel rfl (Rel.refl s) h
  | remu c w => exact execRemu_rel rfl (Rel.refl s) h
  | and c w => exact execAnd_rel rfl (Rel.refl s) h
  | or c w => exact execOr_rel rfl (Rel.refl s) h
  | xor c w => exact execXor_rel rfl (Rel.refl s) h
  | shl c w => exact execShl_rel rfl (Rel.refl s) h
  | shr c w => exact execShr_rel rfl (Rel.refl s) h
  | sar c w => exact execSar_rel rfl (Rel.refl s) h
  | cmp c w => exact execCmp_rel rfl (Rel.refl s) h
  | tst c w => exact execTst_rel rfl (Rel.refl s) h
  | min c w => exact execMin_rel rfl (Rel.refl s) h
  | max c w => exact execMax_rel rfl (Rel.refl s) h
  | clz c w => exact execClz_rel rfl (Rel.refl s) h
  | popc c w => exact execPopc_rel rfl (Rel.refl s) h
  | bfx c w => exact execBfx_rel rfl (Rel.refl s) h
  | bfi c w => exact execBfi_rel rfl (Rel.refl s) h
  | ld c w => exact execLd_rel rfl (Rel.refl s) h
  | loadDataReturn c => exact execLoadDataReturn_rel rfl (Rel.refl s) h
  | st c w => exact execSt_rel rfl (Rel.refl s) h
  | ldc c w => exact execLdc_rel rfl (Rel.refl s) h
  | stc c w => exact execStc_rel rfl (Rel.refl s) h
  | atom c w => exact execAtom_rel rfl (Rel.refl s) h
  | bind c w => exact execBind_rel rfl (Rel.refl s) h
  | unbind c w => exact execUnbind_rel rfl (Rel.refl s) h
  | routeEntry c w => exact execRouteEntry_rel rfl (Rel.refl s) h
  | routeMembers c w => exact execRouteMembers_rel rfl (Rel.refl s) h
  | routeBuckets c w => exact execRouteBuckets_rel rfl (Rel.refl s) h
  | routeSeed c w => exact execRouteSeed_rel rfl (Rel.refl s) h
  | routeHash c w => exact execRouteHash_rel rfl (Rel.refl s) h
  | routeRead c w => exact execRouteRead_rel rfl (Rel.refl s) h
  | mcastHeader c w => exact execMcastHeader_rel rfl (Rel.refl s) h
  | mcastMember c w => exact execMcastMember_rel rfl (Rel.refl s) h
  | mcastState c w => exact execMcastState_rel rfl (Rel.refl s) h
  | mcastFree c w => exact execMcastFree_rel rfl (Rel.refl s) h
  | mcastOwner c w => exact execMcastOwner_rel rfl (Rel.refl s) h
  | mcastRead c w => exact execMcastRead_rel rfl (Rel.refl s) h
  | deckleWrite c w => exact execDeckleWrite_rel rfl (Rel.refl s) h
  | deckleInvalidate c w => exact execDeckleInvalidate_rel rfl (Rel.refl s) h
  | deckleSetLock c w => exact execDeckleSetLock_rel rfl (Rel.refl s) h
  | sheetGrant c w => exact execSheetGrant_rel rfl (Rel.refl s) h
  | sheetFree c w => exact execSheetFree_rel rfl (Rel.refl s) h
  | sheetAttach c w => exact execSheetAttach_rel rfl (Rel.refl s) h
  | sheetActivate c w => exact execSheetActivate_rel rfl (Rel.refl s) h
  | sheetSwap c w => exact execSheetSwap_rel rfl (Rel.refl s) h
  | sheetDetach c w => exact execSheetDetach_rel rfl (Rel.refl s) h
  | sheetRetire c w => exact execSheetRetire_rel rfl (Rel.refl s) h
  | sheetReam c w => exact execSheetReam_rel rfl (Rel.refl s) h
  | sheetQuery c w => exact execSheetQuery_rel rfl (Rel.refl s) h
  | mirrorEnable c w => exact execMirrorEnable_rel rfl (Rel.refl s) h
  | mirrorDisable c w => exact execMirrorDisable_rel rfl (Rel.refl s) h
  | mirrorReadLost c w => exact execMirrorReadLost_rel rfl (Rel.refl s) h
  | meterConfigure c w => exact execMeterConfigure_rel rfl (Rel.refl s) h
  | meterBind c w => exact execMeterBind_rel rfl (Rel.refl s) h
  | meterRead c w => exact execMeterRead_rel rfl (Rel.refl s) h
  | shapeShaper c w => exact execShapeShaper_rel rfl (Rel.refl s) h
  | shapePriority c w => exact execShapePriority_rel rfl (Rel.refl s) h
  | shapeQuantum c w => exact execShapeQuantum_rel rfl (Rel.refl s) h
  | cadenceConfigure c w => exact execCadenceConfigure_rel rfl (Rel.refl s) h
  | cadenceWindow c w => exact execCadenceWindow_rel rfl (Rel.refl s) h
  | cadenceEnable c w => exact execCadenceEnable_rel rfl (Rel.refl s) h
  | cadenceDisable c w => exact execCadenceDisable_rel rfl (Rel.refl s) h
  | copy c w => exact execCopy_rel rfl (Rel.refl s) h
  | gather c w => exact execGather_rel rfl (Rel.refl s) h
  | reshape c w => exact execReshape_rel rfl (Rel.refl s) h
  | fill c w => exact execFill_rel rfl (Rel.refl s) h
  | mvstat c w => exact execMvstat_rel rfl (Rel.refl s) h
  | mvpause c w => exact execMvpause_rel rfl (Rel.refl s) h
  | mvabort c w => exact execMvabort_rel rfl (Rel.refl s) h
  | mvresume c w => exact execMvresume_rel rfl (Rel.refl s) h
  | moveTransfer ch => exact execMoveTransfer_rel rfl (Rel.refl s) h
  | moveEnd ch => exact execMoveEnd_rel rfl (Rel.refl s) h
  | time c w => exact execTime_rel rfl (Rel.refl s) h
  | atWait c w => exact execAtWait_rel rfl (Rel.refl s) h
  | atArm c w => exact execAtArm_rel rfl (Rel.refl s) h
  | atTimerExpiry c => exact execAtTimerExpiry_rel rfl (Rel.refl s) h
  | waitframe c w => exact execWaitframe_rel rfl (Rel.refl s) h
  | waitframeTimeout c => exact execWaitframeTimeout_rel rfl (Rel.refl s) h
  | takeadd c w => exact execTakeadd_rel rfl (Rel.refl s) h
  | takearm c w => exact execTakearm_rel rfl (Rel.refl s) h
  | takedrop c w => exact execTakedrop_rel rfl (Rel.refl s) h
  | slotOn c w => exact execSlotOn_rel rfl (Rel.refl s) h
  | slotOff c w => exact execSlotOff_rel rfl (Rel.refl s) h
  | slotClear c w => exact execSlotClear_rel rfl (Rel.refl s) h
  | slotDeclare c w => exact execSlotDeclare_rel rfl (Rel.refl s) h
  | slotStatus c w => exact execSlotStatus_rel rfl (Rel.refl s) h
  | budgetCap c w => exact execBudgetCap_rel rfl (Rel.refl s) h
  | budgetLimit c w => exact execBudgetLimit_rel rfl (Rel.refl s) h
  | budgetRead c w => exact execBudgetRead_rel rfl (Rel.refl s) h
  | paceTarget c w => exact execPaceTarget_rel rfl (Rel.refl s) h
  | paceLoop c w => exact execPaceLoop_rel rfl (Rel.refl s) h
  | paceReadStatus c w => exact execPaceReadStatus_rel rfl (Rel.refl s) h
  | paceReadVcore c w => exact execPaceReadVcore_rel rfl (Rel.refl s) h
  | snapFreeze c w => exact execSnapFreeze_rel rfl (Rel.refl s) h
  | snapRelease c w => exact execSnapRelease_rel rfl (Rel.refl s) h
  | count c w => exact execCount_rel rfl (Rel.refl s) h
  | log c w => exact execLog_rel rfl (Rel.refl s) h
  | tenantCreate c w => exact execTenantCreate_rel rfl (Rel.refl s) h
  | tenantRemove c w => exact execTenantRemove_rel rfl (Rel.refl s) h
  | tenantTimeout c w => exact execTenantTimeout_rel rfl (Rel.refl s) h
  | tenantCounterRead c w => exact execTenantCounterRead_rel rfl (Rel.refl s) h
  | resetuPort c w => exact execResetuPort_rel rfl (Rel.refl s) h
  | resetuQuire c w => exact execResetuQuire_rel rfl (Rel.refl s) h
  | resetuTenant c w => exact execResetuTenant_rel rfl (Rel.refl s) h
  | resetuPoolChannel c w => exact execResetuPoolChannel_rel rfl (Rel.refl s) h
  | resetuSlot c w => exact execResetuSlot_rel rfl (Rel.refl s) h
  | resetuContext c w => exact execResetuContext_rel rfl (Rel.refl s) h
  | resetuMoverChannel c w => exact execResetuMoverChannel_rel rfl (Rel.refl s) h
  | resetuCommandPort c w => exact execResetuCommandPort_rel rfl (Rel.refl s) h
  | resetuCoherentDomain c w => exact execResetuCoherentDomain_rel rfl (Rel.refl s) h
  | unitResetEnd kind index => exact execUnitResetEnd_rel rfl (Rel.refl s) h
  | glbHoldWrite n v => exact execGlbHoldWrite_rel rfl (Rel.refl s) h
  | couchToSpare c w => exact execCouchToSpare_rel rfl (Rel.refl s) h
  | couchHome c w => exact execCouchHome_rel rfl (Rel.refl s) h
  | couchHandoverEnd q stallNs => exact execCouchHandoverEnd_rel rfl (Rel.refl s) h
  | qpeSelfTestEnd q pass => exact execQpeSelfTestEnd_rel rfl (Rel.refl s) h
  | lockLifecycle c w => exact execLockLifecycle_rel rfl (Rel.refl s) h
  | lockRevoke c w => exact execLockRevoke_rel rfl (Rel.refl s) h
  | lockSvn c w => exact execLockSvn_rel rfl (Rel.refl s) h
  | lockFuseKey c w => exact execLockFuseKey_rel rfl (Rel.refl s) h
  | image c w => exact execImage_rel rfl (Rel.refl s) h
  | resume c w => exact execResume_rel rfl (Rel.refl s) h
  | timePpsEdge ageNs => exact execTimePpsEdge_rel rfl (Rel.refl s) h
  | ppsLossTimeout => exact execPpsLossTimeout_rel rfl (Rel.refl s) h
  | setNow => exact execSetNow_rel rfl (Rel.refl s) h
  | setAtPps => exact execSetAtPps_rel rfl (Rel.refl s) h
  | timeModeWrite v => exact execTimeModeWrite_rel rfl (Rel.refl s) h
  | timeAdjWrite v => exact execTimeAdjWrite_rel rfl (Rel.refl s) h
  | frameRefEdge r ageNs => exact execFrameRefEdge_rel rfl (Rel.refl s) h
  | frameEdgeMissing r => exact execFrameEdgeMissing_rel rfl (Rel.refl s) h
  | frameRefEnable r v => exact execFrameRefEnable_rel rfl (Rel.refl s) h
  | frameRefDisable r => exact execFrameRefDisable_rel rfl (Rel.refl s) h
  | frameOutPulse o => exact execFrameOutPulse_rel rfl (Rel.refl s) h
  | takePrepared u => exact execTakePrepared_rel rfl (Rel.refl s) h
  | takeReadinessPoint u => exact execTakeReadinessPoint_rel rfl (Rel.refl s) h
  | takeApplication sets => exact execTakeApplication_rel rfl (Rel.refl s) h
  | takeCommitWrite u => exact execTakeCommitWrite_rel rfl (Rel.refl s) h
  | uncorrectableMemoryError mem index copies => exact execUncorrectableMemoryError_rel rfl (Rel.refl s) h
  | correctableMemoryError kind index mem addr syndrome => exact execCorrectableMemoryError_rel rfl (Rel.refl s) h
  | stkModeWrite v => exact execStkModeWrite_rel rfl (Rel.refl s) h
  | domainKeyWrite v => exact execDomainKeyWrite_rel rfl (Rel.refl s) h
  | keyLockWrite => exact execKeyLockWrite_rel rfl (Rel.refl s) h
  | msgJoin p m => exact execMsgJoin_rel rfl (Rel.refl s) h
  | msgJoinAck p m => exact execMsgJoinAck_rel rfl (Rel.refl s) h
  | msgBlock p m => exact execMsgBlock_rel rfl (Rel.refl s) h
  | msgResult p m => exact execMsgResult_rel rfl (Rel.refl s) h
  | msgHeartbeat p m => exact execMsgHeartbeat_rel rfl (Rel.refl s) h
  | msgTime p m => exact execMsgTime_rel rfl (Rel.refl s) h
  | msgTakeReady p m => exact execMsgTakeReady_rel rfl (Rel.refl s) h
  | msgTakeCommit p m => exact execMsgTakeCommit_rel rfl (Rel.refl s) h
  | msgTakeDone p m => exact execMsgTakeDone_rel rfl (Rel.refl s) h
  | msgTakeover p m => exact execMsgTakeover_rel rfl (Rel.refl s) h
  | msgViral p m => exact execMsgViral_rel rfl (Rel.refl s) h
  | msgGateway p m => exact execMsgGateway_rel rfl (Rel.refl s) h
  | gatewayRepeat p => exact execGatewayRepeat_rel rfl (Rel.refl s) h
  | gatewayTimeout p => exact execGatewayTimeout_rel rfl (Rel.refl s) h
  | heartbeatSend => exact execHeartbeatSend_rel rfl (Rel.refl s) h
  | heartbeatLoss => exact execHeartbeatLoss_rel rfl (Rel.refl s) h
  | timeDistribution => exact execTimeDistribution_rel rfl (Rel.refl s) h
  | promoteWrite => exact execPromoteWrite_rel rfl (Rel.refl s) h
  | stkProxyWrite n v => exact execStkProxyWrite_rel rfl (Rel.refl s) h
  | leafData p leaf => exact execLeafData_rel rfl (Rel.refl s) h
  | leafIdle p leaf => exact execLeafIdle_rel rfl (Rel.refl s) h
  | leafNak p leaf => exact execLeafNak_rel rfl (Rel.refl s) h
  | leafMgmt p leaf => exact execLeafMgmt_rel rfl (Rel.refl s) h
  | leafInit p leaf => exact execLeafInit_rel rfl (Rel.refl s) h
  | leafTransmit p => exact execLeafTransmit_rel rfl (Rel.refl s) h
  | replayTimerExpiry p => exact execReplayTimerExpiry_rel rfl (Rel.refl s) h
  | iflRecoveryExit p => exact execIflRecoveryExit_rel rfl (Rel.refl s) h
  | iflLinkDownTimeout p => exact execIflLinkDownTimeout_rel rfl (Rel.refl s) h
  | symbolLockLoss p lane => exact execSymbolLockLoss_rel rfl (Rel.refl s) h
  | refclkLoss die => exact execRefclkLoss_rel rfl (Rel.refl s) h
  | refclkRestored die => exact execRefclkRestored_rel rfl (Rel.refl s) h
  | adaptationBurst q => exact execAdaptationBurst_rel rfl (Rel.refl s) h
  | adaptationBurstEnd q => exact execAdaptationBurstEnd_rel rfl (Rel.refl s) h
  | patternStart p v => exact execPatternStart_rel rfl (Rel.refl s) h
  | patternStop p => exact execPatternStop_rel rfl (Rel.refl s) h
  | marginStart p v => exact execMarginStart_rel rfl (Rel.refl s) h
  | marginDone p errors cleanT cleanV busy aborted => exact execMarginDone_rel rfl (Rel.refl s) h
  | partnerMarginCommand p lane start => exact execPartnerMarginCommand_rel rfl (Rel.refl s) h
  | presenceChange u long short => exact execPresenceChange_rel rfl (Rel.refl s) h
  | seatedQualified u => exact execSeatedQualified_rel rfl (Rel.refl s) h
  | seatingLost u => exact execSeatingLost_rel rfl (Rel.refl s) h
  | slotBudgetGrant => exact execSlotBudgetGrant_rel rfl (Rel.refl s) h
  | powerGoodQualified u => exact execPowerGoodQualified_rel rfl (Rel.refl s) h
  | perstReleaseTimer u => exact execPerstReleaseTimer_rel rfl (Rel.refl s) h
  | rampTimeout u => exact execRampTimeout_rel rfl (Rel.refl s) h
  | fastTrip u => exact execFastTrip_rel rfl (Rel.refl s) h
  | breakerThresholdCross u above => exact execBreakerThresholdCross_rel rfl (Rel.refl s) h
  | breakerExpiry u => exact execBreakerExpiry_rel rfl (Rel.refl s) h
  | backoffEnd u => exact execBackoffEnd_rel rfl (Rel.refl s) h
  | retryCountReset u => exact execRetryCountReset_rel rfl (Rel.refl s) h
  | slotGrantRelease u => exact execSlotGrantRelease_rel rfl (Rel.refl s) h
  | vinWarn u => exact execVinWarn_rel rfl (Rel.refl s) h
  | warnRelease u => exact execWarnRelease_rel rfl (Rel.refl s) h
  | pwrfailInAssert low => exact execPwrfailInAssert_rel rfl (Rel.refl s) h
  | vinUndervoltage u => exact execVinUndervoltage_rel rfl (Rel.refl s) h
  | vinRestored u => exact execVinRestored_rel rfl (Rel.refl s) h
  | passDeviceFailure u => exact execPassDeviceFailure_rel rfl (Rel.refl s) h
  | controlExchangeLoss => exact execControlExchangeLoss_rel rfl (Rel.refl s) h
  | controlExchangeResume => exact execControlExchangeResume_rel rfl (Rel.refl s) h
  | budgetEvaluation => exact execBudgetEvaluation_rel rfl (Rel.refl s) h
  | capUnmet => exact execCapUnmet_rel rfl (Rel.refl s) h
  | trainingBurstGrant => exact execTrainingBurstGrant_rel rfl (Rel.refl s) h
  | thermalCapStep => exact execThermalCapStep_rel rfl (Rel.refl s) h
  | tempRefresh temps => exact execTempRefresh_rel rfl (Rel.refl s) h
  | thermtrip sensor => exact execThermtrip_rel rfl (Rel.refl s) h
  | avsWriteFailure => exact execAvsWriteFailure_rel rfl (Rel.refl s) h
  | cmdLinkTrained link r twoLinks => exact execCmdLinkTrained_rel rfl (Rel.refl s) h
  | perstAssert link => exact execPerstAssert_rel rfl (Rel.refl s) h
  | barAccess link bar off write bytes => exact execBarAccess_rel rfl (Rel.refl s) h
  | handover link => exact execHandover_rel rfl (Rel.refl s) h
  | claim link => exact execClaim_rel rfl (Rel.refl s) h
  | autoFailover => exact execAutoFailover_rel rfl (Rel.refl s) h
  | mctpControlMessage cmd arg => exact execMctpControlMessage_rel rfl (Rel.refl s) h
  | pldmMessage cmd sensor => exact execPldmMessage_rel rfl (Rel.refl s) h
  | mctpOtherType type => exact execMctpOtherType_rel rfl (Rel.refl s) h
  | dynamicAddressAssign i3c addr => exact execDynamicAddressAssign_rel rfl (Rel.refl s) h
  | imageReadDone src readable directory image => exact execImageReadDone_rel rfl (Rel.refl s) h
  | imageVerifyDone ms => exact execImageVerifyDone_rel rfl (Rel.refl s) h
  | bootGo => exact execBootGo_rel rfl (Rel.refl s) h
  | resetNAssert => exact execResetNAssert_rel rfl (Rel.refl s) h
  | deviceResetRelease st => exact execDeviceResetRelease_rel rfl (Rel.refl s) h
  | brownout rail => exact execBrownout_rel rfl (Rel.refl s) h
  | counterFreezeWrite => exact execCounterFreezeWrite_rel rfl (Rel.refl s) h
  | counterReleaseWrite => exact execCounterReleaseWrite_rel rfl (Rel.refl s) h
  | shadowCopyEnd => exact execShadowCopyEnd_rel rfl (Rel.refl s) h
  | selectorWrite n sel => exact execSelectorWrite_rel rfl (Rel.refl s) h
  | unitLogClear v => exact execUnitLogClear_rel rfl (Rel.refl s) h
  | glbLockWrite v => exact execGlbLockWrite_rel rfl (Rel.refl s) h
  | histSelectWrite v => exact execHistSelectWrite_rel rfl (Rel.refl s) h
  | rgrpSelectWrite v => exact execRgrpSelectWrite_rel rfl (Rel.refl s) h
  | ecmpSelectWrite v => exact execEcmpSelectWrite_rel rfl (Rel.refl s) h
  | meterSelectWrite q v => exact execMeterSelectWrite_rel rfl (Rel.refl s) h
  | tapReset => exact execTapReset_rel rfl (Rel.refl s) h
  | tapBypass => exact execTapBypass_rel rfl (Rel.refl s) h
  | tapIdcode => exact execTapIdcode_rel rfl (Rel.refl s) h
  | tapSamplePreload capture => exact execTapSamplePreload_rel rfl (Rel.refl s) h
  | tapExtest => exact execTapExtest_rel rfl (Rel.refl s) h
  | tapClamp => exact execTapClamp_rel rfl (Rel.refl s) h
  | tapHighz => exact execTapHighz_rel rfl (Rel.refl s) h
  | powerUp => exact execPowerUp_rel rfl (Rel.refl s) h
  | supplyLoss rail => exact execSupplyLoss_rel rfl (Rel.refl s) h
  | linkRecoveryExit p => exact execLinkRecoveryExit_rel rfl (Rel.refl s) h
  | patternCheckerSync p lane inverted => exact execPatternCheckerSync_rel rfl (Rel.refl s) h
  | malformedLeaf p leaf => exact execMalformedLeaf_rel rfl (Rel.refl s) h
  | perstDeassert link => exact execPerstDeassert_rel rfl (Rel.refl s) h
  | commandLinkHotReset link => exact execCommandLinkHotReset_rel rfl (Rel.refl s) h
  | breakerArmed u => exact execBreakerArmed_rel rfl (Rel.refl s) h
  | dramWriteAccepted line second => exact execDramWriteAccepted_rel rfl (Rel.refl s) h
  | fuseWriteDone => exact execFuseWriteDone_rel rfl (Rel.refl s) h

end Sys2Proof.Machine
end

