-- ==== Sys2Proof/Laws/AboutAccess.lean ====
section
/-!
SUPPORT. Lemmas about register accesses and context pages.
-/

namespace Sys2Proof.Laws.AboutAccess

open Sys2Proof Sys2Proof.Machine Sys2Proof.Safety

theorem lo32_eq (p : W64) : lo32 p = p.setWidth 32 := rfl
theorem latch_get (l : List (Master × Nat × W32)) (m : Master) (a : Nat) (v : W32) : latchGet ((m, a, v) :: latchDel l m a) m a = some v := by
  simp [latchGet]
theorem only1 {p : Part} {s t : State} (h : ∀ q, q ≠ p → same s t q) : onlyIn [p] s t := fun q hq => h q (by simpa using hq)
theorem dklLog_tab (s : State) (k : Nat) (t : Option Nat) (sp src l d n : Nat) : (dklLog s k t sp src l d n).dkl.tab = s.dkl.tab := by
  unfold dklLog
  dsimp only
  rw [(tenEv?_rel (ch := 4294967295 - 512) rfl (Rel.refl _)).same .dkl rfl, (stewIf_rel (ch := 4294967295 - 512) rfl (Rel.refl _)).same .dkl rfl]
  dsimp only
  have e : (setDklEvent s.dkl k).tab = s.dkl.tab := by unfold setDklEvent; split <;> rfl
  split <;> exact e
theorem gl_tab (s : State) (m : Master) (sp a : Nat) (w : Bool) (v : Verdict) (n : Nat) : (gateLog s m sp a w v n).dkl.tab = s.dkl.tab := dklLog_tab _ _ _ _ _ _ _ _
theorem wake_rings (x : Ctx) : (wake x).rings = x.rings := by unfold wake; split <;> rfl
theorem wake_ring (x : Ctx) (r : Nat) : getRing (wake x) r = getRing x r := by unfold getRing; rw [wake_rings]
theorem setRing_get (x : Ctx) (r q : Nat) (g : Ring) : getRing (setRing x r g) q = if q = r then g else getRing x q := by
  unfold getRing setRing; exact tget_tput _ _ _ _ _
theorem sans_f {x y : Ctx} (h : sansEvents x = sansEvents y) : x.rings = y.rings ∧ x.st = y.st := by
  have a : (sansEvents x).rings = (sansEvents y).rings := by rw [h]
  have b : (sansEvents x).st = (sansEvents y).st := by rw [h]
  exact ⟨a, b⟩
theorem kset_kget (x : Ctx) (d i : BitVec 4) (v : W64) : kget (kset x d v) i = if i = d ∧ i ≠ 0 then v else kget x i := by
  rw [kget_kset]
  by_cases h : i = d
  · subst h; simp
  · simp [h]
theorem cqWrite_q (s : State) (c : Nat) (r : Rec) : (getCtx (cqWrite s c r) c).due = (getCtx s c).due ∧
    (getCtx (cqWrite s c r) c).cqTail = ((getCtx s c).cqTail + 1) % 2 ^ ringLog (getCtx s c).cqCfg := by
  have a : ∀ (u : State) cfg ad b, getCtx (ringWrite u cfg ad b) c = getCtx u c := by
    intro u cfg ad b; unfold ringWrite; split <;> rfl
  have b : ∀ (u : State) e t n, getCtx (countEv u e c t n) c = getCtx u c := fun u e t n => getCtx_congr countEv_seq c
  have d : ∀ (u : State) v, getCtx (vecSend u c v) c = getCtx u c := fun u v => getCtx_congr vecSend_seq c
  unfold cqWrite
  dsimp only
  split
  · rw [d, getCtx_modCtx, if_pos rfl, b, getCtx_modCtx, if_pos rfl, a]; exact ⟨rfl, rfl⟩
  · rw [b, getCtx_modCtx, if_pos rfl, a]; exact ⟨rfl, rfl⟩

end Sys2Proof.Laws.AboutAccess
end

