-- ==== Sys2Proof/Laws/AboutAlu.lean ====
section
/-!
SUPPORT. Lemmas about arithmetic, logic and shift instructions.
-/

namespace Sys2Proof.Laws.AboutAlu

open Sys2Proof Sys2Proof.Machine Sys2Proof.Safety

theorem u18 {c : Nat} (h : c < 18) (s : State) : unitOk (c < 18) s = .next s := by simp [unitOk, h]
theorem alu_ok {c op : Nat} {w : Ox} {f : W64 → W64 → Alu} {s : State} {chk : W64 → List (Bool × Nat)} {i : Instr} {r : W64} {cf vf : Prop}
    (h : Issues s c op w (srcShape w 1 true)) (hi : exec i s = unitOk (c < 18) (aluRun c op w true chk f s))
    (hc : ∀ e ∈ chk (src2 (getCtx s c) w), e.1 = false)
    (hr : (f (kget (getCtx s c) w.a) (src2 (getCtx s c) w)).r = r)
    (hcf : (f (kget (getCtx s c) w.a) (src2 (getCtx s c) w)).c = true ↔ cf)
    (hv : (f (kget (getCtx s c) w.a) (src2 (getCtx s c) w)).v = true ↔ vf) :
    ∃ t, exec i s = .next t ∧ Wrote s t c w.d r ∧ flagsIf s t c (bit w.mod 0) r cf vf := by
  obtain ⟨a, b, d⟩ := aluRun_done (hasF := true) (chk := chk) (f := f) h hc
  refine ⟨_, by rw [hi, u18 h.unit], ?_, ?_, d⟩
  · rw [← hr]; exact a
  · by_cases hb : bit w.mod 0 = true
    · rw [if_pos hb]
      rw [Bool.true_and, if_pos hb] at b
      exact flagsAre_of b hr hcf hv
    · rw [if_neg hb]
      rw [Bool.true_and, if_neg hb] at b
      exact b
theorem fits_iff (x : Int) : (!fits64 x) = true ↔ ¬fits x := by
  simp only [fits64, fits, Bool.not_eq_true', Bool.and_eq_false_iff, decide_eq_false_iff_not]
  constructor
  · rintro h ⟨a, b⟩; omega
  · intro h; omega

end Sys2Proof.Laws.AboutAlu
end

