-- ==== Sys2Proof/Laws/AboutBudget.lean ====
section
/-!
SUPPORT. Lemmas about the budget evaluation, temperatures and pace.
-/

namespace Sys2Proof.Laws.AboutBudget

open Sys2Proof Sys2Proof.Machine Sys2Proof.Safety

theorem okU {u : Bool} {x t : State} (hu : u = true) (h : x = t) : unitOk u x = .next t := by rw [unitOk_of hu, h]
theorem cntAdd_f (s : State) (a n : Nat) : (cntAdd s a n).pwr = s.pwr ∧ (cntAdd s a n).pace = s.pace := by unfold cntAdd; split <;> exact ⟨rfl, rfl⟩
theorem loopEval_pace (s : State) (p : Nat) : (loopEval s p).pace = s.pace := by
  unfold loopEval; split
  · rfl
  · dsimp only; split <;> rfl
theorem powerEv_f (s : State) : (powerEv s).pwr = s.pwr ∧ (powerEv s).pace = s.pace :=
  have h := powerEv_rel (ch := 4294967295 - 4 - 8) rfl (Rel.refl s)
  ⟨h.same .pwr rfl, h.same .pace rfl⟩
theorem floorStep_pwr (s : State) (p : Nat) : (floorStep s p).pwr = s.pwr := by
  unfold floorStep; split
  · rfl
  · dsimp only; split <;> split <;> first | exact (powerEv_f _).1 | rfl
theorem loopEval_vcore (s : State) (p : Nat) : (loopEval s p).pwr.vcore = if s.pwr.loopEn = false then s.pwr.vcore else loopStep s p := by
  unfold loopEval
  by_cases e : s.pwr.loopEn = false
  · rw [if_pos (by simp [e]), if_pos e]
  · rw [if_neg (by simpa using e), if_neg e]
    dsimp only
    split <;> rfl
theorem full_of {s u : State} (l : Tab Nat) (b : Bool) (hu : u = { s with pwr := { s.pwr with level := l, class4Moved := b } }) (c : Nat) : fullCharge u c = fullCharge s c := by
  subst hu; unfold fullCharge; split <;> rfl
theorem charge_le (s : State) (c : Nat) : charge s c ≤ fullCharge s c := by
  unfold charge; split
  · exact Nat.le_refl _
  · exact Nat.div_le_of_le_mul (by rw [Nat.mul_comm]; exact Nat.mul_le_mul_right _ (by omega))
theorem limitSteps_id {s u : State} (h : ∀ k, 1 ≤ k → k ≤ 5 → fullCharge s k ≤ limitOf s k) (l : Tab Nat) (b : Bool)
    (hu : u = { s with pwr := { s.pwr with level := l, class4Moved := b } }) : limitSteps u = u := by
  have g : ∀ k, 1 ≤ k → k ≤ 5 → ¬ (limitOf u k < charge u k) := by
    intro k h1 h2
    have a := charge_le u k
    rw [full_of l b hu] at a
    have e : limitOf u k = limitOf s k := by subst hu; rfl
    have := h k h1 h2
    omega
  have st : ∀ k, 1 ≤ k → k ≤ 5 → (if limitOf u k < charge u k && levelOf u k < 8 then stepLevel u k true else u) = u := by
    intro k h1 h2
    exact if_neg (by simp [g k h1 h2])
  unfold limitSteps forL
  simp only [List.foldl_cons, List.foldl_nil]
  rw [st 1 (by decide) (by decide), st 2 (by decide) (by decide), st 3 (by decide) (by decide), st 4 (by decide) (by decide), st 5 (by decide) (by decide)]
theorem find_first (p : Nat → Bool) (l : List Nat) (k : Nat) (hp : p k = true) (pre post : List Nat) (hl : l = pre ++ k :: post) (h : ∀ j ∈ pre, p j = false) :
    l.find? p = some k := by
  subst hl
  rw [List.find?_append, List.find?_eq_none.2 (fun j hj => by simp [h j hj])]
  simp [hp]
theorem fold_put (f : Nat → Nat) (l : List Nat) (m : Tab Nat) (j : Nat) :
    tget 0 (l.foldl (fun m i => tput 0 m i (f i)) m) j = if j ∈ l then f j else tget 0 m j := by
  induction l generalizing m with
  | nil => simp
  | cons a l ih =>
    simp only [List.foldl_cons, ih, tget_tput]
    by_cases h : j = a
    · subst h; simp
    · simp [h]
theorem fold_max (f : Nat → Nat) (l : List Nat) (hl : l.Nodup) (m : Tab Nat) (j : Nat) :
    tget 0 (l.foldl (fun m i => tput 0 m i (max (tget 0 m i) (f i))) m) j = if j ∈ l then max (tget 0 m j) (f j) else tget 0 m j := by
  induction l generalizing m with
  | nil => simp
  | cons a l ih =>
    obtain ⟨h1, h2⟩ := List.nodup_cons.1 hl
    simp only [List.foldl_cons, ih h2, tget_tput]
    by_cases h : j = a
    · subst h; simp [h1]
    · simp [h]
theorem msix_pldm (s : State) (v : Nat) : (msixSend s v).cmd.pldmEvents = s.cmd.pldmEvents := by
  unfold msixSend; dsimp only; split
  · rfl
  · split <;> rfl
theorem vecSend_pldm (s : State) (c v : Nat) : (vecSend s c v).cmd.pldmEvents = s.cmd.pldmEvents := by
  unfold vecSend; dsimp only; split
  · rfl
  · exact msix_pldm _ _
theorem powerEv_pldm (u : State) : (powerEv u).cmd.pldmEvents = u.cmd.pldmEvents := by
  have z : ∀ u : State, ∀ c e t n, (countEv u c e t n).cmd = u.cmd := fun u c e t n => countEv_cmd
  unfold powerEv evLatch evtVec
  dsimp only
  split
  · rfl
  · split
    · rw [z]
    · split
      · split
        · rw [vecSend_pldm]; rfl
        · rfl
      · rfl

end Sys2Proof.Laws.AboutBudget
end

