-- ==== Sys2Proof/Laws/AboutControl.lean ====
section
/-!
SUPPORT. Lemmas about control and event instructions.
-/

namespace Sys2Proof.Laws.AboutControl

open Sys2Proof Sys2Proof.Machine Sys2Proof.Safety

theorem u18 {c : Nat} (h : c < 18) (s : State) : unitOk (c < 18) s = .next s := by simp [unitOk, h]
theorem kept_of {s t : State} (h : ∀ j, regs (getCtx t j) = regs (getCtx s j)) : flagsKept s t ∧ same s t .registers :=
  ⟨fun j => flags_of_regs (h j), fun j => ⟨fun i => kget_of_regs (h j) i, flags_of_regs (h j)⟩⟩
theorem regsSt (s : State) (c op : Nat) (w : Ox) (st : Nat) (j : Nat) : regs (getCtx (endTurn (retireSt (begun s c) c op w st) c) j) = regs (getCtx s j) := by
  rw [getCtx_endTurn, retireSt_regs, begun_regs]
theorem ret_ok (s : State) (c op : Nat) (w : Ox) (st : Nat) : Retired s (endTurn (retireSt (begun s c) c op w st) c) c :=
  retireSt_retired (Rel.mono rfl (begun_only s c)) (fun j i => begun_kget s c j i) (fun f hf => begun_prog s c f hf)
theorem ex {i : Instr} {s t : State} {p : State → Prop} (h : exec i s = .next t) (hp : p t) : ∃ t, exec i s = .next t ∧ p t := ⟨t, h, hp⟩
theorem fence_iff (s : State) (c : Nat) (w : Ox) : fenceOpen (begun s c) c (fld w.mod 0 3) = true ↔
    ¬((bit w.mod 0 = true ∧ (getCtx s c).stores ≠ 0) ∨ (bit w.mod 1 = true ∧ movesOpen s c = true) ∨
      (bit w.mod 2 = true ∧ takesOpen s c = true)) := by
  have a : movesOpen (begun s c) c = movesOpen s c := by unfold movesOpen; rw [begun_mov]
  have b : takesOpen (begun s c) c = takesOpen s c := by unfold takesOpen; rw [begun_time]
  have d : (getCtx (begun s c) c).stores = (getCtx s c).stores := (begun_data s c c).stores
  have m0 : (fld w.mod 0 3 % 2 == 0) = !bit w.mod 0 := by
    have : fld w.mod 0 3 % 2 = w.mod.toNat / 2 ^ 0 % 2 := by simp only [fld]; omega
    rw [this, bit]; rcases Nat.mod_two_eq_zero_or_one (w.mod.toNat / 2^0) with h | h <;> rw [h] <;> rfl
  have m1 : (fld w.mod 0 3 / 2 % 2 == 0) = !bit w.mod 1 := by
    have : fld w.mod 0 3 / 2 % 2 = w.mod.toNat / 2 ^ 1 % 2 := by simp only [fld]; omega
    rw [this, bit]; rcases Nat.mod_two_eq_zero_or_one (w.mod.toNat / 2^1) with h | h <;> rw [h] <;> rfl
  have m2 : (fld w.mod 0 3 / 4 % 2 == 0) = !bit w.mod 2 := by
    have : fld w.mod 0 3 / 4 % 2 = w.mod.toNat / 2 ^ 2 % 2 := by simp only [fld]; omega
    rw [this, bit]; rcases Nat.mod_two_eq_zero_or_one (w.mod.toNat / 2^2) with h | h <;> rw [h] <;> rfl
  unfold fenceOpen
  rw [a, b, d, m0, m1, m2]
  cases bit w.mod 0 <;> cases bit w.mod 1 <;> cases bit w.mod 2 <;> cases movesOpen s c <;> cases takesOpen s c <;> simp
theorem yield_turn (q : State) (c : Nat) (ht : (endTurn (if q.seq.turn = c then { q with seq := { q.seq with left := 0 } } else q) c).seq.turn = c) :
    (endTurn (if q.seq.turn = c then { q with seq := { q.seq with left := 0 } } else q) c).seq.left = 0 := by
  by_cases h : q.seq.turn = c
  · rw [if_pos h]; unfold endTurn; split <;> rfl
  · rw [if_neg h] at ht ⊢
    unfold endTurn at ht
    split at ht <;> exact absurd ht h

end Sys2Proof.Laws.AboutControl
end

