-- ==== Sys2Proof/Laws/AboutDevice.lean ====
section
/-!
SUPPORT. Lemmas about device resets, trips and supplies.
-/

namespace Sys2Proof.Laws.AboutDevice

open Sys2Proof Sys2Proof.Machine Sys2Proof.Safety

theorem tget_all {α : Type} {P : α → Prop} {d : α} (hd : P d) (l : Tab α) (h : ∀ e ∈ l, P e.2) (j : Nat) : P (tget d l j) := by
  induction l with
  | nil => exact hd
  | cons a l ih =>
    show P (if a.1 = j then a.2 else tget d l j)
    split
    · exact h a (List.mem_cons_self ..)
    · exact ih fun e he => h e (List.mem_cons_of_mem _ he)
theorem cold_ports (s : State) (j : Nat) : (getPort (coldState s) j).enabled = false := by
  refine tget_all (P := fun x : Port => x.enabled = false) rfl _ (fun e he => ?_) j
  have he : e ∈ refsKept s := he
  unfold refsKept at he
  obtain ⟨a, _, ha⟩ := List.mem_filterMap.1 he
  split at ha
  · exact absurd ha (by simp)
  · cases ha; exact (show bit ({} : Port).cfg 31 = false from by decide)
theorem kept_off (x : Slot) : gated (slotKept x).st = false := by
  show gated (if x.st == .pdf then SlotSt.pdf else .off) = false
  split <;> rfl
theorem cold_slots (s : State) (j : Nat) : gated (getSlot (coldState s) j).st = false := by
  refine tget_all (P := fun x : Slot => gated x.st = false) rfl _ (fun e he => ?_) j
  have he : e ∈ (s.slot.map fun e => (e.1, slotKept e.2)).filter fun e => e.2 != {} := he
  obtain ⟨a, _, ha⟩ := List.mem_map.1 (List.mem_filter.1 he).1
  rw [← ha]
  exact kept_off _
theorem tapEnd_eq (s : State) : ∃ x, tapEnd s = { s with tap := x } := by
  unfold tapEnd
  split
  · exact ⟨_, rfl⟩
  · exact ⟨s.tap, rfl⟩
theorem cold_same (s : State) : ∀ p, p ∈ [Part.pool, .home, .dkl, .seq, .mov, .time, .ten, .quire, .core, .cnt, .stk, .slotHold, .pairLo,
      .pairHi, .dram, .store, .sheets, .deckles, .registers] → same State.reset (coldState s) p := by
  intro p hp
  have e : (coldState s).seq = State.reset.seq := rfl
  simp only [List.mem_cons, List.not_mem_nil, or_false] at hp
  rcases hp with rfl | rfl | rfl | rfl | rfl | rfl | rfl | rfl | rfl | rfl | rfl | rfl | rfl | rfl | rfl | rfl | rfl | rfl | rfl <;>
    first | rfl | exact ⟨rfl, rfl⟩ | skip
  intro c
  rw [getCtx_congr e]
  exact ⟨fun _ => rfl, rfl, rfl, rfl, rfl⟩
theorem dr (s : State) (f : Glb → Glb) (h : s.glb.inReset = true) (hf : (f s.glb).inReset = s.glb.inReset) : deviceReset s f = { s with glb := f s.glb } := by
  unfold deviceReset
  dsimp only
  rw [if_pos (by rw [hf, h])]
theorem drF (s : State) (f : Glb → Glb) (h : s.glb.inReset = false) (hf : (f s.glb).inReset = s.glb.inReset) : ∃ x : Tap, deviceReset s f =
    coldState { s with glb := { f s.glb with resets := satAdd 255 (f s.glb).resets 1 }, tap := x } := by
  unfold deviceReset
  dsimp only
  rw [if_neg (by rw [hf, h]; simp)]
  obtain ⟨x, e⟩ := tapEnd_eq { s with glb := { f s.glb with resets := satAdd 255 (f s.glb).resets 1 } }
  exact ⟨x, congrArg coldState e⟩
theorem dr_same (s : State) (g : Glb) (p : Part) (hp : p ≠ .glb) : same s { s with glb := g } p := by
  cases p <;> first | rfl | exact ⟨rfl, rfl⟩ | exact fun _ => ⟨fun _ => rfl, rfl, rfl, rfl, rfl⟩ | exact absurd rfl hp
theorem bs (g : Glb) (f : Bool) : (bootStart g f).inReset = g.inReset ∧ (bootStart g f).straps = g.straps ∧ (bootStart g f).bootStage =
    if f = true then 5 else if g.life = .returned then 4 else if g.straps.bootSrc = 1 then 2 else if g.straps.bootSrc = 3 then 5 else 1 := by
  unfold bootStart
  by_cases hf : f = true
  · rw [if_pos hf, if_pos hf]; exact ⟨rfl, rfl, rfl⟩
  rw [if_neg hf, if_neg hf]
  by_cases hl : g.life = .returned
  · rw [if_pos hl, if_pos hl]; exact ⟨rfl, rfl, rfl⟩
  rw [if_neg hl, if_neg hl]
  split
  · rename_i e
    rw [if_pos (BitVec.eq_of_toNat_eq e)]; exact ⟨rfl, rfl, rfl⟩
  · rename_i e
    have : g.straps.bootSrc = 3 := BitVec.eq_of_toNat_eq e
    rw [this]; exact ⟨rfl, rfl, rfl⟩
  · rename_i e1 e2
    rw [if_neg (fun h => e1 (by rw [h]; rfl)), if_neg (fun h => e2 (by rw [h]; rfl))]; exact ⟨rfl, rfl, rfl⟩

end Sys2Proof.Laws.AboutDevice
end

