-- ==== Sys2Proof/Laws/AboutEgress.lean ====
section
/-!
SUPPORT. Lemmas about messages that leave the core.
-/

namespace Sys2Proof.Laws.AboutEgress

open Sys2Proof Sys2Proof.Machine Sys2Proof.Safety

theorem countEv_c (u : State) (a b c d) : (countEv u a b c d).core = u.core := (countEv_rel (ch := 131072) rfl (Rel.refl u)).same .core rfl
theorem portCount_c (u : State) (a b c d) : (portCount u a b c d).core = u.core := (portCount_rel (ch := 131072) rfl (Rel.refl u)).same .core rfl
theorem topDown_c (u : State) (a b c d e) : (topDown u a b c d e).core = u.core := (topDown_rel (ch := 131072) rfl (Rel.refl u)).same .core rfl
theorem part1 (s : State) (p : Nat) (hp : p < 109) :
      let moved := fun (k : Pkt) (r : Nat) (t : State) =>
        t.core.pkts = (s.core.pkts.filter fun x => x.id != k.id) ++ [{ k with stage := .voq, rank := r }]
      (∀ k, pickCad s p = some k → hasRoom s p (cells k.msg) = true → ∃ t, exec (.egressSelection p) s = .next t ∧ moved k 0 t) ∧
      (∀ k q, pickCad s p = none → (pickTier s p 0 = some (k, q) ∨ pickTier s p 0 = none ∧ pickTier s p 1 = some (k, q)) →
        hasRoom s p (cells k.msg) = true →
        ∃ t, exec (.egressSelection p) s = .next t ∧ moved k (if k.resp then 1 else 2) t) ∧
      (pickCad s p = none → pickTier s p 0 = none → pickTier s p 1 = none → exec (.egressSelection p) s = .next s) := by
  intro moved
  have hr : ∀ k r, (release s k r).core.pkts = (s.core.pkts.filter fun x => x.id != k.id) ++ [{ k with stage := .voq, rank := r }] := by
    intro k r; unfold release movePkt; rw [setPkts_pkts]
  refine ⟨fun k hk hr' => ?_, fun k q h1 h2 h3 => ?_, fun h1 h2 h3 => ?_⟩
  · refine ⟨_, unitOk_next (decide_eq_true hp) rfl, ?_⟩
    unfold selectOut
    rw [hk]
    dsimp only
    rw [if_pos hr']
    unfold releaseCad
    split
    · exact hr k 0
    · exact hr k 0
  · refine ⟨_, unitOk_next (decide_eq_true hp) rfl, ?_⟩
    unfold selectOut
    rw [h1]
    have e : ((pickTier s p 0).orElse fun _ => pickTier s p 1) = some (k, q) := by
      rcases h2 with h | ⟨h, h'⟩
      · rw [h]; rfl
      · rw [h]; exact h'
    dsimp only
    rw [e]
    dsimp only
    rw [if_pos h3]
    unfold releaseDrr
    exact hr k _
  · refine unitOk_next (decide_eq_true hp) ?_
    unfold selectOut
    rw [h1, h2, h3]
    rfl
theorem flit_eq (s : State) (p : Nat) (hp : p < 96) (h1 : carrying s p = true) (h2 : roleOf (getPort s p) ≠ 5) :
    exec (.flitSend p) s = .next (sendFlit p s) := unitOk_next (decide_eq_true hp) (if_pos (by simp [h1, h2]))
theorem wh (s : State) (p : Nat) (f : Quire → Quire) : nextSend (modQuire s (quireOf p) f) p = nextSend s p := rfl
theorem part2 (s : State) (p : Nat) (hp : p < 96) (h1 : carrying s p = true) (h2 : roleOf (getPort s p) ≠ 5) :
      (nextSend s p = none → ∃ t, exec (.flitSend p) s = .next t ∧ t.core = s.core ∧ t.port = s.port ∧ t.out = s.out) ∧
      (∀ k, nextSend s p = some k → k.sent = 0 → egressBad s p k = none → sendable k = cells k.msg → 0 < cells k.msg →
        cells k.msg ≤ (wireUnit s p).1 → (∀ i, k.org ≠ .mirror i) → kind1Copy s k = none →
        ∃ t l, exec (.flitSend p) s = .next t ∧ t.out = s.out ++ .linkMsg p (onLink s p k.msg) :: l) := by
  refine ⟨fun h => ?_, fun k hk h0 hb hs hpos hle hm hc => ?_⟩
  · refine ⟨_, flit_eq s p hp h1 h2, ?_⟩
    unfold sendFlit
    dsimp only
    generalize hu : modQuire s (quireOf p) (fun q => { q with wheelTx := p % 8 }) = u
    have hn : nextSend u p = none := by rw [← hu, wh, h]
    have e : ∀ n, fillFlit p (u.core.pkts.length + 5) n u = (0, u) := by
      intro n
      cases n with
      | zero => rfl
      | succ n => unfold fillFlit; rw [hn]
    rw [e]
    rw [if_pos rfl]
    have hrel : Rel 131072 u (topDown u 1 (2 * quireOf p + 1) (if (u.core.pkts.any fun k => k.out == p && 0 < sendable k) = true then 3 else 2) none 1) :=
      topDown_rel rfl (Rel.refl u)
    have hu' : u.core = s.core ∧ u.port = s.port ∧ u.out = s.out := by subst hu; exact ⟨rfl, rfl, rfl⟩
    exact ⟨(hrel.f16 rfl).trans hu'.1, (hrel.f14 rfl).trans hu'.2.1, (hrel.f22 rfl).trans hu'.2.2⟩
  · suffices hh : ∃ l, (sendFlit p s).out = s.out ++ .linkMsg p (onLink s p k.msg) :: l by
      obtain ⟨l, hl⟩ := hh
      exact ⟨_, l, flit_eq s p hp h1 h2, hl⟩
    unfold sendFlit
    dsimp only
    generalize hu : modQuire s (quireOf p) (fun q => { q with wheelTx := p % 8 }) = u
    have hn : nextSend u p = some k := by rw [← hu, wh, hk]
    have hwu : wireUnit u p = wireUnit s p := by rw [← hu]; rfl
    have hbu : egressBad u p k = none := by rw [← hu]; exact hb
    have hou : u.out = s.out := by rw [← hu]; rfl
    have hlu : onLink u p k.msg = onLink s p k.msg := by rw [← hu]; rfl
    have hcu : kind1Copy u k = none := by rw [← hu]; exact hc
    rw [hwu]
    obtain ⟨n, hn'⟩ : ∃ n, (wireUnit s p).1 = n + 1 := ⟨(wireUnit s p).1 - 1, by omega⟩
    have key : ∃ l, (placeCells u p k (cells k.msg)).out = s.out ++ .linkMsg p (onLink s p k.msg) :: l := by
      unfold placeCells
      dsimp only
      rw [if_pos h0, if_pos (by rw [h0]; omega)]
      obtain ⟨l, hl⟩ := (handOff_rel (ch := 29559810) (x1 := { k with sent := k.sent + cells k.msg }) (x2 := p) rfl
        (Rel.refl (emitMsg (takeCredit u p k.resp) p { k with sent := k.sent + cells k.msg }))).grow
      refine ⟨l, hl.trans ?_⟩
      have hem : (emitMsg (takeCredit u p k.resp) p { k with sent := k.sent + cells k.msg }).out = s.out ++ [.linkMsg p (onLink s p k.msg)] := by
        unfold emitMsg
        have hk1 : kind1Copy (takeCredit u p k.resp) { k with sent := k.sent + cells k.msg } = none := hcu
        have hrole : onLink (takeCredit u p k.resp) p k.msg = onLink u p k.msg := by
          unfold onLink proxyOut takeCredit
          have hr : roleOf (getPort (modPort u p fun x => if k.resp = true then { x with rspCredit := x.rspCredit - 1 } else { x with reqCredit := x.reqCredit - 1 }) p) = roleOf (getPort u p) := by
            rw [getPort_modPort, if_pos rfl]; split <;> rfl
          have hg : (getPort (modPort u p fun x => if k.resp = true then { x with rspCredit := x.rspCredit - 1 } else { x with reqCredit := x.reqCredit - 1 }) p).gw = (getPort u p).gw := by
            rw [getPort_modPort, if_pos rfl]; split <;> rfl
          rw [hr]
          dsimp only
          rw [hg]
          rfl
        rw [hk1]
        dsimp only
        split
        · exact absurd ‹_› (hm _)
        · cases ‹none = some _›
        · show u.out ++ _ = _
          rw [hou, hrole, hlu]
      rw [hem]
      simp
    have e : ∃ m, fillFlit p (u.core.pkts.length + 5) (n + 1) u =
        (cells k.msg + (fillFlit p (u.core.pkts.length + 4) m (placeCells u p k (cells k.msg))).1, (fillFlit p (u.core.pkts.length + 4) m (placeCells u p k (cells k.msg))).2) := by
      refine ⟨n + 1 - cells k.msg, ?_⟩
      conv => lhs; unfold fillFlit
      rw [hn]
      dsimp only
      rw [if_pos h0, hbu]
      dsimp only
      rw [hs, Nat.min_eq_right (by omega)]
    obtain ⟨m, e⟩ := e
    rw [hn', e]
    rw [if_neg (by dsimp only; omega)]
    obtain ⟨l, hl⟩ := key
    obtain ⟨l2, hl2⟩ := (fillFlit_rel (ch := 29576194) (x0 := p) (x1 := u.core.pkts.length + 4) (x2 := m) rfl (Rel.refl (placeCells u p k (cells k.msg)))).grow
    generalize (fillFlit p (u.core.pkts.length + 4) m (placeCells u p k (cells k.msg))).2 = v at hl2 ⊢
    refine ⟨l ++ l2, ?_⟩
    have := (topDown_rel (ch := 131072) (x1 := 1) (x2 := 2 * quireOf p + 1) (x3 := 0) (x4 := none) (x5 := 1) rfl (portCount_rel (ch := 131072) (x1 := p) (x2 := 3) (x3 := none) (x4 := (wireUnit s p).2) rfl
      (portCount_rel (ch := 131072) (x1 := p) (x2 := 1) (x3 := none) (x4 := 1) rfl (Rel.refl v)))).f22 rfl
    rw [this, hl2, hl]
    simp
theorem leaf_out (s : State) (p seq cls type : Nat) (cont : Bool) (nslots : Nat) (b : List Byte) (idle : Bool) :
    ∃ h, (sendLeaf s p seq cls type cont nslots b idle).out = s.out ++ [.leaf p (leafBytes h b)] ∧ h.type = type ∧ h.nslots = nslots ∧ h.seq = seq ∧
      h.ack = (getPort s p).ifl.lastRx ∧ h.req = (getPort s p).ifl.reqUsed ∧ h.rsp = (getPort s p).ifl.rspUsed ∧
      (getPort (sendLeaf s p seq cls type cont nslots b idle) p).ifl.lastRx = (getPort s p).ifl.lastRx ∧
      (getPort (sendLeaf s p seq cls type cont nslots b idle) p).ifl.reqUsed = (getPort s p).ifl.reqUsed ∧
      (getPort (sendLeaf s p seq cls type cont nslots b idle) p).ifl.rspUsed = (getPort s p).ifl.rspUsed ∧
      (sendLeaf s p seq cls type cont nslots b idle).core = s.core := by
  unfold sendLeaf
  dsimp only
  refine ⟨{ seq := seq, ack := (getPort s p).ifl.lastRx, cls := cls, type := type, req := (getPort s p).ifl.reqUsed, rsp := (getPort s p).ifl.rspUsed, nslots := nslots, cont := cont, resv := 0 }, ?_, rfl, rfl, rfl, rfl, rfl, rfl, ?_⟩
  · exact (topDown_rel (ch := 131072) rfl (portCount_rel (ch := 131072) rfl (portCount_rel (ch := 131072) rfl (Rel.refl _)))).f22 rfl
  · generalize hv : emit _ _ = v
    have r := topDown_rel (ch := 131072) (x1 := 1) (x2 := 2 * quireOf p + 1) (x3 := if idle = true then 2 else 0) (x4 := none) (x5 := 1) rfl (portCount_rel (ch := 131072) (x1 := p) (x2 := 3) (x3 := none) (x4 := 256) rfl
      (portCount_rel (ch := 131072) (x1 := p) (x2 := 1) (x3 := none) (x4 := 1) rfl (Rel.refl v)))
    rw [getPort_congr (r.f14 rfl), r.f16 rfl]
    have : ∀ g, getPort v p = getPort (modIfl s p g) p → (∀ x, (g x).lastRx = x.lastRx ∧ (g x).reqUsed = x.reqUsed ∧ (g x).rspUsed = x.rspUsed) →
        (getPort v p).ifl.lastRx = (getPort s p).ifl.lastRx ∧ (getPort v p).ifl.reqUsed = (getPort s p).ifl.reqUsed ∧ (getPort v p).ifl.rspUsed = (getPort s p).ifl.rspUsed := by
      intro g e h
      rw [e]
      unfold modIfl
      rw [getPort_modPort, if_pos rfl]
      exact h _
    have h3 := this (fun y => { y with mgmtGap := if cls = 2 && type = 2 then 0 else min 8 ((getPort s p).ifl.mgmtGap + 1) }) (by subst hv; exact getPort_congr rfl p) (fun x => ⟨rfl, rfl, rfl⟩)
    exact ⟨h3.1, h3.2.1, h3.2.2, by subst hv; rfl⟩
def LeafLast (s : State) (p : Nat) (t : State) : Prop := ∃ h b l, t.out = s.out ++ l ++ [.leaf p (leafBytes h b)] ∧
  h.ack = (getPort t p).ifl.lastRx ∧ h.req = (getPort t p).ifl.reqUsed ∧ h.rsp = (getPort t p).ifl.rspUsed
theorem LeafLast.of {s u : State} {p : Nat} (h : ∃ l, u.out = s.out ++ l) (a b c d e f g) : LeafLast s p (sendLeaf u p a b c d e f g) := by
  obtain ⟨l, hl⟩ := h
  obtain ⟨x, h1, _, _, _, h5, h6, h7, h8, h9, h10, _⟩ := leaf_out u p a b c d e f g
  exact ⟨x, _, l, by rw [h1, hl], by rw [h5, h8], by rw [h6, h9], by rw [h7, h10]⟩
theorem LeafLast.ctl {s u : State} {p : Nat} (h : ∃ l, u.out = s.out ++ l) (t) : LeafLast s p (sendCtl u p t) := LeafLast.of h _ _ _ _ _ _ _
theorem LeafLast.new {s u : State} {p : Nat} (h : ∃ l, u.out = s.out ++ l) (t) : LeafLast s p (sendNew u p t) := by
  unfold sendNew; dsimp only; exact LeafLast.of (by exact h) _ _ _ _ _ _ _
theorem LeafLast.ite {s x y : State} {p : Nat} {b : Prop} [Decidable b] (h : LeafLast s p x) (h' : LeafLast s p y) : LeafLast s p (if b then x else y) := by
  split
  · exact h
  · exact h'
theorem active_last (s : State) (p : Nat) : LeafLast s p (sendActive s p) := by
  unfold sendActive
  dsimp only
  generalize hu : loadTx p false 15 _ = u
  have g : ∃ l, u.out = s.out ++ l := by
    subst hu
    exact (loadTx_rel (ch := 29576194) rfl (loadTx_rel (ch := 29576194) rfl (iflConsume_rel (ch := 29576194) rfl (Rel.refl s)))).grow
  refine LeafLast.ite (LeafLast.ctl (by exact g) _) (LeafLast.ite (LeafLast.ctl (by exact g) _) ?_)
  split
  · unfold sendReplay
    dsimp only
    split
    · exact LeafLast.ctl (by exact g) _
    · refine LeafLast.of ?_ _ _ _ _ _ _ _
      obtain ⟨l, hl⟩ := g
      refine ⟨l, ?_⟩
      rw [(portCount_rel (ch := 131072) rfl (Rel.refl _)).f22 rfl]
      exact hl
  · refine LeafLast.ite (LeafLast.ctl (by exact g) _) (LeafLast.ite (LeafLast.new (by exact g) _) ?_)
    unfold sendData
    dsimp only
    exact LeafLast.ite (LeafLast.new (by exact g) _) (LeafLast.ite (LeafLast.new (by exact g) _) (LeafLast.ite (LeafLast.new (by exact g) _) (LeafLast.ctl (by exact g) _)))

end Sys2Proof.Laws.AboutEgress
end

