-- ==== Sys2Proof/Laws/AboutFabric.lean ====
section
/-!
SUPPORT. Lemmas about the run of fabric instructions, BIND and UNBIND.
-/

namespace Sys2Proof.Laws.AboutFabric

open Sys2Proof Sys2Proof.Machine Sys2Proof.Safety

theorem getTake_modTake' (s : State) (i j : Nat) (f : TakeSet → TakeSet) : getTake (modTake s i f) j = if j = i then f (getTake s j) else getTake s j := by
  simp only [getTake, modTake, tget_tput]
  split
  · next h => rw [h]
  · rfl
def NoEff (u : State) (f : Fab) : Prop := f.st ≠ 0 → f.s = u
theorem ne_no (u : State) (n : Nat) : NoEff u (fabNo n u) := fun _ => rfl
theorem ne_ok (u v : State) : NoEff u (fabOk v) := fun h => absurd rfl h
theorem ne_rd (u v : State) (k : W64) : NoEff u { st := 0, kd := k, s := v } := fun h => absurd rfl h
theorem bind_no (u : State) (a) : NoEff u (bindDo u a) := by
  unfold bindDo; dsimp only; repeat' split
  all_goals first | exact ne_no _ _ | exact ne_rd _ _ _ | exact ne_ok _ _
theorem unbind_no (u : State) (a) : NoEff u (unbindDo u a) := by
  unfold unbindDo; dsimp only; repeat' split
  all_goals first | exact ne_ok _ _ | exact ne_rd _ _ _ | exact ne_no _ _
theorem route_no (u : State) (a b c d) : NoEff u (routeDo u a b c d) := by
  unfold routeDo; dsimp only; repeat' split
  all_goals first | exact ne_ok _ _ | exact ne_rd _ _ _ | exact ne_no _ _
theorem mcast_no (u : State) (a b) : NoEff u (mcastDo u a b) := by
  unfold mcastDo; dsimp only; repeat' split
  all_goals first | exact ne_ok _ _ | exact ne_rd _ _ _ | exact ne_no _ _
theorem sheet_no (u : State) (a b) : NoEff u (sheetDo u a b) := by
  unfold sheetDo; dsimp only; repeat' split
  all_goals first | exact ne_ok _ _ | exact ne_rd _ _ _ | exact ne_no _ _
theorem mirror_no (u : State) (a b c d e) : NoEff u (mirrorDo u a b c d e) := by
  unfold mirrorDo; dsimp only; repeat' split
  all_goals first | exact ne_ok _ _ | exact ne_rd _ _ _ | exact ne_no _ _
theorem meter_no (u : State) (a b c d) : NoEff u (meterDo u a b c d) := by
  unfold meterDo; dsimp only; repeat' split
  all_goals first | exact ne_ok _ _ | exact ne_rd _ _ _ | exact ne_no _ _
theorem shape_no (u : State) (a b c) : NoEff u (shapeDo u a b c) := by
  unfold shapeDo; dsimp only; repeat' split
  all_goals first | exact ne_ok _ _ | exact ne_rd _ _ _ | exact ne_no _ _
theorem change_no (u : State) (a b c) : NoEff u (cadChange u a b c) := by
  unfold cadChange; repeat' split
  all_goals first | exact ne_ok _ _ | exact ne_rd _ _ _ | exact ne_no _ _
theorem cad_no (u : State) (a b c d) : NoEff u (cadDo u a b c d) := by
  unfold cadDo; dsimp only; repeat' split
  all_goals first | exact ne_ok _ _ | exact ne_rd _ _ _ | exact change_no _ _ _ _ | exact ne_no _ _
theorem deckle_no (u : State) (a b c d) (h : (deckleDo u a b c d).st ≠ 0) : (deckleDo u a b c d).s = u ∨ ∃ k, (deckleDo u a b c d).s = deckleLocked u a k := by
  revert h
  have e : ∀ f : Fab, (NoEff u f ∨ ∃ k, f.s = deckleLocked u a k) → f.st ≠ 0 → f.s = u ∨ ∃ k, f.s = deckleLocked u a k :=
    fun f h g => h.elim (fun h => .inl (h g)) .inr
  apply e
  unfold deckleDo; dsimp only
  repeat' split
  all_goals first | exact .inl (ne_ok _ _) | exact .inl (ne_no _ _) | exact .inr ⟨_, rfl⟩

theorem locked_tab (u : State) (c k : Nat) : (deckleLocked u c k).dkl.tab = u.dkl.tab := by
  unfold deckleLocked dklLog
  dsimp only
  simp only [tenEvQ_dkl, stewIf_dkl]
  split <;> rfl
def bindBase (u : State) (a : BindArg) : State := if a.kind = 4 then u else modVppb u a.ten a.v fun v => { v with bind := bindOf a }
theorem bind_run (u : State) (a : BindArg) (h1 : (getTen u a.ten).exist = true)
    (h2 : a.kind ≠ 4 → (getVppb u a.ten a.v).bind = .none ∧ vppbsUsed u < 256) (h3 : secondCache u a = false)
    (h4 : a.kind = 4 → sharerPbr u a.ten a.pbr = none)
    (h5 : a.kind < 2 → isEdge (getPort u a.port) = true → cfgTen (getPort u a.port) = a.ten)
    (h6 : a.kind < 3 → devFits (getPort u a.port) a = true)
    (h7 : ∀ e, bindSharer u a = some e → ∃ k, freeSharer u a.ten = some k) :
    bindDo u a = (match bindSharer u a, freeSharer u a.ten with
      | some (p, pbr), some i => Fab.mk 0 (pack64 [(8, a.v), (0, i)])
          (modTen (bindBase u a) a.ten fun t => { t with sharer := tput {} t.sharer i { valid := true, port := p, pbr := pbr } })
      | _, _ => Fab.mk 0 (pack64 [(8, a.v), (0, 0x7F)]) (bindBase u a)) := by
  unfold bindDo
  dsimp only
  rw [if_neg (by simp [h1])]
  have e : ((a.kind != 4 && (getVppb u a.ten a.v).bind != .none) || (a.kind != 4 && 256 ≤ vppbsUsed u) || secondCache u a ||
      ((bindSharer u a).isSome && (freeSharer u a.ten).isNone) || (a.kind == 4 && (sharerPbr u a.ten a.pbr).isSome) ||
      (a.kind < 2 && isEdge (getPort u a.port) && cfgTen (getPort u a.port) != a.ten) ||
      (a.kind < 3 && !devFits (getPort u a.port) a)) = false := by
    rw [h3]
    have a1 : (a.kind != 4 && (getVppb u a.ten a.v).bind != .none) = false := by
      by_cases h : a.kind = 4
      · simp [h]
      · rw [(h2 h).1]; simp
    have a2 : (a.kind != 4 && decide (256 ≤ vppbsUsed u)) = false := by
      by_cases h : a.kind = 4
      · simp [h]
      · have := (h2 h).2; simp; intro; omega
    have a3 : ((bindSharer u a).isSome && (freeSharer u a.ten).isNone) = false := by
      cases h : bindSharer u a with
      | none => rfl
      | some e => obtain ⟨k, hk⟩ := h7 e h; rw [hk]; rfl
    have a4 : (a.kind == 4 && (sharerPbr u a.ten a.pbr).isSome) = false := by
      by_cases h : a.kind = 4
      · rw [h4 h]; simp
      · simp [h]
    have a5 : (decide (a.kind < 2) && isEdge (getPort u a.port) && cfgTen (getPort u a.port) != a.ten) = false := by
      by_cases h : a.kind < 2
      · cases h' : isEdge (getPort u a.port)
        · simp
        · rw [h5 h h']; simp
      · simp [h]
    have a6 : (decide (a.kind < 3) && !devFits (getPort u a.port) a) = false := by
      by_cases h : a.kind < 3
      · rw [h6 h]; simp
      · simp [h]
    rw [a1, a2, a3, a4, a5, a6]; rfl
  rw [if_neg (by rw [e]; exact Bool.false_ne_true)]
  rfl
theorem unbind4_run (u : State) (a : BindArg) (h1 : a.kind = 4) (h2 : (getTen u a.ten).exist = true)
    (h3 : (tget {} (getTen u a.ten).sharer a.port).valid = true) (h4 : sharerHeld u a.ten a.port = false) :
    unbindDo u a = fabOk (modTen u a.ten fun t => { t with sharer := tdel t.sharer a.port }) := by
  unfold unbindDo
  dsimp only
  rw [if_neg (by simp [h2]), if_pos h1, if_neg (by simp [h3, h4])]
def unbShr (u : State) (a : BindArg) : Option Nat := match (getVppb u a.ten a.v).bind with
  | .host p => (((getTen u a.ten).sharer.find? fun e => e.2.valid && e.2.port == p && e.2.pbr == (bindPbr u (getVppb u a.ten a.v).bind).getD 4096).map fun e => e.1)
  | _ => none
theorem unbind_run (u : State) (a : BindArg) (h1 : a.kind ≠ 4) (h2 : (getTen u a.ten).exist = true)
    (h3 : bindKind (getVppb u a.ten a.v).bind = some a.kind) (h4 : ∀ k, sharerHeld u a.ten k = false)
    (h5 : ∀ k ∈ fabDeckles u a.ten ((bindPbr u (getVppb u a.ten a.v).bind).getD 4096), (getDkl u k).locked = false) :
    unbindDo u a = fabOk (match unbShr u a with
      | some i => modTen (clearDeckles (modVppb u a.ten a.v fun v => { v with bind := .none }) (fabDeckles u a.ten ((bindPbr u (getVppb u a.ten a.v).bind).getD 4096)))
          a.ten fun t => { t with sharer := tdel t.sharer i }
      | none => clearDeckles (modVppb u a.ten a.v fun v => { v with bind := .none }) (fabDeckles u a.ten ((bindPbr u (getVppb u a.ten a.v).bind).getD 4096))) := by
  unfold unbindDo
  dsimp only
  rw [if_neg (by simp [h2]), if_neg h1, if_neg (by simp [h3]), if_neg]
  · rfl
  · intro e
    rw [Bool.or_eq_true] at e
    rcases e with e | e
    · rw [Option.any_eq_true] at e
      obtain ⟨x, -, e⟩ := e
      rw [h4 x] at e; cases e
    · rw [List.any_eq_true] at e
      obtain ⟨x, hx, e⟩ := e
      rw [h5 x hx] at e; cases e
theorem vppb_sharer (u : State) (t t' v k : Nat) (x : Sharer) :
    getVppb (modTen u t fun t => { t with sharer := tput {} t.sharer k x }) t' v = getVppb u t' v := by
  unfold getVppb; rw [getTen_modTen]; split <;> rfl
theorem sharer_vppb (u : State) (t v t' : Nat) (f : Vppb → Vppb) : (getTen (modVppb u t v f) t').sharer = (getTen u t').sharer := by
  unfold modVppb; rw [getTen_modTen]; split <;> rfl
theorem vppb_of_ten {s t : State} (h : t.ten = s.ten) (a b : Nat) : getVppb t a b = getVppb s a b := by unfold getVppb getTen; rw [h]
theorem ten_of_ten {s t : State} (h : t.ten = s.ten) (a : Nat) : getTen t a = getTen s a := by unfold getTen; rw [h]

end Sys2Proof.Laws.AboutFabric
end

