-- ==== Sys2Proof/Laws/AboutFences.lean ====
section
/-!
SUPPORT. Lemmas about fences, windows, samples and members.
-/

namespace Sys2Proof.Laws.AboutFences

open Sys2Proof Sys2Proof.Machine Sys2Proof.Safety

theorem ff1 (u : State) (f : Fence) (j : Nat) : getEcmp (freeFence u f) j = getEcmp u j := rfl
theorem ff2 (u : State) (f : Fence) (j : Nat) : getCad (freeFence u f) j = getCad u j := rfl
theorem fenceAny (l : List Pkt) (st : List Nat) : (!(l.any fun k => st.contains k.id)) = true ↔ ∀ k ∈ l, k.id ∉ st := by simp
theorem fence1 (s : State) (g : Nat) (hg : g < 64) : let e := getEcmp s g
      let ended := e.fence = true ∧ ∀ k ∈ s.core.pkts, k.id ∉ e.stale
      (ended → ∃ t, exec (.repinningFenceRelease g) s = .next t ∧ getEcmp t g = { e with fence := false, stale := [] } ∧
        (∀ h, h ≠ g → getEcmp t h = getEcmp s h) ∧ t.core.pkts = s.core.pkts.map fun k => if k.fence = .ecmp g then { k with fence := .none } else k) ∧
      (¬ended → exec (.repinningFenceRelease g) s = .next s) := by
  intro e ended
  refine ⟨fun h => ?_, fun h => ?_⟩
  · refine ⟨_, unitOk_next (decide_eq_true hg) (if_pos ?_), ?_, ?_, ?_⟩
    · rw [Bool.and_eq_true]; exact ⟨h.1, (fenceAny _ _).2 h.2⟩
    · rw [ff1, getEcmp_modEcmp, if_pos rfl]
    · intro j hj; rw [ff1, getEcmp_modEcmp, if_neg hj]
    · show List.map _ s.core.pkts = _
      simp only [beq_iff_eq]
  · refine unitOk_next (decide_eq_true hg) (if_neg ?_)
    rw [Bool.and_eq_true, fenceAny]
    exact h
theorem fence2 (s : State) (n : Nat) (hg : n < 64) : let c := getCad s n
      let ended := c.fence ≠ none ∧ ∀ k ∈ s.core.pkts, k.stage = .queued → k.id ∉ c.stale
      (ended → ∃ t, exec (.cadenceFenceRelease n) s = .next t ∧ getCad t n = { c with fence := none, stale := [] } ∧
        (∀ h, h ≠ n → getCad t h = getCad s h) ∧ t.core.pkts = s.core.pkts.map fun k => if k.fence = .cad n then { k with fence := .none } else k) ∧
      (¬ended → exec (.cadenceFenceRelease n) s = .next s) := by
  intro e ended
  have key : (e.fence.isSome && !(s.core.pkts.any fun k => k.stage == .queued && e.stale.contains k.id)) = true ↔ ended := by
    simp [ended, Option.isSome_iff_ne_none]
  refine ⟨fun h => ?_, fun h => ?_⟩
  · refine ⟨_, unitOk_next (decide_eq_true hg) (if_pos (key.2 h)), ?_, ?_, ?_⟩
    · rw [ff2, getCad_modCad, if_pos rfl]
    · intro j hj; rw [ff2, getCad_modCad, if_neg hj]
    · show List.map _ s.core.pkts = _
      simp only [beq_iff_eq]
  · exact unitOk_next (decide_eq_true hg) (if_neg fun k => h (key.1 k))
theorem wins (s : State) (n : Nat) (hn : n < 64) : let c := getCad s n
      (∀ w, w < 16 → let r := getRef s c.ref
        let since := (now s - r.last).toNat
        let off := (tget 0 c.off w).toNat
        (c.on = true → w < c.nwin → r.enable = true → r.locked = true → off ≤ since → since < off + (tget 0 c.len w).toNat → c.openAt ≠ r.last.toNat + off →
          ∃ t, exec (.cadenceWindowOpen n w) s = .next t ∧ (∀ h, h ≠ n → getCad t h = getCad s h) ∧
            getCad t n = { c with opened := true, win := w, used := 0, openAt := r.last.toNat + off, pendingG := (tget 0 c.bytes w).toNat,
                                  pendingLen := (tget 0 c.len w).toNat }) ∧
        (c.on = false ∨ c.nwin ≤ w ∨ r.locked = false ∨ since < off → exec (.cadenceWindowOpen n w) s = .next s)) ∧
      (c.opened = true → c.openAt + c.pendingLen ≤ (now s).toNat →
        ∃ t, exec (.cadenceWindowClose n) s = .next t ∧ getCad t n = { c with opened := false } ∧ ∀ h, h ≠ n → getCad t h = getCad s h) ∧
      ((now s).toNat < c.openAt + c.pendingLen → exec (.cadenceWindowClose n) s = .next s) := by
  intro c
  refine ⟨fun w hw => ?_, fun a b => ?_, fun a => ?_⟩
  · intro r since off
    refine ⟨fun a b d e f g i => ?_, fun a => ?_⟩
    · refine ⟨_, unitOk_next (by simp [hn, hw]) (if_pos ?_), ?_, ?_⟩
      · unfold winDue
        show (c.on && decide (w < c.nwin) && r.enable && r.locked && decide (off ≤ since) && decide (since < off + (tget 0 c.len w).toNat) && (c.openAt != r.last.toNat + off)) = true
        simp [a, b, d, e, f, i]
        exact g
      · intro j hj; rw [getCad_modCad, if_neg hj]
      · rw [getCad_modCad, if_pos rfl]
    · refine unitOk_next (by simp [hn, hw]) (if_neg ?_)
      unfold winDue
      show ¬(c.on && decide (w < c.nwin) && r.enable && r.locked && decide (off ≤ since) && decide (since < off + (tget 0 c.len w).toNat) && (c.openAt != r.last.toNat + off)) = true
      rcases a with a | a | a | a
      · simp [a]
      · simp [Nat.not_lt.2 a]
      · simp [a]
      · simp [Nat.not_le.2 a]
  · refine ⟨_, unitOk_next (by simp [hn]) (if_pos ?_), ?_, ?_⟩
    · show (c.opened && decide _) = true; rw [a]; simpa using b
    · rw [getCad_modCad, if_pos rfl]
    · intro j hj; rw [getCad_modCad, if_neg hj]
  · refine unitOk_next (by simp [hn]) (if_neg ?_)
    show ¬(c.opened && decide (c.openAt + c.pendingLen ≤ (now s).toNat)) = true
    simp [Nat.not_le.2 a]
theorem satMin (m a b : Nat) : satAdd m a b = min m (a + b) := by unfold satAdd; split <;> omega
def setq (s : State) (x : Tab OutQ) : State := { s with core := { s.core with outq := x } }
def sq (s : State) (o n : Nat) (q : OutQ) : OutQ :=
  let v := (getOutP s o).histCfg
  let q := { q with depth := binAdd q.depth (depthBin (min 15 (fld v 0 5)) (qlen s o n)) }
  match oldestIn s o n with
  | some t => { q with delay := binAdd q.delay (delayBin (min 20 (fld v 8 5)) (now s - t).toNat) }
  | none => q
theorem sample_one (s : State) (x : Tab OutQ) (o n : Nat) : sampleQ o (setq s x) n = setq s (tput {} x (16 * o + n) (sq s o n (tget {} x (16 * o + n)))) := rfl
theorem sample_all (s : State) (o : Nat) (l : List Nat) (hl : l.Nodup) (x : Tab OutQ) :
    ∃ y, forL l (setq s x) (sampleQ o) = setq s y ∧ ∀ n, tget {} y (16 * o + n) = if n ∈ l then sq s o n (tget {} x (16 * o + n)) else tget {} x (16 * o + n) := by
  induction l generalizing x with
  | nil => exact ⟨x, rfl, by simp⟩
  | cons a l ih =>
    obtain ⟨h1, h2⟩ := List.nodup_cons.1 hl
    obtain ⟨y, e, hy⟩ := ih h2 (tput {} x (16 * o + a) (sq s o a (tget {} x (16 * o + a))))
    refine ⟨y, ?_, fun n => ?_⟩
    · show forL l (sampleQ o (setq s x) a) (sampleQ o) = _
      rw [sample_one, e]
    · rw [hy]
      by_cases k : n = a
      · subst k; rw [if_neg h1, tget_tput, if_pos rfl, if_pos (List.mem_cons_self ..)]
      · have e : tget {} (tput {} x (16 * o + a) (sq s o a (tget {} x (16 * o + a)))) (16 * o + n) = tget {} x (16 * o + n) := by
          rw [tget_tput, if_neg (by omega)]
        rw [e]
        by_cases k' : n ∈ l
        · rw [if_pos k', if_pos (List.mem_cons_of_mem _ k')]
        · rw [if_neg k', if_neg (by simp [k, k'])]
theorem hist (s : State) (o : Nat) (ho : o < 109) : let v := (getOutP s o).histCfg
      bit v 31 = true → sampleDue s v = true →
      (s.cnt.frozen = false → ∃ t, exec (.histogramSample o) s = .next t ∧ ∀ n, n < 16 →
        let q := getQ s o n
        let w := min 15 (fld v 0 5)
        let b := min 20 (fld v 8 5)
        (∀ i, tget 0 (getQ t o n).depth i = if i = min 15 (qlen s o n / 2 ^ w) then min 0xFFFFFFFF (tget 0 q.depth i + 1) else tget 0 q.depth i) ∧
        (oldestIn s o n = none → (getQ t o n).delay = q.delay) ∧
        ∀ a, oldestIn s o n = some a → ∀ i, tget 0 (getQ t o n).delay i =
          if i = delayBin b (now s - a).toNat then min 0xFFFFFFFF (tget 0 q.delay i + 1) else tget 0 q.delay i) ∧
      (s.cnt.frozen = true → ∃ t, exec (.histogramSample o) s = .next t ∧ t.core = s.core ∧ t.cnt.skips = min 0xFFFFFFFF (s.cnt.skips + 1)) := by
  intro v h1 h2
  have hx : execHistogramSample o s = unitOk (o < 109) (if s.cnt.frozen then { s with cnt := { s.cnt with skips := satAdd 0xFFFFFFFF s.cnt.skips 1 } }
    else forL (List.range 16) s (sampleQ o)) := by
    unfold execHistogramSample
    dsimp only
    rw [if_neg (by simp [v] at h1 h2; simp [h1, h2])]
  refine ⟨fun h => ?_, fun h => ?_⟩
  · obtain ⟨y, e, hy⟩ := sample_all s o (List.range 16) List.nodup_range s.core.outq
    refine ⟨setq s y, hx.trans (unitOk_next (decide_eq_true ho) ?_), fun n hn => ?_⟩
    · rw [h]; exact e
    · have g : getQ (setq s y) o n = sq s o n (getQ s o n) := (hy n).trans (if_pos (List.mem_range.2 hn))
      rw [g]
      have bt : ∀ (m : Tab Nat) (k i : Nat), tget 0 (binAdd m k) i = if i = k then min 0xFFFFFFFF (tget 0 m i + 1) else tget 0 m i := by
        intro m k i
        unfold binAdd
        rw [tget_tput, satMin]
        split
        · next e => rw [e]
        · rfl
      have d : (sq s o n (getQ s o n)).depth = binAdd (getQ s o n).depth (depthBin (min 15 (fld v 0 5)) (qlen s o n)) := by
        unfold sq; dsimp only; split <;> rfl
      refine ⟨fun i => ?_, fun k => ?_, fun a k i => ?_⟩
      · rw [d, bt]; rfl
      · unfold sq; rw [k]
      · unfold sq; rw [k]; exact bt _ _ _
  · refine ⟨_, hx.trans (unitOk_next (decide_eq_true ho) (if_pos h)), rfl, satMin _ _ _⟩
theorem find_map (l : List RWrite) (w w' : RWrite) (hid : w'.id = w.id) (h : l.find? (fun x => x.id == w.id) = some w) :
    (l.map fun x => if x.id == w.id then w' else x).find? (fun x => x.id == w.id) = some w' := by
  induction l with
  | nil => simp at h
  | cons a l ih =>
    simp only [List.find?_cons, List.map_cons] at h ⊢
    by_cases e : a.id == w.id
    · rw [if_pos e]; simp [hid]
    · rw [if_neg e]; simp only [e] at h ⊢; exact ih h
theorem outcome (s : State) (w : RWrite) (m : Nat) (ok : Bool) (h : s.core.rwrites.find? (fun x => x.id == w.id) = some w) (hm : m ∈ w.pending) (hd : w.done = false) :
      let w' := { w with pending := w.pending.filter (· != m), okd := if ok then w.okd ++ [m] else w.okd, failed := if ok then w.failed else w.failed ++ [m] }
      rwOutcome (getRgrp s w.group) w' = none → rwOutcome (setMemState (getRgrp s w.group) m 2) w' = none →
      (memberOutcome s w.id m ok).core.rwrites = s.core.rwrites.map (fun x => if x.id == w.id then w' else x) ∧
        (∀ g, getRgrp (memberOutcome s w.id m ok) g = if ok = false ∧ g = w.group then setMemState (getRgrp s g) m 2 else getRgrp s g) := by
  intro w' h1 h2
  unfold memberOutcome
  rw [h]
  dsimp only
  rw [if_neg (by simpa using hm)]
  generalize hx : ({ s with core := { s.core with rwrites := s.core.rwrites.map fun x => if x.id == w.id then w' else x } } : State) = x
  have x1 : x.core.rwrites = s.core.rwrites.map fun x => if x.id == w.id then w' else x := by subst hx; rfl
  have x2 : ∀ g, getRgrp x g = getRgrp s g := fun g => by subst hx; rfl
  have le : ∀ u : State, (logEvent u (uBlock 4) 0x02 w.group 0).core = u.core := fun u => rfl
  generalize hv : (if ok = true then x else logEvent (modRgrp x w.group fun g => setMemState g m 2) (uBlock 4) 0x02 w.group 0) = v
  have e1 : v.core.rwrites = s.core.rwrites.map fun x => if x.id == w.id then w' else x := by
    rw [← hv]
    split
    · exact x1
    · rw [le]; exact x1
  have e2 : ∀ g, getRgrp v g = if ok = false ∧ g = w.group then setMemState (getRgrp s g) m 2 else getRgrp s g := by
    intro g
    rw [← hv]
    by_cases k : ok = true
    · rw [if_pos k, if_neg (by simp [k]), x2]
    · rw [if_neg k, getRgrp_congr (le _), getRgrp_modRgrp]
      by_cases j : g = w.group
      · rw [if_pos j, if_pos ⟨by simpa using k, j⟩, x2, j]
      · rw [if_neg j, if_neg (by simp [j]), x2]
  have e3 : rwSettle v w.id = v := by
    unfold rwSettle
    rw [e1, find_map _ w w' rfl h]
    dsimp only
    rw [show w'.done = false from hd]
    rw [if_neg (by simp)]
    have : rwOutcome (getRgrp v w'.group) w' = none := by
      rw [e2]; split
      · exact h2
      · exact h1
    rw [this]
  rw [e3]
  exact ⟨e1, e2⟩
theorem drops (s : State) (a b : Nat) : (dropMember s a b).core.rwrites = s.core.rwrites := rfl

end Sys2Proof.Laws.AboutFences
end

