-- ==== Sys2Proof/Laws/AboutFmApi.lean ====
section
/-!
SUPPORT. Lemmas about the Fabric Manager API and the tap.
-/

namespace Sys2Proof.Laws.AboutFmApi

open Sys2Proof Sys2Proof.Machine Sys2Proof.Safety

theorem serve_no (src : FmSrc) (f : State → State) (s : State) (h : fmArrives s src = false) : fmServe src f s = s := by unfold fmServe; rw [if_pos (by simp [h])]
theorem serve_drop (src : FmSrc) (f : State → State) (s : State) (h : fmArrives s src = true) (h2 : fmPortOk s src = false) :
    (fmServe src f s).out = s.out ∧ (fmServe src f s).port = s.port ∧ (fmServe src f s).ten = s.ten := by
  unfold fmServe
  rw [if_neg (by simp [h]), if_pos (by simp [h2])]
  cases src <;> exact ⟨rfl, rfl, rfl⟩
theorem serve_busy (src : FmSrc) (f : State → State) (s : State) (h : fmArrives s src = true) (h2 : fmPortOk s src = true) (h3 : s.glb.bootStage ≠ 4) :
    fmServe src f s = emit s (.fm src 6 []) := by
  unfold fmServe; rw [if_neg (by simp [h]), if_neg (by simp [h2]), if_pos (by simpa using h3)]; rfl
theorem modLink_q (u : State) (l) (f) : (modLink u l f).cmd.fmQueue = u.cmd.fmQueue := by
  unfold modLink
  repeat' split
  all_goals rfl
theorem msix_q (u : State) (v) : (msixSend u v).cmd.fmQueue = u.cmd.fmQueue := by
  unfold msixSend
  dsimp only
  repeat' split
  all_goals first | rfl | exact modLink_q _ _ _
theorem vec_q (u : State) (c v) : (vecSend u c v).cmd.fmQueue = u.cmd.fmQueue := by
  unfold vecSend
  dsimp only
  split
  · rfl
  · exact msix_q _ _
theorem countEv_q (u : State) (a b c d) : (countEv u a b c d).cmd = u.cmd := (countEv_rel (ch := 131072) rfl (Rel.refl u)).f1 rfl
theorem ev_q (u : State) (c e) : (evLatch u c e).cmd.fmQueue = u.cmd.fmQueue := by
  unfold evLatch evtVec
  dsimp only
  repeat' split
  · rfl
  · rw [countEv_q]
  · rw [vec_q]; rfl
  · rfl
  · rfl
theorem serve_own (src : FmSrc) (f : State → State) (s : State) (h : fmArrives s src = true) (h2 : fmPortOk s src = true) (h3 : s.glb.bootStage = 4) (h4 : s.glb.fmApiOwn = true) :
    (fmServe src f s).cmd.fmQueue = s.cmd.fmQueue ++ [src] ∧ (fmServe src f s).port = s.port ∧ (fmServe src f s).ten = s.ten := by
  unfold fmServe; rw [if_neg (by simp [h]), if_neg (by simp [h2]), if_neg (by simpa using h3), if_pos h4]
  rw [ev_q, evLatch_port, (evLatch_rel (ch := 4326402) rfl (Rel.refl _)).f13 rfl]
  exact ⟨rfl, rfl, rfl⟩
theorem serve_act (src : FmSrc) (f : State → State) (s : State) (h : fmArrives s src = true) (h2 : fmPortOk s src = true) (h3 : s.glb.bootStage = 4) (h4 : s.glb.fmApiOwn = false) :
    fmServe src f s = f s := by
  unfold fmServe; rw [if_neg (by simp [h]), if_neg (by simp [h2]), if_neg (by simpa using h3), if_neg (by simp [h4])]
theorem pass_none {l : List (Bool × Nat)} (h : passes l) : firstFail l = none := by
  exact firstFail_none h
theorem mm {s : State} {p n : Nat} (a : carrying s p = true) (c : (getPort s p).dev = .mld n) : mldOf s p = n := by
  unfold mldOf
  rw [if_neg (by simp [a]), c]

end Sys2Proof.Laws.AboutFmApi
end

