-- ==== Sys2Proof/Laws/AboutFrames.lean ====
section
/-!
SUPPORT. Lemmas about frame references and take sets.
-/

namespace Sys2Proof.Laws.AboutFrames

open Sys2Proof Sys2Proof.Machine Sys2Proof.Safety

theorem rm (s : State) (i j : Nat) (f : FRef → FRef) : getRef (modRef s i f) j = if j = i then f (getRef s i) else getRef s j := tget_tput _ _ _ _ _
theorem om (s : State) (i j : Nat) (f : FOut → FOut) : getOut (modOut s i f) j = if j = i then f (getOut s i) else getOut s j := tget_tput _ _ _ _ _
theorem tm (s : State) (i j : Nat) (f : TakeSet → TakeSet) : getTake (modTake s i f) j = if j = i then f (getTake s i) else getTake s j := tget_tput _ _ _ _ _
theorem forL_ref {f : State → Nat → State} (hf : ∀ s i, (f s i).time.ref = s.time.ref) (l : List Nat) (s : State) : (forL l s f).time.ref = s.time.ref := by
  induction l generalizing s with
  | nil => rfl
  | cons a l ih => exact (ih _).trans (hf s a)
theorem ref_of {s t : State} (h : t.time.ref = s.time.ref) (k : Nat) : getRef t k = getRef s k := by unfold getRef; rw [h]
theorem del_ref (s : State) (r m : Nat) (tf : W64) (sy : Bool) (k : Nat) : getRef (deliver s r m tf sy) k = if k = r then
    { getRef s r with last := tf, lastMono := m, synthetic := sy, synthRun := if sy then (getRef s r).synthRun + 1 else 0,
                      intervals := ((getRef s r).intervals ++ [m - (getRef s r).lastMono]).drop (((getRef s r).intervals ++ [m - (getRef s r).lastMono]).length - 16)
                      period := avg (((getRef s r).intervals ++ [m - (getRef s r).lastMono]).drop (((getRef s r).intervals ++ [m - (getRef s r).lastMono]).length - 16)),
                      count := (getRef s r).count + 1 } else getRef s k := by
  unfold deliver
  extract_lets u tk fo cd v
  rw [ref_of (forL_ref (fun s i => ?_) _ _)]
  · show getRef u k = _
    exact rm _ _ _ _
  · extract_lets w
    have hw : w.time = s.time := (evLatch_rel (ch := 4326402) rfl (Rel.refl s)).f12 rfl
    split
    · split
      · rw [(finishWait_rel (ch := 549864450) rfl (Rel.refl w)).f12 rfl, hw]
      · rw [hw]
    · rw [hw]
theorem unl_ref (s : State) (r : Nat) (l : List Nat) (k : Nat) : getRef (unlockRef s r l) k = if k = r then
    { getRef s r with locked := false, synthRun := 0, edges := l, intervals := [] } else getRef s k := by
  unfold unlockRef
  extract_lets u
  refine (ref_of (forL_ref (f := fun s o => modOut s o fun x => { x with due := [] }) (fun s i => rfl) _ _) k).trans ?_
  exact rm _ _ _ _
theorem pw_time (s : State) : (powerEv s).time = s.time := (powerEv_rel (ch := 4326402) rfl (Rel.refl s)).f12 rfl
theorem pw_ref (s : State) (k : Nat) : getRef (powerEv s) k = getRef s k := getRef_congr (pw_time s) k
theorem pOut (s : State) (o : Nat) (ho : o < 2) : let y := getOut s o
      ((y.enable = false ∨ (getRef s y.src).locked = false ∨ y.due = [] ∨ ∃ d l, y.due = d :: l ∧ mono s < d) → exec (.frameOutPulse o) s = .next s) ∧
      (∀ d l, y.enable = true → (getRef s y.src).locked = true → y.due = d :: l → d ≤ mono s → ∃ t, exec (.frameOutPulse o) s = .next t ∧
        t.out = s.out ++ [.framePulse o (min y.width ((getRef s y.src).period / 2))] ∧ ∀ j, getOut t j = if j = o then { y with due := l } else getOut s j) := by
  intro y
  refine ⟨fun h => unitOk_next (decide_eq_true ho) ?_, fun d l h1 h2 h3 h4 => ⟨_, unitOk_next (decide_eq_true ho) (show _ = emit (modOut s o fun x => { x with due := l }) (.framePulse o (min y.width ((getRef s y.src).period / 2))) from ?_), rfl, fun j => om s o j (fun x => { x with due := l })⟩⟩
  · extract_lets -merge x r
    split
    · next t l e =>
      rw [if_pos]
      rcases h with h | h | h | ⟨d, l', h, h'⟩
      · simp [show x.enable = false from h]
      · simp [show r.locked = false from h]
      · rw [show x.due = [] from h] at e; cases e
      · rw [show x.due = _ from h] at e; cases e; simp [h']
    · rfl
  · extract_lets -merge x r
    rw [show x.due = _ from h3]
    dsimp only
    rw [if_neg]
    simp [show x.enable = true from h1, show r.locked = true from h2, h4]

theorem fldOr (v : W32) (lo w : Nat) (h : lo + w ≤ 31) : fld (v ||| 0x80000000) lo w = fld v lo w := by
  apply Nat.eq_of_testBit_eq
  intro i
  rw [fld_testBit, fld_testBit, BitVec.getLsbD_or]
  by_cases hi : i < w
  · have : (0x80000000 : W32).getLsbD (lo + i) = false := by
      have : ∀ k : Fin 31, (0x80000000 : W32).getLsbD k.val = false := by decide
      exact this ⟨lo + i, by omega⟩
    rw [this, Bool.or_false]
  · simp [hi]
theorem cfgW (s : State) (r : Nat) (v : W32) (h : (getRef s r).enable = true) :
    (refCfgWrite r v s).time = if bit v 31 then s.time else (unlockRef (modRef s r fun x => { x with enable := false }) r []).time := by
  have lg : ∀ a b, (logAt s a b).time = s.time := fun a b => (logAt_rel (ch := 131072) rfl (Rel.refl s)).f12 rfl
  unfold refCfgWrite
  extract_lets -merge x differ u
  rw [if_pos h]
  have ut : u.time = s.time := by
    show (if differ = true then logAt s (refAddr r) 0x02 else s).time = _
    split
    · exact lg _ _
    · rfl
  split
  · exact ut
  · unfold unlockRef
    extract_lets a b
    have ab : a.time = b.time := by
      show (modRef (modRef u r (fun x => { x with enable := false })) r (fun x => { x with locked := false, synthRun := 0, edges := [], intervals := [] })).time =
        (modRef (modRef s r (fun x => { x with enable := false })) r (fun x => { x with locked := false, synthRun := 0, edges := [], intervals := [] })).time
      unfold modRef getRef
      dsimp only
      rw [ut]
    have fl : (List.range 2).filter (fun o => (getOut a o).src == r) = (List.range 2).filter (fun o => (getOut b o).src == r) := by
      unfold getOut; rw [ab]
    have fo : ∀ (l : List Nat) (a b : State), a.time = b.time → (forL l a fun s o => modOut s o fun x => { x with due := [] }).time = (forL l b fun s o => modOut s o fun x => { x with due := [] }).time := by
      intro l
      induction l with
      | nil => exact fun _ _ h => h
      | cons o l ih =>
        intro a b h
        refine ih _ _ ?_
        unfold modOut getOut
        dsimp only
        rw [h]
    rw [fl]
    exact fo _ _ _ ab
theorem tk_of {s t : State} (h : t.time = s.time) (k : Nat) : getTake t k = getTake s k := getTake_congr h k
theorem done_time (s : State) (i : Nat) : (takeDone s i).time = s.time := (takeDone_rel (ch := 12861440) rfl (Rel.refl s)).f12 rfl
theorem ready_time (s : State) (i : Nat) : (takeReady s i).time = s.time := (takeReady_rel (ch := 12861440) rfl (Rel.refl s)).f12 rfl
theorem ev_time (s : State) (i : Nat) : (takeEv s i).time = s.time := (takeEv_rel (ch := 4326402) rfl (Rel.refl s)).f12 rfl
theorem cnt_time (s : State) (a b c d) : (countEv s a b c d).time = s.time := (countEv_rel (ch := 131072) rfl (Rel.refl s)).f12 rfl
theorem slip_take (s : State) (i cause : Nat) (j : Nat) : getTake (slip s i cause) j = if j = i then
    (if s.time.maxSlips ≠ 0 ∧ s.time.maxSlips < (getTake s i).slips + 1 then { getTake s i with st := .failed, cause := 4, arm := none, commit := false }
     else { getTake s i with slips := satAdd 255 (getTake s i).slips 1, cause := cause, commit := false, arm := (getTake s i).arm.map slipArm }) else getTake s j := by
  unfold slip
  extract_lets -merge t u
  by_cases h : s.time.maxSlips ≠ 0 ∧ s.time.maxSlips < (getTake s i).slips + 1
  · rw [if_pos (by simpa using h), if_pos h, tk_of (done_time _ _), tk_of (ev_time _ _), tm]
  · rw [if_neg (by simpa using h), if_neg h, tk_of (done_time _ _), tk_of (ev_time _ _), tm]
    have hu : ∀ j, getTake u j = getTake s j := fun j => tk_of (cnt_time _ _ _ _ _) j
    rw [hu, hu]
theorem only1 (i : Nat) (hi : i < 64) : (List.range 64).filter ([i].contains) = [i] := by
  have : ∀ i : Fin 64, (List.range 64).filter ([i.val].contains) = [i.val] := by decide
  exact this ⟨i, hi⟩
theorem due1 (s : State) (i : Nat) (hi : i < 64) : exec (.takeApplication [i]) s = .next (atInstant s i) := by
  refine unitOk_next (by simp [hi]) ?_
  unfold applyDue
  rw [only1 i hi]
  rfl
theorem slip_state (s : State) (i : Nat) (h : armed (getTake s i) = true) (h2 : instReached s (getTake s i) = true) (h3 : judgeCause (getTake s i) ≠ 0) : atInstant s i = slip s i (judgeCause (getTake s i)) := by
  unfold atInstant
  extract_lets -merge t
  rw [if_neg (by simp [show armed t = true from h, show instReached s t = true from h2]), if_neg h3]
theorem apply_state (s : State) (i : Nat) (h : armed (getTake s i) = true) (h2 : instReached s (getTake s i) = true) (h3 : judgeCause (getTake s i) = 0) : atInstant s i = applySet s i := by
  unfold atInstant
  extract_lets -merge t
  rw [if_neg (by simp [show armed t = true from h, show instReached s t = true from h2]), if_pos h3]
theorem map_tab (f : TakeSet → TakeSet) (hf : f {} = {}) (l : Tab TakeSet) (i : Nat) : tget {} (l.map fun e => (e.1, f e.2)) i = f (tget {} l i) := by
  induction l with
  | nil => exact hf.symm
  | cons a l ih =>
    obtain ⟨k, x⟩ := a
    rw [List.map_cons, tget_cons, tget_cons]
    split
    · rfl
    · exact ih
theorem forL_time {f : State → Nat → State} (hf : ∀ s i, (f s i).time = s.time) (l : List Nat) (s : State) : (forL l s f).time = s.time := by
  induction l generalizing s with
  | nil => rfl
  | cons a l ih => exact (ih _).trans (hf s a)
theorem restart_take (o s : State) (i : Nat) (h : (getTake s i).st ≠ .preparing) (h2 : (getTake s i).st ≠ .ready) : getTake (restartTakes o s) i = getTake s i := by
  unfold restartTakes
  extract_lets -merge f l back
  rw [tk_of (forL_time ready_time _ _)]
  show tget {} (s.time.take.map fun e => (e.1, f e.2)) i = _
  rw [map_tab f rfl]
  show f (getTake s i) = _
  exact if_neg (by simp [h, h2])
theorem app_ok (s : State) (i : Nat) (h : (evalItems (getTake s i).items 0 s).1 = none) :
    getTake (applySet s i) i = { getTake s i with st := .applied, items := [], commit := false, arm := none, applyAt := ((getTake s i).arm.bind fun a => a.inst).getD (now s) } := by
  unfold applySet
  extract_lets -merge t a
  have et := (evalItems_rel (ch := 407103362) (x0 := t.items) (x1 := 0) rfl (Rel.refl s)).f12 rfl
  split
  · next n it met u e => exact absurd ((congrArg Prod.fst e).symm.trans h) (by simp)
  · next u e =>
    rw [e] at et
    extract_lets -merge w u1 u2
    have h1 : getTake u1 i = { getTake s i with st := .applied, items := [], commit := false, arm := none, applyAt := ((getTake s i).arm.bind fun a => a.inst).getD (now s) } := by
      have : getTake (modTake u i fun t => { t with st := .applied, items := [], commit := false, arm := none, applyAt := a }) i = _ := tm _ _ _ _
      rw [if_pos rfl, tk_of et] at this
      exact (restart_take _ _ _ (by rw [this]; exact TkSt.noConfusion) (by rw [this]; exact TkSt.noConfusion)).trans this
    have h2 : getTake u2 i = getTake u1 i := (tk_of (done_time _ _) _).trans (tk_of (cnt_time _ _ _ _ _) _)
    split
    · exact (tk_of ((startWalks_rel (ch := 29584770) rfl (Rel.refl _)).f12 rfl) i).trans (h2.trans h1)
    · exact (tk_of (ev_time _ _) i).trans (h2.trans h1)
theorem app_no (s : State) (i n : Nat) (it : Item) (met : State) (h : (evalItems (getTake s i).items 0 s).1 = some (n, it, met)) :
    (∀ j, getTake (applySet s i) j = if j = i then { getTake s i with st := .failed, cause := 3, arm := none, commit := false, failItem := n, applyAt := ((getTake s i).arm.bind fun a => a.inst).getD (now s) } else getTake s j) ∧
    (applySet s i).core = s.core ∧ (applySet s i).pool = s.pool ∧ (applySet s i).ten = s.ten := by
  have R : Rel 281433602 s (applySet s i) ∧ ∀ j, getTake (applySet s i) j = if j = i then { getTake s i with st := .failed, cause := 3, arm := none, commit := false, failItem := n, applyAt := ((getTake s i).arm.bind fun a => a.inst).getD (now s) } else getTake s j := by
    unfold applySet
    extract_lets -merge t a
    split
    · next n' it' met' u e =>
      have := (congrArg Prod.fst e).symm.trans h
      cases this
      refine ⟨takeDone_rel rfl (takeEv_rel rfl (modTake_rel rfl (itemRefusal_rel rfl (Rel.refl s)))), fun j => ?_⟩
      have ir : ∀ j, getTake (itemRefusal s met it) j = getTake s j := fun j => tk_of ((itemRefusal_rel (ch := 272762370) rfl (Rel.refl s)).f12 rfl) j
      rw [tk_of (done_time _ _), tk_of (ev_time _ _), tm, ir, ir]
    · next u e => exact absurd ((congrArg Prod.fst e).symm.trans h) (by simp)
  exact ⟨R.2, R.1.f16 rfl, R.1.f7 rfl, R.1.f13 rfl⟩

end Sys2Proof.Laws.AboutFrames
end

