-- ==== Sys2Proof/Laws/AboutHierarchy.lean ====
section
/-!
SUPPORT. Lemmas about domains and stacks.
-/

namespace Sys2Proof.Laws.AboutHierarchy

open Sys2Proof Sys2Proof.Machine Sys2Proof.Safety

theorem stkOnly (s : State) (g : Stk) : onlyIn [.stk] s { s with stk := g } := by
  intro p hp
  cases p <;> first | rfl | exact ⟨rfl, rfl⟩ | exact fun _ => ⟨fun _ => rfl, rfl, rfl, rfl, rfl⟩ | (simp at hp)
theorem ign (s : State) (o : Nat) : onlyIn [.cnt] s (stkIgnored s o) :=
  Rel.onlyIn (ch := 131072) (stkIgnored_rel rfl (Rel.refl s)) (by intro p hp; cases p <;> first | rfl | (exact absurd (by decide) hp))
def toW : Emit → Option (Nat × Nat) := fun | .mgmt _ n m => some (m.receiver, n) | _ => none
def K (s t : State) : Prop := t.stk.epoch = s.stk.epoch ∧ t.stk.manager = s.stk.manager ∧ t.stk.silent = s.stk.silent
theorem send_of (s : State) (d n : Nat) (b : List Byte) : (∃ e, (mgmtSend s d n b).out = s.out ++ [e] ∧ toW e = some (d, n)) ∧ K s (mgmtSend s d n b) := by
  unfold mgmtSend mgmtEmit
  dsimp only
  split
  · exact ⟨⟨_, rfl, rfl⟩, rfl, rfl, rfl⟩
  · exact ⟨⟨_, rfl, rfl⟩, rfl, rfl, rfl⟩
theorem join_of (s : State) (d : Nat) : (∃ e, (sendJoin s d).out = s.out ++ [e] ∧ toW e = some (d, 1)) ∧ K s (sendJoin s d) := by
  unfold sendJoin
  dsimp only
  exact send_of _ _ _ _
theorem sends (f : State → Nat → State) (n : Nat) (hf : ∀ s d, (∃ e, (f s d).out = s.out ++ [e] ∧ toW e = some (d, n)) ∧ K s (f s d)) (l : List Nat) (s : State) :
    (∃ o, (forL l s f).out = s.out ++ o ∧ o.map toW = (l.map fun d => (d, n)).map some) ∧ K s (forL l s f) := by
  induction l generalizing s with
  | nil => exact ⟨⟨[], by simp [forL], rfl⟩, rfl, rfl, rfl⟩
  | cons a l ih =>
    obtain ⟨⟨e, he, hw⟩, k1, k2, k3⟩ := hf s a
    obtain ⟨⟨o, ho, hm⟩, j1, j2, j3⟩ := ih (f s a)
    refine ⟨⟨e :: o, ?_, ?_⟩, j1.trans k1, j2.trans k2, j3.trans k3⟩
    · show (forL l (f s a) f).out = _
      rw [ho, he]; simp
    · simp only [List.map_cons]; rw [hw]; exact congrArg _ hm

end Sys2Proof.Laws.AboutHierarchy
end

