-- ==== Sys2Proof/Laws/AboutHomeEnds.lean ====
section
/-!
SUPPORT. Lemmas about the ends of transactions at the home.
-/

namespace Sys2Proof.Laws.AboutHomeEnds

open Sys2Proof Sys2Proof.Machine Sys2Proof.Safety

def Q (s : State) : Prop := ∀ x ∈ s.home.txns, ∀ n ∈ x.snoops, n.issued = true
theorem issueTxn_id (s : State) (t : Txn) (h : ∀ n ∈ t.snoops, n.issued = true) : issueTxn s t = (s, []) := by
  unfold issueTxn
  dsimp only
  generalize t.snoops = l at h
  induction l with
  | nil => rfl
  | cons a l ih =>
    rw [List.foldl_cons, if_pos (by rw [h a (List.mem_cons_self ..)]; rfl)]
    exact ih fun n hn => h n (List.mem_cons_of_mem _ hn)
theorem foldl_id {α : Type} (f : State → α → State) (s : State) (h : ∀ a, f s a = s) (l : List α) : l.foldl f s = s := by
  induction l with
  | nil => rfl
  | cons a l ih => rw [List.foldl_cons, h]; exact ih
theorem issue_id (s : State) (h : Q s) : issueSnoops s = s := by
  unfold issueSnoops
  refine foldl_id _ _ (fun a => ?_) _
  dsimp only
  split
  · rfl
  · next t e =>
    rw [issueTxn_id s t (h t (List.mem_of_find?_eq_some e))]
theorem settle_open (line : Nat) (s : State) (h : (txnOf s line).isNone = false) (q : Q s) : settle line (s, []) = s := by
  unfold settle
  dsimp only
  rw [h, if_neg (by decide)]
  exact issue_id s q
theorem settle_closed (line : Nat) (s : State) (h : ∀ x ∈ s.home.txns, x.phase ≠ .waitWay line) (q : Q s) : settle line (s, []) = s := by
  unfold settle
  dsimp only
  have : (s.home.txns.find? fun t => t.phase == .waitWay line) = none := List.find?_eq_none.2 fun x hx => by simpa using h x hx
  rw [this]
  dsimp only
  rw [ite_self]
  exact issue_id s q
theorem txn_set (s : State) (t t' : Txn) (l : List Txn) (hl : s.home.txns = l ++ [t]) (hn : l.find? (fun x => x.line == t.line) = none) (e : t'.line = t.line) :
    (setTxn s t').home.txns = l ++ [t'] ∧ txnOf (setTxn s t') t.line = some t' := by
  have hm : ∀ x ∈ l, ¬(x.line == t.line) = true := List.find?_eq_none.1 hn
  have a : (setTxn s t').home.txns = l ++ [t'] := by
    unfold setTxn
    show s.home.txns.map _ = _
    rw [hl, List.map_append, e]
    congr 1
    · exact (List.map_congr_left fun x hx => if_neg (hm x hx)).trans (List.map_id _)
    · simp
  refine ⟨a, ?_⟩
  unfold txnOf
  rw [a, List.find?_append, hn]
  simp [e]

theorem getDir_setDir (s : State) (k j : Nat) (d : DirEnt) : getDir (setDir s k d) j = if j = k then d else getDir s j := tget_tput _ _ _ _ _
theorem cnt_only {s u : State} (h : Rel 131072 s u) : u = { s with cnt := u.cnt } := by
  have e0 := h.f0 rfl
  have e1 := h.f1 rfl
  have e2 := h.f2 rfl
  have e3 := h.f3 rfl
  have e4 := h.f4 rfl
  have e5 := h.f5 rfl
  have e6 := h.f6 rfl
  have e7 := h.f7 rfl
  have e8 := h.f8 rfl
  have e9 := h.f9 rfl
  have e10 := h.f10 rfl
  have e11 := h.f11 rfl
  have e12 := h.f12 rfl
  have e13 := h.f13 rfl
  have e14 := h.f14 rfl
  have e15 := h.f15 rfl
  have e16 := h.f16 rfl
  have e18 := h.f18 rfl
  have e19 := h.f19 rfl
  have e20 := h.f20 rfl
  have e21 := h.f21 rfl
  have e22 := h.f22 rfl
  have e23 := h.f23 rfl
  have e24 := h.f24 rfl
  have e25 := h.pend
  cases u
  cases s
  dsimp only at *
  subst e0 e1 e2 e3 e4 e5 e6 e7 e8 e9 e10 e11 e12 e13 e14 e15 e16 e18 e19 e20 e21 e22 e23 e24 e25
  rfl
theorem getDir_home {s t : State} (h : t.home = s.home) (k : Nat) : getDir t k = getDir s k := by unfold getDir; rw [h]
theorem homeAns_home (s : State) (r : Pkt) (a : Ans) : (homeAns s r a).home = s.home := (homeAns_rel (ch := 21171202) rfl (Rel.refl s)).f8 rfl
theorem homeAns_pkt (s : State) (r : Pkt) (a : Ans) (q : Nat) (h : r.org = .port q) (ha : a ≠ .nothing) :
    ∃ m ∈ (homeAns s r a).core.pkts, m.resp = true ∧ m.seq = r.id ∧ m.out = q ∧ m.msg = rspMsg r.msg a := by
  unfold homeAns
  rw [h]
  dsimp only
  rw [if_neg ha]
  unfold answer
  rw [h]
  dsimp only
  unfold answerTo
  rw [h]
  dsimp only
  rw [if_neg ha, if_pos (show (Stage.staged == Stage.staged) = true from rfl), addPkt_pkts]
  exact ⟨_, List.mem_append_right _ (List.mem_singleton.2 rfl), rfl, rfl, rfl, rfl⟩
theorem home_congr {s u : State} (h : u.home = s.home) (line) : txnOf u line = txnOf s line := by unfold txnOf; rw [h]
theorem dirLog_part (s : State) (k t sh w l) : (dirLog s k t sh w l).home.dir = s.home.dir ∧ (dirLog s k t sh w l).home.txns = s.home.txns ∧
    (s.home.log.length < 16 → (dirLog s k t sh w l).home.log.length = s.home.log.length + 1) ∧ (dirLog s k t sh w l).core = s.core := by
  have c : (dirLog s k t sh w l).core = s.core := (dirLog_rel (ch := 4326658) rfl (Rel.refl s)).f16 rfl
  refine ⟨?_, ?_, ?_, c⟩ <;> unfold dirLog <;> dsimp only
  all_goals
    have st : ∀ (u : State) a b, (stewIf u a b).home = u.home := fun u a b => stewIf_home
    have te : ∀ (u : State) t, (tenEv? u t).home = u.home := fun u t => tenEvQ_home
    have it : ∀ (u : State) (b : Bool) t, (if b = true then tenEv? u t else u).home = u.home := fun u b t => by split; exact te _ _; rfl
    rw [it, st, st, st, st, st, st]
  · split <;> split <;> rfl
  · split <;> split <;> rfl
  · intro h
    rw [if_neg (by omega)]
    split <;> simp
theorem close_txn (s : State) (t : Txn) : txnOf (dropTxn s t) t.line = none := by
  have : (dropTxn s t).home.txns = s.home.txns.filter fun x => x.line != t.line := by
    unfold dropTxn
    dsimp only
    split
    · split <;> rfl
    · rfl
  unfold txnOf
  rw [this]
  exact List.find?_eq_none.2 fun x hx => by simpa using (List.mem_filter.1 hx).2
theorem drop_sub (s : State) (t : Txn) : ∀ x ∈ (dropTxn s t).home.txns, x ∈ s.home.txns := by
  have : (dropTxn s t).home.txns = s.home.txns.filter fun x => x.line != t.line := by
    unfold dropTxn
    dsimp only
    split
    · split <;> rfl
    · rfl
  intro x hx
  rw [this] at hx
  exact (List.mem_filter.1 hx).1
theorem dropTxn_pool (s : State) (t : Txn) : (dropTxn s t).pool = s.pool := (dropTxn_rel (ch := 256) rfl (Rel.refl s)).f7 rfl
theorem dropTxn_core (s : State) (t : Txn) : (dropTxn s t).core = s.core := (dropTxn_rel (ch := 256) rfl (Rel.refl s)).f16 rfl
theorem grant_part (s : State) (k st sh) : (grantDir s k st sh).home.txns = s.home.txns ∧ (grantDir s k st sh).pool = s.pool := by
  unfold grantDir
  dsimp only
  split
  · exact ⟨rfl, rfl⟩
  · split
    · exact ⟨rfl, rfl⟩
    · split <;> exact ⟨rfl, rfl⟩
theorem homeAns_pool (s : State) (r : Pkt) (a : Ans) : (homeAns s r a).pool = s.pool := (homeAns_rel (ch := 21171202) rfl (Rel.refl s)).f7 rfl
/-- An answered transaction closes. -/
theorem answered (s u : State) (x : Txn) (r : Pkt) (a : Ans) (line : Nat) (hl : x.line = line) (hc : x.chain = []) (hu : u.home.txns = s.home.txns)
    (hq : (∀ x ∈ s.home.txns, ∀ n ∈ x.snoops, n.issued = true) ∧ ∀ x ∈ s.home.txns, x.phase ≠ .waitWay line) :
    ∃ t, settle line (closeTxn (homeAns u r a) x) = t ∧ txnOf t line = none ∧ t.pool = u.pool ∧ t.core = (homeAns u r a).core := by
  have e : closeTxn (homeAns u r a) x = (dropTxn (homeAns u r a) x, []) := by unfold closeTxn; rw [hc]
  rw [e]
  have sub : ∀ y ∈ (dropTxn (homeAns u r a) x).home.txns, y ∈ s.home.txns := fun y hy => by
    have := drop_sub _ _ y hy
    rw [homeAns_home, hu] at this
    exact this
  rw [settle_closed line _ (fun y hy => hq.2 y (sub y hy)) (fun y hy => hq.1 y (sub y hy))]
  refine ⟨_, rfl, ?_, ?_, dropTxn_core _ _⟩
  · rw [← hl]; exact close_txn _ _
  · rw [dropTxn_pool, homeAns_pool]
theorem reads (s : State) (line : Nat) (x : Txn) (hx : txnOf s line = some x) (r : Pkt) (q : Nat) (ecc2 : Ecc) (h1 : x.phase = .read) (h2 : x.req = some r) (h3 : r.org = .port q)
    (h4 : x.kind = .rds ∨ x.kind = .rde ∨ x.kind = .rdnc ∧ r.msg.op ≠ .memInv) (h5 : x.chain = [])
    (hq : (∀ x ∈ s.home.txns, ∀ n ∈ x.snoops, n.issued = true) ∧ ∀ x ∈ s.home.txns, x.phase ≠ .waitWay line)
    (h6 : chServes s (copies s x).1.1 = true) (h7 : dramBad s (copies s x).1.1 (copies s x).1.2 = false) :
    ∃ t, exec (.dramReadDone line .ok ecc2) s = .next t ∧ txnOf t line = none ∧ t.pool.mem = s.pool.mem ∧
      ∃ m ∈ t.core.pkts, m.resp = true ∧ m.seq = r.id ∧ m.out = q ∧ m.msg.data = rdSpan r (dramRd s (copies s x).1.1 (copies s x).1.2) := by
  have hl : x.line = line := by have := List.find?_some hx; simpa using this
  suffices k : ∃ t, dramReadDone line .ok ecc2 s = t ∧ txnOf t line = none ∧ t.pool = s.pool ∧
      ∃ m ∈ t.core.pkts, m.resp = true ∧ m.seq = r.id ∧ m.out = q ∧ m.msg.data = rdSpan r (dramRd s (copies s x).1.1 (copies s x).1.2) by
    obtain ⟨t, a, b, c, d⟩ := k
    exact ⟨t, unitOk_next rfl a, b, by rw [c], d⟩
  unfold dramReadDone
  rw [hx]
  dsimp only
  rw [if_neg (by simp [h1])]
  generalize hv : topDown (countEv s 0x3000 (copies s x).1.1 x.tenant 1) 3 (copies s x).1.1 0 x.tenant 1 = v
  have rv : Rel 131072 s v := by rw [← hv]; exact topDown_rel rfl (countEv_rel rfl (Rel.refl s))
  have vp : v.pool = s.pool := rv.f7 rfl
  have vh : v.home = s.home := rv.f8 rfl
  have vs : chServes v (copies s x).1.1 = true := by
    have : chServes v (copies s x).1.1 = chServes s (copies s x).1.1 := by unfold chServes getChan; rw [vp]
    rw [this]; exact h6
  have vb : dramBad v (copies s x).1.1 (copies s x).1.2 = false := by
    have : dramBad v (copies s x).1.1 (copies s x).1.2 = dramBad s (copies s x).1.1 (copies s x).1.2 := by unfold dramBad; rw [vp]
    rw [this]; exact h7
  rw [vs, if_neg (by decide), if_pos (show eccOk .ok = true from rfl)]
  have el : eccLog v (copies s x).1 .ok = v := rfl
  rw [el, vb, if_neg (by decide)]
  have vd : dramRd v (copies s x).1.1 (copies s x).1.2 = dramRd s (copies s x).1.1 (copies s x).1.2 := by unfold dramRd; rw [vp]
  rw [vd]
  have wd : ∃ u g bad, withData v x (dramRd s (copies s x).1.1 (copies s x).1.2) false = closeTxn (homeAns u r (.data (rdSpan r (dramRd s (copies s x).1.1 (copies s x).1.2)) bad g)) x ∧
      u.home.txns = s.home.txns ∧ u.pool = s.pool := by
    unfold withData
    rw [h2]
    dsimp only
    rcases h4 with h | h | h
    · rw [h]
      dsimp only
      refine ⟨_, _, _, rfl, ?_⟩
      split
      · rw [(grant_part _ _ _ _).1, (grant_part _ _ _ _).2, vh, vp]; exact ⟨rfl, rfl⟩
      · rw [vh, vp]; exact ⟨rfl, rfl⟩
    · rw [h]
      dsimp only
      refine ⟨_, _, _, rfl, ?_⟩
      split
      · rw [(grant_part _ _ _ _).1, (grant_part _ _ _ _).2, vh, vp]; exact ⟨rfl, rfl⟩
      · rw [vh, vp]; exact ⟨rfl, rfl⟩
    · rw [h.1]
      dsimp only
      split
      · next e => exact absurd e h.2
      · exact ⟨_, _, _, rfl, by rw [vh], vp⟩
  obtain ⟨u, g, bad, e, u1, u2⟩ := wd
  rw [e]
  obtain ⟨t, a, b, c, d⟩ := answered s u x r (.data (rdSpan r (dramRd s (copies s x).1.1 (copies s x).1.2)) bad g) line hl h5 u1 hq
  refine ⟨t, a, b, by rw [c, u2], ?_⟩
  rw [d]
  obtain ⟨m, m1, m2, m3, m4, m5⟩ := homeAns_pkt u r (.data (rdSpan r (dramRd s (copies s x).1.1 (copies s x).1.2)) bad g) q h3 (by simp)
  exact ⟨m, m1, m2, m3, m4, by rw [m5]; rfl⟩
theorem wr_mem (s : State) (ch a : Nat) (d : List Byte) (bad : Bool) (k : Nat) :
    tget 0 (dramWr s ch a d bad).pool.mem k = if dramKey ch a ≤ k ∧ k < dramKey ch a + d.length then d.getD (k - dramKey ch a) 0 else tget 0 s.pool.mem k := by
  show tget 0 (wrBytes s.pool.mem (dramKey ch a) d) k = _
  split
  · next h =>
    obtain ⟨i, rfl⟩ : ∃ i, k = dramKey ch a + i := ⟨k - dramKey ch a, by omega⟩
    rw [tget_wrBytes _ _ _ _ (by omega), Nat.add_sub_cancel_left]
    rw [List.getD_eq_getElem?_getD, List.getElem?_eq_getElem (by omega)]
    rfl
  · next h => exact tget_wrBytes_other _ _ _ _ (by omega)
theorem setTxn_find (s : State) (line : Nat) (x x' : Txn) (hx : txnOf s line = some x) (e : x'.line = line) : txnOf (setTxn s x') line = some x' := by
  have hl : x.line = line := by have := List.find?_some hx; simpa using this
  unfold txnOf setTxn at *
  show (s.home.txns.map _).find? _ = _
  generalize s.home.txns = l at hx
  induction l with
  | nil => cases hx
  | cons a l ih =>
    rw [List.map_cons]
    by_cases h : a.line = line
    · rw [if_pos (by simp [h, e])]
      simp [e]
    · rw [if_neg (by rw [e]; simpa using h)]
      rw [List.find?_cons_of_neg (by simpa using h)] at hx ⊢
      exact ih hx
theorem setTxn_sub (s : State) (x' : Txn) : ∀ y ∈ (setTxn s x').home.txns, y = x' ∨ y ∈ s.home.txns := by
  intro y hy
  unfold setTxn at hy
  obtain ⟨z, hz, e⟩ := List.mem_map.1 hy
  split at e
  · exact .inl e.symm
  · exact .inr (e ▸ hz)
theorem write_pre (s : State) (line : Nat) (x : Txn) (hx : txnOf s line = some x) (m : Nat) (d : List Byte) (second : Bool) (h1 : x.phase = .write m) (h2 : x.data = some d)
    (h3 : m &&& (if second then 2 else 1) ≠ 0) : ∃ v, v.home = s.home ∧ v.pool = s.pool ∧
    dramWriteAccepted line second s =
      (let w := if second then (copies s x).2.getD (copies s x).1 else (copies s x).1
       let u := dramWr v w.1 w.2 d x.poison
       let t' := { x with phase := .write (m - if second then 2 else 1) }
       if m == (if second then 2 else 1) then settle line (writeDone (setTxn u t') t') else setTxn u t') := by
  let w := if second then (copies s x).2.getD (copies s x).1 else (copies s x).1
  have r : Rel 131072 s (topDown (countEv s 0x3001 w.1 x.tenant 1) 3 w.1 0 x.tenant 1) := topDown_rel rfl (countEv_rel rfl (Rel.refl s))
  refine ⟨_, r.f8 rfl, r.f7 rfl, ?_⟩
  unfold dramWriteAccepted
  rw [hx]
  dsimp only
  rw [h1, h2]
  dsimp only
  rw [if_neg (by simpa using h3)]
theorem writes (s : State) (line : Nat) (x : Txn) (hx : txnOf s line = some x) (m : Nat) (d : List Byte) (second : Bool) (h1 : x.phase = .write m) (h2 : x.data = some d) : let b := if second then 2 else 1
        m &&& b ≠ 0 → let w := if second then (copies s x).2.getD (copies s x).1 else (copies s x).1
        let put := fun (t : State) => ∀ a, tget 0 t.pool.mem a = if dramKey w.1 w.2 ≤ a ∧ a < dramKey w.1 w.2 + d.length then d.getD (a - dramKey w.1 w.2) 0 else tget 0 s.pool.mem a
        (m ≠ b → ∃ t, exec (.dramWriteAccepted line second) s = .next t ∧ put t ∧ txnOf t line = some { x with phase := .write (m - b) }) ∧
        (∀ r, m = b → x.req = some r → x.chain = [] → ((∀ x ∈ s.home.txns, ∀ n ∈ x.snoops, n.issued = true) ∧ ∀ x ∈ s.home.txns, x.phase ≠ .waitWay line) →
          ∃ t, exec (.dramWriteAccepted line second) s = .next t ∧ put t ∧ txnOf t line = none) := by
  intro b hb w put
  have hl : x.line = line := by have := List.find?_some hx; simpa using this
  obtain ⟨v, vh, vp, e⟩ := write_pre s line x hx m d second h1 h2 hb
  have pu : put (dramWr v w.1 w.2 d x.poison) := fun a => by rw [wr_mem, vp]
  have ut : (dramWr v w.1 w.2 d x.poison).home = s.home := vh
  refine ⟨fun h => ?_, fun r h h3 h4 hq => ?_⟩
  · refine ⟨_, unitOk_next rfl (e.trans (if_neg (by simpa using h))), pu, setTxn_find _ line x _ ?_ hl⟩
    rw [home_congr ut]; exact hx
  · refine ⟨_, unitOk_next rfl (e.trans (if_pos (by simpa using h))), ?_⟩
    generalize hz : setTxn (dramWr v w.1 w.2 d x.poison) { x with phase := .write (m - b) } = z
    have zq : ∀ y ∈ z.home.txns, (∀ n ∈ y.snoops, n.issued = true) ∧ y.phase ≠ .waitWay line := by
      intro y hy
      rw [← hz] at hy
      have mx : x ∈ s.home.txns := List.mem_of_find?_eq_some hx
      rcases setTxn_sub _ _ y hy with h | h
      · rw [h]; exact ⟨hq.1 x mx, by simp⟩
      · rw [ut] at h; exact ⟨hq.1 y h, hq.2 y h⟩
    have zp : put z := by rw [← hz]; exact pu
    have wd : ∃ u a, writeDone z { x with phase := .write (m - b) } = closeTxn (homeAns u r a) { x with phase := .write (m - b) } ∧ u.home.txns = z.home.txns ∧ u.pool = z.pool := by
      unfold writeDone
      dsimp only
      rw [h3]
      dsimp only
      refine ⟨_, _, rfl, ?_⟩
      split
      · split
        · exact ⟨rfl, rfl⟩
        · exact ⟨rfl, rfl⟩
      · exact ⟨rfl, rfl⟩
    obtain ⟨u, a, e2, u1, u2⟩ := wd
    obtain ⟨t, c1, c2, c3, c4⟩ := answered z u { x with phase := .write (m - b) } r a line hl h4 u1 ⟨fun y hy => (zq y hy).1, fun y hy => (zq y hy).2⟩
    rw [e2, c1]
    exact ⟨fun k => by rw [c3, u2]; exact zp k, c2⟩
theorem fall (s : State) (t c sh line : Nat) (h : (getTen s t).down = false) (hc : c = 1) : (getTen (domainFall s t c sh line) t).down = true ∧ (getTen (domainFall s t c sh line) t).viral = true ∧
    (getTen (domainFall s t c sh line) t).cause = c ∧ (getTen (domainFall s t c sh line) t).dead = sh ∧ (tget {} (getTen (domainFall s t c sh line) t).sharer sh).dead = true := by
  subst hc
  unfold domainFall
  dsimp only
  rw [h, if_neg (by decide)]
  generalize hu : modTen s t _ = u
  have ut : (getTen u t).down = true ∧ (getTen u t).viral = true ∧ (getTen u t).cause = 1 ∧ (getTen u t).dead = sh ∧ (tget {} (getTen u t).sharer sh).dead = true := by
    rw [← hu]
    have : ∀ f : Ten → Ten, getTen (modTen s t f) t = f (getTen s t) := fun f => (tget_tput _ _ _ _ _).trans (if_pos rfl)
    rw [this]
    exact ⟨rfl, rfl, rfl, rfl, by dsimp only; rw [if_neg (by decide), tget_tput, if_pos rfl]⟩
  have key : ∀ w : State, w.ten = u.ten → (getTen w t).down = true ∧ (getTen w t).viral = true ∧ (getTen w t).cause = 1 ∧ (getTen w t).dead = sh ∧ (tget {} (getTen w t).sharer sh).dead = true := by
    intro w hw
    have : getTen w t = getTen u t := by unfold getTen; rw [hw]
    rw [this]; exact ut
  refine key _ ?_
  rw [(evLatch_rel (ch := 4326402) rfl (Rel.refl _)).f13 rfl]
  rw [if_pos (by decide), (dirLog_rel (ch := 4326658) rfl (Rel.refl _)).f13 rfl]
  show (flushTenant _ t).ten = _
  rw [(flushTenant_rel (ch := 21171458) rfl (Rel.refl _)).f13 rfl]
  have me : ∀ (l : List (Nat × Sharer)) (w : State), (l.foldl (fun s e => mgmtEmit s e.2.port 0x0B (viralMgmt s t e.2.pbr)) w).ten = w.ten := by
    intro l
    induction l with
    | nil => intro w; rfl
    | cons a l ih =>
      intro w
      rw [List.foldl_cons, ih]
      exact (mgmtEmit_rel (ch := 12599296) rfl (Rel.refl _)).f13 rfl
  rw [me]
  have vi : ∀ (l : List Nat) (w : State), (forL l w fun s p => emit s (.viral p)).ten = w.ten := by
    intro l
    induction l with
    | nil => intro w; rfl
    | cons a l ih => intro w; exact ih _
  rw [vi]
theorem walk_free (l : List (Nat × DirEnt)) (s : State) (k : Nat) : getDir (l.foldl (fun s e => freeDir s e.1) s) k = if k ∈ l.map (·.1) then { retired := (getDir s k).retired } else getDir s k := by
  induction l generalizing s with
  | nil => simp
  | cons a l ih =>
    rw [List.foldl_cons, ih]
    have e : getDir (freeDir s a.1) k = if k = a.1 then { retired := (getDir s k).retired } else getDir s k := by
      unfold freeDir
      rw [getDir_setDir]
      split
      · next h => rw [h]
      · rfl
    rw [e]
    by_cases h : k = a.1
    · simp [h]
    · rw [if_neg h]
      simp only [List.map_cons, List.mem_cons, h, false_or]
theorem walk_poison (s : State) (l : List (Nat × DirEnt)) (h : Home) (d : List (Nat × Ten)) (u : State) (hu : u.home = h ∧ u.ten = d) :
    (l.foldl (fun s e =>
    if e.2.st == .e then
      let line := dirLine e.1 e.2
      let ent := getSheet s (line / 2 ^ 22)
      let p := locP s ent (line * 64)
      let s := dramWr s p.1 p.2 (dramRd s p.1 p.2) true
      if shTwo ent then let q := locS s ent (line * 64); dramWr s q.1 q.2 (dramRd s q.1 q.2) true else s
    else s) u).home = h ∧ (l.foldl (fun s e =>
    if e.2.st == .e then
      let line := dirLine e.1 e.2
      let ent := getSheet s (line / 2 ^ 22)
      let p := locP s ent (line * 64)
      let s := dramWr s p.1 p.2 (dramRd s p.1 p.2) true
      if shTwo ent then let q := locS s ent (line * 64); dramWr s q.1 q.2 (dramRd s q.1 q.2) true else s
    else s) u).ten = d := by
  induction l generalizing u with
  | nil => exact hu
  | cons a l ih =>
    rw [List.foldl_cons]
    refine ih _ ?_
    split
    · dsimp only
      split
      · exact hu
      · exact hu
    · exact hu
theorem reset_walk (s : State) (n : Nat) : (resetWalk s n).home.walks = s.home.walks ∧ (getTen (resetWalk s n) n).down = false ∧ (getTen (resetWalk s n) n).viral = false ∧
    ∀ e ∈ s.home.dir, e.2.valid = true → e.2.tenant = n → (getDir (resetWalk s n) e.1).valid = false := by
  unfold resetWalk
  dsimp only
  generalize hm : (s.home.dir.filter fun e => e.2.valid && e.2.tenant == n) = mine
  generalize hv : mine.foldl _ s = v
  have vv : v.home = s.home ∧ v.ten = s.ten := by rw [← hv]; exact walk_poison s mine _ _ s ⟨rfl, rfl⟩
  refine ⟨?_, ?_, ?_, fun e he h1 h2 => ?_⟩
  · show (mine.foldl _ v).home.walks = _
    rw [← vv.1]
    clear hm hv vv
    induction mine generalizing v with
    | nil => rfl
    | cons a l ih => exact (ih _).trans rfl
  · unfold getTen modTen; dsimp only; rw [tget_tput, if_pos rfl]
  · unfold getTen modTen; dsimp only; rw [tget_tput, if_pos rfl]
  · show (getDir (mine.foldl _ v) e.1).valid = false
    rw [walk_free, if_pos]
    exact List.mem_map.2 ⟨e, by rw [← hm]; exact List.mem_filter.2 ⟨he, by simp [h1, h2]⟩, rfl⟩

end Sys2Proof.Laws.AboutHomeEnds
end

