-- ==== Sys2Proof/Laws/AboutHomeTakes.lean ====
section
/-!
SUPPORT. Lemmas about the home that takes requests.
-/

namespace Sys2Proof.Laws.AboutHomeTakes

open Sys2Proof Sys2Proof.Machine Sys2Proof.Safety

def Q (s : State) : Prop := ∀ x ∈ s.home.txns, ∀ n ∈ x.snoops, n.issued = true
theorem issueTxn_id (s : State) (t : Txn) (h : ∀ n ∈ t.snoops, n.issued = true) : issueTxn s t = (s, []) := by
  unfold issueTxn
  dsimp only
  generalize t.snoops = l at h
  induction l with
  | nil => rfl
  | cons a l ih =>
    rw [List.foldl_cons, if_pos (by rw [h a (List.mem_cons_self ..)]; rfl)]
    exact ih fun n hn => h n (List.mem_cons_of_mem _ hn)
theorem foldl_id {α : Type} (f : State → α → State) (s : State) (h : ∀ a, f s a = s) (l : List α) : l.foldl f s = s := by
  induction l with
  | nil => rfl
  | cons a l ih => rw [List.foldl_cons, h]; exact ih
theorem issue_id (s : State) (h : Q s) : issueSnoops s = s := by
  unfold issueSnoops
  refine foldl_id _ _ (fun a => ?_) _
  dsimp only
  split
  · rfl
  · next t e =>
    rw [issueTxn_id s t (h t (List.mem_of_find?_eq_some e))]
theorem settle_open (line : Nat) (s : State) (h : (txnOf s line).isNone = false) (q : Q s) : settle line (s, []) = s := by
  unfold settle
  dsimp only
  rw [h, if_neg (by decide)]
  exact issue_id s q
theorem settle_closed (line : Nat) (s : State) (h : ∀ x ∈ s.home.txns, x.phase ≠ .waitWay line) (q : Q s) : settle line (s, []) = s := by
  unfold settle
  dsimp only
  have : (s.home.txns.find? fun t => t.phase == .waitWay line) = none := List.find?_eq_none.2 fun x hx => by simpa using h x hx
  rw [this]
  dsimp only
  rw [ite_self]
  exact issue_id s q
theorem txn_set (s : State) (t t' : Txn) (l : List Txn) (hl : s.home.txns = l ++ [t]) (hn : l.find? (fun x => x.line == t.line) = none) (e : t'.line = t.line) :
    (setTxn s t').home.txns = l ++ [t'] ∧ txnOf (setTxn s t') t.line = some t' := by
  have hm : ∀ x ∈ l, ¬(x.line == t.line) = true := List.find?_eq_none.1 hn
  have a : (setTxn s t').home.txns = l ++ [t'] := by
    unfold setTxn
    show s.home.txns.map _ = _
    rw [hl, List.map_append, e]
    congr 1
    · exact (List.map_congr_left fun x hx => if_neg (hm x hx)).trans (List.map_id _)
    · simp
  refine ⟨a, ?_⟩
  unfold txnOf
  rw [a, List.find?_append, hn]
  simp [e]

theorem getDir_setDir (s : State) (k j : Nat) (d : DirEnt) : getDir (setDir s k d) j = if j = k then d else getDir s j := tget_tput _ _ _ _ _
/-- What a request's beginning needs of the state after its count: all as in `s`. -/
structure Like (s u : State) : Prop where
  home : u.home = s.home
  pool : u.pool = s.pool
  ten : u.ten = s.ten
theorem cnt_only {s u : State} (h : Rel 131072 s u) : u = { s with cnt := u.cnt } := by
  have e0 := h.f0 rfl
  have e1 := h.f1 rfl
  have e2 := h.f2 rfl
  have e3 := h.f3 rfl
  have e4 := h.f4 rfl
  have e5 := h.f5 rfl
  have e6 := h.f6 rfl
  have e7 := h.f7 rfl
  have e8 := h.f8 rfl
  have e9 := h.f9 rfl
  have e10 := h.f10 rfl
  have e11 := h.f11 rfl
  have e12 := h.f12 rfl
  have e13 := h.f13 rfl
  have e14 := h.f14 rfl
  have e15 := h.f15 rfl
  have e16 := h.f16 rfl
  have e18 := h.f18 rfl
  have e19 := h.f19 rfl
  have e20 := h.f20 rfl
  have e21 := h.f21 rfl
  have e22 := h.f22 rfl
  have e23 := h.f23 rfl
  have e24 := h.f24 rfl
  have e25 := h.pend
  cases u
  cases s
  dsimp only at *
  subst e0 e1 e2 e3 e4 e5 e6 e7 e8 e9 e10 e11 e12 e13 e14 e15 e16 e18 e19 e20 e21 e22 e23 e24 e25
  rfl
theorem kind_cnt (s : State) (k t) : ∃ c, countKind s k t = { s with cnt := c } := ⟨_, cnt_only (countKind_rel rfl (Rel.refl s))⟩
theorem way_cnt (s : State) (k) : ∃ c, takeWay s k = { s with cnt := c } := ⟨_, cnt_only (takeWay_rel rfl (Rel.refl s))⟩
def T0 (s : State) (r : Pkt) : Txn := { line := lineOf r, kind := (kindOf s r).1, req := some r, tenant := lineTen s (lineOf r) }
structure Ready (s : State) (r : Pkt) : Prop where
  unreg : unregistered s r = false
  down : ((lineTen s (lineOf r)).any fun t => (getTen s t).down || (getTen s t).inReset) = false
  own : (r.ten.any fun t => (getTen s t).inReset) = false
theorem snoops_none (s : State) (k : HKind) (t : Nat) (q : Option Nat) : snoopsFor s k t {} q = [] := by
  unfold snoopsFor holders
  cases k <;> rfl
theorem begin_plain (s : State) (r : Pkt) (h : Ready s r) (hf : lineTen s (lineOf r) = none ∨ dirFind s (lineOf r) = none)
    (k1 : (kindOf s r).1 ≠ .evc) (k2 : (kindOf s r).1 ≠ .evd) (k3 : (kindOf s r).1 ≠ .rds) (k4 : (kindOf s r).1 ≠ .rde) :
    ∃ c, beginReq s r = afterSnoops (openTxn { s with cnt := c } (T0 s r)) (T0 s r) := by
  obtain ⟨c, hc⟩ := kind_cnt s (kindOf s r).1 (lineTen s (lineOf r))
  refine ⟨c, ?_⟩
  unfold beginReq
  dsimp only
  rw [hc]
  have u' : unregistered { s with cnt := c } r = false := h.unreg
  simp only [u', Bool.false_eq_true, if_false]
  have d' : ((lineTen s (lineOf r)).any fun t => (getTen { s with cnt := c } t).down || (getTen { s with cnt := c } t).inReset) = false := h.down
  have o' : (r.ten.any fun t => (getTen { s with cnt := c } t).inReset) = false := h.own
  simp only [d', o', Bool.false_eq_true, if_false, Bool.or_false]
  rw [if_neg (by simpa using k1)]
  have f' : ∀ n, lineTen s (lineOf r) = some n → dirFind { s with cnt := c } (lineOf r) = none := fun n hn => hf.resolve_left (by rw [hn]; simp)
  cases hl : lineTen s (lineOf r) with
  | none =>
    dsimp only
    have e2 : ((kindOf s r).1 == HKind.evd) = false := by simpa using k2
    rw [e2]
    simp only [Bool.false_and, Bool.false_eq_true, if_false]
    rw [snoops_none]
    simp only [show (DSt.i == DSt.o) = false from rfl, Bool.false_and, Bool.false_eq_true, if_false]
    rw [if_neg (by simp [k3, k4])]
    unfold T0; rw [hl]
    first | done | rfl
  | some n =>
    have g := f' n hl
    dsimp only
    rw [g]
    dsimp only
    have e2 : ((kindOf s r).1 == HKind.evd) = false := by simpa using k2
    rw [e2]
    simp only [Bool.false_and, Bool.false_eq_true, if_false]
    rw [snoops_none]
    simp only [show (DSt.i == DSt.o) = false from rfl, Bool.false_and, Bool.false_eq_true, if_false]
    rw [if_neg (by simp [k3, k4])]
    unfold T0; rw [hl]
    first | done | rfl
theorem begin_cache (s : State) (r : Pkt) (h : Ready s r) (hf : lineTen s (lineOf r) = none ∨ dirFind s (lineOf r) = none)
    (k3 : (kindOf s r).1 = .rds ∨ (kindOf s r).1 = .rde) (w : Nat) (hw : freeWay s (lineOf r) = some w) :
    ∃ c, beginReq s r = afterSnoops (openTxn (newEntry { s with cnt := c } w ((lineTen s (lineOf r)).getD 0) (lineOf r)) { T0 s r with key := some w }) { T0 s r with key := some w } := by
  obtain ⟨c, hc⟩ := kind_cnt s (kindOf s r).1 (lineTen s (lineOf r))
  refine ⟨c, ?_⟩
  unfold beginReq
  dsimp only
  rw [hc]
  have u' : unregistered { s with cnt := c } r = false := h.unreg
  simp only [u', Bool.false_eq_true, if_false]
  have d' : ((lineTen s (lineOf r)).any fun t => (getTen { s with cnt := c } t).down || (getTen { s with cnt := c } t).inReset) = false := h.down
  have o' : (r.ten.any fun t => (getTen { s with cnt := c } t).inReset) = false := h.own
  simp only [d', o', Bool.false_eq_true, if_false, Bool.or_false]
  rw [if_neg (by rcases k3 with k | k <;> simp [k])]
  have f' : ∀ n, lineTen s (lineOf r) = some n → dirFind { s with cnt := c } (lineOf r) = none := fun n hn => hf.resolve_left (by rw [hn]; simp)
  cases hl : lineTen s (lineOf r) with
  | none =>
    dsimp only
    have e2 : ((kindOf s r).1 == HKind.evd) = false := by rcases k3 with k | k <;> rw [k] <;> rfl
    rw [e2]
    simp only [Bool.false_and, Bool.false_eq_true, if_false]
    rw [snoops_none]
    simp only [show (DSt.i == DSt.o) = false from rfl, Bool.false_and, Bool.false_eq_true, if_false]
    rw [if_pos (by rcases k3 with k | k <;> simp [k])]
    have w' : freeWay { s with cnt := c } (lineOf r) = some w := hw
    rw [w']
    unfold T0; rw [hl]
    first | done | rfl
  | some n =>
    have g := f' n hl
    dsimp only
    rw [g]
    dsimp only
    have e2 : ((kindOf s r).1 == HKind.evd) = false := by rcases k3 with k | k <;> rw [k] <;> rfl
    rw [e2]
    simp only [Bool.false_and, Bool.false_eq_true, if_false]
    rw [snoops_none]
    simp only [show (DSt.i == DSt.o) = false from rfl, Bool.false_and, Bool.false_eq_true, if_false]
    rw [if_pos (by rcases k3 with k | k <;> simp [k])]
    have w' : freeWay { s with cnt := c } (lineOf r) = some w := hw
    rw [w']
    unfold T0; rw [hl]
    first | done | rfl
theorem after_read (u : State) (t : Txn) (r : Pkt) (hr : t.req = some r) (hc : chServes u (locP u (entOf u r) (t.line * 64)).1 = true) (hd : t.data = none)
    (hk : t.kind = .rdnc ∨ t.kind = .refresh ∨ t.kind = .atom ∨ t.kind = .rds ∨ t.kind = .rde) (hm : t.kind = .rde → r.msg.op ≠ .memInv) :
    afterSnoops u t = (setTxn u { t with phase := .read }, []) := by
  unfold afterSnoops
  rw [hr]
  dsimp only
  have c1 : (copies u t).1.1 = (locP u (entOf u r) (t.line * 64)).1 := by unfold copies; rw [hr]
  rw [c1, hc, if_neg (by decide)]
  rcases hk with k | k | k | k | k
  · rw [k, hd]
  · rw [k, hd]
  · rw [k, hd]
  · rw [k, hd]
  · rw [k]
    dsimp only
    rw [hd]
    split
    · next e => exact absurd e (hm k)
    · rfl
theorem after_write (u : State) (t : Txn) (r : Pkt) (hr : t.req = some r) (hc : chServes u (locP u (entOf u r) (t.line * 64)).1 = true)
    (hk : t.kind = .wrnc ∨ t.kind = .evd) (hf : fullWrite r = true) :
    afterSnoops u t = (setTxn u { t with phase := .write (if shTwo (entOf u r) then 3 else 1), data := some r.msg.data, poison := wrPoison r }, []) := by
  unfold afterSnoops
  rw [hr]
  dsimp only
  have c1 : (copies u t).1.1 = (locP u (entOf u r) (t.line * 64)).1 := by unfold copies; rw [hr]
  rw [c1, hc, if_neg (by decide)]
  have sw : startWrite u t r.msg.data (wrPoison r) = setTxn u { t with phase := .write (if shTwo (entOf u r) then 3 else 1), data := some r.msg.data, poison := wrPoison r } := by
    unfold startWrite
    have : (copies u t).2.isSome = shTwo (entOf u r) := by
      unfold copies; rw [hr]; dsimp only
      cases shTwo (entOf u r) <;> rfl
    dsimp only
    rw [this]
    rcases hk with k | k <;> rw [k] <;> rfl
  rcases hk with k | k
  · rw [k]; dsimp only; rw [if_pos hf, sw]; simp only [hr, k]
  · rw [k]; dsimp only; rw [if_pos hf, sw]; simp only [hr, k]
theorem begin_evd (s : State) (r : Pkt) (h : Ready s r) (n w i : Nat) (hl : lineTen s (lineOf r) = some n) (hf : dirFind s (lineOf r) = some w)
    (hs : (kindOf s r).2 = some i) (hk : (kindOf s r).1 = .evd) (he : (getDir s w).st = .e) (hp : (getDir s w).ptrs = [i]) :
    ∃ c, beginReq s r = afterSnoops (openTxn (setDir { s with cnt := c } w { getDir s w with pin := true }) { T0 s r with key := some w }) { T0 s r with key := some w } := by
  obtain ⟨c, hc⟩ := kind_cnt s (kindOf s r).1 (lineTen s (lineOf r))
  refine ⟨c, ?_⟩
  unfold beginReq
  dsimp only
  rw [hc]
  have u' : unregistered { s with cnt := c } r = false := h.unreg
  simp only [u', Bool.false_eq_true, if_false]
  have d' : ((lineTen s (lineOf r)).any fun t => (getTen { s with cnt := c } t).down || (getTen { s with cnt := c } t).inReset) = false := h.down
  have o' : (r.ten.any fun t => (getTen { s with cnt := c } t).inReset) = false := h.own
  simp only [d', o', Bool.false_eq_true, if_false, Bool.or_false]
  rw [if_neg (by simp [hk])]
  have g : dirFind { s with cnt := c } (lineOf r) = some w := hf
  rw [hl]
  dsimp only
  rw [g]
  dsimp only
  have gd : getDir { s with cnt := c } w = getDir s w := rfl
  simp only [gd, hk, hs, he, hp]
  have sn : snoopsFor { s with cnt := c } HKind.evd n (getDir s w) (some i) = [] := by
    unfold snoopsFor
    dsimp only
    rw [he, hp]
    rw [if_pos (by simp)]
  simp
  rw [sn]
  simp only [List.isEmpty_nil, if_true]
  unfold T0; rw [hl, hk]
theorem getDir_home {s t : State} (h : t.home = s.home) (k : Nat) : getDir t k = getDir s k := by unfold getDir; rw [h]
theorem homeAns_home (s : State) (r : Pkt) (a : Ans) : (homeAns s r a).home = s.home := (homeAns_rel (ch := 21171202) rfl (Rel.refl s)).f8 rfl
theorem homeAns_pkt (s : State) (r : Pkt) (a : Ans) (q : Nat) (h : r.org = .port q) (ha : a ≠ .nothing) :
    ∃ m ∈ (homeAns s r a).core.pkts, m.resp = true ∧ m.seq = r.id ∧ m.out = q ∧ m.msg = rspMsg r.msg a := by
  unfold homeAns
  rw [h]
  dsimp only
  rw [if_neg ha]
  unfold answer
  rw [h]
  dsimp only
  unfold answerTo
  rw [h]
  dsimp only
  rw [if_neg ha, if_pos (show (Stage.staged == Stage.staged) = true from rfl), addPkt_pkts]
  exact ⟨_, List.mem_append_right _ (List.mem_singleton.2 rfl), rfl, rfl, rfl, rfl⟩
theorem evict_eq (s : State) (r : Pkt) (h : Ready s r) (hk : (kindOf s r).1 = .evc) :
    ∃ c, beginReq s r = (evictClean { s with cnt := c } r, []) := by
  obtain ⟨c, hc⟩ := kind_cnt s (kindOf s r).1 (lineTen s (lineOf r))
  refine ⟨c, ?_⟩
  unfold beginReq
  dsimp only
  rw [hc]
  have u' : unregistered { s with cnt := c } r = false := h.unreg
  simp only [u', Bool.false_eq_true, if_false]
  have d' : ((lineTen s (lineOf r)).any fun t => (getTen { s with cnt := c } t).down || (getTen { s with cnt := c } t).inReset) = false := h.down
  have o' : (r.ten.any fun t => (getTen { s with cnt := c } t).inReset) = false := h.own
  simp only [d', o', Bool.false_eq_true, if_false, Bool.or_false]
  rw [if_pos (by simp [hk])]
theorem evict_dir (s : State) (r : Pkt) (w i : Nat) (hf : dirFind s (lineOf r) = some w) (hs : (kindOf s r).2 = some i) (ho : (getDir s w).st ≠ .o)
    (hz : (getDir s w).frozen = false) (hp : (getDir s w).pin = false) :
    (evictClean s r).home.queue = s.home.queue ∧ (evictClean s r).home.txns = s.home.txns ∧
    getDir (evictClean s r) w = (if (getDir s w).ptrs.filter (· != i) = [] then { retired := (getDir s w).retired } else { getDir s w with ptrs := (getDir s w).ptrs.filter (· != i) }) ∧
    ∀ q, r.org = .port q → ∃ m ∈ (evictClean s r).core.pkts, m.resp = true ∧ m.seq = r.id ∧ m.out = q ∧ m.msg.op = rspOp r.msg.op (.done .i) := by
  unfold evictClean
  rw [hf, hs]
  dsimp only
  rw [hz, hp, if_neg (by simpa using ho)]
  refine ⟨?_, ?_, ?_, fun q hq => ?_⟩
  · rw [homeAns_home]; split <;> rfl
  · rw [homeAns_home]; split <;> rfl
  · rw [getDir_home (homeAns_home _ _ _)]
    by_cases e : (getDir s w).ptrs.filter (· != i) = []
    · rw [if_pos e, if_pos (by rw [e]; rfl)]
      unfold freeDir
      rw [getDir_setDir, if_pos rfl]
    · rw [if_neg e, if_neg (by simpa using e), getDir_setDir, if_pos rfl]
  · obtain ⟨m, h1, h2, h3, h4, h5⟩ := homeAns_pkt (if ((getDir s w).ptrs.filter (· != i)).isEmpty && !false then freeDir s w else setDir s w { getDir s w with ptrs := (getDir s w).ptrs.filter (· != i), pin := false, frozen := false }) r (.done .i) q hq (by simp)
    exact ⟨m, h1, h2, h3, h4, by rw [h5]; rfl⟩
/-- After a transaction is opened on a line and set to its phase. -/
theorem opened (u : State) (t t' : Txn) (hn : u.home.txns.find? (fun x => x.line == t.line) = none) (e : t'.line = t.line) (hq : ∀ x ∈ u.home.txns, ∀ n ∈ x.snoops, n.issued = true) (hs : t'.snoops = []) :
    settle t.line (setTxn (openTxn u t) t', []) = setTxn (openTxn u t) t' ∧ txnOf (setTxn (openTxn u t) t') t.line = some t' := by
  obtain ⟨a, b⟩ := txn_set (openTxn u t) t t' u.home.txns rfl hn e
  refine ⟨settle_open _ _ (by rw [b]; rfl) ?_, b⟩
  intro x hx
  rw [a] at hx
  rcases List.mem_append.1 hx with h | h
  · exact hq x h
  · rw [List.mem_singleton.1 h, hs]; simp
theorem row_eq (k : HKind) (s : State) (ch : Nat) (r : Pkt) (hr : nextReq s ch = some r) (hk : (kindOf s r).1 = k) : homeOp k ch s = takeReq s r := by
  unfold homeOp; rw [hr]; dsimp only; rw [if_pos (by simpa using hk)]
def deq (s : State) (r : Pkt) : State := { s with home := { s.home with queue := s.home.queue.filter fun x => x.id != r.id } }
theorem take_eq (s : State) (r : Pkt) (h : txnOf s (lineOf r) = none) : takeReq s r = settle (lineOf r) (beginReq (deq s r) r) := by
  unfold takeReq
  dsimp only
  have : txnOf { s with home := { s.home with queue := s.home.queue.filter fun x => x.id != r.id } } (lineOf r) = none := h
  rw [this]
  rfl
theorem pool_congr {s u : State} (h : u.pool = s.pool) (r : Pkt) (a : Nat) : chServes u (locP u (entOf u r) a).1 = chServes s (locP s (entOf s r) a).1 ∧ entOf u r = entOf s r := by
  have e : entOf u r = entOf s r := by unfold entOf getSheet; rw [h]
  refine ⟨?_, e⟩
  rw [e]
  unfold chServes getChan locP locate getGrp
  rw [h]
theorem T0_req (s r) : (T0 s r).req = some r := rfl
theorem T0_kind (s r) : (T0 (deq s r) r).kind = (kindOf s r).1 := rfl
theorem T0_line (s r) : (T0 s r).line = lineOf r := rfl
theorem T0_data (s r) : (T0 s r).data = none := rfl
structure Prem (s : State) (ch : Nat) (r : Pkt) : Prop where
  hr : nextReq s ch = some r
  ht : txnOf s (lineOf r) = none
  rd : Ready (deq s r) r
  hcs : chServes s (locP s (entOf s r) (lineOf r * 64)).1 = true
  hq : ∀ x ∈ s.home.txns, ∀ n ∈ x.snoops, n.issued = true
def queuedL (s : State) (r : Pkt) (t : State) : Prop := t.home.queue = s.home.queue.filter fun x => x.id != r.id
theorem serve (s u : State) (r : Pkt) (t : Txn) (h : chServes s (locP s (entOf s r) (lineOf r * 64)).1 = true) (up : u.pool = s.pool) :
    chServes (openTxn u t) (locP (openTxn u t) (entOf (openTxn u t) r) (lineOf r * 64)).1 = true := by
  have : (openTxn u t).pool = s.pool := up
  rw [(pool_congr this r _).1]; exact h
theorem two (s u : State) (r : Pkt) (t : Txn) (up : u.pool = s.pool) : entOf (openTxn u t) r = entOf s r :=
  (pool_congr (u := openTxn u t) up r 0).2
theorem finishR (s u : State) (r : Pkt) (t t' : Txn) (b : State) (hb : b = settle (lineOf r) (afterSnoops (openTxn u t) t)) (ha : afterSnoops (openTxn u t) t = (setTxn (openTxn u t) t', []))
    (hl : t.line = lineOf r) (hl' : t'.line = t.line) (hs : t'.snoops = []) (ht : txnOf s (lineOf r) = none) (hq : ∀ x ∈ s.home.txns, ∀ n ∈ x.snoops, n.issued = true)
    (ut : u.home.txns = s.home.txns) : b = setTxn (openTxn u t) t' ∧ txnOf b (lineOf r) = some t' := by
  obtain ⟨o1, o2⟩ := opened u t t' (by rw [ut, hl]; exact ht) hl' (by rw [ut]; exact hq) hs
  rw [hb, ha]
  rw [hl] at o1 o2
  rw [o1]
  exact ⟨rfl, o2⟩
theorem c1 (s : State) (ch : Nat) (r : Pkt) (P : Prem s ch r) (hf : lineTen s (lineOf r) = none ∨ dirFind s (lineOf r) = none)
    (hk : (kindOf s r).1 = .rdnc ∨ (kindOf s r).1 = .refresh ∨ (kindOf s r).1 = .atom) :
    ∃ t, takeReq s r = t ∧ queuedL s r t ∧ txnOf t (lineOf r) = some { T0 s r with phase := .read } := by
  obtain ⟨c, e⟩ := begin_plain (deq s r) r P.rd hf (by show (kindOf s r).1 ≠ _; rcases hk with h | h | h <;> rw [h] <;> decide) (by show (kindOf s r).1 ≠ _; rcases hk with h | h | h <;> rw [h] <;> decide)
    (by show (kindOf s r).1 ≠ _; rcases hk with h | h | h <;> rw [h] <;> decide) (by show (kindOf s r).1 ≠ _; rcases hk with h | h | h <;> rw [h] <;> decide)
  generalize hd : ({ deq s r with cnt := c } : State) = u at e
  have up : u.pool = s.pool := by subst hd; rfl
  have ut : u.home.txns = s.home.txns := by subst hd; rfl
  have uq : u.home.queue = (deq s r).home.queue := by subst hd; rfl
  have ar := after_read (openTxn u (T0 (deq s r) r)) (T0 (deq s r) r) r (T0_req _ _) (serve s u r _ P.hcs up) (T0_data _ _)
    (by rw [T0_kind]; rcases hk with h | h | h; exact .inl h; exact .inr (.inl h); exact .inr (.inr (.inl h)))
    (fun h => by rw [T0_kind] at h; rcases hk with h' | h' | h' <;> exact absurd (h'.symm.trans h) (by decide))
  obtain ⟨x, y⟩ := finishR s u r _ _ (takeReq s r) (by rw [take_eq s r P.ht, e]) ar rfl rfl rfl P.ht P.hq ut
  exact ⟨_, rfl, by rw [x]; exact uq, y⟩
theorem c2 (s : State) (ch : Nat) (r : Pkt) (P : Prem s ch r) (hf : lineTen s (lineOf r) = none ∨ dirFind s (lineOf r) = none)
    (hk : (kindOf s r).1 = .wrnc) (hw : fullWrite r = true) :
    ∃ t, takeReq s r = t ∧ queuedL s r t ∧ txnOf t (lineOf r) = some { T0 s r with phase := .write (if shTwo (entOf s r) then 3 else 1), data := some r.msg.data, poison := wrPoison r } := by
  obtain ⟨c, e⟩ := begin_plain (deq s r) r P.rd hf (by show (kindOf s r).1 ≠ _; rw [hk]; decide) (by show (kindOf s r).1 ≠ _; rw [hk]; decide)
    (by show (kindOf s r).1 ≠ _; rw [hk]; decide) (by show (kindOf s r).1 ≠ _; rw [hk]; decide)
  generalize hd : ({ deq s r with cnt := c } : State) = u at e
  have up : u.pool = s.pool := by subst hd; rfl
  have ut : u.home.txns = s.home.txns := by subst hd; rfl
  have uq : u.home.queue = (deq s r).home.queue := by subst hd; rfl
  have ar := after_write (openTxn u (T0 (deq s r) r)) (T0 (deq s r) r) r (T0_req _ _) (serve s u r _ P.hcs up) (.inl (by rw [T0_kind]; exact hk)) hw
  rw [two s u r _ up] at ar
  obtain ⟨x, y⟩ := finishR s u r _ _ (takeReq s r) (by rw [take_eq s r P.ht, e]) ar rfl rfl rfl P.ht P.hq ut
  exact ⟨_, rfl, by rw [x]; exact uq, y⟩
theorem c3 (s : State) (ch : Nat) (r : Pkt) (P : Prem s ch r) (hf : lineTen s (lineOf r) = none ∨ dirFind s (lineOf r) = none)
    (hk : (kindOf s r).1 = .rds ∨ (kindOf s r).1 = .rde) (w : Nat) (hw : freeWay s (lineOf r) = some w) (hm : r.msg.op ≠ .memInv) :
    ∃ t, takeReq s r = t ∧ queuedL s r t ∧ txnOf t (lineOf r) = some { T0 s r with phase := .read, key := some w } ∧
      getDir t w = { valid := true, tenant := (lineTen s (lineOf r)).getD 0, tag := lineOf r / 2 ^ 19, st := .i, pin := true } := by
  obtain ⟨c, e⟩ := begin_cache (deq s r) r P.rd hf hk w hw
  obtain ⟨c2, e2⟩ := way_cnt { deq s r with cnt := c } w
  unfold newEntry at e
  rw [e2] at e
  generalize hd : (setDir _ w _) = u at e
  have up : u.pool = s.pool := by subst hd; rfl
  have ut : u.home.txns = s.home.txns := by subst hd; rfl
  have uq : u.home.queue = (deq s r).home.queue := by subst hd; rfl
  have ud : getDir u w = { valid := true, tenant := (lineTen s (lineOf r)).getD 0, tag := lineOf r / 2 ^ 19, st := .i, pin := true } := by
    subst hd; rw [getDir_setDir, if_pos rfl]; rfl
  have ar := after_read (openTxn u { T0 (deq s r) r with key := some w }) { T0 (deq s r) r with key := some w } r (T0_req (deq s r) r) (serve s u r _ P.hcs up) (T0_data (deq s r) r)
    (by show (T0 (deq s r) r).kind = _ ∨ _; rw [T0_kind]; rcases hk with h | h; exact .inr (.inr (.inr (.inl h))); exact .inr (.inr (.inr (.inr h)))) (fun _ => hm)
  obtain ⟨x, y⟩ := finishR s u r _ _ (takeReq s r) (by rw [take_eq s r P.ht, e]) ar rfl rfl rfl P.ht P.hq ut
  exact ⟨_, rfl, by rw [x]; exact uq, y, by rw [x]; exact ud⟩
theorem c4 (s : State) (ch : Nat) (r : Pkt) (P : Prem s ch r) (n w i : Nat) (hl : lineTen s (lineOf r) = some n) (hf : dirFind s (lineOf r) = some w) (hs : (kindOf s r).2 = some i)
    (hk : (kindOf s r).1 = .evd) (he : (getDir s w).st = .e) (hp : (getDir s w).ptrs = [i]) (hw : fullWrite r = true) :
    ∃ t, takeReq s r = t ∧ queuedL s r t ∧ txnOf t (lineOf r) = some { T0 s r with phase := .write (if shTwo (entOf s r) then 3 else 1), data := some r.msg.data, poison := wrPoison r, key := some w } ∧
      getDir t w = { getDir s w with pin := true } := by
  obtain ⟨c, e⟩ := begin_evd (deq s r) r P.rd n w i hl hf hs hk he hp
  generalize hd : (setDir _ w _) = u at e
  have up : u.pool = s.pool := by subst hd; rfl
  have ut : u.home.txns = s.home.txns := by subst hd; rfl
  have uq : u.home.queue = (deq s r).home.queue := by subst hd; rfl
  have ud : getDir u w = { getDir s w with pin := true } := by
    subst hd; rw [getDir_setDir, if_pos rfl]; rfl
  have ar := after_write (openTxn u { T0 (deq s r) r with key := some w }) { T0 (deq s r) r with key := some w } r (T0_req (deq s r) r) (serve s u r _ P.hcs up) (.inr (by show (T0 (deq s r) r).kind = _; rw [T0_kind]; exact hk)) hw
  rw [two s u r _ up] at ar
  obtain ⟨x, y⟩ := finishR s u r _ _ (takeReq s r) (by rw [take_eq s r P.ht, e]) ar rfl rfl rfl P.ht P.hq ut
  exact ⟨_, rfl, by rw [x]; exact uq, y, by rw [x]; exact ud⟩

end Sys2Proof.Laws.AboutHomeTakes
end

