-- ==== Sys2Proof/Laws/AboutImages.lean ====
section
/-!
SUPPORT. Lemmas about boot.
-/

namespace Sys2Proof.Laws.AboutImages

open Sys2Proof Sys2Proof.Machine Sys2Proof.Safety

theorem glbOnly (s : State) (g : Glb) : onlyIn [.glb] s { s with glb := g } := by
  intro p hp
  cases p <;> first | rfl | exact ⟨rfl, rfl⟩ | exact fun _ => ⟨fun _ => rfl, rfl, rfl, rfl, rfl⟩ | (simp at hp)
def cOf (h : Glb) : ImgSrc → Nat := fun | .a => h.causeA | .b => h.causeB | .host => h.causeHost
theorem bn (g : Glb) (src : ImgSrc) (c : Nat) : cOf (bootNext g src c) src = c ∧ (bootNext g src c).bootStage =
    (if src = .a ∧ g.dirHasB = true then 1 else if src = .host then 2 else if g.straps.bootSrc = 2 then 2 else 5) := by
  cases src with
  | a =>
    by_cases hb : g.dirHasB = true
    · rw [if_pos ⟨rfl, hb⟩]; unfold bootNext; dsimp only; rw [if_pos (show (bootCause g .a c).dirHasB = true from hb)]; exact ⟨rfl, rfl⟩
    · rw [if_neg (fun h => hb h.2), if_neg (by simp)]; unfold bootNext; dsimp only; rw [if_neg (show ¬(bootCause g .a c).dirHasB = true from hb)]; exact ⟨rfl, rfl⟩
  | b => exact ⟨rfl, rfl⟩
  | host => exact ⟨rfl, rfl⟩

end Sys2Proof.Laws.AboutImages
end

