-- ==== Sys2Proof/Laws/AboutIngress.lean ====
section
/-!
SUPPORT. Lemmas about messages that enter the core.
-/

namespace Sys2Proof.Laws.AboutIngress

open Sys2Proof Sys2Proof.Machine Sys2Proof.Safety

def Keeps (u v : State) : Prop := ∀ k ∈ u.core.pkts, k ∈ v.core.pkts
theorem Keeps.refl (u : State) : Keeps u u := fun _ h => h
theorem Keeps.trans {u v w : State} (a : Keeps u v) (b : Keeps v w) : Keeps u w := fun k h => b k (a k h)
theorem Keeps.of {u v : State} (h : v.core.pkts = u.core.pkts) : Keeps u v := fun k hk => by rw [h]; exact hk
theorem iteP {b : Prop} [Decidable b] {x y : State} {l : List Pkt} (hx : x.core.pkts = l) (hy : y.core.pkts = l) : (if b then x else y).core.pkts = l := by
  split
  · exact hx
  · exact hy
theorem iteK {b : Prop} [Decidable b] {u x y : State} (hx : Keeps u x) (hy : Keeps u y) : Keeps u (if b then x else y) := by
  split
  · exact hx
  · exact hy
theorem countEv_c (u : State) (a b c d) : (countEv u a b c d).core = u.core := (countEv_rel (ch := 131072) rfl (Rel.refl u)).same .core rfl
theorem portCount_c (u : State) (a b c d) : (portCount u a b c d).core = u.core := (portCount_rel (ch := 131072) rfl (Rel.refl u)).same .core rfl
theorem topDown_c (u : State) (a b c d e) : (topDown u a b c d e).core = u.core := (topDown_rel (ch := 131072) rfl (Rel.refl u)).same .core rfl
theorem outEv_c (u : State) (o) : (outEv u o).core = u.core := (outEv_rel (ch := 4294967295 - 65536) rfl (Rel.refl u)).same .core rfl
theorem qMarks_p (u : State) (o n : Nat) : (qMarks u o n).core.pkts = u.core.pkts := by
  unfold qMarks; split
  · rfl
  · refine iteP ?_ rfl
    rw [outEv_c]; rfl
theorem critEv_p (u : State) (b : Bool) (o n : Nat) : (critEv u b o n).core.pkts = u.core.pkts := by
  unfold critEv; split
  · rfl
  · split
    · rw [outEv_c]; rfl
    · rfl
theorem addPkt_k (u : State) (p : Pkt) : Keeps u (addPkt u p) := fun k h => by rw [addPkt_pkts]; exact List.mem_append_left _ h
theorem mirLose_pk (u : State) (i : Nat) (t : Option Nat) : (mirLose u i t).core.pkts = u.core.pkts := by
  unfold mirLose mirFinish
  dsimp only
  exact iteP (by show (countEv _ _ _ _ _).core.pkts = _; rw [countEv_c]; rfl) (by rw [countEv_c]; rfl)
theorem mirLose_k (u : State) (i : Nat) (t : Option Nat) : Keeps u (mirLose u i t) := Keeps.of (mirLose_pk u i t)
theorem storeTake_p (u : State) (i : Nat) : (storeTake u i).core.pkts = u.core.pkts := rfl
theorem mirPut_k (u : State) (i ing : Nat) (b : List Byte) (st : Nat) : Keeps u (mirPut u i ing b st) := by
  unfold mirPut
  dsimp only
  refine Keeps.trans ?_ (Keeps.of (qMarks_p _ _ _))
  refine Keeps.trans ?_ (Keeps.of rfl : Keeps _ (modMir _ _ _))
  refine Keeps.trans ?_ (addPkt_k _ _)
  refine Keeps.trans ?_ (Keeps.of (storeTake_p _ _))
  exact iteK (Keeps.refl _) (addPkt_k _ _)
theorem mirCopy_k (u : State) (i p : Nat) (e r : Bool) (k : Pkt) : Keeps u (mirCopy u i p e r k) := by
  unfold mirCopy
  dsimp only
  have f : Keeps u (freeBelow u 256).2 := Keeps.of rfl
  split
  · exact f.trans (mirLose_k _ _ _)
  · split
    · exact f.trans (mirLose_k _ _ _)
    · split
      · exact f.trans (Keeps.of rfl)
      · split
        · exact (f.trans (mirPut_k _ _ _ _ _)).trans (Keeps.of (by rw [portCount_c]))
        · exact f.trans (Keeps.of rfl)
theorem mirTake_k (u : State) (p : Nat) (e r : Bool) (k : Pkt) : Keeps u (mirTake u p e r k) := by
  unfold mirTake
  split
  · exact Keeps.refl _
  · generalize (List.map _ _) = l
    unfold forL
    induction l generalizing u with
    | nil => exact Keeps.refl _
    | cons a l ih => exact (mirCopy_k _ _ _ _ _ _).trans (ih _)
theorem mem_replaceFirst (p : Pkt → Bool) (f : Pkt → Pkt) (l : List Pkt) (k : Pkt) (h : l.find? p = some k) : f k ∈ replaceFirst p f l := by
  induction l with
  | nil => simp at h
  | cons a l ih =>
    unfold replaceFirst
    simp only [List.find?_cons] at h
    split at h
    · next e => rw [if_pos e]; cases h; exact List.mem_cons_self ..
    · next e => rw [if_neg (by simp [e])]; exact List.mem_cons_of_mem _ (ih h)
theorem modPkt_mem (s : State) (id : Nat) (f : Pkt → Pkt) (k : Pkt) (h : s.core.pkts.find? (fun x => x.id == id) = some k) : f k ∈ (modPkt s id f).core.pkts := by
  unfold modPkt; rw [setPkts_pkts]; exact mem_replaceFirst _ _ _ _ h
theorem admit_mem (s : State) (k : Pkt) : ∃ k' ∈ (admitMsg s k).core.pkts, k'.id = k.id ∧ k'.msg = k.msg ∧ k'.out = k.out ∧ k'.dest = k.dest ∧
    k'.stage = if toCentre k then .centre else .queued := by
  unfold admitMsg
  dsimp only
  generalize hk : ({ k with stage := if toCentre k then Stage.centre else .queued, cad := cadOf s k, fence := fenceOf s k, admitted := now s } : Pkt) = k'
  have e : k'.id = k.id ∧ k'.msg = k.msg ∧ k'.out = k.out ∧ k'.dest = k.dest ∧ k'.stage = if toCentre k then .centre else .queued := by
    subst hk; exact ⟨rfl, rfl, rfl, rfl, rfl⟩
  have m : k' ∈ (movePkt s k').core.pkts := by unfold movePkt; rw [setPkts_pkts]; simp
  have m2 : ∀ c n, k' ∈ (qMarks (if k.ing < 96 then portCount (countEv (movePkt s k') 0x7000 0 k.ten (cells k.msg)) k.ing 4 k.ten 1 else countEv (movePkt s k') 0x7000 0 k.ten (cells k.msg)) c n).core.pkts := by
    intro c n
    rw [qMarks_p]
    have : (if k.ing < 96 then portCount (countEv (movePkt s k') 0x7000 0 k.ten (cells k.msg)) k.ing 4 k.ten 1 else countEv (movePkt s k') 0x7000 0 k.ten (cells k.msg)).core.pkts = (movePkt s k').core.pkts := by
      refine iteP ?_ ?_
      · rw [portCount_c, countEv_c]
      · rw [countEv_c]
    rw [this]; exact m
  exact ⟨k', iteK (mirTake_k _ _ _ _ _) (Keeps.refl _) k' (m2 _ _), e⟩
theorem hold_mem (s : State) (k k0 : Pkt) (o : Nat) (h : s.core.pkts.find? (fun x => x.id == k.id) = some k0) :
    ∃ k' ∈ (holdMsg s k o).core.pkts, k'.id = k0.id ∧ k'.stage = .heldBuf ∧ k'.out = o := by
  refine ⟨{ k0 with stage := .heldBuf, out := o }, ?_, rfl, rfl, rfl⟩
  unfold holdMsg
  dsimp only
  rw [critEv_p]
  refine modPkt_mem _ _ _ _ ?_
  rw [show ∀ u v : State, u.core.pkts = v.core.pkts → (u.core.pkts.find? fun x => x.id == k.id) = v.core.pkts.find? fun x => x.id == k.id from fun u v e => by rw [e]]
  · exact h
  · refine iteP rfl (iteP ?_ ?_)
    · rw [topDown_c, portCount_c, countEv_c]
    · rw [countEv_c]
theorem foldl_snoc (p : Nat) (l : List Msg) (m : Msg) (s : State) : (l ++ [m]).foldl (recvMsg p) s = recvMsg p (l.foldl (recvMsg p) s) m := by simp
theorem flit_eq (s : State) (p : Nat) (f : Flit) (hp : p < 96) (h1 : carrying s p = true) (h2 : roleOf (getPort s p) ≠ 5) :
    exec (.flitReceive p f) s = .next (recvFlit p f s) := unitOk_next (decide_eq_true hp) (if_pos (by simp [h1, h2]))
theorem resolve_id (s : State) (k : Pkt) : (resolvePbr s k).id = k.id := by
  unfold resolvePbr
  dsimp only
  repeat' split
  all_goals rfl
theorem part1 (s : State) (p : Nat) (hp : p < 96) (h1 : carrying s p = true) (h2 : roleOf (getPort s p) ≠ 5) (f : Flit) :
      (f.msgs = [] → f.conts = [] → ∃ t, exec (.flitReceive p f) s = .next t ∧ t.core = s.core ∧ (getPort t p).reqCredit = (getPort s p).reqCredit + f.reqCredits ∧
        (getPort t p).rspCredit = (getPort s p).rspCredit + f.rspCredits ∧ ∀ j, j ≠ p → getPort t j = getPort s j) ∧
      (∀ m, ∃ t, exec (.flitReceive p f) s = .next t ∧ exec (.flitReceive p { f with msgs := f.msgs ++ [m] }) s = .next (recvMsg p t m)) := by
  refine ⟨fun a b => ?_, fun m => ⟨_, flit_eq s p f hp h1 h2, ?_⟩⟩
  · refine ⟨_, flit_eq s p f hp h1 h2, ?_⟩
    unfold recvFlit
    dsimp only
    rw [a, b]
    dsimp only [List.foldl_nil]
    have z : ∀ t, (topDown (portCount (portCount s p 0 t 1) p 2 t f.bytes) 1 (2 * quireOf p) 0 t 1).core = s.core ∧
        (topDown (portCount (portCount s p 0 t 1) p 2 t f.bytes) 1 (2 * quireOf p) 0 t 1).port = s.port := by
      intro t
      refine ⟨by rw [topDown_c, portCount_c, portCount_c], ?_⟩
      exact ((topDown_rel (ch := 131072) rfl (portCount_rel rfl (portCount_rel rfl (Rel.refl s)))).same .port rfl)
    have z := z (portTen (getPort s p))
    generalize topDown (portCount (portCount s p 0 (portTen (getPort s p)) 1) p 2 (portTen (getPort s p)) f.bytes) 1 (2 * quireOf p) 0 (portTen (getPort s p)) 1 = u at *
    have g : ∀ j, getPort (modQuire u (quireOf p) fun q => { q with wheelRx := p % 8 }) j = getPort s j := fun j => getPort_congr (s := s) (t := modQuire u (quireOf p) fun q => { q with wheelRx := p % 8 }) z.2 j
    refine ⟨z.1, ?_, ?_, fun j hj => ?_⟩
    · rw [getPort_modPort, if_pos rfl, g]
    · rw [getPort_modPort, if_pos rfl, g]
    · rw [getPort_modPort, if_neg hj, g]
  · rw [flit_eq s p { f with msgs := f.msgs ++ [m] } hp h1 h2]
    unfold recvFlit
    dsimp only
    rw [foldl_snoc]
theorem part2 (s : State) (p : Nat) (hp : p < 109) (resp : Bool) (k0 : Pkt) (hk : stagedHead s p resp = some k0) (hr : k0.stage ≠ .heldRed) :
      let k := { reroute s k0 with stage := k0.stage }
      k.dest ≠ .none → (∀ g, k.dest ≠ .repl g) →
      ∃ t, exec (.messageAdmission p resp) s = .next t ∧ (k0.stage = .heldBuf → exec (.heldMessageRetry p resp) s = .next t) ∧
        (admits s k.out (qclassOf k) (cells k.msg) = true → ∃ k' ∈ t.core.pkts, k'.id = k.id ∧ k'.msg = k.msg ∧ k'.out = k.out ∧ k'.dest = k.dest ∧
          k'.stage = if toCentre k then .centre else .queued) ∧
        (admits s k.out (qclassOf k) (cells k.msg) = false → k.out ≠ 127 → (∀ j, s.core.pkts.find? (fun x => x.id == k0.id) = some j → j = k0) → ∃ k' ∈ t.core.pkts, k'.id = k0.id ∧ k'.stage = .heldBuf ∧ k'.out = k.out) := by
  intro k hd hg
  have e : admitNext p resp s = if ((carriesAddr k.msg.op && !k.resp && k.out == 127 && cells k.msg ≤ bufCells - s.core.occ) || admits s k.out (qclassOf k) (cells k.msg)) = true then admitMsg s k
      else holdMsg s k k.out := by
    unfold admitNext
    rw [hk]
    dsimp only
    rw [if_neg (by simpa using hr)]
    show (match k.dest with | .none => _ | .repl g => _ | _ => _) = _
    split
    · next h => exact absurd h hd
    · next g h => exact absurd h (hg g)
    · rfl
  refine ⟨_, unitOk_next (decide_eq_true hp) rfl, fun h => ?_, fun h => ?_, fun h h2 h3 => ?_⟩
  · refine unitOk_next (decide_eq_true hp) (if_pos ?_)
    rw [hk]
    simp [h]
  · rw [e, if_pos (by simp [h])]
    exact admit_mem s k
  · rw [e, if_neg (by simp [h, h2])]
    have hi : k.id = k0.id := by
      show (reroute s k0).id = k0.id
      unfold reroute
      split
      · dsimp only; split
        · rfl
        · exact resolve_id _ _
      · split <;> rfl
      · rfl
    refine hold_mem s k k0 k.out ?_
    rw [hi]
    have m := List.mem_of_find?_eq_some hk
    cases h : s.core.pkts.find? (fun x => x.id == k0.id) with
    | none => rw [List.find?_eq_none] at h; exact absurd (h k0 m) (by simp)
    | some j => rw [h3 j h]

end Sys2Proof.Laws.AboutIngress
end

