-- ==== Sys2Proof/Laws/AboutLanes.lean ====
section
/-!
SUPPORT. Lemmas about lanes and adaptation bursts.
-/

namespace Sys2Proof.Laws.AboutLanes

open Sys2Proof Sys2Proof.Machine Sys2Proof.Safety

theorem mp (s : State) (p j : Nat) (f : Port → Port) : getPort (modPort s p f) j = if j = p then f (getPort s p) else getPort s j := tget_tput _ _ _ _ _
theorem portOnly {s : State} {p : Nat} {f : Port → Port} : onlyIn [.port] s (modPort s p f) := by
  intro q hq
  cases q <;> first | rfl | exact ⟨rfl, rfl⟩ | exact fun _ => ⟨fun _ => rfl, rfl, rfl, rfl, rfl⟩ | (simp at hq)
theorem pwrOnly (s : State) (g : Pwr) : onlyIn [.pwr] s { s with pwr := g } := by
  intro p hp
  cases p <;> first | rfl | exact ⟨rfl, rfl⟩ | exact fun _ => ⟨fun _ => rfl, rfl, rfl, rfl, rfl⟩ | (simp at hp)
theorem cntOnly {s : State} {u c o d} : onlyIn [.cnt] s (logEvent s u c o d) :=
  Rel.onlyIn (ch := 131072) (logEvent_rel rfl (Rel.refl s)) (by intro p hp; cases p <;> first | rfl | (exact absurd (by decide) hp))
theorem po {s : State} {p : Nat} {f : Port → Port} {y : Port} (e : f (getPort s p) = y) : ∀ j, getPort (modPort s p f) j = if j = p then y else getPort s j :=
  fun j => by rw [mp, e]
theorem pp {s : State} {p : Nat} {f : Port → Port} : getPort (modPort s p f) p = f (getPort s p) := by rw [mp, if_pos rfl]
theorem er (u : State) (p : Nat) : getPort (enterRecovery u p) p = { getPort u p with link := .recovery, lanes := marginAbort (getPort u p).lanes, ifl := if (getPort u p).mode = 5 then iflRecovery (getPort u p).ifl else (getPort u p).ifl } :=
  (getPort_congr (s := modPort u p fun x => { x with link := .recovery, lanes := marginAbort x.lanes, ifl := if x.mode = 5 then iflRecovery x.ifl else x.ifl }) (t := enterRecovery u p) rfl p).trans pp
theorem lock1 (s : State) (p lane : Nat) (hp : p < 96) (hl : lane < 16) (h1 : trainedLink (getPort s p) = true) (h2 : lane < (getPort s p).lanesUsed) :
    ∃ t, exec (.symbolLockLoss p lane) s = .next t ∧ onlyIn [.port, .pwr] s t ∧
      (getPort t p).lanes.evLock = true ∧ (tget {} (getPort t p).lanes.ln lane).locked = false ∧
      (tget {} (getPort t p).lanes.ln lane).lockLosses = satAdd 255 (tget {} (getPort s p).lanes.ln lane).lockLosses 1 ∧ (getPort t p).link = .recovery := by
  have hb : (decide (p < 96) && decide (lane < 16)) = true := by simp [hp, hl]
  let ln := tput {} (getPort s p).lanes.ln lane { tget {} (getPort s p).lanes.ln lane with lockLosses := satAdd 255 (tget {} (getPort s p).lanes.ln lane).lockLosses 1, locked := false }
  let u := modPort s p fun x => { x with lanes := { x.lanes with ln := ln, evLock := true } }
  have e : exec (.symbolLockLoss p lane) s = .next (if (getPort s p).link == .up then enterRecovery u p else u) := by
    refine unitOk_next hb (if_neg ?_)
    rw [h1]; simp; omega
  have tl : ∀ d, tget ({} : Lane) ln lane = d → d.locked = false ∧ d.lockLosses = satAdd 255 (tget {} (getPort s p).lanes.ln lane).lockLosses 1 := by
    intro d hd
    rw [← hd, tget_tput, if_pos rfl]
    exact ⟨rfl, rfl⟩
  refine ⟨_, e, ?_, ?_⟩
  · split
    · exact Rel.onlyIn (ch := 16388) (enterRecovery_rel rfl (modPort_rel rfl (Rel.refl s))) (by intro p hp; cases p <;> first | rfl | (exact absurd (by decide) hp))
    · exact Rel.onlyIn (ch := 16388) (modPort_rel rfl (Rel.refl s)) (by intro p hp; cases p <;> first | rfl | (exact absurd (by decide) hp))
  · split
    · rw [er, show getPort u p = _ from pp]
      have := tl _ rfl
      exact ⟨rfl, this.1, this.2, rfl⟩
    · rename_i h
      rw [show getPort u p = _ from pp]
      have := tl _ rfl
      refine ⟨rfl, this.1, this.2, ?_⟩
      show (getPort s p).link = .recovery
      unfold trainedLink at h1
      simp only [Bool.or_eq_true, beq_iff_eq] at h1 h
      exact h1.resolve_left h
theorem mw (x : Lanes) (up : Bool) (rate n : Nat) (v : W32) (hv : bit v 31 = true) (hr : x.marginRun = false) :
    let y := marginWrite x up rate n v
    let no := marginRefused { x with marginCtrl := v &&& 0x7FFF003F } up rate n
    y.marginCtrl = v &&& 0x7FFF003F ∧ y.marginRefused = no ∧ y.marginBusy = (!no && x.partnerMargin) ∧
        y.marginRun = (!no && !x.partnerMargin) ∧ y.marginDone = (no || x.partnerMargin) ∧ y.marginErrors = 0 := by
  intro y no
  have e : y = (if no = true then { x with marginCtrl := v &&& 0x7FFF003F, marginDone := true, marginBusy := false, marginAborted := false, marginRefused := true, marginErrors := 0 }
    else if x.partnerMargin = true then { x with marginCtrl := v &&& 0x7FFF003F, marginDone := true, marginBusy := true, marginAborted := false, marginRefused := false, marginErrors := 0 }
    else { x with marginCtrl := v &&& 0x7FFF003F, marginDone := false, marginBusy := false, marginAborted := false, marginRefused := false, marginErrors := 0, marginRun := true } : Lanes) := by
    show marginWrite x up rate n v = _
    unfold marginWrite
    rw [if_neg (by rw [hr]; simp)]
    dsimp only
    rw [if_neg (by rw [hv]; simp)]
  rw [e]
  cases hno : no
  · rw [if_neg (by simp)]
    cases hp : x.partnerMargin
    · rw [if_neg (by simp)]; exact ⟨rfl, rfl, rfl, rfl, rfl, rfl⟩
    · rw [if_pos rfl]; exact ⟨rfl, rfl, rfl, hr, rfl, rfl⟩
  · rw [if_pos rfl]; exact ⟨rfl, rfl, rfl, hr, rfl, rfl⟩
def pmS (s : State) (b : Bool) (p : Nat) (on : Bool) : State := if b then modPort s p fun x => { x with lanes := { x.lanes with partnerMargin := on } } else s
theorem pm_only (s : State) (b : Bool) (p : Nat) (on : Bool) {e : Emit} : onlyIn [.port, .out] s (emit (pmS s b p on) e) := by
  intro q hq
  cases b <;> (cases q <;> first | rfl | exact ⟨rfl, rfl⟩ | exact fun _ => ⟨fun _ => rfl, rfl, rfl, rfl, rfl⟩ | (simp at hq))
theorem pm_out (s : State) (b : Bool) (p : Nat) (on : Bool) {e : Emit} : (emit (pmS s b p on) e).out = s.out ++ [e] := by cases b <;> rfl
theorem reset_port (s : State) (p j : Nat) (h : (getPort s p).rst = .run) : sansIfl (getPort (resetPort s p) j) = sansIfl (if j = p then portClear (getPort s p) else getPort s j) := by
  unfold resetPort
  rw [if_neg (by simp [h])]
  dsimp only
  rw [restartTakes_ports]
  have r := flushPort_rel (x1 := p) (ch := 4294967295 - 16384) rfl (ecmpFail_rel (x1 := p) (ch := 4294967295 - 16384) rfl
    (newEntry__rel (x1 := uPort p) (ch := 4294967295 - 16384) rfl (Rel.refl (modPort s p portClear))))
  rw [getPort_congr (r.f14 rfl), mp]
theorem lead_congr {s u : State} (h : ∀ j, (getPort u j).cfg = (getPort s j).cfg) (p : Nat) : leadPort u p = leadPort s p := by
  unfold leadPort absorbed widthOf
  rw [h, h]
theorem laneEv_port (s : State) (p : Nat) (g : Lanes → Bool) (f : Lanes → Lanes) (j : Nat) :
    getPort (laneEv s p g f false) j = if j = p then { getPort s p with lanes := f (getPort s p).lanes } else getPort s j := by
  unfold laneEv
  dsimp only
  split
  · exact mp _ _ _ _
  · rw [if_neg (by simp), getPort_congr ((stewEv_rel (ch := 4326402) rfl (Rel.refl _)).f14 rfl), mp]
theorem cleared {a y : Port} (h : sansIfl a = sansIfl (portClear y)) : a.cfg = y.cfg ∧ a.refOk = y.refOk ∧ a.rst = .inReset := by
  have h1 : (sansIfl a).cfg = (sansIfl (portClear y)).cfg := by rw [h]
  have h2 : (sansIfl a).refOk = (sansIfl (portClear y)).refOk := by rw [h]
  have h3 : (sansIfl a).rst = (sansIfl (portClear y)).rst := by rw [h]
  exact ⟨h1, h2, h3⟩
theorem refLost_of (s : State) (p : Nat) : (∀ j, j ≠ p → sansIfl (getPort (refLost s p) j) = sansIfl (getPort s j)) ∧
    (getPort (refLost s p) p).cfg = (getPort s p).cfg ∧ (getPort (refLost s p) p).refOk = false ∧
    ((getPort s p).rst = .inReset → (getPort (refLost s p) p).rst = .inReset) ∧
    ((getPort (refLost s p) p).rst = (getPort s p).rst ∨ (getPort (refLost s p) p).rst = .inReset) ∧
    (leadPort s p = true → (getPort s p).enabled = true → (getPort s p).rst = .run → (getPort (refLost s p) p).rst = .inReset) := by
  unfold refLost
  extract_lets -merge u v
  have hu : ∀ j, getPort u j = if j = p then { getPort s p with refOk := false } else getPort s j := fun j => mp s p j _
  have hup : getPort u p = { getPort s p with refOk := false } := by rw [hu, if_pos rfl]
  have hl : leadPort u p = leadPort s p := lead_congr (fun j => by rw [hu]; split; (rename_i h; rw [h]); rfl) p
  by_cases h1 : leadPort s p = true
  · rw [if_neg (by rw [hl, h1]; simp)]
    have hv : ∀ j, getPort v j = if j = p then { getPort s p with refOk := false, lanes := { (getPort s p).lanes with evRefclk := true } } else getPort s j := by
      intro j
      show getPort (laneEv u p _ _ false) j = _
      rw [laneEv_port, hup, hu]
      by_cases e : j = p
      · rw [if_pos e, if_pos e]
      · rw [if_neg e, if_neg e, if_neg e]
    have hvp : getPort v p = { getPort s p with refOk := false, lanes := { (getPort s p).lanes with evRefclk := true } } := by rw [hv, if_pos rfl]
    by_cases h2 : (getPort s p).enabled = true
    · rw [if_pos (by rw [hvp]; exact h2)]
      by_cases h3 : (getPort s p).rst = .run
      · have r := fun j => reset_port v p j (by rw [hvp]; exact h3)
        have rp := r p
        rw [if_pos rfl, hvp] at rp
        refine ⟨fun j hj => ?_, (cleared rp).1, (cleared rp).2.1, fun h => absurd (h3.symm.trans h) (by simp), .inr ((cleared rp).2.2), fun _ _ _ => (cleared rp).2.2⟩
        rw [r, if_neg hj, hv, if_neg hj]
      · have e : resetPort v p = v := if_pos (by rw [hvp]; simpa using h3)
        rw [e, hvp]
        exact ⟨fun j hj => by rw [hv, if_neg hj], rfl, rfl, fun h => h, .inl rfl, fun _ _ h => absurd h h3⟩
    · rw [if_neg (by rw [hvp]; exact h2), pp, hvp]
      exact ⟨fun j hj => by rw [mp, if_neg hj, hv, if_neg hj], rfl, rfl, fun h => h, .inl rfl, fun _ h => absurd h h2⟩
  · rw [if_pos (by rw [hl]; simpa using h1), hup]
    exact ⟨fun j hj => by rw [hu, if_neg hj], rfl, rfl, fun h => h, .inl rfl, fun h => absurd h h1⟩
theorem refs_of (s : State) (l : List Nat) (u : State) (k : ∀ j, (getPort u j).cfg = (getPort s j).cfg ∧ ((getPort u j).rst = (getPort s j).rst ∨ (getPort u j).rst = .inReset)) :
    let t := forL l u refLost
    (∀ j, ((getPort u j).refOk = false → (getPort t j).refOk = false) ∧ ((getPort u j).rst = .inReset → (getPort t j).rst = .inReset)) ∧
    ∀ p ∈ l, (getPort t p).refOk = false ∧ (leadPort s p = true → (getPort s p).enabled = true → (getPort s p).rst = .run → (getPort t p).rst = .inReset) := by
  induction l generalizing u with
  | nil => exact ⟨fun j => ⟨fun h => h, fun h => h⟩, fun p h => by simp at h⟩
  | cons a l ih =>
    obtain ⟨r1, r2, r3, r4, r5, r6⟩ := refLost_of u a
    have cfgO : ∀ j, j ≠ a → (getPort (refLost u a) j).cfg = (getPort u j).cfg := fun j hj => by have e := congrArg Port.cfg (r1 j hj); exact e
    have rstO : ∀ j, j ≠ a → (getPort (refLost u a) j).rst = (getPort u j).rst := fun j hj => by have e := congrArg Port.rst (r1 j hj); exact e
    have refO : ∀ j, j ≠ a → (getPort (refLost u a) j).refOk = (getPort u j).refOk := fun j hj => by have e := congrArg Port.refOk (r1 j hj); exact e
    have ih := ih (refLost u a) (fun j => by
      by_cases e : j = a
      · subst e
        refine ⟨r2.trans (k j).1, ?_⟩
        rcases r5 with g | g
        · rw [g]; exact (k j).2
        · exact .inr g
      · rw [cfgO j e, rstO j e]; exact k j)
    refine ⟨fun j => ⟨fun h => (ih.1 j).1 ?_, fun h => (ih.1 j).2 ?_⟩, fun p hp => ?_⟩
    · by_cases e : j = a
      · rw [e]; exact r3
      · rw [refO j e]; exact h
    · by_cases e : j = a
      · rw [e] at h ⊢; exact r4 h
      · rw [rstO j e]; exact h
    · rcases List.mem_cons.1 hp with e | e
      · subst e
        refine ⟨(ih.1 p).1 r3, fun g1 g2 g3 => (ih.1 p).2 ?_⟩
        rcases (k p).2 with q | q
        · refine r6 ?_ ?_ (q.trans g3)
          · rw [lead_congr (fun j => (k j).1)]; exact g1
          · unfold Port.enabled at *; rw [(k p).1]; exact g2
        · exact r4 q
      · exact ih.2 p e
theorem restored (l : List Nat) (s : State) (j : Nat) : getPort (forL l s fun s p => modPort s p fun x => { x with refOk := true }) j = if j ∈ l then { getPort s j with refOk := true } else getPort s j := by
  induction l generalizing s with
  | nil => simp [forL]
  | cons a l ih =>
    refine (ih _).trans ?_
    rw [mp]
    by_cases e : j = a
    · subst e; simp
    · simp [e]

end Sys2Proof.Laws.AboutLanes
end

