-- ==== Sys2Proof/Laws/AboutLeaves.lean ====
section
/-!
SUPPORT. Lemmas about leaves and stack links.
-/

namespace Sys2Proof.Laws.AboutLeaves

open Sys2Proof Sys2Proof.Machine Sys2Proof.Safety

theorem mp (s : State) (p j : Nat) (f : Port → Port) : getPort (modPort s p f) j = if j = p then f (getPort s p) else getPort s j := tget_tput _ _ _ _ _
theorem pp {s : State} {p : Nat} {f : Port → Port} : getPort (modPort s p f) p = f (getPort s p) := by rw [mp, if_pos rfl]
theorem mi (s : State) (p j : Nat) (f : Ifl → Ifl) : getPort (modIfl s p f) j = if j = p then { getPort s p with ifl := f (getPort s p).ifl } else getPort s j := mp _ _ _ _
theorem mip (s : State) (p : Nat) (f : Ifl → Ifl) : getPort (modIfl s p f) p = { getPort s p with ifl := f (getPort s p).ifl } := pp
theorem pc_port (u : State) (a b c d) : (portCount u a b c d).port = u.port := (portCount_rel (ch := 131072) rfl (Rel.refl u)).f14 rfl
theorem si_port (u : State) (a b) : (stewIf u a b).port = u.port := (stewIf_rel (ch := 4326402) rfl (Rel.refl u)).f14 rfl
theorem dpcStatus_port (s : State) (p : Nat) (b : Bool) : (dpcStatus s p b).port = s.port := (dpcStatus_rel (ch := 8192) rfl (Rel.refl s)).f14 rfl
theorem reset_rst (s : State) (p : Nat) (h : (getPort s p).rst = .run) : (getPort (resetPort s p) p).rst = .inReset ∧ (getPort (resetPort s p) p).link = .off := by
  have e : sansIfl (getPort (resetPort s p) p) = sansIfl (portClear (getPort s p)) := by
    unfold resetPort
    rw [if_neg (by simp [h])]
    dsimp only
    rw [restartTakes_ports]
    have r := flushPort_rel (x1 := p) (ch := 4294967295 - 16384) rfl (ecmpFail_rel (x1 := p) (ch := 4294967295 - 16384) rfl
      (newEntry__rel (x1 := uPort p) (ch := 4294967295 - 16384) rfl (Rel.refl (modPort s p portClear))))
    rw [getPort_congr (r.f14 rfl), pp]
  have h1 : (sansIfl (getPort (resetPort s p) p)).rst = (sansIfl (portClear (getPort s p))).rst := by rw [e]
  have h2 : (sansIfl (getPort (resetPort s p) p)).link = (sansIfl (portClear (getPort s p))).link := by rw [e]
  exact ⟨h1, h2⟩
theorem lost_rst (s : State) (p : Nat) (h : (getPort s p).rst = .run) : (getPort (linkLost s p) p).rst = .inReset ∧ (getPort (linkLost s p) p).link = .off := by
  unfold linkLost
  extract_lets -merge u v
  have hu : (getPort u p).rst = .run := by rw [show getPort u p = getPort s p from getPort_congr (pc_port _ _ _ _ _) p]; exact h
  have hv : (getPort v p).rst = .run := by
    show (getPort (if (getPort u p).mode = 5 then _ else u) p).rst = _
    split
    · rw [getPort_congr (si_port _ _ _), pp]; exact hu
    · exact hu
  split
  · unfold dpcTrigger
    dsimp only
    refine reset_rst _ _ ?_
    rw [getPort_congr (pc_port _ _ _ _ _), getPort_congr (dpcStatus_port _ _ _), pp]
    exact hv
  · exact reset_rst v p hv
theorem waits_congr {s u : State} (p : Nat) (hq : u.quire = s.quire) (hc : u.core = s.core) (hg : (getPort u p).genTag = (getPort s p).genTag) : portWaits u p = portWaits s p := by
  unfold portWaits genWait genOf
  rw [getQuire_congr hq, hc]
  dsimp only [uPort]
  rw [hg]
  rfl
theorem proto_rst (s u : State) (p : Nat) (hq : u.quire = s.quire) (hc : u.core = s.core) (hr : ∃ y, getPort u p = { getPort s p with ifl := y })
    (hw : portWaits s p = false) (h : (getPort s p).rst = .run) : (getPort (iflProto u p) p).rst = .inReset ∧ (getPort (iflProto u p) p).link = .off := by
  obtain ⟨y, hy⟩ := hr
  unfold iflProto
  rw [if_neg (by rw [waits_congr p hq hc (by rw [hy]), hw]; simp)]
  refine reset_rst _ _ ?_
  rw [getPort_congr (si_port _ _ _), mip, hy]
  exact h
section
variable (s : State) (p : Nat) (b : List Byte)
def liveP : Prop := roleOf (getPort s p) = 5 ∧ (getPort s p).link = .up ∧ (getPort s p).ifl.st = .active ∧ (getQuire s (quireOf p)).busy = false
/-- The state before the fields of a clean leaf are taken. -/
def base : State := iflConsume (topDown (portCount (portCount s p 0 none 1) p 2 none 256) 1 (2 * quireOf p) 0 none 1) p
theorem base_ifl : (base s p).core = s.core ∧ (base s p).quire = s.quire ∧ ∀ j, getPort (base s p) j = if j = p then { getPort s p with ifl := (getPort (iflConsume s p) p).ifl } else getPort s j := by
  have r : Rel 131072 s (topDown (portCount (portCount s p 0 none 1) p 2 none 256) 1 (2 * quireOf p) 0 none 1) := topDown_rel rfl (portCount_rel rfl (portCount_rel rfl (Rel.refl s)))
  unfold base
  generalize topDown (portCount (portCount s p 0 none 1) p 2 none 256) 1 (2 * quireOf p) 0 none 1 = u at r
  refine ⟨r.f16 rfl, r.f15 rfl, fun j => ?_⟩
  have e : ∀ w : State, getPort (iflConsume w p) j = if j = p then { getPort w p with ifl := consume ((w.core.pkts.filter fun k => k.ing == p && isStaged k).map fun k => k.id) (getPort w p).ifl.rxLeaves { (getPort w p).ifl with rxLeaves := [] } } else getPort w j := fun w => mi _ _ _ _
  have e2 : (getPort (iflConsume s p) p).ifl = consume ((s.core.pkts.filter fun k => k.ing == p && isStaged k).map fun k => k.id) (getPort s p).ifl.rxLeaves { (getPort s p).ifl with rxLeaves := [] } := by
    unfold iflConsume; rw [mip]
  rw [e, e2, r.f16 rfl, getPort_congr (r.f14 rfl), getPort_congr (r.f14 rfl)]
variable (kind : LeafHead → Bool) (act : State → LeafHead → State)
theorem in_dead (h : ¬liveP s p) : leafIn p b kind act s = s := by
  unfold leafIn
  dsimp only
  refine if_pos ?_
  apply Decidable.byContradiction
  intro g
  simp only [Bool.or_eq_true, bne_iff_ne, ne_eq, not_or, Decidable.not_not, Bool.not_eq_true] at g
  exact h ⟨g.1.1.1, g.1.1.2, g.1.2, g.2⟩
theorem in_live (h : liveP s p) : leafIn p b kind act s = if !leafCrcOk b then leafFail s p
    else if leafBad b || !kind (leafHead b) then s
    else if countBad (getPort (base s p) p).ifl (leafHead b) then iflProto (base s p) p
    else act (modIfl (base s p) p fun x => takeFields x (leafHead b)) (leafHead b) := by
  obtain ⟨h1, h2, h3, h4⟩ := h
  unfold leafIn
  dsimp only
  rw [if_neg (by rw [h1, h2, h3, h4]; simp)]
  rfl
theorem fail_of : (∀ j, getPort (leafFail s p) j = if j = p then { getPort s p with ifl := iflCount (getPort s p).ifl 0 } else getPort s j) ∧ onlyIn [.port, .cnt] s (leafFail s p) := by
  unfold leafFail
  refine ⟨fun j => ?_, ?_⟩
  · rw [getPort_congr (pc_port _ _ _ _ _), mi]
  · exact Rel.onlyIn (ch := 147456) (portCount_rel rfl (modIfl_rel rfl (Rel.refl s))) (by intro p hp; cases p <;> first | rfl | (exact absurd (by decide) hp))
theorem consume_keeps (held : List Nat) (l : List RxLeaf) (x : Ifl) : let y := consume held l x
    y.reqSent = x.reqSent ∧ y.reqSeen = x.reqSeen ∧ y.rspSent = x.rspSent ∧ y.rspSeen = x.rspSeen ∧ y.lastRx = x.lastRx := by
  induction l generalizing x with
  | nil => exact ⟨rfl, rfl, rfl, rfl, rfl⟩
  | cons a l ih =>
    unfold consume
    dsimp only
    repeat' split
    · exact ih x
    · exact ih _
    · exact ih _
theorem before_of : let y := (getPort (iflConsume s p) p).ifl
    countBad y (leafHead b) = countBad (getPort s p).ifl (leafHead b) ∧ y.lastRx = (getPort s p).ifl.lastRx := by
  intro y
  have e : y = consume ((s.core.pkts.filter fun k => k.ing == p && isStaged k).map fun k => k.id) (getPort s p).ifl.rxLeaves { (getPort s p).ifl with rxLeaves := [] } := by
    show (getPort (iflConsume s p) p).ifl = _
    unfold iflConsume; rw [mip]
  obtain ⟨a, b', c, d, f⟩ := consume_keeps ((s.core.pkts.filter fun k => k.ing == p && isStaged k).map fun k => k.id) (getPort s p).ifl.rxLeaves { (getPort s p).ifl with rxLeaves := [] }
  rw [← e] at a b' c d f
  refine ⟨?_, f⟩
  unfold countBad
  rw [a, b', c, d]
end
theorem ack_last (x : Ifl) (h : LeafHead) : (takeFields x h).lastRx = x.lastRx := by
  unfold takeFields takeAck
  dsimp only
  split <;> rfl
theorem others_mod {s : State} {p : Nat} {f : Port → Port} : ∀ j, j ≠ p → getPort (modPort s p f) j = getPort s j := fun j h => by rw [mp, if_neg h]
theorem er_at (u : State) (p : Nat) : getPort (enterRecovery u p) p = { getPort u p with link := .recovery, lanes := marginAbort (getPort u p).lanes, ifl := if (getPort u p).mode = 5 then iflRecovery (getPort u p).ifl else (getPort u p).ifl } :=
  (getPort_congr (s := modPort u p fun x => { x with link := .recovery, lanes := marginAbort x.lanes, ifl := if x.mode = 5 then iflRecovery x.ifl else x.ifl }) (t := enterRecovery u p) rfl p).trans pp
theorem er_other (u : State) (p j : Nat) (h : j ≠ p) : getPort (enterRecovery u p) j = getPort u j :=
  (getPort_congr (s := modPort u p fun x => { x with link := .recovery, lanes := marginAbort x.lanes, ifl := if x.mode = 5 then iflRecovery x.ifl else x.ifl }) (t := enterRecovery u p) rfl j).trans (others_mod j h)
def f4 : Ifl → Ifl := fun y => iflCount { y with evReplay := true, expiries := y.expiries + 1 } 5
theorem timer4 (s : State) (p : Nat) (h : (getPort s p).mode = 5) : let t := enterRecovery (modIfl (modIfl s p f4) p fun y => { y with expiries := 0 }) p
    (∀ j, j ≠ p → getPort t j = getPort s j) ∧ (getPort t p).link = .recovery ∧ (getPort t p).ifl.expiries = 0 ∧ (getPort t p).ifl.evRecovery = true := by
  intro t
  refine ⟨fun j hj => ?_, ?_⟩
  · refine (er_other _ p j hj).trans ?_
    rw [mi, if_neg hj, mi, if_neg hj]
  · have u1 : getPort (modIfl (modIfl s p f4) p fun y => { y with expiries := 0 }) p = { getPort s p with ifl := { f4 (getPort s p).ifl with expiries := 0 } } := by
      rw [mip, mip]
    have e : getPort t p = _ := er_at _ _
    rw [e, u1]
    dsimp only
    rw [if_pos h]
    exact ⟨rfl, rfl, rfl⟩

end Sys2Proof.Laws.AboutLeaves
end

