-- ==== Sys2Proof/Laws/AboutLinks.lean ====
section
/-!
SUPPORT. Lemmas about command links and the sideband.
-/

namespace Sys2Proof.Laws.AboutLinks

open Sys2Proof Sys2Proof.Machine Sys2Proof.Safety

theorem cmdOnly (s : State) (g : Cmd) : onlyIn [.cmd] s { s with cmd := g } := by
  intro p hp
  cases p <;> first | rfl | exact ⟨rfl, rfl⟩ | exact fun _ => ⟨fun _ => rfl, rfl, rfl, rfl, rfl⟩ | (simp at hp)
theorem cmdOut (s : State) (g : Cmd) (o) : onlyIn [.cmd, .out] s { s with cmd := g, out := o } := by
  intro p hp
  cases p <;> first | rfl | exact ⟨rfl, rfl⟩ | exact fun _ => ⟨fun _ => rfl, rfl, rfl, rfl, rfl⟩ | (simp at hp)
theorem lm (s : State) (i : Nat) (f : CmdLink → CmdLink) (j : Nat) : getLink (modLink s i f) j = if j = i ∨ (i ≠ 0 ∧ j ≠ 0) then f (getLink s i) else getLink s j := by
  unfold getLink modLink
  by_cases h : i = 0
  · by_cases h2 : j = 0 <;> simp [h, h2]
  · by_cases h2 : j = 0
    · have : (0 : Nat) ≠ i := Ne.symm h
      simp [h, h2, this]
    · simp [h, h2]
def LL (s t : State) : Prop := t.cmd.linkA = s.cmd.linkA ∧ t.cmd.linkB = s.cmd.linkB ∧ t.cmd.active = s.cmd.active ∧ t.cmd.switched = s.cmd.switched ∧ t.cmd.mode = s.cmd.mode
theorem LL.refl (s : State) : LL s s := ⟨rfl, rfl, rfl, rfl, rfl⟩
theorem LL.trans {s t u : State} (a : LL s t) (b : LL t u) : LL s u := ⟨b.1.trans a.1, b.2.1.trans a.2.1, b.2.2.1.trans a.2.2.1, b.2.2.2.1.trans a.2.2.2.1, b.2.2.2.2.trans a.2.2.2.2⟩
theorem LL.of {s t : State} (h : t.cmd = s.cmd) : LL s t := by unfold LL; rw [h]; exact ⟨rfl, rfl, rfl, rfl, rfl⟩
theorem msix_l (u : State) (v) : LL u (msixSend u v) := by
  unfold msixSend
  dsimp only
  repeat' split
  all_goals exact ⟨rfl, rfl, rfl, rfl, rfl⟩
theorem vec_l (u : State) (c v) : LL u (vecSend u c v) := by
  unfold vecSend
  dsimp only
  split
  · exact ⟨rfl, rfl, rfl, rfl, rfl⟩
  · exact msix_l _ _
theorem ev_l (u : State) (c e) : LL u (evLatch u c e) := by
  unfold evLatch evtVec
  dsimp only
  repeat' split
  · exact LL.refl _
  · exact LL.of ((countEv_rel (ch := 131072) rfl (Rel.refl u)).f1 rfl)
  · exact LL.trans (t := modCtx (modCtx u c fun x => { x with evp := x.evp ||| (1 <<< e) }) c fun x => { x with evtArmed := false }) ⟨rfl, rfl, rfl, rfl, rfl⟩ (vec_l _ _ _)
  · exact ⟨rfl, rfl, rfl, rfl, rfl⟩
  · exact ⟨rfl, rfl, rfl, rfl, rfl⟩
theorem off_l (u : State) (b) (c : Nat) : LL u (ringsOff b u c) := by
  unfold ringsOff
  extract_lets x hit rings cq v
  split
  · exact ⟨rfl, rfl, rfl, rfl, rfl⟩
  · exact ⟨rfl, rfl, rfl, rfl, rfl⟩
theorem rings_l (u : State) : LL u (hostRingsOff u) := by
  unfold hostRingsOff stewEv
  refine LL.trans ?_ (ev_l _ _ _)
  generalize List.range 18 = l
  induction l generalizing u with
  | nil => exact LL.refl _
  | cons a l ih => exact LL.trans (off_l u _ a) (ih _)

theorem LL.link {s t : State} (h : LL s t) (k : Nat) : getLink t k = getLink s k := by unfold getLink; rw [h.1, h.2.1]
theorem linkAt (s : State) (i : Nat) (f : CmdLink → CmdLink) : getLink (modLink s i f) i = f (getLink s i) := getLink_modLink s i f
theorem over_of (s u : State) (hu : LL s u) : (switchover u).cmd.active = (!s.cmd.active) ∧ (switchover u).cmd.switched = true ∧ ∀ k, getLink (switchover u) k = getLink s k := by
  unfold switchover
  extract_lets -merge old c1 v c2 w
  have r := rings_l w
  exact ⟨r.2.2.1.trans (congrArg (fun b => !b) hu.2.2.1), r.2.2.2.1, fun k => (r.link k).trans (hu.link k)⟩
theorem fo_link (s : State) (k : Nat) : getLink (failoverNow s) k = getLink s k ∧ (failoverNow s).cmd.mode = s.cmd.mode := by
  unfold failoverNow
  dsimp only
  split
  · refine ⟨(over_of s s (LL.refl s)).2.2 k, ?_⟩
    unfold switchover
    extract_lets -merge old c1 v c2 w
    exact (rings_l w).2.2.2.2
  · exact ⟨rfl, rfl⟩
theorem stewIf_l (u : State) (p q : Bool) : LL u (stewIf u p q) := by
  unfold stewIf
  split
  · exact ev_l _ _ _
  · exact LL.refl _
theorem lane_l (s : State) (l : Nat) (g st) : getLink (linkLaneEv s l g st) l = { getLink s l with lanes := st (getLink s l).lanes } ∧ (linkLaneEv s l g st).cmd.mode = s.cmd.mode := by
  unfold linkLaneEv
  extract_lets x u
  have r := stewIf_l u (g x) true
  refine ⟨(r.link l).trans (linkAt s l _), r.2.2.2.2.trans ?_⟩
  show (modLink s l _).cmd.mode = _
  unfold modLink
  split <;> rfl
theorem ml_mode (s : State) (l : Nat) (f) : (modLink s l f).cmd.mode = s.cmd.mode := by unfold modLink; split <;> rfl
theorem resetDown (s : State) (l : Nat) (h : (getLink s l).rst = .run) : let t := resetCmd s l false
    (getLink t l).rst = .inReset ∧ (getLink t l).up = false ∧ (getLink t l).genTag = (getLink s l).genTag + 1 ∧ (getLink t l).barsSet = false ∧ (getLink t l).msixEnable = false ∧ (getLink t l).perst = (getLink s l).perst := by
  intro t
  have e : getLink t l = { getLink s l with barsSet := false, msixEnable := false, msixMask := false, up := false, rst := .inReset, genTag := (getLink s l).genTag + 1, rate := 0, lanes := lanesClear (getLink s l).lanes } := by
    show getLink (resetCmd s l false) l = _
    unfold resetCmd
    extract_lets -merge x clear a b d
    rw [if_neg (by show ¬ ((getLink s l).rst != .run) = true; rw [h]; simp)]
    have hb : b.cmd = a.cmd := by
      show (if x.up then cntAdd a (0x1858 + 0x1000 * l) 1 else a).cmd = _
      split
      · exact (cntAdd_rel (ch := 131072) rfl (Rel.refl a)).f1 rfl
      · rfl
    have hd : getLink d l = getLink a l := getLink_congr (t := d) (s := a) hb l
    have ha : getLink a l = _ := linkAt s l _
    split
    · exact ((rings_l d).link l).trans (hd.trans ha)
    · exact hd.trans ha
  rw [e]
  exact ⟨rfl, rfl, rfl, rfl, rfl, rfl⟩
def body (s : State) (l : Nat) (r : Partner) (y : Port) (mode n : Nat) : State :=
      let lanes := trainedLanes s y r (goodLanes s y r) (r.reversed && bit y.lanes.cfg 27) (if mode = 0 then 16 else 8) n
      let s := { s with cmd := { s.cmd with mode := mode } }
      let s := modLink s l fun y => { y with up := true, rate := min r.maxRate r.eqRate, lanes := lanes, barsSet := true, msixEnable := true }
      let s := if n < (if mode = 0 then 16 else 8) then linkLaneEv s l (·.evDegraded) fun y => { y with evDegraded := true } else s
      let s := if l = activeLink s then { s with cmd := { s.cmd with foDue := false } } else s
      failoverNow s
theorem trained (s : State) (l : Nat) (r : Partner) (mode : Nat) (hu : (getLink s l).up = false) :
    let y : Port := { lanes := (getLink s l).lanes }
    let n := chooseWidth y (goodLanes s y r) (r.reversed && bit y.lanes.cfg 27) (if mode = 0 then 16 else 8)
    let t := linkTrained s l r mode
    (n = none → (getLink t l).up = false ∧ (getLink t l).lanes.evEqFail = true) ∧
    (n ≠ none → (getLink t l).up = true ∧ (getLink t l).rate = min r.maxRate r.eqRate ∧ t.cmd.mode = mode) := by
  intro y n t
  have e : t = match n with
    | none => linkLaneEv s l (·.evEqFail) fun y => { y with evEqFail := true }
    | some n =>
      body s l r y mode n := rfl
  rw [e]
  cases n with
  | none =>
    refine ⟨fun _ => ?_, fun h => absurd rfl h⟩
    dsimp only
    rw [(lane_l _ _ _ _).1]
    exact ⟨hu, rfl⟩
  | some n =>
    refine ⟨fun h => by simp at h, fun _ => ?_⟩
    show (getLink (body s l r y mode n) l).up = true ∧ (getLink (body s l r y mode n) l).rate = _ ∧ (body s l r y mode n).cmd.mode = mode
    unfold body
    extract_lets -merge lanes c1 s1 s2 s3 c2 s4
    have h2 : getLink s2 l = _ := linkAt s1 l _
    have m2 : s2.cmd.mode = mode := ml_mode s1 l _
    have h3 : (getLink s3 l).up = true ∧ (getLink s3 l).rate = min r.maxRate r.eqRate ∧ s3.cmd.mode = mode := by
      have key : ∀ b : Prop, [Decidable b] → ∀ z : State, z = (if b then linkLaneEv s2 l (·.evDegraded) fun y => { y with evDegraded := true } else s2) →
          (getLink z l).up = true ∧ (getLink z l).rate = min r.maxRate r.eqRate ∧ z.cmd.mode = mode := by
        intro b _ z hz
        rw [hz]
        by_cases hb : b
        · rw [if_pos hb, (lane_l _ _ _ _).1, (lane_l _ _ _ _).2, h2]; exact ⟨rfl, rfl, m2⟩
        · rw [if_neg hb, h2]; exact ⟨rfl, rfl, m2⟩
      exact key _ s3 rfl
    have h4 : getLink s4 l = getLink s3 l ∧ s4.cmd.mode = s3.cmd.mode := by
      show getLink (if _ then _ else s3) l = _ ∧ (if _ then _ else s3 : State).cmd.mode = _
      split
      · exact ⟨rfl, rfl⟩
      · exact ⟨rfl, rfl⟩
    rw [(fo_link s4 l).1, (fo_link s4 l).2, h4.1, h4.2]
    exact h3

end Sys2Proof.Laws.AboutLinks
end

