-- ==== Sys2Proof/Laws/AboutLoads.lean ====
section
/-!
SUPPORT. Lemmas about loads, stores and register instructions.
-/

namespace Sys2Proof.Laws.AboutLoads

open Sys2Proof Sys2Proof.Machine Sys2Proof.Safety

theorem sx_eq (w : Ox) : sx w = w.imm.signExtend 64 := rfl
theorem fabPkt_seq (s : State) (q : Seq) (t : Option Nat) (o : Org) (m : Msg) (p : Nat) : fabPkt { s with seq := q } t o m p = fabPkt s t o m p := rfl
theorem dkl_seq (s : State) (q : Seq) (k : Chk) : dklLine { s with seq := q } k = dklLine s k := rfl
theorem dkl_of {s u : State} (h : u.dkl = s.dkl) (k : Chk) : dklLine u k = dklLine s k := by unfold dklLine; rw [h]
theorem memPass_ok {s : State} {c op : Nat} {q : Chk} {go : State → State} (h : dklLine s q = .pass) : memPass s c op q go = go s := by
  unfold memPass; rw [h]
theorem modCtx_seq (s : State) (c : Nat) (f : Ctx → Ctx) : ∃ q, modCtx s c f = { s with seq := q } := ⟨_, rfl⟩
theorem waitLoad_seq (s : State) (c op : Nat) (w : Ox) (n : Nat) (b : Bool) : ∃ q, waitLoad s c op w n b = { s with seq := q } := ⟨_, rfl⟩
theorem seq_seq {s u v : State} (a : ∃ q, u = { s with seq := q }) (b : ∃ q, v = { u with seq := q }) : ∃ q, v = { s with seq := q } := by
  obtain ⟨q, rfl⟩ := a; obtain ⟨q', rfl⟩ := b; exact ⟨q', rfl⟩
theorem sans_wait {x y : Ctx} (h : sansEvents x = sansEvents y) : x.wait = y.wait ∧ x.st = y.st ∧ x.reply = y.reply ∧ x.stores = y.stores := by
  have a : (sansEvents x).wait = (sansEvents y).wait := by rw [h]
  have b : (sansEvents x).st = (sansEvents y).st := by rw [h]
  have d : (sansEvents x).reply = (sansEvents y).reply := by rw [h]
  have e : (sansEvents x).stores = (sansEvents y).stores := by rw [h]
  exact ⟨a, b, d, e⟩
/-- what an accepted request leaves -/
theorem enSend_ok (u : State) (p : Pkt) (h : p.dest ≠ .none) : contextsKept u (enSend u p) ∧
    ∃ p', (enSend u p).core.pkts = u.core.pkts ++ [p'] ∧ p'.org = p.org ∧ p'.msg = p.msg ∧ p'.stage = .staged ∧ p'.ten = p.ten := by
  unfold enSend
  split
  · next h' => exact absurd h' h
  · exact ⟨addPkt_ctx _ _, _, addPkt_pkts _ _, rfl, rfl, rfl, rfl⟩
theorem memSend_ok {s u : State} (hu : ∃ q, u = { s with seq := q }) (c sp : Nat) (o : Org) (m : Msg)
    (h : sp ≠ 0 → (fabPkt s (tenOf c) o m 0).dest ≠ .none) :
    contextsKept u (memSend u c sp o m) ∧
    ∃ p', (memSend u c sp o m).core.pkts = s.core.pkts ++ [p'] ∧ p'.org = o ∧ p'.msg = m ∧ p'.stage = .staged ∧ p'.ten = tenOf c := by
  obtain ⟨q, rfl⟩ := hu
  unfold memSend
  by_cases e : sp = 0
  · rw [if_pos e]
    exact enSend_ok _ _ (by simp [poolPkt])
  · rw [if_neg e, fabPkt_seq]
    exact enSend_ok { s with seq := q } (fabPkt s (tenOf c) o m 0) (h e)
theorem chk2 {b1 b2 : Bool} {n1 n2 : Nat} (h1 : b1 = false) (h2 : b2 = false) : ∀ e ∈ [(b1, n1), (b2, n2)], e.1 = false := by
  intro e he
  simp only [List.mem_cons, List.not_mem_nil, or_false] at he
  rcases he with rfl | rfl
  · exact h1
  · exact h2
theorem sans_regs {x y : Ctx} (h : sansEvents x = sansEvents y) : regs x = regs y := by
  have a : regs (sansEvents x) = regs (sansEvents y) := by rw [h]
  exact a
theorem ldcW (s : State) (c n a : Nat) : csrWords (.ctx c) n a s = (csrWords (.ctx c) n a s) := rfl

end Sys2Proof.Laws.AboutLoads
end

