-- ==== Sys2Proof/Laws/AboutMachine.lean ====
section
/-!
SUPPORT. Lemmas about the machine as a whole.
-/

namespace Sys2Proof.Laws.AboutMachine

open Sys2Proof Sys2Proof.Machine Sys2Proof.Safety

theorem reset_ctx (c : Nat) : getCtx State.reset c = if c = 0 then { enable := true, st := .idle, weight := 16 } else if c = 1 then { enable := true, st := .idle } else {} := by
  match c with
  | 0 => rfl
  | 1 => rfl
  | n + 2 => rfl
theorem step_rel {s t : State} (h : step s = .next t) : Rel 2147483647 { s with pending := s.pending.drop 1 } t := by
  unfold step at h
  split at h
  · next e =>
    cases h
    have : ({ s with pending := s.pending.drop 1 } : State) = s := by
      rw [e]
      exact (congrArg (fun l => { s with pending := l }) e.symm : ({ s with pending := [] } : State) = { s with pending := s.pending })
    rw [this]
    exact tick_rel rfl (Rel.refl s)
  · next c l e =>
    rw [e]
    exact exec_rel h
theorem unit_form (i : Instr) (s : State) : ∃ u, exec i s = unitOk i.wf u := by
  cases i <;> first | exact ⟨_, rfl⟩ | exact ⟨_, (unitOk_of rfl _).symm⟩
theorem xor_cancel {a b t : Nat} (h : a ^^^ t = b ^^^ t) : a = b := by
  have := congrArg (· ^^^ t) h
  simpa [Nat.xor_assoc] using this
theorem dirSet_lt (line : BitVec 37) : dirSet line.toNat < 2 ^ 19 := by
  unfold dirSet
  exact Nat.xor_lt_two_pow (Nat.mod_lt _ (by decide)) (by have := line.isLt; omega)
theorem ext_lo (line : BitVec 37) : (line.extractLsb' 0 19).toNat = line.toNat % 2 ^ 19 := by simp
theorem ext_hi (line : BitVec 37) : (line.extractLsb' 19 18).toNat = line.toNat / 2 ^ 19 := by
  simp only [BitVec.extractLsb'_toNat, Nat.shiftRight_eq_div_pow]
  have := line.isLt
  omega
theorem ways_mem (L k : Nat) : k ∈ ways L ↔ k / 16 = dirSet L := by
  unfold ways
  simp only [List.mem_map, List.mem_range]
  constructor
  · rintro ⟨w, h, rfl⟩; omega
  · intro h; exact ⟨k % 16, by omega, by omega⟩
theorem lo32_x (p : W64) : lo32 p = p.extractLsb' 0 32 := by
  apply BitVec.eq_of_toNat_eq
  simp [lo32]
theorem hi32_x (p : W64) : hi32 p = p.extractLsb' 32 32 := by
  apply BitVec.eq_of_toNat_eq
  simp [hi32]
theorem pair_x (w v : W32) : pair w v = w ++ v := by
  apply BitVec.eq_of_toNat_eq
  have h1 := w.isLt
  have h2 := v.isLt
  simp only [pair, BitVec.toNat_append, BitVec.toNat_ofNat]
  rw [← Nat.shiftLeft_add_eq_or_of_lt h2, Nat.shiftLeft_eq, Nat.mod_eq_of_lt (by omega)]
theorem latch_get (l : List (Master × Nat × W32)) (m : Master) (a : Nat) (v : W32) : latchGet ((m, a, v) :: latchDel l m a) m a = some v := by
  simp [latchGet]
theorem only1 {p : Part} {s t : State} (h : ∀ q, q ≠ p → same s t q) : onlyIn [p] s t := fun q hq => h q (by simpa using hq)
theorem ksel_facts : ∀ c : Fin 18, inWindow (0x51000 + c.val * 0x100 + 0x10) = false ∧ owned (0x51000 + c.val * 0x100 + 0x10) = false ∧
    stwOnly (0x51000 + c.val * 0x100 + 0x10) = false ∧ ctxAt (0x51000 + c.val * 0x100 + 0x10) = some c.val ∧ (0x51000 + c.val * 0x100 + 0x10) % 0x100 = 0x10 ∧
    (0x51000 + c.val * 0x100 + 0x10) / 0x10000 = 5 ∧ (0x51000 + c.val * 0x100 + 0xC) / 0x10000 = 5 ∧ (0x51000 + c.val * 0x100 + 0x10) % 4 = 0 := by decide

theorem ksel_noten (s : State) (c : Nat) (h : c < 18) : noTenant s (0x51000 + c * 0x100 + 0x10) = false := by
  unfold noTenant
  rw [show decide (0x300000 ≤ 0x51000 + c * 0x100 + 0x10) = false by simp; omega]
  rfl
theorem pair5 (s : State) (a : Nat) (h : a / 0x10000 = 5) :
    pairVal s a = if (0x51000 ≤ a && a < 0x52200) = true then ctxPair (getCtx s ((a - 0x51000) / 0x100)) (a % 0x100) else none := by
  unfold pairVal
  rw [h]
  rfl
theorem ksel_pair (s : State) (c : Nat) (h : c < 18) : pairVal s (0x51000 + c * 0x100 + 0x10) = none ∧ pairVal s (0x51000 + c * 0x100 + 0x10 - 4) = none := by
  have d1 : (0x51000 + c * 0x100 + 0x10) / 0x10000 = 5 := by omega
  have d2 : (0x51000 + c * 0x100 + 0x10 - 4) / 0x10000 = 5 := by omega
  have m1 : (0x51000 + c * 0x100 + 0x10) % 0x100 = 0x10 := by omega
  have m2 : (0x51000 + c * 0x100 + 0x10 - 4) % 0x100 = 0xC := by omega
  rw [pair5 s _ d1, pair5 s _ d2, m1, m2]
  constructor <;> (split <;> rfl)
theorem ksel_reg (s : State) (m : Master) (c : Nat) (v : W32) (hc : c < 18) :
    regWrite s m (0x51000 + c * 0x100 + 0x10) v = modCtx s c fun x => { x with ksel := fld v 0 5 } := by
  obtain ⟨f1, f2, f3, f4, f5, f6, -, f8⟩ := ksel_facts ⟨c, hc⟩
  dsimp only at f1 f2 f3 f4 f5 f6 f8
  have k : ∀ a, a / 0x10000 = 5 → regWrite s m a v = match ctxAt a with | some c => ctxWrite s c (a % 0x100) v | none => s := by
    intro a h
    unfold regWrite
    rw [h]
    rfl
  rw [k _ f6, f4, f5]
  rfl
theorem ksel_write (s : State) (m : Master) (c : Nat) (v : W32) (hc : c < 18) (h : csrGate s m (0x51000 + c * 0x100 + 0x10) true = .serve) :
    busWrite s m (0x51000 + c * 0x100 + 0x10) v = modCtx s c fun x => { x with ksel := fld v 0 5 } := by
  obtain ⟨f1, f2, f3, f4, f5, f6, -, f8⟩ := ksel_facts ⟨c, hc⟩
  dsimp only at f1 f2 f3 f4 f5 f6 f8
  unfold busWrite
  rw [if_neg (by simp; omega), h]
  dsimp only
  unfold csrWrite
  rw [if_neg (by simp [f1]), if_neg (by simp [ksel_noten s c hc]), if_neg (by simp [f2]), if_neg (by simp [f3]),
    if_neg (by unfold ringLocked; rw [f5]; simp [oxm7]), (ksel_pair s c hc).1]
  dsimp only
  rw [if_pos (by omega), (ksel_pair s c hc).2]
  exact ksel_reg s m c v hc
theorem ksel_csr (s : State) (m : Master) (c : Nat) (hc : c < 18) :
    csrRead s m (0x51000 + c * 0x100 + 0x10) = { v := (getCtx s c).evp, s := s } := by
  obtain ⟨f1, f2, f3, f4, f5, f6, -, f8⟩ := ksel_facts ⟨c, hc⟩
  dsimp only at f1 f2 f3 f4 f5 f6 f8
  unfold csrRead
  rw [if_neg (by simp [f1]), (ksel_pair s c hc).1]
  dsimp only
  rw [if_pos (by omega), (ksel_pair s c hc).2]
  dsimp only
  have k : ∀ a, a / 0x10000 = 5 → 0x51000 ≤ a → a < 0x52200 → regVal s m a = ctxReg (getCtx s ((a - 0x51000) / 0x100)) (a % 0x100) := by
    intro a h l u
    unfold regVal
    rw [h]
    exact if_pos (by simp [l, u])
  rw [k _ f6 (by omega) (by omega), show (0x51000 + c * 0x100 + 0x10 - 0x51000) / 0x100 = c by omega, f5]
  rfl
theorem ksel_read (s : State) (m : Master) (c : Nat) (hc : c < 18) (h : csrGate s m (0x51000 + c * 0x100 + 0x10) false = .serve) :
    busRead s m (0x51000 + c * 0x100 + 0x10) = (some (getCtx s c).evp, s) := by
  unfold busRead
  rw [h]
  dsimp only
  rw [ksel_csr s m c hc]
  rfl
def maskOf (l : List Part) : Nat := l.foldr (fun p m => 2 ^ partIdx p ||| m) 0
theorem partIdx_inj {p q : Part} (h : partIdx p = partIdx q) : p = q := by cases p <;> cases q <;> first | rfl | exact absurd h (by decide)
theorem maskOf_bit (l : List Part) (p : Part) (h : p ∉ l) : (maskOf l).testBit (partIdx p) = false := by
  induction l with
  | nil => simp [maskOf]
  | cons q l ih =>
    rw [List.mem_cons, not_or] at h
    show (2 ^ partIdx q ||| maskOf l).testBit (partIdx p) = false
    rw [Nat.testBit_or, ih h.2, Nat.testBit_two_pow_of_ne (fun e => h.1 (partIdx_inj e.symm))]
    rfl
theorem touch {l : List Part} {m : Nat} {s t : State} (hm : maskOf l = m) (h : Rel m s t) : onlyIn l s t := by
  subst hm; exact h.onlyIn (maskOf_bit l)
theorem touchAll {s t : State} : onlyIn [.glb, .cmd, .pwr, .pace, .slot, .pwrfail, .slotHold, .pool, .home, .dkl, .seq, .mov, .time, .ten, .port, .quire, .core, .cnt, .stk, .tap, .pairLo, .pairHi, .out, .fresh, .nextId, .dram, .store, .sheets, .deckles, .registers] s t :=
  fun p hp => by cases p <;> exact absurd (by decide) hp
theorem mask_1 : maskOf [.glb] = 1 := by decide
theorem mask_2 : maskOf [.cmd] = 2 := by decide
theorem mask_4 : maskOf [.pwr] = 4 := by decide
theorem mask_8 : maskOf [.pace] = 8 := by decide
theorem mask_9 : maskOf [.glb, .pace] = 9 := by decide
theorem mask_16 : maskOf [.slot] = 16 := by decide
theorem mask_64 : maskOf [.slotHold] = 64 := by decide
theorem mask_128 : maskOf [.pool] = 128 := by decide
theorem mask_256 : maskOf [.home] = 256 := by decide
theorem mask_512 : maskOf [.dkl] = 512 := by decide
theorem mask_1024 : maskOf [.seq] = 1024 := by decide
theorem mask_4096 : maskOf [.time] = 4096 := by decide
theorem mask_16384 : maskOf [.port] = 16384 := by decide
theorem mask_16388 : maskOf [.pwr, .port] = 16388 := by decide
theorem mask_24576 : maskOf [.ten, .port] = 24576 := by decide
theorem mask_32768 : maskOf [.quire] = 32768 := by decide
theorem mask_65536 : maskOf [.core] = 65536 := by decide
theorem mask_131072 : maskOf [.cnt] = 131072 := by decide
theorem mask_131080 : maskOf [.pace, .cnt] = 131080 := by decide
theorem mask_135168 : maskOf [.time, .cnt] = 135168 := by decide
theorem mask_147456 : maskOf [.port, .cnt] = 147456 := by decide
theorem mask_155648 : maskOf [.ten, .port, .cnt] = 155648 := by decide
theorem mask_182401 : maskOf [.glb, .pool, .mov, .port, .quire, .cnt] = 182401 := by decide
theorem mask_196608 : maskOf [.core, .cnt] = 196608 := by decide
theorem mask_262144 : maskOf [.stk] = 262144 := by decide
theorem mask_262145 : maskOf [.glb, .stk] = 262145 := by decide
theorem mask_393216 : maskOf [.cnt, .stk] = 393216 := by decide
theorem mask_409600 : maskOf [.port, .cnt, .stk] = 409600 := by decide
theorem mask_524288 : maskOf [.tap] = 524288 := by decide
theorem mask_524416 : maskOf [.pool, .tap] = 524416 := by decide
theorem mask_737285 : maskOf [.glb, .pwr, .port, .core, .cnt, .tap] = 737285 := by decide
theorem mask_4194304 : maskOf [.out] = 4194304 := by decide
theorem mask_4194306 : maskOf [.cmd, .out] = 4194306 := by decide
theorem mask_4195328 : maskOf [.seq, .out] = 4195328 := by decide
theorem mask_4198400 : maskOf [.time, .out] = 4198400 := by decide
theorem mask_4210688 : maskOf [.port, .out] = 4210688 := by decide
theorem mask_4326402 : maskOf [.cmd, .seq, .cnt, .out] = 4326402 := by decide
theorem mask_4326406 : maskOf [.cmd, .pwr, .seq, .cnt, .out] = 4326406 := by decide
theorem mask_4326414 : maskOf [.cmd, .pwr, .pace, .seq, .cnt, .out] = 4326414 := by decide
theorem mask_4326415 : maskOf [.glb, .cmd, .pwr, .pace, .seq, .cnt, .out] = 4326415 := by decide
theorem mask_4326466 : maskOf [.cmd, .slotHold, .seq, .cnt, .out] = 4326466 := by decide
theorem mask_4330498 : maskOf [.cmd, .seq, .time, .cnt, .out] = 4330498 := by decide
theorem mask_4334610 : maskOf [.cmd, .slot, .seq, .ten, .cnt, .out] = 4334610 := by decide
theorem mask_4334614 : maskOf [.cmd, .pwr, .slot, .seq, .ten, .cnt, .out] = 4334614 := by decide
theorem mask_4334642 : maskOf [.cmd, .slot, .pwrfail, .seq, .ten, .cnt, .out] = 4334642 := by decide
theorem mask_4350978 : maskOf [.cmd, .seq, .ten, .port, .cnt, .out] = 4350978 := by decide
theorem mask_4391938 : maskOf [.cmd, .seq, .core, .cnt, .out] = 4391938 := by decide
theorem mask_4408326 : maskOf [.cmd, .pwr, .seq, .port, .core, .cnt, .out] = 4408326 := by decide
theorem mask_4424706 : maskOf [.cmd, .seq, .quire, .core, .cnt, .out] = 4424706 := by decide
theorem mask_4588546 : maskOf [.cmd, .seq, .cnt, .stk, .out] = 4588546 := by decide
theorem mask_4718592 : maskOf [.tap, .out] = 4718592 := by decide
theorem mask_6424066 : maskOf [.cmd, .dkl, .seq, .cnt, .pairHi, .out] = 6424066 := by decide
theorem mask_12715010 : maskOf [.cmd, .seq, .cnt, .out, .fresh] = 12715010 := by decide
theorem mask_12723202 : maskOf [.cmd, .seq, .ten, .cnt, .out, .fresh] = 12723202 := by decide
theorem mask_12788738 : maskOf [.cmd, .seq, .ten, .core, .cnt, .out, .fresh] = 12788738 := by decide
theorem mask_12861440 : maskOf [.port, .stk, .out, .fresh] = 12861440 := by decide
theorem mask_12865536 : maskOf [.time, .port, .stk, .out, .fresh] = 12865536 := by decide
theorem mask_12993538 : maskOf [.cmd, .seq, .port, .cnt, .stk, .out, .fresh] = 12993538 := by decide
theorem mask_12993539 : maskOf [.glb, .cmd, .seq, .port, .cnt, .stk, .out, .fresh] = 12993539 := by decide
theorem mask_12993542 : maskOf [.cmd, .pwr, .seq, .port, .cnt, .stk, .out, .fresh] = 12993542 := by decide
theorem mask_12993554 : maskOf [.cmd, .slot, .seq, .port, .cnt, .stk, .out, .fresh] = 12993554 := by decide
theorem mask_12993558 : maskOf [.cmd, .pwr, .slot, .seq, .port, .cnt, .stk, .out, .fresh] = 12993558 := by decide
theorem mask_12994051 : maskOf [.glb, .cmd, .dkl, .seq, .port, .cnt, .stk, .out, .fresh] = 12994051 := by decide
theorem mask_12995586 : maskOf [.cmd, .seq, .mov, .port, .cnt, .stk, .out, .fresh] = 12995586 := by decide
theorem mask_12996098 : maskOf [.cmd, .dkl, .seq, .mov, .port, .cnt, .stk, .out, .fresh] = 12996098 := by decide
theorem mask_12997634 : maskOf [.cmd, .seq, .time, .port, .cnt, .stk, .out, .fresh] = 12997634 := by decide
theorem mask_13001730 : maskOf [.cmd, .seq, .ten, .port, .cnt, .stk, .out, .fresh] = 13001730 := by decide
theorem mask_13001750 : maskOf [.cmd, .pwr, .slot, .seq, .ten, .port, .cnt, .stk, .out, .fresh] = 13001750 := by decide
theorem mask_13026306 : maskOf [.cmd, .seq, .port, .quire, .cnt, .stk, .out, .fresh] = 13026306 := by decide
theorem mask_13526038 : maskOf [.cmd, .pwr, .slot, .seq, .ten, .port, .cnt, .stk, .tap, .out, .fresh] = 13526038 := by decide
theorem mask_14812674 : maskOf [.cmd, .dkl, .seq, .cnt, .pairHi, .out, .fresh] = 14812674 := by decide
theorem mask_15091202 : maskOf [.cmd, .dkl, .seq, .port, .cnt, .stk, .pairHi, .out, .fresh] = 15091202 := by decide
theorem mask_21169154 : maskOf [.cmd, .seq, .core, .cnt, .out, .nextId] = 21169154 := by decide
theorem mask_21169410 : maskOf [.cmd, .home, .seq, .core, .cnt, .out, .nextId] = 21169410 := by decide
theorem mask_21171202 : maskOf [.cmd, .seq, .mov, .core, .cnt, .out, .nextId] = 21171202 := by decide
theorem mask_29559810 : maskOf [.cmd, .seq, .mov, .core, .cnt, .out, .fresh, .nextId] = 29559810 := by decide
theorem mask_29560322 : maskOf [.cmd, .dkl, .seq, .mov, .core, .cnt, .out, .fresh, .nextId] = 29560322 := by decide
theorem mask_29576194 : maskOf [.cmd, .seq, .mov, .port, .core, .cnt, .out, .fresh, .nextId] = 29576194 := by decide
theorem mask_29584642 : maskOf [.cmd, .home, .seq, .mov, .ten, .port, .core, .cnt, .out, .fresh, .nextId] = 29584642 := by decide
theorem mask_29608962 : maskOf [.cmd, .seq, .mov, .port, .quire, .core, .cnt, .out, .fresh, .nextId] = 29608962 := by decide
theorem mask_29838850 : maskOf [.cmd, .dkl, .seq, .mov, .port, .core, .cnt, .stk, .out, .fresh, .nextId] = 29838850 := by decide
theorem mask_29842434 : maskOf [.cmd, .seq, .mov, .time, .port, .core, .cnt, .stk, .out, .fresh, .nextId] = 29842434 := by decide
theorem mask_29846786 : maskOf [.cmd, .home, .seq, .mov, .ten, .port, .core, .cnt, .stk, .out, .fresh, .nextId] = 29846786 := by decide
theorem mask_29850626 : maskOf [.cmd, .seq, .mov, .time, .ten, .port, .core, .cnt, .stk, .out, .fresh, .nextId] = 29850626 := by decide
theorem mask_29875202 : maskOf [.cmd, .seq, .mov, .time, .port, .quire, .core, .cnt, .stk, .out, .fresh, .nextId] = 29875202 := by decide
theorem mask_29883650 : maskOf [.cmd, .home, .seq, .mov, .time, .ten, .port, .quire, .core, .cnt, .stk, .out, .fresh, .nextId] = 29883650 := by decide
theorem mask_33554560 : maskOf [.pool, .dram] = 33554560 := by decide
theorem mask_37880962 : maskOf [.cmd, .pool, .seq, .cnt, .out, .dram] = 37880962 := by decide
theorem mask_63139202 : maskOf [.cmd, .pool, .home, .seq, .mov, .ten, .port, .core, .cnt, .out, .fresh, .nextId, .dram] = 63139202 := by decide
theorem mask_67109889 : maskOf [.glb, .seq, .store] = 67109889 := by decide
theorem mask_71435778 : maskOf [.cmd, .dkl, .seq, .cnt, .out, .store] = 71435778 := by decide
theorem mask_80102915 : maskOf [.glb, .cmd, .dkl, .seq, .port, .cnt, .stk, .out, .fresh, .store] = 80102915 := by decide
theorem mask_88280578 : maskOf [.cmd, .dkl, .seq, .mov, .core, .cnt, .out, .nextId, .store] = 88280578 := by decide
theorem mask_96669186 : maskOf [.cmd, .dkl, .seq, .mov, .core, .cnt, .out, .fresh, .nextId, .store] = 96669186 := by decide
theorem mask_96947714 : maskOf [.cmd, .dkl, .seq, .mov, .port, .core, .cnt, .stk, .out, .fresh, .nextId, .store] = 96947714 := by decide
theorem mask_96947970 : maskOf [.cmd, .home, .dkl, .seq, .mov, .port, .core, .cnt, .stk, .out, .fresh, .nextId, .store] = 96947970 := by decide
theorem mask_164068738 : maskOf [.cmd, .pool, .home, .seq, .mov, .time, .ten, .port, .core, .cnt, .stk, .out, .fresh, .nextId, .sheets] = 164068738 := by decide
theorem mask_281159170 : maskOf [.cmd, .dkl, .seq, .ten, .cnt, .out, .fresh, .deckles] = 281159170 := by decide
theorem mask_432537474 : maskOf [.cmd, .pool, .home, .dkl, .seq, .mov, .time, .ten, .port, .quire, .core, .cnt, .stk, .out, .fresh, .nextId, .sheets, .deckles] = 432537474 := by decide
theorem mask_537003008 : maskOf [.seq, .cnt, .registers] = 537003008 := by decide
theorem mask_549864450 : maskOf [.cmd, .seq, .port, .cnt, .stk, .out, .fresh, .registers] = 549864450 := by decide
theorem mask_549866498 : maskOf [.cmd, .seq, .mov, .port, .cnt, .stk, .out, .fresh, .registers] = 549866498 := by decide
theorem mask_549876738 : maskOf [.cmd, .seq, .time, .ten, .port, .cnt, .stk, .out, .fresh, .registers] = 549876738 := by decide
theorem mask_549897218 : maskOf [.cmd, .seq, .port, .quire, .cnt, .stk, .out, .fresh, .registers] = 549897218 := by decide
theorem mask_549934082 : maskOf [.cmd, .seq, .time, .port, .core, .cnt, .stk, .out, .fresh, .registers] = 549934082 := by decide
theorem mask_600272258 : maskOf [.cmd, .pool, .home, .seq, .mov, .ten, .port, .core, .cnt, .stk, .out, .fresh, .nextId, .dram, .registers] = 600272258 := by decide
theorem mask_633822978 : maskOf [.cmd, .home, .dkl, .seq, .mov, .time, .port, .core, .cnt, .stk, .out, .fresh, .nextId, .store, .registers] = 633822978 := by decide
theorem mask_633831170 : maskOf [.cmd, .home, .dkl, .seq, .mov, .time, .ten, .port, .core, .cnt, .stk, .out, .fresh, .nextId, .store, .registers] = 633831170 := by decide
theorem mask_818413202 : maskOf [.cmd, .slot, .pool, .dkl, .seq, .mov, .time, .ten, .port, .quire, .core, .cnt, .stk, .out, .fresh, .deckles, .registers] = 818413202 := by decide
theorem mask_969408386 : maskOf [.cmd, .pool, .home, .dkl, .seq, .mov, .time, .ten, .port, .quire, .core, .cnt, .stk, .out, .fresh, .nextId, .sheets, .deckles, .registers] = 969408386 := by decide
theorem mask_970981279 : maskOf [.glb, .cmd, .pwr, .pace, .slot, .pool, .home, .dkl, .seq, .mov, .time, .ten, .port, .quire, .core, .cnt, .stk, .tap, .pairLo, .out, .fresh, .nextId, .sheets, .deckles, .registers] = 970981279 := by decide
theorem mask_1006632863 : maskOf [.glb, .cmd, .pwr, .pace, .slot, .pool, .home, .dkl, .seq, .mov, .time, .ten, .port, .quire, .core, .cnt, .stk, .tap, .pairLo, .pairHi, .out, .fresh, .nextId, .dram, .sheets, .deckles, .registers] = 1006632863 := by decide
theorem mask_1040187295 : maskOf [.glb, .cmd, .pwr, .pace, .slot, .pool, .home, .dkl, .seq, .mov, .time, .ten, .port, .quire, .core, .cnt, .stk, .tap, .pairLo, .pairHi, .out, .fresh, .nextId, .store, .sheets, .deckles, .registers] = 1040187295 := by decide
theorem mask_2147483647 : maskOf [.glb, .cmd, .pwr, .pace, .slot, .pwrfail, .slotHold, .pool, .home, .dkl, .seq, .mov, .time, .ten, .port, .quire, .core, .cnt, .stk, .tap, .pairLo, .pairHi, .out, .fresh, .nextId, .dram, .store, .sheets, .deckles, .registers] = 1073741823 := by decide
def coldOf (t : State) : Prop := t.glb.inReset = true ∧ t.dkl.tab = [] ∧ t.seq.ps = [] ∧ ∀ ch, (getChan t ch).st = .off
theorem deviceReset_locks (s : State) (f : Glb → Glb) (hf : (f s.glb).inReset = s.glb.inReset) : locksKept s (deviceReset s f) ∨ coldOf (deviceReset s f) := by
  unfold deviceReset
  dsimp only
  split
  · exact .inl fun _ _ => rfl
  · exact .inr ⟨rfl, rfl, rfl, fun _ => rfl⟩
theorem locks_of {s t : State} (h : Rel 1073741823 s t) : locksKept s t := h.locks rfl
theorem next_inj {s t : State} (h : unitOk true s = .next t) : s = t := by cases h; rfl
theorem ue_rel {ch : Nat} {s u t : State} {x0 x1 x2} (hc : 1073741823 &&& ch = 1073741823) (h : Rel ch s u) (n1 : x0 ≠ .sheetTable) (n2 : x0 ≠ .deckleTable)
    (ht : execUncorrectableMemoryError x0 x1 x2 u = .next t) : Rel ch s t := by
  unfold execUncorrectableMemoryError at ht
  refine Rel.unitOk ?_ ht
  extract_lets -merge -underBinder v0 v1
  try clear_value v0
  try clear_value v1
  split
  · refine Rel.ite ?_ ?_
    · refine uePort_rel (sub_of hc rfl) ?_
      exact h
    · exact h
  · refine Rel.ite ?_ ?_
    · refine ueQpe_rel (sub_of hc rfl) ?_
      exact h
    · exact h
  · refine Rel.ite ?_ ?_
    · refine ueCtx_rel (sub_of hc rfl) ?_
      exact h
    · exact h
  · refine Rel.ite ?_ ?_
    · refine ueReset_rel (sub_of hc rfl) (fun y3 hf2 => ?_) ?_
      · refine resetMover_rel (sub_of hc rfl) ?_
        exact hf2
      · exact h
    · exact h
  · refine Rel.ite ?_ ?_
    · refine ueReset_rel (sub_of hc rfl) (fun y5 hf4 => ?_) ?_
      · refine resetChan_rel (sub_of hc rfl) ?_
        exact hf4
      · exact h
    · exact h
  · refine ueCell_rel (sub_of hc rfl) ?_
    exact h
  · exact absurd rfl n1
  · exact absurd rfl n2
  · refine Rel.ite ?_ ?_
    · refine ueDirState_rel (sub_of hc rfl) ?_
      exact h
    · exact h
  · refine Rel.ite ?_ ?_
    · refine ueDirTag_rel (sub_of hc rfl) ?_
      exact h
    · exact h
  · extract_lets -merge -underBinder v6 v7
    have hv6 : Rel ch s v6 := by
      subst v6
      refine logMem_rel (sub_of hc rfl) ?_
      exact h
    try clear_value v6
    subst v7
    refine Rel.ite ?_ ?_
    · refine Rel.ite ?_ ?_
      · exact hv6
      · refine Rel.seqPs _ (fun w => by first | exact w | rfl) rfl (bit_of 10 hc rfl) (bit_of 26 hc rfl) ?_
        exact hv6
    · exact h
  · refine ueRoute_rel (sub_of hc rfl) ?_
    exact h
  · refine ueMeter_rel (sub_of hc rfl) ?_
    exact h
  · refine ueRgrp_rel (sub_of hc rfl) ?_
    exact h
  · refine Rel.ite ?_ ?_
    · refine ueItem_rel (sub_of hc rfl) ?_
      exact h
    · exact h
  · refine ueSharer_rel (sub_of hc rfl) ?_
    exact h
  · refine uePace_rel (sub_of hc rfl) ?_
    exact h
  · refine ueLog_rel (sub_of hc rfl) ?_
    exact h
  · refine ueCmd_rel (sub_of hc rfl) ?_
    exact h
theorem ueTable_locks (s : State) (b c i : Nat) : locksKept s (ueTable s b c i) ∨ coldOf (ueTable s b c i) := by
  unfold ueTable
  dsimp only
  have r1 : ∀ v x y z w, Rel 1073741823 s v → Rel 1073741823 s (logMem v x true y z w) := fun v x y z w h => logMem_rel rfl h
  split
  · exact .inl (locks_of (r1 _ _ _ _ _ (Rel.refl s)))
  · have k := r1 _ (uBlock b) 1 i 0 (r1 _ (uBlock b) 0 i 0 (Rel.refl s))
    rcases deviceReset_locks (logMem (logMem s (uBlock b) true 0 i 0) (uBlock b) true 1 i 0) (fun g => { g with causeTableUe := true }) rfl with h | h
    · refine .inl fun j hj => ?_
      have := locks_of k j hj
      exact (h j (by rw [this]; exact hj)).trans this
    · exact .inr h
theorem exec_locks {i : Instr} {s t : State} (h : exec i s = .next t) : locksKept s t ∨ coldOf t := by
  cases i with
  | uncorrectableMemoryError x0 x1 x2 =>
    rcases Decidable.em (x0 = .sheetTable) with e | n1
    · subst e
      have h := next_inj h
      subst h
      show locksKept s (if x1 < 24576 then ueTable s 2 x2 x1 else s) ∨ coldOf (if x1 < 24576 then ueTable s 2 x2 x1 else s)
      split
      · exact ueTable_locks _ _ _ _
      · exact .inl fun _ _ => rfl
    · rcases Decidable.em (x0 = .deckleTable) with e | n2
      · subst e
        have h := next_inj h
        subst h
        show locksKept s (if x1 < 8192 then ueTable s 8 x2 x1 else s) ∨ coldOf (if x1 < 8192 then ueTable s 8 x2 x1 else s)
        split
        · exact ueTable_locks _ _ _ _
        · exact .inl fun _ _ => rfl
      · exact .inl (locks_of (ue_rel rfl (Rel.refl s) n1 n2 h))
  | thermtrip x0 =>
    have h : unitOk (x0 < 9) _ = .next t := h
    unfold unitOk at h
    split at h
    · cases h
      exact deviceReset_locks s _ rfl
    · cases h
  | resetNAssert =>
    have h := next_inj h
    subst h
    exact deviceReset_locks s _ rfl
  | brownout x0 =>
    have h := next_inj h
    subst h
    split
    · exact .inl fun _ _ => rfl
    · exact deviceReset_locks s _ rfl
  | supplyLoss x0 =>
    have h := next_inj h
    subst h
    cases x0
    case core => exact .inr ⟨rfl, rfl, rfl, fun _ => rfl⟩
    all_goals exact .inl fun _ _ => rfl
  | fuseWriteDone =>
    have h := next_inj h
    subst h
    split
    · exact .inl fun _ _ => rfl
    · next c op _ =>
      dsimp only
      split
      · exact deviceReset_locks { s with glb := fuseApply { s.glb with fuse := none } op } _ rfl
      · split
        · exact .inl (locks_of (finishWait_rel (u := { s with glb := fuseApply { s.glb with fuse := none } op }) rfl
            (Rel.glbFuse (fuseApply { s.glb with fuse := none } op) (fuseApply_kept s _ op rfl rfl rfl ⟨rfl, rfl, rfl⟩) rfl (Rel.refl s))))
        · exact .inl fun _ _ => rfl
  | regWriteGeneral x0 x1 x2 => exact .inl (locks_of (execRegWriteGeneral_rel rfl (Rel.refl s) h))
  | pairLowRead x0 x1 => exact .inl (locks_of (execPairLowRead_rel rfl (Rel.refl s) h))
  | pairHighWrite x0 x1 x2 => exact .inl (locks_of (execPairHighWrite_rel rfl (Rel.refl s) h))
  | flitReceive x0 x1 => exact .inl (locks_of (execFlitReceive_rel rfl (Rel.refl s) h))
  | messageAdmission x0 x1 => exact .inl (locks_of (execMessageAdmission_rel rfl (Rel.refl s) h))
  | heldMessageRetry x0 x1 => exact .inl (locks_of (execHeldMessageRetry_rel rfl (Rel.refl s) h))
  | requestAtCentre x0 => exact .inl (locks_of (execRequestAtCentre_rel rfl (Rel.refl s) h))
  | egressSelection x0 => exact .inl (locks_of (execEgressSelection_rel rfl (Rel.refl s) h))
  | schedulerRound => exact .inl (locks_of (execSchedulerRound_rel rfl (Rel.refl s) h))
  | flitSend x0 => exact .inl (locks_of (execFlitSend_rel rfl (Rel.refl s) h))
  | repinningFenceRelease x0 => exact .inl (locks_of (execRepinningFenceRelease_rel rfl (Rel.refl s) h))
  | replicaMemberCompletion x0 x1 x2 => exact .inl (locks_of (execReplicaMemberCompletion_rel rfl (Rel.refl s) h))
  | replicaMemberTimeout x0 x1 => exact .inl (locks_of (execReplicaMemberTimeout_rel rfl (Rel.refl s) h))
  | mirrorConsumerReadDone x0 x1 => exact .inl (locks_of (execMirrorConsumerReadDone_rel rfl (Rel.refl s) h))
  | redMessageReevaluation x0 => exact .inl (locks_of (execRedMessageReevaluation_rel rfl (Rel.refl s) h))
  | cadenceWindowOpen x0 x1 => exact .inl (locks_of (execCadenceWindowOpen_rel rfl (Rel.refl s) h))
  | cadenceWindowClose x0 => exact .inl (locks_of (execCadenceWindowClose_rel rfl (Rel.refl s) h))
  | cadenceFenceRelease x0 => exact .inl (locks_of (execCadenceFenceRelease_rel rfl (Rel.refl s) h))
  | histogramSample x0 => exact .inl (locks_of (execHistogramSample_rel rfl (Rel.refl s) h))
  | histClear x0 => exact .inl (locks_of (execHistClear_rel rfl (Rel.refl s) h))
  | bufPeakClear => exact .inl (locks_of (execBufPeakClear_rel rfl (Rel.refl s) h))
  | paceWindowEnd x0 x1 => exact .inl (locks_of (execPaceWindowEnd_rel rfl (Rel.refl s) h))
  | paceHistoryHour x0 => exact .inl (locks_of (execPaceHistoryHour_rel rfl (Rel.refl s) h))
  | paceTargetWrite x0 => exact .inl (locks_of (execPaceTargetWrite_rel rfl (Rel.refl s) h))
  | paceCtrlWrite x0 => exact .inl (locks_of (execPaceCtrlWrite_rel rfl (Rel.refl s) h))
  | portEnable x0 x1 => exact .inl (locks_of (execPortEnable_rel rfl (Rel.refl s) h))
  | portDisable x0 x1 => exact .inl (locks_of (execPortDisable_rel rfl (Rel.refl s) h))
  | portHpWrite x0 x1 => exact .inl (locks_of (execPortHpWrite_rel rfl (Rel.refl s) h))
  | linkTrained x0 x1 => exact .inl (locks_of (execLinkTrained_rel rfl (Rel.refl s) h))
  | trainingRetry x0 => exact .inl (locks_of (execTrainingRetry_rel rfl (Rel.refl s) h))
  | linkDown x0 => exact .inl (locks_of (execLinkDown_rel rfl (Rel.refl s) h))
  | errMessageReceived x0 x1 => exact .inl (locks_of (execErrMessageReceived_rel rfl (Rel.refl s) h))
  | dpcStatusClearByHost x0 => exact .inl (locks_of (execDpcStatusClearByHost_rel rfl (Rel.refl s) h))
  | dpcTrigClear x0 => exact .inl (locks_of (execDpcTrigClear_rel rfl (Rel.refl s) h))
  | loopbackRequestReceived x0 x1 => exact .inl (locks_of (execLoopbackRequestReceived_rel rfl (Rel.refl s) h))
  | hotResetReceived x0 => exact .inl (locks_of (execHotResetReceived_rel rfl (Rel.refl s) h))
  | secondaryBusReset x0 x1 => exact .inl (locks_of (execSecondaryBusReset_rel rfl (Rel.refl s) h))
  | hostPowerControlWrite x0 x1 => exact .inl (locks_of (execHostPowerControlWrite_rel rfl (Rel.refl s) h))
  | hpRefuse x0 => exact .inl (locks_of (execHpRefuse_rel rfl (Rel.refl s) h))
  | hostMcEnableWrite x0 x1 => exact .inl (locks_of (execHostMcEnableWrite_rel rfl (Rel.refl s) h))
  | ideKeyManagement x0 x1 => exact .inl (locks_of (execIdeKeyManagement_rel rfl (Rel.refl s) h))
  | ideMacFailure x0 => exact .inl (locks_of (execIdeMacFailure_rel rfl (Rel.refl s) h))
  | fmIdentifySwitchDevice x0 => exact .inl (locks_of (execFmIdentifySwitchDevice_rel rfl (Rel.refl s) h))
  | fmGetPhysicalPortState x0 x1 => exact .inl (locks_of (execFmGetPhysicalPortState_rel rfl (Rel.refl s) h))
  | fmPhysicalPortControl x0 x1 x2 => exact .inl (locks_of (execFmPhysicalPortControl_rel rfl (Rel.refl s) h))
  | fmSendPpbConfigRequest x0 x1 x2 x3 x4 x5 => exact .inl (locks_of (execFmSendPpbConfigRequest_rel rfl (Rel.refl s) h))
  | fmGetVirtualSwitchInfo x0 x1 => exact .inl (locks_of (execFmGetVirtualSwitchInfo_rel rfl (Rel.refl s) h))
  | fmBindVppb x0 x1 x2 => exact .inl (locks_of (execFmBindVppb_rel rfl (Rel.refl s) h))
  | fmUnbindVppb x0 x1 x2 => exact .inl (locks_of (execFmUnbindVppb_rel rfl (Rel.refl s) h))
  | fmGenerateAerEvent x0 x1 x2 => exact .inl (locks_of (execFmGenerateAerEvent_rel rfl (Rel.refl s) h))
  | fmTunnelManagementCommand x0 x1 x2 => exact .inl (locks_of (execFmTunnelManagementCommand_rel rfl (Rel.refl s) h))
  | fmSendLdConfigRequest x0 x1 x2 x3 => exact .inl (locks_of (execFmSendLdConfigRequest_rel rfl (Rel.refl s) h))
  | fmSendLdMemoryRequest x0 x1 x2 x3 => exact .inl (locks_of (execFmSendLdMemoryRequest_rel rfl (Rel.refl s) h))
  | fmUnsupportedOpcode x0 x1 => exact .inl (locks_of (execFmUnsupportedOpcode_rel rfl (Rel.refl s) h))
  | poolChEnable x0 => exact .inl (locks_of (execPoolChEnable_rel rfl (Rel.refl s) h))
  | channelTrainingDone x0 x1 => exact .inl (locks_of (execChannelTrainingDone_rel rfl (Rel.refl s) h))
  | poolChDisable x0 => exact .inl (locks_of (execPoolChDisable_rel rfl (Rel.refl s) h))
  | initStart x0 => exact .inl (locks_of (execInitStart_rel rfl (Rel.refl s) h))
  | channelInitDone x0 => exact .inl (locks_of (execChannelInitDone_rel rfl (Rel.refl s) h))
  | channelLost x0 => exact .inl (locks_of (execChannelLost_rel rfl (Rel.refl s) h))
  | poolGrpEnable x0 x1 => exact .inl (locks_of (execPoolGrpEnable_rel rfl (Rel.refl s) h))
  | poolGrpDisable x0 x1 => exact .inl (locks_of (execPoolGrpDisable_rel rfl (Rel.refl s) h))
  | poolOpen => exact .inl (locks_of (execPoolOpen_rel rfl (Rel.refl s) h))
  | poolClose => exact .inl (locks_of (execPoolClose_rel rfl (Rel.refl s) h))
  | dramReadDone x0 x1 x2 => exact .inl (locks_of (execDramReadDone_rel rfl (Rel.refl s) h))
  | ceLogClear x0 => exact .inl (locks_of (execCeLogClear_rel rfl (Rel.refl s) h))
  | ueLogClear x0 => exact .inl (locks_of (execUeLogClear_rel rfl (Rel.refl s) h))
  | scrubRead x0 x1 x2 => exact .inl (locks_of (execScrubRead_rel rfl (Rel.refl s) h))
  | sheetSelectWrite x0 => exact .inl (locks_of (execSheetSelectWrite_rel rfl (Rel.refl s) h))
  | homeRds x0 => exact .inl (locks_of (execHomeRds_rel rfl (Rel.refl s) h))
  | homeRde x0 => exact .inl (locks_of (execHomeRde_rel rfl (Rel.refl s) h))
  | homeRdnc x0 => exact .inl (locks_of (execHomeRdnc_rel rfl (Rel.refl s) h))
  | homeWrnc x0 => exact .inl (locks_of (execHomeWrnc_rel rfl (Rel.refl s) h))
  | homeEvd x0 => exact .inl (locks_of (execHomeEvd_rel rfl (Rel.refl s) h))
  | homeEvc x0 => exact .inl (locks_of (execHomeEvc_rel rfl (Rel.refl s) h))
  | homeAtom x0 => exact .inl (locks_of (execHomeAtom_rel rfl (Rel.refl s) h))
  | biResponse x0 x1 x2 x3 => exact .inl (locks_of (execBiResponse_rel rfl (Rel.refl s) h))
  | biconflictReceived x0 x1 => exact .inl (locks_of (execBiconflictReceived_rel rfl (Rel.refl s) h))
  | snoopTimeout x0 x1 => exact .inl (locks_of (execSnoopTimeout_rel rfl (Rel.refl s) h))
  | directoryWalkDone x0 => exact .inl (locks_of (execDirectoryWalkDone_rel rfl (Rel.refl s) h))
  | dirLogClear => exact .inl (locks_of (execDirLogClear_rel rfl (Rel.refl s) h))
  | trackerPeakClear => exact .inl (locks_of (execTrackerPeakClear_rel rfl (Rel.refl s) h))
  | debugAccess x0 x1 x2 x3 x4 => exact .inl (locks_of (execDebugAccess_rel rfl (Rel.refl s) h))
  | deckleLogClear => exact .inl (locks_of (execDeckleLogClear_rel rfl (Rel.refl s) h))
  | ringDoorbell x0 x1 x2 x3 => exact .inl (locks_of (execRingDoorbell_rel rfl (Rel.refl s) h))
  | ringEntryFetch x0 x1 x2 => exact .inl (locks_of (execRingEntryFetch_rel rfl (Rel.refl s) h))
  | cqHeadWrite x0 x1 => exact .inl (locks_of (execCqHeadWrite_rel rfl (Rel.refl s) h))
  | completionRingRoom x0 => exact .inl (locks_of (execCompletionRingRoom_rel rfl (Rel.refl s) h))
  | ctxStateRead x0 => exact .inl (locks_of (execCtxStateRead_rel rfl (Rel.refl s) h))
  | ctxResumeWrite x0 x1 => exact .inl (locks_of (execCtxResumeWrite_rel rfl (Rel.refl s) h))
  | haltRequest x0 => exact .inl (locks_of (execHaltRequest_rel rfl (Rel.refl s) h))
  | contextRegisterWrite x0 x1 => exact .inl (locks_of (execContextRegisterWrite_rel rfl (Rel.refl s) h))
  | programStoreWrite x0 x1 x2 => exact .inl (locks_of (execProgramStoreWrite_rel rfl (Rel.refl s) h))
  | undefinedOpcode x0 x1 x2 => exact .inl (locks_of (execUndefinedOpcode_rel rfl (Rel.refl s) h))
  | nop x0 x1 => exact .inl (locks_of (execNop_rel rfl (Rel.refl s) h))
  | halt x0 x1 => exact .inl (locks_of (execHalt_rel rfl (Rel.refl s) h))
  | jump x0 x1 => exact .inl (locks_of (execJump_rel rfl (Rel.refl s) h))
  | br x0 x1 => exact .inl (locks_of (execBr_rel rfl (Rel.refl s) h))
  | call x0 x1 => exact .inl (locks_of (execCall_rel rfl (Rel.refl s) h))
  | ret x0 x1 => exact .inl (locks_of (execRet_rel rfl (Rel.refl s) h))
  | waitev x0 x1 => exact .inl (locks_of (execWaitev_rel rfl (Rel.refl s) h))
  | waitSatisfied x0 => exact .inl (locks_of (execWaitSatisfied_rel rfl (Rel.refl s) h))
  | signal x0 x1 => exact .inl (locks_of (execSignal_rel rfl (Rel.refl s) h))
  | signalMask x0 x1 => exact .inl (locks_of (execSignalMask_rel rfl (Rel.refl s) h))
  | fence x0 x1 => exact .inl (locks_of (execFence_rel rfl (Rel.refl s) h))
  | yield x0 x1 => exact .inl (locks_of (execYield_rel rfl (Rel.refl s) h))
  | movi x0 x1 => exact .inl (locks_of (execMovi_rel rfl (Rel.refl s) h))
  | mov x0 x1 => exact .inl (locks_of (execMov_rel rfl (Rel.refl s) h))
  | add x0 x1 => exact .inl (locks_of (execAdd_rel rfl (Rel.refl s) h))
  | sub x0 x1 => exact .inl (locks_of (execSub_rel rfl (Rel.refl s) h))
  | mul x0 x1 => exact .inl (locks_of (execMul_rel rfl (Rel.refl s) h))
  | mulhu x0 x1 => exact .inl (locks_of (execMulhu_rel rfl (Rel.refl s) h))
  | divu x0 x1 => exact .inl (locks_of (execDivu_rel rfl (Rel.refl s) h))
  | remu x0 x1 => exact .inl (locks_of (execRemu_rel rfl (Rel.refl s) h))
  | and x0 x1 => exact .inl (locks_of (execAnd_rel rfl (Rel.refl s) h))
  | or x0 x1 => exact .inl (locks_of (execOr_rel rfl (Rel.refl s) h))
  | xor x0 x1 => exact .inl (locks_of (execXor_rel rfl (Rel.refl s) h))
  | shl x0 x1 => exact .inl (locks_of (execShl_rel rfl (Rel.refl s) h))
  | shr x0 x1 => exact .inl (locks_of (execShr_rel rfl (Rel.refl s) h))
  | sar x0 x1 => exact .inl (locks_of (execSar_rel rfl (Rel.refl s) h))
  | cmp x0 x1 => exact .inl (locks_of (execCmp_rel rfl (Rel.refl s) h))
  | tst x0 x1 => exact .inl (locks_of (execTst_rel rfl (Rel.refl s) h))
  | min x0 x1 => exact .inl (locks_of (execMin_rel rfl (Rel.refl s) h))
  | max x0 x1 => exact .inl (locks_of (execMax_rel rfl (Rel.refl s) h))
  | clz x0 x1 => exact .inl (locks_of (execClz_rel rfl (Rel.refl s) h))
  | popc x0 x1 => exact .inl (locks_of (execPopc_rel rfl (Rel.refl s) h))
  | bfx x0 x1 => exact .inl (locks_of (execBfx_rel rfl (Rel.refl s) h))
  | bfi x0 x1 => exact .inl (locks_of (execBfi_rel rfl (Rel.refl s) h))
  | ld x0 x1 => exact .inl (locks_of (execLd_rel rfl (Rel.refl s) h))
  | loadDataReturn x0 => exact .inl (locks_of (execLoadDataReturn_rel rfl (Rel.refl s) h))
  | st x0 x1 => exact .inl (locks_of (execSt_rel rfl (Rel.refl s) h))
  | ldc x0 x1 => exact .inl (locks_of (execLdc_rel rfl (Rel.refl s) h))
  | stc x0 x1 => exact .inl (locks_of (execStc_rel rfl (Rel.refl s) h))
  | atom x0 x1 => exact .inl (locks_of (execAtom_rel rfl (Rel.refl s) h))
  | bind x0 x1 => exact .inl (locks_of (execBind_rel rfl (Rel.refl s) h))
  | unbind x0 x1 => exact .inl (locks_of (execUnbind_rel rfl (Rel.refl s) h))
  | routeEntry x0 x1 => exact .inl (locks_of (execRouteEntry_rel rfl (Rel.refl s) h))
  | routeMembers x0 x1 => exact .inl (locks_of (execRouteMembers_rel rfl (Rel.refl s) h))
  | routeBuckets x0 x1 => exact .inl (locks_of (execRouteBuckets_rel rfl (Rel.refl s) h))
  | routeSeed x0 x1 => exact .inl (locks_of (execRouteSeed_rel rfl (Rel.refl s) h))
  | routeHash x0 x1 => exact .inl (locks_of (execRouteHash_rel rfl (Rel.refl s) h))
  | routeRead x0 x1 => exact .inl (locks_of (execRouteRead_rel rfl (Rel.refl s) h))
  | mcastHeader x0 x1 => exact .inl (locks_of (execMcastHeader_rel rfl (Rel.refl s) h))
  | mcastMember x0 x1 => exact .inl (locks_of (execMcastMember_rel rfl (Rel.refl s) h))
  | mcastState x0 x1 => exact .inl (locks_of (execMcastState_rel rfl (Rel.refl s) h))
  | mcastFree x0 x1 => exact .inl (locks_of (execMcastFree_rel rfl (Rel.refl s) h))
  | mcastOwner x0 x1 => exact .inl (locks_of (execMcastOwner_rel rfl (Rel.refl s) h))
  | mcastRead x0 x1 => exact .inl (locks_of (execMcastRead_rel rfl (Rel.refl s) h))
  | deckleWrite x0 x1 => exact .inl (locks_of (execDeckleWrite_rel rfl (Rel.refl s) h))
  | deckleInvalidate x0 x1 => exact .inl (locks_of (execDeckleInvalidate_rel rfl (Rel.refl s) h))
  | deckleSetLock x0 x1 => exact .inl (locks_of (execDeckleSetLock_rel rfl (Rel.refl s) h))
  | sheetGrant x0 x1 => exact .inl (locks_of (execSheetGrant_rel rfl (Rel.refl s) h))
  | sheetFree x0 x1 => exact .inl (locks_of (execSheetFree_rel rfl (Rel.refl s) h))
  | sheetAttach x0 x1 => exact .inl (locks_of (execSheetAttach_rel rfl (Rel.refl s) h))
  | sheetActivate x0 x1 => exact .inl (locks_of (execSheetActivate_rel rfl (Rel.refl s) h))
  | sheetSwap x0 x1 => exact .inl (locks_of (execSheetSwap_rel rfl (Rel.refl s) h))
  | sheetDetach x0 x1 => exact .inl (locks_of (execSheetDetach_rel rfl (Rel.refl s) h))
  | sheetRetire x0 x1 => exact .inl (locks_of (execSheetRetire_rel rfl (Rel.refl s) h))
  | sheetReam x0 x1 => exact .inl (locks_of (execSheetReam_rel rfl (Rel.refl s) h))
  | sheetQuery x0 x1 => exact .inl (locks_of (execSheetQuery_rel rfl (Rel.refl s) h))
  | mirrorEnable x0 x1 => exact .inl (locks_of (execMirrorEnable_rel rfl (Rel.refl s) h))
  | mirrorDisable x0 x1 => exact .inl (locks_of (execMirrorDisable_rel rfl (Rel.refl s) h))
  | mirrorReadLost x0 x1 => exact .inl (locks_of (execMirrorReadLost_rel rfl (Rel.refl s) h))
  | meterConfigure x0 x1 => exact .inl (locks_of (execMeterConfigure_rel rfl (Rel.refl s) h))
  | meterBind x0 x1 => exact .inl (locks_of (execMeterBind_rel rfl (Rel.refl s) h))
  | meterRead x0 x1 => exact .inl (locks_of (execMeterRead_rel rfl (Rel.refl s) h))
  | shapeShaper x0 x1 => exact .inl (locks_of (execShapeShaper_rel rfl (Rel.refl s) h))
  | shapePriority x0 x1 => exact .inl (locks_of (execShapePriority_rel rfl (Rel.refl s) h))
  | shapeQuantum x0 x1 => exact .inl (locks_of (execShapeQuantum_rel rfl (Rel.refl s) h))
  | cadenceConfigure x0 x1 => exact .inl (locks_of (execCadenceConfigure_rel rfl (Rel.refl s) h))
  | cadenceWindow x0 x1 => exact .inl (locks_of (execCadenceWindow_rel rfl (Rel.refl s) h))
  | cadenceEnable x0 x1 => exact .inl (locks_of (execCadenceEnable_rel rfl (Rel.refl s) h))
  | cadenceDisable x0 x1 => exact .inl (locks_of (execCadenceDisable_rel rfl (Rel.refl s) h))
  | copy x0 x1 => exact .inl (locks_of (execCopy_rel rfl (Rel.refl s) h))
  | gather x0 x1 => exact .inl (locks_of (execGather_rel rfl (Rel.refl s) h))
  | reshape x0 x1 => exact .inl (locks_of (execReshape_rel rfl (Rel.refl s) h))
  | fill x0 x1 => exact .inl (locks_of (execFill_rel rfl (Rel.refl s) h))
  | mvstat x0 x1 => exact .inl (locks_of (execMvstat_rel rfl (Rel.refl s) h))
  | mvpause x0 x1 => exact .inl (locks_of (execMvpause_rel rfl (Rel.refl s) h))
  | mvabort x0 x1 => exact .inl (locks_of (execMvabort_rel rfl (Rel.refl s) h))
  | mvresume x0 x1 => exact .inl (locks_of (execMvresume_rel rfl (Rel.refl s) h))
  | moveTransfer x0 => exact .inl (locks_of (execMoveTransfer_rel rfl (Rel.refl s) h))
  | moveEnd x0 => exact .inl (locks_of (execMoveEnd_rel rfl (Rel.refl s) h))
  | time x0 x1 => exact .inl (locks_of (execTime_rel rfl (Rel.refl s) h))
  | atWait x0 x1 => exact .inl (locks_of (execAtWait_rel rfl (Rel.refl s) h))
  | atArm x0 x1 => exact .inl (locks_of (execAtArm_rel rfl (Rel.refl s) h))
  | atTimerExpiry x0 => exact .inl (locks_of (execAtTimerExpiry_rel rfl (Rel.refl s) h))
  | waitframe x0 x1 => exact .inl (locks_of (execWaitframe_rel rfl (Rel.refl s) h))
  | waitframeTimeout x0 => exact .inl (locks_of (execWaitframeTimeout_rel rfl (Rel.refl s) h))
  | takeadd x0 x1 => exact .inl (locks_of (execTakeadd_rel rfl (Rel.refl s) h))
  | takearm x0 x1 => exact .inl (locks_of (execTakearm_rel rfl (Rel.refl s) h))
  | takedrop x0 x1 => exact .inl (locks_of (execTakedrop_rel rfl (Rel.refl s) h))
  | slotOn x0 x1 => exact .inl (locks_of (execSlotOn_rel rfl (Rel.refl s) h))
  | slotOff x0 x1 => exact .inl (locks_of (execSlotOff_rel rfl (Rel.refl s) h))
  | slotClear x0 x1 => exact .inl (locks_of (execSlotClear_rel rfl (Rel.refl s) h))
  | slotDeclare x0 x1 => exact .inl (locks_of (execSlotDeclare_rel rfl (Rel.refl s) h))
  | slotStatus x0 x1 => exact .inl (locks_of (execSlotStatus_rel rfl (Rel.refl s) h))
  | budgetCap x0 x1 => exact .inl (locks_of (execBudgetCap_rel rfl (Rel.refl s) h))
  | budgetLimit x0 x1 => exact .inl (locks_of (execBudgetLimit_rel rfl (Rel.refl s) h))
  | budgetRead x0 x1 => exact .inl (locks_of (execBudgetRead_rel rfl (Rel.refl s) h))
  | paceTarget x0 x1 => exact .inl (locks_of (execPaceTarget_rel rfl (Rel.refl s) h))
  | paceLoop x0 x1 => exact .inl (locks_of (execPaceLoop_rel rfl (Rel.refl s) h))
  | paceReadStatus x0 x1 => exact .inl (locks_of (execPaceReadStatus_rel rfl (Rel.refl s) h))
  | paceReadVcore x0 x1 => exact .inl (locks_of (execPaceReadVcore_rel rfl (Rel.refl s) h))
  | snapFreeze x0 x1 => exact .inl (locks_of (execSnapFreeze_rel rfl (Rel.refl s) h))
  | snapRelease x0 x1 => exact .inl (locks_of (execSnapRelease_rel rfl (Rel.refl s) h))
  | count x0 x1 => exact .inl (locks_of (execCount_rel rfl (Rel.refl s) h))
  | log x0 x1 => exact .inl (locks_of (execLog_rel rfl (Rel.refl s) h))
  | tenantCreate x0 x1 => exact .inl (locks_of (execTenantCreate_rel rfl (Rel.refl s) h))
  | tenantRemove x0 x1 => exact .inl (locks_of (execTenantRemove_rel rfl (Rel.refl s) h))
  | tenantTimeout x0 x1 => exact .inl (locks_of (execTenantTimeout_rel rfl (Rel.refl s) h))
  | tenantCounterRead x0 x1 => exact .inl (locks_of (execTenantCounterRead_rel rfl (Rel.refl s) h))
  | resetuPort x0 x1 => exact .inl (locks_of (execResetuPort_rel rfl (Rel.refl s) h))
  | resetuQuire x0 x1 => exact .inl (locks_of (execResetuQuire_rel rfl (Rel.refl s) h))
  | resetuTenant x0 x1 => exact .inl (locks_of (execResetuTenant_rel rfl (Rel.refl s) h))
  | resetuPoolChannel x0 x1 => exact .inl (locks_of (execResetuPoolChannel_rel rfl (Rel.refl s) h))
  | resetuSlot x0 x1 => exact .inl (locks_of (execResetuSlot_rel rfl (Rel.refl s) h))
  | resetuContext x0 x1 => exact .inl (locks_of (execResetuContext_rel rfl (Rel.refl s) h))
  | resetuMoverChannel x0 x1 => exact .inl (locks_of (execResetuMoverChannel_rel rfl (Rel.refl s) h))
  | resetuCommandPort x0 x1 => exact .inl (locks_of (execResetuCommandPort_rel rfl (Rel.refl s) h))
  | resetuCoherentDomain x0 x1 => exact .inl (locks_of (execResetuCoherentDomain_rel rfl (Rel.refl s) h))
  | unitResetEnd x0 x1 => exact .inl (locks_of (execUnitResetEnd_rel rfl (Rel.refl s) h))
  | glbHoldWrite x0 x1 => exact .inl (locks_of (execGlbHoldWrite_rel rfl (Rel.refl s) h))
  | couchToSpare x0 x1 => exact .inl (locks_of (execCouchToSpare_rel rfl (Rel.refl s) h))
  | couchHome x0 x1 => exact .inl (locks_of (execCouchHome_rel rfl (Rel.refl s) h))
  | couchHandoverEnd x0 x1 => exact .inl (locks_of (execCouchHandoverEnd_rel rfl (Rel.refl s) h))
  | qpeSelfTestEnd x0 x1 => exact .inl (locks_of (execQpeSelfTestEnd_rel rfl (Rel.refl s) h))
  | lockLifecycle x0 x1 => exact .inl (locks_of (execLockLifecycle_rel rfl (Rel.refl s) h))
  | lockRevoke x0 x1 => exact .inl (locks_of (execLockRevoke_rel rfl (Rel.refl s) h))
  | lockSvn x0 x1 => exact .inl (locks_of (execLockSvn_rel rfl (Rel.refl s) h))
  | lockFuseKey x0 x1 => exact .inl (locks_of (execLockFuseKey_rel rfl (Rel.refl s) h))
  | image x0 x1 => exact .inl (locks_of (execImage_rel rfl (Rel.refl s) h))
  | resume x0 x1 => exact .inl (locks_of (execResume_rel rfl (Rel.refl s) h))
  | timePpsEdge x0 => exact .inl (locks_of (execTimePpsEdge_rel rfl (Rel.refl s) h))
  | ppsLossTimeout => exact .inl (locks_of (execPpsLossTimeout_rel rfl (Rel.refl s) h))
  | setNow => exact .inl (locks_of (execSetNow_rel rfl (Rel.refl s) h))
  | setAtPps => exact .inl (locks_of (execSetAtPps_rel rfl (Rel.refl s) h))
  | timeModeWrite x0 => exact .inl (locks_of (execTimeModeWrite_rel rfl (Rel.refl s) h))
  | timeAdjWrite x0 => exact .inl (locks_of (execTimeAdjWrite_rel rfl (Rel.refl s) h))
  | frameRefEdge x0 x1 => exact .inl (locks_of (execFrameRefEdge_rel rfl (Rel.refl s) h))
  | frameEdgeMissing x0 => exact .inl (locks_of (execFrameEdgeMissing_rel rfl (Rel.refl s) h))
  | frameRefEnable x0 x1 => exact .inl (locks_of (execFrameRefEnable_rel rfl (Rel.refl s) h))
  | frameRefDisable x0 => exact .inl (locks_of (execFrameRefDisable_rel rfl (Rel.refl s) h))
  | frameOutPulse x0 => exact .inl (locks_of (execFrameOutPulse_rel rfl (Rel.refl s) h))
  | takePrepared x0 => exact .inl (locks_of (execTakePrepared_rel rfl (Rel.refl s) h))
  | takeReadinessPoint x0 => exact .inl (locks_of (execTakeReadinessPoint_rel rfl (Rel.refl s) h))
  | takeApplication x0 => exact .inl (locks_of (execTakeApplication_rel rfl (Rel.refl s) h))
  | takeCommitWrite x0 => exact .inl (locks_of (execTakeCommitWrite_rel rfl (Rel.refl s) h))
  | correctableMemoryError x0 x1 x2 x3 x4 => exact .inl (locks_of (execCorrectableMemoryError_rel rfl (Rel.refl s) h))
  | stkModeWrite x0 => exact .inl (locks_of (execStkModeWrite_rel rfl (Rel.refl s) h))
  | domainKeyWrite x0 => exact .inl (locks_of (execDomainKeyWrite_rel rfl (Rel.refl s) h))
  | keyLockWrite => exact .inl (locks_of (execKeyLockWrite_rel rfl (Rel.refl s) h))
  | msgJoin x0 x1 => exact .inl (locks_of (execMsgJoin_rel rfl (Rel.refl s) h))
  | msgJoinAck x0 x1 => exact .inl (locks_of (execMsgJoinAck_rel rfl (Rel.refl s) h))
  | msgBlock x0 x1 => exact .inl (locks_of (execMsgBlock_rel rfl (Rel.refl s) h))
  | msgResult x0 x1 => exact .inl (locks_of (execMsgResult_rel rfl (Rel.refl s) h))
  | msgHeartbeat x0 x1 => exact .inl (locks_of (execMsgHeartbeat_rel rfl (Rel.refl s) h))
  | msgTime x0 x1 => exact .inl (locks_of (execMsgTime_rel rfl (Rel.refl s) h))
  | msgTakeReady x0 x1 => exact .inl (locks_of (execMsgTakeReady_rel rfl (Rel.refl s) h))
  | msgTakeCommit x0 x1 => exact .inl (locks_of (execMsgTakeCommit_rel rfl (Rel.refl s) h))
  | msgTakeDone x0 x1 => exact .inl (locks_of (execMsgTakeDone_rel rfl (Rel.refl s) h))
  | msgTakeover x0 x1 => exact .inl (locks_of (execMsgTakeover_rel rfl (Rel.refl s) h))
  | msgViral x0 x1 => exact .inl (locks_of (execMsgViral_rel rfl (Rel.refl s) h))
  | msgGateway x0 x1 => exact .inl (locks_of (execMsgGateway_rel rfl (Rel.refl s) h))
  | gatewayRepeat x0 => exact .inl (locks_of (execGatewayRepeat_rel rfl (Rel.refl s) h))
  | gatewayTimeout x0 => exact .inl (locks_of (execGatewayTimeout_rel rfl (Rel.refl s) h))
  | heartbeatSend => exact .inl (locks_of (execHeartbeatSend_rel rfl (Rel.refl s) h))
  | heartbeatLoss => exact .inl (locks_of (execHeartbeatLoss_rel rfl (Rel.refl s) h))
  | timeDistribution => exact .inl (locks_of (execTimeDistribution_rel rfl (Rel.refl s) h))
  | promoteWrite => exact .inl (locks_of (execPromoteWrite_rel rfl (Rel.refl s) h))
  | stkProxyWrite x0 x1 => exact .inl (locks_of (execStkProxyWrite_rel rfl (Rel.refl s) h))
  | leafData x0 x1 => exact .inl (locks_of (execLeafData_rel rfl (Rel.refl s) h))
  | leafIdle x0 x1 => exact .inl (locks_of (execLeafIdle_rel rfl (Rel.refl s) h))
  | leafNak x0 x1 => exact .inl (locks_of (execLeafNak_rel rfl (Rel.refl s) h))
  | leafMgmt x0 x1 => exact .inl (locks_of (execLeafMgmt_rel rfl (Rel.refl s) h))
  | leafInit x0 x1 => exact .inl (locks_of (execLeafInit_rel rfl (Rel.refl s) h))
  | leafTransmit x0 => exact .inl (locks_of (execLeafTransmit_rel rfl (Rel.refl s) h))
  | replayTimerExpiry x0 => exact .inl (locks_of (execReplayTimerExpiry_rel rfl (Rel.refl s) h))
  | iflRecoveryExit x0 => exact .inl (locks_of (execIflRecoveryExit_rel rfl (Rel.refl s) h))
  | iflLinkDownTimeout x0 => exact .inl (locks_of (execIflLinkDownTimeout_rel rfl (Rel.refl s) h))
  | symbolLockLoss x0 x1 => exact .inl (locks_of (execSymbolLockLoss_rel rfl (Rel.refl s) h))
  | refclkLoss x0 => exact .inl (locks_of (execRefclkLoss_rel rfl (Rel.refl s) h))
  | refclkRestored x0 => exact .inl (locks_of (execRefclkRestored_rel rfl (Rel.refl s) h))
  | adaptationBurst x0 => exact .inl (locks_of (execAdaptationBurst_rel rfl (Rel.refl s) h))
  | adaptationBurstEnd x0 => exact .inl (locks_of (execAdaptationBurstEnd_rel rfl (Rel.refl s) h))
  | patternStart x0 x1 => exact .inl (locks_of (execPatternStart_rel rfl (Rel.refl s) h))
  | patternStop x0 => exact .inl (locks_of (execPatternStop_rel rfl (Rel.refl s) h))
  | marginStart x0 x1 => exact .inl (locks_of (execMarginStart_rel rfl (Rel.refl s) h))
  | marginDone x0 x1 x2 x3 x4 x5 => exact .inl (locks_of (execMarginDone_rel rfl (Rel.refl s) h))
  | partnerMarginCommand x0 x1 x2 => exact .inl (locks_of (execPartnerMarginCommand_rel rfl (Rel.refl s) h))
  | presenceChange x0 x1 x2 => exact .inl (locks_of (execPresenceChange_rel rfl (Rel.refl s) h))
  | seatedQualified x0 => exact .inl (locks_of (execSeatedQualified_rel rfl (Rel.refl s) h))
  | seatingLost x0 => exact .inl (locks_of (execSeatingLost_rel rfl (Rel.refl s) h))
  | slotBudgetGrant => exact .inl (locks_of (execSlotBudgetGrant_rel rfl (Rel.refl s) h))
  | powerGoodQualified x0 => exact .inl (locks_of (execPowerGoodQualified_rel rfl (Rel.refl s) h))
  | perstReleaseTimer x0 => exact .inl (locks_of (execPerstReleaseTimer_rel rfl (Rel.refl s) h))
  | rampTimeout x0 => exact .inl (locks_of (execRampTimeout_rel rfl (Rel.refl s) h))
  | fastTrip x0 => exact .inl (locks_of (execFastTrip_rel rfl (Rel.refl s) h))
  | breakerThresholdCross x0 x1 => exact .inl (locks_of (execBreakerThresholdCross_rel rfl (Rel.refl s) h))
  | breakerExpiry x0 => exact .inl (locks_of (execBreakerExpiry_rel rfl (Rel.refl s) h))
  | backoffEnd x0 => exact .inl (locks_of (execBackoffEnd_rel rfl (Rel.refl s) h))
  | retryCountReset x0 => exact .inl (locks_of (execRetryCountReset_rel rfl (Rel.refl s) h))
  | slotGrantRelease x0 => exact .inl (locks_of (execSlotGrantRelease_rel rfl (Rel.refl s) h))
  | vinWarn x0 => exact .inl (locks_of (execVinWarn_rel rfl (Rel.refl s) h))
  | warnRelease x0 => exact .inl (locks_of (execWarnRelease_rel rfl (Rel.refl s) h))
  | pwrfailInAssert x0 => exact .inl (locks_of (execPwrfailInAssert_rel rfl (Rel.refl s) h))
  | vinUndervoltage x0 => exact .inl (locks_of (execVinUndervoltage_rel rfl (Rel.refl s) h))
  | vinRestored x0 => exact .inl (locks_of (execVinRestored_rel rfl (Rel.refl s) h))
  | passDeviceFailure x0 => exact .inl (locks_of (execPassDeviceFailure_rel rfl (Rel.refl s) h))
  | controlExchangeLoss => exact .inl (locks_of (execControlExchangeLoss_rel rfl (Rel.refl s) h))
  | controlExchangeResume => exact .inl (locks_of (execControlExchangeResume_rel rfl (Rel.refl s) h))
  | budgetEvaluation => exact .inl (locks_of (execBudgetEvaluation_rel rfl (Rel.refl s) h))
  | capUnmet => exact .inl (locks_of (execCapUnmet_rel rfl (Rel.refl s) h))
  | trainingBurstGrant => exact .inl (locks_of (execTrainingBurstGrant_rel rfl (Rel.refl s) h))
  | thermalCapStep => exact .inl (locks_of (execThermalCapStep_rel rfl (Rel.refl s) h))
  | tempRefresh x0 => exact .inl (locks_of (execTempRefresh_rel rfl (Rel.refl s) h))
  | avsWriteFailure => exact .inl (locks_of (execAvsWriteFailure_rel rfl (Rel.refl s) h))
  | cmdLinkTrained x0 x1 x2 => exact .inl (locks_of (execCmdLinkTrained_rel rfl (Rel.refl s) h))
  | perstAssert x0 => exact .inl (locks_of (execPerstAssert_rel rfl (Rel.refl s) h))
  | barAccess x0 x1 x2 x3 x4 => exact .inl (locks_of (execBarAccess_rel rfl (Rel.refl s) h))
  | handover x0 => exact .inl (locks_of (execHandover_rel rfl (Rel.refl s) h))
  | claim x0 => exact .inl (locks_of (execClaim_rel rfl (Rel.refl s) h))
  | autoFailover => exact .inl (locks_of (execAutoFailover_rel rfl (Rel.refl s) h))
  | mctpControlMessage x0 x1 => exact .inl (locks_of (execMctpControlMessage_rel rfl (Rel.refl s) h))
  | pldmMessage x0 x1 => exact .inl (locks_of (execPldmMessage_rel rfl (Rel.refl s) h))
  | mctpOtherType x0 => exact .inl (locks_of (execMctpOtherType_rel rfl (Rel.refl s) h))
  | dynamicAddressAssign x0 x1 => exact .inl (locks_of (execDynamicAddressAssign_rel rfl (Rel.refl s) h))
  | imageReadDone x0 x1 x2 x3 => exact .inl (locks_of (execImageReadDone_rel rfl (Rel.refl s) h))
  | imageVerifyDone x0 => exact .inl (locks_of (execImageVerifyDone_rel rfl (Rel.refl s) h))
  | bootGo => exact .inl (locks_of (execBootGo_rel rfl (Rel.refl s) h))
  | deviceResetRelease x0 => exact .inl (locks_of (execDeviceResetRelease_rel rfl (Rel.refl s) h))
  | counterFreezeWrite => exact .inl (locks_of (execCounterFreezeWrite_rel rfl (Rel.refl s) h))
  | counterReleaseWrite => exact .inl (locks_of (execCounterReleaseWrite_rel rfl (Rel.refl s) h))
  | shadowCopyEnd => exact .inl (locks_of (execShadowCopyEnd_rel rfl (Rel.refl s) h))
  | selectorWrite x0 x1 => exact .inl (locks_of (execSelectorWrite_rel rfl (Rel.refl s) h))
  | unitLogClear x0 => exact .inl (locks_of (execUnitLogClear_rel rfl (Rel.refl s) h))
  | glbLockWrite x0 => exact .inl (locks_of (execGlbLockWrite_rel rfl (Rel.refl s) h))
  | histSelectWrite x0 => exact .inl (locks_of (execHistSelectWrite_rel rfl (Rel.refl s) h))
  | rgrpSelectWrite x0 => exact .inl (locks_of (execRgrpSelectWrite_rel rfl (Rel.refl s) h))
  | ecmpSelectWrite x0 => exact .inl (locks_of (execEcmpSelectWrite_rel rfl (Rel.refl s) h))
  | meterSelectWrite x0 x1 => exact .inl (locks_of (execMeterSelectWrite_rel rfl (Rel.refl s) h))
  | tapReset => exact .inl (locks_of (execTapReset_rel rfl (Rel.refl s) h))
  | tapBypass => exact .inl (locks_of (execTapBypass_rel rfl (Rel.refl s) h))
  | tapIdcode => exact .inl (locks_of (execTapIdcode_rel rfl (Rel.refl s) h))
  | tapSamplePreload x0 => exact .inl (locks_of (execTapSamplePreload_rel rfl (Rel.refl s) h))
  | tapExtest => exact .inl (locks_of (execTapExtest_rel rfl (Rel.refl s) h))
  | tapClamp => exact .inl (locks_of (execTapClamp_rel rfl (Rel.refl s) h))
  | tapHighz => exact .inl (locks_of (execTapHighz_rel rfl (Rel.refl s) h))
  | powerUp => exact .inl (locks_of (execPowerUp_rel rfl (Rel.refl s) h))
  | linkRecoveryExit x0 => exact .inl (locks_of (execLinkRecoveryExit_rel rfl (Rel.refl s) h))
  | patternCheckerSync x0 x1 x2 => exact .inl (locks_of (execPatternCheckerSync_rel rfl (Rel.refl s) h))
  | malformedLeaf x0 x1 => exact .inl (locks_of (execMalformedLeaf_rel rfl (Rel.refl s) h))
  | perstDeassert x0 => exact .inl (locks_of (execPerstDeassert_rel rfl (Rel.refl s) h))
  | commandLinkHotReset x0 => exact .inl (locks_of (execCommandLinkHotReset_rel rfl (Rel.refl s) h))
  | breakerArmed x0 => exact .inl (locks_of (execBreakerArmed_rel rfl (Rel.refl s) h))
  | dramWriteAccepted x0 x1 => exact .inl (locks_of (execDramWriteAccepted_rel rfl (Rel.refl s) h))

end Sys2Proof.Laws.AboutMachine
end

