-- ==== Sys2Proof/Laws/AboutMemErrors.lean ====
section
/-!
SUPPORT. Lemmas about errors in internal memories.
-/

namespace Sys2Proof.Laws.AboutMemErrors

open Sys2Proof Sys2Proof.Machine Sys2Proof.Safety

theorem mp (s : State) (p j : Nat) (f : Port → Port) : getPort (modPort s p f) j = if j = p then f (getPort s p) else getPort s j := tget_tput _ _ _ _ _
theorem reset_port (s : State) (p j : Nat) (h : (getPort s p).rst = .run) : sansIfl (getPort (resetPort s p) j) = sansIfl (if j = p then portClear (getPort s p) else getPort s j) := by
  unfold resetPort
  rw [if_neg (by simp [h])]
  dsimp only
  rw [restartTakes_ports]
  have r := flushPort_rel (x1 := p) (ch := 4294967295 - 16384) rfl (ecmpFail_rel (x1 := p) (ch := 4294967295 - 16384) rfl
    (newEntry__rel (x1 := uPort p) (ch := 4294967295 - 16384) rfl (Rel.refl (modPort s p portClear))))
  rw [getPort_congr (r.f14 rfl), mp]
theorem resets_of (s t : State) (p : Nat) (x : Port) (hx : x.genTag = (getPort s p).genTag)
    (h : ∀ j, sansIfl (getPort t j) = sansIfl (if j = p then portClear x else getPort s j)) :
    ((getPort t p).rst = .inReset ∧ (getPort t p).link = .off ∧ (getPort t p).genTag = (getPort s p).genTag + 1 ∧
      ∀ j, j ≠ p → sansIfl (getPort t j) = sansIfl (getPort s j)) ∧ (getPort t p).dpcTrig = x.dpcTrig ∧ (getPort t p).ideSecure = false := by
  have e := h p
  rw [if_pos rfl] at e
  have e1 : (getPort t p).rst = .inReset := congrArg Port.rst e
  have e2 : (getPort t p).link = .off := congrArg Port.link e
  have e3 : (getPort t p).genTag = x.genTag + 1 := congrArg Port.genTag e
  have e4 : (getPort t p).dpcTrig = x.dpcTrig := by
    show (sansIfl (getPort t p)).dpcTrig = (sansIfl (portClear x)).dpcTrig; rw [e]
  have e5 : (getPort t p).ideSecure = false := congrArg Port.ideSecure e
  refine ⟨⟨e1, e2, hx ▸ e3, fun j hj => ?_⟩, e4, e5⟩
  rw [h, if_neg hj]
theorem dpcStatus_port (s : State) (p : Nat) (b : Bool) : (dpcStatus s p b).port = s.port := (dpcStatus_rel (ch := 8192) rfl (Rel.refl s)).f14 rfl
theorem portCount_port' (u : State) (a b c d) : (portCount u a b c d).port = u.port := (portCount_rel (ch := 131072) rfl (Rel.refl u)).f14 rfl
theorem dpc_port (s : State) (p j : Nat) (h : (getPort s p).rst = .run) :
    sansIfl (getPort (dpcTrigger s p) j) = sansIfl (if j = p then portClear { getPort s p with dpcTrig := true } else getPort s j) := by
  unfold dpcTrigger
  dsimp only
  have k : ∀ c, getPort (portCount (dpcStatus (modPort s p fun x => { x with dpcTrig := true }) p true) p 10 c 1) j = if j = p then { getPort s p with dpcTrig := true } else getPort s j := by
    intro c
    rw [getPort_congr (portCount_port' _ _ _ _ _), getPort_congr (dpcStatus_port _ _ _), mp]
  have k' : ∀ c, getPort (portCount (dpcStatus (modPort s p fun x => { x with dpcTrig := true }) p true) p 10 c 1) p = { getPort s p with dpcTrig := true } := by
    intro c
    rw [getPort_congr (portCount_port' _ _ _ _ _), getPort_congr (dpcStatus_port _ _ _), mp, if_pos rfl]
  rw [reset_port _ _ _ (by rw [k']; exact h), k', k]
  by_cases e : j = p
  · rw [if_pos e, if_pos e]
  · rw [if_neg e, if_neg e, if_neg e]
theorem boundDown_congr {s u : State} (p : Nat) (h : getPort u p = getPort s p) (h2 : u.ten = s.ten) : boundDown u p = boundDown s p := by
  unfold boundDown bindingsOf; rw [h, h2]
theorem onlyL {ch : Nat} {s t : State} {l : List Part} (h : Rel ch s t) (hl : ∀ p, p ∉ l → ch.testBit (partIdx p) = false) : onlyIn l s t := h.onlyIn hl
theorem stew_logs (s : State) : (stewEv s).cnt.logs = s.cnt.logs := by
  have c : ∀ (u : State) a b d e, (countEv u a b d e).cnt.logs = u.cnt.logs := fun u a b d e => by
    have := congrArg Cnt.logs (countEv_rest u a b d e); exact this
  have v : ∀ u c, (evtVec u c).cnt = u.cnt := fun u c => (evtVec_rel (ch := 4195330) rfl (Rel.refl u)).f17 rfl
  unfold stewEv evLatch
  dsimp only
  repeat' split
  · rfl
  · exact c _ _ _ _ _
  · exact congrArg Cnt.logs (v _ _)
  · rfl
theorem quire_logs (s : State) (a b c d) : (quireCount s a b c d).cnt.logs = s.cnt.logs := by
  unfold quireCount
  have c1 : ∀ (u : State) a b d e, (countEv u a b d e).cnt.logs = u.cnt.logs := fun u a b d e => by
    have := congrArg Cnt.logs (countEv_rest u a b d e); exact this
  have c2 : ∀ (u : State) a n, (cntAdd u a n).cnt.logs = u.cnt.logs := fun u a n => by
    have := congrArg Cnt.logs (cntAdd_rest u a n); exact this
  rw [c1, c2]
theorem lu_rel (s : State) (u : UnitId) (m : Nat) : Rel 8519680 s (logUnit_ s u m) := logUnit__rel rfl (Rel.refl s)
theorem correct_of (s : State) (u : UnitId) (m a y : Nat) : onlyIn [.cmd, .seq, .cnt, .out] s (correctable s u m a y) ∧ contextsKept s (correctable s u m a y) ∧
    (correctable s u m a y).cnt.logs = (logMem s u false m a y).cnt.logs := by
  unfold correctable
  extract_lets -merge hit l s1 s2 three
  have r1 : Rel 131072 s s1 := logMem_rel rfl (Rel.refl s)
  have r2 : Rel 131072 s s2 := by
    show Rel 131072 s (if _ then quireCount s1 u.index 6 none 1 else s1)
    split
    · exact quireCount_rel rfl r1
    · exact r1
  have l2 : s2.cnt.logs = s1.cnt.logs := by
    show (if _ then quireCount s1 u.index 6 none 1 else s1 : State).cnt.logs = _
    split
    · exact quire_logs _ _ _ _ _
    · rfl
  have e : s2.seq = s.seq := r2.f10 rfl
  split
  · refine ⟨Rel.onlyIn (ch := 4326402) (stewEv_rel rfl (Rel.mono rfl r2)) (by intro p hp; cases p <;> first | rfl | (exact absurd (by decide) hp)), ?_, (stew_logs _).trans l2⟩
    exact ContextsKept.trans (ContextsKept.of e) (stewEv_ctx _)
  · exact ⟨Rel.onlyIn (ch := 4326402) (Rel.mono rfl r2) (by intro p hp; cases p <;> first | rfl | (exact absurd (by decide) hp)), ContextsKept.of e, l2⟩
theorem port_of (s : State) (p m : Nat) (h2 : leadPort s p = true) (h3 : memThere s (uPort p) m = true) (h4 : portWaits s p = false) (h5 : (getPort s p).rst = .run) :
    (getPort (uePort s p m) p).rst = .inReset ∧ (getPort (uePort s p m) p).dpcTrig = ((getPort s p).dpcTrig || boundDown s p) := by
  unfold uePort ueReset
  rw [if_neg (by rw [h2]; simp), if_neg (by rw [h3, h4]; simp)]
  dsimp only
  have r := lu_rel s (uPort p) m
  have e : ∀ j, getPort (logUnit_ s (uPort p) m) j = getPort s j := fun j => getPort_congr (r.f14 rfl) j
  have eb : boundDown (logUnit_ s (uPort p) m) p = boundDown s p := boundDown_congr p (e p) (r.f13 rfl)
  rw [eb]
  cases b : boundDown s p
  · rw [if_neg (by simp)]
    obtain ⟨r1, r2, _⟩ := resets_of s (resetPort (logUnit_ s (uPort p) m) p) p (getPort s p) rfl (fun j => by rw [reset_port _ _ _ (by rw [e]; exact h5), e, e])
    exact ⟨r1.1, by rw [r2, Bool.or_false]⟩
  · rw [if_pos rfl]
    obtain ⟨r1, r2, _⟩ := resets_of s (dpcTrigger (logUnit_ s (uPort p) m) p) p { getPort s p with dpcTrig := true } rfl (fun j => by rw [dpc_port _ _ _ (by rw [e]; exact h5), e, e])
    exact ⟨r1.1, by rw [r2, Bool.or_true]⟩
theorem lg (s : State) (f : Glb → Glb) (hr : (f s.glb).inReset = false) (P : (f s.glb).causeTableUe = true) : (deviceReset s f).glb.inReset = true ∧ (deviceReset s f).glb.causeTableUe = true := by
  unfold deviceReset
  dsimp only
  rw [if_neg (by rw [hr]; simp)]
  have te : ∀ u : State, (tapEnd u).glb = u.glb := by intro u; unfold tapEnd; split <;> rfl
  refine ⟨rfl, ?_⟩
  show (tapEnd _).glb.causeTableUe = true
  rw [te]
  exact P
theorem table_of (s : State) (bk c i : Nat) : (c < 2 → onlyIn [.cnt] s (ueTable s bk c i)) ∧
    (2 ≤ c → s.glb.inReset = false → (ueTable s bk c i).glb.inReset = true ∧ (ueTable s bk c i).glb.causeTableUe = true) := by
  unfold ueTable
  dsimp only
  refine ⟨fun h => ?_, fun h hr => ?_⟩
  · rw [if_pos h]
    exact onlyL (logMem_rel (ch := 131072) rfl (Rel.refl s)) (by intro p hp; cases p <;> first | rfl | (exact absurd (by decide) hp))
  · rw [if_neg (by omega)]
    exact lg _ _ hr rfl

end Sys2Proof.Laws.AboutMemErrors
end

