-- ==== Sys2Proof/Laws/AboutMessages.lean ====
section
/-!
SUPPORT. Lemmas about management messages.
-/

namespace Sys2Proof.Laws.AboutMessages

open Sys2Proof Sys2Proof.Machine Sys2Proof.Safety

theorem modPeer_of (s : State) (d : Nat) (f : Peer → Peer) (j : Nat) : getPeer (modPeer s d f) j = if j = d then f (getPeer s d) else getPeer s j := tget_tput _ _ _ _ _
theorem modPeer_at (s : State) (d : Nat) (f : Peer → Peer) : getPeer (modPeer s d f) d = f (getPeer s d) := by rw [modPeer_of, if_pos rfl]
theorem ev_of (s : State) (e : MsgEv) : msgEvGet (msgEv s e).stk e = true ∧ (msgEv s e).stk.drops = s.stk.drops ∧ (msgEv s e).stk.joined = s.stk.joined ∧
    (msgEv s e).stk.peers = s.stk.peers ∧ (msgEv s e).stk.epoch = s.stk.epoch ∧ (msgEv s e).stk.manager = s.stk.manager := by
  have pw : ∀ u : State, (powerEv u).stk = u.stk := fun u => (powerEv_rel (ch := 4326402) rfl (Rel.refl u)).f18 rfl
  unfold msgEv
  dsimp only
  split
  · cases e <;> exact ⟨rfl, rfl, rfl, rfl, rfl, rfl⟩
  · rw [pw]
    cases e <;> exact ⟨rfl, rfl, rfl, rfl, rfl, rfl⟩
theorem send_stk (s : State) (d n : Nat) (b : List Byte) : let t := mgmtSend s d n b
    t.stk.evEpoch = s.stk.evEpoch ∧ t.stk.drops = s.stk.drops ∧ t.stk.joined = s.stk.joined ∧ (∀ j, j ≠ d → getPeer t j = getPeer s j) ∧ t.stk.epoch = s.stk.epoch ∧
      t.stk.manager = s.stk.manager ∧ t.stk.dev = s.stk.dev ∧ t.stk.domain = s.stk.domain ∧ ∀ j, (getPeer t j).joined = (getPeer s j).joined ∧ (getPeer t j).takeReady = (getPeer s j).takeReady := by
  intro t
  have e : t.stk = (modPeer s d fun x => { x with txSeq := x.txSeq + 1 }).stk := by
    show (mgmtSend s d n b).stk = _
    unfold mgmtSend mgmtEmit
    dsimp only
    split <;> rfl
  have ep : ∀ j, getPeer t j = getPeer (modPeer s d fun x => { x with txSeq := x.txSeq + 1 }) j := fun j => by unfold getPeer; rw [e]
  refine ⟨by rw [e]; rfl, by rw [e]; rfl, by rw [e]; rfl, fun j hj => ?_, by rw [e]; rfl, by rw [e]; rfl, by rw [e]; rfl, by rw [e]; rfl, fun j => ?_⟩
  · rw [ep, modPeer_of, if_neg hj]
  · rw [ep, modPeer_of]
    split
    · rename_i h; rw [h]; exact ⟨rfl, rfl⟩
    · exact ⟨rfl, rfl⟩
theorem sendL (n : Nat) (b : List Byte) (l : List Nat) (s : State) (j : Nat) : (getPeer (forL l s fun s d => mgmtSend s d n b) j).takeReady = (getPeer s j).takeReady := by
  induction l generalizing s with
  | nil => rfl
  | cons a l ih => exact (ih _).trans ((send_stk s a n b).2.2.2.2.2.2.2.2 j).2
section
variable (s : State) (p n : Nat) (m : Mgmt) (eff : State → State)
def hereP : Prop := (getPort s p).link = .up ∧ isEdge (getPort s p) = false ∧ roleOf (getPort s p) ≠ 4 ∧ (n ≠ 1 → s.stk.joined = true → m.receiver = s.stk.dev)
theorem mt_head (h : hereP s p n m) : mgmtTake s p n m eff =
    if mgmtTag s (getPeer s m.sender) n m != m.tag then msgEv (msgDrop s) .auth
    else if n != 1 && m.sequence.toNat ≤ (getPeer s m.sender).rxSeq.toNat then msgEv (msgDrop s) .replay
    else if n != 1 && !s.stk.joined then msgEv (msgDrop s) .unjoined
    else if m.epoch.toNat < s.stk.epoch.toNat then mgmtSend (msgEv (msgDrop s) .epoch) m.sender 0x04 [0x07]
    else eff (if n = 1 then s else modPeer s m.sender fun y => { y with rxSeq := m.sequence }) := by
  obtain ⟨h1, h2, h3, h4⟩ := h
  unfold mgmtTake
  dsimp only
  rw [if_neg (by rw [h1]; simp), if_neg (by rw [h2]; simpa using h3), if_neg]
  intro g
  simp only [Bool.and_eq_true, bne_iff_ne] at g
  exact g.2 (h4 g.1.1 g.1.2)
def goodP : Prop := hereP s p n m ∧ mgmtTag s (getPeer s m.sender) n m = m.tag ∧ (n ≠ 1 → (getPeer s m.sender).rxSeq.toNat < m.sequence.toNat) ∧
  (n ≠ 1 → s.stk.joined = true) ∧ s.stk.epoch.toNat ≤ m.epoch.toNat
theorem mt_good (h : goodP s p n m) : mgmtTake s p n m eff = eff (if n = 1 then s else modPeer s m.sender fun y => { y with rxSeq := m.sequence }) := by
  obtain ⟨h0, h1, h2, h3, h4⟩ := h
  rw [mt_head s p n m eff h0, if_neg (by rw [h1]; simp), if_neg, if_neg, if_neg (by omega)]
  · intro g
    simp only [Bool.and_eq_true, bne_iff_ne, Bool.not_eq_true'] at g
    rw [h3 g.1] at g; simp at g
  · intro g
    simp only [Bool.and_eq_true, bne_iff_ne, decide_eq_true_eq] at g
    have := h2 g.1; omega
theorem mt1 (h : goodP s p 1 m) : mgmtTake s p 1 m eff = eff s := mt_good s p 1 m eff h
theorem mtN (h : goodP s p n m) (hn : n ≠ 1) : mgmtTake s p n m eff = eff (modPeer s m.sender fun y => { y with rxSeq := m.sequence }) :=
  (mt_good s p n m eff h).trans (congrArg eff (if_neg hn))
end

end Sys2Proof.Laws.AboutMessages
end

