-- ==== Sys2Proof/Laws/AboutMover.lean ====
section
/-!
SUPPORT. Lemmas about the data mover.
-/

namespace Sys2Proof.Laws.AboutMover

open Sys2Proof Sys2Proof.Machine Sys2Proof.Safety

theorem mp (s : State) (i j : Nat) (f : Mover → Mover) : getMov (modMov s i f) j = if j = i then f (getMov s i) else getMov s j := tget_tput _ _ _ _ _
theorem bm (s : State) (c k : Nat) : getMov (begun s c) k = getMov s k := getMov_congr (begun_mov s c) k
theorem pk (u : State) (t sp a n) (h : State) (b) (e : peekSpan u t sp a n = (b, h)) : h.mov = u.mov := by
  have := (peekSpan_rel (ch := 8388608) (x1 := t) (x2 := sp) (x3 := a) (x4 := n) rfl (Rel.refl u)).f11 rfl
  rw [e] at this; exact this
theorem ot (s : State) (c j : Nat) : getCtx (endTurn s c) j = getCtx s j := getCtx_endTurn s c j
theorem wa (s : State) (c : Nat) : (getCtx (endTurn (waitAgain s c) c) c).wait = .again := by
  rw [ot]; unfold waitAgain; rw [getCtx_modCtx, if_pos rfl]
theorem mc (u v : State) (ch k b d r) (h : mvChecks u ch k b d = (r, v)) : v.mov = u.mov := by
  have := (mvChecks_rel (ch := 8388608) (x1 := ch) (x2 := k) (x3 := b) (x4 := d) rfl (Rel.refl u)).f11 rfl
  rw [h] at this; exact this
theorem start (s : State) (c ch : Nat) (w : Ox) (op : Nat) (k : MvKind) (i : Instr) (hi : exec i s = unitOk (c < 18) (moveRun c op w k s)) 
    (hch : fld w.imm 0 7 = ch) (hm : (getMov s ch).st ≠ .inReset ∧ (getMov s ch).rst = .run ∧ ((getMov s ch).owner = 0x1F ∨ (getMov s ch).owner = c))
    (h : Issues s c op w { mods := if k = .copy then 0x19 else 0x18, imm := 0x7F, B := 2 ^ 64 - 1 })
    (h1 : ch ≤ 71) (h2 : fld w.mod 3 2 = 0 ∨ fld w.mod 3 2 = 2) (h3 : bit w.mod 0 = true → c < 2) (h4 : w.B.toNat % 64 = 0)
    (h5 : dklLine s { ctxChk c (fld w.mod 3 2) w.B.toNat 0 with r := true } = .pass) (b : List Byte) (u : State)
    (h6 : peekSpan (begun s c) (tenOf c) (fld w.mod 3 2) w.B.toNat 64 = (some b, u)) :
    let d : Desc := { parseDesc k b with refresh := bit w.mod 0, stw := isStw c, ten := c - 2, addr := w.B, addrSpace := fld w.mod 3 2,
                                             cr := bit w.mod 7, irq := bit w.mod 6, source := (recSrc (getCtx (begun s c) c)).1, entry := (recSrc (getCtx (begun s c) c)).2,
                                             opcode := BitVec.ofNat 8 op }
    (∀ j v, (getMov s ch).st = .idle → mvChecks u ch k b d = (.ok j, v) → exec i s = .next (endTurn (retireSt (startMove v c ch j) c op { w with mod := w.mod &&& 0x3F } 0) c)) ∧
    ((getMov s ch).st = .running ∨ (getMov s ch).st = .stopping → exec i s = .next (endTurn (waitAgain u c) c)) := by
  intro d
  have um : getMov u ch = getMov s ch := (getMov_congr (pk _ _ _ _ _ _ _ h6) ch).trans (bm s c ch)
  have k1 := res_issues (hi.trans (congrArg (unitOk _) (by unfold moveRun; rfl))) h (by
    intro e he
    simp only [List.mem_cons, List.not_mem_nil, or_false] at he
    rcases he with rfl | rfl | rfl | rfl
    · exact decide_eq_false (by unfold mvChan; rw [hch]; omega)
    · rcases h2 with e | e <;> simp [e]
    · dsimp only
      cases hb : bit w.mod 0
      · rfl
      · simp [isStw, h3 hb]
    · simp [h4])
  rw [k1]
  dsimp only
  have ab : mvAbsent u ch = false := by unfold mvAbsent; rw [um]; simp [hm.1, hm.2.1]
  have oth : mvOther (getMov u ch) c = false := by unfold mvOther; rw [um]; rcases hm.2.2 with e | e <;> simp [e]
  rw [show dklLine (begun s c) { ctxChk c (fld w.mod 3 2) w.B.toNat 0 with r := true } = Verdict.pass from by rw [← h5]; unfold dklLine; rw [begun_dkl], if_neg (by decide), h6]
  dsimp only
  rw [show mvChan w = ch from hch, ab, if_neg (by decide), oth, um]
  refine ⟨fun j v hs hv => ?_, fun hs => ?_⟩
  · rw [if_neg (by rw [hs]; decide), if_neg (by rw [hs]; decide), hv]
  · rw [if_neg (by rcases hs with e | e <;> rw [e] <;> decide), if_pos (by rcases hs with e | e <;> rw [e] <;> decide)]

theorem et_wa (u : State) (c k : Nat) : getMov (endTurn (waitAgain u c) c) k = getMov u k := getMov_congr (by rw [endTurn_mov, waitAgain_mov]) k
theorem et_rs (u : State) (c op : Nat) (w : Ox) (st k : Nat) : getMov (endTurn (retireSt u c op w st) c) k = getMov u k := getMov_congr (by rw [endTurn_mov, retireSt_mov]) k
theorem et_rk (u : State) (c op : Nat) (w : Ox) (d v) (k : Nat) : getMov (endTurn (retireK u c op w d v) c) k = getMov u k :=
  getMov_congr (by rw [endTurn_mov, (retireK_rel (ch := 549864450) rfl (Rel.refl _)).f11 rfl]) k
theorem ask (s : State) (c ch : Nat) (f : Job → Job) (k : Nat) : getMov (endTurn (waitAgain (askStop (begun s c) ch f) c) c) k =
    if k = ch then { getMov s ch with st := .stopping, job := (getMov s ch).job.map f } else getMov s k := by
  rw [et_wa]
  unfold askStop
  rw [mp, bm, bm]
theorem mvc_mov (s : State) (a b d n) : (mvCount s a b d n).mov = s.mov := (mvCount_rel (ch := 131072) rfl (Rel.refl s)).f11 rfl
theorem mvc_ctx (s : State) (a b d n c) : getCtx (mvCount s a b d n) c = getCtx s c := getCtx_congr ((mvCount_rel (ch := 131072) rfl (Rel.refl s)).f10 rfl) c
theorem es (s : State) (p : Pkt) (h : p.dest = .pool) : enSend s p = addPkt s { stampIss s p with ing := 108, stage := .staged, admitted := now s } := by
  unfold enSend; rw [h]
theorem ps_mov (s : State) (a b) : (psWrite s a b).mov = s.mov := rfl
theorem ps_ctx (s : State) (a b) : contextsKept s (psWrite s a b) := fun _ => rfl
theorem wb_mov (s : State) (ch d) : (mvWriteBack s ch d).mov = s.mov := by
  unfold mvWriteBack
  extract_lets -merge -underBinder v0 v1 v2
  clear_value v2
  clear_value v0
  split
  · rfl
  · split
    · exact (dklRefuse_rel (ch := 272762370) rfl (Rel.refl s)).f11 rfl
    · split
      · exact ps_mov _ _ _
      · rw [es _ _ rfl]; exact (addPkt_rel (ch := 21169154) rfl (Rel.refl s)).f11 rfl
theorem dl_ctx (s : State) (k t sp a l d n) : contextsKept s (dklLog s k t sp a l d n) := by
  unfold dklLog
  dsimp only
  refine ContextsKept.trans ?_ (tenEvQ_ctx _ _)
  refine ContextsKept.trans ?_ (stewIf_ctx _ _ _)
  exact ContextsKept.of rfl
theorem wb_ctx (s : State) (ch d) : contextsKept s (mvWriteBack s ch d) := by
  unfold mvWriteBack
  extract_lets -merge -underBinder v0 v1 v2
  clear_value v2
  clear_value v0
  split
  · exact ContextsKept.refl _
  · split
    · exact dl_ctx _ _ _ _ _ _ _ _
    · split
      · exact ps_ctx _ _ _
      · rw [es _ _ rfl]; exact addPkt_ctx _ _
theorem post_st (s : State) (c r) (j : Nat) : (getCtx (postRec s c r) j).st = (getCtx s j).st := by
  have ring (s : State) (a b d) : getCtx (ringWrite s a b d) j = getCtx s j := by unfold ringWrite; split <;> rfl
  have md {s : State} {c j : Nat} {f : Ctx → Ctx} (h : ∀ x, (f x).st = x.st) : (getCtx (modCtx s c f) j).st = (getCtx s j).st := by
    rw [getCtx_modCtx]; split
    · exact h _
    · rfl
  unfold postRec
  dsimp only
  split
  · exact md fun _ => rfl
  · split
    · rfl
    · split
      · exact md fun _ => rfl
      · unfold cqWrite
        dsimp only
        split
        · rw [getCtx_congr vecSend_seq]
          refine (md ?_).trans ?_
          · exact fun _ => rfl
          · rw [ctx_countEv]
            refine (md ?_).trans ?_
            · exact fun _ => rfl
            · rw [ring]
        · rw [ctx_countEv]
          refine (md ?_).trans ?_
          · exact fun _ => rfl
          · rw [ring]

end Sys2Proof.Laws.AboutMover
end

