-- ==== Sys2Proof/Laws/AboutMoves.lean ====
section
/-!
SUPPORT. Lemmas about compares, moves and bit fields.
-/

namespace Sys2Proof.Laws.AboutMoves

open Sys2Proof Sys2Proof.Machine Sys2Proof.Safety

theorem u18 {c : Nat} (h : c < 18) (s : State) : unitOk (c < 18) s = .next s := by simp [unitOk, h]
theorem fits_iff (x : Int) : (!fits64 x) = true ↔ ¬fits x := by
  simp only [fits64, fits, Bool.not_eq_true', Bool.and_eq_false_iff, decide_eq_false_iff_not]
  constructor
  · rintro h ⟨a, b⟩; omega
  · intro h; omega
theorem flag_ok {c op : Nat} {w : Ox} {f : W64 → W64 → Alu} {s : State} {i : Instr} {r : W64} {cf vf : Prop}
    (h : Issues s c op w (srcShape w 0 false)) (hi : exec i s = unitOk (c < 18) (flagRun c op w f s))
    (hr : (f (kget (getCtx s c) w.a) (src2 (getCtx s c) w)).r = r)
    (hcf : (f (kget (getCtx s c) w.a) (src2 (getCtx s c) w)).c = true ↔ cf)
    (hv : (f (kget (getCtx s c) w.a) (src2 (getCtx s c) w)).v = true ↔ vf) :
    ∃ t, exec i s = .next t ∧ Retired s t c ∧ flagsIf s t c true r cf vf := by
  refine ⟨_, by rw [hi, u18 h.unit], ?_⟩
  unfold flagRun
  rw [oxRun_issues h (by intro e he; cases he)]
  simp only [begun_kget, begun_src2]
  obtain ⟨h1, h2, h3⟩ := setFlags_state s c (f (kget (getCtx s c) w.a) (src2 (getCtx s c) w))
  refine ⟨retireSt_retired h3 h1 h2, ?_, fun j hj => ?_⟩
  · rw [if_pos rfl]
    refine flagsAre_of (y := f (kget (getCtx s c) w.a) (src2 (getCtx s c) w)) ?_ hr hcf hv
    simp only [flagsOf, getCtx_endTurn, retireSt]
    obtain ⟨a, b, e, g⟩ := flags_of_regs (retire_regs (s := (modCtx (begun s c) c fun y => setFlags y (f (kget (getCtx s c) w.a) (src2 (getCtx s c) w)))) (x1 := c) (x2 := op) (x3 := w) (x4 := 0) (x5 := none) c)
    rw [getCtx_modCtx, if_pos rfl] at a b e g
    exact ⟨a, b, e, g⟩
  · simp only [flagsSame, getCtx_endTurn, retireSt]
    obtain ⟨a, b, e, g⟩ := flags_of_regs (retire_regs (s := (modCtx (begun s c) c fun y => setFlags y (f (kget (getCtx s c) w.a) (src2 (getCtx s c) w)))) (x1 := c) (x2 := op) (x3 := w) (x4 := 0) (x5 := none) j)
    rw [getCtx_modCtx, if_neg hj] at a b e g
    obtain ⟨a', b', e', g'⟩ := flags_of_regs (begun_regs s c j)
    exact ⟨a.trans a', b.trans b', e.trans e', g.trans g'⟩
theorem k_ok {c op : Nat} {w : Ox} {sh} {chk : State → Ctx → List (Bool × Nat)} {f : State → Ctx → W64} {s : State} {i : Instr} {p : W64 → Prop}
    (h : Issues s c op w sh) (hi : exec i s = unitOk (c < 18) (oxRun c op w sh chk (fun u x => retireK u c op w w.d (f u x)) s))
    (hc : ∀ e ∈ chk (begun s c) (getCtx (begun s c) c), e.1 = false)
    (hp : p (f (begun s c) (getCtx (begun s c) c))) :
    ∃ t v, exec i s = .next t ∧ Wrote s t c w.d v ∧ flagsKept s t ∧ p v := by
  obtain ⟨a, b⟩ := retireK_wrote (d := w.d) (f := f) h hc
  exact ⟨_, _, by rw [hi, u18 h.unit], a, b, hp⟩
theorem nochk {l : List (Bool × Nat)} (h : l = []) : ∀ e ∈ l, e.1 = false := by subst h; intro e he; cases he
theorem takeWhile_spec (p : Nat → Bool) (n : Nat) : ((List.range n).takeWhile p).length ≤ n ∧
   (∀ i, i < ((List.range n).takeWhile p).length → p i = true) ∧
   (((List.range n).takeWhile p).length < n → p ((List.range n).takeWhile p).length = false) := by
  have key : ∀ (l : List Nat) (k : Nat), (∀ i (h : i < l.length), l[i] = k + i) →
     (l.takeWhile p).length ≤ l.length ∧ (∀ i, i < (l.takeWhile p).length → p (k + i) = true) ∧ ((l.takeWhile p).length < l.length → p (k + (l.takeWhile p).length) = false) := by
    intro l
    induction l with
    | nil => intro k _; simp
    | cons x l ih =>
      intro k hk
      have hx : x = k := hk 0 (by simp)
      subst hx
      have := ih (x+1) (fun i h => by have := hk (i+1) (by simpa using h); simp at this; omega)
      by_cases hp : p x = true
      · simp only [List.takeWhile_cons, hp, if_true, List.length_cons]
        refine ⟨by omega, fun i hi => ?_, fun h => ?_⟩
        · cases i with
          | zero => simpa using hp
          | succ i => have := this.2.1 i (by omega); rwa [show x + (i+1) = x + 1 + i by omega]
        · have := this.2.2 (by omega); rwa [show x + ((l.takeWhile p).length + 1) = x + 1 + (l.takeWhile p).length by omega]
      · simp only [List.takeWhile_cons, hp]
        simp [hp]
  have := key (List.range n) 0 (by intro i h; simp)
  simpa using this
theorem clz_ok (a : W64) : (BitVec.ofNat 64 (clz a)).toNat = clz a := by
  have := (takeWhile_spec (fun i => !bit a (63 - i)) 64).1
  unfold clz
  simp only [BitVec.toNat_ofNat]
  exact Nat.mod_eq_of_lt (by omega)
theorem fld_bit (v : W64) (lo w i : Nat) : (BitVec.ofNat 64 (fld v lo w)).getLsbD i = (decide (i < 64) && (decide (i < w) && v.getLsbD (lo + i))) := by
  rw [BitVec.getLsbD_ofNat, fld_testBit]

end Sys2Proof.Laws.AboutMoves
end

