-- ==== Sys2Proof/Laws/AboutPool.lean ====
section
/-!
SUPPORT. Lemmas about pool channels and groups.
-/

namespace Sys2Proof.Laws.AboutPool

open Sys2Proof Sys2Proof.Machine Sys2Proof.Safety

theorem mc (s : State) (c j : Nat) (f : Chan → Chan) : getChan (modChan s c f) j = if j = c then f (getChan s c) else getChan s j := tget_tput _ _ _ _ _
theorem mg (s : State) (c j : Nat) (f : Grp → Grp) : getGrp (modGrp s c f) j = if j = c then f (getGrp s c) else getGrp s j := tget_tput _ _ _ _ _
theorem tapEnd_pool (u : State) : (tapEnd u).pool = u.pool := by unfold tapEnd; split <;> rfl
theorem getChan_pool {s t : State} (h : t.pool = s.pool) (i : Nat) : getChan t i = getChan s i := by unfold getChan; rw [h]
theorem tget_filter (p : Nat → Bool) (m : Mem) (a : Nat) : tget 0 (m.filter fun e => p e.1) a = if p a then tget 0 m a else 0 := by
  induction m with
  | nil => simp [tget]
  | cons e m ih =>
    obtain ⟨i, v⟩ := e
    by_cases h : p i = true
    · rw [List.filter_cons_of_pos (p := fun e : Nat × Byte => p e.1) h]
      show (if i = a then v else tget 0 (m.filter fun e => p e.1) a) = if p a = true then (if i = a then v else tget 0 m a) else 0
      rw [ih]
      by_cases k : i = a
      · subst k; simp [h]
      · rw [if_neg k, if_neg k]
    · rw [List.filter_cons_of_neg (p := fun e : Nat × Byte => p e.1) h, ih]
      show _ = if p a = true then (if i = a then v else tget 0 m a) else 0
      by_cases k : i = a
      · subst k; simp [h]
      · rw [if_neg k]
theorem enabled_iff (s : State) (ch : Nat) : inEnabled s ch = true ↔ ∃ g ∈ s.pool.grp, g.2.enable = true ∧ bit g.2.mask ch = true := by
  unfold inEnabled; simp
theorem member_grp (s : State) (m : BitVec 12) (a b : ChSt) : (memberSt s m a b).pool.grp = s.pool.grp := by
  unfold memberSt forL
  generalize List.filter _ _ = l
  induction l generalizing s with
  | nil => rfl
  | cons i l ih =>
    rw [List.foldl_cons, ih]
    split <;> rfl
theorem member_chan (s : State) (m : BitVec 12) (a b : ChSt) (hab : a ≠ b) (c : Nat) :
    getChan (memberSt s m a b) c = if c < 12 ∧ bit m c = true ∧ (getChan s c).st = a then { getChan s c with st := b } else getChan s c := by
  have key : ∀ (l : List Nat) (u : State), getChan (l.foldl (fun s c => if (getChan s c).st == a then modChan s c fun x => { x with st := b } else s) u) c =
      if c ∈ l ∧ (getChan u c).st = a then { getChan u c with st := b } else getChan u c := by
    intro l
    induction l with
    | nil => intro u; simp
    | cons i l ih =>
      intro u
      rw [List.foldl_cons, ih]
      have e : getChan (if ((getChan u i).st == a) = true then modChan u i fun x => { x with st := b } else u) c =
          if c = i ∧ (getChan u i).st = a then { getChan u c with st := b } else getChan u c := by
        by_cases h : (getChan u i).st = a
        · rw [if_pos (by simpa using h), mc]
          by_cases k : c = i
          · rw [if_pos k, if_pos ⟨k, h⟩, k]
          · rw [if_neg k, if_neg (fun h => k h.1)]
        · rw [if_neg (by simpa using h), if_neg (fun k => h k.2)]
      rw [e]
      by_cases k : c = i
      · subst k
        by_cases h : (getChan u c).st = a
        · rw [if_pos (c := c = c ∧ (getChan u c).st = a) ⟨rfl, h⟩, if_neg (fun k => hab k.2.symm), if_pos ⟨List.mem_cons_self .., h⟩]
        · rw [if_neg (c := c = c ∧ (getChan u c).st = a) (fun k => h k.2), if_neg (fun k => h k.2), if_neg (fun k => h k.2)]
      · rw [if_neg (c := c = i ∧ (getChan u i).st = a) (fun h => k h.1)]
        simp only [List.mem_cons, k, false_or]
  unfold memberSt forL
  rw [key]
  by_cases h : c < 12 ∧ bit m c = true
  · simp [h]
  · have : c ∉ (List.range 12).filter fun c => bit m c := by simpa using h
    rw [if_neg (by simp [this]), if_neg (by rintro ⟨h1, h2, _⟩; exact h ⟨h1, h2⟩)]
theorem ready_iff (s : State) (g : Nat) (m : BitVec 12) : grpReady s g m = true ↔
    (m ≠ 0 ∧ ∀ c, c < 12 → bit m c = true → (getChan s c).st = .ready ∧ ∀ h ∈ s.pool.grp, h.1 = g ∨ h.2.enable = false ∨ bit h.2.mask c = false) := by
  unfold grpReady
  simp only [Bool.and_eq_true, bne_iff_ne, List.all_eq_true, List.mem_range, Bool.or_eq_true, Bool.not_eq_true', beq_iff_eq, List.any_eq_false]
  refine and_congr_right fun _ => forall_congr' fun c => forall_congr' fun hc => ?_
  constructor
  · intro h hb
    rcases h with h | ⟨h1, h2⟩
    · rw [hb] at h; cases h
    · refine ⟨h1, fun e he => ?_⟩
      have := h2 e he
      by_cases k1 : e.1 = g
      · exact .inl k1
      · cases k2 : e.2.enable
        · exact .inr (.inl rfl)
        · cases k3 : bit e.2.mask c
          · exact .inr (.inr rfl)
          · simp [k1, k2, k3] at this
  · intro h
    cases hb : bit m c
    · exact .inl rfl
    · obtain ⟨h1, h2⟩ := h hb
      refine .inr ⟨h1, fun e he => ?_⟩
      rcases h2 e he with k | k | k <;> simp [k]
theorem any_tins {α : Type} (m : Tab α) (k : Nat) (v : α) (P : α → Bool) : ((tins m k v).any fun h => h.1 != k && P h.2) = (m.any fun h => h.1 != k && P h.2) := by
  induction m with
  | nil => simp [tins]
  | cons e m ih =>
    obtain ⟨i, w⟩ := e
    unfold tins
    split
    · next h => subst h; simp
    · split
      · simp
      · simp [ih]
theorem any_tdel {α : Type} (m : Tab α) (k : Nat) (P : α → Bool) : ((tdel m k).any fun h => h.1 != k && P h.2) = (m.any fun h => h.1 != k && P h.2) := by
  induction m with
  | nil => rfl
  | cons e m ih =>
    obtain ⟨i, w⟩ := e
    unfold tdel
    split
    · next h => subst h; simp [ih]
    · simp [ih]
theorem any_tput {α : Type} [DecidableEq α] (d : α) (m : Tab α) (k : Nat) (v : α) (P : α → Bool) : ((tput d m k v).any fun h => h.1 != k && P h.2) = (m.any fun h => h.1 != k && P h.2) := by
  unfold tput
  split
  · exact any_tdel _ _ _
  · exact any_tins _ _ _ _
theorem grps (s : State) (g : Nat) (v : W32) (hg : g < 16) :
      let x := getGrp s g
      let m : BitVec 12 := v.setWidth 12
      let r := x.refused && !bit v 30
      let ready := m ≠ 0 ∧ ∀ c, c < 12 → bit m c = true → (getChan s c).st = .ready ∧ ∀ h ∈ s.pool.grp, h.1 = g ∨ h.2.enable = false ∨ bit h.2.mask c = false
      (bit v 31 = true → x.enable = false →
        (ready → ∃ t, exec (.poolGrpEnable g v) s = .next t ∧
          (∀ h, getGrp t h = if h = g then { x with enable := true, mask := m, slots := grpSlots s m, map := [], refused := r } else getGrp s h) ∧
          ∀ c, getChan t c = if c < 12 ∧ bit m c = true then { getChan s c with st := .grouped } else getChan s c) ∧
        (¬ready → ∃ t, exec (.poolGrpEnable g v) s = .next t ∧ (∀ h, getGrp t h = if h = g then { x with refused := true } else getGrp s h) ∧
          t.pool.chan = s.pool.chan)) ∧
      (bit v 31 = false → x.enable = true →
        (grpNamed s g = false → ∃ t, exec (.poolGrpDisable g v) s = .next t ∧
          (∀ h, getGrp t h = if h = g then { x with enable := false, slots := 0, map := [], refused := r } else getGrp s h) ∧
          ∀ c, getChan t c = if c < 12 ∧ bit x.mask c = true ∧ (getChan s c).st = .grouped then { getChan s c with st := .ready } else getChan s c) ∧
        (grpNamed s g = true → ∃ t, exec (.poolGrpDisable g v) s = .next t ∧ (∀ h, getGrp t h = if h = g then { x with refused := true } else getGrp s h) ∧
          t.pool.chan = s.pool.chan)) := by
  intro x m r ready
  generalize hw : modGrp s g (fun x => { x with refused := x.refused && !bit v 30 }) = w
  have wg : ∀ h, getGrp w h = if h = g then { x with refused := r } else getGrp s h := fun h => by rw [← hw]; exact mg s g h _
  have wx : getGrp w g = { x with refused := r } := by rw [wg, if_pos rfl]
  have wc : w.pool.chan = s.pool.chan := by rw [← hw]; rfl
  have wc' : ∀ c, getChan w c = getChan s c := fun c => by unfold getChan; rw [wc]
  have wn : grpNamed w g = grpNamed s g := by rw [← hw]; rfl
  have wr : grpReady w g m = grpReady s g m := by
    unfold grpReady
    have : ∀ c, (w.pool.grp.any fun h => h.1 != g && h.2.enable && bit h.2.mask c) = (s.pool.grp.any fun h => h.1 != g && h.2.enable && bit h.2.mask c) := by
      intro c
      rw [← hw]
      simp only [Bool.and_assoc]
      exact any_tput {} s.pool.grp g _ fun e => e.enable && bit e.mask c
    simp only [wc', this]
  have ws : grpSlots w m = grpSlots s m := by unfold grpSlots; simp only [wc']
  have gw : ∀ {f : Grp → Grp} {y : Grp} (u : State), u.pool.grp = w.pool.grp → f { x with refused := r } = y → ∀ h, getGrp (modGrp u g f) h = if h = g then y else getGrp s h := by
    intro f y u hu e h
    have q : ∀ h, getGrp u h = getGrp w h := fun h => by unfold getGrp; rw [hu]
    rw [mg, q, q, wx, wg, e]
    by_cases k : h = g
    · rw [if_pos k, if_pos k]
    · rw [if_neg k, if_neg k, if_neg k]
  refine ⟨fun a b => ⟨fun c => ?_, fun c => ?_⟩, fun a b => ⟨fun c => ?_, fun c => ?_⟩⟩
  · have c' := (ready_iff s g m).2 c
    refine ⟨_, unitOk_next (decide_eq_true hg) ((if_pos a).trans ?_), gw (f := fun x => { x with enable := true, mask := m, slots := grpSlots w m, map := [] }) (memberSt w m .ready .grouped) (member_grp _ _ _ _) (by rw [ws]), fun i => ?_⟩
    · unfold grpWrite
      dsimp only
      rw [hw, wx]
      rw [if_neg (by simp [b]), if_neg (by simp [a]), if_neg (by rw [wr, c']; decide)]
    · rw [getChan_modGrp, member_chan _ _ _ _ (by decide), wc']
      by_cases k : i < 12 ∧ bit m i = true
      · rw [if_pos ⟨k.1, k.2, (c.2 i k.1 k.2).1⟩, if_pos k]
      · rw [if_neg (fun h => k ⟨h.1, h.2.1⟩), if_neg k]
  · have c' : grpReady w g m = false := by rw [wr, ← Bool.not_eq_true, ready_iff]; exact c
    refine ⟨_, unitOk_next (decide_eq_true hg) ((if_pos a).trans ?_), gw (f := fun x => { x with refused := true }) w rfl rfl, wc⟩
    unfold grpWrite
    dsimp only
    rw [hw, wx]
    rw [if_neg (by simp [b]), if_neg (by simp [a]), if_pos (by rw [c']; decide)]
  · refine ⟨_, unitOk_next (decide_eq_true hg) ((if_neg (by simp [a])).trans ?_), gw (f := fun x => { x with enable := false, slots := 0, map := [] }) (memberSt w x.mask .grouped .ready) (member_grp _ _ _ _) rfl, fun i => ?_⟩
    · unfold grpWrite
      dsimp only
      rw [hw, wx]
      rw [if_pos b, if_neg (by simp [a]), if_neg (by rw [wn, c]; decide)]
    · rw [getChan_modGrp, member_chan _ _ _ _ (by decide), wc']
  · refine ⟨_, unitOk_next (decide_eq_true hg) ((if_neg (by simp [a])).trans ?_), gw (f := fun x => { x with refused := true }) w rfl rfl, wc⟩
    unfold grpWrite
    dsimp only
    rw [hw, wx]
    rw [if_pos b, if_neg (by simp [a]), if_pos (by rw [wn, c])]

end Sys2Proof.Laws.AboutPool
end

