-- ==== Sys2Proof/Laws/AboutPorts.lean ====
section
/-!
SUPPORT. Lemmas about ports that come up and go down.
-/

namespace Sys2Proof.Laws.AboutPorts

open Sys2Proof Sys2Proof.Machine Sys2Proof.Safety

theorem mp (s : State) (p j : Nat) (f : Port → Port) : getPort (modPort s p f) j = if j = p then f (getPort s p) else getPort s j := tget_tput _ _ _ _ _
theorem startTraining_other (s : State) (p j : Nat) (h : j ≠ p) : getPort (startTraining s p) j = getPort s j := by
  unfold startTraining
  dsimp only
  split
  · rw [mp, if_neg h]
  · rfl
theorem tapEnd_port (u : State) : (tapEnd u).port = u.port := by unfold tapEnd; split <;> rfl
theorem logEvent_port (u : State) (a b c d) : (logEvent u a b c d).port = u.port := rfl
theorem dropBurst_port (u : State) (q) : (dropBurst u q).port = u.port := by unfold dropBurst; split <;> rfl
theorem ecmpFail_port (u : State) (q) : (ecmpFail u q).port = u.port := (ecmpFail_rel (ch := 65536) rfl (Rel.refl u)).f14 rfl
theorem getPort_setPort (s : State) (p j : Nat) (x : Port) : getPort (setPort s p x) j = if j = p then x else getPort s j := tget_tput _ _ _ _ _
theorem enabled_of (x : Port) (v : W32) : ({ x with cfg := setFld v 31 1 0 } : Port).enabled = false := by
  show bit (setFld v 31 1 0) 31 = false
  rw [bit_eq, setFld_bits]; simp
theorem enable1 (s : State) (p : Nat) (v : W32) (hp : p < 96) (hl : leadPort s p = true) : let x := getPort s p
    (x.enabled = false → fld v 26 2 = widthOf x → bit v 31 = true →
      (enableOk s p { x with cfg := v } = true → roleOf { x with cfg := v } ≠ 0 → x.rst = .run → x.dpcTrig = false → x.link = .off →
        ∃ t, exec (.portEnable p v) s = .next t ∧ (getPort t p).cfg = v ∧ (getPort t p).link = .training ∧ ∀ j, j ≠ p → getPort t j = getPort s j) ∧
      (enableOk s p { x with cfg := v } = false →
        ∃ t, exec (.portEnable p v) s = .next t ∧ (getPort t p).enabled = false ∧ (getPort t p).cfgError = true ∧ ∀ j, j ≠ p → getPort t j = getPort s j)) := by
  intro x h1 h2 h3
  have e : portCfgWrite s p v = if !enableOk s p { x with cfg := v } then cfgError (setPort s p { x with cfg := setFld v 31 1 0 }) p 0
      else startTraining (tapEnd { setPort s p { x with cfg := v, lanes := { x.lanes with patRun := false } } with glb := { s.glb with portEverEnabled := true } }) p := by
    unfold portCfgWrite
    dsimp only
    rw [if_neg (by simp [hl]), if_neg (by simp [x] at h1; simp [h1]), if_neg (by simp [x] at h2; simp [h2]), if_pos h2, if_neg (by simp [h3])]
    rfl
  refine ⟨fun a b c d f => ?_, fun a => ?_⟩
  · refine ⟨_, unitOk_next (decide_eq_true hp) (if_pos h3), ?_⟩
    rw [e, if_neg (by simp [a])]
    generalize hu : tapEnd _ = u
    have hup : ∀ j, getPort u j = if j = p then { x with cfg := v, lanes := { x.lanes with patRun := false } } else getPort s j := by
      intro j; rw [← hu, getPort_congr (tapEnd_port _)]; exact getPort_setPort s p j _
    have : startTraining u p = modPort u p fun x => { x with link := .training } := by
      unfold startTraining
      dsimp only
      rw [hup, if_pos rfl]
      refine if_pos ?_
      have q1 : ({ x with cfg := v, lanes := { x.lanes with patRun := false } } : Port).enabled = true := h3
      have q2 : roleOf ({ x with cfg := v, lanes := { x.lanes with patRun := false } } : Port) ≠ 0 := b
      rw [q1]
      simp [c, d, f]
      exact q2
    rw [this]
    refine ⟨?_, ?_, fun j hj => ?_⟩
    · rw [mp, if_pos rfl, hup, if_pos rfl]
    · rw [mp, if_pos rfl]
    · rw [mp, if_neg hj, hup, if_neg hj]
  · refine ⟨_, unitOk_next (decide_eq_true hp) (if_pos h3), ?_⟩
    rw [e, if_pos (by simp [a])]
    unfold cfgError
    have k : ∀ j, getPort (logEvent (modPort (setPort s p { x with cfg := setFld v 31 1 0 }) p fun x => { x with cfgError := true }) (uPort p) 0x11 0 0) j =
        if j = p then { x with cfg := setFld v 31 1 0, cfgError := true } else getPort s j := by
      intro j
      rw [getPort_congr (logEvent_port _ _ _ _ _), mp, getPort_setPort, getPort_setPort]
      by_cases k : j = p
      · rw [if_pos k, if_pos k, if_pos rfl]
      · rw [if_neg k, if_neg k, if_neg k]
    refine ⟨?_, ?_, fun j hj => ?_⟩
    · rw [k, if_pos rfl]; exact enabled_of x v
    · rw [k, if_pos rfl]
    · rw [k, if_neg hj]
theorem disable1 (s : State) (p : Nat) (v : W32) (hp : p < 96) (hl : leadPort s p = true) (h1 : (getPort s p).enabled = true) (h2 : bit v 31 = false) :
    ∃ t, exec (.portDisable p v) s = .next t ∧ (getPort t p).enabled = false ∧ (getPort t p).link = .off ∧
      ∀ j, j ≠ p → getPort t j = getPort s j := by
  refine ⟨_, unitOk_next (decide_eq_true hp) (if_neg (by simp [h2])), ?_⟩
  unfold portCfgWrite
  dsimp only
  rw [if_neg (by simp [hl]), if_pos h1, if_neg (by simp [h2])]
  generalize hu : (if (setFld v 31 1 1 == (getPort s p).cfg) = true then s else cfgIgnored s p) = u
  have hup : ∀ j, getPort u j = getPort s j := by
    intro j; rw [← hu]; split
    · rfl
    · exact getPort_congr (logEvent_port _ _ _ _ _) j
  have k : ∀ j, getPort (dropBurst (ecmpFail (modPort u p fun x => lanesIdle { x with cfg := setFld x.cfg 31 1 0 }) p) (quireOf p)) j =
      if j = p then lanesIdle { getPort s p with cfg := setFld (getPort s p).cfg 31 1 0 } else getPort s j := by
    intro j
    rw [getPort_congr (dropBurst_port _ _), getPort_congr (ecmpFail_port _ _), mp, hup, hup]
  refine ⟨?_, ?_, fun j hj => ?_⟩
  · rw [k, if_pos rfl]; exact enabled_of (lanesIdle (getPort s p)) (getPort s p).cfg
  · rw [k, if_pos rfl]; rfl
  · rw [k, if_neg hj]
theorem laneEv_port (u : State) (p : Nat) (g) (f : Lanes → Lanes) (b) (j : Nat) : getPort (laneEv u p g f b) j = if j = p then { getPort u p with lanes := f (getPort u p).lanes } else getPort u j := by
  have base : getPort (modPort u p fun x => { x with lanes := f x.lanes }) j = if j = p then { getPort u p with lanes := f (getPort u p).lanes } else getPort u j := mp u p j _
  unfold laneEv
  dsimp only
  split
  · exact base
  · split
    · rw [getPort_congr tenEvQ_port, getPort_congr stewEv_port]; exact base
    · rw [getPort_congr stewEv_port]; exact base
theorem cadDegrade_port (u : State) (p) : (cadDegrade u p).port = u.port := (cadDegrade_rel (ch := 4391938) rfl (Rel.refl u)).f14 rfl
theorem trained1 (s : State) (p : Nat) (hp : p < 96) (hl : leadPort s p = true) : let x := getPort s p
    (x.link = .training → x.refOk = true → x.ifl.st ≠ .init → ∀ r : Partner, r.loopback = false →
      (negotiate x r = none → ∃ t, exec (.linkTrained p r) s = .next t ∧ (getPort t p).link = .down) ∧
      (∀ m a n, negotiate x r = some (m, a) → m ≠ 5 →
        chooseWidth x (goodLanes s x r) (r.reversed && bit x.lanes.cfg 27) (4 * span x) = some n →
        (a < 4 ∨ quireOf p ∈ s.pwr.trainBurst → ∃ t, exec (.linkTrained p r) s = .next t ∧
          let y := getPort t p
          y.link = .up ∧ y.mode = m ∧ y.rate = a ∧ y.lanesUsed = n ∧ y.reqCredit = r.reqCredits ∧ y.rspCredit = r.rspCredits) ∧
        (4 ≤ a → quireOf p ∉ s.pwr.trainBurst → quireOf p ∉ s.pwr.trainWait → ∃ t, exec (.linkTrained p r) s = .next t ∧
          t.port = s.port ∧ t.pwr = { s.pwr with trainWait := s.pwr.trainWait ++ [quireOf p] }))) := by
  intro x h1 h2 h3 r h4
  have g : ¬(!leadPort s p || x.link != .training || !x.refOk || x.ifl.st == .init) = true := by simp [hl, h1, h2, h3]
  refine ⟨fun h => ?_, fun m a n hn hm hw => ⟨fun h => ?_, fun h5 h6 h7 => ?_⟩⟩
  · refine ⟨_, unitOk_next (decide_eq_true hp) (if_neg g), ?_⟩
    rw [h4]
    dsimp only
    rw [show negotiate (getPort s p) r = none from h]
    dsimp only
    unfold trainFail
    rw [mp, if_pos rfl]
  · refine ⟨linkUp s p m a n r (trainedLanes s x r (goodLanes s x r) (r.reversed && bit x.lanes.cfg 27) (4 * span x) n), unitOk_next (decide_eq_true hp) ((if_neg g).trans ?_), ?_⟩
    · rw [h4]
      dsimp only
      rw [show negotiate (getPort s p) r = some (m, a) from hn]
      dsimp only
      rw [if_neg (by decide)]
      rw [show chooseWidth (getPort s p) (goodLanes s (getPort s p) r) (r.reversed && bit (getPort s p).lanes.cfg 27) (4 * span (getPort s p)) = some n from hw]
      dsimp only
      refine if_neg ?_
      rcases h with h | h
      · simp [Nat.not_le.2 h]
      · simp [h]
    · unfold linkUp
      dsimp only
      generalize trainedLanes s x r (goodLanes s x r) (r.reversed && bit x.lanes.cfg 27) (4 * span x) n = ln
      generalize hu : modPort s p _ = u
      have hup : (getPort u p).link = .up ∧ (getPort u p).mode = m ∧ (getPort u p).rate = a ∧ (getPort u p).lanesUsed = n ∧ (getPort u p).reqCredit = r.reqCredits ∧ (getPort u p).rspCredit = r.rspCredits := by
        rw [← hu, mp, if_pos rfl]
        exact ⟨if_neg hm, rfl, rfl, rfl, rfl, rfl⟩
      rw [getPort_congr (cadDegrade_port _ _)]
      have key : ∀ w : State, (∃ l, getPort w p = { getPort u p with lanes := l }) →
          (let y := getPort (if (roleOf (getPort w p) == 4) = true then emit w (Emit.mgmt p 0x0C (gatewayMsg w p)) else w) p
          y.link = .up ∧ y.mode = m ∧ y.rate = a ∧ y.lanesUsed = n ∧ y.reqCredit = r.reqCredits ∧ y.rspCredit = r.rspCredits) := by
        intro w ⟨l, hw⟩
        have e : getPort (if (roleOf (getPort w p) == 4) = true then emit w (Emit.mgmt p 0x0C (gatewayMsg w p)) else w) p = getPort w p := by split <;> rfl
        dsimp only
        rw [e, hw]
        exact hup
      refine key _ ?_
      split
      · exact ⟨_, by rw [laneEv_port, if_pos rfl]⟩
      · exact ⟨_, rfl⟩
  · refine ⟨{ s with pwr := { s.pwr with trainWait := s.pwr.trainWait ++ [quireOf p] } }, unitOk_next (decide_eq_true hp) ((if_neg g).trans ?_), ?_⟩
    · rw [h4]
      dsimp only
      rw [show negotiate (getPort s p) r = some (m, a) from hn]
      dsimp only
      rw [if_neg (show ¬(false = true) by decide)]
      rw [show chooseWidth (getPort s p) (goodLanes s (getPort s p) r) (r.reversed && bit (getPort s p).lanes.cfg 27) (4 * span (getPort s p)) = some n from hw]
      dsimp only
      rw [if_pos (by simp [h5, h6]), if_neg (by simpa using h7)]
    · exact ⟨rfl, rfl⟩
theorem port_only {s : State} {p : Nat} {i : Instr} {f : Port → Port} {y : Port} (h : exec i s = .next (modPort s p f)) (e : f (getPort s p) = y) :
    ∃ t, exec i s = .next t ∧ ∀ j, getPort t j = if j = p then y else getPort s j :=
  ⟨_, h, fun j => by rw [mp, e]⟩
theorem reset_port (s : State) (p j : Nat) (h : (getPort s p).rst = .run) : sansIfl (getPort (resetPort s p) j) = sansIfl (if j = p then portClear (getPort s p) else getPort s j) := by
  unfold resetPort
  rw [if_neg (by simp [h])]
  dsimp only
  rw [restartTakes_ports]
  have r := flushPort_rel (x1 := p) (ch := 4294967295 - 16384) rfl (ecmpFail_rel (x1 := p) (ch := 4294967295 - 16384) rfl
    (newEntry__rel (x1 := uPort p) (ch := 4294967295 - 16384) rfl (Rel.refl (modPort s p portClear))))
  rw [getPort_congr (r.f14 rfl), mp]
theorem resets_of (s t : State) (p : Nat) (x : Port) (hx : x.genTag = (getPort s p).genTag)
    (h : ∀ j, sansIfl (getPort t j) = sansIfl (if j = p then portClear x else getPort s j)) :
    ((getPort t p).rst = .inReset ∧ (getPort t p).link = .off ∧ (getPort t p).genTag = (getPort s p).genTag + 1 ∧
      ∀ j, j ≠ p → sansIfl (getPort t j) = sansIfl (getPort s j)) ∧ (getPort t p).dpcTrig = x.dpcTrig ∧ (getPort t p).ideSecure = false := by
  have e := h p
  rw [if_pos rfl] at e
  have e1 : (getPort t p).rst = .inReset := congrArg Port.rst e
  have e2 : (getPort t p).link = .off := congrArg Port.link e
  have e3 : (getPort t p).genTag = x.genTag + 1 := congrArg Port.genTag e
  have e4 : (getPort t p).dpcTrig = x.dpcTrig := by
    show (sansIfl (getPort t p)).dpcTrig = (sansIfl (portClear x)).dpcTrig; rw [e]
  have e5 : (getPort t p).ideSecure = false := congrArg Port.ideSecure e
  refine ⟨⟨e1, e2, hx ▸ e3, fun j hj => ?_⟩, e4, e5⟩
  rw [h, if_neg hj]
theorem dpcStatus_port (s : State) (p : Nat) (b : Bool) : (dpcStatus s p b).port = s.port := (dpcStatus_rel (ch := 8192) rfl (Rel.refl s)).f14 rfl
theorem portCount_port' (u : State) (a b c d) : (portCount u a b c d).port = u.port := (portCount_rel (ch := 131072) rfl (Rel.refl u)).f14 rfl
theorem dpc_port (s : State) (p j : Nat) (h : (getPort s p).rst = .run) :
    sansIfl (getPort (dpcTrigger s p) j) = sansIfl (if j = p then portClear { getPort s p with dpcTrig := true } else getPort s j) := by
  unfold dpcTrigger
  dsimp only
  have k : ∀ c, getPort (portCount (dpcStatus (modPort s p fun x => { x with dpcTrig := true }) p true) p 10 c 1) j = if j = p then { getPort s p with dpcTrig := true } else getPort s j := by
    intro c
    rw [getPort_congr (portCount_port' _ _ _ _ _), getPort_congr (dpcStatus_port _ _ _), mp]
  have k' : ∀ c, getPort (portCount (dpcStatus (modPort s p fun x => { x with dpcTrig := true }) p true) p 10 c 1) p = { getPort s p with dpcTrig := true } := by
    intro c
    rw [getPort_congr (portCount_port' _ _ _ _ _), getPort_congr (dpcStatus_port _ _ _), mp, if_pos rfl]
  rw [reset_port _ _ _ (by rw [k']; exact h), k', k]
  by_cases e : j = p
  · rw [if_pos e, if_pos e]
  · rw [if_neg e, if_neg e, if_neg e]
theorem boundDown_congr {s u : State} (p : Nat) (h : getPort u p = getPort s p) (h2 : u.ten = s.ten) : boundDown u p = boundDown s p := by
  unfold boundDown bindingsOf; rw [h, h2]
theorem lost_port (s : State) (p : Nat) (h : (getPort s p).rst = .run) (hm : (getPort s p).mode ≠ 5) :
    ∀ j, sansIfl (getPort (linkLost s p) j) = sansIfl (if j = p then portClear { getPort s p with dpcTrig := (getPort s p).dpcTrig || boundDown s p } else getPort s j) := by
  intro j
  unfold linkLost
  dsimp only
  generalize hu : portCount s p 11 (portTen (getPort s p)) 1 = u
  have e : ∀ j, getPort u j = getPort s j := fun j => by rw [← hu]; exact getPort_congr (portCount_port' _ _ _ _ _) j
  have e2 : u.ten = s.ten := by rw [← hu]; exact portCount_ten
  rw [e, if_neg hm]
  have eb := boundDown_congr p (e p) e2
  by_cases b : boundDown s p = true
  · rw [if_pos (eb.trans b), dpc_port _ _ _ (by rw [e]; exact h), e, e, b, Bool.or_true]
  · rw [if_neg (by rw [eb]; exact b), reset_port _ _ _ (by rw [e]; exact h), e, e]
    have b : boundDown s p = false := by simpa using b
    rw [b, Bool.or_false]
theorem vpps_port (g : Vppb → Vppb) (l : List (Nat × Nat)) (u : State) : (l.foldl (fun s v => modVppb s v.1 v.2 g) u).port = u.port := by
  induction l generalizing u with
  | nil => rfl
  | cons a l ih => rw [List.foldl_cons, ih]; rfl
theorem foldl_port {α : Type} (f : State → α → State) (hf : ∀ u a, (f u a).port = u.port) (l : List α) (u : State) : (l.foldl f u).port = u.port := by
  induction l generalizing u with
  | nil => rfl
  | cons a l ih => rw [List.foldl_cons, ih, hf]

end Sys2Proof.Laws.AboutPorts
end

