-- ==== Sys2Proof/Laws/AboutPower.lean ====
section
/-!
SUPPORT. Lemmas about SLOT, BUDGET, PACE and telemetry.
-/

namespace Sys2Proof.Laws.AboutPower

open Sys2Proof Sys2Proof.Machine Sys2Proof.Safety

theorem oneIs {s t : State} {n : Nat} {y : Slot} (h : ∀ j, getSlot t j = if j = n then y else getSlot s j) :
    getSlot t n = y ∧ ∀ i, i ≠ n → getSlot t i = getSlot s i := ⟨(h n).trans (if_pos rfl), fun i hi => (h i).trans (if_neg hi)⟩
theorem getSlot_of {s t : State} (h : t.slot = s.slot) (i : Nat) : getSlot t i = getSlot s i := by unfold getSlot; rw [h]
theorem getSlot_mod (s : State) (i j : Nat) (f : Slot → Slot) : getSlot (modSlot s i f) j = if j = i then f (getSlot s i) else getSlot s j := by
  unfold modSlot; exact tget_tput _ _ _ _ _
theorem cmdDone_k (s : State) (i : Nat) : (cmdDone s i).slot = s.slot ∧ (cmdDone s i).pwr = s.pwr :=
  have h := cmdDone_rel (ch := 24576) (x1 := i) rfl (Rel.refl s)
  ⟨h.same .slot rfl, h.same .pwr rfl⟩
theorem ret_slot (u : State) (c op : Nat) (w : Ox) (st j : Nat) : getSlot (endTurn (retireSt u c op w st) c) j = getSlot u j :=
  getSlot_of (by rw [endTurn_slot, retireSt_slot]) j
theorem askGrant_slot (s : State) (i j : Nat) : getSlot (askGrant s i) j = if j = i then
    { getSlot s i with st := if (getSlot s i).st = .waitSeat ∧ (getSlot s i).seated = true then .waitGrant else (getSlot s i).st } else getSlot s j := by
  unfold askGrant
  by_cases h : (getSlot s i).st = .waitSeat ∧ (getSlot s i).seated = true
  · rw [if_pos (by simp [h.1, h.2])]
    dsimp only
    rw [if_pos h]
    exact getSlot_mod s i j (fun x => { x with st := .waitGrant })
  · rw [if_neg (by simpa using h), if_neg h]
    split
    · next e => subst e; rfl
    · rfl
theorem begun_gs (s : State) (c j : Nat) : getSlot (begun s c) j = getSlot s j := getSlot_of (begun_slot s c) j
theorem slot_run {s : State} {c : Nat} {w : Ox} {row : Nat → Bool} {eff : State → Nat → State} {i : Instr} {o : Nat}
    (hi : exec i s = unitOk (c < 18) (slotRun c row w eff s)) (ho : fld w.imm 8 3 = o) (hr : row o = true)
    (h : Issues s c 0x80 w { d := fld w.imm 8 3 == 4, imm := 0x71F, B := if fld w.imm 8 3 = 3 then 0xFFFF else 0 })
    (h4 : o ≤ 4) (hs : c < 2 ∨ (o = 4 ∧ slotOwn s (c - 2) (fld w.imm 0 5) = true)) (hst : o = 1 ∨ (getSlot s (fld w.imm 0 5)).st ≠ .inReset) :
    exec i s = .next (endTurn (eff (begun s c) (fld w.imm 0 5)) c) := by
  have e : slotRun c row w eff s = oxRun c 0x80 w { d := fld w.imm 8 3 == 4, imm := 0x71F, B := if fld w.imm 8 3 = 3 then 0xFFFF else 0 }
    (fun s _ => [(4 < fld w.imm 8 3, 0x11), (!isStw c && (fld w.imm 8 3 != 4 || !slotOwn s (c - 2) (fld w.imm 0 5)), 0x12)])
    (fun s _ => if (getSlot s (fld w.imm 0 5)).st == .inReset && fld w.imm 8 3 != 1 then retireSt s c 0x80 w 7 else eff s (fld w.imm 0 5)) s := by
    unfold slotRun
    dsimp only
    rw [if_neg]
    rw [ho, hr]
    decide
  have k := res_issues (hi.trans (congrArg (unitOk _) e)) h (by
    intro e he
    simp only [List.mem_cons, List.not_mem_nil, or_false] at he
    rcases he with rfl | rfl
    · rw [ho]; exact decide_eq_false (by omega)
    · rcases hs with h | ⟨h, h'⟩
      · simp [isStw, h]
      · have : slotOwn (begun s c) (c - 2) (fld w.imm 0 5) = slotOwn s (c - 2) (fld w.imm 0 5) := by unfold slotOwn; rw [begun_port]
        simp [ho, h, this, h'])
  rw [k, if_neg]
  rw [begun_gs, ho]
  rcases hst with h | h
  · simp [h]
  · simp [h]
theorem slotOff_slot (s : State) (i ca j : Nat) : getSlot (slotOff s i ca) j = if j = i then
    { getSlot s i with st := .off, pg := false, perstRel := false, armed := false, timer := false, retry := 0, cause := ca, grantDue := (getSlot s i).granted != 0 } else getSlot s j := by
  have e : getSlot (slotOff s i ca) j = getSlot (modSlot s i fun x => { gateOff x .off with retry := 0, cause := ca, grantDue := x.granted != 0 }) j := rfl
  rw [e, getSlot_mod]; rfl
theorem slotOff_q (s : State) (i ca : Nat) : (slotOff s i ca).pwr.slotQueue = s.pwr.slotQueue.filter (· != i) := rfl
theorem slotOff_seq (s : State) (i ca : Nat) : (slotOff s i ca).seq = s.seq := rfl
theorem cmdDone_seq (s : State) (i : Nat) : (cmdDone s i).seq = s.seq := (cmdDone_rel (ch := 24576) rfl (Rel.refl s)).same .seq rfl
theorem slotDid {s : State} {c op n : Nat} {w : Ox} {f : Slot → Slot} :
    Did [.slot] s (endTurn (retireSt (modSlot (begun s c) n f) c op w 0) c) c ∧
    ∀ j, getSlot (endTurn (retireSt (modSlot (begun s c) n f) c op w 0) c) j = if j = n then f (getSlot s n) else getSlot s j := by
  refine ⟨did_of (ch := 12993554) (modSlot_rel rfl (begun_rel rfl (Rel.refl s))) (fun j => begun_regs s c j) rfl ?_, fun j => ?_⟩
  · intro p hp; cases p <;> first | rfl | (exact absurd (by decide) hp)
  · rw [ret_slot, getSlot_mod, begun_gs, begun_gs]
theorem chks {l : List (Bool × Nat)} (h : ∀ e ∈ l, e.1 = false) : ∀ e ∈ l, e.1 = false := h
theorem bud_run {s : State} {c : Nat} {w : Ox} {row : Nat → Bool} {eff : State → Nat → State} {i : Instr} {o : Nat}
    (hi : exec i s = unitOk (c < 18) (budgetRun c row w eff s)) (ho : fld w.imm 0 4 = o) (hr : row o = true)
    (h : Issues s c 0x81 w { d := fld w.imm 0 4 == 2, imm := if fld w.imm 0 4 = 0 then 0xF else 0xFF0F, B := if fld w.imm 0 4 < 2 then 0xFFFF else 0 })
    (h1 : o ≤ 2) (h2 : o = 0 → 800 ≤ fld w.B 0 16 ∧ fld w.B 0 16 ≤ 1650) (h3 : o = 1 → 0 < fld w.imm 8 8 ∧ fld w.imm 8 8 ≤ 6)
    (h4 : o = 2 → fld w.imm 8 8 ≤ 6 ∨ fld w.imm 8 8 = 0xFF) (hs : o < 2 → c < 2) :
    exec i s = .next (endTurn (eff (begun s c) (fld w.imm 8 8)) c) := by
  have e : budgetRun c row w eff s = oxRun c 0x81 w { d := fld w.imm 0 4 == 2, imm := if fld w.imm 0 4 = 0 then 0xF else 0xFF0F, B := if fld w.imm 0 4 < 2 then 0xFFFF else 0 }
    (fun _ _ => [(2 < fld w.imm 0 4, 0x11), (fld w.imm 0 4 == 0 && (fld w.B 0 16 < 800 || 1650 < fld w.B 0 16), 0x11),
      (fld w.imm 0 4 == 1 && (fld w.imm 8 8 == 0 || 6 < fld w.imm 8 8), 0x11), (fld w.imm 0 4 == 2 && 6 < fld w.imm 8 8 && fld w.imm 8 8 != 0xFF, 0x11), (!isStw c && fld w.imm 0 4 < 2, 0x12)])
    (fun s _ => eff s (fld w.imm 8 8)) s := by
    unfold budgetRun
    dsimp only
    rw [if_neg]
    rw [ho, hr]
    decide
  exact res_issues (hi.trans (congrArg (unitOk _) e)) h (by
    intro e he
    simp only [List.mem_cons, List.not_mem_nil, or_false] at he
    rcases he with rfl | rfl | rfl | rfl | rfl <;> rw [ho]
    · exact decide_eq_false (by omega)
    · by_cases z : o = 0
      · simp; intro; omega
      · simp [z]
    · by_cases z : o = 1
      · simp; intro; omega
      · simp [z]
    · by_cases z : o = 2
      · have := h4 z; simp; intro; omega
      · simp [z]
    · by_cases z : o < 2
      · simp [isStw, hs z]
      · simp [z])
theorem pace_run {s : State} {c : Nat} {w : Ox} {row : Nat → Bool} {eff : State → State} {i : Instr} {o : Nat}
    (hi : exec i s = unitOk (c < 18) (paceRun c row w eff s)) (ho : fld w.imm 0 4 = o) (hr : row o = true)
    (h : Issues s c 0x82 w { d := fld w.imm 0 4 == 2 || fld w.imm 0 4 == 3, imm := 0xF, B := if fld w.imm 0 4 = 0 then 0xFFFF else if fld w.imm 0 4 = 1 then 1 else 0 })
    (h1 : o ≤ 3) (hs : o < 2 → c < 2) :
    exec i s = .next (endTurn (eff (begun s c)) c) := by
  have e : paceRun c row w eff s = oxRun c 0x82 w { d := fld w.imm 0 4 == 2 || fld w.imm 0 4 == 3, imm := 0xF, B := if fld w.imm 0 4 = 0 then 0xFFFF else if fld w.imm 0 4 = 1 then 1 else 0 }
    (fun _ _ => [(3 < fld w.imm 0 4, 0x11), (!isStw c && fld w.imm 0 4 < 2, 0x12)])
    (fun s _ => eff s) s := by
    unfold paceRun
    dsimp only
    rw [if_neg]
    rw [ho, hr]
    decide
  exact res_issues (hi.trans (congrArg (unitOk _) e)) h (by
    intro e he
    simp only [List.mem_cons, List.not_mem_nil, or_false] at he
    rcases he with rfl | rfl <;> rw [ho]
    · exact decide_eq_false (by omega)
    · by_cases z : o < 2
      · simp [isStw, hs z]
      · simp [z])
theorem clampT (v : Nat) : clampTarget v = if v < 1250 then 1250 else if 2400 < v then 2400 else v := by
  unfold clampTarget clamp; split
  · omega
  · split <;> omega
theorem pwrDid {s : State} {c op : Nat} {w : Ox} (f : Pwr → Pwr) :
    Did [.pwr] s (endTurn (retireSt { begun s c with pwr := f (begun s c).pwr } c op w 0) c) c ∧
    (endTurn (retireSt { begun s c with pwr := f (begun s c).pwr } c op w 0) c).pwr = f s.pwr := by
  refine ⟨did_of (ch := 12993542) (Rel.pwr _ rfl (begun_rel rfl (Rel.refl s))) (fun j => begun_regs s c j) rfl ?_, ?_⟩
  · intro p hp; cases p <;> first | rfl | (exact absurd (by decide) hp)
  · rw [endTurn_pwr, retireSt_pwr, begun_pwr]
theorem readGave {s : State} {c op : Nat} {w : Ox} {v : W64} :
    Gave [] s (endTurn (retireK (begun s c) c op w w.d v) c) c w.d v ∧ (endTurn (retireK (begun s c) c op w w.d v) c).pwr = s.pwr := by
  refine ⟨gave_of (ch := 549864450) (begun_rel rfl (Rel.refl s)) (fun j => begun_regs s c j) rfl ?_, ?_⟩
  · intro p hp; cases p <;> first | rfl | (exact absurd (by decide) hp)
  · rw [endTurn_pwr, retireK_pwr, begun_pwr]
theorem charge_begun (s : State) (c cls : Nat) : charge (begun s c) cls = charge s cls := by
  obtain ⟨q, e⟩ := begun_eq s c
  rw [e]; rfl

end Sys2Proof.Laws.AboutPower
end

