-- ==== Sys2Proof/Laws/AboutRounds.lean ====
section
/-!
SUPPORT. Lemmas about scheduler rounds.
-/

namespace Sys2Proof.Laws.AboutRounds

open Sys2Proof Sys2Proof.Machine Sys2Proof.Safety

theorem leastFold (key : Rq → Nat) (l : List Rq) (b : Option Rq) (x : Rq)
    (h : l.foldl (fun b x => match b with | none => some x | some y => if key x < key y then some x else b) b = some x) :
    (x ∈ l ∨ b = some x) ∧ (∀ y ∈ l, key x ≤ key y) ∧ ∀ z, b = some z → key x ≤ key z := by
  induction l generalizing b with
  | nil => exact ⟨.inr h, by simp, fun z hz => by rw [List.foldl_nil] at h; rw [h] at hz; cases hz; exact Nat.le_refl _⟩
  | cons a l ih =>
    rw [List.foldl_cons] at h
    obtain ⟨i1, i2, i3⟩ := ih _ h
    cases b with
    | none =>
      have := i3 a rfl
      refine ⟨?_, fun y hy => ?_, by simp⟩
      · rcases i1 with i1 | i1
        · exact .inl (List.mem_cons_of_mem _ i1)
        · cases i1; exact .inl (List.mem_cons_self ..)
      · rcases List.mem_cons.1 hy with rfl | hy
        · exact this
        · exact i2 y hy
    | some w =>
      dsimp only at i1 i3
      by_cases k : key a < key w
      · rw [if_pos k] at i1 i3
        have := i3 a rfl
        refine ⟨?_, fun y hy => ?_, fun z hz => ?_⟩
        · rcases i1 with i1 | i1
          · exact .inl (List.mem_cons_of_mem _ i1)
          · cases i1; exact .inl (List.mem_cons_self ..)
        · rcases List.mem_cons.1 hy with rfl | hy
          · exact this
          · exact i2 y hy
        · cases hz; omega
      · rw [if_neg k] at i1 i3
        have := i3 w rfl
        refine ⟨?_, fun y hy => ?_, fun z hz => ?_⟩
        · rcases i1 with i1 | i1
          · exact .inl (List.mem_cons_of_mem _ i1)
          · exact .inr i1
        · rcases List.mem_cons.1 hy with rfl | hy
          · omega
          · exact i2 y hy
        · cases hz; exact this
theorem least_mem {key : Rq → Nat} {l : List Rq} {x : Rq} (h : leastRq key l = some x) : x ∈ l ∧ ∀ y ∈ l, key x ≤ key y := by
  obtain ⟨a, b, _⟩ := leastFold key l none x h
  exact ⟨a.resolve_right (by simp), b⟩
theorem filterMap_uniq (f : Nat → Option Rq) (key : Rq → Nat) (h : ∀ i x, f i = some x → key x = i) (l : List Nat) (hl : l.Nodup) :
    (l.filterMap f).Pairwise fun x y => key x ≠ key y := by
  induction l with
  | nil => simp
  | cons a l ih =>
    obtain ⟨h1, h2⟩ := List.nodup_cons.1 hl
    rw [List.filterMap_cons]
    split
    · exact ih h2
    · next b e =>
      refine List.pairwise_cons.2 ⟨fun y hy => ?_, ih h2⟩
      obtain ⟨c, hc, e'⟩ := List.mem_filterMap.1 hy
      rw [h _ _ e, h _ _ e']
      rintro rfl
      exact h1 hc
theorem grant_mem {s : State} {b : Nat → Bool} {l : List Rq} {x : Rq} (h : x ∈ grants s b l) : x ∈ l ∧
    (∀ y ∈ l, y.j = x.j → (if b x.j then min x.rank 1 else x.rank) * 16 + ptrDist (tget 0 s.core.gptr x.j) x.i ≤
      (if b x.j then min y.rank 1 else y.rank) * 16 + ptrDist (tget 0 s.core.gptr x.j) y.i) := by
  unfold grants at h
  obtain ⟨j, hj, e⟩ := List.mem_filterMap.1 h
  obtain ⟨a, c⟩ := least_mem e
  obtain ⟨a1, a2⟩ := List.mem_filter.1 a
  have a2 : x.j = j := by simpa using a2
  subst a2
  refine ⟨a1, fun y hy hyj => c y (List.mem_filter.2 ⟨hy, by simpa using hyj⟩)⟩
theorem grant_uniq (s : State) (b : Nat → Bool) (l : List Rq) : (grants s b l).Pairwise fun x y => x.j ≠ y.j := by
  unfold grants
  refine filterMap_uniq _ (fun x => x.j) (fun i x h => ?_) _ List.nodup_range
  simpa using (List.mem_filter.1 (least_mem h).1).2
theorem accept_mem {s : State} {l : List Rq} {x : Rq} (h : x ∈ accepts s l) : x ∈ l := by
  unfold accepts at h
  obtain ⟨j, hj, e⟩ := List.mem_filterMap.1 h
  exact (List.mem_filter.1 (least_mem e).1).1
theorem accept_uniq (s : State) (l : List Rq) : (accepts s l).Pairwise fun x y => x.i ≠ y.i := by
  unfold accepts
  refine filterMap_uniq _ (fun x => x.i) (fun i x h => ?_) _ List.nodup_range
  simpa using (List.mem_filter.1 (least_mem h).1).2
theorem pair_eq {l : List Rq} (key : Rq → Nat) (h : l.Pairwise fun x y => key x ≠ key y) {x y : Rq} (hx : x ∈ l) (hy : y ∈ l) (e : key x = key y) : x = y := by
  induction l with
  | nil => simp at hx
  | cons a l ih =>
    obtain ⟨h1, h2⟩ := List.pairwise_cons.1 h
    rcases List.mem_cons.1 hx with k | k
    · rcases List.mem_cons.1 hy with k' | k'
      · rw [k, k']
      · exact absurd (k ▸ e) (h1 y k')
    · rcases List.mem_cons.1 hy with k' | k'
      · exact absurd (k' ▸ e.symm) (h1 x k)
      · exact ih h2 k k'
theorem match_uniq (s : State) (b : Nat → Bool) (l : List Rq) : (accepts s (grants s b l)).Pairwise fun x y => x.i ≠ y.i ∧ x.j ≠ y.j := by
  have a := accept_uniq s (grants s b l)
  refine List.Pairwise.imp_of_mem (fun {x y} hx hy h => ⟨h, fun e => h ?_⟩) a
  rw [pair_eq (fun x => x.j) (grant_uniq s b l) (accept_mem hx) (accept_mem hy) e]
theorem ptrs (l : List Rq) (h : l.Pairwise fun x y => x.i ≠ y.i ∧ x.j ≠ y.j) (u : State) :
    (∀ x ∈ l, tget 0 (l.foldl movePtrs u).core.gptr x.j = (x.i + 1) % 16 ∧ tget 0 (l.foldl movePtrs u).core.aptr x.i = (x.j + 1) % 16) ∧
      (∀ j, (∀ x ∈ l, x.j ≠ j) → tget 0 (l.foldl movePtrs u).core.gptr j = tget 0 u.core.gptr j) ∧
      (∀ i, (∀ x ∈ l, x.i ≠ i) → tget 0 (l.foldl movePtrs u).core.aptr i = tget 0 u.core.aptr i) ∧
      (l.foldl movePtrs u).core.rounds = u.core.rounds ∧ (l.foldl movePtrs u).core.pkts = u.core.pkts := by
  induction l generalizing u with
  | nil => simp
  | cons a l ih =>
    obtain ⟨h1, h2⟩ := List.pairwise_cons.1 h
    obtain ⟨i1, i2, i3, i4, i5⟩ := ih h2 (movePtrs u a)
    rw [List.foldl_cons]
    have g : ∀ j, tget 0 (movePtrs u a).core.gptr j = if j = a.j then (a.i + 1) % 16 else tget 0 u.core.gptr j := fun j => by
      show tget 0 (tput 0 u.core.gptr a.j _) j = _
      exact tget_tput _ _ _ _ _
    have g' : ∀ j, tget 0 (movePtrs u a).core.aptr j = if j = a.i then (a.j + 1) % 16 else tget 0 u.core.aptr j := fun j => by
      show tget 0 (tput 0 u.core.aptr a.i _) j = _
      exact tget_tput _ _ _ _ _
    refine ⟨fun x hx => ?_, fun j hj => ?_, fun j hj => ?_, i4, i5⟩
    · rcases List.mem_cons.1 hx with rfl | hx
      · rw [i2 _ fun y hy => (h1 y hy).2.symm, i3 _ fun y hy => (h1 y hy).1.symm, g, g', if_pos rfl, if_pos rfl]
        exact ⟨rfl, rfl⟩
      · exact i1 x hx
    · rw [i2 _ fun y hy => hj y (List.mem_cons_of_mem _ hy), g, if_neg (fun e => hj a (List.mem_cons_self ..) e.symm)]
    · rw [i3 _ fun y hy => hj y (List.mem_cons_of_mem _ hy), g', if_neg (fun e => hj a (List.mem_cons_self ..) e.symm)]
theorem countAll (l : List Nat) (hl : l.Nodup) (u : State) : (forL l u countRound).core.pkts = u.core.pkts ∧ (forL l u countRound).core.gptr = u.core.gptr ∧
    (forL l u countRound).core.aptr = u.core.aptr ∧ ∀ j, tget 0 (forL l u countRound).core.rounds j = if j ∈ l then (tget 0 u.core.rounds j + 1) % 8 else tget 0 u.core.rounds j := by
  induction l generalizing u with
  | nil => exact ⟨rfl, rfl, rfl, fun j => by simp [forL]⟩
  | cons a l ih =>
    obtain ⟨h1, h2⟩ := List.nodup_cons.1 hl
    obtain ⟨i1, i2, i3, i4⟩ := ih h2 (countRound u a)
    refine ⟨i1, i2, i3, fun j => ?_⟩
    have e : forL (a :: l) u countRound = forL l (countRound u a) countRound := rfl
    rw [e, i4]
    have g : ∀ j, tget 0 (countRound u a).core.rounds j = if j = a then (tget 0 u.core.rounds a + 1) % 8 else tget 0 u.core.rounds j := fun j => by
      show tget 0 (tput 0 u.core.rounds a _) j = _
      exact tget_tput _ _ _ _ _
    rw [g]
    by_cases z : j = a
    · subst z; simp [h1]
    · simp [z]
theorem topDown_c (u : State) (a b c d e) : (topDown u a b c d e).core = u.core := (topDown_rel (ch := 131072) rfl (Rel.refl u)).same .core rfl
theorem cntAdd_c (u : State) (a b) : (cntAdd u a b).core = u.core := (cntAdd_rel (ch := 131072) rfl (Rel.refl u)).same .core rfl
theorem idle_c (l m : List Rq) (ix : List Nat) (u : State) : (forL ix u (idleSlots l m)).core = u.core := by
  unfold forL
  induction ix generalizing u with
  | nil => rfl
  | cons a ix ih =>
    rw [List.foldl_cons, ih]
    unfold idleSlots
    split
    · rfl
    · exact topDown_c _ _ _ _ _ _

end Sys2Proof.Laws.AboutRounds
end

