-- ==== Sys2Proof/Laws/AboutRoute.lean ====
section
/-!
SUPPORT. Lemmas about ROUTE, MCAST and DECKLE.
-/

namespace Sys2Proof.Laws.AboutRoute

open Sys2Proof Sys2Proof.Machine Sys2Proof.Safety

theorem forL_quires (s : State) (l : List Nat) (id : Nat) (v : W32) (q i : Nat) :
    routeOf (forL l s fun s q => modQuire s q fun x => { x with route := tput 0 x.route id v }) q i =
      if q ∈ l ∧ i = id then v else routeOf s q i := by
  unfold forL
  induction l generalizing s with
  | nil => simp
  | cons a l ih =>
    rw [List.foldl_cons, ih]
    have e : routeOf (modQuire s a fun x => { x with route := tput 0 x.route id v }) q i = if q = a ∧ i = id then v else routeOf s q i := by
      unfold routeOf
      rw [getQuire_modQuire]
      by_cases h : q = a
      · simp [h]
      · simp [h]
    rw [e]
    by_cases h : q ∈ l ∧ i = id
    · rw [if_pos h, if_pos ⟨List.mem_cons_of_mem _ h.1, h.2⟩]
    · rw [if_neg h]
      by_cases h' : q = a ∧ i = id
      · rw [if_pos h', if_pos ⟨by rw [h'.1]; exact List.mem_cons_self .., h'.2⟩]
      · rw [if_neg h', if_neg]
        rintro ⟨x, y⟩
        rcases List.mem_cons.1 x with x | x
        · exact h' ⟨x, y⟩
        · exact h ⟨x, y⟩
theorem ecmpFence_core (s : State) (g : Nat) : (ecmpFence s g).core.hashSeed = s.core.hashSeed ∧
    (ecmpFence s g).core.hashShift = s.core.hashShift ∧ (ecmpFence s g).core.hashAddrEn = s.core.hashAddrEn := by
  unfold ecmpFence
  dsimp only
  rw [quireCount_core]
  exact ⟨rfl, rfl, rfl⟩
theorem ecmpFence_all (l : List Nat) (s : State) : (forL l s ecmpFence).core.hashSeed = s.core.hashSeed ∧
    (forL l s ecmpFence).core.hashShift = s.core.hashShift ∧ (forL l s ecmpFence).core.hashAddrEn = s.core.hashAddrEn := by
  unfold forL
  induction l generalizing s with
  | nil => exact ⟨rfl, rfl, rfl⟩
  | cons a l ih =>
    rw [List.foldl_cons]
    obtain ⟨a1, a2, a3⟩ := ih (ecmpFence s a)
    obtain ⟨b1, b2, b3⟩ := ecmpFence_core s a
    exact ⟨a1.trans b1, a2.trans b2, a3.trans b3⟩
theorem ecmpFence_buckets (s : State) (g : Nat) : (getEcmp (ecmpFence s g) g).buckets = (getEcmp s g).buckets := by
  unfold ecmpFence
  dsimp only
  have e : ∀ u : State, getEcmp (quireCount u (quireOf ((getEcmp s g).members.headD 0)) 1 none 1) g = getEcmp u g := by
    intro u; unfold getEcmp; rw [quireCount_core]
  rw [e, getEcmp_modEcmp, if_pos rfl]
theorem mem_quires (imm : W32) (q : Nat) : q ∈ (List.range 12).filter (fun q => bit imm q) ↔ q < 12 ∧ bit imm q = true := by
  simp [List.mem_filter]
theorem mc_sets {i : Instr} {s : State} {c sub : Nat} {w : Ox} {g : Nat} {f : Rgrp → Rgrp} (h : FabIssues i s c 0x43 sub w false)
    (hr : fabRead 0x43 sub = false)
    (hb : fabApply (begun s c) c 0x43 w.imm w.B (kget (getCtx s c) w.a) (kget (getCtx s c) w.b) = fabOk (modRgrp (begun s c) g f)) :
    ∃ t, exec i s = .next t ∧ Did [.core, .time] s t c ∧ ∀ h, getRgrp t h = if h = g then f (getRgrp s g) else getRgrp s h := by
  have rb : Rel 1024 s (begun s c) := begun_rel rfl (Rel.refl s)
  obtain ⟨t, ht, hg, hc⟩ := fab_did (l := [.core, .time]) (ch := 13063170) h rfl hb rfl hr rfl rfl
    (Rel.fabOk (modRgrp_rel rfl (Rel.mono rfl rb))) rfl rfl (by intro p hp; cases p <;> first | rfl | (exact absurd (by decide) hp))
  refine ⟨t, ht, hg, fun r => ?_⟩
  have e1 : ∀ u v : State, v.core = u.core → getRgrp v r = getRgrp u r := by intro u v h; unfold getRgrp; rw [h]
  rw [e1 _ _ hc.core]
  show getRgrp (modRgrp (begun s c) _ _) r = _
  rw [getRgrp_modRgrp, e1 _ _ (begun_core s c)]
  split
  · next hr => subst hr; rfl
  · rfl
theorem dk_sets {i : Instr} {s : State} {c sub : Nat} {w : Ox} {k : Nat} {e : Deckle} (h : FabIssues i s c 0x44 sub w false)
    (hr : fabRead 0x44 sub = false)
    (hb : fabApply (begun s c) c 0x44 w.imm w.B (kget (getCtx s c) w.a) (kget (getCtx s c) w.b) =
      fabOk { begun s c with dkl := { (begun s c).dkl with tab := tput {} (begun s c).dkl.tab k e } }) :
    ∃ t, exec i s = .next t ∧ Did [.dkl, .deckles, .time] s t c ∧
      (∀ j, getDkl t j = if j = k then e else getDkl s j) ∧ t.dkl.log = s.dkl.log := by
  have rb : Rel 1024 s (begun s c) := begun_rel rfl (Rel.refl s)
  have hrel : Rel 281433602 s (fabApply (begun s c) c 0x44 w.imm w.B (kget (getCtx s c) w.a) (kget (getCtx s c) w.b)).s :=
    deckleDo_rel rfl (Rel.mono rfl rb)
  obtain ⟨t, ht, hg, hc⟩ := fab_did (l := [.dkl, .deckles, .time]) (ch := 281433602) h rfl hb rfl hr rfl rfl
    (hb ▸ hrel) rfl rfl (by intro p hp; cases p <;> first | rfl | (exact absurd (by decide) hp))
  have hk := hc.dkl
  refine ⟨t, ht, hg, fun j => ?_, ?_⟩
  · have : t.dkl.tab = tput {} s.dkl.tab k e := by rw [hk]; show tput {} (begun s c).dkl.tab k e = _; rw [begun_dkl]
    unfold getDkl
    rw [this, tget_tput]
  · rw [hk]; show (begun s c).dkl.log = _; rw [begun_dkl]

end Sys2Proof.Laws.AboutRoute
end

