-- ==== Sys2Proof/Laws/AboutSheets.lean ====
section
/-!
SUPPORT. Lemmas about SHEET.
-/

namespace Sys2Proof.Laws.AboutSheets

open Sys2Proof Sys2Proof.Machine Sys2Proof.Safety

def mark (u : State) (g k : Nat) : SlotUse := tget {} (getGrp u g).map k
theorem mark_modUse (u : State) (a b g k : Nat) (f : SlotUse → SlotUse) : mark (modUse u a b f) g k = if g = a ∧ k = b then f (mark u g k) else mark u g k := by
  unfold mark modUse
  rw [getGrp_modGrp]
  by_cases h : g = a
  · subst h
    rw [if_pos rfl, tget_tput]
    by_cases hk : k = b
    · subst hk; simp
    · simp [hk]
  · simp [h]
theorem mark_of {u v : State} (h : v.pool = u.pool) (g k : Nat) : mark v g k = mark u g k := by unfold mark getGrp; rw [h]
theorem sheet_of {u v : State} (h : v.pool.sheet = u.pool.sheet) (k : Nat) : getSheet v k = getSheet u k := by unfold getSheet; rw [h]
theorem sheet_setSheet (u : State) (i : Nat) (v : W64) (x : Nat) : getSheet (setSheet u i v) x = if x = i then v else getSheet u x := by
  unfold getSheet setSheet; rw [tget_tput]
theorem mark_setSheet (u : State) (i : Nat) (v : W64) (g k : Nat) : mark (setSheet u i v) g k = mark u g k := rfl
theorem sheet_modUse (u : State) (a b : Nat) (f : SlotUse → SlotUse) (y : Nat) : getSheet (modUse u a b f) y = getSheet u y := rfl
theorem sheet_freeSlot (u : State) (a b : Nat) (y : Nat) : getSheet (freeSlot u a b) y = getSheet u y := rfl
theorem sh_does {i : Instr} {s : State} {c sub : Nat} {w : Ox} {x : State} {v : W64} {k : Nat} {p : State → Prop} (h : FabIssues i s c 0x45 sub w false)
    (hr : fabRead 0x45 sub = false) (h7 : (sub == 7) = false)
    (hb : fabApply (begun s c) c 0x45 w.imm w.B (kget (getCtx s c) w.a) (kget (getCtx s c) w.b) = fabOk x)
    (hrel : Rel 147215490 s x) (hs : ∀ y, getSheet x y = if y = k then v else getSheet s y) (hp : ∀ t : State, t.pool = x.pool → p t) :
    ∃ t, exec i s = .next t ∧ Did [.pool, .sheets, .time] s t c ∧ same s t .dram ∧
      (∀ y, getSheet t y = if y = k then v else getSheet s y) ∧ p t ∧ fabSub 0x45 w.imm = sub := by
  obtain ⟨t, ht, hg, hc⟩ := fab_did (l := [.pool, .sheets, .time]) (ch := 147215490) h rfl hb rfl hr (by rw [h7]; rfl) rfl
    (Rel.fabOk hrel) rfl rfl (by intro p hp; cases p <;> first | rfl | (exact absurd (by decide) hp))
  have hpool : t.pool = x.pool := hc.pool
  refine ⟨t, ht, hg, hg.frame .dram (by decide), fun y => ?_, hp t hpool, h.row⟩
  rw [sheet_of (u := x) (by rw [hpool]), hs]
theorem ream_run (u : State) (imm : W32) (B : W64) (e : fld imm 28 4 = 7) (h1 : (getTen u (fld B 32 4)).exist = true)
    (h2 : ∀ j, j < fld B 0 15 → shValid (getSheet u (fld B 16 15 + j)) = true ∧ shOwner (getSheet u (fld B 16 15 + j)) = some (fld B 32 4)) :
    sheetDo u imm B = fabOk (if reamShrinks (getTen u (fld B 32 4)) (fld B 16 15) (fld B 0 15) then
        { modTen u (fld B 32 4) fun x => { x with base := fld B 16 15, len := fld B 0 15 } with home := { u.home with walks := u.home.walks ++
          [{ tenant := fld B 32 4, reset := false, oldBase := (getTen u (fld B 32 4)).base, oldLen := (getTen u (fld B 32 4)).len }] } }
        else modTen u (fld B 32 4) fun x => { x with base := fld B 16 15, len := fld B 0 15 }) := by
  unfold sheetDo; dsimp only; rw [e]
  refine (if_neg (by rw [h1]; simp)).trans ((if_neg ?_).trans rfl)
  rw [List.any_eq_true]
  rintro ⟨j, hj, x⟩
  obtain ⟨a, b⟩ := h2 j (List.mem_range.1 hj)
  rw [a, b] at x
  simp at x

end Sys2Proof.Laws.AboutSheets
end

