-- ==== Sys2Proof/Laws/AboutSlots.lean ====
section
/-!
SUPPORT. Lemmas about slot power.
-/

namespace Sys2Proof.Laws.AboutSlots

open Sys2Proof Sys2Proof.Machine Sys2Proof.Safety

theorem getSlot_of {s t : State} (h : t.slot = s.slot) (i : Nat) : getSlot t i = getSlot s i := by unfold getSlot; rw [h]
theorem getSlot_mod (s : State) (i j : Nat) (f : Slot → Slot) : getSlot (modSlot s i f) j = if j = i then f (getSlot s i) else getSlot s j := by
  unfold modSlot; exact tget_tput _ _ _ _ _
theorem hpVppbs_slot (s : State) (i : Nat) (f : Vppb → Vppb) : (hpVppbs s i f).slot = s.slot :=
  (hpVppbs_rel (ch := 8192) rfl (Rel.refl s)).same .slot rfl
theorem slotEv_keep (s : State) (i : Nat) (e : SlotEv) : (slotEv s i e).slotHold = s.slotHold ∧ (slotEv s i e).pwrfail = s.pwrfail := by
  have h := slotEv_rel (ch := 4294967295 - 64 - 32) (x1 := i) (x2 := e) rfl (Rel.refl s)
  exact ⟨h.same .slotHold rfl, h.same .pwrfail rfl⟩
theorem slotEv_slot (s : State) (i : Nat) (e : SlotEv) (j : Nat) :
    getSlot (slotEv s i e) j = if j = i then slotEvSet (getSlot s i) e else getSlot s j := by
  have k : (slotEv s i e).slot = (modSlot s i fun x => slotEvSet x e).slot := by
    unfold slotEv
    dsimp only
    have a : ∀ u : State, (stewEv u).slot = u.slot := fun u => (stewEv_rel (ch := 4294967295 - 16) rfl (Rel.refl u)).same .slot rfl
    have b : ∀ (u : State) n, (pldmEv u n).slot = u.slot := fun u n => rfl
    have d : ∀ (u : State) n, (tenEv? u n).slot = u.slot := fun u n => (tenEv?_rel (ch := 4294967295 - 16) rfl (Rel.refl u)).same .slot rfl
    have g : (if slotEvFault e = true then hpVppbs (modSlot s i fun x => slotEvSet x e) i fun v => { v with powerFault := true } else
      modSlot s i fun x => slotEvSet x e).slot = (modSlot s i fun x => slotEvSet x e).slot := by split; exact hpVppbs_slot _ _ _; rfl
    split
    · exact g
    · split
      · rw [d]; split
        · rw [b, a]; exact g
        · rw [a]; exact g
      · split
        · rw [b, a]; exact g
        · rw [a]; exact g
  rw [getSlot_of k, getSlot_mod]
theorem slotIs.of {s t : State} {n : Nat} {y : Slot} (h : ∀ j, getSlot t j = if j = n then y else getSlot s j) : slotIs s t n y :=
  ⟨(h n).trans (if_pos rfl), fun i hi => (h i).trans (if_neg hi)⟩
theorem warnOn_slot (s : State) (i j : Nat) : getSlot (warnOn s i) j = if j = i then
    { getSlot s i with warn := true, evWarn := (getSlot s i).evWarn || !(getSlot s i).warn } else getSlot s j := by
  unfold warnOn
  by_cases h : (getSlot s i).warn = true
  · rw [if_pos h]; split
    · next e => subst e; generalize getSlot s j = x at *; cases x; simp_all
    · rfl
  · rw [if_neg h, slotEv_slot, getSlot_mod, getSlot_mod, if_pos rfl]
    split
    · simp [slotEvSet, h]
    · rfl
theorem enterRamp_slot (s : State) (i j : Nat) : getSlot (enterRamp s i) j = if j = i then
    (let low := (s.pwrfail && (getSlot s i).warnPwrfail) || (getSlot s i).vinLow
     { getSlot s i with st := .ramp, armed := false, timer := false, warn := (getSlot s i).warn || low, evWarn := (getSlot s i).evWarn || (low && !(getSlot s i).warn) })
    else getSlot s j := by
  unfold enterRamp
  dsimp only
  rw [getSlot_mod, if_pos rfl]
  dsimp only
  by_cases h : ((s.pwrfail && (getSlot s i).warnPwrfail) || (getSlot s i).vinLow) = true
  · have h' : (((modSlot s i fun x => { x with st := .ramp, armed := false, timer := false }).pwrfail && (getSlot s i).warnPwrfail) || (getSlot s i).vinLow) = true := h
    rw [if_pos h', warnOn_slot, getSlot_mod, getSlot_mod, if_pos rfl, h]
    split
    · simp
    · rfl
  · have h' : ¬ (((modSlot s i fun x => { x with st := .ramp, armed := false, timer := false }).pwrfail && (getSlot s i).warnPwrfail) || (getSlot s i).vinLow) = true := h
    rw [if_neg h', getSlot_mod]
    rw [Bool.not_eq_true] at h
    rw [h]
    simp
theorem pgLost_slot (s : State) (i j : Nat) : getSlot (pgLost s i) j = if j = i then
    { getSlot s i with evPgLost := (getSlot s i).evPgLost || (getSlot s i).st == .on } else getSlot s j := by
  unfold pgLost
  by_cases h : ((getSlot s i).st == .on) = true
  · rw [if_pos h, slotEv_slot, h]
    simp [slotEvSet]
  · rw [if_neg h]
    rw [Bool.not_eq_true] at h
    rw [h]
    split
    · next e => subst e; simp
    · rfl
theorem pgLost_keep (s : State) (i : Nat) : (pgLost s i).slotHold = s.slotHold ∧ (pgLost s i).pwrfail = s.pwrfail := by
  unfold pgLost; split
  · exact slotEv_keep _ _ _
  · exact ⟨rfl, rfl⟩
theorem latch_slot (s : State) (i j : Nat) : getSlot (latch s i) j = if j = i then
    { getSlot s i with st := .latched, pg := false, perstRel := false, armed := false, timer := false, granted := 0, grantDue := false, evLatched := true }
    else getSlot s j := by
  unfold latch
  rw [slotEv_slot, getSlot_mod, getSlot_mod, if_pos rfl]
  split <;> rfl
theorem endAttempt_slot (s : State) (i cause j : Nat) : getSlot (endAttempt s i cause) j = if j = i then
    (let d : Slot := { getSlot s i with pg := false, perstRel := false, armed := false, timer := false, cause := cause, evTrip := true,
                                        evPgLost := (getSlot s i).evPgLost || (getSlot s i).st == .on }
     if s.slotHold = false ∧ (getSlot s i).retry < fld (getSlot s i).ramp 12 3 then { d with st := .backoff } else
      { d with st := .latched, granted := 0, grantDue := false, evLatched := true })
    else getSlot s j := by
  unfold endAttempt
  dsimp only
  have k : (slotEv (pgLost s i) i SlotEv.trip).slotHold = s.slotHold := (slotEv_keep _ _ _).1.trans (pgLost_keep _ _).1
  have k' : (modSlot (slotEv (pgLost s i) i SlotEv.trip) i fun x => { gateOff x x.st with cause := cause }).slotHold = s.slotHold := k
  have g : ∀ j, getSlot (modSlot (slotEv (pgLost s i) i SlotEv.trip) i fun x => { gateOff x x.st with cause := cause }) j = if j = i then
      { getSlot s i with pg := false, perstRel := false, armed := false, timer := false, cause := cause, evTrip := true,
                         evPgLost := (getSlot s i).evPgLost || (getSlot s i).st == .on } else getSlot s j := by
    intro j
    rw [getSlot_mod, slotEv_slot, slotEv_slot, pgLost_slot, pgLost_slot]
    simp only [if_true]
    split <;> rfl
  rw [k', g, if_pos rfl]
  dsimp only
  by_cases h : s.slotHold = false ∧ (getSlot s i).retry < fld (getSlot s i).ramp 12 3
  · rw [if_pos h, if_pos (by simp [h.1, h.2]), getSlot_mod, g, g, if_pos rfl]
    split <;> rfl
  · rw [if_neg h, if_neg (by simpa using h), latch_slot, g, g, if_pos rfl]
    split <;> rfl
theorem okU {u : Bool} {x t : State} (hu : u = true) (h : x = t) : unitOk u x = .next t := by rw [unitOk_of hu, h]
theorem withdraw_slot (s : State) (i j : Nat) : getSlot (withdraw s i) j = getSlot s j := rfl
theorem slotEv_pwr (s : State) (i : Nat) (e : SlotEv) : (slotEv s i e).pwr = s.pwr :=
  (slotEv_rel (ch := 4294967295 - 4) (x1 := i) (x2 := e) rfl (Rel.refl s)).same .pwr rfl
theorem askGrant_slot (s : State) (i j : Nat) : getSlot (askGrant s i) j = if j = i then
    { getSlot s i with st := if (getSlot s i).st = .waitSeat ∧ (getSlot s i).seated = true then .waitGrant else (getSlot s i).st } else getSlot s j := by
  unfold askGrant
  by_cases h : (getSlot s i).st = .waitSeat ∧ (getSlot s i).seated = true
  · rw [if_pos (by simp [h.1, h.2])]
    dsimp only
    rw [if_pos h]
    exact getSlot_mod s i j (fun x => { x with st := .waitGrant })
  · rw [if_neg (by simpa using h), if_neg h]
    split
    · next e => subst e; rfl
    · rfl
theorem gated_iff (x : SlotSt) : gated x = true ↔ x = .ramp ∨ x = .on := by cases x <;> decide
theorem gated_not (x : SlotSt) : ¬ (x = .ramp ∨ x = .on) → gated x = false := by cases x <;> decide
theorem warnOn_keep (s : State) (i : Nat) : (warnOn s i).pwrfail = s.pwrfail := by
  unfold warnOn; split
  · rfl
  · exact (slotEv_keep _ _ _).2
theorem warnAll (l : List Nat) (hl : l.Nodup) (s : State) : (l.foldl warnOn s).pwrfail = s.pwrfail ∧ ∀ n, getSlot (l.foldl warnOn s) n =
    if n ∈ l then { getSlot s n with warn := true, evWarn := (getSlot s n).evWarn || !(getSlot s n).warn } else getSlot s n := by
  induction l generalizing s with
  | nil => exact ⟨rfl, fun n => by simp⟩
  | cons a l ih =>
    obtain ⟨hn, hl⟩ := List.nodup_cons.1 hl
    obtain ⟨i1, i2⟩ := ih hl (warnOn s a)
    refine ⟨i1.trans (warnOn_keep _ _), fun n => (i2 n).trans ?_⟩
    rw [warnOn_slot]
    by_cases e : n = a
    · subst e; simp [hn]
    · simp [e]

end Sys2Proof.Laws.AboutSlots
end

