-- ==== Sys2Proof/Laws/AboutSteward.lean ====
section
/-!
SUPPORT. Lemmas about COUCH, LOCK, IMAGE and RESUME.
-/

namespace Sys2Proof.Laws.AboutSteward

open Sys2Proof Sys2Proof.Machine Sys2Proof.Safety

theorem didE {s : State} {c op st : Nat} {w : Ox} : Did [] s (endTurn (retireSt (begun s c) c op w st) c) c :=
  did_of (ch := 12993538) (begun_rel rfl (Rel.refl s)) (fun j => begun_regs s c j) rfl (by intro p hp; cases p <;> first | rfl | (exact absurd (by decide) hp))
theorem Q (s : State) (t j : Nat) (f : Quire → Quire) : getQuire (modQuire s t f) j = if j = t then f (getQuire s t) else getQuire s j := tget_tput _ _ _ _ _
theorem ww (s : State) (c op : Nat) (w : Ox) (wt : Wait) : (getCtx (endTurn (waitWith s c op w wt) c) c).wait = wt := by
  rw [getCtx_endTurn]; unfold waitWith; rw [getCtx_modCtx, if_pos rfl]
theorem fw_wait (s : State) (c : Nat) (v) (j : Nat) : (getCtx (finishWait s c v) j).wait = if j = c then .none else (getCtx s j).wait := by
  have md {u : State} {f : Ctx → Ctx} (h : ∀ x, (f x).wait = x.wait) : (getCtx (modCtx u c f) j).wait = (getCtx u j).wait := wait_of_mod h
  unfold finishWait
  extract_lets a b d
  refine (advance_wait _ _ _).trans ((md (f := fun x => { x with waitRec := none }) fun _ => rfl).trans ?_)
  have ha : (getCtx a j).wait = if j = c then .none else (getCtx s j).wait := by
    show (getCtx (retireCount s c 0) j).wait = _
    unfold retireCount
    dsimp only
    rw [ctx_countEv, getCtx_congr topDown_seq, getCtx_congr topDown_seq]
    unfold unwait
    rw [getCtx_modCtx]
    split
    · rfl
    · rfl
  have hb : (getCtx b j).wait = (getCtx a j).wait := by
    show (getCtx (match v with | some (d, x) => modCtx a c fun y => kset y d x | none => a) j).wait = _
    split
    · exact md fun y => by unfold kset; split <;> rfl
    · rfl
  have hd : (getCtx d j).wait = (getCtx b j).wait := by
    show (getCtx (match (getCtx b c).waitRec with
    | some r => postRec b c { r with result := (v.map fun p => p.2).getD (now b) }
    | none => b) j).wait = _
    split
    · exact postRec_wait _ _ _ _
    · rfl
  rw [hd, hb, ha]
theorem rw_wait (p : Wait → Bool) (hp : p .none = false) (l : List Nat) (s : State) (j : Nat) :
    (getCtx (forL l s fun s c => if p (getCtx s c).wait then finishWait s c none else s) j).wait =
      if j ∈ l ∧ p (getCtx s j).wait = true then .none else (getCtx s j).wait := by
  induction l generalizing s with
  | nil => simp [forL]
  | cons a l ih =>
    have e : forL (a :: l) s (fun s c => if p (getCtx s c).wait then finishWait s c none else s) =
      forL l (if p (getCtx s a).wait then finishWait s a none else s) (fun s c => if p (getCtx s c).wait then finishWait s c none else s) := rfl
    rw [e, ih]
    by_cases h : p (getCtx s a).wait = true
    · rw [if_pos h, fw_wait]
      by_cases hj : j = a
      · subst hj; simp [h, hp]
      · simp [hj]
    · rw [if_neg h]
      by_cases hj : j = a
      · subst hj; simp [h]
      · simp [hj]
theorem startsL {s : State} {c : Nat} {w : Ox} {f : FuseOp} :
    let u := begun s c
    let t := endTurn (waitWith { u with glb := { u.glb with fuse := some (c, f) } } c 0xA3 w .fuse) c
    t.glb = { s.glb with fuse := some (c, f) } ∧ (getCtx t c).wait = .fuse ∧ onlyIn [.seq, .glb] s t := by
  intro u t
  have eg : u.glb = s.glb := (begun_rel (ch := 1024) rfl (Rel.refl s)).f0 rfl
  refine ⟨?_, ww _ _ _ _ _, ?_⟩
  · refine ((endTurn_rel (ch := 1024) rfl (waitWith_rel rfl (Rel.refl _))).f0 rfl).trans ?_
    show { u.glb with fuse := some (c, f) } = _
    rw [eg]
  · exact Rel.onlyIn (ch := 1025) (endTurn_rel rfl (waitWith_rel rfl (Rel.glb { u.glb with fuse := some (c, f) } ⟨rfl, rfl, rfl, rfl, rfl, rfl⟩ rfl (begun_rel (ch := 1025) rfl (Rel.refl s))))) (by intro p hp; cases p <;> first | rfl | (exact absurd (by decide) hp))
theorem lockI {s : State} {c : Nat} {row : Nat → Bool} {w : Ox} {sh : Shape0} {chk : State → Ctx → List (Bool × Nat)} {claimed done : State → Bool} {f : State → FuseOp}
    (h : Issues s c 0xA3 w sh) (h1 : row (fld w.imm 0 4) = true) (h2 : fld w.imm 0 4 ≤ 3) (hc : ∀ e ∈ chk (begun s c) (getCtx (begun s c) c), e.1 = false) :
    unitOk (c < 18) (lockRun c row w sh chk claimed done f s) = .next (endTurn (
      if claimed (begun s c) then retireSt (begun s c) c 0xA3 w 2
      else if done (begun s c) then retireSt (begun s c) c 0xA3 w 0
      else if (begun s c).glb.fuse.isSome then waitAgain (begun s c) c
      else waitWith { begun s c with glb := { (begun s c).glb with fuse := some (c, f (begun s c)) } } c 0xA3 w .fuse) c) := by
  have k := res_issues (r := unitOk (c < 18) (lockRun c row w sh chk claimed done f s)) (c := c) (op := 0xA3) (w := w) (chk := fun s x => (3 < fld w.imm 0 4, 0x11) :: chk s x) (eff := fun s _ =>
      if claimed s then retireSt s c 0xA3 w 2
      else if done s then retireSt s c 0xA3 w 0
      else if s.glb.fuse.isSome then waitAgain s c
      else waitWith { s with glb := { s.glb with fuse := some (c, f s) } } c 0xA3 w .fuse) (congrArg (unitOk _) (by
        unfold lockRun; dsimp only; rw [if_neg (by simp [h1])])) h (by
        intro e he
        rcases List.mem_cons.1 he with rfl | he
        · exact decide_eq_false (by omega)
        · exact hc e he)
  exact k
theorem om {s : State} {c j : Nat} {f : Ctx → Ctx} (h : j ≠ c) : getCtx (modCtx s c f) j = getCtx s j := by rw [getCtx_modCtx, if_neg h]
theorem retireCount_other (s : State) (c st j : Nat) (h : j ≠ c) : getCtx (retireCount s c st) j = getCtx s j := by
  unfold retireCount
  dsimp only
  rw [ctx_countEv, getCtx_congr topDown_seq, getCtx_congr topDown_seq]
  exact om h
theorem postRec_other (s : State) (c : Nat) (r : Rec) (j : Nat) (h : j ≠ c) : getCtx (postRec s c r) j = getCtx s j := by
  have ring (s : State) (a b d) : getCtx (ringWrite s a b d) j = getCtx s j := by unfold ringWrite; split <;> rfl
  unfold postRec
  dsimp only
  split
  · exact om h
  · split
    · rfl
    · split
      · exact om h
      · unfold cqWrite
        dsimp only
        split
        · rw [getCtx_congr vecSend_seq]
          refine (om h).trans ?_
          · rw [ctx_countEv]
            exact (om h).trans (ring _ _ _ _)
        · rw [ctx_countEv]
          exact (om h).trans (ring _ _ _ _)
theorem advance_other (s : State) (c j : Nat) (h : j ≠ c) : getCtx (advance s c) j = getCtx s j := by
  unfold advance takeHalt
  refine (om h).trans ?_
  unfold moveOn
  dsimp only
  split
  · exact om h
  · exact om h
  · split
    · refine (om h).trans ?_
      unfold blockResult
      dsimp only
      refine (om h).trans ?_
      rw [getCtx_mgmtSend]
      exact om h
    · exact om h
  · exact om h
  · rfl
theorem retire_other (s : State) (c op : Nat) (w : Ox) (st : Nat) (r : Option W64) (j : Nat) (h : j ≠ c) : getCtx (retire s c op w st r) j = getCtx s j := by
  unfold retire
  rw [advance_other _ _ _ h]
  unfold recIf
  split
  · exact (postRec_other _ _ _ _ h).trans (retireCount_other _ _ _ _ h)
  · exact retireCount_other _ _ _ _ h
theorem begun_other {s : State} {c j : Nat} (h : j ≠ c) : getCtx (begun s c) j = getCtx s j := by
  have a : getCtx (asDebug s c) j = getCtx s j := by
    unfold asDebug
    split
    · exact om h
    · rfl
  unfold begun
  dsimp only
  split
  · exact a
  · rw [getCtx_takeSlot]; exact a

end Sys2Proof.Laws.AboutSteward
end

