-- ==== Sys2Proof/Laws/AboutStrobes.lean ====
section
/-!
SUPPORT. Lemmas about registers that act when written.
-/

namespace Sys2Proof.Laws.AboutStrobes

open Sys2Proof Sys2Proof.Machine Sys2Proof.Safety

theorem okU {u : Bool} {x t : State} (hu : u = true) (h : x = t) : unitOk u x = .next t := by rw [unitOk_of hu, h]
theorem getChan_mod (s : State) (i j : Nat) (f : Chan → Chan) : getChan (modChan s i f) j = if j = i then f (getChan s i) else getChan s j := by
  unfold modChan; exact tget_tput _ _ _ _ _
theorem getQ_mod (s : State) (o n p m : Nat) (f : OutQ → OutQ) : getQ (modQ s o n f) p m = if 16 * p + m = 16 * o + n then f (getQ s o n) else getQ s p m := by
  unfold modQ; exact tget_tput _ _ _ _ _
theorem histFold (l : List Nat) (hl : l.Nodup) (hb : ∀ n ∈ l, n < 16) (s : State) (o p n : Nat) (hn : n < 16) :
    getQ (forL l s fun s n => modQ s o n fun q => { q with depth := [], delay := [] }) p n =
      if p = o ∧ n ∈ l then { getQ s p n with depth := [], delay := [] } else getQ s p n := by
  induction l generalizing s with
  | nil => simp [forL]
  | cons a l ih =>
    obtain ⟨h1, h2⟩ := List.nodup_cons.1 hl
    have ha := hb a (List.mem_cons_self ..)
    have := ih h2 (fun n hn => hb n (List.mem_cons_of_mem _ hn)) (modQ s o a fun q => { q with depth := [], delay := [] })
    unfold forL at this ⊢
    rw [List.foldl_cons, this, getQ_mod]
    by_cases e : p = o
    · subst e
      by_cases e' : n = a
      · subst e'; simp [h1]
      · have z : ¬ (16 * p + n = 16 * p + a) := by omega
        simp [e', z]
    · have z : ¬ (16 * p + n = 16 * o + a) := by omega
      simp [e, z]

end Sys2Proof.Laws.AboutStrobes
end

