-- ==== Sys2Proof/Laws/AboutTenants.lean ====
section
/-!
SUPPORT. Lemmas about TENANT and the ends of unit resets.
-/

namespace Sys2Proof.Laws.AboutTenants

open Sys2Proof Sys2Proof.Machine Sys2Proof.Safety

theorem didE {s : State} {c op st : Nat} {w : Ox} : Did [] s (endTurn (retireSt (begun s c) c op w st) c) c :=
  did_of (ch := 12993538) (begun_rel rfl (Rel.refl s)) (fun j => begun_regs s c j) rfl (by intro p hp; cases p <;> first | rfl | (exact absurd (by decide) hp))
theorem T (s : State) (t j : Nat) (f : Ten → Ten) : getTen (modTen s t f) j = if j = t then f (getTen s t) else getTen s j := tget_tput _ _ _ _ _
theorem run_of {s : State} {c : Nat} {row : Nat → Bool} {w : Ox} {eff : State → Nat → State} {i : Instr}
    (hi : exec i s = unitOk (c < 18) (tenantRun c row w eff s)) (hr : row (fld w.imm 8 4) = true) (h3 : fld w.imm 8 4 ≤ 3)
    (h : Issues s c 0xA0 w { imm := 0xF0F, B := match fld w.imm 8 4 with | 0 => 0x103FF | 2 => 0x3FF | 3 => 0x10000 | _ => 0 }) :
    exec i s = .next (endTurn (if fld w.imm 8 4 != 0 && !(getTen s (fld w.imm 0 4)).exist then retireSt (begun s c) c 0xA0 w 7 else eff (begun s c) (fld w.imm 0 4)) c) := by
  have e : tenantRun c row w eff s = oxRun c 0xA0 w { imm := 0xF0F, B := match fld w.imm 8 4 with | 0 => 0x103FF | 2 => 0x3FF | 3 => 0x10000 | _ => 0 }
    (fun _ _ => [(3 < fld w.imm 8 4, 0x11)])
    (fun s _ => if fld w.imm 8 4 != 0 && !(getTen s (fld w.imm 0 4)).exist then retireSt s c 0xA0 w 7 else eff s (fld w.imm 0 4)) s := by
    unfold tenantRun; dsimp only; rw [hr, if_neg (by decide)]; all_goals rfl
  have k := res_issues (hi.trans (congrArg (unitOk _) e)) h (by
    intro e he
    simp only [List.mem_cons, List.not_mem_nil, or_false] at he
    subst he
    exact decide_eq_false (by omega))
  rw [k]
  rw [getTen_congr ((begun_rel (ch := 1024) rfl (Rel.refl s)).f13 rfl)]
theorem reset_ten (v : State) (i : Nat) (g1 : (getTen v i).exist = true) (g2 : (getTen v i).inReset = false) :
    getTen (resetTenant v i) i = vppbClear { getTen v i with genTag := (getTen v i).genTag + 1, inReset := true } := by
  unfold resetTenant
  rw [if_neg (by simp [g1, g2])]
  extract_lets -merge a b d e f g k
  have ha : getTen a i = { getTen v i with genTag := (getTen v i).genTag + 1, inReset := true } := by
    have : getTen a i = _ := T v i i (fun x => { x with genTag := x.genTag + 1, inReset := true })
    rw [this, if_pos rfl]
  have hb : b.ten = a.ten := (flushTenant_rel (ch := 21171458) rfl (Rel.refl a)).f13 rfl
  have hd : d.ten = b.ten := by
    show (forL (hostLeads b i) b resetPort).ten = b.ten
    generalize hostLeads b i = l
    clear_value b
    clear hb
    induction l generalizing b with
    | nil => rfl
    | cons p l ih => exact (ih _).trans ((resetPort_rel (ch := 29842434) rfl (Rel.refl b)).f13 rfl)
  have he : e.ten = d.ten := (resetCtx_rel (ch := 893591298) rfl (Rel.refl d)).f13 rfl
  have hf : getTen f i = vppbClear (getTen a i) := by
    have : getTen f i = _ := T (freeMcGroups e i) i i vppbClear
    rw [this, if_pos rfl, getTen_congr ((freeMcGroups_rel (ch := 65536) rfl (Rel.refl e)).f13 rfl), getTen_congr (he.trans (hd.trans hb))]
  have hg : g.ten = f.ten := ((clearDeficit_rel (ch := 196608) rfl (zeroTenCtrs_rel rfl (Rel.refl f))).f13 rfl)
  have hk : k.ten = g.ten := by
    show (forL (mirOwned g i) g fun s i => mirFinish (modMir s i fun m => { m with closing := true }) i).ten = g.ten
    generalize mirOwned g i = l
    clear_value g
    clear hg
    induction l generalizing g with
    | nil => rfl
    | cons p l ih => exact (ih _).trans ((mirFinish_rel (ch := 4259840) rfl (Rel.refl _)).f13 rfl)
  have addW : ∀ k : State, getTen ({ k with home := { k.home with walks := k.home.walks ++ [{ tenant := i, reset := true }] } } : State) i = getTen k i := fun _ => rfl
  rw [addW, getTen_congr (hk.trans hg), hf, ha]
theorem zt (s : State) (t : Nat) : (zeroTenCtrs s t).ten = s.ten := (zeroTenCtrs_rel (ch := 131072) rfl (Rel.refl s)).f13 rfl
theorem mp (s : State) (p j : Nat) (f : Port → Port) : getPort (modPort s p f) j = if j = p then f (getPort s p) else getPort s j := tget_tput _ _ _ _ _
theorem fw_wait (s : State) (c : Nat) (v) (j : Nat) : (getCtx (finishWait s c v) j).wait = if j = c then .none else (getCtx s j).wait := by
  have md {u : State} {f : Ctx → Ctx} (h : ∀ x, (f x).wait = x.wait) : (getCtx (modCtx u c f) j).wait = (getCtx u j).wait := wait_of_mod h
  unfold finishWait
  extract_lets a b d
  refine (advance_wait _ _ _).trans ((md (f := fun x => { x with waitRec := none }) fun _ => rfl).trans ?_)
  have ha : (getCtx a j).wait = if j = c then .none else (getCtx s j).wait := by
    show (getCtx (retireCount s c 0) j).wait = _
    unfold retireCount
    dsimp only
    rw [ctx_countEv, getCtx_congr topDown_seq, getCtx_congr topDown_seq]
    unfold unwait
    rw [getCtx_modCtx]
    split
    · rfl
    · rfl
  have hb : (getCtx b j).wait = (getCtx a j).wait := by
    show (getCtx (match v with | some (d, x) => modCtx a c fun y => kset y d x | none => a) j).wait = _
    split
    · exact md fun y => by unfold kset; split <;> rfl
    · rfl
  have hd : (getCtx d j).wait = (getCtx b j).wait := by
    show (getCtx (match (getCtx b c).waitRec with
    | some r => postRec b c { r with result := (v.map fun p => p.2).getD (now b) }
    | none => b) j).wait = _
    split
    · exact postRec_wait _ _ _ _
    · rfl
  rw [hd, hb, ha]
theorem rw_wait (p : Wait → Bool) (hp : p .none = false) (l : List Nat) (s : State) (j : Nat) :
    (getCtx (forL l s fun s c => if p (getCtx s c).wait then finishWait s c none else s) j).wait =
      if j ∈ l ∧ p (getCtx s j).wait = true then .none else (getCtx s j).wait := by
  induction l generalizing s with
  | nil => simp [forL]
  | cons a l ih =>
    have e : forL (a :: l) s (fun s c => if p (getCtx s c).wait then finishWait s c none else s) =
      forL l (if p (getCtx s a).wait then finishWait s a none else s) (fun s c => if p (getCtx s c).wait then finishWait s c none else s) := rfl
    rw [e, ih]
    by_cases h : p (getCtx s a).wait = true
    · rw [if_pos h, fw_wait]
      by_cases hj : j = a
      · subst hj; simp [h, hp]
      · simp [hj]
    · rw [if_neg h]
      by_cases hj : j = a
      · subst hj; simp [h]
      · simp [hj]
theorem ru (s : State) : Rel 549864450 s (retireUnits s) := retireUnits_rel rfl (Rel.refl s)

end Sys2Proof.Laws.AboutTenants
end

