-- ==== Sys2Proof/Laws/AboutTime.lean ====
section
/-!
SUPPORT. Lemmas about fabric time.
-/

namespace Sys2Proof.Laws.AboutTime

open Sys2Proof Sys2Proof.Machine Sys2Proof.Safety

def TK (s t : State) : Prop := ({ t.time with take := [] } : TimeU) = { s.time with take := [] }
theorem TK.refl (s : State) : TK s s := rfl
theorem TK.trans {s t u : State} (a : TK s t) (b : TK t u) : TK s u := Eq.trans b a
theorem TK.of {s t : State} (h : t.time = s.time) : TK s t := by unfold TK; rw [h]
theorem TK.mod (s : State) (i : Nat) (f : TakeSet → TakeSet) : TK s (modTake s i f) := rfl
theorem TK.forL {f : State → Nat → State} (hf : ∀ s i, TK s (f s i)) (l : List Nat) (s : State) : TK s (forL l s f) := by
  induction l generalizing s with
  | nil => exact TK.refl s
  | cons a l ih => exact TK.trans (hf s a) (ih _)
theorem atTimer_tk (s : State) (c : Nat) : TK s (atTimer s c) := TK.of ((atTimer_rel (ch := 549864450) rfl (Rel.refl s)).f12 rfl)
theorem done_tk (s : State) (i : Nat) : TK s (takeDone s i) := TK.of ((takeDone_rel (ch := 12861440) rfl (Rel.refl s)).f12 rfl)
theorem ready_tk (s : State) (i : Nat) : TK s (takeReady s i) := TK.of ((takeReady_rel (ch := 12861440) rfl (Rel.refl s)).f12 rfl)
theorem ev_tk (s : State) (i : Nat) : TK s (takeEv s i) := TK.of ((takeEv_rel (ch := 4326402) rfl (Rel.refl s)).f12 rfl)
theorem cnt_tk (s : State) (a b c d) : TK s (countEv s a b c d) := TK.of ((countEv_rel (ch := 131072) rfl (Rel.refl s)).f12 rfl)
theorem slip_tk (s : State) (i c : Nat) : TK s (slip s i c) := by
  unfold slip
  extract_lets t u
  split
  · exact TK.trans (TK.trans (TK.mod _ _ _) (ev_tk _ _)) (done_tk _ _)
  · exact TK.trans (TK.trans (TK.trans (cnt_tk _ _ _ _ _) (TK.mod _ _ _)) (ev_tk _ _)) (done_tk _ _)
theorem judge_tk (s : State) (i : Nat) : TK s (judge s i) := by
  unfold judge
  extract_lets t
  split
  · exact TK.refl s
  · split
    · exact TK.mod _ _ _
    · exact slip_tk _ _ _
theorem restart_tk (o s : State) : TK s (restartTakes o s) := by
  unfold restartTakes
  extract_lets f l back
  refine TK.trans ?_ (TK.forL ready_tk _ _)
  rfl
theorem apply_tk (s : State) (i : Nat) : TK s (applySet s i) := by
  unfold applySet
  extract_lets t a
  split
  · next n it met u e =>
    refine TK.trans (TK.trans (TK.trans ?_ (TK.mod _ _ _)) (ev_tk _ _)) (done_tk _ _)
    exact TK.of ((itemRefusal_rel (ch := 272762370) rfl (Rel.refl s)).f12 rfl)
  · next u e =>
    have hu : TK s u := TK.of (by
      have := (evalItems_rel (ch := 407103362) (x0 := t.items) (x1 := 0) rfl (Rel.refl s)).f12 rfl
      rw [e] at this; exact this)
    extract_lets w u1 u2
    have h1 : TK s u1 := TK.trans (TK.trans hu (TK.mod _ _ _)) (restart_tk _ _)
    have h2 : TK s u2 := TK.trans (TK.trans h1 (cnt_tk _ _ _ _ _)) (done_tk _ _)
    split
    · exact TK.trans h2 (TK.of ((startWalks_rel (ch := 29584770) rfl (Rel.refl _)).f12 rfl))
    · exact TK.trans h2 (ev_tk _ _)
theorem inst_tk (s : State) (i : Nat) : TK s (atInstant s i) := by
  unfold atInstant
  extract_lets t
  split
  · exact TK.refl s
  · split
    · exact apply_tk _ _
    · exact slip_tk _ _ _
theorem due_tk (s : State) (p) : TK s (applyDue s p) := TK.forL inst_tk _ _
theorem after_tk (s : State) : TK s (afterStep s) := by
  unfold afterStep
  extract_lets u v
  exact TK.trans (TK.trans (TK.forL atTimer_tk _ _) (TK.forL judge_tk _ _)) (due_tk _ _)
theorem timeEv_tk (o : TimeU) (s : State) : (timeEv o s).time = s.time := (timeEv_rel (ch := 4326402) rfl (Rel.refl s)).f12 rfl
theorem step_tk (s : State) (v : W64) : ({ (stepTime s v).time with take := [] } : TimeU) = { s.time with fab := v, stepped := true, steps := satAdd 0xFFFF s.time.steps 1, take := [] } := by
  unfold stepTime
  extract_lets o
  have := after_tk (timeEv o (modTime s fun t => { t with fab := v, stepped := true, steps := satAdd 0xFFFF t.steps 1 }))
  unfold TK at this
  rw [this, timeEv_tk]
  rfl
theorem tOnly {s : State} {f : TimeU → TimeU} : onlyIn [.time] s (modTime s f) :=
  Rel.onlyIn (ch := 4096) (modTime_rel rfl (Rel.refl s)) (by intro p hp; cases p <;> first | rfl | (exact absurd (by decide) hp))
theorem lock_take (t : TimeU) (e : Int) : ({ lockStep t e with take := [] } : TimeU) = lockStep { t with take := [] } e := by
  unfold lockStep
  dsimp only
  split
  · rfl
  · split <;> rfl
theorem lock_rest (t : TimeU) (e : Int) : (lockStep t e).take = t.take ∧ (lockStep t e).fab = t.fab ∧ (lockStep t e).steps = t.steps := by
  unfold lockStep
  dsimp only
  split
  · exact ⟨rfl, rfl, rfl⟩
  · split <;> exact ⟨rfl, rfl, rfl⟩
theorem servo_take (t : TimeU) (e : Int) : ({ servoStep t e with take := [] } : TimeU) = servoStep { t with take := [] } e := rfl
theorem setMode_take (t : TimeU) (v : Nat) : (setMode t v).set = t.set ∧ (setMode t v).steps = t.steps ∧ (setMode t v).setAtPps = t.setAtPps := by
  unfold setMode
  dsimp only
  repeat' split
  all_goals exact ⟨rfl, rfl, rfl⟩
theorem lock_fab (t u : TimeU) (e : Int) (f : W64) (h : ({ t with take := [] } : TimeU) = u) :
    ({ lockStep t e with fab := (lockStep t e).fab - f, stepped := true, steps := satAdd 0xFFFF (lockStep t e).steps 1, take := [] } : TimeU) =
      { lockStep u e with fab := t.fab - f, stepped := true, steps := satAdd 0xFFFF t.steps 1 } := by
  subst h
  rw [← lock_take, (lock_rest t e).2.1, (lock_rest t e).2.2]
theorem ctrl (s : State) (v : W32) : ({ (timeCtrlWrite v s).time with take := [] } : TimeU) =
      let m : TimeU := { setMode s.time (fld v 30 2) with ppsPol := bit v 29, setAtPps := s.time.setAtPps || bit v 28, thresh := fld v 0 16, take := [] }
      if bit v 27 then { m with fab := s.time.set, stepped := true, steps := satAdd 0xFFFF s.time.steps 1 } else m := by
  have h := setMode_take s.time (fld v 30 2)
  unfold timeCtrlWrite
  dsimp only
  split
  · rw [step_tk]
    unfold modTime
    dsimp only
    rw [h.1, h.2.1]
  · rfl
theorem adjW (s : State) (v : W32) : (timeAdjWrite v s).time = { s.time with adj := if s.time.mode = 2 then clampAdj (signed 24 (fld v 0 24)) else s.time.adj } := by
  unfold timeAdjWrite
  by_cases h : s.time.mode = 2
  · rw [if_pos h, if_pos h]; rfl
  · rw [if_neg h, if_neg h]

end Sys2Proof.Laws.AboutTime
end

