-- ==== Sys2Proof/Laws/AboutTimeInstr.lean ====
section
/-!
SUPPORT. Lemmas about time and take instructions.
-/

namespace Sys2Proof.Laws.AboutTimeInstr

open Sys2Proof Sys2Proof.Machine Sys2Proof.Safety

theorem gmt (s : State) (i j : Nat) (f : TakeSet → TakeSet) : getTake (modTake s i f) j = if j = i then f (getTake s i) else getTake s j := tget_tput _ _ _ _ _
theorem bt (s : State) (c : Nat) : (begun s c).time = s.time := begun_time s c
theorem bk (s : State) (c j : Nat) : getTake (begun s c) j = getTake s j := getTake_congr (bt s c) j
theorem et_rs (u : State) (c op : Nat) (w : Ox) (st k : Nat) : getTake (endTurn (retireSt u c op w st) c) k = getTake u k := getTake_congr (by rw [endTurn_time, retireSt_time]) k
theorem et_st (u : State) (c op : Nat) (w : Ox) (st : Nat) : (getCtx (endTurn (retireSt u c op w st) c) c).staging = (getCtx u c).staging ∧
    (getCtx (endTurn (retireSt u c op w st) c) c).atWait = (getCtx u c).atWait := by
  rw [getCtx_endTurn]; exact ⟨(retire_data _ _ _ _ _ _ _).staging, (retire_data _ _ _ _ _ _ _).atWait⟩
theorem none_in {l : List (Bool × Nat)} (h : l = []) : ∀ e ∈ l, e.1 = false := by rw [h]; intro e he; cases he
theorem didE {s : State} {c op st : Nat} {w : Ox} : Did [] s (endTurn (retireSt (begun s c) c op w st) c) c :=
  did_of (ch := 12993538) (begun_rel rfl (Rel.refl s)) (fun j => begun_regs s c j) rfl (by intro p hp; cases p <;> first | rfl | (exact absurd (by decide) hp))
theorem atT (s : State) (c : Nat) (w : Ox) : atTime (getCtx (begun s c) c) w = atTime (getCtx s c) w := by
  unfold atTime; rw [kget_of_regs (begun_regs s c c)]
theorem mreg {s : State} {c : Nat} {f : Ctx → Ctx} (h : ∀ x, regs (f x) = regs x) (j : Nat) : regs (getCtx (modCtx (begun s c) c f) j) = regs (getCtx s j) := by
  rw [getCtx_modCtx]; split
  · exact (h _).trans (begun_regs s c j)
  · exact begun_regs s c j
theorem mcT (u : State) (c j : Nat) (f : Ctx → Ctx) : getTake (modCtx u c f) j = getTake u j := rfl
theorem mcTime (u : State) (c : Nat) (f : Ctx → Ctx) : (modCtx u c f).time = u.time := rfl
theorem frT (u : State) (i : Nat) : freeTake u i = modTake u i fun t => { t with st := .free, owner := 0x1F, items := [], arm := none, commit := false } := rfl
theorem mregT {s : State} {c i : Nat} {g : TakeSet → TakeSet} {f : Ctx → Ctx} (h : ∀ x, regs (f x) = regs x) (j : Nat) :
    regs (getCtx (modCtx (modTake (begun s c) i g) c f) j) = regs (getCtx s j) := by
  have e : ∀ j, getCtx (modTake (begun s c) i g) j = getCtx (begun s c) j := fun j => getCtx_congr rfl j
  rw [getCtx_modCtx, e]; split
  · exact (h _).trans (begun_regs s c j)
  · exact begun_regs s c j
theorem didT {s : State} {c op i : Nat} {w : Ox} {g : TakeSet → TakeSet} {f : Ctx → Ctx} (h : ∀ x, regs (f x) = regs x) :
    Did [.time] s (endTurn (retireSt (modCtx (modTake (begun s c) i g) c f) c op w 0) c) c :=
  did_of (ch := 12997634) (Rel.modCtx h rfl (modTake_rel rfl (begun_rel rfl (Rel.refl s)))) (mregT h) rfl (by intro p hp; cases p <;> first | rfl | (exact absurd (by decide) hp))
theorem at_run {s : State} {c : Nat} {w : Ox} {arm : Bool} {eff : State → W64 → State} {i : Instr} (hi : exec i s = unitOk (c < 18) (atRun c w arm eff s))
    (h : Issues s c 0x71 w { mods := 3, a := bit w.mod 1, B := if bit w.mod 1 then 0 else 2 ^ 64 - 1 }) (ha : bit w.mod 0 = arm) :
    exec i s = .next (endTurn (eff (begun s c) (atTime (getCtx s c) w)) c) := by
  have := res_issues (r := exec i s) (c := c) (op := 0x71) (w := w) (chk := fun _ _ => []) (eff := fun s x => eff s (atTime x w))
    (hi.trans (congrArg (unitOk _) (by unfold atRun; rw [ha, if_neg (by simp)]))) h (none_in rfl)
  rw [this, atT]
theorem seqOnly {s : State} {c : Nat} {op : Nat} {w : Ox} {wt : Wait} : onlyIn [.seq] s (endTurn (waitWith (begun s c) c op w wt) c) :=
  Rel.onlyIn (ch := 1024) (endTurn_rel rfl (waitWith_rel rfl (begun_rel rfl (Rel.refl s)))) (by intro p hp; cases p <;> first | rfl | (exact absurd (by decide) hp))
theorem ww (s : State) (c op : Nat) (w : Ox) (wt : Wait) : (getCtx (endTurn (waitWith s c op w wt) c) c).st = .waiting ∧ (getCtx (endTurn (waitWith s c op w wt) c) c).wait = wt := by
  rw [getCtx_endTurn]; unfold waitWith; rw [getCtx_modCtx, if_pos rfl]; exact ⟨rfl, rfl⟩

theorem arm_iff (k : TakeSet) : armed k = true ↔ ¬(k.st ≠ .preparing ∧ k.st ≠ .ready) := by unfold armed; cases k.st <;> simp
theorem pAt (s : State) (c : Nat) (w : Ox) (h : Issues s c 0x71 w { mods := 3, a := bit w.mod 1, B := if bit w.mod 1 then 0 else 2 ^ 64 - 1 }) :
      (bit w.mod 0 = false → (atTime (getCtx s c) w).toNat ≤ (now s).toNat → ∃ t, exec (.atWait c w) s = .next t ∧ Did [] s t c) ∧
      (bit w.mod 0 = false → (now s).toNat < (atTime (getCtx s c) w).toNat → ∃ t, exec (.atWait c w) s = .next t ∧ (getCtx t c).st = .waiting ∧ (getCtx t c).wait = .time (atTime (getCtx s c) w) ∧
        onlyIn [.seq] s t) ∧
      (bit w.mod 0 = true → ∃ t, exec (.atArm c w) s = .next t ∧ Did [] s t c ∧ (getCtx t c).atWait = some (atTime (getCtx s c) w)) := by
  refine ⟨fun h1 h2 => ?_, fun h1 h2 => ?_, fun h1 => ?_⟩
  · refine ⟨_, (at_run (i := .atWait c w) rfl h h1).trans (congrArg Host.Outcome.next (show _ = endTurn (retireSt (begun s c) c 0x71 w 0) c from ?_)), didE⟩
    rw [if_pos]
    unfold now; rw [bt]; exact h2
  · have e := (at_run (i := .atWait c w) rfl h h1)
    rw [if_neg (by unfold now; rw [bt]; exact Nat.not_le.2 h2)] at e
    exact ⟨_, e, (ww _ _ _ _ _).1, (ww _ _ _ _ _).2, seqOnly⟩
  · refine ⟨_, at_run (i := .atArm c w) rfl h h1, did_of (ch := 12993538) (Rel.modCtx (fun _ => rfl) rfl (begun_rel rfl (Rel.refl s))) (mreg fun _ => rfl) rfl (by intro p hp; cases p <;> first | rfl | (exact absurd (by decide) hp)), ?_⟩
    rw [(et_st _ _ _ _ _).2, getCtx_modCtx, if_pos rfl]
theorem pTimer (s : State) (c : Nat) : (∀ v, (getCtx s c).wait ≠ .time v) →
      ((∀ v, (getCtx s c).atWait = some v → (now s).toNat < v.toNat) → atTimer s c = s) ∧
      (∀ v, (getCtx s c).atWait = some v → v.toNat ≤ (now s).toNat → (getCtx (atTimer s c) c).atWait = none ∧
        ((getCtx s c).st ≠ .off → (getCtx s c).st ≠ .inReset → bit (getCtx s c).evm 12 = true → bit (getCtx (atTimer s c) c).evp 12 = true)) := by
  intro hw
  refine ⟨fun h => ?_, fun v h1 h2 => ?_⟩
  · unfold atTimer
    extract_lets x v
    have : v = s := by
      show (match (getCtx s c).atWait with
      | some t => if t.toNat ≤ (now s).toNat then evLatch (modCtx s c fun x => { x with atWait := none }) c 12 else s
      | none => s) = s
      split
      · next t e => rw [if_neg (Nat.not_le.2 (h t e))]
      · rfl
    rw [this]
    split
    · next t e => exact absurd e (hw t)
    · rfl
  · have e : atTimer s c = evLatch (modCtx s c fun x => { x with atWait := none }) c 12 := by
      unfold atTimer
      extract_lets x v
      have hv : v = evLatch (modCtx s c fun x => { x with atWait := none }) c 12 := by
        show (match (getCtx s c).atWait with
        | some t => if t.toNat ≤ (now s).toNat then evLatch (modCtx s c fun x => { x with atWait := none }) c 12 else s
        | none => s) = _
        rw [h1]
        exact if_pos h2
      rw [hv]
      have k : (getCtx (evLatch (modCtx s c fun x => { x with atWait := none }) c 12) c).wait = (getCtx s c).wait := by
        have a := evLatch_ctx (modCtx s c fun x => { x with atWait := none }) c 12 c
        have b : (sansEvents (getCtx (evLatch (modCtx s c fun x => { x with atWait := none }) c 12) c)).wait = (getCtx (modCtx s c fun x => { x with atWait := none }) c).wait := by rw [a]; rfl
        rw [getCtx_modCtx, if_pos rfl] at b
        exact b
      rw [k]
      split
      · next t e => exact absurd e (hw t)
      · rfl
    rw [e]
    refine ⟨?_, fun g1 g2 g3 => ?_⟩
    · have a := evLatch_ctx (modCtx s c fun x => { x with atWait := none }) c 12 c
      have b : (sansEvents (getCtx (evLatch (modCtx s c fun x => { x with atWait := none }) c 12) c)).atWait = (getCtx (modCtx s c fun x => { x with atWait := none }) c).atWait := by rw [a]; rfl
      rw [getCtx_modCtx, if_pos rfl] at b
      exact b
    · rw [evLatch_evp, getCtx_modCtx, if_pos rfl, if_pos ⟨rfl, g1, g2, g3⟩, bit_eq]
      simp
theorem pTimeWait (s : State) (c : Nat) : (getCtx s c).atWait = none → ∀ v, (getCtx s c).wait = .time v → (getCtx s c).st = .waiting →
      ((now s).toNat < v.toNat → atTimer s c = s) ∧
      (v.toNat ≤ (now s).toNat → (getCtx (atTimer s c) c).wait = .none) := by
  intro ha v hw hs
  have e : atTimer s c = if v.toNat ≤ (now s).toNat then finishWait s c none else s := by
    unfold atTimer
    extract_lets x u
    have hu : u = s := by
      show (match (getCtx s c).atWait with
      | some t => if t.toNat ≤ (now s).toNat then evLatch (modCtx s c fun x => { x with atWait := none }) c 12 else s
      | none => s) = _
      rw [ha]
    rw [hu, hw]
    dsimp only
    rw [hs]
    simp
  refine ⟨fun h => by rw [e, if_neg (Nat.not_le.2 h)], fun h => by rw [e, if_pos h]; exact finishWait_wait _ _ _⟩
theorem pAdd (s : State) (c : Nat) (w : Ox) (i : Nat) (hi : fld w.imm 0 6 = i) (h : Issues s c 0x73 w { mods := 1, imm := 0x3F }) :
    let k := getTake s i
      let mayAdd := (k.owner = 0x1F ∨ k.owner = c) ∧ k.st ≠ .preparing ∧ k.st ≠ .ready
      (mayAdd → ∃ t, exec (.takeadd c w) s = .next t ∧ Did [.time] s t c ∧ (getCtx t c).staging = some i ∧
        ∀ j, getTake t j = if j = i then { k with st := .staging, owner := c, items := if bit w.mod 0 then [] else k.items } else getTake s j) ∧
      (¬mayAdd → ∃ t, exec (.takeadd c w) s = .next t ∧ Did [] s t c ∧ (getCtx t c).staging = (getCtx s c).staging) := by
  intro k mayAdd
  have e := res_issues (r := exec (.takeadd c w) s) rfl h (none_in rfl)
  rw [hi] at e
  dsimp only at e
  rw [bk] at e
  have cond : ((((getTake s i).owner != 0x1F && (getTake s i).owner != c) || armed (getTake s i)) = true) ↔ ¬mayAdd := by
    rw [Bool.or_eq_true, arm_iff]
    simp only [Bool.and_eq_true, bne_iff_ne, ne_eq, mayAdd, k]
    by_cases a : (getTake s i).owner = 0x1F <;> by_cases b : (getTake s i).owner = c <;> simp [a, b]
  refine ⟨fun g => ?_, fun g => ?_⟩
  · rw [if_neg (fun a => cond.1 a g)] at e
    refine ⟨_, e, didT fun _ => rfl, ?_, fun j => ?_⟩
    · rw [(et_st _ _ _ _ _).1, getCtx_modCtx, if_pos rfl]
    · rw [et_rs]
      rw [mcT, gmt, bk, bk]
  · rw [if_pos (cond.2 g)] at e
    refine ⟨_, e, didE, ?_⟩
    rw [(et_st _ _ _ _ _).1, getCtx_begun]
theorem early (z : State) (i : Nat) (k : TakeSet) (w : Ox) (tm : Bool) (h : getTake z i = { k with st := .preparing, slips := 0, arm := some (armOf w), applyAt := if tm then w.B else k.applyAt })
    (ht : bit w.imm 10 = true) (g : (now z).toNat + leadOf z k < w.B.toNat) : judge z i = z := by
  have pr : pointReached z (getTake z i) = false := by
    rw [h]
    unfold pointReached armOf
    dsimp only
    rw [ht, if_pos rfl, if_pos rfl]
    exact decide_eq_false (Nat.not_le.2 g)
  unfold judge
  extract_lets t
  rw [if_pos]
  show (!armed (getTake z i) || !pointReached z (getTake z i) || _) = true
  rw [pr]
  simp
theorem pArm (s : State) (c : Nat) (w : Ox) (i : Nat) (hi : fld w.imm 0 6 = i) (h : Issues s c 0x74 w { imm := 0x00FF073F, B := 2 ^ 64 - 1 }) :
    let k := getTake s i
      let tm := bit w.imm 10
      let mayArm := k.owner = c ∧ k.items ≠ [] ∧ k.st ≠ .preparing ∧ k.st ≠ .ready ∧ (k.domain = true → tm = true)
      (tm = false → w.B.toNat < 2 ^ 32) → (tm = true → fld w.imm 16 8 = 0) →
      (mayArm → (tm = true → (now s).toNat + leadOf s k < w.B.toNat) → ∃ t, exec (.takearm c w) s = .next t ∧ Did [.time] s t c ∧
        ∀ j, getTake t j = if j = i then { k with st := .preparing, slips := 0, arm := some (armOf w), applyAt := if tm then w.B else k.applyAt } else getTake s j) ∧
      (¬mayArm → ∃ t, exec (.takearm c w) s = .next t ∧ Did [] s t c) := by
  intro k tm mayArm h1 h2
  have e := res_issues (r := exec (.takearm c w) s) rfl h (by
      intro e he
      simp only [List.mem_cons, List.not_mem_nil, or_false] at he
      rcases he with rfl | rfl
      · cases ht : bit w.imm 10
        · simpa [ht] using h1 ht
        · simp [ht]
      · cases ht : bit w.imm 10
        · simp [ht]
        · simpa [ht] using h2 ht)
  rw [hi] at e
  dsimp only at e
  rw [bk] at e
  have cond : (((getTake s i).owner != c || (getTake s i).items.isEmpty || armed (getTake s i) || ((getTake s i).domain && !bit w.imm 10)) = true) ↔ ¬mayArm := by
    rw [Bool.or_eq_true, Bool.or_eq_true, Bool.or_eq_true, arm_iff]
    simp only [Bool.and_eq_true, bne_iff_ne, ne_eq, mayArm, List.isEmpty_iff, Bool.not_eq_true', tm, k]
    by_cases a : (getTake s i).owner = c <;> by_cases b : (getTake s i).items = [] <;> cases (getTake s i).domain <;> cases bit w.imm 10 <;> simp [a, b]
  refine ⟨fun g g2 => ?_, fun g => ?_⟩
  · rw [if_neg (fun a => cond.1 a g)] at e
    generalize hu : modCtx (modTake (begun s c) i _) c _ = u at e
    have D : Did [.time] s (endTurn (retireSt u c 0x74 w 0) c) c := by
      rw [← hu]
      exact didT fun _ => rfl
    have T : ∀ j, getTake (retireSt u c 0x74 w 0) j = if j = i then { k with st := .preparing, slips := 0, arm := some (armOf w), applyAt := if tm then w.B else k.applyAt } else getTake s j := by
      intro j
      rw [getTake_congr (retireSt_time) j, ← hu, mcT, gmt, bk, bk]
    have R : (if bit w.imm 10 = true then judge (retireSt u c 0x74 w 0) i else retireSt u c 0x74 w 0) = retireSt u c 0x74 w 0 := by
      split
      · next ht =>
        have nn : (retireSt u c 0x74 w 0).time.fab = s.time.fab ∧ (retireSt u c 0x74 w 0).time.dleadUs = s.time.dleadUs ∧ (retireSt u c 0x74 w 0).time.leadUs = s.time.leadUs := by
          rw [retireSt_time, ← hu, mcTime]
          have : ∀ g, (modTake (begun s c) i g).time.fab = (begun s c).time.fab ∧ (modTake (begun s c) i g).time.dleadUs = (begun s c).time.dleadUs ∧ (modTake (begun s c) i g).time.leadUs = (begun s c).time.leadUs := fun g => ⟨rfl, rfl, rfl⟩
          rw [(this _).1, (this _).2.1, (this _).2.2, bt]
          exact ⟨rfl, rfl, rfl⟩
        generalize retireSt u c 0x74 w 0 = z at T nn
        exact early z i k w tm ((T i).trans (if_pos rfl)) ht (by have := g2 ht; unfold now leadOf at this ⊢; rw [nn.1, nn.2.1, nn.2.2]; exact this)
      · rfl
    rw [R] at e
    exact ⟨_, e, D, fun j => (getTake_congr endTurn_time j).trans (T j)⟩
  · rw [if_pos (cond.2 g)] at e
    exact ⟨_, e, didE⟩
theorem pDrop (s : State) (c : Nat) (w : Ox) (i : Nat) (hi : fld w.imm 0 6 = i) (h : Issues s c 0x75 w { imm := 0x3F }) :
    let k := getTake s i
      let mayDrop := k.owner = c ∧ k.st ≠ .applied
      (mayDrop → ∃ t, exec (.takedrop c w) s = .next t ∧ Did [.time] s t c ∧
        ∀ j, getTake t j = if j = i then { k with st := .free, owner := 0x1F, items := [], arm := none, commit := false } else getTake s j) ∧
      (¬mayDrop → ∃ t, exec (.takedrop c w) s = .next t ∧ Did [] s t c) := by
  intro k mayDrop
  have e := res_issues (r := exec (.takedrop c w) s) rfl h (none_in rfl)
  rw [hi] at e
  dsimp only at e
  rw [bk] at e
  have cond : (((getTake s i).owner != c || (getTake s i).st == .applied) = true) ↔ ¬mayDrop := by
    rw [Bool.or_eq_true]
    simp only [bne_iff_ne, ne_eq, beq_iff_eq, mayDrop, k]
    by_cases a : (getTake s i).owner = c <;> simp [a]
  refine ⟨fun g => ?_, fun g => ?_⟩
  · rw [if_neg (fun a => cond.1 a g)] at e
    refine ⟨_, e, didT fun _ => rfl, fun j => ?_⟩
    rw [et_rs]
    rw [mcT, frT, gmt, bk, bk]
  · rw [if_pos (cond.2 g)] at e
    exact ⟨_, e, didE⟩

end Sys2Proof.Laws.AboutTimeInstr
end

