-- ==== Sys2Proof/Laws/AboutTraffic.lean ====
section
/-!
SUPPORT. Lemmas about MIRROR, METER, SHAPE and CADENCE.
-/

namespace Sys2Proof.Laws.AboutTraffic

open Sys2Proof Sys2Proof.Machine Sys2Proof.Safety

theorem mir_of {u v : State} (h : v.core = u.core) (k : Nat) : getMir v k = getMir u k := by unfold getMir; rw [h]
theorem cad_of {u v : State} (h : v.core = u.core) (k : Nat) : getCad v k = getCad u k := by unfold getCad; rw [h]
theorem q_of {u v : State} (h : v.core = u.core) (k n : Nat) : getQ v k n = getQ u k n := by unfold getQ; rw [h]
theorem ten_of {u v : State} (h : v.ten = u.ten) (k : Nat) : getTen v k = getTen u k := by unfold getTen; rw [h]
theorem port_of {u v : State} (h : v.port = u.port) (k : Nat) : getPort v k = getPort u k := by unfold getPort; rw [h]
theorem meter_of {u v : State} (h : v.quire = u.quire) (k n : Nat) : getMeter v k n = getMeter u k n := by unfold getMeter getQuire; rw [h]
theorem others_no {m : Meter} {c : Nat} (h : ∀ o, meterOwner m = some o → o = partyOf c) : ((meterOwner m).any fun o => o != partyOf c) = false := by
  cases e : meterOwner m with
  | none => rfl
  | some o => simp [h o e]
theorem releaseRed_core (i : Option Nat) (s : State) (p : Nat) : (releaseRed i s p).quire = s.quire ∧ (releaseRed i s p).port = s.port := ⟨rfl, rfl⟩
theorem released (l : List Nat) (i : Option Nat) (u : State) : (forL l u (releaseRed i)).quire = u.quire := by
  unfold forL
  induction l generalizing u with
  | nil => rfl
  | cons a l ih => rw [List.foldl_cons, ih]; rfl
theorem fence_cad (s : State) (i : Nat) (o : Cad) : (∀ j, j ≠ i → getCad (cadFence s i o) j = getCad s j) ∧
    (getCad (cadFence s i o) i).ctrl = (getCad s i).ctrl ∧ (getCad (cadFence s i o) i).dst = (getCad s i).dst ∧
    (getCad (cadFence s i o) i).off = (getCad s i).off ∧ (getCad (cadFence s i o) i).len = (getCad s i).len ∧
    (getCad (cadFence s i o) i).bytes = (getCad s i).bytes ∧ (getCad (cadFence s i o) i).owned = (getCad s i).owned ∧
    (getCad (cadFence s i o) i).opened = (getCad s i).opened := by
  have e1 : ∀ (u : State) j, getCad (portCount u o.outp 12 none 1) j = getCad u j := fun u j => cad_of (by simp) j
  have e2 : ∀ (u : State) j, getCad (modOutP u o.outp fun x => { x with fences := x.fences + 1 }) j = getCad u j := fun u j => rfl
  unfold cadFence
  dsimp only
  split
  · simp only [e1, getCad_modCad, if_true, and_true]
    exact fun j hj => if_neg hj
  · simp only [e2, getCad_modCad, if_true, and_true]
    exact fun j hj => if_neg hj
def cadIs (u : State) (s : State) (i : Nat) (n : Cad) : Prop := (∀ j, j ≠ i → getCad u j = getCad s j) ∧
    (getCad u i).ctrl = n.ctrl ∧ (getCad u i).dst = n.dst ∧ (getCad u i).off = n.off ∧ (getCad u i).len = n.len ∧
    (getCad u i).bytes = n.bytes ∧ (getCad u i).owned = n.owned ∧ (getCad u i).opened = n.opened
theorem change_ok (u : State) (i : Nat) (o n : Cad) (h : o.on = true → cadAdmit u i n = true) :
    (cadChange u i o n).st = 0 ∧ cadIs (cadChange u i o n).s u i n ∧ (cadChange u i o n).s.quire = u.quire := by
  unfold cadChange cadIs
  by_cases ho : o.on = true
  · rw [if_neg (by simp [ho]), if_neg (by simp [h ho])]
    obtain ⟨a, b⟩ := fence_cad (modCad u i fun _ => { n with degraded := false }) i o
    dsimp only [fabOk]
    rw [getCad_modCad, if_pos rfl] at b
    refine ⟨rfl, ⟨fun j hj => (a j hj).trans (by rw [getCad_modCad, if_neg hj]), b⟩, ?_⟩
    unfold cadFence; dsimp only; split
    · simp only [portCount_quire]; rfl
    · rfl
  · rw [if_pos (by simp [ho])]
    dsimp only [fabOk]
    refine ⟨rfl, ⟨fun j hj => by rw [getCad_modCad, if_neg hj], ?_⟩, rfl⟩
    rw [getCad_modCad, if_pos rfl]
    exact ⟨rfl, rfl, rfl, rfl, rfl, rfl, rfl⟩
theorem cad_sets {i : Instr} {s : State} {c sub : Nat} {w : Ox} {k : Nat} {n : Cad} (h : FabIssues i s c 0x49 sub w false)
    (h0 : (cadDo (begun s c) c w.imm w.B (kget (getCtx s c) w.a)).st = 0)
    (hi : cadIs (cadDo (begun s c) c w.imm w.B (kget (getCtx s c) w.a)).s (begun s c) k n) :
    ∃ t, exec i s = .next t ∧ Did [.core, .time] s t c ∧ (∀ j, j ≠ k → getCad t j = getCad s j) ∧
      (getCad t k).ctrl = n.ctrl ∧ (getCad t k).dst = n.dst ∧ (getCad t k).off = n.off ∧ (getCad t k).len = n.len ∧
      (getCad t k).bytes = n.bytes ∧ (getCad t k).owned = n.owned ∧ (getCad t k).opened = n.opened := by
  have rb : Rel 1024 s (begun s c) := begun_rel rfl (Rel.refl s)
  obtain ⟨t, ht, hg, hc⟩ := fab_did (l := [.core, .time]) (ch := 13063170) (f := cadDo (begun s c) c w.imm w.B (kget (getCtx s c) w.a)) h rfl rfl h0
    (by show (false || false) = false; rfl) rfl rfl
    (cadDo_rel rfl (Rel.mono rfl rb)) rfl rfl (by intro p hp; cases p <;> first | rfl | (exact absurd (by decide) hp))
  refine ⟨t, ht, hg, fun j hj => ?_, ?_⟩
  · rw [cad_of hc.core, hi.1 j hj, cad_of (begun_core s c)]
  · rw [cad_of hc.core]; exact hi.2

end Sys2Proof.Laws.AboutTraffic
end

