-- ==== Sys2Proof/Laws/AboutUnitResets.lean ====
section
/-!
SUPPORT. Lemmas about RESETU.
-/

namespace Sys2Proof.Laws.AboutUnitResets

open Sys2Proof Sys2Proof.Machine Sys2Proof.Safety

theorem didE {s : State} {c op st : Nat} {w : Ox} : Did [] s (endTurn (retireSt (begun s c) c op w st) c) c :=
  did_of (ch := 12993538) (begun_rel rfl (Rel.refl s)) (fun j => begun_regs s c j) rfl (by intro p hp; cases p <;> first | rfl | (exact absurd (by decide) hp))
theorem run_of {s : State} {c kind : Nat} {row : Nat → Bool} {w : Ox} {bad absent waits : State → Nat → Bool} {go : State → Nat → State} {i : Instr}
    (hi : exec i s = unitOk (c < 18) (resetuRun c kind row w bad absent waits go s)) (h : Issues s c 0xA1 w { imm := 0xF000007F })
    (hr : row (fld w.imm 28 4) = true) (h8 : fld w.imm 28 4 ≤ 8) (hb : bad (begun s c) (fld w.imm 0 7) = false) :
    (absent (begun s c) (fld w.imm 0 7) = true → exec i s = .next (endTurn (retireSt (begun s c) c 0xA1 w 7) c)) ∧
    (absent (begun s c) (fld w.imm 0 7) = false → waits (begun s c) (fld w.imm 0 7) = false →
      exec i s = .next (endTurn (go (waitWith (begun s c) c 0xA1 w (.unit kind (fld w.imm 0 7))) (fld w.imm 0 7)) c)) := by
  have e : resetuRun c kind row w bad absent waits go s = oxRun c 0xA1 w { imm := 0xF000007F } (fun s _ => [(8 < fld w.imm 28 4, 0x11), (bad s (fld w.imm 0 7), 0x11)])
    (fun s _ =>
      if absent s (fld w.imm 0 7) then retireSt s c 0xA1 w 7
      else if waits s (fld w.imm 0 7) then waitAgain s c
      else go (waitWith s c 0xA1 w (.unit kind (fld w.imm 0 7))) (fld w.imm 0 7)) s := by
    unfold resetuRun; dsimp only; rw [hr, if_neg (by decide)]
  have k := res_issues (hi.trans (congrArg (unitOk _) e)) h (by
    intro e he
    simp only [List.mem_cons, List.not_mem_nil, or_false] at he
    rcases he with rfl | rfl
    · exact decide_eq_false (by omega)
    · exact hb)
  refine ⟨fun a => by rw [k, a, if_pos rfl], fun a b => by rw [k, a, b, if_neg (by decide), if_neg (by decide)]⟩
theorem ww_of (s : State) (c op : Nat) (w : Ox) (wt : Wait) : Rel 1024 s (waitWith (begun s c) c op w wt) := waitWith_rel rfl (begun_rel rfl (Rel.refl s))
theorem mp (s : State) (p j : Nat) (f : Port → Port) : getPort (modPort s p f) j = if j = p then f (getPort s p) else getPort s j := tget_tput _ _ _ _ _
theorem kp (s : State) (c : Nat) (w : Ox) (i : Nat) (h : Issues s c 0xA1 w { imm := 0xF000007F }) (hi : fld w.imm 0 7 = i) (hk : fld w.imm 28 4 = 0) (hl : leadPort s i = true) :
      ((getPort s i).rst ≠ .run → ∃ t, exec (.resetuPort c w) s = .next t ∧ Did [] s t c) ∧
      ((getPort s i).rst = .run → portWaits (begun s c) i = false → ∃ t, exec (.resetuPort c w) s = .next t ∧
        (getPort t i).rst = .inReset ∧ (getPort t i).genTag = (getPort s i).genTag + 1 ∧ (getPort t i).link = .off) := by
  have bp : ∀ j, getPort (begun s c) j = getPort s j := fun j => getPort_congr (begun_port s c) j
  have r := run_of (i := .resetuPort c w) rfl h (by rw [hk]; rfl) (by omega) (by
    have : leadPort (begun s c) i = leadPort s i := by obtain ⟨q, e⟩ := begun_eq s c; rw [e]; rfl
    rw [hi, this, hl]; rfl)
  rw [hi] at r
  refine ⟨fun g => ⟨_, r.1 (by rw [bp]; simpa using g), didE⟩, fun g g2 => ⟨_, r.2 (by rw [bp]; simp [g]) g2, ?_⟩⟩
  have vp : ∀ j, getPort (waitWith (begun s c) c 0xA1 w (.unit 0 i)) j = getPort s j := fun j => getPort_congr ((ww_of s c 0xA1 w _).f14 rfl) j
  generalize waitWith (begun s c) c 0xA1 w (.unit 0 i) = v at vp
  have ep : ∀ j, getPort (endTurn (resetPort v i) c) j = getPort (resetPort v i) j := fun j => getPort_congr endTurn_port j
  have e : sansIfl (getPort (resetPort v i) i) = sansIfl (portClear (getPort v i)) := by
    unfold resetPort
    rw [if_neg (by rw [vp]; simp [g])]
    dsimp only
    rw [restartTakes_ports]
    have r := flushPort_rel (x1 := i) (ch := 4294967295 - 16384) rfl (ecmpFail_rel (x1 := i) (ch := 4294967295 - 16384) rfl
      (newEntry__rel (x1 := uPort i) (ch := 4294967295 - 16384) rfl (Rel.refl (modPort v i portClear))))
    rw [getPort_congr (r.f14 rfl), mp, if_pos rfl]
  rw [ep]
  rw [vp] at e
  exact ⟨congrArg Port.rst e, congrArg Port.genTag e, congrArg Port.link e⟩
theorem kq (s : State) (c : Nat) (w : Ox) (i : Nat) (h : Issues s c 0xA1 w { imm := 0xF000007F }) (hi : fld w.imm 0 7 = i) (hk : fld w.imm 28 4 = 1) (hl : i < 12) :
      ((getQuire s i).rst ≠ .run → ∃ t, exec (.resetuQuire c w) s = .next t ∧ Did [] s t c) ∧
      ((getQuire s i).rst = .run → quireWaits (begun s c) i = false → ∃ t, exec (.resetuQuire c w) s = .next t ∧
        (getQuire t i).rst = .inReset ∧ (getQuire t i).genTag = (getQuire s i).genTag + 1) := by
  have bq : ∀ j, getQuire (begun s c) j = getQuire s j := fun j => getQuire_congr ((begun_rel (ch := 1024) rfl (Rel.refl s)).f15 rfl) j
  have r := run_of (i := .resetuQuire c w) rfl h (by rw [hk]; rfl) (by omega) (by rw [hi]; exact decide_eq_false (by omega))
  rw [hi] at r
  refine ⟨fun g => ⟨_, r.1 (by rw [bq]; simpa using g), didE⟩, fun g g2 => ⟨_, r.2 (by rw [bq]; simp [g]) g2, ?_⟩⟩
  have vp : ∀ j, getQuire (waitWith (begun s c) c 0xA1 w (.unit 1 i)) j = getQuire s j := fun j => getQuire_congr ((ww_of s c 0xA1 w _).f15 rfl) j
  generalize waitWith (begun s c) c 0xA1 w (.unit 1 i) = v at vp
  have ep : ∀ j, getQuire (endTurn (resetQuire v i) c) j = getQuire (resetQuire v i) j := fun j => getQuire_congr endTurn_quire j
  rw [ep]
  unfold resetQuire
  rw [if_neg (by rw [vp]; simp [g])]
  extract_lets a b
  have fk : ∀ (l : List Nat) (u : State), (forL l u fun s p => modPort (resetPort s p) p fun x => { x with quireRst := true, rst := .inReset }).quire = u.quire := by
    intro l
    induction l with
    | nil => intro u; rfl
    | cons p l ih => intro u; exact (ih _).trans ((resetPort_rel (ch := 29842434) rfl (Rel.refl u)).f15 rfl)
  rw [getQuire_congr (fk _ _)]
  have : getQuire b i = _ := tget_tput _ _ _ _ _
  rw [if_pos rfl] at this
  rw [this, vp]
  exact ⟨rfl, rfl⟩
theorem addW (k : State) (i j : Nat) : getTen ({ k with home := { k.home with walks := k.home.walks ++ [{ tenant := i, reset := true }] } } : State) j = getTen k j := rfl
theorem kt (s : State) (c : Nat) (w : Ox) (i : Nat) (h : Issues s c 0xA1 w { imm := 0xF000007F }) (hi : fld w.imm 0 7 = i) (hk : fld w.imm 28 4 = 2) (hl : i < 16) :
      ((getTen s i).exist = false ∨ (getTen s i).inReset = true → ∃ t, exec (.resetuTenant c w) s = .next t ∧ Did [] s t c) ∧
      ((getTen s i).exist = true → (getTen s i).inReset = false → tenWaits (begun s c) i = false → ∃ t, exec (.resetuTenant c w) s = .next t ∧
        (getTen t i).inReset = true ∧ (getTen t i).genTag = (getTen s i).genTag + 1 ∧ { tenant := i, reset := true } ∈ t.home.walks) := by
  have bq : ∀ j, getTen (begun s c) j = getTen s j := fun j => getTen_congr ((begun_rel (ch := 1024) rfl (Rel.refl s)).f13 rfl) j
  have r := run_of (i := .resetuTenant c w) rfl h (by rw [hk]; rfl) (by omega) (by rw [hi]; exact decide_eq_false (by omega))
  rw [hi] at r
  refine ⟨fun g => ⟨_, r.1 (by rw [bq]; rcases g with g | g <;> simp [g]), didE⟩, fun g1 g2 g3 => ⟨_, r.2 (by rw [bq]; simp [g1, g2]) g3, ?_⟩⟩
  have vp : ∀ j, getTen (waitWith (begun s c) c 0xA1 w (.unit 2 i)) j = getTen s j := fun j => getTen_congr ((ww_of s c 0xA1 w _).f13 rfl) j
  generalize waitWith (begun s c) c 0xA1 w (.unit 2 i) = v at vp
  have ep : ∀ j, getTen (endTurn (resetTenant v i) c) j = getTen (resetTenant v i) j := fun j => getTen_congr endTurn_ten j
  have eh : (endTurn (resetTenant v i) c).home = (resetTenant v i).home := endTurn_home
  rw [ep, eh]
  have T : ∀ (s : State) (t j : Nat) (f : Ten → Ten), getTen (modTen s t f) j = if j = t then f (getTen s t) else getTen s j := fun _ _ _ _ => tget_tput _ _ _ _ _
  unfold resetTenant
  rw [if_neg (by rw [vp]; simp [g1, g2])]
  extract_lets -merge a b d e f g k
  have ha : getTen a i = { getTen s i with genTag := (getTen s i).genTag + 1, inReset := true } := by
    have : getTen a i = _ := T v i i (fun x => { x with genTag := x.genTag + 1, inReset := true })
    rw [this, if_pos rfl, vp]
  have hb : b.ten = a.ten := (flushTenant_rel (ch := 21171458) rfl (Rel.refl a)).f13 rfl
  have hd : d.ten = b.ten := by
    show (forL (hostLeads b i) b resetPort).ten = b.ten
    generalize hostLeads b i = l
    clear_value b
    clear hb
    induction l generalizing b with
    | nil => rfl
    | cons p l ih => exact (ih _).trans ((resetPort_rel (ch := 29842434) rfl (Rel.refl b)).f13 rfl)
  have he : e.ten = d.ten := (resetCtx_rel (ch := 893591298) rfl (Rel.refl d)).f13 rfl
  have hf : getTen f i = vppbClear (getTen a i) := by
    have : getTen f i = _ := T (freeMcGroups e i) i i vppbClear
    rw [this, if_pos rfl, getTen_congr ((freeMcGroups_rel (ch := 65536) rfl (Rel.refl e)).f13 rfl), getTen_congr (he.trans (hd.trans hb))]
  have hg : g.ten = f.ten := ((clearDeficit_rel (ch := 196608) rfl (zeroTenCtrs_rel rfl (Rel.refl f))).f13 rfl)
  have hk : k.ten = g.ten := by
    show (forL (mirOwned g i) g fun s i => mirFinish (modMir s i fun m => { m with closing := true }) i).ten = g.ten
    generalize mirOwned g i = l
    clear_value g
    clear hg
    induction l generalizing g with
    | nil => rfl
    | cons p l ih => exact (ih _).trans ((mirFinish_rel (ch := 4259840) rfl (Rel.refl _)).f13 rfl)
  have fin : getTen ({ k with home := { k.home with walks := k.home.walks ++ [{ tenant := i, reset := true }] } } : State) i = vppbClear (getTen a i) :=
    (addW k i i).trans ((getTen_congr (hk.trans hg) i).trans hf)
  rw [fin, ha]
  exact ⟨rfl, rfl, List.mem_append_right _ (List.mem_singleton.2 rfl)⟩
theorem ks (s : State) (c : Nat) (w : Ox) (i : Nat) (h : Issues s c 0xA1 w { imm := 0xF000007F }) (hi : fld w.imm 0 7 = i) (hk : fld w.imm 28 4 = 4) (hl : i < 32) :
      ((getSlot s i).st = .inReset → ∃ t, exec (.resetuSlot c w) s = .next t ∧ Did [] s t c) ∧
      ((getSlot s i).st ≠ .inReset → genWait (begun s c) ⟨4, i⟩ = false → ∃ t, exec (.resetuSlot c w) s = .next t ∧
        (getSlot t i).st = .inReset ∧ (getSlot t i).genTag = (getSlot s i).genTag + 1 ∧ (getSlot t i).pg = false) := by
  have bq : ∀ j, getSlot (begun s c) j = getSlot s j := fun j => getSlot_congr (begun_slot s c) j
  have r := run_of (i := .resetuSlot c w) rfl h (by rw [hk]; rfl) (by omega) (by rw [hi]; exact decide_eq_false (by omega))
  rw [hi] at r
  refine ⟨fun g => ⟨_, r.1 (by rw [bq]; simp [g]), didE⟩, fun g1 g2 => ⟨_, r.2 (by rw [bq]; simpa using g1) g2, ?_⟩⟩
  have vp : ∀ j, getSlot (waitWith (begun s c) c 0xA1 w (.unit 4 i)) j = getSlot s j := fun j => getSlot_congr ((ww_of s c 0xA1 w _).f4 rfl) j
  generalize waitWith (begun s c) c 0xA1 w (.unit 4 i) = v at vp
  have ep : ∀ j, getSlot (endTurn (resetSlot v i) c) j = getSlot (resetSlot v i) j := fun j => getSlot_congr endTurn_slot j
  rw [ep]
  unfold resetSlot
  rw [if_neg (by rw [vp]; simpa using g1)]
  extract_lets a
  have sm : ∀ (s : State) (i j : Nat) (f : Slot → Slot), getSlot (modSlot s i f) j = if j = i then f (getSlot s i) else getSlot s j := fun _ _ _ _ => tget_tput _ _ _ _ _
  have sa : getSlot a i = { getSlot v i with st := .off, pg := false, perstRel := false, armed := false, timer := false, retry := 0, cause := (getSlot v i).cause, grantDue := (getSlot v i).granted != 0 } := by
    have e : getSlot a i = getSlot (modSlot v i fun x => { gateOff x .off with retry := 0, cause := (getSlot v i).cause, grantDue := x.granted != 0 }) i := rfl
    rw [e, sm, if_pos rfl]; rfl
  have : getSlot (newEntry_ (modSlot a i fun x => { x with st := .inReset, genTag := x.genTag + 1 }) ⟨4, i⟩) i = _ := sm a i i (fun x => { x with st := .inReset, genTag := x.genTag + 1 })
  rw [this, if_pos rfl, sa, vp]
  exact ⟨rfl, rfl, rfl⟩
theorem lm (s : State) (i : Nat) (f : CmdLink → CmdLink) (j : Nat) : getLink (modLink s i f) j = if j = i ∨ (i ≠ 0 ∧ j ≠ 0) then f (getLink s i) else getLink s j := by
  unfold getLink modLink
  by_cases h : i = 0
  · by_cases h2 : j = 0 <;> simp [h, h2]
  · by_cases h2 : j = 0
    · have : (0 : Nat) ≠ i := Ne.symm h
      simp [h, h2, this]
    · simp [h, h2]
def LL (s t : State) : Prop := t.cmd.linkA = s.cmd.linkA ∧ t.cmd.linkB = s.cmd.linkB
theorem LL.refl (s : State) : LL s s := ⟨rfl, rfl⟩
theorem LL.trans {s t u : State} (a : LL s t) (b : LL t u) : LL s u := ⟨b.1.trans a.1, b.2.trans a.2⟩
theorem LL.of {s t : State} (h : t.cmd = s.cmd) : LL s t := by unfold LL; rw [h]; exact ⟨rfl, rfl⟩
theorem msix_l (u : State) (v) : LL u (msixSend u v) := by
  unfold msixSend
  dsimp only
  repeat' split
  all_goals exact ⟨rfl, rfl⟩
theorem vec_l (u : State) (c v) : LL u (vecSend u c v) := by
  unfold vecSend
  dsimp only
  split
  · exact ⟨rfl, rfl⟩
  · exact msix_l _ _
theorem ev_l (u : State) (c e) : LL u (evLatch u c e) := by
  unfold evLatch evtVec
  dsimp only
  repeat' split
  · exact LL.refl _
  · exact LL.of ((countEv_rel (ch := 131072) rfl (Rel.refl u)).f1 rfl)
  · exact LL.trans (t := modCtx (modCtx u c fun x => { x with evp := x.evp ||| (1 <<< e) }) c fun x => { x with evtArmed := false }) ⟨rfl, rfl⟩ (vec_l _ _ _)
  · exact ⟨rfl, rfl⟩
  · exact ⟨rfl, rfl⟩
theorem off_l (u : State) (b) (c : Nat) : LL u (ringsOff b u c) := by
  unfold ringsOff
  extract_lets x hit rings cq v
  split
  · exact ⟨rfl, rfl⟩
  · exact ⟨rfl, rfl⟩
theorem rings_l (u : State) : LL u (hostRingsOff u) := by
  unfold hostRingsOff stewEv
  refine LL.trans ?_ (ev_l _ _ _)
  generalize List.range 18 = l
  induction l generalizing u with
  | nil => exact LL.refl _
  | cons a l ih => exact LL.trans (off_l u _ a) (ih _)
theorem kl (s : State) (c : Nat) (w : Ox) (i : Nat) (h : Issues s c 0xA1 w { imm := 0xF000007F }) (hi : fld w.imm 0 7 = i) (hk : fld w.imm 28 4 = 7) (hl : i < 2) :
      ((getLink s i).rst ≠ .run ∨ i = 1 ∧ s.cmd.mode = 0 → ∃ t, exec (.resetuCommandPort c w) s = .next t ∧ Did [] s t c) ∧
      ((getLink s i).rst = .run → (i = 0 ∨ s.cmd.mode ≠ 0) → genWait (begun s c) ⟨7, i⟩ = false → ∃ t, exec (.resetuCommandPort c w) s = .next t ∧
        (getLink t i).rst = .inReset ∧ (getLink t i).up = false ∧ (getLink t i).genTag = (getLink s i).genTag + 1) := by
  have bq : ∀ j, getLink (begun s c) j = getLink s j := fun j => getLink_congr (begun_cmd s c) j
  have bm : (begun s c).cmd.mode = s.cmd.mode := congrArg Cmd.mode (begun_cmd s c)
  have r := run_of (i := .resetuCommandPort c w) rfl h (by rw [hk]; rfl) (by omega) (by rw [hi]; exact decide_eq_false (by omega))
  rw [hi] at r
  rw [bq, bm] at r
  refine ⟨fun g => ⟨_, r.1 (by rcases g with g | ⟨g, g'⟩ <;> simp [*]), didE⟩, fun g1 g2 g3 => ⟨_, r.2 (by rw [g1]; rcases g2 with g | g <;> simp [g]) g3, ?_⟩⟩
  have vp : ∀ j, getLink (waitWith (begun s c) c 0xA1 w (.unit 7 i)) j = getLink s j := fun j => getLink_congr ((ww_of s c 0xA1 w _).f1 rfl) j
  generalize waitWith (begun s c) c 0xA1 w (.unit 7 i) = v at vp
  have ep : ∀ j, getLink (endTurn (resetCmd v i true) c) j = getLink (resetCmd v i true) j := fun j => getLink_congr endTurn_cmd j
  rw [ep]
  unfold resetCmd
  extract_lets -merge x clear a b d
  rw [if_neg (by show ¬ ((getLink v i).rst != .run) = true; rw [vp]; simp [g1])]
  have rel : ∀ z : State, (if i = activeLink z then hostRingsOff z else z).cmd.linkA = z.cmd.linkA ∧ (if i = activeLink z then hostRingsOff z else z).cmd.linkB = z.cmd.linkB := by
    intro z; split
    · exact rings_l z
    · exact ⟨rfl, rfl⟩
  have up : ∀ z : State, (∀ j, getLink z j = if j = i ∨ (i ≠ 0 ∧ j ≠ 0) then { getLink v i with up := false, rst := .inReset, genTag := (getLink v i).genTag + 1, rate := 0, lanes := lanesClear (getLink v i).lanes } else getLink v j) →
      (getLink z i).rst = .inReset ∧ (getLink z i).up = false ∧ (getLink z i).genTag = (getLink s i).genTag + 1 := by
    intro z hz; rw [hz, if_pos (.inl rfl), vp]; exact ⟨rfl, rfl, rfl⟩
  have ha : ∀ j, getLink a j = if j = i ∨ (i ≠ 0 ∧ j ≠ 0) then { getLink v i with up := false, rst := .inReset, genTag := (getLink v i).genTag + 1, rate := 0, lanes := lanesClear (getLink v i).lanes } else getLink v j := lm v i _
  have hb : b.cmd = a.cmd := by
    show (if x.up then cntAdd a (0x1858 + 0x1000 * i) 1 else a).cmd = _
    split
    · exact (cntAdd_rel (ch := 131072) rfl (Rel.refl a)).f1 rfl
    · rfl
  have hd : d.cmd = a.cmd := hb
  refine up _ fun j => ?_
  have e := rel d
  rw [← ha j]
  unfold getLink
  rw [e.1, e.2, hd]
theorem mvm (s : State) (t j : Nat) (f : Mover → Mover) : getMov (modMov s t f) j = if j = t then f (getMov s t) else getMov s j := tget_tput _ _ _ _ _
theorem mv_tag (v : State) (i : Nat) : (getMov (resetMove v i) i).genTag = (getMov v i).genTag := by
  unfold resetMove
  split
  · next j e =>
    unfold finishMove
    extract_lets -merge n o s1 s2 s3 s4
    have h4 : getMov (mvRecord s4 o j.desc 4) i = getMov s4 i := getMov_congr ((mvRecord_rel (ch := 4326402) rfl (Rel.refl s4)).f11 rfl) i
    have h3 : getMov s4 i = getMov s3 i := congrArg (fun u => getMov u i) (if_neg Bool.false_ne_true)
    have h2 : getMov s3 i = getMov s2 i := by
      show getMov (if (4 : Nat) = 4 then _ else _) i = _
      rw [if_pos rfl]
      exact getMov_congr ((mvCount_rel (ch := 131072) rfl (Rel.refl s2)).f11 rfl) i
    have h1 : getMov s2 i = getMov s1 i := getMov_congr ((mvCount_rel (ch := 131072) rfl (Rel.refl s1)).f11 rfl) i
    rw [h4, h3, h2, h1]
    show (getMov (modMov (dropMoves v i) i _) i).genTag = _
    rw [mvm, if_pos rfl]
    rfl
  · rfl
theorem post_st (s : State) (c r) (j : Nat) : (getCtx (postRec s c r) j).st = (getCtx s j).st := by
  have ring (s : State) (a b d) : getCtx (ringWrite s a b d) j = getCtx s j := by unfold ringWrite; split <;> rfl
  have md {s : State} {c j : Nat} {f : Ctx → Ctx} (h : ∀ x, (f x).st = x.st) : (getCtx (modCtx s c f) j).st = (getCtx s j).st := by
    rw [getCtx_modCtx]; split
    · exact h _
    · rfl
  unfold postRec
  dsimp only
  split
  · exact md fun _ => rfl
  · split
    · rfl
    · split
      · exact md fun _ => rfl
      · unfold cqWrite
        dsimp only
        split
        · rw [getCtx_congr vecSend_seq]
          refine (md ?_).trans ?_
          · exact fun _ => rfl
          · rw [ctx_countEv]
            refine (md ?_).trans ?_
            · exact fun _ => rfl
            · rw [ring]
        · rw [ctx_countEv]
          refine (md ?_).trans ?_
          · exact fun _ => rfl
          · rw [ring]
theorem move_st (v : State) (i k : Nat) : (getCtx (resetMove v i) k).st = (getCtx v k).st := by
  unfold resetMove
  split
  · next j e =>
    unfold finishMove
    extract_lets -merge n o s1 s2 s3 s4
    have h4 : (getCtx (mvRecord s4 o j.desc 4) k).st = (getCtx s4 k).st := by
      unfold mvRecord
      split
      · rfl
      · extract_lets s5
        rw [(evLatch_keep s5 o 14 k).1]
        show (getCtx (if j.desc.cr = true then _ else s4) k).st = _
        split
        · exact post_st _ _ _ _
        · rfl
    have h3 : getCtx s4 k = getCtx s3 k := congrArg (fun u => getCtx u k) (if_neg Bool.false_ne_true)
    have h2 : getCtx s3 k = getCtx s2 k := by
      show getCtx (if (4 : Nat) = 4 then _ else _) k = _
      rw [if_pos rfl]
      exact getCtx_congr ((mvCount_rel (ch := 131072) rfl (Rel.refl s2)).f10 rfl) k
    have h1 : getCtx s2 k = getCtx s1 k := getCtx_congr ((mvCount_rel (ch := 131072) rfl (Rel.refl s1)).f10 rfl) k
    rw [h4, h3, h2, h1]
    rfl
  · rfl
theorem mover_st (u : State) (b k : Nat) : (getCtx (resetMover u b) k).st = (getCtx u k).st := by
  unfold resetMover
  split
  · rfl
  · exact move_st u b k
theorem ssl (s : State) (i : Nat) (e : W64) : (setSheet s i e).pool.chan = s.pool.chan ∧ (setSheet s i e).home = s.home := ⟨rfl, rfl⟩
theorem fsl (s : State) (i n : Nat) : (freeSlot s i n).pool.chan = s.pool.chan ∧ (freeSlot s i n).home = s.home := ⟨rfl, rfl⟩
theorem lose_chan (s : State) (ch : Nat) : (loseChannel s ch).pool.chan = s.pool.chan ∧ (loseChannel s ch).home = s.home := by
  unfold loseChannel
  generalize s.pool.sheet = l
  induction l generalizing s with
  | nil => exact ⟨rfl, rfl⟩
  | cons x l ih =>
    rw [List.foldl_cons]
    have st : ∀ z : State, (stewEv z).pool = z.pool ∧ (stewEv z).home = z.home := fun z => ⟨(stewEv_rel (ch := 4326402) rfl (Rel.refl z)).f7 rfl, (stewEv_rel (ch := 4326402) rfl (Rel.refl z)).f8 rfl⟩
    have key : ∀ z : State, z.pool.chan = s.pool.chan ∧ z.home = s.home → (List.foldl _ z l).pool.chan = s.pool.chan ∧ (List.foldl _ z l).home = s.home :=
      fun z hz => ⟨(ih z).1.trans hz.1, (ih z).2.trans hz.2⟩
    apply key
    dsimp only
    repeat' split
    · exact ⟨rfl, rfl⟩
    · rw [(st _).1, (st _).2, (fsl _ _ _).1, (fsl _ _ _).2, (ssl _ _ _).1, (ssl _ _ _).2]; exact ⟨rfl, rfl⟩
    · rw [(st _).1, (st _).2, (ssl _ _ _).1, (ssl _ _ _).2]; exact ⟨rfl, rfl⟩
    · rw [(st _).1, (st _).2, (fsl _ _ _).1, (fsl _ _ _).2, (ssl _ _ _).1, (ssl _ _ _).2]; exact ⟨rfl, rfl⟩
    · rw [(st _).1, (st _).2, (ssl _ _ _).1, (ssl _ _ _).2]; exact ⟨rfl, rfl⟩
    · exact ⟨rfl, rfl⟩
theorem leave_chan (s : State) (ch : Nat) (h1 : s.home.txns = []) (h2 : s.home.queue = []) : (leaveService s ch).pool.chan = s.pool.chan := by
  have a := lose_chan s ch
  unfold leaveService
  have e1 : loseTxns (loseChannel s ch) ch = loseChannel s ch := by
    unfold loseTxns; rw [a.2, h1]; rfl
  rw [e1]
  unfold loseQueue
  rw [a.2, h2]
  exact a.1
theorem fall4 (s : State) (t : Nat) (h : (getTen s t).down = false) : (getTen (domainFall s t 4 0 0) t).down = true ∧ (getTen (domainFall s t 4 0 0) t).viral = true ∧
    (getTen (domainFall s t 4 0 0) t).cause = 4 := by
  unfold domainFall
  dsimp only
  rw [h, if_neg (by decide)]
  generalize hu : modTen s t _ = u
  have ut : (getTen u t).down = true ∧ (getTen u t).viral = true ∧ (getTen u t).cause = 4 := by
    rw [← hu]
    have : ∀ f : Ten → Ten, getTen (modTen s t f) t = f (getTen s t) := fun f => (tget_tput _ _ _ _ _).trans (if_pos rfl)
    rw [this]
    exact ⟨rfl, rfl, rfl⟩
  have key : ∀ w : State, w.ten = u.ten → (getTen w t).down = true ∧ (getTen w t).viral = true ∧ (getTen w t).cause = 4 := by
    intro w hw
    have : getTen w t = getTen u t := by unfold getTen; rw [hw]
    rw [this]; exact ut
  refine key _ ?_
  rw [(evLatch_rel (ch := 4326402) rfl (Rel.refl _)).f13 rfl]
  rw [if_neg (by decide), (tenEv_rel (ch := 4326402) rfl (Rel.refl _)).f13 rfl, (stewIf_rel (ch := 4326402) rfl (Rel.refl _)).f13 rfl]
  show (flushTenant _ t).ten = _
  rw [(flushTenant_rel (ch := 21171458) rfl (Rel.refl _)).f13 rfl]
  have me : ∀ (l : List (Nat × Sharer)) (w : State), (l.foldl (fun s e => mgmtEmit s e.2.port 0x0B (viralMgmt s t e.2.pbr)) w).ten = w.ten := by
    intro l
    induction l with
    | nil => intro w; rfl
    | cons a l ih =>
      intro w
      rw [List.foldl_cons, ih]
      exact (mgmtEmit_rel (ch := 12599296) rfl (Rel.refl _)).f13 rfl
  rw [me]
  have vi : ∀ (l : List Nat) (w : State), (forL l w fun s p => emit s (.viral p)).ten = w.ten := by
    intro l
    induction l with
    | nil => intro w; rfl
    | cons a l ih => intro w; exact ih _
  rw [vi]
theorem kc (s : State) (c : Nat) (w : Ox) (i : Nat) (h : Issues s c 0xA1 w { imm := 0xF000007F }) (hi : fld w.imm 0 7 = i) (hk : fld w.imm 28 4 = 3) (hl : i < 12) :
      ((getChan s i).rst ≠ .run → ∃ t, exec (.resetuPoolChannel c w) s = .next t ∧ Did [] s t c) ∧
      ((getChan s i).rst = .run → genWait (begun s c) ⟨3, i⟩ = false → ∃ t, exec (.resetuPoolChannel c w) s = .next t ∧
        (s.home.txns = [] → s.home.queue = [] → (getChan t i).rst = .inReset ∧ (getChan t i).st = .inReset ∧
          (getChan t i).genTag = (getChan s i).genTag + 1)) := by
  have bq : ∀ j, getChan (begun s c) j = getChan s j := fun j => getChan_congr ((begun_rel (ch := 1024) rfl (Rel.refl s)).f7 rfl) j
  have r := run_of (i := .resetuPoolChannel c w) rfl h (by rw [hk]; rfl) (by omega) (by rw [hi]; exact decide_eq_false (by omega))
  rw [hi] at r
  refine ⟨fun g => ⟨_, r.1 (by rw [bq]; simpa using g), didE⟩, fun g1 g2 => ⟨_, r.2 (by rw [bq]; simp [g1]) g2, fun g3 g4 => ?_⟩⟩
  have vr := ww_of s c 0xA1 w (.unit 3 i)
  have vp : ∀ j, getChan (waitWith (begun s c) c 0xA1 w (.unit 3 i)) j = getChan s j := fun j => getChan_congr (vr.f7 rfl) j
  have vh : (waitWith (begun s c) c 0xA1 w (.unit 3 i)).home = s.home := vr.f8 rfl
  generalize waitWith (begun s c) c 0xA1 w (.unit 3 i) = v at vp vh
  have ep : ∀ j, getChan (endTurn (resetChan v i) c) j = getChan (resetChan v i) j := fun j => getChan_congr endTurn_pool j
  rw [ep]
  have M : ∀ (s : State) (t j : Nat) (f : Chan → Chan), getChan (modChan s t f) j = if j = t then f (getChan s t) else getChan s j := fun _ _ _ _ => tget_tput _ _ _ _ _
  unfold resetChan
  rw [if_neg (by rw [vp]; simp [g1])]
  extract_lets a
  have ha : getChan a i = { getChan v i with genTag := (getChan v i).genTag + 1, rst := .inReset, stBefore := (getChan v i).st, st := .inReset, scrubPos := 0, lapStart := mono v } := by
    have : getChan a i = _ := M v i i (fun x => { x with genTag := x.genTag + 1, rst := .inReset, stBefore := x.st, st := .inReset, scrubPos := 0, lapStart := mono v })
    rw [this, if_pos rfl]
  have h1 : ∀ z, (restartTakes v z).pool = z.pool := fun z => (restartTakes_rel (ch := 12865536) rfl (Rel.refl z)).f7 rfl
  have h2 : ∀ z, (chanOpens z i).pool = z.pool := fun z => (chanOpens_rel (ch := 21171202) rfl (Rel.refl z)).f7 rfl
  have h3 : ∀ z, (restamp z i).pool = z.pool := fun z => (restamp_rel (ch := 65792) rfl (Rel.refl z)).f7 rfl
  rw [getChan_congr (h1 _), getChan_congr (h2 _), getChan_congr (h3 _)]
  have h4 : (leaveService (newEntry_ a ⟨3, i⟩) i).pool.chan = a.pool.chan := by
    refine (leave_chan _ i ?_ ?_).trans rfl
    · show v.home.txns = []; rw [vh]; exact g3
    · show v.home.queue = []; rw [vh]; exact g4
  have h5 : getChan (leaveService (newEntry_ a ⟨3, i⟩) i) i = getChan a i := by unfold getChan; rw [h4]
  rw [h5, ha, vp]
  exact ⟨rfl, rfl, rfl⟩
theorem kx (s : State) (c : Nat) (w : Ox) (i : Nat) (h : Issues s c 0xA1 w { imm := 0xF000007F }) (hi : fld w.imm 0 7 = i) (hk : fld w.imm 28 4 = 5) (hl : i < 18) (hc : i ≠ c) :
      ((getCtx s i).st = .inReset ∨ (getCtx s i).st = .off → ∃ t, exec (.resetuContext c w) s = .next t ∧ Did [] s t c) ∧
      ((getCtx s i).st ≠ .inReset → (getCtx s i).st ≠ .off → genWait (begun s c) ⟨5, i⟩ = false → (∀ m ∈ moversOf s i, genWait (begun s c) ⟨6, m⟩ = false) →
        ∃ t, exec (.resetuContext c w) s = .next t ∧ (getCtx t i).st = .inReset ∧ (∀ r, kget (getCtx t i) r = 0)) := by
  have bq : ∀ j, (getCtx (begun s c) j).st = (getCtx s j).st := fun j => by rw [getCtx_begun]
  have r := run_of (i := .resetuContext c w) rfl h (by rw [hk]; rfl) (by omega) (by rw [hi]; simp [hc]; omega)
  rw [hi] at r
  rw [bq] at r
  have mo : moversOf (begun s c) i = moversOf s i := by unfold moversOf; rw [begun_mov]
  refine ⟨fun g => ⟨_, r.1 (by rcases g with g | g <;> rw [g] <;> rfl), didE⟩, fun g1 g2 g3 g4 => ⟨_, r.2 (by simp [g1, g2]) (by rw [mo, g3]; simpa using g4), ?_⟩⟩
  have vp : (getCtx (waitWith (begun s c) c 0xA1 w (.unit 5 i)) i).st = (getCtx s i).st := by
    unfold waitWith
    rw [getCtx_modCtx, if_neg hc, bq]
  generalize waitWith (begun s c) c 0xA1 w (.unit 5 i) = v at vp
  rw [getCtx_endTurn]
  unfold resetCtx
  rw [if_neg (by rw [vp]; simp [g1, g2])]
  extract_lets a
  have ha : (getCtx a i).st = .inReset ∧ (getCtx a i).k = [] := by
    have fr : ∀ (l : List Nat) (u : State), (forL l u freeTake).seq = u.seq := by
      intro l
      induction l with
      | nil => exact fun _ => rfl
      | cons b l ih => exact fun u => (ih _).trans rfl
    have e : getCtx a i = getCtx (ctxClear (newEntry_ v ⟨5, i⟩) i) i := getCtx_congr (fr _ _) i
    rw [e]
    unfold ctxClear
    rw [getCtx_modCtx, if_pos rfl]
    exact ⟨rfl, rfl⟩
  have hl : ∀ (l : List Nat) (u : State), (getCtx (forL l u resetMover) i).st = (getCtx u i).st ∧ regs (getCtx (forL l u resetMover) i) = regs (getCtx u i) := by
    intro l
    induction l with
    | nil => exact fun _ => ⟨rfl, rfl⟩
    | cons b l ih =>
      intro u
      have := ih (resetMover u b)
      exact ⟨this.1.trans (mover_st u b i), this.2.trans ((resetMover_rel (ch := 356716290) rfl (Rel.refl u)).regs rfl i)⟩
  refine ⟨(hl _ _).1.trans ha.1, fun r => ?_⟩
  rw [kget_of_regs (hl _ _).2]
  unfold kget
  rw [ha.2]
  split <;> rfl
theorem km (s : State) (c : Nat) (w : Ox) (i : Nat) (h : Issues s c 0xA1 w { imm := 0xF000007F }) (hi : fld w.imm 0 7 = i) (hk : fld w.imm 28 4 = 6) (hl : i < 72) :
      ((getMov s i).rst ≠ .run → ∃ t, exec (.resetuMoverChannel c w) s = .next t ∧ Did [] s t c) ∧
      ((getMov s i).rst = .run → genWait (begun s c) ⟨6, i⟩ = false → ∃ t, exec (.resetuMoverChannel c w) s = .next t ∧
        (getMov t i).rst = .inReset ∧ (getMov t i).st = .inReset ∧ (getMov t i).owner = 0x1F ∧ (getMov t i).genTag = (getMov s i).genTag + 1) := by
  have bq : ∀ j, getMov (begun s c) j = getMov s j := fun j => getMov_congr (begun_mov s c) j
  have r := run_of (i := .resetuMoverChannel c w) rfl h (by rw [hk]; rfl) (by omega) (by rw [hi]; exact decide_eq_false (by omega))
  rw [hi] at r
  refine ⟨fun g => ⟨_, r.1 (by rw [bq]; simpa using g), didE⟩, fun g1 g2 => ⟨_, r.2 (by rw [bq]; simp [g1]) g2, ?_⟩⟩
  have vp : ∀ j, getMov (waitWith (begun s c) c 0xA1 w (.unit 6 i)) j = getMov s j := fun j => getMov_congr ((ww_of s c 0xA1 w _).f11 rfl) j
  generalize waitWith (begun s c) c 0xA1 w (.unit 6 i) = v at vp
  have ep : ∀ j, getMov (endTurn (resetMover v i) c) j = getMov (resetMover v i) j := fun j => getMov_congr endTurn_mov j
  rw [ep]
  have M : ∀ (s : State) (t j : Nat) (f : Mover → Mover), getMov (modMov s t f) j = if j = t then f (getMov s t) else getMov s j := fun _ _ _ _ => tget_tput _ _ _ _ _
  have gt : (getMov (resetMove v i) i).genTag = (getMov v i).genTag := mv_tag v i
  unfold resetMover
  rw [if_neg (by rw [vp]; simp [g1])]
  have : getMov (newEntry_ (modMov (resetMove v i) i fun m =>
    { m with st := .inReset, rst := .inReset, owner := 0x1F, genTag := m.genTag + 1, src := 0, dst := 0, done := 0, len := 0, desc := 0
             fail := 0 }) ⟨6, i⟩) i = _ := M (resetMove v i) i i (fun m =>
    { m with st := .inReset, rst := .inReset, owner := 0x1F, genTag := m.genTag + 1, src := 0, dst := 0, done := 0, len := 0, desc := 0
             fail := 0 })
  rw [this, if_pos rfl]
  refine ⟨rfl, rfl, rfl, ?_⟩
  dsimp only
  rw [gt, vp]
theorem kd (s : State) (c : Nat) (w : Ox) (i : Nat) (h : Issues s c 0xA1 w { imm := 0xF000007F }) (hi : fld w.imm 0 7 = i) (hk : fld w.imm 28 4 = 8) (hl : i < 16) :
      ((getTen s i).exist = false ∨ (getTen s i).inReset = true → ∃ t, exec (.resetuCoherentDomain c w) s = .next t ∧ Did [] s t c) ∧
      ((getTen s i).exist = true → (getTen s i).inReset = false → (getTen s i).down = false → ∃ t, exec (.resetuCoherentDomain c w) s = .next t ∧
        (getTen t i).down = true ∧ (getTen t i).viral = true ∧ (getTen t i).cause = 4) := by
  have bq : ∀ j, getTen (begun s c) j = getTen s j := fun j => getTen_congr ((begun_rel (ch := 1024) rfl (Rel.refl s)).f13 rfl) j
  have ex : exec (.resetuCoherentDomain c w) s = .next (endTurn (if !(getTen (begun s c) i).exist || (getTen (begun s c) i).inReset then retireSt (begun s c) c 0xA1 w 7
        else retireSt (domainFall (begun s c) i 4 0 0) c 0xA1 w 0) c) := by
    refine res_issues (chk := fun _ _ => [(15 < i, 0x11)]) (eff := fun s _ => if !(getTen s i).exist || (getTen s i).inReset then retireSt s c 0xA1 w 7
        else retireSt (domainFall s i 4 0 0) c 0xA1 w 0) (sh := { imm := 0xF000007F }) ?_ h ?_
    · show unitOk _ _ = _
      congr 1
      rw [hi, hk]
      rfl
    · intro e he
      simp only [List.mem_cons, List.not_mem_nil, or_false] at he
      subst he
      exact decide_eq_false (by omega)
  rw [bq] at ex
  refine ⟨fun g => ⟨_, ex.trans (by rw [if_pos (by rcases g with g | g <;> simp [g])]), didE⟩, fun g1 g2 g3 => ⟨_, ex.trans (by rw [if_neg (by simp [g1, g2])]), ?_⟩⟩
  have e : ∀ z : State, getTen (endTurn (retireSt z c 0xA1 w 0) c) i = getTen z i := fun z => getTen_congr (by rw [endTurn_ten, retireSt_ten]) i
  rw [e]
  exact fall4 _ _ (by rw [bq]; exact g3)

end Sys2Proof.Laws.AboutUnitResets
end

