-- ==== Sys2Proof/Tests/Slice0.lean ====
section
/-!
SUPPORT. Tests: terms the bounds refuse, and one witness for each statement with hypotheses. A witness takes the statement and
gives it concrete states and operands that meet its hypotheses together; what it concludes is that the command completes there. The
states are State.reset with the few fields the clause names, never a run.
-/

namespace Sys2Proof.Tests

open Sys2Proof.Machine Sys2Proof.Safety

/-! ## Helpers -/

/-- The command completes. -/
abbrev runs (i : Instr) (s : State) : Prop := ∃ t, exec i s = .next t

/-- A command with a next state of which something is known has a next state. -/
theorem comp {r : Res} {p : State → Prop} (h : ∃ t, r = .next t ∧ p t) : ∃ t, r = .next t :=
  h.elim fun t k => ⟨t, k.1⟩

/-- What every next state has, the next state that is has. -/
theorem thn {r : Res} {p : State → Prop} (e : ∃ t, r = .next t) (f : ∀ t, r = .next t → p t) : ∃ t, r = .next t ∧ p t :=
  e.elim fun t k => ⟨t, k, f t k⟩

/-- A command whose next state is given has one. -/
theorem nx {r : Res} {t : State} (h : r = .next t) : ∃ t, r = .next t := ⟨t, h⟩

/-- The words of an instruction. -/
def wd (d a b cond : BitVec 4 := 0) (mod : BitVec 8 := 0) (imm : BitVec 32 := 0) (B : W64 := 0) : Ox := ⟨d, a, b, cond, mod, imm, B⟩

/-- After reset, with S0 holding `w` as the ring entry it issues next and `k` in its registers. -/
def ox (op : Nat) (w : Ox) (k : Tab W64 := []) : State :=
  modCtx State.reset 0 fun x => { x with st := .ready, run := .entry 0 0 (wordA op w) w.B, k := k }

/-- The checks of `Issues` as one Bool. -/
def issuesB (s : State) (c op : Nat) (w : Ox) (sh : Shape0) : Bool :=
  decide (c < 18) && issues s c op w && (fetchFault (begun s c) c == none) && (decide (c < 2) || !(decide (0xA0 ≤ op) && decide (op ≤ 0xAF))) &&
    w.cond != 0xF && shapeOk w sh && condHolds (getCtx s c) w.cond

theorem iss {s : State} {c op : Nat} {w : Ox} {sh : Shape0} (h : issuesB s c op w sh = true) : Issues s c op w sh := by
  simp only [issuesB, Bool.and_eq_true, Bool.or_eq_true, Bool.not_eq_true', decide_eq_true_eq, bne_iff_ne, ne_eq, beq_iff_eq,
    Bool.and_eq_false_iff, decide_eq_false_iff_not] at h
  obtain ⟨⟨⟨⟨⟨⟨h1, h2⟩, h3⟩, h4⟩, h5⟩, h6⟩, h7⟩ := h
  exact ⟨h1, h2, h3, fun a b => h4.resolve_right fun k => k.elim (fun k => k a) fun k => k b, h5, h6, h7⟩

/-- The checks of `FabIssues` as one Bool. -/
def fabB (i : Instr) (s : State) (c op sub : Nat) (w : Ox) (take : Bool) : Bool :=
  decide (fabForm i = some (c, op, sub, w)) && fabSub op w.imm == sub && issuesB s c op w (fabShape op sub) && bit w.mod 4 == take &&
    (fabChk s c op w.imm w.B (kget (getCtx s c) w.a) (kget (getCtx s c) w.b)).all fun e => !e.1

theorem fab {i : Instr} {s : State} {c op sub : Nat} {w : Ox} {take : Bool} (h : fabB i s c op sub w take = true) : FabIssues i s c op sub w take := by
  simp only [fabB, Bool.and_eq_true, decide_eq_true_eq, beq_iff_eq, List.all_eq_true, Bool.not_eq_true'] at h
  obtain ⟨⟨⟨⟨h1, h2⟩, h3⟩, h4⟩, h5⟩ := h
  exact ⟨h1, h2, iss h3, h4, fun e he => h5 e he⟩

/-! ## Bounds: for every bound of a command, a term just outside it, which is refused -/

def mg0 : Mgmt := { sender := 0, receiver := 0, epoch := 0, sequence := 0 }

theorem test_wf_1 : (([
    .flitReceive 96 { msgs := [] }, .messageAdmission 109 true, .heldMessageRetry 109 true, .requestAtCentre 109, .egressSelection 109, .flitSend 96,
    .repinningFenceRelease 64, .replicaMemberCompletion 0 16 true, .replicaMemberTimeout 0 16, .mirrorConsumerReadDone 8 0,
    .redMessageReevaluation 96, .cadenceWindowOpen 64 0, .cadenceWindowOpen 0 16, .cadenceWindowClose 64, .cadenceFenceRelease 64,
    .histogramSample 109, .histClear 109, .portEnable 96 0, .portDisable 96 0, .portHpWrite 96 0, .linkTrained 96 {}, .trainingRetry 96, .linkDown 96,
    .errMessageReceived 96 true, .dpcStatusClearByHost 96, .dpcTrigClear 96, .loopbackRequestReceived 96 true, .hotResetReceived 96,
    .secondaryBusReset 16 0, .secondaryBusReset 0 64, .hostPowerControlWrite 96 true, .hpRefuse 96, .hostMcEnableWrite 16 0, .hostMcEnableWrite 0 64,
    .ideKeyManagement 96 .linkIdeForIo, .ideMacFailure 96, .poolChEnable 12, .channelTrainingDone 12 {}, .poolChDisable 12, .initStart 12,
    .channelInitDone 12, .channelLost 12, .poolGrpEnable 16 0, .poolGrpDisable 16 0, .ceLogClear 12, .ueLogClear 12, .scrubRead 12 .ok .ok,
    .homeRds 12, .homeRde 12, .homeRdnc 12] : List Instr).all fun i => !i.wf) = true := by decide

theorem test_wf_2 : (([
    .homeWrnc 12, .homeEvd 12, .homeEvc 12, .homeAtom 12, .biResponse 0 128 .i [], .biconflictReceived 0 128, .snoopTimeout 0 128,
    .directoryWalkDone 16, .ringDoorbell .linkA 18 0 0, .ringDoorbell .linkA 0 4 0, .ringEntryFetch 18 0 0, .cqHeadWrite 18 0, .completionRingRoom 18,
    .ctxStateRead 18, .ctxResumeWrite 18 0, .haltRequest 18, .contextRegisterWrite 18 0, .undefinedOpcode 18 0 wd, .nop 18 wd, .halt 18 wd,
    .jump 18 wd, .br 18 wd, .call 18 wd, .ret 18 wd, .waitev 18 wd, .waitSatisfied 18, .signal 18 wd, .signalMask 18 wd, .fence 18 wd, .yield 18 wd,
    .movi 18 wd, .mov 18 wd, .add 18 wd, .sub 18 wd, .mul 18 wd, .mulhu 18 wd, .divu 18 wd, .remu 18 wd, .and 18 wd, .or 18 wd, .xor 18 wd,
    .shl 18 wd, .shr 18 wd, .sar 18 wd, .cmp 18 wd, .tst 18 wd, .min 18 wd, .max 18 wd, .clz 18 wd, .popc 18 wd] : List Instr).all fun i => !i.wf) = true := by decide

theorem test_wf_3 : (([
    .bfx 18 wd, .bfi 18 wd, .ld 18 wd, .loadDataReturn 18, .st 18 wd, .ldc 18 wd, .stc 18 wd, .atom 18 wd, .bind 18 wd, .unbind 18 wd,
    .routeEntry 18 wd, .routeMembers 18 wd, .routeBuckets 18 wd, .routeSeed 18 wd, .routeHash 18 wd, .routeRead 18 wd, .mcastHeader 18 wd,
    .mcastMember 18 wd, .mcastState 18 wd, .mcastFree 18 wd, .mcastOwner 18 wd, .mcastRead 18 wd, .deckleWrite 18 wd, .deckleInvalidate 18 wd,
    .deckleSetLock 18 wd, .sheetGrant 18 wd, .sheetFree 18 wd, .sheetAttach 18 wd, .sheetActivate 18 wd, .sheetSwap 18 wd, .sheetDetach 18 wd,
    .sheetRetire 18 wd, .sheetReam 18 wd, .sheetQuery 18 wd, .mirrorEnable 18 wd, .mirrorDisable 18 wd, .mirrorReadLost 18 wd, .meterConfigure 18 wd,
    .meterBind 18 wd, .meterRead 18 wd, .shapeShaper 18 wd, .shapePriority 18 wd, .shapeQuantum 18 wd, .cadenceConfigure 18 wd, .cadenceWindow 18 wd,
    .cadenceEnable 18 wd, .cadenceDisable 18 wd, .copy 18 wd, .gather 18 wd, .reshape 18 wd] : List Instr).all fun i => !i.wf) = true := by decide

theorem test_wf_4 : (([
    .fill 18 wd, .mvstat 18 wd, .mvpause 18 wd, .mvabort 18 wd, .mvresume 18 wd, .moveTransfer 72, .moveEnd 72, .time 18 wd, .atWait 18 wd,
    .atArm 18 wd, .atTimerExpiry 18, .waitframe 18 wd, .waitframeTimeout 18, .takeadd 18 wd, .takearm 18 wd, .takedrop 18 wd, .slotOn 18 wd,
    .slotOff 18 wd, .slotClear 18 wd, .slotDeclare 18 wd, .slotStatus 18 wd, .budgetCap 18 wd, .budgetLimit 18 wd, .budgetRead 18 wd,
    .paceTarget 18 wd, .paceLoop 18 wd, .paceReadStatus 18 wd, .paceReadVcore 18 wd, .snapFreeze 18 wd, .snapRelease 18 wd, .count 18 wd, .log 18 wd,
    .tenantCreate 18 wd, .tenantRemove 18 wd, .tenantTimeout 18 wd, .tenantCounterRead 18 wd, .resetuPort 18 wd, .resetuQuire 18 wd,
    .resetuTenant 18 wd, .resetuPoolChannel 18 wd, .resetuSlot 18 wd, .resetuContext 18 wd, .resetuMoverChannel 18 wd, .resetuCommandPort 18 wd,
    .resetuCoherentDomain 18 wd, .unitResetEnd 0 96, .unitResetEnd 1 12, .unitResetEnd 2 16, .unitResetEnd 3 12, .unitResetEnd 4 32] : List Instr).all fun i => !i.wf) = true := by decide

theorem test_wf_5 : (([
    .unitResetEnd 5 18, .unitResetEnd 6 72, .unitResetEnd 7 2, .unitResetEnd 8 0, .glbHoldWrite 8 0, .couchToSpare 18 wd, .couchHome 18 wd,
    .couchHandoverEnd 12 0, .qpeSelfTestEnd 12 true, .lockLifecycle 18 wd, .lockRevoke 18 wd, .lockSvn 18 wd, .lockFuseKey 18 wd, .image 18 wd,
    .resume 18 wd, .frameRefEdge 4 0, .frameEdgeMissing 4, .frameRefEnable 4 0, .frameRefDisable 4, .frameOutPulse 2, .takePrepared 64,
    .takeReadinessPoint 64, .takeApplication [63, 64], .takeCommitWrite 64, .msgJoin 96 mg0, .msgJoinAck 96 mg0, .msgBlock 96 mg0, .msgResult 96 mg0,
    .msgHeartbeat 96 mg0, .msgTime 96 mg0, .msgTakeReady 96 mg0, .msgTakeCommit 96 mg0, .msgTakeDone 96 mg0, .msgTakeover 96 mg0, .msgViral 96 mg0,
    .msgGateway 96 mg0, .gatewayRepeat 96, .gatewayTimeout 96, .stkProxyWrite 512 0, .leafData 96 [], .leafIdle 96 [], .leafNak 96 [],
    .leafMgmt 96 [], .leafInit 96 [], .leafTransmit 96, .replayTimerExpiry 96, .iflRecoveryExit 96, .iflLinkDownTimeout 96, .symbolLockLoss 96 0,
    .symbolLockLoss 0 16] : List Instr).all fun i => !i.wf) = true := by decide

theorem test_wf_6 : (([
    .refclkLoss 4, .refclkRestored 4, .adaptationBurst 12, .adaptationBurstEnd 12, .patternStart 96 0, .patternStop 96, .marginStart 96 0,
    .marginDone 96 0 0 0 true true, .partnerMarginCommand 96 0 true, .partnerMarginCommand 0 16 true, .presenceChange 32 true true,
    .seatedQualified 32, .seatingLost 32, .powerGoodQualified 32, .perstReleaseTimer 32, .rampTimeout 32, .fastTrip 32,
    .breakerThresholdCross 32 true, .breakerExpiry 32, .backoffEnd 32, .retryCountReset 32, .slotGrantRelease 32, .vinWarn 32, .warnRelease 32,
    .vinUndervoltage 32, .vinRestored 32, .passDeviceFailure 32, .tempRefresh [], .thermtrip 9, .cmdLinkTrained 2 {} true, .perstAssert 2,
    .barAccess 2 0 0 true [], .barAccess 0 1 0 true [], .handover 2, .claim 2, .selectorWrite 512 0, .meterSelectWrite 12 0, .linkRecoveryExit 96,
    .patternCheckerSync 96 0 true, .patternCheckerSync 0 16 true, .malformedLeaf 96 [], .perstDeassert 2, .commandLinkHotReset 2, .breakerArmed 32] : List Instr).all fun i => !i.wf) = true := by decide

/-! ## Values the spec works out -/

/-- What holds of the next state. -/
def after (r : Res) (p : State → Bool) : Bool := match r with | .next t => p t | _ => false

/-- The words R219 works out: BR.NE back by eight instructions. -/
theorem test_br_word : wordA 0x03 (wd (cond := 2) (imm := 0xFFFFFFF8)) = 0x03000200FFFFFFF8 := by decide

/-- S0 at 0x8090 of the program store, which holds the bytes R219 works out. -/
def brS (z : Bool) : State :=
  let s := modCtx State.reset 0 fun x => { x with st := .ready, run := .prog none, pc := 0x8090, z := z }
  { s with seq := { s.seq with ps := wrBytes [] 0x8090 [0xF8, 0xFF, 0xFF, 0xFF, 0x00, 0x02, 0x00, 0x03] } }
/-- R219: it goes to 0x8020 where Z is clear, on where Z is set. -/
theorem test_br_taken : after (exec (.br 0 (wd (cond := 2) (imm := 0xFFFFFFF8))) (brS false)) (fun t => (getCtx t 0).pc == 0x8020) = true := by decide
theorem test_br_not_taken : after (exec (.br 0 (wd (cond := 2) (imm := 0xFFFFFFF8))) (brS true)) (fun t => (getCtx t 0).pc == 0x80A0) = true := by decide

/-- R239: 2^64 - 1 + 1 is 0 with a carry and no overflow; 2^63 - 1 + 1 overflows into the sign. -/
theorem test_add_wraps : after (exec (.add 0 (wd 3 1 2 (mod := 1))) (ox 0x12 (wd 3 1 2 (mod := 1)) [(1, 0xFFFFFFFFFFFFFFFF), (2, 1)]))
    (fun t => let x := getCtx t 0; kget x 3 == 0 && x.z && x.c && !x.n && !x.v) = true := by decide
theorem test_add_overflows : after (exec (.add 0 (wd 3 1 2 (mod := 1))) (ox 0x12 (wd 3 1 2 (mod := 1)) [(1, 0x7FFFFFFFFFFFFFFF), (2, 1)]))
    (fun t => let x := getCtx t 0; kget x 3 == 0x8000000000000000 && !x.z && !x.c && x.n && x.v) = true := by decide

/-- The CRC-64 of the ASCII digits 1 to 9 (R344). -/
theorem test_crc64 : crc64 [0x31, 0x32, 0x33, 0x34, 0x35, 0x36, 0x37, 0x38, 0x39] = 0x995DC9BBDF1939FA := by decide +kernel

/-- Worked in the Memory Pool chapter: tenant 3's address 0x234567840 lies on channel 4 at 67127057984. -/
def poolS : State :=
  { State.reset with ten := [(3, { exist := true, base := 4096, len := 64 })]
                     pool := { opened := true, grp := [(2, { enable := true, mask := 0x0F0, slots := 4096 })], sheet := [(4131, shMk false 3 0 2 1000 0 0)] } }
theorem test_pool_location : (poolAddr poolS (some 3) 0x234567840).map (fun a => locP poolS (getSheet poolS 4131) a) = some (4, 67127057984) := by decide

/-- Worked in the Fabric Hierarchy chapter: proxy 16 of domain 2 is device 0x020 of domain 7. -/
theorem test_proxy : after (exec (.stkProxyWrite 16 0x87000020) State.reset) (fun t => getProxy t 16 == 0x87000020) = true := by decide

/-! ## The machine -/

/-- A deckle of tenant 0 over the pool lines 0 to 1, its lock bit set, in a table whose other entries are empty; one byte of DRAM. -/
def held : State :=
  { State.reset with
    dkl := { State.reset.dkl with tab := [(3, { w0 := 0xC000000000000000, w1 := 0 })] }
    pool := { State.reset.pool with mem := [(5, 7)] } }

theorem witness_EmptyQueueTicks (h : Obligations.EmptyQueueTicks) :
    (∃ t, step State.reset = .next t) ∧ ∃ t, step { State.reset with glb := { State.reset.glb with inReset := true } } = .next t :=
  ⟨comp ((h State.reset rfl).2 rfl), nx ((h { State.reset with glb := { State.reset.glb with inReset := true } } rfl).1 rfl)⟩

theorem witness_StepKeepsTheForms (h : Obligations.StepKeepsTheForms) : ∃ t, step held = .next t ∧ Inv t :=
  have inv : Inv held := ⟨by decide, by decide, fun i j hij => by
    by_cases hj : j = 3
    · have n : ¬3 = i := fun k => hij (k.symm.trans hj.symm)
      have e : tget {} held.dkl.tab i = {} := by simp [held, tget, n]
      rw [e, dklOverlap_symm]; exact dklOverlap_empty _
    · have e : tget {} held.dkl.tab j = {} := by simp [held, tget, Ne.symm hj]
      rw [e]; exact dklOverlap_empty _⟩
  thn ⟨_, rfl⟩ (h held · inv)

theorem witness_CommandsLeaveTheQueue (h : Obligations.CommandsLeaveTheQueue) :
    (∃ t, exec .setNow { State.reset with pending := [.bootGo] } = .next t ∧ t.pending = [.bootGo]) ∧
    ∃ t, step { State.reset with pending := [.setNow, .bootGo] } = .next t ∧ t.pending = [.bootGo] :=
  ⟨thn ⟨_, rfl⟩ (h.1 _ _), thn ⟨_, rfl⟩ (h.2 _)⟩

theorem witness_FusesAreOneWay (h : Obligations.FusesAreOneWay) :
    ∃ t, step { State.reset with glb := { State.reset.glb with svn := 3, keyValid := 1, fuse := some (0, .svn 4) }, pending := [.fuseWriteDone] } = .next t ∧
      3 ≤ t.glb.svn :=
  thn ⟨_, rfl⟩ fun _ e => (h _ _ e).svn

theorem witness_CommandsComplete (h : Obligations.CommandsComplete) :
    runs (.flitSend 95) State.reset ∧ exec (.flitSend 96) State.reset = .fault .noSuchUnit ∧ runs (.egressSelection 108) State.reset ∧
    exec (.egressSelection 109) State.reset = .fault .noSuchUnit :=
  ⟨(h _ _).1 rfl, (h _ _).2 rfl, (h _ _).1 rfl, (h _ _).2 rfl⟩

theorem witness_CommandsTouchOnly (h : Obligations.CommandsTouchOnly) : ∃ t, exec .keyLockWrite State.reset = .next t ∧ onlyIn [.stk] State.reset t :=
  thn ⟨_, rfl⟩ (h _ _)

theorem witness_EmissionsOnlyGrow (h : Obligations.EmissionsOnlyGrow) :
    ∃ t, step { State.reset with pending := [.tapIdcode] } = .next t ∧ ∃ l, t.out = [] ++ l :=
  thn ⟨_, rfl⟩ fun _ e => (h _ _ e).1

theorem witness_LocksOutlastAllButReset (h : Obligations.LocksOutlastAllButReset) :
    (∃ t, step held = .next t ∧ (getDkl t 3).locked = true) ∧ runs .resetNAssert held ∧
    runs .fuseWriteDone { held with glb := { held.glb with fuse := some (0, .life .returned) } } ∧
    ∃ t, exec (.resetuSlot 0 (wd (imm := 0x40000005))) (ox 0xA1 (wd (imm := 0x40000005))) = .next t ∧ t.dkl.tab = [] :=
  ⟨⟨_, rfl, by decide⟩, comp (h.2.1 held rfl), comp (h.2.2.1 _ 0 rfl rfl), thn ⟨_, rfl⟩ (h.2.2.2 _ · _ 0 (wd (imm := 0x40000005)) (by simp))⟩

/-- One directory entry, at way 2 of set 1, with tag 0: line 1. -/
def inDir : State := { State.reset with home := { State.reset.home with dir := [(18, { valid := true, st := .s, ptrs := [0] })] } }

theorem witness_DirectorySetAndTag (h : Obligations.DirectorySetAndTag) :
    (dirLine 18 (getDir inDir 18) = 1) ∧ (0x1FFFFFFFFF : BitVec 37) = 0x1FFFFFFFFF :=
  ⟨(h.2.1 inDir 1 18 (by decide)).2.2, h.2.2 _ _ rfl rfl⟩

/-! ## Register access -/

theorem witness_PairHalvesAreWhole (h : Obligations.PairHalvesAreWhole) :
    let s : State := { State.reset with pairLo := [(.ctx 0, 0x70010, 5)], pairHi := [(.ctx 0, 0x70010, 9)] }
    runs (.regWriteGeneral (.ctx 0) 0x70010 5) s ∧ runs (.pairHighWrite (.ctx 0) 0x70014 7) s ∧ runs (.pairLowRead (.ctx 0) 0x70010) s ∧
      ∃ t, busRead s (.ctx 0) 0x70014 = (some 9, t) :=
  let k := h { State.reset with pairLo := [(.ctx 0, 0x70010, 5)], pairHi := [(.ctx 0, 0x70010, 9)] } (.ctx 0) 0x70010 5 7 0 (by decide) (by decide) (by decide)
  ⟨comp (k.1 (by decide) (by decide) (by decide) (by decide) (by decide) (by decide)),
   nx (k.2.1 (by decide) (by decide) (by decide) (by decide) (by decide) (by decide) (by decide) (by decide) (by decide)),
   comp (k.2.2.1 (by decide) (by decide)),
   (k.2.2.2 9 (by decide) (by decide) (by decide) (by decide)).elim fun t e => ⟨t, e.1⟩⟩

/-- Boot done, link A up and active. -/
def linked : State :=
  { State.reset with glb := { State.reset.glb with bootStage := 4 }, cmd := { State.reset.cmd with linkA := { up := true } } }

theorem witness_SelectorAndPendingShare (h : Obligations.SelectorAndPendingShare) :
    runs (.regWriteGeneral (.ctx 0) 0x52110 17) State.reset ∧ runs (.barAccess 0 0 0x51010 false [0, 0, 0, 0]) linked :=
  ⟨comp ((h _ (.ctx 0) 17 17 (by decide)).1 (by decide)),
   nx ((h linked .linkA 0 0 (by decide)).2.2 0 [0, 0, 0, 0] (by decide) (by decide) (by decide) (by decide) (by decide))⟩

/-! ## Instructions -/

/-- k[a] = k1, k[b] = k2, the result to k3; the flags asked for. -/
def alu : Ox := wd 3 1 2 (mod := 1)
/-- The amount 63, the largest a shift takes, in k2. -/
def aluK : Tab W64 := [(1, 0x8000000000000000), (2, 63)]
/-- The amount 64 in the immediate. -/
def shf : Ox := wd 3 1 (mod := 0x20) (imm := 64)

theorem witness_ArithmeticLogicAndShifts (h : Obligations.ArithmeticLogicAndShifts) :
    runs (.add 0 alu) (ox 0x12 alu aluK) ∧ runs (.sub 0 alu) (ox 0x13 alu aluK) ∧ runs (.mul 0 alu) (ox 0x14 alu aluK) ∧
    runs (.divu 0 alu) (ox 0x16 alu []) ∧ runs (.remu 0 alu) (ox 0x17 alu []) ∧ runs (.and 0 alu) (ox 0x18 alu aluK) ∧
    runs (.or 0 alu) (ox 0x19 alu aluK) ∧ runs (.xor 0 alu) (ox 0x1A alu aluK) ∧ runs (.shl 0 alu) (ox 0x1B alu aluK) ∧
    runs (.shr 0 alu) (ox 0x1C alu aluK) ∧ runs (.sar 0 alu) (ox 0x1D alu aluK) ∧ runs (.sar 0 shf) (ox 0x1D shf) :=
  ⟨comp ((h.1 _ 0 alu).1 (iss (by decide))), comp ((h.1 _ 0 alu).2.1 (iss (by decide))), comp ((h.1 _ 0 alu).2.2.1 (iss (by decide))),
   comp ((h.1 _ 0 alu).2.2.2.1 (iss (by decide))), comp ((h.1 _ 0 alu).2.2.2.2.1 (iss (by decide))),
   comp ((h.1 _ 0 alu).2.2.2.2.2.1 (iss (by decide))), comp ((h.1 _ 0 alu).2.2.2.2.2.2.1 (iss (by decide))),
   comp ((h.1 _ 0 alu).2.2.2.2.2.2.2 (iss (by decide))), comp (((h.2 _ 0 alu).1 (iss (by decide))).1 (by decide)),
   comp (((h.2 _ 0 alu).2.1 (iss (by decide))).1 (by decide)), comp (((h.2 _ 0 alu).2.2 (iss (by decide))).1 (by decide)),
   comp (((h.2 _ 0 shf).2.2 (iss (by decide))).2 (by decide))⟩

/-- k1 to k3. -/
def mv1 : Ox := wd 3 1
/-- Bits 63 of k1: position 63, width 1. -/
def fld1 : Ox := wd 3 1 (imm := 0x13F)
/-- A comparison of k1 with k2. -/
def cmp12 : Ox := wd 0 1 2

theorem witness_ComparesMovesAndBitFields (h : Obligations.ComparesMovesAndBitFields) :
    runs (.cmp 0 cmp12) (ox 0x1E cmp12 aluK) ∧ runs (.tst 0 cmp12) (ox 0x1F cmp12 aluK) ∧
    runs (.movi 0 (wd 3 (B := 9))) (ox 0x10 (wd 3 (B := 9))) ∧ runs (.mov 0 mv1) (ox 0x11 mv1 aluK) ∧
    runs (.mulhu 0 (wd 3 1 2)) (ox 0x15 (wd 3 1 2) aluK) ∧ runs (.min 0 alu) (ox 0x20 alu aluK) ∧ runs (.max 0 alu) (ox 0x21 alu aluK) ∧
    runs (.clz 0 mv1) (ox 0x22 mv1 []) ∧ runs (.popc 0 mv1) (ox 0x23 mv1 aluK) ∧ runs (.bfx 0 fld1) (ox 0x24 fld1 aluK) ∧
    runs (.bfi 0 fld1) (ox 0x25 fld1 aluK) :=
  ⟨comp ((h.1 _ 0 _).1 (iss (by decide))), comp ((h.1 _ 0 _).2 (iss (by decide))),
   (h.2 _ 0 _).1 (iss (by decide)) |>.elim fun t k => ⟨t, k.elim fun _ k => k.1⟩,
   (h.2 _ 0 _).2.1 (iss (by decide)) |>.elim fun t k => ⟨t, k.elim fun _ k => k.1⟩,
   (h.2 _ 0 _).2.2.1 (iss (by decide)) |>.elim fun t k => ⟨t, k.elim fun _ k => k.1⟩,
   (h.2 _ 0 _).2.2.2.1 (iss (by decide)) |>.elim fun t k => ⟨t, k.elim fun _ k => k.1⟩,
   (h.2 _ 0 _).2.2.2.2.1 (iss (by decide)) |>.elim fun t k => ⟨t, k.elim fun _ k => k.1⟩,
   (h.2 _ 0 _).2.2.2.2.2.1 (iss (by decide)) |>.elim fun t k => ⟨t, k.elim fun _ k => k.1⟩,
   (h.2 _ 0 _).2.2.2.2.2.2.1 (iss (by decide)) |>.elim fun t k => ⟨t, k.elim fun _ k => k.1⟩,
   (h.2 _ 0 _).2.2.2.2.2.2.2.1 (iss (by decide)) (by decide) (by decide) |>.elim fun t k => ⟨t, k.elim fun _ k => k.1⟩,
   (h.2 _ 0 _).2.2.2.2.2.2.2.2 (iss (by decide)) (by decide) (by decide) |>.elim fun t k => ⟨t, k.elim fun _ k => k.1⟩⟩

/-- After reset, with S0 running from the program store at `pc`, where the instruction stands. -/
def atPc (op : Nat) (w : Ox) (pc : BitVec 20) (k : Tab W64 := []) (stack : List Frame := []) : State :=
  let s := modCtx State.reset 0 fun x => { x with st := .ready, run := .prog none, pc := pc, k := k, stack := stack }
  { s with seq := { s.seq with ps := wrBytes [] pc.toNat (natLe 8 (wordA op w).toNat ++ natLe 8 w.B.toNat) } }

/-- A branch two instructions back. -/
def back : Ox := wd (imm := 0xFFFFFFFE)
/-- A call through k1. -/
def call1 : Ox := wd (a := 1) (mod := 2)
/-- A fence over stores. -/
def fence1 : Ox := wd (mod := 1)

theorem witness_ControlInstructions (h : Obligations.ControlInstructions) :
    runs (.nop 0 (wd)) (ox 0x00 (wd)) ∧ runs (.yield 0 (wd)) (ox 0x09 (wd)) ∧ runs (.halt 0 (wd)) (ox 0x01 (wd)) ∧
    runs (.fence 0 fence1) (ox 0x08 fence1) ∧ runs (.fence 0 fence1) (modCtx (ox 0x08 fence1) 0 fun x => { x with stores := 1 }) ∧
    runs (.undefinedOpcode 0 0xFF (wd)) (ox 0xFF (wd)) ∧ runs (.jump 0 (wd (B := 0xFFFF0))) (atPc 0x02 (wd (B := 0xFFFF0)) 0) ∧
    runs (.br 0 back) (atPc 0x03 back 0x10) ∧ runs (.call 0 call1) (atPc 0x04 call1 0x20 [(1, 0x100)]) ∧
    runs (.ret 0 (wd)) (atPc 0x05 (wd) 0x20 [] [{ ret := 0x40 }]) :=
  ⟨comp ((h.1 _ 0 _).1 (iss (by decide))), comp ((h.1 _ 0 _).2.1 (iss (by decide))), comp ((h.1 _ 0 _).2.2.1 (iss (by decide))),
   comp ((h.1 _ 0 _).2.2.2.1 (iss (by decide)) (by decide)), comp ((h.1 _ 0 _).2.2.2.2.1 (iss (by decide)) (by decide)),
   comp ((h.1 _ 0 (wd)).2.2.2.2.2 0xFF (by decide) (by decide) (by decide) (by decide)),
   comp ((h.2 (atPc 0x02 (wd (B := 0xFFFF0)) 0) 0 (wd (B := 0xFFFF0)) none rfl).1 (iss (by decide)) (by decide) (by decide) (by decide)),
   comp ((h.2 (atPc 0x03 back 0x10) 0 back none rfl).2.1 (iss (by decide)) (by decide) (by decide)),
   ((h.2 (atPc 0x04 call1 0x20 [(1, 0x100)]) 0 call1 none rfl).2.2.1 (iss (by decide)) (by decide) (by decide) (by decide) (by decide)).elim fun _ k => comp k.2,
   comp ((h.2 (atPc 0x05 (wd) 0x20 [] [{ ret := 0x40 }]) 0 (wd) none rfl).2.2.2 { ret := 0x40 } [] (iss (by decide)) rfl (.inr rfl))⟩

/-- WAITEV for line 19, the last, by immediate; its poll form. -/
def wait19 : Ox := wd 3 (mod := 0x20) (imm := 0x80000)
def poll19 : Ox := wd 3 (mod := 0x21) (imm := 0x80000)
/-- SIGNAL of line 7 in S1. -/
def sig1 : Ox := wd (imm := 0x701)
def mask1 : Ox := wd 3 1 (mod := 1)

theorem witness_EventInstructions (h : Obligations.EventInstructions) :
    runs (.waitev 0 poll19) (ox 0x06 poll19) ∧ runs (.waitev 0 wait19) (ox 0x06 wait19) ∧
    runs (.waitSatisfied 0) (modCtx State.reset 0 fun x => { x with st := .waiting, wait := .ev 0x80000 3, evp := 0x80000 }) ∧
    runs (.signal 0 sig1) (ox 0x07 sig1) ∧ runs (.signalMask 0 mask1) (ox 0x07 mask1 [(1, 0xFFFFFFFF)]) :=
  ⟨comp (((h _ 0 poll19).1 (iss (by decide)) (by decide) (by decide) (by decide)).1 (by decide)),
   comp (((h _ 0 wait19).1 (iss (by decide)) (by decide) (by decide) (by decide)).2 (by decide)),
   comp ((h (modCtx State.reset 0 fun x => { x with st := .waiting, wait := .ev 0x80000 3, evp := 0x80000 }) 0 (wd)).2.1 0x80000 3
     (by decide) (by decide) (by decide) (by decide)),
   comp ((h _ 0 sig1).2.2.1 (iss (by decide)) (by decide) (by decide) (by decide) (by decide) (by decide)),
   comp ((h _ 0 mask1).2.2.2 (iss (by decide)) (by decide) (by decide))⟩

/-- LD and ST of 8 bytes: from the pool, the fabric (PBR ID 5) and the program store; ATOM add of 8 bytes. -/
def ldPool : Ox := wd 3 1 (mod := 3)
def ldFab : Ox := wd 3 1 (mod := 0xB) (B := 5)
def ldPs : Ox := wd 3 1 (mod := 0x13) (imm := 0xFFFFFFF8)
def atomPool : Ox := wd 3 1 2 (mod := 8)
def stPool : Ox := wd 0 1 2 (mod := 3)
def stPs : Ox := wd 0 1 2 (mod := 0x13)
/-- The last aligned address of the pool; one past the end of the program store. -/
def memK : Tab W64 := [(1, 0x5FFFFFFFFF8), (2, 7)]
def atEnd : Tab W64 := [(1, 0x100000), (2, 7)]

theorem witness_LoadsAndAtomics (h : Obligations.LoadsAndAtomics) :
    runs (.ld 0 ldPool) (ox 0x30 ldPool memK) ∧
    runs (.ld 0 ldFab) { ox 0x30 ldFab memK with quire := [(0, { route := [(5, 0xB0000000)] })] } ∧ runs (.ld 0 ldPs) (ox 0x30 ldPs atEnd) ∧
    runs (.atom 0 atomPool) (ox 0x34 atomPool memK) ∧
    runs (.loadDataReturn 0) (modCtx State.reset 0 fun x => { x with st := .waiting, wait := .load 0x30 3 8 true, reply := some ⟨0x80, false⟩ }) ∧
    runs (.loadDataReturn 0) (modCtx State.reset 0 fun x => { x with st := .waiting, wait := .load 0x30 3 8 true, reply := some ⟨0, true⟩ }) :=
  ⟨comp ((h _ 0 ldPool).1 (iss (by decide)) (by decide) (by decide) (by decide) (by decide)),
   comp ((h _ 0 ldFab).1 (iss (by decide)) (by decide) (by decide) (by decide) (by decide)),
   comp ((h _ 0 ldPs).1 (iss (by decide)) (by decide) (by decide) (by decide) (by decide)),
   comp ((h _ 0 atomPool).2.1 (iss (by decide)) (by decide) (by decide) (by decide) (by decide)),
   comp (((h (modCtx State.reset 0 fun x => { x with st := .waiting, wait := .load 0x30 3 8 true, reply := some ⟨0x80, false⟩ }) 0 (wd)).2.2 _ _ _ _ _ (by decide) rfl rfl).1 rfl),
   comp (((h (modCtx State.reset 0 fun x => { x with st := .waiting, wait := .load 0x30 3 8 true, reply := some ⟨0, true⟩ }) 0 (wd)).2.2 _ _ _ _ _ (by decide) rfl rfl).2 rfl)⟩

theorem witness_StoresAndRegisterAccess (h : Obligations.StoresAndRegisterAccess) :
    runs (.st 0 stPool) (ox 0x31 stPool memK) ∧ runs (.st 0 stPs) (ox 0x31 stPs [(1, 0xFFFF8)]) ∧
    runs (.ldc 0 (wd 3 1 (mod := 1))) (ox 0x32 (wd 3 1 (mod := 1)) [(1, 0x70010)]) ∧
    runs (.stc 0 (wd 0 1 2)) (ox 0x33 (wd 0 1 2) [(1, 0xFFFFFC)]) :=
  ⟨comp ((h _ 0 stPool).1 (iss (by decide)) (by decide) (by decide) (by decide) (by decide)),
   comp ((h _ 0 stPs).1 (iss (by decide)) (by decide) (by decide) (by decide) (by decide)),
   comp ((h _ 0 _).2.1 (iss (by decide)) (by decide) (by decide) (by decide)),
   comp ((h _ 0 _).2.2 (iss (by decide)) (by decide) (by decide) (by decide))⟩

/-! ## Fabric instructions -/

/-- A deckle write of entry 8191, staged; S0 stages into set 63. -/
def stg : Ox := wd 0 1 (mod := 0x10) (imm := 0x1FFF) (B := 0x8000000000000000)
/-- An activate of sheet 24575, which is not valid. -/
def actNo : Ox := wd (imm := 0x30005FFF)

theorem witness_FabricItemsStagedOrRefused (h : Obligations.FabricItemsStagedOrRefused) :
    runs (.deckleWrite 0 stg) { modCtx (ox 0x44 stg) 0 (fun x => { x with staging := some 63 }) with
      time := { take := [(63, { st := .staging, owner := 0 })] } } ∧ runs (.sheetActivate 0 actNo) (ox 0x45 actNo) :=
  ⟨comp (h.1 _ _ 0 0x44 0 stg 63 (fab (by decide)) (by decide) (by decide) (by decide) (by decide) (by decide) (by decide)),
   comp (h.2 _ _ 0 0x45 3 actNo (fab (by decide)) (by decide) (by decide))⟩

/-- Tenant 1 exists; port 4 is a host edge of it with BI active, port 5 a downstream edge with a type 3 device. -/
def bound (s : State) : State :=
  { s with ten := [(1, { exist := true })], port := [(4, { cfg := 0x90001005, mode := 1, biActive := true }), (5, { cfg := 0xA0001006, mode := 1, dev := .type3 })] }
def bindHost : Ox := wd 3 (imm := 0x0001) (B := 4)
def bindDev : Ox := wd 3 (imm := 0x13F1) (B := 5)
def bindFar : Ox := wd 3 (imm := 0x3011) (B := 0xFFF00000000)
def unbSharer : Ox := wd (imm := 0x4001) (B := 127)
def unbDev : Ox := wd (imm := 0x13F1)

theorem witness_BindAndUnbind (h : Obligations.BindAndUnbind) :
    runs (.bind 0 bindHost) (bound (ox 0x40 bindHost)) ∧ runs (.bind 0 bindDev) (bound (ox 0x40 bindDev)) ∧
    runs (.bind 0 bindFar) (bound (ox 0x40 bindFar)) ∧
    runs (.unbind 0 unbSharer) { ox 0x41 unbSharer with ten := [(1, { exist := true, sharer := [(127, { valid := true, port := 4, pbr := 5 })] })] } ∧
    runs (.unbind 0 unbDev) { bound (ox 0x41 unbDev) with ten := [(1, { exist := true, vppb := [(63, { bind := .dev 5 })] })] } :=
  ⟨comp ((h _ 0 bindHost).1 (fab (by decide)) (by decide) (by decide) (by decide) (by decide) (by decide) (by decide)
     fun _ _ => ⟨0, by decide⟩),
   comp ((h _ 0 bindDev).1 (fab (by decide)) (by decide) (by decide) (by decide) (by decide) (by decide) (by decide)
     fun _ _ => ⟨0, by decide⟩),
   comp ((h _ 0 bindFar).1 (fab (by decide)) (by decide) (by decide) (by decide) (by decide) (by decide) (by decide)
     fun _ _ => ⟨0, by decide⟩),
   comp ((h _ 0 unbSharer).2.1 (fab (by decide)) (by decide) (by decide) (by decide) (by decide)),
   comp ((h _ 0 unbDev).2.2 (fab (by decide)) (by decide) (by decide) (by decide) (fun _ => rfl) (by decide))⟩

/-- PBR ID 4095 goes to EN, in quires 0 and 11. -/
def rtEnt : Ox := wd (imm := 0x0FFF0801) (B := 0xC0000000)
/-- Group 63 gets the one member port 95. -/
def rtMem : Ox := wd (imm := 0x103F0000) (B := 0x010000000000005F)
def rtRead : Ox := wd 3 (imm := 0x5FFF000B)

def rtBkt : Ox := wd (imm := 0x203F0000)
def rtSeed : Ox := wd (imm := 0x30000000) (B := 9)
def rtHash : Ox := wd (imm := 0x40000000) (B := 63)

theorem bucket0 (i : Nat) : bucketAt rtBkt.B 0 0 i = 0 := by
  show 0 / 2 ^ (3 * i) % 8 = 0
  rw [Nat.zero_div]

theorem witness_RouteInstructions (h : Obligations.RouteInstructions) :
    runs (.routeEntry 0 rtEnt) (ox 0x42 rtEnt) ∧ runs (.routeMembers 0 rtMem) { ox 0x42 rtMem with port := [(95, { cfg := 0xB0000000 })] } ∧
    runs (.routeRead 0 rtRead) (ox 0x42 rtRead) :=
  ⟨comp ((h _ 0 rtEnt).1 (fab (by decide))), comp ((h _ 0 rtMem).2.1 (fab (by decide)) (by decide)),
   comp ((h _ 0 rtRead).2.2.1 (fab (by decide)))⟩

theorem witness_RouteInstructions_take (h : Obligations.RouteInstructions) :
    let s : State := { State.reset with core := { ecmp := [(63, { members := [95] })] } }
    (fabApply s 0 0x42 rtBkt.imm rtBkt.B 0 0).st = 0 ∧ (fabApply s 0 0x42 rtSeed.imm rtSeed.B 0 0).s.core.hashSeed = lo32 rtSeed.B ∧
    (fabApply s 0 0x42 rtHash.imm rtHash.B 0 0).s.core.hashShift = fld rtHash.B 0 6 :=
  ⟨((h _ 0 rtBkt).2.2.2.1 0 0 (by decide) fun i _ => by rw [bucket0]; decide).1,
   (h _ 0 rtSeed).2.2.2.2.1 0 0 (by decide), ((h _ 0 rtHash).2.2.2.2.2 0 0 (by decide)).1⟩

/-- Group 1023: header with 16 members counted; its member 15; a stale member made available again; free; partition 15; a read. -/
def mcHdr : Ox := wd (imm := 0x3FF) (B := 0x8100000000000000)
def mcMem : Ox := wd (imm := 0x100F03FF) (B := 0x4FFF000000000000)
def mcSt : Ox := wd (imm := 0x200F03FF) (B := 0x4000000000000000)
def mcFree : Ox := wd (imm := 0x300003FF)
def mcOwn : Ox := wd (imm := 0x4000000F) (B := 2)
def mcRead : Ox := wd 3 (imm := 0x501F03FF)

theorem witness_MulticastInstructions (h : Obligations.MulticastInstructions) :
    runs (.mcastHeader 0 mcHdr) (ox 0x43 mcHdr) ∧ runs (.mcastMember 0 mcMem) (ox 0x43 mcMem) ∧
    runs (.mcastState 0 mcSt) { ox 0x43 mcSt with core := { rgrp := [(1023, { member := [(15, 0xC000000000000000)] })] } } ∧
    runs (.mcastFree 0 mcFree) (ox 0x43 mcFree) ∧ runs (.mcastOwner 0 mcOwn) (ox 0x43 mcOwn) ∧ runs (.mcastRead 0 mcRead) (ox 0x43 mcRead) :=
  ⟨comp ((h _ 0 mcHdr).1 (fab (by decide)) (by decide) (by decide)),
   comp ((h _ 0 mcMem).2.1 (fab (by decide)) (by decide) (by decide) (by decide)),
   comp ((h _ 0 mcSt).2.2.1 (fab (by decide)) (by decide) (by decide)), comp ((h _ 0 mcFree).2.2.2.1 (fab (by decide)) (by decide)),
   comp ((h _ 0 mcOwn).2.2.2.2.1 (fab (by decide)) (by decide) (by decide) (by decide)), comp ((h _ 0 mcRead).2.2.2.2.2 (fab (by decide)))⟩

/-- Entry 8191, of tenant 0's fabric space. -/
def dkW : Ox := wd 0 1 (imm := 0x1FFF) (B := 0x9000000000000000)
def dkInv : Ox := wd (imm := 0x11FFF)
def dkLock : Ox := wd (imm := 0x21FFF)

theorem witness_DeckleInstructions (h : Obligations.DeckleInstructions) :
    runs (.deckleWrite 0 dkW) (ox 0x44 dkW [(1, 0xFFF)]) ∧ runs (.deckleInvalidate 0 dkInv) (ox 0x44 dkInv) ∧
    runs (.deckleSetLock 0 dkLock) { ox 0x44 dkLock with dkl := { tab := [(8191, { w0 := 0x8000000000000000 })] } } :=
  ⟨comp ((h _ 0 dkW).1 (fab (by decide)) (by decide) (by decide) (by decide)),
   comp ((h _ 0 dkInv).2.1 (fab (by decide)) (by decide) (by decide)), comp ((h _ 0 dkLock).2.2 (fab (by decide)) (by decide))⟩

/-- Groups 0 and 15 enabled over different channels, with 4 slots each; sheet 24575 as given. -/
def pooled (e : W64) (s : State) : State :=
  { s with pool := { opened := true, grp := [(0, { enable := true, slots := 4, mask := 1 }), (15, { enable := true, slots := 4, mask := 2 })],
                     sheet := [(24575, e)] } }
/-- Sheet 24575 with its op; the entry is tenant 1's, primary in slot 3 of group 0, secondary in slot 2 of group 15 where it has one. -/
def sh (op : BitVec 32) (B : W64 := 0) : Ox := wd (if op = 8 then 3 else 0) (imm := op * 0x10000000 + 0x5FFF) (B := B)
def shE (mst : Nat) : W64 := shMk false 1 mst 0 3 15 2
def shGrant : W64 := 0x0400000000000000 + 3 * 0x1000000000
def shAtt : W64 := 15 * 0x100000000 + 2 * 0x20000

theorem witness_SheetInstructions (h : Obligations.SheetInstructions) :
    runs (.sheetGrant 0 (sh 0 shGrant)) (pooled 0 (ox 0x45 (sh 0 shGrant))) ∧ runs (.sheetFree 0 (sh 1)) (pooled (shE 0) (ox 0x45 (sh 1))) ∧
    runs (.sheetAttach 0 (sh 2 shAtt)) (pooled (shE 0) (ox 0x45 (sh 2 shAtt))) ∧ runs (.sheetActivate 0 (sh 3)) (pooled (shE 1) (ox 0x45 (sh 3))) ∧
    runs (.sheetSwap 0 (sh 4)) (pooled (shE 2) (ox 0x45 (sh 4))) ∧ runs (.sheetDetach 0 (sh 5)) (pooled (shE 2) (ox 0x45 (sh 5))) ∧
    runs (.sheetRetire 0 (sh 6 1)) (pooled (shE 2) (ox 0x45 (sh 6 1))) ∧ runs (.sheetQuery 0 (sh 8)) (pooled (shE 2) (ox 0x45 (sh 8))) :=
  ⟨comp ((h.1 _ 0 _).1 (fab (by decide)) (by decide) (by decide)), comp ((h.1 _ 0 _).2.1 (fab (by decide)) (by decide) (by decide) (by decide)),
   comp ((h.1 _ 0 _).2.2.1 (fab (by decide)) (by decide) (by decide) (by decide) (by decide)),
   comp ((h.1 _ 0 _).2.2.2.1 (fab (by decide)) (by decide) (by decide)), comp ((h.1 _ 0 _).2.2.2.2.1 (fab (by decide)) (by decide) (by decide)),
   comp ((h.1 _ 0 _).2.2.2.2.2.1 (fab (by decide)) (by decide) (by decide)),
   comp ((h.1 _ 0 _).2.2.2.2.2.2.1 (fab (by decide)) (by decide) (by decide)), comp ((h.1 _ 0 _).2.2.2.2.2.2.2 (fab (by decide)))⟩

/-- Tenant 1's ream: sheet 24575 alone; nothing, which shrinks it. -/
def ream1 : Ox := wd (imm := 0x70000000) (B := 0x100000000 + 24575 * 0x10000 + 1)
def ream0 : Ox := wd (imm := 0x70000000) (B := 0x100000000)

theorem witness_SheetReam (h : Obligations.SheetInstructions) :
    runs (.sheetReam 0 ream1) { pooled (shE 0) (ox 0x45 ream1) with ten := [(1, { exist := true })] } ∧
    runs (.sheetReam 0 ream0) { pooled (shE 0) (ox 0x45 ream0) with ten := [(1, { exist := true, base := 24575, len := 1 })] } :=
  ⟨comp ((h.2 _ 0 ream1 (fab (by decide)) (by decide) (by decide)).1 (by decide)),
   comp ((h.2 _ 0 ream0 (fab (by decide)) (by decide) (by decide)).2 (by decide))⟩

/-- Session 7 of the Steward at analysis port 95, mirroring PBR ID pairs, its ring 2^12 bytes. -/
def mirEn : Ox := wd 0 1 2 (imm := 0xC07) (B := 0x30000000 + 95 * 0x4000 + 0x200000)
def mirDis : Ox := wd (imm := 0x17)
def mirRd : Ox := wd 3 (imm := 0x27)
def mirOnT : Tab Mirror := [(7, { ctrl := 0x80200000 })]
/-- Meter 2047 of quire 11, off. -/
def mtCfg : Ox := wd 0 1 (imm := 0x0B0007FF) (B := 0x8400000000100001)
def mtBind : Ox := wd (imm := 0x1B5F0000) (B := 0x400007FF)
def mtRead : Ox := wd 3 (imm := 0x2B0057FF)

theorem witness_MirrorAndMeterInstructions (h : Obligations.MirrorAndMeterInstructions) :
    runs (.mirrorEnable 0 mirEn) { ox 0x46 mirEn [(1, 0x1000), (2, 0x2000)] with port := [(95, { cfg := 0xA0000007, link := .up })] } ∧
    runs (.mirrorDisable 0 mirDis) { ox 0x46 mirDis with core := { mirror := mirOnT } } ∧
    runs (.mirrorDisable 0 mirDis) { ox 0x46 mirDis with core := { mirror := mirOnT, pkts := [{ id := 1, msg := { op := .ioWr }, org := .mirror 7, ing := 108 }] } } ∧
    runs (.mirrorReadLost 0 mirRd) (ox 0x46 mirRd) ∧
    runs (.meterConfigure 0 mtCfg) (ox 0x47 mtCfg [(1, 0x00800080)]) ∧ runs (.meterBind 0 mtBind) (ox 0x47 mtBind) ∧
    runs (.meterRead 0 mtRead) (ox 0x47 mtRead) :=
  have none_ : ∀ q j o, meterOwner (getMeter (ox 0x47 mtBind) q j) ≠ some o := fun q j o e => by
    rw [show getMeter (ox 0x47 mtBind) q j = {} from rfl, show meterOwner {} = none by decide] at e; cases e
  ⟨comp ((h.1 _ 0 mirEn).1 (fab (by decide)) (by decide) (by decide) (by decide) (by decide) (by decide) (by decide)),
   comp ((h.1 _ 0 mirDis).2.1 (fab (by decide)) (by decide) (by decide) (by decide)),
   comp ((h.1 _ 0 mirDis).2.2.1 (fab (by decide)) (by decide) (by decide) (by decide)),
   comp ((h.1 _ 0 mirRd).2.2.2 (fab (by decide)) (by decide)),
   comp ((h.2 _ 0 mtCfg).1 (fab (by decide)) (fun _ e => by cases e)), comp ((h.2 _ 0 mtBind).2.1 (fab (by decide)) (fun _ _ _ e => absurd e (none_ _ _ _))),
   comp ((h.2 _ 0 mtRead).2.2 (fab (by decide)) (fun _ e => by cases e))⟩

/-- Output 108, class 15, shaper on at the smallest rate. -/
def shp : Ox := wd 0 1 (imm := 0xF6C) (B := 0x0000000180000001)
def prio : Ox := wd (imm := 0x1000005F) (B := 0xFCFFFFFF)
def quant : Ox := wd (imm := 0x20100000) (B := 0xFFF)
/-- Schedule 63: one window at output 108, from input 127. -/
def cdCfg : Ox := wd (imm := 0x3F) (B := 0x001B3F81)
def cdWin : Ox := wd 0 1 (imm := 0xF013F) (B := 0x000003E800000000)
def cdEn : Ox := wd (imm := 0x23F)
def cdDis : Ox := wd (imm := 0x33F)
def cdT : Tab Cad := [(63, { owned := true, ctrl := 0x005B3F81, len := [(0, 1000)], bytes := [(0, 64)] })]

theorem witness_ShapeAndCadenceInstructions (h : Obligations.ShapeAndCadenceInstructions) :
    runs (.shapeShaper 0 shp) (ox 0x48 shp [(1, 0x00010001)]) ∧ runs (.shapePriority 0 prio) (ox 0x48 prio) ∧
    runs (.shapeQuantum 0 quant) (ox 0x48 quant) ∧ runs (.cadenceConfigure 0 cdCfg) (ox 0x49 cdCfg) ∧
    runs (.cadenceWindow 0 cdWin) { ox 0x49 cdWin [(1, 64)] with core := { cad := cdT } } ∧
    runs (.cadenceEnable 0 cdEn) { ox 0x49 cdEn with core := { cad := cdT } } ∧ runs (.cadenceDisable 0 cdDis) { ox 0x49 cdDis with core := { cad := cdT } } :=
  ⟨comp ((h.1 _ 0 shp).1 (fab (by decide))), comp ((h.1 _ 0 prio).2.1 (fab (by decide))),
   comp ((h.1 _ 0 quant).2.2 (fab (by decide)) (by decide)), comp ((h.2 _ 0 cdCfg (by decide)).1 (fab (by decide)) (by decide)),
   comp ((h.2 _ 0 cdWin (by decide)).2.1 (fab (by decide)) (by decide)), comp ((h.2 _ 0 cdEn (by decide)).2.2.1 (fab (by decide)) (by decide)),
   comp ((h.2 _ 0 cdDis (by decide)).2.2.2 (fab (by decide)))⟩

/-! ## Slots, power, pace -/

/-- Slot 31 as given. -/
def slot31 (x : Slot) (s : State := State.reset) : State := { s with slot := [(31, x)] }

theorem witness_SlotPowerEvents (h : Obligations.SlotPowerEvents) :
    runs .slotBudgetGrant { slot31 { st := .waitGrant, seated := true } with pwr := { slotQueue := [31], limit := [(6, 250)] } } ∧
    runs (.breakerArmed 31) (slot31 { st := .ramp }) ∧ runs (.powerGoodQualified 31) (slot31 { st := .ramp, armed := true }) ∧
    runs (.perstReleaseTimer 31) (slot31 { st := .on }) ∧ runs (.rampTimeout 31) (slot31 { st := .ramp }) ∧
    runs (.fastTrip 31) (slot31 { st := .on }) ∧ runs (.breakerThresholdCross 31 true) (slot31 { st := .on }) ∧
    runs (.breakerExpiry 31) (slot31 { st := .on, timer := true }) ∧ runs (.backoffEnd 31) (slot31 { st := .backoff }) ∧
    runs (.retryCountReset 31) (slot31 { st := .on }) ∧ runs (.slotGrantRelease 31) (slot31 { grantDue := true }) :=
  ⟨comp ((h.1 _ 31 (by decide)).1 [] rfl rfl rfl (by decide)), comp ((h.1 _ 31 (by decide)).2.1 rfl),
   comp ((h.1 _ 31 (by decide)).2.2.1 rfl rfl rfl), comp ((h.1 _ 31 (by decide)).2.2.2.1 rfl),
   comp ((h.1 _ 31 (by decide)).2.2.2.2.1 rfl), comp ((h.1 _ 31 (by decide)).2.2.2.2.2.1 (.inr rfl)),
   comp (((h.1 _ 31 (by decide)).2.2.2.2.2.2.1 (.inl rfl)).1 true), comp (((h.1 _ 31 (by decide)).2.2.2.2.2.2.1 (.inl rfl)).2 rfl),
   comp ((h.1 _ 31 (by decide)).2.2.2.2.2.2.2.1 rfl rfl), comp ((h.1 _ 31 (by decide)).2.2.2.2.2.2.2.2.1 rfl),
   comp ((h.1 _ 31 (by decide)).2.2.2.2.2.2.2.2.2 rfl)⟩

theorem witness_SlotOutsideEvents (h : Obligations.SlotPowerEvents) :
    runs (.presenceChange 31 true false) (slot31 {}) ∧ runs (.seatedQualified 31) (slot31 { long := true, short := true, st := .waitSeat }) ∧
    runs (.seatingLost 31) (slot31 { seated := true, st := .waitGrant }) ∧ runs (.vinWarn 31) (slot31 {}) ∧ runs (.warnRelease 31) (slot31 {}) ∧
    runs (.vinUndervoltage 31) (slot31 { st := .on }) ∧ runs (.vinRestored 31) (slot31 { st := .waitVin }) ∧
    runs (.passDeviceFailure 31) (slot31 {}) ∧ runs .controlExchangeLoss State.reset ∧ runs .controlExchangeResume State.reset ∧
    runs (.pwrfailInAssert true) (slot31 { st := .on }) ∧ runs (.pwrfailInAssert false) (slot31 { st := .on }) :=
  ⟨comp ((h.2.1 _ 31 (by decide)).1 true false), comp ((h.2.1 _ 31 (by decide)).2.1 rfl rfl rfl), comp ((h.2.1 _ 31 (by decide)).2.2.1 rfl rfl),
   comp (h.2.1 _ 31 (by decide)).2.2.2.1, comp (h.2.1 _ 31 (by decide)).2.2.2.2.1, comp ((h.2.1 _ 31 (by decide)).2.2.2.2.2.1 (.inr rfl)),
   comp ((h.2.1 _ 31 (by decide)).2.2.2.2.2.2.1 rfl rfl), comp ((h.2.1 _ 31 (by decide)).2.2.2.2.2.2.2.1 (by decide) (by decide) (by decide)),
   comp (h.2.1 _ 0 (by decide)).2.2.2.2.2.2.2.2.1, comp (h.2.1 _ 0 (by decide)).2.2.2.2.2.2.2.2.2, comp (h.2.2 _).1, comp (h.2.2 _).2⟩

/-- SLOT on slot 31. -/
def sl (op : BitVec 32) (B : W64 := 0) : Ox := wd (if op = 4 then 3 else 0) (imm := op * 0x100 + 31) (B := B)

theorem witness_SlotInstructions (h : Obligations.SlotInstructions) :
    runs (.slotOn 0 (sl 0)) (ox 0x80 (sl 0)) ∧ runs (.slotOff 0 (sl 1)) (slot31 { st := .on } (ox 0x80 (sl 1))) ∧
    runs (.slotClear 0 (sl 2)) (slot31 { st := .latched } (ox 0x80 (sl 2))) ∧ runs (.slotDeclare 0 (sl 3 0xFFFF)) (ox 0x80 (sl 3 0xFFFF)) ∧
    runs (.slotStatus 0 (sl 4)) (ox 0x80 (sl 4)) :=
  ⟨comp ((h _ 0 (sl 0) (iss (by decide))).1 (by decide) (by decide) (by decide)),
   comp ((h _ 0 (sl 1) (iss (by decide))).2.1 (by decide) (by decide) (by decide) (by decide) (by decide)),
   comp ((h _ 0 (sl 2) (iss (by decide))).2.2.1 (by decide) (by decide) (by decide)),
   comp ((h _ 0 (sl 3 0xFFFF) (iss (by decide))).2.2.2.1 (by decide) (by decide) (by decide)),
   comp ((h _ 0 (sl 4) (iss (by decide))).2.2.2.2 (.inl (by decide)) (by decide) (by decide))⟩

def bud (op : BitVec 32) (B : W64 := 0) : Ox := wd (if op &&& 0xF = 2 then 3 else 0) (imm := op) (B := B)
def pac (op : BitVec 32) (B : W64 := 0) : Ox := wd (if op &&& 2 = 2 then 3 else 0) (imm := op) (B := B)
def snapF : Ox := wd 3
def snapR : Ox := wd (imm := 1)
def cntR : Ox := wd 3
def cntW : Ox := wd 3 (mod := 2)
def logI : Ox := wd 0 1 (imm := 0xFFFF)

theorem witness_BudgetPaceAndTelemetry (h : Obligations.BudgetPaceAndTelemetry) :
    runs (.budgetCap 0 (bud 0 800)) (ox 0x81 (bud 0 800)) ∧ runs (.budgetCap 0 (bud 0 1650)) (ox 0x81 (bud 0 1650)) ∧
    runs (.budgetLimit 0 (bud 0x601 7)) (ox 0x81 (bud 0x601 7)) ∧ runs (.budgetRead 0 (bud 0xFF02)) (ox 0x81 (bud 0xFF02)) ∧
    runs (.paceTarget 0 (pac 0 2500)) (ox 0x82 (pac 0 2500)) ∧ runs (.paceLoop 0 (pac 1 1)) (ox 0x82 (pac 1 1)) ∧
    runs (.paceReadStatus 0 (pac 2)) (ox 0x82 (pac 2)) ∧ runs (.paceReadVcore 0 (pac 3)) (ox 0x82 (pac 3)) ∧
    runs (.snapFreeze 0 snapF) (ox 0x90 snapF) ∧ runs (.snapRelease 0 snapR) { ox 0x90 snapR with cnt := { frozen := true } } ∧
    runs (.count 0 cntR) (ox 0x91 cntR) ∧ runs (.count 0 cntW) (ox 0x91 cntW) ∧ runs (.log 0 logI) (ox 0x92 logI) :=
  ⟨comp (((h.1 _ 0 (bud 0 800)).1 (iss (by decide))).1 (by decide) (by decide) (by decide) (by decide)),
   comp (((h.1 _ 0 (bud 0 1650)).1 (iss (by decide))).1 (by decide) (by decide) (by decide) (by decide)),
   comp (((h.1 _ 0 (bud 0x601 7)).1 (iss (by decide))).2.1 (by decide) (by decide) (by decide) (by decide)),
   comp (((h.1 _ 0 (bud 0xFF02)).1 (iss (by decide))).2.2 (by decide) (by decide)),
   comp (((h.1 _ 0 (pac 0 2500)).2 (iss (by decide))).1 (by decide) (by decide)),
   comp (((h.1 _ 0 (pac 1 1)).2 (iss (by decide))).2.1 (by decide) (by decide)),
   comp (((h.1 _ 0 (pac 2)).2 (iss (by decide))).2.2.1 (by decide)), comp (((h.1 _ 0 (pac 3)).2 (iss (by decide))).2.2.2 (by decide)),
   comp ((h.2 _ 0 snapF).1 (by decide) (by decide) (by decide) (iss (by decide))),
   comp ((h.2 _ 0 snapR).2.1 (by decide) (by decide) (by decide) (iss (by decide))),
   comp ((h.2 _ 0 cntR).2.2.1 (iss (by decide)) (by decide : ∀ e ∈ countChk (ox 0x91 cntR) 0 cntR, e.1 = false)),
   comp ((h.2 _ 0 cntW).2.2.1 (iss (by decide)) (by decide : ∀ e ∈ countChk (ox 0x91 cntW) 0 cntW, e.1 = false)),
   comp ((h.2 _ 0 logI).2.2.2 (iss (by decide)))⟩

theorem witness_PowerAndPaceEvents (h : Obligations.PowerAndPaceEvents) :
    runs .budgetEvaluation State.reset ∧ runs .capUnmet { State.reset with pwr := { overRun := 100 } } ∧
    runs .trainingBurstGrant { State.reset with pwr := { trainWait := [11] } } ∧ runs .avsWriteFailure State.reset ∧
    runs .thermalCapStep State.reset ∧ runs (.tempRefresh [0, 0, 0, 0, 0, 0, 0, 0, 255]) State.reset ∧
    runs (.paceWindowEnd 0 0) { State.reset with pace := { lowRun := 3 } } ∧ runs (.paceHistoryHour 0) State.reset ∧
    runs (.paceTargetWrite 0x80000000) State.reset ∧ runs (.paceCtrlWrite 0x80000000) State.reset :=
  ⟨comp (h.1 State.reset fun k _ hk => (by decide : ∀ k, k < 6 → fullCharge State.reset k ≤ limitOf State.reset k) k (by omega)), comp ((h.2.1 _).1 (by decide) rfl), nx ((h.2.1 { State.reset with pwr := { trainWait := [11] } }).2.1 11 [] rfl (by decide) (by decide)),
   comp (h.2.1 _).2.2.1, comp (h.2.1 _).2.2.2.1, comp ((h.2.1 _).2.2.2.2 [0, 0, 0, 0, 0, 0, 0, 0, 255] rfl), comp ((h.2.2 _).1 0 0),
   comp ((h.2.2 _).2.1 0), comp ((h.2.2 _).2.2.1 0x80000000), comp ((h.2.2 _).2.2.2 0x80000000)⟩

theorem witness_RegisterStrobes (h : Obligations.RegisterStrobes) :
    runs .counterFreezeWrite State.reset ∧ runs .counterReleaseWrite { State.reset with cnt := { frozen := true } } ∧
    runs .shadowCopyEnd { State.reset with cnt := { copying := true } } ∧ runs (.selectorWrite 511 0) State.reset ∧
    runs (.unitLogClear 0x80000000) State.reset ∧ runs (.histSelectWrite 255) State.reset ∧ runs (.rgrpSelectWrite 1023) State.reset ∧
    runs (.ecmpSelectWrite 63) State.reset ∧ runs (.meterSelectWrite 11 2047) State.reset ∧ runs (.sheetSelectWrite 24575) State.reset ∧
    runs (.glbLockWrite 0xFFFFFFFF) State.reset ∧ runs .bufPeakClear State.reset ∧ runs (.histClear 108) State.reset ∧
    runs .deckleLogClear State.reset ∧ runs .dirLogClear State.reset ∧ runs .trackerPeakClear State.reset ∧ runs (.ceLogClear 11) State.reset ∧
    runs (.ueLogClear 11) State.reset :=
  ⟨comp ((h _).1 rfl), comp ((h _).2.1 rfl), comp ((h _).2.2.1 rfl), comp ((h _).2.2.2.1 511 0 (by decide) (by decide)),
   comp ((h _).2.2.2.2.1 0x80000000 (by decide)), comp ((h _).2.2.2.2.2.1 255), comp ((h _).2.2.2.2.2.2.1 1023), comp ((h _).2.2.2.2.2.2.2.1 63),
   comp ((h _).2.2.2.2.2.2.2.2.1 11 2047 (by decide)), comp ((h _).2.2.2.2.2.2.2.2.2.1 24575), comp ((h _).2.2.2.2.2.2.2.2.2.2.1 0xFFFFFFFF),
   comp (h _).2.2.2.2.2.2.2.2.2.2.2.1, comp ((h _).2.2.2.2.2.2.2.2.2.2.2.2.1 108 (by decide)), comp (h _).2.2.2.2.2.2.2.2.2.2.2.2.2.1,
   comp (h _).2.2.2.2.2.2.2.2.2.2.2.2.2.2.1, comp (h _).2.2.2.2.2.2.2.2.2.2.2.2.2.2.2.1,
   comp ((h _).2.2.2.2.2.2.2.2.2.2.2.2.2.2.2.2.1 11 (by decide)), comp ((h _).2.2.2.2.2.2.2.2.2.2.2.2.2.2.2.2.2 11 (by decide))⟩

theorem witness_RegisterAccess (h : Obligations.RegisterAccess) :
    runs (.regWriteGeneral (.ctx 0) 0x70010 1) State.reset ∧ runs (.regWriteGeneral (.ctx 0) 0x52110 17) State.reset ∧
    runs (.pairHighWrite (.ctx 0) 0x70014 1) State.reset ∧ runs (.pairLowRead (.ctx 0) 0x70010) State.reset ∧
    runs (.regWriteGeneral (.ctx 2) 0x70010 1) State.reset ∧ runs (.regWriteGeneral .linkA 0x70010 1) State.reset ∧
    runs (.programStoreWrite (.ctx 0) 0xFFFFC [1, 2, 3, 4]) State.reset ∧ runs (.barAccess 0 0 0xFFFFFC true [0, 0, 0, 0]) linked ∧
    runs (.debugAccess .ps 0xFFFF8 0 true 7) State.reset :=
  have op : ∀ a, inWindow a = false ∧ noTenant State.reset a = false ∧ owned a = false ∧ stwOnly a = false ∧ ringLocked State.reset a = false →
    inWindow a = false ∧ noTenant State.reset a = false ∧ owned a = false ∧ (stwOnly a = true → masterStw (.ctx 0) = true) ∧ ringLocked State.reset a = false :=
    fun _ k => ⟨k.1, k.2.1, k.2.2.1, fun _ => rfl, k.2.2.2.2⟩
  ⟨comp (((h State.reset (.ctx 0) 0x70010 1).1 (by decide) (by decide) (by decide) (op _ (by decide))).1 0 (by decide)),
   nx (((h State.reset (.ctx 0) 0x52110 17).1 (by decide) (by decide) (by decide) (op _ (by decide))).2.1 (by decide) (by decide)),
   nx (((h State.reset (.ctx 0) 0x70014 1).1 (by decide) (by decide) (by decide) (op _ (by decide))).2.2 0 (by decide) (by decide) (by decide)),
   comp ((h State.reset (.ctx 0) 0x70010 1).2.1 (by decide) (by decide) (by decide) (by decide) 0 (by decide)),
   comp ((h State.reset (.ctx 2) 0x70010 1).2.2.1 .noMatch (by decide) (by decide) (by decide)),
   nx ((h State.reset .linkA 0x70010 1).2.2.2.1 (by decide)),
   comp ((h State.reset (.ctx 0) 0xFFFFC 0).2.2.2.2.1 [1, 2, 3, 4] (by decide) (by decide) (by decide) (by decide) (by decide)),
   nx ((h linked .linkA 0xFFFFFC 0).2.2.2.2.2.1 0 [0, 0, 0, 0] (by decide) (by decide) (by decide) (by decide) (by decide)).1,
   comp ((h State.reset .tap 0xFFFF8 0).2.2.2.2.2.2 7 (by decide) (by decide) (by decide) (by decide) (by decide) (by decide))⟩

/-- Context 17 as given. -/
def ctx17 (x : Ctx) (s : State := State.reset) : State := setCtx s 17 x

theorem witness_ContextPages (h : Obligations.ContextPages) :
    runs (.ringDoorbell (.ctx 17) 17 3 15) (ctx17 { st := .idle, rings := [(3, { cfg := 0x80000004 })] }) ∧
    runs (.ringEntryFetch 17 1 2) (ctx17 { st := .ready, rings := [(3, { cfg := 0x80000004, tail := 1 })] }) ∧
    runs (.cqHeadWrite 17 0xFFFF) State.reset ∧
    runs (.completionRingRoom 17) (ctx17 { due := [{ status := 0, opcode := 0, source := 4, entry := 0, result := 0, irq := false }] }) ∧
    runs (.ctxStateRead 17) State.reset ∧ runs (.ctxResumeWrite 17 1) (ctx17 { st := .halted }) ∧ runs (.haltRequest 17) (ctx17 { st := .ready }) ∧
    runs (.contextRegisterWrite 17 5) (ctx17 { st := .faulted, ksel := 17 }) :=
  ⟨comp ((h (ctx17 { st := .idle, rings := [(3, { cfg := 0x80000004 })] }) 17 (by decide)).1 (.ctx 17) 3 15 (by decide) (by decide) (by decide)),
   comp ((h (ctx17 { st := .ready, rings := [(3, { cfg := 0x80000004, tail := 1 })] }) 17 (by decide)).2.1 1 2 3 (by decide) (by decide) (by decide) (by decide)),
   comp ((h _ 17 (by decide)).2.2.1 0xFFFF (by decide)),
   comp ((h (ctx17 { due := [{ status := 0, opcode := 0, source := 4, entry := 0, result := 0, irq := false }] }) 17 (by decide)).2.2.2.1 _ rfl (by decide)),
   comp ((h _ 17 (by decide)).2.2.2.2.1 rfl), comp ((h (ctx17 { st := .halted }) 17 (by decide)).2.2.2.2.2.1 1 (by decide) rfl rfl),
   comp ((h _ 17 (by decide)).2.2.2.2.2.2.1 rfl), comp ((h (ctx17 { st := .faulted, ksel := 17 }) 17 (by decide)).2.2.2.2.2.2.2 5 (.inr rfl))⟩

/-! ## Messages -/

/-- Port 95, as given. -/
def p95 (x : Port) (s : State := State.reset) : State := { s with port := [(95, x)] }
/-- A downstream edge that is up with credit for one request. -/
def up95 : Port := { cfg := 0xA0000005, link := .up, mode := 1, lanesUsed := 4, reqCredit := 1 }
/-- State with the one message `k`. -/
def with1 (k : Pkt) (s : State := State.reset) : State := { s with core := { s.core with pkts := [k] } }
/-- A store of S0 to the pool, held; a message a meter found red; one at the centre, of the Steward and of a tenant with no deckle. -/
def kHeld : Pkt := { id := 7, msg := { op := .uioWr, data := List.replicate 64 0 }, org := .store 0, stw := true, ing := 108, dest := .pool, stage := .heldBuf }
def kRed : Pkt := { id := 7, msg := { op := .ioWr }, org := .port 95, stw := true, ing := 95, dest := .pool, stage := .heldRed }
def kMid : Pkt := { id := 7, msg := { op := .ioRd }, org := .port 0, stw := true, ing := 0, dest := .port 95, out := 95, stage := .centre }

theorem witness_MessagesEnterTheCore (h : Obligations.MessagesEnterTheCore) :
    runs (.flitReceive 95 { msgs := [], reqCredits := 1 }) (p95 up95) ∧ runs (.flitReceive 95 { msgs := [{ op := .ioWr }] }) (p95 up95) ∧
    runs (.messageAdmission 108 false) (with1 kHeld) ∧ runs (.heldMessageRetry 108 false) (with1 kHeld) ∧
    runs (.redMessageReevaluation 95) (with1 kRed) ∧
    runs (.redMessageReevaluation 95) { with1 kRed (p95 { meter := 0x400007FF }) with quire := [(11, { meter := [(2047, { w0 := 0x8000000000000000 })] })] } ∧
    runs (.requestAtCentre 0) (with1 kMid) ∧ runs (.requestAtCentre 0) (with1 { kMid with stw := false, ten := some 15 }) :=
  have c := (h (p95 up95) 95).1 (by decide) (by decide) (by decide)
  have a := (h (with1 kHeld) 108).2.1 (by decide) false kHeld (by decide) (by decide) (by decide) fun _ e => nomatch (show Dest.pool = _ from e)
  have one {k : Pkt} {l : List Pkt} (e : l = [k]) (f : Pkt → Bool) : ∀ j, l.find? f = some j → j = k := by
    subst e; intro j hj; have := List.mem_of_find?_eq_some hj; simpa using this
  ⟨comp ((c { msgs := [], reqCredits := 1 }).1 rfl rfl), ((c { msgs := [] }).2 { op := .ioWr }).elim fun _ k => ⟨_, k.2⟩, comp a,
   a.elim fun t k => ⟨t, k.2.1 (by decide)⟩, comp (((h (with1 kRed) 95).2.2.1 (by decide) kRed (by decide) (one rfl _)).1 (by decide)),
   comp (((h { with1 kRed (p95 { meter := 0x400007FF }) with quire := [(11, { meter := [(2047, { w0 := 0x8000000000000000 })] })] } 95).2.2.1 (by decide) kRed
     (by decide) (one rfl _)).2 2047 (by decide) (by decide)),
   comp (((h (with1 kMid) 0).2.2.2 (by decide) kMid (by decide) (by decide) (by decide)).1 (by decide) 95 (by decide) (by decide) (by decide) (one rfl _)),
   comp (((h (with1 { kMid with stw := false, ten := some 15 }) 0).2.2.2 (by decide) { kMid with stw := false, ten := some 15 } (by decide) (by decide) (by decide)).2
     .noMatch (by decide) (by decide))⟩

/-- A queued message to EN; one of a schedule whose window is open; one in egress staging of port 95. -/
def kQ : Pkt := { id := 7, msg := { op := .ioRd }, org := .port 0, ing := 0, dest := .engine, out := 108, stage := .queued }
def kCad : Pkt := { kQ with cad := some 63 }
def kOut : Pkt := { id := 7, msg := { op := .ioRd }, org := .port 0, ing := 0, dest := .port 95, out := 95, stage := .egress }

theorem witness_MessagesLeaveTheCore (h : Obligations.MessagesLeaveTheCore) :
    runs (.egressSelection 108) { State.reset with core := { pkts := [kCad], cad := [(63, { opened := true, pendingG := 64, pendingLen := 1000 })] } } ∧
    runs (.egressSelection 108) (with1 kQ) ∧ runs (.egressSelection 108) State.reset ∧
    runs (.flitSend 95) (p95 up95) ∧ runs (.flitSend 95) (with1 kOut (p95 up95)) ∧
    runs (.leafTransmit 95) (p95 { cfg := 0xD0000000, link := .training, ifl := { st := .init } }) ∧
    runs (.leafTransmit 95) (p95 { cfg := 0xD0000000, link := .up, ifl := { st := .active } }) :=
  ⟨comp (((h { State.reset with core := { pkts := [kCad], cad := [(63, { opened := true, pendingG := 64, pendingLen := 1000 })] } } 108).1 (by decide)).1
     kCad (by decide) (by decide)),
   comp (((h (with1 kQ) 108).1 (by decide)).2.1 kQ _ (by decide) (.inl rfl) (by decide)),
   nx (((h State.reset 108).1 (by decide)).2.2 (by decide) (by decide) (by decide)),
   comp (((h (p95 up95) 95).2.1 (by decide) (by decide) (by decide)).1 (by decide)),
   (((h (with1 kOut (p95 up95)) 95).2.1 (by decide) (by decide) (by decide)).2 kOut (by decide) rfl (by decide) (by decide) (by decide) (by decide)
     (fun _ e => nomatch (show Org.port 0 = _ from e)) (by decide)).elim fun t k => k.elim fun _ k => ⟨t, k.1⟩,
   ((h (p95 { cfg := 0xD0000000, link := .training, ifl := { st := .init } }) 95).2.2 (by decide) (by decide) (by decide) (by decide) (by decide)).1 rfl rfl
     |>.elim fun t k => k.elim fun _ k => k.elim fun _ k => ⟨t, k.1⟩,
   ((h (p95 { cfg := 0xD0000000, link := .up, ifl := { st := .active } }) 95).2.2 (by decide) (by decide) (by decide) (by decide) (by decide)).2 rfl rfl
     |>.elim fun t k => k.elim fun _ k => k.elim fun _ k => k.elim fun _ k => ⟨t, k.1⟩⟩

/-- Schedule 63 with its window 15 of 16, on reference 3. -/
def cad15 : Cad := { ctrl := 0xE0000010, len := [(15, 1000)] }
/-- Reference 3 locked, with an edge at 1, and the time given. -/
def ref3 (t : W64) (s : State := State.reset) : State := { s with time := { fab := t, mono := t, ref := [(3, { enable := true, locked := true, last := 1 })] } }
/-- A write of group 1023 whose member 15 is pending, with members 13 and 14 still to come and two needed. -/
def rw : RWrite := { id := 9, group := 1023, src := { kQ with id := 8 }, counting := [13, 14, 15], pending := [13, 14, 15] }
def rwS : State := { State.reset with core := { rwrites := [rw], rgrp := [(1023, { header := 0x8020000000000000, member := [(13, 0x4000000000000000), (14, 0x4000000000000000), (15, 0x4000000000000000)] })] } }

theorem witness_FencesWindowsAndMembers (h : Obligations.FencesWindowsAndMembers) :
    runs (.repinningFenceRelease 63) { State.reset with core := { ecmp := [(63, { fence := true, stale := [7] })] } } ∧
    runs (.repinningFenceRelease 63) State.reset ∧ runs (.cadenceFenceRelease 63) { State.reset with core := { cad := [(63, { fence := some (0, 0) })] } } ∧
    runs (.cadenceWindowOpen 63 15) { ref3 1000 with core := { cad := [(63, cad15)] } } ∧ runs (.cadenceWindowOpen 63 15) State.reset ∧
    runs (.cadenceWindowClose 63) { ref3 1000 with core := { cad := [(63, { opened := true, pendingLen := 1000 })] } } ∧
    runs (.cadenceWindowClose 63) { ref3 999 with core := { cad := [(63, { opened := true, pendingLen := 1000 })] } } ∧
    runs (.histogramSample 108) { with1 kQ with core := { pkts := [kQ], outp := [(108, { histCfg := 0x80000602 })] } } ∧
    runs (.histogramSample 108) { with1 kQ with core := { outp := [(108, { histCfg := 0x80000602 })] }, cnt := { frozen := true } } ∧
    runs (.replicaMemberCompletion 9 15 true) rwS ∧ runs (.replicaMemberTimeout 9 15) rwS ∧
    runs (.mirrorConsumerReadDone 7 1) { State.reset with core := { mirror := [(7, { reading := true })] } } :=
  have cw := fun t n => (h { ref3 t with core := { cad := [(63, { opened := true, pendingLen := n })] } }).2.1 63 (by decide)
  have m := (h rwS).2.2.2.1 rw 15 (by decide) (by decide) (by decide) rfl false (by decide) (by decide)
  ⟨comp (((h _).1 63 (by decide)).1 (by decide)), nx (((h State.reset).1 63 (by decide)).2 (by decide)), comp (((h _).2.1 63 (by decide)).1 (by decide)),
   comp ((((h { ref3 1000 with core := { cad := [(63, cad15)] } }).2.1 63 (by decide)).2.2.1 15 (by decide)).1 (by decide) (by decide) (by decide) (by decide)
     (by decide) (by decide) (by decide)),
   nx ((((h State.reset).2.1 63 (by decide)).2.2.1 15 (by decide)).2 (by decide)), comp ((cw 1000 1000).2.2.2.1 rfl (by decide)),
   nx ((cw 999 1000).2.2.2.2 (by decide)), comp (((h { with1 kQ with core := { pkts := [kQ], outp := [(108, { histCfg := 0x80000602 })] } }).2.2.1 108 (by decide) (by decide) (by decide)).1 rfl),
   comp (((h { with1 kQ with core := { outp := [(108, { histCfg := 0x80000602 })] }, cnt := { frozen := true } }).2.2.1 108 (by decide) (by decide) (by decide)).2 rfl),
   comp ((h rwS).2.2.2.1 rw 15 (by decide) (by decide) (by decide) rfl true (by decide) (by decide)),
   m.elim fun _ k => comp (k.2.2.2.2 rfl (by decide)), comp ((h _).2.2.2.2 7 1 (by decide) rfl rfl rfl)⟩

/-! ## Ports -/

/-- Port 95's configuration: a downstream edge of tenant 15, x4, CXL and PCIe modes, PBR ID 3583. -/
def cfg95 : W32 := 0xA2F3FDFF
/-- Tenant 15 exists. -/
def ten15 (s : State) : State := { s with ten := [(15, { exist := true })] }
/-- A partner for CXL 256 B flits at 16 GT/s and no more; one for 64 GT/s; one for nothing. -/
def slow : Partner := { cxl256 := true, cxl68 := true, pcie := true, maxRate := 3 }
def fast : Partner := { cxl256 := true, cxl68 := true, pcie := true, pcieFlit := true }

theorem witness_PortsComeUp (h : Obligations.PortsComeUp) :
    runs (.portEnable 95 cfg95) (ten15 (p95 { cfg := 0x02F30000 &&& 0xF3FFFFFF })) ∧ runs (.portEnable 95 cfg95) (p95 { cfg := 0x02F30000 &&& 0xF3FFFFFF }) ∧
    runs (.portDisable 95 0) (p95 { cfg := cfg95 }) ∧ runs (.portHpWrite 95 0x8000001F) (p95 {}) ∧
    runs (.linkTrained 95 { maxRate := 0 }) (p95 { cfg := cfg95, link := .training }) ∧ runs (.linkTrained 95 slow) (p95 { cfg := cfg95, link := .training }) ∧
    runs (.linkTrained 95 fast) (p95 { cfg := cfg95, link := .training }) ∧ runs (.trainingRetry 95) (p95 { cfg := cfg95, link := .down }) ∧
    runs (.loopbackRequestReceived 95 true) (p95 { cfg := cfg95, link := .training }) ∧
    runs (.linkRecoveryExit 95) (p95 { cfg := cfg95, link := .recovery, mode := 1 }) ∧ runs (.gatewayRepeat 95) (p95 { cfg := 0xC0000000, link := .up }) ∧
    runs (.gatewayTimeout 95) (p95 { cfg := 0xC0000000, link := .up }) :=
  have t := fun r e => (h (p95 { cfg := cfg95, link := .training }) 95 0 (by decide) (by decide)).2.2.2.1 rfl rfl (by decide) r e
  ⟨comp (((h (ten15 (p95 { cfg := 0x02F30000 &&& 0xF3FFFFFF })) 95 cfg95 (by decide) (by decide)).1 (by decide) (by decide) (by decide)).1 (by decide) (by decide) (by decide) (by decide) (by decide)),
   comp (((h (p95 { cfg := 0x02F30000 &&& 0xF3FFFFFF }) 95 cfg95 (by decide) (by decide)).1 (by decide) (by decide) (by decide)).2 (by decide)),
   comp ((h (p95 { cfg := cfg95 }) 95 0 (by decide) (by decide)).2.1 (by decide) (by decide)),
   comp ((h (p95 {}) 95 0x8000001F (by decide) (by decide)).2.2.1 (by decide)),
   comp ((t { maxRate := 0 } rfl).1 (by decide)), comp (((t slow rfl).2 1 3 4 (by decide) (by decide) (by decide)).1 (.inl (by decide))),
   comp (((t fast rfl).2 1 5 4 (by decide) (by decide) (by decide)).2 (by decide) (by decide) (by decide)),
   comp ((h (p95 { cfg := cfg95, link := .down }) 95 0 (by decide) (by decide)).2.2.2.2.1 rfl (by decide) rfl rfl rfl),
   comp ((h (p95 { cfg := cfg95, link := .training }) 95 0 (by decide) (by decide)).2.2.2.2.2.1 rfl true),
   comp ((h (p95 { cfg := cfg95, link := .recovery, mode := 1 }) 95 0 (by decide) (by decide)).2.2.2.2.2.2.1 rfl (by decide)),
   comp ((h (p95 { cfg := 0xC0000000, link := .up }) 95 0 (by decide) (by decide)).2.2.2.2.2.2.2 (by decide) rfl rfl).1,
   comp ((h (p95 { cfg := 0xC0000000, link := .up }) 95 0 (by decide) (by decide)).2.2.2.2.2.2.2 (by decide) rfl rfl).2⟩

/-- Port 95 is bound behind vPPB 63 of tenant 15, whose Trigger Enable is 1. -/
def dev95 (x : Port) : State := { p95 x with ten := [(15, { exist := true, vppb := [(63, { bind := .dev 95, dpcEnable := 1 })] })] }

theorem witness_PortsGoDown (h : Obligations.PortsGoDown) :
    runs (.linkDown 95) (dev95 { cfg := cfg95, link := .up, mode := 1 }) ∧ runs (.errMessageReceived 95 true) (dev95 { cfg := cfg95, link := .up, mode := 1 }) ∧
    runs (.hotResetReceived 95) (p95 { cfg := 0x9000F005, link := .up, mode := 1 }) ∧ runs (.secondaryBusReset 15 63) (dev95 { cfg := cfg95, link := .up, mode := 1 }) ∧
    runs (.ideMacFailure 95) (p95 { cfg := 0xA00AF005, link := .up, mode := 1, ideSecure := true }) ∧
    runs (.dpcStatusClearByHost 95) (dev95 { cfg := cfg95, dpcTrig := true }) ∧ runs (.dpcTrigClear 95) (dev95 { cfg := cfg95, dpcTrig := true }) ∧
    runs (.hostPowerControlWrite 95 true) (dev95 { cfg := cfg95, hpEn := true }) ∧ runs (.hpRefuse 95) (dev95 { cfg := cfg95, hpPending := true }) ∧
    runs (.hpRefuse 95) (dev95 { cfg := cfg95 }) ∧ runs (.hostMcEnableWrite 15 63) (dev95 { cfg := cfg95 }) ∧
    runs (.ideKeyManagement 95 .linkIdeForIo) (p95 { cfg := cfg95, link := .up }) ∧
    runs (.ideKeyManagement 95 (.setKeys 5)) (p95 { cfg := 0xA006F005, link := .up, mode := 1 }) :=
  have d := (h (dev95 { cfg := cfg95, link := .up, mode := 1 }) 95 (by decide)).1 (by decide) (by decide)
  have r := (h (dev95 { cfg := cfg95, dpcTrig := true }) 95 (by decide)).2.1 (by decide) (by decide) (by decide) (by decide) (by decide)
  ⟨comp (d.1 (by decide) (by decide)), comp (d.2.1 (by decide) (by decide) (by decide) true (by decide)),
   comp (((h (p95 { cfg := 0x9000F005, link := .up, mode := 1 }) 95 (by decide)).1 (by decide) (by decide)).2.2.1 (by decide) (by decide)),
   comp (d.2.2.2.1 15 63 (by decide) (by decide) (by decide) (by decide) (by decide)),
   comp (((h (p95 { cfg := 0xA00AF005, link := .up, mode := 1, ideSecure := true }) 95 (by decide)).1 (by decide) (by decide)).2.2.2.2 (by decide) (by decide)),
   comp r, r.elim fun t k => ⟨t, k.2.1⟩, comp ((h (dev95 { cfg := cfg95, hpEn := true }) 95 (by decide)).2.2.1 (by decide) (by decide) true),
   comp (((h (dev95 { cfg := cfg95, hpPending := true }) 95 (by decide)).2.2.2.1 (by decide)).1 (by decide)),
   comp (((h (dev95 { cfg := cfg95 }) 95 (by decide)).2.2.2.1 (by decide)).2 (by decide)),
   comp ((h (dev95 { cfg := cfg95 }) 95 (by decide)).2.2.2.2.1 15 63 (by decide) (by decide) (by decide) (by decide) 0
     (by unfold freeRgrp; rw [show 1024 = 1023 + 1 from rfl, List.range_succ_eq_map]; exact List.find?_cons_of_pos (by decide))),
   comp ((h (p95 { cfg := cfg95, link := .up }) 95 (by decide)).2.2.2.2.2 (by decide)).1,
   comp (((h (p95 { cfg := 0xA006F005, link := .up, mode := 1 }) 95 (by decide)).2.2.2.2.2 (by decide)).2 5 (by decide) (by decide) (by decide) (by decide))⟩

/-- Boot done, tenant 15 as given, port 95 a host edge with an MLD behind it: the responder answers. -/
def fmS : State := { dev95 { cfg := cfg95, link := .up, dev := .mld 16 } with glb := { bootStage := 4 } }

theorem witness_FabricManagerCommands (h : Obligations.FabricManagerCommands) :
    runs (.fmIdentifySwitchDevice .sideband) State.reset ∧ runs (.fmIdentifySwitchDevice (.port 95)) State.reset ∧
    runs (.fmIdentifySwitchDevice (.port 95)) fmS ∧ runs (.fmIdentifySwitchDevice .sideband) { fmS with glb := { bootStage := 4, fmApiOwn := true } } ∧
    runs (.fmIdentifySwitchDevice .sideband) fmS ∧ runs (.fmGetPhysicalPortState .sideband 95) fmS ∧ runs (.fmGetPhysicalPortState .sideband 96) fmS ∧
    runs (.fmPhysicalPortControl .sideband 95 0) fmS ∧ runs (.fmSendPpbConfigRequest .sideband 15 63 .winBase true 5) fmS ∧
    runs (.fmGetVirtualSwitchInfo .sideband 15) fmS ∧ runs (.fmGenerateAerEvent .sideband 15 7) (setCtx fmS 17 { st := .idle }) ∧
    runs (.fmTunnelManagementCommand .sideband 95 []) fmS ∧ runs (.fmSendLdConfigRequest .sideband 95 15 []) fmS ∧
    runs (.fmSendLdMemoryRequest .sideband 95 16 []) fmS ∧ runs (.fmUnsupportedOpcode .sideband 0x5104) fmS :=
  have g (s src p imm B) := h s src p 0 15 63 .winBase true 5 7 15 0x5104 imm B [] (by decide)
  have own : Instr.fmIdentifySwitchDevice .sideband ∈ [Instr.fmIdentifySwitchDevice .sideband] := by decide
  have a := (g fmS .sideband 95 0 0).2 (by decide) (by decide) (by decide) (by decide)
  ⟨nx (((g State.reset .sideband 95 0 0).1 _ (by simp)).2.2 (by decide) (by decide) |>.1 (by decide)),
   nx (((g State.reset (.port 95) 95 0 0).1 _ (by simp)).1 (by decide)),
   comp (((g fmS (.port 95) 95 0 0).1 _ (by simp)).2.1 (by decide) (by decide)),
   comp ((((g { fmS with glb := { bootStage := 4, fmApiOwn := true } } .sideband 95 0 0).1 _ (by simp)).2.2 (by decide) (by decide)).2 (by decide) (by decide)),
   nx (a.1 _ _ _ _ _ _ _ _ rfl rfl rfl rfl), nx (a.2.1 _ _ _ _ _ _ (by decide) rfl rfl rfl),
   nx (((g fmS .sideband 96 0 0).2 (by decide) (by decide) (by decide) (by decide)).2.2.1 (by decide)).1,
   nx ((a.2.2.2.1 (by decide)).1 (by decide) (by decide)), nx (a.2.2.2.2.1 (by decide) (by decide)).2, nx (a.2.2.2.2.2.1 _ _ (by decide) rfl),
   nx (((g (setCtx fmS 17 { st := .idle }) .sideband 95 0 0).2 (by decide) (by decide) (by decide) (by decide)).2.2.2.2.2.2.2.2.1 (by decide) (by decide) (by decide)),
   nx (a.2.2.2.2.2.2.2.2.2.1 16 (by decide) (by decide) (by decide)).1,
   nx ((a.2.2.2.2.2.2.2.2.2.1 16 (by decide) (by decide) (by decide)).2.1 (by decide)).1,
   nx (((h fmS .sideband 95 0 15 63 .winBase true 5 7 16 0x5104 0 0 [] (by decide)).2 (by decide) (by decide) (by decide) (by decide)).2.2.2.2.2.2.2.2.2.1 16 (by decide) (by decide) (by decide) |>.2.2 (by decide)).2,
   nx a.2.2.2.2.2.2.2.2.2.2⟩

theorem witness_FabricManagerBinds (h : Obligations.FabricManagerCommands) :
    runs (.fmBindVppb .sideband 0x13F1 5) { bound State.reset with glb := { bootStage := 4 } } ∧
    runs (.fmUnbindVppb .sideband 0x13FF 0) fmS ∧ runs (.fmUnbindVppb .sideband 0x13F1 0) fmS :=
  have g (s imm B) := h s .sideband 95 0 15 63 .winBase true 5 7 15 0x5104 imm B [] (by decide)
  ⟨nx ((((g { bound State.reset with glb := { bootStage := 4 } } 0x13F1 5).2 (by decide) (by decide) (by decide) (by decide)).2.2.2.2.2.2.1
     (by decide : ∀ e ∈ bindChk { bound State.reset with glb := { bootStage := 4 } } 1 (bindArg 0x13F1 5) 0x13F1 5, e.1 = false)).1 (by decide)),
   nx ((((g fmS 0x13FF 0).2 (by decide) (by decide) (by decide) (by decide)).2.2.2.2.2.2.2.1
     (by decide : ∀ e ∈ unbindChk fmS 1 (bindArg 0x13FF 0) 0x13FF 0, e.1 = false)).1 (by decide)),
   ⟨_, rfl⟩⟩

theorem witness_TapInstructions (h : Obligations.TapInstructions) :
    runs .tapExtest State.reset ∧ runs .tapClamp State.reset ∧ runs .tapExtest (p95 { cfg := cfg95 }) ∧ runs .tapClamp (slot31 { st := .on }) :=
  ⟨nx ((h State.reset).2.2.2.2.2.1 (by decide)).1, nx ((h State.reset).2.2.2.2.2.1 (by decide)).2, nx ((h (p95 { cfg := cfg95 })).2.2.2.2.2.2 (by decide)).1,
   nx ((h (slot31 { st := .on })).2.2.2.2.2.2 (by decide)).2⟩

/-! ## Pool and home -/

/-- Channel 11 as given. -/
def ch11 (x : Chan) : State := { State.reset with pool := { chan := [(11, x)] } }
def spd : Spd := { dimms := 2, rates := [0], units := 2048 }

theorem witness_PoolChannels (h : Obligations.PoolChannelsAndGroups) :
    runs (.poolChEnable 11) State.reset ∧ runs (.poolChEnable 11) (ch11 { enable := true }) ∧ runs (.poolChDisable 11) (ch11 { enable := true }) ∧
    runs (.poolChDisable 11) { State.reset with pool := { grp := [(15, { enable := true, mask := 0x800 })] } } ∧
    runs (.channelTrainingDone 11 spd) (ch11 { enable := true, st := .training }) ∧
    runs (.channelTrainingDone 11 { spd with units := 2049 }) (ch11 { enable := true, st := .training }) ∧
    runs (.initStart 11) (ch11 { st := .trained }) ∧ runs (.initStart 11) State.reset ∧ runs (.channelInitDone 11) (ch11 { st := .initialising }) ∧
    runs (.channelInitDone 11) State.reset ∧ runs (.channelLost 11) (ch11 { st := .grouped }) ∧ runs (.channelLost 11) State.reset :=
  ⟨comp ((h.1 State.reset 11 (by decide)).1 rfl (by decide)), nx ((h.1 (ch11 { enable := true }) 11 (by decide)).2.1 rfl),
   comp ((h.1 (ch11 { enable := true }) 11 (by decide)).2.2.1 rfl (by decide) (by decide)),
   nx ((h.1 { State.reset with pool := { grp := [(15, { enable := true, mask := 0x800 })] } } 11 (by decide)).2.2.2.1 (by decide)),
   comp (((h.1 (ch11 { enable := true, st := .training }) 11 (by decide)).2.2.2.2.1 rfl spd).1 (by decide)),
   comp (((h.1 (ch11 { enable := true, st := .training }) 11 (by decide)).2.2.2.2.1 rfl { spd with units := 2049 }).2.1 7 (by decide) (by decide)),
   comp ((h.1 (ch11 { st := .trained }) 11 (by decide)).2.2.2.2.2.1 rfl), nx ((h.1 State.reset 11 (by decide)).2.2.2.2.2.2.1 (by decide)),
   comp ((h.1 (ch11 { st := .initialising }) 11 (by decide)).2.2.2.2.2.2.2.1 rfl), nx ((h.1 State.reset 11 (by decide)).2.2.2.2.2.2.2.2.1 (by decide)),
   ((h.1 (ch11 { st := .grouped }) 11 (by decide)).2.2.2.2.2.2.2.2.2.1 (by decide)).elim fun _ k => k.elim fun t k => ⟨t, k.1⟩,
   nx ((h.1 State.reset 11 (by decide)).2.2.2.2.2.2.2.2.2.2 (by decide))⟩

/-- Group 15 enabled over channel 11, with a valid sheet in it. -/
def grp15 (sheet : Tab W64) : State := { State.reset with pool := { opened := true, grp := [(15, { enable := true, mask := 0x800 })], sheet := sheet } }

theorem witness_PoolGroups (h : Obligations.PoolChannelsAndGroups) :
    runs (.poolGrpEnable 15 0x80000800) (ch11 { st := .ready }) ∧ runs (.poolGrpEnable 15 0x80000800) State.reset ∧
    runs (.poolGrpDisable 15 0) (grp15 []) ∧ runs (.poolGrpDisable 15 0) (grp15 [(24575, shMk false 0 0 15 0 0 0)]) ∧
    runs .poolOpen { grp15 [] with pool := { (grp15 []).pool with opened := false } } ∧ runs .poolOpen State.reset ∧ runs .poolClose State.reset ∧
    runs .poolClose (grp15 []) ∧ runs .poolClose (grp15 [(24575, shMk false 0 0 15 0 0 0)]) ∧ runs .poolOpen (grp15 []) :=
  have rdy (s : State) (e : s.pool.grp = []) (k : (getChan s 11).st = .ready) : ((0x80000800 : W32).setWidth 12 : BitVec 12) ≠ 0 ∧
      ∀ c, c < 12 → bit ((0x80000800 : W32).setWidth 12 : BitVec 12) c = true →
        (getChan s c).st = .ready ∧ ∀ h ∈ s.pool.grp, h.1 = 15 ∨ h.2.enable = false ∨ bit h.2.mask c = false :=
    ⟨by decide, fun c hc b => by
      have : c = 11 := (by decide : ∀ c, c < 12 → bit ((0x80000800 : W32).setWidth 12 : BitVec 12) c = true → c = 11) c hc b
      subst this; rw [e]; exact ⟨k, by simp⟩⟩
  ⟨comp (((h.2 (ch11 { st := .ready })).1 15 0x80000800 (by decide)).1 (by decide) rfl |>.1 (rdy _ rfl rfl)),
   comp (((h.2 State.reset).1 15 0x80000800 (by decide)).1 (by decide) rfl |>.2 fun k => nomatch (k.2 11 (by decide) (by decide)).1),
   comp (((h.2 (grp15 [])).1 15 0 (by decide)).2 (by decide) rfl |>.1 (by decide)),
   comp (((h.2 (grp15 [(24575, shMk false 0 0 15 0 0 0)])).1 15 0 (by decide)).2 (by decide) rfl |>.2 (by decide)),
   nx (((h.2 { grp15 [] with pool := { (grp15 []).pool with opened := false } }).2.1 rfl).1 (by decide)), nx (((h.2 State.reset).2.1 rfl).2.1 (by decide)),
   nx ((h.2 State.reset).2.1 rfl).2.2, nx (((h.2 (grp15 [])).2.2 rfl).1 (by decide)),
   nx (((h.2 (grp15 [(24575, shMk false 0 0 15 0 0 0)])).2.2 rfl).2.1 (by decide)), nx ((h.2 (grp15 [])).2.2 rfl).2.2⟩

/-- Line 0 of sheet 24575, tenant 15's, on channel 11; its first way of the directory. -/
def ln : Nat := 103075020800
def way0 : Nat := 3145600
def hPool : Pool :=
  { opened := true, grp := [(15, { enable := true, slots := 4, mask := 0x800 })], chan := [(11, { enable := true, st := .grouped })],
    sheet := [(24575, shMk false 15 0 15 0 0 0)] }
/-- The home with sharer 127 behind port 4, and its queue, transactions and directory as given. -/
def hm (x : Home) : State :=
  { State.reset with pool := hPool, home := x, port := [(4, { cfg := 0x9000F005, link := .up, mode := 1, biActive := true })],
                     ten := [(15, { exist := true, base := 24575, len := 1, sharer := [(127, { valid := true, port := 4, pbr := 5 })] })] }
/-- A request of port 4 for that line. -/
def hk (op : MOp) (data : List Byte := []) : Pkt :=
  { id := 7, msg := { op := op, addr := 0, data := data, srcPbr := 5 }, org := .port 4, ten := some 15, ing := 4, dest := .pool, out := 107, paddr := 6596801331200,
    ent := shMk false 15 0 15 0 0 0 }
def hq (op : MOp) (data : List Byte := []) (dir : Tab DirEnt := []) : State := hm { queue := [hk op data], dir := dir }
def line64 : List Byte := List.replicate 64 1
def held127 (st : DSt) : Tab DirEnt := [(way0, { valid := true, tenant := 15, tag := ln / 2 ^ 19, st := st, ptrs := [127] })]

theorem witness_HomeRequests (h : Obligations.HomeRequestsAndEvents) :
    runs (.homeRds 11) State.reset ∧ runs (.homeEvc 11) (hq .ioRd) ∧ runs (.homeRdnc 11) (hq .ioRd) ∧ runs (.homeAtom 11) (hq (.uioAtom .add 8) line64) ∧
    runs (.homeWrnc 11) (hq .uioWr line64) ∧ runs (.homeRds 11) (hq (.memRd .data)) ∧ runs (.homeRde 11) (hq (.memRd .inv)) ∧
    runs (.homeEvd 11) (hq (.memWr .noop) line64 (held127 .e)) ∧ runs (.homeEvc 11) (hq .memClnEvct [] (held127 .s)) :=
  have t (op d dir) (a b c e f i) := ((h.1 (hq op d dir) 11 (by decide)).2 (hk op d) a).2 b c (e : ∀ n, lineTen (hq op d dir) (lineOf (hk op d)) = some n → _) (f : ∀ n, (hk op d).ten = some n → _) i
    (by intro x hx; exact absurd hx (List.not_mem_nil))
  have tn {s : State} {l n : Nat} {p : Nat → Prop} (e : lineTen s l = some n) (k : p n) : ∀ m, lineTen s l = some m → p m :=
    fun m f => Option.some.inj (e.symm.trans f) ▸ k
  have rn (op d dir) : ∀ n, (hk op d).ten = some n → (getTen (hq op d dir) n).inReset = false := fun n e => by
    have : 15 = n := Option.some.inj (show some 15 = some n from e)
    subst this; rfl
  ⟨nx ((h.1 State.reset 11 (by decide)).1 rfl (.homeRds 11, _) (.head _)),
   nx (((h.1 (hq .ioRd) 11 (by decide)).2 (hk .ioRd) (by decide)).1 (.homeEvc 11, fun k => k = .evc) (by simp) (by decide)),
   comp (((t .ioRd [] [] (by decide) (by decide) (by decide) (tn (n := 15) (by decide) (by decide)) (rn _ _ _) (by decide)).1 (.inr (by decide))).1 (.inl (by decide))),
   comp (((t (.uioAtom .add 8) line64 [] (by decide) (by decide) (by decide) (tn (n := 15) (by decide) (by decide)) (rn _ _ _) (by decide)).1 (.inr (by decide))).2.1 (by decide)),
   comp (((t .uioWr line64 [] (by decide) (by decide) (by decide) (tn (n := 15) (by decide) (by decide)) (rn _ _ _) (by decide)).1 (.inr (by decide))).2.2.1 (by decide) (by decide)),
   comp (((t (.memRd .data) [] [] (by decide) (by decide) (by decide) (tn (n := 15) (by decide) (by decide)) (rn _ _ _) (by decide)).1 (.inr (by decide))).2.2.2 way0 (by decide) (.inl (by decide)) (by decide)),
   comp (((t (.memRd .inv) [] [] (by decide) (by decide) (by decide) (tn (n := 15) (by decide) (by decide)) (rn _ _ _) (by decide)).1 (.inr (by decide))).2.2.2 way0 (by decide) (.inr (by decide)) (by decide)),
   comp (((t (.memWr .noop) line64 (held127 .e) (by decide) (by decide) (by decide) (tn (n := 15) (by decide) (by decide)) (rn _ _ _) (by decide)).2 15 way0 127 (by decide) (by decide) (by decide)).1 (by decide) (by decide) (by decide) (by decide)),
   comp (((t .memClnEvct [] (held127 .s) (by decide) (by decide) (by decide) (tn (n := 15) (by decide) (by decide)) (rn _ _ _) (by decide)).2 15 way0 127 (by decide) (by decide) (by decide)).2 (by decide) (by decide) (by decide) (by decide) (by decide))⟩

/-- A transaction on the line in a phase, with the snoops given. -/
def hx (ph : Phase) (sn : List Snoop := []) (data : Option (List Byte) := none) : Txn :=
  { line := ln, kind := .rdnc, req := some (hk .ioRd), tenant := some 15, phase := ph, snoops := sn, data := data }
def ht (x : Txn) (dir : Tab DirEnt := []) : State := hm { txns := [x], dir := dir }
def sn2 : List Snoop := [⟨127, .cur, true⟩, ⟨0, .cur, true⟩]

theorem witness_HomeEvents (h : Obligations.HomeRequestsAndEvents) :
    runs (.dramReadDone ln .ok .ok) State.reset ∧ runs (.dramWriteAccepted ln true) State.reset ∧ runs (.snoopTimeout ln 127) State.reset ∧
    runs (.biResponse ln 127 .i []) State.reset ∧ runs (.dramReadDone ln .ok .ok) (ht (hx .read)) ∧
    runs (.dramWriteAccepted ln true) (ht (hx (.write 3) [] (some line64))) ∧ runs (.dramWriteAccepted ln false) (ht (hx (.write 1) [] (some line64))) ∧
    runs (.biResponse ln 127 .i []) (ht (hx .snoop sn2)) ∧ runs (.snoopTimeout ln 127) (ht (hx .snoop sn2)) ∧
    runs (.biconflictReceived ln 127) (hm {}) ∧ runs (.biconflictReceived ln 126) (hm {}) ∧ runs (.directoryWalkDone 15) (hm {}) ∧
    runs (.directoryWalkDone 15) (hm { walks := [{ tenant := 15, reset := true }], dir := held127 .s }) ∧
    runs (.directoryWalkDone 15) (hm { walks := [{ tenant := 15, reset := false }] }) ∧ runs (.scrubRead 11 .ok .ok) State.reset ∧
    runs (.scrubRead 11 .ok .ok) { State.reset with pool := { chan := [(11, { scrubEn := true, st := .ready, capacity := 1, scrubPos := 4194302 })] } } :=
  have z := (h.2 State.reset ln).1 rfl
  have q (x : Txn) (p : x.phase ≠ .waitWay ln) (b : ∀ n ∈ x.snoops, n.issued = true) :
      (∀ y ∈ (ht x).home.txns, ∀ n ∈ y.snoops, n.issued = true) ∧ ∀ y ∈ (ht x).home.txns, y.phase ≠ .waitWay ln :=
    ⟨fun y hy => by rw [List.mem_singleton.mp hy]; exact b, fun y hy => by rw [List.mem_singleton.mp hy]; exact p⟩
  have w (m) := ((h.2 (ht (hx (.write m) [] (some line64))) ln).2.1 (hx (.write m) [] (some line64)) (by simp [txnOf, ht, hm, hx])).2.1 m line64
  have b := ((h.2 (ht (hx .snoop sn2)) ln).2.1 (hx .snoop sn2) (by simp [txnOf, ht, hm, hx])).2.2 127 .i (by decide)
  ⟨nx (z.1 _ _), nx (z.2.1 _), nx (z.2.2 127 (by decide)).1, comp ((z.2.2 127 (by decide)).2 .i []),
   comp (((h.2 (ht (hx .read)) ln).2.1 (hx .read) (by decide)).1 (hk .ioRd) 4 .ok rfl rfl rfl (.inr (.inr ⟨rfl, by decide⟩)) rfl
     (q _ (by decide) (by decide)) (by decide) (by decide)),
   comp ((w 3 true rfl rfl (by decide)).1 (by decide)), comp ((w 1 false rfl rfl (by decide)).2 (hk .ioRd) (by decide) rfl rfl (q _ (by simp [hx]) (by simp [hx]))),
   comp (b.1 (by decide) (by decide) rfl (q _ (by decide) (by decide)).1), comp (b.2 15 rfl (by decide) rfl),
   comp (((h.2 (hm {}) ln).2.2.1 127 (by decide)).1 (by decide)), comp (((h.2 (hm {}) ln).2.2.1 126 (by decide)).2 (by decide)),
   nx (((h.2 (hm {}) ln).2.2.2.1 15 (by decide)).1 (by intro w hw; exact absurd hw (List.not_mem_nil))),
   comp ((((h.2 (hm { walks := [{ tenant := 15, reset := true }], dir := held127 .s }) ln).2.2.2.1 15 (by decide)).2 { tenant := 15, reset := true } (by decide)).1 rfl),
   comp ((((h.2 (hm { walks := [{ tenant := 15, reset := false }] }) ln).2.2.2.1 15 (by decide)).2 { tenant := 15, reset := false } (by decide)).2 rfl (by decide) rfl rfl),
   nx (((h.2 State.reset ln).2.2.2.2 11 .ok (by decide)).1 rfl),
   comp (((h.2 { State.reset with pool := { chan := [(11, { scrubEn := true, st := .ready, capacity := 1, scrubPos := 4194302 })] } } ln).2.2.2.2 11 .ok (by decide)).2
     rfl (by decide) (.inl rfl) (by decide))⟩

/-! ## Data mover -/

/-- The descriptor at address 0 of the program store (its four words), the shape table at 0x100 (words 0, 1 and 8). -/
def mvS (op : Nat) (w : Ox) (d : List W64) (ch : Tab Mover := []) : State :=
  let b := wrBytes [] 0 (d.flatMap fun x => natLe 8 x.toNat)
  let t := wrBytes (wrBytes b 0x100 (natLe 8 (7 * 2 ^ 51) ++ natLe 8 0x10)) 0x140 (natLe 8 0x1000)
  let s := ox op w
  { s with seq := { s.seq with ps := t }, mov := { ch := ch } }
/-- Channel 71, descriptor in the program store. -/
def mv (d : BitVec 4 := 0) (mod : BitVec 8 := 0x10) (ch : BitVec 32 := 71) : Ox := wd d (mod := mod) (imm := ch)

def isOk : MvCheck → Bool | .ok _ => true | _ => false
theorem okM {r : MvCheck × State} (h : isOk r.1 = true) : ∃ j v, r = (.ok j, v) :=
  match r with
  | (.ok j, v) => ⟨j, v, Eq.refl _⟩
  | (.fault _, _) | (.retire _, _) => Bool.noConfusion h
theorem peek2 (s : State) (t : Option Nat) (a n : Nat) (h : psErr s a n = false) : peekSpan s t 2 a n = (some (psRead s a n), s) := by
  simp [peekSpan, h]

theorem witness_DataMoverStarts (h : Obligations.DataMover) :
    runs (.copy 0 (mv)) (mvS 0x60 (mv) [64, 0, 0x1000, 0]) ∧ runs (.gather 0 (mv)) (mvS 0x61 (mv) [0x1000000000000040, 0, 0x1000, 4]) ∧
    runs (.reshape 0 (mv)) (mvS 0x62 (mv) [0x2080000000000040, 0, 0, 0x100]) ∧ runs (.fill 0 (mv)) (mvS 0x63 (mv) [0x3000000000000040, 0, 0x1000, 0xFF]) ∧
    runs (.copy 0 (mv)) (mvS 0x60 (mv) [64, 0, 0x1000, 0] [(71, { st := .running })]) :=
  have g (i op k d ch) (a) (b : _ ∨ _ ∨ _ ∨ _) (e) (f) (p) := (h.1 (mvS op (mv) d ch) 0 (mv) a).1 i op k b (iss e) (by decide) (.inr (by decide)) (by decide) (by decide) f
    _ _ (peek2 _ _ _ _ p)
  ⟨(okM (by decide)).elim fun j k => k.elim fun v e =>
     comp ((g (.copy 0 (mv)) 0x60 .copy [64, 0, 0x1000, 0] [] (by decide) (.inl ⟨rfl, rfl, rfl⟩) (by decide) (by decide) (by decide)).1 j v (by decide) e),
   (okM (by decide)).elim fun j k => k.elim fun v e =>
     comp ((g (.gather 0 (mv)) 0x61 .gather [0x1000000000000040, 0, 0x1000, 4] [] (by decide) (.inr (.inl ⟨rfl, rfl, rfl⟩)) (by decide) (by decide) (by decide)).1 j v (by decide) e),
   (okM (by decide)).elim fun j k => k.elim fun v e =>
     comp ((g (.reshape 0 (mv)) 0x62 .reshape [0x2080000000000040, 0, 0, 0x100] [] (by decide) (.inr (.inr (.inl ⟨rfl, rfl, rfl⟩))) (by decide) (by decide) (by decide)).1 j v (by decide) e),
   (okM (by decide)).elim fun j k => k.elim fun v e =>
     comp ((g (.fill 0 (mv)) 0x63 .fill [0x3000000000000040, 0, 0x1000, 0xFF] [] (by decide) (.inr (.inr (.inr ⟨rfl, rfl, rfl⟩))) (by decide) (by decide) (by decide)).1 j v (by decide) e),
   comp ((g (.copy 0 (mv)) 0x60 .copy [64, 0, 0x1000, 0] [(71, { st := .running })] (by decide) (.inl ⟨rfl, rfl, rfl⟩) (by decide) (by decide) (by decide)).2 (.inl (by decide)))⟩

def jb (ph : MvPhase := .next) (pause : Bool := false) : Job :=
  { desc := { kind := .copy, srcSpace := 0, dstSpace := 0, auxSpace := 0, wb := false, psnStop := false, prio := 0, shift := 0, esize := 1, len := 64, src := 0,
              dst := 0x1000, aux := 0 }, phase := ph, pause := pause }
/-- A channel as given, when the instruction or the transfer finds it. -/
def mvX (op : Nat) (w : Ox) (ch : Nat) (m : Mover) : State := { ox op w with mov := { ch := [(ch, m)] } }

theorem witness_DataMoverControl (h : Obligations.DataMover) :
    runs (.mvstat 0 (mv 3 1)) (mvX 0x64 (mv 3 1) 71 {}) ∧ runs (.mvpause 0 (mv 0 0 63)) (mvX 0x65 (mv 0 0 63) 63 {}) ∧
    runs (.mvpause 0 (mv 0 0 63)) (mvX 0x65 (mv 0 0 63) 63 { st := .running, job := some (jb) }) ∧
    runs (.mvabort 0 (mv 0 0)) (mvX 0x66 (mv 0 0) 71 {}) ∧ runs (.mvabort 0 (mv 0 0)) (mvX 0x66 (mv 0 0) 71 { st := .paused, job := some (jb) }) ∧
    runs (.mvabort 0 (mv 0 0)) (mvX 0x66 (mv 0 0) 71 { st := .running, job := some (jb) }) ∧
    runs (.mvresume 0 (mv 0 0 63)) (mvX 0x67 (mv 0 0 63) 63 { st := .paused, job := some (jb) }) :=
  ⟨comp ((h.1 (mvX 0x64 (mv 3 1) 71 {}) 0 (mv 3 1) (by decide)).2.1 (iss (by decide)) (by decide) (by decide)),
   comp (((h.1 (mvX 0x65 (mv 0 0 63) 63 {}) 0 (mv 0 0 63) (by decide)).2.2.1 (iss (by decide)) (by decide)).1 (by decide)),
   comp (((h.1 (mvX 0x65 (mv 0 0 63) 63 { st := .running, job := some (jb) }) 0 (mv 0 0 63) (by decide)).2.2.1 (iss (by decide)) (by decide)).2 (jb) (by decide) (by decide) (by decide)),
   comp (((h.1 (mvX 0x66 (mv 0 0) 71 {}) 0 (mv 0 0) (by decide)).2.2.2.1 (iss (by decide)) (by decide)).1 (by decide)),
   comp (((h.1 (mvX 0x66 (mv 0 0) 71 { st := .paused, job := some (jb) }) 0 (mv 0 0) (by decide)).2.2.2.1 (iss (by decide)) (by decide)).2.1 (jb) (by decide) (by decide)),
   comp (((h.1 (mvX 0x66 (mv 0 0) 71 { st := .running, job := some (jb) }) 0 (mv 0 0) (by decide)).2.2.2.1 (iss (by decide)) (by decide)).2.2 (jb) (by decide) (by decide) (by decide)),
   comp ((h.1 (mvX 0x67 (mv 0 0 63) 63 { st := .paused, job := some (jb) }) 0 (mv 0 0 63) (by decide)).2.2.2.2 (iss (by decide)) (by decide) (by decide))⟩

/-- Channel 71 as given; its class at throttle level 0, 8 or as given. -/
def mv71 (m : Mover) (level : Nat := 0) : State := { State.reset with mov := { ch := [(71, m)] }, pwr := { level := [(2, level)] } }

theorem witness_DataMoverTransfers (h : Obligations.DataMover) :
    runs (.moveTransfer 71) State.reset ∧ runs (.moveTransfer 71) (mv71 { st := .running, job := some (jb) } 8) ∧
    runs (.moveTransfer 71) (mv71 { st := .running, job := some (jb .next true) }) ∧
    runs (.moveTransfer 71) (mv71 { st := .running, job := some { jb with pos := 64 } }) ∧ runs (.moveEnd 71) State.reset ∧
    runs (.moveEnd 71) (mv71 { st := .running, owner := 0, job := some (jb .flush) }) :=
  ⟨nx ((h.2 State.reset 71 (by decide)).1 (by decide)),
   comp (((h.2 (mv71 { st := .running, job := some (jb) } 8) 71 (by decide)).2.1 (by decide)).1 (by decide)),
   comp ((((h.2 (mv71 { st := .running, job := some (jb .next true) }) 71 (by decide)).2.1 (by decide)).2 (jb .next true) (by decide) (by decide) rfl).1 rfl),
   comp ((((h.2 (mv71 { st := .running, job := some { jb with pos := 64 } }) 71 (by decide)).2.1 (by decide)).2 { jb with pos := 64 } (by decide) (by decide) rfl).2 rfl
     (by decide) (by decide) rfl),
   nx ((h.2 State.reset 71 (by decide)).2.2.1 (.inl rfl)),
   comp ((h.2 (mv71 { st := .running, owner := 0, job := some (jb .flush) }) 71 (by decide)).2.2.2 (jb .flush) (by decide) rfl rfl)⟩

/-! ## Time and takes -/

/-- Set 63 as given, when the instruction finds it. -/
def tk (op : Nat) (w : Ox) (k : TakeSet) : State := { ox op w with time := { take := [(63, k)] } }
def it63 : Item := { op := 0x44, w := wd, ka := 0, kb := 0, c := 0 }
def w63 : Ox := wd (imm := 63)
/-- AT: wait for instant 0, for 5, arm for 5. -/
def at0 : Ox := wd
def at5 : Ox := wd (B := 5)
def arm5 : Ox := wd (mod := 1) (B := 5)
def wfr : Ox := wd 3 (imm := 3) (B := 9)
/-- TAKEARM of set 63 on reference 3, after 255 edges. -/
def arm63 : Ox := wd (imm := 0x00FF033F)

theorem witness_TimeInstructions (h : Obligations.TimeInstructions) :
    runs (.atWait 0 at0) (ox 0x71 at0) ∧ runs (.atWait 0 at5) (ox 0x71 at5) ∧ runs (.atArm 0 arm5) (ox 0x71 arm5) ∧
    runs (.atTimerExpiry 17) State.reset ∧ runs (.atTimerExpiry 17) (ctx17 { atWait := some 0 }) ∧
    runs (.atTimerExpiry 17) (ctx17 { st := .waiting, wait := .time 1 }) ∧ runs (.atTimerExpiry 17) (ctx17 { st := .waiting, wait := .time 0 }) ∧
    runs (.waitframe 0 wfr) (ox 0x72 wfr) ∧ runs (.waitframeTimeout 17) (ctx17 { st := .waiting, wait := .frame 3 15 (some 1) }) ∧
    runs (.waitframeTimeout 17) (ctx17 { st := .waiting, wait := .frame 3 15 (some 0) }) ∧ runs (.takeadd 0 w63) (ox 0x73 w63) ∧
    runs (.takeadd 0 w63) (tk 0x73 w63 { st := .ready, owner := 0 }) ∧ runs (.takearm 0 arm63) (tk 0x74 arm63 { owner := 0, items := [it63] }) ∧
    runs (.takearm 0 arm63) (ox 0x74 arm63) ∧ runs (.takedrop 0 w63) (tk 0x75 w63 { owner := 0 }) ∧ runs (.takedrop 0 w63) (ox 0x75 w63) :=
  have x (y : Ctx) := h (ctx17 y) 17 at0
  ⟨comp (((h (ox 0x71 at0) 0 at0).1 (iss (by decide))).1 (by decide) (by decide)), comp (((h (ox 0x71 at5) 0 at5).1 (iss (by decide))).2.1 (by decide) (by decide)),
   comp (((h (ox 0x71 arm5) 0 arm5).1 (iss (by decide))).2.2 (by decide)),
   nx (((h State.reset 17 at0).2.1 (by decide) (fun _ e => nomatch (show Wait.none = _ from e))).1 fun _ e => nomatch (show (none : Option W64) = _ from e)),
   comp (((x { atWait := some 0 }).2.1 (by decide) (fun _ e => nomatch (show Wait.none = _ from e))).2 0 rfl (by decide)),
   nx (((x { st := .waiting, wait := .time 1 }).2.2.1 (by decide) rfl 1 rfl rfl).1 (by decide)),
   comp (((x { st := .waiting, wait := .time 0 }).2.2.1 (by decide) rfl 0 rfl rfl).2 (by decide)),
   comp ((h (ox 0x72 wfr) 0 wfr).2.2.2.1 (iss (by decide))),
   nx (((x { st := .waiting, wait := .frame 3 15 (some 1) }).2.2.2.2.1 (by decide) rfl 3 15 1 rfl).1 (by decide)),
   comp (((x { st := .waiting, wait := .frame 3 15 (some 0) }).2.2.2.2.1 (by decide) rfl 3 15 0 rfl).2 (by decide)),
   comp (((h (ox 0x73 w63) 0 w63).2.2.2.2.2.1 (iss (by decide))).1 (by decide)),
   comp (((h (tk 0x73 w63 { st := .ready, owner := 0 }) 0 w63).2.2.2.2.2.1 (iss (by decide))).2 (by decide)),
   comp (((h (tk 0x74 arm63 { owner := 0, items := [it63] }) 0 arm63).2.2.2.2.2.2.1 (iss (by decide)) (by decide) (by decide)).1 (by decide) (by decide)),
   comp (((h (ox 0x74 arm63) 0 arm63).2.2.2.2.2.2.1 (iss (by decide)) (by decide) (by decide)).2 (by decide)),
   comp (((h (tk 0x75 w63 { owner := 0 }) 0 w63).2.2.2.2.2.2.2 (iss (by decide))).1 (by decide)),
   comp (((h (ox 0x75 w63) 0 w63).2.2.2.2.2.2.2 (iss (by decide))).2 (by decide))⟩

def tm (t : TimeU) : State := { State.reset with time := t }

theorem witness_FabricTimeCommands (h : Obligations.FabricTimeCommands) :
    runs (.timePpsEdge 0) (tm { setAtPps := true }) ∧ runs (.timePpsEdge 3) (tm { mode := 2 }) ∧ runs (.timePpsEdge 3) (tm { mode := 1, fab := 1003 }) ∧
    runs (.timePpsEdge 3) (tm { mode := 1, fab := 1004 }) ∧ runs .ppsLossTimeout (tm { mono := 1499999999 }) ∧ runs .ppsLossTimeout (tm { mono := 1500000000 }) ∧
    runs .setNow State.reset ∧ runs .setAtPps State.reset ∧ runs (.timeModeWrite 0xC8000000) State.reset ∧ runs (.timeAdjWrite 0x800000) (tm { mode := 2 }) :=
  have e (t) := h (tm t) 0xC8000000 3
  ⟨comp ((h (tm { setAtPps := true }) 0 0).1 rfl), comp ((e { mode := 2 }).2.1 rfl (by decide)),
   ((e { mode := 1, fab := 1003 }).2.2.1 rfl rfl).elim fun t k => ⟨t, k.1⟩, ((e { mode := 1, fab := 1004 }).2.2.1 rfl rfl).elim fun t k => ⟨t, k.1⟩,
   nx ((e { mono := 1499999999 }).2.2.2.1 (by decide)), comp ((e { mono := 1500000000 }).2.2.2.2.1 (by decide)), comp (e {}).2.2.2.2.2.1, comp (e {}).2.2.2.2.2.2.1,
   comp (e {}).2.2.2.2.2.2.2.1, comp (h (tm { mode := 2 }) 0x800000 0).2.2.2.2.2.2.2.2⟩

/-- Reference 3 as given, at monotonic count `m`. -/
def rf (x : FRef) (m : W64 := 0) (f : Tab FOut := []) : State := tm { mono := m, fab := m, ref := [(3, x)], fout := f }

theorem witness_FrameReferences (h : Obligations.FrameReferencesAndTakeSets) :
    runs (.frameRefEdge 3 0) State.reset ∧ runs (.frameRefEdge 3 0) (rf { enable := true, locked := true, period := 1000 } 2000) ∧
    runs (.frameRefEdge 3 0) (rf { enable := true, locked := true, period := 1000 } 2001) ∧ runs (.frameRefEdge 3 0) (rf { enable := true }) ∧
    runs (.frameEdgeMissing 3) State.reset ∧ runs (.frameEdgeMissing 3) (rf { locked := true, period := 1000 } 2100) ∧
    runs (.frameEdgeMissing 3) (rf { locked := true, period := 1000, synthRun := 8 } 2100) ∧ runs (.frameRefEnable 3 0xFFFFFFFF) State.reset ∧
    runs (.frameRefEnable 3 0) (rf { enable := true }) ∧ runs (.frameRefDisable 3) (rf { enable := true }) ∧ runs (.frameOutPulse 1) State.reset ∧
    runs (.frameOutPulse 1) (rf { locked := true } 5 [(1, { enable := true, src := 3, due := [5] })]) :=
  have r (x m) := h.1 (rf x m) 3 0 0 (by decide)
  have z := h.1 State.reset 3 0 0xFFFFFFFF (by decide)
  ⟨nx (z.1 rfl), comp (((r { enable := true, locked := true, period := 1000 } 2000).2.1 rfl rfl).1 (by decide)),
   comp (((r { enable := true, locked := true, period := 1000 } 2001).2.1 rfl rfl).2 (by decide)),
   comp (((r { enable := true } 0).2.2.1 rfl rfl).1 (by decide)), nx (z.2.2.2.1 (by decide)),
   comp (((r { locked := true, period := 1000 } 2100).2.2.2.2.1 rfl (by decide)).1 rfl (by decide)),
   comp (((r { locked := true, period := 1000, synthRun := 8 } 2100).2.2.2.2.1 rfl (by decide)).2 (.inr (by decide))),
   comp (z.2.2.2.2.2.1 rfl), comp ((r { enable := true } 0).2.2.2.2.2.2.1 rfl), comp ((r { enable := true } 0).2.2.2.2.2.2.2.1 rfl),
   nx ((z.2.2.2.2.2.2.2.2 1 (by decide)).1 (.inl rfl)),
   comp (((h.1 (rf { locked := true } 5 [(1, { enable := true, src := 3, due := [5] })]) 3 0 0 (by decide)).2.2.2.2.2.2.2.2 1 (by decide)).2 5 [] rfl rfl rfl (by decide))⟩

/-- The fifth edge at 100 Hz, code 10, locks. -/
theorem witness_FrameLock (h : Obligations.FrameReferencesAndTakeSets) :
    runs (.frameRefEdge 3 0) (rf { enable := true, edges := [0, 10000000, 20000000, 30000000] } 40000000) :=
  comp (((h.1 (rf { enable := true, edges := [0, 10000000, 20000000, 30000000] } 40000000) 3 0 0 (by decide)).2.2.1 rfl rfl).2 10 (by decide) (by decide))

/-- An item that is refused: an activate of sheet 24575, which is not valid. -/
def itNo : Item := { op := 0x45, w := wd (imm := 0x30005FFF), ka := 0, kb := 0, c := 0 }
/-- Set 63 as given. -/
def tk63 (k : TakeSet) (m : Nat := 0) : State := tm { take := [(63, k)], maxSlips := m }
/-- Armed at instant 0, which is reached. -/
def armT (judged : Bool) : Arm := { ref := 3, timeMode := true, edgesLeft := 0, offset := 0, inst := some 0, instMono := none, judged := judged }

theorem witness_TakeSets (h : Obligations.FrameReferencesAndTakeSets) :
    runs (.takePrepared 63) State.reset ∧ runs (.takePrepared 63) (tk63 { st := .preparing }) ∧ runs (.takeReadinessPoint 63) State.reset ∧
    runs (.takeReadinessPoint 63) (tk63 { st := .ready, arm := some (armT false) }) ∧ runs (.takeReadinessPoint 63) (tk63 { st := .preparing, arm := some (armT false), slips := 255 } 255) ∧
    runs (.takeReadinessPoint 63) (tk63 { st := .preparing, arm := some (armT false) }) ∧ runs (.takeApplication [63]) State.reset ∧
    runs (.takeApplication [63]) (tk63 { st := .preparing, arm := some (armT true), slips := 255 } 255) ∧
    runs (.takeApplication [63]) (tk63 { st := .preparing, arm := some (armT true) }) ∧ runs (.takeApplication [63]) (tk63 { st := .ready, arm := some (armT true) }) ∧
    runs (.takeApplication [63]) (tk63 { st := .ready, arm := some (armT true), items := [itNo] }) ∧ runs (.takeCommitWrite 63) State.reset :=
  have z := h.2 State.reset 63 (by decide)
  have k (t m) := h.2 (tk63 t m) 63 (by decide)
  ⟨nx (z.1 (by decide)), comp ((k { st := .preparing } 0).2.1 rfl), nx (z.2.2.1 (.inl (by decide))),
   comp (((k { st := .ready, arm := some (armT false) } 0).2.2.2.1 (armT false) (by decide) (by decide) rfl rfl).1 (by decide)),
   comp (((k { st := .preparing, arm := some (armT false), slips := 255 } 255).2.2.2.1 (armT false) (by decide) (by decide) rfl rfl).2.1 (by decide) (by decide)),
   comp (((k { st := .preparing, arm := some (armT false) } 0).2.2.2.1 (armT false) (by decide) (by decide) rfl rfl).2.2 (by decide) (by decide)),
   nx (z.2.2.2.2.1 (.inl (by decide))),
   comp (((k { st := .preparing, arm := some (armT true), slips := 255 } 255).2.2.2.2.2.1 (by decide) (by decide)).1 (by decide) (by decide)),
   comp (((k { st := .preparing, arm := some (armT true) } 0).2.2.2.2.2.1 (by decide) (by decide)).2.1 (by decide) (by decide)),
   comp (((k { st := .ready, arm := some (armT true) } 0).2.2.2.2.2.1 (by decide) (by decide)).2.2.1 (by decide) (by decide)),
   (Option.isSome_iff_exists.mp (by decide : (evalItems (getTake (tk63 { st := .ready, arm := some (armT true), items := [itNo] }) 63).items 0
     (tk63 { st := .ready, arm := some (armT true), items := [itNo] })).1.isSome = true)).elim fun x e =>
     comp (((k { st := .ready, arm := some (armT true), items := [itNo] } 0).2.2.2.2.2.1 (by decide) (by decide)).2.2.2 (by decide) x.1 x.2.1 x.2.2 e),
   comp z.2.2.2.2.2.2⟩

/-! ## Tenants, resets, spares, locks, images -/

/-- TENANT on tenant 15. -/
def tn (op : BitVec 32) (B : W64 := 0) : Ox := wd (imm := op * 0x100 + 15) (B := B)
/-- Tenant 15 as given, when the instruction finds it. -/
def tnS (w : Ox) (x : Ten := { exist := true }) (op : Nat := 0xA0) : State := { ox op w with ten := [(15, x)] }

theorem witness_TenantInstructions (h : Obligations.TenantsAndUnitResetEnds) :
    runs (.tenantCreate 0 (tn 0)) (tnS (tn 0)) ∧ runs (.tenantCreate 0 (tn 0 0x103FF)) (ox 0xA0 (tn 0 0x103FF)) ∧ runs (.tenantRemove 0 (tn 1)) (ox 0xA0 (tn 1)) ∧
    runs (.tenantTimeout 0 (tn 2 1023)) (ox 0xA0 (tn 2 1023)) ∧ runs (.tenantCounterRead 0 (tn 3)) (ox 0xA0 (tn 3)) ∧
    runs (.tenantRemove 0 (tn 1)) (tnS (tn 1) { exist := true, len := 1 }) ∧ runs (.tenantRemove 0 (tn 1)) (tnS (tn 1)) ∧
    runs (.tenantTimeout 0 (tn 2 1023)) (tnS (tn 2 1023)) ∧ runs (.tenantCounterRead 0 (tn 3 0x10000)) (tnS (tn 3 0x10000)) :=
  have n (w e) := h.1 (ox 0xA0 w) 0 w e
  ⟨comp ((h.1 (tnS (tn 0)) 0 (tn 0) (iss (by decide))).1 (by decide) (.inl (by decide))),
   comp ((n (tn 0 0x103FF) (iss (by decide))).2.1 (by decide) (by decide) (by decide)),
   comp (((n (tn 1) (iss (by decide))).2.2.1 (by decide) (by decide) (by decide)).1 (by decide)),
   comp (((n (tn 2 1023) (iss (by decide))).2.2.1 (by decide) (by decide) (by decide)).2.1 (by decide)),
   comp (((n (tn 3) (iss (by decide))).2.2.1 (by decide) (by decide) (by decide)).2.2 (by decide)),
   comp (((h.1 (tnS (tn 1) { exist := true, len := 1 }) 0 (tn 1) (iss (by decide))).2.2.2 (by decide)).1 (by decide) (by decide)),
   comp (((h.1 (tnS (tn 1)) 0 (tn 1) (iss (by decide))).2.2.2 (by decide)).2.1 (by decide) (by decide) (.inr (by decide))),
   comp (((h.1 (tnS (tn 2 1023)) 0 (tn 2 1023) (iss (by decide))).2.2.2 (by decide)).2.2.1 (by decide)),
   comp (((h.1 (tnS (tn 3 0x10000)) 0 (tn 3 0x10000) (iss (by decide))).2.2.2 (by decide)).2.2.2 (by decide))⟩

theorem witness_UnitResetEnds (h : Obligations.TenantsAndUnitResetEnds) :
    runs (.unitResetEnd 6 71) (ctx17 { st := .waiting, wait := .unit 6 71 } (mv71 { rst := .inReset })) ∧
    runs (.unitResetEnd 6 71) State.reset ∧ runs (.glbHoldWrite 7 0x8200000F) State.reset ∧ runs (.glbHoldWrite 7 0x86000047) State.reset :=
  ⟨comp ((h.2 (ctx17 { st := .waiting, wait := .unit 6 71 } (mv71 { rst := .inReset })) 6 71
     (by decide)).1 17 (by decide) (by decide) (by decide)),
   comp (h.2 State.reset 6 71 (by decide)).2.1,
   comp (((h.2 State.reset 6 71 (by decide)).2.2 7 0x8200000F (by decide)).1 (by decide) (by decide) (by decide) (by decide) (by decide)),
   comp (((h.2 State.reset 6 71 (by decide)).2.2 7 0x86000047 (by decide)).2 (by decide))⟩

/-- RESETU of a unit. -/
def ru (k i : BitVec 32) : Ox := wd (imm := k * 0x10000000 + i)

theorem witness_UnitResetInstructions (h : Obligations.UnitResetInstructions) :
    runs (.resetuPort 0 (ru 0 95)) (p95 { rst := .held } (ox 0xA1 (ru 0 95))) ∧ runs (.resetuPort 0 (ru 0 95)) (ox 0xA1 (ru 0 95)) ∧
    runs (.resetuQuire 0 (ru 1 11)) { ox 0xA1 (ru 1 11) with quire := [(11, { rst := .held })] } ∧ runs (.resetuQuire 0 (ru 1 11)) (ox 0xA1 (ru 1 11)) ∧
    runs (.resetuTenant 0 (ru 2 15)) (ox 0xA1 (ru 2 15)) ∧ runs (.resetuTenant 0 (ru 2 15)) (tnS (ru 2 15) {exist := true} 0xA1) ∧
    runs (.resetuPoolChannel 0 (ru 3 11)) { ox 0xA1 (ru 3 11) with pool := { chan := [(11, { rst := .held })] } } ∧ runs (.resetuPoolChannel 0 (ru 3 11)) (ox 0xA1 (ru 3 11)) ∧
    runs (.resetuSlot 0 (ru 4 31)) (slot31 { st := .inReset } (ox 0xA1 (ru 4 31))) ∧ runs (.resetuSlot 0 (ru 4 31)) (ox 0xA1 (ru 4 31)) ∧
    runs (.resetuContext 0 (ru 5 17)) (ox 0xA1 (ru 5 17)) ∧ runs (.resetuContext 0 (ru 5 1)) (ox 0xA1 (ru 5 1)) ∧
    runs (.resetuMoverChannel 0 (ru 6 71)) (mvX 0xA1 (ru 6 71) 71 { rst := .held }) ∧ runs (.resetuMoverChannel 0 (ru 6 71)) (ox 0xA1 (ru 6 71)) ∧
    runs (.resetuCommandPort 0 (ru 7 1)) { ox 0xA1 (ru 7 1) with cmd := { mode := 0 } } ∧ runs (.resetuCommandPort 0 (ru 7 1)) (ox 0xA1 (ru 7 1)) ∧
    runs (.resetuCoherentDomain 0 (ru 8 15)) (ox 0xA1 (ru 8 15)) ∧ runs (.resetuCoherentDomain 0 (ru 8 15)) (tnS (ru 8 15) {exist := true} 0xA1) :=
  have g (s w e) := h s 0 w e
  have r (w e) := h (ox 0xA1 w) 0 w e
  ⟨comp (((g (p95 { rst := .held } (ox 0xA1 (ru 0 95))) (ru 0 95) (iss (by decide))).1 (by decide) (by decide)).1 (by decide)),
   comp (((r (ru 0 95) (iss (by decide))).1 (by decide) (by decide)).2 (by decide) (by decide)),
   comp (((g { ox 0xA1 (ru 1 11) with quire := [(11, { rst := .held })] } (ru 1 11) (iss (by decide))).2.1 (by decide) (by decide)).1 (by decide)),
   comp (((r (ru 1 11) (iss (by decide))).2.1 (by decide) (by decide)).2 (by decide) (by decide)),
   comp (((r (ru 2 15) (iss (by decide))).2.2.1 (by decide) (by decide)).1 (by decide)),
   comp (((g (tnS (ru 2 15) {exist := true} 0xA1) (ru 2 15) (iss (by decide))).2.2.1 (by decide) (by decide)).2 (by decide) (by decide) (by decide)),
   comp (((g { ox 0xA1 (ru 3 11) with pool := { chan := [(11, { rst := .held })] } } (ru 3 11) (iss (by decide))).2.2.2.1 (by decide) (by decide)).1 (by decide)),
   comp (((r (ru 3 11) (iss (by decide))).2.2.2.1 (by decide) (by decide)).2 (by decide) (by decide)),
   comp (((g (slot31 { st := .inReset } (ox 0xA1 (ru 4 31))) (ru 4 31) (iss (by decide))).2.2.2.2.1 (by decide) (by decide)).1 (by decide)),
   comp (((r (ru 4 31) (iss (by decide))).2.2.2.2.1 (by decide) (by decide)).2 (by decide) (by decide)),
   comp (((r (ru 5 17) (iss (by decide))).2.2.2.2.2.1 (by decide) (by decide) (by decide)).1 (by decide)),
   comp (((r (ru 5 1) (iss (by decide))).2.2.2.2.2.1 (by decide) (by decide) (by decide)).2 (by decide) (by decide) (by decide) (by decide)),
   comp (((g (mvX 0xA1 (ru 6 71) 71 { rst := .held }) (ru 6 71) (iss (by decide))).2.2.2.2.2.2.1 (by decide) (by decide)).1 (by decide)),
   comp (((r (ru 6 71) (iss (by decide))).2.2.2.2.2.2.1 (by decide) (by decide)).2 (by decide) (by decide)),
   comp (((g { ox 0xA1 (ru 7 1) with cmd := { mode := 0 } } (ru 7 1) (iss (by decide))).2.2.2.2.2.2.2.1 (by decide) (by decide)).1 (by decide)),
   comp (((r (ru 7 1) (iss (by decide))).2.2.2.2.2.2.2.1 (by decide) (by decide)).2 (by decide) (by decide) (by decide)),
   comp (((r (ru 8 15) (iss (by decide))).2.2.2.2.2.2.2.2 (by decide) (by decide)).1 (by decide)),
   comp (((g (tnS (ru 8 15) {exist := true} 0xA1) (ru 8 15) (iss (by decide))).2.2.2.2.2.2.2.2 (by decide) (by decide)).2 (by decide) (by decide) (by decide))⟩

/-- COUCH of quire 11 to the spare, and home. -/
def cSp : Ox := wd (imm := 11)
def cHm : Ox := wd (imm := 0x10B)
/-- Quire 11 as given. -/
def q11 (x : Quire) (s : State := State.reset) : State := { s with quire := [(11, x)] }

theorem witness_Couch (h : Obligations.CouchAndLockInstructions) :
    runs (.couchToSpare 0 cSp) (ox 0xA2 cSp) ∧ runs (.couchToSpare 0 cSp) (q11 { couched := true } (ox 0xA2 cSp)) ∧
    runs (.couchHome 0 cHm) (q11 { couched := true } (ox 0xA2 cHm)) ∧ runs (.couchHome 0 cHm) (ox 0xA2 cHm) ∧
    runs (.couchHandoverEnd 11 0x10000) (q11 {}) ∧ runs (.couchHandoverEnd 11 0x10000) (q11 { busy := true, toSpare := true }) ∧
    runs (.qpeSelfTestEnd 11 true) (q11 { couched := true }) ∧ runs (.qpeSelfTestEnd 11 true) (q11 {}) :=
  have e (s w) (q : 11 = fld w.imm 0 4) := h.1 s 0 w 11 q (by decide)
  have q (x) := e (q11 x) cSp (by decide)
  ⟨comp (((e (ox 0xA2 cSp) cSp (by decide)).1 (iss (by decide)) (.couchToSpare 0 cSp) (.inl ⟨rfl, by decide⟩)).1 (by decide)),
   comp (((e (q11 { couched := true } (ox 0xA2 cSp)) cSp (by decide)).1 (iss (by decide)) (.couchToSpare 0 cSp) (.inl ⟨rfl, by decide⟩)).2 (by decide)),
   comp (((e (q11 { couched := true } (ox 0xA2 cHm)) cHm (by decide)).1 (iss (by decide)) (.couchHome 0 cHm) (.inr ⟨rfl, by decide⟩)).1 (by decide)),
   comp (((e (ox 0xA2 cHm) cHm (by decide)).1 (iss (by decide)) (.couchHome 0 cHm) (.inr ⟨rfl, by decide⟩)).2 (by decide)),
   nx (((q {}).2.1 0x10000).1 (by decide)), comp (((q { busy := true, toSpare := true }).2.1 0x10000).2 (by decide)),
   comp (((q { couched := true }).2.2 true).1 (by decide)), nx (((q {}).2.2 true).2 (by decide))⟩

/-- LOCK in an op, on key slot 3. -/
def lk (op : BitVec 32) (B : W64 := 0) : Ox := wd (imm := op) (B := B)
def lkS (w : Ox) (g : Glb) : State := { ox 0xA3 w with glb := g }

theorem witness_Lock (h : Obligations.CouchAndLockInstructions) :
    runs (.lockLifecycle 0 (lk 0 2)) (ox 0xA3 (lk 0 2)) ∧ runs (.lockLifecycle 0 (lk 0 3)) (lkS (lk 0 3) { life := .secured }) ∧
    runs (.lockRevoke 0 (lk 0x301)) (ox 0xA3 (lk 0x301)) ∧ runs (.lockRevoke 0 (lk 0x301)) (lkS (lk 0x301) { keyValid := 9 }) ∧
    runs (.lockSvn 0 (lk 2 0)) (ox 0xA3 (lk 2 0)) ∧ runs (.lockSvn 0 (lk 2 63)) (ox 0xA3 (lk 2 63)) ∧ runs (.lockSvn 0 (lk 2 63)) (lkS (lk 2 63) { svn := 62, loadedSvn := [63] }) ∧
    runs (.lockFuseKey 0 (lk 0x303 0xFFFD0)) (lkS (lk 0x303 0xFFFD0) { keyValid := 8 }) ∧ runs (.lockFuseKey 0 (lk 0x303 0xFFFD0)) (ox 0xA3 (lk 0x303 0xFFFD0)) ∧
    runs .fuseWriteDone State.reset ∧ runs .fuseWriteDone { State.reset with glb := { fuse := some (0, .svn 63) } } :=
  have r (w) := h.2 (ox 0xA3 w) 0 w
  have l (w g) := h.2 (lkS w g) 0 w
  ⟨comp (((r (lk 0 2)).1 (by decide) (by decide) (iss (by decide))).1 (by decide)),
   comp (((l (lk 0 3) { life := .secured }).1 (by decide) (by decide) (iss (by decide))).2 (by decide) (by decide)),
   comp (((r (lk 0x301)).2.1 (by decide) (iss (by decide))).1 (by decide)),
   comp (((l (lk 0x301) { keyValid := 9 }).2.1 (by decide) (iss (by decide))).2 (by decide) (by decide)),
   comp (((r (lk 2 0)).2.2.1 (by decide) (iss (by decide))).1 (by decide)),
   comp (((r (lk 2 63)).2.2.1 (by decide) (iss (by decide))).2.1 (by decide) (by decide)),
   comp (((l (lk 2 63) { svn := 62, loadedSvn := [63] }).2.2.1 (by decide) (iss (by decide))).2.2 (by decide) (by decide) (by decide)),
   comp (((l (lk 0x303 0xFFFD0) { keyValid := 8 }).2.2.2.1 (by decide) (iss (by decide)) (by decide) (by decide)).1 (by decide)),
   comp (((r (lk 0x303 0xFFFD0)).2.2.2.1 (by decide) (iss (by decide)) (by decide) (by decide)).2 (by decide) (by decide) (by decide) (by decide)),
   nx ((h.2 State.reset 0 (lk 0)).2.2.2.2.1 rfl),
   comp ((h.2 { State.reset with glb := { fuse := some (0, .svn 63) } } 0 (lk 0)).2.2.2.2.2 0 (.svn 63) rfl (by decide))⟩

/-- A pool of one serving channel with the Steward's sheet 24575; at its start the header of an image of no body, signed for slot 15. -/
def imgA : Nat := 6596801331200
def imgS (w : Ox) : State :=
  let s := pooled (shMk true 0 0 0 3 0 0) (ox 0xA4 w)
  let s := { s with pool := { s.pool with chan := [(0, { enable := true, st := .grouped })] } }
  let l := locP s (getSheet s 24575) imgA
  dramWr s l.1 l.2 [0x4F, 0x58, 0x49, 0x4D, 0x01, 0x0F] false
def imgW : Ox := wd (B := 6596801331200)
def res (i : BitVec 32) : Ox := wd (imm := i)

theorem peekIs {s : State} {t : Option Nat} {sp a n : Nat} (h : (peekSpan s t sp a n).1.isSome = true) :
    peekSpan s t sp a n = (some ((peekSpan s t sp a n).1.getD []), (peekSpan s t sp a n).2) := by
  generalize peekSpan s t sp a n = r at h ⊢
  obtain ⟨_ | x, v⟩ := r
  · simp at h
  · exact Eq.refl _

theorem witness_ImageAndResume (h : Obligations.ImageAndResume) :
    runs (.image 0 imgW) (imgS imgW) ∧ runs (.resume 0 (res 17)) (ox 0xA5 (res 17)) ∧ runs (.resume 0 (res 17)) (ctx17 { st := .halted } (ox 0xA5 (res 17))) ∧
    runs (.resume 0 (res 17)) (ctx17 { st := .faulted } (ox 0xA5 (res 17))) :=
  have i := (h (imgS imgW) 0 imgW).1 (iss (by decide)) (by decide) (by decide) _ _ (peekIs (by decide)) (by decide) (fun e => absurd (by decide) e)
    _ _ (peekIs (by decide))
  ⟨(Decidable.em _).elim (fun e => comp (i.1 e)) fun e => comp (i.2 e),
   comp (((h (ox 0xA5 (res 17)) 0 (res 17)).2 (iss (by decide)) (by decide) (by decide)).1 (by decide)),
   comp (((h (ctx17 { st := .halted } (ox 0xA5 (res 17))) 0 (res 17)).2 (iss (by decide)) (by decide) (by decide)).2.1 (by decide)),
   comp (((h (ctx17 { st := .faulted } (ox 0xA5 (res 17))) 0 (res 17)).2 (iss (by decide)) (by decide) (by decide)).2.2 (by decide) (by decide))⟩

def glbS (g : Glb) : State := { State.reset with glb := g }

theorem witness_ResetsAndSupplies (h : Obligations.ResetsSuppliesAndBoot) :
    runs .resetNAssert State.reset ∧ runs (.brownout .v33) State.reset ∧ runs (.brownout .io) State.reset ∧ runs (.thermtrip 8) State.reset ∧
    runs (.supplyLoss .v33) State.reset ∧ runs .powerUp (glbS { railsDown := [.core] }) ∧ runs (.deviceResetRelease {}) State.reset ∧
    runs (.deviceResetRelease { fabricMode := 5 }) (glbS { inReset := true }) :=
  have r := h.1 State.reset
  ⟨comp r.1, nx ((r.2.1 .v33).1 (.inl rfl)), comp ((r.2.1 .io).2 (by decide) (by decide)), comp (r.2.2.1 8 (by decide)), comp (r.2.2.2.1 .v33),
   comp (h.1 (glbS { railsDown := [.core] })).2.2.2.2.1, nx ((r.2.2.2.2.2 {}).1 (by decide)),
   comp (((h.1 (glbS { inReset := true })).2.2.2.2.2 { fabricMode := 5 }).2 (by decide))⟩

theorem witness_Boot (h : Obligations.ResetsSuppliesAndBoot) :
    runs (.imageReadDone .a true [] []) State.reset ∧ runs (.imageReadDone .a true [] []) (glbS { bootStage := 1 }) ∧
    runs (.imageReadDone .b false [] []) (glbS { bootStage := 1, bootImage := some .b }) ∧ runs .bootGo State.reset ∧ runs .bootGo (glbS { bootStage := 2 }) ∧
    runs (.imageVerifyDone 0x10000) State.reset ∧ runs (.imageVerifyDone 0x10000) (glbS { bootStage := 3, bootImage := some .host }) ∧
    runs (.imageVerifyDone 0x10000) (glbS { bootStage := 3, bootImage := some .b, imageBytes := [0x4F, 0x58, 0x49, 0x4D, 0x01, 0x0F] }) :=
  have r := h.2 State.reset
  have v (g : Glb) (src) (a b c) := ((h.2 (glbS g)).2.2.2 0x10000).2 src a b c
  ⟨nx ((r.1 .a true [] []).1 (by decide)), comp (((h.2 (glbS { bootStage := 1 })).1 .a true [] []).2 (by decide)),
   comp (((h.2 (glbS { bootStage := 1, bootImage := some .b })).1 .b false [] []).2 (by decide)), nx (r.2.1 (.inr (by decide))),
   comp ((h.2 (glbS { bootStage := 2 })).2.2.1 rfl rfl), nx ((r.2.2.2 0x10000).1 (by decide)),
   comp ((v { bootStage := 3, bootImage := some .host } .host rfl rfl rfl).2 (by decide)),
   (Decidable.em _).elim (fun e => comp ((v { bootStage := 3, bootImage := some .b, imageBytes := [0x4F, 0x58, 0x49, 0x4D, 0x01, 0x0F] } .b rfl rfl rfl).1 e))
     fun e => comp ((v { bootStage := 3, bootImage := some .b, imageBytes := [0x4F, 0x58, 0x49, 0x4D, 0x01, 0x0F] } .b rfl rfl rfl).2 e)⟩

/-! ## Command links, lanes, errors -/

/-- A partner for everything, at link 1; after the boot. -/
def cmdS (c : Cmd) (st : Nat := 4) : State := { State.reset with cmd := c, glb := { bootStage := st } }

theorem witness_CommandLinks (h : Obligations.CommandLinksAndSideband) :
    runs (.cmdLinkTrained 1 fast true) State.reset ∧ runs (.cmdLinkTrained 1 fast true) (cmdS {}) ∧ runs (.cmdLinkTrained 1 { fast with laneOk := 0 } true) (cmdS {}) ∧
    runs (.perstAssert 1) (cmdS { mode := 1 }) ∧
    runs (.perstDeassert 1) State.reset ∧ runs (.commandLinkHotReset 1) State.reset ∧ runs (.commandLinkHotReset 1) (cmdS { linkB := { up := true } }) ∧
    runs (.handover 1) State.reset ∧ runs (.handover 1) (cmdS { linkB := { up := true } }) ∧ runs (.handover 0) (cmdS { linkA := { up := true } }) ∧
    runs (.handover 0) (cmdS { linkA := { up := true }, linkB := { up := true } }) ∧ runs (.claim 0) (cmdS { linkA := { up := true } }) ∧
    runs (.claim 1) (cmdS { linkA := { up := true }, linkB := { up := true } }) ∧ runs (.claim 1) (cmdS { linkB := { up := true } }) ∧
    runs .autoFailover State.reset ∧ runs .autoFailover (cmdS { mode := 1, linkB := { up := true } }) ∧ runs .autoFailover (cmdS { mode := 1 }) :=
  have r := h.1 State.reset 1 (by decide)
  have k (c) := h.1 (cmdS c) 1 (by decide)
  have z (c) := h.1 (cmdS c) 0 (by decide)
  ⟨nx ((r.1 fast true).1 (by decide)), comp (((k {}).1 fast true).2 (by decide)), comp (((k {}).1 { fast with laneOk := 0 } true).2 (by decide)),
   (k { mode := 1 }).2.1.elim fun t e => ⟨t, e.1⟩, comp r.2.2.1, nx (r.2.2.2.1 (by decide)),
   comp ((k { linkB := { up := true } }).2.2.2.2.1 (by decide) (by decide)), nx (r.2.2.2.2.2.1 (.inl (by decide))).1,
   comp (((k { linkB := { up := true } }).2.2.2.2.2.2.1 (by decide) (by decide)).1 (by decide)),
   comp (((z { linkA := { up := true } }).2.2.2.2.2.2.1 (by decide) (by decide)).2.1 (by decide) (by decide)),
   comp (((z { linkA := { up := true }, linkB := { up := true } }).2.2.2.2.2.2.1 (by decide) (by decide)).2.2.1 (by decide) (by decide)),
   nx (((z { linkA := { up := true } }).2.2.2.2.2.2.1 (by decide) (by decide)).2.2.2.1 (by decide)),
   nx (((k { linkA := { up := true }, linkB := { up := true } }).2.2.2.2.2.2.1 (by decide) (by decide)).2.2.2.2.1 (by decide) (by decide)),
   comp (((k { linkB := { up := true } }).2.2.2.2.2.2.1 (by decide) (by decide)).2.2.2.2.2 (by decide) (by decide)),
   nx (r.2.2.2.2.2.2.2.1 (.inr (.inr (by decide)))),
   comp (((k { mode := 1, linkB := { up := true } }).2.2.2.2.2.2.2.2 (by decide) (by decide) (by decide)).1 (by decide)),
   comp (((k { mode := 1 }).2.2.2.2.2.2.2.2 (by decide) (by decide) (by decide)).2 (by decide))⟩

theorem witness_Sideband (h : Obligations.CommandLinksAndSideband) :
    runs (.mctpControlMessage 1 255) (glbS { inReset := true }) ∧ runs (.mctpControlMessage 1 255) State.reset ∧ runs (.pldmMessage 0x11 45) State.reset ∧
    runs (.mctpOtherType 2) State.reset ∧ runs (.dynamicAddressAssign true 127) State.reset :=
  have u (n v) := (h.2 State.reset n v).2 (by decide)
  ⟨nx ((h.2 (glbS { inReset := true }) 1 255).1 (by decide)).1, comp (u 1 255).1, (u 0x11 45).2.1.elim fun t e => e.elim fun _ f => ⟨t, f.1⟩,
   comp (u 2 0).2.2.1, comp ((u 0 0).2.2.2 true 127)⟩

/-- Port 95 up at 16 GT/s and four lanes. -/
def up16 : Port := { up95 with rate := 3 }

theorem witness_LanesBurstsAndReferences (h : Obligations.LanesBurstsAndReferences) :
    runs (.symbolLockLoss 95 3) State.reset ∧ runs (.symbolLockLoss 95 3) (p95 up16) ∧ runs (.patternStart 95 0xFFFFFFFF) (p95 { cfg := 0x82F30000 }) ∧
    runs (.patternStart 95 0xFFFFFFFF) State.reset ∧ runs (.patternStop 95) State.reset ∧ runs (.patternCheckerSync 95 15 true) State.reset ∧
    runs (.patternCheckerSync 95 3 false) (p95 { lanes := { patRun := true, patCtrl := 0xC0000000 } }) ∧ runs (.marginStart 95 0x83000000) (p95 up16) ∧
    runs (.marginDone 95 0 64 128 false false) State.reset ∧ runs (.marginDone 95 0xFFFFFF 65 129 false false) (p95 { up16 with lanes := { marginRun := true, marginCtrl := 0x43000000 } }) ∧
    runs (.partnerMarginCommand 95 3 true) (p95 { up16 with lanes := { marginRun := true } }) ∧ runs (.partnerMarginCommand 95 3 true) (p95 up16) ∧
    runs (.adaptationBurst 11) (p95 { up95 with rate := 5 }) ∧ runs (.adaptationBurst 11) State.reset ∧
    runs (.adaptationBurstEnd 11) State.reset ∧ runs (.refclkLoss 3) State.reset ∧ runs (.refclkRestored 3) State.reset :=
  have r := h.1 State.reset 95 0xFFFFFFFF 15 (by decide) (by decide)
  have l (x v) := h.1 (p95 x) 95 v 3 (by decide) (by decide)
  have o := h.2 State.reset
  ⟨nx ((h.1 State.reset 95 0 3 (by decide) (by decide)).1 (.inl (by decide))), comp ((l up16 0).2.1 (by decide) (by decide)),
   comp (((l { cfg := 0x82F30000 } 0xFFFFFFFF).2.2.1 (by decide) (by decide)).1 (by decide)), comp ((r.2.2.1 (by decide) (by decide)).2 (by decide) (by decide)),
   comp (r.2.2.2.1 (by decide)), nx ((r.2.2.2.2.1 true).1 (by decide)), comp (((l { lanes := { patRun := true, patCtrl := 0xC0000000 } } 0).2.2.2.2.1 false).2 (by decide)),
   comp ((l up16 0x83000000).2.2.2.2.2.1 (by decide) (by decide) (by decide)), comp ((r.2.2.2.2.2.2.1 0 64 128 false false).1 (by decide)),
   comp (((l { up16 with lanes := { marginRun := true, marginCtrl := 0x43000000 } } 0).2.2.2.2.2.2.1 0xFFFFFF 65 129 false false).2 (by decide)),
   nx (((l { up16 with lanes := { marginRun := true } } 0).2.2.2.2.2.2.2 true).1 (by decide)), comp (((l up16 0).2.2.2.2.2.2.2 true).2 (by decide)),
   comp (((h.2 (p95 { up95 with rate := 5 })).1 11 (by decide)).1 (by decide)), nx ((o.1 11 (by decide)).2.1 (by decide)),
   comp (o.1 11 (by decide)).2.2, comp ((o.2 3 (by decide)).2.1 (by decide)), comp (o.2 3 (by decide)).2.2⟩

theorem witness_MemoryErrors (h : Obligations.MemoryErrors) :
    runs (.correctableMemoryError 1 11 1 0 0) State.reset ∧ runs (.correctableMemoryError 1 11 0 0xFFFFFF 255) State.reset ∧
    runs (.uncorrectableMemoryError .portState 95 0) State.reset ∧ runs (.uncorrectableMemoryError .programStore 65535 0) State.reset ∧
    runs (.uncorrectableMemoryError .routeEntry (4096 * 11 + 4095) 0) State.reset ∧ runs (.uncorrectableMemoryError .replicationGroup 1023 0) State.reset ∧
    runs (.uncorrectableMemoryError .sheetTable 24575 1) State.reset ∧ runs (.uncorrectableMemoryError .sheetTable 24575 2) State.reset ∧
    runs (.uncorrectableMemoryError .deckleTable 8191 1) State.reset ∧ runs (.uncorrectableMemoryError .deckleTable 8191 2) State.reset ∧
    runs (.uncorrectableMemoryError .paceHistory 0 0) State.reset :=
  have r := h State.reset
  ⟨nx ((r.1 1 11 1 0 0).1 (by decide)), comp ((r.1 1 11 0 0xFFFFFF 255).2 (by decide)), comp (r.2.2.1 95 0 0 (by decide) (by decide) (by decide) (by decide) (by decide)),
   comp (r.2.2.2.1 65535 0 (by decide)), comp (r.2.2.2.2.1 11 4095 0 (by decide) (by decide)), comp (r.2.2.2.2.2.1 1023 0 (by decide)),
   comp ((r.2.2.2.2.2.2.1 24575 1 (by decide)).1 (by decide)), comp ((r.2.2.2.2.2.2.1 24575 2 (by decide)).2 (by decide) (by decide)),
   comp ((r.2.2.2.2.2.2.2.1 8191 1 (by decide)).1 (by decide)), comp ((r.2.2.2.2.2.2.2.1 8191 2 (by decide)).2 (by decide) (by decide)),
   comp (r.2.2.2.2.2.2.2.2 0 0)⟩

/-! ## Hierarchy -/

/-- The stack unit as given. -/
def hi (k : Stk) : State := { State.reset with stk := k }
/-- A manager that knows device 1023; a joined standby that lost its manager. -/
def mgr : Stk := { mode := 1, hbEnable := true, peers := [(1023, { joined := true, port := 95 })] }
def stby : Stk := { mode := 2, standby := true, hbLost := true, peers := [(1023, { joined := true, port := 95 })] }

theorem witness_HierarchyCommands (h : Obligations.HierarchyCommands) :
    runs (.stkModeWrite 7) State.reset ∧ runs (.stkModeWrite 3) State.reset ∧ runs (.domainKeyWrite 0) (hi { keyLock := true }) ∧
    runs (.domainKeyWrite 0xFFFFFFFF) State.reset ∧ runs .keyLockWrite State.reset ∧ runs (.stkProxyWrite 511 0x80000000) (hi { proxy := [(511, 0x80000000)] }) ∧
    runs (.stkProxyWrite 511 0xFFFFFFFF) State.reset ∧ runs .heartbeatSend State.reset ∧ runs .heartbeatSend (hi mgr) ∧
    runs .heartbeatLoss { hi { mode := 2 } with time := { mono := 30000000 } } ∧ runs .heartbeatLoss { hi { mode := 2 } with time := { mono := 29999999 } } ∧
    runs .timeDistribution { hi mgr with time := { fab := 800000000 } } ∧ runs .timeDistribution { hi mgr with time := { fab := 800000001 } } ∧
    runs .promoteWrite State.reset ∧ runs .promoteWrite (hi stby) :=
  have r := h State.reset
  have m := h (hi mgr)
  ⟨comp ((r.1 7).1 (by decide)), comp ((r.1 3).2 (by decide)), comp (((h (hi { keyLock := true })).2.1 0).1 rfl), comp ((r.2.1 0xFFFFFFFF).2 rfl), comp r.2.2.1,
   comp (((h (hi { proxy := [(511, 0x80000000)] })).2.2.2.1 511 0x80000000 (by decide)).1 (by decide)), comp ((r.2.2.2.1 511 0xFFFFFFFF (by decide)).2 (by decide)),
   nx (r.2.2.2.2.1 (.inl (by decide))), comp (m.2.2.2.2.2.1 (by decide) rfl),
   comp ((h { hi { mode := 2 } with time := { mono := 30000000 } }).2.2.2.2.2.2.1.1 (by decide)),
   nx ((h { hi { mode := 2 } with time := { mono := 29999999 } }).2.2.2.2.2.2.1.2 (by decide)),
   comp ((h { hi mgr with time := { fab := 800000000 } }).2.2.2.2.2.2.2.1.1 (by decide)),
   nx ((h { hi mgr with time := { fab := 800000001 } }).2.2.2.2.2.2.2.1.2 (by decide)),
   nx (r.2.2.2.2.2.2.2.2.1 (by decide)), comp ((h (hi stby)).2.2.2.2.2.2.2.2.2 (by decide))⟩

/-- Port 95, a fabric link that is up, with the stack unit as given. -/
def mg (k : Stk) (role : W32 := 0xB2F30000) : State := p95 { cfg := role, link := .up, mode := 1 } (hi k)
/-- A joined worker, device 1023, at epoch 5; it heard device 1 with sequence 4. -/
def wkr : Stk := { mode := 2, dev := 1023, epoch := 5, peers := [(1, { joined := true, port := 95, rxSeq := 4 })] }
/-- A message from device 1 to device 1023, tagged in the session with device 1. -/
def ms (s : State) (n : Nat) (pl : List Byte := []) (q : W64 := 5) (e : W32 := 5) (more : List Byte := []) (x : Peer := getPeer s 1) : Mgmt :=
  let m : Mgmt := { sender := 1, receiver := 1023, epoch := e, sequence := q, payload := pl }
  { m with tag := mgmtTag s x n m ++ more }
theorem msTag (s n pl q e x) : mgmtTag s x n (ms s n pl q e [] x) = (ms s n pl q e [] x).tag := (List.append_nil _).symm
theorem msBad (s n pl q e x) : ¬mgmtTag s x n (ms s n pl q e [0] x) = (ms s n pl q e [0] x).tag := fun h => by
  have k : (mgmtTag s x n (ms s n pl q e [0] x)).length = (mgmtTag s x n (ms s n pl q e [0] x) ++ [0]).length := congrArg List.length h
  rw [List.length_append] at k
  exact absurd k (Nat.ne_of_lt (Nat.lt_succ_self _))

theorem witness_MessagesDropped (h : Obligations.ManagementMessages) :
    runs (.msgHeartbeat 95 (ms State.reset 5)) State.reset ∧ runs (.msgHeartbeat 95 (ms (mg wkr 0xA2F30000) 5)) (mg wkr 0xA2F30000) ∧
    runs (.msgHeartbeat 95 (ms (mg wkr) 5 [] 5 5 [0])) (mg wkr) ∧ runs (.msgHeartbeat 95 (ms (mg wkr) 5 [] 4)) (mg wkr) ∧
    runs (.msgHeartbeat 95 (ms (mg { wkr with joined := false }) 5)) (mg { wkr with joined := false }) ∧
    runs (.msgHeartbeat 95 (ms (mg wkr) 5 [] 5 4)) (mg wkr) ∧ runs (.msgJoin 95 (ms (mg wkr) 1 [] 1)) (mg wkr) :=
  have g (s m) := (h s 95 m (by decide)).1 (.msgHeartbeat 95 m) 5 (.inr (.inr (.inr (.inl ⟨rfl, rfl⟩))))
  have t (q e) := msTag (mg wkr) 5 [] q e (getPeer (mg wkr) 1)
  ⟨nx ((g State.reset (ms State.reset 5)).1 (by decide)), nx ((g (mg wkr 0xA2F30000) (ms (mg wkr 0xA2F30000) 5)).2.1 (by decide) (.inl (by decide))),
   comp ((g (mg wkr) (ms (mg wkr) 5 [] 5 5 [0])).2.2.1 (by decide) (msBad (mg wkr) 5 [] 5 5 (getPeer (mg wkr) 1))),
   comp ((g (mg wkr) (ms (mg wkr) 5 [] 4)).2.2.2.1 (by decide) (t 4 5) (by decide)),
   comp ((g (mg { wkr with joined := false }) (ms (mg { wkr with joined := false }) 5)).2.2.2.2.1 (by decide) (msTag ..) (by decide) (by decide)),
   comp ((g (mg wkr) (ms (mg wkr) 5 [] 5 4)).2.2.2.2.2 (by decide) (t 5 4) (by decide) (by decide) (by decide)),
   comp ((h (mg wkr) 95 (ms (mg wkr) 1 [] 1) (by decide)).2.2.1 ⟨by decide, msTag .., by decide, by decide, by decide⟩ (.inr (by decide)))⟩

/-- A payload as a little-endian number. -/
def pl (n v : Nat) : List Byte := natLe n v
/-- A manager at epoch 5 whose session with device 1, not yet joined, holds its nonce. -/
def jmg : Stk := { mode := 1, dev := 1023, epoch := 5, peers := [(1, { port := 95, nonceOwn := 7 })] }

theorem witness_MessagesTaken (h : Obligations.ManagementMessages) :
    runs (.msgJoin 95 (ms (mg wkr) 1 [] 1 6)) (mg wkr) ∧ runs (.msgResult 95 (ms (mg wkr) 4)) (mg wkr) ∧ runs (.msgHeartbeat 95 (ms (mg wkr) 5)) (mg wkr) ∧
    runs (.msgTime 95 (ms (mg wkr) 6)) (mg wkr) ∧ runs (.msgTakeReady 95 (ms (mg wkr) 7 (pl 2 0x13F))) (mg wkr) ∧
    runs (.msgTakeCommit 95 (ms (mg wkr) 8 (pl 1 0x3F))) (mg wkr) ∧ runs (.msgTakeDone 95 (ms (mg wkr) 9 (pl 5 0x3F))) (mg wkr) ∧
    runs (.msgTakeover 95 (ms (mg wkr) 10 (pl 4 6))) (mg wkr) ∧
    runs (.msgJoinAck 95 (ms (mg jmg) 2 (pl 16 0x70000000000000003) 1 5 [] { getPeer (mg jmg) 1 with port := 95, nonceOwn := 7, noncePeer := 3 })) (mg jmg) :=
  have k (m) := h (mg wkr) 95 m (by decide)
  ⟨comp ((k (ms (mg wkr) 1 [] 1 6)).2.1 ⟨by decide, msTag .., by decide, by decide, by decide⟩ (by decide) (by decide)),
   comp ((k (ms (mg wkr) 4)).2.2.2.2.1 ⟨by decide, msTag .., by decide, by decide, by decide⟩),
   comp ((k (ms (mg wkr) 5)).2.2.2.2.2.1 ⟨by decide, msTag .., by decide, by decide, by decide⟩),
   comp ((k (ms (mg wkr) 6)).2.2.2.2.2.2.1 ⟨by decide, msTag .., by decide, by decide, by decide⟩),
   comp ((k (ms (mg wkr) 7 (pl 2 0x13F))).2.2.2.2.2.2.2.1 ⟨by decide, msTag .., by decide, by decide, by decide⟩),
   comp ((k (ms (mg wkr) 8 (pl 1 0x3F))).2.2.2.2.2.2.2.2.1 ⟨by decide, msTag .., by decide, by decide, by decide⟩),
   comp ((k (ms (mg wkr) 9 (pl 5 0x3F))).2.2.2.2.2.2.2.2.2.1 ⟨by decide, msTag .., by decide, by decide, by decide⟩),
   comp ((k (ms (mg wkr) 10 (pl 4 6))).2.2.2.2.2.2.2.2.2.2.1 ⟨by decide, msTag .., by decide, by decide, by decide⟩ (by decide)),
   comp ((h (mg jmg) 95 (ms (mg jmg) 2 (pl 16 0x70000000000000003) 1 5 [] { getPeer (mg jmg) 1 with port := 95, nonceOwn := 7, noncePeer := 3 }) (by decide)).2.2.2.2.2.2.2.2.2.2.2.1
     (by decide) (msTag (mg jmg) 2 (pl 16 0x70000000000000003) 1 5 { getPeer (mg jmg) 1 with port := 95, nonceOwn := 7, noncePeer := 3 }) (by decide) (by decide) (by decide) (by decide))⟩

/-- A worker whose S1 runs. -/
def bsy : State := modCtx (mg wkr) 1 fun x => { x with run := .prog none }
/-- An edge port of PBR ID 5, which a VIRAL names. -/
def vir : State := { mg wkr with port := [(94, { cfg := 0x92F30005 }), (95, { cfg := 0xB2F30000, link := .up, mode := 1 })] }

theorem witness_MessagesOfBlocks (h : Obligations.ManagementMessages) :
    runs (.msgBlock 95 (ms bsy 3 (List.replicate 16 0))) bsy ∧ runs (.msgViral 95 (ms vir 11 (pl 3 0x500))) vir ∧
    runs (.msgGateway 95 (ms (mg wkr 0xC2F30000) 12)) (mg wkr 0xC2F30000) :=
  ⟨comp ((h bsy 95 (ms bsy 3 (List.replicate 16 0)) (by decide)).2.2.2.1 ⟨by decide, msTag .., by decide, by decide, by decide⟩ (by decide) (by decide) (by decide)
     (by decide) (by decide)),
   comp ((h vir 95 (ms vir 11 (pl 3 0x500)) (by decide)).2.2.2.2.2.2.2.2.2.2.2.2.1 rfl rfl (by decide) rfl 94 (by decide)),
   comp ((h (mg wkr 0xC2F30000) 95 (ms (mg wkr 0xC2F30000) 12) (by decide)).2.2.2.2.2.2.2.2.2.2.2.2.2 rfl (by decide) rfl)⟩

/-! ## Stack links -/

/-- A leaf with its CRC. -/
def lf (cls type : Nat) (payload : List Byte := []) (seq ack nslots resv req : Nat := 0) : List Byte :=
  leafBytes { seq := seq, ack := ack, cls := cls, type := type, req := req, rsp := 0, nslots := nslots, cont := false, resv := resv } payload
/-- Port 95, a stack link, as given. -/
def sk (y : Ifl) (link : LinkSt := .up) : State := p95 { cfg := 0xD2F30000, link := link, mode := 5, lanesUsed := 4, ifl := y }
/-- An INIT of stack 1 with 32 credits a class, seen. -/
def ini (v : Nat) : List Byte := lf 2 3 (natLe 16 v)

theorem witness_StackLeaves (h : Obligations.StackLinks) :
    runs (.leafIdle 95 []) State.reset ∧ runs (.leafData 95 [1]) (sk { st := .active }) ∧ runs (.leafIdle 95 (lf 2 0 [] 0 0xFFF)) (sk { st := .active }) ∧
    runs (.leafNak 95 (lf 2 1 [] 0 0xFFF)) (sk { st := .active }) ∧ runs (.leafData 95 (lf 0 0 [] 0 0xFFF 0 0 1)) (sk { st := .active }) ∧
    runs (.leafData 95 (lf 0 0 [] 0xFFF 0xFFF)) (sk { st := .active }) ∧ runs (.leafData 95 (lf 0 0 [] 1 0xFFF)) (sk { st := .active }) ∧
    runs (.leafData 95 (lf 0 0 [] 0 0xFFF)) (sk { st := .active }) :=
  have g (b) := h.1 (sk { st := .active }) 95 b (by decide)
  have d (b) (a c) (e : (leafHead b).cls < 2) := ((g b).2 (by decide) a c).2.2 (.leafData 95 b) (.inl ⟨rfl, e⟩)
  ⟨nx (((h.1 State.reset 95 [] (by decide)).1 (.leafIdle 95 []) (.inr (.inl rfl))).1 (by decide)),
   comp (((g [1]).1 (.leafData 95 [1]) (.inl rfl)).2 (by decide) (by decide +kernel)),
   comp (((g (lf 2 0 [] 0 0xFFF)).2 (by decide) (by decide +kernel) (by decide +kernel)).1 (by decide +kernel) (by decide +kernel) (by decide +kernel)),
   comp (((g (lf 2 1 [] 0 0xFFF)).2 (by decide) (by decide +kernel) (by decide +kernel)).2.1 (by decide +kernel) (by decide +kernel) (by decide +kernel)),
   comp ((d (lf 0 0 [] 0 0xFFF 0 0 1) (by decide +kernel) (by decide +kernel) (by decide +kernel)).1 (by decide +kernel) (by decide) (by decide)),
   comp ((d (lf 0 0 [] 0xFFF 0xFFF) (by decide +kernel) (by decide +kernel) (by decide +kernel)).2.1 (by decide +kernel) (by decide +kernel)),
   comp ((d (lf 0 0 [] 1 0xFFF) (by decide +kernel) (by decide +kernel) (by decide +kernel)).2.2.1 (by decide +kernel) (by decide +kernel) (by decide +kernel)),
   ((d (lf 0 0 [] 0 0xFFF) (by decide +kernel) (by decide +kernel) (by decide +kernel)).2.2.2 (by decide +kernel) (by decide +kernel) (by decide +kernel)).elim
     fun _ k => ⟨_, k.2⟩⟩

theorem witness_StackStartAndEnd (h : Obligations.StackLinks) :
    runs (.leafInit 95 []) State.reset ∧ runs (.leafInit 95 (ini 0x10000200200101)) (sk { st := .init, gotInit := true } .training) ∧
    runs (.leafInit 95 (ini 0x10000200200001)) (sk { st := .init } .training) ∧ runs (.leafInit 95 (ini 0x10000200200101)) (sk { st := .active }) ∧
    runs (.malformedLeaf 95 (lf 2 0 [] 0 0 0 1)) (sk { st := .active }) ∧ runs (.replayTimerExpiry 95) (sk { st := .active, timer := true, expiries := 2 }) ∧
    runs (.replayTimerExpiry 95) (sk { st := .active, timer := true, expiries := 3 }) ∧ runs (.iflRecoveryExit 95) (sk {} .recovery) ∧
    runs (.iflLinkDownTimeout 95) (sk {} .recovery) ∧ runs (.iflRecoveryExit 95) (sk {}) :=
  have g (y l b) := h.2 (sk y l) 95 b (by decide)
  ⟨nx ((h.2 State.reset 95 [] (by decide)).1 (by decide)).1,
   comp ((g { st := .init, gotInit := true } .training (ini 0x10000200200101)).2.1 (by decide) (by decide) (by decide +kernel) (by decide +kernel)),
   comp ((g { st := .init } .training (ini 0x10000200200001)).2.2.1 (by decide) (by decide) (by decide +kernel) (by decide +kernel)),
   comp ((g { st := .active } .up (ini 0x10000200200101)).2.2.2.1 (by decide) (by decide) (by decide +kernel) (by decide) (by decide)),
   comp ((g { st := .active } .up (lf 2 0 [] 0 0 0 1)).2.2.2.2.1 (by decide) (.inl (by decide)) (by decide +kernel) (by decide +kernel) (by decide) (by decide)),
   comp (((g { st := .active, timer := true, expiries := 2 } .up []).2.2.2.2.2.1 (by decide) (by decide) (by decide)).1 (by decide)),
   comp (((g { st := .active, timer := true, expiries := 3 } .up []).2.2.2.2.2.1 (by decide) (by decide) (by decide)).2 (by decide) (by decide)),
   comp ((g {} .recovery []).2.2.2.2.2.2.1 (by decide) (by decide)).1, comp (((g {} .recovery []).2.2.2.2.2.2.1 (by decide) (by decide)).2 (by decide) (by decide)),
   nx ((g {} .up []).2.2.2.2.2.2.2 (.inr (by decide))).1⟩

end Sys2Proof.Tests
end

section
/-!
SUPPORT. Proofs about 64-bit quantities in low/high pairs (R6, R448): one lemma for what each half does to a register access, and
the obligation assembled from them.
-/

namespace Sys2Proof.Proofs.Pairs

open Sys2Proof Sys2Proof.Machine Sys2Proof.Safety Sys2Proof.Laws.AboutMachine

/-! ## Accesses that reach a register -/

/-- No rule of the register map turns a served write away before its register takes it: the window of a quire, an absent tenant, a
register that only instructions write, one that only the Steward writes, and a ring's lock. -/
structure WriteOpen (s : State) (m : Master) (a : Nat) : Prop where
  window : inWindow a = false
  tenant : noTenant s a = false
  free : owned a = false
  steward : stwOnly a = true → masterStw m = true
  ring : ringLocked s a = false

section
variable {s : State} {m : Master} {a : Nat}

theorem WriteOpen.steward_passes (o : WriteOpen s m a) : (stwOnly a && !masterStw m) = false := by
  cases h : stwOnly a with
  | false => rfl
  | true => rw [o.steward h]; rfl

theorem busWrite_served (ha : a % 4 = 0) (hs : a < 2 ^ 24) (hg : csrGate s m a true = .serve) (v : W32) :
    busWrite s m a v = csrWrite s m a v := by
  have aligned : (a % 4 != 0 || decide (2 ^ 24 ≤ a)) = false := by rw [ha, decide_eq_false (by omega)]; rfl
  rw [busWrite, aligned, hg]
  rfl

theorem busRead_served (hg : csrGate s m a false = .serve) {v : W32} {t : State} (hr : csrRead s m a = { v := v, s := t }) :
    busRead s m a = (some v, t) := by
  simp [busRead, hg, hr]

/-! ## The halves of a pair -/

variable {p : W64}

theorem isPairLow_of_pairVal (hp : pairVal s a = some p) : isPairLow s a = true := by
  simp [isPairLow, hp]

/-- A low half only waits in its master's latch. -/
theorem csrWrite_low (o : WriteOpen s m a) (hp : pairVal s a = some p) (v : W32) :
    csrWrite s m a v = { s with pairLo := (m, a, v) :: latchDel s.pairLo m a } := by
  simp [csrWrite, o.window, o.tenant, o.free, o.steward_passes, o.ring, hp]

/-- A high half writes the pair with the low half that waits, or with the present one where none waits. -/
theorem csrWrite_high (o : WriteOpen s m (a + 4)) (hn : pairVal s (a + 4) = none) (hp : pairVal s a = some p) (v : W32) :
    csrWrite s m (a + 4) v =
      pairWrite { s with pairLo := latchDel s.pairLo m a } a (pair v ((latchGet s.pairLo m a).getD (lo32 p))) := by
  simp [csrWrite, o.window, o.tenant, o.free, o.steward_passes, o.ring, hn, hp]

theorem csrRead_low (hw : inWindow a = false) (hp : pairVal s a = some p) :
    csrRead s m a = { v := lo32 p, s := { s with pairHi := (m, a, hi32 p) :: latchDel s.pairHi m a } } := by
  simp [csrRead, hw, hp]

/-- A latched high half is what the read of the high half answers, and the read consumes it. -/
theorem csrRead_high_latched (hw : inWindow (a + 4) = false) (hn : pairVal s (a + 4) = none) (hp : pairVal s a = some p) {h : W32}
    (hl : latchGet s.pairHi m a = some h) :
    csrRead s m (a + 4) = { v := h, s := { s with pairHi := latchDel s.pairHi m a } } := by
  simp [csrRead, hw, hn, hp, hl]

/-! ## What an access of one half touches -/

theorem onlyIn_pairLo (s : State) (l : List (Master × Nat × W32)) : onlyIn [.pairLo] s { s with pairLo := l } :=
  touch (m := 2 ^ 20) (by decide) (.pairLo l (by decide) (.refl s))

theorem onlyIn_pairHi (s : State) (l : List (Master × Nat × W32)) : onlyIn [.pairHi] s { s with pairHi := l } :=
  touch (m := 2 ^ 21) (by decide) (.pairHi l (by decide) (.refl s))

theorem onlyIn_pairHi_emit (s : State) (l : List (Master × Nat × W32)) (e : Emit) :
    onlyIn [.pairHi, .out] s (emit { s with pairHi := l } e) :=
  touch (m := 2 ^ 21 + 2 ^ 22) (by decide) (emit_rel (by decide) (.pairHi l (by decide) (.refl s)))

/-! ## The commands -/

theorem exec_regWriteGeneral_low (ha : a % 4 = 0) (hs : a < 2 ^ 24) (hg : csrGate s m a true = .serve) (o : WriteOpen s m a)
    (hp : pairVal s a = some p) (v : W32) :
    exec (.regWriteGeneral m a v) s = .next { s with pairLo := (m, a, v) :: latchDel s.pairLo m a } :=
  unitOk_next rfl (by rw [busWrite_served ha hs hg, csrWrite_low o hp])

theorem exec_pairHighWrite (ha : a % 4 = 0) (hs : a + 8 ≤ 2 ^ 24) (hg : csrGate s m (a + 4) true = .serve) (o : WriteOpen s m (a + 4))
    (hn : pairVal s (a + 4) = none) (hp : pairVal s a = some p) (w : W32) :
    exec (.pairHighWrite m (a + 4) w) s =
      .next (pairWrite { s with pairLo := latchDel s.pairLo m a } a (pair w ((latchGet s.pairLo m a).getD (lo32 p)))) := by
  have low : (decide (4 ≤ a + 4) && isPairLow s (a + 4 - 4)) = true := by simp [isPairLow_of_pairVal hp]
  refine unitOk_next rfl ?_
  rw [if_pos low, busWrite_served (by omega) (by omega) hg, csrWrite_high o hn hp]

theorem exec_pairLowRead (ha : a % 4 = 0) (hg : csrGate s m a false = .serve) (hw : inWindow a = false) (hp : pairVal s a = some p) :
    exec (.pairLowRead m a) s =
      .next (emit { s with pairHi := (m, a, hi32 p) :: latchDel s.pairHi m a } (.csrRead m a (lo32 p))) := by
  have low : (a % 4 != 0 || !isPairLow s a) = false := by simp [ha, isPairLow_of_pairVal hp]
  refine unitOk_next rfl ?_
  rw [low, busRead_served hg (csrRead_low hw hp)]
  rfl

end

/-- Settles O13: a low half goes to its master's latch and a high half takes it from there, in a write as in a read. -/
theorem pairHalvesAreWhole : Obligations.PairHalvesAreWhole := by
  unfold Obligations.PairHalvesAreWhole
  intro s m a v w p ha hs hp
  refine ⟨?lowWrite, ?highWrite, ?lowRead, ?highRead⟩
  case lowWrite =>
    intro hg hw ht ho hst hr
    exact ⟨_, exec_regWriteGeneral_low ha hs hg ⟨hw, ht, ho, hst, hr⟩ hp v, onlyIn_pairLo _ _, latch_get _ _ _ _⟩
  case highWrite =>
    intro hl hg hw ht ho hst hr hn hs8
    rw [exec_pairHighWrite ha hs8 hg ⟨hw, ht, ho, hst, hr⟩ hn hp, hl, Option.getD_some, pair_x]
  case lowRead =>
    intro hg hw
    refine ⟨_, exec_pairLowRead ha hg hw hp, onlyIn_pairHi_emit _ _ _, ?_, ?_⟩
    · rw [← lo32_x]; rfl
    · rw [← hi32_x]; exact latch_get _ _ _ _
  case highRead =>
    intro h hl hg hw hn
    exact ⟨_, busRead_served hg (csrRead_high_latched hw hn hp hl), onlyIn_pairHi _ _⟩

end Sys2Proof.Proofs.Pairs
end

section
/-!
SUPPORT. Proofs about the sets and tags of the directory (R172): a line is read back from its set and its tag, and what the lookup of a
line finds carries both.
-/

namespace Sys2Proof.Proofs.DirectoryLines

open Sys2Proof Sys2Proof.Machine Sys2Proof.Laws.AboutMachine

/-! ## The ways of a set -/

theorem dirSet_eq_xor_bits (line : BitVec 37) :
    dirSet line.toNat = (line.extractLsb' 0 19).toNat ^^^ (line.extractLsb' 19 18).toNat := by
  rw [ext_lo, ext_hi, dirSet]

@[simp] theorem length_ways (L : Nat) : (ways L).length = 16 := by
  rw [ways, List.length_map, List.length_range]

theorem nodup_ways (L : Nat) : (ways L).Nodup :=
  have distinct : ∀ v w, v ≠ w → dirSet L * 16 + v ≠ dirSet L * 16 + w :=
    fun _ _ ne h => ne (Nat.add_left_cancel h)
  List.Pairwise.map _ distinct List.nodup_range

/-! ## The line of a set and a tag -/

/-- An entry of a line's set that carries the line's tag is of that line: the tag taken from the set a second time cancels. -/
theorem dirLine_of_set_of_tag {L k : Nat} {d : DirEnt} (hk : k / 16 = dirSet L) (ht : d.tag = L / 2 ^ 19) : dirLine k d = L := by
  calc dirLine k d
      = L / 2 ^ 19 * 2 ^ 19 + ((L % 2 ^ 19 ^^^ L / 2 ^ 19) ^^^ L / 2 ^ 19) := by rw [dirLine, hk, ht, dirSet]
    _ = L / 2 ^ 19 * 2 ^ 19 + L % 2 ^ 19 := by rw [Nat.xor_assoc, Nat.xor_self, Nat.xor_zero]
    _ = L := Nat.div_add_mod' L _

/-- Two lines with one set and one tag are what one entry is of, so they are one line. -/
theorem line_eq_of_set_of_tag {L M : Nat} (hs : dirSet L = dirSet M) (ht : L / 2 ^ 19 = M / 2 ^ 19) : L = M := by
  have way : dirSet L * 16 / 16 = dirSet L := Nat.mul_div_cancel _ (by decide)
  calc L = dirLine (dirSet L * 16) { tag := L / 2 ^ 19 } := (dirLine_of_set_of_tag way rfl).symm
    _ = M := dirLine_of_set_of_tag (way.trans hs) ht

/-! ## The lookup -/

theorem dirFind_some {s : State} {L k : Nat} (h : dirFind s L = some k) :
    k ∈ ways L ∧ (getDir s k).valid = true ∧ (getDir s k).tag = L / 2 ^ 19 := by
  have hit := List.find?_some h
  simp only [Bool.and_eq_true, beq_iff_eq] at hit
  exact ⟨List.mem_of_find?_eq_some h, hit⟩

/-- Settles O12: the set and the tag of a line are its bits as R172 says, an entry of that set with that tag gives the line back, and so
two lines never share both. -/
theorem directorySetAndTag : Obligations.DirectorySetAndTag := by
  unfold Obligations.DirectorySetAndTag
  refine ⟨?waysOfSet, ?entryFound, ?oneLine⟩
  case waysOfSet =>
    intro line L
    exact ⟨dirSet_lt line, dirSet_eq_xor_bits line, length_ways L, nodup_ways L, ways_mem L⟩
  case entryFound =>
    intro s line k h
    obtain ⟨hway, -, htag⟩ := dirFind_some h
    have hset : k / 16 = dirSet line.toNat := (ways_mem _ k).mp hway
    exact ⟨hway, htag.trans (ext_hi line).symm, dirLine_of_set_of_tag hset htag⟩
  case oneLine =>
    intro l m hset htag
    have tags : l.toNat / 2 ^ 19 = m.toNat / 2 ^ 19 := by rw [← ext_hi, ← ext_hi, htag]
    exact BitVec.eq_of_toNat_eq (line_eq_of_set_of_tag hset tags)

end Sys2Proof.Proofs.DirectoryLines
end

section
/-!
SUPPORT. Proofs about the lock bits of the deckle table (R204, R205): a device reset that begins erases the table and all it
protects, the reset of one unit leaves the table, and a step does the one or keeps what is locked.
-/

namespace Sys2Proof.Proofs.LockBits

open Sys2Proof Sys2Proof.Machine Sys2Proof.Safety Sys2Proof.Laws.AboutMachine Sys2Proof.Laws.AboutDevice

/-! ## A step -/

theorem tick_keeps_locks (s : State) : locksKept s (tick s) := locks_of (tick_rel rfl (Rel.refl s))

/-- A command taken from the queue is run on the state without it, whose deckle table is the same. -/
theorem step_keeps_locks_or_erases {s t : State} (h : step s = .next t) : locksKept s t ∨ coldOf t := by
  unfold step at h
  split at h
  · cases h
    exact .inl (tick_keeps_locks s)
  · next i rest _ =>
    have ran : locksKept { s with pending := rest } t ∨ coldOf t := exec_locks h
    exact ran

/-! ## A device reset that begins -/

section
variable {s : State} {cause : Glb → Glb}

/-- A reset that begins leaves the cold state: no deckles, an empty program store, every channel off. -/
theorem deviceReset_erases (hr : s.glb.inReset = false) (hc : (cause s.glb).inReset = s.glb.inReset) : coldOf (deviceReset s cause) := by
  obtain ⟨_, cold⟩ := drF s cause hr hc
  rw [cold]
  exact ⟨rfl, rfl, rfl, fun _ => rfl⟩

/-- The lifecycle state is in fuses, so it outlasts a device reset (R207). -/
theorem deviceReset_life (hr : s.glb.inReset = false) (hc : (cause s.glb).inReset = s.glb.inReset) :
    (deviceReset s cause).glb.life = (cause s.glb).life := by
  obtain ⟨_, cold⟩ := drF s cause hr hc
  rw [cold]
  rfl

end

theorem resetNAssert_erases {s : State} (hr : s.glb.inReset = false) : ∃ t, exec .resetNAssert s = .next t ∧ coldOf t :=
  ⟨_, rfl, deviceReset_erases hr rfl⟩

/-- The fuse of the lifecycle state is written first, and the device is then reset (R208). -/
theorem exec_fuseWriteDone_returned {s : State} {c : Nat} (hf : s.glb.fuse = some (c, .life .returned)) :
    exec .fuseWriteDone s =
      .next (deviceReset { s with glb := { s.glb with fuse := none, life := .returned } }
        fun g => { g with causeReturned := true }) :=
  unitOk_next rfl (by rw [hf]; rfl)

theorem entryIntoReturned_erases {s : State} {c : Nat} (hr : s.glb.inReset = false)
    (hf : s.glb.fuse = some (c, .life .returned)) : ∃ t, exec .fuseWriteDone s = .next t ∧ t.glb.life = .returned ∧ coldOf t :=
  ⟨_, exec_fuseWriteDone_returned hf, deviceReset_life hr rfl, deviceReset_erases hr rfl⟩

/-! ## The reset of a unit -/

/-- What changes while the deckle table stays: every bit of `Rel` but that of the table. -/
def allButTable : Nat := 2147483647 - 2 ^ partIdx .deckles

theorem table_of_rel {s t : State} (h : Rel allButTable s t) : t.dkl.tab = s.dkl.tab := h.deckle rfl

/-- The instructions that reset one unit (R305). -/
inductive IsResetu : Instr → Prop
  | port (c w) : IsResetu (.resetuPort c w)
  | quire (c w) : IsResetu (.resetuQuire c w)
  | tenant (c w) : IsResetu (.resetuTenant c w)
  | poolChannel (c w) : IsResetu (.resetuPoolChannel c w)
  | slot (c w) : IsResetu (.resetuSlot c w)
  | context (c w) : IsResetu (.resetuContext c w)
  | moverChannel (c w) : IsResetu (.resetuMoverChannel c w)
  | commandPort (c w) : IsResetu (.resetuCommandPort c w)
  | coherentDomain (c w) : IsResetu (.resetuCoherentDomain c w)

theorem IsResetu.rel {i : Instr} (hi : IsResetu i) {s t : State} (h : exec i s = .next t) : Rel allButTable s t := by
  cases hi with
  | port => exact execResetuPort_rel rfl (Rel.refl s) h
  | quire => exact execResetuQuire_rel rfl (Rel.refl s) h
  | tenant => exact execResetuTenant_rel rfl (Rel.refl s) h
  | poolChannel => exact execResetuPoolChannel_rel rfl (Rel.refl s) h
  | slot => exact execResetuSlot_rel rfl (Rel.refl s) h
  | context => exact execResetuContext_rel rfl (Rel.refl s) h
  | moverChannel => exact execResetuMoverChannel_rel rfl (Rel.refl s) h
  | commandPort => exact execResetuCommandPort_rel rfl (Rel.refl s) h
  | coherentDomain => exact execResetuCoherentDomain_rel rfl (Rel.refl s) h

/-- Settles O11: no command but a device reset touches a locked entry, and a device reset that begins leaves the cold state, where the
table, the program store and the channels are as at power-up. -/
theorem locksOutlastAllButReset : Obligations.LocksOutlastAllButReset := by
  unfold Obligations.LocksOutlastAllButReset
  refine ⟨?everyStep, ?resetPin, ?returned, ?unitReset⟩
  case everyStep => exact fun s t h => step_keeps_locks_or_erases h
  case resetPin => exact fun s hr => resetNAssert_erases hr
  case returned => exact fun s c hr hf => entryIntoReturned_erases hr hf
  case unitReset =>
    intro s t i c w hi h
    have resetu : IsResetu i := by
      rcases hi with rfl | rfl | rfl | rfl | rfl | rfl | rfl | rfl | rfl <;> constructor
    exact table_of_rel (resetu.rel h)

end Sys2Proof.Proofs.LockBits
end

section
/-!
SUPPORT. Proofs about the address that SEQ_CTX_KSEL and SEQ_CTX_EVP share (R454): what a write there does to the contexts, and what a
host's BAR0 read of one register answers.
-/

namespace Sys2Proof.Proofs.SharedAddress

open Sys2Proof Sys2Proof.Machine Sys2Proof.Safety Sys2Proof.Laws.AboutMachine

/-! ## A write of the selector -/

/-- The frame names the sequencer only: the program store and the registers k and flags of a context are parts of their own, and stay. -/
theorem onlyIn_ksel (s : State) (c k : Nat) : onlyIn [.seq] s (modCtx s c fun x => { x with ksel := k }) :=
  touch mask_1024 (.modCtx (fun _ => rfl) (by decide) (.refl s))

theorem getCtx_ksel_same (s : State) (c k : Nat) :
    getCtx (modCtx s c fun x => { x with ksel := k }) c = { getCtx s c with ksel := k } := by
  rw [getCtx_modCtx, if_pos rfl]

theorem getCtx_ksel_other (s : State) (k : Nat) {c j : Nat} (h : j ≠ c) :
    getCtx (modCtx s c fun x => { x with ksel := k }) j = getCtx s j := by
  rw [getCtx_modCtx, if_neg h]

theorem exec_regWriteGeneral_ksel {s : State} {m : Master} {c : Nat} (hc : c < 18)
    (hg : csrGate s m (0x51000 + c * 0x100 + 0x10) true = .serve) (v : W32) :
    exec (.regWriteGeneral m (0x51000 + c * 0x100 + 0x10) v) s = .next (modCtx s c fun x => { x with ksel := fld v 0 5 }) :=
  unitOk_next rfl (ksel_write s m c v hc hg)

/-! ## A BAR0 read of one register -/

section
variable {s t : State} {l a : Nat} {v : W32}

theorem barRead_dword (hr : busRead s (linkMaster l) a = (some v, t)) :
    barRead s l 0 a 4 = emit t (.barData l (natLe 4 v.toNat)) := by
  have dword : barReadDw s l 0 a = (some v, t) := by rw [barReadDw, if_pos rfl, hr]
  simp [barRead, dword]

/-- A live link's read of an aligned dword of BAR0 is the register read of the link's master, whose word goes to the host (R409, R410). -/
theorem exec_barAccess_readDword (hl : l < 2) (live : linkLive s l = true) {b : List Byte} (hb : b.length = 4) (ha : a % 4 = 0)
    (hs : a + 4 ≤ 2 ^ 24) (hr : busRead s (linkMaster l) a = (some v, t)) :
    exec (.barAccess l 0 a false b) s = .next (emit t (.barData l (natLe 4 v.toNat))) := by
  have aligned : dwOk a 4 = true := by simp [dwOk, ha]
  have inside : ¬ 16777216 < a + 4 := Nat.not_lt.mpr hs
  refine unitOk_next (by simp [hl]) ?_
  rw [hb, ← barRead_dword hr]
  simp [live, aligned, inside]

end

/-- Settles O14: a write at the shared address is one of the selector alone, and a read, a host's through BAR0 too, is one of the pending
events that leaves the state as it is. -/
theorem selectorAndPendingShare : Obligations.SelectorAndPendingShare := by
  unfold Obligations.SelectorAndPendingShare
  intro s m c v hc a
  refine ⟨?write, ?read, ?hostRead⟩
  case write =>
    intro hg
    exact ⟨_, exec_regWriteGeneral_ksel hc hg v, onlyIn_ksel s c _, getCtx_ksel_same s c _, fun j => getCtx_ksel_other s _⟩
  case read => exact ksel_read s m c hc
  case hostRead =>
    rintro l b rfl hl live hb hg
    exact exec_barAccess_readDword hl live hb (by omega) (by omega) (ksel_read s _ c hc hg)

end Sys2Proof.Proofs.SharedAddress
end

section
/-!
SUPPORT. Proofs about the machine as a whole: the queue and the clock, the reset state, what every step keeps, and what each command
touches.
-/

namespace Sys2Proof.Proofs.EveryStep

open Sys2Proof Sys2Proof.Machine Sys2Proof.Safety Sys2Proof.Laws.AboutMachine

/-! ## The queue and the clock -/

/-- Settles O1: the step of a queue that has a front is the meaning of that command. -/
theorem stepTakesFront : Obligations.StepTakesFront := by
  unfold Obligations.StepTakesFront
  intro c s l
  rw [step]

theorem step_empty {s : State} (h : s.pending = []) : step s = .next (tick s) := by
  rw [step, h]

theorem tick_inReset {s : State} (h : s.glb.inReset = true) : tick s = s := if_pos h

theorem tick_running {s : State} (h : s.glb.inReset = false) : tick s = { s with time := tickTime s.time } := by
  rw [tick, h]
  rfl

theorem onlyIn_time (s : State) (x : TimeU) : onlyIn [.time] s { s with time := x } :=
  touch mask_4096 (.time x (by decide) (.refl s))

/-- Settles O2: a tick changes the time unit by `tickTime`, and a device in reset has none. -/
theorem emptyQueueTicks : Obligations.EmptyQueueTicks := by
  unfold Obligations.EmptyQueueTicks
  intro s empty
  rw [step_empty empty]
  refine ⟨fun held => ?_, fun running => ?_⟩
  · rw [tick_inReset held]
  · exact ⟨_, congrArg _ (tick_running running), onlyIn_time s _, rfl, rfl, rfl, rfl⟩

/-! ## The reset state -/

theorem dklOverlap_zero : dklOverlap {} {} = false := by decide

theorem deckleDisjoint_nil : deckleDisjoint [] := fun _ _ _ => dklOverlap_zero

/-- Settles O4: the memories and the deckle table are empty after reset. -/
theorem resetKeepsTheForms : Obligations.ResetKeepsTheForms := by
  unfold Obligations.ResetKeepsTheForms
  exact ⟨rfl, rfl, deckleDisjoint_nil⟩

/-- S0 and S1 are the contexts that reset leaves enabled, and idle. -/
theorem reset_ctx_enable (c : Nat) : (getCtx State.reset c).enable = decide (c < 2) ∧
    (getCtx State.reset c).st = (if c < 2 then .idle else .off) ∧ (getCtx State.reset c).genTag = 0 := by
  match c with
  | 0 | 1 => exact ⟨rfl, rfl, rfl⟩
  | n + 2 =>
    have above : ¬n + 2 < 2 := by omega
    rw [decide_eq_false above, if_neg above]
    exact ⟨rfl, rfl, rfl⟩

theorem port_zero_disabled : ({} : Port).enabled = false := by decide

/-- Settles O3: every table of the reset state is empty but that of the contexts, so an index reads its default. -/
theorem resetValues : Obligations.ResetValues := by
  unfold Obligations.ResetValues
  have ports : ∀ p, (getPort State.reset p).enabled = false ∧ (getPort State.reset p).link = .off ∧
      (getPort State.reset p).genTag = 0 := fun _ => ⟨port_zero_disabled, rfl, rfl⟩
  have pool : State.reset.pool.opened = false ∧
      (∀ ch, (getChan State.reset ch).st = .off ∧ (getChan State.reset ch).enable = false) ∧
      (∀ g, (getGrp State.reset g).enable = false) ∧ ∀ n, getSheet State.reset n = 0 :=
    ⟨rfl, fun _ => ⟨rfl, rfl⟩, fun _ => rfl, fun _ => rfl⟩
  have quires : ∀ q, (getQuire State.reset q).route = [] ∧ (∀ m, (getMeter State.reset q m).w0 = 0) ∧
      (getQuire State.reset q).genTag = 0 := fun _ => ⟨rfl, fun _ => rfl, rfl⟩
  exact ⟨ports, reset_ctx_enable, fun _ => rfl, pool, fun _ => rfl, fun _ => ⟨rfl, rfl⟩, quires, ⟨rfl, rfl, rfl, rfl⟩,
    fun _ => ⟨rfl, rfl⟩, rfl, ⟨rfl, rfl, rfl⟩, ⟨rfl, rfl, rfl, rfl, rfl⟩, ⟨rfl, rfl, rfl⟩, rfl⟩

/-! ## What every step keeps -/

/-- The queue is no part of the invariant. -/
theorem Inv.of_pending {s : State} (h : Inv s) (l : List Instr) : Inv { s with pending := l } :=
  ⟨h.mem, h.ps, h.deckles⟩

/-- Settles O5: every command and the tick keep the invariant, which says nothing of the queue. -/
theorem stepKeepsTheForms : Obligations.StepKeepsTheForms := by
  unfold Obligations.StepKeepsTheForms
  intro s t forms h
  exact (step_rel h).inv (Inv.of_pending forms _)

/-- Settles O6: no command writes the queue, so a step leaves what it did not take. -/
theorem commandsLeaveTheQueue : Obligations.CommandsLeaveTheQueue := by
  unfold Obligations.CommandsLeaveTheQueue
  exact ⟨fun i s t h => (exec_rel h).pend, fun s t h => (step_rel h).pend⟩

/-- Settles O7: every write of the fuses keeps them one-way, and the queue holds no fuse. -/
theorem fusesAreOneWay : Obligations.FusesAreOneWay := by
  unfold Obligations.FusesAreOneWay
  intro s t h
  obtain ⟨valid, revoked, svn, serial, grade, stepping⟩ := (step_rel h).fuses
  exact ⟨valid, revoked, svn, serial, grade, stepping⟩

/-- Settles O10: every emission is appended, and every use of a free value or a serial number moves its counter on. -/
theorem emissionsOnlyGrow : Obligations.EmissionsOnlyGrow := by
  unfold Obligations.EmissionsOnlyGrow
  intro s t h
  exact ⟨(step_rel h).grow, (step_rel h).rise⟩

/-- Settles O8: the meaning of a command is a state, guarded by nothing but the bounds of its operands. -/
theorem commandsComplete : Obligations.CommandsComplete := by
  unfold Obligations.CommandsComplete
  intro i s
  obtain ⟨u, form⟩ := unit_form i s
  rw [form]
  refine ⟨fun inside => ⟨u, unitOk_of inside u⟩, fun outside => ?_⟩
  rw [outside]
  rfl

/-! ## What each command touches -/

/-- Settles O9: the meaning of each command is built of writes of the parts that `touches` lists for it. A command that may reset the
device touches all of them. -/
theorem commandsTouchOnly : Obligations.CommandsTouchOnly := by
  unfold Obligations.CommandsTouchOnly
  intro i s t h
  cases i with
  | regWriteGeneral _ _ _ => exact touch mask_970981279 (execRegWriteGeneral_rel rfl (Rel.refl s) h)
  | pairLowRead _ _ => exact touch mask_6424066 (execPairLowRead_rel rfl (Rel.refl s) h)
  | pairHighWrite _ _ _ => exact touch mask_970981279 (execPairHighWrite_rel rfl (Rel.refl s) h)
  | flitReceive _ _ => exact touch mask_29883650 (execFlitReceive_rel rfl (Rel.refl s) h)
  | messageAdmission _ _ => exact touch mask_29559810 (execMessageAdmission_rel rfl (Rel.refl s) h)
  | heldMessageRetry _ _ => exact touch mask_29559810 (execHeldMessageRetry_rel rfl (Rel.refl s) h)
  | requestAtCentre _ => exact touch mask_29560322 (execRequestAtCentre_rel rfl (Rel.refl s) h)
  | egressSelection _ => exact touch mask_4391938 (execEgressSelection_rel rfl (Rel.refl s) h)
  | schedulerRound => exact touch mask_1006632863 (execSchedulerRound_rel rfl (Rel.refl s) h)
  | flitSend _ => exact touch mask_29608962 (execFlitSend_rel rfl (Rel.refl s) h)
  | repinningFenceRelease _ => exact touch mask_65536 (execRepinningFenceRelease_rel rfl (Rel.refl s) h)
  | replicaMemberCompletion _ _ _ => exact touch mask_21171202 (execReplicaMemberCompletion_rel rfl (Rel.refl s) h)
  | replicaMemberTimeout _ _ => exact touch mask_21171202 (execReplicaMemberTimeout_rel rfl (Rel.refl s) h)
  | mirrorConsumerReadDone _ _ => exact touch mask_21169154 (execMirrorConsumerReadDone_rel rfl (Rel.refl s) h)
  | redMessageReevaluation _ => exact touch mask_4424706 (execRedMessageReevaluation_rel rfl (Rel.refl s) h)
  | cadenceWindowOpen _ _ => exact touch mask_65536 (execCadenceWindowOpen_rel rfl (Rel.refl s) h)
  | cadenceWindowClose _ => exact touch mask_65536 (execCadenceWindowClose_rel rfl (Rel.refl s) h)
  | cadenceFenceRelease _ => exact touch mask_65536 (execCadenceFenceRelease_rel rfl (Rel.refl s) h)
  | histogramSample _ => exact touch mask_196608 (execHistogramSample_rel rfl (Rel.refl s) h)
  | histClear _ => exact touch mask_65536 (execHistClear_rel rfl (Rel.refl s) h)
  | bufPeakClear => exact touch mask_65536 (execBufPeakClear_rel rfl (Rel.refl s) h)
  | paceWindowEnd _ _ => exact touch mask_4326414 (execPaceWindowEnd_rel rfl (Rel.refl s) h)
  | paceHistoryHour _ => exact touch mask_9 (execPaceHistoryHour_rel rfl (Rel.refl s) h)
  | paceTargetWrite _ => exact touch mask_4 (execPaceTargetWrite_rel rfl (Rel.refl s) h)
  | paceCtrlWrite _ => exact touch mask_131080 (execPaceCtrlWrite_rel rfl (Rel.refl s) h)
  | portEnable _ _ => exact touch mask_737285 (execPortEnable_rel rfl (Rel.refl s) h)
  | portDisable _ _ => exact touch mask_737285 (execPortDisable_rel rfl (Rel.refl s) h)
  | portHpWrite _ _ => exact touch mask_147456 (execPortHpWrite_rel rfl (Rel.refl s) h)
  | linkTrained _ _ => exact touch mask_4408326 (execLinkTrained_rel rfl (Rel.refl s) h)
  | trainingRetry _ => exact touch mask_16384 (execTrainingRetry_rel rfl (Rel.refl s) h)
  | linkDown _ => exact touch mask_29850626 (execLinkDown_rel rfl (Rel.refl s) h)
  | errMessageReceived _ _ => exact touch mask_29850626 (execErrMessageReceived_rel rfl (Rel.refl s) h)
  | dpcStatusClearByHost _ => exact touch mask_24576 (execDpcStatusClearByHost_rel rfl (Rel.refl s) h)
  | dpcTrigClear _ => exact touch mask_24576 (execDpcTrigClear_rel rfl (Rel.refl s) h)
  | loopbackRequestReceived _ _ => exact touch mask_16384 (execLoopbackRequestReceived_rel rfl (Rel.refl s) h)
  | hotResetReceived _ => exact touch mask_29842434 (execHotResetReceived_rel rfl (Rel.refl s) h)
  | secondaryBusReset _ _ => exact touch mask_29842434 (execSecondaryBusReset_rel rfl (Rel.refl s) h)
  | hostPowerControlWrite _ _ => exact touch mask_4350978 (execHostPowerControlWrite_rel rfl (Rel.refl s) h)
  | hpRefuse _ => exact touch mask_155648 (execHpRefuse_rel rfl (Rel.refl s) h)
  | hostMcEnableWrite _ _ => exact touch mask_12788738 (execHostMcEnableWrite_rel rfl (Rel.refl s) h)
  | ideKeyManagement _ _ => exact touch mask_4210688 (execIdeKeyManagement_rel rfl (Rel.refl s) h)
  | ideMacFailure _ => exact touch mask_29842434 (execIdeMacFailure_rel rfl (Rel.refl s) h)
  | fmIdentifySwitchDevice _ => exact touch mask_14812674 (execFmIdentifySwitchDevice_rel rfl (Rel.refl s) h)
  | fmGetPhysicalPortState _ _ => exact touch mask_14812674 (execFmGetPhysicalPortState_rel rfl (Rel.refl s) h)
  | fmPhysicalPortControl _ _ _ => exact touch mask_970981279 (execFmPhysicalPortControl_rel rfl (Rel.refl s) h)
  | fmSendPpbConfigRequest _ _ _ _ _ _ => exact touch mask_29850626 (execFmSendPpbConfigRequest_rel rfl (Rel.refl s) h)
  | fmGetVirtualSwitchInfo _ _ => exact touch mask_14812674 (execFmGetVirtualSwitchInfo_rel rfl (Rel.refl s) h)
  | fmBindVppb _ _ _ => exact touch mask_12723202 (execFmBindVppb_rel rfl (Rel.refl s) h)
  | fmUnbindVppb _ _ _ => exact touch mask_281159170 (execFmUnbindVppb_rel rfl (Rel.refl s) h)
  | fmGenerateAerEvent _ _ _ => exact touch mask_12715010 (execFmGenerateAerEvent_rel rfl (Rel.refl s) h)
  | fmTunnelManagementCommand _ _ _ => exact touch mask_12715010 (execFmTunnelManagementCommand_rel rfl (Rel.refl s) h)
  | fmSendLdConfigRequest _ _ _ _ => exact touch mask_12715010 (execFmSendLdConfigRequest_rel rfl (Rel.refl s) h)
  | fmSendLdMemoryRequest _ _ _ _ => exact touch mask_12715010 (execFmSendLdMemoryRequest_rel rfl (Rel.refl s) h)
  | fmUnsupportedOpcode _ _ => exact touch mask_12715010 (execFmUnsupportedOpcode_rel rfl (Rel.refl s) h)
  | poolChEnable _ => exact touch mask_524416 (execPoolChEnable_rel rfl (Rel.refl s) h)
  | channelTrainingDone _ _ => exact touch mask_128 (execChannelTrainingDone_rel rfl (Rel.refl s) h)
  | poolChDisable _ => exact touch mask_524416 (execPoolChDisable_rel rfl (Rel.refl s) h)
  | initStart _ => exact touch mask_128 (execInitStart_rel rfl (Rel.refl s) h)
  | channelInitDone _ => exact touch mask_33554560 (execChannelInitDone_rel rfl (Rel.refl s) h)
  | channelLost _ => exact touch mask_164068738 (execChannelLost_rel rfl (Rel.refl s) h)
  | poolGrpEnable _ _ => exact touch mask_128 (execPoolGrpEnable_rel rfl (Rel.refl s) h)
  | poolGrpDisable _ _ => exact touch mask_128 (execPoolGrpDisable_rel rfl (Rel.refl s) h)
  | poolOpen => exact touch mask_128 (execPoolOpen_rel rfl (Rel.refl s) h)
  | poolClose => exact touch mask_128 (execPoolClose_rel rfl (Rel.refl s) h)
  | dramReadDone _ _ _ => exact touch mask_63139202 (execDramReadDone_rel rfl (Rel.refl s) h)
  | ceLogClear _ => exact touch mask_128 (execCeLogClear_rel rfl (Rel.refl s) h)
  | ueLogClear _ => exact touch mask_128 (execUeLogClear_rel rfl (Rel.refl s) h)
  | scrubRead _ _ _ => exact touch mask_37880962 (execScrubRead_rel rfl (Rel.refl s) h)
  | sheetSelectWrite _ => exact touch mask_128 (execSheetSelectWrite_rel rfl (Rel.refl s) h)
  | homeRds _ => exact touch mask_63139202 (execHomeRds_rel rfl (Rel.refl s) h)
  | homeRde _ => exact touch mask_63139202 (execHomeRde_rel rfl (Rel.refl s) h)
  | homeRdnc _ => exact touch mask_63139202 (execHomeRdnc_rel rfl (Rel.refl s) h)
  | homeWrnc _ => exact touch mask_63139202 (execHomeWrnc_rel rfl (Rel.refl s) h)
  | homeEvd _ => exact touch mask_63139202 (execHomeEvd_rel rfl (Rel.refl s) h)
  | homeEvc _ => exact touch mask_63139202 (execHomeEvc_rel rfl (Rel.refl s) h)
  | homeAtom _ => exact touch mask_63139202 (execHomeAtom_rel rfl (Rel.refl s) h)
  | biResponse _ _ _ _ => exact touch mask_63139202 (execBiResponse_rel rfl (Rel.refl s) h)
  | biconflictReceived _ _ => exact touch mask_21169410 (execBiconflictReceived_rel rfl (Rel.refl s) h)
  | snoopTimeout _ _ => exact touch mask_29584642 (execSnoopTimeout_rel rfl (Rel.refl s) h)
  | directoryWalkDone _ => exact touch mask_600272258 (execDirectoryWalkDone_rel rfl (Rel.refl s) h)
  | dirLogClear => exact touch mask_256 (execDirLogClear_rel rfl (Rel.refl s) h)
  | trackerPeakClear => exact touch mask_256 (execTrackerPeakClear_rel rfl (Rel.refl s) h)
  | debugAccess _ _ _ _ _ => exact touch mask_1040187295 (execDebugAccess_rel rfl (Rel.refl s) h)
  | deckleLogClear => exact touch mask_512 (execDeckleLogClear_rel rfl (Rel.refl s) h)
  | ringDoorbell _ _ _ _ => exact touch mask_4326402 (execRingDoorbell_rel rfl (Rel.refl s) h)
  | ringEntryFetch _ _ _ => exact touch mask_1024 (execRingEntryFetch_rel rfl (Rel.refl s) h)
  | cqHeadWrite _ _ => exact touch mask_1024 (execCqHeadWrite_rel rfl (Rel.refl s) h)
  | completionRingRoom _ => exact touch mask_4326402 (execCompletionRingRoom_rel rfl (Rel.refl s) h)
  | ctxStateRead _ => exact touch mask_4195328 (execCtxStateRead_rel rfl (Rel.refl s) h)
  | ctxResumeWrite _ _ => exact touch mask_1024 (execCtxResumeWrite_rel rfl (Rel.refl s) h)
  | haltRequest _ => exact touch mask_1024 (execHaltRequest_rel rfl (Rel.refl s) h)
  | contextRegisterWrite _ _ => exact touch mask_537003008 (execContextRegisterWrite_rel rfl (Rel.refl s) h)
  | programStoreWrite _ _ _ => exact touch mask_71435778 (execProgramStoreWrite_rel rfl (Rel.refl s) h)
  | undefinedOpcode _ _ _ => exact touch mask_12993538 (execUndefinedOpcode_rel rfl (Rel.refl s) h)
  | nop _ _ => exact touch mask_12993538 (execNop_rel rfl (Rel.refl s) h)
  | halt _ _ => exact touch mask_12993538 (execHalt_rel rfl (Rel.refl s) h)
  | jump _ _ => exact touch mask_12993538 (execJump_rel rfl (Rel.refl s) h)
  | br _ _ => exact touch mask_12993538 (execBr_rel rfl (Rel.refl s) h)
  | call _ _ => exact touch mask_12993538 (execCall_rel rfl (Rel.refl s) h)
  | ret _ _ => exact touch mask_12993538 (execRet_rel rfl (Rel.refl s) h)
  | waitev _ _ => exact touch mask_549864450 (execWaitev_rel rfl (Rel.refl s) h)
  | waitSatisfied _ => exact touch mask_549864450 (execWaitSatisfied_rel rfl (Rel.refl s) h)
  | signal _ _ => exact touch mask_12993538 (execSignal_rel rfl (Rel.refl s) h)
  | signalMask _ _ => exact touch mask_549864450 (execSignalMask_rel rfl (Rel.refl s) h)
  | fence _ _ => exact touch mask_12993538 (execFence_rel rfl (Rel.refl s) h)
  | yield _ _ => exact touch mask_12993538 (execYield_rel rfl (Rel.refl s) h)
  | movi _ _ => exact touch mask_549864450 (execMovi_rel rfl (Rel.refl s) h)
  | mov _ _ => exact touch mask_549864450 (execMov_rel rfl (Rel.refl s) h)
  | add _ _ => exact touch mask_549864450 (execAdd_rel rfl (Rel.refl s) h)
  | sub _ _ => exact touch mask_549864450 (execSub_rel rfl (Rel.refl s) h)
  | mul _ _ => exact touch mask_549864450 (execMul_rel rfl (Rel.refl s) h)
  | mulhu _ _ => exact touch mask_549864450 (execMulhu_rel rfl (Rel.refl s) h)
  | divu _ _ => exact touch mask_549864450 (execDivu_rel rfl (Rel.refl s) h)
  | remu _ _ => exact touch mask_549864450 (execRemu_rel rfl (Rel.refl s) h)
  | and _ _ => exact touch mask_549864450 (execAnd_rel rfl (Rel.refl s) h)
  | or _ _ => exact touch mask_549864450 (execOr_rel rfl (Rel.refl s) h)
  | xor _ _ => exact touch mask_549864450 (execXor_rel rfl (Rel.refl s) h)
  | shl _ _ => exact touch mask_549864450 (execShl_rel rfl (Rel.refl s) h)
  | shr _ _ => exact touch mask_549864450 (execShr_rel rfl (Rel.refl s) h)
  | sar _ _ => exact touch mask_549864450 (execSar_rel rfl (Rel.refl s) h)
  | cmp _ _ => exact touch mask_549864450 (execCmp_rel rfl (Rel.refl s) h)
  | tst _ _ => exact touch mask_549864450 (execTst_rel rfl (Rel.refl s) h)
  | min _ _ => exact touch mask_549864450 (execMin_rel rfl (Rel.refl s) h)
  | max _ _ => exact touch mask_549864450 (execMax_rel rfl (Rel.refl s) h)
  | clz _ _ => exact touch mask_549864450 (execClz_rel rfl (Rel.refl s) h)
  | popc _ _ => exact touch mask_549864450 (execPopc_rel rfl (Rel.refl s) h)
  | bfx _ _ => exact touch mask_549864450 (execBfx_rel rfl (Rel.refl s) h)
  | bfi _ _ => exact touch mask_549864450 (execBfi_rel rfl (Rel.refl s) h)
  | ld _ _ => exact touch mask_29838850 (execLd_rel rfl (Rel.refl s) h)
  | loadDataReturn _ => exact touch mask_549864450 (execLoadDataReturn_rel rfl (Rel.refl s) h)
  | st _ _ => exact touch mask_96947714 (execSt_rel rfl (Rel.refl s) h)
  | ldc _ _ => exact touch mask_15091202 (execLdc_rel rfl (Rel.refl s) h)
  | stc _ _ => exact touch mask_970981279 (execStc_rel rfl (Rel.refl s) h)
  | atom _ _ => exact touch mask_29838850 (execAtom_rel rfl (Rel.refl s) h)
  | bind _ _ => exact touch mask_969408386 (execBind_rel rfl (Rel.refl s) h)
  | unbind _ _ => exact touch mask_969408386 (execUnbind_rel rfl (Rel.refl s) h)
  | routeEntry _ _ => exact touch mask_969408386 (execRouteEntry_rel rfl (Rel.refl s) h)
  | routeMembers _ _ => exact touch mask_969408386 (execRouteMembers_rel rfl (Rel.refl s) h)
  | routeBuckets _ _ => exact touch mask_969408386 (execRouteBuckets_rel rfl (Rel.refl s) h)
  | routeSeed _ _ => exact touch mask_969408386 (execRouteSeed_rel rfl (Rel.refl s) h)
  | routeHash _ _ => exact touch mask_969408386 (execRouteHash_rel rfl (Rel.refl s) h)
  | routeRead _ _ => exact touch mask_969408386 (execRouteRead_rel rfl (Rel.refl s) h)
  | mcastHeader _ _ => exact touch mask_969408386 (execMcastHeader_rel rfl (Rel.refl s) h)
  | mcastMember _ _ => exact touch mask_969408386 (execMcastMember_rel rfl (Rel.refl s) h)
  | mcastState _ _ => exact touch mask_969408386 (execMcastState_rel rfl (Rel.refl s) h)
  | mcastFree _ _ => exact touch mask_969408386 (execMcastFree_rel rfl (Rel.refl s) h)
  | mcastOwner _ _ => exact touch mask_969408386 (execMcastOwner_rel rfl (Rel.refl s) h)
  | mcastRead _ _ => exact touch mask_969408386 (execMcastRead_rel rfl (Rel.refl s) h)
  | deckleWrite _ _ => exact touch mask_969408386 (execDeckleWrite_rel rfl (Rel.refl s) h)
  | deckleInvalidate _ _ => exact touch mask_969408386 (execDeckleInvalidate_rel rfl (Rel.refl s) h)
  | deckleSetLock _ _ => exact touch mask_969408386 (execDeckleSetLock_rel rfl (Rel.refl s) h)
  | sheetGrant _ _ => exact touch mask_969408386 (execSheetGrant_rel rfl (Rel.refl s) h)
  | sheetFree _ _ => exact touch mask_969408386 (execSheetFree_rel rfl (Rel.refl s) h)
  | sheetAttach _ _ => exact touch mask_969408386 (execSheetAttach_rel rfl (Rel.refl s) h)
  | sheetActivate _ _ => exact touch mask_969408386 (execSheetActivate_rel rfl (Rel.refl s) h)
  | sheetSwap _ _ => exact touch mask_969408386 (execSheetSwap_rel rfl (Rel.refl s) h)
  | sheetDetach _ _ => exact touch mask_969408386 (execSheetDetach_rel rfl (Rel.refl s) h)
  | sheetRetire _ _ => exact touch mask_969408386 (execSheetRetire_rel rfl (Rel.refl s) h)
  | sheetReam _ _ => exact touch mask_969408386 (execSheetReam_rel rfl (Rel.refl s) h)
  | sheetQuery _ _ => exact touch mask_969408386 (execSheetQuery_rel rfl (Rel.refl s) h)
  | mirrorEnable _ _ => exact touch mask_969408386 (execMirrorEnable_rel rfl (Rel.refl s) h)
  | mirrorDisable _ _ => exact touch mask_969408386 (execMirrorDisable_rel rfl (Rel.refl s) h)
  | mirrorReadLost _ _ => exact touch mask_969408386 (execMirrorReadLost_rel rfl (Rel.refl s) h)
  | meterConfigure _ _ => exact touch mask_969408386 (execMeterConfigure_rel rfl (Rel.refl s) h)
  | meterBind _ _ => exact touch mask_969408386 (execMeterBind_rel rfl (Rel.refl s) h)
  | meterRead _ _ => exact touch mask_969408386 (execMeterRead_rel rfl (Rel.refl s) h)
  | shapeShaper _ _ => exact touch mask_969408386 (execShapeShaper_rel rfl (Rel.refl s) h)
  | shapePriority _ _ => exact touch mask_969408386 (execShapePriority_rel rfl (Rel.refl s) h)
  | shapeQuantum _ _ => exact touch mask_969408386 (execShapeQuantum_rel rfl (Rel.refl s) h)
  | cadenceConfigure _ _ => exact touch mask_969408386 (execCadenceConfigure_rel rfl (Rel.refl s) h)
  | cadenceWindow _ _ => exact touch mask_969408386 (execCadenceWindow_rel rfl (Rel.refl s) h)
  | cadenceEnable _ _ => exact touch mask_969408386 (execCadenceEnable_rel rfl (Rel.refl s) h)
  | cadenceDisable _ _ => exact touch mask_969408386 (execCadenceDisable_rel rfl (Rel.refl s) h)
  | copy _ _ => exact touch mask_12996098 (execCopy_rel rfl (Rel.refl s) h)
  | gather _ _ => exact touch mask_12996098 (execGather_rel rfl (Rel.refl s) h)
  | reshape _ _ => exact touch mask_12996098 (execReshape_rel rfl (Rel.refl s) h)
  | fill _ _ => exact touch mask_12996098 (execFill_rel rfl (Rel.refl s) h)
  | mvstat _ _ => exact touch mask_549866498 (execMvstat_rel rfl (Rel.refl s) h)
  | mvpause _ _ => exact touch mask_12995586 (execMvpause_rel rfl (Rel.refl s) h)
  | mvabort _ _ => exact touch mask_12995586 (execMvabort_rel rfl (Rel.refl s) h)
  | mvresume _ _ => exact touch mask_12995586 (execMvresume_rel rfl (Rel.refl s) h)
  | moveTransfer _ => exact touch mask_96669186 (execMoveTransfer_rel rfl (Rel.refl s) h)
  | moveEnd _ => exact touch mask_88280578 (execMoveEnd_rel rfl (Rel.refl s) h)
  | time _ _ => exact touch mask_549864450 (execTime_rel rfl (Rel.refl s) h)
  | atWait _ _ => exact touch mask_12993538 (execAtWait_rel rfl (Rel.refl s) h)
  | atArm _ _ => exact touch mask_12993538 (execAtArm_rel rfl (Rel.refl s) h)
  | atTimerExpiry _ => exact touch mask_549864450 (execAtTimerExpiry_rel rfl (Rel.refl s) h)
  | waitframe _ _ => exact touch mask_12993538 (execWaitframe_rel rfl (Rel.refl s) h)
  | waitframeTimeout _ => exact touch mask_549864450 (execWaitframeTimeout_rel rfl (Rel.refl s) h)
  | takeadd _ _ => exact touch mask_12997634 (execTakeadd_rel rfl (Rel.refl s) h)
  | takearm _ _ => exact touch mask_12997634 (execTakearm_rel rfl (Rel.refl s) h)
  | takedrop _ _ => exact touch mask_12997634 (execTakedrop_rel rfl (Rel.refl s) h)
  | slotOn _ _ => exact touch mask_13526038 (execSlotOn_rel rfl (Rel.refl s) h)
  | slotOff _ _ => exact touch mask_13001750 (execSlotOff_rel rfl (Rel.refl s) h)
  | slotClear _ _ => exact touch mask_12993554 (execSlotClear_rel rfl (Rel.refl s) h)
  | slotDeclare _ _ => exact touch mask_12993554 (execSlotDeclare_rel rfl (Rel.refl s) h)
  | slotStatus _ _ => exact touch mask_549864450 (execSlotStatus_rel rfl (Rel.refl s) h)
  | budgetCap _ _ => exact touch mask_12993542 (execBudgetCap_rel rfl (Rel.refl s) h)
  | budgetLimit _ _ => exact touch mask_12993542 (execBudgetLimit_rel rfl (Rel.refl s) h)
  | budgetRead _ _ => exact touch mask_549864450 (execBudgetRead_rel rfl (Rel.refl s) h)
  | paceTarget _ _ => exact touch mask_12993542 (execPaceTarget_rel rfl (Rel.refl s) h)
  | paceLoop _ _ => exact touch mask_12993542 (execPaceLoop_rel rfl (Rel.refl s) h)
  | paceReadStatus _ _ => exact touch mask_549864450 (execPaceReadStatus_rel rfl (Rel.refl s) h)
  | paceReadVcore _ _ => exact touch mask_549864450 (execPaceReadVcore_rel rfl (Rel.refl s) h)
  | snapFreeze _ _ => exact touch mask_549864450 (execSnapFreeze_rel rfl (Rel.refl s) h)
  | snapRelease _ _ => exact touch mask_12993538 (execSnapRelease_rel rfl (Rel.refl s) h)
  | count _ _ => exact touch mask_549864450 (execCount_rel rfl (Rel.refl s) h)
  | log _ _ => exact touch mask_12993538 (execLog_rel rfl (Rel.refl s) h)
  | tenantCreate _ _ => exact touch mask_549876738 (execTenantCreate_rel rfl (Rel.refl s) h)
  | tenantRemove _ _ => exact touch mask_633831170 (execTenantRemove_rel rfl (Rel.refl s) h)
  | tenantTimeout _ _ => exact touch mask_13001730 (execTenantTimeout_rel rfl (Rel.refl s) h)
  | tenantCounterRead _ _ => exact touch mask_13001730 (execTenantCounterRead_rel rfl (Rel.refl s) h)
  | resetuPort _ _ => exact touch mask_29842434 (execResetuPort_rel rfl (Rel.refl s) h)
  | resetuQuire _ _ => exact touch mask_29875202 (execResetuQuire_rel rfl (Rel.refl s) h)
  | resetuTenant _ _ => exact touch mask_633831170 (execResetuTenant_rel rfl (Rel.refl s) h)
  | resetuPoolChannel _ _ => exact touch mask_164068738 (execResetuPoolChannel_rel rfl (Rel.refl s) h)
  | resetuSlot _ _ => exact touch mask_12993558 (execResetuSlot_rel rfl (Rel.refl s) h)
  | resetuContext _ _ => exact touch mask_633822978 (execResetuContext_rel rfl (Rel.refl s) h)
  | resetuMoverChannel _ _ => exact touch mask_96947970 (execResetuMoverChannel_rel rfl (Rel.refl s) h)
  | resetuCommandPort _ _ => exact touch mask_12993538 (execResetuCommandPort_rel rfl (Rel.refl s) h)
  | resetuCoherentDomain _ _ => exact touch mask_29846786 (execResetuCoherentDomain_rel rfl (Rel.refl s) h)
  | unitResetEnd _ _ => exact touch mask_818413202 (execUnitResetEnd_rel rfl (Rel.refl s) h)
  | glbHoldWrite _ _ => exact touch mask_182401 (execGlbHoldWrite_rel rfl (Rel.refl s) h)
  | couchToSpare _ _ => exact touch mask_13026306 (execCouchToSpare_rel rfl (Rel.refl s) h)
  | couchHome _ _ => exact touch mask_13026306 (execCouchHome_rel rfl (Rel.refl s) h)
  | couchHandoverEnd _ _ => exact touch mask_549897218 (execCouchHandoverEnd_rel rfl (Rel.refl s) h)
  | qpeSelfTestEnd _ _ => exact touch mask_32768 (execQpeSelfTestEnd_rel rfl (Rel.refl s) h)
  | lockLifecycle _ _ => exact touch mask_12993539 (execLockLifecycle_rel rfl (Rel.refl s) h)
  | lockRevoke _ _ => exact touch mask_12993539 (execLockRevoke_rel rfl (Rel.refl s) h)
  | lockSvn _ _ => exact touch mask_12993539 (execLockSvn_rel rfl (Rel.refl s) h)
  | lockFuseKey _ _ => exact touch mask_12994051 (execLockFuseKey_rel rfl (Rel.refl s) h)
  | image _ _ => exact touch mask_80102915 (execImage_rel rfl (Rel.refl s) h)
  | resume _ _ => exact touch mask_12993538 (execResume_rel rfl (Rel.refl s) h)
  | timePpsEdge _ => exact touch mask_969408386 (execTimePpsEdge_rel rfl (Rel.refl s) h)
  | ppsLossTimeout => exact touch mask_4330498 (execPpsLossTimeout_rel rfl (Rel.refl s) h)
  | setNow => exact touch mask_969408386 (execSetNow_rel rfl (Rel.refl s) h)
  | setAtPps => exact touch mask_4096 (execSetAtPps_rel rfl (Rel.refl s) h)
  | timeModeWrite _ => exact touch mask_969408386 (execTimeModeWrite_rel rfl (Rel.refl s) h)
  | timeAdjWrite _ => exact touch mask_4096 (execTimeAdjWrite_rel rfl (Rel.refl s) h)
  | frameRefEdge _ _ => exact touch mask_549934082 (execFrameRefEdge_rel rfl (Rel.refl s) h)
  | frameEdgeMissing _ => exact touch mask_549934082 (execFrameEdgeMissing_rel rfl (Rel.refl s) h)
  | frameRefEnable _ _ => exact touch mask_135168 (execFrameRefEnable_rel rfl (Rel.refl s) h)
  | frameRefDisable _ => exact touch mask_135168 (execFrameRefDisable_rel rfl (Rel.refl s) h)
  | frameOutPulse _ => exact touch mask_4198400 (execFrameOutPulse_rel rfl (Rel.refl s) h)
  | takePrepared _ => exact touch mask_12865536 (execTakePrepared_rel rfl (Rel.refl s) h)
  | takeReadinessPoint _ => exact touch mask_12997634 (execTakeReadinessPoint_rel rfl (Rel.refl s) h)
  | takeApplication _ => exact touch mask_432537474 (execTakeApplication_rel rfl (Rel.refl s) h)
  | takeCommitWrite _ => exact touch mask_4096 (execTakeCommitWrite_rel rfl (Rel.refl s) h)
  | uncorrectableMemoryError _ _ _ => exact touchAll
  | correctableMemoryError _ _ _ _ _ => exact touch mask_4326402 (execCorrectableMemoryError_rel rfl (Rel.refl s) h)
  | stkModeWrite _ => exact touch mask_393216 (execStkModeWrite_rel rfl (Rel.refl s) h)
  | domainKeyWrite _ => exact touch mask_393216 (execDomainKeyWrite_rel rfl (Rel.refl s) h)
  | keyLockWrite => exact touch mask_262144 (execKeyLockWrite_rel rfl (Rel.refl s) h)
  | msgJoin _ _ => exact touch mask_12993538 (execMsgJoin_rel rfl (Rel.refl s) h)
  | msgJoinAck _ _ => exact touch mask_12993538 (execMsgJoinAck_rel rfl (Rel.refl s) h)
  | msgBlock _ _ => exact touch mask_12993538 (execMsgBlock_rel rfl (Rel.refl s) h)
  | msgResult _ _ => exact touch mask_12993538 (execMsgResult_rel rfl (Rel.refl s) h)
  | msgHeartbeat _ _ => exact touch mask_12993538 (execMsgHeartbeat_rel rfl (Rel.refl s) h)
  | msgTime _ _ => exact touch mask_12997634 (execMsgTime_rel rfl (Rel.refl s) h)
  | msgTakeReady _ _ => exact touch mask_12997634 (execMsgTakeReady_rel rfl (Rel.refl s) h)
  | msgTakeCommit _ _ => exact touch mask_12997634 (execMsgTakeCommit_rel rfl (Rel.refl s) h)
  | msgTakeDone _ _ => exact touch mask_12993538 (execMsgTakeDone_rel rfl (Rel.refl s) h)
  | msgTakeover _ _ => exact touch mask_12993538 (execMsgTakeover_rel rfl (Rel.refl s) h)
  | msgViral _ _ => exact touch mask_4588546 (execMsgViral_rel rfl (Rel.refl s) h)
  | msgGateway _ _ => exact touch mask_409600 (execMsgGateway_rel rfl (Rel.refl s) h)
  | gatewayRepeat _ => exact touch mask_4194304 (execGatewayRepeat_rel rfl (Rel.refl s) h)
  | gatewayTimeout _ => exact touch mask_147456 (execGatewayTimeout_rel rfl (Rel.refl s) h)
  | heartbeatSend => exact touch mask_12861440 (execHeartbeatSend_rel rfl (Rel.refl s) h)
  | heartbeatLoss => exact touch mask_262144 (execHeartbeatLoss_rel rfl (Rel.refl s) h)
  | timeDistribution => exact touch mask_12861440 (execTimeDistribution_rel rfl (Rel.refl s) h)
  | promoteWrite => exact touch mask_12861440 (execPromoteWrite_rel rfl (Rel.refl s) h)
  | stkProxyWrite _ _ => exact touch mask_393216 (execStkProxyWrite_rel rfl (Rel.refl s) h)
  | leafData _ _ => exact touch mask_29883650 (execLeafData_rel rfl (Rel.refl s) h)
  | leafIdle _ _ => exact touch mask_29842434 (execLeafIdle_rel rfl (Rel.refl s) h)
  | leafNak _ _ => exact touch mask_29842434 (execLeafNak_rel rfl (Rel.refl s) h)
  | leafMgmt _ _ => exact touch mask_29883650 (execLeafMgmt_rel rfl (Rel.refl s) h)
  | leafInit _ _ => exact touch mask_29850626 (execLeafInit_rel rfl (Rel.refl s) h)
  | leafTransmit _ => exact touch mask_29576194 (execLeafTransmit_rel rfl (Rel.refl s) h)
  | replayTimerExpiry _ => exact touch mask_16388 (execReplayTimerExpiry_rel rfl (Rel.refl s) h)
  | iflRecoveryExit _ => exact touch mask_16384 (execIflRecoveryExit_rel rfl (Rel.refl s) h)
  | iflLinkDownTimeout _ => exact touch mask_29850626 (execIflLinkDownTimeout_rel rfl (Rel.refl s) h)
  | symbolLockLoss _ _ => exact touch mask_16388 (execSymbolLockLoss_rel rfl (Rel.refl s) h)
  | refclkLoss _ => exact touch mask_29842434 (execRefclkLoss_rel rfl (Rel.refl s) h)
  | refclkRestored _ => exact touch mask_16384 (execRefclkRestored_rel rfl (Rel.refl s) h)
  | adaptationBurst _ => exact touch mask_4 (execAdaptationBurst_rel rfl (Rel.refl s) h)
  | adaptationBurstEnd _ => exact touch mask_4 (execAdaptationBurstEnd_rel rfl (Rel.refl s) h)
  | patternStart _ _ => exact touch mask_147456 (execPatternStart_rel rfl (Rel.refl s) h)
  | patternStop _ => exact touch mask_16384 (execPatternStop_rel rfl (Rel.refl s) h)
  | marginStart _ _ => exact touch mask_16384 (execMarginStart_rel rfl (Rel.refl s) h)
  | marginDone _ _ _ _ _ _ => exact touch mask_16384 (execMarginDone_rel rfl (Rel.refl s) h)
  | partnerMarginCommand _ _ _ => exact touch mask_4210688 (execPartnerMarginCommand_rel rfl (Rel.refl s) h)
  | presenceChange _ _ _ => exact touch mask_16 (execPresenceChange_rel rfl (Rel.refl s) h)
  | seatedQualified _ => exact touch mask_4334614 (execSeatedQualified_rel rfl (Rel.refl s) h)
  | seatingLost _ => exact touch mask_4334614 (execSeatingLost_rel rfl (Rel.refl s) h)
  | slotBudgetGrant => exact touch mask_4334614 (execSlotBudgetGrant_rel rfl (Rel.refl s) h)
  | powerGoodQualified _ => exact touch mask_4334610 (execPowerGoodQualified_rel rfl (Rel.refl s) h)
  | perstReleaseTimer _ => exact touch mask_16 (execPerstReleaseTimer_rel rfl (Rel.refl s) h)
  | rampTimeout _ => exact touch mask_4334610 (execRampTimeout_rel rfl (Rel.refl s) h)
  | fastTrip _ => exact touch mask_4334610 (execFastTrip_rel rfl (Rel.refl s) h)
  | breakerThresholdCross _ _ => exact touch mask_16 (execBreakerThresholdCross_rel rfl (Rel.refl s) h)
  | breakerExpiry _ => exact touch mask_4334610 (execBreakerExpiry_rel rfl (Rel.refl s) h)
  | backoffEnd _ => exact touch mask_4334610 (execBackoffEnd_rel rfl (Rel.refl s) h)
  | retryCountReset _ => exact touch mask_16 (execRetryCountReset_rel rfl (Rel.refl s) h)
  | slotGrantRelease _ => exact touch mask_16 (execSlotGrantRelease_rel rfl (Rel.refl s) h)
  | vinWarn _ => exact touch mask_4334610 (execVinWarn_rel rfl (Rel.refl s) h)
  | warnRelease _ => exact touch mask_16 (execWarnRelease_rel rfl (Rel.refl s) h)
  | pwrfailInAssert _ => exact touch mask_4334642 (execPwrfailInAssert_rel rfl (Rel.refl s) h)
  | vinUndervoltage _ => exact touch mask_4334610 (execVinUndervoltage_rel rfl (Rel.refl s) h)
  | vinRestored _ => exact touch mask_4334610 (execVinRestored_rel rfl (Rel.refl s) h)
  | passDeviceFailure _ => exact touch mask_4334614 (execPassDeviceFailure_rel rfl (Rel.refl s) h)
  | controlExchangeLoss => exact touch mask_64 (execControlExchangeLoss_rel rfl (Rel.refl s) h)
  | controlExchangeResume => exact touch mask_4326466 (execControlExchangeResume_rel rfl (Rel.refl s) h)
  | budgetEvaluation => exact touch mask_4 (execBudgetEvaluation_rel rfl (Rel.refl s) h)
  | capUnmet => exact touch mask_4326406 (execCapUnmet_rel rfl (Rel.refl s) h)
  | trainingBurstGrant => exact touch mask_4 (execTrainingBurstGrant_rel rfl (Rel.refl s) h)
  | thermalCapStep => exact touch mask_4 (execThermalCapStep_rel rfl (Rel.refl s) h)
  | tempRefresh _ => exact touch mask_4326415 (execTempRefresh_rel rfl (Rel.refl s) h)
  | thermtrip _ => exact touchAll
  | avsWriteFailure => exact touch mask_4326406 (execAvsWriteFailure_rel rfl (Rel.refl s) h)
  | cmdLinkTrained _ _ _ => exact touch mask_4326402 (execCmdLinkTrained_rel rfl (Rel.refl s) h)
  | perstAssert _ => exact touch mask_4326402 (execPerstAssert_rel rfl (Rel.refl s) h)
  | barAccess _ _ _ _ _ => exact touch mask_1040187295 (execBarAccess_rel rfl (Rel.refl s) h)
  | handover _ => exact touch mask_4326402 (execHandover_rel rfl (Rel.refl s) h)
  | claim _ => exact touch mask_4326402 (execClaim_rel rfl (Rel.refl s) h)
  | autoFailover => exact touch mask_4326402 (execAutoFailover_rel rfl (Rel.refl s) h)
  | mctpControlMessage _ _ => exact touch mask_4194306 (execMctpControlMessage_rel rfl (Rel.refl s) h)
  | pldmMessage _ _ => exact touch mask_4194306 (execPldmMessage_rel rfl (Rel.refl s) h)
  | mctpOtherType _ => exact touch mask_2 (execMctpOtherType_rel rfl (Rel.refl s) h)
  | dynamicAddressAssign _ _ => exact touch mask_2 (execDynamicAddressAssign_rel rfl (Rel.refl s) h)
  | imageReadDone _ _ _ _ => exact touch mask_1 (execImageReadDone_rel rfl (Rel.refl s) h)
  | imageVerifyDone _ => exact touch mask_67109889 (execImageVerifyDone_rel rfl (Rel.refl s) h)
  | bootGo => exact touch mask_1 (execBootGo_rel rfl (Rel.refl s) h)
  | resetNAssert => exact touchAll
  | deviceResetRelease _ => exact touch mask_262145 (execDeviceResetRelease_rel rfl (Rel.refl s) h)
  | brownout _ => exact touchAll
  | counterFreezeWrite => exact touch mask_131072 (execCounterFreezeWrite_rel rfl (Rel.refl s) h)
  | counterReleaseWrite => exact touch mask_131072 (execCounterReleaseWrite_rel rfl (Rel.refl s) h)
  | shadowCopyEnd => exact touch mask_131072 (execShadowCopyEnd_rel rfl (Rel.refl s) h)
  | selectorWrite _ _ => exact touch mask_131072 (execSelectorWrite_rel rfl (Rel.refl s) h)
  | unitLogClear _ => exact touch mask_131072 (execUnitLogClear_rel rfl (Rel.refl s) h)
  | glbLockWrite _ => exact touch mask_1 (execGlbLockWrite_rel rfl (Rel.refl s) h)
  | histSelectWrite _ => exact touch mask_8 (execHistSelectWrite_rel rfl (Rel.refl s) h)
  | rgrpSelectWrite _ => exact touch mask_65536 (execRgrpSelectWrite_rel rfl (Rel.refl s) h)
  | ecmpSelectWrite _ => exact touch mask_65536 (execEcmpSelectWrite_rel rfl (Rel.refl s) h)
  | meterSelectWrite _ _ => exact touch mask_32768 (execMeterSelectWrite_rel rfl (Rel.refl s) h)
  | tapReset => exact touch mask_524288 (execTapReset_rel rfl (Rel.refl s) h)
  | tapBypass => exact touch mask_524288 (execTapBypass_rel rfl (Rel.refl s) h)
  | tapIdcode => exact touch mask_4718592 (execTapIdcode_rel rfl (Rel.refl s) h)
  | tapSamplePreload _ => exact touch mask_4718592 (execTapSamplePreload_rel rfl (Rel.refl s) h)
  | tapExtest => exact touch mask_524288 (execTapExtest_rel rfl (Rel.refl s) h)
  | tapClamp => exact touch mask_524288 (execTapClamp_rel rfl (Rel.refl s) h)
  | tapHighz => exact touch mask_524288 (execTapHighz_rel rfl (Rel.refl s) h)
  | powerUp => exact touch mask_1 (execPowerUp_rel rfl (Rel.refl s) h)
  | supplyLoss _ => exact touchAll
  | linkRecoveryExit _ => exact touch mask_16384 (execLinkRecoveryExit_rel rfl (Rel.refl s) h)
  | patternCheckerSync _ _ _ => exact touch mask_16384 (execPatternCheckerSync_rel rfl (Rel.refl s) h)
  | malformedLeaf _ _ => exact touch mask_29842434 (execMalformedLeaf_rel rfl (Rel.refl s) h)
  | perstDeassert _ => exact touch mask_2 (execPerstDeassert_rel rfl (Rel.refl s) h)
  | commandLinkHotReset _ => exact touch mask_4326402 (execCommandLinkHotReset_rel rfl (Rel.refl s) h)
  | breakerArmed _ => exact touch mask_16 (execBreakerArmed_rel rfl (Rel.refl s) h)
  | dramWriteAccepted _ _ => exact touch mask_63139202 (execDramWriteAccepted_rel rfl (Rel.refl s) h)
  | fuseWriteDone => exact touchAll

end Sys2Proof.Proofs.EveryStep
end

section
/-!
SUPPORT. Rules about the issue and the retirement of an instruction that the proofs of the instructions share: its checks, one by one,
and what a retirement that changes no register leaves.
-/

namespace Sys2Proof.Proofs.Issue

open Sys2Proof Sys2Proof.Machine Sys2Proof.Safety Sys2Proof.Laws.AboutMachine

theorem passes_nil : passes [] := fun _ h => absurd h List.not_mem_nil

theorem passes_cons {b : Bool} {n : Nat} {l : List (Bool × Nat)} (hb : b = false) (h : passes l) : passes ((b, n) :: l) :=
  List.forall_mem_cons.mpr ⟨hb, h⟩

/-- A command of a context that exists answers the state its meaning gives. -/
theorem unit18 {c : Nat} (h : c < 18) (s : State) : unitOk (c < 18) s = .next s := unitOk_of (decide_eq_true h) s

section
variable {s t : State} {c op : Nat} {w : Ox} {f : Option (Nat × Nat)}

theorem registers_of_rel {ch : Nat} (h : Rel ch s t) (hc : ch.testBit 29 = false) : same s t .registers := h.same .registers hc

theorem flagsKept_of_rel {ch : Nat} (h : Rel ch s t) (hc : ch.testBit 29 = false) : flagsKept s t :=
  fun j => flags_of_regs (h.regs hc j)

/-- What changes only the parts of a retirement, and no register, retires its instruction when its program moves on. -/
theorem retired_of_rel (h : Rel 12993538 s t) (hp : ∀ f, (getCtx s c).run = .prog f → (getCtx t c).pc = (getCtx s c).pc + 16) :
    Retired s t c ∧ flagsKept s t :=
  ⟨⟨fun j i => kget_of_regs (h.regs rfl j) i, hp, touch mask_549864450 (Rel.mono rfl h)⟩, flagsKept_of_rel h rfl⟩

theorem begun_retires (s : State) (c : Nat) : Rel 12993538 s (begun s c) := begun_rel rfl (Rel.refl s)

theorem retireSt_begun_rel (s : State) (c op : Nat) (w : Ox) (st : Nat) : Rel 12993538 s (retireSt (begun s c) c op w st) :=
  retireSt_rel rfl (begun_retires s c)

theorem retireSt_begun_pc (op : Nat) (w : Ox) (st : Nat) (h : (getCtx s c).run = .prog f) :
    (getCtx (retireSt (begun s c) c op w st) c).pc = (getCtx s c).pc + 16 := by
  obtain ⟨hr, hp⟩ := begun_prog s c f h
  rw [retireSt, pc_retire _ _ _ _ _ _ f hr, hp]

/-- In a program the context's record is not changed by the issue. -/
theorem getCtx_begun_prog (h : (getCtx s c).run = .prog f) : getCtx (begun s c) c = getCtx s c :=
  getCtx_begun_of s c c (debug_of_prog h)

theorem inRing_begun_prog (h : (getCtx s c).run = .prog f) : inRing (begun s c) c = false := by
  rw [inRing, getCtx_begun_prog h, h]

end

end Sys2Proof.Proofs.Issue
end

section
/-!
SUPPORT. Proofs about the arithmetic, logic and shift instructions (R239, Table OXI-3): one lemma for each kind of check, and each
instruction's result and flags.
-/

namespace Sys2Proof.Proofs.Alu

open Sys2Proof Sys2Proof.Machine Sys2Proof.Safety Sys2Proof.Laws.AboutAlu

/-! ## The flags of a result -/

theorem aluDivu_result (a b : W64) : (aluDivu a b).r = (if b = 0 then BitVec.allOnes 64 else a / b) ∧
    ((aluDivu a b).c = true ↔ False) ∧ ((aluDivu a b).v = true ↔ b = 0) := by
  unfold aluDivu
  split
  · next zero => simp [zero]
  · next ne =>
    refine ⟨?_, iff_of_false Bool.false_ne_true id, iff_of_false Bool.false_ne_true ne⟩
    rw [BitVec.udiv_def]

theorem aluRemu_result (a b : W64) : (aluRemu a b).r = a % b ∧ ((aluRemu a b).c = true ↔ False) ∧
    ((aluRemu a b).v = true ↔ b = 0) := by
  unfold aluRemu
  split
  · next zero => simp [zero]
  · next ne =>
    refine ⟨?_, iff_of_false Bool.false_ne_true id, iff_of_false Bool.false_ne_true ne⟩
    rw [BitVec.umod_def]

/-- The carry of a shift: set by a bit shifted out, and so never by an amount of 0. -/
theorem shiftCarry_iff (a : W64) (n i : Nat) : (n != 0 && bit a i) = true ↔ n ≠ 0 ∧ a.getLsbD i = true := by
  rw [Bool.and_eq_true, bne_iff_ne, bit_eq]

/-! ## The shift amount -/

theorem shiftChk_passes {b : W64} (h : b.toNat < 64) : ∀ e ∈ shiftChk b, e.1 = false := by
  intro e he
  rw [shiftChk, List.mem_singleton] at he
  rw [he]
  exact decide_eq_false (by omega)

theorem shiftChk_fails {b : W64} (h : 63 < b.toNat) : firstFail (shiftChk b) = some 0x11 := by
  rw [shiftChk, decide_eq_true h]
  rfl

section
variable {s : State} {c op : Nat} {w : Ox} {f : W64 → W64 → Alu} {i : Instr}

theorem shift_faults (h : Issues s c op w (srcShape w 1 true)) (hi : exec i s = unitOk (c < 18) (aluRun c op w true shiftChk f s))
    (big : 63 < (src2 (getCtx s c) w).toNat) :
    ∃ t, exec i s = .next t ∧ (getCtx t c).st = .faulted ∧ (getCtx t c).fault = 0x11 ∧
      ∀ j k, kget (getCtx t j) k = kget (getCtx s j) k := by
  have fails : firstFail (shiftChk (src2 (getCtx (begun s c) c) w)) = some 0x11 := by
    rw [begun_src2]
    exact shiftChk_fails big
  refine ⟨aluRun c op w true shiftChk f s, by rw [hi, u18 h.unit], ?_⟩
  rw [aluRun]
  exact oxRun_faulted (chk := fun _ x => shiftChk (src2 x w)) h fails

/-- A shift of 0 to 63 writes its result; a larger one faults. -/
theorem shift_done {r : W64} {cf : Prop} (h : Issues s c op w (srcShape w 1 true))
    (hi : exec i s = unitOk (c < 18) (aluRun c op w true shiftChk f s))
    (hr : (f (kget (getCtx s c) w.a) (src2 (getCtx s c) w)).r = r)
    (hc : (f (kget (getCtx s c) w.a) (src2 (getCtx s c) w)).c = true ↔ cf)
    (hv : (f (kget (getCtx s c) w.a) (src2 (getCtx s c) w)).v = true ↔ False) :
    ((src2 (getCtx s c) w).toNat < 64 →
      ∃ t, exec i s = .next t ∧ Wrote s t c w.d r ∧ flagsIf s t c (bit w.mod 0) r cf False) ∧
    (63 < (src2 (getCtx s c) w).toNat → ∃ t, exec i s = .next t ∧ (getCtx t c).st = .faulted ∧ (getCtx t c).fault = 0x11 ∧
      ∀ j k, kget (getCtx t j) k = kget (getCtx s j) k) :=
  ⟨fun small => alu_ok h hi (shiftChk_passes small) hr hc hv, shift_faults h hi⟩

/-- An instruction of the family without a check of its own. -/
theorem unchecked_done {r : W64} {cf vf : Prop} (h : Issues s c op w (srcShape w 1 true))
    (hi : exec i s = unitOk (c < 18) (aluRun c op w true noChk f s))
    (hr : (f (kget (getCtx s c) w.a) (src2 (getCtx s c) w)).r = r)
    (hc : (f (kget (getCtx s c) w.a) (src2 (getCtx s c) w)).c = true ↔ cf)
    (hv : (f (kget (getCtx s c) w.a) (src2 (getCtx s c) w)).v = true ↔ vf) :
    ∃ t, exec i s = .next t ∧ Wrote s t c w.d r ∧ flagsIf s t c (bit w.mod 0) r cf vf :=
  alu_ok h hi (fun _ he => absurd he List.not_mem_nil) hr hc hv

end

/-- Settles O15: `aluRun` writes what its function gives, and the function of each row is that of Table OXI-3. -/
theorem arithmeticLogicAndShifts : Obligations.ArithmeticLogicAndShifts := by
  unfold Obligations.ArithmeticLogicAndShifts
  have never : false = true ↔ False := iff_of_false Bool.false_ne_true id
  refine ⟨fun s c w => ?_, fun s c w => ?_⟩
  · refine ⟨fun h => ?add, fun h => ?sub, fun h => ?mul, fun h => ?divu, fun h => ?remu, fun h => ?and, fun h => ?or, fun h => ?xor⟩
    case add => exact unchecked_done (f := aluAdd) h rfl rfl decide_eq_true_iff (fits_iff _)
    case sub => exact unchecked_done (f := aluSub) h rfl rfl decide_eq_true_iff (fits_iff _)
    case mul => exact unchecked_done (f := aluMul) h rfl rfl decide_eq_true_iff (fits_iff _)
    case divu =>
      obtain ⟨result, carry, overflow⟩ := aluDivu_result (kget (getCtx s c) w.a) (src2 (getCtx s c) w)
      exact unchecked_done (f := aluDivu) h rfl result carry overflow
    case remu =>
      obtain ⟨result, carry, overflow⟩ := aluRemu_result (kget (getCtx s c) w.a) (src2 (getCtx s c) w)
      exact unchecked_done (f := aluRemu) h rfl result carry overflow
    case and => exact unchecked_done (f := aluAnd) h rfl rfl never never
    case or => exact unchecked_done (f := aluOr) h rfl rfl never never
    case xor => exact unchecked_done (f := aluXor) h rfl rfl never never
  · refine ⟨fun h => ?shl, fun h => ?shr, fun h => ?sar⟩
    case shl => exact shift_done (f := aluShl) h rfl rfl (shiftCarry_iff _ _ _) never
    case shr => exact shift_done (f := aluShr) h rfl rfl (shiftCarry_iff _ _ _) never
    case sar => exact shift_done (f := aluSar) h rfl rfl (shiftCarry_iff _ _ _) never

end Sys2Proof.Proofs.Alu
end

section
/-!
SUPPORT. Proofs about compares, moves, bit counts and bit fields (R239, Table OXI-3): what an instruction of each form leaves, and the
bits of each result.
-/

namespace Sys2Proof.Proofs.Compares

open Sys2Proof Sys2Proof.Machine Sys2Proof.Safety Sys2Proof.Laws.AboutAlu

/-! ## Flags only -/

section
variable {s : State} {c op : Nat} {w : Ox} {i : Instr}

theorem setFlags_flags_other (s : State) {c j : Nat} (y : Alu) (hj : j ≠ c) :
    flagsSame (getCtx (modCtx (begun s c) c fun x => setFlags x y) j) (getCtx s j) := by
  rw [getCtx_modCtx, if_neg hj]
  exact flags_of_regs (begun_regs s c j)

/-- A retirement leaves the flags as they stand. -/
theorem retireSt_flags (u : State) (c op : Nat) (w : Ox) (st j : Nat) :
    flagsSame (getCtx (endTurn (retireSt u c op w st) c) j) (getCtx u j) := by
  rw [getCtx_endTurn]
  exact flags_of_regs (retireSt_regs j)

/-- CMP and TST: the flags of the result, and no register. -/
theorem flagRun_done {f : W64 → W64 → Alu} {r : W64} {cf vf : Prop} (h : Issues s c op w (srcShape w 0 false))
    (hi : exec i s = unitOk (c < 18) (flagRun c op w f s))
    (hr : (f (kget (getCtx s c) w.a) (src2 (getCtx s c) w)).r = r)
    (hc : (f (kget (getCtx s c) w.a) (src2 (getCtx s c) w)).c = true ↔ cf)
    (hv : (f (kget (getCtx s c) w.a) (src2 (getCtx s c) w)).v = true ↔ vf) :
    ∃ t, exec i s = .next t ∧ Retired s t c ∧ flagsIf s t c true r cf vf := by
  generalize hy : f (kget (getCtx s c) w.a) (src2 (getCtx s c) w) = y at hr hc hv
  have run : flagRun c op w f s = endTurn (retireSt (modCtx (begun s c) c fun x => setFlags x y) c op w 0) c := by
    rw [flagRun, oxRun_issues h (fun _ he => absurd he List.not_mem_nil), begun_kget, begun_src2, hy]
  obtain ⟨hk, hp, hu⟩ := setFlags_state s c y
  obtain ⟨hz, hn, hC, hV⟩ := retireSt_flags (modCtx (begun s c) c fun x => setFlags x y) c op w 0 c
  rw [getCtx_modCtx, if_pos rfl] at hz hn hC hV
  refine ⟨_, by rw [hi, u18 h.unit, run], retireSt_retired hu hk hp, flagsAre_of ⟨hz, hn, hC, hV⟩ hr hc hv, fun j hj => ?_⟩
  obtain ⟨az, an, aC, aV⟩ := retireSt_flags (modCtx (begun s c) c fun x => setFlags x y) c op w 0 j
  obtain ⟨bz, bn, bC, bV⟩ := setFlags_flags_other s y hj
  exact ⟨az.trans bz, an.trans bn, aC.trans bC, aV.trans bV⟩

/-! ## A register and no flag -/

/-- An instruction that writes kd a value of the context's registers and sets no flag. -/
theorem write_done {sh : Shape0} {chk : State → Ctx → List (Bool × Nat)} {f : State → Ctx → W64} {v : W64} {p : W64 → Prop}
    (h : Issues s c op w sh) (hi : exec i s = unitOk (c < 18) (oxRun c op w sh chk (fun u x => retireK u c op w w.d (f u x)) s))
    (hc : ∀ e ∈ chk (begun s c) (getCtx (begun s c) c), e.1 = false) (hv : f (begun s c) (getCtx (begun s c) c) = v) (hp : p v) :
    ∃ t v, exec i s = .next t ∧ Wrote s t c w.d v ∧ flagsKept s t ∧ p v := by
  obtain ⟨wrote, kept⟩ := retireK_wrote (d := w.d) (f := f) h hc
  rw [hv] at wrote
  exact ⟨_, v, by rw [hi, u18 h.unit], wrote, kept, hp⟩

theorem unaryRun_done {f : W64 → W64} {p : W64 → Prop} (h : Issues s c op w { d := true, a := true })
    (hi : exec i s = unitOk (c < 18) (unaryRun c op w f s)) (hp : p (f (kget (getCtx s c) w.a))) :
    ∃ t v, exec i s = .next t ∧ Wrote s t c w.d v ∧ flagsKept s t ∧ p v :=
  write_done (f := fun _ x => f (kget x w.a)) h hi (fun _ he => absurd he List.not_mem_nil) (by rw [begun_kget]) hp

theorem minMaxRun_done {f : Bool → W64 → W64 → Alu} {p : W64 → Prop} (h : Issues s c op w (srcShape w 1 true))
    (hi : exec i s = unitOk (c < 18) (minMaxRun c op w f s))
    (hp : p (f (bit w.mod 0) (kget (getCtx s c) w.a) (src2 (getCtx s c) w)).r) :
    ∃ t v, exec i s = .next t ∧ Wrote s t c w.d v ∧ flagsKept s t ∧ p v :=
  write_done (f := fun _ x => (f (bit w.mod 0) (kget x w.a) (src2 x w)).r) h hi (fun _ he => absurd he List.not_mem_nil)
    (by rw [begun_kget, begun_src2]) hp

theorem bfRun_done {f : W64 → W64 → Nat → Nat → W64} {p : W64 → Prop} (h : Issues s c op w { d := true, a := true, imm := 0x7F3F })
    (hi : exec i s = unitOk (c < 18) (bfRun c op w f s)) (hw : fld w.imm 8 7 ≠ 0) (hin : fld w.imm 0 6 + fld w.imm 8 7 ≤ 64)
    (hp : p (f (kget (getCtx s c) w.d) (kget (getCtx s c) w.a) (fld w.imm 0 6) (fld w.imm 8 7))) :
    ∃ t v, exec i s = .next t ∧ Wrote s t c w.d v ∧ flagsKept s t ∧ p v := by
  refine write_done (f := fun _ x => f (kget x w.d) (kget x w.a) (fld w.imm 0 6) (fld w.imm 8 7))
    (chk := fun _ _ => [(fld w.imm 8 7 == 0 || 64 < fld w.imm 0 6 + fld w.imm 8 7, 0x11)]) h hi ?_
    (by rw [begun_kget, begun_kget]) hp
  intro e he
  rw [List.mem_singleton] at he
  rw [he, Bool.or_eq_false_iff]
  exact ⟨beq_eq_false_iff_ne.mpr hw, decide_eq_false (by omega)⟩

/-- MULHU is in the family of the flag-setting instructions, and has no /f. -/
theorem mulhu_done {p : W64 → Prop} (h : Issues s c 0x15 w (srcShape w 0 true))
    (hp : p (aluMulhu (kget (getCtx s c) w.a) (src2 (getCtx s c) w)).r) :
    ∃ t v, exec (.mulhu c w) s = .next t ∧ Wrote s t c w.d v ∧ flagsKept s t ∧ p v := by
  obtain ⟨wrote, same, others⟩ := aluRun_done (hasF := false) (chk := noChk) (f := aluMulhu) h (fun _ he => absurd he List.not_mem_nil)
  refine ⟨_, _, u18 h.unit _, wrote, fun j => ?_, hp⟩
  by_cases hj : j = c
  · rw [hj]
    exact same
  · exact others j hj

end

/-! ## The bits of a result -/

theorem aluMulhu_toNat (a b : W64) : (aluMulhu a b).r.toNat = a.toNat * b.toNat / 2 ^ 64 := by
  have bound : a.toNat * b.toNat < 2 ^ 64 * 2 ^ 64 := Nat.mul_lt_mul'' a.isLt b.isLt
  rw [aluMulhu, BitVec.toNat_ofNat, Nat.mod_eq_of_lt (Nat.div_lt_of_lt_mul bound)]

theorem aluMin_least (g : Bool) (a b : W64) : ((aluMin g a b).r = a ∨ (aluMin g a b).r = b) ∧
    if g then (aluMin g a b).r.toInt ≤ a.toInt ∧ (aluMin g a b).r.toInt ≤ b.toInt
    else (aluMin g a b).r.toNat ≤ a.toNat ∧ (aluMin g a b).r.toNat ≤ b.toNat := by
  cases g with
  | true =>
    simp only [aluMin, sgn, if_true]
    by_cases h : a.toInt ≤ b.toInt <;> simp [h] <;> omega
  | false =>
    simp only [aluMin, Bool.false_eq_true, if_false]
    by_cases h : a.toNat ≤ b.toNat <;> simp [h] <;> omega

theorem aluMax_greatest (g : Bool) (a b : W64) : ((aluMax g a b).r = a ∨ (aluMax g a b).r = b) ∧
    if g then a.toInt ≤ (aluMax g a b).r.toInt ∧ b.toInt ≤ (aluMax g a b).r.toInt
    else a.toNat ≤ (aluMax g a b).r.toNat ∧ b.toNat ≤ (aluMax g a b).r.toNat := by
  cases g with
  | true =>
    simp only [aluMax, sgn, if_true]
    by_cases h : b.toInt ≤ a.toInt <;> simp [h] <;> omega
  | false =>
    simp only [aluMax, Bool.false_eq_true, if_false]
    by_cases h : b.toNat ≤ a.toNat <;> simp [h] <;> omega

/-- How many of the numbers from `a` on satisfy `p` before the first that does not. -/
theorem takeWhile_range' (p : Nat → Bool) (n a : Nat) :
    ((List.range' a n).takeWhile p).length ≤ n ∧
    (∀ i, i < ((List.range' a n).takeWhile p).length → p (a + i) = true) ∧
    (((List.range' a n).takeWhile p).length < n → p (a + ((List.range' a n).takeWhile p).length) = false) := by
  induction n generalizing a with
  | zero => simp
  | succ n ih =>
    obtain ⟨bound, before, stop⟩ := ih (a + 1)
    rw [List.range'_succ, List.takeWhile_cons]
    by_cases h : p a = true
    · simp only [h, if_true, List.length_cons]
      refine ⟨by omega, fun i hi => ?_, fun hn => ?_⟩
      · cases i with
        | zero => exact h
        | succ i => rw [← before i (by omega), Nat.add_assoc, Nat.add_comm 1 i]
      · rw [← stop (by omega), Nat.add_assoc, Nat.add_comm 1]
    · simp [h]

theorem clz_counts (a : W64) : clz a ≤ 64 ∧ (∀ i, i < clz a → a.getLsbD (63 - i) = false) ∧
    (clz a < 64 → a.getLsbD (63 - clz a) = true) := by
  have counts := takeWhile_range' (fun i => !bit a (63 - i)) 64 0
  simp only [← List.range_eq_range', Nat.zero_add, bit_eq, Bool.not_eq_true', Bool.not_eq_false'] at counts
  unfold clz
  simp only [bit_eq]
  exact counts

theorem popc_counts (a : W64) : (BitVec.ofNat 64 (popc a)).toNat = (List.range 64).countP a.getLsbD := by
  have count : popc a = (List.range 64).countP a.getLsbD := by
    rw [popc, ← List.countP_eq_length_filter]
    congr 1
    funext i
    exact bit_eq a i
  have bound : (List.range 64).countP a.getLsbD ≤ 64 := by
    simpa using List.countP_le_length (p := a.getLsbD) (l := List.range 64)
  rw [count, BitVec.toNat_ofNat, Nat.mod_eq_of_lt (by omega)]

theorem bfx_bit (a : W64) {pos width : Nat} (h : pos + width ≤ 64) (i : Nat) :
    (bfx a pos width).getLsbD i = (decide (i < width) && a.getLsbD (pos + i)) := by
  rw [bfx, BitVec.getLsbD_ofNat, fld_testBit]
  by_cases hi : i < width
  · have : i < 64 := by omega
    simp [hi, this]
  · simp [hi]

theorem bfi_bit (d a : W64) {pos width : Nat} (h : pos + width ≤ 64) (i : Nat) :
    (bfi d a pos width).getLsbD i = if pos ≤ i ∧ i < pos + width then a.getLsbD (i - pos) else d.getLsbD i := by
  rw [bfi, setFld_bits]
  by_cases hi : pos ≤ i ∧ i < pos + width
  · have inside : i < 64 := by omega
    have field : i - pos < width := by omega
    simp [hi, inside, field, fld_testBit]
  · rw [if_neg hi, if_neg hi]
    by_cases inside : i < 64
    · simp [inside]
    · simp [inside, BitVec.getLsbD_of_ge d i (Nat.le_of_not_lt inside)]

/-- Settles O16: the two compares set flags only, and each other row writes the value its function gives. -/
theorem comparesMovesAndBitFields : Obligations.ComparesMovesAndBitFields := by
  unfold Obligations.ComparesMovesAndBitFields
  have never : false = true ↔ False := iff_of_false Bool.false_ne_true id
  refine ⟨fun s c w => ?_, fun s c w => ?_⟩
  · refine ⟨fun h => ?cmp, fun h => ?tst⟩
    case cmp => exact flagRun_done (f := aluSub) h rfl rfl decide_eq_true_iff (fits_iff _)
    case tst => exact flagRun_done (f := aluAnd) h rfl rfl never never
  · refine ⟨fun h => ?movi, fun h => ?mov, fun h => ?mulhu, fun h => ?min, fun h => ?max, fun h => ?clz, fun h => ?popc,
      fun h hw hin => ?bfx, fun h hw hin => ?bfi⟩
    case movi => exact write_done (f := fun _ _ => w.B) h rfl (fun _ he => absurd he List.not_mem_nil) rfl rfl
    case mov => exact unaryRun_done (f := id) h rfl rfl
    case mulhu => exact mulhu_done h (aluMulhu_toNat _ _)
    case min => exact minMaxRun_done (f := aluMin) h rfl (aluMin_least _ _ _)
    case max => exact minMaxRun_done (f := aluMax) h rfl (aluMax_greatest _ _ _)
    case clz =>
      obtain ⟨bound, before, stop⟩ := clz_counts (kget (getCtx s c) w.a)
      refine unaryRun_done (f := fun a => BitVec.ofNat 64 (Machine.clz a)) h rfl ?_
      rw [BitVec.toNat_ofNat, Nat.mod_eq_of_lt (by omega)]
      exact ⟨bound, before, stop⟩
    case popc => exact unaryRun_done (f := fun a => BitVec.ofNat 64 (Machine.popc a)) h rfl (popc_counts _)
    case bfx => exact bfRun_done (f := fun _ a p n => Machine.bfx a p n) h rfl hw hin (bfx_bit _ hin)
    case bfi => exact bfRun_done (f := Machine.bfi) h rfl hw hin (bfi_bit _ _ hin)

end Sys2Proof.Proofs.Compares
end

section
/-!
SUPPORT. Proofs about the control instructions (Table OXI-2): those that only retire, FENCE, an undefined opcode, and the transfers of
control.
-/

namespace Sys2Proof.Proofs.Control

open Sys2Proof Sys2Proof.Machine Sys2Proof.Safety Sys2Proof.Laws.AboutMachine Sys2Proof.Laws.AboutControl Sys2Proof.Proofs.Issue

/-! ## Instructions that retire -/

section
variable {s : State} {c : Nat} {w : Ox}

theorem exec_nop (h : Issues s c 0x00 w {}) : ∃ t, exec (.nop c w) s = .next t ∧ Retired s t c ∧ flagsKept s t := by
  refine ⟨_, res_issues rfl h passes_nil, retired_of_rel (endTurn_rel rfl (retireSt_begun_rel ..)) fun f hf => ?_⟩
  rw [getCtx_endTurn, retireSt_begun_pc _ _ _ hf]

theorem exec_halt (h : Issues s c 0x01 w {}) :
    ∃ t, exec (.halt c w) s = .next t ∧ Retired s t c ∧ flagsKept s t ∧ (getCtx t c).st = .halted := by
  refine ⟨_, res_issues rfl h passes_nil, ?_⟩
  rw [← and_assoc]
  refine ⟨retired_of_rel (endTurn_rel rfl (Rel.modCtx (fun _ => rfl) rfl (retireSt_begun_rel ..))) fun f hf => ?_, ?_⟩
  · rw [getCtx_endTurn, getCtx_modCtx, if_pos rfl, retireSt_begun_pc _ _ _ hf]
  · rw [getCtx_endTurn, getCtx_modCtx, if_pos rfl]

theorem yield_rel {q : State} (h : Rel 12993538 s q) :
    Rel 12993538 s (if q.seq.turn = c then { q with seq := { q.seq with left := 0 } } else q) :=
  Rel.ite (Rel.seq _ ⟨rfl, rfl⟩ rfl rfl h) h

theorem getCtx_yield (q : State) (c : Nat) :
    getCtx (if q.seq.turn = c then { q with seq := { q.seq with left := 0 } } else q) c = getCtx q c := by
  split <;> rfl

theorem exec_yield (h : Issues s c 0x09 w {}) :
    ∃ t, exec (.yield c w) s = .next t ∧ Retired s t c ∧ flagsKept s t ∧ (t.seq.turn = c → t.seq.left = 0) := by
  refine ⟨_, res_issues rfl h passes_nil, ?_⟩
  rw [← and_assoc]
  refine ⟨retired_of_rel (endTurn_rel rfl (yield_rel (retireSt_begun_rel ..))) fun f hf => ?_, yield_turn _ _⟩
  rw [getCtx_endTurn, getCtx_yield, retireSt_begun_pc _ _ _ hf]

theorem exec_fence_passed (h : Issues s c 0x08 w { mods := 7 }) (ho : fenceOpen (begun s c) c (fld w.mod 0 3) = true) :
    ∃ t, exec (.fence c w) s = .next t ∧ Retired s t c ∧ flagsKept s t := by
  refine ⟨endTurn (retireSt (begun s c) c 0x08 w 0) c, Eq.trans (res_issues rfl h passes_nil) (by rw [ho]; rfl),
    retired_of_rel (endTurn_rel rfl (retireSt_begun_rel ..)) fun f hf => ?_⟩
  rw [getCtx_endTurn, retireSt_begun_pc _ _ _ hf]

theorem exec_fence_waits (h : Issues s c 0x08 w { mods := 7 }) (ho : fenceOpen (begun s c) c (fld w.mod 0 3) = false) :
    ∃ t, exec (.fence c w) s = .next t ∧ onlyIn [.seq] s t ∧ same s t .registers ∧ (getCtx t c).st = .waiting ∧
      (getCtx t c).wait = .again ∧ (getCtx t c).pc = (getCtx s c).pc := by
  have waits : Rel 1024 s (endTurn (waitAgain (begun s c) c) c) := endTurn_rel rfl (waitAgain_rel rfl (begun_only s c))
  refine ⟨_, Eq.trans (res_issues rfl h passes_nil) (by rw [ho]; rfl), touch mask_1024 waits, registers_of_rel waits rfl, ?_⟩
  rw [getCtx_endTurn, waitAgain, getCtx_modCtx, if_pos rfl]
  exact ⟨rfl, rfl, begun_pc s c c⟩

/-! ## An undefined opcode -/

/-- A debug-issued instruction is not fetched, and a fetch looks at the context's record only. -/
theorem fetchFault_asDebug (s : State) (c : Nat) : fetchFault (asDebug s c) c = fetchFault s c := by
  unfold asDebug
  split
  · next d =>
    obtain ⟨-, idle⟩ : debugIssue s c = true ∧ (getCtx s c).run = .idle := by simpa using d
    rw [fetchFault, fetchFault, idle, getCtx_modCtx, if_pos rfl]
  · rfl

theorem fetchFault_takeSlot (s : State) (c : Nat) : fetchFault (takeSlot s c) c = fetchFault s c := rfl

theorem exec_undefinedOpcode {op : BitVec 8} (hc : c < 18) (hi : issues s c op.toNat w = true) (hd : opDefined op.toNat = false)
    (hf : fetchFault s c = none) : ∃ t, exec (.undefinedOpcode c op w) s = .next t ∧ (getCtx t c).st = .faulted ∧
      (getCtx t c).fault = 0x10 ∧ same s t .registers := by
  generalize hu : (if (getCtx (asDebug s c) c).run == .debug then asDebug s c else takeSlot (asDebug s c) c) = u
  have fetched : fetchFault u c = none := by
    rw [← hu]
    split
    · rw [fetchFault_asDebug, hf]
    · rw [fetchFault_takeSlot, fetchFault_asDebug, hf]
  have issued : Rel 12993538 s u := by
    rw [← hu]
    exact Rel.ite (asDebug_rel rfl (Rel.refl s)) (takeSlot_rel rfl (asDebug_rel rfl (Rel.refl s)))
  have ran : exec (.undefinedOpcode c op w) s = .next (endTurn (faultCtx u c op.toNat 0x10) c) := by
    refine unitOk_next (decide_eq_true hc) ?_
    rw [hi, hd, if_neg (by decide)]
    dsimp only
    rw [hu, fetched]
    rfl
  obtain ⟨st, fault⟩ := faultCtx_st u c op.toNat 0x10
  exact ⟨_, ran, by rw [getCtx_endTurn, st], by rw [getCtx_endTurn, fault],
    registers_of_rel (endTurn_rel rfl (faultCtx_rel rfl issued)) rfl⟩

end

/-! ## Transfers of control -/

/-- What a transfer of control leaves: the program counter and the call stack as given, no register changed, and nothing but the parts of
a retirement. -/
structure Goes (i : Instr) (s : State) (c : Nat) (pc : BitVec 20) (stack : List Frame) (t : State) : Prop where
  ran : exec i s = .next t
  pc : (getCtx t c).pc = pc
  stack : (getCtx t c).stack = stack
  registers : same s t .registers
  frame : onlyIn [.cmd, .seq, .port, .cnt, .stk, .out, .fresh] s t

section
variable {s : State} {c n : Nat} {w : Ox} {i : Instr} {f : Option (Nat × Nat)} {stack : List Frame}

theorem Goes.exists {pc : BitVec 20} {t : State} (g : Goes i s c pc stack t) : ∃ t, exec i s = .next t ∧ (getCtx t c).pc = pc ∧
    (getCtx t c).stack = stack ∧ same s t .registers ∧ onlyIn [.cmd, .seq, .port, .cnt, .stk, .out, .fresh] s t :=
  ⟨t, g.ran, g.pc, g.stack, g.registers, g.frame⟩

theorem goes_of_goTo {u : State} (ran : exec i s = .next (endTurn (goTo u c n) c)) (hu : Rel 12993538 s u)
    (hs : (getCtx u c).stack = stack) : Goes i s c (BitVec.ofNat 20 n) stack (endTurn (goTo u c n) c) :=
  have rel : Rel 12993538 s (endTurn (goTo u c n) c) := endTurn_rel rfl (goTo_rel rfl hu)
  { ran := ran
    pc := by rw [getCtx_endTurn, goTo_pc]
    stack := by rw [getCtx_endTurn, (goTo_data u c n c).stack, hs]
    registers := registers_of_rel rel rfl
    frame := touch mask_12993538 rel }

theorem counted_rel (op : Nat) (w : Ox) : Rel 12993538 s (recIf (retireCount (begun s c) c 0) c op w 0 none) :=
  recIf_rel rfl (retireCount_rel rfl (begun_retires s c))

theorem counted_stack (op : Nat) (w : Ox) : (getCtx (recIf (retireCount (begun s c) c 0) c op w 0 none) c).stack = (getCtx s c).stack := by
  rw [(recIf_data ..).stack, (retireCount_data ..).stack, begun_stack]

theorem relOk_of {x : Ctx} (h0 : 0 ≤ relTarget x w) (h1 : relTarget x w ≤ 0xFFFF0) : relOk x w = true := by
  rw [relOk, decide_eq_true h0, decide_eq_true h1]
  rfl

theorem bne_zero {k : Nat} (h : k = 0) : (k != 0) = false := by rw [h]; rfl

theorem callRec_stack (u : State) (c : Nat) (fr : Frame) : (getCtx (callRec u c fr) c).stack = (getCtx u c).stack := by
  unfold callRec
  split
  · rw [(postRec_data ..).stack]
  · rfl

section
variable (run : (getCtx s c).run = .prog f)
include run

theorem exec_jump (h : Issues s c 0x02 w { mods := 3, a := fld w.mod 0 2 == 2, B := if fld w.mod 0 2 == 2 then 0 else 2 ^ 64 - 1 })
    (hm : bit w.mod 0 = false) (inside : absTarget (getCtx s c) w < 2 ^ 20) (aligned : absTarget (getCtx s c) w % 16 = 0) :
    ∃ t, Goes (.jump c w) s c (BitVec.ofNat 20 (absTarget (getCtx s c) w)) (getCtx s c).stack t := by
  refine ⟨_, goes_of_goTo ((res_issues rfl h ?_).trans ?_) (counted_rel 0x02 w) (counted_stack 0x02 w)⟩
  · rw [getCtx_begun_prog run]
    exact passes_cons hm (passes_cons (decide_eq_false (by omega)) (passes_cons (inRing_begun_prog run)
      (passes_cons (bne_zero aligned) passes_nil)))
  · rw [getCtx_begun_prog run]

theorem exec_br (h : Issues s c 0x03 w { imm := 2 ^ 32 - 1 }) (h0 : 0 ≤ relTarget (getCtx s c) w)
    (h1 : relTarget (getCtx s c) w ≤ 0xFFFF0) :
    ∃ t, Goes (.br c w) s c (BitVec.ofNat 20 (relTarget (getCtx s c) w).toNat) (getCtx s c).stack t := by
  refine ⟨_, goes_of_goTo ((res_issues rfl h ?_).trans ?_) (counted_rel 0x03 w) (counted_stack 0x03 w)⟩
  · rw [getCtx_begun_prog run]
    exact passes_cons (by rw [relOk_of h0 h1]; rfl) (passes_cons (inRing_begun_prog run) passes_nil)
  · rw [getCtx_begun_prog run]

/-- The frame a CALL pushes. -/
def callFrame (x : Ctx) (w : Ox) : Frame :=
  { ret := x.pc + 16, cr := bit w.mod 7, irq := bit w.mod 6, source := (recSrc x).1, entry := (recSrc x).2 }

/-- What a CALL makes of its context's record. -/
def callPush (fr : Frame) (y : Ctx) : Ctx :=
  { y with stack := fr :: y.stack, run := callRun y, st := if y.st == .idle then .ready else y.st }

theorem exec_call (h : Issues s c 0x04 w { mods := 3, a := fld w.mod 0 2 == 2, imm := if fld w.mod 0 2 = 1 then 2 ^ 32 - 1 else 0, B := if fld w.mod 0 2 = 0 then 2 ^ 64 - 1 else 0 })
    (h3 : fld w.mod 0 2 ≠ 3) (hrel : fld w.mod 0 2 = 1 → relOk (getCtx s c) w = true)
    (habs : fld w.mod 0 2 ≠ 1 → absTarget (getCtx s c) w < 2 ^ 20) (aligned : callTarget (getCtx s c) w % 16 = 0)
    (room : (getCtx s c).stack.length < 16) :
    ∃ t, Goes (.call c w) s c (BitVec.ofNat 20 (callTarget (getCtx s c) w)) (callFrame (getCtx s c) w :: (getCtx s c).stack) t := by
  have checks : passes [(fld w.mod 0 2 == 3, 0x11), (fld w.mod 0 2 == 1 && !relOk (getCtx s c) w, 0x11),
      (fld w.mod 0 2 != 1 && 2 ^ 20 ≤ absTarget (getCtx s c) w, 0x11), (callTarget (getCtx s c) w % 16 != 0, 0x15),
      (16 ≤ (getCtx s c).stack.length, 0x17)] := by
    refine passes_cons (beq_eq_false_iff_ne.mpr h3) (passes_cons ?_ (passes_cons ?_ (passes_cons (bne_zero aligned)
      (passes_cons (decide_eq_false (by omega)) passes_nil))))
    · by_cases h1 : fld w.mod 0 2 = 1
      · rw [hrel h1, Bool.not_true, Bool.and_false]
      · rw [beq_eq_false_iff_ne.mpr h1, Bool.false_and]
    · by_cases h1 : fld w.mod 0 2 = 1
      · rw [h1]; rfl
      · have := habs h1
        rw [decide_eq_false (by omega), Bool.and_false]
  refine ⟨_, goes_of_goTo (u := modCtx (retireCount (begun s c) c 0) c (callPush (callFrame (getCtx s c) w))) ?_
    (Rel.modCtx (fun _ => rfl) rfl (retireCount_rel rfl (begun_retires s c))) ?_⟩
  · refine Eq.trans (res_issues rfl h (by rw [getCtx_begun_prog run]; exact checks)) ?_
    rw [getCtx_begun_prog run]
    rfl
  · rw [getCtx_modCtx, if_pos rfl, callPush, (retireCount_data ..).stack, begun_stack]

theorem exec_ret {fr : Frame} {fs : List Frame} (h : Issues s c 0x05 w {}) (hs : (getCtx s c).stack = fr :: fs)
    (inner : fs ≠ [] ∨ f = none) : ∃ t, Goes (.ret c w) s c fr.ret fs t := by
  generalize hu : callRec (modCtx (recIf (retireCount (begun s c) c 0) c 0x05 w 0 none) c fun x => { x with stack := fs }) c fr = u
  have popped : Rel 12993538 s u := by
    rw [← hu]
    exact callRec_rel rfl (Rel.modCtx (fun _ => rfl) rfl (counted_rel 0x05 w))
  have stack : (getCtx u c).stack = fs := by
    rw [← hu, callRec_stack, getCtx_modCtx, if_pos rfl]
  have checks : passes [(inRing (begun s c) c, 0x16), ((getCtx s c).stack.isEmpty, 0x17)] :=
    passes_cons (inRing_begun_prog run) (passes_cons (by rw [hs]; rfl) passes_nil)
  have ran : exec (.ret c w) s = .next (endTurn (goTo u c fr.ret.toNat) c) := by
    refine (res_issues rfl h (by rw [getCtx_begun_prog run]; exact checks)).trans ?_
    rw [getCtx_begun_prog run, hs]
    dsimp only
    rw [hu, run]
    rcases inner with hne | rfl
    · cases fs with
      | nil => exact absurd rfl hne
      | cons => rfl
    · cases fs <;> rfl
  have pc := goes_of_goTo ran popped stack
  rw [BitVec.ofNat_toNat, BitVec.setWidth_eq] at pc
  exact ⟨_, pc⟩

end

end

/-- Settles O17: each control instruction by the lemma of its row. -/
theorem controlInstructions : Obligations.ControlInstructions := by
  unfold Obligations.ControlInstructions
  refine ⟨fun s c w => ⟨exec_nop, exec_yield, exec_halt, fun h closed => ?passed, fun h opened => ?waits, fun op => exec_undefinedOpcode⟩,
    fun s c w f run => ⟨fun h hm inside aligned => ?jump, fun h h0 h1 => ?br, fun h h3 hrel habs room => ?call,
      fun fr fs h hs inner => ?ret⟩⟩
  case passed => exact exec_fence_passed h ((fence_iff s c w).mpr closed)
  case waits => exact exec_fence_waits h (Bool.eq_false_iff.mpr fun passed => (fence_iff s c w).mp passed opened)
  case jump =>
    obtain ⟨t, g⟩ := exec_jump run h hm inside aligned
    exact g.exists
  case br =>
    obtain ⟨t, g⟩ := exec_br run h h0 h1
    exact g.exists
  case call =>
    have target : callTarget (getCtx s c) w % 16 = 0 := by
      unfold callTarget
      split
      · next h1 =>
        obtain ⟨low, -, aligned⟩ := hrel h1
        show (relTarget (getCtx s c) w).toNat % 16 = 0
        have : 0 ≤ relTarget (getCtx s c) w := low
        have : relTarget (getCtx s c) w % 16 = 0 := aligned
        omega
      · next h1 => exact (habs h1).2
    obtain ⟨t, g⟩ := exec_call run h h3 (fun h1 => relOk_of (hrel h1).1 (hrel h1).2.1) (fun h1 => (habs h1).1) target room
    exact ⟨callFrame (getCtx s c) w, rfl, g.exists⟩
  case ret =>
    obtain ⟨t, g⟩ := exec_ret run h hs inner
    exact g.exists

end Sys2Proof.Proofs.Control
end

section
/-!
SUPPORT. Proofs about WAITEV, the end of its wait, and SIGNAL (R229, R230).
-/

namespace Sys2Proof.Proofs.Events

open Sys2Proof Sys2Proof.Machine Sys2Proof.Safety Sys2Proof.Laws.AboutMachine Sys2Proof.Proofs.Issue

section
variable {s : State} {c : Nat} {w : Ox} {m : W32} {d : BitVec 4}

theorem hi32_eq_zero {v : W64} (h : v.toNat < 2 ^ 32) : hi32 v = 0 := by
  apply BitVec.eq_of_toNat_eq
  simp only [hi32, BitVec.toNat_setWidth, BitVec.toNat_ushiftRight, Nat.shiftRight_eq_div_pow]
  rw [Nat.div_eq_of_lt h]
  rfl

theorem hi32_bne_zero {v : W64} (h : v.toNat < 2 ^ 32) : (hi32 v != 0) = false := by
  rw [hi32_eq_zero h]
  rfl

theorem evMask_begun (s : State) (c : Nat) (w : Ox) : evMask (getCtx (begun s c) c) w = evMask (getCtx s c) w := by
  rw [evMask, evMask, begun_kget]

/-! ## WAITEV -/

theorem waitev_passes (hm : (evMask (getCtx s c) w).toNat < 2 ^ 20) (h0 : evMask (getCtx s c) w = 0 → bit w.mod 0 = true)
    (hb : bit w.mod 5 = false → (kget (getCtx s c) w.b).toNat < 2 ^ 32) :
    passes [((evMask (getCtx (begun s c) c) w).toNat / 2 ^ 20 != 0, 0x11),
      (evMask (getCtx (begun s c) c) w == 0 && !bit w.mod 0, 0x11),
      (!bit w.mod 5 && hi32 (kget (getCtx (begun s c) c) w.b) != 0, 0x11)] := by
  rw [evMask_begun, begun_kget]
  refine passes_cons ?_ (passes_cons ?_ (passes_cons ?_ passes_nil))
  · rw [Nat.div_eq_of_lt hm]
    rfl
  · by_cases h : evMask (getCtx s c) w = 0
    · rw [h0 h, Bool.not_true, Bool.and_false]
    · rw [beq_eq_false_iff_ne.mpr h, Bool.false_and]
  · cases h5 : bit w.mod 5 with
    | true => rfl
    | false => rw [hi32_bne_zero (hb h5), Bool.and_false]

/-- The events of a mask are taken, and no register or flag is changed yet. -/
theorem takeEvents_rel_of {ch : Nat} {u : State} (hc : 1024 &&& ch = 1024) (h : Rel ch s u) :
    Rel ch s (modCtx u c fun x => { x with evp := x.evp &&& ~~~m }) :=
  Rel.modCtx (fun _ => rfl) (bit_of 10 hc rfl) h

theorem exec_waitev_returns (h : Issues s c 0x06 w { mods := 0x21, d := true, b := !bit w.mod 5, imm := if bit w.mod 5 then 2 ^ 32 - 1 else 0 })
    (hm : (evMask (getCtx s c) w).toNat < 2 ^ 20) (h0 : evMask (getCtx s c) w = 0 → bit w.mod 0 = true)
    (hb : bit w.mod 5 = false → (kget (getCtx s c) w.b).toNat < 2 ^ 32)
    (now : bit w.mod 0 = true ∨ (getCtx s c).evp &&& evMask (getCtx s c) w ≠ 0) :
    ∃ t, exec (.waitev c w) s = .next t ∧ Wrote s t c w.d (((getCtx s c).evp &&& evMask (getCtx s c) w).setWidth 64) ∧
      flagsKept s t ∧ (getCtx t c).evp = (getCtx s c).evp &&& ~~~evMask (getCtx s c) w := by
  generalize hu : modCtx (begun s c) c (fun x => { x with evp := x.evp &&& ~~~evMask (getCtx s c) w }) = u
  have taken : Rel 12993538 s u := by
    rw [← hu]
    exact takeEvents_rel_of rfl (begun_retires s c)
  have record : getCtx u c = { getCtx (begun s c) c with evp := (getCtx s c).evp &&& ~~~evMask (getCtx s c) w } := by
    rw [← hu, getCtx_modCtx, if_pos rfl, begun_evp]
  have test : (bit w.mod 0 || (getCtx s c).evp &&& evMask (getCtx s c) w != 0) = true := by simpa using now
  obtain ⟨wrote, kept⟩ := wrote_of_regs (c := c) (op := 0x06) (w := w) (d := w.d)
    (v := ((getCtx s c).evp &&& evMask (getCtx s c) w).setWidth 64) (taken.regs rfl) (by rw [record]; exact ⟨rfl, rfl⟩) taken
  refine ⟨_, Eq.trans (res_issues rfl h (waitev_passes hm h0 hb)) ?_, wrote, kept, ?_⟩
  · simp only [evMask_begun, begun_evp, test, if_true, takeEvents, hu]
  · rw [getCtx_endTurn, (retireK_data ..).evp, record]

theorem exec_waitev_waits (h : Issues s c 0x06 w { mods := 0x21, d := true, b := !bit w.mod 5, imm := if bit w.mod 5 then 2 ^ 32 - 1 else 0 })
    (hm : (evMask (getCtx s c) w).toNat < 2 ^ 20) (h0 : evMask (getCtx s c) w = 0 → bit w.mod 0 = true)
    (hb : bit w.mod 5 = false → (kget (getCtx s c) w.b).toNat < 2 ^ 32)
    (none_ : bit w.mod 0 = false ∧ (getCtx s c).evp &&& evMask (getCtx s c) w = 0) :
    ∃ t, exec (.waitev c w) s = .next t ∧ (getCtx t c).st = .waiting ∧ (getCtx t c).wait = .ev (evMask (getCtx s c) w) w.d ∧
      (getCtx t c).evp = (getCtx s c).evp ∧ same s t .registers := by
  have waits : Rel 1024 s (endTurn (waitWith (begun s c) c 0x06 w (.ev (evMask (getCtx s c) w) w.d)) c) :=
    endTurn_rel rfl (waitWith_rel rfl (begun_only s c))
  have test : (bit w.mod 0 || (getCtx s c).evp &&& evMask (getCtx s c) w != 0) = false := by simpa using none_
  refine ⟨endTurn (waitWith (begun s c) c 0x06 w (.ev (evMask (getCtx s c) w) w.d)) c,
    Eq.trans (res_issues rfl h (waitev_passes hm h0 hb)) ?_, ?_⟩
  · simp only [evMask_begun, begun_evp, test, Bool.false_eq_true, if_false]
  · rw [getCtx_endTurn, waitWith, getCtx_modCtx, if_pos rfl]
    exact ⟨rfl, rfl, begun_evp s c c, registers_of_rel waits rfl⟩

/-! ## The end of the wait -/

theorem exec_waitSatisfied (hc : c < 18) (hw : (getCtx s c).wait = .ev m d) (hst : (getCtx s c).st = .waiting)
    (latched : (getCtx s c).evp &&& m ≠ 0) :
    exec (.waitSatisfied c) s = .next (finishWait (modCtx s c fun x => { x with evp := x.evp &&& ~~~m }) c
      (some (d, ((getCtx s c).evp &&& m).setWidth 64))) := by
  have test : ((getCtx s c).st == .waiting && (getCtx s c).evp &&& m != 0) = true := by simpa [hst] using latched
  refine unitOk_next (decide_eq_true hc) ?_
  dsimp only
  rw [hw]
  dsimp only
  rw [test]
  rfl

/-- The end of a wait for events writes kd the events taken, and they are pending no more. -/
theorem finishWait_events (s : State) (c : Nat) (m : W32) (d : BitVec 4) (v : W64) :
    let t := finishWait (modCtx s c fun x => { x with evp := x.evp &&& ~~~m }) c (some (d, v))
    (∀ j i, kget (getCtx t j) i = if j = c ∧ d ≠ 0 ∧ i = d then v else kget (getCtx s j) i) ∧
      (getCtx t c).evp = (getCtx s c).evp &&& ~~~m := by
  have taken : ∀ j, regs (getCtx (modCtx s c fun x => { x with evp := x.evp &&& ~~~m }) j) = regs (getCtx s j) :=
    (takeEvents_rel_of (ch := 1024) rfl (Rel.refl s)).regs rfl
  refine ⟨fun j i => ?_, ?_⟩
  · rw [finishWait_kget, kget_of_regs (taken j)]
  · rw [(finishWait_data ..).evp, getCtx_modCtx, if_pos rfl]

/-! ## SIGNAL -/

theorem exec_signal {g line : Nat} (hg : fld w.imm 0 5 = g) (hl : fld w.imm 8 3 = line) (h : Issues s c 0x07 w { imm := 0x71F })
    (h0 : bit w.mod 0 = false) (hi : g < 18) (scope : c < 2 ∨ g = c ∨ (g = 0 ∧ line = 7))
    (off : (getCtx s g).st ≠ .off) (reset : (getCtx s g).st ≠ .inReset) :
    exec (.signal c w) s = .next (endTurn (retireSt (evLatch (begun s c) g line) c 0x07 w 0) c) := by
  subst hg hl
  have may : signalScope c (fld w.imm 0 5) (fld w.imm 8 3) = true := by
    rcases scope with hc | hs | ⟨h0, h7⟩
    · simp [signalScope, isStw, hc]
    · simp [signalScope, hs]
    · simp [signalScope, h0, h7]
  have checks : passes [(decide (17 < fld w.imm 0 5), 0x11), (!signalScope c (fld w.imm 0 5) (fld w.imm 8 3), 0x12)] :=
    passes_cons (decide_eq_false (by omega)) (passes_cons (by rw [may]; rfl) passes_nil)
  have on : ((getCtx s (fld w.imm 0 5)).st == .off || (getCtx s (fld w.imm 0 5)).st == .inReset) = false := by simp [off, reset]
  have lineForm : exec (.signal c w) s = unitOk (c < 18) (oxRun c 0x07 w { mods := 0, imm := 0x71F }
      (fun _ _ => [(17 < fld w.imm 0 5, 0x11), (!signalScope c (fld w.imm 0 5) (fld w.imm 8 3), 0x12)])
      (fun s _ => if (getCtx s (fld w.imm 0 5)).st == .off || (getCtx s (fld w.imm 0 5)).st == .inReset then retireSt s c 0x07 w 7
        else retireSt (evLatch s (fld w.imm 0 5) (fld w.imm 8 3)) c 0x07 w 0) s) := by
    show unitOk _ (if bit w.mod 0 then s else _) = _
    rw [h0]
    rfl
  refine Eq.trans (res_issues lineForm h checks) ?_
  rw [begun_st, on]
  rfl

theorem signal_retired (s : State) (c : Nat) (w : Ox) (g line : Nat) :
    Retired s (endTurn (retireSt (evLatch (begun s c) g line) c 0x07 w 0) c) c ∧
      flagsKept s (endTurn (retireSt (evLatch (begun s c) g line) c 0x07 w 0) c) := by
  have latched : Rel 12993538 s (evLatch (begun s c) g line) := evLatch_rel rfl (begun_retires s c)
  obtain ⟨-, -, hrun, hpc, -⟩ := evLatch_keep (begun s c) g line c
  exact retired_of_regs (latched.regs rfl) ⟨hrun, hpc⟩ latched

theorem signal_evp {g : Nat} (line : Nat) (off : (getCtx s g).st ≠ .off) (reset : (getCtx s g).st ≠ .inReset) :
    (getCtx (endTurn (retireSt (evLatch (begun s c) g line) c 0x07 w 0) c) g).evp =
      if bit (getCtx s g).evm line then (getCtx s g).evp ||| (1 <<< line : Nat) else (getCtx s g).evp := by
  rw [getCtx_endTurn, retireSt, (retire_data ..).evp, evLatch_evp, begun_st, begun_evm, begun_evp]
  simp only [off, reset, ne_eq, not_false_eq_true, true_and]

theorem exec_signalMask (h : Issues s c 0x07 w { mods := 1, d := true, a := true }) (h0 : bit w.mod 0 = true)
    (ha : (kget (getCtx s c) w.a).toNat < 2 ^ 32) :
    ∃ t, exec (.signalMask c w) s = .next t ∧ Wrote s t c w.d ((getCtx s c).evm.setWidth 64) ∧ flagsKept s t ∧
      (getCtx t c).evm = (kget (getCtx s c) w.a).setWidth 32 &&& 0x000FFFFF := by
  generalize hu : modCtx (begun s c) c (fun y => { y with evm := lo32 (kget (getCtx s c) w.a) &&& 0x000FFFFF }) = u
  have masked : Rel 12993538 s u := by
    rw [← hu]
    exact Rel.modCtx (fun _ => rfl) rfl (begun_retires s c)
  have record : getCtx u c = { getCtx (begun s c) c with evm := lo32 (kget (getCtx s c) w.a) &&& 0x000FFFFF } := by
    rw [← hu, getCtx_modCtx, if_pos rfl]
  obtain ⟨wrote, kept⟩ := wrote_of_regs (c := c) (op := 0x07) (w := w) (d := w.d) (v := (getCtx s c).evm.setWidth 64)
    (masked.regs rfl) (by rw [record]; exact ⟨rfl, rfl⟩) masked
  have checks : passes [(hi32 (kget (getCtx (begun s c) c) w.a) != 0, 0x11)] :=
    passes_cons (by rw [begun_kget]; exact hi32_bne_zero ha) passes_nil
  refine ⟨_, ?_, wrote, kept, ?_⟩
  · have maskForm : exec (.signalMask c w) s = unitOk (c < 18) (oxRun c 0x07 w { mods := 1, d := true, a := true }
        (fun _ x => [(hi32 (kget x w.a) != 0, 0x11)])
        (fun s x => retireK (modCtx s c fun y => { y with evm := lo32 (kget x w.a) &&& 0x000FFFFF }) c 0x07 w w.d (x.evm.setWidth 64)) s) := by
      show unitOk _ (if !bit w.mod 0 then s else _) = _
      rw [h0]
      rfl
    refine Eq.trans (res_issues maskForm h checks) ?_
    simp only [begun_kget, begun_evm, hu]
  · rw [getCtx_endTurn, (retireK_data ..).evm, record, lo32]

end

/-- Settles O18: each form of WAITEV and SIGNAL, and the end of a wait, by its lemma. -/
theorem eventInstructions : Obligations.EventInstructions := by
  unfold Obligations.EventInstructions
  intro s c w
  refine ⟨fun h hm h0 hb => ⟨exec_waitev_returns h hm h0 hb, exec_waitev_waits h hm h0 hb⟩, fun m d hc hw hst latched => ?_,
    fun h h0 hi scope off reset => ?_, exec_signalMask⟩
  · obtain ⟨kd, evp⟩ := finishWait_events s c m d (((getCtx s c).evp &&& m).setWidth 64)
    refine ⟨_, exec_waitSatisfied hc hw hst latched, fun i => ?_, evp, fun j hj i => ?_⟩
    · simpa using kd c i
    · simpa [hj] using kd j i
  · obtain ⟨retired, kept⟩ := signal_retired s c w (fld w.imm 0 5) (fld w.imm 8 3)
    exact ⟨_, exec_signal rfl rfl h h0 hi scope off reset, retired, kept, signal_evp _ off reset⟩

end Sys2Proof.Proofs.Events
end

section
/-!
SUPPORT. Proofs about LD, ATOM and the return of their data (R240 to R242): the wait for the data, the request that is sent for it, and
what its return does.
-/

namespace Sys2Proof.Proofs.Loads

open Sys2Proof Sys2Proof.Machine Sys2Proof.Safety Sys2Proof.Laws.AboutLoads Sys2Proof.Laws.AboutControl Sys2Proof.Proofs.Issue

/-! ## The wait for the data -/

/-- A context waits for the data of a load, with no register changed. -/
structure AwaitsLoad (s t : State) (c op : Nat) (w : Ox) (bits : Nat) (sext : Bool) : Prop where
  registers : same s t .registers
  st : (getCtx t c).st = .waiting
  wait : (getCtx t c).wait = .load (BitVec.ofNat 8 op) w.d bits sext

section
variable {s : State} {c op bits : Nat} {w : Ox} {sext : Bool}

theorem waitLoad_regs (s : State) (c op : Nat) (w : Ox) (bits : Nat) (sext : Bool) (j : Nat) :
    regs (getCtx (waitLoad (begun s c) c op w bits sext) j) = regs (getCtx s j) := by
  rw [waitLoad, waitWith_regs, begun_regs]

theorem waitLoad_store (s : State) (c op : Nat) (w : Ox) (bits : Nat) (sext : Bool) :
    (waitLoad (begun s c) c op w bits sext).seq.ps = s.seq.ps ∧ (waitLoad (begun s c) c op w bits sext).seq.psBad = s.seq.psBad :=
  (waitLoad_rel (ch := 1024) rfl (begun_only s c)).ps rfl

theorem waitLoad_waits (s : State) (c op : Nat) (w : Ox) (bits : Nat) (sext : Bool) :
    (getCtx (waitLoad (begun s c) c op w bits sext) c).st = .waiting ∧
    (getCtx (waitLoad (begun s c) c op w bits sext) c).wait = .load (BitVec.ofNat 8 op) w.d bits sext := by
  rw [waitLoad, waitWith, getCtx_modCtx, if_pos rfl]
  exact ⟨rfl, rfl⟩

/-- What sends a request leaves the contexts but for their events, so the wait stands. -/
theorem awaits_of_contextsKept {v : State} (h : contextsKept (waitLoad (begun s c) c op w bits sext) v) :
    AwaitsLoad s (endTurn v c) c op w bits sext := by
  obtain ⟨st, wait⟩ := waitLoad_waits s c op w bits sext
  obtain ⟨hwait, hst, -, -⟩ := sans_wait (h c)
  refine ⟨(kept_of fun j => ?_).2, ?_, ?_⟩
  · rw [getCtx_endTurn, sans_regs (h j), waitLoad_regs]
  · rw [getCtx_endTurn, hst, st]
  · rw [getCtx_endTurn, hwait, wait]

theorem memSend_awaits {sp : Nat} {m : Msg} (routed : sp ≠ 0 → (fabPkt s (tenOf c) (.load c) m 0).dest ≠ .none) :
    AwaitsLoad s (endTurn (memSend (waitLoad (begun s c) c op w bits sext) c sp (.load c) m) c) c op w bits sext ∧
    ∃ p, (endTurn (memSend (waitLoad (begun s c) c op w bits sext) c sp (.load c) m) c).core.pkts = s.core.pkts ++ [p] ∧
      p.org = .load c ∧ p.msg = m ∧ p.stage = .staged ∧ p.ten = tenOf c := by
  have waiting := seq_seq (begun_eq s c) (waitLoad_seq (begun s c) c op w bits sext)
  obtain ⟨kept, sent⟩ := memSend_ok waiting c sp (.load c) m routed
  rw [endTurn_core]
  exact ⟨awaits_of_contextsKept kept, sent⟩

theorem toLoad_awaits (a : Ans) :
    AwaitsLoad s (endTurn (toLoad (waitLoad (begun s c) c op w bits sext) c a) c) c op w bits sext ∧
    (endTurn (toLoad (waitLoad (begun s c) c op w bits sext) c a) c).core = s.core ∧
    (getCtx (endTurn (toLoad (waitLoad (begun s c) c op w bits sext) c a) c) c).reply =
      some { data := BitVec.ofNat 64 (leNat (ansData a)), bad := ansBad a } := by
  have rel : Rel 1024 s (endTurn (toLoad (waitLoad (begun s c) c op w bits sext) c a) c) :=
    endTurn_rel rfl (toLoad_rel rfl (waitLoad_rel rfl (begun_only s c)))
  obtain ⟨st, wait⟩ := waitLoad_waits s c op w bits sext
  refine ⟨⟨registers_of_rel rel rfl, ?_, ?_⟩, rel.same .core rfl, ?_⟩
  · rw [getCtx_endTurn, toLoad, getCtx_modCtx, if_pos rfl, st]
  · rw [getCtx_endTurn, toLoad, getCtx_modCtx, if_pos rfl, wait]
  · rw [getCtx_endTurn, toLoad, getCtx_modCtx, if_pos rfl]

/-! ## LD and ATOM -/

theorem memAddr_begun (s : State) (c : Nat) (w : Ox) : memAddr (getCtx (begun s c) c) w = memAddr (getCtx s c) w := by
  rw [memAddr, memAddr, begun_kget]

theorem memPass_begun {q : Chk} {go : State → State} (h : dklLine s q = .pass) : memPass (begun s c) c op q go = go (begun s c) :=
  memPass_ok ((dkl_of (begun_dkl s c) q).trans h)

/-- The request an LD sends. -/
def ldMsg (w : Ox) (a : Nat) : Msg :=
  { op := if fld w.mod 3 2 = 1 then .ioRd else .uioRd, addr := a, len := 2 ^ fld w.mod 0 2, dstPbr := fld w.B 0 12 }

/-- What an LD does once its context waits. -/
def ldGo (c : Nat) (w : Ox) (a : Nat) (s : State) : State :=
  if fld w.mod 3 2 = 2 then toLoad s c (if psErr s a (2 ^ fld w.mod 0 2) then .ca else .data (psRead s a (2 ^ fld w.mod 0 2)) [] .i)
  else memSend s c (fld w.mod 3 2) (.load c) (ldMsg w a)

theorem exec_ld (h : Issues s c 0x30 w { mods := 0x1F, d := true, a := true, imm := 2 ^ 32 - 1, B := memB (fld w.mod 3 2) })
    (h3 : fld w.mod 3 2 ≠ 3) (aligned : memAddr (getCtx s c) w % 2 ^ fld w.mod 0 2 = 0)
    (pass : dklLine s (memChk c (fld w.mod 3 2) (memAddr (getCtx s c) w) w true false false) = .pass) :
    exec (.ld c w) s = .next (endTurn (ldGo c w (memAddr (getCtx s c) w)
      (waitLoad (begun s c) c 0x30 w (8 * 2 ^ fld w.mod 0 2) (bit w.mod 2))) c) := by
  have checks : passes [(fld w.mod 3 2 == 3, 0x11), (memAddr (getCtx (begun s c) c) w % 2 ^ fld w.mod 0 2 != 0, 0x15)] := by
    rw [memAddr_begun]
    exact passes_cons (beq_eq_false_iff_ne.mpr h3) (passes_cons (by rw [aligned]; rfl) passes_nil)
  refine Eq.trans (res_issues rfl h checks) ?_
  dsimp only
  rw [memAddr_begun, memPass_begun pass]
  rfl

/-- The request an ATOM sends. -/
def atomMsg (s : State) (c : Nat) (w : Ox) : Msg :=
  let n := if bit w.mod 3 then 8 else 4
  let sp := fld w.mod 4 1
  let k := fld w.mod 0 3
  let kb := natLe n (kget (getCtx s c) w.b).toNat
  { op := if sp = 1 then .ioAtom (atomOp k) n else .uioAtom (atomOp k) n, addr := memAddr (getCtx s c) w, len := n,
    data := if k = 2 then natLe n (kget (getCtx s c) w.d).toNat ++ kb else kb, dstPbr := fld w.B 0 12 }

theorem exec_atom (h : Issues s c 0x34 w { mods := 0x1F, d := true, a := true, b := true, imm := 2 ^ 32 - 1, B := memB (fld w.mod 4 1) })
    (fabric : fld w.mod 4 1 = 1 → fld w.mod 0 3 ≤ 2) (aligned : memAddr (getCtx s c) w % (if bit w.mod 3 then 8 else 4) = 0)
    (pass : dklLine s (memChk c (fld w.mod 4 1) (memAddr (getCtx s c) w) w false false true) = .pass) :
    exec (.atom c w) s = .next (endTurn (memSend (waitLoad (begun s c) c 0x34 w (8 * if bit w.mod 3 then 8 else 4) false) c
      (fld w.mod 4 1) (.load c) (atomMsg s c w)) c) := by
  have checks : passes [(fld w.mod 4 1 == 1 && 2 < fld w.mod 0 3, 0x11),
      (memAddr (getCtx (begun s c) c) w % (if bit w.mod 3 then 8 else 4) != 0, 0x15)] := by
    rw [memAddr_begun]
    refine passes_cons ?_ (passes_cons (by rw [aligned]; rfl) passes_nil)
    by_cases h1 : fld w.mod 4 1 = 1
    · have := fabric h1
      rw [decide_eq_false (by omega), Bool.and_false]
    · rw [beq_eq_false_iff_ne.mpr h1, Bool.false_and]
  refine Eq.trans (res_issues rfl h checks) ?_
  dsimp only
  rw [memAddr_begun, memPass_begun pass, begun_kget, begun_kget]
  rfl

/-! ## The return of the data -/

variable {r : Reply} {opc : BitVec 8} {d : BitVec 4} {n : Nat}

theorem exec_loadDataReturn_good (hc : c < 18) (hr : (getCtx s c).reply = some r) (hw : (getCtx s c).wait = .load opc d n sext)
    (good : r.bad = false) :
    exec (.loadDataReturn c) s = .next (finishWait (modCtx s c fun y => { y with reply := none }) c
      (some (d, if sext then BitVec.ofInt 64 (signed n (r.data.toNat % 2 ^ n)) else BitVec.ofNat 64 (r.data.toNat % 2 ^ n)))) := by
  refine unitOk_next (decide_eq_true hc) ?_
  rw [loadReturn]
  dsimp only
  rw [hr, hw]
  dsimp only
  rw [if_neg (by rw [good]; exact Bool.false_ne_true)]

theorem exec_loadDataReturn_bad (hc : c < 18) (hr : (getCtx s c).reply = some r) (hw : (getCtx s c).wait = .load opc d n sext)
    (bad : r.bad = true) :
    exec (.loadDataReturn c) s = .next (faultCtx (modCtx (modCtx s c fun y => { y with reply := none }) c
      fun y => { y with waitRec := none }) c opc.toNat 0x14) := by
  refine unitOk_next (decide_eq_true hc) ?_
  rw [loadReturn]
  dsimp only
  rw [hr, hw]
  dsimp only
  rw [if_pos bad]

theorem noReply_regs (s : State) (c j : Nat) :
    regs (getCtx (modCtx s c fun y => { y with reply := none }) j) = regs (getCtx s j) :=
  (Rel.modCtx (ch := 1024) (c := c) (f := fun y => { y with reply := none }) (fun _ => rfl) rfl (Rel.refl s)).regs rfl j

end

/-- Settles O19: a load and an atomic wait for their data, which a request or the program store brings, and its return ends the wait. -/
theorem loadsAndAtomics : Obligations.LoadsAndAtomics := by
  unfold Obligations.LoadsAndAtomics
  intro s c w
  refine ⟨fun h h3 aligned pass routed => ?ld, fun h fabric aligned pass routed => ?atom, fun r op d n sext hc hr hw => ⟨fun good => ?good, fun bad => ?bad⟩⟩
  case ld =>
    refine ⟨_, exec_ld h h3 aligned pass, ?_⟩
    unfold ldGo
    by_cases h2 : fld w.mod 3 2 = 2
    · rw [if_pos h2]
      obtain ⟨⟨registers, st, wait⟩, core, reply⟩ := toLoad_awaits (s := s) (c := c) (op := 0x30) (w := w)
        (bits := 8 * 2 ^ fld w.mod 0 2) (sext := bit w.mod 2)
        (if psErr (waitLoad (begun s c) c 0x30 w (8 * 2 ^ fld w.mod 0 2) (bit w.mod 2)) (memAddr (getCtx s c) w) (2 ^ fld w.mod 0 2)
          then .ca else .data (psRead (waitLoad (begun s c) c 0x30 w (8 * 2 ^ fld w.mod 0 2) (bit w.mod 2)) (memAddr (getCtx s c) w)
            (2 ^ fld w.mod 0 2)) [] .i)
      refine ⟨registers, st, wait, fun hne => absurd h2 hne, fun _ => ⟨core, fun noErr => ?_⟩⟩
      obtain ⟨ps, psBad⟩ := waitLoad_store s c 0x30 w (8 * 2 ^ fld w.mod 0 2) (bit w.mod 2)
      have clean : psErr (waitLoad (begun s c) c 0x30 w (8 * 2 ^ fld w.mod 0 2) (bit w.mod 2)) (memAddr (getCtx s c) w)
          (2 ^ fld w.mod 0 2) = false := by
        rw [psErr, psBad]
        exact noErr
      rw [reply, clean, psRead, ps]
      rfl
    · rw [if_neg h2]
      have hop : fld w.mod 3 2 ≠ 0 → fld w.mod 3 2 = 1 := by
        have := fld_lt w.mod 3 2
        omega
      obtain ⟨⟨registers, st, wait⟩, sent⟩ := memSend_awaits (s := s) (c := c) (op := 0x30) (w := w) (bits := 8 * 2 ^ fld w.mod 0 2)
        (sext := bit w.mod 2) (sp := fld w.mod 3 2) (m := ldMsg w (memAddr (getCtx s c) w))
        fun h0 => routed (hop h0)
      exact ⟨registers, st, wait, fun _ => sent, fun heq => absurd heq h2⟩
  case atom =>
    have hop : fld w.mod 4 1 ≠ 0 → fld w.mod 4 1 = 1 := by
      have := fld_lt w.mod 4 1
      omega
    obtain ⟨⟨registers, st, wait⟩, sent⟩ := memSend_awaits (s := s) (c := c) (op := 0x34) (w := w)
      (bits := 8 * if bit w.mod 3 then 8 else 4) (sext := false) (sp := fld w.mod 4 1) (m := atomMsg s c w) fun h0 => routed (hop h0)
    exact ⟨_, exec_atom h fabric aligned pass, registers, st, wait, sent⟩
  case good =>
    refine ⟨_, exec_loadDataReturn_good hc hr hw good, finishWait_wait .., fun j i => ?_⟩
    rw [finishWait_kget, kget_of_regs (noReply_regs s c j)]
  case bad =>
    obtain ⟨st, fault⟩ := faultCtx_st (modCtx (modCtx s c fun y => { y with reply := none }) c fun y => { y with waitRec := none }) c
      op.toNat 0x14
    refine ⟨_, exec_loadDataReturn_bad hc hr hw bad, st, fault, registers_of_rel (ch := 12993538) ?_ rfl⟩
    exact faultCtx_rel rfl (Rel.modCtx (fun _ => rfl) rfl (Rel.modCtx (fun _ => rfl) rfl (Rel.refl s)))

end Sys2Proof.Proofs.Loads
end

section
/-!
SUPPORT. Proofs about the fabric instructions as a kind: staged for a take, or refused without effect (R243, R246 to R248).
-/

namespace Sys2Proof.Proofs.FabricItems

open Sys2Proof Sys2Proof.Machine Sys2Proof.Safety Sys2Proof.Laws.AboutFabric Sys2Proof.Proofs.Issue

/-! ## Staged instructions -/

/-- The item a staged instruction leaves in its take set. -/
def itemOf (s : State) (c op : Nat) (w : Ox) : Item :=
  { op := BitVec.ofNat 8 op, w := w, ka := kget (getCtx s c) w.a, kb := kget (getCtx s c) w.b, c := c }

section
variable {s : State} {c op k : Nat} {w : Ox}

theorem getTake_congr {u v : State} (h : v.time = u.time) (j : Nat) : getTake v j = getTake u j := by rw [getTake, getTake, h]

theorem itemsHeld_congr {u v : State} (h : v.time = u.time) : itemsHeld v = itemsHeld u := by rw [itemsHeld, itemsHeld, h]

theorem stageItem_begun (hk : (getCtx s c).staging = some k) (mine : (getTake s k).owner = c) (staging : (getTake s k).st = .staging)
    (room : (getTake s k).items.length < 1024) (total : itemsHeld s < 4096) :
    stageItem (begun s c) c op w (getCtx (begun s c) c) =
      retireSt (modTake (begun s c) k fun t => { t with items := t.items ++ [itemOf s c op w] }) c op w 0 := by
  have hst : (getCtx (begun s c) c).staging = some k := (congrArg Ctx.staging (getCtx_begun s c c)).trans hk
  have htk : getTake (begun s c) k = getTake s k := getTake_congr (begun_time s c) k
  have held : itemsHeld (begun s c) = itemsHeld s := itemsHeld_congr (begun_time s c)
  unfold stageItem
  rw [hst]
  dsimp only
  rw [htk, held, mine, staging, decide_eq_false (by omega : ¬ 1024 ≤ (getTake s k).items.length), decide_eq_false (by omega : ¬ 4096 ≤ itemsHeld s),
    begun_kget, begun_kget, if_neg (by simp)]
  rfl

theorem staged_takes (f : TakeSet → TakeSet) (j : Nat) :
    getTake (endTurn (retireSt (modTake (begun s c) k f) c op w 0) c) j = if j = k then f (getTake s j) else getTake s j := by
  have kept : (endTurn (retireSt (modTake (begun s c) k f) c op w 0) c).time = (modTake (begun s c) k f).time :=
    (endTurn_rel (ch := 12993538) rfl (retireSt_rel rfl (Rel.refl _))).same .time rfl
  calc getTake (endTurn (retireSt (modTake (begun s c) k f) c op w 0) c) j
      = getTake (modTake (begun s c) k f) j := getTake_congr kept j
    _ = _ := by rw [getTake_modTake', getTake_congr (begun_time s c)]

theorem fab_staged {i : Instr} {sub : Nat} (h : FabIssues i s c op sub w true) (noRead : fabRead op sub = false)
    (hk : (getCtx s c).staging = some k) (mine : (getTake s k).owner = c) (staging : (getTake s k).st = .staging)
    (room : (getTake s k).items.length < 1024) (total : itemsHeld s < 4096) :
    ∃ t, exec i s = .next t ∧ Did [.time] s t c ∧ (∀ j, j ≠ k → getTake t j = getTake s j) ∧
      getTake t k = { getTake s k with items := (getTake s k).items ++ [itemOf s c op w] } := by
  refine ⟨_, fab_issues h (by rw [noRead]; rfl) (Bool.and_false _), ?_⟩
  rw [if_pos rfl, stageItem_begun hk mine staging room total]
  refine ⟨did_of (ch := 12997634) (modTake_rel rfl ((begun_only s c).mono rfl)) (begun_regs s c) rfl ?_,
    fun j hj => (staged_takes _ j).trans (if_neg hj), (staged_takes _ k).trans (if_pos rfl)⟩
  intro p hp; cases p <;> first | rfl | exact absurd (by decide) hp

end

/-! ## Refused instructions -/

/-- A refusal leaves the fabric as it is, but for the log entry of a locked deckle. -/
theorem refused_state {s : State} {c op : Nat} {imm : W32} {B ka kb : W64} (refused : (fabApply s c op imm B ka kb).st ≠ 0) :
    (fabApply s c op imm B ka kb).s = s ∨ op = 0x44 ∧ ∃ k, (fabApply s c op imm B ka kb).s = deckleLocked s c k := by
  unfold fabApply at refused ⊢
  split at refused
  · exact .inl (bind_no _ _ refused)
  · exact .inl (unbind_no _ _ refused)
  · exact .inl (route_no _ _ _ _ _ refused)
  · exact .inl (mcast_no _ _ _ refused)
  · exact (deckle_no _ _ _ _ _ refused).imp id fun h => ⟨rfl, h⟩
  · exact .inl (sheet_no _ _ _ refused)
  · exact .inl (mirror_no _ _ _ _ _ _ refused)
  · exact .inl (meter_no _ _ _ _ _ refused)
  · exact .inl (shape_no _ _ _ _ refused)
  · exact .inl (cad_no _ _ _ _ _ refused)

theorem fabDirect_refused {s : State} {c op : Nat} {w : Ox} {f : Fab}
    (hf : fabApply (begun s c) c op w.imm w.B (kget (getCtx s c) w.a) (kget (getCtx s c) w.b) = f) (refused : f.st ≠ 0) :
    fabDirect (begun s c) c op w (getCtx (begun s c) c) = retireSt f.s c op w f.st := by
  unfold fabDirect
  dsimp only
  rw [begun_kget, begun_kget, hf, if_pos (bne_iff_ne.mpr refused)]

/-- What a refusal leaves differs from the state before only in the log and the events of a locked deckle. -/
theorem refused_did {s u : State} {c op st : Nat} {w : Ox} (h : u = begun s c ∨ op = 0x44 ∧ ∃ k, u = deckleLocked (begun s c) c k) :
    Did [.dkl] s (endTurn (retireSt u c op w st) c) c ∧ same s (endTurn (retireSt u c op w st) c) .deckles ∧
      (op ≠ 0x44 → same s (endTurn (retireSt u c op w st) c) .dkl) := by
  have start : Rel 12994050 s (begun s c) := (begun_only s c).mono rfl
  have lists : ∀ p, p ∉ [Part.dkl] ++ [.cmd, .seq, .port, .cnt, .stk, .out, .fresh] → (12994050 : Nat).testBit (partIdx p) = false := by
    intro p hp; cases p <;> first | rfl | exact absurd (by decide) hp
  rcases h with rfl | ⟨rfl, k, rfl⟩
  · have quiet : Rel 12993538 s (endTurn (retireSt (begun s c) c op w st) c) :=
      endTurn_rel rfl (retireSt_rel rfl ((begun_only s c).mono rfl))
    exact ⟨did_of start (begun_regs s c) rfl lists, quiet.same .deckles rfl, fun _ => quiet.same .dkl rfl⟩
  · have logged : Rel 12994050 s (deckleLocked (begun s c) c k) := deckleLocked_rel rfl start
    exact ⟨did_of logged (logged.regs rfl) rfl lists, (endTurn_rel rfl (retireSt_rel rfl logged)).same .deckles rfl, fun h => absurd rfl h⟩

theorem fab_refused {i : Instr} {s : State} {c op sub : Nat} {w : Ox} (h : FabIssues i s c op sub w false)
    (direct : fabTakeOnly op sub = false)
    (refused : (fabApply (begun s c) c op w.imm w.B (kget (getCtx s c) w.a) (kget (getCtx s c) w.b)).st ≠ 0) :
    ∃ t, exec i s = .next t ∧ Did [.dkl] s t c ∧ same s t .deckles ∧ (op ≠ 0x44 → same s t .dkl) := by
  refine ⟨_, fab_issues h (Bool.and_false _) (by rw [direct]; rfl), ?_⟩
  rw [if_neg Bool.false_ne_true, fabDirect_refused rfl refused]
  exact refused_did (refused_state refused)

/-- Settles O21: a staged instruction only adds its item to its take set, and a refused one has no effect. -/
theorem fabricItemsStagedOrRefused : Obligations.FabricItemsStagedOrRefused := by
  unfold Obligations.FabricItemsStagedOrRefused
  exact ⟨fun _ _ _ _ _ _ _ h noRead hk mine staging room total => fab_staged h noRead hk mine staging room total,
    fun _ _ _ _ _ _ h direct refused => fab_refused h direct refused⟩

end Sys2Proof.Proofs.FabricItems
end

section
/-!
SUPPORT. Rules for single fabric instructions: what a read gives, and what a change of one kind of table leaves.
-/

namespace Sys2Proof.Proofs.FabricRules

open Sys2Proof Sys2Proof.Machine Sys2Proof.Safety

variable {i : Instr} {s : State} {c op sub : Nat} {w : Ox}

/-- A fabric instruction marked read gives its value and leaves the fabric. -/
theorem fab_read {k : W64} (h : FabIssues i s c op sub w false) (read : fabRead op sub = true)
    (apply : fabApply (begun s c) c op w.imm w.B (kget (getCtx s c) w.a) (kget (getCtx s c) w.b) = { st := 0, kd := k, s := begun s c }) :
    ∃ t, exec i s = .next t ∧ Gave [.time] s t c w.d k := by
  have direct : fabTakeOnly op sub = false ∧ (op == 0x45 && sub == 7) = false ∧ (op == 0x46 && sub == 1) = false := by
    simp only [fabRead, Bool.or_eq_true, Bool.and_eq_true, beq_iff_eq] at read
    rcases read with (((⟨rfl, rfl⟩ | ⟨rfl, rfl⟩) | ⟨rfl, rfl⟩) | ⟨rfl, rfl⟩) | ⟨rfl, rfl⟩ <;> exact ⟨rfl, rfl, rfl⟩
  obtain ⟨takes, walk, again⟩ := direct
  obtain ⟨t, next, gave, -⟩ := fab_gave (l := [.time]) (ch := 1024) (m := 549868546) h takes apply rfl (by rw [read, Bool.or_true]) walk again
    (begun_only s c) rfl rfl rfl (by intro p hp; cases p <;> first | rfl | exact absurd (by decide) hp)
  exact ⟨t, next, gave⟩

/-- A fabric instruction that changes the switch core's tables. -/
theorem fab_core {u : State} (h : FabIssues i s c op sub w false) (direct : fabTakeOnly op sub = false)
    (apply : fabApply (begun s c) c op w.imm w.B (kget (getCtx s c) w.a) (kget (getCtx s c) w.b) = fabOk u)
    (noData : (op == 0x40 || fabRead op sub) = false) (noWalk : (op == 0x45 && sub == 7) = false)
    (closes : (op == 0x46 && sub == 1 && (getMir u (fld w.imm 0 3)).closing) = false)
    (hu : Rel 13063170 s u) :
    ∃ t, exec i s = .next t ∧ Did [.core, .time] s t c ∧ t.core = u.core := by
  obtain ⟨t, next, did, cfg⟩ := fab_did (l := [.core, .time]) (ch := 13063170) h direct apply rfl noData (by rw [noWalk]; rfl) closes
    (Rel.fabOk hu) rfl rfl (by intro p hp; cases p <;> first | rfl | exact absurd (by decide) hp)
  exact ⟨t, next, did, cfg.core⟩

end Sys2Proof.Proofs.FabricRules
end

section
/-!
SUPPORT. Proofs about the rows of ROUTE (Table OXI-6): entries, equal-cost groups, buckets, the seed and the hash.
-/

namespace Sys2Proof.Proofs.Routes

open Sys2Proof Sys2Proof.Machine Sys2Proof.Safety Sys2Proof.Laws.AboutRoute Sys2Proof.Proofs.FabricRules

theorem routeOf_congr {u v : State} (h : v.quire = u.quire) (q id : Nat) : routeOf v q id = routeOf u q id := by
  rw [routeOf, routeOf, getQuire, getQuire, h]

theorem getEcmp_congr {u v : State} (h : v.core = u.core) (g : Nat) : getEcmp v g = getEcmp u g := by rw [getEcmp, getEcmp, h]

/-! ## The effect of each row -/

/-- The route tables that an entry's mask names take its value. -/
def routeSet (s : State) (imm : W32) (v : W32) : State :=
  forL ((List.range 12).filter fun q => bit imm q) s fun s q =>
    modQuire s q fun x => { x with route := tput 0 x.route (fld imm 16 12) v }

section
variable {s : State} {c : Nat} {imm : W32} {B ka kb : W64}

theorem route_entry (row : fld imm 28 4 = 0) : fabApply s c 0x42 imm B ka kb = fabOk (routeSet s imm (lo32 B)) := by
  show routeDo s imm B ka kb = _
  rw [routeDo, row]
  rfl

theorem route_members (row : fld imm 28 4 = 1)
    (links : ∀ p ∈ (List.range (fld B 56 4)).map (memberOf B), roleOf (getPort s p) = 3 ∨ roleOf (getPort s p) = 4) :
    fabApply s c 0x42 imm B ka kb =
      fabOk (modEcmp s (fld imm 16 6) fun e => { e with members := (List.range (fld B 56 4)).map (memberOf B) }) := by
  have none : ((List.range (fld B 56 4)).map (memberOf B)).any
      (fun p => !(roleOf (getPort s p) == 3 || roleOf (getPort s p) == 4)) = false := by
    refine List.any_eq_false.mpr fun p hp => ?_
    rcases links p hp with h | h <;> simp [h]
  show routeDo s imm B ka kb = _
  rw [routeDo, row]
  dsimp only
  rw [none, if_neg Bool.false_ne_true]
  rfl

theorem route_buckets (row : fld imm 28 4 = 2) (inRange : ∀ i, i < 64 → bucketAt B ka kb i < (getEcmp s (fld imm 16 6)).members.length) :
    fabApply s c 0x42 imm B ka kb = fabOk (ecmpFence (modEcmp s (fld imm 16 6)
      fun e => { e with buckets := (List.range 64).map (bucketAt B ka kb) }) (fld imm 16 6)) := by
  have none : ((List.range 64).map (bucketAt B ka kb)).any (fun b => decide ((getEcmp s (fld imm 16 6)).members.length ≤ b)) = false := by
    refine List.any_eq_false.mpr fun b hb => ?_
    obtain ⟨i, hi, rfl⟩ := List.mem_map.mp hb
    exact fun h => absurd (of_decide_eq_true h) (Nat.not_le.mpr (inRange i (List.mem_range.mp hi)))
  show routeDo s imm B ka kb = _
  rw [routeDo, row]
  dsimp only
  rw [none, if_neg Bool.false_ne_true]
  rfl

theorem route_seed (row : fld imm 28 4 = 3) :
    fabApply s c 0x42 imm B ka kb = fabOk (forL (List.range 64) { s with core := { s.core with hashSeed := lo32 B } } ecmpFence) := by
  show routeDo s imm B ka kb = _
  rw [routeDo, row]
  rfl

theorem route_hash (row : fld imm 28 4 = 4) : fabApply s c 0x42 imm B ka kb =
    fabOk (forL (List.range 64) { s with core := { s.core with hashAddrEn := bit B 31, hashShift := fld B 0 6 } } ecmpFence) := by
  show routeDo s imm B ka kb = _
  rw [routeDo, row]
  rfl

theorem route_read (row : fld imm 28 4 = 5) : fabApply s c 0x42 imm B ka kb =
    { st := 0, kd := (routeOf s (fld imm 0 4) (fld imm 16 12)).setWidth 64, s := s } := by
  show routeDo s imm B ka kb = _
  rw [routeDo, row]
  rfl

end

/-! ## The instructions -/

variable {s : State} {c : Nat} {w : Ox}

theorem exec_routeEntry (h : FabIssues (.routeEntry c w) s c 0x42 0 w false) :
    ∃ t, exec (.routeEntry c w) s = .next t ∧ Did [.quire, .time] s t c ∧
      ∀ q id, routeOf t q id = if q < 12 ∧ bit w.imm q = true ∧ id = fld w.imm 16 12 then lo32 w.B else routeOf s q id := by
  have hu : Rel 13030402 s (routeSet (begun s c) w.imm (lo32 w.B)) :=
    Rel.forL (fun _ _ hv => modQuire_rel rfl hv) ((begun_only s c).mono rfl)
  obtain ⟨t, next, did, cfg⟩ := fab_did (l := [.quire, .time]) (ch := 13030402) h rfl (route_entry h.row) rfl rfl rfl rfl
    (Rel.fabOk hu) rfl rfl (by intro p hp; cases p <;> first | rfl | exact absurd (by decide) hp)
  refine ⟨t, next, did, fun q id => ?_⟩
  rw [routeOf_congr cfg.quire]
  show routeOf (routeSet (begun s c) w.imm (lo32 w.B)) q id = _
  rw [routeSet, forL_quires, routeOf_congr (begun_quire s c)]
  simp only [mem_quires, and_assoc]

theorem exec_routeMembers (h : FabIssues (.routeMembers c w) s c 0x42 1 w false)
    (links : ∀ p ∈ (List.range (fld w.B 56 4)).map (memberOf w.B), roleOf (getPort s p) = 3 ∨ roleOf (getPort s p) = 4) :
    ∃ t, exec (.routeMembers c w) s = .next t ∧ Did [.core, .time] s t c ∧
      ∀ g, getEcmp t g = if g = fld w.imm 16 6 then
        { getEcmp s (fld w.imm 16 6) with members := (List.range (fld w.B 56 4)).map (memberOf w.B) } else getEcmp s g := by
  have ports : ∀ p, getPort (begun s c) p = getPort s p := fun p => by rw [getPort, getPort, begun_port]
  obtain ⟨t, next, did, core⟩ := fab_core h rfl (route_members h.row fun p hp => by rw [ports]; exact links p hp) rfl rfl rfl
    (modEcmp_rel rfl ((begun_only s c).mono rfl))
  refine ⟨t, next, did, fun g => ?_⟩
  rw [getEcmp_congr core, getEcmp_modEcmp, getEcmp_congr (begun_core s c)]
  by_cases hg : g = fld w.imm 16 6
  · rw [if_pos hg, if_pos hg, hg]
  · rw [if_neg hg, if_neg hg]

theorem exec_routeRead (h : FabIssues (.routeRead c w) s c 0x42 5 w false) :
    ∃ t, exec (.routeRead c w) s = .next t ∧ Gave [.time] s t c w.d ((routeOf s (fld w.imm 0 4) (fld w.imm 16 12)).setWidth 64) :=
  fab_read h rfl (by rw [route_read h.row, routeOf_congr (begun_quire s c)])

/-- Settles O23, by the rows of ROUTE. -/
theorem routeInstructions : Obligations.RouteInstructions := by
  unfold Obligations.RouteInstructions
  refine fun s c w => ⟨exec_routeEntry, exec_routeMembers, exec_routeRead, fun ka kb row inRange => ?_, fun ka kb row => ?_,
    fun ka kb row => ?_⟩
  · rw [route_buckets row inRange]
    exact ⟨rfl, (ecmpFence_buckets _ _).trans (by rw [getEcmp_modEcmp, if_pos rfl])⟩
  · rw [route_seed row, fabOk, (ecmpFence_all _ _).1]
  · obtain ⟨-, shift, addrEn⟩ := ecmpFence_all (List.range 64)
      { s with core := { s.core with hashAddrEn := bit w.B 31, hashShift := fld w.B 0 6 } }
    rw [route_hash row, fabOk, shift, addrEn]
    exact ⟨rfl, rfl⟩

end Sys2Proof.Proofs.Routes
end

section
/-!
SUPPORT. Proofs about the rows of MCAST (Table OXI-7) and of DECKLE (Table OXI-8): the one group, partition or entry each changes.
-/

namespace Sys2Proof.Proofs.GroupsAndDeckles

open Sys2Proof Sys2Proof.Machine Sys2Proof.Safety Sys2Proof.Laws.AboutRoute Sys2Proof.Proofs.FabricRules

theorem getRgrp_congr {u v : State} (h : v.core = u.core) (g : Nat) : getRgrp v g = getRgrp u g := by rw [getRgrp, getRgrp, h]

theorem partOwner_congr {u v : State} (h : v.core = u.core) (p : Nat) : partOwner v p = partOwner u p := by rw [partOwner, partOwner, h]

theorem getDkl_congr {u v : State} (h : v.dkl = u.dkl) (k : Nat) : getDkl v k = getDkl u k := by rw [getDkl, getDkl, h]

/-! ## The effect of each row of MCAST -/

section
variable {s : State} {c : Nat} {imm : W32} {B ka kb : W64}

/-- The group is not a virtual switch's (R245). -/
def Plain (s : State) (g : Nat) : Prop := (rgValid (getRgrp s g).header && rgKind1 (getRgrp s g).header) = false

theorem mcast_header (row : fld imm 28 4 = 0) (plain : Plain s (fld imm 0 10)) (kind : rgKind1 B = false) :
    fabApply s c 0x43 imm B ka kb = fabOk (modRgrp s (fld imm 0 10) fun x => { x with header := B }) := by
  show mcastDo s imm B = _
  rw [mcastDo, row]
  refine if_neg ?_
  rw [plain, kind]
  decide

theorem mcast_member (row : fld imm 28 4 = 1) (plain : Plain s (fld imm 0 10)) (notStale : memState (getRgrp s (fld imm 0 10)) (fld imm 16 4) ≠ 2)
    (notCopying : memState (getRgrp s (fld imm 0 10)) (fld imm 16 4) ≠ 3) :
    fabApply s c 0x43 imm B ka kb =
      fabOk (modRgrp s (fld imm 0 10) fun x => { x with member := tput 0 x.member (fld imm 16 4) B }) := by
  show mcastDo s imm B = _
  rw [mcastDo, row]
  refine if_neg ?_
  rw [plain, beq_eq_false_iff_ne.mpr notStale, beq_eq_false_iff_ne.mpr notCopying]
  decide

theorem mcast_state (row : fld imm 28 4 = 2) (plain : Plain s (fld imm 0 10))
    (move : fld B 62 2 = 0 ∨ (memState (getRgrp s (fld imm 0 10)) (fld imm 16 4) = 2 ∧ fld B 62 2 = 3) ∨
      (memState (getRgrp s (fld imm 0 10)) (fld imm 16 4) = 3 ∧ fld B 62 2 = 1)) :
    fabApply s c 0x43 imm B ka kb =
      fabOk (modRgrp s (fld imm 0 10) fun x => setMemState x (fld imm 16 4) (fld B 62 2)) := by
  have allowed : (fld B 62 2 == 0 || (memState (getRgrp s (fld imm 0 10)) (fld imm 16 4) == 2 && fld B 62 2 == 3) ||
      (memState (getRgrp s (fld imm 0 10)) (fld imm 16 4) == 3 && fld B 62 2 == 1)) = true := by
    simpa only [Bool.or_eq_true, Bool.and_eq_true, beq_iff_eq, or_assoc] using move
  show mcastDo s imm B = _
  rw [mcastDo, row]
  refine if_neg ?_
  rw [plain, allowed]
  decide

theorem mcast_free (row : fld imm 28 4 = 3) (plain : Plain s (fld imm 0 10)) :
    fabApply s c 0x43 imm B ka kb = fabOk (modRgrp s (fld imm 0 10) fun x => { x with header := setFld x.header 63 1 0 }) := by
  show mcastDo s imm B = _
  rw [mcastDo, row]
  refine if_neg ?_
  rw [plain]
  decide

theorem mcast_owner (row : fld imm 28 4 = 4) (unused : tget 0 s.core.rstoreUse (fld imm 0 4) = 0)
    (kept1 : ¬(partOwner s (fld imm 0 4) = 1 ∧ fld B 0 2 = 2)) (kept2 : ¬(partOwner s (fld imm 0 4) = 2 ∧ fld B 0 2 = 1)) :
    fabApply s c 0x43 imm B ka kb =
      fabOk { s with core := { s.core with rstoreOwn := setFld s.core.rstoreOwn (2 * fld imm 0 4) 2 (fld B 0 2) } } := by
  show mcastDo s imm B = _
  rw [mcastDo, row]
  refine if_neg ?_
  rw [unused]
  simpa [-not_and] using ⟨kept1, kept2⟩

theorem mcast_read (row : fld imm 28 4 = 5) : fabApply s c 0x43 imm B ka kb =
    { st := 0, kd := if bit imm 20 then tget 0 (getRgrp s (fld imm 0 10)).member (fld imm 16 4) else (getRgrp s (fld imm 0 10)).header, s := s } := by
  show mcastDo s imm B = _
  rw [mcastDo, row]
  rfl

end

/-! ## MCAST -/

section
variable {s : State} {c : Nat} {w : Ox}

theorem plain_begun {g : Nat} (h : Plain s g) : Plain (begun s c) g := by
  rw [Plain, getRgrp_congr (begun_core s c)]
  exact h

theorem exec_mcastOwner (h : FabIssues (.mcastOwner c w) s c 0x43 4 w false) (unused : tget 0 s.core.rstoreUse (fld w.imm 0 4) = 0)
    (kept1 : ¬(partOwner s (fld w.imm 0 4) = 1 ∧ fld w.B 0 2 = 2)) (kept2 : ¬(partOwner s (fld w.imm 0 4) = 2 ∧ fld w.B 0 2 = 1)) :
    ∃ t, exec (.mcastOwner c w) s = .next t ∧ Did [.core, .time] s t c ∧
      ∀ r, r < 16 → partOwner t r = if r = fld w.imm 0 4 then fld w.B 0 2 else partOwner s r := by
  have same := begun_core s c
  obtain ⟨t, next, did, core⟩ := fab_core h rfl
    (mcast_owner h.row (by rw [same]; exact unused) (by rw [partOwner_congr same]; exact kept1) (by rw [partOwner_congr same]; exact kept2))
    rfl rfl rfl (Rel.core _ rfl ((begun_only s c).mono rfl))
  refine ⟨t, next, did, fun r hr => ?_⟩
  have hp : fld w.imm 0 4 < 16 := fld_lt w.imm 0 4
  rw [partOwner, core, same]
  by_cases he : r = fld w.imm 0 4
  · rw [if_pos he, he, fld_setFld _ _ _ _ (by omega)]
    exact Nat.mod_eq_of_lt (fld_lt w.B 0 2)
  · rw [if_neg he]
    exact fld_setFld_other _ _ _ _ _ _ (by omega) (by omega)

/-- Settles O24, by the rows of MCAST. -/
theorem multicastInstructions : Obligations.MulticastInstructions := by
  unfold Obligations.MulticastInstructions
  intro s c w
  have same : getRgrp (begun s c) (fld w.imm 0 10) = getRgrp s (fld w.imm 0 10) := getRgrp_congr (begun_core s c) _
  refine ⟨fun h plain kind => ?_, fun h plain notStale notCopying => ?_, fun h plain move => ?_, fun h plain => ?_,
    exec_mcastOwner, fun h => ?_⟩
  · exact mc_sets h rfl (mcast_header h.row (plain_begun plain) kind)
  · exact mc_sets h rfl (mcast_member h.row (plain_begun plain) (by rw [same]; exact notStale) (by rw [same]; exact notCopying))
  · exact mc_sets h rfl (mcast_state h.row (plain_begun plain) (by rw [same]; exact move))
  · exact mc_sets h rfl (mcast_free h.row (plain_begun plain))
  · exact fab_read h rfl (by rw [mcast_read h.row, same])

end

/-! ## DECKLE -/

section
variable {s : State} {c : Nat} {imm : W32} {B ka kb : W64}

/-- A context may change an entry: the Steward any, a tenant a free one or its own (R198). -/
def Mine (c : Nat) (d : Deckle) : Prop := c < 2 ∨ d.valid = false ∨ (d.stw = false ∧ d.ten + 2 = c)

theorem mine_iff {d : Deckle} : Mine c d ↔ (!isStw c && d.valid && (d.stw || d.ten + 2 != c)) = false := by
  rw [Mine, isStw]
  by_cases h : c < 2
  · simp [h]
  · cases d.valid <;> cases d.stw <;> simp [h]

/-- The table with entry `k` put to `e`. -/
def putDkl (s : State) (k : Nat) (e : Deckle) : State := { s with dkl := { s.dkl with tab := tput {} s.dkl.tab k e } }

theorem deckle_write (row : fld imm 16 2 = 0) (free : (getDkl s (fld imm 0 13)).locked = false) (mine : Mine c (getDkl s (fld imm 0 13)))
    (apart : ∀ x ∈ s.dkl.tab, x.1 ≠ fld imm 0 13 → dklOverlap { w0 := B, w1 := ka } x.2 = false) :
    fabApply s c 0x44 imm B ka kb = fabOk (putDkl s (fld imm 0 13) { w0 := B, w1 := ka }) := by
  have none : s.dkl.tab.any (fun x => x.1 != fld imm 0 13 && dklOverlap { w0 := B, w1 := ka } x.2) = false := by
    refine List.any_eq_false.mpr fun x hx => ?_
    by_cases hk : x.1 = fld imm 0 13
    · simp [hk]
    · simp [apart x hx hk]
  show deckleDo s c imm B ka = _
  rw [deckleDo, row]
  refine (if_neg ?_).trans (if_neg ?_)
  · rw [free]
    decide
  · rw [mine_iff.mp mine, none]
    decide

theorem deckle_invalidate (row : fld imm 16 2 = 1) (free : (getDkl s (fld imm 0 13)).locked = false) (mine : Mine c (getDkl s (fld imm 0 13))) :
    fabApply s c 0x44 imm B ka kb = fabOk (putDkl s (fld imm 0 13) {}) := by
  show deckleDo s c imm B ka = _
  rw [deckleDo, row]
  refine (if_neg ?_).trans (if_neg ?_)
  · rw [free]
    decide
  · rw [mine_iff.mp mine]
    decide

theorem deckle_setLock (row : fld imm 16 2 = 2) (valid : (getDkl s (fld imm 0 13)).valid = true) :
    fabApply s c 0x44 imm B ka kb =
      fabOk (putDkl s (fld imm 0 13) { getDkl s (fld imm 0 13) with w0 := setFld (getDkl s (fld imm 0 13)).w0 62 1 1 }) := by
  show deckleDo s c imm B ka = _
  rw [deckleDo, row]
  refine if_neg ?_
  rw [valid]
  decide

/-- Settles O25, by the rows of DECKLE. -/
theorem deckleInstructions : Obligations.DeckleInstructions := by
  unfold Obligations.DeckleInstructions
  intro s c w
  have same : getDkl (begun s c) (fld w.imm 0 13) = getDkl s (fld w.imm 0 13) := getDkl_congr (begun_dkl s c) _
  refine ⟨fun h free mine apart => ?_, fun h free mine => ?_, fun h valid => ?_⟩
  · exact dk_sets h rfl (deckle_write h.row (by rw [same]; exact free) (by rw [same]; exact mine) (by rw [begun_dkl]; exact apart))
  · exact dk_sets h rfl (deckle_invalidate h.row (by rw [same]; exact free) (by rw [same]; exact mine))
  · exact dk_sets h rfl ((deckle_setLock h.row (by rw [same]; exact valid)).trans (by rw [same]; rfl))

end

end Sys2Proof.Proofs.GroupsAndDeckles
end

section
/-!
SUPPORT. Proofs about the rows of SHEET (Tables OXI-9, POOL-6): the entry and the slot marks each changes, and the walk of a ream.
-/

namespace Sys2Proof.Proofs.Sheets

open Sys2Proof Sys2Proof.Machine Sys2Proof.Safety Sys2Proof.Laws.AboutSheets Sys2Proof.Proofs.FabricRules

/-! ## What an instruction finds when it begins -/

section
variable (s : State) (c : Nat)

theorem begun_sheet (i : Nat) : getSheet (begun s c) i = getSheet s i := sheet_of (by rw [begun_pool]) i

theorem begun_mark (g k : Nat) : mark (begun s c) g k = mark s g k := mark_of (begun_pool s c) g k

theorem begun_slotOpen (g k : Nat) : slotOpen (begun s c) g k = slotOpen s g k := by
  obtain ⟨q, h⟩ := begun_eq s c
  rw [h]
  rfl

theorem begun_inReam (i : Nat) : inReam (begun s c) i = inReam s i := by rw [inReam, inReam, begun_ten]

theorem begun_grpsMeet (g h : Nat) : grpsMeet (begun s c) g h = grpsMeet s g h := by
  rw [grpsMeet, grpsMeet, getGrp, getGrp, getGrp, getGrp, begun_pool]

theorem begun_getTen (j : Nat) : getTen (begun s c) j = getTen s j := by rw [getTen, getTen, begun_ten]

end

/-! ## The effect of each row -/

/-- What freeing a slot makes of its mark. -/
def freed (u : SlotUse) : SlotUse := { used := false, retire := false, retired := u.retire || u.retired }

/-- The state with a sheet entry written and one slot's mark changed. -/
def putSheet (s : State) (i : Nat) (v : W64) (g k : Nat) (f : SlotUse → SlotUse) : State := modUse (setSheet s i v) g k f

section
variable {s : State} {c : Nat} {imm : W32} {B ka kb e : W64}

theorem sheet_grant (row : fld imm 28 4 = 0) (he : getSheet s (fld imm 0 15) = e) (free : shValid e = false)
    (opened : slotOpen s (fld B 51 4) (fld B 36 15) = true) :
    fabApply s c 0x45 imm B ka kb = fabOk (putSheet s (fld imm 0 15)
      (shMk (bit B 62) (fld B 58 4) 0 (fld B 51 4) (fld B 36 15) 0 0) (fld B 51 4) (fld B 36 15) fun u => { u with used := true }) := by
  show sheetDo s imm B = _
  rw [sheetDo, row, he]
  refine if_neg ?_
  rw [free, opened]
  decide

theorem sheet_free (row : fld imm 28 4 = 1) (he : getSheet s (fld imm 0 15) = e) (valid : shValid e = true) (single : shMst e = 0)
    (outside : inReam s (fld imm 0 15) = false) :
    fabApply s c 0x45 imm B ka kb = fabOk (putSheet s (fld imm 0 15) 0 (shPg e) (shPs e) freed) := by
  show sheetDo s imm B = _
  rw [sheetDo, row, he]
  refine if_neg ?_
  rw [valid, single, outside]
  decide

theorem sheet_attach (row : fld imm 28 4 = 2) (he : getSheet s (fld imm 0 15) = e) (valid : shValid e = true) (single : shMst e = 0)
    (opened : slotOpen s (fld B 32 4) (fld B 17 15) = true) (apart : grpsMeet s (fld B 32 4) (shPg e) = false) :
    fabApply s c 0x45 imm B ka kb = fabOk (putSheet s (fld imm 0 15) (shWith e 1 (fld B 32 4) (fld B 17 15)) (fld B 32 4) (fld B 17 15)
      fun u => { u with used := true }) := by
  show sheetDo s imm B = _
  rw [sheetDo, row, he]
  refine (if_neg ?_).trans ?_
  · rw [valid, single, opened, apart]
    decide
  · dsimp only
    rw [if_neg (by rw [single]; decide)]
    rfl

theorem sheet_activate (row : fld imm 28 4 = 3) (he : getSheet s (fld imm 0 15) = e) (valid : shValid e = true) (attached : shMst e = 1) :
    fabApply s c 0x45 imm B ka kb = fabOk (setSheet s (fld imm 0 15) (shWith e 2 (shMg e) (shMs e))) := by
  show sheetDo s imm B = _
  rw [sheetDo, row, he]
  refine if_neg ?_
  rw [valid, attached]
  decide

theorem sheet_swap (row : fld imm 28 4 = 4) (he : getSheet s (fld imm 0 15) = e) (valid : shValid e = true) (active : shMst e = 2) :
    fabApply s c 0x45 imm B ka kb =
      fabOk (setSheet s (fld imm 0 15) (shMk (shStw e) (shTen e) 2 (shMg e) (shMs e) (shPg e) (shPs e))) := by
  show sheetDo s imm B = _
  rw [sheetDo, row, he]
  refine if_neg ?_
  rw [valid, active]
  decide

theorem sheet_detach (row : fld imm 28 4 = 5) (he : getSheet s (fld imm 0 15) = e) (valid : shValid e = true) (mirrored : shMst e ≠ 0) :
    fabApply s c 0x45 imm B ka kb = fabOk (putSheet s (fld imm 0 15) (shWith e 0 0 0) (shMg e) (shMs e) freed) := by
  show sheetDo s imm B = _
  rw [sheetDo, row, he]
  refine if_neg ?_
  rw [valid, beq_eq_false_iff_ne.mpr mirrored]
  decide

theorem sheet_retire (row : fld imm 28 4 = 6) (he : getSheet s (fld imm 0 15) = e) (valid : shValid e = true)
    (mirrored : bit B 0 = true → shMst e ≠ 0) :
    fabApply s c 0x45 imm B ka kb = fabOk (modUse s (if bit B 0 then shMg e else shPg e) (if bit B 0 then shMs e else shPs e)
      fun u => { u with retire := true }) := by
  show sheetDo s imm B = _
  rw [sheetDo, row, he]
  refine if_neg ?_
  rw [valid]
  cases hb : bit B 0
  · simp
  · rw [beq_eq_false_iff_ne.mpr (mirrored hb)]
    decide

theorem sheet_query (row : fld imm 28 4 = 8) (he : getSheet s (fld imm 0 15) = e) :
    fabApply s c 0x45 imm B ka kb = { st := 0, kd := e, s := s } := by
  show sheetDo s imm B = _
  rw [sheetDo, row, he]
  rfl

end

/-! ## The instructions that change an entry -/

section
variable {i : Instr} {s u : State} {c sub j : Nat} {w : Ox} {v : W64}

/-- One entry takes its value and one slot its mark; no other entry and no other mark changes. -/
theorem sheet_marks {g k : Nat} {f : SlotUse → SlotUse} (h : FabIssues i s c 0x45 sub w false) (noRead : fabRead 0x45 sub = false)
    (noReam : (sub == 7) = false)
    (apply : fabApply (begun s c) c 0x45 w.imm w.B (kget (getCtx s c) w.a) (kget (getCtx s c) w.b) = fabOk (modUse u g k f))
    (hu : Rel 147215490 s u) (sheets : ∀ y, getSheet u y = if y = j then v else getSheet s y) (marks : ∀ g k, mark u g k = mark s g k) :
    ∃ t, exec i s = .next t ∧ Did [.pool, .sheets, .time] s t c ∧ same s t .dram ∧
      (∀ y, getSheet t y = if y = j then v else getSheet s y) ∧
      (∀ a b, mark t a b = if a = g ∧ b = k then f (mark s a b) else mark s a b) ∧ fabSub 0x45 w.imm = sub := by
  refine sh_does (p := fun t => ∀ a b, mark t a b = if a = g ∧ b = k then f (mark s a b) else mark s a b) h noRead noReam apply
    (modUse_rel rfl hu) sheets fun t ht a b => ?_
  rw [mark_of ht, mark_modUse, marks]

/-- As `sheet_marks`, with the entry written first. -/
theorem sheet_puts {g k : Nat} {f : SlotUse → SlotUse} (h : FabIssues i s c 0x45 sub w false) (noRead : fabRead 0x45 sub = false)
    (noReam : (sub == 7) = false)
    (apply : fabApply (begun s c) c 0x45 w.imm w.B (kget (getCtx s c) w.a) (kget (getCtx s c) w.b) = fabOk (putSheet (begun s c) j v g k f)) :
    ∃ t, exec i s = .next t ∧ Did [.pool, .sheets, .time] s t c ∧ same s t .dram ∧
      (∀ y, getSheet t y = if y = j then v else getSheet s y) ∧
      (∀ a b, mark t a b = if a = g ∧ b = k then f (mark s a b) else mark s a b) ∧ fabSub 0x45 w.imm = sub :=
  sheet_marks h noRead noReam apply (setSheet_rel rfl ((begun_only s c).mono rfl))
    (fun y => by rw [sheet_setSheet, begun_sheet]) fun a b => (mark_setSheet _ _ _ _ _).trans (begun_mark s c a b)

/-- An entry takes its value and no mark changes. -/
theorem sheet_moves (h : FabIssues i s c 0x45 sub w false) (noRead : fabRead 0x45 sub = false) (noReam : (sub == 7) = false)
    (apply : fabApply (begun s c) c 0x45 w.imm w.B (kget (getCtx s c) w.a) (kget (getCtx s c) w.b) = fabOk (setSheet (begun s c) j v)) :
    ∃ t, exec i s = .next t ∧ Did [.pool, .sheets, .time] s t c ∧ same s t .dram ∧
      (∀ y, getSheet t y = if y = j then v else getSheet s y) ∧ (∀ a b, mark t a b = mark s a b) ∧ fabSub 0x45 w.imm = sub := by
  refine sh_does (p := fun t => ∀ a b, mark t a b = mark s a b) h noRead noReam apply
    (setSheet_rel rfl ((begun_only s c).mono rfl)) (fun y => by rw [sheet_setSheet, begun_sheet]) fun t ht a b => ?_
  rw [mark_of ht, mark_setSheet, begun_mark]

end

section
variable {s : State} {c : Nat} {w : Ox}

theorem exec_sheetRetire (h : FabIssues (.sheetRetire c w) s c 0x45 6 w false) (valid : shValid (getSheet s (fld w.imm 0 15)) = true)
    (mirrored : bit w.B 0 = true → shMst (getSheet s (fld w.imm 0 15)) ≠ 0) :
    let e := getSheet s (fld w.imm 0 15)
    ∃ t, exec (.sheetRetire c w) s = .next t ∧ Did [.pool, .sheets, .time] s t c ∧ same s t .dram ∧
      (∀ y, getSheet t y = if y = fld w.imm 0 15 then e else getSheet s y) ∧
      (∀ a b, mark t a b = if a = (if bit w.B 0 then shMg e else shPg e) ∧ b = (if bit w.B 0 then shMs e else shPs e)
        then { mark s a b with retire := true } else mark s a b) ∧ fabSub 0x45 w.imm = 6 := by
  refine sheet_marks h rfl rfl (sheet_retire h.row (begun_sheet s c _) valid mirrored) ((begun_only s c).mono rfl) (fun y => ?_)
    (begun_mark s c)
  rw [begun_sheet]
  split
  · next hy => rw [hy]
  · rfl

/-! ## REAM -/

/-- A tenant's ream as REAM sets it. -/
def reamSet (s : State) (k b n : Nat) : State := modTen s k fun x => { x with base := b, len := n }

/-- Every sheet of the span is the tenant's. -/
def Owned (s : State) (k b n : Nat) : Prop :=
  ∀ j, j < n → shValid (getSheet s (b + j)) = true ∧ shOwner (getSheet s (b + j)) = some k

theorem ream_apply (h : FabIssues (.sheetReam c w) s c 0x45 7 w false) (exist : (getTen s (fld w.B 32 4)).exist = true)
    (owned : Owned s (fld w.B 32 4) (fld w.B 16 15) (fld w.B 0 15)) (ka kb : W64) :
    fabApply (begun s c) c 0x45 w.imm w.B ka kb =
      fabOk (if reamShrinks (getTen s (fld w.B 32 4)) (fld w.B 16 15) (fld w.B 0 15) then
        { reamSet (begun s c) (fld w.B 32 4) (fld w.B 16 15) (fld w.B 0 15) with home := { s.home with walks := s.home.walks ++
          [{ tenant := fld w.B 32 4, reset := false, oldBase := (getTen s (fld w.B 32 4)).base, oldLen := (getTen s (fld w.B 32 4)).len }] } }
      else reamSet (begun s c) (fld w.B 32 4) (fld w.B 16 15) (fld w.B 0 15)) := by
  show sheetDo (begun s c) w.imm w.B = _
  rw [ream_run (begun s c) w.imm w.B h.row (by rw [begun_getTen]; exact exist) (fun j hj => by rw [begun_sheet]; exact owned j hj),
    begun_getTen, begun_home]
  rfl

theorem exec_reamGrows (h : FabIssues (.sheetReam c w) s c 0x45 7 w false) (exist : (getTen s (fld w.B 32 4)).exist = true)
    (owned : Owned s (fld w.B 32 4) (fld w.B 16 15) (fld w.B 0 15))
    (stays : reamShrinks (getTen s (fld w.B 32 4)) (fld w.B 16 15) (fld w.B 0 15) = false) :
    ∃ t, exec (.sheetReam c w) s = .next t ∧ Did [.ten, .time] s t c ∧
      ∀ j, getTen t j = if j = fld w.B 32 4 then { getTen s (fld w.B 32 4) with base := fld w.B 16 15, len := fld w.B 0 15 }
        else getTen s j := by
  have apply := ream_apply h exist owned (kget (getCtx s c) w.a) (kget (getCtx s c) w.b)
  rw [stays, if_neg Bool.false_ne_true] at apply
  have walks : (reamSet (begun s c) (fld w.B 32 4) (fld w.B 16 15) (fld w.B 0 15)).home = s.home := begun_home s c
  obtain ⟨t, next, did, cfg⟩ := fab_did (l := [.ten, .time]) (ch := 13005826) h rfl apply rfl rfl
    (by show (true && true && _) = false; rw [fabOk, walks]; exact bne_self_eq_false _) rfl
    (Rel.fabOk (modTen_rel rfl ((begun_only s c).mono rfl))) rfl rfl (by intro p hp; cases p <;> first | rfl | exact absurd (by decide) hp)
  refine ⟨t, next, did, fun j => ?_⟩
  have same : getTen t j = getTen (reamSet (begun s c) (fld w.B 32 4) (fld w.B 16 15) (fld w.B 0 15)) j := by
    rw [getTen, cfg.ten]
    rfl
  rw [same, reamSet, getTen_modTen, begun_getTen]
  by_cases hj : j = fld w.B 32 4
  · rw [if_pos hj, if_pos hj, hj]
  · rw [if_neg hj, if_neg hj]

/-- Where the change leaves a walk to run, the instruction waits for it. -/
theorem fabDirect_walk {u : State} (hf : fabApply (begun s c) c 0x45 w.imm w.B (kget (getCtx s c) w.a) (kget (getCtx s c) w.b) = fabOk u)
    (row : fabSub 0x45 w.imm = 7) (more : u.home.walks.length ≠ s.home.walks.length) :
    fabDirect (begun s c) c 0x45 w (getCtx (begun s c) c) =
      waitWith (startWalks (restartTakes (begun s c) u) (some c) none) c 0x45 w .walk := by
  have grown : (restartTakes (begun s c) u).home.walks.length ≠ (begun s c).home.walks.length := by
    rw [(restartTakes_cfg _ _).home, begun_home]
    exact more
  unfold fabDirect
  dsimp only
  rw [begun_kget, begun_kget, hf, row, if_neg (by simp [fabOk])]
  refine if_pos ?_
  show (true && true && _) = true
  exact bne_iff_ne.mpr grown

theorem exec_reamShrinks (h : FabIssues (.sheetReam c w) s c 0x45 7 w false) (exist : (getTen s (fld w.B 32 4)).exist = true)
    (owned : Owned s (fld w.B 32 4) (fld w.B 16 15) (fld w.B 0 15))
    (leaves : reamShrinks (getTen s (fld w.B 32 4)) (fld w.B 16 15) (fld w.B 0 15) = true) :
    ∃ t, exec (.sheetReam c w) s = .next t ∧ (getCtx t c).st = .waiting ∧ (getCtx t c).wait = .walk ∧ same s t .registers := by
  have apply := ream_apply h exist owned (kget (getCtx s c) w.a) (kget (getCtx s c) w.b)
  rw [leaves, if_pos rfl] at apply
  refine ⟨_, fab_issues h rfl rfl, ?_⟩
  rw [if_neg Bool.false_ne_true, fabDirect_walk apply h.row (by simp)]
  refine ⟨by rw [getCtx_endTurn, waitWith, getCtx_modCtx, if_pos rfl], by rw [getCtx_endTurn, waitWith, getCtx_modCtx, if_pos rfl], ?_⟩
  refine Rel.same (ch := 29851010) ?_ .registers rfl
  exact endTurn_rel rfl (waitWith_rel rfl (startWalks_rel rfl (restartTakes_rel rfl
    (Rel.home _ rfl (modTen_rel rfl ((begun_only s c).mono rfl))))))

/-- Settles O26, by the rows of SHEET. -/
theorem sheetInstructions : Obligations.SheetInstructions := by
  unfold Obligations.SheetInstructions
  refine ⟨fun s c w => ⟨fun h free opened => ?_, fun h valid single outside => ?_, fun h valid single opened apart => ?_,
    fun h valid attached => ?_, fun h valid active => ?_, fun h valid mirrored => ?_, exec_sheetRetire, fun h => ?_⟩,
    fun s c w h exist owned => ⟨exec_reamGrows h exist owned, exec_reamShrinks h exist owned⟩⟩
  · exact sheet_puts h rfl rfl (sheet_grant h.row (begun_sheet s c _) free (by rw [begun_slotOpen]; exact opened))
  · exact sheet_puts h rfl rfl (sheet_free h.row (begun_sheet s c _) valid single (by rw [begun_inReam]; exact outside))
  · exact sheet_puts h rfl rfl (sheet_attach h.row (begun_sheet s c _) valid single (by rw [begun_slotOpen]; exact opened)
      (by rw [begun_grpsMeet]; exact apart))
  · exact sheet_moves h rfl rfl (sheet_activate h.row (begun_sheet s c _) valid attached)
  · exact sheet_moves h rfl rfl (sheet_swap h.row (begun_sheet s c _) valid active)
  · exact sheet_puts h rfl rfl (sheet_detach h.row (begun_sheet s c _) valid mirrored)
  · exact fab_read h rfl (sheet_query h.row (begun_sheet s c _))

end

end Sys2Proof.Proofs.Sheets
end

section
/-!
SUPPORT. Proofs about the rows of MIRROR and METER (Tables OXI-10, OXI-11).
-/

namespace Sys2Proof.Proofs.MirrorsAndMeters

open Sys2Proof Sys2Proof.Machine Sys2Proof.Safety Sys2Proof.Laws.AboutTraffic Sys2Proof.Proofs.FabricRules

/-! ## The effect of each row of MIRROR -/

section
variable {s : State} {c : Nat} {imm : W32} {B ka kb : W64}

/-- A session as MIRROR enable writes it. -/
def mirNew (imm : W32) (B ka kb : W64) : Mirror :=
  { ctrl := setFld (lo32 B) 31 1 1, flow := hi32 B, ring := ka, ctlb := kb, size := fld imm 8 5 }

theorem mirror_enable (row : fld imm 4 2 = 0) (mine : mirOther (getMir s (fld imm 0 3)) c = false)
    (off : mirOn (getMir s (fld imm 0 3)) = false) (edge : isEdge (getPort s (mirAna (lo32 B))) = true)
    (up : (getPort s (mirAna (lo32 B))).link = .up) (kind : fld (lo32 B) 28 3 ≤ 4) (lines : mirLinesOk s (lo32 B) ka kb (fld imm 8 5) = true) :
    fabApply s c 0x46 imm B ka kb = fabOk (modMir s (fld imm 0 3) fun _ => mirNew imm B ka kb) := by
  show mirrorDo s c imm B ka kb = _
  rw [mirrorDo, row]
  refine (if_neg (by rw [mine]; decide)).trans (if_neg ?_)
  rw [off, edge, up, lines, decide_eq_false (Nat.not_lt.mpr kind)]
  decide

theorem mirror_disable (row : fld imm 4 2 = 1) (mine : mirOther (getMir s (fld imm 0 3)) c = false) :
    fabApply s c 0x46 imm B ka kb = fabOk (mirFinish (modMir s (fld imm 0 3) fun x => { x with closing := mirOn x }) (fld imm 0 3)) := by
  show mirrorDo s c imm B ka kb = _
  rw [mirrorDo, row]
  exact if_neg (by rw [mine]; decide)

theorem mirror_readLost (row : fld imm 4 2 = 2) (mine : mirOther (getMir s (fld imm 0 3)) c = false) :
    fabApply s c 0x46 imm B ka kb = { st := 0, kd := BitVec.ofNat 64 (getMir s (fld imm 0 3)).lost, s := s } := by
  show mirrorDo s c imm B ka kb = _
  rw [mirrorDo, row]
  exact if_neg (by rw [mine]; decide)

end

/-- A session closes: it is marked and, with no copy left, returns to zero. -/
def mirClose (s : State) (i : Nat) : State := mirFinish (modMir s i fun x => { x with closing := mirOn x }) i

section
variable {s : State} {i : Nat}

theorem mirInFlight_closing : mirInFlight (modMir s i fun x => { x with closing := mirOn x }) i = mirInFlight s i := by
  rw [mirInFlight, mirInFlight, getMir_modMir, if_pos rfl]
  rfl

theorem mirClose_idle (on : mirOn (getMir s i) = true) (idle : mirInFlight s i = false) (j : Nat) :
    getMir (mirClose s i) j = if j = i then {} else getMir s j := by
  have closing : (getMir (modMir s i fun x => { x with closing := mirOn x }) i).closing = true := by
    rw [getMir_modMir, if_pos rfl]
    exact on
  rw [mirClose, mirFinish, closing, mirInFlight_closing, idle, if_pos (by decide), getMir_modMir]
  split
  · rfl
  · next hj => exact (getMir_modMir s i j fun x => { x with closing := mirOn x }).trans (if_neg hj)

theorem mirClose_busy (busy : mirInFlight s i = true) :
    mirClose s i = modMir s i fun x => { x with closing := mirOn x } := by
  rw [mirClose, mirFinish]
  rw [mirInFlight_closing, busy, if_neg (by simp)]

end

/-! ## MIRROR -/

section
variable {s : State} {c : Nat} {w : Ox}

theorem begun_mir (s : State) (c i : Nat) : getMir (begun s c) i = getMir s i := mir_of (begun_core s c) i

theorem begun_getPort (s : State) (c p : Nat) : getPort (begun s c) p = getPort s p := port_of (begun_port s c) p

theorem begun_mirLinesOk (s : State) (c : Nat) (v : W32) (a b : W64) (n : Nat) : mirLinesOk (begun s c) v a b n = mirLinesOk s v a b n := by
  obtain ⟨q, h⟩ := begun_eq s c
  rw [h]
  rfl

theorem begun_mirInFlight (s : State) (c i : Nat) : mirInFlight (begun s c) i = mirInFlight s i := by
  rw [mirInFlight, mirInFlight, begun_mir, begun_core]

theorem exec_mirrorEnable (h : FabIssues (.mirrorEnable c w) s c 0x46 0 w false) (mine : mirOther (getMir s (fld w.imm 0 3)) c = false)
    (off : mirOn (getMir s (fld w.imm 0 3)) = false) (edge : isEdge (getPort s (mirAna (lo32 w.B))) = true)
    (up : (getPort s (mirAna (lo32 w.B))).link = .up) (kind : fld (lo32 w.B) 28 3 ≤ 4)
    (lines : mirLinesOk s (lo32 w.B) (kget (getCtx s c) w.a) (kget (getCtx s c) w.b) (fld w.imm 8 5) = true) :
    ∃ t, exec (.mirrorEnable c w) s = .next t ∧ Did [.core, .time] s t c ∧ ∀ j, getMir t j = if j = fld w.imm 0 3 then
      mirNew w.imm w.B (kget (getCtx s c) w.a) (kget (getCtx s c) w.b) else getMir s j := by
  obtain ⟨t, next, did, core⟩ := fab_core h rfl (mirror_enable h.row (by rw [begun_mir]; exact mine) (by rw [begun_mir]; exact off)
    (by rw [begun_getPort]; exact edge) (by rw [begun_getPort]; exact up) kind (by rw [begun_mirLinesOk]; exact lines)) rfl rfl rfl
    (modMir_rel rfl ((begun_only s c).mono rfl))
  refine ⟨t, next, did, fun j => ?_⟩
  rw [mir_of core, getMir_modMir, begun_mir]

theorem exec_mirrorDisable_idle (h : FabIssues (.mirrorDisable c w) s c 0x46 1 w false) (mine : mirOther (getMir s (fld w.imm 0 3)) c = false)
    (on : mirOn (getMir s (fld w.imm 0 3)) = true) (idle : mirInFlight s (fld w.imm 0 3) = false) :
    ∃ t, exec (.mirrorDisable c w) s = .next t ∧ Did [.core, .time] s t c ∧
      ∀ j, getMir t j = if j = fld w.imm 0 3 then {} else getMir s j := by
  have closed := mirClose_idle (s := begun s c) (i := fld w.imm 0 3) (by rw [begun_mir]; exact on) (by rw [begun_mirInFlight]; exact idle)
  obtain ⟨t, next, did, core⟩ := fab_core h rfl (mirror_disable h.row (by rw [begun_mir]; exact mine)) rfl rfl
    (by show (true && true && (getMir (mirClose (begun s c) (fld w.imm 0 3)) (fld w.imm 0 3)).closing) = false
        rw [closed, if_pos rfl]
        rfl)
    (mirFinish_rel rfl (modMir_rel rfl ((begun_only s c).mono rfl)))
  refine ⟨t, next, did, fun j => ?_⟩
  rw [mir_of core]
  exact (closed j).trans (by rw [begun_mir])

/-- A disable that leaves the session closing waits for the copies. -/
theorem fabDirect_closing {u : State} (hf : fabApply (begun s c) c 0x46 w.imm w.B (kget (getCtx s c) w.a) (kget (getCtx s c) w.b) = fabOk u)
    (row : fabSub 0x46 w.imm = 1) (closing : (getMir u (fld w.imm 0 3)).closing = true) :
    fabDirect (begun s c) c 0x46 w (getCtx (begun s c) c) = waitAgain (restartTakes (begun s c) u) c := by
  have still : (getMir (restartTakes (begun s c) u) (fld w.imm 0 3)).closing = true := by
    rw [mir_of (restartTakes_cfg _ _).core]
    exact closing
  unfold fabDirect
  dsimp only
  rw [begun_kget, begun_kget, hf, row, if_neg (by simp [fabOk])]
  refine (if_neg (by simp)).trans (if_pos ?_)
  show (true && true && _) = true
  exact still

theorem exec_mirrorDisable_busy (h : FabIssues (.mirrorDisable c w) s c 0x46 1 w false) (mine : mirOther (getMir s (fld w.imm 0 3)) c = false)
    (on : mirOn (getMir s (fld w.imm 0 3)) = true) (busy : mirInFlight s (fld w.imm 0 3) = true) :
    ∃ t, exec (.mirrorDisable c w) s = .next t ∧ (getCtx t c).wait = .again ∧ same s t .registers ∧
      ∀ j, getMir t j = if j = fld w.imm 0 3 then { getMir s (fld w.imm 0 3) with closing := true } else getMir s j := by
  have apply : fabApply (begun s c) c 0x46 w.imm w.B (kget (getCtx s c) w.a) (kget (getCtx s c) w.b) =
      fabOk (modMir (begun s c) (fld w.imm 0 3) fun x => { x with closing := mirOn x }) :=
    (mirror_disable h.row (by rw [begun_mir]; exact mine)).trans
      (congrArg fabOk (mirClose_busy (by rw [begun_mirInFlight]; exact busy)))
  have marked : ∀ j, getMir (modMir (begun s c) (fld w.imm 0 3) fun x => { x with closing := mirOn x }) j =
      if j = fld w.imm 0 3 then { getMir s (fld w.imm 0 3) with closing := true } else getMir s j := by
    intro j
    rw [getMir_modMir, begun_mir]
    by_cases hj : j = fld w.imm 0 3
    · rw [if_pos hj, if_pos hj, hj, on]
    · rw [if_neg hj, if_neg hj]
  refine ⟨_, fab_issues h rfl rfl, ?_⟩
  rw [if_neg Bool.false_ne_true, fabDirect_closing apply h.row (by rw [marked, if_pos rfl])]
  refine ⟨by rw [getCtx_endTurn, waitAgain, getCtx_modCtx, if_pos rfl], ?_, fun j => ?_⟩
  · refine Rel.same (ch := 12932096) ?_ .registers rfl
    exact endTurn_rel rfl (waitAgain_rel rfl (restartTakes_rel rfl (modMir_rel rfl ((begun_only s c).mono rfl))))
  · rw [mir_of (endTurn_core ..), mir_of waitAgain_core, mir_of (restartTakes_cfg _ _).core, marked]

theorem exec_mirrorReadLost (h : FabIssues (.mirrorReadLost c w) s c 0x46 2 w false) (mine : mirOther (getMir s (fld w.imm 0 3)) c = false) :
    ∃ t, exec (.mirrorReadLost c w) s = .next t ∧ Gave [.time] s t c w.d (BitVec.ofNat 64 (getMir s (fld w.imm 0 3)).lost) :=
  fab_read h rfl ((mirror_readLost h.row (by rw [begun_mir]; exact mine)).trans (by rw [begun_mir]))

end

/-! ## METER -/

/-- A meter is free or the context's own (R125). -/
def MyMeter (c : Nat) (m : Meter) : Prop := ∀ o, meterOwner m = some o → o = partyOf c

/-- A meter as METER configure leaves it: filled when it is enabled, cut to its new bursts when it was. -/
def meterNew (s : State) (m : Meter) (B : W64) (w1 : W32) : Meter :=
  let n : Meter := { m with w0 := B, w1 := w1 }
  if !n.on then n
  else if m.on then { n with tc := min m.tc n.cap.1, tp := min m.tp n.cap.2 }
  else { n with tc := n.cap.1, tp := n.cap.2, last := mono s }

section
variable {s : State} {c : Nat} {imm : W32} {B ka kb : W64}

theorem meterNew_words (m : Meter) (w1 : W32) : (meterNew s m B w1).w0 = B ∧ (meterNew s m B w1).w1 = w1 := by
  rw [meterNew]
  dsimp only
  split
  · exact ⟨rfl, rfl⟩
  · split <;> exact ⟨rfl, rfl⟩

theorem meterNew_filled {m : Meter} {w1 : W32} (off : m.on = false) (on : bit B 63 = true) :
    (meterNew s m B w1).tc = (meterNew s m B w1).cap.1 ∧ (meterNew s m B w1).tp = (meterNew s m B w1).cap.2 ∧
      (meterNew s m B w1).last = mono s := by
  have new : Meter.on { m with w0 := B, w1 := w1 } = true := on
  rw [meterNew]
  dsimp only
  rw [new, off, if_neg (by decide), if_neg (by decide)]
  exact ⟨rfl, rfl, rfl⟩

theorem meter_configure (row : fld imm 28 4 = 0) (mine : MyMeter c (getMeter s (fld imm 24 4) (fld imm 0 11))) :
    let n := meterNew s (getMeter s (fld imm 24 4) (fld imm 0 11)) B (lo32 ka)
    let u := modMeter s (fld imm 24 4) (fld imm 0 11) fun _ => n
    fabApply s c 0x47 imm B ka kb = fabOk (if (getMeter s (fld imm 24 4) (fld imm 0 11)).on && !n.on then
      forL (meterPorts s (fld imm 24 4) (fld imm 0 11)) u (releaseRed (some (fld imm 0 11))) else u) := by
  show meterDo s c imm B ka = _
  rw [meterDo, row]
  exact if_neg (by rw [others_no mine]; decide)

/-- Releasing held messages leaves the meters; so the meters are those of the one written entry. -/
theorem meter_configured (row : fld imm 28 4 = 0) (mine : MyMeter c (getMeter s (fld imm 24 4) (fld imm 0 11))) :
    ∃ l, fabApply s c 0x47 imm B ka kb = fabOk (forL l (modMeter s (fld imm 24 4) (fld imm 0 11)
      fun _ => meterNew s (getMeter s (fld imm 24 4) (fld imm 0 11)) B (lo32 ka)) (releaseRed (some (fld imm 0 11)))) := by
  rw [meter_configure row mine]
  split
  · exact ⟨_, rfl⟩
  · exact ⟨[], rfl⟩

theorem meter_bind (row : fld imm 28 4 = 1) (mine : ∀ i ∈ meterSpan (lo32 B), MyMeter c (getMeter s (fld imm 24 4) i)) :
    fabApply s c 0x47 imm B ka kb = fabOk (modPort
      (if meterSpan (getPort s (fld imm 16 7)).meter == meterSpan (lo32 B) then s else releaseRed none s (fld imm 16 7))
      (fld imm 16 7) fun x => { x with meter := lo32 B }) := by
  have none : (meterSpan (lo32 B)).any (fun i => (meterOwner (getMeter s (fld imm 24 4) i)).any fun o => o != partyOf c) = false :=
    List.any_eq_false.mpr fun i hi => by rw [others_no (mine i hi)]; decide
  show meterDo s c imm B ka = _
  rw [meterDo, row]
  exact if_neg (by rw [none]; decide)

theorem meter_read (row : fld imm 28 4 = 2) (mine : MyMeter c (getMeter s (fld imm 24 4) (fld imm 0 11))) :
    fabApply s c 0x47 imm B ka kb = { st := 0, kd := meterWord (getMeter s (fld imm 24 4) (fld imm 0 11)) (fld imm 12 3), s := s } := by
  show meterDo s c imm B ka = _
  rw [meterDo, row]
  exact if_neg (by rw [others_no mine]; decide)

end

section
variable {s : State} {c : Nat} {w : Ox}

theorem begun_meter (s : State) (c q i : Nat) : getMeter (begun s c) q i = getMeter s q i := meter_of (begun_quire s c) q i

theorem exec_meterConfigure (h : FabIssues (.meterConfigure c w) s c 0x47 0 w false)
    (mine : MyMeter c (getMeter s (fld w.imm 24 4) (fld w.imm 0 11))) :
    ∃ t, exec (.meterConfigure c w) s = .next t ∧ Did [.quire, .core, .time] s t c ∧
      ∀ r j, getMeter t r j = if r = fld w.imm 24 4 ∧ j = fld w.imm 0 11 then
        meterNew s (getMeter s (fld w.imm 24 4) (fld w.imm 0 11)) w.B (lo32 (kget (getCtx s c) w.a)) else getMeter s r j := by
  obtain ⟨l, apply⟩ := meter_configured (s := begun s c) (c := c) (B := w.B) (ka := kget (getCtx s c) w.a) (kb := kget (getCtx s c) w.b)
    h.row (by rw [begun_meter]; exact mine)
  have mono_begun : mono (begun s c) = mono s := by rw [mono, mono, begun_time]
  have new (u : State) (m : Meter) : mono u = mono s → meterNew u m w.B (lo32 (kget (getCtx s c) w.a)) =
      meterNew s m w.B (lo32 (kget (getCtx s c) w.a)) := fun e => by rw [meterNew, e, meterNew]
  obtain ⟨t, next, did, cfg⟩ := fab_did (l := [.quire, .core, .time]) (ch := 13095938) h rfl apply rfl rfl rfl rfl
    (Rel.fabOk (Rel.forL (fun _ _ hv => releaseRed_rel rfl hv) (modMeter_rel rfl ((begun_only s c).mono rfl)))) rfl rfl
    (by intro p hp; cases p <;> first | rfl | exact absurd (by decide) hp)
  refine ⟨t, next, did, fun r j => ?_⟩
  rw [meter_of cfg.quire, fabOk, meter_of (released _ _ _), getMeter_modMeter, begun_meter, begun_meter, new _ _ mono_begun]

theorem exec_meterBind (h : FabIssues (.meterBind c w) s c 0x47 1 w false)
    (mine : ∀ j ∈ meterSpan (lo32 w.B), MyMeter c (getMeter s (fld w.imm 24 4) j)) :
    ∃ t, exec (.meterBind c w) s = .next t ∧ Did [.core, .time] s t c ∧ ∀ r, sansIfl (getPort t r) =
      sansIfl (if r = fld w.imm 16 7 then { getPort s (fld w.imm 16 7) with meter := lo32 w.B } else getPort s r) := by
  have apply := meter_bind (s := begun s c) (c := c) (ka := kget (getCtx s c) w.a) (kb := kget (getCtx s c) w.b) h.row
    (fun i hi => by rw [begun_meter]; exact mine i hi)
  generalize hu : (if meterSpan (getPort (begun s c) (fld w.imm 16 7)).meter == meterSpan (lo32 w.B) then begun s c
    else releaseRed none (begun s c) (fld w.imm 16 7)) = u at apply
  have start : Rel 13063170 s (begun s c) := (begun_only s c).mono rfl
  have cases : Rel 13063170 s u ∧ u.port = s.port := by
    rw [← hu]
    split
    · exact ⟨start, begun_port s c⟩
    · exact ⟨releaseRed_rel rfl start, (releaseRed_core _ _ _).2.trans (begun_port s c)⟩
  obtain ⟨rel, ports⟩ := cases
  obtain ⟨t, next, did, cfg⟩ := fab_did (l := [.core, .time]) (ch := 13063170) h rfl apply rfl rfl rfl rfl
    (Rel.fabOk (modPort_rel rfl rel)) rfl rfl (by intro p hp; cases p <;> first | rfl | exact absurd (by decide) hp)
  refine ⟨t, next, did, fun r => (cfg.ports r).trans (congrArg sansIfl ?_)⟩
  rw [fabOk, getPort_modPort, port_of ports]
  by_cases hr : r = fld w.imm 16 7
  · rw [if_pos hr, if_pos hr, hr]
  · rw [if_neg hr, if_neg hr]

theorem exec_meterRead (h : FabIssues (.meterRead c w) s c 0x47 2 w false) (mine : MyMeter c (getMeter s (fld w.imm 24 4) (fld w.imm 0 11))) :
    ∃ t, exec (.meterRead c w) s = .next t ∧
      Gave [.time] s t c w.d (meterWord (getMeter s (fld w.imm 24 4) (fld w.imm 0 11)) (fld w.imm 12 3)) :=
  fab_read h rfl ((meter_read h.row (by rw [begun_meter]; exact mine)).trans (by rw [begun_meter]))

/-- Settles O27, by the rows of MIRROR and METER. -/
theorem mirrorAndMeterInstructions : Obligations.MirrorAndMeterInstructions := by
  unfold Obligations.MirrorAndMeterInstructions
  refine ⟨fun s c w => ⟨exec_mirrorEnable, exec_mirrorDisable_idle, exec_mirrorDisable_busy, exec_mirrorReadLost⟩,
    fun s c w => ⟨fun h mine => ?_, exec_meterBind, exec_meterRead⟩⟩
  obtain ⟨t, next, did, meters⟩ := exec_meterConfigure h mine
  obtain ⟨w0, w1⟩ := meterNew_words (s := s) (B := w.B) (getMeter s (fld w.imm 24 4) (fld w.imm 0 11)) (lo32 (kget (getCtx s c) w.a))
  have here := (meters (fld w.imm 24 4) (fld w.imm 0 11)).trans (if_pos ⟨rfl, rfl⟩)
  refine ⟨t, next, did, fun r j other => (meters r j).trans (if_neg (by omega)), ?_⟩
  rw [here]
  exact ⟨w0, w1, meterNew_filled⟩

end

end Sys2Proof.Proofs.MirrorsAndMeters
end

section
/-!
SUPPORT. Proofs about the rows of SHAPE and CADENCE (Tables OXI-12, OXI-13).
-/

namespace Sys2Proof.Proofs.ShapersAndSchedules

open Sys2Proof Sys2Proof.Machine Sys2Proof.Safety Sys2Proof.Laws.AboutTraffic Sys2Proof.Proofs.FabricRules

/-! ## SHAPE -/

/-- A queue as SHAPE leaves its shaper at count `t`. -/
def shaped (q : OutQ) (t : Nat) (B : W64) (burst : W32) : OutQ :=
  let q' : OutQ := { shpFill q t with cir := lo32 B, pir := hi32 B, burst := burst, last := t }
  if bit (lo32 B) 31 && !q.shaped then { q' with bc := (fld burst 0 16 * 65536 : Nat), bp := (fld burst 16 16 * 65536 : Nat) }
  else { q' with bc := min q'.bc (fld burst 0 16 * 65536 : Nat), bp := min q'.bp (fld burst 16 16 * 65536 : Nat) }

section
variable {q : OutQ} {t : Nat} {B : W64} {burst : W32}

theorem shaped_rates : (shaped q t B burst).cir = lo32 B ∧ (shaped q t B burst).pir = hi32 B ∧ (shaped q t B burst).burst = burst := by
  rw [shaped]
  dsimp only
  split <;> exact ⟨rfl, rfl, rfl⟩

theorem shaped_starts_full (on : bit (lo32 B) 31 = true) (off : q.shaped = false) :
    (shaped q t B burst).bc = (fld burst 0 16 * 65536 : Nat) ∧ (shaped q t B burst).bp = (fld burst 16 16 * 65536 : Nat) := by
  rw [shaped, on, off]
  exact ⟨rfl, rfl⟩

theorem shaped_within_bursts :
    (shaped q t B burst).bc ≤ (fld burst 0 16 * 65536 : Nat) ∧ (shaped q t B burst).bp ≤ (fld burst 16 16 * 65536 : Nat) := by
  rw [shaped]
  dsimp only
  split
  · exact ⟨Int.le_refl _, Int.le_refl _⟩
  · exact ⟨Int.min_le_right _ _, Int.min_le_right _ _⟩

end

section
variable {s : State} {c : Nat} {imm : W32} {B ka kb : W64}

theorem shape_shaper (row : fld imm 28 4 = 0) : fabApply s c 0x48 imm B ka kb =
    fabOk (modQ s (fld imm 0 7) (fld imm 8 4) fun q => shaped q (mono s) B (lo32 ka)) := by
  show shapeDo s imm B ka = _
  rw [shapeDo, row]
  rfl

theorem shape_priority (row : fld imm 28 4 = 1) :
    fabApply s c 0x48 imm B ka kb = fabOk (modPort s (fld imm 0 7) fun x => { x with prio := lo32 B }) := by
  show shapeDo s imm B ka = _
  rw [shapeDo, row]
  rfl

/-- The quantum of a tenant, or of the Steward. -/
def quantumSet (s : State) (x v : Nat) : State :=
  if x < 16 then modTen s x fun t => { t with drr := v } else { s with core := { s.core with drrSteward := v } }

theorem shape_quantum (row : fld imm 28 4 = 2) (exist : fld imm 16 5 < 16 → (getTen s (fld imm 16 5)).exist = true) :
    fabApply s c 0x48 imm B ka kb = fabOk (quantumSet s (fld imm 16 5) (fld B 0 12)) := by
  show shapeDo s imm B ka = _
  rw [shapeDo, row]
  by_cases h : fld imm 16 5 < 16
  · exact (if_pos h).trans ((if_pos (exist h)).trans (congrArg fabOk (if_pos h).symm))
  · exact (if_neg h).trans (congrArg fabOk (if_neg h).symm)

end

section
variable {s : State} {c : Nat} {w : Ox}

theorem exec_shapeShaper (h : FabIssues (.shapeShaper c w) s c 0x48 0 w false) :
    ∃ t, exec (.shapeShaper c w) s = .next t ∧ Did [.core, .time] s t c ∧ ∀ r k, getQ t r k =
      if 16 * r + k = 16 * fld w.imm 0 7 + fld w.imm 8 4 then shaped (getQ s r k) (mono s) w.B (lo32 (kget (getCtx s c) w.a))
      else getQ s r k := by
  obtain ⟨t, next, did, core⟩ := fab_core h rfl (shape_shaper h.row) rfl rfl rfl (modQ_rel rfl ((begun_only s c).mono rfl))
  refine ⟨t, next, did, fun r k => ?_⟩
  rw [q_of core, getQ_modQ, q_of (begun_core s c), mono, begun_time, mono]

theorem exec_shapePriority (h : FabIssues (.shapePriority c w) s c 0x48 1 w false) :
    ∃ t, exec (.shapePriority c w) s = .next t ∧ Did [.time] s t c ∧ ∀ r, sansIfl (getPort t r) =
      sansIfl (if r = fld w.imm 0 7 then { getPort s (fld w.imm 0 7) with prio := lo32 w.B } else getPort s r) := by
  obtain ⟨t, next, did, cfg⟩ := fab_did (l := [.time]) (ch := 12997634) h rfl (shape_priority h.row) rfl rfl rfl rfl
    (Rel.fabOk (modPort_rel rfl ((begun_only s c).mono rfl))) rfl rfl (by intro p hp; cases p <;> first | rfl | exact absurd (by decide) hp)
  refine ⟨t, next, did, fun r => (cfg.ports r).trans (congrArg sansIfl ?_)⟩
  rw [fabOk, getPort_modPort, port_of (begun_port s c)]
  by_cases hr : r = fld w.imm 0 7
  · rw [if_pos hr, if_pos hr, hr]
  · rw [if_neg hr, if_neg hr]

theorem quantumSet_sets (s : State) (x v : Nat) :
    (∀ r, getTen (quantumSet s x v) r = if r = x ∧ x < 16 then { getTen s r with drr := v } else getTen s r) ∧
      (quantumSet s x v).core.drrSteward = if x < 16 then s.core.drrSteward else v := by
  rw [quantumSet]
  by_cases h : x < 16
  · rw [if_pos h, if_pos h]
    refine ⟨fun r => ?_, rfl⟩
    rw [getTen_modTen]
    by_cases hr : r = x
    · rw [if_pos hr, if_pos ⟨hr, h⟩]
    · rw [if_neg hr, if_neg fun e => hr e.1]
  · rw [if_neg h, if_neg h]
    exact ⟨fun r => (ten_of rfl r).trans (if_neg fun e => h e.2).symm, rfl⟩

theorem exec_shapeQuantum (h : FabIssues (.shapeQuantum c w) s c 0x48 2 w false)
    (exist : fld w.imm 16 5 < 16 → (getTen s (fld w.imm 16 5)).exist = true) :
    ∃ t, exec (.shapeQuantum c w) s = .next t ∧ Did [.ten, .core, .time] s t c ∧
      (∀ r, getTen t r = if r = fld w.imm 16 5 ∧ fld w.imm 16 5 < 16 then { getTen s r with drr := fld w.B 0 12 } else getTen s r) ∧
      t.core.drrSteward = if fld w.imm 16 5 < 16 then s.core.drrSteward else fld w.B 0 12 := by
  have start : Rel 13071362 s (begun s c) := (begun_only s c).mono rfl
  have rel : Rel 13071362 s (quantumSet (begun s c) (fld w.imm 16 5) (fld w.B 0 12)) := by
    rw [quantumSet]
    split
    · exact modTen_rel rfl start
    · exact Rel.core _ rfl start
  obtain ⟨t, next, did, cfg⟩ := fab_did (l := [.ten, .core, .time]) (ch := 13071362) h rfl
    (shape_quantum h.row fun e => by rw [ten_of (begun_ten s c)]; exact exist e) rfl rfl rfl rfl (Rel.fabOk rel) rfl rfl
    (by intro p hp; cases p <;> first | rfl | exact absurd (by decide) hp)
  obtain ⟨tens, steward⟩ := quantumSet_sets (begun s c) (fld w.imm 16 5) (fld w.B 0 12)
  refine ⟨t, next, did, fun r => ?_, ?_⟩
  · rw [ten_of cfg.ten, fabOk, tens, ten_of (begun_ten s c)]
  · rw [cfg.core, fabOk, steward, begun_core]

end

/-! ## CADENCE -/

section
variable {s : State} {c : Nat} {w : Ox}

theorem begun_cad (s : State) (c i : Nat) : getCad (begun s c) i = getCad s i := cad_of (begun_core s c) i

theorem begun_cadAdmit (s : State) (c i : Nat) (x : Cad) : cadAdmit (begun s c) i x = cadAdmit s i x := by
  obtain ⟨q, h⟩ := begun_eq s c
  rw [h]
  rfl

section
variable {u : State} {imm : W32} {B ka : W64} {x : Cad}

theorem cad_configure (row : fld imm 8 2 = 0) (hx : getCad u (fld imm 0 6) = x) (mine : cadOther x c = false) :
    cadDo u c imm B ka = cadChange u (fld imm 0 6) x { cadConf x (isStw c) B with owned := true } := by
  rw [cadDo, row, hx]
  exact if_neg (by rw [mine]; decide)

theorem cad_window (row : fld imm 8 2 = 1) (hx : getCad u (fld imm 0 6) = x) (mine : cadOther x c = false) :
    cadDo u c imm B ka = cadChange u (fld imm 0 6) x (cadWin x (fld imm 16 4) B ka) := by
  rw [cadDo, row, hx]
  exact if_neg (by rw [mine]; decide)

theorem cad_enable (row : fld imm 8 2 = 2) (hx : getCad u (fld imm 0 6) = x) (mine : cadOther x c = false)
    (reserved : cadAdmit u (fld imm 0 6) x = true) :
    cadDo u c imm B ka = fabOk (modCad u (fld imm 0 6) fun c => { c with ctrl := setFld c.ctrl 31 1 1, degraded := false }) := by
  rw [cadDo, row, hx]
  exact (if_neg (by rw [mine]; decide)).trans (if_pos reserved)

theorem cad_disable (row : fld imm 8 2 = 3) (hx : getCad u (fld imm 0 6) = x) (mine : cadOther x c = false) :
    cadDo u c imm B ka = fabOk (modCad (if x.on then cadFence u (fld imm 0 6) x else u) (fld imm 0 6)
      fun c => { c with ctrl := setFld c.ctrl 31 1 0, opened := false, owned := false }) := by
  rw [cadDo, row, hx]
  exact if_neg (by rw [mine]; decide)

end

/-- A change of a schedule that passes the reservation check if it is enabled. -/
theorem cad_changes {i : Instr} {sub : Nat} {n : Cad} (h : FabIssues i s c 0x49 sub w false)
    (reserved : (getCad s (fld w.imm 0 6)).on = true → cadAdmit s (fld w.imm 0 6) n = true)
    (change : cadDo (begun s c) c w.imm w.B (kget (getCtx s c) w.a) =
      cadChange (begun s c) (fld w.imm 0 6) (getCad s (fld w.imm 0 6)) n) :
    ∃ t, exec i s = .next t ∧ Did [.core, .time] s t c ∧ (∀ j, j ≠ fld w.imm 0 6 → getCad t j = getCad s j) ∧
      (getCad t (fld w.imm 0 6)).ctrl = n.ctrl ∧ (getCad t (fld w.imm 0 6)).dst = n.dst ∧ (getCad t (fld w.imm 0 6)).off = n.off ∧
      (getCad t (fld w.imm 0 6)).len = n.len ∧ (getCad t (fld w.imm 0 6)).bytes = n.bytes ∧
      (getCad t (fld w.imm 0 6)).owned = n.owned ∧ (getCad t (fld w.imm 0 6)).opened = n.opened := by
  obtain ⟨ok, is, -⟩ := change_ok (begun s c) (fld w.imm 0 6) (getCad s (fld w.imm 0 6)) n
    fun on => by rw [begun_cadAdmit]; exact reserved on
  exact cad_sets h (by rw [change]; exact ok) (by rw [change]; exact is)

theorem exec_cadenceEnable (h : FabIssues (.cadenceEnable c w) s c 0x49 2 w false) (mine : cadOther (getCad s (fld w.imm 0 6)) c = false)
    (reserved : cadAdmit s (fld w.imm 0 6) (getCad s (fld w.imm 0 6)) = true) :
    ∃ t, exec (.cadenceEnable c w) s = .next t ∧ Did [.core, .time] s t c ∧ (∀ j, j ≠ fld w.imm 0 6 → getCad t j = getCad s j) ∧
      (getCad t (fld w.imm 0 6)).ctrl = setFld (getCad s (fld w.imm 0 6)).ctrl 31 1 1 ∧
      (getCad t (fld w.imm 0 6)).dst = (getCad s (fld w.imm 0 6)).dst ∧ (getCad t (fld w.imm 0 6)).off = (getCad s (fld w.imm 0 6)).off ∧
      (getCad t (fld w.imm 0 6)).len = (getCad s (fld w.imm 0 6)).len ∧
      (getCad t (fld w.imm 0 6)).bytes = (getCad s (fld w.imm 0 6)).bytes ∧
      (getCad t (fld w.imm 0 6)).owned = (getCad s (fld w.imm 0 6)).owned ∧
      (getCad t (fld w.imm 0 6)).opened = (getCad s (fld w.imm 0 6)).opened := by
  have row : cadDo (begun s c) c w.imm w.B (kget (getCtx s c) w.a) =
      fabOk (modCad (begun s c) (fld w.imm 0 6) fun c => { c with ctrl := setFld c.ctrl 31 1 1, degraded := false }) :=
    cad_enable h.row (begun_cad s c _) mine (by rw [begun_cadAdmit]; exact reserved)
  refine cad_sets (n := { getCad s (fld w.imm 0 6) with ctrl := setFld (getCad s (fld w.imm 0 6)).ctrl 31 1 1 }) h
    (by rw [row]; rfl) ?_
  rw [row, fabOk, cadIs]
  refine ⟨fun j hj => by rw [getCad_modCad, if_neg hj], ?_⟩
  rw [getCad_modCad, if_pos rfl, begun_cad]
  exact ⟨rfl, rfl, rfl, rfl, rfl, rfl, rfl⟩

theorem exec_cadenceDisable (h : FabIssues (.cadenceDisable c w) s c 0x49 3 w false) (mine : cadOther (getCad s (fld w.imm 0 6)) c = false) :
    ∃ t, exec (.cadenceDisable c w) s = .next t ∧ Did [.core, .time] s t c ∧ (∀ j, j ≠ fld w.imm 0 6 → getCad t j = getCad s j) ∧
      (getCad t (fld w.imm 0 6)).ctrl = setFld (getCad s (fld w.imm 0 6)).ctrl 31 1 0 ∧
      (getCad t (fld w.imm 0 6)).dst = (getCad s (fld w.imm 0 6)).dst ∧ (getCad t (fld w.imm 0 6)).off = (getCad s (fld w.imm 0 6)).off ∧
      (getCad t (fld w.imm 0 6)).len = (getCad s (fld w.imm 0 6)).len ∧
      (getCad t (fld w.imm 0 6)).bytes = (getCad s (fld w.imm 0 6)).bytes ∧
      (getCad t (fld w.imm 0 6)).owned = false ∧ (getCad t (fld w.imm 0 6)).opened = false := by
  generalize hu : (if (getCad s (fld w.imm 0 6)).on then cadFence (begun s c) (fld w.imm 0 6) (getCad s (fld w.imm 0 6)) else begun s c) = u
  have row : cadDo (begun s c) c w.imm w.B (kget (getCtx s c) w.a) =
      fabOk (modCad u (fld w.imm 0 6) fun c => { c with ctrl := setFld c.ctrl 31 1 0, opened := false, owned := false }) := by
    rw [← hu]
    exact cad_disable h.row (begun_cad s c _) mine
  have fenced : (∀ j, j ≠ fld w.imm 0 6 → getCad u j = getCad (begun s c) j) ∧
      (getCad u (fld w.imm 0 6)).ctrl = (getCad s (fld w.imm 0 6)).ctrl ∧ (getCad u (fld w.imm 0 6)).dst = (getCad s (fld w.imm 0 6)).dst ∧
      (getCad u (fld w.imm 0 6)).off = (getCad s (fld w.imm 0 6)).off ∧ (getCad u (fld w.imm 0 6)).len = (getCad s (fld w.imm 0 6)).len ∧
      (getCad u (fld w.imm 0 6)).bytes = (getCad s (fld w.imm 0 6)).bytes := by
    rw [← hu]
    split
    · obtain ⟨others, ctrl, dst, off, len, bytes, -⟩ := fence_cad (begun s c) (fld w.imm 0 6) (getCad s (fld w.imm 0 6))
      rw [ctrl, dst, off, len, bytes, begun_cad]
      exact ⟨others, rfl, rfl, rfl, rfl, rfl⟩
    · rw [begun_cad]
      exact ⟨fun _ _ => rfl, rfl, rfl, rfl, rfl, rfl⟩
  obtain ⟨others, ctrl, dst, off, len, bytes⟩ := fenced
  refine cad_sets (n := { getCad s (fld w.imm 0 6) with ctrl := setFld (getCad s (fld w.imm 0 6)).ctrl 31 1 0, opened := false, owned := false })
    h (by rw [row]; rfl) ?_
  rw [row, fabOk, cadIs]
  refine ⟨fun j hj => by rw [getCad_modCad, if_neg hj, others j hj], ?_⟩
  rw [getCad_modCad, if_pos rfl, ctrl]
  exact ⟨rfl, dst, off, len, bytes, rfl, rfl⟩

/-- Settles O28, by the rows of SHAPE and CADENCE. -/
theorem shapeAndCadenceInstructions : Obligations.ShapeAndCadenceInstructions := by
  unfold Obligations.ShapeAndCadenceInstructions
  refine ⟨fun s c w => ⟨fun h => ?_, exec_shapePriority, exec_shapeQuantum⟩, fun s c w mine =>
    ⟨fun h reserved => ?_, fun h reserved => ?_, fun h reserved => exec_cadenceEnable h mine reserved, fun h => exec_cadenceDisable h mine⟩⟩
  · obtain ⟨t, next, did, queues⟩ := exec_shapeShaper h
    have here := (queues (fld w.imm 0 7) (fld w.imm 8 4)).trans (if_pos rfl)
    obtain ⟨cir, pir, burst⟩ := shaped_rates (q := getQ s (fld w.imm 0 7) (fld w.imm 8 4)) (t := mono s) (B := w.B)
      (burst := lo32 (kget (getCtx s c) w.a))
    obtain ⟨bc, bp⟩ := shaped_within_bursts (q := getQ s (fld w.imm 0 7) (fld w.imm 8 4)) (t := mono s) (B := w.B)
      (burst := lo32 (kget (getCtx s c) w.a))
    refine ⟨t, next, did, ?_⟩
    rw [here]
    exact ⟨cir, pir, burst, shaped_starts_full, bc, bp, fun r k other => (queues r k).trans (if_neg other)⟩
  · exact cad_changes h reserved (cad_configure h.row (begun_cad s c _) mine)
  · exact cad_changes h reserved (cad_window h.row (begun_cad s c _) mine)

end

end Sys2Proof.Proofs.ShapersAndSchedules
end

section
/-!
SUPPORT. Proofs about slot power (R380 to R393): what each event at a slot makes of that slot; no other slot changes.
-/

namespace Sys2Proof.Proofs.SlotEvents

open Sys2Proof Sys2Proof.Machine Sys2Proof.Safety Sys2Proof.Laws.AboutSlots

/-! ## The slots that events lead to -/

/-- A power-fail warning reaches a slot, from PWRFAIL_IN_N or its own input (R390). -/
def warned (s : State) (x : Slot) : Bool := (s.pwrfail && x.warnPwrfail) || x.vinLow

/-- A slot whose gate starts to ramp. -/
def ramped (low : Bool) (y : Slot) : Slot :=
  { y with st := .ramp, armed := false, timer := false, warn := y.warn || low, evWarn := y.evWarn || (low && !y.warn) }

/-- A slot after a trip or timeout, before the choice of what follows. -/
def tripped (x : Slot) (cause : Nat) : Slot :=
  { x with pg := false, perstRel := false, armed := false, timer := false, cause := cause, evTrip := true,
           evPgLost := x.evPgLost || x.st == .on }

/-- A slot at the end of an attempt: backing off while retries remain, else latched (R387, R393). -/
def ended (s : State) (x : Slot) (cause : Nat) : Slot :=
  if s.slotHold = false ∧ x.retry < fld x.ramp 12 3 then { tripped x cause with st := .backoff } else
    { tripped x cause with st := .latched, granted := 0, grantDue := false, evLatched := true }

/-- A slot that is no longer seated waits for it without a grant. -/
def waitsSeat (x : Slot) : Slot := { x with st := .waitSeat, granted := 0, grantDue := false }

section
variable {s u : State} {n : Nat}

/-- An event at slot `n` that leaves the slots of `u`. -/
theorem slot_event {i : Instr} {y : Slot} (hn : n < 32) (run : exec i s = unitOk (n < 32) u)
    (slots : ∀ j, getSlot u j = if j = n then y else getSlot s j) : ∃ t, exec i s = .next t ∧ slotIs s t n y :=
  ⟨u, run.trans (unitOk_of (decide_eq_true hn) u), slotIs.of slots⟩

theorem slots_mod (s : State) (n : Nat) (f : Slot → Slot) (j : Nat) :
    getSlot (modSlot s n f) j = if j = n then f (getSlot s n) else getSlot s j := getSlot_mod s n j f

/-- A change of one slot on top of a change of the same slot. -/
theorem slots_after {y z : Slot} (v : State) (first : ∀ j, getSlot u j = if j = n then y else getSlot s j)
    (second : ∀ j, getSlot v j = if j = n then z else getSlot u j) (j : Nat) : getSlot v j = if j = n then z else getSlot s j := by
  rw [second]
  by_cases h : j = n
  · rw [if_pos h, if_pos h]
  · rw [if_neg h, if_neg h, first, if_neg h]

theorem ramp_mod (f : Slot → Slot) (low : warned s (f (getSlot s n)) = warned s (getSlot s n)) (j : Nat) :
    getSlot (enterRamp (modSlot s n f) n) j = if j = n then ramped (warned s (getSlot s n)) (f (getSlot s n)) else getSlot s j := by
  have here : getSlot (modSlot s n f) n = f (getSlot s n) := (slots_mod s n f n).trans (if_pos rfl)
  have fails : (modSlot s n f).pwrfail = s.pwrfail := rfl
  rw [enterRamp_slot, here, fails, ← low]
  by_cases h : j = n
  · rw [if_pos h, if_pos h]
    rfl
  · rw [if_neg h, if_neg h, slots_mod, if_neg h]

theorem ended_slots (s : State) (n cause j : Nat) :
    getSlot (endAttempt s n cause) j = if j = n then ended s (getSlot s n) cause else getSlot s j := endAttempt_slot s n cause j

theorem gated_pos (h : (getSlot s n).st = .ramp ∨ (getSlot s n).st = .on) : gated (getSlot s n).st = true := (gated_iff _).mpr h

/-! ## Attempts to power a slot -/

theorem exec_slotBudgetGrant {l : List Nat} (queue : s.pwr.slotQueue = n :: l) (free : s.slotHold = false) (waits : (getSlot s n).st = .waitGrant)
    (fits : sumBy (fun e => e.2.granted) s.slot - (getSlot s n).granted + (getSlot s n).declared ≤ tget 0 s.pwr.limit 6) :
    ∃ t, exec .slotBudgetGrant s = .next t ∧ t.pwr.slotQueue = l ∧ slotIs s t n
      (ramped (warned s (getSlot s n)) { getSlot s n with granted := (getSlot s n).declared, grantDue := false }) := by
  have room : decide (slotLimit s < slotGranted s - (getSlot s n).granted + (getSlot s n).declared) = false :=
    decide_eq_false (Nat.not_lt.mpr fits)
  refine ⟨enterRamp (modSlot { s with pwr := { s.pwr with slotQueue := l } } n
    fun x => { x with granted := x.declared, grantDue := false }) n, ?_, ?_, slotIs.of fun j => ?_⟩
  · refine unitOk_next rfl ?_
    rw [queue]
    dsimp only
    rw [free, waits, room]
    exact if_neg (by decide)
  · rw [(enterRamp_rel (ch := 4294967295 - 4) rfl (Rel.refl _)).f2 rfl]
    rfl
  · exact ramp_mod (s := { s with pwr := { s.pwr with slotQueue := l } }) (fun x => { x with granted := x.declared, grantDue := false }) rfl j

theorem exec_breakerArmed (hn : n < 32) (ramps : (getSlot s n).st = .ramp) :
    ∃ t, exec (.breakerArmed n) s = .next t ∧ slotIs s t n { getSlot s n with armed := true } :=
  slot_event hn (congrArg (unitOk _) (if_pos (beq_iff_eq.mpr ramps))) (slots_mod s n _)

theorem exec_powerGoodQualified (hn : n < 32) (ramps : (getSlot s n).st = .ramp) (armed : (getSlot s n).armed = true)
    (below : (getSlot s n).timer = false) :
    ∃ t, exec (.powerGoodQualified n) s = .next t ∧ slotIs s t n { getSlot s n with st := .on, pg := true, evPgUp := true } := by
  refine slot_event hn (congrArg (unitOk _) (if_neg (by rw [ramps, armed, below]; decide)))
    (slots_after _ (slots_mod s n fun x => { x with st := .on, pg := true }) fun j => ?_)
  rw [slotEv_slot, slots_mod, if_pos rfl]
  rfl

theorem exec_perstReleaseTimer (hn : n < 32) (on : (getSlot s n).st = .on) :
    ∃ t, exec (.perstReleaseTimer n) s = .next t ∧ slotIs s t n { getSlot s n with perstRel := true } :=
  slot_event hn (congrArg (unitOk _) (if_pos (beq_iff_eq.mpr on))) (slots_mod s n _)

theorem exec_rampTimeout (hn : n < 32) (ramps : (getSlot s n).st = .ramp) :
    ∃ t, exec (.rampTimeout n) s = .next t ∧ slotIs s t n (ended s (getSlot s n) 3) :=
  slot_event hn (congrArg (unitOk _) (if_pos (beq_iff_eq.mpr ramps))) (ended_slots s n 3)

theorem exec_fastTrip (hn : n < 32) (gate : (getSlot s n).st = .ramp ∨ (getSlot s n).st = .on) :
    ∃ t, exec (.fastTrip n) s = .next t ∧ slotIs s t n (ended s (getSlot s n) 1) :=
  slot_event hn (congrArg (unitOk _) (if_pos (gated_pos gate))) (ended_slots s n 1)

theorem breakerOn_iff {x : Slot} : breakerOn x = true ↔ x.st = .on ∨ (x.st = .ramp ∧ x.armed = true) := by
  rw [breakerOn, Bool.or_eq_true, Bool.and_eq_true, beq_iff_eq, beq_iff_eq]

theorem exec_breakerThresholdCross (hn : n < 32) (watched : (getSlot s n).st = .on ∨ ((getSlot s n).st = .ramp ∧ (getSlot s n).armed = true))
    (above : Bool) : ∃ t, exec (.breakerThresholdCross n above) s = .next t ∧ slotIs s t n { getSlot s n with timer := above } :=
  slot_event hn (congrArg (unitOk _) (if_pos (breakerOn_iff.mpr watched))) (slots_mod s n _)

theorem exec_breakerExpiry (hn : n < 32) (watched : (getSlot s n).st = .on ∨ ((getSlot s n).st = .ramp ∧ (getSlot s n).armed = true))
    (timer : (getSlot s n).timer = true) :
    ∃ t, exec (.breakerExpiry n) s = .next t ∧ slotIs s t n (ended s (getSlot s n) 2) :=
  slot_event hn (congrArg (unitOk _) (if_pos (by rw [breakerOn_iff.mpr watched, timer]; rfl))) (ended_slots s n 2)

theorem exec_backoffEnd (hn : n < 32) (backs : (getSlot s n).st = .backoff) (free : s.slotHold = false) :
    ∃ t, exec (.backoffEnd n) s = .next t ∧ slotIs s t n (if (getSlot s n).seated then
      ramped (warned s (getSlot s n)) { getSlot s n with retry := (getSlot s n).retry + 1 } else waitsSeat (getSlot s n)) := by
  have run : exec (.backoffEnd n) s = unitOk (n < 32) (if (getSlot s n).seated then
      enterRamp (modSlot s n fun x => { x with retry := x.retry + 1 }) n else modSlot s n waitsSeat) :=
    congrArg (unitOk _) ((if_neg (by rw [backs]; decide)).trans (if_neg (by rw [free]; decide)))
  refine slot_event hn run fun j => ?_
  split
  · exact ramp_mod (fun x => { x with retry := x.retry + 1 }) rfl j
  · exact slots_mod s n waitsSeat j

theorem exec_retryCountReset (hn : n < 32) (on : (getSlot s n).st = .on) :
    ∃ t, exec (.retryCountReset n) s = .next t ∧ slotIs s t n { getSlot s n with retry := 0 } :=
  slot_event hn (congrArg (unitOk _) (if_pos (beq_iff_eq.mpr on))) (slots_mod s n _)

theorem exec_slotGrantRelease (hn : n < 32) (due : (getSlot s n).grantDue = true) :
    ∃ t, exec (.slotGrantRelease n) s = .next t ∧ slotIs s t n { getSlot s n with granted := 0, grantDue := false } :=
  slot_event hn (congrArg (unitOk _) (if_pos due)) (slots_mod s n _)

/-! ## Seating -/

theorem exec_presenceChange (hn : n < 32) (a b : Bool) :
    ∃ t, exec (.presenceChange n a b) s = .next t ∧ slotIs s t n { getSlot s n with long := a, short := b } :=
  slot_event hn rfl (slots_mod s n _)

/-- A slot found seated; one that waited for it asks for power (R381). -/
def seatedSlot (x : Slot) : Slot :=
  { x with presenceDetect := true, seated := true, evSeat := true, st := if x.st = .waitSeat then .waitGrant else x.st }

/-- The state with presence detected at a slot, and told to its host (R380). -/
def detected (s : State) (n : Nat) : State :=
  if (getSlot s n).presenceDetect == (getSlot s n).long then s
  else hpVppbs (modSlot s n fun x => { x with presenceDetect := x.long }) n fun v => { v with presenceChanged := true }

theorem detected_slots (present : (getSlot s n).long = true) (j : Nat) :
    getSlot (detected s n) j = if j = n then { getSlot s n with presenceDetect := true } else getSlot s j := by
  rw [detected]
  split
  · next h =>
    have known : (getSlot s n).presenceDetect = true := (beq_iff_eq.mp h).trans present
    split
    · next hj => rw [hj, ← known]
    · rfl
  · rw [getSlot_of (hpVppbs_slot _ _ _), slots_mod]
    simp only [present]

theorem detected_queue : (detected s n).pwr = s.pwr := by
  rw [detected]
  split
  · rfl
  · exact (hpVppbs_rel (ch := 8192) rfl (Rel.refl _)).f2 rfl

theorem askGrant_queue (u : State) (n : Nat) : (askGrant u n).pwr.slotQueue =
    u.pwr.slotQueue ++ (if (getSlot u n).st = .waitSeat ∧ (getSlot u n).seated = true then [n] else []) := by
  rw [askGrant]
  by_cases h : (getSlot u n).st = .waitSeat ∧ (getSlot u n).seated = true
  · rw [if_pos h, if_pos (by simp [h])]
    rfl
  · rw [if_neg h, if_neg (by simpa using h), List.append_nil]

theorem exec_seatedQualified (hn : n < 32) (long : (getSlot s n).long = true) (short : (getSlot s n).short = true)
    (unseated : (getSlot s n).seated = false) :
    ∃ t, exec (.seatedQualified n) s = .next t ∧ slotIs s t n (seatedSlot (getSlot s n)) ∧
      t.pwr.slotQueue = s.pwr.slotQueue ++ (if (getSlot s n).st = .waitSeat then [n] else []) := by
  let u := slotEv (modSlot (detected s n) n fun x => { x with seated := true }) n .seat
  have slots : ∀ j, getSlot u j = if j = n then { getSlot s n with presenceDetect := true, seated := true, evSeat := true } else getSlot s j := by
    refine slots_after _ (detected_slots long) fun j => ?_
    rw [slotEv_slot, slots_mod, if_pos rfl, detected_slots long, if_pos rfl]
    by_cases h : j = n
    · rw [if_pos h, if_pos h]
      rfl
    · rw [if_neg h, if_neg h, slots_mod, if_neg h]
  have here := (slots n).trans (if_pos rfl)
  have queue : u.pwr = s.pwr := (slotEv_pwr _ _ _).trans detected_queue
  refine ⟨askGrant u n, unitOk_next (decide_eq_true hn) (if_pos (by rw [long, short, unseated]; rfl)), slotIs.of (slots_after _ slots fun j => ?_), ?_⟩
  · rw [askGrant_slot, here]
    simp only [and_true]
    rfl
  · rw [askGrant_queue, here, queue]
    simp only [and_true]

/-- A slot whose gate is off. -/
def gatedOff (y : Slot) (st : SlotSt) : Slot := { y with st := st, pg := false, perstRel := false, armed := false, timer := false }

/-- A slot that has lost its seating. -/
def unseated (x : Slot) : Slot := { x with seated := false, evSeat := true }

/-- The state after the loss of seating is noted at a slot. -/
def unseat (s : State) (n : Nat) : State := slotEv (modSlot s n fun x => { x with seated := false }) n .seat

theorem modSlot_slotHold (s : State) (n : Nat) (f : Slot → Slot) : (modSlot s n f).slotHold = s.slotHold := rfl

theorem unseat_slotHold (s : State) (n : Nat) : (unseat s n).slotHold = s.slotHold := by
  rw [unseat, (slotEv_keep _ _ _).1, modSlot_slotHold]

theorem unseat_slots (s : State) (n j : Nat) : getSlot (unseat s n) j = if j = n then unseated (getSlot s n) else getSlot s j := by
  refine slots_after _ (slots_mod s n fun x => { x with seated := false }) (fun j => ?_) j
  rw [unseat, slotEv_slot, slots_mod, if_pos rfl]
  rfl

/-- What follows the loss of seating in each state of the slot (R381, R389, R393). -/
def afterUnseat (v : State) (n : Nat) (st : SlotSt) : State :=
  match st with
  | .waitGrant => withdraw (modSlot v n fun x => { x with st := .waitSeat }) n
  | .ramp | .on =>
    let u := modSlot (pgLost v n) n fun x => { x with cause := 4 }
    if u.slotHold then latch u n else modSlot u n fun x => { gateOff x .off with granted := 0, grantDue := false }
  | _ => v

theorem exec_seatingLost_runs (hn : n < 32) (seated : (getSlot s n).seated = true) (gone : ((getSlot s n).long && (getSlot s n).short) = false) :
    exec (.seatingLost n) s = .next (afterUnseat (unseat s n) n (getSlot s n).st) := by
  refine unitOk_next (decide_eq_true hn) ((if_neg (by rw [seated, gone]; decide)).trans ?_)
  cases (getSlot s n).st <;> rfl

/-- A slot whose gate was on when its seating was lost. -/
def unseatedOn (x : Slot) (st : SlotSt) : Slot :=
  { gatedOff (unseated x) st with cause := 4, granted := 0, grantDue := false, evPgLost := x.evPgLost || x.st == .on }

theorem afterUnseat_gated {v : State} {st : SlotSt} (gate : st = .ramp ∨ st = .on) : afterUnseat v n st =
    if (modSlot (pgLost v n) n fun x => { x with cause := 4 }).slotHold then latch (modSlot (pgLost v n) n fun x => { x with cause := 4 }) n
    else modSlot (modSlot (pgLost v n) n fun x => { x with cause := 4 }) n fun x => { gateOff x .off with granted := 0, grantDue := false } := by
  rcases gate with rfl | rfl <;> rfl

theorem afterUnseat_other {v : State} {st : SlotSt} (noWait : st ≠ .waitGrant) (noGate : ¬(st = .ramp ∨ st = .on)) : afterUnseat v n st = v := by
  cases st with
  | waitGrant => exact absurd rfl noWait
  | ramp => exact absurd (Or.inl rfl) noGate
  | on => exact absurd (Or.inr rfl) noGate
  | _ => rfl

theorem pgLost_unseat (s : State) (n j : Nat) : getSlot (modSlot (pgLost (unseat s n) n) n fun x => { x with cause := 4 }) j =
    if j = n then { unseated (getSlot s n) with evPgLost := (getSlot s n).evPgLost || (getSlot s n).st == .on, cause := 4 } else getSlot s j := by
  refine slots_after _ (unseat_slots s n) (fun j => ?_) j
  rw [slots_mod, pgLost_slot, pgLost_slot, if_pos rfl, unseat_slots, if_pos rfl]
  by_cases h : j = n
  · rw [if_pos h, if_pos h]
    rfl
  · rw [if_neg h, if_neg h, if_neg h]

theorem unseat_gated (gate : (getSlot s n).st = .ramp ∨ (getSlot s n).st = .on) :
    (s.slotHold = false → slotIs s (afterUnseat (unseat s n) n (getSlot s n).st) n (unseatedOn (getSlot s n) .off)) ∧
    (s.slotHold = true → slotIs s (afterUnseat (unseat s n) n (getSlot s n).st) n { unseatedOn (getSlot s n) .latched with evLatched := true }) := by
  rw [afterUnseat_gated gate, modSlot_slotHold, (pgLost_keep _ _).1, unseat_slotHold]
  refine ⟨fun free => slotIs.of ?_, fun held => slotIs.of ?_⟩
  · rw [free, if_neg Bool.false_ne_true]
    intro i
    refine slots_after _ (pgLost_unseat s n) (fun j => ?_) i
    rw [slots_mod, pgLost_unseat, if_pos rfl]
    rfl
  · rw [held, if_pos rfl]
    intro i
    refine slots_after _ (pgLost_unseat s n) (fun j => ?_) i
    rw [latch_slot, pgLost_unseat, if_pos rfl]
    rfl

theorem exec_seatingLost (hn : n < 32) (seated : (getSlot s n).seated = true) (gone : ((getSlot s n).long && (getSlot s n).short) = false) :
    ∃ t, exec (.seatingLost n) s = .next t ∧
      ((getSlot s n).st = .waitGrant → slotIs s t n { unseated (getSlot s n) with st := .waitSeat } ∧
        t.pwr.slotQueue = s.pwr.slotQueue.filter (· != n)) ∧
      ((getSlot s n).st = .ramp ∨ (getSlot s n).st = .on → s.slotHold = false → slotIs s t n (unseatedOn (getSlot s n) .off)) ∧
      ((getSlot s n).st = .ramp ∨ (getSlot s n).st = .on → s.slotHold = true →
        slotIs s t n { unseatedOn (getSlot s n) .latched with evLatched := true }) ∧
      ((getSlot s n).st ≠ .waitGrant → ¬((getSlot s n).st = .ramp ∨ (getSlot s n).st = .on) → slotIs s t n (unseated (getSlot s n))) := by
  refine ⟨_, exec_seatingLost_runs hn seated gone, fun waits => ?_, fun gate => (unseat_gated gate).1, fun gate => (unseat_gated gate).2,
    fun noWait noGate => slotIs.of fun j => ?_⟩
  · rw [waits]
    refine ⟨slotIs.of (slots_after _ (unseat_slots s n) fun j => ?_), ?_⟩
    · rw [afterUnseat, withdraw_slot, slots_mod, unseat_slots, if_pos rfl]
    · exact congrArg (fun p => p.slotQueue.filter (· != n)) ((slotEv_pwr _ _ _).trans rfl)
  · rw [afterUnseat_other noWait noGate, unseat_slots]

/-! ## The input supply, warnings and a failed pass device -/

theorem warnOn_mod (f : Slot → Slot) (j : Nat) : getSlot (warnOn (modSlot s n f) n) j = if j = n then
    { f (getSlot s n) with warn := true, evWarn := (f (getSlot s n)).evWarn || !(f (getSlot s n)).warn } else getSlot s j := by
  refine slots_after _ (slots_mod s n f) (fun j => ?_) j
  rw [warnOn_slot, slots_mod, if_pos rfl]

/-- The state with a slot's input marked low. -/
def lowVin (s : State) (n : Nat) : State := modSlot s n fun x => { x with vinLow := true }

theorem exec_vinWarn (hn : n < 32) : ∃ t, exec (.vinWarn n) s = .next t ∧
    ((getSlot s n).st = .ramp ∨ (getSlot s n).st = .on →
      slotIs s t n { getSlot s n with vinLow := true, warn := true, evWarn := (getSlot s n).evWarn || !(getSlot s n).warn }) ∧
    (¬((getSlot s n).st = .ramp ∨ (getSlot s n).st = .on) → slotIs s t n { getSlot s n with vinLow := true }) := by
  have state : (getSlot (lowVin s n) n).st = (getSlot s n).st := by rw [lowVin, slots_mod, if_pos rfl]
  refine ⟨if gated (getSlot s n).st then warnOn (lowVin s n) n else lowVin s n, unitOk_next (decide_eq_true hn)
    (congrArg (fun st => if gated st then warnOn (lowVin s n) n else lowVin s n) state),
    fun gate => slotIs.of fun j => ?_, fun noGate => slotIs.of fun j => ?_⟩
  · rw [if_pos (gated_pos gate), lowVin, warnOn_mod]
  · rw [gated_not _ noGate, if_neg Bool.false_ne_true, lowVin, slots_mod]

/-- The state with a slot's input marked good. -/
def goodVin (s : State) (n : Nat) : State := modSlot s n fun x => { x with vinLow := false }

/-- What keeps a warning (R390, R391). -/
def keepsWarning (s : State) (x : Slot) : Bool := (s.pwrfail && x.warnPwrfail) || x.st == .pdf

theorem exec_warnRelease (hn : n < 32) : ∃ t, exec (.warnRelease n) s = .next t ∧ slotIs s t n
    { getSlot s n with vinLow := false, warn := (getSlot s n).warn && keepsWarning s (getSlot s n) } := by
  have good : ∀ j, getSlot (goodVin s n) j = if j = n then { getSlot s n with vinLow := false } else getSlot s j := slots_mod s n _
  have here := (good n).trans (if_pos rfl)
  have keeps : keepsWarning (goodVin s n) (getSlot (goodVin s n) n) = keepsWarning s (getSlot s n) := by rw [here]; rfl
  have run : exec (.warnRelease n) s = unitOk (n < 32) (if keepsWarning s (getSlot s n) then goodVin s n
      else modSlot (goodVin s n) n fun x => { x with warn := false }) :=
    congrArg (fun b => unitOk (n < 32) (if b = true then goodVin s n else modSlot (goodVin s n) n fun x => { x with warn := false })) keeps
  refine slot_event hn run fun j => ?_
  cases h : keepsWarning s (getSlot s n)
  · rw [if_neg Bool.false_ne_true, Bool.and_false]
    exact slots_after _ good (fun j => by rw [slots_mod, here]) j
  · rw [if_pos rfl, Bool.and_true]
    exact good j

theorem exec_vinUndervoltage (hn : n < 32) (gate : (getSlot s n).st = .ramp ∨ (getSlot s n).st = .on) :
    ∃ t, exec (.vinUndervoltage n) s = .next t ∧ slotIs s t n
      { gatedOff (getSlot s n) .waitVin with cause := 5, evUv := true, evPgLost := (getSlot s n).evPgLost || (getSlot s n).st == .on } := by
  refine slot_event hn (congrArg (unitOk _) (if_pos (gated_pos gate))) (slots_after _ (pgLost_slot s n) fun j => ?_)
  rw [slotEv_slot, slots_mod, slots_mod, if_pos rfl, pgLost_slot, if_pos rfl]
  by_cases h : j = n
  · rw [if_pos h, if_pos h]
    rfl
  · rw [if_neg h, if_neg h, if_neg h]

theorem exec_vinRestored (hn : n < 32) (waits : (getSlot s n).st = .waitVin) (free : s.slotHold = false) :
    ∃ t, exec (.vinRestored n) s = .next t ∧
      slotIs s t n (if (getSlot s n).seated then ramped (warned s (getSlot s n)) (getSlot s n) else waitsSeat (getSlot s n)) := by
  have run : exec (.vinRestored n) s = unitOk (n < 32) (if (getSlot s n).seated then enterRamp s n else modSlot s n waitsSeat) :=
    congrArg (unitOk _) (if_neg (by rw [waits, free]; decide))
  refine slot_event hn run fun j => ?_
  split
  · exact enterRamp_slot s n j
  · exact slots_mod s n waitsSeat j

theorem exec_passDeviceFailure (hn : n < 32) (noGate : ¬((getSlot s n).st = .ramp ∨ (getSlot s n).st = .on)) (noPdf : (getSlot s n).st ≠ .pdf)
    (noReset : (getSlot s n).st ≠ .inReset) :
    ∃ t, exec (.passDeviceFailure n) s = .next t ∧ t.pwr.slotQueue = s.pwr.slotQueue.filter (· != n) ∧ slotIs s t n
      { gatedOff (getSlot s n) .pdf with cause := 6, iso := (getSlot s n).iso || (getSlot s n).isoEn, warn := true, granted := 0,
                                         grantDue := false, evPdf := true } := by
  refine ⟨_, unitOk_next (decide_eq_true hn)
    (if_neg (by rw [gated_not _ noGate, beq_eq_false_iff_ne.mpr noPdf, beq_eq_false_iff_ne.mpr noReset]; decide)), ?_, slotIs.of fun j => ?_⟩
  · rw [slotEv_pwr]
    rfl
  · rw [slotEv_slot, slots_mod, slots_mod, if_pos rfl, withdraw_slot, withdraw_slot]
    by_cases h : j = n
    · rw [if_pos h, if_pos h]
      rfl
    · rw [if_neg h, if_neg h, if_neg h]

/-! ## The autonomous hold and PWRFAIL_IN_N -/

theorem exec_controlExchangeResume : ∃ t, exec .controlExchangeResume s = .next t ∧ t.slotHold = false ∧ t.slot = s.slot := by
  refine ⟨_, unitOk_next rfl rfl, ?_⟩
  by_cases h : s.slotHold = true
  · have quiet := stewEv_rel (ch := 4294967295 - 64 - 16) rfl (Rel.refl { s with slotHold := false })
    rw [if_pos h]
    exact ⟨quiet.f6 rfl, quiet.f4 rfl⟩
  · rw [if_neg h]
    exact ⟨Bool.not_eq_true _ ▸ h, rfl⟩

theorem exec_pwrfailInAssert_true : ∃ t, exec (.pwrfailInAssert true) s = .next t ∧ t.pwrfail = true ∧ ∀ n, n < 32 → getSlot t n =
    if ((getSlot s n).st = .ramp ∨ (getSlot s n).st = .on) ∧ (getSlot s n).warnPwrfail = true then
      { getSlot s n with warn := true, evWarn := (getSlot s n).evWarn || !(getSlot s n).warn } else getSlot s n := by
  obtain ⟨fails, slots⟩ := warnAll ((List.range 32).filter fun i => gated (getSlot s i).st && (getSlot s i).warnPwrfail)
    (List.nodup_range.filter _) { s with pwrfail := true }
  refine ⟨_, unitOk_next rfl (if_pos rfl), fails, fun n hn => (slots n).trans ?_⟩
  have mem : n ∈ (List.range 32).filter (fun i => gated (getSlot s i).st && (getSlot s i).warnPwrfail) ↔
      ((getSlot s n).st = .ramp ∨ (getSlot s n).st = .on) ∧ (getSlot s n).warnPwrfail = true := by
    rw [List.mem_filter, List.mem_range, Bool.and_eq_true, gated_iff]
    exact and_iff_right hn
  rw [ite_congr (propext mem) (fun _ => rfl) (fun _ => rfl)]
  rfl

/-- Settles O29, by the slot each event leads to. -/
theorem slotPowerEvents : Obligations.SlotPowerEvents := by
  unfold Obligations.SlotPowerEvents
  refine ⟨fun s n hn => ⟨fun _ => exec_slotBudgetGrant, exec_breakerArmed hn, exec_powerGoodQualified hn, exec_perstReleaseTimer hn,
      exec_rampTimeout hn, exec_fastTrip hn, fun watched => ⟨exec_breakerThresholdCross hn watched, exec_breakerExpiry hn watched⟩,
      exec_backoffEnd hn, exec_retryCountReset hn, exec_slotGrantRelease hn⟩,
    fun s n hn => ⟨exec_presenceChange hn, exec_seatedQualified hn, exec_seatingLost hn, exec_vinWarn hn, exec_warnRelease hn,
      exec_vinUndervoltage hn, exec_vinRestored hn, exec_passDeviceFailure hn, ⟨_, rfl, rfl, rfl⟩, exec_controlExchangeResume⟩,
    fun s => ⟨exec_pwrfailInAssert_true, ⟨_, rfl, rfl, rfl⟩⟩⟩

end

end Sys2Proof.Proofs.SlotEvents
end

section
/-!
SUPPORT. Proofs about the ops of SLOT (Table OXI-17): what each leaves of its slot, where its checks pass.
-/

namespace Sys2Proof.Proofs.SlotInstructions

open Sys2Proof Sys2Proof.Machine Sys2Proof.Safety Sys2Proof.Laws.AboutPower
open Sys2Proof.Proofs.SlotEvents (askGrant_queue)

/-! ## ON -/

/-- The state with a slot asking for power, where it is seated (R381). -/
def asked (u : State) (n : Nat) : State := cmdDone (askGrant (modSlot (tapEnd u) n fun x => { x with st := .waitSeat }) n) n

/-- A slot that ON has switched on. -/
def askedSlot (x : Slot) : Slot := { x with st := if x.seated then .waitGrant else .waitSeat }

section
variable {u : State} {n : Nat}

theorem asked_slots (j : Nat) : getSlot (asked u n) j = if j = n then askedSlot (getSlot u n) else getSlot u j := by
  have tap : ∀ j, getSlot (tapEnd u) j = getSlot u j := getSlot_of tapEnd_slot
  rw [asked, getSlot_of (cmdDone_k _ _).1, askGrant_slot, getSlot_mod, getSlot_mod, if_pos rfl, tap, tap]
  by_cases h : j = n
  · rw [if_pos h, if_pos h]
    simp only [true_and]
    rfl
  · rw [if_neg h, if_neg h, if_neg h]

theorem asked_queue : (asked u n).pwr.slotQueue = u.pwr.slotQueue ++ (if (getSlot u n).seated then [n] else []) := by
  have here : getSlot (modSlot (tapEnd u) n fun x => { x with st := .waitSeat }) n = { getSlot u n with st := .waitSeat } := by
    rw [getSlot_mod, if_pos rfl, getSlot_of tapEnd_slot]
  have queue : (modSlot (tapEnd u) n fun x => { x with st := .waitSeat }).pwr = u.pwr := tapEnd_pwr
  rw [asked, (cmdDone_k _ _).2, askGrant_queue, here, queue]
  simp only [true_and]

end

section
variable {s : State} {c : Nat} {w : Ox}

/-- A SLOT instruction issues. -/
def SlotIssues (s : State) (c : Nat) (w : Ox) : Prop :=
  Issues s c 0x80 w { d := fld w.imm 8 3 == 4, imm := 0x71F, B := if fld w.imm 8 3 = 3 then 0xFFFF else 0 }

theorem exec_slotOn (h : SlotIssues s c w) (stw : c < 2) (op : fld w.imm 8 3 = 0) (off : (getSlot s (fld w.imm 0 5)).st = .off) :
    ∃ t, exec (.slotOn c w) s = .next t ∧ (∀ j, getSlot t j = if j = fld w.imm 0 5 then askedSlot (getSlot s j) else getSlot s j) ∧
      t.pwr.slotQueue = s.pwr.slotQueue ++ (if (getSlot s (fld w.imm 0 5)).seated then [fld w.imm 0 5] else []) ∧
      Did [.slot, .pwr, .tap, .ten] s t c := by
  have rel : Rel 13526038 s (asked (begun s c) (fld w.imm 0 5)) :=
    cmdDone_rel rfl (askGrant_rel rfl (modSlot_rel rfl (tapEnd_rel rfl ((begun_only s c).mono rfl))))
  refine ⟨endTurn (retireSt (asked (begun s c) (fld w.imm 0 5)) c 0x80 w 0) c,
    (slot_run rfl op rfl h (by decide) (.inl stw) (.inr (by rw [off]; decide))).trans ?_, fun j => ?_, ?_,
    did_of rel (rel.regs rfl) rfl (by intro p hp; cases p <;> first | rfl | exact absurd (by decide) hp)⟩
  · rw [if_neg (by rw [begun_gs, off]; decide)]
    rfl
  · rw [ret_slot, asked_slots, begun_gs, begun_gs]
    by_cases hj : j = fld w.imm 0 5
    · rw [if_pos hj, if_pos hj, hj]
    · rw [if_neg hj, if_neg hj]
  · rw [endTurn_pwr, retireSt_pwr, asked_queue, begun_pwr, begun_gs]

/-! ## OFF -/

/-- A slot that OFF has switched off; its grant is due (R388). -/
def offSlot (x : Slot) : Slot :=
  { x with st := .off, pg := false, perstRel := false, armed := false, timer := false, retry := 0, cause := 0, grantDue := x.granted != 0 }

theorem exec_slotOff (h : SlotIssues s c w) (stw : c < 2) (op : fld w.imm 8 3 = 1) (on : (getSlot s (fld w.imm 0 5)).st ≠ .off)
    (sound : (getSlot s (fld w.imm 0 5)).st ≠ .pdf) (running : (getSlot s (fld w.imm 0 5)).st ≠ .inReset) :
    ∃ t, exec (.slotOff c w) s = .next t ∧
      (∀ j, getSlot t j = if j = fld w.imm 0 5 then offSlot (getSlot s (fld w.imm 0 5)) else getSlot s j) ∧
      t.pwr.slotQueue = s.pwr.slotQueue.filter (· != fld w.imm 0 5) ∧ Did [.slot, .pwr, .ten] s t c := by
  have rel : Rel 13001750 s (cmdDone (slotOff (begun s c) (fld w.imm 0 5) 0) (fld w.imm 0 5)) :=
    cmdDone_rel rfl (slotOff_rel rfl ((begun_only s c).mono rfl))
  refine ⟨endTurn (retireSt (cmdDone (slotOff (begun s c) (fld w.imm 0 5) 0) (fld w.imm 0 5)) c 0x80 w 0) c,
    (slot_run rfl op rfl h (by decide) (.inl stw) (.inl rfl)).trans ?_, fun j => ?_, ?_,
    did_of rel (rel.regs rfl) rfl (by intro p hp; cases p <;> first | rfl | exact absurd (by decide) hp)⟩
  · have runs : ((getSlot s (fld w.imm 0 5)).st == .pdf || (getSlot s (fld w.imm 0 5)).st == .inReset || (getSlot s (fld w.imm 0 5)).st == .off) = false := by
      rw [beq_eq_false_iff_ne.mpr on, beq_eq_false_iff_ne.mpr sound, beq_eq_false_iff_ne.mpr running]
      rfl
    refine congrArg (fun u => Host.Outcome.next (endTurn (retireSt (cmdDone u (fld w.imm 0 5)) c 0x80 w 0) c)) (if_neg ?_)
    rw [begun_gs, runs]
    exact Bool.false_ne_true
  · rw [ret_slot, getSlot_of (cmdDone_k _ _).1, slotOff_slot, begun_gs, begun_gs]
    rfl
  · rw [endTurn_pwr, retireSt_pwr, (cmdDone_k _ _).2, slotOff_q, begun_pwr]

/-! ## CLEAR, DECLARE and STATUS -/

/-- A latched or failed slot that CLEAR frees (R387, R391). -/
def clearedSlot (x : Slot) : Slot := { x with st := .off, retry := 0, iso := x.iso && x.st != .pdf, warn := x.warn && x.st != .pdf }

theorem exec_slotClear (h : SlotIssues s c w) (stw : c < 2) (op : fld w.imm 8 3 = 2)
    (held : (getSlot s (fld w.imm 0 5)).st = .latched ∨ (getSlot s (fld w.imm 0 5)).st = .pdf) :
    ∃ t, exec (.slotClear c w) s = .next t ∧
      (∀ j, getSlot t j = if j = fld w.imm 0 5 then clearedSlot (getSlot s (fld w.imm 0 5)) else getSlot s j) ∧ Did [.slot] s t c := by
  have next := slot_run (i := .slotClear c w) rfl op rfl h (by decide) (.inl stw) (.inr (by rcases held with e | e <;> rw [e] <;> decide))
  rw [begun_gs] at next
  rcases held with e | e
  · rw [e] at next
    obtain ⟨did, slots⟩ := slotDid (s := s) (c := c) (op := 0x80) (n := fld w.imm 0 5) (w := w) (f := fun x => { x with st := .off, retry := 0 })
    refine ⟨_, next, fun j => (slots j).trans ?_, did⟩
    rw [clearedSlot, e, show (SlotSt.latched != SlotSt.pdf) = true from rfl, Bool.and_true, Bool.and_true]
  · rw [e] at next
    obtain ⟨did, slots⟩ := slotDid (s := s) (c := c) (op := 0x80) (n := fld w.imm 0 5) (w := w)
      (f := fun x => { x with st := .off, retry := 0, iso := false, warn := false })
    refine ⟨_, next, fun j => (slots j).trans ?_, did⟩
    rw [clearedSlot, e, show (SlotSt.pdf != SlotSt.pdf) = false from rfl, Bool.and_false, Bool.and_false]

theorem exec_slotDeclare (h : SlotIssues s c w) (stw : c < 2) (op : fld w.imm 8 3 = 3)
    (idle : (getSlot s (fld w.imm 0 5)).st = .off ∨ (getSlot s (fld w.imm 0 5)).st = .latched ∨ (getSlot s (fld w.imm 0 5)).st = .pdf) :
    ∃ t, exec (.slotDeclare c w) s = .next t ∧ (∀ j, getSlot t j = if j = fld w.imm 0 5 then
      { getSlot s (fld w.imm 0 5) with declared := fld w.B 0 16 } else getSlot s j) ∧ Did [.slot] s t c := by
  have still : ((getSlot s (fld w.imm 0 5)).st == .on || starting (getSlot s (fld w.imm 0 5)).st) = false ∧
      (getSlot s (fld w.imm 0 5)).st ≠ .inReset := by
    rcases idle with e | e | e <;> rw [e] <;> decide
  obtain ⟨did, slots⟩ := slotDid (s := s) (c := c) (op := 0x80) (n := fld w.imm 0 5) (w := w) (f := fun x => { x with declared := fld w.B 0 16 })
  refine ⟨_, (slot_run rfl op rfl h (by decide) (.inl stw) (.inr still.2)).trans ?_, slots, did⟩
  refine congrArg (fun u => Host.Outcome.next (endTurn u c)) (if_neg ?_)
  rw [begun_gs, still.1]
  exact Bool.false_ne_true

theorem exec_slotStatus (h : SlotIssues s c w) (may : c < 2 ∨ slotOwn s (c - 2) (fld w.imm 0 5) = true) (op : fld w.imm 8 3 = 4)
    (running : (getSlot s (fld w.imm 0 5)).st ≠ .inReset) :
    ∃ t, exec (.slotStatus c w) s = .next t ∧ Gave [] s t c w.d (slotStatus s (fld w.imm 0 5)) ∧ t.slot = s.slot := by
  have word : slotStatus (begun s c) (fld w.imm 0 5) = slotStatus s (fld w.imm 0 5) := by
    rw [slotStatus, begun_gs, begun_slotHold, slotStatus]
  refine ⟨endTurn (retireK (begun s c) c 0x80 w w.d (slotStatus s (fld w.imm 0 5))) c,
    (slot_run rfl op rfl h (by decide) (may.imp id fun own => ⟨rfl, own⟩) (.inr running)).trans ?_, (readGave (op := 0x80)).1, ?_⟩
  · rw [word]
  · rw [endTurn_slot, retireK_slot, begun_slot]

/-- Settles O30, by the ops of SLOT. -/
theorem slotInstructions : Obligations.SlotInstructions := by
  unfold Obligations.SlotInstructions
  refine fun s c w h => ⟨fun stw op off => ?_, fun stw op on sound running => ?_, fun stw op held => ?_, fun stw op idle => ?_,
    fun may op running => exec_slotStatus h may op running⟩
  · obtain ⟨t, next, slots, queue, did⟩ := exec_slotOn h stw op off
    exact ⟨t, next, ⟨(slots _).trans (if_pos rfl), fun j hj => (slots j).trans (if_neg hj)⟩, queue, did⟩
  · obtain ⟨t, next, slots, rest⟩ := exec_slotOff h stw op on sound running
    exact ⟨t, next, oneIs slots, rest⟩
  · obtain ⟨t, next, slots, did⟩ := exec_slotClear h stw op held
    exact ⟨t, next, oneIs slots, did⟩
  · obtain ⟨t, next, slots, did⟩ := exec_slotDeclare h stw op idle
    exact ⟨t, next, oneIs slots, did⟩

end

end Sys2Proof.Proofs.SlotInstructions
end

section
/-!
SUPPORT. Proofs about BUDGET, PACE, SNAP, COUNT and LOG (Table OXI-18, R437 to R442), where their checks pass.
-/

namespace Sys2Proof.Proofs.BudgetAndTelemetry

open Sys2Proof Sys2Proof.Machine Sys2Proof.Safety Sys2Proof.Laws.AboutPower Sys2Proof.Proofs.Issue

variable {s : State} {c : Nat} {w : Ox}

/-! ## BUDGET -/

/-- A write leaves the other entries of a table, whatever their default. -/
theorem tget_tput_other {α : Type} [DecidableEq α] {d e v : α} {m : Tab α} {k j : Nat} (h : j ≠ k) : tget e (tput d m k v) j = tget e m j := by
  unfold tput
  split
  · rw [tget_tdel, if_neg h]
  · rw [tget_tins, if_neg h]

/-- A BUDGET instruction issues. -/
def BudgetIssues (s : State) (c : Nat) (w : Ox) : Prop :=
  Issues s c 0x81 w { d := fld w.imm 0 4 == 2, imm := if fld w.imm 0 4 = 0 then 0xF else 0xFF0F, B := if fld w.imm 0 4 < 2 then 0xFFFF else 0 }

/-- A change of the power block, and the retirement after it. -/
theorem pwr_changes {i : Instr} {op : Nat} {f : Pwr → Pwr}
    (next : exec i s = .next (endTurn (retireSt { begun s c with pwr := f (begun s c).pwr } c op w 0) c)) :
    ∃ t, exec i s = .next t ∧ Did [.pwr] s t c ∧ t.pwr = f s.pwr := ⟨_, next, pwrDid f⟩

theorem exec_budgetCap (h : BudgetIssues s c w) (stw : c < 2) (op : fld w.imm 0 4 = 0) (least : 800 ≤ fld w.B 0 16) (most : fld w.B 0 16 ≤ 1650) :
    ∃ t, exec (.budgetCap c w) s = .next t ∧ Did [.pwr] s t c ∧
      t.pwr = { s.pwr with cap := fld w.B 0 16, capUnmet := s.pwr.capUnmet && decide (fld w.B 0 16 ≤ s.pwr.cap) } := by
  have next := bud_run (i := .budgetCap c w) rfl op rfl h (by decide) (fun _ => ⟨least, most⟩) (fun e => absurd e (by decide))
    (fun e => absurd e (by decide)) fun _ => stw
  obtain ⟨t, runs, did, pwr⟩ := pwr_changes
    (f := fun p => { p with cap := fld w.B 0 16, capUnmet := p.capUnmet && !decide (p.cap < fld w.B 0 16) }) next
  refine ⟨t, runs, did, pwr.trans ?_⟩
  rw [← decide_not, decide_eq_decide.mpr Nat.not_lt]

theorem exec_budgetLimit (h : BudgetIssues s c w) (stw : c < 2) (op : fld w.imm 0 4 = 1) (pos : 0 < fld w.imm 8 8) (le : fld w.imm 8 8 ≤ 6) :
    ∃ t, exec (.budgetLimit c w) s = .next t ∧ Did [.pwr] s t c ∧
      limitOf t (fld w.imm 8 8) = fld w.B 0 16 ∧ ∀ k, k ≠ fld w.imm 8 8 → limitOf t k = limitOf s k := by
  have next := bud_run (i := .budgetLimit c w) rfl op rfl h (by decide) (fun e => absurd e (by decide)) (fun _ => ⟨pos, le⟩)
    (fun e => absurd e (by decide)) fun _ => stw
  obtain ⟨t, runs, did, pwr⟩ := pwr_changes
    (f := fun p => { p with limit := tput (limitReset (fld w.imm 8 8)) p.limit (fld w.imm 8 8) (fld w.B 0 16) }) next
  refine ⟨t, runs, did, ?_, fun k hk => ?_⟩
  · rw [limitOf, pwr]
    exact (tget_tput _ _ _ _ _).trans (if_pos rfl)
  · rw [limitOf, pwr]
    exact tget_tput_other hk

theorem exec_budgetRead (h : BudgetIssues s c w) (op : fld w.imm 0 4 = 2) (cls : fld w.imm 8 8 ≤ 6 ∨ fld w.imm 8 8 = 0xFF) :
    ∃ t, exec (.budgetRead c w) s = .next t ∧ t.pwr = s.pwr ∧ Gave [] s t c w.d (if fld w.imm 8 8 = 0xFF then
      pack64 [(32, s.pwr.cap), (0, s.pwr.use % 65536)] else
      pack64 [(32, limitOf s (fld w.imm 8 8)), (0, charge s (fld w.imm 8 8) % 65536)]) := by
  have next := bud_run (i := .budgetRead c w) rfl op rfl h (by decide) (fun e => absurd e (by decide)) (fun e => absurd e (by decide)) (fun _ => cls)
    fun e => absurd e (by decide)
  have limit : limitOf (begun s c) (fld w.imm 8 8) = limitOf s (fld w.imm 8 8) := by rw [limitOf, begun_pwr, limitOf]
  rw [begun_pwr, limit, charge_begun] at next
  obtain ⟨gave, pwr⟩ := readGave (s := s) (c := c) (op := 0x81) (w := w) (v := if fld w.imm 8 8 = 0xFF then
      pack64 [(32, s.pwr.cap), (0, s.pwr.use % 65536)] else pack64 [(32, limitOf s (fld w.imm 8 8)), (0, charge s (fld w.imm 8 8) % 65536)])
  refine ⟨_, next.trans ?_, pwr, gave⟩
  by_cases e : fld w.imm 8 8 = 0xFF
  · rw [if_pos e, if_pos e]
  · rw [if_neg e, if_neg e]

/-! ## PACE -/

/-- A PACE instruction issues. -/
def PaceIssues (s : State) (c : Nat) (w : Ox) : Prop :=
  Issues s c 0x82 w { d := fld w.imm 0 4 == 2 || fld w.imm 0 4 == 3, imm := 0xF,
                      B := if fld w.imm 0 4 = 0 then 0xFFFF else if fld w.imm 0 4 = 1 then 1 else 0 }

theorem exec_paceTarget (h : PaceIssues s c w) (stw : c < 2) (op : fld w.imm 0 4 = 0) :
    ∃ t, exec (.paceTarget c w) s = .next t ∧ Did [.pwr] s t c ∧ t.pwr =
      { s.pwr with target := if fld w.B 0 16 < 1250 then 1250 else if 2400 < fld w.B 0 16 then 2400 else fld w.B 0 16 } := by
  have next := pace_run (i := .paceTarget c w) rfl op rfl h (by decide) fun _ => stw
  obtain ⟨t, runs, did, pwr⟩ := pwr_changes (f := fun p => { p with target := clampTarget (fld w.B 0 16) }) next
  exact ⟨t, runs, did, pwr.trans (by rw [clampT])⟩

theorem exec_paceLoop (h : PaceIssues s c w) (stw : c < 2) (op : fld w.imm 0 4 = 1) :
    ∃ t, exec (.paceLoop c w) s = .next t ∧ Did [.pwr] s t c ∧ t.pwr = { s.pwr with loopEn := bit w.B 0 } := by
  have next := pace_run (i := .paceLoop c w) rfl op rfl h (by decide) fun _ => stw
  exact pwr_changes (f := fun p => { p with loopEn := bit w.B 0 }) next

theorem exec_paceReadStatus (h : PaceIssues s c w) (op : fld w.imm 0 4 = 2) :
    ∃ t, exec (.paceReadStatus c w) s = .next t ∧ Gave [] s t c w.d ((paceStatus s).setWidth 64) := by
  have next := pace_run (i := .paceReadStatus c w) rfl op rfl h (by decide) fun e => absurd e (by decide)
  rw [paceStatus, begun_pace] at next
  exact ⟨_, next, readGave.1⟩

theorem exec_paceReadVcore (h : PaceIssues s c w) (op : fld w.imm 0 4 = 3) :
    ∃ t, exec (.paceReadVcore c w) s = .next t ∧ Gave [] s t c w.d (BitVec.ofNat 64 (s.pwr.vcore % 2 ^ 32)) := by
  have next := pace_run (i := .paceReadVcore c w) rfl op rfl h (by decide) fun e => absurd e (by decide)
  have word : (vcoreStatus (begun s c)).setWidth 64 = BitVec.ofNat 64 (s.pwr.vcore % 2 ^ 32) := by
    rw [vcoreStatus, begun_pwr]
    apply BitVec.eq_of_toNat_eq
    simp only [BitVec.toNat_setWidth, BitVec.toNat_ofNat]
  rw [word] at next
  exact ⟨_, next, readGave.1⟩

/-! ## The counters' block through a retirement -/

theorem ended_cnt (u : State) (op : Nat) (r : Option W64) (st : Nat) : sansBank (endTurn (retire u c op w st r) c).cnt = sansBank u.cnt := by
  rw [endTurn_cnt, retire_rest]

/-- What a retirement leaves of the counters' block: all but the counters. -/
theorem cnt_kept {x y : Cnt} (h : sansBank x = sansBank y) : x.frozen = y.frozen ∧ x.shadow = y.shadow ∧ x.snapTime = y.snapTime ∧
    x.copying = y.copying ∧ x.sel = y.sel := by
  have frozen := congrArg Cnt.frozen h
  have shadow := congrArg Cnt.shadow h
  have snapTime := congrArg Cnt.snapTime h
  have copying := congrArg Cnt.copying h
  have sel := congrArg Cnt.sel h
  exact ⟨frozen, shadow, snapTime, copying, sel⟩

/-- A value is given after a change of the counters' block. -/
theorem cnt_gave {u : State} {op : Nat} {d : BitVec 4} {v : W64} (hu : Rel 132096 s u) :
    Gave [] s (endTurn (retireK u c op w d v) c) c d v :=
  gave_of (ch := 549864450) (hu.mono rfl) (hu.regs rfl) rfl (by intro p hp; cases p <;> first | rfl | exact absurd (by decide) hp)

/-! ## SNAP -/

theorem now_begun : now (begun s c) = s.time.fab := by rw [now, begun_time]

theorem exec_snapFreeze (freezes : bit w.imm 0 = false) (stw : c < 2) (counting : s.cnt.frozen = false)
    (h : Issues s c 0x90 w { d := true, imm := 1 }) :
    ∃ t, exec (.snapFreeze c w) s = .next t ∧ Gave [] s t c w.d s.time.fab ∧ t.cnt.frozen = true ∧ t.cnt.shadow = s.cnt.bank ∧
      t.cnt.snapTime = s.time.fab ∧ t.cnt.copying = true ∧ t.cnt.sel = s.cnt.sel := by
  have off : ¬(begun s c).cnt.frozen = true := by rw [begun_cnt, counting]; exact Bool.false_ne_true
  have next : exec (.snapFreeze c w) s = .next (endTurn (retireK (cntFreeze (begun s c)) c 0x90 w w.d s.time.fab) c) := by
    refine Eq.trans (res_issues (congrArg (unitOk _) (if_neg (by rw [freezes]; decide))) h
      (passes_cons (by rw [isStw, decide_eq_true stw]; rfl) passes_nil)) ?_
    dsimp only
    rw [if_neg off, now_begun]
  have frozen : (cntFreeze (begun s c)).cnt =
      { s.cnt with frozen := true, copying := true, shadow := s.cnt.bank, snapTime := s.time.fab, frozenAt := mono (begun s c) } := by
    rw [cntFreeze, if_neg off, now_begun, begun_cnt]
  obtain ⟨hf, hs, ht, hc, hl⟩ := cnt_kept (ended_cnt (modCtx (cntFreeze (begun s c)) c fun x => kset x w.d s.time.fab) (c := c) (w := w)
    0x90 (some s.time.fab) 0)
  have cnt : (modCtx (cntFreeze (begun s c)) c fun x => kset x w.d s.time.fab).cnt = (cntFreeze (begun s c)).cnt := rfl
  rw [cnt, frozen] at hf hs ht hc hl
  exact ⟨_, next, cnt_gave (cntFreeze_rel rfl ((begun_only s c).mono rfl)), hf, hs, ht, hc, hl⟩

theorem exec_snapRelease (releases : bit w.imm 0 = true) (stw : c < 2) (frozen : s.cnt.frozen = true) (h : Issues s c 0x90 w { imm := 1 }) :
    ∃ t, exec (.snapRelease c w) s = .next t ∧ Did [] s t c ∧ t.cnt.frozen = false ∧ t.cnt.shadow = s.cnt.shadow ∧ t.cnt.sel = s.cnt.sel := by
  have on : (begun s c).cnt.frozen = true := by rw [begun_cnt, frozen]
  have next : exec (.snapRelease c w) s = .next (endTurn (retireSt (cntRelease (begun s c)) c 0x90 w 0) c) := by
    refine Eq.trans (res_issues (congrArg (unitOk _) (if_neg (by rw [releases]; decide))) h
      (passes_cons (by rw [isStw, decide_eq_true stw]; rfl) passes_nil)) ?_
    dsimp only
    rw [if_pos on]
  have rel : Rel 12993538 s (cntRelease (begun s c)) := cntRelease_rel rfl ((begun_only s c).mono rfl)
  have counting : (cntRelease (begun s c)).cnt =
      { s.cnt with frozen := false, frozenNs := satAdd 0xFFFFFFFF s.cnt.frozenNs (mono (begun s c) - s.cnt.frozenAt) } := by
    rw [cntRelease, on, if_neg (by decide), begun_cnt]
  obtain ⟨hf, hs, -, -, hl⟩ := cnt_kept (ended_cnt (cntRelease (begun s c)) (c := c) (w := w) 0x90 none 0)
  rw [counting] at hf hs hl
  exact ⟨_, next, did_of rel (rel.regs rfl) rfl (by intro p hp; cases p <;> first | rfl | exact absurd (by decide) hp), hf, hs, hl⟩

/-! ## COUNT -/

/-- A COUNT instruction issues. -/
def CountIssues (s : State) (c : Nat) (w : Ox) : Prop :=
  Issues s c 0x91 w { mods := 3, d := true, imm := 0xF07F0FFF, B := if bit w.mod 1 then 2 ^ 64 - 1 else 0 }

theorem countChk_begun : countChk (begun s c) c w = countChk s c w := by
  obtain ⟨q, h⟩ := begun_eq s c
  rw [h]
  rfl

theorem exec_count (h : CountIssues s c w) (checks : passes (countChk s c w)) :
    exec (.count c w) s = .next (endTurn (if bit w.mod 1 then retireK (countSet (begun s c) w) c 0x91 w w.d 0
      else retireK (begun s c) c 0x91 w w.d (tget 0 (if bit w.mod 0 then s.cnt.shadow else s.cnt.bank) (countAddr w))) c) := by
  refine Eq.trans (res_issues rfl h (chk := fun s _ => countChk s c w) (by rw [countChk_begun]; exact checks)) ?_
  rw [begun_cnt]

theorem exec_count_reads (h : CountIssues s c w) (checks : passes (countChk s c w)) (read : bit w.mod 1 = false) :
    ∃ t, exec (.count c w) s = .next t ∧ t.cnt.sel = s.cnt.sel ∧
      Gave [] s t c w.d (tget 0 (if bit w.mod 0 then s.cnt.shadow else s.cnt.bank) (countAddr w)) := by
  have next := exec_count h checks
  rw [read, if_neg Bool.false_ne_true] at next
  obtain ⟨-, -, -, -, sel⟩ := cnt_kept (ended_cnt (modCtx (begun s c) c fun x =>
    kset x w.d (tget 0 (if bit w.mod 0 then s.cnt.shadow else s.cnt.bank) (countAddr w))) (c := c) (w := w) 0x91
    (some (tget 0 (if bit w.mod 0 then s.cnt.shadow else s.cnt.bank) (countAddr w))) 0)
  have cnt : (begun s c).cnt.sel = s.cnt.sel := by rw [begun_cnt]
  exact ⟨_, next, sel.trans cnt, cnt_gave ((begun_only s c).mono rfl)⟩

theorem countSet_global (scope : fld w.imm 28 4 = 0) : countSet s w = selSet s (gselAddr (fld w.imm 0 12)) w.B := by
  rw [countSet, countScope, scope]
  rfl

theorem countSet_tenant (scope : fld w.imm 28 4 = 1) : countSet s w =
    selSet s (tselAddr (fld w.imm 16 7) (fld w.imm 0 12)) (setFld (setFld w.B 28 1 0) 24 4 (fld w.imm 16 7)) := by
  rw [countSet, countScope, scope]
  rfl

theorem selSet_sel (a : Nat) (v : W64) : (selSet s a v).cnt.sel = tput 0 s.cnt.sel a v := rfl

theorem countSet_shadow : (countSet s w).cnt.shadow = s.cnt.shadow := by
  rw [countSet]
  split <;> rfl

theorem exec_count_programs (h : CountIssues s c w) (checks : passes (countChk s c w)) (prog : bit w.mod 1 = true) :
    ∃ t, exec (.count c w) s = .next t ∧ Gave [] s t c w.d 0 ∧ t.cnt.shadow = s.cnt.shadow ∧
      (fld w.imm 28 4 = 0 → t.cnt.sel = tput 0 s.cnt.sel (gselAddr (fld w.imm 0 12)) w.B) ∧
      (fld w.imm 28 4 = 1 → t.cnt.sel = tput 0 s.cnt.sel (tselAddr (fld w.imm 16 7) (fld w.imm 0 12))
        (setFld (setFld w.B 28 1 0) 24 4 (fld w.imm 16 7))) := by
  have next := exec_count h checks
  rw [prog, if_pos rfl] at next
  have kept := ended_cnt (modCtx (countSet (begun s c) w) c fun x => kset x w.d 0) (c := c) (w := w) 0x91 (some 0) 0
  rw [show (modCtx (countSet (begun s c) w) c fun x => kset x w.d 0).cnt = (countSet (begun s c) w).cnt from rfl] at kept
  obtain ⟨-, shadow, -, -, sel⟩ := cnt_kept kept
  rw [countSet_shadow, begun_cnt] at shadow
  refine ⟨_, next, cnt_gave (countSet_rel rfl ((begun_only s c).mono rfl)), shadow, fun scope => sel.trans ?_, fun scope => sel.trans ?_⟩
  · rw [countSet_global scope, selSet_sel, begun_cnt]
  · rw [countSet_tenant scope, selSet_sel, begun_cnt]

/-! ## LOG -/

theorem exec_log (h : Issues s c 0x92 w { a := true, imm := 0xFFFF }) :
    ∃ t, exec (.log c w) s = .next t ∧ Did [] s t c ∧
      (getCtx t c).log = (getCtx s c).log ++ [{ code := fld w.imm 0 16, value := kget (getCtx s c) w.a, time := s.time.fab }] := by
  let add (y : Ctx) : Ctx := { y with log := y.log ++ [{ code := fld w.imm 0 16, value := kget (getCtx s c) w.a, time := s.time.fab }] }
  have next : exec (.log c w) s = .next (endTurn (retireSt (modCtx (begun s c) c add) c 0x92 w 0) c) := by
    refine Eq.trans (res_issues rfl h passes_nil) ?_
    dsimp only
    rw [now_begun, begun_kget]
  have rel : Rel 12993538 s (modCtx (begun s c) c add) :=
    Rel.modCtx (c := c) (f := add) (fun _ => rfl) rfl ((begun_only s c).mono rfl)
  have kept : (getCtx (endTurn (retireSt (modCtx (begun s c) c add) c 0x92 w 0) c) c).log = (getCtx (modCtx (begun s c) c add) c).log := by
    rw [getCtx_endTurn]
    exact (retire_data _ _ _ _ _ _ _).log
  refine ⟨_, next, did_of rel (rel.regs rfl) rfl (by intro p hp; cases p <;> first | rfl | exact absurd (by decide) hp), kept.trans ?_⟩
  rw [getCtx_modCtx, if_pos rfl]
  exact congrArg (· ++ _) (begun_data s c c).log

/-- Settles O31, by the ops of BUDGET and PACE and the telemetry instructions. -/
theorem budgetPaceAndTelemetry : Obligations.BudgetPaceAndTelemetry := by
  unfold Obligations.BudgetPaceAndTelemetry
  refine ⟨fun s c w => ⟨fun h => ⟨exec_budgetCap h, exec_budgetLimit h, exec_budgetRead h⟩,
      fun h => ⟨exec_paceTarget h, exec_paceLoop h, exec_paceReadStatus h, exec_paceReadVcore h⟩⟩,
    fun s c w => ⟨exec_snapFreeze, exec_snapRelease, fun h checks => ?_, exec_log⟩⟩
  cases prog : bit w.mod 1
  · obtain ⟨t, next, reads⟩ := exec_count_reads h checks prog
    exact ⟨t, next, fun _ => reads, fun e => absurd e Bool.false_ne_true⟩
  · obtain ⟨t, next, programs⟩ := exec_count_programs h checks prog
    exact ⟨t, next, fun e => absurd e.symm Bool.false_ne_true, fun _ => programs⟩

end Sys2Proof.Proofs.BudgetAndTelemetry
end

section
/-!
SUPPORT. Proofs about the power arbiter's events and the pace (R31 to R40, R399 to R406).
-/

namespace Sys2Proof.Proofs.PowerEvents

open Sys2Proof Sys2Proof.Machine Sys2Proof.Safety Sys2Proof.Laws.AboutBudget

variable {s : State}

/-! ## The evaluation of the budget -/

/-- The levels after one class moved, unless class 4 has moved in this window already. -/
theorem levelOf_stepLevel {c : Nat} {up : Bool} (may : c = 4 → s.pwr.class4Moved = false) (j : Nat) :
    levelOf (stepLevel s c up) j = if j = c then (if up then levelOf s c + 1 else levelOf s c - 1) else levelOf s j := by
  have moves : ¬(c = 4 && s.pwr.class4Moved) = true := by
    rw [Bool.and_eq_true, decide_eq_true_eq]
    exact fun ⟨e, m⟩ => absurd (m.symm.trans (may e)) (by decide)
  rw [stepLevel, if_neg moves]
  exact tget_tput _ _ _ _ _

/-- A step toward the cap changes levels only. -/
theorem capStep_form (s : State) (use : Nat) : ∃ l b, capStep s use = { s with pwr := { s.pwr with level := l, class4Moved := b } } := by
  have step (c : Nat) (up : Bool) : ∃ l b, stepLevel s c up = { s with pwr := { s.pwr with level := l, class4Moved := b } } := by
    rw [stepLevel]
    split
    · exact ⟨s.pwr.level, s.pwr.class4Moved, rfl⟩
    · exact ⟨_, _, rfl⟩
  have none : ∃ l b, s = { s with pwr := { s.pwr with level := l, class4Moved := b } } := ⟨s.pwr.level, s.pwr.class4Moved, rfl⟩
  rw [capStep]
  split
  · split
    · exact step _ _
    · exact none
  · split
    · split
      · exact step _ _
      · exact none
    · exact none

/-- Where every class is within its own limit, an evaluation is one step toward the cap. -/
theorem exec_budgetEvaluation (within : ∀ k, 1 ≤ k → k ≤ 5 → fullCharge s k ≤ limitOf s k) :
    ∃ t, exec .budgetEvaluation s = .next t ∧ t.pwr.use = useOf s ∧ ∀ j, levelOf t j = levelOf (capStep s (useOf s)) j := by
  obtain ⟨l, b, form⟩ := capStep_form s (useOf s)
  refine ⟨_, rfl, rfl, fun j => ?_⟩
  show levelOf (limitSteps (capStep s (useOf s))) j = _
  rw [limitSteps_id within l b form]

theorem nextThrottle_first {k : Nat} (least : 1 ≤ k) (most : k ≤ 5) (room : levelOf s k < 8) (charged : 0 < fullCharge s k)
    (before : ∀ j, 1 ≤ j → j < k → 8 ≤ levelOf s j ∨ fullCharge s j = 0) : nextThrottle s = some k := by
  have here : (decide (levelOf s k < 8) && decide (0 < fullCharge s k)) = true := by
    rw [decide_eq_true room, decide_eq_true charged]
    rfl
  have earlier : ∀ j, 1 ≤ j → j < k → (decide (levelOf s j < 8) && decide (0 < fullCharge s j)) = false := by
    intro j h1 h2
    rcases before j h1 h2 with e | e
    · rw [decide_eq_false (Nat.not_lt.mpr e), Bool.false_and]
    · rw [e, decide_eq_false (Nat.lt_irrefl 0), Bool.and_false]
  rw [nextThrottle, List.find?_eq_some_iff_append]
  refine ⟨here, List.range' 1 (k - 1), List.range' (k + 1) (5 - k), ?_, fun j hj => ?_⟩
  · rcases (by omega : k = 1 ∨ k = 2 ∨ k = 3 ∨ k = 4 ∨ k = 5) with rfl | rfl | rfl | rfl | rfl <;> rfl
  · rw [List.mem_range'_1] at hj
    rw [earlier j hj.1 (by omega)]
    rfl

theorem nextRelease_first {k : Nat} (least : 1 ≤ k) (most : k ≤ 5) (raised : 0 < levelOf s k)
    (after : ∀ j, k < j → j ≤ 5 → levelOf s j = 0) : nextRelease s = some k := by
  rw [nextRelease, List.find?_eq_some_iff_append]
  refine ⟨decide_eq_true raised, (List.range' (k + 1) (5 - k)).reverse, (List.range' 1 (k - 1)).reverse, ?_, fun j hj => ?_⟩
  · rcases (by omega : k = 1 ∨ k = 2 ∨ k = 3 ∨ k = 4 ∨ k = 5) with rfl | rfl | rfl | rfl | rfl <;> rfl
  · rw [List.mem_reverse, List.mem_range'_1] at hj
    rw [after j (by omega) (by omega)]
    rfl

theorem capStep_throttles {use k : Nat} (above : effCap s < use) (first : nextThrottle s = some k) : capStep s use = stepLevel s k true := by
  rw [capStep, if_pos above, first]

theorem capStep_releases {use k : Nat} (spare : use + s.pwr.hyst ≤ effCap s) (first : nextRelease s = some k) :
    capStep s use = stepLevel s k false := by
  rw [capStep, if_neg (by omega), if_pos spare, first]

theorem capStep_stays {use : Nat} (under : use ≤ effCap s) (near : effCap s < use + s.pwr.hyst) : capStep s use = s := by
  rw [capStep, if_neg (by omega), if_neg (by omega)]

theorem moved_of {t : State} {k n : Nat} (levels : ∀ j, levelOf t j = if j = k then n else levelOf s j) :
    levelOf t k = n ∧ ∀ j, j ≠ k → levelOf t j = levelOf s j :=
  ⟨(levels k).trans (if_pos rfl), fun j hj => (levels j).trans (if_neg hj)⟩

/-! ## The arbiter's other events -/

theorem exec_capUnmet (long : 100 ≤ s.pwr.overRun) (new : s.pwr.capUnmet = false) :
    ∃ t, exec .capUnmet s = .next t ∧ t.pwr.capUnmet = true ∧ t.pwr.evCap = true ∧ t.cmd.pldmEvents = s.cmd.pldmEvents ++ [12] := by
  refine ⟨_, unitOk_next rfl (if_neg (by rw [new, decide_eq_false (Nat.not_lt.mpr long)]; decide)), ?_⟩
  have pwr (u : State) : (pldmEv (powerEv u) 12).pwr = u.pwr := (powerEv_f u).1
  have events (u : State) : (pldmEv (powerEv u) 12).cmd.pldmEvents = u.cmd.pldmEvents ++ [12] := congrArg (· ++ [12]) (powerEv_pldm u)
  rw [pwr, events]
  exact ⟨rfl, rfl, rfl⟩

theorem exec_trainingBurstGrant {q : Nat} {l : List Nat} (waits : s.pwr.trainWait = q :: l) (fits : useOf s ≤ effCap s) (room : levelOf s 5 < 8) :
    exec .trainingBurstGrant s = .next { s with pwr := { s.pwr with trainWait := l, trainBurst := s.pwr.trainBurst ++ [q] } } := by
  refine unitOk_next rfl ?_
  rw [waits]
  exact if_pos (by rw [decide_eq_true fits, decide_eq_true room]; rfl)

theorem exec_avsWriteFailure : ∃ t, exec .avsWriteFailure s = .next t ∧ t.pwr.avsFault = true ∧ t.pwr.evAvs = true := by
  refine ⟨_, unitOk_next rfl rfl, ?_⟩
  by_cases h : s.pwr.evAvs = true
  · rw [if_pos h]
    exact ⟨rfl, rfl⟩
  · rw [if_neg h, (powerEv_f _).1]
    exact ⟨rfl, rfl⟩

/-- Whether some core sensor is at t_hot. -/
theorem anyHot_iff : ((List.range 8).any fun i => decide (tHot s ≤ tempOf s i)) = true ↔ ∃ i, i < 8 ∧ tHot s ≤ tempOf s i := by
  simp only [List.any_eq_true, List.mem_range, decide_eq_true_eq]

theorem allCool_iff : ((List.range 8).all fun i => decide (tempOf s i + 5 < tHot s)) = true ↔ ∀ i, i < 8 → tempOf s i + 5 < tHot s := by
  simp only [List.all_eq_true, List.mem_range, decide_eq_true_eq]

theorem exec_thermalCapStep : ∃ t, exec .thermalCapStep s = .next t ∧
    ((∃ i, i < 8 ∧ tHot s ≤ tempOf s i) → t.pwr.tcap = max 800 (s.pwr.tcap - 10)) ∧
    ((∀ i, i < 8 → tempOf s i + 5 < tHot s) → t.pwr.tcap = min 1650 (s.pwr.tcap + 10)) ∧
    ((∀ i, i < 8 → tempOf s i < tHot s) → (∃ i, i < 8 ∧ tHot s ≤ tempOf s i + 5) → t.pwr.tcap = s.pwr.tcap) := by
  refine ⟨_, rfl, fun hot => if_pos (anyHot_iff.mpr hot), fun cool => ?_, fun below near => ?_⟩
  · have none : ¬((List.range 8).any fun i => decide (tHot s ≤ tempOf s i)) = true := fun h => by
      obtain ⟨i, hi, hot⟩ := anyHot_iff.mp h
      have := cool i hi
      omega
    exact (if_neg none).trans (if_pos (allCool_iff.mpr cool))
  · have none : ¬((List.range 8).any fun i => decide (tHot s ≤ tempOf s i)) = true := fun h => by
      obtain ⟨i, hi, hot⟩ := anyHot_iff.mp h
      have := below i hi
      omega
    have some : ¬((List.range 8).all fun i => decide (tempOf s i + 5 < tHot s)) = true := fun h => by
      obtain ⟨i, hi, near⟩ := near
      have := allCool_iff.mp h i hi
      omega
    exact (if_neg none).trans (if_neg some)

/-- Notices to the hosts leave the power block. -/
theorem noticed_pwr (u : State) (b : Bool) (n : Nat) : (if b = true then pldmEv (powerEv u) n else u).pwr = u.pwr := by
  split
  · exact (powerEv_f u).1
  · rfl

theorem getD_mod (l : List Nat) (i : Nat) : (l.map fun t => t % 256).getD i 0 = l.getD i 0 % 256 := by
  rw [List.getD_eq_getElem?_getD, List.getD_eq_getElem?_getD, List.getElem?_map]
  cases l[i]? <;> rfl

theorem exec_tempRefresh {l : List Nat} (nine : l.length = 9) : ∃ t, exec (.tempRefresh l) s = .next t ∧ ∀ i, i < 9 →
    tempOf t i = l.getD i 0 % 256 ∧ tget 0 t.pwr.peak i = max (tget 0 s.pwr.peak i) (l.getD i 0 % 256) := by
  refine ⟨_, unitOk_next (beq_iff_eq.mpr nine) rfl, fun i hi => ?_⟩
  rw [tempOf, noticed_pwr, noticed_pwr]
  dsimp only
  rw [fold_put, fold_max _ _ List.nodup_range, if_pos (List.mem_range.mpr hi), if_pos (List.mem_range.mpr hi), getD_mod]
  exact ⟨rfl, rfl⟩

/-! ## The pace -/

/-- The state at a window's end, with its pace and charge stored (R31, R399). -/
def windowed (s : State) (p amps : Nat) : State :=
  { s with
    pace := { s.pace with valid := true, pace := p, runLog2 := windowLog s.pace.windowLog2
                          hourPace := some (match s.pace.hourPace with | some m => min m p | none => p)
                          hourVcore := max s.pace.hourVcore s.pwr.vcore }
    pwr := { s.pwr with coreCharge := s.pwr.vcore * amps / 100, class4Moved := false } }

/-- The core voltage at its highest, or not steered: a low pace counts toward the floor alarm (R39). -/
def isLow (s : State) (p : Nat) : Bool := decide (p < s.pace.floor) && (!s.pwr.loopEn || s.pwr.vcore == 850)

theorem windowEnd_pace (probe amps : Nat) (p : Nat) :
    (cntAdd (loopEval (floorStep (windowed s p amps) p) p) 0x90018 probe).pace = (floorStep (windowed s p amps) p).pace := by
  rw [(cntAdd_f _ _ _).2, loopEval_pace]

theorem windowEnd_vcore (probe amps : Nat) (p : Nat) :
    (cntAdd (loopEval (floorStep (windowed s p amps) p) p) 0x90018 probe).pwr.vcore =
      if s.pwr.loopEn = false then s.pwr.vcore else loopStep (windowed s p amps) p := by
  have steered {u : State} (h : u.pwr = (windowed s p amps).pwr) : loopStep u p = loopStep (windowed s p amps) p := by
    have target : effTarget u = effTarget (windowed s p amps) := by
      rw [effTarget, capTarget, levelOf, h, effTarget, capTarget, levelOf]
    rw [loopStep, target, h, loopStep]
  rw [(cntAdd_f _ _ _).1, loopEval_vcore, floorStep_pwr, steered (floorStep_pwr _ _)]
  rfl

theorem loopStep_cases (u : State) (p : Nat) : loopStep u p = if p < effTarget u ∧ u.pwr.vcore < 850 then min (u.pwr.vcore + 5) 850
    else if effTarget u + u.pwr.paceHyst < p ∧ 650 < u.pwr.vcore then max (u.pwr.vcore - 5) 650 else u.pwr.vcore := by
  simp only [loopStep, Bool.and_eq_true, decide_eq_true_eq]

/-- The run of low windows after one more. -/
def lowRunAfter (s : State) (p : Nat) : Nat := if isLow s p then s.pace.lowRun + 1 else 0

theorem floorStep_off {u : State} {p : Nat} (off : u.pace.floorAlarm = false) : floorStep u p =
    if lowRunAfter u p = 4 then powerEv { u with pace := { u.pace with floorAlarm := true, lowRun := 0 } }
    else { u with pace := { u.pace with lowRun := lowRunAfter u p } } := by
  rw [floorStep, off]
  exact if_neg Bool.false_ne_true

theorem floorStep_values (u : State) (p : Nat) : (floorStep u p).pace.valid = u.pace.valid ∧ (floorStep u p).pace.pace = u.pace.pace ∧
    (floorStep u p).pace.runLog2 = u.pace.runLog2 := by
  cases off : u.pace.floorAlarm
  · rw [floorStep_off off]
    split
    · rw [(powerEv_f _).2]
      exact ⟨rfl, rfl, rfl⟩
    · exact ⟨rfl, rfl, rfl⟩
  · rw [floorStep, off, if_pos rfl]
    exact ⟨rfl, rfl, rfl⟩

theorem floorStep_run {u : State} {p : Nat} (off : u.pace.floorAlarm = false) :
    (isLow u p = false → (floorStep u p).pace.lowRun = 0 ∧ (floorStep u p).pace.floorAlarm = false) ∧
    (isLow u p = true → u.pace.lowRun = 3 → (floorStep u p).pace.floorAlarm = true) ∧
    (isLow u p = true → u.pace.lowRun < 3 →
      (floorStep u p).pace.floorAlarm = false ∧ (floorStep u p).pace.lowRun = u.pace.lowRun + 1) := by
  rw [floorStep_off off, lowRunAfter]
  refine ⟨fun high => ?_, fun low third => ?_, fun low fewer => ?_⟩
  · rw [high, if_neg Bool.false_ne_true, if_neg (by decide)]
    exact ⟨rfl, off⟩
  · rw [low, if_pos rfl, third, if_pos rfl, (powerEv_f _).2]
  · rw [low, if_pos rfl, if_neg (by omega)]
    exact ⟨off, rfl⟩

theorem exec_paceWindowEnd (probe amps : Nat) :
    let p := probe / 2 ^ s.pace.runLog2 % 65536
    ∃ t, exec (.paceWindowEnd probe amps) s = .next t ∧ t.pace.valid = true ∧ t.pace.pace = p ∧
      t.pace.runLog2 = min 10 s.pace.windowLog2.toNat ∧
      t.pwr.vcore = (if s.pwr.loopEn = false then s.pwr.vcore
        else if p < effTarget (windowed s p amps) ∧ s.pwr.vcore < 850 then min (s.pwr.vcore + 5) 850
        else if effTarget (windowed s p amps) + s.pwr.paceHyst < p ∧ 650 < s.pwr.vcore then max (s.pwr.vcore - 5) 650 else s.pwr.vcore) ∧
      (s.pace.floorAlarm = false → (isLow s p = false → t.pace.lowRun = 0 ∧ t.pace.floorAlarm = false) ∧
        (isLow s p = true → s.pace.lowRun = 3 → t.pace.floorAlarm = true) ∧
        (isLow s p = true → s.pace.lowRun < 3 → t.pace.floorAlarm = false ∧ t.pace.lowRun = s.pace.lowRun + 1)) := by
  intro p
  obtain ⟨valid, pace, run⟩ := floorStep_values (windowed s p amps) p
  refine ⟨cntAdd (loopEval (floorStep (windowed s p amps) p) p) 0x90018 probe, rfl, ?_⟩
  rw [windowEnd_pace, windowEnd_vcore, loopStep_cases, valid, pace, run]
  exact ⟨rfl, rfl, rfl, rfl, fun off => floorStep_run (u := windowed s p amps) off⟩

theorem exec_paceHistoryHour (tj : Nat) : ∃ t, exec (.paceHistoryHour tj) s = .next t ∧
    t.pace.hist = (s.pace.hist ++ [paceEntry s]).drop (s.pace.hist.length + 1 - 256) ∧ t.pace.hourIdx = s.pace.hourIdx + 1 ∧
    t.glb.ageHours = s.glb.ageHours + 1 := by
  refine ⟨_, rfl, ?_, rfl, rfl⟩
  rw [List.length_append, List.length_singleton]

theorem exec_paceTargetWrite (w : W32) : ∃ t, exec (.paceTargetWrite w) s = .next t ∧ t.pwr.loopEn = bit w 31 ∧ t.pwr.paceHyst = fld w 16 12 ∧
    t.pwr.target = (if fld w 0 16 < 1250 then 1250 else if 2400 < fld w 0 16 then 2400 else fld w 0 16) :=
  ⟨_, rfl, rfl, rfl, Laws.AboutPower.clampT _⟩

theorem exec_paceCtrlWrite (w : W32) : ∃ t, exec (.paceCtrlWrite w) s = .next t ∧ t.pace.windowLog2 = BitVec.ofNat 4 (fld w 16 4) ∧
    t.pace.floorAlarm = (s.pace.floorAlarm && !bit w 31) ∧
    (bit s.glb.lock 4 = false → t.pace.floor = fld w 0 16) ∧ (bit s.glb.lock 4 = true → t.pace.floor = s.pace.floor) := by
  have logged (u : State) (b : Bool) (a code : Nat) : (if b = true then logAt u a code else u).pace = u.pace := by
    split
    · exact (logAt_rel (ch := 131072) rfl (Rel.refl u)).f3 rfl
    · rfl
  refine ⟨paceCtrlWrite s w, rfl, ?_⟩
  rw [paceCtrlWrite, logged]
  refine ⟨rfl, rfl, fun unlocked => ?_, fun locked => ?_⟩
  · exact if_neg (by rw [unlocked]; exact Bool.false_ne_true)
  · exact if_pos locked

/-- Settles O32, by the step toward the cap and the events of the arbiter and of the pace. -/
theorem powerAndPaceEvents : Obligations.PowerAndPaceEvents := by
  unfold Obligations.PowerAndPaceEvents
  refine ⟨fun s within => ?_, fun s => ⟨exec_capUnmet, fun _ _ => exec_trainingBurstGrant, exec_avsWriteFailure, exec_thermalCapStep,
      fun _ => exec_tempRefresh⟩,
    fun s => ⟨exec_paceWindowEnd, exec_paceHistoryHour, exec_paceTargetWrite, exec_paceCtrlWrite⟩⟩
  have sum : useOf s = charge s 0 + charge s 1 + charge s 2 + charge s 3 + charge s 4 + charge s 5 := by
    simp only [useOf, sumBy, List.foldl_cons, List.foldl_nil, Nat.zero_add]
  obtain ⟨t, next, use, levels⟩ := exec_budgetEvaluation within
  rw [← sum]
  refine ⟨t, next, use, fun above k least most room charged may before => ?_, fun spare k least most raised may after => ?_, fun under near j => ?_⟩
  · refine moved_of fun j => ?_
    rw [levels, capStep_throttles above (nextThrottle_first least most room charged before), levelOf_stepLevel may, if_pos rfl]
  · refine moved_of fun j => ?_
    rw [levels, capStep_releases spare (nextRelease_first least most raised after), levelOf_stepLevel may, if_neg Bool.false_ne_true]
  · rw [levels, capStep_stays under near]

end Sys2Proof.Proofs.PowerEvents
end

section
/-!
SUPPORT. Proofs about the registers that act when they are written (R101, R138, R211, R437, R440, R445, R449, R452).
-/

namespace Sys2Proof.Proofs.Strobes

open Sys2Proof Sys2Proof.Machine Sys2Proof.Safety Sys2Proof.Laws.AboutStrobes

variable {s : State}

/-! ## Freeze, release and selectors -/

theorem exec_counterFreezeWrite (counting : s.cnt.frozen = false) : ∃ t, exec .counterFreezeWrite s = .next t ∧ t.cnt.frozen = true ∧
    t.cnt.shadow = s.cnt.bank ∧ t.cnt.bank = s.cnt.bank ∧ t.cnt.snapTime = s.time.fab ∧ t.cnt.copying = true :=
  ⟨_, unitOk_next rfl (if_neg (by rw [counting]; exact Bool.false_ne_true)), rfl, rfl, rfl, rfl, rfl⟩

theorem cntRelease_frozen (frozen : s.cnt.frozen = true) : cntRelease s =
    { s with cnt := { s.cnt with frozen := false, frozenNs := satAdd 0xFFFFFFFF s.cnt.frozenNs (mono s - s.cnt.frozenAt) } } :=
  if_neg (by rw [frozen]; decide)

theorem exec_counterReleaseWrite (frozen : s.cnt.frozen = true) : ∃ t, exec .counterReleaseWrite s = .next t ∧ t.cnt.frozen = false ∧
    t.cnt.shadow = s.cnt.shadow ∧ t.cnt.bank = s.cnt.bank :=
  ⟨_, unitOk_next rfl (cntRelease_frozen frozen), rfl, rfl, rfl⟩

theorem cntRelease_running (u : State) : (cntRelease u).cnt.frozen = false ∧ (cntRelease u).cnt.copying = u.cnt.copying := by
  cases h : u.cnt.frozen
  · rw [cntRelease, h]
    exact ⟨h, rfl⟩
  · rw [cntRelease_frozen h]
    exact ⟨rfl, rfl⟩

/-- The state with its shadow copied. -/
def copied (s : State) : State := { s with cnt := { s.cnt with copying := false } }

/-- The end of the copy releases the counters where `auto_release` asks for it. -/
theorem exec_shadowCopyEnd (copying : s.cnt.copying = true) : ∃ t, exec .shadowCopyEnd s = .next t ∧ t.cnt.copying = false ∧
    t.cnt.frozen = (s.cnt.frozen && !s.cnt.autoRelease) := by
  refine ⟨if s.cnt.autoRelease then cntRelease (copied s) else copied s, unitOk_next rfl (if_neg (by rw [copying]; decide)), ?_⟩
  obtain ⟨running, kept⟩ := cntRelease_running (copied s)
  cases s.cnt.autoRelease
  · rw [if_neg Bool.false_ne_true, Bool.not_false, Bool.and_true]
    exact ⟨rfl, rfl⟩
  · rw [if_pos rfl, Bool.not_true, Bool.and_false]
    exact ⟨kept, running⟩

/-- A global selector drives the counter of its own number. -/
theorem selCounter_gsel {n : Nat} (hn : n < 512) : selCounter (gselAddr n) = gcntAddr n := by
  rw [selCounter, gselAddr, if_pos (by omega), Nat.add_sub_cancel_left, Nat.mul_div_cancel_left n (by decide)]

theorem exec_selectorWrite {n : Nat} {v : W64} (hn : n < 512) (defined : codeOk (fld v 0 16) = true) :
    ∃ t, exec (.selectorWrite n v) s = .next t ∧
      (∀ a, tget 0 t.cnt.sel a = if a = gselAddr n then v &&& 0x3FFFFFFF else tget 0 s.cnt.sel a) ∧
      ∀ a, tget 0 t.cnt.bank a = if a = gcntAddr n then 0 else tget 0 s.cnt.bank a := by
  refine ⟨selSet s (gselAddr n) (v &&& 0x3FFFFFFF), unitOk_next (decide_eq_true hn) (if_pos defined),
    fun a => tget_tput (0 : W64) s.cnt.sel _ _ a, fun a => ?_⟩
  rw [← selCounter_gsel hn]
  exact tget_tput (0 : W64) s.cnt.bank (selCounter (gselAddr n)) 0 a

/-! ## Logs -/

theorem exec_unitLogClear {v : W32} (strobe : bit v 31 = true) : ∃ t, exec (.unitLogClear v) s = .next t ∧
    ∀ k, tget {} t.cnt.logs k = if k = logKey ⟨fld v 24 4, fld v 16 7⟩ (fld v 30 1) then {} else tget {} s.cnt.logs k :=
  ⟨_, unitOk_next rfl ((if_pos strobe).trans (if_pos strobe)), fun k => tget_tput ({} : ULog) s.cnt.logs _ {} k⟩

/-- A strobe that changes one channel. -/
theorem chan_clears {i : Instr} {ch : Nat} {f : Chan → Chan} (hch : ch < 12) (run : exec i s = unitOk (ch < 12) (modChan s ch f)) :
    ∃ t, exec i s = .next t ∧ getChan t ch = f (getChan s ch) ∧ ∀ j, j ≠ ch → getChan t j = getChan s j :=
  ⟨_, run.trans (unitOk_of (decide_eq_true hch) _), (getChan_mod _ _ _ _).trans (if_pos rfl), fun _ hj => (getChan_mod _ _ _ _).trans (if_neg hj)⟩

/-! ## Indirect windows, peaks and histograms -/

/-- The window takes the selected meter's words, and the meters stay. -/
theorem exec_meterSelectWrite {q : Nat} (v : W32) (hq : q < 12) : ∃ t, exec (.meterSelectWrite q v) s = .next t ∧
    (getQuire t q).mtrData = (List.range 6).map (meterWord (getMeter s q (fld v 0 11))) ∧ ∀ j m, getMeter t j m = getMeter s j m := by
  refine ⟨meterSelWrite s q v, unitOk_of (decide_eq_true hq) _, ?_, fun j m => ?_⟩
  · rw [meterSelWrite, getQuire_modQuire, if_pos rfl]
    rfl
  · rw [getMeter, meterSelWrite, getQuire_modQuire]
    split <;> rfl

theorem exec_histClear {o : Nat} (ho : o < 109) : ∃ t, exec (.histClear o) s = .next t ∧ ∀ p n, n < 16 →
    getQ t p n = if p = o then { getQ s p n with depth := [], delay := [] } else getQ s p n := by
  refine ⟨histClear s o, unitOk_of (decide_eq_true ho) _, fun p n hn => ?_⟩
  rw [histClear, histFold (List.range 16) List.nodup_range (fun _ h => List.mem_range.mp h) s o p n hn]
  exact ite_congr (propext (and_iff_left (List.mem_range.mpr hn))) (fun _ => rfl) (fun _ => rfl)

/-- Settles O33, strobe by strobe. -/
theorem registerStrobes : Obligations.RegisterStrobes := by
  unfold Obligations.RegisterStrobes
  exact fun s => ⟨exec_counterFreezeWrite, exec_counterReleaseWrite, exec_shadowCopyEnd, fun _ _ => exec_selectorWrite, fun _ => exec_unitLogClear,
    fun _ => ⟨_, rfl, rfl, rfl⟩, fun _ => ⟨_, rfl, rfl, rfl⟩, fun _ => ⟨_, rfl, rfl, rfl⟩, fun _ v hq => exec_meterSelectWrite v hq,
    fun _ => ⟨_, rfl, rfl, rfl⟩, fun _ => ⟨_, rfl, rfl⟩, ⟨_, rfl, rfl⟩, fun _ => exec_histClear, ⟨_, rfl, rfl⟩, ⟨_, rfl, rfl⟩, ⟨_, rfl, rfl⟩,
    fun ch hch => chan_clears (i := .ceLogClear ch) (f := fun x => { x with ceLog := [], ceOvf := 0 }) hch rfl,
    fun ch hch => chan_clears (i := .ueLogClear ch) (f := fun x => { x with ueLog := [], ueOvf := 0 }) hch rfl⟩

end Sys2Proof.Proofs.Strobes
end

section
/-!
SUPPORT. Proofs about accesses to the registers and the program store: what a served access does, and what one that the deckle table
refuses leaves (R201, R206, R221, R409, R410, R448). The halves of a pair stand with the pairs.
-/

namespace Sys2Proof.Proofs.RegisterAccess

open Sys2Proof Sys2Proof.Machine Sys2Proof.Safety Sys2Proof.Laws.AboutMachine Sys2Proof.Laws.AboutAccess Sys2Proof.Proofs.Pairs

variable {s : State} {m : Master} {a : Nat}

/-! ## Writes of a register -/

/-- A register that is no half of a pair takes its write at once. -/
theorem csrWrite_single (o : WriteOpen s m a) (single : pairVal s a = none) (noHigh : 4 ≤ a → pairVal s (a - 4) = none) (v : W32) :
    csrWrite s m a v = regWrite s m a v := by
  have high : (if 4 ≤ a then pairVal s (a - 4) else none) = none := by
    split
    · exact noHigh ‹_›
    · rfl
  simp [csrWrite, o.window, o.tenant, o.free, o.steward_passes, o.ring, single, high]

theorem exec_regWriteGeneral_single (aligned : a % 4 = 0) (inMap : a < 2 ^ 24) (served : csrGate s m a true = .serve) (o : WriteOpen s m a)
    (single : pairVal s a = none) (noHigh : 4 ≤ a → pairVal s (a - 4) = none) (v : W32) :
    exec (.regWriteGeneral m a v) s = .next (regWrite s m a v) :=
  unitOk_next rfl (by rw [busWrite_served aligned inMap served, csrWrite_single o single noHigh])

theorem busWrite_gate (aligned : a % 4 = 0) (inMap : a < 2 ^ 24) (v : W32) : busWrite s m a v =
    match csrGate s m a true with
    | .serve => csrWrite s m a v
    | .standby => standbyWrite s ((linkOf m).getD 0) a v
    | .deny x => gateLog s m 3 a true x 1
    | _ => s := by
  have fits : (a % 4 != 0 || decide (2 ^ 24 ≤ a)) = false := by rw [aligned, decide_eq_false (by omega)]; rfl
  exact if_neg (ne_true_of_eq_false fits)

theorem exec_regWriteGeneral_denied {x : Verdict} (aligned : a % 4 = 0) (inMap : a < 2 ^ 24) (denied : csrGate s m a true = .deny x)
    (v : W32) : ∃ t, exec (.regWriteGeneral m a v) s = .next t ∧ onlyIn [.dkl, .seq, .cnt, .cmd, .out, .deckles] s t ∧
      t.dkl.tab = s.dkl.tab :=
  ⟨gateLog s m 3 a true x 1, unitOk_next rfl (by rw [busWrite_gate aligned inMap, denied]),
    touch (m := 4326914 + 2 ^ 28) (by decide) (gateLog_rel rfl (.refl s)), gl_tab _ _ _ _ _ _ _⟩

theorem exec_regWriteGeneral_shut (shut : csrGate s m a true = .closed ∨ csrGate s m a true = .absent) (v : W32) :
    exec (.regWriteGeneral m a v) s = .next s := by
  refine unitOk_next rfl ?_
  rw [busWrite]
  split
  · rfl
  · obtain h | h := shut <;> rw [h]

/-! ## The program store -/

theorem storeBytes_passed {b : List Byte} (passed : dklLines s (masterChk m 2 a true) (lineCount a b.length) = none) :
    storeBytes s m a b = psWrite s a b := by
  rw [storeBytes, passed]

theorem storeWrite_passed {b : List Byte} (some_bytes : b ≠ []) (inStore : a + b.length ≤ 2 ^ 20) (running : s.glb.inReset = false)
    (noLink : linkOf m = none) (passed : dklLines s (masterChk m 2 a true) (lineCount a b.length) = none) :
    storeWrite s m a b = psWrite s a b := by
  have taken : (b.isEmpty || decide (2 ^ 20 < a + b.length) || s.glb.inReset) = false := by
    rw [running, decide_eq_false (by omega), List.isEmpty_eq_false_iff.2 some_bytes]; rfl
  rw [storeWrite, taken, noLink]
  exact storeBytes_passed passed

theorem onlyIn_psWrite (b : List Byte) : onlyIn [.seq, .store] s (psWrite s a b) :=
  touch (m := 67109888) (by decide) (psWrite_rel rfl (.refl s))

theorem exec_programStoreWrite {b : List Byte} (some_bytes : b ≠ []) (inStore : a + b.length ≤ 2 ^ 20) (running : s.glb.inReset = false)
    (noLink : linkOf m = none) (passed : dklLines s (masterChk m 2 a true) (lineCount a b.length) = none) :
    ∃ t, exec (.programStoreWrite m a b) s = .next t ∧ t.seq.ps = wrBytes s.seq.ps a b ∧ onlyIn [.seq, .store] s t ∧
      ∀ c, getCtx t c = getCtx s c :=
  ⟨psWrite s a b, unitOk_next rfl (storeWrite_passed some_bytes inStore running noLink passed), rfl, onlyIn_psWrite b, fun _ => rfl⟩

/-! ## BAR0 -/

/-- The first dword of four bytes is their number. -/
theorem dwOf_four {b : List Byte} (four : b.length = 4) : dwOf b 0 = BitVec.ofNat 32 (leNat b) := by
  match b, four with
  | [_, _, _, _], _ => rfl

/-- The BAR0 access of one aligned dword on a live link. -/
theorem exec_barAccess_dword {l : Nat} {b : List Byte} (link : l < 2) (live : linkLive s l = true) (four : b.length = 4)
    (aligned : a % 4 = 0) (inMap : a + 4 ≤ 2 ^ 24) (write : Bool) :
    exec (.barAccess l 0 a write b) s =
      .next (if write then barWriteDw s l 0 a (dwOf b 0) else barRead s l 0 a 4) := by
  have unit : (decide (l < 2) && ((0 : Nat) == 0 || (0 : Nat) == 2 || (0 : Nat) == 4)) = true := by rw [decide_eq_true link]; rfl
  have taken : (!linkLive s l || decide (b.length = 0) || decide (2 ^ 24 < a + b.length)) = false := by
    rw [live, four, decide_eq_false (by omega : ¬ 2 ^ 24 < a + 4)]; rfl
  have dw : dwOk a b.length = true := by rw [four, dwOk, aligned]; rfl
  refine unitOk_next unit ?_
  dsimp only
  rw [if_pos rfl, taken, dw, four]
  cases write <;> rfl

theorem exec_barAccess_write {l : Nat} {b : List Byte} (link : l < 2) (live : linkLive s l = true) (four : b.length = 4)
    (aligned : a % 4 = 0) (inMap : a + 4 ≤ 2 ^ 24) :
    exec (.barAccess l 0 a true b) s = .next (busWrite s (linkMaster l) a (BitVec.ofNat 32 (leNat b))) := by
  rw [exec_barAccess_dword link live four aligned inMap, if_pos rfl, dwOf_four four]
  rfl

theorem exec_barAccess_read {l : Nat} {b : List Byte} {v : W32} {r : State} (link : l < 2) (live : linkLive s l = true)
    (four : b.length = 4) (aligned : a % 4 = 0) (inMap : a + 4 ≤ 2 ^ 24) (word : busRead s (linkMaster l) a = (some v, r)) :
    exec (.barAccess l 0 a false b) s = .next { r with out := r.out ++ [.barData l (natLe 4 v.toNat)] } := by
  rw [exec_barAccess_dword link live four aligned inMap, if_neg Bool.false_ne_true, barRead, barReadDw, if_pos rfl, word]
  rfl

/-! ## The debug master -/

theorem exec_debugAccess_store {w : W64} (aligned : a % 8 = 0) (inStore : a + 8 ≤ 2 ^ 20) (running : s.glb.inReset = false)
    (enabled : s.glb.tapEn = true) (straps : s.stk.strapFault = false)
    (passed : debugRefusal s { space := 2, addr := a, stw := true, ten := 0, dst := 0, r := false, w := true } = none) :
    exec (.debugAccess .ps a 0 true w) s =
      .next (psWrite { s with tap := { s.tap with refused := false } } a (natLe 8 w.toNat)) := by
  have fits : (a % 8 == 0 && decide (a + 8 ≤ spaceSize 2)) = true := by
    rw [aligned, decide_eq_true (show a + 8 ≤ spaceSize 2 from inStore)]; rfl
  have taken : (s.glb.inReset || !s.glb.tapEn || s.stk.strapFault || !(a % 8 == 0 && decide (a + 8 ≤ spaceSize 2))) = false := by
    rw [running, enabled, straps, fits]; rfl
  refine unitOk_next rfl (Eq.trans (if_neg (ne_true_of_eq_false taken)) ?_)
  exact congrArg (fun refusal => match refusal with
    | some k => dklLog { s with tap := { s.tap with refused := true } } k none 2 115 (a / 64) 0 1
    | none => psWrite { s with tap := { s.tap with refused := false } } a (natLe 8 w.toNat)) passed

/-- Settles O34: what each access does where it is served, and that one refused by the deckle table is only logged. -/
theorem registerAccess : Obligations.RegisterAccess := by
  unfold Obligations.RegisterAccess
  intro s m a v
  refine ⟨?write, ?read, fun x aligned inMap denied => exec_regWriteGeneral_denied aligned inMap denied v,
    fun shut => exec_regWriteGeneral_shut shut v,
    fun b some_bytes inStore running noLink passed => exec_programStoreWrite some_bytes inStore running noLink passed, ?bar, ?debug⟩
  case write =>
    rintro aligned inMap served ⟨window, tenant, free, steward, ring⟩
    have o : WriteOpen s m a := ⟨window, tenant, free, steward, ring⟩
    refine ⟨fun p low => ⟨_, exec_regWriteGeneral_low aligned inMap served o low v, Laws.AboutMachine.latch_get _ _ _ _, onlyIn_pairLo _ _⟩,
      fun single noHigh => exec_regWriteGeneral_single aligned inMap served o single noHigh v, ?_⟩
    intro p four notLow low
    obtain ⟨b, rfl⟩ : ∃ b, a = b + 4 := ⟨a - 4, by omega⟩
    rw [Nat.add_sub_cancel] at low ⊢
    exact exec_pairHighWrite (by omega) (by omega) served o notLow low v
  case read =>
    intro aligned inMap served window p low
    exact ⟨_, exec_pairLowRead aligned served window low, rfl, Laws.AboutMachine.latch_get _ _ _ _, onlyIn_pairHi_emit _ _ _⟩
  case bar =>
    intro l b link live four aligned inMap
    exact ⟨exec_barAccess_write link live four aligned inMap,
      fun r word => exec_barAccess_read link live four aligned inMap word⟩
  case debug =>
    intro w aligned inStore running enabled straps passed
    exact ⟨_, exec_debugAccess_store aligned inStore running enabled straps passed, rfl, rfl⟩

end Sys2Proof.Proofs.RegisterAccess
end

section
/-!
SUPPORT. Proofs about messages that enter the core: a red one seen again by its meter (R123), and a request at the centre (R197).
-/

namespace Sys2Proof.Proofs.MessagesEnter

open Sys2Proof Sys2Proof.Machine Sys2Proof.Safety Sys2Proof.Laws.AboutMachine Sys2Proof.Laws.AboutIngress

variable {s : State} {p : Nat}

/-- The message that a search of the core finds is the one its number finds, where no other bears the number. -/
theorem find_id {q : Pkt → Bool} {k : Pkt} (found : s.core.pkts.find? q = some k)
    (alone : ∀ j, s.core.pkts.find? (fun x => x.id == k.id) = some j → j = k) :
    s.core.pkts.find? (fun x => x.id == k.id) = some k := by
  cases byId : s.core.pkts.find? (fun x => x.id == k.id) with
  | none => exact absurd (List.find?_eq_none.1 byId k (List.mem_of_find?_eq_some found)) (by simp)
  | some j => rw [alone j byId]

/-! ## Red messages -/

/-- The oldest red message of a port. -/
def redHead (s : State) (p : Nat) : Option Pkt := s.core.pkts.find? fun k => k.ing == p && k.stage == .heldRed

section
variable {k : Pkt} (found : redHead s p = some k)
include found

theorem redEval_unmetered (none : meterIdx (getPort s p) k.msg k.prio = none) :
    redEval p s = modPkt s k.id fun k => { k with stage := .staged } := by
  have found : s.core.pkts.find? (fun k => k.ing == p && k.stage == .heldRed) = some k := found
  rw [redEval, found]
  dsimp only
  rw [none]

/-- What the meter says of a red message, and what it leaves. -/
theorem redEval_metered {i : Nat} (metered : meterIdx (getPort s p) k.msg k.prio = some i) (on : (getMeter s (p / 8) i).on = true) :
    redEval p s =
      let r := meterEval (getMeter s (p / 8) i) (mono s) (meterLen (getMeter s (p / 8) i) k.msg)
      let t := modMeter s (p / 8) i fun _ => r.2
      if r.1 = .red then t else modPkt t k.id fun k => { k with stage := .staged, prio := demote r.1 k.prio } := by
  have found : s.core.pkts.find? (fun k => k.ing == p && k.stage == .heldRed) = some k := found
  have quire : quireOf p = p / 8 := rfl
  rw [redEval, found]
  dsimp only
  rw [metered]
  dsimp only
  rw [quire, on]
  rfl

variable (alone : ∀ j, s.core.pkts.find? (fun x => x.id == k.id) = some j → j = k)
include alone

theorem exec_redMessageReevaluation_unmetered (port : p < 96) (none : meterIdx (getPort s p) k.msg k.prio = none) :
    ∃ t, exec (.redMessageReevaluation p) s = .next t ∧ ∃ k' ∈ t.core.pkts, k'.id = k.id ∧ k'.stage = .staged ∧ k'.prio = k.prio :=
  ⟨_, unitOk_next (decide_eq_true port) (redEval_unmetered found none), _, modPkt_mem s k.id _ k (find_id found alone), rfl, rfl, rfl⟩

theorem exec_redMessageReevaluation_metered (port : p < 96) {i : Nat} (metered : meterIdx (getPort s p) k.msg k.prio = some i)
    (on : (getMeter s (p / 8) i).on = true) :
    let r := meterEval (getMeter s (p / 8) i) (mono s) (meterLen (getMeter s (p / 8) i) k.msg)
    ∃ t, exec (.redMessageReevaluation p) s = .next t ∧ getMeter t (p / 8) i = r.2 ∧ (r.1 = .red → t.core = s.core) ∧
      (r.1 ≠ .red → ∃ k' ∈ t.core.pkts, k'.id = k.id ∧ k'.stage = .staged ∧ k'.prio = demote r.1 k.prio) := by
  intro r
  have meter : getMeter (modMeter s (p / 8) i fun _ => r.2) (p / 8) i = r.2 := by
    rw [getMeter_modMeter, if_pos ⟨rfl, rfl⟩]
  by_cases red : r.1 = .red
  · exact ⟨_, unitOk_next (decide_eq_true port) ((redEval_metered found metered on).trans (if_pos red)), meter, fun _ => rfl,
      fun h => absurd red h⟩
  · refine ⟨_, unitOk_next (decide_eq_true port) ((redEval_metered found metered on).trans (if_neg red)), ?_, fun h => absurd h red,
      fun _ => ⟨_, modPkt_mem (modMeter s (p / 8) i fun _ => r.2) k.id _ k (find_id found alone), rfl, rfl, rfl⟩⟩
    rw [getMeter_congr ((modPkt_rel (ch := 4294967295 - 2 ^ 15) rfl (.refl _)).same .quire rfl)]
    exact meter

end

/-! ## Requests at the centre -/

/-- The request of an ingress point that is at the centre and ready. -/
def centreHead (s : State) (ing : Nat) : Option Pkt := s.core.pkts.find? fun k => k.ing == ing && k.stage == .centre && centreReady k

theorem exec_requestAtCentre {k : Pkt} (point : p < 109) (found : centreHead s p = some k) :
    exec (.requestAtCentre p) s = .next (atCentre s k) := by
  have found : s.core.pkts.find? (fun k => k.ing == p && k.stage == .centre && centreReady k) = some k := found
  exact unitOk_next (decide_eq_true point) (by rw [found])

/-- The ingress point of the request that the centre finds. -/
theorem centreHead_ing {k : Pkt} (found : centreHead s p = some k) : k.ing = p := by
  have h := List.find?_some found
  simp only [Bool.and_eq_true, beq_iff_eq] at h
  exact h.1.1

section
variable {k : Pkt} (external : k.ing ≠ 108) (owned : k.stw = true ∨ k.ten ≠ none)
include external owned

theorem atCentre_checked : atCentre s k =
    match dklLines s (centreChk k) (lineCount k.msg.addr k.msg.len) with
    | none => pastCheck s k
    | some (i, v) =>
      if i = 0 || !isTlp k.msg.op then centreRefuse s k v (lineCount k.msg.addr k.msg.len - i)
      else
        let t := dklLog s 2 k.ten (centreChk k).space k.ing (k.msg.addr / 64 + i) (centreChk k).dst (lineCount k.msg.addr k.msg.len - i)
        pastCheck (modPkt t k.id fun _ => passing k i) (passing k i) := by
  have from_outside : ¬ (k.ing == 108) = true := by simpa using external
  have someone : ¬ (!k.stw && k.ten.isNone) = true := by
    rw [Bool.and_eq_true, Bool.not_eq_true', Option.isNone_iff_eq_none]
    rintro ⟨notStw, noTen⟩
    obtain h | h := owned
    · exact Bool.false_ne_true (notStw.symm.trans h)
    · exact h noTen
  exact (if_neg from_outside).trans (if_neg someone)

theorem atCentre_passed {q : Nat} (passed : dklLines s (centreChk k) (lineCount k.msg.addr k.msg.len) = none) (toward : k.dest = .port q)
    (alive : portDown (getPort s q) = false) (served : (getQuire s (quireOf q)).busy = false) : atCentre s k =
    modPkt s k.id fun k => { k with stage := .queued, tunit := some (uPort q), tstamp := (getPort s q).genTag } := by
  rw [atCentre_checked external owned, passed]
  dsimp only
  rw [pastCheck, toward]
  exact (if_neg (ne_true_of_eq_false alive)).trans (if_neg (ne_true_of_eq_false served))

theorem atCentre_refused {v : Verdict} (refused : dklLines s (centreChk k) (lineCount k.msg.addr k.msg.len) = some (0, v)) :
    atCentre s k = centreRefuse s k v (lineCount k.msg.addr k.msg.len) := by
  rw [atCentre_checked external owned, refused]
  rfl

end

/-- A deckle log with room takes one entry. -/
theorem dklLog_log_length (u : State) (room : u.dkl.log.length < 32) (kind : Nat) (ten : Option Nat) (sp src l d n : Nat) :
    (dklLog u kind ten sp src l d n).dkl.log.length = u.dkl.log.length + 1 := by
  have kept : (setDklEvent u.dkl kind).log = u.dkl.log := by unfold setDklEvent; split <;> rfl
  unfold dklLog
  dsimp only
  rw [(tenEv?_rel (ch := 4294967295 - 512) rfl (Rel.refl _)).same .dkl rfl,
    (stewIf_rel (ch := 4294967295 - 512) rfl (Rel.refl _)).same .dkl rfl, kept, if_neg (Nat.not_le.2 room)]
  exact List.length_append.trans rfl

theorem centreRefuse_log_length (room : s.dkl.log.length < 32) (k : Pkt) (v : Verdict) (n : Nat) :
    (centreRefuse s k v n).dkl.log.length = s.dkl.log.length + 1 := by
  have dropped : (dropPkt s k).dkl = s.dkl := (dropPkt_rel (ch := 4294967295 - 512) rfl (.refl s)).same .dkl rfl
  have answered : (centreRefuse s k v n).dkl = (dklRefuse (dropPkt s k) (centreChk k) v k.ing n).dkl :=
    (refuse_rel (ch := 4294967295 - 512) rfl (.refl _)).same .dkl rfl
  rw [answered, dklRefuse, dklLog_log_length _ (by rw [dropped]; exact room), dropped]

/-- Settles O36: a flit, the admission and the retry of a staged message, a red message at its meter, and a request at the centre. -/
theorem messagesEnterTheCore : Obligations.MessagesEnterTheCore := by
  unfold Obligations.MessagesEnterTheCore
  intro s p
  refine ⟨fun port carries role f => part1 s p port carries role f,
    fun point resp k0 head notRed => part2 s p point resp k0 head notRed, ?red, ?centre⟩
  case red =>
    intro port k found alone
    exact ⟨exec_redMessageReevaluation_unmetered found alone port,
      fun i metered on => exec_redMessageReevaluation_metered found alone port metered on⟩
  case centre =>
    intro point k found external owned
    have ing : k.ing ≠ 108 := by rw [centreHead_ing found]; exact external
    refine ⟨fun passed q toward alive served alone => ?_, fun v refused room => ?_⟩
    · exact ⟨_, (exec_requestAtCentre point found).trans (congrArg _ (atCentre_passed ing owned passed toward alive served)), _,
        modPkt_mem s k.id _ k (find_id found alone), rfl, rfl, rfl, rfl⟩
    · exact ⟨_, (exec_requestAtCentre point found).trans (congrArg _ (atCentre_refused ing owned refused)),
        centreRefuse_log_length room k v _⟩

end Sys2Proof.Proofs.MessagesEnter
end

section
/-!
SUPPORT. Proofs about a scheduler round (R89 to R94): its matches, and the state in which the matched pairs transfer.
-/

namespace Sys2Proof.Proofs.Rounds

open Sys2Proof Sys2Proof.Machine Sys2Proof.Safety Sys2Proof.Laws.AboutRounds

/-! ## The matches -/

section
variable (s : State) (l : List Rq)

/-- The requests that the first iteration leaves unmatched. -/
def unmatched : List Rq := l.filter fun x => !((matchRound s l).1.any fun y => y.i == x.i || y.j == x.j)

theorem matchRound_fst : (matchRound s l).1 = accepts s (grants s (classBlind s) l) := rfl

theorem matchRound_snd : (matchRound s l).2 = accepts s (grants s (classBlind s) (unmatched s l)) := rfl

variable {s l} {x y : Rq}

theorem mem_unmatched (h : y ∈ unmatched s l) : y ∈ l ∧ ∀ x ∈ (matchRound s l).1, x.i ≠ y.i ∧ x.j ≠ y.j := by
  obtain ⟨asked, free⟩ := List.mem_filter.1 h
  refine ⟨asked, fun x hx => ?_⟩
  have apart := List.any_eq_false.1 (Bool.not_eq_true' _ ▸ free) x hx
  simpa using apart

theorem mem_requests_of_fst (h : x ∈ (matchRound s l).1) : x ∈ l := (grant_mem (accept_mem h)).1

theorem mem_unmatched_of_snd (h : x ∈ (matchRound s l).2) : x ∈ unmatched s l := (grant_mem (accept_mem h)).1

theorem matches_asked (h : x ∈ (matchRound s l).1 ++ (matchRound s l).2) : x ∈ l :=
  (List.mem_append.1 h).elim mem_requests_of_fst fun second => (mem_unmatched (mem_unmatched_of_snd second)).1

/-- Each input and each output stands in one match at most. -/
theorem matches_apart : ((matchRound s l).1 ++ (matchRound s l).2).Pairwise fun x y => x.i ≠ y.i ∧ x.j ≠ y.j :=
  List.pairwise_append.2 ⟨match_uniq s _ l, match_uniq s _ _,
    fun _ first _ second => (mem_unmatched (mem_unmatched_of_snd second)).2 _ first⟩

end

/-! ## The state the transfers start from -/

/-- The state after the counts, the pointers and the idle slots of a round. -/
def roundReady (s : State) : State :=
  let l := requests s
  let m := matchRound s l
  forL (List.range 16) (m.1.foldl movePtrs (forL ((List.range 16).filter fun j => l.any fun x => x.j == j) (cntAdd s 0x90010 1) countRound))
    (idleSlots l (m.1 ++ m.2))

theorem exec_schedulerRound (s : State) : exec .schedulerRound s =
    .next (((matchRound s (requests s)).1 ++ (matchRound s (requests s)).2).foldl transferPair (roundReady s)) :=
  unitOk_next rfl rfl

/-- The outputs that a request names. -/
theorem mem_asked (l : List Rq) {j : Nat} (spoke : j < 16) :
    j ∈ (List.range 16).filter (fun j => l.any fun x => x.j == j) ↔ (l.any fun x => x.j == j) = true :=
  List.mem_filter.trans (and_iff_right (List.mem_range.2 spoke))

/-- What a round has done before its transfers: only matches of the first iteration move pointers. -/
theorem roundReady_core (s : State) :
    let m := (matchRound s (requests s)).1
    let u := roundReady s
    u.core.pkts = s.core.pkts ∧
      (∀ x ∈ m, tget 0 u.core.gptr x.j = (x.i + 1) % 16 ∧ tget 0 u.core.aptr x.i = (x.j + 1) % 16) ∧
      (∀ j, (∀ x ∈ m, x.j ≠ j) → tget 0 u.core.gptr j = tget 0 s.core.gptr j) ∧
      (∀ i, (∀ x ∈ m, x.i ≠ i) → tget 0 u.core.aptr i = tget 0 s.core.aptr i) ∧
      (∀ j, j < 16 → tget 0 u.core.rounds j =
        if (requests s).any (fun x => x.j == j) then (tget 0 s.core.rounds j + 1) % 8 else tget 0 s.core.rounds j) := by
  intro m u
  obtain ⟨cPkts, cGrant, cAccept, cRounds⟩ :=
    countAll ((List.range 16).filter fun j => (requests s).any fun x => x.j == j) (List.nodup_range.filter _) (cntAdd s 0x90010 1)
  obtain ⟨moved, gKept, aKept, pRounds, pPkts⟩ := ptrs m (match_uniq s _ (requests s))
    (forL ((List.range 16).filter fun j => (requests s).any fun x => x.j == j) (cntAdd s 0x90010 1) countRound)
  have idle : u.core = _ := idle_c _ _ _ _
  have counted := cntAdd_c s 0x90010 1
  rw [idle]
  refine ⟨?_, moved, fun j others => ?_, fun i others => ?_, fun j spoke => ?_⟩
  · rw [pPkts, cPkts, counted]
  · rw [gKept j others, cGrant, counted]
  · rw [aKept i others, cAccept, counted]
  · rw [pRounds, cRounds, counted]
    exact ite_congr (propext (mem_asked _ spoke)) (fun _ => rfl) (fun _ => rfl)

/-- Settles O37: the matches are requests, apart and of least key, and only those of the first iteration move the pointers. -/
theorem schedulerRounds : Obligations.SchedulerRounds := by
  unfold Obligations.SchedulerRounds
  intro s l m far key
  refine ⟨fun x h => matches_asked h, matches_apart, fun x first y asked same => ?_, roundReady s, exec_schedulerRound s, roundReady_core s⟩
  have least := (grant_mem (accept_mem first)).2 y asked same
  simp only [key, far, same]
  simpa only [classBlind, ptrDist, beq_iff_eq] using least

end Sys2Proof.Proofs.Rounds
end

section
/-!
SUPPORT. Proofs about messages that leave the core (R88, R102, R127, R128, R349, R352): the leaf of a stack port's send slot, and the
rule for messages assembled with it.
-/

namespace Sys2Proof.Proofs.MessagesLeave

open Sys2Proof Sys2Proof.Machine Sys2Proof.Laws.AboutEgress

section
variable {s : State} {p : Nat} (port : p < 96) (stack : roleOf (getPort s p) = 5) (alive : portDown (getPort s p) = false)
  (quireRuns : (getQuire s (quireOf p)).rst = .run) (quireFree : (getQuire s (quireOf p)).busy = false)
include port stack alive quireRuns quireFree

/-- The leaf of a send slot: INIT in training, and one from what the link holds while active. -/
theorem exec_leafTransmit : exec (.leafTransmit p) s = .next (
    if (getPort s p).link == .training && (getPort s p).ifl.st == .init then sendInit s p
    else if (getPort s p).link == .up && (getPort s p).ifl.st == .active then sendActive s p else s) := by
  have sends : ¬ (roleOf (getPort s p) != 5 || portDown (getPort s p) || (getQuire s (quireOf p)).rst != .run ||
      (getQuire s (quireOf p)).busy) = true := by
    rw [stack, alive, quireRuns, quireFree]
    decide
  exact unitOk_next (decide_eq_true port) (if_neg sends)

theorem exec_leafTransmit_init (training : (getPort s p).link = .training) (initial : (getPort s p).ifl.st = .init) :
    exec (.leafTransmit p) s = .next (sendInit s p) := by
  rw [exec_leafTransmit port stack alive quireRuns quireFree, training, initial, if_pos (by decide)]

theorem exec_leafTransmit_active (up : (getPort s p).link = .up) (active : (getPort s p).ifl.st = .active) :
    exec (.leafTransmit p) s = .next (sendActive s p) := by
  rw [exec_leafTransmit port stack alive quireRuns quireFree, up, active, if_neg (by decide), if_pos (by decide)]

end

/-- Settles O38: what egress selection releases, what a send slot shows on its link, and the leaf of a stack port's slot. -/
theorem messagesLeaveTheCore : Obligations.MessagesLeaveTheCore := by
  unfold Obligations.MessagesLeaveTheCore
  intro s p
  refine ⟨fun point => part1 s p point, fun port carries role => part2 s p port carries role, fun port stack alive runs free => ⟨?init, ?active⟩⟩
  case init =>
    intro training initial
    obtain ⟨h, out, type, nslots, seq, ack, _, _, _, _, _, core⟩ := leaf_out s p (getPort s p).ifl.nextTx 2 3 false 0
      (natLe 16 (packN [(0, 1), (8, s.glb.straps.stackId.toNat), (16, iflAdv (getPort s p)), (28, iflAdv (getPort s p)),
        fl 52 (getPort s p).ifl.gotInit])) false
    exact ⟨_, h, _, exec_leafTransmit_init port stack alive runs free training initial, out, type, nslots, seq, ack, core⟩
  case active =>
    intro up active
    obtain ⟨h, b, l, out, counts⟩ := active_last s p
    exact ⟨_, h, b, l, exec_leafTransmit_active port stack alive runs free up active, out, counts⟩

end Sys2Proof.Proofs.MessagesLeave
end

section
/-!
SUPPORT. Proofs about members of group writes and mirror rings (R106, R138), and the rule for fences, windows and samples assembled with
them.
-/

namespace Sys2Proof.Proofs.Fences

open Sys2Proof Sys2Proof.Machine Sys2Proof.Safety Sys2Proof.Laws.AboutMachine Sys2Proof.Laws.AboutFences

variable {s : State}

/-! ## Members of a group write -/

/-- A member's outcome noted in its write. -/
def noted (w : RWrite) (m : Nat) (ok : Bool) : RWrite :=
  { w with pending := w.pending.filter (· != m), okd := if ok then w.okd ++ [m] else w.okd, failed := if ok then w.failed else w.failed ++ [m] }

/-- A member's outcome that does not end its write changes the write's lists and, where it failed, the member's state. -/
structure MemberNoted (s t : State) (w : RWrite) (m : Nat) (ok : Bool) : Prop where
  writes : t.core.rwrites = s.core.rwrites.map (fun x => if x.id == w.id then noted w m ok else x)
  groups : ∀ g, getRgrp t g = if ok = false ∧ g = w.group then setMemState (getRgrp s g) m 2 else getRgrp s g

theorem MemberNoted.succeeded {t : State} {w : RWrite} {m : Nat} (h : MemberNoted s t w m true) (g : Nat) : getRgrp t g = getRgrp s g :=
  (h.groups g).trans (if_neg fun both => Bool.false_ne_true both.1.symm)

theorem MemberNoted.stale {t : State} {w : RWrite} {m : Nat} (h : MemberNoted s t w m false) (g : Nat) :
    getRgrp t g = if g = w.group then setMemState (getRgrp s g) m 2 else getRgrp s g :=
  (h.groups g).trans (ite_congr (propext (and_iff_right rfl)) (fun _ => rfl) (fun _ => rfl))

/-- A member's message that was dropped leaves the writes and the groups. -/
theorem MemberNoted.of_dropped {t : State} {w : RWrite} {m n : Nat} {ok : Bool} (h : MemberNoted (dropMember s w.id n) t w m ok) :
    MemberNoted s t w m ok := ⟨h.writes, h.groups⟩

section
variable {w : RWrite} {m : Nat} {ok : Bool} (found : s.core.rwrites.find? (fun x => x.id == w.id) = some w) (waited : m ∈ w.pending)
  (isOpen : w.done = false) (goesOn : rwOutcome (getRgrp s w.group) (noted w m ok) = none)
  (goesOnStale : rwOutcome (setMemState (getRgrp s w.group) m 2) (noted w m ok) = none)
include found waited isOpen goesOn goesOnStale

theorem memberOutcome_noted : MemberNoted s (memberOutcome s w.id m ok) w m ok :=
  have h := outcome s w m ok found waited isOpen goesOn goesOnStale
  ⟨h.1, h.2⟩

theorem exec_replicaMemberCompletion (member : m < 16) :
    ∃ t, exec (.replicaMemberCompletion w.id m ok) s = .next t ∧ MemberNoted s t w m ok :=
  ⟨_, unitOk_next (decide_eq_true member) rfl,
    .of_dropped (memberOutcome_noted (s := dropMember s w.id m) found waited isOpen goesOn goesOnStale)⟩

end

theorem exec_replicaMemberTimeout {w : RWrite} {m : Nat} (member : m < 16)
    (found : s.core.rwrites.find? (fun x => x.id == w.id) = some w) (waited : m ∈ w.pending) (isOpen : w.done = false)
    (goesOn : rwOutcome (getRgrp s w.group) (noted w m false) = none)
    (goesOnStale : rwOutcome (setMemState (getRgrp s w.group) m 2) (noted w m false) = none)
    (timed : rgKind1 (getRgrp s w.group).header = false) :
    ∃ t, exec (.replicaMemberTimeout w.id m) s = .next t ∧ MemberNoted s t w m false := by
  refine ⟨memberOutcome s w.id m false, unitOk_next (decide_eq_true member) ?_,
    memberOutcome_noted found waited isOpen goesOn goesOnStale⟩
  rw [found]
  exact if_neg (ne_true_of_eq_false timed)

/-! ## Mirror rings -/

/-- A read of the consumer index that no copy waits for leaves the index. -/
theorem exec_mirrorConsumerReadDone {i : Nat} (session : i < 8) (reading : (getMir s i).reading = true) (idle : (getMir s i).waiting = [])
    (stays : (getMir s i).closing = false) (c : W64) : ∃ t, exec (.mirrorConsumerReadDone i c) s = .next t ∧
      ∀ j, getMir t j = if j = i then { getMir s i with reading := false, consumer := c } else getMir s j := by
  have read : ∀ j, getMir (modMir s i fun m => { m with reading := false, waiting := [], consumer := c }) j =
      if j = i then { getMir s i with reading := false, consumer := c } else getMir s j := by
    intro j
    rw [getMir_modMir]
    split
    · next same => rw [same, ← idle]
    · rfl
  refine ⟨_, unitOk_next (decide_eq_true session) ((if_neg (by rw [reading]; decide)).trans ?_), read⟩
  rw [idle]
  refine if_neg ?_
  rw [mirDrain, read, if_pos rfl, stays]
  exact Bool.false_ne_true

/-- Settles O39: fences, windows, samples, the outcome of a member, and the consumer index of a mirror ring. -/
theorem fencesWindowsAndMembers : Obligations.FencesWindowsAndMembers := by
  unfold Obligations.FencesWindowsAndMembers
  intro s
  refine ⟨fun g => fence1 s g, fun n schedule => ⟨(fence2 s n schedule).1, (fence2 s n schedule).2, wins s n schedule⟩,
    fun o out => hist s o out, ?member, fun i c session reading idle stays => exec_mirrorConsumerReadDone session reading idle stays c⟩
  case member =>
    intro w m member found waited isOpen ok w' goesOn goesOnStale
    obtain ⟨t, runs, done⟩ := exec_replicaMemberCompletion (ok := ok) found waited isOpen goesOn goesOnStale member
    refine ⟨t, runs, done.writes, fun good => ?_, fun bad => ?_, fun bad timed => ?_⟩
    · subst good
      exact done.succeeded
    · subst bad
      exact done.stale
    · subst bad
      obtain ⟨u, ends, same⟩ := exec_replicaMemberTimeout member found waited isOpen goesOn goesOnStale timed
      exact ⟨u, ends, same.writes.trans done.writes.symm, fun g => (same.groups g).trans (done.groups g).symm⟩

end Sys2Proof.Proofs.Fences
end

section
/-!
SUPPORT. Proofs about ports that come up (R50, R51, R75, R336, R370): the register of hot plug, the retry of a training, and the bring-up
of a gateway. The enable, the disable and the end of a training stand with the model's ports.
-/

namespace Sys2Proof.Proofs.PortsUp

open Sys2Proof Sys2Proof.Machine Sys2Proof.Laws.AboutPorts

variable {s : State} {p : Nat} (port : p < 96)
include port

/-- A slot that no other port with hot plug names can be given to a port. -/
theorem exec_portHpWrite (lead : leadPort s p = true) {v : W32}
    (free : ∀ e ∈ s.port, e.1 = p ∨ e.2.hpEn = false ∨ e.2.slotId ≠ fld v 0 5) :
    exec (.portHpWrite p v) s =
      .next (modPort s p fun x => { x with hpEn := bit v 31, dpcCa := bit v 30, fmCap := bit v 29, slotId := fld v 0 5 }) := by
  have alone : s.port.any (fun e => e.1 != p && e.2.hpEn && e.2.slotId == fld v 0 5) = false := by
    rw [List.any_eq_false]
    intro e he
    obtain own | off | other := free e he
    · simp [own]
    · simp [off]
    · simp [other]
  refine unitOk_next (decide_eq_true port) ?_
  rw [portHpWrite, lead, alone, Bool.and_false]
  rfl

theorem exec_trainingRetry (down : (getPort s p).link = .down) (enabled : (getPort s p).enabled = true) (runs : (getPort s p).rst = .run)
    (free : (getPort s p).dpcTrig = false) (reference : (getPort s p).refOk = true) :
    exec (.trainingRetry p) s = .next (modPort s p fun x => { x with link := .training }) := by
  refine unitOk_next (decide_eq_true port) (if_pos ?_)
  rw [down, enabled, runs, free, reference]
  decide

theorem exec_loopbackRequestReceived (training : (getPort s p).link = .training) (insists : Bool) :
    ∃ t, exec (.loopbackRequestReceived p insists) s = .next t ∧ ∀ j, getPort t j = if j = p then
      { getPort s p with loopbackRefused := true, link := if insists then .down else .training } else getPort s j := by
  have trains : ¬ ((getPort s p).link != .training) = true := by rw [training]; decide
  cases insists with
  | false =>
    refine ⟨modPort s p fun x => { x with loopbackRefused := true }, unitOk_next (decide_eq_true port) (if_neg trains), fun j => ?_⟩
    rw [mp, if_neg Bool.false_ne_true, ← training]
  | true =>
    refine ⟨trainFail (modPort s p fun x => { x with loopbackRefused := true }) p,
      unitOk_next (decide_eq_true port) (if_neg trains), fun j => ?_⟩
    rw [trainFail, mp, mp, mp, if_pos rfl, if_pos rfl]
    split <;> rfl

theorem exec_linkRecoveryExit (recovering : (getPort s p).link = .recovery) (notStack : (getPort s p).mode ≠ 5) :
    ∃ t, exec (.linkRecoveryExit p) s = .next t ∧ (getPort t p).link = .up ∧ ∀ j, j ≠ p → getPort t j = getPort s j := by
  refine ⟨_, unitOk_next (decide_eq_true port) (if_pos ?_), ?_, fun j other => (mp ..).trans (if_neg other)⟩
  · rw [recovering]
    simpa using notStack
  · rw [mp, if_pos rfl]

section
variable (gateway : roleOf (getPort s p) = 4) (up : (getPort s p).link = .up) (unheard : (getPort s p).gwOk = false)
include gateway up unheard

omit port in
/-- A gateway whose partner has not been heard of. -/
theorem gateway_waits : (roleOf (getPort s p) == 4 && (getPort s p).link == .up && !(getPort s p).gwOk) = true := by
  rw [gateway, up, unheard]
  decide

theorem exec_gatewayRepeat : exec (.gatewayRepeat p) s = .next (emit s (.mgmt p 0x0C (gatewayMsg s p))) :=
  unitOk_next (decide_eq_true port) (if_pos (gateway_waits gateway up unheard))

theorem exec_gatewayTimeout : ∃ t, exec (.gatewayTimeout p) s = .next t ∧ (getPort t p).link = .down ∧ (getPort t p).cfgError = true ∧
    ∀ j, j ≠ p → getPort t j = getPort s j := by
  have refused : ∀ j, getPort (cfgError s p 0) j = if j = p then { getPort s p with cfgError := true } else getPort s j :=
    fun j => (getPort_congr (Laws.AboutPorts.logEvent_port ..) j).trans (mp ..)
  refine ⟨gatewayFail s p, unitOk_next (decide_eq_true port) (if_pos (gateway_waits gateway up unheard)), ?_, ?_, fun j other => ?_⟩
  · rw [gatewayFail, mp, if_pos rfl]
  · rw [gatewayFail, mp, if_pos rfl, refused, if_pos rfl]
    rfl
  · rw [gatewayFail, mp, if_neg other, refused, if_neg other]

end

omit port in
/-- Settles O40: an enable, a disable, the register of hot plug, the ways through training, and the bring-up of a gateway. -/
theorem portsComeUp : Obligations.PortsComeUp := by
  unfold Obligations.PortsComeUp
  intro s p v port lead
  refine ⟨enable1 s p v port lead, fun enabled off => disable1 s p v port lead enabled off,
    fun free => port_only (exec_portHpWrite port lead free) rfl, trained1 s p port lead,
    fun down enabled runs free reference => port_only (exec_trainingRetry port down enabled runs free reference) rfl,
    fun training insists => exec_loopbackRequestReceived port training insists,
    fun recovering notStack => exec_linkRecoveryExit port recovering notStack,
    fun gateway up unheard => ⟨⟨_, exec_gatewayRepeat port gateway up unheard, rfl, rfl⟩, exec_gatewayTimeout port gateway up unheard⟩⟩

end Sys2Proof.Proofs.PortsUp
end

section
/-!
SUPPORT. Proofs about ports that go down (R62, R63, R67 to R69, R73, R304, R307, R456): what resets a port, the end of a DPC hold, hot
plug, a host's multicast group, and the keys of a link.
-/

namespace Sys2Proof.Proofs.PortsDown

open Sys2Proof Sys2Proof.Machine Sys2Proof.Safety Sys2Proof.Laws.AboutPorts

variable {s : State} {p : Nat}

/-- A port that is reset: its tag rises by one, its link is off, and the other ports keep all but their stack links. -/
structure PortReset (s t : State) (p : Nat) : Prop where
  rst : (getPort t p).rst = .inReset
  link : (getPort t p).link = .off
  tag : (getPort t p).genTag = (getPort s p).genTag + 1
  others : ∀ j, j ≠ p → sansIfl (getPort t j) = sansIfl (getPort s j)

theorem PortReset.statement {t : State} (h : PortReset s t p) : (getPort t p).rst = .inReset ∧ (getPort t p).link = .off ∧
    (getPort t p).genTag = (getPort s p).genTag + 1 ∧ ∀ j, j ≠ p → sansIfl (getPort t j) = sansIfl (getPort s j) :=
  ⟨h.rst, h.link, h.tag, h.others⟩

/-- A port cleared from a record with its own tag is reset, and keeps the record's hold. -/
theorem portReset_of {t : State} {x : Port} (tag : x.genTag = (getPort s p).genTag)
    (cleared : ∀ j, sansIfl (getPort t j) = sansIfl (if j = p then portClear x else getPort s j)) :
    PortReset s t p ∧ (getPort t p).dpcTrig = x.dpcTrig ∧ (getPort t p).ideSecure = false := by
  obtain ⟨⟨rst, link, tag, others⟩, hold, secure⟩ := resets_of s t p x tag cleared
  exact ⟨⟨rst, link, tag, others⟩, hold, secure⟩

/-! ## What resets a port -/

section
variable (port : p < 96) (runs : (getPort s p).rst = .run) (free : portWaits s p = false)
include port runs free

theorem exec_linkDown (trained : trainedLink (getPort s p) = true) (notStack : (getPort s p).mode ≠ 5) :
    ∃ t, exec (.linkDown p) s = .next t ∧ PortReset s t p ∧ (getPort t p).dpcTrig = ((getPort s p).dpcTrig || boundDown s p) := by
  have h := portReset_of (s := s) (p := p) (x := { getPort s p with dpcTrig := (getPort s p).dpcTrig || boundDown s p }) rfl
    (lost_port s p runs notStack)
  exact ⟨_, unitOk_next (decide_eq_true port) (if_neg (by rw [trained, free]; decide)), h.1, h.2.1⟩

theorem exec_errMessageReceived (up : (getPort s p).link = .up) (bound : boundDown s p = true) (noHold : (getPort s p).dpcTrig = false)
    {fatal : Bool}
    (takes : (bindingsOf s p).any (fun v => let e := (getVppb s v.1 v.2).dpcEnable; e == 2 || (e == 1 && fatal)) = true) :
    ∃ t, exec (.errMessageReceived p fatal) s = .next t ∧ PortReset s t p ∧ (getPort t p).dpcTrig = true := by
  have h := portReset_of (s := s) (p := p) (x := { getPort s p with dpcTrig := true }) rfl (fun j => dpc_port s p j runs)
  refine ⟨_, unitOk_next (decide_eq_true port) ((if_neg ?_).trans rfl), h.1, h.2.1⟩
  rw [up, bound, takes, noHold, free]
  decide

theorem exec_hotResetReceived (upstream : roleOf (getPort s p) = 1) (trained : trainedLink (getPort s p) = true) :
    ∃ t, exec (.hotResetReceived p) s = .next t ∧ PortReset s t p :=
  ⟨_, unitOk_next (decide_eq_true port) (if_pos (by rw [upstream, trained, free]; decide)),
    (portReset_of (x := getPort s p) rfl fun j => reset_port s p j runs).1⟩

omit port in
theorem exec_secondaryBusReset {n v : Nat} (tenant : n < 16) (vppb : v < 64) (downstream : v ≠ 0) (there : (getTen s n).exist = true)
    (bound : (getVppb s n v).bind = .dev p) : ∃ t, exec (.secondaryBusReset n v) s = .next t ∧ PortReset s t p := by
  have units : (decide (n < 16) && decide (v < 64)) = true := by rw [decide_eq_true tenant, decide_eq_true vppb]; rfl
  refine ⟨resetPort s p, unitOk_next units ((if_pos ?_).trans ?_), (portReset_of (x := getPort s p) rfl fun j => reset_port s p j runs).1⟩
  · rw [there]
    simpa using downstream
  · rw [secondaryReset, bound]
    exact if_neg (ne_true_of_eq_false free)

theorem exec_ideMacFailure (secure : (getPort s p).ideSecure = true) (notSkid : fld (getPort s p).cfg 18 2 ≠ 1) :
    ∃ t, exec (.ideMacFailure p) s = .next t ∧ PortReset s t p ∧ (getPort t p).ideSecure = false := by
  have open_ : ∀ j, getPort (modPort s p fun x => { x with ideSecure := false }) j =
      if j = p then { getPort s p with ideSecure := false } else getPort s j := fun j => mp ..
  have h := portReset_of (s := s) (t := resetPort (modPort s p fun x => { x with ideSecure := false }) p) (p := p)
    (x := { getPort s p with ideSecure := false }) rfl fun j => by
      rw [reset_port _ _ _ (by rw [open_, if_pos rfl]; exact runs), open_, open_, if_pos rfl]
      split <;> rfl
  refine ⟨_, unitOk_next (decide_eq_true port) ((if_neg (by rw [secure, free]; decide)).trans ?_), h.1, h.2.2⟩
  exact congrArg (fun u => resetPort u p) (if_neg (by simpa using notSkid))

end

/-! ## The end of a DPC hold -/

theorem dpcRelease_port (enabled : (getPort s p).enabled = true) (used : roleOf (getPort s p) ≠ 0) (runs : (getPort s p).rst = .run)
    (off : (getPort s p).link = .off) (j : Nat) :
    getPort (dpcRelease s p) j = if j = p then { getPort s p with dpcTrig := false, link := .training } else getPort s j := by
  have cleared : ∀ j, getPort (dpcStatus (modPort s p fun x => { x with dpcTrig := false }) p false) j =
      if j = p then { getPort s p with dpcTrig := false } else getPort s j :=
    fun j => (getPort_congr (dpcStatus_port ..) j).trans (mp ..)
  have ready : (({ getPort s p with dpcTrig := false } : Port).enabled && roleOf { getPort s p with dpcTrig := false } != 0 &&
      (getPort s p).rst == .run && !false && (getPort s p).link == .off) = true := by
    have enabled : ({ getPort s p with dpcTrig := false } : Port).enabled = true := enabled
    have used : roleOf { getPort s p with dpcTrig := false } ≠ 0 := used
    rw [enabled, runs, off]
    simpa using used
  rw [dpcRelease, startTraining]
  dsimp only
  rw [cleared, if_pos rfl, if_pos ready, mp, cleared, cleared, if_pos rfl]
  split <;> rfl

/-! ## Hot plug -/

theorem exec_hostPowerControlWrite (port : p < 96) (hotPlug : (getPort s p).hpEn = true) (bound : boundDown s p = true) (off : Bool) :
    ∃ t, exec (.hostPowerControlWrite p off) s = .next t ∧
      ∀ j, getPort t j = if j = p then { getPort s p with hpPending := true, hpOff := off } else getPort s j :=
  ⟨hostPower s p off, unitOk_next (decide_eq_true port) (if_pos (by rw [hotPlug, bound]; rfl)),
    fun j => (getPort_congr (stewEv_port.trans (vpps_port ..)) j).trans (mp ..)⟩

theorem exec_hpRefuse (port : p < 96) (lead : leadPort s p = true) : exec (.hpRefuse p) s = .next (hpRefuse s p) :=
  unitOk_next (decide_eq_true port) (if_pos lead)

theorem hpRefuse_pending (pending : (getPort s p).hpPending = true) (j : Nat) :
    getPort (hpRefuse s p) j = if j = p then { getPort s p with hpPending := false } else getPort s j := by
  rw [hpRefuse, if_pos pending]
  exact (getPort_congr (vpps_port ..) j).trans (mp ..)

theorem hpRefuse_idle (idle : (getPort s p).hpPending = false) : hpRefuse s p = logEvent s (uPort p) 0x02 0x01C 0 :=
  if_neg (ne_true_of_eq_false idle)

/-! ## Multicast groups of a host -/

/-- A host's enable takes a free replication group, which becomes its tenant's. -/
theorem exec_hostMcEnableWrite {n g r : Nat} (tenant : n < 16) (group : g < 64) (there : (getTen s n).exist = true)
    (off : bit (getVppb s n 0).mcast g = false) (free : freeRgrp s = some r) :
    ∃ t, exec (.hostMcEnableWrite n g) s = .next t ∧ (getRgrp t r).header = hostMcHeader n ∧ bit (getVppb t n 0).mcast g = true ∧
      tget 1024 (getVppb t n 0).mcGroup g = r := by
  have units : (decide (n < 16) && decide (g < 64)) = true := by rw [decide_eq_true tenant, decide_eq_true group]; rfl
  have enabled : mcEnable s n g = modVppb (modRgrp s r fun y => { y with header := hostMcHeader n }) n 0 fun v =>
      { v with mcast := v.mcast ||| ((1 : W64) <<< g), mcGroup := tput 1024 v.mcGroup g r } := by
    rw [mcEnable, free]
    exact if_neg (ne_true_of_eq_false off)
  refine ⟨_, unitOk_next units ((if_pos there).trans enabled), ?_, ?_, ?_⟩
  · rw [getRgrp_congr (modVppb_core ..), getRgrp_modRgrp, if_pos rfl]
  · rw [getVppb_modVppb, if_pos ⟨rfl, rfl⟩, bit_eq]
    simp [group]
  · rw [getVppb_modVppb, if_pos ⟨rfl, rfl⟩]
    exact (tget_tput ..).trans (if_pos rfl)

/-! ## Keys of a link -/

theorem exec_ideKeyManagement_unsupported (port : p < 96) (up : (getPort s p).link = .up) :
    exec (.ideKeyManagement p .linkIdeForIo) s = .next (emit s (.ide p false)) :=
  unitOk_next (decide_eq_true port) (if_neg (by rw [up]; decide))

theorem exec_ideKeyManagement_keys (port : p < 96) (up : (getPort s p).link = .up) {e : Nat}
    (mode : (getPort s p).mode = 1 ∨ (getPort s p).mode = 2)
    (ide : fld (getPort s p).cfg 18 2 = 1 ∨ fld (getPort s p).cfg 18 2 = 2) (low : 1 ≤ e) (high : e ≤ 5) :
    exec (.ideKeyManagement p (.setKeys e)) s =
      .next (emit (modPort s p fun x => { x with ideKeys := true, ideSecure := true, ideEpoch := e }) (.ide p true)) := by
  refine unitOk_next (decide_eq_true port) ((if_neg (by rw [up]; decide)).trans (if_pos ?_))
  rw [Bool.and_eq_true, Bool.and_eq_true, Bool.and_eq_true, Bool.or_eq_true, Bool.or_eq_true]
  simp only [beq_iff_eq, decide_eq_true_eq]
  exact ⟨⟨⟨mode, ide⟩, low⟩, high⟩

/-- Settles O41: what resets a port, the end of its hold, hot plug, a host's multicast group, and the keys of a link. -/
theorem portsGoDown : Obligations.PortsGoDown := by
  unfold Obligations.PortsGoDown
  intro s p port
  refine ⟨fun runs free => ⟨?lost, ?err, ?hot, ?secondary, ?ide⟩, ?hold, ?power, fun lead => ⟨?refuse, ?refuseIdle⟩,
    fun n g tenant group there off r => exec_hostMcEnableWrite tenant group there off, fun up => ⟨?unsupported, ?keys⟩⟩
  case lost =>
    intro trained notStack
    obtain ⟨t, run, reset, hold⟩ := exec_linkDown port runs free trained notStack
    exact ⟨t, run, reset.statement, hold⟩
  case err =>
    intro up bound noHold fatal takes
    obtain ⟨t, run, reset, hold⟩ := exec_errMessageReceived port runs free up bound noHold takes
    exact ⟨t, run, reset.statement, hold⟩
  case hot =>
    intro upstream trained
    obtain ⟨t, run, reset⟩ := exec_hotResetReceived port runs free upstream trained
    exact ⟨t, run, reset.statement⟩
  case secondary =>
    intro n v tenant vppb downstream there bound
    obtain ⟨t, run, reset⟩ := exec_secondaryBusReset runs free tenant vppb downstream there bound
    exact ⟨t, run, reset.statement⟩
  case ide =>
    intro secure notSkid
    obtain ⟨t, run, reset, open_⟩ := exec_ideMacFailure port runs free secure notSkid
    exact ⟨t, run, reset.statement, open_⟩
  case hold =>
    intro held enabled used runs off
    exact ⟨dpcRelease s p, unitOk_next (decide_eq_true port) (if_pos held), unitOk_next (decide_eq_true port) (if_pos held),
      dpcRelease_port enabled used runs off⟩
  case power =>
    exact fun hotPlug bound off => exec_hostPowerControlWrite port hotPlug bound off
  case refuse =>
    exact fun pending => ⟨_, exec_hpRefuse port lead, hpRefuse_pending pending⟩
  case refuseIdle =>
    intro idle
    refine ⟨_, (exec_hpRefuse port lead).trans (congrArg _ (hpRefuse_idle idle)), rfl, rfl⟩
  case unsupported =>
    exact ⟨_, exec_ideKeyManagement_unsupported port up, rfl, rfl⟩
  case keys =>
    exact fun e mode ide low high => ⟨_, exec_ideKeyManagement_keys port up mode ide low high, rfl, fun j =>
      (getPort_congr (s := modPort s p fun x => { x with ideKeys := true, ideSecure := true, ideEpoch := e }) rfl j).trans (mp ..)⟩

end Sys2Proof.Proofs.PortsDown
end

section
/-!
SUPPORT. Proofs about the Fabric Manager API (R56, R65, R418): a request as it is served, and the answer of each.
-/

namespace Sys2Proof.Proofs.FabricManager

open Sys2Proof Sys2Proof.Machine Sys2Proof.Safety Sys2Proof.Laws.AboutFmApi

variable {s : State} {src : FmSrc}

/-- An instruction that is a request of the API: it is served, and answers by some action. -/
def IsRequest (src : FmSrc) (i : Instr) : Prop := ∃ act : State → State, ∀ s, exec i s = .next (fmServe src act s)

/-! ## Requests that the responder does not answer -/

section
variable {i : Instr} (request : IsRequest src i)
include request

theorem request_absent (absent : fmArrives s src = false) : exec i s = .next s := by
  obtain ⟨act, run⟩ := request
  rw [run, serve_no src act s absent]

variable (arrives : fmArrives s src = true)
include arrives

theorem request_dropped (closed : fmPortOk s src = false) :
    ∃ u, exec i s = .next u ∧ u.out = s.out ∧ u.port = s.port ∧ u.ten = s.ten := by
  obtain ⟨act, run⟩ := request
  exact ⟨_, run s, serve_drop src act s arrives closed⟩

variable (taken : fmPortOk s src = true)
include taken

theorem request_busy (booting : s.glb.bootStage ≠ 4) : exec i s = .next (emit s (.fm src 6 [])) := by
  obtain ⟨act, run⟩ := request
  rw [run, serve_busy src act s arrives taken booting]

theorem request_queued (booted : s.glb.bootStage = 4) (steward : s.glb.fmApiOwn = true) :
    ∃ u, exec i s = .next u ∧ u.cmd.fmQueue = s.cmd.fmQueue ++ [src] ∧ u.port = s.port ∧ u.ten = s.ten := by
  obtain ⟨act, run⟩ := request
  exact ⟨_, run s, serve_own src act s arrives taken booted steward⟩

end

/-- The requests of the API are those of its table. -/
theorem isRequest_of_mem {p op t v : Nat} {reg : CfgReg} {wr : Bool} {val line ld opc : Nat} {imm : W32} {B : W64} {b : List Byte}
    (unknown : fmKnown opc = false) {i : Instr}
    (mem : i ∈ [Instr.fmIdentifySwitchDevice src, .fmGetPhysicalPortState src p, .fmPhysicalPortControl src p op,
      .fmSendPpbConfigRequest src t v reg wr val, .fmGetVirtualSwitchInfo src t, .fmBindVppb src imm B, .fmUnbindVppb src imm B,
      .fmGenerateAerEvent src t line, .fmTunnelManagementCommand src p b, .fmSendLdConfigRequest src p ld b,
      .fmSendLdMemoryRequest src p ld b, .fmUnsupportedOpcode src opc]) : IsRequest src i := by
  simp only [List.mem_cons, List.not_mem_nil, or_false] at mem
  rcases mem with rfl | rfl | rfl | rfl | rfl | rfl | rfl | rfl | rfl | rfl | rfl | rfl
  case inr.inr.inr.inr.inr.inr.inr.inr.inr.inr.inr =>
    exact ⟨_, fun s => unitOk_next rfl (if_neg (ne_true_of_eq_false unknown))⟩
  all_goals exact ⟨_, fun s => rfl⟩

/-! ## The responder's answers -/

/-- A request reaches the responder. -/
structure Served (s : State) (src : FmSrc) : Prop where
  arrives : fmArrives s src = true
  taken : fmPortOk s src = true
  booted : s.glb.bootStage = 4
  notSteward : s.glb.fmApiOwn = false

section
variable (served : Served s src)
include served

/-- A served request is its action. -/
theorem Served.answer {i : Instr} {act : State → State} {u : State} (run : exec i s = unitOk true (fmServe src act s)) (acts : act s = u) :
    exec i s = .next u := by
  rw [run, serve_act src act s served.arrives served.taken served.booted served.notSteward, acts]
  rfl

/-! ### Registers -/

omit served in
theorem fmReads_cons {a : Nat} {l vals : List Nat} {v : W32} {u : State} (word : busRead s (.ctx 1) a = (some v, u)) :
    fmReads src (a :: l) vals s = fmReads src l (vals ++ [v.toNat]) u := by
  rw [fmReads, word]

theorem exec_fmIdentifySwitchDevice {a1 a2 a3 a4 : W32} {s1 s2 s3 s4 : State} (r1 : busRead s (.ctx 1) 0 = (some a1, s1))
    (r2 : busRead s1 (.ctx 1) 0xC = (some a2, s2)) (r3 : busRead s2 (.ctx 1) 0x10 = (some a3, s3))
    (r4 : busRead s3 (.ctx 1) 0x14 = (some a4, s4)) :
    exec (.fmIdentifySwitchDevice src) s = .next (emit s4 (.fm src 0 [a1.toNat, a2.toNat, a3.toNat, a4.toNat])) := by
  refine served.answer rfl ?_
  rw [fmReads_cons r1, fmReads_cons r2, fmReads_cons r3, fmReads_cons r4]
  rfl

theorem exec_fmGetPhysicalPortState {p : Nat} {a1 a2 a3 : W32} {s1 s2 s3 : State} (lead : leadPort s p = true)
    (r1 : busRead s (.ctx 1) (portBase p) = (some a1, s1)) (r2 : busRead s1 (.ctx 1) (portBase p + 4) = (some a2, s2))
    (r3 : busRead s2 (.ctx 1) (portBase p + 8) = (some a3, s3)) :
    exec (.fmGetPhysicalPortState src p) s = .next (emit s3 (.fm src 0 [a1.toNat, a2.toNat, a3.toNat])) := by
  refine served.answer rfl ((if_pos lead).trans ?_)
  rw [fmReads_cons r1, fmReads_cons r2, fmReads_cons r3]
  rfl

theorem exec_fmGetVirtualSwitchInfo {t : Nat} {a1 : W32} {s1 : State} (tenant : t < 16)
    (r1 : busRead s (.ctx 1) (tenBase t) = (some a1, s1)) :
    exec (.fmGetVirtualSwitchInfo src t) s = .next (emit s1 (.fm src 0
      ((((getTen s t).vppb.filter fun e => e.2.bind != .none).flatMap fun e =>
        [e.1, (bindKind e.2.bind).getD 7, (bindPbr s e.2.bind).getD 0]) ++ [a1.toNat]))) := by
  refine served.answer rfl ((if_neg (by omega)).trans ?_)
  rw [fmReads_cons r1]
  rfl

/-! ### Ports -/

theorem exec_fmGetPhysicalPortState_notLead {p : Nat} (notLead : leadPort s p = false) :
    exec (.fmGetPhysicalPortState src p) s = .next (emit s (.fm src 2 [])) :=
  served.answer rfl (if_neg (ne_true_of_eq_false notLead))

theorem exec_fmPhysicalPortControl_bad {p op : Nat} (bad : leadPort s p = false ∨ 2 < op) :
    exec (.fmPhysicalPortControl src p op) s = .next (emit s (.fm src 2 [])) := by
  refine served.answer rfl (if_pos ?_)
  obtain notLead | high := bad
  · rw [notLead]; rfl
  · rw [decide_eq_true high, Bool.or_true]

section
variable {p : Nat} (lead : leadPort s p = true)
include lead

omit served in
theorem lead_takes {op : Nat} (low : op ≤ 2) : ¬ (!leadPort s p || decide (2 < op)) = true := by
  rw [lead, decide_eq_false (by omega)]
  decide

theorem exec_fmPhysicalPortControl_reset (runs : (getPort s p).rst = .run) (free : portWaits s p = false) :
    exec (.fmPhysicalPortControl src p 0) s = .next (emit (resetPort s p) (.fm src 0 [])) := by
  refine served.answer rfl ((if_neg (lead_takes lead (by decide))).trans ((if_pos rfl).trans (if_neg ?_)))
  rw [runs, free]
  decide

theorem exec_fmPhysicalPortControl_enable {op : Nat} (some_op : op ≠ 0) (low : op ≤ 2) :
    exec (.fmPhysicalPortControl src p op) s =
      .next (emit (busWrite s (.ctx 1) (portBase p) (setFld (getPort s p).cfg 31 1 (2 - op))) (.fm src 0 [])) :=
  served.answer rfl ((if_neg (lead_takes lead low)).trans (if_neg some_op))

end

/-! ### Virtual switches -/

theorem exec_fmSendPpbConfigRequest {t v : Nat} (reg : CfgReg) (wr : Bool) (val : Nat) (there : (getTen s t).exist = true)
    (vppb : vppbThere s t v = true) : exec (.fmSendPpbConfigRequest src t v reg wr val) s =
      .next (if wr then emit (cfgWrite s t v reg val) (.fm src 0 []) else emit s (.fm src 0 [cfgRead s t v reg])) :=
  served.answer rfl (if_neg (by rw [there, vppb]; decide))

omit served in
/-- The answer of a bind or an unbind whose fields are right. -/
theorem fmFab_passed {bad : List (Bool × Nat)} (right : passes bad) (r : State → Fab) : fmFab src bad r s =
    if (r s).st = 0 then emit (r s).s (.fm src 0 [(r s).kd.toNat]) else emit (r s).s (.fm src (if (r s).st = 2 then 6 else 2) []) := by
  rw [fmFab, pass_none right]
  rfl

omit served in
theorem fmFab_done {bad : List (Bool × Nat)} (right : passes bad) {r : State → Fab} (done : (r s).st = 0) :
    fmFab src bad r s = emit (r s).s (.fm src 0 [(r s).kd.toNat]) :=
  (fmFab_passed right r).trans (if_pos done)

omit served in
theorem fmFab_wrongState {bad : List (Bool × Nat)} (right : passes bad) {r : State → Fab} (wrong : (r s).st = 2) :
    fmFab src bad r s = emit (r s).s (.fm src 6 []) := by
  rw [fmFab_passed right, if_neg (by omega), if_pos wrong]

theorem exec_fmGenerateAerEvent {t line : Nat} (low : line < 8) (on : (getCtx s (ctxOf t)).st ≠ .off)
    (running : (getCtx s (ctxOf t)).st ≠ .inReset) :
    exec (.fmGenerateAerEvent src t line) s = .next (emit (evLatch s (ctxOf t) line) (.fm src 0 [])) := by
  refine served.answer rfl (if_neg ?_)
  rw [decide_eq_false (by omega), beq_eq_false_iff_ne.2 on, beq_eq_false_iff_ne.2 running]
  decide

/-! ### Commands for an MLD -/

omit served in
theorem fmForward_reaches {p n ld : Nat} {b : List Byte} (devices : mldOf s p = n) (some_device : 0 < n) :
    fmForward src p ld b true s = emit s (.mldForward p ld b) :=
  if_pos (by rw [devices]; simpa using Nat.ne_of_gt some_device)

omit served in
theorem fmForward_refused {p ld : Nat} {b : List Byte} : fmForward src p ld b false s = emit s (.fm src 2 []) := rfl

section
variable {p n : Nat} (devices : mldOf s p = n) (some_device : 0 < n) (b : List Byte)
include devices some_device

theorem exec_fmTunnelManagementCommand : exec (.fmTunnelManagementCommand src p b) s = .next (emit s (.mldForward p 0xFFFF b)) :=
  served.answer rfl (fmForward_reaches devices some_device)

theorem exec_fmSendLd_reaches {ld : Nat} (there : ld < n) :
    exec (.fmSendLdConfigRequest src p ld b) s = .next (emit s (.mldForward p ld b)) ∧
      exec (.fmSendLdMemoryRequest src p ld b) s = .next (emit s (.mldForward p ld b)) := by
  have reaches : fmForward src p ld b (ld < mldOf s p) s = emit s (.mldForward p ld b) := by
    rw [decide_eq_true (devices ▸ there)]
    exact fmForward_reaches devices some_device
  exact ⟨served.answer rfl reaches, served.answer rfl reaches⟩

omit some_device in
theorem exec_fmSendLd_refused {ld : Nat} (absent : n ≤ ld) :
    exec (.fmSendLdConfigRequest src p ld b) s = .next (emit s (.fm src 2 [])) ∧
      exec (.fmSendLdMemoryRequest src p ld b) s = .next (emit s (.fm src 2 [])) := by
  have refused : fmForward src p ld b (ld < mldOf s p) s = emit s (.fm src 2 []) := by
    rw [decide_eq_false (devices ▸ Nat.not_lt.2 absent)]
    exact fmForward_refused
  exact ⟨served.answer rfl refused, served.answer rfl refused⟩

end

end

/-- Settles O42: requests dropped, Busy or queued for the Steward, and the answer of each where the responder serves it. -/
theorem fabricManagerCommands : Obligations.FabricManagerCommands := by
  unfold Obligations.FabricManagerCommands
  intro s src p op t v reg wr val line ld opc imm B b unknown
  refine ⟨fun i mem => ?requests, fun arrives taken booted notSteward => ?answers⟩
  case requests =>
    have request := isRequest_of_mem unknown mem
    exact ⟨request_absent request, request_dropped request, fun arrives taken =>
      ⟨request_busy request arrives taken, request_queued request arrives taken⟩⟩
  case answers =>
    have served : Served s src := ⟨arrives, taken, booted, notSteward⟩
    refine ⟨fun a1 a2 a3 a4 s1 s2 s3 s4 r1 r2 r3 r4 => exec_fmIdentifySwitchDevice served r1 r2 r3 r4,
      fun a1 a2 a3 s1 s2 s3 lead r1 r2 r3 => exec_fmGetPhysicalPortState served lead r1 r2 r3,
      fun notLead => ⟨exec_fmGetPhysicalPortState_notLead served notLead, exec_fmPhysicalPortControl_bad served (.inl notLead)⟩,
      fun lead => ⟨fun runs free => exec_fmPhysicalPortControl_reset served lead runs free,
        exec_fmPhysicalPortControl_enable served lead (by decide) (by decide),
        exec_fmPhysicalPortControl_enable served lead (by decide) (by decide),
        fun high => exec_fmPhysicalPortControl_bad served (.inr high)⟩,
      fun there vppb => ⟨exec_fmSendPpbConfigRequest served reg false val there vppb,
        exec_fmSendPpbConfigRequest served reg true val there vppb⟩,
      fun a1 s1 tenant r1 => exec_fmGetVirtualSwitchInfo served tenant r1,
      fun right => ⟨fun done => served.answer rfl (fmFab_done right done), fun wrong => served.answer rfl (fmFab_wrongState right wrong)⟩,
      fun right => ⟨fun done => served.answer rfl (fmFab_done right done), fun wrong => served.answer rfl (fmFab_wrongState right wrong)⟩,
      fun low on running => exec_fmGenerateAerEvent served low on running, fun n carries device some_device => ?mld,
      served.answer (act := fun u => emit u (.fm src 3 [])) ?unsupported rfl⟩
    case mld =>
      have devices := mm carries device
      exact ⟨exec_fmTunnelManagementCommand served devices some_device b,
        fun there => exec_fmSendLd_reaches served devices some_device b there,
        fun absent => exec_fmSendLd_refused served devices b absent⟩
    case unsupported =>
      exact congrArg (unitOk true) (if_neg (ne_true_of_eq_false unknown))

end Sys2Proof.Proofs.FabricManager
end

section
/-!
SUPPORT. Proofs about the tap (R466, R467): which state lets EXTEST and CLAMP drive the pins.
-/

namespace Sys2Proof.Proofs.Tap

open Sys2Proof Sys2Proof.Machine

theorem not_slotPermitted_iff (x : Slot) :
    slotPermitted x = false ↔ x.st = .off ∨ x.st = .latched ∨ x.st = .pdf ∨ x.st = .inReset := by
  unfold slotPermitted
  cases x.st <;> simp

/-- The pins may be driven with the tap enabled and no port, pool channel or slot that is in use. -/
theorem tapMayDrive_iff (s : State) : tapMayDrive s = true ↔ s.glb.inReset = false ∧ s.glb.tapEn = true ∧
    (∀ e ∈ s.port, e.2.enabled = false) ∧ (∀ e ∈ s.pool.chan, e.2.enable = false) ∧
    ∀ e ∈ s.slot, e.2.st = .off ∨ e.2.st = .latched ∨ e.2.st = .pdf ∨ e.2.st = .inReset := by
  simp only [tapMayDrive, Bool.and_eq_true, Bool.not_eq_true', List.any_eq_false, Bool.not_eq_true, not_slotPermitted_iff, and_assoc]

/-- An instruction that drives pins shows itself where it may drive, and BYPASS elsewhere. -/
theorem tapDrive_free {s : State} (free : tapMayDrive s = true) (i : TapIr) :
    tapDrive s i = { s with tap := { s.tap with ir := i, loaded := i } } := by
  rw [tapDrive, if_pos free]

theorem tapDrive_held {s : State} (held : ¬ tapMayDrive s = true) (i : TapIr) :
    tapDrive s i = { s with tap := { s.tap with ir := .bypass, loaded := i } } := by
  rw [tapDrive, if_neg held]

/-- The identity of the part, its fields apart. -/
theorem idcode_fields (s : State) : idcode s = s.glb.stepping.toNat % 16 * 2 ^ 28 + 0x96 * 2 ^ 12 + 0x5E3 * 2 + 1 := by
  simp [idcode, packN]

/-- Settles O43: what each instruction of the tap loads, and what it shows. -/
theorem tapInstructions : Obligations.TapInstructions := by
  unfold Obligations.TapInstructions
  intro s with_ free
  refine ⟨rfl, rfl, rfl, ⟨_, rfl, idcode_fields s⟩, fun l => ⟨_, rfl, rfl, rfl⟩, fun h => ?_, fun h => ?_⟩
  · have drives := (tapMayDrive_iff s).2 h
    exact ⟨congrArg Host.Outcome.next (tapDrive_free drives .extest), congrArg Host.Outcome.next (tapDrive_free drives .clamp)⟩
  · have held := mt (tapMayDrive_iff s).1 h
    exact ⟨congrArg Host.Outcome.next (tapDrive_held held .extest), congrArg Host.Outcome.next (tapDrive_held held .clamp)⟩

end Sys2Proof.Proofs.Tap
end

section
/-!
SUPPORT. Proofs about pool channels and the opening of the pool (R139 to R144, R148, R154). The groups stand with the model's pool.
-/

namespace Sys2Proof.Proofs.Pool

open Sys2Proof Sys2Proof.Machine Sys2Proof.Laws.AboutPool

variable {s : State} {ch : Nat}

/-! ## What a channel's command changes -/

/-- A command makes one channel's record `y` and leaves the pool's memory, groups and sheets. -/
def SetsChan (s : State) (ch : Nat) (i : Instr) (y : Chan) : Prop := ∃ t, exec i s = .next t ∧
  (∀ j, getChan t j = if j = ch then y else getChan s j) ∧ t.pool.mem = s.pool.mem ∧ t.pool.grp = s.pool.grp ∧
  t.pool.sheet = s.pool.sheet

/-- A change of the channel's record alone sets it. -/
theorem SetsChan.of {i : Instr} {f : Chan → Chan} {y : Chan} {u : State} (pool : u.pool = s.pool)
    (run : exec i s = .next (modChan u ch f)) (record : f (getChan s ch) = y) : SetsChan s ch i y := by
  have same : ∀ j, getChan u j = getChan s j := getChan_pool pool
  refine ⟨_, run, fun j => ?_, ?_, ?_, ?_⟩
  · rw [mc, same, same, record]
  · exact (congrArg Pool.mem pool : u.pool.mem = s.pool.mem)
  · exact (congrArg Pool.grp pool : u.pool.grp = s.pool.grp)
  · exact (congrArg Pool.sheet pool : u.pool.sheet = s.pool.sheet)

/-! ## Enable and disable -/

/-- What the enable bit of the control register does, where the start of the initialisation is not written. -/
theorem chanCtrlWrite_enable (off : (getChan s ch).enable = false) : chanCtrlWrite s ch 0x80000000 =
    modChan (tapEnd s) ch fun x => if x.st == .inReset then { x with enable := true, stBefore := .training, fail := 0 }
      else { x with enable := true, st := .training, fail := 0 } :=
  if_pos (by rw [off]; decide)

theorem chanCtrlWrite_enable_kept (on : (getChan s ch).enable = true) : chanCtrlWrite s ch 0x80000000 = s :=
  if_neg (by rw [on]; decide)

theorem chanCtrlWrite_zero : chanCtrlWrite s ch 0 = if (getChan s ch).enable && !inEnabled s ch then
    modChan s ch fun x => { x with enable := false, st := if x.st == .inReset then .inReset else .off, stBefore := .off
                                   fail := 0, dimms := 0, capacity := 0, mrdimm := none } else s := rfl

section
variable (channel : ch < 12)
include channel

theorem exec_poolChEnable (off : (getChan s ch).enable = false) (usable : (getChan s ch).st ≠ .inReset) :
    SetsChan s ch (.poolChEnable ch) { getChan s ch with enable := true, st := .training, fail := 0 } :=
  .of (tapEnd_pool s) (unitOk_next (decide_eq_true channel) (chanCtrlWrite_enable off)) (if_neg (by simpa using usable))

theorem exec_poolChEnable_on (on : (getChan s ch).enable = true) : exec (.poolChEnable ch) s = .next s :=
  unitOk_next (decide_eq_true channel) (chanCtrlWrite_enable_kept on)

theorem exec_poolChDisable (on : (getChan s ch).enable = true) (usable : (getChan s ch).st ≠ .inReset)
    (free : ∀ g ∈ s.pool.grp, g.2.enable = false ∨ bit g.2.mask ch = false) :
    SetsChan s ch (.poolChDisable ch)
      { getChan s ch with enable := false, st := .off, stBefore := .off, fail := 0, dimms := 0, capacity := 0, mrdimm := none } := by
  have notMember : inEnabled s ch = false := by
    rw [← Bool.not_eq_true, enabled_iff]
    rintro ⟨g, mem, enabled, member⟩
    obtain h | h := free g mem
    · exact Bool.false_ne_true (h.symm.trans enabled)
    · exact Bool.false_ne_true (h.symm.trans member)
  refine .of rfl (unitOk_next (decide_eq_true channel) (chanCtrlWrite_zero.trans (if_pos ?_))) ?_
  · rw [on, notMember]
    rfl
  · dsimp only
    rw [if_neg (by simpa using usable)]

theorem exec_poolChDisable_member (member : ∃ g ∈ s.pool.grp, g.2.enable = true ∧ bit g.2.mask ch = true) :
    exec (.poolChDisable ch) s = .next s := by
  refine unitOk_next (decide_eq_true channel) (chanCtrlWrite_zero.trans (if_neg ?_))
  rw [(enabled_iff s ch).2 member, Bool.not_true, Bool.and_false]
  exact Bool.false_ne_true

/-! ## Training -/

omit channel in
theorem chanTrained_training (training : (getChan s ch).st = .training) (m : Spd) : chanTrained ch m s =
    modChan s ch fun x =>
      { x with fail := chanFail s m, dimms := min 2 m.dimms, st := if chanFail s m = 0 then .trained else .failed,
               capacity := if chanFail s m = 0 then m.units else 0, mrdimm := if chanFail s m = 0 then some m.mrdimm else none } :=
  if_neg (by rw [training]; decide)

theorem exec_channelTrainingDone_passed (training : (getChan s ch).st = .training) {m : Spd} (passed : chanFail s m = 0) :
    SetsChan s ch (.channelTrainingDone ch m)
      { getChan s ch with fail := 0, dimms := min 2 m.dimms, st := .trained, capacity := m.units, mrdimm := some m.mrdimm } :=
  .of rfl (unitOk_next (decide_eq_true channel) (chanTrained_training training m)) (by rw [passed]; rfl)

theorem exec_channelTrainingDone_failed (training : (getChan s ch).st = .training) {m : Spd} {f : Nat} (code : chanFail s m = f)
    (failed : f ≠ 0) : SetsChan s ch (.channelTrainingDone ch m)
      { getChan s ch with fail := f, dimms := min 2 m.dimms, st := .failed, capacity := 0, mrdimm := none } :=
  .of rfl (unitOk_next (decide_eq_true channel) (chanTrained_training training m))
    (by simp only [code, if_neg failed])

omit channel in
/-- A population that passes every check is readable, of an accepted organisation, size and rate, and trains. -/
theorem chanFail_zero {m : Spd} (passed : chanFail s m = 0) :
    m.units ≤ 2048 ∧ m.readable = true ∧ m.x4Org = true ∧ m.trains = true ∧ s.pool.rate ∈ m.rates := by
  unfold chanFail at passed
  split at passed; · exact absurd passed (by decide)
  split at passed; · exact absurd passed (by decide)
  next readable =>
  split at passed; · exact absurd passed (by decide)
  split at passed; · exact absurd passed (by decide)
  next x4 =>
  split at passed; · exact absurd passed (by decide)
  split at passed; · exact absurd passed (by decide)
  next rate =>
  split at passed; · exact absurd passed (by decide)
  next units =>
  split at passed; · exact absurd passed (by decide)
  next trains =>
  refine ⟨Nat.le_of_not_lt units, by simpa using readable, by simpa using x4, by simpa using trains, ?_⟩
  rw [Bool.or_eq_true, not_or] at rate
  simpa using rate.2

/-! ## Initialisation and loss -/

theorem exec_initStart (trained : (getChan s ch).st = .trained) :
    SetsChan s ch (.initStart ch) { getChan s ch with st := .initialising } :=
  .of rfl (unitOk_next (decide_eq_true channel) (if_pos (by rw [trained]; decide))) rfl

theorem exec_initStart_other (other : (getChan s ch).st ≠ .trained) : exec (.initStart ch) s = .next s :=
  unitOk_next (decide_eq_true channel) (if_neg (by simpa using other))

theorem exec_channelInitDone (initialising : (getChan s ch).st = .initialising) : ∃ t, exec (.channelInitDone ch) s = .next t ∧
    (∀ j, getChan t j = if j = ch then { getChan s ch with st := .ready } else getChan s j) ∧
    ∀ a, tget 0 t.pool.mem a = if a / 2 ^ 40 = ch then 0 else tget 0 s.pool.mem a := by
  refine ⟨_, unitOk_next (decide_eq_true channel) (if_pos (by rw [initialising]; decide)), fun j => mc (zeroChan s ch) ch j _, fun a => ?_⟩
  refine (tget_filter (fun k => k / 2 ^ 40 != ch) s.pool.mem a).trans ?_
  by_cases own : a / 2 ^ 40 = ch
  · rw [if_neg (by simpa using own), if_pos own]
  · rw [if_pos (by simpa using own), if_neg own]

theorem exec_channelInitDone_other (other : (getChan s ch).st ≠ .initialising) : exec (.channelInitDone ch) s = .next s :=
  unitOk_next (decide_eq_true channel) (if_neg (by simpa using other))

theorem exec_channelLost {st : ChSt} (state : (getChan s ch).st = st)
    (serves : st = .trained ∨ st = .initialising ∨ st = .ready ∨ st = .grouped) : exec (.channelLost ch) s = .next (chanLost s ch) := by
  refine unitOk_next (decide_eq_true channel) (if_pos ?_)
  rw [state]
  obtain rfl | rfl | rfl | rfl := serves <;> decide

theorem exec_channelLost_other {st : ChSt} (state : (getChan s ch).st = st)
    (idle : st = .off ∨ st = .training ∨ st = .failed ∨ st = .inReset) : exec (.channelLost ch) s = .next s := by
  refine unitOk_next (decide_eq_true channel) (if_neg ?_)
  rw [state]
  obtain rfl | rfl | rfl | rfl := idle <;> decide

end

/-! ## The pool -/

theorem poolSet_open (closed : s.pool.opened = false) : poolSet s true =
    if s.pool.grp.any fun g => g.2.enable then { s with pool := { s.pool with opened := true } }
    else { s with pool := { s.pool with openErr := true } } :=
  if_neg (by rw [closed]; decide)

theorem poolSet_close (opened : s.pool.opened = true) : poolSet s false =
    if !(s.pool.sheet.any fun e => shValid e.2) then { s with pool := { s.pool with opened := false } }
    else { s with pool := { s.pool with openErr := true } } :=
  if_neg (by rw [opened]; decide)

theorem exec_poolOpen_enabled (closed : s.pool.opened = false) (enabled : ∃ g ∈ s.pool.grp, g.2.enable = true) :
    exec .poolOpen s = .next { s with pool := { s.pool with opened := true } } :=
  unitOk_next rfl ((poolSet_open closed).trans (if_pos (List.any_eq_true.2 enabled)))

theorem exec_poolOpen_refused (closed : s.pool.opened = false) (none : ∀ g ∈ s.pool.grp, g.2.enable = false) :
    exec .poolOpen s = .next { s with pool := { s.pool with openErr := true } } :=
  unitOk_next rfl ((poolSet_open closed).trans (if_neg (by simpa using none)))

theorem exec_poolClose_empty (opened : s.pool.opened = true) (none : ∀ e ∈ s.pool.sheet, shValid e.2 = false) :
    exec .poolClose s = .next { s with pool := { s.pool with opened := false } } :=
  unitOk_next rfl ((poolSet_close opened).trans (if_pos (by simpa using none)))

theorem exec_poolClose_refused (opened : s.pool.opened = true) (used : ∃ e ∈ s.pool.sheet, shValid e.2 = true) :
    exec .poolClose s = .next { s with pool := { s.pool with openErr := true } } :=
  unitOk_next rfl ((poolSet_close opened).trans (if_neg (by rw [List.any_eq_true.2 used]; decide)))

theorem exec_poolClose_closed (closed : s.pool.opened = false) : exec .poolClose s = .next s :=
  unitOk_next rfl (if_pos (by rw [closed]; decide))

theorem exec_poolOpen_opened (opened : s.pool.opened = true) : exec .poolOpen s = .next s :=
  unitOk_next rfl (if_pos (by rw [opened]; decide))

/-- Settles O44: the commands of a channel, of a group and of the pool, accepted and refused. -/
theorem poolChannelsAndGroups : Obligations.PoolChannelsAndGroups := by
  unfold Obligations.PoolChannelsAndGroups
  refine ⟨fun s ch channel => ?channels, fun s => ⟨fun g v group => grps s g v group, fun closed => ?closed, fun opened => ?opened⟩⟩
  case channels =>
    refine ⟨exec_poolChEnable channel, exec_poolChEnable_on channel, exec_poolChDisable channel, exec_poolChDisable_member channel,
      fun training m => ⟨exec_channelTrainingDone_passed channel training, fun f => exec_channelTrainingDone_failed channel training,
        fun none => if_pos none, chanFail_zero⟩,
      exec_initStart channel, exec_initStart_other channel, exec_channelInitDone channel, exec_channelInitDone_other channel,
      fun serves => ⟨modChan s ch fun x => { x with st := .failed, fail := 9 }, _, exec_channelLost channel rfl serves,
        fun j => mc s ch j _, rfl⟩, exec_channelLost_other channel rfl⟩
  case closed =>
    exact ⟨exec_poolOpen_enabled closed, exec_poolOpen_refused closed, exec_poolClose_closed closed⟩
  case opened =>
    exact ⟨exec_poolClose_empty opened, exec_poolClose_refused opened, exec_poolOpen_opened opened⟩

end Sys2Proof.Proofs.Pool
end

section
/-!
SUPPORT. Proofs about the requests the home takes (R171, R175, R177, R182, R184): each row of the home takes the next request where it is
of the row's kind and leaves everything else, and what a request that opens a transaction or is answered at once leaves.
-/

namespace Sys2Proof.Proofs.HomeTakes

open Sys2Proof Sys2Proof.Machine Sys2Proof.Laws.AboutHomeTakes

variable {s : State} {ch : Nat}

/-! ## The rows -/

/-- A row of the home takes a channel's next request where it is of the row's kinds, and waits otherwise. -/
structure HomeRow (ch : Nat) (i : Instr) (takes : HKind → Prop) : Prop where
  idle : ∀ s, nextReq s ch = none → exec i s = .next s
  waits : ∀ s r, nextReq s ch = some r → ¬ takes (kindOf s r).1 → exec i s = .next s
  serves : ∀ s r, nextReq s ch = some r → takes (kindOf s r).1 → exec i s = .next (takeReq s r)

/-- The row of one kind. -/
theorem homeRow_of_homeOp {i : Instr} {k : HKind} (channel : ch < 12) (run : ∀ s, exec i s = unitOk (ch < 12) (homeOp k ch s)) :
    HomeRow ch i fun x => x = k := by
  have run : ∀ s, exec i s = .next (homeOp k ch s) := fun s => (run s).trans (unitOk_of (decide_eq_true channel) _)
  refine ⟨fun s none => ?_, fun s r next other => ?_, fun s r next own => ?_⟩ <;> rw [run, homeOp]
  · rw [none]
  · rw [next]
    exact congrArg _ (if_neg (by simpa using other))
  · rw [next]
    exact congrArg _ (if_pos (by simpa using own))

/-- The row of reads that are not cached takes the home's own refreshes too. -/
theorem homeRow_rdnc (channel : ch < 12) : HomeRow ch (.homeRdnc ch) fun x => x = .rdnc ∨ x = .refresh := by
  refine ⟨fun s none => unitOk_next (decide_eq_true channel) ?_, fun s r next other => unitOk_next (decide_eq_true channel) ?_,
    fun s r next own => unitOk_next (decide_eq_true channel) ?_⟩
  · rw [none]
  · rw [next]
    exact if_neg (by simpa using other)
  · rw [next]
    exact if_pos (by simpa using own)

theorem homeRow_rds (channel : ch < 12) : HomeRow ch (.homeRds ch) fun x => x = .rds := homeRow_of_homeOp channel fun _ => rfl
theorem homeRow_rde (channel : ch < 12) : HomeRow ch (.homeRde ch) fun x => x = .rde := homeRow_of_homeOp channel fun _ => rfl
theorem homeRow_wrnc (channel : ch < 12) : HomeRow ch (.homeWrnc ch) fun x => x = .wrnc := homeRow_of_homeOp channel fun _ => rfl
theorem homeRow_evd (channel : ch < 12) : HomeRow ch (.homeEvd ch) fun x => x = .evd := homeRow_of_homeOp channel fun _ => rfl
theorem homeRow_evc (channel : ch < 12) : HomeRow ch (.homeEvc ch) fun x => x = .evc := homeRow_of_homeOp channel fun _ => rfl
theorem homeRow_atom (channel : ch < 12) : HomeRow ch (.homeAtom ch) fun x => x = .atom := homeRow_of_homeOp channel fun _ => rfl

/-- The row of a caching read. -/
theorem exec_cachingRead (channel : ch < 12) {r : Pkt} (next : nextReq s ch = some r)
    (caching : (kindOf s r).1 = .rds ∨ (kindOf s r).1 = .rde) :
    exec (if (kindOf s r).1 = .rds then .homeRds ch else .homeRde ch) s = .next (takeReq s r) := by
  split
  · next shared => exact (homeRow_rds channel).serves s r next shared
  · next notShared => exact (homeRow_rde channel).serves s r next (caching.resolve_left notShared)

/-! ## What lets a request open a transaction -/

/-- A request whose line's tenant is up, whose own tenant is not in reset, and whose line no transaction holds. -/
theorem prem_of {r : Pkt} (next : nextReq s ch = some r) (free : txnOf s (lineOf r) = none) (registered : unregistered s r = false)
    (up : ∀ n, lineTen s (lineOf r) = some n → (getTen s n).down = false ∧ (getTen s n).inReset = false)
    (own : ∀ n, r.ten = some n → (getTen s n).inReset = false) (serves : chServes s (locP s (entOf s r) (lineOf r * 64)).1 = true)
    (issued : ∀ x ∈ s.home.txns, ∀ n ∈ x.snoops, n.issued = true) : Prem s ch r := by
  refine ⟨next, free, ⟨registered, ?_, ?_⟩, serves, issued⟩
  · rw [Option.any_eq_false]
    intro n line
    obtain ⟨notDown, notReset⟩ := up n line
    exact Bool.or_eq_false_iff.2 ⟨notDown, notReset⟩
  · rw [Option.any_eq_false]
    intro n tenant
    exact own n tenant

/-! ## A clean eviction -/

/-- A clean eviction takes its sharer out of the entry and is answered at once; it opens no transaction. -/
theorem takeReq_evictClean {r : Pkt} (p : Prem s ch r) {w i : Nat} (found : dirFind s (lineOf r) = some w) (sharer : (kindOf s r).2 = some i)
    (clean : (kindOf s r).1 = .evc) (noWaiter : ∀ x ∈ s.home.txns, x.phase ≠ .waitWay (lineOf r)) (state : (getDir s w).st ≠ .o)
    (thawed : (getDir s w).frozen = false) (unpinned : (getDir s w).pin = false) :
    queuedL s r (takeReq s r) ∧ txnOf (takeReq s r) (lineOf r) = none ∧
      getDir (takeReq s r) w = (if (getDir s w).ptrs.filter (· != i) = [] then { retired := (getDir s w).retired }
        else { getDir s w with ptrs := (getDir s w).ptrs.filter (· != i) }) ∧
      ∀ q, r.org = .port q → ∃ m ∈ (takeReq s r).core.pkts, m.resp = true ∧ m.seq = r.id ∧ m.out = q ∧
        m.msg.op = rspOp r.msg.op (.done .i) := by
  obtain ⟨c, begun⟩ := evict_eq (deq s r) r p.rd clean
  obtain ⟨queue, txns, dir, answered⟩ := evict_dir { deq s r with cnt := c } r w i found sharer state thawed unpinned
  have taken : takeReq s r = evictClean { deq s r with cnt := c } r := by
    rw [take_eq s r p.ht, begun]
    exact settle_closed _ _ (fun x hx => noWaiter x (txns ▸ hx)) (fun x hx => p.hq x (txns ▸ hx))
  rw [taken]
  refine ⟨queue, ?_, dir, answered⟩
  rw [txnOf, txns]
  exact p.ht

end Sys2Proof.Proofs.HomeTakes
end

section
/-!
SUPPORT. Proofs about the home's events (R164, R165, R177 to R182, R186 to R192): what a line without a transaction makes of them, a snoop
answer and a timeout, a conflict, the walks and the scrubber; and the rule for the home assembled with them.
-/

namespace Sys2Proof.Proofs.HomeEnds

open Sys2Proof Sys2Proof.Machine Sys2Proof.Safety Sys2Proof.Laws.AboutHomeEnds

variable {s : State} {line sh : Nat}

/-! ## A line without a transaction -/

section
variable (free : txnOf s line = none)
include free

theorem exec_dramReadDone_free (a b : Ecc) : exec (.dramReadDone line a b) s = .next s :=
  unitOk_next rfl (by rw [dramReadDone, free])

theorem exec_dramWriteAccepted_free (b : Bool) : exec (.dramWriteAccepted line b) s = .next s :=
  unitOk_next rfl (by rw [dramWriteAccepted, free])

theorem exec_snoopTimeout_free (sharer : sh < 128) : exec (.snoopTimeout line sh) s = .next s :=
  unitOk_next (decide_eq_true sharer) (by rw [snoopTimeout, free])

/-- A snoop answer that no transaction waits for is logged. -/
theorem exec_biResponse_free (sharer : sh < 128) (st : CSt) (d : List Byte) : ∃ t, exec (.biResponse line sh st d) s = .next t ∧
    t.home.dir = s.home.dir ∧ t.home.txns = s.home.txns ∧ (s.home.log.length < 16 → t.home.log.length = s.home.log.length + 1) := by
  obtain ⟨dir, txns, log, _⟩ := dirLog_part s 7 (lineTen s line) sh 0 line
  exact ⟨_, unitOk_next (decide_eq_true sharer) (by rw [biResponse, free]), dir, txns, log⟩

end

/-! ## Snoop answers and timeouts -/

section
variable {x : Txn} (open_ : txnOf s line = some x) (snooped : x.snoops.any (fun n => n.sharer == sh && n.issued) = true)
include open_ snooped

/-- An answer without data, among several, removes its snoop. -/
theorem biResponse_removes (st : CSt) (more : (x.snoops.filter fun n => n.sharer != sh) ≠ []) (noEntry : x.key = none)
    (issued : ∀ y ∈ s.home.txns, ∀ n ∈ y.snoops, n.issued = true) :
    biResponse line sh st [] s = setTxn s { x with snoops := x.snoops.filter fun n => n.sharer != sh } := by
  have known : ¬ (!(x.snoops.any fun n => n.sharer == sh && n.issued)) = true := by rw [snooped]; decide
  have left : (x.snoops.filter fun n => n.sharer != sh).isEmpty = false := List.isEmpty_eq_false_iff.2 more
  have quiet : Q (setTxn s { x with snoops := x.snoops.filter fun n => n.sharer != sh }) := by
    intro y mem n snoop
    obtain rfl | old := setTxn_sub _ _ y mem
    · exact issued x (List.mem_of_find?_eq_some open_) n (List.mem_filter.1 snoop).1
    · exact issued y old n snoop
  rw [biResponse, open_]
  refine (if_neg known).trans ?_
  cases x
  cases noEntry
  dsimp only at left ⊢
  rw [left]
  exact issue_id _ quiet

theorem exec_biResponse_removes (sharer : sh < 128) (st : CSt) (more : (x.snoops.filter fun n => n.sharer != sh) ≠ [])
    (noEntry : x.key = none) (issued : ∀ y ∈ s.home.txns, ∀ n ∈ y.snoops, n.issued = true) :
    ∃ t, exec (.biResponse line sh st []) s = .next t ∧
      txnOf t line = some { x with snoops := x.snoops.filter fun n => n.sharer != sh } ∧ t.home.dir = s.home.dir := by
  have onLine : x.line = line := by simpa using List.find?_some open_
  exact ⟨_, unitOk_next (decide_eq_true sharer) (biResponse_removes open_ snooped st more noEntry issued),
    setTxn_find s line x _ open_ onLine, rfl⟩

/-- A snoop that runs into its timeout takes its tenant's domain down. -/
theorem exec_snoopTimeout {n : Nat} (sharer : sh < 128) (tenant : x.tenant = some n) (up : (getTen s n).down = false) :
    ∃ t, exec (.snoopTimeout line sh) s = .next t ∧ (getTen t n).down = true ∧ (getTen t n).viral = true ∧ (getTen t n).cause = 1 ∧
      (getTen t n).dead = sh ∧ (tget {} (getTen t n).sharer sh).dead = true := by
  refine ⟨domainFall s n 1 sh line, unitOk_next (decide_eq_true sharer) ?_, fall s n 1 sh line up rfl⟩
  rw [snoopTimeout, open_]
  dsimp only
  rw [tenant]
  exact if_pos snooped

end

/-! ## Conflicts -/

/-- The sharer that a conflict names. -/
def conflicting (s : State) (line sh : Nat) : Sharer := tget {} (getTen s ((lineTen s line).getD 16)).sharer sh

theorem exec_biconflictReceived_valid (sharer : sh < 128) (valid : (conflicting s line sh).valid = true) :
    ∃ t, exec (.biconflictReceived line sh) s = .next t ∧
      ∃ m ∈ t.core.pkts, m.msg.op = .biConflictAck ∧ m.msg.addr = line * 64 ∧ m.out = (conflicting s line sh).port := by
  refine ⟨conflictAck s (conflicting s line sh).port line sh 0, unitOk_next (decide_eq_true sharer) (if_pos valid), ?_⟩
  rw [conflictAck, addPkt_pkts]
  exact ⟨_, List.mem_append_right _ (List.mem_singleton_self _), rfl, rfl, rfl⟩

/-- A conflict of no sharer is logged. -/
theorem exec_biconflictReceived_unknown (sharer : sh < 128) (unknown : (conflicting s line sh).valid = false) :
    ∃ t, exec (.biconflictReceived line sh) s = .next t ∧ t.core = s.core ∧
      (s.home.log.length < 16 → t.home.log.length = s.home.log.length + 1) := by
  obtain ⟨_, _, log, core⟩ := dirLog_part s 7 (lineTen s line) sh 0 line
  exact ⟨_, unitOk_next (decide_eq_true sharer) (if_neg (ne_true_of_eq_false unknown)), core, log⟩

/-! ## Walks -/

section
variable {n : Nat} (tenant : n < 16)
include tenant

theorem exec_directoryWalkDone_none (none : ∀ w ∈ s.home.walks, w.tenant ≠ n) : exec (.directoryWalkDone n) s = .next s := by
  have noWalk : s.home.walks.find? (fun w => w.tenant == n) = .none := List.find?_eq_none.2 fun w mem => by simpa using none w mem
  exact unitOk_next (decide_eq_true tenant) (by rw [walkDone, noWalk])

variable {w : Walk} (first : s.home.walks.find? (fun w => w.tenant == n) = some w)
include first

/-- The walk of a tenant's reset is over: its entries are free and its domain is up. -/
theorem exec_directoryWalkDone_reset (reset : w.reset = true) : ∃ t, exec (.directoryWalkDone n) s = .next t ∧ w ∉ t.home.walks ∧
    (getTen t n).down = false ∧ (getTen t n).viral = false ∧
    ∀ e ∈ s.home.dir, e.2.valid = true → e.2.tenant = n → (getDir t e.1).valid = false := by
  obtain ⟨walks, up, calm, freed⟩ := reset_walk { s with home := { s.home with walks := s.home.walks.filter (· != w) } } n
  refine ⟨_, unitOk_next (decide_eq_true tenant) ?_, ?_, up, calm, freed⟩
  · rw [walkDone, first]
    exact if_pos reset
  · rw [walks]
    simp

/-- The walk of a ream that no context and no take set waits for is over when it leaves no entry to recall. -/
theorem exec_directoryWalkDone_ream (ream : w.reset = false) (clear : removedEntries s w = []) (noContext : w.ctx = none)
    (noSet : w.set = none) : ∃ t, exec (.directoryWalkDone n) s = .next t ∧ t.home.walks = s.home.walks.filter (· != w) := by
  refine ⟨{ s with home := { s.home with walks := s.home.walks.filter (· != w) } }, unitOk_next (decide_eq_true tenant) ?_, rfl⟩
  rw [walkDone, first]
  refine (if_neg (ne_true_of_eq_false ream)).trans ((if_pos (by rw [walkClear, clear]; rfl)).trans ?_)
  rw [walkEnd, noContext, noSet]

end

/-! ## The scrubber -/

theorem exec_scrubRead_off {ch : Nat} (channel : ch < 12) (off : (getChan s ch).scrubEn = false) (other : Ecc) :
    exec (.scrubRead ch .ok other) s = .next s :=
  unitOk_next (decide_eq_true channel) (if_pos (by rw [off]; rfl))

/-- A line that reads correctly is counted, and the scrubber goes on to the next. -/
theorem exec_scrubRead_next {ch : Nat} (channel : ch < 12) (on : (getChan s ch).scrubEn = true) (share : scrubShare s ch ≠ 0)
    (serves : (getChan s ch).st = .ready ∨ (getChan s ch).st = .grouped)
    (before : (getChan s ch).scrubPos + 1 < (getChan s ch).capacity * 2 ^ 22) (other : Ecc) :
    ∃ t, exec (.scrubRead ch .ok other) s = .next t ∧ t.pool.mem = s.pool.mem ∧
      ∀ j, getChan t j = if j = ch then { getChan s ch with scrubPos := (getChan s ch).scrubPos + 1 } else getChan s j := by
  have scrubs : ¬ (!(getChan s ch).scrubEn || scrubShare s ch == 0 || !((getChan s ch).st == .ready || (getChan s ch).st == .grouped)) = true := by
    rw [on, beq_eq_false_iff_ne.2 share]
    obtain h | h := serves <;> rw [h] <;> decide
  let own := ownerAt s ch ((getChan s ch).scrubPos * 64)
  let u := topDown (countEv s 0x3004 ch own 1) 3 ch 0 own 1
  have pool : u.pool = s.pool := topDown_pool.trans countEv_pool
  have record : ∀ j, getChan u j = getChan s j := fun j => getChan_congr pool j
  refine ⟨modChan u ch fun x => { x with scrubPos := x.scrubPos + 1 },
    unitOk_next (decide_eq_true channel) ((if_neg scrubs).trans (if_pos before)),
    (congrArg Pool.mem pool : u.pool.mem = s.pool.mem), fun j => ?_⟩
  rw [getChan_modChan, record]
  split
  · next same => rw [same]
  · rfl

end Sys2Proof.Proofs.HomeEnds
end

section
/-!
SUPPORT. The rule for the home (R155 to R192), assembled from the requests it takes and from its events.
-/

namespace Sys2Proof.Proofs.Home

open Sys2Proof Sys2Proof.Machine Sys2Proof.Safety Sys2Proof.Proofs.HomeTakes Sys2Proof.Proofs.HomeEnds

/-- The rows of a channel's home, each with its kinds. -/
theorem homeRow_of_mem {ch : Nat} (channel : ch < 12) {i : Instr × (HKind → Prop)}
    (mem : i ∈ ([(.homeRds ch, fun k => k = .rds), (.homeRde ch, fun k => k = .rde), (.homeRdnc ch, fun k => k = .rdnc ∨ k = .refresh),
      (.homeWrnc ch, fun k => k = .wrnc), (.homeEvd ch, fun k => k = .evd), (.homeEvc ch, fun k => k = .evc),
      (.homeAtom ch, fun k => k = .atom)] : List (Instr × (HKind → Prop)))) : HomeRow ch i.1 i.2 := by
  simp only [List.mem_cons, List.not_mem_nil, or_false] at mem
  rcases mem with rfl | rfl | rfl | rfl | rfl | rfl | rfl
  · exact homeRow_rds channel
  · exact homeRow_rde channel
  · exact homeRow_rdnc channel
  · exact homeRow_wrnc channel
  · exact homeRow_evd channel
  · exact homeRow_evc channel
  · exact homeRow_atom channel

/-- Settles O45: the rows of the home, the transactions they open, and the events that end them. -/
theorem homeRequestsAndEvents : Obligations.HomeRequestsAndEvents := by
  unfold Obligations.HomeRequestsAndEvents
  refine ⟨fun s ch channel => ⟨fun none i mem => (homeRow_of_mem channel mem).idle s none,
    fun r next => ⟨fun i mem other => (homeRow_of_mem channel mem).waits s r next other,
      fun free registered up own serves issued => ?takes⟩⟩, fun s line => ⟨?free, fun x open_ => ⟨?read, ?write, ?snoop⟩, ?conflict,
      fun n tenant => ⟨?noWalk, ?walk⟩, ?scrub⟩⟩
  case takes =>
    have p := prem_of next free registered up own serves issued
    refine ⟨fun noEntry => ⟨?_, ?_, ?_, ?_⟩, fun n w i line found sharer => ⟨?_, ?_⟩⟩
    · intro kind
      obtain ⟨t, taken, queue, txn⟩ := Laws.AboutHomeTakes.c1 s ch r p noEntry (kind.imp id Or.inl)
      exact ⟨t, taken ▸ (homeRow_rdnc channel).serves s r next kind, queue, txn⟩
    · intro kind
      obtain ⟨t, taken, queue, txn⟩ := Laws.AboutHomeTakes.c1 s ch r p noEntry (.inr (.inr kind))
      exact ⟨t, taken ▸ (homeRow_atom channel).serves s r next kind, queue, txn⟩
    · intro kind whole
      obtain ⟨t, taken, queue, txn⟩ := Laws.AboutHomeTakes.c2 s ch r p noEntry kind whole
      exact ⟨t, taken ▸ (homeRow_wrnc channel).serves s r next kind, queue, txn⟩
    · intro w way kind notInv
      obtain ⟨t, taken, queue, txn, entry⟩ := Laws.AboutHomeTakes.c3 s ch r p noEntry kind w way notInv
      exact ⟨t, taken ▸ exec_cachingRead channel next kind, queue, txn, entry⟩
    · intro kind owned sole whole
      obtain ⟨t, taken, queue, txn, entry⟩ := Laws.AboutHomeTakes.c4 s ch r p n w i line found sharer kind owned sole whole
      exact ⟨t, taken ▸ (homeRow_evd channel).serves s r next kind, queue, line ▸ txn, entry⟩
    · intro kind noWaiter state thawed unpinned
      exact ⟨_, (homeRow_evc channel).serves s r next kind, takeReq_evictClean p found sharer kind noWaiter state thawed unpinned⟩
  case free =>
    exact fun free => ⟨exec_dramReadDone_free free, exec_dramWriteAccepted_free free,
      fun sh sharer => ⟨exec_snoopTimeout_free free sharer, exec_biResponse_free free sharer⟩⟩
  case read =>
    exact fun r q ecc2 phase req org kind chain quiet serves good =>
      Laws.AboutHomeEnds.reads s line x open_ r q ecc2 phase req org kind chain quiet serves good
  case write =>
    exact fun m d second phase data => Laws.AboutHomeEnds.writes s line x open_ m d second phase data
  case snoop =>
    exact fun sh st sharer => ⟨fun snooped more noEntry issued => exec_biResponse_removes open_ snooped sharer st more noEntry issued,
      fun n tenant snooped up => exec_snoopTimeout open_ snooped sharer tenant up⟩
  case conflict =>
    exact fun sh sharer => ⟨exec_biconflictReceived_valid sharer, exec_biconflictReceived_unknown sharer⟩
  case noWalk =>
    exact exec_directoryWalkDone_none tenant
  case walk =>
    exact fun w first => ⟨exec_directoryWalkDone_reset tenant first, exec_directoryWalkDone_ream tenant first⟩
  case scrub =>
    exact fun ch other channel => ⟨fun off => exec_scrubRead_off channel off other,
      fun on share serves before => exec_scrubRead_next channel on share serves before other⟩

end Sys2Proof.Proofs.Home
end

section
/-!
SUPPORT. Proofs about the time instructions (R229, R251, R252): the timer of AT and WAITFRAME with its timeout, assembled with the takes.
-/

namespace Sys2Proof.Proofs.TimeInstructions

open Sys2Proof Sys2Proof.Machine Sys2Proof.Safety Sys2Proof.Laws.AboutTimeInstr

variable {s : State} {c : Nat}

section
variable (context : c < 18)
include context

/-- A timer of AT that no wait shares latches event 12 at its instant. -/
theorem exec_atTimerExpiry_armed (notWaiting : ∀ v, (getCtx s c).wait ≠ .time v) :
    ((∀ v, (getCtx s c).atWait = some v → (now s).toNat < v.toNat) → exec (.atTimerExpiry c) s = .next s) ∧
    (∀ v, (getCtx s c).atWait = some v → v.toNat ≤ (now s).toNat → ∃ t, exec (.atTimerExpiry c) s = .next t ∧
      (getCtx t c).atWait = none ∧ ((getCtx s c).st ≠ .off → (getCtx s c).st ≠ .inReset → bit (getCtx s c).evm 12 = true →
        bit (getCtx t c).evp 12 = true)) := by
  obtain ⟨early, due⟩ := pTimer s c notWaiting
  exact ⟨fun before => unitOk_next (decide_eq_true context) (early before),
    fun v armed reached => ⟨atTimer s c, unitOk_next (decide_eq_true context) rfl, due v armed reached⟩⟩

/-- A wait for an instant ends when fabric time has reached it. -/
theorem exec_atTimerExpiry_wait (unarmed : (getCtx s c).atWait = none) (v : W64) (waits : (getCtx s c).wait = .time v)
    (waiting : (getCtx s c).st = .waiting) : ((now s).toNat < v.toNat → exec (.atTimerExpiry c) s = .next s) ∧
    (v.toNat ≤ (now s).toNat → ∃ t, exec (.atTimerExpiry c) s = .next t ∧ (getCtx t c).wait = .none) := by
  obtain ⟨early, due⟩ := pTimeWait s c unarmed v waits waiting
  exact ⟨fun before => unitOk_next (decide_eq_true context) (early before),
    fun reached => ⟨atTimer s c, unitOk_next (decide_eq_true context) rfl, due reached⟩⟩

variable (waiting : (getCtx s c).st = .waiting) {r : Nat} {d : BitVec 4} {v : Nat} (waits : (getCtx s c).wait = .frame r d (some v))
include waiting waits

theorem exec_waitframeTimeout : exec (.waitframeTimeout c) s = .next (if v ≤ mono s then finishWait s c (some (d, 0)) else s) := by
  refine unitOk_next (decide_eq_true context) ?_
  rw [waits, waiting]
  dsimp only
  split
  · next reached => rw [if_pos (of_decide_eq_true (Bool.and_eq_true_iff.1 reached).2)]
  · next before => rw [if_neg fun reached => before (by rw [decide_eq_true reached]; rfl)]

theorem exec_waitframeTimeout_early (before : mono s < v) : exec (.waitframeTimeout c) s = .next s := by
  rw [exec_waitframeTimeout context waiting waits, if_neg (Nat.not_le.2 before)]

/-- The timeout of a wait for a frame writes zero. -/
theorem exec_waitframeTimeout_due (reached : v ≤ mono s) : ∃ t, exec (.waitframeTimeout c) s = .next t ∧ (getCtx t c).wait = .none ∧
    ∀ j n, kget (getCtx t j) n = if j = c ∧ d ≠ 0 ∧ n = d then 0 else kget (getCtx s j) n := by
  refine ⟨finishWait s c (some (d, 0)), ?_, finishWait_wait _ _ _, fun j n => finishWait_kget s c d 0 j n⟩
  rw [exec_waitframeTimeout context waiting waits, if_pos reached]

end

/-- WAITFRAME waits for an edge of its reference, with its timeout. -/
theorem exec_waitframe {w : Ox} (issues : Issues s c 0x72 w { d := true, imm := 3, B := 2 ^ 64 - 1 }) :
    ∃ t, exec (.waitframe c w) s = .next t ∧ (getCtx t c).st = .waiting ∧
      (getCtx t c).wait = .frame (fld w.imm 0 2) w.d (if w.B = 0 then none else some (mono s + w.B.toNat)) ∧ onlyIn [.seq] s t := by
  have clock : mono (begun s c) = mono s := by rw [mono, begun_time, mono]
  obtain ⟨st, wait⟩ := ww (begun s c) c 0x72 w (.frame (fld w.imm 0 2) w.d (if w.B = 0 then none else some (mono (begun s c) + w.B.toNat)))
  refine ⟨_, res_issues (r := exec (.waitframe c w) s) rfl issues (none_in rfl), st, ?_, seqOnly⟩
  rw [← clock]
  exact wait

/-- Settles O47: AT in both forms with its timer, WAITFRAME with its timeout, and the instructions of take sets. -/
theorem timeInstructions : Obligations.TimeInstructions := by
  unfold Obligations.TimeInstructions
  intro s c w i x k one at_
  exact ⟨pAt s c w, fun context notWaiting => exec_atTimerExpiry_armed context notWaiting,
    fun context unarmed v waits waiting => exec_atTimerExpiry_wait context unarmed v waits waiting,
    fun issues => exec_waitframe issues,
    fun context waiting r d v waits => ⟨exec_waitframeTimeout_early context waiting waits, exec_waitframeTimeout_due context waiting waits⟩,
    pAdd s c w i rfl, pArm s c w i rfl, pDrop s c w i rfl⟩

end Sys2Proof.Proofs.TimeInstructions
end

section
/-!
SUPPORT. Proofs about the discipline of fabric time (R280 to R283): an edge of the pulse-per-second input in each mode, its loss, and the
writes that step or steer the time.
-/

namespace Sys2Proof.Proofs.FabricTime

open Sys2Proof Sys2Proof.Machine Sys2Proof.Safety Sys2Proof.Laws.AboutTime

/-! ## An edge of the pulse -/

section
variable (s : State) (age : Nat)

/-- The captured time of an edge. -/
def captureOf : W64 := s.time.fab - BitVec.ofNat 64 age

/-- The phase error of an edge. -/
def errorOf : Int := phaseErr (captureOf s age)

/-- The state with an edge captured. -/
def captured : State := modTime s fun t => { t with pps := captureOf s age, ppsErr := errorOf s age, ppsMono := t.mono.toNat, holdover := false }

/-- The time unit with an edge captured, but for the take sets. -/
def edgeTime : TimeU :=
  { s.time with pps := captureOf s age, ppsErr := errorOf s age, ppsMono := s.time.mono.toNat, holdover := false, take := [] }

/-- The state with an edge captured and judged by the lock of the servo. -/
def judged : State := timeEv s.time (modTime (captured s age) fun t => lockStep t (errorOf s age))

theorem judged_time : (judged s age).time = lockStep (captured s age).time (errorOf s age) := timeEv_tk _ _

/-- What the edge does, by what was asked and by the mode. -/
theorem exec_timePpsEdge : exec (.timePpsEdge age) s = .next (
    if s.time.setAtPps then stepTime (modTime (captured s age) fun t => { t with setAtPps := false }) (s.time.set + BitVec.ofNat 64 age)
    else if s.time.mode = 1 then
      if s.time.thresh < (errorOf s age).natAbs then stepTime (judged s age) ((judged s age).time.fab - BitVec.ofInt 64 (errorOf s age))
      else modTime (judged s age) fun t => servoStep t (errorOf s age)
    else captured s age) := rfl

/-- Within the threshold the servo steers the rate. -/
theorem judged_steered : ({ (modTime (judged s age) fun t => servoStep t (errorOf s age)).time with take := [] } : TimeU) =
    servoStep (lockStep (edgeTime s age) (errorOf s age)) (errorOf s age) := by
  change ({ servoStep (judged s age).time (errorOf s age) with take := [] } : TimeU) = _
  rw [judged_time, servo_take, lock_take]
  rfl

theorem judged_steered_take : (modTime (judged s age) fun t => servoStep t (errorOf s age)).time.take = s.time.take := by
  change (judged s age).time.take = _
  rw [judged_time, (lock_rest _ _).1]
  rfl

/-- Beyond the threshold the time is stepped by the error. -/
theorem judged_stepped :
    ({ (stepTime (judged s age) ((judged s age).time.fab - BitVec.ofInt 64 (errorOf s age))).time with take := [] } : TimeU) =
      { lockStep (edgeTime s age) (errorOf s age) with
        fab := s.time.fab - BitVec.ofInt 64 (errorOf s age), stepped := true, steps := satAdd 0xFFFF s.time.steps 1 } := by
  rw [step_tk, judged_time]
  exact lock_fab (captured s age).time (edgeTime s age) (errorOf s age) _ rfl

variable {s}

theorem exec_timePpsEdge_set (asked : s.time.setAtPps = true) : ∃ t, exec (.timePpsEdge age) s = .next t ∧
    ({ t.time with take := [] } : TimeU) =
      { edgeTime s age with setAtPps := false, fab := s.time.set + BitVec.ofNat 64 age, stepped := true,
                            steps := satAdd 0xFFFF s.time.steps 1 } := by
  refine ⟨_, exec_timePpsEdge s age, ?_⟩
  rw [if_pos asked, step_tk]
  rfl

theorem exec_timePpsEdge_free (notAsked : s.time.setAtPps = false) (notServo : s.time.mode ≠ 1) :
    exec (.timePpsEdge age) s = .next (captured s age) := by
  rw [exec_timePpsEdge, if_neg (ne_true_of_eq_false notAsked), if_neg notServo]

theorem exec_timePpsEdge_servo (notAsked : s.time.setAtPps = false) (servo : s.time.mode = 1) : ∃ t, exec (.timePpsEdge age) s = .next t ∧
    ((errorOf s age).natAbs ≤ s.time.thresh → ({ t.time with take := [] } : TimeU) =
      servoStep (lockStep (edgeTime s age) (errorOf s age)) (errorOf s age) ∧ t.time.take = s.time.take) ∧
    (s.time.thresh < (errorOf s age).natAbs → ({ t.time with take := [] } : TimeU) =
      { lockStep (edgeTime s age) (errorOf s age) with
        fab := s.time.fab - BitVec.ofInt 64 (errorOf s age), stepped := true, steps := satAdd 0xFFFF s.time.steps 1 }) := by
  refine ⟨_, exec_timePpsEdge s age, fun within => ?_, fun beyond => ?_⟩
  · rw [if_neg (ne_true_of_eq_false notAsked), if_pos servo, if_neg (Nat.not_lt.2 within)]
    exact ⟨judged_steered s age, judged_steered_take s age⟩
  · rw [if_neg (ne_true_of_eq_false notAsked), if_pos servo, if_pos beyond]
    exact judged_stepped s age

end

/-! ## Loss of the pulse, and writes -/

variable {s : State}

theorem exec_ppsLossTimeout_early (early : mono s < s.time.ppsMono + 1500000000) : exec .ppsLossTimeout s = .next s :=
  unitOk_next rfl (if_pos early)

theorem exec_ppsLossTimeout_due (due : s.time.ppsMono + 1500000000 ≤ mono s) : ∃ t, exec .ppsLossTimeout s = .next t ∧
    t.time = { s.time with ppsLost := true, locked := false, goodRun := 0, holdover := s.time.holdover || s.time.mode == 1 } :=
  ⟨_, unitOk_next rfl (if_neg (Nat.not_lt.2 due)), timeEv_tk _ _⟩

theorem onlyIn_timeAdjWrite (v : W32) : onlyIn [.time] s (timeAdjWrite v s) := by
  unfold timeAdjWrite
  split
  · exact tOnly
  · exact (Rel.refl (ch := 0) s).onlyIn fun p _ => by cases p <;> rfl

/-- Settles O48: an edge of the pulse in each mode, its loss, and the writes of the time. -/
theorem fabricTimeCommands : Obligations.FabricTimeCommands := by
  unfold Obligations.FabricTimeCommands
  intro s v age o cap e rest edge
  exact ⟨fun asked => exec_timePpsEdge_set age asked,
    fun notAsked notServo => ⟨_, exec_timePpsEdge_free age notAsked notServo, rfl, rfl, tOnly⟩,
    fun notAsked servo => exec_timePpsEdge_servo age notAsked servo,
    exec_ppsLossTimeout_early, exec_ppsLossTimeout_due,
    ⟨_, rfl, step_tk s s.time.set⟩, ⟨_, rfl, rfl, tOnly⟩, ⟨_, rfl, ctrl s v⟩, ⟨_, rfl, adjW s v, onlyIn_timeAdjWrite v⟩⟩

end Sys2Proof.Proofs.FabricTime
end

section
/-!
SUPPORT. Proofs about TENANT, the ends of unit resets and holds (R301, R302, R305, R310, R311).
-/

namespace Sys2Proof.Proofs.Tenants

open Sys2Proof Sys2Proof.Machine Sys2Proof.Safety Sys2Proof.Laws.AboutTenants

/-! ## TENANT -/

section
variable {s : State} {c : Nat} {w : Ox}

/-- The shape of TENANT in its ops (Table OXI-20). -/
def tenantShape (w : Ox) : Shape0 :=
  { imm := 0xF0F, B := match fld w.imm 8 4 with | 0 => 0x103FF | 2 => 0x3FF | 3 => 0x10000 | _ => 0 }

/-- The tenant a TENANT instruction names. -/
abbrev named (w : Ox) : Nat := fld w.imm 0 4

/-- The tenants of `t` are those of `s` but the named one, which is `y`. -/
def oneTenant (s t : State) (w : Ox) (y : Ten) : Prop := ∀ j, getTen t j = if j = named w then y else getTen s j

theorem getTen_retired (u : State) (c op : Nat) (w : Ox) (st j : Nat) : getTen (endTurn (retireSt u c op w st) c) j = getTen u j :=
  getTen_congr (by rw [endTurn_ten, retireSt_ten]) j

theorem modTen_begun_tenants (f : Ten → Ten) (j : Nat) :
    getTen (modTen (begun s c) (named w) f) j = if j = named w then f (getTen s (named w)) else getTen s j := by
  rw [T, getTen_congr (begun_ten s c), getTen_congr (begun_ten s c)]

theorem tenHeld_begun (s : State) (c i : Nat) : tenHeld (begun s c) i = tenHeld s i := by
  obtain ⟨q, e⟩ := begun_eq s c
  rw [e]
  rfl

theorem vppbsUsed_begun (s : State) (c : Nat) : vppbsUsed (begun s c) = vppbsUsed s := by
  obtain ⟨q, e⟩ := begun_eq s c
  rw [e]
  rfl

variable {row : Nat → Bool} {eff : State → Nat → State} {i : Instr} {v : State}

/-- A row of TENANT where the tenant exists, or is to be created, takes its effect. -/
theorem exec_tenant (run : exec i s = unitOk (c < 18) (tenantRun c row w eff s)) (has : row (fld w.imm 8 4) = true)
    (defined : fld w.imm 8 4 ≤ 3) (h : Issues s c 0xA0 w (tenantShape w))
    (there : fld w.imm 8 4 = 0 ∨ (getTen s (named w)).exist = true) (effect : eff (begun s c) (named w) = v) :
    exec i s = .next (endTurn v c) := by
  subst effect
  rw [run_of run has defined h, if_neg]
  rcases there with create | exists_
  · rw [create]
    simp
  · rw [show getTen s (fld w.imm 0 4) = getTen s (named w) from rfl, exists_]
    simp

/-- A row of TENANT but create leaves everything where the tenant does not exist. -/
theorem exec_tenant_absent (run : exec i s = unitOk (c < 18) (tenantRun c row w eff s)) (has : row (fld w.imm 8 4) = true)
    (defined : fld w.imm 8 4 ≤ 3) (h : Issues s c 0xA0 w (tenantShape w)) (notCreate : fld w.imm 8 4 ≠ 0)
    (absent : (getTen s (named w)).exist = false) : ∃ t, exec i s = .next t ∧ Did [] s t c := by
  refine ⟨endTurn (retireSt (begun s c) c 0xA0 w 7) c, ?_, didE⟩
  rw [run_of run has defined h, if_pos]
  rw [show getTen s (fld w.imm 0 4) = getTen s (named w) from rfl, absent]
  simpa using notCreate

section
variable (h : Issues s c 0xA0 w (tenantShape w))
include h

theorem exec_tenantCreate_refused (op : fld w.imm 8 4 = 0) (taken : (getTen s (named w)).exist = true ∨ 256 ≤ vppbsUsed s) :
    ∃ t, exec (.tenantCreate c w) s = .next t ∧ Did [] s t c := by
  refine ⟨_, exec_tenant (i := .tenantCreate c w) rfl (by rw [op]; rfl) (by omega) h (.inl op) (if_pos ?_), didE⟩
  rw [getTen_congr (begun_ten s c), vppbsUsed_begun]
  simpa using taken

omit h in
/-- The new context of a tenant leaves the tenants. -/
theorem getTen_tenCreate (u : State) (n timeout : Nat) (grant : Bool) (j : Nat) : getTen (tenCreate u n timeout grant) j = if j = n then
    { getTen u n with exist := true, timeout := timeout, ctrRead := grant, base := 0, len := 0, sharer := [] } else getTen u j := by
  have tenants : (tenCreate u n timeout grant).ten = (modTen (zeroTenCtrs u n) n fun x =>
      { x with exist := true, timeout := timeout, ctrRead := grant, base := 0, len := 0, sharer := [] }).ten := rfl
  rw [getTen_congr tenants, T, getTen_congr (zt ..), getTen_congr (zt ..)]

theorem exec_tenantCreate (op : fld w.imm 8 4 = 0) (free : (getTen s (named w)).exist = false) (room : vppbsUsed s < 256) :
    ∃ t, exec (.tenantCreate c w) s = .next t ∧ oneTenant s t w
      { getTen s (named w) with
        exist := true, timeout := fld w.B 0 10, ctrRead := bit w.B 16, base := 0, len := 0, sharer := [] } := by
  refine ⟨_, exec_tenant (i := .tenantCreate c w) rfl (by rw [op]; rfl) (by omega) h (.inl op) (if_neg ?_), fun j => ?_⟩
  · rw [getTen_congr (begun_ten s c), vppbsUsed_begun, free]
    simpa using room
  · rw [getTen_retired, getTen_congr ((restartTakes_rel (ch := 12865536) rfl (.refl _)).f13 rfl)]
    rw [getTen_tenCreate, getTen_congr (begun_ten s c), getTen_congr (begun_ten s c)]

theorem exec_tenantRemove_refused (op : fld w.imm 8 4 = 1) (there : (getTen s (named w)).exist = true) (held : tenHeld s (named w) = true) :
    ∃ t, exec (.tenantRemove c w) s = .next t ∧ Did [] s t c :=
  ⟨_, exec_tenant (i := .tenantRemove c w) rfl (by rw [op]; rfl) (by omega) h (.inr there) (if_pos ((tenHeld_begun ..).trans held)), didE⟩

omit h in
/-- A tenant being removed is in reset, with the next generation tag where it was not before. -/
theorem removing_tenant (u : State) (i : Nat) (there : (getTen u i).exist = true) :
    let y := getTen (modTen (resetTenant u i) i fun x => { x with removing := true }) i
    y.removing = true ∧ y.inReset = true ∧ y.genTag = (getTen u i).genTag + if (getTen u i).inReset then 0 else 1 := by
  dsimp only
  rw [T, if_pos rfl]
  cases reset : (getTen u i).inReset
  · rw [reset_ten u i there reset]
    exact ⟨rfl, rfl, rfl⟩
  · rw [show resetTenant u i = u from if_pos (by simp [reset])]
    exact ⟨rfl, reset, by simp⟩

theorem exec_tenantRemove (op : fld w.imm 8 4 = 1) (there : (getTen s (named w)).exist = true) (unheld : tenHeld s (named w) = false)
    (ready : (getTen s (named w)).inReset = true ∨ tenWaits (begun s c) (named w) = false) :
    ∃ t, exec (.tenantRemove c w) s = .next t ∧ (getTen t (named w)).removing = true ∧ (getTen t (named w)).inReset = true ∧
      (getTen t (named w)).genTag = (getTen s (named w)).genTag + (if (getTen s (named w)).inReset then 0 else 1) := by
  have same : getTen (waitWith (begun s c) c 0xA0 w (.unit 2 (named w))) (named w) = getTen s (named w) :=
    getTen_congr (waitWith_ten.trans (begun_ten s c)) _
  refine ⟨_, exec_tenant (i := .tenantRemove c w) rfl (by rw [op]; rfl) (by omega) h (.inr there) ((if_neg ?_).trans (if_neg ?_)), ?_⟩
  · rw [tenHeld_begun, unheld]
    decide
  · rw [getTen_congr (begun_ten s c)]
    rcases ready with reset | free
    · rw [reset]; simp
    · rw [free]; simp
  · have y := removing_tenant (waitWith (begun s c) c 0xA0 w (.unit 2 (named w))) (named w) (same ▸ there)
    rw [same] at y
    rw [getTen_congr endTurn_ten]
    exact y

omit h in
/-- A changed field of the tenant is all a retired TENANT leaves. -/
theorem tenant_field {f : Ten → Ten} {i : Instr}
    (run : exec i s = .next (endTurn (retireSt (modTen (begun s c) (named w) f) c 0xA0 w 0) c)) :
    ∃ t, exec i s = .next t ∧ oneTenant s t w (f (getTen s (named w))) ∧ Did [.ten] s t c :=
  ⟨_, run, fun j => (getTen_retired ..).trans (modTen_begun_tenants f j),
    did_of (ch := 12993538 + 2^13) (modTen_rel rfl (begun_rel rfl (.refl s))) (fun j => begun_regs s c j) rfl
      (by intro p hp; cases p <;> first | rfl | (exact absurd (by decide) hp))⟩

end

end

/-! ## Ends of unit resets -/

section
variable {s : State} {kind i : Nat}

theorem exec_unitResetEnd (unit : unitExists kind i = true) :
    exec (.unitResetEnd kind i) s = .next (retireUnits (endUnitReset s kind i)) := unitOk_next unit rfl

/-- A context that waited for a unit whose reset is over waits no longer. -/
theorem retireUnits_waiter {u : State} {c : Nat} (context : c < 18) (settled : unitSettled u kind i = true)
    (waits : (getCtx u c).wait = .unit kind i) : (getCtx (retireUnits u) c).wait = .none := by
  refine (rw_wait (fun wt => match wt with | .unit k i => unitSettled u k i | _ => false) rfl (List.range 18) u c).trans (if_pos ?_)
  rw [waits]
  exact ⟨List.mem_range.2 context, settled⟩

/-- The ports of a quire that leaves reset leave the quire's own record. -/
theorem quireRun_quire (s : State) (q : Nat) : (quireRun s q).quire = (modQuire s q fun x => { x with rst := .run }).quire :=
  (Rel.forL (ch := 147456) (fun _ _ h => endPort_rel rfl (modPort_rel rfl h)) (.refl _)).f15 rfl

theorem endQuire_rst (reset : (getQuire s i).rst = .inReset) :
    (getQuire (endQuire s i) i).rst = if heldBy s ⟨1, i⟩ then .held else .run := by
  rw [endQuire, if_neg (by rw [reset]; decide)]
  cases heldBy s ⟨1, i⟩
  · rw [if_neg Bool.false_ne_true, getQuire_congr (quireRun_quire s i), getQuire_modQuire, if_pos rfl]
    rfl
  · rw [if_pos rfl, getQuire_congr ((newEntry__rel (ch := 131072) rfl (.refl _)).f15 rfl), getQuire_modQuire, if_pos rfl]
    rfl

theorem endTenant_ten (reset : (getTen s i).inReset = true) (quiet : tenantQuiet s i = true) (kept : (getTen s i).removing = false) :
    getTen (endTenant s i) i = { getTen s i with inReset := false } := by
  rw [endTenant, if_neg (by rw [reset, quiet]; decide), if_neg (ne_true_of_eq_false kept), getTen_modTen, if_pos rfl,
    getTen_congr ((ctxRelease_rel (ch := 1024) rfl (.refl s)).f13 rfl)]

theorem endChan_chan (reset : (getChan s i).rst = .inReset) : getChan (endChan s i) i = if heldBy s ⟨3, i⟩ then
    { getChan s i with rst := .held } else { getChan s i with rst := .run, st := chanBack (getChan s i).stBefore, stBefore := .off } := by
  rw [endChan, if_neg (by rw [reset]; decide)]
  cases heldBy s ⟨3, i⟩
  · rw [if_neg Bool.false_ne_true, chanRun, getChan_modChan, if_pos rfl]
    rfl
  · rw [if_pos rfl, getChan_congr ((newEntry__rel (ch := 131072) rfl (.refl _)).f7 rfl), getChan_modChan, if_pos rfl]
    rfl

theorem endSlot_slot (reset : (getSlot s i).st = .inReset) : getSlot (endSlot s i) i = { getSlot s i with st := .off } := by
  rw [endSlot, if_pos (by rw [reset]; decide), getSlot_modSlot, if_pos rfl]

theorem endMover_mov (reset : (getMov s i).rst = .inReset) : getMov (endMover s i) i = if heldBy s ⟨6, i⟩ then
    { getMov s i with rst := .held } else { getMov s i with st := .idle, rst := .run } := by
  rw [endMover, if_neg (by rw [reset]; decide)]
  cases heldBy s ⟨6, i⟩
  · rw [if_neg Bool.false_ne_true, moverRun, getMov_modMov, if_pos rfl]
    rfl
  · rw [if_pos rfl, getMov_congr ((newEntry__rel (ch := 131072) rfl (.refl _)).f11 rfl), getMov_modMov, if_pos rfl]
    rfl

end

/-! ## Holds -/

section
variable {s : State} {n : Nat} (v : W32)

/-- The hold entry a written word names. -/
def holdOf : Hold := { enable := bit v 31, kind := fld v 24 4, index := fld v 0 7 }

variable {v}

theorem exec_glbHoldWrite_ignored (entry : n < 8) (on : bit v 31 = true) (notPort : fld v 24 4 ≠ 0) (notQuire : fld v 24 4 ≠ 1)
    (notChan : fld v 24 4 ≠ 3) (notMover : fld v 24 4 ≠ 6) : ∃ t, exec (.glbHoldWrite n v) s = .next t ∧ t.glb = s.glb :=
  ⟨_, unitOk_next (decide_eq_true entry) (if_pos (by simp [on, notPort, notQuire, notChan, notMover])), logEvent_glb⟩

theorem exec_glbHoldWrite (entry : n < 8)
    (stored : bit v 31 = false ∨ fld v 24 4 = 0 ∨ fld v 24 4 = 1 ∨ fld v 24 4 = 3 ∨ fld v 24 4 = 6) :
    ∃ t, exec (.glbHoldWrite n v) s = .next t ∧ t.glb = { s.glb with hold := tput {} s.glb.hold n (holdOf v) } := by
  refine ⟨_, unitOk_next (decide_eq_true entry) (if_neg ?_), (releaseHolds_rel (ch := 182400) rfl (.refl _)).f0 rfl⟩
  rcases stored with h | h | h | h | h <;> simp [h]

end

/-- Settles O50: TENANT in each op, the ends of unit resets, and the hold entries. -/
theorem tenantsAndUnitResetEnds : Obligations.TenantsAndUnitResetEnds := by
  unfold Obligations.TenantsAndUnitResetEnds
  refine ⟨fun s c w h => ⟨exec_tenantCreate_refused h, exec_tenantCreate h, fun notCreate defined absent => ⟨?_, ?_, ?_⟩,
    fun there => ⟨fun op => exec_tenantRemove_refused h op there, fun op => exec_tenantRemove h op there, ?_, ?_⟩⟩,
    fun s kind i unit => ⟨fun c context settled waits => ⟨_, exec_unitResetEnd unit, retireUnits_waiter context settled waits⟩,
      ⟨_, exec_unitResetEnd unit, ?_, ?_, ?_, ?_, ?_⟩, fun n v entry => ⟨exec_glbHoldWrite_ignored entry, exec_glbHoldWrite entry⟩⟩⟩
  · exact fun op => exec_tenant_absent rfl (by rw [op]; rfl) defined h notCreate absent
  · exact fun op => exec_tenant_absent rfl (by rw [op]; rfl) defined h notCreate absent
  · exact fun op => exec_tenant_absent rfl (by rw [op]; rfl) defined h notCreate absent
  · exact fun op => tenant_field (exec_tenant (i := .tenantTimeout c w) rfl (by rw [op]; rfl) (by omega) h (.inr there) rfl)
  · exact fun op => tenant_field (exec_tenant (i := .tenantCounterRead c w) rfl (by rw [op]; rfl) (by omega) h (.inr there) rfl)
  · rintro rfl reset
    exact (congrArg Quire.rst (getQuire_congr ((ru _).f15 rfl) i)).trans (endQuire_rst reset)
  · rintro rfl reset quiet kept
    exact (getTen_congr ((ru _).f13 rfl) i).trans (endTenant_ten reset quiet kept)
  · rintro rfl reset
    exact (getChan_congr ((ru _).f7 rfl) i).trans (endChan_chan reset)
  · rintro rfl reset
    exact (getSlot_congr ((ru _).f4 rfl) i).trans (endSlot_slot reset)
  · rintro rfl reset
    exact (getMov_congr ((ru _).f11 rfl) i).trans (endMover_mov reset)

end Sys2Proof.Proofs.Tenants
end

section
/-!
SUPPORT. The rule for RESETU, one kind of unit after the other (R305, R307, R308, R311).
-/

namespace Sys2Proof.Proofs.UnitResets

open Sys2Proof Sys2Proof.Machine Sys2Proof.Safety Sys2Proof.Laws.AboutUnitResets

/-- Settles O51: RESETU of each kind of unit, by the lemma of its kind. -/
theorem unitResetInstructions : Obligations.UnitResetInstructions := by
  unfold Obligations.UnitResetInstructions
  intro s c w kind unit begun h
  refine ⟨?port, ?quire, ?tenant, ?channel, ?slot, ?context, ?mover, ?link, ?domain⟩
  case port => exact fun k lead => kp s c w unit h rfl k lead
  case quire => exact fun k bound => kq s c w unit h rfl k bound
  case tenant => exact fun k bound => kt s c w unit h rfl k bound
  case channel => exact fun k bound => kc s c w unit h rfl k bound
  case slot => exact fun k bound => ks s c w unit h rfl k bound
  case context => exact fun k bound other => kx s c w unit h rfl k bound other
  case mover => exact fun k bound => km s c w unit h rfl k bound
  case link => exact fun k bound => kl s c w unit h rfl k bound
  case domain => exact fun k bound => kd s c w unit h rfl k bound

end Sys2Proof.Proofs.UnitResets
end

section
/-!
SUPPORT. Proofs about COUCH, its handover and the self test (R315 to R318), and about LOCK and the fuse action it starts (R208, R210).
-/

namespace Sys2Proof.Proofs.CouchAndLock

open Sys2Proof Sys2Proof.Machine Sys2Proof.Safety Sys2Proof.Proofs.Issue Sys2Proof.Laws.AboutSteward Sys2Proof.Laws.AboutMachine

variable {s : State} {c : Nat} {w : Ox}

/-! ## COUCH -/

/-- The quires of `t` are those of `s` but `q`, which is `y`. -/
def oneQuire (s t : State) (q : Nat) (y : Quire) : Prop := ∀ j, getQuire t j = if j = q then y else getQuire s j

/-- A quire may start its handover toward the spare, or home (R315). -/
def mayCouch (s : State) (q : Nat) (home : Bool) : Prop :=
  (getQuire s q).rst = .run ∧ (getQuire s q).busy = false ∧ (getQuire s q).couched = home ∧ (home = false → spareBusy s q = false)

theorem getQuire_begun (s : State) (c q : Nat) : getQuire (begun s c) q = getQuire s q := getQuire_congr (begun_quire s c) q

theorem spareBusy_begun (s : State) (c q : Nat) : spareBusy (begun s c) q = spareBusy s q := by
  obtain ⟨x, e⟩ := begun_eq s c
  rw [e]
  rfl

/-- What COUCH does to its quire in one direction. -/
def couchEffect (s : State) (c : Nat) (w : Ox) (home : Bool) (q : Nat) : State :=
  if (getQuire s q).rst != .run then retireSt s c 0xA2 w 7
  else if (getQuire s q).busy || (getQuire s q).couched != home || (!home && spareBusy s q) then retireSt s c 0xA2 w 2
  else waitWith (modQuire s q fun x => { x with busy := true, toSpare := !home }) c 0xA2 w (.couch q)

theorem couchRun_eq {home : Bool} (direction : bit w.imm 8 = home) : couchRun c home w s =
    oxRun c 0xA2 w { imm := 0x10F } (fun _ _ => [(11 < fld w.imm 0 4, 0x11)]) (fun s _ => couchEffect s c w home (fld w.imm 0 4)) s := by
  rw [couchRun, if_neg (by simp [direction])]
  rfl

/-- Either direction of COUCH, which its control bit selects. -/
theorem exec_couch {home : Bool} {i : Instr} (run : exec i s = unitOk (c < 18) (couchRun c home w s)) (direction : bit w.imm 8 = home)
    (quire : fld w.imm 0 4 < 12) (h : Issues s c 0xA2 w { imm := 0x10F }) :
    exec i s = .next (endTurn (couchEffect (begun s c) c w home (fld w.imm 0 4)) c) := by
  rw [couchRun_eq direction] at run
  have below : decide (11 < fld w.imm 0 4) = false := decide_eq_false (by omega)
  exact res_issues (eff := fun s _ => couchEffect s c w home (fld w.imm 0 4)) run h (passes_cons below passes_nil)

theorem couchEffect_starts {home : Bool} {q : Nat} (may : mayCouch s q home) :
    let t := endTurn (couchEffect (begun s c) c w home q) c
    oneQuire s t q { getQuire s q with busy := true, toSpare := !home } ∧ (getCtx t c).wait = .couch q ∧ onlyIn [.seq, .quire] s t := by
  obtain ⟨runs, idle, there, free⟩ := may
  have starts : couchEffect (begun s c) c w home q =
      waitWith (modQuire (begun s c) q fun x => { x with busy := true, toSpare := !home }) c 0xA2 w (.couch q) := by
    rw [couchEffect, getQuire_begun, spareBusy_begun, if_neg (by rw [runs]; decide), if_neg]
    rw [idle, there]
    cases home
    · simp [free rfl]
    · simp
  dsimp only
  rw [starts]
  refine ⟨fun j => ?_, ww .., ?_⟩
  · rw [getQuire_congr (endTurn_quire.trans waitWith_quire), Q, getQuire_begun, getQuire_begun]
  · exact touch (m := 33792) (by decide) (endTurn_rel rfl (waitWith_rel rfl (modQuire_rel rfl (begun_rel rfl (.refl s)))))

theorem couchEffect_refused {home : Bool} {q : Nat} (not : ¬mayCouch s q home) :
    Did [] s (endTurn (couchEffect (begun s c) c w home q) c) c := by
  rw [couchEffect, getQuire_begun, spareBusy_begun]
  by_cases runs : (getQuire s q).rst = .run
  · rw [if_neg (by rw [runs]; decide), if_pos]
    · exact didE
    · cases busy : (getQuire s q).busy
      · by_cases there : (getQuire s q).couched = home
        · have noSpare : ¬(home = false → spareBusy s q = false) := fun free => not ⟨runs, busy, there, free⟩
          rw [Classical.not_imp, Bool.not_eq_false] at noSpare
          simp [noSpare.1, noSpare.2]
        · simp [there]
      · rfl
  · rw [if_pos (by simpa using runs)]
    exact didE

/-! ## The handover's end and the self test -/

/-- The quire's record after its handover. -/
def afterHandover (x : Quire) (stall : Nat) : Quire :=
  { x with couched := x.toSpare, busy := false, lastStall := min 0xFFFF stall,
           bistDone := x.bistDone && !x.toSpare, bistPass := x.bistPass && !x.toSpare }

theorem exec_couchHandoverEnd_idle {q stall : Nat} (quire : q < 12) (idle : (getQuire s q).busy = false) :
    exec (.couchHandoverEnd q stall) s = .next s :=
  unitOk_next (decide_eq_true quire) (if_pos (by rw [idle]; rfl))

theorem exec_couchHandoverEnd {q stall : Nat} (quire : q < 12) (busy : (getQuire s q).busy = true) :
    ∃ t, exec (.couchHandoverEnd q stall) s = .next t ∧ oneQuire s t q (afterHandover (getQuire s q) stall) ∧
      ∀ d, d < 18 → (getCtx s d).wait = .couch q → (getCtx t d).wait = .none := by
  refine ⟨_, unitOk_next (decide_eq_true quire) (if_neg (by rw [busy]; decide)), fun j => ?_, fun d context waits => ?_⟩
  · rw [getQuire_congr ((retireWaiters_rel (ch := 549864450) rfl (quireCount_rel rfl (.refl _))).f15 rfl), Q]
    refine ite_congr rfl (fun _ => ?_) (fun _ => rfl)
    cases e : (getQuire s q).toSpare <;> simp [afterHandover, e]
  · refine (rw_wait (fun wt => wt == .couch q) rfl _ _ d).trans (if_pos ⟨List.mem_range.2 context, ?_⟩)
    rw [getCtx_congr ((quireCount_rel (ch := 131072) rfl (.refl _)).f10 rfl)]
    exact beq_iff_eq.2 waits

theorem exec_qpeSelfTestEnd {q : Nat} {pass : Bool} (quire : q < 12)
    (may : (getQuire s q).couched = true ∧ (getQuire s q).busy = false ∧ (getQuire s q).bistDone = false) :
    ∃ t, exec (.qpeSelfTestEnd q pass) s = .next t ∧ oneQuire s t q { getQuire s q with bistDone := true, bistPass := pass } ∧
      onlyIn [.quire] s t := by
  obtain ⟨couched, idle, fresh⟩ := may
  refine ⟨_, unitOk_next (decide_eq_true quire) (if_pos (by rw [couched, idle, fresh]; rfl)), fun j => ?_, ?_⟩
  · exact Q ..
  · exact touch (m := 32768) (by decide) (modQuire_rel rfl (.refl s))

theorem exec_qpeSelfTestEnd_idle {q : Nat} {pass : Bool} (quire : q < 12)
    (not : ¬((getQuire s q).couched = true ∧ (getQuire s q).busy = false ∧ (getQuire s q).bistDone = false)) :
    exec (.qpeSelfTestEnd q pass) s = .next s :=
  unitOk_next (decide_eq_true quire) (if_neg (by simpa [and_assoc] using not))

/-! ## LOCK -/

/-- LOCK starts a fuse action and waits for it. -/
def startsFuse (s t : State) (c : Nat) (f : FuseOp) : Prop :=
  t.glb = { s.glb with fuse := some (c, f) } ∧ (getCtx t c).wait = .fuse ∧ onlyIn [.seq, .glb] s t

section
variable {i : Instr} {row : Nat → Bool} {sh : Shape0} {chk : State → Ctx → List (Bool × Nat)} {claimed done : State → Bool}
  {f : State → FuseOp} (run : exec i s = unitOk (c < 18) (lockRun c row w sh chk claimed done f s)) (h : Issues s c 0xA3 w sh)
  (has : row (fld w.imm 0 4) = true) (defined : fld w.imm 0 4 ≤ 3) (ok : passes (chk (begun s c) (getCtx (begun s c) c)))
include run h has defined ok

theorem exec_lock_claimed (refused : claimed (begun s c) = true) : ∃ t, exec i s = .next t ∧ Did [] s t c := by
  refine ⟨_, run.trans (lockI h has defined ok), ?_⟩
  rw [if_pos refused]
  exact didE

theorem exec_lock_done (allowed : claimed (begun s c) = false) (already : done (begun s c) = true) :
    ∃ t, exec i s = .next t ∧ Did [] s t c := by
  refine ⟨_, run.trans (lockI h has defined ok), ?_⟩
  rw [if_neg (ne_true_of_eq_false allowed), if_pos already]
  exact didE

theorem exec_lock_starts (allowed : claimed (begun s c) = false) (new : done (begun s c) = false) (free : s.glb.fuse = none) :
    ∃ t, exec i s = .next t ∧ startsFuse s t c (f (begun s c)) := by
  refine ⟨_, run.trans (lockI h has defined ok), ?_⟩
  rw [if_neg (ne_true_of_eq_false allowed), if_neg (ne_true_of_eq_false new), begun_glb, if_neg (by rw [free]; decide), ← begun_glb s c]
  exact startsL

end

/-- What LOCK fuse key does to the slot `k` with a hash at `a`. -/
def fuseKeyEffect (s : State) (c : Nat) (w : Ox) : State :=
  let k := fld w.imm 8 2
  let a := w.B.toNat
  let q : Chk := { ctxChk c 2 a 0 with r := true }
  if bit s.glb.keyValid k || s.glb.life == .secured || s.glb.life == .returned then retireSt s c 0xA3 w 2
  else if !spanOk s q 48 then accessFault s c 0xA3 q
  else if psErr s a 48 then faultCtx s c 0xA3 0x18
  else if s.glb.fuse.isSome then waitAgain s c
  else waitWith { s with glb := { s.glb with fuse := some (c, .key k (keyHashAt s a)) } } c 0xA3 w .fuse

section
variable (op : fld w.imm 0 4 = 3) (h : Issues s c 0xA3 w { imm := 0x30F, B := 2 ^ 64 - 1 }) (fits : w.B.toNat + 48 ≤ 2 ^ 20)
  (aligned : w.B.toNat % 16 = 0)
include op h fits aligned

theorem exec_lockFuseKey : exec (.lockFuseKey c w) s = .next (endTurn (fuseKeyEffect (begun s c) c w) c) := by
  have run : exec (.lockFuseKey c w) s = unitOk (c < 18) (oxRun c 0xA3 w { imm := 0x30F, B := 2 ^ 64 - 1 }
      (fun _ _ => [(2 ^ 20 < w.B.toNat + 48, 0x11), (w.B.toNat % 16 != 0, 0x15)]) (fun s _ => fuseKeyEffect s c w) s) :=
    congrArg (unitOk (c < 18)) (if_neg (by rw [op]; decide))
  exact res_issues run h (passes_cons (decide_eq_false (Nat.not_lt.2 fits)) (passes_cons (by rw [aligned]; rfl) passes_nil))

theorem exec_lockFuseKey_refused
    (not : ¬(bit s.glb.keyValid (fld w.imm 8 2) = false ∧ s.glb.life ≠ .secured ∧ s.glb.life ≠ .returned)) :
    ∃ t, exec (.lockFuseKey c w) s = .next t ∧ Did [] s t c := by
  refine ⟨_, exec_lockFuseKey op h fits aligned, ?_⟩
  rw [fuseKeyEffect, if_pos]
  · exact didE
  · rw [begun_glb]
    exact Decidable.byContradiction fun open_ => not (by simpa [and_assoc] using open_)

theorem exec_lockFuseKey_starts
    (may : bit s.glb.keyValid (fld w.imm 8 2) = false ∧ s.glb.life ≠ .secured ∧ s.glb.life ≠ .returned)
    (readable : spanOk (begun s c) { ctxChk c 2 w.B.toNat 0 with r := true } 48 = true) (good : psErr s w.B.toNat 48 = false)
    (free : s.glb.fuse = none) :
    ∃ t, exec (.lockFuseKey c w) s = .next t ∧ startsFuse s t c (.key (fld w.imm 8 2) (keyHashAt s w.B.toNat)) := by
  obtain ⟨noKey, notSecured, notReturned⟩ := may
  have err : psErr (begun s c) w.B.toNat 48 = psErr s w.B.toNat 48 := by
    unfold psErr
    rw [((begun_only s c).ps rfl).2]
  have hash : keyHashAt (begun s c) w.B.toNat = keyHashAt s w.B.toNat := by
    unfold keyHashAt psRead
    rw [begun_ps]
  refine ⟨_, exec_lockFuseKey op h fits aligned, ?_⟩
  have starts : fuseKeyEffect (begun s c) c w = waitWith { begun s c with glb := { (begun s c).glb with
      fuse := some (c, .key (fld w.imm 8 2) (keyHashAt s w.B.toNat)) } } c 0xA3 w .fuse := by
    rw [fuseKeyEffect, if_neg (by rw [begun_glb]; simp [noKey, notSecured, notReturned]), if_neg (by rw [readable]; decide),
      if_neg (by rw [err, good]; decide), if_neg (by rw [begun_glb, free]; decide), hash]
  rw [starts]
  exact startsL

end

/-! ## The end of a fuse action -/

theorem exec_fuseWriteDone_none (none_ : s.glb.fuse = none) : exec .fuseWriteDone s = .next s := by
  refine unitOk_next rfl ?_
  rw [none_]

theorem exec_fuseWriteDone {d : Nat} {f : FuseOp} (action : s.glb.fuse = some (d, f)) (stays : f ≠ .life .returned) :
    ∃ t, exec .fuseWriteDone s = .next t ∧ t.glb = fuseApply { s.glb with fuse := none } f ∧
      ((getCtx s d).wait = .fuse → (getCtx t d).wait = .none) := by
  have done : exec .fuseWriteDone s = .next (let u : State := { s with glb := fuseApply { s.glb with fuse := none } f }
      if (getCtx u d).wait == .fuse then finishWait u d none else u) := by
    refine unitOk_next rfl ?_
    rw [action]
    exact if_neg stays
  refine ⟨_, done, ?_, fun waits => ?_⟩
  · dsimp only
    split
    · exact (finishWait_rel (ch := 549864450) rfl (.refl _)).f0 rfl
    · rfl
  · refine (congrArg (fun u => (getCtx u d).wait) (if_pos (beq_iff_eq.2 waits))).trans ?_
    rw [fw_wait, if_pos rfl]

/-- Settles O52: COUCH with its end and the self test, and LOCK in each op with the end of its fuse action. -/
theorem couchAndLockInstructions : Obligations.CouchAndLockInstructions := by
  unfold Obligations.CouchAndLockInstructions
  refine ⟨fun s c w q named quire => ⟨fun h i direction => ?couch,
    fun stall => ⟨exec_couchHandoverEnd_idle quire, exec_couchHandoverEnd quire⟩,
    fun pass => ⟨exec_qpeSelfTestEnd quire, exec_qpeSelfTestEnd_idle quire⟩⟩, fun s c w => ?lock⟩
  case couch =>
    subst named
    have effect : exec i s = .next (endTurn (couchEffect (begun s c) c w (bit w.imm 8) (fld w.imm 0 4)) c) := by
      rcases direction with ⟨rfl, away⟩ | ⟨rfl, home⟩
      · rw [away]
        exact exec_couch rfl away quire h
      · rw [home]
        exact exec_couch rfl home quire h
    exact ⟨fun may => ⟨_, effect, couchEffect_starts may⟩, fun not => ⟨_, effect, couchEffect_refused not⟩⟩
  case lock =>
    refine ⟨fun op defined h => ?life, fun op h => ?revoke, fun op h => ?svn,
      fun op h fits aligned => ⟨exec_lockFuseKey_refused op h fits aligned, exec_lockFuseKey_starts op h fits aligned⟩,
      exec_fuseWriteDone_none, fun d f => exec_fuseWriteDone⟩
    case life =>
      have has : (fun o => o == 0 || decide (3 < o)) (fld w.imm 0 4) = true := by rw [op]; rfl
      have ok := passes_cons (n := 0x11) (decide_eq_false (Nat.not_lt.2 defined)) passes_nil
      refine ⟨fun refused => exec_lock_claimed (i := .lockLifecycle c w) rfl h has (by omega) ok ?_,
        fun allowed => exec_lock_starts (i := .lockLifecycle c w) rfl h has (by omega) ok ?_ rfl⟩
      · rw [begun_glb, refused]; rfl
      · rw [begun_glb, allowed]; rfl
    case revoke =>
      have has : (fun o => o == 1) (fld w.imm 0 4) = true := by rw [op]; rfl
      refine ⟨fun not => exec_lock_claimed (i := .lockRevoke c w) rfl h has (by omega) passes_nil ?_,
        fun may => exec_lock_starts (i := .lockRevoke c w) rfl h has (by omega) passes_nil ?_ rfl⟩
      · rw [begun_glb]
        exact Decidable.byContradiction fun open_ => not (by simpa using open_)
      · rw [begun_glb, may.1, may.2]; rfl
    case svn =>
      have has : (fun o => o == 2) (fld w.imm 0 4) = true := by rw [op]; rfl
      refine ⟨fun low => ?_, fun up refused => exec_lock_claimed (i := .lockSvn c w) rfl h has (by omega) passes_nil ?_,
        fun up allowed => exec_lock_starts (i := .lockSvn c w) rfl h has (by omega) passes_nil ?_ ?_⟩
      · rcases Nat.lt_or_eq_of_le low with below | same
        · exact exec_lock_claimed (i := .lockSvn c w) rfl h has (by omega) passes_nil (by rw [begun_glb]; simp [below])
        · exact exec_lock_done (i := .lockSvn c w) rfl h has (by omega) passes_nil (by rw [begun_glb]; simp [same])
            (by rw [begun_glb]; simp [same])
      · rw [begun_glb, refused]
        simp [up]
      · rw [begun_glb, allowed]
        simp [Nat.le_of_lt up]
      · rw [begun_glb]
        simpa using Nat.ne_of_gt up

end Sys2Proof.Proofs.CouchAndLock
end

section
/-!
SUPPORT. Proofs about IMAGE, from its header to the load of its body (R421), and about RESUME (R234).
-/

namespace Sys2Proof.Proofs.ImageAndResume

open Sys2Proof Sys2Proof.Machine Sys2Proof.Safety Sys2Proof.Proofs.Issue Sys2Proof.Laws.AboutSteward

variable {s : State} {c : Nat} {w : Ox}

/-! ## IMAGE -/

/-- The address an IMAGE instruction reads from, and its destination in the fabric. -/
def imageAddr (w : Ox) : Nat := if fld w.mod 3 2 = 1 then fld w.B 0 52 else w.B.toNat
def imageDst (w : Ox) : Nat := if fld w.mod 3 2 = 1 then fld w.B 52 12 else 0

/-- The check of IMAGE's read at an address. -/
def imageChk (c : Nat) (w : Ox) (a : Nat) : Chk := { ctxChk c (fld w.mod 3 2) a (imageDst w) with r := true }

/-- What IMAGE does. -/
def imageEffect (s : State) (c : Nat) (w : Ox) : State :=
  if !spanOk s (imageChk c w (imageAddr w)) 256 then accessFault s c 0xA4 (imageChk c w (imageAddr w))
  else match peekSpan s none (fld w.mod 3 2) (imageAddr w) 256 with
    | (none, s) => faultCtx s c 0xA4 0x14
    | (some h, s) => imageLoad s c w (fld w.mod 3 2) (imageAddr w) (imageDst w) h

theorem exec_image (h : Issues s c 0xA4 w { mods := 0x18, B := 2 ^ 64 - 1 }) (space : fld w.mod 3 2 ≤ 1) :
    exec (.image c w) s = .next (endTurn (imageEffect (begun s c) c w) c) := by
  have run : exec (.image c w) s = unitOk (c < 18) (oxRun c 0xA4 w { mods := 0x18, B := 2 ^ 64 - 1 }
    (fun _ _ => [(1 < fld w.mod 3 2, 0x11)]) (fun s _ => imageEffect s c w) s) := rfl
  exact res_issues run h (passes_cons (decide_eq_false (by omega)) passes_nil)

/-- A header that is read leads to the load of its body. -/
theorem imageEffect_header {u : State} {h : List Byte} (readable : spanOk s (imageChk c w (imageAddr w)) 256 = true)
    (header : peekSpan s none (fld w.mod 3 2) (imageAddr w) 256 = (some h, u)) :
    imageEffect s c w = imageLoad u c w (fld w.mod 3 2) (imageAddr w) (imageDst w) h := by
  rw [imageEffect, if_neg (by rw [readable]; decide), header]

/-- A well-formed image whose body is read is loaded, or refused for its reason. -/
theorem imageLoad_body {u v : State} {h b : List Byte} (formed : imgMalformed h = false)
    (readable : imgLen h ≠ 0 → spanOk u (imageChk c w (imageAddr w + 256)) (imgLen h) = true)
    (body : peekSpan u none (fld w.mod 3 2) (imageAddr w + 256) (imgLen h) = (some b, v)) :
    imageLoad u c w (fld w.mod 3 2) (imageAddr w) (imageDst w) h =
      if imageReason v h b = 0 then
        let p := psWrite v (imgLoad h) b
        retireSt { p with glb := { p.glb with loadedSvn := p.glb.loadedSvn ++ [imgSvn h] } } c 0xA4 w 0
      else retire v c 0xA4 w 2 (some (BitVec.ofNat 64 (imageReason v h b))) := by
  have pass : ¬(imgLen h != 0 && !spanOk u (imageChk c w (imageAddr w + 256)) (imgLen h)) = true := by
    by_cases empty : imgLen h = 0
    · simp [empty]
    · simp [readable empty]
  unfold imageLoad
  rw [if_neg (ne_true_of_eq_false formed)]
  refine (if_neg pass).trans ?_
  rw [body]
  dsimp only
  split
  · next e => rw [if_pos e]
  · next e => rw [if_neg e]

/-- Bytes that are read change nothing but the values still to be used. -/
theorem peekSpan_keeps {ten : Option Nat} {space a n : Nat} {b : Option (List Byte)} {u : State} (read : peekSpan s ten space a n = (b, u)) :
    Rel 8388608 s u := by
  have h := peekSpan_rel (ch := 8388608) (x1 := ten) (x2 := space) (x3 := a) (x4 := n) rfl (Rel.refl s)
  rw [read] at h
  exact h

/-- IMAGE as far as the reason for which it loads or refuses an image whose header and body are read. -/
theorem exec_image_read (h : Issues s c 0xA4 w { mods := 0x18, B := 2 ^ 64 - 1 }) (space : fld w.mod 3 2 ≤ 1)
    (readable : spanOk (begun s c) (imageChk c w (imageAddr w)) 256 = true) {u v : State} {head b : List Byte}
    (header : peekSpan (begun s c) none (fld w.mod 3 2) (imageAddr w) 256 = (some head, u)) (formed : imgMalformed head = false)
    (readableBody : imgLen head ≠ 0 → spanOk u (imageChk c w (imageAddr w + 256)) (imgLen head) = true)
    (body : peekSpan u none (fld w.mod 3 2) (imageAddr w + 256) (imgLen head) = (some b, v)) :
    (imageReason v head b = 0 → ∃ t, exec (.image c w) s = .next t ∧
      t.glb = { s.glb with loadedSvn := s.glb.loadedSvn ++ [imgSvn head] } ∧ t.seq.ps = wrBytes s.seq.ps (imgLoad head) b ∧
      (getCtx t c).wait = .none) ∧
    (imageReason v head b ≠ 0 → ∃ t, exec (.image c w) s = .next t ∧ t.glb = s.glb ∧ t.seq.ps = s.seq.ps ∧ (getCtx t c).wait = .none) := by
  have kept : Rel 8389632 s v := ((begun_only s c).mono rfl).trans (((peekSpan_keeps header).trans (peekSpan_keeps body)).mono rfl)
  have glb : v.glb = s.glb := kept.f0 rfl
  have ps : v.seq.ps = s.seq.ps := (kept.ps rfl).1
  have run := exec_image h space
  rw [imageEffect_header readable header, imageLoad_body formed readableBody body] at run
  refine ⟨fun verified => ⟨_, run, ?_⟩, fun refused => ⟨_, run, ?_⟩⟩
  · rw [if_pos verified]
    refine ⟨?_, ?_, ?_⟩
    · rw [endTurn_glb, retireSt_glb, ← glb]
      rfl
    · rw [endTurn_ps, retireSt_ps, ← ps]
      rfl
    · rw [getCtx_endTurn]
      exact retire_wait ..
  · rw [if_neg refused]
    exact ⟨by rw [endTurn_glb, retire_glb, glb], by rw [endTurn_ps, retire_ps, ps], by rw [getCtx_endTurn]; exact retire_wait ..⟩

/-! ## RESUME -/

section
variable (h : Issues s c 0xA5 w { imm := 0x1F }) (context : fld w.imm 0 5 ≤ 17) (other : fld w.imm 0 5 ≠ c)
include h context other

/-- What RESUME does, by the state of the other context. -/
theorem exec_resume : exec (.resume c w) s = .next (endTurn (
    if (getCtx s (fld w.imm 0 5)).st == .off || (getCtx s (fld w.imm 0 5)).st == .inReset then retireSt (begun s c) c 0xA5 w 7
    else retireSt (resumeCtx (begun s c) (fld w.imm 0 5)) c 0xA5 w 0) c) := by
  have run : exec (.resume c w) s = unitOk (c < 18) (oxRun c 0xA5 w { imm := 0x1F } (fun _ _ => [(17 < fld w.imm 0 5, 0x11)])
      (fun s _ => if (getCtx s (fld w.imm 0 5)).st == .off || (getCtx s (fld w.imm 0 5)).st == .inReset then retireSt s c 0xA5 w 7
        else retireSt (resumeCtx s (fld w.imm 0 5)) c 0xA5 w 0) s) := rfl
  have k := res_issues run h (passes_cons (decide_eq_false (by omega)) passes_nil)
  rwa [begun_other other] at k

theorem exec_resume_absent (absent : (getCtx s (fld w.imm 0 5)).st = .off ∨ (getCtx s (fld w.imm 0 5)).st = .inReset) :
    ∃ t, exec (.resume c w) s = .next t ∧ Did [] s t c := by
  refine ⟨_, exec_resume h context other, ?_⟩
  rw [if_pos (by rcases absent with e | e <;> rw [e] <;> rfl)]
  exact didE

/-- Another context is after RESUME as its resumption leaves it. -/
theorem exec_resume_other (off : (getCtx s (fld w.imm 0 5)).st ≠ .off) (reset : (getCtx s (fld w.imm 0 5)).st ≠ .inReset) :
    ∃ t, exec (.resume c w) s = .next t ∧ getCtx t (fld w.imm 0 5) = getCtx (resumeCtx (begun s c) (fld w.imm 0 5)) (fld w.imm 0 5) := by
  refine ⟨_, exec_resume h context other, ?_⟩
  rw [if_neg (by simp [off, reset]), getCtx_endTurn]
  exact retire_other _ _ _ _ _ _ _ other

end

theorem resumeCtx_halted {i : Nat} (halted : (getCtx s i).st = .halted) : (getCtx (resumeCtx s i) i).st =
    if (getCtx s i).wait ≠ .none then .waiting else if (getCtx s i).run ≠ .idle ∨ anyRing (getCtx s i) = true then .ready else .idle := by
  unfold resumeCtx
  dsimp only
  rw [halted]
  dsimp only
  rw [getCtx_modCtx, if_pos rfl]
  simp only [bne_iff_ne, Bool.or_eq_true]

theorem resumeCtx_faulted {i : Nat} (faulted : (getCtx s i).st = .faulted) (notRing : (getCtx s i).faultInRing = false) :
    (getCtx (resumeCtx s i) i).st = if (getCtx s i).run = .idle ∨ (getCtx s i).run = .debug then .idle else .ready := by
  unfold resumeCtx
  dsimp only
  rw [faulted]
  dsimp only
  rw [if_neg (ne_true_of_eq_false notRing), getCtx_modCtx, if_pos rfl]
  simp only [Bool.or_eq_true, beq_iff_eq]

/-- Settles O53: IMAGE with its header and body read, loaded or refused; RESUME by the state of the context. -/
theorem imageAndResume : Obligations.ImageAndResume := by
  unfold Obligations.ImageAndResume
  refine fun s c w => ⟨fun h space readable head u header formed readableBody b v body =>
    exec_image_read h space readable header formed readableBody body, fun h context other => ⟨exec_resume_absent h context other, ?_, ?_⟩⟩
  · intro halted
    obtain ⟨t, run, same⟩ := exec_resume_other h context other (by rw [halted]; decide) (by rw [halted]; decide)
    refine ⟨t, run, ?_⟩
    have before := begun_other (s := s) (c := c) other
    rw [same, resumeCtx_halted (by rw [before]; exact halted), before]
  · intro faulted notRing
    obtain ⟨t, run, same⟩ := exec_resume_other h context other (by rw [faulted]; decide) (by rw [faulted]; decide)
    refine ⟨t, run, ?_⟩
    have before := begun_other (s := s) (c := c) other
    rw [same, resumeCtx_faulted (by rw [before]; exact faulted) (by rw [before]; exact notRing), before]

end Sys2Proof.Proofs.ImageAndResume
end

section
/-!
SUPPORT. Proofs about device resets, trips and supplies (R404, R406, R428 to R435), and about boot (R420 to R423).
-/

namespace Sys2Proof.Proofs.Boot

open Sys2Proof Sys2Proof.Machine Sys2Proof.Safety Sys2Proof.Laws.AboutDevice Sys2Proof.Laws.AboutImages

variable {s : State}

/-! ## Entry into a device reset -/

/-- The parts a device reset brings to their reset values. -/
def clearedParts : List Part := [.pool, .home, .dkl, .seq, .mov, .time, .ten, .quire, .core, .cnt, .stk, .slotHold, .pairLo, .pairHi,
  .dram, .store, .sheets, .deckles, .registers]

/-- The machine is cleared: its parts at reset, its lifecycle kept, no port enabled and no gate on. -/
def Cleared (s t : State) : Prop := (∀ p, p ∈ clearedParts → same State.reset t p) ∧ t.glb.life = s.glb.life ∧
  ∀ j, (getPort t j).enabled = false ∧ gated (getSlot t j).st = false

/-- The device is in reset: cleared and counted if it was not before, unchanged but for its causes if it was. -/
def Enters (s t : State) : Prop := t.glb.inReset = true ∧ t.glb.keyValid = s.glb.keyValid ∧ t.glb.keyRevoked = s.glb.keyRevoked ∧
  t.glb.svn = s.glb.svn ∧ (s.glb.inReset = true → ∀ p, p ≠ Part.glb → p ≠ .pwr → same s t p) ∧
  (s.glb.inReset = false → Cleared s t ∧ t.glb.resets = satAdd 255 s.glb.resets 1 ∧ t.pace.hist = s.pace.hist)

theorem cleared_cold (u : State) (life : u.glb.life = s.glb.life) : Cleared s (coldState u) :=
  ⟨cold_same u, life, fun j => ⟨cold_ports u j, cold_slots u j⟩⟩

/-- Parts but the power block do not see what is written to it. -/
theorem same_pwr {t : State} {p : Part} (x : Pwr) (other : p ≠ .pwr) (h : same s t p) : same s { t with pwr := x } p := by
  cases p <;> first | exact h | exact absurd rfl other

/-- The parts a device reset clears do not see what is written to the global block, the pace block and the power block. -/
theorem same_kept {t : State} {p : Part} (g : Glb) (x : Pace) (y : Pwr) (cleared : p ∈ clearedParts) (h : same s t p) :
    same s { t with glb := g, pace := x, pwr := y } p := by
  cases p <;> first | exact h | exact absurd cleared (by decide)

/-- A cause that is recorded: a change of the cause fields alone. -/
structure Records (f : Glb → Glb) : Prop where
  inReset : ∀ g, (f g).inReset = g.inReset
  keyValid : ∀ g, (f g).keyValid = g.keyValid
  keyRevoked : ∀ g, (f g).keyRevoked = g.keyRevoked
  svn : ∀ g, (f g).svn = g.svn
  life : ∀ g, (f g).life = g.life
  resets : ∀ g, (f g).resets = g.resets

/-- The global block after a device reset. -/
theorem deviceReset_glb {f : Glb → Glb} (records : Records f) : (deviceReset s f).glb =
    if s.glb.inReset = true then f s.glb else glbKept { f s.glb with resets := satAdd 255 s.glb.resets 1 } := by
  cases reset : s.glb.inReset
  · obtain ⟨x, e⟩ := drF s f reset (records.inReset _)
    rw [e, records.resets]
    rfl
  · rw [dr s f reset (records.inReset _)]
    rfl

theorem deviceReset_enters {f : Glb → Glb} (records : Records f) : Enters s (deviceReset s f) := by
  refine ⟨?_, ?_, ?_, ?_, fun reset p notGlb _ => ?_, fun fresh => ?_⟩
  · rw [deviceReset_glb records]
    split
    · next reset => rw [records.inReset, reset]
    · rfl
  · rw [deviceReset_glb records]
    split
    · exact records.keyValid _
    · exact records.keyValid _
  · rw [deviceReset_glb records]
    split
    · exact records.keyRevoked _
    · exact records.keyRevoked _
  · rw [deviceReset_glb records]
    split
    · exact records.svn _
    · exact records.svn _
  · rw [dr s f reset (records.inReset _)]
    exact dr_same s (f s.glb) p notGlb
  · obtain ⟨x, e⟩ := drF s f fresh (records.inReset _)
    rw [e]
    exact ⟨cleared_cold _ (records.life _), congrArg (satAdd 255 · 1) (records.resets _), rfl⟩

/-- A field that a device reset keeps is after it what its cause left. -/
theorem deviceReset_keeps {α : Type} {f : Glb → Glb} (records : Records f) (field : Glb → α)
    (kept : ∀ g r, field (glbKept { g with resets := r }) = field g) : field (deviceReset s f).glb = field (f s.glb) := by
  rw [deviceReset_glb records]
  split
  · rfl
  · exact kept _ _

theorem Enters.pwr {t : State} (x : Pwr) (h : Enters s t) : Enters s { t with pwr := x } := by
  obtain ⟨reset, keys, revoked, version, again, first⟩ := h
  refine ⟨reset, keys, revoked, version, fun before p notGlb notPwr => same_pwr x notPwr (again before p notGlb notPwr), fun fresh => ?_⟩
  obtain ⟨⟨parts, life, off⟩, count⟩ := first fresh
  exact ⟨⟨fun p mem => same_pwr x (fun e => absurd mem (by rw [e]; decide)) (parts p mem), life, off⟩, count⟩

theorem exec_resetNAssert : ∃ t, exec .resetNAssert s = .next t ∧ Enters s t ∧ t.glb.causeResetPin = true ∧ t.glb.resetPinLow = true := by
  have records : Records fun g => { g with causeResetPin := true, resetPinLow := true } := by constructor <;> exact fun _ => rfl
  exact ⟨_, rfl, deviceReset_enters records, deviceReset_keeps records Glb.causeResetPin fun _ _ => rfl,
    deviceReset_keeps records Glb.resetPinLow fun _ _ => rfl⟩

theorem exec_brownout_ignored {rail : Rail} (ignored : rail = .v33 ∨ s.glb.resetPinLow = true) : exec (.brownout rail) s = .next s :=
  unitOk_next rfl (if_pos (by rcases ignored with rfl | low <;> simp [*]))

theorem exec_brownout {rail : Rail} (core : rail ≠ .v33) (high : s.glb.resetPinLow = false) :
    ∃ t, exec (.brownout rail) s = .next t ∧ Enters s t ∧ t.glb.causeBrownout = true := by
  have records : Records fun g => { g with causeBrownout := true } := by constructor <;> exact fun _ => rfl
  exact ⟨_, unitOk_next rfl (if_neg (by simp [core, high])), deviceReset_enters records,
    deviceReset_keeps records Glb.causeBrownout fun _ _ => rfl⟩

theorem exec_thermtrip {sensor : Nat} (there : sensor < 9) : ∃ t, exec (.thermtrip sensor) s = .next t ∧ Enters s t ∧
    t.glb.causeThermtrip = true ∧ t.glb.thermHold = true ∧ t.pwr.thermtripN = true := by
  have records : Records fun g => { g with causeThermtrip := true, thermHold := true } := by constructor <;> exact fun _ => rfl
  exact ⟨_, unitOk_of (decide_eq_true there) _, (deviceReset_enters records).pwr _,
    deviceReset_keeps records Glb.causeThermtrip fun _ _ => rfl, deviceReset_keeps records Glb.thermHold fun _ _ => rfl, rfl⟩

/-! ## Supplies -/

/-- The rails that are down after a loss. -/
def railsAfter (s : State) (rail : Rail) : List Rail :=
  if s.glb.railsDown.contains rail then s.glb.railsDown else s.glb.railsDown ++ [rail]

theorem mem_railsAfter (s : State) (rail : Rail) : rail ∈ railsAfter s rail := by
  unfold railsAfter
  split
  · next down => exact List.contains_iff_mem.1 down
  · exact List.mem_append_right _ (List.mem_singleton.2 rfl)

/-- The state with the loss of a rail recorded. -/
def railLost (s : State) (rail : Rail) : State := { s with glb := { s.glb with railsDown := railsAfter s rail } }

theorem coreLost_clears (u : State) : Cleared u (coreLost u) ∧ (coreLost u).glb.railsDown = u.glb.railsDown ∧
    (coreLost u).glb.inReset = true ∧ (coreLost u).glb.thermHold = false ∧ (coreLost u).glb.resets = 0 ∧
    (coreLost u).glb.causeResetPin = false ∧ (coreLost u).glb.causeBrownout = false ∧
    (coreLost u).glb.causeThermtrip = u.glb.causeThermtrip := by
  obtain ⟨x, e⟩ := tapEnd_eq u
  rw [coreLost, e]
  obtain ⟨parts, life, off⟩ := cleared_cold (s := u) { u with tap := x } rfl
  exact ⟨⟨fun p mem => same_kept _ _ _ mem (parts p mem), life, off⟩, rfl, rfl, rfl, rfl, rfl, rfl, rfl⟩

/-- Slots whose supply is lost have no gate on. -/
theorem slotsLost_off (l : Tab Slot) (j : Nat) :
    gated (tget {} ((l.map fun e => (e.1, slotLost e.2)).filter fun e => e.2 != {}) j).st = false := by
  refine tget_all (P := fun x : Slot => gated x.st = false) rfl _ (fun e mem => ?_) j
  obtain ⟨a, _, rfl⟩ := List.mem_map.1 (List.mem_filter.1 mem).1
  rfl

/-- The loss of 3.3 V clears the thermal cause, the requests of the slots and the slots' outputs. -/
theorem onlyIn_v33 (g : Glb) (x : Pwr) (y : Tab Slot) : onlyIn [.glb, .pwr, .slot] s { s with glb := g, pwr := x, slot := y } := by
  intro p other
  cases p <;> first | rfl | exact ⟨rfl, rfl⟩ | exact fun _ => ⟨fun _ => rfl, rfl, rfl, rfl, rfl⟩ | (simp at other)

theorem exec_supplyLoss (rail : Rail) : ∃ t, exec (.supplyLoss rail) s = .next t ∧ rail ∈ t.glb.railsDown ∧
    (rail = .core → Cleared s t ∧ t.glb.inReset = true ∧ t.glb.thermHold = false ∧ t.glb.resets = 0 ∧ t.glb.causeResetPin = false ∧
      t.glb.causeBrownout = false ∧ t.glb.causeThermtrip = s.glb.causeThermtrip) ∧
    (rail = .v33 → t.glb.causeThermtrip = false ∧ t.pwr.slotQueue = [] ∧ (∀ j, gated (getSlot t j).st = false) ∧
      onlyIn [.glb, .pwr, .slot] s t) ∧
    (rail ≠ .core → rail ≠ .v33 → onlyIn [.glb] s t) := by
  refine ⟨_, rfl, ?_⟩
  cases rail
  case core =>
    obtain ⟨cleared, rails, rest⟩ := coreLost_clears (railLost s .core)
    refine ⟨?_, fun _ => ⟨cleared, rest⟩, nofun, fun h => absurd rfl h⟩
    change Rail.core ∈ (coreLost (railLost s .core)).glb.railsDown
    rw [rails]
    exact mem_railsAfter s .core
  case v33 => exact ⟨mem_railsAfter s .v33, nofun, fun _ => ⟨rfl, rfl, slotsLost_off s.slot, onlyIn_v33 _ _ _⟩, fun _ h => absurd rfl h⟩
  all_goals exact ⟨mem_railsAfter s _, nofun, nofun, fun _ _ => glbOnly s _⟩

theorem exec_powerUp : ∃ t, exec .powerUp s = .next t ∧ t.glb.railsDown = [] ∧ onlyIn [.glb] s t ∧
    (Rail.core ∈ s.glb.railsDown → t.glb.causePowerOn = true ∧ t.glb.inReset = true) := by
  by_cases down : s.glb.railsDown.contains .core = true
  · exact ⟨_, unitOk_next rfl (if_pos down), rfl, glbOnly s _, fun _ => ⟨rfl, rfl⟩⟩
  · exact ⟨_, unitOk_next rfl (if_neg down), rfl, glbOnly s _, fun mem => absurd (List.contains_iff_mem.2 mem) down⟩

/-! ## Release -/

theorem exec_deviceResetRelease_held {st : Straps} (not : ¬(s.glb.inReset = true ∧ s.glb.thermHold = false ∧ s.glb.railsDown = [])) :
    exec (.deviceResetRelease st) s = .next s := by
  refine unitOk_next rfl (if_pos ?_)
  exact Decidable.byContradiction fun may => not (by simpa [and_assoc] using may)

theorem exec_deviceResetRelease {st : Straps} (may : s.glb.inReset = true ∧ s.glb.thermHold = false ∧ s.glb.railsDown = []) :
    ∃ t, exec (.deviceResetRelease st) s = .next t ∧ onlyIn [.glb, .stk] s t ∧ t.glb.inReset = false ∧ t.glb.straps = st ∧
      t.stk.strapFault = strapFault st ∧ t.stk.mode = st.fabricMode.toNat ∧ t.glb.bootStage = if strapFault st = true then 5
        else if s.glb.life = .returned then 4 else if st.bootSrc = 1 then 2 else if st.bootSrc = 3 then 5 else 1 := by
  obtain ⟨reset, noHold, up⟩ := may
  obtain ⟨out, straps, stage⟩ := bs { s.glb with inReset := false, resetPinLow := false, straps := st } (strapFault st)
  refine ⟨_, unitOk_next rfl (if_neg (by rw [reset, noHold, up]; decide)), ?_, out, straps, rfl, rfl, stage⟩
  intro p other
  cases p <;> first | rfl | exact ⟨rfl, rfl⟩ | exact fun _ => ⟨fun _ => rfl, rfl, rfl, rfl, rfl⟩ | (simp at other)

/-! ## Images -/

/-- Where the boot goes on after the last image of the flash (R422). -/
def bootEnded (g : Glb) : Nat := if g.straps.bootSrc = 2 then 2 else 5

/-- The global block with the flash directory noted, before the first image. -/
def directoryRead (g : Glb) (src : ImgSrc) (readable : Bool) (d : List Byte) : Glb :=
  if src == .a then
    { g with dirValid := readable && (!(src == .a) || dirOk d)
             dirMode := if readable && (!(src == .a) || dirOk d) && imgFld d 5 1 < 2 then imgFld d 5 1 else 2
             dirHasB := readable && (!(src == .a) || dirOk d) && imgFld d 12 4 != 0xFFFFFFFF }
  else g

/-- The global block after an image was read, or could not be. -/
def imageRead (g : Glb) (src : ImgSrc) (readable : Bool) (d img : List Byte) : Glb :=
  if !readable then bootNext (directoryRead g src readable d) src 3
  else if !(!(src == .a) || dirOk d) then flashOver (bootCause (directoryRead g src readable d) src 2)
  else { directoryRead g src readable d with bootStage := 3, bootImage := some src, imageBytes := img }

section
variable {src : ImgSrc} {readable : Bool} {d img : List Byte}

/-- An image read is taken where it is the one that is due. -/
def readDue (g : Glb) (src : ImgSrc) : Prop := g.inReset = false ∧ g.bootStage = 1 ∧ src ≠ .host ∧ src = bootSrcDue g

theorem exec_imageReadDone_notDue (not : ¬readDue s.glb src) : exec (.imageReadDone src readable d img) s = .next s := by
  refine unitOk_next rfl (if_pos ?_)
  exact Decidable.byContradiction fun due => not (by simpa [readDue, and_assoc] using due)

theorem exec_imageReadDone (due : readDue s.glb src) :
    exec (.imageReadDone src readable d img) s = .next { s with glb := imageRead s.glb src readable d img } := by
  obtain ⟨released, stage, notHost, next⟩ := due
  refine unitOk_next rfl (if_neg ?_)
  rw [released, stage, ← next]
  simpa using notHost

theorem imageRead_taken (g : Glb) (dirValid : src = .a → dirOk d = true) : (imageRead g src true d img).bootStage = 3 ∧
    (imageRead g src true d img).bootImage = some src ∧ (imageRead g src true d img).imageBytes = img := by
  have ok : ¬(!(!(src == .a) || dirOk d)) = true := by
    by_cases first : src = .a
    · simp [dirValid first]
    · simp [first]
  rw [imageRead, if_neg (by decide), if_neg ok]
  exact ⟨rfl, rfl, rfl⟩

theorem imageRead_badDirectory (g : Glb) (bad : dirOk d = false) : (imageRead g .a true d img).causeA = 2 ∧
    (imageRead g .a true d img).bootStage = bootEnded g ∧ (imageRead g .a true d img).dirValid = false := by
  rw [imageRead, if_neg (by decide), if_pos (by rw [bad]; rfl)]
  refine ⟨rfl, rfl, ?_⟩
  change (true && (false || dirOk d)) = false
  rw [bad]
  rfl

theorem imageRead_unreadable (g : Glb) (notHost : src ≠ .host) :
    cOf (imageRead g src false d img) src = 3 ∧ (imageRead g src false d img).bootStage = bootEnded g := by
  rw [imageRead, if_pos (by decide)]
  obtain ⟨cause, stage⟩ := bn (directoryRead g src false d) src 3
  refine ⟨cause, stage.trans ?_⟩
  cases src
  · rfl
  · rfl
  · exact absurd rfl notHost

end

/-! ## The host's go and the verification -/

theorem exec_bootGo_ignored (ignored : s.glb.inReset = true ∨ s.glb.bootStage ≠ 2) : exec .bootGo s = .next s :=
  unitOk_next rfl (if_pos (by rcases ignored with reset | stage <;> simp [*]))

theorem exec_bootGo (released : s.glb.inReset = false) (stage : s.glb.bootStage = 2) : ∃ t, exec .bootGo s = .next t ∧
    t.glb.bootStage = 3 ∧ t.glb.bootImage = some .host ∧ onlyIn [.glb] s t :=
  ⟨_, unitOk_next rfl (if_neg (by rw [released, stage]; decide)), rfl, rfl, glbOnly s _⟩

section
variable {ms : Nat} {src : ImgSrc}

theorem exec_imageVerifyDone_idle (idle : s.glb.bootImage = none ∨ s.glb.inReset = true ∨ s.glb.bootStage ≠ 3) :
    exec (.imageVerifyDone ms) s = .next s := by
  refine unitOk_next rfl ?_
  cases image : s.glb.bootImage
  · rfl
  · refine if_pos ?_
    rcases idle with none_ | reset | stage
    · rw [image] at none_
      cases none_
    · simp [reset]
    · simp [stage]

/-- What the verification of an image leaves. -/
def verified (s : State) (src : ImgSrc) (ms : Nat) : State :=
  if bootFail s src (bootBytes s src) = 0 then bootStartS0 s src (bootBytes s src) ms
  else
    let u := { s with glb := bootNext s.glb src (bootFail s src (bootBytes s src)) }
    if src == .host then { u with seq := { u.seq with ps := [], psBad := [] } } else u

theorem exec_imageVerifyDone (image : s.glb.bootImage = some src) (released : s.glb.inReset = false) (stage : s.glb.bootStage = 3) :
    exec (.imageVerifyDone ms) s = .next (verified s src ms) := by
  refine unitOk_next rfl ?_
  rw [image]
  exact if_neg (by rw [released, stage]; decide)

theorem onlyIn_imageVerifyDone {t : State} (run : exec (.imageVerifyDone ms) s = .next t) : onlyIn [.glb, .seq, .store] s t :=
  Laws.AboutMachine.touch (by decide) (execImageVerifyDone_rel (ch := 67109889) rfl (.refl s) run)

theorem bootStartS0_starts (b : List Byte) : (getCtx (bootStartS0 s src b ms) 0).pc = BitVec.ofNat 20 (imgFld (slice b 0 256) 16 4) ∧
    (getCtx (bootStartS0 s src b ms) 0).st = .ready ∧ (getCtx (bootStartS0 s src b ms) 0).run = .prog none := by
  unfold bootStartS0
  dsimp only
  rw [getCtx_modCtx, if_pos rfl]
  exact ⟨rfl, rfl, rfl⟩

theorem exec_imageVerifyDone_good (image : s.glb.bootImage = some src) (released : s.glb.inReset = false) (stage : s.glb.bootStage = 3)
    (good : bootFail s src (bootBytes s src) = 0) :
    let h := slice (bootBytes s src) 0 256
    ∃ t, exec (.imageVerifyDone ms) s = .next t ∧ t.glb.bootStage = 4 ∧ t.glb.bootMs = min 0xFFFF ms ∧ t.glb.loadedSvn = [imgSvn h] ∧
      t.seq.ps = wrBytes [] (imgLoad h) (slice (bootBytes s src) 256 (imgLen h)) ∧ (getCtx t 0).pc = BitVec.ofNat 20 (imgFld h 16 4) ∧
      (getCtx t 0).st = .ready ∧ (getCtx t 0).run = .prog none ∧ onlyIn [.glb, .seq, .store] s t := by
  obtain ⟨pc, st, program⟩ := bootStartS0_starts (s := s) (src := src) (ms := ms) (bootBytes s src)
  have run := (exec_imageVerifyDone (ms := ms) image released stage).trans (congrArg _ (if_pos good))
  exact ⟨_, run, rfl, rfl, rfl, rfl, pc, st, program, onlyIn_imageVerifyDone run⟩

theorem exec_imageVerifyDone_bad (image : s.glb.bootImage = some src) (released : s.glb.inReset = false) (stage : s.glb.bootStage = 3)
    (bad : bootFail s src (bootBytes s src) ≠ 0) :
    ∃ t, exec (.imageVerifyDone ms) s = .next t ∧ cOf t.glb src = bootFail s src (bootBytes s src) ∧
      t.glb.bootStage = (if src = .a ∧ s.glb.dirHasB = true then 1 else if src = .host then 2 else bootEnded s.glb) ∧
      (src = .host → t.seq.ps = []) ∧ onlyIn [.glb, .seq, .store] s t := by
  obtain ⟨cause, next⟩ := bn s.glb src (bootFail s src (bootBytes s src))
  have run := (exec_imageVerifyDone (ms := ms) image released stage).trans (congrArg _ (if_neg bad))
  refine ⟨_, run, ?_⟩
  cases src
  case host => exact ⟨cause, next, fun _ => rfl, onlyIn_imageVerifyDone run⟩
  case a => exact ⟨cause, next, nofun, onlyIn_imageVerifyDone run⟩
  case b => exact ⟨cause, next, nofun, onlyIn_imageVerifyDone run⟩

end

/-- Settles O54: entry into a device reset by each cause, the supplies, the release, and the boot up to S0's start. -/
theorem resetsSuppliesAndBoot : Obligations.ResetsSuppliesAndBoot := by
  unfold Obligations.ResetsSuppliesAndBoot
  refine ⟨fun s => ⟨exec_resetNAssert, fun rail => ⟨exec_brownout_ignored, exec_brownout⟩, fun sensor => exec_thermtrip, exec_supplyLoss,
    exec_powerUp, fun st => ⟨exec_deviceResetRelease_held, exec_deviceResetRelease⟩⟩,
    fun s => ⟨fun src readable d img => ⟨exec_imageReadDone_notDue, fun due => ⟨_, exec_imageReadDone due, glbOnly s _, ?taken, ?badDirectory, ?unreadable⟩⟩,
      exec_bootGo_ignored, exec_bootGo, fun ms => ⟨exec_imageVerifyDone_idle, fun src image released stage =>
        ⟨exec_imageVerifyDone_good image released stage, exec_imageVerifyDone_bad image released stage⟩⟩⟩⟩
  case taken =>
    rintro rfl valid
    exact imageRead_taken s.glb valid
  case badDirectory =>
    rintro rfl rfl bad
    exact imageRead_badDirectory s.glb bad
  case unreadable =>
    obtain ⟨_, _, notHost, _⟩ := due
    rintro rfl
    exact imageRead_unreadable (img := img) s.glb notHost

end Sys2Proof.Proofs.Boot
end

section
/-!
SUPPORT. Proofs about the command links (R408 to R416) and the sideband (R417 to R419).
-/

namespace Sys2Proof.Proofs.CommandLinks

open Sys2Proof Sys2Proof.Machine Sys2Proof.Safety Sys2Proof.Laws.AboutLinks

/-! ## Links -/

section
variable {s : State} {l : Nat} (link : l < 2)
include link

section
variable (r : Partner) (two : Bool)

/-- A link may train (R408, R422). -/
def mayTrain (s : State) (l : Nat) (r : Partner) (two : Bool) : Prop :=
  bootTrains s.glb = true ∧ (getLink s l).up = false ∧ (getLink s l).rst = .run ∧ (getLink s l).perst = false ∧
    (l = 1 → firstMode s l r two ≠ 0) ∧ linkRefs { s with cmd := { s.cmd with mode := firstMode s l r two } } l = true

/-- What keeps a link from training, as the model tests it. -/
def mayNotTrain (s : State) (l : Nat) (r : Partner) (two : Bool) : Bool :=
  !bootTrains s.glb || (getLink s l).up || (getLink s l).rst != .run || (getLink s l).perst || (l == 1 && firstMode s l r two == 0) ||
    !linkRefs { s with cmd := { s.cmd with mode := firstMode s l r two } } l

omit link in
theorem mayNotTrain_iff : mayNotTrain s l r two = false ↔ mayTrain s l r two := by
  simp only [mayNotTrain, mayTrain, Bool.or_eq_false_iff, Bool.not_eq_false', bne_eq_false_iff_eq, Bool.and_eq_false_imp, beq_iff_eq,
    beq_eq_false_iff_ne, and_assoc]

theorem exec_cmdLinkTrained_not (not : ¬mayTrain s l r two) : exec (.cmdLinkTrained l r two) s = .next s :=
  unitOk_next (decide_eq_true link) (if_pos (Bool.not_eq_false _ ▸ mt (mayNotTrain_iff r two).1 not))

theorem exec_cmdLinkTrained (may : mayTrain s l r two) :
    exec (.cmdLinkTrained l r two) s = .next (linkTrained s l r (firstMode s l r two)) :=
  unitOk_next (decide_eq_true link) (if_neg (ne_true_of_eq_false ((mayNotTrain_iff r two).2 may)))

end

/-- A link that is down by a reset that clears its configuration space. -/
def Down (s t : State) (l : Nat) : Prop :=
  (getLink t l).rst = .inReset ∧ (getLink t l).up = false ∧ (getLink t l).genTag = (getLink s l).genTag + 1 ∧
    (getLink t l).barsSet = false ∧ (getLink t l).msixEnable = false

omit link in
/-- A reset of a link keeps what its PERST input shows. -/
theorem resetCmd_perst (s : State) (l : Nat) : (getLink (resetCmd s l false) l).perst = (getLink s l).perst := by
  by_cases runs : (getLink s l).rst = .run
  · exact (resetDown s l runs).2.2.2.2.2
  · unfold resetCmd
    dsimp only
    rw [if_pos (by simpa using runs), linkAt]
    rfl

theorem exec_perstAssert : ∃ t, exec (.perstAssert l) s = .next t ∧ (getLink t l).perst = true ∧
    (noLink s l = false → s.glb.inReset = false → (getLink s l).rst = .run → Down s t l) := by
  have low : getLink (modLink s l fun x => { x with perst := true }) l = { getLink s l with perst := true } := linkAt ..
  have seen : noLink (modLink s l fun x => { x with perst := true }) l = noLink s l := by rw [noLink, ml_mode]; rfl
  by_cases ignored : (noLink s l || s.glb.inReset) = true
  · refine ⟨_, unitOk_next (decide_eq_true link) (if_pos ?_), by rw [low], fun there released => ?_⟩
    · rw [seen, modLink_glb]
      exact ignored
    · rw [there, released] at ignored
      cases ignored
  · refine ⟨_, unitOk_next (decide_eq_true link) (if_neg ?_), by rw [resetCmd_perst, low], fun _ _ runs => ?_⟩
    · rw [seen, modLink_glb]
      exact ignored
    · obtain ⟨rst, up, tag, bars, msix, _⟩ := resetDown (modLink s l fun x => { x with perst := true }) l (by rw [low]; exact runs)
      rw [low] at tag
      exact ⟨rst, up, tag, bars, msix⟩

theorem exec_perstDeassert : ∃ t, exec (.perstDeassert l) s = .next t ∧ getLink t l = { getLink s l with perst := false } ∧
    onlyIn [.cmd] s t :=
  ⟨_, unitOk_of (decide_eq_true link) _, linkAt .., Laws.AboutMachine.touch (m := 2) (by decide) (modLink_rel rfl (.refl s))⟩

theorem exec_commandLinkHotReset_down (down : (getLink s l).up = false) : exec (.commandLinkHotReset l) s = .next s :=
  unitOk_next (decide_eq_true link) (if_neg (ne_true_of_eq_false down))

theorem exec_commandLinkHotReset (up : (getLink s l).up = true) (runs : (getLink s l).rst = .run) :
    ∃ t, exec (.commandLinkHotReset l) s = .next t ∧ Down s t l := by
  obtain ⟨rst, down, tag, bars, msix, _⟩ := resetDown s l runs
  exact ⟨_, unitOk_next (decide_eq_true link) (if_pos up), rst, down, tag, bars, msix⟩

end

/-! ## Active and standby hosts -/

section
variable {s : State} {l : Nat}

/-- The roles of the two links are exchanged. -/
def Ended (s t : State) : Prop := t.cmd.active = (!s.cmd.active) ∧ t.cmd.switched = true ∧ ∀ k, getLink t k = getLink s k

theorem switchover_ended : Ended s (switchover s) := over_of s s (LL.refl s)

theorem exec_handover_ignored (link : l < 2) (ignored : (getLink s l).up = false ∨ s.glb.bootStage ≠ 4) :
    exec (.handover l) s = .next s :=
  unitOk_next (decide_eq_true link) (if_pos (by rcases ignored with down | stage <;> simp [*]))

theorem exec_claim_ignored (link : l < 2) (ignored : (getLink s l).up = false ∨ s.glb.bootStage ≠ 4) : exec (.claim l) s = .next s :=
  unitOk_next (decide_eq_true link) (if_pos (by rcases ignored with down | stage <;> simp [*]))

section
variable (link : l < 2) (up : (getLink s l).up = true) (stage : s.glb.bootStage = 4)
include link up stage

theorem exec_handover_standby (standby : l ≠ activeLink s) : ∃ t, exec (.handover l) s = .next t ∧ onlyIn [.cnt] s t :=
  ⟨_, unitOk_next (decide_eq_true link) ((if_neg (by rw [up, stage]; decide)).trans (if_pos (by simpa using standby))),
    Laws.AboutMachine.touch (m := 131072) (by decide) (logEvent_rel rfl (.refl s))⟩

theorem exec_handover_active (active : l = activeLink s) : exec (.handover l) s = .next (handover s) :=
  unitOk_next (decide_eq_true link) ((if_neg (by rw [up, stage]; decide)).trans (if_neg (by simpa using active)))

theorem exec_handover_alone (active : l = activeLink s) (down : (getLink s (otherLink (activeLink s))).up = false) :
    ∃ t, exec (.handover l) s = .next t ∧ onlyIn [.cnt] s t := by
  refine ⟨_, exec_handover_active link up stage active, ?_⟩
  rw [handover, if_neg (ne_true_of_eq_false down)]
  exact Laws.AboutMachine.touch (m := 131072) (by decide) (logAt_rel rfl (.refl s))

theorem exec_handover_both (active : l = activeLink s) (other : (getLink s (otherLink (activeLink s))).up = true) :
    ∃ t, exec (.handover l) s = .next t ∧ Ended s t := by
  refine ⟨_, exec_handover_active link up stage active, ?_⟩
  rw [handover, if_pos other]
  exact switchover_ended

omit up stage in
theorem exec_claim_active (active : l = activeLink s) : exec (.claim l) s = .next s :=
  unitOk_next (decide_eq_true link) (if_pos (by simp [← active]))

theorem exec_claim_standby (standby : l ≠ activeLink s) : exec (.claim l) s = .next (claim s) :=
  unitOk_next (decide_eq_true link) (if_neg (by simp [up, stage, standby]))

theorem exec_claim_refused (standby : l ≠ activeLink s) (active : (getLink s (activeLink s)).up = true) :
    exec (.claim l) s = .next { s with cmd := { s.cmd with claimRefused := true } } := by
  rw [exec_claim_standby link up stage standby, claim, if_pos active]

theorem exec_claim_taken (standby : l ≠ activeLink s) (active : (getLink s (activeLink s)).up = false) :
    ∃ t, exec (.claim l) s = .next t ∧ Ended s t := by
  refine ⟨_, exec_claim_standby link up stage standby, ?_⟩
  rw [claim, if_neg (ne_true_of_eq_false active)]
  exact switchover_ended

end

theorem exec_autoFailover_ignored (ignored : s.cmd.autoFo = false ∨ (getLink s (activeLink s)).up = true ∨ s.cmd.mode ≠ 1) :
    exec .autoFailover s = .next s :=
  unitOk_next rfl (if_pos (by rcases ignored with off | up | mode <;> simp [*]))

section
variable (on : s.cmd.autoFo = true) (down : (getLink s (activeLink s)).up = false) (split_ : s.cmd.mode = 1)
include on down split_

theorem exec_autoFailover : exec .autoFailover s = .next (failoverNow { s with cmd := { s.cmd with foDue := true } }) :=
  unitOk_next rfl (if_neg (by rw [on, down, split_]; decide))

theorem exec_autoFailover_now (other : (getLink s (otherLink (activeLink s))).up = true) :
    ∃ t, exec .autoFailover s = .next t ∧ Ended s t := by
  have due : (true && s.cmd.autoFo && !(getLink s (activeLink s)).up && (getLink s (otherLink (activeLink s))).up) = true := by
    rw [on, down, other]; rfl
  refine ⟨_, (exec_autoFailover on down split_).trans (congrArg _ (if_pos due)), ?_⟩
  exact over_of s { s with cmd := { s.cmd with foDue := true } } ⟨rfl, rfl, rfl, rfl, rfl⟩

theorem exec_autoFailover_later (other : (getLink s (otherLink (activeLink s))).up = false) :
    ∃ t, exec .autoFailover s = .next t ∧ t.cmd.foDue = true ∧ onlyIn [.cmd] s t := by
  have notDue : ¬(true && s.cmd.autoFo && !(getLink s (activeLink s)).up && (getLink s (otherLink (activeLink s))).up) = true := by
    rw [other, Bool.and_false]; decide
  exact ⟨_, (exec_autoFailover on down split_).trans (congrArg _ (if_neg notDue)), rfl, cmdOnly s _⟩

end

end

/-! ## Sideband -/

section
variable {s : State} {n v : Nat}

section
variable (held : ¬s.glb.inReset = false)
include held

theorem sideUp_held : ¬sideUp s = true := by simpa [sideUp] using held

theorem exec_sideband_held : exec (.mctpControlMessage n v) s = .next s ∧ exec (.pldmMessage n v) s = .next s ∧
    exec (.mctpOtherType n) s = .next s ∧ ∀ i3c addr, exec (.dynamicAddressAssign i3c addr) s = .next s := by
  have down := sideUp_held held
  refine ⟨unitOk_next rfl (if_neg down), unitOk_next rfl (if_neg down), unitOk_next rfl (if_neg ?_),
    fun _ _ => unitOk_next rfl (if_pos ?_)⟩ <;> simp [Bool.eq_false_iff.2 down]

end

section
variable (released : s.glb.inReset = false)
include released

theorem sideUp_released : sideUp s = true := by rw [sideUp, released]; rfl

/-- What the control message handler answers. -/
def mctpAnswer (s : State) (n v : Nat) : List Nat :=
  if n = 1 then [1, 0, v % 256] else if n = 2 then [2, 0, s.cmd.eid] else if n = 3 then [3, 0, Config.uuid s.glb.serial]
  else if n = 5 then [5, 0, 3, 0, 1, 7] else [n, 5]

omit released in
theorem mctpControl_answers : mctpControl s n v =
    emit { s with cmd := { s.cmd with eid := if n = 1 then v % 256 else s.cmd.eid } } (.mctp 0 (mctpAnswer s n v)) := by
  unfold mctpControl mctpAnswer
  split
  · rfl
  · rfl
  · rfl
  · rfl
  · next n1 n2 n3 n5 => rw [if_neg n1, if_neg n1, if_neg n2, if_neg n3, if_neg n5]

theorem exec_mctpControlMessage : ∃ t, exec (.mctpControlMessage n v) s = .next t ∧
    t.cmd.eid = (if n = 1 then v % 256 else s.cmd.eid) ∧ t.out = s.out ++ [.mctp 0 (mctpAnswer s n v)] ∧ onlyIn [.cmd, .out] s t :=
  ⟨_, unitOk_next rfl ((if_pos (sideUp_released released)).trans mctpControl_answers), rfl, rfl, cmdOut s _ _⟩

/-- What the PLDM responder answers. -/
def pldmAnswer (s : State) (n v : Nat) : List Nat :=
  if n = 0x0B then [n, 0] ++ s.cmd.pldmEvents.take 1
  else if n = 0x11 || n = 0x21 then if (1 ≤ v && v ≤ 45 && n == sensorCmd v) = true then [n, 0, v, sensorRead s v] else [n, 0x80]
  else if ((1 ≤ n && n ≤ 5) || n == 0x51) = true then [n, 0] else [n, 5]

omit released in
theorem pldm_answers : pldm s n v =
    emit { s with cmd := { s.cmd with pldmEvents := if n = 0x0B then s.cmd.pldmEvents.drop 1 else s.cmd.pldmEvents } }
      (.mctp 1 (pldmAnswer s n v)) := by
  unfold pldm pldmAnswer
  by_cases poll : n = 0x0B
  · rw [if_pos poll, if_pos poll, if_pos poll]
    cases events : s.cmd.pldmEvents with
    | nil =>
      have none_ : ({ s.cmd with pldmEvents := [] } : Cmd) = s.cmd := by rw [← events]
      exact congrArg (fun x => emit { s with cmd := x } (.mctp 1 [n, 0])) none_.symm
    | cons e es => rfl
  · rw [if_neg poll, if_neg poll, if_neg poll]
    split
    · split <;> rfl
    · split <;> rfl

omit released in
/-- A sensor's reading answers its own command. -/
theorem pldmAnswer_sensor (low : 1 ≤ v) (high : v ≤ 45) (own : n = sensorCmd v) : pldmAnswer s n v = [n, 0, v, sensorRead s v] := by
  have reading : (n = 0x11 || n = 0x21) = true := by
    rw [own, sensorCmd]
    split <;> rfl
  have notPoll : n ≠ 0x0B := by
    rintro rfl
    cases reading
  rw [pldmAnswer, if_neg notPoll, if_pos reading, if_pos]
  simp [low, high, own]

theorem exec_pldmMessage : ∃ t e, exec (.pldmMessage n v) s = .next t ∧ t.out = s.out ++ [.mctp 1 e] ∧ onlyIn [.cmd, .out] s t ∧
    t.cmd.pldmEvents = (if n = 0x0B then s.cmd.pldmEvents.drop 1 else s.cmd.pldmEvents) ∧
    (n = 0x0B → e = [n, 0] ++ s.cmd.pldmEvents.take 1) ∧ (1 ≤ v → v ≤ 45 → n = sensorCmd v → e = [n, 0, v, sensorRead s v]) :=
  ⟨_, pldmAnswer s n v, unitOk_next rfl ((if_pos (sideUp_released released)).trans pldm_answers), rfl, cmdOut s _ _, rfl,
    fun poll => if_pos poll, pldmAnswer_sensor⟩

theorem exec_mctpOtherType : ∃ t, exec (.mctpOtherType n) s = .next t ∧ onlyIn [.cmd] s t ∧
    t.cmd.mctpDrops = if n = 0 ∨ n = 1 ∨ n = 7 then s.cmd.mctpDrops else s.cmd.mctpDrops + 1 := by
  by_cases served : n = 0 ∨ n = 1 ∨ n = 7
  · refine ⟨s, unitOk_next rfl (if_neg ?_), cmdOnly s s.cmd, (if_pos served).symm⟩
    rcases served with rfl | rfl | rfl <;> simp
  · refine ⟨_, unitOk_next rfl (if_pos ?_), cmdOnly s _, (if_neg served).symm⟩
    rw [sideUp_released released]
    simpa [not_or, and_assoc] using served

theorem exec_dynamicAddressAssign (i3c : Bool) (addr : BitVec 7) : ∃ t, exec (.dynamicAddressAssign i3c addr) s = .next t ∧
    onlyIn [.cmd] s t ∧ t.cmd.dynAddr = (if i3c = true then some addr else s.cmd.dynAddr) ∧
    t.cmd.smbAddr = if i3c = true then s.cmd.smbAddr else addr := by
  have up : ¬(!sideUp s) = true := by rw [sideUp_released released]; decide
  cases i3c
  · exact ⟨_, unitOk_next rfl (if_neg up), cmdOnly s _, rfl, rfl⟩
  · exact ⟨_, unitOk_next rfl (if_neg up), cmdOnly s _, rfl, rfl⟩

end

end

/-- Settles O55: training, resets, handover and failover of the command links, and what the sideband answers. -/
theorem commandLinksAndSideband : Obligations.CommandLinksAndSideband := by
  unfold Obligations.CommandLinksAndSideband
  refine ⟨fun s l link => ⟨fun r two => ⟨exec_cmdLinkTrained_not link r two, fun may => ⟨_, exec_cmdLinkTrained link r two may, ?trained⟩⟩,
    exec_perstAssert link, exec_perstDeassert link, exec_commandLinkHotReset_down link, exec_commandLinkHotReset link,
    fun ignored => ⟨exec_handover_ignored link ignored, exec_claim_ignored link ignored⟩,
    fun up stage => ⟨exec_handover_standby link up stage, exec_handover_alone link up stage, exec_handover_both link up stage,
      exec_claim_active link, exec_claim_refused link up stage, exec_claim_taken link up stage⟩,
    exec_autoFailover_ignored, fun on down split_ => ⟨exec_autoFailover_now on down split_, exec_autoFailover_later on down split_⟩⟩,
    fun s n v => ⟨exec_sideband_held, fun released => ⟨exec_mctpControlMessage released, exec_pldmMessage released,
      exec_mctpOtherType released, exec_dynamicAddressAssign released⟩⟩⟩
  exact Laws.AboutLinks.trained s l r _ may.2.1

end Sys2Proof.Proofs.CommandLinks
end

section
/-!
SUPPORT. Proofs about lanes in service (R360, R369 to R376), adaptation bursts and lane references (R365).
-/

namespace Sys2Proof.Proofs.Lanes

open Sys2Proof Sys2Proof.Machine Sys2Proof.Safety Sys2Proof.Laws.AboutLanes

variable {s : State} {p lane : Nat}

/-- The ports of `t` are those of `s` but `p`, which is `y`. -/
def onePort (s t : State) (p : Nat) (y : Port) : Prop := ∀ j, getPort t j = if j = p then y else getPort s j

/-- A lane of a port that exists. -/
theorem lane_there (port : p < 96) (there : lane < 16) : (decide (p < 96) && decide (lane < 16)) = true := by
  rw [decide_eq_true port, decide_eq_true there]
  rfl

/-! ## Symbol lock -/

theorem exec_symbolLockLoss_ignored (port : p < 96) (there : lane < 16)
    (ignored : trainedLink (getPort s p) = false ∨ (getPort s p).lanesUsed ≤ lane) : exec (.symbolLockLoss p lane) s = .next s :=
  unitOk_next (lane_there port there) (if_pos (by rcases ignored with off | unused <;> simp [*]))

/-! ## Pattern mode -/

theorem exec_patternStart (port : p < 96) {v : W32} (start : bit v 31 = true) :
    exec (.patternStart p v) s = .next (patWrite s p v) := unitOk_next (decide_eq_true port) (if_pos start)

/-- The start bit of a pattern word survives the mask of its fields. -/
theorem bit_patMask {v : W32} (start : bit v 31 = true) : bit (v &&& 0xFF000000) 31 = true := by
  rw [bit_eq] at start ⊢
  simp [start]

section
variable (port : p < 96) {v : W32} (start : bit v 31 = true) (lead : leadPort s p = true)
include port start lead

theorem exec_patternStart_refused (refused : (getPort s p).enabled = true ∨ (getPort s p).rst ≠ .run) :
    ∃ t, exec (.patternStart p v) s = .next t ∧ onlyIn [.cnt] s t := by
  refine ⟨logEvent s (uPort p) 0x02 0x4A0 0, (exec_patternStart port start).trans (congrArg _ ?_), cntOnly⟩
  rw [patWrite]
  refine (if_neg (by rw [lead]; decide)).trans (if_pos ?_)
  rw [bit_patMask start]
  rcases refused with on | reset
  · rw [on]; rfl
  · simpa using .inr reset

theorem exec_patternStart_runs (off : (getPort s p).enabled = false) (runs : (getPort s p).rst = .run) :
    ∃ t, exec (.patternStart p v) s = .next t ∧ onlyIn [.port] s t ∧ onePort s t p { getPort s p with
      lanes := { (getPort s p).lanes with patRun := true, patCtrl := v &&& 0xFF000000, patBits := 0, patErr := [] } } := by
  refine ⟨modPort s p fun x => { x with
      lanes := { x.lanes with patRun := true, patCtrl := v &&& 0xFF000000, patBits := 0, patErr := [] } },
    (exec_patternStart port start).trans (congrArg _ ?_), portOnly, po rfl⟩
  rw [patWrite]
  refine (if_neg (by rw [lead]; decide)).trans ((if_neg ?_).trans (if_pos (bit_patMask start)))
  simp [off, runs]

omit start in
theorem exec_patternStop : ∃ t, exec (.patternStop p) s = .next t ∧ onlyIn [.port] s t ∧ onePort s t p { getPort s p with
    lanes := { (getPort s p).lanes with patRun := false, patCtrl := setFld (getPort s p).lanes.patCtrl 31 1 0 } } :=
  ⟨_, unitOk_next (decide_eq_true port) (if_pos lead), portOnly, po rfl⟩

end

section
variable (port : p < 96) (there : lane < 16) {inv : Bool}
include port there

/-- A checker may lock on a lane, with the polarity it found (R374). -/
def maySync (s : State) (p lane : Nat) (inv : Bool) : Prop := (getPort s p).lanes.patRun = true ∧
  bit (getPort s p).lanes.patCtrl 30 = true ∧ lane < 4 * span (getPort s p) ∧ (inv = true → autoPol s = true)

theorem exec_patternCheckerSync_ignored (not : ¬maySync s p lane inv) : exec (.patternCheckerSync p lane inv) s = .next s := by
  refine unitOk_next (lane_there port there) (if_pos ?_)
  exact Decidable.byContradiction fun may => not (by simpa [maySync, and_assoc] using may)

omit port there in
/-- The lock bits of a checker's word. -/
theorem lockBits (e : W32) : bit (setFld (setFld e 31 1 1) 30 1 (if inv then 1 else 0)) 31 = true ∧
    bit (setFld (setFld e 31 1 1) 30 1 (if inv then 1 else 0)) 30 = inv := by
  rw [bit_eq, bit_eq, setFld_bits, setFld_bits, setFld_bits]
  cases inv <;> simp

theorem exec_patternCheckerSync (may : maySync s p lane inv) : ∃ t, exec (.patternCheckerSync p lane inv) s = .next t ∧
    onlyIn [.port] s t ∧ bit (tget 0 (getPort t p).lanes.patErr lane) 31 = true ∧
    bit (tget 0 (getPort t p).lanes.patErr lane) 30 = inv := by
  obtain ⟨runs, checks, used, polarity⟩ := may
  refine ⟨_, unitOk_next (lane_there port there) (if_neg ?_), portOnly, ?_⟩
  · cases inv
    · simp [runs, checks, used]
    · simp [runs, checks, used, polarity rfl]
  · rw [pp]
    dsimp only
    rw [tget_tput, if_pos rfl]
    exact lockBits _

end

/-! ## Margining -/

section
variable (port : p < 96) {v : W32}
include port

theorem exec_marginStart (start : bit v 31 = true) (lead : leadPort s p = true) (idle : (getPort s p).lanes.marginRun = false) :
    ∃ t, exec (.marginStart p v) s = .next t ∧ onlyIn [.port] s t ∧
      let x := getPort s p
      let y := (getPort t p).lanes
      let no := marginRefused { x.lanes with marginCtrl := v &&& 0x7FFF003F } (x.link == .up) x.rate x.lanesUsed
      y.marginCtrl = v &&& 0x7FFF003F ∧ y.marginRefused = no ∧ y.marginBusy = (!no && x.lanes.partnerMargin) ∧
        y.marginRun = (!no && !x.lanes.partnerMargin) ∧ y.marginDone = (no || x.lanes.partnerMargin) ∧ y.marginErrors = 0 := by
  refine ⟨_, unitOk_next (decide_eq_true port) (if_pos (by rw [lead, start]; rfl)), portOnly, ?_⟩
  rw [pp]
  exact mw _ _ _ _ _ start idle

variable {n ct cv : Nat} {busy ab : Bool}

theorem exec_marginDone_idle (idle : (getPort s p).lanes.marginRun = false) :
    ∃ t, exec (.marginDone p n ct cv busy ab) s = .next t ∧ onePort s t p (getPort s p) := by
  refine ⟨_, unitOk_of (decide_eq_true port) _, po ?_⟩
  rw [marginEnd, if_pos (by rw [idle]; rfl)]

omit port in
/-- The end of a run, by whether the partner was busy, the run was aborted, and what it measured. -/
theorem marginEnd_run (x : Lanes) (runs : x.marginRun = true) :
    let y := marginEnd x n ct cv busy ab
    let e := tget {} y.ln (fld x.marginCtrl 24 4)
    y.marginRun = false ∧ y.marginDone = true ∧ y.marginBusy = busy ∧ y.marginAborted = (ab && !busy) ∧
    (busy = false → ab = false → if bit x.marginCtrl 30 = true then e.marginT = min 64 ct ∧ e.marginV = min 128 cv
      else y.marginErrors = min 0xFFFFFF n) := by
  unfold marginEnd
  rw [if_neg (by rw [runs]; decide)]
  dsimp only
  by_cases ended : (busy || ab) = true
  · rw [if_pos ended]
    refine ⟨rfl, rfl, rfl, rfl, fun notBusy notAborted => ?_⟩
    rw [notBusy, notAborted] at ended
    cases ended
  · rw [if_neg ended]
    by_cases steps : bit x.marginCtrl 30 = true
    · rw [if_pos steps]
      refine ⟨rfl, rfl, rfl, rfl, fun _ _ => ?_⟩
      rw [if_pos steps, tget_tput, if_pos rfl]
      exact ⟨rfl, rfl⟩
    · rw [if_neg steps, if_neg steps]
      exact ⟨rfl, rfl, rfl, rfl, fun _ _ => rfl⟩

theorem exec_marginDone (runs : (getPort s p).lanes.marginRun = true) :
    ∃ t, exec (.marginDone p n ct cv busy ab) s = .next t ∧ onlyIn [.port] s t ∧
      let x := getPort s p
      let y := (getPort t p).lanes
      let e := tget {} y.ln (fld x.lanes.marginCtrl 24 4)
      y.marginRun = false ∧ y.marginDone = true ∧ y.marginBusy = busy ∧ y.marginAborted = (ab && !busy) ∧
      (busy = false → ab = false → if bit x.lanes.marginCtrl 30 = true then e.marginT = min 64 ct ∧ e.marginV = min 128 cv
        else y.marginErrors = min 0xFFFFFF n) := by
  refine ⟨_, unitOk_of (decide_eq_true port) _, portOnly, ?_⟩
  rw [pp]
  exact marginEnd_run _ runs

end

section
variable (port : p < 96) (there : lane < 16) (on : Bool)
include port there

theorem exec_partnerMarginCommand_waits (runs : (getPort s p).lanes.marginRun = true) :
    exec (.partnerMarginCommand p lane on) s = .next s := unitOk_next (lane_there port there) (if_pos runs)

theorem exec_partnerMarginCommand (idle : (getPort s p).lanes.marginRun = false) :
    let ok := (getPort s p).link == .up && 3 ≤ (getPort s p).rate && lane < (getPort s p).lanesUsed
    ∃ t, exec (.partnerMarginCommand p lane on) s = .next t ∧ onlyIn [.port, .out] s t ∧ t.out = s.out ++ [.margin p lane ok] ∧
      (getPort t p).lanes.partnerMargin = if ok = true then on else (getPort s p).lanes.partnerMargin := by
  intro ok
  have run : exec (.partnerMarginCommand p lane on) s = .next (emit (pmS s ok p on) (.margin p lane ok)) :=
    unitOk_next (lane_there port there) (if_neg (ne_true_of_eq_false idle))
  refine ⟨_, run, pm_only _ _ _ _, pm_out .., ?_⟩
  clear_value ok
  cases ok
  · rfl
  · exact congrArg (fun x => x.lanes.partnerMargin) (pp (s := s) (p := p)
      (f := fun x => { x with lanes := { x.lanes with partnerMargin := on } }))

end

/-! ## Adaptation bursts -/

section
variable {q : Nat} (quire : q < 12)
include quire

/-- An adaptation burst fits (R369). -/
def mayBurst (s : State) (q : Nat) : Prop := (∃ p ∈ quirePorts s q, burstPort (getPort s p) = true) ∧ q ∉ s.pwr.burst ∧
  levelOf s 5 = 0 ∧ useOf s + 16 ≤ effCap s

/-- What the model tests of a burst. -/
def burstFits (s : State) (q : Nat) : Bool :=
  ((quirePorts s q).any fun p => burstPort (getPort s p)) && !s.pwr.burst.contains q && levelOf s 5 == 0 && useOf s + 16 ≤ effCap s

omit quire in
theorem burstFits_iff : burstFits s q = true ↔ mayBurst s q := by
  simp only [burstFits, mayBurst, Bool.and_eq_true, List.any_eq_true, Bool.not_eq_true', List.contains_eq_mem, decide_eq_false_iff_not,
    beq_iff_eq, decide_eq_true_eq, and_assoc]

theorem exec_adaptationBurst (may : mayBurst s q) : ∃ t, exec (.adaptationBurst q) s = .next t ∧
    t.pwr = { s.pwr with burst := s.pwr.burst ++ [q] } ∧ onlyIn [.pwr] s t :=
  ⟨_, unitOk_next (decide_eq_true quire) (if_pos (burstFits_iff.2 may)), rfl, pwrOnly s _⟩

theorem exec_adaptationBurst_waits (not : ¬mayBurst s q) : exec (.adaptationBurst q) s = .next s :=
  unitOk_next (decide_eq_true quire) (if_neg (mt burstFits_iff.1 not))

theorem exec_adaptationBurstEnd : ∃ t, exec (.adaptationBurstEnd q) s = .next t ∧ q ∉ t.pwr.burst ∧ q ∉ t.pwr.trainBurst ∧
    onlyIn [.pwr] s t := by
  refine ⟨_, unitOk_of (decide_eq_true quire) _, fun mem => ?_, fun mem => ?_, pwrOnly s _⟩
  · simpa using (List.mem_filter.1 mem).2
  · simpa using (List.mem_filter.1 mem).2

end

/-! ## Lane references -/

section
variable {die : Nat} (there : die < 4)
include there

/-- A lead port that is on. -/
def portOn (s : State) (p : Nat) : Prop := leadPort s p = true ∧ (getPort s p).enabled = true ∧ (getPort s p).rst = .run

theorem exec_refclkLoss_waits (waits : ∃ p ∈ diePorts die, portOn s p ∧ portWaits s p = true) :
    exec (.refclkLoss die) s = .next s := by
  obtain ⟨p, mem, ⟨lead, on, runs⟩, wait⟩ := waits
  refine unitOk_next (decide_eq_true there) (if_pos (List.any_eq_true.2 ⟨p, mem, ?_⟩))
  rw [lead, on, runs, wait]
  rfl

/-- The link whose lanes a die carries is reset in the command block alone. -/
theorem exec_refclkLoss (free : ∀ p ∈ diePorts die, portOn s p → portWaits s p = false) :
    ∃ t, exec (.refclkLoss die) s = .next t ∧
      ∀ p ∈ diePorts die, (getPort t p).refOk = false ∧ (portOn s p → (getPort t p).rst = .inReset) := by
  refine ⟨_, unitOk_next (decide_eq_true there) (if_neg ?_), fun p mem => ?_⟩
  · rw [List.any_eq_true]
    rintro ⟨p, mem, waits⟩
    simp only [Bool.and_eq_true, beq_iff_eq] at waits
    obtain ⟨⟨⟨lead, on⟩, runs⟩, wait⟩ := waits
    rw [free p mem ⟨lead, on, runs⟩] at wait
    cases wait
  · have lost := (refs_of s (diePorts die) s fun j => ⟨rfl, .inl rfl⟩).2 p mem
    rw [getPort_congr ((resetCmd_rel (ch := 4326402) rfl (modLink_rel rfl (.refl _))).f14 rfl)]
    exact ⟨lost.1, fun on => lost.2 on.1 on.2.1 on.2.2⟩

theorem exec_refclkRestored : ∃ t, exec (.refclkRestored die) s = .next t ∧ onlyIn [.port] s t ∧
    ∀ j, getPort t j = if j ∈ diePorts die then { getPort s j with refOk := true } else getPort s j :=
  ⟨_, unitOk_of (decide_eq_true there) _,
    Laws.AboutMachine.touch (m := 16384) (by decide) (Rel.forL (fun _ _ h => modPort_rel rfl h) (.refl s)), restored _ s⟩

end

/-- Settles O56: symbol lock, patterns, margining, bursts and the references of the lane dies. -/
theorem lanesBurstsAndReferences : Obligations.LanesBurstsAndReferences := by
  unfold Obligations.LanesBurstsAndReferences
  exact ⟨fun s p v lane port there => ⟨exec_symbolLockLoss_ignored port there, lock1 s p lane port there,
    fun start lead => ⟨exec_patternStart_refused port start lead, exec_patternStart_runs port start lead⟩, exec_patternStop port,
    fun inv => ⟨exec_patternCheckerSync_ignored port there, exec_patternCheckerSync port there⟩, exec_marginStart port,
    fun n ct cv busy ab => ⟨exec_marginDone_idle port, exec_marginDone port⟩,
    fun on => ⟨exec_partnerMarginCommand_waits port there on, exec_partnerMarginCommand port there on⟩⟩,
    fun s => ⟨fun q quire => ⟨exec_adaptationBurst quire, exec_adaptationBurst_waits quire, exec_adaptationBurstEnd quire⟩,
      fun die there => ⟨exec_refclkLoss_waits there, exec_refclkLoss there, exec_refclkRestored there⟩⟩⟩

end Sys2Proof.Proofs.Lanes
end

section
/-!
SUPPORT. Proofs about domains and stacks (R321, R325, R329, R330, R332, R338).
-/

namespace Sys2Proof.Proofs.Hierarchy

open Sys2Proof Sys2Proof.Machine Sys2Proof.Safety Sys2Proof.Laws.AboutHierarchy

variable {s : State}

/-- A command that is ignored leaves a log entry alone. -/
def Ignored (s : State) (i : Instr) : Prop := ∃ t, exec i s = .next t ∧ onlyIn [.cnt] s t

/-- Between two states the messages of a list were sent, each with its receiver and kind. -/
def Sent (s t : State) (l : List (Nat × Nat)) : Prop := ∃ o, t.out = s.out ++ o ∧ o.map toW = l.map some

/-! ## Mode, key and proxies -/

section
variable {v : W32}

/-- The mode may be overridden (R321). -/
def mayOverride (s : State) (v : W32) : Prop := s.stk.overrideUsed = false ∧ s.glb.portEverEnabled = false ∧
  s.stk.strapFault = false ∧ modeOk (fld v 0 3) s.glb.straps.stackId.toNat = true

theorem exec_stkModeWrite_ignored (not : ¬mayOverride s v) : Ignored s (.stkModeWrite v) := by
  refine ⟨_, unitOk_next rfl (if_pos ?_), ign s 0⟩
  exact Decidable.byContradiction fun may => not (by simpa [mayOverride, and_assoc] using may)

theorem exec_stkModeWrite (may : mayOverride s v) : ∃ t, exec (.stkModeWrite v) s = .next t ∧
    t.stk = { s.stk with mode := fld v 0 3, overrideUsed := true, joined := fld v 0 3 != 2 && fld v 0 3 != 4,
                         epoch := if fld v 0 3 = 1 ∨ fld v 0 3 = 3 then 1 else 0 } ∧ onlyIn [.stk] s t := by
  obtain ⟨unused, noPort, noFault, ok⟩ := may
  have epoch : (if (fld v 0 3 == 1 || fld v 0 3 == 3) = true then (1 : W32) else 0) = if fld v 0 3 = 1 ∨ fld v 0 3 = 3 then 1 else 0 :=
    ite_congr (by simp) (fun _ => rfl) (fun _ => rfl)
  exact ⟨_, unitOk_next rfl (if_neg (by rw [unused, noPort, noFault, ok]; decide)), by rw [← epoch], stkOnly s _⟩

theorem exec_domainKeyWrite_locked (locked : s.stk.keyLock = true) : Ignored s (.domainKeyWrite v) :=
  ⟨_, unitOk_next rfl (if_pos locked), ign s _⟩

theorem exec_domainKeyWrite (unlocked : s.stk.keyLock = false) : ∃ t, exec (.domainKeyWrite v) s = .next t ∧ onlyIn [.stk] s t ∧
    t.stk.key = ((List.range 7).map fun j => tget 0 s.stk.keyNew j) ++ [v] := by
  refine ⟨_, unitOk_next rfl (if_neg (ne_true_of_eq_false unlocked)), stkOnly s _, ?_⟩
  change (List.range 8).map (fun j => tget 0 (tput 0 s.stk.keyNew 7 v) j) = _
  rw [List.range_succ, List.map_append, List.map_singleton, tget_tput, if_pos rfl]
  refine congrArg (· ++ [v]) (List.map_congr_left fun j below => ?_)
  rw [tget_tput, if_neg (Nat.ne_of_lt (List.mem_range.1 below))]

theorem exec_stkProxyWrite_ignored {n : Nat} (entry : n < 512)
    (taken : bit (v &&& 0x8F000FFF) 31 = true ∧ (bit (getProxy s n) 31 = true ∨ proxyTwin s n (v &&& 0x8F000FFF) = true)) :
    Ignored s (.stkProxyWrite n v) :=
  ⟨_, unitOk_next (decide_eq_true entry) (if_pos (by simpa using taken)), ign s _⟩

theorem exec_stkProxyWrite {n : Nat} (entry : n < 512)
    (free : ¬(bit (v &&& 0x8F000FFF) 31 = true ∧ (bit (getProxy s n) 31 = true ∨ proxyTwin s n (v &&& 0x8F000FFF) = true))) :
    ∃ t, exec (.stkProxyWrite n v) s = .next t ∧ onlyIn [.stk] s t ∧
      ∀ j, getProxy t j = if j = n then v &&& 0x8F000FFF else getProxy s j :=
  ⟨_, unitOk_next (decide_eq_true entry) (if_neg (by simpa using free)), stkOnly s _, fun j => tget_tput _ _ _ _ _⟩

end

/-! ## What the manager sends -/

/-- A message of one kind to every device of a list. -/
theorem sent_each (kind : Nat) (body : State → List Byte) (l : List Nat) (s : State) :
    Sent s (forL l s fun u d => mgmtSend u d kind (body u)) (l.map fun d => (d, kind)) :=
  (sends _ kind (fun u d => send_of u d kind (body u)) l s).1

theorem exec_heartbeatSend_off (off : isMgr s = false ∨ s.stk.hbEnable = false) : exec .heartbeatSend s = .next s :=
  unitOk_next rfl (if_neg (by rcases off with h | h <;> simp [h]))

theorem exec_heartbeatSend (manager : isMgr s = true) (on : s.stk.hbEnable = true) :
    ∃ t, exec .heartbeatSend s = .next t ∧ Sent s t ((joinedPeers s).map fun d => (d, 0x05)) :=
  ⟨_, unitOk_next rfl (if_pos (by rw [manager, on]; rfl)), sent_each 0x05 (fun u => natLe 8 (now u).toNat) _ s⟩

theorem exec_heartbeatLoss (due : isWorker s = true ∧ s.stk.hbAt + 3 * hbMs s * 1000000 ≤ mono s) :
    ∃ t, exec .heartbeatLoss s = .next t ∧ t.stk = { s.stk with hbLost := true } ∧ onlyIn [.stk] s t :=
  ⟨_, unitOk_next rfl (if_pos (by simpa using due)), rfl, stkOnly s _⟩

theorem exec_heartbeatLoss_early (early : ¬(isWorker s = true ∧ s.stk.hbAt + 3 * hbMs s * 1000000 ≤ mono s)) :
    exec .heartbeatLoss s = .next s := unitOk_next rfl (if_neg (by simpa using early))

/-- The manager's own time is well within a second (R332). -/
def timeDue (s : State) : Prop := isMgr s = true ∧ 200000000 ≤ (now s).toNat % 1000000000 ∧ (now s).toNat % 1000000000 ≤ 800000000

theorem exec_timeDistribution (due : timeDue s) :
    ∃ t, exec .timeDistribution s = .next t ∧ Sent s t ((joinedPeers s).map fun d => (d, 0x06)) :=
  ⟨_, unitOk_next rfl (if_pos (by simpa [timeDue, and_assoc] using due)),
    sent_each 0x06 (fun _ => natLe 8 ((now s).toNat / 1000000000 + 1)) _ s⟩

theorem exec_timeDistribution_not (not : ¬timeDue s) : exec .timeDistribution s = .next s :=
  unitOk_next rfl (if_neg (by simpa [timeDue, and_assoc] using not))

/-! ## Promotion -/

/-- A standby worker that lost its manager may take its place (R330). -/
def mayPromote (s : State) : Prop := s.stk.standby = true ∧ s.stk.hbLost = true ∧ s.stk.mode = 2 ∧ s.stk.joined = true

theorem exec_promoteWrite_ignored (not : ¬mayPromote s) : exec .promoteWrite s = .next s := by
  refine unitOk_next rfl (if_pos ?_)
  exact Decidable.byContradiction fun may => not (by simpa [mayPromote, and_assoc] using may)

/-- The state of the new manager, before its messages. -/
def promotedState (s : State) : State :=
  { s with stk := { s.stk with epoch := s.stk.epoch + 1, manager := s.stk.dev, silent := false } }

/-- TAKEOVER to each of a list, then JOIN to each. -/
def announce (u : State) (l : List Nat) : State :=
  forL l (forL l u fun s d => mgmtSend s d 0x0A (natLe 4 s.stk.epoch.toNat)) sendJoin

theorem announce_of (u : State) (l : List Nat) :
    Sent u (announce u l) ((l.map fun d => (d, 0x0A)) ++ l.map fun d => (d, 0x01)) ∧ K u (announce u l) := by
  obtain ⟨⟨a, outA, kindA⟩, epochA, managerA, silentA⟩ :=
    sends (fun s d => mgmtSend s d 0x0A (natLe 4 s.stk.epoch.toNat)) 0x0A (fun s d => send_of s d 0x0A _) l u
  obtain ⟨⟨b, outB, kindB⟩, epochB, managerB, silentB⟩ :=
    sends sendJoin 0x01 join_of l (forL l u fun s d => mgmtSend s d 0x0A (natLe 4 s.stk.epoch.toNat))
  refine ⟨⟨a ++ b, ?_, ?_⟩, epochB.trans epochA, managerB.trans managerA, silentB.trans silentA⟩
  · rw [announce, outB, outA, List.append_assoc]
  · rw [List.map_append, List.map_append, kindA, kindB]

/-- The devices known. -/
def known (s : State) : List Nat := s.stk.peers.map fun e => e.1

theorem promote_announces (may : mayPromote s) : promote s = announce (promotedState s) (known s) := by
  obtain ⟨standby, lost, worker, joined⟩ := may
  unfold promote
  exact if_neg (by rw [standby, lost, worker, joined]; decide)

theorem exec_promoteWrite (may : mayPromote s) : ∃ t, exec .promoteWrite s = .next t ∧ t.stk.epoch = s.stk.epoch + 1 ∧
    t.stk.manager = s.stk.dev ∧ t.stk.silent = false ∧
    Sent s t (((known s).map fun d => (d, 0x0A)) ++ (known s).map fun d => (d, 0x01)) := by
  obtain ⟨⟨o, out, kinds⟩, epoch, manager, silent⟩ := announce_of (promotedState s) (known s)
  exact ⟨_, unitOk_next rfl (promote_announces may), epoch, manager, silent, o, out, kinds⟩

/-- Settles O57: the mode, the key, the proxies, the heartbeats, the time and the promotion. -/
theorem hierarchyCommands : Obligations.HierarchyCommands := by
  unfold Obligations.HierarchyCommands
  intro s k toWhom sent ignored
  exact ⟨fun v => ⟨exec_stkModeWrite_ignored, exec_stkModeWrite⟩, fun v => ⟨exec_domainKeyWrite_locked, exec_domainKeyWrite⟩,
    ⟨_, rfl, rfl, stkOnly s _⟩, fun n v entry => ⟨exec_stkProxyWrite_ignored entry, exec_stkProxyWrite entry⟩,
    exec_heartbeatSend_off, exec_heartbeatSend, ⟨exec_heartbeatLoss, exec_heartbeatLoss_early⟩,
    ⟨exec_timeDistribution, exec_timeDistribution_not⟩, ⟨exec_promoteWrite_ignored, exec_promoteWrite⟩⟩

end Sys2Proof.Proofs.Hierarchy
end

section
/-!
SUPPORT. Proofs about the management messages a device takes, and about what drops them (R325 to R333, R336).
-/

namespace Sys2Proof.Proofs.Messages

open Sys2Proof Sys2Proof.Machine Sys2Proof.Safety Sys2Proof.Laws.AboutMessages

variable {s : State} {p : Nat} {m : Mgmt}

/-! ## Tagged messages -/

section
variable {n : Nat}

/-- The rows of the kinds that carry a session's tag, each with its kind. -/
def TaggedRow (p : Nat) (m : Mgmt) (i : Instr) (n : Nat) : Prop :=
  (i = .msgJoin p m ∧ n = 1) ∨ (i = .msgBlock p m ∧ n = 3) ∨ (i = .msgResult p m ∧ n = 4) ∨ (i = .msgHeartbeat p m ∧ n = 5) ∨
    (i = .msgTime p m ∧ n = 6) ∨ (i = .msgTakeReady p m ∧ n = 7) ∨ (i = .msgTakeCommit p m ∧ n = 8) ∨ (i = .msgTakeDone p m ∧ n = 9) ∨
    (i = .msgTakeover p m ∧ n = 10)

/-- Each of these rows is the checks of R325 before its kind's effect. -/
theorem exec_tagged (port : p < 96) {i : Instr} (row : TaggedRow p m i n) : ∃ eff, exec i s = .next (mgmtTake s p n m eff) := by
  have there := decide_eq_true port
  rcases row with ⟨rfl, rfl⟩ | ⟨rfl, rfl⟩ | ⟨rfl, rfl⟩ | ⟨rfl, rfl⟩ | ⟨rfl, rfl⟩ | ⟨rfl, rfl⟩ | ⟨rfl, rfl⟩ | ⟨rfl, rfl⟩ | ⟨rfl, rfl⟩ <;>
    exact ⟨_, unitOk_of there _⟩

variable {eff : State → State}

theorem mgmtTake_off (off : (getPort s p).link ≠ .up) : mgmtTake s p n m eff = s := if_pos (by simpa using off)

theorem mgmtTake_edge (up : (getPort s p).link = .up) (edge : isEdge (getPort s p) = true ∨ roleOf (getPort s p) = 4) :
    mgmtTake s p n m eff = msgDrop s := by
  refine (if_neg (by rw [up]; decide)).trans (if_pos ?_)
  rcases edge with h | h <;> simp [h]

/-- A message is dropped and counted with its event bit, and the sessions with other devices stay. -/
def DroppedWith (s t : State) (m : Mgmt) (e : MsgEv) : Prop := msgEvGet t.stk e = true ∧ t.stk.drops = satAdd 0xFFFFFFFF s.stk.drops 1 ∧
  t.stk.joined = s.stk.joined ∧ ∀ d, d ≠ m.sender → getPeer t d = getPeer s d

theorem droppedWith_event (e : MsgEv) : DroppedWith s (msgEv (msgDrop s) e) m e := by
  obtain ⟨set, drops, joined, peers, _, _⟩ := ev_of (msgDrop s) e
  refine ⟨set, drops, joined, fun d _ => ?_⟩
  rw [getPeer, peers]
  rfl

/-- An old epoch is answered as well, which advances the sender's sequence alone. -/
theorem droppedWith_epoch : DroppedWith s (mgmtSend (msgEv (msgDrop s) .epoch) m.sender 0x04 [0x07]) m .epoch := by
  obtain ⟨set, drops, joined, peers⟩ := droppedWith_event (s := s) (m := m) .epoch
  obtain ⟨event, dropsSent, joinedSent, peersSent, _⟩ := send_stk (msgEv (msgDrop s) .epoch) m.sender 0x04 [0x07]
  exact ⟨event.trans set, dropsSent.trans drops, joinedSent.trans joined, fun d other => (peersSent d other).trans (peers d other)⟩

section
variable (here : hereP s p n m)
include here

theorem mgmtTake_badTag (bad : ¬mgmtTag s (getPeer s m.sender) n m = m.tag) : mgmtTake s p n m eff = msgEv (msgDrop s) .auth :=
  (mt_head s p n m eff here).trans (if_pos (by simpa using bad))

variable (tag : mgmtTag s (getPeer s m.sender) n m = m.tag)
include tag

theorem mgmtTake_old (old : ¬(n ≠ 1 → (getPeer s m.sender).rxSeq.toNat < m.sequence.toNat)) :
    mgmtTake s p n m eff = msgEv (msgDrop s) .replay := by
  refine (mt_head s p n m eff here).trans ((if_neg (by simp [tag])).trans (if_pos ?_))
  rw [Classical.not_imp, Nat.not_lt] at old
  simp [old.1, old.2]

variable (fresh : n ≠ 1 → (getPeer s m.sender).rxSeq.toNat < m.sequence.toNat)
include fresh

omit here tag in
/-- A sequence above the last passes the check of replays. -/
theorem not_old : ¬(n != 1 && decide (m.sequence.toNat ≤ (getPeer s m.sender).rxSeq.toNat)) = true := by
  intro old
  rw [Bool.and_eq_true, bne_iff_ne, decide_eq_true_eq] at old
  exact Nat.not_lt.2 old.2 (fresh old.1)

theorem mgmtTake_unjoined (alone : ¬(n ≠ 1 → s.stk.joined = true)) : mgmtTake s p n m eff = msgEv (msgDrop s) .unjoined := by
  refine (mt_head s p n m eff here).trans ((if_neg (by simp [tag])).trans ((if_neg (not_old fresh)).trans (if_pos ?_)))
  rw [Classical.not_imp] at alone
  simp [alone.1, alone.2]

theorem mgmtTake_oldEpoch (member : n ≠ 1 → s.stk.joined = true) (old : m.epoch.toNat < s.stk.epoch.toNat) :
    mgmtTake s p n m eff = mgmtSend (msgEv (msgDrop s) .epoch) m.sender 0x04 [0x07] := by
  refine (mt_head s p n m eff here).trans ((if_neg (by simp [tag])).trans ((if_neg (not_old fresh)).trans ((if_neg ?_).trans
    (if_pos old))))
  intro alone
  rw [Bool.and_eq_true, bne_iff_ne] at alone
  rw [member alone.1] at alone
  cases alone.2

end

end

/-! ## The effect of each kind -/

/-- The state with a message's sequence noted. -/
def heardState (s : State) (m : Mgmt) : State := modPeer s m.sender fun y => { y with rxSeq := m.sequence }

/-- The last sequence heard from the sender is the message's. -/
def Heard (t : State) (m : Mgmt) : Prop := (getPeer t m.sender).rxSeq = m.sequence

theorem heard_heardState (s : State) (m : Mgmt) : Heard (heardState s m) m := congrArg Peer.rxSeq (modPeer_at ..)

/-- A row of a tagged kind but JOIN has its effect on the state with the sequence noted. -/
theorem exec_good {i : Instr} {n : Nat} {eff : State → State} (port : p < 96) (run : exec i s = unitOk (p < 96) (mgmtTake s p n m eff))
    (kind : n ≠ 1) (good : goodP s p n m) : exec i s = .next (eff (heardState s m)) :=
  run.trans ((unitOk_of (decide_eq_true port) _).trans (congrArg _ (mtN s p n m eff good kind)))

section
variable (port : p < 96)
include port

section
variable (good : goodP s p 1 m)
include good

/-- What JOIN does once it passes. -/
theorem exec_msgJoin : exec (.msgJoin p m) s = .next (
    if s.stk.mode == 0 || (s.stk.joined && m.epoch.toNat ≤ s.stk.epoch.toNat) then stkIgnored s 4 else joinAccept s p m) :=
  unitOk_next (decide_eq_true port) (mt1 s p m _ good)

theorem exec_msgJoin_ignored (ignored : s.stk.mode = 0 ∨ (s.stk.joined = true ∧ m.epoch.toNat ≤ s.stk.epoch.toNat)) :
    ∃ t, exec (.msgJoin p m) s = .next t ∧ onlyIn [.cnt] s t := by
  refine ⟨_, (exec_msgJoin port good).trans (congrArg _ (if_pos ?_)), Laws.AboutHierarchy.ign s 4⟩
  rcases ignored with h | ⟨joined, old⟩
  · simp [h]
  · simp [joined, old]

omit port good in
/-- A JOIN that is accepted sets the domain's parameters and starts a session. -/
theorem joinAccept_joins (s : State) (p : Nat) (m : Mgmt) : (joinAccept s p m).stk.joined = true ∧
    (joinAccept s p m).stk.epoch = m.epoch ∧ (joinAccept s p m).stk.manager = m.sender ∧
    (joinAccept s p m).stk.dev = imgFld m.payload 9 2 % 1024 ∧ (joinAccept s p m).stk.domain = imgFld m.payload 8 1 % 16 ∧
    (getPeer (joinAccept s p m) m.sender).joined = true := by
  unfold joinAccept
  extract_lets -merge f u theirs session stk v
  obtain ⟨_, _, joined, _, epoch, manager, dev, domain, peers⟩ :=
    send_stk v m.sender 0x02 (natLe 8 f.1.toNat ++ natLe 8 theirs.toNat)
  refine ⟨joined, epoch, manager, dev, domain, (peers m.sender).1.trans ?_⟩
  change (getPeer session m.sender).joined = true
  exact congrArg Peer.joined (modPeer_at ..)

theorem exec_msgJoin_accepted (notAlone : s.stk.mode ≠ 0) (newer : s.stk.joined = true → s.stk.epoch.toNat < m.epoch.toNat) :
    ∃ t, exec (.msgJoin p m) s = .next t ∧ t.stk.joined = true ∧ t.stk.epoch = m.epoch ∧ t.stk.manager = m.sender ∧
      t.stk.dev = imgFld m.payload 9 2 % 1024 ∧ t.stk.domain = imgFld m.payload 8 1 % 16 ∧ (getPeer t m.sender).joined = true := by
  refine ⟨_, (exec_msgJoin port good).trans (congrArg _ (if_neg ?_)), joinAccept_joins s p m⟩
  intro ignored
  rw [Bool.or_eq_true, beq_iff_eq, Bool.and_eq_true, decide_eq_true_eq] at ignored
  exact ignored.elim notAlone fun ⟨joined, old⟩ => Nat.not_lt.2 old (newer joined)

end

theorem exec_msgBlock (good : goodP s p 3 m) (some_ : m.payload ≠ []) (whole : m.payload.length % 16 = 0) (fits : m.payload.length ≤ 1024)
    (room : (getCtx s 1).blocks.length < 16) (runs : (getCtx s 1).run ≠ .idle) :
    ∃ t, exec (.msgBlock p m) s = .next t ∧ Heard t m ∧
      (getCtx t 1).blocks = (getCtx s 1).blocks ++ [(p, m.sender, blockOf 64 m.payload)] := by
  have queued : blockTake (heardState s m) p m =
      modCtx (heardState s m) 1 fun x => { x with blocks := x.blocks ++ [(p, m.sender, blockOf 64 m.payload)] } := by
    unfold blockTake
    refine (if_neg ?_).trans ((if_neg (Nat.not_le.2 room)).trans (if_neg ?_))
    · simp [some_, whole, fits]
    · intro idle
      rw [Bool.and_eq_true, Bool.and_eq_true, beq_iff_eq] at idle
      exact runs idle.1.1
  have run := (exec_good (i := .msgBlock p m) port rfl (by decide) good).trans (congrArg _ queued)
  refine ⟨_, run, heard_heardState s m, ?_⟩
  rw [getCtx_modCtx, if_pos rfl]
  rfl

theorem exec_msgResult (good : goodP s p 4 m) : ∃ t, exec (.msgResult p m) s = .next t ∧ Heard t m ∧
    (getPeer t m.sender).result = some (imgFld m.payload 0 1) := by
  refine ⟨_, exec_good (i := .msgResult p m) port rfl (by decide) good, ?_⟩
  have peers : ∀ u : State, ∀ b : Bool, getPeer (if b then { u with stk := { u.stk with silent := true } } else u) m.sender = getPeer u m.sender :=
    fun u b => by cases b <;> rfl
  unfold Heard
  rw [peers, modPeer_at]
  exact ⟨heard_heardState s m, rfl⟩

theorem exec_msgHeartbeat (good : goodP s p 5 m) : ∃ t, exec (.msgHeartbeat p m) s = .next t ∧ Heard t m ∧ t.stk.hbAt = mono s :=
  ⟨_, exec_good (i := .msgHeartbeat p m) port rfl (by decide) good, heard_heardState s m, rfl⟩

theorem exec_msgTime (good : goodP s p 6 m) : ∃ t, exec (.msgTime p m) s = .next t ∧ Heard t m ∧
    (isWorker s = true → t.time.set = BitVec.ofNat 64 (imgFld m.payload 0 8 * 1000000000) ∧ t.time.setAtPps = true) := by
  have run := exec_good (i := .msgTime p m) port rfl (by decide) good
  by_cases worker : isWorker s = true
  · exact ⟨_, run.trans (congrArg _ (if_pos worker)), heard_heardState s m, fun _ => ⟨rfl, rfl⟩⟩
  · exact ⟨_, run.trans (congrArg _ (if_neg worker)), heard_heardState s m, fun h => absurd h worker⟩

omit port in
/-- A worker's report is noted, whatever the manager sends on it. -/
theorem readyTake_noted (u : State) (d i st : Nat) : tget 0 (getPeer (readyTake u d i st) d).takeReady i = st := by
  have noted : tget 0 (getPeer (modPeer u d fun y => { y with takeReady := tput 0 y.takeReady i st }) d).takeReady i = st := by
    rw [modPeer_at, tget_tput, if_pos rfl]
  unfold readyTake
  extract_lets was v
  split
  · exact (congrArg (tget 0 · i) (sendL 0x08 [BitVec.ofNat 8 i] (joinedPeers v) v d)).trans noted
  · exact noted

theorem exec_msgTakeReady (good : goodP s p 7 m) : ∃ t, exec (.msgTakeReady p m) s = .next t ∧
    tget 0 (getPeer t m.sender).takeReady (imgFld m.payload 0 1 % 64) = imgFld m.payload 1 1 :=
  ⟨_, exec_good (i := .msgTakeReady p m) port rfl (by decide) good, readyTake_noted ..⟩

theorem exec_msgTakeCommit (good : goodP s p 8 m) : ∃ t, exec (.msgTakeCommit p m) s = .next t ∧ Heard t m ∧
    (getTake t (imgFld m.payload 0 1 % 64)).commit =
      ((getTake s (imgFld m.payload 0 1 % 64)).commit || (getTake s (imgFld m.payload 0 1 % 64)).domain) := by
  have run := exec_good (i := .msgTakeCommit p m) port rfl (by decide) good
  by_cases shared : (getTake s (imgFld m.payload 0 1 % 64)).domain = true
  · refine ⟨_, run.trans (congrArg _ (if_pos shared)), heard_heardState s m, ?_⟩
    rw [getTake_modTake, if_pos rfl, shared, Bool.or_true]
  · refine ⟨_, run.trans (congrArg _ (if_neg shared)), heard_heardState s m, ?_⟩
    rw [Bool.eq_false_iff.2 shared, Bool.or_false]
    rfl

theorem exec_msgTakeDone (good : goodP s p 9 m) : ∃ t, exec (.msgTakeDone p m) s = .next t ∧ Heard t m ∧
    tget 0 (getPeer t m.sender).takeReady (imgFld m.payload 0 1 % 64) = 0 ∧
    tget 0 (getPeer t m.sender).takeDone (imgFld m.payload 0 1 % 64) = imgFld m.payload 1 4 / 2 ^ 29 := by
  refine ⟨_, exec_good (i := .msgTakeDone p m) port rfl (by decide) good, ?_⟩
  unfold Heard
  rw [modPeer_at]
  refine ⟨heard_heardState s m, ?_, ?_⟩
  · dsimp only
    rw [tget_tput, if_pos rfl]
  · dsimp only
    rw [tget_tput, if_pos rfl]

theorem exec_msgTakeover (good : goodP s p 10 m) (newer : s.stk.epoch.toNat < (BitVec.ofNat 32 (imgFld m.payload 0 4)).toNat) :
    ∃ t, exec (.msgTakeover p m) s = .next t ∧ Heard t m ∧ t.stk.epoch = BitVec.ofNat 32 (imgFld m.payload 0 4) ∧
      t.stk.manager = m.sender ∧ t.stk.evTakeover = true := by
  have above : (decide (s.stk.epoch.toNat < (BitVec.ofNat 32 (imgFld m.payload 0 4)).toNat) || (BitVec.ofNat 32 (imgFld m.payload 0 4) ==
      s.stk.epoch && promoted s && decide (m.sender < s.stk.dev))) = true := by
    rw [decide_eq_true newer, Bool.true_or]
  refine ⟨_, (exec_good (i := .msgTakeover p m) port rfl (by decide) good).trans (congrArg _ (if_pos above)), ?_⟩
  generalize taken : ({ heardState s m with stk := { (heardState s m).stk with
    epoch := BitVec.ofNat 32 (imgFld m.payload 0 4), manager := m.sender
    silent := (heardState s m).stk.mode == 1 || (heardState s m).stk.mode == 3 } } : State) = u
  obtain ⟨set, _, _, peers, epoch, manager⟩ := ev_of u .takeover
  refine ⟨?_, epoch.trans (taken ▸ rfl), manager.trans (taken ▸ rfl), set⟩
  unfold Heard getPeer
  rw [peers, ← taken]
  exact heard_heardState s m

/-! ## JOIN_ACK, VIRAL and GATEWAY -/

theorem exec_msgJoinAck (here : hereP s p 1 m)
    (tag : mgmtTag s { getPeer s m.sender with port := p, nonceOwn := BitVec.ofNat 64 (imgFld m.payload 8 8),
                                               noncePeer := BitVec.ofNat 64 (imgFld m.payload 0 8) } 2 m = m.tag)
    (mine : (getPeer s m.sender).nonceOwn ≠ 0 → (getPeer s m.sender).nonceOwn = BitVec.ofNat 64 (imgFld m.payload 8 8))
    (fresh : (getPeer s m.sender).joined = true → (getPeer s m.sender).rxSeq.toNat < m.sequence.toNat)
    (epoch : s.stk.epoch.toNat ≤ m.epoch.toNat) (manager : isMgr s = true) :
    ∃ t, exec (.msgJoinAck p m) s = .next t ∧ Heard t m ∧ (getPeer t m.sender).joined = true ∧
      (getPeer t m.sender).noncePeer = BitVec.ofNat 64 (imgFld m.payload 0 8) ∧ onlyIn [.stk] s t := by
  obtain ⟨up, inner, notGateway, _⟩ := here
  refine ⟨_, unitOk_next (decide_eq_true port) ((if_neg (by rw [up]; decide)).trans ((if_neg ?_).trans ((if_neg ?_).trans
    ((if_neg ?_).trans ((if_neg (Nat.not_lt.2 epoch)).trans (if_neg (by rw [manager]; decide))))))), ?_⟩
  · rw [inner]
    simpa using notGateway
  · rw [tag]
    by_cases none_ : (getPeer s m.sender).nonceOwn = 0
    · simp [none_]
    · simp [← mine none_]
  · intro old
    rw [Bool.and_eq_true, decide_eq_true_eq] at old
    exact Nat.not_lt.2 old.2 (fresh old.1)
  · unfold Heard
    rw [modPeer_at]
    exact ⟨rfl, rfl, rfl, Laws.AboutHierarchy.stkOnly s _⟩

theorem exec_msgViral (up : (getPort s p).link = .up) (inner : isEdge (getPort s p) = false) (notGateway : roleOf (getPort s p) ≠ 4)
    (joined : s.stk.joined = true) {q : Nat} (edge : edgeWith s (imgFld m.payload 1 2) = some q) :
    ∃ t, exec (.msgViral p m) s = .next t ∧ Emit.viral q ∈ t.out := by
  have taken : viralTake s p m = stewEv (emit s (.viral q)) := by
    unfold viralTake
    refine (if_neg (by rw [up]; decide)).trans ((if_neg ?_).trans ((if_neg (by rw [joined]; decide)).trans ?_))
    · simp [inner, notGateway]
    · rw [edge]
  refine ⟨_, unitOk_next (decide_eq_true port) taken, ?_⟩
  obtain ⟨more, out⟩ := (stewEv_rel (ch := 4326402) rfl (Rel.refl (emit s (.viral q)))).grow
  rw [out]
  exact List.mem_append_left _ (List.mem_append_right _ (List.mem_singleton.2 rfl))

theorem exec_msgGateway (up : (getPort s p).link = .up) (gateway : roleOf (getPort s p) = 4) (notYet : (getPort s p).gwOk = false) :
    ∃ t, exec (.msgGateway p m) s = .next t ∧ (getPort t p).gwOk = gatewayOk s p m := by
  have run : exec (.msgGateway p m) s = .next (
      if gatewayOk s p m then modPort s p fun x => { x with gwOk := true } else gatewayFail s p) :=
    unitOk_next (decide_eq_true port) ((if_neg (by rw [up]; decide)).trans (if_neg (by rw [gateway, notYet]; decide)))
  refine ⟨_, run, ?_⟩
  cases ok : gatewayOk s p m
  · rw [if_neg Bool.false_ne_true, gatewayFail, getPort_modPort, if_pos rfl]
    rfl
  · rw [if_pos rfl, getPort_modPort, if_pos rfl]

end

/-- Settles O58: what drops a tagged message, the effect of each kind, and VIRAL and GATEWAY. -/
theorem managementMessages : Obligations.ManagementMessages := by
  unfold Obligations.ManagementMessages
  intro s p m port
  refine ⟨fun i n row => ?tagged, exec_msgJoin_accepted port, exec_msgJoin_ignored port, exec_msgBlock port, exec_msgResult port,
    exec_msgHeartbeat port, exec_msgTime port, exec_msgTakeReady port, exec_msgTakeCommit port, exec_msgTakeDone port,
    exec_msgTakeover port, fun here tag mine fresh => exec_msgJoinAck port here tag mine (fun joined => fresh joined (by decide)),
    fun up inner notGateway joined q => exec_msgViral port up inner notGateway joined, exec_msgGateway port⟩
  obtain ⟨eff, run⟩ := exec_tagged (s := s) port row
  exact ⟨fun off => run.trans (congrArg _ (mgmtTake_off off)), fun up edge => run.trans (congrArg _ (mgmtTake_edge up edge)),
    fun here bad => ⟨_, run.trans (congrArg _ (mgmtTake_badTag here bad)), droppedWith_event _⟩,
    fun here tag old => ⟨_, run.trans (congrArg _ (mgmtTake_old here tag old)), droppedWith_event _⟩,
    fun here tag fresh alone => ⟨_, run.trans (congrArg _ (mgmtTake_unjoined here tag fresh alone)), droppedWith_event _⟩,
    fun here tag fresh member old => ⟨_, run.trans (congrArg _ (mgmtTake_oldEpoch here tag fresh member old)), droppedWith_epoch⟩⟩

end Sys2Proof.Proofs.Messages
end

section
/-!
SUPPORT. Proofs about the leaves of a stack link (R343, R345, R350, R351, R354, R355, R357).
-/

namespace Sys2Proof.Proofs.StackLeaves

open Sys2Proof Sys2Proof.Machine Sys2Proof.Safety Sys2Proof.Laws.AboutLeaves

variable {s : State} {p : Nat} {b : List Byte}

/-- The ports of `t` are those of `s`, but the link state of `p`, which is `y`. -/
def Holds (s t : State) (p : Nat) (y : Ifl) : Prop := ∀ j, getPort t j = if j = p then { getPort s p with ifl := y } else getPort s j

theorem Holds.modIfl {t : State} {y : Ifl} (h : Holds s t p y) (f : Ifl → Ifl) : Holds s (modIfl t p f) p (f y) := by
  intro j
  rw [mi, h p, if_pos rfl, h j]
  split <;> rfl

/-! ## The four rows of leaves -/

/-- The kinds of leaves each row takes. -/
def LeafRow (p : Nat) (b : List Byte) (i : Instr) : Prop := i = .leafData p b ∨ i = .leafIdle p b ∨ i = .leafNak p b ∨ i = .leafMgmt p b

theorem exec_leaf (port : p < 96) {i : Instr} (row : LeafRow p b i) : ∃ kind act, exec i s = .next (leafIn p b kind act s) := by
  have there := decide_eq_true port
  rcases row with rfl | rfl | rfl | rfl <;> exact ⟨_, _, unitOk_of there _⟩

theorem exec_leaf_dead (port : p < 96) {i : Instr} (row : LeafRow p b i) (dead : ¬liveP s p) : exec i s = .next s := by
  obtain ⟨kind, act, run⟩ := exec_leaf (s := s) port row
  rw [run, in_dead s p b kind act dead]

theorem exec_leaf_badCrc (port : p < 96) {i : Instr} (row : LeafRow p b i) (live : liveP s p) (bad : leafCrcOk b = false) :
    ∃ t, exec i s = .next t ∧ Holds s t p (iflCount (getPort s p).ifl 0) ∧ onlyIn [.port, .cnt] s t := by
  obtain ⟨kind, act, run⟩ := exec_leaf (s := s) port row
  refine ⟨leafFail s p, run.trans ?_, fail_of s p⟩
  rw [in_live s p b kind act live, if_pos (by rw [bad]; rfl)]

/-! ## A clean leaf -/

section
variable (live : liveP s p) (crc : leafCrcOk b = true) (formed : leafBad b = false)

/-- The link state once a clean leaf's acknowledgement and counts are taken. -/
def taken (s : State) (p : Nat) (b : List Byte) : Ifl := takeFields (getPort (iflConsume s p) p).ifl (leafHead b)

/-- The state in which a clean leaf's own action is taken. -/
def takenState (s : State) (p : Nat) (b : List Byte) : State := modIfl (base s p) p fun x => takeFields x (leafHead b)

theorem takenState_holds (s : State) (p : Nat) (b : List Byte) : Holds s (takenState s p b) p (taken s p b) :=
  Holds.modIfl (y := (getPort (iflConsume s p) p).ifl) (base_ifl s p).2.2 fun x => takeFields x (leafHead b)

theorem countBad_base (s : State) (p : Nat) (b : List Byte) :
    countBad (getPort (base s p) p).ifl (leafHead b) = countBad (getPort s p).ifl (leafHead b) := by
  rw [(base_ifl s p).2.2 p, if_pos rfl]
  exact (before_of s p b).1

/-- The next sequence after a clean leaf's fields is the one from before it. -/
theorem taken_lastRx (s : State) (p : Nat) (b : List Byte) : (taken s p b).lastRx = (getPort s p).ifl.lastRx :=
  (ack_last _ _).trans (before_of s p b).2

include live crc formed

variable {kind : LeafHead → Bool} {act : State → LeafHead → State}

theorem leafIn_acts (takes : kind (leafHead b) = true) (counts : countBad (getPort s p).ifl (leafHead b) = false) :
    leafIn p b kind act s = act (takenState s p b) (leafHead b) := by
  rw [in_live s p b kind act live, if_neg (by rw [crc]; decide), if_neg (by rw [formed, takes]; decide), countBad_base,
    if_neg (ne_true_of_eq_false counts)]
  rfl

/-- A count of leaves never sent resets the port. -/
theorem leafIn_badCount (takes : kind (leafHead b) = true) (counts : countBad (getPort s p).ifl (leafHead b) = true)
    (free : portWaits s p = false) (runs : (getPort s p).rst = .run) : (getPort (leafIn p b kind act s) p).rst = .inReset := by
  obtain ⟨core, quire, ports⟩ := base_ifl s p
  rw [in_live s p b kind act live, if_neg (by rw [crc]; decide), if_neg (by rw [formed, takes]; decide), countBad_base, if_pos counts]
  exact (proto_rst s (base s p) p quire core ⟨_, (ports p).trans (if_pos rfl)⟩ free runs).1

end

section
variable (port : p < 96) (live : liveP s p) (crc : leafCrcOk b = true) (formed : leafBad b = false)
include port live crc formed

theorem exec_leafIdle (counts : countBad (getPort s p).ifl (leafHead b) = false) (cls : (leafHead b).cls = 2)
    (type : (leafHead b).type = 0) : ∃ t, exec (.leafIdle p b) s = .next t ∧ Holds s t p (taken s p b) :=
  ⟨_, unitOk_next (decide_eq_true port) (leafIn_acts live crc formed (by rw [cls, type]; rfl) counts), takenState_holds s p b⟩

theorem exec_leafNak (counts : countBad (getPort s p).ifl (leafHead b) = false) (cls : (leafHead b).cls = 2)
    (type : (leafHead b).type = 1) :
    ∃ t, exec (.leafNak p b) s = .next t ∧ Holds s t p (startPass (iflCount (taken s p b) 3)) :=
  ⟨_, unitOk_next (decide_eq_true port) (leafIn_acts live crc formed (by rw [cls, type]; rfl) counts),
    (takenState_holds s p b).modIfl fun x => startPass (iflCount x 3)⟩

/-- The rows of leaves with a place in the sequence. -/
def SeqRow (p : Nat) (b : List Byte) (i : Instr) : Prop :=
  (i = .leafData p b ∧ (leafHead b).cls < 2) ∨ (i = .leafMgmt p b ∧ (leafHead b).cls = 2 ∧ (leafHead b).type = 2)

omit live crc formed in
theorem exec_seqLeaf {i : Instr} (row : SeqRow p b i) : ∃ kind : LeafHead → Bool, kind (leafHead b) = true ∧
    exec i s = .next (leafIn p b kind (fun u h => takeSeq u p h b) s) := by
  rcases row with ⟨rfl, cls⟩ | ⟨rfl, cls, type⟩
  · exact ⟨fun h => h.cls < 2, decide_eq_true cls, unitOk_of (decide_eq_true port) _⟩
  · exact ⟨fun h => h.cls == 2 && h.type == 2, by simp [cls, type], unitOk_of (decide_eq_true port) _⟩

variable {i : Instr} (row : SeqRow p b i)
include row

theorem exec_seqLeaf_badCount (counts : countBad (getPort s p).ifl (leafHead b) = true) (free : portWaits s p = false)
    (runs : (getPort s p).rst = .run) : ∃ t, exec i s = .next t ∧ (getPort t p).rst = .inReset := by
  obtain ⟨kind, takes, run⟩ := exec_seqLeaf (s := s) port row
  exact ⟨_, run, leafIn_badCount live crc formed takes counts free runs⟩

variable (counts : countBad (getPort s p).ifl (leafHead b) = false)
include counts

theorem exec_seqLeaf_clean : exec i s = .next (takeSeq (takenState s p b) p (leafHead b) b) := by
  obtain ⟨kind, takes, run⟩ := exec_seqLeaf (s := s) port row
  rw [run, leafIn_acts live crc formed takes counts]

omit port live crc formed row counts in
/-- The place of a leaf in the sequence, as `takeSeq` reads it. -/
theorem place_taken (s : State) (p : Nat) (b : List Byte) :
    sub12 (leafHead b).seq ((getPort (takenState s p b) p).ifl.lastRx + 1) = sub12 (leafHead b).seq ((getPort s p).ifl.lastRx + 1) := by
  rw [takenState_holds s p b p, if_pos rfl, taken_lastRx]

theorem exec_seqLeaf_duplicate (old : 2048 ≤ sub12 (leafHead b).seq ((getPort s p).ifl.lastRx + 1)) :
    ∃ t, exec i s = .next t ∧ Holds s t p (iflCount (taken s p b) 4) := by
  refine ⟨_, exec_seqLeaf_clean port live crc formed row counts, ?_⟩
  unfold takeSeq
  dsimp only
  rw [place_taken, if_neg (by omega), if_neg (by omega)]
  exact (takenState_holds s p b).modIfl fun x => iflCount x 4

theorem exec_seqLeaf_gap (ahead : 0 < sub12 (leafHead b).seq ((getPort s p).ifl.lastRx + 1))
    (near : sub12 (leafHead b).seq ((getPort s p).ifl.lastRx + 1) < 2048) : ∃ t, exec i s = .next t ∧
    Holds s t p (if (taken s p b).nakSent = true then taken s p b else { taken s p b with nakSent := true, nakDue := true }) := by
  refine ⟨_, exec_seqLeaf_clean port live crc formed row counts, ?_⟩
  unfold takeSeq
  dsimp only
  rw [place_taken, if_neg (by omega), if_pos near]
  exact (takenState_holds s p b).modIfl fun x => if x.nakSent = true then x else { x with nakSent := true, nakDue := true }

theorem exec_seqLeaf_next (next : sub12 (leafHead b).seq ((getPort s p).ifl.lastRx + 1) = 0)
    (room : ¬((leafHead b).cls < 2 ∧ iflAdv (getPort s p) ≤
      ((taken s p b).rxLeaves.filter fun l => l.cls == (leafHead b).cls).length)) :
    ∃ u, Holds s u p { taken s p b with lastRx := (leafHead b).seq, nakSent := false, nakDue := false } ∧
      exec i s = .next (takePayload u p (leafHead b) b) := by
  refine ⟨modIfl (takenState s p b) p fun x => { x with lastRx := (leafHead b).seq, nakSent := false, nakDue := false },
    (takenState_holds s p b).modIfl _, ?_⟩
  rw [exec_seqLeaf_clean port live crc formed row counts]
  unfold takeSeq
  dsimp only
  rw [place_taken, if_pos next, if_neg]
  rw [takenState_holds s p b p, if_pos rfl, Bool.and_eq_true, decide_eq_true_eq, decide_eq_true_eq]
  exact room

end

end Sys2Proof.Proofs.StackLeaves
end

section
/-!
SUPPORT. Proofs about the start, the timer, Recovery and the end of a stack link (R345, R357 to R361).
-/

namespace Sys2Proof.Proofs.StackLinks

open Sys2Proof Sys2Proof.Machine Sys2Proof.Safety Sys2Proof.Laws.AboutLeaves Sys2Proof.Proofs.StackLeaves

variable {s : State} {p : Nat} {b : List Byte}

/-- A command that resets the port, where the reset need not wait. -/
def Resets (s : State) (p : Nat) (i : Instr) : Prop := portWaits s p = false → (getPort s p).rst = .run →
  ∃ t, exec i s = .next t ∧ (getPort t p).rst = .inReset ∧ (getPort t p).link = .off

/-- The other ports are as before. -/
def Others (s t : State) (p : Nat) : Prop := ∀ j, j ≠ p → getPort t j = getPort s j

theorem iflDown_resets (free : portWaits s p = false) (runs : (getPort s p).rst = .run) :
    (getPort (iflDown s p) p).rst = .inReset ∧ (getPort (iflDown s p) p).link = .off := by
  rw [iflDown, if_neg (ne_true_of_eq_false free)]
  exact lost_rst s p runs

section
variable (port : p < 96)
include port

theorem exec_notStack (notStack : roleOf (getPort s p) ≠ 5) :
    exec (.leafInit p b) s = .next s ∧ exec (.malformedLeaf p b) s = .next s ∧ exec (.replayTimerExpiry p) s = .next s := by
  have there := decide_eq_true port
  have role : (roleOf (getPort s p) != 5) = true := by simpa using notStack
  exact ⟨unitOk_next there (if_pos (by rw [role]; rfl)), unitOk_next there (if_pos (by rw [role]; rfl)),
    unitOk_next there (if_pos (by rw [role]; rfl))⟩

/-! ## INIT -/

/-- A leaf is an INIT of the table (R345). -/
def IsInit (b : List Byte) : Prop := leafCrcOk b = true ∧ leafBad b = false ∧ (leafHead b).cls = 2 ∧ (leafHead b).type = 3

section
variable (stack : roleOf (getPort s p) = 5) (init : IsInit b)
include stack init

/-- What an INIT does in the two states that take it. -/
theorem exec_leafInit (state : (getPort s p).ifl.st = .init ∨ (getPort s p).ifl.st = .active) : exec (.leafInit p b) s = .next (
    if (getPort s p).ifl.st == .active then iflDown s p
    else if initOk s (leafSlot b 0) then initTake s p (leafSlot b 0) else initFail s p) := by
  obtain ⟨crc, formed, cls, type⟩ := init
  refine unitOk_next (decide_eq_true port) ((if_neg ?_).trans ((if_neg (by rw [crc]; decide)).trans (if_neg ?_)))
  · rw [stack]
    rcases state with h | h <;> rw [h] <;> decide
  · rw [formed, cls, type]
    decide

theorem exec_leafInit_active (active : (getPort s p).ifl.st = .active) : Resets s p (.leafInit p b) := fun free runs =>
  ⟨_, (exec_leafInit port stack init (.inr active)).trans (congrArg _ (if_pos (by rw [active]; rfl))), iflDown_resets free runs⟩

variable (starting : (getPort s p).ifl.st = .init)
include starting

theorem exec_leafInit_invalid (bad : initOk s (leafSlot b 0) = false) : ∃ t, exec (.leafInit p b) s = .next t ∧ Others s t p ∧
    (getPort t p).ifl.evInit = true ∧ (getPort t p).link = .down := by
  have run := (exec_leafInit port stack init (.inl starting)).trans
    (congrArg _ ((if_neg (by rw [starting]; decide)).trans (if_neg (ne_true_of_eq_false bad))))
  refine ⟨_, run, fun j other => ?_, ?_⟩
  · rw [initFail, trainFail, others_mod j other, getPort_congr (si_port ..), mi, if_neg other]
  · rw [initFail, trainFail, pp, getPort_congr (si_port ..), mip]
    exact ⟨rfl, rfl⟩

omit port stack init starting in
/-- What a valid INIT notes of the partner. -/
def noted (s : State) (p : Nat) (slot : List Byte) : State :=
  modIfl s p fun x => { x with gotInit := true, partner := fld (BitVec.ofNat 128 (leNat slot)) 8 3
                               reqAdv := fld (BitVec.ofNat 128 (leNat slot)) 16 12, rspAdv := fld (BitVec.ofNat 128 (leNat slot)) 28 12
                               seenInit := x.seenInit || bit (BitVec.ofNat 128 (leNat slot)) 52 }

omit port stack init starting in
theorem initTake_eq (s : State) (p : Nat) (slot : List Byte) : initTake s p slot =
    if ((getPort s p).ifl.gotInit && bit (BitVec.ofNat 128 (leNat slot)) 52) = true then iflActive (noted s p slot) p
    else noted s p slot := rfl

omit port stack init starting in
theorem noted_others (slot : List Byte) : Others s (noted s p slot) p := fun j other => by rw [noted, mi, if_neg other]

theorem exec_leafInit_valid (good : initOk s (leafSlot b 0) = true) :
    let v : BitVec 128 := BitVec.ofNat 128 (leNat (leafSlot b 0))
    ∃ t, exec (.leafInit p b) s = .next t ∧ Others s t p ∧
      let z := (getPort t p).ifl
      z.gotInit = true ∧ z.partner = fld v 8 3 ∧ z.reqAdv = fld v 16 12 ∧ z.rspAdv = fld v 28 12 ∧
      ((getPort s p).ifl.gotInit = true → bit v 52 = true →
        (getPort t p).link = .up ∧ z.st = .active ∧ z.nextTx = 0 ∧ z.lastRx = 0xFFF ∧ z.oldest = 0) ∧
      ((getPort s p).ifl.gotInit = false ∨ bit v 52 = false → (getPort t p).link = (getPort s p).link ∧ z.st = .init) := by
  have run := (exec_leafInit port stack init (.inl starting)).trans
    (congrArg _ ((if_neg (by rw [starting]; decide)).trans (if_pos good)))
  refine ⟨_, run, ?_⟩
  rw [initTake_eq]
  by_cases last : ((getPort s p).ifl.gotInit && bit (BitVec.ofNat 128 (leNat (leafSlot b 0))) 52) = true
  · rw [if_pos last]
    refine ⟨fun j other => (others_mod j other).trans (noted_others _ j other), ?_⟩
    rw [iflActive, pp, noted, mip]
    refine ⟨rfl, rfl, rfl, rfl, fun _ _ => ⟨rfl, rfl, rfl, rfl, rfl⟩, fun first => ?_⟩
    rcases first with h | h <;> simp [h] at last
  · rw [if_neg last]
    refine ⟨noted_others _, ?_⟩
    rw [noted, mip]
    refine ⟨rfl, rfl, rfl, rfl, fun got seen => ?_, fun _ => ⟨rfl, starting⟩⟩
    rw [got, seen] at last
    exact absurd rfl last

end

theorem exec_malformedLeaf (stack : roleOf (getPort s p) = 5)
    (state : (getPort s p).ifl.st = .active ∨ (getPort s p).ifl.st = .init) (crc : leafCrcOk b = true) (bad : leafBad b = true) :
    Resets s p (.malformedLeaf p b) := by
  intro free runs
  refine ⟨iflProto s p, unitOk_next (decide_eq_true port) ((if_neg ?_).trans ((if_neg (by rw [crc]; decide)).trans (if_pos bad))),
    proto_rst s s p rfl rfl ⟨_, rfl⟩ free runs⟩
  rw [stack]
  rcases state with h | h <;> rw [h] <;> decide

/-! ## The replay timer -/

section
variable (stack : roleOf (getPort s p) = 5) (active : (getPort s p).ifl.st = .active) (timer : (getPort s p).ifl.timer = true)
include stack active timer

theorem exec_replayTimerExpiry : exec (.replayTimerExpiry p) s = .next (if 4 ≤ (getPort s p).ifl.expiries + 1 then
    enterRecovery (modIfl (modIfl s p f4) p fun y => { y with expiries := 0 }) p else modIfl (modIfl s p f4) p startPass) :=
  unitOk_next (decide_eq_true port) (if_neg (by rw [stack, active, timer]; decide))

omit port stack active timer in
/-- A replay pass, or its trigger ignored, leaves the event and the count of expiries. -/
theorem startPass_keeps (y : Ifl) : (startPass y).evReplay = y.evReplay ∧ (startPass y).expiries = y.expiries ∧
    (y.pass = [] → (startPass y).pass = y.replay.map fun l => l.seq) := by
  unfold startPass
  split
  · exact ⟨rfl, rfl, fun _ => rfl⟩
  · next runs => exact ⟨rfl, rfl, fun idle => absurd (by rw [idle]; rfl) runs⟩

theorem exec_replayTimerExpiry_pass (few : (getPort s p).ifl.expiries < 3) : ∃ t, exec (.replayTimerExpiry p) s = .next t ∧
    Others s t p ∧ (getPort t p).ifl.evReplay = true ∧ (getPort t p).ifl.expiries = (getPort s p).ifl.expiries + 1 ∧
    ((getPort s p).ifl.pass = [] → (getPort t p).ifl.pass = (getPort s p).ifl.replay.map fun l => l.seq) := by
  refine ⟨_, (exec_replayTimerExpiry port stack active timer).trans (congrArg _ (if_neg (by omega))), fun j other => ?_, ?_⟩
  · rw [mi, if_neg other, mi, if_neg other]
  · rw [mip, mip]
    exact startPass_keeps (f4 (getPort s p).ifl)

theorem exec_replayTimerExpiry_recovery (many : 3 ≤ (getPort s p).ifl.expiries) (mode : (getPort s p).mode = 5) :
    ∃ t, exec (.replayTimerExpiry p) s = .next t ∧ Others s t p ∧ (getPort t p).link = .recovery ∧ (getPort t p).ifl.expiries = 0 ∧
      (getPort t p).ifl.evRecovery = true :=
  ⟨_, (exec_replayTimerExpiry port stack active timer).trans (congrArg _ (if_pos (by omega))), timer4 s p mode⟩

end

/-! ## Recovery -/

theorem exec_notRecovery (not : (getPort s p).mode ≠ 5 ∨ (getPort s p).link ≠ .recovery) :
    exec (.iflRecoveryExit p) s = .next s ∧ exec (.iflLinkDownTimeout p) s = .next s := by
  have there := decide_eq_true port
  rcases not with h | h
  · exact ⟨unitOk_next there (if_pos (by simp [h])), unitOk_next there (if_neg (by simp [h]))⟩
  · exact ⟨unitOk_next there (if_pos (by simp [h])), unitOk_next there (if_neg (by simp [h]))⟩

variable (mode : (getPort s p).mode = 5) (recovery : (getPort s p).link = .recovery)
include mode recovery

theorem exec_iflRecoveryExit : ∃ t, exec (.iflRecoveryExit p) s = .next t ∧ Others s t p ∧ (getPort t p).link = .up ∧
    (getPort t p).ifl.st = .active ∧ (getPort t p).ifl.idleDue = true ∧
    (getPort t p).ifl.pass = (getPort s p).ifl.replay.map fun l => l.seq := by
  refine ⟨_, unitOk_next (decide_eq_true port) (if_neg (by rw [mode, recovery]; decide)), others_mod, ?_⟩
  rw [pp]
  exact ⟨rfl, rfl, rfl, rfl⟩

theorem exec_iflLinkDownTimeout : Resets s p (.iflLinkDownTimeout p) := fun free runs =>
  ⟨_, unitOk_next (decide_eq_true port) (if_pos (by rw [mode, recovery]; rfl)), iflDown_resets free runs⟩

end

/-- Settles O59: the leaves of an active link, its start, its timer, its recovery and its end. -/
theorem stackLinks : Obligations.StackLinks := by
  unfold Obligations.StackLinks
  refine ⟨fun s p b port => ⟨fun i row => ⟨exec_leaf_dead port row, exec_leaf_badCrc port row⟩,
    fun live crc formed => ⟨exec_leafIdle port live crc formed, exec_leafNak port live crc formed, fun i row => ?sequenced⟩⟩,
    fun s p b port => ⟨exec_notStack port, fun stack starting init => exec_leafInit_valid port stack init starting,
      fun stack starting init => exec_leafInit_invalid port stack init starting,
      fun stack active init => exec_leafInit_active port stack init active, exec_malformedLeaf port,
      fun stack active timer => ⟨exec_replayTimerExpiry_pass port stack active timer,
        exec_replayTimerExpiry_recovery port stack active timer⟩,
      fun mode recovery => ⟨exec_iflRecoveryExit port mode recovery, exec_iflLinkDownTimeout port mode recovery⟩,
      exec_notRecovery port⟩⟩
  case sequenced =>
    exact ⟨exec_seqLeaf_badCount port live crc formed row, exec_seqLeaf_duplicate port live crc formed row,
      exec_seqLeaf_gap port live crc formed row, exec_seqLeaf_next port live crc formed row⟩

end Sys2Proof.Proofs.StackLinks
end

section
/-!
SUPPORT. Proofs about errors in internal memories (R312 to R314, R36, R124).
-/

namespace Sys2Proof.Proofs.MemoryErrors

open Sys2Proof Sys2Proof.Machine Sys2Proof.Safety Sys2Proof.Laws.AboutMemErrors

variable {s : State}

/-! ## Corrections -/

section
variable {kind i m a y : Nat}

theorem exec_correctable_absent (absent : memThere s ⟨kind, i⟩ m = false) : exec (.correctableMemoryError kind i m a y) s = .next s :=
  unitOk_next rfl (if_neg (ne_true_of_eq_false absent))

theorem exec_correctable (there : memThere s ⟨kind, i⟩ m = true) : ∃ t, exec (.correctableMemoryError kind i m a y) s = .next t ∧
    onlyIn [.cmd, .seq, .cnt, .out] s t ∧ contextsKept s t ∧
    t.cnt.logs = (logMem s ⟨kind, i⟩ false m (a % 2 ^ 24) (y % 256)).cnt.logs :=
  ⟨_, unitOk_next rfl (if_pos there), correct_of s ⟨kind, i⟩ m (a % 2 ^ 24) (y % 256)⟩

end

/-! ## Uncorrectable errors, by memory -/

/-- A unit's own state: the index is the unit and 128 times the memory. -/
theorem exec_portState {p m n : Nat} (port : p < 96) :
    exec (.uncorrectableMemoryError .portState (p + 128 * m) n) s = .next (uePort s p m) := by
  have unit : (p + 128 * m) % 128 = p := by omega
  have memory : (p + 128 * m) / 128 = m := by omega
  refine unitOk_next rfl ?_
  dsimp only
  rw [unit, memory]
  exact if_pos port

/-- A word of the program store becomes bad. -/
theorem exec_programStore {i n : Nat} (there : i < 65536) : ∃ t, exec (.uncorrectableMemoryError .programStore i n) s = .next t ∧
    i ∈ t.seq.psBad ∧ onlyIn [.seq, .store, .cnt] s t := by
  have only : ∀ l : List Nat, onlyIn [.seq, .store, .cnt] s
      { logMem s (uBlock 5) true 0 i 0 with seq := { (logMem s (uBlock 5) true 0 i 0).seq with psBad := l } } := by
    intro l p other
    cases p <;> first | rfl | exact ⟨rfl, rfl⟩ | exact fun _ => ⟨fun _ => rfl, rfl, rfl, rfl, rfl⟩ | (simp at other)
  by_cases known : s.seq.psBad.contains i = true
  · exact ⟨_, unitOk_next rfl ((if_pos there).trans (if_pos known)), List.contains_iff_mem.1 known, only s.seq.psBad⟩
  · exact ⟨_, unitOk_next rfl ((if_pos there).trans (if_neg known)), List.mem_append_right _ (List.mem_singleton.2 rfl), only _⟩

/-- A route entry becomes invalid. -/
theorem exec_routeEntry {q i n : Nat} (quire : q < 12) (entry : i < 4096) :
    ∃ t, exec (.uncorrectableMemoryError .routeEntry (4096 * q + i) n) s = .next t ∧
      ∀ j, tget 0 (getQuire t q).route j =
        if j = i then setFld (tget 0 (getQuire s q).route i) 31 1 0 else tget 0 (getQuire s q).route j := by
  have table : (4096 * q + i) / 4096 = q := by omega
  have slot : (4096 * q + i) % 4096 = i := by omega
  have struck : ueRoute s (4096 * q + i) = stewEv (modQuire (logMem s ⟨1, q⟩ true 2 i 0) q fun x =>
      { x with route := tput 0 x.route i (setFld (tget 0 x.route i) 31 1 0) }) := by
    unfold ueRoute
    dsimp only
    rw [table, slot]
    exact if_neg (Nat.not_le.2 quire)
  refine ⟨_, unitOk_next rfl struck, fun j => ?_⟩
  rw [getQuire_congr ((stewEv_rel (ch := 4326402) rfl (.refl _)).f15 rfl), getQuire_modQuire, if_pos rfl]
  exact tget_tput ..

/-- A replication group becomes invalid. -/
theorem exec_replicationGroup {g n : Nat} (group : g < 1024) :
    ∃ t, exec (.uncorrectableMemoryError .replicationGroup g n) s = .next t ∧ bit (getRgrp t g).header 63 = false := by
  refine ⟨_, unitOk_next rfl (if_neg (Nat.not_le.2 group)), ?_⟩
  rw [getRgrp_congr ((stewEv_rel (ch := 4326402) rfl (.refl _)).f16 rfl), getRgrp_modRgrp, if_pos rfl, bit_eq, setFld_bits]
  simp

section
variable {i n : Nat}

/-- One copy of a table's entry is mended; both struck reset the device (R313). -/
theorem table_struck (block : Nat) {mem : IMem} (run : exec (.uncorrectableMemoryError mem i n) s = .next (ueTable s block n i)) :
    (n < 2 → ∃ t, exec (.uncorrectableMemoryError mem i n) s = .next t ∧ onlyIn [.cnt] s t) ∧
    (2 ≤ n → s.glb.inReset = false → ∃ t, exec (.uncorrectableMemoryError mem i n) s = .next t ∧ t.glb.inReset = true ∧
      t.glb.causeTableUe = true) :=
  ⟨fun one => ⟨_, run, (table_of s block n i).1 one⟩, fun both fresh => ⟨_, run, (table_of s block n i).2 both fresh⟩⟩

theorem exec_sheetTable (there : i < 24576) : exec (.uncorrectableMemoryError .sheetTable i n) s = .next (ueTable s 2 n i) :=
  unitOk_next rfl (if_pos there)

theorem exec_deckleTable (there : i < 8192) : exec (.uncorrectableMemoryError .deckleTable i n) s = .next (ueTable s 8 n i) :=
  unitOk_next rfl (if_pos there)

/-- A pace-history entry is lost. -/
theorem exec_paceHistory : ∃ t, exec (.uncorrectableMemoryError .paceHistory i n) s = .next t ∧ onlyIn [.pace, .cnt] s t ∧
    ∀ j : Nat, t.pace.hist[j]? = (s.pace.hist[j]?).map fun e => if j = i then 0 else e := by
  refine ⟨uePace s i, rfl, ?_, fun j => ?_⟩
  · intro p other
    cases p <;> first | rfl | exact ⟨rfl, rfl⟩ | exact fun _ => ⟨fun _ => rfl, rfl, rfl, rfl, rfl⟩ | (simp at other)
  · exact List.getElem?_mapIdx

end

/-- Settles O60: corrections, and each memory's consequence of an uncorrectable error. -/
theorem memoryErrors : Obligations.MemoryErrors := by
  unfold Obligations.MemoryErrors
  exact fun s => ⟨fun kind i m a y => ⟨exec_correctable_absent, exec_correctable⟩, fun m i n => ⟨_, rfl⟩,
    fun p m n port lead there free runs => ⟨_, exec_portState port, port_of s p m lead there free runs⟩,
    fun i n => exec_programStore, fun q i n quire entry => exec_routeEntry quire entry, fun g n => exec_replicationGroup,
    fun i n there => table_struck 2 (exec_sheetTable there), fun i n there => table_struck 8 (exec_deckleTable there),
    fun i n => exec_paceHistory⟩

end Sys2Proof.Proofs.MemoryErrors
end
